-- ==== Sys2Proof/Word.lean ====
section
/-! DEFINITION. The word types of the package and nothing else. -/

namespace Sys2Proof

/-- One byte. -/
abbrev Byte := BitVec 8

/-- A 32-bit register word. -/
abbrev Word := BitVec 32

/-- A 64-bit register or data word. -/
abbrev DWord := BitVec 64

/-- An address of the package address space (01 R17). -/
abbrev Addr := BitVec 48

end Sys2Proof
end

