-- ==== Sys2Proof/Syntax.lean ====
section
/-! DEFINITION. The commands the package takes: one constructor for each row of the table of operations and events,
with the row's operands, and the small types of those operands. What a command does is Sys2Proof.Machine.exec's. -/

namespace Sys2Proof

/-- Who makes a register access: the MID the fabric put in SRC, whether the request is in the privileged form (01 R29), and
    whether a read has its side effect; only a Ladder BUSACC peek read has none (00 Table 0.5, 20 R513). -/
structure Who where
  src : BitVec 12
  priv : Bool
  effect : Bool
deriving DecidableEq, Repr

/-- What a master asks its port to inject (07 R182 Table 7.3): the fields the master chooses. -/
structure Req where
  opc : BitVec 5
  addr : BitVec 48
  len : BitVec 8
  be : BitVec 64
  ord : Bool
  poison : Bool
  data : List (BitVec 8)
deriving DecidableEq, Repr

/-- A physical disturbance found by the access that reads one stored word: none, one bit, two bits; or a faulty address decoder, which returns
    the contents of another word (03 R80; 04 R114). -/
inductive Upset where
  | none | single | double
  | other (word : Nat)
deriving DecidableEq, Repr

/-- The disturbances a slice cycle may find: in the instruction word it fetches, and in the X and Y words it reads. -/
structure SliceUpset where
  instr : Upset
  x : Upset
  y : Upset
deriving DecidableEq, Repr

/-- What a port finds of a packet's flits that cannot be corrected (07 R178): nothing; an uncorrectable header; a side-band parity error; an
    uncorrectable data flit. -/
inductive FlitBad where
  | none | header | sideband | data
deriving DecidableEq, Repr

/-- The disturbance of a packet's flits as a port reads them (07 R178): in how many quarters one bit is wrong, and what cannot be corrected. -/
structure FlitUpset where
  corr : Nat
  bad : FlitBad
deriving DecidableEq, Repr

/-- The disturbance Leggett finds in a configuration frame (13 R358): words with one bit wrong, or an uncorrectable frame. -/
structure FrameUpset where
  singles : List Nat
  bad : Bool
deriving DecidableEq, Repr

/-- What a DRAM read finds (14 R387, 15 R403): nothing wrong, a corrected error, an uncorrectable error, an integrity tag that fails. -/
inductive DramUpset where
  | none | corrected | uncorrectable | tagBad
deriving DecidableEq, Repr

/-- The memories Leggett's memory scrub visits (13 R363). -/
inductive MemKind where
  | bram | gq | sliceX | sliceY | sliceI
deriving DecidableEq, Repr

/-- The requests a DMA channel issues (16 R416, R420, R421, R428). -/
inductive BeatKind where
  | read | readDst | write | readBack
deriving DecidableEq, Repr

/-- One command: a row of the table of operations and events with its operands. -/
inductive Instr where
  /-- REQUEST_INJECT (R18): A master port injects a request; the interface decodes ADDR, forms DEST, sets SRC, TAG and STAMP, and meters it. -/
  | requestInject (mid : BitVec 12) (rq : Req)
  /-- TARGET_REQUEST (R35): A request reaches the router port that feeds its target, is checked against the access table and is then acted on by the target. -/
  | targetRequest (node : Nat) (router : Nat) (port : Nat)
  /-- REGISTER_WRITE (R10): A write to any register without a row of its own acts as its access code states, or is answered TGTERR, DENIED or ignored. -/
  | registerWrite (w : Who) (addr : BitVec 48) (eight : Bool) (data : BitVec 64)
  /-- ACL_READ (R31): Mailbox command 0x0400 returns the 32 entries of one target's access table. -/
  | aclRead (m : Nat)
  /-- ACL_WRITE (R39): Mailbox command 0x0401 replaces 1 to 32 entries of one target's table atomically. -/
  | aclWrite (m : Nat)
  /-- BAY_RESTORE (R59): Mailbox command 0x0106 clamps and drains a bay, reloads INIT into its flip-flops and releases it. -/
  | bayRestore (m : Nat)
  /-- PROBE_SELECT (R72): Mailbox command 0x0110 writes PROBE_SEL_c of one channel on one die. -/
  | probeSelect (m : Nat)
  /-- PROBE_SEL_WRITE (R74): A write of PROBE_SEL_c changes the channel's tap within 4 sample cycles, or is answered TGTERR while armed for a buffer channel. -/
  | probeSelWrite (w : Who) (die : Nat) (ch : Nat) (data : BitVec 32)
  /-- PROBE_ARM (R76): ARM in PROBE_CTRL starts or restarts a circular capture. -/
  | probeArm (w : Who) (die : Nat) (data : BitVec 32)
  /-- PROBE_FORCE (R76): FORCE in PROBE_CTRL requests a trigger, held until PRETRIG samples are stored. -/
  | probeForce (w : Who) (die : Nat) (data : BitVec 32)
  /-- PROBE_TRIGGER (R76): After at least PRETRIG samples, a held or new trigger condition is taken and TRIG_IDX recorded. -/
  | probeTrigger (die : Nat)
  /-- PROBE_CAPTURE_DONE (R76): After 8,191 − PRETRIG further samples, DONE sets and ARMED clears. -/
  | probeCaptureDone (die : Nat)
  /-- PROBE_OVERSPEED (R71): A sample clock above 410 MHz sets OVERSPEED, stops the capture and holds the pin outputs. -/
  | probeOverspeed (die : Nat)
  /-- BRAM_READ (R80): A block memory port read checks the word's code, corrects a single-bit error or reports DBITERR. -/
  | bramRead (die : Nat) (mem : Nat) (portB : Bool) (addr : Nat) (u : Upset)
  /-- BRAM_WRITE_FULL (R83): A full-width block memory write stores the word with fresh check bits without checking it. -/
  | bramWriteFull (die : Nat) (mem : Nat) (portB : Bool) (addr : Nat) (data : BitVec 64)
  /-- BRAM_WRITE_NARROW (R82): A narrow write reads, checks, merges and writes back the word, or is refused with WREFUSED. -/
  | bramWriteNarrow (die : Nat) (mem : Nat) (portB : Bool) (addr : Nat) (data : BitVec 64) (be : BitVec 8) (u : Upset)
  /-- GQ_FABRIC_WRITE (R93): WEN on a WCLK edge stores an entry, overwriting the oldest held entry and counting LOST when the queue is full. -/
  | gqFabricWrite (die : Nat) (q : Nat) (data : BitVec 64)
  /-- GQ_FABRIC_POP (R91): REN with RVALID on an RCLK edge pops the presented entry. -/
  | gqFabricPop (die : Nat) (q : Nat) (u : Upset) (su : Upset)
  /-- GQ_WRITE_SEEN_READ (R92): A written entry becomes visible to the read side two to three RCLK edges after its write. -/
  | gqWriteSeenRead (die : Nat) (q : Nat)
  /-- GQ_POP_SEEN_WRITE (R92): A pop becomes visible to the write side's level two to three WCLK edges after it. -/
  | gqPopSeenWrite (die : Nat) (q : Nat)
  /-- GQ_PUSH (R103): An 8-byte write of GQ_PUSH stores an entry on a register write side. -/
  | gqPush (w : Who) (die : Nat) (q : Nat) (data : BitVec 64)
  /-- GQ_POP (R103): An 8-byte read of GQ_POP pops the oldest entry and sets GQ_POP_META, or returns 0 when empty. -/
  | gqPop (w : Who) (die : Nat) (q : Nat) (u : Upset) (su : Upset)
  /-- GQ_SNAP (R100): SNAP in GQ_CTRL latches all counters and the short stamp at one instant. -/
  | gqSnap (w : Who) (die : Nat) (q : Nat)
  /-- GQ_CLR_CNT (R101): CLR_CNT in GQ_CTRL clears READ, LOST and CORR and sets WRITTEN to LEVEL. -/
  | gqClrCnt (w : Who) (die : Nat) (q : Nat)
  /-- GQ_FLUSH (R94): FLUSH in GQ_CTRL marks at the flush edge every entry held for discard. -/
  | gqFlush (w : Who) (die : Nat) (q : Nat)
  /-- GQ_FLUSH_APPLY (R94): The read side applies the flush, removes the marked entries and adds their number to LOST. -/
  | gqFlushApply (die : Nat) (q : Nat)
  /-- GQ_MARKS_WRITE (R97): An 8-byte write of GQ_MARKS installs four thresholds or is ignored with MARK_ERR. -/
  | gqMarksWrite (w : Who) (die : Nat) (q : Nat) (data : BitVec 64)
  /-- MOVE (R143): Slice opcode 0x00 executes its two parallel moves only. -/
  | move (die : Nat) (sl : Nat) (u : SliceUpset)
  /-- MOVE_REG_REG (R142): Slice opcode 0x01 copies one coded register into another. -/
  | moveRegReg (die : Nat) (sl : Nat) (u : SliceUpset)
  /-- MOVE_IMM (R142): Slice opcodes 0x02–0x03 write a 25-bit immediate into a coded register. -/
  | moveImm (die : Nat) (sl : Nat) (u : SliceUpset)
  /-- CLR (R143): Slice opcode 0x04 clears an accumulator with flags, or a D register. -/
  | clr (die : Nat) (sl : Nat) (u : SliceUpset)
  /-- MPY (R145): Slice opcode 0x10 writes a product, optionally with CASIN, into an accumulator. -/
  | mpy (die : Nat) (sl : Nat) (u : SliceUpset)
  /-- MAC (R145): Slice opcode 0x11 adds a product into an accumulator. -/
  | mac (die : Nat) (sl : Nat) (u : SliceUpset)
  /-- MSU (R145): Slice opcode 0x12 subtracts a product from an accumulator. -/
  | msu (die : Nat) (sl : Nat) (u : SliceUpset)
  /-- MACR (R145): Slice opcode 0x13 accumulates a product and rounds the result. -/
  | macr (die : Nat) (sl : Nat) (u : SliceUpset)
  /-- DMAC_S (R146): Slice opcode 0x18 updates two accumulators from one shared coefficient. -/
  | dmacS (die : Nat) (sl : Nat) (u : SliceUpset)
  /-- DMAC_P (R146): Slice opcode 0x19 accumulates two paired products into two accumulators. -/
  | dmacP (die : Nat) (sl : Nat) (u : SliceUpset)
  /-- DMAC_A (R146): Slice opcode 0x1A adds the sum of two products into one accumulator. -/
  | dmacA (die : Nat) (sl : Nat) (u : SliceUpset)
  /-- DMAC_D (R146): Slice opcode 0x1B adds the difference of two products into one accumulator. -/
  | dmacD (die : Nat) (sl : Nat) (u : SliceUpset)
  /-- ADD (R148): Slice opcode 0x20 adds an operand to an accumulator. -/
  | add (die : Nat) (sl : Nat) (u : SliceUpset)
  /-- SUB (R148): Slice opcode 0x21 subtracts an operand from an accumulator. -/
  | sub (die : Nat) (sl : Nat) (u : SliceUpset)
  /-- ABS (R148): Slice opcode 0x22 writes the absolute value of an operand. -/
  | abs (die : Nat) (sl : Nat) (u : SliceUpset)
  /-- NEG (R148): Slice opcode 0x23 writes the negation of an operand. -/
  | neg (die : Nat) (sl : Nat) (u : SliceUpset)
  /-- RND (R150): Slice opcode 0x24 rounds an accumulator convergently at bit 24. -/
  | rnd (die : Nat) (sl : Nat) (u : SliceUpset)
  /-- SAT (R150): Slice opcode 0x25 limits an accumulator to its 24-bit result range. -/
  | sat (die : Nat) (sl : Nat) (u : SliceUpset)
  /-- SHL (R149): Slice opcodes 0x30–0x3F shift an operand left by 1 to 16 places. -/
  | shl (die : Nat) (sl : Nat) (u : SliceUpset)
  /-- SHR (R149): Slice opcodes 0x40–0x4F shift an operand right arithmetically. -/
  | shr (die : Nat) (sl : Nat) (u : SliceUpset)
  /-- MAX (R151): Slice opcode 0x50 keeps the larger of an accumulator and an aligned D register. -/
  | max (die : Nat) (sl : Nat) (u : SliceUpset)
  /-- MIN (R151): Slice opcode 0x51 keeps the smaller of an accumulator and an aligned D register. -/
  | min (die : Nat) (sl : Nat) (u : SliceUpset)
  /-- MAXI (R151): Slice opcode 0x52 keeps the strict maximum and records its origin in an index register. -/
  | maxi (die : Nat) (sl : Nat) (u : SliceUpset)
  /-- MINI (R151): Slice opcode 0x53 keeps the strict minimum and records its origin in an index register. -/
  | mini (die : Nat) (sl : Nat) (u : SliceUpset)
  /-- RESERVED_INSTRUCTION (R133): A reserved opcode or field value executes as a one-cycle NOP that changes only PC. -/
  | reservedInstruction (die : Nat) (sl : Nat) (u : SliceUpset)
  /-- LOOP_COUNT (R154): Slice opcode 0xF0 opens a loop level with an immediate count. -/
  | loopCount (die : Nat) (sl : Nat) (u : SliceUpset)
  /-- LOOP_REG (R154): Slice opcode 0xF1 opens a loop level with a count read from a register. -/
  | loopReg (die : Nat) (sl : Nat) (u : SliceUpset)
  /-- LOOP_END_FETCH (R118): A fetch of an open level's end address repeats the body and decrements the count, or closes the level when the count is spent. -/
  | loopEndFetch (die : Nat) (sl : Nat) (u : SliceUpset)
  /-- JMP (R155): Slice opcode 0xF2 transfers to TARGET after its delay slot, optionally closing a loop level. -/
  | jmp (die : Nat) (sl : Nat) (u : SliceUpset)
  /-- JCC (R155): Slice opcode 0xF3 transfers when its condition holds in D. -/
  | jcc (die : Nat) (sl : Nat) (u : SliceUpset)
  /-- CALL (R157): Slice opcode 0xF4 pushes the return address and transfers to TARGET. -/
  | call (die : Nat) (sl : Nat) (u : SliceUpset)
  /-- RET (R157): Slice opcode 0xF5 pops the return stack into PC. -/
  | ret (die : Nat) (sl : Nat) (u : SliceUpset)
  /-- WAITQ (R158): Slice opcode 0xF6 holds fetch and decode until its named stream conditions hold. -/
  | waitq (die : Nat) (sl : Nat) (u : SliceUpset)
  /-- WAITQ_RELEASE (R158): Once every named stream condition holds, the held fetch and decode resume. -/
  | waitqRelease (die : Nat) (sl : Nat)
  /-- TRAPRET (R159): Slice opcode 0xF7 returns to SL_TRAP.TPC and clears IN_TRAP. -/
  | trapret (die : Nat) (sl : Nat) (u : SliceUpset)
  /-- HALT (R160): Slice opcode 0xF8 enters DRAINING after its delay slot. -/
  | halt (die : Nat) (sl : Nat) (u : SliceUpset)
  /-- SLICE_INSTRUCTION_TRAP (R166): An uncorrectable instruction fetch cancels instructions, writes SL_TRAP and fetches IVEC. -/
  | sliceInstructionTrap (die : Nat) (sl : Nat)
  /-- SLICE_DATA_TRAP (R166): An uncorrectable X or Y read by a move cancels instructions, writes SL_TRAP and fetches DVEC. -/
  | sliceDataTrap (die : Nat) (sl : Nat) (x : Bool) (y : Bool)
  /-- SLICE_HALT_TAKEN (R125): A pending halt request is taken at the next instruction boundary not inside a delay slot and the slice enters DRAINING. -/
  | sliceHaltTaken (die : Nat) (sl : Nat)
  /-- SLICE_DRAIN_END (R125): The instructions in flight complete, the slice becomes HALTED and a held start begins. -/
  | sliceDrainEnd (die : Nat) (sl : Nat)
  /-- SL_START (R126): START in SL_CTRL starts a halted slice at SL_PC, or is held while it drains. -/
  | slStart (w : Who) (die : Nat) (sl : Nat) (halt : Bool)
  /-- SL_HALT (R127): HALT in SL_CTRL requests a halt of the slice. -/
  | slHalt (w : Who) (die : Nat) (sl : Nat)
  /-- SLG_START (R129): A write of SLG_START starts the masked slices on one SCLK edge. -/
  | slgStart (w : Who) (die : Nat) (g : Nat) (mask : BitVec 16)
  /-- SLG_HALT (R129): A write of SLG_HALT requests a halt of the masked slices on one SCLK edge. -/
  | slgHalt (w : Who) (die : Nat) (g : Nat) (mask : BitVec 16)
  /-- SL_PC_WRITE (R171): A write of SL_PC to a halted slice sets the next address and clears IN_TRAP. -/
  | slPcWrite (w : Who) (die : Nat) (sl : Nat) (data : BitVec 32)
  /-- SL_LOOP_ADDR_WRITE (R118): A write of SL_LOOPk_ADDR to a halted slice opens, rewrites or closes loop levels. -/
  | slLoopAddrWrite (w : Who) (die : Nat) (sl : Nat) (k : Nat) (data : BitVec 32)
  /-- SL_STACK_DEPTH_WRITE (R131): A write of SL_STACK_DEPTH sets the return-stack depth or is answered TGTERR above 4. -/
  | slStackDepthWrite (w : Who) (die : Nat) (sl : Nat) (data : BitVec 32)
  /-- SL_CORR_READ (R131): A read of SL_CORR returns the corrected-error counts and clears them. -/
  | slCorrRead (w : Who) (die : Nat) (sl : Nat)
  /-- SLICE_WINDOW_WRITE (R164): A write through the group window stores a whole slice memory word with fresh check bits. -/
  | sliceWindowWrite (w : Who) (die : Nat) (g : Nat) (off : Nat) (eight : Bool) (data : BitVec 64)
  /-- SLICE_WINDOW_READ (R164): A read through the group window returns a slice memory word, or TGTERR for instruction memory of a running slice. -/
  | sliceWindowRead (w : Who) (die : Nat) (g : Nat) (off : Nat) (eight : Bool) (u : Upset)
  /-- SLICE_STOLEN_CYCLE (R128): A Ridge access to slice memory unserved for 32 cycles freezes the slice for one cycle. -/
  | sliceStolenCycle (die : Nat) (sl : Nat)
  /-- SLICE_STREAM_IN (R120): The fabric hands a word to an input stream queue on a stream-clock edge. -/
  | sliceStreamIn (die : Nat) (sl : Nat) (i : Bool) (data : BitVec 24) (late : Bool)
  /-- SLICE_STREAM_OUT_POP (R120): The fabric pops the oldest output stream entry with OSn_READY. -/
  | sliceStreamOutPop (die : Nat) (sl : Nat) (i : Bool)
  /-- ROUTER_PACKET_ARRIVE (R192): A header flit is read from an input VC, checked, and routed with its exit chosen. -/
  | routerPacketArrive (node : Nat) (router : Nat) (port : Nat) (vc : Nat) (u : FlitUpset)
  /-- ROUTER_OUTPUT_GRANT (R197): A free output grants a packet whose downstream VC holds enough credits, real-time level first. -/
  | routerOutputGrant (node : Nat) (router : Nat) (port : Nat)
  /-- CREDIT_RETURN (R198): A returned credit increments the sender's SEND_CRED for its VC. -/
  | creditReturn (node : Nat) (router : Nat) (port : Nat) (vc : Nat)
  /-- LOCAL_PORT_DELIVER (R209): A packet's flits are delivered to a local port of its destination router. -/
  | localPortDeliver (node : Nat) (router : Nat) (port : Nat) (vc : Nat) (u : FlitUpset)
  /-- MASTER_RESPONSE (R205): A response reaches its master port and completes the outstanding request, or is discarded as late. -/
  | masterResponse (mid : BitVec 12)
  /-- REQUEST_TIMEOUT (R205): A request unanswered within the port timeout is answered TIMEOUT locally, raises PORT_TIMEOUT and its TAG is quarantined. -/
  | requestTimeout (mid : BitVec 12) (tag : BitVec 10)
  /-- TAG_QUARANTINE_END (R205): A quarantined TAG is freed after four timeout periods. -/
  | tagQuarantineEnd (mid : BitVec 12) (tag : BitVec 10)
  /-- RTR_RT_WRITE (R196): A write of RTR_RT_p sets the output's token bucket rate and cap and fills it. -/
  | rtrRtWrite (w : Who) (die : Nat) (router : Nat) (port : Nat) (data : BitVec 32)
  /-- RTR_CFG_WRITE (R206): A write of RTR_CFG sets sleep control and restarts the idle count. -/
  | rtrCfgWrite (w : Who) (die : Nat) (router : Nat) (data : BitVec 32)
  /-- RTR_SNAP (R200): SNAP in RTR_CTRL latches the router's credit counters. -/
  | rtrSnap (w : Who) (die : Nat) (router : Nat)
  /-- RTR_SNAP_DIE (R200): SNAP_DIE in RTR_CTRL latches the credit counters of every router of the die on one edge. -/
  | rtrSnapDie (w : Who) (die : Nat) (router : Nat)
  /-- RTR_CLR_CNT (R210): CLR_CNT in RTR_CTRL clears the router's error counters. -/
  | rtrClrCnt (w : Who) (die : Nat) (router : Nat)
  /-- ROUTER_IDLE_ENTRY (R206): After IDLE_DLY idle cycles a router gates its clock. -/
  | routerIdleEntry (node : Nat) (router : Nat)
  /-- ROUTER_WAKE (R207): WAKE from a sender brings an IDLE router back to accept flits within 40 ns. -/
  | routerWake (node : Nat) (router : Nat)
  /-- PORT_DRAIN_END (R203): Once every outstanding request of a drained bay port is answered or timed out, its credits are reset and checked. -/
  | portDrainEnd (die : Nat) (bay : Nat)
  /-- FLOW_ADMIT (R223): Mailbox command 0x0200 checks and computes a flow's bound and admits or refuses it. -/
  | flowAdmit (m : Nat)
  /-- FLOW_RELEASE (R226): Mailbox command 0x0201 stops a flow's meter at once. -/
  | flowRelease (m : Nat)
  /-- FLOW_RESERVATION_END (R226): A time T after release, the firmware lowers the flow's bucket settings and frees its FLOW_ID. -/
  | flowReservationEnd (fid : Nat)
  /-- FLOW_QUERY (R211): Mailbox command 0x0202 returns a flow's state, bound and counts. -/
  | flowQuery (m : Nat)
  /-- LANE_UP (R244): Mailbox command 0x0800 starts bring-up of a lane set, or holds it behind a shut-down. -/
  | laneUp (m : Nat)
  /-- LANE_DOWN (R244): Mailbox command 0x0801 shuts a lane set down to OFF, abandoning any bring-up. -/
  | laneDown (m : Nat)
  /-- LANE_TEST (R248): Mailbox command 0x0802 enters TEST with a PRBS pattern and loopback. -/
  | laneTest (m : Nat)
  /-- LANE_INJECT (R249): Mailbox command 0x0803 flips one line bit or starts or stops periodic flips. -/
  | laneInject (m : Nat)
  /-- LANE_PERIODIC_FLIP (R249): Every 2ⁿ bits a periodic injection flips one transmitted bit. -/
  | lanePeriodicFlip (key : Nat) (lane : Nat)
  /-- LANE_LP (R245): Mailbox command 0x0804 sets LP_SEL and the idle delays of a link. -/
  | laneLp (m : Nat)
  /-- LANE_CLEAR (R253): Mailbox command 0x0805 clears the lane error, PRBS, injection and fault counters. -/
  | laneClear (m : Nat)
  /-- LANE_PLL_LOCK (R241): The quad or lane PLL locks and the lane set enters DETECT or LOCK. -/
  | lanePllLock (key : Nat)
  /-- LANE_DETECT_PULSE (R236): Every 100 µs in DETECT a common-mode pulse senses the partner and moves enough detected lanes to TRAIN. -/
  | laneDetectPulse (key : Nat) (found : List Nat)
  /-- LANE_TRAIN_END (R237): The fixed TRAIN time ends and the lane set enters LOCK. -/
  | laneTrainEnd (key : Nat)
  /-- ORDERED_SET_RECEIVE (R235): A receiver takes a 16-symbol ordered set with a good check and acts on its type. -/
  | orderedSetReceive (key : Nat) (lane : Nat) (groups : Option (List (BitVec 10))) (boundary : Bool) (skew : Nat)
  /-- LANE_STATE_TIMEOUT (R241): A bring-up state outlives its limit and the lane set enters FAULT with the listed cause. -/
  | laneStateTimeout (key : Nat)
  /-- LANE_FAULT_RESTART (R242): After 1 ms in FAULT with an automatic cause, the lane set restarts at DETECT or LOCK. -/
  | laneFaultRestart (key : Nat)
  /-- LANE_SYMBOL_ERROR (R243): An invalid code group or disparity error is counted and marked bad; sixteen in 1 µs declare the lane lost. -/
  | laneSymbolError (key : Nat) (lane : Nat) (sym : Nat)
  /-- LANE_DRIFT (R232): Elastic-buffer pointers drifting over 3 symbols put the lane set into FAULT with cause DRIFT. -/
  | laneDrift (key : Nat) (lane : Nat) (drift : Nat)
  /-- LANE_LP1_ENTRY (R246): A transmitter idle for LP1_IDLE sends EIA and holds electrical idle. -/
  | laneLp1Entry (key : Nat)
  /-- LANE_LP1_EXIT (R246): A wake request sends the wake pattern and resumes frames within 200 ns. -/
  | laneLp1Exit (key : Nat) (missed : List Nat)
  /-- LANE_LP2_REQUEST (R247): The initiator, idle for LP2_IDLE, sends LQR sets to enter LP2. -/
  | laneLp2Request (key : Nat)
  /-- LANE_LP2_EXIT (R247): A wake request restarts PLLs and TSB exchange and returns the link to ACTIVE within 12 µs. -/
  | laneLp2Exit (key : Nat)
  /-- FRAME_SLOT (R258): At each frame slot a transmitter picks NAK, replay, LMSG or TAG, FLIT, CREDIT or IDLE and sends it. -/
  | frameSlot (key : Nat)
  /-- FRAME_RECEIVE (R260): A receiver checks a frame, accepts it in sequence or NAKs, and acts on its ACK and credits. -/
  | frameReceive (key : Nat) (raw : Option (List (List (BitVec 10))))
  /-- NAK_TIMEOUT (R260): NAK_TMO passes without the expected frame and a further NAK is sent. -/
  | nakTimeout (key : Nat)
  /-- REPLAY_TIMEOUT (R261): The oldest held frame waits REPLAY_TMO without ACK progress and replay starts; eight in a row give FAULT LINK. -/
  | replayTimeout (key : Nat)
  /-- RPR_RETRY_TIMEOUT (R266): RPA absent for 600 ns resends RPR; a third unanswered gives FAULT LINK. -/
  | rprRetryTimeout (key : Nat)
  /-- TOS_SEND (R269): At the first frame boundary after each whole microsecond a die sends TOS on each ACTIVE link. -/
  | tosSend (key : Nat)
  /-- LINK_DELAY_VALID (R298): After averaging over 1,024 TOS the receiver's LINK_DELAY becomes VALID. -/
  | linkDelayValid (key : Nat)
  /-- LINK_SHUTDOWN_STEP (R272): A shutting link, once its output and retry buffer are empty, sends LMSG DOWN. -/
  | linkShutdownStep (key : Nat)
  /-- LINK_DOWN_WAIT_END (R272): The partner's DOWN arrives or 10 µs pass and the link sends EIA and goes to OFF. -/
  | linkDownWaitEnd (key : Nat)
  /-- LINK_DRAIN_TIMEOUT (R272): A shut-down not drained within 100 µs discards what remains. -/
  | linkDrainTimeout (key : Nat)
  /-- GCAP_RECEIVE (R280): A guest GCAP is checked in order, answered with GACK, and accepted or sends the link to FAULT. -/
  | gcapReceive (key : Nat) (body : List (BitVec 8))
  /-- GCAP_TIMEOUT (R278): No GCAP within 1 ms of ACTIVE puts the guest link into FAULT with cause CAPS_TMO. -/
  | gcapTimeout (key : Nat)
  /-- GUEST_PACKET_RECEIVE (R281): The gateway checks, restamps, meters and forwards a guest packet, or answers, denies or discards it. -/
  | guestPacketReceive (key : Nat) (hdr : BitVec 512) (data : List (BitVec 8)) (poison : Bool)
  /-- HOST_REQUEST_RECEIVE (R277): An Eoset-X port rewrites a host request's SRC, TAG and header and forwards it, or answers TGTERR. -/
  | hostRequestReceive (port : Nat) (hdr : BitVec 512) (data : List (BitVec 8)) (poison : Bool)
  /-- CREDIT_STALL_TIMEOUT (R282): An output VC at a gateway or Eoset-X port held 100 µs without credits sends the link to FAULT LINK. -/
  | creditStallTimeout (key : Nat)
  /-- ORPHAN_EXPIRE (R283): An orphaned guest request clears 8 ms after its site's last link left ACTIVE. -/
  | orphanExpire (site : Nat)
  /-- LINK_SNAP (R284): SNAP in LINK_CTRL latches the link's credit counters. -/
  | linkSnap (w : Who) (key : Nat)
  /-- LINK_CLR_CNT (R284): CLR_CNT in LINK_CTRL clears the link error counters. -/
  | linkClrCnt (w : Who) (key : Nat)
  /-- PPS_PULSE (R291): A PPS pulse steps, steers or is rejected by the time master. -/
  | ppsPulse (pin : Bool) (ps : Nat)
  /-- PPS_LOSS_TIMEOUT (R291): 1.5 s without an accepted pulse puts the master into HOLDOVER. -/
  | ppsLossTimeout
  /-- TIME_LANE_LOCK (R292): After 10 ms of comparison within 0.1 ppm the LANE-sourced master becomes LOCKED. -/
  | timeLaneLock (milliHz : Nat)
  /-- TIME_APPLY_INSTANT (R294): At the programmed apply instant every die applies the new rate word or step. -/
  | timeApplyInstant
  /-- TIME_GET (R309): Mailbox command 0x0500 returns SEC, FRAC, MSTATE and SRC. -/
  | timeGet (m : Nat)
  /-- TIME_SET (R294): Mailbox command 0x0501 sets SEC for the next pulse, or schedules a step at an apply instant. -/
  | timeSet (m : Nat)
  /-- TIME_SOURCE (R290): Mailbox command 0x0502 selects the master's time source. -/
  | timeSource (m : Nat)
  /-- TIME_ADJ (R294): Mailbox command 0x0503 schedules a rate offset under SRC = 0. -/
  | timeAdj (m : Nat)
  /-- TIME_STATUS (R309): Mailbox command 0x0504 returns a die's alignment state, hops, parent and delays. -/
  | timeStatus (m : Nat)
  /-- TIME_PIN (R305): Mailbox command 0x0505 writes TP_CFG of one timing pin. -/
  | timePin (m : Nat)
  /-- TIME_NOTIFY (R308): Mailbox command 0x0506 sets up to 16 TIME packet destinations. -/
  | timeNotify (m : Nat)
  /-- TIME_PACKET_SEND (R308): Within 1 µs after each whole second the time base sends TIME packets to its destinations. -/
  | timePacketSend
  /-- ALIGN_MEASURE_TIMEOUT (R299): A die not in CAL within 2 ms of MEASURE returns to UNCAL and raises TIME_UNCAL. -/
  | alignMeasureTimeout (die : Nat)
  /-- PARENT_OK_UPDATE (R300): The gable controller chooses a die's parent and sets or clears PARENT_OK as the parent enters or leaves CAL. -/
  | parentOkUpdate (die : Nat)
  /-- TP_EDGE_CAPTURE (R306): A selected edge on a capture pin is recorded with its time into the FIFO and to the fabric. -/
  | tpEdgeCapture (die : Nat) (pin : Nat) (rise : Bool) (ps : Nat)
  /-- TP_CAP_POP (R306): An 8-byte read of TP_CAP pops one record and latches its SEC. -/
  | tpCapPop (w : Who) (die : Nat) (pin : Nat)
  /-- TP_SCHED_WRITE (R307): A write of TP_SCHED queues a scheduled edge or refuses it LATE, ORDER or FULL. -/
  | tpSchedWrite (w : Who) (die : Nat) (pin : Nat) (data : BitVec 64)
  /-- TP_FABRIC_SCHED (R307): SCH_VALID from the fabric queues a scheduled edge or pulses SCH_REFUSED. -/
  | tpFabricSched (die : Nat) (pin : Nat) (stamp : BitVec 32) (level : Bool)
  /-- TP_SCHED_EDGE (R307): At a queued entry's time the pin drives the entry's level. -/
  | tpSchedEdge (die : Nat) (pin : Nat)
  /-- TP_WIN_WRITE (R539): A write of TP_WIN_OPEN or TP_WIN_CLOSE expands the time against the die's time. -/
  | tpWinWrite (w : Who) (die : Nat) (pin : Nat) (close : Bool) (data : BitVec 64)
  /-- TP_FLUSH_CAP (R310): FLUSH_CAP in TP_CTRL empties the capture FIFO. -/
  | tpFlushCap (w : Who) (die : Nat) (pin : Nat)
  /-- TP_FLUSH_SCHED (R310): FLUSH_SCHED in TP_CTRL empties the schedule queue, counting entries as skipped. -/
  | tpFlushSched (w : Who) (die : Nat) (pin : Nat)
  /-- TP_CLR_CNT (R310): CLR_CNT in TP_CTRL clears TP_CNT. -/
  | tpClrCnt (w : Who) (die : Nat) (pin : Nat)
  /-- PORN_ASSERT (R66): PORn low disables every pad and resets the package. -/
  | pornAssert
  /-- PORN_RELEASE (R312): PORn rising samples the straps, raises REFOSC_EN and starts the OSCD count. -/
  | pornRelease (straps : BitVec 6)
  /-- OSCD_DELAY_END (R312): The OSCD count ends and the H-die asks whether REFCLK runs and starts its PLLs. -/
  | oscdDelayEnd (refclk : Bool)
  /-- SRSTN_ASSERT (R314): SRSTn low resets everything except the Sarking domain, Ladder and the fault log. -/
  | srstnAssert
  /-- SRSTN_RELEASE (R314): SRSTn rising restarts the boot at the gable core's reset address. -/
  | srstnRelease
  /-- BOOT_START (R332): The boot ROM reads fuses, starts links, and picks flash slots or waits for a pushed image as the straps direct. -/
  | bootStart (dev0 : Bool) (dev1 : Bool) (hdrA : List (BitVec 8)) (hdrB : List (BitVec 8))
  /-- SEGMENT_RECEIVE (R318): A whole segment is decrypted, its tag and trailer checked and the next key unwrapped. -/
  | segmentReceive (prog : Bool) (bytes : List (BitVec 8))
  /-- RECORD_YEALM_DEF (R328): Record type 0x01 stores a yealm. -/
  | recordYealmDef (prog : Bool)
  /-- RECORD_FRAME_LIT (R328): Record type 0x02 writes a literal frame. -/
  | recordFrameLit (prog : Bool)
  /-- RECORD_FRAME_PUT (R328): Record type 0x03 writes a yealm to a strided run of frames. -/
  | recordFramePut (prog : Bool)
  /-- RECORD_ZERO_RUN (R328): Record type 0x04 writes zeros to a run of frames. -/
  | recordZeroRun (prog : Bool)
  /-- RECORD_END (R329): Record type 0x05 ends the stream after checking the write count, ending P0. -/
  | recordEnd (prog : Bool)
  /-- WIPE_COMPLETE (R330): The configuration wipe of every F-die ends and records may be written. -/
  | wipeComplete
  /-- DIE_UNREACHABLE_TIMEOUT (R330): A die unreachable 10 ms after the load starts fails it with cause UNREACHABLE. -/
  | dieUnreachableTimeout (die : Nat)
  /-- PHASE_P1 (R333): Leggett microcode is loaded and the fabric clocks start with flip-flop enables held, or the load fails CLOCK. -/
  | phaseP1 (locked : Bool)
  /-- PHASE_P2 (R58): Every flip-flop loads INIT and all dies release at once. -/
  | phaseP2
  /-- PHASE_P3 (R67): User I/O bias is applied, timing and service pins take their settings. -/
  | phaseP3
  /-- P3_IO_ENABLE (R67): 1 µs after bias, output enables and inputs are released together. -/
  | p3IoEnable
  /-- PHASE_P4 (R333): After DRAM training ends, ports open, slices start, ID registers are written, marked links come up and CFG_DONE rises. -/
  | phaseP4
  /-- CFG_STATUS (R336): Mailbox command 0x0100 returns configuration status, causes, slot SEQs and frame count. -/
  | cfgStatus (m : Nat)
  /-- LOAD_IMAGE (R337): Mailbox command 0x0101 tears the package down and loads an image from the named source. -/
  | loadImage (m : Nat) (hdr : List (BitVec 8))
  /-- IMAGE_DATA (R338): Mailbox command 0x0102 appends 8–240 image bytes to the open load or program. -/
  | imageData (m : Nat)
  /-- SLOT_PROGRAM (R339): Mailbox command 0x0103 checks an image and writes it to a flash slot while the package runs. -/
  | slotProgram (m : Nat)
  /-- CFG_PUSH (R338): An 8-byte write of CFG_PUSH appends image bytes to a push load. -/
  | cfgPush (w : Who) (data : BitVec 64)
  /-- PUSH_TIMEOUT (R338): 10 s without a pushed byte fails the load with PUSH_TIMEOUT. -/
  | pushTimeout (prog : Bool)
  /-- BAY_LOAD (R350): Mailbox command 0x0104 checks a bay image, clamps and wipes the bay, writes its records and releases it. -/
  | bayLoad (m : Nat)
  /-- BAY_SHUTDOWN (R353): Mailbox command 0x0105 clamps a bay and ends it DOWN or, with WIPE, EMPTY. -/
  | bayShutdown (m : Nat)
  /-- BAY_ENABLE (R354): Mailbox command 0x0107 releases a DOWN bay, or repairs it if a fault is known. -/
  | bayEnable (m : Nat)
  /-- BAY_STATUS (R349): Mailbox command 0x0108 returns a bay's status, ID and counters. -/
  | bayStatus (m : Nat)
  /-- BAY_REPAIR_SRC (R361): Mailbox command 0x0109 records or clears a bay's repair source. -/
  | bayRepairSrc (m : Nat)
  /-- SCRUB_CTRL (R364): Mailbox command 0x010A sets Leggett's enables and scrub periods. -/
  | scrubCtrl (m : Nat)
  /-- LEGGETT_FRAME_READ (R357): In its time slot Leggett reads one configuration frame and corrects or reports it. -/
  | leggettFrameRead (die : Nat) (u : FrameUpset)
  /-- BAY_REPAIR_START (R360): The gable firmware repairs a bay with UE_KNOWN from its repair source, or shuts it down with NO_SOURCE. -/
  | bayRepairStart
  /-- LEGGETT_MEM_VISIT (R363): Every MEM_PERIOD / 4,096 Leggett visits one word of each memory in a free cycle, correcting or reporting it. -/
  | leggettMemVisit (die : Nat) (kind : MemKind) (idx : Nat) (u : Upset) (su : Upset) (freeCycle : Bool)
  /-- MEM_STATUS (R393): Mailbox command 0x0300 returns a channel's state, cause and counters. -/
  | memStatus (m : Nat)
  /-- MEM_UP (R377): Mailbox command 0x0301 trains, exits self-refresh or is held, per channel state. -/
  | memUp (m : Nat)
  /-- MEM_DOWN (R376): Mailbox command 0x0302 shuts a channel to DOWN or OFF, or abandons training. -/
  | memDown (m : Nat)
  /-- MEM_INIT (R391): Mailbox command 0x0303 fills a DRAM range with a pattern using a free DMA channel. -/
  | memInit (m : Nat)
  /-- MEM_REGION (R22): Mailbox command 0x0304 defines a DRAM access region. -/
  | memRegion (m : Nat)
  /-- MEM_MAP (R378): Mailbox command 0x0305 sets the interleave sets and hash masks. -/
  | memMap (m : Nat)
  /-- MEM_LP (R385): Mailbox command 0x0306 sets a channel's low-power permissions and idle delays. -/
  | memLp (m : Nat)
  /-- MEM_SCRUB (R392): Mailbox command 0x0307 sets SCRUB_HOURS and region SCRUB attributes. -/
  | memScrub (m : Nat)
  /-- MEM_CLR_CNT (R394): CLR_CNT in MEM_CTRL clears the channel's error counters. -/
  | memClrCnt (w : Who) (n : Nat)
  /-- MEM_TRAINING_DONE (R373): A channel's training steps complete and it becomes UP. -/
  | memTrainingDone (n : Nat)
  /-- MEM_TRAINING_TIMEOUT (R373): A channel not UP 250 ms after training starts enters FAULT TRAIN. -/
  | memTrainingTimeout (n : Nat) (trainStep : BitVec 4)
  /-- MEM_SHUTDOWN_END (R376): A SHUTTING channel completes its requests and ends DOWN or OFF, running a held MEM_UP. -/
  | memShutdownEnd (n : Nat)
  /-- MEM_SREF_EXIT_END (R376): An EXITING channel leaves self-refresh and becomes UP, then takes a held MEM_DOWN. -/
  | memSrefExitEnd (n : Nat)
  /-- DRAM_COMMAND_ISSUE (R382): A subchannel's scheduler picks and issues the next command-queue entry, panic ports first. -/
  | dramCommandIssue (n : Nat) (sub : Nat)
  /-- DRAM_READ_RETURN (R388): Read data returns, is checked, tag-checked and decrypted, and is answered OK, POISON or INTEG. -/
  | dramReadReturn (n : Nat) (sub : Nat) (u : DramUpset)
  /-- DRAM_REFRESH (R386): At each tREFI a rank is refreshed, or the refresh is owed during panic. -/
  | dramRefresh (n : Nat) (rank : Nat)
  /-- DRAM_MR4_POLL (R386): Every 16 ms MR4 of each rank is read and the refresh rate set. -/
  | dramMr4Poll (n : Nat) (need2x : Bool) (above : Bool) (rank : Nat)
  /-- ZQ_CALIBRATION (R374): Every 128 ms each rank runs ZQ calibration. -/
  | zqCalibration (n : Nat) (rank : Nat)
  /-- DQS_RETRACK (R374): Every 16 ms each rank retracks its DQS interval oscillator. -/
  | dqsRetrack (n : Nat) (rank : Nat)
  /-- DRAM_ALERT (R374): ALERT_n causes a re-issue of commands since the last good one; eight in a row give FAULT ALERT. -/
  | dramAlert (n : Nat)
  /-- DRAM_PD_ENTRY (R385): A channel idle for PD_IDLE enters power-down. -/
  | dramPdEntry (n : Nat)
  /-- DRAM_SREF_ENTRY (R385): A channel idle for SREF_IDLE enters self-refresh. -/
  | dramSrefEntry (n : Nat)
  /-- DRAM_PATROL_READ (R392): Patrol scrub reads the next line of a scrubbed region at lowest priority and corrects or logs it. -/
  | dramPatrolRead (n : Nat) (u : DramUpset)
  /-- KEY_LOAD (R412): Mailbox command 0x0310 unwraps and loads a memory key slot in the masked units. -/
  | keyLoad (m : Nat)
  /-- KEY_REGION (R395): Mailbox command 0x0311 defines a Flashing region in all units. -/
  | keyRegion (m : Nat)
  /-- KEY_LINK (R406): Mailbox command 0x0312 installs a link key, holding it as next key or restarting a link. -/
  | keyLink (m : Nat)
  /-- KEY_ERASE (R413): Mailbox command 0x0313 empties a key slot or erases a link key. -/
  | keyErase (m : Nat)
  /-- KEY_STATUS (R414): Mailbox command 0x0314 returns key slots, owners and link key state. -/
  | keyStatus (m : Nat)
  /-- DMA_GRANT (R417): Mailbox command 0x0320 grants a DMA channel to a holder MID. -/
  | dmaGrant (m : Nat)
  /-- DMA_RELEASE (R417): Mailbox command 0x0321 stops, clears and frees a granted channel. -/
  | dmaRelease (m : Nat)
  /-- DMA_QUERY (R417): Mailbox command 0x0322 returns a channel's status, grant and owner. -/
  | dmaQuery (m : Nat)
  /-- DMA_GO (R425): GO in DMA_CTRL promotes and starts the shadow set, commits it, or is held or refused. -/
  | dmaGo (w : Who) (c : Nat) (stop : Bool) (clear : Bool)
  /-- DMA_STOP (R425): STOP in DMA_CTRL moves an active channel to STOPPING. -/
  | dmaStop (w : Who) (c : Nat)
  /-- DMA_CLEAR (R425): CLEAR in DMA_CTRL returns a HALTED channel to IDLE. -/
  | dmaClear (w : Who) (c : Nat)
  /-- DMA_SNAP (R431): SNAP in DMA_CTRL latches the byte counters on one edge. -/
  | dmaSnap (w : Who) (c : Nat)
  /-- DMA_TIMED_START (R427): At START_AT a waiting channel begins its transfer. -/
  | dmaTimedStart (c : Nat)
  /-- DMA_BEAT_ISSUE (R416): A channel issues its next read or write beat when buffer room and request slots allow. -/
  | dmaBeatIssue (c : Nat) (kind : BeatKind)
  /-- DMA_BEAT_RESPONSE (R429): A beat's response completes it, schedules a retry, or halts the channel; the last completes DONE or the stop. -/
  | dmaBeatResponse (c : Nat)
  /-- DMA_RETRY_TIMER (R429): A failed beat's retry timer expires and the beat is issued again. -/
  | dmaRetryTimer (c : Nat) (tag : BitVec 10)
  /-- MBX_OPEN (R443): Mailbox command 0x0900 binds a new session to the mailbox. -/
  | mbxOpen (m : Nat)
  /-- MBX_CLOSE (R445): Mailbox command 0x0901 closes the session and frees everything it owns. -/
  | mbxClose (m : Nat)
  /-- MBX_HEARTBEAT (R444): Mailbox command 0x0902 restarts the session's heartbeat timer. -/
  | mbxHeartbeat (m : Nat)
  /-- MBX_SESSIONS (R446): Mailbox command 0x0903 lists open sessions from a start mailbox. -/
  | mbxSessions (m : Nat)
  /-- ID_GET (R446): Mailbox command 0x0000 returns the identification registers. -/
  | idGet (m : Nat)
  /-- FW_INFO (R446): Mailbox command 0x0001 returns firmware version, bundle and restart information. -/
  | fwInfo (m : Nat)
  /-- PORT_TIMEOUT (R447): Mailbox command 0x0203 sets a master port's response timeout. -/
  | portTimeout (m : Nat)
  /-- MBX_CPL_ACK (R440): A write of 1 to MBX_CPL_ACK releases the shown completion and shows the next. -/
  | mbxCplAck (w : Who) (m : Nat)
  /-- MBX_EVPOP (R491): An 8-byte read of MBX_EVPOP pops the oldest event record of the mailbox's outputs. -/
  | mbxEvpop (w : Who) (m : Nat)
  /-- HEARTBEAT_TIMEOUT (R444): A session silent for its heartbeat period times out, raises SESSION_TIMEOUT and closes. -/
  | heartbeatTimeout (m : Nat)
  /-- WATCHDOG_EXPIRE (R521): The 100 ms gable watchdog expires and restarts the gable subsystem. -/
  | watchdogExpire
  /-- GABLE_RESTART (R449): The gable subsystem restarts, restores firmware, checks its records and continues or closes sessions. -/
  | gableRestart (cause : BitVec 3) (fwAddr : BitVec 32) (restored : Bool) (recordsOk : Bool)
  /-- GABLE_SRAM_SCRUB (R448): Every 10 s the firmware scrubs gable SRAM. -/
  | gableSramScrub (u : Upset)
  /-- SPI_WRITE (R454): Service-SPI opcode 0x02 writes mailbox page words. -/
  | spiWrite (addr : BitVec 24) (bytes : List (BitVec 8))
  /-- SPI_READ (R454): Service-SPI opcode 0x0B reads mailbox page words. -/
  | spiRead (addr : BitVec 24) (len : Nat)
  /-- SPI_READ_STATUS (R454): Service-SPI opcode 0x05 returns and clears ERR and NOTIFY. -/
  | spiReadStatus
  /-- CLK_STATUS (R477): Mailbox command 0x0600 returns a clock node's source, state, frequency and failures. -/
  | clkStatus (m : Nat)
  /-- CLK_SELECT (R466): Mailbox command 0x0601 starts a glitch-free switch of a node's source and sets its fallback. -/
  | clkSelect (m : Nat)
  /-- CLKSW_FORCE (R467): Mailbox command 0x0602 forces a pending switch whose old source has failed. -/
  | clkswForce (m : Nat)
  /-- CLOCK_SWITCH_END (R466): The selector takes the new source's falling edge and the CLK_SELECT completes. -/
  | clockSwitchEnd (code : Nat)
  /-- CLOCK_NODE_FAIL (R462): At an AOCLK edge a node with no edges or a wrong count is declared failed, its safe states forced and a fallback taken. -/
  | clockNodeFail (code : Nat)
  /-- CLOCK_NODE_RUNNING (R463): After four good AOCLK periods a failed node is declared running again. -/
  | clockNodeRunning (code : Nat) (khz : BitVec 32)
  /-- AOCLK_FAIL (R457): No AOCLK edge within 100 µs by the RC oscillator declares AOCLK failed. -/
  | aoclkFail
  /-- PWR_SET (R471): Mailbox command 0x0603 moves an element or the package into a power state. -/
  | pwrSet (m : Nat)
  /-- PWR_PERMIT (R470): Mailbox command 0x0604 sets an element's deepest automatic state and idle delay. -/
  | pwrPermit (m : Nat)
  /-- PWR_STATUS (R477): Mailbox command 0x0605 returns an element's power state and wake count. -/
  | pwrStatus (m : Nat)
  /-- PWR_WAKE (R475): Mailbox command 0x0606 sets the package wake sources and alarm. -/
  | pwrWake (m : Nat)
  /-- ELEMENT_IDLE_ENTRY (R470): An element idle for 1 µs enters IDLE and after IDLE_US its deepest permitted state. -/
  | elementIdleEntry (kind : Nat) (die : Nat) (id : Nat) (idleOk : Bool)
  /-- POWER_ENTRY_END (R471): A NAP or DEEP entry completes and a held wake starts the exit. -/
  | powerEntryEnd (kind : Nat) (die : Nat) (id : Nat)
  /-- ELEMENT_WAKE (R472): A packet, wake input or PWR_SET wakes a sleeping bay or die. -/
  | elementWake (kind : Nat) (die : Nat) (id : Nat)
  /-- WAKE_EXIT_END (R472): A waking bay or die reclaims credits, loads INIT, releases and delivers its wake queue. -/
  | wakeExitEnd (kind : Nat) (die : Nat) (id : Nat)
  /-- PACKAGE_WAKE_SOURCE (R475): An enabled wake input or AOCLK failure wakes the package from DEEP. -/
  | packageWakeSource (source : Nat)
  /-- WAKE_ALARM (R475): The CP_ALARM time counted on AOCLK is reached and wakes the package. -/
  | wakeAlarm
  /-- PACKAGE_WAKE_END (R476): The package is rebuilt from retention, dies become ACTIVE and the PWR_SET completes. -/
  | packageWakeEnd
  /-- LOG_INFO (R485): Mailbox command 0x0700 returns the log's held count, indices and overwrite count. -/
  | logInfo (m : Nat)
  /-- LOG_READ (R485): Mailbox command 0x0701 returns up to seven log entries from an index. -/
  | logRead (m : Nat)
  /-- LOG_CLEAR (R485): Mailbox command 0x0702 removes log entries up to an index. -/
  | logClear (m : Nat)
  /-- LOG_ENTRY_WRITE (R482): The firmware takes an event from its intake queue and writes a log entry, overwriting the oldest when full. -/
  | logEntryWrite
  /-- RIDGE_STATUS (R446): Mailbox command 0x0806 returns an H-die router's counters and credits. -/
  | ridgeStatus (m : Nat)
  /-- EVENT_ROUTE (R491): The event router takes one raised event and copies it to every output whose mask holds its EVID. -/
  | eventRoute
  /-- FABRIC_EVENT_INPUT (R488): A pulse on a static-region event input raises FABRIC_EVENTn. -/
  | fabricEventInput (die : Nat) (n : Nat) (data : BitVec 32)
  /-- EVR_RAISE (R490): An 8-byte write of EVR_RAISE raises SW_EVENT n. -/
  | evrRaise (w : Who) (data : BitVec 64)
  /-- EVR_POP (R491): An 8-byte read of EVR_POP_k pops the output's oldest record, or is denied. -/
  | evrPop (w : Who) (k : Nat)
  /-- EVR_OUT_FLUSH (R494): FLUSH in EVR_OUT_CTRL_k discards the output's FIFO. -/
  | evrOutFlush (w : Who) (k : Nat)
  /-- EVR_OUT_CLR_LOST (R494): CLR_LOST in EVR_OUT_CTRL_k clears the output's LOST count. -/
  | evrOutClrLost (w : Who) (k : Nat)
  /-- SP_PIN_WRITE (R505): A write of SP_PIN_n starts a break-before-make change of the pin's function or options. -/
  | spPinWrite (w : Who) (n : Nat) (data : BitVec 32)
  /-- SP_PIN_SWITCH_DONE (R505): Two HCLK edges later the new options and function are connected and SWITCHING clears. -/
  | spPinSwitchDone (n : Nat)
  /-- GPIO_SET (R508): A write of GPIO_SET sets GPIO_OUT bits. -/
  | gpioSet (w : Who) (data : BitVec 32)
  /-- GPIO_CLR (R508): A write of GPIO_CLR clears GPIO_OUT bits. -/
  | gpioClr (w : Who) (data : BitVec 32)
  /-- UART_TX (R508): A write of UART_TX_u queues a byte or drops it with TX_DROP. -/
  | uartTx (w : Who) (n : Nat) (data : BitVec 32)
  /-- UART_RX (R508): A read of UART_RX_u pops one received byte. -/
  | uartRx (w : Who) (n : Nat)
  /-- UART_RX_BYTE (R499): A byte arrives on a UART RX pin and enters the receive FIFO or sets an error flag. -/
  | uartRxByte (n : Nat) (data : BitVec 8) (framing : Bool) (parity : Bool)
  /-- SPIC_XFER (R508): A write of SPIC_XFER_c starts an SPI controller transfer. -/
  | spicXfer (w : Who) (n : Nat) (data : BitVec 32)
  /-- SPIC_XFER_DONE (R499): An SPI controller transfer ends and BUSY clears. -/
  | spicXferDone (n : Nat) (bytes : List (BitVec 8))
  /-- SPIC_RX (R508): A read of SPIC_RX_c pops one received byte. -/
  | spicRx (w : Who) (n : Nat)
  /-- I2C_CMD (R508): A write of I2C_CMD_i starts an I2C read or write transfer. -/
  | i2cCmd (w : Who) (n : Nat) (data : BitVec 32)
  /-- I2C_XFER_DONE (R499): An I2C transfer ends, with NACK or ARB_LOST where they occurred. -/
  | i2cXferDone (n : Nat) (bytes : List (BitVec 8)) (nack : Bool) (arb : Bool)
  /-- I2C_RX (R508): A read of I2C_RX_i pops one received byte. -/
  | i2cRx (w : Who) (n : Nat)
  /-- PPS_OUT_PULSE (R501): At each whole second PPS out rises for WIDTH_MS unless LOCKED_ONLY blocks it. -/
  | ppsOutPulse
  /-- TRSTN_ASSERT (R509): TRSTn resets Ladder, its authorization and every clock stop, freeze and halt. -/
  | trstnAssert
  /-- EXTEST (R511): TAP instruction 0x00 drives and samples pins while no image runs. -/
  | extest (tap : Nat) (bits : BitVec 64)
  /-- IDCODE (R510): TAP instruction 0x01 selects the 32-bit IDCODE register. -/
  | idcode (tap : Nat)
  /-- SAMPLE_PRELOAD (R511): TAP instruction 0x02 samples the boundary without disturbing it. -/
  | samplePreload (tap : Nat) (bits : BitVec 64)
  /-- EXTEST_PULSE (R511): TAP instruction 0x03 performs IEEE 1149.6 pulse testing of lanes while no image runs. -/
  | extestPulse (tap : Nat) (bits : BitVec 64)
  /-- EXTEST_TRAIN (R511): TAP instruction 0x04 performs IEEE 1149.6 train testing of lanes while no image runs. -/
  | extestTrain (tap : Nat) (bits : BitVec 64)
  /-- CLAMP (R511): TAP instruction 0x05 holds the boundary outputs and selects bypass. -/
  | clamp (tap : Nat)
  /-- HIGHZ (R511): TAP instruction 0x06 turns pin drivers off and selects bypass. -/
  | highz (tap : Nat)
  /-- BUSACC (R513): TAP instruction 0x10 issues one privileged bus access as the Ladder master and captures its result. -/
  | busacc (dr : BitVec 128)
  /-- AUTH (R519): TAP instruction 0x11 takes a debug certificate byte by byte. -/
  | auth (data : BitVec 8)
  /-- AUTH_VERIFY_DONE (R519): Ladder's ECDSA engine finishes checking a certificate, sets AUTH or counts a failure, and renews the nonce. -/
  | authVerifyDone
  /-- WAKE (R510): TAP instruction 0x12 wakes the package from DEEP. -/
  | wake
  /-- BYPASS (R510): TAP instruction 0xFF, and every unlisted code, selects the bypass register. -/
  | bypass (tap : Nat) (code : BitVec 8)
  /-- LD_FCLK_STOP (R516): A write of LD_FCLK_STOP_d stops or restarts FCLK nets at their selectors. -/
  | ldFclkStop (w : Who) (die : Nat) (data : BitVec 32)
  /-- LD_FCLK_STEP (R516): A write of LD_FCLK_STEP passes COUNT edges to one stopped net. -/
  | ldFclkStep (w : Who) (data : BitVec 32)
  /-- LD_SLG_FREEZE (R517): A write of LD_SLG_FREEZE_d_w freezes or unfreezes slice groups on one SCLK edge. -/
  | ldSlgFreeze (w : Who) (die : Nat) (word : Nat) (data : BitVec 32)
  /-- LD_SLG_STEP (R517): A write of LD_SLG_STEP runs COUNT SCLK cycles of a frozen group. -/
  | ldSlgStep (w : Who) (data : BitVec 32)
  /-- LD_CAP_GO (R518): GO in LD_CAP_CTRL captures every flip-flop of a stopped bay, or sets REFUSED. -/
  | ldCapGo (w : Who) (data : BitVec 32)
  /-- LD_GABLE_HALT (R520): HALT in LD_GABLE_CTRL stops the gable core, deferring behind a held reservation. -/
  | ldGableHalt (w : Who)
  /-- LD_GABLE_HALT_FORCED (R520): After 256 GCLK cycles a deferred halt is forced and the reservation broken. -/
  | ldGableHaltForced
  /-- LD_GABLE_RUN (R520): RUN in LD_GABLE_CTRL restarts the gable core and reloads the watchdog. -/
  | ldGableRun (w : Who)
  /-- LD_GABLE_STEP (R520): STEP in LD_GABLE_CTRL runs one instruction of the halted core. -/
  | ldGableStep (w : Who)
  /-- VDD_DBG_LOSS (R509): Loss of VDD_DBG resets Ladder and clears authorization, stops, freezes and halts. -/
  | vddDbgLoss
  /-- SUPPLY_MONITOR_RESET (R528): A rail leaving tolerance while PORn is high resets the package within 5 µs. -/
  | supplyMonitorReset
  /-- THERMTRIP (R531): A die passing 125 °C drives THERMTRIPn low. -/
  | thermtrip (die : Nat)
  /-- USER_LANE_LOCK (R241): A user lane in LOCK that has seen 4 consecutive K28.5 at one boundary takes symbol lock and enters ACTIVE. -/
  | userLaneLock (key : Nat) (lane : Nat) (inverted : Bool)
  /-- PRBS_CHECKER_LOCK (R248): In TEST the PRBS checker, after 64 consecutive correct received bits, sets PRBS_LOCK and starts counting errors and bits. -/
  | prbsCheckerLock (key : Nat) (lane : Nat) (bits : Option (List Bool))
  /-- PRBS_CHECKER_UNLOCK (R248): A locked PRBS checker that sees 32 or more errors in 64 bits clears PRBS_LOCK and searches again. -/
  | prbsCheckerUnlock (key : Nat) (lane : Nat) (wrong : BitVec 64)
  /-- DRAM_LP_EXIT (R385): A channel woken from PD or SREF by a request completes its 50 ns or 12 µs exit and serves the waiting request. -/
  | dramLpExit (n : Nat)
  /-- SUPPLY_RETURN (R528): A rail that left tolerance returns and, after 1 ms in tolerance, the package boots again as at PORn. -/
  | supplyReturn
  /-- VDD_DBG_RETURN (R509): VDD_DBG comes back and Ladder's power-on detector resets Ladder, its TAP and its nonce. -/
  | vddDbgReturn
  /-- SLOT_PROGRAM_END (R339): Once the last segment is checked, the header is written to flash and SLOT_PROGRAM completes OK, or completes FAULT with the cause. -/
  | slotProgramEnd
  /-- USER_LANE_TXIDLE (R245): A user lane's transmitter enters LP1 while the fabric holds TXIDLE = 1, and leaves LP1 when the fabric lowers it. -/
  | userLaneTxidle (key : Nat) (lane : Nat) (on : Bool)
deriving DecidableEq, Repr

end Sys2Proof
end

