-- ==== Sys2Proof/Decode.lean ====
section
/-! DEFINITION. The words of the table of operations and events. The table gives no row bits: a command reaches the package as a
register access, a packet, an edge of a pin or a clock, not as a word, so no word spells one. -/

namespace Sys2Proof

/-- The command a word spells by the table's bits: none, since no row of the table has bits. -/
def decodeTableWord (_nbits _w : Nat) : Option Instr := none

end Sys2Proof
end

