-- ==== Sys2Proof/Config.lean ====
section
/-! DEFINITION. What the spec leaves open, as constants with no body: nothing in Lean can evaluate one or prove a value of it. -/

namespace Sys2Proof

/-- A signal of an F-die's fabric, as an image's netlist names it (02 R47 to R53, R62). Cell i of the cluster in column c and row r, counted
    from the west and the south, is number 16 x (256 x c + r) + i. -/
inductive Net where
  /-- no routing drives it -/
  | floating
  | const (b : Bool)
  /-- output O6 of a cell: of its LUT, or of the wide multiplexer that ends there (02 R47, R50) -/
  | o6 (cell : Nat)
  /-- outputs O5A and O5B of a split LUT (02 R48) -/
  | o5a (cell : Nat)
  | o5b (cell : Nat)
  /-- sum and CO of a cell's carry bit (02 R49) -/
  | sum (cell : Nat)
  | co (cell : Nat)
  /-- flip-flops FFA and FFB (02 R47) -/
  | ffa (cell : Nat)
  | ffb (cell : Nat)
  /-- what user I/O pin p passes to the fabric: bit k of its input register or deserializer, bit 0 otherwise (02 R63, R66) -/
  | pin (p k : Nat)
  /-- border slot k of a bay, outgoing or incoming (02 R53) -/
  | slotOut (bay k : Nat)
  | slotIn (bay k : Nat)
  /-- output i of a port of block memory m: read data 0 to 63, SBITERR, DBITERR, WREFUSED (03 R79) -/
  | bram (m : Nat) (portB : Bool) (i : Nat)
  /-- output i of gutter queue q: RDATA 0 to 63, RVALID, RPOISON, RCOARSE, HI, LO, then RSTAMP (03 R91, R96) -/
  | queue (q i : Nat)
  /-- output i of a serial lane: RXD 0 to 31, RXK, RXERR, RXALIGNED (09 R251) -/
  | lane (n i : Nat)
  /-- output k of any other hard block: slice streams, fabric ports, timing pins -/
  | hard (k : Nat)
deriving DecidableEq, Repr, Inhabited

/-- Where a flip-flop takes its D input (02 R47, R48). -/
inductive DSel where
  | o6 | o5a | o5b | sum | bypass
deriving DecidableEq, Repr, Inhabited

/-- What an image sets in a logic cell (02 R47 to R51). -/
structure CellCfg where
  /-- the LUT6: O6 for the inputs I5 to I0 read as a number; split, O5A is its lower half and O5B its upper (02 R47, R48) -/
  lut : BitVec 64
  split : Bool
  /-- what drives I0 to I5 -/
  ins : List Net
  /-- D input of FFA and FFB, and the routing input that bypasses the LUT -/
  dA : DSel
  dB : DSel
  byp : Net
  /-- the carry chain comes on from the cell before; else CI is from routing (02 R49) -/
  chain : Bool
  ci : Net
  /-- wide-multiplexer stages that end at this cell, 0 to 4, and their select inputs S2 to S5 (02 R50 Table 2.1) -/
  stages : Nat
  sel : List Net
  /-- INIT and RSTVAL of each flip-flop (02 R51, R58) -/
  initA : Bool
  initB : Bool
  rstA : Bool
  rstB : Bool
deriving DecidableEq, Repr, Inhabited

/-- A control set: half a cluster's clock, clock enable and set/reset (02 R51). -/
structure CtlSet where
  clk : BitVec 5
  inv : Bool
  ce : Net
  sr : Net
  async : Bool
deriving DecidableEq, Repr, Inhabited

/-- I/O registers of a user I/O cell; the serializers on a differential pair alone (02 Table 2.4). -/
inductive IoReg where
  | none | sdr | ddr | by4 | by8
deriving DecidableEq, Repr, Inhabited

/-- Differential use of a pair (02 Table 2.4): none, SLVS-400 in or out, LVDS input levels. -/
inductive DiffStd where
  | none | slvsIn | slvsOut | lvdsIn
deriving DecidableEq, Repr, Inhabited

/-- What an image sets in a user I/O cell (02 R63 Table 2.4, R68); of a differential pair the cell of the even pin counts (02 R65). -/
structure PinCfg where
  diff : DiffStd
  /-- 100 ohm termination of a differential input -/
  term : Bool
  /-- 4, 8, 12 or 16 mA as 0 to 3; SLOW, MEDIUM, FAST as 0 to 2 -/
  drive : Nat
  slew : Nat
  bias : Nat
  reg : IoReg
  /-- input delay, taps of 5 ps -/
  delay : BitVec 7
  safe : Nat
  /-- FCLK net of its registers, or the one the design names -/
  net : BitVec 5
  /-- what the design drives: the level, or the words of its register, and the output enable -/
  outs : List Net
  oe : Net
  /-- initial value of its output register -/
  init : Bool
  /-- the probe channel it is reserved for -/
  probe : Option (BitVec 6)
deriving DecidableEq, Repr, Inhabited

/-- What an image sets in an FPLL: the VCO as a ratio of the reference, and the divider less 1 of each output (02 R54). -/
structure FpllCfg where
  num : Nat
  den : Nat
  div : List (BitVec 7)
deriving DecidableEq, Repr, Inhabited

/-- The value of an undefined result: the n-th one drawn since power-on. -/
opaque Config.freeValue : Nat → BitVec 64

/-- LD_NONCE: the n-th random value drawn (20 R519). -/
opaque Config.nonce : Nat → BitVec 64

/-- The transmit preset the receiver of a lane asks of its partner, by lane set, lane and instant (09 R237). -/
opaque Config.ffeReq : Nat → Nat → Nat → BitVec 3

/-- The seed of a lane's PRBS generator, by lane set and lane (09 R248). -/
opaque Config.prbsSeed : Nat → Nat → List Bool

/-- The word a user lane receives from its partner: data and K bits, by lane set, lane and instant (09 R251). -/
opaque Config.lineWord : Nat → Nat → Nat → BitVec 36

/-- The FCLK net of a user lane and the nets that drive TXD, TXK and TXIDLE, by image, die and lane (09 R251). -/
opaque Config.imageLaneNet : BitVec 64 → Nat → Nat → BitVec 5 × List Net

/-- The SRC an F-die's control port puts in its EVENT packets: 01 R26 lists no MID for it. -/
opaque Config.controlPortSrc : Nat → BitVec 12

/-- The data bits of the unwritten mark of a block memory (03 R85): a fixed pattern the spec does not give. -/
opaque Config.unwrittenMark : BitVec 64

/-- The bay a tap lies in and the bay image it was compiled with, by bundle, die and tap (02 R75); none for a tap of the static region. -/
opaque Config.imageTapBay : BitVec 64 → Nat → Nat → Option (Nat × BitVec 64)

/-- What an image sets in a slice: start address, MODE, IVEC and DVEC, by image, die and slice (04 R129, Table 4.5). -/
opaque Config.imageSlice : BitVec 64 → Nat → Nat → BitVec 10 × BitVec 2 × BitVec 10 × BitVec 10

/-- What an image sets in SLG_CFG: STREAM_CLK and AUTOSTART, by image, die and group (04 Table 4.6). -/
opaque Config.imageGroup : BitVec 64 → Nat → Nat → BitVec 5 × BitVec 16

/-- Whether an image uses a serial lane, and the N and D code of its quad, by image, die and lane (09 R229, R231). -/
opaque Config.imageLane : BitVec 64 → Nat → Nat → Bool × BitVec 8 × BitVec 2

/-- What an image sets in a gutter queue, by image, die and queue (03 R89, Table 3.6, Table 3.9): USED, STAMP_EN, WCLK_SEL, RCLK_SEL,
    GQ_MARKS, and the bays that feed it and read it. -/
opaque Config.imageGq : BitVec 64 → Nat → Nat → Bool × Bool × BitVec 6 × BitVec 6 × BitVec 64 × Option Nat × Option Nat

/-- What an image sets in a block memory, by image, die and number (03 R78, R79): the mode, and of each port its use, its FCLK net and whether its
    read latency is 2. -/
opaque Config.imageBram : BitVec 64 → Nat → Nat → Nat × (Nat × BitVec 5 × Bool) × (Nat × BitVec 5 × Bool)

/-- The columns of a set of address bits sum to zero in the check matrix (03 R80; 04 R114). -/
opaque Config.columnsCancel : Nat → Bool

/-- The tap count and the reserved pins of a die's probe channels under an image (02 Table 2.6). -/
opaque Config.imageProbe : BitVec 64 → Nat → Nat × BitVec 64

/-- The tap, EN and DEST that an image sets for a probe channel, by image, die and channel (02 Table 2.9). -/
opaque Config.imageProbeSel : BitVec 64 → Nat → Nat → BitVec 12 × Bool × Bool

/-- What an image sets in a user I/O cell, by image, die and pin (02 R63, R68). -/
opaque Config.imagePin : BitVec 64 → Nat → Nat → PinCfg

/-- Whether a full image gives a bay content, and its FCLK enables and border settings, by image, die and bay (13 R342, Table 13.8). -/
opaque Config.imageBay : BitVec 64 → Nat → Nat → Bool × BitVec 32 × BitVec 64

/-- Whether an image uses a clock node of types 0xD and 0xE, and its source and fallback, by image and node code (12 Table 12.13). -/
opaque Config.imageClock : BitVec 64 → Nat → Bool × BitVec 6 × BitVec 6

/-- What an image sets in an FPLL, by image, die and FPLL (02 R54). -/
opaque Config.imageFpll : BitVec 64 → Nat → Nat → FpllCfg

/-- The frequency in kHz the board gives a clock-capable input, by die and bank (02 R54, R62). -/
opaque Config.inputKhz : Nat → Nat → BitVec 32

/-- What an image sets in a logic cell, by image, die and cell (02 R47 to R51). How its frames carry it is Balten's. -/
opaque Config.imageCell : BitVec 64 → Nat → Nat → CellCfg

/-- What an image sets in a control set, by image, die and 2 x cluster + half (02 R51). -/
opaque Config.imageCtl : BitVec 64 → Nat → Nat → CtlSet

/-- What drives border slot k of a bay: from its logic outwards (true) or from the static region inwards, by image, die, bay (02 R53). -/
opaque Config.imageSlot : BitVec 64 → Nat → Nat → Bool → Nat → Net

/-- The net behind a tap, by image, die and tap (02 R72, R75). -/
opaque Config.imageTap : BitVec 64 → Nat → Nat → Net

/-- The FCLK net of a die's event inputs, by image and die (19 R488). -/
opaque Config.imageEvNet : BitVec 64 → Nat → BitVec 5

/-- What a TAP's boundary register drives on a pad, by its contents, die and pin; none for high impedance. Its layout is in BSDL files
    (20 R510, R511). -/
opaque Config.boundaryPad : BitVec 64 → Nat → Nat → Option Bool

/-- The flip-flop, numbered in its bay, that a capture shows at bit i: Balten's location file (20 R518). -/
opaque Config.captureFf : BitVec 64 → Nat → Nat → Nat

/-- Trace delay in ps of a lane of a link, by key of the receiving end and lane, fused at package test, and the fixed receive latency in ps
    (11 R298). -/
opaque Config.traceDelay : Nat → Nat → Nat
opaque Config.rxLatency : Nat

/-- The supply of an I/O bank in tenths of a volt, by die and bank: 1.0, 1.2, 1.5 or 1.8 V (02 R62). -/
opaque Config.vccio : Nat → Nat → Nat

/-- Levels the spec gives no source for, at an instant: what the board drives on a pad (die, pin; die 8 for the service pins), a net that no routing drives, an output
    of a hard block (die, output), a net in a combinational loop, CI of a chain that begins in the southernmost cluster of its region
    (02 R49), a pad behind a serializer. -/
opaque Config.boardLevel : Nat → Nat → Nat → Bool
opaque Config.openLevel : Nat → Nat → Bool
opaque Config.hardLevel : Nat → Nat → Nat → Bool
opaque Config.loopLevel : Nat → Nat → Bool
opaque Config.southCi : Nat → Nat → Bool
opaque Config.serialLevel : Nat → Nat → Nat → Bool

/-- What a flip-flop of undefined contents holds, by the free value drawn when it lost them, die and flip-flop. -/
opaque Config.undefLevel : Nat → Nat → Nat → Bool

end Sys2Proof
end

