-- ==== Sys2Proof/Machine/State.lean ====
section
/-! DEFINITION. The state of the package as plain data: every register, memory, queue, counter, mode and latch the spec
gives it, the waiting commands, the reset value of each field, and the reasons a step can stop.
A field's docstring names the chapter and rule of spec/ that gives it; a field whose reset value the spec does not give says so. -/

namespace Sys2Proof.Machine

/-- A table keyed by number: keys strictly rising, no entry equal to the table's default. -/
abbrev Tab (V : Type) := List (Nat × V)

/-- The parts of the family (00 R3, R4). -/
inductive Part where
  | fgn2 | fgn2g | fgn4 | fgn4g | fgn8
deriving DecidableEq, Repr

/-- Safe state option of a user I/O pin (02 R63 Table 2.4, R68). -/
inductive SafeState where
  | highz | zero | one | hold
deriving DecidableEq, Repr

/-- Bias option of a user I/O pin (02 Table 2.4). -/
inductive Bias where
  | none | keeper | up | down
deriving DecidableEq, Repr

/-- What a pad output does. -/
inductive PadDrive where
  | z | low | high
deriving DecidableEq, Repr

/-- Pad condition of the user I/O of a die, the rows of Table 2.5 that a die as a whole enters (02 R66, R67, R69). -/
inductive PadPhase where
  | disabled | biased | enabled | latched
deriving DecidableEq, Repr

/-- Modes of a block memory (03 Table 3.1). -/
inductive BramMode where
  | k1 | k2 | k4
deriving DecidableEq, Repr

/-- Use of a block memory port (03 R79). -/
inductive PortKind where
  | ro | wo | rw
deriving DecidableEq, Repr

/-- How a stored word stands against its check bits: good; one bit wrong; two bits wrong (detected, not corrected);
    the uncorrectable mark a refused narrow write or a poisoned store leaves. -/
inductive Health where
  | good | single | double | mark
deriving DecidableEq, Repr

/-- SL_STATUS.STATE (04 Table 4.10). -/
inductive RunState where
  | halted | running | waiting | draining
deriving DecidableEq, Repr

/-- Ridge message classes (07 Table 7.1). -/
inductive MsgClass where
  | req | rsp | pwr | evt
deriving DecidableEq, Repr

/-- LANE_STATUS.STATE (09 Table 9.2). -/
inductive LaneState where
  | off | detect | train | lock | caps | active | fault
deriving DecidableEq, Repr

/-- TB_STATUS.MSTATE (11 Table 11.8). -/
inductive MState where
  | free | locked | holdover
deriving DecidableEq, Repr

/-- TD_STATUS.STATE (11 R299). -/
inductive AlignState where
  | uncal | measure | cal | off
deriving DecidableEq, Repr

/-- CFG_STATUS.PHASE (12 Table 12.11). -/
inductive Phase where
  | boot | p0 | p1 | p2 | p3 | running | recovery | teardown
deriving DecidableEq, Repr

/-- What the flip-flops of a bay or of the static region hold: undefined contents, with the free value drawn when they were lost; or defined
    ones, each at the INIT of its image but for those the table lists, by flip-flop (02 R58, R61). -/
inductive FlipFlops where
  | undef (seed : Nat)
  | held (diff : Tab Bool)
deriving DecidableEq, Repr

/-- BAY_STATUS.STATE (13 Table 13.2). -/
inductive BayState where
  | empty | active | loading | restoring | shutting | down | deep
deriving DecidableEq, Repr

/-- MEM_STATUS.STATE (14 Table 14.3). -/
inductive ChanState where
  | off | training | up | shutting | down | fault | exiting
deriving DecidableEq, Repr

/-- DMA_STATUS.STATE (16 Table 16.3). -/
inductive DmaState where
  | idle | wait | busy | readback | stopping | halted
deriving DecidableEq, Repr

/-- GSTATE (17 Table 17.3). -/
inductive GState where
  | running | restarting | halted | recovery | failed
deriving DecidableEq, Repr

/-- CLK_NODE.STATE (18 Table 18.11). -/
inductive NodeState where
  | stopped | running | failed | switching | holdover | starting
deriving DecidableEq, Repr

/-- Power states of an element (18 R469). -/
inductive PowerState where
  | active | idle | nap | deep
deriving DecidableEq, Repr

/-- Whether an element is between power states (18 Table 18.13). -/
inductive PowerPhase where
  | steady | entering | waking
deriving DecidableEq, Repr

/-- CP_STATUS.PKG, with the package in DEEP itself (18 Table 18.12, R474). -/
inductive PkgPower where
  | active | entering | deep | waking
deriving DecidableEq, Repr

/-- What an image stream is for (12 R332, R339; 13 R350, R360). -/
inductive StreamUse where
  | full | bay | repair | program
deriving DecidableEq, Repr

/-- One stored word of a block memory: its data, its standing, and the raw data of a word with wrong bits (03 R80, R81, R85). -/
structure BramWord where
  data : BitVec 64
  health : Health
  raw : BitVec 64
deriving DecidableEq, Repr

/-- A change of package time awaiting its apply instant (11 R294): the instant on the package time before the change,
    the step in 2^-80 s, zero where there is none, the new rate word where there is one, and the request token that waits for OK. -/
structure PendTime where
  applyAt : Nat
  stepBy : Int
  setTo : Option Nat
  rate : Option Nat
  mbx : Option Nat
deriving DecidableEq, Repr

/-- A LANESET record of the board descriptor (12 Table 12.13). -/
structure LaneDecl where
  kind : Nat
  die : Nat
  id : Nat
  flags : BitVec 8
  cfg : List (BitVec 8)
deriving DecidableEq, Repr

/-- A port record of the board descriptor's DRAM_MAP entry (12 R326). -/
structure PortDecl where
  ch : Nat
  port : Nat
  rt : Bool
  panicTh : BitVec 5
  midVal : BitVec 12
  midMask : BitVec 12
deriving DecidableEq, Repr

/-- A bay command held behind a running shut-down (13 R356): its request token, sequence and the command with its argument bytes. -/
structure HeldBay where
  mbx : Nat
  cmd : BitVec 16
  seq : BitVec 16
  arg : List (BitVec 8)
deriving DecidableEq, Repr

/-- What one 64-byte DRAM line holds beside its bytes (14 R387, R390, R391): nothing written yet; a good code and, in mode B, the 64 tag bits;
the poison mark; a code that fails uncorrectably. -/
inductive LineState where
  | unwritten
  | good (tag : BitVec 64)
  | poison
  | bad
deriving DecidableEq, Repr

/-- A MEM_INIT fill in progress on a DMA channel (14 R391): its request token, its range, the next address to fill and the pattern. -/
structure MemFill where
  mbx : Nat
  base : Nat
  limit : Nat
  pos : Nat
  pattern : BitVec 64
deriving DecidableEq, Repr

/-- A register write that an instruction of a slice lands in stage WB (05 R134, Table 5.2): the register code and the bits. -/
structure WbWrite where
  reg : Nat
  val : BitVec 56
deriving DecidableEq, Repr

/-- Every credit of a partner of depth 64 spent, on each VC (10 R263, Table 10.14). -/
def noCredits : List (Nat × Nat) := [(0, 64), (1, 64), (2, 64), (3, 64), (4, 64), (5, 64), (6, 64), (7, 64)]

/-- Fuse-set facts of the fitted part. -/
structure Fuses where
  /-- part code of ID_PART, 16 bits (00 R3 R4; 01 R46 Table 1.9); DESIGN CHOICE FGN-8 (1) -/
  part : Part := .fgn8
  /-- speed grade, 2 (true) or 1, ID_TOPOLOGY.SPEED (00 R2 R6; 01 Table 1.10); DESIGN CHOICE grade 2 (1) -/
  grade2 : Bool := true
  /-- temperature grade, ID_TOPOLOGY.TEMP (00 R3; 01 Table 1.10); DESIGN CHOICE grade C (1) -/
  tempI : Bool := false
  /-- per-package unique number ID_UNIQUE (01 Table 1.9); DESIGN CHOICE 0 (1) -/
  unique : BitVec 64 := 0
deriving DecidableEq, Repr

/-- Fuses at its reset values. -/
def Fuses.reset : Fuses := {}

/-- One access table entry (Table 1.8). -/
structure AclEntry where
  /-- MID value to compare (01 R31 Table 1.8) -/
  midVal : BitVec 12 := 0
  /-- MID bits compared (01 R31 Table 1.8) -/
  midMask : BitVec 12 := 0
  /-- reads allowed (01 R31 Table 1.8) -/
  rd : Bool := false
  /-- writes allowed (01 R31 Table 1.8) -/
  wr : Bool := false
  /-- privileged requests allowed (01 R31 Table 1.8) -/
  priv : Bool := false
  /-- entry takes part in matching (01 R31 Table 1.8) -/
  valid : Bool := false
  /-- the session ID an entry was written under (01 R38) -/
  owner : Option Nat := none
deriving DecidableEq, Repr

/-- AclEntry at its reset values. -/
def AclEntry.reset : AclEntry := {}

/-- A temporary entry ahead of a target's table. -/
structure TempEntry where
  /-- the MID it names (01 R538) -/
  mid : BitVec 12 := 0
  /-- grants reads (01 R538) -/
  rd : Bool := false
  /-- grants writes (01 R538) -/
  wr : Bool := false
  /-- grants privileged requests (01 R538) -/
  priv : Bool := false
  /-- the one address whose requests it grants, where it names one (12 R338) -/
  only : Option (BitVec 48) := none
deriving DecidableEq, Repr

/-- TempEntry at its reset values. -/
def TempEntry.reset : TempEntry := {}

/-- The access table of one target. -/
structure AclTable where
  /-- 32 entries of 32 bits (01 R30 R31 R40) -/
  entries : Tab AclEntry := []
  /-- temporary entries of boot ROM and firmware (01 R538) -/
  temps : List TempEntry := []
deriving DecidableEq, Repr

/-- AclTable at its reset values. -/
def AclTable.reset : AclTable := {}

/-- Hub identification registers the firmware writes. -/
structure IdRegs where
  /-- ID_GABLE_IF (01 R46 Table 1.9) -/
  gableIf : BitVec 32 := 0
  /-- ID_BUNDLE_LO/HI (01 R46 Table 1.9) -/
  bundle : BitVec 64 := 0
deriving DecidableEq, Repr

/-- IdRegs at its reset values. -/
def IdRegs.reset : IdRegs := {}

/-- One user I/O pin, 416 per die. -/
structure IoPin where
  /-- what its output register drives (02 R63 Table 2.4); DESIGN CHOICE 0 before an image (2) -/
  q : Bool := false
  /-- the word its output register drives in the low half of the cycle, DDR (02 Table 2.4); DESIGN CHOICE 0 before an image (2) -/
  q2 : Bool := false
  /-- its input register or deserializer (02 Table 2.4); DESIGN CHOICE 0 before an image (2) -/
  ins : BitVec 8 := 0
  /-- level and enable the pad latch captured (02 R69) -/
  latch : PadDrive := .z
  /-- last level before a safe state HOLD (02 R68) -/
  hold : PadDrive := .z
deriving DecidableEq, Repr

/-- IoPin at its reset values. -/
def IoPin.reset : IoPin := {}

/-- User I/O cells of one die. -/
structure IoBlock where
  /-- 416 pins, 8 banks of 52 (02 R62 R63) -/
  pins : Tab IoPin := []
  /-- pad state of Table 2.5 (02 R66 R67 R69) -/
  pads : PadPhase := .disabled
  /-- instant the bias was applied, ps (02 R67) -/
  biasAt : Nat := 0
deriving DecidableEq, Repr

/-- IoBlock at its reset values. -/
def IoBlock.reset : IoBlock := {}

/-- PROBE_SEL_c. -/
structure ProbeSel where
  /-- TAP (02 R72 Table 2.9); DESIGN CHOICE 0 before an image (2) -/
  tap : BitVec 12 := 0
  /-- EN (02 Table 2.9); DESIGN CHOICE 0 before an image (2) -/
  en : Bool := false
  /-- DEST (02 Table 2.9); DESIGN CHOICE 0 before an image (2) -/
  dest : Bool := false
deriving DecidableEq, Repr

/-- ProbeSel at its reset values. -/
def ProbeSel.reset : ProbeSel := {}

/-- Probe sub-block of one die. -/
structure Probe where
  /-- PROBE_CTRL.CLKSEL (02 R71 Table 2.7) -/
  clkSel : BitVec 5 := 0
  /-- PROBE_CTRL.ARM, PROBE_STATUS.ARMED (02 R76 Table 2.7 2.8) -/
  armed : Bool := false
  /-- TRIG_MODE (02 Table 2.7) -/
  trigMode : Bool := false
  /-- TRIG_CH (02 Table 2.7) -/
  trigCh : BitVec 6 := 0
  /-- PRETRIG (02 Table 2.7) -/
  pretrig : BitVec 13 := 0
  /-- a FORCE or trigger condition held until PRETRIG samples are stored (02 R76) -/
  held : Bool := false
  /-- PROBE_STATUS.TRIGGERED (02 Table 2.8) -/
  triggered : Bool := false
  /-- PROBE_STATUS.DONE (02 Table 2.8) -/
  done : Bool := false
  /-- PROBE_STATUS.OVERSPEED (02 R71 Table 2.8) -/
  overspeed : Bool := false
  /-- TRIG_IDX (02 Table 2.8) -/
  trigIdx : BitVec 13 := 0
  /-- samples stored since ARM, counted to 8,192 (02 R76) -/
  stored : Nat := 0
  /-- samples stored since the trigger sample (02 R76) -/
  post : Nat := 0
  /-- circular write index of the capture buffer (02 R76) -/
  wr : BitVec 13 := 0
  /-- PROBE_TAPS, 13 bits (02 Table 2.6); DESIGN CHOICE 0 before an image (2) -/
  taps : Nat := 0
  /-- PROBE_PINS (02 Table 2.6); DESIGN CHOICE 0 before an image (2) -/
  pins : BitVec 64 := 0
  /-- PROBE_SEL_c, 64 channels (02 Table 2.6) -/
  sel : Tab ProbeSel := []
  /-- last sampled value each pin output holds (02 R71 R74) -/
  out : BitVec 64 := 0
  /-- capture buffer, 8,192 samples of 64 bits (02 R76 Table 2.6) -/
  buf : Tab (BitVec 64) := []
deriving DecidableEq, Repr

/-- Probe at its reset values. -/
def Probe.reset : Probe := {}

/-- One port of a block memory. -/
structure BramPort where
  /-- read-only, write-only or read-write (03 R79); DESIGN CHOICE before an image (2) -/
  kind : PortKind := .rw
  /-- FCLK net of the port (03 R79); DESIGN CHOICE 0 before an image (2) -/
  net : BitVec 5 := 0
  /-- read latency of 2 clock edges, else 1 (03 R79); DESIGN CHOICE 1 before an image (2) -/
  two : Bool := false
  /-- read data output (03 R79); DESIGN CHOICE 0 (3) -/
  rdata : BitVec 64 := 0
  /-- SBITERR (03 R79 R80) -/
  sbit : Bool := false
  /-- DBITERR (03 R79 R80 R81) -/
  dbit : Bool := false
  /-- WREFUSED (03 R79 R83) -/
  wref : Bool := false
  /-- read data that the second edge of the latency brings out (03 R79); DESIGN CHOICE 0 (3) -/
  pdata : BitVec 64 := 0
  /-- SBITERR with it (03 R79) -/
  psbit : Bool := false
  /-- DBITERR with it (03 R79) -/
  pdbit : Bool := false
  /-- instant of the port's last edge, ps (03 R88) -/
  edgeAt : Option Nat := none
  /-- word and direction (true a write) of that access (03 R88) -/
  edgeWord : Option (Nat × Bool) := none
  /-- contents of that word before that access (03 R88) -/
  edgeOld : BramWord := ⟨0, .mark, 0⟩
deriving DecidableEq, Repr

/-- BramPort at its reset values. -/
def BramPort.reset : BramPort := {}

/-- One block memory. -/
structure Bram where
  /-- mode set by the image (03 R78 Table 3.1); DESIGN CHOICE 1K x 64 before an image (2) -/
  mode : BramMode := .k1
  /-- port A (03 R79) -/
  portA : BramPort := BramPort.reset
  /-- port B (03 R79) -/
  portB : BramPort := BramPort.reset
  /-- 1,024 words of 64 data bits, standing in place of 8 check bits, the unwritten mark where unlisted (03 R78 R80 R85) -/
  words : Tab BramWord := []
  /-- contents defined by a load since PORn or SRSTn (03 R87) -/
  loaded : Bool := false
deriving DecidableEq, Repr

/-- Bram at its reset values. -/
def Bram.reset : Bram := {}

/-- One gutter queue entry. -/
structure GqEntry where
  /-- slot index in the array (03 R95) -/
  slot : BitVec 11 := 0
  /-- data (03 R91) -/
  data : BitVec 64 := 0
  /-- short stamp (03 R102) -/
  stamp : BitVec 32 := 0
  /-- coarse flag (03 R102) -/
  coarse : Bool := false
  /-- state of the check bits over the data (03 R95) -/
  health : Health := .good
  /-- state of the check bits over the stamp (03 R95) -/
  shealth : Health := .good
  /-- found uncorrectable by Leggett already (03 R95) -/
  marked : Bool := false
deriving DecidableEq, Repr

/-- GqEntry at its reset values. -/
def GqEntry.reset : GqEntry := {}

/-- What a read side delivers. -/
structure Popped where
  /-- RDATA (03 R91) -/
  data : BitVec 64 := 0
  /-- RSTAMP (03 R91 R102) -/
  stamp : BitVec 32 := 0
  /-- RCOARSE (03 R91 R102) -/
  coarse : Bool := false
  /-- RPOISON (03 R91 R95) -/
  poison : Bool := false
deriving DecidableEq, Repr

/-- Popped at its reset values. -/
def Popped.reset : Popped := {}

/-- One gutter queue, 128 per die. -/
structure Gq where
  /-- GQ_CFG.USED (03 Table 3.6); DESIGN CHOICE 0 before an image (2) -/
  used : Bool := false
  /-- the bay whose logic feeds the write side, where one does (03 R89); DESIGN CHOICE none before an image (2) -/
  feeder : Option Nat := none
  /-- the bay whose logic reads the read side, where one does (03 R89); DESIGN CHOICE none before an image (2) -/
  reader : Option Nat := none
  /-- what the last fabric pop delivered: RDATA, RSTAMP, RCOARSE, RPOISON (03 R91) -/
  taken : Option Popped := none
  /-- GQ_CFG.STAMP_EN (03 Table 3.6); DESIGN CHOICE 0 before an image (2) -/
  stampEn : Bool := false
  /-- GQ_CFG.WCLK_SEL (03 R90 Table 3.6); DESIGN CHOICE 0 before an image (2) -/
  wsel : BitVec 6 := 0
  /-- GQ_CFG.RCLK_SEL (03 R90 Table 3.6); DESIGN CHOICE 0 before an image (2) -/
  rsel : BitVec 6 := 0
  /-- entries held, oldest first, at most 2,048 (03 R89 R93) -/
  entries : List GqEntry := []
  /-- slot of the next write (03 R95) -/
  nextSlot : BitVec 11 := 0
  /-- held entries the read side sees (03 R92) -/
  rSeen : Nat := 0
  /-- removals the write side does not see yet (03 R92) -/
  unseenPops : Nat := 0
  /-- held entries marked by a flush, at the front (03 R94) -/
  flushMark : Nat := 0
  /-- GQ_CTRL.FLUSH (03 R94 Table 3.7) -/
  flush : Bool := false
  /-- flush edge not reached: write clock stopped (03 R94) -/
  flushPend : Bool := false
  /-- HI watermark (03 R96) -/
  hi : Bool := false
  /-- LO watermark (03 R96) -/
  lo : Bool := true
  /-- GQ_MARKS, four thresholds (03 R97 Table 3.9); DESIGN CHOICE 0 before an image (2) -/
  marks : BitVec 64 := 0
  /-- WRITTEN (03 R99) -/
  written : BitVec 48 := 0
  /-- READ (03 R99) -/
  read : BitVec 48 := 0
  /-- LOST (03 R93 R99) -/
  lost : BitVec 32 := 0
  /-- CORR (03 R95 R99) -/
  corr : BitVec 16 := 0
  /-- LOST_SAT (03 Table 3.8) -/
  lostSat : Bool := false
  /-- CORR_SAT (03 Table 3.8) -/
  corrSat : Bool := false
  /-- MARK_ERR (03 R97 Table 3.8) -/
  markErr : Bool := false
  /-- UE_SEEN (03 Table 3.8) -/
  ueSeen : Bool := false
  /-- GQ_S_WRITTEN (03 Table 3.5) -/
  sWritten : BitVec 48 := 0
  /-- GQ_S_READ (03 Table 3.5) -/
  sRead : BitVec 48 := 0
  /-- GQ_S_LEVEL (03 Table 3.5) -/
  sLevel : BitVec 12 := 0
  /-- GQ_S_LOST (03 Table 3.5) -/
  sLost : BitVec 32 := 0
  /-- GQ_S_CORR (03 Table 3.5) -/
  sCorr : BitVec 16 := 0
  /-- GQ_S_STAMP (03 Table 3.5) -/
  sStamp : BitVec 32 := 0
  /-- GQ_POP_META (03 Table 3.10) -/
  popMeta : BitVec 64 := 0
deriving DecidableEq, Repr

/-- Gq at its reset values. -/
def Gq.reset : Gq := {}

/-- One word of a slice memory: its data bits and, in place of the check bits, how the word stands against its code. -/
structure MemWord where
  /-- stored bits: 24 in X and Y memory, 40 in instruction memory (04 R114) -/
  data : BitVec 40 := 0
  /-- state of the 6 or 8 check bits (04 R114) -/
  health : Health := .good
deriving DecidableEq, Repr

/-- MemWord at its reset values. -/
def MemWord.reset : MemWord := {}

/-- One zero-overhead loop level. -/
structure LoopLevel where
  /-- start address (04 R118 Table 4.5) -/
  start : BitVec 10 := 0
  /-- end address (04 R118 Table 4.5) -/
  stop : BitVec 10 := 0
  /-- count remaining (04 R118 Table 4.5) -/
  count : BitVec 16 := 0
  /-- OPEN (04 R118 Table 4.5) -/
  isOpen : Bool := false
deriving DecidableEq, Repr

/-- LoopLevel at its reset values. -/
def LoopLevel.reset : LoopLevel := {}

/-- One entry of a slice stream queue. -/
structure StreamWord where
  /-- data (04 R120) -/
  data : BitVec 24 := 0
  /-- edge of the receiving clock from which it is presented: an SCLK cycle of the group, or an edge of the stream clock's net (04 R120) -/
  seenAt : Nat := 0
  /-- edges of the receiving clock its crossing takes, 2 or 3 (04 R120) -/
  lag : Nat := 2
  /-- instant it was taken, ps (04 R120) -/
  putAt : Nat := 0
deriving DecidableEq, Repr

/-- StreamWord at its reset values. -/
def StreamWord.reset : StreamWord := {}

/-- The control state a trap restores. -/
structure Control where
  /-- next fetch address (06 R166) -/
  pc : BitVec 10 := 0
  /-- three loop levels (06 R166) -/
  loops : Tab LoopLevel := []
  /-- return stack (06 R166) -/
  stack : Tab (BitVec 10) := []
  /-- return stack depth (06 R166) -/
  depth : Nat := 0
  /-- IN_TRAP (06 R166) -/
  inTrap : Bool := false
  /-- run state (06 R166) -/
  run : RunState := .halted
  /-- HALT_CAUSE (06 R166 R169) -/
  cause : BitVec 4 := 0
deriving DecidableEq, Repr

/-- Control at its reset values. -/
def Control.reset : Control := {}

/-- The pointers a trap restores. -/
structure Pointers where
  /-- XP0-XP3 (06 R166) -/
  xp : Tab (BitVec 11) := []
  /-- YP0-YP3 (06 R166) -/
  yp : Tab (BitVec 11) := []
deriving DecidableEq, Repr

/-- Pointers at its reset values. -/
def Pointers.reset : Pointers := {}

/-- One instruction in the pipeline of a slice. -/
structure Flight where
  /-- its address (04 R123) -/
  addr : BitVec 10 := 0
  /-- its word as corrected (04 R123) -/
  word : BitVec 40 := 0
  /-- executes as NOP (05 R133 R153) -/
  nop : Bool := false
  /-- it is a delay slot (04 R119) -/
  slot : Bool := false
  /-- control state before its fetch decision (06 R166) -/
  before : Control := Control.reset
  /-- pointers before its own updates, kept current with older writes (06 R166) -/
  ptrs : Pointers := Pointers.reset
  /-- X address formed in AG (04 R116) -/
  xa : BitVec 11 := 0
  /-- Y address formed in AG (04 R116) -/
  ya : BitVec 11 := 0
  /-- word a MOVE popped from an input stream in MR (05 R142) -/
  popped : BitVec 24 := 0
  /-- first product (05 R145) -/
  p0 : BitVec 56 := 0
  /-- second product (05 R146) -/
  p1 : BitVec 56 := 0
  /-- writes that land in WB (05 R134) -/
  wbs : List WbWrite := []
deriving DecidableEq, Repr

/-- Flight at its reset values. -/
def Flight.reset : Flight := {}

/-- One arithmetic slice, 2,048 per die. -/
structure Slice where
  /-- D0-D7 (04 R106 Table 4.5) -/
  d : Tab (BitVec 24) := []
  /-- origins of D0-D7, 0x8000 where unlisted (04 R117) -/
  org : Tab (BitVec 16) := []
  /-- A0-A3 (04 R106 Table 4.5) -/
  a : Tab (BitVec 56) := []
  /-- XP0-XP3 (04 Table 4.5) -/
  xp : Tab (BitVec 11) := []
  /-- YP0-YP3 (04 Table 4.5) -/
  yp : Tab (BitVec 11) := []
  /-- XM0-XM3, 1 where unlisted (04 Table 4.5 4.7) -/
  xm : Tab (BitVec 25) := []
  /-- YM0-YM3, 1 where unlisted (04 Table 4.5 4.7) -/
  ym : Tab (BitVec 25) := []
  /-- XB0-XB3 (04 Table 4.5) -/
  xb : Tab (BitVec 11) := []
  /-- YB0-YB3 (04 Table 4.5) -/
  yb : Tab (BitVec 11) := []
  /-- IX0, IX1 (04 Table 4.5) -/
  ix : Tab (BitVec 16) := []
  /-- loop levels 0-2 (04 R118 Table 4.5) -/
  loops : Tab LoopLevel := []
  /-- return stack entries 0-3 (04 Table 4.5) -/
  stack : Tab (BitVec 10) := []
  /-- return stack depth 0-4 (04 Table 4.5) -/
  depth : Nat := 0
  /-- PC, SL_PC (04 Table 4.5); DESIGN CHOICE 0 before an image (2) -/
  pc : BitVec 10 := 0
  /-- MODE: INT, LIMIT (04 Table 4.8); DESIGN CHOICE 0 before an image (2) -/
  mode : BitVec 2 := 0
  /-- FLAGS: N, Z, V, E, L (04 Table 4.9) -/
  flags : BitVec 5 := 0
  /-- CASOUT (04 R122) -/
  casout : BitVec 56 := 0
  /-- CASOUT before its last write (04 R122) -/
  casPrev : BitVec 56 := 0
  /-- SCLK cycle of that write (04 R122) -/
  casAt : Nat := 0
  /-- SL_VEC.IVEC (04 Table 4.5); DESIGN CHOICE 0 before an image (2) -/
  ivec : BitVec 10 := 0
  /-- SL_VEC.DVEC (04 Table 4.5); DESIGN CHOICE 0 before an image (2) -/
  dvec : BitVec 10 := 0
  /-- SL_TRAP: CAUSE, MEM, ADDR, TPC (04 Table 4.5; 06 R166) -/
  trap : BitVec 32 := 0
  /-- SL_CORR X count (04 Table 4.5) -/
  corrX : BitVec 8 := 0
  /-- SL_CORR Y count (04 Table 4.5) -/
  corrY : BitVec 8 := 0
  /-- SL_CORR instruction count (04 Table 4.5) -/
  corrI : BitVec 8 := 0
  /-- SL_CYCLES (04 Table 4.5) -/
  cycles : BitVec 32 := 0
  /-- SL_STATUS.STATE (04 R125 Table 4.10) -/
  run : RunState := .halted
  /-- PENDING_START (04 R126 Table 4.10) -/
  pendingStart : Bool := false
  /-- a halt request not yet taken (04 R125 R126) -/
  haltReq : Bool := false
  /-- IN_TRAP (04 Table 4.10) -/
  inTrap : Bool := false
  /-- HALT_CAUSE (04 Table 4.10) -/
  cause : BitVec 4 := 0
  /-- UNDERRUN0, UNDERRUN1, OVERRUN0, OVERRUN1 (04 R121 Table 4.10) -/
  sticky : BitVec 4 := 0
  /-- X memory, 2,048 words (04 R114) -/
  xmem : Tab MemWord := []
  /-- Y memory, 2,048 words (04 R114) -/
  ymem : Tab MemWord := []
  /-- instruction memory, 1,024 words (04 R114) -/
  imem : Tab MemWord := []
  /-- input queue IS0, at most 4 (04 R120) -/
  is0 : List StreamWord := []
  /-- input queue IS1, at most 4 (04 R120) -/
  is1 : List StreamWord := []
  /-- output queue OS0, at most 4 (04 R120) -/
  os0 : List StreamWord := []
  /-- output queue OS1, at most 4 (04 R120) -/
  os1 : List StreamWord := []
  /-- SCLK cycles of the group this slice has been through (04 R122 R123) -/
  cyc : Nat := 0
  /-- stage D (04 R123 Table 4.2) -/
  stD : Option Flight := none
  /-- stage AG (04 R123) -/
  stAG : Option Flight := none
  /-- stage MR (04 R123) -/
  stMR : Option Flight := none
  /-- stage M1 (04 R123) -/
  stM1 : Option Flight := none
  /-- stage M2 (04 R123) -/
  stM2 : Option Flight := none
  /-- stage WB (04 R123) -/
  stWB : Option Flight := none
deriving DecidableEq, Repr

/-- Slice at its reset values. -/
def Slice.reset : Slice := {}

/-- One fault log entry (Table 19.2). -/
structure LogEntry where
  /-- TYPE (19 Table 19.2) -/
  typ : BitVec 16 := 0
  /-- SEV (19 Table 19.2) -/
  sev : BitVec 8 := 0
  /-- FLAGS (19 Table 19.2) -/
  flags : BitVec 8 := 0
  /-- TIME (19 Table 19.2) -/
  time : BitVec 64 := 0
  /-- EVID (19 Table 19.2) -/
  evid : BitVec 16 := 0
  /-- REPEAT (19 Table 19.2) -/
  rep : BitVec 16 := 0
  /-- LOC_A (19 Table 19.2) -/
  locA : BitVec 32 := 0
  /-- LOC_B (19 Table 19.2) -/
  locB : BitVec 64 := 0
deriving DecidableEq, Repr

/-- LogEntry at its reset values. -/
def LogEntry.reset : LogEntry := {}

/-- One Ridge packet: the fields of its header flit and its data. -/
structure Pkt where
  /-- DEST.DIE (07 R181 Table 7.4) -/
  die : BitVec 4 := 0
  /-- DEST.X (07 Table 7.4) -/
  x : BitVec 3 := 0
  /-- DEST.Y (07 Table 7.4) -/
  y : BitVec 3 := 0
  /-- DEST.PORT (07 Table 7.4) -/
  port : BitVec 6 := 0
  /-- SRC (07 R180 Table 7.3) -/
  src : BitVec 12 := 0
  /-- CLASS (07 Table 7.1 7.3) -/
  cls : MsgClass := .req
  /-- TAG (07 Table 7.3) -/
  tag : BitVec 10 := 0
  /-- OPC (07 R182 Table 7.5) -/
  opc : BitVec 5 := 0
  /-- LEN, data bytes less 1 (07 Table 7.3) -/
  len : BitVec 8 := 0
  /-- RESP (07 R204 Table 7.8) -/
  resp : BitVec 3 := 0
  /-- POISON (07 Table 7.3) -/
  poison : Bool := false
  /-- RT (07 Table 7.3; 08 R215) -/
  rt : Bool := false
  /-- DEMOTED (07 Table 7.3; 08 R215) -/
  demoted : Bool := false
  /-- COARSE (07 Table 7.3) -/
  coarse : Bool := false
  /-- ORD (07 R190) -/
  ord : Bool := false
  /-- ADDR (07 Table 7.3) -/
  addr : BitVec 48 := 0
  /-- FLOW (07 Table 7.3) -/
  flow : BitVec 10 := 0
  /-- BE (07 R183) -/
  be : BitVec 64 := 0
  /-- STAMP (07 R188) -/
  stamp : BitVec 32 := 0
  /-- EXIT of the side band: link site, when valid (07 R177 R191) -/
  exit : Option (BitVec 4) := none
  /-- EVID of an EVENT packet (07 R186) -/
  evid : BitVec 10 := 0
  /-- EVDATA of an EVENT packet (07 R186) -/
  evdata : BitVec 32 := 0
  /-- package time of a TIME packet (07 R186) -/
  time : BitVec 80 := 0
  /-- payload bytes, LEN + 1 of them (07 R183) -/
  data : List (BitVec 8) := []
  /-- data flits not yet arrived at this point (07 R179) -/
  missing : Nat := 0
  /-- a data flit is uncorrectable: the destination treats the data as poisoned (07 R178) -/
  ue : Bool := false
  /-- of an EVENT packet: what the gable firmware reads of the source for the log entry (19 R483 R484) -/
  note : Option LogEntry := none
  /-- the access check at the port of its target has passed (01 R39; 07 R208) -/
  checked : Bool := false
  /-- its EXIT was chosen on this die (07 R191) -/
  chosen : Bool := false
  /-- made by the router at a mesh or link port: it holds no credits of the port's sender (07 R194 R199) -/
  noCred : Bool := false
  /-- rides escape VCs (07 R193) -/
  escape : Bool := false
  /-- router of this die the packet heads for, once its header was read and checked (07 R192 R193) -/
  route : Option Nat := none
deriving DecidableEq, Repr

/-- Pkt at its reset values. -/
def Pkt.reset : Pkt := {}

/-- An access to a slice's X or Y memory that waits for a free cycle of its port. -/
structure WinAcc where
  /-- the slice (04 R128) -/
  slice : Nat := 0
  /-- Y memory, else X (04 R128) -/
  y : Bool := false
  /-- word (04 R131) -/
  addr : Nat := 0
  /-- a write (04 R128) -/
  write : Bool := false
  /-- two words (04 R131) -/
  eight : Bool := false
  /-- what it writes (04 R131) -/
  val : Nat := 0
  /-- SCLK cycle it arrived in (04 R128) -/
  since : Nat := 0
  /-- router, port and request it answers; none for a direct access (04 R128; 07 R185) -/
  who : Option (Nat × Nat × Pkt) := none
deriving DecidableEq, Repr

/-- WinAcc at its reset values. -/
def WinAcc.reset : WinAcc := {}

/-- Group registers of 16 slices, 128 groups per die. -/
structure Group where
  /-- SLG_WIN.SLICE (04 Table 4.6) -/
  winSlice : BitVec 4 := 0
  /-- SLG_WIN.MEM (04 Table 4.6) -/
  winMem : BitVec 2 := 0
  /-- SLG_CFG.STREAM_CLK (04 Table 4.6); DESIGN CHOICE 0 before an image (2) -/
  streamClk : BitVec 5 := 0
  /-- SLG_CFG.AUTOSTART (04 Table 4.6); DESIGN CHOICE 0 before an image (2) -/
  autostart : BitVec 16 := 0
  /-- slice memories written by a load since PORn or SRSTn (04 R115) -/
  loaded : Bool := false
  /-- frozen by Ladder (20 R517) -/
  frozen : Bool := false
  /-- last stream-clock edge that brought an input word, ps, and the lag of its crossing (06 R173) -/
  inEdge : Option (Nat × Nat) := none
deriving DecidableEq, Repr

/-- Group at its reset values. -/
def Group.reset : Group := {}

/-- The real-time token bucket of one output. -/
structure Bucket where
  /-- RTR_RT_p.RATE (07 R196 Table 7.15) -/
  rate : BitVec 8 := 0
  /-- RTR_RT_p.BURST (07 Table 7.15) -/
  burst : BitVec 12 := 0
  /-- tokens at the last update, in 1/256 flit (07 R196) -/
  tok256 : Nat := 0
  /-- instant of the last update, ps (07 R196) -/
  atPs : Nat := 0
deriving DecidableEq, Repr

/-- Bucket at its reset values. -/
def Bucket.reset : Bucket := {}

/-- One output port of a router. -/
structure Outp where
  /-- input port that won last at the real-time level (07 R197); DESIGN CHOICE 0 (3) -/
  lastRt : Nat := 0
  /-- input port that won last at the best-effort level (07 R197); DESIGN CHOICE 0 (3) -/
  lastBe : Nat := 0
  /-- instant the output becomes free, ps (07 R195) -/
  busyUntil : Nat := 0
  /-- token bucket (07 R196) -/
  bucket : Bucket := Bucket.reset
deriving DecidableEq, Repr

/-- Outp at its reset values. -/
def Outp.reset : Outp := {}

/-- One Ridge router. -/
structure Router where
  /-- RTR_STATUS.IDLE (07 R206 Table 7.11) -/
  idle : Bool := false
  /-- DRAIN0 (07 R203 Table 7.11) -/
  drain0 : Bool := false
  /-- DRAIN1 (07 R203 Table 7.11) -/
  drain1 : Bool := false
  /-- wake queue of port 5, at most 16 (07 R208) -/
  wq0 : List Pkt := []
  /-- wake queue of port 6, at most 16 (07 R208) -/
  wq1 : List Pkt := []
  /-- RTR_CFG.IDLE_DLY (07 Table 7.12) -/
  idleDly : BitVec 10 := 64
  /-- RTR_CFG.KEEP_AWAKE (07 Table 7.12) -/
  keepAwake : Bool := false
  /-- instant the idle count restarted, ps (07 R206) -/
  quietAt : Nat := 0
  /-- ports whose neighbour asserts WAKE towards this router (07 R206 R207) -/
  wakeFrom : List Nat := []
  /-- instant WAKE arrived while idle, ps (07 R207) -/
  wakeAt : Option Nat := none
  /-- RTR_CORR (07 Table 7.10) -/
  corr : BitVec 16 := 0
  /-- RTR_DISCARD (07 Table 7.10) -/
  discard : BitVec 16 := 0
  /-- RTR_LATE (07 Table 7.10) -/
  late : BitVec 16 := 0
  /-- RTR_TMO0, us (07 Table 7.10) -/
  tmo0 : BitVec 20 := 2000
  /-- RTR_TMO1, us (07 Table 7.10) -/
  tmo1 : BitVec 20 := 2000
  /-- packets held in the input VCs, key 8 x port + VC (07 R175) -/
  inq : Tab (List Pkt) := []
  /-- VC that won last at an input port (07 R197); DESIGN CHOICE 0 (3) -/
  lastVc : Tab Nat := []
  /-- depth less SEND_CRED, key 8 x port + VC (07 R198) -/
  spent : Tab Nat := []
  /-- credits on their way back to this sender, key 8 x port + VC (07 R198 R199) -/
  back : Tab Nat := []
  /-- output ports (07 R195 R197) -/
  outs : Tab Outp := []
  /-- RTR_SCRED, key 8 x port + VC (07 Table 7.10) -/
  scred : Tab (BitVec 32) := []
  /-- packets sent to a local port and not yet delivered, key 8 x port + VC (07 R209) -/
  atPort : Tab (List Pkt) := []
  /-- packets delivered to the element behind a local port (07 R176 R209) -/
  inbox : Tab (List Pkt) := []
deriving DecidableEq, Repr

/-- Router at its reset values. -/
def Router.reset : Router := {}

/-- One outstanding request of a master port. -/
structure Outst where
  /-- TAG (07 R188) -/
  tag : BitVec 10 := 0
  /-- DEST the request was sent to (07 R188) -/
  dest : BitVec 16 := 0
  /-- OPC (07 R188) -/
  opc : BitVec 5 := 0
  /-- ADDR (07 R188) -/
  addr : BitVec 48 := 0
  /-- LEN (07 R188) -/
  len : BitVec 8 := 0
  /-- injection instant, ps (07 R205) -/
  atPs : Nat := 0
  /-- TAG the Eoset-X host gave it (10 R277) -/
  hostTag : BitVec 10 := 0
  /-- orphaned by the loss of its link (10 R277 R283) -/
  orphan : Bool := false
  /-- instant it was orphaned, ps (10 R283) -/
  orphanAt : Nat := 0
deriving DecidableEq, Repr

/-- Outst at its reset values. -/
def Outst.reset : Outst := {}

/-- One master port, by MID. -/
structure MasterPort where
  /-- outstanding requests (07 R188 R205) -/
  out : List Outst := []
  /-- quarantined TAGs and when each is freed, ps (07 R205) -/
  quar : List (BitVec 10 × Nat) := []
  /-- next TAG tried (07 R188); DESIGN CHOICE 0 (3) -/
  nextTag : BitVec 10 := 0
  /-- response timeout of a hub master, us (07 R205) -/
  tmoUs : BitVec 20 := 2000
  /-- late responses of a hub master discarded (07 R205) -/
  lateCnt : BitVec 16 := 0
  /-- responses delivered to the master and not yet taken (07 R205) -/
  rsps : List Pkt := []
deriving DecidableEq, Repr

/-- MasterPort at its reset values. -/
def MasterPort.reset : MasterPort := {}

/-- One output reserved for a flow. -/
structure Resv where
  /-- die of the router (08 R225) -/
  node : Nat := 0
  /-- its number on the die (08 R225) -/
  router : Nat := 0
  /-- the output's port number (08 R225) -/
  port : Nat := 0
  /-- flits of a packet of the flow there (08 Table 8.2) -/
  flits : Nat := 0
deriving DecidableEq, Repr

/-- Resv at its reset values. -/
def Resv.reset : Resv := {}

/-- One real-time flow. -/
structure Flow where
  /-- SRC_MID (08 R211 Table 8.1) -/
  mid : BitVec 12 := 0
  /-- CLASS (08 Table 8.1) -/
  cls : MsgClass := .req
  /-- KEEP_AWAKE (08 Table 8.1) -/
  keep : Bool := false
  /-- ROUND_TRIP (08 Table 8.1) -/
  roundTrip : Bool := false
  /-- DEST_BASE (08 Table 8.1) -/
  base : BitVec 48 := 0
  /-- DEST_LEN (08 Table 8.1) -/
  len : BitVec 32 := 0
  /-- MAX_BYTES (08 Table 8.1) -/
  maxBytes : BitVec 16 := 0
  /-- MAX_RSP (08 Table 8.1) -/
  maxRsp : BitVec 16 := 0
  /-- BURST (08 Table 8.1) -/
  burst : BitVec 8 := 0
  /-- RATE (08 Table 8.1) -/
  rate : BitVec 32 := 0
  /-- DEADLINE (08 Table 8.1) -/
  deadline : BitVec 32 := 0
  /-- TGT_NS (08 Table 8.1) -/
  tgtNs : BitVec 32 := 0
  /-- state VIOLATED (08 R211 R227) -/
  violated : Bool := false
  /-- current bound T, ns (08 R211 R225) -/
  bound : Nat := 0
  /-- conforming packets (08 R211) -/
  conf : BitVec 48 := 0
  /-- demoted packets (08 R211) -/
  demoted : BitVec 32 := 0
  /-- session ID that admitted it (08 R213) -/
  owner : Nat := 0
  /-- the meter marks packets (08 R225 R226) -/
  meterOn : Bool := false
  /-- meter tokens at the last update, in 10^-12 packet (08 R215) -/
  tokens : Nat := 0
  /-- instant of that update, ps (08 R215) -/
  tokAt : Nat := 0
  /-- instant of the last FLOW_DEMOTED event, ps (08 R215) -/
  demotedAt : Option Nat := none
  /-- released: instant its budget and ID are freed, ps (08 R226) -/
  freeAt : Option Nat := none
  /-- outputs that carry its reservation (08 R225, R226, R227) -/
  resv : List Resv := []
  /-- state its calculation counted for elements of its paths, by KIND, DIE and ID (08 R220, R222) -/
  counted : List (Nat × Nat) := []
  /-- the FLOW_ID names a flow (08 R223) -/
  used : Bool := false
deriving DecidableEq, Repr

/-- Flow at its reset values. -/
def Flow.reset : Flow := {}

/-- One physical lane. -/
structure Lane where
  /-- POLINV, ALIGNED, PRBS_LOCK, TXUFLOW, RXOFLOW and other per-lane flags of LANE_STATUS (09 Table 9.12) -/
  status : BitVec 32 := 0
  /-- LANE_SYMERR (09 Table 9.11) -/
  symerr : BitVec 32 := 0
  /-- LANE_PRBS_ERR (09 Table 9.11) -/
  prbsErr : BitVec 32 := 0
  /-- LANE_PRBS_BITS (09 Table 9.11) -/
  prbsBits : BitVec 48 := 0
  /-- LANE_INJ_CNT (09 Table 9.11) -/
  injCnt : BitVec 32 := 0
  /-- LANE_CFG.INJ_N (09 Table 9.13) -/
  injN : BitVec 5 := 0
  /-- LANE_PHASE, CDR phase (09 Table 9.11) -/
  phase : BitVec 6 := 0
  /-- lag against the earliest lane at symbol lock, symbols, which the deskew buffer absorbs (09 R239; 10 R270) -/
  skew : Nat := 0
  /-- transmit preset in use (09 R237 R238) -/
  ffe : BitVec 3 := 2
  /-- a receiver was detected (09 R236) -/
  detected : Bool := false
  /-- declared lost (09 R243) -/
  lost : Bool := false
  /-- consecutive good ordered sets at one boundary (09 R239) -/
  runSets : Nat := 0
  /-- consecutive TSB received (09 R239 R247) -/
  runTsb : Nat := 0
  /-- consecutive K28.5 at one boundary, user lane (09 R241) -/
  runComma : Nat := 0
  /-- elastic-buffer fill, symbols (09 R232) -/
  fill : Nat := 4
  /-- instants of the errors of the last 1 us, ps (09 R243) -/
  errAt : List Nat := []
  /-- SEQ of the next ordered set sent (09 R235 Table 9.3); DESIGN CHOICE 0 (3) -/
  txSeq : BitVec 8 := 0
  /-- a serial lane the image does not use: MODE = 0, stays OFF (09 R229); DESIGN CHOICE used before an image (2) -/
  unused : Bool := false
  /-- instant the checker locked, ps (09 R248) -/
  prbsAt : Option Nat := none
  /-- instant of the last periodic flip, or of the injection's start, ps (09 R249) -/
  injAt : Nat := 0
  /-- TXIDLE of a user lane (09 R245 R251) -/
  txIdle : Bool := false
  /-- a CAP set left on this lane (09 R240) -/
  capSent : Bool := false
  /-- running disparity of the transmitter: positive (09 R230); DESIGN CHOICE negative (3) -/
  txRd : Bool := false
  /-- running disparity of the receiver: positive (09 R230); DESIGN CHOICE negative (3) -/
  rxRd : Bool := false
  /-- code groups last sent to a partner outside the package (09 R230; 10 R255) -/
  txOut : List (BitVec 10) := []
  /-- symbols of the word being received that are marked bad (09 R243 R251) -/
  badSym : List Nat := []
  /-- user transmit FIFO, at most 8 words: TXD, TXK (09 R251) -/
  txFifo : List (BitVec 36) := []
  /-- user receive FIFO, at most 8 words: RXD, RXK, RXERR (09 R251) -/
  rxFifo : List (BitVec 40) := []
  /-- word at the fabric: RXD, RXK, RXERR (09 R251); DESIGN CHOICE 0 (3) -/
  rxWord : BitVec 40 := 0
deriving DecidableEq, Repr

/-- Lane at its reset values. -/
def Lane.reset : Lane := {}

/-- An ordered set sent between two frames. -/
structure OutSet where
  /-- TYPE (09 R235; 10 Table 10.5) -/
  typ : BitVec 8 := 0
  /-- symbols 4-11 (09 Table 9.3) -/
  payload : List (BitVec 8) := []
  /-- physical lanes on which it has not been received (10 R268) -/
  lanes : List Nat := []
deriving DecidableEq, Repr

/-- OutSet at its reset values. -/
def OutSet.reset : OutSet := {}

/-- Copies of one link-layer set received. -/
structure SetVote where
  /-- TYPE (10 R268) -/
  typ : BitVec 8 := 0
  /-- symbols 4-11 (10 R268) -/
  payload : List (BitVec 8) := []
  /-- lanes that delivered it (10 R268) -/
  lanes : List Nat := []
  /-- enough did, and it acted (10 R268) -/
  acted : Bool := false
deriving DecidableEq, Repr

/-- SetVote at its reset values. -/
def SetVote.reset : SetVote := {}

/-- A lane set: an Eoset-P link site, an Eoset-X port or an F-die quad. -/
structure LaneSet where
  /-- LANE_STATUS.STATE (09 R234 Table 9.2) -/
  state : LaneState := .off
  /-- LANE_STATUS.CAUSE (09 R242 Table 9.7) -/
  cause : BitVec 5 := 0
  /-- PENDING_ENABLE (09 R244) -/
  pendingEnable : Bool := false
  /-- a shut-down is in progress (09 R244; 10 R272) -/
  shutting : Bool := false
  /-- TEST sub-state of OFF (09 R248) -/
  test : Bool := false
  /-- PLL starting, before DETECT or LOCK (09 R241) -/
  pllWait : Bool := false
  /-- QUAD_STATUS.PLL_LOCK (09 Table 9.11) -/
  pllLock : Bool := false
  /-- instant the state was entered, ps (09 R241 R242) -/
  since : Nat := 0
  /-- REVERSED (09 R239) -/
  reversed : Bool := false
  /-- TXLP (09 R246) -/
  txLp1 : Bool := false
  /-- RXLP (09 R246) -/
  rxLp1 : Bool := false
  /-- LP2 (09 R247) -/
  lp2 : Bool := false
  /-- instant an LP2 exit started, ps (09 R247) -/
  lp2Exit : Option Nat := none
  /-- LQR sent, answer awaited (09 R247) -/
  lqrSent : Bool := false
  /-- LANE_CFG.MODE (09 R229 Table 9.13) -/
  mode : BitVec 2 := 0
  /-- LANE_CFG.N (09 R231) -/
  n : BitVec 8 := 0
  /-- LANE_CFG.D (09 R231) -/
  dcode : BitVec 2 := 0
  /-- LP_SEL (09 R245) -/
  lpSel : BitVec 2 := 0
  /-- LP1_IDLE (09 Table 9.11) -/
  lp1Idle : BitVec 10 := 0
  /-- LP2_IDLE (09 Table 9.11) -/
  lp2Idle : BitVec 10 := 0
  /-- LANE_CFG.LOOP (09 R250) -/
  loopSel : BitVec 2 := 0
  /-- LANE_CFG.PATTERN (09 R248) -/
  pattern : BitVec 3 := 0
  /-- LANE_CFG.INV (09 R248) -/
  inv : Bool := false
  /-- physical lanes (09 R254) -/
  lanes : Tab Lane := []
  /-- LANE_FAULTS (09 R242) -/
  faults : BitVec 16 := 0
  /-- sends TSB (09 R239) -/
  tsbOn : Bool := false
  /-- CAK sets sent (09 R240) -/
  cakSent : Nat := 0
  /-- matching CAK sets received (09 R240) -/
  cakGot : Nat := 0
  /-- resolved LP (09 R240 R245) -/
  lpRes : BitVec 2 := 0
  /-- resolved FEAT (09 R240) -/
  feat : BitVec 2 := 0
  /-- the partner's CAP was checked and LP and FEAT resolved (09 R240) -/
  capOk : Bool := false
  /-- cause TAMPER: restart only after re-keying (09 Table 9.7; 15 R409) -/
  tamper : Bool := false
  /-- request token whose LANE_UP awaits its completion (09 R253; 17 R441) -/
  upCmd : Option Nat := none
  /-- request tokens whose LANE_DOWN awaits its completion (09 R253; 17 R441) -/
  downCmds : List Nat := []
  /-- the shut-down in progress answers the partner's DOWN (10 R272) -/
  byPartner : Bool := false
  /-- REASON of the DOWN to send (10 R273) -/
  downReason : BitVec 8 := 0
  /-- instant the reference was declared running again, ps (09 Table 9.7) -/
  recovAt : Option Nat := none
  /-- instant of the last detect pulse of this DETECT, ps (09 R236) -/
  pulseAt : Option Nat := none
  /-- a wake request came while an LP2 entry was in progress (09 R247) -/
  wakeHeld : Bool := false
  /-- instant of the last LQN, ps (09 R247) -/
  lqAnsAt : Option Nat := none
  /-- ordered sets sent between frames that the partner in the package has not received on every lane (09 R246 R247; 10 R268) -/
  setQ : List OutSet := []
deriving DecidableEq, Repr

/-- LaneSet at its reset values. -/
def LaneSet.reset : LaneSet := {}

/-- One 80-byte Eoset frame. -/
structure Frame where
  /-- FTYPE (10 R256 Table 10.2) -/
  ftype : BitVec 4 := 0
  /-- SEQ (10 R260) -/
  seq : BitVec 10 := 0
  /-- ACK (10 R260) -/
  ack : BitVec 10 := 0x3FF
  /-- CVC (10 Table 10.2) -/
  cvc : BitVec 3 := 0
  /-- CCNT (10 Table 10.2) -/
  ccnt : BitVec 4 := 0
  /-- VC of the flit carried (10 R256) -/
  vc : BitVec 3 := 0
  /-- a header flit, with its packet (10 R256; 07 R177) -/
  head : Option Pkt := none
  /-- bytes 0-71 of a TAG or LMSG frame (10 Table 10.3) -/
  body : List (BitVec 8) := []
  /-- the flit carried is uncorrectable (07 R178) -/
  ue : Bool := false
  /-- EXIT of the flit's side band, when valid (07 R177) -/
  exit : Option (BitVec 4) := none
deriving DecidableEq, Repr

/-- Frame at its reset values. -/
def Frame.reset : Frame := {}

/-- One end of an Eoset link. -/
structure LinkEnd where
  /-- LINK_CRCERR (10 Table 10.11) -/
  crcErr : BitVec 32 := 0
  /-- LINK_NAK_TX (10 Table 10.11) -/
  nakTx : BitVec 32 := 0
  /-- LINK_REPLAY (10 Table 10.11) -/
  replay : BitVec 32 := 0
  /-- LINK_REPAIRS (10 Table 10.11) -/
  repairs : BitVec 16 := 0
  /-- LINK_TAGFAIL (10 Table 10.11) -/
  tagFail : BitVec 16 := 0
  /-- LINK_TX_FRAMES (10 Table 10.11) -/
  txFrames : BitVec 48 := 0
  /-- LINK_RX_FRAMES (10 Table 10.11) -/
  rxFrames : BitVec 48 := 0
  /-- SEQ of the next sequenced frame (10 R260) -/
  nextSeq : BitVec 10 := 0
  /-- SEQ expected by the receiver (10 R260) -/
  expSeq : BitVec 10 := 0
  /-- SEQ of the last sequenced frame accepted (10 R260) -/
  lastAcc : BitVec 10 := 0x3FF
  /-- a NAK is due (10 R260) -/
  nakDue : Bool := false
  /-- an ACK not sent yet (10 R271) -/
  ackDue : Bool := false
  /-- a NAK is outstanding (10 R260) -/
  nakOut : Bool := false
  /-- instant the last NAK was sent, ps (10 R260) -/
  nakAt : Nat := 0
  /-- retry buffer, oldest first, at most 256 (10 R260) -/
  held : List Frame := []
  /-- instant the ACK last advanced or the oldest frame was sent, ps (10 R261) -/
  heldAt : Nat := 0
  /-- frames still to replay (10 R261) -/
  replayQ : List Frame := []
  /-- replays in a row without ACK progress (10 R261) -/
  replayRun : Nat := 0
  /-- frames sent and not yet received by the partner (10 R255) -/
  wire : List Frame := []
  /-- flits allocated to the link output, in the order granted (07 R195; 10 R258) -/
  outq : List Frame := []
  /-- credits not held: partner depth less SEND_CRED, by VC (10 R262 R263, Table 10.14) -/
  spent : Tab Nat := noCredits
  /-- credits waiting to be returned, by VC (10 R262) -/
  pendRet : Tab Nat := []
  /-- LINK_SCRED_v (10 Table 10.11) -/
  scred : Tab (BitVec 32) := []
  /-- packet partly received, by VC (10 R202) -/
  rxPart : Tab (Option Pkt) := []
  /-- link messages due (10 R258) -/
  lmsgDue : List (List (BitVec 8)) := []
  /-- instant DOWN was sent, ps (10 R272) -/
  downSent : Option Nat := none
  /-- the partner's DOWN arrived (10 R272) -/
  downGot : Bool := false
  /-- instant the shut-down began, ps (10 R272) -/
  drainAt : Nat := 0
  /-- spare use of the receive direction: 40 or 41 to logical lane + 1 (10 R265 Table 10.13) -/
  rxMap : Tab Nat := []
  /-- spare use of the transmit direction (10 R265 Table 10.13) -/
  txMap : Tab Nat := []
  /-- physical lanes awaiting repair, the first in progress (10 R266) -/
  repairing : List Nat := []
  /-- instant the last RPR was sent, ps (10 R266) -/
  rprAt : Nat := 0
  /-- RPR attempts of the repair in progress (10 R266) -/
  rprTry : Nat := 0
  /-- LINK_STATUS.ENCRYPTED (10 Table 10.12; 15) -/
  encrypted : Bool := false
  /-- frames sent since the last TAG frame (10 R275) -/
  tagGroupTx : List Frame := []
  /-- frames of an open group held by the receiver (10 R275) -/
  tagGroupRx : List Frame := []
  /-- responses the gateway or port itself sends, waiting for credits (10 R277 R281) -/
  answers : List Pkt := []
  /-- a GACK that refuses is due; FAULT follows it (10 R280) -/
  gcapBad : Bool := false
  /-- GUEST_OK (10 R280) -/
  guestOk : Bool := false
  /-- instant of the last entry to ACTIVE, ps (10 R278 R298) -/
  activeAt : Nat := 0
  /-- LINK_DELAY (11 R298) -/
  delay : BitVec 24 := 0
  /-- LINK_DELAY.VALID (11 R298) -/
  delayValid : Bool := false
  /-- TOS averaged so far (11 R298) -/
  tosCount : Nat := 0
  /-- sum of the CDR phases of those TOS, 1/64 UI (11 R298) -/
  phaseSum : Nat := 0
  /-- whole microsecond of the last TOS sent (10 R269) -/
  tosSentUs : Nat := 0
  /-- instant since which this direction has had nothing to send, ps (09 R246; 10 R271) -/
  idleTx : Nat := 0
  /-- instant + 1 since which an output VC holds a packet with no credits (10 R282) -/
  stallAt : Tab Nat := []
  /-- link-layer sets being received in band (10 R268) -/
  votes : List SetVote := []
  /-- a symbol of the frame being received is bad (09 R243) -/
  symBad : Bool := false
  /-- instant of the last frame received that was not IDLE, ps (09 R247) -/
  rxAt : Nat := 0
deriving DecidableEq, Repr

/-- LinkEnd at its reset values. -/
def LinkEnd.reset : LinkEnd := {}

/-- The capability accepted at a guest site. -/
structure Gcap where
  /-- VENDOR_ID (10 R279 Table 10.8) -/
  vendor : BitVec 16 := 0
  /-- DEVICE_ID (10 Table 10.8) -/
  device : BitVec 16 := 0
  /-- REVISION (10 Table 10.8) -/
  revision : BitVec 8 := 0
  /-- MID_BASE (10 Table 10.8) -/
  midBase : BitVec 12 := 0
  /-- MID_LOG2 (10 Table 10.8) -/
  midLog2 : Nat := 0
  /-- WIN_LOG2 (10 Table 10.8) -/
  winLog2 : Nat := 0
  /-- MAX_OUT (10 Table 10.8) -/
  maxOut : Nat := 0
  /-- RX_DEPTH by VC (10 Table 10.8) -/
  rxDepth : List Nat := []
  /-- POWER_W (10 Table 10.8) -/
  powerW : Nat := 0
deriving DecidableEq, Repr

/-- Gcap at its reset values. -/
def Gcap.reset : Gcap := {}

/-- A guest site and its gateway. -/
structure GuestSite where
  /-- GUEST_UP (01 Table 1.10; 10 R280) -/
  up : Bool := false
  /-- the accepted GCAP (10 R280) -/
  cap : Gcap := Gcap.reset
  /-- sites N0-N3 the board declares wired (10; 12 board descriptor) -/
  wired : BitVec 4 := 0
  /-- power budget the board gives the site (10 R280; 12 board descriptor) -/
  budgetW : Nat := 0
  /-- guest requests outstanding, orphaned ones included (10 R281 R283) -/
  fromGuest : List Outst := []
  /-- SRC of each of these (10 R281) -/
  fromSrc : List (BitVec 12) := []
  /-- SRC and TAG of requests forwarded to the guest and outstanding (01 R44) -/
  toGuest : List (BitVec 12 × BitVec 10) := []
deriving DecidableEq, Repr

/-- GuestSite at its reset values. -/
def GuestSite.reset : GuestSite := {}

/-- Alignment of one F-die. -/
structure TosMon where
  /-- TD_STATUS.STATE (11 R299) -/
  state : AlignState := .uncal
  /-- TOS in a row within 6 ps, or ignored in a row (11 R299) -/
  run : Nat := 0
  /-- TD_STATUS ignored-TOS run (11 Table 11.6) -/
  ignored : Nat := 0
  /-- instant MEASURE was entered, ps (11 R299) -/
  since : Nat := 0
  /-- the next TOS steps the counter (11 R299) -/
  stepDue : Bool := false
  /-- TD_PARENT.PARENT_OK (11 Table 11.6) -/
  parentOk : Bool := false
  /-- TD_PARENT parent site (11 Table 11.6) -/
  parent : BitVec 4 := 0
  /-- TD_PARENT.HOPS (11 Table 11.6) -/
  hops : BitVec 3 := 0
  /-- TD_PARENT.SEC_HI (11 Table 11.6) -/
  secHi : BitVec 16 := 0
  /-- TD_OFFSET, ps (11 Table 11.6) -/
  offset : Int := 0
  /-- offset still to be slewed away, ps (11 R299) -/
  slew : Int := 0
  /-- instant the slew was last advanced, ps (11 R299) -/
  slewAt : Nat := 0
deriving DecidableEq, Repr

/-- TosMon at its reset values. -/
def TosMon.reset : TosMon := {}

/-- The time counter of one die. -/
structure DieTime where
  /-- counter, in 2^-80 s (11 R285 R289) -/
  ctr : Nat := 0
  /-- rate word added per TSCLK cycle, in 2^-80 s (11 R289) -/
  rate : Nat := 1208925819614629
  /-- alignment (11 R299) -/
  mon : TosMon := TosMon.reset
  /-- counter stopped: die in DEEP or OFF (11 R289 R299) -/
  stopped : Bool := false
deriving DecidableEq, Repr

/-- DieTime at its reset values. -/
def DieTime.reset : DieTime := {}

/-- One record of a capture FIFO. -/
structure CapRec where
  /-- time, ps (11 R306) -/
  p : Nat := 0
  /-- rising edge (11 R306) -/
  rise : Bool := false
  /-- coarse flag (11 R306) -/
  coarse : Bool := false
deriving DecidableEq, Repr

/-- CapRec at its reset values. -/
def CapRec.reset : CapRec := {}

/-- One timing pin. -/
structure TimingPin where
  /-- TP_CFG (11 R305 Table 11.9); DESIGN CHOICE 0 before an image (2) -/
  cfg : BitVec 32 := 0
  /-- capture FIFO, at most 16 (11 R306) -/
  fifo : List CapRec := []
  /-- TP_OVERFLOW raised in this FIFO-full episode (11 R306) -/
  ovf : Bool := false
  /-- time of the previous recorded edge, ps (11 R306) -/
  lastEdge : Option Nat := none
  /-- that edge was rising (11 R306) -/
  edgeRise : Bool := false
  /-- TP_CAP_SEC (11 Table 11.7) -/
  capSec : BitVec 32 := 0
  /-- TP_CNT.LOST (11 Table 11.7) -/
  lost : BitVec 16 := 0
  /-- TP_CNT.SKIPPED (11 Table 11.7) -/
  skipped : BitVec 16 := 0
  /-- schedule queue: time in ps and level, at most 16 (11 R307) -/
  sched : List (Nat × Bool) := []
  /-- time of the last queued entry, ps (11 R307) -/
  lastSched : Option Nat := none
  /-- present pin level (11 Table 11.10) -/
  level : Bool := false
  /-- LATE (11 Table 11.10) -/
  late : Bool := false
  /-- ORDER (11 Table 11.10) -/
  order : Bool := false
  /-- FULL_REF (11 Table 11.10) -/
  fullRef : Bool := false
  /-- TP_WIN_OPEN expanded, ps (11 R539 Table 11.7) -/
  winOpen : Nat := 0
  /-- TP_WIN_CLOSE expanded, ps (11 R539 Table 11.7) -/
  winClose : Nat := 0
  /-- CAP_STAMP, CAP_RISE, CAP_COARSE presented to the fabric (11 R306) -/
  fabOut : Option (BitVec 32 × Bool × Bool) := none
  /-- SCH_REFUSED pulsed for the last fabric entry (11 R307) -/
  schRefused : Bool := false
deriving DecidableEq, Repr

/-- TimingPin at its reset values. -/
def TimingPin.reset : TimingPin := {}

/-- The time master of the H-die. -/
structure TimeBase where
  /-- TB_STATUS.SRC (11 Table 11.1 11.8) -/
  src : BitVec 2 := 0
  /-- TB_STATUS.MSTATE (11 R293) -/
  mstate : MState := .free
  /-- TB_STATUS.AOCLK (11 Table 11.8) -/
  aoclk : Bool := false
  /-- TB_STATUS.PPS_PIN (11 Table 11.8) -/
  ppsPin : Bool := false
  /-- TB_STATUS.LANE_SEL (11 Table 11.8) -/
  laneSel : Bool := false
  /-- nominal frequency declared for the lane, Hz (11 R292) -/
  laneHz : Nat := 0
  /-- TB_STATUS.PPS_REJ (11 Table 11.8) -/
  ppsRej : BitVec 8 := 0
  /-- TB_PPS_ERR (11 Table 11.5) -/
  ppsErr : BitVec 32 := 0
  /-- TB_RATE (11 Table 11.5) -/
  rateOff : BitVec 32 := 0
  /-- the next pulse steps (11 R291) -/
  firstPulse : Bool := true
  /-- the first accepted pulse after package DEEP locks (11 R302) -/
  relock : Bool := false
  /-- instant since when the recovered clock agrees within 0.1 ppm, ps (11 R292) -/
  cmpAt : Option Nat := none
  /-- rejected pulses in a row (11 R291) -/
  rejRun : Nat := 0
  /-- accepted pulses in a row within 1 us (11 R291) -/
  accRun : Nat := 0
  /-- instant of the last accepted pulse, ps (11 R291) -/
  lastAcc : Nat := 0
  /-- SEC of TIME_SET for the next accepted pulse (11 R309) -/
  secNext : Option (BitVec 32) := none
  /-- changes awaiting their apply instant, earliest first (11 R294) -/
  pend : List PendTime := []
  /-- TIME packet destinations, at most 16 (11 R308) -/
  notify : List (BitVec 16) := []
  /-- last whole second announced (11 R308) -/
  notifySec : Nat := 0
  /-- last whole second pulsed on PPS out (20 R501) -/
  ppsOutSec : Nat := 0
deriving DecidableEq, Repr

/-- TimeBase at its reset values. -/
def TimeBase.reset : TimeBase := {}

/-- What the configuration controller keeps of one flash slot. -/
structure SlotState where
  /-- its header passed the checks when last read (12 R332) -/
  valid : Bool := false
  /-- CFG_CAUSE.CAUSE_A or CAUSE_B (12 R334 Table 12.10) -/
  cause : BitVec 5 := 0
  /-- CFG_SEQ_A or CFG_SEQ_B (12 Table 12.10) -/
  seq : BitVec 64 := 0
  /-- header bytes last read (12 R316) -/
  header : List (BitVec 8) := []
  /-- SLOT_PROGRAM erased the slot and wrote no header yet (12 R339) -/
  erased : Bool := false
deriving DecidableEq, Repr

/-- SlotState at its reset values. -/
def SlotState.reset : SlotState := {}

/-- An image stream being received by the configuration controller. -/
structure Stream where
  /-- a load, bay load or program is taking segments (12 R318) -/
  isOpen : Bool := false
  /-- full load, bay load, repair or slot program (12 R332; 13 R350; 12 R339) -/
  what : StreamUse := .full
  /-- 0, 1 flash slot; 2 CFG_PUSH; 3 IMAGE_DATA; 4 DRAM (12 Table 12.9; 13 Table 13.5) -/
  src : Nat := 0
  /-- 512 header bytes (12 R316) -/
  header : List (BitVec 8) := []
  /-- index of the next segment (12 R318) -/
  segIdx : Nat := 0
  /-- key of that segment (12 R319) -/
  key : List (BitVec 8) := []
  /-- image bytes consumed so far (12 R319) -/
  used : Nat := 0
  /-- payload bytes not yet taken by a record (12 R328) -/
  buf : List (BitVec 8) := []
  /-- image bytes taken from CFG_PUSH or IMAGE_DATA and not yet consumed (12 R338) -/
  pushed : List (BitVec 8) := []
  /-- bytes taken by the push (12 R338) -/
  pushCount : Nat := 0
  /-- instant of the last pushed byte, ps (12 R338) -/
  pushAt : Nat := 0
  /-- the last segment was accepted (12 R319) -/
  last : Bool := false
  /-- frame writes made by this stream (12 R328 Table 12.6) -/
  writes : Nat := 0
  /-- yealms, up to 1,024 frames of 512 bytes (12 R329) -/
  yealms : Tab (List (BitVec 8)) := []
  /-- request token (session ID x 65536 + SEQ) whose command opened it (12 R336) -/
  mbx : Option Nat := none
  /-- target die of a bay stream (13 R350) -/
  die : Nat := 0
  /-- target bay of a bay stream (13 R350) -/
  bay : Nat := 0
  /-- DRAM source to keep as repair source (13 R350) -/
  keepSrc : Option (Nat × Nat) := none
  /-- BAYDESC.FCLK_EN (13 Table 13.3) -/
  fclkEn : BitVec 32 := 0
  /-- BAYDESC.BORDER (13 Table 13.3) -/
  border : BitVec 64 := 0
  /-- slot being programmed (12 R339) -/
  slot : Nat := 0
  /-- a bay load still in step 1 (13 R350 R356) -/
  untouched : Bool := false
  /-- END accepted (12 R329) -/
  ended : Bool := false
  /-- LEN of the FRAMES section, once its header was read (12 R321) -/
  framesLen : Option Nat := none
  /-- bytes of the FRAMES section taken by records (12 R321) -/
  framesUsed : Nat := 0
  /-- MID whose CFG_PUSH writes the temporary entry admits (12 R338) -/
  pushMid : Option (BitVec 12) := none
  /-- DRAM address of the source (13 R350) -/
  atPs : Nat := 0
  /-- length of the DRAM source (13 R350) -/
  len : Nat := 0
  /-- segment 0 was accepted (12 R320 R321) -/
  took : Bool := false
deriving DecidableEq, Repr

/-- Stream at its reset values. -/
def Stream.reset : Stream := {}

/-- What the running image's board descriptor declares. -/
structure Board where
  /-- ADMIN entries: MID_VAL, MID_MASK, ROLES (12 R325) -/
  admins : List (BitVec 12 × BitVec 12 × BitVec 4) := []
  /-- LANESET records (12 Table 12.13) -/
  lanesets : List LaneDecl := []
  /-- DRAM_MAP port records (12 R326) -/
  ports : List PortDecl := []
  /-- TPIN records (12 Table 12.13) -/
  tpins : List (Nat × Nat × BitVec 32) := []
  /-- SPIN value, empty where the image has none (20 R503) -/
  spin : List (BitVec 8) := []
  /-- NODES of the CLOCK entry: node, source, fallback (12 Table 12.13) -/
  nodes : List (Nat × BitVec 6 × BitVec 6) := []
deriving DecidableEq, Repr

/-- Board at its reset values. -/
def Board.reset : Board := {}

/-- One fused signing-key hash. -/
structure KeyHash where
  /-- SHA-384 hash, 48 bytes (12 R313); DESIGN CHOICE not programmed (1) -/
  hash : List (BitVec 8) := []
  /-- programmed bit (12 R313); DESIGN CHOICE (1) -/
  programmed : Bool := false
  /-- revoked bit (12 R313); DESIGN CHOICE (1) -/
  revoked : Bool := false
deriving DecidableEq, Repr

/-- KeyHash at its reset values. -/
def KeyHash.reset : KeyHash := {}

/-- The configuration controller and start-up. -/
structure Cfg where
  /-- CFG_STRAPS: BOOTSRC, OSCD, REFSRC (12 R311 Table 12.10); DESIGN CHOICE 0 until PORn rises (4) -/
  straps : BitVec 6 := 0
  /-- PORn is low (12 R312) -/
  porn : Bool := true
  /-- SRSTn is low (12 R314) -/
  srstn : Bool := false
  /-- REFOSC_EN (12 R312) -/
  refosc : Bool := false
  /-- instant the OSCD count ends, ps (12 R312) -/
  oscdAt : Option Nat := none
  /-- the gable core runs from the boot ROM (12 R312 R332) -/
  coreUp : Bool := false
  /-- the boot ROM has read its fuses and chosen a source (12 R313 R332) -/
  started : Bool := false
  /-- every die was reachable since the load started (12 R330) -/
  reached : Bool := false
  /-- CFG_STATUS.PHASE (12 Table 12.11) -/
  phase : Phase := .boot
  /-- CFG_STATUS.SOURCE (12 Table 12.11) -/
  source : BitVec 2 := 0
  /-- CFG_STATUS.SLOT (12 Table 12.11) -/
  slot : BitVec 2 := 0
  /-- CFG_ERR (12 Table 12.11) -/
  cfgErr : Bool := false
  /-- CFG_DONE (12 Table 12.11) -/
  cfgDone : Bool := false
  /-- WIPING (12 R330) -/
  wiping : Bool := false
  /-- configuration memory known clear (12 R330) -/
  clear : Bool := false
  /-- LAST_CAUSE (12 Table 12.11) -/
  lastCause : BitVec 5 := 0
  /-- CAUSE_CMD (12 Table 12.10) -/
  causeCmd : BitVec 5 := 0
  /-- slot A (12 R332) -/
  slotA : SlotState := SlotState.reset
  /-- slot B (12 R332) -/
  slotB : SlotState := SlotState.reset
  /-- CFG_FRAMES (12 Table 12.10) -/
  frames : BitVec 64 := 0
  /-- CFG_PUSH_COUNT (12 Table 12.10) -/
  pushCount : BitVec 64 := 0
  /-- port 0 device present (12 R331 Table 12.10) -/
  flash0 : Bool := false
  /-- port 1 device present (12 R331 Table 12.10) -/
  flash1 : Bool := false
  /-- the image stream (12) -/
  stream : Stream := Stream.reset
  /-- the SLOT_PROGRAM stream (12 R339) -/
  prog : Stream := Stream.reset
  /-- instant the load started, ps (12 R330) -/
  loadAt : Nat := 0
  /-- instant the phase began, ps (12 R333) -/
  phaseAt : Nat := 0
  /-- SHELL_ID of the running full image (13 R346) -/
  shell : BitVec 64 := 0
  /-- IF_VER of the firmware loaded (12 R322) -/
  fwIf : BitVec 16 := 0
  /-- BUNDLE_ID of the image being loaded or running (12 R323) -/
  bundle : BitVec 64 := 0
  /-- board descriptor (12 R324) -/
  board : Board := Board.reset
  /-- session whose LOAD_IMAGE started the load (12 R337) -/
  keepSess : Option Nat := none
  /-- that session has closed and keeps its mailbox until the load ends (17 R445) -/
  keepClosing : Bool := false
  /-- flash slots still to be tried in this boot (12 R332) -/
  nextSlots : List Nat := []
  /-- the boot waits for REFCLK to return (12 R314) -/
  abandoned : Bool := false
  /-- a core clock failed: the boot restarts when it runs again (18 R464) -/
  bootFault : Bool := false
  /-- bays awaiting repair, oldest detection first (13 R360) -/
  repairQ : List (Nat × Nat) := []
  /-- fused 256-bit device key (12 R313); DESIGN CHOICE empty, not programmed (1) -/
  deviceKey : List (BitVec 8) := []
  /-- fused KEY_HASH0-3, with programmed and revoked bits (12 R313); DESIGN CHOICE not programmed (1) -/
  keyHash : Tab KeyHash := []
deriving DecidableEq, Repr

/-- Cfg at its reset values. -/
def Cfg.reset : Cfg := {}

/-- One configuration frame of 64 words of 64 bits. -/
structure CfgFrame where
  /-- 64 words (13 R358) -/
  words : Tab (BitVec 64) := []
  /-- words that hold a single-bit error (13 R358) -/
  singles : List Nat := []
  /-- uncorrectable (13 R358) -/
  bad : Bool := false
deriving DecidableEq, Repr

/-- CfgFrame at its reset values. -/
def CfgFrame.reset : CfgFrame := {}

/-- One bay, 96 per die. -/
structure Bay where
  /-- BAY_STATUS.STATE (13 R342 Table 13.9) -/
  state : BayState := .empty
  /-- PENDING_ENABLE (13 R356) -/
  pendingEnable : Bool := false
  /-- REPAIR (13 R360) -/
  repair : Bool := false
  /-- UE_KNOWN (13 R360) -/
  ueKnown : Bool := false
  /-- repair source: DRAM address, length, session (13 R361) -/
  source : Option (Nat × Nat × Nat) := none
  /-- CAUSE (13 R351) -/
  cause : BitVec 5 := 0
  /-- BAY_BORDER_DEFAULT (13 Table 13.8); DESIGN CHOICE 0 before an image (2) -/
  border : BitVec 64 := 0
  /-- BAY_ID (13 Table 13.8) -/
  ident : BitVec 64 := 0
  /-- BAY_FCLK_EN (13 Table 13.8); DESIGN CHOICE 0 before an image (2) -/
  fclkEn : BitVec 32 := 0
  /-- BAY_CNT.LOADS (13 Table 13.8) -/
  loads : BitVec 16 := 0
  /-- BAY_CNT.REPAIRS (13 Table 13.8) -/
  repairs : BitVec 16 := 0
  /-- BAY_CORR (13 Table 13.8) -/
  corr : BitVec 16 := 0
  /-- border clamped (13 R342 R343) -/
  clamped : Bool := true
  /-- border settings in force at the clamp edge (13 R344); DESIGN CHOICE 0 (3) -/
  clampedBy : BitVec 64 := 0
  /-- contents of its 20,480 flip-flops (02 R52 R58 R59); DESIGN CHOICE undefined at reset (3) -/
  ffs : FlipFlops := .undef 0
  /-- levels its outgoing slots carried at the clamp edge (13 R343); DESIGN CHOICE 0 (3) -/
  slotHold : BitVec 1024 := 0
  /-- levels its logic last received on the incoming slots (13 R343); DESIGN CHOICE 0 (3) -/
  slotSeen : BitVec 1024 := 0
  /-- FCLK nets of the bay enabled (02 R56; 13 R343) -/
  fclkOn : Bool := false
  /-- fabric port open (12 R333; 13 R342) -/
  portOpen : Bool := false
  /-- command held behind the shut-down (13 R356) -/
  held : Option HeldBay := none
  /-- WIPE of the running shut-down (13 R353 R355) -/
  shutWipe : Bool := false
  /-- request tokens whose BAY_SHUTDOWN awaits completion (13 R355) -/
  shutCmds : List Nat := []
  /-- request token and command of the running load, restore or enable (13 R356) -/
  runCmd : Option (Nat × BitVec 16) := none
  /-- requests of the bay held at its port between P2 and P4 (12 R333) -/
  heldReqs : List Req := []
  /-- the drain of the fabric port has ended (07 R203; 13 R353) -/
  drained : Bool := true
  /-- END accepted: the bay is released when its drain has ended (13 R350) -/
  ready : Bool := false
  /-- the running shut-down ends a bay that needs repair and has no source (13 R361) -/
  noSrc : Bool := false
  /-- the full image gives the bay no content (13 R342); DESIGN CHOICE before an image (2) -/
  unused : Bool := true
deriving DecidableEq, Repr

/-- Bay at its reset values. -/
def Bay.reset : Bay := {}

/-- One event. -/
structure Event where
  /-- EVID (19 R487) -/
  evid : BitVec 10 := 0
  /-- EVDATA (19 R487) -/
  evdata : BitVec 32 := 0
  /-- short stamp of the raise (19 R487) -/
  stamp : BitVec 32 := 0
  /-- COARSE (19 R487) -/
  coarse : Bool := false
  /-- what the gable firmware reads of the source for the log entry (19 R483 R484) -/
  note : Option LogEntry := none
deriving DecidableEq, Repr

/-- Event at its reset values. -/
def Event.reset : Event := {}

/-- Leggett of one die. -/
structure Leggett where
  /-- LG_STATUS.CFG_RUN (13 Table 13.10) -/
  cfgRun : Bool := false
  /-- LG_STATUS.MEM_RUN (13 Table 13.10) -/
  memRun : Bool := false
  /-- LG_STATUS.FENCED (13 R362) -/
  fenced : Bool := false
  /-- events of Leggett that wait until the gable core runs again (13 R365) -/
  waiting : List Event := []
  /-- LG_CFG (13 Table 13.10) -/
  cfg : BitVec 32 := 0x00C8C028
  /-- LG_FRAME, index of the frame being read, 19 bits (13 Table 13.10) -/
  frame : Nat := 0
  /-- frames read before the pass goes on, as the next index and the end of each range (13 R365) -/
  first : List (Nat × Nat) := []
  /-- instant the configuration pass began, ps (13 R357) -/
  passAt : Nat := 0
  /-- LG_CFG_PASSES (13 Table 13.10) -/
  passes : BitVec 32 := 0
  /-- LG_CFG_LAST (13 Table 13.10) -/
  last : BitVec 32 := 0
  /-- LG_CFG_CORR (13 Table 13.10) -/
  cfgCorr : BitVec 32 := 0
  /-- LG_CFG_UE (13 Table 13.10) -/
  cfgUe : BitVec 16 := 0
  /-- LG_MEM_PASSES (13 Table 13.10) -/
  memPasses : BitVec 32 := 0
  /-- LG_MEM_CORR (13 Table 13.10) -/
  memCorr : BitVec 32 := 0
  /-- LG_MEM_UE (13 Table 13.10) -/
  memUe : BitVec 16 := 0
  /-- LG_MEM_MISS (13 Table 13.10) -/
  memMiss : BitVec 32 := 0
  /-- LG_STARVED (13 Table 13.10) -/
  starved : BitVec 16 := 0
  /-- words of each memory visited in this pass, key 8192 x kind + number (13 R363) -/
  memPos : Tab Nat := []
  /-- visits made to each memory in this pass, those retried included (13 R363) -/
  memTry : Tab Nat := []
  /-- instant of the memory pass start, ps (13 R363) -/
  memAt : Nat := 0
  /-- instant of the last CFG_CORR event, ps (13 R359) -/
  corrAt : Option Nat := none
deriving DecidableEq, Repr

/-- Leggett at its reset values. -/
def Leggett.reset : Leggett := {}

/-- The declaration of one channel (Table 14.2). -/
structure DramDecl where
  /-- DIMMS (14 R369 Table 14.2) -/
  dimms : Nat := 0
  /-- RATE (14 Table 14.2) -/
  rate : Nat := 0
  /-- WIDTH (14 Table 14.2) -/
  width : Nat := 0
  /-- DENSITY (14 Table 14.2) -/
  density : Nat := 0
  /-- PRANKS (14 Table 14.2) -/
  pranks : Nat := 0
  /-- LRANKS (14 Table 14.2) -/
  lranks : Nat := 0
  /-- ECC_MODE: mode B (14 Table 14.2) -/
  eccB : Bool := false
  /-- REF_MODE: same-bank (14 Table 14.2) -/
  refSb : Bool := false
  /-- RFM_REQ (14 R370 Table 14.2) -/
  rfm : Bool := false
  /-- tAA, tRCD, tRP, tRAS, tWR, tRFC1, tRFCsb, ps (14 Table 14.2) -/
  times : List Nat := []
deriving DecidableEq, Repr

/-- DramDecl at its reset values. -/
def DramDecl.reset : DramDecl := {}

/-- One ingress port of a channel. -/
structure DramPort where
  /-- MEM_PORT_p.RT (14 R381 Table 14.10) -/
  rt : Bool := false
  /-- PANIC_TH (14 R383 Table 14.10) -/
  panicTh : BitVec 5 := 0
  /-- queue of packets; on a real-time port those with RT = 0 (14 R381) -/
  q : List Pkt := []
  /-- queue of packets with RT = 1 (14 R381) -/
  rtq : List Pkt := []
  /-- in panic (14 R383) -/
  panic : Bool := false
deriving DecidableEq, Repr

/-- DramPort at its reset values. -/
def DramPort.reset : DramPort := {}

/-- One packet a channel has taken from an ingress port and not answered. -/
structure DramPkt where
  /-- number that its command-queue entries carry (14 R382) -/
  ident : Nat := 0
  /-- the packet (14 R382) -/
  pkt : Pkt := Pkt.reset
  /-- ingress port (14 R381) -/
  port : Nat := 0
  /-- lines of it not finished, by number from its first (14 R387) -/
  left : List Nat := []
  /-- bytes read for it, by payload offset (14 R388) -/
  got : Tab (BitVec 8) := []
  /-- RESP found so far (14 R388 R389, 15 R401) -/
  resp : BitVec 3 := 0
deriving DecidableEq, Repr

/-- DramPkt at its reset values. -/
def DramPkt.reset : DramPkt := {}

/-- One Flashing region, the same in all eight units. -/
structure FlashRegion where
  /-- VALID (15 R395 Table 15.5) -/
  valid : Bool := false
  /-- BASE (15 R395) -/
  base : BitVec 48 := 0
  /-- LIMIT, last byte (15 R395) -/
  limit : BitVec 48 := 0
  /-- LBA_OFFSET (15 R399) -/
  lba : BitVec 64 := 0
  /-- SLOT (15 R396) -/
  slot : BitVec 4 := 0
  /-- SECTOR_LOG2 (15 R399) -/
  sectorLog2 : BitVec 4 := 0
  /-- ENC (15 R397) -/
  enc : Bool := false
  /-- INTEG (15 R397) -/
  integ : Bool := false
deriving DecidableEq, Repr

/-- FlashRegion at its reset values. -/
def FlashRegion.reset : FlashRegion := {}

/-- One key slot of a unit. -/
structure KeySlot where
  /-- the slot holds a key (15 R396) -/
  loaded : Bool := false
  /-- PERSIST (15 R413) -/
  persist : Bool := false
  /-- owning session ID, 0 when none (15 R413 R414) -/
  owner : BitVec 32 := 0
  /-- KEY1, KEY2, KEY_T, 96 bytes (15 R396) -/
  keys : List (BitVec 8) := []
deriving DecidableEq, Repr

/-- KeySlot at its reset values. -/
def KeySlot.reset : KeySlot := {}

/-- One entry of a subchannel command queue: one line of one packet. -/
structure DramCmd where
  /-- number of the packet (14 R382) -/
  ident : Nat := 0
  /-- line of the packet (14 R387) -/
  line : Nat := 0
  /-- package address of the line (15 R397) -/
  addr : BitVec 48 := 0
  /-- channel that holds the line (14 R378) -/
  ch : Nat := 0
  /-- channel address of the line (14 R378) -/
  c : Nat := 0
  /-- instant it entered, ps (14 R382) -/
  atPs : Nat := 0
  /-- of a WR or PWR (14 R382) -/
  write : Bool := false
  /-- a full-line write, or one that stores the poison mark: nothing is read (14 R389 R390) -/
  full : Bool := false
  /-- taken from a port in panic (14 R383) -/
  prio : Bool := false
  /-- read issued, data awaited (14 R382) -/
  issued : Bool := false
  /-- region that holds the line, with its number and key, as they were when the packet was taken (15 R395 R396 R404) -/
  flash : Option (Nat × FlashRegion × KeySlot) := none
deriving DecidableEq, Repr

/-- DramCmd at its reset values. -/
def DramCmd.reset : DramCmd := {}

/-- One DDR5 channel. -/
structure Channel where
  /-- MEM_STATUS.STATE (14 R372 Table 14.7) -/
  state : ChanState := .off
  /-- MEM_STATUS.CAUSE (14 Table 14.7) -/
  cause : BitVec 5 := 0
  /-- PENDING_ENABLE (14 R376) -/
  pendingEnable : Bool := false
  /-- HOT (14 R386) -/
  hot : Bool := false
  /-- PD (14 R385) -/
  pd : Bool := false
  /-- SREF (14 R385) -/
  sref : Bool := false
  /-- declaration in force (14 R369) -/
  decl : Option DramDecl := none
  /-- instant the state was entered, ps (14 R373) -/
  since : Nat := 0
  /-- MEM_CFG.LP_SEL (14 R385) -/
  lpSel : BitVec 2 := 0
  /-- MEM_CFG.PD_IDLE (14 Table 14.8) -/
  pdIdle : BitVec 8 := 0
  /-- MEM_CFG.SREF_IDLE (14 Table 14.8) -/
  srefIdle : BitVec 12 := 0
  /-- 16 ingress ports (14 R381) -/
  ports : Tab DramPort := []
  /-- command queue of each subchannel, at most 64 (14 R382) -/
  cmdq : Tab (List DramCmd) := []
  /-- open row + 1 of each bank, by subchannel, rank, group and bank (14 R382) -/
  openRow : Tab Nat := []
  /-- writes of a subchannel draining (14 R382) -/
  draining : Tab Bool := []
  /-- real-time sources, the ingress port of each, and whether the firmware marked it RT (08 R221) -/
  rtSrcs : List (BitVec 12 × Nat × Bool) := []
  /-- port served last among panicking ports (14 R383); DESIGN CHOICE 0 (3) -/
  rr : Nat := 0
  /-- refreshes owed by rank (14 R383) -/
  owed : Tab Nat := []
  /-- instant of the last refresh of each rank, ps (14 R386) -/
  refAt : Tab Nat := []
  /-- instant of the last ZQ calibration of each rank, ps (14 R374) -/
  zqAt : Tab Nat := []
  /-- instant of the last DQS retracking of each rank, ps (14 R374) -/
  dqsAt : Tab Nat := []
  /-- instant of the last MR4 poll of each rank, ps (14 R386) -/
  mr4At : Tab Nat := []
  /-- instant of the last command, ps (14 R385) -/
  lastCmd : Nat := 0
  /-- instant a wake from PD or SREF began, ps (14 R385) -/
  wakeAt : Option Nat := none
  /-- alerts in a row (14 R374) -/
  alertRun : Nat := 0
  /-- packets taken from the ports and not answered, oldest first (14 R382) -/
  serving : List DramPkt := []
  /-- number of the next packet taken (14 R382) -/
  nextId : Nat := 0
  /-- ranks whose last MR4 asked for 2x or more (14 R386) -/
  hotRanks : List Nat := []
  /-- the running shut-down keeps contents (14 R377) -/
  retain : Bool := true
  /-- request token (session ID x 65536 + SEQ) whose MEM_UP awaits completion (14 R377) -/
  upCmd : Option Nat := none
  /-- request token of a held MEM_UP (14 R376) -/
  heldUp : Option Nat := none
  /-- request tokens whose MEM_DOWN awaits completion, with RETAIN (14 R377) -/
  downCmds : List (Nat × Bool) := []
  /-- MEM_CE (14 Table 14.6) -/
  ce : BitVec 32 := 0
  /-- MEM_UE (14 Table 14.6) -/
  ue : BitVec 32 := 0
  /-- MEM_POISONED (14 Table 14.6) -/
  poisoned : BitVec 32 := 0
  /-- MEM_PANIC (14 Table 14.6) -/
  panicCnt : BitVec 32 := 0
  /-- MEM_ALERT (14 Table 14.6) -/
  alertCnt : BitVec 32 := 0
  /-- MEM_SCRUB_PASS (14 Table 14.6) -/
  scrubPass : BitVec 32 := 0
  /-- MEM_SCRUB_POS (14 Table 14.6) -/
  scrubPos : Nat := 0
  /-- instant of the last DRAM_CE event, ps (14 R388) -/
  ceAt : Option Nat := none
  /-- state of each 64-byte line, unwritten where unlisted (14 R387 R390 R391) -/
  lines : Tab LineState := []
deriving DecidableEq, Repr

/-- Channel at its reset values. -/
def Channel.reset : Channel := {}

/-- One interleave set (Table 14.9). -/
structure IlvSet where
  /-- VALID (14 Table 14.9) -/
  valid : Bool := false
  /-- BASE_G (14 Table 14.9) -/
  baseG : BitVec 12 := 0
  /-- SIZE_G (14 Table 14.9) -/
  sizeG : BitVec 13 := 0
  /-- WAYS (14 Table 14.9) -/
  ways : BitVec 3 := 0
  /-- GRAIN (14 Table 14.9) -/
  grain : BitVec 5 := 0
  /-- CH_LIST (14 Table 14.9) -/
  chList : BitVec 24 := 0
  /-- OFFSET_G (14 Table 14.9) -/
  offsetG : BitVec 11 := 0
deriving DecidableEq, Repr

/-- IlvSet at its reset values. -/
def IlvSet.reset : IlvSet := {}

/-- One DRAM access region. -/
structure Region where
  /-- defined (01 R22) -/
  valid : Bool := false
  /-- base (01 R22) -/
  base : BitVec 48 := 0
  /-- limit, last byte (01 R22) -/
  limit : BitVec 48 := 0
  /-- SCRUB attribute (14 R392) -/
  scrub : Bool := false
deriving DecidableEq, Repr

/-- Region at its reset values. -/
def Region.reset : Region := {}

/-- The DRAM system. -/
structure Dram where
  /-- eight channels (14) -/
  chans : Tab Channel := []
  /-- MEM_MAP_0-3 (14 R378) -/
  sets : Tab IlvSet := []
  /-- MEM_HASH_0-5 (14 R380) -/
  hash : Tab (BitVec 64) := []
  /-- access regions 0-63 (01 R22) -/
  regions : Tab Region := []
  /-- stored bytes, key channel x 2^42 + channel address (14 R378; 15) -/
  bytes : List Host.Cell := []
  /-- SCRUB_HOURS (14 R392) -/
  scrubHours : BitVec 16 := 24
  /-- MEM_INIT fills in progress, by DMA channel (14 R391) -/
  fills : Tab MemFill := []
deriving DecidableEq, Repr

/-- Dram at its reset values. -/
def Dram.reset : Dram := {}

/-- The Flashing unit of one channel. -/
structure FlashUnit where
  /-- 16 key slots (15 R396) -/
  slots : Tab KeySlot := []
  /-- FL_INTEG (15 Table 15.4) -/
  integCnt : BitVec 32 := 0
  /-- FL_REFUSED (15 Table 15.4) -/
  refused : BitVec 32 := 0
  /-- FL_NOKEY (15 Table 15.4) -/
  noKey : BitVec 32 := 0
deriving DecidableEq, Repr

/-- FlashUnit at its reset values. -/
def FlashUnit.reset : FlashUnit := {}

/-- Link encryption of one Eoset-X port or guest link. -/
structure LinkKey where
  /-- key in force or installed (15 R407) -/
  key : Option (List (BitVec 8)) := none
  /-- key held for the next entry to ACTIVE (15 R411) -/
  next : Option (List (BitVec 8)) := none
  /-- TX_ID (15 R407) -/
  txId : BitVec 32 := 0
  /-- RX_ID (15 R407) -/
  rxId : BitVec 32 := 0
  /-- TX_ID of the next key (15 R411) -/
  nextTx : BitVec 32 := 0
  /-- RX_ID of the next key (15 R411) -/
  nextRx : BitVec 32 := 0
  /-- the link left ACTIVE encrypted and comes up only after KEY_LINK (15 R411) -/
  needKey : Bool := false
  /-- frame counter of the sending direction (15 R407) -/
  txCtr : BitVec 64 := 0
  /-- frame counter of the receiving direction (15 R407) -/
  rxCtr : BitVec 64 := 0
  /-- owning session ID (15 R413) -/
  owner : BitVec 32 := 0
  /-- owning session ID of the next key (15 R413) -/
  nextOwner : BitVec 32 := 0
  /-- digest of a key erased by TAMPER (15 R410) -/
  digest : Option (List (BitVec 8)) := none
  /-- instants of the tag failures of the last 1 ms, ps (15 R410) -/
  fails : List Nat := []
deriving DecidableEq, Repr

/-- LinkKey at its reset values. -/
def LinkKey.reset : LinkKey := {}

/-- A register set of a DMA channel (Table 16.8). -/
structure DmaSet where
  /-- SRC_ADDR (16 Table 16.8) -/
  src : BitVec 48 := 0
  /-- DST_ADDR (16 Table 16.8) -/
  dst : BitVec 48 := 0
  /-- SRC_STRIDE (16 Table 16.8) -/
  srcStride : BitVec 48 := 0
  /-- DST_STRIDE (16 Table 16.8) -/
  dstStride : BitVec 48 := 0
  /-- SRC_LINE (16 Table 16.8) -/
  srcLine : BitVec 24 := 0
  /-- SRC_LINES (16 Table 16.8) -/
  srcLines : BitVec 16 := 0
  /-- DST_LINE (16 Table 16.8) -/
  dstLine : BitVec 24 := 0
  /-- DST_LINES (16 Table 16.8) -/
  dstLines : BitVec 16 := 0
  /-- PATTERN (16 Table 16.8) -/
  pattern : BitVec 64 := 0
  /-- START_AT (16 Table 16.8) -/
  startAt : BitVec 48 := 0
  /-- CFG: MODE, RETRY, PRIO, ORD, TIMED (16 Table 16.10) -/
  cfg : BitVec 9 := 0
deriving DecidableEq, Repr

/-- DmaSet at its reset values. -/
def DmaSet.reset : DmaSet := {}

/-- One request of a DMA channel. -/
structure Beat where
  /-- a write (16 R416) -/
  write : Bool := false
  /-- destination side (16 R430) -/
  side : Bool := false
  /-- the read-back (16 R428) -/
  rb : Bool := false
  /-- position in its side's stream (16 R419) -/
  pos : Nat := 0
  /-- start address (16 R416) -/
  addr : BitVec 48 := 0
  /-- bytes (16 R416) -/
  len : Nat := 0
  /-- TAG of the request (16 R416) -/
  tag : BitVec 10 := 0
  /-- retries made (16 R429) -/
  tries : Nat := 0
  /-- instant the retry is issued, ps (16 R429) -/
  retryAt : Option Nat := none
  /-- data of a write, kept for its retries (16 R429) -/
  data : List (BitVec 8) := []
deriving DecidableEq, Repr

/-- Beat at its reset values. -/
def Beat.reset : Beat := {}

/-- One DMA channel. -/
structure DmaCh where
  /-- DMA_STATUS.STATE (16 R424 Table 16.9) -/
  state : DmaState := .idle
  /-- COMMITTED (16 Table 16.9) -/
  committed : Bool := false
  /-- PENDING_ENABLE (16 Table 16.9) -/
  pendingEnable : Bool := false
  /-- DONE (16 Table 16.9) -/
  done : Bool := false
  /-- LATE (16 Table 16.9) -/
  late : Bool := false
  /-- SHADOW_ERR (16 Table 16.9) -/
  shadowErr : Bool := false
  /-- CAUSE (16 Table 16.9) -/
  cause : BitVec 3 := 0
  /-- RETRIED (16 Table 16.9) -/
  retried : Bool := false
  /-- SIDE (16 Table 16.9) -/
  side : Bool := false
  /-- RB (16 Table 16.9) -/
  rb : Bool := false
  /-- the stop in progress is a halt (16 R430) -/
  halting : Bool := false
  /-- DMA_GRANT.MID_VAL (16 Table 16.6) -/
  midVal : BitVec 12 := 0
  /-- DMA_GRANT.MID_MASK (16 Table 16.6) -/
  midMask : BitVec 12 := 0
  /-- DMA_GRANT.PRIV (16 Table 16.6) -/
  priv : Bool := false
  /-- DMA_GRANT.VALID (16 Table 16.6) -/
  valid : Bool := false
  /-- owning session ID (16 R417) -/
  owner : BitVec 32 := 0
  /-- held for MEM_INIT (16 R417) -/
  held : Bool := false
  /-- DMA_IRQ_EN.DONE (16 Table 16.6) -/
  irqDone : Bool := false
  /-- DMA_IRQ_EN.HALT (16 Table 16.6) -/
  irqHalt : Bool := false
  /-- shadow set (16 Table 16.8) -/
  shadow : DmaSet := DmaSet.reset
  /-- active set (16 Table 16.8) -/
  active : DmaSet := DmaSet.reset
  /-- START_AT expanded at promotion, ps (16 R427; 11 R539) -/
  startP : Nat := 0
  /-- source bytes asked for (16 R419) -/
  rdPos : Nat := 0
  /-- destination bytes asked for, COMPARE (16 R421) -/
  rd2Pos : Nat := 0
  /-- destination bytes written out (16 R419) -/
  wrPos : Nat := 0
  /-- bytes read and not yet written, by stream position (16 R416) -/
  buf : Tab (BitVec 8) := []
  /-- ranges of the source stream held in the buffer (16 R416) -/
  got : List (Nat × Nat) := []
  /-- destination bytes read by COMPARE, by stream position (16 R422) -/
  cmpB : Tab (BitVec 8) := []
  /-- ranges of the destination stream held for COMPARE (16 R422) -/
  gotB : List (Nat × Nat) := []
  /-- requests outstanding or awaiting a retry (16 R416) -/
  beats : List Beat := []
  /-- DMA_RD_BYTES (16 R431) -/
  rdBytes : BitVec 48 := 0
  /-- DMA_WR_BYTES (16 R431) -/
  wrBytes : BitVec 48 := 0
  /-- DMA_BUF (16 R431) -/
  bufCnt : BitVec 13 := 0
  /-- DMA_S_RD (16 R431) -/
  sRd : BitVec 48 := 0
  /-- DMA_S_WR (16 R431) -/
  sWr : BitVec 48 := 0
  /-- DMA_S_BUF (16 R431) -/
  sBuf : BitVec 13 := 0
  /-- DMA_MISMATCH (16 R422) -/
  mismatch : BitVec 32 := 0
  /-- DMA_FAIL_ADDR (16 R422) -/
  failAddr : BitVec 48 := 0
  /-- a mismatch was found in this transfer (16 R422) -/
  failed : Bool := false
  /-- DMA_RETRIES (16 R429) -/
  retries : BitVec 16 := 0
  /-- DMA_STAMP (16 R433) -/
  stamp : BitVec 32 := 0
  /-- DMA_HALT_ADDR (16 R430) -/
  haltAddr : BitVec 48 := 0
  /-- request token (session ID x 65536 + SEQ) whose DMA_RELEASE awaits completion (16 R417) -/
  relCmd : Option Nat := none
  /-- the grant is being released (16 R417) -/
  releasing : Bool := false
  /-- a GO held through package DEEP (16 R434) -/
  goInDeep : Bool := false
deriving DecidableEq, Repr

/-- DmaCh at its reset values. -/
def DmaCh.reset : DmaCh := {}

/-- One completion held for a session. -/
structure Completion where
  /-- the command has ended (17 R440) -/
  ready : Bool := false
  /-- SEQ of the request (17 R440) -/
  seq : BitVec 16 := 0
  /-- STATUS (17 Table 17.7) -/
  status : BitVec 8 := 0
  /-- results (17 Table 17.7) -/
  data : List (BitVec 8) := []
deriving DecidableEq, Repr

/-- Completion at its reset values. -/
def Completion.reset : Completion := {}

/-- A command answered ACCEPTED that still runs. -/
structure Running where
  /-- COMMAND (17 R440) -/
  cmd : BitVec 16 := 0
  /-- SEQ (17 R441) -/
  seq : BitVec 16 := 0
  /-- its hardware sequence has begun (17 R450) -/
  begun : Bool := true
deriving DecidableEq, Repr

/-- Running at its reset values. -/
def Running.reset : Running := {}

/-- One mailbox and its session. -/
structure Mbx where
  /-- MBX_REQ, 256 bytes (17 Table 17.2) -/
  req : Tab (BitVec 8) := []
  /-- MBX_RSP, 256 bytes (17 Table 17.2) -/
  rsp : Tab (BitVec 8) := []
  /-- MBX_CPL, 256 bytes (17 Table 17.2) -/
  cpl : Tab (BitVec 8) := []
  /-- MBX_STATUS.REQ_BUSY (17 Table 17.3) -/
  ringing : Bool := false
  /-- the request was taken and its answer waits for an apply instant (11 R294; 17 R439) -/
  deferred : Bool := false
  /-- SRC of the doorbell write (17 R443) -/
  ringSrc : BitVec 12 := 0
  /-- number of this doorbell in the order of ringing (08 R223) -/
  rungNo : Nat := 0
  /-- RSP_VALID (17 Table 17.3) -/
  rspValid : Bool := false
  /-- CPL_VALID (17 Table 17.3) -/
  cplValid : Bool := false
  /-- LAST_SEQ (17 Table 17.3) -/
  lastSeq : BitVec 16 := 0
  /-- MBX_IRQ_EN (17 Table 17.4) -/
  irqEn : BitVec 3 := 0
  /-- GEN (17 R443) -/
  gen : BitVec 24 := 0
  /-- BOUND (17 Table 17.3) -/
  bound : Bool := false
  /-- MID of the session's opener (17 R443) -/
  opener : BitVec 12 := 0
  /-- roles of the session (12 R325) -/
  roles : BitVec 4 := 0
  /-- heartbeat period, ms (17 R444) -/
  hbMs : Nat := 0
  /-- instant the heartbeat timer restarted, ps (17 R444) -/
  hbAt : Nat := 0
  /-- time counted before the timer last stood still, ps (17 R444) -/
  hbUsed : Nat := 0
  /-- commands still running (17 R440) -/
  running : List Running := []
  /-- completions held, the shown one not included, at most 15 (17 R440) -/
  queue : List Completion := []
  /-- last 32 final statuses with their SEQ, newest first (17 R441) -/
  recorded : List (BitVec 16 × BitVec 8) := []
  /-- MBX_EVPOP_STAMP (17 Table 17.2) -/
  evStamp : BitVec 32 := 0
  /-- raised MBX_NOTIFY since the last READ_STATUS, for NOTIFY (17 R454) -/
  notify : Bool := false
deriving DecidableEq, Repr

/-- Mbx at its reset values. -/
def Mbx.reset : Mbx := {}

/-- The gable controller. -/
structure Gable where
  /-- GSTATE (17 Table 17.3); DESIGN CHOICE the Table 17.3 value 0 at reset (3) -/
  gstate : GState := .running
  /-- RESTARTS (17 Table 17.5) -/
  restarts : BitVec 16 := 0
  /-- MBX_BLK_CAUSE (17 Table 17.5) -/
  cause : BitVec 3 := 0
  /-- restart beginnings without reaching step 4 (17 R449) -/
  beginnings : Nat := 0
  /-- causes of beginnings not yet logged, with the firmware address (17 R449; 19 Table 19.3) -/
  pendCauses : List (BitVec 3 × BitVec 32) := []
  /-- mailbox served last (17 R439); DESIGN CHOICE 0 (3) -/
  rr : Nat := 0
  /-- doorbells rung so far (08 R223) -/
  ringCnt : Nat := 0
  /-- instant the watchdog was reloaded, ps (20 R521) -/
  wdtAt : Nat := 0
  /-- watchdog remaining when frozen, us (20 R521; Table 20.10) -/
  wdtLeft : Nat := 100000
  /-- instant of the last SRAM scrub, ps (17 R448) -/
  scrubAt : Nat := 0
  /-- service-SPI ERR (17 Table 17.13) -/
  spiErr : Bool := false
  /-- data bytes the last service-SPI read shifted out (17 R454) -/
  spiOut : List (BitVec 8) := []
  /-- 64 mailboxes (17 R437) -/
  mbx : Tab Mbx := []
  /-- a halt is deferred behind a reservation (20 R520) -/
  haltReq : Bool := false
  /-- instant the deferred halt arrived, ps (20 R520) -/
  haltAt : Nat := 0
  /-- the core holds a locked read-modify-write reservation (20 R520) -/
  reservation : Bool := false
  /-- LD_GABLE_STATUS.LOCK_BROKEN (20 Table 20.10) -/
  lockBroken : Bool := false
  /-- the core is halted by Ladder (20 R520) -/
  halted : Bool := false
  /-- core registers 0-31 (20 Table 20.10) -/
  gr : Tab (BitVec 32) := []
  /-- core PC (20 Table 20.10) -/
  pc : BitVec 32 := 0
deriving DecidableEq, Repr

/-- Gable at its reset values. -/
def Gable.reset : Gable := {}

/-- One clock node. -/
structure ClkNode where
  /-- CLK_NODE.SOURCE (18 Table 18.11) -/
  source : BitVec 6 := 0
  /-- CLK_NODE.STATE (18 Table 18.11) -/
  state : NodeState := .stopped
  /-- FALLBACK (18 Table 18.11) -/
  fallback : BitVec 6 := 0x3F
  /-- source of a pending switch (18 R466) -/
  newSource : Option (BitVec 6) := none
  /-- request token (session ID x 65536 + SEQ) whose CLK_SELECT is pending (18 R466) -/
  selMbx : Option Nat := none
  /-- FORCE_OK (18 R467) -/
  forceOk : Bool := false
  /-- declared failed and not yet running again (18 R462 R463) -/
  failed : Bool := false
  /-- FAILS (18 Table 18.11) -/
  fails : BitVec 8 := 0
  /-- frequency measured, kHz (18 R477) -/
  freq : BitVec 32 := 0
  /-- stopped by Ladder (20 R516) -/
  stop : Bool := false
deriving DecidableEq, Repr

/-- ClkNode at its reset values. -/
def ClkNode.reset : ClkNode := {}

/-- Power state of one element. -/
structure Elem where
  /-- STATE (18 R469) -/
  state : PowerState := .active
  /-- entering, waking or steady (18 R471 Table 18.13) -/
  phase : PowerPhase := .steady
  /-- state being entered (18 R471) -/
  target : PowerState := .active
  /-- PENDING_ENABLE (18 R471) -/
  pendingEnable : Bool := false
  /-- DEEPEST (18 R470) -/
  deepest : PowerState := .active
  /-- IDLE_US (18 R470) -/
  idleUs : Nat := 0
  /-- level of BAY_IDLE_OK or DIE_IDLE_OK (18 R470) -/
  idleOk : Bool := false
  /-- instant since which the idle condition holds, ps (18 R470) -/
  idleAt : Option Nat := none
  /-- WAKES (18 R477 Table 18.13) -/
  wakes : BitVec 32 := 0
  /-- instant the entry or exit began, ps (18 R471) -/
  atPs : Nat := 0
  /-- request tokens (session ID x 65536 + SEQ) whose PWR_SET into a low-power state awaits completion (18 R471) -/
  cmds : List Nat := []
  /-- request tokens whose PWR_SET to ACTIVE awaits completion (18 R471) -/
  wakeCmds : List Nat := []
deriving DecidableEq, Repr

/-- Elem at its reset values. -/
def Elem.reset : Elem := {}

/-- Clocks and power. -/
structure Clocks where
  /-- clock nodes by node code (18 R461 Table 18.3) -/
  nodes : Tab ClkNode := []
  /-- elements by kind, die and ID (18 R469) -/
  elems : Tab Elem := []
  /-- CP_STATUS.PKG (18 Table 18.12) -/
  pkg : PkgPower := .active
  /-- AOCLK_FAIL (18 Table 18.12) -/
  aoclkFail : Bool := false
  /-- RC_MON (18 Table 18.12) -/
  rcMon : Bool := false
  /-- PENDING_ENABLE (18 Table 18.12) -/
  pendingEnable : Bool := false
  /-- CP_WAKE_CAUSE (18 Table 18.10) -/
  wakeCause : BitVec 6 := 0
  /-- CP_WAKE_EN (18 Table 18.10) -/
  wakeEn : BitVec 6 := 0x20
  /-- CP_ALARM (18 Table 18.10) -/
  alarm : BitVec 48 := 0
  /-- alarm expanded, ps (18 R475; 11 R539) -/
  alarmP : Option Nat := none
  /-- request token (session ID x 65536 + SEQ) whose package PWR_SET awaits completion (18 R474) -/
  deepMbx : Option Nat := none
  /-- instant the entry or wake began, ps (18 R474) -/
  deepAt : Nat := 0
  /-- master counter recorded at entry (11 R302; 18 R474) -/
  deepTime : Nat := 0
  /-- links and ports that come up again at the wake (18 R476) -/
  relink : List Nat := []
  /-- step 3 of the entry to DEEP has begun (18 R474) -/
  deepLinks : Bool := false
  /-- outside sources declared stopped: REFCLK and clock-capable inputs (18 R462 R468) -/
  deadSrc : List Nat := []
deriving DecidableEq, Repr

/-- Clocks at its reset values. -/
def Clocks.reset : Clocks := {}

/-- One item of the log intake queue. -/
structure LogEv where
  /-- the entry to write, index and time apart (19 R486) -/
  entry : LogEntry := LogEntry.reset
  /-- instant of the event, ps (19 R483) -/
  atPs : Nat := 0
deriving DecidableEq, Repr

/-- LogEv at its reset values. -/
def LogEv.reset : LogEv := {}

/-- The fault log. -/
structure Log where
  /-- ring of 4,096 entries with their INDEX, oldest first (19 R482) -/
  entries : List (BitVec 32 × LogEntry) := []
  /-- next INDEX (19 R482) -/
  next : BitVec 32 := 1
  /-- OVERWRITTEN (19 R482) -/
  overwritten : BitVec 32 := 0
  /-- instant of the last LOG_OVERWRITE event, ps (19 R482) -/
  overAt : Option Nat := none
  /-- intake queue, at most 1,024 (19 R486) -/
  intake : List LogEv := []
  /-- EVR_DROPS (19 R486) -/
  drops : BitVec 32 := 0
  /-- events lost and not yet recorded (19 R486) -/
  pendDrops : BitVec 32 := 0
  /-- instant of the denial that created the newest ACCESS_DENIED entry, ps (01 R37) -/
  denAt : Nat := 0
  /-- SRC and target ID of that denial (01 R37) -/
  denKey : Option (BitVec 12 × BitVec 16) := none
  /-- repeats counted while that entry is not yet written (01 R37) -/
  denRep : BitVec 16 := 0
  /-- INDEX of that entry, 0 while it is not yet written (01 R37) -/
  denIdx : BitVec 32 := 0
  /-- older denial entries not yet written: SRC, target ID and repeats counted (01 R37) -/
  denOld : List (BitVec 12 × BitVec 16 × BitVec 16) := []
deriving DecidableEq, Repr

/-- Log at its reset values. -/
def Log.reset : Log := {}

/-- One output of the event router. -/
structure EvOut where
  /-- EVR_OUT_CFG_k: TYPE, MODE, TARGET (19 Table 19.7) -/
  cfg : BitVec 32 := 0
  /-- FIFO, at most 32 (19 R491) -/
  fifo : List Event := []
  /-- LOST (19 Table 19.7) -/
  lost : BitVec 16 := 0
  /-- EVR_POP_STAMP_k (19 Table 19.7) -/
  popStamp : BitVec 32 := 0
  /-- EVR_MASK_k, 32 words (19 Table 19.7) -/
  mask : Tab (BitVec 32) := []
  /-- instant of the last MODE 1 pulse, ps (19 R491) -/
  pulseAt : Option Nat := none
deriving DecidableEq, Repr

/-- EvOut at its reset values. -/
def EvOut.reset : EvOut := {}

/-- The event router. -/
structure Evr where
  /-- events raised on the H-die or arrived, not yet routed (19 R491) -/
  raised : List Event := []
  /-- 64 outputs (19 R491) -/
  outs : Tab EvOut := []
  /-- instant + 1 of the last pulse of an event input (19 R488) -/
  fabAt : Tab Nat := []
deriving DecidableEq, Repr

/-- Evr at its reset values. -/
def Evr.reset : Evr := {}

/-- One service pin. -/
structure SpPin where
  /-- FUNC (20 Table 20.6) -/
  func : BitVec 7 := 0x7F
  /-- BIAS (20 Table 20.6) -/
  bias : BitVec 2 := 0
  /-- DRIVE (20 Table 20.6) -/
  drive : BitVec 2 := 0
  /-- SLEW (20 Table 20.6) -/
  slew : BitVec 2 := 0
  /-- function being connected (20 R505) -/
  newFunc : BitVec 7 := 0x7F
  /-- pad options being applied (20 R505) -/
  newPad : BitVec 6 := 0
  /-- SWITCHING (20 Table 20.6) -/
  switching : Bool := false
  /-- level that the pad latch holds, or the keeper while the function changes (20 R505 R506); DESIGN CHOICE 0 (3) -/
  level : Bool := false
  /-- HELD (20 Table 20.6) -/
  held : Bool := false
deriving DecidableEq, Repr

/-- SpPin at its reset values. -/
def SpPin.reset : SpPin := {}

/-- One UART. -/
structure Uart where
  /-- UART_CFG (20 Table 20.5) -/
  cfg : BitVec 20 := 0x364
  /-- transmit FIFO, at most 16 (20 R499) -/
  tx : List (BitVec 8) := []
  /-- instant the byte at the front began, ps (20 R499) -/
  txAt : Nat := 0
  /-- receive FIFO, at most 16 (20 R499) -/
  rx : List (BitVec 8) := []
  /-- OVERRUN (20 Table 20.5) -/
  overrun : Bool := false
  /-- FRAMING (20 Table 20.5) -/
  framing : Bool := false
  /-- PARITY_ERR (20 Table 20.5) -/
  parityErr : Bool := false
  /-- TX_DROP (20 Table 20.5) -/
  txDrop : Bool := false
deriving DecidableEq, Repr

/-- Uart at its reset values. -/
def Uart.reset : Uart := {}

/-- One SPI controller. -/
structure Spic where
  /-- SPIC_CFG (20 Table 20.5) -/
  cfg : BitVec 13 := 4
  /-- transmit FIFO, at most 16 (20 R499) -/
  tx : List (BitVec 8) := []
  /-- receive FIFO, at most 16 (20 R499) -/
  rx : List (BitVec 8) := []
  /-- BUSY (20 Table 20.5) -/
  busy : Bool := false
  /-- RX_DROP (20 Table 20.5) -/
  rxDrop : Bool := false
  /-- bytes of the transfer (20 Table 20.5) -/
  count : Nat := 0
  /-- HOLD_CS of the transfer (20 Table 20.5) -/
  holdCs : Bool := false
  /-- the chip select is asserted (20 Table 20.5) -/
  csOn : Bool := false
deriving DecidableEq, Repr

/-- Spic at its reset values. -/
def Spic.reset : Spic := {}

/-- One I2C port. -/
structure I2c where
  /-- I2C_CFG.SPEED (20 Table 20.5) -/
  speed : BitVec 2 := 1
  /-- bytes to write (20 Table 20.5) -/
  tx : List (BitVec 8) := []
  /-- bytes read (20 Table 20.5) -/
  rx : List (BitVec 8) := []
  /-- BUSY (20 Table 20.5) -/
  busy : Bool := false
  /-- NACK (20 Table 20.5) -/
  nack : Bool := false
  /-- ARB_LOST (20 Table 20.5) -/
  arbLost : Bool := false
  /-- the command in progress (20 Table 20.5) -/
  cmd : BitVec 17 := 0
deriving DecidableEq, Repr

/-- I2c at its reset values. -/
def I2c.reset : I2c := {}

/-- The service pins and their peripherals. -/
structure Svc where
  /-- 64 service pins (20 R498) -/
  pins : Tab SpPin := []
  /-- a LOAD_IMAGE is under way since its teardown: functions and options are kept (20 Table 20.4) -/
  kept : Bool := false
  /-- GPIO_OUT (20 Table 20.5) -/
  gpioOut : BitVec 32 := 0
  /-- GPIO_OE (20 Table 20.5) -/
  gpioOe : BitVec 32 := 0
  /-- SP_WAKE (20 Table 20.5) -/
  wake : BitVec 32 := 0
  /-- SP_WAKE_POL (20 Table 20.5) -/
  wakePol : BitVec 32 := 0
  /-- SP_PPS: WIDTH_MS, LOCKED_ONLY (20 Table 20.5) -/
  pps : BitVec 32 := 0x64
  /-- SP_GFC_k (20 Table 20.5) -/
  gfc : Tab (BitVec 13) := []
  /-- UART 0 and 1 (20 R499) -/
  uarts : Tab Uart := []
  /-- SPI controllers 0 and 1 (20 R499) -/
  spics : Tab Spic := []
  /-- I2C ports 0-3 (20 R499) -/
  i2cs : Tab I2c := []
  /-- instant PPS out last rose, ps (20 R501) -/
  ppsHighAt : Option Nat := none
deriving DecidableEq, Repr

/-- Svc at its reset values. -/
def Svc.reset : Svc := {}

/-- One TAP of the chain. -/
structure Tap where
  /-- instruction register (20 R510); DESIGN CHOICE IDCODE after a TAP reset, IEEE 1149.1 (5) -/
  ir : BitVec 8 := 1
  /-- what the last Capture-DR loaded and the scan shifted out on TDO (20 R510 R513); DESIGN CHOICE 0 (5) -/
  dr : BitVec 128 := 0
  /-- what the last instruction scan captured and shifted out (20 R510); DESIGN CHOICE the value every scan captures (5) -/
  irOut : BitVec 8 := 1
  /-- boundary outputs under EXTEST, CLAMP or PRELOAD (20 R511); DESIGN CHOICE 0 (5) -/
  boundary : BitVec 64 := 0
deriving DecidableEq, Repr

/-- Tap at its reset values. -/
def Tap.reset : Tap := {}

/-- The debug block. -/
structure Ladder where
  /-- VDD_DBG is on (20 R509); DESIGN CHOICE on (5) -/
  powered : Bool := true
  /-- TAPs of the H-die (key 8) and the F-dies (20 R510) -/
  taps : Tab Tap := []
  /-- LD_STATUS.AUTH (20 Table 20.10) -/
  auth : Bool := false
  /-- LD_STATUS.REFUSED (20 Table 20.10) -/
  refused : Bool := false
  /-- AUTH_FAILS (20 Table 20.10) -/
  authFails : BitVec 5 := 0
  /-- how many nonces were drawn; LD_NONCE is a free value of this count (20 R519); DESIGN CHOICE model field (6) -/
  nonceCtr : Nat := 0
  /-- certificate bytes taken (20 R519) -/
  cert : List (BitVec 8) := []
  /-- the certificate is being verified (20 R519) -/
  verifying : Bool := false
  /-- a BUSACC access is outstanding (20 R513) -/
  busPend : Bool := false
  /-- captured RESP (20 Table 20.8); DESIGN CHOICE 0 (3) -/
  busRsp : BitVec 3 := 0
  /-- captured DONE (20 Table 20.8); DESIGN CHOICE 0 (3) -/
  busDone : Bool := false
  /-- captured read data (20 Table 20.8); DESIGN CHOICE 0 (3) -/
  busData : BitVec 64 := 0
  /-- LD_FCLK_STOP_d (20 Table 20.10) -/
  fclkStop : Tab (BitVec 32) := []
  /-- FCLK_STEP_BUSY: node stepped and the instant its edges have passed, ps (20 R516 Table 20.10) -/
  fclkStep : Option (Nat × Nat) := none
  /-- LD_SLG_FREEZE_d_w, key 4d + w (20 Table 20.10) -/
  slgFreeze : Tab (BitVec 32) := []
  /-- SLG_STEP_BUSY: die, group and the instant its cycles have passed, ps (20 R517 Table 20.10) -/
  slgStep : Option (Nat × Nat × Nat) := none
  /-- START and HALT writes held for frozen groups: die, slice, bits (20 R517) -/
  slgHeld : List (Nat × Nat × BitVec 2) := []
  /-- LD_CAP_CTRL DIE and BAY (20 Table 20.10) -/
  capCtrl : BitVec 11 := 0
  /-- LD_CAP_FRAME (20 Table 20.10) -/
  capFrame : BitVec 3 := 0
  /-- five capture frames of 512 bytes (20 R518) -/
  capData : Tab (BitVec 8) := []
deriving DecidableEq, Repr

/-- Ladder at its reset values. -/
def Ladder.reset : Ladder := {}

/-- Answer of the last register access a command made. -/
structure Rsp where
  /-- RESP (the model's own field, not the spec's); DESIGN CHOICE model field (7) -/
  resp : BitVec 3 := 0
  /-- read data (the model's own field, not the spec's); DESIGN CHOICE model field (7) -/
  data : BitVec 64 := 0
deriving DecidableEq, Repr

/-- Rsp at its reset values. -/
def Rsp.reset : Rsp := {}

/-- One F-die. -/
structure Die where
  /-- present (01 R13) -/
  ident : Bool := true
  /-- user I/O (02 R62) -/
  io : IoBlock := IoBlock.reset
  /-- probe sub-block (02 R72) -/
  probe : Probe := Probe.reset
  /-- 3,072 block memories (03 R77) -/
  brams : Tab Bram := []
  /-- 128 gutter queues (03 R89) -/
  gqs : Tab Gq := []
  /-- 2,048 slices (04 R104) -/
  slices : Tab Slice := []
  /-- 128 slice groups (04 R104) -/
  groups : Tab Group := []
  /-- 96 bays (13 R341) -/
  bays : Tab Bay := []
  /-- Leggett (13 R357) -/
  leggett : Leggett := Leggett.reset
  /-- 262,144 configuration frames, all zero where unlisted (12 R327) -/
  frames : Tab CfgFrame := []
  /-- timing pins TPd.0-7 (11 R305) -/
  pins : Tab TimingPin := []
  /-- flip-flops of the static region, 393,216 in the strips (02 R52 R58); DESIGN CHOICE undefined at reset (3) -/
  stFfs : FlipFlops := .undef 0
  /-- rising edges each FCLK net has given (the model's own field, not the spec's); DESIGN CHOICE model field (138) -/
  fclkCnt : Tab Nat := []
  /-- accesses to slice memories that wait for a free cycle (04 R128) -/
  winWait : List WinAcc := []
  /-- passed 125 degrees C (21 R531) -/
  thermal : Bool := false
deriving DecidableEq, Repr

/-- Die at its reset values. -/
def Die.reset : Die := {}

/-- Reasons a step can end in a fault. -/
inductive Fault where
  /-- Raised by no meaning of this model: the spec gives this block no stop of its own, every error being an answer, a
      status bit or an event. Kept so that the type of faults is not empty. Safe: no claim rests on it. -/
  | none
deriving DecidableEq, Repr

/-- Reasons a command can be refused. -/
inductive Refusal where
  /-- Raised only by an arm of exec for a command that has no meaning yet. Safe: the machine stops where the hardware
      would go on. -/
  | notModelled (mnemonic : String)
deriving DecidableEq, Repr

/-- The package. -/
structure State where
  /-- elapsed time, ps: the model's clock (the model's own field, not the spec's); DESIGN CHOICE model field (8) -/
  now : Nat := 0
  /-- how many free values were drawn (the model's own field, not the spec's); DESIGN CHOICE model field (6) -/
  free : Nat := 0
  /-- answer of the last register access (the model's own field, not the spec's); DESIGN CHOICE model field (7) -/
  rsp : Rsp := Rsp.reset
  /-- fuses (00 R3; 01 R46; 12 R313) -/
  fuses : Fuses := Fuses.reset
  /-- identification registers (01 R46) -/
  ids : IdRegs := IdRegs.reset
  /-- access tables by target ID (01 R30) -/
  acls : Tab AclTable := []
  /-- F-dies 0-7 (01 R11) -/
  dies : Tab Die := []
  /-- Ridge routers, key 64 x die + router, die 8 = H-die (07 R174) -/
  routers : Tab Router := []
  /-- master ports by MID (07 R188) -/
  masters : Tab MasterPort := []
  /-- flows by FLOW_ID (08 R211) -/
  flows : Tab Flow := []
  /-- lane sets by key (09 R229) -/
  lanesets : Tab LaneSet := []
  /-- Eoset link ends by key (10 R284) -/
  links : Tab LinkEnd := []
  /-- guest sites 0 and 1 (10 R278) -/
  guests : Tab GuestSite := []
  /-- link keys by link key number (15 R406) -/
  linkKeys : Tab LinkKey := []
  /-- time counters, key 8 = the H-die master (11 R285) -/
  times : Tab DieTime := []
  /-- timing pins HTP0-7 (11 R305) -/
  hpins : Tab TimingPin := []
  /-- time master (11 R290) -/
  tb : TimeBase := TimeBase.reset
  /-- configuration controller (12) -/
  cfg : Cfg := Cfg.reset
  /-- DRAM channels (14) -/
  dram : Dram := Dram.reset
  /-- Flashing units (15) -/
  flash : Tab FlashUnit := []
  /-- Flashing regions 0-63 (15 R395) -/
  fregions : Tab FlashRegion := []
  /-- DMA channels (16) -/
  dma : Tab DmaCh := []
  /-- channel that injected last at each of the two routers of the DMA masters (16 R432); DESIGN CHOICE 0 (3) -/
  dmaLast : Tab Nat := []
  /-- gable controller and mailboxes (17) -/
  gable : Gable := Gable.reset
  /-- clocks and power (18) -/
  clk : Clocks := Clocks.reset
  /-- fault log (19 R482) -/
  log : Log := Log.reset
  /-- event router (19 R491) -/
  evr : Evr := Evr.reset
  /-- service pins (20 R498) -/
  svc : Svc := Svc.reset
  /-- Ladder (20 R509) -/
  lad : Ladder := Ladder.reset
  /-- THERMTRIPn driven low (21 R531) -/
  thermtrip : Bool := false
  /-- the PORn pin is low (12 R312; 21 R528); DESIGN CHOICE low until the board releases it (4) -/
  pornLow : Bool := true
  /-- a rail is out of tolerance (21 R528) -/
  supplyBad : Bool := false
  /-- instant the rails came back into tolerance, ps (21 R528) -/
  supplyOkAt : Option Nat := none
  /-- commands waiting, first in, first out (the task) -/
  pending : List Instr := []
deriving DecidableEq, Repr

/-- The package right after power is applied: every field at the value the spec states, or at the value the
    assumption log names where the spec states none. PORn is low (12 R312). -/
def State.reset : State := {}

end Sys2Proof.Machine
end

