-- ==== Sys2Proof/Machine/Ops.lean ====
section
/-! DEFINITION. The named operations that every meaning is made of: tables, the fields of State, bytes and bits, saturating
counters, package time and free values. -/

namespace Sys2Proof.Machine

/-- What a step answers. -/
abbrev Out := Host.Outcome State Fault Refusal

/-! ### Tables -/

/-- The entry of key `i`, `d` where the table lists none. -/
def tget {V : Type} (d : V) : Tab V → Nat → V
  | [], _ => d
  | (k, v) :: t, i => if k = i then v else tget d t i

/-- The table without key `i`. -/
def tdel {V : Type} (t : Tab V) (i : Nat) : Tab V := t.filter fun e => e.1 != i

/-- The table with `v` at key `i`, at its place in the order of the keys. -/
def tins {V : Type} : Tab V → Nat → V → Tab V
  | [], i, v => [(i, v)]
  | (k, w) :: t, i, v => if i < k then (i, v) :: (k, w) :: t else if i = k then (i, v) :: t else (k, w) :: tins t i v

/-- The table with `v` at key `i`; the entry is left out when `v` is the default. -/
def tput {V : Type} [DecidableEq V] (d : V) (t : Tab V) (i : Nat) (v : V) : Tab V := if v = d then tdel t i else tins t i v

/-- The table with `f` applied to the entry of key `i`. -/
def tmod {V : Type} [DecidableEq V] (d : V) (t : Tab V) (i : Nat) (f : V → V) : Tab V :=
  tput d t i (f (tget d t i))

/-- The table with `f` applied, in turn, at every key of the list. -/
def tmodAll {V : Type} [DecidableEq V] (d : V) (t : Tab V) (ks : List Nat) (f : Nat → V → V) : Tab V :=
  ks.foldl (fun t k => tmod d t k (f k)) t

/-- The canonical form of a table: keys strictly rising, no entry equal to the default. -/
def tabWf {V : Type} [DecidableEq V] (d : V) : Tab V → Bool
  | [] => true
  | [(_, v)] => decide (v ≠ d)
  | (k, v) :: (k', v') :: t => decide (v ≠ d) && decide (k < k') && tabWf d ((k', v') :: t)

/-! ### The fields of State -/

def State.setNow (s : State) (v : Nat) : State := { s with now := v }
def State.setFree (s : State) (v : Nat) : State := { s with free := v }
def State.setRsp (s : State) (v : Rsp) : State := { s with rsp := v }
def State.setFuses (s : State) (v : Fuses) : State := { s with fuses := v }
def State.setIds (s : State) (v : IdRegs) : State := { s with ids := v }
def State.setAcls (s : State) (v : Tab AclTable) : State := { s with acls := v }
def State.setDies (s : State) (v : Tab Die) : State := { s with dies := v }
def State.setRouters (s : State) (v : Tab Router) : State := { s with routers := v }
def State.setMasters (s : State) (v : Tab MasterPort) : State := { s with masters := v }
def State.setFlows (s : State) (v : Tab Flow) : State := { s with flows := v }
def State.setLanesets (s : State) (v : Tab LaneSet) : State := { s with lanesets := v }
def State.setLinks (s : State) (v : Tab LinkEnd) : State := { s with links := v }
def State.setGuests (s : State) (v : Tab GuestSite) : State := { s with guests := v }
def State.setLinkKeys (s : State) (v : Tab LinkKey) : State := { s with linkKeys := v }
def State.setTimes (s : State) (v : Tab DieTime) : State := { s with times := v }
def State.setHpins (s : State) (v : Tab TimingPin) : State := { s with hpins := v }
def State.setTb (s : State) (v : TimeBase) : State := { s with tb := v }
def State.setCfg (s : State) (v : Cfg) : State := { s with cfg := v }
def State.setDram (s : State) (v : Dram) : State := { s with dram := v }
def State.setFlash (s : State) (v : Tab FlashUnit) : State := { s with flash := v }
def State.setFregions (s : State) (v : Tab FlashRegion) : State := { s with fregions := v }
def State.setDma (s : State) (v : Tab DmaCh) : State := { s with dma := v }
def State.setDmaLast (s : State) (v : Tab Nat) : State := { s with dmaLast := v }
def State.setGable (s : State) (v : Gable) : State := { s with gable := v }
def State.setClk (s : State) (v : Clocks) : State := { s with clk := v }
def State.setLog (s : State) (v : Log) : State := { s with log := v }
def State.setEvr (s : State) (v : Evr) : State := { s with evr := v }
def State.setSvc (s : State) (v : Svc) : State := { s with svc := v }
def State.setLad (s : State) (v : Ladder) : State := { s with lad := v }
def State.setThermtrip (s : State) (v : Bool) : State := { s with thermtrip := v }
def State.setPornLow (s : State) (v : Bool) : State := { s with pornLow := v }
def State.setSupplyBad (s : State) (v : Bool) : State := { s with supplyBad := v }
def State.setSupplyOkAt (s : State) (v : Option Nat) : State := { s with supplyOkAt := v }
def State.setPending (s : State) (v : List Instr) : State := { s with pending := v }


/-- F-die `d`. -/
def State.die (s : State) (d : Nat) : Die := tget Die.reset s.dies d
def State.modDie (s : State) (d : Nat) (f : Die → Die) : State := s.setDies (tmod Die.reset s.dies d f)
def State.gq (s : State) (d q : Nat) : Gq := tget Gq.reset (s.die d).gqs q
def State.modGq (s : State) (d q : Nat) (f : Gq → Gq) : State :=
  s.modDie d fun x => { x with gqs := tmod Gq.reset x.gqs q f }
def State.bram (s : State) (d m : Nat) : Bram := tget Bram.reset (s.die d).brams m
def State.modBram (s : State) (d m : Nat) (f : Bram → Bram) : State :=
  s.modDie d fun x => { x with brams := tmod Bram.reset x.brams m f }
def State.slice (s : State) (d i : Nat) : Slice := tget Slice.reset (s.die d).slices i
def State.modSlice (s : State) (d i : Nat) (f : Slice → Slice) : State :=
  s.modDie d fun x => { x with slices := tmod Slice.reset x.slices i f }
def State.group (s : State) (d g : Nat) : Group := tget Group.reset (s.die d).groups g
def State.modGroup (s : State) (d g : Nat) (f : Group → Group) : State :=
  s.modDie d fun x => { x with groups := tmod Group.reset x.groups g f }
def State.bay (s : State) (d b : Nat) : Bay := tget Bay.reset (s.die d).bays b
def State.modBay (s : State) (d b : Nat) (f : Bay → Bay) : State :=
  s.modDie d fun x => { x with bays := tmod Bay.reset x.bays b f }
def State.modProbe (s : State) (d : Nat) (f : Probe → Probe) : State :=
  s.modDie d fun x => { x with probe := f x.probe }
def State.modLeggett (s : State) (d : Nat) (f : Leggett → Leggett) : State :=
  s.modDie d fun x => { x with leggett := f x.leggett }
def State.router (s : State) (n r : Nat) : Router := tget Router.reset s.routers (64 * n + r)
def State.modRouter (s : State) (n r : Nat) (f : Router → Router) : State :=
  s.setRouters (tmod Router.reset s.routers (64 * n + r) f)
def State.master (s : State) (mid : BitVec 12) : MasterPort := tget MasterPort.reset s.masters mid.toNat
def State.modMaster (s : State) (mid : BitVec 12) (f : MasterPort → MasterPort) : State :=
  s.setMasters (tmod MasterPort.reset s.masters mid.toNat f)
def State.flow (s : State) (i : Nat) : Flow := tget Flow.reset s.flows i
def State.modFlow (s : State) (i : Nat) (f : Flow → Flow) : State := s.setFlows (tmod Flow.reset s.flows i f)
def State.laneset (s : State) (k : Nat) : LaneSet := tget LaneSet.reset s.lanesets k
def State.modLaneset (s : State) (k : Nat) (f : LaneSet → LaneSet) : State :=
  s.setLanesets (tmod LaneSet.reset s.lanesets k f)
def State.link (s : State) (k : Nat) : LinkEnd := tget LinkEnd.reset s.links k
def State.modLink (s : State) (k : Nat) (f : LinkEnd → LinkEnd) : State := s.setLinks (tmod LinkEnd.reset s.links k f)
def State.guest (s : State) (k : Nat) : GuestSite := tget GuestSite.reset s.guests k
def State.modGuest (s : State) (k : Nat) (f : GuestSite → GuestSite) : State :=
  s.setGuests (tmod GuestSite.reset s.guests k f)
def State.linkKey (s : State) (k : Nat) : LinkKey := tget LinkKey.reset s.linkKeys k
def State.modLinkKey (s : State) (k : Nat) (f : LinkKey → LinkKey) : State :=
  s.setLinkKeys (tmod LinkKey.reset s.linkKeys k f)
def State.time (s : State) (k : Nat) : DieTime := tget DieTime.reset s.times k
def State.modTime (s : State) (k : Nat) (f : DieTime → DieTime) : State := s.setTimes (tmod DieTime.reset s.times k f)
def State.chan (s : State) (n : Nat) : Channel := tget Channel.reset s.dram.chans n
def State.modDram (s : State) (f : Dram → Dram) : State := s.setDram (f s.dram)
def State.modChan (s : State) (n : Nat) (f : Channel → Channel) : State :=
  s.modDram fun x => { x with chans := tmod Channel.reset x.chans n f }
def State.funit (s : State) (n : Nat) : FlashUnit := tget FlashUnit.reset s.flash n
def State.modFunit (s : State) (n : Nat) (f : FlashUnit → FlashUnit) : State :=
  s.setFlash (tmod FlashUnit.reset s.flash n f)
def State.dmaCh (s : State) (c : Nat) : DmaCh := tget DmaCh.reset s.dma c
def State.modDma (s : State) (c : Nat) (f : DmaCh → DmaCh) : State := s.setDma (tmod DmaCh.reset s.dma c f)
def State.mbx (s : State) (m : Nat) : Mbx := tget Mbx.reset s.gable.mbx m
def State.modGable (s : State) (f : Gable → Gable) : State := s.setGable (f s.gable)
def State.modMbx (s : State) (m : Nat) (f : Mbx → Mbx) : State :=
  s.modGable fun x => { x with mbx := tmod Mbx.reset x.mbx m f }
def State.modCfg (s : State) (f : Cfg → Cfg) : State := s.setCfg (f s.cfg)
def State.modClk (s : State) (f : Clocks → Clocks) : State := s.setClk (f s.clk)
def State.node (s : State) (c : Nat) : ClkNode := tget ClkNode.reset s.clk.nodes c
def State.modNode (s : State) (c : Nat) (f : ClkNode → ClkNode) : State :=
  s.modClk fun x => { x with nodes := tmod ClkNode.reset x.nodes c f }
def State.modLog (s : State) (f : Log → Log) : State := s.setLog (f s.log)
def State.modEvr (s : State) (f : Evr → Evr) : State := s.setEvr (f s.evr)
def State.modSvc (s : State) (f : Svc → Svc) : State := s.setSvc (f s.svc)
def State.modLad (s : State) (f : Ladder → Ladder) : State := s.setLad (f s.lad)
def State.modTb (s : State) (f : TimeBase → TimeBase) : State := s.setTb (f s.tb)

/-- A timing pin: TPd.n of an F-die, HTPn for die 8 (11 R305). -/
def State.tpin (s : State) (d n : Nat) : TimingPin :=
  if d = 8 then tget TimingPin.reset s.hpins n else tget TimingPin.reset (s.die d).pins n
def State.modTpin (s : State) (d n : Nat) (f : TimingPin → TimingPin) : State :=
  if d = 8 then s.setHpins (tmod TimingPin.reset s.hpins n f)
  else s.modDie d fun x => { x with pins := tmod TimingPin.reset x.pins n f }

/-! ### Bits and bytes -/

/-- Bits `lo` to `lo + n - 1` of a number. -/
def bitsOf (v lo n : Nat) : Nat := v / 2 ^ lo % 2 ^ n

/-- Bit `i` of a number. -/
def bitOf (v i : Nat) : Bool := v / 2 ^ i % 2 == 1

/-- One bit placed at `i`. -/
def atBit (b : Bool) (i : Nat) : Nat := if b then 2 ^ i else 0

/-- A field value placed at `lo`. -/
def atLo (v lo : Nat) : Nat := v * 2 ^ lo

/-- The number a list of bytes holds, the first byte least significant (00 R8). -/
def leNat : List (BitVec 8) → Nat
  | [] => 0
  | b :: bs => b.toNat + 256 * leNat bs

/-- `n` bytes of a number, least significant first (00 R8). -/
def leBytes : Nat → Nat → List (BitVec 8)
  | 0, _ => []
  | n + 1, v => BitVec.ofNat 8 v :: leBytes n (v / 256)

/-- `n` bytes of a list from offset `off`, zeros past its end. -/
def bytesAt (bs : List (BitVec 8)) (off n : Nat) : List (BitVec 8) :=
  let t := (bs.drop off).take n
  t ++ List.replicate (n - t.length) 0

/-- The little-endian number in `n` bytes from offset `off`. -/
def numAt (bs : List (BitVec 8)) (off n : Nat) : Nat := leNat (bytesAt bs off n)

/-- `n` bytes of a byte table from key `off`. -/
def tabBytes (t : Tab (BitVec 8)) (off n : Nat) : List (BitVec 8) := (List.range n).map fun i => tget 0 t (off + i)

/-- A byte table with the bytes of a list written from key `off`. -/
def tabWrite (t : Tab (BitVec 8)) : Nat → List (BitVec 8) → Tab (BitVec 8)
  | _, [] => t
  | off, b :: bs => tabWrite (tput 0 t off b) (off + 1) bs

/-- A counter one up, kept at its largest value (saturating). -/
def satInc {w : Nat} (x : BitVec w) : BitVec w := if x = BitVec.allOnes w then x else x + 1

/-- A counter `n` up, kept at its largest value (saturating). -/
def satAdd {w : Nat} (x : BitVec w) (n : Nat) : BitVec w :=
  if 2 ^ w ≤ x.toNat + n then BitVec.allOnes w else BitVec.ofNat w (x.toNat + n)

/-- The number of a Bool. -/
def bnat (b : Bool) : Nat := if b then 1 else 0

/-- A signed number in `w` bits, modulo 2^w. -/
def ofInt (w : Nat) (i : Int) : BitVec w := BitVec.ofInt w i

/-- Ceiling of a quotient. -/
def ceilDiv (a b : Nat) : Nat := (a + b - 1) / b

/-! ### Free values -/

/-- A free value: the opaque constant at the count of values drawn so far. -/
def State.freeVal (s : State) : BitVec 64 := Config.freeValue s.free

/-- The free value `i` places on. -/
def State.freeValAt (s : State) (i : Nat) : BitVec 64 := Config.freeValue (s.free + i)

/-- `n` free values have been drawn. -/
def State.drew (s : State) (n : Nat) : State := s.setFree (s.free + n)

/-- `n` free bytes. -/
def State.freeBytes (s : State) (n : Nat) : List (BitVec 8) :=
  (List.range n).map fun i => (Config.freeValue (s.free + i)).truncate 8

/-! ### The part -/

/-- F-dies of the part (01 R13 Table 1.1). -/
def Part.fdies : Part → Nat
  | .fgn2 | .fgn2g => 2
  | .fgn4 | .fgn4g => 4
  | .fgn8 => 8

/-- Guest sites of the part (00 Table 0.1). -/
def Part.sites : Part → Nat
  | .fgn2g | .fgn4g => 2
  | _ => 0

/-- Part code of ID_PART (01 Table 1.9). -/
def Part.code : Part → Nat
  | .fgn2 => 0x0002 | .fgn2g => 0x0012 | .fgn4 => 0x0004 | .fgn4g => 0x0014 | .fgn8 => 0x0008

def State.fdies (s : State) : Nat := s.fuses.part.fdies

/-- The die a guest site is attached to (01 R12). -/
def State.siteDie (s : State) (site : Nat) : Nat := match s.fuses.part with
  | .fgn2g => site
  | _ => 2 + site

/-- The guest site attached to the north edge of a die, where there is one (01 R12). -/
def State.dieSite (s : State) (d : Nat) : Option Nat := match s.fuses.part with
  | .fgn2g => if d < 2 then some d else none
  | .fgn4g => if d = 2 ∨ d = 3 then some (d - 2) else none
  | _ => none

/-- The dies of the part, F-dies only. -/
def State.dieList (s : State) : List Nat := List.range s.fdies

/-! ### Package time -/

/-- Picosecond value of a counter in units of 2^-80 s (11 R286): SEC x 10^12 + floor(FRAC x 10^12 / 2^48). -/
def psOfCtr (c : Nat) : Nat :=
  (c / 2 ^ 80 % 2 ^ 32) * 1000000000000 + (c / 2 ^ 32 % 2 ^ 48) * 1000000000000 / 2 ^ 48

def secOfCtr (c : Nat) : Nat := c / 2 ^ 80 % 2 ^ 32
def fracOfCtr (c : Nat) : Nat := c / 2 ^ 32 % 2 ^ 48

/-- PSEC of a picosecond value (11 R286). -/
def psecOf (p : Nat) : Nat := p % 1000000000000
def secOf (p : Nat) : Nat := p / 1000000000000

/-- A counter whose picosecond value is `p` (the least such). -/
def ctrOfPs (p : Nat) : Nat := (p / 1000000000000) * 2 ^ 80 + ceilDiv ((p % 1000000000000) * 2 ^ 48) 1000000000000 * 2 ^ 32

/-- The picosecond value of a die's time, die 8 the H-die master (11 R286). -/
def State.ps (s : State) (d : Nat) : Nat := psOfCtr (s.time d).ctr

/-- The short stamp on a die now (11 R287). -/
def State.stamp (s : State) (d : Nat) : BitVec 32 := BitVec.ofNat 32 (s.ps d)

/-- COARSE on a die now (11 R287, R293). -/
def State.coarse (s : State) (d : Nat) : Bool :=
  s.tb.mstate == .holdover || (d != 8 && (s.time d).mon.state != .cal)

/-- A short stamp expanded against a local picosecond value, none where INVALID (11 R288). -/
def expandStamp (st : BitVec 32) (l : Nat) : Option Nat :=
  let d : Nat := (st.toNat + 2 ^ 32 - l % 2 ^ 32) % 2 ^ 32
  if d < 2 ^ 31 then (if d ≤ 2100000000 then some (l + d) else none)
  else if 2 ^ 32 - d ≤ 2100000000 ∧ 2 ^ 32 - d ≤ l then some (l + d - 2 ^ 32) else none

/-- SEC[7:0] and PSEC taken as the nearest instant to a reference time, the later of two equally near (11 R539). -/
def expandShort (sec8 psec ref : Nat) : Nat :=
  let span := 256 * 1000000000000
  let off := (sec8 % 256) * 1000000000000 + psec
  let base := ref / span * span + off
  -- candidates base - span, base, base + span
  if base ≥ ref then
    (if base - ref ≤ 128 * 1000000000000 ∨ base < span then base else base - span)
  else (if ref - base < 128 * 1000000000000 then base else base + span)

/-- The layout of TB_NOW: PSEC in bits 39:0, SEC[23:0] in bits 63:40 (11 Table 11.5). -/
def nowLayout (p : Nat) : BitVec 64 := BitVec.ofNat 64 (psecOf p + atLo (secOf p % 2 ^ 24) 40)

/-- NOCCLK or HCLK period in units of 1/30 ps at the grade fitted (00 R6): 1.5 GHz or 1.25 GHz. -/
def State.nocPeriod30 (s : State) : Nat := if s.fuses.grade2 then 20000 else 24000

/-- NOCCLK cycles in a span of picoseconds. -/
def State.nocCycles (s : State) (dps : Nat) : Nat := dps * 30 / s.nocPeriod30

/-- NOCCLK cycles per microsecond, as the admission calculator and the sleep counts take it (00 R6). -/
def State.nocPs (s : State) (cycles : Nat) : Nat := ceilDiv (cycles * s.nocPeriod30) 30

/-- SCLK period in picoseconds at the grade fitted (00 R6): 1.0 GHz or 0.8 GHz. -/
def State.sclkPs (s : State) : Nat := if s.fuses.grade2 then 1000 else 1250

/-- Picoseconds of a microsecond and of a millisecond. -/
def psUs : Nat := 1000000
def psMs : Nat := 1000000000

end Sys2Proof.Machine
end

