-- ==== Sys2Proof/Machine/Net.lean ====
section
/-! DEFINITION. The geometry of the package: the address map and its decoding, router coordinates and ports, link sites and
their partners, destinations, and putting a packet into the network. -/

namespace Sys2Proof.Machine

/-! ### Routers and ports (07 R174, R181) -/

/-- Node 8 is the H-die; nodes 0-7 are the F-dies. A router's index is 6y + x on an F-die (07 R210), 8y + x on the H-die. -/
def rx (node r : Nat) : Nat := if node = 8 then r % 8 else r % 6
def ry (node r : Nat) : Nat := if node = 8 then r / 8 else r / 6
def ridx (node x y : Nat) : Nat := if node = 8 then 8 * y + x else 6 * y + x

def meshW (node : Nat) : Nat := if node = 8 then 8 else 6
def meshH (node : Nat) : Nat := if node = 8 then 2 else 8

/-- A node of the part fitted. -/
def State.hasNode (s : State) (node : Nat) : Bool := node == 8 || decide (node < s.fdies)

/-- A router of the part fitted. -/
def State.hasRouter (s : State) (node r : Nat) : Bool := s.hasNode node && decide (r < meshW node * meshH node)

/-- PORT values of the local ports of an H-die router, ascending (07 Table 7.6). -/
def hLocalPorts (r : Nat) : List Nat :=
  if r < 8 then (List.range 16) ++ [0x10]
  else if r = 8 then [0x20, 0x21, 0x22, 0x23, 0x30, 0x31, 0x32]
  else if r = 9 then 0x24 :: (List.range 16).map (· + 0x30)
  else if r = 10 then (List.range 16).map (· + 0x30)
  else if r = 11 then [0x25, 0x26, 0x27, 0x28]
  else if r = 15 then [0x29, 0x30, 0x31]
  else []

/-- The link site a router holds, where it holds one: l of an F-die, h of the H-die (01 R14 Table 1.2). -/
def siteOfRouter (node r : Nat) : Option Nat :=
  let x := rx node r; let y := ry node r
  if node = 8 then (if y = 1 then some x else none)
  else if y = 7 ∧ 1 ≤ x ∧ x ≤ 4 then some (x - 1)
  else if x = 5 ∧ 2 ≤ y ∧ y ≤ 5 then some (4 + (y - 2))
  else if y = 0 ∧ 1 ≤ x ∧ x ≤ 4 then some (8 + (x - 1))
  else if x = 0 ∧ 2 ≤ y ∧ y ≤ 5 then some (12 + (y - 2))
  else none

/-- The router of link site l (01 Table 1.2), of site h on the H-die. -/
def routerOfSite (node l : Nat) : Nat :=
  if node = 8 then 8 + l
  else if l < 4 then ridx node (l + 1) 7
  else if l < 8 then ridx node 5 (l - 4 + 2)
  else if l < 12 then ridx node (l - 8 + 1) 0
  else ridx node 0 (l - 12 + 2)

/-- Key of a link end in State.links and State.lanesets: 16d + l on F-die d, 128 + h on the H-die; 144 + p is Eoset-X port p. -/
def linkKeyOf (node l : Nat) : Nat := if node = 8 then 128 + l else 16 * node + l

/-- The node and site of a link key (none for an Eoset-X port). -/
def siteOfKey (k : Nat) : Option (Nat × Nat) :=
  if k < 128 then some (k / 16, k % 16) else if k < 136 then some (8, k - 128) else none

/-- What a link site faces: another end's key, a guest site, or nothing (01 R12, R14, R15). -/
inductive Facing where
  | nothing
  | key (k : Nat)
  | guestSite (site : Nat)
  | offPackage
deriving DecidableEq, Repr

def State.facing (s : State) (k : Nat) : Facing :=
  match siteOfKey k with
  | none => if k = 144 ∨ k = 145 then .offPackage else .nothing
  | some (node, l) =>
    if node = 8 then .key (linkKeyOf (l / 4) (8 + l % 4))
    else if s.fdies ≤ node then .nothing
    else
      let i := l % 4
      let face (d j : Nat) : Facing := if d < s.fdies then .key (linkKeyOf d j) else .nothing
      match l / 4 with
      | 0 => if node + 2 < s.fdies then face (node + 2) (8 + i)
             else match s.dieSite node with
               | some g => .guestSite g
               | none => .nothing
      | 1 => if node % 2 = 0 then face (node + 1) (12 + i) else .nothing
      | 2 => if node < 2 then .key (linkKeyOf 8 (4 * node + i)) else face (node - 2) i
      | _ => if node % 2 = 1 then face (node - 1) (4 + i) else .nothing

/-- Whether a port of a router is present (07 R174). -/
def State.hasPort (s : State) (node r p : Nat) : Bool :=
  s.hasRouter node r &&
  (let x := rx node r; let y := ry node r
   if p = 0 then decide (y + 1 < meshH node)
   else if p = 1 then decide (x + 1 < meshW node)
   else if p = 2 then decide (0 < y)
   else if p = 3 then decide (0 < x)
   else if p = 4 then (siteOfRouter node r).isSome
   else if node = 8 then decide (p - 5 < (hLocalPorts r).length)
   else p == 5 || p == 6 || (p == 7 && r == 5))

/-- The port number of a PORT value on a router (07 R174, Table 7.6). -/
def portOfLocal (node r pv : Nat) : Option Nat :=
  if node = 8 then ((hLocalPorts r).findIdx? (· == pv)).map (· + 5)
  else if pv = 0 then some 5 else if pv = 1 then some 6 else if pv = 2 ∧ r = 5 then some 7 else none

/-- The PORT value of a port number. -/
def localOfPort (node r p : Nat) : Nat := if node = 8 then (hLocalPorts r).getD (p - 5) 0 else p - 5

/-- The router a mesh port leads to. -/
def neighbour (node r p : Nat) : Nat :=
  if p = 0 then r + meshW node else if p = 1 then r + 1 else if p = 2 then r - meshW node else r - 1

/-- The port of the neighbour that faces back. -/
def oppPort (p : Nat) : Nat := if p = 0 then 2 else if p = 2 then 0 else if p = 1 then 3 else 1

/-- Depth of an input VC in flits (07 R175). -/
def vcDepth (p : Nat) : Nat := if p = 4 then 64 else 8

def MsgClass.num : MsgClass → Nat
  | .req => 0 | .rsp => 1 | .pwr => 2 | .evt => 3

/-- Adaptive VC of a class; its escape VC is one above (07 Table 7.1). -/
def MsgClass.vc (c : MsgClass) : Nat := 2 * c.num

/-- Whether an opcode carries data (07 Table 7.5). -/
def opcHasData (opc : BitVec 5) : Bool := 2 ≤ opc.toNat && opc.toNat ≤ 0x10 && !(0x0C ≤ opc.toNat && opc.toNat ≤ 0x0F)

/-- Class of an opcode, none for a reserved one (07 Table 7.5). -/
def opcClass (opc : BitVec 5) : Option MsgClass :=
  let n := opc.toNat
  if n ≤ 3 then some .req else if n ≤ 5 then some .pwr else if n ≤ 0x0B then some .req
  else if n = 0x10 ∨ n = 0x11 then some .rsp else if n = 0x18 ∨ n = 0x19 then some .evt else none

def opcRead (opc : BitVec 5) : Bool := decide (opc.toNat / 2 = 0)
def opcWrite (opc : BitVec 5) : Bool := decide (opc.toNat / 2 = 1 ∨ opc.toNat / 2 = 2)
def opcRmw (opc : BitVec 5) : Bool := decide (3 ≤ opc.toNat / 2 ∧ opc.toNat / 2 ≤ 5)
def opcPriv (opc : BitVec 5) : Bool := decide (opc.toNat % 2 = 1 ∧ opc.toNat ≤ 0x0B)

/-- Data flits of a packet (07 R179): RMW data sits in one flit; the others carry LEN + 1 bytes. -/
def dataFlits (opc : BitVec 5) (len : BitVec 8) : Nat := if opcHasData opc then (len.toNat + 64) / 64 else 0

def Pkt.flits (p : Pkt) : Nat := 1 + dataFlits p.opc p.len

/-- VC a packet rides in an input: escape for ORD packets and packets that took an escape VC (07 R190, R193). -/
def Pkt.vc (p : Pkt) : Nat := p.cls.vc + bnat (p.escape || p.ord)

/-- DEST of a packet in the layout of Table 7.4. -/
def Pkt.dest (p : Pkt) : BitVec 16 := p.die ++ p.x ++ p.y ++ p.port

def Pkt.toDest (p : Pkt) (d : BitVec 16) : Pkt :=
  { p with die := d.extractLsb' 12 4, x := d.extractLsb' 9 3, y := d.extractLsb' 6 3, port := d.extractLsb' 0 6 }

/-- DEST from its fields (07 Table 7.4). -/
def mkDest (die x y port : Nat) : BitVec 16 :=
  BitVec.ofNat 4 die ++ BitVec.ofNat 3 x ++ BitVec.ofNat 3 y ++ BitVec.ofNat 6 port

/-! ### Where requests and masters attach (01 R27, 07 Table 7.6, Table 7.7) -/

/-- Router of the fabric port of bay b (01 R27). -/
def bayRouter (b : Nat) : Nat := ridx 0 (b % 12 / 2) (b / 12)
/-- Port number of the fabric port of bay b (07 R174). -/
def bayPort (b : Nat) : Nat := 5 + b % 2

/-- The F-die and bay of a router's fabric port. -/
def bayOfPort (r p : Nat) : Nat := 12 * ry 0 r + 2 * rx 0 r + (p - 5)

/-- DEST of the port that serves a hub block, by its index in Table 1.4 (07 Table 7.6). -/
def hubDest (i : Nat) : BitVec 16 :=
  if i < 4 then mkDest 8 0 1 (0x20 + i)
  else if i = 4 then mkDest 8 1 1 0x24
  else if i < 9 then mkDest 8 3 1 (0x25 + (i - 5))
  else if i < 17 then mkDest 8 (i - 9) 0 0x10
  else mkDest 8 7 1 0x29

/-- DEST a response to a SRC goes to (07 R189, Table 7.7); MIDs outside Table 1.6 are never carried (01 R26). -/
def destOfSrc (src : BitVec 12) : BitVec 16 :=
  let n := src.toNat; let hi := n / 256; let lo := n % 256
  if hi < 8 then mkDest hi (lo % 12 / 2) (lo / 12) (lo % 2)
  else if hi = 8 then
    if lo = 0 then mkDest 8 0 1 0x30 else if lo = 1 then mkDest 8 0 1 0x31 else if lo = 0x40 then mkDest 8 0 1 0x32
    else if lo < 0x20 then mkDest 8 1 1 (0x30 + (lo - 0x10))
    else if lo < 0x30 then mkDest 8 2 1 (0x30 + (lo - 0x20))
    else mkDest 8 7 1 (0x30 + (lo - 0xF0))
  else mkDest hi 0 0 0

/-- A MID of Table 1.6 that this part has. -/
def State.isMaster (s : State) (mid : BitVec 12) : Bool :=
  let n := mid.toNat; let hi := n / 256; let lo := n % 256
  if hi < 8 then decide (hi < s.fdies) && decide (lo < 96)
  else if hi = 8 then lo == 0 || lo == 1 || lo == 0x40 || (decide (0x10 ≤ lo) && decide (lo < 0x30)) || lo == 0xF0 || lo == 0xF1
  else decide (hi = 12 ∨ hi = 13) && decide (hi - 12 < s.fuses.part.sites)

/-- The die a master's interface stands on: its time stamps packets and its events name it (07 R188). -/
def State.masterNode (s : State) (mid : BitVec 12) : Nat :=
  let hi := mid.toNat / 256
  if hi < 8 then hi else if hi = 8 then 8 else s.siteDie (hi - 12)

/-! ### Address decode (01 R17 to R24) -/

/-- What an address names. -/
inductive Target where
  | dram (ch : Nat) (c : Nat) (region : Option Nat)
  | bay (d b : Nat)
  | guest (site : Nat)
  | hub (i : Nat)
  | fctl (d : Nat)
deriving DecidableEq, Repr

def IlvSet.base (x : IlvSet) : Nat := x.baseG.toNat * 2 ^ 30
def IlvSet.size (x : IlvSet) : Nat := x.sizeG.toNat * 2 ^ 30
def IlvSet.way (x : IlvSet) (w : Nat) : Nat := bitsOf x.chList.toNat (3 * w) 3

/-- Channel and channel address of a DRAM window address under one interleave set (14 R378). -/
def IlvSet.map (x : IlvSet) (a : Nat) : Option (Nat × Nat) :=
  if x.valid ∧ x.base ≤ a ∧ a < x.base + x.size then
    let o := a - x.base; let g := 2 ^ x.grain.toNat; let w := 2 ^ x.ways.toNat
    let chunk := o / g
    some (x.way (chunk % w), x.offsetG.toNat * 2 ^ 30 + chunk / w * g + o % g)
  else none

def Dram.ilv (d : Dram) (k : Nat) : IlvSet := tget IlvSet.reset d.sets k

/-- Logical ranks of a declared channel, and its capacity in bytes: 64 data bits in devices of DENSITY Gb in every rank (14 R368, R378). -/
def DramDecl.ranks (d : DramDecl) : Nat := d.dimms * d.pranks * d.lranks
def DramDecl.capacity (d : DramDecl) : Nat := d.ranks * (64 / d.width) * d.density * 2 ^ 27

/-- Bytes of a channel that the host declared. -/
def Dram.capOf (d : Dram) (n : Nat) : Nat := ((tget Channel.reset d.chans n).decl.map DramDecl.capacity).getD 0

/-- Channel and channel address of a DRAM window address (14 R378); none where no set maps it or it lies above the declared capacity (01 R18). -/
def Dram.map (d : Dram) (a : Nat) : Option (Nat × Nat) :=
  match ((d.ilv 0).map a).or (((d.ilv 1).map a).or (((d.ilv 2).map a).or ((d.ilv 3).map a))) with
  | some (n, c) => if c < d.capOf n then some (n, c) else none
  | none => none

def Region.holds (r : Region) (a : Nat) : Bool := r.valid && decide (r.base.toNat ≤ a) && decide (a ≤ r.limit.toNat)

/-- The access region that holds an address (01 R22). -/
def Dram.regionOf (d : Dram) (a : Nat) : Option Nat := (d.regions.find? fun e => e.2.holds a).map (·.1)

/-- A guest window in use: its size in bytes (01 R18, R21). -/
def State.guestWindow (s : State) (site : Nat) : Option Nat :=
  if site < s.fuses.part.sites ∧ (s.guest site).up then some (2 ^ (s.guest site).cap.winLog2) else none

/-- Address decode (01 R17, R18, R20 to R24): the target of an address and the last byte of its extent, none where unmapped.
    The extent of DRAM is judged by `sameExtent`. -/
def State.decode (s : State) (a : Nat) : Option (Target × Nat) :=
  if a < 2 ^ 42 then
    (s.dram.map a).map fun (ch, c) => (.dram ch c (s.dram.regionOf a), 2 ^ 42 - 1)
  else if 0x400000000000 ≤ a ∧ a < 0x480000000000 then
    let d := (a - 0x400000000000) / 2 ^ 40; let p := a / 2 ^ 33 % 128
    if d < s.fdies ∧ p < 96 then some (.bay d p, a / 2 ^ 33 * 2 ^ 33 + 2 ^ 33 - 1) else none
  else if 0x600000000000 ≤ a ∧ a < 0x620000000000 then
    let g := (a - 0x600000000000) / 2 ^ 40
    match s.guestWindow g with
    | some w => if a % 2 ^ 40 < w then some (.guest g, a / 2 ^ 40 * 2 ^ 40 + w - 1) else none
    | none => none
  else if 0xF00000000000 ≤ a ∧ a < 0xF00100000000 then
    let o := a - 0xF00000000000
    let mib := o / 2 ^ 20
    if mib < 9 then some (.hub mib, a / 2 ^ 20 * 2 ^ 20 + 2 ^ 20 - 1)
    else if 0x10 ≤ mib ∧ mib < 0x18 then some (.hub (9 + (mib - 0x10)), a / 2 ^ 20 * 2 ^ 20 + 2 ^ 20 - 1)
    else if mib = 0x20 then some (.hub 17, a / 2 ^ 20 * 2 ^ 20 + 2 ^ 20 - 1)
    else if 0x100 ≤ mib ∧ mib < 0x180 then
      let d := (mib - 0x100) / 16; let sub := mib % 16
      if d < s.fdies ∧ sub < 0xB then
        -- the slices sub-block spans 2 MiB, every other sub-block 1 MiB (01 Table 1.5)
        let last := if sub = 2 ∨ sub = 3 then (a / 2 ^ 24 * 2 ^ 24) + 0x3FFFFF else a / 2 ^ 20 * 2 ^ 20 + 2 ^ 20 - 1
        some (.fctl d, last)
      else none
    else none
  else none

/-- Whether the bytes `a` to `a + len` stay within the extent that holds `a` (01 R19). -/
def State.sameExtent (s : State) (a len : Nat) : Bool :=
  match s.decode a with
  | none => false
  | some (.dram _ _ r, _) =>
    match s.decode (a + len) with
    | some (.dram _ _ r', _) => decide (r = r')
    | _ => false
  | some (_, last) => decide (a + len ≤ last)

/-- Target ID of a target (01 Table 1.7). -/
def Target.tid : Target → Nat
  | .dram _ _ (some r) => r
  | .dram _ _ none => 0x0040
  | .hub i => 0x1000 + i
  | .fctl d => 0x2000 + d
  | .bay d b => 0x3000 + d * 0x80 + b
  | .guest g => 0x4000 + g

/-- The ingress port of channel n that SRC uses: the port of a real-time source (08 R221), else by 12 R326: the first matching port record of the channel, else the
    lowest-numbered port at or above SRC mod 16 that has RT = 0, wrapping to port 0. -/
def State.ingressPort (s : State) (n : Nat) (src : BitVec 12) : Nat :=
  match (s.chan n).rtSrcs.find? fun e => e.1 == src with
  | some e => e.2.1
  | none =>
  match s.cfg.board.ports.find? fun r => r.ch == n && ((src ^^^ r.midVal) &&& r.midMask) == 0 with
  | some r => r.port
  | none =>
    let st := src.toNat % 16
    let cand := (List.range 16).map fun i => (st + i) % 16
    let up := cand.filter fun p => st ≤ p
    let dn := cand.filter fun p => p < st
    ((up ++ dn).find? fun p => !(tget DramPort.reset (s.chan n).ports p).rt).getD st

/-- DEST of a target (07 Table 7.7). -/
def State.destOf (s : State) (src : BitVec 12) : Target → BitVec 16
  | .dram ch _ _ => mkDest 8 ch 0 (s.ingressPort ch src)
  | .bay d b => mkDest d (b % 12 / 2) (b / 12) (b % 2)
  | .guest g => mkDest (0xC + g) 0 0 0
  | .hub i => hubDest i
  | .fctl d => mkDest d 5 0 2

/-! ### Power state of an element, as other units ask for it (18 R469) -/

/-- Key of an element: KIND 0 package, 1 F-die, 2 bay, 3 router, 4 link site or Eoset-X port, 5 DRAM channel. -/
def elemKey (kind die id : Nat) : Nat := kind * 65536 + die * 256 + id

def State.elem (s : State) (kind die id : Nat) : Elem := tget Elem.reset s.clk.elems (elemKey kind die id)
def State.modElem (s : State) (kind die id : Nat) (f : Elem → Elem) : State :=
  s.modClk fun x => { x with elems := tmod Elem.reset x.elems (elemKey kind die id) f }

/-- A wake of an element is counted (18 R477). -/
def State.wakeCount (s : State) (kind die id : Nat) : State := s.modElem kind die id fun e => { e with wakes := satInc e.wakes }

/-- Whether an F-die is in DEEP, entering it or waking from it: its fabric logic takes nothing (18 R471, R472). -/
def State.dieDeep (s : State) (d : Nat) : Bool := let e := s.elem 1 d 0; e.state == .deep || (e.phase != .steady && e.target == .deep)

/-- Whether a bay is asleep or waking: DEEP itself, or its die in DEEP (07 R208). -/
def State.bayAsleep (s : State) (d b : Nat) : Bool := (s.bay d b).state == .deep || s.dieDeep d

/-! ### Putting packets in -/

/-- Flits held in an input VC: RX_OCC of a mesh or link port; at a local port the packets its sender still holds stand in
    the same list and RX_OCC shows at most the depth (07 R198). A response that the router made holds no credit. -/
def Router.flitsIn (r : Router) (key : Nat) : Nat := (((tget [] r.inq key).filter fun k => !k.noCred).map Pkt.flits).foldl (· + ·) 0

/-- A packet written into input port p of a router, behind what its VC holds. A router in IDLE is asked to wake (07 R207). -/
def State.inject (s : State) (node r p : Nat) (k : Pkt) : State :=
  s.modRouter node r fun x =>
    { x with
      inq := tmod [] x.inq (8 * p + k.vc) (· ++ [{ k with route := none, exit := none, chosen := false }]),
      quietAt := s.now,
      wakeAt := if x.idle ∧ x.wakeAt = none then some s.now else x.wakeAt }

/-- The router and port of a DEST on a die of the package, none for a guest or a reserved value (07 R181). -/
def State.portOfDest (s : State) (d : BitVec 16) : Option (Nat × Nat × Nat) :=
  let node := (d.extractLsb' 12 4).toNat
  let x := (d.extractLsb' 9 3).toNat; let y := (d.extractLsb' 6 3).toNat
  if s.hasNode node ∧ x < meshW node ∧ y < meshH node then
    let r := ridx node x y
    (portOfLocal node r (d.extractLsb' 0 6).toNat).map fun p => (node, r, p)
  else none

/-- A packet sent by the element at the local port a DEST names. -/
def State.sendFrom (s : State) (own : BitVec 16) (k : Pkt) : State :=
  match s.portOfDest own with
  | some (node, r, p) => s.inject node r p k
  | none => s

end Sys2Proof.Machine
end

