-- ==== Sys2Proof/Machine/Event.lean ====
section
/-! DEFINITION. Raising an event, the log intake, denials and their coalescing: the paths every other unit reports by. -/

namespace Sys2Proof.Machine

/-! ### Log entries (19 R484) -/

/-- A log entry before it is written: INDEX, TIME and COARSE come with the write (19 Table 19.2). -/
def mkEntry (typ sev : Nat) (evid : Nat) (locA locB : Nat) : LogEntry :=
  { typ := BitVec.ofNat 16 typ, sev := BitVec.ofNat 8 sev, evid := BitVec.ofNat 16 evid,
    locA := BitVec.ofNat 32 locA, locB := BitVec.ofNat 64 locB }

/-- The entry with FLAGS bit 1 set: found by a scrub (19 Table 19.2). -/
def LogEntry.byScrub (e : LogEntry) (scrub : Bool) : LogEntry :=
  if scrub then { e with flags := e.flags ||| 2 } else e

/-- EVID of an entry with no event (19 Table 19.2). -/
def noEvid : Nat := 0xFFFF

/-- The intake queue takes an item, or counts it as dropped when 1,024 are held (19 R486). -/
def Log.take (l : Log) (e : LogEntry) (now : Nat) : Log :=
  if l.intake.length < 1024 then { l with intake := l.intake ++ [{ entry := e, atPs := now }] }
  else { l with drops := satInc l.drops, pendDrops := satInc l.pendDrops }

/-- A log entry that no event carries goes to the intake at once. -/
def State.logNote (s : State) (e : LogEntry) : State := s.setLog (s.log.take e s.now)

/-! ### Events (19 R487, R489) -/

/-- An event with the short stamp and COARSE of the die that raises it (19 R487). -/
def State.mkEvent (s : State) (node evid data : Nat) (note : Option LogEntry) : Event :=
  { evid := BitVec.ofNat 10 evid, evdata := BitVec.ofNat 32 data, stamp := s.stamp node, coarse := s.coarse node, note := note }

/-- The EVENT packet of an event (07 R186): ORD, on the EVT class, to the event router at H-die router (0, 1), port 0x22. -/
def eventPkt (e : Event) (src : BitVec 12) (dest : BitVec 16) (ord : Bool) : Pkt :=
  ({ src := src, cls := .evt, opc := 0x18, ord := ord, evid := e.evid, evdata := e.evdata, stamp := e.stamp,
       coarse := e.coarse, note := e.note } : Pkt).toDest dest

/-- An event of the H-die joins the queue of the router (19 R489). -/
def State.raiseHub (s : State) (evid data : Nat) (note : Option LogEntry) : State :=
  s.modEvr fun x => { x with raised := x.raised ++ [s.mkEvent 8 evid data note] }

/-- An F-die's event leaves its control port as an ORD EVENT packet (07 R186, 19 R489). -/
def State.raiseEvent (s : State) (node evid data : Nat) (note : Option LogEntry) : State :=
  if node = 8 then s.raiseHub evid data note
  else s.inject node 5 7 (eventPkt (s.mkEvent node evid data note) (Config.controlPortSrc node) (hubDest 2) true)

/-- EVID of an event that both die types have: offset on an F-die (Table 19.4), EVID on the H-die (Table 19.5). -/
def evidOf (node off hub : Nat) : Nat := if node = 8 then hub else node * 0x60 + off

/-! ### Denials (01 R36, R37) -/

/-- The log entry of a denial (19 Table 19.3 type 0x01). -/
def denyEntry (node tid : Nat) (k : Pkt) (discarded : Bool) : LogEntry :=
  mkEntry 0x01 2 (evidOf node 0 0x3A0) (node + atLo tid 4 + atLo k.src.toNat 20)
    (k.addr.toNat + atLo k.opc.toNat 48 + atLo k.cls.num 53 + atBit discarded 55)

/-- A denial at a target of die `node` (01 R36): coalesced with the most recent one of the same SRC and target within 1 ms of
    the denial that created its entry (01 R37), otherwise ACCESS_DENIED is raised and an entry noted. A denial exactly 1 ms after it counts
    as within 1 ms: DESIGN CHOICE (log 152). -/
def State.noteDenial (s : State) (node tid : Nat) (k : Pkt) (discarded : Bool) : State :=
  let l := s.log
  if l.denKey = some (k.src, BitVec.ofNat 16 tid) ∧ s.now ≤ l.denAt + psMs then
    if l.denIdx = 0 then s.setLog { l with denRep := satInc l.denRep }
    else s.setLog { l with
      entries := l.entries.map fun e => if e.1 = l.denIdx then (e.1, { e.2 with rep := satInc e.2.rep }) else e }
  else
    let s := s.raiseEvent node (evidOf node 0 0x3A0) (tid + atLo k.src.toNat 16) (some (denyEntry node tid k discarded))
    s.modLog fun l =>
      { l with denKey := some (k.src, BitVec.ofNat 16 tid), denAt := s.now, denIdx := 0, denRep := 0,
               denOld := match l.denKey with
                 | some e => if l.denIdx = 0 then l.denOld ++ [(e.1, e.2, l.denRep)] else l.denOld
                 | none => l.denOld }

/-- A discarded packet at router r of a die raises RIDGE_DISCARD and is logged (07 R178, R194, R208): x, y, the port, and
    bits 63:0 of the header payload. -/
def Pkt.headerLow (k : Pkt) : Nat :=
  k.dest.toNat + atLo k.src.toNat 16 + atLo k.cls.num 28 + atLo k.tag.toNat 30 + atLo k.opc.toNat 40 + atLo k.len.toNat 45
    + atLo k.resp.toNat 53 + atBit k.poison 56 + atBit k.rt 57 + atBit k.demoted 58 + atBit k.coarse 59 + atBit k.ord 60

def State.raiseDiscard (s : State) (node r p : Nat) (k : Pkt) : State :=
  let x := rx node r; let y := ry node r
  s.raiseEvent node (evidOf node 1 0x3A1) (x + atLo y 3 + atLo p 6)
    (some (mkEntry 0x02 2 (evidOf node 1 0x3A1) (node + atLo x 4 + atLo y 7 + atLo p 10) k.headerLow))

end Sys2Proof.Machine
end

