-- ==== Sys2Proof/Machine/Access.lean ====
section
/-! DEFINITION. Access tables and register accesses: which request a target admits, and the shared form of a direct register access. -/

namespace Sys2Proof.Machine

/-! ### Access tables (01 R30 to R34, R538) -/

def AclEntry.matches (e : AclEntry) (src : BitVec 12) : Bool := e.valid && ((src ^^^ e.midVal) &&& e.midMask) == 0

/-- What a request needs (01 R33). -/
structure Needs where
  rd : Bool
  wr : Bool
  priv : Bool
deriving DecidableEq, Repr

def needsOf (opc : BitVec 5) : Needs :=
  { rd := opcRead opc || opcRmw opc, wr := opcWrite opc || opcRmw opc, priv := opcPriv opc }

def Needs.metBy (n : Needs) (rd wr priv : Bool) : Bool := (!n.rd || rd) && (!n.wr || wr) && (!n.priv || priv)

/-- The built-in entry (01 R34): gable controller, Ladder master, configuration loader. -/
def builtIn (src : BitVec 12) : Bool := src == 0x800 || src == 0x801 || src == 0x840

/-- The 32 entries alone: the matching entry with the lowest index decides, and no match denies (01 R32, R33). -/
def AclTable.decide32 (t : AclTable) (src : BitVec 12) (n : Needs) : Bool :=
  match t.entries.find? fun e => e.2.matches src with
  | some e => n.metBy e.2.rd e.2.wr e.2.priv
  | none => false

/-- The access check of a target (01 R32 to R34, R538): a temporary entry decides only what it allows, then the built-in entry,
    then the 32 entries. -/
def AclTable.allows (t : AclTable) (src : BitVec 12) (n : Needs) (addr : BitVec 48) : Bool :=
  (t.temps.any fun e => e.mid == src && n.metBy e.rd e.wr e.priv && (e.only.isNone || e.only == some addr)) || builtIn src || t.decide32 src n

def State.acl (s : State) (tid : Nat) : AclTable := tget AclTable.reset s.acls tid
def State.modAcl (s : State) (tid : Nat) (f : AclTable → AclTable) : State := s.setAcls (tmod AclTable.reset s.acls tid f)

/-- Whether the table of a target admits a request. -/
def State.admits (s : State) (tid : Nat) (src : BitVec 12) (n : Needs) (addr : BitVec 48) : Bool := (s.acl tid).allows src n addr

/-- The die that holds a target: it raises ACCESS_DENIED (01 R36). -/
def State.targetNode (s : State) : Target → Nat
  | .bay d _ => d
  | .fctl d => d
  | .guest g => s.siteDie g
  | .dram _ _ _ => 8
  | .hub _ => 8

/-! ### RESP values (07 Table 7.8) -/
def respOk : BitVec 3 := 0
def respPoison : BitVec 3 := 1
def respDenied : BitVec 3 := 2
def respNoTarget : BitVec 3 := 3
def respTgtErr : BitVec 3 := 4
def respInteg : BitVec 3 := 5
def respBayDown : BitVec 3 := 6
def respTimeout : BitVec 3 := 7

/-! ### Register accesses -/

/-- OPC of a register access by `w` (07 Table 7.5). -/
def whoOpc (w : Who) (write : Bool) : BitVec 5 := (if write then 2 else 0) + (if w.priv then 1 else 0)

/-- A register access as the request it is, for denials and their log. -/
def whoPkt (w : Who) (write : Bool) (addr : Nat) : Pkt :=
  { src := w.src, opc := whoOpc w write, addr := BitVec.ofNat 48 addr }

/-- The answer of the last register access a command made. -/
def State.answer (s : State) (resp : BitVec 3) (data : BitVec 64) : State := s.setRsp { resp := resp, data := data }

/-- What a register does with an access: the state after it, RESP and the read data. -/
abbrev RegRes := State × BitVec 3 × BitVec 64

def regOk (s : State) (v : Nat) : RegRes := (s, respOk, BitVec.ofNat 64 v)
def regErr (s : State) : RegRes := (s, respTgtErr, 0)
def regDenied (s : State) : RegRes := (s, respDenied, 0)

/-- A register access through the network (01 R35): address decode, the access table of its target, then what the register does.
    The answer stays in `rsp`. -/
def State.access (s : State) (w : Who) (addr : Nat) (write : Bool) (body : State → RegRes) : State :=
  match s.decode addr with
  | none => s.answer respNoTarget 0
  | some (t, _) =>
    if s.admits t.tid w.src (needsOf (whoOpc w write)) (BitVec.ofNat 48 addr) then
      let r := body s
      if r.2.1 = respDenied then (s.noteDenial (s.targetNode t) t.tid (whoPkt w write addr) false).answer respDenied 0
      else r.1.answer r.2.1 r.2.2
    else (s.noteDenial (s.targetNode t) t.tid (whoPkt w write addr) false).answer respDenied 0

/-- An access by `w` to the register at `addr` is let through: the address names a target and its table admits the request
    (01 R17, R32 to R35). -/
def State.reaches (s : State) (w : Who) (addr : Nat) (write : Bool) : Bool :=
  match s.decode addr with
  | none => false
  | some (t, _) => s.admits t.tid w.src (needsOf (whoOpc w write)) (BitVec.ofNat 48 addr)

/-- A read by `w` has its side effect: only a read by the Ladder master without EFFECT is a peek (20 R514). -/
def readActs (w : Who) : Bool := w.src != 0x801 || w.effect

/-- A register that requires privileged access: an unprivileged request is answered DENIED (01 R29). -/
def needPriv (w : Who) (s : State) (body : RegRes) : RegRes := if w.priv then body else regDenied s

/-- A read of 4 or 8 bytes out of 32-bit registers: the lower address in the lower half (00 R8). -/
def words (rd : Nat → Nat) (off : Nat) (eight : Bool) : Nat := if eight then rd off + 2 ^ 32 * rd (off + 4) else rd off

/-- A write of 4 or 8 bytes into 32-bit registers, the lower address first. -/
def putWords (wr : State → Nat → Nat → State) (s : State) (off : Nat) (eight : Bool) (v : Nat) : State :=
  if eight then wr (wr s off (v % 2 ^ 32)) (off + 4) (v / 2 ^ 32) else wr s off (v % 2 ^ 32)

/-- The lower or upper half of a 64-bit register value, or all of it. -/
def half (v base off : Nat) (eight : Bool) : Nat := if eight then v else if off = base then v % 2 ^ 32 else v / 2 ^ 32

/-! ### Clocks as other units ask for them (18 R461, R464) -/

def fclkNode (d n : Nat) : Nat := d * 0x1000 + 0xD00 + n
/-- Ladder steps a stopped net: its edges have not all passed yet (20 R516). -/
def State.fclkStepping (s : State) (c : Nat) : Bool := match s.lad.fclkStep with
  | some (n, t) => n == c && decide (s.now < t)
  | none => false
/-- An FCLK net gives edges: running, and not stopped by Ladder unless Ladder steps it (20 R516). -/
def State.fclkRuns (s : State) (d n : Nat) : Bool :=
  let c := s.node (fclkNode d n)
  c.state == .running && (!c.stop || s.fclkStepping (fclkNode d n)) && !c.failed
/-- A hard domain's node has not been declared failed. -/
def State.nodeGood (s : State) (code : Nat) : Bool := !(s.node code).failed
/-- NOCCLK and SCLK of a die: off in NAP and DEEP (18 Table 18.2), stopped on failure (18 R464). -/
def State.dieAwake (s : State) (d : Nat) : Bool := let e := s.elem 1 d 0; e.state != .nap && e.state != .deep && e.phase == .steady
def State.nocRuns (s : State) (d : Nat) : Bool := s.dieAwake d && s.nodeGood (d * 0x1000 + 0x700)
def State.sclkRuns (s : State) (d : Nat) : Bool := s.dieAwake d && s.nodeGood (d * 0x1000 + 0x800)

/-- Base addresses (01 Table 1.4, Table 1.5). -/
def hubBase (i : Nat) : Nat :=
  if i < 9 then 0xF00000000000 + i * 0x100000
  else if i < 17 then 0xF00001000000 + (i - 9) * 0x100000
  else 0xF00002000000
def dieBase (d : Nat) : Nat := 0xF00010000000 + d * 0x1000000

/-! ### Responses (07 R185, R189, R218) -/

/-- The response to a request: RSP_D with the data for OK to an opcode that reads and for POISON, RSP_N otherwise. A conforming
    request of a ROUND_TRIP flow gets a real-time response on the escape VC (08 R218). -/
def State.mkRsp (s : State) (node : Nat) (k : Pkt) (resp : BitVec 3) (data : List (BitVec 8)) : Pkt :=
  let withData := (resp == respOk && (opcRead k.opc || opcRmw k.opc)) || resp == respPoison
  let rt := k.rt && k.flow != 0 && (s.flow k.flow.toNat).roundTrip
  ({ src := k.src, cls := .rsp, tag := k.tag, opc := if withData then 0x10 else 0x11, len := k.len, resp := resp,
     poison := resp == respPoison, rt := rt, escape := rt, addr := k.addr, flow := k.flow,
     stamp := s.stamp node, coarse := s.coarse node, data := if withData then data else [] } : Pkt).toDest (destOfSrc k.src)

/-- The element behind port p of a router, or the router itself, answers a request; a posted write and an EVT packet have no response. POISON
    brings its data flits with undefined contents (07 R185). What a router answers at a mesh or link port takes no credit (07 R199). -/
def State.respond (s : State) (node r p : Nat) (k : Pkt) (resp : BitVec 3) (data : List (BitVec 8)) : State :=
  let n := k.len.toNat + 1
  let put (s : State) (data : List (BitVec 8)) : State :=
    s.inject node r p { s.mkRsp node k resp data with noCred := decide (p < 5) }
  if k.cls ≠ .req then s
  else if resp = respPoison ∧ data = [] then (put s (s.freeBytes n)).drew n
  else put s data

end Sys2Proof.Machine
end

