-- ==== Sys2Proof/Machine/BlockMemory.lean ====
section
/-! DEFINITION. Block memories: their ports, check code, narrow writes and coinciding edges (03 R77 to R88). -/

namespace Sys2Proof.Machine

/-- What a disturbance makes of a stored word: one wrong bit can be corrected, a second cannot (03 R80). A faulty address decoder changes no
    stored word. -/
def Health.hit (h : Health) (u : Sys2Proof.Upset) : Health :=
  match u, h with
  | .none, h => h
  | .other _, h => h
  | _, .mark => .mark
  | .single, .good => .single
  | .single, _ => .double
  | .double, _ => .double

/-- A word fails its check uncorrectably. -/
def Health.bad : Health → Bool
  | .double | .mark => true
  | _ => false

/-- The unwritten mark (03 R85). -/
def markWord : BramWord := ⟨0, .mark, 0⟩

/-- A word stored with fresh check bits. -/
def goodWord (v : BitVec 64) : BramWord := ⟨v, .good, v⟩

/-- A stored word with the disturbance an access finds. Which of its bits are wrong no operand says: the raw data of a word that has taken
    one wrong bit, or a second, is the free value `raw`, held from then on. -/
def BramWord.struck (w : BramWord) (u : Sys2Proof.Upset) (raw : BitVec 64) : BramWord :=
  let h := w.health.hit u
  if h = w.health ∧ u ≠ .double then w else { w with health := h, raw := raw }

/-- The word a read returns for word `w` when the address decoder goes wrong, and whether it fails its check: always where the addresses
    differ in one to three bits, or the word is bad itself, and else unless the columns of the differing bits sum to zero (03 R80). -/
def addrFails (w w' : Nat) : Bool :=
  let x := w ^^^ w'
  let ones := ((List.range 11).filter fun i => bitOf x i).length
  (decide (0 < ones) && decide (ones ≤ 3)) || (decide (3 < ones) && !Config.columnsCancel x)

/-- Logical depth, width and place in the physical word of a mode (03 Table 3.1). -/
def BramMode.depth : BramMode → Nat
  | .k1 => 1024 | .k2 => 2048 | .k4 => 4096
def BramMode.parts : BramMode → Nat
  | .k1 => 1 | .k2 => 2 | .k4 => 4
def BramMode.width (m : BramMode) : Nat := 64 / m.parts

/-- Physical word and bit offset of a logical address (03 Table 3.1). -/
def BramMode.place (m : BramMode) (a : Nat) : Nat × Nat := (a / m.parts, m.width * (a % m.parts))

/-- The bay a block memory belongs to, none in the static region (03 R77). -/
def bramBay (m : Nat) : Option Nat := if m < 2496 then some (m / 26) else none

def Bram.port (b : Bram) (pb : Bool) : BramPort := if pb then b.portB else b.portA
def Bram.setPort (b : Bram) (pb : Bool) (p : BramPort) : Bram := if pb then { b with portB := p } else { b with portA := p }

/-- An FCLK net reaches the logic of a bay: its edges are gated in a clamped bay, where the net's own enable is off, and in a bay that is IDLE
    (02 R56; 13 R343; 18 Table 18.6). -/
def State.bayNet (s : State) (d b n : Nat) : Bool :=
  (s.bay d b).fclkOn && (s.bay d b).fclkEn.getLsbD n && (s.elem 2 d b).state != .idle

/-- The port's clock gives an edge: its FCLK net runs and reaches the memory's bay (03 R87; 02 R56). -/
def State.bramClocked (s : State) (d m : Nat) (pb : Bool) : Bool :=
  let n := ((s.bram d m).port pb).net.toNat
  s.fclkRuns d n && !s.dieDeep d &&
  (match bramBay m with
   | some b => s.bayNet d b n
   | none => true)

/-- An access of a port can take place. -/
def State.bramReady (s : State) (d m : Nat) (pb : Bool) (addr : Nat) (write : Bool) : Bool :=
  let b := s.bram d m
  decide (d < s.fdies) && decide (m < 3072) && decide (addr < b.mode.depth) && s.bramClocked d m pb &&
  (if write then (b.port pb).kind != .ro else (b.port pb).kind != .wo)

/-- The other port's write of the same word on a coinciding edge (03 R88): its contents before that write. -/
def Bram.coincident (b : Bram) (pb : Bool) (w now : Nat) (write : Bool) : Option BramWord :=
  let o := b.port (!pb)
  match o.edgeAt, o.edgeWord with
  | some t, some (w', dir) => if now ≤ t + 500 ∧ w' = w ∧ dir = write then some o.edgeOld else none
  | _, _ => none

/-- EVDATA and log entry of BRAM_UE (19 Table 19.3, Table 19.4). -/
def State.raiseBramUe (s : State) (d m : Nat) (portB refused scrub : Bool) (w : Nat) : State :=
  s.raiseEvent d (evidOf d 4 0) (m + atLo w 12)
    (some ((mkEntry 0x04 2 (evidOf d 4 0) (d + atLo m 4 + atBit portB 16 + atBit refused 17) w).byScrub scrub))

/-- The edge a port has just had: its pulse output falls, its access is kept for a coinciding one. -/
def BramPort.edge (p : BramPort) (now w : Nat) (write : Bool) (old : BramWord) : BramPort :=
  { p with wref := false, edgeAt := some now, edgeWord := some (w, write), edgeOld := old }

/-- What the read of an edge brings to the outputs, at that edge or, with a latency of 2, at the next; what stood in the output stage comes out
    (03 R79). -/
def BramPort.present (p : BramPort) (data : BitVec 64) (sbit dbit : Bool) : BramPort :=
  if p.two then { p with rdata := p.pdata, sbit := p.psbit, dbit := p.pdbit, pdata := data, psbit := sbit, pdbit := dbit }
  else { p with rdata := data, sbit := sbit, dbit := dbit }

/-- An edge of a port without an access: WREFUSED ends its cycle, a latency of 2 brings the read data out (03 R79). -/
def BramPort.idle (p : BramPort) : BramPort :=
  let p := { p with wref := false }
  if p.two then { p with rdata := p.pdata, sbit := p.psbit, dbit := p.pdbit } else p

/-- Raw data of a word as the array holds it (03 R81, R85). -/
def BramWord.rawData (w : BramWord) : BitVec 64 :=
  match w.health with
  | .mark => Config.unwrittenMark
  | .good => w.data
  | _ => w.raw

/-- What a checked read delivers: raw where it fails, else the corrected data (03 R80, R81). -/
def BramWord.checked (w : BramWord) : BitVec 64 := if w.health.bad then w.rawData else w.data

/-- The logical word at an address, out of a physical word (03 Table 3.1). -/
def BramMode.cut (m : BramMode) (addr : Nat) (v : BitVec 64) : BitVec 64 := BitVec.ofNat 64 (bitsOf v.toNat (m.place addr).2 m.width)

/-- What a read of word `w` finds with a decoder that returns another word: that word's contents, failed or passed by the check (03 R80). -/
def Bram.decoded (b : Bram) (w : Nat) (seen : BramWord) (u : Sys2Proof.Upset) : BramWord :=
  match u with
  | .other w' =>
    let x := tget markWord b.words (w' % 1024)
    if addrFails w (w' % 1024) then { x with health := if x.health = .mark then .mark else .double, raw := x.rawData } else x
  | _ => seen

/-- A block memory port read (03 R79 to R81). Contents before any load are undefined (03 R87): data and error flags are free. -/
def bramRead (s : State) (d m : Nat) (pb : Bool) (addr : Nat) (u : Sys2Proof.Upset) : State :=
  if ¬ s.bramReady d m pb addr false then s
  else
    let b := s.bram d m
    let w := (b.mode.place addr).1
    let cur := tget markWord b.words w
    let hit := cur.struck u s.freeVal
    -- on a coinciding edge the read returns the contents before the other port's write (03 Table 3.3)
    let seen := b.decoded w ((b.coincident pb w s.now true).getD hit) u
    if b.loaded then
      let s1 := (s.modBram d m fun b =>
        ({ b with words := tput markWord b.words w hit }).setPort pb
          (((b.port pb).edge s.now w false cur).present (b.mode.cut addr seen.checked) (seen.health == Health.single) seen.health.bad)).drew 1
      if seen.health.bad then s1.raiseBramUe d m pb false false w else s1
    else
      let dbit := (s.freeValAt 1).getLsbD 0
      let s1 := (s.modBram d m fun b =>
        b.setPort pb (((b.port pb).edge s.now w false cur).present (b.mode.cut addr s.freeVal) ((s.freeValAt 1).getLsbD 1 && !dbit) dbit)).drew 2
      if dbit then s1.raiseBramUe d m pb false false w else s1

def execBramRead (die mem : Nat) (portB : Bool) (addr : Nat) (u : Sys2Proof.Upset) (s : State) : Out :=
  .next (bramRead s die mem portB addr u)

/-! ### Writes: on coinciding edges port A's takes effect and port B's is discarded (03 R82 to R84, R88) -/

/-- What a write makes of the word it finds: the word to store, the check flags of the read beneath it, and whether it is refused. -/
structure WriteFind where
  word : BramWord
  sbit : Bool := false
  dbit : Bool := false
  refused : Bool := false
deriving DecidableEq, Repr

/-- A write of one port at one edge. `find` makes the new word of the old one. Port A undoes a write that port B has made on a coinciding
    edge and works on the word as it was before it; port B's write after port A's is discarded with WREFUSED, no event and no entry. The
    read data output of the port returns the contents before the write (03 R79, Table 3.3). -/
def bramStore (s : State) (d m : Nat) (pb : Bool) (addr : Nat) (find : BramWord → WriteFind) : State :=
  let b := s.bram d m
  let w := (b.mode.place addr).1
  let other := b.coincident pb w s.now true
  let base := other.getD (tget markWord b.words w)
  let out (v : BramWord) := b.mode.cut addr v.rawData
  if pb ∧ other.isSome then
    s.modBram d m fun b => b.setPort true { ((b.portB).edge s.now w true base).present (out base) false false with wref := true }
  else
    let r := find base
    let seen := if r.refused ∨ ¬ (r.sbit ∨ r.dbit) then out base else b.mode.cut addr base.checked
    let s1 := s.modBram d m fun b =>
      let b1 := { b with words := tput markWord b.words w r.word }
      let b2 := if other.isSome then b1.setPort (!pb) { b1.port (!pb) with wref := true } else b1
      b2.setPort pb { ((b2.port pb).edge s.now w true base).present seen r.sbit r.dbit with wref := r.refused }
    if r.refused then s1.raiseBramUe d m pb true false w else s1

/-- A full-width write is never checked and makes the word good (03 R83). -/
def bramWriteFull (s : State) (d m : Nat) (pb : Bool) (addr : Nat) (data : BitVec 64) : State :=
  if ¬ s.bramReady d m pb addr true ∨ (s.bram d m).mode ≠ .k1 then s
  else bramStore s d m pb addr fun _ => { word := goodWord data }

def execBramWriteFull (die mem : Nat) (portB : Bool) (addr : Nat) (data : BitVec 64) (s : State) : Out :=
  .next (bramWriteFull s die mem portB addr data)

/-- Bits of a physical word a narrow write covers: the bytes enabled in 1K x 64 mode, one part of the word otherwise (03 R82). -/
def narrowMask (mode : BramMode) (addr : Nat) (be : BitVec 8) : BitVec 64 :=
  match mode with
  | .k1 => BitVec.ofNat 64 (((List.range 8).map fun i => if be.getLsbD i then 255 * 2 ^ (8 * i) else 0).foldl (· + ·) 0)
  | _ => BitVec.ofNat 64 ((2 ^ mode.width - 1) * 2 ^ (mode.place addr).2)

/-- The new bits of a narrow write at their place in the physical word. -/
def narrowData (mode : BramMode) (addr : Nat) (data : BitVec 64) : BitVec 64 :=
  match mode with
  | .k1 => data
  | _ => BitVec.ofNat 64 (data.toNat % 2 ^ mode.width * 2 ^ (mode.place addr).2)

/-- The read-modify-write of a narrow write on the word it finds: refused, and the word left as it is, where the check fails
    uncorrectably; else merged into the good word (03 R82, R83). -/
def narrowFind (w : Nat) (u : Sys2Proof.Upset) (raw mask data : BitVec 64) (b : Bram) (base : BramWord) : WriteFind :=
  let hit := base.struck u raw
  let seen := b.decoded w hit u
  if seen.health.bad then { word := hit, dbit := true, refused := true }
  else { word := goodWord ((seen.data &&& ~~~mask) ||| (data &&& mask)), sbit := seen.health == .single }

/-- A narrow write (03 R82). In a memory no load has defined, whether the check fails is free (03 R87). -/
def bramWriteNarrow (s : State) (d m : Nat) (pb : Bool) (addr : Nat) (data : BitVec 64) (be : BitVec 8)
    (u : Sys2Proof.Upset) : State :=
  let b := s.bram d m
  if ¬ s.bramReady d m pb addr true ∨ (b.mode = .k1 ∧ be = 0xFF) then s
  else
    let mask := narrowMask b.mode addr be
    let nd := narrowData b.mode addr data
    let free := s.freeVal
    let s := s.drew 1
    if b.loaded then bramStore s d m pb addr (narrowFind (b.mode.place addr).1 u free mask nd b)
    else bramStore s d m pb addr fun base =>
      if free.getLsbD 0 then { word := base, dbit := true, refused := true } else { word := goodWord ((free &&& ~~~mask) ||| (nd &&& mask)) }

def execBramWriteNarrow (die mem : Nat) (portB : Bool) (addr : Nat) (data : BitVec 64) (be : BitVec 8)
    (u : Sys2Proof.Upset) (s : State) : Out :=
  .next (bramWriteNarrow s die mem portB addr data be u)

end Sys2Proof.Machine
end

