-- ==== Sys2Proof/Machine/Gutter.lean ====
section
/-! DEFINITION. Gutter queues: writes, pops, overwrite and loss, flush, watermarks, counters, snapshots and registers (03 R89 to R103). -/

namespace Sys2Proof.Machine

/-! ### Clocks and views (03 R90, R92) -/

/-- A side's clock gives edges: a queue in use, its FCLK net or NOCCLK running. -/
def State.gqClock (s : State) (d : Nat) (used : Bool) (sel : BitVec 6) : Bool :=
  used && decide (d < s.fdies) && (if sel.toNat < 32 then s.fclkRuns d sel.toNat && !s.dieDeep d else if sel.toNat = 32 then s.nocRuns d else false)
def State.gqW (s : State) (d q : Nat) : Bool := let g := s.gq d q; s.gqClock d g.used g.wsel
def State.gqR (s : State) (d q : Nat) : Bool := let g := s.gq d q; s.gqClock d g.used g.rsel

/-- LEVEL: entries held (03 R99). -/
def Gq.level (g : Gq) : Nat := g.entries.length
/-- The write side's view: pops not seen yet still count (03 R92). -/
def Gq.wLevel (g : Gq) : Nat := g.entries.length + g.unseenPops
/-- The read side's view. -/
def Gq.rLevel (g : Gq) : Nat := min g.rSeen g.entries.length

/-! ### Watermarks (03 R96, R97) -/
def hiOn (m : BitVec 64) : Nat := bitsOf m.toNat 0 12
def hiOff (m : BitVec 64) : Nat := bitsOf m.toNat 16 12
def loOn (m : BitVec 64) : Nat := bitsOf m.toNat 32 12
def loOff (m : BitVec 64) : Nat := bitsOf m.toNat 48 12

def Gq.evalHi (g : Gq) : Gq :=
  { g with hi := if hiOn g.marks ≤ g.wLevel then true else if g.wLevel ≤ hiOff g.marks then false else g.hi }
def Gq.evalLo (g : Gq) : Gq :=
  { g with lo := if g.rLevel ≤ loOn g.marks then true else if loOff g.marks ≤ g.rLevel then false else g.lo }

/-! ### Write side (03 R93, R94, R102) -/

/-- LOST one or more up, saturating; LOST_SAT once it stands at its largest value (03 R99, R100). -/
def Gq.lose (g : Gq) (n : Nat) : Gq :=
  let l := satAdd g.lost n
  { g with lost := l, lostSat := g.lostSat || l == BitVec.allOnes 32 }
def Gq.correct (g : Gq) : Gq :=
  let c := satInc g.corr
  { g with corr := c, corrSat := g.corrSat || c == BitVec.allOnes 16 }

/-- The flush edge: the entries held are marked (03 R94). -/
def Gq.flushEdge (g : Gq) : Gq := { g with flushMark := g.entries.length, flushPend := false }

/-- The oldest entry still held goes, the presented one excepted (03 R93). -/
def Gq.overwrite (g : Gq) : Gq :=
  let keep := if 1 ≤ g.rLevel then 1 else 0
  if g.entries.length ≤ keep then g
  else
    ({ g with entries := g.entries.take keep ++ g.entries.drop (keep + 1),
              rSeen := if keep < g.rSeen then g.rSeen - 1 else g.rSeen,
              flushMark := if keep < g.flushMark then g.flushMark - 1 else g.flushMark } : Gq).lose 1

/-- One entry stored on a WCLK edge: a flush waiting for the clock takes its edge first, a full queue loses its oldest entry, HI is
    evaluated after (03 R93, R94, R96). -/
def Gq.store (g : Gq) (data : BitVec 64) (stamp : BitVec 32) (coarse : Bool) : Gq :=
  let g := if g.flushPend then g.flushEdge else g
  let g := if 2048 ≤ g.wLevel then g.overwrite else g
  ({ g with entries := g.entries ++ [{ slot := g.nextSlot, data := data, stamp := if g.stampEn then stamp else 0,
                                       coarse := g.stampEn && coarse }],
            nextSlot := g.nextSlot + 1, written := g.written + 1 } : Gq).evalHi

def State.gqStore (s : State) (d q : Nat) (data : BitVec 64) : State :=
  s.modGq d q fun g => g.store data (s.stamp d) (s.coarse d)

/-- A bay's logic reaches a queue: not while the bay's border is clamped (03 R89). -/
def State.bayReaches (s : State) (d : Nat) : Option Nat → Bool
  | some b => !(s.bay d b).clamped
  | none => true

def execGqFabricWrite (die q : Nat) (data : BitVec 64) (s : State) : Out :=
  .next (if q < 128 ∧ s.gqW die q ∧ (s.gq die q).wsel.toNat < 32 ∧ s.bayReaches die (s.gq die q).feeder then s.gqStore die q data else s)

/-- A pop is seen by the write side (03 R92). -/
def execGqPopSeenWrite (die q : Nat) (s : State) : Out :=
  .next (if s.gqW die q ∧ 0 < (s.gq die q).unseenPops then
    s.modGq die q fun g => ({ g with unseenPops := g.unseenPops - 1 } : Gq).evalHi else s)

/-- A stored entry becomes visible to the read side (03 R92). -/
def execGqWriteSeenRead (die q : Nat) (s : State) : Out :=
  .next (if s.gqR die q ∧ (s.gq die q).rSeen < (s.gq die q).level then
    s.modGq die q fun g => ({ g with rSeen := g.rSeen + 1 } : Gq).evalLo else s)

/-! ### Read side (03 R91, R95) -/

/-- GQ_UE of an entry (19 Table 19.3, Table 19.4). -/
def State.raiseGqUe (s : State) (d q slot : Nat) (scrub : Bool) : State :=
  s.raiseEvent d (evidOf d 5 0) (q + atLo slot 7)
    (some ((mkEntry 0x05 2 (evidOf d 5 0) (d + atLo q 4) slot).byScrub scrub))

/-- An entry as its check finds it (03 R95): data and stamp have codes of their own; a disturbance stays in the array; contents that fail are
    the free values they were struck to. A decoder that returns another slot fails the check. -/
structure EntryFind where
  entry : GqEntry
  single : Bool
  bad : Bool
deriving DecidableEq, Repr

def GqEntry.find (e : GqEntry) (u su : Sys2Proof.Upset) (raw sraw : BitVec 64) : EntryFind :=
  let h := e.health.hit u
  let sh := e.shealth.hit su
  let wrong : Sys2Proof.Upset → Bool
    | .other _ => true
    | _ => false
  let e1 := { e with health := h, shealth := sh, data := if h = .double ∧ (e.health ≠ .double ∨ u = .double) then raw else e.data,
                     stamp := if sh = .double ∧ (e.shealth ≠ .double ∨ su = .double) then sraw.truncate 32 else e.stamp }
  { entry := e1, single := h == .single || sh == .single, bad := h.bad || sh.bad || wrong u || wrong su || e.marked }

/-- What the read side presents, first-word-fall-through: the oldest entry it sees (03 R91). -/
def Gq.presented (g : Gq) : Option GqEntry := if g.rSeen = 0 then none else g.entries.head?

/-- The presented entry is popped: corrected or poisoned as its check says; GQ_UE once per entry (03 R95). -/
def gqPopEntry (s : State) (d q : Nat) (u su : Sys2Proof.Upset) : State × Option Popped :=
  let g := s.gq d q
  match g.presented with
  | none => (s, none)
  | some e =>
    let f := e.find u su s.freeVal (s.freeValAt 1)
    let s1 := (s.modGq d q fun g =>
      let g := { g with entries := g.entries.tail, rSeen := g.rSeen - 1, unseenPops := g.unseenPops + 1, read := g.read + 1,
                        flushMark := g.flushMark - 1, ueSeen := g.ueSeen || f.bad }
      (if f.single ∧ ¬ f.bad then g.correct else g).evalLo).drew 2
    let p : Popped := { data := f.entry.data, stamp := f.entry.stamp, coarse := f.entry.coarse, poison := f.bad }
    (if f.bad ∧ ¬ e.marked then s1.raiseGqUe d q e.slot.toNat false else s1, some p)

/-- A fabric pop hands the entry to the design (03 R91). -/
def execGqFabricPop (die q : Nat) (u su : Sys2Proof.Upset) (s : State) : Out :=
  .next (
    if q < 128 ∧ s.gqR die q ∧ (s.gq die q).rsel.toNat < 32 ∧ s.bayReaches die (s.gq die q).reader then
      match gqPopEntry s die q u su with
      | (s1, some p) => s1.modGq die q fun g => { g with taken := some p }
      | (s1, none) => s1
    else s)

/-- The read side applies a flush at its edge: the marked entries are removed and counted in LOST. A flush that waited for the write clock takes
    its edge first. FLUSH falls once both sides have applied it, and stays 1 while either clock is stopped (03 R94). DESIGN CHOICE: the write
    side's view loses the removed entries here, with no lag as for pops (141). -/
def execGqFlushApply (die q : Nat) (s : State) : Out :=
  .next (
    let g := s.gq die q
    if ¬ g.flush then s
    else
      let w := s.gqW die q
      let s := if g.flushPend ∧ w then s.modGq die q Gq.flushEdge else s
      let g := s.gq die q
      if g.flushPend ∨ ¬ s.gqR die q then s
      else s.modGq die q fun g =>
        let n := min g.flushMark g.entries.length
        let g := (({ g with entries := g.entries.drop n, rSeen := g.rSeen - n, flushMark := 0, flush := !w } : Gq).lose n).evalLo
        if w then g.evalHi else g)

/-- The edges of a side's clock evaluate its watermark, whatever changes (03 R96, R97). -/
def State.gqEdge (s : State) (d : Nat) (on : Nat → Bool) : State :=
  s.modDie d fun x =>
    { x with gqs := tmodAll Gq.reset x.gqs (x.gqs.map (·.1)) fun _ (g : Gq) =>
        let g := if g.used ∧ on g.wsel.toNat then g.evalHi else g
        if g.used ∧ on g.rsel.toNat then g.evalLo else g }

/-- Output i of a queue to the fabric (03 R91, R96): RDATA in 63:0, RVALID 64, RPOISON 65, RCOARSE 66, HI 67, LO 68, FULL 69, EMPTY 70, RSTAMP from
    71 on. -/
def Gq.output (g : Gq) (i : Nat) : Bool :=
  let e := g.presented
  if i < 64 then e.any fun e => e.data.getLsbD i
  else if i = 64 then e.isSome
  else if i = 65 then e.any fun e => e.health.bad || e.shealth.bad || e.marked
  else if i = 66 then e.any fun e => e.coarse
  else if i = 67 then g.hi
  else if i = 68 then g.lo
  else if i = 69 then decide (2048 ≤ g.wLevel)
  else if i = 70 then e.isNone
  else e.any fun e => e.stamp.getLsbD (i - 71)

/-! ### Registers (03 R97, R100, R101, R103) -/

/-- GQ_CTRL.SNAP: every counter latched at one instant (03 R100). -/
def Gq.snap (g : Gq) (stamp : BitVec 32) : Gq :=
  { g with sWritten := g.written, sRead := g.read, sLevel := BitVec.ofNat 12 g.level, sLost := g.lost, sCorr := g.corr, sStamp := stamp }

/-- GQ_CTRL.CLR_CNT (03 R101). -/
def Gq.clr (g : Gq) : Gq :=
  { g with read := 0, lost := 0, corr := 0, written := BitVec.ofNat 48 g.level, lostSat := false, corrSat := false }

/-- GQ_CTRL.FLUSH (03 R94): the flush edge is taken at once while the write clock runs. -/
def Gq.flushCmd (g : Gq) (wRuns : Bool) : Gq :=
  if wRuns then { g.flushEdge with flush := true } else { g with flush := true, flushPend := true }

/-- GQ_CTRL written: snapshot before clear (03 R101). -/
def gqCtrl (s : State) (d q v : Nat) : State :=
  let s := if bitOf v 0 then s.modGq d q fun g => g.snap (s.stamp d) else s
  let s := if bitOf v 1 then s.modGq d q Gq.clr else s
  if bitOf v 2 then s.modGq d q fun g => g.flushCmd (s.gqW d q) else s

/-- The four thresholds as written are in order and none above 2,048 (03 R97). -/
def marksOk (v : Nat) : Bool :=
  let m := BitVec.ofNat 64 v
  decide (hiOn m ≤ 2048) && decide (hiOff m ≤ 2048) && decide (loOn m ≤ 2048) && decide (loOff m ≤ 2048) &&
  decide (hiOff m < hiOn m) && decide (loOn m < loOff m)

/-- Bits of GQ_MARKS that hold a field. -/
def marksBits : BitVec 64 := 0x0FFF0FFF0FFF0FFF

/-- An 8-byte write of GQ_MARKS (03 R97). -/
def gqMarks (s : State) (d q v : Nat) : State :=
  if marksOk v then
    let w := s.gqW d q; let r := s.gqR d q
    s.modGq d q fun g =>
      let g := { g with marks := BitVec.ofNat 64 v &&& marksBits }
      let g := if w then g.evalHi else g
      if r then g.evalLo else g
  else s.modGq d q fun g => { g with markErr := true }

/-- GQ_STATUS (03 Table 3.8). -/
def State.gqStatus (s : State) (d q : Nat) : Nat :=
  let g := s.gq d q
  atBit (g.rLevel == 0) 0 + atBit (decide (2048 ≤ g.wLevel)) 1 + atBit g.hi 2 + atBit g.lo 3 + atBit g.lostSat 4 +
  atBit g.corrSat 5 + atBit g.markErr 6 +
  atBit (decide (g.wsel.toNat < 32) && (s.node (fclkNode d g.wsel.toNat)).failed) 7 +
  atBit (decide (g.rsel.toNat < 32) && (s.node (fclkNode d g.rsel.toNat)).failed) 8 + atBit g.ueSeen 9

/-- A 32-bit gutter queue register; GQ_PUSH and GQ_POP are not read here. -/
def State.gqRead (s : State) (d q off : Nat) : Nat :=
  let g := s.gq d q
  let h (v base : Nat) : Nat := if off = base then v % 2 ^ 32 else v / 2 ^ 32
  if off = 0x00 then g.wsel.toNat + atLo g.rsel.toNat 8 + atBit g.stampEn 16 + atBit g.used 31
  else if off = 0x04 then atBit g.flush 2
  else if off = 0x08 then s.gqStatus d q
  else if off = 0x10 ∨ off = 0x14 then h g.marks.toNat 0x10
  else if off = 0x20 ∨ off = 0x24 then h g.written.toNat 0x20
  else if off = 0x28 ∨ off = 0x2C then h g.read.toNat 0x28
  else if off = 0x30 then g.level
  else if off = 0x34 then g.lost.toNat
  else if off = 0x38 then g.corr.toNat
  else if off = 0x40 ∨ off = 0x44 then h g.sWritten.toNat 0x40
  else if off = 0x48 ∨ off = 0x4C then h g.sRead.toNat 0x48
  else if off = 0x50 then g.sLevel.toNat
  else if off = 0x54 then g.sLost.toNat
  else if off = 0x58 then g.sCorr.toNat
  else if off = 0x5C then g.sStamp.toNat
  else if off = 0x90 ∨ off = 0x94 then h g.popMeta.toNat 0x90
  else 0

/-- A 32-bit gutter queue register write: GQ_CTRL and the W1C bits of GQ_STATUS; the others are read only. -/
def State.gqWriteWord (d q : Nat) (s : State) (off v : Nat) : State :=
  if off = 0x04 then gqCtrl s d q v
  else if off = 0x08 then
    s.modGq d q fun g => { g with markErr := g.markErr && !bitOf v 6, ueSeen := g.ueSeen && !bitOf v 9 }
  else s

/-- GQ_PUSH (03 R90, R103): 8-byte writes to a queue in use with a register write side. -/
def gqPushReg (s : State) (d q : Nat) (eight : Bool) (v : Nat) : RegRes :=
  let g := s.gq d q
  if ¬ eight ∨ ¬ g.used ∨ g.wsel.toNat ≠ 32 then regErr s
  else if s.gqW d q then regOk (s.gqStore d q (BitVec.ofNat 64 v)) 0 else regOk s 0

/-- GQ_POP (03 R103, Table 3.10): pops the presented entry, or answers 0 with VALID = 0; a Ladder peek changes nothing. DESIGN CHOICE: a peek
    of a used queue whose read side is a fabric side is answered TGTERR too (142), and GQ_POP_META reads 0 whole after a pop of an empty
    queue (143). -/
def gqPopReg (w : Who) (s : State) (d q : Nat) (eight : Bool) (u su : Sys2Proof.Upset) : RegRes :=
  let g := s.gq d q
  if ¬ eight ∨ ¬ g.used ∨ g.rsel.toNat ≠ 32 then regErr s
  else if ¬ readActs w then regOk s ((g.presented.map fun e => e.data.toNat).getD 0)
  else if ¬ s.gqR d q then regOk s 0
  else
    match gqPopEntry s d q u su with
    | (s1, some p) =>
      let meta1 := p.stamp.toNat + atBit true 32 + atBit p.poison 33 + atBit p.coarse 34
      regOk (s1.modGq d q fun g => { g with popMeta := BitVec.ofNat 64 meta1 }) p.data.toNat
    | (s1, none) => regOk (s1.modGq d q fun g => { g with popMeta := 0 }) 0

/-- An access within a queue's 0x100 bytes (03 R103, Table 3.5): GQ_PUSH and GQ_POP accept only 8-byte accesses. -/
def gqReg (w : Who) (s : State) (d q off : Nat) (write eight : Bool) (v : Nat) (u su : Sys2Proof.Upset) : RegRes :=
  if 128 ≤ q then regOk s 0
  else if (off = 0x80 ∨ off = 0x84 ∨ off = 0x88 ∨ off = 0x8C) ∧ ¬ eight then regErr s
  else if off = 0x80 then (if write then gqPushReg s d q eight v else regOk s 0)
  else if off = 0x88 then (if write then regOk s 0 else gqPopReg w s d q eight u su)
  else if write then
    if off = 0x10 ∨ off = 0x14 then (if eight then regOk (gqMarks s d q v) 0 else regErr s)
    else regOk (putWords (State.gqWriteWord d q) s off eight v) 0
  else regOk s (words (s.gqRead d q) off eight)

def gqAddr (d q off : Nat) : Nat := dieBase d + 0x700000 + q * 0x100 + off

def gqDirect (w : Who) (d q off : Nat) (write eight : Bool) (v : Nat) (u su : Sys2Proof.Upset) (s : State) : Out :=
  .next (s.access w (gqAddr d q off) write fun s => gqReg w s d q off write eight v u su)

def execGqPush (w : Who) (die q : Nat) (data : BitVec 64) (s : State) : Out :=
  gqDirect w die q 0x80 true true data.toNat .none .none s
def execGqPop (w : Who) (die q : Nat) (u su : Sys2Proof.Upset) (s : State) : Out := gqDirect w die q 0x88 false true 0 u su s
def execGqSnap (w : Who) (die q : Nat) (s : State) : Out := gqDirect w die q 0x04 true false 1 .none .none s
def execGqClrCnt (w : Who) (die q : Nat) (s : State) : Out := gqDirect w die q 0x04 true false 2 .none .none s
def execGqFlush (w : Who) (die q : Nat) (s : State) : Out := gqDirect w die q 0x04 true false 4 .none .none s
def execGqMarksWrite (w : Who) (die q : Nat) (data : BitVec 64) (s : State) : Out :=
  gqDirect w die q 0x10 true true data.toNat .none .none s

end Sys2Proof.Machine
end

