-- ==== Sys2Proof/Machine/SliceOps.lean ====
section
/-! DEFINITION. The datapath of an arithmetic slice: instruction fields and validity, move sources, 24-bit results, rounding and limiting,
address generation, and the arithmetic of every opcode with its flags (04 R107 to R117, 05 R132 to R151). -/

namespace Sys2Proof.Machine

/-! ### Fields of the instruction word (05 Table 5.1) -/

def iOpc (w : BitVec 40) : Nat := bitsOf w.toNat 32 8
def iDst (w : BitVec 40) : Nat := bitsOf w.toNat 28 4
def iSrc (w : BitVec 40) : Nat := bitsOf w.toNat 24 4
def iX (w : BitVec 40) : Nat := bitsOf w.toNat 12 12
def iY (w : BitVec 40) : Nat := bitsOf w.toNat 0 12
/-- Bits 31:24, the destination code of a MOVE, the register code of LOOP reg. -/
def iCode (w : BitVec 40) : Nat := bitsOf w.toNat 24 8
/-- Bits 23:16, the source code of MOVE reg, reg. -/
def iCode2 (w : BitVec 40) : Nat := bitsOf w.toNat 16 8

/-- Fields of a parallel move (05 Table 5.4). -/
def mvType (m : Nat) : Nat := bitsOf m 9 3
def mvPtr (m : Nat) : Nat := bitsOf m 7 2
def mvUpd (m : Nat) : Nat := bitsOf m 5 2
def mvReg (m : Nat) : Nat := bitsOf m 0 5

/-- A move field holds no reserved value and zeros where 0 is required (05 R133, R136). -/
def mvValid (m : Nat) : Bool :=
  match mvType m with
  | 0 => bitsOf m 0 9 == 0
  | 1 => decide (mvReg m < 8)
  | 2 => decide (mvReg m < 8) && mvReg m % 4 != 3
  | 3 => decide (mvReg m < 12)
  | 4 => mvReg m == 0
  | 5 => decide (mvPtr m < 2) && mvUpd m == 0 && decide (mvReg m < 8)
  | 6 => decide (mvPtr m < 2) && mvUpd m == 0 && decide (mvReg m < 12)
  | _ => decide (bitsOf m 5 4 < 12) && decide (mvReg m < 8)

/-- Register codes that may stand as a source and as a destination (05 Table 5.7). -/
def codeReads (c : Nat) : Bool := decide (c < 0x2E) || (decide (0x30 ≤ c) && decide (c < 0x38))
def codeWrites (c : Nat) : Bool := decide (c < 0x2C) || (decide (0x2E ≤ c) && decide (c < 0x38))

/-- The instructions whose XMV and YMV are parallel moves (05 R132). -/
def hasMoves (w : BitVec 40) : Bool :=
  let o := iOpc w
  o == 0 || o == 4 || (decide (0x10 ≤ o) && decide (o < 0x54))

/-- Opcodes whose DST and SRC hold only values the tables of chapter 5 give them. -/
def dstSrcValid (o dst src : Nat) : Bool :=
  if o = 0 then dst == 0 && src == 0
  else if o = 4 then src == 0 && dst / 4 != 1
  else if 0x10 ≤ o ∧ o ≤ 0x13 then true
  else if 0x18 ≤ o ∧ o ≤ 0x1B then dst / 4 % 2 == 0
  else if o = 0x20 ∨ o = 0x21 then (dst / 4 == 0 || dst / 4 == 2) && decide (src ≤ 12)
  else if o = 0x22 ∨ o = 0x23 then dst / 4 == 0 && decide (src ≤ 12)
  else if o = 0x24 ∨ o = 0x25 then dst / 4 == 0 && src == 0
  else if 0x30 ≤ o ∧ o ≤ 0x4F then dst / 4 == 0 && decide (src ≤ 12)
  else if o = 0x50 ∨ o = 0x51 then dst / 4 % 2 == 0 && decide (src < 8)
  else if o = 0x52 ∨ o = 0x53 then decide (src < 8)
  else false

/-- Whether a word is an instruction the map assigns, with no reserved value and no bit that should be 0 (05 R133, R152, R162). -/
def wordValid (w : BitVec 40) : Bool :=
  let o := iOpc w
  let n := w.toNat
  if o = 0x01 then codeWrites (iCode w) && codeReads (iCode2 w) && bitsOf n 0 16 == 0
  else if o = 0x02 ∨ o = 0x03 then codeWrites (iCode w)
  else if o = 0xF0 then bitsOf n 10 6 == 0
  else if o = 0xF1 then bitsOf n 10 14 == 0 && codeReads (iCode w) && !(decide (0x2C ≤ iCode w) && decide (iCode w < 0x30))
  else if o = 0xF2 then bitsOf n 10 21 == 0
  else if o = 0xF3 then bitsOf n 10 14 == 0 && bitsOf n 28 3 == 0 && decide (iSrc w < 14)
  else if o = 0xF4 then bitsOf n 10 22 == 0
  else if o = 0xF6 then bitsOf n 4 28 == 0
  else if o = 0xF5 ∨ o = 0xF7 ∨ o = 0xF8 then bitsOf n 0 32 == 0
  else hasMoves w && dstSrcValid o (iDst w) (iSrc w) && mvValid (iX w) && mvValid (iY w)

/-- A valid control instruction (05 R132). -/
def isControl (w : BitVec 40) : Bool := decide (0xF0 ≤ iOpc w) && wordValid w

/-! ### Registers -/

def Slice.dReg (s : Slice) (n : Nat) : BitVec 24 := tget 0 s.d n
def Slice.origin (s : Slice) (n : Nat) : BitVec 16 := tget 0x8000 s.org n
def Slice.acc (s : Slice) (n : Nat) : BitVec 56 := tget 0 s.a n
def Slice.setD (s : Slice) (n : Nat) (v : BitVec 24) (o : BitVec 16) : Slice :=
  { s with d := tput 0 s.d n v, org := tput 0x8000 s.org n o }
def Slice.setA (s : Slice) (n : Nat) (v : BitVec 56) : Slice := { s with a := tput 0 s.a n v }
def Slice.setIx (s : Slice) (n : Nat) (v : BitVec 16) : Slice := { s with ix := tput 0 s.ix n v }

/-- MODE.INT and MODE.LIMIT (04 Table 4.8). -/
def modeInt (m : BitVec 2) : Bool := m.getLsbD 0
def modeLimit (m : BitVec 2) : Bool := m.getLsbD 1

/-! ### 24-bit results (04 R110, R112) -/

/-- A 24-bit value aligned to 56 bits: AnH of a fraction, AnL of an integer (04 R110). -/
def enter24 (m : BitVec 2) (v : BitVec 24) : BitVec 56 :=
  if modeInt m then v.signExtend 56 else v.signExtend 56 <<< 24

/-- The 24-bit result of an accumulator (04 R110). -/
def result24 (m : BitVec 2) (a : BitVec 56) : BitVec 24 := if modeInt m then a.extractLsb' 0 24 else a.extractLsb' 24 24

/-- The accumulator's value fits its 24-bit result (04 R112). -/
def fits24 (m : BitVec 2) (a : BitVec 56) : Bool :=
  let t : Int := a.toInt / 2 ^ (if modeInt m then 23 else 47)
  t == 0 || t == -1

/-- SAT (04 R112): the limited 24-bit value. -/
def sat24 (m : BitVec 2) (a : BitVec 56) : BitVec 24 :=
  if fits24 m a then result24 m a else if a.getLsbD 55 then 0x800000 else 0x7FFFFF

/-- The value a move takes from an accumulator, and whether the limit set L (04 R110, 05 R138). -/
def moveOfAcc (m : BitVec 2) (a : BitVec 56) : BitVec 24 × Bool :=
  if modeLimit m then (sat24 m a, !fits24 m a) else (result24 m a, false)

/-- The value of a move source code, and whether its limiting sets L (05 Table 5.6). -/
def Slice.moveSrc (s : Slice) (c : Nat) : BitVec 24 × Bool :=
  if c < 8 then (s.dReg c, false) else moveOfAcc s.mode (s.acc (c - 8))

/-! ### Address generation (04 R116) -/

/-- The bit length of MOD. -/
def modBits (md : Nat) : Nat := if md = 0 then 0 else md.log2 + 1

/-- The low `k` bits of a number in reversed order. -/
def revBits : Nat → Nat → Nat
  | 0, _ => 0
  | k + 1, v => v % 2 * 2 ^ k + revBits k (v / 2)

def modStep (x : BitVec 25) : Int := (x.extractLsb' 0 12).toInt
def modMod (x : BitVec 25) : Nat := bitsOf x.toNat 12 11
def modMode (x : BitVec 25) : Nat := bitsOf x.toNat 23 2

/-- The address a move forms from a pointer (04 R116, 05 R137). -/
def formAddr (x : BitVec 25) (p : BitVec 11) : BitVec 11 :=
  if modMode x = 2 then
    let k := modBits (modMod x)
    BitVec.ofNat 11 (p.toNat / 2 ^ k * 2 ^ k + revBits k (p.toNat % 2 ^ k))
  else p

/-- The pointer after one of the four update forms (04 R116, 05 Table 5.5). -/
def updPtr (x : BitVec 25) (b p : BitVec 11) (upd : Nat) : BitVec 11 :=
  if upd = 0 then p
  else
    let st : Int := if upd = 1 then 1 else if upd = 2 then -1 else modStep x
    if modMode x = 1 then
      let m : Int := modMod x + 1
      BitVec.ofInt 11 ((b.toNat : Int) + (((p - b).toNat : Int) + st) % m)
    else if modMode x = 2 then
      let k := modBits (modMod x)
      let low : Int := ((p.toNat % 2 ^ k : Nat) : Int) + st
      BitVec.ofNat 11 (p.toNat / 2 ^ k * 2 ^ k + (low % (2 ^ k : Int)).toNat)
    else BitVec.ofInt 11 ((p.toNat : Int) + st)

/-- A pointer of the X or Y side with its modifier and base. -/
def Slice.ptr (s : Slice) (y : Bool) (n : Nat) : BitVec 11 := tget 0 (if y then s.yp else s.xp) n
def Slice.modifier (s : Slice) (y : Bool) (n : Nat) : BitVec 25 := tget 1 (if y then s.ym else s.xm) n
def Slice.ptrBase (s : Slice) (y : Bool) (n : Nat) : BitVec 11 := tget 0 (if y then s.yb else s.xb) n
def Slice.setPtr (s : Slice) (y : Bool) (n : Nat) (v : BitVec 11) : Slice :=
  if y then { s with yp := tput 0 s.yp n v } else { s with xp := tput 0 s.xp n v }

/-- A move field that uses a pointer (05 Table 5.4). -/
def mvMem (m : Nat) : Bool := decide (1 ≤ mvType m) && decide (mvType m ≤ 4)
/-- A move field that reads a memory word. -/
def mvLoads (m : Nat) : Bool := mvType m == 1 || mvType m == 2

/-! ### Register codes (05 Table 5.7) -/

/-- The value of a register code as a MOVE source, and whether limiting it sets L. Input streams are popped in MR. -/
def Slice.readCode (s : Slice) (c : Nat) : Nat × Bool :=
  if c < 0x08 then ((s.dReg c).toNat, false)
  else if c < 0x0C then let r := moveOfAcc s.mode (s.acc (c - 0x08)); (r.1.toNat, r.2)
  else if c < 0x10 then (bitsOf (s.acc (c - 0x0C)).toNat 48 8, false)
  else if c < 0x14 then (bitsOf (s.acc (c - 0x10)).toNat 24 24, false)
  else if c < 0x18 then (bitsOf (s.acc (c - 0x14)).toNat 0 24, false)
  else if c < 0x1C then ((s.ptr false (c - 0x18)).toNat, false)
  else if c < 0x20 then ((s.ptr true (c - 0x1C)).toNat, false)
  else if c < 0x24 then (bitsOf (s.modifier false (c - 0x20)).toNat 0 24, false)
  else if c < 0x28 then (bitsOf (s.modifier true (c - 0x24)).toNat 0 24, false)
  else if c < 0x2A then ((tget 0 s.ix (c - 0x28)).toNat, false)
  else if c = 0x2A then (s.mode.toNat, false)
  else if c = 0x2B then (s.flags.toNat, false)
  else if c < 0x30 then (0, false)
  else if c < 0x34 then ((s.ptrBase false (c - 0x30)).toNat, false)
  else if c < 0x38 then ((s.ptrBase true (c - 0x34)).toNat, false)
  else (0, false)

/-- Part of an accumulator replaced. -/
def accPart (a : BitVec 56) (lo n v : Nat) : BitVec 56 :=
  BitVec.ofNat 56 (a.toNat / 2 ^ (lo + n) * 2 ^ (lo + n) + v % 2 ^ n * 2 ^ lo + a.toNat % 2 ^ lo)

/-- An output stream takes a word, or discards it when full and sets OVERRUN (04 R121). -/
def Slice.outPush (s : Slice) (i : Bool) (v : BitVec 24) : Slice :=
  let e : StreamWord := { data := v }
  if i then (if s.os1.length < 4 then { s with os1 := s.os1 ++ [e] } else { s with sticky := s.sticky ||| 8 })
  else (if s.os0.length < 4 then { s with os0 := s.os0 ++ [e] } else { s with sticky := s.sticky ||| 4 })

/-- What a store, a stream or register write does in WB. The codes are those of Table 5.7, with 0x40 and 0x41 a store to X and Y memory (the
    address above bit 24), and 0x50 + n all 56 bits of An. -/
def Slice.landOne (blank : MemWord) (s : Slice) (w : WbWrite) : Slice :=
  let c := w.reg
  let v := w.val.toNat
  let v24 := BitVec.ofNat 24 v
  if c < 0x08 then s.setD c v24 0x8000
  else if c < 0x0C then s
  else if c < 0x10 then s.setA (c - 0x0C) (accPart (s.acc (c - 0x0C)) 48 8 v)
  else if c < 0x14 then s.setA (c - 0x10) (accPart (s.acc (c - 0x10)) 24 24 v)
  else if c < 0x18 then s.setA (c - 0x14) (accPart (s.acc (c - 0x14)) 0 24 v)
  else if c < 0x1C then s.setPtr false (c - 0x18) (BitVec.ofNat 11 v)
  else if c < 0x20 then s.setPtr true (c - 0x1C) (BitVec.ofNat 11 v)
  else if c < 0x24 then { s with xm := tput 1 s.xm (c - 0x20) (BitVec.ofNat 25 v) }
  else if c < 0x28 then { s with ym := tput 1 s.ym (c - 0x24) (BitVec.ofNat 25 v) }
  else if c < 0x2A then s.setIx (c - 0x28) (BitVec.ofNat 16 v)
  else if c = 0x2A then { s with mode := BitVec.ofNat 2 v }
  else if c = 0x2B then { s with flags := BitVec.ofNat 5 v }
  else if c = 0x2E then s.outPush false v24
  else if c = 0x2F then s.outPush true v24
  else if c < 0x30 then s
  else if c < 0x34 then { s with xb := tput 0 s.xb (c - 0x30) (BitVec.ofNat 11 v) }
  else if c < 0x38 then { s with yb := tput 0 s.yb (c - 0x34) (BitVec.ofNat 11 v) }
  else if c = 0x40 then { s with xmem := tput blank s.xmem (v / 2 ^ 24) { data := (BitVec.ofNat 24 v).zeroExtend 40 } }
  else if c = 0x41 then { s with ymem := tput blank s.ymem (v / 2 ^ 24) { data := (BitVec.ofNat 24 v).zeroExtend 40 } }
  else if 0x50 ≤ c ∧ c < 0x54 then s.setA (c - 0x50) w.val
  else s

/-- The writes of one instruction land in order: of two to one register the later one stands (05 R135). -/
def Slice.land (s : Slice) (blank : MemWord) (ws : List WbWrite) : Slice := ws.foldl (Slice.landOne blank) s

/-- The pointers with the writes an older instruction lands on them. -/
def Pointers.land (p : Pointers) (ws : List WbWrite) : Pointers :=
  ws.foldl (fun p w =>
    if 0x18 ≤ w.reg ∧ w.reg < 0x1C then { p with xp := tput 0 p.xp (w.reg - 0x18) (w.val.truncate 11) }
    else if 0x1C ≤ w.reg ∧ w.reg < 0x20 then { p with yp := tput 0 p.yp (w.reg - 0x1C) (w.val.truncate 11) }
    else p) p

/-! ### Arithmetic (05 R143 to R151) -/

/-- What the arithmetic part of an instruction writes in M2. -/
structure Arith where
  accs : List (Nat × BitVec 56) := []
  ixs : List (Nat × BitVec 16) := []
  /-- E, V, Z, N where the instruction sets flags. -/
  flags : Option (BitVec 4) := none
  setL : Bool := false
  cas : Option (BitVec 56) := none
deriving DecidableEq, Repr

/-- An exact value leaves the range of 56 bits (05 R147). -/
def wraps56 (r : Int) : Bool := decide (r < -2 ^ 55) || decide (2 ^ 55 ≤ r)

/-- N, Z, V and E of a result (04 Table 4.9, 05 Table 5.10). -/
def flagBits (m : BitVec 2) (a : BitVec 56) (v : Bool) : BitVec 4 :=
  BitVec.ofNat 4 (atBit (a.getLsbD 55) 0 + atBit (a == 0) 1 + atBit v 2 + atBit (!fits24 m a) 3)

/-- Convergent rounding at bit 24, as an exact value (04 R111). -/
def rndExact (a : BitVec 56) : Int :=
  let low := bitsOf a.toNat 0 24
  let top : Int := a.toInt - low
  if 0x800000 < low ∨ (low = 0x800000 ∧ a.getLsbD 24) then top + 2 ^ 24 else top

/-- The product of two registers as the accumulate stage takes it (04 R108, 05 R145). -/
def prod (x y : BitVec 24) : BitVec 56 := BitVec.ofInt 56 (x.toInt * y.toInt)
def scaled (m : BitVec 2) (p : BitVec 56) : Int := if modeInt m then p.toInt else p.toInt * 2

/-- One accumulator updated by an exact value. -/
def oneAcc (m : BitVec 2) (n : Nat) (r : Int) (casOut : Bool) : Arith :=
  let a := BitVec.ofInt 56 r
  { accs := [(n, a)], flags := some (flagBits m a (wraps56 r)), setL := wraps56 r, cas := if casOut then some a else none }

/-- MPY, MAC, MSU, MACR (05 R145). -/
def mulArith (s : Slice) (w : BitVec 40) (p0 casin : BitVec 56) : Arith :=
  let m := s.mode
  let n := iDst w % 4
  let c : Int := if bitOf (iDst w) 2 then casin.toInt else 0
  let a : Int := (s.acc n).toInt
  let p := scaled m p0
  let r : Int := match iOpc w with
    | 0x10 => p + c
    | 0x12 => a - p + c
    | _ => a + p + c
  if iOpc w = 0x13 then
    let r2 := rndExact (BitVec.ofInt 56 r)
    let a2 := BitVec.ofInt 56 r2
    let v := wraps56 r || wraps56 r2
    { accs := [(n, a2)], flags := some (flagBits m a2 v), setL := v, cas := if bitOf (iDst w) 3 then some a2 else none }
  else oneAcc m n r (bitOf (iDst w) 3)

/-- DMAC.S, .P, .A, .D (05 R146). -/
def dmacArith (s : Slice) (w : BitVec 40) (p0 p1 : BitVec 56) : Arith :=
  let m := s.mode
  let n := iDst w % 4
  let a : Int := (s.acc n).toInt
  let q0 := scaled m p0
  let q1 := scaled m p1
  if iOpc w ≤ 0x19 then
    let n' := n ^^^ 1
    let r := a + q0
    let r' : Int := (s.acc n').toInt + q1
    let v := wraps56 r || wraps56 r'
    let a0 := BitVec.ofInt 56 r
    { accs := [(n, a0), (n', BitVec.ofInt 56 r')], flags := some (flagBits m a0 v), setL := v,
      cas := if bitOf (iDst w) 3 then some a0 else none }
  else oneAcc m n (if iOpc w = 0x1A then a + q0 + q1 else a + q0 - q1) (bitOf (iDst w) 3)

/-- The operand of ADD, SUB, ABS, NEG and the shifts (05 Table 5.9). -/
def Slice.operand (s : Slice) (src : Nat) (casin : BitVec 56) : BitVec 56 :=
  if src < 8 then enter24 s.mode (s.dReg src) else if src < 12 then s.acc (src - 8) else casin

/-- MAX, MIN, MAXI, MINI (05 R151). -/
def searchArith (s : Slice) (w : BitVec 40) : Arith :=
  let m := s.mode
  let n := iDst w % 4
  let i := iDst w / 4 % 2
  let k := iSrc w % 8
  let v := enter24 m (s.dReg k)
  let isMax := iOpc w % 2 == 0
  let idx := decide (0x52 ≤ iOpc w)
  let better (mx : Bool) (j : Nat) : Bool := if mx then decide ((s.acc j).toInt < v.toInt) else decide (v.toInt < (s.acc j).toInt)
  let one (mx : Bool) (j ii : Nat) : List (Nat × BitVec 56) × List (Nat × BitVec 16) :=
    if better mx j then ([(j, v)], if idx then [(ii, s.origin k)] else []) else ([], [])
  let r := one isMax n i
  let r2 := if bitOf (iDst w) 3 then one (!isMax) (n ^^^ 1) (i ^^^ 1) else ([], [])
  let after := if better isMax n then v else s.acc n
  { accs := r.1 ++ r2.1, ixs := r.2 ++ r2.2, flags := some (flagBits m after false) }

/-- The arithmetic of one instruction in M2, on the slice as it stood before the cycle. -/
def arithOf (s : Slice) (w : BitVec 40) (p0 p1 casin : BitVec 56) : Arith :=
  let o := iOpc w
  let m := s.mode
  let n := iDst w % 4
  let a := s.acc n
  let v := s.operand (iSrc w) casin
  if o = 0x04 then
    (if iDst w < 4 then { accs := [(n, 0)], flags := some 2 } else {})
  else if 0x10 ≤ o ∧ o ≤ 0x13 then mulArith s w p0 casin
  else if 0x18 ≤ o ∧ o ≤ 0x1B then dmacArith s w p0 p1
  else if o = 0x20 then oneAcc m n (a.toInt + v.toInt) (bitOf (iDst w) 3)
  else if o = 0x21 then oneAcc m n (a.toInt - v.toInt) (bitOf (iDst w) 3)
  else if o = 0x22 then oneAcc m n (if v.toInt < 0 then -v.toInt else v.toInt) false
  else if o = 0x23 then oneAcc m n (-v.toInt) false
  else if o = 0x24 then oneAcc m n (rndExact a) false
  else if o = 0x25 then
    let lim := !fits24 m a
    let r := enter24 m (sat24 m a)
    { accs := [(n, r)],
      flags := some (BitVec.ofNat 4 (atBit (r.getLsbD 55) 0 + atBit (r == 0) 1 + atBit lim 3)), setL := lim }
  else if 0x30 ≤ o ∧ o ≤ 0x3F then oneAcc m n (v.toInt * 2 ^ (o % 16 + 1)) false
  else if 0x40 ≤ o ∧ o ≤ 0x4F then oneAcc m n (v.toInt / 2 ^ (o % 16 + 1)) false
  else if 0x50 ≤ o ∧ o ≤ 0x53 then searchArith s w
  else {}

/-- The products the multipliers form in M1 (05 R145, R146). -/
def productsOf (s : Slice) (w : BitVec 40) : BitVec 56 × BitVec 56 :=
  let o := iOpc w
  let j := iSrc w / 4
  let k := 4 + iSrc w % 4
  if 0x10 ≤ o ∧ o ≤ 0x13 then (prod (s.dReg j) (s.dReg k), 0)
  else if 0x18 ≤ o ∧ o ≤ 0x1B then
    (prod (s.dReg j) (s.dReg k), prod (s.dReg (j ^^^ 1)) (s.dReg (if o = 0x18 then k else k ^^^ 1)))
  else (0, 0)

/-! ### Moves in M2 (05 R138, R142) -/

/-- The write one parallel move makes in WB, with the limit that sets L: stores, stream outputs and register copies. -/
def mvWb (s : Slice) (y : Bool) (m : Nat) (addr : BitVec 11) : List WbWrite × Bool :=
  match mvType m with
  | 3 => let r := s.moveSrc (mvReg m); ([{ reg := if y then 0x41 else 0x40, val := BitVec.ofNat 56 (r.1.toNat + addr.toNat * 2 ^ 24) }], r.2)
  | 6 => let r := s.moveSrc (mvReg m); ([{ reg := 0x2E + mvPtr m, val := r.1.zeroExtend 56 }], r.2)
  | 7 => let r := s.moveSrc (bitsOf m 5 4); ([{ reg := mvReg m, val := r.1.zeroExtend 56 }], r.2)
  | _ => ([], false)

/-- The write of a MOVE to a register code (05 Table 5.7): a result code enters the accumulator under MODE as read in M2. -/
def codeWb (m : BitVec 2) (c v : Nat) : WbWrite :=
  if 0x08 ≤ c ∧ c < 0x0C then { reg := 0x50 + (c - 0x08), val := enter24 m (BitVec.ofNat 24 v) }
  else { reg := c, val := BitVec.ofNat 56 v }

/-- Everything an instruction will land in WB, decided in M2, and whether a limited move sets L. -/
def wbsOf (s : Slice) (f : Flight) : List WbWrite × Bool :=
  let w := f.word
  let o := iOpc w
  if o = 0x01 then
    let c2 := iCode2 w
    if c2 = 0x2C ∨ c2 = 0x2D then (if iCode w < 8 then ([], false) else ([codeWb s.mode (iCode w) f.popped.toNat], false))
    else let r := s.readCode c2; ([codeWb s.mode (iCode w) r.1], r.2)
  else if o = 0x02 ∨ o = 0x03 then
    let imm := bitsOf w.toNat 0 24
    let c := iCode w
    let v := if 0x20 ≤ c ∧ c < 0x28 then imm + 2 ^ 24 * (o % 2) else imm
    ([codeWb s.mode c v], false)
  else if hasMoves w then
    let clr : List WbWrite := if o = 0x04 ∧ 8 ≤ iDst w then [{ reg := iDst w % 8, val := 0 }] else []
    let x := mvWb s false (iX w) f.xa
    let y := mvWb s true (iY w) f.ya
    (clr ++ x.1 ++ y.1, x.2 || y.2)
  else ([], false)

/-- Words an instruction in flight will write to output stream i (04 R121). -/
def outsInFlight (i : Bool) (f : Option Flight) : Nat :=
  match f with
  | none => 0
  | some f =>
    if f.nop then 0
    else
      let w := f.word
      let k := bnat i
      if hasMoves w then
        bnat (mvType (iX w) == 6 && mvPtr (iX w) == k) + bnat (mvType (iY w) == 6 && mvPtr (iY w) == k)
      else if 1 ≤ iOpc w ∧ iOpc w ≤ 3 then bnat (iCode w == 0x2E + k) else 0

/-- Words an instruction pops from input stream i in MR. -/
def popsOf (i : Bool) (f : Option Flight) : Nat :=
  match f with
  | none => 0
  | some f =>
    if f.nop then 0
    else
      let w := f.word
      let k := bnat i
      if hasMoves w then
        bnat (mvType (iX w) == 5 && mvPtr (iX w) == k) + bnat (mvType (iY w) == 5 && mvPtr (iY w) == k)
      else if iOpc w = 1 then bnat (iCode2 w == 0x2C + k) else 0

end Sys2Proof.Machine
end

