-- ==== Sys2Proof/Machine/SlicePipe.lean ====
section
/-! DEFINITION. One SCLK cycle of an arithmetic slice: the seven stages, control instructions, loops, streams, cascade, traps and
draining (04 R118 to R126, 05 R134, R152 to R160, 06 R165 to R170). -/

namespace Sys2Proof.Machine

/-- A memory word as the slice reads it: the corrected bits, and what the check found. -/
structure Reading where
  data : BitVec 40 := 0
  single : Bool := false
  bad : Bool := false
deriving DecidableEq, Repr

/-- What a cycle reads from outside the slice's registers. -/
structure CycleIn where
  fetch : Reading := {}
  x : Reading := {}
  y : Reading := {}
  casin : BitVec 56 := 0
  /-- the word that stands where the memory tables list none -/
  blank : MemWord := MemWord.reset
deriving DecidableEq, Repr

/-- An uncorrectable read: memory (0 X, 1 Y, 2 instruction), word, reader (0 slice, 3 cancelled) and TPC (19 Table 19.3). -/
structure SlUe where
  mem : Nat
  word : Nat
  reader : Nat
  tpc : Nat
deriving DecidableEq, Repr

/-! ### Control state (06 R166) -/

def Slice.ctl (s : Slice) : Control :=
  { pc := s.pc, loops := s.loops, stack := s.stack, depth := s.depth, inTrap := s.inTrap, run := s.run, cause := s.cause }

def Slice.setCtl (s : Slice) (c : Control) : Slice :=
  { s with pc := c.pc, loops := c.loops, stack := c.stack, depth := c.depth, inTrap := c.inTrap, run := c.run, cause := c.cause }

def Slice.ptrs (s : Slice) : Pointers := { xp := s.xp, yp := s.yp }

/-- Open loop levels; they open and close as a stack (04 R118). -/
def openLevels (t : Tab LoopLevel) : Nat :=
  bnat (tget LoopLevel.reset t 0).isOpen + bnat (tget LoopLevel.reset t 1).isOpen + bnat (tget LoopLevel.reset t 2).isOpen

/-- The loop decision of the fetch at address `a` with `k` levels open (04 R118): the innermost level first, the next one only once
    it has closed in this fetch. -/
def loopNext (a : Nat) : Nat → Tab LoopLevel → Tab LoopLevel × Nat
  | 0, t => (t, (a + 1) % 1024)
  | k + 1, t =>
    let l := tget LoopLevel.reset t k
    if l.stop.toNat = a then
      if 1 < l.count.toNat then (tput LoopLevel.reset t k { l with count := l.count - 1 }, l.start.toNat)
      else loopNext a k (tput LoopLevel.reset t k { l with isOpen := false })
    else (t, (a + 1) % 1024)

/-- Level k closed, keeping its last start, end and count. -/
def closeLevel (t : Tab LoopLevel) (k : Nat) : Tab LoopLevel :=
  tmod LoopLevel.reset t k fun l => { l with isOpen := false }

/-! ### Stream conditions (04 R121, 05 R158) -/

/-- Entries of an input queue the slice sees. -/
def Slice.inVisible (s : Slice) (i : Bool) : Nat := ((if i then s.is1 else s.is0).filter fun e => decide (e.seenAt ≤ s.cyc)).length

/-- ISi not empty as WAITQ and JCC count it: entries beyond the pops older instructions have still to make. -/
def Slice.inReady (s : Slice) (i : Bool) : Bool := decide (popsOf i s.stAG + popsOf i s.stMR < s.inVisible i)

/-- OSi has space: free entries beyond the moves to it still in flight. -/
def Slice.outSpace (s : Slice) (i : Bool) : Bool :=
  let n := outsInFlight i s.stAG + outsInFlight i s.stMR + outsInFlight i s.stM1 + outsInFlight i s.stM2 + outsInFlight i s.stWB
  decide (n + (if i then s.os1 else s.os0).length < 4)

/-- Every condition a WAITQ names holds. -/
def Slice.waitOk (s : Slice) (mask : Nat) : Bool :=
  (!bitOf mask 0 || s.inReady false) && (!bitOf mask 1 || s.inReady true) &&
  (!bitOf mask 2 || s.outSpace false) && (!bitOf mask 3 || s.outSpace true)

/-- Condition codes (05 Table 5.12). -/
def Slice.cond (s : Slice) (cc : Nat) : Bool :=
  let n := s.flags.getLsbD 0
  let z := s.flags.getLsbD 1
  let v := s.flags.getLsbD 2
  let e := s.flags.getLsbD 3
  let l := s.flags.getLsbD 4
  match cc with
  | 0 => z | 1 => !z | 2 => n | 3 => !n | 4 => !n && !z | 5 => n || z
  | 6 => v | 7 => !v | 8 => e | 9 => !e | 10 => l | 11 => !l
  | 12 => s.inReady false | 13 => s.inReady true
  | _ => false

/-! ### Stage D -/

/-- What stage D decides. -/
structure DStage where
  ctl : Control
  /-- target of a taken transfer -/
  target : Option (BitVec 10) := none
  /-- the instruction fetched in this cycle is a delay slot -/
  slotCtl : Bool := false
  /-- the instruction fetched in this cycle is cancelled: LOOP with count 0 -/
  skip : Bool := false
  /-- WAITQ holds fetch and decode -/
  hold : Bool := false
deriving DecidableEq, Repr

/-- LOOP (05 R154): NOP in a handler or with END below its own address + 1; LOOP_DEPTH with three levels open; count 0 skips the body. DESIGN
    CHOICE: where both hold, END too low and three levels open, it is NOP (144). -/
def dLoop (c : Control) (addr : BitVec 10) (w : BitVec 40) (count : BitVec 16) : DStage :=
  let stop := BitVec.ofNat 10 (bitsOf w.toNat 0 10)
  let n := openLevels c.loops
  if c.inTrap ∨ stop.toNat < addr.toNat + 1 then { ctl := c }
  else if n = 3 then { ctl := { c with run := .draining, cause := 3 } }
  else if count = 0 then { ctl := { c with pc := stop + 1 }, skip := true }
  else { ctl := { c with loops := tput LoopLevel.reset c.loops n { start := addr + 1, stop := stop, count := count, isOpen := true } } }

/-- A taken JMP or JCC, with BRK (05 R155): BRK closes the innermost open level, and nothing in a handler (06 R167). -/
def dJump (c : Control) (w : BitVec 40) : DStage :=
  let n := openLevels c.loops
  let brk := bitOf w.toNat 31 && !c.inTrap && decide (0 < n)
  { ctl := if brk then { c with loops := closeLevel c.loops (n - 1) } else c,
    target := some (BitVec.ofNat 10 (bitsOf w.toNat 0 10)), slotCtl := true }

/-- CALL (05 R157): pushes the delay slot's address + 1; a fifth entry halts with STACK (04 R119). -/
def dCall (c : Control) (w : BitVec 40) : DStage :=
  if 4 ≤ c.depth then { ctl := { c with run := .draining, cause := 4 }, slotCtl := true }
  else
    { ctl := { c with stack := tput 0 c.stack c.depth (c.pc + 1), depth := c.depth + 1 },
      target := some (BitVec.ofNat 10 (bitsOf w.toNat 0 10)), slotCtl := true }

/-- RET (05 R157): pops into PC; with no entry held it halts with STACK (04 R119). -/
def dRet (c : Control) : DStage :=
  if c.depth = 0 then { ctl := { c with run := .draining, cause := 4 }, slotCtl := true }
  else { ctl := { c with depth := c.depth - 1 }, target := some (tget 0 c.stack (c.depth - 1)), slotCtl := true }

/-- TRAPRET (05 R159): NOP while IN_TRAP = 0. -/
def dTrapret (c : Control) (trap : BitVec 32) : DStage :=
  if c.inTrap then { ctl := { c with inTrap := false }, target := some (trap.extractLsb' 16 10), slotCtl := true } else { ctl := c }

/-- WAITQ (05 R158): holds the slice in WAITING until its conditions hold. -/
def dWaitq (s : Slice) (c : Control) (w : BitVec 40) : DStage :=
  if s.waitOk (bitsOf w.toNat 0 4) then { ctl := { c with run := if c.run = .waiting then .running else c.run } }
  else { ctl := { c with run := if c.run = .running then .waiting else c.run }, hold := true }

/-- Stage D of a cycle, on the slice as it stood before it. -/
def dStage (s : Slice) : DStage :=
  let c := s.ctl
  match s.stD with
  | none => { ctl := c }
  | some f =>
    if f.nop then { ctl := c }
    else
      let w := f.word
      match iOpc w with
      | 0xF0 => dLoop c f.addr w (BitVec.ofNat 16 (bitsOf w.toNat 16 16))
      | 0xF1 => dLoop c f.addr w (BitVec.ofNat 16 (s.readCode (iCode w)).1)
      | 0xF2 => dJump c w
      | 0xF3 => if s.cond (iSrc w) then dJump c w else { ctl := c, slotCtl := true }
      | 0xF4 => dCall c w
      | 0xF5 => dRet c
      | 0xF6 => dWaitq s c w
      | 0xF7 => dTrapret c s.trap
      | 0xF8 => { ctl := { c with run := .draining, cause := 1 }, slotCtl := true }
      | _ => { ctl := c }

/-! ### Stage MR -/

/-- Whether the instruction in MR reads an X or a Y word. -/
def Slice.readsX (s : Slice) : Bool := match s.stMR with
  | some f => !f.nop && hasMoves f.word && mvLoads (iX f.word)
  | none => false
def Slice.readsY (s : Slice) : Bool := match s.stMR with
  | some f => !f.nop && hasMoves f.word && mvLoads (iY f.word)
  | none => false

/-- A pop of an input stream (04 R121): 0 and UNDERRUN when nothing is visible at the start of the cycle, which stages D and MR share (06 R173);
    the slice comes with its cycle already counted. -/
def Slice.pop (s : Slice) (i : Bool) : BitVec 24 × Slice :=
  match (if i then s.is1 else s.is0) with
  | e :: rest =>
    if e.seenAt < s.cyc then (e.data, if i then { s with is1 := rest } else { s with is0 := rest })
    else (0, { s with sticky := s.sticky ||| (if i then 2 else 1) })
  | [] => (0, { s with sticky := s.sticky ||| (if i then 2 else 1) })

/-- The effect in MR of one move field: load, load and shift with the old register, stream in (05 R139, R140). -/
def mrMove (old : Slice) (y : Bool) (m : Nat) (a : BitVec 11) (r : Reading) (s : Slice) : Slice :=
  let n := mvReg m
  let v := r.data.truncate 24
  let o : BitVec 16 := BitVec.ofNat 16 (a.toNat + atBit y 11)
  match mvType m with
  | 1 => s.setD n v o
  | 2 => (s.setD n v o).setD (n + 1) (old.dReg n) (old.origin n)
  | 5 => let p := s.pop (mvPtr m == 1); p.2.setD n p.1 0x8000
  | _ => s

/-- Stage MR of an instruction: its loads and pops, the X field first, with the word a MOVE popped. -/
def mrStage (old : Slice) (f : Flight) (i : CycleIn) (s : Slice) : Slice × Flight :=
  if f.nop then (s, f)
  else if hasMoves f.word then
    (mrMove old true (iY f.word) f.ya i.y (mrMove old false (iX f.word) f.xa i.x s), f)
  else if iOpc f.word = 1 ∧ (iCode2 f.word = 0x2C ∨ iCode2 f.word = 0x2D) then
    let p := s.pop (iCode2 f.word == 0x2D)
    (if iCode f.word < 8 then p.2.setD (iCode f.word) p.1 0x8000 else p.2, { f with popped := p.1 })
  else (s, f)

/-! ### Stages AG, M1 and M2 -/

/-- Stage AG: addresses from the pointers, then the updates (04 R116); the form "none" writes no pointer (05 Table 5.5), so a MOVE
landing in the same cycle stands. The pointers without its updates are kept for a trap. -/
def agStage (old : Slice) (f : Flight) (landed : List WbWrite) (s : Slice) : Slice × Flight :=
  let f := { f with ptrs := old.ptrs.land landed }
  if f.nop ∨ ¬ hasMoves f.word then (s, f)
  else
    let side (y : Bool) (m : Nat) (s : Slice) : Slice :=
      if mvMem m ∧ mvUpd m ≠ 0 then s.setPtr y (mvPtr m) (updPtr (old.modifier y (mvPtr m)) (old.ptrBase y (mvPtr m)) (old.ptr y (mvPtr m)) (mvUpd m)) else s
    (side true (iY f.word) (side false (iX f.word) s),
     { f with xa := formAddr (old.modifier false (mvPtr (iX f.word))) (old.ptr false (mvPtr (iX f.word))),
              ya := formAddr (old.modifier true (mvPtr (iY f.word))) (old.ptr true (mvPtr (iY f.word))) })

def m1Stage (old : Slice) (f : Flight) : Flight :=
  if f.nop then f else let p := productsOf old f.word; { f with p0 := p.1, p1 := p.2 }

/-- Stage M2: the accumulate stage, flags, index registers and CASOUT; what the instruction lands in WB is decided here. -/
def m2Stage (old : Slice) (f : Flight) (casin : BitVec 56) (s : Slice) : Slice × Flight :=
  if f.nop then (s, { f with wbs := [] })
  else
    let r := arithOf old f.word f.p0 f.p1 casin
    let m := wbsOf old f
    let s := r.accs.foldl (fun s e => s.setA e.1 e.2) s
    let s := r.ixs.foldl (fun s e => s.setIx e.1 e.2) s
    let fl : BitVec 5 := match r.flags with
      | some b => (s.flags &&& 0x10) ||| b.zeroExtend 5
      | none => s.flags
    let fl := if r.setL || m.2 then fl ||| 0x10 else fl
    let s := { s with flags := fl }
    let s := match r.cas with
      | some v => { s with casPrev := old.casout, casout := v, casAt := old.cyc + 1 }
      | none => s
    (s, { f with wbs := m.1 })

/-! ### The cycle -/

/-- Whether this cycle fetches the word at PC: RUNNING, or WAITING in the cycle that releases, and no WAITQ holding. -/
def Slice.fetches (s : Slice) : Bool := (s.run == .running || s.run == .waiting) && !(dStage s).hold

/-- A trap at this edge: the control state to return to, the address of the oldest cancelled instruction, and SL_TRAP's fields. -/
structure TrapAt where
  ctl : Control
  tpc : BitVec 10
  cause : Nat
  mem : Nat
  word : Nat
deriving DecidableEq, Repr

def TrapAt.record (t : TrapAt) : BitVec 32 := BitVec.ofNat 32 (t.cause + atLo t.mem 2 + atLo t.word 4 + atLo t.tpc.toNat 16)

/-- Entering a trap (06 R166), or ending in HALTED without a vector: an error while draining (R170), an error while IN_TRAP = 1 (R169). -/
def enterTrap (old : Slice) (draining : Bool) (t : TrapAt) (s : Slice) : Slice :=
  let vec := if t.cause = 1 then old.ivec else old.dvec
  if draining then
    { s.setCtl { t.ctl with pc := t.tpc, run := .draining } with trap := t.record }
  else if old.inTrap then s.setCtl { t.ctl with pc := t.tpc, run := .draining, cause := 5, inTrap := true }
  else { s.setCtl { t.ctl with pc := vec, inTrap := true, run := .running } with trap := t.record }

/-- SL_CORR counts the corrected reads of a cycle (04 R114). -/
def Slice.countCorr (s : Slice) (x y i : Bool) : Slice :=
  { s with corrX := if x then satInc s.corrX else s.corrX, corrY := if y then satInc s.corrY else s.corrY,
           corrI := if i then satInc s.corrI else s.corrI }

/-- The flights after a cycle in which nothing is cancelled. -/
structure Stages where
  d : Option Flight
  ag : Option Flight
  mr : Option Flight
  m1 : Option Flight
  m2 : Option Flight
  wb : Option Flight
deriving DecidableEq, Repr

def Slice.setStages (s : Slice) (g : Stages) : Slice :=
  { s with stD := g.d, stAG := g.ag, stMR := g.mr, stM1 := g.m1, stM2 := g.m2, stWB := g.wb }

/-- A DRAINING slice whose last instruction has completed is HALTED; a held start then begins (04 R125, R126). -/
def Slice.settle (s : Slice) : Slice :=
  if s.run = .draining ∧ s.stD = none ∧ s.stAG = none ∧ s.stMR = none ∧ s.stM1 = none ∧ s.stM2 = none ∧ s.stWB = none then
    (if s.pendingStart then { s with run := .running, pendingStart := false, haltReq := false }
     else { s with run := .halted, haltReq := false })
  else s

/-- One SCLK cycle of a slice that is not HALTED, and the uncorrectable reads in it. DESIGN CHOICE: a LOOP that three open levels stop, reached
    while a halt request already drains the slice, keeps cause 2 and opens nothing (145); a transfer fetched in the D cycle of a LOOP that
    halts reaches PC, and CALL its stack, without a delay slot (146); in a WAITQ hold and a drain the older instructions go on, as R121 and
    R125 have it, where R161 says the whole pipeline freezes (147). -/
def sliceCycle (i : CycleIn) (old : Slice) : Slice × List SlUe :=
  let d := dStage old
  let fetching := old.fetches
  let landed := match old.stWB with
    | some f => f.wbs
    | none => []
  let badX := old.readsX && i.x.bad
  let badY := old.readsY && i.y.bad
  let badF := fetching && i.fetch.bad
  -- stages WB and M2: instructions there are never cancelled
  let s := old.land i.blank landed
  let m2 := old.stM2.map fun f => m2Stage old f i.casin s
  let s := (m2.map (·.1)).getD s
  let s := s.countCorr (old.readsX && i.x.single) (old.readsY && i.y.single) (fetching && i.fetch.single)
  let s := { s with cycles := s.cycles + 1, cyc := s.cyc + 1 }
  let toWb := m2.map (·.2)
  let toM2 := old.stM1.map (m1Stage old)
  let fetchUe (reader tpc : Nat) : List SlUe :=
    if badF then [{ mem := 2, word := old.pc.toNat, reader := reader, tpc := tpc }] else []
  match old.stMR, badX || badY with
  | some f, true =>
    -- data trap: the instruction in MR and everything younger is cancelled, and the control instruction it is the delay slot of
    let o := if f.slot then old.stM1.getD f else f
    let t : TrapAt := { ctl := { o.before with cause := old.cause }, tpc := o.addr, cause := 2, mem := if badX then 0 else 1,
                        word := if badX then f.xa.toNat else f.ya.toNat }
    let p := f.ptrs.land landed
    let s := { enterTrap old (old.run == .draining) t s with xp := p.xp, yp := p.yp }
    let s := s.setStages { d := none, ag := none, mr := none, m1 := none, m2 := if f.slot then none else toM2, wb := toWb }
    (s.settle,
     (if badX then [{ mem := 0, word := f.xa.toNat, reader := 0, tpc := o.addr.toNat }] else []) ++
     (if badY then [{ mem := 1, word := f.ya.toNat, reader := 0, tpc := o.addr.toNat }] else []) ++ fetchUe 3 o.addr.toNat)
  | _, _ =>
    let mr := old.stMR.map fun f => mrStage old f i s
    let s := (mr.map (·.1)).getD s
    let ag := old.stAG.map fun f => agStage old f landed s
    let s := (ag.map (·.1)).getD s
    let toM1 := mr.map fun e => e.2
    let toMr := ag.map fun e => e.2
    if badF ∧ ¬ d.skip then
      -- instruction trap: the failing fetch is cancelled, with the control instruction it would be the delay slot of
      let c := if d.slotCtl then (old.stD.map (·.before)).getD d.ctl else d.ctl
      let tpc := if d.slotCtl then (old.stD.map (·.addr)).getD old.pc else old.pc
      let t : TrapAt := { ctl := c, tpc := tpc, cause := 1, mem := 2, word := old.pc.toNat }
      let s := enterTrap old (c.run == .draining) t s
      let s := s.setStages { d := none, ag := if d.slotCtl then none else old.stD, mr := toMr, m1 := toM1, m2 := toM2, wb := toWb }
      (s.settle, fetchUe 0 tpc.toNat)
    else if d.hold then
      if old.run = .draining then
        -- the halt abandons a WAITQ: it is fetched again on the next start (04 R125)
        let c := (old.stD.map (·.before)).getD old.ctl
        let s := s.setCtl { c with run := .draining, cause := old.cause }
        ((s.setStages { d := none, ag := none, mr := toMr, m1 := toM1, m2 := toM2, wb := toWb }).settle, [])
      else
        let s := s.setCtl d.ctl
        (s.setStages { d := old.stD, ag := none, mr := toMr, m1 := toM1, m2 := toM2, wb := toWb }, [])
    else if ¬ fetching ∨ d.skip then
      -- no fetch: a slice that drains keeps its cause, and a transfer still reaches PC
      let c := { d.ctl with pc := d.target.getD d.ctl.pc }
      let s := s.setCtl (if old.run = .draining then { c with run := .draining, cause := old.cause } else c)
      ((s.setStages { d := none, ag := old.stD, mr := toMr, m1 := toM1, m2 := toM2, wb := toWb }).settle, fetchUe 3 old.pc.toNat)
    else
      -- the fetch: a taken transfer is fetched next, otherwise the loop levels decide (04 R118, R119, 06 R167)
      let w := i.fetch.data
      let slot := d.slotCtl
      let f : Flight := { addr := old.pc, word := w, nop := !wordValid w || (slot && isControl w), slot := slot,
                          before := { d.ctl with pc := old.pc } }
      let next : Control := match d.target with
        | some t => { d.ctl with pc := t }
        | none =>
          if d.ctl.inTrap then { d.ctl with pc := old.pc + 1 }
          else
            let r := loopNext old.pc.toNat (openLevels d.ctl.loops) d.ctl.loops
            { d.ctl with loops := r.1, pc := BitVec.ofNat 10 r.2 }
      let s := s.setCtl next
      (s.setStages { d := some f, ag := old.stD, mr := toMr, m1 := toM1, m2 := toM2, wb := toWb }, [])

end Sys2Proof.Machine
end

