-- ==== Sys2Proof/Machine/Slice.lean ====
section
/-! DEFINITION. Slices in the package: the rows that are SCLK cycles, start and halt, streams, slice and group registers and the memory
window (04 R114, R120 to R131, 05, 06 R163 to R171). -/

namespace Sys2Proof.Machine

/-! ### Words and cycles -/

/-- The word of a slice memory that no table lists: zero after a load, undefined contents before one (04 R115). -/
def State.slBlank (s : State) (d i : Nat) : MemWord :=
  if (s.group d (i / 16)).loaded then MemWord.reset else { data := 0, health := .mark }

/-- The same for instruction memory: HALT after a load (12 R330). -/
def State.imBlank (s : State) (d i : Nat) : MemWord :=
  if (s.group d (i / 16)).loaded then { data := 0xF800000000, health := .good } else { data := 0, health := .mark }

/-- A word as it is read, with the disturbance the read finds; of undefined contents the bits and the check are the free value `k` places on.
    A decoder that returns another word fails the check as an address does (04 R114); the array keeps what it holds. -/
def State.readSl (s : State) (blank : MemWord) (t : Tab MemWord) (a : Nat) (u : Sys2Proof.Upset) (k : Nat) : Reading × MemWord :=
  let w := tget blank t a
  match u with
  | .other a' =>
    let x := tget blank t a'
    ({ data := x.data, single := x.health == .single && !addrFails a a', bad := x.health.bad || addrFails a a' }, w)
  | _ =>
    let h := w.health.hit u
    if h = .mark then
      let v := s.freeValAt k
      ({ data := v.truncate 40, single := v.getLsbD 41 && !v.getLsbD 40, bad := v.getLsbD 40 }, w)
    else ({ data := w.data, single := h == .single, bad := h.bad }, { w with health := h })

/-- SLICE_UE (19 Table 19.3, Table 19.4). -/
def State.raiseSliceUe (s : State) (d i mem word reader tpc : Nat) (scrub : Bool) : State :=
  s.raiseEvent d (evidOf d 6 0) (i + atLo mem 11)
    (some ((mkEntry 0x06 2 (evidOf d 6 0) (d + atLo i 4 + atLo mem 15 + atLo reader 17) (word + atLo tpc 32)).byScrub scrub))

/-- The slices of a group. -/
def groupSlices (g : Nat) : List Nat := (List.range 16).map fun j => 16 * g + j

/-- Ladder steps a frozen group: its SCLK cycles have not all passed yet (20 R517). -/
def State.slgStepping (s : State) (d g : Nat) : Bool := match s.lad.slgStep with
  | some (d1, g1, t) => d1 == d && g1 == g && decide (s.now < t)
  | none => false

/-- SCLK edges reach the group: the die's SCLK runs, the group is not frozen, its bay is not asleep (04 R105; 20 R517; 18 R469). -/
def State.grpClocked (s : State) (d g : Nat) : Bool :=
  decide (d < s.fdies) && decide (g < 128) && s.sclkRuns d && (!(s.group d g).frozen || s.slgStepping d g) && !s.dieDeep d &&
  (decide (96 ≤ g) || !s.bayAsleep d g)

/-- A halt request stands at an instruction boundary that takes it: not between a control instruction and its delay slot (04 R125). -/
def Slice.mustHalt (m : Slice) : Bool := m.haltReq && (m.run == .waiting || (m.run == .running && !(dStage m).slotCtl))

/-- An access has waited for a port that the slice used in every one of 32 cycles: the next cycle is stolen (04 R128). -/
def WinAcc.due (e : WinAcc) (m : Slice) : Bool := decide (e.since + 32 ≤ m.cyc)
def State.mustSteal (s : State) (d i : Nat) : Bool := (s.die d).winWait.any fun e => e.slice == i && e.due (s.slice d i)

/-- SCLK reaches an active slice, and no active slice of its group lags behind it: the slices of a group go through a cycle together (04 R129). -/
def State.slTurn (s : State) (d i : Nat) : Bool :=
  decide (i < 2048) && s.grpClocked d (i / 16) && (s.slice d i).run != .halted &&
  (groupSlices (i / 16)).all fun j => (s.slice d j).run == .halted || decide ((s.slice d i).cyc ≤ (s.slice d j).cyc)

/-- This slice is the next of its group to go through its cycle, with no halt to take and no cycle to give up first. -/
def State.slReady (s : State) (d i : Nat) : Bool := s.slTurn d i && !(s.slice d i).mustHalt && !s.mustSteal d i

/-- CASIN of a slice: its neighbour's CASOUT at the end of the previous SCLK cycle (04 R122). -/
def State.casin (s : State) (d i : Nat) : BitVec 56 :=
  if i % 16 = 0 then 0
  else
    let n := s.slice d (i - 1)
    if n.casAt = (s.slice d i).cyc + 1 then n.casPrev else n.casout

/-- One word of X or Y memory, or of instruction memory, through the window: the value and whether it is uncorrectable. -/
def slWinRead (s : State) (d i mem a : Nat) (u : Sys2Proof.Upset) : State × Nat × Bool :=
  let m := s.slice d i
  let blank := if mem = 2 then s.imBlank d i else s.slBlank d i
  let t := if mem = 0 then m.xmem else if mem = 1 then m.ymem else m.imem
  let r := s.readSl blank t a u 0
  let s1 := s.modSlice d i fun m =>
    (if mem = 0 then { m with xmem := tput blank m.xmem a r.2 }
     else if mem = 1 then { m with ymem := tput blank m.ymem a r.2 }
     else { m with imem := tput blank m.imem a r.2 }).countCorr (mem == 0 && r.1.single) (mem == 1 && r.1.single) (mem == 2 && r.1.single)
  let bits := if mem = 2 then 40 else 24
  let val := if r.1.bad then s.freeVal.toNat % 2 ^ bits else r.1.data.toNat % 2 ^ bits
  let s2 := s1.drew (if blank.health = .mark ∨ r.1.bad then 1 else 0)
  (if r.1.bad then s2.raiseSliceUe d i mem a 1 0 false else s2, val, r.1.bad)

def slWinWrite (s : State) (d i mem a v : Nat) : State :=
  let blank := if mem = 2 then s.imBlank d i else s.slBlank d i
  s.modSlice d i fun m =>
    if mem = 0 then { m with xmem := tput blank m.xmem a { data := BitVec.ofNat 40 (v % 2 ^ 24) } }
    else if mem = 1 then { m with ymem := tput blank m.ymem a { data := BitVec.ofNat 40 (v % 2 ^ 24) } }
    else { m with imem := tput blank m.imem a { data := BitVec.ofNat 40 v } }

/-- The slice uses the port an access needs in this cycle: a read port in MR, a write port in WB (04 R115, R128). -/
def Slice.usesPort (m : Slice) (y write : Bool) : Bool :=
  if write then (match m.stWB with
    | some f => f.wbs.any fun w => w.reg == if y then 0x41 else 0x40
    | none => false)
  else if y then m.readsY else m.readsX

/-- A waiting access is served: the word or words, then its answer (04 R128, R131). -/
def State.serveWin (s : State) (d : Nat) (e : WinAcc) : State :=
  let mem := bnat e.y
  let done (s : State) (resp : BitVec 3) (v : Nat) : State := match e.who with
    | some (r, p, k) => s.respond d r p k resp (if e.write then [] else leBytes (if e.eight then 8 else 4) v)
    | none => s.answer resp (BitVec.ofNat 64 v)
  if e.write then
    let s1 := slWinWrite s d e.slice mem e.addr (e.val % 2 ^ 32)
    done (if e.eight then slWinWrite s1 d e.slice mem (e.addr + 1) (e.val / 2 ^ 32) else s1) respOk 0
  else
    let a := slWinRead s d e.slice mem e.addr .none
    if e.eight then
      let b := slWinRead a.1 d e.slice mem (e.addr + 1) .none
      done b.1 (if a.2.2 || b.2.2 then respPoison else respOk) (a.2.1 + 2 ^ 32 * b.2.1)
    else done a.1 (if a.2.2 then respPoison else respOk) a.2.1

/-- The waiting accesses that satisfy a condition are served, in the order they arrived. -/
def State.serveWins (s : State) (d : Nat) (which : WinAcc → Bool) : State :=
  let es := (s.die d).winWait
  (es.filter which).foldl (fun (s : State) e => s.serveWin d e) (s.modDie d fun x => { x with winWait := es.filter fun e => !which e })

/-- Entries of an output queue that a cycle has added, presented after their crossing to the stream clock (04 R120). -/
def stampOut (old new : List StreamWord) (cnt lag now : Nat) : List StreamWord :=
  new.zipIdx.map fun e => if old.length ≤ e.2 then { e.1 with seenAt := cnt + lag, lag := lag, putAt := now } else e.1

/-- Edges an FCLK net has given. -/
def State.fclkEdges (s : State) (d n : Nat) : Nat := tget 0 (s.die d).fclkCnt n

/-- One SCLK cycle of slice i: the accesses its ports leave room for, reads first and writes last, the words it reads, the cycle, and SLICE_UE
    for each uncorrectable one. A word it hands to an output stream crosses in two or three edges of the stream clock: which is free. -/
def slCycle (s : State) (d i : Nat) (u : SliceUpset) : State :=
  let before := s.slice d i
  let s := s.serveWins d fun e => e.slice == i && !e.write && !before.usesPort e.y false
  let sl := s.slice d i
  let blank := s.slBlank d i
  let ib := s.imBlank d i
  let rf := s.readSl ib sl.imem sl.pc.toNat u.instr 0
  let xa := ((sl.stMR.map Flight.xa).getD 0).toNat
  let ya := ((sl.stMR.map Flight.ya).getD 0).toNat
  let rx := s.readSl blank sl.xmem xa u.x 1
  let ry := s.readSl blank sl.ymem ya u.y 2
  let seen : Slice :=
    { sl with
      imem := if sl.fetches then tput ib sl.imem sl.pc.toNat rf.2 else sl.imem
      xmem := if sl.readsX then tput blank sl.xmem xa rx.2 else sl.xmem
      ymem := if sl.readsY then tput blank sl.ymem ya ry.2 else sl.ymem }
  let r := sliceCycle { fetch := rf.1, x := rx.1, y := ry.1, casin := s.casin d i, blank := blank } seen
  let cnt := s.fclkEdges d (s.group d (i / 16)).streamClk.toNat
  let lag := 2 + bnat ((s.freeValAt 3).getLsbD 0)
  let out : Slice := { r.1 with os0 := stampOut sl.os0 r.1.os0 cnt lag s.now, os1 := stampOut sl.os1 r.1.os1 cnt lag s.now }
  let pushed := decide (sl.os0.length < out.os0.length) || decide (sl.os1.length < out.os1.length)
  let s := (s.modSlice d i fun _ => out).drew (if blank.health = .mark ∨ pushed then 4 else 0)
  let s := r.2.foldl (fun s e => s.raiseSliceUe d i e.mem e.word e.reader e.tpc false) s
  s.serveWins d fun e => e.slice == i && (out.run == .halted || (e.write && !before.usesPort e.y true))

/-- The instruction word at PC, as the fetch of this cycle reads it. -/
def State.slWord (s : State) (d i : Nat) : BitVec 40 :=
  let sl := s.slice d i
  (s.readSl (s.imBlank d i) sl.imem sl.pc.toNat .none 0).1.data

/-- A cycle of a RUNNING slice whose word at PC is of the row. -/
def opRow (p : BitVec 40 → Bool) (d i : Nat) (u : SliceUpset) (s : State) : Out :=
  .next (if s.slReady d i ∧ (s.slice d i).run = .running ∧ p (s.slWord d i) then slCycle s d i u else s)

/-- A valid word of one opcode, or of a range of opcodes. -/
def isOpc (lo hi : Nat) (w : BitVec 40) : Bool := wordValid w && decide (lo ≤ iOpc w) && decide (iOpc w ≤ hi)

def execMove (die sl : Nat) (u : SliceUpset) (s : State) : Out := opRow (isOpc 0x00 0x00) die sl u s
def execMoveRegReg (die sl : Nat) (u : SliceUpset) (s : State) : Out := opRow (isOpc 0x01 0x01) die sl u s
def execMoveImm (die sl : Nat) (u : SliceUpset) (s : State) : Out := opRow (isOpc 0x02 0x03) die sl u s
def execClr (die sl : Nat) (u : SliceUpset) (s : State) : Out := opRow (isOpc 0x04 0x04) die sl u s
def execMpy (die sl : Nat) (u : SliceUpset) (s : State) : Out := opRow (isOpc 0x10 0x10) die sl u s
def execMac (die sl : Nat) (u : SliceUpset) (s : State) : Out := opRow (isOpc 0x11 0x11) die sl u s
def execMsu (die sl : Nat) (u : SliceUpset) (s : State) : Out := opRow (isOpc 0x12 0x12) die sl u s
def execMacr (die sl : Nat) (u : SliceUpset) (s : State) : Out := opRow (isOpc 0x13 0x13) die sl u s
def execDmacS (die sl : Nat) (u : SliceUpset) (s : State) : Out := opRow (isOpc 0x18 0x18) die sl u s
def execDmacP (die sl : Nat) (u : SliceUpset) (s : State) : Out := opRow (isOpc 0x19 0x19) die sl u s
def execDmacA (die sl : Nat) (u : SliceUpset) (s : State) : Out := opRow (isOpc 0x1A 0x1A) die sl u s
def execDmacD (die sl : Nat) (u : SliceUpset) (s : State) : Out := opRow (isOpc 0x1B 0x1B) die sl u s
def execAdd (die sl : Nat) (u : SliceUpset) (s : State) : Out := opRow (isOpc 0x20 0x20) die sl u s
def execSub (die sl : Nat) (u : SliceUpset) (s : State) : Out := opRow (isOpc 0x21 0x21) die sl u s
def execAbs (die sl : Nat) (u : SliceUpset) (s : State) : Out := opRow (isOpc 0x22 0x22) die sl u s
def execNeg (die sl : Nat) (u : SliceUpset) (s : State) : Out := opRow (isOpc 0x23 0x23) die sl u s
def execRnd (die sl : Nat) (u : SliceUpset) (s : State) : Out := opRow (isOpc 0x24 0x24) die sl u s
def execSat (die sl : Nat) (u : SliceUpset) (s : State) : Out := opRow (isOpc 0x25 0x25) die sl u s
def execShl (die sl : Nat) (u : SliceUpset) (s : State) : Out := opRow (isOpc 0x30 0x3F) die sl u s
def execShr (die sl : Nat) (u : SliceUpset) (s : State) : Out := opRow (isOpc 0x40 0x4F) die sl u s
def execMax (die sl : Nat) (u : SliceUpset) (s : State) : Out := opRow (isOpc 0x50 0x50) die sl u s
def execMin (die sl : Nat) (u : SliceUpset) (s : State) : Out := opRow (isOpc 0x51 0x51) die sl u s
def execMaxi (die sl : Nat) (u : SliceUpset) (s : State) : Out := opRow (isOpc 0x52 0x52) die sl u s
def execMini (die sl : Nat) (u : SliceUpset) (s : State) : Out := opRow (isOpc 0x53 0x53) die sl u s
/-- RESERVED_INSTRUCTION: a word that is no valid instruction executes as NOP (05 R133). -/
def execReservedInstruction (die sl : Nat) (u : SliceUpset) (s : State) : Out := opRow (fun w => !wordValid w) die sl u s
def execLoopCount (die sl : Nat) (u : SliceUpset) (s : State) : Out := opRow (isOpc 0xF0 0xF0) die sl u s
def execLoopReg (die sl : Nat) (u : SliceUpset) (s : State) : Out := opRow (isOpc 0xF1 0xF1) die sl u s
def execJmp (die sl : Nat) (u : SliceUpset) (s : State) : Out := opRow (isOpc 0xF2 0xF2) die sl u s
def execJcc (die sl : Nat) (u : SliceUpset) (s : State) : Out := opRow (isOpc 0xF3 0xF3) die sl u s
def execCall (die sl : Nat) (u : SliceUpset) (s : State) : Out := opRow (isOpc 0xF4 0xF4) die sl u s
def execRet (die sl : Nat) (u : SliceUpset) (s : State) : Out := opRow (isOpc 0xF5 0xF5) die sl u s
def execWaitq (die sl : Nat) (u : SliceUpset) (s : State) : Out := opRow (isOpc 0xF6 0xF6) die sl u s
def execTrapret (die sl : Nat) (u : SliceUpset) (s : State) : Out := opRow (isOpc 0xF7 0xF7) die sl u s
def execHalt (die sl : Nat) (u : SliceUpset) (s : State) : Out := opRow (isOpc 0xF8 0xF8) die sl u s

/-- The fetch address is the end address of the innermost open level (04 R118). -/
def Slice.atLoopEnd (s : Slice) : Bool :=
  let n := openLevels s.loops
  decide (0 < n) && (tget LoopLevel.reset s.loops (n - 1)).stop == s.pc && !s.inTrap

/-- LOOP_END_FETCH: the cycle that fetches an open level's end address, whatever word stands there (05 R153). -/
def execLoopEndFetch (die sl : Nat) (u : SliceUpset) (s : State) : Out :=
  .next (if s.slReady die sl ∧ (s.slice die sl).run = .running ∧ (s.slice die sl).atLoopEnd then slCycle s die sl u else s)

/-- A cycle with nothing disturbed. -/
def noUpset : SliceUpset := { instr := .none, x := .none, y := .none }

/-- WAITQ_RELEASE: a cycle of a WAITING slice; stage D evaluates the conditions again and the held fetch is made when they hold (05 R158). -/
def execWaitqRelease (die sl : Nat) (s : State) : Out :=
  .next (if s.slReady die sl ∧ (s.slice die sl).run = .waiting then slCycle s die sl noUpset else s)

/-- SLICE_INSTRUCTION_TRAP: a cycle whose fetch is uncorrectable (06 R166). -/
def execSliceInstructionTrap (die sl : Nat) (s : State) : Out :=
  .next (if s.slReady die sl ∧ (s.slice die sl).fetches then slCycle s die sl { noUpset with instr := .double } else s)

/-- SLICE_DATA_TRAP: a cycle whose X read, Y read or both are uncorrectable (06 R166). -/
def execSliceDataTrap (die sl : Nat) (x y : Bool) (s : State) : Out :=
  .next (
    let m := s.slice die sl
    if s.slReady die sl ∧ ((x ∧ m.readsX) ∨ (y ∧ m.readsY)) then
      slCycle s die sl { instr := .none, x := if x then .double else .none, y := if y then .double else .none }
    else s)

/-- The halt request is taken (04 R125): not between a control instruction and its delay slot; a WAITQ that waits is abandoned. -/
def Slice.takeHalt (m : Slice) : Slice :=
  if m.run = .waiting then
    let c := (m.stD.map Flight.before).getD m.ctl
    { m.setCtl { c with run := .draining, cause := 2 } with stD := none, haltReq := false }
  else { m with run := .draining, cause := 2, haltReq := false }

def execSliceHaltTaken (die sl : Nat) (s : State) : Out :=
  .next (
    if sl < 2048 ∧ s.grpClocked die (sl / 16) ∧ (s.slice die sl).mustHalt then s.modSlice die sl Slice.takeHalt else s)

/-- SLICE_DRAIN_END: a cycle of a DRAINING slice. With the last instruction out of WB the slice is HALTED and a held start begins (04 R125, R126). -/
def execSliceDrainEnd (die sl : Nat) (s : State) : Out :=
  .next (if s.slReady die sl ∧ (s.slice die sl).run = .draining then slCycle s die sl noUpset else s)

/-- SLICE_STOLEN_CYCLE: an access has found its port in use for 32 cycles, so the slice freezes for one, every stage holding, and the access is
    served in it (04 R128). -/
def execSliceStolenCycle (die sl : Nat) (s : State) : Out :=
  .next (
    if s.slTurn die sl ∧ ¬ (s.slice die sl).mustHalt ∧ s.mustSteal die sl then
      let m := s.slice die sl
      (s.serveWins die fun e => e.slice == sl && e.due m).modSlice die sl fun m => { m with cyc := m.cyc + 1, cycles := m.cycles + 1 }
    else s)

/-! ### Start and halt (04 R125 to R127, R129) -/

/-- The SCLK cycle a slice started now begins in: that of the slices of its group. -/
def State.groupCyc (s : State) (d g : Nat) : Nat := ((groupSlices g).map fun j => (s.slice d j).cyc).foldl max 0

/-- When an input word is seen by a slice that starts in cycle `cyc`: the SCLK edges that passed while it was HALTED count (04 R120). -/
def StreamWord.onStart (e : StreamWord) (cyc now sclk : Nat) : StreamWord :=
  { e with seenAt := min e.seenAt (cyc + (e.lag - (now - e.putAt) / sclk)) }

/-- A start request (04 R126). -/
def Slice.startReq (m : Slice) (cyc now sclk : Nat) : Slice :=
  if m.run = .halted then
    { m with run := .running, cyc := cyc, is0 := m.is0.map fun e => e.onStart cyc now sclk, is1 := m.is1.map fun e => e.onStart cyc now sclk }
  else if m.run = .draining ∨ m.haltReq then { m with pendingStart := true }
  else m

/-- A halt request (04 R125). -/
def Slice.haltRequest (m : Slice) : Slice := if m.run = .running ∨ m.run = .waiting then { m with haltReq := true } else m

/-- START and HALT bits applied to some slices of a group on one edge, halt first (04 R127, R129). -/
def State.slBits (s : State) (d g : Nat) (starts halts : List Nat) : State :=
  let c := s.groupCyc d g
  let s := halts.foldl (fun s i => s.modSlice d i Slice.haltRequest) s
  let t := s.now
  let p := s.sclkPs
  starts.foldl (fun s i => s.modSlice d i fun m => m.startReq c t p) s

/-- Held writes of a group take effect, each halt first as it was written, in the order they arrived (04 R127; 20 R517). -/
def State.slHeld (s : State) (d g : Nat) (es : List (Nat × Nat × BitVec 2)) : State :=
  es.foldl (fun (s : State) e => s.slBits d g (if e.2.2.getLsbD 0 then [e.2.1] else []) (if e.2.2.getLsbD 1 then [e.2.1] else [])) s

/-- A write of SL_CTRL, SLG_START or SLG_HALT: held while the group is frozen (20 R517). -/
def slCommand (s : State) (d g : Nat) (starts halts : List Nat) : State :=
  if (s.group d g).frozen then
    s.modLad fun l => { l with slgHeld := l.slgHeld ++ halts.map (fun i => (d, i, 2)) ++ starts.map (fun i => (d, i, 1)) }
  else s.slBits d g starts halts

/-- The slices of a group a mask names. -/
def masked (g mask : Nat) : List Nat := (groupSlices g).filter fun i => bitOf mask (i % 16)

/-! ### Slice registers (04 R130, R131, Table 4.5) -/

/-- The slice counts as HALTED for register access: HALTED and its group not frozen (04 R130; 20 R517). -/
def State.slHalted (s : State) (d i : Nat) : Bool := (s.slice d i).run == .halted && !(s.group d (i / 16)).frozen

def Slice.status (m : Slice) : Nat :=
  (match m.run with
    | .halted => 0 | .running => 1 | .waiting => 2 | .draining => 3) +
  atBit m.pendingStart 2 + atBit m.inTrap 3 + atLo m.cause.toNat 4 + atLo m.sticky.toNat 8 + atLo (openLevels m.loops) 12 + atLo m.depth 14

/-- The register at a slice offset, 32 bits. -/
def Slice.readReg (m : Slice) (off : Nat) : Nat :=
  let n := off % 0x20 / 4
  let q := off % 0x10 / 4
  if off = 0x004 then m.status
  else if off = 0x008 then m.pc.toNat
  else if off = 0x00C then m.mode.toNat
  else if off = 0x010 then m.flags.toNat
  else if off = 0x014 then m.ivec.toNat + atLo m.dvec.toNat 16
  else if off = 0x018 then m.trap.toNat
  else if off = 0x01C then m.corrX.toNat + atLo m.corrY.toNat 8 + atLo m.corrI.toNat 16
  else if off = 0x020 then m.cycles.toNat
  else if off = 0x024 then (tget 0 m.ix 0).toNat
  else if off = 0x028 then (tget 0 m.ix 1).toNat
  else if off = 0x02C then (tget 0 m.xb 0).toNat + atLo (tget 0 m.xb 1).toNat 16
  else if off = 0x030 then (tget 0 m.xb 2).toNat + atLo (tget 0 m.xb 3).toNat 16
  else if off = 0x034 then (tget 0 m.yb 0).toNat + atLo (tget 0 m.yb 1).toNat 16
  else if off = 0x038 then (tget 0 m.yb 2).toNat + atLo (tget 0 m.yb 3).toNat 16
  else if 0x040 ≤ off ∧ off < 0x060 then (m.dReg n).toNat
  else if 0x060 ≤ off ∧ off < 0x080 then (m.acc (n / 2)).toNat / 2 ^ (32 * (n % 2)) % 2 ^ 32
  else if 0x080 ≤ off ∧ off < 0x090 then (m.ptr false q).toNat
  else if 0x090 ≤ off ∧ off < 0x0A0 then (m.ptr true q).toNat
  else if 0x0A0 ≤ off ∧ off < 0x0B0 then (m.modifier false q).toNat
  else if 0x0B0 ≤ off ∧ off < 0x0C0 then (m.modifier true q).toNat
  else if 0x0C0 ≤ off ∧ off < 0x0D8 then
    let l := tget LoopLevel.reset m.loops ((off - 0x0C0) / 8)
    if off % 8 = 0 then l.start.toNat + atLo l.stop.toNat 16 + atBit l.isOpen 31 else l.count.toNat
  else if 0x0E0 ≤ off ∧ off < 0x0F0 then (tget 0 m.stack q).toNat
  else if off = 0x0F0 then m.casout.toNat % 2 ^ 32
  else if off = 0x0F4 then m.casout.toNat / 2 ^ 32
  else if off = 0x0F8 then m.depth
  else 0

/-- SL_LOOPk_ADDR written (04 R118); none where it is answered TGTERR. -/
def Slice.writeLoopAddr (m : Slice) (k v : Nat) : Option Slice :=
  let put (t : Tab LoopLevel) (o : Bool) : Tab LoopLevel :=
    tmod LoopLevel.reset t k fun l => { l with start := BitVec.ofNat 10 v, stop := BitVec.ofNat 10 (bitsOf v 16 10), isOpen := o }
  if bitOf v 31 then (if k ≤ openLevels m.loops then some { m with loops := put m.loops true } else none)
  else
    let t := put m.loops false
    some { m with loops := (if k < 1 then closeLevel (closeLevel t 1) 2 else if k < 2 then closeLevel t 2 else t) }

/-- A 32-bit write at a slice offset of 0x024 and above, the slice HALTED; none where it is answered TGTERR. -/
def Slice.writeReg (m : Slice) (off v : Nat) : Option Slice :=
  let n := off % 0x20 / 4
  let q := off % 0x10 / 4
  let lo11 := BitVec.ofNat 11 v
  let hi11 := BitVec.ofNat 11 (v / 2 ^ 16)
  if off = 0x024 then some (m.setIx 0 (BitVec.ofNat 16 v))
  else if off = 0x028 then some (m.setIx 1 (BitVec.ofNat 16 v))
  else if off = 0x02C then some { m with xb := tput 0 (tput 0 m.xb 0 lo11) 1 hi11 }
  else if off = 0x030 then some { m with xb := tput 0 (tput 0 m.xb 2 lo11) 3 hi11 }
  else if off = 0x034 then some { m with yb := tput 0 (tput 0 m.yb 0 lo11) 1 hi11 }
  else if off = 0x038 then some { m with yb := tput 0 (tput 0 m.yb 2 lo11) 3 hi11 }
  else if 0x040 ≤ off ∧ off < 0x060 then some (m.setD n (BitVec.ofNat 24 v) 0x8000)
  else if 0x060 ≤ off ∧ off < 0x080 then
    some (m.setA (n / 2) (if n % 2 = 0 then accPart (m.acc (n / 2)) 0 32 v else accPart (m.acc (n / 2)) 32 24 v))
  else if 0x080 ≤ off ∧ off < 0x090 then some (m.setPtr false q lo11)
  else if 0x090 ≤ off ∧ off < 0x0A0 then some (m.setPtr true q lo11)
  else if 0x0A0 ≤ off ∧ off < 0x0B0 then some { m with xm := tput 1 m.xm q (BitVec.ofNat 25 v) }
  else if 0x0B0 ≤ off ∧ off < 0x0C0 then some { m with ym := tput 1 m.ym q (BitVec.ofNat 25 v) }
  else if 0x0C0 ≤ off ∧ off < 0x0D8 then
    let k := (off - 0x0C0) / 8
    if off % 8 = 0 then m.writeLoopAddr k v
    else some { m with loops := tmod LoopLevel.reset m.loops k fun l => { l with count := BitVec.ofNat 16 v } }
  else if 0x0E0 ≤ off ∧ off < 0x0F0 then some { m with stack := tput 0 m.stack q (BitVec.ofNat 10 v) }
  else if off = 0x0F0 ∨ off = 0x0F4 then
    let c := if off = 0x0F0 then accPart m.casout 0 32 v else accPart m.casout 32 24 v
    some { m with casout := c, casPrev := c }
  else if off = 0x0F8 then (if v % 8 ≤ 4 then some { m with depth := v % 8 } else none)
  else some m

/-- A 32-bit write at any slice offset, none where it is answered TGTERR (04 R130). -/
def slWriteWord (s : State) (d i off v : Nat) : Option State :=
  if off = 0x000 then some (slCommand s d (i / 16) (if bitOf v 0 then [i] else []) (if bitOf v 1 then [i] else []))
  else if off = 0x004 then some (s.modSlice d i fun m => { m with sticky := m.sticky &&& ~~~(BitVec.ofNat 4 (v / 256)) })
  else if off = 0x008 then
    (if s.slHalted d i then some (s.modSlice d i fun m => { m with pc := BitVec.ofNat 10 v, inTrap := false }) else none)
  else if off = 0x00C then some (s.modSlice d i fun m => { m with mode := BitVec.ofNat 2 v })
  else if off = 0x010 then some (s.modSlice d i fun m => { m with flags := BitVec.ofNat 5 v })
  else if off = 0x014 then
    some (s.modSlice d i fun m => { m with ivec := BitVec.ofNat 10 v, dvec := BitVec.ofNat 10 (bitsOf v 16 10) })
  else if off < 0x024 then some s
  else if s.slHalted d i then ((s.slice d i).writeReg off v).map fun m => s.modSlice d i fun _ => m
  else none

/-- An access to a slice register: registers at 0x024 and above only while the slice is HALTED; SL_CORR clears on a read (04 R130). -/
def slReg (w : Who) (s : State) (d i off : Nat) (write eight : Bool) (v : Nat) : RegRes :=
  if write then
    match slWriteWord s d i off (v % 2 ^ 32) with
    | none => regErr s
    | some s1 =>
      if eight then
        match slWriteWord s1 d i (off + 4) (v / 2 ^ 32) with
        | none => regErr s
        | some s2 => regOk s2 0
      else regOk s1 0
  else if 0x024 ≤ (if eight then off + 4 else off) ∧ s.slHalted d i = false then regErr s
  else
    let r := words (s.slice d i).readReg off eight
    let clears := readActs w && (off == 0x01C || (eight && off == 0x018))
    regOk (if clears then s.modSlice d i fun m => { m with corrX := 0, corrY := 0, corrI := 0 } else s) r

/-! ### The memory window (04 R131, 06 R163, R164) -/

/-- The group's bay is LOADING: its window, SLG_START and slice registers are answered TGTERR (13 R352). -/
def State.slgLoading (s : State) (d g : Nat) : Bool := decide (g < 96) && (s.bay d g).state == .loading

/-- An access of the window to X or Y memory has to wait: the slice uses the port in this cycle, or an earlier access waits for it (04 R128). -/
def State.winHeld (s : State) (d g : Nat) (write : Bool) : Bool :=
  let gr := s.group d g
  let i := 16 * g + gr.winSlice.toNat
  let m := s.slice d i
  gr.winMem.toNat < 2 && s.grpClocked d g && m.run != .halted && !s.slgLoading d g &&
  (m.usesPort (gr.winMem == 1) write || (s.die d).winWait.any fun e => e.slice == i && e.y == (gr.winMem == 1) && e.write == write)

/-- It waits. -/
def State.holdWin (s : State) (d g off : Nat) (write eight : Bool) (v : Nat) (who : Option (Nat × Nat × Pkt)) : State :=
  let gr := s.group d g
  let i := 16 * g + gr.winSlice.toNat
  s.modDie d fun x => { x with winWait := x.winWait ++ [{ slice := i, y := gr.winMem == 1, addr := off / 4, write := write, eight := eight, val := v,
                                                          since := (s.slice d i).cyc, who := who }] }

/-- An access to the window of group g. -/
def slWindow (s : State) (d g off : Nat) (write eight : Bool) (v : Nat) (u : Sys2Proof.Upset) : RegRes :=
  let gr := s.group d g
  let i := 16 * g + gr.winSlice.toNat
  let mem := gr.winMem.toNat
  if mem = 2 then
    if ¬ eight ∨ s.slHalted d i = false then regErr s
    else if write then regOk (slWinWrite s d i 2 (off / 8) (v % 2 ^ 40)) 0
    else
      let r := slWinRead s d i 2 (off / 8) u
      (r.1, if r.2.2 then respPoison else respOk, BitVec.ofNat 64 r.2.1)
  else if write then
    let s1 := slWinWrite s d i mem (off / 4) (v % 2 ^ 32)
    regOk (if eight then slWinWrite s1 d i mem (off / 4 + 1) (v / 2 ^ 32) else s1) 0
  else
    let r := slWinRead s d i mem (off / 4) u
    if eight then
      let r2 := slWinRead r.1 d i mem (off / 4 + 1) .none
      (r2.1, if r.2.2 || r2.2.2 then respPoison else respOk, BitVec.ofNat 64 (r.2.1 + 2 ^ 32 * r2.2.1))
    else (r.1, if r.2.2 then respPoison else respOk, BitVec.ofNat 64 r.2.1)

/-! ### Group registers (04 Table 4.6) -/

def State.slgRead (s : State) (d g off : Nat) : Nat :=
  let gr := s.group d g
  if off = 0x0008 then
    ((groupSlices g).map fun i => atBit ((s.slice d i).run != .halted) (i % 16)).foldl (· + ·) 0
  else if off = 0x000C then gr.winSlice.toNat + atLo gr.winMem.toNat 4
  else if off = 0x0010 then gr.streamClk.toNat + atLo gr.autostart.toNat 16
  else 0

def slgWriteWord (d g : Nat) (s : State) (off v : Nat) : State :=
  if off = 0x0000 then slCommand s d g (masked g v) []
  else if off = 0x0004 then slCommand s d g [] (masked g v)
  else if off = 0x000C then
    (if bitsOf v 4 2 = 3 then s else s.modGroup d g fun x => { x with winSlice := BitVec.ofNat 4 v, winMem := BitVec.ofNat 2 (v / 16) })
  else s

/-- An access within the slice sub-block of a die (04 R131). -/
def sliceReg (w : Who) (s : State) (d off : Nat) (write eight : Bool) (v : Nat) (u : Sys2Proof.Upset) : RegRes :=
  let g := off / 0x4000
  let o := off % 0x4000
  if 0x2000 ≤ o then (if s.slgLoading d g then regErr s else slWindow s d g (o - 0x2000) write eight v u)
  else if 0x1000 ≤ o then
    (if s.slgLoading d g then regErr s else slReg w s d (16 * g + (o - 0x1000) / 0x100) (o % 0x100) write eight v)
  else if o = 0x0000 ∧ write ∧ s.slgLoading d g then regErr s
  else if write then regOk (putWords (slgWriteWord d g) s o eight v) 0
  else regOk s (words (s.slgRead d g) o eight)

/-! ### Direct accesses -/

def sliceDirect (w : Who) (d off : Nat) (write eight : Bool) (v : Nat) (u : Sys2Proof.Upset) (s : State) : Out :=
  .next (s.access w (dieBase d + 0x200000 + off) write fun s => sliceReg w s d off write eight v u)

/-- Offset of a register of slice i in its sub-block. -/
def slOff (i off : Nat) : Nat := i / 16 * 0x4000 + 0x1000 + i % 16 * 0x100 + off

def execSlStart (w : Who) (die sl : Nat) (halt : Bool) (s : State) : Out :=
  sliceDirect w die (slOff sl 0x000) true false (1 + atBit halt 1) .none s
def execSlHalt (w : Who) (die sl : Nat) (s : State) : Out := sliceDirect w die (slOff sl 0x000) true false 2 .none s
def execSlgStart (w : Who) (die g : Nat) (mask : BitVec 16) (s : State) : Out :=
  sliceDirect w die (g * 0x4000) true false mask.toNat .none s
def execSlgHalt (w : Who) (die g : Nat) (mask : BitVec 16) (s : State) : Out :=
  sliceDirect w die (g * 0x4000 + 4) true false mask.toNat .none s
def execSlPcWrite (w : Who) (die sl : Nat) (data : BitVec 32) (s : State) : Out :=
  sliceDirect w die (slOff sl 0x008) true false data.toNat .none s
def execSlLoopAddrWrite (w : Who) (die sl k : Nat) (data : BitVec 32) (s : State) : Out :=
  sliceDirect w die (slOff sl (0x0C0 + 8 * (k % 3))) true false data.toNat .none s
def execSlStackDepthWrite (w : Who) (die sl : Nat) (data : BitVec 32) (s : State) : Out :=
  sliceDirect w die (slOff sl 0x0F8) true false data.toNat .none s
def execSlCorrRead (w : Who) (die sl : Nat) (s : State) : Out := sliceDirect w die (slOff sl 0x01C) false false 0 .none s
/-- A window access whose port is in use waits, its answer with it. -/
def winDirect (w : Who) (d g off : Nat) (write eight : Bool) (v : Nat) (u : Sys2Proof.Upset) (s : State) : Out :=
  if s.winHeld d g write ∧ s.reaches w (dieBase d + 0x200000 + g * 0x4000 + 0x2000 + off % 0x2000) write then
    .next (s.holdWin d g (off % 0x2000) write eight v none)
  else sliceDirect w d (g * 0x4000 + 0x2000 + off % 0x2000) write eight v u s
def execSliceWindowWrite (w : Who) (die g off : Nat) (eight : Bool) (data : BitVec 64) (s : State) : Out :=
  winDirect w die g off true eight data.toNat .none s
def execSliceWindowRead (w : Who) (die g off : Nat) (eight : Bool) (u : Upset) (s : State) : Out :=
  winDirect w die g off false eight 0 u s

/-! ### Streams, the fabric side (04 R120) -/

/-- The group's stream clock gives an edge and the fabric side is not held. -/
def State.streamEdge (s : State) (d i : Nat) : Bool :=
  let g := i / 16
  let n := (s.group d g).streamClk.toNat
  decide (d < s.fdies) && decide (i < 2048) && s.fclkRuns d n && !(s.group d g).frozen && !s.dieDeep d &&
  (decide (96 ≤ g) || (s.bayNet d g n && !s.bayAsleep d g))

/-- A word handed to an input queue with space; it is seen by the slice at the second SCLK edge, or the third (04 R120): at the same one by
    every slice of the group that takes a word on that edge of the stream clock (06 R173). -/
def execSliceStreamIn (die sl : Nat) (i : Bool) (data : BitVec 24) (late : Bool) (s : State) : Out :=
  .next (
    let m := s.slice die sl
    let g := sl / 16
    if s.streamEdge die sl ∧ (if i then m.is1 else m.is0).length < 4 then
      let lag := match (s.group die g).inEdge with
        | some (t, l) => if t = s.now then l else if late then 3 else 2
        | none => if late then 3 else 2
      let e : StreamWord := { data := data, seenAt := s.groupCyc die g + lag, lag := lag, putAt := s.now }
      (s.modGroup die g fun x => { x with inEdge := some (s.now, lag) }).modSlice die sl fun m =>
        if i then { m with is1 := m.is1 ++ [e] } else { m with is0 := m.is0 ++ [e] }
    else s)

/-- The fabric pops the oldest entry of an output queue once OSn_VALID presents it (04 R120); a die whose SCLK has stopped shows no valid entry
    (18 R464). -/
def execSliceStreamOutPop (die sl : Nat) (i : Bool) (s : State) : Out :=
  .next (
    let m := s.slice die sl
    let valid : Bool := match (if i then m.os1 else m.os0).head? with
      | some e => decide (e.seenAt ≤ s.fclkEdges die (s.group die (sl / 16)).streamClk.toNat)
      | none => false
    if s.streamEdge die sl ∧ s.sclkRuns die ∧ valid then
      s.modSlice die sl fun m => if i then { m with os1 := m.os1.drop 1 } else { m with os0 := m.os0.drop 1 }
    else s)

/-! ### Reset values of a slice (04 R129) -/

/-- The registers at the reset values of Table 4.5 with the image's, the memories and the stream queues kept. -/
def Slice.atReset (m : Slice) (img : BitVec 10 × BitVec 2 × BitVec 10 × BitVec 10) : Slice :=
  { Slice.reset with pc := img.1, mode := img.2.1, ivec := img.2.2.1, dvec := img.2.2.2, cyc := m.cyc,
                     xmem := m.xmem, ymem := m.ymem, imem := m.imem, is0 := m.is0, is1 := m.is1, os0 := m.os0, os1 := m.os1 }

/-- The slices of a group at their reset values under an image; accesses that waited find their ports free (04 R129). -/
def State.groupRegs (s : State) (d g : Nat) (image : BitVec 64) : State :=
  let s := (groupSlices g).foldl (fun s i => s.modSlice d i fun m => m.atReset (Config.imageSlice image d i)) s
  s.serveWins d fun e => e.slice / 16 == g

/-- The same, and its AUTOSTART slices started on one edge (04 R129). -/
def State.resetGroup (s : State) (d g : Nat) (image : BitVec 64) : State :=
  (s.groupRegs d g image).slBits d g (masked g (s.group d g).autostart.toNat) []

end Sys2Proof.Machine
end

