-- ==== Sys2Proof/Machine/Fabric.lean ====
section
/-! DEFINITION. The programmable fabric of an F-die: logic cells, carry chains, wide multiplexers, control sets, border slots, user I/O cells
and the edges of the FCLK nets (02 R47 to R53, R56, R58, R62 to R70). What an image sets in each comes from Config; how the frames carry
it is Balten's. -/

namespace Sys2Proof.Machine

/-! ### Layout (02 R49, R51, R52) -/

/-- Cluster and place of a cell; column and row of a cluster, counted from the west and the south: 288 columns by 256 rows. -/
def cellCluster (c : Nat) : Nat := c / 16
def clusterCol (k : Nat) : Nat := k / 256
def clusterRow (k : Nat) : Nat := k % 256

/-- The bay a cluster lies in, none in a static strip: 20 columns of a bay, then the 4 of the strip east of it; 32 rows to a bay
    (02 R52; 01 R27). -/
def bayOfCluster (k : Nat) : Option Nat :=
  if clusterCol k % 24 < 20 then some (clusterRow k / 32 * 12 + clusterCol k / 24) else none

/-- The clusters of a bay, and of the 12 static strips. -/
def bayClusters (b : Nat) : List Nat :=
  (List.range 20).flatMap fun c => (List.range 32).map fun r => (24 * (b % 12) + c) * 256 + 32 * (b / 12) + r
def stripClusters : List Nat :=
  (List.range 12).flatMap fun j => (List.range 4).flatMap fun c => (List.range 256).map fun r => (24 * j + 20 + c) * 256 + r

def regionClusters : Option Nat → List Nat
  | some b => bayClusters b
  | none => stripClusters
def regionCells (b : Option Nat) : List Nat := (regionClusters b).flatMap fun k => (List.range 16).map fun i => 16 * k + i

/-- A cluster is the southernmost of its region: a chain neither enters it from another bay nor from beyond the die (02 R49). -/
def southmost (k : Nat) : Bool := match bayOfCluster k with
  | some _ => clusterRow k % 32 == 0
  | none => clusterRow k == 0

/-- The image that a region holds: a bay's own, or the full image. -/
def State.regionImage (s : State) (d : Nat) : Option Nat → BitVec 64
  | some b => if (s.bay d b).ident = 0 then s.cfg.bundle else (s.bay d b).ident
  | none => s.cfg.bundle
def State.cellImage (s : State) (d c : Nat) : BitVec 64 := s.regionImage d (bayOfCluster (cellCluster c))
def State.cell (s : State) (d c : Nat) : CellCfg := Config.imageCell (s.cellImage d c) d c
/-- The control set of a cell: one for cells 0 to 7 of its cluster, one for cells 8 to 15 (02 R51). -/
def State.ctlOf (s : State) (d c : Nat) : CtlSet := Config.imageCtl (s.cellImage d c) d (c / 8)

/-! ### Flip-flops (02 R47, R51, R58) -/

/-- A flip-flop's number on its die, and what it holds after a load of INIT. -/
def ffKey (c : Nat) (b : Bool) : Nat := 2 * c + bnat b
def cellInit (x : CellCfg) (b : Bool) : Bool := if b then x.initB else x.initA
def cellRst (x : CellCfg) (b : Bool) : Bool := if b then x.rstB else x.rstA

/-- Flip-flops are released: between the start of P1 and the end of P2 their clock enables are held and set/reset is ignored, and outside of
    P3 and the running phase no image runs (02 R58). -/
def State.ffsRun (s : State) : Bool := s.cfg.phase == .p3 || s.cfg.phase == .running

/-- The flip-flops of the region a cell lies in. -/
def State.regionFfs (s : State) (d : Nat) : Option Nat → FlipFlops
  | some b => (s.bay d b).ffs
  | none => (s.die d).stFfs

/-- What a flip-flop holds. -/
def State.ffHeld (s : State) (d c : Nat) (b : Bool) : Bool :=
  match s.regionFfs d (bayOfCluster (cellCluster c)) with
  | .undef seed => Config.undefLevel seed d (ffKey c b)
  | .held t => tget (cellInit (s.cell d c) b) t (ffKey c b)

/-- INIT into every flip-flop of a region. -/
def State.loadInit (s : State) (d : Nat) (o : Option Nat) : State := match o with
  | some b => s.modBay d b fun x => { x with ffs := .held [] }
  | none => s.modDie d fun x => { x with stFfs := .held [] }

/-- INIT into every flip-flop of a die (02 R58, R61). -/
def State.loadInitDie (s : State) (d : Nat) : State :=
  (List.range 96).foldl (fun (s : State) b => s.loadInit d (some b)) (s.loadInit d none)

/-! ### Logic (02 R47 to R50): `ev` gives the levels of other nets -/

/-- The number a LUT's inputs spell. -/
def lutIndex (ev : Net → Bool) (ins : List Net) (n : Nat) : Nat :=
  ((List.range n).map fun i => atBit (ev (ins.getD i .floating)) i).foldl (· + ·) 0

/-- O6 of the LUT6 alone, and O5A and O5B of a split one, whose inputs are I0 to I4 (02 R48). -/
def lut6 (ev : Net → Bool) (x : CellCfg) : Bool := x.lut.getLsbD (lutIndex ev x.ins 6)
def lut5 (ev : Net → Bool) (x : CellCfg) (b : Bool) : Bool := x.lut.getLsbD (lutIndex ev x.ins 5 + if b then 32 else 0)

/-- The output of the multiplexer stage `k` that ends at cell c: the stage below it at c, or at the cell half a group before (02 R50). -/
def muxStage (lut : Nat → Bool) (sel : Nat → Bool) : Nat → Nat → Bool
  | 0, c => lut c
  | k + 1, c => if sel k then muxStage lut sel k c else muxStage lut sel k (c - 2 ^ k)

/-- O6 of a cell: of its LUT, or of the wide multiplexer that ends there. A group starts at a multiple of its size. -/
def State.cellO6 (s : State) (d : Nat) (ev : Net → Bool) (c : Nat) : Bool :=
  let x := s.cell d c
  let k := if x.stages ≤ 4 ∧ (c + 1) % 2 ^ x.stages = 0 then x.stages else 0
  muxStage (fun c => lut6 ev (s.cell d c)) (fun i => ev (x.sel.getD i .floating)) k c

/-- CI of a cell: CO of the cell before, across the cluster border northwards within the region; at the start of a chain routing, and 0 where
    none drives it. The spec gives no CI for a chain that starts in the southernmost cluster of its region (02 R49). -/
def State.cellCi (s : State) (d : Nat) (ev : Net → Bool) (c : Nat) : Bool :=
  let x := s.cell d c
  let k := cellCluster c
  if x.chain ∧ ¬ (c % 16 = 0 ∧ southmost k) then ev (.co (c - 1))
  else if southmost k then Config.southCi d c
  else if x.ci = .floating then false
  else ev x.ci

/-- Propagate and generate of a cell: the two halves of its LUT (02 R49). -/
def State.cellSum (s : State) (d : Nat) (ev : Net → Bool) (c : Nat) : Bool := xor (lut5 ev (s.cell d c) false) (s.cellCi d ev c)
def State.cellCo (s : State) (d : Nat) (ev : Net → Bool) (c : Nat) : Bool :=
  lut5 ev (s.cell d c) true || (lut5 ev (s.cell d c) false && s.cellCi d ev c)

/-- A flip-flop's output: an active asynchronous set/reset shows at once (02 R51). -/
def State.ffOut (s : State) (d : Nat) (ev : Net → Bool) (c : Nat) (b : Bool) : Bool :=
  let k := s.ctlOf d c
  if s.ffsRun && k.async && ev k.sr then cellRst (s.cell d c) b else s.ffHeld d c b

/-- What a flip-flop takes at an edge of its clock (02 R47, R51). -/
def State.ffNext (s : State) (d : Nat) (ev : Net → Bool) (c : Nat) (b : Bool) : Bool :=
  let x := s.cell d c
  let k := s.ctlOf d c
  if ev k.sr then cellRst x b
  else if ev k.ce then
    match (if b then x.dB else x.dA) with
    | .o6 => ev (.o6 c)
    | .o5a => ev (.o5a c)
    | .o5b => ev (.o5b c)
    | .sum => ev (.sum c)
    | .bypass => ev x.byp
  else s.ffOut d ev c b

/-! ### Border slots (02 R53; 13 R343) -/

/-- GRP_g of BAY_BORDER_DEFAULT: 0 HOLD, 1 ZERO, 2 ONE, 3 as HOLD (13 Table 13.8). -/
def grpOf (border : BitVec 64) (g : Nat) : Nat := bitsOf border.toNat (2 * g) 2

/-- An outgoing slot: the design's level, or while the border is clamped what its group's setting gives. -/
def State.slotOut (s : State) (d : Nat) (ev : Net → Bool) (b k : Nat) : Bool :=
  let x := s.bay d b
  if x.clamped then
    (if grpOf x.clampedBy (k / 32) = 1 then false else if grpOf x.clampedBy (k / 32) = 2 then true else x.slotHold.getLsbD k)
  else ev (Config.imageSlot (s.regionImage d (some b)) d b true k)

/-- An incoming slot as the bay's logic sees it: the level it last received while the border is clamped. -/
def State.slotIn (s : State) (d : Nat) (ev : Net → Bool) (b k : Nat) : Bool :=
  let x := s.bay d b
  if x.clamped then x.slotSeen.getLsbD k else ev (Config.imageSlot s.cfg.bundle d b false k)

/-! ### User I/O (02 R62 to R70) -/

def safeOf (n : Nat) : SafeState := if n % 4 = 0 then .highz else if n % 4 = 1 then .zero else if n % 4 = 2 then .one else .hold
def biasOf (n : Nat) : Bias := if n % 4 = 0 then .none else if n % 4 = 1 then .keeper else if n % 4 = 2 then .up else .down

def State.ioPin (s : State) (d p : Nat) : IoPin := tget IoPin.reset (s.die d).io.pins p
def State.modIo (s : State) (d : Nat) (f : IoBlock → IoBlock) : State := s.modDie d fun x => { x with io := f x.io }

/-- Bank of a pin, its pair there, and whether it is the odd pin of the pair (02 R62). -/
def pinBank (p : Nat) : Nat := p / 52
def pinPair (p : Nat) : Nat := p % 52 / 2
def pinOdd (p : Nat) : Bool := p % 2 == 1

/-- What the image sets in a pin; in a pin of a differential pair what it sets in the even pin, for the pair is a single port (02 R65). -/
def State.pinCfg (s : State) (d p : Nat) : PinCfg :=
  let lead := Config.imagePin s.cfg.bundle d (p / 2 * 2)
  if lead.diff = .none then Config.imagePin s.cfg.bundle d p else lead
def State.pinDiff (s : State) (d p : Nat) : DiffStd := (Config.imagePin s.cfg.bundle d (p / 2 * 2)).diff
/-- The pin that carries the port's registers. -/
def State.pinLead (s : State) (d p : Nat) : Nat := if s.pinDiff d p = .none then p else p / 2 * 2
def State.pinNet (s : State) (d p : Nat) : Nat := (s.pinCfg d p).net.toNat

/-- The pads of a die are forced to their safe states: the source of the pin's FCLK has failed, the die is fenced, or a core clock of the
    H-die has failed (02 R68; 13 R362; 18 R464). -/
def State.padSafe (s : State) (d p : Nat) : Bool :=
  (s.node (fclkNode d (s.pinNet d p))).failed || (s.die d).leggett.fenced || s.cfg.bootFault

/-- The level of a probe channel's pin: its last sample, 0 while the channel is off (02 R71, R73, R74). -/
def Probe.pinLevel (x : Probe) (c : Nat) : Bool := (tget ProbeSel.reset x.sel c).en && x.out.getLsbD c

/-- What the design drives at a port: the level of its net, of its output register, or of its serializer (02 Table 2.4); a pin reserved for a
    probe channel shows the channel while DEST is 0 (02 R73). -/
def State.designDrive (s : State) (d : Nat) (ev : Net → Bool) (p : Nat) : PadDrive :=
  let x := s.pinCfg d p
  let level : Bool → PadDrive := fun b => if b then .high else .low
  match x.probe with
  | some c => if (tget ProbeSel.reset (s.die d).probe.sel c.toNat).dest then .z else level ((s.die d).probe.pinLevel c.toNat)
  | none =>
    if ¬ ev x.oe ∨ s.pinDiff d p = .slvsIn ∨ s.pinDiff d p = .lvdsIn then .z
    else match x.reg with
      | .none => level (ev (x.outs.getD 0 .floating))
      | .sdr | .ddr => level (s.ioPin d (s.pinLead d p)).q
      | _ => level (Config.serialLevel d p s.now)

/-- The complement, for the odd pin of a pair. -/
def PadDrive.flip : PadDrive → PadDrive
  | .z => .z
  | .low => .high
  | .high => .low

/-- A die's TAP holds its pins: EXTEST, EXTEST_PULSE, EXTEST_TRAIN and CLAMP drive what its boundary register says, HIGHZ nothing (20 R511). -/
def State.tapDrive (s : State) (d p : Nat) : Option PadDrive :=
  let t := tget Tap.reset s.lad.taps d
  if t.ir = 0x06 then some .z
  else if t.ir = 0x00 ∨ t.ir = 0x03 ∨ t.ir = 0x04 ∨ t.ir = 0x05 then
    some (match Config.boundaryPad t.boundary d p with
      | none => .z
      | some b => if b then .high else .low)
  else none

/-- What a pad does when the design's levels are `ev` (02 Table 2.5, the upper row governing; R65, R68, R69). -/
def State.padOutOf (s : State) (d : Nat) (ev : Net → Bool) (p : Nat) : PadDrive :=
  match (s.die d).io.pads with
  | .disabled | .biased => (s.tapDrive d p).getD .z
  | .latched => (s.ioPin d p).latch
  | .enabled =>
    if s.padSafe d p ∧ safeOf (s.pinCfg d p).safe = .hold then (s.ioPin d p).hold
    else
      let v : PadDrive :=
        if s.padSafe d p then
          match safeOf (s.pinCfg d p).safe with
          | .zero => .low
          | .one => .high
          | _ => .z
        else s.designDrive d ev p
      if s.pinDiff d p ≠ .none ∧ pinOdd p then v.flip else v

/-- The level on a pad: what the pad drives, else what the board does. -/
def State.padLevel (s : State) (d : Nat) (ev : Net → Bool) (p : Nat) : Bool :=
  match s.padOutOf d ev p with
  | .z => Config.boardLevel d p s.now
  | .low => false
  | .high => true

/-- What a pad passes to the fabric: 0 while it is disabled, else its level, or a bit of its input register or deserializer (02 R66). -/
def State.padIn (s : State) (d : Nat) (ev : Net → Bool) (p k : Nat) : Bool :=
  match (s.die d).io.pads with
  | .disabled | .biased => false
  | _ => if (s.pinCfg d p).reg = .none then s.padLevel d ev (s.pinLead d p) else (s.ioPin d (s.pinLead d p)).ins.getLsbD k

/-! ### Levels -/

/-- The level of a net, `ev` giving the levels of the nets it depends on. -/
def State.netOf (s : State) (d : Nat) (ev : Net → Bool) : Net → Bool
  | .floating => Config.openLevel d s.now
  | .const b => b
  | .o6 c => s.cellO6 d ev c
  | .o5a c => lut5 ev (s.cell d c) false
  | .o5b c => lut5 ev (s.cell d c) true
  | .sum c => s.cellSum d ev c
  | .co c => s.cellCo d ev c
  | .ffa c => s.ffOut d ev c false
  | .ffb c => s.ffOut d ev c true
  | .pin p k => s.padIn d ev p k
  | .slotOut b k => s.slotOut d ev b k
  | .slotIn b k => s.slotIn d ev b k
  | .bram m pb i =>
    let x := (s.bram d m).port pb
    if i < 64 then x.rdata.getLsbD i else if i = 64 then x.sbit else if i = 65 then x.dbit else x.wref
  | .queue q i => (s.gq d q).output i
  | .lane n i =>
    let l := tget Lane.reset (s.laneset (256 + 8 * d + n / 4)).lanes (n % 4)
    if i < 40 then l.rxWord.getLsbD i else l.status.getLsbD 15
  | .hard k => Config.hardLevel d k s.now

/-- The level of a net through at most `n` others; a net that needs more stands in a combinational loop. -/
def State.levelIn (s : State) (d : Nat) : Nat → Net → Bool
  | 0, _ => Config.loopLevel d s.now
  | n + 1, x => s.netOf d (s.levelIn d n) x

/-- More nets than any path of a die passes through. -/
def netDepth : Nat := 16777216

/-- The level of a net. -/
def State.level (s : State) (d : Nat) (x : Net) : Bool := s.levelIn d netDepth x

/-- What a user I/O pad does. -/
def State.padOut (s : State) (d p : Nat) : PadDrive := s.padOutOf d (s.level d) p

/-- The bias at a user I/O pin: none at a pin of a differential pair (02 R65, Table 2.5). -/
def State.padBias (s : State) (d p : Nat) : Bias :=
  match (s.die d).io.pads with
  | .disabled => .none
  | _ => if s.pinDiff d p = .none then biasOf (s.pinCfg d p).bias else .none

/-- The levels of a bay's slots in one direction, as 1,024 bits. -/
def State.slotLevels (s : State) (d b : Nat) (out : Bool) : BitVec 1024 :=
  BitVec.ofNat 1024 (((List.range 1024).map fun k => atBit (s.level d (if out then .slotOut b k else .slotIn b k)) k).foldl (· + ·) 0)

/-! ### Clock edges -/

/-- An FCLK net clocks the flip-flops of a region (02 R56). -/
def State.netClocks (s : State) (d : Nat) (b : Option Nat) (n : Nat) : Bool := match b with
  | some b => s.bayNet d b n
  | none => true

/-- The flip-flops of a region after an edge, from the levels before it; `on` tells which control sets the edge clocks. -/
def State.regionEdge (s : State) (d : Nat) (b : Option Nat) (on : CtlSet → Bool) : FlipFlops :=
  match s.regionFfs d b with
  | .undef seed => .undef seed
  | .held t =>
    .held ((regionCells b).foldl (fun t c =>
      let k := s.ctlOf d c
      let put (t : Tab Bool) (f : Bool) : Tab Bool :=
        let v := if on k ∧ s.netClocks d b k.clk.toNat then s.ffNext d (s.level d) c f else s.ffOut d (s.level d) c f
        tput (cellInit (s.cell d c) f) t (ffKey c f) v
      put (put t false) true) t)

/-- Every region of a die goes through an edge. -/
def State.cellEdge (s : State) (d : Nat) (on : CtlSet → Bool) : State :=
  if s.ffsRun then
    let st := s.regionEdge d none on
    let bays := (List.range 96).map fun b => s.regionEdge d (some b) on
    s.modDie d fun x =>
      { x with stFfs := st, bays := tmodAll Bay.reset x.bays (List.range 96) fun b (y : Bay) => { y with ffs := bays.getD b y.ffs } }
  else s

/-- The registers of the user I/O cells on the nets of an edge (02 Table 2.4): SDR takes one word each rising edge, DDR two and shows the second
    in the low half of the cycle; inputs likewise. The order of a serializer's bits is not given: its words are free. -/
def IoPin.rising (y : IoPin) (reg : IoReg) (o1 o2 inp : Bool) (words : BitVec 8) : IoPin :=
  match reg with
  | .none => y
  | .sdr | .ddr => { y with q := o1, q2 := o2, ins := (y.ins &&& 0xFE) ||| (if inp then 1 else 0) }
  | _ => { y with ins := words }
def IoPin.falling (y : IoPin) (reg : IoReg) (inp : Bool) : IoPin :=
  if reg = .ddr then { y with q := y.q2, ins := (y.ins &&& 0xFD) ||| (if inp then 2 else 0) } else y

def State.ioEdge (s : State) (d : Nat) (nets : List Nat) (up : Bool) : State :=
  if s.ffsRun then
    let f (p : Nat) (y : IoPin) : IoPin :=
      let x := s.pinCfg d p
      if ¬ nets.contains x.net.toNat then y
      else if up then
        y.rising x.reg (s.level d (x.outs.getD 0 .floating)) (s.level d (x.outs.getD 1 .floating)) (s.padLevel d (s.level d) p) ((s.freeValAt p).truncate 8)
      else y.falling x.reg (s.padLevel d (s.level d) p)
    let pins := (List.range 416).map fun p => f p (s.ioPin d p)
    (s.modIo d fun x =>
      { x with pins := tmodAll IoPin.reset x.pins (List.range 416) fun p (_ : IoPin) => pins.getD p IoPin.reset }).drew (if up then 416 else 0)
  else s

/-- INIT into the output registers of the user I/O cells (02 R58, R67). -/
def State.initIo (s : State) (d : Nat) : State :=
  s.modIo d fun x =>
    { x with pins := tmodAll IoPin.reset x.pins (List.range 416) fun p (y : IoPin) =>
        { y with q := (s.pinCfg d p).init, q2 := (s.pinCfg d p).init, ins := 0 } }

/-- Block memory ports on the nets of an edge without an access at it (03 R79). -/
def State.bramEdge (s : State) (d : Nat) (nets : List Nat) : State :=
  let on (m : Nat) (pb : Bool) : Bool := nets.contains ((s.bram d m).port pb).net.toNat && s.bramClocked d m pb
  s.modDie d fun x =>
    { x with brams := tmodAll Bram.reset x.brams (x.brams.map (·.1)) fun m (y : Bram) =>
        { y with portA := if on m false then y.portA.idle else y.portA, portB := if on m true then y.portB.idle else y.portB } }

end Sys2Proof.Machine
end

