-- ==== Sys2Proof/Machine/ProbeMux.lean ====
section
/-! DEFINITION. The embedded probe multiplexers of a die: selections, captures, triggers and registers (02 R71 to R76). -/

namespace Sys2Proof.Machine

/-- A selection's tap is stale (02 R75): at or above PROBE_TAPS, or in a bay that is not ACTIVE with the image the tap list was
    compiled with. -/
def State.tapStale (s : State) (d : Nat) (tap : BitVec 12) : Bool :=
  if (s.die d).probe.taps ≤ tap.toNat then true
  else match Config.imageTapBay s.cfg.bundle d tap.toNat with
    | some (b, ident) => (s.bay d b).state != .active || (s.bay d b).ident != ident
    | none => false

def State.probeSel (s : State) (d c : Nat) : ProbeSel := tget ProbeSel.reset (s.die d).probe.sel c

/-- PROBE_STALE: bit c while channel c carries a stale tap (02 R75). -/
def State.probeStale (s : State) (d : Nat) : Nat :=
  ((List.range 64).map fun c => atBit (s.tapStale d (s.probeSel d c).tap) c).foldl (· + ·) 0

/-- Channel outputs of one sample: each channel's tap, 0 while it is disabled or the tap stale (02 R71, R73, R75, Table 2.9). -/
def State.probeOut (s : State) (d : Nat) : BitVec 64 :=
  BitVec.ofNat 64 (((List.range 64).map fun c =>
    let x := s.probeSel d c
    atBit (x.en && !s.tapStale d x.tap && s.level d (Config.imageTap s.cfg.bundle d x.tap.toNat)) c).foldl (· + ·) 0)

/-- What the buffer records: channels with DEST = 1 (02 R73). -/
def State.probeRec (s : State) (d : Nat) (o : BitVec 64) : BitVec 64 :=
  BitVec.ofNat 64 (((List.range 64).map fun c => atBit ((s.probeSel d c).dest && o.getLsbD c) c).foldl (· + ·) 0)

/-- One sample-clock cycle of a capture (02 R76): `o` the channel outputs, `r` what is recorded. -/
def Probe.sample (p : Probe) (o r : BitVec 64) : Probe :=
  if ¬ p.armed then { p with out := o }
  else
    let put : Probe := { p with out := o, buf := tput 0 p.buf p.wr.toNat r, wr := p.wr + 1, stored := min 8192 (p.stored + 1) }
    let span := 8191 - p.pretrig.toNat
    if p.triggered then
      let n := p.post + 1
      if span ≤ n then { put with post := n, done := true, armed := false } else { put with post := n }
    else
      let rise := p.trigMode && o.getLsbD p.trigCh.toNat && !p.out.getLsbD p.trigCh.toNat
      let cond := p.held || rise
      if cond ∧ p.pretrig.toNat ≤ p.stored then
        let t := { put with triggered := true, held := false, trigIdx := p.wr, post := 0 }
        if span = 0 then { t with done := true, armed := false } else t
      else { put with held := cond }

/-- The sample clock gives edges at no more than 410 MHz (02 R71). DESIGN CHOICE: once OVERSPEED has set, the block samples nothing until
    software has cleared the bit, though its clock be slow again (140). -/
def State.probeClocked (s : State) (d : Nat) : Bool :=
  decide (d < s.fdies) && s.fclkRuns d (s.die d).probe.clkSel.toNat && !(s.die d).probe.overspeed

/-- The probe block after one rising edge of its sample clock (02 R71, R76). -/
def State.probeNext (s : State) (d : Nat) : Probe := let o := s.probeOut d; (s.die d).probe.sample o (s.probeRec d o)

/-- One rising edge of the sample clock. -/
def State.probeEdge (s : State) (d : Nat) : State :=
  if s.probeClocked d then let p := s.probeNext d; s.modProbe d fun _ => p else s

/-- PROBE_TRIGGER: the rising edge of the sample clock at which the trigger is taken (02 R76). -/
def execProbeTrigger (die : Nat) (s : State) : Out :=
  .next (if (s.die die).probe.armed ∧ ¬ (s.die die).probe.triggered ∧ (s.probeNext die).triggered then s.probeEdge die else s)

/-- PROBE_CAPTURE_DONE: the rising edge of the sample clock that fills the buffer (02 R76). -/
def execProbeCaptureDone (die : Nat) (s : State) : Out :=
  .next (if (s.die die).probe.armed ∧ (s.probeNext die).done then s.probeEdge die else s)

/-- PROBE_OVERSPEED: the sample clock measures above 410 MHz (02 R71). -/
def execProbeOverspeed (die : Nat) (s : State) : Out :=
  .next (
    if die < s.fdies ∧ 410000 < (s.node (fclkNode die (s.die die).probe.clkSel.toNat)).freq.toNat then
      s.modProbe die fun p => { p with overspeed := true, armed := false }
    else s)

/-- PROBE_CTRL written (02 Table 2.7, R76): ARM restarts the capture at a buffer index the spec does not name; FORCE is a trigger
    condition held until PRETRIG samples are stored. -/
def probeCtrlWrite (s : State) (d v : Nat) : State :=
  let arm := bitOf v 8
  let s1 := s.modProbe d fun p =>
    let p := { p with clkSel := BitVec.ofNat 5 v, trigMode := bitOf v 10, trigCh := BitVec.ofNat 6 (bitsOf v 11 6),
                      pretrig := BitVec.ofNat 13 (bitsOf v 17 13) }
    let p := if arm then { p with armed := true, triggered := false, done := false, held := false, stored := 0, post := 0,
                                  wr := s.freeVal.truncate 13, buf := [] } else p
    if bitOf v 9 ∧ p.armed ∧ ¬ p.triggered then { p with held := true } else p
  if arm then s1.drew 1 else s1

/-- PROBE_SEL_c written (02 R74): refused while armed where the channel has, or would have, DEST = 1. The new selection holds from the next
    sample on. -/
def probeSelWrite (s : State) (d c v : Nat) : Option State :=
  if (s.die d).probe.armed ∧ ((s.probeSel d c).dest ∨ bitOf v 13) then none
  else some (s.modProbe d fun p =>
    { p with sel := tput ProbeSel.reset p.sel c { tap := BitVec.ofNat 12 v, en := bitOf v 12, dest := bitOf v 13 } })

/-- A 32-bit register of the probe sub-block. -/
def State.probeRead (s : State) (d off : Nat) : Nat :=
  let p := (s.die d).probe
  if off = 0x000 then p.clkSel.toNat + atBit p.armed 8 + atBit p.trigMode 10 + atLo p.trigCh.toNat 11 + atLo p.pretrig.toNat 17
  else if off = 0x004 then atBit p.armed 0 + atBit p.triggered 1 + atBit p.done 2 + atBit p.overspeed 3 + atLo p.trigIdx.toNat 4
  else if off = 0x008 then p.taps
  else if off = 0x010 then p.pins.toNat % 2 ^ 32
  else if off = 0x014 then p.pins.toNat / 2 ^ 32
  else if off = 0x018 then s.probeStale d % 2 ^ 32
  else if off = 0x01C then s.probeStale d / 2 ^ 32
  else if 0x100 ≤ off ∧ off < 0x200 then
    let x := s.probeSel d ((off - 0x100) / 4)
    x.tap.toNat + atBit x.en 12 + atBit x.dest 13
  else if 0x10000 ≤ off ∧ off < 0x20000 then
    if p.armed then 0
    else
      let v := (tget 0 p.buf ((off - 0x10000) / 8)).toNat
      if off % 8 = 0 then v % 2 ^ 32 else v / 2 ^ 32
  else 0

/-- A 32-bit write in the probe sub-block, none where it is refused. -/
def probeWriteWord (s : State) (d off v : Nat) : Option State :=
  if off = 0x000 then some (probeCtrlWrite s d v)
  else if off = 0x004 then some (s.modProbe d fun p => { p with overspeed := p.overspeed && !bitOf v 3 })
  else if 0x100 ≤ off ∧ off < 0x200 then probeSelWrite s d ((off - 0x100) / 4) v
  else some s

/-- An access in the probe sub-block: every register requires privileged access (02 R72). DESIGN CHOICE: of an 8-byte write over two PROBE_SEL
    registers whose second half is refused, the first half stands and the answer is TGTERR (139). -/
def probeReg (w : Who) (s : State) (d off : Nat) (write eight : Bool) (v : Nat) : RegRes :=
  needPriv w s <|
    if write then
      match probeWriteWord s d off (v % 2 ^ 32) with
      | none => regErr s
      | some s1 =>
        if eight then
          match probeWriteWord s1 d (off + 4) (v / 2 ^ 32) with
          | some s2 => regOk s2 0
          | none => regErr s1
        else regOk s1 0
    else regOk s (words (s.probeRead d) off eight)

def probeDirect (w : Who) (d off v : Nat) (s : State) : Out :=
  .next (s.access w (dieBase d + 0x900000 + off) true fun s => probeReg w s d off true false v)

def execProbeSelWrite (w : Who) (die ch : Nat) (data : BitVec 32) (s : State) : Out :=
  probeDirect w die (0x100 + 4 * ch) data.toNat s
/-- PROBE_ARM: PROBE_CTRL written with ARM = 1. -/
def execProbeArm (w : Who) (die : Nat) (data : BitVec 32) (s : State) : Out := probeDirect w die 0 (data ||| 0x100).toNat s
/-- PROBE_FORCE: PROBE_CTRL written with FORCE = 1. -/
def execProbeForce (w : Who) (die : Nat) (data : BitVec 32) (s : State) : Out := probeDirect w die 0 (data ||| 0x200).toNat s

end Sys2Proof.Machine
end

