-- ==== Sys2Proof/Machine/Ridge.lean ====
section
/-! DEFINITION. The Ridge network: injection and flow meters, routing, arbitration, credits, delivery, responses and timeouts,
idle and wake, and the router registers. -/

namespace Sys2Proof.Machine

/-! ### Routing (07 R191 to R194) -/

/-- Grid column and row of a die as routing takes them, row up by one so that the H-die stands in row 0 (07 R191). -/
def State.gridCol (s : State) (die : Nat) : Nat := if die < 8 then die % 2 else s.siteDie (die - 12) % 2
def State.gridRow (s : State) (die : Nat) : Nat :=
  if die < 8 then die / 2 + 1 else if die = 8 then 0 else s.siteDie (die - 12) / 2 + 2

/-- A link site is usable for routing when its lane set is ACTIVE and no shut-down has begun (07 R191, R202, 10 R272). -/
def State.siteActive (s : State) (node l : Nat) : Bool :=
  let x := s.laneset (linkKeyOf node l)
  x.state == .active && !x.shutting

/-- Flits queued at a link output (07 R191). -/
def LinkEnd.queued (e : LinkEnd) : Nat := e.outq.length

/-- The edges of `die_dirs` (07 R191): 0 N, 1 E, 2 S, 3 W, N and S before E. -/
def State.dieDirs (s : State) (here dest : Nat) : List Nat :=
  if here = 8 then [0]
  else if dest = 8 then [2]
  else
    let ch := s.gridCol here; let cd := s.gridCol dest; let rh := s.gridRow here; let rd := s.gridRow dest
    if cd < ch then [3]
    else (if rd > rh then [0] else []) ++ (if rd < rh then [2] else []) ++ (if cd > ch then [1] else [])

/-- The link sites of an edge, by index k (01 Table 1.2); on the H-die, H0-H3 or H4-H7 by the column of the destination. -/
def State.edgeSites (s : State) (here dest dir : Nat) : List Nat :=
  if here = 8 then (List.range 4).map (· + 4 * s.gridCol dest) else (List.range 4).map (· + 4 * dir)

/-- The first element of a list with the least value of a measure. -/
def argMin {α : Type} (f : α → Nat) : List α → Option α
  | [] => none
  | a :: t => match argMin f t with
    | none => some a
    | some b => if f a ≤ f b then some a else some b

/-- Distance in router hops inside a die. -/
def hops (node r r' : Nat) : Nat :=
  let dx := (rx node r - rx node r') + (rx node r' - rx node r)
  let dy := (ry node r - ry node r') + (ry node r' - ry node r)
  dx + dy

/-- `choose_exit` (07 R191): none when the packet is at its die; some none when no site of the edge it needs is ACTIVE. -/
def State.chooseExit (s : State) (k : Pkt) (node r : Nat) : Option (Option Nat) :=
  let dest := k.die.toNat
  if dest = node then none
  else
    let dirs := s.dieDirs node dest
    let act (dir : Nat) : List Nat := (s.edgeSites node dest dir).filter fun l => s.siteActive node l
    if k.escape ∨ k.ord then
      -- the first of W, E, N, S that is in dirs
      match [3, 1, 0, 2].find? fun d => dirs.contains d with
      | none => some none
      | some dir =>
        let sites := s.edgeSites node dest dir
        let st := k.src.toNat % 4
        some (((List.range 4).map fun i => sites.getD ((st + i) % 4) 0).find? fun l => s.siteActive node l)
    else
      let queued (dir : Nat) : Nat := ((act dir).map fun l => (s.link (linkKeyOf node l)).queued).foldl (· + ·) 0
      match argMin queued (dirs.filter fun d => (act d) != []) with
      | none => some none
      | some dir =>
        some (argMin (fun l => hops node r (routerOfSite node l) * 2 ^ 20 + (s.link (linkKeyOf node l)).queued) (act dir))

/-- The router a packet heads for on this die (07 R192). -/
def Pkt.targetRouter (k : Pkt) (node : Nat) : Nat :=
  match k.exit with
  | some l => routerOfSite node l.toNat
  | none => ridx node k.x.toNat k.y.toNat

/-- The final port of a packet at its target router (07 R192). -/
def Pkt.finalPort (k : Pkt) (node r : Nat) : Option Nat :=
  match k.exit with
  | some _ => some 4
  | none => portOfLocal node r k.port.toNat

/-- Adaptive output ports towards router `t` (07 R192): west first. -/
def adaptivePorts (node r t : Nat) : List Nat :=
  let x := rx node r; let y := ry node r; let tx := rx node t; let ty := ry node t
  if tx < x then [3]
  else (if ty > y then [0] else []) ++ (if tx > x then [1] else []) ++ (if ty < y then [2] else [])

/-- The escape output port: X, then Y (07 R192). -/
def escapePort (node r t : Nat) : Nat :=
  let x := rx node r; let y := ry node r; let tx := rx node t; let ty := ry node t
  if tx < x then 3 else if tx > x then 1 else if ty > y then 0 else 2

/-! ### Credits (07 R198, R199) -/

/-- Depth of the receiver that an output's VC feeds: 64 across an Eoset link, the depth a guest declared once its GCAP is accepted, else 8
    (07 R175, 10 R262, R279). -/
def State.outDepth (s : State) (node r p vc : Nat) : Nat :=
  if p = 4 then
    match siteOfRouter node r with
    | some l => match s.facing (linkKeyOf node l) with
      | .guestSite g => if (s.link (linkKeyOf node l)).guestOk then (s.guest g).cap.rxDepth.getD vc 0 else 64
      | _ => 64
    | none => 0
  else 8

/-- SEND_CRED of output p, VC v (07 R198). At a link port the count stands in the link's end. -/
def State.sendCred (s : State) (node r p vc : Nat) : Nat :=
  let spent := if p = 4 then
      match siteOfRouter node r with
      | some l => tget 0 (s.link (linkKeyOf node l)).spent vc
      | none => 0
    else tget 0 (s.router node r).spent (8 * p + vc)
  s.outDepth node r p vc - spent

/-- RX_OCC of input p, VC v (07 R198, Table 7.14). -/
def State.rxOcc (s : State) (node r p vc : Nat) : Nat :=
  let base := (s.router node r).flitsIn (8 * p + vc)
  if p = 4 then
    match siteOfRouter node r with
    | some l => match tget none (s.link (linkKeyOf node l)).rxPart vc with
      | some k => base + (k.flits - k.missing)
      | none => base
    | none => 0
  else if 5 ≤ p then min 8 base else base

/-- One credit per flit goes back to the sender of input p, VC v: over the side wire inside a die, in frames across a link
    (07 R198). A local port's sender is its element, whose packets wait in the same list. -/
def State.giveBack (s : State) (node r p vc n : Nat) : State :=
  if p < 4 then
    s.modRouter node (neighbour node r p) fun x =>
      { x with back := tmod 0 x.back (8 * oppPort p + vc) (· + n), quietAt := s.now }
  else if p = 4 then
    match siteOfRouter node r with
    | some l => s.modLink (linkKeyOf node l) fun e => { e with pendRet := tmod 0 e.pendRet vc (· + n) }
    | none => s
  else s

/-- The head packet of an input VC leaves it: its flits' credits go back (07 R198). -/
def State.dropHead (s : State) (node r p vc : Nat) : State :=
  match tget [] (s.router node r).inq (8 * p + vc) with
  | [] => s
  | k :: _ =>
    (s.modRouter node r fun x => { x with inq := tmod [] x.inq (8 * p + vc) List.tail, quietAt := s.now }).giveBack node r p vc
      (if k.noCred then 0 else k.flits)

/-- A discarded packet counts in RTR_DISCARD (07 Table 7.10). -/
def State.countDiscard (s : State) (node r : Nat) : State := s.modRouter node r fun x => { x with discard := satInc x.discard }

/-- The routers of a node are clocked: HCLK, or NOCCLK of the die, is not failed (18 Table 18.4). -/
def State.ridgeClock (s : State) (node : Nat) : Bool := s.nodeGood (if node = 8 then 0x8200 else node * 0x1000 + 0x700)

/-! ### A packet read from an input VC (07 R178, R191, R194, 01 R42) -/

/-- A request to a guest window is checked at the gateway on the attached die before it crosses (01 R42): the site, when the
    packet's EXIT is a north site of the attached die and its destination is that guest. -/
def State.gatewayOf (s : State) (node : Nat) (k : Pkt) : Option Nat :=
  let dest := k.die.toNat
  if (dest = 12 ∨ dest = 13) ∧ s.siteDie (dest - 12) = node ∧ node ≠ 8 then some (dest - 12) else none

/-- Corrected quarters of a packet's flits count in RTR_CORR (07 R178). -/
def State.countCorr (s : State) (node r : Nat) (k : Pkt) (u : FlitUpset) : State :=
  s.modRouter node r fun x => { x with corr := satAdd x.corr (min u.corr (4 * k.flits)) }

/-- A response that finds no way to its guest ends the orphaned request it answers (10 R283). -/
def State.endOrphan (s : State) (k : Pkt) : State :=
  if k.cls = .rsp ∧ (k.die = 12 ∨ k.die = 13) then
    s.modGuest (k.die.toNat - 12) fun x =>
      let keep := (x.fromGuest.zip x.fromSrc).filter fun e => !(e.1.orphan && e.1.tag == k.tag && e.2 == k.src)
      { x with fromGuest := keep.map (·.1), fromSrc := keep.map (·.2) }
  else s

/-- A header is read from an input VC: checked (07 R178), its exit chosen where the packet enters the die or its EXIT site has left ACTIVE
    (R191), discarded where the edge has no ACTIVE site (R194), checked at the guest gateway where the packet is about to leave for a guest
    (01 R42), and routed. -/
def packetArrive (s : State) (node r p vc : Nat) (u : FlitUpset) : State :=
  let key := 8 * p + vc
  let rt := s.router node r
  match tget [] rt.inq key with
  | [] => s
  | k :: rest =>
    let stale : Bool := match k.exit with
      | some l => !s.siteActive node l.toNat
      | none => false
    if rt.idle ∨ (k.route ≠ none ∧ ¬ stale) ∨ ¬ s.hasPort node r p ∨ ¬ s.ridgeClock node then s
    else
    let s := s.countCorr node r k u
    if u.bad = .header ∨ u.bad = .sideband then
      ((s.dropHead node r p vc).countDiscard node r).raiseDiscard node r p k
    else
      let k := { k with ue := k.ue || (u.bad == .data && opcHasData k.opc) }
      match if k.chosen ∧ ¬ stale then k.exit.map fun l => some l.toNat else s.chooseExit k node r with
      | some none =>
        -- no ACTIVE site on the edge the route requires
        let s := ((s.dropHead node r p vc).countDiscard node r).raiseDiscard node r p k
        (s.respond node r p k respNoTarget []).endOrphan k
      | ex =>
        let k := { k with chosen := true, exit := match ex with | some (some l) => some (BitVec.ofNat 4 l) | _ => none }
        let admitted : Bool := match s.gatewayOf node k with
          | some g => k.cls == .rsp || k.cls == .evt || k.checked || s.admits (0x4000 + g) k.src (needsOf k.opc) k.addr
          | none => true
        if ¬ admitted then
          let g := k.die.toNat - 12
          let s := (s.dropHead node r p vc).noteDenial node (0x4000 + g) k false
          s.respond node r p k respDenied []
        else
          let k := { k with route := some (k.targetRouter node), checked := k.checked || (s.gatewayOf node k).isSome }
          s.modRouter node r fun x => { x with inq := tput [] x.inq key (k :: rest) }

def execRouterPacketArrive (node router port vc : Nat) (u : FlitUpset) (s : State) : Out :=
  .next (packetArrive s node router port vc u)

/-! ### Output arbitration (07 R193, R195 to R197) -/

/-- Whether the downstream of an output is awake: a mesh neighbour not in IDLE, a link not in LP1 or LP2 (07 R207). -/
def State.downAwake (s : State) (node r p : Nat) : Bool :=
  if p < 4 then !(s.router node (neighbour node r p)).idle
  else if p = 4 then
    match siteOfRouter node r with
    | some l => let ls := s.laneset (linkKeyOf node l)
                !ls.txLp1 && !ls.lp2 && ls.lp2Exit.isNone
    | none => true
  else true

/-- The output a routed packet takes now, and whether on the escape VC; none while it waits (07 R192, R193). -/
def State.chooseOutput (s : State) (node r : Nat) (k : Pkt) : Option (Nat × Bool) :=
  let t := k.targetRouter node
  let n := k.flits
  let onEsc := k.escape || k.ord
  let avc := k.cls.vc; let evc := k.cls.vc + 1
  let ok (p vc : Nat) : Bool := s.downAwake node r p && decide (n ≤ s.sendCred node r p vc)
  if r = t then
    match k.finalPort node r with
    | none => none
    | some p =>
      if p = 4 ∧ !(match k.exit with | some l => s.siteActive node l.toNat | none => false) then none
      else if onEsc then (if ok p evc then some (p, true) else none)
      else if ok p avc then some (p, false)
      else if p = 4 ∧ ok p evc then some (p, true)
      else none
  else
    let ep := escapePort node r t
    if onEsc then (if ok ep evc then some (ep, true) else none)
    else
      -- the adaptive output with the most credits; ties in the order N, E, S, W
      let cand := ([0, 1, 2, 3].filter fun p => (adaptivePorts node r t).contains p && ok p avc)
      match argMin (fun p => 1000 - s.sendCred node r p avc) cand with
      | some p => some (p, false)
      | none => if ok ep evc then some (ep, true) else none

/-- The permitted outputs of a packet, for waking (07 R193). -/
def permittedOutputs (node r : Nat) (k : Pkt) : List Nat :=
  let t := k.targetRouter node
  if r = t then (k.finalPort node r).toList
  else if k.escape || k.ord then [escapePort node r t]
  else adaptivePorts node r t ++ [escapePort node r t]

/-- Tokens of an output's bucket now, in 1/256 flit (07 R196). -/
def State.bucketNow (s : State) (b : Bucket) : Nat :=
  min (b.burst.toNat * 256) (b.tok256 + b.rate.toNat * (s.nocCycles s.now - s.nocCycles b.atPs))

/-- A packet of the real-time level: RT = 1 and FLOW ≠ 0 (07 R196). -/
def Pkt.isRt (k : Pkt) : Bool := k.rt && k.flow != 0

/-- The packets of a queue whose header stands in a VC of `depth` flits. -/
def inVc (depth : Nat) : List Pkt → List Pkt
  | [] => []
  | k :: t => if depth = 0 then [] else k :: inVc (depth - k.flits) t

/-- Level of an input VC at an output: real time when it holds a packet of that level, `part` among them; its head takes tokens when
    it is such a packet itself, and arbitrates at best effort when it finds too few (07 R196, R217). -/
def vcLevel (q : List Pkt) (part : Option Pkt) (tok256 : Nat) : Bool × Bool :=
  match q with
  | [] => (false, false)
  | k :: _ =>
    if k.isRt then (if k.flits * 256 ≤ tok256 then (true, true) else (false, false))
    else (q.any Pkt.isRt || part.any Pkt.isRt, false)

/-- The packet that a link port's VC has received in part. -/
def State.partAt (s : State) (node r p vc : Nat) : Option Pkt :=
  if p = 4 then
    match siteOfRouter node r with
    | some l => tget none (s.link (linkKeyOf node l)).rxPart vc
    | none => none
  else none

/-- Items of a list from the one after value `last`, wrapping. -/
def roundRobin (l : List Nat) (last : Nat) : List Nat := (l.filter fun i => last < i) ++ (l.filter fun i => i ≤ last)

/-- The candidates of an output: input port, VC, packet, level, whether it takes tokens, whether on the escape VC (07 R197). -/
def State.candidates (s : State) (node r out : Nat) : List (Nat × Nat × Pkt × Bool × Bool × Bool) :=
  let rt := s.router node r
  let tok := s.bucketNow (tget Outp.reset rt.outs out).bucket
  (rt.inq.map fun e =>
    match e.2 with
    | [] => []
    | k :: _ =>
      if k.route.isSome then
        match s.chooseOutput node r k with
        | some (p, esc) =>
          if p = out then
            let lv := vcLevel (inVc (vcDepth (e.1 / 8)) e.2) (s.partAt node r (e.1 / 8) (e.1 % 8)) tok
            [(e.1 / 8, e.1 % 8, k, lv.1, lv.2, esc)]
          else []
        | none => []
      else []).flatten

/-- The winner of an arbitration (07 R197): the real-time level first, then input ports round-robin after the last winner of
    the level, then VCs round-robin after the last winner of the port. -/
def State.arbiter (s : State) (node r out : Nat) : Option (Nat × Nat × Pkt × Bool × Bool × Bool) :=
  let rt := s.router node r
  let o := tget Outp.reset rt.outs out
  let all := s.candidates node r out
  let lvl := if all.any fun c => c.2.2.2.1 then true else false
  let c := all.filter fun c => c.2.2.2.1 == lvl
  let ports := roundRobin (List.range 22) (if lvl then o.lastRt else o.lastBe)
  match ports.find? fun p => c.any fun x => x.1 == p with
  | none => none
  | some p =>
    let vcs := roundRobin (List.range 8) (tget 0 rt.lastVc p)
    match vcs.find? fun v => c.any fun x => x.1 == p && x.2.1 == v with
    | none => none
    | some v => c.find? fun x => x.1 == p && x.2.1 == v

/-- Span of `n` flits on an output, ps (07 R195): one flit per NOCCLK cycle, 1.2 x 10^9 flits per second on an Eoset-P link. -/
def State.flitSpan (s : State) (p n : Nat) : Nat := if p = 4 then ceilDiv (n * 5000) 6 else s.nocPs n

/-- The flits of a packet as link frames: the header flit, then the data in flits of 64 bytes, each with the side band's EXIT (07 R177;
    10 R256). -/
def frameOf (k : Pkt) : List Frame :=
  let vc := BitVec.ofNat 3 k.vc
  ({ vc := vc, exit := k.exit, head := some { k with data := [], route := none, exit := none, chosen := false }, ue := false } : Frame) ::
    (List.range (dataFlits k.opc k.len)).map fun i =>
      ({ vc := vc, exit := k.exit, body := (k.data.drop (64 * i)).take 64, ue := k.ue } : Frame)

/-- A waiting packet whose permitted outputs all lead to sleepers wakes the first of them in the order E, N, S, W (07 R193, R207). -/
def State.wakeDown (s : State) (node r out : Nat) : State :=
  let rt := s.router node r
  let waits := rt.inq.any fun e => match e.2 with
    | k :: _ => k.route.isSome &&
      (let ps := permittedOutputs node r k
       ps.all (fun p => !s.downAwake node r p) && ([1, 0, 2, 3, 4].find? fun p => ps.contains p) == some out)
    | [] => false
  if ¬ waits then s
  else if out < 4 then
    let n := neighbour node r out
    s.modRouter node n fun x =>
      { x with wakeFrom := if x.wakeFrom.contains (oppPort out) then x.wakeFrom else x.wakeFrom ++ [oppPort out],
               wakeAt := x.wakeAt.or (some s.now) }
  else s

/-- The transfer of the winner: it leaves its input VC, its credits go back, the credits of its output VC are taken, and it
    stands in the next input VC, the link output or at the local port (07 R195 to R198). -/
def State.grant (s : State) (node r out : Nat) (w : Nat × Nat × Pkt × Bool × Bool × Bool) : State :=
  let (p, v, k, rtLevel, takes, esc) := w
  let n := k.flits
  let s := s.dropHead node r p v
  let k := { k with escape := k.escape || esc, route := none, noCred := false }
  let vc := k.vc
  let s := s.modRouter node r fun x =>
    { x with
      lastVc := tput 0 x.lastVc p v,
      outs := tmod Outp.reset x.outs out fun o =>
        { o with
          lastRt := if rtLevel then p else o.lastRt,
          lastBe := if rtLevel then o.lastBe else p,
          busyUntil := s.now + s.flitSpan out n,
          bucket := { o.bucket with tok256 := s.bucketNow o.bucket - (if takes then 256 * n else 0), atPs := s.now } } }
  if out < 4 then
    let m := neighbour node r out
    let s := s.modRouter node r fun x => { x with spent := tmod 0 x.spent (8 * out + vc) (· + n) }
    s.modRouter node m fun x =>
      { x with inq := tmod [] x.inq (8 * oppPort out + vc) (· ++ [k]), quietAt := s.now }
  else if out = 4 then
    match siteOfRouter node r with
    | some l => s.modLink (linkKeyOf node l) fun e =>
        { e with spent := tmod 0 e.spent vc (· + n), outq := e.outq ++ frameOf k, idleTx := s.now }
    | none => s
  else
    s.modRouter node r fun x =>
      { x with spent := tmod 0 x.spent (8 * out + vc) (· + n), atPort := tmod [] x.atPort (8 * out + vc) (· ++ [k]) }

def outputGrant (s : State) (node r out : Nat) : State :=
  let rt := s.router node r
  if rt.idle ∨ ¬ s.hasPort node r out ∨ ¬ s.ridgeClock node ∨ s.now < (tget Outp.reset rt.outs out).busyUntil then s
  else match s.arbiter node r out with
    | some w => s.grant node r out w
    | none => s.wakeDown node r out

def execRouterOutputGrant (node router port : Nat) (s : State) : Out := .next (outputGrant s node router port)

/-- A returned credit arrives (07 R198): SEND_CRED one up. -/
def creditReturn (s : State) (node r p vc : Nat) : State :=
  if tget 0 (s.router node r).back (8 * p + vc) = 0 ∨ ¬ s.ridgeClock node then s
  else s.modRouter node r fun x =>
    { x with back := tmod 0 x.back (8 * p + vc) (· - 1), spent := tmod 0 x.spent (8 * p + vc) (· - 1), quietAt := s.now }

def execCreditReturn (node router port vc : Nat) (s : State) : Out := .next (creditReturn s node router port vc)

/-! ### Delivery (07 R203, R208, R209) -/

/-- The target ID a packet at a local port is checked against; DRAM needs its address. -/
def State.portTid (s : State) (node r p : Nat) (k : Pkt) : Nat :=
  if node = 8 then
    let pv := localOfPort node r p
    if r < 8 then (if pv = 0x10 then 0x1009 + r else (match s.dram.regionOf k.addr.toNat with | some i => i | none => 0x0040))
    else if pv < 0x24 then 0x1000 + (pv - 0x20) else if pv = 0x24 then 0x1004 else if pv < 0x29 then 0x1005 + (pv - 0x25)
    else 0x1011
  else if p = 7 then 0x2000 + node
  else 0x3000 + node * 0x80 + bayOfPort r p

/-- A request refused at its port by the access table (01 R36). -/
def State.denyAtPort (s : State) (node r p : Nat) (k : Pkt) : State :=
  (s.noteDenial node (s.portTid node r p k) k false).respond node r p k respDenied []

/-- Whether the table of the element behind a port admits a request or posted write. -/
def State.portAdmits (s : State) (node r p : Nat) (k : Pkt) : Bool :=
  k.checked || s.admits (s.portTid node r p k) k.src (needsOf k.opc) k.addr

/-- A late response counts in RTR_LATE of the master's router, or in the count of a hub master (07 R205). -/
def State.countLate (s : State) (mid : BitVec 12) : State :=
  let hi := mid.toNat / 256; let b := mid.toNat % 256
  if hi < 8 then s.modRouter hi (bayRouter b) fun x => { x with late := satInc x.late }
  else s.modMaster mid fun m => { m with lateCnt := satInc m.lateCnt }

/-- A response that no master takes: it ends the request it answers, or, late, is counted and frees its TAG (07 R203, R205). -/
def State.discardRsp (s : State) (mid : BitVec 12) (tag : BitVec 10) : State :=
  if (s.master mid).out.any fun o => o.tag == tag then
    s.modMaster mid fun m => { m with out := m.out.filter fun o => o.tag != tag }
  else (s.countLate mid).modMaster mid fun m => { m with quar := m.quar.filter fun q => q.1 != tag }

/-- A packet for a drained bay (07 R203 step 3): requests answered BAYDOWN, posted writes and EVT packets discarded and counted,
    responses to the bay's own requests taken and discarded. The access table answers first (01 R35). -/
def State.toDrained (s : State) (node r p : Nat) (k : Pkt) : State :=
  match k.cls with
  | .req => if s.portAdmits node r p k then s.respond node r p k respBayDown [] else s.denyAtPort node r p k
  | .pwr => if s.portAdmits node r p k then s.countDiscard node r else s.denyAtPort node r p k
  | .evt => s.countDiscard node r
  | .rsp => s.discardRsp k.src k.tag

/-- A request for a sleeping bay is held in the wake queue of its port, or answered BAYDOWN beyond 16; a posted write beyond them
    is discarded with RIDGE_DISCARD (07 R208). The first one held wakes the element. -/
def State.toSleeper (s : State) (node r p : Nat) (k : Pkt) : State :=
  let rt := s.router node r
  let q := if p = 5 then rt.wq0 else rt.wq1
  if ¬ s.portAdmits node r p k then s.denyAtPort node r p k
  else if q.length < 16 then
    s.modRouter node r fun x =>
      if p = 5 then { x with wq0 := x.wq0 ++ [{ k with checked := true }] }
      else { x with wq1 := x.wq1 ++ [{ k with checked := true }] }
  else if k.cls = .req then s.respond node r p k respBayDown []
  else (s.countDiscard node r).raiseDiscard node r p k

/-- A packet wakes the bay behind a fabric port from IDLE (18 R472). -/
def State.rouse (s : State) (node r p : Nat) : State :=
  if node < 8 ∧ (p = 5 ∨ p = 6) ∧ (s.elem 2 node (bayOfPort r p)).state = .idle then
    s.modElem 2 node (bayOfPort r p) fun e => { e with state := .active, idleAt := none }
  else s

/-- A packet reaches the element behind a local port. -/
def State.toElement (s : State) (node r p : Nat) (k : Pkt) : State :=
  let s := s.rouse node r p
  if k.cls = .rsp then s.modMaster k.src fun m => { m with rsps := m.rsps ++ [k] }
  else s.modRouter node r fun x => { x with inbox := tmod [] x.inbox p (· ++ [k]) }

/-- Whether DRAINn is set for a fabric port. -/
def Router.drained (x : Router) (p : Nat) : Bool := (p == 5 && x.drain0) || (p == 6 && x.drain1)

/-- What the port of a bay does with packets (13 Table 13.2; 18 R471, R472): delivered; disposed of as for a drained bay; held in the wake
    queue, all of them in NAP, requests and posted writes alone in DEEP. -/
inductive PortWay where
  | deliver | drained | held (all : Bool)
deriving DecidableEq, Repr

def State.portWay (s : State) (d r p : Nat) : PortWay :=
  let b := bayOfPort r p
  let e := s.elem 1 d 0
  if s.bayAsleep d b then .held false
  else if (s.router d r).drained p || !(s.bay d b).portOpen then .drained
  else if e.state = .nap ∨ e.phase ≠ .steady then .held true
  else .deliver

/-- A packet that is no request reaches the port of a sleeping bay: held in NAP; in DEEP a response is taken and discarded, an EVT packet
    discarded and counted (18 R471, R472). -/
def State.sleeperOther (s : State) (d r p : Nat) (k : Pkt) (all : Bool) : State :=
  if all then s.modRouter d r fun x => if p = 5 then { x with wq0 := x.wq0 ++ [k] } else { x with wq1 := x.wq1 ++ [k] }
  else s.toDrained d r p k

/-- A response or EVT packet waits at the port of a sleeping bay whose wake queue holds 16 packets (07 R208); DESIGN CHOICE (155). -/
def State.waitsAtPort (s : State) (node r p : Nat) (k : Pkt) : Bool :=
  let x := s.router node r
  decide (node < 8) && p != 7 && (k.cls == .rsp || k.cls == .evt) && s.portWay node r p == .held true &&
  decide (16 ≤ (if p = 5 then x.wq0 else x.wq1).length)

/-- The packet at a local port is checked once more (07 R178) and delivered, disposed of or held. -/
def localDeliver (s : State) (node r p vc : Nat) (u : FlitUpset) : State :=
  let key := 8 * p + vc
  match tget [] (s.router node r).atPort key with
  | [] => s
  | k :: _ =>
    if p < 5 ∨ ¬ s.ridgeClock node ∨ s.waitsAtPort node r p k then s else
    let s := s.modRouter node r fun x =>
      { x with atPort := tmod [] x.atPort key List.tail, back := tmod 0 x.back key (· + k.flits), quietAt := s.now }
    let s := s.countCorr node r k u
    if u.bad = .header ∨ u.bad = .sideband then (s.countDiscard node r).raiseDiscard node r p k
    else
      let bad := k.ue || u.bad == .data
      let k := { k with ue := false, poison := k.poison || (bad && opcHasData k.opc) }
      if node = 8 ∨ p = 7 then s.toElement node r p k
      else match s.portWay node r p with
        | .deliver => s.toElement node r p k
        | .drained => s.toDrained node r p k
        | .held all => if k.cls = .req ∨ k.cls = .pwr then s.toSleeper node r p k else s.sleeperOther node r p k all

def execLocalPortDeliver (node router port vc : Nat) (u : FlitUpset) (s : State) : Out :=
  .next (localDeliver s node router port vc u)

/-! ### Injection (01 R18, R28, 07 R188, 08 R215) -/

/-- The flow a request belongs to (08 R214): its SRC, its class, its bytes inside the range, the meter on. -/
def State.flowOf (s : State) (src : BitVec 12) (cls : MsgClass) (a len : Nat) : Option Nat :=
  (s.flows.find? fun e => e.2.used && e.2.meterOn && e.2.mid == src && e.2.cls == cls &&
    decide (e.2.base.toNat ≤ a) && decide (a + len ≤ e.2.base.toNat + e.2.len.toNat)).map (·.1)

/-- Meter tokens now, in 10^-12 packet (08 R215). -/
def State.flowTokens (s : State) (f : Flow) : Nat :=
  min (f.burst.toNat * 1000000000000) (f.tokens + f.rate.toNat * (s.now - f.tokAt))

/-- Data bytes a request carries (08 R215). -/
def carried (opc : BitVec 5) (len : BitVec 8) : Nat := if opcHasData opc then len.toNat + 1 else 0

/-- The meter marks a packet (08 R215): a conforming packet takes a token and rides the escape VC with RT = 1; an excess packet is
    counted, DEMOTED, and raises FLOW_DEMOTED at most once per flow per 1 ms on the source die. -/
def State.meter (s : State) (node : Nat) (k : Pkt) : State × Pkt :=
  match s.flowOf k.src k.cls k.addr.toNat k.len.toNat with
  | none => (s, { k with flow := 0 })
  | some i =>
    let f := s.flow i
    let tok := s.flowTokens f
    if carried k.opc k.len ≤ f.maxBytes.toNat ∧ 1000000000000 ≤ tok then
      (s.modFlow i fun x => { x with tokens := tok - 1000000000000, tokAt := s.now, conf := x.conf + 1 },
       { k with flow := BitVec.ofNat 10 i, rt := true, demoted := false, escape := true })
    else
      let due : Bool := match f.demotedAt with
        | some t => decide (t + psMs ≤ s.now)
        | none => true
      let s := s.modFlow i fun x =>
        { x with tokens := tok, tokAt := s.now, demoted := satInc x.demoted, demotedAt := if due then some s.now else x.demotedAt }
      (if due then s.raiseEvent node (evidOf node 3 0x3A3) i none else s,
       { k with flow := BitVec.ofNat 10 i, rt := false, demoted := true })

/-- A TAG that no outstanding or quarantined request of the port holds, tried upward from `nextTag` (07 R188). -/
def MasterPort.freeTag (m : MasterPort) : Option (BitVec 10) :=
  ((List.range 1024).map fun i => m.nextTag + BitVec.ofNat 10 i).find? fun t =>
    !(m.out.any fun o => o.tag == t) && !(m.quar.any fun q => q.1 == t)

/-- A well-formed request (07 R183, R184, R187): a request opcode, BE zero outside writes and above LEN, an RMW of 4 or 8 bytes at
    an aligned address, the data bytes its opcode carries. -/
def Req.wellFormed (q : Req) : Bool :=
  let n := q.len.toNat + 1
  let lens := q.data.length
  match opcClass q.opc with
  | some .req | some .pwr =>
    if opcRmw q.opc then (n == 4 || n == 8) && q.addr.toNat % n == 0 && q.be == 0 && lens == (if q.opc.toNat / 2 = 4 then 8 + n else n)
    else if opcWrite q.opc then decide (q.be.toNat < 2 ^ (min n 64)) && lens == n
    else q.be == 0 && lens == 0
  | _ => false

/-- The response an interface makes itself: it reaches its own master with the request's TAG (01 R18). -/
def localRsp (mid : BitVec 12) (o : Outst) (resp : BitVec 3) : Pkt :=
  { src := mid, cls := .rsp, tag := o.tag, opc := 0x11, len := o.len, resp := resp, addr := o.addr }

/-- A request injected at a hard master port: decoded (01 R18, R19), its DEST formed, SRC, TAG and STAMP set, metered, and written
    into the router's input; NOTARGET is answered at once and nothing enters the network. Answers the TAG used. -/
def State.injectReq (s : State) (mid : BitVec 12) (q : Req) (hostTag : BitVec 10) : State × Option (BitVec 10) :=
  let m := s.master mid
  match m.freeTag, opcClass q.opc with
  | some tag, some cls =>
    let node := s.masterNode mid
    let a := q.addr.toNat
    let o : Outst := { tag := tag, opc := q.opc, addr := q.addr, len := q.len, atPs := s.now, hostTag := hostTag }
    let book (s : State) (dest : BitVec 16) : State :=
      if cls = .req then s.modMaster mid fun x => { x with out := x.out ++ [{ o with dest := dest }], nextTag := tag + 1 } else s
    match s.decode a with
    | some (t, _) =>
      if s.sameExtent a q.len.toNat then
        let dest := s.destOf mid t
        let s := book s dest
        let k : Pkt :=
          ({ src := mid, cls := cls, tag := tag, opc := q.opc, len := q.len, poison := q.poison, ord := q.ord,
             addr := q.addr, be := q.be, stamp := s.stamp node, coarse := s.coarse node, data := q.data } : Pkt).toDest dest
        let r := s.meter node k
        (r.1.sendFrom (destOfSrc mid) r.2, some tag)
      else
        let s := book s 0
        (if cls = .req then s.modMaster mid fun x => { x with rsps := x.rsps ++ [localRsp mid o respNoTarget] } else s, some tag)
    | none =>
      let s := book s 0
      (if cls = .req then s.modMaster mid fun x => { x with rsps := x.rsps ++ [localRsp mid o respNoTarget] } else s, some tag)
  | _, _ => (s, none)

/-- Masters that always use the privileged form (01 R29). -/
def forcePriv (s : State) (mid : BitVec 12) (opc : BitVec 5) : BitVec 5 :=
  if builtIn mid then opc ||| 1
  else if mid.toNat / 256 = 8 ∧ 0x10 ≤ mid.toNat % 256 ∧ mid.toNat % 256 < 0x30 then
    (if (s.dmaCh (mid.toNat % 256 - 0x10)).priv then opc ||| 1 else opc &&& 0x1E)
  else opc

/-- Whether a master port takes a request now: a master of the part other than a guest, fewer than 256 outstanding (07 R188), and, for
    a bay, its port open. -/
def State.mayInject (s : State) (mid : BitVec 12) : Bool :=
  let hi := mid.toNat / 256
  s.isMaster mid && decide (hi ≤ 8) && decide ((s.master mid).out.length < 256) &&
  (decide (hi = 8) || ((s.bay hi (mid.toNat % 256)).portOpen && s.dieAwake hi && (s.elem 2 hi (mid.toNat % 256)).state == .active))

/-- A bay's request between the end of P2 and P4 is held at its port (12 R333). -/
def State.holdsInject (s : State) (mid : BitVec 12) : Bool :=
  let hi := mid.toNat / 256; let b := s.bay hi (mid.toNat % 256)
  s.isMaster mid && decide (hi < 8) && s.cfg.phase == .p3 && !b.portOpen && !b.unused

def requestInject (s : State) (mid : BitVec 12) (rq : Req) : State :=
  let rq := { rq with opc := forcePriv s mid rq.opc }
  if ¬ Req.wellFormed rq then s
  else if s.mayInject mid then (s.injectReq mid rq 0).1
  else if s.holdsInject mid then
    s.modBay (mid.toNat / 256) (mid.toNat % 256) fun b => { b with heldReqs := b.heldReqs ++ [rq] }
  else s

def execRequestInject (mid : BitVec 12) (rq : Req) (s : State) : Out := .next (requestInject s mid rq)

/-! ### Responses and timeouts (07 R204, R205) -/

/-- Response timeout of a master port, µs (07 R205): RTR_TMO0 or RTR_TMO1 for a fabric port. -/
def State.timeoutUs (s : State) (mid : BitVec 12) : Nat :=
  let hi := mid.toNat / 256; let b := mid.toNat % 256
  if hi < 8 then
    let x := s.router hi (bayRouter b)
    if b % 2 = 0 then x.tmo0.toNat else x.tmo1.toNat
  else (s.master mid).tmoUs.toNat

/-- The response at the head of a master's list: with the request it answers, where that request is outstanding. -/
def State.takeRsp (s : State) (mid : BitVec 12) : Option (Pkt × Option Outst × State) :=
  match (s.master mid).rsps with
  | [] => none
  | k :: _ =>
    let s1 := s.modMaster mid fun m => { m with rsps := m.rsps.tail }
    match (s.master mid).out.find? fun o => o.tag == k.tag with
    | some o =>
      some (k, some o, s1.modMaster mid fun m => { m with out := m.out.filter fun x => x.tag != k.tag })
    | none =>
      some (k, none, (s1.countLate mid).modMaster mid fun m => { m with quar := m.quar.filter fun q => q.1 != k.tag })

/-- REQUEST_TIMEOUT (07 R205). -/
def requestTimeout (s : State) (mid : BitVec 12) (tag : BitVec 10) : State :=
  let m := s.master mid
  match m.out.find? fun o => o.tag == tag with
  | none => s
  | some o =>
    let t := s.timeoutUs mid * psUs
    if s.now < o.atPs + t ∨ (m.rsps.any fun k => k.tag == tag) then s
    else
      let node := s.masterNode mid
      let s := s.modMaster mid fun x =>
        { x with rsps := x.rsps ++ [localRsp mid o respTimeout], quar := x.quar ++ [(tag, s.now + 4 * t)] }
      s.raiseEvent node (evidOf node 2 0x3A2) (mid.toNat + atLo tag.toNat 12)
        (some (mkEntry 0x03 2 (evidOf node 2 0x3A2) (node + atLo mid.toNat 4)
          (o.addr.toNat + atLo tag.toNat 48 + atLo o.opc.toNat 58)))

def execRequestTimeout (mid : BitVec 12) (tag : BitVec 10) (s : State) : Out := .next (requestTimeout s mid tag)

/-- A quarantined TAG is freed after four timeout periods (07 R205). -/
def tagQuarantineEnd (s : State) (mid : BitVec 12) (tag : BitVec 10) : State :=
  s.modMaster mid fun m => { m with quar := m.quar.filter fun q => !(q.1 == tag && decide (q.2 ≤ s.now)) }

def execTagQuarantineEnd (mid : BitVec 12) (tag : BitVec 10) (s : State) : Out := .next (tagQuarantineEnd s mid tag)

/-! ### Idle and wake (07 R206, R207) -/

/-- The conditions of R206 hold at a router now. -/
def State.quiet (s : State) (node r : Nat) : Bool :=
  let x := s.router node r
  x.inq.all (fun e => e.2 == []) && x.spent.all (fun e => e.2 == 0) && x.wakeFrom == [] && !x.keepAwake &&
  (match siteOfRouter node r with
   | some l => let e := s.link (linkKeyOf node l)
               e.spent.all (fun q => q.2 == 0) && e.rxPart.all fun q => q.2.isNone
   | none => true)

def routerIdleEntry (s : State) (node r : Nat) : State :=
  let x := s.router node r
  if s.hasRouter node r ∧ s.ridgeClock node ∧ ¬ x.idle ∧ s.quiet node r ∧ x.idleDly ≠ 0 ∧ x.idleDly.toNat ≤ s.nocCycles (s.now - x.quietAt) then
    s.modRouter node r fun x => { x with idle := true, wakeAt := none }
  else s

def execRouterIdleEntry (node router : Nat) (s : State) : Out := .next (routerIdleEntry s node router)

def routerWake (s : State) (node r : Nat) : State :=
  let x := s.router node r
  if x.idle ∧ x.wakeAt.isSome ∧ s.ridgeClock node then
    (s.modRouter node r fun x => { x with idle := false, wakeAt := none, wakeFrom := [], quietAt := s.now }).wakeCount 3 node r
  else s

def execRouterWake (node router : Nat) (s : State) : Out := .next (routerWake s node router)

/-! ### Router registers (07 R210, Table 7.10 to Table 7.15) -/

/-- RTR_STATUS (07 Table 7.11). -/
def State.rtrStatus (s : State) (d r : Nat) : Nat :=
  let x := s.router d r
  let up : Bool := match siteOfRouter d r with
    | some l => s.siteActive d l
    | none => false
  atBit x.idle 0 + atBit x.drain0 1 + atBit x.drain1 2 + atBit up 3 + atLo x.wq0.length 4 + atLo x.wq1.length 9

/-- RTR_CRED_p_v (07 Table 7.14). -/
def State.rtrCred (s : State) (d r p v : Nat) : Nat :=
  if s.hasPort d r p then s.sendCred d r p v + atLo (s.rxOcc d r p v) 8 else 0

/-- A router register as 32 bits; an offset that holds none reads 0. -/
def State.rtrRead (s : State) (d r off : Nat) : Nat :=
  let x := s.router d r
  if off = 0x000 then s.rtrStatus d r
  else if off = 0x004 then x.idleDly.toNat + atBit x.keepAwake 16
  else if off = 0x00C then x.corr.toNat
  else if off = 0x010 then x.discard.toNat
  else if off = 0x014 then x.late.toNat
  else if off = 0x018 then x.tmo0.toNat
  else if off = 0x01C then x.tmo1.toNat
  else if 0x100 ≤ off ∧ off < 0x200 then s.rtrCred d r ((off - 0x100) / 0x20) (off % 0x20 / 4)
  else if 0x200 ≤ off ∧ off < 0x300 then (tget 0 x.scred ((off - 0x200) / 4)).toNat
  else if 0x400 ≤ off ∧ off < 0x480 ∧ s.hasPort d r ((off - 0x400) / 0x10) then
    let b := (tget Outp.reset x.outs ((off - 0x400) / 0x10)).bucket
    if off % 0x10 = 0 then b.rate.toNat + atLo b.burst.toNat 8
    else if off % 0x10 = 4 then s.bucketNow b / 256
    else 0
  else 0

/-- A write of RTR_RT_p: above 154 ignored; otherwise the bucket is set full at the new BURST (07 R196). -/
def State.rtrRtWrite (s : State) (d r p v : Nat) : State :=
  if ¬ s.hasPort d r p ∨ 154 < bitsOf v 0 8 then s
  else s.modRouter d r fun x =>
    { x with outs := tmod Outp.reset x.outs p fun o =>
        { o with bucket := { rate := BitVec.ofNat 8 v, burst := BitVec.ofNat 12 (v / 256), tok256 := bitsOf v 8 12 * 256, atPs := s.now } } }

/-- A write of RTR_CFG restarts the idle count (07 R206). -/
def State.rtrCfgWrite (s : State) (d r v : Nat) : State :=
  s.modRouter d r fun x => { x with idleDly := BitVec.ofNat 10 v, keepAwake := bitOf v 16, quietAt := s.now,
                                    idle := x.idle && !bitOf v 16 && bitsOf v 0 10 != 0 }

/-- RTR_CRED of every port and VC latched into RTR_SCRED (07 R200). -/
def State.rtrSnap (s : State) (d r : Nat) : State :=
  s.modRouter d r fun x =>
    { x with scred := (List.range 64).foldl (fun t i => tput 0 t i (BitVec.ofNat 32 (s.rtrCred d r (i / 8) (i % 8)))) x.scred }

def State.rtrSnapDie (s : State) (d : Nat) : State := (List.range 48).foldl (fun s' r =>
  s'.modRouter d r fun x =>
    { x with scred := (List.range 64).foldl (fun t i => tput 0 t i (BitVec.ofNat 32 (s.rtrCred d r (i / 8) (i % 8)))) x.scred }) s

def State.rtrClr (s : State) (d r : Nat) : State :=
  s.modRouter d r fun x => { x with corr := 0, discard := 0, late := 0 }

/-- A write of a router register by `src`: RTR_CFG, RTR_TMOn and RTR_RT_p take the gable controller's writes alone (00 Writer column). -/
def State.rtrWrite (s : State) (src : BitVec 12) (d r off v : Nat) : State :=
  let gable := src == 0x800
  if off = 0x004 ∧ gable then s.rtrCfgWrite d r v
  else if off = 0x008 then
    let s := if bitOf v 0 then s.rtrSnap d r else s
    let s := if bitOf v 1 then s.rtrSnapDie d else s
    if bitOf v 2 then s.rtrClr d r else s
  else if off = 0x018 ∧ gable ∧ bitsOf v 0 20 ≠ 0 then s.modRouter d r fun x => { x with tmo0 := BitVec.ofNat 20 v }
  else if off = 0x01C ∧ gable ∧ bitsOf v 0 20 ≠ 0 then s.modRouter d r fun x => { x with tmo1 := BitVec.ofNat 20 v }
  else if 0x400 ≤ off ∧ off < 0x480 ∧ off % 0x10 = 0 ∧ gable then s.rtrRtWrite d r ((off - 0x400) / 0x10) v
  else s

def rtrAddr (d r off : Nat) : Nat := dieBase d + 0x100000 + r * 0x2000 + off

/-- A direct write of a router register. -/
def rtrDirect (w : Who) (d r off v : Nat) (s : State) : Out :=
  .next (s.access w (rtrAddr d r off) true fun s => regOk (if r < 48 then s.rtrWrite w.src d r off v else s) 0)

def execRtrRtWrite (w : Who) (die router port : Nat) (data : BitVec 32) (s : State) : Out :=
  rtrDirect w die router (0x400 + port * 0x10) data.toNat s
def execRtrCfgWrite (w : Who) (die router : Nat) (data : BitVec 32) (s : State) : Out :=
  rtrDirect w die router 0x004 data.toNat s
def execRtrSnap (w : Who) (die router : Nat) (s : State) : Out := rtrDirect w die router 0x008 1 s
def execRtrSnapDie (w : Who) (die router : Nat) (s : State) : Out := rtrDirect w die router 0x008 2 s
def execRtrClrCnt (w : Who) (die router : Nat) (s : State) : Out := rtrDirect w die router 0x008 4 s

end Sys2Proof.Machine
end

