-- ==== Sys2Proof/Machine/Serve.lean ====
section
/-! DEFINITION. Mailbox requests: the checks every request passes, the answer, completions and notifications (17 R438 to R444). -/

namespace Sys2Proof.Machine

/-! ### Sessions (17 R443) -/

/-- The session ID of a bound mailbox: GEN x 0x100 + m; 0 when unbound. -/
def State.sid (s : State) (m : Nat) : Nat := let b := s.mbx m; if b.bound then b.gen.toNat * 256 + m else 0

/-- The mailbox a session ID names. -/
def sidMbx (sid : Nat) : Nat := sid % 256

/-- A session that is open. -/
def State.sidOpen (s : State) (sid : Nat) : Bool := decide (sid ≠ 0) && s.sid (sidMbx sid) == sid

/-- Roles of a session (12 R325). -/
def roleT : Nat := 0
def roleF : Nat := 1
def roleM : Nat := 2
def roleC : Nat := 3
def State.hasRole (s : State) (m role : Nat) : Bool := (s.mbx m).roles.getLsbD role

/-! ### Requests and answers (17 Table 17.6 to Table 17.8) -/

/-- A request as MBX_REQ holds it. -/
structure Request where
  cmd : Nat
  seq : Nat
  len : Nat
  flags : Nat
  session : Nat
  res : Nat
  arg : List (BitVec 8)
deriving DecidableEq, Repr

def Mbx.request (b : Mbx) : Request :=
  let h := leNat (tabBytes b.req 0 16)
  { cmd := bitsOf h 0 16, seq := bitsOf h 16 16, len := bitsOf h 32 16, flags := bitsOf h 48 16, session := bitsOf h 64 32,
    res := bitsOf h 96 32, arg := tabBytes b.req 16 (min (bitsOf h 32 16) 240) }

/-- An argument of `n` bytes at offset `off` of the arguments. -/
def Request.num (r : Request) (off n : Nat) : Nat := numAt r.arg off n
/-- Reserved argument bytes that are all 0. -/
def Request.zero (r : Request) (off n : Nat) : Bool := (bytesAt r.arg off n).all (· == 0)

/-- A command's answer: STATUS and results. -/
structure Reply where
  status : Nat
  data : List (BitVec 8) := []
deriving DecidableEq, Repr

def stOk : Nat := 0x00
def stAccepted : Nat := 0x01
def stBusy : Nat := 0x02
def stRefusedDeadline : Nat := 0x03
def stRefusedResource : Nat := 0x04
def stDenied : Nat := 0x05
def stBadCommand : Nat := 0x06
def stBadArgument : Nat := 0x07
def stVersion : Nat := 0x08
def stState : Nat := 0x09
def stFault : Nat := 0x0A
def stAuth : Nat := 0x0B
def stPending : Nat := 0x0C

def okReply (data : List (BitVec 8)) : Reply := { status := stOk, data := data }
def bare (status : Nat) : Reply := { status := status }

/-- A reply that is written later: the request was taken and its answer waits for an apply instant (11 R294). -/
def stLater : Nat := 0x100

/-- A status that is final (17 Table 17.8). -/
def finalStatus (st : Nat) : Bool := st != stAccepted && st != stBusy && st != stPending

/-- The command codes of Table 17.10. -/
def knownCodes : List Nat :=
  [0x0000, 0x0001, 0x0100, 0x0101, 0x0102, 0x0103, 0x0104, 0x0105, 0x0106, 0x0107, 0x0108, 0x0109, 0x010A, 0x0110] ++
  [0x0200, 0x0201, 0x0202, 0x0203, 0x0300, 0x0301, 0x0302, 0x0303, 0x0304, 0x0305, 0x0306, 0x0307, 0x0310, 0x0311, 0x0312, 0x0313] ++
  [0x0314, 0x0320, 0x0321, 0x0322, 0x0400, 0x0401, 0x0500, 0x0501, 0x0502, 0x0503, 0x0504, 0x0505, 0x0506] ++
  [0x0600, 0x0601, 0x0602, 0x0603, 0x0604, 0x0605, 0x0606, 0x0700, 0x0701, 0x0702, 0x0800, 0x0801, 0x0802, 0x0803, 0x0804, 0x0805, 0x0806] ++
  [0x0900, 0x0901, 0x0902, 0x0903]

/-- A header or answer block: STATUS, SEQ, LENGTH with DUP and CPL, SESSION, then the results in a 256-byte buffer. -/
def answerBytes (status seq : Nat) (dup cpl : Bool) (session : Nat) (data : List (BitVec 8)) : Tab (BitVec 8) :=
  tabWrite [] 0 (leBytes 4 (status + atLo seq 16) ++ leBytes 4 (data.length + atBit dup 16 + atBit cpl 17) ++ leBytes 4 session ++
    leBytes 4 0 ++ data)

/-! ### Notifications (17 Table 17.4, R454) -/

/-- A condition of mailbox m rises: MBX_NOTIFY m when its bit is enabled, and NOTIFY for a session of the service-SPI target. -/
def State.mbxRise (s : State) (m bit : Nat) : State :=
  let b := s.mbx m
  if b.irqEn.getLsbD bit then
    let s := s.raiseHub (0x300 + m) (2 ^ bit) none
    if b.bound ∧ b.opener = 0x8FF then s.modMbx m fun b => { b with notify := true } else s
  else s

/-- GSTATE takes a value, and every mailbox that asks for it is notified of a change. -/
def State.setGstate (s : State) (g : GState) : State :=
  if s.gable.gstate = g then s
  else (List.range 64).foldl (fun s m => s.mbxRise m 2) (s.modGable fun x => { x with gstate := g })

/-! ### Completions (17 R440) -/

/-- The request token by which a hardware sequence finds the request that waits for it: session ID x 65536 + SEQ. -/
def State.token (s : State) (m : Nat) (r : Request) : Nat := s.sid m * 65536 + r.seq

/-- Completions are shown while the firmware runs (17 R449, R452). -/
def State.gableServes (s : State) : Bool := s.gable.gstate == .running || s.gable.gstate == .recovery

def showBytes (c : Completion) (sid : Nat) : Tab (BitVec 8) := answerBytes c.status.toNat c.seq.toNat false true sid c.data

/-- The oldest held completion is shown, where none is and one waits. -/
def State.showNext (s : State) (m : Nat) : State :=
  let b := s.mbx m
  if b.cplValid ∨ ¬ s.gableServes then s
  else
    match b.queue with
    | [] => s
    | c :: rest => (s.modMbx m fun b => { b with queue := rest, cplValid := true, cpl := showBytes c (s.sid m) }).mbxRise m 1

/-- The last 32 final statuses of a session (17 R441). -/
def Mbx.record (b : Mbx) (seq status : Nat) : Mbx :=
  { b with recorded := ((BitVec.ofNat 16 seq, BitVec.ofNat 8 status) :: b.recorded).take 32 }

/-- A command answered ACCEPTED ends: its completion joins the session's, unless the session is gone (17 R440, R445). -/
def State.complete (s : State) (tok status : Nat) (data : List (BitVec 8)) : State :=
  let sid := tok / 65536
  let seq := BitVec.ofNat 16 tok
  let m := sidMbx sid
  if s.sidOpen sid ∧ ((s.mbx m).running.any fun r => r.seq == seq) then
    (s.modMbx m fun b =>
      ({ b with running := b.running.filter fun r => r.seq != seq,
                queue := b.queue ++ [{ ready := true, seq := seq, status := BitVec.ofNat 8 status, data := data }] } : Mbx).record
        (tok % 65536) status).showNext m
  else s

/-- The same for a request that may be waiting. -/
def State.completeOpt (s : State) (tok : Option Nat) (status : Nat) (data : List (BitVec 8)) : State :=
  match tok with
  | some t => s.complete t status data
  | none => s

def State.completeAll (s : State) (toks : List Nat) (status : Nat) (data : List (BitVec 8)) : State :=
  toks.foldl (fun s t => s.complete t status data) s

/-- Completions held for a session: running, waiting and shown (17 R440). -/
def Mbx.heldCount (b : Mbx) : Nat := b.running.length + b.queue.length + bnat b.cplValid

/-! ### Serving a request (17 R439, R441, R442) -/

/-- A command of Table 17.10: its code, whether it may answer ACCEPTED, the role, owner or opener check, the argument check, and its own
    checks and effect. -/
structure Command where
  code : Nat
  async : Bool := false
  may : State → Nat → Request → Bool := fun _ _ _ => true
  argOk : State → Request → Bool
  body : State → Nat → Request → State × Reply
  /-- what follows once the answer is written -/
  after : State → Nat → State := fun s _ => s

/-- The answer is written to MBX_RSP: REQ_BUSY falls, RSP_VALID rises, LAST_SEQ takes a final status (17 Table 17.3). -/
def State.writeAnswer (s : State) (m seq status : Nat) (dup : Bool) (session : Nat) (data : List (BitVec 8)) : State :=
  ((s.modMbx m fun b =>
    { b with ringing := false, deferred := false, rspValid := true, rsp := answerBytes status seq dup false session data,
             lastSeq := if finalStatus status then BitVec.ofNat 16 seq else b.lastSeq }).modGable fun g => { g with rr := m }).mbxRise m 0

/-- The SESSION check (17 R443). -/
def State.sessionOk (s : State) (m : Nat) (r : Request) : Bool :=
  let open1 := r.cmd / 256 == 0
  -- a session that is closing while its load runs executes nothing more (17 R445)
  if s.cfg.keepClosing ∧ s.cfg.keepSess = some (s.sid m) then false
  else if (s.mbx m).bound then r.session == s.sid m || (r.session == 0 && open1)
  else r.session == 0 && (open1 || r.cmd == 0x0900)

/-- The gable subsystem has its clock and its power: the core was started, GCLK, HCLK and CFGCLK run, and the H-die is not in package DEEP
    (12 R312; 18 R464, R474). -/
def State.engineRuns (s : State) : Bool := s.cfg.coreUp && !s.cfg.bootFault && (s.clk.pkg == .active || s.clk.pkg == .entering)

/-- A doorbell that rings with FLOW_ADMIT or FLOW_RELEASE, not taken yet. -/
def Mbx.flowBell (b : Mbx) : Bool := b.ringing && !b.deferred && (b.request.cmd == 0x0200 || b.request.cmd == 0x0201)

/-- A doorbell to be taken; one with FLOW_ADMIT or FLOW_RELEASE only after those of the other mailboxes rung before it (08 R223). -/
def State.mayTake (s : State) (m : Nat) : Bool :=
  let b := s.mbx m
  b.ringing && !b.deferred &&
    (!b.flowBell || (List.range 64).all fun k => !(s.mbx k).flowBell || decide (b.rungNo ≤ (s.mbx k).rungNo))

/-- This mailbox is next in the round-robin order of those whose doorbells may be taken (17 R439; 08 R223). -/
def State.mbxTurn (s : State) (m : Nat) : Bool :=
  let dist (k : Nat) : Nat := (k + 64 - (s.gable.rr + 1) % 64) % 64
  s.mayTake m && (List.range 64).all fun k => !s.mayTake k || decide (dist m ≤ dist k)

/-- Running a command that passed its checks: an A command is entered as running while its body runs. -/
def Command.run (c : Command) (s : State) (m : Nat) (r : Request) : State × Reply :=
  if c.async then
    if 16 ≤ (s.mbx m).heldCount then (s, bare stBusy)
    else
      let e : Running := { cmd := BitVec.ofNat 16 r.cmd, seq := BitVec.ofNat 16 r.seq }
      let p := c.body (s.modMbx m fun b => { b with running := b.running ++ [e] }) m r
      if p.2.status = stAccepted then p
      else (p.1.modMbx m fun b => { b with running := b.running.filter fun x => x.seq != e.seq }, p.2)
  else c.body s m r

/-- The checks of Table 17.9 in order, then the command; the state after it, the reply, and whether the reply is a repeat. -/
def Command.judge (c : Command) (s : State) (m : Nat) (r : Request) : State × Reply × Bool :=
  let b := s.mbx m
  let seq := BitVec.ofNat 16 r.seq
  let inSession := r.session != 0 && r.session == s.sid m
  if r.flags ≠ 0 ∨ r.res ≠ 0 ∨ 240 < r.len then (s, bare stBadArgument, false)
  else if s.sessionOk m r = false then (s, bare stState, false)
  else if inSession ∧ (b.running.any fun x => x.seq == seq) then (s, bare stPending, false)
  else
    match (if inSession then b.recorded.find? fun e => e.1 == seq else none) with
    | some e => (s, bare e.2.toNat, true)
    | none =>
      if r.cmd ≠ c.code then (s, bare stBadCommand, false)
      else if s.gable.gstate = .recovery ∧ ¬ (r.cmd / 256 = 0 ∨ r.cmd / 256 = 1 ∨ r.cmd / 256 = 9) then (s, bare stState, false)
      else if c.may s m r = false then (s, bare stDenied, false)
      else if c.argOk s r = false then (s, bare stBadArgument, false)
      else let p := c.run s m r; (p.1, p.2, false)

/-- A ringing doorbell is taken: a request that names this command, or no command of the table, is judged and answered. While the engine
    restarts it answers BUSY, when it has failed FAULT, and while Ladder halts the core the doorbell waits (17 R449, R451, R452). -/
def Command.serve (c : Command) (m : Nat) (s : State) : State :=
  let b := s.mbx m
  let r := b.request
  if 64 ≤ m ∨ ¬ s.engineRuns ∨ ¬ b.ringing ∨ b.deferred ∨ ¬ s.mbxTurn m ∨ (r.cmd ≠ c.code ∧ r.cmd ∈ knownCodes) then s
  else
    match s.gable.gstate with
    | .halted => s
    | .restarting => s.writeAnswer m r.seq stBusy false 0 []
    | .failed => s.writeAnswer m r.seq stFault false 0 []
    | _ =>
      let inSession := r.session != 0 && r.session == s.sid m
      let s := if inSession then s.modMbx m fun b => { b with hbAt := s.now, hbUsed := 0 } else s
      let sidBefore := s.sid m
      let p := c.judge s m r
      if p.2.1.status = stLater then
        (p.1.modMbx m fun b => { b with deferred := true }).modGable fun g => { g with rr := m }
      else
      let opened := r.cmd == 0x0900 && p.2.1.status == stOk && !p.2.2
      let sess := if opened then p.1.sid m else if inSession then sidBefore else 0
      let s1 := p.1.writeAnswer m r.seq p.2.1.status p.2.2 sess p.2.1.data
      let keeps := (inSession || opened) && finalStatus p.2.1.status && !p.2.2 &&
        !((s1.mbx m).recorded.any fun e => e.1.toNat == r.seq) && !((s1.mbx m).running.any fun e => e.seq.toNat == r.seq)
      let s2 := if keeps then s1.modMbx m fun b => b.record r.seq p.2.1.status else s1
      if p.2.1.status = stOk ∧ ¬ p.2.2 then c.after s2 m else s2

/-- The answer of a request whose answer waited: written and recorded as any final answer (17 R439, R441). -/
def State.answerLater (s : State) (tok : Option Nat) (status : Nat) (data : List (BitVec 8)) : State :=
  match tok with
  | none => s
  | some t =>
    let m := sidMbx (t / 65536)
    let b := s.mbx m
    if b.deferred ∧ b.request.seq = t % 65536 then
      (s.writeAnswer m (t % 65536) status false (if s.sid m = t / 65536 then t / 65536 else 0) data).modMbx m fun b =>
        if b.bound then b.record (t % 65536) status else b
    else s

/-- Exactly `n` argument bytes, those from `off` on being reserved. -/
def lenIs (n : Nat) (r : Request) : Bool := r.len == n

/-- The configuration administrator role. -/
def needC (s : State) (m : Nat) (_ : Request) : Bool := s.hasRole m roleC
/-- The configuration administrator role, or any session in recovery. -/
def needCorRecovery (s : State) (m : Nat) (_ : Request) : Bool := s.hasRole m roleC || s.gable.gstate == .recovery
def needT (s : State) (m : Nat) (_ : Request) : Bool := s.hasRole m roleT
def needM (s : State) (m : Nat) (_ : Request) : Bool := s.hasRole m roleM

end Sys2Proof.Machine
end

