-- ==== Sys2Proof/Machine/BayOps.lean ====
section
/-! DEFINITION. A bay's border, its fabric port and its release (13 R343 to R345; 07 R203), the settings an image carries, and what
holds user I/O pads (02 R66 to R69). -/

namespace Sys2Proof.Machine

/-! ### What an image sets (02, 03, 04) -/

def portKindOf (n : Nat) : PortKind := if n % 3 = 0 then .ro else if n % 3 = 1 then .wo else .rw
def bramModeOf (n : Nat) : BramMode := if n % 3 = 0 then .k1 else if n % 3 = 1 then .k2 else .k4

/-- A block memory's mode, port uses and port clocks under an image (03 R78, R79). -/
def State.setBram (s : State) (d m : Nat) (image : BitVec 64) : State :=
  let c := Config.imageBram image d m
  s.modBram d m fun x =>
    { x with mode := bramModeOf c.1, portA := { x.portA with kind := portKindOf c.2.1.1, net := c.2.1.2.1, two := c.2.1.2.2 },
             portB := { x.portB with kind := portKindOf c.2.2.1, net := c.2.2.2.1, two := c.2.2.2.2 } }

/-- SLG_CFG of a group under an image (04 Table 4.6). -/
def State.setGroup (s : State) (d g : Nat) (image : BitVec 64) : State :=
  let c := Config.imageGroup image d g
  s.modGroup d g fun x => { x with streamClk := c.1, autostart := c.2 }

/-- The settings of a bay's block memories and slice group under the image it holds. -/
def State.setBayParts (s : State) (d b : Nat) (image : BitVec 64) : State :=
  ((List.range 26).foldl (fun s i => s.setBram d (26 * b + i) image) s).setGroup d b image

/-! ### The freeze of a slice group (20 R517) -/

/-- The freeze of a group is lifted: writes held for its slices take effect first. -/
def State.unfreeze (s : State) (d g : Nat) : State :=
  if (s.group d g).frozen then
    let mine (e : Nat × Nat × BitVec 2) : Bool := e.1 == d && e.2.1 / 16 == g
    let held := s.lad.slgHeld.filter mine
    let s := s.modGroup d g fun x => { x with frozen := false }
    let s := s.modLad fun l =>
      { l with slgHeld := l.slgHeld.filter fun e => !mine e,
               slgFreeze := tmod 0 l.slgFreeze (4 * d + g / 32) fun w => w &&& ~~~(BitVec.ofNat 32 (2 ^ (g % 32))) }
    s.slHeld d g held
  else s

/-! ### The fabric port (07 R203) -/

def bayMid (d b : Nat) : BitVec 12 := BitVec.ofNat 12 (d * 0x100 + b)

def State.setDrain (s : State) (d b : Nat) (v : Bool) : State :=
  s.modRouter d (bayRouter b) fun x => if bayPort b = 5 then { x with drain0 := v } else { x with drain1 := v }

/-- Responses that wait for a bay that is clamped are discarded (07 R203, R205). -/
def State.dropRsps (s : State) (d b : Nat) : State :=
  let mid := bayMid d b
  (s.master mid).rsps.foldl (fun (s : State) k => s.discardRsp mid k.tag) (s.modMaster mid fun m => { m with rsps := [] })

/-- What a bay had begun to send on a VC (07 R203 step 2): the packets that stand in it, the last with its missing data flits poisoned. -/
def begun (depth : Nat) : List Pkt → List Pkt
  | [] => []
  | k :: t =>
    if k.noCred then k :: begun depth t
    else if depth = 0 then []
    else if k.flits ≤ depth then k :: begun (depth - k.flits) t
    else [{ k with ue := true }]

/-- The port takes no more flits from the bay (07 R203 step 2): a packet not begun is never sent, and its request ends. -/
def State.cutSending (s : State) (d b : Nat) : State :=
  let r := bayRouter b; let p := bayPort b
  let gone := (List.range 8).flatMap fun v =>
    let q := tget [] (s.router d r).inq (8 * p + v)
    q.drop (begun 8 q).length
  let s := s.modRouter d r fun x =>
    { x with inq := (List.range 8).foldl (fun t v => tmod [] t (8 * p + v) (begun 8)) x.inq }
  s.modMaster (bayMid d b) fun m =>
    { m with out := m.out.filter fun o => !(gone.any fun k => k.cls == .req && k.src == bayMid d b && k.tag == o.tag) }

/-- No request of the bay is outstanding: each has its response or has timed out (07 R203 step 4). -/
def State.portQuiet (s : State) (d b : Nat) : Bool :=
  let m := s.master (bayMid d b)
  m.out.all fun o => m.rsps.any fun k => k.tag == o.tag

/-- Every packet that stands at the port is disposed of (07 R203 step 3). -/
def State.disposeAtPort (s : State) (d b : Nat) : State :=
  let r := bayRouter b; let p := bayPort b
  let ks := (List.range 8).flatMap fun v => tget [] (s.router d r).atPort (8 * p + v)
  let s := ks.foldl (fun s k => s.toDrained d r p k) s
  s.modRouter d r fun x => { x with atPort := x.atPort.filter fun e => e.1 / 8 != p }

/-- The port's credits as the packets that still stand at it leave them: all of them where none does (07 R199, R203 step 5). RX_OCC is 0:
    complete packets of the bay that still wait to go on hold no credit of it any more. -/
def State.reclaim (s : State) (d b : Nat) : State :=
  let r := bayRouter b; let p := bayPort b
  s.modRouter d r fun x =>
    { x with
      back := x.back.filter fun e => e.1 / 8 != p,
      inq := (List.range 8).foldl (fun t v => tmod [] t (8 * p + v) fun q => q.map fun k => { k with noCred := true }) x.inq,
      spent := (List.range 8).foldl (fun t v =>
        tput 0 t (8 * p + v) (((tget [] x.atPort (8 * p + v)).map Pkt.flits).foldl (· + ·) 0)) x.spent }

/-! ### Clamp and release (13 R343 to R345) -/

/-- The clamp edge: the border takes its defaults, FCLK is gated, the port closes, a halt request goes to every slice of the group. The
    port drains, but for the entry into DEEP, which holds requests in the wake queue (18 R471). -/
def State.clampBay (s : State) (d b : Nat) (drain : Bool) : State :=
  let out := s.slotLevels d b true
  let seen := s.slotLevels d b false
  let s := s.modBay d b fun x =>
    { x with clamped := true, clampedBy := x.border, fclkOn := false, portOpen := false, drained := false, ready := false,
             slotHold := out, slotSeen := seen }
  let s := if drain then s.setDrain d b true else s
  let s := (s.dropRsps d b).cutSending d b
  let s := s.modRouter d (bayRouter b) fun x => { x with inbox := tput [] x.inbox (bayPort b) [] }
  (s.unfreeze d b).slBits d b [] (groupSlices b)

/-- A fenced die takes no bay command, and releases no bay (13 R362). -/
def State.fenced (s : State) (d : Nat) : Bool := (s.die d).leggett.fenced

/-- The release: INIT into every flip-flop, the slices at their reset values, FCLK enabled, the border released and the port open with all
    its credits; the AUTOSTART slices start (13 R345). -/
def State.releaseBay (s : State) (d b : Nat) : State :=
  let s := s.modBay d b fun x =>
    { x with ffs := .held [], clamped := false, fclkOn := true, portOpen := true, state := .active, repair := false, drained := true, ready := false }
  let s := (s.setDrain d b false).reclaim d b
  s.resetGroup d b (s.bay d b).ident

/-- The release at the end of a load or restore, with the status of its command. On a fenced die the bay stays clamped, and is DOWN (13 R362);
    DESIGN CHOICE (157). -/
def State.releaseOrDown (s : State) (d b : Nat) : State × Nat :=
  if s.fenced d then (s.modBay d b fun x => { x with state := .down, repair := false, ready := false }, 0x09) else (s.releaseBay d b, 0x00)

/-! ### Wipe forms (12 R330; 13 R350, R360) -/

/-- The 2,304 configuration frames of a bay become zero. -/
def State.wipeFrames (s : State) (d b : Nat) : State :=
  s.modDie d fun x => { x with frames := x.frames.filter fun e => e.1 / 2304 != b }

/-- A slice with its memories in wipe form: X and Y zero, instruction memory HALT (12 R330). -/
def Slice.wiped (m : Slice) : Slice := { m with xmem := [], ymem := [], imem := [] }

/-- The memories of a bay in wipe form: block memories the unwritten mark, X and Y zero, instruction memory HALT. -/
def State.wipeMems (s : State) (d b : Nat) : State :=
  let s := (List.range 26).foldl (fun s i => s.modBram d (26 * b + i) fun x => { x with words := [], loaded := true }) s
  let s := s.modGroup d b fun x => { x with loaded := true }
  (groupSlices b).foldl (fun s i => s.modSlice d i Slice.wiped) s

/-! ### User I/O (02 R66 to R69) -/

/-- Every user I/O of a die is disabled (02 R67). -/
def State.padsOff (s : State) (d : Nat) : State := s.modIo d fun x => { x with pads := .disabled }

/-- The pad latches of a die capture level and enable (02 R69). -/
def State.latchPads (s : State) (d : Nat) : State :=
  let outs := (List.range 416).map fun p => s.padOut d p
  s.modIo d fun x =>
    { x with pads := .latched,
             pins := tmodAll IoPin.reset x.pins (List.range 416) fun p (y : IoPin) => { y with latch := outs.getD p .z } }

/-- HOLD keeps the level a pin has when its safe state is forced (02 R68). -/
def State.holdPads (s : State) (d : Nat) (which : Nat → Bool) : State :=
  let outs := (List.range 416).map fun p => s.padOut d p
  s.modIo d fun x =>
    { x with pins := tmodAll IoPin.reset x.pins ((List.range 416).filter which) fun p (y : IoPin) => { y with hold := outs.getD p .z } }

end Sys2Proof.Machine
end

