-- ==== Sys2Proof/Machine/Coding.lean ====
section
/-! DEFINITION. Line coding of the lanes: the 8b/10b code of IEEE 802.3 Clause 36 (09 R230) and the PRBS patterns of ITU-T O.150 (09 R248). -/

namespace Sys2Proof.Machine

/-! ### 8b/10b (09 R230)

A symbol is 9 bits: the octet HGFEDCBA and, above it, 1 for a control code group. A code group is abcdeifghj with a, which leaves first, as
bit 0. Running disparity is negative (false) or positive (true). -/

/-- abcdei of D.x at negative disparity, x from 0 to 31. -/
def code6 : List Nat :=
  [57, 46, 45, 35, 43, 37, 38, 7, 39, 41, 42, 11, 44, 13, 14, 58] ++
  [54, 49, 50, 19, 52, 21, 22, 23, 51, 25, 26, 27, 28, 29, 30, 53]

/-- abcdei of K.28 at negative disparity. -/
def code6K : Nat := 60

/-- fghj of D.x.y at negative disparity, y from 0 to 7, with D.x.P7 last. -/
def code4 : List Nat := [13, 9, 10, 3, 11, 5, 6, 7]

/-- fghj of D.x.A7 at negative disparity. -/
def code4A7 : Nat := 14

/-- fghj of K.x.y at negative disparity, y from 0 to 7. -/
def code4K : List Nat := [13, 6, 5, 3, 11, 10, 9, 14]

/-- One bits among the low `w`. -/
def onesOf (w v : Nat) : Nat := (List.range w).foldl (fun a i => a + v / 2 ^ i % 2) 0

/-- A sub-block of `w` bits at a running disparity: complemented at positive disparity where it is unbalanced, or one of those that
    change although balanced. -/
def atRd (w v : Nat) (alt rd : Bool) : Nat := if rd && (alt || 2 * onesOf w v != w) then 2 ^ w - 1 - v else v

/-- The running disparity behind a sub-block. -/
def rdAfter (w v : Nat) (rd : Bool) : Bool := if 2 * onesOf w v = w then rd else decide (w < 2 * onesOf w v)

/-- abcdei of D.x, or of K.28. -/
def enc6 (k28 : Bool) (x : Nat) (rd : Bool) : Nat := if k28 then atRd 6 code6K false rd else atRd 6 (code6.getD x 0) (x == 7) rd

/-- Where D.x.7 takes its alternate form. -/
def alt7 (x : Nat) (rd : Bool) : Bool := if rd then x == 11 || x == 13 || x == 14 else x == 17 || x == 18 || x == 20

/-- fghj of D.x.y or K.x.y. -/
def enc4 (k : Bool) (x y : Nat) (rd : Bool) : Nat :=
  if k then atRd 4 (code4K.getD y 0) true rd
  else if y = 7 then atRd 4 (if alt7 x rd then code4A7 else code4.getD 7 0) false rd
  else atRd 4 (code4.getD y 0) (y == 3) rd

def symOf (k : Bool) (x y : Nat) : BitVec 9 := BitVec.ofNat 9 (x + 32 * y + 256 * bnat k)

/-- K28.5, the comma. -/
def symK285 : BitVec 9 := symOf true 28 5

/-- The running disparity behind a code group. -/
def groupRd (rd : Bool) (g : BitVec 10) : Bool := rdAfter 4 (g.toNat / 64) (rdAfter 6 (g.toNat % 64) rd)

/-- The code group of a symbol. -/
def encodeSym (rd : Bool) (y : BitVec 9) : BitVec 10 :=
  let k := y.getLsbD 8; let x := y.toNat % 32; let h := y.toNat / 32 % 8
  let six := enc6 (k && x == 28) x rd
  BitVec.ofNat 10 (six + 64 * enc4 k x h (rdAfter 6 six rd))

/-- The symbol of a code group; none for one that is invalid at this running disparity. The control groups are K28.0 to K28.7, K23.7, K27.7,
    K29.7 and K30.7. -/
def decodeSym (rd : Bool) (g : BitVec 10) : Option (BitVec 9) :=
  let six := g.toNat % 64; let four := g.toNat / 64
  let mid := rdAfter 6 six rd
  if six = enc6 true 28 rd then ((List.range 8).find? fun y => enc4 true 28 y mid == four).map fun y => symOf true 28 y
  else match (List.range 32).find? fun x => enc6 false x rd == six with
    | none => none
    | some x =>
      match (List.range 8).find? fun y => enc4 false x y mid == four with
      | some y => some (symOf false x y)
      | none => if [23, 27, 29, 30].contains x && enc4 true x 7 mid == four then some (symOf true x 7) else none

/-- Symbols coded from a running disparity on, and the running disparity behind them. -/
def encodeSyms (rd : Bool) : List (BitVec 9) → List (BitVec 10) × Bool
  | [] => ([], rd)
  | y :: t =>
    let g := encodeSym rd y
    let r := encodeSyms (groupRd rd g) t
    (g :: r.1, r.2)

/-- Code groups decoded from a running disparity on, and the running disparity behind them. -/
def decodeSyms (rd : Bool) : List (BitVec 10) → List (Option (BitVec 9)) × Bool
  | [] => ([], rd)
  | g :: t =>
    let r := decodeSyms (groupRd rd g) t
    (decodeSym rd g :: r.1, r.2)

/-- The running disparity before a group that begins with the comma. -/
def commaRd (g : BitVec 10) : Bool := g.toNat % 64 != code6K

/-- A data octet as a symbol. -/
def dataSym (b : BitVec 8) : BitVec 9 := b.zeroExtend 9

/-- The octet of a data symbol. -/
def symByte (y : Option (BitVec 9)) : Option (BitVec 8) := match y with
  | some y => if y.getLsbD 8 then none else some (y.truncate 8)
  | none => none

/-! ### PRBS (09 R248, Table 9.8) -/

/-- Degree and middle term of a pattern's polynomial. -/
def prbsTaps (p : Nat) : Option (Nat × Nat) :=
  if p = 1 then some (7, 6) else if p = 2 then some (9, 5) else if p = 3 then some (15, 14)
  else if p = 4 then some (23, 18) else if p = 5 then some (31, 28) else none

/-- `k` bits of a generator, behind the bits `l` it gave last, newest first. -/
def prbsMore (n m : Nat) : Nat → List Bool → List Bool
  | 0, _ => []
  | k + 1, l =>
    let b := l.getD (n - 1) false ^^ l.getD (m - 1) false
    b :: prbsMore n m k ((b :: l).take n)

/-- The first bits of a generator from a seed, inverted with INV. -/
def prbsBits (p : Nat) (inv : Bool) (seed : List Bool) (k : Nat) : List Bool := match prbsTaps p with
  | some (n, m) => (seed.take n ++ prbsMore n m (k - n) (seed.take n).reverse).map (· ^^ inv)
  | none => []

/-- The bits behind the seed all follow the polynomial: a seed of the pattern's degree, then `k` correct bits. -/
def prbsFollows (p : Nat) (inv : Bool) (k : Nat) (bits : List Bool) : Bool := match prbsTaps p with
  | some (n, _) => bits.length == n + k && prbsBits p inv (bits.map (· ^^ inv)) (n + k) == bits
  | none => false

end Sys2Proof.Machine
end

