-- ==== Sys2Proof/Machine/LaneKinds.lean ====
section
/-! DEFINITION. Lane sets: their kinds and keys, their lanes, the lanes that carry symbols, and ordered sets on their way. -/

namespace Sys2Proof.Machine

/-! ### Kinds and keys (09 R229, R253) -/

/-- Key of a lane set: kind 0 a link site, 1 an Eoset-X port, 2 a quad. -/
def laneKey (kind die id : Nat) : Nat := if kind = 0 then linkKeyOf die id else if kind = 1 then 144 + id else 256 + 8 * die + id
def laneKind (k : Nat) : Nat := if k < 136 then 0 else if k < 256 then 1 else 2
/-- The die of a lane set. -/
def laneDie (k : Nat) : Nat := if k < 128 then k / 16 else if k < 256 then 8 else (k - 256) / 8
def laneId (k : Nat) : Nat := if k < 128 then k % 16 else if k < 136 then k - 128 else if k < 256 then k - 144 else k % 8

/-- Physical lanes of a set (09 Table 9.1). -/
def laneCount (k : Nat) : Nat := if laneKind k = 0 then 42 else if laneKind k = 1 then 8 else 4

/-- The sites a board declares wired at a guest site (10 R278). -/
def State.siteWired (s : State) (k g : Nat) : Bool := (s.guest g).wired.getLsbD (laneId k % 4)

/-- A lane set the part has and that R15 does not hold OFF (01 R15, 09 R253). -/
def State.hasLaneset (s : State) (kind die id : Nat) : Bool :=
  let k := laneKey kind die id
  if kind = 0 then
    (decide (die < s.fdies) && decide (id < 16) || decide (die = 8) && decide (id < 8)) &&
    (match s.facing k with
     | .key k2 => decide (laneDie k2 = 8 ∨ laneDie k2 < s.fdies)
     | .guestSite g => s.siteWired k g
     | _ => false)
  else if kind = 1 then decide (die = 8) && decide (id < 2)
  else decide (kind = 2) && decide (die < s.fdies) && decide (id < 6)

/-- The same by key. -/
def State.hasKey (s : State) (k : Nat) : Bool := s.hasLaneset (laneKind k) (laneDie k) (laneId k) && laneKey (laneKind k) (laneDie k) (laneId k) == k

/-- The guest site a link end faces. -/
def State.guestOf (s : State) (k : Nat) : Option Nat := match s.facing k with
  | .guestSite g => some g
  | _ => none

/-- The partner's key, when the partner is a die of the package. -/
def State.partner (s : State) (k : Nat) : Option Nat := match s.facing k with
  | .key k2 => some k2
  | _ => none

def LaneSet.lane (x : LaneSet) (n : Nat) : Lane := tget Lane.reset x.lanes n
def LaneSet.modLane (x : LaneSet) (n : Nat) (f : Lane → Lane) : LaneSet := { x with lanes := tmod Lane.reset x.lanes n f }
def LaneSet.allLanes (x : LaneSet) (k : Nat) (f : Lane → Lane) : LaneSet :=
  { x with lanes := tmodAll Lane.reset x.lanes (List.range (laneCount k)) fun _ => f }
def State.modLane (s : State) (k n : Nat) (f : Lane → Lane) : State := s.modLaneset k fun x => x.modLane n f

/-! Bits of the per-lane flags, at their places in LANE_STATUS (09 Table 9.12). -/
def fPolinv : Nat := 13
def fAligned : Nat := 15
def fPrbsLock : Nat := 16
def fTxuflow : Nat := 17
def fRxoflow : Nat := 18
def Lane.flag (l : Lane) (i : Nat) : Bool := l.status.getLsbD i
def Lane.setFlag (l : Lane) (i : Nat) (b : Bool) : Lane :=
  { l with status := if b then l.status ||| BitVec.ofNat 32 (2 ^ i) else l.status &&& ~~~ BitVec.ofNat 32 (2 ^ i) }

/-- What bring-up forgets of a lane: locks, runs, losses and FIFO contents; counters stay. -/
def Lane.fresh (l : Lane) : Lane :=
  { ((l.setFlag fAligned false).setFlag fPrbsLock false) with
    runSets := 0, runTsb := 0, runComma := 0, fill := 4, errAt := [], lost := false, prbsAt := none, capSent := false, rxRd := false,
    txRd := false, badSym := [], txFifo := [], rxFifo := [] }

/-- The physical lanes of a receiver that carry symbols: those the partner's transmitter detected a receiver on (09 R236, 10 R265). -/
def State.rxLanes (s : State) (k : Nat) : List Nat :=
  let src := match s.partner k with
    | some k2 => s.laneset k2
    | none => s.laneset k
  (List.range (laneCount k)).filter fun n => (src.lane n).detected

/-- Spares taken, in order 40 then 41, by the data lanes that failed DETECT (10 R265). -/
def spareMap (up : Nat → Bool) : Tab Nat :=
  let failed := (List.range 40).filter fun n => !up n
  let spares := [40, 41].filter up
  (spares.zip failed).foldl (fun t e => tput 0 t e.1 (e.2 + 1)) []

/-- A user lane reads ACTIVE once it has its K28.5, whatever its quad (09 R241). -/
def LaneSet.laneActive (x : LaneSet) (k n : Nat) : Bool :=
  !(x.lane n).unused && (x.state == .active || (laneKind k == 2 && x.state == .lock && (x.lane n).flag fAligned))

/-- The physical lane of a logical one (10 R265). -/
def physOf (map : Tab Nat) (l : Nat) : Nat := if tget 0 map 40 = l + 1 then 40 else if tget 0 map 41 = l + 1 then 41 else l

/-- Data lanes of a link: 40, or 8 of an Eoset-X port (10 R255). -/
def linkWidth (k : Nat) : Nat := if laneKind k = 1 then 8 else 40

/-! ### Ordered sets on the way (09 R246, R247; 10 R268) -/

/-- Physical lanes that carry data, or are the spare named. -/
def dataLanes (k : Nat) (map : Tab Nat) : List Nat :=
  if laneKind k = 1 then List.range 8
  else (List.range 42).filter fun n =>
    if n < 40 then !(tget 0 map 40 == n + 1 || tget 0 map 41 == n + 1) else tget 0 map n != 0

/-- CRC-8 with x^8 + x^2 + x + 1, one byte, most significant bit first (09 R235). -/
def crc8Byte (c b : BitVec 8) : BitVec 8 :=
  (List.range 8).foldl (fun c _ => if c.getLsbD 7 then (c <<< 1) ^^^ 0x07 else c <<< 1) (c ^^^ b)
def crc8 (bs : List (BitVec 8)) : BitVec 8 := bs.foldl crc8Byte 0

def setTsa : Nat := 0x5A
def setTsb : Nat := 0xA5
def setCap : Nat := 0x3C
def setCak : Nat := 0xC3
def setEia : Nat := 0x96
def setLqr : Nat := 0x66
def setLqa : Nat := 0x99
def setLqn : Nat := 0x69
def setTos : Nat := 0x20
def setRpr : Nat := 0x21
def setRpa : Nat := 0x22

/-- The 16 octets of a set (09 R235, Table 9.3). -/
def setSyms (typ : Nat) (lane : Nat) (seq : BitVec 8) (payload : List (BitVec 8)) : List (BitVec 8) :=
  let b := [BitVec.ofNat 8 typ, BitVec.ofNat 8 lane, seq] ++ bytesAt payload 0 8 ++ [0, 0, 0]
  0xBC :: b ++ [crc8 b]

/-- The symbols of a set's 16 octets: the first is K28.5. -/
def setCodes (y : List (BitVec 8)) : List (BitVec 9) := symK285 :: (y.drop 1).map dataSym

/-- A lane sends a set to a partner outside the package: as code groups, with its SEQ (09 R230, R235). -/
def Lane.sendSet (l : Lane) (typ n : Nat) (payload : List (BitVec 8)) : Lane :=
  let r := encodeSyms l.txRd (setCodes (setSyms typ n l.txSeq payload))
  { l with txSeq := l.txSeq + 1, txRd := r.2, txOut := r.1 }

/-- A set sent on some lanes, between two frames: it waits for the partner in the package, or leaves as code groups. -/
def State.sendSet (s : State) (k typ : Nat) (payload : List (BitVec 8)) (lanes : List Nat) : State :=
  if (s.partner k).isSome then
    s.modLaneset k fun x => { x with setQ := x.setQ ++ [{ typ := BitVec.ofNat 8 typ, payload := bytesAt payload 0 8, lanes := lanes }] }
  else s.modLaneset k fun x => { x with lanes := tmodAll Lane.reset x.lanes lanes fun n l => l.sendSet typ n payload }

/-- Four sets of a type on every data lane (09 R246, R247). -/
def State.sendFour (s : State) (k typ : Nat) : State :=
  (List.range 4).foldl (fun (s : State) _ => s.sendSet k typ [] (dataLanes k (s.link k).txMap)) s

end Sys2Proof.Machine
end

