-- ==== Sys2Proof/Machine/Flows.lean ====
section
/-! DEFINITION. Flow admission and release: the escape path, the bound, the checks of Table 8.4, reservations and what a flow keeps awake
(08 R211 to R227; 14 R384; 17 R447). -/

namespace Sys2Proof.Machine

/-- The code of a power state (18 Table 18.6). -/
def PowerState.num : PowerState → Nat
  | .active => 0 | .idle => 1 | .nap => 2 | .deep => 3

/-! ### Exact fractions -/

/-- A fraction of natural numbers; the denominator is not 0. -/
structure Frac where
  num : Nat
  den : Nat
deriving DecidableEq, Repr

def Frac.ofNat (n : Nat) : Frac := ⟨n, 1⟩
def Frac.plus (a b : Frac) : Frac := ⟨a.num * b.den + b.num * a.den, a.den * b.den⟩
def Frac.less (a b : Frac) : Bool := decide (a.num * b.den < b.num * a.den)
def Frac.ceil (a : Frac) : Nat := ceilDiv a.num a.den
def Frac.max (a b : Frac) : Frac := if a.less b then b else a

/-! ### Escape paths (08 R216; 07 R191, R192) -/

/-- One output on a path: router and port, and the depth of the input VC the flow reaches it from (08 Table 8.2). -/
structure Hop where
  node : Nat
  router : Nat
  port : Nat
  depth : Nat
deriving DecidableEq, Repr

def Hop.sameOut (a b : Hop) : Bool := a.node == b.node && a.router == b.router && a.port == b.port

/-- The escape path of SRC to a DEST from a router, within `fuel` routers; none where no ACTIVE site leads on. -/
def State.escapePath (s : State) (src : BitVec 12) (dest : BitVec 16) : Nat → Nat → Nat → Nat → Option (List Hop)
  | 0, _, _, _ => none
  | fuel + 1, node, r, depth =>
    let k : Pkt := ({ src := src, escape := true } : Pkt).toDest dest
    match s.chooseExit k node r with
    | some none => none
    | some (some l) =>
      let t := routerOfSite node l
      if r = t then
        let here : Hop := ⟨node, r, 4, depth⟩
        match s.facing (linkKeyOf node l) with
        | .key k2 =>
          match siteOfKey k2 with
          | some (n2, l2) => (s.escapePath src dest fuel n2 (routerOfSite n2 l2) 64).map (here :: ·)
          | none => none
        | .guestSite _ => some [here]
        | _ => none
      else
        let p := escapePort node r t
        (s.escapePath src dest fuel node (neighbour node r p) 8).map (⟨node, r, p, depth⟩ :: ·)
    | none =>
      let t := ridx node k.x.toNat k.y.toNat
      if r = t then (portOfLocal node r k.port.toNat).map fun p => [⟨node, r, p, depth⟩]
      else
        let p := escapePort node r t
        (s.escapePath src dest fuel node (neighbour node r p) 8).map (⟨node, r, p, depth⟩ :: ·)

/-- The link site by which a guest's traffic of one SRC enters: the first ACTIVE one from SRC mod 4 on, as R191 takes sites. -/
def State.guestEntry (s : State) (site : Nat) (src : BitVec 12) : Option Nat :=
  ((List.range 4).map fun i => (src.toNat + i) % 4).find? fun l => s.siteActive (s.siteDie site) l

/-- Where packets from a DEST start: node, router and depth of the input VC. -/
def State.startOf (s : State) (d : BitVec 16) (src : BitVec 12) : Option (Nat × Nat × Nat) :=
  let die := (d.extractLsb' 12 4).toNat
  if 12 ≤ die then
    (s.guestEntry (die - 12) src).map fun l => (s.siteDie (die - 12), routerOfSite (s.siteDie (die - 12)) l, 64)
  else (s.portOfDest d).map fun e => (e.1, e.2.1, 8)

def State.pathTo (s : State) (src : BitVec 12) (own dest : BitVec 16) : Option (List Hop) :=
  match s.startOf own src with
  | some (node, r, depth) => s.escapePath src dest 128 node r depth
  | none => none

/-! ### Flows and their paths -/

def Flow.trip (f : Flow) : Bool := f.roundTrip
def Flow.last (f : Flow) : Nat := f.base.toNat + f.len.toNat
/-- Flits per packet (08 Table 8.2). -/
def flitsOf (bytes : Nat) : Nat := 1 + ceilDiv bytes 64
def Flow.pReq (f : Flow) : Nat := flitsOf f.maxBytes.toNat
def Flow.pRsp (f : Flow) : Nat := flitsOf f.maxRsp.toNat

/-- The channels an interleave set puts in a range (14 R378). -/
def IlvSet.channelsIn (x : IlvSet) (lo hi : Nat) : List Nat :=
  let a := max lo x.base
  let b := min hi (x.base + x.size - 1)
  if ¬ x.valid ∨ b < a then []
  else
    let g := 2 ^ x.grain.toNat
    let w := 2 ^ x.ways.toNat
    let first := (a - x.base) / g
    let last := (b - x.base) / g
    (List.range (min (last - first + 1) w)).map fun i => x.way ((first + i) % w)

/-- The channels a flow's range touches (08 R221), ascending. -/
def State.flowChans (s : State) (f : Flow) : List Nat :=
  (List.range 8).filter fun c => (List.range 4).any fun k => ((s.dram.ilv k).channelsIn f.base.toNat f.last).contains c

/-- One leg of a flow: a channel, or none for a destination that is no DRAM, with the request path and the return path. -/
structure Leg where
  ch : Option Nat
  req : List Hop
  ret : List Hop
deriving DecidableEq, Repr

/-- The legs of a flow on the escape paths of now; none where a path is broken. -/
def State.legs (s : State) (f : Flow) : Option (List Leg) :=
  let own := destOfSrc f.mid
  let one (ch : Option Nat) (dest : BitVec 16) : Option Leg :=
    match s.pathTo f.mid own dest, (if f.trip then s.pathTo f.mid dest own else some []) with
    | some q, some b => some { ch := ch, req := q, ret := b }
    | _, _ => none
  if f.base.toNat < 2 ^ 42 then (s.flowChans f).mapM fun c => one (some c) (mkDest 8 c 0 (s.ingressPort c f.mid))
  else
    match s.decode f.base.toNat with
    | some (t, _) => (one none (s.destOf f.mid t)).map ([·])
    | none => none

/-- Every distinct output of a flow's paths with the flits it carries there: the request paths' with P, the return paths' with P of responses.
    An output that several legs cross is counted once for each direction. -/
def legOuts (f : Flow) (ls : List Leg) : List (Hop × Nat) :=
  let uniq (hs : List Hop) : List Hop := hs.foldl (fun acc h => if acc.any (·.sameOut h) then acc else acc ++ [h]) []
  ((uniq (ls.map Leg.req).flatten).map fun h => (h, f.pReq)) ++ ((uniq (ls.map Leg.ret).flatten).map fun h => (h, f.pRsp))

def State.flowOuts (s : State) (f : Flow) : List (Hop × Nat) := ((s.legs f).map (legOuts f)).getD []

/-- A flow that exists: admitted or VIOLATED, or released with its time not yet passed. -/
def Flow.live (f : Flow) : Bool := f.used || f.freeAt.isSome

/-- Flows that hold a reservation: those that exist and are not VIOLATED (08 R219, R226). -/
def Flow.holds (f : Flow) : Bool := !f.violated && f.live

/-- A flow takes the outputs of its paths of now as those its reservation is on (08 R225, R227). -/
def State.reserve (s : State) (f : Flow) : Flow :=
  { f with resv := (s.flowOuts f).map fun e => { node := e.1.node, router := e.1.router, port := e.1.port, flits := e.2 } }

def Resv.hop (r : Resv) : Hop := ⟨r.node, r.router, r.port, 0⟩

/-- A reservation: rate times flits, flits times packets, at an output. -/
structure Share where
  hop : Hop
  rp : Nat
  burst : Nat
deriving DecidableEq, Repr

/-- What a flow reserves, output by output. -/
def Flow.shares (f : Flow) : List Share :=
  f.resv.map fun e => { hop := e.hop, rp := f.rate.toNat * e.flits, burst := e.flits * (f.burst.toNat + 1) }

/-- All reservations in force. -/
def State.pool (s : State) : List Share := ((s.flows.filter fun e => e.2.holds).map fun e => e.2.shares).flatten

/-- Sum of RATE x P, and BURST_o, at an output. -/
def rpAt (pool : List Share) (h : Hop) : Nat := ((pool.filter fun e => e.hop.sameOut h).map Share.rp).foldl (· + ·) 0
def burstAt (pool : List Share) (h : Hop) : Nat := ((pool.filter fun e => e.hop.sameOut h).map Share.burst).foldl (· + ·) 0

/-! ### The bound (08 R219, R220) -/

/-- NOCCLK period in ns (00 R6): 2/3 at grade 2, 4/5 at grade 1. -/
def State.nocNs (s : State) : Frac := if s.fuses.grade2 then ⟨2, 3⟩ else ⟨4, 5⟩
/-- Flit time of an output, ns (08 Table 8.2). -/
def State.tauOf (s : State) (h : Hop) : Frac := if h.port = 4 then ⟨5, 6⟩ else s.nocNs

/-- U_o = Σ r P τ, as a fraction. -/
def State.uAt (s : State) (pool : List Share) (h : Hop) : Frac :=
  let t := s.tauOf h
  ⟨rpAt pool h * t.num, 1000000000 * t.den⟩

/-- W_o (08 R219). -/
def State.wAt (s : State) (pool : List Share) (p : Nat) (h : Hop) : Frac :=
  let t := s.tauOf h
  let terms := 5 + (h.depth - p) + (burstAt pool h - p)
  ⟨t.num * terms * 1000000000, 1000000000 * t.den - rpAt pool h * t.num⟩

/-- The fixed part of a path (08 R219). -/
def State.fixedOf (s : State) (p : Nat) (hs : List Hop) : Frac :=
  let mesh := (hs.filter fun h => decide (h.port < 4)).length
  let cross := (hs.filter fun h => h.port == 4).length
  let n := s.nocNs
  Frac.plus ⟨(2 * hs.length + mesh + 1 + (p - 1)) * n.num, n.den⟩ ⟨18 * cross, 1⟩

/-- The dies of a path, each once. -/
def diesOf (hs : List Hop) : List Nat := (hs.map Hop.node).foldl (fun acc n => if acc.contains n then acc else acc ++ [n]) []

/-- The wake terms of a path in ns (08 Table 8.3): dies permitted NAP or DEEP in place of their routers, routers that may idle, links with a
    resolved low-power mode. -/
def State.wakeOf (s : State) (hs : List Hop) : Nat :=
  let dieTerm (n : Nat) : Nat :=
    if n = 8 then 0 else match (s.elem 1 n 0).deepest with
      | .deep => 5000000
      | .nap => 20000
      | _ => 0
  let routers := (hs.filter fun h => dieTerm h.node == 0 &&
    (let x := s.router h.node h.router; x.idleDly != 0 && !x.keepAwake)).length
  let link (h : Hop) : Nat :=
    if h.port = 4 then
      match siteOfRouter h.node h.router with
      | some l => let r := (s.laneset (linkKeyOf h.node l)).lpRes; if r.getLsbD 1 then 12000 else if r.getLsbD 0 then 200 else 0
      | none => 0
    else 0
  ((diesOf hs).map dieTerm).foldl (· + ·) 0 + 40 * routers + (hs.map link).foldl (· + ·) 0

/-- Wake terms of the destination: a bay that may enter DEEP unless its die's DEEP is counted, a channel that may enter low power. -/
def State.wakeDest (s : State) (f : Flow) (ch : Option Nat) : Nat :=
  match ch with
  | some c => let l := (s.chan c).lpSel.toNat; if l = 0 then 0 else if l = 1 then 50 else 12000
  | none =>
    match s.decode f.base.toNat with
    | some (.bay d b, _) => if (s.elem 2 d b).deepest = .deep ∧ (s.elem 1 d 0).deepest ≠ .deep then 400000 else 0
    | _ => 0

/-- The rate of a declared channel in MT/s (14 Table 14.2). -/
def rateMts (r : Nat) : Nat := if r = 0 then 4800 else if r = 1 then 5600 else 6400

/-- L_g of the memory term (14 R384). -/
def Flow.lines (f : Flow) : Nat := max 1 (ceilDiv (max f.maxBytes.toNat f.maxRsp.toNat) 64)

/-- The memory term of a flow on a channel (14 R384), ns. -/
def State.memTerm (s : State) (c : Nat) (f : Flow) : Frac :=
  let ch := s.chan c
  let d := ch.decl.getD DramDecl.reset
  let mts := rateMts d.rate
  let t (i : Nat) : Nat := d.times.getD i 0
  -- all times in 1/mts ps
  let ck := 2000000
  let cl := ceilDiv (t 0 * mts) ck
  let acc := (t 2 + t 1) * mts + max (t 0 * mts) ((cl - 2) * ck + t 4 * mts) + 8 * ck
  let hold := (max (if d.refSb then t 6 else t 5) 200000) * mts
  let trc := (t 3 + t 2) * mts
  let port := s.ingressPort c f.mid
  let mine := (s.flows.map (·.2)).filter fun g => g.live && (s.flowChans g).contains c
  let own := mine.filter fun g => s.ingressPort c g.mid == port
  let others := (List.range 16).filter (· != port)
  let sumOthers := (others.map fun p =>
    ((mine.filter fun g => s.ingressPort c g.mid == p).map Flow.lines).foldl max 0).foldl (· + ·) 0
  let q := (own.map fun g => g.lines * g.burst.toNat).foldl (· + ·) 0 + (own.map fun g => g.burst.toNat).foldl (· + ·) 0 * sumOthers
  let m (h : Nat) : Nat := 20000 * mts + h * hold + acc + (q - 1) * trc
  let h := 1 + m 1 / (1950000 * mts)
  ⟨m h, 1000 * mts⟩

/-- T of one path: the fixed part, the waits and the wake terms. -/
def State.pathBound (s : State) (pool : List Share) (p : Nat) (hs : List Hop) (wake : Nat) : Frac :=
  ((hs.map fun h => s.wAt pool p h).foldl Frac.plus (s.fixedOf p hs)).plus (Frac.ofNat wake)

/-- T of one leg of a flow (08 R219). -/
def State.legBound (s : State) (pool : List Share) (f : Flow) (l : Leg) : Frac :=
  let wake (hs : List Hop) : Nat := if f.keep then 0 else s.wakeOf hs
  let dest := if f.keep then 0 else s.wakeDest f l.ch
  let there := s.pathBound pool f.pReq l.req (wake l.req + dest)
  let mid : Frac := match l.ch with
    | some c => s.memTerm c f
    | none => Frac.ofNat (if f.trip then f.tgtNs.toNat else 0)
  let t := there.plus mid
  if f.trip then t.plus (s.pathBound pool f.pRsp l.ret (wake l.ret)) else t

/-- T of a flow: the largest over its legs (08 R221); none where a path is broken. -/
def State.flowBound (s : State) (pool : List Share) (f : Flow) : Option Frac :=
  (s.legs f).map fun ls => (ls.map fun l => s.legBound pool f l).foldl Frac.max ⟨0, 1⟩

/-! ### The checks of Table 8.4 -/

/-- What the decision answers: status, REASON, BOUND, ELEMENT, the other flow, SHARE. -/
structure Verdict where
  status : Nat
  reason : Nat := 0
  bound : Nat := 0
  element : Nat := 0
  other : Nat := 0
  share : Nat := 0
deriving DecidableEq, Repr

/-- ELEMENT of an output: DEST layout with the port number (08 Table 8.6). -/
def elementOf (h : Hop) : Nat := (mkDest h.node (rx h.node h.router) (ry h.node h.router) h.port).toNat

/-- SHARE: U_o in units of 1/1,024, rounded up. -/
def State.shareAt (s : State) (pool : List Share) (h : Hop) : Nat := let u := s.uAt pool h; ceilDiv (u.num * 1024) u.den

/-- U_o above 0.60 (08 Table 8.4 check 4). -/
def State.overU (s : State) (pool : List Share) (h : Hop) : Bool := let u := s.uAt pool h; decide (3 * u.den < 5 * u.num)

/-- The output with the largest W_o of all the paths of a flow (08 Table 8.6). -/
def State.worstHop (s : State) (pool : List Share) (f : Flow) (ls : List Leg) : Option Hop :=
  let ws := ((ls.map Leg.req).flatten.map fun h => (h, s.wAt pool f.pReq h)) ++ ((ls.map Leg.ret).flatten.map fun h => (h, s.wAt pool f.pRsp h))
  (ws.foldl (fun (acc : Option (Hop × Frac)) e => match acc with
    | none => some e
    | some b => if b.2.less e.2 then some e else some b) none).map (·.1)

/-- Checks 4 to 7 for flow `i` in a state that holds it (08 Table 8.4). -/
def State.check4to7 (s : State) (i : Nat) : Verdict :=
  let f := s.flow i
  let pool := s.pool
  match s.legs f with
  | none => { status := stRefusedResource, reason := 3 }
  | some ls =>
    let hops := (ls.map fun l => l.req ++ l.ret).flatten
    match hops.find? fun h => s.overU pool h with
    | some h => { status := stRefusedResource, reason := 3, element := elementOf h, share := s.shareAt pool h }
    | none =>
    match hops.find? fun h => decide (4095 < burstAt pool h) with
    | some h => { status := stRefusedResource, reason := 7, element := elementOf h, share := s.shareAt pool h }
    | none =>
      let t := ((ls.map fun l => s.legBound pool f l).foldl Frac.max ⟨0, 1⟩).ceil
      let top := s.worstHop pool f ls
      let el := (top.map elementOf).getD 0
      let sh := (top.map (s.shareAt pool)).getD 0
      if f.deadline.toNat < t then { status := stRefusedDeadline, reason := 2, bound := t, element := el, share := sh }
      else
        let chans := ls.filterMap Leg.ch
        let late := s.flows.find? fun e =>
          e.1 != i && e.2.used && !e.2.violated &&
          (((s.flowOuts e.2).any fun o => hops.any (·.sameOut o.1)) || ((s.flowChans e.2).any fun c => chans.contains c)) &&
          (match s.flowBound pool e.2 with
           | some tg => decide (e.2.deadline.toNat < tg.ceil)
           | none => false)
        match late with
        | none => { status := stOk, bound := t, element := el, share := sh }
        | some e =>
          match hops.find? fun h => (s.flowOuts e.2).any fun o => o.1.sameOut h with
          | some h => { status := stRefusedResource, reason := 4, bound := t, element := elementOf h, other := e.1, share := s.shareAt pool h }
          | none =>
            let c := ((s.flowChans e.2).find? fun c => chans.contains c).getD 0
            let p := s.ingressPort c e.2.mid
            { status := stRefusedResource, reason := 4, bound := t, element := (mkDest 8 c 0 p).toNat, other := e.1,
              share := (((portOfLocal 8 c p).map fun n => s.shareAt pool ⟨8, c, n, 8⟩).getD 0) }

/-! ### Real-time ports of DRAM channels (08 R221) -/

/-- The port the firmware gives a source that becomes a real-time source of a channel, and whether it marks it RT. -/
def State.rtPortFor (s : State) (c : Nat) (src : BitVec 12) : Option (Nat × Bool) :=
  let ch := s.chan c
  let taken (p : Nat) : Bool := ch.rtSrcs.any fun e => e.2.1 == p
  let rt (p : Nat) : Bool := (tget DramPort.reset ch.ports p).rt
  let board := s.cfg.board.ports.find? fun r => r.ch == c && ((src ^^^ r.midVal) &&& r.midMask) == 0
  match board with
  | some r => if r.rt ∧ ¬ taken r.port then some (r.port, false) else
      match (List.range 16).find? fun p => rt p && !taken p with
      | some p => some (p, false)
      | none => if ((List.range 16).filter rt).length < 4 then ((List.range 16).find? fun p => !rt p && !taken p).map (·, true) else none
  | none =>
    match (List.range 16).find? fun p => rt p && !taken p with
    | some p => some (p, false)
    | none => if ((List.range 16).filter rt).length < 4 then ((List.range 16).find? fun p => !rt p && !taken p).map (·, true) else none

/-- A source becomes a real-time source of a channel: its port serves it alone and has PANIC_TH = 0 (08 R221; 14 R383). -/
def State.addRtSrc (s : State) (c : Nat) (src : BitVec 12) : Option State :=
  if (s.chan c).rtSrcs.any fun e => e.1 == src then some s
  else (s.rtPortFor c src).map fun p =>
    s.modChan c fun x =>
      { x with rtSrcs := x.rtSrcs ++ [(src, p.1, p.2)], ports := tmod DramPort.reset x.ports p.1 fun q => { q with rt := true, panicTh := 0 } }

/-- The PANIC_TH and RT a port has by the board's records (12 R326). -/
def State.boardPort (s : State) (c p : Nat) : Bool × BitVec 5 :=
  match s.cfg.board.ports.find? fun r => r.ch == c && r.port == p with
  | some r => (r.rt, r.panicTh)
  | none => (false, 0)

/-- Sources with no flow left on a channel return their port to the board's port map (08 R221). -/
def State.dropRtSrcs (s : State) : State :=
  (List.range 8).foldl (fun s c =>
    let live (src : BitVec 12) : Bool := s.flows.any fun e => e.2.used && e.2.mid == src && (s.flowChans e.2).contains c
    let gone := (s.chan c).rtSrcs.filter fun e => !live e.1
    if gone = [] then s
    else
      s.modChan c fun x =>
        { x with rtSrcs := x.rtSrcs.filter fun e => live e.1,
                 ports := gone.foldl (fun t e => tmod DramPort.reset t e.2.1 fun q =>
                   { q with rt := if e.2.2 then false else (s.boardPort c e.2.1).1, panicTh := (s.boardPort c e.2.1).2 }) x.ports }) s

/-! ### Reservations (08 R225, R226) and what a flow keeps awake (08 R222) -/

/-- RTR_RT_p of the outputs named: RATE = ⌈256 Σ r P NOCCLK⌉, BURST = BURST_o (08 R225). -/
def State.programOuts (s : State) (hs : List Hop) : State :=
  let pool := s.pool
  hs.foldl (fun s h =>
    let n := s.nocNs
    let rate := ceilDiv (256 * rpAt pool h * n.num) (1000000000 * n.den)
    s.rtrRtWrite h.node h.router h.port (rate + atLo (burstAt pool h) 8)) s

/-- Whether an element lies on a path of a flow: a die, a bay as destination, a link, a channel (08 R222). KIND codes as Table 18 gives them:
    1 F-die, 2 bay, 3 router, 4 link end, 5 channel. -/
def State.flowTouches (s : State) (f : Flow) (kind die id : Nat) : Bool :=
  let outs := (s.flowOuts f).map (·.1)
  match kind with
  | 1 => outs.any fun h => h.node == die
  | 2 => (match s.decode f.base.toNat with
      | some (.bay d b, _) => d == die && b == id
      | _ => false)
  | 3 => outs.any fun h => h.node == die && h.router == id
  | 4 => outs.any fun h => h.port == 4 &&
      (match siteOfRouter h.node h.router with
       | some l => linkKeyOf h.node l == linkKeyOf die id ||
           (match s.facing (linkKeyOf h.node l) with
            | .key k => k == linkKeyOf die id
            | _ => false)
       | none => false)
  | 5 => (s.flowChans f).contains id
  | _ => false

/-- An element on the paths of some flow in being. -/
def State.onFlow (s : State) (kind die id : Nat) : Bool :=
  s.flows.any fun e => e.2.live && s.flowTouches e.2 kind die id
/-- An element a KEEP_AWAKE flow holds awake. -/
def State.flowHolds (s : State) (kind die id : Nat) : Bool :=
  s.flows.any fun e => e.2.live && e.2.keep && s.flowTouches e.2 kind die id

/-- The link ends of the Eoset-P links on a path, both ends of each. -/
def State.pathLinks (s : State) (hs : List Hop) : List Nat :=
  ((hs.filter fun h => h.port == 4).map fun h => match siteOfRouter h.node h.router with
    | some l =>
      let k := linkKeyOf h.node l
      (match s.facing k with
       | .key k2 => [k, k2]
       | _ => [k])
    | none => []).flatten

/-- A low-power state that costs a wake term: a bay's only in DEEP, a die's in NAP and DEEP (08 Table 8.3). -/
def counts (kind st : Nat) : Nat := if (kind = 2 ∧ st < 3) ∨ (kind = 1 ∧ st < 2) then 0 else st

def elemKeyOf (kind die id : Nat) : Nat := kind * 65536 + die * 256 + id

/-- What the calculation of a flow counts for the elements of its paths: the deepest state each is permitted to enter (08 R220). A flow with
    KEEP_AWAKE has no wake terms. -/
def State.counting (s : State) (f : Flow) : Flow :=
  let hs := (s.flowOuts f).map (·.1)
  let bay := match s.decode f.base.toNat with
    | some (.bay d b, _) => [(elemKeyOf 2 d b, counts 2 (s.elem 2 d b).deepest.num)]
    | _ => []
  let links := (s.pathLinks hs).map fun k =>
    let r := (s.laneset k).lpRes
    (elemKeyOf 4 (laneDie k) (laneId k), if r.getLsbD 1 then 2 else bnat (r.getLsbD 0))
  let all := (hs.map fun h => (elemKeyOf 3 h.node h.router, bnat ((s.router h.node h.router).idleDly != 0))) ++
    ((diesOf hs).map fun d => (elemKeyOf 1 d 0, counts 1 (s.elem 1 d 0).deepest.num)) ++ links ++ bay ++
    (s.flowChans f).map fun c => (elemKeyOf 5 8 c, (s.chan c).lpSel.toNat)
  { f with counted := if f.keep then [] else all.foldl (fun acc e => if acc.any (·.1 == e.1) then acc else acc ++ [e]) [] }

/-- What R222 forbids a command: a state that a flow excludes, or one deeper than a flow's calculation counted. -/
def State.flowForbids (s : State) (kind die id st : Nat) : Bool :=
  s.flows.any fun e => e.2.live && s.flowTouches e.2 kind die id &&
    decide (((e.2.counted.find? (·.1 == elemKeyOf kind (if kind = 5 then 8 else die) id)).map (·.2)).getD 0 < counts kind st)

/-! ### What is held awake is woken (08 R222; 18 R471, R472; 09 R246, R247; 14 R385) -/

/-- A wake request (18 R471, R472): held during an entry, at once in IDLE, the start of the exit in NAP and DEEP. -/
def State.wakeElem (s : State) (kind d id : Nat) : State :=
  let e := s.elem kind d id
  if e.phase = .entering then s.modElem kind d id fun e => { e with pendingEnable := true }
  else if e.phase = .waking then s
  else if e.state = .idle then s.modElem kind d id fun e => { e with state := .active, idleAt := none }
  else if e.state = .active then s
  else s.modElem kind d id fun e => { e with phase := .waking, target := .active, atPs := s.now }

/-- A link or Eoset-X port left a low-power state (18 R477). -/
def State.laneWake (s : State) (k : Nat) : State := s.wakeCount 4 (laneDie k) (if laneKind k = 1 then 0x80 + laneId k else laneId k)

/-- The transmitter of a link leaves LP1. -/
def State.wakeTx (s : State) (k : Nat) : State :=
  if (s.laneset k).txLp1 then
    ((s.modLaneset k fun x => { x with txLp1 := false }).modLink k fun e => { e with idleTx := s.now }).laneWake k
  else s

/-- An LP2 exit starts its PLL and sends TSB (09 R247). -/
def State.beginLp2Exit (s : State) (k : Nat) : State :=
  s.modLaneset k fun x =>
    { (x.allLanes k fun l => { l with runSets := 0, runTsb := 0 }) with lp2Exit := some s.now, wakeHeld := false }

/-- A link end held awake leaves LP1 with its partner's receiver, or begins its LP2 exit; during an LP2 entry the wake is held. -/
def State.wakeEnd (s : State) (k : Nat) : State :=
  let x := s.laneset k
  if x.lqrSent then s.modLaneset k fun x => { x with wakeHeld := true }
  else if x.lp2 then (if x.lp2Exit = none then s.beginLp2Exit k else s)
  else if x.txLp1 then
    (match s.facing k with
     | .key k2 => s.modLaneset k2 fun y => { y with rxLp1 := false }
     | _ => s).wakeTx k
  else s

/-- A channel asleep begins to wake. -/
def State.wakeChan (s : State) (n : Nat) : State :=
  s.modChan n fun x => if (x.pd ∨ x.sref) ∧ x.wakeAt = none then { x with wakeAt := some s.now } else x

/-- What a KEEP_AWAKE flow holds awake is woken: dies and routers, links, the destination bay, the channels (08 R222). -/
def State.wakePaths (s : State) (f : Flow) : State :=
  let hs := (s.flowOuts f).map (·.1)
  let s := (diesOf hs).foldl (fun (s : State) d => if d < s.fdies then s.wakeElem 1 d 0 else s) s
  let s := (s.pathLinks hs).foldl (fun (s : State) k => s.wakeEnd k) s
  let s := match s.decode f.base.toNat with
    | some (.bay d b, _) => if (s.elem 2 d b).state = PowerState.idle then s else s.wakeElem 2 d b
    | _ => s
  (s.flowChans f).foldl (fun (s : State) c => s.wakeChan c) s

/-- Routers on the paths of the KEEP_AWAKE flows have KEEP_AWAKE = 1, those named beside them have it cleared, and what those flows hold awake
    is woken (08 R222). -/
def State.keepPaths (s : State) (hs : List Hop) : State :=
  let keepers := s.flows.filter fun e => e.2.live && e.2.keep
  let kept := (keepers.map fun e => (s.flowOuts e.2).map (·.1)).flatten
  let s := (hs ++ kept).foldl (fun s h =>
    let on := kept.any fun k => k.node == h.node && k.router == h.router
    if (s.router h.node h.router).keepAwake = on then s
    else s.modRouter h.node h.router fun x => { x with keepAwake := on, idle := x.idle && !on, quietAt := s.now }) s
  keepers.foldl (fun (s : State) e => s.wakePaths e.2) s

/-- Every admitted flow's current bound computed again, with what it counts (08 R211, R220, R225). -/
def State.rebound (s : State) : State :=
  let pool := s.pool
  s.setFlows (s.flows.foldl (fun t e =>
    if e.2.used && !e.2.violated then
      match s.flowBound pool e.2 with
      | some b => tput Flow.reset t e.1 (s.counting { e.2 with bound := b.ceil })
      | none => t
    else t) s.flows)

/-! ### A flow decided again (08 R227) -/

/-- Checks 4 to 7 for a flow on its path of now: its reservations move there and it is ADMITTED, or it gives them up and is VIOLATED. -/
def State.decideAgain (s : State) (i : Nat) : State :=
  let f := s.flow i
  let before := f.resv.map Resv.hop
  let try1 := s.modFlow i fun f => s.counting (s.reserve { f with violated := false })
  let v := try1.check4to7 i
  let note (viol : Bool) : LogEntry := mkEntry 0x19 1 0x3A4 (atLo i 4 + atBit viol 14) 0
  if v.status = stOk then
    let s := try1.modFlow i fun f => { f with bound := v.bound }
    let s := ((s.programOuts (before ++ (s.flow i).resv.map Resv.hop)).rebound).keepPaths before
    if f.violated then s.logNote { note false with evid := BitVec.ofNat 16 noEvid } else s
  else
    let s := ((s.modFlow i fun f => s.counting { f with violated := true, resv := [] }).programOuts before).keepPaths before
    if f.violated then s else s.raiseHub 0x3A4 i (some (note true))

/-- A VIOLATED flow becomes ADMITTED once it fits: each is decided again when reservations or link sites have changed. -/
def State.retryViolated (s : State) : State :=
  (s.flows.filter fun e => e.2.used && e.2.violated).foldl (fun (s : State) e => s.decideAgain e.1) s

/-- A link site on a path left or returned to ACTIVE (08 R227): each flow whose path is another one is decided again by checks 4 to 7, then
    the VIOLATED ones. `old` is the state before the change. -/
def State.recheckFlows (old s : State) : State :=
  ((old.flows.filter fun e => e.2.used && !e.2.violated).foldl (fun (s : State) e =>
    if old.legs e.2 = s.legs e.2 then s else s.decideAgain e.1) s).retryViolated

/-! ### FLOW_ADMIT (08 R211 to R225) -/

def flowOfReq (r : Request) (sid : Nat) : Flow :=
  { mid := BitVec.ofNat 12 (r.num 0 2), cls := if r.num 2 1 = 2 then .pwr else .req, keep := bitOf (r.num 3 1) 0,
    roundTrip := bitOf (r.num 3 1) 1, base := BitVec.ofNat 48 (r.num 4 8), len := BitVec.ofNat 32 (r.num 12 4),
    maxBytes := BitVec.ofNat 16 (r.num 16 2), maxRsp := BitVec.ofNat 16 (r.num 18 2), burst := BitVec.ofNat 8 (r.num 20 1),
    rate := BitVec.ofNat 32 (r.num 24 4), deadline := BitVec.ofNat 32 (r.num 28 4), tgtNs := BitVec.ofNat 32 (r.num 32 4),
    owner := sid, used := true }

/-- The fields lie in their ranges (08 Table 8.1). -/
def flowFieldsOk (s : State) (r : Request) : Bool :=
  let trip := bitOf (r.num 3 1) 1
  let base := r.num 4 8
  let slot := decide (0x400000000000 ≤ base) && decide (base < 0x480000000000)
  let win := decide (0x600000000000 ≤ base) && decide (base < 0x620000000000)
  decide (r.num 0 2 < 4096) && s.isMaster (BitVec.ofNat 12 (r.num 0 2)) && (r.num 2 1 == 0 || r.num 2 1 == 2) && decide (r.num 3 1 < 4) &&
  (!trip || r.num 2 1 == 0) && decide (base + r.num 12 4 < 2 ^ 48) && decide (r.num 16 2 ≤ 256) && decide (r.num 18 2 ≤ 256) &&
  (trip || r.num 18 2 == 0) && decide (1 ≤ r.num 20 1) && decide (r.num 20 1 ≤ 64) && r.zero 21 3 && decide (1 ≤ r.num 24 4) &&
  decide (r.num 24 4 ≤ 1500000000) && decide (1 ≤ r.num 28 4) && (r.num 32 4 == 0 || (trip && (slot || win)))

/-- Where the decode of an interleave set changes for a range that begins at `lo`: for each way its first chunk after the beginning, and the
    address at which the declared capacity of its channel ends (01 R18; 14 R378). -/
def IlvSet.breaks (x : IlvSet) (cap : Nat → Nat) (lo : Nat) : List Nat :=
  let g := 2 ^ x.grain.toNat
  let w := 2 ^ x.ways.toNat
  let first := (max lo x.base - x.base) / g
  ((List.range w).map fun j =>
    let room := cap (x.way j) - x.offsetG.toNat * 2 ^ 30
    let gap := (j + w - first % w) % w
    [x.base + (first + (if gap = 0 then w else gap)) * g, x.base + (room / g * w + j) * g + room % g]).flatten.filter fun a =>
      decide (a < x.base + x.size)

/-- The places where the decode of an address can change inside a range (01 R19): the bounds of interleave sets, their chunks and the ends of
    the declared channels, the bounds of access regions, of fabric slots and of guest windows. -/
def State.breaks (s : State) (lo hi : Nat) : List Nat :=
  let sets := ((List.range 4).map fun k => let x := s.dram.ilv k; [x.base, x.base + x.size]).flatten
  let regs := (s.dram.regions.map fun e => [e.2.base.toNat, e.2.limit.toNat + 1]).flatten
  let ends := ((List.range 4).map fun k => (s.dram.ilv k).breaks s.dram.capOf lo).flatten
  let wins := ((List.range 2).map fun g => [0x600000000000 + g * 2 ^ 40, 0x600000000000 + g * 2 ^ 40 + (s.guestWindow g).getD 0]).flatten
  ((sets ++ ends ++ regs ++ wins ++ [(lo / 2 ^ 33 + 1) * 2 ^ 33, 2 ^ 42, 0x400000000000, 0x480000000000]).filter fun a => decide (lo < a) && decide (a ≤ hi))

/-- The extents a range touches, each as a target ID; none for unmapped addresses (08 R212). -/
def State.touched (s : State) (lo hi : Nat) : List (Option Nat) :=
  (lo :: s.breaks lo hi).map fun a => (s.decode a).map fun t => t.1.tid

/-- Meter slots of an injection point (08 R214), and the flows that hold one there. -/
def slotsOf (mid : BitVec 12) : Nat :=
  let hi := mid.toNat / 256
  if 12 ≤ hi then 16 else if hi = 8 ∧ 0xF0 ≤ mid.toNat % 256 then 8 else 4
def State.slotsUsed (s : State) (mid : BitVec 12) : Nat :=
  (s.flows.filter fun e => e.2.used &&
    (if 12 ≤ mid.toNat / 256 then e.2.mid.toNat / 256 == mid.toNat / 256 else e.2.mid == mid)).length

/-- The payload of Table 8.6. -/
def verdictBytes (fid : Nat) (v : Verdict) : List (BitVec 8) :=
  leBytes 2 fid ++ leBytes 1 v.reason ++ leBytes 1 0 ++ leBytes 4 v.bound ++ leBytes 4 (v.element + atLo v.other 16) ++
  leBytes 2 v.share ++ leBytes 2 0

/-- The checks and the admission of a flow (08 R223 to R225). -/
def flowAdmit (s : State) (f : Flow) : State × Reply :=
  let refuse (v : Verdict) : State × Reply := (s, { status := v.status, data := verdictBytes 0 v })
  -- check 1: the floor for the crossings
  let crossings := ((s.legs f).map fun ls =>
    (ls.map fun l => ((l.req ++ l.ret).filter fun h => h.port == 4).length).foldl max 0).getD 0
  if f.deadline.toNat < 120 + 170 * crossings then refuse { status := stRefusedDeadline, reason := 1 }
  else
    -- check 2: a FLOW_ID and a meter slot
    match (List.range 1023).map (· + 1) |>.find? fun i => !(s.flow i).used && (s.flow i).freeAt == none with
    | none => refuse { status := stRefusedResource, reason := 5 }
    | some i =>
      if slotsOf f.mid ≤ s.slotsUsed f.mid then refuse { status := stRefusedResource, reason := 5 }
      else
        -- check 3: a real-time port on each channel
        match (if f.base.toNat < 2 ^ 42 then (s.flowChans f).foldlM (fun s c => s.addRtSrc c f.mid) s else some s) with
        | none => refuse { status := stRefusedResource, reason := 6 }
        | some s1 =>
          let s2 := s1.modFlow i fun _ => s1.reserve f
          let v := s2.check4to7 i
          if v.status ≠ stOk then refuse v
          else
            let s3 := s2.modFlow i fun f => { f with bound := v.bound, meterOn := true, tokens := f.burst.toNat * 1000000000000, tokAt := s.now }
            let s4 := ((s3.programOuts ((s3.flow i).resv.map Resv.hop)).rebound).keepPaths []
            (s4, { status := stOk, data := verdictBytes i v })

def flowAdmitBody (s : State) (m : Nat) (r : Request) : State × Reply :=
  let f := flowOfReq r (s.sid m)
  let lo := f.base.toNat
  let hi := f.last
  let t := s.touched lo hi
  let unmapped := t.all (· == none)
  if flowFieldsOk s r = false then (s, bare stBadArgument)
  else if ¬ unmapped ∧ (t.any fun x => x == none || x != t.headD none) then (s, bare stBadArgument)
  else if lo < 0xF00100000000 ∧ 0xF00000000000 ≤ hi then (s, bare stBadArgument)
  else if s.flows.any fun e => e.2.used && e.2.mid == f.mid && e.2.cls == f.cls && decide (e.2.base.toNat ≤ hi) && decide (lo ≤ e.2.last) then
    (s, bare stBadArgument)
  else if f.cls = .req ∧ s.timeoutUs f.mid * 1000 ≤ f.deadline.toNat then (s, bare stBadArgument)
  else if unmapped then (s, bare stState)
  else flowAdmit s f

def cmdFlowAdmit : Command where
  code := 0x0200
  may := fun s m r => s.hasRole m roleF || (s.mbx m).opener == BitVec.ofNat 12 (r.num 0 2)
  argOk := fun _ r => lenIs 36 r
  body := flowAdmitBody

def execFlowAdmit (m : Nat) (s : State) : Out := .next (cmdFlowAdmit.serve m s)

/-! ### FLOW_RELEASE, FLOW_QUERY and the end of a reservation (08 R213, R226) -/

/-- The meter stops at once; budget and ID stay until a time equal to T has passed (08 R226). A source without another flow on a channel is
    no real-time source of it any more (R221). -/
def State.releaseFlow (s : State) (i : Nat) : State :=
  (s.modFlow i fun f => { f with used := false, meterOn := false, freeAt := some (s.now + f.bound * 1000) }).dropRtSrcs

/-- A session that may name a flow: its owner, or a flow administrator (08 R213). -/
def flowMay (s : State) (m : Nat) (r : Request) : Bool :=
  s.hasRole m roleF || (let f := s.flow (r.num 0 2); f.used && f.owner == s.sid m)

def flowIdOk (r : Request) : Bool := lenIs 2 r && decide (1 ≤ r.num 0 2) && decide (r.num 0 2 ≤ 1023)

def cmdFlowRelease : Command where
  code := 0x0201
  may := flowMay
  argOk := fun _ r => flowIdOk r
  body := fun s _ r => if (s.flow (r.num 0 2)).used then (s.releaseFlow (r.num 0 2), okReply []) else (s, bare stState)

def execFlowRelease (m : Nat) (s : State) : Out := .next (cmdFlowRelease.serve m s)

def cmdFlowQuery : Command where
  code := 0x0202
  may := flowMay
  argOk := fun _ r => flowIdOk r
  body := fun s _ r =>
    let f := s.flow (r.num 0 2)
    if f.used then
      (s, okReply (leBytes 4 (bnat f.violated) ++ leBytes 4 f.bound ++ leBytes 8 f.conf.toNat ++ leBytes 4 f.demoted.toNat))
    else (s, bare stState)

def execFlowQuery (m : Nat) (s : State) : Out := .next (cmdFlowQuery.serve m s)

/-- FLOW_RESERVATION_END: T has passed since the release: RATE and BURST are lowered on the outputs reserved, the ID is free again (08 R226),
    and a VIOLATED flow that now fits is ADMITTED (R227). -/
def execFlowReservationEnd (fid : Nat) (s : State) : Out :=
  .next (
    let f := s.flow fid
    match f.freeAt with
    | some t =>
      if t ≤ s.now then
        let outs := f.resv.map Resv.hop
        let path := (s.flowOuts f).map (·.1)
        let s := s.modFlow fid fun _ => Flow.reset
        (((s.programOuts outs).rebound).keepPaths (outs ++ path)).retryViolated
      else s
    | none => s)

/-! ### PORT_TIMEOUT (17 R447) -/

/-- The response timeout of a master port takes a value. -/
def State.setTimeout (s : State) (mid : BitVec 12) (us : Nat) : State :=
  let hi := mid.toNat / 256
  let b := mid.toNat % 256
  if hi < 8 then
    s.modRouter hi (bayRouter b) fun x => if b % 2 = 0 then { x with tmo0 := BitVec.ofNat 20 us } else { x with tmo1 := BitVec.ofNat 20 us }
  else s.modMaster mid fun x => { x with tmoUs := BitVec.ofNat 20 us }

def cmdPortTimeout : Command where
  code := 0x0203
  may := needC
  argOk := fun s r => lenIs 8 r && r.zero 2 2 && decide (r.num 0 2 < 4096) && s.isMaster (BitVec.ofNat 12 (r.num 0 2)) &&
    decide (1 ≤ r.num 4 4) && decide (r.num 4 4 ≤ 1048575)
  body := fun s _ r =>
    let mid := BitVec.ofNat 12 (r.num 0 2)
    let us := r.num 4 4
    if s.flows.any fun e => e.2.used && e.2.mid == mid && e.2.cls == .req && decide (us * 1000 ≤ e.2.deadline.toNat) then (s, bare stState)
    else (s.setTimeout mid us, okReply [])

def execPortTimeout (m : Nat) (s : State) : Out := .next (cmdPortTimeout.serve m s)

end Sys2Proof.Machine
end

