-- ==== Sys2Proof/Machine/Crypto.lean ====
section
/-! DEFINITION. The ciphers the spec names by their standards: AES-256 (FIPS 197), key wrap (RFC 3394), GCM and GMAC (NIST SP 800-38D),
XTS (IEEE 1619), SHA-384 (FIPS 180-4) and the verification of ECDSA P-384 (FIPS 186-5). PRESUMED: the spec names the standards and
does not print them. -/

namespace Sys2Proof.Machine

abbrev Bytes := List (BitVec 8)

/-- The number a list of bytes holds, the first byte most significant. -/
def beNat (bs : Bytes) : Nat := bs.foldl (fun a b => a * 256 + b.toNat) 0
/-- `n` bytes of a number, most significant first. -/
def beBytes (n v : Nat) : Bytes := (leBytes n v).reverse
def xorBytes (a b : Bytes) : Bytes := List.zipWith (· ^^^ ·) a b
/-- A list cut into pieces of `n`, by a count of pieces. -/
def pieces {α : Type} (n : Nat) : Nat → List α → List (List α)
  | 0, _ => []
  | k + 1, l => l.take n :: pieces n k (l.drop n)

/-! ### AES-256 (FIPS 197) -/

/-- The S-box (FIPS 197 Figure 7): the value of byte a at bits 8a + 7 to 8a. -/
def sboxTable : Nat :=
  0xc072a49cafa2d4adf04759fa7dc982ca76abd7fe2b670130c56f6bf27b777c63 +
  0x75b227ebe28012079a059618c323c7041531d871f1e5a534ccf73f362693fdb7 * 2 ^ 256 +
  0xcf584c4a39becb6a5bb1fc20ed00d153842fe329b3d63b52a05a6e1b1a2c8309 * 2 ^ 512 +
  0xd2f3ff1021dab6bcf5389d928f40a351a89f3c507f02f94585334d43fbaaefd0 * 2 ^ 768 +
  0xdb0b5ede14b8ee4688902a22dc4f816073195d643d7ea7c41744975fec130ccd * 2 ^ 1024 +
  0x08ae7a65eaf4566ca94ed58d6d37c8e779e4959162acd3c25c2406490a3a32e0 * 2 ^ 1280 +
  0x9e1dc186b95735610ef6034866b53e708a8bbd4b1f74dde8c6b4a61c2e2578ba * 2 ^ 1536 +
  0x16bb54b00f2d99416842e6bf0d89a18cdf2855cee9871e9b948ed9691198f8e1 * 2 ^ 1792
/-- The inverse S-box (FIPS 197 Figure 14), laid out the same way. -/
def invSboxTable : Nat :=
  0xcbe9dec444438e3487ff2f9b8239e37cfbd7f3819ea340bf38a53630d56a0952 +
  0x25d18b6d49a25b76b224d92866a12e084ec3fa420b954cee3d23c2a632947b54 * 2 ^ 256 +
  0x849d8da75746155edab9edfd5048706c92b6655dcc5ca4d41698688664f6f872 * 2 ^ 512 +
  0x6b8a130103bdafc1020f3fca8f1e2cd00645b3b80558e4f70ad3bc8c00abd890 * 2 ^ 768 +
  0x6edf751ce837f9e28535ade72274ac9673e6b4f0cecff297eadc674f4111913a * 2 ^ 1024 +
  0xf45acd78fec0db9a2079d2c64b3e56fc1bbe18aa0e62b76f89c5291d711af147 * 2 ^ 1280 +
  0xef9cc9939f7ae52d0d4ab519a97f51605fec8027591012b131c7078833a8dd1f * 2 ^ 1536 +
  0x7d0c2155631469e126d677ba7e042b17619953833cbbebc8b0f52aae4d3be0a0 * 2 ^ 1792
def sbox (a : Nat) : Nat := sboxTable / 256 ^ a % 256
def invSbox (a : Nat) : Nat := invSboxTable / 256 ^ a % 256

/-- A word of four bytes, the first lowest, through the S-box. -/
def subWord (w : Nat) : Nat := (List.range 4).foldl (fun a i => a + sbox (w / 256 ^ i % 256) * 256 ^ i) 0
/-- The key schedule: the next word from the last eight words, most recent first. -/
def nextWord (i : Nat) (ws : List Nat) : Nat :=
  let prev := ws.getD 0 0
  let t := if i % 8 = 0 then subWord (prev / 256 + prev % 256 * 2 ^ 24) ^^^ 2 ^ (i / 8 - 1) else if i % 8 = 4 then subWord prev else prev
  ws.getD 7 0 ^^^ t
/-- The 15 round keys of a 256-bit key, the first byte of each lowest. -/
def roundKeys (key : Bytes) : List Nat :=
  let ws := (List.range 52).foldl (fun ws i => nextWord (i + 8) ws :: ws) ((pieces 4 8 key).map leNat).reverse
  (pieces 4 15 ws.reverse).map fun g => g.getD 0 0 + g.getD 1 0 * 2 ^ 32 + g.getD 2 0 * 2 ^ 64 + g.getD 3 0 * 2 ^ 96

/-- SubBytes and ShiftRows: byte i of the block (row i % 4, column i / 4) from the byte four rows' shift away. -/
def subShift (s : Nat) : Nat := (List.range 16).foldl (fun a i => a + sbox (s / 256 ^ ((i + 4 * (i % 4)) % 16) % 256) * 256 ^ i) 0
def invSubShift (s : Nat) : Nat := (List.range 16).foldl (fun a i => a + invSbox (s / 256 ^ ((i + 16 - 4 * (i % 4)) % 16) % 256) * 256 ^ i) 0
/-- Every byte of a block multiplied by x in GF(2^8). -/
def xtimes (s : Nat) : Nat := (2 * s &&& 0xFEFEFEFEFEFEFEFEFEFEFEFEFEFEFEFE) ^^^ (s / 128 &&& 0x01010101010101010101010101010101) * 0x1B
/-- Every column turned up by one row. -/
def rotCol (s : Nat) : Nat := (s / 256 &&& 0x00FFFFFF00FFFFFF00FFFFFF00FFFFFF) + (s * 2 ^ 24 &&& 0xFF000000FF000000FF000000FF000000)
def mixColumns (s : Nat) : Nat :=
  let a := rotCol s; let b := rotCol a
  xtimes (s ^^^ a) ^^^ a ^^^ b ^^^ rotCol b
/-- The inverse: the columns times 04 x^2 + 05, then MixColumns. -/
def invMixColumns (s : Nat) : Nat := mixColumns (s ^^^ xtimes (xtimes (s ^^^ rotCol (rotCol s))))

/-- AES-256 encryption of a block under its round keys. -/
def aesEncK (rk : List Nat) (block : Bytes) : Bytes :=
  let s := (List.range 13).foldl (fun s i => mixColumns (subShift s) ^^^ rk.getD (i + 1) 0) (leNat (block.take 16) ^^^ rk.getD 0 0)
  leBytes 16 (subShift s ^^^ rk.getD 14 0)
/-- AES-256 decryption of a block under its round keys. -/
def aesDecK (rk : List Nat) (block : Bytes) : Bytes :=
  let s := (List.range 13).foldl (fun s i => invMixColumns (invSubShift s ^^^ rk.getD (13 - i) 0)) (leNat (block.take 16) ^^^ rk.getD 14 0)
  leBytes 16 (invSubShift s ^^^ rk.getD 0 0)
def aesEnc (key block : Bytes) : Bytes := aesEncK (roundKeys key) block
def aesDec (key block : Bytes) : Bytes := aesDecK (roundKeys key) block

/-! ### Key wrap (RFC 3394) -/

/-- The unwrap of a wrapped key under a key: the initial value found and the plaintext. -/
def kwOpen (key wrapped : Bytes) : Bytes × Bytes :=
  let n := wrapped.length / 8 - 1
  let rk := roundKeys key
  let r := pieces 8 n (wrapped.drop 8)
  let end1 := (List.range (6 * n)).foldl (fun (ar : Bytes × List Bytes) x =>
    let t := 6 * n - x
    let i := (t - 1) % n
    let b := aesDecK rk (xorBytes ar.1 (beBytes 8 t) ++ ar.2.getD i [])
    (b.take 8, ar.2.set i (b.drop 8))) (wrapped.take 8, r)
  (end1.1, end1.2.flatten)
/-- The unwrapped key when the integrity check against an initial value holds. -/
def kwUnwrap (key iv wrapped : Bytes) : Option Bytes := let o := kwOpen key wrapped; if o.1 = iv then some o.2 else none
def kwDefault : Bytes := List.replicate 8 0xA6

/-! ### GCM (NIST SP 800-38D) -/

/-- Multiplication in GF(2^128), the first bit most significant. -/
def ghMulBits : Nat → Nat → Nat → Nat
  | 0, _, _ => 0
  | n + 1, x, v => (x / 2 ^ n % 2 * v) ^^^ ghMulBits n x (v / 2 ^^^ v % 2 * (0xE1 * 2 ^ 120))
def ghMul (x y : Nat) : Nat := ghMulBits 128 x y
def pad16 (bs : Bytes) : Bytes := bs ++ List.replicate ((16 - bs.length % 16) % 16) 0
def ghash (h : Nat) (bs : Bytes) : Nat := (pieces 16 (bs.length / 16) bs).foldl (fun y b => ghMul (y ^^^ beNat b) h) 0

/-- Byte `i` of the key stream of a key and a 12-byte nonce. -/
def gcmStream (key nonce : Bytes) (i : Nat) : BitVec 8 := (aesEnc key (nonce ++ beBytes 4 (i / 16 + 2))).getD (i % 16) 0
/-- The 16-byte tag of a key, nonce, additional authenticated data and ciphertext. -/
def gcmTag (key nonce aad ct : Bytes) : Bytes :=
  let rk := roundKeys key
  let h := beNat (aesEncK rk (List.replicate 16 0))
  let g := ghash h (pad16 aad ++ pad16 ct ++ beBytes 8 (8 * aad.length) ++ beBytes 8 (8 * ct.length))
  xorBytes (beBytes 16 g) (aesEncK rk (nonce ++ beBytes 4 1))
/-- Encryption and decryption: the key stream over every byte. -/
def gcmOpen (key nonce data : Bytes) : Bytes :=
  let rk := roundKeys key
  ((pieces 16 (ceilDiv data.length 16) data).zipIdx.map fun (b, i) => xorBytes b (aesEncK rk (nonce ++ beBytes 4 (i + 2)))).flatten

/-! ### XTS (IEEE 1619) -/

/-- A tweak times alpha. -/
def xtsDouble (t : Nat) : Nat := if t < 2 ^ 127 then 2 * t else (2 * t - 2 ^ 128) ^^^ 0x87
def xtsTweak (key2 : Bytes) (unit j : Nat) : Bytes :=
  leBytes 16 ((List.range j).foldl (fun t _ => xtsDouble t) (leNat (aesEnc key2 (leBytes 16 unit))))
/-- One block of a data unit, by its block index. -/
def xtsBlock (dec : Bool) (key1 key2 : Bytes) (unit j : Nat) (b : Bytes) : Bytes :=
  let t := xtsTweak key2 unit j
  xorBytes (if dec then aesDec key1 (xorBytes b t) else aesEnc key1 (xorBytes b t)) t
/-- Consecutive blocks of a data unit from block index `j`. -/
def xtsBlocks (dec : Bool) (key1 key2 : Bytes) (unit j : Nat) (data : Bytes) : Bytes :=
  ((pieces 16 (data.length / 16) data).zipIdx.map fun (b, i) => xtsBlock dec key1 key2 unit (j + i) b).flatten

/-! ### SHA-384 (FIPS 180-4) -/

/-- The largest `r` below 2^n with r^k ≤ v. -/
def rootBits (k v : Nat) : Nat → Nat → Nat
  | 0, r => r
  | n + 1, r => if (r + 2 ^ n) ^ k ≤ v then rootBits k v n (r + 2 ^ n) else rootBits k v n r
def isPrime (n : Nat) : Bool := decide (2 ≤ n) && (List.range n).all fun d => decide (d < 2) || n % d != 0
/-- The first 80 primes. -/
def primes80 : List Nat := (List.range 410).filter isPrime
/-- The constants of the rounds: 64 bits of the fractional parts of the cube roots of the first 80 primes. -/
def shaK : List Nat := primes80.map fun p => rootBits 3 (p * 2 ^ 192) 67 0 % 2 ^ 64
/-- The initial value: 64 bits of the fractional parts of the square roots of the ninth to sixteenth primes. -/
def shaInit : List Nat := ((primes80.drop 8).take 8).map fun p => rootBits 2 (p * 2 ^ 128) 67 0 % 2 ^ 64
def rotr (x n : Nat) : Nat := (x / 2 ^ n + x * 2 ^ (64 - n)) % 2 ^ 64
def add64 (a b : Nat) : Nat := (a + b) % 2 ^ 64

/-- The message schedule of a block, most recent word first, extended by one word. -/
def shaExtend (w : List Nat) : List Nat :=
  let a := w.getD 14 0; let b := w.getD 1 0
  let s0 := rotr a 1 ^^^ rotr a 8 ^^^ (a / 2 ^ 7)
  let s1 := rotr b 19 ^^^ rotr b 61 ^^^ (b / 2 ^ 6)
  add64 (add64 s1 (w.getD 6 0)) (add64 s0 (w.getD 15 0)) :: w
/-- One round on a, b, c, d, e, f, g, h with a schedule word and a constant. -/
def shaRound (v : List Nat) (wk : Nat × Nat) : List Nat :=
  match v with
  | [a, b, c, d, e, f, g, h] =>
    let s1 := rotr e 14 ^^^ rotr e 18 ^^^ rotr e 41
    let ch := (e &&& f) ^^^ ((2 ^ 64 - 1 - e) &&& g)
    let t1 := add64 (add64 h s1) (add64 ch (add64 wk.2 wk.1))
    let s0 := rotr a 28 ^^^ rotr a 34 ^^^ rotr a 39
    let mj := (a &&& b) ^^^ (a &&& c) ^^^ (b &&& c)
    [add64 t1 (add64 s0 mj), a, b, c, add64 d t1, e, f, g]
  | _ => v
def shaBlock (h : List Nat) (block : Bytes) : List Nat :=
  let w := (List.range 64).foldl (fun w _ => shaExtend w) ((pieces 8 16 block).map beNat).reverse
  List.zipWith add64 h ((w.reverse.zip shaK).foldl shaRound h)
/-- SHA-384 of a byte string, 48 bytes. -/
def sha384 (m : Bytes) : Bytes :=
  let z := (128 + 112 - (m.length + 1) % 128) % 128
  let p := m ++ [0x80] ++ List.replicate z 0 ++ beBytes 16 (8 * m.length)
  (((pieces 128 (p.length / 128) p).foldl shaBlock shaInit).map fun x => beBytes 8 x).flatten.take 48

/-! ### ECDSA on P-384 (FIPS 186-5) -/

def p384 : Nat := 2 ^ 384 - 2 ^ 128 - 2 ^ 96 + 2 ^ 32 - 1
def p384n : Nat := 0xFFFFFFFFFFFFFFFFFFFFFFFFFFFFFFFFFFFFFFFFFFFFFFFFC7634D81F4372DDF581A0DB248B0A77AECEC196ACCC52973
def p384b : Nat := 0xB3312FA7E23EE7E4988E056BE3F82D19181D9C6EFE8141120314088F5013875AC656398D8A2ED19D2A85C8EDD3EC2AEF
def p384gx : Nat := 0xAA87CA22BE8B05378EB1C71EF320AD746E1D3B628BA79B9859F741E082542A385502F25DBF55296C3A545E3872760AB7
def p384gy : Nat := 0x3617DE4A96262C6F5D9E98BF9292DC29F8F41DBD289A147CE9DA3113B5F0B8C00A60B1CE1D7E819D7A431D7C90EA0E5F

/-- a^e modulo m, over the low `k` bits of e. -/
def powMod (m : Nat) : Nat → Nat → Nat → Nat
  | 0, _, _ => 1 % m
  | k + 1, a, e => (if e % 2 = 1 then a else 1) * powMod m k (a * a % m) (e / 2) % m
/-- The inverse modulo a prime of 384 bits. -/
def invMod (m a : Nat) : Nat := powMod m 384 (a % m) (m - 2)

/-- The sum of two points of the curve y² = x³ − 3x + b, none the point at infinity. -/
def ecAdd (a b : Option (Nat × Nat)) : Option (Nat × Nat) :=
  match a, b with
  | none, q => q
  | q, none => q
  | some (x1, y1), some (x2, y2) =>
    if x1 = x2 ∧ (y1 + y2) % p384 = 0 then none
    else
      let l := if x1 = x2 then (3 * x1 * x1 + p384 - 3) * invMod p384 (2 * y1) % p384
        else (y2 + p384 - y1) * invMod p384 (x2 + p384 - x1) % p384
      let x3 := (l * l + 2 * p384 - x1 - x2) % p384
      some (x3, (l * (x1 + p384 - x3) + p384 - y1) % p384)
/-- A multiple of a point, over the low `k` bits of the factor. -/
def ecMul : Nat → Nat → Option (Nat × Nat) → Option (Nat × Nat)
  | 0, _, _ => none
  | k + 1, e, q => ecAdd (if e % 2 = 1 then q else none) (ecMul k (e / 2) (ecAdd q q))

/-- A public key in SEC 1 uncompressed form (0x04, X, Y): its point, when it lies on the curve. -/
def ecPoint (pub : Bytes) : Option (Nat × Nat) :=
  let x := beNat ((pub.drop 1).take 48); let y := beNat ((pub.drop 49).take 48)
  if pub.length = 97 ∧ pub.getD 0 0 = 0x04 ∧ x < p384 ∧ y < p384 ∧ y * y % p384 = (x * x * x + (p384 - 3) * x + p384b) % p384
  then some (x, y) else none

/-- SIGNATURE, r and s of 48 bytes each, verifies under PUBKEY over a message with SHA-384. -/
def ecdsaVerify (pub sig msg : Bytes) : Bool :=
  let r := beNat (sig.take 48); let v := beNat ((sig.drop 48).take 48)
  match ecPoint pub with
  | none => false
  | some q =>
    if r = 0 ∨ p384n ≤ r ∨ v = 0 ∨ p384n ≤ v then false
    else
      let w := invMod p384n v
      let e := beNat (sha384 msg)
      match ecAdd (ecMul 384 (e * w % p384n) (some (p384gx, p384gy))) (ecMul 384 (r * w % p384n) (some q)) with
      | none => false
      | some (x, _) => x % p384n == r

end Sys2Proof.Machine
end

