-- ==== Sys2Proof/Machine/Frames.lean ====
section
/-! DEFINITION. Eoset frames and flits as bits: the flit check code, header flits, the frame trailer, its CRC and link encryption. -/

namespace Sys2Proof.Machine

/-! ### The flit check code (10 R259; 07 R177) -/

def isPow2 (n : Nat) : Bool := (List.range 9).any fun j => 2 ^ j == n

/-- P(0) to P(127): the positive integers that are no power of two. -/
def eccPos : List Nat := (List.range 137).filter fun n => n != 0 && !isPow2 n

/-- XOR of P(i) over the set bits of a quarter: its bit j is check bit c_j. -/
def eccXor (d : Nat) : Nat := (eccPos.zipIdx.foldl (fun a e => if bitOf d e.2 then a ^^^ e.1 else a) 0)

/-- Parity of the low `n` bits. -/
def eccParity (n v : Nat) : Nat := (List.range n).foldl (fun a i => (a + v / 2 ^ i) % 2) 0

/-- Check bits c0 to c8 of a 128-bit quarter. -/
def eccBits (d : Nat) : Nat := let x := eccXor d; x + atLo ((eccParity 128 d + eccParity 8 x) % 2) 8

/-- A quarter against its check bits: the corrected quarter and whether it was corrected; none when uncorrectable. -/
def eccCheck (d c : Nat) : Option (Nat × Bool) :=
  let syn := eccXor d ^^^ (c % 256)
  let odd := (eccParity 128 d + eccParity 9 c) % 2
  if odd = 0 then (if syn = 0 then some (d, false) else none)
  else if syn = 0 ∨ isPow2 syn then some (d, true)
  else match eccPos.findIdx? (· == syn) with
    | some i => some (d ^^^ 2 ^ i, true)
    | none => none

/-- The side band of a flit (07 Table 7.2): check bits, type 1 header or 2 data, VC, EXIT, parity. -/
def sideBand (payload typ vc : Nat) (exit : Option (BitVec 4)) : Nat :=
  let chk := (List.range 4).foldl (fun a q => a + atLo (eccBits (bitsOf payload (128 * q) 128)) (9 * q)) 0
  let mid := typ + atLo vc 2 + (match exit with | some l => atLo (16 + l.toNat) 5 | none => 0)
  chk + atLo mid 36 + atLo (eccParity 10 mid) 46

/-- What a receiver reads of 72 bytes of flit: type, VC, payload; how many quarters were corrected; whether one is uncorrectable; whether
    the side band is sound (07 R178). -/
structure FlitIn where
  typ : Nat
  vc : Nat
  payload : Nat
  corrected : Nat
  bad : Bool
  sound : Bool
deriving DecidableEq, Repr

def readFlit (bs : List (BitVec 8)) : FlitIn :=
  let payload := numAt bs 0 64
  let sb := numAt bs 64 8
  let qs := (List.range 4).map fun q => (bitsOf payload (128 * q) 128, eccCheck (bitsOf payload (128 * q) 128) (bitsOf sb (9 * q) 9))
  let fixed := qs.zipIdx.foldl (fun a e => a + atLo (match e.1.2 with | some r => r.1 | none => e.1.1) (128 * e.2)) 0
  { typ := bitsOf sb 36 2, vc := bitsOf sb 38 3, payload := fixed,
    corrected := qs.countP fun e => match e.2 with | some r => r.2 | none => false, bad := qs.any (fun e => e.2.isNone),
    sound := eccParity 11 (bitsOf sb 36 11) == 0 && (bitsOf sb 36 2 == 1 || bitsOf sb 36 2 == 2) && bitsOf sb 47 17 == 0 }

/-! ### Header flits (07 Table 7.3, R186) -/

/-- The payload of a header flit. -/
def Pkt.headerBits (k : Pkt) : Nat :=
  k.headerLow + atLo k.addr.toNat 64 + atLo k.flow.toNat 112 + atLo k.be.toNat 128 + atLo k.stamp.toNat 192 +
  (if k.opc = 0x18 then atLo k.evid.toNat 256 + atLo k.evdata.toNat 288 else if k.opc = 0x19 then atLo k.time.toNat 256 else 0)

def classOfNum (n : Nat) : MsgClass := if n = 0 then .req else if n = 1 then .rsp else if n = 2 then .pwr else .evt

/-- The packet a header payload spells. -/
def pktOfHeader (h : Nat) : Pkt :=
  { die := BitVec.ofNat 4 (h / 2 ^ 12), x := BitVec.ofNat 3 (h / 2 ^ 9), y := BitVec.ofNat 3 (h / 2 ^ 6), port := BitVec.ofNat 6 h,
    src := BitVec.ofNat 12 (h / 2 ^ 16), cls := classOfNum (bitsOf h 28 2), tag := BitVec.ofNat 10 (h / 2 ^ 30),
    opc := BitVec.ofNat 5 (h / 2 ^ 40), len := BitVec.ofNat 8 (h / 2 ^ 45), resp := BitVec.ofNat 3 (h / 2 ^ 53), poison := bitOf h 56,
    rt := bitOf h 57, demoted := bitOf h 58, coarse := bitOf h 59, ord := bitOf h 60, addr := BitVec.ofNat 48 (h / 2 ^ 64),
    flow := BitVec.ofNat 10 (h / 2 ^ 112), be := BitVec.ofNat 64 (h / 2 ^ 128), stamp := BitVec.ofNat 32 (h / 2 ^ 192),
    evid := BitVec.ofNat 10 (h / 2 ^ 256), evdata := BitVec.ofNat 32 (h / 2 ^ 288), time := BitVec.ofNat 80 (h / 2 ^ 256) }

/-- Reserved header bits that are all 0 (07 Table 7.3, R186). -/
def reservedZero (h : Nat) : Bool :=
  let opc := bitsOf h 40 5
  bitsOf h 61 3 == 0 && bitsOf h 122 6 == 0 && bitsOf h 224 32 == 0 &&
  (if bitsOf h 28 2 = 3 then
    (if opc = 0x18 then bitsOf h 266 22 == 0 && bitsOf h 320 192 == 0 else bitsOf h 336 176 == 0)
   else bitsOf h 256 256 == 0)

/-- A well-formed header (07 R187): a class opcode, BE by R183, a read-modify-write by R184. -/
def headerOk (h : Nat) : Bool :=
  let k := pktOfHeader h
  let n := k.len.toNat + 1
  opcClass k.opc == some k.cls && reservedZero h &&
  (if opcRmw k.opc then (n == 4 || n == 8) && k.addr.toNat % n == 0 && k.be == 0
   else if opcWrite k.opc then decide (k.be.toNat < 2 ^ (min n 64))
   else k.be == 0)

/-! ### Frames (10 R256, R257) -/

/-- CRC-32C, reflected, one byte (10 R257). -/
def crc32cByte (c : BitVec 32) (b : BitVec 8) : BitVec 32 :=
  (List.range 8).foldl (fun c _ => if c.getLsbD 0 then (c >>> 1) ^^^ 0x82F63B78 else c >>> 1) (c ^^^ b.zeroExtend 32)
def crc32c (bs : List (BitVec 8)) : BitVec 32 := ~~~ (bs.foldl crc32cByte 0xFFFFFFFF)

/-- Trailer bits 31:0 (10 Table 10.2). -/
def Frame.trailerLow (f : Frame) : Nat :=
  f.ftype.toNat + atLo f.seq.toNat 4 + atLo f.ack.toNat 14 + atLo f.cvc.toNat 24 + atLo f.ccnt.toNat 27

/-- Bytes 0-71 of a frame: the flit with its side band, or the body. -/
def Frame.bytes72 (f : Frame) : List (BitVec 8) :=
  if f.ftype = 1 then
    match f.head with
    | some k => let h := k.headerBits; leBytes 64 h ++ leBytes 8 (sideBand h 1 f.vc.toNat f.exit)
    | none => let d := numAt f.body 0 64; leBytes 64 d ++ leBytes 8 (sideBand d 2 f.vc.toNat f.exit)
  else bytesAt f.body 0 72

/-- A frame on the lanes: 80 bytes with the CRC (10 R256, R257). -/
def wireBytes (body : List (BitVec 8)) (f : Frame) : List (BitVec 8) :=
  let b := body ++ leBytes 4 f.trailerLow
  b ++ leBytes 4 (crc32c b).toNat

/-- A sequenced type (10 Table 10.3). -/
def seqType (t : Nat) : Bool := t == 1 || t == 2 || t == 4 || t == 5

/-- The frame 80 received bytes spell, its bytes 0-71 as the body. -/
def readFrame (raw : List (BitVec 8)) : Frame :=
  let t := numAt raw 72 4
  { ftype := BitVec.ofNat 4 t, seq := BitVec.ofNat 10 (t / 2 ^ 4), ack := BitVec.ofNat 10 (t / 2 ^ 14), cvc := BitVec.ofNat 3 (t / 2 ^ 24),
    ccnt := BitVec.ofNat 4 (t / 2 ^ 27), body := bytesAt raw 0 72 }

def allZero (bs : List (BitVec 8)) : Bool := bs.all (· == 0)

/-- A DOWN whose REASON is reserved or whose rest is not 0 is bad (10 R273). -/
def downOk (body : List (BitVec 8)) : Bool := decide (numAt body 1 1 ≤ 2) && allZero (bytesAt body 2 70)

/-- The body rules a receiver can apply to plain bytes (10 R258, R273). -/
def bodyOk (f : Frame) : Bool :=
  let t := f.ftype.toNat
  if t = 0 ∨ t = 2 ∨ t = 3 then allZero f.body
  else if t = 4 then allZero (bytesAt f.body 16 56)
  else if t = 5 ∧ numAt f.body 0 1 = 3 then downOk f.body
  else true

/-- A good frame as received (10 R258). -/
def frameOk (raw : List (BitVec 8)) (f : Frame) (encrypted : Bool) : Bool :=
  let t := f.ftype.toNat
  raw.length == 80 && crc32c (bytesAt raw 0 76) == BitVec.ofNat 32 (numAt raw 76 4) && decide (t ≤ 5) && !bitOf (numAt raw 72 4) 31 &&
  (if t = 0 ∨ t = 3 then f.ccnt == 0 else if t = 2 then f.ccnt != 0 else true) && (f.ccnt != 0 || f.cvc == 0) &&
  (t != 4 || encrypted) && ((encrypted && seqType t && t != 4) || bodyOk f)

/-! ### Link encryption (15 R407, R408) -/

/-- The nonce of a group: the sender's link ID and the counter of its first frame. -/
def linkNonce (id : BitVec 32) (ctr : Nat) : List (BitVec 8) := leBytes 4 id.toNat ++ leBytes 8 ctr

/-- Bytes encrypted or decrypted from a place in the group's key stream. -/
def gcmCrypt (key nonce : List (BitVec 8)) (off : Nat) (bs : List (BitVec 8)) : List (BitVec 8) :=
  bs.zipIdx.map fun e => e.1 ^^^ gcmStream key nonce (off + e.2)

/-- The tag of a group over its frames as sent and the TAG frame's trailer (15 R408). -/
def groupTag (key nonce : List (BitVec 8)) (fs : List Frame) (tag : Frame) : List (BitVec 8) :=
  let aad := (fs ++ [tag]).flatMap fun f => leBytes 4 f.trailerLow
  let ct := fs.flatMap fun f => f.body
  gcmTag key nonce aad ct

end Sys2Proof.Machine
end

