-- ==== Sys2Proof/Machine/Gateway.lean ====
section
/-! DEFINITION. The guest gateway and the Eoset-X host ports: packets from outside the package and what answers them (01 R42 to R44; 10 R276,
R277, R281, R283). -/

namespace Sys2Proof.Machine

/-! ### Credits at a link's output -/

/-- Depth of the receiver at a link's far end: 64, or what a guest declared once its GCAP is accepted (10 R262, R263). -/
def State.linkDepth (s : State) (k v : Nat) : Nat := match s.guestOf k with
  | some g => if (s.link k).guestOk then (s.guest g).cap.rxDepth.getD v 0 else 64
  | none => 64

/-- SEND_CRED of a link (10 R262). -/
def State.linkCred (s : State) (k v : Nat) : Nat := s.linkDepth k v - tget 0 (s.link k).spent v

/-- Credits of flits a link end has consumed wait to be returned (10 R262). -/
def State.creditDue (s : State) (k v n : Nat) : State := s.modLink k fun e => { e with pendRet := tmod 0 e.pendRet v (· + n) }

/-- A response the gateway or port sends itself. -/
def gateRsp (k : Pkt) (resp : BitVec 3) (stamp : BitVec 32) (coarse : Bool) : Pkt :=
  { src := k.src, cls := .rsp, tag := k.tag, opc := 0x11, len := k.len, resp := resp, addr := k.addr, flow := k.flow, stamp := stamp,
    coarse := coarse }

/-- A request refused at the edge of the package is answered over its link; a posted write has no answer. -/
def State.edgeAnswer (s : State) (key : Nat) (k : Pkt) (resp : BitVec 3) : State :=
  if k.cls = .req then
    let d := laneDie key
    s.modLink key fun e => { e with answers := e.answers ++ [gateRsp k resp (s.stamp d) (s.coarse d)] }
  else s

/-- Bytes a packet's data flits carry: LEN + 1, and for CAS the new value in bytes 8 to 8 + LEN (07 R183, R184). -/
def carriedBytes (opc : BitVec 5) (len : BitVec 8) : Nat :=
  if opc.toNat / 2 = 4 then 8 + len.toNat + 1 else if opcHasData opc then len.toNat + 1 else 0

/-! ### Packets from a guest (10 R281; 01 R43, R44; 07 R187) -/

/-- A packet goes on into the network from its link's input VC. One that the meter moved to another VC of its class gives back the credits
    of the VC it came by (08 R215). -/
def State.fromLink (s : State) (key vc : Nat) (k : Pkt) : State :=
  match siteOfKey key with
  | some (node, l) =>
    (s.modRouter node (routerOfSite node l) fun x =>
      { x with inq := tmod [] x.inq (32 + k.vc) (· ++ [{ k with route := none, exit := none, chosen := false, noCred := decide (k.vc ≠ vc) }]),
               quietAt := s.now,
               wakeAt := if x.idle ∧ x.wakeAt = none then some s.now else x.wakeAt }).creditDue key vc (if k.vc = vc then 0 else k.flits)
  | none => s

/-- A guest packet discarded with ACCESS_DENIED and a log entry (01 R44, 07 R187, 10 R281); its credits go back. -/
def State.guestDrop (s : State) (key g vc : Nat) (k : Pkt) : State :=
  (s.noteDenial (laneDie key) (0x4000 + g) k true).creditDue key vc k.flits

/-- A guest request answered at the gateway; its credits go back. -/
def State.guestRefuse (s : State) (key vc : Nat) (k : Pkt) (resp : BitVec 3) : State :=
  (s.edgeAnswer key k resp).creditDue key vc k.flits

/-- Inside the MID range a guest declared (01 R43). -/
def Gcap.holds (c : Gcap) (src : BitVec 12) : Bool :=
  decide (c.midBase.toNat ≤ src.toNat) && decide (src.toNat < c.midBase.toNat + 2 ^ c.midLog2)

/-- The header of a guest packet as the gateway passes it on: the guest's own STAMP with FEAT bit 0, else the die's (10 R281). -/
def State.restamp (s : State) (key : Nat) (k : Pkt) : Pkt :=
  let d := laneDie key
  if (s.laneset key).feat.getLsbD 0 then k else { k with stamp := s.stamp d, coarse := s.coarse d }

/-- A request of a guest (10 R281): SRC, form, MAX_OUT, a TAG already in use, the address, then the meter. -/
def State.guestRequest (s : State) (key g vc : Nat) (wellFormed : Bool) (k : Pkt) : State :=
  let gs := s.guest g
  let live := gs.fromGuest.filter fun o => !o.orphan
  if ¬ gs.cap.holds k.src then (s.noteDenial (laneDie key) (0x4000 + g) k false).guestRefuse key vc k respDenied
  else if ¬ wellFormed then s.guestRefuse key vc k respTgtErr
  else if k.cls = .req ∧ gs.cap.maxOut ≤ live.length then s.guestRefuse key vc k respTgtErr
  else if k.cls = .req ∧ (gs.fromGuest.zip gs.fromSrc).any (fun e => e.1.tag == k.tag && e.2 == k.src) then s.guestRefuse key vc k respTgtErr
  else
    match s.decode k.addr.toNat with
    | none => s.guestRefuse key vc k respNoTarget
    | some (t, _) =>
      if ¬ s.sameExtent k.addr.toNat k.len.toNat then s.guestRefuse key vc k respNoTarget
      else
        let o : Outst := { tag := k.tag, dest := s.destOf k.src t, opc := k.opc, addr := k.addr, len := k.len, atPs := s.now }
        let s := if k.cls = .req then
            s.modGuest g fun x => { x with fromGuest := x.fromGuest ++ [o], fromSrc := x.fromSrc ++ [k.src] } else s
        let k := s.restamp key ({ k with rt := false, demoted := false, flow := 0, escape := false }.toDest (s.destOf k.src t))
        let r := s.meter (laneDie key) k
        r.1.fromLink key vc r.2

/-- A response of a guest: only to a request the gateway forwarded and that is outstanding (01 R44). -/
def State.guestResponse (s : State) (key g vc : Nat) (wellFormed : Bool) (k : Pkt) : State :=
  if ¬ wellFormed ∨ ¬ (s.guest g).toGuest.contains (k.src, k.tag) then s.guestDrop key g vc k
  else
    let s := s.modGuest g fun x => { x with toGuest := x.toGuest.filter fun e => e != (k.src, k.tag) }
    let rt := k.rt && k.flow != 0 && (s.flow k.flow.toNat).roundTrip
    s.fromLink key vc (s.restamp key ({ k with rt := rt, escape := rt, demoted := false }.toDest (destOfSrc k.src)))

/-- An event message of a guest: EVID 0-7 as the die's GUEST_EVENT, nothing else (10 R281). -/
def State.guestEvent (s : State) (key g vc : Nat) (wellFormed : Bool) (k : Pkt) : State :=
  if wellFormed ∧ k.opc = 0x18 ∧ k.evid.toNat < 8 then
    let evid := laneDie key * 0x60 + 0x18 + k.evid.toNat
    s.fromLink key vc (s.restamp key ({ k with evid := BitVec.ofNat 10 evid, rt := false, demoted := false, flow := 0, note := none }.toDest (hubDest 2)))
  else s.guestDrop key g vc k

/-- A whole packet from a guest, on the VC it came by. -/
def guestPacket (s : State) (key vc : Nat) (h : Nat) (data : List (BitVec 8)) (bad : Bool) : State :=
  match s.guestOf key with
  | none => s
  | some g =>
    let k0 := pktOfHeader h
    let k := { k0 with data := bytesAt data 0 (carriedBytes k0.opc k0.len), ue := bad && opcHasData k0.opc }
    if ¬ (s.link key).guestOk then s.creditDue key vc k.flits
    else match k.cls with
      | .req | .pwr => s.guestRequest key g vc (headerOk h) k
      | .rsp => s.guestResponse key g vc (headerOk h) k
      | .evt => s.guestEvent key g vc (headerOk h) k

/-! ### Requests from a host (10 R276, R277) -/

def hostMid (p : Nat) : BitVec 12 := BitVec.ofNat 12 (0x8F0 + p)

/-- A whole packet from the host of an Eoset-X port. -/
def hostPacket (s : State) (p vc : Nat) (h : Nat) (data : List (BitVec 8)) (bad : Bool) : State :=
  let key := 144 + p
  let k0 := pktOfHeader h
  let k := { k0 with data := bytesAt data 0 (carriedBytes k0.opc k0.len) }
  let s := s.creditDue key vc k.flits
  let m := s.master (hostMid p)
  match k.cls with
  | .rsp | .evt => s.noteDenial 8 0x1011 k true
  | _ =>
    let q : Req := { opc := k.opc, addr := k.addr, len := k.len, be := k.be, data := k.data,
                     poison := k.poison || (bad && opcHasData k.opc), ord := k.ord }
    if ¬ headerOk h then s.edgeAnswer key k respTgtErr
    else if 256 ≤ m.out.length ∧ k.cls = .req then s.edgeAnswer key k respTgtErr
    else if k.cls = .req ∧ (m.out.any fun o => o.hostTag == k.tag && !o.orphan) then s.edgeAnswer key k respTgtErr
    else (s.injectReq (hostMid p) q k.tag).1

end Sys2Proof.Machine
end

