-- ==== Sys2Proof/Machine/TimeOps.lean ====
section
/-! DEFINITION. The alignment of the F-dies' time: stepping and slewing on a parent's TOS, the states of R299, and the parent's choice. -/

namespace Sys2Proof.Machine

/-- The Eoset-X port whose lane 0 or 8 the master listens to (11 Table 11.1, Table 11.8). -/
def State.timeLaneKey (s : State) : Nat := if s.tb.laneSel then 145 else 144

/-- Units of 2^-80 s in a span of picoseconds, rounded down. -/
def ctrSpan (ps : Nat) : Nat := ps * 2 ^ 80 / 1000000000000

/-- A counter moved by a signed amount, held at 0 from below and wrapping with SEC. -/
def ctrMove (c : Nat) (d : Int) : Nat := (Int.toNat (Int.ofNat c + d)) % 2 ^ 112

/-- The key of the link end at a die's parent site (11 R297, Table 11.6). -/
def State.parentKey (s : State) (d : Nat) : Nat := linkKeyOf d (s.time d).mon.parent.toNat

/-- TIME_UNCAL, with its log entry (11 R299; 19 Table 19.3 type 0x18). -/
def State.raiseUncal (s : State) (d : Nat) : State :=
  let m := (s.time d).mon
  s.raiseEvent d (evidOf d 0x0C 0) m.ignored
    (some (mkEntry 0x18 2 (evidOf d 0x0C 0) (d + atLo 2 4 + atLo d 6) (ofInt 64 m.offset).toNat))

def State.modMon (s : State) (d : Nat) (f : TosMon → TosMon) : State := s.modTime d fun t => { t with mon := f t.mon }

/-- The queue is emptied, its entries counted as skipped (11 R307, Table 11.7). -/
def TimingPin.flushSched (p : TimingPin) : TimingPin := { p with sched := [], skipped := satAdd p.skipped p.sched.length }

/-- Entering DEEP empties the queues of a die's pins (11 R307); the pads hold their level. -/
def State.dropSched (s : State) (d : Nat) : State :=
  (List.range 8).foldl (fun (s : State) n => s.modTpin d n TimingPin.flushSched) s

/-- UNCAL to MEASURE: PARENT_OK and a VALID delay of the parent link (11 R299). The next TOS steps the counter. -/
def State.tryMeasure (s : State) (d : Nat) : State :=
  let m := (s.time d).mon
  if d < 8 ∧ m.state = .uncal ∧ m.parentOk ∧ (s.link (s.parentKey d)).delayValid ∧ (s.laneset (s.parentKey d)).state = .active then
    s.modMon d fun m => { m with state := .measure, since := s.now, run := 0, ignored := 0, stepDue := true, slew := 0 }
  else s

/-- A change of the parent link's latency: CAL and MEASURE start MEASURE again without a step (10 R267; 11 Table 11.2). -/
def State.remeasure (s : State) (d : Nat) : State :=
  let m := (s.time d).mon
  if d < 8 ∧ (m.state = .cal ∨ m.state = .measure) then
    s.modMon d fun m => { m with state := .measure, since := s.now, run := 0, ignored := 0, slew := 0 }
  else s

/-- LINK_DELAY of a link end becomes invalid, and the die it is the parent link of measures again (10 R267; 11 R298, Table 11.2). -/
def State.delayStale (s : State) (k : Nat) : State :=
  let s := s.modLink k fun e => { e with delayValid := false, tosCount := 0, phaseSum := 0 }
  match siteOfKey k with
  | some (d, _) => if d < 8 ∧ s.parentKey d = k then s.remeasure d else s
  | none => s

/-- The counter value a TOS names: SEC from SEC_HI and its 16 bits, FRAC, plus LINK_DELAY (11 R299; 10 Table 10.5). -/
def tosCtr (secHi : BitVec 16) (sec : BitVec 16) (frac delay : Nat) : Nat :=
  ((secHi.toNat * 65536 + sec.toNat) * 2 ^ 80 + frac * 2 ^ 32 + ctrSpan delay) % 2 ^ 112

/-- The offset of a counter against a TOS, in units of 2^-80 s: of the instants with the TOS's SEC[15:0] and FRAC the one nearest to the
    counter is meant (11 R299). -/
def tosOffset (ctr target : Nat) : Int :=
  let d := (ctr + 2 ^ 96 - target % 2 ^ 96) % 2 ^ 96
  if d < 2 ^ 95 then Int.ofNat d else Int.ofNat d - (2 ^ 96 : Int)

/-- A TOS at a die's parent link (11 R299): the step on entry to MEASURE from UNCAL, sixteen within 6 ps to CAL, slewing within 50 ps
    in CAL, and UNCAL after sixteen ignored. -/
def State.tosAligned (s : State) (d : Nat) (sec : BitVec 16) (frac : Nat) (k : Nat) : State :=
  let t := s.time d
  let m := t.mon
  let target := tosCtr m.secHi sec frac (s.link k).delay.toNat
  let o : Int := Int.ofNat (psOfCtr t.ctr) - Int.ofNat (psOfCtr (ctrMove t.ctr (- tosOffset t.ctr target)))
  match m.state with
  | .measure =>
    if m.stepDue then
      s.modTime d fun t => { t with ctr := target, mon := { t.mon with stepDue := false, offset := o, slew := 0, slewAt := s.now } }
    else
      let run := if -6 ≤ o ∧ o ≤ 6 then m.run + 1 else 0
      s.modMon d fun m =>
        { m with offset := o, slew := o, slewAt := s.now, run := if 16 ≤ run then 0 else run,
                 state := if 16 ≤ run then .cal else .measure, ignored := 0 }
  | .cal =>
    if -50 ≤ o ∧ o ≤ 50 then s.modMon d fun m => { m with offset := o, slew := o, slewAt := s.now, ignored := 0 }
    else if m.ignored + 1 < 16 then s.modMon d fun m => { m with offset := o, ignored := m.ignored + 1 }
    else
      let s := (s.modMon d fun m => { m with offset := o, ignored := 16 }).raiseUncal d
      (s.modMon d fun m => { m with state := .uncal, run := 0, slew := 0 }).tryMeasure d
  | _ => s

/-- A TOS that came on lane n enters the average of the CDR phase over 1,024 (11 R298). -/
def LinkEnd.addPhase (e : LinkEnd) (x : LaneSet) (n : Nat) : LinkEnd :=
  if 1024 ≤ e.tosCount then e else { e with tosCount := e.tosCount + 1, phaseSum := e.phaseSum + (x.lane n).phase.toNat }

/-- TOS received on lane n of a link end (10 R269; 11 R298, R299): every ACTIVE link averages over it; the parent link's sets the die's time. -/
def State.tosReceive (s : State) (k n : Nat) (sec : BitVec 16) (frac : Nat) : State :=
  match siteOfKey k, s.facing k with
  | some (d, l), .key _ =>
    let s := s.modLink k fun e => e.addPhase (s.laneset k) n
    let m := (s.time d).mon
    if d < 8 ∧ m.parentOk ∧ m.parent.toNat = l ∧ (s.link k).delayValid then (s.tryMeasure d).tosAligned d sec frac k else s
  | _, _ => s

/-- LINK_DELAY in ps (11 R298) of a TOS on lane n: trace delay, receive latency, the symbols in the elastic buffer and in the deskew buffer,
    which pads each lane up to the latest, at 1,250/3 ps each, less the averaged CDR phase in 1/64 of a UI of 125/3 ps. -/
def State.linkDelay (s : State) (k n : Nat) : Nat :=
  let x := s.laneset k
  let e := s.link k
  let late := ((s.rxLanes k).map fun i => (x.lane i).skew).foldl max 0
  let symbols := (x.lane n).fill + (late - (x.lane n).skew)
  Config.traceDelay k n + Config.rxLatency + (symbols * 1250 - e.phaseSum * 125 / (64 * max 1 e.tosCount)) / 3

/-! ### The parent of a die (11 R297, R300) -/

/-- The first ACTIVE site of a list with a VALID delay. -/
def State.validSite (s : State) (d : Nat) (ls : List Nat) : Option Nat :=
  ls.find? fun l => s.siteActive d l && (s.link (linkKeyOf d l)).delayValid

/-- The parent site of a die (11 R297), none without a candidate: the south sites first, then the sites that face die d xor 1 unless that
    die takes its time from this one. -/
def State.parentSite (s : State) (d : Nat) : Option Nat :=
  match s.validSite d [8, 9, 10, 11] with
  | some l => some l
  | none =>
    let side := if d % 2 = 0 then [4, 5, 6, 7] else [12, 13, 14, 15]
    let sib := if d % 2 = 0 then d + 1 else d - 1
    let back := if d % 2 = 0 then [12, 13, 14, 15] else [4, 5, 6, 7]
    if back.contains (s.time sib).mon.parent.toNat then none else s.validSite d side

/-- The die a site leads to; 8 is the H-die. -/
def parentDie (d l : Nat) : Nat :=
  if l / 4 = 2 then (if d < 2 then 8 else d - 2) else if d % 2 = 0 then d + 1 else d - 1

/-- The gable controller writes TD_PARENT of a die (11 R297, R300): the parent site, HOPS, SEC_HI, and PARENT_OK while the parent is CAL
    or the master. Without a candidate PARENT_OK clears, and the die is UNCAL once its parent link is not ACTIVE. -/
def State.updateParent (s : State) (d : Nat) : State :=
  match s.parentSite d with
  | some l =>
    let p := parentDie d l
    let ok := p == 8 || (s.time p).mon.state == .cal
    let hops := if p = 8 then 1 else (s.time p).mon.hops.toNat + 1
    (s.modMon d fun m =>
      { m with parentOk := ok, parent := BitVec.ofNat 4 l, hops := BitVec.ofNat 3 hops,
               secHi := BitVec.ofNat 16 (secOfCtr (s.time 8).ctr / 65536) }).tryMeasure d
  | none =>
    let lost := (s.laneset (s.parentKey d)).state != .active
    s.modMon d fun m =>
      { m with parentOk := false,
               state := if lost ∧ (m.state = .cal ∨ m.state = .measure) then .uncal else m.state,
               run := if lost then 0 else m.run, slew := if lost then 0 else m.slew }

end Sys2Proof.Machine
end

