-- ==== Sys2Proof/Machine/LaneSets.lean ====
section
/-! DEFINITION. Lane sets as a whole: entering and leaving ACTIVE, FAULT, OFF, bring-up and shut-down. -/

namespace Sys2Proof.Machine

/-! ### Links at entry to and exit from ACTIVE -/

/-- Credits and sequence at an entry to ACTIVE (10 R260, R263): SEND_CRED is 0 and the receiver owes its whole depth. -/
def LinkEnd.atActive (e : LinkEnd) (now : Nat) (depth : Nat → Nat) (rx tx : Tab Nat) (enc : Bool) : LinkEnd :=
  { e with
    nextSeq := 0, expSeq := 0, lastAcc := 0x3FF, nakDue := false, ackDue := false, nakOut := false, held := [], heldAt := now, replayQ := [],
    replayRun := 0, wire := [], outq := [], rxPart := [], lmsgDue := [], downSent := none, downGot := false,
    spent := (List.range 8).foldl (fun t v => tput 0 t v (depth v)) [], pendRet := (List.range 8).foldl (fun t v => tput 0 t v 64) [],
    rxMap := rx, txMap := tx, repairing := [], rprTry := 0, encrypted := enc, tagGroupTx := [], tagGroupRx := [], guestOk := false,
    answers := [], gcapBad := false, activeAt := now, delayValid := false, tosCount := 0, phaseSum := 0, idleTx := now, stallAt := [], votes := [],
    symBad := false, rxAt := now }

/-- The key of encryption of a link: Eoset-X ports and guest links (15 R406). -/
def State.mayEncrypt (s : State) (k : Nat) : Bool := laneKind k == 1 || (s.guestOf k).isSome

/-- The key held as the next one takes effect (15 R411). -/
def LinkKey.promote (x : LinkKey) : LinkKey := match x.next with
  | some key => { x with key := some key, next := none, txId := x.nextTx, rxId := x.nextRx, txCtr := 0, rxCtr := 0,
                         owner := x.nextOwner, nextOwner := 0 }
  | none => x

/-- An encrypted link leaves ACTIVE: key and counters are erased (15 R410, R411). Under TAMPER the digest stays. -/
def LinkKey.erase (x : LinkKey) (tamper : Bool) : LinkKey :=
  { x with
    key := none, txCtr := 0, rxCtr := 0, fails := [], needKey := true,
    digest := if tamper then x.key.map sha384 else x.digest }

/-- The results of LANE_UP: STATE and CAUSE (17 Table 17.10). -/
def laneResult (state : Nat) (cause : BitVec 5) : List (BitVec 8) := [BitVec.ofNat 8 state, cause.zeroExtend 8, 0, 0]

/-- Bring-up starts: the PLL starts before DETECT or LOCK (09 R241), with the mode and rate of the kind (09 R229, R231). -/
def State.bringUp (s : State) (k : Nat) : State :=
  s.modLaneset k fun x =>
    let x := x.allLanes k Lane.fresh
    { x with
      state := .off, test := false, loopSel := 0, pattern := 0, pllWait := true, pllLock := false, since := s.now, pendingEnable := false,
      reversed := false, tsbOn := false, capOk := false, cakSent := 0, cakGot := 0, txLp1 := false, rxLp1 := false, lp2 := false,
      lp2Exit := none, lqrSent := false, pulseAt := none, wakeHeld := false, lqAnsAt := none, setQ := [],
      mode := if laneKind k = 0 then 3 else if laneKind k = 1 then 2 else x.mode,
      n := if laneKind k = 0 then 240 else if laneKind k = 1 then 160 else x.n,
      dcode := if laneKind k = 2 then x.dcode else 0 }

/-- A lane set whose bring-up is refused until a key arrives (15 R410, R411). -/
def State.awaitsKey (s : State) (k : Nat) : Bool :=
  let x := s.linkKey k
  (s.laneset k).tamper || (x.needKey && x.key.isNone && x.next.isNone)

/-- The lane set is OFF: its LANE_DOWN completes, and a held LANE_UP starts (09 R244). -/
def State.laneOff (s : State) (k : Nat) : State :=
  let x := s.laneset k
  let s := s.modLaneset k fun x =>
    let x := x.allLanes k Lane.fresh
    { x with
      state := .off, test := false, loopSel := 0, pattern := 0, shutting := false, byPartner := false, pllWait := false, pllLock := false,
      txLp1 := false, rxLp1 := false, lp2 := false, lp2Exit := none, lqrSent := false, reversed := false, downCmds := [], since := s.now }
  let s := s.completeAll x.downCmds stOk []
  if x.pendingEnable then s.bringUp k else s

/-- A LANE_UP that an abandoned bring-up leaves behind completes FAULT with the state OFF. -/
def State.dropUp (s : State) (k : Nat) : State :=
  let x := s.laneset k
  (s.modLaneset k fun x => { x with upCmd := none, pendingEnable := false }).completeOpt x.upCmd stFault (laneResult 0 x.cause)

/-- The recovered clock of a lane set is declared stopped; a master locked to it holds over (09 R252, 11 R292). -/
def State.laneClockStops (s : State) (k : Nat) : State :=
  if s.tb.src = 2 ∧ k = s.timeLaneKey then
    s.modTb fun b => { b with cmpAt := none, mstate := if b.mstate = .locked then .holdover else b.mstate }
  else s

/-- A packet cut off partway is completed with poisoned data flits (07 R202). -/
def Pkt.fillPoison (p : Pkt) : Pkt :=
  { p with ue := true, missing := 0, data := p.data ++ List.replicate (carriedBytes p.opc p.len - p.data.length) 0 }

/-- A packet cut off partway goes on, one of a guest or host through the gateway or port (07 R187, R202; 01 R43). -/
def State.cutPacket (s : State) (k v : Nat) (p : Pkt) : State :=
  let p := p.fillPoison
  if laneKind k = 1 then hostPacket s (laneId k) v p.headerBits p.data true
  else if (s.guestOf k).isSome then guestPacket s k v p.headerBits p.data true
  else s.fromLink k v p

/-- The input VCs of a link site: what stood whole in them is discarded, packets cut off partway go on and hold no credit of the link that was
    (07 R202). -/
def State.dropInput (s : State) (k : Nat) : State :=
  let parts := (s.link k).rxPart.filterMap fun (q : Nat × Option Pkt) => q.2.map fun p => (q.1, p)
  let inq (s : State) (f : Nat × List Pkt → Option (Nat × List Pkt)) : State := match siteOfKey k with
    | some (node, l) => s.modRouter node (routerOfSite node l) fun x => { x with inq := x.inq.filterMap f }
    | none => s
  let s := inq s fun q => if q.1 / 8 = 4 then none else some q
  let s := parts.foldl (fun (s : State) q => s.cutPacket k q.1 q.2) s
  inq s fun q => some (if q.1 / 8 = 4 then (q.1, q.2.map fun (p : Pkt) => { p with noCred := true }) else q)

/-- The die whose events may be lost: its escape path to the event router crosses a link end (19 R489). -/
def State.eventPathUses (s : State) (d k : Nat) : Bool :=
  match s.pathTo (Config.controlPortSrc d) (mkDest d 5 0 2) (hubDest 2) with
  | none => false
  | some hs => hs.any fun h => h.port == 4 &&
    (match siteOfRouter h.node h.router with
     | some l => let k1 := linkKeyOf h.node l; k1 == k || s.partner k1 == some k
     | none => false)

/-- EVENT_GAP entries for the dies whose event path a link carried, with their Leggett error counters (19 R489). -/
def State.eventGaps (old s : State) (k : Nat) : State :=
  if 128 + 8 ≤ k then s
  else s.dieList.foldl (fun (s : State) d =>
    if old.eventPathUses d k then
      let g := (s.die d).leggett
      s.logNote (mkEntry 0x1A 2 noEvid (8 + atLo d 4) (g.cfgUe.toNat + atLo g.memUe.toNat 32))
    else s) s

/-- A guest site whose last accepted link left ACTIVE: GUEST_UP clears and the guest's requests are orphaned; what the package sent it
    is no longer answered (10 R280, R282, R283). -/
def State.guestLinkGone (s : State) (g : Nat) : State :=
  let d := s.siteDie g
  if (s.guest g).up ∧ (List.range 4).all (fun l => !(s.link (linkKeyOf d l)).guestOk) then
    s.modGuest g fun x =>
      { x with
        up := false, toGuest := [],
        fromGuest := x.fromGuest.map fun (o : Outst) => if o.orphan then o else { o with orphan := true, orphanAt := s.now } }
  else s

/-- A link leaves ACTIVE other than into LP1 or LP2 (07 R202; 10 R277, R283; 15 R411; 19 R489): its output, its retry buffer and its input
    VCs are discarded, a packet cut off partway goes on with poisoned data, a guest's or host's requests are orphaned. Frames already on the
    lanes reach the partner. -/
def State.linkGone (s : State) (k : Nat) (tamper : Bool) : State :=
  let old := s
  let e := s.link k
  let s := s.dropInput k
  let s := s.modLink k fun e =>
    { e with outq := [], held := [], replayQ := [], rxPart := [], lmsgDue := [], repairing := [], rprTry := 0,
             tagGroupTx := [], tagGroupRx := [], guestOk := false, answers := [], gcapBad := false,
             encrypted := false, delayValid := false, tosCount := 0, phaseSum := 0,
             rxMap := [], txMap := [], downSent := none, downGot := false }
  let s := match s.guestOf k with
    | some g => s.guestLinkGone g
    | none => s
  let s := if laneKind k = 1 then
      s.modMaster (BitVec.ofNat 12 (0x8F0 + laneId k)) fun m => { m with out := m.out.map fun (o : Outst) => { o with orphan := true } }
    else s
  let s := if e.encrypted then s.modLinkKey k fun x => x.erase tamper else s
  State.eventGaps old s k

/-- What leaving ACTIVE does for each kind, the lane set itself apart. -/
def State.leaveActive (s : State) (k : Nat) (tamper : Bool) : State :=
  let s := s.laneClockStops k
  if laneKind k = 2 then s else s.linkGone k tamper

/-- LANE_FAULT of a lane set, with its log entry (09 R242; 19 Table 19.3 type 0x0C, Table 19.4). -/
def State.raiseLaneFault (s : State) (k : Nat) (cause : BitVec 5) (lanes : Nat) : State :=
  let d := laneDie k
  let site := if laneKind k = 0 then laneId k else 0x10 + laneId k
  let evid := evidOf d 0x0B 0x3AB
  s.raiseEvent d evid (site + atLo cause.toNat 8)
    (some (mkEntry 0x0C 2 evid (d + atLo (laneKind k) 4 + atLo (laneId k) 7 + atLo cause.toNat 13) lanes))

/-- The lanes a FAULT names: the one it was found on, else those lost, or the whole set where none is. -/
def LaneSet.faultLanes (x : LaneSet) (k : Nat) (found : List Nat) : Nat :=
  let lost := (List.range (laneCount k)).filter fun n => (x.lane n).lost
  let ls := if found ≠ [] then found else if lost = [] then List.range (laneCount k) else lost
  ls.foldl (fun a n => a + 2 ^ n) 0

/-- A lane set enters FAULT (09 R242): CAUSE, LANE_FAULTS, LANE_FAULT and its entry; LANE_UP completes with the cause. A reference failure
    during a shut-down gives OFF instead (09 R244), and an encrypted link goes on to OFF but for TAMPER (15 R411). A set already in FAULT keeps its
    cause; one in OFF has no fault but DRIFT in a far-end loopback (09 R250). -/
def State.laneFaultOf (s : State) (k : Nat) (cause : Nat) (found : List Nat) : State :=
  let old := s
  let x := s.laneset k
  if x.state = .fault ∨ (x.state = .off ∧ ¬ x.pllWait ∧ ¬ (x.test ∧ cause = 7)) then s
  else if cause = 9 ∧ x.shutting then (s.leaveActive k false).laneOff k
  else
    let enc := x.state == .active && (s.link k).encrypted
    let lanes := x.faultLanes k found
    let s := if x.state = .active then s.leaveActive k (cause == 11) else s
    let c := BitVec.ofNat 5 cause
    let s := s.modLaneset k fun x =>
      let x := x.allLanes k Lane.fresh
      { x with
        state := .fault, cause := c, faults := satInc x.faults, since := s.now, pllWait := false, shutting := false, byPartner := false,
        txLp1 := false, rxLp1 := false, lp2 := false, lp2Exit := none, lqrSent := false, wakeHeld := false, lqAnsAt := none,
        test := false, loopSel := 0, pattern := 0, tamper := decide (cause = 11),
        upCmd := none, downCmds := [], reversed := false }
    let s := s.raiseLaneFault k c lanes
    let s := s.completeOpt x.upCmd stOk (laneResult 6 c)
    let s := if x.shutting then (s.completeAll x.downCmds stOk []).laneOff k else if enc ∧ cause ≠ 11 then s.laneOff k else s
    State.recheckFlows old s

/-- A FAULT of the lane set as a whole, or of the lanes it has lost. -/
def State.laneFault (s : State) (k : Nat) (cause : Nat) : State := s.laneFaultOf k cause []

/-- The lane set enters ACTIVE (09 R240, R241; 10 R263; 15 R406): a link starts its credits, sequence and encryption. A link with a key
    whose partner does not encrypt enters FAULT. -/
def State.enterActive (s : State) (k : Nat) : State :=
  let old := s
  let x := s.laneset k
  let key := (s.linkKey k).promote
  let enc := s.mayEncrypt k && key.key.isSome
  if enc ∧ ¬ x.feat.getLsbD 1 then s.laneFault k 4
  else
    let s := s.modLaneset k fun x => { x with state := .active, since := s.now, upCmd := none }
    let s := if laneKind k = 2 then s else
      let rx := spareMap fun n => (s.rxLanes k).contains n
      let tx := spareMap fun n => (x.lane n).detected
      let s := s.modLinkKey k fun x => { x.promote with needKey := if enc then false else x.needKey }
      s.modLink k fun e => e.atActive s.now (fun _ => 64) rx tx enc
    let s := s.completeOpt x.upCmd stOk (laneResult 5 x.cause)
    State.recheckFlows old s

/-- A shut-down begins (09 R244, 10 R272): routing no longer takes the site. -/
def State.shutDown (s : State) (k : Nat) (reason : BitVec 8) (byPartner : Bool) : State :=
  let s1 := s.modLaneset k fun x => { x with shutting := true, byPartner := byPartner, downReason := reason, lqrSent := false }
  State.recheckFlows s (s1.modLink k fun e => { e with drainAt := s.now })

end Sys2Proof.Machine
end

