-- ==== Sys2Proof/Machine/ClkOps.lean ====
section
/-! DEFINITION. Clock nodes: which exist, what each is fed by, whether a source runs, starting and stopping them (18 R455 to R461). -/

namespace Sys2Proof.Machine

/-! ### Node codes (18 R461, Table 18.3) -/
def codeDie (c : Nat) : Nat := c / 0x1000
def codeType (c : Nat) : Nat := c / 0x100 % 16
def codeIdx (c : Nat) : Nat := c % 0x100
def prefCode : Nat := 0x8F00

/-- How many nodes of a type a die has. -/
def nodeCount (hub : Bool) (ty : Nat) : Nat :=
  if hub then
    (if ty ≤ 5 then 1 else if ty = 6 then 8 else if ty = 0xA then 4 else if ty = 0xB then 16 else if ty = 0xC then 8 else if ty = 0xF then 1 else 0)
  else
    (if ty = 4 then 1 else if 7 ≤ ty ∧ ty ≤ 9 then 1 else if ty = 0xA then 6 else if ty = 0xB then 24 else if ty = 0xC then 16
     else if ty = 0xD then 32 else if ty = 0xE then 4 else 0)

/-- A node of the part. -/
def State.hasClock (s : State) (c : Nat) : Bool :=
  s.hasNode (codeDie c) && decide (codeIdx c < nodeCount (codeDie c == 8) (codeType c))

/-- A SOURCE of a node's list. -/
def sourceOk (c src : Nat) : Bool :=
  if codeType c = 0xD then decide (src ≤ 24) else if codeType c = 0xE then decide (src ≤ 32) else codeType c == 0xF && decide (src ≤ 2)

/-! ### Lane sets behind the derived nodes -/

/-- The lane set of a TXQ, RX or LNKCLK node. -/
def laneOfNode (c : Nat) : Nat :=
  let d := codeDie c; let i := codeIdx c
  if codeType c = 0xC then linkKeyOf d i
  else if codeType c = 0xA then (if d = 8 then 144 + i / 2 else 256 + 8 * d + i)
  else (if d = 8 then 144 + i / 8 else 256 + 8 * d + i / 4)

/-- The lane of an RX node in its set. -/
def laneOfRx (c : Nat) : Nat := if codeType c = 0xB then (if codeDie c = 8 then codeIdx c % 8 else codeIdx c % 4) else 0

/-- The recovered clock of a lane: ACTIVE and in neither low-power state (09 R252). -/
def State.recovered (s : State) (k n : Nat) : Bool :=
  let x := s.laneset k
  x.laneActive k n && !x.rxLp1 && !x.lp2 && x.lp2Exit.isNone

/-- The transmit side runs: its PLL is on (18 Table 18.2). -/
def State.laneClocked (s : State) (k : Nat) : Bool :=
  let x := s.laneset k
  (x.state != .off || x.pllLock || x.test) && !x.lp2

/-! ### Sources (18 Table 18.3) -/

/-- Key of a source that is no clock node: REFCLK, or the clock-capable input of a bank. -/
def refclkSrc : Nat := 0x10000
def bankSrc (d bank : Nat) : Nat := 0x20000 + d * 0x100 + bank

/-- The outside source that a selector's SOURCE stands for, where it stands for one. -/
def outsideOf (c src : Nat) : Option Nat :=
  if codeType c = 0xF then (if src = 0 then some refclkSrc else none)
  else if codeType c = 0xE then (if 1 ≤ src ∧ src ≤ 8 then some (bankSrc (codeDie c) (src - 1)) else none)
  else if 16 ≤ src ∧ src ≤ 23 then some (bankSrc (codeDie c) (src - 16)) else none

def State.srcAlive (s : State) (k : Nat) : Bool := !(s.clk.deadSrc.contains k)

/-- PREF is declared running. -/
def State.prefGood (s : State) : Bool := let n := s.node prefCode; n.state != .stopped && !n.failed

/-! ### Frequencies (18 Table 18.1, Table 18.3; 02 R54, R55) -/

/-- Line rate / 40 of a lane set, kHz (09 R231). -/
def State.laneKhz (s : State) (k : Nat) : Nat := let x := s.laneset k; 100000 * x.n.toNat / 2 ^ x.dcode.toNat / 40

/-- The reference of an FPLL by its SOURCE: the PREF branch, a clock-capable input or the recovered clock of a serial lane. -/
def State.refKhz (s : State) (d src : Nat) : Nat :=
  if src = 0 then 100000
  else if src ≤ 8 then (Config.inputKhz d (src - 1)).toNat
  else s.laneKhz (256 + 8 * d + (src - 9) / 4)

/-- The VCO of FPLL f, kHz, on its reference (02 R54). -/
def State.vcoKhz (s : State) (d f : Nat) : Nat :=
  let x := Config.imageFpll s.cfg.bundle d f
  s.refKhz d (s.node (d * 0x1000 + 0xE00 + f)).source.toNat * x.num / max 1 x.den

/-- An FPLL locks: its reference is 10 to 800 MHz and its VCO 2.0 to 4.0 GHz (02 R54). -/
def State.fpllOk (s : State) (d f : Nat) : Bool :=
  let r := s.refKhz d (s.node (d * 0x1000 + 0xE00 + f)).source.toNat
  decide (10000 ≤ r) && decide (r ≤ 800000) && decide (2000000 ≤ s.vcoKhz d f) && decide (s.vcoKhz d f ≤ 4000000)

/-- Frequency of a selector's source, kHz. Output o of an FPLL divides its VCO by 1 to 128. -/
def State.sourceKhz (s : State) (c src : Nat) : Nat :=
  let d := codeDie c
  if codeType c = 0xF then 100000
  else if codeType c = 0xE then s.refKhz d src
  else if src < 16 then s.vcoKhz d (src / 4) / (((Config.imageFpll s.cfg.bundle d (src / 4)).div.getD (src % 4) 0).toNat + 1)
  else if src < 24 then (Config.inputKhz d (src - 16)).toNat
  else 100000

/-- The highest FCLK frequency of the speed grade, kHz (02 R55). -/
def State.fclkMax (s : State) : Nat := if s.fuses.grade2 then 700000 else 600000

/-- A source that a selector may take: one of its list, and for an FCLK net none above the limit of R55 (18 R461). -/
def State.sourceFits (s : State) (c src : Nat) : Bool := sourceOk c src && (codeType c != 0xD || decide (s.sourceKhz c src ≤ s.fclkMax))

/-- A source of a selector is declared running. -/
def State.sourceRuns (s : State) (c src : Nat) : Bool :=
  match outsideOf c src with
  | some k => s.srcAlive k
  | none =>
    if codeType c = 0xF then s.recovered (if src = 1 then 144 else 145) 0
    else if codeType c = 0xE then (if src = 0 then s.prefGood else s.recovered (256 + 8 * codeDie c + (src - 9) / 4) ((src - 9) % 4))
    else if src = 24 then s.prefGood
    else
      let f := s.node (codeDie c * 0x1000 + 0xE00 + src / 4)
      f.state == .running && !f.failed && s.fpllOk (codeDie c) (src / 4)

/-- What CLK_NODE.STATE shows: stored for the selectors and the hard domains, derived for the clocks of channels and lanes; a hard domain
    holds over while PREF is failed (18 R459, Table 18.11). -/
def State.nodeState (s : State) (c : Nat) : NodeState :=
  let n := s.node c
  let ty := codeType c
  let base : NodeState :=
    if n.selMbx.isSome then .switching
    else if n.failed then (if n.state = .running then .running else .failed)
    else if n.stop then .stopped
    else if ty = 6 then
      (if (s.chan (codeIdx c)).state = .off ∨ (s.chan (codeIdx c)).state = .fault ∨ s.clk.pkg = .deep then .stopped else .running)
    else if ty = 0xA then (if s.laneClocked (laneOfNode c) then .running else .stopped)
    else if ty = 0xB ∨ ty = 0xC then (if s.recovered (laneOfNode c) (laneOfRx c) then .running else .stopped)
    else n.state
  if base = .running ∧ ty ≠ 0 ∧ ty ≠ 5 ∧ ty ≤ 0xA ∧ ¬ n.failed ∧ (s.node prefCode).failed then .holdover else base

/-! ### Starting and stopping (18 R459) -/

def State.startNode (s : State) (c : Nat) (src fb : BitVec 6) (khz : Nat) : State :=
  s.modNode c fun n =>
    { n with source := src, fallback := fb, state := .running, failed := false, forceOk := false, newSource := none, selMbx := none, freq := BitVec.ofNat 32 khz }

/-- The power controller stops a node; it is not monitored until it starts again (18 R462). A pending switch stays pending. -/
def State.stopNode (s : State) (c : Nat) : State :=
  s.modNode c fun n => { n with state := .stopped, failed := false, forceOk := false }

def noFallback : BitVec 6 := 0x3F
def nocKhz (s : State) : Nat := if s.fuses.grade2 then 1500000 else 1250000
def sclkKhz (s : State) : Nat := if s.fuses.grade2 then 1000000 else 800000

/-- PREF's source as the board chooses it: taken at once where it runs, else once it does (12 R311, R326; 18 R456). -/
def State.choosePref (s : State) (src fb : BitVec 6) : State :=
  let now := s.sourceRuns prefCode src.toNat
  s.modNode prefCode fun n =>
    { n with source := if now then src else n.source, newSource := if now then none else some src, fallback := fb }

/-- PREF as the REFSRC strap sets it, with REFCLK as fallback (12 R311; 18 R456). -/
def State.strapPref (s : State) : State :=
  let s := s.modNode prefCode fun n => { n with source := 0, newSource := none, selMbx := none, forceOk := false, fallback := 0 }
  if s.cfg.straps.getLsbD 5 then s.choosePref 1 0 else s

/-- The nodes of the H-die's core and time-base PLLs, and PREF (12 R312). -/
def State.startHub (s : State) : State :=
  let s := s.startNode 0x8000 0 noFallback 33
  let s := s.startNode 0x8100 0 noFallback 600000
  let s := s.startNode 0x8200 0 noFallback (nocKhz s)
  let s := s.startNode 0x8300 0 noFallback 500000
  let s := s.startNode 0x8400 0 noFallback 1000000
  let s := s.startNode 0x8500 0 noFallback 50000
  let s := (s.startNode prefCode 0 0 100000).strapPref
  s.dieList.foldl (fun (s : State) d => s.startNode (d * 0x1000 + 0x400) 0 noFallback 1000000) s

/-- The CLOCK entry's choice for a node, else the image's (12 Table 12.13). -/
def State.nodeChoice (s : State) (c : Nat) : Bool × BitVec 6 × BitVec 6 :=
  let i := Config.imageClock s.cfg.bundle c
  match s.cfg.board.nodes.find? fun e => e.1 == c with
  | some e => (true, e.2.1, e.2.2)
  | none => i

/-- NOC PLL, FPLLs and FCLK nets of a die start: those the image uses (12 R333 P1; 18 Table 18.2). -/
def State.startDie (s : State) (d : Nat) : State :=
  let s := s.startNode (d * 0x1000 + 0x700) 0 noFallback (nocKhz s)
  let s := s.startNode (d * 0x1000 + 0x800) 0 noFallback (sclkKhz s)
  let s := s.startNode (d * 0x1000 + 0x900) 0 noFallback 400000
  let sel (base n : Nat) (s : State) : State := (List.range n).foldl (fun (s : State) i =>
    let c := d * 0x1000 + base + i
    let ch := s.nodeChoice c
    if ch.1 then s.startNode c ch.2.1 ch.2.2 (s.sourceKhz c ch.2.1.toNat) else s) s
  sel 0xD00 32 (sel 0xE00 4 s)

/-- The same after NAP or DEEP: each node at the source it had (18 Table 18.2). -/
def dieNodes (d : Nat) : List Nat :=
  [d * 0x1000 + 0x700, d * 0x1000 + 0x800, d * 0x1000 + 0x900] ++ ((List.range 4).map fun i => d * 0x1000 + 0xE00 + i) ++
    (List.range 32).map fun i => d * 0x1000 + 0xD00 + i

def State.napDie (s : State) (d : Nat) : State := (dieNodes d).foldl (fun (s : State) c => s.stopNode c) s

/-- Nodes that had a frequency start again. -/
def State.unnapDie (s : State) (d : Nat) : State :=
  (dieNodes d).foldl (fun (s : State) c =>
    if (s.node c).freq = 0 then s else s.modNode c fun n => { n with state := .running }) s

end Sys2Proof.Machine
end

