-- ==== Sys2Proof/Machine/DramOps.lean ====
section
/-! DEFINITION. DDR5 lines: where a channel address lies, what a line stores, and its way through the Flashing unit. -/

namespace Sys2Proof.Machine

/-! ### Geometry (14 R378 to R380) -/

def State.declOf (s : State) (n : Nat) : DramDecl := (s.chan n).decl.getD DramDecl.reset

/-- c of Table 14.4: lines of a row as a power of two. -/
def DramDecl.colBits (d : DramDecl) : Nat := if d.width = 4 then 7 else 6
/-- r of Table 14.4: logical ranks as a power of two. -/
def DramDecl.rankBits (d : DramDecl) : Nat := d.ranks.log2

/-- The number of set bits of a number below 2^64, modulo 2. -/
def parity (v : Nat) : Bool := (List.range 64).foldl (fun p i => p != bitOf v i) false

/-- A bit of C, or the XOR its mask selects (14 R380): k = 0 SC, 1 BA0, 2 BA1, 3 BG0, 4 BG1, 5 BG2. -/
def State.bankBit (s : State) (n c k : Nat) : Nat :=
  let m := (tget 0 s.dram.hash k).toNat
  if m = 0 then bnat (bitOf c (6 + (s.declOf n).colBits + k)) else bnat (parity (c &&& m))

/-- Subchannel, rank, bank group, bank, row and column of a channel address (14 R379). -/
structure Loc where
  sub : Nat
  rank : Nat
  bg : Nat
  bank : Nat
  row : Nat
  col : Nat
deriving DecidableEq, Repr

def State.locate (s : State) (n c : Nat) : Loc :=
  let d := s.declOf n
  let cb := d.colBits
  { sub := s.bankBit n c 0, bank := s.bankBit n c 1 + 2 * s.bankBit n c 2,
    bg := s.bankBit n c 3 + 2 * s.bankBit n c 4 + 4 * s.bankBit n c 5,
    rank := bitsOf c (12 + cb) d.rankBits, row := c / 2 ^ (12 + cb + d.rankBits), col := bitsOf c 6 cb * 16 }

/-- Key of a bank among the open rows. -/
def Loc.bankKey (l : Loc) : Nat := ((l.sub * 16 + l.rank) * 8 + l.bg) * 4 + l.bank

/-! ### Flashing (15 R395 to R400) -/

def FlashRegion.holds (r : FlashRegion) (a : Nat) : Bool := r.valid && decide (r.base.toNat ≤ a) && decide (a ≤ r.limit.toNat)

/-- The Flashing region of a package address, with its number (15 R395). -/
def State.flashRegion (s : State) (a : Nat) : Option (Nat × FlashRegion) := s.fregions.find? fun e => e.2.holds a

def FlashUnit.slot (u : FlashUnit) (k : Nat) : KeySlot := tget KeySlot.reset u.slots k
def KeySlot.key1 (k : KeySlot) : Bytes := bytesAt k.keys 0 32
def KeySlot.key2 (k : KeySlot) : Bytes := bytesAt k.keys 32 32
def KeySlot.keyT (k : KeySlot) : Bytes := bytesAt k.keys 64 32

/-- How the unit of channel n treats a line: its region's number and definition and the region's key slot (15 R396, R397). -/
abbrev FlashView := Option (Nat × FlashRegion × KeySlot)

def State.flashView (s : State) (n a : Nat) : FlashView := (s.flashRegion a).map fun (i, r) => (i, r, (s.funit n).slot r.slot.toNat)

/-- A line that needs a key its unit does not hold (15 R396). -/
def lacksKey (v : FlashView) : Bool := v.any fun (_, r, k) => (r.enc || r.integ) && !k.loaded

/-- The view of a line of a request that came by channel n: the line's own channel treats it (14 R378; 15 R396). -/
def State.lineView (s : State) (n a : Nat) : FlashView := s.flashView ((s.dram.map a).getD (n, 0)).1 a

/-- The data unit and first block index of a line (15 R399). -/
def FlashRegion.lbn (r : FlashRegion) (a : Nat) : Nat := ((a - r.base.toNat) / 2 ^ r.sectorLog2.toNat + r.lba.toNat) % 2 ^ 64
def FlashRegion.block (r : FlashRegion) (a : Nat) : Nat := a % 2 ^ r.sectorLog2.toNat / 16

/-- The bytes a line stores for its plaintext, and the plaintext of its stored bytes (15 R399, Table 15.1). -/
def flashCrypt (v : FlashView) (dec : Bool) (a : Nat) (data : Bytes) : Bytes :=
  match v with
  | some (_, r, k) => if r.enc then xtsBlocks dec k.key1 k.key2 (r.lbn a) (r.block a) data else data
  | none => data

/-- The integrity tag of a line's stored bytes: the leftmost 64 bits of AES-256-GMAC; 0 where the region asks for none (15 R397, R400). -/
def flashTag (v : FlashView) (a : Nat) (stored : Bytes) : BitVec 64 :=
  match v with
  | some (i, r, k) =>
    if r.integ then
      let ad := leBytes 8 a ++ leBytes 1 i
      BitVec.ofNat 64 (beNat ((gcmTag k.keyT (ad ++ leBytes 3 0) (stored ++ ad ++ leBytes 7 0) []).take 8))
    else 0
  | none => 0

/-- A line whose tag is checked on reads (15 Table 15.1). -/
def tagged (v : FlashView) : Bool := v.any fun e => e.2.1.integ

/-! ### Stored lines (14 R387, R390, R391) -/

/-- Key of the first byte of a line among the stored bytes. -/
def lineKey (n c : Nat) : Nat := n * 2 ^ 42 + c / 64 * 64

def State.lineState (s : State) (n c : Nat) : LineState := tget .unwritten (s.chan n).lines (c / 64)
def State.setLine (s : State) (n c : Nat) (l : LineState) : State := s.modChan n fun x => { x with lines := tput .unwritten x.lines (c / 64) l }
/-- The 64 bytes a line stores. -/
def State.stored (s : State) (n c : Nat) : Bytes := tabBytes s.dram.bytes (lineKey n c) 64

/-- A full line written through the Flashing unit: encrypted, tagged, with a good code (15 R402). -/
def State.storeLine (s : State) (v : FlashView) (n c a : Nat) (plain : Bytes) : State :=
  let st := flashCrypt v false a plain
  (s.modDram fun x => { x with bytes := tabWrite x.bytes (lineKey n c) st }).setLine n c (.good (flashTag v a st))

/-! ### What a read finds (14 R388, R390, R391; 15 R401) -/

/-- The outcome of reading a line: data with OK, the poison mark, a code that fails, a tag that fails; whether an error was corrected. -/
inductive Found where
  | data (plain : Bytes) (corrected : Bool)
  | mark
  | bad
  | tag (corrected : Bool)
deriving DecidableEq, Repr

/-- Reading one line. A disturbance that the code cannot correct stays in the line. A line never written reads a free value, or fails its code or
    its tag, as a free value has it. -/
def State.readLine (s : State) (v : FlashView) (n c a : Nat) (u : Sys2Proof.DramUpset) : State × Found :=
  match s.lineState n c with
  | .poison => (s, .mark)
  | .bad => (s, .bad)
  | .good t =>
    if u = .uncorrectable then (s.setLine n c .bad, .bad)
    else
      let st := s.stored n c
      if tagged v ∧ (u = .tagBad ∨ flashTag v a st ≠ t) then (s, .tag (u == .corrected))
      else (s, .data (flashCrypt v true a st) (u == .corrected))
  | .unwritten =>
    let pick := s.freeVal
    let data := (List.range 8).flatMap fun i => leBytes 8 (s.freeValAt (1 + i)).toNat
    let s := s.drew 9
    if pick.getLsbD 0 then (s, .bad) else if tagged v ∧ pick.getLsbD 1 then (s, .tag (u == .corrected)) else (s, .data data (u == .corrected))

/-! ### Reports (14 R388, R389; 15 R401, R403; 19 Table 19.3, Table 19.5) -/

/-- LOC_A of DRAM_CE and DRAM_UE. -/
def State.dramLoc (s : State) (n c : Nat) : Nat :=
  let l := s.locate n c
  8 + atLo n 4 + atLo l.sub 7 + atLo l.rank 8 + atLo l.bg 12 + atLo l.bank 15

/-- A corrected read: counted, logged, DRAM_CE at most once per 1 ms. The device, which mode A names, is a free value. -/
def State.noteCe (s : State) (n c a : Nat) (scrub : Bool) : State :=
  let x := s.chan n
  let dev := if (s.declOf n).eccB then 0 else (s.freeVal.toNat % 32)
  let s := if (s.declOf n).eccB then s else s.drew 1
  let e := (mkEntry 0x0F 1 (0x380 + 4 * n) (s.dramLoc n c + atLo dev 17) (a / 64 * 64)).byScrub scrub
  let s := s.modChan n fun x => { x with ce := satInc x.ce }
  if x.ceAt.any fun t => s.now < t + psMs then s.logNote { e with evid := BitVec.ofNat 16 noEvid }
  else (s.modChan n fun x => { x with ceAt := some s.now }).raiseHub (0x380 + 4 * n) (a / 64 * 64 % 2 ^ 32) (some e)

/-- An uncorrectable line: counted, DRAM_UE, logged; `refused` marks a partial write or read-modify-write that it refused. -/
def State.noteUe (s : State) (n c a : Nat) (refused scrub : Bool) : State :=
  (s.modChan n fun x => { x with ue := satInc x.ue }).raiseHub (0x381 + 4 * n) (a / 64 * 64 % 2 ^ 32)
    (some ((mkEntry 0x10 2 (0x381 + 4 * n) (s.dramLoc n c + atBit refused 22) (a / 64 * 64)).byScrub scrub))

/-- A tag that failed: SEC_ALARM and its entry (15 R401, R403). -/
def State.noteTag (s : State) (v : FlashView) (n a : Nat) (src : BitVec 12) (refused : Bool) : State :=
  let r := (v.map (·.1)).getD 0
  s.raiseHub 0x3A5 n
    (some (mkEntry 0x13 2 0x3A5 (8 + atLo n 4 + atLo r 7 + atLo src.toNat 13 + atBit refused 25) a))

/-- DRAM_FAULT of a channel with its entry (14 R370, R373 to R375, R377). -/
def State.raiseDramFault (s : State) (n cause step addr : Nat) : State :=
  s.raiseHub (0x382 + 4 * n) cause (some (mkEntry 0x11 2 (0x382 + 4 * n) (8 + atLo n 4 + atLo cause 7 + atLo step 12) addr))

/-! ### What the configuration loader reads (13 R350) -/

/-- `k` lines of the DRAM window from line address `a`, as the configuration loader reads them: none where a response is a bus error. -/
def State.fetchLines (s : State) : Nat → Nat → Option Bytes
  | 0, _ => some []
  | k + 1, a =>
    match s.dram.map a with
    | none => none
    | some (n, c) =>
      if (s.chan n).state ≠ .up ∨ lacksKey (s.flashView n a) then none
      else
        match (s.readLine (s.flashView n a) n c a .none).2 with
        | .data p _ => (s.fetchLines k (a + 64)).map fun rest => p ++ rest
        | _ => none

/-- Bytes of DRAM that the loader reads; none where a read returns a bus error. -/
def State.fetch (s : State) (a len : Nat) : Option Bytes :=
  if len = 0 then some []
  else
    let a0 := a / 64 * 64
    (s.fetchLines ((a + len - 1) / 64 - a / 64 + 1) a0).map fun b => bytesAt b (a - a0) len

end Sys2Proof.Machine
end

