-- ==== Sys2Proof/Machine/DramServe.lean ====
section
/-! DEFINITION. A DDR5 channel at work: its ingress ports, its command queues, reads, writes and refresh (14 R374, R375, R381 to R392). -/

namespace Sys2Proof.Machine

/-! ### The lines of a packet (07 R183; 14 R389) -/

def Pkt.lineCount (k : Pkt) : Nat := (k.addr.toNat % 64 + k.len.toNat) / 64 + 1
def Pkt.lineAddr (k : Pkt) (i : Nat) : Nat := k.addr.toNat / 64 * 64 + 64 * i

/-- Payload byte `j` of a write is enabled (07 R183). -/
def Pkt.enabled (k : Pkt) (j : Nat) : Bool := !opcWrite k.opc || decide (64 ≤ j) || k.be.getLsbD j

/-- What a packet touches of its line `i`: byte of the line and payload byte. -/
def Pkt.cover (k : Pkt) (i : Nat) : List (Nat × Nat) :=
  (List.range 64).filterMap fun b =>
    let a := k.lineAddr i + b
    if k.addr.toNat ≤ a ∧ a ≤ k.addr.toNat + k.len.toNat ∧ k.enabled (a - k.addr.toNat) then some (b, a - k.addr.toNat) else none

/-- A line with the bytes of a write merged in. -/
def Pkt.merge (k : Pkt) (i : Nat) (line : Bytes) : Bytes :=
  (k.cover i).foldl (fun l (e : Nat × Nat) => l.set e.1 (k.data.getD e.2 0)) line

/-- The value a read-modify-write leaves for the value it finds (07 R184). -/
def Pkt.rmw (k : Pkt) (old : Nat) : Nat :=
  let n := k.len.toNat + 1
  let op := numAt k.data 0 n
  if k.opc.toNat / 2 = 3 then op
  else if k.opc.toNat / 2 = 4 then (if old = op then numAt k.data 8 n else old)
  else (old + op) % 2 ^ (8 * n)

/-! ### Answers -/

def dramPort (p : Nat) : Nat := 5 + p

/-- The RESP of a packet with several lines: a failed tag over a failed code over none. -/
def worse (a b : BitVec 3) : BitVec 3 := if a = respOk then b else if b = respInteg then b else a

/-- A packet whose lines are all finished is answered (14 R388, R389; 15 R401, R403). -/
def State.dramAnswer (s : State) (n : Nat) (x : DramPkt) : State :=
  let len := x.pkt.len.toNat + 1
  if x.resp = respOk then s.respond 8 n (dramPort x.port) x.pkt respOk (tabBytes x.got 0 len)
  else if x.resp = respPoison ∧ ¬ opcWrite x.pkt.opc then
    (s.respond 8 n (dramPort x.port) x.pkt respPoison (s.freeBytes len)).drew len
  else s.respond 8 n (dramPort x.port) x.pkt x.resp []

/-- A line of a packet is finished, with what it read and its RESP. -/
def State.lineDone (s : State) (n ident line : Nat) (got : List (Nat × BitVec 8)) (resp : BitVec 3) : State :=
  match (s.chan n).serving.find? fun x => x.ident == ident with
  | none => s
  | some x =>
    let x := { x with left := x.left.filter (· != line), resp := worse x.resp resp,
                      got := got.foldl (fun t (e : Nat × BitVec 8) => tput 0 t e.1 e.2) x.got }
    if x.left = [] then (s.modChan n fun c => { c with serving := c.serving.filter fun y => y.ident != ident }).dramAnswer n x
    else s.modChan n fun c => { c with serving := c.serving.map fun y => if y.ident = ident then x else y }

/-! ### Ingress ports (14 R381, R383) -/

def Channel.port (x : Channel) (p : Nat) : DramPort := tget DramPort.reset x.ports p
def Channel.modPort (x : Channel) (p : Nat) (f : DramPort → DramPort) : Channel := { x with ports := tmod DramPort.reset x.ports p f }
def DramPort.level (p : DramPort) : Nat := p.q.length + p.rtq.length

/-- The rank's rows are closed by its refresh. -/
def Channel.closeRank (x : Channel) (rank : Nat) : Channel := { x with openRow := x.openRow.filter fun e => e.1 / 32 % 16 != rank }

def Channel.panicking (x : Channel) : List Nat := (List.range 16).filter fun p => (x.port p).panic

/-- Once no port is in panic, the refreshes owed are issued first (14 R383). -/
def Channel.payOwed (x : Channel) : Channel :=
  if x.panicking = [] then { x.owed.foldl (fun (y : Channel) e => y.closeRank e.1) x with owed := [] } else x

/-- A port is in panic while its RT queue holds more than PANIC_TH; each entry into panic counts; the end of panic pays the refreshes owed
    (14 R383). -/
def Channel.evalPanic (x : Channel) : Channel :=
  ((List.range 16).foldl (fun (x : Channel) p =>
    let q := x.port p
    let on := q.rt && decide (q.panicTh.toNat < q.rtq.length)
    if on = q.panic then x
    else let y := x.modPort p fun q => { q with panic := on }; if on then { y with panicCnt := satInc y.panicCnt } else y) x).payOwed

/-- Whether the queue a packet goes to has room: two queues of 16 on a real-time port, one of 32 on any other. -/
def DramPort.room (q : DramPort) (k : Pkt) : Bool :=
  if q.rt then (if k.rt then decide (q.rtq.length < 16) else decide (q.q.length < 16)) else decide (q.level < 32)

def DramPort.put (q : DramPort) (k : Pkt) : DramPort := if q.rt ∧ k.rt then { q with rtq := q.rtq ++ [k] } else { q with q := q.q ++ [k] }

/-- A read-modify-write a target accepts (07 R184). -/
def Pkt.rmwOk (k : Pkt) : Bool :=
  !opcRmw k.opc || ((k.len == 3 || k.len == 7) && k.addr.toNat % (k.len.toNat + 1) == 0)

/-- A packet at ingress port p of channel n: the access table, then the channel's state, then the key of every line it touches, then its place in
    the port's queue (01 R35; 14 R375, R381; 15 R396). None: the queue is full and the packet stays in the network. -/
def State.dramArrive (s : State) (n p : Nat) (k : Pkt) : Option State :=
  let x := s.chan n
  if k.cls ≠ .req ∧ k.cls ≠ .pwr then some s
  else if ¬ s.portAdmits 8 n (dramPort p) k then some (s.denyAtPort 8 n (dramPort p) k)
  else if x.state ≠ .up then
    if k.cls = .pwr then some (s.raiseDramFault n x.cause.toNat 0 k.addr.toNat) else some (s.respond 8 n (dramPort p) k respTgtErr [])
  else if ¬ k.rmwOk then some (s.respond 8 n (dramPort p) k respTgtErr [])
  else if (List.range k.lineCount).any fun i => lacksKey (s.lineView n (k.lineAddr i)) then
    some ((s.modFunit n fun u => { u with noKey := satInc u.noKey }).respond 8 n (dramPort p) k respTgtErr [])
  else if (x.port p).room k then some (s.modChan n fun x => (x.modPort p fun q => q.put k).evalPanic)
  else none

/-- TARGET_REQUEST at an ingress port: the oldest packet delivered there. -/
def dramRequest (s : State) (n p : Nat) : State :=
  match tget [] (s.router 8 n).inbox (dramPort p) with
  | [] => s
  | k :: _ =>
    match s.dramArrive n p k with
    | some s' => s'.modRouter 8 n fun x => { x with inbox := tmod [] x.inbox (dramPort p) List.tail }
    | none => s

/-! ### Command queues (14 R382, R383) -/

def Channel.queue (x : Channel) (sub : Nat) : List DramCmd := tget [] x.cmdq sub

/-- The entries a packet makes, one for each line it touches. -/
def State.entriesOf (s : State) (n ident : Nat) (k : Pkt) (prio : Bool) : List DramCmd :=
  (List.range k.lineCount).filterMap fun i =>
    let cov := k.cover i
    let a := k.lineAddr i
    let mc := (s.dram.map a).getD (n, 0)
    if cov = [] then none
    else some
      { ident := ident, line := i, addr := BitVec.ofNat 48 a, ch := mc.1, c := mc.2, atPs := s.now, write := opcWrite k.opc,
        full := opcWrite k.opc && (cov.length == 64 || k.poison), prio := prio,
        flash := s.lineView n a }

def State.subOf (s : State) (e : DramCmd) : Nat := (s.locate e.ch e.c).sub

/-- A packet leaves its port for the command queues, when they have room for all its lines; from here on the Flashing unit treats its lines by
    the definitions and keys of this instant, and a packet whose slot has been emptied since it arrived is refused (15 R396, R404). -/
def State.takePkt (s : State) (n p : Nat) (rt prio : Bool) (k : Pkt) : Option State :=
  let x := s.chan n
  let es := s.entriesOf n x.nextId k prio
  let fits (sub : Nat) : Bool := decide ((x.queue sub).length + (es.filter fun e => s.subOf e == sub).length ≤ 64)
  let leave (x : Channel) : Channel :=
    (x.modPort p fun q => if rt then { q with rtq := q.rtq.tail } else { q with q := q.q.tail }).evalPanic
  if (List.range k.lineCount).any fun i => lacksKey (s.lineView n (k.lineAddr i)) then
    some (((s.modChan n leave).modFunit n fun u => { u with noKey := satInc u.noKey }).respond 8 n (dramPort p) k respTgtErr [])
  else if fits 0 && fits 1 then
    let pk : DramPkt := { ident := x.nextId, pkt := k, port := p, left := es.map DramCmd.line }
    let s := s.modChan n fun x =>
      let x := leave x
      { x with
        nextId := x.nextId + 1, rr := p, serving := x.serving ++ [pk],
        cmdq := (List.range 2).foldl (fun t sub => tmod [] t sub (· ++ es.filter fun e => s.subOf e == sub)) x.cmdq }
    some (if es = [] then (s.modChan n fun c => { c with serving := c.serving.filter fun y => y.ident != pk.ident }).dramAnswer n pk else s)
  else none

/-- The first packet, in round-robin order of the ports, that the command queues can take; a real-time queue before the other. -/
def State.feedOne (s : State) (n : Nat) : Option State :=
  let x := s.chan n
  let pan := x.panicking
  let order (l : List Nat) : List Nat := roundRobin l x.rr
  if pan ≠ [] then
    (order pan).findSome? fun p => match (x.port p).rtq with
      | k :: _ => s.takePkt n p true true k
      | [] => none
  else
    (order (List.range 16)).findSome? fun p =>
      let q := x.port p
      (match q.rtq with
       | k :: _ => s.takePkt n p true false k
       | [] => none).or
      (match q.q with
       | k :: _ => s.takePkt n p false false k
       | [] => none)

/-- The command queues fill from the ports: one packet while a port is in panic, otherwise as many as fit. -/
def State.feed (s : State) (n : Nat) : Nat → State
  | 0 => s
  | k + 1 =>
    match s.feedOne n with
    | none => s
    | some s' => if (s.chan n).panicking ≠ [] then s' else s'.feed n k

/-- Entries that may be issued: not yet issued and first of their line in the queue (14 R381). -/
def readyOf (q : List DramCmd) : List DramCmd :=
  q.zipIdx.filterMap fun e =>
    if e.1.issued then none
    else if (q.take e.2).any fun b => b.ch == e.1.ch && b.c / 64 == e.1.c / 64 then none else some e.1

def State.rowOpen (s : State) (n : Nat) (e : DramCmd) : Bool :=
  let l := s.locate e.ch e.c
  tget 0 (s.chan n).openRow l.bankKey == l.row + 1

/-- The three steps of R382 over some entries, oldest first. -/
def State.pickOf (s : State) (n : Nat) (es : List DramCmd) : Option DramCmd :=
  ((es.find? fun e => decide (e.atPs + 2 * psUs < s.now)).or (es.find? fun e => s.rowOpen n e)).or es.head?

/-- Writes drain from 48 held, or while no read is pending, until 16 remain (14 R382). -/
def Channel.drainNow (x : Channel) (sub : Nat) (noRead : Bool) : Bool :=
  let w := ((x.queue sub).filter fun e => e.write).length
  if 48 ≤ w ∨ noRead then true else if w ≤ 16 then false else tget false x.draining sub

/-- The entry a subchannel issues next (14 R382, R383): panic entries first; during panic no write of another port. -/
def State.pick (s : State) (n sub : Nat) : Option DramCmd :=
  let x := s.chan n
  let rd := readyOf (x.queue sub)
  match rd.find? fun e => e.prio with
  | some e => some e
  | none =>
    let reads := rd.filter fun e => !e.write
    if x.panicking ≠ [] then s.pickOf n reads
    else
      match rd.find? fun e => decide (e.atPs + 2 * psUs < s.now) with
      | some e => some e
      | none => s.pickOf n (if x.drainNow sub reads.isEmpty then rd else reads)

/-! ### The effect of a line's command -/

def State.dropEntry (s : State) (n sub : Nat) (e : DramCmd) : State :=
  s.modChan n fun x => { x with cmdq := tmod [] x.cmdq sub fun q => q.filter fun y => !(y.ident == e.ident && y.line == e.line) }

def State.pktOf (s : State) (n ident : Nat) : DramPkt := ((s.chan n).serving.find? fun x => x.ident == ident).getD DramPkt.reset

/-- A write that needs no read: a full line, or the poison mark (14 R389, R390). -/
def State.writeFull (s : State) (n : Nat) (e : DramCmd) : State :=
  let k := (s.pktOf n e.ident).pkt
  let s := if k.poison then s.setLine e.ch e.c .poison
    else s.storeLine e.flash e.ch e.c e.addr.toNat (k.merge e.line (List.replicate 64 0))
  s.lineDone n e.ident e.line [] respOk

/-- What a read, a partial write or a read-modify-write does with the line it read (14 R388 to R390; 15 R401, R403). -/
def State.lineRead (s : State) (n : Nat) (e : DramCmd) (f : Found) : State :=
  let pk := s.pktOf n e.ident
  let k := pk.pkt
  let wr := opcWrite k.opc || opcRmw k.opc
  let a := e.addr.toNat
  match f with
  | .mark => (s.modChan e.ch fun x => { x with poisoned := satInc x.poisoned }).lineDone n e.ident e.line [] respPoison
  | .bad => (s.noteUe e.ch e.c a wr false).lineDone n e.ident e.line [] respPoison
  | .tag corrected =>
    let s := if corrected then s.noteCe e.ch e.c a false else s
    let s := if pk.resp = respInteg then s else s.modFunit n fun u =>
      if wr then { u with refused := satInc u.refused } else { u with integCnt := satInc u.integCnt }
    (s.noteTag e.flash e.ch a k.src wr).lineDone n e.ident e.line [] respInteg
  | .data plain corrected =>
    let s := if corrected then s.noteCe e.ch e.c a false else s
    let got := (k.cover e.line).map fun (b : Nat × Nat) => (b.2, plain.getD b.1 0)
    if opcRmw k.opc then
      let o := k.addr.toNat % 64
      let w := k.len.toNat + 1
      let new := plain.take o ++ leBytes w (k.rmw (numAt plain o w)) ++ plain.drop (o + w)
      let s := if k.poison then s.setLine e.ch e.c .poison else s.storeLine e.flash e.ch e.c a new
      s.lineDone n e.ident e.line got respOk
    else if opcWrite k.opc then (s.storeLine e.flash e.ch e.c a (k.merge e.line plain)).lineDone n e.ident e.line [] respOk
    else s.lineDone n e.ident e.line got respOk

/-- A channel in PD or SREF is woken and waits for the exit: 50 ns, 12 µs (14 R385). True while it waits. -/
def State.channelWaits (s : State) (n : Nat) : Bool :=
  let x := s.chan n
  (x.pd || x.sref) && (match x.wakeAt with
    | none => true
    | some t => decide (s.now < t + (if x.sref then 12 * psUs else 50000)))

/-- The exit from PD or SREF is done (14 R385). -/
def State.chanAwake (s : State) (n : Nat) : State :=
  let x := s.chan n
  if x.pd ∨ x.sref then (s.modChan n fun x => { x with pd := false, sref := false, wakeAt := none, lastCmd := s.now }).wakeCount 5 8 n else s

/-- DRAM_LP_EXIT: 50 ns or 12 µs after a request woke it, the channel has left PD or SREF and serves (14 R385). -/
def dramLpExit (s : State) (n : Nat) : State :=
  if n < 8 ∧ (s.chan n).wakeAt.isSome ∧ ¬ s.channelWaits n then s.chanAwake n else s

def execDramLpExit (n : Nat) (s : State) : Out := .next (dramLpExit s n)

/-- A channel that serves: UP or SHUTTING. -/
def Channel.serves (x : Channel) : Bool := x.state == .up || x.state == .shutting

/-- DRAM_COMMAND_ISSUE: the queues fill, and the subchannel issues one entry. -/
def dramIssue (s : State) (n sub : Nat) : State :=
  let x := s.chan n
  if ¬ x.serves ∨ 2 ≤ sub then s
  else if s.channelWaits n then
    if x.serving = [] ∧ (List.range 16).all (fun p => (x.port p).level == 0) then s
    else if x.wakeAt = none then s.modChan n fun x => { x with wakeAt := some s.now } else s
  else
    let s := (s.chanAwake n).feed n 512
    match s.pick n sub with
    | none => s
    | some e =>
      let l := s.locate e.ch e.c
      let noRead := ((readyOf ((s.chan n).queue sub)).filter fun e => !e.write).isEmpty
      let s := s.modChan n fun x =>
        { x with lastCmd := s.now, openRow := tput 0 x.openRow l.bankKey (l.row + 1), draining := tput false x.draining sub (x.drainNow sub noRead) }
      if e.full then (s.writeFull n e).dropEntry n sub e
      else s.modChan n fun x =>
        { x with cmdq := tmod [] x.cmdq sub fun q => q.map fun y => if y.ident = e.ident ∧ y.line = e.line then { y with issued := true } else y }

def execDramCommandIssue (n sub : Nat) (s : State) : Out := .next (dramIssue s n sub)

/-- DRAM_READ_RETURN: the oldest issued entry of the subchannel has its data. -/
def dramReturn (s : State) (n sub : Nat) (u : Sys2Proof.DramUpset) : State :=
  let x := s.chan n
  match (x.queue sub).find? fun e => e.issued with
  | none => s
  | some e =>
    if ¬ x.serves then s
    else
      let s := s.modChan n fun x => { x with alertRun := 0 }
      let r := s.readLine e.flash e.ch e.c e.addr.toNat u
      (r.1.lineRead n e r.2).dropEntry n sub e

def execDramReadReturn (n sub : Nat) (u : Sys2Proof.DramUpset) (s : State) : Out := .next (dramReturn s n sub u)

/-! ### Refresh, calibration, temperature (14 R374, R383, R386) -/

/-- A channel of a rank at work. -/
def State.rankUp (s : State) (n rank : Nat) : Bool :=
  (s.chan n).serves && !(s.chan n).sref && decide (rank < (s.declOf n).ranks)

/-- tREFI: 3.9 µs, or 1.95 µs while the channel is hot. -/
def Channel.trefi (x : Channel) : Nat := if x.hot then 1950000 else 3900000

def dramRefresh (s : State) (n rank : Nat) : State :=
  let x := s.chan n
  if ¬ s.rankUp n rank ∨ s.now < tget 0 x.refAt rank + x.trefi then s
  else s.modChan n fun x =>
    let x := { x with refAt := tput 0 x.refAt rank s.now }
    if x.panicking ≠ [] then (if tget 0 x.owed rank < 4 then { x with owed := tmod 0 x.owed rank (· + 1) } else x.closeRank rank)
    else { x.closeRank rank with owed := tput 0 x.owed rank 0 }

def execDramRefresh (n rank : Nat) (s : State) : Out := .next (dramRefresh s n rank)

/-- MR4 of a rank: 2x refresh while any rank needs it; above the 2x range DRAM_HOT and its entry. -/
def dramMr4 (s : State) (n : Nat) (need2x above : Bool) (rank : Nat) : State :=
  if ¬ s.rankUp n rank ∨ s.now < tget 0 (s.chan n).mr4At rank + 16 * psMs then s
  else
    let s := s.modChan n fun x =>
      let hr := (x.hotRanks.filter (· != rank)) ++ (if need2x || above then [rank] else [])
      { x with mr4At := tput 0 x.mr4At rank s.now, hotRanks := hr, hot := !hr.isEmpty }
    if above then s.raiseHub (0x383 + 4 * n) rank (some (mkEntry 0x12 1 (0x383 + 4 * n) (8 + atLo n 4 + atLo rank 7) 0)) else s

def execDramMr4Poll (n : Nat) (need2x above : Bool) (rank : Nat) (s : State) : Out := .next (dramMr4 s n need2x above rank)

/-- A calibration of a rank is due: each period, deferred in panic by no more than 1 ms (14 R374, R383). -/
def State.calDue (s : State) (n rank : Nat) (last period : Nat) : Bool :=
  s.rankUp n rank && decide (last + period ≤ s.now) && ((s.chan n).panicking.isEmpty || decide (last + period + psMs ≤ s.now))

def execZqCalibration (n rank : Nat) (s : State) : Out :=
  .next (if s.calDue n rank (tget 0 (s.chan n).zqAt rank) (128 * psMs) then
    s.modChan n fun x => { x with zqAt := tput 0 x.zqAt rank s.now } else s)

def execDqsRetrack (n rank : Nat) (s : State) : Out :=
  .next (if s.calDue n rank (tget 0 (s.chan n).dqsAt rank) (16 * psMs) then
    s.modChan n fun x => { x with dqsAt := tput 0 x.dqsAt rank s.now } else s)

/-! ### FAULT (14 R373 to R375) -/

/-- Contents of a channel that are undefined from now on. -/
def State.forget (s : State) (n : Nat) : State :=
  (s.modChan n fun x => { x with lines := [] }).modDram fun d => { d with bytes := d.bytes.filter fun e => e.1 / 2 ^ 42 != n }

/-- A channel's queues and calibrations as a bring-up finds them. -/
def Channel.idleAll (x : Channel) : Channel :=
  { x with cmdq := [], serving := [], openRow := [], draining := [], owed := [], alertRun := 0, wakeAt := none, pd := false, sref := false,
           hot := false, hotRanks := [],
           ports := (List.range 16).foldl (fun t p => tmod DramPort.reset t p fun q => { q with q := [], rtq := [], panic := false }) x.ports }

/-- Every accepted request is answered TGTERR; posted writes are discarded (14 R375). -/
def State.failAccepted (s : State) (n : Nat) : State :=
  let x := s.chan n
  let s := x.serving.foldl (fun (s : State) k => s.respond 8 n (dramPort k.port) k.pkt respTgtErr []) s
  (List.range 16).foldl (fun (s : State) p =>
    ((x.port p).rtq ++ (x.port p).q).foldl (fun (s : State) k => s.respond 8 n (dramPort p) k respTgtErr []) s) s

def causeResult (c : Nat) : List (BitVec 8) := leBytes 4 c

/-- A channel enters FAULT with a cause (14 R373 to R375): its accepted requests get TGTERR, DRAM_FAULT is raised and logged, the MEM_UP that waits
    completes FAULT with the cause, and a shut-down it ends completes. -/
def State.chanFault (s : State) (n cause step : Nat) : State :=
  let x := s.chan n
  let s := (s.failAccepted n).forget n
  let s := s.modChan n fun x =>
    { x.idleAll with state := .fault, cause := BitVec.ofNat 5 cause, since := s.now, upCmd := none, heldUp := none, downCmds := [], pendingEnable := false }
  let s := s.raiseDramFault n cause step 0
  let s := (s.completeOpt x.upCmd stFault (causeResult cause)).completeOpt x.heldUp stFault (causeResult cause)
  s.completeAll (x.downCmds.map (·.1)) stOk []

/-- DRAM_ALERT: what was issued and has not come back is issued again; the eighth alert in a row gives FAULT ALERT (14 R374). -/
def dramAlert (s : State) (n : Nat) : State :=
  if ¬ (s.chan n).serves then s
  else
    let s := s.modChan n fun x =>
      { x with
        alertCnt := satInc x.alertCnt, alertRun := x.alertRun + 1,
        cmdq := (List.range 2).foldl (fun t sub => tmod [] t sub fun q => q.map fun (e : DramCmd) => { e with issued := false }) x.cmdq }
    if 8 ≤ (s.chan n).alertRun then s.chanFault n 5 0 else s

def execDramAlert (n : Nat) (s : State) : Out := .next (dramAlert s n)

/-! ### Low power (14 R385) -/

/-- A channel with nothing to do. -/
def Channel.quiet (x : Channel) : Bool := x.serving.isEmpty && (List.range 16).all fun p => (x.port p).level == 0

def execDramPdEntry (n : Nat) (s : State) : Out :=
  .next (let x := s.chan n
    if x.state = .up ∧ x.quiet ∧ x.lpSel ≠ 0 ∧ ¬ x.pd ∧ ¬ x.sref ∧ ¬ s.flowHolds 5 0 n ∧ x.lastCmd + x.pdIdle.toNat * 10000 ≤ s.now then
      s.modChan n fun x => { x with pd := true, wakeAt := none }
    else s)

def execDramSrefEntry (n : Nat) (s : State) : Out :=
  .next (let x := s.chan n
    if x.state = .up ∧ x.quiet ∧ x.lpSel = 2 ∧ ¬ x.sref ∧ ¬ s.flowHolds 5 0 n ∧ x.lastCmd + x.srefIdle.toNat * psUs ≤ s.now then
      s.modChan n fun x => { x with sref := true, pd := false, wakeAt := none }
    else s)

/-! ### Patrol scrub (14 R392) -/

/-- First channel address of way w at or above a window offset, and the last at or below it. -/
def IlvSet.firstFrom (x : IlvSet) (w o : Nat) : Nat :=
  let g := 2 ^ x.grain.toNat; let ways := 2 ^ x.ways.toNat; let chunk := o / g
  x.offsetG.toNat * 2 ^ 30 +
    (if chunk % ways = w then chunk / ways * g + o % g else if chunk % ways < w then chunk / ways * g else (chunk / ways + 1) * g)

/-- The stretches of channel n that lie in scrubbed access regions: first address, end, and the set and way that map them. -/
def State.scrubSpans (s : State) (n : Nat) : List (Nat × Nat × IlvSet × Nat) :=
  (List.range 4).flatMap fun k =>
    let x := s.dram.ilv k
    if ¬ x.valid then []
    else
      match (List.range (2 ^ x.ways.toNat)).find? fun w => x.way w == n with
      | none => []
      | some w =>
        (s.dram.regions.filter fun e => e.2.valid && e.2.scrub).filterMap fun e =>
          let lo := max e.2.base.toNat x.base
          let hi := min (e.2.limit.toNat + 1) (x.base + x.size)
          if lo < hi then some (x.firstFrom w (lo - x.base), x.firstFrom w (hi - x.base), x, w) else none

/-- Package address of a channel address under a set and way. -/
def IlvSet.back (x : IlvSet) (w c : Nat) : Nat :=
  let g := 2 ^ x.grain.toNat
  let o := c - x.offsetG.toNat * 2 ^ 30
  x.base + (o / g * 2 ^ x.ways.toNat + w) * g + o % g

/-- The next scrubbed line of a channel at or above a position: its channel address and package address. -/
def State.scrubNext (s : State) (n pos : Nat) : Option (Nat × Nat) :=
  let cs := (s.scrubSpans n).filterMap fun (lo, hi, x, w) => let c := max lo pos; if c < hi then some (c, x.back w c) else none
  argMin (·.1) cs

/-- DRAM_PATROL_READ: the next line is read at the lowest priority, corrected or reported; a marked line is skipped, tags are not checked. -/
def dramPatrol (s : State) (n : Nat) (u : Sys2Proof.DramUpset) : State :=
  let x := s.chan n
  if x.state ≠ .up ∨ ¬ x.quiet ∨ x.pd ∨ x.sref then s
  else
    match (s.scrubNext n x.scrubPos).or (s.scrubNext n 0) with
    | none => s
    | some (c, a) =>
      let s := match s.readLine (s.flashView n a) n c a u with
        | (s, .data _ true) => s.noteCe n c a true
        | (s, .tag true) => s.noteCe n c a true
        | (s, .bad) => s.noteUe n c a false true
        | (s, _) => s
      s.modChan n fun x =>
        let done := (s.scrubNext n (c + 64)).isNone
        { x with scrubPos := if done then 0 else c + 64, scrubPass := if done then x.scrubPass + 1 else x.scrubPass }

def execDramPatrolRead (n : Nat) (u : Sys2Proof.DramUpset) (s : State) : Out := .next (dramPatrol s n u)

end Sys2Proof.Machine
end

