-- ==== Sys2Proof/Machine/Dram.lean ====
section
/-! DEFINITION. The commands and registers of the DDR5 channels (14 R369 to R377, R393, R394). -/

namespace Sys2Proof.Machine

/-! ### Declarations (14 R369 to R371; 17 Table 17.11) -/

def declOf40 (b : Bytes) : DramDecl :=
  { dimms := numAt b 0 1, rate := numAt b 1 1, width := numAt b 2 1, density := numAt b 3 1, pranks := numAt b 4 1, lranks := numAt b 5 1,
    eccB := numAt b 6 1 == 1, refSb := numAt b 7 1 == 1, rfm := numAt b 8 1 == 1,
    times := (List.range 7).map fun i => numAt b (12 + 4 * i) 4 }

/-- A declaration that is not malformed (14 R371). A declaration of no DIMM is judged by its flags and rate alone. -/
def declOk (b : Bytes) : Bool :=
  let d := declOf40 b
  let t (i : Nat) : Nat := d.times.getD i 0
  decide (d.dimms ≤ 2) && decide (numAt b 6 1 ≤ 1) && decide (numAt b 7 1 ≤ 1) && decide (numAt b 8 1 ≤ 1) && decide (numAt b 9 3 = 0) &&
  decide (d.rate ≤ 2) &&
  (d.dimms == 0 ||
    ((d.width == 4 || d.width == 8) && [16, 24, 32, 64].contains d.density && (d.pranks == 1 || d.pranks == 2) &&
     [1, 2, 4].contains d.lranks && (d.eccB || d.width == 4) && d.times.all (fun x => decide (0 < x)) &&
     decide (t 2 + t 3 ≥ t 1 + t 0)))

/-- An integrity region touches a channel under given interleave sets (15 R398). -/
def State.integOn (s : State) (sets : Tab IlvSet) (n : Nat) : Bool :=
  s.fregions.any fun e => e.2.valid && e.2.integ &&
    ((List.range 4).any fun k => ((tget IlvSet.reset sets k).channelsIn e.2.base.toNat e.2.limit.toNat).contains n)

/-! ### Bring-up (14 R370, R373, R377) -/

/-- A channel in OFF or FAULT comes up: it trains in full, or trains nothing with cause RFM or DECL. -/
def State.trainOrRefuse (s : State) (n : Nat) (tok : Option Nat) : State :=
  let x := s.chan n
  let refuse (c : Nat) : State :=
    ((((s.forget n).modChan n fun x => { x with state := .off, cause := BitVec.ofNat 5 c, since := s.now }).raiseDramFault n c 0 0).completeOpt tok
      stFault (causeResult c))
  match x.decl with
  | none => refuse 2
  | some d =>
    if d.dimms = 0 then refuse 2
    else if d.rfm then refuse 1
    else (s.forget n).modChan n fun x => { x.idleAll with state := .training, cause := 0, since := s.now, upCmd := tok }

/-- A channel is UP: its periods start now. -/
def Channel.goUp (x : Channel) (ranks now : Nat) : Channel :=
  let t : Tab Nat := (List.range ranks).foldl (fun t r => tput 0 t r now) []
  { x.idleAll with state := .up, since := now, lastCmd := now, refAt := t, zqAt := t, dqsAt := t, mr4At := t, upCmd := none }

def memTrainingDone (s : State) (n : Nat) : State :=
  let x := s.chan n
  if x.state = .training then
    (s.modChan n fun x => { x.goUp (s.declOf n).ranks s.now with cause := 0 }).completeOpt x.upCmd stOk (causeResult 0)
  else s

def execMemTrainingDone (n : Nat) (s : State) : Out := .next (memTrainingDone s n)

def execMemTrainingTimeout (n : Nat) (trainStep : BitVec 4) (s : State) : Out :=
  .next (let x := s.chan n
    if x.state = .training ∧ x.since + 250 * psMs ≤ s.now then s.chanFault n 3 trainStep.toNat else s)

/-- A shut-down begins (14 R376). -/
def State.chanShut (s : State) (n : Nat) (cmds : List (Nat × Bool)) : State :=
  s.modChan n fun x => { x with state := .shutting, since := s.now, downCmds := cmds, retain := cmds.all (·.2) }

/-- The channel is OFF: its DIMMs are reset (14 R376). -/
def State.chanOff (s : State) (n : Nat) : State :=
  (s.forget n).modChan n fun x => { x.idleAll with state := .off, since := s.now }

/-- MEM_SHUTDOWN_END: everything accepted is done; the channel is DOWN or OFF, the shut-down's commands complete and a held MEM_UP runs. -/
def memShutdownEnd (s : State) (n : Nat) : State :=
  let x := s.chan n
  if x.state ≠ .shutting ∨ ¬ x.quiet then s
  else
    let s := if x.retain then s.modChan n fun x => { x.idleAll with state := .down, since := s.now } else s.chanOff n
    let s := s.modChan n fun x => { x with downCmds := [], heldUp := none, pendingEnable := false }
    let s := s.completeAll (x.downCmds.map (·.1)) stOk []
    match x.heldUp with
    | none => s
    | some t =>
      if x.retain then s.modChan n fun x => { x with state := .exiting, since := s.now, upCmd := some t }
      else s.trainOrRefuse n (some t)

def execMemShutdownEnd (n : Nat) (s : State) : Out := .next (memShutdownEnd s n)

/-- MEM_SREF_EXIT_END: the exit always completes; a held MEM_DOWN is then taken (14 R377). -/
def memSrefExitEnd (s : State) (n : Nat) : State :=
  let x := s.chan n
  if x.state ≠ .exiting then s
  else
    let s := (s.modChan n fun x => { x.goUp (s.declOf n).ranks s.now with downCmds := [] }).completeOpt x.upCmd stOk (causeResult 0)
    if x.downCmds = [] then s else s.chanShut n x.downCmds

def execMemSrefExitEnd (n : Nat) (s : State) : Out := .next (memSrefExitEnd s n)

/-! ### Registers (14 R394) -/

def ChanState.code : ChanState → Nat
  | .off => 0 | .training => 1 | .up => 2 | .shutting => 3 | .down => 4 | .fault => 5 | .exiting => 6

def State.memStatus (s : State) (n : Nat) : Nat :=
  let x := s.chan n
  x.state.code + atLo x.cause.toNat 3 + atBit x.pendingEnable 8 + atBit x.hot 9 + atBit x.pd 10 + atBit x.sref 11 + atBit (!x.panicking.isEmpty) 12

def State.memCfg (s : State) (n : Nat) : Nat :=
  let x := s.chan n; let d := s.declOf n
  d.rate + atBit d.eccB 2 + atBit d.refSb 3 + atLo x.lpSel.toNat 4 + atLo x.pdIdle.toNat 8 + atLo x.srefIdle.toNat 16

/-- MEM_GEOM: of a declared channel. -/
def State.memGeom (s : State) (n : Nat) : Nat :=
  let d := s.declOf n
  if d.dimms = 0 then 0 else d.width + atLo d.density 4 + atLo d.rankBits 12 + atLo d.colBits 16

/-- MEM_MAP_k, 128 bits (14 Table 14.9). -/
def IlvSet.bits (x : IlvSet) : Nat :=
  x.baseG.toNat + atLo x.sizeG.toNat 12 + atLo x.ways.toNat 25 + atLo x.grain.toNat 28 + atBit x.valid 63 + atLo x.chList.toNat 64 + atLo x.offsetG.toNat 88

def DramPort.bits (q : DramPort) : Nat :=
  q.level + atBit q.rt 6 + atBit q.panic 7 + atLo q.rtq.length 8 + atLo q.panicTh.toNat 13

def State.memRead (s : State) (n off : Nat) : Nat :=
  let x := s.chan n
  if off = 0x000 then s.memStatus n
  else if off = 0x004 then s.memCfg n
  else if off = 0x008 then s.memGeom n
  else if off = 0x010 ∨ off = 0x014 then half (s.dram.capOf n) 0x010 off false
  else if 0x040 ≤ off ∧ off < 0x070 then half (tget 0 s.dram.hash ((off - 0x040) / 8)).toNat 0 (off % 8) false
  else if 0x080 ≤ off ∧ off < 0x0C0 then (s.dram.ilv ((off - 0x080) / 16)).bits / 2 ^ (8 * (off % 16)) % 2 ^ 32
  else if 0x100 ≤ off ∧ off < 0x140 then (x.port ((off - 0x100) / 4)).bits
  else if off = 0x200 then x.ce.toNat
  else if off = 0x204 then x.ue.toNat
  else if off = 0x208 then x.poisoned.toNat
  else if off = 0x20C then x.panicCnt.toNat
  else if off = 0x210 then (x.owed.map (·.2)).foldl max 0
  else if off = 0x214 then x.alertCnt.toNat
  else if off = 0x218 then x.scrubPass.toNat
  else if off = 0x220 ∨ off = 0x224 then half x.scrubPos 0x220 off false
  else 0

/-- MEM_CTRL: CLR_CNT clears 0x200 to 0x214 (14 R394). -/
def State.memWrite (n : Nat) (s : State) (off v : Nat) : State :=
  if off = 0x228 ∧ bitOf v 0 then
    s.modChan n fun x => { x with ce := 0, ue := 0, poisoned := 0, panicCnt := 0, alertCnt := 0 }
  else s

/-! The Flashing unit (15 R415). -/

def FlashUnit.slotBits (u : FlashUnit) : Nat :=
  (List.range 16).foldl (fun a k => a + atBit (u.slot k).loaded k + atBit ((u.slot k).loaded && (u.slot k).persist) (16 + k)) 0

def FlashRegion.bits (r : FlashRegion) : Nat :=
  r.slot.toNat + atLo r.sectorLog2.toNat 4 + atBit r.enc 8 + atBit r.integ 9 + atBit r.valid 10

def State.flRead (s : State) (n off : Nat) : Nat :=
  let u := s.funit n
  if off = 0x000 then u.slotBits
  else if off = 0x004 then bnat (s.declOf n).eccB
  else if off = 0x008 then u.integCnt.toNat
  else if off = 0x00C then u.refused.toNat
  else if off = 0x010 then u.noKey.toNat
  else if 0x100 ≤ off ∧ off < 0x900 then
    let r := tget FlashRegion.reset s.fregions ((off - 0x100) / 0x20)
    let o := off % 0x20
    if o < 0x08 then half r.base.toNat 0 o false
    else if o < 0x10 then (if r.limit = 0 ∧ r.base = 0 ∧ ¬ r.valid then 0 else half (r.limit.toNat / 4096 * 4096 + 4095) 0x08 o false)
    else if o < 0x18 then half r.lba.toNat 0x10 o false
    else if o = 0x18 then r.bits else 0
  else 0

def State.flWrite (n : Nat) (s : State) (off v : Nat) : State :=
  if off = 0x014 ∧ bitOf v 0 then s.modFunit n fun u => { u with integCnt := 0, refused := 0, noKey := 0 } else s

/-- A register access of channel n's block (01 Table 1.4). -/
def memReg (s : State) (n off : Nat) (write eight : Bool) (v : Nat) : RegRes :=
  if write then
    (if 0x8000 ≤ off then regOk (putWords (State.flWrite n) s (off - 0x8000) eight v) 0 else regOk (putWords (State.memWrite n) s off eight v) 0)
  else if 0x8000 ≤ off then regOk s (words (s.flRead n) (off - 0x8000) eight)
  else regOk s (words (s.memRead n) off eight)

def execMemClrCnt (w : Who) (n : Nat) (s : State) : Out :=
  .next (s.access w (hubBase (9 + n) + 0x228) true fun s => memReg s n 0x228 true false 1)

/-! ### Commands (14 R393; 17 Table 17.10) -/

def chanArg (r : Request) : Bool := decide (r.num 0 1 < 8)

def cmdMemStatus : Command where
  code := 0x0300
  argOk _ r := lenIs 4 r && chanArg r && r.zero 1 3
  body s _ r :=
    let n := r.num 0 1
    let x := s.chan n
    (s, okReply (leBytes 4 (s.memStatus n) ++ leBytes 4 (s.memCfg n) ++ leBytes 4 x.ce.toNat ++ leBytes 4 x.ue.toNat ++ leBytes 4 x.poisoned.toNat ++
      leBytes 4 x.panicCnt.toNat ++ leBytes 8 (s.dram.capOf n)))

def execMemStatus (m : Nat) (s : State) : Out := .next (cmdMemStatus.serve m s)

/-- MEM_UP (14 R369, R371, R376, R377; 15 R398). -/
def cmdMemUp : Command where
  code := 0x0301
  async := true
  may := needC
  argOk s r :=
    chanArg r && r.zero 2 2 &&
    ((lenIs 4 r && r.num 1 1 == 0) ||
     (lenIs 44 r && r.num 1 1 == 1 && declOk (r.arg.drop 4) && ((declOf40 (r.arg.drop 4)).eccB || !s.integOn s.dram.sets (r.num 0 1))))
  body s m r :=
    let n := r.num 0 1
    let tok := s.token m r
    let x := s.chan n
    let decl := r.num 1 1 == 1
    if decl ∧ ¬ (x.state = .off ∨ x.state = .fault) then (s, bare stState)
    else
      let s := if decl then s.modChan n fun x => { x with decl := some (declOf40 (r.arg.drop 4)) } else s
      match x.state with
      | .off | .fault => (s.trainOrRefuse n (some tok), bare stAccepted)
      | .training | .exiting => (s, bare stBusy)
      | .up => (s, okReply (causeResult 0))
      | .shutting =>
        if x.heldUp.isSome then (s, bare stBusy)
        else (s.modChan n fun x => { x with heldUp := some tok, pendingEnable := true }, bare stAccepted)
      | .down => (s.modChan n fun x => { x with state := .exiting, since := s.now, upCmd := some tok }, bare stAccepted)

def execMemUp (m : Nat) (s : State) : Out := .next (cmdMemUp.serve m s)

/-- A channel's training is abandoned (14 R377). -/
def State.abandonTraining (s : State) (n : Nat) : State :=
  let up := (s.chan n).upCmd
  ((s.chanOff n).modChan n fun x => { x with cause := 6, upCmd := none }).completeOpt up stFault (causeResult 6)

/-- MEM_DOWN (14 R376, R377). -/
def cmdMemDown : Command where
  code := 0x0302
  async := true
  may := needC
  argOk _ r := lenIs 4 r && chanArg r && decide (r.num 1 1 ≤ 1) && r.zero 2 2
  body s m r :=
    let n := r.num 0 1
    let retain := r.num 1 1 == 1
    let tok := s.token m r
    match (s.chan n).state with
    | .off => (s, okReply [])
    | .training => (s.abandonTraining n, okReply [])
    | .up => (s.chanShut n [(tok, retain)], bare stAccepted)
    | .shutting =>
      (s.modChan n fun x => { x with retain := x.retain && retain, downCmds := x.downCmds ++ [(tok, retain)] }, bare stAccepted)
    | .down => (if retain then s else s.chanOff n, okReply [])
    | .exiting => (s.modChan n fun x => { x with downCmds := x.downCmds ++ [(tok, retain)] }, bare stAccepted)
    | .fault => (s.chanOff n, okReply [])

def execMemDown (m : Nat) (s : State) : Out := .next (cmdMemDown.serve m s)

/-- A region's bounds as MEM_REGION gives them (01 R22): BASE and LIMIT + 1 multiples of 2 MiB inside the DRAM window. -/
def regionSpanOk (base limit grain : Nat) : Bool :=
  base % grain == 0 && (limit + 1) % grain == 0 && decide (base ≤ limit) && decide (limit < 2 ^ 42)

def Region.meets (x : Region) (lo hi : Nat) : Bool := x.valid && decide (x.base.toNat ≤ hi) && decide (lo ≤ x.limit.toNat)

/-- What the 20 bytes of R, FLAGS, BASE and LIMIT define (01 R22; 17 Table 17.10). -/
def regionOf (flags base limit : Nat) : Region :=
  if bitOf flags 1 then { valid := true, base := BitVec.ofNat 48 base, limit := BitVec.ofNat 48 limit, scrub := bitOf flags 0 } else Region.reset

def regionArgOk (regions : Tab Region) (i flags base limit : Nat) : Bool :=
  decide (i < 64) && decide (flags < 4) &&
  (!bitOf flags 1 ||
    (regionSpanOk base limit (2 ^ 21) && !(regions.any fun e => e.1 != i && e.2.meets base limit)))

def cmdMemRegion : Command where
  code := 0x0304
  may := needT
  argOk s r := lenIs 20 r && r.zero 2 2 && regionArgOk s.dram.regions (r.num 0 1) (r.num 1 1) (r.num 4 8) (r.num 12 8)
  body s _ r :=
    (s.modDram fun d => { d with regions := tput Region.reset d.regions (r.num 0 1) (regionOf (r.num 1 1) (r.num 4 8) (r.num 12 8)) }, okReply [])

def execMemRegion (m : Nat) (s : State) : Out := .next (cmdMemRegion.serve m s)

/-! The interleave map (14 R378, R380; 17 Table 17.12). -/

/-- One 20-byte set record. -/
def ilvOf (b : Bytes) : IlvSet :=
  if numAt b 0 1 = 1 then
    { valid := true, baseG := BitVec.ofNat 12 (numAt b 4 2), sizeG := BitVec.ofNat 13 (numAt b 6 2), ways := BitVec.ofNat 3 (numAt b 1 1),
      grain := BitVec.ofNat 5 (numAt b 2 1), offsetG := BitVec.ofNat 11 (numAt b 8 2),
      chList := BitVec.ofNat 24 ((List.range 8).foldl (fun a w => a + atLo (numAt b (12 + w) 1) (3 * w)) 0) }
  else IlvSet.reset

/-- The fields of a set record lie in their ranges. -/
def ilvFieldsOk (b : Bytes) : Bool :=
  let w := 2 ^ numAt b 1 1
  let ways := (List.range w).map fun i => numAt b (12 + i) 1
  decide (numAt b 0 1 ≤ 1) && numAt b 3 1 == 0 && numAt b 10 2 == 0 &&
  (numAt b 0 1 == 0 ||
    (decide (numAt b 1 1 ≤ 3) && decide (8 ≤ numAt b 2 1) && decide (numAt b 2 1 ≤ 30) && decide (0 < numAt b 6 2) && numAt b 6 2 % w == 0 &&
     decide (numAt b 4 2 + numAt b 6 2 ≤ 4096) && decide (numAt b 8 2 < 2048) &&
     ways.all (fun c => decide (c < 8)) && decide ways.Nodup && (List.range 8).all (fun i => decide (i < w) || numAt b (12 + i) 1 == 0)))

/-- GiB that a set takes of each of its channels. -/
def IlvSet.share (x : IlvSet) : Nat := x.sizeG.toNat / 2 ^ x.ways.toNat
def IlvSet.members (x : IlvSet) : List Nat := if x.valid then (List.range (2 ^ x.ways.toNat)).map x.way else []

/-- Two sets that overlap in the window or on one channel (14 R378). -/
def IlvSet.clash (x y : IlvSet) : Bool :=
  x.valid && y.valid &&
  ((decide (x.base < y.base + y.size) && decide (y.base < x.base + x.size)) ||
   ((x.members.any fun c => y.members.contains c) && decide (x.offsetG.toNat < y.offsetG.toNat + y.share) &&
    decide (y.offsetG.toNat < x.offsetG.toNat + x.share)))

/-- A non-zero mask of bit k is valid on a channel of c column bits (14 R380). -/
def hashOk (masks : List Nat) (cb k : Nat) : Bool :=
  let m := masks.getD k 0
  let bits := (List.range 64).filter fun i => bitOf m i
  m == 0 || (decide (bits.length ≤ 8) && bits.all (fun i => decide (6 ≤ i) && decide (i ≤ 38)) && bits.contains (6 + cb + k) &&
    (List.range 6).all fun j => j == k || masks.getD j 0 == 0 || !bits.contains (6 + cb + j))

/-- The 128-byte MEM_MAP argument is not refused (14 R378, R380; 15 R398), for given declarations; the bits of a mask outside 38:6 are
    reserved, whatever channels there are (00 R9; 14 Table 14.6). -/
def mapOk (s : State) (b : Bytes) : Bool :=
  let recs := (List.range 4).map fun k => bytesAt b (20 * k) 20
  let sets := recs.map ilvOf
  let masks := (List.range 6).map fun k => numAt b (80 + 8 * k) 8
  let tab : Tab IlvSet := (List.range 4).foldl (fun t k => tput IlvSet.reset t k (sets.getD k IlvSet.reset)) []
  let used := (List.range 8).filter fun n => decide (0 < s.dram.capOf n)
  b.length == 128 && recs.all ilvFieldsOk && masks.all (fun m => m % 64 == 0 && decide (m < 2 ^ 39)) &&
  (List.range 4).all (fun i => (List.range 4).all fun j => decide (j ≤ i) || !(sets.getD i IlvSet.reset).clash (sets.getD j IlvSet.reset)) &&
  sets.all (fun x => x.members.all fun c => decide (0 < s.dram.capOf c) && decide ((x.offsetG.toNat + x.share) * 2 ^ 30 ≤ s.dram.capOf c)) &&
  used.all (fun n => (List.range 6).all fun k => hashOk masks (s.declOf n).colBits k) &&
  (List.range 8).all (fun n => (s.declOf n).eccB || !s.integOn tab n)

def State.setMap (s : State) (b : Bytes) : State :=
  s.modDram fun d =>
    { d with
      sets := (List.range 4).foldl (fun t k => tput IlvSet.reset t k (ilvOf (bytesAt b (20 * k) 20))) [],
      hash := (List.range 6).foldl (fun t k => tput 0 t k (BitVec.ofNat 64 (numAt b (80 + 8 * k) 8))) [] }

def cmdMemMap : Command where
  code := 0x0305
  may := needC
  argOk s r := mapOk s r.arg
  body s _ r :=
    let named := (List.range 4).flatMap fun k => (s.dram.ilv k).members ++ (ilvOf (bytesAt r.arg (20 * k) 20)).members
    if named.all fun n => (s.chan n).state = .off ∨ (s.chan n).state = .down then (s.setMap r.arg, okReply []) else (s, bare stState)

def execMemMap (m : Nat) (s : State) : Out := .next (cmdMemMap.serve m s)

/-- A low-power state that LP_SEL no longer permits is left as for a request (14 R385). -/
def Channel.leaveLp (x : Channel) (sel now : Nat) : Channel :=
  if (x.pd ∧ sel = 0 ∨ x.sref ∧ sel ≠ 2) ∧ x.wakeAt = none then { x with wakeAt := some now } else x

/-- MEM_LP (14 R385; 08 R222). -/
def cmdMemLp : Command where
  code := 0x0306
  may := needC
  argOk _ r := lenIs 8 r && chanArg r && decide (r.num 1 1 ≤ 2) && r.zero 3 1 && decide (r.num 4 2 < 4096) && r.zero 6 2
  body s _ r :=
    let n := r.num 0 1
    if s.flowForbids 5 8 n (r.num 1 1) then (s, bare stState)
    else
      (s.modChan n fun x =>
        { x.leaveLp (r.num 1 1) s.now with lpSel := BitVec.ofNat 2 (r.num 1 1), pdIdle := BitVec.ofNat 8 (r.num 2 1), srefIdle := BitVec.ofNat 12 (r.num 4 2) }, okReply [])

def execMemLp (m : Nat) (s : State) : Out := .next (cmdMemLp.serve m s)

/-- MEM_SCRUB (14 R392): hours 1 to 168; no region in both SET and CLR. -/
def cmdMemScrub : Command where
  code := 0x0307
  may := needC
  argOk _ r := lenIs 20 r && decide (1 ≤ r.num 0 1) && decide (r.num 0 1 ≤ 168) && r.zero 1 3 && (r.num 4 8 &&& r.num 12 8) == 0
  body s _ r :=
    (s.modDram fun d =>
      { d with
        scrubHours := BitVec.ofNat 16 (r.num 0 1),
        regions := tmodAll Region.reset d.regions ((List.range 64).filter fun i => (tget Region.reset d.regions i).valid) fun i x =>
          { x with scrub := (x.scrub || bitOf (r.num 4 8) i) && !bitOf (r.num 12 8) i } }, okReply [])

def execMemScrub (m : Nat) (s : State) : Out := .next (cmdMemScrub.serve m s)

end Sys2Proof.Machine
end

