-- ==== Sys2Proof/Machine/Time.lean ====
section
/-! DEFINITION. Package time: the master and its sources, changes at apply instants, the time commands, the timing pins and the time
registers. -/

namespace Sys2Proof.Machine

/-! ### Apply instants (11 R294, R295) -/

/-- Nominal rate word with an offset in ppb (11 R289). -/
def rateWord (ppb : Int) : Nat := (Int.toNat (1000000000 + ppb)) * 2 ^ 80 / 1000000000000000000

/-- The rate offset in ppb of a rate word, to the nearest (11 Table 11.5). -/
def ratePpb (rate : Nat) : Int :=
  let n := rateWord 0
  if n ≤ rate then Int.ofNat (((rate - n) * 1000000000 + n / 2) / n) else - Int.ofNat (((n - rate) * 1000000000 + n / 2) / n)

/-- A change is programmed in every time base: it joins those that wait, earliest first (11 R294). -/
def State.programTime (s : State) (p : PendTime) : State :=
  s.modTb fun b => { b with pend := (b.pend.filter fun q => q.applyAt ≤ p.applyAt) ++ p :: b.pend.filter fun q => p.applyAt < q.applyAt }

/-- The lead of a command's apply instant: 100 µs to 500 µs, otherwise open (11 R294). -/
def State.commandLead (s : State) : Nat := 100000000 + s.freeVal.toNat % 400000001
/-- The lead of a steering change: at least 100 µs, otherwise open (11 R294). -/
def State.steerLead (s : State) : Nat := 100000000 + s.freeVal.toNat

/-- A forward step passes scheduled edges over (11 R295, R307): they take place at the step instant and count as skipped. -/
def TimingPin.skipTo (p : TimingPin) (newPs : Nat) : TimingPin :=
  let gone := p.sched.takeWhile fun e => e.1 < newPs
  match gone.getLast? with
  | some e => { p with sched := p.sched.drop gone.length, level := e.2, skipped := satAdd p.skipped gone.length }
  | none => p

/-- The edges in the span of a forward step, for every pin of a die. -/
def State.skipEdges (s : State) (d : Nat) : State :=
  (List.range 8).foldl (fun (s : State) n => s.modTpin d n fun p => p.skipTo (s.ps d)) s

/-- The step in picoseconds (11 R294). -/
def stepPs (by80 : Int) : Int := by80 * 1000000000000 / (2 ^ 80 : Int)

/-- The earliest change programmed applies in every time base, once its instant has come (11 R294). A step moves the package time of the
    instants still to come, and the SEC_HI of the dies with it. -/
def applyTime (s : State) : State :=
  match s.tb.pend with
  | p :: rest =>
    if s.ps 8 < p.applyAt then s
    else
      let s := s.modTb fun b => { b with pend := rest }
      let dies := s.dieList ++ [8]
      let s := match p.rate with
        | some r => (dies.foldl (fun (s : State) d => s.modTime d fun t => { t with rate := r }) s).modTb fun b =>
            { b with rateOff := ofInt 32 (ratePpb r) }
        | none => s
      let by80 : Int := match p.setTo with
        | some c => Int.ofNat c - Int.ofNat (ctrOfPs p.applyAt)
        | none => p.stepBy
      let s := if by80 = 0 then s else
        let s := dies.foldl (fun (s : State) d => s.modTime d fun t => if t.stopped then t else { t with ctr := ctrMove t.ctr by80 }) s
        let s := if 0 < by80 then dies.foldl (fun (s : State) d => s.skipEdges d) s else s
        let ps := stepPs by80
        let hi := BitVec.ofNat 16 (secOfCtr (s.time 8).ctr / 65536)
        let s := s.dieList.foldl (fun (s : State) d => s.modMon d fun m => { m with secHi := hi }) s
        let s := s.modTb fun b => { b with pend := b.pend.map fun q => { q with applyAt := Int.toNat (Int.ofNat q.applyAt + ps) } }
        s.raiseHub 0x3AD (ofInt 32 ps).toNat (some (mkEntry 0x18 0 0x3AD (8 + atLo 8 6) (ofInt 64 ps).toNat))
      s.answerLater p.mbx stOk []
  | [] => s

def execTimeApplyInstant (s : State) : Out := .next (applyTime s)

/-! ### Sources (11 R290 to R293) -/

/-- The master becomes LOCKED (11 R293, Table 11.8). -/
def TimeBase.lock (b : TimeBase) : TimeBase := { b with mstate := .locked, aoclk := false }

/-- The rate word in force once the changes programmed have applied. -/
def State.lastRate (s : State) : Nat := ((s.tb.pend.filterMap PendTime.rate).getLast?).getD (s.time 8).rate

/-- A steering rate word departs at most 100 ppm from the nominal rate (11 R291). -/
def within100 (rate : Nat) : Nat := let n := rateWord 0; max (n - n / 10000) (min (n + n / 10000) rate)

/-- The rate word that removes the error of a pulse (11 R291): slower where the pulse shows the time ahead, faster where it shows it behind, by
    at most 0.5 ps per µs and by no more than the error asks for; how much R291 leaves open. -/
def State.steered (s : State) (err : Int) : Nat :=
  let n := rateWord 0
  let most := min (n / 2000000) (n * err.natAbs / 1000000000000)
  let part := if most = 0 then 0 else 1 + s.freeVal.toNat % most
  within100 (if 0 < err then s.lastRate - part else s.lastRate + part)

/-- A rate word put in force at an apply instant (11 R291, R292, R294), where it is another one. -/
def State.steerTo (s : State) (rate : Nat) : State :=
  if rate = s.lastRate then s
  else (s.programTime { applyAt := s.ps 8 + s.steerLead, stepBy := 0, setTo := none, rate := some rate, mbx := none }).drew 1

/-- The first pulse steps FRAC to 0 at the pulse (11 R291); SEC is the one TIME_SET gave, where it gave one (11 Table 11.4). -/
def State.ppsStep (s : State) (ps : Nat) : State :=
  let near := secOf ps + (if 500000000000 ≤ psecOf ps then 1 else 0)
  let sec := match s.tb.secNext with
    | some v => v.toNat
    | none => near % 2 ^ 32
  let by80 : Int := Int.ofNat (sec * 2 ^ 80) - Int.ofNat (ctrOfPs ps)
  let s := s.modTb fun b => { b with firstPulse := false, rejRun := 0, accRun := 0, lastAcc := s.now, secNext := none }
  (s.programTime { applyAt := s.ps 8 + s.steerLead, stepBy := by80, setTo := none, rate := none, mbx := none }).drew 1

/-- A pulse within 10 µs of a whole second: steered, and LOCKED after four in a row within 1 µs (11 R291). -/
def State.ppsAccept (s : State) (ps : Nat) (err : Int) : State :=
  let run := if -1000000 ≤ err ∧ err ≤ 1000000 then s.tb.accRun + 1 else 0
  let s := match s.tb.secNext with
    | some v =>
      let near := secOf ps + (if 500000000000 ≤ psecOf ps then 1 else 0)
      (s.programTime { applyAt := s.ps 8 + s.steerLead, stepBy := (Int.ofNat v.toNat - Int.ofNat near) * (2 ^ 80 : Int),
                       setTo := none, rate := none, mbx := none }).drew 1
    | none => s
  let s := s.modTb fun b =>
    { b with ppsErr := ofInt 32 (err / 1000), rejRun := 0, accRun := run, lastAcc := s.now, secNext := none }
  let s := if 4 ≤ run then s.modTb TimeBase.lock else s
  (s.drew 1).steerTo (s.steered err)

/-- A pulse outside the window is rejected; four in a row make the next one step (11 R291). -/
def State.ppsReject (s : State) (err : Int) : State :=
  let s := s.modTb fun b =>
    { b with ppsErr := ofInt 32 (err / 1000), ppsRej := satInc b.ppsRej, accRun := 0, rejRun := b.rejRun + 1,
             firstPulse := b.firstPulse || decide (4 ≤ b.rejRun + 1) }
  s.raiseHub 0x3AC s.tb.ppsErr.toNat (some (mkEntry 0x18 2 0x3AC (8 + atLo 1 4 + atLo 8 6) (ofInt 64 err).toNat))

/-! TP_CFG fields (11 Table 11.9). -/
def tpMode (c : BitVec 32) : Nat := bitsOf c.toNat 0 2
def tpEdge (c : BitVec 32) (rise : Bool) : Bool := bitOf c.toNat (if rise then 2 else 3)
def tpFabric (c : BitVec 32) : Bool := bitOf c.toNat 4
def tpWin (c : BitVec 32) : Bool := bitOf c.toNat 5
def tpNet (c : BitVec 32) : Nat := bitsOf c.toNat 11 5

/-- The instant of a pulse as the input chosen captures it (11 R291): the service pin with the PPS-in function within 1 ns of the H-die's time,
    HTP0 as its capture pin has just recorded a rising edge (R305, R306). -/
def State.ppsSeen (s : State) (ps : Nat) : Bool :=
  !(s.time 8).stopped &&
  (if s.tb.ppsPin then
    (let p := s.tpin 8 0
     tpMode p.cfg == 1 && p.edgeRise && p.lastEdge == some ps)
   else (s.svc.pins.any fun e => e.2.func == 0x5E) && decide (s.ps 8 ≤ ps + 1000) && decide (ps ≤ s.ps 8 + 1000))

def ppsPulse (s : State) (pin : Bool) (ps : Nat) : State :=
  if s.tb.src ≠ 1 ∨ s.tb.ppsPin ≠ pin ∨ ¬ s.ppsSeen ps then s
  else
    let f := psecOf ps
    let err : Int := if f < 500000000000 then Int.ofNat f else Int.ofNat f - 1000000000000
    let near : Bool := decide (-10000000 ≤ err) && decide (err ≤ 10000000)
    -- after package DEEP the first pulse locks again, stepped where it is outside the window (11 R302)
    if s.tb.relock then (if near then s.ppsAccept ps err else s.ppsStep ps).modTb fun b => { b.lock with relock := false }
    else if s.tb.firstPulse then s.ppsStep ps
    else if near then s.ppsAccept ps err else s.ppsReject err

def execPpsPulse (pin : Bool) (ps : Nat) (s : State) : Out := .next (ppsPulse s pin ps)

def execPpsLossTimeout (s : State) : Out :=
  .next (if s.tb.src = 1 ∧ s.tb.mstate = .locked ∧ s.tb.lastAcc + 1500000000000 ≤ s.now then
    s.modTb fun b => { b with mstate := .holdover, accRun := 0 } else s)

/-- The rate word with which time advances at the nominal frequency declared, for a recovered clock that gives so many cycles in a TSCLK second
    (11 R292); the lane that is the package reference gives the nominal one by construction. -/
def State.laneRate (s : State) (milliHz : Nat) : Nat :=
  if (s.node 0x8F00).source.toNat = (if s.tb.laneSel then 2 else 1) then rateWord 0
  else rateWord 0 * milliHz / (1000 * s.tb.laneHz)

/-- TIME_LANE_LOCK: the recovered clock is compared against TSCLK, and the rate word steered (11 R292); LOCKED after 10 ms in which the word in
    force was within 0.1 ppm. -/
def timeLaneLock (s : State) (milliHz : Nat) : State :=
  let x := s.laneset s.timeLaneKey
  if s.tb.src ≠ 2 ∨ x.state ≠ .active ∨ x.rxLp1 ∨ x.lp2 ∨ s.tb.laneHz = 0 then s
  else
    let goal := s.laneRate milliHz
    let now := (s.time 8).rate
    let near : Bool := decide ((max now goal - min now goal) * 10000000 ≤ goal)
    let s := s.modTb fun b => { b with cmpAt := if near then some (b.cmpAt.getD s.now) else none }
    let s := match s.tb.cmpAt with
      | some t => if t + 10 * psMs ≤ s.now then s.modTb TimeBase.lock else s
      | none => s
    s.steerTo goal

def execTimeLaneLock (milliHz : Nat) (s : State) : Out := .next (timeLaneLock s milliHz)

/-! ### Commands (11 R309; 17 Table 17.10) -/

def MState.code : MState → Nat
  | .free => 0 | .locked => 1 | .holdover => 2

def cmdTimeGet : Command where
  code := 0x0500
  argOk _ r := lenIs 0 r
  body s _ _ :=
    let c := (s.time 8).ctr
    (s, okReply (leBytes 4 (secOfCtr c) ++ leBytes 8 (fracOfCtr c) ++ [BitVec.ofNat 8 s.tb.mstate.code, s.tb.src.zeroExtend 8, 0, 0]))

def execTimeGet (m : Nat) (s : State) : Out := .next (cmdTimeGet.serve m s)

/-- TIME_SET (11 R294): under PPS the SEC of the next accepted pulse; otherwise the time at an apply instant, answered after it. -/
def cmdTimeSet : Command where
  code := 0x0501
  may := needM
  argOk _ r := lenIs 16 r && r.zero 4 4 && decide (r.num 8 8 < 2 ^ 48)
  body s m r :=
    if s.tb.src = 1 then (s.modTb fun b => { b with secNext := some (BitVec.ofNat 32 (r.num 0 4)) }, okReply [])
    else
      let at1 := s.ps 8 + s.commandLead
      let goal := r.num 0 4 * 2 ^ 80 + r.num 8 8 * 2 ^ 32
      ((s.programTime { applyAt := at1, stepBy := 0, setTo := some goal, rate := none, mbx := some (s.token m r) }).drew 1, bare stLater)

def execTimeSet (m : Nat) (s : State) : Out := .next (cmdTimeSet.serve m s)

/-- The source takes force: FREE with SRC = 0, else HOLDOVER until the master locks (11 R290, R293). -/
def TimeBase.select (b : TimeBase) (src : Nat) (pin lane : Bool) (hz now : Nat) : TimeBase :=
  { b with src := BitVec.ofNat 2 src, mstate := if src = 0 then .free else .holdover, ppsPin := pin, laneSel := lane, laneHz := hz,
           firstPulse := true, relock := false, cmpAt := none, rejRun := 0, accRun := 0, lastAcc := now, secNext := none }

def cmdTimeSource : Command where
  code := 0x0502
  may := needM
  argOk _ r := lenIs 8 r && decide (r.num 0 1 < 3) && decide (r.num 1 1 < 2) && (r.num 2 1 == 0 || r.num 2 1 == 8) && r.zero 3 1
  body s _ r := (s.modTb fun b => b.select (r.num 0 1) (r.num 1 1 == 1) (r.num 2 1 == 8) (r.num 4 4) s.now, okReply [])

def execTimeSource (m : Nat) (s : State) : Out := .next (cmdTimeSource.serve m s)

/-- PPB as the signed number it is. -/
def Request.ppb (r : Request) : Int := (BitVec.ofNat 32 (r.num 0 4)).toInt

def cmdTimeAdj : Command where
  code := 0x0503
  may := needM
  argOk _ r := lenIs 4 r && decide (-200000 ≤ r.ppb) && decide (r.ppb ≤ 200000)
  body s m r :=
    if s.tb.src ≠ 0 then (s, bare stState)
    else ((s.programTime { applyAt := s.ps 8 + s.commandLead, stepBy := 0, setTo := none, rate := some (rateWord r.ppb),
                           mbx := some (s.token m r) }).drew 1, bare stLater)

def execTimeAdj (m : Nat) (s : State) : Out := .next (cmdTimeAdj.serve m s)

def AlignState.code : AlignState → Nat
  | .uncal => 0 | .measure => 1 | .cal => 2 | .off => 3

/-- LINK_DELAY of a link end (10 Table 10.11). -/
def LinkEnd.delayReg (e : LinkEnd) : Nat := e.delay.toNat + atBit e.delayValid 31

def cmdTimeStatus : Command where
  code := 0x0504
  argOk s r := lenIs 4 r && decide (r.num 0 1 < s.fdies) && r.zero 1 3
  body s _ r :=
    let d := r.num 0 1
    let m := (s.time d).mon
    (s, okReply ([BitVec.ofNat 8 m.state.code, m.hops.zeroExtend 8, m.parent.zeroExtend 8, 0] ++ leBytes 4 (ofInt 32 m.offset).toNat ++
      leBytes 4 (s.link (s.parentKey d)).delayReg))

def execTimeStatus (m : Nat) (s : State) : Out := .next (cmdTimeStatus.serve m s)

/-- A TP_CFG that the table gives a meaning: no reserved bit or mode, an edge to capture, a declared load of 2 to 20 pF to schedule. -/
def tpCfgOk (d v : Nat) : Bool :=
  v / 2 ^ 17 == 0 && v % 4 != 3 && (d != 8 || (bitsOf v 11 5 == 0 && !bitOf v 4)) &&
  (v % 4 != 1 || bitsOf v 2 2 != 0) && (v % 4 != 2 || (2 ≤ bitsOf v 6 5 && bitsOf v 6 5 ≤ 20))

/-- A TP_CFG written into a pin: a schedule pin drives INIT_LEVEL until its first edge (11 R305). -/
def TimingPin.configure (p : TimingPin) (v : Nat) : TimingPin :=
  { p with cfg := BitVec.ofNat 32 v, level := if v % 4 = 2 then bitOf v 16 else p.level }

def cmdTimePin : Command where
  code := 0x0505
  may := needM
  argOk s r :=
    lenIs 8 r && (decide (r.num 0 1 < s.fdies) || r.num 0 1 == 8) && decide (r.num 1 1 < 8) && r.zero 2 2 && tpCfgOk (r.num 0 1) (r.num 4 4)
  body s _ r :=
    let p := s.tpin (r.num 0 1) (r.num 1 1)
    if p.fifo ≠ [] ∨ p.sched ≠ [] then (s, bare stState)
    else (s.modTpin (r.num 0 1) (r.num 1 1) fun p => p.configure (r.num 4 4), okReply [])

def execTimePin (m : Nat) (s : State) : Out := .next (cmdTimePin.serve m s)

def cmdTimeNotify : Command where
  code := 0x0506
  may := needM
  argOk _ r := decide (2 ≤ r.len) && decide (r.num 0 1 ≤ 16) && r.zero 1 1 && r.len == 2 + 2 * r.num 0 1
  body s _ r :=
    (s.modTb fun b => { b with notify := (List.range (r.num 0 1)).map fun i => BitVec.ofNat 16 (r.num (2 + 2 * i) 2) }, okReply [])

def execTimeNotify (m : Nat) (s : State) : Out := .next (cmdTimeNotify.serve m s)

/-- TIME packets of the whole second just begun (11 R308; 07 R186), from the time base's port at H-die router (3, 1). Table 1.6 gives the time
    base no MID: DESIGN CHOICE that SRC is 0x000 (153). -/
def timePacketSend (s : State) : State :=
  let c := (s.time 8).ctr
  let sec := secOfCtr c
  if s.tb.notifySec < sec then
    let s := s.tb.notify.foldl (fun (s : State) d =>
      s.sendFrom (hubDest 3)
        (({ cls := .evt, opc := 0x19, stamp := s.stamp 8, coarse := s.coarse 8, time := BitVec.ofNat 80 (sec * 2 ^ 48) } : Pkt).toDest d)) s
    s.modTb fun b => { b with notifySec := sec }
  else s

def execTimePacketSend (s : State) : Out := .next (timePacketSend s)

/-! ### Alignment rows (11 R299, R300) -/

/-- A die not in CAL within 2 ms of MEASURE is UNCAL, raises TIME_UNCAL and starts again (11 R299). -/
def alignTimeout (s : State) (d : Nat) : State :=
  let m := (s.time d).mon
  if d < s.fdies ∧ m.state = .measure ∧ m.since + 2 * psMs ≤ s.now then
    ((s.raiseUncal d).modMon d fun m => { m with state := .uncal, run := 0, ignored := 0, slew := 0 }).tryMeasure d
  else s

def execAlignMeasureTimeout (die : Nat) (s : State) : Out := .next (alignTimeout s die)

def execParentOkUpdate (die : Nat) (s : State) : Out :=
  .next (if die < s.fdies ∧ (s.time die).mon.state ≠ .off then s.updateParent die else s)

/-! ### Timing pins (11 R305 to R307, R539) -/

/-- A pin of the part. -/
def State.hasPin (s : State) (d n : Nat) : Bool := (decide (d < s.fdies) || d == 8) && decide (n < 8)

/-- An edge at a pin that the device does not drive gives it its level (11 Table 11.10); a capture pin records a selected edge (11 R306). -/
def edgeCapture (s : State) (d n : Nat) (rise : Bool) (ps : Nat) : State :=
  let p := s.tpin d n
  if ¬ s.hasPin d n ∨ tpMode p.cfg = 2 then s
  else
  let s := s.modTpin d n fun p => { p with level := rise }
  if tpMode p.cfg ≠ 1 ∨ ¬ tpEdge p.cfg rise ∨ (s.time d).stopped then s
  else if (match p.lastEdge with | some t => decide (t ≤ ps ∧ ps < t + 2500) | none => false) then
    s.modTpin d n fun p => { p with lost := satInc p.lost }
  else if tpWin p.cfg ∧ ¬ (p.winOpen ≤ ps ∧ ps < p.winClose) then s
  else
    let co := s.coarse d
    let s := s.modTpin d n fun p =>
      { p with lastEdge := some ps, edgeRise := rise, fabOut := if d = 8 then p.fabOut else some (BitVec.ofNat 32 ps, rise, co) }
    if p.fifo.length < 16 then s.modTpin d n fun p => { p with fifo := p.fifo ++ [{ p := ps, rise := rise, coarse := co }] }
    else
      let s := s.modTpin d n fun p => { p with lost := satInc p.lost, ovf := true }
      if p.ovf then s else s.raiseEvent d (evidOf d 0x0E 0x3AE) n none

def execTpEdgeCapture (die pin : Nat) (rise : Bool) (ps : Nat) (s : State) : Out := .next (edgeCapture s die pin rise ps)

/-- An entry asks to be queued (11 R307): its time none where INVALID. The state, and whether it was taken. -/
def State.schedTake (s : State) (d n : Nat) (t : Option Nat) (level : Bool) : State × Bool :=
  let p := s.tpin d n
  let late (s : State) : State := (s.modTpin d n fun p => { p with late := true }).raiseEvent d (evidOf d 0x0F 0x3AF) n none
  match t with
  | none => (late s, false)
  | some t =>
    if t < s.ps d + 100000 then (late s, false)
    else if (match p.lastSched with | some l => decide (t < l + 2500) | none => false) then
      (s.modTpin d n fun p => { p with order := true }, false)
    else if 16 ≤ p.sched.length then (s.modTpin d n fun p => { p with fullRef := true }, false)
    else (s.modTpin d n fun p => { p with sched := p.sched ++ [(t, level)], lastSched := some t }, true)

/-- The fabric interface of a pin runs: its FCLK net does (18 Table 18.4). -/
def State.tpClocked (s : State) (d n : Nat) : Bool := s.fclkRuns d (tpNet (s.tpin d n).cfg) && !s.dieDeep d

def execTpFabricSched (die pin : Nat) (stamp : BitVec 32) (level : Bool) (s : State) : Out :=
  .next (let p := s.tpin die pin
    if die < s.fdies ∧ pin < 8 ∧ tpMode p.cfg = 2 ∧ tpFabric p.cfg ∧ s.tpClocked die pin then
      let r := s.schedTake die pin (expandStamp stamp (s.ps die)) level
      r.1.modTpin die pin fun p => { p with schRefused := !r.2 }
    else s)

/-- At the head entry's time the pin drives its level (11 R307), on a die that is not fenced (13 R362). -/
def schedEdge (s : State) (d n : Nat) : State :=
  match (s.tpin d n).sched with
  | e :: rest => if e.1 ≤ s.ps d ∧ ¬ (s.time d).stopped ∧ ¬ (s.die d).leggett.fenced then s.modTpin d n fun p => { p with level := e.2, sched := rest } else s
  | [] => s

def execTpSchedEdge (die pin : Nat) (s : State) : Out := .next (schedEdge s die pin)

/-- TP_STATUS (11 Table 11.10). -/
def State.tpStatus (s : State) (d n : Nat) : Nat :=
  let p := s.tpin d n
  p.fifo.length + atLo p.sched.length 5 + atBit p.level 10 + atBit p.late 11 + atBit p.order 12 + atBit p.fullRef 13 + atBit (s.coarse d) 14

/-- A window time as it was written: SEC[7:0] and PSEC (11 Table 11.7). -/
def winLayout (p : Nat) : Nat := psecOf p + atLo (secOf p % 256) 40

/-- A pin register's 32 bits for a read without effect. -/
def State.tpRead (s : State) (d n off : Nat) : Nat :=
  let p := s.tpin d n
  if off = 0x00 then p.cfg.toNat
  else if off = 0x04 then s.tpStatus d n
  else if off = 0x10 then p.capSec.toNat
  else if off = 0x14 then p.lost.toNat + atLo p.skipped.toNat 16
  else if off = 0x20 ∨ off = 0x24 then half (winLayout p.winOpen) 0x20 off false
  else if off = 0x28 ∨ off = 0x2C then half (winLayout p.winClose) 0x28 off false
  else 0

/-- TP_CTRL (11 Table 11.7). -/
def TimingPin.ctrl (p : TimingPin) (v : Nat) : TimingPin :=
  let p := if bitOf v 0 then { p with fifo := [], ovf := false } else p
  let p := if bitOf v 1 then p.flushSched else p
  if bitOf v 2 then { p with lost := 0, skipped := 0 } else p

/-- TP_WIN_OPEN or TP_WIN_CLOSE takes a time (11 R539). -/
def State.winWrite (s : State) (d n : Nat) (close : Bool) (v : Nat) : State :=
  let t := expandShort (bitsOf v 40 8) (bitsOf v 0 40) (s.ps d)
  s.modTpin d n fun p => if close then { p with winClose := t } else { p with winOpen := t }

/-- One 32-bit write of a pin register other than TP_SCHED. -/
def State.tpWriteWord (d n : Nat) (s : State) (off v : Nat) : State :=
  let p := s.tpin d n
  let merge (old base : Nat) : Nat := if off = base then old / 2 ^ 32 * 2 ^ 32 + v else old % 2 ^ 32 + atLo v 32
  if off = 0x04 then s.modTpin d n fun p =>
    { p with late := p.late && !bitOf v 11, order := p.order && !bitOf v 12, fullRef := p.fullRef && !bitOf v 13 }
  else if off = 0x20 ∨ off = 0x24 then s.winWrite d n false (merge (winLayout p.winOpen) 0x20)
  else if off = 0x28 ∨ off = 0x2C then s.winWrite d n true (merge (winLayout p.winClose) 0x28)
  else if off = 0x30 then s.modTpin d n fun p => p.ctrl v
  else s

/-- TP_CAP (11 Table 11.11): pops the oldest record; a Ladder peek changes nothing. -/
def tpCapReg (w : Who) (s : State) (d n : Nat) : RegRes :=
  match (s.tpin d n).fifo with
  | [] => regOk s 0
  | r :: rest =>
    let v := psecOf r.p + atBit r.rise 40 + atBit r.coarse 41 + atBit true 42
    if readActs w then
      regOk (s.modTpin d n fun p => { p with fifo := rest, ovf := false, capSec := BitVec.ofNat 32 (secOf r.p) }) v
    else regOk s v

/-- TP_SCHED (11 R307): entries of a schedule pin whose source is the register. -/
def tpSchedReg (s : State) (d n v : Nat) : State :=
  let p := s.tpin d n
  if tpMode p.cfg = 2 ∧ ¬ tpFabric p.cfg then
    (s.schedTake d n (some (expandShort (bitsOf v 40 8) (bitsOf v 0 40) (s.ps d))) (bitOf v 48)).1
  else s

/-- An access within a pin's 0x40 bytes (11 Table 11.7). -/
def tpReg (w : Who) (s : State) (d n off : Nat) (write eight : Bool) (v : Nat) : RegRes :=
  if ¬ s.hasPin d n then regOk s 0
  else if off = 0x08 ∨ off = 0x0C then
    (if ¬ (eight ∧ off = 0x08) then regErr s else if write then regOk s 0 else tpCapReg w s d n)
  else if off = 0x18 ∨ off = 0x1C then
    (if ¬ write then regOk s 0 else if eight ∧ off = 0x18 then regOk (tpSchedReg s d n v) 0 else regErr s)
  else if write then
    if eight ∧ (off = 0x20 ∨ off = 0x28) then regOk (s.winWrite d n (off == 0x28) v) 0
    else regOk (putWords (State.tpWriteWord d n) s off eight v) 0
  else regOk s (words (s.tpRead d n) off eight)

/-! ### Time-base and timing registers (11 Table 11.5, Table 11.6, Table 11.8) -/

def State.tbStatus (s : State) : Nat :=
  let b := s.tb
  b.src.toNat + atLo b.mstate.code 2 + atBit b.aoclk 4 + atBit (b.pend != []) 5 + atBit b.ppsPin 6 + atBit b.laneSel 7 + atLo b.ppsRej.toNat 8

/-- The time-base block (11 Table 11.5). -/
def State.tbRead (s : State) (off : Nat) : Nat :=
  let now := (nowLayout (s.ps 8)).toNat
  if off = 0x000 then s.tbStatus
  else if off = 0x008 ∨ off = 0x00C then half now 0x008 off false
  else if off = 0x010 then secOf (s.ps 8) % 2 ^ 32
  else if off = 0x014 then (s.stamp 8).toNat
  else if off = 0x018 then s.tb.ppsErr.toNat
  else if off = 0x01C then s.tb.rateOff.toNat
  else 0

/-- The timing sub-block of an F-die (11 Table 11.6). -/
def State.tdRead (s : State) (d off : Nat) : Nat :=
  let m := (s.time d).mon
  let now := (nowLayout (s.ps d)).toNat
  if off = 0x000 then m.state.code + atBit (s.coarse d) 2 + atLo (min 16 m.ignored) 3
  else if off = 0x004 then atBit m.parentOk 0 + atLo m.parent.toNat 4 + atLo m.hops.toNat 8 + atLo m.secHi.toNat 16
  else if off = 0x008 ∨ off = 0x00C then half now 0x008 off false
  else if off = 0x010 then secOf (s.ps d) % 2 ^ 32
  else if off = 0x014 then (s.stamp d).toNat
  else if off = 0x018 then (ofInt 32 m.offset).toNat
  else 0

/-- An access to the time registers of a die, die 8 the time-base block (11 R310). -/
def timeReg (w : Who) (s : State) (d off : Nat) (write eight : Bool) (v : Nat) : RegRes :=
  if 0x100 ≤ off ∧ off < 0x300 then tpReg w s d ((off - 0x100) / 0x40) (off % 0x40) write eight v
  else if write then regOk s 0
  else regOk s (words (if d = 8 then s.tbRead else s.tdRead d) off eight)

def tpAddr (d n off : Nat) : Nat := (if d = 8 then hubBase 3 else dieBase d + 0x800000) + 0x100 + n * 0x40 + off

def tpDirect (w : Who) (d n off : Nat) (write eight : Bool) (v : Nat) (s : State) : Out :=
  .next (s.access w (tpAddr d n off) write fun s => tpReg w s d n off write eight v)

def execTpCapPop (w : Who) (die pin : Nat) (s : State) : Out := tpDirect w die pin 0x08 false true 0 s
def execTpSchedWrite (w : Who) (die pin : Nat) (data : BitVec 64) (s : State) : Out := tpDirect w die pin 0x18 true true data.toNat s
def execTpWinWrite (w : Who) (die pin : Nat) (close : Bool) (data : BitVec 64) (s : State) : Out :=
  tpDirect w die pin (if close then 0x28 else 0x20) true true data.toNat s
def execTpFlushCap (w : Who) (die pin : Nat) (s : State) : Out := tpDirect w die pin 0x30 true false 1 s
def execTpFlushSched (w : Who) (die pin : Nat) (s : State) : Out := tpDirect w die pin 0x30 true false 2 s
def execTpClrCnt (w : Who) (die pin : Nat) (s : State) : Out := tpDirect w die pin 0x30 true false 4 s

end Sys2Proof.Machine
end

