-- ==== Sys2Proof/Machine/ServicePins.lean ====
section
/-! DEFINITION. Service pins: the crossbar, the peripherals and their registers (20 R498 to R508). -/

namespace Sys2Proof.Machine

/-! ### The crossbar (20 R498, R502, R505) -/

def State.sp (s : State) (n : Nat) : SpPin := tget SpPin.reset s.svc.pins n
def State.modSp (s : State) (n : Nat) (f : SpPin → SpPin) : State := s.modSvc fun x => { x with pins := tmod SpPin.reset x.pins n f }

/-- No image runs (20 R502). -/
def State.spFixed (s : State) : Bool := s.cfg.phase != .running && !(s.cfg.phase == .p3 && (s.die 0).io.pads != .disabled)

/-- What a pin carries in the fixed arrangement (20 R502). -/
def spFixedFunc (n : Nat) : Nat := if n < 4 then 0x08 + n else 0x7F

/-- The function a pin carries now: none under PORn and SRSTn and while it switches; the fixed arrangement while no image runs, but from the
    teardown of a LOAD_IMAGE to its end what it had (20 R502, Table 20.4). -/
def State.spFunc (s : State) (n : Nat) : Nat :=
  if s.cfg.porn ∨ s.cfg.srstn then 0x7F
  else if s.spFixed ∧ ¬ s.svc.kept then spFixedFunc n
  else if (s.sp n).switching then 0x7F else (s.sp n).func.toNat

/-- The pin a function stands on. -/
def State.pinOf (s : State) (f : Nat) : Option Nat := (List.range 64).find? fun n => s.spFunc n == f

/-- FUNC as SP_PIN_n shows it: the new one while it switches. -/
def SpPin.shown (p : SpPin) : Nat := (if p.switching then p.newFunc else p.func).toNat
/-- Pad options as SP_PIN_n bits 13:8 show them. -/
def SpPin.pad (p : SpPin) : Nat := p.bias.toNat + atLo p.drive.toNat 2 + atLo p.slew.toNat 4
def SpPin.padShown (p : SpPin) : Nat := if p.switching then p.newPad.toNat else p.pad

/-- Functions and pad options a pin register may take (20 Table 20.1, Table 20.6). -/
def spFuncOk (f : Nat) : Bool := decide (f < 0x60) || f == 0x7F

/-- A function change begins: the pin is disconnected, and the keeper holds its level (20 Table 20.3, edge e). -/
def SpPin.beginSwitch (p : SpPin) (level : Bool) (func pad : Nat) : SpPin :=
  { p with func := 0x7F, newFunc := BitVec.ofNat 7 func, newPad := BitVec.ofNat 6 pad, switching := true, level := level }

/-- The change ends: new pad options, new function (edge e + 2). -/
def SpPin.endSwitch (p : SpPin) : SpPin :=
  { p with func := p.newFunc, bias := BitVec.ofNat 2 p.newPad.toNat, drive := BitVec.ofNat 2 (p.newPad.toNat / 4),
           slew := BitVec.ofNat 2 (p.newPad.toNat / 16), switching := false }

/-! ### What outputs drive (20 R499 to R501) -/

/-- What a function does at its pin: nothing, a level, or the bits of a transfer, whose instants the model does not follow. -/
inductive SpDrive where
  | off
  | level (v : Bool)
  | serial
deriving DecidableEq, Repr

/-- The die and queue of SP_GFC_k have the watermark asked for, before POL (20 R500). -/
def State.gfcLevel (s : State) (c : BitVec 13) : Bool :=
  let d := bitsOf c.toNat 0 4; let q := bitsOf c.toNat 4 7
  let g := s.gq d q
  (decide (d < s.fdies) && g.used && (if c.getLsbD 11 then g.lo else g.hi)) != c.getLsbD 12

/-- Event output n: an output of TYPE 3 that names it holds an entry, or pulsed within 100 ns (19 R491). -/
def State.evPin (s : State) (n : Nat) : Bool :=
  s.evr.outs.any fun e =>
    bitsOf e.2.cfg.toNat 0 2 == 3 && bitsOf e.2.cfg.toNat 16 16 == n &&
    (if e.2.cfg.getLsbD 2 then (match e.2.pulseAt with | some t => decide (s.now < t + 100000) | none => false) else e.2.fifo != [])

/-- PPS out: high for WIDTH_MS after it rose (20 R501). -/
def State.ppsOut (s : State) : Bool := match s.svc.ppsHighAt with
  | some t => decide (s.now < t + bitsOf s.svc.pps.toNat 0 10 * psMs)
  | none => false

def State.spDrive (s : State) (f : Nat) : SpDrive :=
  if f < 0x08 then (if f % 4 = 0 ∨ f % 4 = 2 then .serial else .off)
  else if f < 0x0C then (if f = 0x0B then .serial else .off)
  else if f < 0x1A then (if (f - 0x0C) % 7 = 2 then .off else .serial)
  else if f < 0x26 then (if (f - 0x1A) % 3 = 2 then .off else .serial)
  else if f < 0x46 then (if s.svc.gpioOe.getLsbD (f - 0x26) then .level (s.svc.gpioOut.getLsbD (f - 0x26)) else .off)
  else if f < 0x4E then .level (s.evPin (f - 0x46))
  else if f < 0x5E then .level (s.gfcLevel (tget 0 s.svc.gfc (f - 0x4E)))
  else if f = 0x5F then .level s.ppsOut
  else .off

/-- The level at a pad input: what the pin drives, what the latch or the keeper holds, else what the board drives; a free value for a pin whose
    function shifts bits. -/
def State.spLevel (s : State) (n : Nat) : Bool :=
  let p := s.sp n
  if p.held ∨ p.switching then p.level
  else match s.spDrive (s.spFunc n) with
    | .level v => v
    | .serial => s.freeVal.getLsbD n
    | .off => Config.boardLevel 8 n s.now

/-- What an input function sees: its pin's level, the keeper's while its pin switches to it, its idle level where it stands on none
    (20 R498, R505). -/
def State.spSees (s : State) (f : Nat) (idle : Bool) : Bool :=
  match s.pinOf f with
  | some n => s.spLevel n
  | none =>
    match (List.range 64).find? fun n => (s.sp n).switching && (s.sp n).newFunc.toNat == f && !(s.spFixed && !s.svc.kept) with
    | some n => (s.sp n).level
    | none => idle

/-! ### Changing a pin's function (20 R502, R505) -/

/-- A write of SP_PIN_n, none where it is answered TGTERR (20 R505). -/
def spWrite (s : State) (n v : Nat) : Option State :=
  let f := bitsOf v 0 7; let pad := bitsOf v 8 6
  let p := s.sp n
  let other := if f = 0x7F then none else (List.range 64).find? fun m => m != n && (s.sp m).shown == f
  let busy := p.switching || (other.map fun m => (s.sp m).switching).getD false
  if s.spFixed ∨ ¬ spFuncOk f ∨ pad / 16 = 3 ∨ busy then none
  else if f = p.shown ∧ pad = p.padShown then some s
  else
    let t := (s.modSp n fun p => p.beginSwitch (s.spLevel n) f pad).drew 1
    some (match other with
      | some m => t.modSp m fun q => q.beginSwitch (s.spLevel m) 0x7F q.pad
      | none => t)

/-- SP_PIN_SWITCH_DONE: two HCLK edges after the write. -/
def execSpPinSwitchDone (n : Nat) (s : State) : Out :=
  .next (if n < 64 ∧ (s.sp n).switching ∧ s.nodeGood 0x8200 then s.modSp n SpPin.endSwitch else s)

/-- The pins take the functions and options of the SPIN entry at P3, each by a switch where it changes (20 R502; 12 R333). -/
def State.spinPins (s : State) (v : List (BitVec 8)) : State :=
  let at3 := s
  let t := s.modSvc fun x => { x with kept := false }
  (List.range 64).foldl (fun (t : State) n =>
    let w := if v = [] then 0x7F else numAt v (4 * n) 4
    let p : SpPin := if at3.svc.kept then at3.sp n else { func := BitVec.ofNat 7 (spFixedFunc n) }
    if bitsOf w 0 7 = p.shown ∧ bitsOf w 8 6 = p.padShown then t.modSp n fun _ => p
    else t.modSp n fun _ => p.beginSwitch (at3.spLevel n) (bitsOf w 0 7) (bitsOf w 8 6)) (t.drew 1)

/-- The rest of SPIN: gutter flow-control outputs, wake inputs, PPS, and the event outputs with their masks (20 Table 20.2; 19 R492). -/
def State.spinRest (s : State) (v : List (BitVec 8)) : State :=
  let s := s.modSvc fun x =>
    { x with gfc := (List.range 16).foldl (fun t k => tput 0 t k (BitVec.ofNat 13 (numAt v (0x100 + 4 * k) 4))) [],
             wake := BitVec.ofNat 32 (numAt v 0x140 4), wakePol := BitVec.ofNat 32 (numAt v 0x144 4),
             pps := if v = [] then 0x64 else BitVec.ofNat 32 (numAt v 0x148 4) }
  s.modEvr fun e =>
    { e with outs := (List.range 64).foldl (fun t k =>
        let o := 0x150 + 0x84 * k
        tput EvOut.reset t k
          { cfg := BitVec.ofNat 32 (numAt v o 4) &&& 0xFFFF0007,
            mask := (List.range 32).foldl (fun m w => tput 0 m w (BitVec.ofNat 32 (numAt v (o + 4 + 4 * w) 4))) [] }) [] }

/-- Every pad latch captures its level, in package DEEP or when a core clock fails (20 R506, R507). -/
def State.spHold (s : State) : State :=
  let lv := (List.range 64).map fun n => s.spLevel n
  (s.modSvc fun x =>
    { x with pins := tmodAll SpPin.reset x.pins (List.range 64) fun n (p : SpPin) => { p with level := lv.getD n false, held := true } }).drew 1

def State.spRelease (s : State) : State :=
  s.modSvc fun x => { x with pins := tmodAll SpPin.reset x.pins (List.range 64) fun _ (p : SpPin) => { p with held := false } }

/-! ### Peripherals (20 R499) -/

/-- A byte's time on a UART: start, eight data bits, parity, stop, each DIV x 10 ns. -/
def Uart.byteTime (u : Uart) : Nat :=
  (10 + bnat (bitsOf u.cfg.toNat 16 2 != 0) + bnat (u.cfg.getLsbD 18)) * max 8 (bitsOf u.cfg.toNat 0 16) * 10000

/-- Bytes sent by an instant leave the transmit FIFO. -/
def Uart.settle (u : Uart) (now : Nat) (go : Bool) : Uart :=
  if u.tx = [] ∨ ¬ go then { u with txAt := now }
  else
    let n := min u.tx.length ((now - u.txAt) / u.byteTime)
    { u with tx := u.tx.drop n, txAt := if u.tx.length ≤ n then now else u.txAt + n * u.byteTime }

def State.uart (s : State) (n : Nat) : Uart := tget Uart.reset s.svc.uarts n
def State.modUart (s : State) (n : Nat) (f : Uart → Uart) : State := s.modSvc fun x => { x with uarts := tmod Uart.reset x.uarts n f }
def State.spic (s : State) (n : Nat) : Spic := tget Spic.reset s.svc.spics n
def State.modSpic (s : State) (n : Nat) (f : Spic → Spic) : State := s.modSvc fun x => { x with spics := tmod Spic.reset x.spics n f }
def State.i2c (s : State) (n : Nat) : I2c := tget I2c.reset s.svc.i2cs n
def State.modI2c (s : State) (n : Nat) (f : I2c → I2c) : State := s.modSvc fun x => { x with i2cs := tmod I2c.reset x.i2cs n f }

/-- The peripheral clock, taken from PREF, while inputs are not ignored (20 R499, Table 20.4). -/
def State.periClock (s : State) : Bool := s.nodeGood 0x8F00 && s.clk.pkg == .active && !s.cfg.bootFault

/-- CTS of a UART is asserted: low, as it also is on no pin. -/
def State.ctsLow (s : State) (n : Nat) : Bool := !s.spSees (4 * n + 3) false

/-- A UART with the bytes sent so far gone from its FIFO. -/
def State.settleUart (s : State) (n : Nat) : State :=
  s.modUart n fun u => u.settle s.now (s.periClock && (!u.cfg.getLsbD 19 || s.ctsLow n))

def Uart.push (u : Uart) (b : BitVec 8) (now : Nat) : Uart :=
  if 16 ≤ u.tx.length then { u with txDrop := true } else { u with tx := u.tx ++ [b], txAt := if u.tx = [] then now else u.txAt }

/-- UART_RX_BYTE: a byte arrives at RX; with the FIFO full it is lost and OVERRUN sets. -/
def Uart.take (u : Uart) (b : BitVec 8) (framing parity : Bool) : Uart :=
  { u with rx := if 16 ≤ u.rx.length then u.rx else u.rx ++ [b], overrun := u.overrun || decide (16 ≤ u.rx.length),
           framing := u.framing || framing, parityErr := u.parityErr || (parity && bitsOf u.cfg.toNat 16 2 != 0) }

def execUartRxByte (n : Nat) (data : BitVec 8) (framing parity : Bool) (s : State) : Out :=
  .next (if n < 2 ∧ (s.pinOf (4 * n + 1)).isSome ∧ s.periClock then s.modUart n fun u => u.take data framing parity else s)

/-- SPIC_XFER_DONE: COUNT bytes went out and COUNT came in; MISO on no pin reads 0. -/
def Spic.finish (x : Spic) (got : List (BitVec 8)) : Spic :=
  let room := 16 - x.rx.length
  { x with busy := false, tx := x.tx.drop x.count, rx := x.rx ++ got.take room, rxDrop := x.rxDrop || decide (room < got.length), csOn := x.holdCs }

def execSpicXferDone (n : Nat) (bytes : List (BitVec 8)) (s : State) : Out :=
  .next (
    if n < 2 ∧ (s.spic n).busy ∧ s.periClock then
      let got := if (s.pinOf (0x0E + 7 * n)).isSome then bytesAt bytes 0 (s.spic n).count else List.replicate (s.spic n).count 0
      s.modSpic n fun x => x.finish got
    else s)

/-- I2C_XFER_DONE. -/
def I2c.finish (x : I2c) (got : List (BitVec 8)) (nack arb : Bool) : I2c :=
  let n := bitsOf x.cmd.toNat 8 5
  { x with busy := false, nack := x.nack || nack, arbLost := x.arbLost || arb,
           tx := if x.cmd.getLsbD 7 then x.tx else x.tx.drop n,
           rx := if x.cmd.getLsbD 7 && !nack && !arb then (x.rx ++ bytesAt got 0 n).take 16 else x.rx }

def execI2cXferDone (n : Nat) (bytes : List (BitVec 8)) (nack arb : Bool) (s : State) : Out :=
  .next (if n < 4 ∧ (s.i2c n).busy ∧ s.periClock then s.modI2c n fun x => x.finish bytes nack arb else s)

/-- PPS_OUT_PULSE: at a whole second of H-die time, once for each; while LOCKED when LOCKED_ONLY is set (20 R501). -/
def execPpsOutPulse (s : State) : Out :=
  let sec := secOf (s.ps 8 + 2000)
  .next (
    if psecOf (s.ps 8 + 2000) ≤ 4000 ∧ s.clk.pkg = .active ∧ (s.svc.pps.getLsbD 16 = false ∨ s.tb.mstate = .locked) ∧ s.tb.ppsOutSec ≠ sec then
      (s.modSvc fun x => { x with ppsHighAt := some s.now }).modTb fun b => { b with ppsOutSec := sec }
    else s)

/-- Every peripheral but the SPI target is reset; the registers of pins, GPIO, PPS and flow control stay (20 Table 20.4). -/
def State.periReset (s : State) : State := s.modSvc fun x => { x with uarts := [], spics := [], i2cs := [], ppsHighAt := none }

/-- Transfers are abandoned and the FIFOs cleared, at entry to package DEEP (20 R507). -/
def State.periDeep (s : State) : State :=
  s.modSvc fun x =>
    { x with
      uarts := tmodAll Uart.reset x.uarts [0, 1] fun _ (u : Uart) => { u with tx := [], rx := [] },
      spics := tmodAll Spic.reset x.spics [0, 1] fun _ (u : Spic) => { u with tx := [], rx := [], busy := false, csOn := false },
      i2cs := tmodAll I2c.reset x.i2cs [0, 1, 2, 3] fun _ (u : I2c) => { u with tx := [], rx := [], busy := false },
      ppsHighAt := none }

/-! ### Registers (20 R508, Table 20.5) -/

/-- A register that only privileged access reaches. -/
def svcPriv (off : Nat) : Bool :=
  (decide (0x100 ≤ off) && decide (off < 0x200)) || off == 0x300 || (decide (0x380 ≤ off) && decide (off < 0x3C0))

def SpPin.reg (p : SpPin) (level : Bool) : Nat :=
  p.shown + atLo p.padShown 8 + atBit p.switching 16 + atBit level 17 + atBit p.held 18

def headByte (q : List (BitVec 8)) : Nat := match q with
  | b :: _ => b.toNat + atBit true 8
  | [] => 0

/-- GPIO_IN: the level of each GPIO's pin, 0 where it stands on none. -/
def State.gpioIn (s : State) : Nat :=
  (List.range 32).foldl (fun a g => a + atBit (s.spSees (0x26 + g) false) g) 0

def State.uartRead (s : State) (n off : Nat) : Nat :=
  let u := s.uart n
  if off = 0x00 then u.cfg.toNat
  else if off = 0x04 then
    u.tx.length + atLo u.rx.length 8 + atBit u.overrun 16 + atBit u.framing 17 + atBit u.parityErr 18 + atBit u.txDrop 19
  else if off = 0x0C then headByte u.rx
  else 0

def State.spicRead (s : State) (n off : Nat) : Nat :=
  let x := s.spic n
  if off = 0x00 then x.cfg.toNat
  else if off = 0x04 then bnat x.busy + atLo x.tx.length 4 + atLo x.rx.length 12 + atBit x.rxDrop 20
  else if off = 0x0C then headByte x.rx
  else 0

def State.i2cRead (s : State) (n off : Nat) : Nat :=
  let x := s.i2c n
  if off = 0x00 then x.speed.toNat
  else if off = 0x0C then headByte x.rx
  else if off = 0x10 then bnat x.busy + atBit x.nack 1 + atBit x.arbLost 2 + atBit (s.spSees (0x1C + 3 * n) true) 3 + atLo x.rx.length 8
  else 0

def State.svcRead (s : State) (off : Nat) : Nat :=
  if off = 0x000 then bnat s.spFixed + atBit (s.svc.pins.any fun e => e.2.switching) 1
  else if off < 0x100 then 0
  else if off < 0x200 then (s.sp ((off - 0x100) / 4)).reg (s.spLevel ((off - 0x100) / 4))
  else if off = 0x200 ∨ off = 0x20C ∨ off = 0x210 then s.svc.gpioOut.toNat
  else if off = 0x204 then s.svc.gpioOe.toNat
  else if off = 0x208 then s.gpioIn
  else if off = 0x214 then s.svc.wake.toNat
  else if off = 0x218 then s.svc.wakePol.toNat
  else if off = 0x300 then s.svc.pps.toNat
  else if 0x380 ≤ off ∧ off < 0x3C0 then (tget 0 s.svc.gfc ((off - 0x380) / 4)).toNat
  else if 0x400 ≤ off ∧ off < 0x440 then s.uartRead ((off - 0x400) / 0x20) (off % 0x20)
  else if 0x500 ≤ off ∧ off < 0x540 then s.spicRead ((off - 0x500) / 0x20) (off % 0x20)
  else if 0x600 ≤ off ∧ off < 0x680 then s.i2cRead ((off - 0x600) / 0x20) (off % 0x20)
  else 0

/-- What a read leaves behind: the receive FIFOs are popped. -/
def State.svcPop (s : State) (off : Nat) : State :=
  if off % 0x20 ≠ 0x0C then s
  else if 0x400 ≤ off ∧ off < 0x440 then s.modUart ((off - 0x400) / 0x20) fun u => { u with rx := u.rx.drop 1 }
  else if 0x500 ≤ off ∧ off < 0x540 then s.modSpic ((off - 0x500) / 0x20) fun u => { u with rx := u.rx.drop 1 }
  else if 0x600 ≤ off ∧ off < 0x680 then s.modI2c ((off - 0x600) / 0x20) fun u => { u with rx := u.rx.drop 1 }
  else s

def uartWrite (s : State) (n off v : Nat) : State :=
  if off = 0x00 then s.modUart n fun u => { u with cfg := BitVec.ofNat 20 (if bitsOf v 0 16 < 8 then v - bitsOf v 0 16 + 8 else v) }
  else if off = 0x04 then
    s.modUart n fun u =>
      { u with overrun := u.overrun && !bitOf v 16, framing := u.framing && !bitOf v 17, parityErr := u.parityErr && !bitOf v 18,
               txDrop := u.txDrop && !bitOf v 19 }
  else if off = 0x08 then s.modUart n fun u => u.push (BitVec.ofNat 8 v) s.now
  else s

def spicWrite (s : State) (n off v : Nat) : Option State :=
  let x := s.spic n
  if off = 0x00 then some (s.modSpic n fun x => { x with cfg := BitVec.ofNat 13 v })
  else if off = 0x04 then some (s.modSpic n fun x => { x with rxDrop := x.rxDrop && !bitOf v 20 })
  else if off = 0x08 then some (if x.tx.length < 16 then s.modSpic n fun x => { x with tx := x.tx ++ [BitVec.ofNat 8 v] } else s)
  else if off = 0x10 then
    if x.busy then none
    else
      let c := bitsOf v 0 5
      some (if 1 ≤ c ∧ c ≤ 16 then s.modSpic n fun x => { x with busy := true, count := c, holdCs := bitOf v 8, csOn := true } else s)
  else some s

def i2cWrite (s : State) (n off v : Nat) : Option State :=
  let x := s.i2c n
  if off = 0x00 then some (s.modI2c n fun x => { x with speed := BitVec.ofNat 2 v })
  else if off = 0x04 then
    if x.busy then none
    else
      let c := bitsOf v 8 5
      some (if 1 ≤ c ∧ c ≤ 16 then s.modI2c n fun x => { x with busy := true, cmd := BitVec.ofNat 17 v &&& 0x11FFF } else s)
  else if off = 0x08 then some (if x.tx.length < 16 then s.modI2c n fun x => { x with tx := x.tx ++ [BitVec.ofNat 8 v] } else s)
  else if off = 0x10 then some (s.modI2c n fun x => { x with nack := x.nack && !bitOf v 1, arbLost := x.arbLost && !bitOf v 2 })
  else some s

/-- One 4-byte write, none where it is answered TGTERR. -/
def svcWriteWord (s : State) (off v : Nat) : Option State :=
  if 0x100 ≤ off ∧ off < 0x200 then spWrite s ((off - 0x100) / 4) v
  else if off = 0x200 then some (s.modSvc fun x => { x with gpioOut := BitVec.ofNat 32 v })
  else if off = 0x204 then some (s.modSvc fun x => { x with gpioOe := BitVec.ofNat 32 v })
  else if off = 0x20C then some (s.modSvc fun x => { x with gpioOut := x.gpioOut ||| BitVec.ofNat 32 v })
  else if off = 0x210 then some (s.modSvc fun x => { x with gpioOut := x.gpioOut &&& ~~~(BitVec.ofNat 32 v) })
  else if off = 0x300 then
    some (if 1 ≤ bitsOf v 0 10 ∧ bitsOf v 0 10 ≤ 999 then s.modSvc fun x => { x with pps := BitVec.ofNat 32 v &&& 0x103FF } else s)
  else if 0x380 ≤ off ∧ off < 0x3C0 then
    some (s.modSvc fun x => { x with gfc := tput 0 x.gfc ((off - 0x380) / 4) (BitVec.ofNat 13 v) })
  else if 0x400 ≤ off ∧ off < 0x440 then some (uartWrite s ((off - 0x400) / 0x20) (off % 0x20) v)
  else if 0x500 ≤ off ∧ off < 0x540 then spicWrite s ((off - 0x500) / 0x20) (off % 0x20) v
  else if 0x600 ≤ off ∧ off < 0x680 then i2cWrite s ((off - 0x600) / 0x20) (off % 0x20) v
  else some s

def svcWrite (s : State) (off : Nat) (eight : Bool) (v : Nat) : Option State :=
  if eight then (svcWriteWord s off (v % 2 ^ 32)).bind fun s => svcWriteWord s (off + 4) (v / 2 ^ 32)
  else svcWriteWord s off (v % 2 ^ 32)

/-- An access to the service-pin block. -/
def svcReg (w : Who) (s : State) (off : Nat) (write eight : Bool) (v : Nat) : RegRes :=
  if (svcPriv off || (eight && svcPriv (off + 4))) && !w.priv then regDenied s
  else
    let s := (s.settleUart 0).settleUart 1
    if write then
      match svcWrite s off eight v with
      | some s' => regOk s' 0
      | none => regErr s
    else
      let r := words s.svcRead off eight
      let s := if readActs w then (if eight then (s.svcPop off).svcPop (off + 4) else s.svcPop off) else s
      regOk (s.drew 1) r

def svcDirect (w : Who) (off : Nat) (write : Bool) (v : Nat) (s : State) : Out :=
  .next (s.access w (hubBase 6 + off) write fun s => svcReg w s off write false v)

def execSpPinWrite (w : Who) (n : Nat) (data : BitVec 32) (s : State) : Out := svcDirect w (0x100 + 4 * n) true data.toNat s
def execGpioSet (w : Who) (data : BitVec 32) (s : State) : Out := svcDirect w 0x20C true data.toNat s
def execGpioClr (w : Who) (data : BitVec 32) (s : State) : Out := svcDirect w 0x210 true data.toNat s
def execUartTx (w : Who) (n : Nat) (data : BitVec 32) (s : State) : Out := svcDirect w (0x408 + 0x20 * n) true data.toNat s
def execUartRx (w : Who) (n : Nat) (s : State) : Out := svcDirect w (0x40C + 0x20 * n) false 0 s
def execSpicXfer (w : Who) (n : Nat) (data : BitVec 32) (s : State) : Out := svcDirect w (0x510 + 0x20 * n) true data.toNat s
def execSpicRx (w : Who) (n : Nat) (s : State) : Out := svcDirect w (0x50C + 0x20 * n) false 0 s
def execI2cCmd (w : Who) (n : Nat) (data : BitVec 32) (s : State) : Out := svcDirect w (0x604 + 0x20 * n) true data.toNat s
def execI2cRx (w : Who) (n : Nat) (s : State) : Out := svcDirect w (0x60C + 0x20 * n) false 0 s

end Sys2Proof.Machine
end

