-- ==== Sys2Proof/Machine/DmaOps.lean ====
section
/-! DEFINITION. A DMA channel: shapes, promotion, beats, errors, stops and completion (16 R416, R419 to R432). -/

namespace Sys2Proof.Machine

/-! ### Register sets (16 Table 16.8, Table 16.10) -/

def DmaSet.mode (x : DmaSet) : Nat := bitsOf x.cfg.toNat 0 2
def DmaSet.retry (x : DmaSet) : Nat := bitsOf x.cfg.toNat 2 3
def DmaSet.prio (x : DmaSet) : Nat := bitsOf x.cfg.toNat 5 2
def DmaSet.ord (x : DmaSet) : Bool := x.cfg.getLsbD 7
def DmaSet.timed (x : DmaSet) : Bool := x.cfg.getLsbD 8

/-- One side's shape (16 R419). -/
structure Shape where
  base : Nat
  line : Nat
  lines : Nat
  stride : BitVec 48
deriving DecidableEq, Repr

def DmaSet.srcShape (x : DmaSet) : Shape := { base := x.src.toNat, line := x.srcLine.toNat + 1, lines := x.srcLines.toNat, stride := x.srcStride }
def DmaSet.dstShape (x : DmaSet) : Shape := { base := x.dst.toNat, line := x.dstLine.toNat + 1, lines := x.dstLines.toNat, stride := x.dstStride }

/-- Address of a position of a side's stream. -/
def Shape.addr (x : Shape) (pos : Nat) : Nat :=
  (x.base + pos / x.line * x.stride.toNat + pos % x.line) % 2 ^ 48

def Shape.total (x : Shape) : Nat := x.line * x.lines

/-- Hub control space and the F-die control regions (01 Table 1.3). -/
def inControl (a : Nat) : Bool := decide (0xF00000000000 ≤ a) && decide (a < 0xF00100000000)

/-- Bytes of the beat at a position (16 R416): within the line, not across a 256-byte boundary; in control space 8 or 4 bytes where aligned. -/
def Shape.beat (x : Shape) (pos : Nat) : Nat :=
  let a := x.addr pos
  let left := x.line - pos % x.line
  if inControl a then
    (if a % 8 = 0 ∧ 8 ≤ left then 8 else if a % 4 = 0 ∧ 4 ≤ left then 4 else min (4 - a % 4) left)
  else min left (256 - a % 256)

/-- A side in use that a valid set allows (16 R420). -/
def Shape.ok (x : Shape) : Bool :=
  decide (x.lines ≠ 0) && (!inControl x.base || (x.base % 4 == 0 && x.line % 4 == 0 && x.stride.toNat % 4 == 0))

def DmaSet.fill (x : DmaSet) : Bool := x.mode == 1 || x.mode == 2
def DmaSet.valid (x : DmaSet) : Bool :=
  x.dstShape.ok && (x.fill || (x.srcShape.ok && x.srcShape.total == x.dstShape.total))

/-- Fill bytes, tied to the address (16 R421). -/
def DmaSet.fillBytes (x : DmaSet) (a n : Nat) : Bytes :=
  (List.range n).map fun i =>
    let k := if x.mode = 1 then (a + i) % 4 else (a + i) % 8
    BitVec.ofNat 8 (x.pattern.toNat / 2 ^ (8 * k))

/-! ### Starting (16 R426, R427) -/

/-- What a promotion clears. -/
def DmaCh.fresh (x : DmaCh) : DmaCh :=
  { x with
    rdPos := 0, rd2Pos := 0, wrPos := 0, buf := [], got := [], cmpB := [], gotB := [], beats := [], rdBytes := 0, wrBytes := 0, bufCnt := 0,
    mismatch := 0, failAddr := 0, failed := false, retries := 0, haltAddr := 0, cause := 0, retried := false, side := false, rb := false,
    halting := false }

/-- Promotion at an HCLK edge: the shadow set becomes active and the transfer starts or waits for START_AT; an invalid set is refused. -/
def State.dmaPromote (s : State) (c : Nat) : State :=
  let x := s.dmaCh c
  if ¬ x.shadow.valid then s.modDma c fun x => { x with committed := false, shadowErr := true, state := .idle }
  else
    let p := s.ps 8
    let st := expandShort (bitsOf x.shadow.startAt.toNat 40 8) (bitsOf x.shadow.startAt.toNat 0 40) p
    let waits := x.shadow.timed && decide (p < st)
    s.modDma c fun x =>
      { x.fresh with
        active := x.shadow, committed := false, startP := if x.shadow.timed then st else 0,
        state := if waits then .wait else .busy, late := x.late || (x.shadow.timed && !waits) }

/-- The package is in DEEP or on its way in or out: a GO is held (16 R434). -/
def State.pkgAwake (s : State) : Bool := s.clk.pkg == .active

/-- A GO judged in IDLE. -/
def State.dmaGoIdle (s : State) (c : Nat) : State :=
  if s.pkgAwake then s.dmaPromote c else s.modDma c fun x => { x with pendingEnable := true, goInDeep := true }

/-! ### Ending (16 R417, R425, R428, R430, R433) -/

/-- A channel as a release leaves it. -/
def DmaCh.blank (x : DmaCh) : DmaCh := { DmaCh.reset with stamp := x.stamp }

/-- The release of a grant is done: everything is cleared, the grant is invalid, DMA_RELEASE completes. -/
def State.dmaFree (s : State) (c : Nat) : State :=
  let tok := (s.dmaCh c).relCmd
  (s.modDma c fun x => x.blank).completeOpt tok stOk []

/-- The log entry and event of a halt. -/
def State.dmaHaltNote (s : State) (c : Nat) : State :=
  let x := s.dmaCh c
  let locA := 8 + atLo c 4 + atLo x.cause.toNat 9 + atBit x.side 12 + atBit x.rb 13 + atLo x.midVal.toNat 16
  let e := mkEntry 0x15 2 (if x.irqHalt then 0x360 + c else noEvid) locA x.haltAddr.toNat
  if x.irqHalt then s.raiseHub (0x360 + c) (x.cause.toNat + atBit x.side 3 + atBit x.rb 4) (some e) else s.logNote e

/-! MEM_INIT's fill on a held channel (14 R391, R392). -/

def State.fillOf (s : State) (c : Nat) : Option MemFill := (s.dram.fills.find? fun e => e.1 == c).map (·.2)

/-- The access regions a range touches. -/
def State.regionsIn (s : State) (lo hi : Nat) : List Nat :=
  (s.dram.regions.filter fun e => e.2.valid && decide (e.2.base.toNat ≤ hi) && decide (lo ≤ e.2.limit.toNat)).map (·.1)

def dmaMid (c : Nat) : BitVec 12 := BitVec.ofNat 12 (0x810 + c)

/-- The fill ends: temporary entries go, the channel is free, MEM_INIT completes, and a success marks the regions it covered whole. -/
def State.fillEnd (s : State) (c : Nat) (f : MemFill) (ok : Bool) (resp addr : Nat) : State :=
  let s := (s.regionsIn f.base f.limit).foldl (fun (s : State) r =>
    s.setAcls (tmod AclTable.reset s.acls r fun t => { t with temps := t.temps.filter fun e => e.mid != dmaMid c })) s
  let s := s.modDma c fun x => x.blank
  let s := s.modDram fun d => { d with fills := d.fills.filter fun e => e.1 != c }
  let whole := (s.dram.regions.filter fun e => e.2.valid && decide (f.base ≤ e.2.base.toNat) && decide (e.2.limit.toNat ≤ f.limit)).map (·.1)
  let s := if ok then s.modDram fun d => { d with regions := tmodAll Region.reset d.regions whole fun _ x => { x with scrub := true } } else s
  s.complete f.mbx (if ok then stOk else stFault) (leBytes 8 resp ++ leBytes 8 addr)

/-- The next stretch of a fill: at most 16 MiB, one line. -/
def MemFill.set (f : MemFill) : DmaSet :=
  { dst := BitVec.ofNat 48 f.pos, dstLine := BitVec.ofNat 24 (min (f.limit + 1 - f.pos) (2 ^ 24) - 1), dstLines := 1, pattern := f.pattern,
    cfg := BitVec.ofNat 9 (2 + atLo 7 2) }

def State.fillStart (s : State) (c : Nat) (f : MemFill) : State :=
  (s.modDma c fun x => { x.fresh with active := f.set, state := .busy, held := true }).modDram fun d =>
    { d with fills := (d.fills.filter fun e => e.1 < c) ++ [(c, f)] ++ (d.fills.filter fun e => c < e.1) }

/-- A transfer is done: DONE, the stamp, DMA_DONE; a committed set is promoted. -/
def State.dmaDone (s : State) (c : Nat) : State :=
  match s.fillOf c with
  | some f =>
    let next := f.pos + min (f.limit + 1 - f.pos) (2 ^ 24)
    if f.limit < next then s.fillEnd c f true 0 0 else s.fillStart c { f with pos := next }
  | none =>
    let st := s.stamp 8
    let x := s.dmaCh c
    let s := s.modDma c fun x => { x with done := true, stamp := st, state := .idle }
    let s := if x.irqDone then s.raiseHub (0x340 + c) st.toNat none else s
    if x.committed then s.dmaPromote c else s

/-- A stop or halt is over: nothing is outstanding. A held GO is judged as IDLE after a stop, and discarded in HALTED. -/
def State.dmaStopped (s : State) (c : Nat) : State :=
  let x := s.dmaCh c
  match s.fillOf c with
  | some f => if x.halting then (s.dmaHaltNote c).fillEnd c f false x.cause.toNat x.haltAddr.toNat else s.fillEnd c f false 0 0
  | none =>
    if x.halting then
      let s := (s.modDma c fun x => { x with state := .halted, pendingEnable := false, beats := [], buf := [], got := [], cmpB := [], gotB := [] }).dmaHaltNote c
      if x.releasing then s.dmaFree c else s
    else
      let s := s.modDma c fun x => { x with state := .idle, pendingEnable := false, beats := [], buf := [], got := [], cmpB := [], gotB := [] }
      if x.releasing then s.dmaFree c else if x.pendingEnable then s.dmaGoIdle c else s

/-- Requests outstanding: beats that do not wait for a retry. -/
def DmaCh.outstanding (x : DmaCh) : List Beat := x.beats.filter fun b => b.retryAt.isNone

/-- A stop that has nothing to wait for ends at once. -/
def State.dmaSettle (s : State) (c : Nat) : State :=
  let x := s.dmaCh c
  if x.state = .stopping ∧ x.outstanding = [] then s.dmaStopped c else s

/-- STOP against each state (16 Table 16.4). -/
def State.dmaStop (s : State) (c : Nat) : State :=
  match (s.dmaCh c).state with
  | .wait | .busy | .readback =>
    (s.modDma c fun x =>
      { x with state := .stopping, committed := false, halting := false, beats := x.beats.filter fun b => b.retryAt.isNone }).dmaSettle c
  | _ => s

/-- CLEAR against each state. -/
def State.dmaClear (s : State) (c : Nat) : State :=
  if (s.dmaCh c).state = .halted then s.modDma c fun x => { x with state := .idle, committed := false, pendingEnable := false } else s

/-- GO against each state; none where HALTED answers TGTERR. -/
def State.dmaGo (s : State) (c : Nat) : Option State :=
  match (s.dmaCh c).state with
  | .idle => some (s.dmaGoIdle c)
  | .wait | .busy | .readback => some (s.modDma c fun x => { x with committed := true })
  | .stopping => some (if (s.dmaCh c).releasing then s else s.modDma c fun x => { x with pendingEnable := true })
  | .halted => none

/-- SNAP (16 R431). -/
def DmaCh.snap (x : DmaCh) : DmaCh := { x with sRd := x.rdBytes, sWr := x.wrBytes, sBuf := x.bufCnt }

/-! ### Beats (16 R416, R421 to R423, R428) -/

/-- The bytes of a range of stream positions have all arrived. -/
def heldIn (got : List (Nat × Nat)) (pos n : Nat) : Bool := (List.range n).all fun i => got.any fun r => decide (r.1 ≤ pos + i) && decide (pos + i < r.2)

def DmaCh.reads (x : DmaCh) : Nat := (x.beats.filter fun b => !b.write).length
def DmaCh.writes (x : DmaCh) : Nat := (x.beats.filter fun b => b.write).length

/-- The beat of a kind that a channel could issue now. -/
def DmaCh.nextBeat (x : DmaCh) (kind : BeatKind) : Option Beat :=
  let a := x.active
  let total := a.dstShape.total
  let mk (side rb write : Bool) (pos addr len : Nat) (data : Bytes) : Beat :=
    { write := write, side := side, rb := rb, pos := pos, addr := BitVec.ofNat 48 addr, len := len, data := data }
  match kind with
  | .read =>
    let n := a.srcShape.beat x.rdPos
    let used := if a.mode = 3 then (x.rdPos - x.wrPos) + (x.rd2Pos - x.wrPos) else x.rdPos - x.wrBytes.toNat
    if x.state = .busy ∧ (a.mode = 0 ∨ a.mode = 3) ∧ x.rdPos < total ∧ x.reads < 16 ∧ used + n ≤ 4096 then
      some (mk false false false x.rdPos (a.srcShape.addr x.rdPos) n [])
    else none
  | .readDst =>
    let n := a.dstShape.beat x.rd2Pos
    let used := (x.rdPos - x.wrPos) + (x.rd2Pos - x.wrPos)
    if x.state = .busy ∧ a.mode = 3 ∧ x.rd2Pos < total ∧ x.reads < 16 ∧ used + n ≤ 4096 then
      some (mk true false false x.rd2Pos (a.dstShape.addr x.rd2Pos) n [])
    else none
  | .write =>
    let n := a.dstShape.beat x.wrPos
    let addr := a.dstShape.addr x.wrPos
    if x.state = .busy ∧ a.mode ≠ 3 ∧ x.wrPos < total ∧ x.writes < 16 ∧ (if a.fill then decide (x.bufCnt.toNat + n ≤ 4096) else heldIn x.got x.wrPos n) then
      some (mk true false true x.wrPos addr n (if a.fill then a.fillBytes addr n else tabBytes x.buf x.wrPos n))
    else none
  | .readBack =>
    let addr := a.dstShape.addr (total - 1)
    if x.state = .readback ∧ x.beats = [] then
      some (if inControl addr then mk true true false 0 (addr / 4 * 4) 4 [] else mk true true false 0 addr 1 [])
    else none

def beatKinds : List BeatKind := [.read, .readDst, .write, .readBack]
/-- A channel with a request ready. -/
def DmaCh.ready (x : DmaCh) : Bool := beatKinds.any fun k => (x.nextBeat k).isSome

/-- The turn of a channel at its router (16 R432): the highest PRIO first, equal ones in turn. -/
def State.dmaTurn (s : State) (c : Nat) : Bool :=
  let g := c / 16
  let prio (k : Nat) : Nat := (s.dmaCh k).active.prio
  let last := tget 0 s.dmaLast g
  let dist (k : Nat) : Nat := (k % 16 + 32 - (last + 1) % 16) % 16
  (List.range 16).all fun i =>
    let k := 16 * g + i
    k == c || !(s.dmaCh k).ready || decide (prio k < prio c) || (prio k == prio c && decide (dist c ≤ dist k))

/-- A beat's request enters the network; it is booked under the TAG it got. -/
def State.sendBeat (s : State) (c : Nat) (b : Beat) : State :=
  let x := s.dmaCh c
  let q : Req :=
    { opc := forcePriv s (dmaMid c) (if b.write then 2 else 0), addr := b.addr, len := BitVec.ofNat 8 (b.len - 1),
      be := if b.write then BitVec.ofNat 64 (2 ^ min b.len 64 - 1) else 0, ord := x.active.ord, poison := false, data := b.data }
  match s.injectReq (dmaMid c) q 0 with
  | (s, some t) => s.modDma c fun x => { x with beats := x.beats ++ [{ b with tag := t, retryAt := none }] }
  | (s, none) => s

/-- A side's shape names an address. -/
def Shape.names (x : Shape) (a : Nat) : Bool :=
  (List.range x.lines).any fun n => decide ((a + 2 ^ 48 - (x.base + n * x.stride.toNat) % 2 ^ 48) % 2 ^ 48 < x.line)

/-- What a write of a COPY carries: a byte whose address the source stream names too is undefined, a free value (16 R423). -/
def State.copyData (s : State) (a : DmaSet) (b : Beat) : State × Bytes :=
  let both := (List.range b.len).map fun i => a.srcShape.names ((b.addr.toNat + i) % 2 ^ 48)
  if b.write ∧ a.mode = 0 ∧ both.any id then
    (s.drew b.len, (both.zip ((s.freeBytes b.len).zip b.data)).map fun e => if e.1 then e.2.1 else e.2.2)
  else (s, b.data)

/-- DMA_BEAT_ISSUE. -/
def dmaBeatIssue (s : State) (c : Nat) (kind : BeatKind) : State :=
  let x := s.dmaCh c
  match x.nextBeat kind with
  | none => s
  | some b =>
    if 32 ≤ c ∨ ¬ s.dmaTurn c ∨ (s.master (dmaMid c)).freeTag.isNone then s
    else
      let s := s.setDmaLast (tput 0 s.dmaLast (c / 16) (c % 16))
      let s := s.modDma c fun x => match kind with
        | .read => { x with rdPos := x.rdPos + b.len }
        | .readDst => { x with rd2Pos := x.rd2Pos + b.len }
        | .write =>
          if x.active.fill then { x with wrPos := x.wrPos + b.len, rdBytes := x.rdBytes + BitVec.ofNat 48 b.len, bufCnt := x.bufCnt + BitVec.ofNat 13 b.len }
          else { x with wrPos := x.wrPos + b.len }
        | .readBack => x
      let (s, data) := s.copyData x.active b
      s.sendBeat c { b with data := data }

def execDmaBeatIssue (c : Nat) (kind : BeatKind) (s : State) : Out := .next (dmaBeatIssue s c kind)

/-- COMPARE over what has arrived of both streams, in order (16 R422). -/
def DmaCh.compare (x : DmaCh) : Nat → DmaCh
  | 0 => x
  | n + 1 =>
    let k := x.wrPos
    if heldIn x.got k 1 ∧ heldIn x.gotB k 1 then
      let differ := tget 0 x.buf k != tget 0 x.cmpB k
      ({ x with
         wrPos := k + 1, wrBytes := x.wrBytes + 1, bufCnt := x.bufCnt - 1,
         mismatch := if differ then satInc x.mismatch else x.mismatch,
         failAddr := if differ && !x.failed then BitVec.ofNat 48 (x.active.srcShape.addr k) else x.failAddr,
         failed := x.failed || differ, buf := tput 0 x.buf k 0, cmpB := tput 0 x.cmpB k 0 } : DmaCh).compare n
    else x

/-- A beat is answered OK: its data joins the buffer, or its bytes count as written (16 R431). Data that comes in a stop is kept and goes nowhere. -/
def DmaCh.beatOk (x : DmaCh) (b : Beat) (data : Bytes) : DmaCh :=
  if b.rb then x
  else if b.write then { x with wrBytes := x.wrBytes + BitVec.ofNat 48 b.len, bufCnt := x.bufCnt - BitVec.ofNat 13 b.len }
  else if b.side then
    let x := { x with cmpB := tabWrite x.cmpB b.pos (bytesAt data 0 b.len), gotB := x.gotB ++ [(b.pos, b.pos + b.len)] }
    if x.state = .busy then x.compare 4096 else x
  else
    let x := { x with buf := tabWrite x.buf b.pos (bytesAt data 0 b.len), got := x.got ++ [(b.pos, b.pos + b.len)],
                      rdBytes := x.rdBytes + BitVec.ofNat 48 b.len, bufCnt := x.bufCnt + BitVec.ofNat 13 b.len }
    if x.active.mode = 3 ∧ x.state = .busy then x.compare 4096 else x

/-- Ranges of the buffer that are still wanted. -/
def DmaCh.trim (x : DmaCh) : DmaCh :=
  { x with got := x.got.filter fun r => decide (x.wrPos < r.2), gotB := x.gotB.filter fun r => decide (x.wrPos < r.2),
           buf := if x.active.mode = 0 then x.buf.filter fun e => decide (x.wrPos ≤ e.1) else x.buf }

/-- The channel moves on after a beat: to the read-back, to DONE, or out of a stop. -/
def State.dmaAdvance (s : State) (c : Nat) : State :=
  let x := s.dmaCh c
  let total := x.active.dstShape.total
  match x.state with
  | .busy =>
    if x.active.mode = 3 then (if x.wrPos = total then s.dmaDone c else s)
    else if x.wrPos = total ∧ x.beats = [] then s.modDma c fun x => { x with state := .readback } else s
  | .stopping => s.dmaSettle c
  | _ => s

/-- A beat's failure that ends the transfer (16 R430). -/
def State.dmaHalt (s : State) (c : Nat) (b : Beat) (resp : BitVec 3) (retried : Bool) : State :=
  (s.modDma c fun x =>
    { x with state := .stopping, halting := true, cause := resp, retried := retried, side := b.side, rb := b.rb, haltAddr := b.addr,
             beats := x.beats.filter fun b => b.retryAt.isNone }).dmaSettle c

/-- Responses that Table 16.5 retries. -/
def retryable (resp : BitVec 3) : Bool := resp == respTgtErr || resp == respBayDown || resp == respTimeout

/-- DMA_BEAT_RESPONSE. -/
def dmaBeatResponse (s : State) (c : Nat) : State :=
  match s.takeRsp (dmaMid c) with
  | none => s
  | some (_, none, s) => s
  | some (k, some o, s) =>
    let x := s.dmaCh c
    match x.beats.find? fun b => b.tag == o.tag && b.retryAt.isNone with
    | none => s
    | some b =>
      let resp := if k.resp = respOk ∧ k.poison then respPoison else k.resp
      let rest := x.beats.filter fun y => !(y.tag == o.tag && y.retryAt.isNone)
      if resp = respOk then
        let s := s.modDma c fun x => (({ x with beats := rest } : DmaCh).beatOk b k.data).trim
        if b.rb ∧ x.state = .readback then s.dmaDone c else s.dmaAdvance c
      else if x.state = .stopping then (s.modDma c fun x => { x with beats := rest }).dmaSettle c
      else if retryable resp ∧ b.tries < x.active.retry then
        s.modDma c fun x =>
          { x with
            beats := rest ++ [{ b with tries := b.tries + 1, retryAt := some (s.now + 2 ^ b.tries * psUs) }] }
      else (s.modDma c fun x => { x with beats := rest }).dmaHalt c b resp (retryable resp)

def execDmaBeatResponse (c : Nat) (s : State) : Out := .next (dmaBeatResponse s c)

/-- DMA_RETRY_TIMER: the beat is issued again, a write with the data still held. -/
def dmaRetryTimer (s : State) (c : Nat) (tag : BitVec 10) : State :=
  let x := s.dmaCh c
  match x.beats.find? fun b => b.tag == tag && b.retryAt.any fun t => decide (t ≤ s.now) with
  | none => s
  | some b =>
    if (x.state = .busy ∨ x.state = .readback) ∧ (s.master (dmaMid c)).freeTag.isSome then
      (s.modDma c fun x =>
        { x with retries := satInc x.retries, beats := x.beats.filter fun y => !(y.tag == tag && y.retryAt.isSome) }).sendBeat c b
    else s

def execDmaRetryTimer (c : Nat) (tag : BitVec 10) (s : State) : Out := .next (dmaRetryTimer s c tag)

/-- DMA_TIMED_START: the H-die's time has reached START_AT (16 R427). -/
def execDmaTimedStart (c : Nat) (s : State) : Out :=
  .next (let x := s.dmaCh c
    if x.state = .wait ∧ x.startP ≤ s.ps 8 then s.modDma c fun x => { x with state := .busy } else s)

end Sys2Proof.Machine
end

