-- ==== Sys2Proof/Machine/Dma.lean ====
section
/-! DEFINITION. The registers and commands of the DMA block, and MEM_INIT (16 R417, R418, R425, R426, R435; 14 R391). -/

namespace Sys2Proof.Machine

/-! ### Registers (16 R435) -/

def DmaState.code : DmaState → Nat
  | .idle => 0 | .wait => 1 | .busy => 2 | .readback => 3 | .stopping => 4 | .halted => 5

def DmaCh.status (x : DmaCh) : Nat :=
  x.state.code + atBit x.committed 3 + atBit x.pendingEnable 4 + atBit x.done 5 + atBit x.late 6 + atBit x.shadowErr 7 + atLo x.cause.toNat 8 +
    atBit x.retried 11 + atBit x.side 12 + atBit x.rb 13

def DmaCh.grantBits (x : DmaCh) : Nat := x.midVal.toNat + atLo x.midMask.toNat 12 + atBit x.priv 24 + atBit x.valid 31

/-- A word of a register set (16 Table 16.8). -/
def DmaSet.word (x : DmaSet) (off : Nat) : Nat :=
  let q (v base : Nat) : Nat := half v base off false
  if off < 0x08 then q x.src.toNat 0x00
  else if off < 0x10 then q x.dst.toNat 0x08
  else if off < 0x18 then q x.srcStride.toNat 0x10
  else if off < 0x20 then q x.dstStride.toNat 0x18
  else if off = 0x20 then x.srcLine.toNat
  else if off = 0x24 then x.srcLines.toNat
  else if off = 0x28 then x.dstLine.toNat
  else if off = 0x2C then x.dstLines.toNat
  else if off < 0x38 then q x.pattern.toNat 0x30
  else if off < 0x40 then q x.startAt.toNat 0x38
  else if off = 0x40 then x.cfg.toNat else 0

/-- A word written into a value of up to 64 bits at a base offset. -/
def putHalf (v base off w : Nat) : Nat := if off = base then v / 2 ^ 32 * 2 ^ 32 + w else v % 2 ^ 32 + w * 2 ^ 32

/-- A word written into a register set. -/
def DmaSet.setWord (x : DmaSet) (off w : Nat) : DmaSet :=
  let p48 (v : BitVec 48) (base : Nat) : BitVec 48 := BitVec.ofNat 48 (putHalf v.toNat base off w)
  if off < 0x08 then { x with src := p48 x.src 0x00 }
  else if off < 0x10 then { x with dst := p48 x.dst 0x08 }
  else if off < 0x18 then { x with srcStride := p48 x.srcStride 0x10 }
  else if off < 0x20 then { x with dstStride := p48 x.dstStride 0x18 }
  else if off = 0x20 then { x with srcLine := BitVec.ofNat 24 w }
  else if off = 0x24 then { x with srcLines := BitVec.ofNat 16 w }
  else if off = 0x28 then { x with dstLine := BitVec.ofNat 24 w }
  else if off = 0x2C then { x with dstLines := BitVec.ofNat 16 w }
  else if off < 0x38 then { x with pattern := BitVec.ofNat 64 (putHalf x.pattern.toNat 0x30 off w) }
  else if off < 0x40 then { x with startAt := p48 x.startAt 0x38 }
  else if off = 0x40 then { x with cfg := BitVec.ofNat 9 w } else x

def DmaCh.readWord (x : DmaCh) (off : Nat) : Nat :=
  if off = 0x004 then x.status
  else if off = 0x008 then x.grantBits
  else if off = 0x00C then bnat x.irqDone + atBit x.irqHalt 1
  else if 0x010 ≤ off ∧ off < 0x058 then x.shadow.word (off - 0x010)
  else if 0x060 ≤ off ∧ off < 0x0A8 then x.active.word (off - 0x060)
  else if 0x0B0 ≤ off ∧ off < 0x0B8 then half x.rdBytes.toNat 0x0B0 off false
  else if 0x0B8 ≤ off ∧ off < 0x0C0 then half x.wrBytes.toNat 0x0B8 off false
  else if off = 0x0C0 then x.bufCnt.toNat
  else if off = 0x0C4 then x.mismatch.toNat
  else if 0x0C8 ≤ off ∧ off < 0x0D0 then half x.failAddr.toNat 0x0C8 off false
  else if 0x0D0 ≤ off ∧ off < 0x0D8 then half x.sRd.toNat 0x0D0 off false
  else if 0x0D8 ≤ off ∧ off < 0x0E0 then half x.sWr.toNat 0x0D8 off false
  else if off = 0x0E0 then x.sBuf.toNat
  else if off = 0x0E4 then x.retries.toNat
  else if off = 0x0E8 then x.stamp.toNat
  else if 0x0F0 ≤ off ∧ off < 0x0F8 then half x.haltAddr.toNat 0x0F0 off false
  else 0

/-- DMA_CTRL: STOP, CLEAR, GO in that order, and SNAP; a GO that HALTED refuses makes the write TGTERR with no effect (16 R425). -/
def dmaCtrl (s : State) (c v : Nat) : Option State :=
  let s1 := if bitOf v 1 then s.dmaStop c else s
  let s1 := if bitOf v 2 then s1.dmaClear c else s1
  let s1 := if bitOf v 3 then s1.modDma c DmaCh.snap else s1
  if bitOf v 0 then s1.dmaGo c else some s1

/-- A word written to a channel; none where the answer is TGTERR. -/
def dmaWriteWord (s : State) (c off v : Nat) : Option State :=
  if off = 0x000 then dmaCtrl s c v
  else if off = 0x004 then
    some (s.modDma c fun x => { x with done := x.done && !bitOf v 5, late := x.late && !bitOf v 6, shadowErr := x.shadowErr && !bitOf v 7 })
  else if off = 0x00C then some (s.modDma c fun x => { x with irqDone := bitOf v 0, irqHalt := bitOf v 1 })
  else if 0x010 ≤ off ∧ off < 0x058 then
    if (s.dmaCh c).committed then none else some (s.modDma c fun x => { x with shadow := x.shadow.setWord (off - 0x010) v })
  else some s

/-- A write of 4 or 8 bytes: wholly done or wholly refused. -/
def dmaWrite (s : State) (c off : Nat) (eight : Bool) (v : Nat) : RegRes :=
  match dmaWriteWord s c off (v % 2 ^ 32) with
  | none => regErr s
  | some s1 =>
    if eight then
      match dmaWriteWord s1 c (off + 4) (v / 2 ^ 32) with
      | none => regErr s
      | some s2 => regOk s2 0
    else regOk s1 0

/-- The second check of an access: SRC matches the channel's grant, or is a built-in master (16 R418). -/
def State.dmaGranted (s : State) (c : Nat) (src : BitVec 12) : Bool :=
  let x := s.dmaCh c
  builtIn src || (x.valid && ((src ^^^ x.midVal) &&& x.midMask) == 0)

def State.dmaBusyBits (s : State) : Nat := (List.range 32).foldl (fun a c => a + atBit ((s.dmaCh c).state != .idle) c) 0
def State.dmaHeldBits (s : State) : Nat := (List.range 32).foldl (fun a c => a + atBit ((s.dmaCh c).valid || (s.dmaCh c).held) c) 0

/-- What a built-in master other than the gable controller may write to a channel held for MEM_INIT: SNAP and STOP (14 R391). -/
def heldWriteOk (off : Nat) (eight : Bool) (v : Nat) : Bool := off == 0x000 && !eight && v % 2 ^ 32 / 16 == 0 && !bitOf v 0 && !bitOf v 2

/-- A register access of the DMA block. -/
def dmaReg (w : Who) (s : State) (off : Nat) (write eight : Bool) (v : Nat) : RegRes :=
  if off < 0x2000 then
    let c := off / 0x100
    let o := off % 0x100
    if ¬ s.dmaGranted c w.src then regDenied s
    else if ¬ write then regOk s (words (s.dmaCh c).readWord o eight)
    else if (s.dmaCh c).held ∧ w.src ≠ 0x800 ∧ ¬ heldWriteOk o eight v then regErr s
    else dmaWrite s c o eight v
  else if write then regOk s 0
  else regOk s (words (fun o => if o = 0x2000 then s.dmaBusyBits else if o = 0x2004 then s.dmaHeldBits else 0) off eight)

def dmaDirect (w : Who) (c v : Nat) (s : State) : Out :=
  .next (s.access w (hubBase 4 + c * 0x100) true fun s => dmaReg w s (c * 0x100) true false v)

def execDmaGo (w : Who) (c : Nat) (stop clear : Bool) (s : State) : Out := dmaDirect w c (1 + atBit stop 1 + atBit clear 2) s
def execDmaStop (w : Who) (c : Nat) (s : State) : Out := dmaDirect w c 2 s
def execDmaClear (w : Who) (c : Nat) (s : State) : Out := dmaDirect w c 4 s
def execDmaSnap (w : Who) (c : Nat) (s : State) : Out := dmaDirect w c 8 s

/-! ### Commands (16 R417) -/

/-- A channel that can be granted or taken: not granted, not held, IDLE. -/
def State.dmaFreeCh (s : State) (c : Nat) : Bool :=
  let x := s.dmaCh c
  decide (c < 32) && !x.valid && !x.held && x.state == .idle

def cmdDmaGrant : Command where
  code := 0x0320
  may s m r :=
    s.hasRole m roleT || (BitVec.ofNat 12 (r.num 4 2) == (s.mbx m).opener && r.num 6 2 == 0xFFF && r.num 1 1 == 0)
  argOk _ r :=
    lenIs 8 r && (decide (r.num 0 1 < 32) || r.num 0 1 == 0xFF) && decide (r.num 1 1 ≤ 1) && r.zero 2 2 && decide (r.num 4 2 < 4096) &&
    decide (r.num 6 2 < 4096)
  body s m r :=
    let pick := if r.num 0 1 = 0xFF then (List.range 32).find? fun c => s.dmaFreeCh c else if s.dmaFreeCh (r.num 0 1) then some (r.num 0 1) else none
    match pick with
    | none => (s, bare stRefusedResource)
    | some c =>
      (s.modDma c fun x =>
        { x with valid := true, midVal := BitVec.ofNat 12 (r.num 4 2), midMask := BitVec.ofNat 12 (r.num 6 2), priv := r.num 1 1 == 1,
                 owner := BitVec.ofNat 32 (s.sid m) },
       okReply (leBytes 4 c))

def execDmaGrant (m : Nat) (s : State) : Out := .next (cmdDmaGrant.serve m s)

/-- A grant ends: the channel stops, a HALTED one is cleared, and then everything of it (16 R417). -/
def State.dmaRelease (s : State) (c : Nat) (tok : Option Nat) : State :=
  let s := s.modDma c fun x => { x with releasing := true, relCmd := tok, committed := false, pendingEnable := false }
  let s := s.dmaStop c
  match (s.dmaCh c).state with
  | .idle | .halted => if (s.dmaCh c).releasing then s.dmaFree c else s
  | _ => s

def dmaOwned (s : State) (m c : Nat) : Bool := (s.dmaCh c).valid && (s.dmaCh c).owner.toNat == s.sid m

def cmdDmaRelease : Command where
  code := 0x0321
  async := true
  may s m r := dmaOwned s m (r.num 0 1)
  argOk _ r := lenIs 4 r && decide (r.num 0 1 < 32) && r.zero 1 3
  body s m r :=
    if (s.dmaCh (r.num 0 1)).releasing then (s, bare stState) else (s.dmaRelease (r.num 0 1) (some (s.token m r)), bare stAccepted)

def execDmaRelease (m : Nat) (s : State) : Out := .next (cmdDmaRelease.serve m s)

def cmdDmaQuery : Command where
  code := 0x0322
  argOk _ r := lenIs 4 r && decide (r.num 0 1 < 32) && r.zero 1 3
  body s _ r :=
    let x := s.dmaCh (r.num 0 1)
    (s, okReply (leBytes 4 x.status ++ leBytes 4 x.grantBits ++ leBytes 4 x.owner.toNat))

def execDmaQuery (m : Nat) (s : State) : Out := .next (cmdDmaQuery.serve m s)

/-- The grants of a session that ends. -/
def State.dropGrants (s : State) (sid : Nat) : State :=
  (List.range 32).foldl (fun (s : State) c =>
    let x := s.dmaCh c
    if x.valid ∧ x.owner.toNat = sid ∧ ¬ x.releasing then s.dmaRelease c none else s) s

/-! ### MEM_INIT (14 R391, 01 R538) -/

/-- A master has WR in the table of every access region a range touches. -/
def State.mayWriteAll (s : State) (src : BitVec 12) (lo hi : Nat) : Bool :=
  (s.regionsIn lo hi).all fun r => s.admits r src { rd := false, wr := true, priv := false } (BitVec.ofNat 48 lo)

def cmdMemInit : Command where
  code := 0x0303
  async := true
  may s m r := s.mayWriteAll (s.mbx m).opener (r.num 0 8) (r.num 0 8 + r.num 8 8 - 1)
  argOk _ r :=
    lenIs 24 r && r.num 0 8 % 64 == 0 && r.num 8 8 % 64 == 0 && decide (0 < r.num 8 8) && decide (r.num 0 8 + r.num 8 8 ≤ 2 ^ 42)
  body s m r :=
    match (List.range 32).find? fun c => s.dmaFreeCh c with
    | none => (s, bare stBusy)
    | some c =>
      let lo := r.num 0 8
      let hi := lo + r.num 8 8 - 1
      let s := (s.regionsIn lo hi).foldl (fun (s : State) t =>
        s.setAcls (tmod AclTable.reset s.acls t fun x =>
          { x with temps := x.temps ++ [{ mid := dmaMid c, wr := true }] })) s
      (s.fillStart c { mbx := s.token m r, base := lo, limit := hi, pos := lo, pattern := BitVec.ofNat 64 (r.num 16 8) }, bare stAccepted)

def execMemInit (m : Nat) (s : State) : Out := .next (cmdMemInit.serve m s)

end Sys2Proof.Machine
end

