-- ==== Sys2Proof/Machine/FlashKeys.lean ====
section
/-! DEFINITION. The key commands (15 R395, R398, R404, R406, R407, R410 to R414). -/

namespace Sys2Proof.Machine

/-- Purposes of a key wrap (15 R412). -/
def ivOf (purpose : BitVec 8) : Bytes := List.replicate 7 0xA6 ++ [purpose]
def State.unwrap (s : State) (purpose : BitVec 8) (wrap : Bytes) : Option Bytes := kwUnwrap s.cfg.deviceKey (ivOf purpose) wrap

/-- The units of a channel mask. -/
def maskUnits (mask : Nat) : List Nat := (List.range 8).filter fun n => bitOf mask n

/-- KEY_LOAD (15 R404, R412, R413): AUTH for a wrap that does not open; BAD_ARGUMENT where KEY1 is KEY2. -/
def cmdKeyLoad : Command where
  code := 0x0310
  may := needC
  argOk _ r := lenIs 108 r && decide (r.num 1 1 < 16) && decide (r.num 2 1 ≤ 1) && r.zero 3 1
  body s m r :=
    match s.unwrap 0x01 (bytesAt r.arg 4 104) with
    | none => (s, bare stAuth)
    | some keys =>
      if bytesAt keys 0 32 = bytesAt keys 32 32 then (s, bare stBadArgument)
      else
        let persist := r.num 2 1 == 1
        let slot : KeySlot := { loaded := true, persist := persist, owner := BitVec.ofNat 32 (if persist then 0 else s.sid m), keys := keys }
        ((maskUnits (r.num 0 1)).foldl (fun (s : State) n =>
          s.modFunit n fun u => { u with slots := tput KeySlot.reset u.slots (r.num 1 1) slot }) s, okReply [])

def execKeyLoad (m : Nat) (s : State) : Out := .next (cmdKeyLoad.serve m s)

/-- A Flashing region that meets another (15 R395). -/
def FlashRegion.meets (x : FlashRegion) (lo hi : Nat) : Bool := x.valid && decide (x.base.toNat ≤ hi) && decide (lo ≤ x.limit.toNat)

/-- The definition that KEY_REGION's arguments give; BASE has its bits 47:12 (15 R395, Table 15.4). -/
def Request.fregion (r : Request) : FlashRegion :=
  { valid := bitOf (r.num 3 1) 2, base := BitVec.ofNat 48 (r.num 4 8 / 4096 * 4096), limit := BitVec.ofNat 48 (r.num 12 8),
    lba := BitVec.ofNat 64 (r.num 20 8), slot := BitVec.ofNat 4 (r.num 1 1), sectorLog2 := BitVec.ofNat 4 (r.num 2 1),
    enc := bitOf (r.num 3 1) 0, integ := bitOf (r.num 3 1) 1 }

def State.putRegion (s : State) (n : Nat) (x : FlashRegion) : State := s.setFregions (tput FlashRegion.reset s.fregions n x)

/-- KEY_REGION (15 R395, R398, R404). -/
def cmdKeyRegion : Command where
  code := 0x0311
  may := needC
  argOk s r :=
    let flags := r.num 3 1
    let base := r.num 4 8
    let limit := r.num 12 8
    lenIs 28 r && decide (r.num 0 1 < 64) && decide (r.num 1 1 < 16) && decide (9 ≤ r.num 2 1) && decide (r.num 2 1 ≤ 12) && decide (flags < 8) &&
    (!bitOf flags 2 ||
      (regionSpanOk base limit 4096 && !(s.fregions.any fun e => e.1 != r.num 0 1 && e.2.meets base limit) &&
       (!bitOf flags 1 || (List.range 4).all fun k => ((s.dram.ilv k).channelsIn base limit).all fun n => (s.declOf n).eccB)))
  body s _ r :=
    (s.putRegion (r.num 0 1) r.fregion, okReply [])

def execKeyRegion (m : Nat) (s : State) : Out := .next (cmdKeyRegion.serve m s)

/-- The lane key of KEY_LINK's KIND, DIE and SITE: KIND 0 a guest link site, 1 an Eoset-X port (15 R406). -/
def State.keyedLink (s : State) (kind die id : Nat) : Option Nat :=
  let k := laneKey kind die id
  if kind ≤ 1 ∧ s.hasLaneset kind die id ∧ s.mayEncrypt k then some k else none

/-- KEY_LINK installs a key, holds it while the link is ACTIVE, and brings up a link that waits for one (15 R406, R410, R411). -/
def State.installKey (s : State) (k : Nat) (key : Bytes) (tx rx owner : BitVec 32) : State :=
  let x := s.linkKey k
  let waits := s.awaitsKey k
  if (s.laneset k).state = .active then
    s.modLinkKey k fun x => { x with next := some key, nextTx := tx, nextRx := rx, nextOwner := owner }
  else
    let s := s.modLinkKey k fun x =>
      { x with key := some key, txId := tx, rxId := rx, txCtr := 0, rxCtr := 0, owner := owner, needKey := false, digest := none, fails := [] }
    if waits ∨ x.needKey then
      let s := s.modLaneset k fun x => { x with tamper := false }
      if (s.laneset k).state = .off ∨ (s.laneset k).state = .fault then s.bringUp k else s
    else s

def cmdKeyLink : Command where
  code := 0x0312
  may s m r := needC s m r || (r.num 0 1 == 1 && (s.mbx m).opener == BitVec.ofNat 12 (0x8F0 + r.num 2 1))
  argOk s r :=
    lenIs 52 r && r.zero 3 1 && (s.keyedLink (r.num 0 1) (r.num 1 1) (r.num 2 1)).isSome && r.num 4 4 != r.num 8 4
  body s m r :=
    match s.keyedLink (r.num 0 1) (r.num 1 1) (r.num 2 1), s.unwrap 0x03 (bytesAt r.arg 12 40) with
    | some k, some key =>
      if (s.linkKey k).digest = some (sha384 key) then (s, bare stBadArgument)
      else (s.installKey k key (BitVec.ofNat 32 (r.num 4 4)) (BitVec.ofNat 32 (r.num 8 4)) (BitVec.ofNat 32 (s.sid m)), okReply [])
    | _, _ => (s, bare stAuth)

def execKeyLink (m : Nat) (s : State) : Out := .next (cmdKeyLink.serve m s)

/-- A link key is erased: an encrypted link leaves ACTIVE with it and goes to OFF (15 R411, R413). -/
def State.eraseLinkKey (s : State) (k : Nat) : State :=
  let enc := (s.laneset k).state == .active && (s.link k).encrypted
  let s := if enc then (s.leaveActive k false).laneOff k else s
  s.modLinkKey k fun x => { x with key := none, next := none, txCtr := 0, rxCtr := 0, owner := 0, nextOwner := 0 }

/-- A slot empties. -/
def State.emptySlot (s : State) (n k : Nat) : State := s.modFunit n fun u => { u with slots := tput KeySlot.reset u.slots k KeySlot.reset }

/-- KEY_ERASE (15 R413, R414). -/
def cmdKeyErase : Command where
  code := 0x0313
  may := needC
  argOk s r :=
    lenIs 4 r && r.zero 3 1 &&
    (if r.num 0 1 = 0 then decide (r.num 2 1 < 16)
     else decide (r.num 0 1 ≤ 2) && (s.keyedLink (r.num 0 1 - 1) (r.num 1 1) (r.num 2 1)).isSome)
  body s _ r :=
    if r.num 0 1 = 0 then ((maskUnits (r.num 1 1)).foldl (fun (s : State) n => s.emptySlot n (r.num 2 1)) s, okReply [])
    else
      match s.keyedLink (r.num 0 1 - 1) (r.num 1 1) (r.num 2 1) with
      | some k => (s.eraseLinkKey k, okReply [])
      | none => (s, okReply [])

def execKeyErase (m : Nat) (s : State) : Out := .next (cmdKeyErase.serve m s)

/-- One link's byte of KEY_STATUS. -/
def State.keyByte (s : State) (k : Nat) : BitVec 8 :=
  let x := s.linkKey k
  BitVec.ofNat 8 (atBit x.key.isSome 0 + atBit x.next.isSome 1 + atBit (s.link k).encrypted 2)

/-- The lane key of link l of guest site g. -/
def State.guestLink (s : State) (g l : Nat) : Nat := linkKeyOf (s.siteDie g) l

/-- KEY_STATUS (15 R414): the slots and owners of one unit, and every link. -/
def cmdKeyStatus : Command where
  code := 0x0314
  argOk _ r := lenIs 4 r && chanArg r && r.zero 1 3
  body s _ r :=
    let u := s.funit (r.num 0 1)
    let owners := (List.range 16).flatMap fun k => leBytes 4 (u.slot k).owner.toNat
    let guests := (List.range 8).map fun i => if i / 4 < s.fuses.part.sites then s.keyByte (s.guestLink (i / 4) (i % 4)) else 0
    (s, okReply (leBytes 4 u.slotBits ++ owners ++ [s.keyByte 144, s.keyByte 145] ++ guests ++ [0, 0]))

def execKeyStatus (m : Nat) (s : State) : Out := .next (cmdKeyStatus.serve m s)

/-- A session that ends leaves its memory keys and its link keys erased (15 R413). -/
def State.dropKeys (s : State) (sid : Nat) : State :=
  let s := s.setFlash (tmodAll FlashUnit.reset s.flash (List.range 8) fun _ u =>
    { u with slots := u.slots.filter fun e => !(e.2.owner.toNat == sid && decide (sid ≠ 0)) })
  let s := (s.linkKeys.filter fun e => e.2.nextOwner.toNat == sid && decide (sid ≠ 0)).foldl
    (fun (s : State) e => s.modLinkKey e.1 fun x => { x with next := none, nextOwner := 0 }) s
  ((s.linkKeys.filter fun e => e.2.owner.toNat == sid && decide (sid ≠ 0)).map (·.1)).foldl (fun (s : State) k => s.eraseLinkKey k) s

end Sys2Proof.Machine
end

