-- ==== Sys2Proof/Machine/Sessions.lean ====
section
/-! DEFINITION. The end of a session: what it owns is freed and its mailbox is unbound (17 R445). -/

namespace Sys2Proof.Machine

/-- VALID is cleared in its access table entries (01 R38). -/
def AclTable.dropOwner (t : AclTable) (sid : Nat) : AclTable :=
  { t with entries := tmodAll AclEntry.reset t.entries (t.entries.map (·.1)) fun _ e =>
      if e.owner = some sid then { e with valid := false, owner := none } else e }

def State.dropAcl (s : State) (sid : Nat) : State :=
  s.setAcls (tmodAll AclTable.reset s.acls (s.acls.map (·.1)) fun _ t => t.dropOwner sid)

/-- Its repair sources are cleared (13 R361). -/
def Die.dropSources (x : Die) (sid : Nat) : Die :=
  { x with bays := tmodAll Bay.reset x.bays (x.bays.map (·.1)) fun _ b =>
      { b with source := b.source.filter fun e => e.2.2 != sid } }

def State.dropSources (s : State) (sid : Nat) : State :=
  s.setDies (tmodAll Die.reset s.dies (s.dies.map (·.1)) fun _ x => x.dropSources sid)

/-- Everything the session owns is freed (17 R445 step 3). -/
def State.freeOwned (s : State) (sid : Nat) : State :=
  let s := ((s.flows.filter fun e => e.2.used && e.2.owner == sid).map (·.1)).foldl (fun (s : State) i => s.releaseFlow i) s
  ((((s.dropGrants sid).dropAcl sid).dropKeys sid).dropSources sid)

/-- The mailbox is unbound: completions are discarded, MBX_IRQ_EN is cleared (17 R445 steps 2 and 4). -/
def Mbx.unbound (b : Mbx) : Mbx :=
  { b with bound := false, roles := 0, opener := 0, irqEn := 0, running := [], queue := [], cplValid := false, recorded := [], hbMs := 0,
           hbUsed := 0 }

/-- The outputs of a mailbox are flushed (17 R445 step 4; 19 R491). -/
def Evr.flushMbx (e : Evr) (m : Nat) : Evr :=
  { e with outs := tmodAll EvOut.reset e.outs (e.outs.map (·.1)) fun _ (o : EvOut) =>
      if bitsOf o.cfg.toNat 0 2 = 1 ∧ bitsOf o.cfg.toNat 16 16 = m then { o with fifo := [] } else o }

/-- A mailbox is unbound (17 R445 step 4). -/
def State.unbind (s : State) (m : Nat) : State := (s.modEvr fun e => e.flushMbx m).modMbx m Mbx.unbound

/-- A session ends, but for what an open IMAGE_DATA stream of it does. -/
def State.endSession (s : State) (sid : Nat) : State :=
  if s.sidOpen sid then (s.freeOwned sid).unbind (sidMbx sid) else s

/-- IDs of the open sessions. -/
def State.sessions (s : State) : List Nat := ((List.range 64).map fun m => s.sid m).filter (· ≠ 0)

end Sys2Proof.Machine
end

