-- ==== Sys2Proof/Machine/Board.lean ====
section
/-! DEFINITION. The board descriptor: its entries and records, the checks on them and what each sets (12 R324 to R326; 20 R503), with the
commands ACL_READ and ACL_WRITE, whose argument it shares. -/

namespace Sys2Proof.Machine

/-! ### Access table entries (01 R31, Table 1.8) -/

def AclEntry.bits (e : AclEntry) : Nat :=
  e.midVal.toNat + atLo e.midMask.toNat 12 + atBit e.rd 24 + atBit e.wr 25 + atBit e.priv 26 + atBit e.valid 31

def aclEntryOf (w : Nat) (owner : Option Nat) : AclEntry :=
  { midVal := BitVec.ofNat 12 w, midMask := BitVec.ofNat 12 (w / 2 ^ 12), rd := bitOf w 24, wr := bitOf w 25, priv := bitOf w 26,
    valid := bitOf w 31, owner := owner }

def aclWordOk (w : Nat) : Bool := bitsOf w 27 4 == 0

/-- A target of the part that holds a table (01 Table 1.7). -/
def State.tidOk (s : State) (t : Nat) : Bool :=
  decide (t < 0x40) || (decide (0x1000 ≤ t) && decide (t < 0x1012)) || (decide (0x2000 ≤ t) && decide (t < 0x2000 + s.fdies)) ||
  (decide (0x3000 ≤ t) && decide ((t - 0x3000) / 0x80 < s.fdies) && decide ((t - 0x3000) % 0x80 < 96)) ||
  (decide (0x4000 ≤ t) && decide (t < 0x4000 + s.fuses.part.sites))

/-- TARGET, FIRST, COUNT and the entries, from offset `o`: the bytes they take (17 Table 17.10; 12 Table 12.13). -/
def aclLen (b : Bytes) (o : Nat) : Nat := 4 + 4 * numAt b (o + 3) 1

def State.aclArgOk (s : State) (b : Bytes) (o : Nat) : Bool :=
  let n := numAt b (o + 3) 1
  s.tidOk (numAt b o 2) && decide (1 ≤ n) && decide (numAt b (o + 2) 1 + n ≤ 32) && (List.range n).all fun i => aclWordOk (numAt b (o + 4 + 4 * i) 4)

def State.aclPut (s : State) (b : Bytes) (o : Nat) (owner : Option Nat) : State :=
  let first := numAt b (o + 2) 1
  s.modAcl (numAt b o 2) fun t =>
    { t with entries := (List.range (numAt b (o + 3) 1)).foldl (fun es i =>
        tput AclEntry.reset es (first + i) (aclEntryOf (numAt b (o + 4 + 4 * i) 4) owner)) t.entries }

/-- ACL_READ: the 32 entries of a target; 0x0040 has none (01 R22, R31). -/
def cmdAclRead : Command where
  code := 0x0400
  argOk s r := lenIs 4 r && r.zero 2 2 && (s.tidOk (r.num 0 2) || r.num 0 2 == 0x0040)
  body s _ r :=
    let t := s.acl (r.num 0 2)
    (s, okReply ((List.range 32).flatMap fun i => leBytes 4 (if r.num 0 2 = 0x0040 then 0 else (tget AclEntry.reset t.entries i).bits)))

def execAclRead (m : Nat) (s : State) : Out := .next (cmdAclRead.serve m s)

/-- ACL_WRITE (01 R38, R39). -/
def cmdAclWrite : Command where
  code := 0x0401
  may := needT
  argOk s r := decide (4 ≤ r.len) && r.len == aclLen r.arg 0 && s.aclArgOk r.arg 0
  body s m r := (s.aclPut r.arg 0 (some (s.sid m)), okReply [])

def execAclWrite (m : Nat) (s : State) : Out := .next (cmdAclWrite.serve m s)

/-! ### Entries (12 R324) -/

/-- The entries of a descriptor, by tag and value; none where one is cut short or its padding is not zero. -/
def boardEntries : Nat → Bytes → Option (List (Nat × Bytes))
  | 0, _ => none
  | n + 1, bs =>
    if bs = [] then some []
    else if bs.length < 4 then none
    else
      let l := numAt bs 2 2
      let pad := (4 - l % 4) % 4
      if bs.length < 4 + l + pad ∨ (bytesAt bs (4 + l) pad).any (· != 0) then none
      else (boardEntries n (bs.drop (4 + l + pad))).map fun es => (numAt bs 0 2, (bs.drop 4).take l) :: es

/-- Whole records of `n` bytes. -/
def records (n : Nat) (v : Bytes) : List Bytes := pieces n (v.length / n) v

/-- `f` run over a list, ending at the first refusal. -/
def foldOk {α : Type} (f : State → α → Option State) : State → List α → Option State
  | s, [] => some s
  | s, a :: t => match f s a with
    | some s' => foldOk f s' t
    | none => none

def zeroAt (b : Bytes) (o n : Nat) : Bool := (bytesAt b o n).all (· == 0)

/-- What a check lets through. -/
def State.okIf (s : State) (c : Bool) : Option State := if c then some s else none

def State.modBoard (s : State) (f : Board → Board) : State := s.modCfg fun c => { c with board := f c.board }

/-! ### Records (12 Table 12.13) -/

def putAdmin (s : State) (v : Bytes) : Option State :=
  let w := numAt v 0 8
  if v.length = 8 ∧ bitsOf w 12 4 = 0 ∧ bitsOf w 28 4 = 0 ∧ w / 2 ^ 36 = 0 then
    some (s.modBoard fun b => { b with admins := b.admins ++ [(BitVec.ofNat 12 w, BitVec.ofNat 12 (w / 2 ^ 16), BitVec.ofNat 4 (w / 2 ^ 32))] })
  else none

/-- ACL records end to end. -/
def putAcls : Nat → State → Bytes → Option State
  | 0, _, _ => none
  | n + 1, s, v =>
    if v = [] then some s
    else if v.length < 4 ∨ v.length < aclLen v 0 ∨ ¬ s.aclArgOk v 0 then none
    else putAcls n (s.aclPut v 0 none) (v.drop (aclLen v 0))

/-- One DRAM record: a channel's declaration, at most one per channel. -/
def putDramDecl (s : State) (v : Bytes) : Option State :=
  let n := numAt v 0 1
  if n < 8 ∧ zeroAt v 1 3 ∧ (s.chan n).decl = none ∧ declOk (v.drop 4) then
    some (s.modChan n fun x => { x with decl := some (declOf40 (v.drop 4)) })
  else none

def putRegion (s : State) (v : Bytes) : Option State :=
  if zeroAt v 2 2 ∧ regionArgOk s.dram.regions (numAt v 0 1) (numAt v 1 1) (numAt v 4 8) (numAt v 12 8) then
    some (s.modDram fun d =>
      { d with regions := tput Region.reset d.regions (numAt v 0 1) (regionOf (numAt v 1 1) (numAt v 4 8) (numAt v 12 8)) })
  else none

def portOf (v : Bytes) : PortDecl :=
  { ch := numAt v 0 1, port := numAt v 1 1, rt := numAt v 2 1 == 1, panicTh := BitVec.ofNat 5 (numAt v 3 1),
    midVal := BitVec.ofNat 12 (numAt v 4 2), midMask := BitVec.ofNat 12 (numAt v 6 2) }

/-- One port record (12 R326): the port's RT and threshold, and the SRCs it takes. -/
def putPort (s : State) (v : Bytes) : Option State :=
  let p := portOf v
  if p.ch < 8 ∧ p.port < 16 ∧ numAt v 2 1 < 2 ∧ numAt v 3 1 < 16 ∧ numAt v 4 2 < 4096 ∧ numAt v 6 2 < 4096 then
    some ((s.modBoard fun b => { b with ports := b.ports ++ [p] }).modChan p.ch fun x =>
      { x with ports := tmod DramPort.reset x.ports p.port fun (q : DramPort) => { q with rt := p.rt, panicTh := p.panicTh } })
  else none

/-- DRAM_MAP: the map, the regions, the ports; at most four RT ports of a channel. -/
def putDramMap (s : State) (v : Bytes) : Option State :=
  let nr := numAt v 128 1
  let o := 132 + 20 * nr
  let np := numAt v o 1
  if v.length < 136 ∨ ¬ zeroAt v 129 3 ∨ v.length < o + 4 ∨ ¬ zeroAt v (o + 1) 3 ∨ v.length ≠ o + 4 + 8 * np ∨ ¬ mapOk s (bytesAt v 0 128) then none
  else
    match foldOk putRegion (s.setMap (bytesAt v 0 128)) (records 20 (bytesAt v 132 (20 * nr))) with
    | none => none
    | some s =>
      match foldOk putPort s (records 8 (bytesAt v (o + 4) (8 * np))) with
      | none => none
      | some s => s.okIf ((List.range 8).all fun n => decide (((s.chan n).ports.filter fun e => e.2.rt).length ≤ 4))

/-- One LANESET record: its low-power settings hold at once, bring-up waits for P4 (09 R233, R244, R245). -/
def putLaneset (s : State) (v : Bytes) : Option State :=
  let kind := numAt v 0 1; let die := numAt v 1 1; let i := numAt v 2 1; let fl := numAt v 3 1
  if s.hasLaneset kind die i ∧ fl < 8 ∧ fl / 2 < 3 ∧ numAt v 4 1 < 4 ∧ zeroAt v 5 1 ∧ numAt v 6 2 < 1024 ∧ numAt v 8 2 < 1024 ∧ zeroAt v 10 2 then
    some ((s.modBoard fun b =>
      { b with lanesets := b.lanesets ++ [{ kind := kind, die := die, id := i, flags := BitVec.ofNat 8 fl, cfg := bytesAt v 4 8 }] }).modLaneset
        (laneKey kind die i) fun x =>
          { x with lpSel := BitVec.ofNat 2 (numAt v 4 1), lp1Idle := BitVec.ofNat 10 (numAt v 6 2), lp2Idle := BitVec.ofNat 10 (numAt v 8 2) })
  else none

/-- One GUEST record. -/
def putGuest (s : State) (v : Bytes) : Option State :=
  let g := numAt v 0 1
  if g < s.fuses.part.sites ∧ numAt v 1 1 < 16 then
    some (s.modGuest g fun x => { x with wired := BitVec.ofNat 4 (numAt v 1 1), budgetW := numAt v 2 2 })
  else none

/-- One record of NODES. DESIGN CHOICE: a source or fallback above the limit of 02 R55 makes the record bad, as Balten refuses it (148). -/
def putNode (s : State) (v : Bytes) : Option State :=
  let c := numAt v 0 2; let src := numAt v 2 1; let fb := numAt v 3 1
  if s.hasClock c ∧ (codeType c = 0xD ∨ codeType c = 0xE) ∧ s.sourceFits c src ∧ (fb = 0x3F ∨ s.sourceFits c fb) then
    some (s.modBoard fun b => { b with nodes := (b.nodes.filter fun e => e.1 != c) ++ [(c, BitVec.ofNat 6 src, BitVec.ofNat 6 fb)] })
  else none

/-- The wake alarm as the nearest instant (18 R475; 11 R539); 0 is no alarm. -/
def State.setAlarm (s : State) (v : Nat) : State :=
  s.modClk fun k =>
    { k with alarm := BitVec.ofNat 48 v, alarmP := if v = 0 then none else some (expandShort (v / 2 ^ 40) (v % 2 ^ 40) (s.ps 8)) }

/-- An alarm in the CP_ALARM layout: PSEC below 10^12, no bit above 47. -/
def alarmOk (v : Nat) : Bool := v / 2 ^ 48 == 0 && decide (v % 2 ^ 40 < 1000000000000)

/-- CLOCK: PREF's source and fallback, the wake sources, the alarm, the nodes. -/
def putClock (s : State) (v : Bytes) : Option State :=
  let src := numAt v 0 1; let fb := numAt v 1 1; let n := numAt v 16 1
  if v.length < 20 ∨ v.length ≠ 20 + 4 * n ∨ ¬ zeroAt v 2 2 ∨ ¬ zeroAt v 5 3 ∨ ¬ zeroAt v 17 3 ∨ 64 ≤ numAt v 4 1 ∨ ¬ alarmOk (numAt v 8 8) ∨
     2 < src ∨ (2 < fb ∧ fb ≠ 0x3F) then none
  else
    let s := s.choosePref (BitVec.ofNat 6 src) (BitVec.ofNat 6 fb)
    let s := (s.modClk fun k => { k with wakeEn := BitVec.ofNat 6 (numAt v 4 1) ||| 0x20 }).setAlarm (numAt v 8 8)
    foldOk putNode s (records 4 (bytesAt v 20 (4 * n)))

/-- One TPIN record: it takes effect at P3. -/
def putTpin (s : State) (v : Bytes) : Option State :=
  let d := numAt v 0 1; let n := numAt v 1 1
  if (d < s.fdies ∨ d = 8) ∧ n < 8 ∧ zeroAt v 2 2 ∧ tpCfgOk d (numAt v 4 4) then
    some (s.modBoard fun b => { b with tpins := b.tpins ++ [(d, n, BitVec.ofNat 32 (numAt v 4 4))] })
  else none

/-- TIME: the source and the TIME packet destinations. -/
def putTime (s : State) (v : Bytes) : Option State :=
  let n := numAt v 8 1
  if v.length = 10 + 2 * n ∧ numAt v 0 1 < 3 ∧ numAt v 1 1 < 2 ∧ (numAt v 2 1 = 0 ∨ numAt v 2 1 = 8) ∧ zeroAt v 3 1 ∧ n ≤ 16 ∧ zeroAt v 9 1 then
    some (s.modTb fun b =>
      { b.select (numAt v 0 1) (numAt v 1 1 == 1) (numAt v 2 1 == 8) (numAt v 4 4) s.now with
          notify := (List.range n).map fun i => BitVec.ofNat 16 (numAt v (10 + 2 * i) 2) })
  else none

def putTimeout (s : State) (v : Bytes) : Option State :=
  let mid := numAt v 0 2; let us := numAt v 4 4
  if mid < 4096 ∧ s.isMaster (BitVec.ofNat 12 mid) ∧ zeroAt v 2 2 ∧ 1 ≤ us ∧ us ≤ 1048575 then some (s.setTimeout (BitVec.ofNat 12 mid) us) else none

/-! SPIN (20 R503, Table 20.1, Table 20.2). -/

/-- FUNC and pad options as a pin register gives them: no reserved function, SLEW or bit. -/
def spPinOk (w : Nat) : Bool := spFuncOk (bitsOf w 0 7) && bitsOf w 7 1 == 0 && bitsOf w 12 2 != 3 && w / 2 ^ 14 == 0
def gfcOk (w : Nat) : Bool := decide (w < 2 ^ 13)
def ppsOk (w : Nat) : Bool := decide (1 ≤ bitsOf w 0 10) && decide (bitsOf w 0 10 ≤ 999) && bitsOf w 10 6 == 0 && decide (w < 2 ^ 17)

def spinOk (v : Bytes) : Bool :=
  let funcs := ((List.range 64).map fun n => bitsOf (numAt v (4 * n) 4) 0 7).filter (· ≠ 0x7F)
  v.length == 8784 && (List.range 64).all (fun n => spPinOk (numAt v (4 * n) 4)) && decide funcs.Nodup &&
  (List.range 16).all (fun k => gfcOk (numAt v (0x100 + 4 * k) 4)) && ppsOk (numAt v 0x148 4) && zeroAt v 0x14C 4

def putSpin (s : State) (v : Bytes) : Option State :=
  if spinOk v ∧ s.cfg.board.spin = [] then some (s.modBoard fun b => { b with spin := v }) else none

/-! ### The whole descriptor (12 R324, R326) -/

/-- A value of whole records of `n` bytes, each taken by `f`. -/
def putEach (n : Nat) (f : State → Bytes → Option State) (s : State) (v : Bytes) : Option State :=
  if v.length % n = 0 then foldOk f s (records n v) else none

def putEntry (s : State) (e : Nat × Bytes) : Option State :=
  let v := e.2
  if e.1 = 0x0001 then putAdmin s v
  else if e.1 = 0x0002 then putAcls (v.length + 1) s v
  else if e.1 = 0x0003 then putEach 44 putDramDecl s v
  else if e.1 = 0x0004 then putDramMap s v
  else if e.1 = 0x0005 then putEach 12 putLaneset s v
  else if e.1 = 0x0006 then putEach 4 putGuest s v
  else if e.1 = 0x0007 then putClock s v
  else if e.1 = 0x0008 then putEach 8 putTpin s v
  else if e.1 = 0x0009 then putSpin s v
  else if e.1 = 0x000A then putTime s v
  else if e.1 = 0x000B then putEach 8 putTimeout s v
  else if 0x8000 ≤ e.1 then some s
  else none

/-- Entries that may stand once. -/
def onceTags : List Nat := [0x0004, 0x0007, 0x000A]

/-- The descriptor's effect on a state whose defaults stand, none where it is malformed. The DRAM declarations are taken first, since the map
    is judged against them. -/
def applyBoard (s : State) (b : Bytes) : Option State :=
  match boardEntries (b.length + 1) b with
  | none => none
  | some es =>
    let sites := (es.filter fun e => e.1 == 0x0006).flatMap fun e => (records 4 e.2).map fun r => numAt r 0 1
    if 65536 < b.length ∨ onceTags.any (fun t => decide (1 < (es.filter fun e => e.1 == t).length)) ∨ ¬ sites.Nodup then none
    else foldOk putEntry s ((es.filter fun e => e.1 == 0x0003) ++ es.filter fun e => e.1 != 0x0003)

end Sys2Proof.Machine
end

