-- ==== Sys2Proof/Machine/Guests.lean ====
section
/-! DEFINITION. Packets from a guest or host, and the capability messages of a guest (10 R276 to R283). -/

namespace Sys2Proof.Machine

def execGuestPacketReceive (key : Nat) (hdr : BitVec 512) (data : List (BitVec 8)) (poison : Bool) (s : State) : Out :=
  .next (if (s.laneset key).state = .active then
      guestPacket s key (classOfNum (bitsOf hdr.toNat 28 2)).vc hdr.toNat data poison
    else s)

def execHostRequestReceive (port : Nat) (hdr : BitVec 512) (data : List (BitVec 8)) (poison : Bool) (s : State) : Out :=
  .next (if port < 2 ∧ (s.laneset (144 + port)).state = .active then
      hostPacket s port (classOfNum (bitsOf hdr.toNat 28 2)).vc hdr.toNat data poison
    else s)

/-! ### Capability (10 R278 to R280) -/

/-- The fields of a GCAP (10 Table 10.8). -/
def gcapOf (b : List (BitVec 8)) : Gcap :=
  { vendor := BitVec.ofNat 16 (numAt b 2 2), device := BitVec.ofNat 16 (numAt b 4 2), revision := BitVec.ofNat 8 (numAt b 6 1),
    midBase := BitVec.ofNat 12 (numAt b 8 2), midLog2 := numAt b 10 1, winLog2 := numAt b 11 1, maxOut := numAt b 12 2,
    rxDepth := (List.range 8).map fun v => numAt b (14 + v) 1, powerW := numAt b 22 2 }

/-- STATUS of a GCAP: the first check of Table 10.10 that fails. -/
def State.gcapStatus (s : State) (key g : Nat) (b : List (BitVec 8)) : Nat :=
  let c := gcapOf b
  let d := s.siteDie g
  let others := (List.range 4).any fun l => linkKeyOf d l != key && (s.link (linkKeyOf d l)).guestOk
  if numAt b 1 1 ≠ 1 then 1
  else if ¬ (allZero (bytesAt b 24 48) ∧ numAt b 9 1 < 16) then 2
  else if ¬ (c.midLog2 ≤ 8 ∧ c.midBase.toNat % 2 ^ c.midLog2 = 0 ∧ 0xC00 + 0x100 * g ≤ c.midBase.toNat ∧
      c.midBase.toNat + 2 ^ c.midLog2 ≤ 0xD00 + 0x100 * g) then 3
  else if ¬ (16 ≤ c.winLog2 ∧ c.winLog2 ≤ 40) then 4
  else if ¬ (1 ≤ c.maxOut ∧ c.maxOut ≤ 1024) then 5
  else if ¬ c.rxDepth.all (fun n => decide (8 ≤ n) && decide (n ≤ 64)) then 6
  else if (s.guest g).budgetW < c.powerW then 7
  else if others ∧ c ≠ (s.guest g).cap then 8
  else 0

/-- The GACK that answers (10 Table 10.9). -/
def gackBytes (status g : Nat) (feat : BitVec 2) : List (BitVec 8) :=
  [0x02, BitVec.ofNat 8 status, BitVec.ofNat 8 g, feat.zeroExtend 8] ++ leBytes 6 (0x600000000000 + g * 2 ^ 40) ++
  List.replicate 8 64 ++ List.replicate 54 0

/-- The far end's depth is known: SEND_CRED stays what the guest returned, and more than its depth is a credit protocol error
    (10 R264, R280). -/
def State.adoptDepth (s : State) (key : Nat) (depth : List Nat) : State :=
  let cred (v : Nat) : Nat := 64 - tget 0 (s.link key).spent v
  if (List.range 8).any fun v => depth.getD v 0 < cred v then s.laneFault key 10
  else s.modLink key fun e => { e with spent := (List.range 8).foldl (fun t v => tput 0 t v (depth.getD v 0 - cred v)) e.spent }

/-- A GCAP on a guest link (10 R280). -/
def gcapReceive (s : State) (key : Nat) (b : List (BitVec 8)) : State :=
  match s.guestOf key with
  | none => s
  | some g =>
    if ¬ s.hasKey key ∨ (s.laneset key).state ≠ .active then s
    else
      let st := s.gcapStatus key g b
      let s := s.modLink key fun e => { e with lmsgDue := e.lmsgDue ++ [gackBytes st g (s.laneset key).feat] }
      if st ≠ 0 then s.modLink key fun e => { e with gcapBad := true }
      else
        let c := gcapOf b
        let s := if (s.link key).guestOk then s else s.adoptDepth key c.rxDepth
        if (s.laneset key).state ≠ .active then s
        else (s.modLink key fun e => { e with guestOk := true }).modGuest g fun x => { x with up := true, cap := c }

def execGcapReceive (key : Nat) (body : List (BitVec 8)) (s : State) : Out := .next (gcapReceive s key (bytesAt body 0 72))

def execGcapTimeout (key : Nat) (s : State) : Out :=
  .next (if (s.guestOf key).isSome ∧ s.hasKey key ∧ (s.laneset key).state = .active ∧ ¬ (s.link key).guestOk ∧
      (s.link key).activeAt + psMs ≤ s.now then s.laneFault key 3 else s)

/-- An orphan clears 8 ms after the site's last link left ACTIVE (10 R283). -/
def execOrphanExpire (site : Nat) (s : State) : Out :=
  .next (let g := s.guest site
    if site < s.fuses.part.sites then
      let keep := (g.fromGuest.zip g.fromSrc).filter fun e => !(e.1.orphan && decide (e.1.orphanAt + 8 * psMs ≤ s.now))
      s.modGuest site fun x => { x with fromGuest := keep.map (·.1), fromSrc := keep.map (·.2) }
    else s)

end Sys2Proof.Machine
end

