-- ==== Sys2Proof/Machine/Images.lean ====
section
/-! DEFINITION. Images: headers, segments, records and frames (12 R315 to R329; 13 R346 to R348). -/

namespace Sys2Proof.Machine

/-! ### Causes (12 Table 12.8; 13 Table 13.6) -/
def cNone : Nat := 0
def cNoDevice : Nat := 1
def cFormat : Nat := 2
def cForeign : Nat := 3
def cAuth : Nat := 4
def cTag : Nat := 5
def cEarly : Nat := 6
def cRecord : Nat := 7
def cBoard : Nat := 8
def cVersion : Nat := 9
def cUnreachable : Nat := 10
def cClock : Nat := 11
def cPushTimeout : Nat := 12
def cShell : Nat := 13
def cTarget : Nat := 14
def cNoSource : Nat := 15

/-! ### Header fields (12 Table 12.2) -/
def hdrPart (h : Bytes) : Nat := bitsOf (numAt h 0x008 4) 0 16
def hdrStep (h : Bytes) : Nat := bitsOf (numAt h 0x008 4) 16 8
def hdrGrade (h : Bytes) : Nat := bitsOf (numAt h 0x008 4) 24 2
def hdrSeq (h : Bytes) : Nat := numAt h 0x010 8
def hdrBundle (h : Bytes) : Nat := numAt h 0x018 8
def hdrShell (h : Bytes) : Nat := numAt h 0x020 8
def hdrIfMin (h : Bytes) : Nat := numAt h 0x028 2
def hdrIfMax (h : Bytes) : Nat := numAt h 0x02A 2
def hdrSegs (h : Bytes) : Nat := numAt h 0x02C 4
def hdrLen (h : Bytes) : Nat := numAt h 0x030 8
def hdrIv (h : Bytes) : Bytes := bytesAt h 0x038 8
def hdrWrap (h : Bytes) : Bytes := bytesAt h 0x040 40
def hdrKeyIdx (h : Bytes) : Nat := numAt h 0x068 1
def hdrPub (h : Bytes) : Bytes := bytesAt h 0x070 97
def hdrSig (h : Bytes) : Bytes := bytesAt h 0x100 96

/-- Every reserved byte and bit of a header is 0 (12 R316). -/
def hdrReservedZero (h : Bytes) : Bool :=
  bitsOf (numAt h 0x008 4) 26 6 == 0 && numAt h 0x00C 4 / 2 == 0 && (bytesAt h 0x069 7).all (· == 0) && (bytesAt h 0x0D1 47).all (· == 0) &&
  (bytesAt h 0x160 160).all (· == 0)

/-- Check 1 of R317; `fits` says what the source holds. -/
def hdrFormat (h : Bytes) (bay : Bool) (fits : Nat → Bool) : Bool :=
  h.length == 512 && numAt h 0 4 == 0x4E47464B && numAt h 4 2 == 0x0001 && numAt h 6 2 == 0x0200 && bitOf (numAt h 0x00C 4) 0 == bay &&
  hdrReservedZero h && decide (2 ≤ hdrSegs h) && fits (hdrLen h)

/-- Check 2 of R317. -/
def State.hdrFits (s : State) (h : Bytes) : Bool :=
  hdrPart h == s.fuses.part.code && hdrStep h == 0xB0 && (hdrGrade h == 1 || (hdrGrade h == 2 && s.fuses.grade2))

/-- Check 3 of R317: a programmed, unrevoked key hash that the public key has, and a signature over bytes 0x000 to 0x0FF. -/
def State.keySigns (s : State) (idx : Nat) (pub sig msg : Bytes) : Bool :=
  let k := tget KeyHash.reset s.cfg.keyHash idx
  decide (idx < 4) && k.programmed && !k.revoked && sha384 pub == k.hash && ecdsaVerify pub sig msg

/-- The checks of R317 in order: the cause of the first that fails, 0 where all hold. -/
def State.headerCause (s : State) (h : Bytes) (bay : Bool) (fits : Nat → Bool) : Nat :=
  if hdrFormat h bay fits = false then cFormat
  else if s.hdrFits h = false then cForeign
  else if s.keySigns (hdrKeyIdx h) (hdrPub h) (hdrSig h) (bytesAt h 0 0x100) = false then cAuth
  else cNone

/-- Bytes a flash slot holds: 1 GiB striped over two devices, 512 MiB on one (12 R331). -/
def State.slotBytes (s : State) : Nat := if s.cfg.flash1 then 2 ^ 30 else 2 ^ 29

/-! ### Segments (12 R318, R319) -/

/-- The additional authenticated data of segment i. -/
def segAad (h : Bytes) (i len : Nat) : Bytes := sha384 (bytesAt h 0 0x160) ++ leBytes 4 i ++ leBytes 4 len

def segLenOk (i len : Nat) : Bool := len % 8 == 0 && decide (64 ≤ len) && decide (len ≤ (if i = 0 then 524288 else 4194304))

/-- What a segment gives: its payload and the key of the next, or a cause. -/
inductive SegResult where
  | ok (payload nextKey : Bytes) (last : Bool)
  | bad (cause : Nat)
deriving DecidableEq, Repr

/-- Segment i, whose ciphertext and tag are given, under its key. -/
def openSegment (h key : Bytes) (i : Nat) (ct tag : Bytes) : SegResult :=
  let nonce := hdrIv h ++ leBytes 4 i
  if gcmTag key nonce (segAad h i ct.length) ct ≠ tag then .bad cTag
  else
    let pt := gcmOpen key nonce ct
    let n := pt.length - 48
    let wrap := bytesAt pt n 40
    let isLast := i + 1 == hdrSegs h
    let flags := numAt pt (n + 44) 4
    if numAt pt (n + 40) 4 ≠ i ∨ flags / 2 ≠ 0 ∨ (flags == 1) ≠ isLast ∨ (isLast ∧ wrap.any (· != 0)) then .bad cEarly
    else if isLast then .ok (pt.take n) [] true
    else
      match kwUnwrap key kwDefault wrap with
      | some k => .ok (pt.take n) k false
      | none => .bad cTag

/-! ### Sections (12 R321, R322; 13 R347) -/

/-- A section at the front of a stream: TYPE, its bytes, and the rest; none where the header or length is malformed. -/
def takeSection (bs : Bytes) : Option (Nat × Bytes × Bytes) :=
  let n := numAt bs 4 8
  if bs.length < 16 ∨ numAt bs 12 4 ≠ 0 ∨ bs.length < 16 + n then none
  else some (numAt bs 0 4, (bs.drop 16).take n, bs.drop (16 + n))

/-- The body of LEGGETT or GABLE_FW holds its header and its code (12 R322). -/
def fwOk (b : Bytes) : Bool :=
  decide (32 ≤ b.length) && numAt b 10 2 == 0 && (bytesAt b 20 12).all (· == 0) && decide (numAt b 16 4 ≤ 327680) && b.length == 32 + numAt b 16 4
def leggettOk (b : Bytes) : Bool :=
  decide (16 ≤ b.length) && numAt b 12 4 == 0 && decide (numAt b 8 4 ≤ 65536) && b.length == 16 + numAt b 8 4

/-- The three sections of segment 0 of a full image, none where the layout departs from R321. -/
def fullSections (payload : Bytes) : Option (Bytes × Bytes × Bytes) :=
  match takeSection payload with
  | some (1, board, r1) =>
    match takeSection r1 with
    | some (2, fw, r2) =>
      match takeSection r2 with
      | some (3, lg, []) => if fwOk fw && leggettOk lg then some (board, fw, lg) else none
      | _ => none
    | _ => none
  | _ => none

/-- BAYDESC of a bay image (13 Table 13.3). -/
structure BayDesc where
  fclkEn : Nat
  border : Nat
  targets : List Nat
deriving DecidableEq, Repr

def bayDesc (payload : Bytes) : Option BayDesc :=
  match takeSection payload with
  | some (5, b, []) =>
    let n := numAt b 0 2
    let ts := (List.range n).map fun i => numAt b (0x10 + 2 * i) 2
    if 0x10 ≤ b.length ∧ 1 ≤ n ∧ n ≤ 768 ∧ numAt b 2 2 = 0 ∧ b.length = 0x10 + 2 * n ∧ ts.all (fun t => t / 2 ^ 10 == 0 && decide (t % 128 < 96)) then
      some { fclkEn := numAt b 4 4, border := numAt b 8 8, targets := ts }
    else none
  | _ => none

/-! ### Frames (12 R327, Table 12.4; 13 R348) -/

/-- A frame index of a full image that Table 12.4 gives a frame. -/
def frameIdxOk (i : Nat) : Bool := decide (i < 409600)

/-- The frame that an index of a bay image names (13 Table 13.4). -/
def bayFrame (b i : Nat) : Option Nat :=
  if i < 2304 then some (2304 * b + i)
  else if i < 2720 then some (262144 + 416 * b + (i - 2304))
  else if i < 3488 then some (311296 + 48 * (16 * b + (i - 2720) / 48) + (i - 2720) % 48)
  else none

/-- Container bits above a slice word's width are 0 (12 R327). -/
def frameDataOk (i : Nat) (data : Bytes) : Bool :=
  if i < 311296 then true
  else if (i - 311296) % 48 < 32 then (List.range 128).all fun j => decide (numAt data (4 * j) 4 < 2 ^ 24)
  else (List.range 64).all fun j => decide (numAt data (8 * j) 8 < 2 ^ 40)

/-- A frame written into a die, with fresh check bits (12 R327). -/
def State.writeFrame (s : State) (d i : Nat) (data : Bytes) : State :=
  if i < 262144 then
    let ws : Tab (BitVec 64) := (List.range 64).foldl (fun t j => tput 0 t j (BitVec.ofNat 64 (numAt data (8 * j) 8))) []
    s.modDie d fun x => { x with frames := tput CfgFrame.reset x.frames i { words := ws } }
  else if i < 311296 then
    let m := i - 262144
    s.modBram d (m / 16) fun x =>
      { x with words := (List.range 64).foldl (fun t j =>
          tput markWord t (64 * (m % 16) + j) (goodWord (BitVec.ofNat 64 (numAt data (8 * j) 8)))) x.words }
  else
    let sl := (i - 311296) / 48; let j := (i - 311296) % 48
    let small (blank : MemWord) (t : Tab MemWord) (base : Nat) : Tab MemWord :=
      (List.range 128).foldl (fun t k => tput blank t (128 * base + k) { data := BitVec.ofNat 40 (numAt data (4 * k) 4) }) t
    let blank := s.slBlank d sl
    let ib := s.imBlank d sl
    s.modSlice d sl fun m =>
      if j < 16 then { m with xmem := small blank m.xmem j }
      else if j < 32 then { m with ymem := small blank m.ymem (j - 16) }
      else { m with imem := (List.range 64).foldl (fun t k =>
               tput ib t (64 * (j - 32) + k) { data := BitVec.ofNat 40 (numAt data (8 * k) 8) }) m.imem }

def zeroFrame : Bytes := List.replicate 512 0

/-! ### Records (12 R328, R329) -/

structure RecHdr where
  typ : Nat
  die : Nat
  yealm : Nat
  start : Nat
  count : Nat
  stride : Int
deriving DecidableEq, Repr

def recHdr (bs : Bytes) : RecHdr :=
  { typ := numAt bs 0 1, die := numAt bs 1 1, yealm := numAt bs 2 2, start := numAt bs 4 4, count := numAt bs 8 4,
    stride := (BitVec.ofNat 32 (numAt bs 12 4)).toInt }

/-- Payload bytes of a record type. -/
def recPayload (typ : Nat) : Nat := if typ = 1 ∨ typ = 2 then 512 else 0

/-- The unused fields of a record are 0, its used fields in their ranges (12 Table 12.6). -/
def recFieldsOk (r : RecHdr) : Bool :=
  if r.typ = 1 then decide (r.yealm < 1024) && r.die == 0 && r.start == 0 && r.count == 0 && r.stride == 0
  else if r.typ = 2 then decide (r.start < 2 ^ 19) && r.yealm == 0 && r.count == 0 && r.stride == 0
  else if r.typ = 3 then decide (r.yealm < 1024) && decide (r.start < 2 ^ 19) && decide (1 ≤ r.count) && r.stride != 0
  else if r.typ = 4 then decide (r.start < 2 ^ 19) && decide (1 ≤ r.count) && r.yealm == 0 && r.stride == 0
  else if r.typ = 5 then r.die == 0 && r.yealm == 0 && r.start == 0 && r.stride == 0
  else false

/-- The k-th index of a run, none where it falls below 0. -/
def runIdx (start k : Nat) (stride : Int) : Option Nat :=
  let i : Int := Int.ofNat start + Int.ofNat k * stride
  if 0 ≤ i then some i.toNat else none

/-- The first and last index of a run bound all of it. -/
def runOk (r : RecHdr) (lim : Nat) : Bool :=
  match runIdx r.start (r.count - 1) r.stride with
  | some l => decide (r.start < lim) && decide (l < lim)
  | none => false

end Sys2Proof.Machine
end

