-- ==== Sys2Proof/Machine/Lane.lean ====
section
/-! DEFINITION. The lane PHY: the lane commands, bring-up, ordered sets, lane errors and repair, low power, test logic and the lane
registers. -/

namespace Sys2Proof.Machine

/-! ### Lane errors and repair (09 R232, R243; 10 R265 to R267) -/

/-- The logical lane a physical lane carries, where it carries one. -/
def carries (map : Tab Nat) (n : Nat) : Option Nat :=
  if n < 40 then (if tget 0 map 40 = n + 1 ∨ tget 0 map 41 = n + 1 then none else some n)
  else if tget 0 map n = 0 then none else some (tget 0 map n - 1)

/-- The spare a repair takes: 40 then 41, not lost, not in use, with symbol lock (10 R265). -/
def State.freeSpare (s : State) (k : Nat) : Option Nat :=
  [40, 41].find? fun n => tget 0 (s.link k).rxMap n == 0 && !((s.laneset k).lane n).lost && (s.rxLanes k).contains n

/-- RPR for the first lane of the list goes out on every data lane: the lost lane, the spare, the attempt (10 R266, Table 10.5). -/
def State.sendRpr (s : State) (k attempt : Nat) : State :=
  match (s.link k).repairing, s.freeSpare k with
  | n :: _, some spare =>
    (s.modLink k fun e => { e with rprAt := s.now, rprTry := attempt }).sendSet k setRpr
      [BitVec.ofNat 8 n, BitVec.ofNat 8 spare, BitVec.ofNat 8 attempt] (dataLanes k (s.link k).txMap)
  | _, _ => s.laneFault k 10

/-- The first lane of the list begins its repair, or FAULT LINK without a spare (10 R266). -/
def State.startRepair (s : State) (k : Nat) : State := s.sendRpr k 1

/-- A lane of an Eoset-P link is lost (09 R243, 10 R266): repaired if it carries data, after a repair in progress. -/
def State.laneLost (s : State) (k n : Nat) : State :=
  if ((s.laneset k).lane n).lost then s
  else
    let s := s.modLane k n fun l => { l with lost := true }
    if (carries (s.link k).rxMap n).isNone then s
    else
      let busy := (s.link k).repairing != []
      let s := s.modLink k fun e => { e with repairing := e.repairing ++ [n] }
      if busy then s else s.startRepair k

/-- A mapping with a lost lane's logical lane moved to a spare. -/
def moveLane (map : Tab Nat) (n spare : Nat) : Tab Nat :=
  match carries map n with
  | some l => tput 0 (if 40 ≤ n then tput 0 map n 0 else map) spare (l + 1)
  | none => map

/-- LINK_REPAIRS and the log entry of a completed repair (10 R266; 19 Table 19.3 type 0x0D). -/
def State.countRepair (s : State) (k n spare : Nat) (transmit : Bool) : State :=
  (s.modLink k fun e => { e with repairs := satInc e.repairs }).logNote
    (mkEntry 0x0D 1 noEvid (laneDie k + atLo (laneId k) 4 + atBit transmit 9) (n + atLo spare 8))

/-- RPA goes out on every data lane and on the spare (10 R266, R268). -/
def State.sendRpa (s : State) (k n spare : Nat) : State :=
  let ls := dataLanes k (s.link k).txMap
  s.sendSet k setRpa [BitVec.ofNat 8 n, BitVec.ofNat 8 spare] (if ls.contains spare then ls else ls ++ [spare])

/-- RPR received (10 R266): RPA is sent and the logical lane moves to the spare; a repeated RPR is answered again. The repair of a direction
    whose receiver is no die of the package is counted here. -/
def State.rprReceive (s : State) (k n spare : Nat) : State :=
  let map := (s.link k).txMap
  if n < 42 ∧ (spare = 40 ∨ spare = 41) ∧ (carries map n).isSome ∧ tget 0 map spare = 0 then
    let s := (s.sendRpa k n spare).modLink k fun e => { e with txMap := moveLane e.txMap n spare }
    if (s.partner k).isNone then s.countRepair k n spare true else s
  else if n < 40 ∧ (spare = 40 ∨ spare = 41) ∧ tget 0 map spare = n + 1 then s.sendRpa k n spare
  else s

/-- RPA received (10 R266, R267): the receiver switches, LINK_DELAY is measured again, and the next lost lane follows. -/
def State.rpaReceive (s : State) (k n spare : Nat) : State :=
  if (s.link k).repairing.head? = some n ∧ s.freeSpare k = some spare then
    let s := s.modLink k fun e => { e with rxMap := moveLane e.rxMap n spare, repairing := e.repairing.tail, rprTry := 0 }
    let s := (s.countRepair k n spare false).delayStale k
    if (s.link k).repairing = [] then s else s.startRepair k
  else s

/-! ### Lane commands (09 R253; 17 Table 17.10) -/

/-- The lane set a request names. -/
def Request.laneKey (r : Request) : Nat := Machine.laneKey (r.num 0 1) (r.num 1 1) (r.num 2 1)
def Request.laneOk (r : Request) (s : State) : Bool := s.hasLaneset (r.num 0 1) (r.num 1 1) (r.num 2 1)

/-- LANE_UP (09 R244): bring-up from OFF or FAULT, held behind a shut-down. -/
def cmdLaneUp : Command where
  code := 0x0800
  async := true
  may := needC
  argOk s r := lenIs 4 r && r.zero 3 1 && r.laneOk s
  body s m r :=
    let k := r.laneKey
    let x := s.laneset k
    if x.upCmd.isSome then (s, bare stState)
    else if x.shutting then
      (s.modLaneset k fun x => { x with pendingEnable := true, upCmd := some (s.token m r) }, bare stAccepted)
    else if s.awaitsKey k ∨ (laneKind k = 2 ∧ x.mode = 0) ∨ x.pllWait ∨ ¬ (x.state = .off ∨ x.state = .fault) then (s, bare stState)
    else ((s.bringUp k).modLaneset k fun x => { x with upCmd := some (s.token m r) }, bare stAccepted)

def execLaneUp (m : Nat) (s : State) : Out := .next (cmdLaneUp.serve m s)

/-- LANE_DOWN (09 R244): OFF at once, but for an ACTIVE link, which shuts down first. -/
def cmdLaneDown : Command where
  code := 0x0801
  async := true
  may := needC
  argOk s r := lenIs 4 r && r.zero 3 1 && r.laneOk s
  body s m r :=
    let k := r.laneKey
    let x := s.laneset k
    if x.shutting then
      ((s.dropUp k).modLaneset k fun x => { x with byPartner := false, downCmds := x.downCmds ++ [s.token m r] }, bare stAccepted)
    else if x.state = .active ∧ laneKind k ≠ 2 then
      ((s.shutDown k 0 false).modLaneset k fun x => { x with downCmds := [s.token m r] }, bare stAccepted)
    else
      let s := if x.state = .active then s.leaveActive k false else s
      ((s.dropUp k).laneOff k, okReply [])

def execLaneDown (m : Nat) (s : State) : Out := .next (cmdLaneDown.serve m s)

/-- A checker's counters cleared (09 R248). -/
def Lane.clearPrbs (l : Lane) : Lane := { (l.setFlag fPrbsLock false) with prbsErr := 0, prbsBits := 0, prbsAt := none }

/-- LANE_TEST (09 R248, R250): the TEST sub-state of OFF, on a link only when both its ends are OFF. -/
def cmdLaneTest : Command where
  code := 0x0802
  may := needC
  argOk s r :=
    lenIs 8 r && r.zero 3 1 && r.zero 7 1 && r.laneOk s && decide (r.num 4 1 ≤ 5) && decide (r.num 5 1 ≤ 1) && decide (r.num 6 1 ≤ 3)
  body s _ r :=
    let k := r.laneKey
    let x := s.laneset k
    let away : Bool := match s.partner k with
      | some k2 => (s.laneset k2).state != .off || (s.laneset k2).pllWait
      | none => false
    if x.state ≠ .off ∨ x.pllWait ∨ away then (s, bare stState)
    else
      (s.modLaneset k fun x =>
        { (x.allLanes k Lane.clearPrbs) with
          test := true, pattern := BitVec.ofNat 3 (r.num 4 1), inv := r.num 5 1 == 1, loopSel := BitVec.ofNat 2 (r.num 6 1) },
       okReply [])

def execLaneTest (m : Nat) (s : State) : Out := .next (cmdLaneTest.serve m s)

/-- The rate of a set: N and D code of its kind, a quad's own (09 R231). -/
def LaneSet.rateOf (x : LaneSet) (k : Nat) : Nat × Nat :=
  if laneKind k = 0 then (240, 0) else if laneKind k = 1 then (160, 0) else (x.n.toNat, x.dcode.toNat)

/-- Bits of a line in a span of picoseconds, and the span of a number of bits (09 R231). -/
def LaneSet.bitsIn (x : LaneSet) (k ps : Nat) : Nat := ps * (x.rateOf k).1 / (10000 * 2 ^ (x.rateOf k).2)
def LaneSet.psOfBits (x : LaneSet) (k bits : Nat) : Nat := ceilDiv (bits * 10000 * 2 ^ (x.rateOf k).2) (x.rateOf k).1

/-- Sixteen errors within 1 µs lose a lane: to repair on an Eoset-P link, else with SYMLOSS (09 R243). -/
def State.loseLane (s : State) (k n : Nat) : State :=
  if laneKind k = 0 then s.laneLost k n else (s.modLane k n fun l => { l with lost := true }).laneFault k 8

/-- An invalid code group or disparity error (09 R243): counted, and the frame, or symbol `sym` of the user word, marked bad; sixteen within
    1 µs lose the lane. -/
def symbolError (s : State) (k n sym : Nat) : State :=
  let x := s.laneset k
  if ¬ s.hasKey k ∨ ¬ x.laneActive k n ∨ laneCount k ≤ n ∨ x.lp2 then s
  else
    let recent := ((x.lane n).errAt.filter fun t => s.now < t + psUs) ++ [s.now]
    let s := s.modLane k n fun l =>
      { l with symerr := satInc l.symerr, errAt := recent, badSym := if laneKind k = 2 then l.badSym ++ [sym % 4] else [] }
    let s := if laneKind k = 2 then s else
      s.modLink k fun e => { e with symBad := e.symBad || (dataLanes k e.rxMap).contains n }
    if recent.length < 16 then s else (s.modLane k n fun l => { l with errAt := [] }).loseLane k n

def execLaneSymbolError (key lane sym : Nat) (s : State) : Out := .next (symbolError s key lane sym)

/-- A flip reaches a checker that is locked (09 R248). -/
def State.checkerHit (s : State) (k n : Nat) : State :=
  s.modLane k n fun l => if l.flag fPrbsLock then { l with prbsErr := satInc l.prbsErr } else l

/-- A flipped line bit is seen (09 R249, R250): in ACTIVE by the partner in the package, as a bad code group; in TEST by the lane's own checker
    over the near-end PMA loopback, and by the checker of a partner in the package that listens to its line, which in far-end loopback sends it
    back. The near-end PCS loopback turns back before the line bits. -/
def State.flipSeen (s : State) (k n : Nat) : State :=
  let x := s.laneset k
  let s := if x.test ∧ x.loopSel = 2 then s.checkerHit k n else s
  match s.partner k with
  | none => s
  | some k2 =>
    let y := s.laneset k2
    if x.state = .active then symbolError s k2 n 0
    else if x.test ∧ y.test ∧ (y.loopSel = 0 ∨ y.loopSel = 3) then
      let s := s.checkerHit k2 n
      if y.loopSel = 3 ∧ (x.loopSel = 0 ∨ x.loopSel = 3) then s.checkerHit k n else s
    else s

/-- One transmitted line bit is flipped (09 R249). -/
def State.flipBit (s : State) (k n : Nat) : State := (s.modLane k n fun l => { l with injCnt := satInc l.injCnt }).flipSeen k n

/-- Injection works in TEST and in ACTIVE (09 R249). -/
def LaneSet.mayInject (x : LaneSet) : Bool := x.test || x.state == .active

def cmdLaneInject : Command where
  code := 0x0803
  may := needC
  argOk s r :=
    lenIs 8 r && r.laneOk s && decide (r.num 3 1 < laneCount r.laneKey) && r.zero 5 3 &&
    (r.num 4 1 == 0 || r.num 4 1 == 0xFF || (decide (10 ≤ r.num 4 1) && decide (r.num 4 1 ≤ 31)))
  body s _ r :=
    let k := r.laneKey
    if ¬ (s.laneset k).mayInject then (s, bare stState)
    else if r.num 4 1 = 0xFF then (s.flipBit k (r.num 3 1), okReply [])
    else (s.modLane k (r.num 3 1) fun l => { l with injN := BitVec.ofNat 5 (r.num 4 1), injAt := s.now }, okReply [])

def execLaneInject (m : Nat) (s : State) : Out := .next (cmdLaneInject.serve m s)

/-- A periodic injection flips a bit every 2^n bits (09 R249). -/
def execLanePeriodicFlip (key lane : Nat) (s : State) : Out :=
  .next (let x := s.laneset key
    let l := x.lane lane
    let t := l.injAt + x.psOfBits key (2 ^ l.injN.toNat)
    if s.hasKey key ∧ x.mayInject ∧ l.injN ≠ 0 ∧ t ≤ s.now then
      (s.modLane key lane fun l => { l with injAt := t }).flipBit key lane
    else s)

/-- LP_SEL `sel` is deeper than what an admitted flow that crosses the link counted for it, or the host of this Eoset-X port has a flow
    (08 R222). -/
def State.laneOnFlow (s : State) (k sel : Nat) : Bool :=
  if laneKind k = 0 then s.flowForbids 4 (laneDie k) (laneId k) (if 2 ≤ sel then 2 else sel)
  else laneKind k == 1 && s.flows.any fun e => e.2.live && e.2.mid == hostMid (laneId k)

/-- LANE_LP (09 R245, 08 R222): a deeper state on a link that an admitted flow crosses is answered STATE, and so is any on the port whose
    recovered clock is the package reference (18 R456). The flows of an Eoset-X port are those of its host; a quad's settings have no effect. -/
def cmdLaneLp : Command where
  code := 0x0804
  may := needC
  argOk s r :=
    lenIs 12 r && r.zero 3 1 && r.zero 5 1 && r.zero 10 2 && r.laneOk s && decide (r.num 4 1 ≤ 3) &&
    decide (r.num 6 2 < 1024) && decide (r.num 8 2 < 1024)
  body s _ r :=
    let k := r.laneKey
    let deeper : Bool := (BitVec.ofNat 2 (r.num 4 1) &&& ~~~ (s.laneset k).lpSel) != 0
    let pref : Bool := match (s.node 0x8F00).source.toNat with
      | 1 => k == 144
      | 2 => k == 145
      | _ => false
    if (deeper ∧ s.laneOnFlow k (r.num 4 1)) ∨ (pref ∧ r.num 4 1 ≠ 0) then (s, bare stState)
    else
      (s.modLaneset k fun x =>
        { x with lpSel := BitVec.ofNat 2 (r.num 4 1), lp1Idle := BitVec.ofNat 10 (r.num 6 2), lp2Idle := BitVec.ofNat 10 (r.num 8 2) },
       okReply [])

def execLaneLp (m : Nat) (s : State) : Out := .next (cmdLaneLp.serve m s)

/-- LANE_CLEAR of one lane (09 Table 9.10, Table 9.12). A locked checker counts on from now. -/
def Lane.clearCounts (l : Lane) (now : Nat) : Lane :=
  { ((l.setFlag fTxuflow false).setFlag fRxoflow false) with
    symerr := 0, prbsErr := 0, prbsBits := 0, injCnt := 0, prbsAt := l.prbsAt.map fun _ => now }

def cmdLaneClear : Command where
  code := 0x0805
  may := needC
  argOk s r := lenIs 4 r && r.zero 3 1 && r.laneOk s
  body s _ r :=
    (s.modLaneset r.laneKey fun x => { (x.allLanes r.laneKey fun l => l.clearCounts s.now) with faults := 0 }, okReply [])

def execLaneClear (m : Nat) (s : State) : Out := .next (cmdLaneClear.serve m s)

/-! ### Bring-up rows (09 R236, R237, R241, R242) -/

def execLanePllLock (key : Nat) (s : State) : Out :=
  .next (let x := s.laneset key
    if s.hasKey key ∧ x.pllWait then
      s.modLaneset key fun x =>
        { x with pllWait := false, pllLock := true, state := if laneKind key = 2 then .lock else .detect, since := s.now }
    else if s.hasKey key ∧ x.lp2Exit.isSome then s.modLaneset key fun x => { x with pllLock := true }
    else s)

/-- Enough lanes: all 8 of an Eoset-X port, 40 of 42 on a link (09 R236). -/
def enoughLanes (k n : Nat) : Bool := if laneKind k = 1 then n == 8 else decide (40 ≤ n)

/-- A detect pulse, one every 100 µs (09 R236); the one that finds enough receivers moves the set to TRAIN (Table 9.14). -/
def execLaneDetectPulse (key : Nat) (found : List Nat) (s : State) : Out :=
  .next (let ls := (List.range (laneCount key)).filter found.contains
    let due : Bool := match (s.laneset key).pulseAt with
      | some t => decide (t + 100 * psUs ≤ s.now)
      | none => true
    if s.hasKey key ∧ laneKind key ≠ 2 ∧ (s.laneset key).state = .detect ∧ due then
      s.modLaneset key fun x =>
        if enoughLanes key ls.length then
          { x with
            lanes := tmodAll Lane.reset x.lanes (List.range (laneCount key)) fun n l => { l with detected := ls.contains n, ffe := 2 },
            state := .train, since := s.now, pulseAt := none }
        else { x with pulseAt := some s.now }
    else s)

/-- The fixed length of TRAIN (09 R237). -/
def trainPs (k : Nat) : Nat := if laneKind k = 1 then 500 * psUs else 50 * psUs

def execLaneTrainEnd (key : Nat) (s : State) : Out :=
  .next (let x := s.laneset key
    if s.hasKey key ∧ x.state = .train ∧ x.since + trainPs key ≤ s.now then
      s.modLaneset key fun x => { (x.allLanes key Lane.fresh) with state := .lock, since := s.now, tsbOn := false, reversed := false }
    else s)

/-- The limit a state has outlived and the cause it gives (09 Table 9.6, R247). -/
def State.laneOverdue (s : State) (k : Nat) : Option Nat :=
  let x := s.laneset k
  let past (ps : Nat) : Bool := decide (x.since + ps ≤ s.now)
  if x.pllWait then (if past (20 * psUs) then some 9 else none)
  else match x.state with
    | .detect => if laneKind k = 0 ∧ past psMs then some 1 else none
    | .lock => if laneKind k ≠ 2 ∧ past (2 * psMs) then some 2 else none
    | .caps => if past psMs then some 3 else none
    | .active => match x.lp2Exit with
      | some t => if t + 2 * psMs ≤ s.now then some 2 else none
      | none => none
    | _ => none

def execLaneStateTimeout (key : Nat) (s : State) : Out :=
  .next (match s.laneOverdue key with
    | some c => if s.hasKey key then s.laneFault key c else s
    | none => s)

/-- Causes after which a lane set restarts by itself (09 Table 9.7), while the package reference runs; REFLOSS waits 1 ms from there on. -/
def State.mayRestart (s : State) (x : LaneSet) : Bool :=
  let c := x.cause.toNat
  if c = 4 ∨ c = 5 ∨ c = 11 ∨ ¬ s.nodeGood 0x8F00 then false
  else if c = 9 then decide (max x.since (x.recovAt.getD 0) + psMs ≤ s.now)
  else decide (x.since + psMs ≤ s.now)

def execLaneFaultRestart (key : Nat) (s : State) : Out :=
  .next (let x := s.laneset key
    if s.hasKey key ∧ x.state = .fault ∧ s.mayRestart x then
      s.modLaneset key fun x =>
        { (x.allLanes key Lane.fresh) with
          state := if laneKind key = 2 then .lock else .detect, since := s.now, pllLock := true, tsbOn := false, capOk := false,
          cakSent := 0, cakGot := 0, reversed := false, pulseAt := none, setQ := [] }
    else s)

/-! ### Repair and drift (09 R232; 10 R266) -/

def execRprRetryTimeout (key : Nat) (s : State) : Out :=
  .next (let e := s.link key
    if s.hasKey key ∧ (s.laneset key).state = .active ∧ e.repairing ≠ [] ∧ e.rprAt + 600000 ≤ s.now then
      (if e.rprTry < 3 then s.sendRpr key (e.rprTry + 1) else s.laneFault key 10)
    else s)

/-- Elastic-buffer drift (09 R232), also in far-end loopback (R250). -/
def laneDrift (s : State) (k n drift : Nat) : State :=
  let x := s.laneset k
  let runs : Bool := (x.lane n).flag fAligned && (x.state == .lock || x.state == .caps || x.state == .active)
  if ¬ s.hasKey k ∨ laneCount k ≤ n ∨ ¬ (runs || (x.test && x.loopSel == 3)) then s
  else if drift ≤ 3 then s.modLane k n fun l => { l with fill := 4 + drift }
  else s.laneFaultOf k 7 [n]

def execLaneDrift (key lane drift : Nat) (s : State) : Out := .next (laneDrift s key lane drift)

/-! ### Low power (09 R245 to R247; 10 R271) -/

/-- What a link end itself holds to send or to have acknowledged (10 R271). -/
def LinkEnd.quiet (e : LinkEnd) : Bool :=
  e.outq == [] && e.pendRet.all (fun q => q.2 == 0) && e.held == [] && e.replayQ == [] && !e.ackDue && !e.nakDue && e.lmsgDue == [] &&
  e.answers == [] && e.repairing == [] && e.tagGroupTx == []

/-- A TOS is due on a link (10 R269): its die's time has passed into another microsecond, backwards too, since the last one. -/
def State.tosDue (s : State) (k : Nat) : Bool :=
  laneKind k == 0 && ((s.guestOf k).isNone || (s.laneset k).feat.getLsbD 0) &&
  (s.link k).tosSentUs != psOfCtr (s.time (laneDie k)).ctr / psUs

/-- A packet of the router at a link site is routed to the link (10 R271). -/
def State.bound (s : State) (k : Nat) : Bool := match siteOfKey k with
  | some (node, l) =>
    (s.router node (routerOfSite node l)).inq.any fun q => match q.2 with
      | p :: _ => p.route == some (routerOfSite node l) && p.exit == some (BitVec.ofNat 4 l)
      | [] => false
  | none => false

/-- A link direction with nothing to send: no flit, credit or frame, no ordered set or link message due (10 R271). -/
def State.quietLink (s : State) (k : Nat) : Bool :=
  (s.link k).quiet && (s.laneset k).setQ == [] && !s.tosDue k && !s.bound k

/-- Neither end repairs a lane, and no flow holds the link awake (10 R271, 08 R222). -/
def State.lpFree (s : State) (k : Nat) : Bool :=
  (s.link k).repairing == [] && (match s.partner k with | some k2 => (s.link k2).repairing == [] | none => true) &&
  !(if laneKind k = 0 then s.flowHolds 4 (laneDie k) (laneId k)
    else s.flows.any fun e => e.2.live && e.2.keep && e.2.mid == hostMid (laneId k))

/-- A direction idle for a span. -/
def State.idleFor (s : State) (k ps : Nat) : Bool := s.quietLink k && decide ((s.link k).idleTx + ps ≤ s.now)

/-- LP1 of a transmitter (09 R246): after LP1_IDLE it sends 4 EIA sets and holds electrical idle. -/
def execLaneLp1Entry (key : Nat) (s : State) : Out :=
  .next (let x := s.laneset key
    if s.hasKey key ∧ laneKind key ≠ 2 ∧ x.state = .active ∧ ¬ x.shutting ∧ x.lpRes.getLsbD 0 ∧ x.lp1Idle ≠ 0 ∧ ¬ x.txLp1 ∧ ¬ x.lp2 ∧
        ¬ x.lqrSent ∧ s.idleFor key (x.lp1Idle.toNat * 10000) ∧ s.lpFree key then
      (s.sendFour key setEia).modLaneset key fun x => { x with txLp1 := true }
    else s)

/-- The wake pattern of an LP1 exit (09 R246): the transmitter resumes; the receiver delivers again, but for the lanes whose K28.5 misses the
    kept boundary, which are lost. -/
def lp1Exit (s : State) (k : Nat) (missed : List Nat) : State :=
  let x := s.laneset k
  if ¬ s.hasKey k ∨ x.state ≠ .active then s
  else
    let at1 : Option Nat := if x.txLp1 then s.partner k else if x.rxLp1 ∧ (s.partner k).isNone then some k else none
    let s := s.wakeTx k
    match at1 with
    | none => s
    | some k2 =>
      let s := s.modLaneset k2 fun x => { x with rxLp1 := false }
      ((List.range (laneCount k2)).filter missed.contains).foldl (fun (s : State) n =>
        if (s.laneset k2).state = .active then s.loseLane k2 n else s) s

def execLaneLp1Exit (key : Nat) (missed : List Nat) (s : State) : Out := .next (lp1Exit s key missed)

/-- The initiator of LP2 (09 R247). -/
def State.lp2Initiator (s : State) (k : Nat) : Bool :=
  match s.partner k with
  | some k2 => laneDie k == 8 || (laneDie k2 != 8 && decide (laneDie k < laneDie k2))
  | none => true

/-- Both directions of a link are idle for a span. -/
def State.bothIdle (s : State) (k ps : Nat) : Bool :=
  s.idleFor k ps && (match s.partner k with
    | some k2 => s.idleFor k2 ps
    | none => (s.link k).rxPart.all (fun q => q.2.isNone) && decide ((s.link k).rxAt + ps ≤ s.now))

/-- The initiator of LP2 wakes its transmitter if it is in LP1, and with it the partner's receiver, and sends 4 LQR sets (09 R247). -/
def execLaneLp2Request (key : Nat) (s : State) : Out :=
  .next (let x := s.laneset key
    if s.hasKey key ∧ laneKind key ≠ 2 ∧ x.state = .active ∧ ¬ x.shutting ∧ x.lpRes.getLsbD 1 ∧ x.lp2Idle ≠ 0 ∧ ¬ x.lp2 ∧ ¬ x.lqrSent ∧
        s.lp2Initiator key ∧ s.bothIdle key (x.lp2Idle.toNat * psUs) ∧ s.lpFree key then
      let s := if x.txLp1 then match s.partner key with
          | some k2 => s.modLaneset k2 fun y => { y with rxLp1 := false }
          | none => s
        else s
      ((s.wakeTx key).sendFour key setLqr).modLaneset key fun x => { x with lqrSent := true }
    else s)

/-- A wake request that an LP2 entry held starts the exit once both ends are down (09 R247). -/
def State.heldWake (s : State) (k : Nat) : State :=
  let x := s.laneset k
  let entering : Bool := match s.partner k with
    | some k2 => (s.laneset k2).lqrSent
    | none => false
  if x.wakeHeld ∧ x.lp2 ∧ x.lp2Exit = none ∧ ¬ entering then s.beginLp2Exit k else s

/-- Both directions of this end are down (09 R247); the recovered clock stops (R252). A wake request held meanwhile starts the exit. -/
def State.enterLp2 (s : State) (k : Nat) : State :=
  let s := (s.modLaneset k fun x => { x with lp2 := true, lqrSent := false, txLp1 := false, rxLp1 := false, pllLock := false }).laneClockStops k
  let s := s.heldWake k
  match s.partner k with
  | some k2 => s.heldWake k2
  | none => s

/-- A wake request: an exit from LP2, or, while the entry is in progress, one held until it is complete (09 R247). -/
def execLaneLp2Exit (key : Nat) (s : State) : Out :=
  .next (let x := s.laneset key
    if s.hasKey key ∧ x.state = .active ∧ (x.lqrSent ∨ x.lp2) ∧ x.lp2Exit = none then
      (s.modLaneset key fun x => { x with wakeHeld := true }).heldWake key
    else s)

/-! ### Ordered sets (09 R235 to R240; 10 R268) -/

/-- A good set (09 R235, Table 9.3; 10 Table 10.5): the check holds, TYPE is not reserved, every reserved symbol is 0. -/
def setGood (y : List (BitVec 8)) : Bool :=
  let sym (i : Nat) : Nat := (y.getD i 0).toNat
  let zero (a n : Nat) : Bool := (bytesAt y a n).all (· == 0)
  let t := sym 1
  y.length == 16 && sym 0 == 0xBC && crc8 (bytesAt y 1 14) == y.getD 15 0 && zero 12 3 &&
  (if t = setTsa ∨ t = setTsb then decide (sym 4 ≤ 7) && zero 5 7
   else if t = setCap ∨ t = setCak then zero 11 1 && decide (sym 9 ≤ 3) && decide (sym 10 ≤ 3)
   else if t = setEia ∨ t = setLqr ∨ t = setLqa ∨ t = setLqn then zero 4 8
   else if t = setTos then true
   else if t = setRpr then zero 7 5
   else if t = setRpa then zero 6 6
   else false)

/-- The 16 octets of received symbols: the first K28.5, the rest data; none otherwise (09 Table 9.3). -/
def setOfSyms (l : List (Option (BitVec 9))) : Option (List (BitVec 8)) := match l with
  | some y :: t =>
    let bs := t.filterMap symByte
    if y = symK285 ∧ t.length = 15 ∧ bs.length = 15 then some (0xBC :: bs) else none
  | _ => none

/-- ROLE of this side, and the one its partner must have (09 Table 9.4, Table 9.5). -/
def ownRole (k : Nat) : Nat := if laneDie k = 8 then 1 else 0
def State.roleAt (s : State) (k : Nat) : Nat :=
  if laneKind k = 1 then 3
  else match s.facing k with
    | .key k2 => if laneDie k2 = 8 then 1 else 0
    | .guestSite _ => 2
    | _ => 0

/-- LANES, SPARES and RATE of a kind (09 Table 9.5). -/
def ownForm (k : Nat) : List Nat := if laneKind k = 1 then [8, 0, 160] else [40, 2, 240]

/-- The payload of CAP, or of CAK with the resolved LP and FEAT (09 Table 9.5, R240). -/
def State.capPayload (s : State) (k : Nat) (resolved : Bool) : List (BitVec 8) :=
  let x := s.laneset k
  ([1, ownRole k] ++ ownForm k ++ (if resolved then [x.lpRes.toNat, x.feat.toNat] else [x.lpSel.toNat, 3]) ++ [0]).map (BitVec.ofNat 8)

/-- TYPE and payload of the set that a lane sends without a break (09 Table 9.2, R237 to R240, R247): TSA with the preset its receiver asks for,
    TSB, CAP at least once and then CAK, TSB of an LP2 exit. -/
def State.streamSet (s : State) (k n : Nat) : Option (Nat × List (BitVec 8)) :=
  let x := s.laneset k
  let ffe : List (BitVec 8) := (Config.ffeReq k n s.now).zeroExtend 8 :: List.replicate 7 0
  match x.state with
  | .train => some (setTsa, ffe)
  | .lock => if laneKind k = 2 then none else some (if x.tsbOn then setTsb else setTsa, ffe)
  | .caps => if x.capOk ∧ (x.lane n).capSent then some (setCak, s.capPayload k true) else some (setCap, s.capPayload k false)
  | .active => if x.lp2Exit.isSome then some (setTsb, ffe) else none
  | _ => none

/-- The lowest lane in use: CAK sets are counted there (09 R240). -/
def State.firstLane (s : State) (k n : Nat) : Bool := (s.rxLanes k).head? == some n

/-- A set of the stream has left on a lane: SEQ, the CAP and CAK counts. -/
def State.streamSent (s : State) (k n typ : Nat) : State :=
  let first := s.firstLane k n
  let s := s.modLane k n fun l => { l with txSeq := l.txSeq + 1, capSent := l.capSent || typ == setCap }
  if typ = setCak ∧ first then s.modLaneset k fun x => { x with cakSent := min 8 (x.cakSent + 1) } else s

/-- The next set that end `k` sends on lane n to a partner in the package: one sent between frames, else the one of its stream. -/
def State.takeSet (s : State) (k n : Nat) : Option (State × List (BitVec 8)) :=
  let x := s.laneset k
  match x.setQ.find? fun q => q.lanes.contains n with
  | some q =>
    let i := x.setQ.findIdx fun q => q.lanes.contains n
    let s1 := s.modLaneset k fun x =>
      { x with setQ := (x.setQ.modify i fun q => { q with lanes := q.lanes.filter (· != n) }).filter fun q => q.lanes != [] }
    some (s1.modLane k n fun l => { l with txSeq := l.txSeq + 1 }, setSyms q.typ.toNat n (x.lane n).txSeq q.payload)
  | none =>
    match s.streamSet k n with
    | some (t, p) => some (s.streamSent k n t, setSyms t n (x.lane n).txSeq p)
    | none => none

/-- A set of its stream that this end sends to a partner outside the package while it receives one. -/
def State.streamOut (s : State) (k n : Nat) : State :=
  match s.partner k, s.streamSet k n with
  | none, some (t, p) =>
    let l := (s.laneset k).lane n
    let r := encodeSyms l.txRd (setCodes (setSyms t n l.txSeq p))
    (s.modLane k n fun l => { l with txRd := r.2, txOut := r.1 }).streamSent k n t
  | _, _ => s

/-- Code groups received on a lane: decoded with its polarity and running disparity; in ACTIVE every invalid one is an error (09 R230, R243). -/
def State.rxSyms (s : State) (k n : Nat) (gs : List (BitVec 10)) : State × List (Option (BitVec 9)) :=
  let l := (s.laneset k).lane n
  let g := if l.flag fPolinv then gs.map fun g => ~~~ g else gs
  let rd := if (s.partner k).isNone ∧ l.flag fAligned then l.rxRd else (g.head?.map commaRd).getD l.rxRd
  let r := decodeSyms rd g
  let s := s.modLane k n fun l => { l with rxRd := r.2 }
  ((r.1.zipIdx.filter fun e => e.1.isNone).foldl (fun (s : State) e => symbolError s k n e.2) s, r.1)

/-- In bring-up a receiver takes either polarity: the one under which the set is good (09 R237). -/
def polarity (gs : List (BitVec 10)) (now : Bool) : Bool :=
  let good (inv : Bool) : Bool :=
    let g := if inv then gs.map fun g => ~~~ g else gs
    match setOfSyms (decodeSyms ((g.head?.map commaRd).getD false) g).1 with
    | some y => setGood y
    | none => false
  if good false then false else if good true then true else now

/-- The set a lane receives: as its partner in the package sends it, or out of code groups; none where nothing is sent. -/
def State.receivedSet (s : State) (k n : Nat) (groups : Option (List (BitVec 10))) : Option (State × Option (List (BitVec 8))) :=
  match groups, s.partner k with
  | none, some k2 => (s.takeSet k2 n).map fun r => (r.1, some r.2)
  | none, none => none
  | some gs, p =>
    let s := match p with
      | some k2 => match s.takeSet k2 n with
        | some r => r.1
        | none => s
      | none => s
    let x := s.laneset k
    let s := if x.state = .train ∨ x.state = .lock then
        s.modLane k n fun l => l.setFlag fPolinv (polarity gs (l.flag fPolinv)) else s
    let r := s.rxSyms k n gs
    some (r.1, setOfSyms r.2)

/-- TSB of an end in the package that it sent before it went on, still on their way to its partner (09 R239, R247): what each lane there lacks
    of eight. -/
def State.tsbOnWay (s : State) (k : Nat) : State := match s.partner k with
  | none => s
  | some k2 =>
    (List.range 8).foldl (fun (s : State) i =>
      let ls := (s.rxLanes k2).filter fun n => decide (((s.laneset k2).lane n).runTsb + i < 8)
      if ls = [] then s else s.sendSet k setTsb [] ls) s

/-- One set on a lane in LOCK: the run at one boundary, symbol lock after eight, which fixes the depth of both buffers and the CDR phase, and the
    run of TSB (09 R232, R239). -/
def Lane.lockStep (l : Lane) (boundary tsb : Bool) (skew : Nat) (phase : BitVec 6) : Lane :=
  let run := if boundary then l.runSets + 1 else 1
  let aligned := l.flag fAligned || decide (8 ≤ run)
  { (l.setFlag fAligned aligned) with
    runSets := min 8 run, fill := if aligned ∧ ¬ l.flag fAligned then 4 else l.fill,
    skew := if aligned ∧ ¬ l.flag fAligned then skew else l.skew, phase := if aligned ∧ ¬ l.flag fAligned then phase else l.phase,
    runTsb := if tsb then (if boundary then min 8 (l.runTsb + 1) else 1) else 0 }

/-- Whether a lane's LANE field fits the wiring (09 R239): its own number, or on an Eoset-X port the exact reverse on every lane. -/
def State.laneOrderOk (s : State) (k n lane : Nat) : Bool :=
  let x := s.laneset k
  let others := (List.range (laneCount k)).any fun i => i != n && (x.lane i).flag fAligned
  if laneKind k = 1 then (lane == n || lane == 7 - n) && (!others || x.reversed == (lane == 7 - n))
  else lane == n

/-- A set received in LOCK (09 R239). -/
def State.setInLock (s : State) (k n : Nat) (y : List (BitVec 8)) (boundary : Bool) (skew : Nat) : State :=
  let tsb := (y.getD 1 0).toNat == setTsb
  let before := ((s.laneset k).lane n).flag fAligned
  let s1 := (s.modLane k n fun l => l.lockStep boundary tsb skew (BitVec.ofNat 6 s.freeVal.toNat)).drew 1
  let now := ((s1.laneset k).lane n).flag fAligned
  let lane := (y.getD 2 0).toNat
  if now ∧ 4 < skew then s1.laneFaultOf k 6 [n]
  else if now ∧ ¬ before ∧ ¬ s.laneOrderOk k n lane then s1.laneFaultOf k 5 [n]
  else
    let s1 := if now ∧ ¬ before ∧ laneKind k = 1 then s1.modLaneset k fun x => { x with reversed := lane == 7 - n } else s1
    let x := s1.laneset k
    let need := s1.rxLanes k
    if need.all fun i => (x.lane i).flag fAligned then
      if need.all fun i => decide (8 ≤ (x.lane i).runTsb) then
        (s1.modLaneset k fun x =>
          { x with state := .caps, since := s.now, tsbOn := true, capOk := false, cakSent := 0, cakGot := 0 }).tsbOnWay k
      else s1.modLaneset k fun x => { x with tsbOn := true }
    else s1

/-- ACTIVE follows 8 CAK sent and 8 matching ones received (09 R240). -/
def State.capsDone (s : State) (k : Nat) : State :=
  let x := s.laneset k
  if x.state = .caps ∧ x.cakSent = 8 ∧ x.cakGot = 8 then s.enterActive k else s

/-- A CAP or CAK in CAPS (09 R240). -/
def State.setInCaps (s : State) (k n : Nat) (y : List (BitVec 8)) : State :=
  let x := s.laneset k
  let sym (i : Nat) : Nat := (y.getD i 0).toNat
  if sym 1 = setCap then
    if [sym 6, sym 7, sym 8] ≠ ownForm k ∨ sym 5 ≠ s.roleAt k then s.laneFault k 4
    else
      s.modLaneset k fun x =>
        { x with capOk := true, lpRes := BitVec.ofNat 2 (sym 9) &&& x.lpSel, feat := BitVec.ofNat 2 (sym 10) }
  else if sym 1 = setCak ∧ x.capOk then
    if sym 9 ≠ x.lpRes.toNat ∨ sym 10 ≠ x.feat.toNat then s.laneFault k 4
    else if s.firstLane k n then s.modLaneset k fun x => { x with cakGot := min 8 (x.cakGot + 1) }
    else s
  else s

/-- TSB in an LP2 exit (09 R247): the partner's TSB starts the exit, eight of them on every lane end it. The phase is another one, and
    its measurement stale. -/
def State.tsbInLp2 (s : State) (k n : Nat) (boundary : Bool) : State :=
  let s := if (s.laneset k).lp2Exit = none then s.beginLp2Exit k else s
  let s := s.modLane k n fun l => { l with runTsb := if boundary then min 8 (l.runTsb + 1) else 1 }
  let x := s.laneset k
  if (s.rxLanes k).all fun i => decide (8 ≤ (x.lane i).runTsb) then
    let s := (s.rxLanes k).foldl (fun (s : State) i => (s.modLane k i fun l => { l with phase := BitVec.ofNat 6 s.freeVal.toNat }).drew 1) s
    ((((s.modLaneset k fun x => { x with lp2 := false, lp2Exit := none, pllLock := true }).modLink k fun e =>
      { e with idleTx := s.now }).delayStale k).laneWake k).tsbOnWay k
  else s

/-- LQR (09 R247): a side with nothing to send answers 4 LQA and powers down, one with something to send 4 LQN. The four sets of one LQR have
    one answer. -/
def State.lqrReceive (s : State) (k : Nat) : State :=
  let x := s.laneset k
  let answered : Bool := match x.lqAnsAt with
    | some t => decide (s.now < t + 100000)
    | none => false
  if answered then s
  else if s.quietLink k ∧ ¬ x.shutting ∧ x.lpRes.getLsbD 1 ∧ s.lpFree k then ((s.wakeTx k).sendFour k setLqa).enterLp2 k
  else ((s.wakeTx k).sendFour k setLqn).modLaneset k fun x => { x with lqAnsAt := some s.now }

/-- A link-layer set that counts (10 R266 to R269), from a spare or, in band, taken at the lane of data lane 0. -/
def State.linkSet (s : State) (k n typ : Nat) (p : List (BitVec 8)) : State :=
  if typ = setTos then s.tosReceive k n (BitVec.ofNat 16 (numAt p 0 2)) (numAt p 2 6)
  else if typ = setRpr then s.rprReceive k (numAt p 0 1) (numAt p 1 1)
  else s.rpaReceive k (numAt p 0 1) (numAt p 1 1)

/-- One copy of an in-band set joins the first set like it that its lane has not delivered yet, else it begins one. -/
def addVote (vs : List SetVote) (typ : BitVec 8) (p : List (BitVec 8)) (n : Nat) : List SetVote × Nat :=
  match vs.findIdx? fun v => v.typ == typ && v.payload == p && !v.lanes.contains n with
  | some i => (vs.modify i fun v => { v with lanes := v.lanes ++ [n] }, i)
  | none => (vs ++ [{ typ := typ, payload := p, lanes := [n] }], vs.length)

/-- A link-layer set on a lane (10 R268): on a free spare it acts alone; in band when 32 data lanes have delivered it alike. -/
def State.linkSetOn (s : State) (k n : Nat) (typ : Nat) (p : List (BitVec 8)) : State :=
  if ¬ (dataLanes k (s.link k).rxMap).contains n then s.linkSet k n typ p
  else
    let (vs, i) := addVote (s.link k).votes (BitVec.ofNat 8 typ) p n
    let v := vs.getD i SetVote.reset
    if 32 ≤ v.lanes.length ∧ ¬ v.acted then
      (s.modLink k fun e => { e with votes := { v with acted := true } :: vs.drop (i + 1) }).linkSet k (physOf (s.link k).rxMap 0) typ p
    else s.modLink k fun e => { e with votes := vs }

/-- A set received in ACTIVE (09 R246, R247; 10 R266 to R269). -/
def State.setInActive (s : State) (k n : Nat) (y : List (BitVec 8)) (boundary : Bool) : State :=
  let x := s.laneset k
  let t := (y.getD 1 0).toNat
  if x.lp2 then (if t = setTsb then s.tsbInLp2 k n boundary else s)
  else if t = setEia then (s.modLaneset k fun x => { x with rxLp1 := true }).laneClockStops k
  else if t = setLqr then s.lqrReceive k
  else if t = setLqa then (if x.lqrSent then s.enterLp2 k else s)
  else if t = setLqn then s.modLaneset k fun x => { x with lqrSent := false, wakeHeld := false }
  else if laneKind k = 0 ∧ (t = setTos ∨ t = setRpr ∨ t = setRpa) then s.linkSetOn k n t (bytesAt y 4 8)
  else s

/-- What a set received does, by the state of its lane set (09 R235 to R240, R246, R247). A bad one is ignored, and breaks the run of good ones
    in LOCK. -/
def State.setActs (s : State) (k n : Nat) (y : List (BitVec 8)) (boundary : Bool) (skew : Nat) : State :=
  let x := s.laneset k
  let train := (y.getD 1 0).toNat == setTsa || (y.getD 1 0).toNat == setTsb
  if ¬ setGood y then
    (if x.state = .lock then s.modLane k n fun l => { l with runSets := 0, runTsb := 0 } else s)
  else match x.state with
    | .train => if train then s.modLane k n fun l => { l with ffe := BitVec.ofNat 3 (y.getD 4 0).toNat } else s
    | .lock => if train then s.setInLock k n y boundary skew else s
    | .caps => s.setInCaps k n y
    | .active => s.setInActive k n y boundary
    | _ => s

/-- ORDERED_SET_RECEIVE (09 R235): the set a lane receives acts; this end's own stream goes on; with 8 CAK each way the sets enter ACTIVE. -/
def orderedSet (s : State) (k n : Nat) (groups : Option (List (BitVec 10))) (boundary : Bool) (skew : Nat) : State :=
  if ¬ s.hasKey k ∨ laneKind k = 2 ∨ laneCount k ≤ n ∨ ¬ (s.rxLanes k).contains n then s
  else match s.receivedSet k n groups with
    | none => s
    | some (s1, y) =>
      let s2 := ((s1.setActs k n (y.getD []) boundary skew).streamOut k n).capsDone k
      match s.partner k with
      | some k2 => s2.capsDone k2
      | none => s2

def execOrderedSetReceive (key lane : Nat) (groups : Option (List (BitVec 10))) (boundary : Bool) (skew : Nat) (s : State) : Out :=
  .next (orderedSet s key lane groups boundary skew)

/-! ### User lanes and checkers (09 R241, R245, R248, R251) -/

/-- The lanes of a quad the image uses. -/
def LaneSet.used (x : LaneSet) (k : Nat) : List Nat := (List.range (laneCount k)).filter fun n => !(x.lane n).unused

/-- A user lane has seen 4 K28.5 at one boundary (09 R241), inverted in sign or not (R237); the quad is ACTIVE when every lane in use has. -/
def userLock (s : State) (k n : Nat) (inverted : Bool) : State :=
  let x := s.laneset k
  if s.hasKey k ∧ laneKind k = 2 ∧ x.state = .lock ∧ (x.used k).contains n ∧ ¬ (x.lane n).flag fAligned then
    let s := s.modLane k n fun l =>
      { ((l.setFlag fAligned true).setFlag fPolinv inverted) with runComma := 4, fill := 4, txFifo := [], rxFifo := [] }
    if ((s.laneset k).used k).all fun i => ((s.laneset k).lane i).flag fAligned then s.enterActive k else s
  else s

def execUserLaneLock (key lane : Nat) (inverted : Bool) (s : State) : Out := .next (userLock s key lane inverted)

/-- TXIDLE of a user lane changes (09 R245, R251). -/
def execUserLaneTxidle (key lane : Nat) (on : Bool) (s : State) : Out :=
  .next (if s.hasKey key ∧ laneKind key = 2 ∧ lane < laneCount key then s.modLane key lane fun l => { l with txIdle := on } else s)

/-- A user transmitter in LP1: TXIDLE held while its lane is ACTIVE (09 R245). -/
def LaneSet.userLp1 (x : LaneSet) (k n : Nat) : Bool := laneKind k == 2 && (x.lane n).txIdle && x.laneActive k n

/-- Four K28.5 as a word: data and K bits (09 R251). -/
def commaWord : BitVec 36 := 0xFBCBCBCBC

/-- The fabric's word enters the transmit FIFO on an edge of its net; a full FIFO takes none. -/
def Lane.fabricTx (l : Lane) (w : BitVec 36) : Lane := if l.txFifo.length < 8 then { l with txFifo := l.txFifo ++ [w] } else l

/-- The transmitter takes a word: from the FIFO, or K28.5 with TXUFLOW where it is empty (09 R251). -/
def Lane.lineTx (l : Lane) : Lane :=
  let send (l : Lane) (w : BitVec 36) : Lane :=
    let r := encodeSyms l.txRd ((List.range 4).map fun i => symOf (w.getLsbD (32 + i)) (bitsOf w.toNat (8 * i) 5) (bitsOf w.toNat (8 * i + 5) 3))
    { l with txOut := r.1, txRd := r.2 }
  match l.txFifo with
  | w :: t => send { l with txFifo := t } w
  | [] => send (l.setFlag fTxuflow true) commaWord

/-- A word of the line enters the receive FIFO with RXERR for the symbols marked bad; a full FIFO drops it and sets RXOFLOW (09 R243, R251). -/
def Lane.lineRx (l : Lane) (w : BitVec 36) : Lane :=
  let err := (List.range 4).foldl (fun a i => a + atBit (l.badSym.contains i) (36 + i)) 0
  let w : BitVec 40 := BitVec.ofNat 40 (w.toNat + err)
  let l := { l with badSym := [] }
  if l.rxFifo.length < 8 then { l with rxFifo := l.rxFifo ++ [w] } else l.setFlag fRxoflow true

/-- The fabric's edge takes the oldest word of the receive FIFO. -/
def Lane.fabricRx (l : Lane) : Lane := match l.rxFifo with
  | w :: t => { l with rxWord := w, rxFifo := t }
  | [] => l

/-- Bits a locked checker has checked since it locked, at the line rate (09 R231, R248). -/
def LaneSet.bitsSince (x : LaneSet) (k : Nat) (l : Lane) (now : Nat) : Nat := match l.prbsAt with
  | some t => x.bitsIn k (now - t)
  | none => 0

def LaneSet.prbsBitsNow (x : LaneSet) (k : Nat) (l : Lane) (now : Nat) : BitVec 48 := l.prbsBits + BitVec.ofNat 48 (x.bitsSince k l now)

/-- A checker works in TEST with a pattern chosen (09 R248). -/
def State.checking (s : State) (k n : Nat) : Bool :=
  s.hasKey k && decide (n < laneCount k) && (s.laneset k).test && (s.laneset k).pattern != 0

/-- The set whose generator a checker hears: its own over a near-end loopback, else the partner's in the package, whose far-end loopback gives
    back this one's (09 R248, R250). -/
def State.incoming (s : State) (k : Nat) : Option Nat :=
  let x := s.laneset k
  if x.loopSel = 1 ∨ x.loopSel = 2 then some k
  else match s.partner k with
    | some k2 =>
      let y := s.laneset k2
      if ¬ y.test then none else if y.loopSel = 3 then (if x.loopSel = 0 then some k else none) else some k2
    | none => none

/-- The bits a checker searches in: given, or those of the generator it hears (09 R248). -/
def State.prbsHeard (s : State) (k n : Nat) (bits : Option (List Bool)) : List Bool := match bits with
  | some b => b
  | none => match s.incoming k with
    | some g =>
      let y := s.laneset g
      prbsBits y.pattern.toNat y.inv (Config.prbsSeed g n) (((prbsTaps (s.laneset k).pattern.toNat).map (·.1)).getD 0 + 64)
    | none => []

/-- PRBS_LOCK after a seed and 64 consecutive correct bits (09 R248). -/
def execPrbsCheckerLock (key lane : Nat) (bits : Option (List Bool)) (s : State) : Out :=
  .next (let x := s.laneset key
    if s.checking key lane ∧ ¬ (x.lane lane).flag fPrbsLock ∧ prbsFollows x.pattern.toNat x.inv 64 (s.prbsHeard key lane bits) then
      s.modLane key lane fun l => { (l.setFlag fPrbsLock true) with prbsAt := some s.now }
    else s)

/-- 64 bits that a locked checker checks, and which of them are wrong (09 R248): every wrong bit is counted; with 32 or more the bits so far are
    counted too and the checker searches again. -/
def execPrbsCheckerUnlock (key lane : Nat) (wrong : BitVec 64) (s : State) : Out :=
  .next (let x := s.laneset key
    let n := onesOf 64 wrong.toNat
    if s.checking key lane ∧ (x.lane lane).flag fPrbsLock then
      s.modLane key lane fun l =>
        let l := { l with prbsErr := satAdd l.prbsErr n }
        if 32 ≤ n then { (l.setFlag fPrbsLock false) with prbsBits := x.prbsBitsNow key l s.now, prbsAt := none } else l
    else s)

/-! ### Lane registers (09 R254, Table 9.11 to Table 9.13) -/

def LaneState.code : LaneState → Nat
  | .off => 0 | .detect => 1 | .train => 2 | .lock => 3 | .caps => 4 | .active => 5 | .fault => 6

/-- LANE_STATUS of a lane; a user lane that has seen its K28.5 reads ACTIVE, one the image does not use OFF. -/
def LaneSet.statusReg (x : LaneSet) (k n : Nat) : Nat :=
  let l := x.lane n
  let st := if l.unused then 0 else if x.laneActive k n then 5 else x.state.code
  st + atLo x.cause.toNat 3 + atBit x.pendingEnable 8 + atBit x.test 9 + atBit (x.txLp1 || x.userLp1 k n) 10 + atBit x.rxLp1 11 +
  atBit x.lp2 12 + atBit (l.flag fPolinv) 13 + atBit x.reversed 14 + atBit (l.flag fAligned) 15 + atBit (l.flag fPrbsLock) 16 +
  atBit (l.flag fTxuflow) 17 + atBit (l.flag fRxoflow) 18

def LaneSet.cfgReg (x : LaneSet) (n : Nat) : Nat :=
  let l := x.lane n
  (if l.unused then 0 else x.mode.toNat) + atLo x.n.toNat 2 + atLo x.dcode.toNat 10 + atLo x.lpSel.toNat 12 + atLo x.loopSel.toNat 14 +
  atLo x.pattern.toNat 16 + atBit x.inv 19 + atLo l.injN.toNat 20

/-- A lane register's 32 bits (09 Table 9.11). -/
def State.laneRead (s : State) (k n off : Nat) : Nat :=
  let x := s.laneset k
  let l := x.lane n
  if off = 0x000 then x.statusReg k n
  else if off = 0x004 then x.cfgReg n
  else if off = 0x008 then l.symerr.toNat
  else if off = 0x00C then l.prbsErr.toNat
  else if off = 0x010 ∨ off = 0x014 then half (x.prbsBitsNow k l s.now).toNat 0x010 off false
  else if off = 0x018 then l.injCnt.toNat
  else if off = 0x01C then x.faults.toNat
  else if off = 0x020 then l.phase.toNat
  else if off = 0x024 then x.lp1Idle.toNat + atLo x.lp2Idle.toNat 16
  else 0

/-- A read of a lane's 0x100 bytes. LANE_PHASE of an ACTIVE lane is whatever the CDR shows now, a free value. -/
def laneReg (s : State) (k n off : Nat) (eight : Bool) : RegRes :=
  let s := if off = 0x020 ∧ (s.laneset k).state = .active then
      (s.modLane k n fun l => { l with phase := s.freeVal.truncate 6 }).drew 1 else s
  regOk s (words (s.laneRead k n) off eight)

/-- QUAD_STATUS (09 Table 9.11): of an F-die's quad, or of the Eoset-X port an H-die quad belongs to. -/
def State.quadStatus (s : State) (d q : Nat) : Nat :=
  let x := s.laneset (if d = 8 then 144 + q / 2 else 256 + 8 * d + q)
  atBit x.pllLock 0 + atLo x.n.toNat 8 + atLo x.dcode.toNat 16

end Sys2Proof.Machine
end

