-- ==== Sys2Proof/Machine/BootOps.lean ====
section
/-! DEFINITION. Boot: resets, the unloaded package, wipes, the start of a load, a failed load and recovery (12 R311 to R335, R337). -/

namespace Sys2Proof.Machine

/-! ### Resets (12 R312, R314; 20 R509; 21 R528) -/

/-- Clock stops, freezes and gable halts are cleared; the TAPs, the authorization and the nonce stay (20 R509). An access on its way
    completes with TIMEOUT (20 R513). -/
def Ladder.cleared (l : Ladder) : Ladder :=
  { l with fclkStop := [], fclkStep := none, slgFreeze := [], slgStep := none, slgHeld := [], busPend := false,
           busRsp := if l.busPend then respTimeout else l.busRsp, busDone := l.busDone || l.busPend }

/-- What no reset of the package changes: time passed, free values, fuses, the commands waiting, temperature, the rails. -/
def State.resetKeeping (s : State) : State :=
  { State.reset with
    now := s.now, free := s.free, fuses := s.fuses, pending := s.pending, thermtrip := s.thermtrip, supplyBad := s.supplyBad,
    supplyOkAt := s.supplyOkAt, pornLow := s.pornLow, lad := s.lad.cleared,
    dies := tmodAll Die.reset [] ((s.dies.filter fun e => e.2.thermal).map (·.1)) fun _ x => { x with thermal := true },
    cfg := { Cfg.reset with deviceKey := s.cfg.deviceKey, keyHash := s.cfg.keyHash, srstn := s.cfg.srstn },
    clk := { Clocks.reset with deadSrc := s.clk.deadSrc } }

/-- PORn is low: pads off, everything at its reset value. -/
def State.powerOn (s : State) : State :=
  let s := s.resetKeeping
  s.modLad fun l => { l with authFails := 0, refused := l.refused }

/-- The OSCD delay in AOCLK periods, rounded up (12 R311, R312): 2^OSCD x 0.5 ms at 32.768 kHz. -/
def oscdPeriods (oscd : Nat) : Nat := ceilDiv (2 ^ oscd * 500000 * 32768) 1000000000
/-- The same in ps. -/
def oscdPs (oscd : Nat) : Nat := oscdPeriods oscd * 1000000000000 / 32768

/-- SRSTn is low: the Sarking domain, the straps, the cause of the last failure and the fault log stay as well. In package DEEP it raises
    REFOSC_EN, which starts the OSCD count (18 R455); that a package in DEEP boots again so is a DESIGN CHOICE (156). -/
def State.softReset (s : State) : State :=
  let k := s.resetKeeping
  let again := !s.cfg.refosc && !s.cfg.porn
  { k with
    log := { Log.reset with entries := s.log.entries, next := s.log.next, overwritten := s.log.overwritten, overAt := s.log.overAt },
    cfg := { k.cfg with straps := s.cfg.straps, porn := s.cfg.porn, refosc := s.cfg.refosc || again,
                         oscdAt := if again then some (s.now + oscdPs (bitsOf s.cfg.straps.toNat 2 3)) else s.cfg.oscdAt, lastCause := s.cfg.lastCause },
    clk := { k.clk with aoclkFail := s.clk.aoclkFail, rcMon := s.clk.rcMon } }

def State.refclkGood (s : State) : Bool := s.srcAlive refclkSrc

/-- REFCLK is trusted and no reset is asserted: the core and time-base PLLs start, and the gable core starts in the boot ROM (12 R312 steps 4
    and 5). -/
def State.coreStart (s : State) : State :=
  if s.cfg.refosc ∧ s.cfg.oscdAt = none ∧ ¬ s.cfg.porn ∧ ¬ s.cfg.srstn then
    if s.refclkGood then s.startHub.modCfg fun c => { c with coreUp := true, abandoned := false }
    else s.modCfg fun c => { c with abandoned := true }
  else s

/-! ### The package with no image running (12 R335, R337) -/

def Slice.stopped (m : Slice) : Slice :=
  { m with run := .halted, pendingStart := false, haltReq := false, stD := none, stAG := none, stMR := none, stM1 := none, stM2 := none, stWB := none }

/-- A die without its design: pads disabled, bays EMPTY, slices halted, Leggett stopped, pins off; frames and memories are left to the
    wipe. -/
def Die.unloaded (x : Die) : Die :=
  { x with io := IoBlock.reset, probe := Probe.reset, gqs := [], bays := [], leggett := Leggett.reset, pins := [], stFfs := .undef 0,
           slices := tmodAll Slice.reset x.slices (x.slices.map (·.1)) fun _ (m : Slice) => m.stopped }

/-- The recovery entry of the identification and mailbox tables (01 R40). -/
def recoveryEntry : AclEntry := { midVal := 0x8F0, midMask := 0xFFE, rd := true, wr := true, valid := true }
def recoveryTables : Tab AclTable := [(0x1000, { entries := [(0, recoveryEntry)] }), (0x1001, { entries := [(0, recoveryEntry)] })]

/-- A lane set goes OFF at once. -/
def State.laneKill (s : State) (k : Nat) : State :=
  if (s.laneset k).state = .off ∧ ¬ (s.laneset k).pllWait then s
  else
    let s := s.dropUp k
    (if (s.laneset k).state = .active then s.leaveActive k false else s).laneOff k

/-- Guest links and quads of the part. -/
def State.outerLanes (s : State) : List Nat :=
  (s.dieList.flatMap fun d => (List.range 4).map fun l => linkKeyOf d l).filter (fun k => (s.guestOf k).isSome) ++
    s.dieList.flatMap fun d => (List.range 6).map fun q => 256 + 8 * d + q

/-- Responses the masters of the design and the DMA wait for are of no more use. -/
def State.dropOuts (s : State) : State :=
  s.setMasters (tmodAll MasterPort.reset s.masters ((s.masters.map (·.1)).filter fun m => decide (m < 0x800) || m / 0x20 == 0x40 || m == 0x840)
    fun _ (m : MasterPort) => { m with out := [], rsps := [] })

/-- An Eoset-X port answers TGTERR to every host request it has outstanding (12 R337). -/
def State.failHosts (s : State) (p : Nat) : State :=
  let mid := BitVec.ofNat 12 (0x8F0 + p)
  let s := (s.master mid).out.foldl (fun (s : State) o =>
    s.edgeAnswer (144 + p) { src := mid, tag := o.hostTag, opc := o.opc, addr := o.addr, len := o.len } respTgtErr) s
  s.modMaster mid fun m => { m with out := [], rsps := [] }

/-- Commands still running for a session end with the package they ran on: a shut-down has completed, any other fails. Lane commands go on. -/
def State.endCommands (s : State) (sid : Nat) : State :=
  ((s.mbx (sidMbx sid)).running).foldl (fun (s : State) r =>
    let tok := sid * 65536 + r.seq.toNat
    if r.cmd = 0x0800 ∨ r.cmd = 0x0801 then s
    else if r.cmd = 0x0105 ∨ r.cmd = 0x0302 ∨ r.cmd = 0x0321 then s.complete tok stOk []
    else s.complete tok stFault (leBytes 4 0)) s

/-- The image and everything that ran under it are gone: user I/O disabled, slices halted, DMA stopped, DRAM down with its contents lost,
    bays EMPTY, memory keys erased, tables back to the recovery entries. Eoset-X ports and internal links stay as they are. -/
def State.unload (s : State) : State :=
  let s := s.setDies (tmodAll Die.reset s.dies (s.dies.map (·.1)) fun _ (x : Die) => x.unloaded)
  let s := (s.failHosts 0).failHosts 1
  let s := (List.range 32).foldl (fun (s : State) c => s.modDma c fun _ => DmaCh.reset) (s.modDram fun d => { d with fills := [] })
  let s := (List.range 8).foldl (fun (s : State) n => (s.chanOff n).modChan n fun x =>
    { x with cause := 0, pendingEnable := false, upCmd := none, heldUp := none, downCmds := [], rtSrcs := [] }) s
  let s := s.outerLanes.foldl (fun (s : State) k => s.laneKill k) s
  let s := s.dieList.foldl (fun (s : State) d => s.napDie d) (s.dropOuts.modClk fun k => { k with elems := [] })
  let s := (s.setFlash []).setFregions []
  let s := (s.setHpins []).setAcls recoveryTables
  let s := s.periReset.modSvc fun x => { x with kept := s.cfg.phase == .running || x.kept }
  let s := s.modEvr fun e => { e with outs := tmodAll EvOut.reset e.outs (e.outs.map (·.1)) fun _ (o : EvOut) => { o with fifo := [] } }
  (s.setIds IdRegs.reset).modCfg fun c =>
    { c with stream := Stream.reset, prog := Stream.reset, board := Board.reset, shell := 0, fwIf := 0, bundle := 0, cfgDone := false,
             repairQ := [],
             slotA := if c.prog.isOpen && c.prog.slot == 0 then { c.slotA with seq := 0, valid := false } else c.slotA,
             slotB := if c.prog.isOpen && c.prog.slot == 1 then { c.slotB with seq := 0, valid := false } else c.slotB }

/-! ### Streams: `prog` picks SLOT_PROGRAM's, else the configuration controller's -/

def State.strm (s : State) (prog : Bool) : Stream := if prog then s.cfg.prog else s.cfg.stream
def State.modStrm (s : State) (prog : Bool) (f : Stream → Stream) : State :=
  s.modCfg fun c => if prog then { c with prog := f c.prog } else { c with stream := f c.stream }

/-- A stream that CFG_PUSH or IMAGE_DATA feeds. -/
def Stream.pushes (x : Stream) : Bool := x.isOpen && (x.src == 2 || x.src == 3)

/-- The source is already taken by the other stream. -/
def State.srcBusy (s : State) (src : Nat) : Bool :=
  (s.cfg.stream.isOpen && s.cfg.stream.src == src && decide (2 ≤ src) && decide (src ≤ 3)) ||
  (s.cfg.prog.isOpen && s.cfg.prog.src == src)

def pushAddr : BitVec 48 := 0xF00000700030
def cfgTid : Nat := 0x1007

/-- The temporary entry that lets the sender's opener write CFG_PUSH (12 R338; 01 R538). -/
def State.admitPush (s : State) (src : Nat) (mid : BitVec 12) : State :=
  if src = 2 then s.modAcl cfgTid fun t => { t with temps := t.temps ++ [{ mid := mid, wr := true, only := some pushAddr }] } else s

/-- A stream closes: its temporary entry goes with it. -/
def State.closeStrm (s : State) (prog : Bool) : State :=
  let s := if (s.strm prog).src = 2 then s.modAcl cfgTid fun t => { t with temps := t.temps.filter fun e => e.only != some pushAddr } else s
  s.modStrm prog fun _ => Stream.reset

/-! ### The wipe (12 R330) -/

/-- Configuration memory is zero and memories hold what no frame wrote. -/
def Die.wiped (x : Die) : Die :=
  { x with frames := [], brams := tmodAll Bram.reset x.brams (x.brams.map (·.1)) fun _ (b : Bram) => { b with words := [] },
           slices := tmodAll Slice.reset x.slices (x.slices.map (·.1)) fun _ (m : Slice) => m.wiped }

/-- A memory of a die that was written once holds marks, zeros and HALT where nothing wrote it: the loads of that die say so. -/
def Die.markLoaded (x : Die) : Die :=
  { x with brams := tmodAll Bram.reset x.brams (List.range 3072) fun _ (b : Bram) => { b with loaded := true },
           groups := tmodAll Group.reset x.groups (List.range 128) fun _ (g : Group) => { g with loaded := true } }

def State.wipeAll (s : State) : State :=
  s.dieList.foldl (fun (s : State) d => s.modDie d fun x => x.wiped.markLoaded) s

/-- A die answers over its links. -/
def State.reachable (s : State) (d : Nat) : Bool := (s.pathTo 0x840 (hubDest 7) (mkDest d 5 0 2)).isSome
def State.allReachable (s : State) : Bool := s.dieList.all fun d => s.reachable d

/-! ### The start of a load (12 R332) -/

def slotState (c : Cfg) (slot : Nat) : SlotState := if slot = 0 then c.slotA else c.slotB
def State.modSlot (s : State) (slot : Nat) (f : SlotState → SlotState) : State :=
  s.modCfg fun c => if slot = 0 then { c with slotA := f c.slotA } else { c with slotB := f c.slotB }

/-- A full load starts on a source: 0, 1 a flash slot with its header, 2 CFG_PUSH, 3 IMAGE_DATA. The wipe starts unless configuration memory
    is known clear. -/
def State.beginLoad (s : State) (src : Nat) (hdr : Bytes) (mid : Option (BitVec 12)) (tok : Option Nat) : State :=
  s.modCfg fun c =>
    { c with
      phase := .boot, source := if src = 2 then 1 else if src = 3 then 2 else 0, slot := BitVec.ofNat 2 (min src 2), frames := 0,
      pushCount := if 2 ≤ src then 0 else c.pushCount, loadAt := s.now, reached := false, wiping := c.wiping || !c.clear,
      stream := { Stream.reset with isOpen := true, what := .full, src := src, header := hdr, used := if hdr = [] then 0 else 512,
                                    pushAt := s.now, pushMid := mid, mbx := tok } }

/-! ### Recovery and failure (12 R334, R335; 17 R453) -/

/-- The mailbox that an ended session kept until its load ends is unbound. -/
def State.freeKept (s : State) : State :=
  match s.cfg.keepSess with
  | some sid =>
    let s := if s.cfg.keepClosing then s.unbind (sidMbx sid) else s
    s.modCfg fun c => { c with keepSess := none, keepClosing := false }
  | none => s

/-- Recovery: the ROM's recovery firmware serves the mailboxes, Eoset-X ports 0 and 1 come up. -/
def State.enterRecovery (s : State) (failed : Bool) : State :=
  let s := s.freeKept
  let s := s.modCfg fun c => { c with phase := .recovery, slot := 2, cfgErr := failed, cfgDone := false, nextSlots := [] }
  let s := ((s.setAcls recoveryTables).modSvc fun x => { x with pins := [], kept := false }).setGstate .recovery
  [144, 145].foldl (fun (s : State) k =>
    if s.hasKey k ∧ (s.laneset k).state = .off ∧ ¬ (s.laneset k).pllWait then (s.modLaneset k fun x => { x with lpSel := 0 }).bringUp k else s) s

/-- The next slot to try, or recovery. -/
def State.nextSource (s : State) : State :=
  match s.cfg.nextSlots with
  | slot :: rest => (s.modCfg fun c => { c with nextSlots := rest }).beginLoad slot (slotState s.cfg slot).header none none
  | [] => s.enterRecovery true

/-- LOC_A source of LOAD_FAIL: the slots, then push and IMAGE_DATA (19 Table 19.3 type 0x0B). -/
def failLog (src cause seg evid : Nat) : LogEntry := mkEntry 0x0B 2 evid (8 + atLo src 4 + atLo cause 6) seg

/-- A full load fails (12 R334): the cause is recorded and logged, VERSION raises CFG_VERSION, the gable core is back in the boot ROM, what was
    written is wiped; a flash boot tries the next slot, a command load goes into recovery. -/
def State.failLoad (s : State) (cause seg : Nat) : State :=
  let st := s.cfg.stream
  let c5 := BitVec.ofNat 5 cause
  let boot := st.mbx.isNone && decide (st.src < 2)
  let s := if cause = cVersion then s.raiseHub 0x3A6 st.src (some (failLog st.src cause seg 0x3A6)) else s.logNote (failLog st.src cause seg noEvid)
  let s := if boot then s.modSlot st.src fun x => { x with cause := c5 } else s.modCfg fun c => { c with causeCmd := c5 }
  let wrote := decide (0 < st.writes) || decide (0 < st.segIdx)
  let s := s.unload
  let s := (s.modCfg fun c =>
    { c with lastCause := c5, phase := .boot, clear := c.clear && !wrote, reached := false,
             wiping := decide (cause ≠ cUnreachable) && (c.wiping || wrote) }).setGstate .recovery
  if boot then (if s.cfg.wiping ∧ s.allReachable then s else s.nextSource) else s.enterRecovery true

end Sys2Proof.Machine
end

