-- ==== Sys2Proof/Machine/Boot.lean ====
section
/-! DEFINITION. Resets, the boot ROM's choice of a source, the wipe, and start-up phases P1 to P4 (12 R311 to R314, R330 to R333). -/

namespace Sys2Proof.Machine

/-! ### PORn, SRSTn and the OSCD delay -/

def execPornAssert (s : State) : Out := .next (s.powerOn.setPornLow true)

/-- The reset of PORn ends: REFOSC_EN rises and the OSCD count starts (12 R312). -/
def State.leaveReset (s : State) : State :=
  s.modCfg fun c => { c with porn := false, refosc := true, oscdAt := some (s.now + oscdPs (bitsOf c.straps.toNat 2 3)) }

/-- PORN_RELEASE: the straps are sampled. A package whose rails are out of tolerance stays in reset (21 R528). -/
def execPornRelease (straps : BitVec 6) (s : State) : Out :=
  .next (
    if s.cfg.porn ∧ s.pornLow then
      let s := (s.setPornLow false).modCfg fun c => { c with straps := straps }
      if s.supplyBad then s else s.leaveReset
    else s)

/-- OSCD_DELAY_END: the count has ended and the monitor says whether REFCLK runs; where it does not, the H-die waits for it. -/
def execOscdDelayEnd (refclk : Bool) (s : State) : Out :=
  .next (
    match s.cfg.oscdAt with
    | none => s
    | some t =>
      if s.cfg.porn ∨ s.now < t then s
      else if refclk then
        let s := (s.modClk fun k => { k with deadSrc := k.deadSrc.filter (· != refclkSrc) }).modCfg fun c => { c with oscdAt := none }
        if s.clk.pkg = .waking then s else s.coreStart
      else s.modClk fun k => { k with deadSrc := if k.deadSrc.contains refclkSrc then k.deadSrc else k.deadSrc ++ [refclkSrc] })

def execSrstnAssert (s : State) : Out := .next (s.softReset.modCfg fun c => { c with srstn := true })

def execSrstnRelease (s : State) : Out :=
  .next (if s.cfg.srstn then (s.modCfg fun c => { c with srstn := false }).coreStart else s)

/-! ### BOOT_START (12 R313, R331, R332) -/

/-- The links between dies of the package, both ends. -/
def State.innerLinks (s : State) : List Nat :=
  ((List.range 128) ++ (List.range 8).map fun l => 128 + l).filter fun k => s.hasKey k && (s.partner k).isSome

/-- What a slot's header gives: NO_DEVICE without port 0, else the checks of R317 against the slot's size. -/
def State.slotCause (s : State) (hdr : Bytes) : Nat :=
  if s.cfg.flash0 then s.headerCause hdr false fun n => decide (n ≤ s.slotBytes) else cNoDevice

/-- A slot's header is read and judged: CAUSE for a bad one, SEQ for a good one. -/
def State.readSlot (s : State) (slot : Nat) (hdr : Bytes) : State :=
  let c := s.slotCause hdr
  s.modSlot slot fun x =>
    { x with valid := c == cNone, cause := if c = cNone then x.cause else BitVec.ofNat 5 c, header := hdr,
             seq := if c = cNone then BitVec.ofNat 64 (hdrSeq hdr) else 0 }

/-- A bad header is a failure of that slot (12 R334). -/
def State.noteSlot (s : State) (slot : Nat) : State :=
  let x := slotState s.cfg slot
  if x.valid then s
  else (s.logNote (failLog slot x.cause.toNat 0 noEvid)).modCfg fun c => { c with lastCause := x.cause }

/-- The slots to try, the first one first (12 R332). -/
def slotOrder (c : Cfg) : List Nat :=
  if c.slotA.valid ∧ c.slotB.valid then (if c.slotA.seq.toNat < c.slotB.seq.toNat then [1, 0] else [0, 1])
  else if c.slotA.valid then [0]
  else if c.slotB.valid then [1]
  else []

def bootStart (s : State) (dev0 dev1 : Bool) (hdrA hdrB : Bytes) : State :=
  if s.cfg.coreUp ∧ ¬ s.cfg.started ∧ s.cfg.phase = .boot then
    let s := s.modCfg fun c => { c with started := true, flash0 := dev0, flash1 := dev0 && dev1 }
    let s := s.innerLinks.foldl (fun (s : State) k => (s.modLaneset k fun x => { x with lpSel := 0 }).bringUp k) s
    let s := (s.setAcls recoveryTables).setGstate .recovery
    if bitsOf s.cfg.straps.toNat 0 2 ≠ 0 then s.enterRecovery false
    else
      let s := (((s.readSlot 0 hdrA).readSlot 1 hdrB).noteSlot 0).noteSlot 1
      (s.modCfg fun c => { c with nextSlots := slotOrder c }).nextSource
  else s

def execBootStart (dev0 dev1 : Bool) (hdrA hdrB : List (BitVec 8)) (s : State) : Out := .next (bootStart s dev0 dev1 hdrA hdrB)

/-! ### The wipe (12 R330) -/

/-- WIPE_COMPLETE: every die was reachable and the wipe has ended. A wipe after a failure is followed by the next slot of the boot. -/
def execWipeComplete (s : State) : Out :=
  .next (
    if s.cfg.wiping ∧ s.allReachable then
      let s := s.wipeAll.modCfg fun c => { c with wiping := false, clear := true, reached := true }
      if ¬ s.cfg.stream.isOpen ∧ s.cfg.phase = .boot ∧ s.cfg.started then s.nextSource else s
    else s)

def execDieUnreachableTimeout (die : Nat) (s : State) : Out :=
  .next (
    if s.cfg.stream.isOpen ∧ s.cfg.stream.what = .full ∧ ¬ s.cfg.reached ∧ die < s.fdies ∧ ¬ s.reachable die ∧ s.cfg.loadAt + 10 * psMs ≤ s.now then
      s.failLoad cUnreachable s.cfg.stream.segIdx
    else s)

/-! ### P1 to P4 (12 R333) -/

/-- PHASE_P1: the clocks the image uses start and lock within 100 us, or the load fails with cause CLOCK. -/
def execPhaseP1 (locked : Bool) (s : State) : Out :=
  .next (
    if s.cfg.phase ≠ .p1 then s
    else if locked then
      if s.cfg.phaseAt + 100 * psUs < s.now then s
      else (s.dieList.foldl (fun (s : State) d => s.startDie d) s).modCfg fun c => { c with phase := .p2, phaseAt := s.now }
    else if s.cfg.phaseAt + 100 * psUs ≤ s.now then s.failLoad cClock s.cfg.stream.segIdx
    else s)

/-- A bay that the image gives content runs from P2 on, its port still closed. -/
def Bay.begin (b : Bay) : Bay := if b.unused then b else { b with clamped := false, fclkOn := true }

/-- PHASE_P2: INIT is loaded and every flip-flop is released at once (02 R58). -/
def execPhaseP2 (s : State) : Out :=
  .next (
    if s.cfg.phase = .p2 then
      (s.dieList.foldl (fun (s : State) d => ((s.loadInitDie d).initIo d).modDie d fun x =>
        { x with bays := tmodAll Bay.reset x.bays (x.bays.map (·.1)) fun _ b => b.begin }) s).modCfg fun c =>
          { c with phase := .p3, phaseAt := s.now }
    else s)

/-- A TAP holds its die's pins: EXTEST, EXTEST_PULSE, EXTEST_TRAIN, CLAMP or HIGHZ (20 R512). -/
def State.tapHoldsPins (s : State) : Bool := s.lad.taps.any fun e => [0x00, 0x03, 0x04, 0x05, 0x06].contains e.2.ir.toNat

/-- PHASE_P3: every die applies the bias of its user I/O, timing pins take their TP_CFG, service pins their SPIN functions. -/
def execPhaseP3 (s : State) : Out :=
  .next (
    if s.cfg.phase = .p3 ∧ (s.die 0).io.pads = .disabled ∧ ¬ s.tapHoldsPins then
      let s := s.dieList.foldl (fun (s : State) d => s.modIo d fun x => { x with pads := .biased, biasAt := s.now }) s
      let s := s.cfg.board.tpins.foldl (fun (s : State) e => s.modTpin e.1 e.2.1 fun p => p.configure e.2.2.toNat) s
      (s.spinPins s.cfg.board.spin).spinRest s.cfg.board.spin
    else s)

/-- P3_IO_ENABLE: 1 us after the bias, output enables and inputs are released together; the first level driven comes from flip-flops that hold
    INIT (02 R67). -/
def execP3IoEnable (s : State) : Out :=
  .next (
    if s.cfg.phase = .p3 ∧ (s.die 0).io.pads = .biased ∧ (s.die 0).io.biasAt + psUs ≤ s.now then
      s.dieList.foldl (fun (s : State) d => s.modIo d fun x => { x with pads := .enabled }) s
    else s)

/-- The port of a bay opens with all its credits and the requests held since P2 go out (12 R333). -/
def State.openPort (s : State) (d b : Nat) : State :=
  let held := (s.bay d b).heldReqs
  let s := s.modBay d b fun x =>
    { x with state := .active, portOpen := true, drained := true, heldReqs := [], ident := s.cfg.bundle, loads := 0, repairs := 0, corr := 0 }
  let s := (s.setDrain d b false).reclaim d b
  held.foldl (fun (s : State) q => requestInject s (bayMid d b) q) s

/-- A quad as the image sets it (09 R229, R231): MODE 1 with N and D where it uses a lane of it; a lane it does not use has MODE 0. -/
def State.quadImage (s : State) (d q : Nat) : State :=
  let img (i : Nat) := Config.imageLane s.cfg.bundle d (4 * q + i)
  let any : Bool := (List.range 4).any fun i => (img i).1
  s.modLaneset (256 + 8 * d + q) fun x =>
    if x.state ≠ .off ∨ x.pllWait then x
    else
      { x with
        mode := if any then 1 else 0, n := if any then (img 0).2.1 else 0, dcode := if any then (img 0).2.2 else 0,
        lanes := tmodAll Lane.reset x.lanes (List.range 4) fun i l => { l with unused := !(img i).1 } }

/-- The quads of every die as the image sets them. -/
def State.quadImages (s : State) : State :=
  s.dieList.foldl (fun (s : State) d => (List.range 6).foldl (fun (s : State) q => s.quadImage d q) s) s

/-- The lane sets that LANESET marks come up, but for a quad the image does not use (09 R229, R244). -/
def State.upDeclared (s : State) (e : LaneDecl) : State :=
  let k := laneKey e.kind e.die e.id
  let x := s.laneset k
  if ¬ e.flags.getLsbD 0 ∨ x.state ≠ .off ∨ x.pllWait ∨ s.awaitsKey k ∨ (e.kind = 2 ∧ x.mode = 0) then s else s.bringUp k

/-- Leggett of a die starts (13 R357). -/
def Leggett.start (l : Leggett) (now : Nat) : Leggett :=
  { l with cfgRun := l.cfg.getLsbD 14, memRun := l.cfg.getLsbD 15, frame := 0, passAt := now, memPos := [], memTry := [], memAt := now }

/-- PHASE_P4: DRAM training has ended; ports open, slices start, the ID registers are written, lane sets come up, Leggett starts, CFG_DONE rises
    and CFG_ERR falls. The session whose LOAD_IMAGE this was closes. -/
def phaseP4 (s : State) : State :=
  if s.cfg.phase ≠ .p3 ∨ (s.die 0).io.pads ≠ .enabled ∨ (List.range 8).any (fun n => (s.chan n).state == .training) then s
  else
    let s := s.dieList.foldl (fun (s : State) d =>
      let s := (List.range 96).foldl (fun (s : State) b => if (s.bay d b).unused then s else s.openPort d b) s
      let s := (List.range 128).foldl (fun (s : State) g => s.resetGroup d g s.cfg.bundle) s
      s.modLeggett d fun l => l.start s.now) s
    let s := s.setIds { gableIf := s.cfg.fwIf.zeroExtend 32, bundle := s.cfg.bundle }
    let s := s.cfg.board.lanesets.foldl (fun (s : State) e => s.upDeclared e) s.quadImages
    let s := match s.cfg.keepSess with
      | some sid => if s.cfg.keepClosing then s else s.endSession sid
      | none => s
    (s.freeKept.closeStrm false).modCfg fun c =>
      { c with phase := .running, cfgDone := true, cfgErr := false, clear := false, nextSlots := [], phaseAt := s.now }

def execPhaseP4 (s : State) : Out := .next (phaseP4 s)

/-! ### Registers and CFG_STATUS (12 R336, R340) -/

def Phase.code : Phase → Nat
  | .boot => 0 | .p0 => 1 | .p1 => 2 | .p2 => 3 | .p3 => 4 | .running => 5 | .recovery => 6 | .teardown => 7

/-- CFG_PUSH or IMAGE_DATA is accepting bytes. -/
def Cfg.pushOpen (c : Cfg) : Bool := (c.stream.isOpen && c.stream.src / 2 == 1) || (c.prog.isOpen && c.prog.src / 2 == 1)

def Cfg.statusReg (c : Cfg) : Nat :=
  c.phase.code + atLo c.source.toNat 3 + atLo c.slot.toNat 5 + atBit c.cfgErr 7 + atBit c.cfgDone 8 + atBit c.wiping 9 + atBit c.pushOpen 10 +
    atLo c.lastCause.toNat 11
def Cfg.causeReg (c : Cfg) : Nat := c.slotA.cause.toNat + atLo c.slotB.cause.toNat 8 + atLo c.causeCmd.toNat 16

def State.cfgRead (s : State) (off : Nat) : Nat :=
  let c := s.cfg
  let part (v : BitVec 64) (base : Nat) : Nat := if off = base then v.toNat % 2 ^ 32 else v.toNat / 2 ^ 32
  if off = 0x000 then c.statusReg
  else if off = 0x004 then c.straps.toNat
  else if off = 0x008 then c.causeReg
  else if off = 0x010 ∨ off = 0x014 then part c.slotA.seq 0x010
  else if off = 0x018 ∨ off = 0x01C then part c.slotB.seq 0x018
  else if off = 0x020 ∨ off = 0x024 then part c.frames 0x020
  else if off = 0x028 ∨ off = 0x02C then part c.pushCount 0x028
  else if off = 0x038 then bnat c.flash0 + atBit c.flash1 1 + atBit c.flash1 2
  else 0

def cmdCfgStatus : Command where
  code := 0x0100
  argOk _ r := lenIs 0 r
  body s _ _ :=
    (s, okReply (leBytes 4 s.cfg.statusReg ++ leBytes 4 s.cfg.causeReg ++ leBytes 8 s.cfg.slotA.seq.toNat ++ leBytes 8 s.cfg.slotB.seq.toNat ++
      leBytes 8 s.cfg.frames.toNat))

def execCfgStatus (m : Nat) (s : State) : Out := .next (cmdCfgStatus.serve m s)

end Sys2Proof.Machine
end

