-- ==== Sys2Proof/Machine/StreamOps.lean ====
section
/-! DEFINITION. Image streams and bays: how a stream opens, fails and closes; bay loads, repairs, shut-downs and releases
(12 R338, R339; 13 R343 to R361). -/

namespace Sys2Proof.Machine

/-! ### Bays: log entries, failure, completion (13 R350, R351; 19 Table 19.3 type 0x0A) -/

def bayKindLoad : Nat := 0
def bayKindRepair : Nat := 1
def bayKindShut : Nat := 2
def bayLog (d b cause kind seg evid : Nat) : LogEntry := mkEntry 0x0A 2 evid (d + atLo b 4 + atLo cause 11 + atLo kind 16) seg

/-- CAUSE[1] and reserved bytes. -/
def causeBytes (c : Nat) : List (BitVec 8) := leBytes 4 c

/-- The 3,488 frames of a bay in wipe form: the bay is EMPTY. -/
def State.emptyBay (s : State) (d b : Nat) : State :=
  ((s.wipeFrames d b).wipeMems d b).modBay d b fun x =>
    { x with state := .empty, ident := 0, repair := false, ueKnown := false, clamped := true, fclkOn := false, portOpen := false, unused := true }

/-- The command of a bay that runs completes; BAY_RESTORE has no result bytes (17 Table 17.10). -/
def State.endRun (s : State) (d b status : Nat) (cause : Nat) : State :=
  let t := (s.bay d b).runCmd
  (s.modBay d b fun x => { x with runCmd := none }).completeOpt (t.map (·.1)) status (if t.any (fun e => e.2 == 0x0106) then [] else causeBytes cause)

/-- A bay load or repair fails: in step 1 the bay stays as it is, later its frames are wiped and it is EMPTY (13 Table 13.6). -/
def State.bayFail (s : State) (cause seg : Nat) : State :=
  let st := s.cfg.stream
  let d := st.die; let b := st.bay
  let s := s.logNote (bayLog d b cause (if st.what = .repair then bayKindRepair else bayKindLoad) seg noEvid)
  let s := (s.closeStrm false).modBay d b fun x => { x with cause := BitVec.ofNat 5 cause }
  (if st.untouched then s else s.emptyBay d b).endRun d b stFault cause

/-- A SLOT_PROGRAM fails: the slot has no valid header (12 R339). -/
def State.progFail (s : State) (cause seg : Nat) : State :=
  let st := s.cfg.prog
  let s := s.logNote (failLog st.src cause seg noEvid)
  let s := (s.modSlot st.slot fun x => { x with valid := false, seq := 0, erased := true }).modCfg fun c => { c with causeCmd := BitVec.ofNat 5 cause }
  (s.closeStrm true).completeOpt st.mbx stFault (causeBytes cause)

/-- A check on a stream fails. -/
def State.strmFail (s : State) (prog : Bool) (cause seg : Nat) : State :=
  if prog then s.progFail cause seg
  else match s.cfg.stream.what with
    | .full => s.failLoad cause seg
    | _ => s.bayFail cause seg

/-! ### The header (12 R317; 13 R346) -/

/-- The checks of a stream's header in order; `room` is what the source holds. The target list follows with segment 0. -/
def State.strmHeader (s : State) (x : Stream) (h : Bytes) : Nat :=
  let bay := x.what == .bay || x.what == .repair
  let fits (n : Nat) : Bool :=
    if x.what = .program then decide (n ≤ s.slotBytes) else if x.src < 2 then decide (n ≤ s.slotBytes) else if x.src = 4 then decide (n ≤ x.len) else true
  let c := s.headerCause h bay fits
  if c ≠ cNone then c
  else if bay then
    let v := s.ids.gableIf.toNat
    if ¬ (hdrIfMin h ≤ v ∧ v ≤ hdrIfMax h) then cVersion
    else if hdrShell h ≠ s.cfg.shell.toNat then cShell
    else cNone
  else cNone

/-- The header of a stream is judged; a slot to be programmed is erased once it is good. -/
def State.takeHeader (s : State) (prog : Bool) (h : Bytes) : State :=
  let x := s.strm prog
  let c := s.strmHeader x h
  if c ≠ cNone then s.strmFail prog c 0
  else
    let s := s.modStrm prog fun x => { x with header := h, used := 512, pushed := x.pushed.drop 512 }
    if x.what = .program then s.modSlot x.slot fun y => { y with erased := true, valid := false } else s

/-! ### Bay loads and repairs (13 R350, R354, R360) -/

/-- No bay load, repair or full load is in progress. -/
def State.ctrlFree (s : State) : Bool := !s.cfg.stream.isOpen && s.cfg.phase == .running

/-- Header and segment 0 are good: the bay is clamped and its frames take the wipe form; a repair leaves the memories. -/
def State.beginLoading (s : State) (d b : Nat) (repair : Bool) : State :=
  let s := if (s.bay d b).state = .active then s.clampBay d b true else s
  let s := s.wipeFrames d b
  let s := if repair then s else s.wipeMems d b
  s.modBay d b fun x => { x with state := .loading, repair := repair, pendingEnable := false, ready := false }

/-- A bay stream opens; the header of a DRAM source is read at once. -/
def State.openBay (s : State) (x : Stream) : State :=
  let s := (s.modCfg fun c =>
    { c with pushCount := if x.src = 4 then c.pushCount else 0,
             stream := { x with isOpen := true, untouched := true, pushAt := s.now } }).admitPush x.src (x.pushMid.getD 0)
  if x.src = 4 then
    match s.fetch x.atPs 512 with
    | some h => s.takeHeader false h
    | none => s.bayFail cTag 0
  else s

/-- BAY_LOAD begins to run for a bay. -/
def State.startLoad (s : State) (d b tok : Nat) (arg : Bytes) : State :=
  let src := numAt arg 2 1
  let sid := tok / 65536
  let s := s.modBay d b fun x => { x with runCmd := some (tok, 0x0104), held := none, pendingEnable := false }
  s.openBay { what := .bay, src := src, die := d, bay := b, mbx := some tok, pushMid := some (s.mbx (sidMbx sid)).opener,
              atPs := numAt arg 4 8, len := numAt arg 12 8,
              keepSrc := if src = 4 ∧ numAt arg 3 1 = 1 then some (numAt arg 4 8, numAt arg 12 8) else none }

/-- A shut-down begins: the clamp edge (13 R353). -/
def State.startShut (s : State) (d b : Nat) (wipe noSrc : Bool) (cmds : List Nat) : State :=
  let s := if (s.bay d b).state = .active then s.clampBay d b true else s
  s.modBay d b fun x => { x with state := .shutting, shutWipe := wipe, noSrc := noSrc, shutCmds := cmds }

/-- A bay without a repair source that needs repair has been wiped (13 R361). -/
def State.noSource (s : State) (d b : Nat) : State :=
  let evid := evidOf d 0x0A 0
  (s.modBay d b fun x => { x with cause := BitVec.ofNat 5 cNoSource, noSrc := false }).raiseEvent d evid b
    (some (bayLog d b cNoSource bayKindShut 0 evid))

/-- A repair starts from the bay's source; with none the bay is shut down and wiped. -/
def State.repairBay (s : State) (d b : Nat) : State :=
  match (s.bay d b).source with
  | some (a, n, _) => s.openBay { what := .repair, src := 4, die := d, bay := b, atPs := a, len := n }
  | none =>
    if (s.bay d b).state = .active then s.startShut d b true true []
    else ((s.emptyBay d b).noSource d b).endRun d b stFault cNoSource

/-- BAY_ENABLE begins to run for a DOWN bay: the release, or a repair where UE_KNOWN is set (13 R354). -/
def State.startEnable (s : State) (d b tok : Nat) : State :=
  let s := s.modBay d b fun x => { x with runCmd := some (tok, 0x0107), held := none, pendingEnable := false }
  if (s.bay d b).ueKnown then
    (if s.ctrlFree ∨ (s.bay d b).source = none then s.repairBay d b else s.modCfg fun c => { c with repairQ := c.repairQ ++ [(d, b)] })
  else (s.releaseBay d b).endRun d b stOk 0

/-- END was accepted and the drain has ended: the bay is released with its image's settings (13 R345, R350 step 5, R360). -/
def State.finishBay (s : State) : State :=
  let st := s.cfg.stream
  let d := st.die; let b := st.bay
  let rep := st.what == .repair
  let tok := (s.bay d b).runCmd.map (·.1)
  let sid := (tok.getD 0) / 65536
  let img := BitVec.ofNat 64 (hdrBundle st.header)
  let s := s.modBay d b fun x =>
    { x with fclkEn := st.fclkEn, border := st.border, ident := img, ueKnown := false, unused := false,
             loads := if rep then x.loads else satInc x.loads, repairs := if rep then satInc x.repairs else x.repairs,
             corr := if rep then x.corr else 0,
             source := if rep then x.source
               else match st.keepSrc with
                 | some (a, n) => if s.sidOpen sid then some (a, n, sid) else none
                 | none => x.source.filter fun e => st.src == 4 && e.1 == st.atPs && e.2.1 == st.len }
  let r := (s.setBayParts d b img).releaseOrDown d b
  (r.1.closeStrm false).endRun d b r.2 0

/-! ### The end of a drain (13 R353, R356; 07 R203) -/

/-- A held command is judged by the state the bay has reached; a held load waits until the controller is free. -/
def State.judgeHeld (s : State) (d b : Nat) : State :=
  match (s.bay d b).held with
  | none => s
  | some h =>
    let st := (s.bay d b).state
    if st = .shutting then s
    else if s.fenced d then (s.modBay d b fun x => { x with held := none, pendingEnable := false }).complete h.mbx stState []
    else if h.cmd = 0x0104 then (if s.ctrlFree ∧ ¬ s.srcBusy (numAt h.arg 2 1) then s.startLoad d b h.mbx h.arg else s)
    else if st = .down then s.startEnable d b h.mbx
    else (s.modBay d b fun x => { x with held := none, pendingEnable := false }).complete h.mbx stState []

/-- The shut-down is complete: the bay is DOWN, or wiped and EMPTY; its commands complete. -/
def State.shutEndBay (s : State) (d b : Nat) : State :=
  let x := s.bay d b
  let s := if x.shutWipe then s.emptyBay d b else s.modBay d b fun x => { x with state := .down }
  let s := s.modBay d b fun x => { x with shutWipe := false, shutCmds := [] }
  let s := if x.noSrc then s.noSource d b else s
  (s.completeAll x.shutCmds stOk []).judgeHeld d b

/-- PORT_DRAIN_END: every request of the bay has its response or has timed out; packets that stand at the port are disposed of and its credits
    reclaimed. A shut-down completes, a restore or a finished load releases the bay. -/
def portDrainEnd (s : State) (d b : Nat) : State :=
  let x := s.bay d b
  if s.fdies ≤ d ∨ 96 ≤ b ∨ x.drained ∨ ¬ s.portQuiet d b then s
  else
    let s := ((s.disposeAtPort d b).dropRsps d b).reclaim d b
    let s := s.modBay d b fun x => { x with drained := true }
    match x.state with
    | .shutting => s.shutEndBay d b
    | .restoring =>
      let r := s.releaseOrDown d b
      let s := r.1.endRun d b r.2 0
      if (s.bay d b).ueKnown then s.modCfg fun c => { c with repairQ := c.repairQ ++ [(d, b)] } else s
    | .loading => if x.ready then s.finishBay else s
    | _ => s

/-- A held load runs as soon as the controller is free (13 R350, R356). -/
def State.runHeld (s : State) : State :=
  if s.ctrlFree then
    match (s.dieList.flatMap fun d => ((s.die d).bays.filter fun e => e.2.held.isSome && e.2.state != .shutting).map fun e => (d, e.1)) with
    | (d, b) :: _ => s.judgeHeld d b
    | [] => s
  else s

/-! ### The end of a session (17 R445) -/

/-- A session closes: what it owns is freed, an IMAGE_DATA load or program of it fails, and its mailbox outputs are flushed. One whose
    LOAD_IMAGE is still loading keeps its mailbox until the load ends (12 R337; 19 R491). -/
def State.closeSession (s : State) (sid : Nat) : State :=
  let mine (x : Stream) : Bool := x.isOpen && x.src == 3 && x.mbx.any fun t => t / 65536 == sid
  let s := if s.cfg.keepSess = some sid then
      (s.freeOwned sid).modCfg fun c => { c with keepClosing := true }
    else s.endSession sid
  let s := if mine s.cfg.prog then s.strmFail true cPushTimeout s.cfg.prog.segIdx else s
  if mine s.cfg.stream then s.strmFail false cPushTimeout s.cfg.stream.segIdx else s

end Sys2Proof.Machine
end

