-- ==== Sys2Proof/Machine/Streams.lean ====
section
/-! DEFINITION. The image stream: segments, sections, records, the push paths, and the commands that open a full load or a program
(12 R318 to R339). -/

namespace Sys2Proof.Machine

/-! ### What the board's defaults are (12 Table 12.13) -/

/-- Everything a board record sets is at its default. -/
def State.boardDefaults (s : State) : State :=
  let s := s.setAcls (tmodAll AclTable.reset s.acls (s.acls.map (·.1)) fun _ (t : AclTable) => { t with entries := [] })
  let s := s.modDram fun d =>
    { d with sets := [], hash := [], regions := [],
             chans := tmodAll Channel.reset d.chans (d.chans.map (·.1)) fun _ (x : Channel) => { x with decl := none, ports := [], rtSrcs := [] } }
  let s := s.setLanesets (tmodAll LaneSet.reset s.lanesets (s.lanesets.map (·.1)) fun _ (x : LaneSet) => { x with lpSel := 0, lp1Idle := 0, lp2Idle := 0 })
  let s := s.setGuests (tmodAll GuestSite.reset s.guests (s.guests.map (·.1)) fun _ (g : GuestSite) => { g with wired := 0, budgetW := 0 })
  let s := s.strapPref
  let s := s.modClk fun k => { k with wakeEn := 0x20, alarm := 0, alarmP := none }
  let s := s.modTb fun b => { b.select 0 false false 0 s.now with notify := [] }
  let s := s.setMasters (tmodAll MasterPort.reset s.masters (s.masters.map (·.1)) fun _ (m : MasterPort) => { m with tmoUs := 2000 })
  let s := s.setRouters (tmodAll Router.reset s.routers (s.routers.map (·.1)) fun _ (r : Router) => { r with tmo0 := 2000, tmo1 := 2000 })
  s.modCfg fun c => { c with board := Board.reset }

/-! ### Segment 0 (12 R321 to R324; 13 R347) -/

/-- P0 begins: the firmware runs, the tables of BOARD are in place and its channels train (12 R332, R333). -/
def State.beginP0 (s : State) (h : Bytes) (ifVer : Nat) : State :=
  let s := (List.range 8).foldl (fun (s : State) n => if (s.chan n).decl.isSome then s.trainOrRefuse n none else s) s
  let s := s.modCfg fun c =>
    { c with phase := .p0, phaseAt := s.now, fwIf := BitVec.ofNat 16 ifVer, bundle := BitVec.ofNat 64 (hdrBundle h),
             shell := BitVec.ofNat 64 (hdrShell h) }
  (s.modGable fun g => { g with wdtAt := s.now }).setGstate .running

/-- What segment 0 of a full image gives: a cause, or the state with P0 begun; a program checks the same and changes nothing. -/
def State.fullSeg0 (s : State) (prog : Bool) (h payload : Bytes) : State × Nat :=
  match fullSections payload with
  | none => (s, cFormat)
  | some (board, fw, lg) =>
    let v := numAt fw 8 2
    if numAt fw 0 8 ≠ hdrBundle h ∨ numAt lg 0 8 ≠ hdrBundle h ∨ ¬ (hdrIfMin h ≤ v ∧ v ≤ hdrIfMax h) then (s, cVersion)
    else
      match applyBoard s.boardDefaults board with
      | none => (s, cBoard)
      | some s1 => (if prog then s else s1.beginP0 h v, cNone)

/-- What segment 0 of a bay image gives: its target list must name the bay (13 R346, R347). -/
def State.baySeg0 (s : State) (payload : Bytes) : State × Nat :=
  let st := s.cfg.stream
  match bayDesc payload with
  | none => (s, cFormat)
  | some x =>
    if ¬ x.targets.contains (128 * st.die + st.bay) then (s, cTarget)
    else
      ((s.beginLoading st.die st.bay (st.what == .repair)).modStrm false fun y =>
        { y with fclkEn := BitVec.ofNat 32 x.fclkEn, border := BitVec.ofNat 64 x.border, untouched := false }, cNone)

/-- The key of the next segment to come. -/
def State.segKey (s : State) (x : Stream) : Option Bytes :=
  if x.segIdx = 0 then kwUnwrap s.cfg.deviceKey kwDefault (hdrWrap x.header) else some x.key

/-- A whole segment, LEN, ciphertext and tag, of `n` bytes, is judged and taken (12 R318, R319). -/
def State.takeSegment (s : State) (prog : Bool) (bs : Bytes) (len : Nat) : State :=
  let x := s.strm prog
  let i := x.segIdx
  let used := x.used + 20 + len
  match s.segKey x with
  | none => s.strmFail prog cTag i
  | some key =>
    match openSegment x.header key i ((bs.drop 4).take len) ((bs.drop (4 + len)).take 16) with
    | .bad c => s.strmFail prog c i
    | .ok payload next last =>
      if last ∧ used ≠ hdrLen x.header then s.strmFail prog cEarly i
      else
        let r := if i ≠ 0 then (s, cNone)
          else if x.what = .bay ∨ x.what = .repair then s.baySeg0 payload
          else s.fullSeg0 prog x.header payload
        if r.2 ≠ cNone then r.1.strmFail prog r.2 i
        else
          r.1.modStrm prog fun y =>
            { y with segIdx := i + 1, key := next, used := used, last := last, took := true, buf := if i = 0 then y.buf else y.buf ++ payload,
                     pushed := y.pushed.drop (20 + len) }

/-- What the source holds from the next segment on: the operand's bytes of a flash slot, the bytes pushed, or DRAM. The second part says that
    a DRAM read returned a bus error. -/
def State.segSource (s : State) (x : Stream) (bytes : Bytes) : Bytes × Bool :=
  if x.src < 2 then (bytes, false)
  else if x.src ≠ 4 then (x.pushed, false)
  else
    match s.fetch (x.atPs + x.used) 4 with
    | none => ([], true)
    | some h =>
      let len := leNat h
      if ¬ segLenOk x.segIdx len then (h, false)
      else match s.fetch (x.atPs + x.used) (20 + len) with
        | some b => (b, false)
        | none => ([], true)

/-- A repair in its step 1 waits for a restore of its bay to end, and ends without effect where the bay is no longer ACTIVE nor being enabled;
    UE_KNOWN stays (13 R360: "repairs the bay when it is ACTIVE"). DESIGN CHOICE (log 149). -/
def State.repairWaits (s : State) (prog : Bool) : Bool :=
  let x := s.strm prog
  x.what == .repair && x.untouched && (s.bay x.die x.bay).state == .restoring
def State.repairGone (s : State) (prog : Bool) : Bool :=
  let x := s.strm prog
  let y := s.bay x.die x.bay
  x.what == .repair && x.untouched && !(y.state == .active || (y.state == .down && y.runCmd.isSome))

/-- SEGMENT_RECEIVE: nothing in a segment acts before its tag has passed. Segments from the first on wait for the wipe. -/
def segmentReceive (s : State) (prog : Bool) (bytes : Bytes) : State :=
  let x := s.strm prog
  let i := x.segIdx
  if ¬ x.isOpen ∨ x.header = [] ∨ x.last then s
  else if s.repairWaits prog then s
  else if s.repairGone prog then s.closeStrm prog
  else if x.what = .full ∧ i ≠ 0 ∧ (s.cfg.wiping ∨ ¬ (s.cfg.reached ∨ s.allReachable)) then s
  else
    let s := if x.what = .full ∧ i ≠ 0 then s.modCfg fun c => { c with reached := true } else s
    let src := s.segSource x bytes
    let len := numAt src.1 0 4
    if src.2 then s.strmFail prog cTag i
    else if src.1.length < 4 then s
    else if ¬ segLenOk i len then s.strmFail prog cTag i
    else if hdrLen x.header < x.used + 20 + len then s.strmFail prog cEarly i
    else if src.1.length < 20 + len ∨ (x.src < 2 ∧ src.1.length ≠ 20 + len) then s
    else s.takeSegment prog src.1 len

def execSegmentReceive (prog : Bool) (bytes : List (BitVec 8)) (s : State) : Out := .next (segmentReceive s prog bytes).runHeld

/-! ### Records (12 R328, R329; 13 R348) -/

/-- The frame that a record's index names: itself in a full image, relative to the bay in a bay image. -/
def Stream.frameOf (x : Stream) (i : Nat) : Option Nat :=
  if x.what = .bay ∨ x.what = .repair then bayFrame x.bay i else if frameIdxOk i then some i else none

/-- The die that a record's DIE names. -/
def State.dieOfRec (s : State) (x : Stream) (d : Nat) : Option Nat :=
  if x.what = .bay ∨ x.what = .repair then (if d = 0 then some x.die else none) else if d < s.fdies then some d else none

/-- A frame of a stream is written: not by a program, and a repair skips the frames of memories (12 R339; 13 R360). -/
def State.putFrame (s : State) (x : Stream) (d i : Nat) (data : Bytes) : State :=
  if x.what = .program ∨ (x.what = .repair ∧ 262144 ≤ i) then s else s.writeFrame d i data

/-- Frames of a run, each with its data; none where an index or a container bit is not allowed. -/
def State.putRun (s : State) (x : Stream) (r : RecHdr) (count : Nat) (stride : Int) (data : Bytes) : Option State :=
  match s.dieOfRec x r.die with
  | none => none
  | some d =>
    let idx := (List.range count).map fun k => (runIdx r.start k stride).bind x.frameOf
    if idx.all fun o => o.any fun i => frameDataOk i data then
      some ((idx.filterMap id).foldl (fun (s : State) i => s.putFrame x d i data) s)
    else none

/-- The effect of one record and the frame writes it makes; none is cause RECORD. -/
def State.recEffect (s : State) (prog : Bool) (x : Stream) (r : RecHdr) (body : Bytes) : Option (State × Nat) :=
  let lim := if x.what = .bay ∨ x.what = .repair then 3488 else 409600
  if r.typ = 1 then some (s.modStrm prog fun y => { y with yealms := tput [] y.yealms r.yealm body }, 0)
  else if r.typ = 2 then (s.putRun x r 1 1 body).map fun s => (s, 1)
  else if r.typ = 3 then
    let data := tget [] x.yealms r.yealm
    if data = [] ∨ ¬ runOk r lim then none else (s.putRun x r r.count r.stride data).map fun s => (s, r.count)
  else
    if lim < r.start + r.count then none else (s.putRun x r r.count 1 zeroFrame).map fun s => (s, r.count)

/-- Settings of the image that no frame format describes: block memories, groups, queues, probe channels and bays (02, 03, 04, 13). -/
def State.installDie (s : State) (d : Nat) (img : BitVec 64) : State :=
  let s := (List.range 3072).foldl (fun (s : State) m => s.setBram d m img) s
  let s := (List.range 128).foldl (fun (s : State) g => s.setGroup d g img) s
  s.modDie d fun x =>
    { x with
      gqs := (List.range 128).foldl (fun t q =>
        let c := Config.imageGq img d q
        tput Gq.reset t q { Gq.reset with used := c.1, stampEn := c.2.1, wsel := c.2.2.1, rsel := c.2.2.2.1, marks := c.2.2.2.2.1 &&& marksBits,
                                          feeder := c.2.2.2.2.2.1, reader := c.2.2.2.2.2.2 }) [],
      probe := { x.probe with
        taps := (Config.imageProbe img d).1 % 4097, pins := (Config.imageProbe img d).2,
        sel := (List.range 64).foldl (fun t c =>
          let p := Config.imageProbeSel img d c
          tput ProbeSel.reset t c { tap := p.1, en := p.2.1, dest := p.2.2 }) [] },
      bays := (List.range 96).foldl (fun t b =>
        let c := Config.imageBay img d b
        tput Bay.reset t b { Bay.reset with unused := !c.1, fclkEn := c.2.1, border := c.2.2 }) [] }

/-- END is accepted: P0 ends, a program's header may be written, or a bay is released once its drain has ended. -/
def State.endStream (s : State) (prog : Bool) : State :=
  let s := s.modStrm prog fun y => { y with ended := true, buf := [] }
  if prog then s
  else
    let st := s.cfg.stream
    match st.what with
    | .full =>
      (s.dieList.foldl (fun (s : State) d => s.installDie d s.cfg.bundle) s).modCfg fun c => { c with phase := .p1, phaseAt := s.now }
    | _ =>
      if (s.bay st.die st.bay).drained then s.finishBay else s.modBay st.die st.bay fun x => { x with ready := true }

/-- The END record: its COUNT is the writes made, and nothing stands after it. -/
def State.takeEnd (s : State) (prog : Bool) (x : Stream) (r : RecHdr) : State :=
  let seg := x.segIdx - 1
  if r.count ≠ x.writes % 2 ^ 32 then s.strmFail prog cRecord seg
  else if ¬ x.last ∨ x.buf.length ≠ 16 then s.strmFail prog cEarly seg
  else if x.framesLen ≠ some (x.framesUsed + 16) then s.strmFail prog cFormat seg
  else s.endStream prog

/-- The next record, of the type asked for, or the failure it is. -/
def State.takeRecord (s : State) (prog : Bool) (typ : Nat) : State :=
  let x := s.strm prog
  let seg := x.segIdx - 1
  let r := recHdr x.buf
  let n := 16 + recPayload r.typ
  if x.buf.length < 16 then (if x.last then s.strmFail prog cEarly seg else s)
  else if r.typ = 0 ∨ 5 < r.typ then s.strmFail prog cRecord seg
  else if r.typ ≠ typ then s
  else if x.buf.length < n then (if x.last then s.strmFail prog cEarly seg else s)
  else if x.framesLen.getD 0 < x.framesUsed + n then s.strmFail prog cFormat seg
  else if ¬ recFieldsOk r then s.strmFail prog cRecord seg
  else if typ = 5 then s.takeEnd prog x r
  else
    match s.recEffect prog x r ((x.buf.drop 16).take (n - 16)) with
    | none => s.strmFail prog cRecord seg
    | some (s1, k) =>
      let s2 := s1.modStrm prog fun y => { y with buf := y.buf.drop n, framesUsed := y.framesUsed + n, writes := y.writes + k }
      if x.what = .full then s2.modCfg fun c => { c with frames := c.frames + BitVec.ofNat 64 k } else s2

/-- Records follow the header of the FRAMES section (12 R321). -/
def recordStep (s : State) (prog : Bool) (typ : Nat) : State :=
  let x := s.strm prog
  if ¬ x.isOpen ∨ ¬ x.took ∨ x.ended then s
  else if x.framesLen.isSome then s.takeRecord prog typ
  else if x.buf.length < 16 then (if x.last then s.strmFail prog cEarly (x.segIdx - 1) else s)
  else if numAt x.buf 0 4 ≠ 4 ∨ numAt x.buf 12 4 ≠ 0 then s.strmFail prog cFormat (x.segIdx - 1)
  else (s.modStrm prog fun y => { y with framesLen := some (numAt x.buf 4 8), buf := y.buf.drop 16 }).takeRecord prog typ

def execRecordYealmDef (prog : Bool) (s : State) : Out := .next (recordStep s prog 1).runHeld
def execRecordFrameLit (prog : Bool) (s : State) : Out := .next (recordStep s prog 2).runHeld
def execRecordFramePut (prog : Bool) (s : State) : Out := .next (recordStep s prog 3).runHeld
def execRecordZeroRun (prog : Bool) (s : State) : Out := .next (recordStep s prog 4).runHeld
def execRecordEnd (prog : Bool) (s : State) : Out := .next (recordStep s prog 5).runHeld

/-! ### Pushed bytes (12 R338) -/

/-- Image bytes still to come from a push: all of them before the header is known. -/
def Stream.room (x : Stream) : Nat := if x.header = [] then 512 - x.pushed.length else hdrLen x.header - x.used - x.pushed.length

/-- Bytes join a push; those beyond IMAGE_LEN are ignored. The header is judged as soon as it is whole. -/
def State.takePush (s : State) (prog : Bool) (bs : Bytes) : State :=
  let x := s.strm prog
  let first := bs.take x.room
  let s := s.modStrm prog fun y => { y with pushed := y.pushed ++ first, pushCount := y.pushCount + first.length, pushAt := s.now }
  let s := s.modCfg fun c => { c with pushCount := BitVec.ofNat 64 (s.strm prog).pushCount }
  let y := s.strm prog
  if y.header = [] ∧ 512 ≤ y.pushed.length then
    let s := s.takeHeader prog (y.pushed.take 512)
    let z := s.strm prog
    if z.isOpen ∧ z.header ≠ [] then
      let rest := (bs.drop first.length).take z.room
      (s.modStrm prog fun y => { y with pushed := y.pushed ++ rest, pushCount := y.pushCount + rest.length }).modCfg fun c =>
        { c with pushCount := BitVec.ofNat 64 (z.pushCount + rest.length) }
    else s
  else s

/-- Which stream a source feeds. -/
def State.pushStrm (s : State) (src : Nat) : Option Bool :=
  if s.cfg.stream.isOpen ∧ s.cfg.stream.src = src then some false
  else if s.cfg.prog.isOpen ∧ s.cfg.prog.src = src then some true
  else none

/-- A write of CFG_PUSH: 8 bytes only; while a push is open, from the sender's opener and the built-in masters alone. -/
def cfgPush (w : Who) (s : State) (eight : Bool) (v : Nat) : RegRes :=
  if ¬ eight then regErr s
  else match s.pushStrm 2 with
    | none => regOk s 0
    | some p =>
      if builtIn w.src ∨ (s.strm p).pushMid = some w.src then regOk (s.takePush p (leBytes 8 v)).runHeld 0 else regDenied s

/-- An access of the configuration controller's block (12 R340). -/
def cfgReg (w : Who) (s : State) (off : Nat) (write eight : Bool) (v : Nat) : RegRes :=
  if write then (if off = 0x030 ∨ off = 0x034 then cfgPush w s (eight && off == 0x030) v else regOk s 0)
  else regOk s (words s.cfgRead off eight)

def execCfgPush (w : Who) (data : BitVec 64) (s : State) : Out :=
  .next (s.access w (hubBase 7 + 0x030) true fun s => cfgReg w s 0x030 true true data.toNat)

/-- A whole segment waits in the staging buffer. -/
def Stream.staged (x : Stream) : Bool :=
  x.header != [] && decide (4 ≤ x.pushed.length) && decide (20 + numAt x.pushed 0 4 ≤ x.pushed.length)

/-- The sender of the load or program alone sends IMAGE_DATA. -/
def imageDataMay (s : State) (m : Nat) (_ : Request) : Bool := match s.pushStrm 3 with
  | some p => (s.strm p).mbx.any fun t => t / 65536 == s.sid m
  | none => true

def cmdImageData : Command where
  code := 0x0102
  may := imageDataMay
  argOk _ r := decide (8 ≤ r.len) && r.len % 8 == 0
  body s _ r :=
    match s.pushStrm 3 with
    | none => (s, bare stState)
    | some p =>
      if (s.strm p).staged then (s, bare stBusy) else ((s.takePush p r.arg).runHeld, okReply [])

def execImageData (m : Nat) (s : State) : Out := .next (cmdImageData.serve m s)

/-- PUSH_TIMEOUT: no byte for 10 s while bytes are still to come (12 R338). -/
def execPushTimeout (prog : Bool) (s : State) : Out :=
  let x := s.strm prog
  .next (if x.pushes ∧ ¬ x.last ∧ 0 < x.room ∧ ¬ x.staged ∧ x.pushAt + 10000 * psMs ≤ s.now then (s.strmFail prog cPushTimeout x.segIdx).runHeld else s)

/-! ### LOAD_IMAGE and SLOT_PROGRAM (12 R336 to R339) -/

/-- The running package is torn down: every session but the sender's closes, and the image goes with all that ran under it. -/
def State.tearDown (s : State) (keep : Nat) : State :=
  let s := (s.sessions.filter (· ≠ keep)).foldl (fun (s : State) i => s.endSession i) s
  let s := (s.unload.setGstate .recovery).endCommands keep
  s.modCfg fun c => { c with keepSess := some keep, keepClosing := false, nextSlots := [], cfgErr := c.cfgErr, reached := false }

/-- The load that a LOAD_IMAGE answered OK starts. -/
def State.commandLoad (s : State) (m : Nat) (hdr : Bytes) : State :=
  let r := (s.mbx m).request
  let src := r.num 0 1
  let opener := (s.mbx m).opener
  let tok := s.token m r
  let s := s.tearDown (s.sid m)
  let s := if src < 2 then s.modSlot src fun x =>
      { x with header := hdr, valid := s.slotCause hdr == cNone, seq := if s.slotCause hdr = cNone then BitVec.ofNat 64 (hdrSeq hdr) else 0 } else s
  let s := (s.beginLoad src [] (some opener) (some tok)).admitPush src opener
  if src < 2 then s.takeHeader false hdr else s

def cmdLoadImage (hdr : Bytes) : Command where
  code := 0x0101
  may := needCorRecovery
  argOk _ r := lenIs 4 r && r.zero 1 3 && decide (r.num 0 1 ≤ 3)
  body s _ r :=
    if s.cfg.stream.isOpen ∨ (s.cfg.phase ≠ .running ∧ s.cfg.phase ≠ .recovery) then (s, bare stBusy)
    else if r.num 0 1 < 2 ∧ ¬ s.cfg.flash0 then (s, bare stState)
    else (s, okReply [])
  after s m := s.commandLoad m hdr

def execLoadImage (m : Nat) (hdr : List (BitVec 8)) (s : State) : Out := .next ((cmdLoadImage hdr).serve m s)

def slotProgramBody (s : State) (m : Nat) (r : Request) : State × Reply :=
  let slot := r.num 0 1; let src := r.num 1 1
  if (s.cfg.stream.isOpen ∧ s.cfg.stream.what = .full) ∨ (s.cfg.phase ≠ .running ∧ s.cfg.phase ≠ .recovery) then (s, bare stState)
  else if ¬ s.cfg.flash0 ∨ (s.cfg.phase = .running ∧ s.cfg.slot.toNat = slot) then (s, bare stState)
  else if s.cfg.prog.isOpen ∨ s.srcBusy src then (s, bare stBusy)
  else
    let opener := (s.mbx m).opener
    let st : Stream :=
      { isOpen := true, what := .program, src := src, slot := slot, pushAt := s.now, pushMid := some opener, mbx := some (s.token m r) }
    ((s.modCfg fun c => { c with prog := st, pushCount := 0 }).admitPush src opener, bare stAccepted)

def cmdSlotProgram : Command where
  code := 0x0103
  async := true
  may := needCorRecovery
  argOk _ r := lenIs 4 r && r.zero 2 2 && decide (r.num 0 1 < 2) && (r.num 1 1 == 2 || r.num 1 1 == 3)
  body := slotProgramBody

def execSlotProgram (m : Nat) (s : State) : Out := .next (cmdSlotProgram.serve m s)

/-- SLOT_PROGRAM_END: every check passed and the header has been written last. -/
def execSlotProgramEnd (s : State) : Out :=
  .next (
    let x := s.cfg.prog
    if x.isOpen ∧ x.ended then
      let s := s.modSlot x.slot fun y =>
        { y with valid := true, erased := false, header := x.header, seq := BitVec.ofNat 64 (hdrSeq x.header) }
      ((s.closeStrm true).completeOpt x.mbx stOk (causeBytes cNone)).runHeld
    else s)

end Sys2Proof.Machine
end

