-- ==== Sys2Proof/Machine/Bays.lean ====
section
/-! DEFINITION. Bay and scrub commands, Leggett, and their registers (02 R59, R60, R72; 13 R349 to R367). -/

namespace Sys2Proof.Machine

/-! ### Arguments and checks common to the bay commands -/

def bayD (r : Request) : Nat := r.num 0 1
def bayB (r : Request) : Nat := r.num 1 1
def bayArgOk (s : State) (r : Request) : Bool := decide (bayD r < s.fdies) && decide (bayB r < 96)

/-- In recovery these commands are answered STATE, whoever sends them (12 R335). -/
def needCorRom (s : State) (m : Nat) (_ : Request) : Bool := s.hasRole m roleC || s.gable.gstate == .recovery
def State.inRom (s : State) : Bool := s.gable.gstate == .recovery

/-- A load, enable or restore of the bay runs (13 R356; 02 R60); a repair does not make its bay busy before the bay is LOADING (13 Table 13.7). -/
def State.bayBusy (s : State) (d b : Nat) : Bool := (s.bay d b).runCmd.isSome

/-- A load or repair of the bay is in its step 1. -/
def State.inStep1 (s : State) (d b : Nat) : Bool :=
  (s.cfg.stream.isOpen && s.cfg.stream.what != .full && s.cfg.stream.untouched && s.cfg.stream.die == d && s.cfg.stream.bay == b)

/-- A load or enable is held behind the running shut-down; the bay holds one at a time (13 R356). -/
def State.holdBay (s : State) (m : Nat) (r : Request) (d b : Nat) : State × Reply :=
  if (s.bay d b).held.isSome then (s, bare stBusy)
  else
    (s.modBay d b fun x =>
      { x with pendingEnable := true,
               held := some { mbx := s.token m r, cmd := BitVec.ofNat 16 r.cmd, seq := BitVec.ofNat 16 r.seq, arg := r.arg } }, bare stAccepted)

/-! ### Commands (13 Table 13.5, Table 13.7) -/

def bayLoadBody (s : State) (m : Nat) (r : Request) : State × Reply :=
  let d := bayD r; let b := bayB r
  if s.inRom ∨ s.fenced d then (s, bare stState)
  else if s.bayBusy d b ∨ ¬ s.ctrlFree ∨ s.srcBusy (r.num 2 1) then (s, bare stBusy)
  else match (s.bay d b).state with
    | .empty | .active | .down => (s.startLoad d b (s.token m r) r.arg, bare stAccepted)
    | .loading | .restoring => (s, bare stBusy)
    | .shutting => s.holdBay m r d b
    | .deep => (s, bare stState)

def cmdBayLoad : Command where
  code := 0x0104
  async := true
  may := needCorRom
  argOk s r := lenIs 20 r && bayArgOk s r && decide (2 ≤ r.num 2 1) && decide (r.num 2 1 ≤ 4) && decide (r.num 3 1 < 2)
  body := bayLoadBody

def execBayLoad (m : Nat) (s : State) : Out := .next (cmdBayLoad.serve m s)

def bayShutdownBody (s : State) (m : Nat) (r : Request) : State × Reply :=
  let d := bayD r; let b := bayB r; let wipe := r.num 2 1 == 1
  if s.inRom ∨ s.fenced d then (s, bare stState)
  else if s.bayBusy d b then (s, bare stBusy)
  else match (s.bay d b).state with
    | .empty => (s, okReply [])
    | .active => (s.startShut d b wipe false [s.token m r], bare stAccepted)
    | .loading | .restoring => (s, bare stBusy)
    | .shutting =>
      (s.modBay d b fun x => { x with shutWipe := x.shutWipe || wipe, shutCmds := x.shutCmds ++ [s.token m r] }, bare stAccepted)
    | .down =>
      if wipe then
        let s := s.startShut d b true false [s.token m r]
        (if (s.bay d b).drained then s.shutEndBay d b else s, bare stAccepted)
      else (s, okReply [])
    | .deep => (s, bare stState)

def cmdBayShutdown : Command where
  code := 0x0105
  async := true
  may := needCorRom
  argOk s r := lenIs 4 r && bayArgOk s r && decide (r.num 2 1 < 2) && r.zero 3 1
  body := bayShutdownBody

def execBayShutdown (m : Nat) (s : State) : Out := .next (cmdBayShutdown.serve m s)

def bayRestoreBody (s : State) (m : Nat) (r : Request) : State × Reply :=
  let d := bayD r; let b := bayB r
  if s.inRom ∨ s.fenced d then (s, bare stState)
  else if s.bayBusy d b then (s, bare stBusy)
  else match (s.bay d b).state with
    | .active =>
      ((s.clampBay d b true).modBay d b fun x => { x with state := .restoring, runCmd := some (s.token m r, 0x0106) }, bare stAccepted)
    | .restoring => (s, bare stBusy)
    | _ => (s, bare stState)

def cmdBayRestore : Command where
  code := 0x0106
  async := true
  argOk s r := lenIs 4 r && bayArgOk s r && r.zero 2 2
  body := bayRestoreBody

def execBayRestore (m : Nat) (s : State) : Out := .next (cmdBayRestore.serve m s)

def bayEnableBody (s : State) (m : Nat) (r : Request) : State × Reply :=
  let d := bayD r; let b := bayB r
  if s.inRom ∨ s.fenced d then (s, bare stState)
  else if s.bayBusy d b then (s, bare stBusy)
  else match (s.bay d b).state with
    | .empty | .deep => (s, bare stState)
    | .active => (s, okReply (causeBytes cNone))
    | .loading | .restoring => (s, bare stBusy)
    | .shutting => s.holdBay m r d b
    | .down => (s.startEnable d b (s.token m r), bare stAccepted)

def cmdBayEnable : Command where
  code := 0x0107
  async := true
  may := needCorRom
  argOk s r := lenIs 4 r && bayArgOk s r && r.zero 2 2
  body := bayEnableBody

def execBayEnable (m : Nat) (s : State) : Out := .next (cmdBayEnable.serve m s)

def BayState.code : BayState → Nat
  | .empty => 0 | .active => 1 | .loading => 2 | .restoring => 3 | .shutting => 4 | .down => 5 | .deep => 6

def Bay.statusReg (x : Bay) : Nat :=
  x.state.code + atBit x.pendingEnable 3 + atBit x.repair 4 + atBit x.ueKnown 5 + atBit x.source.isSome 6 + atLo x.cause.toNat 8
def Bay.cntReg (x : Bay) : Nat := x.loads.toNat + atLo x.repairs.toNat 16

def cmdBayStatus : Command where
  code := 0x0108
  argOk s r := lenIs 4 r && bayArgOk s r && r.zero 2 2
  body s _ r :=
    let x := s.bay (bayD r) (bayB r)
    if s.inRom then (s, bare stState)
    else (s, okReply (leBytes 4 x.statusReg ++ leBytes 4 0 ++ leBytes 8 x.ident.toNat ++ leBytes 4 x.cntReg ++ leBytes 4 x.corr.toNat))

def execBayStatus (m : Nat) (s : State) : Out := .next (cmdBayStatus.serve m s)

def cmdBayRepairSrc : Command where
  code := 0x0109
  may := needCorRom
  argOk s r := lenIs 20 r && bayArgOk s r && r.zero 2 2
  body s m r :=
    if s.inRom then (s, bare stState)
    else
      (s.modBay (bayD r) (bayB r) fun x =>
        { x with source := if r.num 12 8 = 0 then none else some (r.num 4 8, r.num 12 8, s.sid m) }, okReply [])

def execBayRepairSrc (m : Nat) (s : State) : Out := .next (cmdBayRepairSrc.serve m s)

/-- BAY_REPAIR_START: the oldest detection whose bay is ACTIVE, or whose enable waits for it, is repaired once the controller is free and the
    core runs (13 R360, R365). -/
def bayRepairStart (s : State) : State :=
  match s.cfg.repairQ with
  | [] => s
  | (d, b) :: rest =>
    if s.gable.gstate ≠ .running ∨ ¬ s.ctrlFree then s
    else
      let s := s.modCfg fun c => { c with repairQ := rest }
      let x := s.bay d b
      if s.fenced d ∨ ¬ x.ueKnown then s
      else if x.state = .active ∨ (x.state = .down ∧ x.runCmd.isSome) then s.repairBay d b
      else s

def execBayRepairStart (s : State) : Out := .next (bayRepairStart s)

/-! ### SCRUB_CTRL (13 R364) -/

/-- LG_CFG takes new periods and enables; a new pass of each scrub starts at once. -/
def Leggett.setCtrl (l : Leggett) (en cfgMs memMs now : Nat) (go : Bool) : Leggett :=
  let l := { l with cfg := BitVec.ofNat 32 (cfgMs + atBit (bitOf en 0) 14 + atBit (bitOf en 1) 15 + atLo memMs 16) }
  if go then l.start now else l

/-- Leggett runs: an image runs and LCLK of the die has not failed. -/
def State.lclkRuns (s : State) (d : Nat) : Bool := s.cfg.phase == .running && s.nodeGood (d * 0x1000 + 0x900) && s.dieAwake d

def cmdScrubCtrl : Command where
  code := 0x010A
  may := needCorRom
  argOk s r :=
    lenIs 8 r && (decide (r.num 0 1 < s.fdies) || r.num 0 1 == 0xFF) && decide (r.num 1 1 < 4) && r.zero 2 2 &&
    decide (40 ≤ r.num 4 2) && decide (r.num 4 2 ≤ 10000) && decide (200 ≤ r.num 6 2) && decide (r.num 6 2 ≤ 60000)
  body s _ r :=
    if s.inRom then (s, bare stState)
    else
      let ds := if r.num 0 1 = 0xFF then s.dieList else [r.num 0 1]
      (ds.foldl (fun (s : State) d =>
        let go := s.lclkRuns d
        s.modLeggett d fun l => l.setCtrl (r.num 1 1) (r.num 4 2) (r.num 6 2) s.now go) s, okReply [])

def execScrubCtrl (m : Nat) (s : State) : Out := .next (cmdScrubCtrl.serve m s)

/-! ### The configuration scrub (13 R357 to R362) -/

/-- An event of Leggett; while the gable core is halted it waits (13 R365). -/
def State.lgEvent (s : State) (d evid data : Nat) (note : LogEntry) : State :=
  let e := s.mkEvent d evid data (some (note.byScrub true))
  if s.gable.gstate = .halted then s.modLeggett d fun l => { l with waiting := l.waiting ++ [e] }
  else s.inject d 5 7 (eventPkt e (Config.controlPortSrc d) (hubDest 2) true)

/-- A log entry of Leggett that no event carries; while the gable core is halted it waits, as an event of no EVID (13 R365). -/
def State.lgNote (s : State) (d : Nat) (note : LogEntry) : State :=
  if s.gable.gstate = .halted then s.modLeggett d fun l => { l with waiting := l.waiting ++ [s.mkEvent d noEvid 0 (some (note.byScrub true))] }
  else s.logNote (note.byScrub true)

/-- The bay of a frame; none in the static region. -/
def bayOfFrame (i : Nat) : Option Nat := if i < 221184 then some (i / 2304) else none

/-- A frame that Leggett skips: its bay is LOADING or DEEP (13 Table 13.2). -/
def State.skipsFrame (s : State) (d i : Nat) : Bool := match bayOfFrame i with
  | some b => (s.bay d b).state == .loading || (s.bay d b).state == .deep
  | none => false

/-- CFG_PERIOD and MEM_PERIOD in ps. -/
def Leggett.cfgPs (l : Leggett) : Nat := bitsOf l.cfg.toNat 0 14 * psMs
def Leggett.memPs (l : Leggett) : Nat := bitsOf l.cfg.toNat 16 16 * psMs

/-- A correctable frame: corrected in place, counted, logged; CFG_CORR at most once per 1 ms. -/
def State.frameCorr (s : State) (d i word : Nat) : State :=
  let l := (s.die d).leggett
  let evid := evidOf d 0x07 0
  let s := s.modDie d fun x => { x with frames := tmod CfgFrame.reset x.frames i fun (f : CfgFrame) => { f with singles := [] } }
  let s := s.modLeggett d fun l => { l with cfgCorr := satInc l.cfgCorr }
  let s := match bayOfFrame i with
    | some b => s.modBay d b fun x => { x with corr := satInc x.corr }
    | none => s
  if l.corrAt.all fun t => decide (t + psMs ≤ s.now) then
    (s.modLeggett d fun l => { l with corrAt := some s.now }).lgEvent d evid i (mkEntry 0x07 1 evid (d + atLo i 4) word)
  else s.lgNote d (mkEntry 0x07 1 noEvid (d + atLo i 4) word)

/-- An uncorrectable frame of a bay: CFG_UE, UE_KNOWN, and a repair when the bay is ACTIVE. -/
def State.frameUe (s : State) (d i b : Nat) : State :=
  let evid := evidOf d 0x08 0
  let s := s.modLeggett d fun l => { l with cfgUe := satInc l.cfgUe }
  let s := s.lgEvent d evid i (mkEntry 0x08 2 evid (d + atLo i 4) b)
  let x := s.bay d b
  let s := s.modBay d b fun x => { x with ueKnown := true }
  if x.state = .active ∧ ¬ s.cfg.repairQ.contains (d, b) ∧ ¬ s.fenced d ∧ ¬ s.bayBusy d b ∧ ¬ s.inStep1 d b then
    s.modCfg fun c => { c with repairQ := c.repairQ ++ [(d, b)] }
  else s

/-- A die is fenced: every bay clamped, its port drained and its slices halted; user I/O in their safe states; timing pins schedule nothing
    (13 R362). -/
def State.fenceDie (s : State) (d : Nat) : State :=
  if s.fenced d then s
  else
    let s := s.holdPads d fun _ => true
    let s := (List.range 96).foldl (fun (s : State) b => if (s.bay d b).clamped then s else s.clampBay d b true) s
    let s := (List.range 32).foldl (fun (s : State) g => (s.unfreeze d (96 + g)).slBits d (96 + g) [] (groupSlices (96 + g))) s
    s.modLeggett d fun l => { l with fenced := true }

/-- An uncorrectable frame of the static region (13 R362). -/
def State.staticUe (s : State) (d i : Nat) : State :=
  let evid := evidOf d 0x09 0
  let s := s.modLeggett d fun l => { l with cfgUe := satInc l.cfgUe }
  ((s.lgEvent d evid i (mkEntry 0x09 3 evid (d + atLo i 4) 0)).modCfg fun c => { c with cfgErr := true }).fenceDie d

/-- The frame index moves on; after the last frame a pass is complete. -/
def Leggett.nextFrame (l : Leggett) (now : Nat) : Leggett :=
  if l.frame + 1 < 262144 then { l with frame := l.frame + 1 }
  else
    let onTime := decide (now ≤ l.passAt + l.cfgPs)
    { l with frame := 0, passes := l.passes + 1, last := BitVec.ofNat 32 ((if onTime then l.cfgPs else now - l.passAt) / psUs),
             passAt := if onTime then l.passAt + l.cfgPs else now }

/-- The frame that is read next: those of a bay or die that woke from DEEP come before the pass goes on (13 R365). -/
def Leggett.current (l : Leggett) : Nat := match l.first with
  | (i, _) :: _ => i
  | [] => l.frame

/-- The instant from which it may be read: at once after a wake, else in its slot of the pass (13 R357). -/
def Leggett.slotAt (l : Leggett) : Nat := if l.first = [] then l.passAt + l.frame * l.cfgPs / 262144 else 0

/-- The index moves on, in the first range or in the pass. -/
def Leggett.advance (l : Leggett) (now : Nat) : Leggett := match l.first with
  | (i, e) :: rest => { l with first := if i + 1 < e then (i + 1, e) :: rest else rest }
  | [] => l.nextFrame now

/-- LEGGETT_FRAME_READ: the next frame of the pass, in its time slot, judged with what has upset it. -/
def leggettFrameRead (s : State) (d : Nat) (u : FrameUpset) : State :=
  let l := (s.die d).leggett
  let i := l.current
  if s.fdies ≤ d ∨ ¬ l.cfgRun ∨ ¬ s.lclkRuns d ∨ s.now < l.slotAt then s
  else
    let s := s.modLeggett d fun l => l.advance s.now
    if s.skipsFrame d i then s
    else
      let s := if u.singles = [] ∧ ¬ u.bad then s else
        s.modDie d fun x => { x with frames := tmod CfgFrame.reset x.frames i fun (f : CfgFrame) =>
          { f with singles := (u.singles.filter fun w => decide (w < 64) && !f.singles.contains w) ++ f.singles, bad := f.bad || u.bad } }
      let f := tget CfgFrame.reset (s.die d).frames i
      if f.bad then (match bayOfFrame i with
        | some b => s.frameUe d i b
        | none => s.staticUe d i)
      else match f.singles with
        | [] => s
        | w :: ws => s.frameCorr d i (ws.foldl min w)

def execLeggettFrameRead (die : Nat) (u : FrameUpset) (s : State) : Out := .next (leggettFrameRead s die u)

/-! ### The memory scrub (13 R363) -/

def memKindNum : MemKind → Nat
  | .bram => 0 | .gq => 1 | .sliceX => 2 | .sliceY => 3 | .sliceI => 4
/-- Memories of a kind on a die, and the words of one. -/
def memKindCount : MemKind → Nat
  | .bram => 3072 | .gq => 128 | _ => 2048
def memKindWords : MemKind → Nat
  | .bram => 1024 | .gq => 2048 | .sliceX => 2048 | .sliceY => 2048 | .sliceI => 1024

/-- Clock edges reach a memory's bay, and its contents are not being rewritten. -/
def State.scrubbable (s : State) (d : Nat) (k : MemKind) (i : Nat) : Bool :=
  let b := match k with
    | .bram => bramBay i
    | .gq => none
    | _ => if i / 16 < 96 then some (i / 16) else none
  match b with
  | some b => (s.bay d b).state != .deep && (s.bay d b).state != .loading
  | none => true

/-- What a word's check gives: whether it was corrected, whether it fails. -/
def findOf (h : Health) : Bool × Bool := (h == .single, h == .double)

/-- What a visit finds where the address decoder returns another word of `n`: the word itself is untouched, the check fails or finds nothing
    (03 R80; 04 R114). -/
def scrubAlias (w : Nat) (u : Sys2Proof.Upset) (n : Nat) : Option Bool := match u with
  | .other w' => some (addrFails w (w' % n))
  | _ => none

/-- Single wrong bits of an entry written back corrected. -/
def GqEntry.scrubbed (e : GqEntry) : GqEntry :=
  { e with health := if e.health = .single then .good else e.health, shealth := if e.shealth = .single then .good else e.shealth }

/-- An entry of a queue: its data and its stamp corrected, or the entry marked (03 R95). -/
def State.scrubGq (s : State) (d q j : Nat) (u su : Sys2Proof.Upset) : State × Bool × Bool :=
  match (s.gq d q).entries[j]? with
  | none => (s, false, false)
  | some e =>
    let f := e.find u su s.freeVal (s.freeValAt 1)
    let s := s.drew 2
    let bad := f.bad && !e.marked
    let s := s.modGq d q fun g =>
      let g := { g with entries := g.entries.set j { f.entry.scrubbed with marked := e.marked || f.bad }, ueSeen := g.ueSeen || bad }
      if f.single then g.correct else g
    (if bad then s.lgEvent d (evidOf d 5 0) (q + atLo e.slot.toNat 7) (mkEntry 0x05 2 (evidOf d 5 0) (d + atLo q 4) e.slot.toNat) else s,
     f.single, bad)

/-- BRAM_UE of a scrub visit. -/
def State.scrubBramUe (s : State) (d i w : Nat) : State :=
  s.lgEvent d (evidOf d 4 0) (i + atLo w 12) (mkEntry 0x04 2 (evidOf d 4 0) (d + atLo i 4) w)

/-- A word of a block memory: corrected in place; the unwritten mark is skipped. -/
def State.scrubBram (s : State) (d i w : Nat) (u : Sys2Proof.Upset) : State × Bool × Bool :=
  match scrubAlias w u 1024 with
  | some bad => (if bad then s.scrubBramUe d i w else s, false, bad)
  | none =>
    let x := (tget markWord (s.bram d i).words w).struck u s.freeVal
    let h := x.health
    let s := s.drew 1
    let s := s.modBram d i fun b => { b with words := tput markWord b.words w (if h = .single then goodWord x.data else x) }
    (if h = .double then s.scrubBramUe d i w else s, findOf h)

/-- SLICE_UE of a scrub visit. -/
def State.scrubSliceUe (s : State) (d i mem w : Nat) : State :=
  s.lgEvent d (evidOf d 6 0) (i + atLo mem 11) (mkEntry 0x06 2 (evidOf d 6 0) (d + atLo i 4 + atLo mem 15 + atLo 2 17) w)

/-- A word of a slice memory: an instruction word is written back only while the slice is HALTED. -/
def State.scrubSlice (s : State) (d i : Nat) (k : MemKind) (w : Nat) (u : Sys2Proof.Upset) : State × Bool × Bool :=
  let m := s.slice d i
  let mem := memKindNum k - 2
  match scrubAlias w u (memKindWords k) with
  | some bad => (if bad then s.scrubSliceUe d i mem w else s, false, bad)
  | none =>
    let blank := if k = .sliceI then s.imBlank d i else s.slBlank d i
    let t := if k = .sliceX then m.xmem else if k = .sliceY then m.ymem else m.imem
    let x := tget blank t w
    let h := x.health.hit u
    let back := k != .sliceI || m.run == .halted
    let t' := tput blank t w { x with health := if h = .single ∧ back then .good else h }
    let s := s.modSlice d i fun m =>
      if k = .sliceX then { m with xmem := t' } else if k = .sliceY then { m with ymem := t' } else { m with imem := t' }
    (if h = .double then s.scrubSliceUe d i mem w else s, findOf h)

/-- A pass of the memory scrub ends after MEM_PERIOD: memories that missed visits and were not covered count as starved. -/
def Leggett.memPass (l : Leggett) (now : Nat) : Leggett :=
  if now < l.memAt + l.memPs then l
  else
    let short (key : Nat) : Bool :=
      let n := if key / 8192 = 0 ∨ key / 8192 = 4 then 1024 else 2048
      decide (tget 0 l.memPos key < n)
    let starved := (l.memTry.filter fun e => decide (tget 0 l.memPos e.1 < e.2) && short e.1).length
    { l with memPasses := l.memPasses + 1, starved := BitVec.ofNat 16 starved, memPos := [], memTry := [], memAt := l.memAt + l.memPs }

/-- LEGGETT_MEM_VISIT: the next word of a memory, in a cycle its user ports leave free, every MEM_PERIOD / 4,096. -/
def leggettMemVisit (s : State) (d : Nat) (k : MemKind) (i : Nat) (u su : Sys2Proof.Upset) (freeCycle : Bool) : State :=
  if s.fdies ≤ d ∨ memKindCount k ≤ i ∨ ¬ (s.die d).leggett.memRun ∨ ¬ s.lclkRuns d then s
  else
    let s := s.modLeggett d fun l => l.memPass s.now
    let l := (s.die d).leggett
    let key := 8192 * memKindNum k + i
    let tries := tget 0 l.memTry key
    if s.now < l.memAt + tries * l.memPs / 4096 ∨ ¬ s.scrubbable d k i then s
    else
      let s := s.modLeggett d fun l => { l with memTry := tput 0 l.memTry key (tries + 1) }
      if ¬ freeCycle then s.modLeggett d fun l => { l with memMiss := satInc l.memMiss }
      else
        let w := tget 0 l.memPos key % memKindWords k
        let s := s.modLeggett d fun l => { l with memPos := tmod 0 l.memPos key (· + 1) }
        let r := match k with
          | .bram => s.scrubBram d i w u
          | .gq => s.scrubGq d i (w % max 1 (s.gq d i).entries.length) u su
          | k => s.scrubSlice d i k w u
        r.1.modLeggett d fun l =>
          { l with memCorr := if r.2.1 then satInc l.memCorr else l.memCorr, memUe := if r.2.2 then satInc l.memUe else l.memUe }

def execLeggettMemVisit (die : Nat) (kind : MemKind) (idx : Nat) (u su : Upset) (freeCycle : Bool) (s : State) : Out :=
  .next (leggettMemVisit s die kind idx u su freeCycle)

/-! ### PROBE_SELECT (02 R72) -/

/-- PROBE_SELECT. The spec gives the refusal of a channel with DEST = 1 while ARMED as TGTERR of a register write only; the command is answered
    STATE. DESIGN CHOICE (log 150). -/
def cmdProbeSelect : Command where
  code := 0x0110
  may := needCorRom
  argOk s r :=
    lenIs 8 r && decide (r.num 0 1 < s.fdies) && decide (r.num 1 1 < 64) && decide (r.num 2 2 < 4096) && decide (r.num 4 1 < 2) &&
    decide (r.num 5 1 < 2) && r.zero 6 2
  body s _ r :=
    if s.inRom then (s, bare stState)
    else match probeSelWrite s (r.num 0 1) (r.num 1 1) (r.num 2 2 + atLo (r.num 4 1) 12 + atLo (r.num 5 1) 13) with
      | some s' => (s', okReply [])
      | none => (s, bare stState)

def execProbeSelect (m : Nat) (s : State) : Out := .next (cmdProbeSelect.serve m s)

/-! ### Rows and registers (13 R366, R367) -/

def execPortDrainEnd (die bay : Nat) (s : State) : Out := .next (portDrainEnd s die bay).runHeld

def State.bayRead (s : State) (d b off : Nat) : Nat :=
  let x := s.bay d b
  if off = 0x00 then x.statusReg
  else if off = 0x08 then x.border.toNat % 2 ^ 32
  else if off = 0x0C then x.border.toNat / 2 ^ 32
  else if off = 0x10 then x.ident.toNat % 2 ^ 32
  else if off = 0x14 then x.ident.toNat / 2 ^ 32
  else if off = 0x18 then x.fclkEn.toNat
  else if off = 0x1C then x.cntReg
  else if off = 0x20 then x.corr.toNat
  else 0

/-- An access within the bays sub-block: bay b at b x 0x100; all registers are RO. -/
def bayReg (s : State) (d off : Nat) (write eight : Bool) : RegRes :=
  if write ∨ 96 ≤ off / 0x100 then regOk s 0 else regOk s (words (s.bayRead d (off / 0x100)) (off % 0x100) eight)

def State.lgRead (s : State) (d off : Nat) : Nat :=
  let l := (s.die d).leggett
  if off = 0x00 then
    bnat (l.cfgRun && s.lclkRuns d) + atBit (l.memRun && s.lclkRuns d) 1 + atBit l.fenced 2 +
      atBit (s.gable.gstate == .halted) 3
  else if off = 0x04 then l.cfg.toNat
  else if off = 0x08 then l.current
  else if off = 0x0C then l.passes.toNat
  else if off = 0x10 then l.last.toNat
  else if off = 0x14 then l.cfgCorr.toNat
  else if off = 0x18 then l.cfgUe.toNat
  else if off = 0x1C then l.memPasses.toNat
  else if off = 0x20 then l.memCorr.toNat
  else if off = 0x24 then l.memUe.toNat
  else if off = 0x28 then l.memMiss.toNat
  else if off = 0x2C then l.starved.toNat
  else 0

def lgReg (s : State) (d off : Nat) (write eight : Bool) : RegRes := if write then regOk s 0 else regOk s (words (s.lgRead d) off eight)

end Sys2Proof.Machine
end

