-- ==== Sys2Proof/Machine/Clocks.lean ====
section
/-! DEFINITION. Clock nodes at work: failure, safe states, fallback, switching, and the clock commands (18 R461 to R468, R477). -/

namespace Sys2Proof.Machine

/-! ### Frequencies (18 Table 18.1; 14 R368; 09 R231) -/

/-- A running node's frequency, kHz: measured when it started, derived for channels and lanes (14 R368; 09 R231). -/
def State.nodeKhz (s : State) (c : Nat) : Nat :=
  let ty := codeType c
  if ty = 6 then (let r := (s.declOf (codeIdx c)).rate; if r = 0 then 2400000 else if r = 1 then 2800000 else 3200000)
  else if ty = 0xC then 1200000
  else if ty = 0xA ∨ ty = 0xB then s.laneKhz (laneOfNode c)
  else (s.node c).freq.toNat

def NodeState.code : NodeState → Nat
  | .stopped => 0 | .running => 1 | .failed => 2 | .switching => 3 | .holdover => 4 | .starting => 5

/-! ### Failure (18 R462) -/

/-- The monitor watches a node: every node but AOCLK and DBGCLK, not stopped by the power controller and not declared failed already. -/
def State.monitored (s : State) (c : Nat) : Bool :=
  let ty := codeType c
  s.hasClock c && ty != 0 && ty != 5 &&
  (if ty = 6 ∨ ty = 0xA ∨ ty = 0xB ∨ ty = 0xC then s.nodeState c != .stopped && !(s.node c).failed
   else (s.node c).state != .stopped && (s.node c).state != .failed)

/-- CLOCK_FAIL of a node, with its log entry (18 R462; 19 Table 19.3 type 0x0E). -/
def State.raiseClockFail (s : State) (c : Nat) : State :=
  let d := codeDie c
  let evid := evidOf d 0x0C 0x3A9
  s.raiseEvent d evid c (some (mkEntry 0x0E 2 evid (d + atLo c 4) (s.node c).source.toNat))

/-- A node is declared failed: FAILS, the event and the entry; a pending switch away from it may be forced; an input that fed it is
    known to have stopped. -/
def State.declareFailed (s : State) (c : Nat) : State :=
  let s := s.raiseClockFail c
  let s := match outsideOf c (s.node c).source.toNat with
    | some k => if s.srcAlive k then s.modClk fun x => { x with deadSrc := x.deadSrc ++ [k] } else s
    | none => s
  s.modNode c fun n => { n with failed := true, state := .failed, fails := satInc n.fails, forceOk := n.selMbx.isSome }

/-! ### Switching (18 R466 to R468) -/

/-- A source is taken: the CLK_SELECT that named it completes; a switch of PREF starts MEASURE again without a step on every aligned die
    (18 R465), and the port whose recovered clock PREF takes is held at LP_SEL 0 (18 R456). -/
def State.takeSource (s : State) (c : Nat) (src : BitVec 6) : State :=
  let n := s.node c
  let mine := n.newSource == some src
  let s := s.modNode c fun n =>
    { n with source := src, state := .running, forceOk := false, freq := BitVec.ofNat 32 (s.sourceKhz c src.toNat),
             newSource := if mine then none else n.newSource, selMbx := if mine then none else n.selMbx }
  let s := if c = prefCode then
      let s := s.dieList.foldl (fun (s : State) d => s.remeasure d) s
      if src = 1 then s.modLaneset 144 fun x => { x with lpSel := 0 } else if src = 2 then s.modLaneset 145 fun x => { x with lpSel := 0 } else s
    else s
  if mine then s.completeOpt n.selMbx stOk [] else s

/-- The hardware takes the fallback at the declaration, where there is one and it runs (18 R468); it is then no fallback any more. -/
def State.takeFallback (s : State) (c : Nat) : State :=
  let n := s.node c
  if n.fallback ≠ noFallback ∧ n.fallback ≠ n.source ∧ s.sourceFits c n.fallback.toNat ∧ s.sourceRuns c n.fallback.toNat then
    (s.modNode c fun n => { n with fallback := noFallback }).takeSource c n.fallback
  else s

/-! ### Safe states (18 R464, R465) -/

/-- An FCLK net fails: the pins on it keep what HOLD says. -/
def State.failNet (s : State) (c : Nat) : State :=
  if s.monitored c then ((s.holdPads (codeDie c) fun p => s.pinNet (codeDie c) p == codeIdx c).declareFailed c).takeFallback c else s

/-- The FCLK nets of a die that satisfy a condition on their source fail. -/
def State.failNets (s : State) (d : Nat) (on : Nat → Bool) : State :=
  ((List.range 32).map fun i => d * 0x1000 + 0xD00 + i).foldl (fun (s : State) c =>
    if on (s.node c).source.toNat then s.failNet c else s) s

/-- An FPLL loses its reference: no holdover, its nets fail with it (18 R459). -/
def State.failPll (s : State) (c : Nat) : State :=
  if s.monitored c then ((s.declareFailed c).failNets (codeDie c) fun src => src / 4 == codeIdx c && decide (src < 16)).takeFallback c else s

/-- The lane sets of the part. -/
def State.allLanesets (s : State) : List Nat :=
  ((List.range 146) ++ (List.range 64).map (256 + ·)).filter fun k => s.hasKey k

/-- A die is UNCAL (11 Table 11.2). -/
def State.uncal (s : State) (d : Nat) : State :=
  s.modMon d fun m => { m with state := if m.state = .off then .off else .uncal, run := 0, ignored := 0, slew := 0 }

/-- PREF fails (18 R465): FPLLs and nets on its branch fail, every lane set enters FAULT REFLOSS, every die is UNCAL, the fallback is
    taken. Hard PLLs hold over. -/
def State.failPref (s : State) : State :=
  let s := s.declareFailed prefCode
  let s := s.dieList.foldl (fun (s : State) d =>
    let s := ((List.range 4).map fun f => d * 0x1000 + 0xE00 + f).foldl (fun (s : State) c =>
      if (s.node c).source = 0 then s.failPll c else s) s
    s.failNets d fun src => src == 24) s
  let s := s.allLanesets.foldl (fun (s : State) k => s.laneFault k 9) s
  (s.dieList.foldl (fun (s : State) d => s.uncal d) s).takeFallback prefCode

/-- The lanes behind a TXQ, RX or LNKCLK node. -/
def lanesBehind (c : Nat) : List Nat :=
  let i := codeIdx c; let hub := codeDie c == 8
  if codeType c = 0xC then List.range 42
  else if codeType c = 0xB then [if hub then i % 8 else i % 4]
  else if hub then (List.range 4).map (4 * (i % 2) + ·) else List.range 4

/-- Lanes are lost for want of a clock (18 Table 18.4; 09 R243). -/
def State.loseLanes (s : State) (c : Nat) : State :=
  let k := laneOfNode c
  (lanesBehind c).foldl (fun (s : State) n =>
    if (s.laneset k).state ≠ .active then s else s.loseLane k n) s

/-- The links of a die: its own ends and the ends that face them. -/
def State.linksOf (s : State) (d : Nat) : List Nat :=
  ((List.range 16).map fun l => linkKeyOf d l).flatMap fun k => if s.hasKey k then k :: (s.partner k).toList else []

/-- A core clock of the H-die fails: CFG_ERR, every user I/O and service pin held in its safe state, every F-die fenced. -/
def State.packageFault (s : State) : State :=
  let s := s.dieList.foldl (fun (s : State) d => s.fenceDie d) s
  s.spHold.modCfg fun c => { c with cfgErr := true, bootFault := true }

/-- What a failed node forces at once, by its type (18 Table 18.4). -/
def State.forceSafe (s : State) (c : Nat) : State :=
  let d := codeDie c; let i := codeIdx c
  let ty := codeType c
  if 1 ≤ ty ∧ ty ≤ 3 then (s.declareFailed c).packageFault
  else if ty = 4 then
    let s := (s.declareFailed c).modTime d fun t => { t with stopped := true }
    if d = 8 then s else s.uncal d
  else if ty = 6 then (s.declareFailed c).chanFault i 4 0
  else if ty = 7 then (s.linksOf d).foldl (fun (s : State) k => s.laneFault k 10) (s.declareFailed c)
  else if ty = 9 then (s.declareFailed c).modLeggett d fun l => { l with cfgRun := false, memRun := false }
  else if ty = 0xA ∨ ty = 0xB ∨ ty = 0xC then (s.declareFailed c).loseLanes c
  else if ty = 0xD then s.failNet c
  else if ty = 0xE then s.failPll c
  else if ty = 0xF then s.failPref
  else s.declareFailed c

/-- CLOCK_NODE_FAIL: a monitored node is declared failed. REFCLK failing before the end of P4 abandons the load: the boot restarts when it
    returns (12 R314). -/
def clockNodeFail (s : State) (c : Nat) : State :=
  if ¬ s.monitored c then s
  else if c = prefCode ∧ (s.node c).source = 0 ∧ s.cfg.phase ≠ .running then
    (s.declareFailed c).softReset.modCfg fun x => { x with abandoned := true }
  else s.forceSafe c

def execClockNodeFail (code : Nat) (s : State) : Out := .next (clockNodeFail s code)

/-- What a failed node hangs on runs: its source, where it is not an outside one. -/
def State.feedRuns (s : State) (c : Nat) : Bool :=
  let ty := codeType c
  let src := (s.node c).source.toNat
  ty < 0xD || (outsideOf c src).isSome || s.sourceRuns c src

/-- The node runs again: its domains leave their safe states (18 R463, Table 18.4). -/
def State.resume (s : State) (c : Nat) : State :=
  let d := codeDie c
  let ty := codeType c
  if 1 ≤ ty ∧ ty ≤ 3 then
    if s.cfg.bootFault ∧ s.nodeGood 0x8100 ∧ s.nodeGood 0x8200 ∧ s.nodeGood 0x8300 then s.softReset.coreStart else s
  else if ty = 4 then (s.modTime d fun t => { t with stopped := false }).tryMeasure d
  else if ty = 9 then
    if s.cfg.phase = .running then s.modLeggett d fun l => { l with cfgRun := l.cfg.getLsbD 14, memRun := l.cfg.getLsbD 15 } else s
  else if ty = 0xF then s.allLanesets.foldl (fun (s : State) k => s.modLaneset k fun x => { x with recovAt := some s.now }) s
  else s

/-- CLOCK_NODE_RUNNING: four good AOCLK periods declare a failed node running again. For a boot that waits for REFCLK, it has returned. -/
def clockNodeRunning (s : State) (c khz : Nat) : State :=
  if c = prefCode ∧ s.cfg.abandoned then
    (s.modClk fun x => { x with deadSrc := x.deadSrc.filter (· != refclkSrc) }).coreStart
  else if ¬ s.hasClock c ∨ codeType c = 0 ∨ ¬ (s.node c).failed ∨ ¬ s.feedRuns c then s
  else
    let s := match outsideOf c (s.node c).source.toNat with
      | some k => s.modClk fun x => { x with deadSrc := x.deadSrc.filter (· != k) }
      | none => s
    (s.modNode c fun n => { n with failed := false, state := .running, forceOk := false, freq := BitVec.ofNat 32 khz }).resume c

def execClockNodeRunning (code : Nat) (khz : BitVec 32) (s : State) : Out := .next (clockNodeRunning s code khz.toNat)

/-- CLOCK_SWITCH_END: both sources give edges, so the multiplexer has dropped the old and taken the new one (18 R466); a net that Ladder
    stops waits (20 R516). -/
def clockSwitchEnd (s : State) (c : Nat) : State :=
  let n := s.node c
  match n.newSource with
  | none => s
  | some src =>
    if s.hasClock c ∧ ¬ n.stop ∧ ¬ n.failed ∧ n.state = .running ∧ s.sourceRuns c n.source.toNat ∧ s.sourceRuns c src.toNat then s.takeSource c src
    else s

def execClockSwitchEnd (code : Nat) (s : State) : Out := .next (clockSwitchEnd s code)

/-! ### Commands (18 R466, R467, R477; 17 Table 17.10) -/

def cmdClkStatus : Command where
  code := 0x0600
  argOk s r := lenIs 4 r && r.zero 2 2 && s.hasClock (r.num 0 2)
  body s _ r :=
    let c := r.num 0 2
    let st := s.nodeState c
    -- the count of a node declared failed is not stated
    let khz := if st = .stopped then 0 else if (s.node c).failed then s.freeVal.toNat % 2 ^ 32 else s.nodeKhz c
    (s.drew 1, okReply (leBytes 1 (s.node c).source.toNat ++ leBytes 1 st.code ++ leBytes 2 0 ++ leBytes 4 khz ++ leBytes 4 (s.node c).fails.toNat))

def execClkStatus (m : Nat) (s : State) : Out := .next (cmdClkStatus.serve m s)

/-- A node that an admitted flow's path hangs on: PREF, or a net enabled in a bay on it, or the FPLL of such a net (18 R466, 08 R222). -/
def State.onFlowNode (s : State) (c : Nat) : Bool :=
  let d := codeDie c
  if c = prefCode then s.flows.any fun e => e.2.live
  else (List.range 96).any fun b => s.onFlow 2 d b &&
    (List.range 32).any fun i => (s.bay d b).fclkEn.getLsbD i &&
      ((codeType c == 0xD && codeIdx c == i) ||
       (codeType c == 0xE && (let src := (s.node (fclkNode d i)).source.toNat; decide (src < 16) && src / 4 == codeIdx c)))

def clkArgOk (s : State) (r : Request) : Bool :=
  let c := r.num 0 2; let src := r.num 2 1; let fb := r.num 3 1
  lenIs 4 r && s.hasClock c && decide (0xD ≤ codeType c) && s.sourceFits c src && (fb == 0x3F || s.sourceFits c fb)

/-- CLK_SELECT: the switch begins. An input that no node is declared running on may have started again, and a new package reference may
    measure outside 300 ppm: no command tells the model either. -/
def clkSelectBody (s : State) (m : Nat) (r : Request) : State × Reply :=
  let c := r.num 0 2; let src := BitVec.ofNat 6 (r.num 2 1)
  let n := s.node c
  let free := s.freeVal
  let runs := s.sourceRuns c src.toNat || ((outsideOf c src.toNat).isSome && free.getLsbD 0)
  let inPpm := c != prefCode || free.getLsbD 1
  let s := s.drew 1
  if n.selMbx.isSome then (s, bare stBusy)
  else if n.state = .stopped ∨ s.onFlowNode c ∨ ¬ runs ∨ ¬ inPpm then (s, bare stState)
  else
    let s := match outsideOf c src.toNat with
      | some k => s.modClk fun x => { x with deadSrc := x.deadSrc.filter (· != k) }
      | none => s
    let s := if c = prefCode then
        s.dieList.foldl (fun (s : State) d => s.modMon d fun m => { m with parentOk := false }) s
      else s
    (s.modNode c fun n =>
      { n with newSource := some src, selMbx := some (s.token m r), fallback := BitVec.ofNat 6 (r.num 3 1), forceOk := n.failed }, bare stAccepted)

def cmdClkSelect : Command where
  code := 0x0601
  async := true
  may := needC
  argOk := clkArgOk
  body := clkSelectBody

def execClkSelect (m : Nat) (s : State) : Out := .next (cmdClkSelect.serve m s)

/-- CLKSW_FORCE: only while a switch is pending and its old source is declared failed (18 R467). The node is declared running later. -/
def cmdClkswForce : Command where
  code := 0x0602
  may := needC
  argOk s r := lenIs 4 r && r.zero 2 2 && s.hasClock (r.num 0 2)
  body s _ r :=
    let c := r.num 0 2
    match (s.node c).newSource with
    | none => (s, bare stState)
    | some src => if (s.node c).forceOk ∧ (s.node c).selMbx.isSome then (s.takeSource c src, okReply []) else (s, bare stState)

def execClkswForce (m : Nat) (s : State) : Out := .next (cmdClkswForce.serve m s)

end Sys2Proof.Machine
end

