-- ==== Sys2Proof/Machine/Eoset.lean ====
section
/-! DEFINITION. The Eoset link layer: frame slots, receiving and retry, credits, encrypted groups, shut-down, link delay and the link
registers. -/

namespace Sys2Proof.Machine

/-! ### Sending (10 R255 to R262, R275) -/

/-- The VC with the most credits waiting, the lowest on a tie, and how many go back in one frame (10 R262). -/
def LinkEnd.creditsOut (e : LinkEnd) : Nat × Nat :=
  match argMin (fun v => 1000 - tget 0 e.pendRet v) (List.range 8) with
  | some v => if tget 0 e.pendRet v = 0 then (0, 0) else (v, min 15 (tget 0 e.pendRet v))
  | none => (0, 0)

/-- Whether a partner is a die of the package: its frames stay whole in the model; others leave as bytes. -/
def State.inside (s : State) (k : Nat) : Bool := (s.partner k).isSome

/-- Frame byte i on logical data lane i mod W, in symbol time i div W, as the code groups of its physical lane (10 R255; 09 R230). -/
def State.sendBytes (s : State) (k : Nat) (bs : List (BitVec 8)) : State :=
  let w := linkWidth k
  let map := (s.link k).txMap
  s.modLaneset k fun x =>
    { x with lanes := (List.range w).foldl (fun t i => tmod Lane.reset t (physOf map i) fun l =>
        let r := encodeSyms l.txRd ((List.range (80 / w)).map fun j => dataSym (bs.getD (j * w + i) 0))
        { l with txOut := r.1, txRd := r.2 }) x.lanes }

/-- A frame put on the lanes: counted, and waiting for the partner where the partner is in the package, else sent as code groups. -/
def State.putWire (s : State) (k : Nat) (f : Frame) : State :=
  let inside := s.inside k
  let s := if inside then s else s.sendBytes k (wireBytes (bytesAt f.body 0 72) f)
  s.modLink k fun e =>
    { e with txFrames := e.txFrames + 1, wire := if inside then e.wire ++ [f] else [f], ackDue := false,
             idleTx := if f.ftype = 0 then e.idleTx else s.now }

/-- An unsequenced frame carries the SEQ the next sequenced one takes, and the ACK (10 R260). -/
def LinkEnd.plain (e : LinkEnd) (t : BitVec 4) : Frame := { ftype := t, seq := e.nextSeq, ack := e.lastAcc }

/-- The frame as it leaves: outside the package a flit as bytes, and under encryption its ciphertext (15 R407, R408). -/
def State.sealed (s : State) (k : Nat) (f : Frame) : Frame :=
  if s.inside k then f
  else
    let body := f.bytes72
    let e := s.link k
    if e.encrypted ∧ f.ftype ≠ 4 then
      let x := s.linkKey k
      let nonce := linkNonce x.txId (x.txCtr.toNat - e.tagGroupTx.length)
      { f with head := none, body := gcmCrypt (x.key.getD []) nonce (72 * e.tagGroupTx.length) body }
    else { f with head := none, body := body }

/-- A new sequenced frame is sent (10 R260, R262): SEQ, ACK, credits, the retry buffer, and its place in an encrypted group. -/
def State.sendSeq (s : State) (k : Nat) (f : Frame) : State :=
  let e := s.link k
  let (v, n) := e.creditsOut
  let f := { f with seq := e.nextSeq, ack := e.lastAcc, cvc := BitVec.ofNat 3 v, ccnt := BitVec.ofNat 4 n }
  let f := s.sealed k f
  let groups := e.encrypted && f.ftype != 4
  let s := s.modLink k fun e =>
    { e with nextSeq := e.nextSeq + 1, held := e.held ++ [f], heldAt := if e.held = [] then s.now else e.heldAt,
             pendRet := tmod 0 e.pendRet v (· - n),
             tagGroupTx := if e.encrypted then (if groups then e.tagGroupTx ++ [f] else []) else [] }
  let s := if groups then s.modLinkKey k fun x => { x with txCtr := x.txCtr + 1 } else s
  s.putWire k f

/-- The TAG frame of the open group (10 R275, 15 R408). -/
def State.sendTag (s : State) (k : Nat) : State :=
  let e := s.link k
  let x := s.linkKey k
  let (v, n) := e.creditsOut
  let f : Frame := { ftype := 4, seq := e.nextSeq, ack := e.lastAcc, cvc := BitVec.ofNat 3 v, ccnt := BitVec.ofNat 4 n }
  let tag := groupTag (x.key.getD []) (linkNonce x.txId (x.txCtr.toNat - e.tagGroupTx.length)) e.tagGroupTx f
  s.sendSeq k { f with body := tag ++ List.replicate 56 0 }

/-- A request crosses to a guest: its response may come back (01 R44). A response crosses: the guest's request has ended (10 R281). -/
def State.guestCross (s : State) (k : Nat) (f : Frame) : State :=
  match s.guestOf k, f.head with
  | some g, some p =>
    if p.cls = .req then s.modGuest g fun x => { x with toGuest := x.toGuest ++ [(p.src, p.tag)] }
    else if p.cls = .rsp then s.modGuest g fun x =>
      let keep := (x.fromGuest.zip x.fromSrc).filter fun e => !(e.1.tag == p.tag && e.2 == p.src)
      { x with fromGuest := keep.map (·.1), fromSrc := keep.map (·.2) }
    else s
  | _, _ => s

/-- A response to an orphaned request of a guest is discarded on arrival, which clears the orphan (10 R283). -/
def State.dropOrphan (s : State) (k : Nat) : State :=
  match s.guestOf k, (s.link k).outq with
  | some g, f :: _ =>
    match f.head with
    | some p =>
      let gs := s.guest g
      let orphan := (gs.fromGuest.zip gs.fromSrc).any fun e => e.1.orphan && e.1.tag == p.tag && e.2 == p.src
      if p.cls = .rsp ∧ orphan then
        (s.modLink k fun e => { e with outq := e.outq.drop p.flits, spent := tmod 0 e.spent f.vc.toNat (· - p.flits) }).guestCross k f
      else s
    | none => s
  | _, _ => s

/-- A response the gateway or port made itself takes its credits and joins the output (10 R277, R281). -/
def State.queueAnswer (s : State) (k : Nat) : State :=
  match (s.link k).answers with
  | p :: rest =>
    if p.flits ≤ s.linkCred k p.vc then
      s.modLink k fun e => { e with answers := rest, outq := e.outq ++ frameOf p, spent := tmod 0 e.spent p.vc (· + p.flits) }
    else s
  | [] => s

/-- A VC at a gateway or Eoset-X port that holds a packet with no credits (10 R282). -/
def State.stalled (s : State) (k v : Nat) : Bool :=
  s.linkCred k v == 0 &&
  ((match (s.link k).answers with | p :: _ => p.vc == v | [] => false) ||
   (match siteOfKey k with
    | some (node, l) =>
      let r := routerOfSite node l
      (s.router node r).inq.any fun e => match e.2 with
        | p :: _ => p.vc == v && p.route == some r && p.exit == some (BitVec.ofNat 4 l)
        | [] => false
    | none => false))

/-- When each VC of a guest's or host's link began to wait (10 R282). -/
def State.noteStalls (s : State) (k : Nat) : State :=
  if s.inside k then s
  else s.modLink k fun e =>
    { e with stallAt := (List.range 8).foldl (fun t v =>
        if s.stalled k v then (if tget 0 t v = 0 then tput 0 t v (s.now + 1) else t) else tput 0 t v 0) e.stallAt }

/-- The frame a slot sends, in the order of R258 (10 R258). -/
def State.pickFrame (s : State) (k : Nat) : State :=
  let e := s.link k
  let room := decide (e.held.length < 256)
  if e.nakDue then
    (s.modLink k fun e => { e with nakDue := false, nakOut := true, nakAt := s.now, nakTx := satInc e.nakTx }).putWire k (e.plain 3)
  else match e.replayQ with
    | f :: rest =>
      (s.modLink k fun e => { e with replayQ := rest }).putWire k (if e.encrypted then f else { f with ack := e.lastAcc })
    | [] =>
      if room ∧ e.encrypted ∧ 8 ≤ e.tagGroupTx.length then s.sendTag k
      else match e.lmsgDue with
        | b :: rest =>
          if ¬ room then s.putWire k (e.plain 0)
          else
            let s := (s.modLink k fun e =>
              { e with lmsgDue := rest, downSent := if b.head? = some 3 then some s.now else e.downSent }).sendSeq k { ftype := 5, body := b }
            if e.gcapBad ∧ rest = [] then s.laneFault k 4 else s
        | [] =>
          match if (s.guestOf k).isNone ∨ e.guestOk then e.outq else [] with
          | f :: rest =>
            if room then ((s.modLink k fun e => { e with outq := rest }).guestCross k f).sendSeq k { f with ftype := 1 }
            else s.putWire k (e.plain 0)
          | [] =>
            if room ∧ e.creditsOut.2 ≠ 0 then s.sendSeq k { ftype := 2 }
            else if room ∧ e.tagGroupTx ≠ [] then s.sendTag k
            else s.putWire k (e.plain 0)

/-- A direction that sends frames now. -/
def LaneSet.sends (x : LaneSet) : Bool := x.state == .active && !x.txLp1 && !x.lp2 && x.lp2Exit.isNone

def frameSlot (s : State) (k : Nat) : State :=
  if s.hasKey k ∧ laneKind k ≠ 2 ∧ (s.laneset k).sends then (((s.dropOrphan k).queueAnswer k).pickFrame k).noteStalls k else s

def execFrameSlot (key : Nat) (s : State) : Out := .next (frameSlot s key)

/-! ### Receiving (10 R258, R260, R264) -/

/-- ACK A covers the 256 SEQ values up to and including A (10 R260). -/
def covers (a q : BitVec 10) : Bool := decide ((a - q).toNat < 256)

/-- The ACK of a good frame releases what it covers (10 R260). -/
def State.takeAck (s : State) (k : Nat) (a : BitVec 10) : State :=
  let e := s.link k
  let keep := e.held.filter fun f => !covers a f.seq
  if keep.length = e.held.length then s
  else s.modLink k fun e =>
    { e with held := keep, replayQ := e.replayQ.filter fun f => !covers a f.seq, heldAt := s.now, replayRun := 0 }

/-- A replay starts from the oldest frame held; eight in a row without progress give FAULT (10 R261). -/
def State.startReplay (s : State) (k : Nat) : State :=
  let s := s.modLink k fun e =>
    { e with replayQ := e.held, replay := satInc e.replay, replayRun := e.replayRun + 1, heldAt := s.now }
  if 8 ≤ (s.link k).replayRun then s.laneFault k 10 else s

/-- Credits returned by a frame; more than the far end's depth is a credit protocol error (10 R264). The router's idle count restarts (07 R206). -/
def State.takeCredits (s : State) (k v n : Nat) : State :=
  if n = 0 then s
  else if tget 0 (s.link k).spent v < n then s.laneFault k 10
  else
    let s := s.modLink k fun e => { e with spent := tmod 0 e.spent v (· - n) }
    match siteOfKey k with
    | some (node, l) => s.modRouter node (routerOfSite node l) fun x => { x with quietAt := s.now }
    | none => s

/-- Flits that stand in an input VC of a link end. -/
def State.linkOcc (s : State) (k v : Nat) : Nat :=
  match siteOfKey k with
  | some (node, l) => s.rxOcc node (routerOfSite node l) 4 v
  | none => match tget none (s.link k).rxPart v with
    | some p => p.flits - p.missing
    | none => 0

/-- A packet is whole: into the router's input VC, through the gateway, or to the host port. -/
def State.packetIn (s : State) (k v : Nat) (p : Pkt) : State :=
  let s := s.modLink k fun e => { e with rxPart := tput none e.rxPart v none }
  if s.inside k then s.fromLink k v p
  else if laneKind k = 1 then hostPacket s (laneId k) v p.headerBits p.data p.ue
  else guestPacket s k v p.headerBits p.data p.ue

/-- One flit taken in: a header begins a packet, data goes to the packet open on its VC; data with none open is dropped. -/
def State.flitIn (s : State) (k v : Nat) (head : Option Pkt) (data : List (BitVec 8)) (bad : Bool) : State :=
  if 64 ≤ s.linkOcc k v then s.laneFault k 10
  else match head with
    | some p =>
      let n := dataFlits p.opc p.len
      let p := { p with missing := n, data := [], ue := bad }
      if n = 0 then s.packetIn k v p else s.modLink k fun e => { e with rxPart := tput none e.rxPart v (some p) }
    | none =>
      match tget none (s.link k).rxPart v with
      | none => s.creditDue k v 1
      | some p =>
        let want := if opcRmw p.opc then 64 else min 64 (p.len.toNat + 1 - p.data.length)
        let p := { p with missing := p.missing - 1, data := p.data ++ bytesAt data 0 want, ue := p.ue || bad }
        if p.missing = 0 then s.packetIn k v p else s.modLink k fun e => { e with rxPart := tput none e.rxPart v (some p) }

/-- The router and port that name a link end in RIDGE_DISCARD: its site's port 4, or the host port. -/
def discardPlace (k : Nat) : Nat × Nat × Nat := match siteOfKey k with
  | some (node, l) => (node, routerOfSite node l, 4)
  | none => (8, 15, 6 + (k - 144))

/-- Flits of a guest link whose GCAP is not accepted are discarded, their credits returned (10 R279). -/
def State.gcapWait (s : State) (k : Nat) : Bool := (s.guestOf k).isSome && !(s.link k).guestOk

/-- A flit from outside the package (07 R178; 10 Table 10.7): a header or side band that cannot be read discards its packet. -/
def State.outsideFlit (s : State) (k : Nat) (bs : List (BitVec 8)) : State :=
  let f := readFlit bs
  if s.gcapWait k then s.creditDue k f.vc 1 else
  let (node, r, p) := discardPlace k
  let s := s.modRouter node r fun x => { x with corr := satAdd x.corr f.corrected }
  let k0 := pktOfHeader f.payload
  if f.sound ∧ f.typ = 1 ∧ ¬ f.bad then s.flitIn k f.vc (some { k0 with stamp := k0.stamp }) [] false
  else if f.sound ∧ f.typ = 2 then s.flitIn k f.vc none (leBytes 64 f.payload) f.bad
  else
    let part := tget none (s.link k).rxPart f.vc
    let held := match part with | some q => q.flits - q.missing | none => 0
    let s := (s.modLink k fun e => { e with rxPart := tput none e.rxPart f.vc none }).creditDue k f.vc (held + 1)
    (s.countDiscard node r).raiseDiscard node r p (part.getD k0)

/-- DOWN from the partner (10 R272): the answer to our own, or the start of a shut-down here. -/
def State.downReceive (s : State) (k : Nat) : State :=
  let s := s.modLink k fun e => { e with downGot := true }
  if (s.laneset k).shutting then s else s.shutDown k 0 true

/-- What an accepted frame carries is delivered. -/
def State.deliver (s : State) (k : Nat) (f : Frame) : State :=
  if f.ftype = 1 then
    if s.inside k ∧ (f.head.isSome ∨ f.body.length ≠ 72) then s.flitIn k f.vc.toNat f.head f.body f.ue
    else s.outsideFlit k f.body
  else if f.ftype = 5 then
    let t := numAt f.body 0 1
    if t = 1 then gcapReceive s k (bytesAt f.body 0 72)
    else if t = 3 ∧ downOk f.body then s.downReceive k
    else s
  else s

/-! ### Encrypted groups (10 R275; 15 R408 to R410) -/

/-- A request discarded with a bad group is answered INTEG; a response to an outstanding request ends it with INTEG (15 R410). -/
def State.integOne (s : State) (k v : Nat) (p : Pkt) : State :=
  match p.cls with
  | .req => s.edgeAnswer k p respInteg
  | .rsp =>
    match s.guestOf k with
    | some g =>
      if (s.guest g).toGuest.contains (p.src, p.tag) then
        let s := s.modGuest g fun x => { x with toGuest := x.toGuest.filter fun e => e != (p.src, p.tag) }
        -- the completion stands in the input VC in place of the header flit
        (s.modLink k fun e => { e with pendRet := tmod 0 e.pendRet v (· - 1) }).fromLink k v
          ((gateRsp p respInteg (s.stamp (laneDie k)) (s.coarse (laneDie k))).toDest (destOfSrc p.src))
      else s
    | none => s
  | _ => s

/-- A flit of a group whose tag failed (15 R410): its credit goes back, and its packet is discarded. -/
def State.integFlit (s : State) (k : Nat) (bs : List (BitVec 8)) : State :=
  let f := readFlit bs
  let s := s.creditDue k f.vc 1
  match tget none (s.link k).rxPart f.vc with
  | some p =>
    let s := (s.modLink k fun e => { e with rxPart := tput none e.rxPart f.vc none }).creditDue k f.vc (p.flits - p.missing)
    let s := s.integOne k f.vc p
    if f.typ = 1 then s.integOne k f.vc (pktOfHeader f.payload) else s
  | none => if f.typ = 1 then s.integOne k f.vc (pktOfHeader f.payload) else s

/-- SEC_ALARM of a link, with its entry (15 R410; 19 Table 19.3 type 0x14). -/
def State.raiseSecLink (s : State) (k : Nat) : State :=
  let n := (s.link k).tagFail.toNat
  let d := laneDie k
  let site := if laneKind k = 1 then 0x10 + laneId k else laneId k
  let evid := evidOf d 0x10 0x3A5
  s.raiseEvent d evid (if laneKind k = 1 then 0x8 + laneId k else laneId k) (some (mkEntry 0x14 2 evid (d + atLo site 4) n))

/-- The plaintext bodies of a held group. -/
def State.groupPlain (s : State) (k : Nat) (fs : List Frame) : List Frame :=
  let x := s.linkKey k
  fs.zipIdx.map fun e => { e.1 with body := gcmCrypt (x.key.getD []) (linkNonce x.rxId x.rxCtr.toNat) (72 * e.2) e.1.body }

/-- A group whose tag fails (15 R410). -/
def State.tagFailure (s : State) (k : Nat) : State :=
  let plain := s.groupPlain k (s.link k).tagGroupRx
  let s := s.modLinkKey k fun x =>
    { x with rxCtr := x.rxCtr + BitVec.ofNat 64 plain.length, fails := (x.fails.filter fun t => s.now < t + psMs) ++ [s.now] }
  let s := s.modLink k fun e => { e with tagGroupRx := [], tagFail := satInc e.tagFail }
  let s := plain.foldl (fun (s : State) f => if f.ftype = 1 then s.integFlit k f.body else s) s
  let s := s.raiseSecLink k
  if 3 ≤ (s.linkKey k).fails.length then s.laneFault k 11 else s

/-- A TAG frame closes the open group (10 R275): its frames are delivered, or the group has failed. -/
def State.tagReceive (s : State) (k : Nat) (f : Frame) : State :=
  let fs := (s.link k).tagGroupRx
  let x := s.linkKey k
  let want := groupTag (x.key.getD []) (linkNonce x.rxId x.rxCtr.toNat) fs f
  if fs ≠ [] ∧ want = bytesAt f.body 0 16 then
    let plain := s.groupPlain k fs
    let s := s.modLinkKey k fun x => { x with rxCtr := x.rxCtr + BitVec.ofNat 64 fs.length }
    plain.foldl (fun (s : State) f => s.deliver k f) (s.modLink k fun e => { e with tagGroupRx := [] })
  else s.tagFailure k

/-- A frame accepted in sequence on an encrypted link (10 R275, 15 R409). -/
def State.groupTake (s : State) (k : Nat) (f : Frame) : State :=
  if f.ftype = 4 then s.tagReceive k f
  else
    let s := if 8 ≤ (s.link k).tagGroupRx.length then s.tagFailure k else s
    if (s.link k).encrypted then s.modLink k fun e => { e with tagGroupRx := e.tagGroupRx ++ [f] } else s

/-- A sequenced frame in its place: acknowledged, its credits taken, its content delivered or held (10 R260). -/
def State.accept (s : State) (k : Nat) (f : Frame) : State :=
  let s := s.modLink k fun e =>
    { e with expSeq := e.expSeq + 1, lastAcc := f.seq, nakOut := false, nakDue := false, ackDue := true }
  let s := s.takeCredits k f.cvc.toNat f.ccnt.toNat
  if (s.laneset k).state ≠ .active then s
  else if (s.link k).encrypted then s.groupTake k f
  else s.deliver k f

/-- A NAK is due unless one is outstanding (10 R260). -/
def State.wantNak (s : State) (k : Nat) : State := s.modLink k fun e => { e with nakDue := e.nakDue || !e.nakOut }

/-- A bad frame (10 R258, R260). -/
def State.badFrame (s : State) (k : Nat) (sequenced : Bool) : State :=
  let s := s.modLink k fun e => { e with crcErr := satInc e.crcErr }
  if sequenced then s.wantNak k else s

/-- A good frame (10 R260, R261). -/
def State.goodFrame (s : State) (k : Nat) (f : Frame) : State :=
  let s := (s.modLink k fun e => { e with rxFrames := e.rxFrames + 1 }).takeAck k f.ack
  if f.ftype = 3 then (if (s.link k).held = [] then s else s.startReplay k)
  else if ¬ seqType f.ftype.toNat then s
  else
    let exp := (s.link k).expSeq
    if f.seq = exp then s.accept k f
    else if (exp - f.seq).toNat ≤ 256 then s
    else s.wantNak k

/-- On an encrypted link a CREDIT or DOWN in its place whose plain body breaks Table 10.3 or R273 is bad too (10 R258). -/
def State.plainBad (s : State) (k : Nat) (f : Frame) : Bool :=
  let e := s.link k
  let x := s.linkKey k
  e.encrypted && f.seq == e.expSeq && (f.ftype == 2 || f.ftype == 5) && decide (e.tagGroupRx.length < 8) &&
  !bodyOk { f with body := gcmCrypt (x.key.getD []) (linkNonce x.rxId x.rxCtr.toNat) (72 * e.tagGroupRx.length) f.body }

/-- The bytes that the code groups of a frame's lanes spell (10 R255): byte i from logical lane i mod W, symbol i div W; none where a group is
    invalid, no data, or missing. -/
def State.rxBytes (s : State) (k : Nat) (raw : List (List (BitVec 10))) : State × Option (List (BitVec 8)) :=
  let w := linkWidth k
  let phys (i : Nat) : Nat := if laneKind k = 1 then (if (s.laneset k).reversed then 7 - i else i) else physOf (s.link k).rxMap i
  let r := (List.range w).foldl (fun (a : State × List (List (Option (BitVec 9)))) i =>
    let b := a.1.rxSyms k (phys i) (raw.getD (phys i) [])
    (b.1, a.2 ++ [b.2])) (s, [])
  let bs := (List.range 80).map fun i => symByte (((r.2.getD (i % w) []).getD (i / w) none))
  (r.1, if bs.all Option.isSome then some (bs.map fun b => b.getD 0) else none)

/-- A frame as read off the lanes. -/
def State.readIn (s : State) (k : Nat) (bs : Option (List (BitVec 8))) (ftype : BitVec 4) : State := match bs with
  | some bs =>
    let f := readFrame bs
    if ¬ frameOk bs f (s.link k).encrypted ∨ s.plainBad k f then s.badFrame k (seqType f.ftype.toNat) else s.goodFrame k f
  | none => s.badFrame k (seqType ftype.toNat)

/-- The next frame of a partner in the package, taken off the wire. -/
def State.takeWire (s : State) (k : Nat) : Option (Frame × State) := match s.partner k with
  | some k2 => match (s.link k2).wire with
    | f :: rest => some (f, s.modLink k2 fun e => { e with wire := rest })
    | [] => none
  | none => none

/-- A frame received as it was sent; one with a symbol marked bad is bad (09 R243). -/
def State.frameSent (s : State) (k : Nat) (f : Frame) : State :=
  let bad := (s.link k).symBad
  let s := s.modLink k fun e => { e with symBad := false, rxAt := if f.ftype = 0 then e.rxAt else s.now }
  if bad then s.badFrame k (seqType f.ftype.toNat) else s.goodFrame k f

/-- A frame received as code groups, beside the frame that was sent where that is known. -/
def State.frameRead (s : State) (k : Nat) (gs : List (List (BitVec 10))) (sent : Option Frame) : State :=
  let f := sent.getD Frame.reset
  let r := s.rxBytes k gs
  let s := r.1
  if (s.laneset k).state ≠ .active then s
  else
    let bs := if (s.link k).symBad then none else r.2
    let idle : Bool := match bs with
      | some b => (readFrame b).ftype == 0
      | none => false
    let s := s.modLink k fun e => { e with symBad := false, rxAt := if idle then e.rxAt else s.now }
    if sent.isSome ∧ bs = some (wireBytes f.bytes72 f) then s.goodFrame k f else s.readIn k bs f.ftype

/-- FRAME_RECEIVE: the next frame of a partner in the package as it was sent, or the code groups of its physical lanes. A frame with a symbol
    marked bad is bad (09 R243). -/
def frameReceive (s : State) (k : Nat) (raw : Option (List (List (BitVec 10)))) : State :=
  let x := s.laneset k
  if ¬ s.hasKey k ∨ laneKind k = 2 ∨ x.state ≠ .active ∨ x.rxLp1 ∨ x.lp2 then s
  else
    match raw with
    | none => match s.takeWire k with
      | none => s
      | some (f, s) => s.frameSent k f
    | some gs => match s.takeWire k with
      | none => s.frameRead k gs none
      | some (f, s) => s.frameRead k gs (some f)

def execFrameReceive (key : Nat) (raw : Option (List (List (BitVec 10)))) (s : State) : Out := .next (frameReceive s key raw)

/-! ### Timers (10 R260, R261, R282) -/

/-- NAK_TMO and REPLAY_TMO (10 Table 10.4). -/
def nakTmo (k : Nat) : Nat := if laneKind k = 1 then 2000000 else 60000
def replayTmo (k : Nat) : Nat := if laneKind k = 1 then 4000000 else 200000

/-- An ACTIVE link of the part. -/
def State.linkUp (s : State) (k : Nat) : Bool := s.hasKey k && laneKind k != 2 && (s.laneset k).state == .active

def execNakTimeout (key : Nat) (s : State) : Out :=
  .next (let e := s.link key
    if s.linkUp key ∧ e.nakOut ∧ e.nakAt + nakTmo key ≤ s.now then s.modLink key fun e => { e with nakDue := true } else s)

def execReplayTimeout (key : Nat) (s : State) : Out :=
  .next (let e := s.link key
    if s.linkUp key ∧ e.held ≠ [] ∧ e.heldAt + replayTmo key ≤ s.now then s.startReplay key else s)

def execCreditStallTimeout (key : Nat) (s : State) : Out :=
  .next (if s.linkUp key ∧ ¬ s.inside key ∧
      (List.range 8).any (fun v =>
        let t := tget 0 (s.link key).stallAt v
        t != 0 && s.stalled key v && decide (t - 1 + 100 * psUs ≤ s.now)) then s.laneFault key 10 else s)

/-! ### Time on links (10 R269; 11 R298) -/

/-- The highest free spare of the transmit direction: it carries no data and its receiver has it (10 R268). -/
def State.tosSpare (s : State) (k : Nat) : Option Nat :=
  [41, 40].find? fun n =>
    tget 0 (s.link k).txMap n == 0 && ((s.laneset k).lane n).detected &&
    !(match s.partner k with | some k2 => ((s.laneset k2).lane n).lost | none => false)

/-- TOS at the first frame boundary after a whole microsecond, on every ACTIVE link site, with the package time of its COM; to a guest only with
    FEAT bit 0 (10 R269). -/
def execTosSend (key : Nat) (s : State) : Out :=
  .next (let t := (s.time (laneDie key)).ctr
    if s.linkUp key ∧ (s.laneset key).sends ∧ s.tosDue key then
      (s.modLink key fun e => { e with tosSentUs := psOfCtr t / psUs }).sendSet key setTos
        (leBytes 2 (t / 2 ^ 80) ++ leBytes 6 (t / 2 ^ 32))
        (match s.tosSpare key with | some n => [n] | none => dataLanes key (s.link key).txMap)
    else s)

/-- The receive lane that carries TOS: the partner's spare, else the lane of data lane 0 (10 R268). -/
def State.tosLane (s : State) (k : Nat) : Nat :=
  match (s.partner k).bind s.tosSpare with
  | some n => n
  | none => physOf (s.link k).rxMap 0

/-- LINK_DELAY becomes VALID after the average over 1,024 TOS, and over those that came no later than 1.1 ms after the link is ACTIVE
    (11 R298); a die that waits for it starts to measure. -/
def execLinkDelayValid (key : Nat) (s : State) : Out :=
  .next (let e := s.link key
    let due : Bool := decide (1024 ≤ e.tosCount) || (decide (1 ≤ e.tosCount) && decide ((s.laneset key).since + 1100 * psUs ≤ s.now))
    if s.linkUp key ∧ laneKind key = 0 ∧ due ∧ ¬ e.delayValid then
      (s.modLink key fun e => { e with delay := BitVec.ofNat 24 (s.linkDelay key (s.tosLane key)), delayValid := true }).tryMeasure (laneDie key)
    else s)

/-! ### Shut-down (10 R272, R273) -/

/-- Nothing is left to send. -/
def LinkEnd.drained (e : LinkEnd) : Bool :=
  e.outq == [] && e.held == [] && e.replayQ == [] && e.answers == [] && e.tagGroupTx == [] && e.lmsgDue == []

def execLinkShutdownStep (key : Nat) (s : State) : Out :=
  .next (let x := s.laneset key
    let e := s.link key
    if s.linkUp key ∧ x.shutting ∧ e.downSent = none ∧ e.drained then
      s.modLink key fun e => { e with lmsgDue := [[0x03, x.downReason] ++ List.replicate 70 0] }
    else s)

/-- The end of a shut-down: EIA sets, then OFF, or DETECT after the DOWN of a guest or host on a link that is not encrypted (10 R272, 15 R411). -/
def State.shutEnd (s : State) (k : Nat) : State :=
  let x := s.laneset k
  let again := x.byPartner && !s.inside k && !(s.link k).encrypted
  let s := (s.sendFour k setEia).leaveActive k false
  if again then
    (s.modLaneset k fun x =>
      { (x.allLanes k Lane.fresh) with
        state := .detect, shutting := false, byPartner := false, since := s.now, pendingEnable := false, txLp1 := false, rxLp1 := false,
        downCmds := [], reversed := false, pulseAt := none }).completeAll x.downCmds stOk []
  else s.laneOff k

def execLinkDownWaitEnd (key : Nat) (s : State) : Out :=
  .next (let e := s.link key
    match e.downSent with
    | some t =>
      if s.linkUp key ∧ (s.laneset key).shutting ∧ e.lmsgDue = [] ∧ (e.downGot ∨ t + 10 * psUs ≤ s.now) then s.shutEnd key else s
    | none => s)

def execLinkDrainTimeout (key : Nat) (s : State) : Out :=
  .next (let e := s.link key
    let queued : Bool := e.lmsgDue.any fun b => b.head? == some 3
    if s.linkUp key ∧ (s.laneset key).shutting ∧ e.downSent = none ∧ ¬ queued ∧ e.drainAt + 100 * psUs ≤ s.now then
      s.modLink key fun e => { e with outq := [], held := [], replayQ := [], answers := [], tagGroupTx := [], lmsgDue := [] }
    else s)

/-! ### Link registers (10 R284, Table 10.11 to Table 10.14) -/

/-- LINK_STATUS (10 Table 10.12). -/
def State.linkStatus (s : State) (k : Nat) : Nat :=
  let x := s.laneset k
  let e := s.link k
  let busy := e.repairing != [] || (match s.partner k with | some k2 => (s.link k2).repairing != [] | none => false)
  x.state.code + atLo x.cause.toNat 3 + atBit x.pendingEnable 8 + atBit x.shutting 9 + atBit busy 10 + atBit e.encrypted 11 +
  atBit (x.feat.getLsbD 0) 12 + atBit e.guestOk 13

/-- LINK_MAP (10 Table 10.13). -/
def LinkEnd.mapReg (e : LinkEnd) : Nat :=
  let one (t : Tab Nat) (n : Nat) : Nat := let v := tget 0 t n; if v = 0 then 0 else (v - 1) + 64
  one e.rxMap 40 + atLo (one e.rxMap 41) 8 + atLo (one e.txMap 40) 16 + atLo (one e.txMap 41) 24

/-- LINK_CRED_v (10 Table 10.14). -/
def State.linkCredReg (s : State) (k v : Nat) : Nat :=
  s.linkCred k v + atLo (s.linkOcc k v) 8 + atLo (tget 0 (s.link k).pendRet v) 16

/-- A link register's 32 bits (10 Table 10.11). -/
def State.linkRead (s : State) (k off : Nat) : Nat :=
  let e := s.link k
  if off = 0x000 then s.linkStatus k
  else if off = 0x004 then e.mapReg
  else if off = 0x010 ∨ off = 0x014 then half e.txFrames.toNat 0x010 off false
  else if off = 0x018 ∨ off = 0x01C then half e.rxFrames.toNat 0x018 off false
  else if off = 0x020 then e.crcErr.toNat
  else if off = 0x024 then e.nakTx.toNat
  else if off = 0x028 then e.replay.toNat
  else if off = 0x02C then e.repairs.toNat
  else if off = 0x030 then e.held.length
  else if off = 0x034 then e.tagFail.toNat
  else if off = 0x038 then e.delay.toNat + atBit e.delayValid 31
  else if 0x040 ≤ off ∧ off < 0x060 then s.linkCredReg k ((off - 0x040) / 4)
  else if 0x060 ≤ off ∧ off < 0x080 then (tget 0 e.scred ((off - 0x060) / 4)).toNat
  else match s.guestOf k with
    | some g =>
      let x := s.guest g
      if ¬ x.up then 0
      else if off = 0x080 then x.cap.vendor.toNat + atLo x.cap.device.toNat 16
      else if off = 0x084 then x.cap.midBase.toNat + atLo x.cap.midLog2 16 + atLo x.cap.winLog2 24
      else if off = 0x088 then (x.fromGuest.filter fun o => !o.orphan).length + atLo x.cap.maxOut 16
      else 0
    | none => 0

/-- LINK_CTRL (10 Table 10.11). -/
def State.linkCtrl (s : State) (k v : Nat) : State :=
  let s := if bitOf v 0 then
      s.modLink k fun e => { e with scred := (List.range 8).foldl (fun t i => tput 0 t i (BitVec.ofNat 32 (s.linkCredReg k i))) e.scred }
    else s
  if bitOf v 1 then s.modLink k fun e => { e with crcErr := 0, nakTx := 0, replay := 0, repairs := 0, tagFail := 0 } else s

/-- An access to a link's registers. -/
def linkReg (s : State) (k off : Nat) (write eight : Bool) (v : Nat) : RegRes :=
  if write then regOk (putWords (fun s o x => if o = 0x008 then s.linkCtrl k x else s) s off eight v) 0
  else regOk s (words (s.linkRead k) off eight)

/-- Address of a link's registers (10 R284). -/
def linkAddr (k off : Nat) : Nat :=
  match laneKind k with
  | 0 => (if laneDie k = 8 then 0xF00002010000 else dieBase (laneDie k) + 0xA00000) + laneId k * 0x10000 + off
  | _ => 0xF00002008000 + laneId k * 0x1000 + off

def linkDirect (w : Who) (key off v : Nat) (s : State) : Out :=
  .next (s.access w (linkAddr key off) true fun s => linkReg s key off true false v)

def execLinkSnap (w : Who) (key : Nat) (s : State) : Out := linkDirect w key 0x008 1 s
def execLinkClrCnt (w : Who) (key : Nat) (s : State) : Out := linkDirect w key 0x008 2 s

end Sys2Proof.Machine
end

