-- ==== Sys2Proof/Machine/Power.lean ====
section
/-! DEFINITION. Power states: entry, wake, exit, package DEEP, the power commands and the clocks and power block (18 R469 to R478). -/

namespace Sys2Proof.Machine

def powerOf (n : Nat) : PowerState := if n = 0 then .active else if n = 1 then .idle else if n = 2 then .nap else .deep

/-! ### Entry (18 R471) -/

/-- The dies whose parent a die is lose PARENT_OK before it goes to DEEP (11 R300). -/
def State.orphanTime (s : State) (d : Nat) : State :=
  s.dieList.foldl (fun (s : State) e =>
    if parentDie e (s.time e).mon.parent.toNat = d then s.modMon e fun m => { m with parentOk := false } else s) s

/-- A bay's entry into DEEP begins at the clamp edge; its port keeps requests for the wake. -/
def State.sleepBay (s : State) (d b : Nat) : State := (s.clampBay d b false).modBay d b fun x => { x with state := .deep }

/-- A die's entry begins: pads latch, its clocks stop; into DEEP its bays are clamped and its time base goes OFF. -/
def State.sleepDie (s : State) (d : Nat) (deep : Bool) : State :=
  let s := if deep then
      let s := (List.range 96).foldl (fun (s : State) b => if (s.bay d b).state = .active then s.sleepBay d b else s) s
      let s := ((s.orphanTime d).modMon d fun m => { m with state := .off, run := 0, slew := 0, parentOk := false }).modTime d fun t =>
        { t with stopped := true }
      (s.dropSched d).stopNode (d * 0x1000 + 0x400)
    else s
  let s := if (s.die d).io.pads = .enabled then s.latchPads d else s
  (s.napDie d).modElem 1 d 0 fun e =>
    { e with phase := .entering, target := if deep then .deep else .nap, atPs := s.now, pendingEnable := false, idleAt := none }

def State.sleepElemBay (s : State) (d b : Nat) : State :=
  (s.sleepBay d b).modElem 2 d b fun e => { e with state := .active, phase := .entering, target := .deep, atPs := s.now, pendingEnable := false, idleAt := none }

/-- Fabric logic without power: no flip-flop keeps its contents, no slice runs (02 R61; 18 Table 18.6). -/
def State.unpowerBay (s : State) (d b : Nat) : State :=
  (groupSlices b).foldl (fun (s : State) i => s.modSlice d i Slice.stopped) ((s.modBay d b fun x => { x with ffs := .undef s.free }).drew 1)

def Die.unpower (x : Die) (seed : Nat) : Die :=
  { x with stFfs := .undef seed, bays := tmodAll Bay.reset x.bays (List.range 96) fun _ (b : Bay) => { b with ffs := .undef seed },
           slices := tmodAll Slice.reset x.slices (x.slices.map (·.1)) fun _ (m : Slice) => m.stopped }

/-- The entry of a bay or die ends: the state is reached, its commands complete, a held wake starts the exit. -/
def State.entryEnd (s : State) (kind d id : Nat) : State :=
  let e := s.elem kind d id
  if e.phase ≠ .entering then s
  else
    let s := if e.target = .deep then (if kind = 1 then (s.modDie d fun x => x.unpower s.free).drew 1 else s.unpowerBay d id) else s
    let s := s.modElem kind d id fun e => { e with state := e.target, phase := .steady, cmds := [], pendingEnable := false }
    let s := s.completeAll e.cmds stOk []
    if e.pendingEnable then s.wakeElem kind d id else s

/-! ### Exit (18 R472, R473) -/

/-- The wake queue of a port is delivered in arrival order; where the port did not open its packets are disposed of. -/
def State.deliverQueue (s : State) (d r p : Nat) : State :=
  let b := bayOfPort r p
  if s.bayAsleep d b then s
  else
    let q := if p = 5 then (s.router d r).wq0 else (s.router d r).wq1
    let s := s.modRouter d r fun x => if p = 5 then { x with wq0 := [] } else { x with wq1 := [] }
    let down : Bool := (s.router d r).drained p || !(s.bay d b).portOpen
    q.foldl (fun (s : State) k => if down then s.toDrained d r p k else s.toElement d r p k) s

def State.deliverDie (s : State) (d : Nat) : State :=
  (List.range 48).foldl (fun (s : State) r => (s.deliverQueue d r 5).deliverQueue d r 6) s

/-- A bay leaves DEEP: its port reclaims its credits and it releases (13 R345); Leggett reads its frames first (13 R365). -/
def State.wakeBay (s : State) (d b : Nat) : State :=
  if s.fenced d then s
  else (s.releaseBay d b).modLeggett d fun l => { l with first := l.first ++ [(2304 * b, 2304 * (b + 1))] }

/-- A die's clocks run again; after DEEP every flip-flop loads INIT (02 R61), every slice
    takes its reset values (04 R129), its static slices and its bays are released, Leggett reads the frames first
    (13 R365) and its time base is UNCAL (11 Table 11.2). -/
def State.wakeDie (s : State) (d : Nat) : State :=
  let deep := (s.elem 1 d 0).state == .deep
  let s := s.unnapDie d
  let s := s.modElem 1 d 0 fun e => { e with state := .active, phase := .steady, wakes := satInc e.wakes, pendingEnable := false, idleAt := none }
  let s := if deep then
      let s := ((s.loadInitDie d).initIo d).modDie d fun x => { x with leggett := { x.leggett with frame := 0, passAt := s.now } }
      let s := s.modNode (d * 0x1000 + 0x400) fun n => { n with state := .running }
      let s := (s.modTime d fun t => { t with stopped := false }).modMon d fun m => { m with state := .uncal, run := 0, ignored := 0, slew := 0 }
      let s := (List.range 32).foldl (fun (s : State) g => s.resetGroup d (96 + g) s.cfg.bundle) s
      let s := (List.range 96).foldl (fun (s : State) b =>
        let e := s.elem 2 d b
        if (s.bay d b).state = .deep ∧ e.state ≠ .deep ∧ e.phase = .steady then s.wakeBay d b
        else s.groupRegs d b (s.regionImage d (some b))) s
      s.modLeggett d fun l => { l with first := [(0, 262144)] }
    else s
  let s := if (s.die d).io.pads = .latched then s.modIo d fun x => { x with pads := .enabled } else s
  s.deliverDie d

/-- The exit of a bay or die ends: it is ACTIVE, and its commands complete. -/
def State.exitEnd (s : State) (kind d id : Nat) : State :=
  let e := s.elem kind d id
  if e.phase ≠ .waking then s
  else if kind = 1 then
    let s := ((s.wakeDie d).modElem 1 d 0 fun e => { e with wakeCmds := [], target := .active }).completeAll e.wakeCmds stOk []
    if e.target = .nap then (s.sleepDie d false).modElem 1 d 0 fun x => { x with cmds := e.cmds } else s
  else if ¬ s.dieAwake d then s
  else
    let s := s.modElem 2 d id fun e =>
      { e with state := .active, phase := .steady, wakes := satInc e.wakes, pendingEnable := false, idleAt := none, wakeCmds := [] }
    ((s.wakeBay d id).deliverQueue d (bayRouter id) (bayPort id)).completeAll e.wakeCmds stOk []

/-! ### Package DEEP (18 R474 to R476) -/

/-- Heartbeat timers stand still with what they have counted (17 R444; 18 R474). -/
def State.hbStop (s : State) : State :=
  s.modGable fun g => { g with mbx := tmodAll Mbx.reset g.mbx (g.mbx.map (·.1)) fun _ (b : Mbx) => { b with hbUsed := b.hbUsed + (s.now - b.hbAt), hbAt := s.now } }
def State.hbStart (s : State) : State :=
  s.modGable fun g => { g with mbx := tmodAll Mbx.reset g.mbx (g.mbx.map (·.1)) fun _ (b : Mbx) => { b with hbAt := s.now } }

/-- The nodes of the core and time-base PLLs, which stop in package DEEP (18 Table 18.2). -/
def State.hubNodes (s : State) : List Nat := [0x8100, 0x8200, 0x8300, 0x8400, 0x8500, prefCode] ++ s.dieList.map fun d => d * 0x1000 + 0x400

/-- AOCLK periods of 2^-15 s since the entry (11 R302). -/
def State.deepPeriods (s : State) : Nat := (s.now - s.clk.deepAt) * 32768 / 1000000000000

/-- The master time the Sarking domain carries; with AOCLK failed, the time held at the entry (18 R457). -/
def State.carriedCtr (s : State) : Nat :=
  if s.clk.aoclkFail then s.clk.deepTime else (s.clk.deepTime + s.deepPeriods * 2 ^ 65) % 2 ^ 112

/-- A wake source fires in package DEEP: REFOSC_EN rises and the OSCD count starts (18 R455, R475). -/
def State.beginPackageWake (s : State) (causes : BitVec 6) : State :=
  (s.modClk fun k => { k with pkg := .waking, wakeCause := causes, pendingEnable := false }).modCfg fun c =>
    { c with refosc := true, oscdAt := some (s.now + oscdPs (bitsOf c.straps.toNat 2 3)) }

/-- A wake source fires: at once in DEEP, held during the entry (18 R474). -/
def State.packageWake (s : State) (source : Nat) : State :=
  let bit := BitVec.ofNat 6 (2 ^ source)
  match s.clk.pkg with
  | .deep => s.beginPackageWake bit
  | .entering =>
    if s.clk.pendingEnable then s else s.modClk fun k => { k with pendingEnable := true, wakeCause := bit }
  | _ => s

/-- Steps 1 to 3 of the entry: dies in DEEP, channels in SREF, and every ACTIVE link and Eoset-X port begins to shut down with REASON 0x01
    (10 R272, R273); those that ran unencrypted are noted for the wake (R476). -/
def State.deepLinksDown (s : State) : State :=
  let s := s.dieList.foldl (fun (s : State) d => s.entryEnd 1 d 0) s
  let s := (List.range 8).foldl (fun (s : State) n =>
    if (s.chan n).state = .up then s.modChan n fun x => { x with sref := true, pd := false, wakeAt := none } else s) s
  let links := s.allLanesets.filter fun k => laneKind k != 2 && (s.laneset k).state == .active
  let again := links.filter fun k => !(s.link k).encrypted && !(s.laneset k).shutting
  links.foldl (fun (s : State) k => if (s.laneset k).shutting then s.modLaneset k fun x => { x with downReason := 1 } else s.shutDown k 1 false)
    (s.modClk fun k => { k with deepLinks := true, relink := again })

/-- Steps 4 to 6, once no link is shutting down: what is left of the lane sets is OFF, time recorded, power removed, REFOSC_EN low. -/
def State.packageDeep (s : State) : State :=
  let s := s.allLanesets.foldl (fun (s : State) k => s.laneKill k) s
  let time := (s.time 8).ctr
  let s := s.hubNodes.foldl (fun (s : State) c => s.stopNode c) (s.modTime 8 fun t => { t with stopped := true })
  let s := ((s.dropSched 8).spHold.periDeep.hbStop.modCfg fun c => { c with refosc := false }).modClk fun k =>
    { k with pkg := .deep, deepAt := s.now, deepTime := time, deepLinks := false }
  if s.clk.pendingEnable then s.beginPackageWake s.clk.wakeCause else s

/-- The package is rebuilt (18 R476, Table 18.9): PREF from REFCLK where its lane does not run, time carried on AOCLK, links that ran
    unencrypted come up again, DMA judges the GOs it held, the dies are ACTIVE and the PWR_SET completes. -/
def State.packageUp (s : State) : State :=
  let s := s.hubNodes.foldl (fun (s : State) c => s.modNode c fun n => { n with state := .running }) s
  let p := s.node prefCode
  let s := if p.source = 0 then s else s.modNode prefCode fun n => { n with source := 0, newSource := some n.source }
  let ctr := s.carriedCtr
  let s := (s.modTime 8 fun t => { t with stopped := false, ctr := ctr }).modTb fun b =>
    { b with aoclk := b.src != 0, relock := b.src == 1, cmpAt := none, mstate := if b.src = 0 then .free else .holdover }
  let tok := s.clk.deepMbx
  let more := (s.elem 0 0 0).wakeCmds
  let again := s.clk.relink
  let s := (s.modClk fun k => { k with pkg := .active, pendingEnable := false, deepMbx := none, relink := [] }).modElem 0 0 0 fun e =>
    { e with wakes := satInc e.wakes, wakeCmds := [] }
  let s := (List.range 8).foldl (fun (s : State) n => if (s.chan n).sref then s.chanAwake n else s) s
  let s := again.foldl (fun (s : State) k => s.bringUp k) s.spRelease.hbStart
  let s := s.dieList.foldl (fun (s : State) d => if (s.elem 1 d 0).state = .deep then s.wakeDie d else s) s
  let s := (List.range 32).foldl (fun (s : State) c =>
    if (s.dmaCh c).goInDeep then (s.modDma c fun x => { x with goInDeep := false, pendingEnable := false }).dmaGoIdle c else s) s
  (s.completeOpt tok stOk []).completeAll more stOk []

/-! ### Rows (18 R470 to R476) -/

/-- What keeps a die from sleeping by command: a bay load, repair, restore or enable of it runs (18 R471). -/
def State.dieLoads (s : State) (d : Nat) : Bool :=
  (s.cfg.stream.isOpen && s.cfg.stream.what != .full && s.cfg.stream.die == d) ||
  (List.range 96).any fun b => (s.bay d b).state == .loading || (s.bay d b).state == .restoring || (s.bay d b).runCmd.isSome

/-- The idle condition of a bay (18 R470). -/
def State.bayIdle (s : State) (d b : Nat) : Bool :=
  let r := bayRouter b; let p := bayPort b
  (s.bay d b).state == .active && (s.bay d b).runCmd.isNone && s.dieAwake d && (s.master (bayMid d b)).out == [] && (s.master (bayMid d b)).rsps == [] &&
  tget [] (s.router d r).inbox p == [] && (if p = 5 then (s.router d r).wq0 else (s.router d r).wq1) == [] &&
  (List.range 8).all fun v => tget [] (s.router d r).atPort (8 * p + v) == []

/-- The idle condition of a die (18 R470). -/
def State.dieIdle (s : State) (d : Nat) (deep : Bool) : Bool :=
  s.dieAwake d &&
  ((List.range 96).all fun b => let x := (s.bay d b).state; x == .empty || x == .down || x == .deep || (s.elem 2 d b).state == .idle) &&
  ((List.range 48).all fun r => (s.router d r).idle) &&
  ((List.range 512).all fun i => (s.slice d (1536 + i)).run == .halted) &&
  (!deep || (List.range 8).all fun n => (s.tpin d n).sched == [])

/-- ELEMENT_IDLE_ENTRY of a bay or die, with the level of its BAY_IDLE_OK or DIE_IDLE_OK: the condition is timed, and the element enters IDLE
    after 1 µs and its deepest permitted state after a further IDLE_US. Flows hold what they hold (08 R222). -/
def idleEntry (s : State) (kind d id : Nat) (ok : Bool) : State :=
  let e := s.elem kind d id
  if e.phase ≠ .steady ∨ e.state = .nap ∨ e.state = .deep then s.modElem kind d id fun e => { e with idleOk := ok }
  else
    let s := s.modElem kind d id fun e => { e with idleOk := ok }
    let cond := ok && (if kind = 1 then s.dieIdle d (e.deepest == .deep) else s.bayIdle d id)
    if ¬ cond then s.modElem kind d id fun e => { e with idleAt := none }
    else match e.idleAt with
      | none => s.modElem kind d id fun e => { e with idleAt := some s.now }
      | some t =>
        let rested := decide (t + psUs + e.idleUs * psUs ≤ s.now)
        if kind = 1 then
          if rested ∧ (e.deepest = .nap ∨ e.deepest = .deep) ∧ ¬ s.flowHolds 1 d 0 ∧ ¬ s.dieLoads d then s.sleepDie d (e.deepest == .deep) else s
        else if rested ∧ e.deepest = .deep ∧ ¬ s.flowHolds 2 d id then s.sleepElemBay d id
        else if t + psUs ≤ s.now ∧ e.deepest ≠ .active then s.modElem kind d id fun e => { e with state := .idle }
        else s

def execElementIdleEntry (kind die id : Nat) (idleOk : Bool) (s : State) : Out :=
  .next (
    if kind = 1 ∧ die < s.fdies then idleEntry s 1 die 0 idleOk
    else if kind = 2 ∧ die < s.fdies ∧ id < 96 then idleEntry s 2 die id idleOk
    else if kind = 3 then routerIdleEntry s die id
    else s)

/-- POWER_ENTRY_END: of the package, first of its dies and channels, once no channel is in transition, then of its links; of a die, of a bay. -/
def execPowerEntryEnd (kind die id : Nat) (s : State) : Out :=
  .next (
    if kind = 0 then
      let still := (List.range 8).all fun n => let x := (s.chan n).state; x != .training && x != .shutting && x != .exiting
      let s := if s.clk.pkg = .entering ∧ still ∧ ¬ s.clk.deepLinks then s.deepLinksDown else s
      if s.clk.pkg = .entering ∧ s.clk.deepLinks ∧ (s.allLanesets.all fun k => !(s.laneset k).shutting) then s.packageDeep else s
    else if kind = 1 ∧ die < s.fdies then s.entryEnd 1 die 0
    else if kind = 2 ∧ die < s.fdies ∧ id < 96 then s.entryEnd 2 die id
    else s)

/-- ELEMENT_WAKE: a packet in a wake queue wakes the die or the bay it is for, WAKE_BAY wakes a bay of a die that is awake. -/
def execElementWake (kind die id : Nat) (s : State) : Out :=
  .next (
    if s.clk.pkg ≠ .active then s
    else if kind = 1 ∧ die < s.fdies then
      if (List.range 48).any fun r => (s.router die r).wq0 != [] || (s.router die r).wq1 != [] then s.wakeElem 1 die 0 else s
    else if kind = 2 ∧ die < s.fdies ∧ id < 96 ∧ s.dieAwake die then s.wakeElem 2 die id
    else if kind = 3 then routerWake s die id
    else s)

def execWakeExitEnd (kind die id : Nat) (s : State) : Out :=
  .next (
    if s.clk.pkg ≠ .active then s
    else if kind = 1 ∧ die < s.fdies then s.exitEnd 1 die 0
    else if kind = 2 ∧ die < s.fdies ∧ id < 96 then s.exitEnd 2 die id
    else s)

def execPackageWakeSource (source : Nat) (s : State) : Out :=
  .next (if source < 6 ∧ s.clk.wakeEn.getLsbD source then s.packageWake source else s)

/-- WAKE_ALARM: the time the package carries reaches the alarm. -/
def execWakeAlarm (s : State) : Out :=
  .next (match s.clk.alarmP with
    | none => s
    | some t =>
      let p := if s.clk.pkg = .deep then psOfCtr s.carriedCtr else s.ps 8
      if s.clk.wakeEn.getLsbD 3 ∧ t ≤ p then s.packageWake 3 else s)

/-- PACKAGE_WAKE_END: REFCLK is trusted and the package is rebuilt. -/
def execPackageWakeEnd (s : State) : Out :=
  .next (if s.clk.pkg = .waking ∧ s.cfg.oscdAt = none ∧ s.refclkGood then s.packageUp else s)

/-- AOCLK_FAIL: declared, raised and logged; the monitors run from the RC oscillator; in package DEEP it wakes the package (18 R457). -/
def aoclkFail (s : State) : State :=
  if s.clk.aoclkFail then s
  else
    let s := (s.modNode 0x8000 fun n => { n with failed := true, state := .failed, fails := satInc n.fails }).modClk fun k =>
      { k with aoclkFail := true, rcMon := true }
    (s.raiseHub 0x3AA 0 (some (mkEntry 0x0E 2 0x3AA (8 + atLo 0x8000 4) 0))).packageWake 5

def execAoclkFail (s : State) : Out := .next (aoclkFail s)

/-! ### Commands (18 R470 to R477; 17 Table 17.10) -/

/-- A state that Table 18.6 gives an element by command. -/
def powerArgOk (s : State) (kind d id st : Nat) (auto : Bool) : Bool :=
  match kind with
  | 0 => st == 0 || (st == 3 && !auto)
  | 1 => decide (d < s.fdies) && (st == 0 || st == 2 || st == 3)
  | 2 => decide (d < s.fdies) && decide (id < 96) && (st == 0 || st == 1 || st == 3)
  | 3 => s.hasRouter d id && decide (st < 2)
  | _ => false

/-- PWR_SET of the package to DEEP (18 R474; 16 R434). -/
def setPackage (s : State) (tok : Nat) : State × Reply :=
  let dmaRuns := (List.range 32).any fun c => let x := (s.dmaCh c).state; x == .wait || x == .busy || x == .readback || x == .stopping
  let moving := s.dieList.any fun d => (s.elem 1 d 0).phase != .steady
  if s.clk.pkg = .entering then (s, bare stBusy)
  else if s.clk.aoclkFail ∨ dmaRuns ∨ (s.dieList.any fun d => s.dieLoads d) ∨ (s.flows.any fun e => e.2.live) then (s, bare stState)
  else if moving then (s, bare stBusy)
  else
    let s := s.modClk fun k => { k with pkg := .entering, deepMbx := some tok, deepAt := s.now, pendingEnable := false }
    (s.dieList.foldl (fun (s : State) d => if (s.elem 1 d 0).state = .deep then s else s.sleepDie d true) s, bare stAccepted)

/-- PWR_SET to ACTIVE: a wake request whose command completes when the element is ACTIVE. -/
def setActive (s : State) (kind d id tok : Nat) : State × Reply :=
  let e := s.elem kind d id
  if kind = 0 then
    if s.clk.pkg = .active then (s, okReply [])
    else
      ((s.modClk fun k => { k with pendingEnable := true }).modElem 0 0 0 fun e => { e with wakeCmds := e.wakeCmds ++ [tok] }, bare stAccepted)
  else if kind = 3 then (s.modRouter d id fun x => { x with idle := false, wakeAt := none, wakeFrom := [], quietAt := s.now }, okReply [])
  else if kind = 2 ∧ e.phase = .steady ∧ e.state = .active ∧ (s.bay d id).state ≠ .active then (s, bare stState)
  else if e.phase = .steady ∧ (e.state = .active ∨ e.state = .idle) then (s.wakeElem kind d id, okReply [])
  else ((s.wakeElem kind d id).modElem kind d id fun e => { e with wakeCmds := e.wakeCmds ++ [tok] }, bare stAccepted)

/-- PWR_SET into IDLE, NAP or DEEP. -/
def setLow (s : State) (kind d id st tok : Nat) : State × Reply :=
  let e := s.elem kind d id
  let note (s : State) : State := s.modElem kind d id fun e => { e with cmds := e.cmds ++ [tok] }
  if s.flowForbids kind d id st then (s, bare stState)
  else if kind = 3 then
    if s.quiet d id then (s.modRouter d id fun x => { x with idle := true, wakeAt := none }, okReply []) else (s, bare stState)
  else if e.phase = .entering ∧ e.target.num = st then (note s, bare stAccepted)
  else if e.phase ≠ .steady then (s, bare stBusy)
  else if e.state.num = st ∧ ¬ (kind = 2 ∧ st = 3) then (s, okReply [])
  else if kind = 1 then
    if s.dieLoads d then (s, bare stState)
    else if e.state = .deep then (note ((s.wakeElem 1 d 0).modElem 1 d 0 fun e => { e with target := .nap }), bare stAccepted)
    else (note (s.sleepDie d (st == 3)), bare stAccepted)
  else if (s.bay d id).state ≠ .active ∨ ¬ s.dieAwake d then (s, bare stState)
  else if (s.bay d id).runCmd.isSome then (s, bare stBusy)
  else if st = 1 then (s.modElem 2 d id fun e => { e with state := .idle }, okReply [])
  else (note (s.sleepElemBay d id), bare stAccepted)

def cmdPwrSet : Command where
  code := 0x0603
  async := true
  may := needC
  argOk s r := lenIs 4 r && powerArgOk s (r.num 0 1) (r.num 1 1) (r.num 2 1) (r.num 3 1) false
  body s m r :=
    let kind := r.num 0 1; let d := r.num 1 1; let id := if kind = 1 then 0 else r.num 2 1; let st := r.num 3 1
    let tok := s.token m r
    if st = 0 then setActive s kind d id tok
    else if kind = 0 then setPackage s tok
    else setLow s kind d id st tok

def execPwrSet (m : Nat) (s : State) : Out := .next (cmdPwrSet.serve m s)

/-- PWR_PERMIT: the deepest automatic state and IDLE_US; for a router IDLE_DLY (18 R470; 07 R206). -/
def cmdPwrPermit : Command where
  code := 0x0604
  may := needC
  argOk s r :=
    lenIs 8 r && powerArgOk s (r.num 0 1) (r.num 1 1) (r.num 2 1) (r.num 3 1) true && (r.num 0 1 != 3 || decide (r.num 4 4 < 1024))
  body s _ r :=
    let kind := r.num 0 1; let d := r.num 1 1; let id := if kind = 1 then 0 else r.num 2 1; let st := r.num 3 1
    if kind = 0 then (s, okReply [])
    else if s.flowForbids kind d id st then (s, bare stState)
    else if kind = 3 then
      (s.modRouter d id fun x => { x with idleDly := if st = 1 then BitVec.ofNat 10 (r.num 4 4) else 0, quietAt := s.now }, okReply [])
    else (s.modElem kind d id fun e => { e with deepest := powerOf st, idleUs := r.num 4 4, idleAt := none }, okReply [])

def execPwrPermit (m : Nat) (s : State) : Out := .next (cmdPwrPermit.serve m s)

/-- The lane set that KIND 4, DIE and ID name (18 R477). -/
def powerLane (d id : Nat) : Nat := if 0x80 ≤ id then 144 + (id - 0x80) else linkKeyOf d id

def statusArgOk (s : State) (kind d id : Nat) : Bool :=
  match kind with
  | 4 => if 0x80 ≤ id then d == 8 && decide (id < 0x82) else s.hasLaneset 0 d id
  | 5 => d == 8 && decide (id < 8)
  | _ => powerArgOk s kind d id 0 true

/-- STATE of an element as PWR_STATUS gives it (18 R477). -/
def State.powerNow (s : State) (kind d id : Nat) : Nat :=
  match kind with
  | 0 => if s.clk.pkg = .deep then 3 else 0
  | 1 => (s.elem 1 d 0).state.num
  | 2 => if (s.bay d id).state = .deep then 3 else if (s.elem 1 d 0).state = .nap then 2 else (s.elem 2 d id).state.num
  | 3 => if d ≠ 8 ∧ 2 ≤ (s.elem 1 d 0).state.num then 2 else bnat (s.router d id).idle
  | 4 => let x := s.laneset (powerLane d id); if x.lp2 then 2 else if x.txLp1 || x.rxLp1 then 1 else 0
  | _ => let x := s.chan id; if x.sref then 2 else bnat x.pd

def State.powerDeepest (s : State) (kind d id : Nat) : Nat :=
  match kind with
  | 0 => 0
  | 3 => bnat ((s.router d id).idleDly != 0)
  | 4 => let x := (s.laneset (powerLane d id)).lpSel; if x.getLsbD 1 then 2 else bnat (x.getLsbD 0)
  | 5 => (s.chan id).lpSel.toNat
  | _ => (s.elem kind d id).deepest.num

def cmdPwrStatus : Command where
  code := 0x0605
  argOk s r := lenIs 4 r && r.zero 3 1 && statusArgOk s (r.num 0 1) (r.num 1 1) (r.num 2 1)
  body s _ r :=
    let kind := r.num 0 1; let d := r.num 1 1; let id := if kind = 1 then 0 else r.num 2 1
    (s, okReply (leBytes 1 (s.powerNow kind d id) ++ leBytes 1 (s.powerDeepest kind d id) ++ leBytes 2 0 ++
      leBytes 4 (if kind = 0 then s.elem 0 0 0 else s.elem kind d id).wakes.toNat))

def execPwrStatus (m : Nat) (s : State) : Out := .next (cmdPwrStatus.serve m s)

/-- PWR_WAKE: CP_WAKE_EN, bit 5 always 1, and CP_ALARM (18 R475). -/
def cmdPwrWake : Command where
  code := 0x0606
  may := needC
  argOk _ r := lenIs 12 r && r.zero 1 3 && decide (r.num 0 1 < 64) && alarmOk (r.num 4 8)
  body s _ r := ((s.modClk fun k => { k with wakeEn := BitVec.ofNat 6 (r.num 0 1) ||| 0x20 }).setAlarm (r.num 4 8), okReply [])

def execPwrWake (m : Nat) (s : State) : Out := .next (cmdPwrWake.serve m s)

/-! ### Registers (18 R478) -/

def PkgPower.code : PkgPower → Nat
  | .active => 0 | .entering => 1 | .deep => 1 | .waking => 3

def Elem.dieReg (e : Elem) : Nat :=
  (match e.phase with
    | .entering => 4
    | .waking => 5
    | .steady => if e.state = .idle then 0 else e.state.num) + atBit e.pendingEnable 3 + atLo e.deepest.num 4 + atBit e.idleOk 6 + atLo (min e.wakes.toNat 0xFFFF) 16

/-- CLK_NODE_n (18 Table 18.11). -/
def State.clkNodeReg (s : State) (c : Nat) : Nat :=
  if s.hasClock c then
    let n := s.node c
    n.source.toNat + atLo (s.nodeState c).code 8 + atLo n.fallback.toNat 16 + atBit n.forceOk 22 + atLo n.fails.toNat 24
  else 0

def State.clkRead (s : State) (off : Nat) : Nat :=
  let k := s.clk
  if off = 0x000 then k.pkg.code + atBit k.aoclkFail 2 + atBit k.rcMon 3 + atBit k.pendingEnable 4
  else if off = 0x004 then k.wakeCause.toNat
  else if off = 0x008 then k.wakeEn.toNat
  else if off = 0x010 then k.alarm.toNat % 2 ^ 32
  else if off = 0x014 then k.alarm.toNat / 2 ^ 32
  else if off = 0x018 then oscdPeriods (bitsOf s.cfg.straps.toNat 2 3)
  else if 0x100 ≤ off ∧ off < 0x100 + 4 * s.fdies then (s.elem 1 ((off - 0x100) / 4) 0).dieReg
  else if 0x80000 ≤ off ∧ off < 0x80000 + 4 * 0x10000 then s.clkNodeReg ((off - 0x80000) / 4)
  else 0

/-- The clocks and power block: read only to its users. -/
def clkReg (s : State) (off : Nat) (write eight : Bool) : RegRes := if write then regOk s 0 else regOk s (words s.clkRead off eight)

end Sys2Proof.Machine
end

