-- ==== Sys2Proof/Machine/Gable.lean ====
section
/-! DEFINITION. The gable controller: identification, sessions, the mailbox registers, the service-SPI path and restarts (17; 01 R46). -/

namespace Sys2Proof.Machine

/-! ### Identification (01 R46; 17 Table 17.10) -/

/-- ID_TOPOLOGY (01 Table 1.10). -/
def State.idTopology (s : State) : Nat :=
  s.fdies + atLo s.fuses.part.sites 4 + atBit (s.guest 0).up 6 + atBit (s.guest 1).up 7 + atLo (if s.fuses.grade2 then 2 else 1) 8 +
    atBit s.fuses.tempI 10

/-- A word of the identification block (01 Table 1.9). -/
def State.idWord (s : State) (off : Nat) : Nat :=
  if off = 0x000 then s.fuses.part.code
  else if off = 0x004 then s.idTopology
  else if off = 0x008 then 0xB0
  else if off = 0x00C then s.ids.gableIf.toNat
  else if off = 0x010 then bitsOf s.ids.bundle.toNat 0 32
  else if off = 0x014 then bitsOf s.ids.bundle.toNat 32 32
  else if off = 0x018 then bitsOf s.fuses.unique.toNat 0 32
  else if off = 0x01C then bitsOf s.fuses.unique.toNat 32 32
  else 0

/-- A word of an F-die's identification sub-block: copies of the first three registers, and ID_DIE (01 R46). -/
def State.dieIdWord (s : State) (d off : Nat) : Nat :=
  if off < 0x00C then s.idWord off else if off = 0x020 then d else 0

/-- Open sessions of the package. -/
def State.sessionCount (s : State) : Nat := s.sessions.length

def cmdIdGet : Command where
  code := 0x0000
  argOk := fun _ r => lenIs 0 r
  body := fun s _ _ => (s, okReply (leBytes 4 (s.idWord 0x000) ++ leBytes 4 (s.idWord 0x004) ++ leBytes 4 (s.idWord 0x008) ++
    leBytes 4 (s.idWord 0x00C) ++ leBytes 8 s.ids.bundle.toNat ++ leBytes 8 s.fuses.unique.toNat))
def execIdGet (m : Nat) (s : State) : Out := .next (cmdIdGet.serve m s)

/-- The interface version the running firmware offers; recovery firmware offers 2.1 (17 R443). -/
def State.ifVer (s : State) : Nat := if s.gable.gstate = .recovery then 0x0201 else s.cfg.fwIf.toNat

def cmdFwInfo : Command where
  code := 0x0001
  argOk := fun _ r => lenIs 0 r
  body := fun s _ _ => (s, okReply (leBytes 2 s.ifVer ++ leBytes 2 0 ++ leBytes 8 s.ids.bundle.toNat ++ leBytes 2 s.gable.restarts.toNat ++
    leBytes 1 s.gable.cause.toNat ++ leBytes 1 s.sessionCount))
def execFwInfo (m : Nat) (s : State) : Out := .next (cmdFwInfo.serve m s)

/-! ### Sessions (17 R443 to R445) -/

/-- Roles of an opener: those of every ADMIN entry that matches its MID; recovery firmware has no ADMIN entries (12 R325). -/
def State.rolesOf (s : State) (mid : BitVec 12) : BitVec 4 :=
  if s.gable.gstate = .recovery then 0
  else ((s.cfg.board.admins.filter fun e => ((mid ^^^ e.1) &&& e.2.1) == 0).map fun e => e.2.2).foldl (· ||| ·) 0

/-- GEN steps from 1 to 0xFFFFFF and wraps to 1 (17 R443). -/
def nextGen (g : BitVec 24) : BitVec 24 := if g = 0xFFFFFF then 1 else g + 1

/-- The period of HB_MS: 0 selects 10,000 ms (17 R444). -/
def hbPeriod (v : Nat) : Nat := if v = 0 then 10000 else v

/-- A session is bound to the mailbox (17 R443). -/
def Mbx.openSession (b : Mbx) (roles : BitVec 4) (hbMs now : Nat) : Mbx :=
  { b with bound := true, gen := nextGen b.gen, opener := b.ringSrc, roles := roles, hbMs := hbMs, hbAt := now, hbUsed := 0 }

/-- MBX_OPEN: the version is offered when its major is the running one and its minor not above it (17 R443). -/
def State.mbxOpen (s : State) (m : Nat) (r : Request) : State × Reply :=
  if (s.mbx m).bound then (s, bare stState)
  else if r.num 0 1 ≠ s.ifVer / 256 ∨ s.ifVer % 256 < r.num 1 1 then (s, bare stVersion)
  else
    let roles := s.rolesOf (s.mbx m).ringSrc
    let hb := hbPeriod (r.num 4 4)
    let s := s.modMbx m fun b => b.openSession roles hb s.now
    (s, okReply (leBytes 4 (s.sid m) ++ leBytes 1 roles.toNat ++ leBytes 3 0 ++ leBytes 2 s.ifVer ++ leBytes 2 0 ++ leBytes 4 hb))

def cmdMbxOpen : Command where
  code := 0x0900
  argOk := fun _ r => lenIs 8 r && r.zero 2 2 && (r.num 4 4 == 0 || (decide (100 ≤ r.num 4 4) && decide (r.num 4 4 ≤ 600000)))
  body := fun s m r => s.mbxOpen m r
def execMbxOpen (m : Nat) (s : State) : Out := .next (cmdMbxOpen.serve m s)

/-- MBX_CLOSE is answered OK, then the session closes (17 R445). -/
def cmdMbxClose : Command where
  code := 0x0901
  argOk := fun _ r => lenIs 0 r
  body := fun s _ _ => (s, okReply [])
  after := fun s m => s.closeSession (s.sid m)
def execMbxClose (m : Nat) (s : State) : Out := .next (cmdMbxClose.serve m s)

/-- MBX_HEARTBEAT: any request of the session restarts its timer (17 R444). -/
def cmdMbxHeartbeat : Command where
  code := 0x0902
  argOk := fun _ r => lenIs 0 r
  body := fun s _ _ => (s, okReply [])
def execMbxHeartbeat (m : Nat) (s : State) : Out := .next (cmdMbxHeartbeat.serve m s)

/-- The record of an open session in MBX_SESSIONS. -/
def State.sessionRecord (s : State) (m : Nat) : List (BitVec 8) :=
  leBytes 4 (s.sid m) ++ leBytes 2 (s.mbx m).opener.toNat ++ leBytes 1 (s.mbx m).roles.toNat ++ leBytes 1 0

def cmdMbxSessions : Command where
  code := 0x0903
  argOk := fun _ r => lenIs 4 r && r.zero 1 3 && decide (r.num 0 1 < 64)
  body := fun s _ r =>
    let l := (((List.range 64).drop (r.num 0 1)).filter fun k => (s.mbx k).bound).take 29
    (s, okReply (leBytes 1 l.length ++ leBytes 3 0 ++ (l.map fun k => s.sessionRecord k).flatten))
def execMbxSessions (m : Nat) (s : State) : Out := .next (cmdMbxSessions.serve m s)

/-- The period of a session's heartbeat has passed (17 R444; 18 R474). -/
def State.hbDue (s : State) (m : Nat) : Bool :=
  let b := s.mbx m
  b.bound && s.gableServes && s.clk.pkg == .active && decide (b.hbMs * psMs ≤ b.hbUsed + (s.now - b.hbAt)) &&
    !(s.cfg.keepClosing && s.cfg.keepSess == some (s.sid m))

/-- HEARTBEAT_TIMEOUT: SESSION_TIMEOUT is raised, an entry names the mailbox and the opener, and the session closes (17 R444). -/
def heartbeatTimeout (s : State) (m : Nat) : State :=
  if s.hbDue m then
    let b := s.mbx m
    let e := mkEntry 0x16 1 0x3A7 (8 + atLo m 4 + atLo b.opener.toNat 10) (s.sid m)
    (s.raiseHub 0x3A7 m (some e)).closeSession (s.sid m)
  else s
def execHeartbeatTimeout (m : Nat) (s : State) : Out := .next (heartbeatTimeout s m)

/-! ### Popping event records (17 Table 17.2; 19 R491) -/

/-- A record in the layout of Table 19.8. -/
def Event.record (e : Event) : Nat := e.evdata.toNat + atLo e.evid.toNat 32 + atBit true 42 + atBit e.coarse 43

/-- Whether `src` may pop an output: one of a mailbox takes the opener of its session alone (19 R491). -/
def State.mayPop (s : State) (src : BitVec 12) (m : Nat) : Bool := (s.mbx m).bound && (s.mbx m).opener == src

/-- A read by the Ladder master without EFFECT (20 R514). -/
def isPeek (src : BitVec 12) (effect : Bool) : Bool := src == 0x801 && !effect

def State.evOut (s : State) (k : Nat) : EvOut := tget EvOut.reset s.evr.outs k
def State.modEvOut (s : State) (k : Nat) (f : EvOut → EvOut) : State := s.modEvr fun e => { e with outs := tmod EvOut.reset e.outs k f }
def EvOut.typ (o : EvOut) : Nat := bitsOf o.cfg.toNat 0 2
def EvOut.mode1 (o : EvOut) : Bool := o.cfg.getLsbD 2
def EvOut.target (o : EvOut) : Nat := bitsOf o.cfg.toNat 16 16

/-- The lowest-numbered TYPE 1 output of mailbox m that holds a record. -/
def State.mbxOut (s : State) (m : Nat) : Option Nat :=
  (List.range 64).find? fun k => (s.evOut k).typ == 1 && (s.evOut k).target == m && (s.evOut k).fifo != []

/-- MBX_EVPOP: the oldest record of that output is popped, or 0 with VALID = 0; a peek leaves everything as it is (19 R491). -/
def State.mbxEvpop (s : State) (src : BitVec 12) (effect : Bool) (m : Nat) : RegRes :=
  if ¬ isPeek src effect ∧ ¬ s.mayPop src m then regDenied s
  else
    match s.mbxOut m with
    | none => regOk s 0
    | some k =>
      match (s.evOut k).fifo with
      | [] => regOk s 0
      | e :: rest =>
        if isPeek src effect then regOk s e.record
        else regOk ((s.modEvOut k fun o => { o with fifo := rest, popStamp := e.stamp }).modMbx m fun b => { b with evStamp := e.stamp }) e.record

/-! ### Mailbox registers (17 R437, Table 17.2 to Table 17.5) -/

def GState.code : GState → Nat
  | .running => 0 | .restarting => 1 | .halted => 2 | .recovery => 3 | .failed => 4

/-- MBX_STATUS (17 Table 17.3). -/
def Mbx.status (b : Mbx) (g : GState) : Nat :=
  bnat b.ringing + atBit b.rspValid 1 + atBit b.cplValid 2 + atBit b.bound 3 + atLo g.code 4 + atLo b.queue.length 8 + atLo b.lastSeq.toNat 16

/-- A register of a mailbox page outside its buffers, read as 32 bits. -/
def State.mbxWord (s : State) (m off : Nat) : Nat :=
  let b := s.mbx m
  if off = 0x200 then bnat b.ringing
  else if off = 0x204 then b.status s.gable.gstate
  else if off = 0x208 then s.sid m
  else if off = 0x20C then b.irqEn.toNat
  else if off = 0x220 then b.evStamp.toNat
  else 0

/-- A completion shown is released, and the next one is shown (17 R440). -/
def State.cplAck (s : State) (m : Nat) : State := (s.modMbx m fun b => { b with cplValid := false }).showNext m

/-- A doorbell is rung (17 Table 17.3, R439). -/
def Mbx.ring (b : Mbx) (src : BitVec 12) (no : Nat) : Mbx := { b with ringing := true, rspValid := false, ringSrc := src, rungNo := no }

def State.ringBell (s : State) (src : BitVec 12) (m : Nat) : State :=
  (s.modMbx m fun b => b.ring src s.gable.ringCnt).modGable fun g => { g with ringCnt := g.ringCnt + 1 }

/-- A write of 32 bits to a register of a mailbox page outside its buffers: the state after it, whether it is answered TGTERR. -/
def State.mbxPut (s : State) (src : BitVec 12) (m off v : Nat) : State × Bool :=
  if off = 0x200 ∧ v % 2 = 1 then (if (s.mbx m).ringing then (s, true) else (s.ringBell src m, false))
  else if off = 0x20C then (s.modMbx m fun b => { b with irqEn := BitVec.ofNat 3 v }, false)
  else if off = 0x210 ∧ v % 2 = 1 then (s.cplAck m, false)
  else (s, false)

/-- The request buffer and the doorbell of a bound mailbox belong to its opener (01 R30). -/
def State.otherOpener (s : State) (src : BitVec 12) (m : Nat) : Bool := (s.mbx m).bound && (s.mbx m).opener != src

/-- A write to a mailbox page (01 R25, R30; 17 R439): the state after it and RESP. -/
def State.mbxPageWrite (s : State) (src : BitVec 12) (m off : Nat) (data : List (BitVec 8)) : State × BitVec 3 :=
  let n := data.length
  if off < 0x100 then
    if s.otherOpener src m then (s, respDenied)
    else if off % 4 ≠ 0 ∨ 0x100 < off + n ∨ (s.mbx m).ringing then (s, respTgtErr)
    else (s.modMbx m fun b => { b with req := tabWrite b.req off data }, respOk)
  else if off < 0x200 ∨ (0x300 ≤ off ∧ off < 0x400) then
    (s, if off % 4 ≠ 0 ∨ 0x100 < off % 0x100 + n then respTgtErr else respOk)
  else if off < 0x204 ∧ s.otherOpener src m then (s, respDenied)
  else if ¬ (n = 4 ∨ n = 8) ∨ off % n ≠ 0 ∨ (n = 4 ∧ off / 8 = 0x43) then (s, respTgtErr)
  else
    let r := s.mbxPut src m off (numAt data 0 4)
    if r.2 then (s, respTgtErr)
    else if n = 8 then ((r.1.mbxPut src m (off + 4) (numAt data 4 4)).1, respOk)
    else (r.1, respOk)

/-- A read of n bytes of a mailbox page (01 R25): the state after it, RESP and the data. -/
def State.mbxPageRead (s : State) (src : BitVec 12) (effect : Bool) (m off n : Nat) : State × BitVec 3 × List (BitVec 8) :=
  let b := s.mbx m
  let buffer (t : Tab (BitVec 8)) (o : Nat) : State × BitVec 3 × List (BitVec 8) :=
    if o % 4 ≠ 0 ∨ 0x100 < o + n then (s, respTgtErr, []) else (s, respOk, tabBytes t o n)
  if off < 0x100 then buffer b.req off
  else if off < 0x200 then buffer b.rsp (off - 0x100)
  else if 0x300 ≤ off ∧ off < 0x400 then buffer b.cpl (off - 0x300)
  else if ¬ (n = 4 ∨ n = 8) ∨ off % n ≠ 0 then (s, respTgtErr, [])
  else if off / 8 = 0x43 then
    if n = 8 then let r := s.mbxEvpop src effect m; (r.1, r.2.1, leBytes 8 r.2.2.toNat) else (s, respTgtErr, [])
  else (s, respOk, leBytes n (words (s.mbxWord m) off (n == 8)))

/-- A block register (17 Table 17.5). -/
def State.mbxBlkWord (s : State) (off : Nat) : Nat :=
  if off = 0x0 then s.gable.gstate.code + atLo s.sessionCount 3 + atLo s.gable.restarts.toNat 16
  else if off = 0x4 then s.gable.cause.toNat
  else if off = 0x8 then ((List.range 32).map fun i => atBit (s.mbx i).bound i).foldl (· + ·) 0
  else if off = 0xC then ((List.range 32).map fun i => atBit (s.mbx (32 + i)).bound i).foldl (· + ·) 0
  else 0

/-- An access to the mailbox block: pages below 0x40000, then the block registers, which are read only. -/
def State.mbxWrite (s : State) (src : BitVec 12) (off : Nat) (data : List (BitVec 8)) : State × BitVec 3 :=
  if off < 0x40000 then s.mbxPageWrite src (off / 0x1000) (off % 0x1000) data
  else if ¬ (data.length = 4 ∨ data.length = 8) ∨ off % data.length ≠ 0 then (s, respTgtErr)
  else (s, respOk)

def State.mbxRead (s : State) (src : BitVec 12) (effect : Bool) (off n : Nat) : State × BitVec 3 × List (BitVec 8) :=
  if off < 0x40000 then s.mbxPageRead src effect (off / 0x1000) (off % 0x1000) n
  else if ¬ (n = 4 ∨ n = 8) ∨ off % n ≠ 0 then (s, respTgtErr, [])
  else (s, respOk, leBytes n (words s.mbxBlkWord (off - 0x40000) (n == 8)))

/-- MBX_CPL_ACK: a write of 1 (17 R440). -/
def execMbxCplAck (w : Who) (m : Nat) (s : State) : Out :=
  .next (s.access w (hubBase 1 + m * 0x1000 + 0x210) true fun s => let r := s.mbxPageWrite w.src m 0x210 (leBytes 4 1); (r.1, r.2, 0))

/-- MBX_EVPOP: an 8-byte read. -/
def execMbxEvpop (w : Who) (m : Nat) (s : State) : Out :=
  .next (s.access w (hubBase 1 + m * 0x1000 + 0x218) false fun s => s.mbxEvpop w.src w.effect m)

/-! ### The service-SPI path (17 R454) -/

/-- MID of the service-SPI target in sessions. -/
def spiMid : BitVec 12 := 0x8FF
def spiWho : Who := { src := spiMid, priv := false, effect := true }

/-- An access outside the buffers stays within one register: 4 bytes, or the 8 bytes of MBX_EVPOP. -/
def spiOne (off n : Nat) : Bool := decide (off < 0x200) || (decide (0x300 ≤ off) && decide (off < 0x400)) || n == 4 || (off == 0x218 && n == 8)

/-- The mailbox and the offset an address names, where its bits 23:18 are 0 and the mailbox is not bound to another opener. -/
def State.spiPage (s : State) (addr : BitVec 24) : Option (Nat × Nat) :=
  let m := bitsOf addr.toNat 12 6
  if bitsOf addr.toNat 18 6 = 0 ∧ ¬ s.otherOpener spiMid m then some (m, bitsOf addr.toNat 0 12) else none

def State.setSpiErr (s : State) (e : Bool) : State := s.modGable fun g => { g with spiErr := e }

/-- WRITE: whole 4-byte words are written; a refused access stores nothing and sets ERR. -/
def spiWrite (s : State) (addr : BitVec 24) (bytes : List (BitVec 8)) : State :=
  let data := bytes.take (bytes.length / 4 * 4)
  if data = [] then s
  else
    match s.spiPage addr with
    | none => s.setSpiErr true
    | some (m, off) =>
      if spiOne off data.length then
        let r := s.mbxPageWrite spiMid m off data
        r.1.setSpiErr (r.2 != respOk)
      else s.setSpiErr true
/-- The path works while the H-die has its clocks and its power. -/
def execSpiWrite (addr : BitVec 24) (bytes : List (BitVec 8)) (s : State) : Out := .next (if s.engineRuns then spiWrite s addr bytes else s)

def State.spiShift (s : State) (data : List (BitVec 8)) : State := s.modGable fun g => { g with spiOut := data }

/-- READ: the data is shifted out; a refused read returns zeros and sets ERR. A refused pop is logged (19 R491). -/
def spiRead (s : State) (addr : BitVec 24) (len : Nat) : State :=
  let n := len / 4 * 4
  let zeros := List.replicate n (0 : BitVec 8)
  if n = 0 then s
  else
    match s.spiPage addr with
    | none => (s.setSpiErr true).spiShift zeros
    | some (m, off) =>
      if spiOne off n then
        let r := s.mbxPageRead spiMid true m off n
        if r.2.1 = respOk then (r.1.setSpiErr false).spiShift r.2.2
        else
          let s := if r.2.1 = respDenied then s.noteDenial 8 0x1001 (whoPkt spiWho false (hubBase 1 + m * 0x1000 + off)) false else s
          (s.setSpiErr true).spiShift zeros
      else (s.setSpiErr true).spiShift zeros
def execSpiRead (addr : BitVec 24) (len : Nat) (s : State) : Out := .next (if s.engineRuns then spiRead s addr len else s)

/-- READ_STATUS: ERR and NOTIFY, which the read clears (17 Table 17.13). -/
def spiReadStatus (s : State) : State :=
  let ntf := (List.range 64).any fun m => (s.mbx m).notify
  s.modGable fun g =>
    { g with spiOut := [BitVec.ofNat 8 (bnat g.spiErr + atBit ntf 1)], spiErr := false,
             mbx := tmodAll Mbx.reset g.mbx (g.mbx.map (·.1)) fun _ (b : Mbx) => { b with notify := false } }
def execSpiReadStatus (s : State) : Out := .next (if s.engineRuns then spiReadStatus s else s)

/-! ### Restart of the gable subsystem (17 R448 to R451) -/

/-- A restart begins, or begins again at step 2; a cause after the fourth beginning makes GSTATE FAILED (17 R449, R451). -/
def State.beginRestart (s : State) (cause : BitVec 3) (fwAddr : BitVec 32) : State :=
  let g := s.gable.gstate
  if g = .failed ∨ g = .halted ∨ ¬ s.engineRuns then s
  else if g = .restarting ∧ 4 ≤ s.gable.beginnings then (s.setGstate .failed).modCfg fun c => { c with cfgErr := true }
  else
    let s := if g = .restarting then s
      else (s.hbStop.setGstate .restarting).raiseHub 0x3A8 cause.toNat none
    s.modGable fun x =>
      { x with restarts := satInc x.restarts, cause := cause, beginnings := (if g = .restarting then x.beginnings else 0) + 1,
               pendCauses := x.pendCauses ++ [(cause, fwAddr)], reservation := false, wdtAt := s.now }

/-- The requests taken before the restart and not answered are answered FAULT (17 R450). -/
def State.faultDeferred (s : State) : State :=
  (List.range 64).foldl (fun (s : State) m =>
    if (s.mbx m).deferred then s.answerLater (some (s.token m (s.mbx m).request)) stFault [] else s) s

/-- Step 4 (17 R449, R450): sessions continue with full heartbeat periods, or all close without an event; GSTATE becomes RUNNING, or
    RECOVERY where the boot ROM's firmware runs; one entry for every beginning; completions are shown. -/
def State.endRestart (s : State) (recordsOk : Bool) : State :=
  let s := s.faultDeferred
  let s := if recordsOk then
      s.modGable fun g => { g with mbx := tmodAll Mbx.reset g.mbx (g.mbx.map (·.1)) fun _ (b : Mbx) => { b with hbAt := s.now, hbUsed := 0 } }
    else s.sessions.foldl (fun (s : State) i => s.closeSession i) s
  let s := s.setGstate (if s.cfg.fwIf = 0 then .recovery else .running)
  let s := s.gable.pendCauses.foldl (fun (s : State) c =>
    s.logNote (mkEntry 0x17 2 0x3A8 (8 + atLo c.1.toNat 4 + atBit recordsOk 7) c.2.toNat)) s
  let s := s.modGable fun g => { g with pendCauses := [], beginnings := 0, wdtAt := s.now }
  (List.range 64).foldl (fun (s : State) m => s.showNext m) s

/-- The 100 ms watchdog has not been reloaded in time (20 R521). -/
def State.wdtDue (s : State) : Bool := decide (s.gable.wdtAt + 100 * psMs ≤ s.now)
/-- WATCHDOG_EXPIRE (20 R521): a halt request at the same edge wins. -/
def watchdogExpire (s : State) : State := if s.wdtDue ∧ ¬ (s.gable.haltReq ∧ s.gable.haltAt = s.now) then s.beginRestart 1 0 else s
def execWatchdogExpire (s : State) : Out := .next (watchdogExpire s)

/-- GABLE_RESTART: a cause begins a restart; with none, the restart that runs ends as the operands say. -/
def gableRestart (s : State) (cause : BitVec 3) (fwAddr : BitVec 32) (restored recordsOk : Bool) : State :=
  if cause = 1 then watchdogExpire s
  else if cause = 2 ∨ cause = 3 ∨ cause = 4 then s.beginRestart cause fwAddr
  else if cause = 0 ∧ s.gable.gstate = .restarting ∧ s.engineRuns then
    if restored then s.endRestart recordsOk else (s.setGstate .failed).modCfg fun c => { c with cfgErr := true }
  else s
def execGableRestart (cause : BitVec 3) (fwAddr : BitVec 32) (restored recordsOk : Bool) (s : State) : Out :=
  .next (gableRestart s cause fwAddr restored recordsOk)

/-- GABLE_SRAM_SCRUB: the scrub of every 10 s corrects a single-bit error; a double one restarts with cause DATA (17 R448). -/
def gableSramScrub (s : State) (u : Upset) : State :=
  if ¬ s.gableServes ∨ ¬ s.engineRuns ∨ s.now < s.gable.scrubAt + 10000 * psMs then s
  else
    let s := s.modGable fun g => { g with scrubAt := s.now }
    if u = .double then (s.drew 1).beginRestart 3 (s.freeVal.setWidth 32) else s
def execGableSramScrub (u : Upset) (s : State) : Out := .next (gableSramScrub s u)

end Sys2Proof.Machine
end

