-- ==== Sys2Proof/Machine/Events.lean ====
section
/-! DEFINITION. The event router, the log and its commands, and the router status command (19 R482 to R494; 17 Table 17.10). -/

namespace Sys2Proof.Machine

/-! ### Writing the log (19 R482 to R486; 01 R37) -/

/-- An INDEX after another (19 R482). -/
def nextIndex (i : BitVec 32) : BitVec 32 := if i = 0xFFFFFFFF then 1 else i + 1

/-- SRC and target ID of an ACCESS_DENIED entry (19 Table 19.3). -/
def LogEntry.denKey (e : LogEntry) : Option (BitVec 12 × BitVec 16) :=
  if e.typ = 1 then some (BitVec.ofNat 12 (bitsOf e.locA.toNat 20 12), BitVec.ofNat 16 (bitsOf e.locA.toNat 4 16)) else none

/-- The repeats counted for a denial entry before it is written, the log without them, and whether it is the entry still counted on. -/
def Log.takeRepeats (l : Log) (e : LogEntry) : BitVec 16 × Log × Bool :=
  match e.denKey with
  | none => (0, l, false)
  | some k =>
    match l.denOld.find? fun x => x.1 == k.1 && x.2.1 == k.2 with
    | some x => (x.2.2, { l with denOld := l.denOld.erase x }, false)
    | none => if l.denKey = some k ∧ l.denIdx = 0 then (l.denRep, { l with denRep := 0 }, true) else (0, l, false)

/-- An entry is appended; with all 4,096 slots taken the oldest gives way (19 R482). -/
def Log.append (l : Log) (e : LogEntry) : Log :=
  let full := 4096 ≤ l.entries.length
  { l with entries := (if full then l.entries.tail else l.entries) ++ [(l.next, e)], next := nextIndex l.next,
           overwritten := if full then satInc l.overwritten else l.overwritten }

/-- The entry of the oldest item of the intake, with its time and its repeats (19 Table 19.2). -/
def State.stampEntry (s : State) (e : LogEntry) (rep : BitVec 16) : LogEntry :=
  { e with time := nowLayout (s.ps 8), flags := e.flags ||| BitVec.ofNat 8 (bnat (s.coarse 8)), rep := rep }

/-- LOG_OVERWRITE is raised at most once a second (19 R482). -/
def State.noteOverwrite (s : State) : State :=
  let due : Bool := match s.log.overAt with
    | some t => decide (t + 1000 * psMs ≤ s.now)
    | none => true
  if due then (s.raiseHub 0x3B0 s.log.overwritten.toNat none).modLog fun l => { l with overAt := some s.now } else s

/-- The intake has room again: one LOG_DROP entry joins it with the number lost (19 R486). -/
def Log.noteDrops (l : Log) (now : Nat) : Log :=
  if l.pendDrops = 0 ∨ 1024 ≤ l.intake.length then l
  else { l with intake := l.intake ++ [{ entry := mkEntry 0x1B 1 noEvid 8 l.pendDrops.toNat, atPs := now }], pendDrops := 0 }

/-- LOG_ENTRY_WRITE: while the firmware runs it takes the oldest item and writes its entry (19 R483). -/
def logEntryWrite (s : State) : State :=
  if ¬ s.gableServes ∨ ¬ s.engineRuns then s
  else
    match s.log.intake with
    | [] => s.setLog (s.log.noteDrops s.now)
    | x :: rest =>
      let r := s.log.takeRepeats x.entry
      let full := 4096 ≤ s.log.entries.length
      let s := s.setLog
        ((({ r.2.1 with intake := rest, denIdx := if r.2.2 then s.log.next else r.2.1.denIdx } : Log).append (s.stampEntry x.entry r.1)).noteDrops s.now)
      if full then s.noteOverwrite else s
def execLogEntryWrite (s : State) : Out := .next (logEntryWrite s)

/-! ### Reading the log (19 R485) -/

def Log.oldest (l : Log) : Nat := match l.entries with
  | [] => 0
  | e :: _ => e.1.toNat
def Log.newest (l : Log) : Nat := match l.entries.getLast? with
  | none => 0
  | some e => e.1.toNat

/-- How many held entries are older than INDEX, or 4,096 and above when INDEX is newer than NEWEST. While the indices held wrap, what lies
    between NEWEST and OLDEST is taken on its nearer side. -/
def Log.place (l : Log) (i : Nat) : Nat :=
  let n := l.entries.length
  let m := 2 ^ 32 - 1
  if l.oldest ≤ l.newest then (if l.newest < i then n else i - l.oldest)
  else
    let k := (i + m - l.oldest) % m
    if k < n then k else if (i + m - l.newest) % m < m / 2 then n else 0

def cmdLogInfo : Command where
  code := 0x0700
  argOk := fun _ r => lenIs 0 r
  body := fun s _ _ =>
    (s, okReply (leBytes 2 s.log.entries.length ++ leBytes 2 0 ++ leBytes 4 s.log.oldest ++ leBytes 4 s.log.newest ++
      leBytes 4 s.log.overwritten.toNat))
def execLogInfo (m : Nat) (s : State) : Out := .next (cmdLogInfo.serve m s)

/-- An entry as LOG_READ gives it (19 Table 19.2). -/
def LogEntry.bytes (e : LogEntry) (idx : BitVec 32) : List (BitVec 8) :=
  leBytes 4 idx.toNat ++ leBytes 2 e.typ.toNat ++ [e.sev, e.flags] ++ leBytes 8 e.time.toNat ++ leBytes 2 e.evid.toNat ++ leBytes 2 e.rep.toNat ++
    leBytes 4 e.locA.toNat ++ leBytes 8 e.locB.toNat

def cmdLogRead : Command where
  code := 0x0701
  argOk := fun _ r => lenIs 8 r && r.zero 5 3 && decide (1 ≤ r.num 4 1) && decide (r.num 4 1 ≤ 7)
  body := fun s _ r =>
    let l := (s.log.entries.drop (s.log.place (r.num 0 4))).take (r.num 4 1)
    let first := match l with
      | [] => s.log.next.toNat
      | e :: _ => e.1.toNat
    (s, okReply (leBytes 4 first ++ leBytes 1 l.length ++ leBytes 3 0 ++ (l.map fun e => e.2.bytes e.1).flatten))
def execLogRead (m : Nat) (s : State) : Out := .next (cmdLogRead.serve m s)

/-- The entries up to UPTO, in ring order from OLDEST. -/
def Log.upTo (l : Log) (i : Nat) : Nat :=
  let n := l.entries.length
  if l.oldest ≤ l.newest ∧ i < l.oldest then 0
  else
    let p := l.place i
    if p = 0 ∧ i ≠ l.oldest then 0 else min n (p + 1)

def cmdLogClear : Command where
  code := 0x0702
  may := needC
  argOk := fun _ r => lenIs 4 r
  body := fun s _ r => (s.modLog fun l => { l with entries := l.entries.drop (l.upTo (r.num 0 4)) }, okReply [])
def execLogClear (m : Nat) (s : State) : Out := .next (cmdLogClear.serve m s)

/-! ### RIDGE_STATUS (17 Table 17.10) -/

/-- Masters that inject on the H-die. -/
def hubMasters : List (BitVec 12) := [0x800, 0x801, 0x840, 0x8F0, 0x8F1] ++ (List.range 32).map fun c => BitVec.ofNat 12 (0x810 + c)

/-- The late responses of the hub masters of an H-die router (07 R205). -/
def State.hubLate (s : State) (r : Nat) : Nat :=
  min 0xFFFF ((hubMasters.filter fun mid => match s.portOfDest (destOfSrc mid) with
    | some (8, q, _) => q == r
    | _ => false).map fun mid => (s.master mid).lateCnt.toNat).sum

def State.ridgeStatus (s : State) (r first : Nat) : List (BitVec 8) :=
  let x := s.router 8 r
  leBytes 2 x.corr.toNat ++ leBytes 2 x.discard.toNat ++ leBytes 2 (s.hubLate r) ++ leBytes 1 (bnat x.idle) ++
    leBytes 1 ((List.range 22).filter fun p => s.hasPort 8 r p).length ++
    ((List.range 64).map fun i => leBytes 2 (bitsOf (s.rtrCred 8 r (first + i / 8) (i % 8)) 0 16)).flatten

def cmdRidgeStatus : Command where
  code := 0x0806
  argOk := fun _ r => lenIs 4 r && r.zero 2 2 && decide (r.num 0 1 < 16) && decide (r.num 1 1 < 22)
  body := fun s _ r => (s, okReply (s.ridgeStatus (r.num 0 1) (r.num 1 1)))
def execRidgeStatus (m : Nat) (s : State) : Out := .next (cmdRidgeStatus.serve m s)

/-! ### The event router (19 R491) -/

/-- The new event joins a FIFO of 32 entries, or is discarded and counted in LOST. -/
def EvOut.push (o : EvOut) (e : Event) : EvOut := if o.fifo.length < 32 then { o with fifo := o.fifo ++ [e] } else { o with lost := satInc o.lost }

/-- The packet of a TYPE 2 output, to its TARGET (07 R186, R188). -/
def State.outPkt (s : State) (o : EvOut) (e : Event) : Pkt :=
  { eventPkt { e with stamp := s.stamp 8, coarse := s.coarse 8, note := none } (Config.controlPortSrc 8) (BitVec.ofNat 16 o.target) false with note := none }

/-- TARGET names a fabric port of the part or a guest site. -/
def State.targetOk (s : State) (o : EvOut) : Bool :=
  let die := bitsOf o.target 12 4
  if die = 12 ∨ die = 13 then decide (die - 12 < s.fuses.part.sites)
  else decide (die < s.fdies) && decide (bitsOf o.target 0 6 < 2) && (s.portOfDest (BitVec.ofNat 16 o.target)).isSome

/-- The EVT input VC of the event router's port has room for one flit. -/
def State.evtRoom (s : State) : Bool := match s.portOfDest (hubDest 2) with
  | some (node, r, p) => decide (s.rxOcc node r p MsgClass.evt.vc < 8)
  | none => false

/-- The oldest event of a TYPE 2 output leaves while credits allow (19 Table 19.6). -/
def State.drainOut (s : State) (k : Nat) : State :=
  let o := s.evOut k
  if o.typ ≠ 2 ∨ ¬ s.evtRoom then s
  else
    match o.fifo with
    | [] => s
    | e :: rest => (s.modEvOut k fun x => { x with fifo := rest }).sendFrom (hubDest 2) (s.outPkt o e)

/-- One output takes an event its mask holds (19 Table 19.6). -/
def State.copyTo (s : State) (e : Event) (k : Nat) : State :=
  let o := s.evOut k
  if ¬ (tget (0 : BitVec 32) o.mask (e.evid.toNat / 32)).getLsbD (e.evid.toNat % 32) then s
  else if o.typ = 1 then
    s.modEvOut k fun o => if o.target < 64 ∧ (s.mbx o.target).bound then o.push e else { o with lost := satInc o.lost }
  else if o.typ = 2 then
    if s.targetOk o then (s.modEvOut k fun o => o.push e).drainOut k else s
  else if o.typ = 3 then
    if o.mode1 then
      let near : Bool := match o.pulseAt with
        | some t => decide (s.now < t + 200000)
        | none => false
      s.modEvOut k fun o => if near then { o with lost := satInc o.lost } else { o with pulseAt := some s.now }
    else s.modEvOut k fun o => o.push e
  else s

/-- EVENT_ROUTE: TYPE 2 outputs that hold events send on; then one raised event is copied to the outputs whose masks hold it, and what the
    firmware logs of it joins the intake (19 R486, R491). -/
def eventRoute (s : State) : State :=
  if ¬ s.ridgeClock 8 then s
  else
    let s := (List.range 64).foldl (fun (s : State) k => s.drainOut k) s
    match s.evr.raised with
    | [] => s
    | e :: rest =>
      let s := s.modEvr fun x => { x with raised := rest }
      let s := (List.range 64).foldl (fun (s : State) k => s.copyTo e k) s
      match e.note with
      | some n => s.logNote n
      | none => s
def execEventRoute (s : State) : Out := .next (eventRoute s)

/-- FABRIC_EVENT_INPUT: a pulse on EVIn, on the FCLK net that the image names; pulses less than 8 NOCCLK cycles apart are one event (19 R488). -/
def fabricEventInput (s : State) (d n : Nat) (data : BitVec 32) : State :=
  if s.fdies ≤ d ∨ 64 ≤ n ∨ ¬ s.nocRuns d ∨ ¬ s.fclkRuns d (Config.imageEvNet s.cfg.bundle d).toNat ∨ ¬ (s.cfg.phase = .p3 ∨ s.cfg.phase = .running) ∨ (s.die d).leggett.fenced then s
  else
    let last := tget 0 s.evr.fabAt (64 * d + n)
    let s1 := s.modEvr fun e => { e with fabAt := tput 0 e.fabAt (64 * d + n) (s.now + 1) }
    if last ≠ 0 ∧ s.now < last - 1 + s.nocPs 8 then s1
    else s1.raiseEvent d (d * 0x60 + 0x20 + n) data.toNat none
def execFabricEventInput (die n : Nat) (data : BitVec 32) (s : State) : Out := .next (fabricEventInput s die n data)

/-! ### Event router registers (19 R490, R494) -/

/-- An 8-byte write of EVR_RAISE (19 R490). -/
def State.evrRaise (s : State) (v : Nat) : State := s.raiseHub (0x3E0 + bitsOf v 32 5) (bitsOf v 0 32) none

def execEvrRaise (w : Who) (data : BitVec 64) (s : State) : Out :=
  .next (s.access w (hubBase 2 + 0x008) true fun s => regOk (s.evrRaise data.toNat) 0)

/-- The SRC rule of a mailbox output (19 R491). -/
def State.outAllows (s : State) (src : BitVec 12) (k : Nat) : Bool := (s.evOut k).typ != 1 || ((s.evOut k).target < 64 && s.mayPop src (s.evOut k).target)

/-- EVR_POP_k: pops the oldest record, or 0 with VALID = 0; a peek leaves everything as it is (19 Table 19.8). -/
def State.evrPop (s : State) (src : BitVec 12) (effect : Bool) (k : Nat) : RegRes :=
  if ¬ isPeek src effect ∧ ¬ s.outAllows src k then regDenied s
  else
    match (s.evOut k).fifo with
    | [] => regOk s 0
    | e :: rest =>
      if isPeek src effect then regOk s e.record else regOk (s.modEvOut k fun o => { o with fifo := rest, popStamp := e.stamp }) e.record

def execEvrPop (w : Who) (k : Nat) (s : State) : Out :=
  .next (s.access w (hubBase 2 + 0x1008 + k * 0x20) false fun s => s.evrPop w.src w.effect k)

/-- EVR_OUT_CTRL_k: FLUSH discards the FIFO, CLR_LOST clears LOST; a mailbox output takes them as it takes a pop (19 Table 19.7). -/
def State.evrCtrl (s : State) (src : BitVec 12) (k v : Nat) : RegRes :=
  if s.outAllows src k then
    regOk (s.modEvOut k fun o =>
      { o with fifo := if bitOf v 0 then [] else o.fifo, lost := if bitOf v 1 then 0 else o.lost }) 0
  else regDenied s

def execEvrOutFlush (w : Who) (k : Nat) (s : State) : Out :=
  .next (s.access w (hubBase 2 + 0x1014 + k * 0x20) true fun s => s.evrCtrl w.src k 1)
def execEvrOutClrLost (w : Who) (k : Nat) (s : State) : Out :=
  .next (s.access w (hubBase 2 + 0x1014 + k * 0x20) true fun s => s.evrCtrl w.src k 2)

/-- A word of the event router block (19 Table 19.7). -/
def State.evrWord (s : State) (off : Nat) : Nat :=
  if off = 0x000 then s.log.intake.length
  else if off = 0x004 then s.log.drops.toNat
  else if 0x1000 ≤ off ∧ off < 0x1800 then
    let o := s.evOut ((off - 0x1000) / 0x20)
    let r := off % 0x20
    if r = 0x00 then o.cfg.toNat
    else if r = 0x04 then o.fifo.length + atLo o.lost.toNat 16
    else if r = 0x10 then o.popStamp.toNat
    else 0
  else if 0x8000 ≤ off ∧ off < 0xA000 then (tget (0 : BitVec 32) (s.evOut ((off - 0x8000) / 0x80)).mask (off % 0x80 / 4)).toNat
  else 0

/-- An access to the event router block. -/
def evrReg (w : Who) (s : State) (off : Nat) (write eight : Bool) (v : Nat) : RegRes :=
  let k := (off - 0x1000) / 0x20
  let inOut := decide (0x1000 ≤ off) && decide (off < 0x1800)
  if off = 0x008 ∨ off = 0x00C then
    (if write then (if eight ∧ off = 0x008 then regOk (s.evrRaise v) 0 else regErr s) else regOk s 0)
  else if inOut ∧ off % 0x20 / 8 = 1 then
    (if ¬ eight then regErr s else if write then regOk s 0 else s.evrPop w.src w.effect k)
  else if write then
    if inOut ∧ off % 0x20 = 0x10 ∧ eight then s.evrCtrl w.src k (v / 2 ^ 32)
    else if inOut ∧ off % 0x20 = 0x14 then s.evrCtrl w.src k v
    else regOk s 0
  else regOk s (words s.evrWord off eight)

end Sys2Proof.Machine
end

