-- ==== Sys2Proof/Machine/Ladder.lean ====
section
/-! DEFINITION. Ladder: the TAP chain, the debug bus master, run control, authorization, and the supplies (20 R509 to R522; 21 R528, R531). -/

namespace Sys2Proof.Machine

/-! ### Freezes and stops (20 R509, R516, R517) -/

/-- The freeze of every group is lifted; every net runs again (20 R509). -/
def State.liftStops (s : State) : State :=
  let frozen := s.dieList.flatMap fun d => ((s.die d).groups.filter fun e => e.2.frozen).map fun e => (d, e.1)
  let s := frozen.foldl (fun (s : State) e => s.unfreeze e.1 e.2) s
  let s := s.modClk fun k => { k with nodes := tmodAll ClkNode.reset k.nodes (k.nodes.map (·.1)) fun _ (n : ClkNode) => { n with stop := false } }
  s.modLad fun l => { l with fclkStop := [], fclkStep := none, slgFreeze := [], slgStep := none, slgHeld := [] }

/-- The core runs again: the watchdog is reloaded, heartbeats start their full periods, what waited for the core goes on (20 R520, R521;
    13 R365). -/
def State.gableRun (s : State) : State :=
  if ¬ s.gable.halted then s.modGable fun g => { g with haltReq := false }
  else
    let s := s.modGable fun g =>
      { g with halted := false, haltReq := false, reservation := false, wdtAt := s.now,
               mbx := tmodAll Mbx.reset g.mbx (g.mbx.map (·.1)) fun _ (b : Mbx) => { b with hbAt := s.now, hbUsed := 0 } }
    let s := if s.gable.gstate = .halted then
        s.setGstate (if 0 < s.gable.beginnings then .restarting else if s.cfg.fwIf = 0 then .recovery else .running)
      else s
    let s := s.dieList.foldl (fun (s : State) d =>
      ((s.die d).leggett.waiting).foldl (fun (s : State) e => match e.note with
        | some note => if e.evid = BitVec.ofNat 10 noEvid then s.logNote note else s.inject d 5 7 (eventPkt e (Config.controlPortSrc d) (hubDest 2) true)
        | none => s.inject d 5 7 (eventPkt e (Config.controlPortSrc d) (hubDest 2) true))
        (s.modLeggett d fun l => { l with waiting := [] })) s
    (List.range 64).foldl (fun (s : State) m => s.showNext m) s

/-- What the core holds when it stops: its instruction set is no part of the manual, so its registers and what is left of the watchdog are
    free values. -/
def State.freeCore (s : State) : State :=
  let w (i : Nat) : BitVec 32 := (s.freeValAt i).setWidth 32
  (s.drew 34).modGable fun g =>
    { g with gr := (List.range 32).foldl (fun t i => tput 0 t i (w i)) [], pc := w 32, wdtLeft := (w 33).toNat % 100001 }

/-- The core stops with its timers, its watchdog and the mailbox engine (20 R520). -/
def State.haltNow (s : State) (broken : Bool) : State :=
  let s := s.freeCore.hbStop.modGable fun g =>
    { g with halted := true, haltReq := false, reservation := false, lockBroken := g.lockBroken || broken }
  if s.gable.gstate = .failed then s else s.setGstate .halted

/-! ### Reset of Ladder (20 R509, R519) -/

/-- TRSTn, or the detector on VDD_DBG: TAPs, authorization and registers reset, a new nonce; stops, freezes and halts are cleared. The count of
    failed certificates stays until PORn. An access on its way is given up. -/
def State.ladderReset (s : State) : State :=
  let s := s.liftStops.gableRun
  let s := s.modMaster 0x801 fun m => { m with out := [], quar := m.quar ++ m.out.map fun o => (o.tag, s.now + 4 * m.tmoUs.toNat * psUs) }
  s.modLad fun l => { Ladder.reset with powered := l.powered, authFails := l.authFails, nonceCtr := l.nonceCtr + 1 }

def execTrstnAssert (s : State) : Out := .next (if s.lad.powered then s.ladderReset else s)
def execVddDbgLoss (s : State) : Out := .next (s.ladderReset.modLad fun l => { l with powered := false })
def execVddDbgReturn (s : State) : Out := .next (if s.lad.powered then s else s.ladderReset.modLad fun l => { l with powered := true })

/-! ### TAP instructions (20 R510 to R512) -/

/-! Each instruction row is an instruction scan, which captures 0x01, and the data scan that follows. -/

/-- The TAP is in the chain: the H-die's, or an F-die's. -/
def State.hasTap (s : State) (t : Nat) : Bool := s.lad.powered && s.hasNode t

def State.tap (s : State) (t : Nat) : Tap := tget Tap.reset s.lad.taps t
def State.modTap (s : State) (t : Nat) (f : Tap → Tap) : State := s.modLad fun l => { l with taps := tmod Tap.reset l.taps t f }

/-- No image runs: CFG_STATUS.PHASE is 0 or 6 (20 R511). -/
def State.noImage (s : State) : Bool := s.cfg.phase == .boot || s.cfg.phase == .recovery

/-- What the boundary register captures: pin levels and a layout the manual does not give. -/
def State.boundarySample (s : State) : BitVec 128 := s.freeVal ++ s.freeValAt 1

/-- An instruction that takes the pins: in force while no image runs, else BYPASS with REFUSED (20 R511). -/
def State.pinInstr (s : State) (t : Nat) (code : BitVec 8) (bits : Option (BitVec 64)) : State :=
  if ¬ s.hasTap t then s
  else if s.noImage then
    match bits with
    | some b => (s.drew 2).modTap t fun x => { x with irOut := 0x01, ir := code, boundary := b, dr := s.boundarySample }
    | none => s.modTap t fun x => { x with irOut := 0x01, ir := code, dr := 0 }
  else (s.modTap t fun x => { x with irOut := 0x01, ir := 0xFF, dr := 0 }).modLad fun l => { l with refused := true }

def execExtest (tap : Nat) (bits : BitVec 64) (s : State) : Out := .next (s.pinInstr tap 0x00 (some bits))
def execExtestPulse (tap : Nat) (bits : BitVec 64) (s : State) : Out := .next (s.pinInstr tap 0x03 (some bits))
def execExtestTrain (tap : Nat) (bits : BitVec 64) (s : State) : Out := .next (s.pinInstr tap 0x04 (some bits))
def execClamp (tap : Nat) (s : State) : Out := .next (s.pinInstr tap 0x05 none)
def execHighz (tap : Nat) (s : State) : Out := .next (s.pinInstr tap 0x06 none)

/-- IDCODE: the die's code is captured (20 R510). -/
def execIdcode (tap : Nat) (s : State) : Out :=
  .next (if s.hasTap tap then s.modTap tap fun x => { x with irOut := 0x01, ir := 0x01, dr := if tap = 8 then 0x1F1009CB else 0x1F1F09CB } else s)

/-- SAMPLE/PRELOAD works at any time and disturbs nothing (20 R511). -/
def execSamplePreload (tap : Nat) (bits : BitVec 64) (s : State) : Out :=
  .next (if s.hasTap tap then (s.drew 2).modTap tap fun x => { x with irOut := 0x01, ir := 0x02, boundary := bits, dr := s.boundarySample } else s)

/-- Codes of Table 20.7 that a TAP has as instructions other than BYPASS. -/
def tapListed (tap : Nat) (code : BitVec 8) : Bool := decide (code.toNat < 0x07) || (tap == 8 && decide (0x10 ≤ code.toNat) && decide (code.toNat ≤ 0x12))

/-- BYPASS: code 0xFF and every code not listed (20 R510). -/
def execBypass (tap : Nat) (code : BitVec 8) (s : State) : Out :=
  .next (if s.hasTap tap ∧ ¬ tapListed tap code then s.modTap tap fun x => { x with irOut := 0x01, ir := code, dr := 0 } else s)

/-- WAKE: wakes the package where the source is enabled (18 R475). -/
def execWake (s : State) : Out :=
  .next (
    if s.hasTap 8 then
      let s := s.modTap 8 fun x => { x with irOut := 0x01, ir := 0x12, dr := 0 }
      if s.clk.wakeEn.getLsbD 4 then s.packageWake 4 else s
    else s)

/-! ### The debug bus master (20 R513, R514) -/

/-- What Capture-DR loads (20 Table 20.8). -/
def Ladder.capture (l : Ladder) : BitVec 128 :=
  BitVec.ofNat 128 (atLo l.busData.toNat 48 + atLo l.busRsp.toNat 112 + atBit l.busDone 115)

/-- The request of a scan: a privileged read or write of 4 or 8 bytes (20 R513). -/
def busReq (dr : BitVec 128) : Req :=
  let n := if dr.getLsbD 113 then 8 else 4
  let write := dr.getLsbD 112
  { opc := if write then 3 else 1, addr := dr.extractLsb' 0 48, len := BitVec.ofNat 8 (n - 1),
    be := if write then BitVec.ofNat 64 (2 ^ n - 1) else 0, ord := false, poison := false,
    data := if write then leBytes n (dr.extractLsb' 48 64).toNat else [] }

/-- BUSACC: a scan captures the last access, then issues the new one unless one is outstanding; EFFECT goes in TAG[9]. Without power, in
    package DEEP or under PORn, it completes at once with TIMEOUT. -/
def busAcc (s : State) (dr : BitVec 128) : State :=
  if ¬ s.hasTap 8 then s
  else
    let pend := s.lad.busPend
    let s := s.modTap 8 fun x => { x with irOut := 0x01, ir := 0x10, dr := s.lad.capture }
    if pend then s
    else if s.cfg.porn ∨ s.clk.pkg = .deep then s.modLad fun l => { l with busRsp := respTimeout, busDone := true, busData := 0 }
    else
      let s := s.modMaster 0x801 fun m => { m with nextTag := if dr.getLsbD 114 then 0x200 else 0 }
      (s.injectReq 0x801 (busReq dr) 0).1.modLad fun l => { l with busPend := true, busDone := false, busData := 0, busRsp := 0 }
def execBusacc (dr : BitVec 128) (s : State) : Out := .next (busAcc s dr)

/-- The response of an access is captured (20 Table 20.8). -/
def State.busResponse (s : State) (k : Pkt) : State :=
  if s.lad.busPend then
    s.modLad fun l => { l with busPend := false, busDone := true, busRsp := k.resp, busData := BitVec.ofNat 64 (numAt k.data 0 8) }
  else s

/-! ### Authorization (20 R519) -/

def Ladder.locked (l : Ladder) : Bool := decide (16 ≤ l.authFails.toNat)
/-- LD_NONCE. -/
def Ladder.nonce (l : Ladder) : BitVec 64 := Config.nonce l.nonceCtr

/-- AUTH takes one byte of a certificate; the last one starts the check. -/
def authByte (s : State) (data : BitVec 8) : State :=
  if ¬ s.hasTap 8 then s
  else
    let s := s.modTap 8 fun x => { x with irOut := 0x01, ir := 0x11, dr := 0 }
    if s.lad.locked ∨ s.lad.verifying then s
    else s.modLad fun l => { l with cert := l.cert ++ [data], verifying := l.cert.length + 1 == 224 }
def execAuth (data : BitVec 8) (s : State) : Out := .next (authByte s data)

/-- A certificate passes: its fields, ID_UNIQUE, the current nonce, and check 3 of R317 (20 Table 20.9). -/
def State.certOk (s : State) (c : List (BitVec 8)) : Bool :=
  numAt c 0 4 == 0x4144464B && numAt c 5 3 == 0 && numAt c 8 8 == s.fuses.unique.toNat && numAt c 0x10 8 == s.lad.nonce.toNat &&
  numAt c 0x79 7 == 0 && s.keySigns (numAt c 4 1) (bytesAt c 0x18 97) (bytesAt c 0x80 96) (bytesAt c 0 0x80)

def authVerifyDone (s : State) : State :=
  if ¬ s.lad.powered ∨ ¬ s.lad.verifying then s
  else
    let ok := s.certOk s.lad.cert
    s.modLad fun l =>
      { l with auth := l.auth || ok, authFails := if ok ∨ l.locked then l.authFails else l.authFails + 1, cert := [], verifying := false,
               nonceCtr := l.nonceCtr + 1 }
def execAuthVerifyDone (s : State) : Out := .next (authVerifyDone s)

/-! ### Run control of clocks and slices (20 R516, R517) -/

/-- LD_FCLK_STOP_d: each bit stops its net at the output of its selector. -/
def State.ldFclkStop (s : State) (d v : Nat) : State :=
  let s := (List.range 32).foldl (fun (s : State) n => s.modNode (fclkNode d n) fun x => { x with stop := bitOf v n }) s
  s.modLad fun l => { l with fclkStop := tput 0 l.fclkStop d (BitVec.ofNat 32 v) }

/-- The span of COUNT rising edges of a node's source, ps. -/
def State.edgeSpan (s : State) (c count : Nat) : Nat := let f := s.nodeKhz c; if f = 0 then 0 else ceilDiv (count * 1000000000) f

/-- A step of a net runs. -/
def State.fclkStepBusy (s : State) : Bool := match s.lad.fclkStep with
  | some (_, t) => decide (s.now < t)
  | none => false
def State.slgStepBusy (s : State) : Bool := match s.lad.slgStep with
  | some (_, _, t) => decide (s.now < t)
  | none => false

/-- LD_FCLK_STEP passes COUNT edges to one stopped net; none where the net is not stopped or a step runs. -/
def State.ldFclkStep (s : State) (v : Nat) : Option State :=
  let d := bitsOf v 0 4; let c := fclkNode d (bitsOf v 4 5)
  if d < s.fdies ∧ (s.node c).stop ∧ ¬ s.fclkStepBusy then
    some (s.modLad fun l => { l with fclkStep := some (c, s.now + s.edgeSpan c (bitsOf v 16 16)) })
  else none

/-- LD_SLG_FREEZE_d_w: groups 32w to 32w + 31 freeze or run again on one edge. -/
def State.ldSlgFreeze (s : State) (d w v : Nat) : State :=
  let s := (List.range 32).foldl (fun (s : State) i =>
    let g := 32 * w + i
    if bitOf v i then s.modGroup d g fun x => { x with frozen := true } else s.unfreeze d g) s
  s.modLad fun l => { l with slgFreeze := tput 0 l.slgFreeze (4 * d + w) (BitVec.ofNat 32 v) }

/-- Writes held for a frozen group take effect at the first edge it receives (20 R517). -/
def State.applyHeld (s : State) (d g : Nat) : State :=
  let mine (e : Nat × Nat × BitVec 2) : Bool := e.1 == d && e.2.1 / 16 == g
  let held := s.lad.slgHeld.filter mine
  (s.modLad fun l => { l with slgHeld := l.slgHeld.filter fun e => !mine e }).slHeld d g held

/-- LD_SLG_STEP runs COUNT SCLK cycles of a frozen group; none where it is not frozen or a step runs. -/
def State.ldSlgStep (s : State) (v : Nat) : Option State :=
  let d := bitsOf v 0 4; let g := bitsOf v 4 7; let n := bitsOf v 16 16
  if d < s.fdies ∧ (s.group d g).frozen ∧ ¬ s.slgStepBusy then
    let s := if n = 0 then s else s.applyHeld d g
    some (s.modLad fun l => { l with slgStep := some (d, g, s.now + n * s.sclkPs) })
  else none

/-- The levels of a bay's 20,480 flip-flops in the order of Balten's location file, as five capture frames of 512 bytes (20 R518). -/
def State.captureBytes (s : State) (d b : Nat) : List (BitVec 8) :=
  let cells := regionCells (some b)
  let bit (i : Nat) : Bool :=
    let f := Config.captureFf (s.regionImage d (some b)) b i % 20480
    s.ffOut d (s.level d) (cells.getD (f / 2) 0) (f % 2 == 1)
  (List.range 2560).map fun k => BitVec.ofNat 8 (((List.range 8).map fun j => atBit (bit (8 * k + j)) j).foldl (· + ·) 0)

/-- LD_CAP_CTRL: with GO the flip-flops of a bay whose nets are all stopped are captured at one instant (20 R518). -/
def State.ldCapCtrl (s : State) (v : Nat) : State :=
  let d := bitsOf v 0 4; let b := bitsOf v 4 7
  let s := s.modLad fun l => { l with capCtrl := BitVec.ofNat 11 v }
  if ¬ bitOf v 31 then s
  else if d < s.fdies ∧ b < 96 ∧ (List.range 32).all fun n => !(s.bay d b).fclkEn.getLsbD n || (s.node (fclkNode d n)).stop then
    s.modLad fun l => { l with capData := tabWrite [] 0 (s.captureBytes d b) }
  else s.modLad fun l => { l with refused := true }

/-! ### Run control of the gable core (20 R520) -/

/-- HALT: at once, or deferred while the core holds a reservation. Whether it holds one is a free value: its instructions are no part of the
    manual. -/
def State.gableHalt (s : State) : State :=
  if s.gable.halted ∨ s.gable.haltReq then s
  else
    let held := s.freeVal.getLsbD 0
    let s := s.drew 1
    if held then s.modGable fun g => { g with haltReq := true, haltAt := s.now, reservation := true }
    else s.haltNow false

/-- 256 cycles of GCLK at 600 MHz, ps. -/
def haltLimit : Nat := 426667

/-- STEP: one instruction of a halted core; what it leaves in the registers is a free value. -/
def State.gableStep (s : State) : State :=
  if s.gable.halted then
    let left := s.gable.wdtLeft
    s.freeCore.modGable fun g => { g with wdtLeft := left }
  else s

/-- LD_GABLE_CTRL: its bits act in the order of their numbers. -/
def State.ldGableCtrl (s : State) (v : Nat) : State :=
  let s := if bitOf v 0 then s.gableHalt else s
  let s := if bitOf v 1 then s.gableRun else s
  if bitOf v 2 then s.gableStep else s

/-- LD_GABLE_HALT_FORCED: 256 cycles after it arrived a deferred halt is forced and the reservation broken; before that the core may release the
    reservation, which a free value tells. -/
def gableHaltForced (s : State) : State :=
  if ¬ s.gable.haltReq then s
  else if s.gable.haltAt + haltLimit ≤ s.now then s.haltNow true
  else if s.freeVal.getLsbD 0 then (s.drew 1).haltNow false
  else s.drew 1
def execLdGableHaltForced (s : State) : Out := .next (gableHaltForced s)

/-! ### Ladder registers (20 R522, Table 20.10) -/

/-- Registers whose Writer is Ladder. -/
def ladWriter (off : Nat) : Bool :=
  (decide (0x010 ≤ off) && decide (off < 0x034)) || (decide (0x040 ≤ off) && decide (off < 0x0C4)) || (off == 0x100) || (off == 0x104) || (off == 0x200) ||
  (decide (0x2000 ≤ off) && decide (off ≤ 0x2080))

/-- LD_GABLE_ registers, which need AUTH to be written (20 R519). -/
def ladNeedsAuth (off : Nat) : Bool := (off == 0x200) || (off == 0x204) || (off == 0x208) || (decide (0x2000 ≤ off) && decide (off ≤ 0x2080))

/-- A write of 32 bits to a Ladder register: DENIED, TGTERR, or its effect (20 R519, R522). -/
def State.ladPut (s : State) (src : BitVec 12) (off v : Nat) : State × BitVec 3 :=
  let opt (o : Option State) : State × BitVec 3 := match o with
    | some t => (t, respOk)
    | none => (s, respTgtErr)
  if ladWriter off ∧ src ≠ 0x801 then (s, respDenied)
  else if ladNeedsAuth off ∧ ¬ s.lad.auth then (s, respTgtErr)
  else if off = 0x000 then (s.modLad fun l => { l with refused := l.refused && !bitOf v 1 }, respOk)
  else if 0x010 ≤ off ∧ off < 0x030 then (if (off - 0x010) / 4 < s.fdies then s.ldFclkStop ((off - 0x010) / 4) v else s, respOk)
  else if off = 0x030 then opt (s.ldFclkStep v)
  else if 0x040 ≤ off ∧ off < 0x0C0 then
    (if (off - 0x040) / 0x10 < s.fdies then s.ldSlgFreeze ((off - 0x040) / 0x10) (off % 0x10 / 4) v else s, respOk)
  else if off = 0x0C0 then opt (s.ldSlgStep v)
  else if off = 0x100 then (s.ldCapCtrl v, respOk)
  else if off = 0x104 then (if bitsOf v 0 3 < 5 then s.modLad fun l => { l with capFrame := BitVec.ofNat 3 v } else s, respOk)
  else if off = 0x200 then (s.ldGableCtrl v, respOk)
  else if off = 0x204 then (s.modGable fun g => { g with lockBroken := g.lockBroken && !bitOf v 2 }, respOk)
  else if 0x2000 ≤ off ∧ off ≤ 0x2080 then
    if ¬ s.gable.halted then (s, respTgtErr)
    else if off = 0x2080 then (s.modGable fun g => { g with pc := BitVec.ofNat 32 v }, respOk)
    else (s.modGable fun g => { g with gr := tput 0 g.gr ((off - 0x2000) / 4) (BitVec.ofNat 32 v) }, respOk)
  else (s, respOk)

/-- The state of the core as LD_GABLE_STATUS shows it. -/
def Gable.haltState (g : Gable) : Nat := if g.halted then 2 else if g.haltReq then 1 else 0

/-- A Ladder register read as 32 bits; of a running core, its registers and its watchdog are free values. -/
def State.ladWord (s : State) (off : Nat) : Nat :=
  let l := s.lad
  let w := bitsOf s.freeVal.toNat 0 32
  if off = 0x000 then bnat l.auth + atBit l.refused 1 + atBit l.locked 2 + atLo l.authFails.toNat 3
  else if off = 0x008 then bitsOf l.nonce.toNat 0 32
  else if off = 0x00C then bitsOf l.nonce.toNat 32 32
  else if 0x010 ≤ off ∧ off < 0x030 then (tget 0 l.fclkStop ((off - 0x010) / 4)).toNat
  else if off = 0x034 then bnat s.fclkStepBusy + atBit s.slgStepBusy 1
  else if 0x040 ≤ off ∧ off < 0x0C0 then (tget 0 l.slgFreeze (4 * ((off - 0x040) / 0x10) + off % 0x10 / 4)).toNat
  else if off = 0x100 then l.capCtrl.toNat
  else if off = 0x104 then l.capFrame.toNat
  else if off = 0x204 then s.gable.haltState + atBit s.gable.lockBroken 2
  else if off = 0x208 then (if s.gable.halted then s.gable.wdtLeft else w % 100001)
  else if 0x1000 ≤ off ∧ off < 0x1200 then leNat (tabBytes l.capData (512 * l.capFrame.toNat + (off - 0x1000)) 4)
  else if 0x2000 ≤ off ∧ off < 0x2080 then (if s.gable.halted then (tget 0 s.gable.gr ((off - 0x2000) / 4)).toNat else w)
  else if off = 0x2080 then (if s.gable.halted then s.gable.pc.toNat else w)
  else 0

/-- The core's registers are read only with AUTH. -/
def State.ladReadRefused (s : State) (off : Nat) : Bool := decide (0x2000 ≤ off) && decide (off ≤ 0x2080) && !s.lad.auth

/-- An access to the Ladder block. -/
def ladReg (w : Who) (s : State) (off : Nat) (write eight : Bool) (v : Nat) : RegRes :=
  if write then
    let a := s.ladPut w.src off (v % 2 ^ 32)
    if a.2 ≠ respOk then (s, a.2, 0)
    else if eight then
      let b := a.1.ladPut w.src (off + 4) (v / 2 ^ 32)
      if b.2 ≠ respOk then (s, b.2, 0) else regOk b.1 0
    else regOk a.1 0
  else if s.ladReadRefused off then regErr s
  else regOk (if 0x208 ≤ off then s.drew 1 else s) (words s.ladWord off eight)

/-- A direct write of a Ladder register. -/
def ladDirect (w : Who) (off v : Nat) (s : State) : Out := .next (s.access w (hubBase 8 + off) true fun s => ladReg w s off true false v)

def execLdFclkStop (w : Who) (die : Nat) (data : BitVec 32) (s : State) : Out :=
  if die < 8 then ladDirect w (0x010 + die * 4) data.toNat s else .next s
def execLdFclkStep (w : Who) (data : BitVec 32) (s : State) : Out := ladDirect w 0x030 data.toNat s
def execLdSlgFreeze (w : Who) (die word : Nat) (data : BitVec 32) (s : State) : Out :=
  if die < 8 ∧ word < 4 then ladDirect w (0x040 + die * 0x10 + word * 4) data.toNat s else .next s
def execLdSlgStep (w : Who) (data : BitVec 32) (s : State) : Out := ladDirect w 0x0C0 data.toNat s
/-- LD_CAP_GO: the write of LD_CAP_CTRL with GO set. -/
def execLdCapGo (w : Who) (data : BitVec 32) (s : State) : Out := ladDirect w 0x100 (data ||| 0x80000000).toNat s
def execLdGableHalt (w : Who) (s : State) : Out := ladDirect w 0x200 1 s
def execLdGableRun (w : Who) (s : State) : Out := ladDirect w 0x200 2 s
def execLdGableStep (w : Who) (s : State) : Out := ladDirect w 0x200 4 s

/-! ### Supplies and temperature (21 R528, R531) -/

/-- A rail leaves its tolerance while PORn is high: the supply monitor resets the package as PORn does; the strap pins keep their levels. -/
def execSupplyMonitorReset (s : State) : Out :=
  .next (
    let straps := s.cfg.straps
    let s := if s.cfg.porn then s else s.powerOn.modCfg fun c => { c with straps := straps }
    (s.setSupplyBad true).setSupplyOkAt none)

/-- The rail is back in tolerance; after 1 ms the package boots as at PORn, unless the board holds PORn low. -/
def execSupplyReturn (s : State) : Out :=
  .next (
    if ¬ s.supplyBad then s
    else
      match s.supplyOkAt with
      | none => s.setSupplyOkAt (some s.now)
      | some t =>
        if t + psMs ≤ s.now then
          let s := (s.setSupplyBad false).setSupplyOkAt none
          if s.pornLow then s else s.leaveReset
        else s)

/-- A die passes 125 degrees C: THERMTRIPn goes low, and the device takes no action of its own (21 R531). -/
def execThermtrip (die : Nat) (s : State) : Out :=
  .next (
    if die < s.fdies then (s.setThermtrip true).modDie die fun x => { x with thermal := true }
    else if die = 8 then s.setThermtrip true
    else s)

end Sys2Proof.Machine
end

