-- ==== Sys2Proof/Machine/Targets.lean ====
section
/-! DEFINITION. What targets do with requests and masters with responses: the register map, TARGET_REQUEST, REGISTER_WRITE and
MASTER_RESPONSE (01 R23 to R25, R35; 07 R183 to R187, R205). -/

namespace Sys2Proof.Machine

/-! ### The register map (01 Table 1.4, Table 1.5) -/

/-- A block of read-only words; writes are ignored. -/
def roReg (rd : Nat → Nat) (s : State) (off : Nat) (write eight : Bool) : RegRes := if write then regOk s 0 else regOk s (words rd off eight)

/-- An address inside a span that holds no register reads 0 and ignores writes (01 R23). -/
def noReg (s : State) : RegRes := regOk s 0

/-- A read of a lane's registers; a lane has none that a user writes (09 Table 9.11). -/
def laneSpan (s : State) (k n off : Nat) (write eight : Bool) : RegRes := if write then regOk s 0 else laneReg s k n off eight

/-- The span of a link site: its link registers, then its lanes (10 R284). -/
def siteSpan (s : State) (k off : Nat) (write eight : Bool) (v : Nat) : RegRes :=
  if off < 0x1000 then linkReg s k off write eight v
  else if off < 0x1000 + 42 * 0x100 then laneSpan s k ((off - 0x1000) / 0x100) (off % 0x100) write eight
  else noReg s

/-- QUAD_STATUS of the quads of a die (09 R254). -/
def quadWord (s : State) (d off : Nat) : Nat := if off % 0x10 = 0 then s.quadStatus d (off / 0x10) else 0

/-- H-die lanes and Eoset-X ports, and the H-die's link sites (09 R254; 10 R284). -/
def hubLaneReg (s : State) (off : Nat) (write eight : Bool) (v : Nat) : RegRes :=
  if off < 0x1000 then laneSpan s (144 + off / 0x800) (off / 0x100 % 8) (off % 0x100) write eight
  else if 0x4000 ≤ off ∧ off < 0x4040 then roReg (quadWord s 8) s (off - 0x4000) write eight
  else if 0x8000 ≤ off ∧ off < 0xA000 then linkReg s (144 + (off - 0x8000) / 0x1000) (off % 0x1000) write eight v
  else if 0x10000 ≤ off ∧ off < 0x90000 then siteSpan s (128 + (off - 0x10000) / 0x10000) (off % 0x10000) write eight v
  else noReg s

/-- A hub block but the mailboxes. -/
def hubReg (w : Who) (s : State) (i off : Nat) (write eight : Bool) (v : Nat) : RegRes :=
  if i = 0 then roReg s.idWord s off write eight
  else if i = 2 then evrReg w s off write eight v
  else if i = 3 then timeReg w s 8 off write eight v
  else if i = 4 then dmaReg w s off write eight v
  else if i = 5 then clkReg s off write eight
  else if i = 6 then svcReg w s off write eight v
  else if i = 7 then cfgReg w s off write eight v
  else if i = 8 then ladReg w s off write eight v
  else if i < 17 then memReg s (i - 9) off write eight v
  else hubLaneReg s off write eight v

/-- The router sub-block of an F-die (07 R210). -/
def routerReg (w : Who) (s : State) (d off : Nat) (write eight : Bool) (v : Nat) : RegRes :=
  let r := off / 0x2000
  if 48 ≤ r then noReg s
  else if write then regOk (putWords (fun s o x => s.rtrWrite w.src d r o x) s (off % 0x2000) eight v) 0
  else regOk s (words (s.rtrRead d r) (off % 0x2000) eight)

/-- The lanes sub-block of an F-die: 24 lanes in six quads (09 R254). -/
def dieLaneReg (s : State) (d off : Nat) (write eight : Bool) : RegRes :=
  if off < 0x1800 then laneSpan s (256 + 8 * d + off / 0x400) (off / 0x100 % 4) (off % 0x100) write eight
  else if 0x4000 ≤ off ∧ off < 0x4060 then roReg (quadWord s d) s (off - 0x4000) write eight
  else noReg s

/-- The control region of an F-die (01 Table 1.5). -/
def dieReg (w : Who) (s : State) (d off : Nat) (write eight : Bool) (v : Nat) : RegRes :=
  let o := off % 0x100000
  if off < 0x100000 then roReg (s.dieIdWord d) s off write eight
  else if off < 0x200000 then routerReg w s d o write eight v
  else if off < 0x400000 then sliceReg w s d (off - 0x200000) write eight v .none
  else if off < 0x500000 then bayReg s d o write eight
  else if off < 0x600000 then lgReg s d o write eight
  else if off < 0x700000 then dieLaneReg s d o write eight
  else if off < 0x800000 then (if o < 0x8000 then gqReg w s d (o / 0x100) (o % 0x100) write eight v .none .none else noReg s)
  else if off < 0x900000 then timeReg w s d o write eight v
  else if off < 0xA00000 then probeReg w s d o write eight v
  else siteSpan s (linkKeyOf d (o / 0x10000)) (o % 0x10000) write eight v

/-- 4 or 8 bytes at a naturally aligned address (01 R25). -/
def regSize (addr n : Nat) : Bool := (n == 4 || n == 8) && addr % n == 0

/-- What an access to a control target answers: the state after it, RESP and the data read. -/
abbrev BusRes := State × BitVec 3 × List (BitVec 8)

/-- A register access of n bytes at an address of a control target. -/
def regAccess (w : Who) (s : State) (t : Target) (addr : Nat) (write : Bool) (data : List (BitVec 8)) (n : Nat) : BusRes :=
  let wide (r : RegRes) : BusRes := (r.1, r.2.1, if write then [] else leBytes n r.2.2.toNat)
  match t with
  | .hub 1 =>
    if write then let r := s.mbxWrite w.src (addr % 0x100000) data; (r.1, r.2, []) else s.mbxRead w.src w.effect (addr % 0x100000) n
  | .hub i => if regSize addr n then wide (hubReg w s i (addr % 0x100000) write (n == 8) (numAt data 0 8)) else (s, respTgtErr, [])
  | .fctl d => if regSize addr n then wide (dieReg w s d (addr % 0x1000000) write (n == 8) (numAt data 0 8)) else (s, respTgtErr, [])
  | _ => (s, respTgtErr, [])

/-! ### TARGET_REQUEST (01 R35; 07 R183 to R187) -/

/-- The requester as registers see it; EFFECT of the Ladder master rides in TAG[9] (20 R514). -/
def Pkt.who (k : Pkt) : Who := { src := k.src, priv := opcPriv k.opc, effect := k.tag.getLsbD 9 }

/-- The request buffer of a mailbox, which takes single bytes. -/
def inReqBuffer (addr : Nat) : Bool := decide (hubBase 1 ≤ addr) && decide (addr < hubBase 1 + 0x40000) && decide (addr % 0x1000 < 0x100)

/-- Payload bytes a write enables, the others as the buffer holds them (07 R183). -/
def State.mergeBytes (s : State) (k : Pkt) : List (BitVec 8) :=
  let a := k.addr.toNat - hubBase 1
  let old := tabBytes (s.mbx (a / 0x1000)).req (a % 0x1000) k.data.length
  (k.data.zip old).zipIdx.map fun e => if e.2 < 64 ∧ ¬ k.be.getLsbD e.2 then e.1.2 else e.1.1

/-- A write to the request buffer or the doorbell of a mailbox whose session another MID opened: DENIED before anything else is judged (01 R30). -/
def State.openerDenies (s : State) (t : Target) (k : Pkt) : Bool :=
  let o := k.addr.toNat % 0x100000
  t == .hub 1 && (opcWrite k.opc || opcRmw k.opc) && decide (o < 0x40000) && (decide (o % 0x1000 < 0x100) || o % 0x1000 / 4 == 0x80) &&
    s.otherOpener k.src (o / 0x1000)

/-- Every payload byte of a write is enabled. -/
def Pkt.allEnabled (k : Pkt) : Bool := k.be.toNat % 2 ^ min (k.len.toNat + 1) 64 == 2 ^ min (k.len.toNat + 1) 64 - 1

/-- A request a control target acts on (01 R25, R30; 07 R183, R184, R187): a poisoned write, a read-modify-write and a register write with part
    of its bytes enabled are answered TGTERR; a write with no byte enabled is answered as the write of all of them would be, and changes
    nothing. DESIGN CHOICE for that answer (log 151). -/
def State.controlAct (s : State) (t : Target) (k : Pkt) : BusRes :=
  let n := k.len.toNat + 1
  let a := k.addr.toNat
  if s.openerDenies t k then (s, respDenied, [])
  else if opcRmw k.opc then (s, respTgtErr, [])
  else if opcWrite k.opc then
    if k.poison then (s, respTgtErr, [])
    else if k.be = 0 then (s, (regAccess k.who s t a true k.data n).2.1, [])
    else if k.allEnabled then regAccess k.who s t a true k.data n
    else if inReqBuffer a then regAccess k.who s t a true (s.mergeBytes k) n
    else (s, respTgtErr, [])
  else regAccess k.who s t a false [] n

/-- The die, group and offset of an access to the memory window of a slice group (04 Table 4.6). -/
def Target.window (t : Target) (addr : Nat) : Option (Nat × Nat × Nat) :=
  let o := addr % 0x1000000 - 0x200000
  match t with
  | .fctl d =>
    if 0x200000 ≤ addr % 0x1000000 ∧ o < 0x200000 ∧ 0x2000 ≤ o % 0x4000 then some (d, o / 0x4000, o % 0x4000 - 0x2000) else none
  | _ => none

/-- A read or write of 4 or 8 bytes of the window whose memory port the slice uses: it waits for the port (04 R128). -/
def State.windowWaits (s : State) (t : Target) (addr : Nat) (write : Bool) (n : Nat) : Option (Nat × Nat × Nat) :=
  (t.window addr).filter fun e => regSize addr n && s.winHeld e.1 e.2.1 write

/-- A request at a control target: the access table first, then the target, then the response. -/
def State.controlRequest (s : State) (node r p : Nat) (k : Pkt) : State :=
  if ¬ s.portAdmits node r p k then s.denyAtPort node r p k
  else
    match s.decode k.addr.toNat with
    | none => s.respond node r p k respTgtErr []
    | some (t, _) =>
      let wr := opcWrite k.opc
      let plain : Bool := !opcRmw k.opc && (!wr || (k.allEnabled && !k.poison))
      let n := k.len.toNat + 1
      match if plain then s.windowWaits t k.addr.toNat wr n else none with
      | some (d, g, off) => s.holdWin d g off wr (n == 8) (numAt k.data 0 8) (some (r, p, k))
      | none =>
        let a := s.controlAct t k
        if a.2.1 = respDenied then s.denyAtPort node r p k else a.1.respond node r p k a.2.1 a.2.2

/-- A request at the fabric port of a bay: the access table, then the design, which answers OK, POISON or TGTERR with data of its own: what
    the user's logic does is no part of the manual (07 Table 7.8, R184). -/
def State.bayRequest (s : State) (node r p : Nat) (k : Pkt) : State :=
  if ¬ s.portAdmits node r p k then s.denyAtPort node r p k
  else
    let x := bitsOf s.freeVal.toNat 0 2
    let resp := if x = 1 then respPoison else if x = 2 then respTgtErr else respOk
    let s := s.drew 1
    let n := k.len.toNat + 1
    (s.drew n).respond node r p k resp (s.freeBytes n)

/-- The element behind a local port that takes requests: an ingress port of a DRAM channel, a control target, a bay. -/
inductive Element where
  | dram (n p : Nat)
  | control (events : Bool)
  | bay (b : Nat)
  | master
deriving DecidableEq, Repr

def State.elementAt (s : State) (node r p : Nat) : Element :=
  if ¬ s.hasPort node r p ∨ p < 5 then .master
  else if node = 8 then
    let pv := localOfPort 8 r p
    if r < 8 ∧ pv < 16 then .dram r pv else if 0x30 ≤ pv then .master else .control (pv == 0x22)
  else if p = 7 then .control false
  else .bay (bayOfPort r p)

/-- The event of an EVENT packet (07 R186). -/
def Pkt.event (k : Pkt) : Event := { evid := k.evid, evdata := k.evdata, stamp := k.stamp, coarse := k.coarse, note := k.note }

/-- The oldest packet delivered to a port is taken. -/
def State.popInbox (s : State) (node r p : Nat) : State := s.modRouter node r fun x => { x with inbox := tmod [] x.inbox p List.tail }

/-- A packet that is no request: an EVENT packet reaches the event router; a bay takes what its design expects; anything else is taken and has
    no effect (07 R176, R186). -/
def State.otherPacket (s : State) (e : Element) (k : Pkt) : State :=
  if e = .control true ∧ k.cls = .evt ∧ k.opc = 0x18 then s.modEvr fun x => { x with raised := x.raised ++ [k.event] } else s

/-- TARGET_REQUEST at a port of a router. -/
def targetRequest (s : State) (node r p : Nat) : State :=
  match s.elementAt node r p with
  | .dram n q => dramRequest s n q
  | .master => s
  | e =>
    match tget [] (s.router node r).inbox p with
    | [] => s
    | k :: _ =>
      let s := s.popInbox node r p
      if k.cls ≠ .req ∧ k.cls ≠ .pwr then s.otherPacket e k
      else
        match e with
        | .bay _ => s.bayRequest node r p k
        | _ => s.controlRequest node r p k

/-- A bay takes nothing while its port does not deliver (13 Table 13.2; 18 R471). -/
def State.takesNow (s : State) (node r p : Nat) : Bool := match s.elementAt node r p with
  | .bay b => s.portWay node r p == .deliver && !(s.bay node b).clamped
  | _ => s.ridgeClock node

def execTargetRequest (node router port : Nat) (s : State) : Out :=
  .next (if s.takesNow node router port then targetRequest s node router port else s)

/-! ### REGISTER_WRITE (00 R10) -/

/-- A target that holds registers. -/
def Target.isControl : Target → Bool
  | .hub _ | .fctl _ => true
  | _ => false

/-- A write of 4 or 8 bytes to a register of any control target. -/
def registerWrite (w : Who) (s : State) (addr : Nat) (eight : Bool) (v : Nat) : State :=
  match s.decode addr with
  | some (t, _) =>
    if t.isControl then
      let n := if eight then 8 else 4
      match if s.reaches w addr true then s.windowWaits t addr true n else none with
      | some (d, g, off) => s.holdWin d g off true eight v none
      | none => s.access w addr true fun s => let a := regAccess w s t addr true (leBytes n v) n; (a.1, a.2.1, 0)
    else s
  | none => s.answer respNoTarget 0
def execRegisterWrite (w : Who) (addr : BitVec 48) (eight : Bool) (data : BitVec 64) (s : State) : Out :=
  .next (registerWrite w s addr.toNat eight data.toNat)

/-! ### MASTER_RESPONSE (07 R205) -/

/-- An Eoset-X port passes a response on to its host under the host's own TAG; that of an orphaned request is discarded (10 R277). -/
def State.hostResponse (s : State) (mid : BitVec 12) (k : Pkt) (o : Outst) : State :=
  if o.orphan then s
  else s.modLink (144 + (mid.toNat - 0x8F0)) fun e => { e with answers := e.answers ++ [{ k with tag := o.hostTag }] }

/-- DMA channels take their responses by DMA_BEAT_RESPONSE. -/
def isDmaMid (mid : BitVec 12) : Bool := decide (0x810 ≤ mid.toNat) && decide (mid.toNat < 0x830)

/-- The oldest response delivered to a master completes its request, or is discarded as late. -/
def masterResponse (s : State) (mid : BitVec 12) : State :=
  if isDmaMid mid then s
  else
    match s.takeRsp mid with
    | none => s
    | some (_, none, s1) => s1
    | some (k, some o, s1) =>
      if mid = 0x801 then s1.busResponse k
      else if mid = 0x8F0 ∨ mid = 0x8F1 then s1.hostResponse mid k o
      else s1
def execMasterResponse (mid : BitVec 12) (s : State) : Out := .next (masterResponse s mid)

end Sys2Proof.Machine
end

