-- ==== Sys2Proof/Machine/Dispatch.lean ====
section
/-! DEFINITION. One arm for each command: the direct call of its meaning. -/

namespace Sys2Proof.Machine

/-- The effect of a command on everything but the queue. -/
def exec (i : Instr) (s : State) : Host.Outcome State Fault Refusal :=
  match i with
  | .requestInject mid rq => Sys2Proof.Machine.execRequestInject mid rq s
  | .targetRequest node router port => Sys2Proof.Machine.execTargetRequest node router port s
  | .registerWrite w addr eight data => Sys2Proof.Machine.execRegisterWrite w addr eight data s
  | .aclRead m => Sys2Proof.Machine.execAclRead m s
  | .aclWrite m => Sys2Proof.Machine.execAclWrite m s
  | .bayRestore m => Sys2Proof.Machine.execBayRestore m s
  | .probeSelect m => Sys2Proof.Machine.execProbeSelect m s
  | .probeSelWrite w die ch data => Sys2Proof.Machine.execProbeSelWrite w die ch data s
  | .probeArm w die data => Sys2Proof.Machine.execProbeArm w die data s
  | .probeForce w die data => Sys2Proof.Machine.execProbeForce w die data s
  | .probeTrigger die => Sys2Proof.Machine.execProbeTrigger die s
  | .probeCaptureDone die => Sys2Proof.Machine.execProbeCaptureDone die s
  | .probeOverspeed die => Sys2Proof.Machine.execProbeOverspeed die s
  | .bramRead die mem portB addr u => Sys2Proof.Machine.execBramRead die mem portB addr u s
  | .bramWriteFull die mem portB addr data => Sys2Proof.Machine.execBramWriteFull die mem portB addr data s
  | .bramWriteNarrow die mem portB addr data be u => Sys2Proof.Machine.execBramWriteNarrow die mem portB addr data be u s
  | .gqFabricWrite die q data => Sys2Proof.Machine.execGqFabricWrite die q data s
  | .gqFabricPop die q u su => Sys2Proof.Machine.execGqFabricPop die q u su s
  | .gqWriteSeenRead die q => Sys2Proof.Machine.execGqWriteSeenRead die q s
  | .gqPopSeenWrite die q => Sys2Proof.Machine.execGqPopSeenWrite die q s
  | .gqPush w die q data => Sys2Proof.Machine.execGqPush w die q data s
  | .gqPop w die q u su => Sys2Proof.Machine.execGqPop w die q u su s
  | .gqSnap w die q => Sys2Proof.Machine.execGqSnap w die q s
  | .gqClrCnt w die q => Sys2Proof.Machine.execGqClrCnt w die q s
  | .gqFlush w die q => Sys2Proof.Machine.execGqFlush w die q s
  | .gqFlushApply die q => Sys2Proof.Machine.execGqFlushApply die q s
  | .gqMarksWrite w die q data => Sys2Proof.Machine.execGqMarksWrite w die q data s
  | .move die sl u => Sys2Proof.Machine.execMove die sl u s
  | .moveRegReg die sl u => Sys2Proof.Machine.execMoveRegReg die sl u s
  | .moveImm die sl u => Sys2Proof.Machine.execMoveImm die sl u s
  | .clr die sl u => Sys2Proof.Machine.execClr die sl u s
  | .mpy die sl u => Sys2Proof.Machine.execMpy die sl u s
  | .mac die sl u => Sys2Proof.Machine.execMac die sl u s
  | .msu die sl u => Sys2Proof.Machine.execMsu die sl u s
  | .macr die sl u => Sys2Proof.Machine.execMacr die sl u s
  | .dmacS die sl u => Sys2Proof.Machine.execDmacS die sl u s
  | .dmacP die sl u => Sys2Proof.Machine.execDmacP die sl u s
  | .dmacA die sl u => Sys2Proof.Machine.execDmacA die sl u s
  | .dmacD die sl u => Sys2Proof.Machine.execDmacD die sl u s
  | .add die sl u => Sys2Proof.Machine.execAdd die sl u s
  | .sub die sl u => Sys2Proof.Machine.execSub die sl u s
  | .abs die sl u => Sys2Proof.Machine.execAbs die sl u s
  | .neg die sl u => Sys2Proof.Machine.execNeg die sl u s
  | .rnd die sl u => Sys2Proof.Machine.execRnd die sl u s
  | .sat die sl u => Sys2Proof.Machine.execSat die sl u s
  | .shl die sl u => Sys2Proof.Machine.execShl die sl u s
  | .shr die sl u => Sys2Proof.Machine.execShr die sl u s
  | .max die sl u => Sys2Proof.Machine.execMax die sl u s
  | .min die sl u => Sys2Proof.Machine.execMin die sl u s
  | .maxi die sl u => Sys2Proof.Machine.execMaxi die sl u s
  | .mini die sl u => Sys2Proof.Machine.execMini die sl u s
  | .reservedInstruction die sl u => Sys2Proof.Machine.execReservedInstruction die sl u s
  | .loopCount die sl u => Sys2Proof.Machine.execLoopCount die sl u s
  | .loopReg die sl u => Sys2Proof.Machine.execLoopReg die sl u s
  | .loopEndFetch die sl u => Sys2Proof.Machine.execLoopEndFetch die sl u s
  | .jmp die sl u => Sys2Proof.Machine.execJmp die sl u s
  | .jcc die sl u => Sys2Proof.Machine.execJcc die sl u s
  | .call die sl u => Sys2Proof.Machine.execCall die sl u s
  | .ret die sl u => Sys2Proof.Machine.execRet die sl u s
  | .waitq die sl u => Sys2Proof.Machine.execWaitq die sl u s
  | .waitqRelease die sl => Sys2Proof.Machine.execWaitqRelease die sl s
  | .trapret die sl u => Sys2Proof.Machine.execTrapret die sl u s
  | .halt die sl u => Sys2Proof.Machine.execHalt die sl u s
  | .sliceInstructionTrap die sl => Sys2Proof.Machine.execSliceInstructionTrap die sl s
  | .sliceDataTrap die sl x y => Sys2Proof.Machine.execSliceDataTrap die sl x y s
  | .sliceHaltTaken die sl => Sys2Proof.Machine.execSliceHaltTaken die sl s
  | .sliceDrainEnd die sl => Sys2Proof.Machine.execSliceDrainEnd die sl s
  | .slStart w die sl halt => Sys2Proof.Machine.execSlStart w die sl halt s
  | .slHalt w die sl => Sys2Proof.Machine.execSlHalt w die sl s
  | .slgStart w die g mask => Sys2Proof.Machine.execSlgStart w die g mask s
  | .slgHalt w die g mask => Sys2Proof.Machine.execSlgHalt w die g mask s
  | .slPcWrite w die sl data => Sys2Proof.Machine.execSlPcWrite w die sl data s
  | .slLoopAddrWrite w die sl k data => Sys2Proof.Machine.execSlLoopAddrWrite w die sl k data s
  | .slStackDepthWrite w die sl data => Sys2Proof.Machine.execSlStackDepthWrite w die sl data s
  | .slCorrRead w die sl => Sys2Proof.Machine.execSlCorrRead w die sl s
  | .sliceWindowWrite w die g off eight data => Sys2Proof.Machine.execSliceWindowWrite w die g off eight data s
  | .sliceWindowRead w die g off eight u => Sys2Proof.Machine.execSliceWindowRead w die g off eight u s
  | .sliceStolenCycle die sl => Sys2Proof.Machine.execSliceStolenCycle die sl s
  | .sliceStreamIn die sl q data late => Sys2Proof.Machine.execSliceStreamIn die sl q data late s
  | .sliceStreamOutPop die sl q => Sys2Proof.Machine.execSliceStreamOutPop die sl q s
  | .routerPacketArrive node router port vc u => Sys2Proof.Machine.execRouterPacketArrive node router port vc u s
  | .routerOutputGrant node router port => Sys2Proof.Machine.execRouterOutputGrant node router port s
  | .creditReturn node router port vc => Sys2Proof.Machine.execCreditReturn node router port vc s
  | .localPortDeliver node router port vc u => Sys2Proof.Machine.execLocalPortDeliver node router port vc u s
  | .masterResponse mid => Sys2Proof.Machine.execMasterResponse mid s
  | .requestTimeout mid tag => Sys2Proof.Machine.execRequestTimeout mid tag s
  | .tagQuarantineEnd mid tag => Sys2Proof.Machine.execTagQuarantineEnd mid tag s
  | .rtrRtWrite w die router port data => Sys2Proof.Machine.execRtrRtWrite w die router port data s
  | .rtrCfgWrite w die router data => Sys2Proof.Machine.execRtrCfgWrite w die router data s
  | .rtrSnap w die router => Sys2Proof.Machine.execRtrSnap w die router s
  | .rtrSnapDie w die router => Sys2Proof.Machine.execRtrSnapDie w die router s
  | .rtrClrCnt w die router => Sys2Proof.Machine.execRtrClrCnt w die router s
  | .routerIdleEntry node router => Sys2Proof.Machine.execRouterIdleEntry node router s
  | .routerWake node router => Sys2Proof.Machine.execRouterWake node router s
  | .portDrainEnd die bay => Sys2Proof.Machine.execPortDrainEnd die bay s
  | .flowAdmit m => Sys2Proof.Machine.execFlowAdmit m s
  | .flowRelease m => Sys2Proof.Machine.execFlowRelease m s
  | .flowReservationEnd fid => Sys2Proof.Machine.execFlowReservationEnd fid s
  | .flowQuery m => Sys2Proof.Machine.execFlowQuery m s
  | .laneUp m => Sys2Proof.Machine.execLaneUp m s
  | .laneDown m => Sys2Proof.Machine.execLaneDown m s
  | .laneTest m => Sys2Proof.Machine.execLaneTest m s
  | .laneInject m => Sys2Proof.Machine.execLaneInject m s
  | .lanePeriodicFlip key lane => Sys2Proof.Machine.execLanePeriodicFlip key lane s
  | .laneLp m => Sys2Proof.Machine.execLaneLp m s
  | .laneClear m => Sys2Proof.Machine.execLaneClear m s
  | .lanePllLock key => Sys2Proof.Machine.execLanePllLock key s
  | .laneDetectPulse key found => Sys2Proof.Machine.execLaneDetectPulse key found s
  | .laneTrainEnd key => Sys2Proof.Machine.execLaneTrainEnd key s
  | .orderedSetReceive key lane groups boundary skew => Sys2Proof.Machine.execOrderedSetReceive key lane groups boundary skew s
  | .laneStateTimeout key => Sys2Proof.Machine.execLaneStateTimeout key s
  | .laneFaultRestart key => Sys2Proof.Machine.execLaneFaultRestart key s
  | .laneSymbolError key lane sym => Sys2Proof.Machine.execLaneSymbolError key lane sym s
  | .laneDrift key lane drift => Sys2Proof.Machine.execLaneDrift key lane drift s
  | .laneLp1Entry key => Sys2Proof.Machine.execLaneLp1Entry key s
  | .laneLp1Exit key missed => Sys2Proof.Machine.execLaneLp1Exit key missed s
  | .laneLp2Request key => Sys2Proof.Machine.execLaneLp2Request key s
  | .laneLp2Exit key => Sys2Proof.Machine.execLaneLp2Exit key s
  | .frameSlot key => Sys2Proof.Machine.execFrameSlot key s
  | .frameReceive key raw => Sys2Proof.Machine.execFrameReceive key raw s
  | .nakTimeout key => Sys2Proof.Machine.execNakTimeout key s
  | .replayTimeout key => Sys2Proof.Machine.execReplayTimeout key s
  | .rprRetryTimeout key => Sys2Proof.Machine.execRprRetryTimeout key s
  | .tosSend key => Sys2Proof.Machine.execTosSend key s
  | .linkDelayValid key => Sys2Proof.Machine.execLinkDelayValid key s
  | .linkShutdownStep key => Sys2Proof.Machine.execLinkShutdownStep key s
  | .linkDownWaitEnd key => Sys2Proof.Machine.execLinkDownWaitEnd key s
  | .linkDrainTimeout key => Sys2Proof.Machine.execLinkDrainTimeout key s
  | .gcapReceive key body => Sys2Proof.Machine.execGcapReceive key body s
  | .gcapTimeout key => Sys2Proof.Machine.execGcapTimeout key s
  | .guestPacketReceive key hdr data poison => Sys2Proof.Machine.execGuestPacketReceive key hdr data poison s
  | .hostRequestReceive port hdr data poison => Sys2Proof.Machine.execHostRequestReceive port hdr data poison s
  | .creditStallTimeout key => Sys2Proof.Machine.execCreditStallTimeout key s
  | .orphanExpire site => Sys2Proof.Machine.execOrphanExpire site s
  | .linkSnap w key => Sys2Proof.Machine.execLinkSnap w key s
  | .linkClrCnt w key => Sys2Proof.Machine.execLinkClrCnt w key s
  | .ppsPulse pin ps => Sys2Proof.Machine.execPpsPulse pin ps s
  | .ppsLossTimeout => Sys2Proof.Machine.execPpsLossTimeout s
  | .timeLaneLock milliHz => Sys2Proof.Machine.execTimeLaneLock milliHz s
  | .timeApplyInstant => Sys2Proof.Machine.execTimeApplyInstant s
  | .timeGet m => Sys2Proof.Machine.execTimeGet m s
  | .timeSet m => Sys2Proof.Machine.execTimeSet m s
  | .timeSource m => Sys2Proof.Machine.execTimeSource m s
  | .timeAdj m => Sys2Proof.Machine.execTimeAdj m s
  | .timeStatus m => Sys2Proof.Machine.execTimeStatus m s
  | .timePin m => Sys2Proof.Machine.execTimePin m s
  | .timeNotify m => Sys2Proof.Machine.execTimeNotify m s
  | .timePacketSend => Sys2Proof.Machine.execTimePacketSend s
  | .alignMeasureTimeout die => Sys2Proof.Machine.execAlignMeasureTimeout die s
  | .parentOkUpdate die => Sys2Proof.Machine.execParentOkUpdate die s
  | .tpEdgeCapture die pin rise ps => Sys2Proof.Machine.execTpEdgeCapture die pin rise ps s
  | .tpCapPop w die pin => Sys2Proof.Machine.execTpCapPop w die pin s
  | .tpSchedWrite w die pin data => Sys2Proof.Machine.execTpSchedWrite w die pin data s
  | .tpFabricSched die pin stamp level => Sys2Proof.Machine.execTpFabricSched die pin stamp level s
  | .tpSchedEdge die pin => Sys2Proof.Machine.execTpSchedEdge die pin s
  | .tpWinWrite w die pin close data => Sys2Proof.Machine.execTpWinWrite w die pin close data s
  | .tpFlushCap w die pin => Sys2Proof.Machine.execTpFlushCap w die pin s
  | .tpFlushSched w die pin => Sys2Proof.Machine.execTpFlushSched w die pin s
  | .tpClrCnt w die pin => Sys2Proof.Machine.execTpClrCnt w die pin s
  | .pornAssert => Sys2Proof.Machine.execPornAssert s
  | .pornRelease straps => Sys2Proof.Machine.execPornRelease straps s
  | .oscdDelayEnd refclk => Sys2Proof.Machine.execOscdDelayEnd refclk s
  | .srstnAssert => Sys2Proof.Machine.execSrstnAssert s
  | .srstnRelease => Sys2Proof.Machine.execSrstnRelease s
  | .bootStart dev0 dev1 hdrA hdrB => Sys2Proof.Machine.execBootStart dev0 dev1 hdrA hdrB s
  | .segmentReceive prog bytes => Sys2Proof.Machine.execSegmentReceive prog bytes s
  | .recordYealmDef prog => Sys2Proof.Machine.execRecordYealmDef prog s
  | .recordFrameLit prog => Sys2Proof.Machine.execRecordFrameLit prog s
  | .recordFramePut prog => Sys2Proof.Machine.execRecordFramePut prog s
  | .recordZeroRun prog => Sys2Proof.Machine.execRecordZeroRun prog s
  | .recordEnd prog => Sys2Proof.Machine.execRecordEnd prog s
  | .wipeComplete => Sys2Proof.Machine.execWipeComplete s
  | .dieUnreachableTimeout die => Sys2Proof.Machine.execDieUnreachableTimeout die s
  | .phaseP1 locked => Sys2Proof.Machine.execPhaseP1 locked s
  | .phaseP2 => Sys2Proof.Machine.execPhaseP2 s
  | .phaseP3 => Sys2Proof.Machine.execPhaseP3 s
  | .p3IoEnable => Sys2Proof.Machine.execP3IoEnable s
  | .phaseP4 => Sys2Proof.Machine.execPhaseP4 s
  | .cfgStatus m => Sys2Proof.Machine.execCfgStatus m s
  | .loadImage m hdr => Sys2Proof.Machine.execLoadImage m hdr s
  | .imageData m => Sys2Proof.Machine.execImageData m s
  | .slotProgram m => Sys2Proof.Machine.execSlotProgram m s
  | .cfgPush w data => Sys2Proof.Machine.execCfgPush w data s
  | .pushTimeout prog => Sys2Proof.Machine.execPushTimeout prog s
  | .bayLoad m => Sys2Proof.Machine.execBayLoad m s
  | .bayShutdown m => Sys2Proof.Machine.execBayShutdown m s
  | .bayEnable m => Sys2Proof.Machine.execBayEnable m s
  | .bayStatus m => Sys2Proof.Machine.execBayStatus m s
  | .bayRepairSrc m => Sys2Proof.Machine.execBayRepairSrc m s
  | .scrubCtrl m => Sys2Proof.Machine.execScrubCtrl m s
  | .leggettFrameRead die u => Sys2Proof.Machine.execLeggettFrameRead die u s
  | .bayRepairStart => Sys2Proof.Machine.execBayRepairStart s
  | .leggettMemVisit die kind idx u su freeCycle => Sys2Proof.Machine.execLeggettMemVisit die kind idx u su freeCycle s
  | .memStatus m => Sys2Proof.Machine.execMemStatus m s
  | .memUp m => Sys2Proof.Machine.execMemUp m s
  | .memDown m => Sys2Proof.Machine.execMemDown m s
  | .memInit m => Sys2Proof.Machine.execMemInit m s
  | .memRegion m => Sys2Proof.Machine.execMemRegion m s
  | .memMap m => Sys2Proof.Machine.execMemMap m s
  | .memLp m => Sys2Proof.Machine.execMemLp m s
  | .memScrub m => Sys2Proof.Machine.execMemScrub m s
  | .memClrCnt w n => Sys2Proof.Machine.execMemClrCnt w n s
  | .memTrainingDone n => Sys2Proof.Machine.execMemTrainingDone n s
  | .memTrainingTimeout n trainStep => Sys2Proof.Machine.execMemTrainingTimeout n trainStep s
  | .memShutdownEnd n => Sys2Proof.Machine.execMemShutdownEnd n s
  | .memSrefExitEnd n => Sys2Proof.Machine.execMemSrefExitEnd n s
  | .dramCommandIssue n sub => Sys2Proof.Machine.execDramCommandIssue n sub s
  | .dramReadReturn n sub u => Sys2Proof.Machine.execDramReadReturn n sub u s
  | .dramRefresh n rank => Sys2Proof.Machine.execDramRefresh n rank s
  | .dramMr4Poll n need2x above rank => Sys2Proof.Machine.execDramMr4Poll n need2x above rank s
  | .zqCalibration n rank => Sys2Proof.Machine.execZqCalibration n rank s
  | .dqsRetrack n rank => Sys2Proof.Machine.execDqsRetrack n rank s
  | .dramAlert n => Sys2Proof.Machine.execDramAlert n s
  | .dramPdEntry n => Sys2Proof.Machine.execDramPdEntry n s
  | .dramSrefEntry n => Sys2Proof.Machine.execDramSrefEntry n s
  | .dramPatrolRead n u => Sys2Proof.Machine.execDramPatrolRead n u s
  | .keyLoad m => Sys2Proof.Machine.execKeyLoad m s
  | .keyRegion m => Sys2Proof.Machine.execKeyRegion m s
  | .keyLink m => Sys2Proof.Machine.execKeyLink m s
  | .keyErase m => Sys2Proof.Machine.execKeyErase m s
  | .keyStatus m => Sys2Proof.Machine.execKeyStatus m s
  | .dmaGrant m => Sys2Proof.Machine.execDmaGrant m s
  | .dmaRelease m => Sys2Proof.Machine.execDmaRelease m s
  | .dmaQuery m => Sys2Proof.Machine.execDmaQuery m s
  | .dmaGo w c stop clear => Sys2Proof.Machine.execDmaGo w c stop clear s
  | .dmaStop w c => Sys2Proof.Machine.execDmaStop w c s
  | .dmaClear w c => Sys2Proof.Machine.execDmaClear w c s
  | .dmaSnap w c => Sys2Proof.Machine.execDmaSnap w c s
  | .dmaTimedStart c => Sys2Proof.Machine.execDmaTimedStart c s
  | .dmaBeatIssue c kind => Sys2Proof.Machine.execDmaBeatIssue c kind s
  | .dmaBeatResponse c => Sys2Proof.Machine.execDmaBeatResponse c s
  | .dmaRetryTimer c tag => Sys2Proof.Machine.execDmaRetryTimer c tag s
  | .mbxOpen m => Sys2Proof.Machine.execMbxOpen m s
  | .mbxClose m => Sys2Proof.Machine.execMbxClose m s
  | .mbxHeartbeat m => Sys2Proof.Machine.execMbxHeartbeat m s
  | .mbxSessions m => Sys2Proof.Machine.execMbxSessions m s
  | .idGet m => Sys2Proof.Machine.execIdGet m s
  | .fwInfo m => Sys2Proof.Machine.execFwInfo m s
  | .portTimeout m => Sys2Proof.Machine.execPortTimeout m s
  | .mbxCplAck w m => Sys2Proof.Machine.execMbxCplAck w m s
  | .mbxEvpop w m => Sys2Proof.Machine.execMbxEvpop w m s
  | .heartbeatTimeout m => Sys2Proof.Machine.execHeartbeatTimeout m s
  | .watchdogExpire => Sys2Proof.Machine.execWatchdogExpire s
  | .gableRestart cause fwAddr restored recordsOk => Sys2Proof.Machine.execGableRestart cause fwAddr restored recordsOk s
  | .gableSramScrub u => Sys2Proof.Machine.execGableSramScrub u s
  | .spiWrite addr bytes => Sys2Proof.Machine.execSpiWrite addr bytes s
  | .spiRead addr len => Sys2Proof.Machine.execSpiRead addr len s
  | .spiReadStatus => Sys2Proof.Machine.execSpiReadStatus s
  | .clkStatus m => Sys2Proof.Machine.execClkStatus m s
  | .clkSelect m => Sys2Proof.Machine.execClkSelect m s
  | .clkswForce m => Sys2Proof.Machine.execClkswForce m s
  | .clockSwitchEnd code => Sys2Proof.Machine.execClockSwitchEnd code s
  | .clockNodeFail code => Sys2Proof.Machine.execClockNodeFail code s
  | .clockNodeRunning code khz => Sys2Proof.Machine.execClockNodeRunning code khz s
  | .aoclkFail => Sys2Proof.Machine.execAoclkFail s
  | .pwrSet m => Sys2Proof.Machine.execPwrSet m s
  | .pwrPermit m => Sys2Proof.Machine.execPwrPermit m s
  | .pwrStatus m => Sys2Proof.Machine.execPwrStatus m s
  | .pwrWake m => Sys2Proof.Machine.execPwrWake m s
  | .elementIdleEntry kind die id idleOk => Sys2Proof.Machine.execElementIdleEntry kind die id idleOk s
  | .powerEntryEnd kind die id => Sys2Proof.Machine.execPowerEntryEnd kind die id s
  | .elementWake kind die id => Sys2Proof.Machine.execElementWake kind die id s
  | .wakeExitEnd kind die id => Sys2Proof.Machine.execWakeExitEnd kind die id s
  | .packageWakeSource source => Sys2Proof.Machine.execPackageWakeSource source s
  | .wakeAlarm => Sys2Proof.Machine.execWakeAlarm s
  | .packageWakeEnd => Sys2Proof.Machine.execPackageWakeEnd s
  | .logInfo m => Sys2Proof.Machine.execLogInfo m s
  | .logRead m => Sys2Proof.Machine.execLogRead m s
  | .logClear m => Sys2Proof.Machine.execLogClear m s
  | .logEntryWrite => Sys2Proof.Machine.execLogEntryWrite s
  | .ridgeStatus m => Sys2Proof.Machine.execRidgeStatus m s
  | .eventRoute => Sys2Proof.Machine.execEventRoute s
  | .fabricEventInput die n data => Sys2Proof.Machine.execFabricEventInput die n data s
  | .evrRaise w data => Sys2Proof.Machine.execEvrRaise w data s
  | .evrPop w k => Sys2Proof.Machine.execEvrPop w k s
  | .evrOutFlush w k => Sys2Proof.Machine.execEvrOutFlush w k s
  | .evrOutClrLost w k => Sys2Proof.Machine.execEvrOutClrLost w k s
  | .spPinWrite w n data => Sys2Proof.Machine.execSpPinWrite w n data s
  | .spPinSwitchDone n => Sys2Proof.Machine.execSpPinSwitchDone n s
  | .gpioSet w data => Sys2Proof.Machine.execGpioSet w data s
  | .gpioClr w data => Sys2Proof.Machine.execGpioClr w data s
  | .uartTx w n data => Sys2Proof.Machine.execUartTx w n data s
  | .uartRx w n => Sys2Proof.Machine.execUartRx w n s
  | .uartRxByte n data framing parity => Sys2Proof.Machine.execUartRxByte n data framing parity s
  | .spicXfer w n data => Sys2Proof.Machine.execSpicXfer w n data s
  | .spicXferDone n bytes => Sys2Proof.Machine.execSpicXferDone n bytes s
  | .spicRx w n => Sys2Proof.Machine.execSpicRx w n s
  | .i2cCmd w n data => Sys2Proof.Machine.execI2cCmd w n data s
  | .i2cXferDone n bytes nack arb => Sys2Proof.Machine.execI2cXferDone n bytes nack arb s
  | .i2cRx w n => Sys2Proof.Machine.execI2cRx w n s
  | .ppsOutPulse => Sys2Proof.Machine.execPpsOutPulse s
  | .trstnAssert => Sys2Proof.Machine.execTrstnAssert s
  | .extest tap bits => Sys2Proof.Machine.execExtest tap bits s
  | .idcode tap => Sys2Proof.Machine.execIdcode tap s
  | .samplePreload tap bits => Sys2Proof.Machine.execSamplePreload tap bits s
  | .extestPulse tap bits => Sys2Proof.Machine.execExtestPulse tap bits s
  | .extestTrain tap bits => Sys2Proof.Machine.execExtestTrain tap bits s
  | .clamp tap => Sys2Proof.Machine.execClamp tap s
  | .highz tap => Sys2Proof.Machine.execHighz tap s
  | .busacc dr => Sys2Proof.Machine.execBusacc dr s
  | .auth data => Sys2Proof.Machine.execAuth data s
  | .authVerifyDone => Sys2Proof.Machine.execAuthVerifyDone s
  | .wake => Sys2Proof.Machine.execWake s
  | .bypass tap code => Sys2Proof.Machine.execBypass tap code s
  | .ldFclkStop w die data => Sys2Proof.Machine.execLdFclkStop w die data s
  | .ldFclkStep w data => Sys2Proof.Machine.execLdFclkStep w data s
  | .ldSlgFreeze w die word data => Sys2Proof.Machine.execLdSlgFreeze w die word data s
  | .ldSlgStep w data => Sys2Proof.Machine.execLdSlgStep w data s
  | .ldCapGo w data => Sys2Proof.Machine.execLdCapGo w data s
  | .ldGableHalt w => Sys2Proof.Machine.execLdGableHalt w s
  | .ldGableHaltForced => Sys2Proof.Machine.execLdGableHaltForced s
  | .ldGableRun w => Sys2Proof.Machine.execLdGableRun w s
  | .ldGableStep w => Sys2Proof.Machine.execLdGableStep w s
  | .vddDbgLoss => Sys2Proof.Machine.execVddDbgLoss s
  | .supplyMonitorReset => Sys2Proof.Machine.execSupplyMonitorReset s
  | .thermtrip die => Sys2Proof.Machine.execThermtrip die s
  | .userLaneLock key lane inverted => Sys2Proof.Machine.execUserLaneLock key lane inverted s
  | .prbsCheckerLock key lane bits => Sys2Proof.Machine.execPrbsCheckerLock key lane bits s
  | .prbsCheckerUnlock key lane wrong => Sys2Proof.Machine.execPrbsCheckerUnlock key lane wrong s
  | .dramLpExit n => Sys2Proof.Machine.execDramLpExit n s
  | .supplyReturn => Sys2Proof.Machine.execSupplyReturn s
  | .vddDbgReturn => Sys2Proof.Machine.execVddDbgReturn s
  | .slotProgramEnd => Sys2Proof.Machine.execSlotProgramEnd s
  | .userLaneTxidle key lane on => Sys2Proof.Machine.execUserLaneTxidle key lane on s

end Sys2Proof.Machine
end

