-- ==== Sys2Proof/Machine/Tick.lean ====
section
/-! DEFINITION. What a step does on an empty queue: one TSCLK cycle of time passes (11 R289), DESIGN CHOICE. -/

namespace Sys2Proof.Machine

/-- One nominal TSCLK cycle, in picoseconds: 1 GHz (11 R289). -/
def tickPs : Nat := 1000

/-- One picosecond in units of 2^-80 s, rounded down. -/
def ctrPs : Nat := 2 ^ 80 / 1000000000000

/-- Slewing removes an offset at 1 ps per µs (11 R299). -/
def DieTime.slewOne (t : DieTime) (now : Nat) : DieTime :=
  if t.mon.slew = 0 ∨ now < t.mon.slewAt + psUs then t
  else if 0 < t.mon.slew then { t with ctr := t.ctr - ctrPs, mon := { t.mon with slew := t.mon.slew - 1, slewAt := now } }
  else { t with ctr := t.ctr + ctrPs, mon := { t.mon with slew := t.mon.slew + 1, slewAt := now } }

/-- A running counter adds its rate word (11 R289). -/
def DieTime.tick (t : DieTime) (now : Nat) : DieTime :=
  if t.stopped then t else ({ t with ctr := (t.ctr + t.rate) % 2 ^ 112 } : DieTime).slewOne now

/-- The keys of the time counters of the part: its F-dies and the H-die master. -/
def State.timeKeys (s : State) : List Nat := (List.range s.fdies) ++ [8]

/-! ### Edges of the FCLK nets (02 R51, R56, R71; 03 R79, R96, R97) -/

/-- The running nets of a die on one source: their edges are one. -/
def State.netsOn (s : State) (d src : Nat) : List Nat :=
  (List.range 32).filter fun n => s.fclkRuns d n && !s.dieDeep d && (s.node (fclkNode d n)).source.toNat == src

/-- User lanes on a net's edge (09 R251): the fabric's words enter and leave their FIFOs. -/
def State.laneEdge (s : State) (d : Nat) (nets : List Nat) : State :=
  let ev := s.level d
  (List.range 6).foldl (fun (s : State) q =>
    let k := 256 + 8 * d + q
    let x := s.laneset k
    if x.state ≠ .active ∧ x.state ≠ .lock then s
    else (List.range 4).foldl (fun (s : State) i =>
      let c := Config.imageLaneNet s.cfg.bundle d (4 * q + i)
      if x.laneActive k i ∧ nets.contains c.1.toNat then
        let w : BitVec 36 := BitVec.ofNat 36 ((c.2.take 36).zipIdx.foldl (fun a e => a + atBit (ev e.1) e.2) 0)
        s.modLane k i fun l => (l.fabricTx w).fabricRx
      else s) s) s

/-- One word time of a quad's lines (09 R251): its transmitters take a word but in LP1, its receivers bring one. -/
def State.lineWord (s : State) (k : Nat) : State :=
  let x := s.laneset k
  (List.range 4).foldl (fun (s : State) i =>
    if x.laneActive k i then
      s.modLane k i fun l => (if x.userLp1 k i then l else l.lineTx).lineRx (Config.lineWord k i s.now)
    else s) s

/-- The fabric outputs of the timing pins on those nets are pulses of one cycle (11 R306, R307). -/
def State.tpEdgeDone (s : State) (d : Nat) (nets : List Nat) : State :=
  (List.range 8).foldl (fun (s : State) n =>
    let p := s.tpin d n
    if (p.fabOut.isSome ∨ p.schRefused) ∧ nets.contains (bitsOf p.cfg.toNat 11 5) then
      s.modTpin d n fun p => { p with fabOut := none, schRefused := false }
    else s) s

/-- One cycle of those nets: at the rising edge probes sample, flip-flops and I/O registers take what stood before it, memory ports and queue
    sides move on; at the falling edge the inverted control sets and the second half of DDR. -/
def State.fclkCycle (s : State) (d : Nat) (nets : List Nat) : State :=
  let s := s.modDie d fun x => { x with fclkCnt := tmodAll 0 x.fclkCnt nets fun _ n => n + 1 }
  let s := if nets.contains (s.die d).probe.clkSel.toNat then s.probeEdge d else s
  let s := (s.laneEdge d nets).tpEdgeDone d nets
  let s := (((s.cellEdge d fun k => nets.contains k.clk.toNat && !k.inv).ioEdge d nets true).bramEdge d nets).gqEdge d fun n => nets.contains n
  (s.cellEdge d fun k => nets.contains k.clk.toNat && k.inv).ioEdge d nets false

/-- Rising edges of a net of `khz` in the cycle that begins at `now`. -/
def edgesIn (khz now : Nat) : Nat := (now + tickPs) * khz / 1000000000 - now * khz / 1000000000

/-- The edges of a die's nets in one TSCLK cycle, source by source, with what asynchronous resets have stored at its end, and of NOCCLK for the
    register sides of its queues. -/
def State.clockDie (s : State) (d : Nat) : State :=
  let s := (List.range 25).foldl (fun (s : State) src =>
    let nets := s.netsOn d src
    let n := edgesIn (((nets.head?.map fun n => (s.node (fclkNode d n)).freq.toNat)).getD 0) s.now
    (List.range n).foldl (fun (s : State) _ => s.fclkCycle d nets) s) s
  let s := s.cellEdge d fun _ => false
  let s := (List.range 6).foldl (fun (s : State) q =>
    let k := 256 + 8 * d + q
    let x := s.laneset k
    if (x.state = .active ∨ x.state = .lock) ∧ edgesIn (2500 * x.n.toNat / 2 ^ x.dcode.toNat) s.now ≠ 0 then s.lineWord k else s) s
  if s.nocRuns d then s.gqEdge d fun n => n == 32 else s

/-- One TSCLK cycle: elapsed time goes on, every running time counter adds its rate word, and the FCLK nets of every die give their edges. -/
def State.tick (s : State) : State :=
  let s := s.dieList.foldl (fun (s : State) d => s.clockDie d) s
  (s.setTimes (tmodAll DieTime.reset s.times s.timeKeys fun _ t => t.tick s.now)).setNow (s.now + tickPs)

end Sys2Proof.Machine
end

