-- ==== Sys2Proof/Safety.lean ====
section
/-! DEFINITION. The terms that claims are stated in: safe runs, the canonical form of the tables, which part of the state a step may
change, a register access that is let through, and a mailbox request that waits for its command and its answer. -/

namespace Sys2Proof.Machine

/-- A step that answers a next state. -/
def stepsOn (s : State) : Prop := ∃ t, step s = .next t

/-- The top-level tables of the state are canonical: keys strictly rising, no entry equal to the default. -/
def State.tablesWf (s : State) : Bool :=
  tabWf AclTable.reset s.acls && tabWf Die.reset s.dies && tabWf Router.reset s.routers && tabWf MasterPort.reset s.masters &&
  tabWf Flow.reset s.flows && tabWf LaneSet.reset s.lanesets && tabWf LinkEnd.reset s.links && tabWf GuestSite.reset s.guests &&
  tabWf LinkKey.reset s.linkKeys && tabWf DieTime.reset s.times && tabWf TimingPin.reset s.hpins && tabWf FlashUnit.reset s.flash &&
  tabWf FlashRegion.reset s.fregions && tabWf DmaCh.reset s.dma

/-! ### Which part of the state a step may change -/

/-- The parts of the state: its fields. -/
inductive Component where
  | now | free | rsp | fuses | ids | acls | dies | routers | masters | flows | lanesets | links | guests | linkKeys | times | hpins | tb
  | cfg | dram | flash | fregions | dma | dmaLast | gable | clk | log | evr | svc | lad | thermtrip | pornLow | supplyBad | supplyOkAt
  | pending
deriving DecidableEq, Repr

/-- Two states agree on a part. -/
def Component.same (p : Component) (s t : State) : Prop :=
  match p with
  | .now => t.now = s.now
  | .free => t.free = s.free
  | .rsp => t.rsp = s.rsp
  | .fuses => t.fuses = s.fuses
  | .ids => t.ids = s.ids
  | .acls => t.acls = s.acls
  | .dies => t.dies = s.dies
  | .routers => t.routers = s.routers
  | .masters => t.masters = s.masters
  | .flows => t.flows = s.flows
  | .lanesets => t.lanesets = s.lanesets
  | .links => t.links = s.links
  | .guests => t.guests = s.guests
  | .linkKeys => t.linkKeys = s.linkKeys
  | .times => t.times = s.times
  | .hpins => t.hpins = s.hpins
  | .tb => t.tb = s.tb
  | .cfg => t.cfg = s.cfg
  | .dram => t.dram = s.dram
  | .flash => t.flash = s.flash
  | .fregions => t.fregions = s.fregions
  | .dma => t.dma = s.dma
  | .dmaLast => t.dmaLast = s.dmaLast
  | .gable => t.gable = s.gable
  | .clk => t.clk = s.clk
  | .log => t.log = s.log
  | .evr => t.evr = s.evr
  | .svc => t.svc = s.svc
  | .lad => t.lad = s.lad
  | .thermtrip => t.thermtrip = s.thermtrip
  | .pornLow => t.pornLow = s.pornLow
  | .supplyBad => t.supplyBad = s.supplyBad
  | .supplyOkAt => t.supplyOkAt = s.supplyOkAt
  | .pending => t.pending = s.pending

/-- Every part but those listed is as it was. -/
def State.changesOnly (s t : State) (ps : List Component) : Prop := ∀ p, p ∉ ps → p.same s t

/-- A command changes the listed parts and nothing else, in every state. -/
def Instr.changesOnly (c : Sys2Proof.Instr) (ps : List Component) : Prop := ∀ s t, exec c s = .next t → s.changesOnly t ps

/-- The parts of the state a command may change: those its rules name, with the routers and the event queue where it raises an event or notes
    a denial, and the draw counter where it takes a free value. Every other part is as it was. -/
def mayTouch (i : Sys2Proof.Instr) : List Component :=
  match i with
  | .requestInject _ _ =>
    [.dies, .routers, .masters, .flows, .evr]
  | .targetRequest _ _ _ | .registerWrite _ _ _ _ | .portDrainEnd _ _ | .segmentReceive _ _ | .recordYealmDef _ | .recordFrameLit _
  | .recordFramePut _ | .recordZeroRun _ | .recordEnd _ | .imageData _ | .cfgPush _ _ | .pushTimeout _ | .bayShutdown _ | .bayEnable _
  | .slotProgramEnd =>
    [.free, .rsp, .ids, .acls, .dies, .routers, .masters, .flows, .lanesets, .links, .guests, .linkKeys, .hpins, .tb, .cfg, .dram, .flash, .fregions, .dma, .gable, .clk, .log, .evr, .svc, .lad]
  | .aclRead _ | .flowQuery _ | .timeGet _ | .timeStatus _ | .cfgStatus _ | .bayStatus _ | .memStatus _ | .keyStatus _ | .dmaQuery _
  | .mbxOpen _ | .mbxHeartbeat _ | .mbxSessions _ | .idGet _ | .fwInfo _ | .spiWrite _ _ | .pwrStatus _ | .logInfo _ | .logRead _
  | .ridgeStatus _ =>
    [.gable, .evr]
  | .aclWrite _ =>
    [.acls, .gable, .evr]
  | .bayRestore _ =>
    [.dies, .routers, .masters, .gable, .evr, .lad]
  | .probeSelect _ | .bayRepairSrc _ | .scrubCtrl _ =>
    [.dies, .gable, .evr]
  | .probeSelWrite _ _ _ _ | .probeArm _ _ _ | .probeForce _ _ _ | .gqPush _ _ _ _ | .gqPop _ _ _ _ _ | .gqSnap _ _ _ | .gqClrCnt _ _ _
  | .gqFlush _ _ _ | .gqMarksWrite _ _ _ _ =>
    [.free, .rsp, .dies, .routers, .log, .evr]
  | .probeTrigger _ | .probeCaptureDone _ | .probeOverspeed _ | .gqFabricWrite _ _ _ | .gqWriteSeenRead _ _ | .gqPopSeenWrite _ _
  | .gqFlushApply _ _ | .sliceHaltTaken _ _ | .sliceStreamIn _ _ _ _ _ | .sliceStreamOutPop _ _ _ | .p3IoEnable =>
    [.dies]
  | .bramRead _ _ _ _ _ | .bramWriteNarrow _ _ _ _ _ _ _ | .gqFabricPop _ _ _ _ =>
    [.free, .dies, .routers, .evr]
  | .bramWriteFull _ _ _ _ _ =>
    [.dies, .routers, .evr]
  | .move _ _ _ | .moveRegReg _ _ _ | .moveImm _ _ _ | .clr _ _ _ | .mpy _ _ _ | .mac _ _ _ | .msu _ _ _ | .macr _ _ _ | .dmacS _ _ _
  | .dmacP _ _ _ | .dmacA _ _ _ | .dmacD _ _ _ | .add _ _ _ | .sub _ _ _ | .abs _ _ _ | .neg _ _ _ | .rnd _ _ _ | .sat _ _ _ | .shl _ _ _
  | .shr _ _ _ | .max _ _ _ | .min _ _ _ | .maxi _ _ _ | .mini _ _ _ | .reservedInstruction _ _ _ | .loopCount _ _ _ | .loopReg _ _ _
  | .loopEndFetch _ _ _ | .jmp _ _ _ | .jcc _ _ _ | .call _ _ _ | .ret _ _ _ | .waitq _ _ _ | .waitqRelease _ _ | .trapret _ _ _
  | .halt _ _ _ | .sliceInstructionTrap _ _ | .sliceDataTrap _ _ _ _ | .sliceDrainEnd _ _ | .sliceStolenCycle _ _ =>
    [.free, .rsp, .dies, .routers, .evr]
  | .slStart _ _ _ _ | .slHalt _ _ _ | .slgStart _ _ _ _ | .slgHalt _ _ _ _ | .slPcWrite _ _ _ _ | .slLoopAddrWrite _ _ _ _ _
  | .slStackDepthWrite _ _ _ _ | .slCorrRead _ _ _ | .sliceWindowWrite _ _ _ _ _ _ | .sliceWindowRead _ _ _ _ _ _ =>
    [.free, .rsp, .dies, .routers, .log, .evr, .lad]
  | .routerPacketArrive _ _ _ _ _ =>
    [.free, .routers, .links, .guests, .log, .evr]
  | .routerOutputGrant _ _ _ =>
    [.routers, .links]
  | .creditReturn _ _ _ _ | .routerIdleEntry _ _ =>
    [.routers]
  | .localPortDeliver _ _ _ _ _ =>
    [.free, .routers, .masters, .clk, .log, .evr]
  | .masterResponse _ =>
    [.routers, .masters, .links, .lad]
  | .requestTimeout _ _ =>
    [.routers, .masters, .evr]
  | .tagQuarantineEnd _ _ =>
    [.masters]
  | .rtrRtWrite _ _ _ _ _ | .rtrCfgWrite _ _ _ _ | .rtrSnap _ _ _ | .rtrSnapDie _ _ _ | .rtrClrCnt _ _ _ | .evrRaise _ _ | .evrPop _ _
  | .evrOutFlush _ _ | .evrOutClrLost _ _ =>
    [.rsp, .routers, .log, .evr]
  | .routerWake _ _ | .elementWake _ _ _ =>
    [.routers, .clk]
  | .flowAdmit _ =>
    [.routers, .flows, .lanesets, .links, .dram, .gable, .clk, .evr]
  | .flowRelease _ =>
    [.flows, .dram, .gable, .evr]
  | .flowReservationEnd _ =>
    [.routers, .flows, .lanesets, .links, .dram, .clk, .log, .evr]
  | .laneUp _ | .laneTest _ | .laneLp _ | .laneClear _ =>
    [.lanesets, .gable, .evr]
  | .laneDown _ | .laneInject _ | .lanePeriodicFlip _ _ | .laneStateTimeout _ | .laneSymbolError _ _ _ | .laneDrift _ _ _
  | .laneLp1Exit _ _ | .frameSlot _ | .frameReceive _ _ | .replayTimeout _ | .rprRetryTimeout _ | .gcapReceive _ _ | .gcapTimeout _
  | .creditStallTimeout _ | .userLaneLock _ _ _ =>
    [.routers, .masters, .flows, .lanesets, .links, .guests, .linkKeys, .tb, .dram, .gable, .clk, .log, .evr]
  | .lanePllLock _ | .laneDetectPulse _ _ | .laneTrainEnd _ | .laneFaultRestart _ | .laneLp1Entry _ | .laneLp2Exit _
  | .prbsCheckerLock _ _ _ | .prbsCheckerUnlock _ _ _ | .userLaneTxidle _ _ _ =>
    [.lanesets]
  | .orderedSetReceive _ _ _ _ _ =>
    [.free, .routers, .masters, .flows, .lanesets, .links, .guests, .linkKeys, .times, .tb, .dram, .gable, .clk, .log, .evr]
  | .laneLp2Request _ =>
    [.lanesets, .links, .clk]
  | .nakTimeout _ | .linkShutdownStep _ | .linkDrainTimeout _ =>
    [.links]
  | .tosSend _ =>
    [.lanesets, .links]
  | .linkDelayValid _ =>
    [.links, .times]
  | .linkDownWaitEnd _ =>
    [.routers, .masters, .flows, .lanesets, .links, .guests, .linkKeys, .tb, .gable, .log, .evr]
  | .guestPacketReceive _ _ _ _ =>
    [.routers, .flows, .links, .guests, .log, .evr]
  | .hostRequestReceive _ _ _ _ =>
    [.routers, .masters, .flows, .links, .log, .evr]
  | .orphanExpire _ =>
    [.guests]
  | .linkSnap _ _ | .linkClrCnt _ _ =>
    [.rsp, .routers, .links, .log, .evr]
  | .ppsPulse _ _ =>
    [.free, .tb, .evr]
  | .ppsLossTimeout =>
    [.tb]
  | .timeLaneLock _ =>
    [.free, .tb]
  | .timeApplyInstant =>
    [.dies, .times, .hpins, .tb, .gable, .evr]
  | .timeSet _ | .timeAdj _ =>
    [.free, .tb, .gable, .evr]
  | .timeSource _ | .timeNotify _ =>
    [.tb, .gable, .evr]
  | .timePin _ =>
    [.dies, .hpins, .gable, .evr]
  | .timePacketSend =>
    [.routers, .tb]
  | .alignMeasureTimeout _ =>
    [.routers, .times, .evr]
  | .parentOkUpdate _ =>
    [.times]
  | .tpEdgeCapture _ _ _ _ | .tpFabricSched _ _ _ _ =>
    [.dies, .routers, .hpins, .evr]
  | .tpCapPop _ _ _ | .tpSchedWrite _ _ _ _ | .tpWinWrite _ _ _ _ _ | .tpFlushCap _ _ _ | .tpFlushSched _ _ _ | .tpClrCnt _ _ _ =>
    [.rsp, .dies, .routers, .hpins, .log, .evr]
  | .tpSchedEdge _ _ =>
    [.dies, .hpins]
  | .pornAssert | .srstnAssert | .clockNodeRunning _ _ | .supplyMonitorReset =>
    [.rsp, .ids, .acls, .dies, .routers, .masters, .flows, .lanesets, .links, .guests, .linkKeys, .times, .hpins, .tb, .cfg, .dram, .flash, .fregions, .dma, .dmaLast, .gable, .clk, .log, .evr, .svc, .lad, .thermtrip, .pornLow, .supplyBad, .supplyOkAt]
  | .pornRelease _ =>
    [.cfg, .pornLow]
  | .oscdDelayEnd _ | .srstnRelease | .packageWakeSource _ | .wakeAlarm =>
    [.cfg, .clk]
  | .bootStart _ _ _ _ =>
    [.acls, .lanesets, .cfg, .gable, .log, .evr, .svc]
  | .wipeComplete =>
    [.acls, .dies, .lanesets, .cfg, .gable, .evr, .svc]
  | .dieUnreachableTimeout _ | .phaseP1 _ | .loadImage _ _ | .mbxClose _ | .heartbeatTimeout _ | .gableRestart _ _ _ _ =>
    [.ids, .acls, .dies, .routers, .masters, .flows, .lanesets, .links, .guests, .linkKeys, .hpins, .tb, .cfg, .dram, .flash, .fregions, .dma, .gable, .clk, .log, .evr, .svc]
  | .phaseP2 =>
    [.dies, .cfg]
  | .phaseP3 =>
    [.free, .dies, .hpins, .evr, .svc]
  | .phaseP4 =>
    [.free, .rsp, .ids, .acls, .dies, .routers, .masters, .flows, .lanesets, .links, .guests, .linkKeys, .tb, .cfg, .dram, .flash, .dma, .gable, .log, .evr]
  | .slotProgram _ =>
    [.acls, .cfg, .gable, .evr]
  | .bayLoad _ =>
    [.free, .ids, .acls, .dies, .routers, .masters, .flows, .lanesets, .links, .guests, .linkKeys, .hpins, .tb, .cfg, .dram, .flash, .fregions, .dma, .gable, .clk, .log, .evr, .svc]
  | .leggettFrameRead _ _ =>
    [.dies, .routers, .masters, .cfg, .log, .lad]
  | .bayRepairStart =>
    [.free, .ids, .acls, .dies, .routers, .masters, .flows, .lanesets, .links, .guests, .linkKeys, .hpins, .tb, .cfg, .dram, .flash, .fregions, .dma, .gable, .clk, .log, .evr, .svc, .lad]
  | .leggettMemVisit _ _ _ _ _ _ =>
    [.free, .dies, .routers]
  | .memUp _ | .memDown _ | .memRegion _ | .memMap _ | .memLp _ | .memScrub _ | .memTrainingDone _ | .memShutdownEnd _ | .memSrefExitEnd _ =>
    [.dram, .gable, .evr]
  | .memInit _ =>
    [.acls, .dram, .dma, .gable, .evr]
  | .memClrCnt _ _ =>
    [.rsp, .routers, .dram, .flash, .log, .evr]
  | .memTrainingTimeout _ _ | .dramAlert _ =>
    [.free, .routers, .dram, .gable, .evr]
  | .dramCommandIssue _ _ =>
    [.free, .routers, .dram, .flash, .clk]
  | .dramReadReturn _ _ _ =>
    [.free, .routers, .dram, .flash, .log, .evr]
  | .dramRefresh _ _ | .zqCalibration _ _ | .dqsRetrack _ _ | .dramPdEntry _ | .dramSrefEntry _ =>
    [.dram]
  | .dramMr4Poll _ _ _ _ =>
    [.dram, .evr]
  | .dramPatrolRead _ _ =>
    [.free, .dram, .log, .evr]
  | .keyLoad _ =>
    [.flash, .gable, .evr]
  | .keyRegion _ =>
    [.fregions, .gable, .evr]
  | .keyLink _ =>
    [.lanesets, .linkKeys, .gable, .evr]
  | .keyErase _ =>
    [.routers, .masters, .flows, .lanesets, .links, .guests, .linkKeys, .tb, .flash, .gable, .log, .evr]
  | .dmaGrant _ =>
    [.dma, .gable, .evr]
  | .dmaRelease _ =>
    [.acls, .dram, .dma, .gable, .log, .evr]
  | .dmaGo _ _ _ _ | .dmaStop _ _ | .dmaClear _ _ | .dmaSnap _ _ =>
    [.rsp, .acls, .routers, .dram, .dma, .gable, .log, .evr]
  | .dmaTimedStart _ =>
    [.dma]
  | .dmaBeatIssue _ _ =>
    [.free, .routers, .masters, .flows, .dma, .dmaLast, .evr]
  | .dmaBeatResponse _ =>
    [.acls, .routers, .masters, .dram, .dma, .gable, .log, .evr]
  | .dmaRetryTimer _ _ =>
    [.routers, .masters, .flows, .dma, .evr]
  | .portTimeout _ =>
    [.routers, .masters, .gable, .evr]
  | .mbxCplAck _ _ | .mbxEvpop _ _ =>
    [.rsp, .routers, .gable, .log, .evr]
  | .watchdogExpire =>
    [.cfg, .gable, .evr]
  | .gableSramScrub _ =>
    [.free, .cfg, .gable, .evr]
  | .spiRead _ _ =>
    [.routers, .gable, .log, .evr]
  | .spiReadStatus =>
    [.gable]
  | .clkStatus _ | .ldGableHaltForced =>
    [.free, .gable, .evr]
  | .clkSelect _ =>
    [.free, .times, .gable, .clk, .evr]
  | .clkswForce _ | .clockSwitchEnd _ =>
    [.lanesets, .times, .gable, .clk, .evr]
  | .clockNodeFail _ =>
    [.free, .rsp, .ids, .acls, .dies, .routers, .masters, .flows, .lanesets, .links, .guests, .linkKeys, .times, .hpins, .tb, .cfg, .dram, .flash, .fregions, .dma, .dmaLast, .gable, .clk, .log, .evr, .svc, .lad, .thermtrip, .pornLow, .supplyBad, .supplyOkAt]
  | .aoclkFail =>
    [.cfg, .clk, .evr]
  | .pwrSet _ =>
    [.dies, .routers, .masters, .times, .hpins, .gable, .clk, .evr, .lad]
  | .pwrPermit _ =>
    [.routers, .gable, .clk, .evr]
  | .pwrWake _ =>
    [.gable, .clk, .evr]
  | .elementIdleEntry _ _ _ _ =>
    [.dies, .routers, .masters, .times, .hpins, .clk, .lad]
  | .powerEntryEnd _ _ _ =>
    [.free, .dies, .routers, .masters, .flows, .lanesets, .links, .guests, .linkKeys, .times, .hpins, .tb, .cfg, .dram, .gable, .clk, .log, .evr, .svc]
  | .wakeExitEnd _ _ _ =>
    [.free, .rsp, .dies, .routers, .masters, .times, .hpins, .gable, .clk, .log, .evr, .lad]
  | .packageWakeEnd =>
    [.free, .rsp, .dies, .routers, .masters, .lanesets, .times, .tb, .dram, .dma, .gable, .clk, .log, .evr, .svc]
  | .logClear _ =>
    [.gable, .log, .evr]
  | .logEntryWrite =>
    [.log, .evr]
  | .eventRoute =>
    [.routers, .log, .evr]
  | .fabricEventInput _ _ _ =>
    [.routers, .evr]
  | .spPinWrite _ _ _ | .gpioSet _ _ | .gpioClr _ _ | .uartTx _ _ _ | .uartRx _ _ | .spicXfer _ _ _ | .spicRx _ _ | .i2cCmd _ _ _
  | .i2cRx _ _ =>
    [.free, .rsp, .routers, .log, .evr, .svc]
  | .spPinSwitchDone _ | .uartRxByte _ _ _ _ | .spicXferDone _ _ | .i2cXferDone _ _ _ _ =>
    [.svc]
  | .ppsOutPulse =>
    [.tb, .svc]
  | .trstnAssert | .vddDbgLoss | .vddDbgReturn =>
    [.dies, .routers, .masters, .gable, .clk, .log, .evr, .lad]
  | .extest _ _ | .samplePreload _ _ | .extestPulse _ _ | .extestTrain _ _ | .clamp _ | .highz _ =>
    [.free, .lad]
  | .idcode _ | .auth _ | .authVerifyDone | .bypass _ _ =>
    [.lad]
  | .busacc _ =>
    [.routers, .masters, .flows, .evr, .lad]
  | .wake =>
    [.cfg, .clk, .lad]
  | .ldFclkStop _ _ _ | .ldFclkStep _ _ | .ldSlgFreeze _ _ _ _ | .ldSlgStep _ _ | .ldCapGo _ _ | .ldGableHalt _ | .ldGableRun _
  | .ldGableStep _ =>
    [.free, .rsp, .dies, .routers, .gable, .clk, .log, .evr, .lad]
  | .thermtrip _ =>
    [.dies, .thermtrip]
  | .dramLpExit _ =>
    [.dram, .clk]
  | .supplyReturn =>
    [.cfg, .supplyBad, .supplyOkAt]

/-! ### Slices -/

/-- Slice i of die d is the next of its group to go through a cycle, runs, and the word at its PC is a valid instruction whose opcode lies
    from `lo` to `hi` (04 R129; 05 R133). -/
def State.runsRow (s : State) (d i lo hi : Nat) : Bool :=
  s.slReady d i && (s.slice d i).run == .running && wordValid (s.slWord d i) && decide (lo ≤ iOpc (s.slWord d i)) && decide (iOpc (s.slWord d i) ≤ hi)

/-- The next cycle of slice i serves no waiting access and finds no failing word: not at PC, and not in X or Y memory for the instruction in MR
    (04 R114, R128; 06 R166). -/
def State.cleanCycle (s : State) (d i : Nat) (u : SliceUpset) : Bool :=
  let m := s.slice d i
  let w := (s.readSl (s.imBlank d i) m.imem m.pc.toNat u.instr 0).1
  let x := (s.readSl (s.slBlank d i) m.xmem ((m.stMR.map Flight.xa).getD 0).toNat u.x 1).1
  let y := (s.readSl (s.slBlank d i) m.ymem ((m.stMR.map Flight.ya).getD 0).toNat u.y 2).1
  ((s.die d).winWait.all fun e => e.slice != i) && !w.bad && w.data == s.slWord d i && (!m.readsX || !x.bad) && (!m.readsY || !y.bad)

/-- Stage D of slice i holds no control instruction (05 R152). -/
def State.plainD (s : State) (d i : Nat) : Bool := (s.slice d i).stD.all fun f => f.nop || decide (iOpc f.word < 0xF0)

/-- The cycle from `s` to `t` has fetched the word at PC of slice i (05 R132 to R134): it stands in stage D, as a NOP where it is no valid
    instruction; what stood in a stage stands one further; PC is at the next address unless an open level ends here; no other slice of the
    die has changed. -/
def State.fetched (s t : State) (d i : Nat) : Prop :=
  ((t.slice d i).stD.map fun f => (f.addr, f.word, f.nop, f.slot)) = some ((s.slice d i).pc, s.slWord d i, !wordValid (s.slWord d i), false) ∧
  (t.slice d i).stAG.map Flight.word = (s.slice d i).stD.map Flight.word ∧ (t.slice d i).stMR.map Flight.word = (s.slice d i).stAG.map Flight.word ∧
  (t.slice d i).stM1.map Flight.word = (s.slice d i).stMR.map Flight.word ∧ (t.slice d i).stM2.map Flight.word = (s.slice d i).stM1.map Flight.word ∧
  (t.slice d i).stWB.map Flight.word = (s.slice d i).stM2.map Flight.word ∧ (t.slice d i).run = .running ∧
  (t.slice d i).cycles = (s.slice d i).cycles + 1 ∧ ((s.slice d i).atLoopEnd = false → (t.slice d i).pc = (s.slice d i).pc + 1) ∧
  ∀ k, k ≠ i → t.slice d k = s.slice d k

/-- What the cycle that takes an instruction word through stage M2 leaves in its accumulator, wherever and whenever it stands there. -/
def accAfterM2 (w : BitVec 40) (v : CycleIn → Slice → Flight → BitVec 56) : Prop :=
  ∀ ci m f, m.stM2 = some f → f.word = w → f.nop = false → (sliceCycle ci m).1.acc (iDst w % 4) = v ci m f

/-- No read of this cycle is uncorrectable (06 R166). -/
def CycleIn.clean (i : CycleIn) : Bool := !i.fetch.bad && !i.x.bad && !i.y.bad

/-- What the clean cycle of a RUNNING slice that holds an instruction word in stage D does. -/
def whenInD (w : BitVec 40) (post : CycleIn → Slice → Flight → Prop) : Prop :=
  ∀ ci m f, ci.clean = true → m.run = .running → m.stD = some f → f.word = w → f.nop = false → post ci m f

/-- The product that stage M1 forms of an instruction word: of data registers `j` and `k` (04 R108; 05 R145). -/
def productInM1 (w : BitVec 40) (second : Bool) (j k : Nat) : Prop :=
  ∀ ci m f, ci.clean = true → m.stM1 = some f → f.word = w → f.nop = false →
    (sliceCycle ci m).1.stM2.map (if second then Flight.p1 else Flight.p0) = some (BitVec.ofInt 56 ((m.dReg j).toInt * (m.dReg k).toInt))

/-- An instruction word that is not cancelled stands in a stage, with an opcode from `lo` to `hi` (05 R132). -/
def Flight.isRow (f : Flight) (lo hi : Nat) : Bool := !f.nop && decide (lo ≤ iOpc f.word) && decide (iOpc f.word ≤ hi)

/-! ### Events of an F-die -/

/-- EVID and EVDATA of the event packets that die d's control port has sent and its router holds (07 R186; 19 R489). -/
def State.eventsOut (s : State) (d : Nat) : List (BitVec 10 × BitVec 32) :=
  (tget [] (s.router d 5).inq (8 * 7 + (MsgClass.evt.vc + 1))).map fun q => (q.evid, q.evdata)

/-! ### Register accesses -/

/-- The last register access was answered OK, with these read data (0 for a write). -/
abbrev State.okay (t : State) (v : Nat) : Prop := t.rsp = { resp := respOk, data := BitVec.ofNat 64 v }

/-! ### Mailbox requests (17 R439 to R443) -/

/-- The request that waits in mailbox m is the next to be served, names the command with this code, is new in its session, and passes the
    checks of 17 Table 17.9 that come before the command's own. -/
def State.asks (s : State) (m code : Nat) : Bool :=
  let b := s.mbx m
  let r := b.request
  let seq := BitVec.ofNat 16 r.seq
  decide (m < 64) && s.engineRuns && b.ringing && !b.deferred && s.mbxTurn m &&
  (s.gable.gstate == .running || (s.gable.gstate == .recovery && (r.cmd / 256 == 0 || r.cmd / 256 == 1 || r.cmd / 256 == 9))) && r.flags == 0 && r.res == 0 && decide (r.len ≤ 240) && s.sessionOk m r && r.cmd == code &&
  (r.session == 0 || (!(b.running.any fun x => x.seq == seq) && !(b.recorded.any fun e => e.1 == seq)))

/-- The session has room for one more completion (17 R440): fewer than 16 are running, waiting or shown. -/
def State.hasRoom (s : State) (m : Nat) : Bool := decide ((s.mbx m).heldCount < 16)

/-- The request that waits in mailbox m. -/
def State.req (s : State) (m : Nat) : Request := (s.mbx m).request

/-- The request of mailbox m in `s` is answered in `t`: REQ_BUSY has fallen, RSP_VALID has risen, and MBX_RSP holds STATUS, SEQ, SESSION and
    the results (17 Table 17.3, Table 17.7). -/
abbrev State.answered (s t : State) (m status : Nat) (data : List (BitVec 8)) : Prop :=
  (t.mbx m).ringing = false ∧ (t.mbx m).rspValid = true ∧
  (t.mbx m).rsp = answerBytes status (s.req m).seq false false (s.req m).session data

/-- The mailbox command that a command of the block is, with the mailbox its request waits in (17 Table 17.10); none for any other. -/
def mailboxOf (i : Sys2Proof.Instr) : Option (Command × Nat) :=
  match i with
  | .aclRead m => some (cmdAclRead, m)
  | .aclWrite m => some (cmdAclWrite, m)
  | .bayRestore m => some (cmdBayRestore, m)
  | .probeSelect m => some (cmdProbeSelect, m)
  | .flowAdmit m => some (cmdFlowAdmit, m)
  | .flowRelease m => some (cmdFlowRelease, m)
  | .flowQuery m => some (cmdFlowQuery, m)
  | .laneUp m => some (cmdLaneUp, m)
  | .laneDown m => some (cmdLaneDown, m)
  | .laneTest m => some (cmdLaneTest, m)
  | .laneInject m => some (cmdLaneInject, m)
  | .laneLp m => some (cmdLaneLp, m)
  | .laneClear m => some (cmdLaneClear, m)
  | .timeGet m => some (cmdTimeGet, m)
  | .timeSet m => some (cmdTimeSet, m)
  | .timeSource m => some (cmdTimeSource, m)
  | .timeAdj m => some (cmdTimeAdj, m)
  | .timeStatus m => some (cmdTimeStatus, m)
  | .timePin m => some (cmdTimePin, m)
  | .timeNotify m => some (cmdTimeNotify, m)
  | .cfgStatus m => some (cmdCfgStatus, m)
  | .loadImage m hdr => some (cmdLoadImage hdr, m)
  | .imageData m => some (cmdImageData, m)
  | .slotProgram m => some (cmdSlotProgram, m)
  | .bayLoad m => some (cmdBayLoad, m)
  | .bayShutdown m => some (cmdBayShutdown, m)
  | .bayEnable m => some (cmdBayEnable, m)
  | .bayStatus m => some (cmdBayStatus, m)
  | .bayRepairSrc m => some (cmdBayRepairSrc, m)
  | .scrubCtrl m => some (cmdScrubCtrl, m)
  | .memStatus m => some (cmdMemStatus, m)
  | .memUp m => some (cmdMemUp, m)
  | .memDown m => some (cmdMemDown, m)
  | .memInit m => some (cmdMemInit, m)
  | .memRegion m => some (cmdMemRegion, m)
  | .memMap m => some (cmdMemMap, m)
  | .memLp m => some (cmdMemLp, m)
  | .memScrub m => some (cmdMemScrub, m)
  | .keyLoad m => some (cmdKeyLoad, m)
  | .keyRegion m => some (cmdKeyRegion, m)
  | .keyLink m => some (cmdKeyLink, m)
  | .keyErase m => some (cmdKeyErase, m)
  | .keyStatus m => some (cmdKeyStatus, m)
  | .dmaGrant m => some (cmdDmaGrant, m)
  | .dmaRelease m => some (cmdDmaRelease, m)
  | .dmaQuery m => some (cmdDmaQuery, m)
  | .mbxOpen m => some (cmdMbxOpen, m)
  | .mbxClose m => some (cmdMbxClose, m)
  | .mbxHeartbeat m => some (cmdMbxHeartbeat, m)
  | .mbxSessions m => some (cmdMbxSessions, m)
  | .idGet m => some (cmdIdGet, m)
  | .fwInfo m => some (cmdFwInfo, m)
  | .portTimeout m => some (cmdPortTimeout, m)
  | .clkStatus m => some (cmdClkStatus, m)
  | .clkSelect m => some (cmdClkSelect, m)
  | .clkswForce m => some (cmdClkswForce, m)
  | .pwrSet m => some (cmdPwrSet, m)
  | .pwrPermit m => some (cmdPwrPermit, m)
  | .pwrStatus m => some (cmdPwrStatus, m)
  | .pwrWake m => some (cmdPwrWake, m)
  | .logInfo m => some (cmdLogInfo, m)
  | .logRead m => some (cmdLogRead, m)
  | .logClear m => some (cmdLogClear, m)
  | .ridgeStatus m => some (cmdRidgeStatus, m)
  | _ => none

/-- The request of mailbox m is answered in `t` with a status and nothing else: SESSION is the mailbox's own when the request named it, and 0
    otherwise; a repeated answer says DUP (17 Table 17.7, R441). -/
abbrev State.refused (s t : State) (m status : Nat) (dup : Bool) : Prop :=
  (t.mbx m).ringing = false ∧ (t.mbx m).rspValid = true ∧
  (t.mbx m).rsp = answerBytes status (s.req m).seq dup false (if (s.req m).session = s.sid m then s.sid m else 0) [] ∧
  s.changesOnly t [.gable, .evr]

/-- The doorbell of mailbox m has been rung, its request is the next one to be taken, and the engine runs (17 R439). -/
def State.rings (s : State) (m : Nat) : Bool :=
  decide (m < 64) && s.engineRuns && (s.mbx m).ringing && !(s.mbx m).deferred && s.mbxTurn m

/-- A request of the mailbox's own session restarts its heartbeat timer (17 R444): the state a command's checks and body see. -/
def State.heard (s : State) (m : Nat) : State :=
  if (s.req m).session != 0 && (s.req m).session == s.sid m then s.modMbx m fun b => { b with hbAt := s.now, hbUsed := 0 } else s

end Sys2Proof.Machine
end

