-- ==== Sys2Proof/Certificates/Slice0/Obligations.lean ====
section
/-! DEFINITION. The statements about the machine, one definition each; the rule of the spec each rests on stands in OBLIGATIONS.json. -/

open Sys2Proof Sys2Proof.Machine

/-- For every command c and state s, a step of s with c at the front of its queue is exec of c on s with the queue's rest. -/
def Obligations.stepRunsFront : Prop :=
  (∀ (c : Instr) (rest : List Instr) (s : State), step (s.setPending (c :: rest)) = exec c (s.setPending rest))

/-- With nothing in the queue a step answers the next state in which 1,000 ps have passed, every running counter of an F-die of the part that is not slewing has added its rate word, and every part but now, times, and what the edges of the FCLK nets move (dies, lane sets, the draw counter) is as it was. That the empty queue ticks is the model's choice (log entry 10); that a cycle adds the rate word is R289. -/
def Obligations.stepOnEmptyQueueTicks : Prop :=
  (∀ (s : State), s.pending = [] →
    ∃ t, step s = .next t ∧ t.now = s.now + 1000 ∧ s.changesOnly t [.now, .times, .dies, .lanesets, .free] ∧
      ∀ d, (d < s.fdies ∨ d = 8) → (s.time d).stopped = false → (s.time d).mon.slew = 0 →
        (t.time d).ctr = ((s.time d).ctr + (s.time d).rate) % 2 ^ 112)

/-- Right after power is applied no command waits, the boot image is in charge, no image runs and no bay is configured, every router, link, lane set, DMA channel and DRAM channel is at its reset value, the fault log is empty, and no time has passed. At reset every top-level table is in canonical form: keys strictly rising, no entry equal to the default. -/
def Obligations.resetState : Prop :=
  (State.reset.pending = [] ∧ State.reset.cfg.phase = .boot ∧ State.reset.cfg.started = false ∧ (∀ d b, (State.reset.bay d b).state = .empty) ∧
      (∀ n r, State.reset.router n r = Router.reset) ∧ (∀ k, State.reset.link k = LinkEnd.reset) ∧
      (∀ k, (State.reset.laneset k).state = .off) ∧ (∀ c, (State.reset.dmaCh c).state = .idle) ∧
      (∀ n, (State.reset.chan n).state = .off) ∧ State.reset.log.entries = [] ∧ State.reset.now = 0) ∧
  (State.reset.tablesWf = true)

/-- For every state whose top-level tables (access tables, dies, routers, masters, flows, lane sets, links, guests, link keys, times, pins, Flashing units and regions, DMA channels) are canonical, every step, whatever command is in front, answers a state whose tables are canonical. So equal contents are equal data in every state a run can reach. -/
def Obligations.everyStepKeepsTables : Prop :=
  (∀ (s t : State), s.tablesWf = true ∧ step s = .next t →
    t.tablesWf = true)

/-- For every command and every state exec answers a next state: the spec gives this block no stop, every error being an answer, a status bit or an event. It says that nothing stops, not that a command has its effect; the statements of the families say that. -/
def Obligations.everyCommandCompletes : Prop :=
  (∀ (c : Instr) (s : State), ∃ t, exec c s = .next t)

/-- Whatever the command and the state, the next state has the same fuse facts (part, grades, unique number), the same elapsed time and the same waiting commands: resets, loads and restarts among them. That commands take no elapsed time is the model's choice (log entries 8 and 16). -/
def Obligations.everyCommandKeepsFusesTimeAndQueue : Prop :=
  (∀ (c : Instr) (s t : State), exec c s = .next t →
    t.fuses = s.fuses ∧ t.now = s.now ∧ t.pending = s.pending)

/-- For every command and every state, each part of the state that mayTouch does not list for that command is as it was: mayTouch names, per command, the register groups, memories, queues and counters its rules act on, with the routers and raised events where it raises an event or notes a denial, and the draw counter where it takes a free value. The fuses, the elapsed time and the waiting commands are in no list. -/
def Obligations.everyCommandKeepsItsFrame : Prop :=
  (∀ (c : Instr), Instr.changesOnly c (mayTouch c))

/-- An entry matches a source MID when VALID = 1 and (SRC XOR MID_VAL) AND MID_MASK = 0. Where no temporary entry stands before the table and SRC has no built-in entry, the matching entry with the lowest index alone decides: the request is admitted exactly when that entry holds RD for a read, WR for a write or posted write, both for a read-modify-write, and PRIV too for a privileged request; a valid entry with RD = WR = 0 denies every request it decides, and with no match the request is denied. Requests of 0x800, 0x801 and 0x840 are admitted at every target in every state. Absent entries of the table read as the reset entry, which is not valid. -/
def Obligations.accessEntriesDecide : Prop :=
  (∀ (e : AclEntry) (src : BitVec 12), e.matches src = true ↔ (e.valid = true ∧ (src ^^^ e.midVal) &&& e.midMask = 0)) ∧
  (∀ (s : State) (tid i : Nat) (src : BitVec 12) (opc : BitVec 5) (a : BitVec 48) (e : AclEntry), tabWf AclEntry.reset (s.acl tid).entries = true ∧ (s.acl tid).temps = [] ∧ builtIn src = false ∧ tget AclEntry.reset (s.acl tid).entries i = e ∧ e.matches src = true ∧ (∀ j ∈ List.range i, (tget AclEntry.reset (s.acl tid).entries j).matches src = false) →
    s.admits tid src (needsOf opc) a = true ↔
      ((opcRead opc = true → e.rd = true) ∧ (opcWrite opc = true → e.wr = true) ∧ (opcRmw opc = true → e.rd = true ∧ e.wr = true) ∧ (opcPriv opc = true → e.priv = true))) ∧
  (∀ (s : State) (tid : Nat) (src : BitVec 12) (opc : BitVec 5) (a : BitVec 48), (s.acl tid).temps = [] ∧ builtIn src = false ∧ (∀ e ∈ (s.acl tid).entries, e.2.matches src = false) →
    s.admits tid src (needsOf opc) a = false) ∧
  (∀ (s : State) (tid i : Nat) (src : BitVec 12) (opc : BitVec 5) (a : BitVec 48), tabWf AclEntry.reset (s.acl tid).entries = true ∧ (s.acl tid).temps = [] ∧ builtIn src = false ∧ (tget AclEntry.reset (s.acl tid).entries i).matches src = true ∧ (tget AclEntry.reset (s.acl tid).entries i).rd = false ∧
      (tget AclEntry.reset (s.acl tid).entries i).wr = false ∧ (∀ j ∈ List.range i, (tget AclEntry.reset (s.acl tid).entries j).matches src = false) ∧ (opcRead opc = true ∨ opcWrite opc = true ∨ opcRmw opc = true) →
    s.admits tid src (needsOf opc) a = false) ∧
  (∀ (s : State) (tid : Nat) (src : BitVec 12) (opc : BitVec 5) (a : BitVec 48), src = 0x800 ∨ src = 0x801 ∨ src = 0x840 →
    s.admits tid src (needsOf opc) a = true)

/-- A privileged write that is let through: PROBE_SEL_c takes tap, enable and destination unless the capture is armed and the channel has or would have DEST; ARM restarts the capture with nothing stored; FORCE holds a trigger condition on an armed capture that has not triggered. An unprivileged write is DENIED and changes none of it. A sample clock above 410 MHz sets OVERSPEED and disarms. At a sample-clock edge of an armed capture: a sample taken while a condition is held, or in which the trigger channel's output rises in rise mode, with PRETRIG samples stored, triggers: the trigger index is the write index and the sample is recorded. A sample after which 8,191 - PRETRIG samples follow the trigger ends the capture: DONE rises and it is disarmed. -/
def Obligations.probes : Prop :=
  (∀ (s : State) (w : Who) (d c : Nat) (data : BitVec 32), s.reaches w (dieBase d + 0x900000 + (0x100 + 4 * c)) true = true ∧ w.priv = true ∧ c < 64 ∧ ((s.die d).probe.armed = false ∨ (s.probeSel d c).dest = false ∧ data.getLsbD 13 = false) →
    ∃ t, exec (.probeSelWrite w d c data) s = .next t ∧ t.okay 0 ∧ t.probeSel d c = { tap := BitVec.ofNat 12 data.toNat, en := data.getLsbD 12, dest := data.getLsbD 13 } ∧
      ∀ k, k ≠ c → t.probeSel d k = s.probeSel d k) ∧
  (∀ (s : State) (w : Who) (d c : Nat) (data : BitVec 32), s.reaches w (dieBase d + 0x900000 + (0x100 + 4 * c)) true = true ∧ w.priv = true ∧ c < 64 ∧ (s.die d).probe.armed = true ∧ (s.probeSel d c).dest = true →
    ∃ t, exec (.probeSelWrite w d c data) s = .next t ∧ t.rsp.resp = respTgtErr ∧ t.dies = s.dies) ∧
  (∀ (s : State) (w : Who) (d c : Nat) (data : BitVec 32), s.reaches w (dieBase d + 0x900000 + (0x100 + 4 * c)) true = true ∧ w.priv = false →
    ∃ t, exec (.probeSelWrite w d c data) s = .next t ∧ t.rsp.resp = respDenied ∧ t.dies = s.dies) ∧
  (∀ (s : State) (w : Who) (d : Nat) (data : BitVec 32), s.reaches w (dieBase d + 0x900000 + 0) true = true ∧ w.priv = true →
    ∃ t, exec (.probeArm w d data) s = .next t ∧ t.okay 0 ∧ (t.die d).probe.armed = true ∧ (t.die d).probe.triggered = false ∧ (t.die d).probe.done = false ∧
      (t.die d).probe.stored = 0 ∧ (t.die d).probe.clkSel = BitVec.ofNat 5 data.toNat ∧ (t.die d).probe.trigMode = data.getLsbD 10 ∧
      (t.die d).probe.sel = (s.die d).probe.sel) ∧
  (∀ (s : State) (w : Who) (d : Nat) (data : BitVec 32), s.reaches w (dieBase d + 0x900000 + 0) true = true ∧ w.priv = true ∧ data.getLsbD 8 = false ∧ (s.die d).probe.armed = true ∧ (s.die d).probe.triggered = false →
    ∃ t, exec (.probeForce w d data) s = .next t ∧ t.okay 0 ∧ (t.die d).probe.held = true ∧ (t.die d).probe.armed = true ∧ (t.die d).probe.stored = (s.die d).probe.stored ∧
      (t.die d).probe.buf = (s.die d).probe.buf) ∧
  (∀ (s : State) (d : Nat), d < s.fdies ∧ 410000 < (s.node (fclkNode d (s.die d).probe.clkSel.toNat)).freq.toNat →
    ∃ t, exec (.probeOverspeed d) s = .next t ∧ (t.die d).probe = { (s.die d).probe with overspeed := true, armed := false }) ∧
  (∀ (s : State) (d : Nat), s.probeClocked d = true ∧ (s.die d).probe.armed = true ∧ (s.die d).probe.triggered = false ∧ (s.die d).probe.pretrig.toNat ≤ (s.die d).probe.stored ∧ ((s.die d).probe.held = true ∨ ((s.die d).probe.trigMode = true ∧ (s.probeOut d).getLsbD (s.die d).probe.trigCh.toNat = true ∧ (s.die d).probe.out.getLsbD (s.die d).probe.trigCh.toNat = false)) →
    ∃ t, exec (.probeTrigger d) s = .next t ∧ (t.die d).probe.triggered = true ∧ (t.die d).probe.trigIdx = (s.die d).probe.wr ∧ (t.die d).probe.held = false ∧
      tget 0 (t.die d).probe.buf (s.die d).probe.wr.toNat = s.probeRec d (s.probeOut d) ∧ (t.die d).probe.wr = (s.die d).probe.wr + 1) ∧
  (∀ (s : State) (d : Nat), s.probeClocked d = true ∧ (s.die d).probe.armed = true ∧ (s.die d).probe.triggered = true ∧ (s.die d).probe.done = false ∧ 8191 - (s.die d).probe.pretrig.toNat ≤ (s.die d).probe.post + 1 →
    ∃ t, exec (.probeCaptureDone d) s = .next t ∧ (t.die d).probe.done = true ∧ (t.die d).probe.armed = false ∧ (t.die d).probe.trigIdx = (s.die d).probe.trigIdx)

/-- A request that passes the mailbox's checks, from a session with the configuration role, for a bay of the part whose die is not fenced and that has no command running: BAY_LOAD of an EMPTY, ACTIVE or DOWN bay is ACCEPTED, and for a pushed image the stream of that bay opens; BAY_SHUTDOWN and BAY_RESTORE of an ACTIVE bay are ACCEPTED and clamp it; BAY_ENABLE of a DOWN bay whose frames are good releases it; BAY_STATUS answers the bay's registers; BAY_REPAIR_SRC sets the source; SCRUB_CTRL sets LG_CFG of the dies it names. -/
def Obligations.bayCommands : Prop :=
  (∀ (s : State) (m d b : Nat), s.asks m 0x0104 = true ∧ s.hasRoom m = true ∧ s.gable.gstate = .running ∧ s.hasRole m roleC = true ∧ (s.req m).len = 20 ∧ (s.req m).num 0 1 = d ∧ (s.req m).num 1 1 = b ∧ d < s.fdies ∧ b < 96 ∧ 2 ≤ (s.req m).num 2 1 ∧ (s.req m).num 2 1 ≤ 4 ∧ (s.req m).num 3 1 < 2 ∧ s.fenced d = false ∧ s.bayBusy d b = false ∧ s.ctrlFree = true ∧ s.srcBusy ((s.req m).num 2 1) = false ∧ ((s.bay d b).state = .empty ∨ (s.bay d b).state = .active ∨ (s.bay d b).state = .down) →
    ∃ t, exec (.bayLoad m) s = .next t ∧ s.answered t m stAccepted [] ∧
      ((s.req m).num 2 1 < 4 → t.cfg.stream.isOpen = true ∧ t.cfg.stream.what = .bay ∧ t.cfg.stream.die = d ∧ t.cfg.stream.bay = b ∧ t.cfg.stream.src = (s.req m).num 2 1 ∧ (t.bay d b).state = (s.bay d b).state)) ∧
  (∀ (s : State) (m d b : Nat), s.asks m 0x0105 = true ∧ s.hasRoom m = true ∧ s.gable.gstate = .running ∧ s.hasRole m roleC = true ∧ (s.req m).len = 4 ∧ (s.req m).num 0 1 = d ∧ (s.req m).num 1 1 = b ∧ d < s.fdies ∧ b < 96 ∧ (s.req m).num 2 1 < 2 ∧ (s.req m).zero 3 1 = true ∧ s.fenced d = false ∧ s.bayBusy d b = false ∧ (s.bay d b).state = .active →
    ∃ t, exec (.bayShutdown m) s = .next t ∧ s.answered t m stAccepted [] ∧ (t.bay d b).state = .shutting ∧ (t.bay d b).clamped = true ∧ (t.bay d b).fclkOn = false ∧
      (t.bay d b).portOpen = false ∧ (t.bay d b).shutWipe = ((s.req m).num 2 1 == 1)) ∧
  (∀ (s : State) (m d b : Nat), s.asks m 0x0106 = true ∧ s.hasRoom m = true ∧ s.gable.gstate = .running ∧ (s.req m).len = 4 ∧ (s.req m).num 0 1 = d ∧ (s.req m).num 1 1 = b ∧ d < s.fdies ∧ b < 96 ∧ (s.req m).zero 2 2 = true ∧ s.fenced d = false ∧ s.bayBusy d b = false ∧ (s.bay d b).state = .active →
    ∃ t, exec (.bayRestore m) s = .next t ∧ s.answered t m stAccepted [] ∧ (t.bay d b).state = .restoring ∧ (t.bay d b).clamped = true ∧ (t.bay d b).fclkOn = false ∧ (t.bay d b).portOpen = false) ∧
  (∀ (s : State) (m d b : Nat), s.asks m 0x0107 = true ∧ s.hasRoom m = true ∧ s.gable.gstate = .running ∧ s.hasRole m roleC = true ∧ (s.req m).len = 4 ∧ (s.req m).num 0 1 = d ∧ (s.req m).num 1 1 = b ∧ d < s.fdies ∧ b < 96 ∧ (s.req m).zero 2 2 = true ∧ s.fenced d = false ∧ s.bayBusy d b = false ∧ (s.bay d b).state = .down ∧ (s.bay d b).ueKnown = false →
    ∃ t, exec (.bayEnable m) s = .next t ∧ s.answered t m stAccepted [] ∧ (t.bay d b).state = .active ∧ (t.bay d b).clamped = false ∧ (t.bay d b).fclkOn = true ∧ (t.bay d b).portOpen = true) ∧
  (∀ (s : State) (m d b : Nat), s.asks m 0x0108 = true ∧ s.gable.gstate = .running ∧ (s.req m).len = 4 ∧ (s.req m).num 0 1 = d ∧ (s.req m).num 1 1 = b ∧ d < s.fdies ∧ b < 96 ∧ (s.req m).zero 2 2 = true →
    ∃ t, exec (.bayStatus m) s = .next t ∧
      s.answered t m stOk (leBytes 4 (s.bay d b).statusReg ++ leBytes 4 0 ++ leBytes 8 (s.bay d b).ident.toNat ++ leBytes 4 (s.bay d b).cntReg ++ leBytes 4 (s.bay d b).corr.toNat) ∧
      t.dies = s.dies) ∧
  (∀ (s : State) (m d b : Nat), s.asks m 0x0109 = true ∧ s.gable.gstate = .running ∧ s.hasRole m roleC = true ∧ (s.req m).len = 20 ∧ (s.req m).num 0 1 = d ∧ (s.req m).num 1 1 = b ∧ d < s.fdies ∧ b < 96 ∧ (s.req m).zero 2 2 = true →
    ∃ t, exec (.bayRepairSrc m) s = .next t ∧ s.answered t m stOk [] ∧
      t.bay d b = { s.bay d b with source := if (s.req m).num 12 8 = 0 then none else some ((s.req m).num 4 8, (s.req m).num 12 8, s.sid m) }) ∧
  (∀ (s : State) (m d : Nat), s.asks m 0x010A = true ∧ s.gable.gstate = .running ∧ s.hasRole m roleC = true ∧ (s.req m).len = 8 ∧ ((s.req m).num 0 1 = d ∨ (s.req m).num 0 1 = 0xFF) ∧ d < s.fdies ∧ (s.req m).num 1 1 < 4 ∧ (s.req m).zero 2 2 = true ∧ 40 ≤ (s.req m).num 4 2 ∧ (s.req m).num 4 2 ≤ 10000 ∧ 200 ≤ (s.req m).num 6 2 ∧ (s.req m).num 6 2 ≤ 60000 →
    ∃ t, exec (.scrubCtrl m) s = .next t ∧ s.answered t m stOk [] ∧
      (t.die d).leggett.cfg = BitVec.ofNat 32 ((s.req m).num 4 2 + atBit (bitOf ((s.req m).num 1 1) 0) 14 + atBit (bitOf ((s.req m).num 1 1) 1) 15 + atLo ((s.req m).num 6 2) 16)) ∧
  (∀ (s : State) (m d c : Nat), s.asks m 0x0110 = true ∧ s.gable.gstate = .running ∧ s.hasRole m roleC = true ∧ (s.req m).len = 8 ∧ (s.req m).num 0 1 = d ∧ (s.req m).num 1 1 = c ∧ d < s.fdies ∧ c < 64 ∧ (s.req m).num 2 2 < 4096 ∧ (s.req m).num 4 1 < 2 ∧ (s.req m).num 5 1 < 2 ∧ (s.req m).zero 6 2 = true ∧ (s.die d).probe.armed = false →
    ∃ t, exec (.probeSelect m) s = .next t ∧ s.answered t m stOk [] ∧ t.probeSel d c = { tap := BitVec.ofNat 12 ((s.req m).num 2 2), en := (s.req m).num 4 1 == 1, dest := (s.req m).num 5 1 == 1 })

/-- In its time slot, or at once for frames that a wake puts first, the configuration scrub moves to the next frame; one correctable upset of a clean frame is counted and corrected; an uncorrectable one of a bay's frame is counted and sets UE_KNOWN of that bay. A memory visit in a free cycle leaves a single upset of a block-memory word corrected and counted, one without a free cycle counts as missed. A repair of an ACTIVE bay without a source shuts it down to be wiped. The end of a port's drain completes a shut-down: DOWN, or EMPTY where it wipes; and ends a restore: the bay is released, or on a fenced die DOWN (log entry 157). -/
def Obligations.scrubsAndDrains : Prop :=
  (∀ (s : State) (d : Nat), d < s.fdies ∧ (s.die d).leggett.cfgRun = true ∧ s.lclkRuns d = true ∧ (s.die d).leggett.first = [] ∧ (s.die d).leggett.passAt + (s.die d).leggett.frame * (s.die d).leggett.cfgPs / 262144 ≤ s.now ∧ (s.die d).leggett.frame + 1 < 262144 ∧ s.skipsFrame d (s.die d).leggett.frame = false ∧ tget CfgFrame.reset (s.die d).frames (s.die d).leggett.frame = CfgFrame.reset →
    ∃ t, exec (.leggettFrameRead d { singles := [], bad := false }) s = .next t ∧ (t.die d).leggett = { (s.die d).leggett with frame := (s.die d).leggett.frame + 1 } ∧ (t.die d).frames = (s.die d).frames) ∧
  (∀ (s : State) (d i e : Nat) (rest : List (Nat × Nat)), d < s.fdies ∧ (s.die d).leggett.cfgRun = true ∧ s.lclkRuns d = true ∧ (s.die d).leggett.first = (i, e) :: rest ∧ s.skipsFrame d i = false ∧ tget CfgFrame.reset (s.die d).frames i = CfgFrame.reset →
    ∃ t, exec (.leggettFrameRead d { singles := [], bad := false }) s = .next t ∧ (t.die d).leggett = { (s.die d).leggett with first := if i + 1 < e then (i + 1, e) :: rest else rest } ∧ (t.die d).frames = (s.die d).frames) ∧
  (∀ (s : State) (d w : Nat), d < s.fdies ∧ (s.die d).leggett.cfgRun = true ∧ s.lclkRuns d = true ∧ (s.die d).leggett.first = [] ∧ (s.die d).leggett.passAt + (s.die d).leggett.frame * (s.die d).leggett.cfgPs / 262144 ≤ s.now ∧ (s.die d).leggett.frame + 1 < 262144 ∧ s.skipsFrame d (s.die d).leggett.frame = false ∧ tget CfgFrame.reset (s.die d).frames (s.die d).leggett.frame = CfgFrame.reset ∧ w < 64 →
    ∃ t, exec (.leggettFrameRead d { singles := [w], bad := false }) s = .next t ∧ (t.die d).leggett.frame = (s.die d).leggett.frame + 1 ∧
      (t.die d).leggett.cfgCorr = satInc (s.die d).leggett.cfgCorr ∧ (t.die d).leggett.cfgUe = (s.die d).leggett.cfgUe ∧
      ∀ k, tget CfgFrame.reset (t.die d).frames k = tget CfgFrame.reset (s.die d).frames k) ∧
  (∀ (s : State) (d b : Nat), d < s.fdies ∧ (s.die d).leggett.cfgRun = true ∧ s.lclkRuns d = true ∧ (s.die d).leggett.first = [] ∧ (s.die d).leggett.passAt + (s.die d).leggett.frame * (s.die d).leggett.cfgPs / 262144 ≤ s.now ∧ (s.die d).leggett.frame + 1 < 262144 ∧ s.skipsFrame d (s.die d).leggett.frame = false ∧ bayOfFrame (s.die d).leggett.frame = some b →
    ∃ t, exec (.leggettFrameRead d { singles := [], bad := true }) s = .next t ∧ (t.die d).leggett.frame = (s.die d).leggett.frame + 1 ∧
      (t.die d).leggett.cfgUe = satInc (s.die d).leggett.cfgUe ∧ (t.bay d b).ueKnown = true ∧ (t.bay d b).state = (s.bay d b).state) ∧
  (∀ (s : State) (d i : Nat) (u su : Upset), (u = .none ∨ u = .single) ∧ d < s.fdies ∧ i < 3072 ∧ (s.die d).leggett.memRun = true ∧ s.lclkRuns d = true ∧ s.now < (s.die d).leggett.memAt + (s.die d).leggett.memPs ∧ (s.die d).leggett.memAt + tget 0 (s.die d).leggett.memTry i * (s.die d).leggett.memPs / 4096 ≤ s.now ∧ s.scrubbable d .bram i = true ∧ tget 0 (s.die d).leggett.memPos i < 1024 ∧ (tget markWord (s.bram d i).words (tget 0 (s.die d).leggett.memPos i)).health.hit u = .single →
    ∃ t, exec (.leggettMemVisit d .bram i u su true) s = .next t ∧ (t.die d).leggett.memCorr = satInc (s.die d).leggett.memCorr ∧
      tget markWord (t.bram d i).words (tget 0 (s.die d).leggett.memPos i) = goodWord (tget markWord (s.bram d i).words (tget 0 (s.die d).leggett.memPos i)).data ∧
      tget 0 (t.die d).leggett.memPos i = tget 0 (s.die d).leggett.memPos i + 1) ∧
  (∀ (s : State) (d i : Nat) (k : MemKind) (u su : Upset), d < s.fdies ∧ i < memKindCount k ∧ (s.die d).leggett.memRun = true ∧ s.lclkRuns d = true ∧ s.now < (s.die d).leggett.memAt + (s.die d).leggett.memPs ∧ (s.die d).leggett.memAt + tget 0 (s.die d).leggett.memTry (8192 * memKindNum k + i) * (s.die d).leggett.memPs / 4096 ≤ s.now ∧ s.scrubbable d k i = true →
    ∃ t, exec (.leggettMemVisit d k i u su false) s = .next t ∧ (t.die d).leggett.memMiss = satInc (s.die d).leggett.memMiss ∧ (t.die d).leggett.memPos = (s.die d).leggett.memPos ∧
      (t.die d).leggett.memCorr = (s.die d).leggett.memCorr) ∧
  (∀ (s : State) (d b : Nat) (rest : List (Nat × Nat)), s.cfg.repairQ = (d, b) :: rest ∧ s.gable.gstate = .running ∧ s.ctrlFree = true ∧ s.fenced d = false ∧ (s.bay d b).ueKnown = true ∧ (s.bay d b).state = .active ∧ (s.bay d b).source = none →
    ∃ t, exec .bayRepairStart s = .next t ∧ t.cfg.repairQ = rest ∧ (t.bay d b).state = .shutting ∧ (t.bay d b).shutWipe = true ∧ (t.bay d b).clamped = true) ∧
  (∀ (s : State) (d b : Nat), d < s.fdies ∧ b < 96 ∧ (s.bay d b).drained = false ∧ s.portQuiet d b = true ∧ (s.bay d b).state = .shutting ∧ (s.bay d b).held = none ∧ (s.bay d b).noSrc = false →
    ∃ t, exec (.portDrainEnd d b) s = .next t ∧ (t.bay d b).drained = true ∧ (t.bay d b).state = (if (s.bay d b).shutWipe then .empty else .down) ∧ (t.bay d b).shutCmds = []) ∧
  (∀ (s : State) (d b : Nat), d < s.fdies ∧ b < 96 ∧ (s.bay d b).drained = false ∧ s.portQuiet d b = true ∧ (s.bay d b).state = .restoring ∧ (s.bay d b).held = none ∧ s.fenced d = false →
    ∃ t, exec (.portDrainEnd d b) s = .next t ∧ (t.bay d b).state = .active ∧ (t.bay d b).clamped = false ∧ (t.bay d b).portOpen = true ∧ (t.bay d b).runCmd = none) ∧
  (∀ (s : State) (d b : Nat), d < s.fdies ∧ b < 96 ∧ (s.bay d b).drained = false ∧ s.portQuiet d b = true ∧ (s.bay d b).state = .restoring ∧ (s.bay d b).held = none ∧ s.fenced d = true →
    ∃ t, exec (.portDrainEnd d b) s = .next t ∧ (t.bay d b).state = .down ∧ (t.bay d b).runCmd = none)

/-- A fabric side acts on an edge of its running clock, and for a bay while that bay's border is not clamped. GQ_FABRIC_WRITE stores one entry with the next slot, the die's short stamp and COARSE when stamping is on, counts it in WRITTEN and raises HI at HI_ON; on a queue that is full to the write side the oldest entry but the presented one goes and LOST counts it; GQ_FABRIC_POP hands the presented entry to the fabric, with RPOISON where its check fails, and counts it in READ, a corrected one in CORR, a failed one in UE_SEEN; the two SEEN commands move one entry into the other side's view; GQ_FLUSH_APPLY removes the marked entries at an edge of the read clock, counts them in LOST, and FLUSH stays 1 while the write clock is stopped. No other queue of the die changes. An access that is let through: GQ_PUSH stores an entry like a fabric write and GQ_POP delivers the presented entry's data, with POISON in GQ_POP_META where its check fails and VALID = 0 where none is presented; SNAP latches every counter at one instant; CLR_CNT clears READ, LOST and CORR and sets WRITTEN to the entries held; FLUSH marks the entries held while the write clock runs, and waits for its edge otherwise; a write of GQ_MARKS in order sets the four thresholds, one out of order sets MARK_ERR alone. -/
def Obligations.gutterQueues : Prop :=
  (∀ (s : State) (d q : Nat) (data : BitVec 64), q < 128 ∧ s.gqW d q = true ∧ (s.gq d q).wsel.toNat < 32 ∧ s.bayReaches d (s.gq d q).feeder = true ∧ (s.gq d q).wLevel < 2048 →
    ∃ t, exec (.gqFabricWrite d q data) s = .next t ∧
      (t.gq d q).entries = (s.gq d q).entries ++ [{ slot := (s.gq d q).nextSlot, data := data, stamp := if (s.gq d q).stampEn then s.stamp d else 0, coarse := (s.gq d q).stampEn && s.coarse d }] ∧
      (t.gq d q).nextSlot = (s.gq d q).nextSlot + 1 ∧ (t.gq d q).written = (s.gq d q).written + 1 ∧ (t.gq d q).lost = (s.gq d q).lost ∧
      (t.gq d q).read = (s.gq d q).read ∧ (hiOn (s.gq d q).marks ≤ (s.gq d q).wLevel + 1 → (t.gq d q).hi = true) ∧ ∀ k, k ≠ q → t.gq d k = s.gq d k) ∧
  (∀ (s : State) (d q : Nat) (data : BitVec 64), q < 128 ∧ s.gqW d q = true ∧ (s.gq d q).wsel.toNat < 32 ∧ s.bayReaches d (s.gq d q).feeder = true ∧ 2048 ≤ (s.gq d q).wLevel ∧ (if 1 ≤ (s.gq d q).rLevel then 1 else 0) < (s.gq d q).entries.length →
    ∃ t, exec (.gqFabricWrite d q data) s = .next t ∧
      (t.gq d q).entries = (if 1 ≤ (s.gq d q).rLevel then (s.gq d q).entries.take 1 ++ (s.gq d q).entries.drop 2 else (s.gq d q).entries.drop 1) ++
        [{ slot := (s.gq d q).nextSlot, data := data, stamp := if (s.gq d q).stampEn then s.stamp d else 0, coarse := (s.gq d q).stampEn && s.coarse d }] ∧
      (t.gq d q).lost = satAdd (s.gq d q).lost 1 ∧ (t.gq d q).written = (s.gq d q).written + 1 ∧ ∀ k, k ≠ q → t.gq d k = s.gq d k) ∧
  (∀ (s : State) (d q : Nat) (data : BitVec 64), q < 128 ∧ s.gqW d q = true ∧ (s.gq d q).wsel.toNat < 32 ∧ s.bayReaches d (s.gq d q).feeder = true ∧ 2048 ≤ (s.gq d q).wLevel ∧ (s.gq d q).entries.length ≤ (if 1 ≤ (s.gq d q).rLevel then 1 else 0) →
    ∃ t, exec (.gqFabricWrite d q data) s = .next t ∧
      (t.gq d q).entries = (s.gq d q).entries ++ [{ slot := (s.gq d q).nextSlot, data := data, stamp := if (s.gq d q).stampEn then s.stamp d else 0, coarse := (s.gq d q).stampEn && s.coarse d }] ∧
      (t.gq d q).lost = (s.gq d q).lost ∧ (t.gq d q).written = (s.gq d q).written + 1) ∧
  (∀ (s : State) (d q : Nat) (u su : Upset) (e : GqEntry) (rest : List GqEntry), q < 128 ∧ s.gqR d q = true ∧ (s.gq d q).rsel.toNat < 32 ∧ s.bayReaches d (s.gq d q).reader = true ∧ (s.gq d q).entries = e :: rest ∧ 0 < (s.gq d q).rSeen →
    ∃ t, exec (.gqFabricPop d q u su) s = .next t ∧ (t.gq d q).entries = rest ∧ (t.gq d q).read = (s.gq d q).read + 1 ∧
      (t.gq d q).rSeen = (s.gq d q).rSeen - 1 ∧ (t.gq d q).unseenPops = (s.gq d q).unseenPops + 1 ∧
      (t.gq d q).taken.map Popped.poison = some (e.find u su s.freeVal (s.freeValAt 1)).bad ∧
      ((e.find u su s.freeVal (s.freeValAt 1)).bad = false → (t.gq d q).taken = some { data := e.data, stamp := e.stamp, coarse := e.coarse, poison := false }) ∧
      (t.gq d q).corr = (if (e.find u su s.freeVal (s.freeValAt 1)).single = true ∧ (e.find u su s.freeVal (s.freeValAt 1)).bad = false then satInc (s.gq d q).corr else (s.gq d q).corr) ∧
      (t.gq d q).ueSeen = ((s.gq d q).ueSeen || (e.find u su s.freeVal (s.freeValAt 1)).bad) ∧ ∀ k, k ≠ q → t.gq d k = s.gq d k) ∧
  (∀ (s : State) (d q : Nat), s.gqR d q = true ∧ (s.gq d q).rSeen < (s.gq d q).entries.length →
    ∃ t, exec (.gqWriteSeenRead d q) s = .next t ∧ (t.gq d q).rSeen = (s.gq d q).rSeen + 1 ∧ (t.gq d q).entries = (s.gq d q).entries ∧ (t.gq d q).hi = (s.gq d q).hi ∧
      (loOn (s.gq d q).marks < (s.gq d q).rSeen + 1 → loOff (s.gq d q).marks ≤ (s.gq d q).rSeen + 1 → (t.gq d q).lo = false)) ∧
  (∀ (s : State) (d q : Nat), s.gqW d q = true ∧ 0 < (s.gq d q).unseenPops →
    ∃ t, exec (.gqPopSeenWrite d q) s = .next t ∧ (t.gq d q).unseenPops = (s.gq d q).unseenPops - 1 ∧ (t.gq d q).entries = (s.gq d q).entries ∧ (t.gq d q).lo = (s.gq d q).lo ∧
      ((s.gq d q).wLevel - 1 < hiOn (s.gq d q).marks → (s.gq d q).wLevel - 1 ≤ hiOff (s.gq d q).marks → (t.gq d q).hi = false)) ∧
  (∀ (s : State) (d q : Nat), (s.gq d q).flush = true ∧ (s.gq d q).flushPend = false ∧ s.gqR d q = true ∧ (s.gq d q).flushMark ≤ (s.gq d q).entries.length →
    ∃ t, exec (.gqFlushApply d q) s = .next t ∧ (t.gq d q).entries = (s.gq d q).entries.drop (s.gq d q).flushMark ∧ (t.gq d q).flush = !(s.gqW d q) ∧
      (t.gq d q).flushMark = 0 ∧ (t.gq d q).lost = satAdd (s.gq d q).lost (s.gq d q).flushMark ∧ (t.gq d q).read = (s.gq d q).read) ∧
  (∀ (s : State) (d q : Nat), (s.gq d q).flush = true ∧ (s.gq d q).flushPend = true ∧ s.gqW d q = true ∧ s.gqR d q = true →
    ∃ t, exec (.gqFlushApply d q) s = .next t ∧ (t.gq d q).entries = [] ∧ (t.gq d q).flush = false ∧ (t.gq d q).flushPend = false ∧
      (t.gq d q).lost = satAdd (s.gq d q).lost (s.gq d q).entries.length) ∧
  (∀ (s : State) (w : Who) (d q : Nat) (data : BitVec 64), q < 128 ∧ s.reaches w (gqAddr d q 0x80) true = true ∧ s.gqW d q = true ∧ (s.gq d q).used = true ∧ (s.gq d q).wsel.toNat = 32 ∧ (s.gq d q).wLevel < 2048 →
    ∃ t, exec (.gqPush w d q data) s = .next t ∧ t.okay 0 ∧
      (t.gq d q).entries = (s.gq d q).entries ++ [{ slot := (s.gq d q).nextSlot, data := data, stamp := if (s.gq d q).stampEn then s.stamp d else 0, coarse := (s.gq d q).stampEn && s.coarse d }] ∧
      (t.gq d q).written = (s.gq d q).written + 1 ∧ ∀ k, k ≠ q → t.gq d k = s.gq d k) ∧
  (∀ (s : State) (w : Who) (d q : Nat) (u su : Upset) (e : GqEntry) (rest : List GqEntry), q < 128 ∧ s.reaches w (gqAddr d q 0x88) false = true ∧ s.gqR d q = true ∧ (s.gq d q).used = true ∧ (s.gq d q).rsel.toNat = 32 ∧ (w.src ≠ 0x801 ∨ w.effect = true) ∧ (s.gq d q).entries = e :: rest ∧ 0 < (s.gq d q).rSeen ∧ (e.find u su s.freeVal (s.freeValAt 1)).bad = false →
    ∃ t, exec (.gqPop w d q u su) s = .next t ∧ t.okay e.data.toNat ∧ (t.gq d q).entries = rest ∧ (t.gq d q).read = (s.gq d q).read + 1 ∧
      (t.gq d q).popMeta = BitVec.ofNat 64 (e.stamp.toNat + 2 ^ 32 + if e.coarse then 2 ^ 34 else 0)) ∧
  (∀ (s : State) (w : Who) (d q : Nat) (u su : Upset) (e : GqEntry) (rest : List GqEntry), q < 128 ∧ s.reaches w (gqAddr d q 0x88) false = true ∧ s.gqR d q = true ∧ (s.gq d q).used = true ∧ (s.gq d q).rsel.toNat = 32 ∧ (w.src ≠ 0x801 ∨ w.effect = true) ∧ (s.gq d q).entries = e :: rest ∧ 0 < (s.gq d q).rSeen ∧ (e.find u su s.freeVal (s.freeValAt 1)).bad = true →
    ∃ t, exec (.gqPop w d q u su) s = .next t ∧ t.rsp.resp = respOk ∧ (t.gq d q).entries = rest ∧ (t.gq d q).read = (s.gq d q).read + 1 ∧ (t.gq d q).ueSeen = true ∧
      (t.gq d q).popMeta.getLsbD 32 = true ∧ (t.gq d q).popMeta.getLsbD 33 = true) ∧
  (∀ (s : State) (w : Who) (d q : Nat) (u su : Upset), q < 128 ∧ s.reaches w (gqAddr d q 0x88) false = true ∧ s.gqR d q = true ∧ (s.gq d q).used = true ∧ (s.gq d q).rsel.toNat = 32 ∧ (w.src ≠ 0x801 ∨ w.effect = true) ∧ (s.gq d q).rSeen = 0 →
    ∃ t, exec (.gqPop w d q u su) s = .next t ∧ t.okay 0 ∧ (t.gq d q).entries = (s.gq d q).entries ∧ (t.gq d q).read = (s.gq d q).read ∧ (t.gq d q).popMeta.getLsbD 32 = false) ∧
  (∀ (s : State) (w : Who) (d q : Nat), q < 128 ∧ s.reaches w (gqAddr d q 0x04) true = true →
    ∃ t, exec (.gqSnap w d q) s = .next t ∧ t.okay 0 ∧
      t.gq d q = { s.gq d q with sWritten := (s.gq d q).written, sRead := (s.gq d q).read, sLevel := BitVec.ofNat 12 (s.gq d q).entries.length, sLost := (s.gq d q).lost,
                                 sCorr := (s.gq d q).corr, sStamp := s.stamp d }) ∧
  (∀ (s : State) (w : Who) (d q : Nat), q < 128 ∧ s.reaches w (gqAddr d q 0x04) true = true →
    ∃ t, exec (.gqClrCnt w d q) s = .next t ∧ t.okay 0 ∧
      t.gq d q = { s.gq d q with read := 0, lost := 0, corr := 0, written := BitVec.ofNat 48 (s.gq d q).entries.length, lostSat := false, corrSat := false }) ∧
  (∀ (s : State) (w : Who) (d q : Nat), q < 128 ∧ s.reaches w (gqAddr d q 0x04) true = true ∧ s.gqW d q = true →
    ∃ t, exec (.gqFlush w d q) s = .next t ∧ t.okay 0 ∧ (t.gq d q).flush = true ∧ (t.gq d q).flushMark = (s.gq d q).entries.length ∧ (t.gq d q).entries = (s.gq d q).entries) ∧
  (∀ (s : State) (w : Who) (d q : Nat), q < 128 ∧ s.reaches w (gqAddr d q 0x04) true = true ∧ s.gqW d q = false →
    ∃ t, exec (.gqFlush w d q) s = .next t ∧ t.okay 0 ∧ (t.gq d q).flush = true ∧ (t.gq d q).flushPend = true ∧ (t.gq d q).entries = (s.gq d q).entries) ∧
  (∀ (s : State) (w : Who) (d q : Nat) (data : BitVec 64), q < 128 ∧ s.reaches w (gqAddr d q 0x10) true = true ∧ hiOff data < hiOn data ∧ hiOn data ≤ 2048 ∧ loOn data < loOff data ∧ loOff data ≤ 2048 →
    ∃ t, exec (.gqMarksWrite w d q data) s = .next t ∧ t.okay 0 ∧ (t.gq d q).marks = data &&& 0x0FFF0FFF0FFF0FFF ∧ (t.gq d q).markErr = (s.gq d q).markErr ∧ (t.gq d q).entries = (s.gq d q).entries) ∧
  (∀ (s : State) (w : Who) (d q : Nat) (data : BitVec 64), q < 128 ∧ s.reaches w (gqAddr d q 0x10) true = true ∧ hiOn data ≤ hiOff data →
    ∃ t, exec (.gqMarksWrite w d q data) s = .next t ∧ t.gq d q = { s.gq d q with markErr := true })

/-- Of a loaded memory, on an edge that does not coincide with the other port's write: a read of a word that holds its check brings the addressed part of it to RDATA, at once or, with a latency of 2, through the output stage, with SBIT when one bit was corrected; a read of a word that fails, by its bits or by the decoder, sets DBIT and raises BRAM_UE with the memory and the word; the words stay. On an edge that coincides with the other port's write a read returns the contents before it. In a memory no load has defined, a read leaves the words. A full-width write makes the word hold the data and good; a narrow write of a word that does not fail puts the enabled bits into the word and makes it good, and one of a word that fails is refused: the word keeps its data, WREFUSED and DBIT rise and BRAM_UE is raised. On coinciding writes of one word port A's takes effect and port B's is discarded with WREFUSED. No other word, and no other memory, changes. -/
def Obligations.blockMemoryPorts : Prop :=
  (∀ (s : State) (d m addr : Nat) (pb : Bool) (u : Upset), s.bramReady d m pb addr false = true ∧ (s.bram d m).loaded = true ∧ (s.bram d m).coincident pb (addr / (s.bram d m).mode.parts) s.now true = none ∧ (u = .none ∨ u = .single ∨ u = .double) ∧ ((tget markWord (s.bram d m).words (addr / (s.bram d m).mode.parts)).health.hit u).bad = false →
    ∃ t, exec (.bramRead d m pb addr u) s = .next t ∧
      (if ((s.bram d m).port pb).two then ((t.bram d m).port pb).pdata else ((t.bram d m).port pb).rdata).toNat = bitsOf (tget markWord (s.bram d m).words (addr / (s.bram d m).mode.parts)).data.toNat ((s.bram d m).mode.width * (addr % (s.bram d m).mode.parts)) (s.bram d m).mode.width ∧
      (if ((s.bram d m).port pb).two then ((t.bram d m).port pb).psbit else ((t.bram d m).port pb).sbit) = ((tget markWord (s.bram d m).words (addr / (s.bram d m).mode.parts)).health.hit u == .single) ∧ (if ((s.bram d m).port pb).two then ((t.bram d m).port pb).pdbit else ((t.bram d m).port pb).dbit) = false ∧
      (((s.bram d m).port pb).two = true → ((t.bram d m).port pb).rdata = ((s.bram d m).port pb).pdata ∧ ((t.bram d m).port pb).sbit = ((s.bram d m).port pb).psbit ∧ ((t.bram d m).port pb).dbit = ((s.bram d m).port pb).pdbit) ∧ ((t.bram d m).port pb).wref = false ∧
      (tget markWord (t.bram d m).words (addr / (s.bram d m).mode.parts)).data = (tget markWord (s.bram d m).words (addr / (s.bram d m).mode.parts)).data ∧ (∀ k, k ≠ addr / (s.bram d m).mode.parts → tget markWord (t.bram d m).words k = tget markWord (s.bram d m).words k) ∧ ∀ k, k ≠ m → t.bram d k = s.bram d k) ∧
  (∀ (s : State) (d m addr : Nat) (pb : Bool) (u : Upset), s.bramReady d m pb addr false = true ∧ d ≠ 8 ∧ (s.bram d m).loaded = true ∧ (s.bram d m).coincident pb (addr / (s.bram d m).mode.parts) s.now true = none ∧ (u = .none ∨ u = .single ∨ u = .double) ∧ ((tget markWord (s.bram d m).words (addr / (s.bram d m).mode.parts)).health.hit u).bad = true →
    ∃ t, exec (.bramRead d m pb addr u) s = .next t ∧ (if ((s.bram d m).port pb).two then ((t.bram d m).port pb).pdbit else ((t.bram d m).port pb).dbit) = true ∧ (if ((s.bram d m).port pb).two then ((t.bram d m).port pb).psbit else ((t.bram d m).port pb).sbit) = false ∧
      t.eventsOut d = s.eventsOut d ++ [(BitVec.ofNat 10 (evidOf d 4 0), BitVec.ofNat 32 (m + atLo (addr / (s.bram d m).mode.parts) 12))] ∧
      (tget markWord (t.bram d m).words (addr / (s.bram d m).mode.parts)).data = (tget markWord (s.bram d m).words (addr / (s.bram d m).mode.parts)).data ∧ (∀ k, k ≠ addr / (s.bram d m).mode.parts → tget markWord (t.bram d m).words k = tget markWord (s.bram d m).words k) ∧ ∀ k, k ≠ m → t.bram d k = s.bram d k) ∧
  (∀ (s : State) (d m addr a : Nat) (pb : Bool), s.bramReady d m pb addr false = true ∧ d ≠ 8 ∧ (s.bram d m).loaded = true ∧ (s.bram d m).coincident pb (addr / (s.bram d m).mode.parts) s.now true = none ∧ addrFails (addr / (s.bram d m).mode.parts) (a % 1024) = true →
    ∃ t, exec (.bramRead d m pb addr (.other a)) s = .next t ∧ (if ((s.bram d m).port pb).two then ((t.bram d m).port pb).pdbit else ((t.bram d m).port pb).dbit) = true ∧
      t.eventsOut d = s.eventsOut d ++ [(BitVec.ofNat 10 (evidOf d 4 0), BitVec.ofNat 32 (m + atLo (addr / (s.bram d m).mode.parts) 12))] ∧ (t.bram d m).words = (s.bram d m).words) ∧
  (∀ (s : State) (d m addr : Nat) (pb : Bool) (u : Upset) (old : BramWord), s.bramReady d m pb addr false = true ∧ (s.bram d m).loaded = true ∧ (s.bram d m).coincident pb (addr / (s.bram d m).mode.parts) s.now true = some old ∧ (u = .none ∨ u = .single ∨ u = .double) ∧ old.health = .good →
    ∃ t, exec (.bramRead d m pb addr u) s = .next t ∧ (if ((s.bram d m).port pb).two then ((t.bram d m).port pb).pdata else ((t.bram d m).port pb).rdata).toNat = bitsOf old.data.toNat ((s.bram d m).mode.width * (addr % (s.bram d m).mode.parts)) (s.bram d m).mode.width ∧
      (if ((s.bram d m).port pb).two then ((t.bram d m).port pb).pdbit else ((t.bram d m).port pb).dbit) = false) ∧
  (∀ (s : State) (d m addr : Nat) (pb : Bool) (u : Upset), s.bramReady d m pb addr false = true ∧ (s.bram d m).loaded = false →
    ∃ t, exec (.bramRead d m pb addr u) s = .next t ∧ (t.bram d m).words = (s.bram d m).words ∧ t.free = s.free + 2) ∧
  (∀ (s : State) (d m addr : Nat) (pb : Bool) (data : BitVec 64), s.bramReady d m pb addr true = true ∧ (s.bram d m).mode = .k1 ∧ (pb = true → (s.bram d m).coincident pb addr s.now true = none) →
    ∃ t, exec (.bramWriteFull d m pb addr data) s = .next t ∧ tget markWord (t.bram d m).words addr = goodWord data ∧ ((t.bram d m).port pb).wref = false ∧
      (∀ k, k ≠ addr → tget markWord (t.bram d m).words k = tget markWord (s.bram d m).words k) ∧ ∀ k, k ≠ m → t.bram d k = s.bram d k) ∧
  (∀ (s : State) (d m addr : Nat) (data : BitVec 64) (old : BramWord), s.bramReady d m true addr true = true ∧ (s.bram d m).mode = .k1 ∧ (s.bram d m).coincident true addr s.now true = some old →
    ∃ t, exec (.bramWriteFull d m true addr data) s = .next t ∧ (t.bram d m).words = (s.bram d m).words ∧ ((t.bram d m).port true).wref = true ∧ t.routers = s.routers) ∧
  (∀ (s : State) (d m addr : Nat) (data : BitVec 64) (old : BramWord), s.bramReady d m false addr true = true ∧ (s.bram d m).mode = .k1 ∧ (s.bram d m).coincident false addr s.now true = some old →
    ∃ t, exec (.bramWriteFull d m false addr data) s = .next t ∧ tget markWord (t.bram d m).words addr = goodWord data ∧ ((t.bram d m).port true).wref = true) ∧
  (∀ (s : State) (d m addr : Nat) (pb : Bool) (data : BitVec 64) (be : BitVec 8) (u : Upset), s.bramReady d m pb addr true = true ∧ ((s.bram d m).mode = .k1 → be ≠ 0xFF) ∧ (s.bram d m).loaded = true ∧ (s.bram d m).coincident pb (addr / (s.bram d m).mode.parts) s.now true = none ∧ (u = .none ∨ u = .single ∨ u = .double) ∧ ((tget markWord (s.bram d m).words (addr / (s.bram d m).mode.parts)).health.hit u).bad = false →
    ∃ t, exec (.bramWriteNarrow d m pb addr data be u) s = .next t ∧
      tget markWord (t.bram d m).words (addr / (s.bram d m).mode.parts) =
        goodWord (((tget markWord (s.bram d m).words (addr / (s.bram d m).mode.parts)).data &&& ~~~narrowMask (s.bram d m).mode addr be) |||
          (narrowData (s.bram d m).mode addr data &&& narrowMask (s.bram d m).mode addr be)) ∧ ((t.bram d m).port pb).wref = false ∧ (∀ k, k ≠ addr / (s.bram d m).mode.parts → tget markWord (t.bram d m).words k = tget markWord (s.bram d m).words k) ∧ ∀ k, k ≠ m → t.bram d k = s.bram d k) ∧
  (∀ (s : State) (d m addr : Nat) (pb : Bool) (data : BitVec 64) (be : BitVec 8) (u : Upset), s.bramReady d m pb addr true = true ∧ d ≠ 8 ∧ ((s.bram d m).mode = .k1 → be ≠ 0xFF) ∧ (s.bram d m).loaded = true ∧ (s.bram d m).coincident pb (addr / (s.bram d m).mode.parts) s.now true = none ∧ (u = .none ∨ u = .single ∨ u = .double) ∧ ((tget markWord (s.bram d m).words (addr / (s.bram d m).mode.parts)).health.hit u).bad = true →
    ∃ t, exec (.bramWriteNarrow d m pb addr data be u) s = .next t ∧
      (tget markWord (t.bram d m).words (addr / (s.bram d m).mode.parts)).data = (tget markWord (s.bram d m).words (addr / (s.bram d m).mode.parts)).data ∧ ((t.bram d m).port pb).wref = true ∧ (((s.bram d m).port pb).two = false → ((t.bram d m).port pb).dbit = true) ∧
      t.eventsOut d = s.eventsOut d ++ [(BitVec.ofNat 10 (evidOf d 4 0), BitVec.ofNat 32 (m + atLo (addr / (s.bram d m).mode.parts) 12))] ∧ (∀ k, k ≠ addr / (s.bram d m).mode.parts → tget markWord (t.bram d m).words k = tget markWord (s.bram d m).words k) ∧ ∀ k, k ≠ m → t.bram d k = s.bram d k) ∧
  (∀ (s : State) (d m addr a : Nat) (pb : Bool) (data : BitVec 64) (be : BitVec 8), s.bramReady d m pb addr true = true ∧ ((s.bram d m).mode = .k1 → be ≠ 0xFF) ∧ (s.bram d m).loaded = true ∧ (s.bram d m).coincident pb (addr / (s.bram d m).mode.parts) s.now true = none ∧ addrFails (addr / (s.bram d m).mode.parts) (a % 1024) = true →
    ∃ t, exec (.bramWriteNarrow d m pb addr data be (.other a)) s = .next t ∧ (∀ k, tget markWord (t.bram d m).words k = tget markWord (s.bram d m).words k) ∧ ((t.bram d m).port pb).wref = true)

/-- For a RUNNING slice that is next of its group, with a word of the row at its PC, no control instruction in stage D, no waiting access and no failing word, the row's command completes: it runs the cycle that brings the word into stage D, moves every older instruction one stage on, counts the cycle, goes to the next address and changes no other slice. And that word does, in whatever cycle takes it through its stage, what the instruction set gives it: moves load in MR and land in WB; the multipliers form their products in M1; arithmetic leaves its result in the accumulator in M2; control instructions act in stage D, each in every case. RESERVED_INSTRUCTION enters stage D as a NOP, which changes no accumulator, flag or memory; LOOP_END_FETCH goes back to the start of the innermost level while passes remain and closes it otherwise; WAITQ_RELEASE runs the slice and makes the held fetch once the conditions hold; SLICE_STOLEN_CYCLE holds every stage for one cycle and serves the access that has waited 32. -/
def Obligations.sliceRowsRunACycle : Prop :=
  (∀ (s : State) (d i : Nat) (u : SliceUpset), s.runsRow d i 0x00 0x00 = true ∧ s.cleanCycle d i u = true ∧ s.plainD d i = true →
    ∃ t, exec (.move d i u) s = .next t ∧ s.fetched t d i ∧
      (∀ ci m f, ci.clean = true → m.run = .running → m.stD = none → m.stMR = some f → f.word = (s.slWord d i) → f.nop = false →
        (mvType (iY f.word) = 1 → (sliceCycle ci m).1.dReg (mvReg (iY f.word)) = BitVec.ofNat 24 ci.y.data.toNat) ∧
        (mvType (iX f.word) = 1 → mvType (iY f.word) = 0 → (sliceCycle ci m).1.dReg (mvReg (iX f.word)) = BitVec.ofNat 24 ci.x.data.toNat)) ∧
      ∀ ci m f, m.stM2 = some f → f.word = (s.slWord d i) → f.nop = false →
        (sliceCycle ci m).1.stWB.map Flight.wbs = some ((mvWb m false (iX f.word) f.xa).1 ++ (mvWb m true (iY f.word) f.ya).1) ∧
        (m.stWB = none → ∀ k, (sliceCycle ci m).1.acc k = m.acc k)) ∧
  (∀ (s : State) (d i : Nat) (u : SliceUpset), s.runsRow d i 0x01 0x01 = true ∧ s.cleanCycle d i u = true ∧ s.plainD d i = true →
    ∃ t, exec (.moveRegReg d i u) s = .next t ∧ s.fetched t d i ∧
      ∀ ci m f, m.stM2 = some f → f.word = (s.slWord d i) → f.nop = false →
        (iCode2 f.word ≠ 0x2C → iCode2 f.word ≠ 0x2D → (sliceCycle ci m).1.stWB.map Flight.wbs = some [codeWb m.mode (iCode f.word) (m.readCode (iCode2 f.word)).1]) ∧
        ((iCode2 f.word = 0x2C ∨ iCode2 f.word = 0x2D) → 8 ≤ iCode f.word → (sliceCycle ci m).1.stWB.map Flight.wbs = some [codeWb m.mode (iCode f.word) f.popped.toNat])) ∧
  (∀ (s : State) (d i : Nat) (u : SliceUpset), s.runsRow d i 0x02 0x03 = true ∧ s.cleanCycle d i u = true ∧ s.plainD d i = true →
    ∃ t, exec (.moveImm d i u) s = .next t ∧ s.fetched t d i ∧
      ∀ ci m f, m.stM2 = some f → f.word = (s.slWord d i) → f.nop = false →
        (sliceCycle ci m).1.stWB.map Flight.wbs = some [codeWb m.mode (iCode f.word)
          (if 0x20 ≤ iCode f.word ∧ iCode f.word < 0x28 then bitsOf f.word.toNat 0 24 + 2 ^ 24 * (iOpc f.word % 2) else bitsOf f.word.toNat 0 24)]) ∧
  (∀ (s : State) (d i : Nat) (u : SliceUpset), s.runsRow d i 0x04 0x04 = true ∧ s.cleanCycle d i u = true ∧ s.plainD d i = true →
    ∃ t, exec (.clr d i u) s = .next t ∧ s.fetched t d i ∧
      ∀ ci m f, m.stM2 = some f → f.word = (s.slWord d i) → f.nop = false →
        (iDst f.word < 4 → (sliceCycle ci m).1.acc (iDst f.word) = 0) ∧
        (8 ≤ iDst f.word → ∃ l, (sliceCycle ci m).1.stWB.map Flight.wbs = some ({ reg := iDst f.word % 8, val := 0 } :: l))) ∧
  (∀ (s : State) (d i : Nat) (u : SliceUpset), s.runsRow d i 0x10 0x10 = true ∧ s.cleanCycle d i u = true ∧ s.plainD d i = true →
    ∃ t, exec (.mpy d i u) s = .next t ∧ s.fetched t d i ∧
      productInM1 (s.slWord d i) false (iSrc (s.slWord d i) / 4) (4 + iSrc (s.slWord d i) % 4) ∧ accAfterM2 (s.slWord d i) fun ci m f => BitVec.ofInt 56 (scaled m.mode f.p0 + (if bitOf (iDst f.word) 2 then ci.casin.toInt else 0))) ∧
  (∀ (s : State) (d i : Nat) (u : SliceUpset), s.runsRow d i 0x11 0x11 = true ∧ s.cleanCycle d i u = true ∧ s.plainD d i = true →
    ∃ t, exec (.mac d i u) s = .next t ∧ s.fetched t d i ∧
      productInM1 (s.slWord d i) false (iSrc (s.slWord d i) / 4) (4 + iSrc (s.slWord d i) % 4) ∧ accAfterM2 (s.slWord d i) fun ci m f => BitVec.ofInt 56 ((m.acc (iDst f.word % 4)).toInt + scaled m.mode f.p0 + (if bitOf (iDst f.word) 2 then ci.casin.toInt else 0))) ∧
  (∀ (s : State) (d i : Nat) (u : SliceUpset), s.runsRow d i 0x12 0x12 = true ∧ s.cleanCycle d i u = true ∧ s.plainD d i = true →
    ∃ t, exec (.msu d i u) s = .next t ∧ s.fetched t d i ∧
      productInM1 (s.slWord d i) false (iSrc (s.slWord d i) / 4) (4 + iSrc (s.slWord d i) % 4) ∧ accAfterM2 (s.slWord d i) fun ci m f => BitVec.ofInt 56 ((m.acc (iDst f.word % 4)).toInt - scaled m.mode f.p0 + (if bitOf (iDst f.word) 2 then ci.casin.toInt else 0))) ∧
  (∀ (s : State) (d i : Nat) (u : SliceUpset), s.runsRow d i 0x13 0x13 = true ∧ s.cleanCycle d i u = true ∧ s.plainD d i = true →
    ∃ t, exec (.macr d i u) s = .next t ∧ s.fetched t d i ∧
      productInM1 (s.slWord d i) false (iSrc (s.slWord d i) / 4) (4 + iSrc (s.slWord d i) % 4) ∧ accAfterM2 (s.slWord d i) fun ci m f => BitVec.ofInt 56 (rndExact (BitVec.ofInt 56 ((m.acc (iDst f.word % 4)).toInt + scaled m.mode f.p0 + (if bitOf (iDst f.word) 2 then ci.casin.toInt else 0))))) ∧
  (∀ (s : State) (d i : Nat) (u : SliceUpset), s.runsRow d i 0x18 0x18 = true ∧ s.cleanCycle d i u = true ∧ s.plainD d i = true →
    ∃ t, exec (.dmacS d i u) s = .next t ∧ s.fetched t d i ∧
      productInM1 (s.slWord d i) false (iSrc (s.slWord d i) / 4) (4 + iSrc (s.slWord d i) % 4) ∧ productInM1 (s.slWord d i) true ((iSrc (s.slWord d i) / 4) ^^^ 1) (4 + iSrc (s.slWord d i) % 4) ∧ (∀ ci m f, m.stM2 = some f → f.word = (s.slWord d i) → f.nop = false →
        (sliceCycle ci m).1.acc ((iDst f.word % 4) ^^^ 1) = BitVec.ofInt 56 ((m.acc ((iDst f.word % 4) ^^^ 1)).toInt + scaled m.mode f.p1)) ∧
      accAfterM2 (s.slWord d i) fun _ m f => BitVec.ofInt 56 ((m.acc (iDst f.word % 4)).toInt + scaled m.mode f.p0)) ∧
  (∀ (s : State) (d i : Nat) (u : SliceUpset), s.runsRow d i 0x19 0x19 = true ∧ s.cleanCycle d i u = true ∧ s.plainD d i = true →
    ∃ t, exec (.dmacP d i u) s = .next t ∧ s.fetched t d i ∧
      productInM1 (s.slWord d i) false (iSrc (s.slWord d i) / 4) (4 + iSrc (s.slWord d i) % 4) ∧ productInM1 (s.slWord d i) true ((iSrc (s.slWord d i) / 4) ^^^ 1) ((4 + iSrc (s.slWord d i) % 4) ^^^ 1) ∧ (∀ ci m f, m.stM2 = some f → f.word = (s.slWord d i) → f.nop = false →
        (sliceCycle ci m).1.acc ((iDst f.word % 4) ^^^ 1) = BitVec.ofInt 56 ((m.acc ((iDst f.word % 4) ^^^ 1)).toInt + scaled m.mode f.p1)) ∧
      accAfterM2 (s.slWord d i) fun _ m f => BitVec.ofInt 56 ((m.acc (iDst f.word % 4)).toInt + scaled m.mode f.p0)) ∧
  (∀ (s : State) (d i : Nat) (u : SliceUpset), s.runsRow d i 0x1a 0x1a = true ∧ s.cleanCycle d i u = true ∧ s.plainD d i = true →
    ∃ t, exec (.dmacA d i u) s = .next t ∧ s.fetched t d i ∧
      productInM1 (s.slWord d i) false (iSrc (s.slWord d i) / 4) (4 + iSrc (s.slWord d i) % 4) ∧ productInM1 (s.slWord d i) true ((iSrc (s.slWord d i) / 4) ^^^ 1) ((4 + iSrc (s.slWord d i) % 4) ^^^ 1) ∧ accAfterM2 (s.slWord d i) fun _ m f => BitVec.ofInt 56 ((m.acc (iDst f.word % 4)).toInt + scaled m.mode f.p0 + scaled m.mode f.p1)) ∧
  (∀ (s : State) (d i : Nat) (u : SliceUpset), s.runsRow d i 0x1b 0x1b = true ∧ s.cleanCycle d i u = true ∧ s.plainD d i = true →
    ∃ t, exec (.dmacD d i u) s = .next t ∧ s.fetched t d i ∧
      productInM1 (s.slWord d i) false (iSrc (s.slWord d i) / 4) (4 + iSrc (s.slWord d i) % 4) ∧ productInM1 (s.slWord d i) true ((iSrc (s.slWord d i) / 4) ^^^ 1) ((4 + iSrc (s.slWord d i) % 4) ^^^ 1) ∧ accAfterM2 (s.slWord d i) fun _ m f => BitVec.ofInt 56 ((m.acc (iDst f.word % 4)).toInt + scaled m.mode f.p0 - scaled m.mode f.p1)) ∧
  (∀ (s : State) (d i : Nat) (u : SliceUpset), s.runsRow d i 0x20 0x20 = true ∧ s.cleanCycle d i u = true ∧ s.plainD d i = true →
    ∃ t, exec (.add d i u) s = .next t ∧ s.fetched t d i ∧
      accAfterM2 (s.slWord d i) fun ci m f => BitVec.ofInt 56 ((m.acc (iDst f.word % 4)).toInt + (m.operand (iSrc f.word) ci.casin).toInt)) ∧
  (∀ (s : State) (d i : Nat) (u : SliceUpset), s.runsRow d i 0x21 0x21 = true ∧ s.cleanCycle d i u = true ∧ s.plainD d i = true →
    ∃ t, exec (.sub d i u) s = .next t ∧ s.fetched t d i ∧
      accAfterM2 (s.slWord d i) fun ci m f => BitVec.ofInt 56 ((m.acc (iDst f.word % 4)).toInt - (m.operand (iSrc f.word) ci.casin).toInt)) ∧
  (∀ (s : State) (d i : Nat) (u : SliceUpset), s.runsRow d i 0x22 0x22 = true ∧ s.cleanCycle d i u = true ∧ s.plainD d i = true →
    ∃ t, exec (.abs d i u) s = .next t ∧ s.fetched t d i ∧
      accAfterM2 (s.slWord d i) fun ci m f => BitVec.ofInt 56 (if (m.operand (iSrc f.word) ci.casin).toInt < 0 then -(m.operand (iSrc f.word) ci.casin).toInt else (m.operand (iSrc f.word) ci.casin).toInt)) ∧
  (∀ (s : State) (d i : Nat) (u : SliceUpset), s.runsRow d i 0x23 0x23 = true ∧ s.cleanCycle d i u = true ∧ s.plainD d i = true →
    ∃ t, exec (.neg d i u) s = .next t ∧ s.fetched t d i ∧
      accAfterM2 (s.slWord d i) fun ci m f => BitVec.ofInt 56 (-(m.operand (iSrc f.word) ci.casin).toInt)) ∧
  (∀ (s : State) (d i : Nat) (u : SliceUpset), s.runsRow d i 0x24 0x24 = true ∧ s.cleanCycle d i u = true ∧ s.plainD d i = true →
    ∃ t, exec (.rnd d i u) s = .next t ∧ s.fetched t d i ∧
      accAfterM2 (s.slWord d i) fun _ m f => BitVec.ofInt 56 (rndExact (m.acc (iDst f.word % 4)))) ∧
  (∀ (s : State) (d i : Nat) (u : SliceUpset), s.runsRow d i 0x25 0x25 = true ∧ s.cleanCycle d i u = true ∧ s.plainD d i = true →
    ∃ t, exec (.sat d i u) s = .next t ∧ s.fetched t d i ∧
      accAfterM2 (s.slWord d i) fun _ m f => enter24 m.mode (sat24 m.mode (m.acc (iDst f.word % 4)))) ∧
  (∀ (s : State) (d i : Nat) (u : SliceUpset), s.runsRow d i 0x30 0x3f = true ∧ s.cleanCycle d i u = true ∧ s.plainD d i = true →
    ∃ t, exec (.shl d i u) s = .next t ∧ s.fetched t d i ∧
      accAfterM2 (s.slWord d i) fun ci m f => BitVec.ofInt 56 ((m.operand (iSrc f.word) ci.casin).toInt * 2 ^ (iOpc f.word % 16 + 1))) ∧
  (∀ (s : State) (d i : Nat) (u : SliceUpset), s.runsRow d i 0x40 0x4f = true ∧ s.cleanCycle d i u = true ∧ s.plainD d i = true →
    ∃ t, exec (.shr d i u) s = .next t ∧ s.fetched t d i ∧
      accAfterM2 (s.slWord d i) fun ci m f => BitVec.ofInt 56 ((m.operand (iSrc f.word) ci.casin).toInt / 2 ^ (iOpc f.word % 16 + 1))) ∧
  (∀ (s : State) (d i : Nat) (u : SliceUpset), s.runsRow d i 0x50 0x50 = true ∧ s.cleanCycle d i u = true ∧ s.plainD d i = true →
    ∃ t, exec (.max d i u) s = .next t ∧ s.fetched t d i ∧
      ∀ ci m f, m.stM2 = some f → f.word = (s.slWord d i) → f.nop = false → m.stWB = none →
        (sliceCycle ci m).1.acc (iDst f.word % 4) = (if (m.acc (iDst f.word % 4)).toInt < (enter24 m.mode (m.dReg (iSrc f.word % 8))).toInt then (enter24 m.mode (m.dReg (iSrc f.word % 8))) else m.acc (iDst f.word % 4))) ∧
  (∀ (s : State) (d i : Nat) (u : SliceUpset), s.runsRow d i 0x51 0x51 = true ∧ s.cleanCycle d i u = true ∧ s.plainD d i = true →
    ∃ t, exec (.min d i u) s = .next t ∧ s.fetched t d i ∧
      ∀ ci m f, m.stM2 = some f → f.word = (s.slWord d i) → f.nop = false → m.stWB = none →
        (sliceCycle ci m).1.acc (iDst f.word % 4) = (if (enter24 m.mode (m.dReg (iSrc f.word % 8))).toInt < (m.acc (iDst f.word % 4)).toInt then (enter24 m.mode (m.dReg (iSrc f.word % 8))) else m.acc (iDst f.word % 4))) ∧
  (∀ (s : State) (d i : Nat) (u : SliceUpset), s.runsRow d i 0x52 0x52 = true ∧ s.cleanCycle d i u = true ∧ s.plainD d i = true →
    ∃ t, exec (.maxi d i u) s = .next t ∧ s.fetched t d i ∧
      ∀ ci m f, m.stM2 = some f → f.word = (s.slWord d i) → f.nop = false → m.stWB = none →
        (sliceCycle ci m).1.acc (iDst f.word % 4) = (if (m.acc (iDst f.word % 4)).toInt < (enter24 m.mode (m.dReg (iSrc f.word % 8))).toInt then (enter24 m.mode (m.dReg (iSrc f.word % 8))) else m.acc (iDst f.word % 4)) ∧
        tget 0 (sliceCycle ci m).1.ix (iDst f.word / 4 % 2) = (if (m.acc (iDst f.word % 4)).toInt < (enter24 m.mode (m.dReg (iSrc f.word % 8))).toInt then m.origin (iSrc f.word % 8) else tget 0 m.ix (iDst f.word / 4 % 2))) ∧
  (∀ (s : State) (d i : Nat) (u : SliceUpset), s.runsRow d i 0x53 0x53 = true ∧ s.cleanCycle d i u = true ∧ s.plainD d i = true →
    ∃ t, exec (.mini d i u) s = .next t ∧ s.fetched t d i ∧
      ∀ ci m f, m.stM2 = some f → f.word = (s.slWord d i) → f.nop = false → m.stWB = none →
        (sliceCycle ci m).1.acc (iDst f.word % 4) = (if (enter24 m.mode (m.dReg (iSrc f.word % 8))).toInt < (m.acc (iDst f.word % 4)).toInt then (enter24 m.mode (m.dReg (iSrc f.word % 8))) else m.acc (iDst f.word % 4)) ∧
        tget 0 (sliceCycle ci m).1.ix (iDst f.word / 4 % 2) = (if (enter24 m.mode (m.dReg (iSrc f.word % 8))).toInt < (m.acc (iDst f.word % 4)).toInt then m.origin (iSrc f.word % 8) else tget 0 m.ix (iDst f.word / 4 % 2))) ∧
  (∀ (s : State) (d i : Nat) (u : SliceUpset), s.runsRow d i 0xf0 0xf0 = true ∧ s.cleanCycle d i u = true ∧ s.plainD d i = true →
    ∃ t, exec (.loopCount d i u) s = .next t ∧ s.fetched t d i ∧
      whenInD (s.slWord d i) fun ci m f =>
        (m.inTrap = false → f.addr.toNat + 1 ≤ bitsOf f.word.toNat 0 10 → openLevels m.loops < 3 → BitVec.ofNat 16 (bitsOf f.word.toNat 16 16) ≠ 0 → m.pc.toNat ≠ bitsOf f.word.toNat 0 10 →
          tget LoopLevel.reset (sliceCycle ci m).1.loops (openLevels m.loops) = { start := f.addr + 1, stop := BitVec.ofNat 10 (bitsOf f.word.toNat 0 10), count := BitVec.ofNat 16 (bitsOf f.word.toNat 16 16), isOpen := true }) ∧
        (m.inTrap = false → f.addr.toNat + 1 ≤ bitsOf f.word.toNat 0 10 → openLevels m.loops < 3 → BitVec.ofNat 16 (bitsOf f.word.toNat 16 16) = 0 → (sliceCycle ci m).1.pc = BitVec.ofNat 10 (bitsOf f.word.toNat 0 10) + 1 ∧ (sliceCycle ci m).1.stD = none ∧ (sliceCycle ci m).1.loops = m.loops) ∧
        (m.inTrap = false → f.addr.toNat + 1 ≤ bitsOf f.word.toNat 0 10 → openLevels m.loops = 3 → (sliceCycle ci m).1.run = .draining ∧ (sliceCycle ci m).1.cause = 3)) ∧
  (∀ (s : State) (d i : Nat) (u : SliceUpset), s.runsRow d i 0xf1 0xf1 = true ∧ s.cleanCycle d i u = true ∧ s.plainD d i = true →
    ∃ t, exec (.loopReg d i u) s = .next t ∧ s.fetched t d i ∧
      whenInD (s.slWord d i) fun ci m f =>
        (m.inTrap = false → f.addr.toNat + 1 ≤ bitsOf f.word.toNat 0 10 → openLevels m.loops < 3 → BitVec.ofNat 16 (m.readCode (iCode f.word)).1 ≠ 0 → m.pc.toNat ≠ bitsOf f.word.toNat 0 10 →
          tget LoopLevel.reset (sliceCycle ci m).1.loops (openLevels m.loops) = { start := f.addr + 1, stop := BitVec.ofNat 10 (bitsOf f.word.toNat 0 10), count := BitVec.ofNat 16 (m.readCode (iCode f.word)).1, isOpen := true }) ∧
        (m.inTrap = false → f.addr.toNat + 1 ≤ bitsOf f.word.toNat 0 10 → openLevels m.loops < 3 → BitVec.ofNat 16 (m.readCode (iCode f.word)).1 = 0 → (sliceCycle ci m).1.pc = BitVec.ofNat 10 (bitsOf f.word.toNat 0 10) + 1 ∧ (sliceCycle ci m).1.stD = none ∧ (sliceCycle ci m).1.loops = m.loops) ∧
        (m.inTrap = false → f.addr.toNat + 1 ≤ bitsOf f.word.toNat 0 10 → openLevels m.loops = 3 → (sliceCycle ci m).1.run = .draining ∧ (sliceCycle ci m).1.cause = 3)) ∧
  (∀ (s : State) (d i : Nat) (u : SliceUpset), s.runsRow d i 0xf2 0xf2 = true ∧ s.cleanCycle d i u = true ∧ s.plainD d i = true →
    ∃ t, exec (.jmp d i u) s = .next t ∧ s.fetched t d i ∧
      whenInD (s.slWord d i) fun ci m f =>
        (sliceCycle ci m).1.pc = BitVec.ofNat 10 (bitsOf f.word.toNat 0 10) ∧ (sliceCycle ci m).1.stD.map Flight.slot = some true) ∧
  (∀ (s : State) (d i : Nat) (u : SliceUpset), s.runsRow d i 0xf3 0xf3 = true ∧ s.cleanCycle d i u = true ∧ s.plainD d i = true →
    ∃ t, exec (.jcc d i u) s = .next t ∧ s.fetched t d i ∧
      whenInD (s.slWord d i) fun ci m f =>
        (m.cond (iSrc f.word) = true → (sliceCycle ci m).1.pc = BitVec.ofNat 10 (bitsOf f.word.toNat 0 10) ∧ (sliceCycle ci m).1.stD.map Flight.slot = some true) ∧
        (m.cond (iSrc f.word) = false → openLevels m.loops = 0 → (sliceCycle ci m).1.pc = m.pc + 1 ∧ (sliceCycle ci m).1.stD.map Flight.slot = some true)) ∧
  (∀ (s : State) (d i : Nat) (u : SliceUpset), s.runsRow d i 0xf4 0xf4 = true ∧ s.cleanCycle d i u = true ∧ s.plainD d i = true →
    ∃ t, exec (.call d i u) s = .next t ∧ s.fetched t d i ∧
      whenInD (s.slWord d i) fun ci m f =>
        (m.depth < 4 → (sliceCycle ci m).1.pc = BitVec.ofNat 10 (bitsOf f.word.toNat 0 10) ∧ (sliceCycle ci m).1.depth = m.depth + 1 ∧ tget 0 (sliceCycle ci m).1.stack m.depth = m.pc + 1) ∧
        (4 ≤ m.depth → (sliceCycle ci m).1.run = .draining ∧ (sliceCycle ci m).1.cause = 4 ∧ (sliceCycle ci m).1.depth = m.depth)) ∧
  (∀ (s : State) (d i : Nat) (u : SliceUpset), s.runsRow d i 0xf5 0xf5 = true ∧ s.cleanCycle d i u = true ∧ s.plainD d i = true →
    ∃ t, exec (.ret d i u) s = .next t ∧ s.fetched t d i ∧
      whenInD (s.slWord d i) fun ci m _ =>
        (0 < m.depth → (sliceCycle ci m).1.pc = tget 0 m.stack (m.depth - 1) ∧ (sliceCycle ci m).1.depth = m.depth - 1) ∧
        (m.depth = 0 → (sliceCycle ci m).1.run = .draining ∧ (sliceCycle ci m).1.cause = 4)) ∧
  (∀ (s : State) (d i : Nat) (u : SliceUpset), s.runsRow d i 0xf6 0xf6 = true ∧ s.cleanCycle d i u = true ∧ s.plainD d i = true →
    ∃ t, exec (.waitq d i u) s = .next t ∧ s.fetched t d i ∧
      whenInD (s.slWord d i) fun ci m f =>
        (m.waitOk (bitsOf f.word.toNat 0 4) = true → (sliceCycle ci m).1.run = .running ∧ (sliceCycle ci m).1.stD.map Flight.word = some ci.fetch.data) ∧
        (m.waitOk (bitsOf f.word.toNat 0 4) = false → (sliceCycle ci m).1.run = .waiting ∧ (sliceCycle ci m).1.pc = m.pc ∧ (sliceCycle ci m).1.stD = m.stD ∧ (sliceCycle ci m).1.stAG = none)) ∧
  (∀ (s : State) (d i : Nat) (u : SliceUpset), s.runsRow d i 0xf7 0xf7 = true ∧ s.cleanCycle d i u = true ∧ s.plainD d i = true →
    ∃ t, exec (.trapret d i u) s = .next t ∧ s.fetched t d i ∧
      whenInD (s.slWord d i) fun ci m _ =>
        (m.inTrap = true → (sliceCycle ci m).1.pc = m.trap.extractLsb' 16 10 ∧ (sliceCycle ci m).1.inTrap = false) ∧
        (m.inTrap = false → openLevels m.loops = 0 → (sliceCycle ci m).1.pc = m.pc + 1 ∧ (sliceCycle ci m).1.inTrap = false ∧ (sliceCycle ci m).1.run = .running)) ∧
  (∀ (s : State) (d i : Nat) (u : SliceUpset), s.runsRow d i 0xf8 0xf8 = true ∧ s.cleanCycle d i u = true ∧ s.plainD d i = true →
    ∃ t, exec (.halt d i u) s = .next t ∧ s.fetched t d i ∧
      whenInD (s.slWord d i) fun ci m _ =>
        (sliceCycle ci m).1.run = .draining ∧ (sliceCycle ci m).1.cause = 1 ∧ (sliceCycle ci m).1.stD.map Flight.slot = some true) ∧
  (∀ (s : State) (d i : Nat) (u : SliceUpset), s.slReady d i = true ∧ (s.slice d i).run = .running ∧ wordValid (s.slWord d i) = false ∧ s.cleanCycle d i u = true ∧ s.plainD d i = true →
    ∃ t, exec (.reservedInstruction d i u) s = .next t ∧ s.fetched t d i ∧
      (∀ ci m f, m.stM2 = some f → f.nop = true → m.stWB = none →
        (∀ k, (sliceCycle ci m).1.acc k = m.acc k) ∧ (sliceCycle ci m).1.flags = m.flags ∧ (sliceCycle ci m).1.xmem = m.xmem ∧ (sliceCycle ci m).1.ymem = m.ymem ∧ (sliceCycle ci m).1.stWB.map Flight.wbs = some []) ∧
      ∀ ci m f, ci.clean = true → m.run = .running → m.stD = some f → f.nop = true → openLevels m.loops = 0 → (sliceCycle ci m).1.pc = m.pc + 1 ∧ (sliceCycle ci m).1.run = .running) ∧
  (∀ (s : State) (d i : Nat) (u : SliceUpset) (l : LoopLevel), s.slReady d i = true ∧ (s.slice d i).run = .running ∧ (s.slice d i).atLoopEnd = true ∧ s.cleanCycle d i u = true ∧ s.plainD d i = true ∧ tget LoopLevel.reset (s.slice d i).loops (openLevels (s.slice d i).loops - 1) = l →
    ∃ t, exec (.loopEndFetch d i u) s = .next t ∧ s.fetched t d i ∧
      (1 < l.count.toNat → (t.slice d i).pc = l.start ∧ tget LoopLevel.reset (t.slice d i).loops (openLevels (s.slice d i).loops - 1) = { l with count := l.count - 1 }) ∧
      (l.count.toNat ≤ 1 → (tget LoopLevel.reset (t.slice d i).loops (openLevels (s.slice d i).loops - 1)).isOpen = false ∧
        (openLevels (s.slice d i).loops = 1 → (t.slice d i).pc = (s.slice d i).pc + 1))) ∧
  (∀ (s : State) (d i : Nat) (f : Flight), s.slReady d i = true ∧ (s.slice d i).run = .waiting ∧ (s.slice d i).stD = some f ∧ f.isRow 0xF6 0xF6 = true ∧ (s.slice d i).waitOk (bitsOf f.word.toNat 0 4) = true ∧ s.cleanCycle d i noUpset = true →
    ∃ t, exec (.waitqRelease d i) s = .next t ∧ (t.slice d i).run = .running ∧ (t.slice d i).stD.map Flight.word = some (s.slWord d i) ∧ (t.slice d i).stAG.map Flight.word = some f.word ∧
      (openLevels (s.slice d i).loops = 0 → (t.slice d i).pc = (s.slice d i).pc + 1) ∧ (t.slice d i).cycles = (s.slice d i).cycles + 1 ∧ ∀ k, k ≠ i → t.slice d k = s.slice d k) ∧
  (∀ (s : State) (d i : Nat), s.slTurn d i = true ∧ (s.slice d i).mustHalt = false ∧ s.mustSteal d i = true →
    ∃ t, exec (.sliceStolenCycle d i) s = .next t ∧ (t.slice d i).cyc = (s.slice d i).cyc + 1 ∧ (t.slice d i).cycles = (s.slice d i).cycles + 1 ∧ (t.slice d i).ctl = (s.slice d i).ctl ∧
      (t.slice d i).stD = (s.slice d i).stD ∧ (t.slice d i).stAG = (s.slice d i).stAG ∧ (t.slice d i).stMR = (s.slice d i).stMR ∧ (t.slice d i).stM1 = (s.slice d i).stM1 ∧
      (t.slice d i).stM2 = (s.slice d i).stM2 ∧ (t.slice d i).stWB = (s.slice d i).stWB ∧ (t.slice d i).a = (s.slice d i).a ∧ (t.slice d i).d = (s.slice d i).d ∧
      (t.die d).winWait = (s.die d).winWait.filter fun e => !(e.slice == i && e.due (s.slice d i))) ∧
  (∀ (s : State) (d i : Nat) (e : WinAcc), s.slTurn d i = true ∧ (s.slice d i).mustHalt = false ∧ (s.die d).winWait = [e] ∧ e.slice = i ∧ e.due (s.slice d i) = true ∧ e.write = true ∧ e.y = false ∧ e.eight = false ∧ e.who = none →
    ∃ t, exec (.sliceStolenCycle d i) s = .next t ∧ t.okay 0 ∧ (t.die d).winWait = [] ∧
      tget (s.slBlank d i) (t.slice d i).xmem e.addr = { data := BitVec.ofNat 40 (e.val % 2 ^ 24) })

/-- In a cycle of a RUNNING slice that reads nothing uncorrectable and in which no instruction stands in stage D: the word at PC enters stage D, PC goes to the next address where no loop level is open, what stood in AG, MR, M1 and M2 stands one stage further with its word, and the cycle is counted. -/
def Obligations.sliceFetchAndStages : Prop :=
  (∀ (ci : CycleIn) (m : Slice), ci.clean = true ∧ m.run = .running ∧ m.stD = none →
    ((sliceCycle ci m).1.stD.map fun f => (f.addr, f.word, f.nop)) = some (m.pc, ci.fetch.data, !wordValid ci.fetch.data) ∧
      ((sliceCycle ci m).1.stAG.map Flight.word) = none ∧ ((sliceCycle ci m).1.stMR.map Flight.word) = m.stAG.map Flight.word ∧
      ((sliceCycle ci m).1.stM1.map Flight.word) = m.stMR.map Flight.word ∧ ((sliceCycle ci m).1.stM2.map Flight.word) = m.stM1.map Flight.word ∧
      ((sliceCycle ci m).1.stWB.map Flight.word) = m.stM2.map Flight.word ∧ (sliceCycle ci m).1.cycles = m.cycles + 1 ∧
      (m.inTrap = false → openLevels m.loops = 0 → (sliceCycle ci m).1.pc = m.pc + 1) ∧ (sliceCycle ci m).2 = [])

/-- In the cycle that takes it through M2, whatever else happens in the cycle: CLR clears; MPY, MAC and MSU accumulate the product, MACR rounds the sum; DMAC.S and .P update both accumulators of the pair, .A and .D one; ADD, SUB, ABS, NEG, RND, SAT, SHL and SHR leave the exact result modulo 2^56; MAX and MIN keep the larger and the smaller, MAXI and MINI also the place it came from. No accumulator but those of the instruction changes where no write lands in the cycle. -/
def Obligations.sliceArithmetic : Prop :=
  (∀ (ci : CycleIn) (m : Slice) (f : Flight), m.stM2 = some f ∧ f.isRow 0x04 0x04 = true ∧ iDst f.word < 4 →
    ((sliceCycle ci m).1.acc (iDst f.word % 4)) = 0 ∧ (m.stWB = none → ∀ k, k ≠ iDst f.word % 4 → (sliceCycle ci m).1.acc k = m.acc k)) ∧
  (∀ (ci : CycleIn) (m : Slice) (f : Flight), m.stM2 = some f ∧ f.isRow 0x10 0x10 = true →
    ((sliceCycle ci m).1.acc (iDst f.word % 4)) = BitVec.ofInt 56 (scaled m.mode f.p0 + (if bitOf (iDst f.word) 2 then ci.casin.toInt else 0)) ∧ (m.stWB = none → ∀ k, k ≠ iDst f.word % 4 → (sliceCycle ci m).1.acc k = m.acc k)) ∧
  (∀ (ci : CycleIn) (m : Slice) (f : Flight), m.stM2 = some f ∧ f.isRow 0x11 0x11 = true →
    ((sliceCycle ci m).1.acc (iDst f.word % 4)) = BitVec.ofInt 56 ((m.acc (iDst f.word % 4)).toInt + scaled m.mode f.p0 + (if bitOf (iDst f.word) 2 then ci.casin.toInt else 0)) ∧ (m.stWB = none → ∀ k, k ≠ iDst f.word % 4 → (sliceCycle ci m).1.acc k = m.acc k)) ∧
  (∀ (ci : CycleIn) (m : Slice) (f : Flight), m.stM2 = some f ∧ f.isRow 0x12 0x12 = true →
    ((sliceCycle ci m).1.acc (iDst f.word % 4)) = BitVec.ofInt 56 ((m.acc (iDst f.word % 4)).toInt - scaled m.mode f.p0 + (if bitOf (iDst f.word) 2 then ci.casin.toInt else 0)) ∧ (m.stWB = none → ∀ k, k ≠ iDst f.word % 4 → (sliceCycle ci m).1.acc k = m.acc k)) ∧
  (∀ (ci : CycleIn) (m : Slice) (f : Flight), m.stM2 = some f ∧ f.isRow 0x13 0x13 = true →
    ((sliceCycle ci m).1.acc (iDst f.word % 4)) = BitVec.ofInt 56 (rndExact (BitVec.ofInt 56 ((m.acc (iDst f.word % 4)).toInt + scaled m.mode f.p0 + (if bitOf (iDst f.word) 2 then ci.casin.toInt else 0)))) ∧ (m.stWB = none → ∀ k, k ≠ iDst f.word % 4 → (sliceCycle ci m).1.acc k = m.acc k)) ∧
  (∀ (ci : CycleIn) (m : Slice) (f : Flight), m.stM2 = some f ∧ f.isRow 0x18 0x19 = true →
    ((sliceCycle ci m).1.acc (iDst f.word % 4)) = BitVec.ofInt 56 ((m.acc (iDst f.word % 4)).toInt + scaled m.mode f.p0) ∧ (sliceCycle ci m).1.acc ((iDst f.word % 4) ^^^ 1) = BitVec.ofInt 56 ((m.acc ((iDst f.word % 4) ^^^ 1)).toInt + scaled m.mode f.p1) ∧ (m.stWB = none → ∀ k, k ≠ iDst f.word % 4 → k ≠ (iDst f.word % 4) ^^^ 1 → (sliceCycle ci m).1.acc k = m.acc k)) ∧
  (∀ (ci : CycleIn) (m : Slice) (f : Flight), m.stM2 = some f ∧ f.isRow 0x1A 0x1A = true →
    ((sliceCycle ci m).1.acc (iDst f.word % 4)) = BitVec.ofInt 56 ((m.acc (iDst f.word % 4)).toInt + scaled m.mode f.p0 + scaled m.mode f.p1) ∧ (m.stWB = none → ∀ k, k ≠ iDst f.word % 4 → (sliceCycle ci m).1.acc k = m.acc k)) ∧
  (∀ (ci : CycleIn) (m : Slice) (f : Flight), m.stM2 = some f ∧ f.isRow 0x1B 0x1B = true →
    ((sliceCycle ci m).1.acc (iDst f.word % 4)) = BitVec.ofInt 56 ((m.acc (iDst f.word % 4)).toInt + scaled m.mode f.p0 - scaled m.mode f.p1) ∧ (m.stWB = none → ∀ k, k ≠ iDst f.word % 4 → (sliceCycle ci m).1.acc k = m.acc k)) ∧
  (∀ (ci : CycleIn) (m : Slice) (f : Flight), m.stM2 = some f ∧ f.isRow 0x20 0x20 = true →
    ((sliceCycle ci m).1.acc (iDst f.word % 4)) = BitVec.ofInt 56 ((m.acc (iDst f.word % 4)).toInt + (m.operand (iSrc f.word) ci.casin).toInt) ∧ (m.stWB = none → ∀ k, k ≠ iDst f.word % 4 → (sliceCycle ci m).1.acc k = m.acc k)) ∧
  (∀ (ci : CycleIn) (m : Slice) (f : Flight), m.stM2 = some f ∧ f.isRow 0x21 0x21 = true →
    ((sliceCycle ci m).1.acc (iDst f.word % 4)) = BitVec.ofInt 56 ((m.acc (iDst f.word % 4)).toInt - (m.operand (iSrc f.word) ci.casin).toInt) ∧ (m.stWB = none → ∀ k, k ≠ iDst f.word % 4 → (sliceCycle ci m).1.acc k = m.acc k)) ∧
  (∀ (ci : CycleIn) (m : Slice) (f : Flight), m.stM2 = some f ∧ f.isRow 0x22 0x22 = true →
    ((sliceCycle ci m).1.acc (iDst f.word % 4)) = BitVec.ofInt 56 (if (m.operand (iSrc f.word) ci.casin).toInt < 0 then -(m.operand (iSrc f.word) ci.casin).toInt else (m.operand (iSrc f.word) ci.casin).toInt) ∧ (m.stWB = none → ∀ k, k ≠ iDst f.word % 4 → (sliceCycle ci m).1.acc k = m.acc k)) ∧
  (∀ (ci : CycleIn) (m : Slice) (f : Flight), m.stM2 = some f ∧ f.isRow 0x23 0x23 = true →
    ((sliceCycle ci m).1.acc (iDst f.word % 4)) = BitVec.ofInt 56 (-(m.operand (iSrc f.word) ci.casin).toInt) ∧ (m.stWB = none → ∀ k, k ≠ iDst f.word % 4 → (sliceCycle ci m).1.acc k = m.acc k)) ∧
  (∀ (ci : CycleIn) (m : Slice) (f : Flight), m.stM2 = some f ∧ f.isRow 0x24 0x24 = true →
    ((sliceCycle ci m).1.acc (iDst f.word % 4)) = BitVec.ofInt 56 (rndExact (m.acc (iDst f.word % 4))) ∧ (m.stWB = none → ∀ k, k ≠ iDst f.word % 4 → (sliceCycle ci m).1.acc k = m.acc k)) ∧
  (∀ (ci : CycleIn) (m : Slice) (f : Flight), m.stM2 = some f ∧ f.isRow 0x25 0x25 = true →
    ((sliceCycle ci m).1.acc (iDst f.word % 4)) = enter24 m.mode (sat24 m.mode (m.acc (iDst f.word % 4))) ∧ (m.stWB = none → ∀ k, k ≠ iDst f.word % 4 → (sliceCycle ci m).1.acc k = m.acc k)) ∧
  (∀ (ci : CycleIn) (m : Slice) (f : Flight), m.stM2 = some f ∧ f.isRow 0x30 0x3F = true →
    ((sliceCycle ci m).1.acc (iDst f.word % 4)) = BitVec.ofInt 56 ((m.operand (iSrc f.word) ci.casin).toInt * 2 ^ (iOpc f.word % 16 + 1)) ∧ (m.stWB = none → ∀ k, k ≠ iDst f.word % 4 → (sliceCycle ci m).1.acc k = m.acc k)) ∧
  (∀ (ci : CycleIn) (m : Slice) (f : Flight), m.stM2 = some f ∧ f.isRow 0x40 0x4F = true →
    ((sliceCycle ci m).1.acc (iDst f.word % 4)) = BitVec.ofInt 56 ((m.operand (iSrc f.word) ci.casin).toInt / 2 ^ (iOpc f.word % 16 + 1)) ∧ (m.stWB = none → ∀ k, k ≠ iDst f.word % 4 → (sliceCycle ci m).1.acc k = m.acc k)) ∧
  (∀ (ci : CycleIn) (m : Slice) (f : Flight), m.stM2 = some f ∧ f.isRow 0x50 0x50 = true →
    (m.stWB = none → ((sliceCycle ci m).1.acc (iDst f.word % 4)) = (if (m.acc (iDst f.word % 4)).toInt < (enter24 m.mode (m.dReg (iSrc f.word % 8))).toInt then enter24 m.mode (m.dReg (iSrc f.word % 8)) else m.acc (iDst f.word % 4))) ∧ (m.stWB = none → ∀ k, k ≠ iDst f.word % 4 → k ≠ (iDst f.word % 4) ^^^ 1 → (sliceCycle ci m).1.acc k = m.acc k)) ∧
  (∀ (ci : CycleIn) (m : Slice) (f : Flight), m.stM2 = some f ∧ f.isRow 0x51 0x51 = true →
    (m.stWB = none → ((sliceCycle ci m).1.acc (iDst f.word % 4)) = (if (enter24 m.mode (m.dReg (iSrc f.word % 8))).toInt < (m.acc (iDst f.word % 4)).toInt then enter24 m.mode (m.dReg (iSrc f.word % 8)) else m.acc (iDst f.word % 4))) ∧ (m.stWB = none → ∀ k, k ≠ iDst f.word % 4 → k ≠ (iDst f.word % 4) ^^^ 1 → (sliceCycle ci m).1.acc k = m.acc k)) ∧
  (∀ (ci : CycleIn) (m : Slice) (f : Flight), m.stM2 = some f ∧ f.isRow 0x52 0x52 = true →
    (m.stWB = none → ((sliceCycle ci m).1.acc (iDst f.word % 4)) = (if (m.acc (iDst f.word % 4)).toInt < (enter24 m.mode (m.dReg (iSrc f.word % 8))).toInt then enter24 m.mode (m.dReg (iSrc f.word % 8)) else m.acc (iDst f.word % 4))) ∧ (m.stWB = none → tget 0 (sliceCycle ci m).1.ix (iDst f.word / 4 % 2) = (if (m.acc (iDst f.word % 4)).toInt < (enter24 m.mode (m.dReg (iSrc f.word % 8))).toInt then m.origin (iSrc f.word % 8) else tget 0 m.ix (iDst f.word / 4 % 2))) ∧ (m.stWB = none → ∀ k, k ≠ iDst f.word % 4 → k ≠ (iDst f.word % 4) ^^^ 1 → (sliceCycle ci m).1.acc k = m.acc k)) ∧
  (∀ (ci : CycleIn) (m : Slice) (f : Flight), m.stM2 = some f ∧ f.isRow 0x53 0x53 = true →
    (m.stWB = none → ((sliceCycle ci m).1.acc (iDst f.word % 4)) = (if (enter24 m.mode (m.dReg (iSrc f.word % 8))).toInt < (m.acc (iDst f.word % 4)).toInt then enter24 m.mode (m.dReg (iSrc f.word % 8)) else m.acc (iDst f.word % 4))) ∧ (m.stWB = none → tget 0 (sliceCycle ci m).1.ix (iDst f.word / 4 % 2) = (if (enter24 m.mode (m.dReg (iSrc f.word % 8))).toInt < (m.acc (iDst f.word % 4)).toInt then m.origin (iSrc f.word % 8) else tget 0 m.ix (iDst f.word / 4 % 2))) ∧ (m.stWB = none → ∀ k, k ≠ iDst f.word % 4 → k ≠ (iDst f.word % 4) ^^^ 1 → (sliceCycle ci m).1.acc k = m.acc k))

/-- In a clean cycle: a parallel load puts the X or Y word read into its data register; MOVE imm and MOVE reg, reg decide in M2 the write that lands in WB; a store decided in M2 lands in WB at the address formed in AG; an arithmetic instruction sets N, Z and E by its result and keeps L set once it is set; the multipliers form in M1 the product of the two data registers. -/
def Obligations.sliceMovesAndFlags : Prop :=
  (∀ (ci : CycleIn) (m : Slice) (f : Flight), ci.clean = true ∧ m.run = .running ∧ m.stD = none ∧ m.stMR = some f ∧ f.nop = false ∧ hasMoves f.word = true ∧ mvType (iX f.word) = 1 ∧ mvType (iY f.word) = 0 →
    (sliceCycle ci m).1.dReg (mvReg (iX f.word)) = BitVec.ofNat 24 ci.x.data.toNat ∧ (sliceCycle ci m).1.origin (mvReg (iX f.word)) = BitVec.ofNat 16 f.xa.toNat) ∧
  (∀ (ci : CycleIn) (m : Slice) (f : Flight), m.stM2 = some f ∧ f.isRow 0x02 0x03 = true ∧ iCode f.word < 8 →
    (((sliceCycle ci m).1.stWB.map Flight.wbs) = some [{ reg := iCode f.word, val := BitVec.ofNat 56 (bitsOf f.word.toNat 0 24) }])) ∧
  (∀ (ci : CycleIn) (m : Slice) (f : Flight), m.stM2 = some f ∧ f.isRow 0x01 0x01 = true ∧ iCode f.word < 8 ∧ iCode2 f.word < 8 →
    (((sliceCycle ci m).1.stWB.map Flight.wbs) = some [{ reg := iCode f.word, val := BitVec.ofNat 56 (m.dReg (iCode2 f.word)).toNat }])) ∧
  (∀ (ci : CycleIn) (m : Slice) (f : Flight) (c : Nat) (v : BitVec 56), m.stWB = some f ∧ f.wbs = [{ reg := c, val := v }] ∧ c < 8 ∧ m.stMR = none →
    (sliceCycle ci m).1.dReg c = BitVec.ofNat 24 v.toNat ∧ (sliceCycle ci m).1.origin c = 0x8000) ∧
  (∀ (ci : CycleIn) (m : Slice) (f : Flight) (v : BitVec 56), m.stWB = some f ∧ f.wbs = [{ reg := 0x40, val := v }] →
    tget ci.blank (sliceCycle ci m).1.xmem (v.toNat / 2 ^ 24) = { data := (BitVec.ofNat 24 v.toNat).zeroExtend 40 } ∧ (sliceCycle ci m).1.ymem = m.ymem ∧
      ∀ k, k ≠ v.toNat / 2 ^ 24 → tget ci.blank (sliceCycle ci m).1.xmem k = tget ci.blank m.xmem k) ∧
  (∀ (ci : CycleIn) (m : Slice) (f : Flight), m.stM2 = some f ∧ f.isRow 0x20 0x25 = true →
    (sliceCycle ci m).1.flags.getLsbD 0 = ((sliceCycle ci m).1.acc (iDst f.word % 4)).getLsbD 55 ∧ (sliceCycle ci m).1.flags.getLsbD 1 = (((sliceCycle ci m).1.acc (iDst f.word % 4)) == 0) ∧
      (m.flags.getLsbD 4 = true → m.stWB = none → (sliceCycle ci m).1.flags.getLsbD 4 = true)) ∧
  (∀ (ci : CycleIn) (m : Slice) (f : Flight), m.stM1 = some f ∧ f.isRow 0x10 0x13 = true ∧ ci.clean = true →
    (((sliceCycle ci m).1.stM2.map Flight.p0) = some (BitVec.ofInt 56 ((m.dReg (iSrc f.word / 4)).toInt * (m.dReg (4 + iSrc f.word % 4)).toInt))))

/-- In a clean cycle of a RUNNING slice: JMP and a JCC whose condition holds fetch their target after the delay slot, one whose condition fails goes on; CALL pushes the address after the delay slot and RET pops it, a CALL on a full stack and a RET on an empty one end in STACK; LOOP opens the next level with its start, end and count, skips its body on count 0 and ends in LOOP_DEPTH with three levels open; the fetch at an open level's end goes back to its start while passes remain; WAITQ holds the slice WAITING until its conditions hold; TRAPRET leaves the handler for TPC; HALT drains. -/
def Obligations.sliceControlFlow : Prop :=
  (∀ (ci : CycleIn) (m : Slice) (f : Flight), ci.clean = true ∧ m.run = .running ∧ m.stD = some f ∧ f.isRow 0xF2 0xF2 = true →
    (sliceCycle ci m).1.pc = BitVec.ofNat 10 (bitsOf f.word.toNat 0 10) ∧ ((sliceCycle ci m).1.stD.map Flight.slot) = some true) ∧
  (∀ (ci : CycleIn) (m : Slice) (f : Flight), ci.clean = true ∧ m.run = .running ∧ m.stD = some f ∧ f.isRow 0xF3 0xF3 = true ∧ m.cond (iSrc f.word) = true →
    (sliceCycle ci m).1.pc = BitVec.ofNat 10 (bitsOf f.word.toNat 0 10) ∧ ((sliceCycle ci m).1.stD.map Flight.slot) = some true) ∧
  (∀ (ci : CycleIn) (m : Slice) (f : Flight), ci.clean = true ∧ m.run = .running ∧ m.stD = some f ∧ f.isRow 0xF3 0xF3 = true ∧ m.cond (iSrc f.word) = false ∧ openLevels m.loops = 0 →
    (sliceCycle ci m).1.pc = m.pc + 1 ∧ ((sliceCycle ci m).1.stD.map Flight.slot) = some true) ∧
  (∀ (ci : CycleIn) (m : Slice) (f : Flight), ci.clean = true ∧ m.run = .running ∧ m.stD = some f ∧ f.isRow 0xF4 0xF4 = true ∧ m.depth < 4 →
    (sliceCycle ci m).1.pc = BitVec.ofNat 10 (bitsOf f.word.toNat 0 10) ∧ (sliceCycle ci m).1.depth = m.depth + 1 ∧ tget 0 (sliceCycle ci m).1.stack m.depth = m.pc + 1) ∧
  (∀ (ci : CycleIn) (m : Slice) (f : Flight), ci.clean = true ∧ m.run = .running ∧ m.stD = some f ∧ f.isRow 0xF4 0xF4 = true ∧ 4 ≤ m.depth →
    (sliceCycle ci m).1.run = .draining ∧ (sliceCycle ci m).1.cause = 4 ∧ (sliceCycle ci m).1.depth = m.depth) ∧
  (∀ (ci : CycleIn) (m : Slice) (f : Flight), ci.clean = true ∧ m.run = .running ∧ m.stD = some f ∧ f.isRow 0xF5 0xF5 = true ∧ 0 < m.depth →
    (sliceCycle ci m).1.pc = tget 0 m.stack (m.depth - 1) ∧ (sliceCycle ci m).1.depth = m.depth - 1) ∧
  (∀ (ci : CycleIn) (m : Slice) (f : Flight), ci.clean = true ∧ m.run = .running ∧ m.stD = some f ∧ f.isRow 0xF5 0xF5 = true ∧ m.depth = 0 →
    (sliceCycle ci m).1.run = .draining ∧ (sliceCycle ci m).1.cause = 4) ∧
  (∀ (ci : CycleIn) (m : Slice) (f : Flight), ci.clean = true ∧ m.run = .running ∧ m.stD = some f ∧ f.isRow 0xF0 0xF0 = true ∧ m.inTrap = false ∧ f.addr.toNat + 1 ≤ bitsOf f.word.toNat 0 10 ∧ openLevels m.loops < 3 ∧ m.pc.toNat ≠ bitsOf f.word.toNat 0 10 ∧ bitsOf f.word.toNat 16 16 ≠ 0 →
    tget LoopLevel.reset (sliceCycle ci m).1.loops (openLevels m.loops) = { start := f.addr + 1, stop := BitVec.ofNat 10 (bitsOf f.word.toNat 0 10), count := BitVec.ofNat 16 (bitsOf f.word.toNat 16 16), isOpen := true }) ∧
  (∀ (ci : CycleIn) (m : Slice) (f : Flight), ci.clean = true ∧ m.run = .running ∧ m.stD = some f ∧ f.isRow 0xF1 0xF1 = true ∧ m.inTrap = false ∧ f.addr.toNat + 1 ≤ bitsOf f.word.toNat 0 10 ∧ openLevels m.loops < 3 ∧ m.pc.toNat ≠ bitsOf f.word.toNat 0 10 ∧ BitVec.ofNat 16 (m.readCode (iCode f.word)).1 ≠ 0 →
    tget LoopLevel.reset (sliceCycle ci m).1.loops (openLevels m.loops) = { start := f.addr + 1, stop := BitVec.ofNat 10 (bitsOf f.word.toNat 0 10), count := BitVec.ofNat 16 (m.readCode (iCode f.word)).1, isOpen := true }) ∧
  (∀ (ci : CycleIn) (m : Slice) (f : Flight), ci.clean = true ∧ m.run = .running ∧ m.stD = some f ∧ f.isRow 0xF0 0xF0 = true ∧ m.inTrap = false ∧ f.addr.toNat + 1 ≤ bitsOf f.word.toNat 0 10 ∧ openLevels m.loops < 3 ∧ bitsOf f.word.toNat 16 16 = 0 →
    (sliceCycle ci m).1.pc = BitVec.ofNat 10 (bitsOf f.word.toNat 0 10) + 1 ∧ (sliceCycle ci m).1.stD = none ∧ (sliceCycle ci m).1.loops = m.loops) ∧
  (∀ (ci : CycleIn) (m : Slice) (f : Flight), ci.clean = true ∧ m.run = .running ∧ m.stD = some f ∧ f.isRow 0xF0 0xF1 = true ∧ m.inTrap = false ∧ f.addr.toNat + 1 ≤ bitsOf f.word.toNat 0 10 ∧ openLevels m.loops = 3 →
    (sliceCycle ci m).1.run = .draining ∧ (sliceCycle ci m).1.cause = 3) ∧
  (∀ (ci : CycleIn) (m : Slice) (l : LoopLevel), ci.clean = true ∧ m.run = .running ∧ m.stD = none ∧ m.inTrap = false ∧ 0 < openLevels m.loops ∧ tget LoopLevel.reset m.loops (openLevels m.loops - 1) = l ∧ l.stop = m.pc ∧ 1 < l.count.toNat →
    (sliceCycle ci m).1.pc = l.start ∧ tget LoopLevel.reset (sliceCycle ci m).1.loops (openLevels m.loops - 1) = { l with count := l.count - 1 }) ∧
  (∀ (ci : CycleIn) (m : Slice) (f : Flight), ci.clean = true ∧ m.run = .running ∧ m.stD = some f ∧ f.isRow 0xF6 0xF6 = true ∧ m.waitOk (bitsOf f.word.toNat 0 4) = false →
    (sliceCycle ci m).1.run = .waiting ∧ (sliceCycle ci m).1.pc = m.pc ∧ ((sliceCycle ci m).1.stD.map Flight.word) = some f.word ∧ (sliceCycle ci m).1.stAG = none) ∧
  (∀ (ci : CycleIn) (m : Slice) (f : Flight), ci.clean = true ∧ m.run = .running ∧ m.stD = some f ∧ f.isRow 0xF6 0xF6 = true ∧ m.waitOk (bitsOf f.word.toNat 0 4) = true →
    (sliceCycle ci m).1.run = .running ∧ ((sliceCycle ci m).1.stD.map Flight.word) = some ci.fetch.data) ∧
  (∀ (ci : CycleIn) (m : Slice) (f : Flight), ci.clean = true ∧ m.run = .running ∧ m.stD = some f ∧ f.isRow 0xF7 0xF7 = true ∧ m.inTrap = true →
    (sliceCycle ci m).1.pc = m.trap.extractLsb' 16 10 ∧ (sliceCycle ci m).1.inTrap = false) ∧
  (∀ (ci : CycleIn) (m : Slice) (f : Flight), ci.clean = true ∧ m.run = .running ∧ m.stD = some f ∧ f.isRow 0xF8 0xF8 = true →
    (sliceCycle ci m).1.run = .draining ∧ (sliceCycle ci m).1.cause = 1 ∧ ((sliceCycle ci m).1.stD.map Flight.slot) = some true)

/-- A fetch that is uncorrectable takes a RUNNING slice with empty stages D and MR to IVEC with IN_TRAP set and the address of the word in SL_TRAP; an uncorrectable X read takes it to DVEC with the address of the instruction in MR as TPC. A halt request that may be taken drains the slice with cause 2; the cycle after which nothing is left in the stages halts it, or runs it where a start is held. A halt request on a WAITING slice abandons its WAITQ. A stream word joins an input queue with space, seen at the second SCLK edge or the third, the same for every word of one stream-clock edge; the fabric pops the oldest entry of an output queue once it is presented, and not before. -/
def Obligations.sliceTrapsAndHalts : Prop :=
  (∀ (s : State) (d i : Nat), s.slReady d i = true ∧ (s.slice d i).run = .running ∧ (s.slice d i).stD = none ∧ (s.slice d i).stMR = none ∧ (s.slice d i).inTrap = false ∧ (tget (s.imBlank d i) (s.slice d i).imem (s.slice d i).pc.toNat).health ≠ .mark →
    ∃ t, exec (.sliceInstructionTrap d i) s = .next t ∧ (t.slice d i).pc = (s.slice d i).ivec ∧ (t.slice d i).inTrap = true ∧ (t.slice d i).run = .running ∧
      (t.slice d i).trap = BitVec.ofNat 32 (1 + atLo 2 2 + atLo (s.slice d i).pc.toNat 4 + atLo (s.slice d i).pc.toNat 16)) ∧
  (∀ (s : State) (d i : Nat) (f : Flight), s.slReady d i = true ∧ (s.slice d i).run = .running ∧ (s.slice d i).stMR = some f ∧ f.nop = false ∧ f.slot = false ∧ hasMoves f.word = true ∧ mvLoads (iX f.word) = true ∧ (s.slice d i).inTrap = false ∧ (tget (s.slBlank d i) (s.slice d i).xmem f.xa.toNat).health ≠ .mark →
    ∃ t, exec (.sliceDataTrap d i true false) s = .next t ∧ (t.slice d i).pc = (s.slice d i).dvec ∧ (t.slice d i).inTrap = true ∧ (t.slice d i).run = .running ∧
      (t.slice d i).trap = BitVec.ofNat 32 (2 + atLo 0 2 + atLo f.xa.toNat 4 + atLo f.addr.toNat 16) ∧ (t.slice d i).stM1 = none) ∧
  (∀ (s : State) (d i : Nat), i < 2048 ∧ s.grpClocked d (i / 16) = true ∧ (s.slice d i).haltReq = true ∧ (s.slice d i).run = .running ∧ (dStage (s.slice d i)).slotCtl = false →
    ∃ t, exec (.sliceHaltTaken d i) s = .next t ∧ t.slice d i = { s.slice d i with run := .draining, cause := 2, haltReq := false }) ∧
  (∀ (s : State) (d i : Nat) (f : Flight), i < 2048 ∧ s.grpClocked d (i / 16) = true ∧ (s.slice d i).haltReq = true ∧ (s.slice d i).run = .waiting ∧ (s.slice d i).stD = some f →
    ∃ t, exec (.sliceHaltTaken d i) s = .next t ∧ (t.slice d i).run = .draining ∧ (t.slice d i).cause = 2 ∧ (t.slice d i).haltReq = false ∧ (t.slice d i).stD = none ∧
      (t.slice d i).pc = f.before.pc ∧ (t.slice d i).stAG = (s.slice d i).stAG) ∧
  (∀ (s : State) (d i : Nat), s.slReady d i = true ∧ (s.slice d i).run = .draining ∧ (s.slice d i).stD = none ∧ (s.slice d i).stAG = none ∧ (s.slice d i).stMR = none ∧ (s.slice d i).stM1 = none ∧ (s.slice d i).stM2 = none →
    ∃ t, exec (.sliceDrainEnd d i) s = .next t ∧ (t.slice d i).run = (if (s.slice d i).pendingStart then .running else .halted) ∧ (t.slice d i).stWB = none ∧ (t.slice d i).cause = (s.slice d i).cause) ∧
  (∀ (s : State) (d i : Nat) (data : BitVec 24) (late : Bool), s.streamEdge d i = true ∧ (s.slice d i).is0.length < 4 ∧ (s.group d (i / 16)).inEdge.map Prod.fst ≠ some s.now →
    ∃ t, exec (.sliceStreamIn d i false data late) s = .next t ∧
      t.slice d i = { s.slice d i with is0 := (s.slice d i).is0 ++ [{ data := data, seenAt := s.groupCyc d (i / 16) + (if late then 3 else 2), lag := (if late then 3 else 2), putAt := s.now }] } ∧ (t.group d (i / 16)).inEdge = some (s.now, (if late then 3 else 2)) ∧ ∀ k, k ≠ i → t.slice d k = s.slice d k) ∧
  (∀ (s : State) (d i : Nat) (data : BitVec 24) (late : Bool), s.streamEdge d i = true ∧ (s.slice d i).is1.length < 4 ∧ (s.group d (i / 16)).inEdge.map Prod.fst ≠ some s.now →
    ∃ t, exec (.sliceStreamIn d i true data late) s = .next t ∧
      t.slice d i = { s.slice d i with is1 := (s.slice d i).is1 ++ [{ data := data, seenAt := s.groupCyc d (i / 16) + (if late then 3 else 2), lag := (if late then 3 else 2), putAt := s.now }] } ∧ ∀ k, k ≠ i → t.slice d k = s.slice d k) ∧
  (∀ (s : State) (d i l : Nat) (data : BitVec 24) (late : Bool), s.streamEdge d i = true ∧ (s.slice d i).is0.length < 4 ∧ (s.group d (i / 16)).inEdge = some (s.now, l) →
    ∃ t, exec (.sliceStreamIn d i false data late) s = .next t ∧ t.slice d i = { s.slice d i with is0 := (s.slice d i).is0 ++ [{ data := data, seenAt := s.groupCyc d (i / 16) + l, lag := l, putAt := s.now }] }) ∧
  (∀ (s : State) (d i : Nat) (q : Bool) (e : StreamWord) (rest : List StreamWord), s.streamEdge d i = true ∧ s.sclkRuns d = true ∧ (if q then (s.slice d i).os1 else (s.slice d i).os0) = e :: rest ∧ e.seenAt ≤ s.fclkEdges d (s.group d (i / 16)).streamClk.toNat →
    ∃ t, exec (.sliceStreamOutPop d i q) s = .next t ∧
      t.slice d i = (if q then { s.slice d i with os1 := rest } else { s.slice d i with os0 := rest }) ∧ ∀ k, k ≠ i → t.slice d k = s.slice d k) ∧
  (∀ (s : State) (d i : Nat) (q : Bool) (e : StreamWord) (rest : List StreamWord), (if q then (s.slice d i).os1 else (s.slice d i).os0) = e :: rest ∧ s.fclkEdges d (s.group d (i / 16)).streamClk.toNat < e.seenAt →
    ∃ t, exec (.sliceStreamOutPop d i q) s = .next t ∧ t = s)

/-- An access that is let through, to a slice whose bay is not LOADING and whose group is not frozen: SL_CTRL and SLG_START start HALTED slices, the halt bits ask RUNNING ones to halt; on a HALTED slice SL_PC, SL_LOOPk_ADDR and SL_STACK depth take their values; a read of SL_CORR answers the counts and clears them; a word written or read in the window is the word of the memory and slice the window names, and an access whose port the slice uses in this cycle waits. -/
def Obligations.sliceRegisters : Prop :=
  (∀ (s : State) (w : Who) (d i : Nat) (halt : Bool), i < 2048 ∧ s.reaches w (dieBase d + 0x200000 + slOff i 0x000) true = true ∧ s.slgLoading d (i / 16) = false ∧ (s.group d (i / 16)).frozen = false ∧ (s.slice d i).run = .halted →
    ∃ t, exec (.slStart w d i halt) s = .next t ∧ t.okay 0 ∧ (t.slice d i).run = .running ∧ (t.slice d i).pc = (s.slice d i).pc ∧ ∀ k, k ≠ i → t.slice d k = s.slice d k) ∧
  (∀ (s : State) (w : Who) (d i : Nat), i < 2048 ∧ s.reaches w (dieBase d + 0x200000 + slOff i 0x000) true = true ∧ s.slgLoading d (i / 16) = false ∧ (s.group d (i / 16)).frozen = false ∧ (s.slice d i).run = .running →
    ∃ t, exec (.slHalt w d i) s = .next t ∧ t.okay 0 ∧ t.slice d i = { s.slice d i with haltReq := true } ∧ ∀ k, k ≠ i → t.slice d k = s.slice d k) ∧
  (∀ (s : State) (w : Who) (d g k : Nat) (mask : BitVec 16), g < 128 ∧ k < 16 ∧ s.reaches w (dieBase d + 0x200000 + g * 0x4000) true = true ∧ s.slgLoading d g = false ∧ (s.group d g).frozen = false ∧ (s.slice d (16 * g + k)).run = .halted →
    ∃ t, exec (.slgStart w d g mask) s = .next t ∧ t.okay 0 ∧ (t.slice d (16 * g + k)).run = (if mask.getLsbD k then .running else .halted)) ∧
  (∀ (s : State) (w : Who) (d g k : Nat) (mask : BitVec 16), g < 128 ∧ k < 16 ∧ s.reaches w (dieBase d + 0x200000 + (g * 0x4000 + 4)) true = true ∧ (s.group d g).frozen = false ∧ (s.slice d (16 * g + k)).run = .running ∧ (s.slice d (16 * g + k)).haltReq = false →
    ∃ t, exec (.slgHalt w d g mask) s = .next t ∧ t.okay 0 ∧ (t.slice d (16 * g + k)).haltReq = mask.getLsbD k) ∧
  (∀ (s : State) (w : Who) (d i : Nat) (data : BitVec 32), i < 2048 ∧ s.reaches w (dieBase d + 0x200000 + slOff i 0x008) true = true ∧ s.slgLoading d (i / 16) = false ∧ (s.group d (i / 16)).frozen = false ∧ (s.slice d i).run = .halted →
    ∃ t, exec (.slPcWrite w d i data) s = .next t ∧ t.okay 0 ∧ t.slice d i = { s.slice d i with pc := BitVec.ofNat 10 data.toNat, inTrap := false }) ∧
  (∀ (s : State) (w : Who) (d i : Nat) (data : BitVec 32), i < 2048 ∧ s.reaches w (dieBase d + 0x200000 + slOff i 0x008) true = true ∧ s.slgLoading d (i / 16) = false ∧ (s.group d (i / 16)).frozen = false ∧ (s.slice d i).run ≠ .halted →
    ∃ t, exec (.slPcWrite w d i data) s = .next t ∧ t.rsp.resp = respTgtErr ∧ t.slice d i = s.slice d i) ∧
  (∀ (s : State) (w : Who) (d i k : Nat) (data : BitVec 32), i < 2048 ∧ k < 3 ∧ s.reaches w (dieBase d + 0x200000 + slOff i (0x0C0 + 8 * k)) true = true ∧ s.slgLoading d (i / 16) = false ∧ (s.group d (i / 16)).frozen = false ∧ (s.slice d i).run = .halted ∧ data.getLsbD 31 = true ∧ k ≤ openLevels (s.slice d i).loops →
    ∃ t, exec (.slLoopAddrWrite w d i k data) s = .next t ∧ t.okay 0 ∧ (tget LoopLevel.reset (t.slice d i).loops k).start = BitVec.ofNat 10 data.toNat ∧
      (tget LoopLevel.reset (t.slice d i).loops k).stop = data.extractLsb' 16 10 ∧ (tget LoopLevel.reset (t.slice d i).loops k).isOpen = true ∧ (t.slice d i).pc = (s.slice d i).pc) ∧
  (∀ (s : State) (w : Who) (d i : Nat) (data : BitVec 32), i < 2048 ∧ s.reaches w (dieBase d + 0x200000 + slOff i 0x0F8) true = true ∧ s.slgLoading d (i / 16) = false ∧ (s.group d (i / 16)).frozen = false ∧ (s.slice d i).run = .halted ∧ data.toNat % 8 ≤ 4 →
    ∃ t, exec (.slStackDepthWrite w d i data) s = .next t ∧ t.okay 0 ∧ t.slice d i = { s.slice d i with depth := data.toNat % 8 }) ∧
  (∀ (s : State) (w : Who) (d i : Nat), i < 2048 ∧ s.reaches w (dieBase d + 0x200000 + slOff i 0x01C) false = true ∧ s.slgLoading d (i / 16) = false ∧ (w.src ≠ 0x801 ∨ w.effect = true) →
    ∃ t, exec (.slCorrRead w d i) s = .next t ∧ t.okay ((s.slice d i).corrX.toNat + atLo (s.slice d i).corrY.toNat 8 + atLo (s.slice d i).corrI.toNat 16) ∧
      t.slice d i = { s.slice d i with corrX := 0, corrY := 0, corrI := 0 }) ∧
  (∀ (s : State) (w : Who) (d g off : Nat) (data : BitVec 64), g < 128 ∧ off < 0x2000 ∧ off % 4 = 0 ∧ s.reaches w (dieBase d + 0x200000 + (g * 0x4000 + 0x2000 + off)) true = true ∧ s.slgLoading d g = false ∧ (s.group d g).winMem = 0 ∧ s.winHeld d g true = false →
    ∃ t, exec (.sliceWindowWrite w d g off false data) s = .next t ∧ t.okay 0 ∧
      tget (s.slBlank d (16 * g + (s.group d g).winSlice.toNat)) (t.slice d (16 * g + (s.group d g).winSlice.toNat)).xmem (off / 4) = { data := BitVec.ofNat 40 (data.toNat % 2 ^ 24) }) ∧
  (∀ (s : State) (w : Who) (d g off : Nat) (data : BitVec 64), g < 128 ∧ off < 0x2000 ∧ off % 8 = 0 ∧ s.reaches w (dieBase d + 0x200000 + (g * 0x4000 + 0x2000 + off)) true = true ∧ s.slgLoading d g = false ∧ (s.group d g).winMem = 2 ∧ s.slHalted d (16 * g + (s.group d g).winSlice.toNat) = true →
    ∃ t, exec (.sliceWindowWrite w d g off true data) s = .next t ∧ t.okay 0 ∧
      tget (s.imBlank d (16 * g + (s.group d g).winSlice.toNat)) (t.slice d (16 * g + (s.group d g).winSlice.toNat)).imem (off / 8) = { data := BitVec.ofNat 40 data.toNat }) ∧
  (∀ (s : State) (w : Who) (d g off : Nat) (u : Upset), g < 128 ∧ off < 0x2000 ∧ off % 4 = 0 ∧ s.reaches w (dieBase d + 0x200000 + (g * 0x4000 + 0x2000 + off)) false = true ∧ s.slgLoading d g = false ∧ (s.group d g).winMem = 0 ∧ s.winHeld d g false = false ∧ (u = .none ∨ u = .single ∨ u = .double) ∧ ((tget (s.slBlank d (16 * g + (s.group d g).winSlice.toNat)) (s.slice d (16 * g + (s.group d g).winSlice.toNat)).xmem (off / 4)).health.hit u).bad = false →
    ∃ t, exec (.sliceWindowRead w d g off false u) s = .next t ∧
      t.okay ((tget (s.slBlank d (16 * g + (s.group d g).winSlice.toNat)) (s.slice d (16 * g + (s.group d g).winSlice.toNat)).xmem (off / 4)).data.toNat % 2 ^ 24)) ∧
  (∀ (s : State) (w : Who) (d g off : Nat) (u : Upset), g < 128 ∧ off < 0x2000 ∧ s.reaches w (dieBase d + 0x200000 + g * 0x4000 + 0x2000 + off) false = true ∧ s.winHeld d g false = true →
    ∃ t, exec (.sliceWindowRead w d g off false u) s = .next t ∧ t.rsp = s.rsp ∧ (t.die d).winWait.length = (s.die d).winWait.length + 1 ∧ ∀ k, t.slice d k = s.slice d k)

/-- REGISTER_WRITE of an address that no target has is answered NOTARGET and changes nothing else; one that the target's table refuses is answered DENIED and changes no register: only the answer, the log, the raised events and, for an F-die's event packet, the routers; one of RTR_CFG by the gable controller sets that register. RTR_CFG, RTR_RT_p and the snapshot and clear bits of RTR_CTRL act the same through their own rows. ACL_READ of a target of the part answers its 32 entries and changes no table; ACL_WRITE from a session with the table role, of well-formed entries for a target of the part, sets exactly the entries it names, owned by the session. -/
def Obligations.accessesAndTables : Prop :=
  (∀ (s : State) (w : Who) (a : BitVec 48) (eight : Bool) (data : BitVec 64), s.decode a.toNat = none →
    ∃ t, exec (.registerWrite w a eight data) s = .next t ∧ t.rsp = { resp := respNoTarget, data := 0 } ∧ s.changesOnly t [.rsp]) ∧
  (∀ (s : State) (w : Who) (a : BitVec 48) (eight : Bool) (data : BitVec 64) (g : Target) (n : Nat), s.decode a.toNat = some (g, n) ∧ g.isControl = true ∧ s.reaches w a.toNat true = false →
    ∃ t, exec (.registerWrite w a eight data) s = .next t ∧ t.rsp = { resp := respDenied, data := 0 } ∧ s.changesOnly t [.rsp, .routers, .log, .evr]) ∧
  (∀ (s : State) (w : Who) (d r : Nat) (data : BitVec 64), d < s.fdies ∧ r < 48 ∧ s.reaches w (rtrAddr d r 0x004) true = true ∧ w.src = 0x800 →
    ∃ t, exec (.registerWrite w (BitVec.ofNat 48 (rtrAddr d r 0x004)) false data) s = .next t ∧ t.okay 0 ∧
      (t.router d r).idleDly = BitVec.ofNat 10 data.toNat ∧ (t.router d r).keepAwake = data.getLsbD 16 ∧ (t.router d r).inq = (s.router d r).inq) ∧
  (∀ (s : State) (w : Who) (d r : Nat) (data : BitVec 32), r < 48 ∧ s.reaches w (rtrAddr d r 0x004) true = true ∧ w.src = 0x800 →
    ∃ t, exec (.rtrCfgWrite w d r data) s = .next t ∧ t.okay 0 ∧ (t.router d r).idleDly = BitVec.ofNat 10 data.toNat ∧ (t.router d r).keepAwake = data.getLsbD 16 ∧
      (t.router d r).quietAt = s.now ∧ (t.router d r).inq = (s.router d r).inq) ∧
  (∀ (s : State) (w : Who) (d r p : Nat) (data : BitVec 32), r < 48 ∧ p < 8 ∧ s.reaches w (rtrAddr d r (0x400 + p * 0x10)) true = true ∧ w.src = 0x800 ∧ s.hasPort d r p = true ∧ data.toNat % 256 ≤ 154 →
    ∃ t, exec (.rtrRtWrite w d r p data) s = .next t ∧ t.okay 0 ∧
      (tget Outp.reset (t.router d r).outs p).bucket = { rate := BitVec.ofNat 8 data.toNat, burst := data.extractLsb' 8 12, tok256 := bitsOf data.toNat 8 12 * 256, atPs := s.now }) ∧
  (∀ (s : State) (w : Who) (d r p : Nat) (data : BitVec 32), r < 48 ∧ p < 8 ∧ s.reaches w (rtrAddr d r (0x400 + p * 0x10)) true = true ∧ 154 < data.toNat % 256 →
    ∃ t, exec (.rtrRtWrite w d r p data) s = .next t ∧ t.routers = s.routers) ∧
  (∀ (s : State) (w : Who) (d r : Nat), r < 48 ∧ s.reaches w (rtrAddr d r 0x008) true = true →
    ∃ t, exec (.rtrSnap w d r) s = .next t ∧ t.okay 0 ∧ ∀ i, i < 64 → tget 0 (t.router d r).scred i = BitVec.ofNat 32 (s.rtrCred d r (i / 8) (i % 8))) ∧
  (∀ (s : State) (w : Who) (d r : Nat), r < 48 ∧ s.reaches w (rtrAddr d r 0x008) true = true →
    ∃ t, exec (.rtrSnapDie w d r) s = .next t ∧ t.okay 0 ∧ ∀ q i, q < 48 → i < 64 → tget 0 (t.router d q).scred i = BitVec.ofNat 32 (s.rtrCred d q (i / 8) (i % 8))) ∧
  (∀ (s : State) (w : Who) (d r : Nat), r < 48 ∧ s.reaches w (rtrAddr d r 0x008) true = true →
    ∃ t, exec (.rtrClrCnt w d r) s = .next t ∧ t.okay 0 ∧ t.router d r = { s.router d r with corr := 0, discard := 0, late := 0 }) ∧
  (∀ (s : State) (m : Nat), s.asks m 0x0400 = true ∧ (s.req m).len = 4 ∧ (s.req m).zero 2 2 = true ∧ s.tidOk ((s.req m).num 0 2) = true →
    ∃ t, exec (.aclRead m) s = .next t ∧ s.answered t m stOk ((List.range 32).flatMap fun i => leBytes 4 (tget AclEntry.reset (s.acl ((s.req m).num 0 2)).entries i).bits) ∧ t.acls = s.acls) ∧
  (∀ (s : State) (m : Nat), s.asks m 0x0401 = true ∧ s.hasRole m roleT = true ∧ 4 ≤ (s.req m).len ∧ (s.req m).len = 4 + 4 * (s.req m).num 3 1 ∧ s.tidOk ((s.req m).num 0 2) = true ∧ 1 ≤ (s.req m).num 3 1 ∧ (s.req m).num 2 1 + (s.req m).num 3 1 ≤ 32 ∧ ((List.range ((s.req m).num 3 1)).all fun i => aclWordOk ((s.req m).num (4 + 4 * i) 4)) = true →
    ∃ t, exec (.aclWrite m) s = .next t ∧ s.answered t m stOk [] ∧
      (∀ i, i < (s.req m).num 3 1 → tget AclEntry.reset (t.acl ((s.req m).num 0 2)).entries ((s.req m).num 2 1 + i) = aclEntryOf ((s.req m).num (4 + 4 * i) 4) (some (s.sid m))) ∧
      (∀ i, i < (s.req m).num 2 1 ∨ (s.req m).num 2 1 + (s.req m).num 3 1 ≤ i → tget AclEntry.reset (t.acl ((s.req m).num 0 2)).entries i = tget AclEntry.reset (s.acl ((s.req m).num 0 2)).entries i) ∧
      ∀ k, k ≠ (s.req m).num 0 2 → t.acl k = s.acl k)

/-- A well-formed request of a master that may inject takes the next free TAG: with no target it is answered NOTARGET at the master and nothing enters the network; with one it stands, with its SRC, TAG and DEST, behind what its input VC holds. A request past its timeout without a response is answered TIMEOUT and its TAG is quarantined, and freed when the quarantine has run out. A response to an outstanding request of a bay or hard master completes it; one to none counts as late. A control target answers a register read with the register and a read-modify-write TGTERR. -/
def Obligations.requestsAndResponses : Prop :=
  (∀ (s : State) (mid : BitVec 12) (rq : Req) (tag : BitVec 10), Req.wellFormed { rq with opc := forcePriv s mid rq.opc } = true ∧ s.mayInject mid = true ∧ opcClass (forcePriv s mid rq.opc) = some .req ∧ (s.master mid).freeTag = some tag ∧ s.decode rq.addr.toNat = none →
    ∃ t, exec (.requestInject mid rq) s = .next t ∧ ((t.master mid).out.map Outst.tag) = ((s.master mid).out.map Outst.tag) ++ [tag] ∧
      (((t.master mid).rsps.map fun k => (k.tag, k.resp)) = ((s.master mid).rsps.map fun k => (k.tag, k.resp)) ++ [(tag, respNoTarget)]) ∧ t.routers = s.routers) ∧
  (∀ (s : State) (mid : BitVec 12) (rq : Req) (tag : BitVec 10) (g : Target) (e node r p : Nat), Req.wellFormed { rq with opc := forcePriv s mid rq.opc } = true ∧ s.mayInject mid = true ∧ opcClass (forcePriv s mid rq.opc) = some .req ∧ rq.ord = false ∧ (s.master mid).freeTag = some tag ∧ s.decode rq.addr.toNat = some (g, e) ∧ s.sameExtent rq.addr.toNat rq.len.toNat = true ∧ s.flowOf mid .req rq.addr.toNat rq.len.toNat = none ∧ s.portOfDest (destOfSrc mid) = some (node, r, p) →
    ∃ t k, exec (.requestInject mid rq) s = .next t ∧ ((t.master mid).out.map Outst.tag) = ((s.master mid).out.map Outst.tag) ++ [tag] ∧
      tget [] (t.router node r).inq (8 * p) = tget [] (s.router node r).inq (8 * p) ++ [k] ∧ k.src = mid ∧ k.tag = tag ∧ k.addr = rq.addr ∧
      k.opc = forcePriv s mid rq.opc ∧ k.dest = s.destOf mid g ∧ k.data = rq.data ∧ k.rt = false) ∧
  (∀ (s : State) (mid : BitVec 12) (tag : BitVec 10) (o : Outst), (s.master mid).out.find? (fun o => o.tag == tag) = some o ∧ o.atPs + s.timeoutUs mid * psUs ≤ s.now ∧ ((s.master mid).rsps.any fun k => k.tag == tag) = false →
    ∃ t, exec (.requestTimeout mid tag) s = .next t ∧
      (((t.master mid).rsps.map fun k => (k.tag, k.resp)) = ((s.master mid).rsps.map fun k => (k.tag, k.resp)) ++ [(o.tag, respTimeout)]) ∧
      (t.master mid).quar = (s.master mid).quar ++ [(tag, s.now + 4 * (s.timeoutUs mid * psUs))] ∧ (t.master mid).out = (s.master mid).out) ∧
  (∀ (s : State) (mid : BitVec 12) (tag : BitVec 10), ((s.master mid).quar.all fun q => q.1 != tag || decide (q.2 ≤ s.now)) = true →
    ∃ t, exec (.tagQuarantineEnd mid tag) s = .next t ∧ ((t.master mid).quar.any fun q => q.1 == tag) = false ∧ (t.master mid).out = (s.master mid).out) ∧
  (∀ (s : State) (mid : BitVec 12) (k : Pkt) (rest : List Pkt) (o : Outst), isDmaMid mid = false ∧ mid ≠ 0x801 ∧ mid ≠ 0x8F0 ∧ mid ≠ 0x8F1 ∧ (s.master mid).rsps = k :: rest ∧ (s.master mid).out.find? (fun o => o.tag == k.tag) = some o →
    ∃ t, exec (.masterResponse mid) s = .next t ∧ (t.master mid).rsps = rest ∧ (t.master mid).out = (s.master mid).out.filter (fun x => x.tag != k.tag)) ∧
  (∀ (s : State) (k : Pkt) (rest : List Pkt) (d b : Nat), d < 8 ∧ b < 96 ∧ (s.master (bayMid d b)).rsps = k :: rest ∧ (s.master (bayMid d b)).out.find? (fun o => o.tag == k.tag) = none →
    ∃ t, exec (.masterResponse (bayMid d b)) s = .next t ∧ (t.master (bayMid d b)).rsps = rest ∧ (t.master (bayMid d b)).out = (s.master (bayMid d b)).out ∧
      (t.router d (bayRouter b)).late = satInc (s.router d (bayRouter b)).late) ∧
  (∀ (s : State) (node r p d : Nat) (ev : Bool) (k : Pkt) (rest : List Pkt) (e : Nat), s.takesNow node r p = true ∧ s.elementAt node r p = .control ev ∧ tget [] (s.router node r).inbox p = k :: rest ∧ k.cls = .req ∧ k.rt = false ∧ s.portAdmits node r p k = true ∧ s.decode k.addr.toNat = some (.fctl d, e) ∧ opcRead k.opc = true ∧ k.len = 3 ∧ k.addr.toNat % 4 = 0 ∧ k.addr.toNat % 0x1000000 < 0x100000 →
    ∃ t a, exec (.targetRequest node r p) s = .next t ∧ tget [] (t.router node r).inbox p = rest ∧
      tget [] (t.router node r).inq (8 * p + 2) = tget [] (s.router node r).inq (8 * p + 2) ++ [a] ∧ a.cls = .rsp ∧ a.src = k.src ∧ a.tag = k.tag ∧ a.resp = respOk ∧
      a.data = leBytes 4 (BitVec.ofNat 64 (s.dieIdWord d (k.addr.toNat % 0x1000000))).toNat) ∧
  (∀ (s : State) (node r p : Nat) (ev : Bool) (k : Pkt) (rest : List Pkt) (g : Target) (e : Nat), s.takesNow node r p = true ∧ s.elementAt node r p = .control ev ∧ tget [] (s.router node r).inbox p = k :: rest ∧ k.cls = .req ∧ k.rt = false ∧ s.portAdmits node r p k = true ∧ s.decode k.addr.toNat = some (g, e) ∧ opcRmw k.opc = true →
    ∃ t a, exec (.targetRequest node r p) s = .next t ∧ tget [] (t.router node r).inbox p = rest ∧
      tget [] (t.router node r).inq (8 * p + 2) = tget [] (s.router node r).inq (8 * p + 2) ++ [a] ∧ a.cls = .rsp ∧ a.src = k.src ∧ a.tag = k.tag ∧ a.resp = respTgtErr ∧
      t.acls = s.acls ∧ t.gable = s.gable ∧ t.dies = s.dies)

/-- In a clocked router that is not idle: the head packet of an input VC for this die gets its route, and RTR_CORR counts the corrected quarters of its flits; one whose header fails is dropped and counted; the packet an output's arbitration picks leaves its input VC and stands in the neighbour's input VC, in the link's output or at the local port, and the output is busy for its flits. A credit that comes back is available again. A packet at a local port of the H-die is delivered to its element; a posted write for a drained bay that its table admits is counted as discarded. A quiet router becomes idle after its delay; a wake ends it. -/
def Obligations.routersMovePackets : Prop :=
  (∀ (s : State) (node r p vc c : Nat) (k : Pkt) (rest : List Pkt), tget [] (s.router node r).inq (8 * p + vc) = k :: rest ∧ (s.router node r).idle = false ∧ s.hasPort node r p = true ∧ s.ridgeClock node = true ∧ k.route = none ∧ k.exit = none ∧ k.die.toNat = node ∧ node < 9 →
    ∃ t, exec (.routerPacketArrive node r p vc { corr := c, bad := .none }) s = .next t ∧
      tget [] (t.router node r).inq (8 * p + vc) = { k with chosen := true, route := some (ridx node k.x.toNat k.y.toNat) } :: rest ∧ (t.router node r).discard = (s.router node r).discard ∧
      (t.router node r).corr = satAdd (s.router node r).corr (min c (4 * k.flits))) ∧
  (∀ (s : State) (node r p vc : Nat) (k : Pkt) (rest : List Pkt) (u : FlitUpset), tget [] (s.router node r).inq (8 * p + vc) = k :: rest ∧ (s.router node r).idle = false ∧ s.hasPort node r p = true ∧ s.ridgeClock node = true ∧ k.route = none ∧ (u.bad = .header ∨ u.bad = .sideband) →
    ∃ t, exec (.routerPacketArrive node r p vc u) s = .next t ∧ (t.router node r).discard = satInc (s.router node r).discard) ∧
  (∀ (s : State) (node r out p v : Nat) (k : Pkt) (lv tk esc : Bool), (s.router node r).idle = false ∧ s.hasPort node r out = true ∧ s.ridgeClock node = true ∧ (tget Outp.reset (s.router node r).outs out).busyUntil ≤ s.now ∧ s.arbiter node r out = some (p, v, k, lv, tk, esc) ∧ 5 ≤ out →
    ∃ t, exec (.routerOutputGrant node r out) s = .next t ∧ tget [] (t.router node r).inq (8 * p + v) = (tget [] (s.router node r).inq (8 * p + v)).tail ∧
      tget [] (t.router node r).atPort (8 * out + (k.cls.vc + bnat (k.escape || esc || k.ord))) =
        tget [] (s.router node r).atPort (8 * out + (k.cls.vc + bnat (k.escape || esc || k.ord))) ++ [{ k with escape := k.escape || esc, route := none, noCred := false }] ∧
      (tget Outp.reset (t.router node r).outs out).busyUntil = s.now + s.nocPs k.flits) ∧
  (∀ (s : State) (node r out p v : Nat) (k : Pkt) (lv tk esc : Bool), (s.router node r).idle = false ∧ s.hasPort node r out = true ∧ s.ridgeClock node = true ∧ (tget Outp.reset (s.router node r).outs out).busyUntil ≤ s.now ∧ s.arbiter node r out = some (p, v, k, lv, tk, esc) ∧ out < 4 →
    ∃ t, exec (.routerOutputGrant node r out) s = .next t ∧
      tget [] (t.router node (neighbour node r out)).inq (8 * oppPort out + (k.cls.vc + bnat (k.escape || esc || k.ord))) =
        tget [] (s.router node (neighbour node r out)).inq (8 * oppPort out + (k.cls.vc + bnat (k.escape || esc || k.ord))) ++ [{ k with escape := k.escape || esc, route := none, noCred := false }]) ∧
  (∀ (s : State) (node r p v l : Nat) (k : Pkt) (lv tk esc : Bool), (s.router node r).idle = false ∧ s.hasPort node r 4 = true ∧ s.ridgeClock node = true ∧ (tget Outp.reset (s.router node r).outs 4).busyUntil ≤ s.now ∧ s.arbiter node r 4 = some (p, v, k, lv, tk, esc) ∧ siteOfRouter node r = some l →
    ∃ t, exec (.routerOutputGrant node r 4) s = .next t ∧
      (t.link (linkKeyOf node l)).outq = (s.link (linkKeyOf node l)).outq ++ frameOf { k with escape := k.escape || esc, route := none, noCred := false } ∧
      tget 0 (t.link (linkKeyOf node l)).spent (k.cls.vc + bnat (k.escape || esc || k.ord)) = tget 0 (s.link (linkKeyOf node l)).spent (k.cls.vc + bnat (k.escape || esc || k.ord)) + k.flits) ∧
  (∀ (s : State) (node r p vc : Nat), tget 0 (s.router node r).back (8 * p + vc) ≠ 0 ∧ s.ridgeClock node = true →
    ∃ t, exec (.creditReturn node r p vc) s = .next t ∧ tget 0 (t.router node r).back (8 * p + vc) = tget 0 (s.router node r).back (8 * p + vc) - 1 ∧
      tget 0 (t.router node r).spent (8 * p + vc) = tget 0 (s.router node r).spent (8 * p + vc) - 1 ∧ (t.router node r).inq = (s.router node r).inq) ∧
  (∀ (s : State) (r p vc c : Nat) (k : Pkt) (rest : List Pkt), tget [] (s.router 8 r).atPort (8 * p + vc) = k :: rest ∧ 5 ≤ p ∧ s.ridgeClock 8 = true ∧ k.cls = .req ∧ k.ue = false →
    ∃ t, exec (.localPortDeliver 8 r p vc { corr := c, bad := .none }) s = .next t ∧ tget [] (t.router 8 r).inbox p = tget [] (s.router 8 r).inbox p ++ [k] ∧
      tget [] (t.router 8 r).atPort (8 * p + vc) = rest ∧ tget 0 (t.router 8 r).back (8 * p + vc) = tget 0 (s.router 8 r).back (8 * p + vc) + k.flits) ∧
  (∀ (s : State) (d r p vc : Nat) (k : Pkt) (rest : List Pkt), d ≠ 8 ∧ tget [] (s.router d r).atPort (8 * p + vc) = k :: rest ∧ 5 ≤ p ∧ p ≠ 7 ∧ s.ridgeClock d = true ∧ k.cls = .pwr ∧ k.ue = false ∧ s.portWay d r p = .drained ∧ s.portAdmits d r p k = true →
    ∃ t, exec (.localPortDeliver d r p vc { corr := 0, bad := .none }) s = .next t ∧ (t.router d r).discard = satInc (s.router d r).discard ∧ (t.router d r).inbox = (s.router d r).inbox) ∧
  (∀ (s : State) (node r : Nat), s.hasRouter node r = true ∧ s.ridgeClock node = true ∧ (s.router node r).idle = false ∧ s.quiet node r = true ∧ (s.router node r).idleDly ≠ 0 ∧ (s.router node r).idleDly.toNat ≤ s.nocCycles (s.now - (s.router node r).quietAt) →
    ∃ t, exec (.routerIdleEntry node r) s = .next t ∧ t.router node r = { s.router node r with idle := true, wakeAt := none }) ∧
  (∀ (s : State) (node r : Nat), (s.router node r).idle = true ∧ (s.router node r).wakeAt.isSome = true ∧ s.ridgeClock node = true →
    ∃ t, exec (.routerWake node r) s = .next t ∧ (t.router node r).idle = false ∧ (t.router node r).wakeAt = none ∧ (t.router node r).quietAt = s.now ∧ (t.router node r).inq = (s.router node r).inq)

/-- A FLOW_ADMIT of a flow administrator with its fields in range, one mapped target over the whole range (for DRAM, a real-time port on every channel it touches), no overlap, a deadline below the port's timeout and not below the floor, a free FLOW_ID and meter slot, that passes checks 4 to 7 with the lowest free FLOW_ID, is admitted under that ID, and its meter starts full. A deadline below the floor of 120 ns is refused with reason 1 and nothing is admitted. FLOW_RELEASE stops the meter at once and keeps the ID for a time T; when T has passed, FLOW_RESERVATION_END frees it, and before that it changes nothing. FLOW_QUERY answers the flow's state, bound and counts. Tables are canonical where the admission is stated, an invariant of every step (everyStepKeepsTables). The state the checks see is the one whose heartbeat the request has restarted. -/
def Obligations.flowCommands : Prop :=
  (∀ (s : State) (m i : Nat) (f : Flow) (u v : State) (ls : List Leg), s.asks m 0x0200 = true ∧ s.gable.gstate = .running ∧ s.hasRole m roleF = true ∧ (s.req m).len = 36 ∧ u = s.heard m ∧ f = flowOfReq (s.req m) (u.sid m) ∧ flowFieldsOk u (s.req m) = true ∧ (∀ x ∈ u.touched f.base.toNat f.last, x ≠ none ∧ x = (u.touched f.base.toNat f.last).headD none) ∧ (f.last < 0xF00000000000 ∨ 0xF00100000000 ≤ f.base.toNat) ∧ tabWf Flow.reset s.flows = true ∧ (u.flows.any fun e => e.2.used && e.2.mid == f.mid && e.2.cls == f.cls && decide (e.2.base.toNat ≤ f.last) && decide (f.base.toNat ≤ e.2.last)) = false ∧ (f.cls = .req → f.deadline.toNat < u.timeoutUs f.mid * 1000) ∧ u.legs f = some ls ∧ 120 ≤ f.deadline.toNat ∧ (∀ l ∈ ls, 120 + 170 * ((l.req ++ l.ret).filter fun h => h.port == 4).length ≤ f.deadline.toNat) ∧ 1 ≤ i ∧ i ≤ 1023 ∧ (u.flow i).used = false ∧ (u.flow i).freeAt = none ∧ (∀ k ∈ List.range i, k = 0 ∨ (u.flow k).used = true ∨ (u.flow k).freeAt ≠ none) ∧ u.slotsUsed f.mid < slotsOf f.mid ∧ (if f.base.toNat < 2 ^ 42 then (u.flowChans f).foldlM (fun s c => s.addRtSrc c f.mid) u else some u) = some v ∧ ((v.modFlow i fun _ => v.reserve f).check4to7 i).status = stOk →
    ∃ t, exec (.flowAdmit m) s = .next t ∧ s.answered t m stOk (verdictBytes i ((v.modFlow i fun _ => v.reserve f).check4to7 i)) ∧ (t.flow i).used = true ∧ (t.flow i).meterOn = true ∧
      (t.flow i).owner = f.owner ∧ (t.flow i).tokens = f.burst.toNat * 1000000000000 ∧ (t.flow i).deadline = f.deadline) ∧
  (∀ (s : State) (m : Nat) (f : Flow) (u : State), s.asks m 0x0200 = true ∧ s.gable.gstate = .running ∧ s.hasRole m roleF = true ∧ (s.req m).len = 36 ∧ u = s.heard m ∧ f = flowOfReq (s.req m) (u.sid m) ∧ flowFieldsOk u (s.req m) = true ∧ (∀ x ∈ u.touched f.base.toNat f.last, x ≠ none ∧ x = (u.touched f.base.toNat f.last).headD none) ∧ (f.last < 0xF00000000000 ∨ 0xF00100000000 ≤ f.base.toNat) ∧ (u.flows.any fun e => e.2.used && e.2.mid == f.mid && e.2.cls == f.cls && decide (e.2.base.toNat ≤ f.last) && decide (f.base.toNat ≤ e.2.last)) = false ∧ (f.cls = .req → f.deadline.toNat < u.timeoutUs f.mid * 1000) ∧ f.deadline.toNat < 120 →
    ∃ t, exec (.flowAdmit m) s = .next t ∧ s.answered t m stRefusedDeadline (verdictBytes 0 { status := stRefusedDeadline, reason := 1 }) ∧ t.flows = s.flows ∧ t.routers = s.routers) ∧
  (∀ (s : State) (m i : Nat), s.asks m 0x0201 = true ∧ s.gable.gstate = .running ∧ (s.hasRole m roleF = true ∨ (s.flow i).owner = s.sid m) ∧ (s.req m).len = 2 ∧ (s.req m).num 0 2 = i ∧ 1 ≤ i ∧ i ≤ 1023 ∧ (s.flow i).used = true →
    ∃ t, exec (.flowRelease m) s = .next t ∧ s.answered t m stOk [] ∧ t.flow i = { s.flow i with used := false, meterOn := false, freeAt := some (s.now + (s.flow i).bound * 1000) } ∧
      (∀ k, k ≠ i → t.flow k = s.flow k) ∧ t.routers = s.routers) ∧
  (∀ (s : State) (m i : Nat), s.asks m 0x0202 = true ∧ s.gable.gstate = .running ∧ (s.hasRole m roleF = true ∨ (s.flow i).owner = s.sid m) ∧ (s.req m).len = 2 ∧ (s.req m).num 0 2 = i ∧ 1 ≤ i ∧ i ≤ 1023 ∧ (s.flow i).used = true →
    ∃ t, exec (.flowQuery m) s = .next t ∧
      s.answered t m stOk (leBytes 4 (bnat (s.flow i).violated) ++ leBytes 4 (s.flow i).bound ++ leBytes 8 (s.flow i).conf.toNat ++ leBytes 4 (s.flow i).demoted.toNat) ∧ t.flows = s.flows) ∧
  (∀ (s : State) (i e : Nat), (s.flow i).freeAt = some e ∧ e ≤ s.now →
    ∃ t, exec (.flowReservationEnd i) s = .next t ∧ t.flow i = Flow.reset ∧ s.changesOnly t [.routers, .flows, .lanesets, .links, .dram, .clk, .log, .evr]) ∧
  (∀ (s : State) (i e : Nat), (s.flow i).freeAt = some e ∧ s.now < e →
    ∃ t, exec (.flowReservationEnd i) s = .next t ∧ t = s)

/-- A request of a configuration administrator for a lane set of the part. LANE_UP of an OFF or FAULT set that awaits no key starts the PLL and is ACCEPTED; one behind a shut-down is held as PENDING_ENABLE. LANE_DOWN of an ACTIVE link shuts it down, of any other set turns it OFF at once. LANE_TEST enters the TEST sub-state of OFF, on a link only where both ends are OFF; LANE_INJECT flips one bit or sets the rate; LANE_LP sets the low-power choices; LANE_CLEAR clears the counters of every lane and the fault count. -/
def Obligations.laneCommands : Prop :=
  (∀ (s : State) (m k : Nat), s.asks m 0x0800 = true ∧ s.hasRoom m = true ∧ s.gable.gstate = .running ∧ s.hasRole m roleC = true ∧ (s.req m).len = 4 ∧ (s.req m).zero 3 1 = true ∧ (s.req m).laneKey = k ∧ (s.req m).laneOk s = true ∧ (s.laneset k).upCmd = none ∧ (s.laneset k).shutting = false ∧ s.awaitsKey k = false ∧ (laneKind k = 2 → (s.laneset k).mode ≠ 0) ∧ (s.laneset k).pllWait = false ∧ ((s.laneset k).state = .off ∨ (s.laneset k).state = .fault) →
    ∃ t, exec (.laneUp m) s = .next t ∧ s.answered t m stAccepted [] ∧ (t.laneset k).state = .off ∧ (t.laneset k).pllWait = true ∧ (t.laneset k).since = s.now ∧
      (t.laneset k).upCmd = some (s.token m (s.req m)) ∧ (t.laneset k).mode = (if laneKind k = 0 then 3 else if laneKind k = 1 then 2 else (s.laneset k).mode)) ∧
  (∀ (s : State) (m k : Nat), s.asks m 0x0800 = true ∧ s.hasRoom m = true ∧ s.gable.gstate = .running ∧ s.hasRole m roleC = true ∧ (s.req m).len = 4 ∧ (s.req m).zero 3 1 = true ∧ (s.req m).laneKey = k ∧ (s.req m).laneOk s = true ∧ (s.laneset k).upCmd = none ∧ (s.laneset k).shutting = true →
    ∃ t, exec (.laneUp m) s = .next t ∧ s.answered t m stAccepted [] ∧ t.laneset k = { s.laneset k with pendingEnable := true, upCmd := some (s.token m (s.req m)) }) ∧
  (∀ (s : State) (m k : Nat), s.asks m 0x0801 = true ∧ s.hasRoom m = true ∧ s.gable.gstate = .running ∧ s.hasRole m roleC = true ∧ (s.req m).len = 4 ∧ (s.req m).zero 3 1 = true ∧ (s.req m).laneKey = k ∧ (s.req m).laneOk s = true ∧ (s.laneset k).shutting = false ∧ (s.laneset k).state = .active ∧ laneKind k ≠ 2 →
    ∃ t, exec (.laneDown m) s = .next t ∧ s.answered t m stAccepted [] ∧ (t.laneset k).state = .active ∧ (t.laneset k).shutting = true ∧ (t.laneset k).byPartner = false ∧
      (t.laneset k).downReason = 0 ∧ (t.laneset k).downCmds = [s.token m (s.req m)]) ∧
  (∀ (s : State) (m k : Nat), s.asks m 0x0801 = true ∧ s.hasRoom m = true ∧ s.gable.gstate = .running ∧ s.hasRole m roleC = true ∧ (s.req m).len = 4 ∧ (s.req m).zero 3 1 = true ∧ (s.req m).laneKey = k ∧ (s.req m).laneOk s = true ∧ (s.laneset k).shutting = false ∧ ((s.laneset k).state ≠ .active ∨ laneKind k = 2) →
    ∃ t, exec (.laneDown m) s = .next t ∧ s.answered t m stOk [] ∧ (t.laneset k).state = .off ∧ (t.laneset k).test = false ∧ (t.laneset k).pllWait = false ∧ (t.laneset k).upCmd = none) ∧
  (∀ (s : State) (m k : Nat), s.asks m 0x0802 = true ∧ s.gable.gstate = .running ∧ s.hasRole m roleC = true ∧ (s.req m).len = 8 ∧ (s.req m).zero 3 1 = true ∧ (s.req m).zero 7 1 = true ∧ (s.req m).laneKey = k ∧ (s.req m).laneOk s = true ∧ (s.req m).num 4 1 ≤ 5 ∧ (s.req m).num 5 1 ≤ 1 ∧ (s.req m).num 6 1 ≤ 3 ∧ (s.laneset k).state = .off ∧ (s.laneset k).pllWait = false ∧ (s.partner k).all (fun j => (s.laneset j).state == .off && !(s.laneset j).pllWait) = true →
    ∃ t, exec (.laneTest m) s = .next t ∧ s.answered t m stOk [] ∧ (t.laneset k).test = true ∧ (t.laneset k).pattern = BitVec.ofNat 3 ((s.req m).num 4 1) ∧ (t.laneset k).inv = ((s.req m).num 5 1 == 1) ∧
      (t.laneset k).loopSel = BitVec.ofNat 2 ((s.req m).num 6 1) ∧ (t.laneset k).state = .off) ∧
  (∀ (s : State) (m k n : Nat), s.asks m 0x0803 = true ∧ s.gable.gstate = .running ∧ s.hasRole m roleC = true ∧ (s.req m).len = 8 ∧ (s.req m).laneKey = k ∧ (s.req m).laneOk s = true ∧ (s.req m).num 3 1 = n ∧ n < laneCount k ∧ (s.req m).zero 5 3 = true ∧ (s.laneset k).mayInject = true ∧ ((s.req m).num 4 1 = 0 ∨ (s.req m).num 4 1 = 0xFF ∨ 10 ≤ (s.req m).num 4 1 ∧ (s.req m).num 4 1 ≤ 31) →
    ∃ t, exec (.laneInject m) s = .next t ∧ s.answered t m stOk [] ∧
      ((s.req m).num 4 1 = 0xFF → ((t.laneset k).lane n).injCnt = satInc ((s.laneset k).lane n).injCnt ∧ ((t.laneset k).lane n).injN = ((s.laneset k).lane n).injN) ∧
      ((s.req m).num 4 1 ≠ 0xFF → (t.laneset k).lane n = { (s.laneset k).lane n with injN := BitVec.ofNat 5 ((s.req m).num 4 1), injAt := s.now })) ∧
  (∀ (s : State) (m k : Nat), s.asks m 0x0804 = true ∧ s.gable.gstate = .running ∧ s.hasRole m roleC = true ∧ (s.req m).len = 12 ∧ (s.req m).zero 3 1 = true ∧ (s.req m).zero 5 1 = true ∧ (s.req m).zero 10 2 = true ∧ (s.req m).laneKey = k ∧ (s.req m).laneOk s = true ∧ (s.req m).num 4 1 ≤ 3 ∧ (s.req m).num 6 2 < 1024 ∧ (s.req m).num 8 2 < 1024 ∧ (BitVec.ofNat 2 ((s.req m).num 4 1) &&& ~~~ (s.laneset k).lpSel = 0 ∨ s.laneOnFlow k ((s.req m).num 4 1) = false) ∧ ((s.req m).num 4 1 = 0 ∨ ¬ (k = 144 ∧ (s.node 0x8F00).source.toNat = 1 ∨ k = 145 ∧ (s.node 0x8F00).source.toNat = 2)) →
    ∃ t, exec (.laneLp m) s = .next t ∧ s.answered t m stOk [] ∧
      t.laneset k = { s.laneset k with lpSel := BitVec.ofNat 2 ((s.req m).num 4 1), lp1Idle := BitVec.ofNat 10 ((s.req m).num 6 2), lp2Idle := BitVec.ofNat 10 ((s.req m).num 8 2) }) ∧
  (∀ (s : State) (m k : Nat), s.asks m 0x0805 = true ∧ s.gable.gstate = .running ∧ s.hasRole m roleC = true ∧ (s.req m).len = 4 ∧ (s.req m).zero 3 1 = true ∧ (s.req m).laneKey = k ∧ (s.req m).laneOk s = true →
    ∃ t, exec (.laneClear m) s = .next t ∧ s.answered t m stOk [] ∧ (t.laneset k).faults = 0 ∧ (t.laneset k).state = (s.laneset k).state ∧
      ∀ n, n < laneCount k → (t.laneset k).lane n = ((s.laneset k).lane n).clearCounts s.now)

/-- The PLL lock moves a waiting set to DETECT, a quad to LOCK; a detect pulse, 100 microseconds after the last, that finds enough receivers moves to TRAIN and records which lanes have one, one that does not leaves DETECT; TRAIN ends after its fixed time in LOCK; of the good sets taken out of the code groups received, or sent by the partner in the package, TSA or TSB in TRAIN selects the preset it asks for; a CAP of the right partner in CAPS resolves the capabilities, one of a wrong partner gives FAULT with cause 4; a state that outlives its limit gives FAULT with its cause, counted; a FAULT set that may restart starts again. A user lane that has seen its K28.5 is aligned, and the quad is ACTIVE when every lane in use is. -/
def Obligations.laneBringUp : Prop :=
  (∀ (s : State) (k : Nat), s.hasKey k = true ∧ (s.laneset k).pllWait = true →
    ∃ t, exec (.lanePllLock k) s = .next t ∧ t.laneset k = { s.laneset k with pllWait := false, pllLock := true, state := if laneKind k = 2 then .lock else .detect, since := s.now }) ∧
  (∀ (s : State) (k : Nat) (found : List Nat), s.hasKey k = true ∧ laneKind k ≠ 2 ∧ (s.laneset k).state = .detect ∧ (s.laneset k).pulseAt.all (fun p => decide (p + 100 * psUs ≤ s.now)) = true ∧ enoughLanes k ((List.range (laneCount k)).filter found.contains).length = true →
    ∃ t, exec (.laneDetectPulse k found) s = .next t ∧ (t.laneset k).state = .train ∧ (t.laneset k).since = s.now ∧ (t.laneset k).pulseAt = none ∧
      ∀ n, n < laneCount k → (t.laneset k).lane n = { (s.laneset k).lane n with detected := found.contains n, ffe := 2 }) ∧
  (∀ (s : State) (k : Nat) (found : List Nat), s.hasKey k = true ∧ laneKind k ≠ 2 ∧ (s.laneset k).state = .detect ∧ (s.laneset k).pulseAt.all (fun p => decide (p + 100 * psUs ≤ s.now)) = true ∧ enoughLanes k ((List.range (laneCount k)).filter found.contains).length = false →
    ∃ t, exec (.laneDetectPulse k found) s = .next t ∧ t.laneset k = { s.laneset k with pulseAt := some s.now }) ∧
  (∀ (s : State) (k : Nat), s.hasKey k = true ∧ (s.laneset k).state = .train ∧ (s.laneset k).since + trainPs k ≤ s.now →
    ∃ t, exec (.laneTrainEnd k) s = .next t ∧ (t.laneset k).state = .lock ∧ (t.laneset k).since = s.now ∧ ∀ n, n < laneCount k → (t.laneset k).lane n = ((s.laneset k).lane n).fresh) ∧
  (∀ (s : State) (k n skew : Nat) (gs : Option (List (BitVec 10))) (y : List (BitVec 8)) (b : Bool), s.hasKey k = true ∧ laneKind k ≠ 2 ∧ n < laneCount k ∧ (s.rxLanes k).contains n = true ∧ (s.receivedSet k n gs).map (·.2) = some (some y) ∧ setGood y = true ∧ (s.laneset k).state = .train ∧ ((y.getD 1 0).toNat = setTsa ∨ (y.getD 1 0).toNat = setTsb) →
    ∃ t, exec (.orderedSetReceive k n gs b skew) s = .next t ∧ ((t.laneset k).lane n).ffe = BitVec.ofNat 3 (y.getD 4 0).toNat ∧ (t.laneset k).state = .train) ∧
  (∀ (s : State) (k n skew : Nat) (gs : Option (List (BitVec 10))) (y : List (BitVec 8)) (b : Bool), s.hasKey k = true ∧ laneKind k ≠ 2 ∧ n < laneCount k ∧ (s.rxLanes k).contains n = true ∧ (s.receivedSet k n gs).map (·.2) = some (some y) ∧ setGood y = true ∧ (s.laneset k).state = .caps ∧ (s.laneset k).cakGot < 8 ∧ (y.getD 1 0).toNat = setCap ∧ [(y.getD 6 0).toNat, (y.getD 7 0).toNat, (y.getD 8 0).toNat] = (if laneKind k = 1 then [8, 0, 160] else [40, 2, 240]) ∧ (y.getD 5 0).toNat = s.roleAt k →
    ∃ t, exec (.orderedSetReceive k n gs b skew) s = .next t ∧ (t.laneset k).state = .caps ∧ (t.laneset k).capOk = true ∧
      (t.laneset k).lpRes = BitVec.ofNat 2 (y.getD 9 0).toNat &&& (s.laneset k).lpSel ∧ (t.laneset k).feat = BitVec.ofNat 2 (y.getD 10 0).toNat) ∧
  (∀ (s : State) (k n skew : Nat) (gs : Option (List (BitVec 10))) (y : List (BitVec 8)) (b : Bool), s.hasKey k = true ∧ laneKind k ≠ 2 ∧ n < laneCount k ∧ (s.rxLanes k).contains n = true ∧ (s.receivedSet k n gs).map (·.2) = some (some y) ∧ setGood y = true ∧ (s.laneset k).state = .caps ∧ (s.laneset k).shutting = false ∧ (y.getD 1 0).toNat = setCap ∧ (y.getD 5 0).toNat ≠ s.roleAt k →
    ∃ t, exec (.orderedSetReceive k n gs b skew) s = .next t ∧ (t.laneset k).state = .fault ∧ (t.laneset k).cause = 4 ∧ (t.laneset k).faults = satInc (s.laneset k).faults) ∧
  (∀ (s : State) (k c : Nat), s.hasKey k = true ∧ s.laneOverdue k = some c ∧ (s.laneset k).shutting = false ∧ ((s.laneset k).state ≠ .active ∨ (s.link k).encrypted = false) →
    ∃ t, exec (.laneStateTimeout k) s = .next t ∧ (t.laneset k).state = .fault ∧ (t.laneset k).cause = BitVec.ofNat 5 c ∧ (t.laneset k).faults = satInc (s.laneset k).faults ∧ (t.laneset k).upCmd = none) ∧
  (∀ (s : State) (k : Nat), s.hasKey k = true ∧ (s.laneset k).state = .fault ∧ s.mayRestart (s.laneset k) = true →
    ∃ t, exec (.laneFaultRestart k) s = .next t ∧ (t.laneset k).state = (if laneKind k = 2 then .lock else .detect) ∧ (t.laneset k).since = s.now ∧ (t.laneset k).cause = (s.laneset k).cause) ∧
  (∀ (s : State) (k n : Nat) (inverted : Bool), s.hasKey k = true ∧ laneKind k = 2 ∧ (s.laneset k).state = .lock ∧ ((s.laneset k).used k).contains n = true ∧ ((s.laneset k).lane n).flag fAligned = false ∧ ∀ i ∈ (s.laneset k).used k, i = n ∨ ((s.laneset k).lane i).flag fAligned = true →
    ∃ t, exec (.userLaneLock k n inverted) s = .next t ∧ (t.laneset k).state = .active ∧ ((t.laneset k).lane n).flag fAligned = true ∧ ((t.laneset k).lane n).flag fPolinv = inverted)

/-- A symbol error of an ACTIVE lane is counted; the sixteenth within 1 microsecond on a set without spares ends ACTIVE, on a link with a free spare it loses the lane and asks for its repair. Drift within three symbols moves the fill, more gives FAULT with cause 7. A repair request that is not answered in 600 ns is sent again, three times at most, then FAULT LINK. Periodic injection counts a flip each 2^n bits. TXIDLE of a user lane is held, and puts an ACTIVE lane in LP1. A checker locks after a seed and 64 correct bits and counts from then; of 64 bits it counts every wrong one, and with 32 or more it searches again. -/
def Obligations.laneErrorsAndTests : Prop :=
  (∀ (s : State) (k n sym : Nat), s.hasKey k = true ∧ (s.laneset k).laneActive k n = true ∧ n < laneCount k ∧ (s.laneset k).lp2 = false ∧ (((s.laneset k).lane n).errAt.filter fun t => decide (s.now < t + psUs)).length < 15 →
    ∃ t, exec (.laneSymbolError k n sym) s = .next t ∧ ((t.laneset k).lane n).symerr = satInc ((s.laneset k).lane n).symerr ∧ (t.laneset k).state = (s.laneset k).state ∧ ((t.laneset k).lane n).lost = ((s.laneset k).lane n).lost) ∧
  (∀ (s : State) (k n sym : Nat), s.hasKey k = true ∧ laneKind k ≠ 0 ∧ (s.laneset k).laneActive k n = true ∧ n < laneCount k ∧ (s.laneset k).lp2 = false ∧ 15 ≤ (((s.laneset k).lane n).errAt.filter fun t => decide (s.now < t + psUs)).length →
    ∃ t, exec (.laneSymbolError k n sym) s = .next t ∧ (t.laneset k).state ≠ .active ∧ (t.laneset k).faults = satInc (s.laneset k).faults ∧ (t.laneset k).cause = 8) ∧
  (∀ (s : State) (k n sym : Nat), s.hasKey k = true ∧ laneKind k = 0 ∧ (s.laneset k).laneActive k n = true ∧ n < laneCount k ∧ (s.laneset k).lp2 = false ∧ ((s.laneset k).lane n).lost = false ∧ (carries (s.link k).rxMap n).isSome = true ∧ (s.link k).repairing = [] ∧ (s.freeSpare k).isSome = true ∧ 15 ≤ (((s.laneset k).lane n).errAt.filter fun t => decide (s.now < t + psUs)).length →
    ∃ t, exec (.laneSymbolError k n sym) s = .next t ∧ (t.laneset k).state = (s.laneset k).state ∧ ((t.laneset k).lane n).lost = true ∧ (t.link k).repairing = [n] ∧ (t.link k).rprTry = 1 ∧ (t.link k).rprAt = s.now) ∧
  (∀ (s : State) (k n d : Nat), s.hasKey k = true ∧ n < laneCount k ∧ ((s.laneset k).lane n).flag fAligned = true ∧ ((s.laneset k).state = .lock ∨ (s.laneset k).state = .caps ∨ (s.laneset k).state = .active) ∧ d ≤ 3 →
    ∃ t, exec (.laneDrift k n d) s = .next t ∧ (t.laneset k).lane n = { (s.laneset k).lane n with fill := 4 + d } ∧ (t.laneset k).state = (s.laneset k).state) ∧
  (∀ (s : State) (k n d : Nat), s.hasKey k = true ∧ n < laneCount k ∧ ((s.laneset k).lane n).flag fAligned = true ∧ ((s.laneset k).state = .lock ∨ (s.laneset k).state = .caps ∨ (s.laneset k).state = .active) ∧ 4 ≤ d →
    ∃ t, exec (.laneDrift k n d) s = .next t ∧ (t.laneset k).cause = 7 ∧ (t.laneset k).faults = satInc (s.laneset k).faults ∧ ((t.laneset k).state = .fault ∨ (t.laneset k).state = .off)) ∧
  (∀ (s : State) (k : Nat), s.hasKey k = true ∧ (s.laneset k).state = .active ∧ (s.link k).repairing ≠ [] ∧ (s.link k).rprAt + 600000 ≤ s.now ∧ (s.link k).rprTry < 3 ∧ (s.freeSpare k).isSome = true →
    ∃ t, exec (.rprRetryTimeout k) s = .next t ∧ t.link k = { s.link k with rprTry := (s.link k).rprTry + 1, rprAt := s.now } ∧ (t.laneset k).state = .active) ∧
  (∀ (s : State) (k : Nat), s.hasKey k = true ∧ (s.laneset k).state = .active ∧ (s.link k).repairing ≠ [] ∧ (s.link k).rprAt + 600000 ≤ s.now ∧ (3 ≤ (s.link k).rprTry ∨ s.freeSpare k = none) →
    ∃ t, exec (.rprRetryTimeout k) s = .next t ∧ (t.laneset k).state ≠ .active ∧ (t.laneset k).cause = 10 ∧ (t.laneset k).faults = satInc (s.laneset k).faults) ∧
  (∀ (s : State) (k n : Nat), s.hasKey k = true ∧ (s.laneset k).mayInject = true ∧ ((s.laneset k).lane n).injN ≠ 0 ∧ ((s.laneset k).lane n).injAt + (s.laneset k).psOfBits k (2 ^ ((s.laneset k).lane n).injN.toNat) ≤ s.now →
    ∃ t, exec (.lanePeriodicFlip k n) s = .next t ∧ ((t.laneset k).lane n).injCnt = satInc ((s.laneset k).lane n).injCnt ∧ ((t.laneset k).lane n).injAt = ((s.laneset k).lane n).injAt + (s.laneset k).psOfBits k (2 ^ ((s.laneset k).lane n).injN.toNat)) ∧
  (∀ (s : State) (k n : Nat) (on : Bool), s.hasKey k = true ∧ laneKind k = 2 ∧ n < laneCount k →
    ∃ t, exec (.userLaneTxidle k n on) s = .next t ∧ (t.laneset k).lane n = { (s.laneset k).lane n with txIdle := on } ∧ (t.laneset k).userLp1 k n = (on && (s.laneset k).laneActive k n)) ∧
  (∀ (s : State) (k n : Nat) (bits : Option (List Bool)), s.checking k n = true ∧ ((s.laneset k).lane n).flag fPrbsLock = false ∧ prbsFollows (s.laneset k).pattern.toNat (s.laneset k).inv 64 (s.prbsHeard k n bits) = true →
    ∃ t, exec (.prbsCheckerLock k n bits) s = .next t ∧ ((t.laneset k).lane n).flag fPrbsLock = true ∧ ((t.laneset k).lane n).prbsAt = some s.now ∧ ((t.laneset k).lane n).prbsErr = ((s.laneset k).lane n).prbsErr) ∧
  (∀ (s : State) (k n : Nat) (wrong : BitVec 64), s.checking k n = true ∧ ((s.laneset k).lane n).flag fPrbsLock = true ∧ 32 ≤ onesOf 64 wrong.toNat →
    ∃ t, exec (.prbsCheckerUnlock k n wrong) s = .next t ∧ ((t.laneset k).lane n).flag fPrbsLock = false ∧ ((t.laneset k).lane n).prbsErr = satAdd ((s.laneset k).lane n).prbsErr (onesOf 64 wrong.toNat) ∧
      ((t.laneset k).lane n).prbsBits = (s.laneset k).prbsBitsNow k ((s.laneset k).lane n) s.now) ∧
  (∀ (s : State) (k n : Nat) (wrong : BitVec 64), s.checking k n = true ∧ ((s.laneset k).lane n).flag fPrbsLock = true ∧ onesOf 64 wrong.toNat < 32 →
    ∃ t, exec (.prbsCheckerUnlock k n wrong) s = .next t ∧ (t.laneset k).lane n = { (s.laneset k).lane n with prbsErr := satAdd ((s.laneset k).lane n).prbsErr (onesOf 64 wrong.toNat) })

/-- An ACTIVE link whose direction has been idle for LP1_IDLE in units of 10 ns, with LP1 resolved and no repair and no flow holding it, sends four EIA sets and enters LP1; an exit pattern resumes the direction at both ends, and a lane whose K28.5 misses the kept boundary is lost; one whose two directions have been idle for LP2_IDLE microseconds sends four LQR at its initiator; a wake in LP2 begins the exit, one during the entry is held; EIA received puts the receiver in LP1, LQN ends the request. -/
def Obligations.laneLowPower : Prop :=
  (∀ (s : State) (k : Nat), s.hasKey k = true ∧ laneKind k ≠ 2 ∧ (s.laneset k).state = .active ∧ (s.laneset k).shutting = false ∧ (s.laneset k).lpRes.getLsbD 0 = true ∧ (s.laneset k).lp1Idle ≠ 0 ∧ (s.laneset k).txLp1 = false ∧ (s.laneset k).lp2 = false ∧ (s.laneset k).lqrSent = false ∧ s.idleFor k ((s.laneset k).lp1Idle.toNat * 10000) = true ∧ s.lpFree k = true →
    ∃ t, exec (.laneLp1Entry k) s = .next t ∧ (t.laneset k).txLp1 = true ∧ (t.laneset k).state = .active ∧ s.changesOnly t [.lanesets] ∧
      ((s.partner k).isSome = true → t.laneset k = { s.laneset k with txLp1 := true, setQ := List.replicate 4 { typ := 0x96, payload := List.replicate 8 0, lanes := dataLanes k (s.link k).txMap } })) ∧
  (∀ (s : State) (k : Nat), s.hasKey k = true ∧ (s.laneset k).state = .active ∧ (s.laneset k).txLp1 = true ∧ s.partner k ≠ some k →
    ∃ t, exec (.laneLp1Exit k []) s = .next t ∧ t.laneset k = { s.laneset k with txLp1 := false } ∧ (t.link k).idleTx = s.now ∧
      ∀ j, s.partner k = some j → t.laneset j = { s.laneset j with rxLp1 := false }) ∧
  (∀ (s : State) (k j n : Nat) (missed : List Nat), s.hasKey k = true ∧ (s.laneset k).state = .active ∧ (s.laneset k).txLp1 = true ∧ s.partner k = some j ∧ j ≠ k ∧ (s.laneset j).state = .active ∧ n < laneCount j ∧ missed.contains n = true →
    ∃ t, exec (.laneLp1Exit k missed) s = .next t ∧ (t.laneset k).txLp1 = false ∧ ((t.laneset j).state ≠ .active ∨ ((t.laneset j).lane n).lost = true)) ∧
  (∀ (s : State) (k : Nat), s.hasKey k = true ∧ laneKind k ≠ 2 ∧ (s.laneset k).state = .active ∧ (s.laneset k).shutting = false ∧ (s.laneset k).lpRes.getLsbD 1 = true ∧ (s.laneset k).lp2Idle ≠ 0 ∧ (s.laneset k).lp2 = false ∧ (s.laneset k).lqrSent = false ∧ s.lp2Initiator k = true ∧ s.bothIdle k ((s.laneset k).lp2Idle.toNat * psUs) = true ∧ s.lpFree k = true →
    ∃ t, exec (.laneLp2Request k) s = .next t ∧ (t.laneset k).lqrSent = true ∧ (t.laneset k).txLp1 = false ∧ (t.laneset k).state = .active ∧ ((s.laneset k).txLp1 = false → s.changesOnly t [.lanesets]) ∧
      ((s.partner k).isSome = true → t.laneset k = { s.laneset k with lqrSent := true, txLp1 := false, setQ := List.replicate 4 { typ := 0x66, payload := List.replicate 8 0, lanes := dataLanes k (s.link k).txMap } })) ∧
  (∀ (s : State) (k : Nat), s.hasKey k = true ∧ (s.laneset k).state = .active ∧ (s.laneset k).lp2 = true ∧ (s.laneset k).lp2Exit = none →
    ∃ t, exec (.laneLp2Exit k) s = .next t ∧ (t.laneset k).lp2 = true ∧ s.changesOnly t [.lanesets] ∧
      (if (s.partner k).any (fun j => (s.laneset j).lqrSent) then (t.laneset k).wakeHeld = true ∧ (t.laneset k).lp2Exit = none else (t.laneset k).lp2Exit = some s.now)) ∧
  (∀ (s : State) (k : Nat), s.hasKey k = true ∧ (s.laneset k).state = .active ∧ (s.laneset k).lqrSent = true ∧ (s.laneset k).lp2 = false ∧ (s.laneset k).lp2Exit = none →
    ∃ t, exec (.laneLp2Exit k) s = .next t ∧ t.laneset k = { s.laneset k with wakeHeld := true } ∧ s.changesOnly t [.lanesets]) ∧
  (∀ (s : State) (k n skew : Nat) (gs : Option (List (BitVec 10))) (y : List (BitVec 8)) (b : Bool), s.hasKey k = true ∧ laneKind k ≠ 2 ∧ n < laneCount k ∧ (s.rxLanes k).contains n = true ∧ (s.receivedSet k n gs).map (·.2) = some (some y) ∧ setGood y = true ∧ (s.laneset k).state = .active ∧ (s.laneset k).lp2 = false ∧ (y.getD 1 0).toNat = setEia →
    ∃ t, exec (.orderedSetReceive k n gs b skew) s = .next t ∧ (t.laneset k).rxLp1 = true ∧ (t.laneset k).state = .active) ∧
  (∀ (s : State) (k n skew : Nat) (j : Nat) (gs : Option (List (BitVec 10))) (y : List (BitVec 8)) (b : Bool), s.hasKey k = true ∧ laneKind k ≠ 2 ∧ n < laneCount k ∧ (s.rxLanes k).contains n = true ∧ (s.receivedSet k n gs).map (·.2) = some (some y) ∧ setGood y = true ∧ s.partner k = some j ∧ (s.laneset k).state = .active ∧ (s.laneset k).lp2 = false ∧ (y.getD 1 0).toNat = setLqn →
    ∃ t, exec (.orderedSetReceive k n gs b skew) s = .next t ∧ (t.laneset k).lqrSent = false ∧ (t.laneset k).wakeHeld = false ∧ (t.laneset k).lp2 = false)

/-- On a link between two dies that sends: a due NAK goes first; with no NAK, replay or message due and room in the retry buffer, the next flit goes as a DATA frame with the next SEQ, the last accepted SEQ as ACK and the credits that wait, and is held until acknowledged; with nothing due an IDLE frame goes and nothing is held. A NAK outstanding for NAK_TMO is due again; frames held without progress for REPLAY_TMO are replayed; a packet without credits for 100 microseconds at a guest's or host's link gives FAULT with cause 10. -/
def Obligations.linkFramesSent : Prop :=
  (∀ (s : State) (k : Nat), s.hasKey k = true ∧ laneKind k ≠ 2 ∧ (s.laneset k).sends = true ∧ s.inside k = true ∧ (s.link k).answers = [] ∧ (s.link k).nakDue = true →
    ∃ t, exec (.frameSlot k) s = .next t ∧ (t.link k).wire = (s.link k).wire ++ [(s.link k).plain 3] ∧ (t.link k).nakDue = false ∧ (t.link k).nakOut = true ∧
      (t.link k).nakTx = satInc (s.link k).nakTx ∧ (t.link k).txFrames = (s.link k).txFrames + 1 ∧ (t.link k).held = (s.link k).held) ∧
  (∀ (s : State) (k : Nat) (f : Frame) (rest : List Frame), s.hasKey k = true ∧ laneKind k ≠ 2 ∧ (s.laneset k).sends = true ∧ s.inside k = true ∧ (s.link k).answers = [] ∧ (s.link k).nakDue = false ∧ (s.link k).replayQ = [] ∧ (s.link k).encrypted = false ∧ (s.link k).lmsgDue = [] ∧ (s.link k).outq = f :: rest ∧ (s.link k).held.length < 256 →
    ∃ t, exec (.frameSlot k) s = .next t ∧ (t.link k).outq = rest ∧ (t.link k).nextSeq = (s.link k).nextSeq + 1 ∧
      (t.link k).held = (s.link k).held ++ [{ f with ftype := 1, seq := (s.link k).nextSeq, ack := (s.link k).lastAcc, cvc := BitVec.ofNat 3 (s.link k).creditsOut.1, ccnt := BitVec.ofNat 4 (s.link k).creditsOut.2 }] ∧
      (t.link k).wire = (s.link k).wire ++ [{ f with ftype := 1, seq := (s.link k).nextSeq, ack := (s.link k).lastAcc, cvc := BitVec.ofNat 3 (s.link k).creditsOut.1, ccnt := BitVec.ofNat 4 (s.link k).creditsOut.2 }]) ∧
  (∀ (s : State) (k : Nat), s.hasKey k = true ∧ laneKind k ≠ 2 ∧ (s.laneset k).sends = true ∧ s.inside k = true ∧ (s.link k).answers = [] ∧ (s.link k).nakDue = false ∧ (s.link k).replayQ = [] ∧ (s.link k).encrypted = false ∧ (s.link k).lmsgDue = [] ∧ (s.link k).outq = [] ∧ (s.link k).creditsOut.2 = 0 ∧ (s.link k).tagGroupTx = [] →
    ∃ t, exec (.frameSlot k) s = .next t ∧ (t.link k).wire = (s.link k).wire ++ [(s.link k).plain 0] ∧ (t.link k).held = (s.link k).held ∧ (t.link k).nextSeq = (s.link k).nextSeq ∧ s.changesOnly t [.links]) ∧
  (∀ (s : State) (k : Nat), s.linkUp k = true ∧ (s.link k).nakOut = true ∧ (s.link k).nakAt + nakTmo k ≤ s.now →
    ∃ t, exec (.nakTimeout k) s = .next t ∧ t.link k = { s.link k with nakDue := true } ∧ s.changesOnly t [.links]) ∧
  (∀ (s : State) (k : Nat), s.linkUp k = true ∧ (s.link k).held ≠ [] ∧ (s.link k).heldAt + replayTmo k ≤ s.now ∧ (s.link k).replayRun < 7 →
    ∃ t, exec (.replayTimeout k) s = .next t ∧ s.changesOnly t [.links] ∧
      t.link k = { s.link k with replayQ := (s.link k).held, replay := satInc (s.link k).replay, replayRun := (s.link k).replayRun + 1, heldAt := s.now }) ∧
  (∀ (s : State) (k : Nat), s.linkUp k = true ∧ (s.link k).held ≠ [] ∧ (s.link k).heldAt + replayTmo k ≤ s.now ∧ 7 ≤ (s.link k).replayRun →
    ∃ t, exec (.replayTimeout k) s = .next t ∧ (t.laneset k).state ≠ .active ∧ (t.laneset k).cause = 10 ∧ (t.laneset k).faults = satInc (s.laneset k).faults) ∧
  (∀ (s : State) (k v : Nat), s.linkUp k = true ∧ s.inside k = false ∧ v < 8 ∧ tget 0 (s.link k).stallAt v ≠ 0 ∧ s.stalled k v = true ∧ tget 0 (s.link k).stallAt v - 1 + 100 * psUs ≤ s.now →
    ∃ t, exec (.creditStallTimeout k) s = .next t ∧ (t.laneset k).state ≠ .active ∧ (t.laneset k).cause = 10 ∧ (t.laneset k).faults = satInc (s.laneset k).faults)

/-- On an ACTIVE link between two dies the oldest frame on the wire is taken. One with a symbol marked bad is counted and asks for a NAK, the expected SEQ staying. A good credit frame with the expected SEQ is accepted: it is acknowledged next, the expected SEQ goes on, and the credits it returns are held again; one with a SEQ of the last 256 is not taken again. From outside the package the code groups of the lanes spell the 80 bytes: a good IDLE frame counts as received, one with a wrong CRC or an invalid code group counts as an error. -/
def Obligations.linkFramesReceived : Prop :=
  (∀ (s : State) (k j : Nat) (f : Frame) (rest : List Frame), s.hasKey k = true ∧ laneKind k ≠ 2 ∧ (s.laneset k).state = .active ∧ (s.laneset k).rxLp1 = false ∧ (s.laneset k).lp2 = false ∧ s.partner k = some j ∧ j ≠ k ∧ (s.link j).wire = f :: rest ∧ seqType f.ftype.toNat = true ∧ (s.link k).symBad = true →
    ∃ t, exec (.frameReceive k none) s = .next t ∧ t.link j = { s.link j with wire := rest } ∧
      t.link k = { s.link k with crcErr := satInc (s.link k).crcErr, nakDue := (s.link k).nakDue || !(s.link k).nakOut, symBad := false, rxAt := s.now }) ∧
  (∀ (s : State) (k j : Nat) (f : Frame) (rest : List Frame), s.hasKey k = true ∧ laneKind k ≠ 2 ∧ (s.laneset k).state = .active ∧ (s.laneset k).rxLp1 = false ∧ (s.laneset k).lp2 = false ∧ s.partner k = some j ∧ j ≠ k ∧ (s.link j).wire = f :: rest ∧ (s.link k).symBad = false ∧ f.ftype = 2 ∧ f.seq = (s.link k).expSeq ∧ (s.link k).encrypted = false ∧ f.ccnt.toNat ≤ tget 0 (s.link k).spent f.cvc.toNat →
    ∃ t, exec (.frameReceive k none) s = .next t ∧ (t.link j).wire = rest ∧ (t.link k).expSeq = (s.link k).expSeq + 1 ∧ (t.link k).lastAcc = f.seq ∧ (t.link k).ackDue = true ∧
      (t.link k).rxFrames = (s.link k).rxFrames + 1 ∧ (t.link k).held = ((s.link k).held.filter fun h => !covers f.ack h.seq) ∧
      tget 0 (t.link k).spent f.cvc.toNat = tget 0 (s.link k).spent f.cvc.toNat - f.ccnt.toNat ∧ (t.laneset k).state = .active) ∧
  (∀ (s : State) (k j : Nat) (f : Frame) (rest : List Frame), s.hasKey k = true ∧ laneKind k ≠ 2 ∧ (s.laneset k).state = .active ∧ (s.laneset k).rxLp1 = false ∧ (s.laneset k).lp2 = false ∧ s.partner k = some j ∧ j ≠ k ∧ (s.link j).wire = f :: rest ∧ (s.link k).symBad = false ∧ seqType f.ftype.toNat = true ∧ f.seq ≠ (s.link k).expSeq ∧ ((s.link k).expSeq - f.seq).toNat ≤ 256 →
    ∃ t, exec (.frameReceive k none) s = .next t ∧ (t.link j).wire = rest ∧ (t.link k).expSeq = (s.link k).expSeq ∧ (t.link k).lastAcc = (s.link k).lastAcc ∧ (t.link k).nakDue = (s.link k).nakDue ∧
      (t.link k).spent = (s.link k).spent ∧ t.routers = s.routers) ∧
  (∀ (s : State) (k : Nat) (gs : List (List (BitVec 10))) (bs : List (BitVec 8)), s.hasKey k = true ∧ laneKind k ≠ 2 ∧ (s.laneset k).state = .active ∧ (s.laneset k).rxLp1 = false ∧ (s.laneset k).lp2 = false ∧ s.partner k = none ∧ (s.rxBytes k gs).2 = some bs ∧ ((s.rxBytes k gs).1.laneset k).state = .active ∧ ((s.rxBytes k gs).1.link k).symBad = false ∧ frameOk bs (readFrame bs) ((s.rxBytes k gs).1.link k).encrypted = true ∧ (readFrame bs).ftype = 0 →
    ∃ t, exec (.frameReceive k (some gs)) s = .next t ∧ (t.link k).rxFrames = (s.link k).rxFrames + 1 ∧ (t.link k).crcErr = (s.link k).crcErr ∧ (t.link k).expSeq = (s.link k).expSeq) ∧
  (∀ (s : State) (k : Nat) (gs : List (List (BitVec 10))) (bs : List (BitVec 8)), s.hasKey k = true ∧ laneKind k ≠ 2 ∧ (s.laneset k).state = .active ∧ (s.laneset k).rxLp1 = false ∧ (s.laneset k).lp2 = false ∧ s.partner k = none ∧ (s.rxBytes k gs).2 = some bs ∧ ((s.rxBytes k gs).1.laneset k).state = .active ∧ ((s.rxBytes k gs).1.link k).symBad = false ∧ crc32c (bytesAt bs 0 76) ≠ BitVec.ofNat 32 (numAt bs 76 4) →
    ∃ t, exec (.frameReceive k (some gs)) s = .next t ∧ (t.link k).crcErr = satInc (s.link k).crcErr ∧ (t.link k).rxFrames = (s.link k).rxFrames ∧ (t.link k).expSeq = (s.link k).expSeq) ∧
  (∀ (s : State) (k : Nat) (gs : List (List (BitVec 10))), s.hasKey k = true ∧ laneKind k ≠ 2 ∧ (s.laneset k).state = .active ∧ (s.laneset k).rxLp1 = false ∧ (s.laneset k).lp2 = false ∧ s.partner k = none ∧ (s.rxBytes k gs).2 = none ∧ ((s.rxBytes k gs).1.laneset k).state = .active →
    ∃ t, exec (.frameReceive k (some gs)) s = .next t ∧ (t.link k).crcErr = satInc (s.link k).crcErr ∧ (t.link k).rxFrames = (s.link k).rxFrames ∧ (t.link k).symBad = false)

/-- A TOS with the die's SEC and FRAC goes out on the spare, else on every data lane, once the die's time has passed into another microsecond; the link delay becomes VALID after 1,024 TOS, or 1.1 ms after the link is ACTIVE. In a shut-down DOWN with its REASON becomes due on a drained link, and the frame slot that takes it marks it sent; what is left after 100 microseconds is discarded; once DOWN has been sent and the partner's arrived, or 10 microseconds passed, the set is OFF, or in DETECT after the DOWN of a guest or host on a link that is not encrypted. SNAP copies the credit registers; CLR_CNT clears the error counters and no frame count. -/
def Obligations.linkTimeAndShutdown : Prop :=
  (∀ (s : State) (k : Nat), s.linkUp k = true ∧ laneKind k = 0 ∧ (s.laneset k).sends = true ∧ (s.guestOf k = none ∨ (s.laneset k).feat.getLsbD 0 = true) ∧ (s.link k).tosSentUs ≠ psOfCtr (s.time (laneDie k)).ctr / psUs →
    ∃ t, exec (.tosSend k) s = .next t ∧ t.link k = { s.link k with tosSentUs := psOfCtr (s.time (laneDie k)).ctr / psUs } ∧ s.changesOnly t [.links, .lanesets] ∧
      ((s.partner k).isSome = true → t.laneset k = { s.laneset k with setQ := (s.laneset k).setQ ++ [{ typ := 0x20, payload := leBytes 2 ((s.time (laneDie k)).ctr / 2 ^ 80) ++ leBytes 6 ((s.time (laneDie k)).ctr / 2 ^ 32), lanes := match s.tosSpare k with | some n => [n] | none => dataLanes k (s.link k).txMap }] })) ∧
  (∀ (s : State) (k : Nat), s.linkUp k = true ∧ laneKind k = 0 ∧ (1024 ≤ (s.link k).tosCount ∨ 1 ≤ (s.link k).tosCount ∧ (s.laneset k).since + 1100 * psUs ≤ s.now) ∧ (s.link k).delayValid = false →
    ∃ t, exec (.linkDelayValid k) s = .next t ∧ t.link k = { s.link k with delay := BitVec.ofNat 24 (s.linkDelay k (s.tosLane k)), delayValid := true }) ∧
  (∀ (s : State) (k : Nat), s.linkUp k = true ∧ (s.laneset k).shutting = true ∧ (s.link k).downSent = none ∧ (s.link k).drained = true →
    ∃ t, exec (.linkShutdownStep k) s = .next t ∧ t.link k = { s.link k with lmsgDue := [[0x03, (s.laneset k).downReason] ++ List.replicate 70 0] } ∧ s.changesOnly t [.links]) ∧
  (∀ (s : State) (k : Nat) (b : List (BitVec 8)) (rest : List (List (BitVec 8))), s.hasKey k = true ∧ laneKind k ≠ 2 ∧ (s.laneset k).sends = true ∧ s.inside k = true ∧ (s.link k).answers = [] ∧ (s.link k).nakDue = false ∧ (s.link k).replayQ = [] ∧ (s.link k).encrypted = false ∧ (s.link k).lmsgDue = b :: rest ∧ b.head? = some 3 ∧ (s.link k).gcapBad = false ∧ (s.link k).held.length < 256 →
    ∃ t, exec (.frameSlot k) s = .next t ∧ (t.link k).downSent = some s.now ∧ (t.link k).lmsgDue = rest ∧ (t.link k).nextSeq = (s.link k).nextSeq + 1) ∧
  (∀ (s : State) (k e : Nat), s.linkUp k = true ∧ (s.laneset k).shutting = true ∧ (s.link k).downSent = some e ∧ (s.link k).lmsgDue = [] ∧ ((s.link k).downGot = true ∨ e + 10 * psUs ≤ s.now) →
    ∃ t, exec (.linkDownWaitEnd k) s = .next t ∧ (t.laneset k).shutting = false ∧ (t.link k).outq = [] ∧ (t.link k).held = [] ∧
      (t.laneset k).state = (if (s.laneset k).byPartner && !s.inside k && !(s.link k).encrypted then .detect else .off)) ∧
  (∀ (s : State) (k : Nat), s.linkUp k = true ∧ (s.laneset k).shutting = true ∧ (s.link k).downSent = none ∧ ((s.link k).lmsgDue.any fun b => b.head? == some 3) = false ∧ (s.link k).drainAt + 100 * psUs ≤ s.now →
    ∃ t, exec (.linkDrainTimeout k) s = .next t ∧ (t.link k).drained = true ∧ s.changesOnly t [.links]) ∧
  (∀ (s : State) (w : Who) (k : Nat), s.reaches w (linkAddr k 0x008) true = true →
    ∃ t, exec (.linkSnap w k) s = .next t ∧ t.okay 0 ∧ (t.link k).crcErr = (s.link k).crcErr ∧ ∀ i, i < 8 → tget 0 (t.link k).scred i = BitVec.ofNat 32 (s.linkCredReg k i)) ∧
  (∀ (s : State) (w : Who) (k : Nat), s.reaches w (linkAddr k 0x008) true = true →
    ∃ t, exec (.linkClrCnt w k) s = .next t ∧ t.okay 0 ∧ t.link k = { s.link k with crcErr := 0, nakTx := 0, replay := 0, repairs := 0, tagFail := 0 })

/-- On an ACTIVE guest link a GCAP that passes every check brings the guest up with that capability and is answered with a GACK of status 0; one that fails a check is answered with the status of the first check that fails and the guest stays as it was. Without an accepted GCAP after 1 ms the link gives FAULT. A guest's packet before its GCAP is accepted has its credits returned and goes nowhere; a request whose SRC lies outside the declared range is answered DENIED; a request that passes every check is booked and goes on into the network with its DEST. A malformed host request is answered TGT_ERR; one to an unmapped address is booked and answered NO_TARGET; any other is booked and goes on into the network. Each orphan clears 8 ms after it was orphaned. -/
def Obligations.guestsAndHosts : Prop :=
  (∀ (s : State) (k g : Nat) (b : List (BitVec 8)), s.guestOf k = some g ∧ s.hasKey k = true ∧ (s.laneset k).state = .active ∧ s.gcapStatus k g (bytesAt b 0 72) = 0 ∧ ((s.link k).guestOk = true ∨ ∀ v ∈ List.range 8, 64 - tget 0 (s.link k).spent v ≤ (gcapOf (bytesAt b 0 72)).rxDepth.getD v 0) →
    ∃ t, exec (.gcapReceive k b) s = .next t ∧ (t.link k).guestOk = true ∧ (t.guest g).up = true ∧ (t.guest g).cap = gcapOf (bytesAt b 0 72) ∧
      (t.link k).lmsgDue = (s.link k).lmsgDue ++ [gackBytes 0 g (s.laneset k).feat] ∧ (t.laneset k).state = .active) ∧
  (∀ (s : State) (k g : Nat) (b : List (BitVec 8)), s.guestOf k = some g ∧ s.hasKey k = true ∧ (s.laneset k).state = .active ∧ s.gcapStatus k g (bytesAt b 0 72) ≠ 0 →
    ∃ t, exec (.gcapReceive k b) s = .next t ∧ t.link k = { s.link k with gcapBad := true, lmsgDue := (s.link k).lmsgDue ++ [gackBytes (s.gcapStatus k g (bytesAt b 0 72)) g (s.laneset k).feat] } ∧
      t.guests = s.guests) ∧
  (∀ (s : State) (k : Nat), (s.guestOf k).isSome = true ∧ s.hasKey k = true ∧ (s.laneset k).state = .active ∧ (s.link k).guestOk = false ∧ (s.link k).activeAt + psMs ≤ s.now →
    ∃ t, exec (.gcapTimeout k) s = .next t ∧ (t.laneset k).state ≠ .active ∧ (t.laneset k).cause = 3 ∧ (t.laneset k).faults = satInc (s.laneset k).faults) ∧
  (∀ (s : State) (k g : Nat) (h : BitVec 512) (data : List (BitVec 8)) (p : Bool), s.guestOf k = some g ∧ (s.laneset k).state = .active ∧ (s.link k).guestOk = false →
    ∃ t, exec (.guestPacketReceive k h data p) s = .next t ∧ s.changesOnly t [.links] ∧ (t.link k).answers = (s.link k).answers) ∧
  (∀ (s : State) (k g : Nat) (h : BitVec 512) (data : List (BitVec 8)) (p : Bool), s.guestOf k = some g ∧ (s.laneset k).state = .active ∧ (s.link k).guestOk = true ∧ classOfNum (bitsOf h.toNat 28 2) = .req ∧ (s.guest g).cap.holds (pktOfHeader h.toNat).src = false →
    ∃ t, exec (.guestPacketReceive k h data p) s = .next t ∧ ((t.link k).answers.map fun a => (a.src, a.tag, a.resp)) = ((s.link k).answers.map fun a => (a.src, a.tag, a.resp)) ++ [((pktOfHeader h.toNat).src, (pktOfHeader h.toNat).tag, respDenied)] ∧
      t.guests = s.guests) ∧
  (∀ (s : State) (k g node l e : Nat) (h : BitVec 512) (data : List (BitVec 8)) (p : Bool) (a : Target), s.guestOf k = some g ∧ (s.laneset k).state = .active ∧ (s.link k).guestOk = true ∧ classOfNum (bitsOf h.toNat 28 2) = .req ∧ (s.guest g).cap.holds (pktOfHeader h.toNat).src = true ∧ headerOk h.toNat = true ∧ ((s.guest g).fromGuest.filter fun o => !o.orphan).length < (s.guest g).cap.maxOut ∧ (((s.guest g).fromGuest.zip (s.guest g).fromSrc).any fun x => x.1.tag == (pktOfHeader h.toNat).tag && x.2 == (pktOfHeader h.toNat).src) = false ∧ s.decode (pktOfHeader h.toNat).addr.toNat = some (a, e) ∧ s.sameExtent (pktOfHeader h.toNat).addr.toNat (pktOfHeader h.toNat).len.toNat = true ∧ s.flowOf (pktOfHeader h.toNat).src .req (pktOfHeader h.toNat).addr.toNat (pktOfHeader h.toNat).len.toNat = none ∧ siteOfKey k = some (node, l) →
    ∃ t q, exec (.guestPacketReceive k h data p) s = .next t ∧ (t.guest g).fromSrc = (s.guest g).fromSrc ++ [(pktOfHeader h.toNat).src] ∧ ((t.guest g).fromGuest.map Outst.tag) = ((s.guest g).fromGuest.map Outst.tag) ++ [(pktOfHeader h.toNat).tag] ∧
      tget [] (t.router node (routerOfSite node l)).inq (32 + MsgClass.req.vc) = tget [] (s.router node (routerOfSite node l)).inq (32 + MsgClass.req.vc) ++ [q] ∧ q.src = (pktOfHeader h.toNat).src ∧
      q.tag = (pktOfHeader h.toNat).tag ∧ q.addr = (pktOfHeader h.toNat).addr ∧ q.dest = s.destOf (pktOfHeader h.toNat).src a ∧ q.rt = false) ∧
  (∀ (s : State) (i : Nat) (h : BitVec 512) (data : List (BitVec 8)) (p : Bool), i < 2 ∧ (s.laneset (144 + i)).state = .active ∧ (classOfNum (bitsOf h.toNat 28 2) = .req) ∧ headerOk h.toNat = false →
    ∃ t, exec (.hostRequestReceive i h data p) s = .next t ∧ ((t.link (144 + i)).answers.map fun a => (a.src, a.tag, a.resp)) = ((s.link (144 + i)).answers.map fun a => (a.src, a.tag, a.resp)) ++ [((pktOfHeader h.toNat).src, (pktOfHeader h.toNat).tag, respTgtErr)] ∧
      t.masters = s.masters) ∧
  (∀ (s : State) (i : Nat) (h : BitVec 512) (data : List (BitVec 8)) (p : Bool) (tag : BitVec 10), i < 2 ∧ (s.laneset (144 + i)).state = .active ∧ (classOfNum (bitsOf h.toNat 28 2) = .req) ∧ headerOk h.toNat = true ∧ (s.master (hostMid i)).out.length < 256 ∧ ((s.master (hostMid i)).out.any fun o => o.hostTag == (pktOfHeader h.toNat).tag && !o.orphan) = false ∧ (s.master (hostMid i)).freeTag = some tag ∧ s.decode (pktOfHeader h.toNat).addr.toNat = none →
    ∃ t, exec (.hostRequestReceive i h data p) s = .next t ∧ ((t.master (hostMid i)).out.map fun o => (o.tag, o.hostTag)) = ((s.master (hostMid i)).out.map fun o => (o.tag, o.hostTag)) ++ [(tag, (pktOfHeader h.toNat).tag)] ∧
      ((t.master (hostMid i)).rsps.map fun r => (r.tag, r.resp)) = ((s.master (hostMid i)).rsps.map fun r => (r.tag, r.resp)) ++ [(tag, respNoTarget)] ∧ t.routers = s.routers) ∧
  (∀ (s : State) (i e node r n : Nat) (h : BitVec 512) (data : List (BitVec 8)) (p : Bool) (tag : BitVec 10) (a : Target), i < 2 ∧ (s.laneset (144 + i)).state = .active ∧ (classOfNum (bitsOf h.toNat 28 2) = .req) ∧ headerOk h.toNat = true ∧ (pktOfHeader h.toNat).ord = false ∧ (s.master (hostMid i)).out.length < 256 ∧ ((s.master (hostMid i)).out.any fun o => o.hostTag == (pktOfHeader h.toNat).tag && !o.orphan) = false ∧ (s.master (hostMid i)).freeTag = some tag ∧ s.decode (pktOfHeader h.toNat).addr.toNat = some (a, e) ∧ s.sameExtent (pktOfHeader h.toNat).addr.toNat (pktOfHeader h.toNat).len.toNat = true ∧ s.flowOf (hostMid i) .req (pktOfHeader h.toNat).addr.toNat (pktOfHeader h.toNat).len.toNat = none ∧ s.portOfDest (destOfSrc (hostMid i)) = some (node, r, n) →
    ∃ t q, exec (.hostRequestReceive i h data p) s = .next t ∧ ((t.master (hostMid i)).out.map fun o => (o.tag, o.hostTag)) = ((s.master (hostMid i)).out.map fun o => (o.tag, o.hostTag)) ++ [(tag, (pktOfHeader h.toNat).tag)] ∧
      tget [] (t.router node r).inq (8 * n) = tget [] (s.router node r).inq (8 * n) ++ [q] ∧ q.src = hostMid i ∧ q.tag = tag ∧ q.addr = (pktOfHeader h.toNat).addr ∧ q.dest = s.destOf (hostMid i) a ∧ q.rt = false) ∧
  (∀ (s : State) (g : Nat), g < s.fuses.part.sites →
    ∃ t, exec (.orphanExpire g) s = .next t ∧ (t.guest g).fromGuest.zip (t.guest g).fromSrc = (((s.guest g).fromGuest.zip (s.guest g).fromSrc).filter fun e => !(e.1.orphan && decide (e.1.orphanAt + 8 * psMs ≤ s.now))) ∧ (t.guest g).cap = (s.guest g).cap ∧ s.changesOnly t [.guests])

/-- TIME_GET answers the master's time, state and source; TIME_STATUS the alignment of a die. TIME_SOURCE selects a source, FREE for none and HOLDOVER until it locks. TIME_SET of a session with the timing role gives SEC to the next pulse under PPS; otherwise it, and TIME_ADJ under no source, program a change 100 to 500 microseconds ahead and wait for it with their answer. At its apply instant a change leaves the queue, every die and the master take its rate, every running counter its step, with which the instants still to come move, and the waiting request is answered. TIME_PIN configures an idle pin; TIME_NOTIFY takes the destinations. -/
def Obligations.timeCommands : Prop :=
  (∀ (s : State) (m : Nat), s.asks m 0x0500 = true ∧ s.gable.gstate = .running ∧ (s.req m).len = 0 →
    ∃ t, exec (.timeGet m) s = .next t ∧ t.tb = s.tb ∧
      s.answered t m stOk (leBytes 4 (secOfCtr (s.time 8).ctr) ++ leBytes 8 (fracOfCtr (s.time 8).ctr) ++ [BitVec.ofNat 8 s.tb.mstate.code, s.tb.src.zeroExtend 8, 0, 0])) ∧
  (∀ (s : State) (m d : Nat), s.asks m 0x0504 = true ∧ s.gable.gstate = .running ∧ (s.req m).len = 4 ∧ (s.req m).num 0 1 = d ∧ d < s.fdies ∧ (s.req m).zero 1 3 = true →
    ∃ t, exec (.timeStatus m) s = .next t ∧ t.times = s.times ∧
      s.answered t m stOk ([BitVec.ofNat 8 (s.time d).mon.state.code, (s.time d).mon.hops.zeroExtend 8, (s.time d).mon.parent.zeroExtend 8, 0] ++ leBytes 4 (ofInt 32 (s.time d).mon.offset).toNat ++ leBytes 4 (s.link (s.parentKey d)).delayReg)) ∧
  (∀ (s : State) (m : Nat), s.asks m 0x0502 = true ∧ s.gable.gstate = .running ∧ s.hasRole m roleM = true ∧ (s.req m).len = 8 ∧ (s.req m).num 0 1 < 3 ∧ (s.req m).num 1 1 < 2 ∧ ((s.req m).num 2 1 = 0 ∨ (s.req m).num 2 1 = 8) ∧ (s.req m).zero 3 1 = true →
    ∃ t, exec (.timeSource m) s = .next t ∧ s.answered t m stOk [] ∧ t.tb.src = BitVec.ofNat 2 ((s.req m).num 0 1) ∧ t.tb.mstate = (if (s.req m).num 0 1 = 0 then .free else .holdover) ∧
      t.tb.ppsPin = ((s.req m).num 1 1 == 1) ∧ t.tb.laneSel = ((s.req m).num 2 1 == 8) ∧ t.tb.firstPulse = true ∧ t.tb.pend = s.tb.pend) ∧
  (∀ (s : State) (m : Nat), s.asks m 0x0501 = true ∧ s.gable.gstate = .running ∧ s.hasRole m roleM = true ∧ (s.req m).len = 16 ∧ (s.req m).zero 4 4 = true ∧ (s.req m).num 8 8 < 2 ^ 48 ∧ s.tb.src = 1 →
    ∃ t, exec (.timeSet m) s = .next t ∧ s.answered t m stOk [] ∧ t.tb = { s.tb with secNext := some (BitVec.ofNat 32 ((s.req m).num 0 4)) } ∧ t.times = s.times) ∧
  (∀ (s : State) (m : Nat), s.asks m 0x0501 = true ∧ s.gable.gstate = .running ∧ s.hasRole m roleM = true ∧ (s.req m).len = 16 ∧ (s.req m).zero 4 4 = true ∧ (s.req m).num 8 8 < 2 ^ 48 ∧ s.tb.src ≠ 1 →
    ∃ t, exec (.timeSet m) s = .next t ∧ (t.mbx m).deferred = true ∧ (t.mbx m).ringing = true ∧ t.times = s.times ∧
      ∃ p ∈ t.tb.pend, p.mbx = some (s.token m (s.req m)) ∧ p.rate = none ∧ s.ps 8 + 100000000 ≤ p.applyAt ∧ p.applyAt ≤ s.ps 8 + 500000000 ∧
        p.setTo = some ((s.req m).num 0 4 * 2 ^ 80 + (s.req m).num 8 8 * 2 ^ 32) ∧ p.stepBy = 0) ∧
  (∀ (s : State) (m : Nat), s.asks m 0x0503 = true ∧ s.gable.gstate = .running ∧ s.hasRole m roleM = true ∧ (s.req m).len = 4 ∧ -200000 ≤ (s.req m).ppb ∧ (s.req m).ppb ≤ 200000 ∧ s.tb.src = 0 →
    ∃ t, exec (.timeAdj m) s = .next t ∧ (t.mbx m).deferred = true ∧ t.times = s.times ∧
      ∃ p ∈ t.tb.pend, p.mbx = some (s.token m (s.req m)) ∧ p.rate = some (rateWord (s.req m).ppb) ∧ p.stepBy = 0 ∧ p.setTo = none ∧ s.ps 8 + 100000000 ≤ p.applyAt ∧ p.applyAt ≤ s.ps 8 + 500000000) ∧
  (∀ (s : State) (p : PendTime) (rest : List PendTime) (v : Int), s.tb.pend = p :: rest ∧ p.applyAt ≤ s.ps 8 ∧ v = (match p.setTo with | some c => Int.ofNat c - Int.ofNat (ctrOfPs p.applyAt) | none => p.stepBy) →
    ∃ t, exec .timeApplyInstant s = .next t ∧ (v = 0 → t.tb.pend = rest) ∧ (v ≠ 0 → t.tb.pend = rest.map fun q => { q with applyAt := Int.toNat (Int.ofNat q.applyAt + stepPs v) }) ∧ (∀ r, p.rate = some r → ∀ d, (d < s.fdies ∨ d = 8) → (t.time d).rate = r) ∧
      (∀ d, (d < s.fdies ∨ d = 8) → (s.time d).stopped = false → v ≠ 0 → (t.time d).ctr = ctrMove (s.time d).ctr v) ∧
      ∀ tok, p.mbx = some tok → (s.mbx (sidMbx (tok / 65536))).deferred = true → (s.mbx (sidMbx (tok / 65536))).request.seq = tok % 65536 →
        (t.mbx (sidMbx (tok / 65536))).ringing = false ∧ (t.mbx (sidMbx (tok / 65536))).rspValid = true) ∧
  (∀ (s : State) (m d n : Nat), s.asks m 0x0505 = true ∧ s.gable.gstate = .running ∧ s.hasRole m roleM = true ∧ (s.req m).len = 8 ∧ (s.req m).num 0 1 = d ∧ (s.req m).num 1 1 = n ∧ (d < s.fdies ∨ d = 8) ∧ n < 8 ∧ (s.req m).zero 2 2 = true ∧ tpCfgOk d ((s.req m).num 4 4) = true ∧ (s.tpin d n).fifo = [] ∧ (s.tpin d n).sched = [] →
    ∃ t, exec (.timePin m) s = .next t ∧ s.answered t m stOk [] ∧ t.tpin d n = (s.tpin d n).configure ((s.req m).num 4 4)) ∧
  (∀ (s : State) (m : Nat), s.asks m 0x0506 = true ∧ s.gable.gstate = .running ∧ s.hasRole m roleM = true ∧ (s.req m).num 0 1 ≤ 16 ∧ (s.req m).zero 1 1 = true ∧ (s.req m).len = 2 + 2 * (s.req m).num 0 1 →
    ∃ t, exec (.timeNotify m) s = .next t ∧ s.answered t m stOk [] ∧ t.tb = { s.tb with notify := (List.range ((s.req m).num 0 1)).map fun i => BitVec.ofNat 16 ((s.req m).num (2 + 2 * i) 2) })

/-- A pulse on an input that is no source or does not see it changes nothing. The first one programs a step; one outside 10 microseconds is rejected and counted; one inside is accepted, steers within 100 ppm of the nominal rate, and locks the master after four in a row within 1 microsecond. Without an accepted pulse for 1.5 s a LOCKED master holds over. A lane source that is ACTIVE is compared against the nominal frequency and steers the rate to it; 10 ms within 0.1 ppm lock the master. A whole second is announced once, as one TIME packet to each destination. A die not aligned 2 ms after MEASURE began leaves it; the parent of a die is the first valid site. -/
def Obligations.timeSourcesAndAlignment : Prop :=
  (∀ (s : State) (pin : Bool) (ps : Nat), s.tb.src ≠ 1 ∨ s.tb.ppsPin ≠ pin ∨ s.ppsSeen ps = false →
    ∃ t, exec (.ppsPulse pin ps) s = .next t ∧ t = s) ∧
  (∀ (s : State) (ps : Nat), s.tb.src = 1 ∧ s.ppsSeen ps = true ∧ s.tb.relock = false ∧ s.tb.firstPulse = true →
    ∃ t, exec (.ppsPulse s.tb.ppsPin ps) s = .next t ∧ t.tb.firstPulse = false ∧ t.tb.lastAcc = s.now ∧ t.tb.mstate = s.tb.mstate ∧
      ∃ p ∈ t.tb.pend, p.rate = none ∧ s.ps 8 + 100000000 ≤ p.applyAt) ∧
  (∀ (s : State) (ps : Nat), s.tb.src = 1 ∧ s.ppsSeen ps = true ∧ s.tb.relock = false ∧ s.tb.firstPulse = false ∧ 10000000 < psecOf ps ∧ psecOf ps < 999990000000 →
    ∃ t, exec (.ppsPulse s.tb.ppsPin ps) s = .next t ∧ t.tb.ppsRej = satInc s.tb.ppsRej ∧ t.tb.accRun = 0 ∧ t.tb.rejRun = s.tb.rejRun + 1 ∧ t.tb.pend = s.tb.pend ∧
      t.tb.firstPulse = decide (4 ≤ s.tb.rejRun + 1)) ∧
  (∀ (s : State) (ps : Nat), s.tb.src = 1 ∧ s.ppsSeen ps = true ∧ s.tb.relock = false ∧ s.tb.firstPulse = false ∧ (psecOf ps ≤ 1000000 ∨ 999999000000 ≤ psecOf ps) →
    ∃ t, exec (.ppsPulse s.tb.ppsPin ps) s = .next t ∧ t.tb.accRun = s.tb.accRun + 1 ∧ t.tb.lastAcc = s.now ∧ t.tb.rejRun = 0 ∧
      t.tb.mstate = (if 4 ≤ s.tb.accRun + 1 then .locked else s.tb.mstate) ∧ t.tb.secNext = none ∧
      ∀ p ∈ t.tb.pend, p ∈ s.tb.pend ∨ s.ps 8 + 100000000 ≤ p.applyAt ∧ ∀ r, p.rate = some r → rateWord 0 - rateWord 0 / 10000 ≤ r ∧ r ≤ rateWord 0 + rateWord 0 / 10000) ∧
  (∀ (s : State), s.tb.src = 1 ∧ s.tb.mstate = .locked ∧ s.tb.lastAcc + 1500000000000 ≤ s.now →
    ∃ t, exec .ppsLossTimeout s = .next t ∧ t.tb = { s.tb with mstate := .holdover, accRun := 0 } ∧ s.changesOnly t [.tb]) ∧
  (∀ (s : State) (hz c : Nat), s.tb.src = 2 ∧ (s.laneset s.timeLaneKey).state = .active ∧ (s.laneset s.timeLaneKey).rxLp1 = false ∧ (s.laneset s.timeLaneKey).lp2 = false ∧ s.tb.laneHz ≠ 0 ∧ (max (s.time 8).rate (s.laneRate hz) - min (s.time 8).rate (s.laneRate hz)) * 10000000 ≤ s.laneRate hz ∧ s.tb.cmpAt = some c ∧ c + 10 * psMs ≤ s.now →
    ∃ t, exec (.timeLaneLock hz) s = .next t ∧ t.tb.mstate = .locked ∧ t.tb.aoclk = false ∧ t.tb.cmpAt = some c ∧ ∀ p ∈ t.tb.pend, p ∈ s.tb.pend ∨ s.ps 8 + 100000000 ≤ p.applyAt ∧ p.rate = some (s.laneRate hz)) ∧
  (∀ (s : State) (hz : Nat), s.tb.src = 2 ∧ (s.laneset s.timeLaneKey).state = .active ∧ (s.laneset s.timeLaneKey).rxLp1 = false ∧ (s.laneset s.timeLaneKey).lp2 = false ∧ s.tb.laneHz ≠ 0 ∧ s.laneRate hz < (max (s.time 8).rate (s.laneRate hz) - min (s.time 8).rate (s.laneRate hz)) * 10000000 →
    ∃ t, exec (.timeLaneLock hz) s = .next t ∧ t.tb.mstate = s.tb.mstate ∧ t.tb.cmpAt = none ∧ ∀ p ∈ t.tb.pend, p ∈ s.tb.pend ∨ s.ps 8 + 100000000 ≤ p.applyAt ∧ p.rate = some (s.laneRate hz)) ∧
  (∀ (s : State) (d : BitVec 16) (n r p : Nat), s.tb.notifySec < secOfCtr (s.time 8).ctr ∧ s.tb.notify = [d] ∧ s.portOfDest (hubDest 3) = some (n, r, p) →
    ∃ t q, exec .timePacketSend s = .next t ∧ t.tb = { s.tb with notifySec := secOfCtr (s.time 8).ctr } ∧
      tget [] (t.router n r).inq (8 * p + MsgClass.evt.vc) = tget [] (s.router n r).inq (8 * p + MsgClass.evt.vc) ++ [q] ∧
      q.dest = d ∧ q.opc = 0x19 ∧ q.time = BitVec.ofNat 80 (secOfCtr (s.time 8).ctr * 2 ^ 48) ∧ q.route = none) ∧
  (∀ (s : State) (d : Nat), d < s.fdies ∧ (s.time d).mon.state = .measure ∧ (s.time d).mon.since + 2 * psMs ≤ s.now →
    ∃ t, exec (.alignMeasureTimeout d) s = .next t ∧ (t.time d).mon.run = 0 ∧ (t.time d).mon.slew = 0 ∧ (t.time d).ctr = (s.time d).ctr ∧
      ((t.time d).mon.state = .uncal ∨ (t.time d).mon.state = .measure ∧ (t.time d).mon.since = s.now)) ∧
  (∀ (s : State) (d l : Nat), d < s.fdies ∧ (s.time d).mon.state ≠ .off ∧ s.parentSite d = some l →
    ∃ t, exec (.parentOkUpdate d) s = .next t ∧ (t.time d).mon.parent = BitVec.ofNat 4 l ∧ (t.time d).mon.parentOk = (parentDie d l == 8 || (s.time (parentDie d l)).mon.state == .cal) ∧
      (t.time d).mon.hops = BitVec.ofNat 3 (if parentDie d l = 8 then 1 else (s.time (parentDie d l)).mon.hops.toNat + 1) ∧ (t.time d).ctr = (s.time d).ctr) ∧
  (∀ (s : State) (d : Nat), d < s.fdies ∧ (s.time d).mon.state ≠ .off ∧ s.parentSite d = none →
    ∃ t, exec (.parentOkUpdate d) s = .next t ∧ (t.time d).mon.parentOk = false ∧ (t.time d).ctr = (s.time d).ctr ∧ s.changesOnly t [.times])

/-- A selected edge on a capture pin whose die's counter runs, at least 2.5 ns after the last one and inside the window where the pin has one, is recorded in a FIFO with room, and counted as lost in a full one. TP_CAP pops the oldest record and leaves its seconds in TP_CAP_SEC. An entry at least 100 ns ahead and in order joins the queue of a schedule pin, by TP_SCHED or from the fabric on its running clock; an INVALID stamp is refused. At the head entry's time the pin drives its level; one of a fenced die, or whose time stands, drives nothing. A pin in mode 0 only shows its level. TP_WIN_OPEN and TP_WIN_CLOSE take their times; TP_CTRL flushes the captures, flushes the schedule counting it as skipped, and clears the counts. -/
def Obligations.timingPins : Prop :=
  (∀ (s : State) (d n ps : Nat) (rise : Bool), s.hasPin d n = true ∧ tpMode (s.tpin d n).cfg = 1 ∧ tpEdge (s.tpin d n).cfg rise = true ∧ (s.time d).stopped = false ∧ (∀ e ∈ (s.tpin d n).lastEdge, ps < e ∨ e + 2500 ≤ ps) ∧ (tpWin (s.tpin d n).cfg = false ∨ (s.tpin d n).winOpen ≤ ps ∧ ps < (s.tpin d n).winClose) ∧ (s.tpin d n).fifo.length < 16 →
    ∃ t, exec (.tpEdgeCapture d n rise ps) s = .next t ∧ (t.tpin d n).fifo = (s.tpin d n).fifo ++ [{ p := ps, rise := rise, coarse := s.coarse d }] ∧ (t.tpin d n).lastEdge = some ps ∧
      (t.tpin d n).lost = (s.tpin d n).lost ∧ s.changesOnly t [.dies, .hpins]) ∧
  (∀ (s : State) (d n ps : Nat) (rise : Bool), s.hasPin d n = true ∧ tpMode (s.tpin d n).cfg = 1 ∧ tpEdge (s.tpin d n).cfg rise = true ∧ (s.time d).stopped = false ∧ (∀ e ∈ (s.tpin d n).lastEdge, ps < e ∨ e + 2500 ≤ ps) ∧ (tpWin (s.tpin d n).cfg = false ∨ (s.tpin d n).winOpen ≤ ps ∧ ps < (s.tpin d n).winClose) ∧ 16 ≤ (s.tpin d n).fifo.length →
    ∃ t, exec (.tpEdgeCapture d n rise ps) s = .next t ∧ (t.tpin d n).fifo = (s.tpin d n).fifo ∧ (t.tpin d n).lost = satInc (s.tpin d n).lost ∧ (t.tpin d n).ovf = true) ∧
  (∀ (s : State) (w : Who) (d n : Nat) (r : CapRec) (rest : List CapRec), s.reaches w (tpAddr d n 0x08) false = true ∧ s.hasPin d n = true ∧ (w.src ≠ 0x801 ∨ w.effect = true) ∧ (s.tpin d n).fifo = r :: rest →
    ∃ t, exec (.tpCapPop w d n) s = .next t ∧ t.okay (psecOf r.p + atBit r.rise 40 + atBit r.coarse 41 + atBit true 42) ∧ t.tpin d n = { s.tpin d n with fifo := rest, ovf := false, capSec := BitVec.ofNat 32 (secOf r.p) }) ∧
  (∀ (s : State) (w : Who) (d n : Nat), s.reaches w (tpAddr d n 0x08) false = true ∧ (s.tpin d n).fifo = [] →
    ∃ t, exec (.tpCapPop w d n) s = .next t ∧ t.okay 0 ∧ s.changesOnly t [.rsp]) ∧
  (∀ (s : State) (w : Who) (d n e : Nat) (v : BitVec 64), s.reaches w (tpAddr d n 0x18) true = true ∧ s.hasPin d n = true ∧ tpMode (s.tpin d n).cfg = 2 ∧ tpFabric (s.tpin d n).cfg = false ∧ e = expandShort (bitsOf v.toNat 40 8) (bitsOf v.toNat 0 40) (s.ps d) ∧ s.ps d + 100000 ≤ e ∧ (∀ l ∈ (s.tpin d n).lastSched, l + 2500 ≤ e) ∧ (s.tpin d n).sched.length < 16 →
    ∃ t, exec (.tpSchedWrite w d n v) s = .next t ∧ t.okay 0 ∧ t.tpin d n = { s.tpin d n with sched := (s.tpin d n).sched ++ [(e, bitOf v.toNat 48)], lastSched := some e }) ∧
  (∀ (s : State) (d n e : Nat) (st : BitVec 32) (lv : Bool), d < s.fdies ∧ n < 8 ∧ tpMode (s.tpin d n).cfg = 2 ∧ tpFabric (s.tpin d n).cfg = true ∧ s.tpClocked d n = true ∧ expandStamp st (s.ps d) = some e ∧ s.ps d + 100000 ≤ e ∧ (∀ l ∈ (s.tpin d n).lastSched, l + 2500 ≤ e) ∧ (s.tpin d n).sched.length < 16 →
    ∃ t, exec (.tpFabricSched d n st lv) s = .next t ∧ t.tpin d n = { s.tpin d n with sched := (s.tpin d n).sched ++ [(e, lv)], lastSched := some e, schRefused := false }) ∧
  (∀ (s : State) (d n : Nat) (st : BitVec 32) (lv : Bool), d < s.fdies ∧ n < 8 ∧ tpMode (s.tpin d n).cfg = 2 ∧ tpFabric (s.tpin d n).cfg = true ∧ s.tpClocked d n = true ∧ expandStamp st (s.ps d) = none →
    ∃ t, exec (.tpFabricSched d n st lv) s = .next t ∧ t.tpin d n = { s.tpin d n with late := true, schRefused := true }) ∧
  (∀ (s : State) (d n : Nat) (e : Nat × Bool) (rest : List (Nat × Bool)), (s.tpin d n).sched = e :: rest ∧ e.1 ≤ s.ps d ∧ (s.time d).stopped = false ∧ (s.die d).leggett.fenced = false →
    ∃ t, exec (.tpSchedEdge d n) s = .next t ∧ t.tpin d n = { s.tpin d n with level := e.2, sched := rest }) ∧
  (∀ (s : State) (d n : Nat), (s.tpin d n).sched = [] ∨ (s.time d).stopped = true ∨ (s.die d).leggett.fenced = true →
    exec (.tpSchedEdge d n) s = .next s) ∧
  (∀ (s : State) (d n ps : Nat) (rise : Bool), s.hasPin d n = true ∧ tpMode (s.tpin d n).cfg = 0 →
    ∃ t, exec (.tpEdgeCapture d n rise ps) s = .next t ∧ t.tpin d n = { s.tpin d n with level := rise }) ∧
  (∀ (s : State) (w : Who) (d n : Nat) (v : BitVec 64), s.reaches w (tpAddr d n 0x20) true = true ∧ s.hasPin d n = true →
    ∃ t, exec (.tpWinWrite w d n false v) s = .next t ∧ t.okay 0 ∧ t.tpin d n = { s.tpin d n with winOpen := expandShort (bitsOf v.toNat 40 8) (bitsOf v.toNat 0 40) (s.ps d) }) ∧
  (∀ (s : State) (w : Who) (d n : Nat) (v : BitVec 64), s.reaches w (tpAddr d n 0x28) true = true ∧ s.hasPin d n = true →
    ∃ t, exec (.tpWinWrite w d n true v) s = .next t ∧ t.okay 0 ∧ t.tpin d n = { s.tpin d n with winClose := expandShort (bitsOf v.toNat 40 8) (bitsOf v.toNat 0 40) (s.ps d) }) ∧
  (∀ (s : State) (w : Who) (d n : Nat), s.reaches w (tpAddr d n 0x30) true = true ∧ s.hasPin d n = true →
    ∃ t, exec (.tpFlushCap w d n) s = .next t ∧ t.okay 0 ∧ t.tpin d n = { s.tpin d n with fifo := [], ovf := false }) ∧
  (∀ (s : State) (w : Who) (d n : Nat), s.reaches w (tpAddr d n 0x30) true = true ∧ s.hasPin d n = true →
    ∃ t, exec (.tpFlushSched w d n) s = .next t ∧ t.okay 0 ∧ t.tpin d n = { s.tpin d n with sched := [], skipped := satAdd (s.tpin d n).skipped (s.tpin d n).sched.length }) ∧
  (∀ (s : State) (w : Who) (d n : Nat), s.reaches w (tpAddr d n 0x30) true = true ∧ s.hasPin d n = true →
    ∃ t, exec (.tpClrCnt w d n) s = .next t ∧ t.okay 0 ∧ t.tpin d n = { s.tpin d n with lost := 0, skipped := 0 })

/-- PORn low leaves every unit at its reset value with the reset asserted; SRSTn low does the same but keeps the straps, the cause of the last failure and the log entries. PORn high with the rails good samples the straps and starts the OSCD count; at its end with REFCLK running the core starts, without it the core waits. SRSTn high starts the core where the references are good. The boot ROM started with a recovery strap goes into recovery with no error; with no flash device it finds no slot, records NO_DEVICE for both, and goes into recovery with CFG_ERR. A wipe that has reached every die leaves no frame and clears WIPING; a die that stays unreachable for 10 ms fails the load with its cause. A rail out of tolerance resets the package as PORn does, and once it has been back for 1 ms the package boots again, unless PORn is held low; a die past 125 degrees C drives THERMTRIPn low and the device takes no action of its own. P1 with the clocks locked within 100 microseconds leads to P2; clocks that do not lock in that time fail the load with cause CLOCK. P2 loads INIT into every flip-flop of every die's static region and bays, releases them and leads to P3. P3 biases the user I/O of every die; 1 microsecond later they are enabled together. P4, with the user I/O enabled and no channel training, leads to the running package: CFG_DONE rises, CFG_ERR falls, the stream is closed and the identification registers take the image's versions. CFG_STATUS answers the configuration controller's registers. -/
def Obligations.resetsAndStartUp : Prop :=
  (∀ (s : State), ∃ t, exec .pornAssert s = .next t ∧ t.pornLow = true ∧ t.cfg.porn = true ∧ t.cfg.coreUp = false ∧ t.cfg.straps = 0 ∧ t.routers = [] ∧ t.links = [] ∧ t.lanesets = [] ∧ t.masters = [] ∧
      t.gable = State.reset.gable ∧ t.dram = State.reset.dram ∧ t.log = State.reset.log ∧ t.tb = State.reset.tb ∧ t.times = []) ∧
  (∀ (s : State), ∃ t, exec .srstnAssert s = .next t ∧ t.cfg.srstn = true ∧ t.cfg.coreUp = false ∧ t.cfg.straps = s.cfg.straps ∧ t.cfg.lastCause = s.cfg.lastCause ∧ t.log.entries = s.log.entries ∧
      t.routers = [] ∧ t.links = [] ∧ t.lanesets = [] ∧ t.gable = State.reset.gable ∧ t.dram = State.reset.dram ∧ t.tb = State.reset.tb) ∧
  (∀ (s : State) (v : BitVec 6), s.cfg.porn = true ∧ s.pornLow = true ∧ s.supplyBad = false →
    ∃ t, exec (.pornRelease v) s = .next t ∧ t.pornLow = false ∧ t.cfg = { s.cfg with straps := v, porn := false, refosc := true, oscdAt := some (s.now + oscdPs (bitsOf v.toNat 2 3)) }) ∧
  (∀ (s : State) (e : Nat), s.cfg.oscdAt = some e ∧ s.cfg.porn = false ∧ e ≤ s.now ∧ s.cfg.srstn = false ∧ s.cfg.refosc = true ∧ s.clk.pkg ≠ .waking →
    ∃ t, exec (.oscdDelayEnd true) s = .next t ∧ t.cfg.coreUp = true ∧ t.cfg.oscdAt = none ∧ t.clk.deadSrc.contains refclkSrc = false) ∧
  (∀ (s : State) (e : Nat), s.cfg.oscdAt = some e ∧ s.cfg.porn = false ∧ e ≤ s.now →
    ∃ t, exec (.oscdDelayEnd false) s = .next t ∧ t.cfg = s.cfg ∧ t.clk.deadSrc.contains refclkSrc = true) ∧
  (∀ (s : State), s.cfg.srstn = true ∧ s.cfg.refosc = true ∧ s.cfg.oscdAt = none ∧ s.cfg.porn = false ∧ s.refclkGood = true →
    ∃ t, exec .srstnRelease s = .next t ∧ t.cfg = { s.cfg with srstn := false, coreUp := true, abandoned := false }) ∧
  (∀ (s : State) (d0 d1 : Bool) (a b : List (BitVec 8)), s.cfg.coreUp = true ∧ s.cfg.started = false ∧ s.cfg.phase = .boot ∧ bitsOf s.cfg.straps.toNat 0 2 ≠ 0 →
    ∃ t, exec (.bootStart d0 d1 a b) s = .next t ∧ t.cfg.phase = .recovery ∧ t.cfg.started = true ∧ t.cfg.slot = 2 ∧ t.cfg.cfgErr = false ∧ t.gable.gstate = .recovery ∧ t.acls = recoveryTables) ∧
  (∀ (s : State) (d1 : Bool) (a b : List (BitVec 8)), s.cfg.coreUp = true ∧ s.cfg.started = false ∧ s.cfg.phase = .boot ∧ bitsOf s.cfg.straps.toNat 0 2 = 0 →
    ∃ t, exec (.bootStart false d1 a b) s = .next t ∧ t.cfg.phase = .recovery ∧ t.cfg.started = true ∧ t.cfg.cfgErr = true ∧ t.cfg.slotA.cause = 1 ∧ t.cfg.slotB.cause = 1 ∧
      t.cfg.lastCause = 1 ∧ t.cfg.flash0 = false ∧ t.gable.gstate = .recovery) ∧
  (∀ (s : State), s.cfg.wiping = true ∧ s.allReachable = true →
    ∃ t, exec .wipeComplete s = .next t ∧ t.cfg.wiping = false ∧ t.cfg.clear = true ∧ ∀ d, d < s.fdies → (t.die d).frames = []) ∧
  (∀ (s : State) (d : Nat), s.cfg.stream.isOpen = true ∧ s.cfg.stream.what = .full ∧ s.cfg.reached = false ∧ d < s.fdies ∧ s.reachable d = false ∧ s.cfg.loadAt + 10 * psMs ≤ s.now ∧ 2 ≤ s.cfg.stream.src →
    ∃ t, exec (.dieUnreachableTimeout d) s = .next t ∧ t.cfg.lastCause = 10 ∧ t.cfg.phase = .recovery ∧ t.cfg.cfgErr = true ∧ t.cfg.stream = Stream.reset) ∧
  (∀ (s : State), s.cfg.porn = false →
    ∃ t, exec .supplyMonitorReset s = .next t ∧ t.supplyBad = true ∧ t.supplyOkAt = none ∧ t.cfg.porn = true ∧ t.cfg.coreUp = false ∧ t.cfg.straps = s.cfg.straps ∧ t.routers = [] ∧ t.links = [] ∧ t.lanesets = [] ∧
      t.gable = State.reset.gable ∧ t.dram = State.reset.dram ∧ t.log = State.reset.log) ∧
  (∀ (s : State), s.supplyBad = true ∧ s.supplyOkAt = none →
    ∃ t, exec .supplyReturn s = .next t ∧ t.supplyBad = true ∧ t.supplyOkAt = some s.now ∧ s.changesOnly t [.supplyOkAt]) ∧
  (∀ (s : State) (e : Nat), s.supplyBad = true ∧ s.supplyOkAt = some e ∧ e + 1000000000 ≤ s.now →
    ∃ t, exec .supplyReturn s = .next t ∧ t.supplyBad = false ∧ t.supplyOkAt = none ∧ (s.pornLow = true → t.cfg = s.cfg) ∧
      (s.pornLow = false → t.cfg = { s.cfg with porn := false, refosc := true, oscdAt := some (s.now + oscdPs (bitsOf s.cfg.straps.toNat 2 3)) })) ∧
  (∀ (s : State) (d : Nat), d < s.fdies ∨ d = 8 →
    ∃ t, exec (.thermtrip d) s = .next t ∧ t.thermtrip = true ∧ s.changesOnly t [.thermtrip, .dies]) ∧
  (∀ (s : State), s.cfg.phase = .p1 ∧ s.now ≤ s.cfg.phaseAt + 100 * psUs →
    ∃ t, exec (.phaseP1 true) s = .next t ∧ t.cfg = { s.cfg with phase := .p2, phaseAt := s.now }) ∧
  (∀ (s : State), s.cfg.phase = .p1 ∧ s.cfg.phaseAt + 100 * psUs ≤ s.now ∧ (s.cfg.stream.mbx.isSome = true ∨ 2 ≤ s.cfg.stream.src) →
    ∃ t, exec (.phaseP1 false) s = .next t ∧ t.cfg.lastCause = 11 ∧ t.cfg.phase = .recovery ∧ t.cfg.cfgErr = true ∧ t.cfg.cfgDone = false) ∧
  (∀ (s : State), s.cfg.phase = .p2 →
    ∃ t, exec .phaseP2 s = .next t ∧ t.cfg = { s.cfg with phase := .p3, phaseAt := s.now } ∧
      ∀ d, d < s.fdies → (t.die d).stFfs = .held [] ∧ ∀ b, b < 96 → t.bay d b = { (s.bay d b).begin with ffs := .held [] }) ∧
  (∀ (s : State), s.cfg.phase = .p3 ∧ (s.die 0).io.pads = .disabled ∧ s.tapHoldsPins = false →
    ∃ t, exec .phaseP3 s = .next t ∧ t.cfg = s.cfg ∧ ∀ d, d < s.fdies → (t.die d).io.pads = .biased ∧ (t.die d).io.biasAt = s.now) ∧
  (∀ (s : State), s.cfg.phase = .p3 ∧ (s.die 0).io.pads = .biased ∧ (s.die 0).io.biasAt + psUs ≤ s.now →
    ∃ t, exec .p3IoEnable s = .next t ∧ t.cfg = s.cfg ∧ ∀ d, d < s.fdies → (t.die d).io.pads = .enabled) ∧
  (∀ (s : State), s.cfg.phase = .p3 ∧ (s.die 0).io.pads = .enabled ∧ ∀ n ∈ List.range 8, (s.chan n).state ≠ .training →
    ∃ t, exec .phaseP4 s = .next t ∧ t.cfg.phase = .running ∧ t.cfg.cfgDone = true ∧ t.cfg.cfgErr = false ∧ t.cfg.stream = Stream.reset ∧ t.cfg.phaseAt = s.now ∧
      t.ids = { gableIf := s.cfg.fwIf.zeroExtend 32, bundle := s.cfg.bundle }) ∧
  (∀ (s : State) (m : Nat), s.asks m 0x0100 = true ∧ (s.req m).len = 0 →
    ∃ t, exec (.cfgStatus m) s = .next t ∧ t.cfg = s.cfg ∧
      s.answered t m stOk (leBytes 4 s.cfg.statusReg ++ leBytes 4 s.cfg.causeReg ++ leBytes 8 s.cfg.slotA.seq.toNat ++ leBytes 8 s.cfg.slotB.seq.toNat ++ leBytes 8 s.cfg.frames.toNat))

/-- LOAD_IMAGE of a pushed source with no stream open is answered OK, tears the package down to its boot phase and opens the stream, keeping the sender's session; from a flash slot whose header is malformed it ends in recovery with cause FORMAT. SLOT_PROGRAM of a slot that does not hold the running image is ACCEPTED and opens its stream. IMAGE_DATA and CFG_PUSH of the sender append their bytes while room is left; CFG_PUSH of another sender is DENIED. A segment after segment 0 that is complete, within IMAGE_LEN and opens under the stream's key is appended to the payload, the next key taken; one whose check fails ends a program with its cause. A push silent for 10 s with bytes still to come ends its stream with cause PUSH_TIMEOUT. A program whose END was accepted makes its slot valid. -/
def Obligations.loadsAndPushes : Prop :=
  (∀ (s : State) (m : Nat) (h : List (BitVec 8)), s.asks m 0x0101 = true ∧ (s.hasRole m roleC = true ∨ s.gable.gstate = .recovery) ∧ (s.req m).len = 4 ∧ (s.req m).zero 1 3 = true ∧ 2 ≤ (s.req m).num 0 1 ∧ (s.req m).num 0 1 ≤ 3 ∧ s.cfg.stream.isOpen = false ∧ (s.cfg.phase = .running ∨ s.cfg.phase = .recovery) →
    ∃ t, exec (.loadImage m h) s = .next t ∧ s.answered t m stOk [] ∧ t.cfg.phase = .boot ∧ t.cfg.stream.isOpen = true ∧ t.cfg.stream.what = .full ∧ t.cfg.stream.src = (s.req m).num 0 1 ∧
      t.cfg.stream.header = [] ∧ t.cfg.cfgDone = false ∧ t.cfg.keepSess = some (s.sid m) ∧ t.gable.gstate = .recovery) ∧
  (∀ (s : State) (m : Nat) (h : List (BitVec 8)), s.asks m 0x0101 = true ∧ (s.hasRole m roleC = true ∨ s.gable.gstate = .recovery) ∧ (s.req m).len = 4 ∧ (s.req m).zero 1 3 = true ∧ (s.req m).num 0 1 < 2 ∧ s.cfg.flash0 = true ∧ s.cfg.stream.isOpen = false ∧ (s.cfg.phase = .running ∨ s.cfg.phase = .recovery) ∧ h.length ≠ 512 →
    ∃ t, exec (.loadImage m h) s = .next t ∧ s.answered t m stOk [] ∧ t.cfg.phase = .recovery ∧ t.cfg.cfgErr = true ∧ t.cfg.lastCause = 2 ∧ t.cfg.stream = Stream.reset) ∧
  (∀ (s : State) (m : Nat), s.asks m 0x0103 = true ∧ s.hasRoom m = true ∧ (s.hasRole m roleC = true ∨ s.gable.gstate = .recovery) ∧ (s.req m).len = 4 ∧ (s.req m).zero 2 2 = true ∧ (s.req m).num 0 1 < 2 ∧ ((s.req m).num 1 1 = 2 ∨ (s.req m).num 1 1 = 3) ∧ (s.cfg.stream.isOpen = false ∨ s.cfg.stream.what ≠ .full) ∧ (s.cfg.phase = .running ∨ s.cfg.phase = .recovery) ∧ s.cfg.flash0 = true ∧ (s.cfg.phase = .running → s.cfg.slot.toNat ≠ (s.req m).num 0 1) ∧ s.cfg.prog.isOpen = false ∧ s.srcBusy ((s.req m).num 1 1) = false →
    ∃ t, exec (.slotProgram m) s = .next t ∧ s.answered t m stAccepted [] ∧ t.cfg.prog.isOpen = true ∧ t.cfg.prog.what = .program ∧ t.cfg.prog.slot = (s.req m).num 0 1 ∧ t.cfg.prog.src = (s.req m).num 1 1 ∧
      t.cfg.prog.mbx = some (s.token m (s.req m)) ∧ t.cfg.stream = s.cfg.stream) ∧
  (∀ (s : State) (m tok : Nat) (p : Bool), s.asks m 0x0102 = true ∧ 8 ≤ (s.req m).len ∧ (s.req m).len % 8 = 0 ∧ s.pushStrm 3 = some p ∧ (s.strm p).mbx = some tok ∧ tok / 65536 = s.sid m ∧ (s.strm p).staged = false ∧ (s.strm p).header ≠ [] →
    ∃ t, exec (.imageData m) s = .next t ∧ s.answered t m stOk [] ∧ (t.strm p).pushed = (s.strm p).pushed ++ (s.req m).arg.take (s.strm p).room ∧ (t.strm p).pushAt = s.now ∧
      (t.strm p).header = (s.strm p).header) ∧
  (∀ (s : State) (w : Who) (v : BitVec 64) (p : Bool), s.reaches w (hubBase 7 + 0x030) true = true ∧ s.pushStrm 2 = some p ∧ (builtIn w.src = true ∨ (s.strm p).pushMid = some w.src) ∧ (s.strm p).header ≠ [] →
    ∃ t, exec (.cfgPush w v) s = .next t ∧ t.okay 0 ∧ (t.strm p).pushed = (s.strm p).pushed ++ (leBytes 8 v.toNat).take (s.strm p).room ∧ (t.strm p).pushAt = s.now) ∧
  (∀ (s : State) (w : Who) (v : BitVec 64) (p : Bool), s.reaches w (hubBase 7 + 0x030) true = true ∧ s.pushStrm 2 = some p ∧ builtIn w.src = false ∧ (s.strm p).pushMid ≠ some w.src →
    ∃ t, exec (.cfgPush w v) s = .next t ∧ t.rsp.resp = respDenied ∧ t.cfg = s.cfg) ∧
  (∀ (s : State) (p : Bool) (bytes b pl key : List (BitVec 8)) (len : Nat) (last : Bool), (s.strm p).isOpen = true ∧ (s.strm p).header ≠ [] ∧ (s.strm p).last = false ∧ (s.strm p).segIdx ≠ 0 ∧ ((s.strm p).what = .full → s.cfg.wiping = false ∧ s.cfg.reached = true) ∧ (s.strm p).src ≠ 4 ∧ b = (if (s.strm p).src < 2 then bytes else (s.strm p).pushed) ∧ len = numAt b 0 4 ∧ segLenOk (s.strm p).segIdx len = true ∧ (s.strm p).used + 20 + len ≤ hdrLen (s.strm p).header ∧ 20 + len ≤ b.length ∧ ((s.strm p).src < 2 → b.length = 20 + len) ∧ openSegment (s.strm p).header (s.strm p).key (s.strm p).segIdx ((b.drop 4).take len) ((b.drop (4 + len)).take 16) = .ok pl key last ∧ (last = true → (s.strm p).used + 20 + len = hdrLen (s.strm p).header) →
    ∃ t, exec (.segmentReceive p bytes) s = .next t ∧ (t.strm p).segIdx = (s.strm p).segIdx + 1 ∧ (t.strm p).key = key ∧ (t.strm p).used = (s.strm p).used + 20 + len ∧
      (t.strm p).last = last ∧ (t.strm p).buf = (s.strm p).buf ++ pl ∧ (t.strm p).took = true ∧ (t.strm p).isOpen = true) ∧
  (∀ (s : State) (bytes b : List (BitVec 8)) (len c : Nat), s.cfg.prog.isOpen = true ∧ s.cfg.prog.header ≠ [] ∧ s.cfg.prog.last = false ∧ s.cfg.prog.segIdx ≠ 0 ∧ s.cfg.prog.what = .program ∧ s.cfg.prog.src ≠ 4 ∧ b = (if s.cfg.prog.src < 2 then bytes else s.cfg.prog.pushed) ∧ len = numAt b 0 4 ∧ segLenOk s.cfg.prog.segIdx len = true ∧ s.cfg.prog.used + 20 + len ≤ hdrLen s.cfg.prog.header ∧ 20 + len ≤ b.length ∧ (s.cfg.prog.src < 2 → b.length = 20 + len) ∧ openSegment s.cfg.prog.header s.cfg.prog.key s.cfg.prog.segIdx ((b.drop 4).take len) ((b.drop (4 + len)).take 16) = .bad c →
    ∃ t, exec (.segmentReceive true bytes) s = .next t ∧ t.cfg.prog = Stream.reset ∧ t.cfg.causeCmd = BitVec.ofNat 5 c ∧ (slotState t.cfg s.cfg.prog.slot).valid = false ∧ (slotState t.cfg s.cfg.prog.slot).erased = true) ∧
  (∀ (s : State), s.cfg.prog.pushes = true ∧ s.cfg.prog.last = false ∧ 0 < s.cfg.prog.room ∧ s.cfg.prog.staged = false ∧ s.cfg.prog.pushAt + 10000 * psMs ≤ s.now →
    ∃ t, exec (.pushTimeout true) s = .next t ∧ t.cfg.prog = Stream.reset ∧ t.cfg.causeCmd = 12) ∧
  (∀ (s : State), s.cfg.stream.pushes = true ∧ s.cfg.stream.last = false ∧ 0 < s.cfg.stream.room ∧ s.cfg.stream.staged = false ∧ s.cfg.stream.pushAt + 10000 * psMs ≤ s.now ∧ s.cfg.stream.what = .full →
    ∃ t, exec (.pushTimeout false) s = .next t ∧ t.cfg.stream = Stream.reset ∧ t.cfg.causeCmd = 12 ∧ t.cfg.lastCause = 12 ∧ t.cfg.phase = .recovery ∧ t.cfg.cfgErr = true) ∧
  (∀ (s : State) (d b : Nat), s.cfg.stream.pushes = true ∧ s.cfg.stream.last = false ∧ 0 < s.cfg.stream.room ∧ s.cfg.stream.staged = false ∧ s.cfg.stream.pushAt + 10000 * psMs ≤ s.now ∧ (s.cfg.stream.what = .bay ∨ s.cfg.stream.what = .repair) ∧ s.cfg.stream.die = d ∧ s.cfg.stream.bay = b ∧ (s.dieList.flatMap fun k => ((s.die k).bays.filter fun e => e.2.held.isSome)) = [] →
    ∃ t, exec (.pushTimeout false) s = .next t ∧ t.cfg.stream = Stream.reset ∧ (t.bay d b).cause = 12 ∧ (s.cfg.stream.untouched = false → (t.bay d b).state = .empty)) ∧
  (∀ (s : State), s.cfg.prog.isOpen = true ∧ s.cfg.prog.ended = true →
    ∃ t, exec .slotProgramEnd s = .next t ∧ t.cfg.prog = Stream.reset ∧ (slotState t.cfg s.cfg.prog.slot).valid = true ∧ (slotState t.cfg s.cfg.prog.slot).header = s.cfg.prog.header ∧
      (slotState t.cfg s.cfg.prog.slot).seq = BitVec.ofNat 64 (hdrSeq s.cfg.prog.header))

/-- The next record of an open stream whose sections and first segment were accepted, complete, with its fields as the table has them and within the FRAMES section, is taken: YEALM_DEF keeps 512 bytes under its number; FRAME_LIT writes one frame; FRAME_PUT writes the yealm into each frame of its run; ZERO_RUN writes zeros into each; END with the count of writes made and nothing behind it ends the stream, and a full load goes on with P1. A record with an unknown type fails a program. -/
def Obligations.imageRecords : Prop :=
  (∀ (s : State) (p : Bool) (n : Nat), (s.strm p).isOpen = true ∧ (s.strm p).took = true ∧ (s.strm p).ended = false ∧ (s.strm p).framesLen = some n ∧ 528 ≤ (s.strm p).buf.length ∧ (recHdr (s.strm p).buf).typ = 1 ∧ recFieldsOk (recHdr (s.strm p).buf) = true ∧ (s.strm p).framesUsed + 528 ≤ n →
    ∃ t, exec (.recordYealmDef p) s = .next t ∧ (t.strm p).yealms = tput [] (s.strm p).yealms (recHdr (s.strm p).buf).yealm (((s.strm p).buf.drop 16).take 512) ∧
      (t.strm p).buf = (s.strm p).buf.drop 528 ∧ (t.strm p).framesUsed = (s.strm p).framesUsed + 528 ∧ (t.strm p).writes = (s.strm p).writes) ∧
  (∀ (s : State) (n d i : Nat), s.cfg.stream.isOpen = true ∧ s.cfg.stream.took = true ∧ s.cfg.stream.ended = false ∧ s.cfg.stream.framesLen = some n ∧ 528 ≤ s.cfg.stream.buf.length ∧ (recHdr s.cfg.stream.buf).typ = 2 ∧ recFieldsOk (recHdr s.cfg.stream.buf) = true ∧ s.cfg.stream.framesUsed + 528 ≤ n ∧ (s.cfg.stream.what = .full ∨ s.cfg.stream.what = .bay) ∧ s.dieOfRec s.cfg.stream (recHdr s.cfg.stream.buf).die = some d ∧ s.cfg.stream.frameOf (recHdr s.cfg.stream.buf).start = some i ∧ frameDataOk i ((s.cfg.stream.buf.drop 16).take 512) = true →
    ∃ t, exec (.recordFrameLit false) s = .next t ∧ t.dies = (s.writeFrame d i ((s.cfg.stream.buf.drop 16).take 512)).dies ∧ t.cfg.stream.writes = s.cfg.stream.writes + 1 ∧
      t.cfg.stream.buf = s.cfg.stream.buf.drop 528 ∧ (i < 262144 → ∀ j, j < 64 → tget 0 (tget CfgFrame.reset (t.die d).frames i).words j = BitVec.ofNat 64 (numAt ((s.cfg.stream.buf.drop 16).take 512) (8 * j) 8))) ∧
  (∀ (s : State) (n : Nat), s.cfg.prog.isOpen = true ∧ s.cfg.prog.took = true ∧ s.cfg.prog.ended = false ∧ s.cfg.prog.framesLen = some n ∧ 528 ≤ s.cfg.prog.buf.length ∧ (recHdr s.cfg.prog.buf).typ = 2 ∧ recFieldsOk (recHdr s.cfg.prog.buf) = true ∧ s.cfg.prog.framesUsed + 528 ≤ n ∧ s.cfg.prog.what = .program ∧ (recHdr s.cfg.prog.buf).die < s.fdies ∧ frameIdxOk (recHdr s.cfg.prog.buf).start = true ∧ frameDataOk (recHdr s.cfg.prog.buf).start ((s.cfg.prog.buf.drop 16).take 512) = true ∧ s.cfg.stream.isOpen = true →
    ∃ t, exec (.recordFrameLit true) s = .next t ∧ t.dies = s.dies ∧ t.cfg.prog.writes = s.cfg.prog.writes + 1) ∧
  (∀ (s : State) (n d : Nat), s.cfg.stream.isOpen = true ∧ s.cfg.stream.took = true ∧ s.cfg.stream.ended = false ∧ s.cfg.stream.framesLen = some n ∧ 16 ≤ s.cfg.stream.buf.length ∧ (recHdr s.cfg.stream.buf).typ = 3 ∧ recFieldsOk (recHdr s.cfg.stream.buf) = true ∧ s.cfg.stream.framesUsed + 16 ≤ n ∧ s.cfg.stream.what = .full ∧ d = (recHdr s.cfg.stream.buf).die ∧ d < s.fdies ∧ tget [] s.cfg.stream.yealms (recHdr s.cfg.stream.buf).yealm ≠ [] ∧ (∀ k ∈ List.range (recHdr s.cfg.stream.buf).count, (runIdx (recHdr s.cfg.stream.buf).start k (recHdr s.cfg.stream.buf).stride).any (fun i => decide (i < 262144)) = true) →
    ∃ t, exec (.recordFramePut false) s = .next t ∧ t.cfg.stream.writes = s.cfg.stream.writes + (recHdr s.cfg.stream.buf).count ∧ t.cfg.stream.buf = s.cfg.stream.buf.drop 16 ∧
      ∀ k i, k < (recHdr s.cfg.stream.buf).count → runIdx (recHdr s.cfg.stream.buf).start k (recHdr s.cfg.stream.buf).stride = some i → ∀ j, j < 64 →
        tget 0 (tget CfgFrame.reset (t.die d).frames i).words j = BitVec.ofNat 64 (numAt (tget [] s.cfg.stream.yealms (recHdr s.cfg.stream.buf).yealm) (8 * j) 8)) ∧
  (∀ (s : State) (n d : Nat), s.cfg.stream.isOpen = true ∧ s.cfg.stream.took = true ∧ s.cfg.stream.ended = false ∧ s.cfg.stream.framesLen = some n ∧ 16 ≤ s.cfg.stream.buf.length ∧ (recHdr s.cfg.stream.buf).typ = 4 ∧ recFieldsOk (recHdr s.cfg.stream.buf) = true ∧ s.cfg.stream.framesUsed + 16 ≤ n ∧ s.cfg.stream.what = .full ∧ d = (recHdr s.cfg.stream.buf).die ∧ d < s.fdies ∧ (recHdr s.cfg.stream.buf).start + (recHdr s.cfg.stream.buf).count ≤ 262144 →
    ∃ t, exec (.recordZeroRun false) s = .next t ∧ t.cfg.stream.writes = s.cfg.stream.writes + (recHdr s.cfg.stream.buf).count ∧ t.cfg.stream.buf = s.cfg.stream.buf.drop 16 ∧
      ∀ i, (recHdr s.cfg.stream.buf).start ≤ i → i < (recHdr s.cfg.stream.buf).start + (recHdr s.cfg.stream.buf).count → tget CfgFrame.reset (t.die d).frames i = CfgFrame.reset) ∧
  (∀ (s : State), s.cfg.stream.isOpen = true ∧ s.cfg.stream.took = true ∧ s.cfg.stream.ended = false ∧ s.cfg.stream.framesLen = some (s.cfg.stream.framesUsed + 16) ∧ s.cfg.stream.buf.length = 16 ∧ (recHdr s.cfg.stream.buf).typ = 5 ∧ recFieldsOk (recHdr s.cfg.stream.buf) = true ∧ (recHdr s.cfg.stream.buf).count = s.cfg.stream.writes % 2 ^ 32 ∧ s.cfg.stream.last = true ∧ s.cfg.stream.what = .full →
    ∃ t, exec (.recordEnd false) s = .next t ∧ t.cfg.phase = .p1 ∧ t.cfg.phaseAt = s.now ∧ t.cfg.stream.ended = true ∧ t.cfg.stream.buf = []) ∧
  (∀ (s : State), s.cfg.prog.isOpen = true ∧ s.cfg.prog.took = true ∧ s.cfg.prog.ended = false ∧ s.cfg.prog.framesLen = some (s.cfg.prog.framesUsed + 16) ∧ s.cfg.prog.buf.length = 16 ∧ (recHdr s.cfg.prog.buf).typ = 5 ∧ recFieldsOk (recHdr s.cfg.prog.buf) = true ∧ (recHdr s.cfg.prog.buf).count = s.cfg.prog.writes % 2 ^ 32 ∧ s.cfg.prog.last = true →
    ∃ t, exec (.recordEnd true) s = .next t ∧ t.cfg.prog.ended = true ∧ t.cfg.prog.isOpen = true) ∧
  (∀ (s : State) (n : Nat), s.cfg.prog.isOpen = true ∧ s.cfg.prog.took = true ∧ s.cfg.prog.ended = false ∧ s.cfg.prog.framesLen = some n ∧ 16 ≤ s.cfg.prog.buf.length ∧ ((recHdr s.cfg.prog.buf).typ = 0 ∨ 5 < (recHdr s.cfg.prog.buf).typ) →
    ∃ t, exec (.recordZeroRun true) s = .next t ∧ t.cfg.prog = Stream.reset ∧ t.cfg.causeCmd = 7)

/-- MEM_STATUS answers a channel's registers. MEM_UP of an OFF or FAULT channel with a declaration of DIMMs trains it; one without DIMMs, or that needs RFM, ends OFF with its cause; it is BUSY while training or exiting, OK when UP, held behind a shut-down, and starts the exit from DOWN. MEM_DOWN shuts an UP channel down, joins a running shut-down, waits for an exit, turns a FAULT or DOWN channel OFF, and abandons a training. MEM_REGION, MEM_MAP, MEM_LP and MEM_SCRUB write what they name and nothing else of the memory; MEM_MAP is refused with STATE while a channel that either map names is not OFF or DOWN. MEM_CTRL clears the counters of its channel. -/
def Obligations.memoryCommands : Prop :=
  (∀ (s : State) (m n : Nat), s.asks m 0x0300 = true ∧ s.gable.gstate = .running ∧ (s.req m).len = 4 ∧ (s.req m).num 0 1 = n ∧ n < 8 ∧ (s.req m).zero 1 3 = true →
    ∃ t, exec (.memStatus m) s = .next t ∧ t.dram = s.dram ∧
      s.answered t m stOk (leBytes 4 (s.memStatus n) ++ leBytes 4 (s.memCfg n) ++ leBytes 4 (s.chan n).ce.toNat ++ leBytes 4 (s.chan n).ue.toNat ++ leBytes 4 (s.chan n).poisoned.toNat ++ leBytes 4 (s.chan n).panicCnt.toNat ++ leBytes 8 (s.dram.capOf n))) ∧
  (∀ (s : State) (m n : Nat), s.asks m 0x0301 = true ∧ s.hasRoom m = true ∧ s.gable.gstate = .running ∧ s.hasRole m roleC = true ∧ (s.req m).num 0 1 = n ∧ n < 8 ∧ (s.req m).zero 2 2 = true ∧ (s.req m).len = 4 ∧ (s.req m).num 1 1 = 0 ∧ ((s.chan n).state = .off ∨ (s.chan n).state = .fault) ∧ (s.declOf n).dimms ≠ 0 ∧ (s.declOf n).rfm = false →
    ∃ t, exec (.memUp m) s = .next t ∧ s.answered t m stAccepted [] ∧ (t.chan n).state = .training ∧ (t.chan n).since = s.now ∧ (t.chan n).cause = 0 ∧
      (t.chan n).upCmd = some (s.token m (s.req m)) ∧ (t.chan n).decl = (s.chan n).decl ∧ ∀ k, k ≠ n → t.chan k = s.chan k) ∧
  (∀ (s : State) (m n : Nat), s.asks m 0x0301 = true ∧ s.hasRoom m = true ∧ s.gable.gstate = .running ∧ s.hasRole m roleC = true ∧ (s.req m).num 0 1 = n ∧ n < 8 ∧ (s.req m).zero 2 2 = true ∧ (s.req m).len = 44 ∧ (s.req m).num 1 1 = 1 ∧ ((s.chan n).state = .off ∨ (s.chan n).state = .fault) ∧ declOk ((s.req m).arg.drop 4) = true ∧ ((declOf40 ((s.req m).arg.drop 4)).eccB = true ∨ s.integOn s.dram.sets n = false) ∧ (declOf40 ((s.req m).arg.drop 4)).dimms ≠ 0 ∧ (declOf40 ((s.req m).arg.drop 4)).rfm = false →
    ∃ t, exec (.memUp m) s = .next t ∧ s.answered t m stAccepted [] ∧ (t.chan n).state = .training ∧ (t.chan n).decl = some (declOf40 ((s.req m).arg.drop 4))) ∧
  (∀ (s : State) (m n : Nat), s.asks m 0x0301 = true ∧ s.hasRoom m = true ∧ s.gable.gstate = .running ∧ s.hasRole m roleC = true ∧ (s.req m).num 0 1 = n ∧ n < 8 ∧ (s.req m).zero 2 2 = true ∧ (s.req m).len = 4 ∧ (s.req m).num 1 1 = 0 ∧ ((s.chan n).state = .off ∨ (s.chan n).state = .fault) ∧ ((s.declOf n).dimms = 0 ∨ (s.declOf n).rfm = true) →
    ∃ t, exec (.memUp m) s = .next t ∧ s.answered t m stAccepted [] ∧ (t.chan n).state = .off ∧ (t.chan n).cause = (if (s.declOf n).dimms = 0 then 2 else 1) ∧
      ∃ ev ∈ t.evr.raised, ev.evid = BitVec.ofNat 10 (0x382 + 4 * n)) ∧
  (∀ (s : State) (m n : Nat), s.asks m 0x0301 = true ∧ s.hasRoom m = true ∧ s.gable.gstate = .running ∧ s.hasRole m roleC = true ∧ (s.req m).num 0 1 = n ∧ n < 8 ∧ (s.req m).zero 2 2 = true ∧ (s.req m).len = 4 ∧ (s.req m).num 1 1 = 0 ∧ (s.chan n).state ≠ .off ∧ (s.chan n).state ≠ .fault →
    ∃ t, exec (.memUp m) s = .next t ∧
      ((s.chan n).state = .training ∨ (s.chan n).state = .exiting → s.answered t m stBusy [] ∧ t.dram = s.dram) ∧
      ((s.chan n).state = .up → s.answered t m stOk (leBytes 4 0) ∧ t.dram = s.dram) ∧
      ((s.chan n).state = .shutting → (s.chan n).heldUp = none → s.answered t m stAccepted [] ∧ t.chan n = { s.chan n with heldUp := some (s.token m (s.req m)), pendingEnable := true }) ∧
      ((s.chan n).state = .shutting → (s.chan n).heldUp ≠ none → s.answered t m stBusy [] ∧ t.dram = s.dram) ∧
      ((s.chan n).state = .down → s.answered t m stAccepted [] ∧ t.chan n = { s.chan n with state := .exiting, since := s.now, upCmd := some (s.token m (s.req m)) })) ∧
  (∀ (s : State) (m n : Nat), s.asks m 0x0302 = true ∧ s.hasRoom m = true ∧ s.gable.gstate = .running ∧ s.hasRole m roleC = true ∧ (s.req m).len = 4 ∧ (s.req m).num 0 1 = n ∧ n < 8 ∧ (s.req m).num 1 1 ≤ 1 ∧ (s.req m).zero 2 2 = true →
    ∃ t, exec (.memDown m) s = .next t ∧
      ((s.chan n).state = .off → s.answered t m stOk [] ∧ t.dram = s.dram) ∧
      ((s.chan n).state = .training → s.answered t m stOk [] ∧ (t.chan n).state = .off ∧ (t.chan n).cause = 6 ∧ (t.chan n).upCmd = none) ∧
      ((s.chan n).state = .up → s.answered t m stAccepted [] ∧ t.chan n = { s.chan n with state := .shutting, since := s.now, downCmds := [(s.token m (s.req m), (s.req m).num 1 1 == 1)], retain := (s.req m).num 1 1 == 1 }) ∧
      ((s.chan n).state = .shutting → s.answered t m stAccepted [] ∧ t.chan n = { s.chan n with retain := (s.chan n).retain && ((s.req m).num 1 1 == 1), downCmds := (s.chan n).downCmds ++ [(s.token m (s.req m), (s.req m).num 1 1 == 1)] }) ∧
      ((s.chan n).state = .down → s.answered t m stOk [] ∧ (t.chan n).state = (if (s.req m).num 1 1 = 1 then .down else .off)) ∧
      ((s.chan n).state = .exiting → s.answered t m stAccepted [] ∧ (t.chan n).state = .exiting ∧ (t.chan n).downCmds = (s.chan n).downCmds ++ [(s.token m (s.req m), (s.req m).num 1 1 == 1)]) ∧
      ((s.chan n).state = .fault → s.answered t m stOk [] ∧ (t.chan n).state = .off)) ∧
  (∀ (s : State) (m r : Nat), s.asks m 0x0304 = true ∧ s.gable.gstate = .running ∧ s.hasRole m roleT = true ∧ (s.req m).len = 20 ∧ (s.req m).num 0 1 = r ∧ (s.req m).zero 2 2 = true ∧ regionArgOk s.dram.regions r ((s.req m).num 1 1) ((s.req m).num 4 8) ((s.req m).num 12 8) = true →
    ∃ t, exec (.memRegion m) s = .next t ∧ s.answered t m stOk [] ∧
      tget Region.reset t.dram.regions r = (if bitOf ((s.req m).num 1 1) 1 then { valid := true, base := BitVec.ofNat 48 ((s.req m).num 4 8), limit := BitVec.ofNat 48 ((s.req m).num 12 8), scrub := bitOf ((s.req m).num 1 1) 0 } else Region.reset) ∧
      (∀ k, k ≠ r → tget Region.reset t.dram.regions k = tget Region.reset s.dram.regions k) ∧ t.dram = { s.dram with regions := t.dram.regions }) ∧
  (∀ (s : State) (m : Nat), s.asks m 0x0305 = true ∧ s.gable.gstate = .running ∧ s.hasRole m roleC = true ∧ mapOk s (s.req m).arg = true ∧ ∀ k ∈ List.range 4, ∀ n ∈ (s.dram.ilv k).members ++ (ilvOf (bytesAt (s.req m).arg (20 * k) 20)).members, (s.chan n).state = .off ∨ (s.chan n).state = .down →
    ∃ t, exec (.memMap m) s = .next t ∧ s.answered t m stOk [] ∧ (∀ k, k < 4 → t.dram.ilv k = ilvOf (bytesAt (s.req m).arg (20 * k) 20)) ∧
      (∀ k, k < 6 → tget 0 t.dram.hash k = BitVec.ofNat 64 ((s.req m).num (80 + 8 * k) 8)) ∧ t.dram = { s.dram with sets := t.dram.sets, hash := t.dram.hash }) ∧
  (∀ (s : State) (m n : Nat), s.asks m 0x0305 = true ∧ s.gable.gstate = .running ∧ s.hasRole m roleC = true ∧ mapOk s (s.req m).arg = true ∧ n ∈ (s.dram.ilv 0).members ∧ (s.chan n).state ≠ .off ∧ (s.chan n).state ≠ .down →
    ∃ t, exec (.memMap m) s = .next t ∧ s.answered t m stState [] ∧ t.dram = s.dram) ∧
  (∀ (s : State) (m n : Nat), s.asks m 0x0306 = true ∧ s.gable.gstate = .running ∧ s.hasRole m roleC = true ∧ (s.req m).len = 8 ∧ (s.req m).num 0 1 = n ∧ n < 8 ∧ (s.req m).num 1 1 ≤ 2 ∧ (s.req m).zero 3 1 = true ∧ (s.req m).num 4 2 < 4096 ∧ (s.req m).zero 6 2 = true ∧ s.flowForbids 5 8 n ((s.req m).num 1 1) = false →
    ∃ t, exec (.memLp m) s = .next t ∧ s.answered t m stOk [] ∧
      t.chan n = { (s.chan n).leaveLp ((s.req m).num 1 1) s.now with lpSel := BitVec.ofNat 2 ((s.req m).num 1 1), pdIdle := BitVec.ofNat 8 ((s.req m).num 2 1), srefIdle := BitVec.ofNat 12 ((s.req m).num 4 2) }) ∧
  (∀ (s : State) (m : Nat), s.asks m 0x0307 = true ∧ s.gable.gstate = .running ∧ s.hasRole m roleC = true ∧ (s.req m).len = 20 ∧ 1 ≤ (s.req m).num 0 1 ∧ (s.req m).num 0 1 ≤ 168 ∧ (s.req m).zero 1 3 = true ∧ (s.req m).num 4 8 &&& (s.req m).num 12 8 = 0 →
    ∃ t, exec (.memScrub m) s = .next t ∧ s.answered t m stOk [] ∧ t.dram.scrubHours = BitVec.ofNat 16 ((s.req m).num 0 1) ∧
      (∀ i, i < 64 → (tget Region.reset s.dram.regions i).valid = true → tget Region.reset t.dram.regions i =
        { tget Region.reset s.dram.regions i with scrub := ((tget Region.reset s.dram.regions i).scrub || bitOf ((s.req m).num 4 8) i) && !bitOf ((s.req m).num 12 8) i }) ∧ t.dram.chans = s.dram.chans) ∧
  (∀ (s : State) (w : Who) (n : Nat), n < 8 ∧ s.reaches w (hubBase (9 + n) + 0x228) true = true →
    ∃ t, exec (.memClrCnt w n) s = .next t ∧ t.rsp.resp = respOk ∧ t.chan n = { s.chan n with ce := 0, ue := 0, poisoned := 0, panicCnt := 0, alertCnt := 0 } ∧ (∀ k, k ≠ n → t.chan k = s.chan k))

/-- Training that is done makes the channel UP, with the periods of every rank starting then; 250 ms of training give FAULT with cause TRAIN and the DRAM_FAULT event. A shut-down ends when the channel has nothing left: DOWN with its contents kept, or OFF; a held MEM_UP then runs. The exit from DOWN ends UP, and a MEM_DOWN that waited then begins. An alert issues again everything that has not come back; the eighth in a row gives FAULT with cause ALERT. -/
def Obligations.channelBringUp : Prop :=
  (∀ (s : State) (n : Nat), (s.chan n).state = .training →
    ∃ t, exec (.memTrainingDone n) s = .next t ∧ (t.chan n).state = .up ∧ (t.chan n).cause = 0 ∧ (t.chan n).since = s.now ∧ (t.chan n).upCmd = none ∧ (t.chan n).lines = (s.chan n).lines ∧
      ∀ r, r < (s.declOf n).ranks → tget 0 (t.chan n).refAt r = s.now ∧ tget 0 (t.chan n).zqAt r = s.now ∧ tget 0 (t.chan n).mr4At r = s.now) ∧
  (∀ (s : State) (n : Nat) (st : BitVec 4), (s.chan n).state = .training ∧ (s.chan n).since + 250 * psMs ≤ s.now →
    ∃ t, exec (.memTrainingTimeout n st) s = .next t ∧ (t.chan n).state = .fault ∧ (t.chan n).cause = 3 ∧ (t.chan n).upCmd = none ∧ (t.chan n).lines = [] ∧
      ∃ ev ∈ t.evr.raised, ev.evid = BitVec.ofNat 10 (0x382 + 4 * n) ∧ ev.evdata = 3) ∧
  (∀ (s : State) (n : Nat) (st : BitVec 4), (s.chan n).state ≠ .training ∨ s.now < (s.chan n).since + 250 * psMs →
    ∃ t, exec (.memTrainingTimeout n st) s = .next t ∧ t = s) ∧
  (∀ (s : State) (n : Nat), (s.chan n).state = .shutting ∧ (s.chan n).quiet = true ∧ (s.chan n).heldUp = none →
    ∃ t, exec (.memShutdownEnd n) s = .next t ∧ (t.chan n).state = (if (s.chan n).retain = true then .down else .off) ∧ (t.chan n).downCmds = [] ∧
      (t.chan n).lines = (if (s.chan n).retain = true then (s.chan n).lines else [])) ∧
  (∀ (s : State) (n k : Nat), (s.chan n).state = .shutting ∧ (s.chan n).quiet = true ∧ (s.chan n).heldUp = some k →
    ∃ t, exec (.memShutdownEnd n) s = .next t ∧ (t.chan n).heldUp = none ∧ (t.chan n).pendingEnable = false ∧
      ((s.chan n).retain = true → (t.chan n).state = .exiting ∧ (t.chan n).upCmd = some k) ∧
      ((s.chan n).retain = false → (s.declOf n).dimms ≠ 0 → (s.declOf n).rfm = false → (t.chan n).state = .training ∧ (t.chan n).upCmd = some k)) ∧
  (∀ (s : State) (n : Nat), (s.chan n).state = .exiting →
    ∃ t, exec (.memSrefExitEnd n) s = .next t ∧ (t.chan n).upCmd = none ∧ (t.chan n).lines = (s.chan n).lines ∧
      ((s.chan n).downCmds = [] → (t.chan n).state = .up) ∧ ((s.chan n).downCmds ≠ [] → (t.chan n).state = .shutting ∧ (t.chan n).downCmds = (s.chan n).downCmds)) ∧
  (∀ (s : State) (n : Nat), ((s.chan n).state = .up ∨ (s.chan n).state = .shutting) ∧ (s.chan n).alertRun < 7 →
    ∃ t, exec (.dramAlert n) s = .next t ∧ (t.chan n).state = (s.chan n).state ∧ (t.chan n).alertCnt = satInc (s.chan n).alertCnt ∧ (t.chan n).alertRun = (s.chan n).alertRun + 1 ∧
      ∀ sub, sub < 2 → (t.chan n).queue sub = ((s.chan n).queue sub).map fun e => { e with issued := false }) ∧
  (∀ (s : State) (n : Nat), ((s.chan n).state = .up ∨ (s.chan n).state = .shutting) ∧ (s.chan n).alertRun = 7 →
    ∃ t, exec (.dramAlert n) s = .next t ∧ (t.chan n).state = .fault ∧ (t.chan n).cause = 5 ∧ (t.chan n).serving = [] ∧ ∃ ev ∈ t.evr.raised, ev.evid = BitVec.ofNat 10 (0x382 + 4 * n) ∧ ev.evdata = 5)

/-- A request to a channel that is not UP is answered TGTERR. The entry that R382 picks is issued and its row stays open; one that writes a full line stores it through the Flashing unit with a fresh tag, and poison stores the mark. A line that comes back good answers a one-line read with its plaintext; a write merges its bytes and stores the whole line again; a corrected error is counted; an uncorrectable one is counted, leaves the line as it is and raises DRAM_UE; a poison mark counts in MEM_POISONED and not in MEM_UE. A request to a sleeping channel starts its wake; after 50 ns or 12 microseconds the channel serves again. -/
def Obligations.channelServes : Prop :=
  (∀ (s : State) (n p : Nat) (k : Pkt) (rest : List Pkt), s.elementAt 8 n (dramPort p) = .dram n p ∧ s.ridgeClock 8 = true ∧ tget [] (s.router 8 n).inbox (dramPort p) = k :: rest ∧ k.cls = .req ∧ s.portAdmits 8 n (dramPort p) k = true ∧ (s.chan n).state ≠ .up →
    ∃ t, exec (.targetRequest 8 n (dramPort p)) s = .next t ∧ tget [] (t.router 8 n).inbox (dramPort p) = rest ∧ t.dram = s.dram ∧
      ((tget [] (t.router 8 n).inq (8 * dramPort p + 2)).map fun a => (a.cls, a.src, a.tag, a.resp)) =
        ((tget [] (s.router 8 n).inq (8 * dramPort p + 2)).map fun a => (a.cls, a.src, a.tag, a.resp)) ++ [(.rsp, k.src, k.tag, respTgtErr)]) ∧
  (∀ (s : State) (n sub : Nat) (e : DramCmd), (s.chan n).serves = true ∧ sub < 2 ∧ (s.chan n).pd = false ∧ (s.chan n).sref = false ∧ s.feedOne n = none ∧ s.pick n sub = some e ∧ e.full = false →
    ∃ t, exec (.dramCommandIssue n sub) s = .next t ∧ (t.chan n).lastCmd = s.now ∧ tget 0 (t.chan n).openRow (s.locate e.ch e.c).bankKey = (s.locate e.ch e.c).row + 1 ∧
      (t.chan n).queue sub = ((s.chan n).queue sub).map (fun y => if y.ident = e.ident ∧ y.line = e.line then { y with issued := true } else y) ∧ t.dram.bytes = s.dram.bytes) ∧
  (∀ (s : State) (n sub : Nat) (e : DramCmd) (pk : DramPkt), (s.chan n).serves = true ∧ sub < 2 ∧ (s.chan n).pd = false ∧ (s.chan n).sref = false ∧ s.feedOne n = none ∧ s.pick n sub = some e ∧ e.full = true ∧ s.pktOf n e.ident = pk →
    ∃ t, exec (.dramCommandIssue n sub) s = .next t ∧ (t.chan n).queue sub = ((s.chan n).queue sub).filter (fun y => !(y.ident == e.ident && y.line == e.line)) ∧
      (pk.pkt.poison = true → t.lineState e.ch e.c = .poison ∧ t.dram.bytes = s.dram.bytes) ∧
      (pk.pkt.poison = false → t.dram.bytes = tabWrite s.dram.bytes (lineKey e.ch e.c) (flashCrypt e.flash false e.addr.toNat (pk.pkt.merge e.line (List.replicate 64 0))) ∧
        t.lineState e.ch e.c = .good (flashTag e.flash e.addr.toNat (flashCrypt e.flash false e.addr.toNat (pk.pkt.merge e.line (List.replicate 64 0)))))) ∧
  (∀ (s : State) (n sub : Nat), (s.chan n).serves = true ∧ sub < 2 ∧ ((s.chan n).pd = true ∨ (s.chan n).sref = true) ∧ (s.chan n).wakeAt = none ∧ ((s.chan n).serving ≠ [] ∨ (List.range 16).any (fun p => ((s.chan n).port p).level != 0) = true) →
    ∃ t, exec (.dramCommandIssue n sub) s = .next t ∧ t.chan n = { s.chan n with wakeAt := some s.now } ∧ s.changesOnly t [.dram]) ∧
  (∀ (s : State) (n w : Nat), n < 8 ∧ ((s.chan n).pd = true ∨ (s.chan n).sref = true) ∧ (s.chan n).wakeAt = some w ∧ w + (if (s.chan n).sref = true then 12000000 else 50000) ≤ s.now →
    ∃ t, exec (.dramLpExit n) s = .next t ∧ t.chan n = { s.chan n with pd := false, sref := false, wakeAt := none, lastCmd := s.now }) ∧
  (∀ (s : State) (n sub : Nat) (e : DramCmd) (pk : DramPkt) (tg : BitVec 64), (s.chan n).serves = true ∧ ((s.chan n).queue sub).find? (fun e => e.issued) = some e ∧ s.lineState e.ch e.c = .good tg ∧ (tagged e.flash = false ∨ flashTag e.flash e.addr.toNat (s.stored e.ch e.c) = tg) ∧ (s.chan n).serving.find? (fun x => x.ident == e.ident) = some pk ∧ pk.left = [e.line] ∧ pk.got = [] ∧ pk.resp = respOk ∧ pk.pkt.cls = .req ∧ opcWrite pk.pkt.opc = false ∧ opcRmw pk.pkt.opc = false ∧ e.line = 0 ∧ pk.pkt.addr.toNat % 64 + pk.pkt.len.toNat < 64 →
    ∃ t, exec (.dramReadReturn n sub .none) s = .next t ∧ (t.chan n).queue sub = ((s.chan n).queue sub).filter (fun y => !(y.ident == e.ident && y.line == e.line)) ∧
      (t.chan n).serving = (s.chan n).serving.filter (fun y => y.ident != e.ident) ∧ (t.chan n).alertRun = 0 ∧ t.dram.bytes = s.dram.bytes ∧
      ((tget [] (t.router 8 n).inq (8 * dramPort pk.port + 2)).map fun a => (a.cls, a.src, a.tag, a.resp, a.data)) =
        ((tget [] (s.router 8 n).inq (8 * dramPort pk.port + 2)).map fun a => (a.cls, a.src, a.tag, a.resp, a.data)) ++
          [(.rsp, pk.pkt.src, pk.pkt.tag, respOk, bytesAt (flashCrypt e.flash true e.addr.toNat (s.stored e.ch e.c)) (pk.pkt.addr.toNat % 64) (pk.pkt.len.toNat + 1))]) ∧
  (∀ (s : State) (n sub : Nat) (e : DramCmd) (tg : BitVec 64) (u : DramUpset), (s.chan n).serves = true ∧ ((s.chan n).queue sub).find? (fun e => e.issued) = some e ∧ s.lineState e.ch e.c = .good tg ∧ (tagged e.flash = false ∨ flashTag e.flash e.addr.toNat (s.stored e.ch e.c) = tg) ∧ opcWrite (s.pktOf n e.ident).pkt.opc = true ∧ opcRmw (s.pktOf n e.ident).pkt.opc = false ∧ (u = .none ∨ u = .corrected) →
    ∃ t, exec (.dramReadReturn n sub u) s = .next t ∧ (t.chan e.ch).ce = (if u = .corrected then satInc (s.chan e.ch).ce else (s.chan e.ch).ce) ∧
      t.dram.bytes = tabWrite s.dram.bytes (lineKey e.ch e.c) (flashCrypt e.flash false e.addr.toNat ((s.pktOf n e.ident).pkt.merge e.line (flashCrypt e.flash true e.addr.toNat (s.stored e.ch e.c))))) ∧
  (∀ (s : State) (n sub : Nat) (e : DramCmd) (tg : BitVec 64), (s.chan n).serves = true ∧ ((s.chan n).queue sub).find? (fun e => e.issued) = some e ∧ s.lineState e.ch e.c = .good tg →
    ∃ t, exec (.dramReadReturn n sub .uncorrectable) s = .next t ∧ (t.chan e.ch).ue = satInc (s.chan e.ch).ue ∧ t.lineState e.ch e.c = .bad ∧ t.dram.bytes = s.dram.bytes ∧
      ∃ ev ∈ t.evr.raised, ev.evid = BitVec.ofNat 10 (0x381 + 4 * e.ch)) ∧
  (∀ (s : State) (n sub : Nat) (e : DramCmd) (u : DramUpset), (s.chan n).serves = true ∧ ((s.chan n).queue sub).find? (fun e => e.issued) = some e ∧ s.lineState e.ch e.c = .poison →
    ∃ t, exec (.dramReadReturn n sub u) s = .next t ∧ (t.chan e.ch).poisoned = satInc (s.chan e.ch).poisoned ∧ (t.chan e.ch).ue = (s.chan e.ch).ue ∧ t.lineState e.ch e.c = .poison ∧
      t.dram.bytes = s.dram.bytes ∧ t.evr = s.evr ∧ t.log = s.log)

/-- A rank is refreshed each 3.9 microseconds, each 1.95 while the channel is hot; during panic up to four refreshes are owed. MR4 each 16 ms decides whether 2x refresh is in force, and above that range raises DRAM_HOT. ZQ calibration each 128 ms and DQS retracking each 16 ms run, in panic at most 1 ms late. An idle UP channel enters power-down or self-refresh after the time MEM_LP sets. Patrol scrub visits the next line of a scrubbed region, counts what it corrects, and counts a pass when none is left. -/
def Obligations.channelUpkeep : Prop :=
  (∀ (s : State) (n r : Nat), s.rankUp n r = true ∧ tget 0 (s.chan n).refAt r + (if (s.chan n).hot = true then 1950000 else 3900000) ≤ s.now ∧ (s.chan n).panicking = [] →
    ∃ t, exec (.dramRefresh n r) s = .next t ∧ tget 0 (t.chan n).refAt r = s.now ∧ tget 0 (t.chan n).owed r = 0 ∧ (∀ k, k / 32 % 16 = r → tget 0 (t.chan n).openRow k = 0) ∧ s.changesOnly t [.dram]) ∧
  (∀ (s : State) (n r : Nat), s.rankUp n r = true ∧ tget 0 (s.chan n).refAt r + (if (s.chan n).hot = true then 1950000 else 3900000) ≤ s.now ∧ (s.chan n).panicking ≠ [] ∧ tget 0 (s.chan n).owed r < 4 →
    ∃ t, exec (.dramRefresh n r) s = .next t ∧ tget 0 (t.chan n).refAt r = s.now ∧ tget 0 (t.chan n).owed r = tget 0 (s.chan n).owed r + 1 ∧ (t.chan n).openRow = (s.chan n).openRow) ∧
  (∀ (s : State) (n r : Nat), s.rankUp n r = false ∨ s.now < tget 0 (s.chan n).refAt r + (if (s.chan n).hot = true then 1950000 else 3900000) →
    ∃ t, exec (.dramRefresh n r) s = .next t ∧ t = s) ∧
  (∀ (s : State) (n r : Nat) (twice above : Bool), s.rankUp n r = true ∧ tget 0 (s.chan n).mr4At r + 16 * psMs ≤ s.now →
    ∃ t, exec (.dramMr4Poll n twice above r) s = .next t ∧ tget 0 (t.chan n).mr4At r = s.now ∧
      (t.chan n).hot = (twice || above || (s.chan n).hotRanks.any (fun k => k != r)) ∧
      (above = true → ∃ ev, t.evr.raised = s.evr.raised ++ [ev] ∧ ev.evid = BitVec.ofNat 10 (0x383 + 4 * n) ∧ ev.evdata = BitVec.ofNat 32 r) ∧ (above = false → t.evr = s.evr)) ∧
  (∀ (s : State) (n r : Nat), s.rankUp n r = true ∧ tget 0 (s.chan n).zqAt r + 128 * psMs ≤ s.now ∧ ((s.chan n).panicking = [] ∨ tget 0 (s.chan n).zqAt r + 129 * psMs ≤ s.now) →
    ∃ t, exec (.zqCalibration n r) s = .next t ∧ t.chan n = { s.chan n with zqAt := tput 0 (s.chan n).zqAt r s.now }) ∧
  (∀ (s : State) (n r : Nat), s.rankUp n r = true ∧ tget 0 (s.chan n).dqsAt r + 16 * psMs ≤ s.now ∧ ((s.chan n).panicking = [] ∨ tget 0 (s.chan n).dqsAt r + 17 * psMs ≤ s.now) →
    ∃ t, exec (.dqsRetrack n r) s = .next t ∧ t.chan n = { s.chan n with dqsAt := tput 0 (s.chan n).dqsAt r s.now }) ∧
  (∀ (s : State) (n : Nat), (s.chan n).state = .up ∧ (s.chan n).quiet = true ∧ (s.chan n).lpSel ≠ 0 ∧ (s.chan n).pd = false ∧ (s.chan n).sref = false ∧ s.flowHolds 5 0 n = false ∧ (s.chan n).lastCmd + (s.chan n).pdIdle.toNat * 10000 ≤ s.now →
    ∃ t, exec (.dramPdEntry n) s = .next t ∧ t.chan n = { s.chan n with pd := true, wakeAt := none } ∧ s.changesOnly t [.dram]) ∧
  (∀ (s : State) (n : Nat), (s.chan n).state = .up ∧ (s.chan n).quiet = true ∧ (s.chan n).lpSel = 2 ∧ (s.chan n).sref = false ∧ s.flowHolds 5 0 n = false ∧ (s.chan n).lastCmd + (s.chan n).srefIdle.toNat * psUs ≤ s.now →
    ∃ t, exec (.dramSrefEntry n) s = .next t ∧ t.chan n = { s.chan n with sref := true, pd := false, wakeAt := none } ∧ s.changesOnly t [.dram]) ∧
  (∀ (s : State) (n c a : Nat) (tg : BitVec 64) (u : DramUpset), (s.chan n).state = .up ∧ (s.chan n).quiet = true ∧ (s.chan n).pd = false ∧ (s.chan n).sref = false ∧ s.scrubNext n (s.chan n).scrubPos = some (c, a) ∧ s.lineState n c = .good tg ∧ (u = .none ∨ u = .corrected) →
    ∃ t, exec (.dramPatrolRead n u) s = .next t ∧ (t.chan n).ce = (if u = .corrected then satInc (s.chan n).ce else (s.chan n).ce) ∧ (t.chan n).lines = (s.chan n).lines ∧ t.dram.bytes = s.dram.bytes ∧
      ((s.scrubNext n (c + 64)).isSome = true → (t.chan n).scrubPos = c + 64 ∧ (t.chan n).scrubPass = (s.chan n).scrubPass) ∧
      ((s.scrubNext n (c + 64)) = none → (t.chan n).scrubPos = 0 ∧ (t.chan n).scrubPass = (s.chan n).scrubPass + 1))

/-- KEY_LOAD unwraps a memory key under the device key into the slot of every masked unit, and answers AUTH for a wrap that does not open and BAD_ARGUMENT where KEY1 is KEY2, with nothing loaded. KEY_REGION defines one Flashing region. KEY_LINK installs a link key, held as the next one while the link is ACTIVE, refuses the key of a failed link, and answers AUTH for a wrap that does not open. KEY_ERASE empties the slot in the masked units and no other, or erases a link key and takes an encrypted link out of ACTIVE to OFF. KEY_STATUS answers the slots, owners and links and changes nothing. -/
def Obligations.keyCommands : Prop :=
  (∀ (s : State) (m : Nat) (keys : List (BitVec 8)), s.asks m 0x0310 = true ∧ s.gable.gstate = .running ∧ s.hasRole m roleC = true ∧ (s.req m).len = 108 ∧ (s.req m).num 1 1 < 16 ∧ (s.req m).num 2 1 ≤ 1 ∧ (s.req m).zero 3 1 = true ∧ kwUnwrap s.cfg.deviceKey (List.replicate 7 0xA6 ++ [1]) (bytesAt (s.req m).arg 4 104) = some keys ∧ bytesAt keys 0 32 ≠ bytesAt keys 32 32 →
    ∃ t, exec (.keyLoad m) s = .next t ∧ s.answered t m stOk [] ∧
      (∀ n, n < 8 → bitOf ((s.req m).num 0 1) n = true → (t.funit n).slot ((s.req m).num 1 1) = { loaded := true, persist := (s.req m).num 2 1 == 1, owner := BitVec.ofNat 32 (if (s.req m).num 2 1 = 1 then 0 else s.sid m), keys := keys } ∧ ∀ k, k ≠ (s.req m).num 1 1 → (t.funit n).slot k = (s.funit n).slot k) ∧
      (∀ n, n < 8 → bitOf ((s.req m).num 0 1) n = false → t.funit n = s.funit n)) ∧
  (∀ (s : State) (m : Nat), s.asks m 0x0310 = true ∧ s.gable.gstate = .running ∧ s.hasRole m roleC = true ∧ (s.req m).len = 108 ∧ (s.req m).num 1 1 < 16 ∧ (s.req m).num 2 1 ≤ 1 ∧ (s.req m).zero 3 1 = true ∧ kwUnwrap s.cfg.deviceKey (List.replicate 7 0xA6 ++ [1]) (bytesAt (s.req m).arg 4 104) = none →
    ∃ t, exec (.keyLoad m) s = .next t ∧ s.answered t m stAuth [] ∧ t.flash = s.flash) ∧
  (∀ (s : State) (m : Nat) (keys : List (BitVec 8)), s.asks m 0x0310 = true ∧ s.gable.gstate = .running ∧ s.hasRole m roleC = true ∧ (s.req m).len = 108 ∧ (s.req m).num 1 1 < 16 ∧ (s.req m).num 2 1 ≤ 1 ∧ (s.req m).zero 3 1 = true ∧ kwUnwrap s.cfg.deviceKey (List.replicate 7 0xA6 ++ [1]) (bytesAt (s.req m).arg 4 104) = some keys ∧ bytesAt keys 0 32 = bytesAt keys 32 32 →
    ∃ t, exec (.keyLoad m) s = .next t ∧ s.answered t m stBadArgument [] ∧ t.flash = s.flash) ∧
  (∀ (s : State) (m r : Nat), s.asks m 0x0311 = true ∧ s.gable.gstate = .running ∧ s.hasRole m roleC = true ∧ (s.req m).len = 28 ∧ (s.req m).num 0 1 = r ∧ r < 64 ∧ (s.req m).num 1 1 < 16 ∧ 9 ≤ (s.req m).num 2 1 ∧ (s.req m).num 2 1 ≤ 12 ∧ (s.req m).num 3 1 < 8 ∧ (bitOf ((s.req m).num 3 1) 2 = false ∨ (regionSpanOk ((s.req m).num 4 8) ((s.req m).num 12 8) 4096 = true ∧ (s.fregions.any fun e => e.1 != r && e.2.meets ((s.req m).num 4 8) ((s.req m).num 12 8)) = false ∧ (bitOf ((s.req m).num 3 1) 1 = false ∨ ∀ k ∈ List.range 4, ∀ n ∈ (s.dram.ilv k).channelsIn ((s.req m).num 4 8) ((s.req m).num 12 8), (s.declOf n).eccB = true))) →
    ∃ t, exec (.keyRegion m) s = .next t ∧ s.answered t m stOk [] ∧ (∀ k, k ≠ r → tget FlashRegion.reset t.fregions k = tget FlashRegion.reset s.fregions k) ∧
      tget FlashRegion.reset t.fregions r = { valid := bitOf ((s.req m).num 3 1) 2, base := BitVec.ofNat 48 ((s.req m).num 4 8 / 4096 * 4096), limit := BitVec.ofNat 48 ((s.req m).num 12 8), lba := BitVec.ofNat 64 ((s.req m).num 20 8), slot := BitVec.ofNat 4 ((s.req m).num 1 1), sectorLog2 := BitVec.ofNat 4 ((s.req m).num 2 1), enc := bitOf ((s.req m).num 3 1) 0, integ := bitOf ((s.req m).num 3 1) 1 }) ∧
  (∀ (s : State) (m k : Nat) (key : List (BitVec 8)), s.asks m 0x0312 = true ∧ s.gable.gstate = .running ∧ (s.hasRole m roleC = true ∨ ((s.req m).num 0 1 = 1 ∧ (s.mbx m).opener = BitVec.ofNat 12 (0x8F0 + (s.req m).num 2 1))) ∧ (s.req m).len = 52 ∧ (s.req m).zero 3 1 = true ∧ s.keyedLink ((s.req m).num 0 1) ((s.req m).num 1 1) ((s.req m).num 2 1) = some k ∧ (s.req m).num 4 4 ≠ (s.req m).num 8 4 ∧ kwUnwrap s.cfg.deviceKey (List.replicate 7 0xA6 ++ [3]) (bytesAt (s.req m).arg 12 40) = some key ∧ (s.linkKey k).digest ≠ some (sha384 key) →
    ∃ t, exec (.keyLink m) s = .next t ∧ s.answered t m stOk [] ∧
      ((s.laneset k).state = .active → t.linkKey k = { s.linkKey k with next := some key, nextTx := BitVec.ofNat 32 ((s.req m).num 4 4), nextRx := BitVec.ofNat 32 ((s.req m).num 8 4), nextOwner := BitVec.ofNat 32 (s.sid m) }) ∧
      ((s.laneset k).state ≠ .active → t.linkKey k = { s.linkKey k with key := some key, txId := BitVec.ofNat 32 ((s.req m).num 4 4), rxId := BitVec.ofNat 32 ((s.req m).num 8 4), txCtr := 0, rxCtr := 0, owner := BitVec.ofNat 32 (s.sid m), needKey := false, digest := none, fails := [] })) ∧
  (∀ (s : State) (m k : Nat), s.asks m 0x0312 = true ∧ s.gable.gstate = .running ∧ s.hasRole m roleC = true ∧ (s.req m).len = 52 ∧ (s.req m).zero 3 1 = true ∧ s.keyedLink ((s.req m).num 0 1) ((s.req m).num 1 1) ((s.req m).num 2 1) = some k ∧ (s.req m).num 4 4 ≠ (s.req m).num 8 4 ∧ kwUnwrap s.cfg.deviceKey (List.replicate 7 0xA6 ++ [3]) (bytesAt (s.req m).arg 12 40) = none →
    ∃ t, exec (.keyLink m) s = .next t ∧ s.answered t m stAuth [] ∧ t.linkKeys = s.linkKeys) ∧
  (∀ (s : State) (m : Nat), s.asks m 0x0313 = true ∧ s.gable.gstate = .running ∧ s.hasRole m roleC = true ∧ (s.req m).len = 4 ∧ (s.req m).zero 3 1 = true ∧ (s.req m).num 0 1 = 0 ∧ (s.req m).num 2 1 < 16 →
    ∃ t, exec (.keyErase m) s = .next t ∧ s.answered t m stOk [] ∧
      (∀ n, n < 8 → bitOf ((s.req m).num 1 1) n = true → (t.funit n).slot ((s.req m).num 2 1) = KeySlot.reset ∧ ∀ k, k ≠ (s.req m).num 2 1 → (t.funit n).slot k = (s.funit n).slot k) ∧
      (∀ n, n < 8 → bitOf ((s.req m).num 1 1) n = false → t.funit n = s.funit n)) ∧
  (∀ (s : State) (m k : Nat), s.asks m 0x0313 = true ∧ s.gable.gstate = .running ∧ s.hasRole m roleC = true ∧ (s.req m).len = 4 ∧ (s.req m).zero 3 1 = true ∧ ((s.req m).num 0 1 = 1 ∨ (s.req m).num 0 1 = 2) ∧ s.keyedLink ((s.req m).num 0 1 - 1) ((s.req m).num 1 1) ((s.req m).num 2 1) = some k →
    ∃ t, exec (.keyErase m) s = .next t ∧ s.answered t m stOk [] ∧ (t.linkKey k).key = none ∧ (t.linkKey k).next = none ∧ (t.linkKey k).txCtr = 0 ∧
      ((s.laneset k).state = .active → (s.link k).encrypted = true → (t.laneset k).state = .off) ∧ ((s.link k).encrypted = false → t.laneset k = s.laneset k)) ∧
  (∀ (s : State) (m n : Nat), s.asks m 0x0314 = true ∧ s.gable.gstate = .running ∧ (s.req m).len = 4 ∧ (s.req m).num 0 1 = n ∧ n < 8 ∧ (s.req m).zero 1 3 = true →
    ∃ t, exec (.keyStatus m) s = .next t ∧ t.flash = s.flash ∧ t.linkKeys = s.linkKeys ∧
      s.answered t m stOk (leBytes 4 (s.funit n).slotBits ++ ((List.range 16).flatMap fun k => leBytes 4 ((s.funit n).slot k).owner.toNat) ++ [s.keyByte 144, s.keyByte 145] ++
        ((List.range 8).map fun i => if i / 4 < s.fuses.part.sites then s.keyByte (s.guestLink (i / 4) (i % 4)) else 0) ++ [0, 0]))

/-- A request that touches a line of a region whose key its unit does not hold is answered TGTERR and counts in FL_NOKEY. A read of a line whose tag fails is answered INTEG without data, counts in FL_INTEG, raises SEC_ALARM and leaves the line as stored; a partial write of such a line changes nothing and counts in FL_REFUSED. -/
def Obligations.flashingChecks : Prop :=
  (∀ (s : State) (n p : Nat) (k : Pkt) (rest : List Pkt), s.elementAt 8 n (dramPort p) = .dram n p ∧ s.ridgeClock 8 = true ∧ tget [] (s.router 8 n).inbox (dramPort p) = k :: rest ∧ k.cls = .req ∧ s.portAdmits 8 n (dramPort p) k = true ∧ (s.chan n).state = .up ∧ k.rmwOk = true ∧ (∃ i ∈ List.range k.lineCount, lacksKey (s.lineView n (k.lineAddr i)) = true) →
    ∃ t, exec (.targetRequest 8 n (dramPort p)) s = .next t ∧ tget [] (t.router 8 n).inbox (dramPort p) = rest ∧ (t.funit n).noKey = satInc (s.funit n).noKey ∧ t.dram = s.dram ∧
      ((tget [] (t.router 8 n).inq (8 * dramPort p + 2)).map fun a => (a.cls, a.src, a.tag, a.resp)) =
        ((tget [] (s.router 8 n).inq (8 * dramPort p + 2)).map fun a => (a.cls, a.src, a.tag, a.resp)) ++ [(.rsp, k.src, k.tag, respTgtErr)]) ∧
  (∀ (s : State) (n sub : Nat) (e : DramCmd) (pk : DramPkt) (tg : BitVec 64), (s.chan n).serves = true ∧ ((s.chan n).queue sub).find? (fun e => e.issued) = some e ∧ s.lineState e.ch e.c = .good tg ∧ tagged e.flash = true ∧ flashTag e.flash e.addr.toNat (s.stored e.ch e.c) ≠ tg ∧ (s.chan n).serving.find? (fun x => x.ident == e.ident) = some pk ∧ pk.left = [e.line] ∧ pk.resp = respOk ∧ pk.pkt.cls = .req ∧ (opcRead pk.pkt.opc = true ∨ opcWrite pk.pkt.opc = true) →
    ∃ t, exec (.dramReadReturn n sub .none) s = .next t ∧ t.dram.bytes = s.dram.bytes ∧ t.lineState e.ch e.c = .good tg ∧
      (opcRead pk.pkt.opc = true → (t.funit n).integCnt = satInc (s.funit n).integCnt ∧ (t.funit n).refused = (s.funit n).refused) ∧
      (opcWrite pk.pkt.opc = true → (t.funit n).refused = satInc (s.funit n).refused ∧ (t.funit n).integCnt = (s.funit n).integCnt) ∧
      (∃ ev ∈ t.evr.raised, ev.evid = 0x3A5) ∧
      ((tget [] (t.router 8 n).inq (8 * dramPort pk.port + 2)).map fun a => (a.cls, a.src, a.tag, a.resp, a.data)) =
        ((tget [] (s.router 8 n).inq (8 * dramPort pk.port + 2)).map fun a => (a.cls, a.src, a.tag, a.resp, a.data)) ++ [(.rsp, pk.pkt.src, pk.pkt.tag, respInteg, [])])

/-- DMA_GRANT grants the channel asked for, or the lowest free one, and is refused when none is free. DMA_RELEASE of the owner clears a channel with nothing outstanding and stops any other. DMA_QUERY answers status, grant and owner. A GO in IDLE promotes a valid shadow set and runs, waits for a START_AT in the future, and refuses an invalid set with SHADOW_ERR; a GO while running commits the next set; a GO in HALTED is TGTERR with no effect. STOP ends a running transfer, at once when nothing is outstanding; CLEAR takes HALTED to IDLE; SNAP copies the counters. MEM_INIT takes the lowest free channel, lets its MID write the regions it fills and runs it, or is BUSY. -/
def Obligations.dmaCommands : Prop :=
  (∀ (s : State) (m c : Nat), s.asks m 0x0320 = true ∧ s.gable.gstate = .running ∧ (s.hasRole m roleT = true ∨ (BitVec.ofNat 12 ((s.req m).num 4 2) = (s.mbx m).opener ∧ (s.req m).num 6 2 = 0xFFF ∧ (s.req m).num 1 1 = 0)) ∧ (s.req m).len = 8 ∧ (s.req m).num 1 1 ≤ 1 ∧ (s.req m).zero 2 2 = true ∧ (s.req m).num 4 2 < 4096 ∧ (s.req m).num 6 2 < 4096 ∧ s.dmaFreeCh c = true ∧ ((s.req m).num 0 1 = c ∨ ((s.req m).num 0 1 = 0xFF ∧ ∀ k ∈ List.range c, s.dmaFreeCh k = false)) →
    ∃ t, exec (.dmaGrant m) s = .next t ∧ s.answered t m stOk (leBytes 4 c) ∧ (∀ k, k ≠ c → t.dmaCh k = s.dmaCh k) ∧
      t.dmaCh c = { s.dmaCh c with valid := true, midVal := BitVec.ofNat 12 ((s.req m).num 4 2), midMask := BitVec.ofNat 12 ((s.req m).num 6 2), priv := (s.req m).num 1 1 == 1, owner := BitVec.ofNat 32 (s.sid m) }) ∧
  (∀ (s : State) (m : Nat), s.asks m 0x0320 = true ∧ s.gable.gstate = .running ∧ s.hasRole m roleT = true ∧ (s.req m).len = 8 ∧ (s.req m).num 1 1 ≤ 1 ∧ (s.req m).zero 2 2 = true ∧ (s.req m).num 4 2 < 4096 ∧ (s.req m).num 6 2 < 4096 ∧ (s.req m).num 0 1 < 32 ∧ s.dmaFreeCh ((s.req m).num 0 1) = false →
    ∃ t, exec (.dmaGrant m) s = .next t ∧ s.answered t m stRefusedResource [] ∧ t.dma = s.dma) ∧
  (∀ (s : State) (m c : Nat), s.asks m 0x0321 = true ∧ s.hasRoom m = true ∧ s.gable.gstate = .running ∧ (s.req m).len = 4 ∧ (s.req m).num 0 1 = c ∧ c < 32 ∧ (s.req m).zero 1 3 = true ∧ (s.dmaCh c).valid = true ∧ (s.dmaCh c).owner.toNat = s.sid m ∧ (s.dmaCh c).releasing = false ∧ s.fillOf c = none →
    ∃ t, exec (.dmaRelease m) s = .next t ∧ s.answered t m stAccepted [] ∧
      ((s.dmaCh c).outstanding = [] → (s.dmaCh c).state ≠ .stopping → t.dmaCh c = { DmaCh.reset with stamp := (s.dmaCh c).stamp }) ∧
      ((s.dmaCh c).outstanding ≠ [] → (s.dmaCh c).state = .busy → (t.dmaCh c).state = .stopping ∧ (t.dmaCh c).releasing = true ∧ (t.dmaCh c).relCmd = some (s.token m (s.req m)) ∧ (t.dmaCh c).beats = (s.dmaCh c).outstanding)) ∧
  (∀ (s : State) (m c : Nat), s.asks m 0x0322 = true ∧ s.gable.gstate = .running ∧ (s.req m).len = 4 ∧ (s.req m).num 0 1 = c ∧ c < 32 ∧ (s.req m).zero 1 3 = true →
    ∃ t, exec (.dmaQuery m) s = .next t ∧ t.dma = s.dma ∧ s.answered t m stOk (leBytes 4 (s.dmaCh c).status ++ leBytes 4 (s.dmaCh c).grantBits ++ leBytes 4 (s.dmaCh c).owner.toNat)) ∧
  (∀ (s : State) (w : Who) (c : Nat) (stop clear : Bool), c < 32 ∧ s.reaches w (hubBase 4 + c * 0x100) true = true ∧ s.dmaGranted c w.src = true ∧ ((s.dmaCh c).held = false ∨ w.src = 0x800) ∧ (s.dmaCh c).state = .idle ∧ s.pkgAwake = true ∧ (s.dmaCh c).shadow.valid = true ∧ (s.dmaCh c).shadow.timed = false →
    ∃ t, exec (.dmaGo w c stop clear) s = .next t ∧ t.okay 0 ∧ (t.dmaCh c).state = .busy ∧ (t.dmaCh c).active = (s.dmaCh c).shadow ∧ (t.dmaCh c).committed = false ∧
      (t.dmaCh c).rdPos = 0 ∧ (t.dmaCh c).wrPos = 0 ∧ (t.dmaCh c).wrBytes = 0 ∧ (t.dmaCh c).mismatch = 0 ∧ (t.dmaCh c).cause = 0 ∧ (t.dmaCh c).beats = []) ∧
  (∀ (s : State) (w : Who) (c p : Nat) (stop clear : Bool), c < 32 ∧ s.reaches w (hubBase 4 + c * 0x100) true = true ∧ s.dmaGranted c w.src = true ∧ ((s.dmaCh c).held = false ∨ w.src = 0x800) ∧ (s.dmaCh c).state = .idle ∧ s.pkgAwake = true ∧ (s.dmaCh c).shadow.valid = true ∧ (s.dmaCh c).shadow.timed = true ∧ p = expandShort (bitsOf (s.dmaCh c).shadow.startAt.toNat 40 8) (bitsOf (s.dmaCh c).shadow.startAt.toNat 0 40) (s.ps 8) →
    ∃ t, exec (.dmaGo w c stop clear) s = .next t ∧ t.okay 0 ∧ (t.dmaCh c).startP = p ∧ (t.dmaCh c).state = (if s.ps 8 < p then .wait else .busy) ∧ (s.ps 8 < p → (t.dmaCh c).late = (s.dmaCh c).late) ∧ (p ≤ s.ps 8 → (t.dmaCh c).late = true)) ∧
  (∀ (s : State) (w : Who) (c : Nat) (stop clear : Bool), c < 32 ∧ s.reaches w (hubBase 4 + c * 0x100) true = true ∧ s.dmaGranted c w.src = true ∧ ((s.dmaCh c).held = false ∨ w.src = 0x800) ∧ (s.dmaCh c).state = .idle ∧ s.pkgAwake = true ∧ (s.dmaCh c).shadow.valid = false →
    ∃ t, exec (.dmaGo w c stop clear) s = .next t ∧ t.okay 0 ∧ t.dmaCh c = { s.dmaCh c with committed := false, shadowErr := true }) ∧
  (∀ (s : State) (w : Who) (c : Nat) (clear : Bool), c < 32 ∧ s.reaches w (hubBase 4 + c * 0x100) true = true ∧ s.dmaGranted c w.src = true ∧ ((s.dmaCh c).held = false ∨ w.src = 0x800) ∧ ((s.dmaCh c).state = .wait ∨ (s.dmaCh c).state = .busy ∨ (s.dmaCh c).state = .readback) →
    ∃ t, exec (.dmaGo w c false clear) s = .next t ∧ t.okay 0 ∧ t.dmaCh c = { s.dmaCh c with committed := true }) ∧
  (∀ (s : State) (w : Who) (c : Nat) (stop : Bool), c < 32 ∧ s.reaches w (hubBase 4 + c * 0x100) true = true ∧ s.dmaGranted c w.src = true ∧ ((s.dmaCh c).held = false ∨ w.src = 0x800) ∧ (s.dmaCh c).state = .halted →
    ∃ t, exec (.dmaGo w c stop false) s = .next t ∧ t.rsp.resp = respTgtErr ∧ t.dma = s.dma) ∧
  (∀ (s : State) (w : Who) (c : Nat), c < 32 ∧ s.reaches w (hubBase 4 + c * 0x100) true = true ∧ s.dmaGranted c w.src = true ∧ (s.dmaCh c).releasing = false ∧ (s.dmaCh c).pendingEnable = false ∧ s.fillOf c = none →
    ∃ t, exec (.dmaStop w c) s = .next t ∧ t.okay 0 ∧
      ((s.dmaCh c).state = .busy ∨ (s.dmaCh c).state = .wait ∨ (s.dmaCh c).state = .readback → (t.dmaCh c).committed = false ∧ (t.dmaCh c).state = (if (s.dmaCh c).outstanding = [] then .idle else .stopping)) ∧
      ((s.dmaCh c).state = .idle ∨ (s.dmaCh c).state = .halted ∨ (s.dmaCh c).state = .stopping → t.dma = s.dma)) ∧
  (∀ (s : State) (w : Who) (c : Nat), c < 32 ∧ s.reaches w (hubBase 4 + c * 0x100) true = true ∧ s.dmaGranted c w.src = true ∧ ((s.dmaCh c).held = false ∨ w.src = 0x800) →
    ∃ t, exec (.dmaClear w c) s = .next t ∧ t.okay 0 ∧
      t.dmaCh c = (if (s.dmaCh c).state = .halted then { s.dmaCh c with state := .idle, committed := false, pendingEnable := false } else s.dmaCh c)) ∧
  (∀ (s : State) (w : Who) (c : Nat), c < 32 ∧ s.reaches w (hubBase 4 + c * 0x100) true = true ∧ s.dmaGranted c w.src = true →
    ∃ t, exec (.dmaSnap w c) s = .next t ∧ t.okay 0 ∧ t.dmaCh c = { s.dmaCh c with sRd := (s.dmaCh c).rdBytes, sWr := (s.dmaCh c).wrBytes, sBuf := (s.dmaCh c).bufCnt }) ∧
  (∀ (s : State) (w : Who) (c : Nat), c < 32 ∧ s.reaches w (hubBase 4 + c * 0x100) true = true ∧ s.dmaGranted c w.src = false →
    ∃ t, exec (.dmaStop w c) s = .next t ∧ t.rsp.resp = respDenied ∧ t.dma = s.dma) ∧
  (∀ (s : State) (m c : Nat), s.asks m 0x0303 = true ∧ s.hasRoom m = true ∧ s.gable.gstate = .running ∧ (s.req m).len = 24 ∧ (s.req m).num 0 8 % 64 = 0 ∧ (s.req m).num 8 8 % 64 = 0 ∧ 0 < (s.req m).num 8 8 ∧ (s.req m).num 0 8 + (s.req m).num 8 8 ≤ 2 ^ 42 ∧ s.mayWriteAll (s.mbx m).opener ((s.req m).num 0 8) ((s.req m).num 0 8 + (s.req m).num 8 8 - 1) = true ∧ s.dmaFreeCh c = true ∧ (∀ k ∈ List.range c, s.dmaFreeCh k = false) →
    ∃ t, exec (.memInit m) s = .next t ∧ s.answered t m stAccepted [] ∧ (t.dmaCh c).held = true ∧ (t.dmaCh c).state = .busy ∧ (t.dmaCh c).wrPos = 0 ∧
      t.fillOf c = some { mbx := s.token m (s.req m), base := (s.req m).num 0 8, limit := (s.req m).num 0 8 + (s.req m).num 8 8 - 1, pos := (s.req m).num 0 8, pattern := BitVec.ofNat 64 ((s.req m).num 16 8) } ∧
      (∀ r ∈ s.regionsIn ((s.req m).num 0 8) ((s.req m).num 0 8 + (s.req m).num 8 8 - 1), ({ mid := dmaMid c, wr := true } : TempEntry) ∈ (tget AclTable.reset t.acls r).temps)) ∧
  (∀ (s : State) (m : Nat), s.asks m 0x0303 = true ∧ s.hasRoom m = true ∧ s.gable.gstate = .running ∧ (s.req m).len = 24 ∧ (s.req m).num 0 8 % 64 = 0 ∧ (s.req m).num 8 8 % 64 = 0 ∧ 0 < (s.req m).num 8 8 ∧ (s.req m).num 0 8 + (s.req m).num 8 8 ≤ 2 ^ 42 ∧ s.mayWriteAll (s.mbx m).opener ((s.req m).num 0 8) ((s.req m).num 0 8 + (s.req m).num 8 8 - 1) = true ∧ (∀ k ∈ List.range 32, s.dmaFreeCh k = false) →
    ∃ t, exec (.memInit m) s = .next t ∧ s.answered t m stBusy [] ∧ t.dma = s.dma ∧ t.acls = s.acls ∧ t.dram = s.dram)

/-- A waiting channel starts when the time has come. The beat whose turn it is enters the network under a TAG of the channel's MID and moves the position of its side. A read answered OK joins the buffer and counts; a write answered OK counts as written, and when all is written and answered the read-back follows; its OK ends the transfer with DONE and the time stamp. A retryable failure with retries left is issued again after 1, 2, 4 … microseconds; any other halts the channel with its cause and address once nothing is outstanding. -/
def Obligations.dmaTransfers : Prop :=
  (∀ (s : State) (c : Nat), (s.dmaCh c).state = .wait ∧ (s.dmaCh c).startP ≤ s.ps 8 →
    ∃ t, exec (.dmaTimedStart c) s = .next t ∧ t.dmaCh c = { s.dmaCh c with state := .busy } ∧ s.changesOnly t [.dma]) ∧
  (∀ (s : State) (c : Nat), (s.dmaCh c).state = .wait ∧ s.ps 8 < (s.dmaCh c).startP →
    ∃ t, exec (.dmaTimedStart c) s = .next t ∧ t = s) ∧
  (∀ (s : State) (c : Nat) (kind : BeatKind) (b : Beat) (tag : BitVec 10), c < 32 ∧ (s.dmaCh c).nextBeat kind = some b ∧ s.dmaTurn c = true ∧ (s.master (dmaMid c)).freeTag = some tag →
    ∃ t, exec (.dmaBeatIssue c kind) s = .next t ∧ (t.dmaCh c).beats = (s.dmaCh c).beats ++ [{ b with tag := tag, retryAt := none, data := (s.copyData (s.dmaCh c).active b).2 }] ∧
      ((t.master (dmaMid c)).out.map fun o => (o.tag, o.addr)) = ((s.master (dmaMid c)).out.map fun o => (o.tag, o.addr)) ++ [(tag, b.addr)] ∧
      (t.dmaCh c).rdPos = (s.dmaCh c).rdPos + (if kind = .read then b.len else 0) ∧ (t.dmaCh c).rd2Pos = (s.dmaCh c).rd2Pos + (if kind = .readDst then b.len else 0) ∧
      (t.dmaCh c).wrPos = (s.dmaCh c).wrPos + (if kind = .write then b.len else 0) ∧ tget 0 t.dmaLast (c / 16) = c % 16) ∧
  (∀ (s : State) (c : Nat) (k : Pkt) (rest : List Pkt) (o : Outst) (b : Beat), (s.master (dmaMid c)).rsps = k :: rest ∧ (s.master (dmaMid c)).out.find? (fun o => o.tag == k.tag) = some o ∧ (s.dmaCh c).beats.find? (fun b => b.tag == o.tag && b.retryAt.isNone) = some b ∧ k.resp = respOk ∧ k.poison = false ∧ b.write = false ∧ b.side = false ∧ b.rb = false ∧ (s.dmaCh c).state = .busy ∧ (s.dmaCh c).active.mode = 0 ∧ (s.dmaCh c).wrPos ≤ b.pos ∧ (s.dmaCh c).wrPos ≠ (s.dmaCh c).active.dstShape.total →
    ∃ t, exec (.dmaBeatResponse c) s = .next t ∧ (t.dmaCh c).state = .busy ∧ (t.dmaCh c).rdBytes = (s.dmaCh c).rdBytes + BitVec.ofNat 48 b.len ∧ (t.dmaCh c).bufCnt = (s.dmaCh c).bufCnt + BitVec.ofNat 13 b.len ∧
      tabBytes (t.dmaCh c).buf b.pos b.len = bytesAt k.data 0 b.len ∧ (t.dmaCh c).beats = (s.dmaCh c).beats.filter (fun y => !(y.tag == o.tag && y.retryAt.isNone)) ∧ (t.master (dmaMid c)).rsps = rest) ∧
  (∀ (s : State) (c : Nat) (k : Pkt) (rest : List Pkt) (o : Outst) (b : Beat), (s.master (dmaMid c)).rsps = k :: rest ∧ (s.master (dmaMid c)).out.find? (fun o => o.tag == k.tag) = some o ∧ (s.dmaCh c).beats.find? (fun b => b.tag == o.tag && b.retryAt.isNone) = some b ∧ k.resp = respOk ∧ k.poison = false ∧ b.write = true ∧ b.rb = false ∧ (s.dmaCh c).state = .busy ∧ (s.dmaCh c).active.mode ≠ 3 →
    ∃ t, exec (.dmaBeatResponse c) s = .next t ∧ (t.dmaCh c).wrBytes = (s.dmaCh c).wrBytes + BitVec.ofNat 48 b.len ∧ (t.dmaCh c).bufCnt = (s.dmaCh c).bufCnt - BitVec.ofNat 13 b.len ∧
      (t.dmaCh c).state = (if (s.dmaCh c).wrPos = (s.dmaCh c).active.dstShape.total ∧ (t.dmaCh c).beats = [] then .readback else .busy)) ∧
  (∀ (s : State) (c : Nat) (k : Pkt) (rest : List Pkt) (o : Outst) (b : Beat), (s.master (dmaMid c)).rsps = k :: rest ∧ (s.master (dmaMid c)).out.find? (fun o => o.tag == k.tag) = some o ∧ (s.dmaCh c).beats.find? (fun b => b.tag == o.tag && b.retryAt.isNone) = some b ∧ k.resp = respOk ∧ k.poison = false ∧ b.rb = true ∧ (s.dmaCh c).state = .readback ∧ s.fillOf c = none ∧ (s.dmaCh c).committed = false →
    ∃ t, exec (.dmaBeatResponse c) s = .next t ∧ (t.dmaCh c).state = .idle ∧ (t.dmaCh c).done = true ∧ (t.dmaCh c).stamp = s.stamp 8 ∧
      ((s.dmaCh c).irqDone = true → ∃ ev, t.evr.raised = s.evr.raised ++ [ev] ∧ ev.evid = BitVec.ofNat 10 (0x340 + c)) ∧ ((s.dmaCh c).irqDone = false → t.evr = s.evr)) ∧
  (∀ (s : State) (c : Nat) (k : Pkt) (rest : List Pkt) (o : Outst) (b : Beat), (s.master (dmaMid c)).rsps = k :: rest ∧ (s.master (dmaMid c)).out.find? (fun o => o.tag == k.tag) = some o ∧ (s.dmaCh c).beats.find? (fun b => b.tag == o.tag && b.retryAt.isNone) = some b ∧ (k.resp = respTgtErr ∨ k.resp = respBayDown ∨ k.resp = respTimeout) ∧ b.tries < (s.dmaCh c).active.retry ∧ (s.dmaCh c).state ≠ .stopping →
    ∃ t, exec (.dmaBeatResponse c) s = .next t ∧ (t.dmaCh c).state = (s.dmaCh c).state ∧
      (t.dmaCh c).beats = (s.dmaCh c).beats.filter (fun y => !(y.tag == o.tag && y.retryAt.isNone)) ++ [{ b with tries := b.tries + 1, retryAt := some (s.now + 2 ^ b.tries * 1000000) }]) ∧
  (∀ (s : State) (c : Nat) (k : Pkt) (rest : List Pkt) (o : Outst) (b : Beat), (s.master (dmaMid c)).rsps = k :: rest ∧ (s.master (dmaMid c)).out.find? (fun o => o.tag == k.tag) = some o ∧ (s.dmaCh c).beats.find? (fun b => b.tag == o.tag && b.retryAt.isNone) = some b ∧ (k.resp = respDenied ∨ k.resp = respNoTarget) ∧ (s.dmaCh c).state ≠ .stopping ∧ (s.dmaCh c).releasing = false ∧ s.fillOf c = none →
    ∃ t, exec (.dmaBeatResponse c) s = .next t ∧ (t.dmaCh c).cause = k.resp ∧ (t.dmaCh c).haltAddr = b.addr ∧ (t.dmaCh c).side = b.side ∧ (t.dmaCh c).rb = b.rb ∧ (t.dmaCh c).retried = false ∧
      ((s.dmaCh c).beats = [b] → (t.dmaCh c).state = .halted ∧ (t.dmaCh c).beats = [])) ∧
  (∀ (s : State) (c : Nat) (tag tg : BitVec 10) (b : Beat), c < 32 ∧ (s.dmaCh c).beats.find? (fun b => b.tag == tag && b.retryAt.any (fun t => decide (t ≤ s.now))) = some b ∧ ((s.dmaCh c).state = .busy ∨ (s.dmaCh c).state = .readback) ∧ (s.master (dmaMid c)).freeTag = some tg →
    ∃ t, exec (.dmaRetryTimer c tag) s = .next t ∧ (t.dmaCh c).retries = satInc (s.dmaCh c).retries ∧
      (t.dmaCh c).beats = (s.dmaCh c).beats.filter (fun y => !(y.tag == tag && y.retryAt.isSome)) ++ [{ b with tag := tg, retryAt := none }])

/-- For every mailbox command of the block: a doorbell that is not the next one of a running engine, and one that names another command, wait. While the engine restarts it answers BUSY, failed FAULT, and halted nothing. Otherwise a malformed header is BAD_ARGUMENT; then a SESSION that is not the mailbox's, STATE; then a SEQ still running, PENDING; then a recorded SEQ, its status again with DUP; then an unknown command, BAD_COMMAND; then the role or owner check, DENIED; then the arguments, BAD_ARGUMENT; and an A command of a session that already holds 16 completions, BUSY. None of these changes anything but the mailbox and raised events. -/
def Obligations.mailboxOrder : Prop :=
  (∀ (i : Instr) (c : Command) (s : State) (m : Nat), mailboxOf i = some (c, m) ∧ (s.rings m = false ∨ s.gable.gstate = .halted ∨ ((s.req m).cmd ≠ c.code ∧ (s.req m).cmd ∈ knownCodes)) →
    ∃ t, exec i s = .next t ∧ t = s) ∧
  (∀ (i : Instr) (c : Command) (s : State) (m : Nat), mailboxOf i = some (c, m) ∧ s.rings m = true ∧ (s.req m).cmd = c.code ∧ (s.gable.gstate = .restarting ∨ s.gable.gstate = .failed) →
    ∃ t, exec i s = .next t ∧ (t.mbx m).ringing = false ∧ (t.mbx m).rsp = answerBytes (if s.gable.gstate = .restarting then stBusy else stFault) (s.req m).seq false false 0 [] ∧ s.changesOnly t [.gable, .evr]) ∧
  (∀ (i : Instr) (c : Command) (s : State) (m : Nat), mailboxOf i = some (c, m) ∧ s.rings m = true ∧ s.gable.gstate = .running ∧ (s.req m).cmd = c.code ∧ ((s.req m).flags ≠ 0 ∨ (s.req m).res ≠ 0 ∨ 240 < (s.req m).len) →
    ∃ t, exec i s = .next t ∧ s.refused t m stBadArgument false) ∧
  (∀ (i : Instr) (c : Command) (s : State) (m : Nat), mailboxOf i = some (c, m) ∧ s.rings m = true ∧ s.gable.gstate = .running ∧ (s.req m).cmd = c.code ∧ (s.req m).flags = 0 ∧ (s.req m).res = 0 ∧ (s.req m).len ≤ 240 ∧ s.sessionOk m (s.req m) = false →
    ∃ t, exec i s = .next t ∧ s.refused t m stState false) ∧
  (∀ (i : Instr) (c : Command) (s : State) (m : Nat), mailboxOf i = some (c, m) ∧ s.rings m = true ∧ s.gable.gstate = .running ∧ (s.req m).cmd = c.code ∧ (s.req m).flags = 0 ∧ (s.req m).res = 0 ∧ (s.req m).len ≤ 240 ∧ s.sessionOk m (s.req m) = true ∧ (s.req m).session ≠ 0 ∧ (s.req m).session = s.sid m ∧ ((s.mbx m).running.any fun x => x.seq == BitVec.ofNat 16 (s.req m).seq) = true →
    ∃ t, exec i s = .next t ∧ s.refused t m stPending false) ∧
  (∀ (i : Instr) (c : Command) (s : State) (m : Nat) (q : BitVec 16) (st : BitVec 8), mailboxOf i = some (c, m) ∧ s.rings m = true ∧ s.gable.gstate = .running ∧ (s.req m).cmd = c.code ∧ (s.req m).flags = 0 ∧ (s.req m).res = 0 ∧ (s.req m).len ≤ 240 ∧ s.sessionOk m (s.req m) = true ∧ (s.req m).session ≠ 0 ∧ (s.req m).session = s.sid m ∧ ((s.mbx m).running.any fun x => x.seq == BitVec.ofNat 16 (s.req m).seq) = false ∧ (s.mbx m).recorded.find? (fun e => e.1 == BitVec.ofNat 16 (s.req m).seq) = some (q, st) →
    ∃ t, exec i s = .next t ∧ s.refused t m st.toNat true) ∧
  (∀ (i : Instr) (c : Command) (s : State) (m : Nat), mailboxOf i = some (c, m) ∧ s.asks m (s.req m).cmd = true ∧ s.gable.gstate = .running ∧ (s.req m).cmd ≠ c.code ∧ (s.req m).cmd ∉ knownCodes →
    ∃ t, exec i s = .next t ∧ s.refused t m stBadCommand false) ∧
  (∀ (i : Instr) (c : Command) (s : State) (m : Nat), mailboxOf i = some (c, m) ∧ s.asks m c.code = true ∧ s.gable.gstate = .running ∧ c.may (s.heard m) m (s.req m) = false →
    ∃ t, exec i s = .next t ∧ s.refused t m stDenied false) ∧
  (∀ (i : Instr) (c : Command) (s : State) (m : Nat), mailboxOf i = some (c, m) ∧ s.asks m c.code = true ∧ s.gable.gstate = .running ∧ c.may (s.heard m) m (s.req m) = true ∧ c.argOk (s.heard m) (s.req m) = false →
    ∃ t, exec i s = .next t ∧ s.refused t m stBadArgument false) ∧
  (∀ (i : Instr) (c : Command) (s : State) (m : Nat), mailboxOf i = some (c, m) ∧ s.asks m c.code = true ∧ s.gable.gstate = .running ∧ c.may (s.heard m) m (s.req m) = true ∧ c.argOk (s.heard m) (s.req m) = true ∧ c.async = true ∧ s.hasRoom m = false →
    ∃ t, exec i s = .next t ∧ s.refused t m stBusy false)

/-- MBX_OPEN of an unbound mailbox with an offered version binds it to the MID that rang, with the next GEN, the roles of the ADMIN entries and the heartbeat period; another version is VERSION and a bound mailbox STATE. MBX_CLOSE unbinds it and releases its flows, stated here where no image of the session is being pushed. MBX_HEARTBEAT restarts the timer; a timer that runs out raises SESSION_TIMEOUT and closes the session. ID_GET, FW_INFO and MBX_SESSIONS answer and change nothing. PORT_TIMEOUT sets the timeout of a master's port, or is STATE where an admitted flow's deadline needs a longer one. A completion that is acknowledged gives way to the oldest that waits. MBX_EVPOP pops the oldest record of the mailbox's lowest output for the opener alone. -/
def Obligations.sessionCommands : Prop :=
  (∀ (s : State) (m : Nat), s.asks m 0x0900 = true ∧ s.gable.gstate = .running ∧ (s.mbx m).bound = false ∧ (s.req m).len = 8 ∧ (s.req m).zero 2 2 = true ∧ ((s.req m).num 4 4 = 0 ∨ (100 ≤ (s.req m).num 4 4 ∧ (s.req m).num 4 4 ≤ 600000)) ∧ (s.req m).num 0 1 = s.ifVer / 256 ∧ (s.req m).num 1 1 ≤ s.ifVer % 256 →
    ∃ t, exec (.mbxOpen m) s = .next t ∧ (t.mbx m).bound = true ∧ (t.mbx m).gen = (if (s.mbx m).gen = 0xFFFFFF then 1 else (s.mbx m).gen + 1) ∧ (t.mbx m).opener = (s.mbx m).ringSrc ∧
      (t.mbx m).roles = s.rolesOf (s.mbx m).ringSrc ∧ (t.mbx m).hbMs = (if (s.req m).num 4 4 = 0 then 10000 else (s.req m).num 4 4) ∧ (t.mbx m).hbAt = s.now ∧ (t.mbx m).ringing = false ∧
      (t.mbx m).rsp = answerBytes stOk (s.req m).seq false false (t.sid m) (leBytes 4 (t.sid m) ++ leBytes 1 (t.mbx m).roles.toNat ++ leBytes 3 0 ++ leBytes 2 s.ifVer ++ leBytes 2 0 ++ leBytes 4 (t.mbx m).hbMs)) ∧
  (∀ (s : State) (m : Nat), s.asks m 0x0900 = true ∧ s.gable.gstate = .running ∧ (s.req m).len = 8 ∧ (s.req m).zero 2 2 = true ∧ ((s.req m).num 4 4 = 0 ∨ (100 ≤ (s.req m).num 4 4 ∧ (s.req m).num 4 4 ≤ 600000)) ∧ ((s.mbx m).bound = true ∨ (s.req m).num 0 1 ≠ s.ifVer / 256 ∨ s.ifVer % 256 < (s.req m).num 1 1) →
    ∃ t, exec (.mbxOpen m) s = .next t ∧ s.answered t m (if (s.mbx m).bound = true then stState else stVersion) [] ∧ (t.mbx m).bound = (s.mbx m).bound ∧ (t.mbx m).gen = (s.mbx m).gen ∧ (t.mbx m).opener = (s.mbx m).opener) ∧
  (∀ (s : State) (m : Nat), s.asks m 0x0901 = true ∧ s.gable.gstate = .running ∧ (s.req m).len = 0 ∧ s.sid m ≠ 0 ∧ s.cfg.keepSess ≠ some (s.sid m) ∧ (s.cfg.stream.isOpen && s.cfg.stream.src == 3 && s.cfg.stream.mbx.any (fun k => k / 65536 == s.sid m)) = false →
    ∃ t, exec (.mbxClose m) s = .next t ∧ s.answered t m stOk [] ∧ (t.mbx m).bound = false ∧ (t.mbx m).roles = 0 ∧ (t.mbx m).irqEn = 0 ∧ (t.mbx m).running = [] ∧ (t.mbx m).queue = [] ∧
      ∀ i, (t.flow i).used = true → (t.flow i).owner ≠ s.sid m) ∧
  (∀ (s : State) (m : Nat), s.asks m 0x0902 = true ∧ s.gable.gstate = .running ∧ (s.req m).len = 0 ∧ s.sid m ≠ 0 →
    ∃ t, exec (.mbxHeartbeat m) s = .next t ∧ s.answered t m stOk [] ∧ (t.mbx m).hbAt = s.now ∧ (t.mbx m).hbUsed = 0 ∧ (t.mbx m).bound = (s.mbx m).bound) ∧
  (∀ (s : State) (m : Nat), s.hbDue m = true ∧ s.sid m ≠ 0 ∧ m < 64 ∧ s.cfg.keepSess ≠ some (s.sid m) ∧ (s.cfg.stream.isOpen && s.cfg.stream.src == 3 && s.cfg.stream.mbx.any (fun k => k / 65536 == s.sid m)) = false →
    ∃ t, exec (.heartbeatTimeout m) s = .next t ∧ (t.mbx m).bound = false ∧ ∃ ev ∈ t.evr.raised, ev.evid = 0x3A7 ∧ ev.evdata = BitVec.ofNat 32 m) ∧
  (∀ (s : State) (m : Nat), s.hbDue m = false →
    ∃ t, exec (.heartbeatTimeout m) s = .next t ∧ t = s) ∧
  (∀ (s : State) (m : Nat), s.asks m 0x0000 = true ∧ s.gable.gstate = .running ∧ (s.req m).len = 0 →
    ∃ t, exec (.idGet m) s = .next t ∧ s.answered t m stOk (leBytes 4 s.fuses.part.code ++ leBytes 4 s.idTopology ++ leBytes 4 0xB0 ++ leBytes 4 s.ids.gableIf.toNat ++ leBytes 8 s.ids.bundle.toNat ++ leBytes 8 s.fuses.unique.toNat) ∧ t.ids = s.ids) ∧
  (∀ (s : State) (m : Nat), s.asks m 0x0001 = true ∧ s.gable.gstate = .running ∧ (s.req m).len = 0 →
    ∃ t, exec (.fwInfo m) s = .next t ∧ s.answered t m stOk (leBytes 2 s.cfg.fwIf.toNat ++ leBytes 2 0 ++ leBytes 8 s.ids.bundle.toNat ++ leBytes 2 s.gable.restarts.toNat ++ leBytes 1 s.gable.cause.toNat ++ leBytes 1 s.sessions.length)) ∧
  (∀ (s : State) (m : Nat), s.asks m 0x0903 = true ∧ s.gable.gstate = .running ∧ (s.req m).len = 4 ∧ (s.req m).zero 1 3 = true ∧ (s.req m).num 0 1 < 64 →
    ∃ t, exec (.mbxSessions m) s = .next t ∧ (∀ k, k < 64 → t.sid k = s.sid k) ∧
      s.answered t m stOk (leBytes 1 ((((List.range 64).drop ((s.req m).num 0 1)).filter fun k => (s.mbx k).bound).take 29).length ++ leBytes 3 0 ++
        ((((List.range 64).drop ((s.req m).num 0 1)).filter fun k => (s.mbx k).bound).take 29).flatMap fun k => leBytes 4 (s.sid k) ++ leBytes 2 (s.mbx k).opener.toNat ++ leBytes 1 (s.mbx k).roles.toNat ++ [0])) ∧
  (∀ (s : State) (m : Nat), s.asks m 0x0203 = true ∧ s.gable.gstate = .running ∧ s.hasRole m roleC = true ∧ (s.req m).len = 8 ∧ (s.req m).zero 2 2 = true ∧ (s.req m).num 0 2 < 4096 ∧ s.isMaster (BitVec.ofNat 12 ((s.req m).num 0 2)) = true ∧ 1 ≤ (s.req m).num 4 4 ∧ (s.req m).num 4 4 ≤ 1048575 ∧ (s.flows.any fun e => e.2.used && e.2.mid == BitVec.ofNat 12 ((s.req m).num 0 2) && e.2.cls == .req && decide ((s.req m).num 4 4 * 1000 ≤ e.2.deadline.toNat)) = false →
    ∃ t, exec (.portTimeout m) s = .next t ∧ s.answered t m stOk [] ∧ t.timeoutUs (BitVec.ofNat 12 ((s.req m).num 0 2)) = (s.req m).num 4 4) ∧
  (∀ (s : State) (m : Nat), s.asks m 0x0203 = true ∧ s.gable.gstate = .running ∧ s.hasRole m roleC = true ∧ (s.req m).len = 8 ∧ (s.req m).zero 2 2 = true ∧ (s.req m).num 0 2 < 4096 ∧ s.isMaster (BitVec.ofNat 12 ((s.req m).num 0 2)) = true ∧ 1 ≤ (s.req m).num 4 4 ∧ (s.req m).num 4 4 ≤ 1048575 ∧ (s.flows.any fun e => e.2.used && e.2.mid == BitVec.ofNat 12 ((s.req m).num 0 2) && e.2.cls == .req && decide ((s.req m).num 4 4 * 1000 ≤ e.2.deadline.toNat)) = true →
    ∃ t, exec (.portTimeout m) s = .next t ∧ s.answered t m stState [] ∧ t.routers = s.routers ∧ t.masters = s.masters) ∧
  (∀ (s : State) (w : Who) (m : Nat), m < 64 ∧ s.reaches w (hubBase 1 + m * 0x1000 + 0x210) true = true →
    ∃ t, exec (.mbxCplAck w m) s = .next t ∧ t.okay 0 ∧
      ((s.mbx m).queue = [] ∨ s.gableServes = false → t.mbx m = { s.mbx m with cplValid := false }) ∧
      (∀ c rest, (s.mbx m).queue = c :: rest → s.gableServes = true → (t.mbx m).cplValid = true ∧ (t.mbx m).queue = rest ∧ (t.mbx m).cpl = answerBytes c.status.toNat c.seq.toNat false true (s.sid m) c.data)) ∧
  (∀ (s : State) (w : Who) (m k : Nat) (e : Event) (rest : List Event), m < 64 ∧ s.reaches w (hubBase 1 + m * 0x1000 + 0x218) false = true ∧ (w.src ≠ 0x801 ∨ w.effect = true) ∧ s.mayPop w.src m = true ∧ s.mbxOut m = some k ∧ (s.evOut k).fifo = e :: rest →
    ∃ t, exec (.mbxEvpop w m) s = .next t ∧ t.okay e.record ∧ (t.evOut k).fifo = rest ∧ (t.mbx m).evStamp = e.stamp ∧ ∀ j, j ≠ k → t.evOut j = s.evOut j) ∧
  (∀ (s : State) (w : Who) (m : Nat), m < 64 ∧ s.reaches w (hubBase 1 + m * 0x1000 + 0x218) false = true ∧ (w.src ≠ 0x801 ∨ w.effect = true) →
    ∃ t, exec (.mbxEvpop w m) s = .next t ∧ (s.mayPop w.src m = false → t.rsp.resp = respDenied ∧ t.gable = s.gable) ∧ (s.mayPop w.src m = true → s.mbxOut m = none → t.okay 0 ∧ t.evr = s.evr))

/-- A watchdog that is not reloaded for 100 ms, and each other cause, begins a restart: GSTATE RESTARTING, the count and the cause. A cause while it restarts begins it again; the fifth beginning makes it FAILED. A restart that ends with its firmware restored runs again, as recovery where there is none, with nothing pending; one that does not is FAILED with the configuration error. The SRAM scrub of every 10 s goes on after a single-bit error and restarts with cause DATA after a double one. -/
def Obligations.gableRestarts : Prop :=
  (∀ (s : State), s.gable.wdtAt + 100000000000 ≤ s.now ∧ (s.gable.haltReq = false ∨ s.gable.haltAt ≠ s.now) ∧ (s.gable.gstate = .running ∨ s.gable.gstate = .recovery) ∧ s.engineRuns = true →
    ∃ t, exec .watchdogExpire s = .next t ∧ t.gable.gstate = .restarting ∧ t.gable.cause = 1 ∧ t.gable.restarts = satInc s.gable.restarts ∧ t.gable.beginnings = 1 ∧ t.gable.wdtAt = s.now ∧
      ∃ ev ∈ t.evr.raised, ev.evid = 0x3A8 ∧ ev.evdata = 1) ∧
  (∀ (s : State), s.now < s.gable.wdtAt + 100000000000 ∨ (s.gable.haltReq = true ∧ s.gable.haltAt = s.now) ∨ s.engineRuns = false →
    ∃ t, exec .watchdogExpire s = .next t ∧ t = s) ∧
  (∀ (s : State) (cause : BitVec 3) (a : BitVec 32) (r1 r2 : Bool), (cause = 2 ∨ cause = 3 ∨ cause = 4) ∧ s.engineRuns = true ∧ s.gable.gstate ≠ .failed ∧ s.gable.gstate ≠ .halted →
    ∃ t, exec (.gableRestart cause a r1 r2) s = .next t ∧
      (s.gable.gstate = .restarting → 4 ≤ s.gable.beginnings → t.gable.gstate = .failed ∧ t.cfg.cfgErr = true) ∧
      (s.gable.gstate = .restarting → s.gable.beginnings < 4 → t.gable.gstate = .restarting ∧ t.gable.beginnings = s.gable.beginnings + 1 ∧ t.gable.cause = cause ∧ t.gable.pendCauses = s.gable.pendCauses ++ [(cause, a)]) ∧
      (s.gable.gstate ≠ .restarting → t.gable.gstate = .restarting ∧ t.gable.beginnings = 1 ∧ t.gable.cause = cause ∧ t.gable.restarts = satInc s.gable.restarts)) ∧
  (∀ (s : State) (a : BitVec 32), s.gable.gstate = .restarting ∧ s.engineRuns = true →
    ∃ t, exec (.gableRestart 0 a true true) s = .next t ∧ t.gable.gstate = (if s.cfg.fwIf = 0 then .recovery else .running) ∧ t.gable.beginnings = 0 ∧ t.gable.pendCauses = [] ∧
      ∀ m, (t.mbx m).bound = (s.mbx m).bound ∧ (t.mbx m).gen = (s.mbx m).gen) ∧
  (∀ (s : State) (a : BitVec 32) (ok : Bool), s.gable.gstate = .restarting ∧ s.engineRuns = true →
    ∃ t, exec (.gableRestart 0 a false ok) s = .next t ∧ t.gable.gstate = .failed ∧ t.cfg.cfgErr = true) ∧
  (∀ (s : State) (u : Upset), (s.gable.gstate = .running ∨ s.gable.gstate = .recovery) ∧ s.engineRuns = true ∧ s.gable.scrubAt + 10000000000000 ≤ s.now →
    ∃ t, exec (.gableSramScrub u) s = .next t ∧ t.gable.scrubAt = s.now ∧ (u ≠ .double → t.gable = { s.gable with scrubAt := s.now } ∧ s.changesOnly t [.gable]) ∧ (u = .double → t.gable.gstate = .restarting ∧ t.gable.cause = 3))

/-- CLK_STATUS answers source, state, frequency and failures of a node; the frequency of a node declared failed is not stated by the spec and is a free value (log entry of the model). CLK_SELECT of a net or FPLL that runs, onto a source that runs, is ACCEPTED and pending with its fallback; one that is pending is BUSY, and one a flow hangs on is STATE. For PREF whether the new reference lies within 300 ppm is a free value, so it is ACCEPTED or STATE. The switch ends when both sources run, and is forced only after its old source is declared failed. -/
def Obligations.clockCommands : Prop :=
  (∀ (s : State) (m c : Nat), s.asks m 0x0600 = true ∧ s.gable.gstate = .running ∧ (s.req m).len = 4 ∧ (s.req m).zero 2 2 = true ∧ (s.req m).num 0 2 = c ∧ s.hasClock c = true ∧ (s.nodeState c = .stopped ∨ (s.node c).failed = false) →
    ∃ t, exec (.clkStatus m) s = .next t ∧ t.clk = s.clk ∧ s.answered t m stOk (leBytes 1 (s.node c).source.toNat ++ leBytes 1 (s.nodeState c).code ++ [0, 0] ++ leBytes 4 (if s.nodeState c = .stopped then 0 else s.nodeKhz c) ++ leBytes 4 (s.node c).fails.toNat)) ∧
  (∀ (s : State) (m c : Nat), s.asks m 0x0600 = true ∧ s.gable.gstate = .running ∧ (s.req m).len = 4 ∧ (s.req m).zero 2 2 = true ∧ (s.req m).num 0 2 = c ∧ s.hasClock c = true ∧ s.nodeState c ≠ .stopped ∧ (s.node c).failed = true →
    ∃ t, exec (.clkStatus m) s = .next t ∧ t.clk = s.clk ∧ ∃ khz, s.answered t m stOk (leBytes 1 (s.node c).source.toNat ++ leBytes 1 (s.nodeState c).code ++ [0, 0] ++ leBytes 4 khz ++ leBytes 4 (s.node c).fails.toNat)) ∧
  (∀ (s : State) (m c src fb : Nat), s.asks m 0x0601 = true ∧ s.hasRoom m = true ∧ s.gable.gstate = .running ∧ s.hasRole m roleC = true ∧ (s.req m).len = 4 ∧ (s.req m).num 0 2 = c ∧ (s.req m).num 2 1 = src ∧ (s.req m).num 3 1 = fb ∧ s.hasClock c = true ∧ (codeType c = 0xD ∨ codeType c = 0xE) ∧ s.sourceFits c src = true ∧ (fb = 0x3F ∨ s.sourceFits c fb = true) ∧ (s.node c).selMbx = none ∧ (s.node c).state ≠ .stopped ∧ s.onFlowNode c = false ∧ s.sourceRuns c src = true →
    ∃ t, exec (.clkSelect m) s = .next t ∧ s.answered t m stAccepted [] ∧
      t.node c = { s.node c with newSource := some (BitVec.ofNat 6 src), selMbx := some (s.token m (s.req m)), fallback := BitVec.ofNat 6 fb, forceOk := (s.node c).failed }) ∧
  (∀ (s : State) (m src fb : Nat), s.asks m 0x0601 = true ∧ s.hasRoom m = true ∧ s.gable.gstate = .running ∧ s.hasRole m roleC = true ∧ (s.req m).len = 4 ∧ (s.req m).num 0 2 = 0x8F00 ∧ (s.req m).num 2 1 = src ∧ (s.req m).num 3 1 = fb ∧ src ≤ 2 ∧ (fb = 0x3F ∨ fb ≤ 2) ∧ (s.node 0x8F00).selMbx = none ∧ (s.node 0x8F00).state ≠ .stopped ∧ s.onFlowNode 0x8F00 = false ∧ s.sourceRuns 0x8F00 src = true →
    ∃ t, exec (.clkSelect m) s = .next t ∧ ((s.answered t m stAccepted [] ∧ (t.node 0x8F00).newSource = some (BitVec.ofNat 6 src) ∧ (t.node 0x8F00).source = (s.node 0x8F00).source ∧ ∀ d, d < s.fdies → (t.time d).mon.parentOk = false) ∨
        (s.answered t m stState [] ∧ t.clk = s.clk ∧ t.times = s.times))) ∧
  (∀ (s : State) (m c : Nat), s.asks m 0x0601 = true ∧ s.hasRoom m = true ∧ s.gable.gstate = .running ∧ s.hasRole m roleC = true ∧ (s.req m).num 0 2 = c ∧ clkArgOk s (s.req m) = true ∧ ((s.node c).selMbx ≠ none ∨ (s.node c).state = .stopped ∨ s.onFlowNode c = true) →
    ∃ t, exec (.clkSelect m) s = .next t ∧ s.answered t m (if (s.node c).selMbx.isSome = true then stBusy else stState) [] ∧ t.clk = s.clk) ∧
  (∀ (s : State) (m c : Nat) (src : BitVec 6), s.asks m 0x0602 = true ∧ s.gable.gstate = .running ∧ s.hasRole m roleC = true ∧ (s.req m).len = 4 ∧ (s.req m).zero 2 2 = true ∧ (s.req m).num 0 2 = c ∧ s.hasClock c = true ∧ (s.node c).newSource = some src ∧ (s.node c).forceOk = true ∧ (s.node c).selMbx.isSome = true →
    ∃ t, exec (.clkswForce m) s = .next t ∧ s.answered t m stOk [] ∧ (t.node c).source = src ∧ (t.node c).state = .running ∧ (t.node c).forceOk = false ∧ (t.node c).newSource = none ∧ (t.node c).selMbx = none) ∧
  (∀ (s : State) (m c : Nat), s.asks m 0x0602 = true ∧ s.gable.gstate = .running ∧ s.hasRole m roleC = true ∧ (s.req m).len = 4 ∧ (s.req m).zero 2 2 = true ∧ (s.req m).num 0 2 = c ∧ s.hasClock c = true ∧ ((s.node c).newSource = none ∨ (s.node c).forceOk = false) →
    ∃ t, exec (.clkswForce m) s = .next t ∧ s.answered t m stState [] ∧ t.clk = s.clk) ∧
  (∀ (s : State) (c : Nat) (src : BitVec 6), (s.node c).newSource = some src ∧ s.hasClock c = true ∧ (s.node c).stop = false ∧ (s.node c).failed = false ∧ (s.node c).state = .running ∧ s.sourceRuns c (s.node c).source.toNat = true ∧ s.sourceRuns c src.toNat = true →
    ∃ t, exec (.clockSwitchEnd c) s = .next t ∧ (t.node c).source = src ∧ (t.node c).state = .running ∧ (t.node c).newSource = none ∧ (t.node c).selMbx = none ∧ (t.node c).fallback = (s.node c).fallback) ∧
  (∀ (s : State) (c : Nat), (s.node c).newSource = none ∨ (s.node c).failed = true ∨ (s.node c).stop = true ∨ s.sourceRuns c (s.node c).source.toNat = false →
    ∃ t, exec (.clockSwitchEnd c) s = .next t ∧ t = s)

/-- A node that is not monitored cannot fail. A monitored one is declared failed, its count goes up and CLOCK_FAIL is raised: a core clock of the H-die sets CFG_ERR and the package fault; the time base of a die stops its counter; DDRCLK puts its channel into FAULT with cause CLOCK; the configuration clock stops Leggett; an FCLK net takes its fallback where one runs; PREF fails with it. A node whose source is back runs again, and a time base counts again. A failed AOCLK is declared once, and the monitors run from the RC oscillator. -/
def Obligations.clockFailures : Prop :=
  (∀ (s : State) (c : Nat), s.monitored c = false →
    ∃ t, exec (.clockNodeFail c) s = .next t ∧ t = s) ∧
  (∀ (s : State) (c : Nat), s.monitored c = true ∧ (codeType c = 8 ∨ codeType c = 4 ∨ codeType c = 9 ∨ (codeType c = 0xD ∧ (s.node c).fallback = 0x3F)) →
    ∃ t, exec (.clockNodeFail c) s = .next t ∧ t.node c = { s.node c with failed := true, state := .failed, fails := satInc (s.node c).fails, forceOk := (s.node c).selMbx.isSome } ∧
      (codeDie c = 8 → (t.evr.raised.map fun e => (e.evid, e.evdata)) = (s.evr.raised.map fun e => (e.evid, e.evdata)) ++ [(0x3A9, BitVec.ofNat 32 c)]) ∧
      (codeDie c ≠ 8 → ((tget [] (t.router (codeDie c) 5).inq (8 * 7 + (MsgClass.evt.vc + 1))).map fun q => (q.cls, q.evid, q.evdata)) =
        ((tget [] (s.router (codeDie c) 5).inq (8 * 7 + (MsgClass.evt.vc + 1))).map fun q => (q.cls, q.evid, q.evdata)) ++ [(.evt, BitVec.ofNat 10 (codeDie c * 0x60 + 0x0C), BitVec.ofNat 32 c)]) ∧
      (codeType c = 4 → (t.time (codeDie c)).stopped = true) ∧ (codeType c = 9 → (t.die (codeDie c)).leggett.cfgRun = false ∧ (t.die (codeDie c)).leggett.memRun = false)) ∧
  (∀ (s : State) (c : Nat), s.monitored c = true ∧ codeType c = 6 →
    ∃ t, exec (.clockNodeFail c) s = .next t ∧ (t.node c).failed = true ∧ (t.chan (codeIdx c)).state = .fault ∧ (t.chan (codeIdx c)).cause = 4) ∧
  (∀ (s : State) (c : Nat), s.monitored c = true ∧ codeType c = 0xD ∧ (s.node c).fallback ≠ 0x3F ∧ (s.node c).fallback ≠ (s.node c).source ∧ (s.node c).fallback.toNat = 24 ∧ s.sourceFits c 24 = true ∧ s.prefGood = true ∧ (s.node c).newSource = none →
    ∃ t, exec (.clockNodeFail c) s = .next t ∧ (t.node c).source = (s.node c).fallback ∧ (t.node c).fallback = 0x3F ∧ (t.node c).state = .running ∧ (t.node c).fails = satInc (s.node c).fails) ∧
  (∀ (s : State) (c : Nat), s.monitored c = true ∧ 1 ≤ codeType c ∧ codeType c ≤ 3 →
    ∃ t, exec (.clockNodeFail c) s = .next t ∧ t.cfg.cfgErr = true ∧ t.cfg.bootFault = true ∧ (t.node c).failed = true ∧ (t.node c).fails = satInc (s.node c).fails) ∧
  (∀ (s : State), s.monitored 0x8F00 = true ∧ s.cfg.phase = .running →
    ∃ t, exec (.clockNodeFail 0x8F00) s = .next t ∧ (t.node 0x8F00).failed = true ∧ (t.node 0x8F00).fails = satInc (s.node 0x8F00).fails ∧ ∀ d, d < s.fdies → (t.time d).mon.state = (if (s.time d).mon.state = .off then .off else .uncal)) ∧
  (∀ (s : State), s.monitored 0x8F00 = true ∧ s.cfg.phase ≠ .running ∧ (s.node 0x8F00).source = 0 →
    ∃ t, exec (.clockNodeFail 0x8F00) s = .next t ∧ t.cfg.abandoned = true) ∧
  (∀ (s : State) (c : Nat) (khz : BitVec 32), s.hasClock c = true ∧ (s.node c).failed = true ∧ s.feedRuns c = true ∧ (codeType c = 4 ∨ codeType c = 8 ∨ codeType c = 0xD ∨ codeType c = 0xE) →
    ∃ t, exec (.clockNodeRunning c khz) s = .next t ∧ t.node c = { s.node c with failed := false, state := .running, forceOk := false, freq := khz } ∧ (codeType c = 4 → (t.time (codeDie c)).stopped = false)) ∧
  (∀ (s : State) (c : Nat) (khz : BitVec 32), (s.node c).failed = false ∧ (c ≠ 0x8F00 ∨ s.cfg.abandoned = false) →
    ∃ t, exec (.clockNodeRunning c khz) s = .next t ∧ t = s) ∧
  (∀ (s : State), s.clk.aoclkFail = false →
    ∃ t, exec .aoclkFail s = .next t ∧ t.clk.aoclkFail = true ∧ t.clk.rcMon = true ∧ (∃ ev ∈ t.evr.raised, ev.evid = 0x3AA) ∧ (s.clk.pkg = .deep → t.clk.pkg = .waking ∧ t.clk.wakeCause = 0x20)) ∧
  (∀ (s : State), s.clk.aoclkFail = true →
    ∃ t, exec .aoclkFail s = .next t ∧ t = s)

/-- PWR_SET of a steady die into NAP or DEEP starts its entry, of a bay into DEEP as well, of a bay into IDLE and of a quiet router at once; of the package into DEEP it starts the package's entry; one that a flow forbids or for a bay that is not ACTIVE or whose die sleeps is STATE, for a bay with a command that runs BUSY (log entry 119); to ACTIVE it wakes a sleeping element and is answered when it is awake, and OK at once for one that is awake. PWR_PERMIT writes the deepest automatic state and the idle time. PWR_STATUS answers state, deepest state and wakes. PWR_WAKE writes the wake sources, SPI always among them, and the alarm. -/
def Obligations.powerCommands : Prop :=
  (∀ (s : State) (m d st : Nat), s.asks m 0x0603 = true ∧ s.hasRoom m = true ∧ s.gable.gstate = .running ∧ s.hasRole m roleC = true ∧ (s.req m).len = 4 ∧ (s.req m).num 0 1 = 1 ∧ (s.req m).num 1 1 = d ∧ d < s.fdies ∧ (s.req m).num 3 1 = st ∧ (st = 2 ∨ st = 3) ∧ s.flowForbids 1 d 0 st = false ∧ (s.elem 1 d 0).phase = .steady ∧ ((s.elem 1 d 0).state = .active ∨ (s.elem 1 d 0).state = .idle) ∧ s.dieLoads d = false →
    ∃ t, exec (.pwrSet m) s = .next t ∧ s.answered t m stAccepted [] ∧ (t.elem 1 d 0).phase = .entering ∧ (t.elem 1 d 0).target = (if st = 3 then .deep else .nap) ∧ (t.elem 1 d 0).atPs = s.now ∧
      (t.elem 1 d 0).cmds = (s.elem 1 d 0).cmds ++ [s.token m (s.req m)] ∧ (t.elem 1 d 0).state = (s.elem 1 d 0).state) ∧
  (∀ (s : State) (m d b : Nat), s.asks m 0x0603 = true ∧ s.hasRoom m = true ∧ s.gable.gstate = .running ∧ s.hasRole m roleC = true ∧ (s.req m).len = 4 ∧ (s.req m).num 0 1 = 2 ∧ (s.req m).num 1 1 = d ∧ d < s.fdies ∧ (s.req m).num 2 1 = b ∧ b < 96 ∧ (s.req m).num 3 1 = 3 ∧ s.flowForbids 2 d b 3 = false ∧ (s.elem 2 d b).phase = .steady ∧ (s.elem 2 d b).state ≠ .deep ∧ (s.bay d b).state = .active ∧ s.dieAwake d = true ∧ (s.bay d b).runCmd = none →
    ∃ t, exec (.pwrSet m) s = .next t ∧ s.answered t m stAccepted [] ∧ (t.elem 2 d b).phase = .entering ∧ (t.elem 2 d b).target = .deep ∧ (t.bay d b).state = .deep ∧ (t.elem 2 d b).cmds = (s.elem 2 d b).cmds ++ [s.token m (s.req m)]) ∧
  (∀ (s : State) (m d b : Nat), s.asks m 0x0603 = true ∧ s.hasRoom m = true ∧ s.gable.gstate = .running ∧ s.hasRole m roleC = true ∧ (s.req m).len = 4 ∧ (s.req m).num 0 1 = 2 ∧ (s.req m).num 1 1 = d ∧ d < s.fdies ∧ (s.req m).num 2 1 = b ∧ b < 96 ∧ (s.req m).num 3 1 = 1 ∧ s.flowForbids 2 d b 1 = false ∧ (s.elem 2 d b).phase = .steady ∧ (s.bay d b).state = .active ∧ s.dieAwake d = true ∧ (s.elem 2 d b).state ≠ .idle ∧ (s.bay d b).runCmd = none →
    ∃ t, exec (.pwrSet m) s = .next t ∧ s.answered t m stOk [] ∧ t.elem 2 d b = { s.elem 2 d b with state := .idle }) ∧
  (∀ (s : State) (m d b : Nat), s.asks m 0x0603 = true ∧ s.hasRoom m = true ∧ s.gable.gstate = .running ∧ s.hasRole m roleC = true ∧ (s.req m).len = 4 ∧ (s.req m).num 0 1 = 2 ∧ (s.req m).num 1 1 = d ∧ d < s.fdies ∧ (s.req m).num 2 1 = b ∧ b < 96 ∧ (s.req m).num 3 1 = 3 ∧ s.flowForbids 2 d b 3 = false ∧ (s.elem 2 d b).phase = .steady ∧ ((s.bay d b).state ≠ .active ∨ s.dieAwake d = false ∨ (s.bay d b).runCmd.isSome = true) →
    ∃ t, exec (.pwrSet m) s = .next t ∧ s.answered t m (if (s.bay d b).state = .active ∧ s.dieAwake d = true then stBusy else stState) [] ∧ t.clk = s.clk ∧ t.dies = s.dies) ∧
  (∀ (s : State) (m d r : Nat), s.asks m 0x0603 = true ∧ s.hasRoom m = true ∧ s.gable.gstate = .running ∧ s.hasRole m roleC = true ∧ (s.req m).len = 4 ∧ (s.req m).num 0 1 = 3 ∧ (s.req m).num 1 1 = d ∧ (s.req m).num 2 1 = r ∧ s.hasRouter d r = true ∧ ((s.req m).num 3 1 = 0 ∨ ((s.req m).num 3 1 = 1 ∧ s.flowForbids 3 d r 1 = false ∧ s.quiet d r = true)) →
    ∃ t, exec (.pwrSet m) s = .next t ∧ s.answered t m stOk [] ∧ (t.router d r).idle = ((s.req m).num 3 1 == 1) ∧ (t.router d r).wakeAt = none ∧ (t.router d r).inq = (s.router d r).inq) ∧
  (∀ (s : State) (m kind d i st : Nat), s.asks m 0x0603 = true ∧ s.hasRoom m = true ∧ s.gable.gstate = .running ∧ s.hasRole m roleC = true ∧ (s.req m).len = 4 ∧ (s.req m).num 0 1 = kind ∧ 1 ≤ kind ∧ kind ≤ 3 ∧ (s.req m).num 1 1 = d ∧ i = (if kind = 1 then 0 else (s.req m).num 2 1) ∧ (s.req m).num 3 1 = st ∧ 0 < st ∧ powerArgOk s kind d ((s.req m).num 2 1) st false = true ∧ s.flowForbids kind d i st = true →
    ∃ t, exec (.pwrSet m) s = .next t ∧ s.answered t m stState [] ∧ t.clk = s.clk ∧ t.routers = s.routers) ∧
  (∀ (s : State) (m kind d i : Nat), s.asks m 0x0603 = true ∧ s.hasRoom m = true ∧ s.gable.gstate = .running ∧ s.hasRole m roleC = true ∧ (s.req m).len = 4 ∧ (s.req m).num 0 1 = kind ∧ (kind = 1 ∨ kind = 2) ∧ (s.req m).num 1 1 = d ∧ d < s.fdies ∧ i = (if kind = 1 then 0 else (s.req m).num 2 1) ∧ i < 96 ∧ (s.req m).num 3 1 = 0 ∧ (s.elem kind d i).phase = .steady →
    ∃ t, exec (.pwrSet m) s = .next t ∧
      ((s.elem kind d i).state = .nap ∨ (s.elem kind d i).state = .deep → s.answered t m stAccepted [] ∧ (t.elem kind d i).phase = .waking ∧ (t.elem kind d i).wakeCmds = (s.elem kind d i).wakeCmds ++ [s.token m (s.req m)]) ∧
      (kind = 1 → (s.elem kind d i).state = .active ∨ (s.elem kind d i).state = .idle → s.answered t m stOk [] ∧ (t.elem kind d i).state = .active)) ∧
  (∀ (s : State) (m : Nat), s.asks m 0x0603 = true ∧ s.hasRoom m = true ∧ s.gable.gstate = .running ∧ s.hasRole m roleC = true ∧ (s.req m).len = 4 ∧ (s.req m).num 0 1 = 0 ∧ (s.req m).num 3 1 = 3 ∧ s.clk.pkg = .active ∧ s.clk.aoclkFail = false ∧ (∀ c ∈ List.range 32, (s.dmaCh c).state = .idle ∨ (s.dmaCh c).state = .halted) ∧ (∀ d ∈ List.range s.fdies, s.dieLoads d = false ∧ (s.elem 1 d 0).phase = .steady) ∧ (s.flows.any fun e => e.2.live) = false →
    ∃ t, exec (.pwrSet m) s = .next t ∧ s.answered t m stAccepted [] ∧ t.clk.pkg = .entering ∧ t.clk.deepMbx = some (s.token m (s.req m)) ∧ t.clk.deepAt = s.now ∧ t.clk.pendingEnable = false) ∧
  (∀ (s : State) (m kind d i st : Nat), s.asks m 0x0604 = true ∧ s.gable.gstate = .running ∧ s.hasRole m roleC = true ∧ (s.req m).len = 8 ∧ (s.req m).num 0 1 = kind ∧ (kind = 1 ∨ kind = 2) ∧ (s.req m).num 1 1 = d ∧ i = (if kind = 1 then 0 else (s.req m).num 2 1) ∧ (s.req m).num 3 1 = st ∧ powerArgOk s kind d ((s.req m).num 2 1) st true = true ∧ s.flowForbids kind d i st = false →
    ∃ t, exec (.pwrPermit m) s = .next t ∧ s.answered t m stOk [] ∧ t.elem kind d i = { s.elem kind d i with deepest := powerOf st, idleUs := (s.req m).num 4 4, idleAt := none }) ∧
  (∀ (s : State) (m d r st : Nat), s.asks m 0x0604 = true ∧ s.gable.gstate = .running ∧ s.hasRole m roleC = true ∧ (s.req m).len = 8 ∧ (s.req m).num 0 1 = 3 ∧ (s.req m).num 1 1 = d ∧ (s.req m).num 2 1 = r ∧ (s.req m).num 3 1 = st ∧ s.hasRouter d r = true ∧ st < 2 ∧ (s.req m).num 4 4 < 1024 ∧ s.flowForbids 3 d r st = false →
    ∃ t, exec (.pwrPermit m) s = .next t ∧ s.answered t m stOk [] ∧ t.router d r = { s.router d r with idleDly := if st = 1 then BitVec.ofNat 10 ((s.req m).num 4 4) else 0, quietAt := s.now }) ∧
  (∀ (s : State) (m kind d i : Nat), s.asks m 0x0605 = true ∧ s.gable.gstate = .running ∧ (s.req m).len = 4 ∧ (s.req m).zero 3 1 = true ∧ (s.req m).num 0 1 = kind ∧ (s.req m).num 1 1 = d ∧ i = (if kind = 1 then 0 else (s.req m).num 2 1) ∧ 0 < kind ∧ statusArgOk s kind d ((s.req m).num 2 1) = true →
    ∃ t, exec (.pwrStatus m) s = .next t ∧ t.clk = s.clk ∧ s.answered t m stOk (leBytes 1 (s.powerNow kind d i) ++ leBytes 1 (s.powerDeepest kind d i) ++ [0, 0] ++ leBytes 4 (s.elem kind d i).wakes.toNat)) ∧
  (∀ (s : State) (m : Nat), s.asks m 0x0606 = true ∧ s.gable.gstate = .running ∧ s.hasRole m roleC = true ∧ (s.req m).len = 12 ∧ (s.req m).zero 1 3 = true ∧ (s.req m).num 0 1 < 64 ∧ (s.req m).num 4 8 < 2 ^ 48 ∧ (s.req m).num 4 8 % 2 ^ 40 < 1000000000000 →
    ∃ t, exec (.pwrWake m) s = .next t ∧ s.answered t m stOk [] ∧ t.clk = { s.clk with wakeEn := BitVec.ofNat 6 ((s.req m).num 0 1) ||| 0x20, alarm := BitVec.ofNat 48 ((s.req m).num 4 8), alarmP := if (s.req m).num 4 8 = 0 then none else some (expandShort ((s.req m).num 4 8 / 2 ^ 40) ((s.req m).num 4 8 % 2 ^ 40) (s.ps 8)) })

/-- An element whose idle condition does not hold keeps its state and its timer is off; when it holds the timer starts, a bay with a permitted state is IDLE after 1 microsecond, and an element that has rested long enough starts the entry into its deepest state. An entry that ends reaches its target and, with a wake held, starts the exit; a request in a wake queue starts the exit of a sleeping element, and the exit ends ACTIVE with one wake more. When no channel is in transition the package shuts its ACTIVE links and ports down with REASON 1, and when none of them is left it reaches DEEP; an enabled wake source wakes it, an alarm that is reached as well, and it is ACTIVE again when REFCLK is trusted. -/
def Obligations.powerTransitions : Prop :=
  (∀ (s : State) (kind d i : Nat) (ok : Bool), d < s.fdies ∧ (kind = 1 ∧ i = 0 ∨ kind = 2 ∧ i < 96) ∧ (s.elem kind d i).phase = .steady ∧ (s.elem kind d i).state ≠ .nap ∧ (s.elem kind d i).state ≠ .deep ∧ (ok = false ∨ (kind = 2 ∧ (s.master (bayMid d i)).out ≠ [])) →
    ∃ t, exec (.elementIdleEntry kind d i ok) s = .next t ∧ t.elem kind d i = { s.elem kind d i with idleOk := ok, idleAt := none }) ∧
  (∀ (s : State) (d b : Nat), d < s.fdies ∧ b < 96 ∧ (s.elem 2 d b).phase = .steady ∧ (s.elem 2 d b).state ≠ .nap ∧ (s.elem 2 d b).state ≠ .deep ∧ s.bayIdle d b = true →
    ∃ t, exec (.elementIdleEntry 2 d b true) s = .next t ∧ (t.elem 2 d b).idleOk = true ∧
      ((s.elem 2 d b).idleAt = none → (t.elem 2 d b).idleAt = some s.now ∧ (t.elem 2 d b).state = (s.elem 2 d b).state) ∧
      (∀ p, (s.elem 2 d b).idleAt = some p → p + 1000000 ≤ s.now → (s.elem 2 d b).deepest = .idle → (t.elem 2 d b).state = .idle ∧ (t.elem 2 d b).phase = .steady) ∧
      (∀ p, (s.elem 2 d b).idleAt = some p → p + 1000000 + (s.elem 2 d b).idleUs * 1000000 ≤ s.now → (s.elem 2 d b).deepest = .deep → s.flowHolds 2 d b = false → (t.elem 2 d b).phase = .entering ∧ (t.elem 2 d b).target = .deep ∧ (t.bay d b).state = .deep)) ∧
  (∀ (s : State) (d p : Nat), d < s.fdies ∧ (s.elem 1 d 0).phase = .steady ∧ ((s.elem 1 d 0).state = .active ∨ (s.elem 1 d 0).state = .idle) ∧ ((s.elem 1 d 0).deepest = .nap ∨ (s.elem 1 d 0).deepest = .deep) ∧ s.dieIdle d ((s.elem 1 d 0).deepest == .deep) = true ∧ (s.elem 1 d 0).idleAt = some p ∧ p + 1000000 + (s.elem 1 d 0).idleUs * 1000000 ≤ s.now ∧ s.flowHolds 1 d 0 = false ∧ s.dieLoads d = false →
    ∃ t, exec (.elementIdleEntry 1 d 0 true) s = .next t ∧ (t.elem 1 d 0).phase = .entering ∧ (t.elem 1 d 0).target = (s.elem 1 d 0).deepest ∧ (t.elem 1 d 0).atPs = s.now) ∧
  (∀ (s : State) (kind d i : Nat), d < s.fdies ∧ (kind = 1 ∧ i = 0 ∨ kind = 2 ∧ i < 96) ∧ (s.elem kind d i).phase = .entering ∧ ((s.elem kind d i).target = .nap ∨ (s.elem kind d i).target = .deep) →
    ∃ t, exec (.powerEntryEnd kind d i) s = .next t ∧ (t.elem kind d i).state = (s.elem kind d i).target ∧ (t.elem kind d i).cmds = [] ∧ (t.elem kind d i).pendingEnable = false ∧
      (t.elem kind d i).phase = (if (s.elem kind d i).pendingEnable = true then .waking else .steady)) ∧
  (∀ (s : State) (d i : Nat), s.clk.pkg = .entering ∧ (∀ n ∈ List.range 8, (s.chan n).state ≠ .training ∧ (s.chan n).state ≠ .shutting ∧ (s.chan n).state ≠ .exiting) ∧ (∀ k ∈ s.allLanesets, (s.laneset k).shutting = false) ∧ (s.clk.deepLinks = true ∨ ∀ k ∈ s.allLanesets, laneKind k = 2 ∨ (s.laneset k).state ≠ .active) →
    ∃ t, exec (.powerEntryEnd 0 d i) s = .next t ∧ t.clk.deepAt = s.now ∧ (s.clk.pendingEnable = false → t.clk.pkg = .deep ∧ t.cfg.refosc = false) ∧ (s.clk.pendingEnable = true → t.clk.pkg = .waking ∧ t.clk.wakeCause = s.clk.wakeCause ∧ t.cfg.refosc = true)) ∧
  (∀ (s : State) (d i k : Nat), s.clk.pkg = .entering ∧ (∀ n ∈ List.range 8, (s.chan n).state ≠ .training ∧ (s.chan n).state ≠ .shutting ∧ (s.chan n).state ≠ .exiting) ∧ s.clk.deepLinks = false ∧ s.allLanesets.contains k = true ∧ laneKind k ≠ 2 ∧ (s.laneset k).state = .active →
    ∃ t, exec (.powerEntryEnd 0 d i) s = .next t ∧ t.clk.pkg = .entering ∧ t.clk.deepLinks = true ∧ (t.laneset k).shutting = true ∧ (t.laneset k).state = .active ∧ (t.laneset k).downReason = 1) ∧
  (∀ (s : State) (d r : Nat), s.clk.pkg = .active ∧ d < s.fdies ∧ r < 48 ∧ ((s.router d r).wq0 ≠ [] ∨ (s.router d r).wq1 ≠ []) ∧ (s.elem 1 d 0).phase = .steady →
    ∃ t, exec (.elementWake 1 d 0) s = .next t ∧ ((s.elem 1 d 0).state = .nap ∨ (s.elem 1 d 0).state = .deep → t.elem 1 d 0 = { s.elem 1 d 0 with phase := .waking, target := .active, atPs := s.now }) ∧
      ((s.elem 1 d 0).state = .idle → t.elem 1 d 0 = { s.elem 1 d 0 with state := .active, idleAt := none }) ∧ ((s.elem 1 d 0).state = .active → t = s)) ∧
  (∀ (s : State) (d b : Nat), s.clk.pkg = .active ∧ d < s.fdies ∧ b < 96 ∧ s.dieAwake d = true →
    ∃ t, exec (.elementWake 2 d b) s = .next t ∧ ((s.elem 2 d b).phase = .entering → t.elem 2 d b = { s.elem 2 d b with pendingEnable := true }) ∧
      ((s.elem 2 d b).phase = .steady → (s.elem 2 d b).state = .deep → t.elem 2 d b = { s.elem 2 d b with phase := .waking, target := .active, atPs := s.now }) ∧ s.changesOnly t [.clk]) ∧
  (∀ (s : State) (kind d i : Nat), s.clk.pkg = .active ∧ d < s.fdies ∧ (kind = 1 ∧ i = 0 ∧ (s.elem 1 d 0).target ≠ .nap ∨ kind = 2 ∧ i < 96 ∧ s.dieAwake d = true) ∧ (s.elem kind d i).phase = .waking →
    ∃ t, exec (.wakeExitEnd kind d i) s = .next t ∧ (t.elem kind d i).state = .active ∧ (t.elem kind d i).phase = .steady ∧ (t.elem kind d i).wakes = satInc (s.elem kind d i).wakes ∧ (t.elem kind d i).wakeCmds = []) ∧
  (∀ (s : State) (src : Nat), src < 6 ∧ s.clk.wakeEn.getLsbD src = true →
    ∃ t, exec (.packageWakeSource src) s = .next t ∧ (s.clk.pkg = .deep → t.clk.pkg = .waking ∧ t.clk.wakeCause = BitVec.ofNat 6 (2 ^ src) ∧ t.cfg.refosc = true) ∧
      (s.clk.pkg = .entering → s.clk.pendingEnable = false → t.clk.pkg = .entering ∧ t.clk.pendingEnable = true ∧ t.clk.wakeCause = BitVec.ofNat 6 (2 ^ src)) ∧ (s.clk.pkg = .active ∨ s.clk.pkg = .waking → t = s)) ∧
  (∀ (s : State) (p : Nat), s.clk.alarmP = some p ∧ s.clk.pkg = .deep ∧ s.clk.wakeEn.getLsbD 3 = true ∧ p ≤ psOfCtr s.carriedCtr →
    ∃ t, exec .wakeAlarm s = .next t ∧ t.clk.pkg = .waking ∧ t.clk.wakeCause = 8 ∧ t.cfg.refosc = true) ∧
  (∀ (s : State), s.clk.alarmP = none ∨ s.clk.wakeEn.getLsbD 3 = false →
    ∃ t, exec .wakeAlarm s = .next t ∧ t = s) ∧
  (∀ (s : State), s.clk.pkg = .waking ∧ s.cfg.oscdAt = none ∧ s.srcAlive refclkSrc = true →
    ∃ t, exec .packageWakeEnd s = .next t ∧ t.clk.pkg = .active ∧ (t.time 8).ctr = s.carriedCtr ∧ (t.time 8).stopped = false ∧ t.clk.deepMbx = none ∧ t.clk.pendingEnable = false)

/-- LOG_INFO answers how many entries the log holds, its oldest and newest INDEX and the overwrites; LOG_READ the entries from an INDEX on, seven at most; LOG_CLEAR drops the oldest up to an INDEX; RIDGE_STATUS the counts of an H-die router. While the firmware serves, the oldest item of the intake becomes the newest entry with the next INDEX and the time; with 4,096 entries held the oldest gives way and is counted. With the intake empty, what was lost becomes one LOG_DROP item. -/
def Obligations.logCommands : Prop :=
  (∀ (s : State) (m : Nat), s.asks m 0x0700 = true ∧ s.gable.gstate = .running ∧ (s.req m).len = 0 →
    ∃ t, exec (.logInfo m) s = .next t ∧ t.log = s.log ∧ s.answered t m stOk (leBytes 2 s.log.entries.length ++ [0, 0] ++ leBytes 4 ((s.log.entries.map fun e => e.1.toNat).headD 0) ++ leBytes 4 ((s.log.entries.map fun e => e.1.toNat).getLastD 0) ++ leBytes 4 s.log.overwritten.toNat)) ∧
  (∀ (s : State) (m : Nat) (l : List (BitVec 32 × LogEntry)), s.asks m 0x0701 = true ∧ s.gable.gstate = .running ∧ (s.req m).len = 8 ∧ (s.req m).zero 5 3 = true ∧ 1 ≤ (s.req m).num 4 1 ∧ (s.req m).num 4 1 ≤ 7 ∧ l = (s.log.entries.drop (s.log.place ((s.req m).num 0 4))).take ((s.req m).num 4 1) →
    ∃ t, exec (.logRead m) s = .next t ∧ t.log = s.log ∧ s.answered t m stOk (leBytes 4 ((l.map fun e => e.1.toNat).headD s.log.next.toNat) ++ leBytes 1 l.length ++ [0, 0, 0] ++ l.flatMap fun e => e.2.bytes e.1)) ∧
  (∀ (s : State) (m : Nat), s.asks m 0x0702 = true ∧ s.gable.gstate = .running ∧ s.hasRole m roleC = true ∧ (s.req m).len = 4 →
    ∃ t, exec (.logClear m) s = .next t ∧ s.answered t m stOk [] ∧ t.log = { s.log with entries := s.log.entries.drop (s.log.upTo ((s.req m).num 0 4)) }) ∧
  (∀ (s : State) (m i : Nat), s.asks m 0x0702 = true ∧ s.gable.gstate = .running ∧ s.hasRole m roleC = true ∧ (s.req m).len = 4 ∧ (s.req m).num 0 4 = i ∧ (s.log.entries.map fun e => e.1.toNat) = (List.range s.log.entries.length).map (fun k => s.log.oldest + k) ∧ s.log.entries ≠ [] ∧ s.log.oldest ≤ i ∧ i ≤ s.log.newest →
    ∃ t, exec (.logClear m) s = .next t ∧ t.log.entries.map (fun e => e.1.toNat) = (List.range (s.log.newest - i)).map (fun k => i + 1 + k)) ∧
  (∀ (s : State) (m : Nat), s.asks m 0x0806 = true ∧ s.gable.gstate = .running ∧ (s.req m).len = 4 ∧ (s.req m).zero 2 2 = true ∧ (s.req m).num 0 1 < 16 ∧ (s.req m).num 1 1 < 22 →
    ∃ t, exec (.ridgeStatus m) s = .next t ∧ t.routers = s.routers ∧ s.answered t m stOk (s.ridgeStatus ((s.req m).num 0 1) ((s.req m).num 1 1))) ∧
  (∀ (s : State) (x : LogEv) (rest : List LogEv), s.gableServes = true ∧ s.engineRuns = true ∧ s.log.intake = x :: rest ∧ x.entry.typ ≠ 1 ∧ s.log.pendDrops = 0 ∧ s.log.entries.length < 4096 →
    ∃ t, exec .logEntryWrite s = .next t ∧ t.log = { s.log with intake := rest, next := if s.log.next = 0xFFFFFFFF then 1 else s.log.next + 1, entries := s.log.entries ++ [(s.log.next, { x.entry with time := nowLayout (s.ps 8), flags := x.entry.flags ||| BitVec.ofNat 8 (bnat (s.coarse 8)), rep := 0 })] } ∧ s.changesOnly t [.log]) ∧
  (∀ (s : State) (x : LogEv) (rest : List LogEv), s.gableServes = true ∧ s.engineRuns = true ∧ s.log.intake = x :: rest ∧ x.entry.typ ≠ 1 ∧ s.log.pendDrops = 0 ∧ s.log.entries.length = 4096 →
    ∃ t, exec .logEntryWrite s = .next t ∧ t.log.entries.length = 4096 ∧ t.log.overwritten = satInc s.log.overwritten ∧ t.log.intake = rest ∧ t.log.entries.dropLast = s.log.entries.tail ∧
      (s.log.overAt = none → (t.evr.raised.map fun e => e.evid) = (s.evr.raised.map fun e => e.evid) ++ [0x3B0] ∧ t.log.overAt = some s.now)) ∧
  (∀ (s : State), s.gableServes = true ∧ s.engineRuns = true ∧ s.log.intake = [] ∧ s.log.pendDrops ≠ 0 →
    ∃ t, exec .logEntryWrite s = .next t ∧ t.log = { s.log with intake := [{ entry := mkEntry 0x1B 1 noEvid 8 s.log.pendDrops.toNat, atPs := s.now }], pendDrops := 0 }) ∧
  (∀ (s : State), s.gableServes = false ∨ s.engineRuns = false →
    ∃ t, exec .logEntryWrite s = .next t ∧ t = s)

/-- A pulse on an event input of a running F-die, on the running FCLK net of its event inputs (log entry 136), becomes one EVENT packet from its control port, unless it comes within 8 NOCCLK cycles of the last. EVR_RAISE raises one of the 32 software events. The router takes the oldest raised event and copies it to every output whose mask holds it: a mailbox FIFO of 32 takes it or counts it lost, one whose mailbox is unbound counts it lost, and an output whose mask leaves it out is as it was; what the firmware logs joins the intake. A pop takes the oldest record of an output and is DENIED to any but the opener of its mailbox; FLUSH and CLR_LOST empty and clear one output. -/
def Obligations.eventRouter : Prop :=
  (∀ (s : State) (d n : Nat) (data : BitVec 32), d < s.fdies ∧ d ≠ 8 ∧ n < 64 ∧ s.nocRuns d = true ∧ s.fclkRuns d (Config.imageEvNet s.cfg.bundle d).toNat = true ∧ (s.cfg.phase = .p3 ∨ s.cfg.phase = .running) ∧ (s.die d).leggett.fenced = false ∧ (tget 0 s.evr.fabAt (64 * d + n) = 0 ∨ tget 0 s.evr.fabAt (64 * d + n) - 1 + s.nocPs 8 ≤ s.now) →
    ∃ t, exec (.fabricEventInput d n data) s = .next t ∧ tget 0 t.evr.fabAt (64 * d + n) = s.now + 1 ∧
      ((tget [] (t.router d 5).inq (8 * 7 + (MsgClass.evt.vc + 1))).map fun q => (q.cls, q.ord, q.evid, q.evdata)) =
        ((tget [] (s.router d 5).inq (8 * 7 + (MsgClass.evt.vc + 1))).map fun q => (q.cls, q.ord, q.evid, q.evdata)) ++ [(.evt, true, BitVec.ofNat 10 (d * 0x60 + 0x20 + n), data)]) ∧
  (∀ (s : State) (d n : Nat) (data : BitVec 32), s.fdies ≤ d ∨ 64 ≤ n ∨ s.nocRuns d = false ∨ s.fclkRuns d (Config.imageEvNet s.cfg.bundle d).toNat = false ∨ (s.cfg.phase ≠ .p3 ∧ s.cfg.phase ≠ .running) ∨ (s.die d).leggett.fenced = true →
    ∃ t, exec (.fabricEventInput d n data) s = .next t ∧ t = s) ∧
  (∀ (s : State) (w : Who) (data : BitVec 64), s.reaches w (hubBase 2 + 0x008) true = true →
    ∃ t, exec (.evrRaise w data) s = .next t ∧ t.okay 0 ∧ (t.evr.raised.map fun e => (e.evid, e.evdata)) = (s.evr.raised.map fun e => (e.evid, e.evdata)) ++ [(BitVec.ofNat 10 (0x3E0 + data.toNat / 2 ^ 32 % 32), data.setWidth 32)]) ∧
  (∀ (s : State) (e : Event) (rest : List Event), s.ridgeClock 8 = true ∧ s.evr.raised = e :: rest ∧ (∀ k ∈ List.range 64, (s.evOut k).typ ≠ 2) →
    ∃ t, exec .eventRoute s = .next t ∧ t.evr.raised = rest ∧ (∀ n, e.note = some n → t.log = s.log.take n s.now) ∧ (e.note = none → t.log = s.log) ∧
      (∀ k, k < 64 → (tget 0 (s.evOut k).mask (e.evid.toNat / 32)).getLsbD (e.evid.toNat % 32) = false → t.evOut k = s.evOut k) ∧
      (∀ k, k < 64 → (tget 0 (s.evOut k).mask (e.evid.toNat / 32)).getLsbD (e.evid.toNat % 32) = true → (s.evOut k).typ = 1 → (s.evOut k).target < 64 → (s.mbx (s.evOut k).target).bound = true →
        t.evOut k = (if (s.evOut k).fifo.length < 32 then { s.evOut k with fifo := (s.evOut k).fifo ++ [e] } else { s.evOut k with lost := satInc (s.evOut k).lost })) ∧
      (∀ k, k < 64 → (tget 0 (s.evOut k).mask (e.evid.toNat / 32)).getLsbD (e.evid.toNat % 32) = true → (s.evOut k).typ = 1 → (s.evOut k).target < 64 → (s.mbx (s.evOut k).target).bound = false → t.evOut k = { s.evOut k with lost := satInc (s.evOut k).lost })) ∧
  (∀ (s : State) (w : Who) (k : Nat) (e : Event) (rest : List Event), k < 64 ∧ s.reaches w (hubBase 2 + 0x1008 + k * 0x20) false = true ∧ (w.src ≠ 0x801 ∨ w.effect = true) ∧ s.outAllows w.src k = true ∧ (s.evOut k).fifo = e :: rest →
    ∃ t, exec (.evrPop w k) s = .next t ∧ t.okay e.record ∧ t.evOut k = { s.evOut k with fifo := rest, popStamp := e.stamp } ∧ ∀ j, j ≠ k → t.evOut j = s.evOut j) ∧
  (∀ (s : State) (w : Who) (k : Nat), k < 64 ∧ s.reaches w (hubBase 2 + 0x1008 + k * 0x20) false = true ∧ (w.src ≠ 0x801 ∨ w.effect = true) ∧ s.outAllows w.src k = false →
    ∃ t, exec (.evrPop w k) s = .next t ∧ t.rsp.resp = respDenied ∧ ∀ j, t.evOut j = s.evOut j) ∧
  (∀ (s : State) (w : Who) (k : Nat), k < 64 ∧ s.reaches w (hubBase 2 + 0x1014 + k * 0x20) true = true ∧ s.outAllows w.src k = true →
    ∃ t, exec (.evrOutFlush w k) s = .next t ∧ t.okay 0 ∧ t.evOut k = { s.evOut k with fifo := [] } ∧ (∀ j, j ≠ k → t.evOut j = s.evOut j)) ∧
  (∀ (s : State) (w : Who) (k : Nat), k < 64 ∧ s.reaches w (hubBase 2 + 0x1014 + k * 0x20) true = true ∧ s.outAllows w.src k = true →
    ∃ t, exec (.evrOutClrLost w k) s = .next t ∧ t.okay 0 ∧ t.evOut k = { s.evOut k with lost := 0 } ∧ (∀ j, j ≠ k → t.evOut j = s.evOut j))

/-- For every master whose write the access table of the event router block (target 0x1002) admits, an 8-byte write of EVR_RAISE, by its own command or as a register write, is answered OK and appends to the router's raised events exactly SW_EVENT n, n being bits 36:32 of the data, with EVDATA bits 31:0; no output, log or register of the block changes. -/
def Obligations.softwareEvents : Prop :=
  (∀ (s : State) (w : Who) (data : BitVec 64) (c : Instr), s.admits 0x1002 w.src (needsOf (whoOpc w true)) (BitVec.ofNat 48 (hubBase 2 + 0x008)) = true ∧ c ∈ [Instr.evrRaise w data, .registerWrite w (BitVec.ofNat 48 (hubBase 2 + 0x008)) true data] →
    ∃ t e, exec c s = .next t ∧ t.okay 0 ∧ t.evr = { s.evr with raised := s.evr.raised ++ [e] } ∧ e.evid = BitVec.ofNat 10 (0x3E0 + bitsOf data.toNat 32 5) ∧ e.evdata = data.setWidth 32 ∧ s.changesOnly t [.rsp, .evr])

/-- With an image running, a privileged write of SP_PIN_n that changes FUNC or the pad options disconnects the pin at once, its keeper holding its level, and sets SWITCHING, and with it the pin that carries the new function; two HCLK edges later the new function and options stand. A write while the pin switches, while no image runs, or with a reserved FUNC or SLEW is TGTERR; an unprivileged one is DENIED; one that changes nothing starts no switch. GPIO_SET and GPIO_CLR set and clear output bits. PPS out rises once at each whole second within 2 ns (the model takes 2 ns on either side), with LOCKED_ONLY only while the master is LOCKED. -/
def Obligations.servicePins : Prop :=
  (∀ (s : State) (w : Who) (n : Nat) (v : BitVec 32), n < 64 ∧ s.reaches w (hubBase 6 + (0x100 + 4 * n)) true = true ∧ w.priv = true ∧ s.spFixed = false ∧ spFuncOk (bitsOf v.toNat 0 7) = true ∧ bitsOf v.toNat 12 2 ≠ 3 ∧ (s.sp n).switching = false ∧
      (bitsOf v.toNat 0 7 ≠ (s.sp n).func.toNat ∨ bitsOf v.toNat 8 6 ≠ (s.sp n).pad) ∧ (∀ m ∈ List.range 64, m ≠ n → bitsOf v.toNat 0 7 = 0x7F ∨ (s.sp m).shown ≠ bitsOf v.toNat 0 7) →
    ∃ t, exec (.spPinWrite w n v) s = .next t ∧ t.okay 0 ∧ t.sp n = { s.sp n with func := 0x7F, newFunc := BitVec.ofNat 7 (bitsOf v.toNat 0 7), newPad := BitVec.ofNat 6 (bitsOf v.toNat 8 6), switching := true, level := s.spLevel n } ∧ ∀ m, m ≠ n → t.sp m = s.sp m) ∧
  (∀ (s : State) (w : Who) (n m : Nat) (v : BitVec 32), n < 64 ∧ m < 64 ∧ m ≠ n ∧ s.reaches w (hubBase 6 + (0x100 + 4 * n)) true = true ∧ w.priv = true ∧ s.spFixed = false ∧ spFuncOk (bitsOf v.toNat 0 7) = true ∧ bitsOf v.toNat 0 7 ≠ 0x7F ∧ bitsOf v.toNat 12 2 ≠ 3 ∧
      (s.sp n).switching = false ∧ (s.sp m).switching = false ∧ (s.sp m).shown = bitsOf v.toNat 0 7 ∧ (s.sp n).func.toNat ≠ bitsOf v.toNat 0 7 ∧ (∀ k ∈ List.range 64, k ≠ n → k ≠ m → (s.sp k).shown ≠ bitsOf v.toNat 0 7) →
    ∃ t, exec (.spPinWrite w n v) s = .next t ∧ t.okay 0 ∧ (t.sp n).switching = true ∧ (t.sp n).func = 0x7F ∧ (t.sp n).newFunc = BitVec.ofNat 7 (bitsOf v.toNat 0 7) ∧
      (t.sp m).switching = true ∧ (t.sp m).func = 0x7F ∧ (t.sp m).newFunc = 0x7F ∧ ∀ k, k ≠ n → k ≠ m → t.sp k = s.sp k) ∧
  (∀ (s : State) (w : Who) (n : Nat) (v : BitVec 32), n < 64 ∧ s.reaches w (hubBase 6 + (0x100 + 4 * n)) true = true ∧ w.priv = true ∧ ((s.sp n).switching = true ∨ s.spFixed = true ∨ spFuncOk (bitsOf v.toNat 0 7) = false ∨ bitsOf v.toNat 12 2 = 3) →
    ∃ t, exec (.spPinWrite w n v) s = .next t ∧ t.rsp.resp = respTgtErr ∧ (∀ m, t.sp m = s.sp m)) ∧
  (∀ (s : State) (w : Who) (n : Nat) (v : BitVec 32), n < 64 ∧ s.reaches w (hubBase 6 + (0x100 + 4 * n)) true = true ∧ w.priv = false →
    ∃ t, exec (.spPinWrite w n v) s = .next t ∧ t.rsp.resp = respDenied ∧ t.svc = s.svc) ∧
  (∀ (s : State) (w : Who) (n : Nat) (v : BitVec 32), n < 64 ∧ s.reaches w (hubBase 6 + (0x100 + 4 * n)) true = true ∧ w.priv = true ∧ s.spFixed = false ∧ spFuncOk (bitsOf v.toNat 0 7) = true ∧ bitsOf v.toNat 12 2 ≠ 3 ∧ (s.sp n).switching = false ∧
      bitsOf v.toNat 0 7 = (s.sp n).func.toNat ∧ bitsOf v.toNat 8 6 = (s.sp n).pad ∧ (∀ m ∈ List.range 64, (s.sp m).switching = false) →
    ∃ t, exec (.spPinWrite w n v) s = .next t ∧ t.okay 0 ∧ ∀ m, t.sp m = s.sp m) ∧
  (∀ (s : State) (n : Nat), n < 64 ∧ (s.sp n).switching = true ∧ s.nodeGood 0x8200 = true →
    ∃ t, exec (.spPinSwitchDone n) s = .next t ∧ s.changesOnly t [.svc] ∧ (t.sp n).func = (s.sp n).newFunc ∧ (t.sp n).bias = (s.sp n).newPad.extractLsb' 0 2 ∧ (t.sp n).drive = (s.sp n).newPad.extractLsb' 2 2 ∧
      (t.sp n).slew = (s.sp n).newPad.extractLsb' 4 2 ∧ (t.sp n).switching = false ∧ (t.sp n).held = (s.sp n).held ∧ ∀ m, m ≠ n → t.sp m = s.sp m) ∧
  (∀ (s : State) (n : Nat), 64 ≤ n ∨ (s.sp n).switching = false ∨ s.nodeGood 0x8200 = false →
    exec (.spPinSwitchDone n) s = .next s) ∧
  (∀ (s : State) (w : Who) (v : BitVec 32), s.reaches w (hubBase 6 + 0x20C) true = true →
    ∃ t, exec (.gpioSet w v) s = .next t ∧ t.okay 0 ∧ t.svc.gpioOut = s.svc.gpioOut ||| v ∧ t.svc.gpioOe = s.svc.gpioOe ∧ t.svc.pins = s.svc.pins) ∧
  (∀ (s : State) (w : Who) (v : BitVec 32), s.reaches w (hubBase 6 + 0x210) true = true →
    ∃ t, exec (.gpioClr w v) s = .next t ∧ t.okay 0 ∧ t.svc.gpioOut = s.svc.gpioOut &&& ~~~v ∧ t.svc.gpioOe = s.svc.gpioOe ∧ t.svc.pins = s.svc.pins) ∧
  (∀ (s : State), psecOf (s.ps 8 + 2000) ≤ 4000 ∧ s.clk.pkg = .active ∧ (s.svc.pps.getLsbD 16 = false ∨ s.tb.mstate = .locked) ∧ s.tb.ppsOutSec ≠ secOf (s.ps 8 + 2000) →
    ∃ t, exec .ppsOutPulse s = .next t ∧ s.changesOnly t [.svc, .tb] ∧ t.svc = { s.svc with ppsHighAt := some s.now } ∧ t.tb = { s.tb with ppsOutSec := secOf (s.ps 8 + 2000) } ∧ (1 ≤ bitsOf s.svc.pps.toNat 0 10 → t.ppsOut = true)) ∧
  (∀ (s : State), s.clk.pkg ≠ .active ∨ (s.svc.pps.getLsbD 16 = true ∧ s.tb.mstate ≠ .locked) ∨ s.tb.ppsOutSec = secOf (s.ps 8 + 2000) ∨ 4000 < psecOf (s.ps 8 + 2000) →
    exec .ppsOutPulse s = .next s)

/-- A byte written to UART_TX joins the 16-byte FIFO, from which the bytes sent so far have gone, or with it full is dropped and TX_DROP sets. A byte that arrives joins the receive FIFO, or with it full is lost and OVERRUN sets. Reading a receive register answers and pops the oldest byte, except for a Ladder peek, and answers 0 when empty. SPIC_XFER and I2C_CMD start a transfer of 1 to 16 bytes, and are TGTERR while BUSY; at its end BUSY falls, the bytes sent have left the transmit FIFO and the bytes read have joined the receive FIFO. A write of whole words into the request buffer of a mailbox that is not busy and not another's stores them; a refused one stores nothing and sets ERR. A read of the response buffer shifts out its bytes; one of another's buffer shifts out zeros and sets ERR. READ_STATUS shows ERR and NOTIFY and clears both. While the H-die has no clock or power nothing of it acts. -/
def Obligations.peripherals : Prop :=
  (∀ (s : State) (w : Who) (n : Nat) (v : BitVec 32) (u : Uart), n < 2 ∧ s.reaches w (hubBase 6 + (0x408 + 0x20 * n)) true = true ∧ u = ((s.settleUart 0).settleUart 1).uart n →
    ∃ t, exec (.uartTx w n v) s = .next t ∧ t.okay 0 ∧ (u.tx.length < 16 → (t.uart n).tx = u.tx ++ [v.setWidth 8] ∧ (t.uart n).txDrop = u.txDrop) ∧ (16 ≤ u.tx.length → t.uart n = { u with txDrop := true }) ∧
      (t.uart n).rx = (s.uart n).rx ∧ (t.uart n).cfg = (s.uart n).cfg) ∧
  (∀ (s : State) (n : Nat) (b : BitVec 8) (f p : Bool), n < 2 ∧ (s.pinOf (4 * n + 1)).isSome = true ∧ s.periClock = true →
    ∃ t, exec (.uartRxByte n b f p) s = .next t ∧ s.changesOnly t [.svc] ∧ (t.uart n).tx = (s.uart n).tx ∧ (t.uart n).framing = ((s.uart n).framing || f) ∧ (t.uart n).parityErr = ((s.uart n).parityErr || (p && bitsOf (s.uart n).cfg.toNat 16 2 != 0)) ∧
      ((s.uart n).rx.length < 16 → (t.uart n).rx = (s.uart n).rx ++ [b] ∧ (t.uart n).overrun = (s.uart n).overrun) ∧ (16 ≤ (s.uart n).rx.length → (t.uart n).rx = (s.uart n).rx ∧ (t.uart n).overrun = true)) ∧
  (∀ (s : State) (w : Who) (n : Nat) (b : BitVec 8) (rest : List (BitVec 8)), n < 2 ∧ s.reaches w (hubBase 6 + (0x40C + 0x20 * n)) false = true ∧ (s.uart n).rx = b :: rest →
    ∃ t, exec (.uartRx w n) s = .next t ∧ t.okay (b.toNat + 256) ∧ (t.uart n).rx = (if w.src = 0x801 ∧ w.effect = false then b :: rest else rest)) ∧
  (∀ (s : State) (w : Who) (n : Nat), n < 2 ∧ s.reaches w (hubBase 6 + (0x40C + 0x20 * n)) false = true ∧ (s.uart n).rx = [] →
    ∃ t, exec (.uartRx w n) s = .next t ∧ t.okay 0 ∧ (t.uart n).rx = []) ∧
  (∀ (s : State) (w : Who) (n : Nat) (v : BitVec 32), n < 2 ∧ s.reaches w (hubBase 6 + (0x510 + 0x20 * n)) true = true ∧ (s.spic n).busy = false ∧ 1 ≤ bitsOf v.toNat 0 5 ∧ bitsOf v.toNat 0 5 ≤ 16 →
    ∃ t, exec (.spicXfer w n v) s = .next t ∧ t.okay 0 ∧ t.spic n = { s.spic n with busy := true, count := bitsOf v.toNat 0 5, holdCs := v.getLsbD 8, csOn := true }) ∧
  (∀ (s : State) (w : Who) (n : Nat) (v : BitVec 32), n < 2 ∧ s.reaches w (hubBase 6 + (0x510 + 0x20 * n)) true = true ∧ (s.spic n).busy = true →
    ∃ t, exec (.spicXfer w n v) s = .next t ∧ t.rsp.resp = respTgtErr ∧ t.svc.spics = s.svc.spics) ∧
  (∀ (s : State) (n : Nat) (l : List (BitVec 8)), n < 2 ∧ (s.spic n).busy = true ∧ s.periClock = true ∧ (s.spic n).count ≤ l.length ∧ (s.spic n).rx.length + (s.spic n).count ≤ 16 →
    ∃ t, exec (.spicXferDone n l) s = .next t ∧ s.changesOnly t [.svc] ∧
      t.spic n = { s.spic n with busy := false, tx := (s.spic n).tx.drop (s.spic n).count, csOn := (s.spic n).holdCs,
                                 rx := (s.spic n).rx ++ (if (s.pinOf (0x0E + 7 * n)).isSome = true then l.take (s.spic n).count else List.replicate (s.spic n).count 0) }) ∧
  (∀ (s : State) (w : Who) (n : Nat) (b : BitVec 8) (rest : List (BitVec 8)), n < 2 ∧ s.reaches w (hubBase 6 + (0x50C + 0x20 * n)) false = true ∧ (s.spic n).rx = b :: rest →
    ∃ t, exec (.spicRx w n) s = .next t ∧ t.okay (b.toNat + 256) ∧ t.spic n = { s.spic n with rx := if w.src = 0x801 ∧ w.effect = false then b :: rest else rest }) ∧
  (∀ (s : State) (w : Who) (n : Nat) (v : BitVec 32), n < 4 ∧ s.reaches w (hubBase 6 + (0x604 + 0x20 * n)) true = true ∧ (s.i2c n).busy = false ∧ 1 ≤ bitsOf v.toNat 8 5 ∧ bitsOf v.toNat 8 5 ≤ 16 →
    ∃ t, exec (.i2cCmd w n v) s = .next t ∧ t.okay 0 ∧ t.i2c n = { s.i2c n with busy := true, cmd := v.setWidth 17 &&& 0x11FFF }) ∧
  (∀ (s : State) (w : Who) (n : Nat) (v : BitVec 32), n < 4 ∧ s.reaches w (hubBase 6 + (0x604 + 0x20 * n)) true = true ∧ (s.i2c n).busy = true →
    ∃ t, exec (.i2cCmd w n v) s = .next t ∧ t.rsp.resp = respTgtErr ∧ t.svc.i2cs = s.svc.i2cs) ∧
  (∀ (s : State) (n : Nat) (l : List (BitVec 8)) (a b : Bool), n < 4 ∧ (s.i2c n).busy = true ∧ s.periClock = true ∧ bitsOf (s.i2c n).cmd.toNat 8 5 ≤ l.length ∧ (s.i2c n).rx.length + bitsOf (s.i2c n).cmd.toNat 8 5 ≤ 16 →
    ∃ t, exec (.i2cXferDone n l a b) s = .next t ∧ s.changesOnly t [.svc] ∧
      t.i2c n = { s.i2c n with busy := false, nack := (s.i2c n).nack || a, arbLost := (s.i2c n).arbLost || b,
                               tx := if (s.i2c n).cmd.getLsbD 7 = true then (s.i2c n).tx else (s.i2c n).tx.drop (bitsOf (s.i2c n).cmd.toNat 8 5),
                               rx := if (s.i2c n).cmd.getLsbD 7 = true ∧ a = false ∧ b = false then (s.i2c n).rx ++ l.take (bitsOf (s.i2c n).cmd.toNat 8 5) else (s.i2c n).rx }) ∧
  (∀ (s : State) (w : Who) (n : Nat) (b : BitVec 8) (rest : List (BitVec 8)), n < 4 ∧ s.reaches w (hubBase 6 + (0x60C + 0x20 * n)) false = true ∧ (s.i2c n).rx = b :: rest →
    ∃ t, exec (.i2cRx w n) s = .next t ∧ t.okay (b.toNat + 256) ∧ t.i2c n = { s.i2c n with rx := if w.src = 0x801 ∧ w.effect = false then b :: rest else rest }) ∧
  (∀ (s : State) (m off : Nat) (bytes : List (BitVec 8)), s.engineRuns = true ∧ m < 64 ∧ off < 0x100 ∧ off % 4 = 0 ∧ bytes ≠ [] ∧ bytes.length % 4 = 0 ∧ off + bytes.length ≤ 0x100 ∧ (s.mbx m).ringing = false ∧ s.otherOpener 0x8FF m = false →
    ∃ t, exec (.spiWrite (BitVec.ofNat 24 (m * 4096 + off)) bytes) s = .next t ∧ t.mbx m = { s.mbx m with req := tabWrite (s.mbx m).req off bytes } ∧ t.gable.spiErr = false ∧ (∀ k, k ≠ m → t.mbx k = s.mbx k)) ∧
  (∀ (s : State) (m off : Nat) (bytes : List (BitVec 8)), s.engineRuns = true ∧ m < 64 ∧ off < 0x100 ∧ bytes ≠ [] ∧ bytes.length % 4 = 0 ∧ ((s.mbx m).ringing = true ∨ s.otherOpener 0x8FF m = true ∨ off % 4 ≠ 0 ∨ 0x100 < off + bytes.length) →
    ∃ t, exec (.spiWrite (BitVec.ofNat 24 (m * 4096 + off)) bytes) s = .next t ∧ t.gable = { s.gable with spiErr := true } ∧ s.changesOnly t [.gable]) ∧
  (∀ (s : State) (m off n : Nat), s.engineRuns = true ∧ m < 64 ∧ off < 0x100 ∧ off % 4 = 0 ∧ 0 < n ∧ n % 4 = 0 ∧ off + n ≤ 0x100 ∧ s.otherOpener 0x8FF m = false →
    ∃ t, exec (.spiRead (BitVec.ofNat 24 (m * 4096 + 0x100 + off)) n) s = .next t ∧ t.gable = { s.gable with spiErr := false, spiOut := tabBytes (s.mbx m).rsp off n } ∧ s.changesOnly t [.gable]) ∧
  (∀ (s : State) (m off n : Nat), s.engineRuns = true ∧ m < 64 ∧ off < 4096 ∧ 0 < n ∧ n % 4 = 0 ∧ s.otherOpener 0x8FF m = true →
    ∃ t, exec (.spiRead (BitVec.ofNat 24 (m * 4096 + off)) n) s = .next t ∧ t.gable = { s.gable with spiErr := true, spiOut := List.replicate n 0 } ∧ s.changesOnly t [.gable]) ∧
  (∀ (s : State), s.engineRuns = true →
    ∃ t, exec .spiReadStatus s = .next t ∧ t.gable.spiOut = [BitVec.ofNat 8 ((if s.gable.spiErr = true then 1 else 0) + (if (List.range 64).any (fun m => (s.mbx m).notify) = true then 2 else 0))] ∧
      t.gable.spiErr = false ∧ (∀ m, (t.mbx m).notify = false) ∧ ∀ m, (t.mbx m).rsp = (s.mbx m).rsp) ∧
  (∀ (s : State) (a : BitVec 24) (n : Nat) (c : Instr), s.engineRuns = false ∧ (c = .spiReadStatus ∨ c = .spiRead a n ∨ c = .spiWrite a []) →
    exec c s = .next s)

/-- IDCODE captures the code of the die; EXTEST, its 1149.6 forms, CLAMP and HIGHZ are in force while no image runs, and otherwise act as BYPASS and set REFUSED; SAMPLE/PRELOAD loads the boundary at any time; BYPASS is code 0xFF and every code not listed. WAKE wakes the package where its source is enabled. A BUSACC scan captures the last result and issues its access unless one is outstanding. AUTH takes a byte of a certificate, and the 224th starts the check; one that passes sets AUTH, one that fails is counted, and each gives a new nonce; after 16 failures no byte is taken. TRSTn and the loss of VDD_DBG clear authorization, stops, freezes and the halt, and keep the count of failures. -/
def Obligations.tapInstructions : Prop :=
  (∀ (s : State) (n : Nat), s.hasTap n = true →
    ∃ t, exec (.idcode n) s = .next t ∧ s.changesOnly t [.lad] ∧ t.tap n = { s.tap n with irOut := 1, ir := 1, dr := if n = 8 then 0x1F1009CB else 0x1F1F09CB } ∧ ∀ k, k ≠ n → t.tap k = s.tap k) ∧
  (∀ (s : State) (n : Nat) (b : BitVec 64) (c : Instr) (code : BitVec 8), s.hasTap n = true ∧ s.noImage = true ∧ (c, code) ∈ [(Instr.extest n b, (0x00 : BitVec 8)), (.extestPulse n b, 0x03), (.extestTrain n b, 0x04)] →
    ∃ t, exec c s = .next t ∧ s.changesOnly t [.lad, .free] ∧ (t.tap n).ir = code ∧ (t.tap n).boundary = b ∧ t.lad.refused = s.lad.refused ∧ ∀ k, k ≠ n → t.tap k = s.tap k) ∧
  (∀ (s : State) (n : Nat) (c : Instr) (code : BitVec 8), s.hasTap n = true ∧ s.noImage = true ∧ (c, code) ∈ [(Instr.clamp n, (0x05 : BitVec 8)), (.highz n, 0x06)] →
    ∃ t, exec c s = .next t ∧ s.changesOnly t [.lad] ∧ t.tap n = { s.tap n with irOut := 1, ir := code, dr := 0 } ∧ t.lad.refused = s.lad.refused ∧ ∀ k, k ≠ n → t.tap k = s.tap k) ∧
  (∀ (s : State) (n : Nat) (b : BitVec 64) (c : Instr), s.hasTap n = true ∧ s.noImage = false ∧ c ∈ [Instr.extest n b, .extestPulse n b, .extestTrain n b, .clamp n, .highz n] →
    ∃ t, exec c s = .next t ∧ s.changesOnly t [.lad] ∧ t.tap n = { s.tap n with irOut := 1, ir := 0xFF, dr := 0 } ∧ t.lad.refused = true ∧ ∀ k, k ≠ n → t.tap k = s.tap k) ∧
  (∀ (s : State) (n : Nat) (b : BitVec 64), s.hasTap n = true →
    ∃ t, exec (.samplePreload n b) s = .next t ∧ s.changesOnly t [.lad, .free] ∧ (t.tap n).ir = 2 ∧ (t.tap n).boundary = b ∧ t.lad.refused = s.lad.refused ∧ ∀ k, k ≠ n → t.tap k = s.tap k) ∧
  (∀ (s : State) (n : Nat) (c : BitVec 8), s.hasTap n = true ∧ 7 ≤ c.toNat ∧ (n ≠ 8 ∨ c.toNat < 0x10 ∨ 0x12 < c.toNat) →
    ∃ t, exec (.bypass n c) s = .next t ∧ s.changesOnly t [.lad] ∧ t.tap n = { s.tap n with irOut := 1, ir := c, dr := 0 } ∧ ∀ k, k ≠ n → t.tap k = s.tap k) ∧
  (∀ (s : State) (n : Nat) (b : BitVec 64) (c : Instr), s.hasTap n = false ∧ c ∈ [Instr.idcode n, .samplePreload n b, .extest n b, .extestPulse n b, .extestTrain n b, .clamp n, .highz n, .bypass n 0xFF] →
    exec c s = .next s) ∧
  (∀ (s : State), s.hasTap 8 = true ∧ s.clk.wakeEn.getLsbD 4 = false →
    ∃ t, exec .wake s = .next t ∧ s.changesOnly t [.lad] ∧ t.tap 8 = { s.tap 8 with irOut := 1, ir := 0x12, dr := 0 }) ∧
  (∀ (s : State), s.hasTap 8 = true ∧ s.clk.wakeEn.getLsbD 4 = true ∧ s.clk.pkg = .deep →
    ∃ t, exec .wake s = .next t ∧ (t.tap 8).ir = 0x12 ∧ t.clk.pkg = .waking) ∧
  (∀ (s : State) (dr : BitVec 128), s.hasTap 8 = true ∧ s.lad.busPend = false ∧ s.cfg.porn = false ∧ s.clk.pkg ≠ .deep →
    ∃ t, exec (.busacc dr) s = .next t ∧ t.tap 8 = { s.tap 8 with irOut := 1, ir := 0x10, dr := s.lad.capture } ∧ t.lad.busPend = true ∧ t.lad.busDone = false) ∧
  (∀ (s : State) (dr : BitVec 128), s.hasTap 8 = true ∧ s.lad.busPend = true →
    ∃ t, exec (.busacc dr) s = .next t ∧ s.changesOnly t [.lad] ∧ t.tap 8 = { s.tap 8 with irOut := 1, ir := 0x10, dr := s.lad.capture } ∧ t.lad.busPend = true ∧ t.lad.busData = s.lad.busData) ∧
  (∀ (s : State) (dr : BitVec 128), s.hasTap 8 = true ∧ s.lad.busPend = false ∧ (s.cfg.porn = true ∨ s.clk.pkg = .deep) →
    ∃ t, exec (.busacc dr) s = .next t ∧ s.changesOnly t [.lad] ∧ t.lad.busPend = false ∧ t.lad.busDone = true ∧ t.lad.busRsp = respTimeout) ∧
  (∀ (s : State) (b : BitVec 8), s.hasTap 8 = true ∧ s.lad.authFails.toNat < 16 ∧ s.lad.verifying = false →
    ∃ t, exec (.auth b) s = .next t ∧ s.changesOnly t [.lad] ∧ t.lad.cert = s.lad.cert ++ [b] ∧ t.lad.verifying = decide (s.lad.cert.length = 223) ∧ t.lad.auth = s.lad.auth) ∧
  (∀ (s : State) (b : BitVec 8), s.hasTap 8 = true ∧ (16 ≤ s.lad.authFails.toNat ∨ s.lad.verifying = true) →
    ∃ t, exec (.auth b) s = .next t ∧ s.changesOnly t [.lad] ∧ t.lad.cert = s.lad.cert ∧ t.lad.verifying = s.lad.verifying ∧ t.lad.auth = s.lad.auth) ∧
  (∀ (s : State), s.lad.powered = true ∧ s.lad.verifying = true →
    ∃ t, exec .authVerifyDone s = .next t ∧ s.changesOnly t [.lad] ∧ t.lad.nonceCtr = s.lad.nonceCtr + 1 ∧ t.lad.cert = [] ∧ t.lad.verifying = false ∧
      (s.certOk s.lad.cert = true → t.lad.auth = true ∧ t.lad.authFails = s.lad.authFails) ∧ (s.certOk s.lad.cert = false → t.lad.auth = s.lad.auth ∧ t.lad.authFails = (if 16 ≤ s.lad.authFails.toNat then s.lad.authFails else s.lad.authFails + 1))) ∧
  (∀ (s : State), numAt s.lad.cert 0 4 ≠ 0x4144464B ∨ numAt s.lad.cert 8 8 ≠ s.fuses.unique.toNat ∨ numAt s.lad.cert 0x10 8 ≠ s.lad.nonce.toNat ∨ numAt s.lad.cert 5 3 ≠ 0 ∨ numAt s.lad.cert 0x79 7 ≠ 0 →
    s.certOk s.lad.cert = false) ∧
  (∀ (s : State), s.lad.powered = true →
    ∃ t, exec .trstnAssert s = .next t ∧ t.lad.auth = false ∧ t.lad.authFails = s.lad.authFails ∧ t.lad.nonceCtr = s.lad.nonceCtr + 1 ∧ t.lad.taps = [] ∧ t.lad.fclkStop = [] ∧ t.lad.slgFreeze = [] ∧ t.lad.powered = true ∧ t.gable.halted = false ∧ t.gable.haltReq = false) ∧
  (∀ (s : State), ∃ t, exec .vddDbgLoss s = .next t ∧ t.lad.powered = false ∧ t.lad.auth = false ∧ t.lad.authFails = s.lad.authFails ∧ t.lad.taps = [] ∧ t.lad.fclkStop = [] ∧ t.lad.slgFreeze = [] ∧ t.gable.halted = false ∧ t.gable.haltReq = false ∧ t.hasTap 8 = false) ∧
  (∀ (s : State), s.lad.powered = false →
    ∃ t, exec .vddDbgReturn s = .next t ∧ t.lad.powered = true ∧ t.lad.auth = false ∧ t.lad.authFails = s.lad.authFails ∧ t.lad.nonceCtr = s.lad.nonceCtr + 1 ∧ t.hasTap 8 = true)

/-- A write to a Ladder register by any SRC but 0x801 is DENIED, and the gable registers need AUTH. LD_FCLK_STOP stops and runs the nets of a die by its bits; LD_FCLK_STEP starts a step of a stopped net, and is TGTERR otherwise. LD_SLG_FREEZE freezes groups of a die by its bits; LD_SLG_STEP starts a step of a frozen group, TGTERR otherwise. A capture takes the level of every flip-flop of the bay; with a running net of the bay it is refused. HALT stops the core at once or defers while it holds a reservation, which of the two is a free value; a deferred halt is forced after 256 cycles with LOCK_BROKEN set. RUN runs the core again with a full watchdog period, and STEP leaves it halted. -/
def Obligations.runControl : Prop :=
  (∀ (s : State) (w : Who) (n : Nat) (v : BitVec 32) (c : Instr) (off : Nat), w.src ≠ 0x801 ∧ n < 8 ∧ (c, off) ∈ [(Instr.ldFclkStop w n v, 0x010 + n * 4), (.ldFclkStep w v, 0x030), (.ldSlgFreeze w n 2 v, 0x040 + n * 0x10 + 8), (.ldSlgStep w v, 0x0C0), (.ldCapGo w v, 0x100), (.ldGableHalt w, 0x200), (.ldGableRun w, 0x200), (.ldGableStep w, 0x200)] ∧
      s.reaches w (hubBase 8 + off) true = true →
    ∃ t, exec c s = .next t ∧ t.rsp.resp = respDenied ∧ t.lad = s.lad ∧ t.gable = s.gable ∧ t.dies = s.dies ∧ t.clk = s.clk) ∧
  (∀ (s : State) (w : Who) (c : Instr), w.src = 0x801 ∧ s.lad.auth = false ∧ c ∈ [Instr.ldGableHalt w, .ldGableRun w, .ldGableStep w] ∧ s.reaches w (hubBase 8 + 0x200) true = true →
    ∃ t, exec c s = .next t ∧ t.rsp.resp = respTgtErr ∧ s.changesOnly t [.rsp]) ∧
  (∀ (s : State) (w : Who) (d : Nat) (v : BitVec 32), w.src = 0x801 ∧ d < s.fdies ∧ s.reaches w (hubBase 8 + (0x010 + d * 4)) true = true →
    ∃ t, exec (.ldFclkStop w d v) s = .next t ∧ t.okay 0 ∧ s.changesOnly t [.rsp, .lad, .clk] ∧ tget 0 t.lad.fclkStop d = v ∧ (∀ n, n < 32 → (t.node (fclkNode d n)).stop = v.getLsbD n) ∧
      ∀ k, (∀ n, n < 32 → k ≠ fclkNode d n) → t.node k = s.node k) ∧
  (∀ (s : State) (w : Who) (v : BitVec 32), w.src = 0x801 ∧ bitsOf v.toNat 0 4 < s.fdies ∧ (s.node (fclkNode (bitsOf v.toNat 0 4) (bitsOf v.toNat 4 5))).stop = true ∧ s.fclkStepBusy = false ∧ s.reaches w (hubBase 8 + 0x030) true = true →
    ∃ t, exec (.ldFclkStep w v) s = .next t ∧ t.okay 0 ∧ s.changesOnly t [.rsp, .lad] ∧ t.lad = { s.lad with fclkStep := some (fclkNode (bitsOf v.toNat 0 4) (bitsOf v.toNat 4 5), s.now + s.edgeSpan (fclkNode (bitsOf v.toNat 0 4) (bitsOf v.toNat 4 5)) (bitsOf v.toNat 16 16)) }) ∧
  (∀ (s : State) (w : Who) (v : BitVec 32), w.src = 0x801 ∧ ((s.node (fclkNode (bitsOf v.toNat 0 4) (bitsOf v.toNat 4 5))).stop = false ∨ s.fclkStepBusy = true) ∧ s.reaches w (hubBase 8 + 0x030) true = true →
    ∃ t, exec (.ldFclkStep w v) s = .next t ∧ t.rsp.resp = respTgtErr ∧ s.changesOnly t [.rsp]) ∧
  (∀ (s : State) (w : Who) (d k : Nat) (v : BitVec 32), w.src = 0x801 ∧ d < s.fdies ∧ k < 4 ∧ s.reaches w (hubBase 8 + (0x040 + d * 0x10 + k * 4)) true = true →
    ∃ t, exec (.ldSlgFreeze w d k v) s = .next t ∧ t.okay 0 ∧ tget 0 t.lad.slgFreeze (4 * d + k) = v ∧ (∀ i, i < 32 → (t.group d (32 * k + i)).frozen = v.getLsbD i) ∧ ∀ g, g / 32 ≠ k → (t.group d g).frozen = (s.group d g).frozen) ∧
  (∀ (s : State) (w : Who) (v : BitVec 32), w.src = 0x801 ∧ bitsOf v.toNat 0 4 < s.fdies ∧ (s.group (bitsOf v.toNat 0 4) (bitsOf v.toNat 4 7)).frozen = true ∧ s.slgStepBusy = false ∧ s.reaches w (hubBase 8 + 0x0C0) true = true →
    ∃ t, exec (.ldSlgStep w v) s = .next t ∧ t.okay 0 ∧ t.lad.slgStep = some (bitsOf v.toNat 0 4, bitsOf v.toNat 4 7, s.now + bitsOf v.toNat 16 16 * s.sclkPs) ∧ (t.group (bitsOf v.toNat 0 4) (bitsOf v.toNat 4 7)).frozen = true) ∧
  (∀ (s : State) (w : Who) (v : BitVec 32), w.src = 0x801 ∧ ((s.group (bitsOf v.toNat 0 4) (bitsOf v.toNat 4 7)).frozen = false ∨ s.slgStepBusy = true) ∧ s.reaches w (hubBase 8 + 0x0C0) true = true →
    ∃ t, exec (.ldSlgStep w v) s = .next t ∧ t.rsp.resp = respTgtErr ∧ s.changesOnly t [.rsp]) ∧
  (∀ (s : State) (w : Who) (v : BitVec 32), w.src = 0x801 ∧ s.reaches w (hubBase 8 + 0x100) true = true ∧ bitsOf v.toNat 0 4 < s.fdies ∧ bitsOf v.toNat 4 7 < 96 ∧ (∀ n ∈ List.range 32, (s.bay (bitsOf v.toNat 0 4) (bitsOf v.toNat 4 7)).fclkEn.getLsbD n = true → (s.node (fclkNode (bitsOf v.toNat 0 4) n)).stop = true) →
    ∃ t, exec (.ldCapGo w v) s = .next t ∧ t.okay 0 ∧ s.changesOnly t [.rsp, .lad] ∧ t.lad.refused = s.lad.refused ∧ t.lad.capCtrl = v.setWidth 11 ∧
      t.lad.capData = tabWrite [] 0 ((s.modLad fun l => { l with capCtrl := v.setWidth 11 }).captureBytes (bitsOf v.toNat 0 4) (bitsOf v.toNat 4 7))) ∧
  (∀ (s : State) (w : Who) (v : BitVec 32) (n : Nat), w.src = 0x801 ∧ s.reaches w (hubBase 8 + 0x100) true = true ∧ n < 32 ∧ (s.bay (bitsOf v.toNat 0 4) (bitsOf v.toNat 4 7)).fclkEn.getLsbD n = true ∧ (s.node (fclkNode (bitsOf v.toNat 0 4) n)).stop = false →
    ∃ t, exec (.ldCapGo w v) s = .next t ∧ s.changesOnly t [.rsp, .lad] ∧ t.lad.refused = true ∧ t.lad.capData = s.lad.capData) ∧
  (∀ (s : State) (w : Who), w.src = 0x801 ∧ s.lad.auth = true ∧ s.reaches w (hubBase 8 + 0x200) true = true ∧ s.gable.halted = false ∧ s.gable.haltReq = false →
    ∃ t, exec (.ldGableHalt w) s = .next t ∧ t.okay 0 ∧ ((t.gable.halted = true ∧ t.gable.haltReq = false ∧ t.gable.lockBroken = s.gable.lockBroken ∧ (s.gable.gstate ≠ .failed → t.gable.gstate = .halted)) ∨
      (t.gable = { s.gable with haltReq := true, haltAt := s.now, reservation := true }))) ∧
  (∀ (s : State), s.gable.haltReq = true ∧ s.gable.haltAt + 426667 ≤ s.now →
    ∃ t, exec .ldGableHaltForced s = .next t ∧ t.gable.halted = true ∧ t.gable.haltReq = false ∧ t.gable.lockBroken = true ∧ t.gable.reservation = false ∧ (s.gable.gstate ≠ .failed → t.gable.gstate = .halted)) ∧
  (∀ (s : State), s.gable.haltReq = false →
    exec .ldGableHaltForced s = .next s) ∧
  (∀ (s : State) (w : Who), w.src = 0x801 ∧ s.lad.auth = true ∧ s.reaches w (hubBase 8 + 0x200) true = true ∧ s.gable.halted = true →
    ∃ t, exec (.ldGableRun w) s = .next t ∧ t.okay 0 ∧ t.gable.halted = false ∧ t.gable.haltReq = false ∧ t.gable.wdtAt = s.now ∧ t.gable.reservation = false ∧
      (s.gable.gstate = .halted → t.gable.gstate = (if 0 < s.gable.beginnings then .restarting else if s.cfg.fwIf = 0 then .recovery else .running))) ∧
  (∀ (s : State) (w : Who), w.src = 0x801 ∧ s.lad.auth = true ∧ s.reaches w (hubBase 8 + 0x200) true = true ∧ s.gable.halted = true →
    ∃ t, exec (.ldGableStep w) s = .next t ∧ t.okay 0 ∧ t.gable.halted = true ∧ t.gable.wdtLeft = s.gable.wdtLeft ∧ t.gable.gstate = s.gable.gstate ∧ t.gable.mbx = s.gable.mbx ∧ s.changesOnly t [.rsp, .free, .gable])
end

