-- ==== Sys2Proof/Laws/State.lean ====
section
/-! SUPPORT. One lemma for each field of State under each update of a field: what the update leaves alone and what it sets. -/

namespace Sys2Proof.Machine

@[simp] theorem State.setNow_now (s : State) (v : Nat) : (s.setNow v).now = v := rfl
@[simp] theorem State.setNow_free (s : State) (v : Nat) : (s.setNow v).free = s.free := rfl
@[simp] theorem State.setNow_rsp (s : State) (v : Nat) : (s.setNow v).rsp = s.rsp := rfl
@[simp] theorem State.setNow_fuses (s : State) (v : Nat) : (s.setNow v).fuses = s.fuses := rfl
@[simp] theorem State.setNow_ids (s : State) (v : Nat) : (s.setNow v).ids = s.ids := rfl
@[simp] theorem State.setNow_acls (s : State) (v : Nat) : (s.setNow v).acls = s.acls := rfl
@[simp] theorem State.setNow_dies (s : State) (v : Nat) : (s.setNow v).dies = s.dies := rfl
@[simp] theorem State.setNow_routers (s : State) (v : Nat) : (s.setNow v).routers = s.routers := rfl
@[simp] theorem State.setNow_masters (s : State) (v : Nat) : (s.setNow v).masters = s.masters := rfl
@[simp] theorem State.setNow_flows (s : State) (v : Nat) : (s.setNow v).flows = s.flows := rfl
@[simp] theorem State.setNow_lanesets (s : State) (v : Nat) : (s.setNow v).lanesets = s.lanesets := rfl
@[simp] theorem State.setNow_links (s : State) (v : Nat) : (s.setNow v).links = s.links := rfl
@[simp] theorem State.setNow_guests (s : State) (v : Nat) : (s.setNow v).guests = s.guests := rfl
@[simp] theorem State.setNow_linkKeys (s : State) (v : Nat) : (s.setNow v).linkKeys = s.linkKeys := rfl
@[simp] theorem State.setNow_times (s : State) (v : Nat) : (s.setNow v).times = s.times := rfl
@[simp] theorem State.setNow_hpins (s : State) (v : Nat) : (s.setNow v).hpins = s.hpins := rfl
@[simp] theorem State.setNow_tb (s : State) (v : Nat) : (s.setNow v).tb = s.tb := rfl
@[simp] theorem State.setNow_cfg (s : State) (v : Nat) : (s.setNow v).cfg = s.cfg := rfl
@[simp] theorem State.setNow_dram (s : State) (v : Nat) : (s.setNow v).dram = s.dram := rfl
@[simp] theorem State.setNow_flash (s : State) (v : Nat) : (s.setNow v).flash = s.flash := rfl
@[simp] theorem State.setNow_fregions (s : State) (v : Nat) : (s.setNow v).fregions = s.fregions := rfl
@[simp] theorem State.setNow_dma (s : State) (v : Nat) : (s.setNow v).dma = s.dma := rfl
@[simp] theorem State.setNow_dmaLast (s : State) (v : Nat) : (s.setNow v).dmaLast = s.dmaLast := rfl
@[simp] theorem State.setNow_gable (s : State) (v : Nat) : (s.setNow v).gable = s.gable := rfl
@[simp] theorem State.setNow_clk (s : State) (v : Nat) : (s.setNow v).clk = s.clk := rfl
@[simp] theorem State.setNow_log (s : State) (v : Nat) : (s.setNow v).log = s.log := rfl
@[simp] theorem State.setNow_evr (s : State) (v : Nat) : (s.setNow v).evr = s.evr := rfl
@[simp] theorem State.setNow_svc (s : State) (v : Nat) : (s.setNow v).svc = s.svc := rfl
@[simp] theorem State.setNow_lad (s : State) (v : Nat) : (s.setNow v).lad = s.lad := rfl
@[simp] theorem State.setNow_thermtrip (s : State) (v : Nat) : (s.setNow v).thermtrip = s.thermtrip := rfl
@[simp] theorem State.setNow_pornLow (s : State) (v : Nat) : (s.setNow v).pornLow = s.pornLow := rfl
@[simp] theorem State.setNow_supplyBad (s : State) (v : Nat) : (s.setNow v).supplyBad = s.supplyBad := rfl
@[simp] theorem State.setNow_supplyOkAt (s : State) (v : Nat) : (s.setNow v).supplyOkAt = s.supplyOkAt := rfl
@[simp] theorem State.setNow_pending (s : State) (v : Nat) : (s.setNow v).pending = s.pending := rfl
@[simp] theorem State.setFree_now (s : State) (v : Nat) : (s.setFree v).now = s.now := rfl
@[simp] theorem State.setFree_free (s : State) (v : Nat) : (s.setFree v).free = v := rfl
@[simp] theorem State.setFree_rsp (s : State) (v : Nat) : (s.setFree v).rsp = s.rsp := rfl
@[simp] theorem State.setFree_fuses (s : State) (v : Nat) : (s.setFree v).fuses = s.fuses := rfl
@[simp] theorem State.setFree_ids (s : State) (v : Nat) : (s.setFree v).ids = s.ids := rfl
@[simp] theorem State.setFree_acls (s : State) (v : Nat) : (s.setFree v).acls = s.acls := rfl
@[simp] theorem State.setFree_dies (s : State) (v : Nat) : (s.setFree v).dies = s.dies := rfl
@[simp] theorem State.setFree_routers (s : State) (v : Nat) : (s.setFree v).routers = s.routers := rfl
@[simp] theorem State.setFree_masters (s : State) (v : Nat) : (s.setFree v).masters = s.masters := rfl
@[simp] theorem State.setFree_flows (s : State) (v : Nat) : (s.setFree v).flows = s.flows := rfl
@[simp] theorem State.setFree_lanesets (s : State) (v : Nat) : (s.setFree v).lanesets = s.lanesets := rfl
@[simp] theorem State.setFree_links (s : State) (v : Nat) : (s.setFree v).links = s.links := rfl
@[simp] theorem State.setFree_guests (s : State) (v : Nat) : (s.setFree v).guests = s.guests := rfl
@[simp] theorem State.setFree_linkKeys (s : State) (v : Nat) : (s.setFree v).linkKeys = s.linkKeys := rfl
@[simp] theorem State.setFree_times (s : State) (v : Nat) : (s.setFree v).times = s.times := rfl
@[simp] theorem State.setFree_hpins (s : State) (v : Nat) : (s.setFree v).hpins = s.hpins := rfl
@[simp] theorem State.setFree_tb (s : State) (v : Nat) : (s.setFree v).tb = s.tb := rfl
@[simp] theorem State.setFree_cfg (s : State) (v : Nat) : (s.setFree v).cfg = s.cfg := rfl
@[simp] theorem State.setFree_dram (s : State) (v : Nat) : (s.setFree v).dram = s.dram := rfl
@[simp] theorem State.setFree_flash (s : State) (v : Nat) : (s.setFree v).flash = s.flash := rfl
@[simp] theorem State.setFree_fregions (s : State) (v : Nat) : (s.setFree v).fregions = s.fregions := rfl
@[simp] theorem State.setFree_dma (s : State) (v : Nat) : (s.setFree v).dma = s.dma := rfl
@[simp] theorem State.setFree_dmaLast (s : State) (v : Nat) : (s.setFree v).dmaLast = s.dmaLast := rfl
@[simp] theorem State.setFree_gable (s : State) (v : Nat) : (s.setFree v).gable = s.gable := rfl
@[simp] theorem State.setFree_clk (s : State) (v : Nat) : (s.setFree v).clk = s.clk := rfl
@[simp] theorem State.setFree_log (s : State) (v : Nat) : (s.setFree v).log = s.log := rfl
@[simp] theorem State.setFree_evr (s : State) (v : Nat) : (s.setFree v).evr = s.evr := rfl
@[simp] theorem State.setFree_svc (s : State) (v : Nat) : (s.setFree v).svc = s.svc := rfl
@[simp] theorem State.setFree_lad (s : State) (v : Nat) : (s.setFree v).lad = s.lad := rfl
@[simp] theorem State.setFree_thermtrip (s : State) (v : Nat) : (s.setFree v).thermtrip = s.thermtrip := rfl
@[simp] theorem State.setFree_pornLow (s : State) (v : Nat) : (s.setFree v).pornLow = s.pornLow := rfl
@[simp] theorem State.setFree_supplyBad (s : State) (v : Nat) : (s.setFree v).supplyBad = s.supplyBad := rfl
@[simp] theorem State.setFree_supplyOkAt (s : State) (v : Nat) : (s.setFree v).supplyOkAt = s.supplyOkAt := rfl
@[simp] theorem State.setFree_pending (s : State) (v : Nat) : (s.setFree v).pending = s.pending := rfl
@[simp] theorem State.setRsp_now (s : State) (v : Rsp) : (s.setRsp v).now = s.now := rfl
@[simp] theorem State.setRsp_free (s : State) (v : Rsp) : (s.setRsp v).free = s.free := rfl
@[simp] theorem State.setRsp_rsp (s : State) (v : Rsp) : (s.setRsp v).rsp = v := rfl
@[simp] theorem State.setRsp_fuses (s : State) (v : Rsp) : (s.setRsp v).fuses = s.fuses := rfl
@[simp] theorem State.setRsp_ids (s : State) (v : Rsp) : (s.setRsp v).ids = s.ids := rfl
@[simp] theorem State.setRsp_acls (s : State) (v : Rsp) : (s.setRsp v).acls = s.acls := rfl
@[simp] theorem State.setRsp_dies (s : State) (v : Rsp) : (s.setRsp v).dies = s.dies := rfl
@[simp] theorem State.setRsp_routers (s : State) (v : Rsp) : (s.setRsp v).routers = s.routers := rfl
@[simp] theorem State.setRsp_masters (s : State) (v : Rsp) : (s.setRsp v).masters = s.masters := rfl
@[simp] theorem State.setRsp_flows (s : State) (v : Rsp) : (s.setRsp v).flows = s.flows := rfl
@[simp] theorem State.setRsp_lanesets (s : State) (v : Rsp) : (s.setRsp v).lanesets = s.lanesets := rfl
@[simp] theorem State.setRsp_links (s : State) (v : Rsp) : (s.setRsp v).links = s.links := rfl
@[simp] theorem State.setRsp_guests (s : State) (v : Rsp) : (s.setRsp v).guests = s.guests := rfl
@[simp] theorem State.setRsp_linkKeys (s : State) (v : Rsp) : (s.setRsp v).linkKeys = s.linkKeys := rfl
@[simp] theorem State.setRsp_times (s : State) (v : Rsp) : (s.setRsp v).times = s.times := rfl
@[simp] theorem State.setRsp_hpins (s : State) (v : Rsp) : (s.setRsp v).hpins = s.hpins := rfl
@[simp] theorem State.setRsp_tb (s : State) (v : Rsp) : (s.setRsp v).tb = s.tb := rfl
@[simp] theorem State.setRsp_cfg (s : State) (v : Rsp) : (s.setRsp v).cfg = s.cfg := rfl
@[simp] theorem State.setRsp_dram (s : State) (v : Rsp) : (s.setRsp v).dram = s.dram := rfl
@[simp] theorem State.setRsp_flash (s : State) (v : Rsp) : (s.setRsp v).flash = s.flash := rfl
@[simp] theorem State.setRsp_fregions (s : State) (v : Rsp) : (s.setRsp v).fregions = s.fregions := rfl
@[simp] theorem State.setRsp_dma (s : State) (v : Rsp) : (s.setRsp v).dma = s.dma := rfl
@[simp] theorem State.setRsp_dmaLast (s : State) (v : Rsp) : (s.setRsp v).dmaLast = s.dmaLast := rfl
@[simp] theorem State.setRsp_gable (s : State) (v : Rsp) : (s.setRsp v).gable = s.gable := rfl
@[simp] theorem State.setRsp_clk (s : State) (v : Rsp) : (s.setRsp v).clk = s.clk := rfl
@[simp] theorem State.setRsp_log (s : State) (v : Rsp) : (s.setRsp v).log = s.log := rfl
@[simp] theorem State.setRsp_evr (s : State) (v : Rsp) : (s.setRsp v).evr = s.evr := rfl
@[simp] theorem State.setRsp_svc (s : State) (v : Rsp) : (s.setRsp v).svc = s.svc := rfl
@[simp] theorem State.setRsp_lad (s : State) (v : Rsp) : (s.setRsp v).lad = s.lad := rfl
@[simp] theorem State.setRsp_thermtrip (s : State) (v : Rsp) : (s.setRsp v).thermtrip = s.thermtrip := rfl
@[simp] theorem State.setRsp_pornLow (s : State) (v : Rsp) : (s.setRsp v).pornLow = s.pornLow := rfl
@[simp] theorem State.setRsp_supplyBad (s : State) (v : Rsp) : (s.setRsp v).supplyBad = s.supplyBad := rfl
@[simp] theorem State.setRsp_supplyOkAt (s : State) (v : Rsp) : (s.setRsp v).supplyOkAt = s.supplyOkAt := rfl
@[simp] theorem State.setRsp_pending (s : State) (v : Rsp) : (s.setRsp v).pending = s.pending := rfl
@[simp] theorem State.setFuses_now (s : State) (v : Fuses) : (s.setFuses v).now = s.now := rfl
@[simp] theorem State.setFuses_free (s : State) (v : Fuses) : (s.setFuses v).free = s.free := rfl
@[simp] theorem State.setFuses_rsp (s : State) (v : Fuses) : (s.setFuses v).rsp = s.rsp := rfl
@[simp] theorem State.setFuses_fuses (s : State) (v : Fuses) : (s.setFuses v).fuses = v := rfl
@[simp] theorem State.setFuses_ids (s : State) (v : Fuses) : (s.setFuses v).ids = s.ids := rfl
@[simp] theorem State.setFuses_acls (s : State) (v : Fuses) : (s.setFuses v).acls = s.acls := rfl
@[simp] theorem State.setFuses_dies (s : State) (v : Fuses) : (s.setFuses v).dies = s.dies := rfl
@[simp] theorem State.setFuses_routers (s : State) (v : Fuses) : (s.setFuses v).routers = s.routers := rfl
@[simp] theorem State.setFuses_masters (s : State) (v : Fuses) : (s.setFuses v).masters = s.masters := rfl
@[simp] theorem State.setFuses_flows (s : State) (v : Fuses) : (s.setFuses v).flows = s.flows := rfl
@[simp] theorem State.setFuses_lanesets (s : State) (v : Fuses) : (s.setFuses v).lanesets = s.lanesets := rfl
@[simp] theorem State.setFuses_links (s : State) (v : Fuses) : (s.setFuses v).links = s.links := rfl
@[simp] theorem State.setFuses_guests (s : State) (v : Fuses) : (s.setFuses v).guests = s.guests := rfl
@[simp] theorem State.setFuses_linkKeys (s : State) (v : Fuses) : (s.setFuses v).linkKeys = s.linkKeys := rfl
@[simp] theorem State.setFuses_times (s : State) (v : Fuses) : (s.setFuses v).times = s.times := rfl
@[simp] theorem State.setFuses_hpins (s : State) (v : Fuses) : (s.setFuses v).hpins = s.hpins := rfl
@[simp] theorem State.setFuses_tb (s : State) (v : Fuses) : (s.setFuses v).tb = s.tb := rfl
@[simp] theorem State.setFuses_cfg (s : State) (v : Fuses) : (s.setFuses v).cfg = s.cfg := rfl
@[simp] theorem State.setFuses_dram (s : State) (v : Fuses) : (s.setFuses v).dram = s.dram := rfl
@[simp] theorem State.setFuses_flash (s : State) (v : Fuses) : (s.setFuses v).flash = s.flash := rfl
@[simp] theorem State.setFuses_fregions (s : State) (v : Fuses) : (s.setFuses v).fregions = s.fregions := rfl
@[simp] theorem State.setFuses_dma (s : State) (v : Fuses) : (s.setFuses v).dma = s.dma := rfl
@[simp] theorem State.setFuses_dmaLast (s : State) (v : Fuses) : (s.setFuses v).dmaLast = s.dmaLast := rfl
@[simp] theorem State.setFuses_gable (s : State) (v : Fuses) : (s.setFuses v).gable = s.gable := rfl
@[simp] theorem State.setFuses_clk (s : State) (v : Fuses) : (s.setFuses v).clk = s.clk := rfl
@[simp] theorem State.setFuses_log (s : State) (v : Fuses) : (s.setFuses v).log = s.log := rfl
@[simp] theorem State.setFuses_evr (s : State) (v : Fuses) : (s.setFuses v).evr = s.evr := rfl
@[simp] theorem State.setFuses_svc (s : State) (v : Fuses) : (s.setFuses v).svc = s.svc := rfl
@[simp] theorem State.setFuses_lad (s : State) (v : Fuses) : (s.setFuses v).lad = s.lad := rfl
@[simp] theorem State.setFuses_thermtrip (s : State) (v : Fuses) : (s.setFuses v).thermtrip = s.thermtrip := rfl
@[simp] theorem State.setFuses_pornLow (s : State) (v : Fuses) : (s.setFuses v).pornLow = s.pornLow := rfl
@[simp] theorem State.setFuses_supplyBad (s : State) (v : Fuses) : (s.setFuses v).supplyBad = s.supplyBad := rfl
@[simp] theorem State.setFuses_supplyOkAt (s : State) (v : Fuses) : (s.setFuses v).supplyOkAt = s.supplyOkAt := rfl
@[simp] theorem State.setFuses_pending (s : State) (v : Fuses) : (s.setFuses v).pending = s.pending := rfl
@[simp] theorem State.setIds_now (s : State) (v : IdRegs) : (s.setIds v).now = s.now := rfl
@[simp] theorem State.setIds_free (s : State) (v : IdRegs) : (s.setIds v).free = s.free := rfl
@[simp] theorem State.setIds_rsp (s : State) (v : IdRegs) : (s.setIds v).rsp = s.rsp := rfl
@[simp] theorem State.setIds_fuses (s : State) (v : IdRegs) : (s.setIds v).fuses = s.fuses := rfl
@[simp] theorem State.setIds_ids (s : State) (v : IdRegs) : (s.setIds v).ids = v := rfl
@[simp] theorem State.setIds_acls (s : State) (v : IdRegs) : (s.setIds v).acls = s.acls := rfl
@[simp] theorem State.setIds_dies (s : State) (v : IdRegs) : (s.setIds v).dies = s.dies := rfl
@[simp] theorem State.setIds_routers (s : State) (v : IdRegs) : (s.setIds v).routers = s.routers := rfl
@[simp] theorem State.setIds_masters (s : State) (v : IdRegs) : (s.setIds v).masters = s.masters := rfl
@[simp] theorem State.setIds_flows (s : State) (v : IdRegs) : (s.setIds v).flows = s.flows := rfl
@[simp] theorem State.setIds_lanesets (s : State) (v : IdRegs) : (s.setIds v).lanesets = s.lanesets := rfl
@[simp] theorem State.setIds_links (s : State) (v : IdRegs) : (s.setIds v).links = s.links := rfl
@[simp] theorem State.setIds_guests (s : State) (v : IdRegs) : (s.setIds v).guests = s.guests := rfl
@[simp] theorem State.setIds_linkKeys (s : State) (v : IdRegs) : (s.setIds v).linkKeys = s.linkKeys := rfl
@[simp] theorem State.setIds_times (s : State) (v : IdRegs) : (s.setIds v).times = s.times := rfl
@[simp] theorem State.setIds_hpins (s : State) (v : IdRegs) : (s.setIds v).hpins = s.hpins := rfl
@[simp] theorem State.setIds_tb (s : State) (v : IdRegs) : (s.setIds v).tb = s.tb := rfl
@[simp] theorem State.setIds_cfg (s : State) (v : IdRegs) : (s.setIds v).cfg = s.cfg := rfl
@[simp] theorem State.setIds_dram (s : State) (v : IdRegs) : (s.setIds v).dram = s.dram := rfl
@[simp] theorem State.setIds_flash (s : State) (v : IdRegs) : (s.setIds v).flash = s.flash := rfl
@[simp] theorem State.setIds_fregions (s : State) (v : IdRegs) : (s.setIds v).fregions = s.fregions := rfl
@[simp] theorem State.setIds_dma (s : State) (v : IdRegs) : (s.setIds v).dma = s.dma := rfl
@[simp] theorem State.setIds_dmaLast (s : State) (v : IdRegs) : (s.setIds v).dmaLast = s.dmaLast := rfl
@[simp] theorem State.setIds_gable (s : State) (v : IdRegs) : (s.setIds v).gable = s.gable := rfl
@[simp] theorem State.setIds_clk (s : State) (v : IdRegs) : (s.setIds v).clk = s.clk := rfl
@[simp] theorem State.setIds_log (s : State) (v : IdRegs) : (s.setIds v).log = s.log := rfl
@[simp] theorem State.setIds_evr (s : State) (v : IdRegs) : (s.setIds v).evr = s.evr := rfl
@[simp] theorem State.setIds_svc (s : State) (v : IdRegs) : (s.setIds v).svc = s.svc := rfl
@[simp] theorem State.setIds_lad (s : State) (v : IdRegs) : (s.setIds v).lad = s.lad := rfl
@[simp] theorem State.setIds_thermtrip (s : State) (v : IdRegs) : (s.setIds v).thermtrip = s.thermtrip := rfl
@[simp] theorem State.setIds_pornLow (s : State) (v : IdRegs) : (s.setIds v).pornLow = s.pornLow := rfl
@[simp] theorem State.setIds_supplyBad (s : State) (v : IdRegs) : (s.setIds v).supplyBad = s.supplyBad := rfl
@[simp] theorem State.setIds_supplyOkAt (s : State) (v : IdRegs) : (s.setIds v).supplyOkAt = s.supplyOkAt := rfl
@[simp] theorem State.setIds_pending (s : State) (v : IdRegs) : (s.setIds v).pending = s.pending := rfl
@[simp] theorem State.setAcls_now (s : State) (v : Tab AclTable) : (s.setAcls v).now = s.now := rfl
@[simp] theorem State.setAcls_free (s : State) (v : Tab AclTable) : (s.setAcls v).free = s.free := rfl
@[simp] theorem State.setAcls_rsp (s : State) (v : Tab AclTable) : (s.setAcls v).rsp = s.rsp := rfl
@[simp] theorem State.setAcls_fuses (s : State) (v : Tab AclTable) : (s.setAcls v).fuses = s.fuses := rfl
@[simp] theorem State.setAcls_ids (s : State) (v : Tab AclTable) : (s.setAcls v).ids = s.ids := rfl
@[simp] theorem State.setAcls_acls (s : State) (v : Tab AclTable) : (s.setAcls v).acls = v := rfl
@[simp] theorem State.setAcls_dies (s : State) (v : Tab AclTable) : (s.setAcls v).dies = s.dies := rfl
@[simp] theorem State.setAcls_routers (s : State) (v : Tab AclTable) : (s.setAcls v).routers = s.routers := rfl
@[simp] theorem State.setAcls_masters (s : State) (v : Tab AclTable) : (s.setAcls v).masters = s.masters := rfl
@[simp] theorem State.setAcls_flows (s : State) (v : Tab AclTable) : (s.setAcls v).flows = s.flows := rfl
@[simp] theorem State.setAcls_lanesets (s : State) (v : Tab AclTable) : (s.setAcls v).lanesets = s.lanesets := rfl
@[simp] theorem State.setAcls_links (s : State) (v : Tab AclTable) : (s.setAcls v).links = s.links := rfl
@[simp] theorem State.setAcls_guests (s : State) (v : Tab AclTable) : (s.setAcls v).guests = s.guests := rfl
@[simp] theorem State.setAcls_linkKeys (s : State) (v : Tab AclTable) : (s.setAcls v).linkKeys = s.linkKeys := rfl
@[simp] theorem State.setAcls_times (s : State) (v : Tab AclTable) : (s.setAcls v).times = s.times := rfl
@[simp] theorem State.setAcls_hpins (s : State) (v : Tab AclTable) : (s.setAcls v).hpins = s.hpins := rfl
@[simp] theorem State.setAcls_tb (s : State) (v : Tab AclTable) : (s.setAcls v).tb = s.tb := rfl
@[simp] theorem State.setAcls_cfg (s : State) (v : Tab AclTable) : (s.setAcls v).cfg = s.cfg := rfl
@[simp] theorem State.setAcls_dram (s : State) (v : Tab AclTable) : (s.setAcls v).dram = s.dram := rfl
@[simp] theorem State.setAcls_flash (s : State) (v : Tab AclTable) : (s.setAcls v).flash = s.flash := rfl
@[simp] theorem State.setAcls_fregions (s : State) (v : Tab AclTable) : (s.setAcls v).fregions = s.fregions := rfl
@[simp] theorem State.setAcls_dma (s : State) (v : Tab AclTable) : (s.setAcls v).dma = s.dma := rfl
@[simp] theorem State.setAcls_dmaLast (s : State) (v : Tab AclTable) : (s.setAcls v).dmaLast = s.dmaLast := rfl
@[simp] theorem State.setAcls_gable (s : State) (v : Tab AclTable) : (s.setAcls v).gable = s.gable := rfl
@[simp] theorem State.setAcls_clk (s : State) (v : Tab AclTable) : (s.setAcls v).clk = s.clk := rfl
@[simp] theorem State.setAcls_log (s : State) (v : Tab AclTable) : (s.setAcls v).log = s.log := rfl
@[simp] theorem State.setAcls_evr (s : State) (v : Tab AclTable) : (s.setAcls v).evr = s.evr := rfl
@[simp] theorem State.setAcls_svc (s : State) (v : Tab AclTable) : (s.setAcls v).svc = s.svc := rfl
@[simp] theorem State.setAcls_lad (s : State) (v : Tab AclTable) : (s.setAcls v).lad = s.lad := rfl
@[simp] theorem State.setAcls_thermtrip (s : State) (v : Tab AclTable) : (s.setAcls v).thermtrip = s.thermtrip := rfl
@[simp] theorem State.setAcls_pornLow (s : State) (v : Tab AclTable) : (s.setAcls v).pornLow = s.pornLow := rfl
@[simp] theorem State.setAcls_supplyBad (s : State) (v : Tab AclTable) : (s.setAcls v).supplyBad = s.supplyBad := rfl
@[simp] theorem State.setAcls_supplyOkAt (s : State) (v : Tab AclTable) : (s.setAcls v).supplyOkAt = s.supplyOkAt := rfl
@[simp] theorem State.setAcls_pending (s : State) (v : Tab AclTable) : (s.setAcls v).pending = s.pending := rfl
@[simp] theorem State.setDies_now (s : State) (v : Tab Die) : (s.setDies v).now = s.now := rfl
@[simp] theorem State.setDies_free (s : State) (v : Tab Die) : (s.setDies v).free = s.free := rfl
@[simp] theorem State.setDies_rsp (s : State) (v : Tab Die) : (s.setDies v).rsp = s.rsp := rfl
@[simp] theorem State.setDies_fuses (s : State) (v : Tab Die) : (s.setDies v).fuses = s.fuses := rfl
@[simp] theorem State.setDies_ids (s : State) (v : Tab Die) : (s.setDies v).ids = s.ids := rfl
@[simp] theorem State.setDies_acls (s : State) (v : Tab Die) : (s.setDies v).acls = s.acls := rfl
@[simp] theorem State.setDies_dies (s : State) (v : Tab Die) : (s.setDies v).dies = v := rfl
@[simp] theorem State.setDies_routers (s : State) (v : Tab Die) : (s.setDies v).routers = s.routers := rfl
@[simp] theorem State.setDies_masters (s : State) (v : Tab Die) : (s.setDies v).masters = s.masters := rfl
@[simp] theorem State.setDies_flows (s : State) (v : Tab Die) : (s.setDies v).flows = s.flows := rfl
@[simp] theorem State.setDies_lanesets (s : State) (v : Tab Die) : (s.setDies v).lanesets = s.lanesets := rfl
@[simp] theorem State.setDies_links (s : State) (v : Tab Die) : (s.setDies v).links = s.links := rfl
@[simp] theorem State.setDies_guests (s : State) (v : Tab Die) : (s.setDies v).guests = s.guests := rfl
@[simp] theorem State.setDies_linkKeys (s : State) (v : Tab Die) : (s.setDies v).linkKeys = s.linkKeys := rfl
@[simp] theorem State.setDies_times (s : State) (v : Tab Die) : (s.setDies v).times = s.times := rfl
@[simp] theorem State.setDies_hpins (s : State) (v : Tab Die) : (s.setDies v).hpins = s.hpins := rfl
@[simp] theorem State.setDies_tb (s : State) (v : Tab Die) : (s.setDies v).tb = s.tb := rfl
@[simp] theorem State.setDies_cfg (s : State) (v : Tab Die) : (s.setDies v).cfg = s.cfg := rfl
@[simp] theorem State.setDies_dram (s : State) (v : Tab Die) : (s.setDies v).dram = s.dram := rfl
@[simp] theorem State.setDies_flash (s : State) (v : Tab Die) : (s.setDies v).flash = s.flash := rfl
@[simp] theorem State.setDies_fregions (s : State) (v : Tab Die) : (s.setDies v).fregions = s.fregions := rfl
@[simp] theorem State.setDies_dma (s : State) (v : Tab Die) : (s.setDies v).dma = s.dma := rfl
@[simp] theorem State.setDies_dmaLast (s : State) (v : Tab Die) : (s.setDies v).dmaLast = s.dmaLast := rfl
@[simp] theorem State.setDies_gable (s : State) (v : Tab Die) : (s.setDies v).gable = s.gable := rfl
@[simp] theorem State.setDies_clk (s : State) (v : Tab Die) : (s.setDies v).clk = s.clk := rfl
@[simp] theorem State.setDies_log (s : State) (v : Tab Die) : (s.setDies v).log = s.log := rfl
@[simp] theorem State.setDies_evr (s : State) (v : Tab Die) : (s.setDies v).evr = s.evr := rfl
@[simp] theorem State.setDies_svc (s : State) (v : Tab Die) : (s.setDies v).svc = s.svc := rfl
@[simp] theorem State.setDies_lad (s : State) (v : Tab Die) : (s.setDies v).lad = s.lad := rfl
@[simp] theorem State.setDies_thermtrip (s : State) (v : Tab Die) : (s.setDies v).thermtrip = s.thermtrip := rfl
@[simp] theorem State.setDies_pornLow (s : State) (v : Tab Die) : (s.setDies v).pornLow = s.pornLow := rfl
@[simp] theorem State.setDies_supplyBad (s : State) (v : Tab Die) : (s.setDies v).supplyBad = s.supplyBad := rfl
@[simp] theorem State.setDies_supplyOkAt (s : State) (v : Tab Die) : (s.setDies v).supplyOkAt = s.supplyOkAt := rfl
@[simp] theorem State.setDies_pending (s : State) (v : Tab Die) : (s.setDies v).pending = s.pending := rfl
@[simp] theorem State.setRouters_now (s : State) (v : Tab Router) : (s.setRouters v).now = s.now := rfl
@[simp] theorem State.setRouters_free (s : State) (v : Tab Router) : (s.setRouters v).free = s.free := rfl
@[simp] theorem State.setRouters_rsp (s : State) (v : Tab Router) : (s.setRouters v).rsp = s.rsp := rfl
@[simp] theorem State.setRouters_fuses (s : State) (v : Tab Router) : (s.setRouters v).fuses = s.fuses := rfl
@[simp] theorem State.setRouters_ids (s : State) (v : Tab Router) : (s.setRouters v).ids = s.ids := rfl
@[simp] theorem State.setRouters_acls (s : State) (v : Tab Router) : (s.setRouters v).acls = s.acls := rfl
@[simp] theorem State.setRouters_dies (s : State) (v : Tab Router) : (s.setRouters v).dies = s.dies := rfl
@[simp] theorem State.setRouters_routers (s : State) (v : Tab Router) : (s.setRouters v).routers = v := rfl
@[simp] theorem State.setRouters_masters (s : State) (v : Tab Router) : (s.setRouters v).masters = s.masters := rfl
@[simp] theorem State.setRouters_flows (s : State) (v : Tab Router) : (s.setRouters v).flows = s.flows := rfl
@[simp] theorem State.setRouters_lanesets (s : State) (v : Tab Router) : (s.setRouters v).lanesets = s.lanesets := rfl
@[simp] theorem State.setRouters_links (s : State) (v : Tab Router) : (s.setRouters v).links = s.links := rfl
@[simp] theorem State.setRouters_guests (s : State) (v : Tab Router) : (s.setRouters v).guests = s.guests := rfl
@[simp] theorem State.setRouters_linkKeys (s : State) (v : Tab Router) : (s.setRouters v).linkKeys = s.linkKeys := rfl
@[simp] theorem State.setRouters_times (s : State) (v : Tab Router) : (s.setRouters v).times = s.times := rfl
@[simp] theorem State.setRouters_hpins (s : State) (v : Tab Router) : (s.setRouters v).hpins = s.hpins := rfl
@[simp] theorem State.setRouters_tb (s : State) (v : Tab Router) : (s.setRouters v).tb = s.tb := rfl
@[simp] theorem State.setRouters_cfg (s : State) (v : Tab Router) : (s.setRouters v).cfg = s.cfg := rfl
@[simp] theorem State.setRouters_dram (s : State) (v : Tab Router) : (s.setRouters v).dram = s.dram := rfl
@[simp] theorem State.setRouters_flash (s : State) (v : Tab Router) : (s.setRouters v).flash = s.flash := rfl
@[simp] theorem State.setRouters_fregions (s : State) (v : Tab Router) : (s.setRouters v).fregions = s.fregions := rfl
@[simp] theorem State.setRouters_dma (s : State) (v : Tab Router) : (s.setRouters v).dma = s.dma := rfl
@[simp] theorem State.setRouters_dmaLast (s : State) (v : Tab Router) : (s.setRouters v).dmaLast = s.dmaLast := rfl
@[simp] theorem State.setRouters_gable (s : State) (v : Tab Router) : (s.setRouters v).gable = s.gable := rfl
@[simp] theorem State.setRouters_clk (s : State) (v : Tab Router) : (s.setRouters v).clk = s.clk := rfl
@[simp] theorem State.setRouters_log (s : State) (v : Tab Router) : (s.setRouters v).log = s.log := rfl
@[simp] theorem State.setRouters_evr (s : State) (v : Tab Router) : (s.setRouters v).evr = s.evr := rfl
@[simp] theorem State.setRouters_svc (s : State) (v : Tab Router) : (s.setRouters v).svc = s.svc := rfl
@[simp] theorem State.setRouters_lad (s : State) (v : Tab Router) : (s.setRouters v).lad = s.lad := rfl
@[simp] theorem State.setRouters_thermtrip (s : State) (v : Tab Router) : (s.setRouters v).thermtrip = s.thermtrip := rfl
@[simp] theorem State.setRouters_pornLow (s : State) (v : Tab Router) : (s.setRouters v).pornLow = s.pornLow := rfl
@[simp] theorem State.setRouters_supplyBad (s : State) (v : Tab Router) : (s.setRouters v).supplyBad = s.supplyBad := rfl
@[simp] theorem State.setRouters_supplyOkAt (s : State) (v : Tab Router) : (s.setRouters v).supplyOkAt = s.supplyOkAt := rfl
@[simp] theorem State.setRouters_pending (s : State) (v : Tab Router) : (s.setRouters v).pending = s.pending := rfl
@[simp] theorem State.setMasters_now (s : State) (v : Tab MasterPort) : (s.setMasters v).now = s.now := rfl
@[simp] theorem State.setMasters_free (s : State) (v : Tab MasterPort) : (s.setMasters v).free = s.free := rfl
@[simp] theorem State.setMasters_rsp (s : State) (v : Tab MasterPort) : (s.setMasters v).rsp = s.rsp := rfl
@[simp] theorem State.setMasters_fuses (s : State) (v : Tab MasterPort) : (s.setMasters v).fuses = s.fuses := rfl
@[simp] theorem State.setMasters_ids (s : State) (v : Tab MasterPort) : (s.setMasters v).ids = s.ids := rfl
@[simp] theorem State.setMasters_acls (s : State) (v : Tab MasterPort) : (s.setMasters v).acls = s.acls := rfl
@[simp] theorem State.setMasters_dies (s : State) (v : Tab MasterPort) : (s.setMasters v).dies = s.dies := rfl
@[simp] theorem State.setMasters_routers (s : State) (v : Tab MasterPort) : (s.setMasters v).routers = s.routers := rfl
@[simp] theorem State.setMasters_masters (s : State) (v : Tab MasterPort) : (s.setMasters v).masters = v := rfl
@[simp] theorem State.setMasters_flows (s : State) (v : Tab MasterPort) : (s.setMasters v).flows = s.flows := rfl
@[simp] theorem State.setMasters_lanesets (s : State) (v : Tab MasterPort) : (s.setMasters v).lanesets = s.lanesets := rfl
@[simp] theorem State.setMasters_links (s : State) (v : Tab MasterPort) : (s.setMasters v).links = s.links := rfl
@[simp] theorem State.setMasters_guests (s : State) (v : Tab MasterPort) : (s.setMasters v).guests = s.guests := rfl
@[simp] theorem State.setMasters_linkKeys (s : State) (v : Tab MasterPort) : (s.setMasters v).linkKeys = s.linkKeys := rfl
@[simp] theorem State.setMasters_times (s : State) (v : Tab MasterPort) : (s.setMasters v).times = s.times := rfl
@[simp] theorem State.setMasters_hpins (s : State) (v : Tab MasterPort) : (s.setMasters v).hpins = s.hpins := rfl
@[simp] theorem State.setMasters_tb (s : State) (v : Tab MasterPort) : (s.setMasters v).tb = s.tb := rfl
@[simp] theorem State.setMasters_cfg (s : State) (v : Tab MasterPort) : (s.setMasters v).cfg = s.cfg := rfl
@[simp] theorem State.setMasters_dram (s : State) (v : Tab MasterPort) : (s.setMasters v).dram = s.dram := rfl
@[simp] theorem State.setMasters_flash (s : State) (v : Tab MasterPort) : (s.setMasters v).flash = s.flash := rfl
@[simp] theorem State.setMasters_fregions (s : State) (v : Tab MasterPort) : (s.setMasters v).fregions = s.fregions := rfl
@[simp] theorem State.setMasters_dma (s : State) (v : Tab MasterPort) : (s.setMasters v).dma = s.dma := rfl
@[simp] theorem State.setMasters_dmaLast (s : State) (v : Tab MasterPort) : (s.setMasters v).dmaLast = s.dmaLast := rfl
@[simp] theorem State.setMasters_gable (s : State) (v : Tab MasterPort) : (s.setMasters v).gable = s.gable := rfl
@[simp] theorem State.setMasters_clk (s : State) (v : Tab MasterPort) : (s.setMasters v).clk = s.clk := rfl
@[simp] theorem State.setMasters_log (s : State) (v : Tab MasterPort) : (s.setMasters v).log = s.log := rfl
@[simp] theorem State.setMasters_evr (s : State) (v : Tab MasterPort) : (s.setMasters v).evr = s.evr := rfl
@[simp] theorem State.setMasters_svc (s : State) (v : Tab MasterPort) : (s.setMasters v).svc = s.svc := rfl
@[simp] theorem State.setMasters_lad (s : State) (v : Tab MasterPort) : (s.setMasters v).lad = s.lad := rfl
@[simp] theorem State.setMasters_thermtrip (s : State) (v : Tab MasterPort) : (s.setMasters v).thermtrip = s.thermtrip := rfl
@[simp] theorem State.setMasters_pornLow (s : State) (v : Tab MasterPort) : (s.setMasters v).pornLow = s.pornLow := rfl
@[simp] theorem State.setMasters_supplyBad (s : State) (v : Tab MasterPort) : (s.setMasters v).supplyBad = s.supplyBad := rfl
@[simp] theorem State.setMasters_supplyOkAt (s : State) (v : Tab MasterPort) : (s.setMasters v).supplyOkAt = s.supplyOkAt := rfl
@[simp] theorem State.setMasters_pending (s : State) (v : Tab MasterPort) : (s.setMasters v).pending = s.pending := rfl
@[simp] theorem State.setFlows_now (s : State) (v : Tab Flow) : (s.setFlows v).now = s.now := rfl
@[simp] theorem State.setFlows_free (s : State) (v : Tab Flow) : (s.setFlows v).free = s.free := rfl
@[simp] theorem State.setFlows_rsp (s : State) (v : Tab Flow) : (s.setFlows v).rsp = s.rsp := rfl
@[simp] theorem State.setFlows_fuses (s : State) (v : Tab Flow) : (s.setFlows v).fuses = s.fuses := rfl
@[simp] theorem State.setFlows_ids (s : State) (v : Tab Flow) : (s.setFlows v).ids = s.ids := rfl
@[simp] theorem State.setFlows_acls (s : State) (v : Tab Flow) : (s.setFlows v).acls = s.acls := rfl
@[simp] theorem State.setFlows_dies (s : State) (v : Tab Flow) : (s.setFlows v).dies = s.dies := rfl
@[simp] theorem State.setFlows_routers (s : State) (v : Tab Flow) : (s.setFlows v).routers = s.routers := rfl
@[simp] theorem State.setFlows_masters (s : State) (v : Tab Flow) : (s.setFlows v).masters = s.masters := rfl
@[simp] theorem State.setFlows_flows (s : State) (v : Tab Flow) : (s.setFlows v).flows = v := rfl
@[simp] theorem State.setFlows_lanesets (s : State) (v : Tab Flow) : (s.setFlows v).lanesets = s.lanesets := rfl
@[simp] theorem State.setFlows_links (s : State) (v : Tab Flow) : (s.setFlows v).links = s.links := rfl
@[simp] theorem State.setFlows_guests (s : State) (v : Tab Flow) : (s.setFlows v).guests = s.guests := rfl
@[simp] theorem State.setFlows_linkKeys (s : State) (v : Tab Flow) : (s.setFlows v).linkKeys = s.linkKeys := rfl
@[simp] theorem State.setFlows_times (s : State) (v : Tab Flow) : (s.setFlows v).times = s.times := rfl
@[simp] theorem State.setFlows_hpins (s : State) (v : Tab Flow) : (s.setFlows v).hpins = s.hpins := rfl
@[simp] theorem State.setFlows_tb (s : State) (v : Tab Flow) : (s.setFlows v).tb = s.tb := rfl
@[simp] theorem State.setFlows_cfg (s : State) (v : Tab Flow) : (s.setFlows v).cfg = s.cfg := rfl
@[simp] theorem State.setFlows_dram (s : State) (v : Tab Flow) : (s.setFlows v).dram = s.dram := rfl
@[simp] theorem State.setFlows_flash (s : State) (v : Tab Flow) : (s.setFlows v).flash = s.flash := rfl
@[simp] theorem State.setFlows_fregions (s : State) (v : Tab Flow) : (s.setFlows v).fregions = s.fregions := rfl
@[simp] theorem State.setFlows_dma (s : State) (v : Tab Flow) : (s.setFlows v).dma = s.dma := rfl
@[simp] theorem State.setFlows_dmaLast (s : State) (v : Tab Flow) : (s.setFlows v).dmaLast = s.dmaLast := rfl
@[simp] theorem State.setFlows_gable (s : State) (v : Tab Flow) : (s.setFlows v).gable = s.gable := rfl
@[simp] theorem State.setFlows_clk (s : State) (v : Tab Flow) : (s.setFlows v).clk = s.clk := rfl
@[simp] theorem State.setFlows_log (s : State) (v : Tab Flow) : (s.setFlows v).log = s.log := rfl
@[simp] theorem State.setFlows_evr (s : State) (v : Tab Flow) : (s.setFlows v).evr = s.evr := rfl
@[simp] theorem State.setFlows_svc (s : State) (v : Tab Flow) : (s.setFlows v).svc = s.svc := rfl
@[simp] theorem State.setFlows_lad (s : State) (v : Tab Flow) : (s.setFlows v).lad = s.lad := rfl
@[simp] theorem State.setFlows_thermtrip (s : State) (v : Tab Flow) : (s.setFlows v).thermtrip = s.thermtrip := rfl
@[simp] theorem State.setFlows_pornLow (s : State) (v : Tab Flow) : (s.setFlows v).pornLow = s.pornLow := rfl
@[simp] theorem State.setFlows_supplyBad (s : State) (v : Tab Flow) : (s.setFlows v).supplyBad = s.supplyBad := rfl
@[simp] theorem State.setFlows_supplyOkAt (s : State) (v : Tab Flow) : (s.setFlows v).supplyOkAt = s.supplyOkAt := rfl
@[simp] theorem State.setFlows_pending (s : State) (v : Tab Flow) : (s.setFlows v).pending = s.pending := rfl
@[simp] theorem State.setLanesets_now (s : State) (v : Tab LaneSet) : (s.setLanesets v).now = s.now := rfl
@[simp] theorem State.setLanesets_free (s : State) (v : Tab LaneSet) : (s.setLanesets v).free = s.free := rfl
@[simp] theorem State.setLanesets_rsp (s : State) (v : Tab LaneSet) : (s.setLanesets v).rsp = s.rsp := rfl
@[simp] theorem State.setLanesets_fuses (s : State) (v : Tab LaneSet) : (s.setLanesets v).fuses = s.fuses := rfl
@[simp] theorem State.setLanesets_ids (s : State) (v : Tab LaneSet) : (s.setLanesets v).ids = s.ids := rfl
@[simp] theorem State.setLanesets_acls (s : State) (v : Tab LaneSet) : (s.setLanesets v).acls = s.acls := rfl
@[simp] theorem State.setLanesets_dies (s : State) (v : Tab LaneSet) : (s.setLanesets v).dies = s.dies := rfl
@[simp] theorem State.setLanesets_routers (s : State) (v : Tab LaneSet) : (s.setLanesets v).routers = s.routers := rfl
@[simp] theorem State.setLanesets_masters (s : State) (v : Tab LaneSet) : (s.setLanesets v).masters = s.masters := rfl
@[simp] theorem State.setLanesets_flows (s : State) (v : Tab LaneSet) : (s.setLanesets v).flows = s.flows := rfl
@[simp] theorem State.setLanesets_lanesets (s : State) (v : Tab LaneSet) : (s.setLanesets v).lanesets = v := rfl
@[simp] theorem State.setLanesets_links (s : State) (v : Tab LaneSet) : (s.setLanesets v).links = s.links := rfl
@[simp] theorem State.setLanesets_guests (s : State) (v : Tab LaneSet) : (s.setLanesets v).guests = s.guests := rfl
@[simp] theorem State.setLanesets_linkKeys (s : State) (v : Tab LaneSet) : (s.setLanesets v).linkKeys = s.linkKeys := rfl
@[simp] theorem State.setLanesets_times (s : State) (v : Tab LaneSet) : (s.setLanesets v).times = s.times := rfl
@[simp] theorem State.setLanesets_hpins (s : State) (v : Tab LaneSet) : (s.setLanesets v).hpins = s.hpins := rfl
@[simp] theorem State.setLanesets_tb (s : State) (v : Tab LaneSet) : (s.setLanesets v).tb = s.tb := rfl
@[simp] theorem State.setLanesets_cfg (s : State) (v : Tab LaneSet) : (s.setLanesets v).cfg = s.cfg := rfl
@[simp] theorem State.setLanesets_dram (s : State) (v : Tab LaneSet) : (s.setLanesets v).dram = s.dram := rfl
@[simp] theorem State.setLanesets_flash (s : State) (v : Tab LaneSet) : (s.setLanesets v).flash = s.flash := rfl
@[simp] theorem State.setLanesets_fregions (s : State) (v : Tab LaneSet) : (s.setLanesets v).fregions = s.fregions := rfl
@[simp] theorem State.setLanesets_dma (s : State) (v : Tab LaneSet) : (s.setLanesets v).dma = s.dma := rfl
@[simp] theorem State.setLanesets_dmaLast (s : State) (v : Tab LaneSet) : (s.setLanesets v).dmaLast = s.dmaLast := rfl
@[simp] theorem State.setLanesets_gable (s : State) (v : Tab LaneSet) : (s.setLanesets v).gable = s.gable := rfl
@[simp] theorem State.setLanesets_clk (s : State) (v : Tab LaneSet) : (s.setLanesets v).clk = s.clk := rfl
@[simp] theorem State.setLanesets_log (s : State) (v : Tab LaneSet) : (s.setLanesets v).log = s.log := rfl
@[simp] theorem State.setLanesets_evr (s : State) (v : Tab LaneSet) : (s.setLanesets v).evr = s.evr := rfl
@[simp] theorem State.setLanesets_svc (s : State) (v : Tab LaneSet) : (s.setLanesets v).svc = s.svc := rfl
@[simp] theorem State.setLanesets_lad (s : State) (v : Tab LaneSet) : (s.setLanesets v).lad = s.lad := rfl
@[simp] theorem State.setLanesets_thermtrip (s : State) (v : Tab LaneSet) : (s.setLanesets v).thermtrip = s.thermtrip := rfl
@[simp] theorem State.setLanesets_pornLow (s : State) (v : Tab LaneSet) : (s.setLanesets v).pornLow = s.pornLow := rfl
@[simp] theorem State.setLanesets_supplyBad (s : State) (v : Tab LaneSet) : (s.setLanesets v).supplyBad = s.supplyBad := rfl
@[simp] theorem State.setLanesets_supplyOkAt (s : State) (v : Tab LaneSet) : (s.setLanesets v).supplyOkAt = s.supplyOkAt := rfl
@[simp] theorem State.setLanesets_pending (s : State) (v : Tab LaneSet) : (s.setLanesets v).pending = s.pending := rfl
@[simp] theorem State.setLinks_now (s : State) (v : Tab LinkEnd) : (s.setLinks v).now = s.now := rfl
@[simp] theorem State.setLinks_free (s : State) (v : Tab LinkEnd) : (s.setLinks v).free = s.free := rfl
@[simp] theorem State.setLinks_rsp (s : State) (v : Tab LinkEnd) : (s.setLinks v).rsp = s.rsp := rfl
@[simp] theorem State.setLinks_fuses (s : State) (v : Tab LinkEnd) : (s.setLinks v).fuses = s.fuses := rfl
@[simp] theorem State.setLinks_ids (s : State) (v : Tab LinkEnd) : (s.setLinks v).ids = s.ids := rfl
@[simp] theorem State.setLinks_acls (s : State) (v : Tab LinkEnd) : (s.setLinks v).acls = s.acls := rfl
@[simp] theorem State.setLinks_dies (s : State) (v : Tab LinkEnd) : (s.setLinks v).dies = s.dies := rfl
@[simp] theorem State.setLinks_routers (s : State) (v : Tab LinkEnd) : (s.setLinks v).routers = s.routers := rfl
@[simp] theorem State.setLinks_masters (s : State) (v : Tab LinkEnd) : (s.setLinks v).masters = s.masters := rfl
@[simp] theorem State.setLinks_flows (s : State) (v : Tab LinkEnd) : (s.setLinks v).flows = s.flows := rfl
@[simp] theorem State.setLinks_lanesets (s : State) (v : Tab LinkEnd) : (s.setLinks v).lanesets = s.lanesets := rfl
@[simp] theorem State.setLinks_links (s : State) (v : Tab LinkEnd) : (s.setLinks v).links = v := rfl
@[simp] theorem State.setLinks_guests (s : State) (v : Tab LinkEnd) : (s.setLinks v).guests = s.guests := rfl
@[simp] theorem State.setLinks_linkKeys (s : State) (v : Tab LinkEnd) : (s.setLinks v).linkKeys = s.linkKeys := rfl
@[simp] theorem State.setLinks_times (s : State) (v : Tab LinkEnd) : (s.setLinks v).times = s.times := rfl
@[simp] theorem State.setLinks_hpins (s : State) (v : Tab LinkEnd) : (s.setLinks v).hpins = s.hpins := rfl
@[simp] theorem State.setLinks_tb (s : State) (v : Tab LinkEnd) : (s.setLinks v).tb = s.tb := rfl
@[simp] theorem State.setLinks_cfg (s : State) (v : Tab LinkEnd) : (s.setLinks v).cfg = s.cfg := rfl
@[simp] theorem State.setLinks_dram (s : State) (v : Tab LinkEnd) : (s.setLinks v).dram = s.dram := rfl
@[simp] theorem State.setLinks_flash (s : State) (v : Tab LinkEnd) : (s.setLinks v).flash = s.flash := rfl
@[simp] theorem State.setLinks_fregions (s : State) (v : Tab LinkEnd) : (s.setLinks v).fregions = s.fregions := rfl
@[simp] theorem State.setLinks_dma (s : State) (v : Tab LinkEnd) : (s.setLinks v).dma = s.dma := rfl
@[simp] theorem State.setLinks_dmaLast (s : State) (v : Tab LinkEnd) : (s.setLinks v).dmaLast = s.dmaLast := rfl
@[simp] theorem State.setLinks_gable (s : State) (v : Tab LinkEnd) : (s.setLinks v).gable = s.gable := rfl
@[simp] theorem State.setLinks_clk (s : State) (v : Tab LinkEnd) : (s.setLinks v).clk = s.clk := rfl
@[simp] theorem State.setLinks_log (s : State) (v : Tab LinkEnd) : (s.setLinks v).log = s.log := rfl
@[simp] theorem State.setLinks_evr (s : State) (v : Tab LinkEnd) : (s.setLinks v).evr = s.evr := rfl
@[simp] theorem State.setLinks_svc (s : State) (v : Tab LinkEnd) : (s.setLinks v).svc = s.svc := rfl
@[simp] theorem State.setLinks_lad (s : State) (v : Tab LinkEnd) : (s.setLinks v).lad = s.lad := rfl
@[simp] theorem State.setLinks_thermtrip (s : State) (v : Tab LinkEnd) : (s.setLinks v).thermtrip = s.thermtrip := rfl
@[simp] theorem State.setLinks_pornLow (s : State) (v : Tab LinkEnd) : (s.setLinks v).pornLow = s.pornLow := rfl
@[simp] theorem State.setLinks_supplyBad (s : State) (v : Tab LinkEnd) : (s.setLinks v).supplyBad = s.supplyBad := rfl
@[simp] theorem State.setLinks_supplyOkAt (s : State) (v : Tab LinkEnd) : (s.setLinks v).supplyOkAt = s.supplyOkAt := rfl
@[simp] theorem State.setLinks_pending (s : State) (v : Tab LinkEnd) : (s.setLinks v).pending = s.pending := rfl
@[simp] theorem State.setGuests_now (s : State) (v : Tab GuestSite) : (s.setGuests v).now = s.now := rfl
@[simp] theorem State.setGuests_free (s : State) (v : Tab GuestSite) : (s.setGuests v).free = s.free := rfl
@[simp] theorem State.setGuests_rsp (s : State) (v : Tab GuestSite) : (s.setGuests v).rsp = s.rsp := rfl
@[simp] theorem State.setGuests_fuses (s : State) (v : Tab GuestSite) : (s.setGuests v).fuses = s.fuses := rfl
@[simp] theorem State.setGuests_ids (s : State) (v : Tab GuestSite) : (s.setGuests v).ids = s.ids := rfl
@[simp] theorem State.setGuests_acls (s : State) (v : Tab GuestSite) : (s.setGuests v).acls = s.acls := rfl
@[simp] theorem State.setGuests_dies (s : State) (v : Tab GuestSite) : (s.setGuests v).dies = s.dies := rfl
@[simp] theorem State.setGuests_routers (s : State) (v : Tab GuestSite) : (s.setGuests v).routers = s.routers := rfl
@[simp] theorem State.setGuests_masters (s : State) (v : Tab GuestSite) : (s.setGuests v).masters = s.masters := rfl
@[simp] theorem State.setGuests_flows (s : State) (v : Tab GuestSite) : (s.setGuests v).flows = s.flows := rfl
@[simp] theorem State.setGuests_lanesets (s : State) (v : Tab GuestSite) : (s.setGuests v).lanesets = s.lanesets := rfl
@[simp] theorem State.setGuests_links (s : State) (v : Tab GuestSite) : (s.setGuests v).links = s.links := rfl
@[simp] theorem State.setGuests_guests (s : State) (v : Tab GuestSite) : (s.setGuests v).guests = v := rfl
@[simp] theorem State.setGuests_linkKeys (s : State) (v : Tab GuestSite) : (s.setGuests v).linkKeys = s.linkKeys := rfl
@[simp] theorem State.setGuests_times (s : State) (v : Tab GuestSite) : (s.setGuests v).times = s.times := rfl
@[simp] theorem State.setGuests_hpins (s : State) (v : Tab GuestSite) : (s.setGuests v).hpins = s.hpins := rfl
@[simp] theorem State.setGuests_tb (s : State) (v : Tab GuestSite) : (s.setGuests v).tb = s.tb := rfl
@[simp] theorem State.setGuests_cfg (s : State) (v : Tab GuestSite) : (s.setGuests v).cfg = s.cfg := rfl
@[simp] theorem State.setGuests_dram (s : State) (v : Tab GuestSite) : (s.setGuests v).dram = s.dram := rfl
@[simp] theorem State.setGuests_flash (s : State) (v : Tab GuestSite) : (s.setGuests v).flash = s.flash := rfl
@[simp] theorem State.setGuests_fregions (s : State) (v : Tab GuestSite) : (s.setGuests v).fregions = s.fregions := rfl
@[simp] theorem State.setGuests_dma (s : State) (v : Tab GuestSite) : (s.setGuests v).dma = s.dma := rfl
@[simp] theorem State.setGuests_dmaLast (s : State) (v : Tab GuestSite) : (s.setGuests v).dmaLast = s.dmaLast := rfl
@[simp] theorem State.setGuests_gable (s : State) (v : Tab GuestSite) : (s.setGuests v).gable = s.gable := rfl
@[simp] theorem State.setGuests_clk (s : State) (v : Tab GuestSite) : (s.setGuests v).clk = s.clk := rfl
@[simp] theorem State.setGuests_log (s : State) (v : Tab GuestSite) : (s.setGuests v).log = s.log := rfl
@[simp] theorem State.setGuests_evr (s : State) (v : Tab GuestSite) : (s.setGuests v).evr = s.evr := rfl
@[simp] theorem State.setGuests_svc (s : State) (v : Tab GuestSite) : (s.setGuests v).svc = s.svc := rfl
@[simp] theorem State.setGuests_lad (s : State) (v : Tab GuestSite) : (s.setGuests v).lad = s.lad := rfl
@[simp] theorem State.setGuests_thermtrip (s : State) (v : Tab GuestSite) : (s.setGuests v).thermtrip = s.thermtrip := rfl
@[simp] theorem State.setGuests_pornLow (s : State) (v : Tab GuestSite) : (s.setGuests v).pornLow = s.pornLow := rfl
@[simp] theorem State.setGuests_supplyBad (s : State) (v : Tab GuestSite) : (s.setGuests v).supplyBad = s.supplyBad := rfl
@[simp] theorem State.setGuests_supplyOkAt (s : State) (v : Tab GuestSite) : (s.setGuests v).supplyOkAt = s.supplyOkAt := rfl
@[simp] theorem State.setGuests_pending (s : State) (v : Tab GuestSite) : (s.setGuests v).pending = s.pending := rfl
@[simp] theorem State.setLinkKeys_now (s : State) (v : Tab LinkKey) : (s.setLinkKeys v).now = s.now := rfl
@[simp] theorem State.setLinkKeys_free (s : State) (v : Tab LinkKey) : (s.setLinkKeys v).free = s.free := rfl
@[simp] theorem State.setLinkKeys_rsp (s : State) (v : Tab LinkKey) : (s.setLinkKeys v).rsp = s.rsp := rfl
@[simp] theorem State.setLinkKeys_fuses (s : State) (v : Tab LinkKey) : (s.setLinkKeys v).fuses = s.fuses := rfl
@[simp] theorem State.setLinkKeys_ids (s : State) (v : Tab LinkKey) : (s.setLinkKeys v).ids = s.ids := rfl
@[simp] theorem State.setLinkKeys_acls (s : State) (v : Tab LinkKey) : (s.setLinkKeys v).acls = s.acls := rfl
@[simp] theorem State.setLinkKeys_dies (s : State) (v : Tab LinkKey) : (s.setLinkKeys v).dies = s.dies := rfl
@[simp] theorem State.setLinkKeys_routers (s : State) (v : Tab LinkKey) : (s.setLinkKeys v).routers = s.routers := rfl
@[simp] theorem State.setLinkKeys_masters (s : State) (v : Tab LinkKey) : (s.setLinkKeys v).masters = s.masters := rfl
@[simp] theorem State.setLinkKeys_flows (s : State) (v : Tab LinkKey) : (s.setLinkKeys v).flows = s.flows := rfl
@[simp] theorem State.setLinkKeys_lanesets (s : State) (v : Tab LinkKey) : (s.setLinkKeys v).lanesets = s.lanesets := rfl
@[simp] theorem State.setLinkKeys_links (s : State) (v : Tab LinkKey) : (s.setLinkKeys v).links = s.links := rfl
@[simp] theorem State.setLinkKeys_guests (s : State) (v : Tab LinkKey) : (s.setLinkKeys v).guests = s.guests := rfl
@[simp] theorem State.setLinkKeys_linkKeys (s : State) (v : Tab LinkKey) : (s.setLinkKeys v).linkKeys = v := rfl
@[simp] theorem State.setLinkKeys_times (s : State) (v : Tab LinkKey) : (s.setLinkKeys v).times = s.times := rfl
@[simp] theorem State.setLinkKeys_hpins (s : State) (v : Tab LinkKey) : (s.setLinkKeys v).hpins = s.hpins := rfl
@[simp] theorem State.setLinkKeys_tb (s : State) (v : Tab LinkKey) : (s.setLinkKeys v).tb = s.tb := rfl
@[simp] theorem State.setLinkKeys_cfg (s : State) (v : Tab LinkKey) : (s.setLinkKeys v).cfg = s.cfg := rfl
@[simp] theorem State.setLinkKeys_dram (s : State) (v : Tab LinkKey) : (s.setLinkKeys v).dram = s.dram := rfl
@[simp] theorem State.setLinkKeys_flash (s : State) (v : Tab LinkKey) : (s.setLinkKeys v).flash = s.flash := rfl
@[simp] theorem State.setLinkKeys_fregions (s : State) (v : Tab LinkKey) : (s.setLinkKeys v).fregions = s.fregions := rfl
@[simp] theorem State.setLinkKeys_dma (s : State) (v : Tab LinkKey) : (s.setLinkKeys v).dma = s.dma := rfl
@[simp] theorem State.setLinkKeys_dmaLast (s : State) (v : Tab LinkKey) : (s.setLinkKeys v).dmaLast = s.dmaLast := rfl
@[simp] theorem State.setLinkKeys_gable (s : State) (v : Tab LinkKey) : (s.setLinkKeys v).gable = s.gable := rfl
@[simp] theorem State.setLinkKeys_clk (s : State) (v : Tab LinkKey) : (s.setLinkKeys v).clk = s.clk := rfl
@[simp] theorem State.setLinkKeys_log (s : State) (v : Tab LinkKey) : (s.setLinkKeys v).log = s.log := rfl
@[simp] theorem State.setLinkKeys_evr (s : State) (v : Tab LinkKey) : (s.setLinkKeys v).evr = s.evr := rfl
@[simp] theorem State.setLinkKeys_svc (s : State) (v : Tab LinkKey) : (s.setLinkKeys v).svc = s.svc := rfl
@[simp] theorem State.setLinkKeys_lad (s : State) (v : Tab LinkKey) : (s.setLinkKeys v).lad = s.lad := rfl
@[simp] theorem State.setLinkKeys_thermtrip (s : State) (v : Tab LinkKey) : (s.setLinkKeys v).thermtrip = s.thermtrip := rfl
@[simp] theorem State.setLinkKeys_pornLow (s : State) (v : Tab LinkKey) : (s.setLinkKeys v).pornLow = s.pornLow := rfl
@[simp] theorem State.setLinkKeys_supplyBad (s : State) (v : Tab LinkKey) : (s.setLinkKeys v).supplyBad = s.supplyBad := rfl
@[simp] theorem State.setLinkKeys_supplyOkAt (s : State) (v : Tab LinkKey) : (s.setLinkKeys v).supplyOkAt = s.supplyOkAt := rfl
@[simp] theorem State.setLinkKeys_pending (s : State) (v : Tab LinkKey) : (s.setLinkKeys v).pending = s.pending := rfl
@[simp] theorem State.setTimes_now (s : State) (v : Tab DieTime) : (s.setTimes v).now = s.now := rfl
@[simp] theorem State.setTimes_free (s : State) (v : Tab DieTime) : (s.setTimes v).free = s.free := rfl
@[simp] theorem State.setTimes_rsp (s : State) (v : Tab DieTime) : (s.setTimes v).rsp = s.rsp := rfl
@[simp] theorem State.setTimes_fuses (s : State) (v : Tab DieTime) : (s.setTimes v).fuses = s.fuses := rfl
@[simp] theorem State.setTimes_ids (s : State) (v : Tab DieTime) : (s.setTimes v).ids = s.ids := rfl
@[simp] theorem State.setTimes_acls (s : State) (v : Tab DieTime) : (s.setTimes v).acls = s.acls := rfl
@[simp] theorem State.setTimes_dies (s : State) (v : Tab DieTime) : (s.setTimes v).dies = s.dies := rfl
@[simp] theorem State.setTimes_routers (s : State) (v : Tab DieTime) : (s.setTimes v).routers = s.routers := rfl
@[simp] theorem State.setTimes_masters (s : State) (v : Tab DieTime) : (s.setTimes v).masters = s.masters := rfl
@[simp] theorem State.setTimes_flows (s : State) (v : Tab DieTime) : (s.setTimes v).flows = s.flows := rfl
@[simp] theorem State.setTimes_lanesets (s : State) (v : Tab DieTime) : (s.setTimes v).lanesets = s.lanesets := rfl
@[simp] theorem State.setTimes_links (s : State) (v : Tab DieTime) : (s.setTimes v).links = s.links := rfl
@[simp] theorem State.setTimes_guests (s : State) (v : Tab DieTime) : (s.setTimes v).guests = s.guests := rfl
@[simp] theorem State.setTimes_linkKeys (s : State) (v : Tab DieTime) : (s.setTimes v).linkKeys = s.linkKeys := rfl
@[simp] theorem State.setTimes_times (s : State) (v : Tab DieTime) : (s.setTimes v).times = v := rfl
@[simp] theorem State.setTimes_hpins (s : State) (v : Tab DieTime) : (s.setTimes v).hpins = s.hpins := rfl
@[simp] theorem State.setTimes_tb (s : State) (v : Tab DieTime) : (s.setTimes v).tb = s.tb := rfl
@[simp] theorem State.setTimes_cfg (s : State) (v : Tab DieTime) : (s.setTimes v).cfg = s.cfg := rfl
@[simp] theorem State.setTimes_dram (s : State) (v : Tab DieTime) : (s.setTimes v).dram = s.dram := rfl
@[simp] theorem State.setTimes_flash (s : State) (v : Tab DieTime) : (s.setTimes v).flash = s.flash := rfl
@[simp] theorem State.setTimes_fregions (s : State) (v : Tab DieTime) : (s.setTimes v).fregions = s.fregions := rfl
@[simp] theorem State.setTimes_dma (s : State) (v : Tab DieTime) : (s.setTimes v).dma = s.dma := rfl
@[simp] theorem State.setTimes_dmaLast (s : State) (v : Tab DieTime) : (s.setTimes v).dmaLast = s.dmaLast := rfl
@[simp] theorem State.setTimes_gable (s : State) (v : Tab DieTime) : (s.setTimes v).gable = s.gable := rfl
@[simp] theorem State.setTimes_clk (s : State) (v : Tab DieTime) : (s.setTimes v).clk = s.clk := rfl
@[simp] theorem State.setTimes_log (s : State) (v : Tab DieTime) : (s.setTimes v).log = s.log := rfl
@[simp] theorem State.setTimes_evr (s : State) (v : Tab DieTime) : (s.setTimes v).evr = s.evr := rfl
@[simp] theorem State.setTimes_svc (s : State) (v : Tab DieTime) : (s.setTimes v).svc = s.svc := rfl
@[simp] theorem State.setTimes_lad (s : State) (v : Tab DieTime) : (s.setTimes v).lad = s.lad := rfl
@[simp] theorem State.setTimes_thermtrip (s : State) (v : Tab DieTime) : (s.setTimes v).thermtrip = s.thermtrip := rfl
@[simp] theorem State.setTimes_pornLow (s : State) (v : Tab DieTime) : (s.setTimes v).pornLow = s.pornLow := rfl
@[simp] theorem State.setTimes_supplyBad (s : State) (v : Tab DieTime) : (s.setTimes v).supplyBad = s.supplyBad := rfl
@[simp] theorem State.setTimes_supplyOkAt (s : State) (v : Tab DieTime) : (s.setTimes v).supplyOkAt = s.supplyOkAt := rfl
@[simp] theorem State.setTimes_pending (s : State) (v : Tab DieTime) : (s.setTimes v).pending = s.pending := rfl
@[simp] theorem State.setHpins_now (s : State) (v : Tab TimingPin) : (s.setHpins v).now = s.now := rfl
@[simp] theorem State.setHpins_free (s : State) (v : Tab TimingPin) : (s.setHpins v).free = s.free := rfl
@[simp] theorem State.setHpins_rsp (s : State) (v : Tab TimingPin) : (s.setHpins v).rsp = s.rsp := rfl
@[simp] theorem State.setHpins_fuses (s : State) (v : Tab TimingPin) : (s.setHpins v).fuses = s.fuses := rfl
@[simp] theorem State.setHpins_ids (s : State) (v : Tab TimingPin) : (s.setHpins v).ids = s.ids := rfl
@[simp] theorem State.setHpins_acls (s : State) (v : Tab TimingPin) : (s.setHpins v).acls = s.acls := rfl
@[simp] theorem State.setHpins_dies (s : State) (v : Tab TimingPin) : (s.setHpins v).dies = s.dies := rfl
@[simp] theorem State.setHpins_routers (s : State) (v : Tab TimingPin) : (s.setHpins v).routers = s.routers := rfl
@[simp] theorem State.setHpins_masters (s : State) (v : Tab TimingPin) : (s.setHpins v).masters = s.masters := rfl
@[simp] theorem State.setHpins_flows (s : State) (v : Tab TimingPin) : (s.setHpins v).flows = s.flows := rfl
@[simp] theorem State.setHpins_lanesets (s : State) (v : Tab TimingPin) : (s.setHpins v).lanesets = s.lanesets := rfl
@[simp] theorem State.setHpins_links (s : State) (v : Tab TimingPin) : (s.setHpins v).links = s.links := rfl
@[simp] theorem State.setHpins_guests (s : State) (v : Tab TimingPin) : (s.setHpins v).guests = s.guests := rfl
@[simp] theorem State.setHpins_linkKeys (s : State) (v : Tab TimingPin) : (s.setHpins v).linkKeys = s.linkKeys := rfl
@[simp] theorem State.setHpins_times (s : State) (v : Tab TimingPin) : (s.setHpins v).times = s.times := rfl
@[simp] theorem State.setHpins_hpins (s : State) (v : Tab TimingPin) : (s.setHpins v).hpins = v := rfl
@[simp] theorem State.setHpins_tb (s : State) (v : Tab TimingPin) : (s.setHpins v).tb = s.tb := rfl
@[simp] theorem State.setHpins_cfg (s : State) (v : Tab TimingPin) : (s.setHpins v).cfg = s.cfg := rfl
@[simp] theorem State.setHpins_dram (s : State) (v : Tab TimingPin) : (s.setHpins v).dram = s.dram := rfl
@[simp] theorem State.setHpins_flash (s : State) (v : Tab TimingPin) : (s.setHpins v).flash = s.flash := rfl
@[simp] theorem State.setHpins_fregions (s : State) (v : Tab TimingPin) : (s.setHpins v).fregions = s.fregions := rfl
@[simp] theorem State.setHpins_dma (s : State) (v : Tab TimingPin) : (s.setHpins v).dma = s.dma := rfl
@[simp] theorem State.setHpins_dmaLast (s : State) (v : Tab TimingPin) : (s.setHpins v).dmaLast = s.dmaLast := rfl
@[simp] theorem State.setHpins_gable (s : State) (v : Tab TimingPin) : (s.setHpins v).gable = s.gable := rfl
@[simp] theorem State.setHpins_clk (s : State) (v : Tab TimingPin) : (s.setHpins v).clk = s.clk := rfl
@[simp] theorem State.setHpins_log (s : State) (v : Tab TimingPin) : (s.setHpins v).log = s.log := rfl
@[simp] theorem State.setHpins_evr (s : State) (v : Tab TimingPin) : (s.setHpins v).evr = s.evr := rfl
@[simp] theorem State.setHpins_svc (s : State) (v : Tab TimingPin) : (s.setHpins v).svc = s.svc := rfl
@[simp] theorem State.setHpins_lad (s : State) (v : Tab TimingPin) : (s.setHpins v).lad = s.lad := rfl
@[simp] theorem State.setHpins_thermtrip (s : State) (v : Tab TimingPin) : (s.setHpins v).thermtrip = s.thermtrip := rfl
@[simp] theorem State.setHpins_pornLow (s : State) (v : Tab TimingPin) : (s.setHpins v).pornLow = s.pornLow := rfl
@[simp] theorem State.setHpins_supplyBad (s : State) (v : Tab TimingPin) : (s.setHpins v).supplyBad = s.supplyBad := rfl
@[simp] theorem State.setHpins_supplyOkAt (s : State) (v : Tab TimingPin) : (s.setHpins v).supplyOkAt = s.supplyOkAt := rfl
@[simp] theorem State.setHpins_pending (s : State) (v : Tab TimingPin) : (s.setHpins v).pending = s.pending := rfl
@[simp] theorem State.setTb_now (s : State) (v : TimeBase) : (s.setTb v).now = s.now := rfl
@[simp] theorem State.setTb_free (s : State) (v : TimeBase) : (s.setTb v).free = s.free := rfl
@[simp] theorem State.setTb_rsp (s : State) (v : TimeBase) : (s.setTb v).rsp = s.rsp := rfl
@[simp] theorem State.setTb_fuses (s : State) (v : TimeBase) : (s.setTb v).fuses = s.fuses := rfl
@[simp] theorem State.setTb_ids (s : State) (v : TimeBase) : (s.setTb v).ids = s.ids := rfl
@[simp] theorem State.setTb_acls (s : State) (v : TimeBase) : (s.setTb v).acls = s.acls := rfl
@[simp] theorem State.setTb_dies (s : State) (v : TimeBase) : (s.setTb v).dies = s.dies := rfl
@[simp] theorem State.setTb_routers (s : State) (v : TimeBase) : (s.setTb v).routers = s.routers := rfl
@[simp] theorem State.setTb_masters (s : State) (v : TimeBase) : (s.setTb v).masters = s.masters := rfl
@[simp] theorem State.setTb_flows (s : State) (v : TimeBase) : (s.setTb v).flows = s.flows := rfl
@[simp] theorem State.setTb_lanesets (s : State) (v : TimeBase) : (s.setTb v).lanesets = s.lanesets := rfl
@[simp] theorem State.setTb_links (s : State) (v : TimeBase) : (s.setTb v).links = s.links := rfl
@[simp] theorem State.setTb_guests (s : State) (v : TimeBase) : (s.setTb v).guests = s.guests := rfl
@[simp] theorem State.setTb_linkKeys (s : State) (v : TimeBase) : (s.setTb v).linkKeys = s.linkKeys := rfl
@[simp] theorem State.setTb_times (s : State) (v : TimeBase) : (s.setTb v).times = s.times := rfl
@[simp] theorem State.setTb_hpins (s : State) (v : TimeBase) : (s.setTb v).hpins = s.hpins := rfl
@[simp] theorem State.setTb_tb (s : State) (v : TimeBase) : (s.setTb v).tb = v := rfl
@[simp] theorem State.setTb_cfg (s : State) (v : TimeBase) : (s.setTb v).cfg = s.cfg := rfl
@[simp] theorem State.setTb_dram (s : State) (v : TimeBase) : (s.setTb v).dram = s.dram := rfl
@[simp] theorem State.setTb_flash (s : State) (v : TimeBase) : (s.setTb v).flash = s.flash := rfl
@[simp] theorem State.setTb_fregions (s : State) (v : TimeBase) : (s.setTb v).fregions = s.fregions := rfl
@[simp] theorem State.setTb_dma (s : State) (v : TimeBase) : (s.setTb v).dma = s.dma := rfl
@[simp] theorem State.setTb_dmaLast (s : State) (v : TimeBase) : (s.setTb v).dmaLast = s.dmaLast := rfl
@[simp] theorem State.setTb_gable (s : State) (v : TimeBase) : (s.setTb v).gable = s.gable := rfl
@[simp] theorem State.setTb_clk (s : State) (v : TimeBase) : (s.setTb v).clk = s.clk := rfl
@[simp] theorem State.setTb_log (s : State) (v : TimeBase) : (s.setTb v).log = s.log := rfl
@[simp] theorem State.setTb_evr (s : State) (v : TimeBase) : (s.setTb v).evr = s.evr := rfl
@[simp] theorem State.setTb_svc (s : State) (v : TimeBase) : (s.setTb v).svc = s.svc := rfl
@[simp] theorem State.setTb_lad (s : State) (v : TimeBase) : (s.setTb v).lad = s.lad := rfl
@[simp] theorem State.setTb_thermtrip (s : State) (v : TimeBase) : (s.setTb v).thermtrip = s.thermtrip := rfl
@[simp] theorem State.setTb_pornLow (s : State) (v : TimeBase) : (s.setTb v).pornLow = s.pornLow := rfl
@[simp] theorem State.setTb_supplyBad (s : State) (v : TimeBase) : (s.setTb v).supplyBad = s.supplyBad := rfl
@[simp] theorem State.setTb_supplyOkAt (s : State) (v : TimeBase) : (s.setTb v).supplyOkAt = s.supplyOkAt := rfl
@[simp] theorem State.setTb_pending (s : State) (v : TimeBase) : (s.setTb v).pending = s.pending := rfl
@[simp] theorem State.setCfg_now (s : State) (v : Cfg) : (s.setCfg v).now = s.now := rfl
@[simp] theorem State.setCfg_free (s : State) (v : Cfg) : (s.setCfg v).free = s.free := rfl
@[simp] theorem State.setCfg_rsp (s : State) (v : Cfg) : (s.setCfg v).rsp = s.rsp := rfl
@[simp] theorem State.setCfg_fuses (s : State) (v : Cfg) : (s.setCfg v).fuses = s.fuses := rfl
@[simp] theorem State.setCfg_ids (s : State) (v : Cfg) : (s.setCfg v).ids = s.ids := rfl
@[simp] theorem State.setCfg_acls (s : State) (v : Cfg) : (s.setCfg v).acls = s.acls := rfl
@[simp] theorem State.setCfg_dies (s : State) (v : Cfg) : (s.setCfg v).dies = s.dies := rfl
@[simp] theorem State.setCfg_routers (s : State) (v : Cfg) : (s.setCfg v).routers = s.routers := rfl
@[simp] theorem State.setCfg_masters (s : State) (v : Cfg) : (s.setCfg v).masters = s.masters := rfl
@[simp] theorem State.setCfg_flows (s : State) (v : Cfg) : (s.setCfg v).flows = s.flows := rfl
@[simp] theorem State.setCfg_lanesets (s : State) (v : Cfg) : (s.setCfg v).lanesets = s.lanesets := rfl
@[simp] theorem State.setCfg_links (s : State) (v : Cfg) : (s.setCfg v).links = s.links := rfl
@[simp] theorem State.setCfg_guests (s : State) (v : Cfg) : (s.setCfg v).guests = s.guests := rfl
@[simp] theorem State.setCfg_linkKeys (s : State) (v : Cfg) : (s.setCfg v).linkKeys = s.linkKeys := rfl
@[simp] theorem State.setCfg_times (s : State) (v : Cfg) : (s.setCfg v).times = s.times := rfl
@[simp] theorem State.setCfg_hpins (s : State) (v : Cfg) : (s.setCfg v).hpins = s.hpins := rfl
@[simp] theorem State.setCfg_tb (s : State) (v : Cfg) : (s.setCfg v).tb = s.tb := rfl
@[simp] theorem State.setCfg_cfg (s : State) (v : Cfg) : (s.setCfg v).cfg = v := rfl
@[simp] theorem State.setCfg_dram (s : State) (v : Cfg) : (s.setCfg v).dram = s.dram := rfl
@[simp] theorem State.setCfg_flash (s : State) (v : Cfg) : (s.setCfg v).flash = s.flash := rfl
@[simp] theorem State.setCfg_fregions (s : State) (v : Cfg) : (s.setCfg v).fregions = s.fregions := rfl
@[simp] theorem State.setCfg_dma (s : State) (v : Cfg) : (s.setCfg v).dma = s.dma := rfl
@[simp] theorem State.setCfg_dmaLast (s : State) (v : Cfg) : (s.setCfg v).dmaLast = s.dmaLast := rfl
@[simp] theorem State.setCfg_gable (s : State) (v : Cfg) : (s.setCfg v).gable = s.gable := rfl
@[simp] theorem State.setCfg_clk (s : State) (v : Cfg) : (s.setCfg v).clk = s.clk := rfl
@[simp] theorem State.setCfg_log (s : State) (v : Cfg) : (s.setCfg v).log = s.log := rfl
@[simp] theorem State.setCfg_evr (s : State) (v : Cfg) : (s.setCfg v).evr = s.evr := rfl
@[simp] theorem State.setCfg_svc (s : State) (v : Cfg) : (s.setCfg v).svc = s.svc := rfl
@[simp] theorem State.setCfg_lad (s : State) (v : Cfg) : (s.setCfg v).lad = s.lad := rfl
@[simp] theorem State.setCfg_thermtrip (s : State) (v : Cfg) : (s.setCfg v).thermtrip = s.thermtrip := rfl
@[simp] theorem State.setCfg_pornLow (s : State) (v : Cfg) : (s.setCfg v).pornLow = s.pornLow := rfl
@[simp] theorem State.setCfg_supplyBad (s : State) (v : Cfg) : (s.setCfg v).supplyBad = s.supplyBad := rfl
@[simp] theorem State.setCfg_supplyOkAt (s : State) (v : Cfg) : (s.setCfg v).supplyOkAt = s.supplyOkAt := rfl
@[simp] theorem State.setCfg_pending (s : State) (v : Cfg) : (s.setCfg v).pending = s.pending := rfl
@[simp] theorem State.setDram_now (s : State) (v : Dram) : (s.setDram v).now = s.now := rfl
@[simp] theorem State.setDram_free (s : State) (v : Dram) : (s.setDram v).free = s.free := rfl
@[simp] theorem State.setDram_rsp (s : State) (v : Dram) : (s.setDram v).rsp = s.rsp := rfl
@[simp] theorem State.setDram_fuses (s : State) (v : Dram) : (s.setDram v).fuses = s.fuses := rfl
@[simp] theorem State.setDram_ids (s : State) (v : Dram) : (s.setDram v).ids = s.ids := rfl
@[simp] theorem State.setDram_acls (s : State) (v : Dram) : (s.setDram v).acls = s.acls := rfl
@[simp] theorem State.setDram_dies (s : State) (v : Dram) : (s.setDram v).dies = s.dies := rfl
@[simp] theorem State.setDram_routers (s : State) (v : Dram) : (s.setDram v).routers = s.routers := rfl
@[simp] theorem State.setDram_masters (s : State) (v : Dram) : (s.setDram v).masters = s.masters := rfl
@[simp] theorem State.setDram_flows (s : State) (v : Dram) : (s.setDram v).flows = s.flows := rfl
@[simp] theorem State.setDram_lanesets (s : State) (v : Dram) : (s.setDram v).lanesets = s.lanesets := rfl
@[simp] theorem State.setDram_links (s : State) (v : Dram) : (s.setDram v).links = s.links := rfl
@[simp] theorem State.setDram_guests (s : State) (v : Dram) : (s.setDram v).guests = s.guests := rfl
@[simp] theorem State.setDram_linkKeys (s : State) (v : Dram) : (s.setDram v).linkKeys = s.linkKeys := rfl
@[simp] theorem State.setDram_times (s : State) (v : Dram) : (s.setDram v).times = s.times := rfl
@[simp] theorem State.setDram_hpins (s : State) (v : Dram) : (s.setDram v).hpins = s.hpins := rfl
@[simp] theorem State.setDram_tb (s : State) (v : Dram) : (s.setDram v).tb = s.tb := rfl
@[simp] theorem State.setDram_cfg (s : State) (v : Dram) : (s.setDram v).cfg = s.cfg := rfl
@[simp] theorem State.setDram_dram (s : State) (v : Dram) : (s.setDram v).dram = v := rfl
@[simp] theorem State.setDram_flash (s : State) (v : Dram) : (s.setDram v).flash = s.flash := rfl
@[simp] theorem State.setDram_fregions (s : State) (v : Dram) : (s.setDram v).fregions = s.fregions := rfl
@[simp] theorem State.setDram_dma (s : State) (v : Dram) : (s.setDram v).dma = s.dma := rfl
@[simp] theorem State.setDram_dmaLast (s : State) (v : Dram) : (s.setDram v).dmaLast = s.dmaLast := rfl
@[simp] theorem State.setDram_gable (s : State) (v : Dram) : (s.setDram v).gable = s.gable := rfl
@[simp] theorem State.setDram_clk (s : State) (v : Dram) : (s.setDram v).clk = s.clk := rfl
@[simp] theorem State.setDram_log (s : State) (v : Dram) : (s.setDram v).log = s.log := rfl
@[simp] theorem State.setDram_evr (s : State) (v : Dram) : (s.setDram v).evr = s.evr := rfl
@[simp] theorem State.setDram_svc (s : State) (v : Dram) : (s.setDram v).svc = s.svc := rfl
@[simp] theorem State.setDram_lad (s : State) (v : Dram) : (s.setDram v).lad = s.lad := rfl
@[simp] theorem State.setDram_thermtrip (s : State) (v : Dram) : (s.setDram v).thermtrip = s.thermtrip := rfl
@[simp] theorem State.setDram_pornLow (s : State) (v : Dram) : (s.setDram v).pornLow = s.pornLow := rfl
@[simp] theorem State.setDram_supplyBad (s : State) (v : Dram) : (s.setDram v).supplyBad = s.supplyBad := rfl
@[simp] theorem State.setDram_supplyOkAt (s : State) (v : Dram) : (s.setDram v).supplyOkAt = s.supplyOkAt := rfl
@[simp] theorem State.setDram_pending (s : State) (v : Dram) : (s.setDram v).pending = s.pending := rfl
@[simp] theorem State.setFlash_now (s : State) (v : Tab FlashUnit) : (s.setFlash v).now = s.now := rfl
@[simp] theorem State.setFlash_free (s : State) (v : Tab FlashUnit) : (s.setFlash v).free = s.free := rfl
@[simp] theorem State.setFlash_rsp (s : State) (v : Tab FlashUnit) : (s.setFlash v).rsp = s.rsp := rfl
@[simp] theorem State.setFlash_fuses (s : State) (v : Tab FlashUnit) : (s.setFlash v).fuses = s.fuses := rfl
@[simp] theorem State.setFlash_ids (s : State) (v : Tab FlashUnit) : (s.setFlash v).ids = s.ids := rfl
@[simp] theorem State.setFlash_acls (s : State) (v : Tab FlashUnit) : (s.setFlash v).acls = s.acls := rfl
@[simp] theorem State.setFlash_dies (s : State) (v : Tab FlashUnit) : (s.setFlash v).dies = s.dies := rfl
@[simp] theorem State.setFlash_routers (s : State) (v : Tab FlashUnit) : (s.setFlash v).routers = s.routers := rfl
@[simp] theorem State.setFlash_masters (s : State) (v : Tab FlashUnit) : (s.setFlash v).masters = s.masters := rfl
@[simp] theorem State.setFlash_flows (s : State) (v : Tab FlashUnit) : (s.setFlash v).flows = s.flows := rfl
@[simp] theorem State.setFlash_lanesets (s : State) (v : Tab FlashUnit) : (s.setFlash v).lanesets = s.lanesets := rfl
@[simp] theorem State.setFlash_links (s : State) (v : Tab FlashUnit) : (s.setFlash v).links = s.links := rfl
@[simp] theorem State.setFlash_guests (s : State) (v : Tab FlashUnit) : (s.setFlash v).guests = s.guests := rfl
@[simp] theorem State.setFlash_linkKeys (s : State) (v : Tab FlashUnit) : (s.setFlash v).linkKeys = s.linkKeys := rfl
@[simp] theorem State.setFlash_times (s : State) (v : Tab FlashUnit) : (s.setFlash v).times = s.times := rfl
@[simp] theorem State.setFlash_hpins (s : State) (v : Tab FlashUnit) : (s.setFlash v).hpins = s.hpins := rfl
@[simp] theorem State.setFlash_tb (s : State) (v : Tab FlashUnit) : (s.setFlash v).tb = s.tb := rfl
@[simp] theorem State.setFlash_cfg (s : State) (v : Tab FlashUnit) : (s.setFlash v).cfg = s.cfg := rfl
@[simp] theorem State.setFlash_dram (s : State) (v : Tab FlashUnit) : (s.setFlash v).dram = s.dram := rfl
@[simp] theorem State.setFlash_flash (s : State) (v : Tab FlashUnit) : (s.setFlash v).flash = v := rfl
@[simp] theorem State.setFlash_fregions (s : State) (v : Tab FlashUnit) : (s.setFlash v).fregions = s.fregions := rfl
@[simp] theorem State.setFlash_dma (s : State) (v : Tab FlashUnit) : (s.setFlash v).dma = s.dma := rfl
@[simp] theorem State.setFlash_dmaLast (s : State) (v : Tab FlashUnit) : (s.setFlash v).dmaLast = s.dmaLast := rfl
@[simp] theorem State.setFlash_gable (s : State) (v : Tab FlashUnit) : (s.setFlash v).gable = s.gable := rfl
@[simp] theorem State.setFlash_clk (s : State) (v : Tab FlashUnit) : (s.setFlash v).clk = s.clk := rfl
@[simp] theorem State.setFlash_log (s : State) (v : Tab FlashUnit) : (s.setFlash v).log = s.log := rfl
@[simp] theorem State.setFlash_evr (s : State) (v : Tab FlashUnit) : (s.setFlash v).evr = s.evr := rfl
@[simp] theorem State.setFlash_svc (s : State) (v : Tab FlashUnit) : (s.setFlash v).svc = s.svc := rfl
@[simp] theorem State.setFlash_lad (s : State) (v : Tab FlashUnit) : (s.setFlash v).lad = s.lad := rfl
@[simp] theorem State.setFlash_thermtrip (s : State) (v : Tab FlashUnit) : (s.setFlash v).thermtrip = s.thermtrip := rfl
@[simp] theorem State.setFlash_pornLow (s : State) (v : Tab FlashUnit) : (s.setFlash v).pornLow = s.pornLow := rfl
@[simp] theorem State.setFlash_supplyBad (s : State) (v : Tab FlashUnit) : (s.setFlash v).supplyBad = s.supplyBad := rfl
@[simp] theorem State.setFlash_supplyOkAt (s : State) (v : Tab FlashUnit) : (s.setFlash v).supplyOkAt = s.supplyOkAt := rfl
@[simp] theorem State.setFlash_pending (s : State) (v : Tab FlashUnit) : (s.setFlash v).pending = s.pending := rfl
@[simp] theorem State.setFregions_now (s : State) (v : Tab FlashRegion) : (s.setFregions v).now = s.now := rfl
@[simp] theorem State.setFregions_free (s : State) (v : Tab FlashRegion) : (s.setFregions v).free = s.free := rfl
@[simp] theorem State.setFregions_rsp (s : State) (v : Tab FlashRegion) : (s.setFregions v).rsp = s.rsp := rfl
@[simp] theorem State.setFregions_fuses (s : State) (v : Tab FlashRegion) : (s.setFregions v).fuses = s.fuses := rfl
@[simp] theorem State.setFregions_ids (s : State) (v : Tab FlashRegion) : (s.setFregions v).ids = s.ids := rfl
@[simp] theorem State.setFregions_acls (s : State) (v : Tab FlashRegion) : (s.setFregions v).acls = s.acls := rfl
@[simp] theorem State.setFregions_dies (s : State) (v : Tab FlashRegion) : (s.setFregions v).dies = s.dies := rfl
@[simp] theorem State.setFregions_routers (s : State) (v : Tab FlashRegion) : (s.setFregions v).routers = s.routers := rfl
@[simp] theorem State.setFregions_masters (s : State) (v : Tab FlashRegion) : (s.setFregions v).masters = s.masters := rfl
@[simp] theorem State.setFregions_flows (s : State) (v : Tab FlashRegion) : (s.setFregions v).flows = s.flows := rfl
@[simp] theorem State.setFregions_lanesets (s : State) (v : Tab FlashRegion) : (s.setFregions v).lanesets = s.lanesets := rfl
@[simp] theorem State.setFregions_links (s : State) (v : Tab FlashRegion) : (s.setFregions v).links = s.links := rfl
@[simp] theorem State.setFregions_guests (s : State) (v : Tab FlashRegion) : (s.setFregions v).guests = s.guests := rfl
@[simp] theorem State.setFregions_linkKeys (s : State) (v : Tab FlashRegion) : (s.setFregions v).linkKeys = s.linkKeys := rfl
@[simp] theorem State.setFregions_times (s : State) (v : Tab FlashRegion) : (s.setFregions v).times = s.times := rfl
@[simp] theorem State.setFregions_hpins (s : State) (v : Tab FlashRegion) : (s.setFregions v).hpins = s.hpins := rfl
@[simp] theorem State.setFregions_tb (s : State) (v : Tab FlashRegion) : (s.setFregions v).tb = s.tb := rfl
@[simp] theorem State.setFregions_cfg (s : State) (v : Tab FlashRegion) : (s.setFregions v).cfg = s.cfg := rfl
@[simp] theorem State.setFregions_dram (s : State) (v : Tab FlashRegion) : (s.setFregions v).dram = s.dram := rfl
@[simp] theorem State.setFregions_flash (s : State) (v : Tab FlashRegion) : (s.setFregions v).flash = s.flash := rfl
@[simp] theorem State.setFregions_fregions (s : State) (v : Tab FlashRegion) : (s.setFregions v).fregions = v := rfl
@[simp] theorem State.setFregions_dma (s : State) (v : Tab FlashRegion) : (s.setFregions v).dma = s.dma := rfl
@[simp] theorem State.setFregions_dmaLast (s : State) (v : Tab FlashRegion) : (s.setFregions v).dmaLast = s.dmaLast := rfl
@[simp] theorem State.setFregions_gable (s : State) (v : Tab FlashRegion) : (s.setFregions v).gable = s.gable := rfl
@[simp] theorem State.setFregions_clk (s : State) (v : Tab FlashRegion) : (s.setFregions v).clk = s.clk := rfl
@[simp] theorem State.setFregions_log (s : State) (v : Tab FlashRegion) : (s.setFregions v).log = s.log := rfl
@[simp] theorem State.setFregions_evr (s : State) (v : Tab FlashRegion) : (s.setFregions v).evr = s.evr := rfl
@[simp] theorem State.setFregions_svc (s : State) (v : Tab FlashRegion) : (s.setFregions v).svc = s.svc := rfl
@[simp] theorem State.setFregions_lad (s : State) (v : Tab FlashRegion) : (s.setFregions v).lad = s.lad := rfl
@[simp] theorem State.setFregions_thermtrip (s : State) (v : Tab FlashRegion) : (s.setFregions v).thermtrip = s.thermtrip := rfl
@[simp] theorem State.setFregions_pornLow (s : State) (v : Tab FlashRegion) : (s.setFregions v).pornLow = s.pornLow := rfl
@[simp] theorem State.setFregions_supplyBad (s : State) (v : Tab FlashRegion) : (s.setFregions v).supplyBad = s.supplyBad := rfl
@[simp] theorem State.setFregions_supplyOkAt (s : State) (v : Tab FlashRegion) : (s.setFregions v).supplyOkAt = s.supplyOkAt := rfl
@[simp] theorem State.setFregions_pending (s : State) (v : Tab FlashRegion) : (s.setFregions v).pending = s.pending := rfl
@[simp] theorem State.setDma_now (s : State) (v : Tab DmaCh) : (s.setDma v).now = s.now := rfl
@[simp] theorem State.setDma_free (s : State) (v : Tab DmaCh) : (s.setDma v).free = s.free := rfl
@[simp] theorem State.setDma_rsp (s : State) (v : Tab DmaCh) : (s.setDma v).rsp = s.rsp := rfl
@[simp] theorem State.setDma_fuses (s : State) (v : Tab DmaCh) : (s.setDma v).fuses = s.fuses := rfl
@[simp] theorem State.setDma_ids (s : State) (v : Tab DmaCh) : (s.setDma v).ids = s.ids := rfl
@[simp] theorem State.setDma_acls (s : State) (v : Tab DmaCh) : (s.setDma v).acls = s.acls := rfl
@[simp] theorem State.setDma_dies (s : State) (v : Tab DmaCh) : (s.setDma v).dies = s.dies := rfl
@[simp] theorem State.setDma_routers (s : State) (v : Tab DmaCh) : (s.setDma v).routers = s.routers := rfl
@[simp] theorem State.setDma_masters (s : State) (v : Tab DmaCh) : (s.setDma v).masters = s.masters := rfl
@[simp] theorem State.setDma_flows (s : State) (v : Tab DmaCh) : (s.setDma v).flows = s.flows := rfl
@[simp] theorem State.setDma_lanesets (s : State) (v : Tab DmaCh) : (s.setDma v).lanesets = s.lanesets := rfl
@[simp] theorem State.setDma_links (s : State) (v : Tab DmaCh) : (s.setDma v).links = s.links := rfl
@[simp] theorem State.setDma_guests (s : State) (v : Tab DmaCh) : (s.setDma v).guests = s.guests := rfl
@[simp] theorem State.setDma_linkKeys (s : State) (v : Tab DmaCh) : (s.setDma v).linkKeys = s.linkKeys := rfl
@[simp] theorem State.setDma_times (s : State) (v : Tab DmaCh) : (s.setDma v).times = s.times := rfl
@[simp] theorem State.setDma_hpins (s : State) (v : Tab DmaCh) : (s.setDma v).hpins = s.hpins := rfl
@[simp] theorem State.setDma_tb (s : State) (v : Tab DmaCh) : (s.setDma v).tb = s.tb := rfl
@[simp] theorem State.setDma_cfg (s : State) (v : Tab DmaCh) : (s.setDma v).cfg = s.cfg := rfl
@[simp] theorem State.setDma_dram (s : State) (v : Tab DmaCh) : (s.setDma v).dram = s.dram := rfl
@[simp] theorem State.setDma_flash (s : State) (v : Tab DmaCh) : (s.setDma v).flash = s.flash := rfl
@[simp] theorem State.setDma_fregions (s : State) (v : Tab DmaCh) : (s.setDma v).fregions = s.fregions := rfl
@[simp] theorem State.setDma_dma (s : State) (v : Tab DmaCh) : (s.setDma v).dma = v := rfl
@[simp] theorem State.setDma_dmaLast (s : State) (v : Tab DmaCh) : (s.setDma v).dmaLast = s.dmaLast := rfl
@[simp] theorem State.setDma_gable (s : State) (v : Tab DmaCh) : (s.setDma v).gable = s.gable := rfl
@[simp] theorem State.setDma_clk (s : State) (v : Tab DmaCh) : (s.setDma v).clk = s.clk := rfl
@[simp] theorem State.setDma_log (s : State) (v : Tab DmaCh) : (s.setDma v).log = s.log := rfl
@[simp] theorem State.setDma_evr (s : State) (v : Tab DmaCh) : (s.setDma v).evr = s.evr := rfl
@[simp] theorem State.setDma_svc (s : State) (v : Tab DmaCh) : (s.setDma v).svc = s.svc := rfl
@[simp] theorem State.setDma_lad (s : State) (v : Tab DmaCh) : (s.setDma v).lad = s.lad := rfl
@[simp] theorem State.setDma_thermtrip (s : State) (v : Tab DmaCh) : (s.setDma v).thermtrip = s.thermtrip := rfl
@[simp] theorem State.setDma_pornLow (s : State) (v : Tab DmaCh) : (s.setDma v).pornLow = s.pornLow := rfl
@[simp] theorem State.setDma_supplyBad (s : State) (v : Tab DmaCh) : (s.setDma v).supplyBad = s.supplyBad := rfl
@[simp] theorem State.setDma_supplyOkAt (s : State) (v : Tab DmaCh) : (s.setDma v).supplyOkAt = s.supplyOkAt := rfl
@[simp] theorem State.setDma_pending (s : State) (v : Tab DmaCh) : (s.setDma v).pending = s.pending := rfl
@[simp] theorem State.setDmaLast_now (s : State) (v : Tab Nat) : (s.setDmaLast v).now = s.now := rfl
@[simp] theorem State.setDmaLast_free (s : State) (v : Tab Nat) : (s.setDmaLast v).free = s.free := rfl
@[simp] theorem State.setDmaLast_rsp (s : State) (v : Tab Nat) : (s.setDmaLast v).rsp = s.rsp := rfl
@[simp] theorem State.setDmaLast_fuses (s : State) (v : Tab Nat) : (s.setDmaLast v).fuses = s.fuses := rfl
@[simp] theorem State.setDmaLast_ids (s : State) (v : Tab Nat) : (s.setDmaLast v).ids = s.ids := rfl
@[simp] theorem State.setDmaLast_acls (s : State) (v : Tab Nat) : (s.setDmaLast v).acls = s.acls := rfl
@[simp] theorem State.setDmaLast_dies (s : State) (v : Tab Nat) : (s.setDmaLast v).dies = s.dies := rfl
@[simp] theorem State.setDmaLast_routers (s : State) (v : Tab Nat) : (s.setDmaLast v).routers = s.routers := rfl
@[simp] theorem State.setDmaLast_masters (s : State) (v : Tab Nat) : (s.setDmaLast v).masters = s.masters := rfl
@[simp] theorem State.setDmaLast_flows (s : State) (v : Tab Nat) : (s.setDmaLast v).flows = s.flows := rfl
@[simp] theorem State.setDmaLast_lanesets (s : State) (v : Tab Nat) : (s.setDmaLast v).lanesets = s.lanesets := rfl
@[simp] theorem State.setDmaLast_links (s : State) (v : Tab Nat) : (s.setDmaLast v).links = s.links := rfl
@[simp] theorem State.setDmaLast_guests (s : State) (v : Tab Nat) : (s.setDmaLast v).guests = s.guests := rfl
@[simp] theorem State.setDmaLast_linkKeys (s : State) (v : Tab Nat) : (s.setDmaLast v).linkKeys = s.linkKeys := rfl
@[simp] theorem State.setDmaLast_times (s : State) (v : Tab Nat) : (s.setDmaLast v).times = s.times := rfl
@[simp] theorem State.setDmaLast_hpins (s : State) (v : Tab Nat) : (s.setDmaLast v).hpins = s.hpins := rfl
@[simp] theorem State.setDmaLast_tb (s : State) (v : Tab Nat) : (s.setDmaLast v).tb = s.tb := rfl
@[simp] theorem State.setDmaLast_cfg (s : State) (v : Tab Nat) : (s.setDmaLast v).cfg = s.cfg := rfl
@[simp] theorem State.setDmaLast_dram (s : State) (v : Tab Nat) : (s.setDmaLast v).dram = s.dram := rfl
@[simp] theorem State.setDmaLast_flash (s : State) (v : Tab Nat) : (s.setDmaLast v).flash = s.flash := rfl
@[simp] theorem State.setDmaLast_fregions (s : State) (v : Tab Nat) : (s.setDmaLast v).fregions = s.fregions := rfl
@[simp] theorem State.setDmaLast_dma (s : State) (v : Tab Nat) : (s.setDmaLast v).dma = s.dma := rfl
@[simp] theorem State.setDmaLast_dmaLast (s : State) (v : Tab Nat) : (s.setDmaLast v).dmaLast = v := rfl
@[simp] theorem State.setDmaLast_gable (s : State) (v : Tab Nat) : (s.setDmaLast v).gable = s.gable := rfl
@[simp] theorem State.setDmaLast_clk (s : State) (v : Tab Nat) : (s.setDmaLast v).clk = s.clk := rfl
@[simp] theorem State.setDmaLast_log (s : State) (v : Tab Nat) : (s.setDmaLast v).log = s.log := rfl
@[simp] theorem State.setDmaLast_evr (s : State) (v : Tab Nat) : (s.setDmaLast v).evr = s.evr := rfl
@[simp] theorem State.setDmaLast_svc (s : State) (v : Tab Nat) : (s.setDmaLast v).svc = s.svc := rfl
@[simp] theorem State.setDmaLast_lad (s : State) (v : Tab Nat) : (s.setDmaLast v).lad = s.lad := rfl
@[simp] theorem State.setDmaLast_thermtrip (s : State) (v : Tab Nat) : (s.setDmaLast v).thermtrip = s.thermtrip := rfl
@[simp] theorem State.setDmaLast_pornLow (s : State) (v : Tab Nat) : (s.setDmaLast v).pornLow = s.pornLow := rfl
@[simp] theorem State.setDmaLast_supplyBad (s : State) (v : Tab Nat) : (s.setDmaLast v).supplyBad = s.supplyBad := rfl
@[simp] theorem State.setDmaLast_supplyOkAt (s : State) (v : Tab Nat) : (s.setDmaLast v).supplyOkAt = s.supplyOkAt := rfl
@[simp] theorem State.setDmaLast_pending (s : State) (v : Tab Nat) : (s.setDmaLast v).pending = s.pending := rfl
@[simp] theorem State.setGable_now (s : State) (v : Gable) : (s.setGable v).now = s.now := rfl
@[simp] theorem State.setGable_free (s : State) (v : Gable) : (s.setGable v).free = s.free := rfl
@[simp] theorem State.setGable_rsp (s : State) (v : Gable) : (s.setGable v).rsp = s.rsp := rfl
@[simp] theorem State.setGable_fuses (s : State) (v : Gable) : (s.setGable v).fuses = s.fuses := rfl
@[simp] theorem State.setGable_ids (s : State) (v : Gable) : (s.setGable v).ids = s.ids := rfl
@[simp] theorem State.setGable_acls (s : State) (v : Gable) : (s.setGable v).acls = s.acls := rfl
@[simp] theorem State.setGable_dies (s : State) (v : Gable) : (s.setGable v).dies = s.dies := rfl
@[simp] theorem State.setGable_routers (s : State) (v : Gable) : (s.setGable v).routers = s.routers := rfl
@[simp] theorem State.setGable_masters (s : State) (v : Gable) : (s.setGable v).masters = s.masters := rfl
@[simp] theorem State.setGable_flows (s : State) (v : Gable) : (s.setGable v).flows = s.flows := rfl
@[simp] theorem State.setGable_lanesets (s : State) (v : Gable) : (s.setGable v).lanesets = s.lanesets := rfl
@[simp] theorem State.setGable_links (s : State) (v : Gable) : (s.setGable v).links = s.links := rfl
@[simp] theorem State.setGable_guests (s : State) (v : Gable) : (s.setGable v).guests = s.guests := rfl
@[simp] theorem State.setGable_linkKeys (s : State) (v : Gable) : (s.setGable v).linkKeys = s.linkKeys := rfl
@[simp] theorem State.setGable_times (s : State) (v : Gable) : (s.setGable v).times = s.times := rfl
@[simp] theorem State.setGable_hpins (s : State) (v : Gable) : (s.setGable v).hpins = s.hpins := rfl
@[simp] theorem State.setGable_tb (s : State) (v : Gable) : (s.setGable v).tb = s.tb := rfl
@[simp] theorem State.setGable_cfg (s : State) (v : Gable) : (s.setGable v).cfg = s.cfg := rfl
@[simp] theorem State.setGable_dram (s : State) (v : Gable) : (s.setGable v).dram = s.dram := rfl
@[simp] theorem State.setGable_flash (s : State) (v : Gable) : (s.setGable v).flash = s.flash := rfl
@[simp] theorem State.setGable_fregions (s : State) (v : Gable) : (s.setGable v).fregions = s.fregions := rfl
@[simp] theorem State.setGable_dma (s : State) (v : Gable) : (s.setGable v).dma = s.dma := rfl
@[simp] theorem State.setGable_dmaLast (s : State) (v : Gable) : (s.setGable v).dmaLast = s.dmaLast := rfl
@[simp] theorem State.setGable_gable (s : State) (v : Gable) : (s.setGable v).gable = v := rfl
@[simp] theorem State.setGable_clk (s : State) (v : Gable) : (s.setGable v).clk = s.clk := rfl
@[simp] theorem State.setGable_log (s : State) (v : Gable) : (s.setGable v).log = s.log := rfl
@[simp] theorem State.setGable_evr (s : State) (v : Gable) : (s.setGable v).evr = s.evr := rfl
@[simp] theorem State.setGable_svc (s : State) (v : Gable) : (s.setGable v).svc = s.svc := rfl
@[simp] theorem State.setGable_lad (s : State) (v : Gable) : (s.setGable v).lad = s.lad := rfl
@[simp] theorem State.setGable_thermtrip (s : State) (v : Gable) : (s.setGable v).thermtrip = s.thermtrip := rfl
@[simp] theorem State.setGable_pornLow (s : State) (v : Gable) : (s.setGable v).pornLow = s.pornLow := rfl
@[simp] theorem State.setGable_supplyBad (s : State) (v : Gable) : (s.setGable v).supplyBad = s.supplyBad := rfl
@[simp] theorem State.setGable_supplyOkAt (s : State) (v : Gable) : (s.setGable v).supplyOkAt = s.supplyOkAt := rfl
@[simp] theorem State.setGable_pending (s : State) (v : Gable) : (s.setGable v).pending = s.pending := rfl
@[simp] theorem State.setClk_now (s : State) (v : Clocks) : (s.setClk v).now = s.now := rfl
@[simp] theorem State.setClk_free (s : State) (v : Clocks) : (s.setClk v).free = s.free := rfl
@[simp] theorem State.setClk_rsp (s : State) (v : Clocks) : (s.setClk v).rsp = s.rsp := rfl
@[simp] theorem State.setClk_fuses (s : State) (v : Clocks) : (s.setClk v).fuses = s.fuses := rfl
@[simp] theorem State.setClk_ids (s : State) (v : Clocks) : (s.setClk v).ids = s.ids := rfl
@[simp] theorem State.setClk_acls (s : State) (v : Clocks) : (s.setClk v).acls = s.acls := rfl
@[simp] theorem State.setClk_dies (s : State) (v : Clocks) : (s.setClk v).dies = s.dies := rfl
@[simp] theorem State.setClk_routers (s : State) (v : Clocks) : (s.setClk v).routers = s.routers := rfl
@[simp] theorem State.setClk_masters (s : State) (v : Clocks) : (s.setClk v).masters = s.masters := rfl
@[simp] theorem State.setClk_flows (s : State) (v : Clocks) : (s.setClk v).flows = s.flows := rfl
@[simp] theorem State.setClk_lanesets (s : State) (v : Clocks) : (s.setClk v).lanesets = s.lanesets := rfl
@[simp] theorem State.setClk_links (s : State) (v : Clocks) : (s.setClk v).links = s.links := rfl
@[simp] theorem State.setClk_guests (s : State) (v : Clocks) : (s.setClk v).guests = s.guests := rfl
@[simp] theorem State.setClk_linkKeys (s : State) (v : Clocks) : (s.setClk v).linkKeys = s.linkKeys := rfl
@[simp] theorem State.setClk_times (s : State) (v : Clocks) : (s.setClk v).times = s.times := rfl
@[simp] theorem State.setClk_hpins (s : State) (v : Clocks) : (s.setClk v).hpins = s.hpins := rfl
@[simp] theorem State.setClk_tb (s : State) (v : Clocks) : (s.setClk v).tb = s.tb := rfl
@[simp] theorem State.setClk_cfg (s : State) (v : Clocks) : (s.setClk v).cfg = s.cfg := rfl
@[simp] theorem State.setClk_dram (s : State) (v : Clocks) : (s.setClk v).dram = s.dram := rfl
@[simp] theorem State.setClk_flash (s : State) (v : Clocks) : (s.setClk v).flash = s.flash := rfl
@[simp] theorem State.setClk_fregions (s : State) (v : Clocks) : (s.setClk v).fregions = s.fregions := rfl
@[simp] theorem State.setClk_dma (s : State) (v : Clocks) : (s.setClk v).dma = s.dma := rfl
@[simp] theorem State.setClk_dmaLast (s : State) (v : Clocks) : (s.setClk v).dmaLast = s.dmaLast := rfl
@[simp] theorem State.setClk_gable (s : State) (v : Clocks) : (s.setClk v).gable = s.gable := rfl
@[simp] theorem State.setClk_clk (s : State) (v : Clocks) : (s.setClk v).clk = v := rfl
@[simp] theorem State.setClk_log (s : State) (v : Clocks) : (s.setClk v).log = s.log := rfl
@[simp] theorem State.setClk_evr (s : State) (v : Clocks) : (s.setClk v).evr = s.evr := rfl
@[simp] theorem State.setClk_svc (s : State) (v : Clocks) : (s.setClk v).svc = s.svc := rfl
@[simp] theorem State.setClk_lad (s : State) (v : Clocks) : (s.setClk v).lad = s.lad := rfl
@[simp] theorem State.setClk_thermtrip (s : State) (v : Clocks) : (s.setClk v).thermtrip = s.thermtrip := rfl
@[simp] theorem State.setClk_pornLow (s : State) (v : Clocks) : (s.setClk v).pornLow = s.pornLow := rfl
@[simp] theorem State.setClk_supplyBad (s : State) (v : Clocks) : (s.setClk v).supplyBad = s.supplyBad := rfl
@[simp] theorem State.setClk_supplyOkAt (s : State) (v : Clocks) : (s.setClk v).supplyOkAt = s.supplyOkAt := rfl
@[simp] theorem State.setClk_pending (s : State) (v : Clocks) : (s.setClk v).pending = s.pending := rfl
@[simp] theorem State.setLog_now (s : State) (v : Log) : (s.setLog v).now = s.now := rfl
@[simp] theorem State.setLog_free (s : State) (v : Log) : (s.setLog v).free = s.free := rfl
@[simp] theorem State.setLog_rsp (s : State) (v : Log) : (s.setLog v).rsp = s.rsp := rfl
@[simp] theorem State.setLog_fuses (s : State) (v : Log) : (s.setLog v).fuses = s.fuses := rfl
@[simp] theorem State.setLog_ids (s : State) (v : Log) : (s.setLog v).ids = s.ids := rfl
@[simp] theorem State.setLog_acls (s : State) (v : Log) : (s.setLog v).acls = s.acls := rfl
@[simp] theorem State.setLog_dies (s : State) (v : Log) : (s.setLog v).dies = s.dies := rfl
@[simp] theorem State.setLog_routers (s : State) (v : Log) : (s.setLog v).routers = s.routers := rfl
@[simp] theorem State.setLog_masters (s : State) (v : Log) : (s.setLog v).masters = s.masters := rfl
@[simp] theorem State.setLog_flows (s : State) (v : Log) : (s.setLog v).flows = s.flows := rfl
@[simp] theorem State.setLog_lanesets (s : State) (v : Log) : (s.setLog v).lanesets = s.lanesets := rfl
@[simp] theorem State.setLog_links (s : State) (v : Log) : (s.setLog v).links = s.links := rfl
@[simp] theorem State.setLog_guests (s : State) (v : Log) : (s.setLog v).guests = s.guests := rfl
@[simp] theorem State.setLog_linkKeys (s : State) (v : Log) : (s.setLog v).linkKeys = s.linkKeys := rfl
@[simp] theorem State.setLog_times (s : State) (v : Log) : (s.setLog v).times = s.times := rfl
@[simp] theorem State.setLog_hpins (s : State) (v : Log) : (s.setLog v).hpins = s.hpins := rfl
@[simp] theorem State.setLog_tb (s : State) (v : Log) : (s.setLog v).tb = s.tb := rfl
@[simp] theorem State.setLog_cfg (s : State) (v : Log) : (s.setLog v).cfg = s.cfg := rfl
@[simp] theorem State.setLog_dram (s : State) (v : Log) : (s.setLog v).dram = s.dram := rfl
@[simp] theorem State.setLog_flash (s : State) (v : Log) : (s.setLog v).flash = s.flash := rfl
@[simp] theorem State.setLog_fregions (s : State) (v : Log) : (s.setLog v).fregions = s.fregions := rfl
@[simp] theorem State.setLog_dma (s : State) (v : Log) : (s.setLog v).dma = s.dma := rfl
@[simp] theorem State.setLog_dmaLast (s : State) (v : Log) : (s.setLog v).dmaLast = s.dmaLast := rfl
@[simp] theorem State.setLog_gable (s : State) (v : Log) : (s.setLog v).gable = s.gable := rfl
@[simp] theorem State.setLog_clk (s : State) (v : Log) : (s.setLog v).clk = s.clk := rfl
@[simp] theorem State.setLog_log (s : State) (v : Log) : (s.setLog v).log = v := rfl
@[simp] theorem State.setLog_evr (s : State) (v : Log) : (s.setLog v).evr = s.evr := rfl
@[simp] theorem State.setLog_svc (s : State) (v : Log) : (s.setLog v).svc = s.svc := rfl
@[simp] theorem State.setLog_lad (s : State) (v : Log) : (s.setLog v).lad = s.lad := rfl
@[simp] theorem State.setLog_thermtrip (s : State) (v : Log) : (s.setLog v).thermtrip = s.thermtrip := rfl
@[simp] theorem State.setLog_pornLow (s : State) (v : Log) : (s.setLog v).pornLow = s.pornLow := rfl
@[simp] theorem State.setLog_supplyBad (s : State) (v : Log) : (s.setLog v).supplyBad = s.supplyBad := rfl
@[simp] theorem State.setLog_supplyOkAt (s : State) (v : Log) : (s.setLog v).supplyOkAt = s.supplyOkAt := rfl
@[simp] theorem State.setLog_pending (s : State) (v : Log) : (s.setLog v).pending = s.pending := rfl
@[simp] theorem State.setEvr_now (s : State) (v : Evr) : (s.setEvr v).now = s.now := rfl
@[simp] theorem State.setEvr_free (s : State) (v : Evr) : (s.setEvr v).free = s.free := rfl
@[simp] theorem State.setEvr_rsp (s : State) (v : Evr) : (s.setEvr v).rsp = s.rsp := rfl
@[simp] theorem State.setEvr_fuses (s : State) (v : Evr) : (s.setEvr v).fuses = s.fuses := rfl
@[simp] theorem State.setEvr_ids (s : State) (v : Evr) : (s.setEvr v).ids = s.ids := rfl
@[simp] theorem State.setEvr_acls (s : State) (v : Evr) : (s.setEvr v).acls = s.acls := rfl
@[simp] theorem State.setEvr_dies (s : State) (v : Evr) : (s.setEvr v).dies = s.dies := rfl
@[simp] theorem State.setEvr_routers (s : State) (v : Evr) : (s.setEvr v).routers = s.routers := rfl
@[simp] theorem State.setEvr_masters (s : State) (v : Evr) : (s.setEvr v).masters = s.masters := rfl
@[simp] theorem State.setEvr_flows (s : State) (v : Evr) : (s.setEvr v).flows = s.flows := rfl
@[simp] theorem State.setEvr_lanesets (s : State) (v : Evr) : (s.setEvr v).lanesets = s.lanesets := rfl
@[simp] theorem State.setEvr_links (s : State) (v : Evr) : (s.setEvr v).links = s.links := rfl
@[simp] theorem State.setEvr_guests (s : State) (v : Evr) : (s.setEvr v).guests = s.guests := rfl
@[simp] theorem State.setEvr_linkKeys (s : State) (v : Evr) : (s.setEvr v).linkKeys = s.linkKeys := rfl
@[simp] theorem State.setEvr_times (s : State) (v : Evr) : (s.setEvr v).times = s.times := rfl
@[simp] theorem State.setEvr_hpins (s : State) (v : Evr) : (s.setEvr v).hpins = s.hpins := rfl
@[simp] theorem State.setEvr_tb (s : State) (v : Evr) : (s.setEvr v).tb = s.tb := rfl
@[simp] theorem State.setEvr_cfg (s : State) (v : Evr) : (s.setEvr v).cfg = s.cfg := rfl
@[simp] theorem State.setEvr_dram (s : State) (v : Evr) : (s.setEvr v).dram = s.dram := rfl
@[simp] theorem State.setEvr_flash (s : State) (v : Evr) : (s.setEvr v).flash = s.flash := rfl
@[simp] theorem State.setEvr_fregions (s : State) (v : Evr) : (s.setEvr v).fregions = s.fregions := rfl
@[simp] theorem State.setEvr_dma (s : State) (v : Evr) : (s.setEvr v).dma = s.dma := rfl
@[simp] theorem State.setEvr_dmaLast (s : State) (v : Evr) : (s.setEvr v).dmaLast = s.dmaLast := rfl
@[simp] theorem State.setEvr_gable (s : State) (v : Evr) : (s.setEvr v).gable = s.gable := rfl
@[simp] theorem State.setEvr_clk (s : State) (v : Evr) : (s.setEvr v).clk = s.clk := rfl
@[simp] theorem State.setEvr_log (s : State) (v : Evr) : (s.setEvr v).log = s.log := rfl
@[simp] theorem State.setEvr_evr (s : State) (v : Evr) : (s.setEvr v).evr = v := rfl
@[simp] theorem State.setEvr_svc (s : State) (v : Evr) : (s.setEvr v).svc = s.svc := rfl
@[simp] theorem State.setEvr_lad (s : State) (v : Evr) : (s.setEvr v).lad = s.lad := rfl
@[simp] theorem State.setEvr_thermtrip (s : State) (v : Evr) : (s.setEvr v).thermtrip = s.thermtrip := rfl
@[simp] theorem State.setEvr_pornLow (s : State) (v : Evr) : (s.setEvr v).pornLow = s.pornLow := rfl
@[simp] theorem State.setEvr_supplyBad (s : State) (v : Evr) : (s.setEvr v).supplyBad = s.supplyBad := rfl
@[simp] theorem State.setEvr_supplyOkAt (s : State) (v : Evr) : (s.setEvr v).supplyOkAt = s.supplyOkAt := rfl
@[simp] theorem State.setEvr_pending (s : State) (v : Evr) : (s.setEvr v).pending = s.pending := rfl
@[simp] theorem State.setSvc_now (s : State) (v : Svc) : (s.setSvc v).now = s.now := rfl
@[simp] theorem State.setSvc_free (s : State) (v : Svc) : (s.setSvc v).free = s.free := rfl
@[simp] theorem State.setSvc_rsp (s : State) (v : Svc) : (s.setSvc v).rsp = s.rsp := rfl
@[simp] theorem State.setSvc_fuses (s : State) (v : Svc) : (s.setSvc v).fuses = s.fuses := rfl
@[simp] theorem State.setSvc_ids (s : State) (v : Svc) : (s.setSvc v).ids = s.ids := rfl
@[simp] theorem State.setSvc_acls (s : State) (v : Svc) : (s.setSvc v).acls = s.acls := rfl
@[simp] theorem State.setSvc_dies (s : State) (v : Svc) : (s.setSvc v).dies = s.dies := rfl
@[simp] theorem State.setSvc_routers (s : State) (v : Svc) : (s.setSvc v).routers = s.routers := rfl
@[simp] theorem State.setSvc_masters (s : State) (v : Svc) : (s.setSvc v).masters = s.masters := rfl
@[simp] theorem State.setSvc_flows (s : State) (v : Svc) : (s.setSvc v).flows = s.flows := rfl
@[simp] theorem State.setSvc_lanesets (s : State) (v : Svc) : (s.setSvc v).lanesets = s.lanesets := rfl
@[simp] theorem State.setSvc_links (s : State) (v : Svc) : (s.setSvc v).links = s.links := rfl
@[simp] theorem State.setSvc_guests (s : State) (v : Svc) : (s.setSvc v).guests = s.guests := rfl
@[simp] theorem State.setSvc_linkKeys (s : State) (v : Svc) : (s.setSvc v).linkKeys = s.linkKeys := rfl
@[simp] theorem State.setSvc_times (s : State) (v : Svc) : (s.setSvc v).times = s.times := rfl
@[simp] theorem State.setSvc_hpins (s : State) (v : Svc) : (s.setSvc v).hpins = s.hpins := rfl
@[simp] theorem State.setSvc_tb (s : State) (v : Svc) : (s.setSvc v).tb = s.tb := rfl
@[simp] theorem State.setSvc_cfg (s : State) (v : Svc) : (s.setSvc v).cfg = s.cfg := rfl
@[simp] theorem State.setSvc_dram (s : State) (v : Svc) : (s.setSvc v).dram = s.dram := rfl
@[simp] theorem State.setSvc_flash (s : State) (v : Svc) : (s.setSvc v).flash = s.flash := rfl
@[simp] theorem State.setSvc_fregions (s : State) (v : Svc) : (s.setSvc v).fregions = s.fregions := rfl
@[simp] theorem State.setSvc_dma (s : State) (v : Svc) : (s.setSvc v).dma = s.dma := rfl
@[simp] theorem State.setSvc_dmaLast (s : State) (v : Svc) : (s.setSvc v).dmaLast = s.dmaLast := rfl
@[simp] theorem State.setSvc_gable (s : State) (v : Svc) : (s.setSvc v).gable = s.gable := rfl
@[simp] theorem State.setSvc_clk (s : State) (v : Svc) : (s.setSvc v).clk = s.clk := rfl
@[simp] theorem State.setSvc_log (s : State) (v : Svc) : (s.setSvc v).log = s.log := rfl
@[simp] theorem State.setSvc_evr (s : State) (v : Svc) : (s.setSvc v).evr = s.evr := rfl
@[simp] theorem State.setSvc_svc (s : State) (v : Svc) : (s.setSvc v).svc = v := rfl
@[simp] theorem State.setSvc_lad (s : State) (v : Svc) : (s.setSvc v).lad = s.lad := rfl
@[simp] theorem State.setSvc_thermtrip (s : State) (v : Svc) : (s.setSvc v).thermtrip = s.thermtrip := rfl
@[simp] theorem State.setSvc_pornLow (s : State) (v : Svc) : (s.setSvc v).pornLow = s.pornLow := rfl
@[simp] theorem State.setSvc_supplyBad (s : State) (v : Svc) : (s.setSvc v).supplyBad = s.supplyBad := rfl
@[simp] theorem State.setSvc_supplyOkAt (s : State) (v : Svc) : (s.setSvc v).supplyOkAt = s.supplyOkAt := rfl
@[simp] theorem State.setSvc_pending (s : State) (v : Svc) : (s.setSvc v).pending = s.pending := rfl
@[simp] theorem State.setLad_now (s : State) (v : Ladder) : (s.setLad v).now = s.now := rfl
@[simp] theorem State.setLad_free (s : State) (v : Ladder) : (s.setLad v).free = s.free := rfl
@[simp] theorem State.setLad_rsp (s : State) (v : Ladder) : (s.setLad v).rsp = s.rsp := rfl
@[simp] theorem State.setLad_fuses (s : State) (v : Ladder) : (s.setLad v).fuses = s.fuses := rfl
@[simp] theorem State.setLad_ids (s : State) (v : Ladder) : (s.setLad v).ids = s.ids := rfl
@[simp] theorem State.setLad_acls (s : State) (v : Ladder) : (s.setLad v).acls = s.acls := rfl
@[simp] theorem State.setLad_dies (s : State) (v : Ladder) : (s.setLad v).dies = s.dies := rfl
@[simp] theorem State.setLad_routers (s : State) (v : Ladder) : (s.setLad v).routers = s.routers := rfl
@[simp] theorem State.setLad_masters (s : State) (v : Ladder) : (s.setLad v).masters = s.masters := rfl
@[simp] theorem State.setLad_flows (s : State) (v : Ladder) : (s.setLad v).flows = s.flows := rfl
@[simp] theorem State.setLad_lanesets (s : State) (v : Ladder) : (s.setLad v).lanesets = s.lanesets := rfl
@[simp] theorem State.setLad_links (s : State) (v : Ladder) : (s.setLad v).links = s.links := rfl
@[simp] theorem State.setLad_guests (s : State) (v : Ladder) : (s.setLad v).guests = s.guests := rfl
@[simp] theorem State.setLad_linkKeys (s : State) (v : Ladder) : (s.setLad v).linkKeys = s.linkKeys := rfl
@[simp] theorem State.setLad_times (s : State) (v : Ladder) : (s.setLad v).times = s.times := rfl
@[simp] theorem State.setLad_hpins (s : State) (v : Ladder) : (s.setLad v).hpins = s.hpins := rfl
@[simp] theorem State.setLad_tb (s : State) (v : Ladder) : (s.setLad v).tb = s.tb := rfl
@[simp] theorem State.setLad_cfg (s : State) (v : Ladder) : (s.setLad v).cfg = s.cfg := rfl
@[simp] theorem State.setLad_dram (s : State) (v : Ladder) : (s.setLad v).dram = s.dram := rfl
@[simp] theorem State.setLad_flash (s : State) (v : Ladder) : (s.setLad v).flash = s.flash := rfl
@[simp] theorem State.setLad_fregions (s : State) (v : Ladder) : (s.setLad v).fregions = s.fregions := rfl
@[simp] theorem State.setLad_dma (s : State) (v : Ladder) : (s.setLad v).dma = s.dma := rfl
@[simp] theorem State.setLad_dmaLast (s : State) (v : Ladder) : (s.setLad v).dmaLast = s.dmaLast := rfl
@[simp] theorem State.setLad_gable (s : State) (v : Ladder) : (s.setLad v).gable = s.gable := rfl
@[simp] theorem State.setLad_clk (s : State) (v : Ladder) : (s.setLad v).clk = s.clk := rfl
@[simp] theorem State.setLad_log (s : State) (v : Ladder) : (s.setLad v).log = s.log := rfl
@[simp] theorem State.setLad_evr (s : State) (v : Ladder) : (s.setLad v).evr = s.evr := rfl
@[simp] theorem State.setLad_svc (s : State) (v : Ladder) : (s.setLad v).svc = s.svc := rfl
@[simp] theorem State.setLad_lad (s : State) (v : Ladder) : (s.setLad v).lad = v := rfl
@[simp] theorem State.setLad_thermtrip (s : State) (v : Ladder) : (s.setLad v).thermtrip = s.thermtrip := rfl
@[simp] theorem State.setLad_pornLow (s : State) (v : Ladder) : (s.setLad v).pornLow = s.pornLow := rfl
@[simp] theorem State.setLad_supplyBad (s : State) (v : Ladder) : (s.setLad v).supplyBad = s.supplyBad := rfl
@[simp] theorem State.setLad_supplyOkAt (s : State) (v : Ladder) : (s.setLad v).supplyOkAt = s.supplyOkAt := rfl
@[simp] theorem State.setLad_pending (s : State) (v : Ladder) : (s.setLad v).pending = s.pending := rfl
@[simp] theorem State.setThermtrip_now (s : State) (v : Bool) : (s.setThermtrip v).now = s.now := rfl
@[simp] theorem State.setThermtrip_free (s : State) (v : Bool) : (s.setThermtrip v).free = s.free := rfl
@[simp] theorem State.setThermtrip_rsp (s : State) (v : Bool) : (s.setThermtrip v).rsp = s.rsp := rfl
@[simp] theorem State.setThermtrip_fuses (s : State) (v : Bool) : (s.setThermtrip v).fuses = s.fuses := rfl
@[simp] theorem State.setThermtrip_ids (s : State) (v : Bool) : (s.setThermtrip v).ids = s.ids := rfl
@[simp] theorem State.setThermtrip_acls (s : State) (v : Bool) : (s.setThermtrip v).acls = s.acls := rfl
@[simp] theorem State.setThermtrip_dies (s : State) (v : Bool) : (s.setThermtrip v).dies = s.dies := rfl
@[simp] theorem State.setThermtrip_routers (s : State) (v : Bool) : (s.setThermtrip v).routers = s.routers := rfl
@[simp] theorem State.setThermtrip_masters (s : State) (v : Bool) : (s.setThermtrip v).masters = s.masters := rfl
@[simp] theorem State.setThermtrip_flows (s : State) (v : Bool) : (s.setThermtrip v).flows = s.flows := rfl
@[simp] theorem State.setThermtrip_lanesets (s : State) (v : Bool) : (s.setThermtrip v).lanesets = s.lanesets := rfl
@[simp] theorem State.setThermtrip_links (s : State) (v : Bool) : (s.setThermtrip v).links = s.links := rfl
@[simp] theorem State.setThermtrip_guests (s : State) (v : Bool) : (s.setThermtrip v).guests = s.guests := rfl
@[simp] theorem State.setThermtrip_linkKeys (s : State) (v : Bool) : (s.setThermtrip v).linkKeys = s.linkKeys := rfl
@[simp] theorem State.setThermtrip_times (s : State) (v : Bool) : (s.setThermtrip v).times = s.times := rfl
@[simp] theorem State.setThermtrip_hpins (s : State) (v : Bool) : (s.setThermtrip v).hpins = s.hpins := rfl
@[simp] theorem State.setThermtrip_tb (s : State) (v : Bool) : (s.setThermtrip v).tb = s.tb := rfl
@[simp] theorem State.setThermtrip_cfg (s : State) (v : Bool) : (s.setThermtrip v).cfg = s.cfg := rfl
@[simp] theorem State.setThermtrip_dram (s : State) (v : Bool) : (s.setThermtrip v).dram = s.dram := rfl
@[simp] theorem State.setThermtrip_flash (s : State) (v : Bool) : (s.setThermtrip v).flash = s.flash := rfl
@[simp] theorem State.setThermtrip_fregions (s : State) (v : Bool) : (s.setThermtrip v).fregions = s.fregions := rfl
@[simp] theorem State.setThermtrip_dma (s : State) (v : Bool) : (s.setThermtrip v).dma = s.dma := rfl
@[simp] theorem State.setThermtrip_dmaLast (s : State) (v : Bool) : (s.setThermtrip v).dmaLast = s.dmaLast := rfl
@[simp] theorem State.setThermtrip_gable (s : State) (v : Bool) : (s.setThermtrip v).gable = s.gable := rfl
@[simp] theorem State.setThermtrip_clk (s : State) (v : Bool) : (s.setThermtrip v).clk = s.clk := rfl
@[simp] theorem State.setThermtrip_log (s : State) (v : Bool) : (s.setThermtrip v).log = s.log := rfl
@[simp] theorem State.setThermtrip_evr (s : State) (v : Bool) : (s.setThermtrip v).evr = s.evr := rfl
@[simp] theorem State.setThermtrip_svc (s : State) (v : Bool) : (s.setThermtrip v).svc = s.svc := rfl
@[simp] theorem State.setThermtrip_lad (s : State) (v : Bool) : (s.setThermtrip v).lad = s.lad := rfl
@[simp] theorem State.setThermtrip_thermtrip (s : State) (v : Bool) : (s.setThermtrip v).thermtrip = v := rfl
@[simp] theorem State.setThermtrip_pornLow (s : State) (v : Bool) : (s.setThermtrip v).pornLow = s.pornLow := rfl
@[simp] theorem State.setThermtrip_supplyBad (s : State) (v : Bool) : (s.setThermtrip v).supplyBad = s.supplyBad := rfl
@[simp] theorem State.setThermtrip_supplyOkAt (s : State) (v : Bool) : (s.setThermtrip v).supplyOkAt = s.supplyOkAt := rfl
@[simp] theorem State.setThermtrip_pending (s : State) (v : Bool) : (s.setThermtrip v).pending = s.pending := rfl
@[simp] theorem State.setPornLow_now (s : State) (v : Bool) : (s.setPornLow v).now = s.now := rfl
@[simp] theorem State.setPornLow_free (s : State) (v : Bool) : (s.setPornLow v).free = s.free := rfl
@[simp] theorem State.setPornLow_rsp (s : State) (v : Bool) : (s.setPornLow v).rsp = s.rsp := rfl
@[simp] theorem State.setPornLow_fuses (s : State) (v : Bool) : (s.setPornLow v).fuses = s.fuses := rfl
@[simp] theorem State.setPornLow_ids (s : State) (v : Bool) : (s.setPornLow v).ids = s.ids := rfl
@[simp] theorem State.setPornLow_acls (s : State) (v : Bool) : (s.setPornLow v).acls = s.acls := rfl
@[simp] theorem State.setPornLow_dies (s : State) (v : Bool) : (s.setPornLow v).dies = s.dies := rfl
@[simp] theorem State.setPornLow_routers (s : State) (v : Bool) : (s.setPornLow v).routers = s.routers := rfl
@[simp] theorem State.setPornLow_masters (s : State) (v : Bool) : (s.setPornLow v).masters = s.masters := rfl
@[simp] theorem State.setPornLow_flows (s : State) (v : Bool) : (s.setPornLow v).flows = s.flows := rfl
@[simp] theorem State.setPornLow_lanesets (s : State) (v : Bool) : (s.setPornLow v).lanesets = s.lanesets := rfl
@[simp] theorem State.setPornLow_links (s : State) (v : Bool) : (s.setPornLow v).links = s.links := rfl
@[simp] theorem State.setPornLow_guests (s : State) (v : Bool) : (s.setPornLow v).guests = s.guests := rfl
@[simp] theorem State.setPornLow_linkKeys (s : State) (v : Bool) : (s.setPornLow v).linkKeys = s.linkKeys := rfl
@[simp] theorem State.setPornLow_times (s : State) (v : Bool) : (s.setPornLow v).times = s.times := rfl
@[simp] theorem State.setPornLow_hpins (s : State) (v : Bool) : (s.setPornLow v).hpins = s.hpins := rfl
@[simp] theorem State.setPornLow_tb (s : State) (v : Bool) : (s.setPornLow v).tb = s.tb := rfl
@[simp] theorem State.setPornLow_cfg (s : State) (v : Bool) : (s.setPornLow v).cfg = s.cfg := rfl
@[simp] theorem State.setPornLow_dram (s : State) (v : Bool) : (s.setPornLow v).dram = s.dram := rfl
@[simp] theorem State.setPornLow_flash (s : State) (v : Bool) : (s.setPornLow v).flash = s.flash := rfl
@[simp] theorem State.setPornLow_fregions (s : State) (v : Bool) : (s.setPornLow v).fregions = s.fregions := rfl
@[simp] theorem State.setPornLow_dma (s : State) (v : Bool) : (s.setPornLow v).dma = s.dma := rfl
@[simp] theorem State.setPornLow_dmaLast (s : State) (v : Bool) : (s.setPornLow v).dmaLast = s.dmaLast := rfl
@[simp] theorem State.setPornLow_gable (s : State) (v : Bool) : (s.setPornLow v).gable = s.gable := rfl
@[simp] theorem State.setPornLow_clk (s : State) (v : Bool) : (s.setPornLow v).clk = s.clk := rfl
@[simp] theorem State.setPornLow_log (s : State) (v : Bool) : (s.setPornLow v).log = s.log := rfl
@[simp] theorem State.setPornLow_evr (s : State) (v : Bool) : (s.setPornLow v).evr = s.evr := rfl
@[simp] theorem State.setPornLow_svc (s : State) (v : Bool) : (s.setPornLow v).svc = s.svc := rfl
@[simp] theorem State.setPornLow_lad (s : State) (v : Bool) : (s.setPornLow v).lad = s.lad := rfl
@[simp] theorem State.setPornLow_thermtrip (s : State) (v : Bool) : (s.setPornLow v).thermtrip = s.thermtrip := rfl
@[simp] theorem State.setPornLow_pornLow (s : State) (v : Bool) : (s.setPornLow v).pornLow = v := rfl
@[simp] theorem State.setPornLow_supplyBad (s : State) (v : Bool) : (s.setPornLow v).supplyBad = s.supplyBad := rfl
@[simp] theorem State.setPornLow_supplyOkAt (s : State) (v : Bool) : (s.setPornLow v).supplyOkAt = s.supplyOkAt := rfl
@[simp] theorem State.setPornLow_pending (s : State) (v : Bool) : (s.setPornLow v).pending = s.pending := rfl
@[simp] theorem State.setSupplyBad_now (s : State) (v : Bool) : (s.setSupplyBad v).now = s.now := rfl
@[simp] theorem State.setSupplyBad_free (s : State) (v : Bool) : (s.setSupplyBad v).free = s.free := rfl
@[simp] theorem State.setSupplyBad_rsp (s : State) (v : Bool) : (s.setSupplyBad v).rsp = s.rsp := rfl
@[simp] theorem State.setSupplyBad_fuses (s : State) (v : Bool) : (s.setSupplyBad v).fuses = s.fuses := rfl
@[simp] theorem State.setSupplyBad_ids (s : State) (v : Bool) : (s.setSupplyBad v).ids = s.ids := rfl
@[simp] theorem State.setSupplyBad_acls (s : State) (v : Bool) : (s.setSupplyBad v).acls = s.acls := rfl
@[simp] theorem State.setSupplyBad_dies (s : State) (v : Bool) : (s.setSupplyBad v).dies = s.dies := rfl
@[simp] theorem State.setSupplyBad_routers (s : State) (v : Bool) : (s.setSupplyBad v).routers = s.routers := rfl
@[simp] theorem State.setSupplyBad_masters (s : State) (v : Bool) : (s.setSupplyBad v).masters = s.masters := rfl
@[simp] theorem State.setSupplyBad_flows (s : State) (v : Bool) : (s.setSupplyBad v).flows = s.flows := rfl
@[simp] theorem State.setSupplyBad_lanesets (s : State) (v : Bool) : (s.setSupplyBad v).lanesets = s.lanesets := rfl
@[simp] theorem State.setSupplyBad_links (s : State) (v : Bool) : (s.setSupplyBad v).links = s.links := rfl
@[simp] theorem State.setSupplyBad_guests (s : State) (v : Bool) : (s.setSupplyBad v).guests = s.guests := rfl
@[simp] theorem State.setSupplyBad_linkKeys (s : State) (v : Bool) : (s.setSupplyBad v).linkKeys = s.linkKeys := rfl
@[simp] theorem State.setSupplyBad_times (s : State) (v : Bool) : (s.setSupplyBad v).times = s.times := rfl
@[simp] theorem State.setSupplyBad_hpins (s : State) (v : Bool) : (s.setSupplyBad v).hpins = s.hpins := rfl
@[simp] theorem State.setSupplyBad_tb (s : State) (v : Bool) : (s.setSupplyBad v).tb = s.tb := rfl
@[simp] theorem State.setSupplyBad_cfg (s : State) (v : Bool) : (s.setSupplyBad v).cfg = s.cfg := rfl
@[simp] theorem State.setSupplyBad_dram (s : State) (v : Bool) : (s.setSupplyBad v).dram = s.dram := rfl
@[simp] theorem State.setSupplyBad_flash (s : State) (v : Bool) : (s.setSupplyBad v).flash = s.flash := rfl
@[simp] theorem State.setSupplyBad_fregions (s : State) (v : Bool) : (s.setSupplyBad v).fregions = s.fregions := rfl
@[simp] theorem State.setSupplyBad_dma (s : State) (v : Bool) : (s.setSupplyBad v).dma = s.dma := rfl
@[simp] theorem State.setSupplyBad_dmaLast (s : State) (v : Bool) : (s.setSupplyBad v).dmaLast = s.dmaLast := rfl
@[simp] theorem State.setSupplyBad_gable (s : State) (v : Bool) : (s.setSupplyBad v).gable = s.gable := rfl
@[simp] theorem State.setSupplyBad_clk (s : State) (v : Bool) : (s.setSupplyBad v).clk = s.clk := rfl
@[simp] theorem State.setSupplyBad_log (s : State) (v : Bool) : (s.setSupplyBad v).log = s.log := rfl
@[simp] theorem State.setSupplyBad_evr (s : State) (v : Bool) : (s.setSupplyBad v).evr = s.evr := rfl
@[simp] theorem State.setSupplyBad_svc (s : State) (v : Bool) : (s.setSupplyBad v).svc = s.svc := rfl
@[simp] theorem State.setSupplyBad_lad (s : State) (v : Bool) : (s.setSupplyBad v).lad = s.lad := rfl
@[simp] theorem State.setSupplyBad_thermtrip (s : State) (v : Bool) : (s.setSupplyBad v).thermtrip = s.thermtrip := rfl
@[simp] theorem State.setSupplyBad_pornLow (s : State) (v : Bool) : (s.setSupplyBad v).pornLow = s.pornLow := rfl
@[simp] theorem State.setSupplyBad_supplyBad (s : State) (v : Bool) : (s.setSupplyBad v).supplyBad = v := rfl
@[simp] theorem State.setSupplyBad_supplyOkAt (s : State) (v : Bool) : (s.setSupplyBad v).supplyOkAt = s.supplyOkAt := rfl
@[simp] theorem State.setSupplyBad_pending (s : State) (v : Bool) : (s.setSupplyBad v).pending = s.pending := rfl
@[simp] theorem State.setSupplyOkAt_now (s : State) (v : Option Nat) : (s.setSupplyOkAt v).now = s.now := rfl
@[simp] theorem State.setSupplyOkAt_free (s : State) (v : Option Nat) : (s.setSupplyOkAt v).free = s.free := rfl
@[simp] theorem State.setSupplyOkAt_rsp (s : State) (v : Option Nat) : (s.setSupplyOkAt v).rsp = s.rsp := rfl
@[simp] theorem State.setSupplyOkAt_fuses (s : State) (v : Option Nat) : (s.setSupplyOkAt v).fuses = s.fuses := rfl
@[simp] theorem State.setSupplyOkAt_ids (s : State) (v : Option Nat) : (s.setSupplyOkAt v).ids = s.ids := rfl
@[simp] theorem State.setSupplyOkAt_acls (s : State) (v : Option Nat) : (s.setSupplyOkAt v).acls = s.acls := rfl
@[simp] theorem State.setSupplyOkAt_dies (s : State) (v : Option Nat) : (s.setSupplyOkAt v).dies = s.dies := rfl
@[simp] theorem State.setSupplyOkAt_routers (s : State) (v : Option Nat) : (s.setSupplyOkAt v).routers = s.routers := rfl
@[simp] theorem State.setSupplyOkAt_masters (s : State) (v : Option Nat) : (s.setSupplyOkAt v).masters = s.masters := rfl
@[simp] theorem State.setSupplyOkAt_flows (s : State) (v : Option Nat) : (s.setSupplyOkAt v).flows = s.flows := rfl
@[simp] theorem State.setSupplyOkAt_lanesets (s : State) (v : Option Nat) : (s.setSupplyOkAt v).lanesets = s.lanesets := rfl
@[simp] theorem State.setSupplyOkAt_links (s : State) (v : Option Nat) : (s.setSupplyOkAt v).links = s.links := rfl
@[simp] theorem State.setSupplyOkAt_guests (s : State) (v : Option Nat) : (s.setSupplyOkAt v).guests = s.guests := rfl
@[simp] theorem State.setSupplyOkAt_linkKeys (s : State) (v : Option Nat) : (s.setSupplyOkAt v).linkKeys = s.linkKeys := rfl
@[simp] theorem State.setSupplyOkAt_times (s : State) (v : Option Nat) : (s.setSupplyOkAt v).times = s.times := rfl
@[simp] theorem State.setSupplyOkAt_hpins (s : State) (v : Option Nat) : (s.setSupplyOkAt v).hpins = s.hpins := rfl
@[simp] theorem State.setSupplyOkAt_tb (s : State) (v : Option Nat) : (s.setSupplyOkAt v).tb = s.tb := rfl
@[simp] theorem State.setSupplyOkAt_cfg (s : State) (v : Option Nat) : (s.setSupplyOkAt v).cfg = s.cfg := rfl
@[simp] theorem State.setSupplyOkAt_dram (s : State) (v : Option Nat) : (s.setSupplyOkAt v).dram = s.dram := rfl
@[simp] theorem State.setSupplyOkAt_flash (s : State) (v : Option Nat) : (s.setSupplyOkAt v).flash = s.flash := rfl
@[simp] theorem State.setSupplyOkAt_fregions (s : State) (v : Option Nat) : (s.setSupplyOkAt v).fregions = s.fregions := rfl
@[simp] theorem State.setSupplyOkAt_dma (s : State) (v : Option Nat) : (s.setSupplyOkAt v).dma = s.dma := rfl
@[simp] theorem State.setSupplyOkAt_dmaLast (s : State) (v : Option Nat) : (s.setSupplyOkAt v).dmaLast = s.dmaLast := rfl
@[simp] theorem State.setSupplyOkAt_gable (s : State) (v : Option Nat) : (s.setSupplyOkAt v).gable = s.gable := rfl
@[simp] theorem State.setSupplyOkAt_clk (s : State) (v : Option Nat) : (s.setSupplyOkAt v).clk = s.clk := rfl
@[simp] theorem State.setSupplyOkAt_log (s : State) (v : Option Nat) : (s.setSupplyOkAt v).log = s.log := rfl
@[simp] theorem State.setSupplyOkAt_evr (s : State) (v : Option Nat) : (s.setSupplyOkAt v).evr = s.evr := rfl
@[simp] theorem State.setSupplyOkAt_svc (s : State) (v : Option Nat) : (s.setSupplyOkAt v).svc = s.svc := rfl
@[simp] theorem State.setSupplyOkAt_lad (s : State) (v : Option Nat) : (s.setSupplyOkAt v).lad = s.lad := rfl
@[simp] theorem State.setSupplyOkAt_thermtrip (s : State) (v : Option Nat) : (s.setSupplyOkAt v).thermtrip = s.thermtrip := rfl
@[simp] theorem State.setSupplyOkAt_pornLow (s : State) (v : Option Nat) : (s.setSupplyOkAt v).pornLow = s.pornLow := rfl
@[simp] theorem State.setSupplyOkAt_supplyBad (s : State) (v : Option Nat) : (s.setSupplyOkAt v).supplyBad = s.supplyBad := rfl
@[simp] theorem State.setSupplyOkAt_supplyOkAt (s : State) (v : Option Nat) : (s.setSupplyOkAt v).supplyOkAt = v := rfl
@[simp] theorem State.setSupplyOkAt_pending (s : State) (v : Option Nat) : (s.setSupplyOkAt v).pending = s.pending := rfl
@[simp] theorem State.setPending_now (s : State) (v : List Instr) : (s.setPending v).now = s.now := rfl
@[simp] theorem State.setPending_free (s : State) (v : List Instr) : (s.setPending v).free = s.free := rfl
@[simp] theorem State.setPending_rsp (s : State) (v : List Instr) : (s.setPending v).rsp = s.rsp := rfl
@[simp] theorem State.setPending_fuses (s : State) (v : List Instr) : (s.setPending v).fuses = s.fuses := rfl
@[simp] theorem State.setPending_ids (s : State) (v : List Instr) : (s.setPending v).ids = s.ids := rfl
@[simp] theorem State.setPending_acls (s : State) (v : List Instr) : (s.setPending v).acls = s.acls := rfl
@[simp] theorem State.setPending_dies (s : State) (v : List Instr) : (s.setPending v).dies = s.dies := rfl
@[simp] theorem State.setPending_routers (s : State) (v : List Instr) : (s.setPending v).routers = s.routers := rfl
@[simp] theorem State.setPending_masters (s : State) (v : List Instr) : (s.setPending v).masters = s.masters := rfl
@[simp] theorem State.setPending_flows (s : State) (v : List Instr) : (s.setPending v).flows = s.flows := rfl
@[simp] theorem State.setPending_lanesets (s : State) (v : List Instr) : (s.setPending v).lanesets = s.lanesets := rfl
@[simp] theorem State.setPending_links (s : State) (v : List Instr) : (s.setPending v).links = s.links := rfl
@[simp] theorem State.setPending_guests (s : State) (v : List Instr) : (s.setPending v).guests = s.guests := rfl
@[simp] theorem State.setPending_linkKeys (s : State) (v : List Instr) : (s.setPending v).linkKeys = s.linkKeys := rfl
@[simp] theorem State.setPending_times (s : State) (v : List Instr) : (s.setPending v).times = s.times := rfl
@[simp] theorem State.setPending_hpins (s : State) (v : List Instr) : (s.setPending v).hpins = s.hpins := rfl
@[simp] theorem State.setPending_tb (s : State) (v : List Instr) : (s.setPending v).tb = s.tb := rfl
@[simp] theorem State.setPending_cfg (s : State) (v : List Instr) : (s.setPending v).cfg = s.cfg := rfl
@[simp] theorem State.setPending_dram (s : State) (v : List Instr) : (s.setPending v).dram = s.dram := rfl
@[simp] theorem State.setPending_flash (s : State) (v : List Instr) : (s.setPending v).flash = s.flash := rfl
@[simp] theorem State.setPending_fregions (s : State) (v : List Instr) : (s.setPending v).fregions = s.fregions := rfl
@[simp] theorem State.setPending_dma (s : State) (v : List Instr) : (s.setPending v).dma = s.dma := rfl
@[simp] theorem State.setPending_dmaLast (s : State) (v : List Instr) : (s.setPending v).dmaLast = s.dmaLast := rfl
@[simp] theorem State.setPending_gable (s : State) (v : List Instr) : (s.setPending v).gable = s.gable := rfl
@[simp] theorem State.setPending_clk (s : State) (v : List Instr) : (s.setPending v).clk = s.clk := rfl
@[simp] theorem State.setPending_log (s : State) (v : List Instr) : (s.setPending v).log = s.log := rfl
@[simp] theorem State.setPending_evr (s : State) (v : List Instr) : (s.setPending v).evr = s.evr := rfl
@[simp] theorem State.setPending_svc (s : State) (v : List Instr) : (s.setPending v).svc = s.svc := rfl
@[simp] theorem State.setPending_lad (s : State) (v : List Instr) : (s.setPending v).lad = s.lad := rfl
@[simp] theorem State.setPending_thermtrip (s : State) (v : List Instr) : (s.setPending v).thermtrip = s.thermtrip := rfl
@[simp] theorem State.setPending_pornLow (s : State) (v : List Instr) : (s.setPending v).pornLow = s.pornLow := rfl
@[simp] theorem State.setPending_supplyBad (s : State) (v : List Instr) : (s.setPending v).supplyBad = s.supplyBad := rfl
@[simp] theorem State.setPending_supplyOkAt (s : State) (v : List Instr) : (s.setPending v).supplyOkAt = s.supplyOkAt := rfl
@[simp] theorem State.setPending_pending (s : State) (v : List Instr) : (s.setPending v).pending = v := rfl

end Sys2Proof.Machine
end

