-- ==== Sys2Proof/Laws/Tables.lean ====
section
/-! SUPPORT. Tables: a read after a write gives the value written, a write leaves every other key alone, and every table operation keeps the
canonical form. -/

namespace Sys2Proof.Machine

theorem tget_cons {V : Type} (d : V) (k : Nat) (v : V) (t : Tab V) (i : Nat) :
    tget d ((k, v) :: t) i = if k = i then v else tget d t i := rfl

theorem tget_tdel {V : Type} (d : V) (t : Tab V) (i j : Nat) :
    tget d (tdel t i) j = if j = i then d else tget d t j := by
  induction t with
  | nil => simp [tdel, tget]
  | cons e t ih =>
    obtain ⟨k, v⟩ := e
    unfold tdel at ih ⊢
    by_cases hk : k = i
    · simp only [List.filter_cons, hk, bne_self_eq_false, Bool.false_eq_true, if_false, ih, tget_cons]
      split <;> simp_all
      intro h; omega
    · have : (k != i) = true := by simpa using hk
      simp only [List.filter_cons, this, if_true, tget_cons, ih]
      split <;> simp_all

theorem tget_tins {V : Type} (d : V) (t : Tab V) (i j : Nat) (v : V) :
    tget d (tins t i v) j = if j = i then v else tget d t j := by
  induction t with
  | nil =>
    by_cases h : j = i
    · subst h; simp [tins, tget_cons]
    · have h' : ¬ i = j := fun e => h e.symm
      simp [tins, tget_cons, tget, h, h']
  | cons e t ih =>
    obtain ⟨k, w⟩ := e
    unfold tins
    by_cases hj : j = i
    · subst hj
      split
      · simp [tget_cons]
      · split
        · simp [tget_cons]
        · rename_i h; simp [tget_cons, ih, Ne.symm h]
    · have hj' : ¬ i = j := fun h => hj h.symm
      split
      · simp_all [tget_cons]
      · split
        · rename_i h; subst h; simp_all [tget_cons]
        · simp [tget_cons, ih, hj]

/-- A read after a write. -/
theorem tget_tput {V : Type} [DecidableEq V] (d : V) (t : Tab V) (i j : Nat) (v : V) :
    tget d (tput d t i v) j = if j = i then v else tget d t j := by
  unfold tput
  split
  · rename_i h; rw [tget_tdel, h]
  · exact tget_tins d t i j v

theorem tget_tmod {V : Type} [DecidableEq V] (d : V) (t : Tab V) (i j : Nat) (f : V → V) :
    tget d (tmod d t i f) j = if j = i then f (tget d t i) else tget d t j := tget_tput ..

@[simp] theorem tget_tput_same {V : Type} [DecidableEq V] (d : V) (t : Tab V) (i : Nat) (v : V) : tget d (tput d t i v) i = v := by
  simp [tget_tput]
@[simp] theorem tget_tmod_same {V : Type} [DecidableEq V] (d : V) (t : Tab V) (i : Nat) (f : V → V) :
    tget d (tmod d t i f) i = f (tget d t i) := by simp [tget_tmod]
theorem tget_tput_other {V : Type} [DecidableEq V] (d : V) (t : Tab V) {i j : Nat} (v : V) (h : j ≠ i) :
    tget d (tput d t i v) j = tget d t j := by simp [tget_tput, h]
theorem tget_tmod_other {V : Type} [DecidableEq V] (d : V) (t : Tab V) {i j : Nat} (f : V → V) (h : j ≠ i) :
    tget d (tmod d t i f) j = tget d t j := by simp [tget_tmod, h]

/-! ### The canonical form -/

/-- Keys strictly rising above a bound, no entry equal to the default. -/
def tabFrom {V : Type} (d : V) (b : Nat) : Tab V → Prop
  | [] => True
  | (k, v) :: t => b ≤ k ∧ v ≠ d ∧ tabFrom d (k + 1) t

theorem tabWf_cons {V : Type} [DecidableEq V] (d : V) (k : Nat) (v : V) (t : Tab V) :
    tabWf d ((k, v) :: t) = true ↔ v ≠ d ∧ tabFrom d (k + 1) t := by
  induction t generalizing k v with
  | nil => simp [tabWf, tabFrom]
  | cons e t ih =>
    obtain ⟨k', v'⟩ := e
    simp only [tabWf, Bool.and_eq_true, decide_eq_true_eq, ih, tabFrom]
    constructor
    · rintro ⟨⟨h1, h2⟩, h3, h4⟩; exact ⟨h1, h2, h3, h4⟩
    · rintro ⟨h1, h2, h3, h4⟩; exact ⟨⟨h1, h2⟩, h3, h4⟩

theorem tabWf_iff {V : Type} [DecidableEq V] (d : V) (t : Tab V) : tabWf d t = true ↔ tabFrom d 0 t := by
  cases t with
  | nil => simp [tabWf, tabFrom]
  | cons e t => obtain ⟨k, v⟩ := e; rw [tabWf_cons]; simp [tabFrom]

theorem tabFrom_mono {V : Type} (d : V) {a b : Nat} (h : a ≤ b) {t : Tab V} (ht : tabFrom d b t) : tabFrom d a t := by
  cases t with
  | nil => trivial
  | cons e t => exact ⟨Nat.le_trans h ht.1, ht.2⟩

theorem tabFrom_tins {V : Type} (d : V) (b i : Nat) (v : V) (t : Tab V) (hv : v ≠ d) (hb : b ≤ i) (ht : tabFrom d b t) :
    tabFrom d b (tins t i v) := by
  induction t generalizing b with
  | nil => exact ⟨hb, hv, trivial⟩
  | cons e t ih =>
    obtain ⟨k, w⟩ := e
    obtain ⟨h1, h2, h3⟩ := ht
    unfold tins
    split
    · exact ⟨hb, hv, by omega, h2, h3⟩
    · split
      · rename_i h; subst h; exact ⟨hb, hv, h3⟩
      · exact ⟨h1, h2, ih (k + 1) (by omega) h3⟩

theorem tabFrom_tdel {V : Type} (d : V) (b i : Nat) (t : Tab V) (ht : tabFrom d b t) : tabFrom d b (tdel t i) := by
  induction t generalizing b with
  | nil => trivial
  | cons e t ih =>
    obtain ⟨k, w⟩ := e
    obtain ⟨h1, h2, h3⟩ := ht
    unfold tdel at ih ⊢
    rw [List.filter_cons]
    split
    · exact ⟨h1, h2, ih (k + 1) h3⟩
    · exact ih b (tabFrom_mono d (by omega) h3)

/-- A write keeps the canonical form. -/
theorem tabWf_tput {V : Type} [DecidableEq V] (d : V) (t : Tab V) (i : Nat) (v : V) (h : tabWf d t = true) :
    tabWf d (tput d t i v) = true := by
  rw [tabWf_iff] at h ⊢
  unfold tput
  split
  · exact tabFrom_tdel d 0 i t h
  · exact tabFrom_tins d 0 i v t (by assumption) (Nat.zero_le i) h

theorem tabWf_tmod {V : Type} [DecidableEq V] (d : V) (t : Tab V) (i : Nat) (f : V → V) (h : tabWf d t = true) :
    tabWf d (tmod d t i f) = true := tabWf_tput d t i _ h

theorem tabWf_tmodAll {V : Type} [DecidableEq V] (d : V) (ks : List Nat) (f : Nat → V → V) (t : Tab V) (h : tabWf d t = true) :
    tabWf d (tmodAll d t ks f) = true := by
  unfold tmodAll
  induction ks generalizing t with
  | nil => exact h
  | cons k ks ih => exact ih _ (tabWf_tmod d t k (f k) h)

theorem tabWf_nil {V : Type} [DecidableEq V] (d : V) : tabWf d ([] : Tab V) = true := rfl

end Sys2Proof.Machine
end

