-- ==== Sys2Proof/Laws/Reads.lean ====
section
/-! SUPPORT. Read after write, for every keyed part of the state: the part a modification names takes the new value, the others keep theirs. -/

namespace Sys2Proof.Machine

@[simp] theorem State.die_modDie (s : State) (d : Nat) (f : Die → Die) : (s.modDie d f).die d = f (s.die d) := by
  simp [State.die, State.modDie]
theorem State.die_modDie_other (s : State) {d d' : Nat} (f : Die → Die) (h : d' ≠ d) : (s.modDie d f).die d' = s.die d' := by
  simp [State.die, State.modDie, tget_tmod_other _ _ _ h]
@[simp] theorem State.gq_modGq (s : State) (d q : Nat) (f : Gq → Gq) : (s.modGq d q f).gq d q = f (s.gq d q) := by
  simp [State.gq, State.modGq, State.die, State.modDie]
theorem State.gq_modGq_other (s : State) {d q d' q' : Nat} (f : Gq → Gq) (h : d' ≠ d ∨ q' ≠ q) : (s.modGq d q f).gq d' q' = s.gq d' q' := by
  by_cases hd : d' = d
  · subst hd
    have h' : q' ≠ q := by simpa using h
    simp [State.gq, State.modGq, State.die, State.modDie, tget_tmod_other _ _ _ h']
  · simp [State.gq, State.modGq, State.die, State.modDie, tget_tmod_other _ _ _ hd]
@[simp] theorem State.bram_modBram (s : State) (d m : Nat) (f : Bram → Bram) : (s.modBram d m f).bram d m = f (s.bram d m) := by
  simp [State.bram, State.modBram, State.die, State.modDie]
theorem State.bram_modBram_other (s : State) {d m d' m' : Nat} (f : Bram → Bram) (h : d' ≠ d ∨ m' ≠ m) : (s.modBram d m f).bram d' m' = s.bram d' m' := by
  by_cases hd : d' = d
  · subst hd
    have h' : m' ≠ m := by simpa using h
    simp [State.bram, State.modBram, State.die, State.modDie, tget_tmod_other _ _ _ h']
  · simp [State.bram, State.modBram, State.die, State.modDie, tget_tmod_other _ _ _ hd]
@[simp] theorem State.slice_modSlice (s : State) (d i : Nat) (f : Slice → Slice) : (s.modSlice d i f).slice d i = f (s.slice d i) := by
  simp [State.slice, State.modSlice, State.die, State.modDie]
theorem State.slice_modSlice_other (s : State) {d i d' i' : Nat} (f : Slice → Slice) (h : d' ≠ d ∨ i' ≠ i) : (s.modSlice d i f).slice d' i' = s.slice d' i' := by
  by_cases hd : d' = d
  · subst hd
    have h' : i' ≠ i := by simpa using h
    simp [State.slice, State.modSlice, State.die, State.modDie, tget_tmod_other _ _ _ h']
  · simp [State.slice, State.modSlice, State.die, State.modDie, tget_tmod_other _ _ _ hd]
@[simp] theorem State.group_modGroup (s : State) (d g : Nat) (f : Group → Group) : (s.modGroup d g f).group d g = f (s.group d g) := by
  simp [State.group, State.modGroup, State.die, State.modDie]
theorem State.group_modGroup_other (s : State) {d g d' g' : Nat} (f : Group → Group) (h : d' ≠ d ∨ g' ≠ g) : (s.modGroup d g f).group d' g' = s.group d' g' := by
  by_cases hd : d' = d
  · subst hd
    have h' : g' ≠ g := by simpa using h
    simp [State.group, State.modGroup, State.die, State.modDie, tget_tmod_other _ _ _ h']
  · simp [State.group, State.modGroup, State.die, State.modDie, tget_tmod_other _ _ _ hd]
@[simp] theorem State.bay_modBay (s : State) (d b : Nat) (f : Bay → Bay) : (s.modBay d b f).bay d b = f (s.bay d b) := by
  simp [State.bay, State.modBay, State.die, State.modDie]
theorem State.bay_modBay_other (s : State) {d b d' b' : Nat} (f : Bay → Bay) (h : d' ≠ d ∨ b' ≠ b) : (s.modBay d b f).bay d' b' = s.bay d' b' := by
  by_cases hd : d' = d
  · subst hd
    have h' : b' ≠ b := by simpa using h
    simp [State.bay, State.modBay, State.die, State.modDie, tget_tmod_other _ _ _ h']
  · simp [State.bay, State.modBay, State.die, State.modDie, tget_tmod_other _ _ _ hd]
@[simp] theorem State.router_modRouter (s : State) (n r : Nat) (f : Router → Router) : (s.modRouter n r f).router n r = f (s.router n r) := by
  simp [State.router, State.modRouter]
theorem State.router_modRouter_other (s : State) {n r n' r' : Nat} (f : Router → Router) (h : 64 * n' + r' ≠ 64 * n + r) : (s.modRouter n r f).router n' r' = s.router n' r' := by
  simp [State.router, State.modRouter, tget_tmod_other _ _ _ h]
@[simp] theorem State.master_modMaster (s : State) (mid : BitVec 12) (f : MasterPort → MasterPort) : (s.modMaster mid f).master mid = f (s.master mid) := by
  simp [State.master, State.modMaster]
theorem State.master_modMaster_other (s : State) {mid mid' : BitVec 12} (f : MasterPort → MasterPort) (h : mid' ≠ mid) : (s.modMaster mid f).master mid' = s.master mid' := by
  have h' : mid'.toNat ≠ mid.toNat := fun e => h (BitVec.eq_of_toNat_eq e)
  simp [State.master, State.modMaster, tget_tmod_other _ _ _ h']
@[simp] theorem State.flow_modFlow (s : State) (i : Nat) (f : Flow → Flow) : (s.modFlow i f).flow i = f (s.flow i) := by
  simp [State.flow, State.modFlow]
theorem State.flow_modFlow_other (s : State) {i i' : Nat} (f : Flow → Flow) (h : i' ≠ i) : (s.modFlow i f).flow i' = s.flow i' := by
  simp [State.flow, State.modFlow, tget_tmod_other _ _ _ h]
@[simp] theorem State.laneset_modLaneset (s : State) (k : Nat) (f : LaneSet → LaneSet) : (s.modLaneset k f).laneset k = f (s.laneset k) := by
  simp [State.laneset, State.modLaneset]
theorem State.laneset_modLaneset_other (s : State) {k k' : Nat} (f : LaneSet → LaneSet) (h : k' ≠ k) : (s.modLaneset k f).laneset k' = s.laneset k' := by
  simp [State.laneset, State.modLaneset, tget_tmod_other _ _ _ h]
@[simp] theorem State.link_modLink (s : State) (k : Nat) (f : LinkEnd → LinkEnd) : (s.modLink k f).link k = f (s.link k) := by
  simp [State.link, State.modLink]
theorem State.link_modLink_other (s : State) {k k' : Nat} (f : LinkEnd → LinkEnd) (h : k' ≠ k) : (s.modLink k f).link k' = s.link k' := by
  simp [State.link, State.modLink, tget_tmod_other _ _ _ h]
@[simp] theorem State.guest_modGuest (s : State) (k : Nat) (f : GuestSite → GuestSite) : (s.modGuest k f).guest k = f (s.guest k) := by
  simp [State.guest, State.modGuest]
theorem State.guest_modGuest_other (s : State) {k k' : Nat} (f : GuestSite → GuestSite) (h : k' ≠ k) : (s.modGuest k f).guest k' = s.guest k' := by
  simp [State.guest, State.modGuest, tget_tmod_other _ _ _ h]
@[simp] theorem State.linkKey_modLinkKey (s : State) (k : Nat) (f : LinkKey → LinkKey) : (s.modLinkKey k f).linkKey k = f (s.linkKey k) := by
  simp [State.linkKey, State.modLinkKey]
theorem State.linkKey_modLinkKey_other (s : State) {k k' : Nat} (f : LinkKey → LinkKey) (h : k' ≠ k) : (s.modLinkKey k f).linkKey k' = s.linkKey k' := by
  simp [State.linkKey, State.modLinkKey, tget_tmod_other _ _ _ h]
@[simp] theorem State.time_modTime (s : State) (k : Nat) (f : DieTime → DieTime) : (s.modTime k f).time k = f (s.time k) := by
  simp [State.time, State.modTime]
theorem State.time_modTime_other (s : State) {k k' : Nat} (f : DieTime → DieTime) (h : k' ≠ k) : (s.modTime k f).time k' = s.time k' := by
  simp [State.time, State.modTime, tget_tmod_other _ _ _ h]
@[simp] theorem State.chan_modChan (s : State) (n : Nat) (f : Channel → Channel) : (s.modChan n f).chan n = f (s.chan n) := by
  simp [State.chan, State.modChan, State.modDram]
theorem State.chan_modChan_other (s : State) {n n' : Nat} (f : Channel → Channel) (h : n' ≠ n) : (s.modChan n f).chan n' = s.chan n' := by
  simp [State.chan, State.modChan, State.modDram, tget_tmod_other _ _ _ h]
@[simp] theorem State.funit_modFunit (s : State) (n : Nat) (f : FlashUnit → FlashUnit) : (s.modFunit n f).funit n = f (s.funit n) := by
  simp [State.funit, State.modFunit]
theorem State.funit_modFunit_other (s : State) {n n' : Nat} (f : FlashUnit → FlashUnit) (h : n' ≠ n) : (s.modFunit n f).funit n' = s.funit n' := by
  simp [State.funit, State.modFunit, tget_tmod_other _ _ _ h]
@[simp] theorem State.dmaCh_modDma (s : State) (c : Nat) (f : DmaCh → DmaCh) : (s.modDma c f).dmaCh c = f (s.dmaCh c) := by
  simp [State.dmaCh, State.modDma]
theorem State.dmaCh_modDma_other (s : State) {c c' : Nat} (f : DmaCh → DmaCh) (h : c' ≠ c) : (s.modDma c f).dmaCh c' = s.dmaCh c' := by
  simp [State.dmaCh, State.modDma, tget_tmod_other _ _ _ h]
@[simp] theorem State.mbx_modMbx (s : State) (m : Nat) (f : Mbx → Mbx) : (s.modMbx m f).mbx m = f (s.mbx m) := by
  simp [State.mbx, State.modMbx, State.modGable]
theorem State.mbx_modMbx_other (s : State) {m m' : Nat} (f : Mbx → Mbx) (h : m' ≠ m) : (s.modMbx m f).mbx m' = s.mbx m' := by
  simp [State.mbx, State.modMbx, State.modGable, tget_tmod_other _ _ _ h]
@[simp] theorem State.node_modNode (s : State) (c : Nat) (f : ClkNode → ClkNode) : (s.modNode c f).node c = f (s.node c) := by
  simp [State.node, State.modNode, State.modClk]
theorem State.node_modNode_other (s : State) {c c' : Nat} (f : ClkNode → ClkNode) (h : c' ≠ c) : (s.modNode c f).node c' = s.node c' := by
  simp [State.node, State.modNode, State.modClk, tget_tmod_other _ _ _ h]
@[simp] theorem State.elem_modElem (s : State) (kind die id : Nat) (f : Elem → Elem) : (s.modElem kind die id f).elem kind die id = f (s.elem kind die id) := by
  simp [State.elem, State.modElem, State.modClk]
theorem State.elem_modElem_other (s : State) {kind die id kind' die' id' : Nat} (f : Elem → Elem) (h : elemKey kind' die' id' ≠ elemKey kind die id) : (s.modElem kind die id f).elem kind' die' id' = s.elem kind' die' id' := by
  simp [State.elem, State.modElem, State.modClk, tget_tmod_other _ _ _ h]
@[simp] theorem State.acl_modAcl (s : State) (t : Nat) (f : AclTable → AclTable) : (s.modAcl t f).acl t = f (s.acl t) := by
  simp [State.acl, State.modAcl]
theorem State.acl_modAcl_other (s : State) {t t' : Nat} (f : AclTable → AclTable) (h : t' ≠ t) : (s.modAcl t f).acl t' = s.acl t' := by
  simp [State.acl, State.modAcl, tget_tmod_other _ _ _ h]
@[simp] theorem State.tpin_modTpin (s : State) (d n : Nat) (f : TimingPin → TimingPin) : (s.modTpin d n f).tpin d n = f (s.tpin d n) := by
  unfold State.tpin State.modTpin
  split <;> simp [State.modDie, State.die]

/-! ### What one access or one request does -/

/-- A register access that is let through, to a register that does not deny it, is what the register does and its answer. -/
theorem State.access_of_reaches {s : State} {w : Who} {addr : Nat} {write : Bool} {body : State → RegRes} (h : s.reaches w addr write = true)
    (hb : (body s).2.1 ≠ respDenied) : s.access w addr write body = (body s).1.answer (body s).2.1 (body s).2.2 := by
  unfold State.reaches at h
  unfold State.access
  split at h
  · cases h
  · rename_i t last e
    simp [h, hb]

/-- An access to an address no target has is answered NOTARGET and changes nothing else. -/
theorem State.access_of_unmapped {s : State} {w : Who} {addr : Nat} {write : Bool} {body : State → RegRes} (h : s.decode addr = none) :
    s.access w addr write body = s.answer respNoTarget 0 := by
  unfold State.access; rw [h]

end Sys2Proof.Machine
end

