-- ==== Sys2Proof/Laws/Serve.lean ====
section
/-! SUPPORT. What serving a mailbox request does: which state the command's own checks and body see, and what the answer leaves. -/

namespace Sys2Proof.Machine

theorem State.raiseHub_eq (s : State) (evid data : Nat) (note : Option LogEntry) :
    s.raiseHub evid data note = s.modEvr fun x => { x with raised := x.raised ++ [s.mkEvent 8 evid data note] } := rfl

theorem State.mbx_modGable (s : State) {m : Nat} (f : Gable → Gable) (h : (f s.gable).mbx = s.gable.mbx) :
    (s.modGable f).mbx m = s.mbx m := by
  unfold State.mbx State.modGable; rw [State.setGable_gable, h]

/-- A condition of a mailbox changes its NOTIFY and the raised events alone. -/
theorem State.mbxRise_eq (s : State) (m bit : Nat) : ∃ (n : Bool) (es : List Event),
    (s.mbxRise m bit).mbx m = { s.mbx m with notify := n } ∧ (s.mbxRise m bit).evr = { s.evr with raised := s.evr.raised ++ es } ∧
    s.changesOnly (s.mbxRise m bit) [.gable, .evr] ∧ (∀ k, k ≠ m → (s.mbxRise m bit).mbx k = s.mbx k) ∧
    ∃ t, (s.mbxRise m bit).gable = { s.gable with mbx := t } := by
  unfold State.mbxRise
  dsimp only
  split
  · split
    · refine ⟨true, [s.mkEvent 8 (0x300 + m) (2 ^ bit) none], ?_, rfl, ?_, ?_, _, rfl⟩
      · rw [State.raiseHub_eq, State.mbx_modMbx]; rfl
      · intro p hp; cases p <;> first | rfl | exact absurd (by decide) hp
      · intro k hk; rw [State.raiseHub_eq, State.mbx_modMbx_other _ _ hk]; rfl
    · refine ⟨(s.mbx m).notify, [s.mkEvent 8 (0x300 + m) (2 ^ bit) none], rfl, rfl, ?_, fun _ _ => rfl, _, rfl⟩
      intro p hp; cases p <;> first | rfl | exact absurd (by decide) hp
  · refine ⟨(s.mbx m).notify, [], rfl, by simp, ?_, fun _ _ => rfl, _, rfl⟩
    intro p _; cases p <;> rfl

theorem State.changesOnly_trans {s t u : State} {ps : List Component} (h : s.changesOnly t ps) (h' : t.changesOnly u ps) :
    s.changesOnly u ps := fun p hp => by
  have a := h p hp; have b := h' p hp
  cases p <;> exact Eq.trans b a

/-- What MBX_RSP and the mailbox hold once an answer is written. -/
theorem State.writeAnswer_eq (s : State) (m seq st : Nat) (dup : Bool) (sess : Nat) (data : List (BitVec 8)) :
    s.changesOnly (s.writeAnswer m seq st dup sess data) [.gable, .evr] ∧
    (∀ k, k ≠ m → (s.writeAnswer m seq st dup sess data).mbx k = s.mbx k) ∧
    (∃ t, (s.writeAnswer m seq st dup sess data).gable = { s.gable with mbx := t, rr := m }) ∧
    ∃ n, (s.writeAnswer m seq st dup sess data).mbx m =
      { s.mbx m with ringing := false, deferred := false, rspValid := true, rsp := answerBytes st seq dup false sess data,
                     lastSeq := if finalStatus st then BitVec.ofNat 16 seq else (s.mbx m).lastSeq, notify := n } := by
  unfold State.writeAnswer
  generalize hs' : (s.modMbx m fun b =>
    { b with ringing := false, deferred := false, rspValid := true, rsp := answerBytes st seq dup false sess data,
             lastSeq := if finalStatus st then BitVec.ofNat 16 seq else b.lastSeq }) = s'
  obtain ⟨n, es, h1, -, h3, h4, t, h5⟩ := State.mbxRise_eq (s'.modGable fun g => { g with rr := m }) m 0
  have hm : s'.mbx m = { s.mbx m with ringing := false, deferred := false, rspValid := true, rsp := answerBytes st seq dup false sess data, lastSeq := if finalStatus st then BitVec.ofNat 16 seq else (s.mbx m).lastSeq } := by
    rw [← hs', State.mbx_modMbx]
  refine ⟨State.changesOnly_trans (fun p hp => ?_) h3, fun k hk => ?_, ⟨t, ?_⟩, n, ?_⟩
  · subst hs'; cases p <;> first | rfl | exact absurd (by decide) hp
  · rw [h4 k hk, State.mbx_modGable s' _ rfl, ← hs', State.mbx_modMbx_other s _ hk]
  · rw [h5]; subst hs'; rfl
  · rw [h1, State.mbx_modGable s' _ rfl, hm]

/-- A request that passes the mailbox's checks and the command's own is answered with what the command's body replies; the answer touches the
    mailbox served, the order of service and the raised events alone. -/
theorem Command.serve_run {c : Command} {s s2 : State} {m st : Nat} {data : List (BitVec 8)} (ask : s.asks m c.code = true)
    (hopen : c.code ≠ 0x0900) (may : c.may (s.heard m) m (s.req m) = true) (arg : c.argOk (s.heard m) (s.req m) = true)
    (run : c.run (s.heard m) m (s.req m) = (s2, ⟨st, data⟩)) (hst : st < 0x100) :
    ∃ u, c.serve m s = (if st = stOk then c.after u m else u) ∧ s.answered u m st data ∧ s2.changesOnly u [.gable, .evr] ∧
      (∀ k, k ≠ m → u.mbx k = s2.mbx k) ∧ (∃ t, u.gable = { s2.gable with mbx := t, rr := m }) ∧
      ∃ n l r, u.mbx m = { s2.mbx m with ringing := false, deferred := false, rspValid := true,
                                         rsp := answerBytes st (s.req m).seq false false (s.req m).session data, lastSeq := l, notify := n, recorded := r } := by
  unfold State.asks at ask
  simp only [Bool.and_eq_true, Bool.or_eq_true, Bool.not_eq_true', decide_eq_true_eq, beq_iff_eq] at ask
  obtain ⟨⟨⟨⟨⟨⟨⟨⟨⟨⟨⟨hm, he⟩, hr⟩, hd⟩, ht⟩, hg⟩, hf⟩, hres⟩, hl⟩, hs⟩, hc⟩, hn⟩ := ask
  have hb : (if ((s.req m).session != 0 && (s.req m).session == s.sid m) = true then s.modMbx m fun b => { b with hbAt := s.now, hbUsed := 0 } else s) =
      s.heard m := rfl
  have hmbx : (s.heard m).mbx m = { s.mbx m with hbAt := ((s.heard m).mbx m).hbAt, hbUsed := ((s.heard m).mbx m).hbUsed } := by
    unfold State.heard; split
    · rw [State.mbx_modMbx]
    · rfl
  have hsid : (s.heard m).sid m = s.sid m := by unfold State.sid; rw [hmbx]
  have hcfg : (s.heard m).cfg = s.cfg := by unfold State.heard; split <;> rfl
  have hso : (s.heard m).sessionOk m (s.req m) = true := by
    rw [← hs]; unfold State.sessionOk; rw [hcfg, hsid, hmbx]; rfl
  have hgs : (s.heard m).gable.gstate = s.gable.gstate := by unfold State.heard; split <;> rfl
  have hreq : s.req m = (s.mbx m).request := rfl
  have hj : c.judge (s.heard m) m (s.req m) = (s2, ⟨st, data⟩, false) := by
    unfold Command.judge
    dsimp only
    rw [hsid, hgs, hso]
    have e1 : ¬ ((s.req m).flags ≠ 0 ∨ (s.req m).res ≠ 0 ∨ 240 < (s.req m).len) := by
      rw [hreq]; rintro (h | h | h)
      · exact h hf
      · exact h hres
      · omega
    have e3 : ¬ (((s.req m).session != 0 && (s.req m).session == s.sid m) = true ∧
        (((s.heard m).mbx m).running.any fun x => x.seq == BitVec.ofNat 16 (s.req m).seq) = true) := by
      rw [hmbx]
      rintro ⟨h, h'⟩
      rcases hn with hn | ⟨hn, -⟩
      · rw [hreq, hn] at h; simp at h
      · rw [← hreq] at hn; dsimp only at h'; rw [hn] at h'; cases h'
    have e4 : (if ((s.req m).session != 0 && (s.req m).session == s.sid m) = true then
        (((s.heard m).mbx m).recorded.find? fun e => e.1 == BitVec.ofNat 16 (s.req m).seq) else none) = none := by
      split
      · rename_i h
        rcases hn with hn | ⟨-, hn⟩
        · rw [hreq, hn] at h; simp at h
        · rw [hmbx]
          dsimp only
          rw [List.find?_eq_none]
          intro x hx
          rw [List.any_eq_false] at hn
          exact hn x hx
      · rfl
    have e6 : ¬ (s.gable.gstate = .recovery ∧ ¬ ((s.req m).cmd / 256 = 0 ∨ (s.req m).cmd / 256 = 1 ∨ (s.req m).cmd / 256 = 9)) := by
      rintro ⟨h, h'⟩
      rcases hg with hg | ⟨-, hg⟩
      · rw [h] at hg; cases hg
      · exact h' (by rw [hreq]; tauto)
    rw [if_neg e1, if_neg (by simp), if_neg e3, e4]
    dsimp only
    rw [if_neg (by rw [hreq, hc]; simp), if_neg e6, may, arg, run]
    simp
  have hst' : st ≠ stLater := by unfold stLater; omega
  have hrun : s.gable.gstate = .running ∨ s.gable.gstate = .recovery := by
    rcases hg with hg | ⟨hg, -⟩
    · exact .inl hg
    · exact .inr hg
  have hsess : (if ((s.req m).session != 0 && (s.req m).session == s.sid m) = true then s.sid m else 0) = (s.req m).session := by
    by_cases h0 : (s.req m).session = 0
    · simp [h0]
    · have : (s.req m).session = s.sid m := by
        unfold State.sessionOk at hs
        rw [← hreq] at hs
        split at hs
        · cases hs
        · split at hs
          · simp only [Bool.or_eq_true, beq_iff_eq, Bool.and_eq_true] at hs
            rcases hs with hs | hs
            · exact hs
            · exact absurd hs.1 h0
          · simp only [beq_iff_eq, Bool.and_eq_true] at hs
            exact absurd hs.1 h0
      simp only [this, beq_self_eq_true, Bool.and_true, bne_iff_ne, ite_eq_left_iff, Decidable.not_not]
      exact fun h => h.symm
  have hop : ((s.req m).cmd == 0x0900 && (⟨st, data⟩ : Reply).status == stOk && !false) = false := by
    rw [hreq, hc]; simp [hopen]
  obtain ⟨w1, w2, w3, n, w4⟩ := State.writeAnswer_eq s2 m (s.req m).seq st false (s.req m).session data
  have key : ∀ g : Bool, ∃ u, (if st = stOk then c.after (if g = true then (s2.writeAnswer m (s.req m).seq st false (s.req m).session data).modMbx m
          fun b => b.record (s.req m).seq st else s2.writeAnswer m (s.req m).seq st false (s.req m).session data) m
        else if g = true then (s2.writeAnswer m (s.req m).seq st false (s.req m).session data).modMbx m fun b => b.record (s.req m).seq st
          else s2.writeAnswer m (s.req m).seq st false (s.req m).session data) = (if st = stOk then c.after u m else u) ∧
      s.answered u m st data ∧ s2.changesOnly u [.gable, .evr] ∧
      (∀ k, k ≠ m → u.mbx k = s2.mbx k) ∧ (∃ t, u.gable = { s2.gable with mbx := t, rr := m }) ∧
      ∃ n l r, u.mbx m = { s2.mbx m with ringing := false, deferred := false, rspValid := true,
                                         rsp := answerBytes st (s.req m).seq false false (s.req m).session data, lastSeq := l, notify := n, recorded := r } := by
    intro g
    refine ⟨_, rfl, ?_⟩
    cases g
    · simp only [Bool.false_eq_true, if_false]
      refine ⟨⟨by rw [w4], by rw [w4], by rw [w4]⟩, w1, w2, w3, n, _, (s2.mbx m).recorded, w4⟩
    · simp only [if_true]
      refine ⟨⟨by rw [State.mbx_modMbx, w4]; rfl, by rw [State.mbx_modMbx, w4]; rfl, by rw [State.mbx_modMbx, w4]; rfl⟩,
        State.changesOnly_trans w1 (fun p hp => ?_), fun k hk => ?_, ?_, n,
        if finalStatus st then BitVec.ofNat 16 (s.req m).seq else (s2.mbx m).lastSeq, ((BitVec.ofNat 16 (s.req m).seq, BitVec.ofNat 8 st) :: (s2.mbx m).recorded).take 32, ?_⟩
      · cases p <;> first | rfl | exact absurd (by decide) hp
      · rw [State.mbx_modMbx_other _ _ hk, w2 k hk]
      · obtain ⟨t, w3⟩ := w3
        exact ⟨_, by unfold State.modMbx State.modGable; rw [State.setGable_gable, w3]⟩
      · rw [State.mbx_modMbx, w4]; rfl
  unfold Command.serve
  dsimp only
  rw [if_neg, ← hreq, hb]
  · rw [hj, hsid, hsess, hop]
    simp only [Bool.or_false, Bool.false_eq_true, if_false, Bool.not_false, Bool.and_true, not_false_eq_true, and_true, if_neg hst']
    rcases hrun with hrun | hrun <;> rw [hrun] <;> exact key _
  · rw [hr, hd, ht, he]
    simp
    exact ⟨hm, fun h => absurd hc h⟩

/-- The same for a command that ends at once: its body's state and reply. -/
theorem Command.serve_body {c : Command} {s s2 : State} {m st : Nat} {data : List (BitVec 8)} (ask : s.asks m c.code = true)
    (hopen : c.code ≠ 0x0900) (hsync : c.async = false) (may : c.may (s.heard m) m (s.req m) = true) (arg : c.argOk (s.heard m) (s.req m) = true)
    (body : c.body (s.heard m) m (s.req m) = (s2, ⟨st, data⟩)) (hst : st < 0x100) :
    ∃ u, c.serve m s = (if st = stOk then c.after u m else u) ∧ s.answered u m st data ∧ s2.changesOnly u [.gable, .evr] ∧
      (∀ k, k ≠ m → u.mbx k = s2.mbx k) ∧ (∃ t, u.gable = { s2.gable with mbx := t, rr := m }) ∧
      ∃ n l r, u.mbx m = { s2.mbx m with ringing := false, deferred := false, rspValid := true,
                                         rsp := answerBytes st (s.req m).seq false false (s.req m).session data, lastSeq := l, notify := n, recorded := r } :=
  Command.serve_run ask hopen may arg (by unfold Command.run; rw [hsync]; exact body) hst

end Sys2Proof.Machine
end

