-- ==== Sys2Proof/Laws/Steps.lean ====
section
/-! SUPPORT. What a function does to the state as a whole: the parts it may change, and that it keeps the tables canonical. One lemma for each
operation of Machine/Ops.lean; Laws/Steps1.lean and on have one lemma for each function. -/

namespace Sys2Proof.Machine

/-- From s to t only the listed parts change, and canonical tables stay canonical. -/
def Steps (ps : List Component) (s t : State) : Prop := s.changesOnly t ps ∧ (s.tablesWf = true → t.tablesWf = true)

theorem Steps.refl (ps : List Component) (s : State) : Steps ps s s :=
  ⟨fun p _ => by cases p <;> rfl, id⟩

theorem Component.same_trans {p : Component} {s t u : State} (h : p.same s t) (h' : p.same t u) : p.same s u := by
  cases p <;> exact Eq.trans h' h

/-- A function that changes the parts qs, run after a function that changes the parts ps. -/
theorem Steps.via {ps qs : List Component} {s t u : State} (h : Steps ps s t) (h' : Steps qs t u) (sub : ∀ p ∈ qs, p ∈ ps) : Steps ps s u :=
  ⟨fun p hp => Component.same_trans (h.1 p hp) (h'.1 p fun hq => hp (sub p hq)), fun w => h'.2 (h.2 w)⟩

theorem Steps.ite {ps : List Component} {s a b : State} {c : Prop} [Decidable c] (ha : c → Steps ps s a) (hb : ¬ c → Steps ps s b) :
    Steps ps s (if c then a else b) := by
  split
  · exact ha ‹_›
  · exact hb ‹_›

theorem Steps.foldl {A : Type} {ps : List Component} {s t : State} (f : State → A → State) (l : List A)
    (hf : ∀ u a, Steps ps s u → Steps ps s (f u a)) (h : Steps ps s t) : Steps ps s (l.foldl f t) := by
  induction l generalizing t with
  | nil => exact h
  | cons a l ih => exact ih (hf t a h)

theorem Steps.foldr {A : Type} {ps : List Component} {s t : State} (f : A → State → State) (l : List A)
    (hf : ∀ a u, Steps ps s u → Steps ps s (f a u)) (h : Steps ps s t) : Steps ps s (l.foldr f t) := by
  induction l with
  | nil => exact h
  | cons a l ih => exact hf a _ ih

/-! Results that carry a state beside an answer. -/

theorem Steps.mk_fst {A : Type} {ps : List Component} {s t : State} {a : A} (h : Steps ps s t) : Steps ps s (t, a).1 := h
theorem Steps.ite_fst {A : Type} {ps : List Component} {s : State} {a b : State × A} {c : Prop} [Decidable c] (ha : c → Steps ps s a.1)
    (hb : ¬ c → Steps ps s b.1) : Steps ps s (if c then a else b).1 := by
  split
  · exact ha ‹_›
  · exact hb ‹_›
/-- Every state an optional result holds. -/
def StepsO (ps : List Component) (s : State) (o : Option State) : Prop := ∀ t, o = some t → Steps ps s t
theorem StepsO.none {ps : List Component} {s : State} : StepsO ps s none := fun _ h => nomatch h
theorem StepsO.some {ps : List Component} {s t : State} (h : Steps ps s t) : StepsO ps s (some t) := fun _ e => by cases e; exact h
theorem StepsO.ite {ps : List Component} {s : State} {a b : Option State} {c : Prop} [Decidable c] (ha : c → StepsO ps s a)
    (hb : ¬ c → StepsO ps s b) : StepsO ps s (if c then a else b) := by
  split
  · exact ha ‹_›
  · exact hb ‹_›
theorem Steps.of_some {ps : List Component} {s u : State} {o : Option State} (h : StepsO ps s o) (e : o = some u) : Steps ps s u := h u e
theorem StepsO.via {ps qs : List Component} {s t : State} {o : Option State} (h : Steps ps s t) (h' : StepsO qs t o) (sub : ∀ p ∈ qs, p ∈ ps) :
    StepsO ps s o := fun u e => h.via (h' u e) sub
theorem StepsO.map {ps : List Component} {s : State} {o : Option State} {f : State → State} (h : StepsO ps s o)
    (hf : ∀ u, Steps ps s u → Steps ps s (f u)) : StepsO ps s (o.map f) := by
  intro t e
  cases o with
  | none => cases e
  | some u => cases e; exact hf u (h u rfl)
theorem StepsO.bind {ps : List Component} {s : State} {o : Option State} {f : State → Option State} (h : StepsO ps s o)
    (hf : ∀ u, Steps ps s u → StepsO ps s (f u)) : StepsO ps s (o.bind f) := by
  intro t e
  cases o with
  | none => cases e
  | some u => exact hf u (h u rfl) t e
theorem Steps.of_fst {A : Type} {ps : List Component} {s u : State} {a : A} {p : State × A} (h : Steps ps s p.1) (e : p = (u, a)) :
    Steps ps s u := by rw [e] at h; exact h

theorem Steps.setNow (t : State) (v : Nat) : Steps [.now] t (t.setNow v) := by
  refine ⟨fun p hp => by cases p <;> first | rfl | exact absurd (List.mem_singleton.mpr rfl) hp, fun w => ?_⟩
  exact w
theorem State.setNow_steps {ps : List Component} {s0 s : State} {v : Nat} (h : Steps ps s0 s) (sub : ∀ p ∈ [Component.now], p ∈ ps) :
    Steps ps s0 (s.setNow v) := h.via (Steps.setNow s v) sub

theorem Steps.setFree (t : State) (v : Nat) : Steps [.free] t (t.setFree v) := by
  refine ⟨fun p hp => by cases p <;> first | rfl | exact absurd (List.mem_singleton.mpr rfl) hp, fun w => ?_⟩
  exact w
theorem State.setFree_steps {ps : List Component} {s0 s : State} {v : Nat} (h : Steps ps s0 s) (sub : ∀ p ∈ [Component.free], p ∈ ps) :
    Steps ps s0 (s.setFree v) := h.via (Steps.setFree s v) sub

theorem Steps.setRsp (t : State) (v : Rsp) : Steps [.rsp] t (t.setRsp v) := by
  refine ⟨fun p hp => by cases p <;> first | rfl | exact absurd (List.mem_singleton.mpr rfl) hp, fun w => ?_⟩
  exact w
theorem State.setRsp_steps {ps : List Component} {s0 s : State} {v : Rsp} (h : Steps ps s0 s) (sub : ∀ p ∈ [Component.rsp], p ∈ ps) :
    Steps ps s0 (s.setRsp v) := h.via (Steps.setRsp s v) sub

theorem Steps.setFuses (t : State) (v : Fuses) : Steps [.fuses] t (t.setFuses v) := by
  refine ⟨fun p hp => by cases p <;> first | rfl | exact absurd (List.mem_singleton.mpr rfl) hp, fun w => ?_⟩
  exact w
theorem State.setFuses_steps {ps : List Component} {s0 s : State} {v : Fuses} (h : Steps ps s0 s) (sub : ∀ p ∈ [Component.fuses], p ∈ ps) :
    Steps ps s0 (s.setFuses v) := h.via (Steps.setFuses s v) sub

theorem Steps.setIds (t : State) (v : IdRegs) : Steps [.ids] t (t.setIds v) := by
  refine ⟨fun p hp => by cases p <;> first | rfl | exact absurd (List.mem_singleton.mpr rfl) hp, fun w => ?_⟩
  exact w
theorem State.setIds_steps {ps : List Component} {s0 s : State} {v : IdRegs} (h : Steps ps s0 s) (sub : ∀ p ∈ [Component.ids], p ∈ ps) :
    Steps ps s0 (s.setIds v) := h.via (Steps.setIds s v) sub

theorem Steps.setAcls (t : State) (v : Tab AclTable) (hv : tabWf AclTable.reset t.acls = true → tabWf AclTable.reset v = true) : Steps [.acls] t (t.setAcls v) := by
  refine ⟨fun p hp => by cases p <;> first | rfl | exact absurd (List.mem_singleton.mpr rfl) hp, fun w => ?_⟩
  simp only [State.tablesWf, Bool.and_eq_true] at w ⊢
  simp only [State.setAcls] at *
  simp_all
theorem State.setAcls_steps {ps : List Component} {s0 s : State} {v : Tab AclTable} (h : Steps ps s0 s) (hv : tabWf AclTable.reset s.acls = true → tabWf AclTable.reset v = true) (sub : ∀ p ∈ [Component.acls], p ∈ ps) :
    Steps ps s0 (s.setAcls v) := h.via (Steps.setAcls s v hv) sub

theorem Steps.setDies (t : State) (v : Tab Die) (hv : tabWf Die.reset t.dies = true → tabWf Die.reset v = true) : Steps [.dies] t (t.setDies v) := by
  refine ⟨fun p hp => by cases p <;> first | rfl | exact absurd (List.mem_singleton.mpr rfl) hp, fun w => ?_⟩
  simp only [State.tablesWf, Bool.and_eq_true] at w ⊢
  simp only [State.setDies] at *
  simp_all
theorem State.setDies_steps {ps : List Component} {s0 s : State} {v : Tab Die} (h : Steps ps s0 s) (hv : tabWf Die.reset s.dies = true → tabWf Die.reset v = true) (sub : ∀ p ∈ [Component.dies], p ∈ ps) :
    Steps ps s0 (s.setDies v) := h.via (Steps.setDies s v hv) sub

theorem Steps.setRouters (t : State) (v : Tab Router) (hv : tabWf Router.reset t.routers = true → tabWf Router.reset v = true) : Steps [.routers] t (t.setRouters v) := by
  refine ⟨fun p hp => by cases p <;> first | rfl | exact absurd (List.mem_singleton.mpr rfl) hp, fun w => ?_⟩
  simp only [State.tablesWf, Bool.and_eq_true] at w ⊢
  simp only [State.setRouters] at *
  simp_all
theorem State.setRouters_steps {ps : List Component} {s0 s : State} {v : Tab Router} (h : Steps ps s0 s) (hv : tabWf Router.reset s.routers = true → tabWf Router.reset v = true) (sub : ∀ p ∈ [Component.routers], p ∈ ps) :
    Steps ps s0 (s.setRouters v) := h.via (Steps.setRouters s v hv) sub

theorem Steps.setMasters (t : State) (v : Tab MasterPort) (hv : tabWf MasterPort.reset t.masters = true → tabWf MasterPort.reset v = true) : Steps [.masters] t (t.setMasters v) := by
  refine ⟨fun p hp => by cases p <;> first | rfl | exact absurd (List.mem_singleton.mpr rfl) hp, fun w => ?_⟩
  simp only [State.tablesWf, Bool.and_eq_true] at w ⊢
  simp only [State.setMasters] at *
  simp_all
theorem State.setMasters_steps {ps : List Component} {s0 s : State} {v : Tab MasterPort} (h : Steps ps s0 s) (hv : tabWf MasterPort.reset s.masters = true → tabWf MasterPort.reset v = true) (sub : ∀ p ∈ [Component.masters], p ∈ ps) :
    Steps ps s0 (s.setMasters v) := h.via (Steps.setMasters s v hv) sub

theorem Steps.setFlows (t : State) (v : Tab Flow) (hv : tabWf Flow.reset t.flows = true → tabWf Flow.reset v = true) : Steps [.flows] t (t.setFlows v) := by
  refine ⟨fun p hp => by cases p <;> first | rfl | exact absurd (List.mem_singleton.mpr rfl) hp, fun w => ?_⟩
  simp only [State.tablesWf, Bool.and_eq_true] at w ⊢
  simp only [State.setFlows] at *
  simp_all
theorem State.setFlows_steps {ps : List Component} {s0 s : State} {v : Tab Flow} (h : Steps ps s0 s) (hv : tabWf Flow.reset s.flows = true → tabWf Flow.reset v = true) (sub : ∀ p ∈ [Component.flows], p ∈ ps) :
    Steps ps s0 (s.setFlows v) := h.via (Steps.setFlows s v hv) sub

theorem Steps.setLanesets (t : State) (v : Tab LaneSet) (hv : tabWf LaneSet.reset t.lanesets = true → tabWf LaneSet.reset v = true) : Steps [.lanesets] t (t.setLanesets v) := by
  refine ⟨fun p hp => by cases p <;> first | rfl | exact absurd (List.mem_singleton.mpr rfl) hp, fun w => ?_⟩
  simp only [State.tablesWf, Bool.and_eq_true] at w ⊢
  simp only [State.setLanesets] at *
  simp_all
theorem State.setLanesets_steps {ps : List Component} {s0 s : State} {v : Tab LaneSet} (h : Steps ps s0 s) (hv : tabWf LaneSet.reset s.lanesets = true → tabWf LaneSet.reset v = true) (sub : ∀ p ∈ [Component.lanesets], p ∈ ps) :
    Steps ps s0 (s.setLanesets v) := h.via (Steps.setLanesets s v hv) sub

theorem Steps.setLinks (t : State) (v : Tab LinkEnd) (hv : tabWf LinkEnd.reset t.links = true → tabWf LinkEnd.reset v = true) : Steps [.links] t (t.setLinks v) := by
  refine ⟨fun p hp => by cases p <;> first | rfl | exact absurd (List.mem_singleton.mpr rfl) hp, fun w => ?_⟩
  simp only [State.tablesWf, Bool.and_eq_true] at w ⊢
  simp only [State.setLinks] at *
  simp_all
theorem State.setLinks_steps {ps : List Component} {s0 s : State} {v : Tab LinkEnd} (h : Steps ps s0 s) (hv : tabWf LinkEnd.reset s.links = true → tabWf LinkEnd.reset v = true) (sub : ∀ p ∈ [Component.links], p ∈ ps) :
    Steps ps s0 (s.setLinks v) := h.via (Steps.setLinks s v hv) sub

theorem Steps.setGuests (t : State) (v : Tab GuestSite) (hv : tabWf GuestSite.reset t.guests = true → tabWf GuestSite.reset v = true) : Steps [.guests] t (t.setGuests v) := by
  refine ⟨fun p hp => by cases p <;> first | rfl | exact absurd (List.mem_singleton.mpr rfl) hp, fun w => ?_⟩
  simp only [State.tablesWf, Bool.and_eq_true] at w ⊢
  simp only [State.setGuests] at *
  simp_all
theorem State.setGuests_steps {ps : List Component} {s0 s : State} {v : Tab GuestSite} (h : Steps ps s0 s) (hv : tabWf GuestSite.reset s.guests = true → tabWf GuestSite.reset v = true) (sub : ∀ p ∈ [Component.guests], p ∈ ps) :
    Steps ps s0 (s.setGuests v) := h.via (Steps.setGuests s v hv) sub

theorem Steps.setLinkKeys (t : State) (v : Tab LinkKey) (hv : tabWf LinkKey.reset t.linkKeys = true → tabWf LinkKey.reset v = true) : Steps [.linkKeys] t (t.setLinkKeys v) := by
  refine ⟨fun p hp => by cases p <;> first | rfl | exact absurd (List.mem_singleton.mpr rfl) hp, fun w => ?_⟩
  simp only [State.tablesWf, Bool.and_eq_true] at w ⊢
  simp only [State.setLinkKeys] at *
  simp_all
theorem State.setLinkKeys_steps {ps : List Component} {s0 s : State} {v : Tab LinkKey} (h : Steps ps s0 s) (hv : tabWf LinkKey.reset s.linkKeys = true → tabWf LinkKey.reset v = true) (sub : ∀ p ∈ [Component.linkKeys], p ∈ ps) :
    Steps ps s0 (s.setLinkKeys v) := h.via (Steps.setLinkKeys s v hv) sub

theorem Steps.setTimes (t : State) (v : Tab DieTime) (hv : tabWf DieTime.reset t.times = true → tabWf DieTime.reset v = true) : Steps [.times] t (t.setTimes v) := by
  refine ⟨fun p hp => by cases p <;> first | rfl | exact absurd (List.mem_singleton.mpr rfl) hp, fun w => ?_⟩
  simp only [State.tablesWf, Bool.and_eq_true] at w ⊢
  simp only [State.setTimes] at *
  simp_all
theorem State.setTimes_steps {ps : List Component} {s0 s : State} {v : Tab DieTime} (h : Steps ps s0 s) (hv : tabWf DieTime.reset s.times = true → tabWf DieTime.reset v = true) (sub : ∀ p ∈ [Component.times], p ∈ ps) :
    Steps ps s0 (s.setTimes v) := h.via (Steps.setTimes s v hv) sub

theorem Steps.setHpins (t : State) (v : Tab TimingPin) (hv : tabWf TimingPin.reset t.hpins = true → tabWf TimingPin.reset v = true) : Steps [.hpins] t (t.setHpins v) := by
  refine ⟨fun p hp => by cases p <;> first | rfl | exact absurd (List.mem_singleton.mpr rfl) hp, fun w => ?_⟩
  simp only [State.tablesWf, Bool.and_eq_true] at w ⊢
  simp only [State.setHpins] at *
  simp_all
theorem State.setHpins_steps {ps : List Component} {s0 s : State} {v : Tab TimingPin} (h : Steps ps s0 s) (hv : tabWf TimingPin.reset s.hpins = true → tabWf TimingPin.reset v = true) (sub : ∀ p ∈ [Component.hpins], p ∈ ps) :
    Steps ps s0 (s.setHpins v) := h.via (Steps.setHpins s v hv) sub

theorem Steps.setTb (t : State) (v : TimeBase) : Steps [.tb] t (t.setTb v) := by
  refine ⟨fun p hp => by cases p <;> first | rfl | exact absurd (List.mem_singleton.mpr rfl) hp, fun w => ?_⟩
  exact w
theorem State.setTb_steps {ps : List Component} {s0 s : State} {v : TimeBase} (h : Steps ps s0 s) (sub : ∀ p ∈ [Component.tb], p ∈ ps) :
    Steps ps s0 (s.setTb v) := h.via (Steps.setTb s v) sub

theorem Steps.setCfg (t : State) (v : Cfg) : Steps [.cfg] t (t.setCfg v) := by
  refine ⟨fun p hp => by cases p <;> first | rfl | exact absurd (List.mem_singleton.mpr rfl) hp, fun w => ?_⟩
  exact w
theorem State.setCfg_steps {ps : List Component} {s0 s : State} {v : Cfg} (h : Steps ps s0 s) (sub : ∀ p ∈ [Component.cfg], p ∈ ps) :
    Steps ps s0 (s.setCfg v) := h.via (Steps.setCfg s v) sub

theorem Steps.setDram (t : State) (v : Dram) : Steps [.dram] t (t.setDram v) := by
  refine ⟨fun p hp => by cases p <;> first | rfl | exact absurd (List.mem_singleton.mpr rfl) hp, fun w => ?_⟩
  exact w
theorem State.setDram_steps {ps : List Component} {s0 s : State} {v : Dram} (h : Steps ps s0 s) (sub : ∀ p ∈ [Component.dram], p ∈ ps) :
    Steps ps s0 (s.setDram v) := h.via (Steps.setDram s v) sub

theorem Steps.setFlash (t : State) (v : Tab FlashUnit) (hv : tabWf FlashUnit.reset t.flash = true → tabWf FlashUnit.reset v = true) : Steps [.flash] t (t.setFlash v) := by
  refine ⟨fun p hp => by cases p <;> first | rfl | exact absurd (List.mem_singleton.mpr rfl) hp, fun w => ?_⟩
  simp only [State.tablesWf, Bool.and_eq_true] at w ⊢
  simp only [State.setFlash] at *
  simp_all
theorem State.setFlash_steps {ps : List Component} {s0 s : State} {v : Tab FlashUnit} (h : Steps ps s0 s) (hv : tabWf FlashUnit.reset s.flash = true → tabWf FlashUnit.reset v = true) (sub : ∀ p ∈ [Component.flash], p ∈ ps) :
    Steps ps s0 (s.setFlash v) := h.via (Steps.setFlash s v hv) sub

theorem Steps.setFregions (t : State) (v : Tab FlashRegion) (hv : tabWf FlashRegion.reset t.fregions = true → tabWf FlashRegion.reset v = true) : Steps [.fregions] t (t.setFregions v) := by
  refine ⟨fun p hp => by cases p <;> first | rfl | exact absurd (List.mem_singleton.mpr rfl) hp, fun w => ?_⟩
  simp only [State.tablesWf, Bool.and_eq_true] at w ⊢
  simp only [State.setFregions] at *
  simp_all
theorem State.setFregions_steps {ps : List Component} {s0 s : State} {v : Tab FlashRegion} (h : Steps ps s0 s) (hv : tabWf FlashRegion.reset s.fregions = true → tabWf FlashRegion.reset v = true) (sub : ∀ p ∈ [Component.fregions], p ∈ ps) :
    Steps ps s0 (s.setFregions v) := h.via (Steps.setFregions s v hv) sub

theorem Steps.setDma (t : State) (v : Tab DmaCh) (hv : tabWf DmaCh.reset t.dma = true → tabWf DmaCh.reset v = true) : Steps [.dma] t (t.setDma v) := by
  refine ⟨fun p hp => by cases p <;> first | rfl | exact absurd (List.mem_singleton.mpr rfl) hp, fun w => ?_⟩
  simp only [State.tablesWf, Bool.and_eq_true] at w ⊢
  simp only [State.setDma] at *
  simp_all
theorem State.setDma_steps {ps : List Component} {s0 s : State} {v : Tab DmaCh} (h : Steps ps s0 s) (hv : tabWf DmaCh.reset s.dma = true → tabWf DmaCh.reset v = true) (sub : ∀ p ∈ [Component.dma], p ∈ ps) :
    Steps ps s0 (s.setDma v) := h.via (Steps.setDma s v hv) sub

theorem Steps.setDmaLast (t : State) (v : Tab Nat) : Steps [.dmaLast] t (t.setDmaLast v) := by
  refine ⟨fun p hp => by cases p <;> first | rfl | exact absurd (List.mem_singleton.mpr rfl) hp, fun w => ?_⟩
  exact w
theorem State.setDmaLast_steps {ps : List Component} {s0 s : State} {v : Tab Nat} (h : Steps ps s0 s) (sub : ∀ p ∈ [Component.dmaLast], p ∈ ps) :
    Steps ps s0 (s.setDmaLast v) := h.via (Steps.setDmaLast s v) sub

theorem Steps.setGable (t : State) (v : Gable) : Steps [.gable] t (t.setGable v) := by
  refine ⟨fun p hp => by cases p <;> first | rfl | exact absurd (List.mem_singleton.mpr rfl) hp, fun w => ?_⟩
  exact w
theorem State.setGable_steps {ps : List Component} {s0 s : State} {v : Gable} (h : Steps ps s0 s) (sub : ∀ p ∈ [Component.gable], p ∈ ps) :
    Steps ps s0 (s.setGable v) := h.via (Steps.setGable s v) sub

theorem Steps.setClk (t : State) (v : Clocks) : Steps [.clk] t (t.setClk v) := by
  refine ⟨fun p hp => by cases p <;> first | rfl | exact absurd (List.mem_singleton.mpr rfl) hp, fun w => ?_⟩
  exact w
theorem State.setClk_steps {ps : List Component} {s0 s : State} {v : Clocks} (h : Steps ps s0 s) (sub : ∀ p ∈ [Component.clk], p ∈ ps) :
    Steps ps s0 (s.setClk v) := h.via (Steps.setClk s v) sub

theorem Steps.setLog (t : State) (v : Log) : Steps [.log] t (t.setLog v) := by
  refine ⟨fun p hp => by cases p <;> first | rfl | exact absurd (List.mem_singleton.mpr rfl) hp, fun w => ?_⟩
  exact w
theorem State.setLog_steps {ps : List Component} {s0 s : State} {v : Log} (h : Steps ps s0 s) (sub : ∀ p ∈ [Component.log], p ∈ ps) :
    Steps ps s0 (s.setLog v) := h.via (Steps.setLog s v) sub

theorem Steps.setEvr (t : State) (v : Evr) : Steps [.evr] t (t.setEvr v) := by
  refine ⟨fun p hp => by cases p <;> first | rfl | exact absurd (List.mem_singleton.mpr rfl) hp, fun w => ?_⟩
  exact w
theorem State.setEvr_steps {ps : List Component} {s0 s : State} {v : Evr} (h : Steps ps s0 s) (sub : ∀ p ∈ [Component.evr], p ∈ ps) :
    Steps ps s0 (s.setEvr v) := h.via (Steps.setEvr s v) sub

theorem Steps.setSvc (t : State) (v : Svc) : Steps [.svc] t (t.setSvc v) := by
  refine ⟨fun p hp => by cases p <;> first | rfl | exact absurd (List.mem_singleton.mpr rfl) hp, fun w => ?_⟩
  exact w
theorem State.setSvc_steps {ps : List Component} {s0 s : State} {v : Svc} (h : Steps ps s0 s) (sub : ∀ p ∈ [Component.svc], p ∈ ps) :
    Steps ps s0 (s.setSvc v) := h.via (Steps.setSvc s v) sub

theorem Steps.setLad (t : State) (v : Ladder) : Steps [.lad] t (t.setLad v) := by
  refine ⟨fun p hp => by cases p <;> first | rfl | exact absurd (List.mem_singleton.mpr rfl) hp, fun w => ?_⟩
  exact w
theorem State.setLad_steps {ps : List Component} {s0 s : State} {v : Ladder} (h : Steps ps s0 s) (sub : ∀ p ∈ [Component.lad], p ∈ ps) :
    Steps ps s0 (s.setLad v) := h.via (Steps.setLad s v) sub

theorem Steps.setThermtrip (t : State) (v : Bool) : Steps [.thermtrip] t (t.setThermtrip v) := by
  refine ⟨fun p hp => by cases p <;> first | rfl | exact absurd (List.mem_singleton.mpr rfl) hp, fun w => ?_⟩
  exact w
theorem State.setThermtrip_steps {ps : List Component} {s0 s : State} {v : Bool} (h : Steps ps s0 s) (sub : ∀ p ∈ [Component.thermtrip], p ∈ ps) :
    Steps ps s0 (s.setThermtrip v) := h.via (Steps.setThermtrip s v) sub

theorem Steps.setPornLow (t : State) (v : Bool) : Steps [.pornLow] t (t.setPornLow v) := by
  refine ⟨fun p hp => by cases p <;> first | rfl | exact absurd (List.mem_singleton.mpr rfl) hp, fun w => ?_⟩
  exact w
theorem State.setPornLow_steps {ps : List Component} {s0 s : State} {v : Bool} (h : Steps ps s0 s) (sub : ∀ p ∈ [Component.pornLow], p ∈ ps) :
    Steps ps s0 (s.setPornLow v) := h.via (Steps.setPornLow s v) sub

theorem Steps.setSupplyBad (t : State) (v : Bool) : Steps [.supplyBad] t (t.setSupplyBad v) := by
  refine ⟨fun p hp => by cases p <;> first | rfl | exact absurd (List.mem_singleton.mpr rfl) hp, fun w => ?_⟩
  exact w
theorem State.setSupplyBad_steps {ps : List Component} {s0 s : State} {v : Bool} (h : Steps ps s0 s) (sub : ∀ p ∈ [Component.supplyBad], p ∈ ps) :
    Steps ps s0 (s.setSupplyBad v) := h.via (Steps.setSupplyBad s v) sub

theorem Steps.setSupplyOkAt (t : State) (v : Option Nat) : Steps [.supplyOkAt] t (t.setSupplyOkAt v) := by
  refine ⟨fun p hp => by cases p <;> first | rfl | exact absurd (List.mem_singleton.mpr rfl) hp, fun w => ?_⟩
  exact w
theorem State.setSupplyOkAt_steps {ps : List Component} {s0 s : State} {v : Option Nat} (h : Steps ps s0 s) (sub : ∀ p ∈ [Component.supplyOkAt], p ∈ ps) :
    Steps ps s0 (s.setSupplyOkAt v) := h.via (Steps.setSupplyOkAt s v) sub

theorem Steps.setPending (t : State) (v : List Instr) : Steps [.pending] t (t.setPending v) := by
  refine ⟨fun p hp => by cases p <;> first | rfl | exact absurd (List.mem_singleton.mpr rfl) hp, fun w => ?_⟩
  exact w
theorem State.setPending_steps {ps : List Component} {s0 s : State} {v : List Instr} (h : Steps ps s0 s) (sub : ∀ p ∈ [Component.pending], p ∈ ps) :
    Steps ps s0 (s.setPending v) := h.via (Steps.setPending s v) sub

/-! ### The operations of Machine/Ops.lean -/

theorem State.modDie_steps {ps : List Component} {s0 : State} {s : State} {d : Nat} {f : Die → Die} (h : Steps ps s0 s) (sub : ∀ p ∈ [Component.dies], p ∈ ps) :
    Steps ps s0 (State.modDie s d f) := State.setDies_steps h (tabWf_tmod _ _ _ _) sub
theorem State.modGq_steps {ps : List Component} {s0 : State} {s : State} {d q : Nat} {f : Gq → Gq} (h : Steps ps s0 s) (sub : ∀ p ∈ [Component.dies], p ∈ ps) :
    Steps ps s0 (State.modGq s d q f) := State.modDie_steps h sub
theorem State.modBram_steps {ps : List Component} {s0 : State} {s : State} {d m : Nat} {f : Bram → Bram} (h : Steps ps s0 s) (sub : ∀ p ∈ [Component.dies], p ∈ ps) :
    Steps ps s0 (State.modBram s d m f) := State.modDie_steps h sub
theorem State.modSlice_steps {ps : List Component} {s0 : State} {s : State} {d i : Nat} {f : Slice → Slice} (h : Steps ps s0 s) (sub : ∀ p ∈ [Component.dies], p ∈ ps) :
    Steps ps s0 (State.modSlice s d i f) := State.modDie_steps h sub
theorem State.modGroup_steps {ps : List Component} {s0 : State} {s : State} {d g : Nat} {f : Group → Group} (h : Steps ps s0 s) (sub : ∀ p ∈ [Component.dies], p ∈ ps) :
    Steps ps s0 (State.modGroup s d g f) := State.modDie_steps h sub
theorem State.modBay_steps {ps : List Component} {s0 : State} {s : State} {d b : Nat} {f : Bay → Bay} (h : Steps ps s0 s) (sub : ∀ p ∈ [Component.dies], p ∈ ps) :
    Steps ps s0 (State.modBay s d b f) := State.modDie_steps h sub
theorem State.modProbe_steps {ps : List Component} {s0 : State} {s : State} {d : Nat} {f : Probe → Probe} (h : Steps ps s0 s) (sub : ∀ p ∈ [Component.dies], p ∈ ps) :
    Steps ps s0 (State.modProbe s d f) := State.modDie_steps h sub
theorem State.modLeggett_steps {ps : List Component} {s0 : State} {s : State} {d : Nat} {f : Leggett → Leggett} (h : Steps ps s0 s) (sub : ∀ p ∈ [Component.dies], p ∈ ps) :
    Steps ps s0 (State.modLeggett s d f) := State.modDie_steps h sub
theorem State.modRouter_steps {ps : List Component} {s0 : State} {s : State} {n r : Nat} {f : Router → Router} (h : Steps ps s0 s) (sub : ∀ p ∈ [Component.routers], p ∈ ps) :
    Steps ps s0 (State.modRouter s n r f) := State.setRouters_steps h (tabWf_tmod _ _ _ _) sub
theorem State.modMaster_steps {ps : List Component} {s0 : State} {s : State} {mid : BitVec 12} {f : MasterPort → MasterPort} (h : Steps ps s0 s) (sub : ∀ p ∈ [Component.masters], p ∈ ps) :
    Steps ps s0 (State.modMaster s mid f) := State.setMasters_steps h (tabWf_tmod _ _ _ _) sub
theorem State.modFlow_steps {ps : List Component} {s0 : State} {s : State} {i : Nat} {f : Flow → Flow} (h : Steps ps s0 s) (sub : ∀ p ∈ [Component.flows], p ∈ ps) :
    Steps ps s0 (State.modFlow s i f) := State.setFlows_steps h (tabWf_tmod _ _ _ _) sub
theorem State.modLaneset_steps {ps : List Component} {s0 : State} {s : State} {k : Nat} {f : LaneSet → LaneSet} (h : Steps ps s0 s) (sub : ∀ p ∈ [Component.lanesets], p ∈ ps) :
    Steps ps s0 (State.modLaneset s k f) := State.setLanesets_steps h (tabWf_tmod _ _ _ _) sub
theorem State.modLink_steps {ps : List Component} {s0 : State} {s : State} {k : Nat} {f : LinkEnd → LinkEnd} (h : Steps ps s0 s) (sub : ∀ p ∈ [Component.links], p ∈ ps) :
    Steps ps s0 (State.modLink s k f) := State.setLinks_steps h (tabWf_tmod _ _ _ _) sub
theorem State.modGuest_steps {ps : List Component} {s0 : State} {s : State} {k : Nat} {f : GuestSite → GuestSite} (h : Steps ps s0 s) (sub : ∀ p ∈ [Component.guests], p ∈ ps) :
    Steps ps s0 (State.modGuest s k f) := State.setGuests_steps h (tabWf_tmod _ _ _ _) sub
theorem State.modLinkKey_steps {ps : List Component} {s0 : State} {s : State} {k : Nat} {f : LinkKey → LinkKey} (h : Steps ps s0 s) (sub : ∀ p ∈ [Component.linkKeys], p ∈ ps) :
    Steps ps s0 (State.modLinkKey s k f) := State.setLinkKeys_steps h (tabWf_tmod _ _ _ _) sub
theorem State.modTime_steps {ps : List Component} {s0 : State} {s : State} {k : Nat} {f : DieTime → DieTime} (h : Steps ps s0 s) (sub : ∀ p ∈ [Component.times], p ∈ ps) :
    Steps ps s0 (State.modTime s k f) := State.setTimes_steps h (tabWf_tmod _ _ _ _) sub
theorem State.modDram_steps {ps : List Component} {s0 : State} {s : State} {f : Dram → Dram} (h : Steps ps s0 s) (sub : ∀ p ∈ [Component.dram], p ∈ ps) :
    Steps ps s0 (State.modDram s f) := State.setDram_steps h sub
theorem State.modChan_steps {ps : List Component} {s0 : State} {s : State} {n : Nat} {f : Channel → Channel} (h : Steps ps s0 s) (sub : ∀ p ∈ [Component.dram], p ∈ ps) :
    Steps ps s0 (State.modChan s n f) := State.modDram_steps h sub
theorem State.modFunit_steps {ps : List Component} {s0 : State} {s : State} {n : Nat} {f : FlashUnit → FlashUnit} (h : Steps ps s0 s) (sub : ∀ p ∈ [Component.flash], p ∈ ps) :
    Steps ps s0 (State.modFunit s n f) := State.setFlash_steps h (tabWf_tmod _ _ _ _) sub
theorem State.modDma_steps {ps : List Component} {s0 : State} {s : State} {c : Nat} {f : DmaCh → DmaCh} (h : Steps ps s0 s) (sub : ∀ p ∈ [Component.dma], p ∈ ps) :
    Steps ps s0 (State.modDma s c f) := State.setDma_steps h (tabWf_tmod _ _ _ _) sub
theorem State.modGable_steps {ps : List Component} {s0 : State} {s : State} {f : Gable → Gable} (h : Steps ps s0 s) (sub : ∀ p ∈ [Component.gable], p ∈ ps) :
    Steps ps s0 (State.modGable s f) := State.setGable_steps h sub
theorem State.modMbx_steps {ps : List Component} {s0 : State} {s : State} {m : Nat} {f : Mbx → Mbx} (h : Steps ps s0 s) (sub : ∀ p ∈ [Component.gable], p ∈ ps) :
    Steps ps s0 (State.modMbx s m f) := State.modGable_steps h sub
theorem State.modCfg_steps {ps : List Component} {s0 : State} {s : State} {f : Cfg → Cfg} (h : Steps ps s0 s) (sub : ∀ p ∈ [Component.cfg], p ∈ ps) :
    Steps ps s0 (State.modCfg s f) := State.setCfg_steps h sub
theorem State.modClk_steps {ps : List Component} {s0 : State} {s : State} {f : Clocks → Clocks} (h : Steps ps s0 s) (sub : ∀ p ∈ [Component.clk], p ∈ ps) :
    Steps ps s0 (State.modClk s f) := State.setClk_steps h sub
theorem State.modNode_steps {ps : List Component} {s0 : State} {s : State} {c : Nat} {f : ClkNode → ClkNode} (h : Steps ps s0 s) (sub : ∀ p ∈ [Component.clk], p ∈ ps) :
    Steps ps s0 (State.modNode s c f) := State.modClk_steps h sub
theorem State.modLog_steps {ps : List Component} {s0 : State} {s : State} {f : Log → Log} (h : Steps ps s0 s) (sub : ∀ p ∈ [Component.log], p ∈ ps) :
    Steps ps s0 (State.modLog s f) := State.setLog_steps h sub
theorem State.modEvr_steps {ps : List Component} {s0 : State} {s : State} {f : Evr → Evr} (h : Steps ps s0 s) (sub : ∀ p ∈ [Component.evr], p ∈ ps) :
    Steps ps s0 (State.modEvr s f) := State.setEvr_steps h sub
theorem State.modSvc_steps {ps : List Component} {s0 : State} {s : State} {f : Svc → Svc} (h : Steps ps s0 s) (sub : ∀ p ∈ [Component.svc], p ∈ ps) :
    Steps ps s0 (State.modSvc s f) := State.setSvc_steps h sub
theorem State.modLad_steps {ps : List Component} {s0 : State} {s : State} {f : Ladder → Ladder} (h : Steps ps s0 s) (sub : ∀ p ∈ [Component.lad], p ∈ ps) :
    Steps ps s0 (State.modLad s f) := State.setLad_steps h sub
theorem State.modTb_steps {ps : List Component} {s0 : State} {s : State} {f : TimeBase → TimeBase} (h : Steps ps s0 s) (sub : ∀ p ∈ [Component.tb], p ∈ ps) :
    Steps ps s0 (State.modTb s f) := State.setTb_steps h sub
theorem State.modTpin_steps {ps : List Component} {s0 : State} {s : State} {d n : Nat} {f : TimingPin → TimingPin} (h : Steps ps s0 s) (sub : ∀ p ∈ [Component.dies, .hpins], p ∈ ps) :
    Steps ps s0 (State.modTpin s d n f) := by
  unfold State.modTpin
  exact Steps.ite (fun _ => State.setHpins_steps h (tabWf_tmod _ _ _ _) fun p hp => sub p (by simp_all))
    (fun _ => State.modDie_steps h fun p hp => sub p (by simp_all))
theorem State.drew_steps {ps : List Component} {s0 : State} {s : State} {n : Nat} (h : Steps ps s0 s) (sub : ∀ p ∈ [Component.free], p ∈ ps) :
    Steps ps s0 (State.drew s n) := State.setFree_steps h sub

end Sys2Proof.Machine
end

