-- ==== Sys2Proof/Laws/Steps1.lean ====
section
/-! SUPPORT. Part 1 of the step lemmas: for each operation of the machine, which components of State it may change, and that it keeps
    every table's canonical form. Each lemma cites those of the operations it calls; none unfolds a callee. -/

open Sys2Proof
namespace Sys2Proof.Machine

set_option linter.all false
set_option Elab.async false

theorem recoveryTables_wf : tabWf AclTable.reset recoveryTables = true := by decide +kernel

theorem State.modAcl_steps {parts : List Component} {s0 : State} {s : State} {tid : Nat} {f : AclTable → AclTable}
    (h0 : Steps parts s0 s) (hsub : ∀ p ∈ [Component.acls], p ∈ parts) : Steps parts s0 (State.modAcl s tid f) := by
  refine Steps.via (ps := parts) (qs := [Component.acls]) h0 ?_ hsub
  clear h0 hsub
  unfold State.modAcl
  try dsimp only
  repeat' (first
    | with_reducible apply Steps.ite <;> intro _
    | with_reducible exact Steps.refl _ _
    | with_reducible assumption
    | with_reducible apply State.setAcls_steps
    | with_reducible refine Steps.foldl _ _ (fun u a h => ?_) ?_
    | with_reducible exact tabWf_tmod _ _ _ _
    | with_reducible exact tabWf_tput _ _ _ _
    | with_reducible exact tabWf_tmodAll _ _ _ _
    | with_reducible exact fun _ => tabWf_nil _
    | with_reducible exact fun _ h => h
    | decide +kernel
    | split
    | dsimp only)

theorem State.answer_steps {parts : List Component} {s0 : State} {s : State} {resp : BitVec 3} {data : BitVec 64}
    (h0 : Steps parts s0 s) (hsub : ∀ p ∈ [Component.rsp], p ∈ parts) : Steps parts s0 (State.answer s resp data) := by
  refine Steps.via (ps := parts) (qs := [Component.rsp]) h0 ?_ hsub
  clear h0 hsub
  unfold State.answer
  try dsimp only
  repeat' (first
    | with_reducible apply Steps.ite <;> intro _
    | with_reducible exact Steps.refl _ _
    | with_reducible assumption
    | with_reducible apply State.setRsp_steps
    | with_reducible refine Steps.foldl _ _ (fun u a h => ?_) ?_
    | with_reducible exact fun _ h => h
    | decide +kernel
    | split
    | dsimp only)

theorem regOk_steps {ps : List Component} {s0 s : State} {v : Nat} (h : Steps ps s0 s) : Steps ps s0 (regOk s v).1 := h

theorem regErr_steps {ps : List Component} {s0 s : State} (h : Steps ps s0 s) : Steps ps s0 (regErr s).1 := h

theorem regDenied_steps {ps : List Component} {s0 s : State} (h : Steps ps s0 s) : Steps ps s0 (regDenied s).1 := h

theorem State.inject_steps {parts : List Component} {s0 : State} {s : State} {node r p : Nat} {k : Pkt}
    (h0 : Steps parts s0 s) (hsub : ∀ p ∈ [Component.routers], p ∈ parts) : Steps parts s0 (State.inject s node r p k) := by
  refine Steps.via (ps := parts) (qs := [Component.routers]) h0 ?_ hsub
  clear h0 hsub
  unfold State.inject
  try dsimp only
  repeat' (first
    | with_reducible apply Steps.ite <;> intro _
    | with_reducible exact Steps.refl _ _
    | with_reducible assumption
    | with_reducible apply State.modRouter_steps
    | with_reducible refine Steps.foldl _ _ (fun u a h => ?_) ?_
    | with_reducible exact fun _ h => h
    | decide +kernel
    | split
    | dsimp only)

theorem State.raiseHub_steps {parts : List Component} {s0 : State} {s : State} {evid data : Nat} {note : Option LogEntry}
    (h0 : Steps parts s0 s) (hsub : ∀ p ∈ [Component.evr], p ∈ parts) : Steps parts s0 (State.raiseHub s evid data note) := by
  refine Steps.via (ps := parts) (qs := [Component.evr]) h0 ?_ hsub
  clear h0 hsub
  unfold State.raiseHub
  try dsimp only
  repeat' (first
    | with_reducible apply Steps.ite <;> intro _
    | with_reducible exact Steps.refl _ _
    | with_reducible assumption
    | with_reducible apply State.modEvr_steps
    | with_reducible refine Steps.foldl _ _ (fun u a h => ?_) ?_
    | with_reducible exact fun _ h => h
    | decide +kernel
    | split
    | dsimp only)

theorem State.raiseEvent_steps {parts : List Component} {s0 : State} {s : State} {node evid data : Nat} {note : Option LogEntry}
    (h0 : Steps parts s0 s) (hsub : ∀ p ∈ [Component.routers, .evr], p ∈ parts) : Steps parts s0 (State.raiseEvent s node evid data note) := by
  refine Steps.via (ps := parts) (qs := [Component.routers, .evr]) h0 ?_ hsub
  clear h0 hsub
  unfold State.raiseEvent
  try dsimp only
  repeat' (first
    | with_reducible apply Steps.ite <;> intro _
    | with_reducible exact Steps.refl _ _
    | with_reducible assumption
    | with_reducible apply State.inject_steps
    | with_reducible apply State.raiseHub_steps
    | with_reducible refine Steps.foldl _ _ (fun u a h => ?_) ?_
    | with_reducible exact fun _ h => h
    | decide +kernel
    | split
    | dsimp only)

theorem State.noteDenial_steps {parts : List Component} {s0 : State} {s : State} {node tid : Nat} {k : Pkt} {discarded : Bool}
    (h0 : Steps parts s0 s) (hsub : ∀ p ∈ [Component.routers, .log, .evr], p ∈ parts) : Steps parts s0 (State.noteDenial s node tid k discarded) := by
  refine Steps.via (ps := parts) (qs := [Component.routers, .log, .evr]) h0 ?_ hsub
  clear h0 hsub
  unfold State.noteDenial
  try dsimp only
  repeat' (first
    | with_reducible apply Steps.ite <;> intro _
    | with_reducible exact Steps.refl _ _
    | with_reducible assumption
    | with_reducible apply State.modLog_steps
    | with_reducible apply State.raiseEvent_steps
    | with_reducible apply State.setLog_steps
    | with_reducible refine Steps.foldl _ _ (fun u a h => ?_) ?_
    | with_reducible exact fun _ h => h
    | decide +kernel
    | split
    | dsimp only)

theorem State.access_steps {ps : List Component} {s0 s : State} {w : Who} {addr : Nat} {write : Bool} {body : State → RegRes}
    (h : Steps ps s0 s) (hb : ∀ u, Steps ps s0 u → Steps ps s0 (body u).1) (sub : ∀ p ∈ [Component.rsp, .routers, .log, .evr], p ∈ ps) :
    Steps ps s0 (State.access s w addr write body) := by
  unfold State.access
  split
  · exact State.answer_steps h fun p hp => sub p (by simp_all)
  · dsimp only
    split
    · split
      · exact State.answer_steps (State.noteDenial_steps h fun p hp => sub p (by simp_all)) fun p hp => sub p (by simp_all)
      · exact State.answer_steps (hb _ h) fun p hp => sub p (by simp_all)
    · exact State.answer_steps (State.noteDenial_steps h fun p hp => sub p (by simp_all)) fun p hp => sub p (by simp_all)

theorem needPriv_steps {ps : List Component} {s0 s : State} {w : Who} {r : RegRes} (h : Steps ps s0 s) (hr : Steps ps s0 r.1) :
    Steps ps s0 (needPriv w s r).1 := by unfold needPriv; split; exacts [hr, h]

theorem putWords_steps {ps : List Component} {s0 s : State} {wr : State → Nat → Nat → State} {off v : Nat} {eight : Bool}
    (hw : ∀ u a b, Steps ps s0 u → Steps ps s0 (wr u a b)) (h : Steps ps s0 s) : Steps ps s0 (putWords wr s off eight v) := by
  unfold putWords; split
  · exact hw _ _ _ (hw _ _ _ h)
  · exact hw _ _ _ h

theorem State.respond_steps {parts : List Component} {s0 : State} {s : State} {node r p : Nat} {k : Pkt} {resp : BitVec 3} {data : List (BitVec 8)}
    (h0 : Steps parts s0 s) (hsub : ∀ p ∈ [Component.free, .routers], p ∈ parts) : Steps parts s0 (State.respond s node r p k resp data) := by
  refine Steps.via (ps := parts) (qs := [Component.free, .routers]) h0 ?_ hsub
  clear h0 hsub
  unfold State.respond
  try dsimp only
  repeat' (first
    | with_reducible apply Steps.ite <;> intro _
    | with_reducible exact Steps.refl _ _
    | with_reducible assumption
    | with_reducible apply State.drew_steps
    | with_reducible apply State.inject_steps
    | with_reducible refine Steps.foldl _ _ (fun u a h => ?_) ?_
    | with_reducible exact fun _ h => h
    | decide +kernel
    | split
    | dsimp only)

theorem State.setBram_steps {parts : List Component} {s0 : State} {s : State} {d m : Nat} {image : BitVec 64}
    (h0 : Steps parts s0 s) (hsub : ∀ p ∈ [Component.dies], p ∈ parts) : Steps parts s0 (State.setBram s d m image) := by
  refine Steps.via (ps := parts) (qs := [Component.dies]) h0 ?_ hsub
  clear h0 hsub
  unfold State.setBram
  try dsimp only
  repeat' (first
    | with_reducible apply Steps.ite <;> intro _
    | with_reducible exact Steps.refl _ _
    | with_reducible assumption
    | with_reducible apply State.modBram_steps
    | with_reducible refine Steps.foldl _ _ (fun u a h => ?_) ?_
    | with_reducible exact fun _ h => h
    | decide +kernel
    | split
    | dsimp only)

theorem State.setGroup_steps {parts : List Component} {s0 : State} {s : State} {d g : Nat} {image : BitVec 64}
    (h0 : Steps parts s0 s) (hsub : ∀ p ∈ [Component.dies], p ∈ parts) : Steps parts s0 (State.setGroup s d g image) := by
  refine Steps.via (ps := parts) (qs := [Component.dies]) h0 ?_ hsub
  clear h0 hsub
  unfold State.setGroup
  try dsimp only
  repeat' (first
    | with_reducible apply Steps.ite <;> intro _
    | with_reducible exact Steps.refl _ _
    | with_reducible assumption
    | with_reducible apply State.modGroup_steps
    | with_reducible refine Steps.foldl _ _ (fun u a h => ?_) ?_
    | with_reducible exact fun _ h => h
    | decide +kernel
    | split
    | dsimp only)

theorem State.setBayParts_steps {parts : List Component} {s0 : State} {s : State} {d b : Nat} {image : BitVec 64}
    (h0 : Steps parts s0 s) (hsub : ∀ p ∈ [Component.dies], p ∈ parts) : Steps parts s0 (State.setBayParts s d b image) := by
  refine Steps.via (ps := parts) (qs := [Component.dies]) h0 ?_ hsub
  clear h0 hsub
  unfold State.setBayParts
  try dsimp only
  repeat' (first
    | with_reducible apply Steps.ite <;> intro _
    | with_reducible exact Steps.refl _ _
    | with_reducible assumption
    | with_reducible apply State.setBram_steps
    | with_reducible apply State.setGroup_steps
    | with_reducible refine Steps.foldl _ _ (fun u a h => ?_) ?_
    | with_reducible exact fun _ h => h
    | decide +kernel
    | split
    | dsimp only)

theorem State.slBits_steps {parts : List Component} {s0 : State} {s : State} {d g : Nat} {starts halts : List Nat}
    (h0 : Steps parts s0 s) (hsub : ∀ p ∈ [Component.dies], p ∈ parts) : Steps parts s0 (State.slBits s d g starts halts) := by
  refine Steps.via (ps := parts) (qs := [Component.dies]) h0 ?_ hsub
  clear h0 hsub
  unfold State.slBits
  try dsimp only
  repeat' (first
    | with_reducible apply Steps.ite <;> intro _
    | with_reducible exact Steps.refl _ _
    | with_reducible assumption
    | with_reducible apply State.modSlice_steps
    | with_reducible refine Steps.foldl _ _ (fun u a h => ?_) ?_
    | with_reducible exact fun _ h => h
    | decide +kernel
    | split
    | dsimp only)

theorem State.slHeld_steps {parts : List Component} {s0 : State} {s : State} {d g : Nat} {es : List (Nat × Nat × BitVec 2)}
    (h0 : Steps parts s0 s) (hsub : ∀ p ∈ [Component.dies], p ∈ parts) : Steps parts s0 (State.slHeld s d g es) := by
  refine Steps.via (ps := parts) (qs := [Component.dies]) h0 ?_ hsub
  clear h0 hsub
  unfold State.slHeld
  try dsimp only
  repeat' (first
    | with_reducible apply Steps.ite <;> intro _
    | with_reducible exact Steps.refl _ _
    | with_reducible assumption
    | with_reducible apply State.slBits_steps
    | with_reducible refine Steps.foldl _ _ (fun u a h => ?_) ?_
    | with_reducible exact fun _ h => h
    | decide +kernel
    | split
    | dsimp only)

theorem State.unfreeze_steps {parts : List Component} {s0 : State} {s : State} {d g : Nat}
    (h0 : Steps parts s0 s) (hsub : ∀ p ∈ [Component.dies, .lad], p ∈ parts) : Steps parts s0 (State.unfreeze s d g) := by
  refine Steps.via (ps := parts) (qs := [Component.dies, .lad]) h0 ?_ hsub
  clear h0 hsub
  unfold State.unfreeze
  try dsimp only
  repeat' (first
    | with_reducible apply Steps.ite <;> intro _
    | with_reducible exact Steps.refl _ _
    | with_reducible assumption
    | with_reducible apply State.modGroup_steps
    | with_reducible apply State.modLad_steps
    | with_reducible apply State.slHeld_steps
    | with_reducible refine Steps.foldl _ _ (fun u a h => ?_) ?_
    | with_reducible exact fun _ h => h
    | decide +kernel
    | split
    | dsimp only)

theorem State.setDrain_steps {parts : List Component} {s0 : State} {s : State} {d b : Nat} {v : Bool}
    (h0 : Steps parts s0 s) (hsub : ∀ p ∈ [Component.routers], p ∈ parts) : Steps parts s0 (State.setDrain s d b v) := by
  refine Steps.via (ps := parts) (qs := [Component.routers]) h0 ?_ hsub
  clear h0 hsub
  unfold State.setDrain
  try dsimp only
  repeat' (first
    | with_reducible apply Steps.ite <;> intro _
    | with_reducible exact Steps.refl _ _
    | with_reducible assumption
    | with_reducible apply State.modRouter_steps
    | with_reducible refine Steps.foldl _ _ (fun u a h => ?_) ?_
    | with_reducible exact fun _ h => h
    | decide +kernel
    | split
    | dsimp only)

theorem State.countLate_steps {parts : List Component} {s0 : State} {s : State} {mid : BitVec 12}
    (h0 : Steps parts s0 s) (hsub : ∀ p ∈ [Component.routers, .masters], p ∈ parts) : Steps parts s0 (State.countLate s mid) := by
  refine Steps.via (ps := parts) (qs := [Component.routers, .masters]) h0 ?_ hsub
  clear h0 hsub
  unfold State.countLate
  try dsimp only
  repeat' (first
    | with_reducible apply Steps.ite <;> intro _
    | with_reducible exact Steps.refl _ _
    | with_reducible assumption
    | with_reducible apply State.modMaster_steps
    | with_reducible apply State.modRouter_steps
    | with_reducible refine Steps.foldl _ _ (fun u a h => ?_) ?_
    | with_reducible exact fun _ h => h
    | decide +kernel
    | split
    | dsimp only)

theorem State.discardRsp_steps {parts : List Component} {s0 : State} {s : State} {mid : BitVec 12} {tag : BitVec 10}
    (h0 : Steps parts s0 s) (hsub : ∀ p ∈ [Component.routers, .masters], p ∈ parts) : Steps parts s0 (State.discardRsp s mid tag) := by
  refine Steps.via (ps := parts) (qs := [Component.routers, .masters]) h0 ?_ hsub
  clear h0 hsub
  unfold State.discardRsp
  try dsimp only
  repeat' (first
    | with_reducible apply Steps.ite <;> intro _
    | with_reducible exact Steps.refl _ _
    | with_reducible assumption
    | with_reducible apply State.countLate_steps
    | with_reducible apply State.modMaster_steps
    | with_reducible refine Steps.foldl _ _ (fun u a h => ?_) ?_
    | with_reducible exact fun _ h => h
    | decide +kernel
    | split
    | dsimp only)

theorem State.dropRsps_steps {parts : List Component} {s0 : State} {s : State} {d b : Nat}
    (h0 : Steps parts s0 s) (hsub : ∀ p ∈ [Component.routers, .masters], p ∈ parts) : Steps parts s0 (State.dropRsps s d b) := by
  refine Steps.via (ps := parts) (qs := [Component.routers, .masters]) h0 ?_ hsub
  clear h0 hsub
  unfold State.dropRsps
  try dsimp only
  repeat' (first
    | with_reducible apply Steps.ite <;> intro _
    | with_reducible exact Steps.refl _ _
    | with_reducible assumption
    | with_reducible apply State.discardRsp_steps
    | with_reducible apply State.modMaster_steps
    | with_reducible refine Steps.foldl _ _ (fun u a h => ?_) ?_
    | with_reducible exact fun _ h => h
    | decide +kernel
    | split
    | dsimp only)

theorem State.cutSending_steps {parts : List Component} {s0 : State} {s : State} {d b : Nat}
    (h0 : Steps parts s0 s) (hsub : ∀ p ∈ [Component.routers, .masters], p ∈ parts) : Steps parts s0 (State.cutSending s d b) := by
  refine Steps.via (ps := parts) (qs := [Component.routers, .masters]) h0 ?_ hsub
  clear h0 hsub
  unfold State.cutSending
  try dsimp only
  repeat' (first
    | with_reducible apply Steps.ite <;> intro _
    | with_reducible exact Steps.refl _ _
    | with_reducible assumption
    | with_reducible apply State.modMaster_steps
    | with_reducible apply State.modRouter_steps
    | with_reducible refine Steps.foldl _ _ (fun u a h => ?_) ?_
    | with_reducible exact fun _ h => h
    | decide +kernel
    | split
    | dsimp only)

theorem State.countDiscard_steps {parts : List Component} {s0 : State} {s : State} {node r : Nat}
    (h0 : Steps parts s0 s) (hsub : ∀ p ∈ [Component.routers], p ∈ parts) : Steps parts s0 (State.countDiscard s node r) := by
  refine Steps.via (ps := parts) (qs := [Component.routers]) h0 ?_ hsub
  clear h0 hsub
  unfold State.countDiscard
  try dsimp only
  repeat' (first
    | with_reducible apply Steps.ite <;> intro _
    | with_reducible exact Steps.refl _ _
    | with_reducible assumption
    | with_reducible apply State.modRouter_steps
    | with_reducible refine Steps.foldl _ _ (fun u a h => ?_) ?_
    | with_reducible exact fun _ h => h
    | decide +kernel
    | split
    | dsimp only)

theorem State.denyAtPort_steps {parts : List Component} {s0 : State} {s : State} {node r p : Nat} {k : Pkt}
    (h0 : Steps parts s0 s) (hsub : ∀ p ∈ [Component.free, .routers, .log, .evr], p ∈ parts) : Steps parts s0 (State.denyAtPort s node r p k) := by
  refine Steps.via (ps := parts) (qs := [Component.free, .routers, .log, .evr]) h0 ?_ hsub
  clear h0 hsub
  unfold State.denyAtPort
  try dsimp only
  repeat' (first
    | with_reducible apply Steps.ite <;> intro _
    | with_reducible exact Steps.refl _ _
    | with_reducible assumption
    | with_reducible apply State.noteDenial_steps
    | with_reducible apply State.respond_steps
    | with_reducible refine Steps.foldl _ _ (fun u a h => ?_) ?_
    | with_reducible exact fun _ h => h
    | decide +kernel
    | split
    | dsimp only)

theorem State.toDrained_steps {parts : List Component} {s0 : State} {s : State} {node r p : Nat} {k : Pkt}
    (h0 : Steps parts s0 s) (hsub : ∀ p ∈ [Component.free, .routers, .masters, .log, .evr], p ∈ parts) : Steps parts s0 (State.toDrained s node r p k) := by
  refine Steps.via (ps := parts) (qs := [Component.free, .routers, .masters, .log, .evr]) h0 ?_ hsub
  clear h0 hsub
  unfold State.toDrained
  try dsimp only
  repeat' (first
    | with_reducible apply Steps.ite <;> intro _
    | with_reducible exact Steps.refl _ _
    | with_reducible assumption
    | with_reducible apply State.countDiscard_steps
    | with_reducible apply State.denyAtPort_steps
    | with_reducible apply State.discardRsp_steps
    | with_reducible apply State.respond_steps
    | with_reducible refine Steps.foldl _ _ (fun u a h => ?_) ?_
    | with_reducible exact fun _ h => h
    | decide +kernel
    | split
    | dsimp only)

theorem State.disposeAtPort_steps {parts : List Component} {s0 : State} {s : State} {d b : Nat}
    (h0 : Steps parts s0 s) (hsub : ∀ p ∈ [Component.free, .routers, .masters, .log, .evr], p ∈ parts) : Steps parts s0 (State.disposeAtPort s d b) := by
  refine Steps.via (ps := parts) (qs := [Component.free, .routers, .masters, .log, .evr]) h0 ?_ hsub
  clear h0 hsub
  unfold State.disposeAtPort
  try dsimp only
  repeat' (first
    | with_reducible apply Steps.ite <;> intro _
    | with_reducible exact Steps.refl _ _
    | with_reducible assumption
    | with_reducible apply State.modRouter_steps
    | with_reducible apply State.toDrained_steps
    | with_reducible refine Steps.foldl _ _ (fun u a h => ?_) ?_
    | with_reducible exact fun _ h => h
    | decide +kernel
    | split
    | dsimp only)

theorem State.reclaim_steps {parts : List Component} {s0 : State} {s : State} {d b : Nat}
    (h0 : Steps parts s0 s) (hsub : ∀ p ∈ [Component.routers], p ∈ parts) : Steps parts s0 (State.reclaim s d b) := by
  refine Steps.via (ps := parts) (qs := [Component.routers]) h0 ?_ hsub
  clear h0 hsub
  unfold State.reclaim
  try dsimp only
  repeat' (first
    | with_reducible apply Steps.ite <;> intro _
    | with_reducible exact Steps.refl _ _
    | with_reducible assumption
    | with_reducible apply State.modRouter_steps
    | with_reducible refine Steps.foldl _ _ (fun u a h => ?_) ?_
    | with_reducible exact fun _ h => h
    | decide +kernel
    | split
    | dsimp only)

theorem State.clampBay_steps {parts : List Component} {s0 : State} {s : State} {d b : Nat} {drain : Bool}
    (h0 : Steps parts s0 s) (hsub : ∀ p ∈ [Component.dies, .routers, .masters, .lad], p ∈ parts) : Steps parts s0 (State.clampBay s d b drain) := by
  refine Steps.via (ps := parts) (qs := [Component.dies, .routers, .masters, .lad]) h0 ?_ hsub
  clear h0 hsub
  unfold State.clampBay
  try dsimp only
  repeat' (first
    | with_reducible apply Steps.ite <;> intro _
    | with_reducible exact Steps.refl _ _
    | with_reducible assumption
    | with_reducible apply State.cutSending_steps
    | with_reducible apply State.dropRsps_steps
    | with_reducible apply State.modBay_steps
    | with_reducible apply State.modRouter_steps
    | with_reducible apply State.setDrain_steps
    | with_reducible apply State.slBits_steps
    | with_reducible apply State.unfreeze_steps
    | with_reducible refine Steps.foldl _ _ (fun u a h => ?_) ?_
    | with_reducible exact fun _ h => h
    | decide +kernel
    | split
    | dsimp only)

theorem State.countCorr_steps {parts : List Component} {s0 : State} {s : State} {node r : Nat} {k : Pkt} {u : FlitUpset}
    (h0 : Steps parts s0 s) (hsub : ∀ p ∈ [Component.routers], p ∈ parts) : Steps parts s0 (State.countCorr s node r k u) := by
  refine Steps.via (ps := parts) (qs := [Component.routers]) h0 ?_ hsub
  clear h0 hsub
  unfold State.countCorr
  try dsimp only
  repeat' (first
    | with_reducible apply Steps.ite <;> intro _
    | with_reducible exact Steps.refl _ _
    | with_reducible assumption
    | with_reducible apply State.modRouter_steps
    | with_reducible refine Steps.foldl _ _ (fun u a h => ?_) ?_
    | with_reducible exact fun _ h => h
    | decide +kernel
    | split
    | dsimp only)

theorem State.raiseSliceUe_steps {parts : List Component} {s0 : State} {s : State} {d i mem word reader tpc : Nat} {scrub : Bool}
    (h0 : Steps parts s0 s) (hsub : ∀ p ∈ [Component.routers, .evr], p ∈ parts) : Steps parts s0 (State.raiseSliceUe s d i mem word reader tpc scrub) := by
  refine Steps.via (ps := parts) (qs := [Component.routers, .evr]) h0 ?_ hsub
  clear h0 hsub
  unfold State.raiseSliceUe
  try dsimp only
  repeat' (first
    | with_reducible apply Steps.ite <;> intro _
    | with_reducible exact Steps.refl _ _
    | with_reducible assumption
    | with_reducible apply State.raiseEvent_steps
    | with_reducible refine Steps.foldl _ _ (fun u a h => ?_) ?_
    | with_reducible exact fun _ h => h
    | decide +kernel
    | split
    | dsimp only)

theorem slWinRead_steps {parts : List Component} {s0 : State} {s : State} {d i mem a : Nat} {u : Sys2Proof.Upset}
    (h0 : Steps parts s0 s) (hsub : ∀ p ∈ [Component.free, .dies, .routers, .evr], p ∈ parts) : Steps parts s0 (slWinRead s d i mem a u).1 := by
  refine Steps.via (ps := parts) (qs := [Component.free, .dies, .routers, .evr]) h0 ?_ hsub
  clear h0 hsub
  unfold slWinRead
  try dsimp only
  repeat' (first
    | with_reducible apply Steps.ite <;> intro _
    | with_reducible apply Steps.ite_fst <;> intro _
    | with_reducible exact Steps.refl _ _
    | with_reducible assumption
    | with_reducible apply State.countCorr_steps
    | with_reducible apply State.drew_steps
    | with_reducible apply State.modSlice_steps
    | with_reducible apply State.raiseSliceUe_steps
    | with_reducible refine Steps.foldl _ _ (fun u a h => ?_) ?_
    | with_reducible refine Steps.of_fst ?_ (by assumption)
    | with_reducible exact fun _ h => h
    | decide +kernel
    | split
    | dsimp only)

theorem slWinWrite_steps {parts : List Component} {s0 : State} {s : State} {d i mem a v : Nat}
    (h0 : Steps parts s0 s) (hsub : ∀ p ∈ [Component.dies], p ∈ parts) : Steps parts s0 (slWinWrite s d i mem a v) := by
  refine Steps.via (ps := parts) (qs := [Component.dies]) h0 ?_ hsub
  clear h0 hsub
  unfold slWinWrite
  try dsimp only
  repeat' (first
    | with_reducible apply Steps.ite <;> intro _
    | with_reducible exact Steps.refl _ _
    | with_reducible assumption
    | with_reducible apply State.modSlice_steps
    | with_reducible refine Steps.foldl _ _ (fun u a h => ?_) ?_
    | with_reducible exact fun _ h => h
    | decide +kernel
    | split
    | dsimp only)

theorem State.serveWin_steps {parts : List Component} {s0 : State} {s : State} {d : Nat} {e : WinAcc}
    (h0 : Steps parts s0 s) (hsub : ∀ p ∈ [Component.free, .rsp, .dies, .routers, .evr], p ∈ parts) : Steps parts s0 (State.serveWin s d e) := by
  refine Steps.via (ps := parts) (qs := [Component.free, .rsp, .dies, .routers, .evr]) h0 ?_ hsub
  clear h0 hsub
  unfold State.serveWin
  try dsimp only
  repeat' (first
    | with_reducible apply Steps.ite <;> intro _
    | with_reducible apply Steps.ite_fst <;> intro _
    | with_reducible exact Steps.refl _ _
    | with_reducible assumption
    | with_reducible apply State.answer_steps
    | with_reducible apply State.respond_steps
    | with_reducible apply slWinRead_steps
    | with_reducible apply slWinWrite_steps
    | with_reducible refine Steps.foldl _ _ (fun u a h => ?_) ?_
    | with_reducible refine Steps.of_fst ?_ (by assumption)
    | with_reducible exact fun _ h => h
    | decide +kernel
    | split
    | dsimp only)

theorem State.serveWins_steps {parts : List Component} {s0 : State} {s : State} {d : Nat} {which : WinAcc → Bool}
    (h0 : Steps parts s0 s) (hsub : ∀ p ∈ [Component.free, .rsp, .dies, .routers, .evr], p ∈ parts) : Steps parts s0 (State.serveWins s d which) := by
  refine Steps.via (ps := parts) (qs := [Component.free, .rsp, .dies, .routers, .evr]) h0 ?_ hsub
  clear h0 hsub
  unfold State.serveWins
  try dsimp only
  repeat' (first
    | with_reducible apply Steps.ite <;> intro _
    | with_reducible exact Steps.refl _ _
    | with_reducible assumption
    | with_reducible apply State.modDie_steps
    | with_reducible apply State.serveWin_steps
    | with_reducible refine Steps.foldl _ _ (fun u a h => ?_) ?_
    | with_reducible exact fun _ h => h
    | decide +kernel
    | split
    | dsimp only)

theorem State.groupRegs_steps {parts : List Component} {s0 : State} {s : State} {d g : Nat} {image : BitVec 64}
    (h0 : Steps parts s0 s) (hsub : ∀ p ∈ [Component.free, .rsp, .dies, .routers, .evr], p ∈ parts) : Steps parts s0 (State.groupRegs s d g image) := by
  refine Steps.via (ps := parts) (qs := [Component.free, .rsp, .dies, .routers, .evr]) h0 ?_ hsub
  clear h0 hsub
  unfold State.groupRegs
  try dsimp only
  repeat' (first
    | with_reducible apply Steps.ite <;> intro _
    | with_reducible exact Steps.refl _ _
    | with_reducible assumption
    | with_reducible apply State.modSlice_steps
    | with_reducible apply State.serveWins_steps
    | with_reducible refine Steps.foldl _ _ (fun u a h => ?_) ?_
    | with_reducible exact fun _ h => h
    | decide +kernel
    | split
    | dsimp only)

theorem State.resetGroup_steps {parts : List Component} {s0 : State} {s : State} {d g : Nat} {image : BitVec 64}
    (h0 : Steps parts s0 s) (hsub : ∀ p ∈ [Component.free, .rsp, .dies, .routers, .evr], p ∈ parts) : Steps parts s0 (State.resetGroup s d g image) := by
  refine Steps.via (ps := parts) (qs := [Component.free, .rsp, .dies, .routers, .evr]) h0 ?_ hsub
  clear h0 hsub
  unfold State.resetGroup
  try dsimp only
  repeat' (first
    | with_reducible apply Steps.ite <;> intro _
    | with_reducible exact Steps.refl _ _
    | with_reducible assumption
    | with_reducible apply State.groupRegs_steps
    | with_reducible apply State.slBits_steps
    | with_reducible refine Steps.foldl _ _ (fun u a h => ?_) ?_
    | with_reducible exact fun _ h => h
    | decide +kernel
    | split
    | dsimp only)

theorem State.releaseBay_steps {parts : List Component} {s0 : State} {s : State} {d b : Nat}
    (h0 : Steps parts s0 s) (hsub : ∀ p ∈ [Component.free, .rsp, .dies, .routers, .evr], p ∈ parts) : Steps parts s0 (State.releaseBay s d b) := by
  refine Steps.via (ps := parts) (qs := [Component.free, .rsp, .dies, .routers, .evr]) h0 ?_ hsub
  clear h0 hsub
  unfold State.releaseBay
  try dsimp only
  repeat' (first
    | with_reducible apply Steps.ite <;> intro _
    | with_reducible exact Steps.refl _ _
    | with_reducible assumption
    | with_reducible apply State.modBay_steps
    | with_reducible apply State.reclaim_steps
    | with_reducible apply State.resetGroup_steps
    | with_reducible apply State.setDrain_steps
    | with_reducible refine Steps.foldl _ _ (fun u a h => ?_) ?_
    | with_reducible exact fun _ h => h
    | decide +kernel
    | split
    | dsimp only)

theorem State.releaseOrDown_steps {parts : List Component} {s0 : State} {s : State} {d b : Nat}
    (h0 : Steps parts s0 s) (hsub : ∀ p ∈ [Component.free, .rsp, .dies, .routers, .evr], p ∈ parts) : Steps parts s0 (State.releaseOrDown s d b).1 := by
  refine Steps.via (ps := parts) (qs := [Component.free, .rsp, .dies, .routers, .evr]) h0 ?_ hsub
  clear h0 hsub
  unfold State.releaseOrDown
  try dsimp only
  repeat' (first
    | with_reducible apply Steps.ite <;> intro _
    | with_reducible apply Steps.ite_fst <;> intro _
    | with_reducible exact Steps.refl _ _
    | with_reducible assumption
    | with_reducible apply State.modBay_steps
    | with_reducible apply State.releaseBay_steps
    | with_reducible refine Steps.foldl _ _ (fun u a h => ?_) ?_
    | with_reducible refine Steps.of_fst ?_ (by assumption)
    | with_reducible exact fun _ h => h
    | decide +kernel
    | split
    | dsimp only)

theorem State.wipeFrames_steps {parts : List Component} {s0 : State} {s : State} {d b : Nat}
    (h0 : Steps parts s0 s) (hsub : ∀ p ∈ [Component.dies], p ∈ parts) : Steps parts s0 (State.wipeFrames s d b) := by
  refine Steps.via (ps := parts) (qs := [Component.dies]) h0 ?_ hsub
  clear h0 hsub
  unfold State.wipeFrames
  try dsimp only
  repeat' (first
    | with_reducible apply Steps.ite <;> intro _
    | with_reducible exact Steps.refl _ _
    | with_reducible assumption
    | with_reducible apply State.modDie_steps
    | with_reducible refine Steps.foldl _ _ (fun u a h => ?_) ?_
    | with_reducible exact fun _ h => h
    | decide +kernel
    | split
    | dsimp only)

theorem State.wipeMems_steps {parts : List Component} {s0 : State} {s : State} {d b : Nat}
    (h0 : Steps parts s0 s) (hsub : ∀ p ∈ [Component.dies], p ∈ parts) : Steps parts s0 (State.wipeMems s d b) := by
  refine Steps.via (ps := parts) (qs := [Component.dies]) h0 ?_ hsub
  clear h0 hsub
  unfold State.wipeMems
  try dsimp only
  repeat' (first
    | with_reducible apply Steps.ite <;> intro _
    | with_reducible exact Steps.refl _ _
    | with_reducible assumption
    | with_reducible apply State.modBram_steps
    | with_reducible apply State.modGroup_steps
    | with_reducible apply State.modSlice_steps
    | with_reducible refine Steps.foldl _ _ (fun u a h => ?_) ?_
    | with_reducible exact fun _ h => h
    | decide +kernel
    | split
    | dsimp only)

theorem State.modIo_steps {parts : List Component} {s0 : State} {s : State} {d : Nat} {f : IoBlock → IoBlock}
    (h0 : Steps parts s0 s) (hsub : ∀ p ∈ [Component.dies], p ∈ parts) : Steps parts s0 (State.modIo s d f) := by
  refine Steps.via (ps := parts) (qs := [Component.dies]) h0 ?_ hsub
  clear h0 hsub
  unfold State.modIo
  try dsimp only
  repeat' (first
    | with_reducible apply Steps.ite <;> intro _
    | with_reducible exact Steps.refl _ _
    | with_reducible assumption
    | with_reducible apply State.modDie_steps
    | with_reducible refine Steps.foldl _ _ (fun u a h => ?_) ?_
    | with_reducible exact fun _ h => h
    | decide +kernel
    | split
    | dsimp only)

theorem State.padsOff_steps {parts : List Component} {s0 : State} {s : State} {d : Nat}
    (h0 : Steps parts s0 s) (hsub : ∀ p ∈ [Component.dies], p ∈ parts) : Steps parts s0 (State.padsOff s d) := by
  refine Steps.via (ps := parts) (qs := [Component.dies]) h0 ?_ hsub
  clear h0 hsub
  unfold State.padsOff
  try dsimp only
  repeat' (first
    | with_reducible apply Steps.ite <;> intro _
    | with_reducible exact Steps.refl _ _
    | with_reducible assumption
    | with_reducible apply State.modIo_steps
    | with_reducible refine Steps.foldl _ _ (fun u a h => ?_) ?_
    | with_reducible exact fun _ h => h
    | decide +kernel
    | split
    | dsimp only)

theorem State.latchPads_steps {parts : List Component} {s0 : State} {s : State} {d : Nat}
    (h0 : Steps parts s0 s) (hsub : ∀ p ∈ [Component.dies], p ∈ parts) : Steps parts s0 (State.latchPads s d) := by
  refine Steps.via (ps := parts) (qs := [Component.dies]) h0 ?_ hsub
  clear h0 hsub
  unfold State.latchPads
  try dsimp only
  repeat' (first
    | with_reducible apply Steps.ite <;> intro _
    | with_reducible exact Steps.refl _ _
    | with_reducible assumption
    | with_reducible apply State.modIo_steps
    | with_reducible refine Steps.foldl _ _ (fun u a h => ?_) ?_
    | with_reducible exact fun _ h => h
    | decide +kernel
    | split
    | dsimp only)

theorem State.holdPads_steps {parts : List Component} {s0 : State} {s : State} {d : Nat} {which : Nat → Bool}
    (h0 : Steps parts s0 s) (hsub : ∀ p ∈ [Component.dies], p ∈ parts) : Steps parts s0 (State.holdPads s d which) := by
  refine Steps.via (ps := parts) (qs := [Component.dies]) h0 ?_ hsub
  clear h0 hsub
  unfold State.holdPads
  try dsimp only
  repeat' (first
    | with_reducible apply Steps.ite <;> intro _
    | with_reducible exact Steps.refl _ _
    | with_reducible assumption
    | with_reducible apply State.modIo_steps
    | with_reducible refine Steps.foldl _ _ (fun u a h => ?_) ?_
    | with_reducible exact fun _ h => h
    | decide +kernel
    | split
    | dsimp only)

theorem State.holdBay_steps {parts : List Component} {s0 : State} {s : State} {m : Nat} {r : Request} {d b : Nat}
    (h0 : Steps parts s0 s) (hsub : ∀ p ∈ [Component.dies], p ∈ parts) : Steps parts s0 (State.holdBay s m r d b).1 := by
  refine Steps.via (ps := parts) (qs := [Component.dies]) h0 ?_ hsub
  clear h0 hsub
  unfold State.holdBay
  try dsimp only
  repeat' (first
    | with_reducible apply Steps.ite <;> intro _
    | with_reducible apply Steps.ite_fst <;> intro _
    | with_reducible exact Steps.refl _ _
    | with_reducible assumption
    | with_reducible apply State.modBay_steps
    | with_reducible refine Steps.foldl _ _ (fun u a h => ?_) ?_
    | with_reducible refine Steps.of_fst ?_ (by assumption)
    | with_reducible exact fun _ h => h
    | decide +kernel
    | split
    | dsimp only)

theorem State.admitPush_steps {parts : List Component} {s0 : State} {s : State} {src : Nat} {mid : BitVec 12}
    (h0 : Steps parts s0 s) (hsub : ∀ p ∈ [Component.acls], p ∈ parts) : Steps parts s0 (State.admitPush s src mid) := by
  refine Steps.via (ps := parts) (qs := [Component.acls]) h0 ?_ hsub
  clear h0 hsub
  unfold State.admitPush
  try dsimp only
  repeat' (first
    | with_reducible apply Steps.ite <;> intro _
    | with_reducible exact Steps.refl _ _
    | with_reducible assumption
    | with_reducible apply State.modAcl_steps
    | with_reducible refine Steps.foldl _ _ (fun u a h => ?_) ?_
    | with_reducible exact fun _ h => h
    | decide +kernel
    | split
    | dsimp only)

theorem State.modStrm_steps {parts : List Component} {s0 : State} {s : State} {prog : Bool} {f : Stream → Stream}
    (h0 : Steps parts s0 s) (hsub : ∀ p ∈ [Component.cfg], p ∈ parts) : Steps parts s0 (State.modStrm s prog f) := by
  refine Steps.via (ps := parts) (qs := [Component.cfg]) h0 ?_ hsub
  clear h0 hsub
  unfold State.modStrm
  try dsimp only
  repeat' (first
    | with_reducible apply Steps.ite <;> intro _
    | with_reducible exact Steps.refl _ _
    | with_reducible assumption
    | with_reducible apply State.modCfg_steps
    | with_reducible refine Steps.foldl _ _ (fun u a h => ?_) ?_
    | with_reducible exact fun _ h => h
    | decide +kernel
    | split
    | dsimp only)

theorem State.closeStrm_steps {parts : List Component} {s0 : State} {s : State} {prog : Bool}
    (h0 : Steps parts s0 s) (hsub : ∀ p ∈ [Component.acls, .cfg], p ∈ parts) : Steps parts s0 (State.closeStrm s prog) := by
  refine Steps.via (ps := parts) (qs := [Component.acls, .cfg]) h0 ?_ hsub
  clear h0 hsub
  unfold State.closeStrm
  try dsimp only
  repeat' (first
    | with_reducible apply Steps.ite <;> intro _
    | with_reducible exact Steps.refl _ _
    | with_reducible assumption
    | with_reducible apply State.modAcl_steps
    | with_reducible apply State.modStrm_steps
    | with_reducible refine Steps.foldl _ _ (fun u a h => ?_) ?_
    | with_reducible exact fun _ h => h
    | decide +kernel
    | split
    | dsimp only)

theorem State.emptyBay_steps {parts : List Component} {s0 : State} {s : State} {d b : Nat}
    (h0 : Steps parts s0 s) (hsub : ∀ p ∈ [Component.dies], p ∈ parts) : Steps parts s0 (State.emptyBay s d b) := by
  refine Steps.via (ps := parts) (qs := [Component.dies]) h0 ?_ hsub
  clear h0 hsub
  unfold State.emptyBay
  try dsimp only
  repeat' (first
    | with_reducible apply Steps.ite <;> intro _
    | with_reducible exact Steps.refl _ _
    | with_reducible assumption
    | with_reducible apply State.modBay_steps
    | with_reducible apply State.wipeFrames_steps
    | with_reducible apply State.wipeMems_steps
    | with_reducible refine Steps.foldl _ _ (fun u a h => ?_) ?_
    | with_reducible exact fun _ h => h
    | decide +kernel
    | split
    | dsimp only)

theorem State.mbxRise_steps {parts : List Component} {s0 : State} {s : State} {m bit : Nat}
    (h0 : Steps parts s0 s) (hsub : ∀ p ∈ [Component.gable, .evr], p ∈ parts) : Steps parts s0 (State.mbxRise s m bit) := by
  refine Steps.via (ps := parts) (qs := [Component.gable, .evr]) h0 ?_ hsub
  clear h0 hsub
  unfold State.mbxRise
  try dsimp only
  repeat' (first
    | with_reducible apply Steps.ite <;> intro _
    | with_reducible exact Steps.refl _ _
    | with_reducible assumption
    | with_reducible apply State.modMbx_steps
    | with_reducible apply State.raiseHub_steps
    | with_reducible refine Steps.foldl _ _ (fun u a h => ?_) ?_
    | with_reducible exact fun _ h => h
    | decide +kernel
    | split
    | dsimp only)

theorem State.showNext_steps {parts : List Component} {s0 : State} {s : State} {m : Nat}
    (h0 : Steps parts s0 s) (hsub : ∀ p ∈ [Component.gable, .evr], p ∈ parts) : Steps parts s0 (State.showNext s m) := by
  refine Steps.via (ps := parts) (qs := [Component.gable, .evr]) h0 ?_ hsub
  clear h0 hsub
  unfold State.showNext
  try dsimp only
  repeat' (first
    | with_reducible apply Steps.ite <;> intro _
    | with_reducible exact Steps.refl _ _
    | with_reducible assumption
    | with_reducible apply State.mbxRise_steps
    | with_reducible apply State.modMbx_steps
    | with_reducible refine Steps.foldl _ _ (fun u a h => ?_) ?_
    | with_reducible exact fun _ h => h
    | decide +kernel
    | split
    | dsimp only)

theorem State.complete_steps {parts : List Component} {s0 : State} {s : State} {tok status : Nat} {data : List (BitVec 8)}
    (h0 : Steps parts s0 s) (hsub : ∀ p ∈ [Component.gable, .evr], p ∈ parts) : Steps parts s0 (State.complete s tok status data) := by
  refine Steps.via (ps := parts) (qs := [Component.gable, .evr]) h0 ?_ hsub
  clear h0 hsub
  unfold State.complete
  try dsimp only
  repeat' (first
    | with_reducible apply Steps.ite <;> intro _
    | with_reducible exact Steps.refl _ _
    | with_reducible assumption
    | with_reducible apply State.modMbx_steps
    | with_reducible apply State.showNext_steps
    | with_reducible refine Steps.foldl _ _ (fun u a h => ?_) ?_
    | with_reducible exact fun _ h => h
    | decide +kernel
    | split
    | dsimp only)

theorem State.completeOpt_steps {parts : List Component} {s0 : State} {s : State} {tok : Option Nat} {status : Nat} {data : List (BitVec 8)}
    (h0 : Steps parts s0 s) (hsub : ∀ p ∈ [Component.gable, .evr], p ∈ parts) : Steps parts s0 (State.completeOpt s tok status data) := by
  refine Steps.via (ps := parts) (qs := [Component.gable, .evr]) h0 ?_ hsub
  clear h0 hsub
  unfold State.completeOpt
  try dsimp only
  repeat' (first
    | with_reducible apply Steps.ite <;> intro _
    | with_reducible exact Steps.refl _ _
    | with_reducible assumption
    | with_reducible apply State.complete_steps
    | with_reducible refine Steps.foldl _ _ (fun u a h => ?_) ?_
    | with_reducible exact fun _ h => h
    | decide +kernel
    | split
    | dsimp only)

theorem State.endRun_steps {parts : List Component} {s0 : State} {s : State} {d b status : Nat} {cause : Nat}
    (h0 : Steps parts s0 s) (hsub : ∀ p ∈ [Component.dies, .gable, .evr], p ∈ parts) : Steps parts s0 (State.endRun s d b status cause) := by
  refine Steps.via (ps := parts) (qs := [Component.dies, .gable, .evr]) h0 ?_ hsub
  clear h0 hsub
  unfold State.endRun
  try dsimp only
  repeat' (first
    | with_reducible apply Steps.ite <;> intro _
    | with_reducible exact Steps.refl _ _
    | with_reducible assumption
    | with_reducible apply State.completeOpt_steps
    | with_reducible apply State.modBay_steps
    | with_reducible refine Steps.foldl _ _ (fun u a h => ?_) ?_
    | with_reducible exact fun _ h => h
    | decide +kernel
    | split
    | dsimp only)

theorem State.logNote_steps {parts : List Component} {s0 : State} {s : State} {e : LogEntry}
    (h0 : Steps parts s0 s) (hsub : ∀ p ∈ [Component.log], p ∈ parts) : Steps parts s0 (State.logNote s e) := by
  refine Steps.via (ps := parts) (qs := [Component.log]) h0 ?_ hsub
  clear h0 hsub
  unfold State.logNote
  try dsimp only
  repeat' (first
    | with_reducible apply Steps.ite <;> intro _
    | with_reducible exact Steps.refl _ _
    | with_reducible assumption
    | with_reducible apply State.setLog_steps
    | with_reducible refine Steps.foldl _ _ (fun u a h => ?_) ?_
    | with_reducible exact fun _ h => h
    | decide +kernel
    | split
    | dsimp only)

theorem State.bayFail_steps {parts : List Component} {s0 : State} {s : State} {cause seg : Nat}
    (h0 : Steps parts s0 s) (hsub : ∀ p ∈ [Component.acls, .dies, .cfg, .gable, .log, .evr], p ∈ parts) : Steps parts s0 (State.bayFail s cause seg) := by
  refine Steps.via (ps := parts) (qs := [Component.acls, .dies, .cfg, .gable, .log, .evr]) h0 ?_ hsub
  clear h0 hsub
  unfold State.bayFail
  try dsimp only
  repeat' (first
    | with_reducible apply Steps.ite <;> intro _
    | with_reducible exact Steps.refl _ _
    | with_reducible assumption
    | with_reducible apply State.closeStrm_steps
    | with_reducible apply State.emptyBay_steps
    | with_reducible apply State.endRun_steps
    | with_reducible apply State.logNote_steps
    | with_reducible apply State.modBay_steps
    | with_reducible refine Steps.foldl _ _ (fun u a h => ?_) ?_
    | with_reducible exact fun _ h => h
    | decide +kernel
    | split
    | dsimp only)

theorem State.setLine_steps {parts : List Component} {s0 : State} {s : State} {n c : Nat} {l : LineState}
    (h0 : Steps parts s0 s) (hsub : ∀ p ∈ [Component.dram], p ∈ parts) : Steps parts s0 (State.setLine s n c l) := by
  refine Steps.via (ps := parts) (qs := [Component.dram]) h0 ?_ hsub
  clear h0 hsub
  unfold State.setLine
  try dsimp only
  repeat' (first
    | with_reducible apply Steps.ite <;> intro _
    | with_reducible exact Steps.refl _ _
    | with_reducible assumption
    | with_reducible apply State.modChan_steps
    | with_reducible refine Steps.foldl _ _ (fun u a h => ?_) ?_
    | with_reducible exact fun _ h => h
    | decide +kernel
    | split
    | dsimp only)

theorem State.readLine_steps {parts : List Component} {s0 : State} {s : State} {v : FlashView} {n c a : Nat} {u : Sys2Proof.DramUpset}
    (h0 : Steps parts s0 s) (hsub : ∀ p ∈ [Component.free, .dram], p ∈ parts) : Steps parts s0 (State.readLine s v n c a u).1 := by
  refine Steps.via (ps := parts) (qs := [Component.free, .dram]) h0 ?_ hsub
  clear h0 hsub
  unfold State.readLine
  try dsimp only
  repeat' (first
    | with_reducible apply Steps.ite <;> intro _
    | with_reducible apply Steps.ite_fst <;> intro _
    | with_reducible exact Steps.refl _ _
    | with_reducible assumption
    | with_reducible apply State.drew_steps
    | with_reducible apply State.setLine_steps
    | with_reducible refine Steps.foldl _ _ (fun u a h => ?_) ?_
    | with_reducible refine Steps.of_fst ?_ (by assumption)
    | with_reducible exact fun _ h => h
    | decide +kernel
    | split
    | dsimp only)

theorem State.modSlot_steps {parts : List Component} {s0 : State} {s : State} {slot : Nat} {f : SlotState → SlotState}
    (h0 : Steps parts s0 s) (hsub : ∀ p ∈ [Component.cfg], p ∈ parts) : Steps parts s0 (State.modSlot s slot f) := by
  refine Steps.via (ps := parts) (qs := [Component.cfg]) h0 ?_ hsub
  clear h0 hsub
  unfold State.modSlot
  try dsimp only
  repeat' (first
    | with_reducible apply Steps.ite <;> intro _
    | with_reducible exact Steps.refl _ _
    | with_reducible assumption
    | with_reducible apply State.modCfg_steps
    | with_reducible refine Steps.foldl _ _ (fun u a h => ?_) ?_
    | with_reducible exact fun _ h => h
    | decide +kernel
    | split
    | dsimp only)

theorem State.bringUp_steps {parts : List Component} {s0 : State} {s : State} {k : Nat}
    (h0 : Steps parts s0 s) (hsub : ∀ p ∈ [Component.lanesets], p ∈ parts) : Steps parts s0 (State.bringUp s k) := by
  refine Steps.via (ps := parts) (qs := [Component.lanesets]) h0 ?_ hsub
  clear h0 hsub
  unfold State.bringUp
  try dsimp only
  repeat' (first
    | with_reducible apply Steps.ite <;> intro _
    | with_reducible exact Steps.refl _ _
    | with_reducible assumption
    | with_reducible apply State.modLaneset_steps
    | with_reducible refine Steps.foldl _ _ (fun u a h => ?_) ?_
    | with_reducible exact fun _ h => h
    | decide +kernel
    | split
    | dsimp only)

theorem State.unbind_steps {parts : List Component} {s0 : State} {s : State} {m : Nat}
    (h0 : Steps parts s0 s) (hsub : ∀ p ∈ [Component.gable, .evr], p ∈ parts) : Steps parts s0 (State.unbind s m) := by
  refine Steps.via (ps := parts) (qs := [Component.gable, .evr]) h0 ?_ hsub
  clear h0 hsub
  unfold State.unbind
  try dsimp only
  repeat' (first
    | with_reducible apply Steps.ite <;> intro _
    | with_reducible exact Steps.refl _ _
    | with_reducible assumption
    | with_reducible apply State.modEvr_steps
    | with_reducible apply State.modMbx_steps
    | with_reducible refine Steps.foldl _ _ (fun u a h => ?_) ?_
    | with_reducible exact fun _ h => h
    | decide +kernel
    | split
    | dsimp only)

theorem State.freeKept_steps {parts : List Component} {s0 : State} {s : State}
    (h0 : Steps parts s0 s) (hsub : ∀ p ∈ [Component.cfg, .gable, .evr], p ∈ parts) : Steps parts s0 (State.freeKept s) := by
  refine Steps.via (ps := parts) (qs := [Component.cfg, .gable, .evr]) h0 ?_ hsub
  clear h0 hsub
  unfold State.freeKept
  try dsimp only
  repeat' (first
    | with_reducible apply Steps.ite <;> intro _
    | with_reducible exact Steps.refl _ _
    | with_reducible assumption
    | with_reducible apply State.modCfg_steps
    | with_reducible apply State.unbind_steps
    | with_reducible refine Steps.foldl _ _ (fun u a h => ?_) ?_
    | with_reducible exact fun _ h => h
    | decide +kernel
    | split
    | dsimp only)

theorem State.setGstate_steps {parts : List Component} {s0 : State} {s : State} {g : GState}
    (h0 : Steps parts s0 s) (hsub : ∀ p ∈ [Component.gable, .evr], p ∈ parts) : Steps parts s0 (State.setGstate s g) := by
  refine Steps.via (ps := parts) (qs := [Component.gable, .evr]) h0 ?_ hsub
  clear h0 hsub
  unfold State.setGstate
  try dsimp only
  repeat' (first
    | with_reducible apply Steps.ite <;> intro _
    | with_reducible exact Steps.refl _ _
    | with_reducible assumption
    | with_reducible apply State.mbxRise_steps
    | with_reducible apply State.modGable_steps
    | with_reducible refine Steps.foldl _ _ (fun u a h => ?_) ?_
    | with_reducible exact fun _ h => h
    | decide +kernel
    | split
    | dsimp only)

theorem State.enterRecovery_steps {parts : List Component} {s0 : State} {s : State} {failed : Bool}
    (h0 : Steps parts s0 s) (hsub : ∀ p ∈ [Component.acls, .lanesets, .cfg, .gable, .evr, .svc], p ∈ parts) : Steps parts s0 (State.enterRecovery s failed) := by
  refine Steps.via (ps := parts) (qs := [Component.acls, .lanesets, .cfg, .gable, .evr, .svc]) h0 ?_ hsub
  clear h0 hsub
  unfold State.enterRecovery
  try dsimp only
  repeat' (first
    | with_reducible apply Steps.ite <;> intro _
    | with_reducible exact Steps.refl _ _
    | with_reducible assumption
    | with_reducible apply State.bringUp_steps
    | with_reducible apply State.freeKept_steps
    | with_reducible apply State.modCfg_steps
    | with_reducible apply State.modLaneset_steps
    | with_reducible apply State.modSvc_steps
    | with_reducible apply State.setAcls_steps
    | with_reducible apply State.setGstate_steps
    | with_reducible refine Steps.foldl _ _ (fun u a h => ?_) ?_
    | with_reducible exact tabWf_tmod _ _ _ _
    | with_reducible exact tabWf_tput _ _ _ _
    | with_reducible exact tabWf_tmodAll _ _ _ _
    | with_reducible exact fun _ => tabWf_nil _
    | with_reducible exact fun _ => recoveryTables_wf
    | with_reducible exact fun _ h => h
    | decide +kernel
    | split
    | dsimp only)

theorem State.beginLoad_steps {parts : List Component} {s0 : State} {s : State} {src : Nat} {hdr : Bytes} {mid : Option (BitVec 12)} {tok : Option Nat}
    (h0 : Steps parts s0 s) (hsub : ∀ p ∈ [Component.cfg], p ∈ parts) : Steps parts s0 (State.beginLoad s src hdr mid tok) := by
  refine Steps.via (ps := parts) (qs := [Component.cfg]) h0 ?_ hsub
  clear h0 hsub
  unfold State.beginLoad
  try dsimp only
  repeat' (first
    | with_reducible apply Steps.ite <;> intro _
    | with_reducible exact Steps.refl _ _
    | with_reducible assumption
    | with_reducible apply State.modCfg_steps
    | with_reducible refine Steps.foldl _ _ (fun u a h => ?_) ?_
    | with_reducible exact fun _ h => h
    | decide +kernel
    | split
    | dsimp only)

theorem State.nextSource_steps {parts : List Component} {s0 : State} {s : State}
    (h0 : Steps parts s0 s) (hsub : ∀ p ∈ [Component.acls, .lanesets, .cfg, .gable, .evr, .svc], p ∈ parts) : Steps parts s0 (State.nextSource s) := by
  refine Steps.via (ps := parts) (qs := [Component.acls, .lanesets, .cfg, .gable, .evr, .svc]) h0 ?_ hsub
  clear h0 hsub
  unfold State.nextSource
  try dsimp only
  repeat' (first
    | with_reducible apply Steps.ite <;> intro _
    | with_reducible exact Steps.refl _ _
    | with_reducible assumption
    | with_reducible apply State.beginLoad_steps
    | with_reducible apply State.enterRecovery_steps
    | with_reducible apply State.modCfg_steps
    | with_reducible refine Steps.foldl _ _ (fun u a h => ?_) ?_
    | with_reducible exact fun _ h => h
    | decide +kernel
    | split
    | dsimp only)

theorem State.forget_steps {parts : List Component} {s0 : State} {s : State} {n : Nat}
    (h0 : Steps parts s0 s) (hsub : ∀ p ∈ [Component.dram], p ∈ parts) : Steps parts s0 (State.forget s n) := by
  refine Steps.via (ps := parts) (qs := [Component.dram]) h0 ?_ hsub
  clear h0 hsub
  unfold State.forget
  try dsimp only
  repeat' (first
    | with_reducible apply Steps.ite <;> intro _
    | with_reducible exact Steps.refl _ _
    | with_reducible assumption
    | with_reducible apply State.modChan_steps
    | with_reducible apply State.modDram_steps
    | with_reducible refine Steps.foldl _ _ (fun u a h => ?_) ?_
    | with_reducible exact fun _ h => h
    | decide +kernel
    | split
    | dsimp only)

theorem State.chanOff_steps {parts : List Component} {s0 : State} {s : State} {n : Nat}
    (h0 : Steps parts s0 s) (hsub : ∀ p ∈ [Component.dram], p ∈ parts) : Steps parts s0 (State.chanOff s n) := by
  refine Steps.via (ps := parts) (qs := [Component.dram]) h0 ?_ hsub
  clear h0 hsub
  unfold State.chanOff
  try dsimp only
  repeat' (first
    | with_reducible apply Steps.ite <;> intro _
    | with_reducible exact Steps.refl _ _
    | with_reducible assumption
    | with_reducible apply State.forget_steps
    | with_reducible apply State.modChan_steps
    | with_reducible refine Steps.foldl _ _ (fun u a h => ?_) ?_
    | with_reducible exact fun _ h => h
    | decide +kernel
    | split
    | dsimp only)

theorem State.dropOuts_steps {parts : List Component} {s0 : State} {s : State}
    (h0 : Steps parts s0 s) (hsub : ∀ p ∈ [Component.masters], p ∈ parts) : Steps parts s0 (State.dropOuts s) := by
  refine Steps.via (ps := parts) (qs := [Component.masters]) h0 ?_ hsub
  clear h0 hsub
  unfold State.dropOuts
  try dsimp only
  repeat' (first
    | with_reducible apply Steps.ite <;> intro _
    | with_reducible exact Steps.refl _ _
    | with_reducible assumption
    | with_reducible apply State.setMasters_steps
    | with_reducible refine Steps.foldl _ _ (fun u a h => ?_) ?_
    | with_reducible exact tabWf_tmod _ _ _ _
    | with_reducible exact tabWf_tput _ _ _ _
    | with_reducible exact tabWf_tmodAll _ _ _ _
    | with_reducible exact fun _ => tabWf_nil _
    | with_reducible exact fun _ h => h
    | decide +kernel
    | split
    | dsimp only)

theorem State.edgeAnswer_steps {parts : List Component} {s0 : State} {s : State} {key : Nat} {k : Pkt} {resp : BitVec 3}
    (h0 : Steps parts s0 s) (hsub : ∀ p ∈ [Component.links], p ∈ parts) : Steps parts s0 (State.edgeAnswer s key k resp) := by
  refine Steps.via (ps := parts) (qs := [Component.links]) h0 ?_ hsub
  clear h0 hsub
  unfold State.edgeAnswer
  try dsimp only
  repeat' (first
    | with_reducible apply Steps.ite <;> intro _
    | with_reducible exact Steps.refl _ _
    | with_reducible assumption
    | with_reducible apply State.modLink_steps
    | with_reducible refine Steps.foldl _ _ (fun u a h => ?_) ?_
    | with_reducible exact fun _ h => h
    | decide +kernel
    | split
    | dsimp only)

theorem State.failHosts_steps {parts : List Component} {s0 : State} {s : State} {p : Nat}
    (h0 : Steps parts s0 s) (hsub : ∀ p ∈ [Component.masters, .links], p ∈ parts) : Steps parts s0 (State.failHosts s p) := by
  refine Steps.via (ps := parts) (qs := [Component.masters, .links]) h0 ?_ hsub
  clear h0 hsub
  unfold State.failHosts
  try dsimp only
  repeat' (first
    | with_reducible apply Steps.ite <;> intro _
    | with_reducible exact Steps.refl _ _
    | with_reducible assumption
    | with_reducible apply State.edgeAnswer_steps
    | with_reducible apply State.modMaster_steps
    | with_reducible refine Steps.foldl _ _ (fun u a h => ?_) ?_
    | with_reducible exact fun _ h => h
    | decide +kernel
    | split
    | dsimp only)

theorem State.dropUp_steps {parts : List Component} {s0 : State} {s : State} {k : Nat}
    (h0 : Steps parts s0 s) (hsub : ∀ p ∈ [Component.lanesets, .gable, .evr], p ∈ parts) : Steps parts s0 (State.dropUp s k) := by
  refine Steps.via (ps := parts) (qs := [Component.lanesets, .gable, .evr]) h0 ?_ hsub
  clear h0 hsub
  unfold State.dropUp
  try dsimp only
  repeat' (first
    | with_reducible apply Steps.ite <;> intro _
    | with_reducible exact Steps.refl _ _
    | with_reducible assumption
    | with_reducible apply State.completeOpt_steps
    | with_reducible apply State.modLaneset_steps
    | with_reducible refine Steps.foldl _ _ (fun u a h => ?_) ?_
    | with_reducible exact fun _ h => h
    | decide +kernel
    | split
    | dsimp only)

theorem State.completeAll_steps {parts : List Component} {s0 : State} {s : State} {toks : List Nat} {status : Nat} {data : List (BitVec 8)}
    (h0 : Steps parts s0 s) (hsub : ∀ p ∈ [Component.gable, .evr], p ∈ parts) : Steps parts s0 (State.completeAll s toks status data) := by
  refine Steps.via (ps := parts) (qs := [Component.gable, .evr]) h0 ?_ hsub
  clear h0 hsub
  unfold State.completeAll
  try dsimp only
  repeat' (first
    | with_reducible apply Steps.ite <;> intro _
    | with_reducible exact Steps.refl _ _
    | with_reducible assumption
    | with_reducible apply State.complete_steps
    | with_reducible refine Steps.foldl _ _ (fun u a h => ?_) ?_
    | with_reducible exact fun _ h => h
    | decide +kernel
    | split
    | dsimp only)

theorem State.laneOff_steps {parts : List Component} {s0 : State} {s : State} {k : Nat}
    (h0 : Steps parts s0 s) (hsub : ∀ p ∈ [Component.lanesets, .gable, .evr], p ∈ parts) : Steps parts s0 (State.laneOff s k) := by
  refine Steps.via (ps := parts) (qs := [Component.lanesets, .gable, .evr]) h0 ?_ hsub
  clear h0 hsub
  unfold State.laneOff
  try dsimp only
  repeat' (first
    | with_reducible apply Steps.ite <;> intro _
    | with_reducible exact Steps.refl _ _
    | with_reducible assumption
    | with_reducible apply State.bringUp_steps
    | with_reducible apply State.completeAll_steps
    | with_reducible apply State.modLaneset_steps
    | with_reducible refine Steps.foldl _ _ (fun u a h => ?_) ?_
    | with_reducible exact fun _ h => h
    | decide +kernel
    | split
    | dsimp only)

theorem State.laneClockStops_steps {parts : List Component} {s0 : State} {s : State} {k : Nat}
    (h0 : Steps parts s0 s) (hsub : ∀ p ∈ [Component.tb], p ∈ parts) : Steps parts s0 (State.laneClockStops s k) := by
  refine Steps.via (ps := parts) (qs := [Component.tb]) h0 ?_ hsub
  clear h0 hsub
  unfold State.laneClockStops
  try dsimp only
  repeat' (first
    | with_reducible apply Steps.ite <;> intro _
    | with_reducible exact Steps.refl _ _
    | with_reducible assumption
    | with_reducible apply State.modTb_steps
    | with_reducible refine Steps.foldl _ _ (fun u a h => ?_) ?_
    | with_reducible exact fun _ h => h
    | decide +kernel
    | split
    | dsimp only)

theorem State.creditDue_steps {parts : List Component} {s0 : State} {s : State} {k v n : Nat}
    (h0 : Steps parts s0 s) (hsub : ∀ p ∈ [Component.links], p ∈ parts) : Steps parts s0 (State.creditDue s k v n) := by
  refine Steps.via (ps := parts) (qs := [Component.links]) h0 ?_ hsub
  clear h0 hsub
  unfold State.creditDue
  try dsimp only
  repeat' (first
    | with_reducible apply Steps.ite <;> intro _
    | with_reducible exact Steps.refl _ _
    | with_reducible assumption
    | with_reducible apply State.modLink_steps
    | with_reducible refine Steps.foldl _ _ (fun u a h => ?_) ?_
    | with_reducible exact fun _ h => h
    | decide +kernel
    | split
    | dsimp only)

theorem State.fromLink_steps {parts : List Component} {s0 : State} {s : State} {key vc : Nat} {k : Pkt}
    (h0 : Steps parts s0 s) (hsub : ∀ p ∈ [Component.routers, .links], p ∈ parts) : Steps parts s0 (State.fromLink s key vc k) := by
  refine Steps.via (ps := parts) (qs := [Component.routers, .links]) h0 ?_ hsub
  clear h0 hsub
  unfold State.fromLink
  try dsimp only
  repeat' (first
    | with_reducible apply Steps.ite <;> intro _
    | with_reducible exact Steps.refl _ _
    | with_reducible assumption
    | with_reducible apply State.creditDue_steps
    | with_reducible apply State.modRouter_steps
    | with_reducible refine Steps.foldl _ _ (fun u a h => ?_) ?_
    | with_reducible exact fun _ h => h
    | decide +kernel
    | split
    | dsimp only)

theorem State.guestDrop_steps {parts : List Component} {s0 : State} {s : State} {key g vc : Nat} {k : Pkt}
    (h0 : Steps parts s0 s) (hsub : ∀ p ∈ [Component.routers, .links, .log, .evr], p ∈ parts) : Steps parts s0 (State.guestDrop s key g vc k) := by
  refine Steps.via (ps := parts) (qs := [Component.routers, .links, .log, .evr]) h0 ?_ hsub
  clear h0 hsub
  unfold State.guestDrop
  try dsimp only
  repeat' (first
    | with_reducible apply Steps.ite <;> intro _
    | with_reducible exact Steps.refl _ _
    | with_reducible assumption
    | with_reducible apply State.creditDue_steps
    | with_reducible apply State.noteDenial_steps
    | with_reducible refine Steps.foldl _ _ (fun u a h => ?_) ?_
    | with_reducible exact fun _ h => h
    | decide +kernel
    | split
    | dsimp only)

theorem State.guestEvent_steps {parts : List Component} {s0 : State} {s : State} {key g vc : Nat} {wellFormed : Bool} {k : Pkt}
    (h0 : Steps parts s0 s) (hsub : ∀ p ∈ [Component.routers, .links, .log, .evr], p ∈ parts) : Steps parts s0 (State.guestEvent s key g vc wellFormed k) := by
  refine Steps.via (ps := parts) (qs := [Component.routers, .links, .log, .evr]) h0 ?_ hsub
  clear h0 hsub
  unfold State.guestEvent
  try dsimp only
  repeat' (first
    | with_reducible apply Steps.ite <;> intro _
    | with_reducible exact Steps.refl _ _
    | with_reducible assumption
    | with_reducible apply State.fromLink_steps
    | with_reducible apply State.guestDrop_steps
    | with_reducible refine Steps.foldl _ _ (fun u a h => ?_) ?_
    | with_reducible exact fun _ h => h
    | decide +kernel
    | split
    | dsimp only)

theorem State.guestRefuse_steps {parts : List Component} {s0 : State} {s : State} {key vc : Nat} {k : Pkt} {resp : BitVec 3}
    (h0 : Steps parts s0 s) (hsub : ∀ p ∈ [Component.links], p ∈ parts) : Steps parts s0 (State.guestRefuse s key vc k resp) := by
  refine Steps.via (ps := parts) (qs := [Component.links]) h0 ?_ hsub
  clear h0 hsub
  unfold State.guestRefuse
  try dsimp only
  repeat' (first
    | with_reducible apply Steps.ite <;> intro _
    | with_reducible exact Steps.refl _ _
    | with_reducible assumption
    | with_reducible apply State.creditDue_steps
    | with_reducible apply State.edgeAnswer_steps
    | with_reducible refine Steps.foldl _ _ (fun u a h => ?_) ?_
    | with_reducible exact fun _ h => h
    | decide +kernel
    | split
    | dsimp only)

theorem State.meter_steps {parts : List Component} {s0 : State} {s : State} {node : Nat} {k : Pkt}
    (h0 : Steps parts s0 s) (hsub : ∀ p ∈ [Component.routers, .flows, .evr], p ∈ parts) : Steps parts s0 (State.meter s node k).1 := by
  refine Steps.via (ps := parts) (qs := [Component.routers, .flows, .evr]) h0 ?_ hsub
  clear h0 hsub
  unfold State.meter
  try dsimp only
  repeat' (first
    | with_reducible apply Steps.ite <;> intro _
    | with_reducible apply Steps.ite_fst <;> intro _
    | with_reducible exact Steps.refl _ _
    | with_reducible assumption
    | with_reducible apply State.modFlow_steps
    | with_reducible apply State.raiseEvent_steps
    | with_reducible refine Steps.foldl _ _ (fun u a h => ?_) ?_
    | with_reducible refine Steps.of_fst ?_ (by assumption)
    | with_reducible exact fun _ h => h
    | decide +kernel
    | split
    | dsimp only)

theorem State.guestRequest_steps {parts : List Component} {s0 : State} {s : State} {key g vc : Nat} {wellFormed : Bool} {k : Pkt}
    (h0 : Steps parts s0 s) (hsub : ∀ p ∈ [Component.routers, .flows, .links, .guests, .log, .evr], p ∈ parts) : Steps parts s0 (State.guestRequest s key g vc wellFormed k) := by
  refine Steps.via (ps := parts) (qs := [Component.routers, .flows, .links, .guests, .log, .evr]) h0 ?_ hsub
  clear h0 hsub
  unfold State.guestRequest
  try dsimp only
  repeat' (first
    | with_reducible apply Steps.ite <;> intro _
    | with_reducible apply Steps.ite_fst <;> intro _
    | with_reducible exact Steps.refl _ _
    | with_reducible assumption
    | with_reducible apply State.fromLink_steps
    | with_reducible apply State.guestRefuse_steps
    | with_reducible apply State.meter_steps
    | with_reducible apply State.modGuest_steps
    | with_reducible apply State.noteDenial_steps
    | with_reducible refine Steps.foldl _ _ (fun u a h => ?_) ?_
    | with_reducible refine Steps.of_fst ?_ (by assumption)
    | with_reducible exact fun _ h => h
    | decide +kernel
    | split
    | dsimp only)

theorem State.guestResponse_steps {parts : List Component} {s0 : State} {s : State} {key g vc : Nat} {wellFormed : Bool} {k : Pkt}
    (h0 : Steps parts s0 s) (hsub : ∀ p ∈ [Component.routers, .links, .guests, .log, .evr], p ∈ parts) : Steps parts s0 (State.guestResponse s key g vc wellFormed k) := by
  refine Steps.via (ps := parts) (qs := [Component.routers, .links, .guests, .log, .evr]) h0 ?_ hsub
  clear h0 hsub
  unfold State.guestResponse
  try dsimp only
  repeat' (first
    | with_reducible apply Steps.ite <;> intro _
    | with_reducible exact Steps.refl _ _
    | with_reducible assumption
    | with_reducible apply State.fromLink_steps
    | with_reducible apply State.guestDrop_steps
    | with_reducible apply State.modGuest_steps
    | with_reducible refine Steps.foldl _ _ (fun u a h => ?_) ?_
    | with_reducible exact fun _ h => h
    | decide +kernel
    | split
    | dsimp only)

theorem guestPacket_steps {parts : List Component} {s0 : State} {s : State} {key vc : Nat} {h : Nat} {data : List (BitVec 8)} {bad : Bool}
    (h0 : Steps parts s0 s) (hsub : ∀ p ∈ [Component.routers, .flows, .links, .guests, .log, .evr], p ∈ parts) : Steps parts s0 (guestPacket s key vc h data bad) := by
  refine Steps.via (ps := parts) (qs := [Component.routers, .flows, .links, .guests, .log, .evr]) h0 ?_ hsub
  clear h0 hsub
  unfold guestPacket
  try dsimp only
  repeat' (first
    | with_reducible apply Steps.ite <;> intro _
    | with_reducible exact Steps.refl _ _
    | with_reducible assumption
    | with_reducible apply State.creditDue_steps
    | with_reducible apply State.guestEvent_steps
    | with_reducible apply State.guestRequest_steps
    | with_reducible apply State.guestResponse_steps
    | with_reducible refine Steps.foldl _ _ (fun u a h => ?_) ?_
    | with_reducible exact fun _ h => h
    | decide +kernel
    | split
    | dsimp only)

theorem State.sendFrom_steps {parts : List Component} {s0 : State} {s : State} {own : BitVec 16} {k : Pkt}
    (h0 : Steps parts s0 s) (hsub : ∀ p ∈ [Component.routers], p ∈ parts) : Steps parts s0 (State.sendFrom s own k) := by
  refine Steps.via (ps := parts) (qs := [Component.routers]) h0 ?_ hsub
  clear h0 hsub
  unfold State.sendFrom
  try dsimp only
  repeat' (first
    | with_reducible apply Steps.ite <;> intro _
    | with_reducible exact Steps.refl _ _
    | with_reducible assumption
    | with_reducible apply State.inject_steps
    | with_reducible refine Steps.foldl _ _ (fun u a h => ?_) ?_
    | with_reducible exact fun _ h => h
    | decide +kernel
    | split
    | dsimp only)

theorem State.injectReq_steps {parts : List Component} {s0 : State} {s : State} {mid : BitVec 12} {q : Req} {hostTag : BitVec 10}
    (h0 : Steps parts s0 s) (hsub : ∀ p ∈ [Component.routers, .masters, .flows, .evr], p ∈ parts) : Steps parts s0 (State.injectReq s mid q hostTag).1 := by
  refine Steps.via (ps := parts) (qs := [Component.routers, .masters, .flows, .evr]) h0 ?_ hsub
  clear h0 hsub
  unfold State.injectReq
  try dsimp only
  repeat' (first
    | with_reducible apply Steps.ite <;> intro _
    | with_reducible apply Steps.ite_fst <;> intro _
    | with_reducible exact Steps.refl _ _
    | with_reducible assumption
    | with_reducible apply State.meter_steps
    | with_reducible apply State.modMaster_steps
    | with_reducible apply State.sendFrom_steps
    | with_reducible refine Steps.foldl _ _ (fun u a h => ?_) ?_
    | with_reducible refine Steps.of_fst ?_ (by assumption)
    | with_reducible exact fun _ h => h
    | decide +kernel
    | split
    | dsimp only)

theorem hostPacket_steps {parts : List Component} {s0 : State} {s : State} {p vc : Nat} {h : Nat} {data : List (BitVec 8)} {bad : Bool}
    (h0 : Steps parts s0 s) (hsub : ∀ p ∈ [Component.routers, .masters, .flows, .links, .log, .evr], p ∈ parts) : Steps parts s0 (hostPacket s p vc h data bad) := by
  refine Steps.via (ps := parts) (qs := [Component.routers, .masters, .flows, .links, .log, .evr]) h0 ?_ hsub
  clear h0 hsub
  unfold hostPacket
  try dsimp only
  repeat' (first
    | with_reducible apply Steps.ite <;> intro _
    | with_reducible apply Steps.ite_fst <;> intro _
    | with_reducible exact Steps.refl _ _
    | with_reducible assumption
    | with_reducible apply State.creditDue_steps
    | with_reducible apply State.edgeAnswer_steps
    | with_reducible apply State.injectReq_steps
    | with_reducible apply State.noteDenial_steps
    | with_reducible refine Steps.foldl _ _ (fun u a h => ?_) ?_
    | with_reducible refine Steps.of_fst ?_ (by assumption)
    | with_reducible exact fun _ h => h
    | decide +kernel
    | split
    | dsimp only)

theorem State.cutPacket_steps {parts : List Component} {s0 : State} {s : State} {k v : Nat} {p : Pkt}
    (h0 : Steps parts s0 s) (hsub : ∀ p ∈ [Component.routers, .masters, .flows, .links, .guests, .log, .evr], p ∈ parts) : Steps parts s0 (State.cutPacket s k v p) := by
  refine Steps.via (ps := parts) (qs := [Component.routers, .masters, .flows, .links, .guests, .log, .evr]) h0 ?_ hsub
  clear h0 hsub
  unfold State.cutPacket
  try dsimp only
  repeat' (first
    | with_reducible apply Steps.ite <;> intro _
    | with_reducible exact Steps.refl _ _
    | with_reducible assumption
    | with_reducible apply State.fromLink_steps
    | with_reducible apply guestPacket_steps
    | with_reducible apply hostPacket_steps
    | with_reducible refine Steps.foldl _ _ (fun u a h => ?_) ?_
    | with_reducible exact fun _ h => h
    | decide +kernel
    | split
    | dsimp only)

theorem State.dropInput_steps {parts : List Component} {s0 : State} {s : State} {k : Nat}
    (h0 : Steps parts s0 s) (hsub : ∀ p ∈ [Component.routers, .masters, .flows, .links, .guests, .log, .evr], p ∈ parts) : Steps parts s0 (State.dropInput s k) := by
  refine Steps.via (ps := parts) (qs := [Component.routers, .masters, .flows, .links, .guests, .log, .evr]) h0 ?_ hsub
  clear h0 hsub
  unfold State.dropInput
  try dsimp only
  repeat' (first
    | with_reducible apply Steps.ite <;> intro _
    | with_reducible exact Steps.refl _ _
    | with_reducible assumption
    | with_reducible apply State.cutPacket_steps
    | with_reducible apply State.modRouter_steps
    | with_reducible refine Steps.foldl _ _ (fun u a h => ?_) ?_
    | with_reducible exact fun _ h => h
    | decide +kernel
    | split
    | dsimp only)

theorem State.eventGaps_steps {parts : List Component} {s0 : State} {old s : State} {k : Nat}
    (h0 : Steps parts s0 s) (hsub : ∀ p ∈ [Component.log], p ∈ parts) : Steps parts s0 (State.eventGaps old s k) := by
  refine Steps.via (ps := parts) (qs := [Component.log]) h0 ?_ hsub
  clear h0 hsub
  unfold State.eventGaps
  try dsimp only
  repeat' (first
    | with_reducible apply Steps.ite <;> intro _
    | with_reducible exact Steps.refl _ _
    | with_reducible assumption
    | with_reducible apply State.logNote_steps
    | with_reducible refine Steps.foldl _ _ (fun u a h => ?_) ?_
    | with_reducible exact fun _ h => h
    | decide +kernel
    | split
    | dsimp only)

theorem State.guestLinkGone_steps {parts : List Component} {s0 : State} {s : State} {g : Nat}
    (h0 : Steps parts s0 s) (hsub : ∀ p ∈ [Component.guests], p ∈ parts) : Steps parts s0 (State.guestLinkGone s g) := by
  refine Steps.via (ps := parts) (qs := [Component.guests]) h0 ?_ hsub
  clear h0 hsub
  unfold State.guestLinkGone
  try dsimp only
  repeat' (first
    | with_reducible apply Steps.ite <;> intro _
    | with_reducible exact Steps.refl _ _
    | with_reducible assumption
    | with_reducible apply State.modGuest_steps
    | with_reducible refine Steps.foldl _ _ (fun u a h => ?_) ?_
    | with_reducible exact fun _ h => h
    | decide +kernel
    | split
    | dsimp only)

theorem State.linkGone_steps {parts : List Component} {s0 : State} {s : State} {k : Nat} {tamper : Bool}
    (h0 : Steps parts s0 s) (hsub : ∀ p ∈ [Component.routers, .masters, .flows, .links, .guests, .linkKeys, .log, .evr], p ∈ parts) : Steps parts s0 (State.linkGone s k tamper) := by
  refine Steps.via (ps := parts) (qs := [Component.routers, .masters, .flows, .links, .guests, .linkKeys, .log, .evr]) h0 ?_ hsub
  clear h0 hsub
  unfold State.linkGone
  try dsimp only
  repeat' (first
    | with_reducible apply Steps.ite <;> intro _
    | with_reducible exact Steps.refl _ _
    | with_reducible assumption
    | with_reducible apply State.dropInput_steps
    | with_reducible apply State.eventGaps_steps
    | with_reducible apply State.guestLinkGone_steps
    | with_reducible apply State.modLink_steps
    | with_reducible apply State.modLinkKey_steps
    | with_reducible apply State.modMaster_steps
    | with_reducible refine Steps.foldl _ _ (fun u a h => ?_) ?_
    | with_reducible exact fun _ h => h
    | decide +kernel
    | split
    | dsimp only)

theorem State.leaveActive_steps {parts : List Component} {s0 : State} {s : State} {k : Nat} {tamper : Bool}
    (h0 : Steps parts s0 s) (hsub : ∀ p ∈ [Component.routers, .masters, .flows, .links, .guests, .linkKeys, .tb, .log, .evr], p ∈ parts) : Steps parts s0 (State.leaveActive s k tamper) := by
  refine Steps.via (ps := parts) (qs := [Component.routers, .masters, .flows, .links, .guests, .linkKeys, .tb, .log, .evr]) h0 ?_ hsub
  clear h0 hsub
  unfold State.leaveActive
  try dsimp only
  repeat' (first
    | with_reducible apply Steps.ite <;> intro _
    | with_reducible exact Steps.refl _ _
    | with_reducible assumption
    | with_reducible apply State.laneClockStops_steps
    | with_reducible apply State.linkGone_steps
    | with_reducible refine Steps.foldl _ _ (fun u a h => ?_) ?_
    | with_reducible exact fun _ h => h
    | decide +kernel
    | split
    | dsimp only)

theorem State.laneKill_steps {parts : List Component} {s0 : State} {s : State} {k : Nat}
    (h0 : Steps parts s0 s) (hsub : ∀ p ∈ [Component.routers, .masters, .flows, .lanesets, .links, .guests, .linkKeys, .tb, .gable, .log, .evr], p ∈ parts) : Steps parts s0 (State.laneKill s k) := by
  refine Steps.via (ps := parts) (qs := [Component.routers, .masters, .flows, .lanesets, .links, .guests, .linkKeys, .tb, .gable, .log, .evr]) h0 ?_ hsub
  clear h0 hsub
  unfold State.laneKill
  try dsimp only
  repeat' (first
    | with_reducible apply Steps.ite <;> intro _
    | with_reducible exact Steps.refl _ _
    | with_reducible assumption
    | with_reducible apply State.dropUp_steps
    | with_reducible apply State.laneOff_steps
    | with_reducible apply State.leaveActive_steps
    | with_reducible refine Steps.foldl _ _ (fun u a h => ?_) ?_
    | with_reducible exact fun _ h => h
    | decide +kernel
    | split
    | dsimp only)

theorem State.stopNode_steps {parts : List Component} {s0 : State} {s : State} {c : Nat}
    (h0 : Steps parts s0 s) (hsub : ∀ p ∈ [Component.clk], p ∈ parts) : Steps parts s0 (State.stopNode s c) := by
  refine Steps.via (ps := parts) (qs := [Component.clk]) h0 ?_ hsub
  clear h0 hsub
  unfold State.stopNode
  try dsimp only
  repeat' (first
    | with_reducible apply Steps.ite <;> intro _
    | with_reducible exact Steps.refl _ _
    | with_reducible assumption
    | with_reducible apply State.modNode_steps
    | with_reducible refine Steps.foldl _ _ (fun u a h => ?_) ?_
    | with_reducible exact fun _ h => h
    | decide +kernel
    | split
    | dsimp only)

theorem State.napDie_steps {parts : List Component} {s0 : State} {s : State} {d : Nat}
    (h0 : Steps parts s0 s) (hsub : ∀ p ∈ [Component.clk], p ∈ parts) : Steps parts s0 (State.napDie s d) := by
  refine Steps.via (ps := parts) (qs := [Component.clk]) h0 ?_ hsub
  clear h0 hsub
  unfold State.napDie
  try dsimp only
  repeat' (first
    | with_reducible apply Steps.ite <;> intro _
    | with_reducible exact Steps.refl _ _
    | with_reducible assumption
    | with_reducible apply State.stopNode_steps
    | with_reducible refine Steps.foldl _ _ (fun u a h => ?_) ?_
    | with_reducible exact fun _ h => h
    | decide +kernel
    | split
    | dsimp only)

theorem State.periReset_steps {parts : List Component} {s0 : State} {s : State}
    (h0 : Steps parts s0 s) (hsub : ∀ p ∈ [Component.svc], p ∈ parts) : Steps parts s0 (State.periReset s) := by
  refine Steps.via (ps := parts) (qs := [Component.svc]) h0 ?_ hsub
  clear h0 hsub
  unfold State.periReset
  try dsimp only
  repeat' (first
    | with_reducible apply Steps.ite <;> intro _
    | with_reducible exact Steps.refl _ _
    | with_reducible assumption
    | with_reducible apply State.modSvc_steps
    | with_reducible refine Steps.foldl _ _ (fun u a h => ?_) ?_
    | with_reducible exact fun _ h => h
    | decide +kernel
    | split
    | dsimp only)

theorem State.unload_steps {parts : List Component} {s0 : State} {s : State}
    (h0 : Steps parts s0 s) (hsub : ∀ p ∈ [Component.ids, .acls, .dies, .routers, .masters, .flows, .lanesets, .links, .guests, .linkKeys, .hpins, .tb, .cfg, .dram, .flash, .fregions, .dma, .gable, .clk, .log, .evr, .svc], p ∈ parts) : Steps parts s0 (State.unload s) := by
  refine Steps.via (ps := parts) (qs := [Component.ids, .acls, .dies, .routers, .masters, .flows, .lanesets, .links, .guests, .linkKeys, .hpins, .tb, .cfg, .dram, .flash, .fregions, .dma, .gable, .clk, .log, .evr, .svc]) h0 ?_ hsub
  clear h0 hsub
  unfold State.unload
  try dsimp only
  repeat' (first
    | with_reducible apply Steps.ite <;> intro _
    | with_reducible exact Steps.refl _ _
    | with_reducible assumption
    | with_reducible apply State.chanOff_steps
    | with_reducible apply State.dropOuts_steps
    | with_reducible apply State.failHosts_steps
    | with_reducible apply State.laneKill_steps
    | with_reducible apply State.modCfg_steps
    | with_reducible apply State.modChan_steps
    | with_reducible apply State.modClk_steps
    | with_reducible apply State.modDma_steps
    | with_reducible apply State.modDram_steps
    | with_reducible apply State.modEvr_steps
    | with_reducible apply State.modSvc_steps
    | with_reducible apply State.napDie_steps
    | with_reducible apply State.periReset_steps
    | with_reducible apply State.setAcls_steps
    | with_reducible apply State.setDies_steps
    | with_reducible apply State.setFlash_steps
    | with_reducible apply State.setFregions_steps
    | with_reducible apply State.setHpins_steps
    | with_reducible apply State.setIds_steps
    | with_reducible refine Steps.foldl _ _ (fun u a h => ?_) ?_
    | with_reducible exact tabWf_tmod _ _ _ _
    | with_reducible exact tabWf_tput _ _ _ _
    | with_reducible exact tabWf_tmodAll _ _ _ _
    | with_reducible exact fun _ => tabWf_nil _
    | with_reducible exact fun _ => recoveryTables_wf
    | with_reducible exact fun _ h => h
    | decide +kernel
    | split
    | dsimp only)

theorem State.failLoad_steps {parts : List Component} {s0 : State} {s : State} {cause seg : Nat}
    (h0 : Steps parts s0 s) (hsub : ∀ p ∈ [Component.ids, .acls, .dies, .routers, .masters, .flows, .lanesets, .links, .guests, .linkKeys, .hpins, .tb, .cfg, .dram, .flash, .fregions, .dma, .gable, .clk, .log, .evr, .svc], p ∈ parts) : Steps parts s0 (State.failLoad s cause seg) := by
  refine Steps.via (ps := parts) (qs := [Component.ids, .acls, .dies, .routers, .masters, .flows, .lanesets, .links, .guests, .linkKeys, .hpins, .tb, .cfg, .dram, .flash, .fregions, .dma, .gable, .clk, .log, .evr, .svc]) h0 ?_ hsub
  clear h0 hsub
  unfold State.failLoad
  try dsimp only
  repeat' (first
    | with_reducible apply Steps.ite <;> intro _
    | with_reducible exact Steps.refl _ _
    | with_reducible assumption
    | with_reducible apply State.enterRecovery_steps
    | with_reducible apply State.logNote_steps
    | with_reducible apply State.modCfg_steps
    | with_reducible apply State.modSlot_steps
    | with_reducible apply State.nextSource_steps
    | with_reducible apply State.raiseHub_steps
    | with_reducible apply State.setGstate_steps
    | with_reducible apply State.unload_steps
    | with_reducible refine Steps.foldl _ _ (fun u a h => ?_) ?_
    | with_reducible exact fun _ h => h
    | decide +kernel
    | split
    | dsimp only)

theorem State.progFail_steps {parts : List Component} {s0 : State} {s : State} {cause seg : Nat}
    (h0 : Steps parts s0 s) (hsub : ∀ p ∈ [Component.acls, .cfg, .gable, .log, .evr], p ∈ parts) : Steps parts s0 (State.progFail s cause seg) := by
  refine Steps.via (ps := parts) (qs := [Component.acls, .cfg, .gable, .log, .evr]) h0 ?_ hsub
  clear h0 hsub
  unfold State.progFail
  try dsimp only
  repeat' (first
    | with_reducible apply Steps.ite <;> intro _
    | with_reducible exact Steps.refl _ _
    | with_reducible assumption
    | with_reducible apply State.closeStrm_steps
    | with_reducible apply State.completeOpt_steps
    | with_reducible apply State.logNote_steps
    | with_reducible apply State.modCfg_steps
    | with_reducible apply State.modSlot_steps
    | with_reducible refine Steps.foldl _ _ (fun u a h => ?_) ?_
    | with_reducible exact fun _ h => h
    | decide +kernel
    | split
    | dsimp only)

theorem State.strmFail_steps {parts : List Component} {s0 : State} {s : State} {prog : Bool} {cause seg : Nat}
    (h0 : Steps parts s0 s) (hsub : ∀ p ∈ [Component.ids, .acls, .dies, .routers, .masters, .flows, .lanesets, .links, .guests, .linkKeys, .hpins, .tb, .cfg, .dram, .flash, .fregions, .dma, .gable, .clk, .log, .evr, .svc], p ∈ parts) : Steps parts s0 (State.strmFail s prog cause seg) := by
  refine Steps.via (ps := parts) (qs := [Component.ids, .acls, .dies, .routers, .masters, .flows, .lanesets, .links, .guests, .linkKeys, .hpins, .tb, .cfg, .dram, .flash, .fregions, .dma, .gable, .clk, .log, .evr, .svc]) h0 ?_ hsub
  clear h0 hsub
  unfold State.strmFail
  try dsimp only
  repeat' (first
    | with_reducible apply Steps.ite <;> intro _
    | with_reducible exact Steps.refl _ _
    | with_reducible assumption
    | with_reducible apply State.bayFail_steps
    | with_reducible apply State.failLoad_steps
    | with_reducible apply State.progFail_steps
    | with_reducible refine Steps.foldl _ _ (fun u a h => ?_) ?_
    | with_reducible exact fun _ h => h
    | decide +kernel
    | split
    | dsimp only)

theorem State.takeHeader_steps {parts : List Component} {s0 : State} {s : State} {prog : Bool} {h : Bytes}
    (h0 : Steps parts s0 s) (hsub : ∀ p ∈ [Component.ids, .acls, .dies, .routers, .masters, .flows, .lanesets, .links, .guests, .linkKeys, .hpins, .tb, .cfg, .dram, .flash, .fregions, .dma, .gable, .clk, .log, .evr, .svc], p ∈ parts) : Steps parts s0 (State.takeHeader s prog h) := by
  refine Steps.via (ps := parts) (qs := [Component.ids, .acls, .dies, .routers, .masters, .flows, .lanesets, .links, .guests, .linkKeys, .hpins, .tb, .cfg, .dram, .flash, .fregions, .dma, .gable, .clk, .log, .evr, .svc]) h0 ?_ hsub
  clear h0 hsub
  unfold State.takeHeader
  try dsimp only
  repeat' (first
    | with_reducible apply Steps.ite <;> intro _
    | with_reducible exact Steps.refl _ _
    | with_reducible assumption
    | with_reducible apply State.modSlot_steps
    | with_reducible apply State.modStrm_steps
    | with_reducible apply State.strmFail_steps
    | with_reducible refine Steps.foldl _ _ (fun u a h => ?_) ?_
    | with_reducible exact fun _ h => h
    | decide +kernel
    | split
    | dsimp only)

theorem State.openBay_steps {parts : List Component} {s0 : State} {s : State} {x : Stream}
    (h0 : Steps parts s0 s) (hsub : ∀ p ∈ [Component.free, .ids, .acls, .dies, .routers, .masters, .flows, .lanesets, .links, .guests, .linkKeys, .hpins, .tb, .cfg, .dram, .flash, .fregions, .dma, .gable, .clk, .log, .evr, .svc], p ∈ parts) : Steps parts s0 (State.openBay s x) := by
  refine Steps.via (ps := parts) (qs := [Component.free, .ids, .acls, .dies, .routers, .masters, .flows, .lanesets, .links, .guests, .linkKeys, .hpins, .tb, .cfg, .dram, .flash, .fregions, .dma, .gable, .clk, .log, .evr, .svc]) h0 ?_ hsub
  clear h0 hsub
  unfold State.openBay
  try dsimp only
  repeat' (first
    | with_reducible apply Steps.ite <;> intro _
    | with_reducible exact Steps.refl _ _
    | with_reducible assumption
    | with_reducible apply State.admitPush_steps
    | with_reducible apply State.bayFail_steps
    | with_reducible apply State.modCfg_steps
    | with_reducible apply State.takeHeader_steps
    | with_reducible refine Steps.foldl _ _ (fun u a h => ?_) ?_
    | with_reducible exact fun _ h => h
    | decide +kernel
    | split
    | dsimp only)

theorem State.startLoad_steps {parts : List Component} {s0 : State} {s : State} {d b tok : Nat} {arg : Bytes}
    (h0 : Steps parts s0 s) (hsub : ∀ p ∈ [Component.free, .ids, .acls, .dies, .routers, .masters, .flows, .lanesets, .links, .guests, .linkKeys, .hpins, .tb, .cfg, .dram, .flash, .fregions, .dma, .gable, .clk, .log, .evr, .svc], p ∈ parts) : Steps parts s0 (State.startLoad s d b tok arg) := by
  refine Steps.via (ps := parts) (qs := [Component.free, .ids, .acls, .dies, .routers, .masters, .flows, .lanesets, .links, .guests, .linkKeys, .hpins, .tb, .cfg, .dram, .flash, .fregions, .dma, .gable, .clk, .log, .evr, .svc]) h0 ?_ hsub
  clear h0 hsub
  unfold State.startLoad
  try dsimp only
  repeat' (first
    | with_reducible apply Steps.ite <;> intro _
    | with_reducible exact Steps.refl _ _
    | with_reducible assumption
    | with_reducible apply State.modBay_steps
    | with_reducible apply State.openBay_steps
    | with_reducible refine Steps.foldl _ _ (fun u a h => ?_) ?_
    | with_reducible exact fun _ h => h
    | decide +kernel
    | split
    | dsimp only)

theorem bayLoadBody_steps {parts : List Component} {s0 : State} {s : State} {m : Nat} {r : Request}
    (h0 : Steps parts s0 s) (hsub : ∀ p ∈ [Component.free, .ids, .acls, .dies, .routers, .masters, .flows, .lanesets, .links, .guests, .linkKeys, .hpins, .tb, .cfg, .dram, .flash, .fregions, .dma, .gable, .clk, .log, .evr, .svc], p ∈ parts) : Steps parts s0 (bayLoadBody s m r).1 := by
  refine Steps.via (ps := parts) (qs := [Component.free, .ids, .acls, .dies, .routers, .masters, .flows, .lanesets, .links, .guests, .linkKeys, .hpins, .tb, .cfg, .dram, .flash, .fregions, .dma, .gable, .clk, .log, .evr, .svc]) h0 ?_ hsub
  clear h0 hsub
  unfold bayLoadBody
  try dsimp only
  repeat' (first
    | with_reducible apply Steps.ite <;> intro _
    | with_reducible apply Steps.ite_fst <;> intro _
    | with_reducible exact Steps.refl _ _
    | with_reducible assumption
    | with_reducible apply State.holdBay_steps
    | with_reducible apply State.startLoad_steps
    | with_reducible refine Steps.foldl _ _ (fun u a h => ?_) ?_
    | with_reducible refine Steps.of_fst ?_ (by assumption)
    | with_reducible exact fun _ h => h
    | decide +kernel
    | split
    | dsimp only)

theorem Command.run_steps {ps : List Component} {s0 s : State} {c : Command} {m : Nat} {r : Request}
    (hb : ∀ u, Steps ps s0 u → Steps ps s0 (c.body u m r).1) (h : Steps ps s0 s) (sub : ∀ p ∈ [Component.gable], p ∈ ps) :
    Steps ps s0 (c.run s m r).1 := by
  unfold Command.run
  split
  · split
    · exact h
    · dsimp only
      split
      · exact hb _ (State.modMbx_steps h sub)
      · exact State.modMbx_steps (hb _ (State.modMbx_steps h sub)) sub
  · exact hb _ h

theorem Command.judge_steps {ps : List Component} {s0 s : State} {c : Command} {m : Nat} {r : Request}
    (hb : ∀ u, Steps ps s0 u → Steps ps s0 (c.body u m r).1) (h : Steps ps s0 s) (sub : ∀ p ∈ [Component.gable], p ∈ ps) :
    Steps ps s0 (c.judge s m r).1 := by
  unfold Command.judge
  dsimp only
  repeat' (first | with_reducible apply Steps.ite_fst <;> intro _ | exact h | exact Command.run_steps hb h sub | split)

theorem State.writeAnswer_steps {parts : List Component} {s0 : State} {s : State} {m seq status : Nat} {dup : Bool} {session : Nat} {data : List (BitVec 8)}
    (h0 : Steps parts s0 s) (hsub : ∀ p ∈ [Component.gable, .evr], p ∈ parts) : Steps parts s0 (State.writeAnswer s m seq status dup session data) := by
  refine Steps.via (ps := parts) (qs := [Component.gable, .evr]) h0 ?_ hsub
  clear h0 hsub
  unfold State.writeAnswer
  try dsimp only
  repeat' (first
    | with_reducible apply Steps.ite <;> intro _
    | with_reducible exact Steps.refl _ _
    | with_reducible assumption
    | with_reducible apply State.mbxRise_steps
    | with_reducible apply State.modGable_steps
    | with_reducible apply State.modMbx_steps
    | with_reducible refine Steps.foldl _ _ (fun u a h => ?_) ?_
    | with_reducible exact fun _ h => h
    | decide +kernel
    | split
    | dsimp only)

end Sys2Proof.Machine
end

