-- ==== Sys2Proof/Laws/Steps2.lean ====
section
/-! SUPPORT. Part 2 of the step lemmas: for each operation of the machine, which components of State it may change, and that it keeps
    every table's canonical form. Each lemma cites those of the operations it calls; none unfolds a callee. -/

open Sys2Proof
namespace Sys2Proof.Machine

set_option linter.all false
set_option Elab.async false

theorem Command.serve_steps {ps : List Component} {s0 s : State} {c : Command} {m : Nat} (hb : ∀ u r, Steps ps s0 u → Steps ps s0 (c.body u m r).1)
    (ha : ∀ u, Steps ps s0 u → Steps ps s0 (c.after u m)) (h : Steps ps s0 s) (sub : ∀ p ∈ [Component.gable, .evr], p ∈ ps) :
    Steps ps s0 (c.serve m s) := by
  have hg : ∀ p ∈ [Component.gable], p ∈ ps := fun p hp => sub p (by simp_all)
  unfold Command.serve
  dsimp only
  repeat' (first
    | with_reducible apply Steps.ite <;> intro _
    | exact h
    | exact hg
    | with_reducible assumption
    | with_reducible apply State.writeAnswer_steps
    | with_reducible apply State.modMbx_steps
    | with_reducible apply State.modGable_steps
    | with_reducible apply ha
    | with_reducible refine Command.judge_steps (fun u hu => hb u _ hu) ?_ ?_
    | split)

theorem State.noSource_steps {parts : List Component} {s0 : State} {s : State} {d b : Nat}
    (h0 : Steps parts s0 s) (hsub : ∀ p ∈ [Component.dies, .routers, .evr], p ∈ parts) : Steps parts s0 (State.noSource s d b) := by
  refine Steps.via (ps := parts) (qs := [Component.dies, .routers, .evr]) h0 ?_ hsub
  clear h0 hsub
  unfold State.noSource
  try dsimp only
  repeat' (first
    | with_reducible apply Steps.ite <;> intro _
    | with_reducible exact Steps.refl _ _
    | with_reducible assumption
    | with_reducible apply State.modBay_steps
    | with_reducible apply State.raiseEvent_steps
    | with_reducible refine Steps.foldl _ _ (fun u a h => ?_) ?_
    | with_reducible exact fun _ h => h
    | decide +kernel
    | split
    | dsimp only)

theorem State.startShut_steps {parts : List Component} {s0 : State} {s : State} {d b : Nat} {wipe noSrc : Bool} {cmds : List Nat}
    (h0 : Steps parts s0 s) (hsub : ∀ p ∈ [Component.dies, .routers, .masters, .lad], p ∈ parts) : Steps parts s0 (State.startShut s d b wipe noSrc cmds) := by
  refine Steps.via (ps := parts) (qs := [Component.dies, .routers, .masters, .lad]) h0 ?_ hsub
  clear h0 hsub
  unfold State.startShut
  try dsimp only
  repeat' (first
    | with_reducible apply Steps.ite <;> intro _
    | with_reducible exact Steps.refl _ _
    | with_reducible assumption
    | with_reducible apply State.clampBay_steps
    | with_reducible apply State.modBay_steps
    | with_reducible refine Steps.foldl _ _ (fun u a h => ?_) ?_
    | with_reducible exact fun _ h => h
    | decide +kernel
    | split
    | dsimp only)

theorem State.repairBay_steps {parts : List Component} {s0 : State} {s : State} {d b : Nat}
    (h0 : Steps parts s0 s) (hsub : ∀ p ∈ [Component.free, .ids, .acls, .dies, .routers, .masters, .flows, .lanesets, .links, .guests, .linkKeys, .hpins, .tb, .cfg, .dram, .flash, .fregions, .dma, .gable, .clk, .log, .evr, .svc, .lad], p ∈ parts) : Steps parts s0 (State.repairBay s d b) := by
  refine Steps.via (ps := parts) (qs := [Component.free, .ids, .acls, .dies, .routers, .masters, .flows, .lanesets, .links, .guests, .linkKeys, .hpins, .tb, .cfg, .dram, .flash, .fregions, .dma, .gable, .clk, .log, .evr, .svc, .lad]) h0 ?_ hsub
  clear h0 hsub
  unfold State.repairBay
  try dsimp only
  repeat' (first
    | with_reducible apply Steps.ite <;> intro _
    | with_reducible exact Steps.refl _ _
    | with_reducible assumption
    | with_reducible apply State.emptyBay_steps
    | with_reducible apply State.endRun_steps
    | with_reducible apply State.noSource_steps
    | with_reducible apply State.openBay_steps
    | with_reducible apply State.startShut_steps
    | with_reducible refine Steps.foldl _ _ (fun u a h => ?_) ?_
    | with_reducible exact fun _ h => h
    | decide +kernel
    | split
    | dsimp only)

theorem State.startEnable_steps {parts : List Component} {s0 : State} {s : State} {d b tok : Nat}
    (h0 : Steps parts s0 s) (hsub : ∀ p ∈ [Component.free, .rsp, .ids, .acls, .dies, .routers, .masters, .flows, .lanesets, .links, .guests, .linkKeys, .hpins, .tb, .cfg, .dram, .flash, .fregions, .dma, .gable, .clk, .log, .evr, .svc, .lad], p ∈ parts) : Steps parts s0 (State.startEnable s d b tok) := by
  refine Steps.via (ps := parts) (qs := [Component.free, .rsp, .ids, .acls, .dies, .routers, .masters, .flows, .lanesets, .links, .guests, .linkKeys, .hpins, .tb, .cfg, .dram, .flash, .fregions, .dma, .gable, .clk, .log, .evr, .svc, .lad]) h0 ?_ hsub
  clear h0 hsub
  unfold State.startEnable
  try dsimp only
  repeat' (first
    | with_reducible apply Steps.ite <;> intro _
    | with_reducible exact Steps.refl _ _
    | with_reducible assumption
    | with_reducible apply State.endRun_steps
    | with_reducible apply State.modBay_steps
    | with_reducible apply State.modCfg_steps
    | with_reducible apply State.releaseBay_steps
    | with_reducible apply State.repairBay_steps
    | with_reducible refine Steps.foldl _ _ (fun u a h => ?_) ?_
    | with_reducible exact fun _ h => h
    | decide +kernel
    | split
    | dsimp only)

theorem State.judgeHeld_steps {parts : List Component} {s0 : State} {s : State} {d b : Nat}
    (h0 : Steps parts s0 s) (hsub : ∀ p ∈ [Component.free, .rsp, .ids, .acls, .dies, .routers, .masters, .flows, .lanesets, .links, .guests, .linkKeys, .hpins, .tb, .cfg, .dram, .flash, .fregions, .dma, .gable, .clk, .log, .evr, .svc, .lad], p ∈ parts) : Steps parts s0 (State.judgeHeld s d b) := by
  refine Steps.via (ps := parts) (qs := [Component.free, .rsp, .ids, .acls, .dies, .routers, .masters, .flows, .lanesets, .links, .guests, .linkKeys, .hpins, .tb, .cfg, .dram, .flash, .fregions, .dma, .gable, .clk, .log, .evr, .svc, .lad]) h0 ?_ hsub
  clear h0 hsub
  unfold State.judgeHeld
  try dsimp only
  repeat' (first
    | with_reducible apply Steps.ite <;> intro _
    | with_reducible exact Steps.refl _ _
    | with_reducible assumption
    | with_reducible apply State.complete_steps
    | with_reducible apply State.modBay_steps
    | with_reducible apply State.startEnable_steps
    | with_reducible apply State.startLoad_steps
    | with_reducible refine Steps.foldl _ _ (fun u a h => ?_) ?_
    | with_reducible exact fun _ h => h
    | decide +kernel
    | split
    | dsimp only)

theorem State.shutEndBay_steps {parts : List Component} {s0 : State} {s : State} {d b : Nat}
    (h0 : Steps parts s0 s) (hsub : ∀ p ∈ [Component.free, .rsp, .ids, .acls, .dies, .routers, .masters, .flows, .lanesets, .links, .guests, .linkKeys, .hpins, .tb, .cfg, .dram, .flash, .fregions, .dma, .gable, .clk, .log, .evr, .svc, .lad], p ∈ parts) : Steps parts s0 (State.shutEndBay s d b) := by
  refine Steps.via (ps := parts) (qs := [Component.free, .rsp, .ids, .acls, .dies, .routers, .masters, .flows, .lanesets, .links, .guests, .linkKeys, .hpins, .tb, .cfg, .dram, .flash, .fregions, .dma, .gable, .clk, .log, .evr, .svc, .lad]) h0 ?_ hsub
  clear h0 hsub
  unfold State.shutEndBay
  try dsimp only
  repeat' (first
    | with_reducible apply Steps.ite <;> intro _
    | with_reducible exact Steps.refl _ _
    | with_reducible assumption
    | with_reducible apply State.completeAll_steps
    | with_reducible apply State.emptyBay_steps
    | with_reducible apply State.judgeHeld_steps
    | with_reducible apply State.modBay_steps
    | with_reducible apply State.noSource_steps
    | with_reducible refine Steps.foldl _ _ (fun u a h => ?_) ?_
    | with_reducible exact fun _ h => h
    | decide +kernel
    | split
    | dsimp only)

theorem bayShutdownBody_steps {parts : List Component} {s0 : State} {s : State} {m : Nat} {r : Request}
    (h0 : Steps parts s0 s) (hsub : ∀ p ∈ [Component.free, .rsp, .ids, .acls, .dies, .routers, .masters, .flows, .lanesets, .links, .guests, .linkKeys, .hpins, .tb, .cfg, .dram, .flash, .fregions, .dma, .gable, .clk, .log, .evr, .svc, .lad], p ∈ parts) : Steps parts s0 (bayShutdownBody s m r).1 := by
  refine Steps.via (ps := parts) (qs := [Component.free, .rsp, .ids, .acls, .dies, .routers, .masters, .flows, .lanesets, .links, .guests, .linkKeys, .hpins, .tb, .cfg, .dram, .flash, .fregions, .dma, .gable, .clk, .log, .evr, .svc, .lad]) h0 ?_ hsub
  clear h0 hsub
  unfold bayShutdownBody
  try dsimp only
  repeat' (first
    | with_reducible apply Steps.ite <;> intro _
    | with_reducible apply Steps.ite_fst <;> intro _
    | with_reducible exact Steps.refl _ _
    | with_reducible assumption
    | with_reducible apply State.modBay_steps
    | with_reducible apply State.shutEndBay_steps
    | with_reducible apply State.startShut_steps
    | with_reducible refine Steps.foldl _ _ (fun u a h => ?_) ?_
    | with_reducible refine Steps.of_fst ?_ (by assumption)
    | with_reducible exact fun _ h => h
    | decide +kernel
    | split
    | dsimp only)

theorem bayRestoreBody_steps {parts : List Component} {s0 : State} {s : State} {m : Nat} {r : Request}
    (h0 : Steps parts s0 s) (hsub : ∀ p ∈ [Component.dies, .routers, .masters, .lad], p ∈ parts) : Steps parts s0 (bayRestoreBody s m r).1 := by
  refine Steps.via (ps := parts) (qs := [Component.dies, .routers, .masters, .lad]) h0 ?_ hsub
  clear h0 hsub
  unfold bayRestoreBody
  try dsimp only
  repeat' (first
    | with_reducible apply Steps.ite <;> intro _
    | with_reducible apply Steps.ite_fst <;> intro _
    | with_reducible exact Steps.refl _ _
    | with_reducible assumption
    | with_reducible apply State.clampBay_steps
    | with_reducible apply State.modBay_steps
    | with_reducible refine Steps.foldl _ _ (fun u a h => ?_) ?_
    | with_reducible refine Steps.of_fst ?_ (by assumption)
    | with_reducible exact fun _ h => h
    | decide +kernel
    | split
    | dsimp only)

theorem bayEnableBody_steps {parts : List Component} {s0 : State} {s : State} {m : Nat} {r : Request}
    (h0 : Steps parts s0 s) (hsub : ∀ p ∈ [Component.free, .rsp, .ids, .acls, .dies, .routers, .masters, .flows, .lanesets, .links, .guests, .linkKeys, .hpins, .tb, .cfg, .dram, .flash, .fregions, .dma, .gable, .clk, .log, .evr, .svc, .lad], p ∈ parts) : Steps parts s0 (bayEnableBody s m r).1 := by
  refine Steps.via (ps := parts) (qs := [Component.free, .rsp, .ids, .acls, .dies, .routers, .masters, .flows, .lanesets, .links, .guests, .linkKeys, .hpins, .tb, .cfg, .dram, .flash, .fregions, .dma, .gable, .clk, .log, .evr, .svc, .lad]) h0 ?_ hsub
  clear h0 hsub
  unfold bayEnableBody
  try dsimp only
  repeat' (first
    | with_reducible apply Steps.ite <;> intro _
    | with_reducible apply Steps.ite_fst <;> intro _
    | with_reducible exact Steps.refl _ _
    | with_reducible assumption
    | with_reducible apply State.holdBay_steps
    | with_reducible apply State.startEnable_steps
    | with_reducible refine Steps.foldl _ _ (fun u a h => ?_) ?_
    | with_reducible refine Steps.of_fst ?_ (by assumption)
    | with_reducible exact fun _ h => h
    | decide +kernel
    | split
    | dsimp only)

theorem bayRepairStart_steps {parts : List Component} {s0 : State} {s : State}
    (h0 : Steps parts s0 s) (hsub : ∀ p ∈ [Component.free, .ids, .acls, .dies, .routers, .masters, .flows, .lanesets, .links, .guests, .linkKeys, .hpins, .tb, .cfg, .dram, .flash, .fregions, .dma, .gable, .clk, .log, .evr, .svc, .lad], p ∈ parts) : Steps parts s0 (bayRepairStart s) := by
  refine Steps.via (ps := parts) (qs := [Component.free, .ids, .acls, .dies, .routers, .masters, .flows, .lanesets, .links, .guests, .linkKeys, .hpins, .tb, .cfg, .dram, .flash, .fregions, .dma, .gable, .clk, .log, .evr, .svc, .lad]) h0 ?_ hsub
  clear h0 hsub
  unfold bayRepairStart
  try dsimp only
  repeat' (first
    | with_reducible apply Steps.ite <;> intro _
    | with_reducible exact Steps.refl _ _
    | with_reducible assumption
    | with_reducible apply State.modCfg_steps
    | with_reducible apply State.repairBay_steps
    | with_reducible refine Steps.foldl _ _ (fun u a h => ?_) ?_
    | with_reducible exact fun _ h => h
    | decide +kernel
    | split
    | dsimp only)

theorem State.lgEvent_steps {parts : List Component} {s0 : State} {s : State} {d evid data : Nat} {note : LogEntry}
    (h0 : Steps parts s0 s) (hsub : ∀ p ∈ [Component.dies, .routers], p ∈ parts) : Steps parts s0 (State.lgEvent s d evid data note) := by
  refine Steps.via (ps := parts) (qs := [Component.dies, .routers]) h0 ?_ hsub
  clear h0 hsub
  unfold State.lgEvent
  try dsimp only
  repeat' (first
    | with_reducible apply Steps.ite <;> intro _
    | with_reducible exact Steps.refl _ _
    | with_reducible assumption
    | with_reducible apply State.inject_steps
    | with_reducible apply State.modLeggett_steps
    | with_reducible refine Steps.foldl _ _ (fun u a h => ?_) ?_
    | with_reducible exact fun _ h => h
    | decide +kernel
    | split
    | dsimp only)

theorem State.lgNote_steps {parts : List Component} {s0 : State} {s : State} {d : Nat} {note : LogEntry}
    (h0 : Steps parts s0 s) (hsub : ∀ p ∈ [Component.dies, .log], p ∈ parts) : Steps parts s0 (State.lgNote s d note) := by
  refine Steps.via (ps := parts) (qs := [Component.dies, .log]) h0 ?_ hsub
  clear h0 hsub
  unfold State.lgNote
  try dsimp only
  repeat' (first
    | with_reducible apply Steps.ite <;> intro _
    | with_reducible exact Steps.refl _ _
    | with_reducible assumption
    | with_reducible apply State.logNote_steps
    | with_reducible apply State.modLeggett_steps
    | with_reducible refine Steps.foldl _ _ (fun u a h => ?_) ?_
    | with_reducible exact fun _ h => h
    | decide +kernel
    | split
    | dsimp only)

theorem State.frameCorr_steps {parts : List Component} {s0 : State} {s : State} {d i word : Nat}
    (h0 : Steps parts s0 s) (hsub : ∀ p ∈ [Component.dies, .routers, .log], p ∈ parts) : Steps parts s0 (State.frameCorr s d i word) := by
  refine Steps.via (ps := parts) (qs := [Component.dies, .routers, .log]) h0 ?_ hsub
  clear h0 hsub
  unfold State.frameCorr
  try dsimp only
  repeat' (first
    | with_reducible apply Steps.ite <;> intro _
    | with_reducible exact Steps.refl _ _
    | with_reducible assumption
    | with_reducible apply State.lgEvent_steps
    | with_reducible apply State.lgNote_steps
    | with_reducible apply State.modBay_steps
    | with_reducible apply State.modDie_steps
    | with_reducible apply State.modLeggett_steps
    | with_reducible refine Steps.foldl _ _ (fun u a h => ?_) ?_
    | with_reducible exact fun _ h => h
    | decide +kernel
    | split
    | dsimp only)

theorem State.frameUe_steps {parts : List Component} {s0 : State} {s : State} {d i b : Nat}
    (h0 : Steps parts s0 s) (hsub : ∀ p ∈ [Component.dies, .routers, .cfg], p ∈ parts) : Steps parts s0 (State.frameUe s d i b) := by
  refine Steps.via (ps := parts) (qs := [Component.dies, .routers, .cfg]) h0 ?_ hsub
  clear h0 hsub
  unfold State.frameUe
  try dsimp only
  repeat' (first
    | with_reducible apply Steps.ite <;> intro _
    | with_reducible exact Steps.refl _ _
    | with_reducible assumption
    | with_reducible apply State.lgEvent_steps
    | with_reducible apply State.modBay_steps
    | with_reducible apply State.modCfg_steps
    | with_reducible apply State.modLeggett_steps
    | with_reducible refine Steps.foldl _ _ (fun u a h => ?_) ?_
    | with_reducible exact fun _ h => h
    | decide +kernel
    | split
    | dsimp only)

theorem State.fenceDie_steps {parts : List Component} {s0 : State} {s : State} {d : Nat}
    (h0 : Steps parts s0 s) (hsub : ∀ p ∈ [Component.dies, .routers, .masters, .lad], p ∈ parts) : Steps parts s0 (State.fenceDie s d) := by
  refine Steps.via (ps := parts) (qs := [Component.dies, .routers, .masters, .lad]) h0 ?_ hsub
  clear h0 hsub
  unfold State.fenceDie
  try dsimp only
  repeat' (first
    | with_reducible apply Steps.ite <;> intro _
    | with_reducible exact Steps.refl _ _
    | with_reducible assumption
    | with_reducible apply State.clampBay_steps
    | with_reducible apply State.holdPads_steps
    | with_reducible apply State.modLeggett_steps
    | with_reducible apply State.slBits_steps
    | with_reducible apply State.unfreeze_steps
    | with_reducible refine Steps.foldl _ _ (fun u a h => ?_) ?_
    | with_reducible exact fun _ h => h
    | decide +kernel
    | split
    | dsimp only)

theorem State.staticUe_steps {parts : List Component} {s0 : State} {s : State} {d i : Nat}
    (h0 : Steps parts s0 s) (hsub : ∀ p ∈ [Component.dies, .routers, .masters, .cfg, .lad], p ∈ parts) : Steps parts s0 (State.staticUe s d i) := by
  refine Steps.via (ps := parts) (qs := [Component.dies, .routers, .masters, .cfg, .lad]) h0 ?_ hsub
  clear h0 hsub
  unfold State.staticUe
  try dsimp only
  repeat' (first
    | with_reducible apply Steps.ite <;> intro _
    | with_reducible exact Steps.refl _ _
    | with_reducible assumption
    | with_reducible apply State.fenceDie_steps
    | with_reducible apply State.lgEvent_steps
    | with_reducible apply State.modCfg_steps
    | with_reducible apply State.modLeggett_steps
    | with_reducible refine Steps.foldl _ _ (fun u a h => ?_) ?_
    | with_reducible exact fun _ h => h
    | decide +kernel
    | split
    | dsimp only)

theorem leggettFrameRead_steps {parts : List Component} {s0 : State} {s : State} {d : Nat} {u : FrameUpset}
    (h0 : Steps parts s0 s) (hsub : ∀ p ∈ [Component.dies, .routers, .masters, .cfg, .log, .lad], p ∈ parts) : Steps parts s0 (leggettFrameRead s d u) := by
  refine Steps.via (ps := parts) (qs := [Component.dies, .routers, .masters, .cfg, .log, .lad]) h0 ?_ hsub
  clear h0 hsub
  unfold leggettFrameRead
  try dsimp only
  repeat' (first
    | with_reducible apply Steps.ite <;> intro _
    | with_reducible exact Steps.refl _ _
    | with_reducible assumption
    | with_reducible apply State.frameCorr_steps
    | with_reducible apply State.frameUe_steps
    | with_reducible apply State.modDie_steps
    | with_reducible apply State.modLeggett_steps
    | with_reducible apply State.staticUe_steps
    | with_reducible refine Steps.foldl _ _ (fun u a h => ?_) ?_
    | with_reducible exact fun _ h => h
    | decide +kernel
    | split
    | dsimp only)

theorem State.scrubGq_steps {parts : List Component} {s0 : State} {s : State} {d q j : Nat} {u su : Sys2Proof.Upset}
    (h0 : Steps parts s0 s) (hsub : ∀ p ∈ [Component.free, .dies, .routers], p ∈ parts) : Steps parts s0 (State.scrubGq s d q j u su).1 := by
  refine Steps.via (ps := parts) (qs := [Component.free, .dies, .routers]) h0 ?_ hsub
  clear h0 hsub
  unfold State.scrubGq
  try dsimp only
  repeat' (first
    | with_reducible apply Steps.ite <;> intro _
    | with_reducible apply Steps.ite_fst <;> intro _
    | with_reducible exact Steps.refl _ _
    | with_reducible assumption
    | with_reducible apply State.drew_steps
    | with_reducible apply State.lgEvent_steps
    | with_reducible apply State.modGq_steps
    | with_reducible refine Steps.foldl _ _ (fun u a h => ?_) ?_
    | with_reducible refine Steps.of_fst ?_ (by assumption)
    | with_reducible exact fun _ h => h
    | decide +kernel
    | split
    | dsimp only)

theorem State.scrubBramUe_steps {parts : List Component} {s0 : State} {s : State} {d i w : Nat}
    (h0 : Steps parts s0 s) (hsub : ∀ p ∈ [Component.dies, .routers], p ∈ parts) : Steps parts s0 (State.scrubBramUe s d i w) := by
  refine Steps.via (ps := parts) (qs := [Component.dies, .routers]) h0 ?_ hsub
  clear h0 hsub
  unfold State.scrubBramUe
  try dsimp only
  repeat' (first
    | with_reducible apply Steps.ite <;> intro _
    | with_reducible exact Steps.refl _ _
    | with_reducible assumption
    | with_reducible apply State.lgEvent_steps
    | with_reducible refine Steps.foldl _ _ (fun u a h => ?_) ?_
    | with_reducible exact fun _ h => h
    | decide +kernel
    | split
    | dsimp only)

theorem State.scrubBram_steps {parts : List Component} {s0 : State} {s : State} {d i w : Nat} {u : Sys2Proof.Upset}
    (h0 : Steps parts s0 s) (hsub : ∀ p ∈ [Component.free, .dies, .routers], p ∈ parts) : Steps parts s0 (State.scrubBram s d i w u).1 := by
  refine Steps.via (ps := parts) (qs := [Component.free, .dies, .routers]) h0 ?_ hsub
  clear h0 hsub
  unfold State.scrubBram
  try dsimp only
  repeat' (first
    | with_reducible apply Steps.ite <;> intro _
    | with_reducible apply Steps.ite_fst <;> intro _
    | with_reducible exact Steps.refl _ _
    | with_reducible assumption
    | with_reducible apply State.drew_steps
    | with_reducible apply State.modBram_steps
    | with_reducible apply State.scrubBramUe_steps
    | with_reducible refine Steps.foldl _ _ (fun u a h => ?_) ?_
    | with_reducible refine Steps.of_fst ?_ (by assumption)
    | with_reducible exact fun _ h => h
    | decide +kernel
    | split
    | dsimp only)

theorem State.scrubSliceUe_steps {parts : List Component} {s0 : State} {s : State} {d i mem w : Nat}
    (h0 : Steps parts s0 s) (hsub : ∀ p ∈ [Component.dies, .routers], p ∈ parts) : Steps parts s0 (State.scrubSliceUe s d i mem w) := by
  refine Steps.via (ps := parts) (qs := [Component.dies, .routers]) h0 ?_ hsub
  clear h0 hsub
  unfold State.scrubSliceUe
  try dsimp only
  repeat' (first
    | with_reducible apply Steps.ite <;> intro _
    | with_reducible exact Steps.refl _ _
    | with_reducible assumption
    | with_reducible apply State.lgEvent_steps
    | with_reducible refine Steps.foldl _ _ (fun u a h => ?_) ?_
    | with_reducible exact fun _ h => h
    | decide +kernel
    | split
    | dsimp only)

theorem State.scrubSlice_steps {parts : List Component} {s0 : State} {s : State} {d i : Nat} {k : MemKind} {w : Nat} {u : Sys2Proof.Upset}
    (h0 : Steps parts s0 s) (hsub : ∀ p ∈ [Component.dies, .routers], p ∈ parts) : Steps parts s0 (State.scrubSlice s d i k w u).1 := by
  refine Steps.via (ps := parts) (qs := [Component.dies, .routers]) h0 ?_ hsub
  clear h0 hsub
  unfold State.scrubSlice
  try dsimp only
  repeat' (first
    | with_reducible apply Steps.ite <;> intro _
    | with_reducible apply Steps.ite_fst <;> intro _
    | with_reducible exact Steps.refl _ _
    | with_reducible assumption
    | with_reducible apply State.modSlice_steps
    | with_reducible apply State.scrubSliceUe_steps
    | with_reducible refine Steps.foldl _ _ (fun u a h => ?_) ?_
    | with_reducible refine Steps.of_fst ?_ (by assumption)
    | with_reducible exact fun _ h => h
    | decide +kernel
    | split
    | dsimp only)

theorem leggettMemVisit_steps {parts : List Component} {s0 : State} {s : State} {d : Nat} {k : MemKind} {i : Nat} {u su : Sys2Proof.Upset} {freeCycle : Bool}
    (h0 : Steps parts s0 s) (hsub : ∀ p ∈ [Component.free, .dies, .routers], p ∈ parts) : Steps parts s0 (leggettMemVisit s d k i u su freeCycle) := by
  refine Steps.via (ps := parts) (qs := [Component.free, .dies, .routers]) h0 ?_ hsub
  clear h0 hsub
  unfold leggettMemVisit
  try dsimp only
  repeat' (first
    | with_reducible apply Steps.ite <;> intro _
    | with_reducible apply Steps.ite_fst <;> intro _
    | with_reducible exact Steps.refl _ _
    | with_reducible assumption
    | with_reducible apply State.modLeggett_steps
    | with_reducible apply State.scrubBram_steps
    | with_reducible apply State.scrubGq_steps
    | with_reducible apply State.scrubSlice_steps
    | with_reducible refine Steps.foldl _ _ (fun u a h => ?_) ?_
    | with_reducible refine Steps.of_fst ?_ (by assumption)
    | with_reducible exact fun _ h => h
    | decide +kernel
    | split
    | dsimp only)

theorem probeSelWrite_steps {parts : List Component} {s0 : State} {s : State} {d c v : Nat}
    (h0 : Steps parts s0 s) (hsub : ∀ p ∈ [Component.dies], p ∈ parts) : StepsO parts s0 (probeSelWrite s d c v) := by
  refine StepsO.via (ps := parts) (qs := [Component.dies]) h0 ?_ hsub
  clear h0 hsub
  unfold probeSelWrite
  try dsimp only
  repeat' (first
    | with_reducible apply Steps.ite <;> intro _
    | with_reducible exact Steps.refl _ _
    | with_reducible assumption
    | with_reducible apply State.modProbe_steps
    | with_reducible apply StepsO.ite <;> intro _
    | with_reducible exact StepsO.none
    | with_reducible apply StepsO.some
    | with_reducible refine StepsO.map ?_ (fun u hu => ?_)
    | with_reducible refine StepsO.bind ?_ (fun u hu => ?_)
    | with_reducible refine Steps.foldl _ _ (fun u a h => ?_) ?_
    | with_reducible refine Steps.of_some ?_ (by assumption)
    | with_reducible exact fun _ h => h
    | decide +kernel
    | split
    | dsimp only)

theorem State.runHeld_steps {parts : List Component} {s0 : State} {s : State}
    (h0 : Steps parts s0 s) (hsub : ∀ p ∈ [Component.free, .rsp, .ids, .acls, .dies, .routers, .masters, .flows, .lanesets, .links, .guests, .linkKeys, .hpins, .tb, .cfg, .dram, .flash, .fregions, .dma, .gable, .clk, .log, .evr, .svc, .lad], p ∈ parts) : Steps parts s0 (State.runHeld s) := by
  refine Steps.via (ps := parts) (qs := [Component.free, .rsp, .ids, .acls, .dies, .routers, .masters, .flows, .lanesets, .links, .guests, .linkKeys, .hpins, .tb, .cfg, .dram, .flash, .fregions, .dma, .gable, .clk, .log, .evr, .svc, .lad]) h0 ?_ hsub
  clear h0 hsub
  unfold State.runHeld
  try dsimp only
  repeat' (first
    | with_reducible apply Steps.ite <;> intro _
    | with_reducible exact Steps.refl _ _
    | with_reducible assumption
    | with_reducible apply State.judgeHeld_steps
    | with_reducible refine Steps.foldl _ _ (fun u a h => ?_) ?_
    | with_reducible exact fun _ h => h
    | decide +kernel
    | split
    | dsimp only)

theorem State.finishBay_steps {parts : List Component} {s0 : State} {s : State}
    (h0 : Steps parts s0 s) (hsub : ∀ p ∈ [Component.free, .rsp, .acls, .dies, .routers, .cfg, .gable, .evr], p ∈ parts) : Steps parts s0 (State.finishBay s) := by
  refine Steps.via (ps := parts) (qs := [Component.free, .rsp, .acls, .dies, .routers, .cfg, .gable, .evr]) h0 ?_ hsub
  clear h0 hsub
  unfold State.finishBay
  try dsimp only
  repeat' (first
    | with_reducible apply Steps.ite <;> intro _
    | with_reducible apply Steps.ite_fst <;> intro _
    | with_reducible exact Steps.refl _ _
    | with_reducible assumption
    | with_reducible apply State.closeStrm_steps
    | with_reducible apply State.endRun_steps
    | with_reducible apply State.modBay_steps
    | with_reducible apply State.releaseOrDown_steps
    | with_reducible apply State.setBayParts_steps
    | with_reducible refine Steps.foldl _ _ (fun u a h => ?_) ?_
    | with_reducible refine Steps.of_fst ?_ (by assumption)
    | with_reducible exact fun _ h => h
    | decide +kernel
    | split
    | dsimp only)

theorem portDrainEnd_steps {parts : List Component} {s0 : State} {s : State} {d b : Nat}
    (h0 : Steps parts s0 s) (hsub : ∀ p ∈ [Component.free, .rsp, .ids, .acls, .dies, .routers, .masters, .flows, .lanesets, .links, .guests, .linkKeys, .hpins, .tb, .cfg, .dram, .flash, .fregions, .dma, .gable, .clk, .log, .evr, .svc, .lad], p ∈ parts) : Steps parts s0 (portDrainEnd s d b) := by
  refine Steps.via (ps := parts) (qs := [Component.free, .rsp, .ids, .acls, .dies, .routers, .masters, .flows, .lanesets, .links, .guests, .linkKeys, .hpins, .tb, .cfg, .dram, .flash, .fregions, .dma, .gable, .clk, .log, .evr, .svc, .lad]) h0 ?_ hsub
  clear h0 hsub
  unfold portDrainEnd
  try dsimp only
  repeat' (first
    | with_reducible apply Steps.ite <;> intro _
    | with_reducible apply Steps.ite_fst <;> intro _
    | with_reducible exact Steps.refl _ _
    | with_reducible assumption
    | with_reducible apply State.disposeAtPort_steps
    | with_reducible apply State.dropRsps_steps
    | with_reducible apply State.endRun_steps
    | with_reducible apply State.finishBay_steps
    | with_reducible apply State.modBay_steps
    | with_reducible apply State.modCfg_steps
    | with_reducible apply State.reclaim_steps
    | with_reducible apply State.releaseOrDown_steps
    | with_reducible apply State.shutEndBay_steps
    | with_reducible refine Steps.foldl _ _ (fun u a h => ?_) ?_
    | with_reducible refine Steps.of_fst ?_ (by assumption)
    | with_reducible exact fun _ h => h
    | decide +kernel
    | split
    | dsimp only)

theorem bayReg_steps {ps : List Component} {s0 s : State} {d off : Nat} {write eight : Bool} (h : Steps ps s0 s) :
    Steps ps s0 (bayReg s d off write eight).1 := by unfold bayReg; split <;> exact h

theorem lgReg_steps {ps : List Component} {s0 s : State} {d off : Nat} {write eight : Bool} (h : Steps ps s0 s) :
    Steps ps s0 (lgReg s d off write eight).1 := by unfold lgReg; split <;> exact h

theorem State.raiseBramUe_steps {parts : List Component} {s0 : State} {s : State} {d m : Nat} {portB refused scrub : Bool} {w : Nat}
    (h0 : Steps parts s0 s) (hsub : ∀ p ∈ [Component.routers, .evr], p ∈ parts) : Steps parts s0 (State.raiseBramUe s d m portB refused scrub w) := by
  refine Steps.via (ps := parts) (qs := [Component.routers, .evr]) h0 ?_ hsub
  clear h0 hsub
  unfold State.raiseBramUe
  try dsimp only
  repeat' (first
    | with_reducible apply Steps.ite <;> intro _
    | with_reducible exact Steps.refl _ _
    | with_reducible assumption
    | with_reducible apply State.raiseEvent_steps
    | with_reducible refine Steps.foldl _ _ (fun u a h => ?_) ?_
    | with_reducible exact fun _ h => h
    | decide +kernel
    | split
    | dsimp only)

theorem bramRead_steps {parts : List Component} {s0 : State} {s : State} {d m : Nat} {pb : Bool} {addr : Nat} {u : Sys2Proof.Upset}
    (h0 : Steps parts s0 s) (hsub : ∀ p ∈ [Component.free, .dies, .routers, .evr], p ∈ parts) : Steps parts s0 (bramRead s d m pb addr u) := by
  refine Steps.via (ps := parts) (qs := [Component.free, .dies, .routers, .evr]) h0 ?_ hsub
  clear h0 hsub
  unfold bramRead
  try dsimp only
  repeat' (first
    | with_reducible apply Steps.ite <;> intro _
    | with_reducible exact Steps.refl _ _
    | with_reducible assumption
    | with_reducible apply State.drew_steps
    | with_reducible apply State.modBram_steps
    | with_reducible apply State.raiseBramUe_steps
    | with_reducible refine Steps.foldl _ _ (fun u a h => ?_) ?_
    | with_reducible exact fun _ h => h
    | decide +kernel
    | split
    | dsimp only)

theorem bramStore_steps {parts : List Component} {s0 : State} {s : State} {d m : Nat} {pb : Bool} {addr : Nat} {find : BramWord → WriteFind}
    (h0 : Steps parts s0 s) (hsub : ∀ p ∈ [Component.dies, .routers, .evr], p ∈ parts) : Steps parts s0 (bramStore s d m pb addr find) := by
  refine Steps.via (ps := parts) (qs := [Component.dies, .routers, .evr]) h0 ?_ hsub
  clear h0 hsub
  unfold bramStore
  try dsimp only
  repeat' (first
    | with_reducible apply Steps.ite <;> intro _
    | with_reducible exact Steps.refl _ _
    | with_reducible assumption
    | with_reducible apply State.modBram_steps
    | with_reducible apply State.raiseBramUe_steps
    | with_reducible refine Steps.foldl _ _ (fun u a h => ?_) ?_
    | with_reducible exact fun _ h => h
    | decide +kernel
    | split
    | dsimp only)

theorem bramWriteFull_steps {parts : List Component} {s0 : State} {s : State} {d m : Nat} {pb : Bool} {addr : Nat} {data : BitVec 64}
    (h0 : Steps parts s0 s) (hsub : ∀ p ∈ [Component.dies, .routers, .evr], p ∈ parts) : Steps parts s0 (bramWriteFull s d m pb addr data) := by
  refine Steps.via (ps := parts) (qs := [Component.dies, .routers, .evr]) h0 ?_ hsub
  clear h0 hsub
  unfold bramWriteFull
  try dsimp only
  repeat' (first
    | with_reducible apply Steps.ite <;> intro _
    | with_reducible exact Steps.refl _ _
    | with_reducible assumption
    | with_reducible apply bramStore_steps
    | with_reducible refine Steps.foldl _ _ (fun u a h => ?_) ?_
    | with_reducible exact fun _ h => h
    | decide +kernel
    | split
    | dsimp only)

theorem bramWriteNarrow_steps {parts : List Component} {s0 : State} {s : State} {d m : Nat} {pb : Bool} {addr : Nat} {data : BitVec 64} {be : BitVec 8}
    {u : Sys2Proof.Upset}
    (h0 : Steps parts s0 s) (hsub : ∀ p ∈ [Component.free, .dies, .routers, .evr], p ∈ parts) : Steps parts s0 (bramWriteNarrow s d m pb addr data be u) := by
  refine Steps.via (ps := parts) (qs := [Component.free, .dies, .routers, .evr]) h0 ?_ hsub
  clear h0 hsub
  unfold bramWriteNarrow
  try dsimp only
  repeat' (first
    | with_reducible apply Steps.ite <;> intro _
    | with_reducible exact Steps.refl _ _
    | with_reducible assumption
    | with_reducible apply State.drew_steps
    | with_reducible apply bramStore_steps
    | with_reducible refine Steps.foldl _ _ (fun u a h => ?_) ?_
    | with_reducible exact fun _ h => h
    | decide +kernel
    | split
    | dsimp only)

theorem State.aclPut_steps {parts : List Component} {s0 : State} {s : State} {b : Bytes} {o : Nat} {owner : Option Nat}
    (h0 : Steps parts s0 s) (hsub : ∀ p ∈ [Component.acls], p ∈ parts) : Steps parts s0 (State.aclPut s b o owner) := by
  refine Steps.via (ps := parts) (qs := [Component.acls]) h0 ?_ hsub
  clear h0 hsub
  unfold State.aclPut
  try dsimp only
  repeat' (first
    | with_reducible apply Steps.ite <;> intro _
    | with_reducible exact Steps.refl _ _
    | with_reducible assumption
    | with_reducible apply State.modAcl_steps
    | with_reducible refine Steps.foldl _ _ (fun u a h => ?_) ?_
    | with_reducible exact fun _ h => h
    | decide +kernel
    | split
    | dsimp only)

theorem foldOk_steps {A : Type} {ps : List Component} {s0 s : State} {f : State → A → Option State} {l : List A}
    (hf : ∀ u a, Steps ps s0 u → StepsO ps s0 (f u a)) (h : Steps ps s0 s) : StepsO ps s0 (foldOk f s l) := by
  induction l generalizing s with
  | nil => exact StepsO.some h
  | cons a l ih =>
    unfold foldOk
    split
    · exact ih (Steps.of_some (hf s a h) (by assumption))
    · exact StepsO.none

theorem State.okIf_steps {ps : List Component} {s0 s : State} {b : Bool} (h : Steps ps s0 s) : StepsO ps s0 (s.okIf b) := by
  unfold State.okIf
  split
  · exact StepsO.some h
  · exact StepsO.none

theorem State.modBoard_steps {parts : List Component} {s0 : State} {s : State} {f : Board → Board}
    (h0 : Steps parts s0 s) (hsub : ∀ p ∈ [Component.cfg], p ∈ parts) : Steps parts s0 (State.modBoard s f) := by
  refine Steps.via (ps := parts) (qs := [Component.cfg]) h0 ?_ hsub
  clear h0 hsub
  unfold State.modBoard
  try dsimp only
  repeat' (first
    | with_reducible apply Steps.ite <;> intro _
    | with_reducible exact Steps.refl _ _
    | with_reducible assumption
    | with_reducible apply State.modCfg_steps
    | with_reducible refine Steps.foldl _ _ (fun u a h => ?_) ?_
    | with_reducible exact fun _ h => h
    | decide +kernel
    | split
    | dsimp only)

theorem putAdmin_steps {parts : List Component} {s0 : State} {s : State} {v : Bytes}
    (h0 : Steps parts s0 s) (hsub : ∀ p ∈ [Component.cfg], p ∈ parts) : StepsO parts s0 (putAdmin s v) := by
  refine StepsO.via (ps := parts) (qs := [Component.cfg]) h0 ?_ hsub
  clear h0 hsub
  unfold putAdmin
  try dsimp only
  repeat' (first
    | with_reducible apply Steps.ite <;> intro _
    | with_reducible exact Steps.refl _ _
    | with_reducible assumption
    | with_reducible apply State.modBoard_steps
    | with_reducible apply StepsO.ite <;> intro _
    | with_reducible exact StepsO.none
    | with_reducible apply StepsO.some
    | with_reducible refine StepsO.map ?_ (fun u hu => ?_)
    | with_reducible refine StepsO.bind ?_ (fun u hu => ?_)
    | with_reducible refine Steps.foldl _ _ (fun u a h => ?_) ?_
    | with_reducible refine Steps.of_some ?_ (by assumption)
    | with_reducible exact fun _ h => h
    | decide +kernel
    | split
    | dsimp only)

theorem putAcls_steps {ps : List Component} {s0 s : State} {n : Nat} {v : Bytes} (h : Steps ps s0 s) (sub : ∀ p ∈ [Component.acls], p ∈ ps) :
    StepsO ps s0 (putAcls n s v) := by
  induction n generalizing s v with
  | zero => exact StepsO.none
  | succ n ih =>
    unfold putAcls
    refine StepsO.ite (fun _ => StepsO.some h) fun _ => StepsO.ite (fun _ => StepsO.none) fun _ => ih (State.aclPut_steps h sub)

theorem putDramDecl_steps {parts : List Component} {s0 : State} {s : State} {v : Bytes}
    (h0 : Steps parts s0 s) (hsub : ∀ p ∈ [Component.dram], p ∈ parts) : StepsO parts s0 (putDramDecl s v) := by
  refine StepsO.via (ps := parts) (qs := [Component.dram]) h0 ?_ hsub
  clear h0 hsub
  unfold putDramDecl
  try dsimp only
  repeat' (first
    | with_reducible apply Steps.ite <;> intro _
    | with_reducible exact Steps.refl _ _
    | with_reducible assumption
    | with_reducible apply State.modChan_steps
    | with_reducible apply StepsO.ite <;> intro _
    | with_reducible exact StepsO.none
    | with_reducible apply StepsO.some
    | with_reducible refine StepsO.map ?_ (fun u hu => ?_)
    | with_reducible refine StepsO.bind ?_ (fun u hu => ?_)
    | with_reducible refine Steps.foldl _ _ (fun u a h => ?_) ?_
    | with_reducible refine Steps.of_some ?_ (by assumption)
    | with_reducible exact fun _ h => h
    | decide +kernel
    | split
    | dsimp only)

theorem putRegion_steps {parts : List Component} {s0 : State} {s : State} {v : Bytes}
    (h0 : Steps parts s0 s) (hsub : ∀ p ∈ [Component.dram], p ∈ parts) : StepsO parts s0 (putRegion s v) := by
  refine StepsO.via (ps := parts) (qs := [Component.dram]) h0 ?_ hsub
  clear h0 hsub
  unfold putRegion
  try dsimp only
  repeat' (first
    | with_reducible apply Steps.ite <;> intro _
    | with_reducible exact Steps.refl _ _
    | with_reducible assumption
    | with_reducible apply State.modDram_steps
    | with_reducible apply StepsO.ite <;> intro _
    | with_reducible exact StepsO.none
    | with_reducible apply StepsO.some
    | with_reducible refine StepsO.map ?_ (fun u hu => ?_)
    | with_reducible refine StepsO.bind ?_ (fun u hu => ?_)
    | with_reducible refine Steps.foldl _ _ (fun u a h => ?_) ?_
    | with_reducible refine Steps.of_some ?_ (by assumption)
    | with_reducible exact fun _ h => h
    | decide +kernel
    | split
    | dsimp only)

theorem putPort_steps {parts : List Component} {s0 : State} {s : State} {v : Bytes}
    (h0 : Steps parts s0 s) (hsub : ∀ p ∈ [Component.cfg, .dram], p ∈ parts) : StepsO parts s0 (putPort s v) := by
  refine StepsO.via (ps := parts) (qs := [Component.cfg, .dram]) h0 ?_ hsub
  clear h0 hsub
  unfold putPort
  try dsimp only
  repeat' (first
    | with_reducible apply Steps.ite <;> intro _
    | with_reducible exact Steps.refl _ _
    | with_reducible assumption
    | with_reducible apply State.modBoard_steps
    | with_reducible apply State.modChan_steps
    | with_reducible apply StepsO.ite <;> intro _
    | with_reducible exact StepsO.none
    | with_reducible apply StepsO.some
    | with_reducible refine StepsO.map ?_ (fun u hu => ?_)
    | with_reducible refine StepsO.bind ?_ (fun u hu => ?_)
    | with_reducible refine Steps.foldl _ _ (fun u a h => ?_) ?_
    | with_reducible refine Steps.of_some ?_ (by assumption)
    | with_reducible exact fun _ h => h
    | decide +kernel
    | split
    | dsimp only)

theorem State.setMap_steps {parts : List Component} {s0 : State} {s : State} {b : Bytes}
    (h0 : Steps parts s0 s) (hsub : ∀ p ∈ [Component.dram], p ∈ parts) : Steps parts s0 (State.setMap s b) := by
  refine Steps.via (ps := parts) (qs := [Component.dram]) h0 ?_ hsub
  clear h0 hsub
  unfold State.setMap
  try dsimp only
  repeat' (first
    | with_reducible apply Steps.ite <;> intro _
    | with_reducible exact Steps.refl _ _
    | with_reducible assumption
    | with_reducible apply State.modDram_steps
    | with_reducible refine Steps.foldl _ _ (fun u a h => ?_) ?_
    | with_reducible exact fun _ h => h
    | decide +kernel
    | split
    | dsimp only)

theorem putDramMap_steps {parts : List Component} {s0 : State} {s : State} {v : Bytes}
    (h0 : Steps parts s0 s) (hsub : ∀ p ∈ [Component.cfg, .dram], p ∈ parts) : StepsO parts s0 (putDramMap s v) := by
  refine StepsO.via (ps := parts) (qs := [Component.cfg, .dram]) h0 ?_ hsub
  clear h0 hsub
  unfold putDramMap
  try dsimp only
  repeat' (first
    | with_reducible apply Steps.ite <;> intro _
    | with_reducible exact Steps.refl _ _
    | with_reducible assumption
    | with_reducible apply State.setMap_steps
    | with_reducible apply StepsO.ite <;> intro _
    | with_reducible exact StepsO.none
    | with_reducible apply StepsO.some
    | with_reducible refine StepsO.map ?_ (fun u hu => ?_)
    | with_reducible refine StepsO.bind ?_ (fun u hu => ?_)
    | with_reducible apply State.okIf_steps
    | with_reducible apply putPort_steps
    | with_reducible apply putRegion_steps
    | with_reducible apply foldOk_steps
    | (with_reducible intro u a b hu)
    | (with_reducible intro u a hu)
    | with_reducible refine Steps.foldl _ _ (fun u a h => ?_) ?_
    | with_reducible refine Steps.of_some ?_ (by assumption)
    | with_reducible exact fun _ h => h
    | decide +kernel
    | split
    | dsimp only)

theorem putLaneset_steps {parts : List Component} {s0 : State} {s : State} {v : Bytes}
    (h0 : Steps parts s0 s) (hsub : ∀ p ∈ [Component.lanesets, .cfg], p ∈ parts) : StepsO parts s0 (putLaneset s v) := by
  refine StepsO.via (ps := parts) (qs := [Component.lanesets, .cfg]) h0 ?_ hsub
  clear h0 hsub
  unfold putLaneset
  try dsimp only
  repeat' (first
    | with_reducible apply Steps.ite <;> intro _
    | with_reducible exact Steps.refl _ _
    | with_reducible assumption
    | with_reducible apply State.modBoard_steps
    | with_reducible apply State.modLaneset_steps
    | with_reducible apply StepsO.ite <;> intro _
    | with_reducible exact StepsO.none
    | with_reducible apply StepsO.some
    | with_reducible refine StepsO.map ?_ (fun u hu => ?_)
    | with_reducible refine StepsO.bind ?_ (fun u hu => ?_)
    | with_reducible refine Steps.foldl _ _ (fun u a h => ?_) ?_
    | with_reducible refine Steps.of_some ?_ (by assumption)
    | with_reducible exact fun _ h => h
    | decide +kernel
    | split
    | dsimp only)

theorem putGuest_steps {parts : List Component} {s0 : State} {s : State} {v : Bytes}
    (h0 : Steps parts s0 s) (hsub : ∀ p ∈ [Component.guests], p ∈ parts) : StepsO parts s0 (putGuest s v) := by
  refine StepsO.via (ps := parts) (qs := [Component.guests]) h0 ?_ hsub
  clear h0 hsub
  unfold putGuest
  try dsimp only
  repeat' (first
    | with_reducible apply Steps.ite <;> intro _
    | with_reducible exact Steps.refl _ _
    | with_reducible assumption
    | with_reducible apply State.modGuest_steps
    | with_reducible apply StepsO.ite <;> intro _
    | with_reducible exact StepsO.none
    | with_reducible apply StepsO.some
    | with_reducible refine StepsO.map ?_ (fun u hu => ?_)
    | with_reducible refine StepsO.bind ?_ (fun u hu => ?_)
    | with_reducible refine Steps.foldl _ _ (fun u a h => ?_) ?_
    | with_reducible refine Steps.of_some ?_ (by assumption)
    | with_reducible exact fun _ h => h
    | decide +kernel
    | split
    | dsimp only)

theorem putNode_steps {parts : List Component} {s0 : State} {s : State} {v : Bytes}
    (h0 : Steps parts s0 s) (hsub : ∀ p ∈ [Component.cfg], p ∈ parts) : StepsO parts s0 (putNode s v) := by
  refine StepsO.via (ps := parts) (qs := [Component.cfg]) h0 ?_ hsub
  clear h0 hsub
  unfold putNode
  try dsimp only
  repeat' (first
    | with_reducible apply Steps.ite <;> intro _
    | with_reducible exact Steps.refl _ _
    | with_reducible assumption
    | with_reducible apply State.modBoard_steps
    | with_reducible apply StepsO.ite <;> intro _
    | with_reducible exact StepsO.none
    | with_reducible apply StepsO.some
    | with_reducible refine StepsO.map ?_ (fun u hu => ?_)
    | with_reducible refine StepsO.bind ?_ (fun u hu => ?_)
    | with_reducible refine Steps.foldl _ _ (fun u a h => ?_) ?_
    | with_reducible refine Steps.of_some ?_ (by assumption)
    | with_reducible exact fun _ h => h
    | decide +kernel
    | split
    | dsimp only)

theorem State.setAlarm_steps {parts : List Component} {s0 : State} {s : State} {v : Nat}
    (h0 : Steps parts s0 s) (hsub : ∀ p ∈ [Component.clk], p ∈ parts) : Steps parts s0 (State.setAlarm s v) := by
  refine Steps.via (ps := parts) (qs := [Component.clk]) h0 ?_ hsub
  clear h0 hsub
  unfold State.setAlarm
  try dsimp only
  repeat' (first
    | with_reducible apply Steps.ite <;> intro _
    | with_reducible exact Steps.refl _ _
    | with_reducible assumption
    | with_reducible apply State.modClk_steps
    | with_reducible refine Steps.foldl _ _ (fun u a h => ?_) ?_
    | with_reducible exact fun _ h => h
    | decide +kernel
    | split
    | dsimp only)

theorem State.choosePref_steps {parts : List Component} {s0 : State} {s : State} {src fb : BitVec 6}
    (h0 : Steps parts s0 s) (hsub : ∀ p ∈ [Component.clk], p ∈ parts) : Steps parts s0 (State.choosePref s src fb) := by
  refine Steps.via (ps := parts) (qs := [Component.clk]) h0 ?_ hsub
  clear h0 hsub
  unfold State.choosePref
  try dsimp only
  repeat' (first
    | with_reducible apply Steps.ite <;> intro _
    | with_reducible exact Steps.refl _ _
    | with_reducible assumption
    | with_reducible apply State.modNode_steps
    | with_reducible refine Steps.foldl _ _ (fun u a h => ?_) ?_
    | with_reducible exact fun _ h => h
    | decide +kernel
    | split
    | dsimp only)

theorem putClock_steps {parts : List Component} {s0 : State} {s : State} {v : Bytes}
    (h0 : Steps parts s0 s) (hsub : ∀ p ∈ [Component.cfg, .clk], p ∈ parts) : StepsO parts s0 (putClock s v) := by
  refine StepsO.via (ps := parts) (qs := [Component.cfg, .clk]) h0 ?_ hsub
  clear h0 hsub
  unfold putClock
  try dsimp only
  repeat' (first
    | with_reducible apply Steps.ite <;> intro _
    | with_reducible exact Steps.refl _ _
    | with_reducible assumption
    | with_reducible apply State.choosePref_steps
    | with_reducible apply State.modClk_steps
    | with_reducible apply State.setAlarm_steps
    | with_reducible apply StepsO.ite <;> intro _
    | with_reducible exact StepsO.none
    | with_reducible apply StepsO.some
    | with_reducible refine StepsO.map ?_ (fun u hu => ?_)
    | with_reducible refine StepsO.bind ?_ (fun u hu => ?_)
    | with_reducible apply putNode_steps
    | with_reducible apply foldOk_steps
    | (with_reducible intro u a b hu)
    | (with_reducible intro u a hu)
    | with_reducible refine Steps.foldl _ _ (fun u a h => ?_) ?_
    | with_reducible refine Steps.of_some ?_ (by assumption)
    | with_reducible exact fun _ h => h
    | decide +kernel
    | split
    | dsimp only)

theorem putTpin_steps {parts : List Component} {s0 : State} {s : State} {v : Bytes}
    (h0 : Steps parts s0 s) (hsub : ∀ p ∈ [Component.cfg], p ∈ parts) : StepsO parts s0 (putTpin s v) := by
  refine StepsO.via (ps := parts) (qs := [Component.cfg]) h0 ?_ hsub
  clear h0 hsub
  unfold putTpin
  try dsimp only
  repeat' (first
    | with_reducible apply Steps.ite <;> intro _
    | with_reducible exact Steps.refl _ _
    | with_reducible assumption
    | with_reducible apply State.modBoard_steps
    | with_reducible apply StepsO.ite <;> intro _
    | with_reducible exact StepsO.none
    | with_reducible apply StepsO.some
    | with_reducible refine StepsO.map ?_ (fun u hu => ?_)
    | with_reducible refine StepsO.bind ?_ (fun u hu => ?_)
    | with_reducible refine Steps.foldl _ _ (fun u a h => ?_) ?_
    | with_reducible refine Steps.of_some ?_ (by assumption)
    | with_reducible exact fun _ h => h
    | decide +kernel
    | split
    | dsimp only)

theorem putTime_steps {parts : List Component} {s0 : State} {s : State} {v : Bytes}
    (h0 : Steps parts s0 s) (hsub : ∀ p ∈ [Component.tb], p ∈ parts) : StepsO parts s0 (putTime s v) := by
  refine StepsO.via (ps := parts) (qs := [Component.tb]) h0 ?_ hsub
  clear h0 hsub
  unfold putTime
  try dsimp only
  repeat' (first
    | with_reducible apply Steps.ite <;> intro _
    | with_reducible exact Steps.refl _ _
    | with_reducible assumption
    | with_reducible apply State.modTb_steps
    | with_reducible apply StepsO.ite <;> intro _
    | with_reducible exact StepsO.none
    | with_reducible apply StepsO.some
    | with_reducible refine StepsO.map ?_ (fun u hu => ?_)
    | with_reducible refine StepsO.bind ?_ (fun u hu => ?_)
    | with_reducible refine Steps.foldl _ _ (fun u a h => ?_) ?_
    | with_reducible refine Steps.of_some ?_ (by assumption)
    | with_reducible exact fun _ h => h
    | decide +kernel
    | split
    | dsimp only)

theorem State.setTimeout_steps {parts : List Component} {s0 : State} {s : State} {mid : BitVec 12} {us : Nat}
    (h0 : Steps parts s0 s) (hsub : ∀ p ∈ [Component.routers, .masters], p ∈ parts) : Steps parts s0 (State.setTimeout s mid us) := by
  refine Steps.via (ps := parts) (qs := [Component.routers, .masters]) h0 ?_ hsub
  clear h0 hsub
  unfold State.setTimeout
  try dsimp only
  repeat' (first
    | with_reducible apply Steps.ite <;> intro _
    | with_reducible exact Steps.refl _ _
    | with_reducible assumption
    | with_reducible apply State.modMaster_steps
    | with_reducible apply State.modRouter_steps
    | with_reducible refine Steps.foldl _ _ (fun u a h => ?_) ?_
    | with_reducible exact fun _ h => h
    | decide +kernel
    | split
    | dsimp only)

theorem putTimeout_steps {parts : List Component} {s0 : State} {s : State} {v : Bytes}
    (h0 : Steps parts s0 s) (hsub : ∀ p ∈ [Component.routers, .masters], p ∈ parts) : StepsO parts s0 (putTimeout s v) := by
  refine StepsO.via (ps := parts) (qs := [Component.routers, .masters]) h0 ?_ hsub
  clear h0 hsub
  unfold putTimeout
  try dsimp only
  repeat' (first
    | with_reducible apply Steps.ite <;> intro _
    | with_reducible exact Steps.refl _ _
    | with_reducible assumption
    | with_reducible apply State.setTimeout_steps
    | with_reducible apply StepsO.ite <;> intro _
    | with_reducible exact StepsO.none
    | with_reducible apply StepsO.some
    | with_reducible refine StepsO.map ?_ (fun u hu => ?_)
    | with_reducible refine StepsO.bind ?_ (fun u hu => ?_)
    | with_reducible refine Steps.foldl _ _ (fun u a h => ?_) ?_
    | with_reducible refine Steps.of_some ?_ (by assumption)
    | with_reducible exact fun _ h => h
    | decide +kernel
    | split
    | dsimp only)

theorem putSpin_steps {parts : List Component} {s0 : State} {s : State} {v : Bytes}
    (h0 : Steps parts s0 s) (hsub : ∀ p ∈ [Component.cfg], p ∈ parts) : StepsO parts s0 (putSpin s v) := by
  refine StepsO.via (ps := parts) (qs := [Component.cfg]) h0 ?_ hsub
  clear h0 hsub
  unfold putSpin
  try dsimp only
  repeat' (first
    | with_reducible apply Steps.ite <;> intro _
    | with_reducible exact Steps.refl _ _
    | with_reducible assumption
    | with_reducible apply State.modBoard_steps
    | with_reducible apply StepsO.ite <;> intro _
    | with_reducible exact StepsO.none
    | with_reducible apply StepsO.some
    | with_reducible refine StepsO.map ?_ (fun u hu => ?_)
    | with_reducible refine StepsO.bind ?_ (fun u hu => ?_)
    | with_reducible refine Steps.foldl _ _ (fun u a h => ?_) ?_
    | with_reducible refine Steps.of_some ?_ (by assumption)
    | with_reducible exact fun _ h => h
    | decide +kernel
    | split
    | dsimp only)

theorem putEach_steps {ps : List Component} {s0 s : State} {n : Nat} {f : State → Bytes → Option State} {v : Bytes}
    (hf : ∀ u a, Steps ps s0 u → StepsO ps s0 (f u a)) (h : Steps ps s0 s) : StepsO ps s0 (putEach n f s v) := by
  unfold putEach
  split
  · exact foldOk_steps hf h
  · exact StepsO.none

theorem putEntry_steps {parts : List Component} {s0 : State} {s : State} {e : Nat × Bytes}
    (h0 : Steps parts s0 s) (hsub : ∀ p ∈ [Component.acls, .routers, .masters, .lanesets, .guests, .tb, .cfg, .dram, .clk], p ∈ parts) : StepsO parts s0 (putEntry s e) := by
  refine StepsO.via (ps := parts) (qs := [Component.acls, .routers, .masters, .lanesets, .guests, .tb, .cfg, .dram, .clk]) h0 ?_ hsub
  clear h0 hsub
  unfold putEntry
  try dsimp only
  repeat' (first
    | with_reducible apply Steps.ite <;> intro _
    | with_reducible exact Steps.refl _ _
    | with_reducible assumption
    | with_reducible apply StepsO.ite <;> intro _
    | with_reducible exact StepsO.none
    | with_reducible apply StepsO.some
    | with_reducible refine StepsO.map ?_ (fun u hu => ?_)
    | with_reducible refine StepsO.bind ?_ (fun u hu => ?_)
    | with_reducible apply putAdmin_steps
    | with_reducible apply putClock_steps
    | with_reducible apply putDramDecl_steps
    | with_reducible apply putDramMap_steps
    | with_reducible apply putEach_steps
    | with_reducible apply putGuest_steps
    | with_reducible apply putLaneset_steps
    | with_reducible apply putSpin_steps
    | with_reducible apply putTime_steps
    | with_reducible apply putTimeout_steps
    | with_reducible apply putTpin_steps
    | with_reducible apply putAcls_steps
    | (with_reducible intro u a b hu)
    | (with_reducible intro u a hu)
    | with_reducible refine Steps.foldl _ _ (fun u a h => ?_) ?_
    | with_reducible refine Steps.of_some ?_ (by assumption)
    | with_reducible exact fun _ h => h
    | decide +kernel
    | split
    | dsimp only)

theorem applyBoard_steps {parts : List Component} {s0 : State} {s : State} {b : Bytes}
    (h0 : Steps parts s0 s) (hsub : ∀ p ∈ [Component.acls, .routers, .masters, .lanesets, .guests, .tb, .cfg, .dram, .clk], p ∈ parts) : StepsO parts s0 (applyBoard s b) := by
  refine StepsO.via (ps := parts) (qs := [Component.acls, .routers, .masters, .lanesets, .guests, .tb, .cfg, .dram, .clk]) h0 ?_ hsub
  clear h0 hsub
  unfold applyBoard
  try dsimp only
  repeat' (first
    | with_reducible apply Steps.ite <;> intro _
    | with_reducible exact Steps.refl _ _
    | with_reducible assumption
    | with_reducible apply StepsO.ite <;> intro _
    | with_reducible exact StepsO.none
    | with_reducible apply StepsO.some
    | with_reducible refine StepsO.map ?_ (fun u hu => ?_)
    | with_reducible refine StepsO.bind ?_ (fun u hu => ?_)
    | with_reducible apply putEntry_steps
    | with_reducible apply foldOk_steps
    | (with_reducible intro u a b hu)
    | (with_reducible intro u a hu)
    | with_reducible refine Steps.foldl _ _ (fun u a h => ?_) ?_
    | with_reducible refine Steps.of_some ?_ (by assumption)
    | with_reducible exact fun _ h => h
    | decide +kernel
    | split
    | dsimp only)

theorem State.resetKeeping_steps {ps : List Component} {s0 s : State} (h0 : Steps ps s0 s)
    (sub : ∀ p ∈ [Component.rsp, .ids, .acls, .dies, .routers, .masters, .flows, .lanesets, .links, .guests, .linkKeys, .times, .hpins, .tb, .cfg, .dram, .flash, .fregions, .dma, .dmaLast, .gable, .clk, .log, .evr, .svc, .lad, .thermtrip, .pornLow, .supplyBad, .supplyOkAt], p ∈ ps) :
    Steps ps s0 (State.resetKeeping s) := by
  refine h0.via (qs := [Component.rsp, .ids, .acls, .dies, .routers, .masters, .flows, .lanesets, .links, .guests, .linkKeys, .times, .hpins, .tb, .cfg, .dram, .flash, .fregions, .dma, .dmaLast, .gable, .clk, .log, .evr, .svc, .lad, .thermtrip, .pornLow, .supplyBad, .supplyOkAt]) ⟨fun p hp => ?_, fun _ => ?_⟩ sub
  · cases p <;> first | rfl | exact absurd (by decide) hp
  · have hd : tabWf Die.reset (State.resetKeeping s).dies = true := tabWf_tmodAll _ _ _ _ rfl
    simp only [State.tablesWf, hd]
    rfl

theorem State.powerOn_steps {parts : List Component} {s0 : State} {s : State}
    (h0 : Steps parts s0 s) (hsub : ∀ p ∈ [Component.rsp, .ids, .acls, .dies, .routers, .masters, .flows, .lanesets, .links, .guests, .linkKeys, .times, .hpins, .tb, .cfg, .dram, .flash, .fregions, .dma, .dmaLast, .gable, .clk, .log, .evr, .svc, .lad, .thermtrip, .pornLow, .supplyBad, .supplyOkAt], p ∈ parts) : Steps parts s0 (State.powerOn s) := by
  refine Steps.via (ps := parts) (qs := [Component.rsp, .ids, .acls, .dies, .routers, .masters, .flows, .lanesets, .links, .guests, .linkKeys, .times, .hpins, .tb, .cfg, .dram, .flash, .fregions, .dma, .dmaLast, .gable, .clk, .log, .evr, .svc, .lad, .thermtrip, .pornLow, .supplyBad, .supplyOkAt]) h0 ?_ hsub
  clear h0 hsub
  unfold State.powerOn
  try dsimp only
  repeat' (first
    | with_reducible apply Steps.ite <;> intro _
    | with_reducible exact Steps.refl _ _
    | with_reducible assumption
    | with_reducible apply State.modLad_steps
    | with_reducible apply State.resetKeeping_steps
    | with_reducible refine Steps.foldl _ _ (fun u a h => ?_) ?_
    | with_reducible exact fun _ h => h
    | decide +kernel
    | split
    | dsimp only)

theorem State.leaveReset_steps {parts : List Component} {s0 : State} {s : State}
    (h0 : Steps parts s0 s) (hsub : ∀ p ∈ [Component.cfg], p ∈ parts) : Steps parts s0 (State.leaveReset s) := by
  refine Steps.via (ps := parts) (qs := [Component.cfg]) h0 ?_ hsub
  clear h0 hsub
  unfold State.leaveReset
  try dsimp only
  repeat' (first
    | with_reducible apply Steps.ite <;> intro _
    | with_reducible exact Steps.refl _ _
    | with_reducible assumption
    | with_reducible apply State.modCfg_steps
    | with_reducible refine Steps.foldl _ _ (fun u a h => ?_) ?_
    | with_reducible exact fun _ h => h
    | decide +kernel
    | split
    | dsimp only)

theorem State.startNode_steps {parts : List Component} {s0 : State} {s : State} {c : Nat} {src fb : BitVec 6} {khz : Nat}
    (h0 : Steps parts s0 s) (hsub : ∀ p ∈ [Component.clk], p ∈ parts) : Steps parts s0 (State.startNode s c src fb khz) := by
  refine Steps.via (ps := parts) (qs := [Component.clk]) h0 ?_ hsub
  clear h0 hsub
  unfold State.startNode
  try dsimp only
  repeat' (first
    | with_reducible apply Steps.ite <;> intro _
    | with_reducible exact Steps.refl _ _
    | with_reducible assumption
    | with_reducible apply State.modNode_steps
    | with_reducible refine Steps.foldl _ _ (fun u a h => ?_) ?_
    | with_reducible exact fun _ h => h
    | decide +kernel
    | split
    | dsimp only)

theorem State.strapPref_steps {parts : List Component} {s0 : State} {s : State}
    (h0 : Steps parts s0 s) (hsub : ∀ p ∈ [Component.clk], p ∈ parts) : Steps parts s0 (State.strapPref s) := by
  refine Steps.via (ps := parts) (qs := [Component.clk]) h0 ?_ hsub
  clear h0 hsub
  unfold State.strapPref
  try dsimp only
  repeat' (first
    | with_reducible apply Steps.ite <;> intro _
    | with_reducible exact Steps.refl _ _
    | with_reducible assumption
    | with_reducible apply State.choosePref_steps
    | with_reducible apply State.modNode_steps
    | with_reducible refine Steps.foldl _ _ (fun u a h => ?_) ?_
    | with_reducible exact fun _ h => h
    | decide +kernel
    | split
    | dsimp only)

theorem State.startHub_steps {parts : List Component} {s0 : State} {s : State}
    (h0 : Steps parts s0 s) (hsub : ∀ p ∈ [Component.clk], p ∈ parts) : Steps parts s0 (State.startHub s) := by
  refine Steps.via (ps := parts) (qs := [Component.clk]) h0 ?_ hsub
  clear h0 hsub
  unfold State.startHub
  try dsimp only
  repeat' (first
    | with_reducible apply Steps.ite <;> intro _
    | with_reducible exact Steps.refl _ _
    | with_reducible assumption
    | with_reducible apply State.startNode_steps
    | with_reducible apply State.strapPref_steps
    | with_reducible refine Steps.foldl _ _ (fun u a h => ?_) ?_
    | with_reducible exact fun _ h => h
    | decide +kernel
    | split
    | dsimp only)

theorem State.coreStart_steps {parts : List Component} {s0 : State} {s : State}
    (h0 : Steps parts s0 s) (hsub : ∀ p ∈ [Component.cfg, .clk], p ∈ parts) : Steps parts s0 (State.coreStart s) := by
  refine Steps.via (ps := parts) (qs := [Component.cfg, .clk]) h0 ?_ hsub
  clear h0 hsub
  unfold State.coreStart
  try dsimp only
  repeat' (first
    | with_reducible apply Steps.ite <;> intro _
    | with_reducible exact Steps.refl _ _
    | with_reducible assumption
    | with_reducible apply State.modCfg_steps
    | with_reducible apply State.startHub_steps
    | with_reducible refine Steps.foldl _ _ (fun u a h => ?_) ?_
    | with_reducible exact fun _ h => h
    | decide +kernel
    | split
    | dsimp only)

theorem State.beginPackageWake_steps {parts : List Component} {s0 : State} {s : State} {causes : BitVec 6}
    (h0 : Steps parts s0 s) (hsub : ∀ p ∈ [Component.cfg, .clk], p ∈ parts) : Steps parts s0 (State.beginPackageWake s causes) := by
  refine Steps.via (ps := parts) (qs := [Component.cfg, .clk]) h0 ?_ hsub
  clear h0 hsub
  unfold State.beginPackageWake
  try dsimp only
  repeat' (first
    | with_reducible apply Steps.ite <;> intro _
    | with_reducible exact Steps.refl _ _
    | with_reducible assumption
    | with_reducible apply State.modCfg_steps
    | with_reducible apply State.modClk_steps
    | with_reducible refine Steps.foldl _ _ (fun u a h => ?_) ?_
    | with_reducible exact fun _ h => h
    | decide +kernel
    | split
    | dsimp only)

theorem State.packageWake_steps {parts : List Component} {s0 : State} {s : State} {source : Nat}
    (h0 : Steps parts s0 s) (hsub : ∀ p ∈ [Component.cfg, .clk], p ∈ parts) : Steps parts s0 (State.packageWake s source) := by
  refine Steps.via (ps := parts) (qs := [Component.cfg, .clk]) h0 ?_ hsub
  clear h0 hsub
  unfold State.packageWake
  try dsimp only
  repeat' (first
    | with_reducible apply Steps.ite <;> intro _
    | with_reducible exact Steps.refl _ _
    | with_reducible assumption
    | with_reducible apply State.beginPackageWake_steps
    | with_reducible apply State.modClk_steps
    | with_reducible refine Steps.foldl _ _ (fun u a h => ?_) ?_
    | with_reducible exact fun _ h => h
    | decide +kernel
    | split
    | dsimp only)

theorem aoclkFail_steps {parts : List Component} {s0 : State} {s : State}
    (h0 : Steps parts s0 s) (hsub : ∀ p ∈ [Component.cfg, .clk, .evr], p ∈ parts) : Steps parts s0 (aoclkFail s) := by
  refine Steps.via (ps := parts) (qs := [Component.cfg, .clk, .evr]) h0 ?_ hsub
  clear h0 hsub
  unfold aoclkFail
  try dsimp only
  repeat' (first
    | with_reducible apply Steps.ite <;> intro _
    | with_reducible exact Steps.refl _ _
    | with_reducible assumption
    | with_reducible apply State.modClk_steps
    | with_reducible apply State.modNode_steps
    | with_reducible apply State.packageWake_steps
    | with_reducible apply State.raiseHub_steps
    | with_reducible refine Steps.foldl _ _ (fun u a h => ?_) ?_
    | with_reducible exact fun _ h => h
    | decide +kernel
    | split
    | dsimp only)

theorem State.softReset_steps {ps : List Component} {s0 s : State} (h0 : Steps ps s0 s)
    (sub : ∀ p ∈ [Component.rsp, .ids, .acls, .dies, .routers, .masters, .flows, .lanesets, .links, .guests, .linkKeys, .times, .hpins, .tb, .cfg, .dram, .flash, .fregions, .dma, .dmaLast, .gable, .clk, .log, .evr, .svc, .lad, .thermtrip, .pornLow, .supplyBad, .supplyOkAt], p ∈ ps) :
    Steps ps s0 (State.softReset s) := by
  have h := State.resetKeeping_steps h0 sub
  have e : State.softReset s = (((State.resetKeeping s).setLog
      { Log.reset with entries := s.log.entries, next := s.log.next, overwritten := s.log.overwritten, overAt := s.log.overAt }).setCfg
      { (State.resetKeeping s).cfg with straps := s.cfg.straps, porn := s.cfg.porn, refosc := s.cfg.refosc || (!s.cfg.refosc && !s.cfg.porn), oscdAt := if (!s.cfg.refosc && !s.cfg.porn) = true then some (s.now + oscdPs (bitsOf s.cfg.straps.toNat 2 3)) else s.cfg.oscdAt, lastCause := s.cfg.lastCause }).setClk
      { (State.resetKeeping s).clk with aoclkFail := s.clk.aoclkFail, rcMon := s.clk.rcMon } := rfl
  rw [e]
  exact State.setClk_steps (State.setCfg_steps (State.setLog_steps h fun p hp => sub p (by simp_all)) fun p hp => sub p (by simp_all)) fun p hp => sub p (by simp_all)

theorem State.readSlot_steps {parts : List Component} {s0 : State} {s : State} {slot : Nat} {hdr : Bytes}
    (h0 : Steps parts s0 s) (hsub : ∀ p ∈ [Component.cfg], p ∈ parts) : Steps parts s0 (State.readSlot s slot hdr) := by
  refine Steps.via (ps := parts) (qs := [Component.cfg]) h0 ?_ hsub
  clear h0 hsub
  unfold State.readSlot
  try dsimp only
  repeat' (first
    | with_reducible apply Steps.ite <;> intro _
    | with_reducible exact Steps.refl _ _
    | with_reducible assumption
    | with_reducible apply State.modSlot_steps
    | with_reducible refine Steps.foldl _ _ (fun u a h => ?_) ?_
    | with_reducible exact fun _ h => h
    | decide +kernel
    | split
    | dsimp only)

theorem State.noteSlot_steps {parts : List Component} {s0 : State} {s : State} {slot : Nat}
    (h0 : Steps parts s0 s) (hsub : ∀ p ∈ [Component.cfg, .log], p ∈ parts) : Steps parts s0 (State.noteSlot s slot) := by
  refine Steps.via (ps := parts) (qs := [Component.cfg, .log]) h0 ?_ hsub
  clear h0 hsub
  unfold State.noteSlot
  try dsimp only
  repeat' (first
    | with_reducible apply Steps.ite <;> intro _
    | with_reducible exact Steps.refl _ _
    | with_reducible assumption
    | with_reducible apply State.logNote_steps
    | with_reducible apply State.modCfg_steps
    | with_reducible refine Steps.foldl _ _ (fun u a h => ?_) ?_
    | with_reducible exact fun _ h => h
    | decide +kernel
    | split
    | dsimp only)

theorem bootStart_steps {parts : List Component} {s0 : State} {s : State} {dev0 dev1 : Bool} {hdrA hdrB : Bytes}
    (h0 : Steps parts s0 s) (hsub : ∀ p ∈ [Component.acls, .lanesets, .cfg, .gable, .log, .evr, .svc], p ∈ parts) : Steps parts s0 (bootStart s dev0 dev1 hdrA hdrB) := by
  refine Steps.via (ps := parts) (qs := [Component.acls, .lanesets, .cfg, .gable, .log, .evr, .svc]) h0 ?_ hsub
  clear h0 hsub
  unfold bootStart
  try dsimp only
  repeat' (first
    | with_reducible apply Steps.ite <;> intro _
    | with_reducible exact Steps.refl _ _
    | with_reducible assumption
    | with_reducible apply State.bringUp_steps
    | with_reducible apply State.enterRecovery_steps
    | with_reducible apply State.modCfg_steps
    | with_reducible apply State.modLaneset_steps
    | with_reducible apply State.nextSource_steps
    | with_reducible apply State.noteSlot_steps
    | with_reducible apply State.readSlot_steps
    | with_reducible apply State.setAcls_steps
    | with_reducible apply State.setGstate_steps
    | with_reducible refine Steps.foldl _ _ (fun u a h => ?_) ?_
    | with_reducible exact tabWf_tmod _ _ _ _
    | with_reducible exact tabWf_tput _ _ _ _
    | with_reducible exact tabWf_tmodAll _ _ _ _
    | with_reducible exact fun _ => tabWf_nil _
    | with_reducible exact fun _ => recoveryTables_wf
    | with_reducible exact fun _ h => h
    | decide +kernel
    | split
    | dsimp only)

theorem State.wipeAll_steps {parts : List Component} {s0 : State} {s : State}
    (h0 : Steps parts s0 s) (hsub : ∀ p ∈ [Component.dies], p ∈ parts) : Steps parts s0 (State.wipeAll s) := by
  refine Steps.via (ps := parts) (qs := [Component.dies]) h0 ?_ hsub
  clear h0 hsub
  unfold State.wipeAll
  try dsimp only
  repeat' (first
    | with_reducible apply Steps.ite <;> intro _
    | with_reducible exact Steps.refl _ _
    | with_reducible assumption
    | with_reducible apply State.modDie_steps
    | with_reducible refine Steps.foldl _ _ (fun u a h => ?_) ?_
    | with_reducible exact fun _ h => h
    | decide +kernel
    | split
    | dsimp only)

theorem State.startDie_steps {parts : List Component} {s0 : State} {s : State} {d : Nat}
    (h0 : Steps parts s0 s) (hsub : ∀ p ∈ [Component.clk], p ∈ parts) : Steps parts s0 (State.startDie s d) := by
  refine Steps.via (ps := parts) (qs := [Component.clk]) h0 ?_ hsub
  clear h0 hsub
  unfold State.startDie
  try dsimp only
  repeat' (first
    | with_reducible apply Steps.ite <;> intro _
    | with_reducible exact Steps.refl _ _
    | with_reducible assumption
    | with_reducible apply State.startNode_steps
    | with_reducible refine Steps.foldl _ _ (fun u a h => ?_) ?_
    | with_reducible exact fun _ h => h
    | decide +kernel
    | split
    | dsimp only)

theorem State.initIo_steps {parts : List Component} {s0 : State} {s : State} {d : Nat}
    (h0 : Steps parts s0 s) (hsub : ∀ p ∈ [Component.dies], p ∈ parts) : Steps parts s0 (State.initIo s d) := by
  refine Steps.via (ps := parts) (qs := [Component.dies]) h0 ?_ hsub
  clear h0 hsub
  unfold State.initIo
  try dsimp only
  repeat' (first
    | with_reducible apply Steps.ite <;> intro _
    | with_reducible exact Steps.refl _ _
    | with_reducible assumption
    | with_reducible apply State.modIo_steps
    | with_reducible refine Steps.foldl _ _ (fun u a h => ?_) ?_
    | with_reducible exact fun _ h => h
    | decide +kernel
    | split
    | dsimp only)

theorem State.loadInit_steps {parts : List Component} {s0 : State} {s : State} {d : Nat} {o : Option Nat}
    (h0 : Steps parts s0 s) (hsub : ∀ p ∈ [Component.dies], p ∈ parts) : Steps parts s0 (State.loadInit s d o) := by
  refine Steps.via (ps := parts) (qs := [Component.dies]) h0 ?_ hsub
  clear h0 hsub
  unfold State.loadInit
  try dsimp only
  repeat' (first
    | with_reducible apply Steps.ite <;> intro _
    | with_reducible exact Steps.refl _ _
    | with_reducible assumption
    | with_reducible apply State.modBay_steps
    | with_reducible apply State.modDie_steps
    | with_reducible refine Steps.foldl _ _ (fun u a h => ?_) ?_
    | with_reducible exact fun _ h => h
    | decide +kernel
    | split
    | dsimp only)

theorem State.loadInitDie_steps {parts : List Component} {s0 : State} {s : State} {d : Nat}
    (h0 : Steps parts s0 s) (hsub : ∀ p ∈ [Component.dies], p ∈ parts) : Steps parts s0 (State.loadInitDie s d) := by
  refine Steps.via (ps := parts) (qs := [Component.dies]) h0 ?_ hsub
  clear h0 hsub
  unfold State.loadInitDie
  try dsimp only
  repeat' (first
    | with_reducible apply Steps.ite <;> intro _
    | with_reducible exact Steps.refl _ _
    | with_reducible assumption
    | with_reducible apply State.loadInit_steps
    | with_reducible refine Steps.foldl _ _ (fun u a h => ?_) ?_
    | with_reducible exact fun _ h => h
    | decide +kernel
    | split
    | dsimp only)

theorem State.modSp_steps {parts : List Component} {s0 : State} {s : State} {n : Nat} {f : SpPin → SpPin}
    (h0 : Steps parts s0 s) (hsub : ∀ p ∈ [Component.svc], p ∈ parts) : Steps parts s0 (State.modSp s n f) := by
  refine Steps.via (ps := parts) (qs := [Component.svc]) h0 ?_ hsub
  clear h0 hsub
  unfold State.modSp
  try dsimp only
  repeat' (first
    | with_reducible apply Steps.ite <;> intro _
    | with_reducible exact Steps.refl _ _
    | with_reducible assumption
    | with_reducible apply State.modSvc_steps
    | with_reducible refine Steps.foldl _ _ (fun u a h => ?_) ?_
    | with_reducible exact fun _ h => h
    | decide +kernel
    | split
    | dsimp only)

theorem State.spinPins_steps {parts : List Component} {s0 : State} {s : State} {v : List (BitVec 8)}
    (h0 : Steps parts s0 s) (hsub : ∀ p ∈ [Component.free, .svc], p ∈ parts) : Steps parts s0 (State.spinPins s v) := by
  refine Steps.via (ps := parts) (qs := [Component.free, .svc]) h0 ?_ hsub
  clear h0 hsub
  unfold State.spinPins
  try dsimp only
  repeat' (first
    | with_reducible apply Steps.ite <;> intro _
    | with_reducible exact Steps.refl _ _
    | with_reducible assumption
    | with_reducible apply State.drew_steps
    | with_reducible apply State.modSp_steps
    | with_reducible apply State.modSvc_steps
    | with_reducible refine Steps.foldl _ _ (fun u a h => ?_) ?_
    | with_reducible exact fun _ h => h
    | decide +kernel
    | split
    | dsimp only)

theorem State.spinRest_steps {parts : List Component} {s0 : State} {s : State} {v : List (BitVec 8)}
    (h0 : Steps parts s0 s) (hsub : ∀ p ∈ [Component.evr, .svc], p ∈ parts) : Steps parts s0 (State.spinRest s v) := by
  refine Steps.via (ps := parts) (qs := [Component.evr, .svc]) h0 ?_ hsub
  clear h0 hsub
  unfold State.spinRest
  try dsimp only
  repeat' (first
    | with_reducible apply Steps.ite <;> intro _
    | with_reducible exact Steps.refl _ _
    | with_reducible assumption
    | with_reducible apply State.modEvr_steps
    | with_reducible apply State.modSvc_steps
    | with_reducible refine Steps.foldl _ _ (fun u a h => ?_) ?_
    | with_reducible exact fun _ h => h
    | decide +kernel
    | split
    | dsimp only)

theorem requestInject_steps {parts : List Component} {s0 : State} {s : State} {mid : BitVec 12} {rq : Req}
    (h0 : Steps parts s0 s) (hsub : ∀ p ∈ [Component.dies, .routers, .masters, .flows, .evr], p ∈ parts) : Steps parts s0 (requestInject s mid rq) := by
  refine Steps.via (ps := parts) (qs := [Component.dies, .routers, .masters, .flows, .evr]) h0 ?_ hsub
  clear h0 hsub
  unfold requestInject
  try dsimp only
  repeat' (first
    | with_reducible apply Steps.ite <;> intro _
    | with_reducible apply Steps.ite_fst <;> intro _
    | with_reducible exact Steps.refl _ _
    | with_reducible assumption
    | with_reducible apply State.injectReq_steps
    | with_reducible apply State.modBay_steps
    | with_reducible refine Steps.foldl _ _ (fun u a h => ?_) ?_
    | with_reducible refine Steps.of_fst ?_ (by assumption)
    | with_reducible exact fun _ h => h
    | decide +kernel
    | split
    | dsimp only)

theorem State.openPort_steps {parts : List Component} {s0 : State} {s : State} {d b : Nat}
    (h0 : Steps parts s0 s) (hsub : ∀ p ∈ [Component.dies, .routers, .masters, .flows, .evr], p ∈ parts) : Steps parts s0 (State.openPort s d b) := by
  refine Steps.via (ps := parts) (qs := [Component.dies, .routers, .masters, .flows, .evr]) h0 ?_ hsub
  clear h0 hsub
  unfold State.openPort
  try dsimp only
  repeat' (first
    | with_reducible apply Steps.ite <;> intro _
    | with_reducible exact Steps.refl _ _
    | with_reducible assumption
    | with_reducible apply State.modBay_steps
    | with_reducible apply State.reclaim_steps
    | with_reducible apply State.setDrain_steps
    | with_reducible apply requestInject_steps
    | with_reducible refine Steps.foldl _ _ (fun u a h => ?_) ?_
    | with_reducible exact fun _ h => h
    | decide +kernel
    | split
    | dsimp only)

theorem State.quadImage_steps {parts : List Component} {s0 : State} {s : State} {d q : Nat}
    (h0 : Steps parts s0 s) (hsub : ∀ p ∈ [Component.lanesets], p ∈ parts) : Steps parts s0 (State.quadImage s d q) := by
  refine Steps.via (ps := parts) (qs := [Component.lanesets]) h0 ?_ hsub
  clear h0 hsub
  unfold State.quadImage
  try dsimp only
  repeat' (first
    | with_reducible apply Steps.ite <;> intro _
    | with_reducible exact Steps.refl _ _
    | with_reducible assumption
    | with_reducible apply State.modLaneset_steps
    | with_reducible refine Steps.foldl _ _ (fun u a h => ?_) ?_
    | with_reducible exact fun _ h => h
    | decide +kernel
    | split
    | dsimp only)

theorem State.quadImages_steps {parts : List Component} {s0 : State} {s : State}
    (h0 : Steps parts s0 s) (hsub : ∀ p ∈ [Component.lanesets], p ∈ parts) : Steps parts s0 (State.quadImages s) := by
  refine Steps.via (ps := parts) (qs := [Component.lanesets]) h0 ?_ hsub
  clear h0 hsub
  unfold State.quadImages
  try dsimp only
  repeat' (first
    | with_reducible apply Steps.ite <;> intro _
    | with_reducible exact Steps.refl _ _
    | with_reducible assumption
    | with_reducible apply State.quadImage_steps
    | with_reducible refine Steps.foldl _ _ (fun u a h => ?_) ?_
    | with_reducible exact fun _ h => h
    | decide +kernel
    | split
    | dsimp only)

theorem State.upDeclared_steps {parts : List Component} {s0 : State} {s : State} {e : LaneDecl}
    (h0 : Steps parts s0 s) (hsub : ∀ p ∈ [Component.lanesets], p ∈ parts) : Steps parts s0 (State.upDeclared s e) := by
  refine Steps.via (ps := parts) (qs := [Component.lanesets]) h0 ?_ hsub
  clear h0 hsub
  unfold State.upDeclared
  try dsimp only
  repeat' (first
    | with_reducible apply Steps.ite <;> intro _
    | with_reducible exact Steps.refl _ _
    | with_reducible assumption
    | with_reducible apply State.bringUp_steps
    | with_reducible refine Steps.foldl _ _ (fun u a h => ?_) ?_
    | with_reducible exact fun _ h => h
    | decide +kernel
    | split
    | dsimp only)

theorem State.dropAcl_steps {parts : List Component} {s0 : State} {s : State} {sid : Nat}
    (h0 : Steps parts s0 s) (hsub : ∀ p ∈ [Component.acls], p ∈ parts) : Steps parts s0 (State.dropAcl s sid) := by
  refine Steps.via (ps := parts) (qs := [Component.acls]) h0 ?_ hsub
  clear h0 hsub
  unfold State.dropAcl
  try dsimp only
  repeat' (first
    | with_reducible apply Steps.ite <;> intro _
    | with_reducible exact Steps.refl _ _
    | with_reducible assumption
    | with_reducible apply State.setAcls_steps
    | with_reducible refine Steps.foldl _ _ (fun u a h => ?_) ?_
    | with_reducible exact tabWf_tmod _ _ _ _
    | with_reducible exact tabWf_tput _ _ _ _
    | with_reducible exact tabWf_tmodAll _ _ _ _
    | with_reducible exact fun _ => tabWf_nil _
    | with_reducible exact fun _ h => h
    | decide +kernel
    | split
    | dsimp only)

theorem State.dmaFree_steps {parts : List Component} {s0 : State} {s : State} {c : Nat}
    (h0 : Steps parts s0 s) (hsub : ∀ p ∈ [Component.dma, .gable, .evr], p ∈ parts) : Steps parts s0 (State.dmaFree s c) := by
  refine Steps.via (ps := parts) (qs := [Component.dma, .gable, .evr]) h0 ?_ hsub
  clear h0 hsub
  unfold State.dmaFree
  try dsimp only
  repeat' (first
    | with_reducible apply Steps.ite <;> intro _
    | with_reducible exact Steps.refl _ _
    | with_reducible assumption
    | with_reducible apply State.completeOpt_steps
    | with_reducible apply State.modDma_steps
    | with_reducible refine Steps.foldl _ _ (fun u a h => ?_) ?_
    | with_reducible exact fun _ h => h
    | decide +kernel
    | split
    | dsimp only)

theorem State.dmaPromote_steps {parts : List Component} {s0 : State} {s : State} {c : Nat}
    (h0 : Steps parts s0 s) (hsub : ∀ p ∈ [Component.dma], p ∈ parts) : Steps parts s0 (State.dmaPromote s c) := by
  refine Steps.via (ps := parts) (qs := [Component.dma]) h0 ?_ hsub
  clear h0 hsub
  unfold State.dmaPromote
  try dsimp only
  repeat' (first
    | with_reducible apply Steps.ite <;> intro _
    | with_reducible exact Steps.refl _ _
    | with_reducible assumption
    | with_reducible apply State.modDma_steps
    | with_reducible refine Steps.foldl _ _ (fun u a h => ?_) ?_
    | with_reducible exact fun _ h => h
    | decide +kernel
    | split
    | dsimp only)

theorem State.dmaGoIdle_steps {parts : List Component} {s0 : State} {s : State} {c : Nat}
    (h0 : Steps parts s0 s) (hsub : ∀ p ∈ [Component.dma], p ∈ parts) : Steps parts s0 (State.dmaGoIdle s c) := by
  refine Steps.via (ps := parts) (qs := [Component.dma]) h0 ?_ hsub
  clear h0 hsub
  unfold State.dmaGoIdle
  try dsimp only
  repeat' (first
    | with_reducible apply Steps.ite <;> intro _
    | with_reducible exact Steps.refl _ _
    | with_reducible assumption
    | with_reducible apply State.dmaPromote_steps
    | with_reducible apply State.modDma_steps
    | with_reducible refine Steps.foldl _ _ (fun u a h => ?_) ?_
    | with_reducible exact fun _ h => h
    | decide +kernel
    | split
    | dsimp only)

theorem State.dmaHaltNote_steps {parts : List Component} {s0 : State} {s : State} {c : Nat}
    (h0 : Steps parts s0 s) (hsub : ∀ p ∈ [Component.log, .evr], p ∈ parts) : Steps parts s0 (State.dmaHaltNote s c) := by
  refine Steps.via (ps := parts) (qs := [Component.log, .evr]) h0 ?_ hsub
  clear h0 hsub
  unfold State.dmaHaltNote
  try dsimp only
  repeat' (first
    | with_reducible apply Steps.ite <;> intro _
    | with_reducible exact Steps.refl _ _
    | with_reducible assumption
    | with_reducible apply State.logNote_steps
    | with_reducible apply State.raiseHub_steps
    | with_reducible refine Steps.foldl _ _ (fun u a h => ?_) ?_
    | with_reducible exact fun _ h => h
    | decide +kernel
    | split
    | dsimp only)

theorem State.fillEnd_steps {parts : List Component} {s0 : State} {s : State} {c : Nat} {f : MemFill} {ok : Bool} {resp addr : Nat}
    (h0 : Steps parts s0 s) (hsub : ∀ p ∈ [Component.acls, .dram, .dma, .gable, .evr], p ∈ parts) : Steps parts s0 (State.fillEnd s c f ok resp addr) := by
  refine Steps.via (ps := parts) (qs := [Component.acls, .dram, .dma, .gable, .evr]) h0 ?_ hsub
  clear h0 hsub
  unfold State.fillEnd
  try dsimp only
  repeat' (first
    | with_reducible apply Steps.ite <;> intro _
    | with_reducible exact Steps.refl _ _
    | with_reducible assumption
    | with_reducible apply State.complete_steps
    | with_reducible apply State.modDma_steps
    | with_reducible apply State.modDram_steps
    | with_reducible apply State.setAcls_steps
    | with_reducible refine Steps.foldl _ _ (fun u a h => ?_) ?_
    | with_reducible exact tabWf_tmod _ _ _ _
    | with_reducible exact tabWf_tput _ _ _ _
    | with_reducible exact tabWf_tmodAll _ _ _ _
    | with_reducible exact fun _ => tabWf_nil _
    | with_reducible exact fun _ h => h
    | decide +kernel
    | split
    | dsimp only)

theorem State.dmaStopped_steps {parts : List Component} {s0 : State} {s : State} {c : Nat}
    (h0 : Steps parts s0 s) (hsub : ∀ p ∈ [Component.acls, .dram, .dma, .gable, .log, .evr], p ∈ parts) : Steps parts s0 (State.dmaStopped s c) := by
  refine Steps.via (ps := parts) (qs := [Component.acls, .dram, .dma, .gable, .log, .evr]) h0 ?_ hsub
  clear h0 hsub
  unfold State.dmaStopped
  try dsimp only
  repeat' (first
    | with_reducible apply Steps.ite <;> intro _
    | with_reducible exact Steps.refl _ _
    | with_reducible assumption
    | with_reducible apply State.dmaFree_steps
    | with_reducible apply State.dmaGoIdle_steps
    | with_reducible apply State.dmaHaltNote_steps
    | with_reducible apply State.fillEnd_steps
    | with_reducible apply State.modDma_steps
    | with_reducible refine Steps.foldl _ _ (fun u a h => ?_) ?_
    | with_reducible exact fun _ h => h
    | decide +kernel
    | split
    | dsimp only)

theorem State.dmaSettle_steps {parts : List Component} {s0 : State} {s : State} {c : Nat}
    (h0 : Steps parts s0 s) (hsub : ∀ p ∈ [Component.acls, .dram, .dma, .gable, .log, .evr], p ∈ parts) : Steps parts s0 (State.dmaSettle s c) := by
  refine Steps.via (ps := parts) (qs := [Component.acls, .dram, .dma, .gable, .log, .evr]) h0 ?_ hsub
  clear h0 hsub
  unfold State.dmaSettle
  try dsimp only
  repeat' (first
    | with_reducible apply Steps.ite <;> intro _
    | with_reducible exact Steps.refl _ _
    | with_reducible assumption
    | with_reducible apply State.dmaStopped_steps
    | with_reducible refine Steps.foldl _ _ (fun u a h => ?_) ?_
    | with_reducible exact fun _ h => h
    | decide +kernel
    | split
    | dsimp only)

theorem State.dmaStop_steps {parts : List Component} {s0 : State} {s : State} {c : Nat}
    (h0 : Steps parts s0 s) (hsub : ∀ p ∈ [Component.acls, .dram, .dma, .gable, .log, .evr], p ∈ parts) : Steps parts s0 (State.dmaStop s c) := by
  refine Steps.via (ps := parts) (qs := [Component.acls, .dram, .dma, .gable, .log, .evr]) h0 ?_ hsub
  clear h0 hsub
  unfold State.dmaStop
  try dsimp only
  repeat' (first
    | with_reducible apply Steps.ite <;> intro _
    | with_reducible exact Steps.refl _ _
    | with_reducible assumption
    | with_reducible apply State.dmaSettle_steps
    | with_reducible apply State.modDma_steps
    | with_reducible refine Steps.foldl _ _ (fun u a h => ?_) ?_
    | with_reducible exact fun _ h => h
    | decide +kernel
    | split
    | dsimp only)

theorem State.dmaRelease_steps {parts : List Component} {s0 : State} {s : State} {c : Nat} {tok : Option Nat}
    (h0 : Steps parts s0 s) (hsub : ∀ p ∈ [Component.acls, .dram, .dma, .gable, .log, .evr], p ∈ parts) : Steps parts s0 (State.dmaRelease s c tok) := by
  refine Steps.via (ps := parts) (qs := [Component.acls, .dram, .dma, .gable, .log, .evr]) h0 ?_ hsub
  clear h0 hsub
  unfold State.dmaRelease
  try dsimp only
  repeat' (first
    | with_reducible apply Steps.ite <;> intro _
    | with_reducible exact Steps.refl _ _
    | with_reducible assumption
    | with_reducible apply State.dmaFree_steps
    | with_reducible apply State.dmaStop_steps
    | with_reducible apply State.modDma_steps
    | with_reducible refine Steps.foldl _ _ (fun u a h => ?_) ?_
    | with_reducible exact fun _ h => h
    | decide +kernel
    | split
    | dsimp only)

theorem State.dropGrants_steps {parts : List Component} {s0 : State} {s : State} {sid : Nat}
    (h0 : Steps parts s0 s) (hsub : ∀ p ∈ [Component.acls, .dram, .dma, .gable, .log, .evr], p ∈ parts) : Steps parts s0 (State.dropGrants s sid) := by
  refine Steps.via (ps := parts) (qs := [Component.acls, .dram, .dma, .gable, .log, .evr]) h0 ?_ hsub
  clear h0 hsub
  unfold State.dropGrants
  try dsimp only
  repeat' (first
    | with_reducible apply Steps.ite <;> intro _
    | with_reducible exact Steps.refl _ _
    | with_reducible assumption
    | with_reducible apply State.dmaRelease_steps
    | with_reducible refine Steps.foldl _ _ (fun u a h => ?_) ?_
    | with_reducible exact fun _ h => h
    | decide +kernel
    | split
    | dsimp only)

theorem State.eraseLinkKey_steps {parts : List Component} {s0 : State} {s : State} {k : Nat}
    (h0 : Steps parts s0 s) (hsub : ∀ p ∈ [Component.routers, .masters, .flows, .lanesets, .links, .guests, .linkKeys, .tb, .gable, .log, .evr], p ∈ parts) : Steps parts s0 (State.eraseLinkKey s k) := by
  refine Steps.via (ps := parts) (qs := [Component.routers, .masters, .flows, .lanesets, .links, .guests, .linkKeys, .tb, .gable, .log, .evr]) h0 ?_ hsub
  clear h0 hsub
  unfold State.eraseLinkKey
  try dsimp only
  repeat' (first
    | with_reducible apply Steps.ite <;> intro _
    | with_reducible exact Steps.refl _ _
    | with_reducible assumption
    | with_reducible apply State.laneOff_steps
    | with_reducible apply State.leaveActive_steps
    | with_reducible apply State.modLinkKey_steps
    | with_reducible refine Steps.foldl _ _ (fun u a h => ?_) ?_
    | with_reducible exact fun _ h => h
    | decide +kernel
    | split
    | dsimp only)

theorem State.dropKeys_steps {parts : List Component} {s0 : State} {s : State} {sid : Nat}
    (h0 : Steps parts s0 s) (hsub : ∀ p ∈ [Component.routers, .masters, .flows, .lanesets, .links, .guests, .linkKeys, .tb, .flash, .gable, .log, .evr], p ∈ parts) : Steps parts s0 (State.dropKeys s sid) := by
  refine Steps.via (ps := parts) (qs := [Component.routers, .masters, .flows, .lanesets, .links, .guests, .linkKeys, .tb, .flash, .gable, .log, .evr]) h0 ?_ hsub
  clear h0 hsub
  unfold State.dropKeys
  try dsimp only
  repeat' (first
    | with_reducible apply Steps.ite <;> intro _
    | with_reducible exact Steps.refl _ _
    | with_reducible assumption
    | with_reducible apply State.eraseLinkKey_steps
    | with_reducible apply State.modLinkKey_steps
    | with_reducible apply State.setFlash_steps
    | with_reducible refine Steps.foldl _ _ (fun u a h => ?_) ?_
    | with_reducible exact tabWf_tmod _ _ _ _
    | with_reducible exact tabWf_tput _ _ _ _
    | with_reducible exact tabWf_tmodAll _ _ _ _
    | with_reducible exact fun _ => tabWf_nil _
    | with_reducible exact fun _ h => h
    | decide +kernel
    | split
    | dsimp only)

theorem State.dropSources_steps {parts : List Component} {s0 : State} {s : State} {sid : Nat}
    (h0 : Steps parts s0 s) (hsub : ∀ p ∈ [Component.dies], p ∈ parts) : Steps parts s0 (State.dropSources s sid) := by
  refine Steps.via (ps := parts) (qs := [Component.dies]) h0 ?_ hsub
  clear h0 hsub
  unfold State.dropSources
  try dsimp only
  repeat' (first
    | with_reducible apply Steps.ite <;> intro _
    | with_reducible exact Steps.refl _ _
    | with_reducible assumption
    | with_reducible apply State.setDies_steps
    | with_reducible refine Steps.foldl _ _ (fun u a h => ?_) ?_
    | with_reducible exact tabWf_tmod _ _ _ _
    | with_reducible exact tabWf_tput _ _ _ _
    | with_reducible exact tabWf_tmodAll _ _ _ _
    | with_reducible exact fun _ => tabWf_nil _
    | with_reducible exact fun _ h => h
    | decide +kernel
    | split
    | dsimp only)

theorem State.dropRtSrcs_steps {parts : List Component} {s0 : State} {s : State}
    (h0 : Steps parts s0 s) (hsub : ∀ p ∈ [Component.dram], p ∈ parts) : Steps parts s0 (State.dropRtSrcs s) := by
  refine Steps.via (ps := parts) (qs := [Component.dram]) h0 ?_ hsub
  clear h0 hsub
  unfold State.dropRtSrcs
  try dsimp only
  repeat' (first
    | with_reducible apply Steps.ite <;> intro _
    | with_reducible exact Steps.refl _ _
    | with_reducible assumption
    | with_reducible apply State.modChan_steps
    | with_reducible refine Steps.foldl _ _ (fun u a h => ?_) ?_
    | with_reducible exact fun _ h => h
    | decide +kernel
    | split
    | dsimp only)

theorem State.releaseFlow_steps {parts : List Component} {s0 : State} {s : State} {i : Nat}
    (h0 : Steps parts s0 s) (hsub : ∀ p ∈ [Component.flows, .dram], p ∈ parts) : Steps parts s0 (State.releaseFlow s i) := by
  refine Steps.via (ps := parts) (qs := [Component.flows, .dram]) h0 ?_ hsub
  clear h0 hsub
  unfold State.releaseFlow
  try dsimp only
  repeat' (first
    | with_reducible apply Steps.ite <;> intro _
    | with_reducible exact Steps.refl _ _
    | with_reducible assumption
    | with_reducible apply State.dropRtSrcs_steps
    | with_reducible apply State.modFlow_steps
    | with_reducible refine Steps.foldl _ _ (fun u a h => ?_) ?_
    | with_reducible exact fun _ h => h
    | decide +kernel
    | split
    | dsimp only)

theorem State.freeOwned_steps {parts : List Component} {s0 : State} {s : State} {sid : Nat}
    (h0 : Steps parts s0 s) (hsub : ∀ p ∈ [Component.acls, .dies, .routers, .masters, .flows, .lanesets, .links, .guests, .linkKeys, .tb, .dram, .flash, .dma, .gable, .log, .evr], p ∈ parts) : Steps parts s0 (State.freeOwned s sid) := by
  refine Steps.via (ps := parts) (qs := [Component.acls, .dies, .routers, .masters, .flows, .lanesets, .links, .guests, .linkKeys, .tb, .dram, .flash, .dma, .gable, .log, .evr]) h0 ?_ hsub
  clear h0 hsub
  unfold State.freeOwned
  try dsimp only
  repeat' (first
    | with_reducible apply Steps.ite <;> intro _
    | with_reducible exact Steps.refl _ _
    | with_reducible assumption
    | with_reducible apply State.dropAcl_steps
    | with_reducible apply State.dropGrants_steps
    | with_reducible apply State.dropKeys_steps
    | with_reducible apply State.dropSources_steps
    | with_reducible apply State.releaseFlow_steps
    | with_reducible refine Steps.foldl _ _ (fun u a h => ?_) ?_
    | with_reducible exact fun _ h => h
    | decide +kernel
    | split
    | dsimp only)

theorem State.endSession_steps {parts : List Component} {s0 : State} {s : State} {sid : Nat}
    (h0 : Steps parts s0 s) (hsub : ∀ p ∈ [Component.acls, .dies, .routers, .masters, .flows, .lanesets, .links, .guests, .linkKeys, .tb, .dram, .flash, .dma, .gable, .log, .evr], p ∈ parts) : Steps parts s0 (State.endSession s sid) := by
  refine Steps.via (ps := parts) (qs := [Component.acls, .dies, .routers, .masters, .flows, .lanesets, .links, .guests, .linkKeys, .tb, .dram, .flash, .dma, .gable, .log, .evr]) h0 ?_ hsub
  clear h0 hsub
  unfold State.endSession
  try dsimp only
  repeat' (first
    | with_reducible apply Steps.ite <;> intro _
    | with_reducible exact Steps.refl _ _
    | with_reducible assumption
    | with_reducible apply State.freeOwned_steps
    | with_reducible apply State.unbind_steps
    | with_reducible refine Steps.foldl _ _ (fun u a h => ?_) ?_
    | with_reducible exact fun _ h => h
    | decide +kernel
    | split
    | dsimp only)

theorem phaseP4_steps {parts : List Component} {s0 : State} {s : State}
    (h0 : Steps parts s0 s) (hsub : ∀ p ∈ [Component.free, .rsp, .ids, .acls, .dies, .routers, .masters, .flows, .lanesets, .links, .guests, .linkKeys, .tb, .cfg, .dram, .flash, .dma, .gable, .log, .evr], p ∈ parts) : Steps parts s0 (phaseP4 s) := by
  refine Steps.via (ps := parts) (qs := [Component.free, .rsp, .ids, .acls, .dies, .routers, .masters, .flows, .lanesets, .links, .guests, .linkKeys, .tb, .cfg, .dram, .flash, .dma, .gable, .log, .evr]) h0 ?_ hsub
  clear h0 hsub
  unfold phaseP4
  try dsimp only
  repeat' (first
    | with_reducible apply Steps.ite <;> intro _
    | with_reducible exact Steps.refl _ _
    | with_reducible assumption
    | with_reducible apply State.closeStrm_steps
    | with_reducible apply State.endSession_steps
    | with_reducible apply State.freeKept_steps
    | with_reducible apply State.modCfg_steps
    | with_reducible apply State.modLeggett_steps
    | with_reducible apply State.openPort_steps
    | with_reducible apply State.quadImages_steps
    | with_reducible apply State.resetGroup_steps
    | with_reducible apply State.setIds_steps
    | with_reducible apply State.upDeclared_steps
    | with_reducible refine Steps.foldl _ _ (fun u a h => ?_) ?_
    | with_reducible exact fun _ h => h
    | decide +kernel
    | split
    | dsimp only)

theorem State.endCommands_steps {parts : List Component} {s0 : State} {s : State} {sid : Nat}
    (h0 : Steps parts s0 s) (hsub : ∀ p ∈ [Component.gable, .evr], p ∈ parts) : Steps parts s0 (State.endCommands s sid) := by
  refine Steps.via (ps := parts) (qs := [Component.gable, .evr]) h0 ?_ hsub
  clear h0 hsub
  unfold State.endCommands
  try dsimp only
  repeat' (first
    | with_reducible apply Steps.ite <;> intro _
    | with_reducible exact Steps.refl _ _
    | with_reducible assumption
    | with_reducible apply State.complete_steps
    | with_reducible refine Steps.foldl _ _ (fun u a h => ?_) ?_
    | with_reducible exact fun _ h => h
    | decide +kernel
    | split
    | dsimp only)

theorem State.unnapDie_steps {parts : List Component} {s0 : State} {s : State} {d : Nat}
    (h0 : Steps parts s0 s) (hsub : ∀ p ∈ [Component.clk], p ∈ parts) : Steps parts s0 (State.unnapDie s d) := by
  refine Steps.via (ps := parts) (qs := [Component.clk]) h0 ?_ hsub
  clear h0 hsub
  unfold State.unnapDie
  try dsimp only
  repeat' (first
    | with_reducible apply Steps.ite <;> intro _
    | with_reducible exact Steps.refl _ _
    | with_reducible assumption
    | with_reducible apply State.modNode_steps
    | with_reducible refine Steps.foldl _ _ (fun u a h => ?_) ?_
    | with_reducible exact fun _ h => h
    | decide +kernel
    | split
    | dsimp only)

theorem State.raiseClockFail_steps {parts : List Component} {s0 : State} {s : State} {c : Nat}
    (h0 : Steps parts s0 s) (hsub : ∀ p ∈ [Component.routers, .evr], p ∈ parts) : Steps parts s0 (State.raiseClockFail s c) := by
  refine Steps.via (ps := parts) (qs := [Component.routers, .evr]) h0 ?_ hsub
  clear h0 hsub
  unfold State.raiseClockFail
  try dsimp only
  repeat' (first
    | with_reducible apply Steps.ite <;> intro _
    | with_reducible exact Steps.refl _ _
    | with_reducible assumption
    | with_reducible apply State.raiseEvent_steps
    | with_reducible refine Steps.foldl _ _ (fun u a h => ?_) ?_
    | with_reducible exact fun _ h => h
    | decide +kernel
    | split
    | dsimp only)

theorem State.declareFailed_steps {parts : List Component} {s0 : State} {s : State} {c : Nat}
    (h0 : Steps parts s0 s) (hsub : ∀ p ∈ [Component.routers, .clk, .evr], p ∈ parts) : Steps parts s0 (State.declareFailed s c) := by
  refine Steps.via (ps := parts) (qs := [Component.routers, .clk, .evr]) h0 ?_ hsub
  clear h0 hsub
  unfold State.declareFailed
  try dsimp only
  repeat' (first
    | with_reducible apply Steps.ite <;> intro _
    | with_reducible exact Steps.refl _ _
    | with_reducible assumption
    | with_reducible apply State.modClk_steps
    | with_reducible apply State.modNode_steps
    | with_reducible apply State.raiseClockFail_steps
    | with_reducible refine Steps.foldl _ _ (fun u a h => ?_) ?_
    | with_reducible exact fun _ h => h
    | decide +kernel
    | split
    | dsimp only)

end Sys2Proof.Machine
end

