-- ==== Sys2Proof/Laws/Steps3.lean ====
section
/-! SUPPORT. Part 3 of the step lemmas: for each operation of the machine, which components of State it may change, and that it keeps
    every table's canonical form. Each lemma cites those of the operations it calls; none unfolds a callee. -/

open Sys2Proof
namespace Sys2Proof.Machine

set_option linter.all false
set_option Elab.async false

theorem State.modMon_steps {parts : List Component} {s0 : State} {s : State} {d : Nat} {f : TosMon → TosMon}
    (h0 : Steps parts s0 s) (hsub : ∀ p ∈ [Component.times], p ∈ parts) : Steps parts s0 (State.modMon s d f) := by
  refine Steps.via (ps := parts) (qs := [Component.times]) h0 ?_ hsub
  clear h0 hsub
  unfold State.modMon
  try dsimp only
  repeat' (first
    | with_reducible apply Steps.ite <;> intro _
    | with_reducible exact Steps.refl _ _
    | with_reducible assumption
    | with_reducible apply State.modTime_steps
    | with_reducible refine Steps.foldl _ _ (fun u a h => ?_) ?_
    | with_reducible exact fun _ h => h
    | decide +kernel
    | split
    | dsimp only)

theorem State.remeasure_steps {parts : List Component} {s0 : State} {s : State} {d : Nat}
    (h0 : Steps parts s0 s) (hsub : ∀ p ∈ [Component.times], p ∈ parts) : Steps parts s0 (State.remeasure s d) := by
  refine Steps.via (ps := parts) (qs := [Component.times]) h0 ?_ hsub
  clear h0 hsub
  unfold State.remeasure
  try dsimp only
  repeat' (first
    | with_reducible apply Steps.ite <;> intro _
    | with_reducible exact Steps.refl _ _
    | with_reducible assumption
    | with_reducible apply State.modMon_steps
    | with_reducible refine Steps.foldl _ _ (fun u a h => ?_) ?_
    | with_reducible exact fun _ h => h
    | decide +kernel
    | split
    | dsimp only)

theorem State.takeSource_steps {parts : List Component} {s0 : State} {s : State} {c : Nat} {src : BitVec 6}
    (h0 : Steps parts s0 s) (hsub : ∀ p ∈ [Component.lanesets, .times, .gable, .clk, .evr], p ∈ parts) : Steps parts s0 (State.takeSource s c src) := by
  refine Steps.via (ps := parts) (qs := [Component.lanesets, .times, .gable, .clk, .evr]) h0 ?_ hsub
  clear h0 hsub
  unfold State.takeSource
  try dsimp only
  repeat' (first
    | with_reducible apply Steps.ite <;> intro _
    | with_reducible exact Steps.refl _ _
    | with_reducible assumption
    | with_reducible apply State.completeOpt_steps
    | with_reducible apply State.modLaneset_steps
    | with_reducible apply State.modNode_steps
    | with_reducible apply State.remeasure_steps
    | with_reducible refine Steps.foldl _ _ (fun u a h => ?_) ?_
    | with_reducible exact fun _ h => h
    | decide +kernel
    | split
    | dsimp only)

theorem State.takeFallback_steps {parts : List Component} {s0 : State} {s : State} {c : Nat}
    (h0 : Steps parts s0 s) (hsub : ∀ p ∈ [Component.lanesets, .times, .gable, .clk, .evr], p ∈ parts) : Steps parts s0 (State.takeFallback s c) := by
  refine Steps.via (ps := parts) (qs := [Component.lanesets, .times, .gable, .clk, .evr]) h0 ?_ hsub
  clear h0 hsub
  unfold State.takeFallback
  try dsimp only
  repeat' (first
    | with_reducible apply Steps.ite <;> intro _
    | with_reducible exact Steps.refl _ _
    | with_reducible assumption
    | with_reducible apply State.modNode_steps
    | with_reducible apply State.takeSource_steps
    | with_reducible refine Steps.foldl _ _ (fun u a h => ?_) ?_
    | with_reducible exact fun _ h => h
    | decide +kernel
    | split
    | dsimp only)

theorem State.failNet_steps {parts : List Component} {s0 : State} {s : State} {c : Nat}
    (h0 : Steps parts s0 s) (hsub : ∀ p ∈ [Component.dies, .routers, .lanesets, .times, .gable, .clk, .evr], p ∈ parts) : Steps parts s0 (State.failNet s c) := by
  refine Steps.via (ps := parts) (qs := [Component.dies, .routers, .lanesets, .times, .gable, .clk, .evr]) h0 ?_ hsub
  clear h0 hsub
  unfold State.failNet
  try dsimp only
  repeat' (first
    | with_reducible apply Steps.ite <;> intro _
    | with_reducible exact Steps.refl _ _
    | with_reducible assumption
    | with_reducible apply State.declareFailed_steps
    | with_reducible apply State.holdPads_steps
    | with_reducible apply State.takeFallback_steps
    | with_reducible refine Steps.foldl _ _ (fun u a h => ?_) ?_
    | with_reducible exact fun _ h => h
    | decide +kernel
    | split
    | dsimp only)

theorem State.failNets_steps {parts : List Component} {s0 : State} {s : State} {d : Nat} {on : Nat → Bool}
    (h0 : Steps parts s0 s) (hsub : ∀ p ∈ [Component.dies, .routers, .lanesets, .times, .gable, .clk, .evr], p ∈ parts) : Steps parts s0 (State.failNets s d on) := by
  refine Steps.via (ps := parts) (qs := [Component.dies, .routers, .lanesets, .times, .gable, .clk, .evr]) h0 ?_ hsub
  clear h0 hsub
  unfold State.failNets
  try dsimp only
  repeat' (first
    | with_reducible apply Steps.ite <;> intro _
    | with_reducible exact Steps.refl _ _
    | with_reducible assumption
    | with_reducible apply State.failNet_steps
    | with_reducible refine Steps.foldl _ _ (fun u a h => ?_) ?_
    | with_reducible exact fun _ h => h
    | decide +kernel
    | split
    | dsimp only)

theorem State.failPll_steps {parts : List Component} {s0 : State} {s : State} {c : Nat}
    (h0 : Steps parts s0 s) (hsub : ∀ p ∈ [Component.dies, .routers, .lanesets, .times, .gable, .clk, .evr], p ∈ parts) : Steps parts s0 (State.failPll s c) := by
  refine Steps.via (ps := parts) (qs := [Component.dies, .routers, .lanesets, .times, .gable, .clk, .evr]) h0 ?_ hsub
  clear h0 hsub
  unfold State.failPll
  try dsimp only
  repeat' (first
    | with_reducible apply Steps.ite <;> intro _
    | with_reducible exact Steps.refl _ _
    | with_reducible assumption
    | with_reducible apply State.declareFailed_steps
    | with_reducible apply State.failNets_steps
    | with_reducible apply State.takeFallback_steps
    | with_reducible refine Steps.foldl _ _ (fun u a h => ?_) ?_
    | with_reducible exact fun _ h => h
    | decide +kernel
    | split
    | dsimp only)

theorem State.uncal_steps {parts : List Component} {s0 : State} {s : State} {d : Nat}
    (h0 : Steps parts s0 s) (hsub : ∀ p ∈ [Component.times], p ∈ parts) : Steps parts s0 (State.uncal s d) := by
  refine Steps.via (ps := parts) (qs := [Component.times]) h0 ?_ hsub
  clear h0 hsub
  unfold State.uncal
  try dsimp only
  repeat' (first
    | with_reducible apply Steps.ite <;> intro _
    | with_reducible exact Steps.refl _ _
    | with_reducible assumption
    | with_reducible apply State.modMon_steps
    | with_reducible refine Steps.foldl _ _ (fun u a h => ?_) ?_
    | with_reducible exact fun _ h => h
    | decide +kernel
    | split
    | dsimp only)

theorem State.raiseLaneFault_steps {parts : List Component} {s0 : State} {s : State} {k : Nat} {cause : BitVec 5} {lanes : Nat}
    (h0 : Steps parts s0 s) (hsub : ∀ p ∈ [Component.routers, .evr], p ∈ parts) : Steps parts s0 (State.raiseLaneFault s k cause lanes) := by
  refine Steps.via (ps := parts) (qs := [Component.routers, .evr]) h0 ?_ hsub
  clear h0 hsub
  unfold State.raiseLaneFault
  try dsimp only
  repeat' (first
    | with_reducible apply Steps.ite <;> intro _
    | with_reducible exact Steps.refl _ _
    | with_reducible assumption
    | with_reducible apply State.raiseEvent_steps
    | with_reducible refine Steps.foldl _ _ (fun u a h => ?_) ?_
    | with_reducible exact fun _ h => h
    | decide +kernel
    | split
    | dsimp only)

theorem State.wakeChan_steps {parts : List Component} {s0 : State} {s : State} {n : Nat}
    (h0 : Steps parts s0 s) (hsub : ∀ p ∈ [Component.dram], p ∈ parts) : Steps parts s0 (State.wakeChan s n) := by
  refine Steps.via (ps := parts) (qs := [Component.dram]) h0 ?_ hsub
  clear h0 hsub
  unfold State.wakeChan
  try dsimp only
  repeat' (first
    | with_reducible apply Steps.ite <;> intro _
    | with_reducible exact Steps.refl _ _
    | with_reducible assumption
    | with_reducible apply State.modChan_steps
    | with_reducible refine Steps.foldl _ _ (fun u a h => ?_) ?_
    | with_reducible exact fun _ h => h
    | decide +kernel
    | split
    | dsimp only)

theorem State.modElem_steps {parts : List Component} {s0 : State} {s : State} {kind die id : Nat} {f : Elem → Elem}
    (h0 : Steps parts s0 s) (hsub : ∀ p ∈ [Component.clk], p ∈ parts) : Steps parts s0 (State.modElem s kind die id f) := by
  refine Steps.via (ps := parts) (qs := [Component.clk]) h0 ?_ hsub
  clear h0 hsub
  unfold State.modElem
  try dsimp only
  repeat' (first
    | with_reducible apply Steps.ite <;> intro _
    | with_reducible exact Steps.refl _ _
    | with_reducible assumption
    | with_reducible apply State.modClk_steps
    | with_reducible refine Steps.foldl _ _ (fun u a h => ?_) ?_
    | with_reducible exact fun _ h => h
    | decide +kernel
    | split
    | dsimp only)

theorem State.wakeElem_steps {parts : List Component} {s0 : State} {s : State} {kind d id : Nat}
    (h0 : Steps parts s0 s) (hsub : ∀ p ∈ [Component.clk], p ∈ parts) : Steps parts s0 (State.wakeElem s kind d id) := by
  refine Steps.via (ps := parts) (qs := [Component.clk]) h0 ?_ hsub
  clear h0 hsub
  unfold State.wakeElem
  try dsimp only
  repeat' (first
    | with_reducible apply Steps.ite <;> intro _
    | with_reducible exact Steps.refl _ _
    | with_reducible assumption
    | with_reducible apply State.modElem_steps
    | with_reducible refine Steps.foldl _ _ (fun u a h => ?_) ?_
    | with_reducible exact fun _ h => h
    | decide +kernel
    | split
    | dsimp only)

theorem State.beginLp2Exit_steps {parts : List Component} {s0 : State} {s : State} {k : Nat}
    (h0 : Steps parts s0 s) (hsub : ∀ p ∈ [Component.lanesets], p ∈ parts) : Steps parts s0 (State.beginLp2Exit s k) := by
  refine Steps.via (ps := parts) (qs := [Component.lanesets]) h0 ?_ hsub
  clear h0 hsub
  unfold State.beginLp2Exit
  try dsimp only
  repeat' (first
    | with_reducible apply Steps.ite <;> intro _
    | with_reducible exact Steps.refl _ _
    | with_reducible assumption
    | with_reducible apply State.modLaneset_steps
    | with_reducible refine Steps.foldl _ _ (fun u a h => ?_) ?_
    | with_reducible exact fun _ h => h
    | decide +kernel
    | split
    | dsimp only)

theorem State.wakeCount_steps {parts : List Component} {s0 : State} {s : State} {kind die id : Nat}
    (h0 : Steps parts s0 s) (hsub : ∀ p ∈ [Component.clk], p ∈ parts) : Steps parts s0 (State.wakeCount s kind die id) := by
  refine Steps.via (ps := parts) (qs := [Component.clk]) h0 ?_ hsub
  clear h0 hsub
  unfold State.wakeCount
  try dsimp only
  repeat' (first
    | with_reducible apply Steps.ite <;> intro _
    | with_reducible exact Steps.refl _ _
    | with_reducible assumption
    | with_reducible apply State.modElem_steps
    | with_reducible refine Steps.foldl _ _ (fun u a h => ?_) ?_
    | with_reducible exact fun _ h => h
    | decide +kernel
    | split
    | dsimp only)

theorem State.laneWake_steps {parts : List Component} {s0 : State} {s : State} {k : Nat}
    (h0 : Steps parts s0 s) (hsub : ∀ p ∈ [Component.clk], p ∈ parts) : Steps parts s0 (State.laneWake s k) := by
  refine Steps.via (ps := parts) (qs := [Component.clk]) h0 ?_ hsub
  clear h0 hsub
  unfold State.laneWake
  try dsimp only
  repeat' (first
    | with_reducible apply Steps.ite <;> intro _
    | with_reducible exact Steps.refl _ _
    | with_reducible assumption
    | with_reducible apply State.wakeCount_steps
    | with_reducible refine Steps.foldl _ _ (fun u a h => ?_) ?_
    | with_reducible exact fun _ h => h
    | decide +kernel
    | split
    | dsimp only)

theorem State.wakeTx_steps {parts : List Component} {s0 : State} {s : State} {k : Nat}
    (h0 : Steps parts s0 s) (hsub : ∀ p ∈ [Component.lanesets, .links, .clk], p ∈ parts) : Steps parts s0 (State.wakeTx s k) := by
  refine Steps.via (ps := parts) (qs := [Component.lanesets, .links, .clk]) h0 ?_ hsub
  clear h0 hsub
  unfold State.wakeTx
  try dsimp only
  repeat' (first
    | with_reducible apply Steps.ite <;> intro _
    | with_reducible exact Steps.refl _ _
    | with_reducible assumption
    | with_reducible apply State.laneWake_steps
    | with_reducible apply State.modLaneset_steps
    | with_reducible apply State.modLink_steps
    | with_reducible refine Steps.foldl _ _ (fun u a h => ?_) ?_
    | with_reducible exact fun _ h => h
    | decide +kernel
    | split
    | dsimp only)

theorem State.wakeEnd_steps {parts : List Component} {s0 : State} {s : State} {k : Nat}
    (h0 : Steps parts s0 s) (hsub : ∀ p ∈ [Component.lanesets, .links, .clk], p ∈ parts) : Steps parts s0 (State.wakeEnd s k) := by
  refine Steps.via (ps := parts) (qs := [Component.lanesets, .links, .clk]) h0 ?_ hsub
  clear h0 hsub
  unfold State.wakeEnd
  try dsimp only
  repeat' (first
    | with_reducible apply Steps.ite <;> intro _
    | with_reducible exact Steps.refl _ _
    | with_reducible assumption
    | with_reducible apply State.beginLp2Exit_steps
    | with_reducible apply State.modLaneset_steps
    | with_reducible apply State.wakeTx_steps
    | with_reducible refine Steps.foldl _ _ (fun u a h => ?_) ?_
    | with_reducible exact fun _ h => h
    | decide +kernel
    | split
    | dsimp only)

theorem State.wakePaths_steps {parts : List Component} {s0 : State} {s : State} {f : Flow}
    (h0 : Steps parts s0 s) (hsub : ∀ p ∈ [Component.lanesets, .links, .dram, .clk], p ∈ parts) : Steps parts s0 (State.wakePaths s f) := by
  refine Steps.via (ps := parts) (qs := [Component.lanesets, .links, .dram, .clk]) h0 ?_ hsub
  clear h0 hsub
  unfold State.wakePaths
  try dsimp only
  repeat' (first
    | with_reducible apply Steps.ite <;> intro _
    | with_reducible exact Steps.refl _ _
    | with_reducible assumption
    | with_reducible apply State.wakeChan_steps
    | with_reducible apply State.wakeElem_steps
    | with_reducible apply State.wakeEnd_steps
    | with_reducible refine Steps.foldl _ _ (fun u a h => ?_) ?_
    | with_reducible exact fun _ h => h
    | decide +kernel
    | split
    | dsimp only)

theorem State.keepPaths_steps {parts : List Component} {s0 : State} {s : State} {hs : List Hop}
    (h0 : Steps parts s0 s) (hsub : ∀ p ∈ [Component.routers, .lanesets, .links, .dram, .clk], p ∈ parts) : Steps parts s0 (State.keepPaths s hs) := by
  refine Steps.via (ps := parts) (qs := [Component.routers, .lanesets, .links, .dram, .clk]) h0 ?_ hsub
  clear h0 hsub
  unfold State.keepPaths
  try dsimp only
  repeat' (first
    | with_reducible apply Steps.ite <;> intro _
    | with_reducible exact Steps.refl _ _
    | with_reducible assumption
    | with_reducible apply State.modRouter_steps
    | with_reducible apply State.wakePaths_steps
    | with_reducible refine Steps.foldl _ _ (fun u a h => ?_) ?_
    | with_reducible exact fun _ h => h
    | decide +kernel
    | split
    | dsimp only)

theorem State.rtrRtWrite_steps {parts : List Component} {s0 : State} {s : State} {d r p v : Nat}
    (h0 : Steps parts s0 s) (hsub : ∀ p ∈ [Component.routers], p ∈ parts) : Steps parts s0 (State.rtrRtWrite s d r p v) := by
  refine Steps.via (ps := parts) (qs := [Component.routers]) h0 ?_ hsub
  clear h0 hsub
  unfold State.rtrRtWrite
  try dsimp only
  repeat' (first
    | with_reducible apply Steps.ite <;> intro _
    | with_reducible exact Steps.refl _ _
    | with_reducible assumption
    | with_reducible apply State.modRouter_steps
    | with_reducible refine Steps.foldl _ _ (fun u a h => ?_) ?_
    | with_reducible exact fun _ h => h
    | decide +kernel
    | split
    | dsimp only)

theorem State.programOuts_steps {parts : List Component} {s0 : State} {s : State} {hs : List Hop}
    (h0 : Steps parts s0 s) (hsub : ∀ p ∈ [Component.routers], p ∈ parts) : Steps parts s0 (State.programOuts s hs) := by
  refine Steps.via (ps := parts) (qs := [Component.routers]) h0 ?_ hsub
  clear h0 hsub
  unfold State.programOuts
  try dsimp only
  repeat' (first
    | with_reducible apply Steps.ite <;> intro _
    | with_reducible exact Steps.refl _ _
    | with_reducible assumption
    | with_reducible apply State.rtrRtWrite_steps
    | with_reducible refine Steps.foldl _ _ (fun u a h => ?_) ?_
    | with_reducible exact fun _ h => h
    | decide +kernel
    | split
    | dsimp only)

theorem State.rebound_steps {ps : List Component} {s0 s : State} (h : Steps ps s0 s) (sub : ∀ p ∈ [Component.flows], p ∈ ps) :
    Steps ps s0 (State.rebound s) := by
  unfold State.rebound
  refine State.setFlows_steps h (fun w => ?_) sub
  generalize s.pool = pool
  generalize hl : s.flows = l at w
  have key : ∀ (es t : Tab Flow), tabWf Flow.reset t = true → tabWf Flow.reset (es.foldl (fun t e =>
      if e.2.used && !e.2.violated then
        match s.flowBound pool e.2 with
        | some b => tput Flow.reset t e.1 (s.counting { e.2 with bound := b.ceil })
        | none => t
      else t) t) = true := by
    intro es
    induction es with
    | nil => intro t ht; exact ht
    | cons e es ih =>
      intro t ht
      refine ih _ ?_
      dsimp only
      split
      · cases hb : s.flowBound pool e.2 with
        | some b => exact tabWf_tput _ _ _ _ ht
        | none => exact ht
      · exact ht
  exact key l l w

theorem State.decideAgain_steps {parts : List Component} {s0 : State} {s : State} {i : Nat}
    (h0 : Steps parts s0 s) (hsub : ∀ p ∈ [Component.routers, .flows, .lanesets, .links, .dram, .clk, .log, .evr], p ∈ parts) : Steps parts s0 (State.decideAgain s i) := by
  refine Steps.via (ps := parts) (qs := [Component.routers, .flows, .lanesets, .links, .dram, .clk, .log, .evr]) h0 ?_ hsub
  clear h0 hsub
  unfold State.decideAgain
  try dsimp only
  repeat' (first
    | with_reducible apply Steps.ite <;> intro _
    | with_reducible exact Steps.refl _ _
    | with_reducible assumption
    | with_reducible apply State.keepPaths_steps
    | with_reducible apply State.logNote_steps
    | with_reducible apply State.modFlow_steps
    | with_reducible apply State.programOuts_steps
    | with_reducible apply State.raiseHub_steps
    | with_reducible apply State.rebound_steps
    | with_reducible refine Steps.foldl _ _ (fun u a h => ?_) ?_
    | with_reducible exact fun _ h => h
    | decide +kernel
    | split
    | dsimp only)

theorem State.retryViolated_steps {parts : List Component} {s0 : State} {s : State}
    (h0 : Steps parts s0 s) (hsub : ∀ p ∈ [Component.routers, .flows, .lanesets, .links, .dram, .clk, .log, .evr], p ∈ parts) : Steps parts s0 (State.retryViolated s) := by
  refine Steps.via (ps := parts) (qs := [Component.routers, .flows, .lanesets, .links, .dram, .clk, .log, .evr]) h0 ?_ hsub
  clear h0 hsub
  unfold State.retryViolated
  try dsimp only
  repeat' (first
    | with_reducible apply Steps.ite <;> intro _
    | with_reducible exact Steps.refl _ _
    | with_reducible assumption
    | with_reducible apply State.decideAgain_steps
    | with_reducible refine Steps.foldl _ _ (fun u a h => ?_) ?_
    | with_reducible exact fun _ h => h
    | decide +kernel
    | split
    | dsimp only)

theorem State.recheckFlows_steps {parts : List Component} {s0 : State} {old s : State}
    (h0 : Steps parts s0 s) (hsub : ∀ p ∈ [Component.routers, .flows, .lanesets, .links, .dram, .clk, .log, .evr], p ∈ parts) : Steps parts s0 (State.recheckFlows old s) := by
  refine Steps.via (ps := parts) (qs := [Component.routers, .flows, .lanesets, .links, .dram, .clk, .log, .evr]) h0 ?_ hsub
  clear h0 hsub
  unfold State.recheckFlows
  try dsimp only
  repeat' (first
    | with_reducible apply Steps.ite <;> intro _
    | with_reducible exact Steps.refl _ _
    | with_reducible assumption
    | with_reducible apply State.decideAgain_steps
    | with_reducible apply State.retryViolated_steps
    | with_reducible refine Steps.foldl _ _ (fun u a h => ?_) ?_
    | with_reducible exact fun _ h => h
    | decide +kernel
    | split
    | dsimp only)

theorem State.laneFaultOf_steps {parts : List Component} {s0 : State} {s : State} {k : Nat} {cause : Nat} {found : List Nat}
    (h0 : Steps parts s0 s) (hsub : ∀ p ∈ [Component.routers, .masters, .flows, .lanesets, .links, .guests, .linkKeys, .tb, .dram, .gable, .clk, .log, .evr], p ∈ parts) : Steps parts s0 (State.laneFaultOf s k cause found) := by
  refine Steps.via (ps := parts) (qs := [Component.routers, .masters, .flows, .lanesets, .links, .guests, .linkKeys, .tb, .dram, .gable, .clk, .log, .evr]) h0 ?_ hsub
  clear h0 hsub
  unfold State.laneFaultOf
  try dsimp only
  repeat' (first
    | with_reducible apply Steps.ite <;> intro _
    | with_reducible exact Steps.refl _ _
    | with_reducible assumption
    | with_reducible apply State.completeAll_steps
    | with_reducible apply State.completeOpt_steps
    | with_reducible apply State.laneOff_steps
    | with_reducible apply State.leaveActive_steps
    | with_reducible apply State.modLaneset_steps
    | with_reducible apply State.raiseLaneFault_steps
    | with_reducible apply State.recheckFlows_steps
    | with_reducible refine Steps.foldl _ _ (fun u a h => ?_) ?_
    | with_reducible exact fun _ h => h
    | decide +kernel
    | split
    | dsimp only)

theorem State.laneFault_steps {parts : List Component} {s0 : State} {s : State} {k : Nat} {cause : Nat}
    (h0 : Steps parts s0 s) (hsub : ∀ p ∈ [Component.routers, .masters, .flows, .lanesets, .links, .guests, .linkKeys, .tb, .dram, .gable, .clk, .log, .evr], p ∈ parts) : Steps parts s0 (State.laneFault s k cause) := by
  refine Steps.via (ps := parts) (qs := [Component.routers, .masters, .flows, .lanesets, .links, .guests, .linkKeys, .tb, .dram, .gable, .clk, .log, .evr]) h0 ?_ hsub
  clear h0 hsub
  unfold State.laneFault
  try dsimp only
  repeat' (first
    | with_reducible apply Steps.ite <;> intro _
    | with_reducible exact Steps.refl _ _
    | with_reducible assumption
    | with_reducible apply State.laneFaultOf_steps
    | with_reducible refine Steps.foldl _ _ (fun u a h => ?_) ?_
    | with_reducible exact fun _ h => h
    | decide +kernel
    | split
    | dsimp only)

theorem State.failPref_steps {parts : List Component} {s0 : State} {s : State}
    (h0 : Steps parts s0 s) (hsub : ∀ p ∈ [Component.dies, .routers, .masters, .flows, .lanesets, .links, .guests, .linkKeys, .times, .tb, .dram, .gable, .clk, .log, .evr], p ∈ parts) : Steps parts s0 (State.failPref s) := by
  refine Steps.via (ps := parts) (qs := [Component.dies, .routers, .masters, .flows, .lanesets, .links, .guests, .linkKeys, .times, .tb, .dram, .gable, .clk, .log, .evr]) h0 ?_ hsub
  clear h0 hsub
  unfold State.failPref
  try dsimp only
  repeat' (first
    | with_reducible apply Steps.ite <;> intro _
    | with_reducible exact Steps.refl _ _
    | with_reducible assumption
    | with_reducible apply State.declareFailed_steps
    | with_reducible apply State.failNets_steps
    | with_reducible apply State.failPll_steps
    | with_reducible apply State.laneFault_steps
    | with_reducible apply State.takeFallback_steps
    | with_reducible apply State.uncal_steps
    | with_reducible refine Steps.foldl _ _ (fun u a h => ?_) ?_
    | with_reducible exact fun _ h => h
    | decide +kernel
    | split
    | dsimp only)

theorem State.modLane_steps {parts : List Component} {s0 : State} {s : State} {k n : Nat} {f : Lane → Lane}
    (h0 : Steps parts s0 s) (hsub : ∀ p ∈ [Component.lanesets], p ∈ parts) : Steps parts s0 (State.modLane s k n f) := by
  refine Steps.via (ps := parts) (qs := [Component.lanesets]) h0 ?_ hsub
  clear h0 hsub
  unfold State.modLane
  try dsimp only
  repeat' (first
    | with_reducible apply Steps.ite <;> intro _
    | with_reducible exact Steps.refl _ _
    | with_reducible assumption
    | with_reducible apply State.modLaneset_steps
    | with_reducible refine Steps.foldl _ _ (fun u a h => ?_) ?_
    | with_reducible exact fun _ h => h
    | decide +kernel
    | split
    | dsimp only)

theorem State.sendSet_steps {parts : List Component} {s0 : State} {s : State} {k typ : Nat} {payload : List (BitVec 8)} {lanes : List Nat}
    (h0 : Steps parts s0 s) (hsub : ∀ p ∈ [Component.lanesets], p ∈ parts) : Steps parts s0 (State.sendSet s k typ payload lanes) := by
  refine Steps.via (ps := parts) (qs := [Component.lanesets]) h0 ?_ hsub
  clear h0 hsub
  unfold State.sendSet
  try dsimp only
  repeat' (first
    | with_reducible apply Steps.ite <;> intro _
    | with_reducible exact Steps.refl _ _
    | with_reducible assumption
    | with_reducible apply State.modLaneset_steps
    | with_reducible refine Steps.foldl _ _ (fun u a h => ?_) ?_
    | with_reducible exact fun _ h => h
    | decide +kernel
    | split
    | dsimp only)

theorem State.sendRpr_steps {parts : List Component} {s0 : State} {s : State} {k attempt : Nat}
    (h0 : Steps parts s0 s) (hsub : ∀ p ∈ [Component.routers, .masters, .flows, .lanesets, .links, .guests, .linkKeys, .tb, .dram, .gable, .clk, .log, .evr], p ∈ parts) : Steps parts s0 (State.sendRpr s k attempt) := by
  refine Steps.via (ps := parts) (qs := [Component.routers, .masters, .flows, .lanesets, .links, .guests, .linkKeys, .tb, .dram, .gable, .clk, .log, .evr]) h0 ?_ hsub
  clear h0 hsub
  unfold State.sendRpr
  try dsimp only
  repeat' (first
    | with_reducible apply Steps.ite <;> intro _
    | with_reducible exact Steps.refl _ _
    | with_reducible assumption
    | with_reducible apply State.laneFault_steps
    | with_reducible apply State.modLink_steps
    | with_reducible apply State.sendSet_steps
    | with_reducible refine Steps.foldl _ _ (fun u a h => ?_) ?_
    | with_reducible exact fun _ h => h
    | decide +kernel
    | split
    | dsimp only)

theorem State.startRepair_steps {parts : List Component} {s0 : State} {s : State} {k : Nat}
    (h0 : Steps parts s0 s) (hsub : ∀ p ∈ [Component.routers, .masters, .flows, .lanesets, .links, .guests, .linkKeys, .tb, .dram, .gable, .clk, .log, .evr], p ∈ parts) : Steps parts s0 (State.startRepair s k) := by
  refine Steps.via (ps := parts) (qs := [Component.routers, .masters, .flows, .lanesets, .links, .guests, .linkKeys, .tb, .dram, .gable, .clk, .log, .evr]) h0 ?_ hsub
  clear h0 hsub
  unfold State.startRepair
  try dsimp only
  repeat' (first
    | with_reducible apply Steps.ite <;> intro _
    | with_reducible exact Steps.refl _ _
    | with_reducible assumption
    | with_reducible apply State.sendRpr_steps
    | with_reducible refine Steps.foldl _ _ (fun u a h => ?_) ?_
    | with_reducible exact fun _ h => h
    | decide +kernel
    | split
    | dsimp only)

theorem State.laneLost_steps {parts : List Component} {s0 : State} {s : State} {k n : Nat}
    (h0 : Steps parts s0 s) (hsub : ∀ p ∈ [Component.routers, .masters, .flows, .lanesets, .links, .guests, .linkKeys, .tb, .dram, .gable, .clk, .log, .evr], p ∈ parts) : Steps parts s0 (State.laneLost s k n) := by
  refine Steps.via (ps := parts) (qs := [Component.routers, .masters, .flows, .lanesets, .links, .guests, .linkKeys, .tb, .dram, .gable, .clk, .log, .evr]) h0 ?_ hsub
  clear h0 hsub
  unfold State.laneLost
  try dsimp only
  repeat' (first
    | with_reducible apply Steps.ite <;> intro _
    | with_reducible exact Steps.refl _ _
    | with_reducible assumption
    | with_reducible apply State.modLane_steps
    | with_reducible apply State.modLink_steps
    | with_reducible apply State.startRepair_steps
    | with_reducible refine Steps.foldl _ _ (fun u a h => ?_) ?_
    | with_reducible exact fun _ h => h
    | decide +kernel
    | split
    | dsimp only)

theorem State.loseLane_steps {parts : List Component} {s0 : State} {s : State} {k n : Nat}
    (h0 : Steps parts s0 s) (hsub : ∀ p ∈ [Component.routers, .masters, .flows, .lanesets, .links, .guests, .linkKeys, .tb, .dram, .gable, .clk, .log, .evr], p ∈ parts) : Steps parts s0 (State.loseLane s k n) := by
  refine Steps.via (ps := parts) (qs := [Component.routers, .masters, .flows, .lanesets, .links, .guests, .linkKeys, .tb, .dram, .gable, .clk, .log, .evr]) h0 ?_ hsub
  clear h0 hsub
  unfold State.loseLane
  try dsimp only
  repeat' (first
    | with_reducible apply Steps.ite <;> intro _
    | with_reducible exact Steps.refl _ _
    | with_reducible assumption
    | with_reducible apply State.laneFault_steps
    | with_reducible apply State.laneLost_steps
    | with_reducible apply State.modLane_steps
    | with_reducible refine Steps.foldl _ _ (fun u a h => ?_) ?_
    | with_reducible exact fun _ h => h
    | decide +kernel
    | split
    | dsimp only)

theorem State.loseLanes_steps {parts : List Component} {s0 : State} {s : State} {c : Nat}
    (h0 : Steps parts s0 s) (hsub : ∀ p ∈ [Component.routers, .masters, .flows, .lanesets, .links, .guests, .linkKeys, .tb, .dram, .gable, .clk, .log, .evr], p ∈ parts) : Steps parts s0 (State.loseLanes s c) := by
  refine Steps.via (ps := parts) (qs := [Component.routers, .masters, .flows, .lanesets, .links, .guests, .linkKeys, .tb, .dram, .gable, .clk, .log, .evr]) h0 ?_ hsub
  clear h0 hsub
  unfold State.loseLanes
  try dsimp only
  repeat' (first
    | with_reducible apply Steps.ite <;> intro _
    | with_reducible exact Steps.refl _ _
    | with_reducible assumption
    | with_reducible apply State.loseLane_steps
    | with_reducible refine Steps.foldl _ _ (fun u a h => ?_) ?_
    | with_reducible exact fun _ h => h
    | decide +kernel
    | split
    | dsimp only)

theorem State.spHold_steps {parts : List Component} {s0 : State} {s : State}
    (h0 : Steps parts s0 s) (hsub : ∀ p ∈ [Component.free, .svc], p ∈ parts) : Steps parts s0 (State.spHold s) := by
  refine Steps.via (ps := parts) (qs := [Component.free, .svc]) h0 ?_ hsub
  clear h0 hsub
  unfold State.spHold
  try dsimp only
  repeat' (first
    | with_reducible apply Steps.ite <;> intro _
    | with_reducible exact Steps.refl _ _
    | with_reducible assumption
    | with_reducible apply State.drew_steps
    | with_reducible apply State.modSvc_steps
    | with_reducible refine Steps.foldl _ _ (fun u a h => ?_) ?_
    | with_reducible exact fun _ h => h
    | decide +kernel
    | split
    | dsimp only)

theorem State.packageFault_steps {parts : List Component} {s0 : State} {s : State}
    (h0 : Steps parts s0 s) (hsub : ∀ p ∈ [Component.free, .dies, .routers, .masters, .cfg, .svc, .lad], p ∈ parts) : Steps parts s0 (State.packageFault s) := by
  refine Steps.via (ps := parts) (qs := [Component.free, .dies, .routers, .masters, .cfg, .svc, .lad]) h0 ?_ hsub
  clear h0 hsub
  unfold State.packageFault
  try dsimp only
  repeat' (first
    | with_reducible apply Steps.ite <;> intro _
    | with_reducible exact Steps.refl _ _
    | with_reducible assumption
    | with_reducible apply State.fenceDie_steps
    | with_reducible apply State.modCfg_steps
    | with_reducible apply State.spHold_steps
    | with_reducible refine Steps.foldl _ _ (fun u a h => ?_) ?_
    | with_reducible exact fun _ h => h
    | decide +kernel
    | split
    | dsimp only)

theorem State.failAccepted_steps {parts : List Component} {s0 : State} {s : State} {n : Nat}
    (h0 : Steps parts s0 s) (hsub : ∀ p ∈ [Component.free, .routers], p ∈ parts) : Steps parts s0 (State.failAccepted s n) := by
  refine Steps.via (ps := parts) (qs := [Component.free, .routers]) h0 ?_ hsub
  clear h0 hsub
  unfold State.failAccepted
  try dsimp only
  repeat' (first
    | with_reducible apply Steps.ite <;> intro _
    | with_reducible exact Steps.refl _ _
    | with_reducible assumption
    | with_reducible apply State.respond_steps
    | with_reducible refine Steps.foldl _ _ (fun u a h => ?_) ?_
    | with_reducible exact fun _ h => h
    | decide +kernel
    | split
    | dsimp only)

theorem State.raiseDramFault_steps {parts : List Component} {s0 : State} {s : State} {n cause step addr : Nat}
    (h0 : Steps parts s0 s) (hsub : ∀ p ∈ [Component.evr], p ∈ parts) : Steps parts s0 (State.raiseDramFault s n cause step addr) := by
  refine Steps.via (ps := parts) (qs := [Component.evr]) h0 ?_ hsub
  clear h0 hsub
  unfold State.raiseDramFault
  try dsimp only
  repeat' (first
    | with_reducible apply Steps.ite <;> intro _
    | with_reducible exact Steps.refl _ _
    | with_reducible assumption
    | with_reducible apply State.raiseHub_steps
    | with_reducible refine Steps.foldl _ _ (fun u a h => ?_) ?_
    | with_reducible exact fun _ h => h
    | decide +kernel
    | split
    | dsimp only)

theorem State.chanFault_steps {parts : List Component} {s0 : State} {s : State} {n cause step : Nat}
    (h0 : Steps parts s0 s) (hsub : ∀ p ∈ [Component.free, .routers, .dram, .gable, .evr], p ∈ parts) : Steps parts s0 (State.chanFault s n cause step) := by
  refine Steps.via (ps := parts) (qs := [Component.free, .routers, .dram, .gable, .evr]) h0 ?_ hsub
  clear h0 hsub
  unfold State.chanFault
  try dsimp only
  repeat' (first
    | with_reducible apply Steps.ite <;> intro _
    | with_reducible exact Steps.refl _ _
    | with_reducible assumption
    | with_reducible apply State.completeAll_steps
    | with_reducible apply State.completeOpt_steps
    | with_reducible apply State.failAccepted_steps
    | with_reducible apply State.forget_steps
    | with_reducible apply State.modChan_steps
    | with_reducible apply State.raiseDramFault_steps
    | with_reducible refine Steps.foldl _ _ (fun u a h => ?_) ?_
    | with_reducible exact fun _ h => h
    | decide +kernel
    | split
    | dsimp only)

theorem State.forceSafe_steps {parts : List Component} {s0 : State} {s : State} {c : Nat}
    (h0 : Steps parts s0 s) (hsub : ∀ p ∈ [Component.free, .dies, .routers, .masters, .flows, .lanesets, .links, .guests, .linkKeys, .times, .tb, .cfg, .dram, .gable, .clk, .log, .evr, .svc, .lad], p ∈ parts) : Steps parts s0 (State.forceSafe s c) := by
  refine Steps.via (ps := parts) (qs := [Component.free, .dies, .routers, .masters, .flows, .lanesets, .links, .guests, .linkKeys, .times, .tb, .cfg, .dram, .gable, .clk, .log, .evr, .svc, .lad]) h0 ?_ hsub
  clear h0 hsub
  unfold State.forceSafe
  try dsimp only
  repeat' (first
    | with_reducible apply Steps.ite <;> intro _
    | with_reducible exact Steps.refl _ _
    | with_reducible assumption
    | with_reducible apply State.chanFault_steps
    | with_reducible apply State.declareFailed_steps
    | with_reducible apply State.failNet_steps
    | with_reducible apply State.failPll_steps
    | with_reducible apply State.failPref_steps
    | with_reducible apply State.laneFault_steps
    | with_reducible apply State.loseLanes_steps
    | with_reducible apply State.modLeggett_steps
    | with_reducible apply State.modTime_steps
    | with_reducible apply State.packageFault_steps
    | with_reducible apply State.uncal_steps
    | with_reducible refine Steps.foldl _ _ (fun u a h => ?_) ?_
    | with_reducible exact fun _ h => h
    | decide +kernel
    | split
    | dsimp only)

theorem clockNodeFail_steps {parts : List Component} {s0 : State} {s : State} {c : Nat}
    (h0 : Steps parts s0 s) (hsub : ∀ p ∈ [Component.free, .rsp, .ids, .acls, .dies, .routers, .masters, .flows, .lanesets, .links, .guests, .linkKeys, .times, .hpins, .tb, .cfg, .dram, .flash, .fregions, .dma, .dmaLast, .gable, .clk, .log, .evr, .svc, .lad, .thermtrip, .pornLow, .supplyBad, .supplyOkAt], p ∈ parts) : Steps parts s0 (clockNodeFail s c) := by
  refine Steps.via (ps := parts) (qs := [Component.free, .rsp, .ids, .acls, .dies, .routers, .masters, .flows, .lanesets, .links, .guests, .linkKeys, .times, .hpins, .tb, .cfg, .dram, .flash, .fregions, .dma, .dmaLast, .gable, .clk, .log, .evr, .svc, .lad, .thermtrip, .pornLow, .supplyBad, .supplyOkAt]) h0 ?_ hsub
  clear h0 hsub
  unfold clockNodeFail
  try dsimp only
  repeat' (first
    | with_reducible apply Steps.ite <;> intro _
    | with_reducible exact Steps.refl _ _
    | with_reducible assumption
    | with_reducible apply State.declareFailed_steps
    | with_reducible apply State.forceSafe_steps
    | with_reducible apply State.modCfg_steps
    | with_reducible apply State.softReset_steps
    | with_reducible refine Steps.foldl _ _ (fun u a h => ?_) ?_
    | with_reducible exact fun _ h => h
    | decide +kernel
    | split
    | dsimp only)

theorem State.tryMeasure_steps {parts : List Component} {s0 : State} {s : State} {d : Nat}
    (h0 : Steps parts s0 s) (hsub : ∀ p ∈ [Component.times], p ∈ parts) : Steps parts s0 (State.tryMeasure s d) := by
  refine Steps.via (ps := parts) (qs := [Component.times]) h0 ?_ hsub
  clear h0 hsub
  unfold State.tryMeasure
  try dsimp only
  repeat' (first
    | with_reducible apply Steps.ite <;> intro _
    | with_reducible exact Steps.refl _ _
    | with_reducible assumption
    | with_reducible apply State.modMon_steps
    | with_reducible refine Steps.foldl _ _ (fun u a h => ?_) ?_
    | with_reducible exact fun _ h => h
    | decide +kernel
    | split
    | dsimp only)

theorem State.resume_steps {parts : List Component} {s0 : State} {s : State} {c : Nat}
    (h0 : Steps parts s0 s) (hsub : ∀ p ∈ [Component.rsp, .ids, .acls, .dies, .routers, .masters, .flows, .lanesets, .links, .guests, .linkKeys, .times, .hpins, .tb, .cfg, .dram, .flash, .fregions, .dma, .dmaLast, .gable, .clk, .log, .evr, .svc, .lad, .thermtrip, .pornLow, .supplyBad, .supplyOkAt], p ∈ parts) : Steps parts s0 (State.resume s c) := by
  refine Steps.via (ps := parts) (qs := [Component.rsp, .ids, .acls, .dies, .routers, .masters, .flows, .lanesets, .links, .guests, .linkKeys, .times, .hpins, .tb, .cfg, .dram, .flash, .fregions, .dma, .dmaLast, .gable, .clk, .log, .evr, .svc, .lad, .thermtrip, .pornLow, .supplyBad, .supplyOkAt]) h0 ?_ hsub
  clear h0 hsub
  unfold State.resume
  try dsimp only
  repeat' (first
    | with_reducible apply Steps.ite <;> intro _
    | with_reducible exact Steps.refl _ _
    | with_reducible assumption
    | with_reducible apply State.coreStart_steps
    | with_reducible apply State.modLaneset_steps
    | with_reducible apply State.modLeggett_steps
    | with_reducible apply State.modTime_steps
    | with_reducible apply State.softReset_steps
    | with_reducible apply State.tryMeasure_steps
    | with_reducible refine Steps.foldl _ _ (fun u a h => ?_) ?_
    | with_reducible exact fun _ h => h
    | decide +kernel
    | split
    | dsimp only)

theorem clockNodeRunning_steps {parts : List Component} {s0 : State} {s : State} {c khz : Nat}
    (h0 : Steps parts s0 s) (hsub : ∀ p ∈ [Component.rsp, .ids, .acls, .dies, .routers, .masters, .flows, .lanesets, .links, .guests, .linkKeys, .times, .hpins, .tb, .cfg, .dram, .flash, .fregions, .dma, .dmaLast, .gable, .clk, .log, .evr, .svc, .lad, .thermtrip, .pornLow, .supplyBad, .supplyOkAt], p ∈ parts) : Steps parts s0 (clockNodeRunning s c khz) := by
  refine Steps.via (ps := parts) (qs := [Component.rsp, .ids, .acls, .dies, .routers, .masters, .flows, .lanesets, .links, .guests, .linkKeys, .times, .hpins, .tb, .cfg, .dram, .flash, .fregions, .dma, .dmaLast, .gable, .clk, .log, .evr, .svc, .lad, .thermtrip, .pornLow, .supplyBad, .supplyOkAt]) h0 ?_ hsub
  clear h0 hsub
  unfold clockNodeRunning
  try dsimp only
  repeat' (first
    | with_reducible apply Steps.ite <;> intro _
    | with_reducible exact Steps.refl _ _
    | with_reducible assumption
    | with_reducible apply State.coreStart_steps
    | with_reducible apply State.modClk_steps
    | with_reducible apply State.modNode_steps
    | with_reducible apply State.resume_steps
    | with_reducible refine Steps.foldl _ _ (fun u a h => ?_) ?_
    | with_reducible exact fun _ h => h
    | decide +kernel
    | split
    | dsimp only)

theorem clockSwitchEnd_steps {parts : List Component} {s0 : State} {s : State} {c : Nat}
    (h0 : Steps parts s0 s) (hsub : ∀ p ∈ [Component.lanesets, .times, .gable, .clk, .evr], p ∈ parts) : Steps parts s0 (clockSwitchEnd s c) := by
  refine Steps.via (ps := parts) (qs := [Component.lanesets, .times, .gable, .clk, .evr]) h0 ?_ hsub
  clear h0 hsub
  unfold clockSwitchEnd
  try dsimp only
  repeat' (first
    | with_reducible apply Steps.ite <;> intro _
    | with_reducible exact Steps.refl _ _
    | with_reducible assumption
    | with_reducible apply State.takeSource_steps
    | with_reducible refine Steps.foldl _ _ (fun u a h => ?_) ?_
    | with_reducible exact fun _ h => h
    | decide +kernel
    | split
    | dsimp only)

theorem clkSelectBody_steps {parts : List Component} {s0 : State} {s : State} {m : Nat} {r : Request}
    (h0 : Steps parts s0 s) (hsub : ∀ p ∈ [Component.free, .times, .clk], p ∈ parts) : Steps parts s0 (clkSelectBody s m r).1 := by
  refine Steps.via (ps := parts) (qs := [Component.free, .times, .clk]) h0 ?_ hsub
  clear h0 hsub
  unfold clkSelectBody
  try dsimp only
  repeat' (first
    | with_reducible apply Steps.ite <;> intro _
    | with_reducible apply Steps.ite_fst <;> intro _
    | with_reducible exact Steps.refl _ _
    | with_reducible assumption
    | with_reducible apply State.drew_steps
    | with_reducible apply State.modClk_steps
    | with_reducible apply State.modMon_steps
    | with_reducible apply State.modNode_steps
    | with_reducible refine Steps.foldl _ _ (fun u a h => ?_) ?_
    | with_reducible refine Steps.of_fst ?_ (by assumption)
    | with_reducible exact fun _ h => h
    | decide +kernel
    | split
    | dsimp only)

theorem State.dmaClear_steps {parts : List Component} {s0 : State} {s : State} {c : Nat}
    (h0 : Steps parts s0 s) (hsub : ∀ p ∈ [Component.dma], p ∈ parts) : Steps parts s0 (State.dmaClear s c) := by
  refine Steps.via (ps := parts) (qs := [Component.dma]) h0 ?_ hsub
  clear h0 hsub
  unfold State.dmaClear
  try dsimp only
  repeat' (first
    | with_reducible apply Steps.ite <;> intro _
    | with_reducible exact Steps.refl _ _
    | with_reducible assumption
    | with_reducible apply State.modDma_steps
    | with_reducible refine Steps.foldl _ _ (fun u a h => ?_) ?_
    | with_reducible exact fun _ h => h
    | decide +kernel
    | split
    | dsimp only)

theorem State.dmaGo_steps {parts : List Component} {s0 : State} {s : State} {c : Nat}
    (h0 : Steps parts s0 s) (hsub : ∀ p ∈ [Component.dma], p ∈ parts) : StepsO parts s0 (State.dmaGo s c) := by
  refine StepsO.via (ps := parts) (qs := [Component.dma]) h0 ?_ hsub
  clear h0 hsub
  unfold State.dmaGo
  try dsimp only
  repeat' (first
    | with_reducible apply Steps.ite <;> intro _
    | with_reducible exact Steps.refl _ _
    | with_reducible assumption
    | with_reducible apply State.dmaGoIdle_steps
    | with_reducible apply State.modDma_steps
    | with_reducible apply StepsO.ite <;> intro _
    | with_reducible exact StepsO.none
    | with_reducible apply StepsO.some
    | with_reducible refine StepsO.map ?_ (fun u hu => ?_)
    | with_reducible refine StepsO.bind ?_ (fun u hu => ?_)
    | with_reducible refine Steps.foldl _ _ (fun u a h => ?_) ?_
    | with_reducible refine Steps.of_some ?_ (by assumption)
    | with_reducible exact fun _ h => h
    | decide +kernel
    | split
    | dsimp only)

theorem dmaCtrl_steps {parts : List Component} {s0 : State} {s : State} {c v : Nat}
    (h0 : Steps parts s0 s) (hsub : ∀ p ∈ [Component.acls, .dram, .dma, .gable, .log, .evr], p ∈ parts) : StepsO parts s0 (dmaCtrl s c v) := by
  refine StepsO.via (ps := parts) (qs := [Component.acls, .dram, .dma, .gable, .log, .evr]) h0 ?_ hsub
  clear h0 hsub
  unfold dmaCtrl
  try dsimp only
  repeat' (first
    | with_reducible apply Steps.ite <;> intro _
    | with_reducible exact Steps.refl _ _
    | with_reducible assumption
    | with_reducible apply State.dmaClear_steps
    | with_reducible apply State.dmaStop_steps
    | with_reducible apply State.modDma_steps
    | with_reducible apply StepsO.ite <;> intro _
    | with_reducible exact StepsO.none
    | with_reducible apply StepsO.some
    | with_reducible refine StepsO.map ?_ (fun u hu => ?_)
    | with_reducible refine StepsO.bind ?_ (fun u hu => ?_)
    | with_reducible apply State.dmaGo_steps
    | with_reducible refine Steps.foldl _ _ (fun u a h => ?_) ?_
    | with_reducible refine Steps.of_some ?_ (by assumption)
    | with_reducible exact fun _ h => h
    | decide +kernel
    | split
    | dsimp only)

theorem dmaWriteWord_steps {parts : List Component} {s0 : State} {s : State} {c off v : Nat}
    (h0 : Steps parts s0 s) (hsub : ∀ p ∈ [Component.acls, .dram, .dma, .gable, .log, .evr], p ∈ parts) : StepsO parts s0 (dmaWriteWord s c off v) := by
  refine StepsO.via (ps := parts) (qs := [Component.acls, .dram, .dma, .gable, .log, .evr]) h0 ?_ hsub
  clear h0 hsub
  unfold dmaWriteWord
  try dsimp only
  repeat' (first
    | with_reducible apply Steps.ite <;> intro _
    | with_reducible exact Steps.refl _ _
    | with_reducible assumption
    | with_reducible apply State.modDma_steps
    | with_reducible apply StepsO.ite <;> intro _
    | with_reducible exact StepsO.none
    | with_reducible apply StepsO.some
    | with_reducible refine StepsO.map ?_ (fun u hu => ?_)
    | with_reducible refine StepsO.bind ?_ (fun u hu => ?_)
    | with_reducible apply dmaCtrl_steps
    | with_reducible refine Steps.foldl _ _ (fun u a h => ?_) ?_
    | with_reducible refine Steps.of_some ?_ (by assumption)
    | with_reducible exact fun _ h => h
    | decide +kernel
    | split
    | dsimp only)

theorem dmaWrite_steps {parts : List Component} {s0 : State} {s : State} {c off : Nat} {eight : Bool} {v : Nat}
    (h0 : Steps parts s0 s) (hsub : ∀ p ∈ [Component.acls, .dram, .dma, .gable, .log, .evr], p ∈ parts) : Steps parts s0 (dmaWrite s c off eight v).1 := by
  refine Steps.via (ps := parts) (qs := [Component.acls, .dram, .dma, .gable, .log, .evr]) h0 ?_ hsub
  clear h0 hsub
  unfold dmaWrite
  try dsimp only
  repeat' (first
    | with_reducible apply Steps.ite <;> intro _
    | with_reducible apply Steps.ite_fst <;> intro _
    | with_reducible exact Steps.refl _ _
    | with_reducible assumption
    | with_reducible apply regErr_steps
    | with_reducible apply regOk_steps
    | with_reducible apply StepsO.ite <;> intro _
    | with_reducible exact StepsO.none
    | with_reducible apply StepsO.some
    | with_reducible refine StepsO.map ?_ (fun u hu => ?_)
    | with_reducible refine StepsO.bind ?_ (fun u hu => ?_)
    | with_reducible apply dmaWriteWord_steps
    | with_reducible refine Steps.foldl _ _ (fun u a h => ?_) ?_
    | with_reducible refine Steps.of_fst ?_ (by assumption)
    | with_reducible refine Steps.of_some ?_ (by assumption)
    | with_reducible exact fun _ h => h
    | decide +kernel
    | split
    | dsimp only)

theorem dmaReg_steps {parts : List Component} {s0 : State} {w : Who} {s : State} {off : Nat} {write eight : Bool} {v : Nat}
    (h0 : Steps parts s0 s) (hsub : ∀ p ∈ [Component.acls, .dram, .dma, .gable, .log, .evr], p ∈ parts) : Steps parts s0 (dmaReg w s off write eight v).1 := by
  refine Steps.via (ps := parts) (qs := [Component.acls, .dram, .dma, .gable, .log, .evr]) h0 ?_ hsub
  clear h0 hsub
  unfold dmaReg
  try dsimp only
  repeat' (first
    | with_reducible apply Steps.ite <;> intro _
    | with_reducible apply Steps.ite_fst <;> intro _
    | with_reducible exact Steps.refl _ _
    | with_reducible assumption
    | with_reducible apply dmaWrite_steps
    | with_reducible apply regDenied_steps
    | with_reducible apply regErr_steps
    | with_reducible apply regOk_steps
    | with_reducible refine Steps.foldl _ _ (fun u a h => ?_) ?_
    | with_reducible refine Steps.of_fst ?_ (by assumption)
    | with_reducible exact fun _ h => h
    | decide +kernel
    | split
    | dsimp only)

theorem State.fillStart_steps {parts : List Component} {s0 : State} {s : State} {c : Nat} {f : MemFill}
    (h0 : Steps parts s0 s) (hsub : ∀ p ∈ [Component.dram, .dma], p ∈ parts) : Steps parts s0 (State.fillStart s c f) := by
  refine Steps.via (ps := parts) (qs := [Component.dram, .dma]) h0 ?_ hsub
  clear h0 hsub
  unfold State.fillStart
  try dsimp only
  repeat' (first
    | with_reducible apply Steps.ite <;> intro _
    | with_reducible exact Steps.refl _ _
    | with_reducible assumption
    | with_reducible apply State.modDma_steps
    | with_reducible apply State.modDram_steps
    | with_reducible refine Steps.foldl _ _ (fun u a h => ?_) ?_
    | with_reducible exact fun _ h => h
    | decide +kernel
    | split
    | dsimp only)

theorem State.dmaDone_steps {parts : List Component} {s0 : State} {s : State} {c : Nat}
    (h0 : Steps parts s0 s) (hsub : ∀ p ∈ [Component.acls, .dram, .dma, .gable, .evr], p ∈ parts) : Steps parts s0 (State.dmaDone s c) := by
  refine Steps.via (ps := parts) (qs := [Component.acls, .dram, .dma, .gable, .evr]) h0 ?_ hsub
  clear h0 hsub
  unfold State.dmaDone
  try dsimp only
  repeat' (first
    | with_reducible apply Steps.ite <;> intro _
    | with_reducible exact Steps.refl _ _
    | with_reducible assumption
    | with_reducible apply State.dmaPromote_steps
    | with_reducible apply State.fillEnd_steps
    | with_reducible apply State.fillStart_steps
    | with_reducible apply State.modDma_steps
    | with_reducible apply State.raiseHub_steps
    | with_reducible refine Steps.foldl _ _ (fun u a h => ?_) ?_
    | with_reducible exact fun _ h => h
    | decide +kernel
    | split
    | dsimp only)

theorem State.sendBeat_steps {parts : List Component} {s0 : State} {s : State} {c : Nat} {b : Beat}
    (h0 : Steps parts s0 s) (hsub : ∀ p ∈ [Component.routers, .masters, .flows, .dma, .evr], p ∈ parts) : Steps parts s0 (State.sendBeat s c b) := by
  refine Steps.via (ps := parts) (qs := [Component.routers, .masters, .flows, .dma, .evr]) h0 ?_ hsub
  clear h0 hsub
  unfold State.sendBeat
  try dsimp only
  repeat' (first
    | with_reducible apply Steps.ite <;> intro _
    | with_reducible apply Steps.ite_fst <;> intro _
    | with_reducible exact Steps.refl _ _
    | with_reducible assumption
    | with_reducible apply State.injectReq_steps
    | with_reducible apply State.modDma_steps
    | with_reducible refine Steps.foldl _ _ (fun u a h => ?_) ?_
    | with_reducible refine Steps.of_fst ?_ (by assumption)
    | with_reducible exact fun _ h => h
    | decide +kernel
    | split
    | dsimp only)

theorem State.copyData_steps {parts : List Component} {s0 : State} {s : State} {a : DmaSet} {b : Beat}
    (h0 : Steps parts s0 s) (hsub : ∀ p ∈ [Component.free], p ∈ parts) : Steps parts s0 (State.copyData s a b).1 := by
  refine Steps.via (ps := parts) (qs := [Component.free]) h0 ?_ hsub
  clear h0 hsub
  unfold State.copyData
  try dsimp only
  repeat' (first
    | with_reducible apply Steps.ite <;> intro _
    | with_reducible apply Steps.ite_fst <;> intro _
    | with_reducible exact Steps.refl _ _
    | with_reducible assumption
    | with_reducible apply State.drew_steps
    | with_reducible refine Steps.foldl _ _ (fun u a h => ?_) ?_
    | with_reducible refine Steps.of_fst ?_ (by assumption)
    | with_reducible exact fun _ h => h
    | decide +kernel
    | split
    | dsimp only)

theorem dmaBeatIssue_steps {parts : List Component} {s0 : State} {s : State} {c : Nat} {kind : BeatKind}
    (h0 : Steps parts s0 s) (hsub : ∀ p ∈ [Component.free, .routers, .masters, .flows, .dma, .dmaLast, .evr], p ∈ parts) : Steps parts s0 (dmaBeatIssue s c kind) := by
  refine Steps.via (ps := parts) (qs := [Component.free, .routers, .masters, .flows, .dma, .dmaLast, .evr]) h0 ?_ hsub
  clear h0 hsub
  unfold dmaBeatIssue
  try dsimp only
  repeat' (first
    | with_reducible apply Steps.ite <;> intro _
    | with_reducible apply Steps.ite_fst <;> intro _
    | with_reducible exact Steps.refl _ _
    | with_reducible assumption
    | with_reducible apply State.copyData_steps
    | with_reducible apply State.modDma_steps
    | with_reducible apply State.sendBeat_steps
    | with_reducible apply State.setDmaLast_steps
    | with_reducible refine Steps.foldl _ _ (fun u a h => ?_) ?_
    | with_reducible refine Steps.of_fst ?_ (by assumption)
    | with_reducible exact fun _ h => h
    | decide +kernel
    | split
    | dsimp only)

theorem State.dmaAdvance_steps {parts : List Component} {s0 : State} {s : State} {c : Nat}
    (h0 : Steps parts s0 s) (hsub : ∀ p ∈ [Component.acls, .dram, .dma, .gable, .log, .evr], p ∈ parts) : Steps parts s0 (State.dmaAdvance s c) := by
  refine Steps.via (ps := parts) (qs := [Component.acls, .dram, .dma, .gable, .log, .evr]) h0 ?_ hsub
  clear h0 hsub
  unfold State.dmaAdvance
  try dsimp only
  repeat' (first
    | with_reducible apply Steps.ite <;> intro _
    | with_reducible exact Steps.refl _ _
    | with_reducible assumption
    | with_reducible apply State.dmaDone_steps
    | with_reducible apply State.dmaSettle_steps
    | with_reducible apply State.modDma_steps
    | with_reducible refine Steps.foldl _ _ (fun u a h => ?_) ?_
    | with_reducible exact fun _ h => h
    | decide +kernel
    | split
    | dsimp only)

theorem State.dmaHalt_steps {parts : List Component} {s0 : State} {s : State} {c : Nat} {b : Beat} {resp : BitVec 3} {retried : Bool}
    (h0 : Steps parts s0 s) (hsub : ∀ p ∈ [Component.acls, .dram, .dma, .gable, .log, .evr], p ∈ parts) : Steps parts s0 (State.dmaHalt s c b resp retried) := by
  refine Steps.via (ps := parts) (qs := [Component.acls, .dram, .dma, .gable, .log, .evr]) h0 ?_ hsub
  clear h0 hsub
  unfold State.dmaHalt
  try dsimp only
  repeat' (first
    | with_reducible apply Steps.ite <;> intro _
    | with_reducible exact Steps.refl _ _
    | with_reducible assumption
    | with_reducible apply State.dmaSettle_steps
    | with_reducible apply State.modDma_steps
    | with_reducible refine Steps.foldl _ _ (fun u a h => ?_) ?_
    | with_reducible exact fun _ h => h
    | decide +kernel
    | split
    | dsimp only)

theorem State.takeRsp_steps {ps : List Component} {s0 s u : State} {mid : BitVec 12} {k : Pkt} {o : Option Outst} (h : Steps ps s0 s)
    (e : s.takeRsp mid = some (k, o, u)) (sub : ∀ p ∈ [Component.routers, .masters], p ∈ ps) : Steps ps s0 u := by
  have hm : ∀ p ∈ [Component.masters], p ∈ ps := fun p hp => sub p (by simp_all)
  unfold State.takeRsp at e
  split at e
  · cases e
  · dsimp only at e
    split at e <;> cases e
    · exact State.modMaster_steps (State.modMaster_steps h hm) hm
    · exact State.modMaster_steps (State.countLate_steps (State.modMaster_steps h hm) sub) hm

theorem dmaBeatResponse_steps {parts : List Component} {s0 : State} {s : State} {c : Nat}
    (h0 : Steps parts s0 s) (hsub : ∀ p ∈ [Component.acls, .routers, .masters, .dram, .dma, .gable, .log, .evr], p ∈ parts) : Steps parts s0 (dmaBeatResponse s c) := by
  refine Steps.via (ps := parts) (qs := [Component.acls, .routers, .masters, .dram, .dma, .gable, .log, .evr]) h0 ?_ hsub
  clear h0 hsub
  unfold dmaBeatResponse
  try dsimp only
  repeat' (first
    | with_reducible apply Steps.ite <;> intro _
    | with_reducible exact Steps.refl _ _
    | with_reducible assumption
    | with_reducible apply State.dmaAdvance_steps
    | with_reducible apply State.dmaDone_steps
    | with_reducible apply State.dmaHalt_steps
    | with_reducible apply State.dmaSettle_steps
    | with_reducible apply State.modDma_steps
    | with_reducible refine Steps.foldl _ _ (fun u a h => ?_) ?_
    | with_reducible refine State.takeRsp_steps ?_ (by assumption) ?_
    | with_reducible exact fun _ h => h
    | decide +kernel
    | split
    | dsimp only)

theorem dmaRetryTimer_steps {parts : List Component} {s0 : State} {s : State} {c : Nat} {tag : BitVec 10}
    (h0 : Steps parts s0 s) (hsub : ∀ p ∈ [Component.routers, .masters, .flows, .dma, .evr], p ∈ parts) : Steps parts s0 (dmaRetryTimer s c tag) := by
  refine Steps.via (ps := parts) (qs := [Component.routers, .masters, .flows, .dma, .evr]) h0 ?_ hsub
  clear h0 hsub
  unfold dmaRetryTimer
  try dsimp only
  repeat' (first
    | with_reducible apply Steps.ite <;> intro _
    | with_reducible exact Steps.refl _ _
    | with_reducible assumption
    | with_reducible apply State.modDma_steps
    | with_reducible apply State.sendBeat_steps
    | with_reducible refine Steps.foldl _ _ (fun u a h => ?_) ?_
    | with_reducible exact fun _ h => h
    | decide +kernel
    | split
    | dsimp only)

theorem State.trainOrRefuse_steps {parts : List Component} {s0 : State} {s : State} {n : Nat} {tok : Option Nat}
    (h0 : Steps parts s0 s) (hsub : ∀ p ∈ [Component.dram, .gable, .evr], p ∈ parts) : Steps parts s0 (State.trainOrRefuse s n tok) := by
  refine Steps.via (ps := parts) (qs := [Component.dram, .gable, .evr]) h0 ?_ hsub
  clear h0 hsub
  unfold State.trainOrRefuse
  try dsimp only
  repeat' (first
    | with_reducible apply Steps.ite <;> intro _
    | with_reducible exact Steps.refl _ _
    | with_reducible assumption
    | with_reducible apply State.completeOpt_steps
    | with_reducible apply State.forget_steps
    | with_reducible apply State.modChan_steps
    | with_reducible apply State.raiseDramFault_steps
    | with_reducible refine Steps.foldl _ _ (fun u a h => ?_) ?_
    | with_reducible exact fun _ h => h
    | decide +kernel
    | split
    | dsimp only)

theorem memTrainingDone_steps {parts : List Component} {s0 : State} {s : State} {n : Nat}
    (h0 : Steps parts s0 s) (hsub : ∀ p ∈ [Component.dram, .gable, .evr], p ∈ parts) : Steps parts s0 (memTrainingDone s n) := by
  refine Steps.via (ps := parts) (qs := [Component.dram, .gable, .evr]) h0 ?_ hsub
  clear h0 hsub
  unfold memTrainingDone
  try dsimp only
  repeat' (first
    | with_reducible apply Steps.ite <;> intro _
    | with_reducible exact Steps.refl _ _
    | with_reducible assumption
    | with_reducible apply State.completeOpt_steps
    | with_reducible apply State.modChan_steps
    | with_reducible refine Steps.foldl _ _ (fun u a h => ?_) ?_
    | with_reducible exact fun _ h => h
    | decide +kernel
    | split
    | dsimp only)

theorem State.chanShut_steps {parts : List Component} {s0 : State} {s : State} {n : Nat} {cmds : List (Nat × Bool)}
    (h0 : Steps parts s0 s) (hsub : ∀ p ∈ [Component.dram], p ∈ parts) : Steps parts s0 (State.chanShut s n cmds) := by
  refine Steps.via (ps := parts) (qs := [Component.dram]) h0 ?_ hsub
  clear h0 hsub
  unfold State.chanShut
  try dsimp only
  repeat' (first
    | with_reducible apply Steps.ite <;> intro _
    | with_reducible exact Steps.refl _ _
    | with_reducible assumption
    | with_reducible apply State.modChan_steps
    | with_reducible refine Steps.foldl _ _ (fun u a h => ?_) ?_
    | with_reducible exact fun _ h => h
    | decide +kernel
    | split
    | dsimp only)

theorem memShutdownEnd_steps {parts : List Component} {s0 : State} {s : State} {n : Nat}
    (h0 : Steps parts s0 s) (hsub : ∀ p ∈ [Component.dram, .gable, .evr], p ∈ parts) : Steps parts s0 (memShutdownEnd s n) := by
  refine Steps.via (ps := parts) (qs := [Component.dram, .gable, .evr]) h0 ?_ hsub
  clear h0 hsub
  unfold memShutdownEnd
  try dsimp only
  repeat' (first
    | with_reducible apply Steps.ite <;> intro _
    | with_reducible exact Steps.refl _ _
    | with_reducible assumption
    | with_reducible apply State.chanOff_steps
    | with_reducible apply State.completeAll_steps
    | with_reducible apply State.modChan_steps
    | with_reducible apply State.trainOrRefuse_steps
    | with_reducible refine Steps.foldl _ _ (fun u a h => ?_) ?_
    | with_reducible exact fun _ h => h
    | decide +kernel
    | split
    | dsimp only)

theorem memSrefExitEnd_steps {parts : List Component} {s0 : State} {s : State} {n : Nat}
    (h0 : Steps parts s0 s) (hsub : ∀ p ∈ [Component.dram, .gable, .evr], p ∈ parts) : Steps parts s0 (memSrefExitEnd s n) := by
  refine Steps.via (ps := parts) (qs := [Component.dram, .gable, .evr]) h0 ?_ hsub
  clear h0 hsub
  unfold memSrefExitEnd
  try dsimp only
  repeat' (first
    | with_reducible apply Steps.ite <;> intro _
    | with_reducible exact Steps.refl _ _
    | with_reducible assumption
    | with_reducible apply State.chanShut_steps
    | with_reducible apply State.completeOpt_steps
    | with_reducible apply State.modChan_steps
    | with_reducible refine Steps.foldl _ _ (fun u a h => ?_) ?_
    | with_reducible exact fun _ h => h
    | decide +kernel
    | split
    | dsimp only)

theorem State.memWrite_steps {parts : List Component} {s0 : State} {n : Nat} {s : State} {off v : Nat}
    (h0 : Steps parts s0 s) (hsub : ∀ p ∈ [Component.dram], p ∈ parts) : Steps parts s0 (State.memWrite n s off v) := by
  refine Steps.via (ps := parts) (qs := [Component.dram]) h0 ?_ hsub
  clear h0 hsub
  unfold State.memWrite
  try dsimp only
  repeat' (first
    | with_reducible apply Steps.ite <;> intro _
    | with_reducible exact Steps.refl _ _
    | with_reducible assumption
    | with_reducible apply State.modChan_steps
    | with_reducible refine Steps.foldl _ _ (fun u a h => ?_) ?_
    | with_reducible exact fun _ h => h
    | decide +kernel
    | split
    | dsimp only)

theorem State.flWrite_steps {parts : List Component} {s0 : State} {n : Nat} {s : State} {off v : Nat}
    (h0 : Steps parts s0 s) (hsub : ∀ p ∈ [Component.flash], p ∈ parts) : Steps parts s0 (State.flWrite n s off v) := by
  refine Steps.via (ps := parts) (qs := [Component.flash]) h0 ?_ hsub
  clear h0 hsub
  unfold State.flWrite
  try dsimp only
  repeat' (first
    | with_reducible apply Steps.ite <;> intro _
    | with_reducible exact Steps.refl _ _
    | with_reducible assumption
    | with_reducible apply State.modFunit_steps
    | with_reducible refine Steps.foldl _ _ (fun u a h => ?_) ?_
    | with_reducible exact fun _ h => h
    | decide +kernel
    | split
    | dsimp only)

theorem memReg_steps {parts : List Component} {s0 : State} {s : State} {n off : Nat} {write eight : Bool} {v : Nat}
    (h0 : Steps parts s0 s) (hsub : ∀ p ∈ [Component.dram, .flash], p ∈ parts) : Steps parts s0 (memReg s n off write eight v).1 := by
  refine Steps.via (ps := parts) (qs := [Component.dram, .flash]) h0 ?_ hsub
  clear h0 hsub
  unfold memReg
  try dsimp only
  repeat' (first
    | with_reducible apply Steps.ite <;> intro _
    | with_reducible apply Steps.ite_fst <;> intro _
    | with_reducible exact Steps.refl _ _
    | with_reducible assumption
    | with_reducible apply State.flWrite_steps
    | with_reducible apply State.memWrite_steps
    | with_reducible apply putWords_steps
    | with_reducible apply regOk_steps
    | (with_reducible intro u a b hu)
    | (with_reducible intro u a hu)
    | with_reducible refine Steps.foldl _ _ (fun u a h => ?_) ?_
    | with_reducible refine Steps.of_fst ?_ (by assumption)
    | with_reducible exact fun _ h => h
    | decide +kernel
    | split
    | dsimp only)

theorem State.abandonTraining_steps {parts : List Component} {s0 : State} {s : State} {n : Nat}
    (h0 : Steps parts s0 s) (hsub : ∀ p ∈ [Component.dram, .gable, .evr], p ∈ parts) : Steps parts s0 (State.abandonTraining s n) := by
  refine Steps.via (ps := parts) (qs := [Component.dram, .gable, .evr]) h0 ?_ hsub
  clear h0 hsub
  unfold State.abandonTraining
  try dsimp only
  repeat' (first
    | with_reducible apply Steps.ite <;> intro _
    | with_reducible exact Steps.refl _ _
    | with_reducible assumption
    | with_reducible apply State.chanOff_steps
    | with_reducible apply State.completeOpt_steps
    | with_reducible apply State.modChan_steps
    | with_reducible refine Steps.foldl _ _ (fun u a h => ?_) ?_
    | with_reducible exact fun _ h => h
    | decide +kernel
    | split
    | dsimp only)

theorem State.storeLine_steps {parts : List Component} {s0 : State} {s : State} {v : FlashView} {n c a : Nat} {plain : Bytes}
    (h0 : Steps parts s0 s) (hsub : ∀ p ∈ [Component.dram], p ∈ parts) : Steps parts s0 (State.storeLine s v n c a plain) := by
  refine Steps.via (ps := parts) (qs := [Component.dram]) h0 ?_ hsub
  clear h0 hsub
  unfold State.storeLine
  try dsimp only
  repeat' (first
    | with_reducible apply Steps.ite <;> intro _
    | with_reducible exact Steps.refl _ _
    | with_reducible assumption
    | with_reducible apply State.modDram_steps
    | with_reducible apply State.setLine_steps
    | with_reducible refine Steps.foldl _ _ (fun u a h => ?_) ?_
    | with_reducible exact fun _ h => h
    | decide +kernel
    | split
    | dsimp only)

theorem State.noteCe_steps {parts : List Component} {s0 : State} {s : State} {n c a : Nat} {scrub : Bool}
    (h0 : Steps parts s0 s) (hsub : ∀ p ∈ [Component.free, .dram, .log, .evr], p ∈ parts) : Steps parts s0 (State.noteCe s n c a scrub) := by
  refine Steps.via (ps := parts) (qs := [Component.free, .dram, .log, .evr]) h0 ?_ hsub
  clear h0 hsub
  unfold State.noteCe
  try dsimp only
  repeat' (first
    | with_reducible apply Steps.ite <;> intro _
    | with_reducible exact Steps.refl _ _
    | with_reducible assumption
    | with_reducible apply State.drew_steps
    | with_reducible apply State.logNote_steps
    | with_reducible apply State.modChan_steps
    | with_reducible apply State.raiseHub_steps
    | with_reducible refine Steps.foldl _ _ (fun u a h => ?_) ?_
    | with_reducible exact fun _ h => h
    | decide +kernel
    | split
    | dsimp only)

theorem State.noteUe_steps {parts : List Component} {s0 : State} {s : State} {n c a : Nat} {refused scrub : Bool}
    (h0 : Steps parts s0 s) (hsub : ∀ p ∈ [Component.dram, .evr], p ∈ parts) : Steps parts s0 (State.noteUe s n c a refused scrub) := by
  refine Steps.via (ps := parts) (qs := [Component.dram, .evr]) h0 ?_ hsub
  clear h0 hsub
  unfold State.noteUe
  try dsimp only
  repeat' (first
    | with_reducible apply Steps.ite <;> intro _
    | with_reducible exact Steps.refl _ _
    | with_reducible assumption
    | with_reducible apply State.modChan_steps
    | with_reducible apply State.raiseHub_steps
    | with_reducible refine Steps.foldl _ _ (fun u a h => ?_) ?_
    | with_reducible exact fun _ h => h
    | decide +kernel
    | split
    | dsimp only)

theorem State.noteTag_steps {parts : List Component} {s0 : State} {s : State} {v : FlashView} {n a : Nat} {src : BitVec 12} {refused : Bool}
    (h0 : Steps parts s0 s) (hsub : ∀ p ∈ [Component.evr], p ∈ parts) : Steps parts s0 (State.noteTag s v n a src refused) := by
  refine Steps.via (ps := parts) (qs := [Component.evr]) h0 ?_ hsub
  clear h0 hsub
  unfold State.noteTag
  try dsimp only
  repeat' (first
    | with_reducible apply Steps.ite <;> intro _
    | with_reducible exact Steps.refl _ _
    | with_reducible assumption
    | with_reducible apply State.raiseHub_steps
    | with_reducible refine Steps.foldl _ _ (fun u a h => ?_) ?_
    | with_reducible exact fun _ h => h
    | decide +kernel
    | split
    | dsimp only)

theorem State.dramAnswer_steps {parts : List Component} {s0 : State} {s : State} {n : Nat} {x : DramPkt}
    (h0 : Steps parts s0 s) (hsub : ∀ p ∈ [Component.free, .routers], p ∈ parts) : Steps parts s0 (State.dramAnswer s n x) := by
  refine Steps.via (ps := parts) (qs := [Component.free, .routers]) h0 ?_ hsub
  clear h0 hsub
  unfold State.dramAnswer
  try dsimp only
  repeat' (first
    | with_reducible apply Steps.ite <;> intro _
    | with_reducible exact Steps.refl _ _
    | with_reducible assumption
    | with_reducible apply State.drew_steps
    | with_reducible apply State.respond_steps
    | with_reducible refine Steps.foldl _ _ (fun u a h => ?_) ?_
    | with_reducible exact fun _ h => h
    | decide +kernel
    | split
    | dsimp only)

theorem State.lineDone_steps {parts : List Component} {s0 : State} {s : State} {n ident line : Nat} {got : List (Nat × BitVec 8)} {resp : BitVec 3}
    (h0 : Steps parts s0 s) (hsub : ∀ p ∈ [Component.free, .routers, .dram], p ∈ parts) : Steps parts s0 (State.lineDone s n ident line got resp) := by
  refine Steps.via (ps := parts) (qs := [Component.free, .routers, .dram]) h0 ?_ hsub
  clear h0 hsub
  unfold State.lineDone
  try dsimp only
  repeat' (first
    | with_reducible apply Steps.ite <;> intro _
    | with_reducible exact Steps.refl _ _
    | with_reducible assumption
    | with_reducible apply State.dramAnswer_steps
    | with_reducible apply State.modChan_steps
    | with_reducible refine Steps.foldl _ _ (fun u a h => ?_) ?_
    | with_reducible exact fun _ h => h
    | decide +kernel
    | split
    | dsimp only)

theorem State.dramArrive_steps {parts : List Component} {s0 : State} {s : State} {n p : Nat} {k : Pkt}
    (h0 : Steps parts s0 s) (hsub : ∀ p ∈ [Component.free, .routers, .dram, .flash, .log, .evr], p ∈ parts) : StepsO parts s0 (State.dramArrive s n p k) := by
  refine StepsO.via (ps := parts) (qs := [Component.free, .routers, .dram, .flash, .log, .evr]) h0 ?_ hsub
  clear h0 hsub
  unfold State.dramArrive
  try dsimp only
  repeat' (first
    | with_reducible apply Steps.ite <;> intro _
    | with_reducible exact Steps.refl _ _
    | with_reducible assumption
    | with_reducible apply State.denyAtPort_steps
    | with_reducible apply State.modChan_steps
    | with_reducible apply State.modFunit_steps
    | with_reducible apply State.raiseDramFault_steps
    | with_reducible apply State.respond_steps
    | with_reducible apply StepsO.ite <;> intro _
    | with_reducible exact StepsO.none
    | with_reducible apply StepsO.some
    | with_reducible refine StepsO.map ?_ (fun u hu => ?_)
    | with_reducible refine StepsO.bind ?_ (fun u hu => ?_)
    | with_reducible refine Steps.foldl _ _ (fun u a h => ?_) ?_
    | with_reducible refine Steps.of_some ?_ (by assumption)
    | with_reducible exact fun _ h => h
    | decide +kernel
    | split
    | dsimp only)

theorem dramRequest_steps {parts : List Component} {s0 : State} {s : State} {n p : Nat}
    (h0 : Steps parts s0 s) (hsub : ∀ p ∈ [Component.free, .routers, .dram, .flash, .log, .evr], p ∈ parts) : Steps parts s0 (dramRequest s n p) := by
  refine Steps.via (ps := parts) (qs := [Component.free, .routers, .dram, .flash, .log, .evr]) h0 ?_ hsub
  clear h0 hsub
  unfold dramRequest
  try dsimp only
  repeat' (first
    | with_reducible apply Steps.ite <;> intro _
    | with_reducible exact Steps.refl _ _
    | with_reducible assumption
    | with_reducible apply State.modRouter_steps
    | with_reducible apply StepsO.ite <;> intro _
    | with_reducible exact StepsO.none
    | with_reducible apply StepsO.some
    | with_reducible refine StepsO.map ?_ (fun u hu => ?_)
    | with_reducible refine StepsO.bind ?_ (fun u hu => ?_)
    | with_reducible apply State.dramArrive_steps
    | with_reducible refine Steps.foldl _ _ (fun u a h => ?_) ?_
    | with_reducible refine Steps.of_some ?_ (by assumption)
    | with_reducible exact fun _ h => h
    | decide +kernel
    | split
    | dsimp only)

theorem State.takePkt_steps {parts : List Component} {s0 : State} {s : State} {n p : Nat} {rt prio : Bool} {k : Pkt}
    (h0 : Steps parts s0 s) (hsub : ∀ p ∈ [Component.free, .routers, .dram, .flash], p ∈ parts) : StepsO parts s0 (State.takePkt s n p rt prio k) := by
  refine StepsO.via (ps := parts) (qs := [Component.free, .routers, .dram, .flash]) h0 ?_ hsub
  clear h0 hsub
  unfold State.takePkt
  try dsimp only
  repeat' (first
    | with_reducible apply Steps.ite <;> intro _
    | with_reducible exact Steps.refl _ _
    | with_reducible assumption
    | with_reducible apply State.dramAnswer_steps
    | with_reducible apply State.modChan_steps
    | with_reducible apply State.modFunit_steps
    | with_reducible apply State.respond_steps
    | with_reducible apply StepsO.ite <;> intro _
    | with_reducible exact StepsO.none
    | with_reducible apply StepsO.some
    | with_reducible refine StepsO.map ?_ (fun u hu => ?_)
    | with_reducible refine StepsO.bind ?_ (fun u hu => ?_)
    | with_reducible refine Steps.foldl _ _ (fun u a h => ?_) ?_
    | with_reducible refine Steps.of_some ?_ (by assumption)
    | with_reducible exact fun _ h => h
    | decide +kernel
    | split
    | dsimp only)

theorem State.feedOne_steps {ps : List Component} {s0 s : State} {n : Nat} (h : Steps ps s0 s)
    (sub : ∀ p ∈ [Component.free, .routers, .dram, .flash], p ∈ ps) : StepsO ps s0 (s.feedOne n) := by
  have key : ∀ (l : List Nat) (f : Nat → Option State), (∀ a, StepsO ps s0 (f a)) → StepsO ps s0 (l.findSome? f) := by
    intro l f hf t ht
    obtain ⟨a, _, ha⟩ := List.exists_of_findSome?_eq_some ht
    exact hf a t ha
  have opt : ∀ (l : List Pkt) (f : Pkt → Option State), (∀ k, StepsO ps s0 (f k)) →
      StepsO ps s0 (match l with | k :: _ => f k | [] => none) := by
    intro l f hf
    cases l with
    | nil => exact StepsO.none
    | cons k _ => exact hf k
  unfold State.feedOne
  dsimp only
  refine StepsO.ite (fun _ => key _ _ fun p => opt _ _ fun k => State.takePkt_steps h sub) fun _ => key _ _ fun p => ?_
  intro t ht
  rw [Option.or_eq_some_iff] at ht
  obtain ht | ⟨_, ht⟩ := ht
  · exact opt _ _ (fun k => State.takePkt_steps h sub) t ht
  · exact opt _ _ (fun k => State.takePkt_steps h sub) t ht

theorem State.feed_steps {ps : List Component} {s0 s : State} {n k : Nat} (h : Steps ps s0 s)
    (sub : ∀ p ∈ [Component.free, .routers, .dram, .flash], p ∈ ps) : Steps ps s0 (s.feed n k) := by
  induction k generalizing s with
  | zero => exact h
  | succ k ih =>
    unfold State.feed
    split
    · exact h
    · rename_i s' e
      have h' := State.feedOne_steps h sub s' e
      exact Steps.ite (fun _ => h') fun _ => ih h'

theorem State.dropEntry_steps {parts : List Component} {s0 : State} {s : State} {n sub : Nat} {e : DramCmd}
    (h0 : Steps parts s0 s) (hsub : ∀ p ∈ [Component.dram], p ∈ parts) : Steps parts s0 (State.dropEntry s n sub e) := by
  refine Steps.via (ps := parts) (qs := [Component.dram]) h0 ?_ hsub
  clear h0 hsub
  unfold State.dropEntry
  try dsimp only
  repeat' (first
    | with_reducible apply Steps.ite <;> intro _
    | with_reducible exact Steps.refl _ _
    | with_reducible assumption
    | with_reducible apply State.modChan_steps
    | with_reducible refine Steps.foldl _ _ (fun u a h => ?_) ?_
    | with_reducible exact fun _ h => h
    | decide +kernel
    | split
    | dsimp only)

theorem State.writeFull_steps {parts : List Component} {s0 : State} {s : State} {n : Nat} {e : DramCmd}
    (h0 : Steps parts s0 s) (hsub : ∀ p ∈ [Component.free, .routers, .dram], p ∈ parts) : Steps parts s0 (State.writeFull s n e) := by
  refine Steps.via (ps := parts) (qs := [Component.free, .routers, .dram]) h0 ?_ hsub
  clear h0 hsub
  unfold State.writeFull
  try dsimp only
  repeat' (first
    | with_reducible apply Steps.ite <;> intro _
    | with_reducible exact Steps.refl _ _
    | with_reducible assumption
    | with_reducible apply State.lineDone_steps
    | with_reducible apply State.setLine_steps
    | with_reducible apply State.storeLine_steps
    | with_reducible refine Steps.foldl _ _ (fun u a h => ?_) ?_
    | with_reducible exact fun _ h => h
    | decide +kernel
    | split
    | dsimp only)

theorem State.lineRead_steps {parts : List Component} {s0 : State} {s : State} {n : Nat} {e : DramCmd} {f : Found}
    (h0 : Steps parts s0 s) (hsub : ∀ p ∈ [Component.free, .routers, .dram, .flash, .log, .evr], p ∈ parts) : Steps parts s0 (State.lineRead s n e f) := by
  refine Steps.via (ps := parts) (qs := [Component.free, .routers, .dram, .flash, .log, .evr]) h0 ?_ hsub
  clear h0 hsub
  unfold State.lineRead
  try dsimp only
  repeat' (first
    | with_reducible apply Steps.ite <;> intro _
    | with_reducible exact Steps.refl _ _
    | with_reducible assumption
    | with_reducible apply State.lineDone_steps
    | with_reducible apply State.modChan_steps
    | with_reducible apply State.modFunit_steps
    | with_reducible apply State.noteCe_steps
    | with_reducible apply State.noteTag_steps
    | with_reducible apply State.noteUe_steps
    | with_reducible apply State.setLine_steps
    | with_reducible apply State.storeLine_steps
    | with_reducible refine Steps.foldl _ _ (fun u a h => ?_) ?_
    | with_reducible exact fun _ h => h
    | decide +kernel
    | split
    | dsimp only)

theorem State.chanAwake_steps {parts : List Component} {s0 : State} {s : State} {n : Nat}
    (h0 : Steps parts s0 s) (hsub : ∀ p ∈ [Component.dram, .clk], p ∈ parts) : Steps parts s0 (State.chanAwake s n) := by
  refine Steps.via (ps := parts) (qs := [Component.dram, .clk]) h0 ?_ hsub
  clear h0 hsub
  unfold State.chanAwake
  try dsimp only
  repeat' (first
    | with_reducible apply Steps.ite <;> intro _
    | with_reducible exact Steps.refl _ _
    | with_reducible assumption
    | with_reducible apply State.modChan_steps
    | with_reducible apply State.wakeCount_steps
    | with_reducible refine Steps.foldl _ _ (fun u a h => ?_) ?_
    | with_reducible exact fun _ h => h
    | decide +kernel
    | split
    | dsimp only)

theorem dramLpExit_steps {parts : List Component} {s0 : State} {s : State} {n : Nat}
    (h0 : Steps parts s0 s) (hsub : ∀ p ∈ [Component.dram, .clk], p ∈ parts) : Steps parts s0 (dramLpExit s n) := by
  refine Steps.via (ps := parts) (qs := [Component.dram, .clk]) h0 ?_ hsub
  clear h0 hsub
  unfold dramLpExit
  try dsimp only
  repeat' (first
    | with_reducible apply Steps.ite <;> intro _
    | with_reducible exact Steps.refl _ _
    | with_reducible assumption
    | with_reducible apply State.chanAwake_steps
    | with_reducible refine Steps.foldl _ _ (fun u a h => ?_) ?_
    | with_reducible exact fun _ h => h
    | decide +kernel
    | split
    | dsimp only)

theorem dramIssue_steps {parts : List Component} {s0 : State} {s : State} {n sub : Nat}
    (h0 : Steps parts s0 s) (hsub : ∀ p ∈ [Component.free, .routers, .dram, .flash, .clk], p ∈ parts) : Steps parts s0 (dramIssue s n sub) := by
  refine Steps.via (ps := parts) (qs := [Component.free, .routers, .dram, .flash, .clk]) h0 ?_ hsub
  clear h0 hsub
  unfold dramIssue
  try dsimp only
  repeat' (first
    | with_reducible apply Steps.ite <;> intro _
    | with_reducible exact Steps.refl _ _
    | with_reducible assumption
    | with_reducible apply State.chanAwake_steps
    | with_reducible apply State.dropEntry_steps
    | with_reducible apply State.modChan_steps
    | with_reducible apply State.writeFull_steps
    | with_reducible apply State.feed_steps
    | with_reducible refine Steps.foldl _ _ (fun u a h => ?_) ?_
    | with_reducible exact fun _ h => h
    | decide +kernel
    | split
    | dsimp only)

theorem dramReturn_steps {parts : List Component} {s0 : State} {s : State} {n sub : Nat} {u : Sys2Proof.DramUpset}
    (h0 : Steps parts s0 s) (hsub : ∀ p ∈ [Component.free, .routers, .dram, .flash, .log, .evr], p ∈ parts) : Steps parts s0 (dramReturn s n sub u) := by
  refine Steps.via (ps := parts) (qs := [Component.free, .routers, .dram, .flash, .log, .evr]) h0 ?_ hsub
  clear h0 hsub
  unfold dramReturn
  try dsimp only
  repeat' (first
    | with_reducible apply Steps.ite <;> intro _
    | with_reducible apply Steps.ite_fst <;> intro _
    | with_reducible exact Steps.refl _ _
    | with_reducible assumption
    | with_reducible apply State.dropEntry_steps
    | with_reducible apply State.lineRead_steps
    | with_reducible apply State.modChan_steps
    | with_reducible apply State.readLine_steps
    | with_reducible refine Steps.foldl _ _ (fun u a h => ?_) ?_
    | with_reducible refine Steps.of_fst ?_ (by assumption)
    | with_reducible exact fun _ h => h
    | decide +kernel
    | split
    | dsimp only)

theorem dramRefresh_steps {parts : List Component} {s0 : State} {s : State} {n rank : Nat}
    (h0 : Steps parts s0 s) (hsub : ∀ p ∈ [Component.dram], p ∈ parts) : Steps parts s0 (dramRefresh s n rank) := by
  refine Steps.via (ps := parts) (qs := [Component.dram]) h0 ?_ hsub
  clear h0 hsub
  unfold dramRefresh
  try dsimp only
  repeat' (first
    | with_reducible apply Steps.ite <;> intro _
    | with_reducible exact Steps.refl _ _
    | with_reducible assumption
    | with_reducible apply State.modChan_steps
    | with_reducible refine Steps.foldl _ _ (fun u a h => ?_) ?_
    | with_reducible exact fun _ h => h
    | decide +kernel
    | split
    | dsimp only)

theorem dramMr4_steps {parts : List Component} {s0 : State} {s : State} {n : Nat} {need2x above : Bool} {rank : Nat}
    (h0 : Steps parts s0 s) (hsub : ∀ p ∈ [Component.dram, .evr], p ∈ parts) : Steps parts s0 (dramMr4 s n need2x above rank) := by
  refine Steps.via (ps := parts) (qs := [Component.dram, .evr]) h0 ?_ hsub
  clear h0 hsub
  unfold dramMr4
  try dsimp only
  repeat' (first
    | with_reducible apply Steps.ite <;> intro _
    | with_reducible exact Steps.refl _ _
    | with_reducible assumption
    | with_reducible apply State.modChan_steps
    | with_reducible apply State.raiseHub_steps
    | with_reducible refine Steps.foldl _ _ (fun u a h => ?_) ?_
    | with_reducible exact fun _ h => h
    | decide +kernel
    | split
    | dsimp only)

theorem dramAlert_steps {parts : List Component} {s0 : State} {s : State} {n : Nat}
    (h0 : Steps parts s0 s) (hsub : ∀ p ∈ [Component.free, .routers, .dram, .gable, .evr], p ∈ parts) : Steps parts s0 (dramAlert s n) := by
  refine Steps.via (ps := parts) (qs := [Component.free, .routers, .dram, .gable, .evr]) h0 ?_ hsub
  clear h0 hsub
  unfold dramAlert
  try dsimp only
  repeat' (first
    | with_reducible apply Steps.ite <;> intro _
    | with_reducible exact Steps.refl _ _
    | with_reducible assumption
    | with_reducible apply State.chanFault_steps
    | with_reducible apply State.modChan_steps
    | with_reducible refine Steps.foldl _ _ (fun u a h => ?_) ?_
    | with_reducible exact fun _ h => h
    | decide +kernel
    | split
    | dsimp only)

theorem dramPatrol_steps {parts : List Component} {s0 : State} {s : State} {n : Nat} {u : Sys2Proof.DramUpset}
    (h0 : Steps parts s0 s) (hsub : ∀ p ∈ [Component.free, .dram, .log, .evr], p ∈ parts) : Steps parts s0 (dramPatrol s n u) := by
  refine Steps.via (ps := parts) (qs := [Component.free, .dram, .log, .evr]) h0 ?_ hsub
  clear h0 hsub
  unfold dramPatrol
  try dsimp only
  repeat' (first
    | with_reducible apply Steps.ite <;> intro _
    | with_reducible apply Steps.ite_fst <;> intro _
    | with_reducible exact Steps.refl _ _
    | with_reducible assumption
    | with_reducible apply State.modChan_steps
    | with_reducible apply State.noteCe_steps
    | with_reducible apply State.noteUe_steps
    | with_reducible apply State.readLine_steps
    | with_reducible refine Steps.foldl _ _ (fun u a h => ?_) ?_
    | with_reducible refine Steps.of_fst ?_ (by assumption)
    | with_reducible exact fun _ h => h
    | decide +kernel
    | split
    | dsimp only)

theorem State.sendBytes_steps {parts : List Component} {s0 : State} {s : State} {k : Nat} {bs : List (BitVec 8)}
    (h0 : Steps parts s0 s) (hsub : ∀ p ∈ [Component.lanesets], p ∈ parts) : Steps parts s0 (State.sendBytes s k bs) := by
  refine Steps.via (ps := parts) (qs := [Component.lanesets]) h0 ?_ hsub
  clear h0 hsub
  unfold State.sendBytes
  try dsimp only
  repeat' (first
    | with_reducible apply Steps.ite <;> intro _
    | with_reducible exact Steps.refl _ _
    | with_reducible assumption
    | with_reducible apply State.modLaneset_steps
    | with_reducible refine Steps.foldl _ _ (fun u a h => ?_) ?_
    | with_reducible exact fun _ h => h
    | decide +kernel
    | split
    | dsimp only)

theorem State.putWire_steps {parts : List Component} {s0 : State} {s : State} {k : Nat} {f : Frame}
    (h0 : Steps parts s0 s) (hsub : ∀ p ∈ [Component.lanesets, .links], p ∈ parts) : Steps parts s0 (State.putWire s k f) := by
  refine Steps.via (ps := parts) (qs := [Component.lanesets, .links]) h0 ?_ hsub
  clear h0 hsub
  unfold State.putWire
  try dsimp only
  repeat' (first
    | with_reducible apply Steps.ite <;> intro _
    | with_reducible exact Steps.refl _ _
    | with_reducible assumption
    | with_reducible apply State.modLink_steps
    | with_reducible apply State.sendBytes_steps
    | with_reducible refine Steps.foldl _ _ (fun u a h => ?_) ?_
    | with_reducible exact fun _ h => h
    | decide +kernel
    | split
    | dsimp only)

theorem State.sendSeq_steps {parts : List Component} {s0 : State} {s : State} {k : Nat} {f : Frame}
    (h0 : Steps parts s0 s) (hsub : ∀ p ∈ [Component.lanesets, .links, .linkKeys], p ∈ parts) : Steps parts s0 (State.sendSeq s k f) := by
  refine Steps.via (ps := parts) (qs := [Component.lanesets, .links, .linkKeys]) h0 ?_ hsub
  clear h0 hsub
  unfold State.sendSeq
  try dsimp only
  repeat' (first
    | with_reducible apply Steps.ite <;> intro _
    | with_reducible exact Steps.refl _ _
    | with_reducible assumption
    | with_reducible apply State.modLink_steps
    | with_reducible apply State.modLinkKey_steps
    | with_reducible apply State.putWire_steps
    | with_reducible refine Steps.foldl _ _ (fun u a h => ?_) ?_
    | with_reducible exact fun _ h => h
    | decide +kernel
    | split
    | dsimp only)

theorem State.sendTag_steps {parts : List Component} {s0 : State} {s : State} {k : Nat}
    (h0 : Steps parts s0 s) (hsub : ∀ p ∈ [Component.lanesets, .links, .linkKeys], p ∈ parts) : Steps parts s0 (State.sendTag s k) := by
  refine Steps.via (ps := parts) (qs := [Component.lanesets, .links, .linkKeys]) h0 ?_ hsub
  clear h0 hsub
  unfold State.sendTag
  try dsimp only
  repeat' (first
    | with_reducible apply Steps.ite <;> intro _
    | with_reducible exact Steps.refl _ _
    | with_reducible assumption
    | with_reducible apply State.sendSeq_steps
    | with_reducible refine Steps.foldl _ _ (fun u a h => ?_) ?_
    | with_reducible exact fun _ h => h
    | decide +kernel
    | split
    | dsimp only)

theorem State.guestCross_steps {parts : List Component} {s0 : State} {s : State} {k : Nat} {f : Frame}
    (h0 : Steps parts s0 s) (hsub : ∀ p ∈ [Component.guests], p ∈ parts) : Steps parts s0 (State.guestCross s k f) := by
  refine Steps.via (ps := parts) (qs := [Component.guests]) h0 ?_ hsub
  clear h0 hsub
  unfold State.guestCross
  try dsimp only
  repeat' (first
    | with_reducible apply Steps.ite <;> intro _
    | with_reducible exact Steps.refl _ _
    | with_reducible assumption
    | with_reducible apply State.modGuest_steps
    | with_reducible refine Steps.foldl _ _ (fun u a h => ?_) ?_
    | with_reducible exact fun _ h => h
    | decide +kernel
    | split
    | dsimp only)

theorem State.dropOrphan_steps {parts : List Component} {s0 : State} {s : State} {k : Nat}
    (h0 : Steps parts s0 s) (hsub : ∀ p ∈ [Component.links, .guests], p ∈ parts) : Steps parts s0 (State.dropOrphan s k) := by
  refine Steps.via (ps := parts) (qs := [Component.links, .guests]) h0 ?_ hsub
  clear h0 hsub
  unfold State.dropOrphan
  try dsimp only
  repeat' (first
    | with_reducible apply Steps.ite <;> intro _
    | with_reducible exact Steps.refl _ _
    | with_reducible assumption
    | with_reducible apply State.guestCross_steps
    | with_reducible apply State.modLink_steps
    | with_reducible refine Steps.foldl _ _ (fun u a h => ?_) ?_
    | with_reducible exact fun _ h => h
    | decide +kernel
    | split
    | dsimp only)

theorem State.queueAnswer_steps {parts : List Component} {s0 : State} {s : State} {k : Nat}
    (h0 : Steps parts s0 s) (hsub : ∀ p ∈ [Component.links], p ∈ parts) : Steps parts s0 (State.queueAnswer s k) := by
  refine Steps.via (ps := parts) (qs := [Component.links]) h0 ?_ hsub
  clear h0 hsub
  unfold State.queueAnswer
  try dsimp only
  repeat' (first
    | with_reducible apply Steps.ite <;> intro _
    | with_reducible exact Steps.refl _ _
    | with_reducible assumption
    | with_reducible apply State.modLink_steps
    | with_reducible refine Steps.foldl _ _ (fun u a h => ?_) ?_
    | with_reducible exact fun _ h => h
    | decide +kernel
    | split
    | dsimp only)

theorem State.noteStalls_steps {parts : List Component} {s0 : State} {s : State} {k : Nat}
    (h0 : Steps parts s0 s) (hsub : ∀ p ∈ [Component.links], p ∈ parts) : Steps parts s0 (State.noteStalls s k) := by
  refine Steps.via (ps := parts) (qs := [Component.links]) h0 ?_ hsub
  clear h0 hsub
  unfold State.noteStalls
  try dsimp only
  repeat' (first
    | with_reducible apply Steps.ite <;> intro _
    | with_reducible exact Steps.refl _ _
    | with_reducible assumption
    | with_reducible apply State.modLink_steps
    | with_reducible refine Steps.foldl _ _ (fun u a h => ?_) ?_
    | with_reducible exact fun _ h => h
    | decide +kernel
    | split
    | dsimp only)

theorem State.pickFrame_steps {parts : List Component} {s0 : State} {s : State} {k : Nat}
    (h0 : Steps parts s0 s) (hsub : ∀ p ∈ [Component.routers, .masters, .flows, .lanesets, .links, .guests, .linkKeys, .tb, .dram, .gable, .clk, .log, .evr], p ∈ parts) : Steps parts s0 (State.pickFrame s k) := by
  refine Steps.via (ps := parts) (qs := [Component.routers, .masters, .flows, .lanesets, .links, .guests, .linkKeys, .tb, .dram, .gable, .clk, .log, .evr]) h0 ?_ hsub
  clear h0 hsub
  unfold State.pickFrame
  try dsimp only
  repeat' (first
    | with_reducible apply Steps.ite <;> intro _
    | with_reducible exact Steps.refl _ _
    | with_reducible assumption
    | with_reducible apply State.guestCross_steps
    | with_reducible apply State.laneFault_steps
    | with_reducible apply State.modLink_steps
    | with_reducible apply State.putWire_steps
    | with_reducible apply State.sendSeq_steps
    | with_reducible apply State.sendTag_steps
    | with_reducible refine Steps.foldl _ _ (fun u a h => ?_) ?_
    | with_reducible exact fun _ h => h
    | decide +kernel
    | split
    | dsimp only)

theorem frameSlot_steps {parts : List Component} {s0 : State} {s : State} {k : Nat}
    (h0 : Steps parts s0 s) (hsub : ∀ p ∈ [Component.routers, .masters, .flows, .lanesets, .links, .guests, .linkKeys, .tb, .dram, .gable, .clk, .log, .evr], p ∈ parts) : Steps parts s0 (frameSlot s k) := by
  refine Steps.via (ps := parts) (qs := [Component.routers, .masters, .flows, .lanesets, .links, .guests, .linkKeys, .tb, .dram, .gable, .clk, .log, .evr]) h0 ?_ hsub
  clear h0 hsub
  unfold frameSlot
  try dsimp only
  repeat' (first
    | with_reducible apply Steps.ite <;> intro _
    | with_reducible exact Steps.refl _ _
    | with_reducible assumption
    | with_reducible apply State.dropOrphan_steps
    | with_reducible apply State.noteStalls_steps
    | with_reducible apply State.pickFrame_steps
    | with_reducible apply State.queueAnswer_steps
    | with_reducible refine Steps.foldl _ _ (fun u a h => ?_) ?_
    | with_reducible exact fun _ h => h
    | decide +kernel
    | split
    | dsimp only)

theorem State.takeAck_steps {parts : List Component} {s0 : State} {s : State} {k : Nat} {a : BitVec 10}
    (h0 : Steps parts s0 s) (hsub : ∀ p ∈ [Component.links], p ∈ parts) : Steps parts s0 (State.takeAck s k a) := by
  refine Steps.via (ps := parts) (qs := [Component.links]) h0 ?_ hsub
  clear h0 hsub
  unfold State.takeAck
  try dsimp only
  repeat' (first
    | with_reducible apply Steps.ite <;> intro _
    | with_reducible exact Steps.refl _ _
    | with_reducible assumption
    | with_reducible apply State.modLink_steps
    | with_reducible refine Steps.foldl _ _ (fun u a h => ?_) ?_
    | with_reducible exact fun _ h => h
    | decide +kernel
    | split
    | dsimp only)

theorem State.startReplay_steps {parts : List Component} {s0 : State} {s : State} {k : Nat}
    (h0 : Steps parts s0 s) (hsub : ∀ p ∈ [Component.routers, .masters, .flows, .lanesets, .links, .guests, .linkKeys, .tb, .dram, .gable, .clk, .log, .evr], p ∈ parts) : Steps parts s0 (State.startReplay s k) := by
  refine Steps.via (ps := parts) (qs := [Component.routers, .masters, .flows, .lanesets, .links, .guests, .linkKeys, .tb, .dram, .gable, .clk, .log, .evr]) h0 ?_ hsub
  clear h0 hsub
  unfold State.startReplay
  try dsimp only
  repeat' (first
    | with_reducible apply Steps.ite <;> intro _
    | with_reducible exact Steps.refl _ _
    | with_reducible assumption
    | with_reducible apply State.laneFault_steps
    | with_reducible apply State.modLink_steps
    | with_reducible refine Steps.foldl _ _ (fun u a h => ?_) ?_
    | with_reducible exact fun _ h => h
    | decide +kernel
    | split
    | dsimp only)

theorem State.takeCredits_steps {parts : List Component} {s0 : State} {s : State} {k v n : Nat}
    (h0 : Steps parts s0 s) (hsub : ∀ p ∈ [Component.routers, .masters, .flows, .lanesets, .links, .guests, .linkKeys, .tb, .dram, .gable, .clk, .log, .evr], p ∈ parts) : Steps parts s0 (State.takeCredits s k v n) := by
  refine Steps.via (ps := parts) (qs := [Component.routers, .masters, .flows, .lanesets, .links, .guests, .linkKeys, .tb, .dram, .gable, .clk, .log, .evr]) h0 ?_ hsub
  clear h0 hsub
  unfold State.takeCredits
  try dsimp only
  repeat' (first
    | with_reducible apply Steps.ite <;> intro _
    | with_reducible exact Steps.refl _ _
    | with_reducible assumption
    | with_reducible apply State.laneFault_steps
    | with_reducible apply State.modLink_steps
    | with_reducible apply State.modRouter_steps
    | with_reducible refine Steps.foldl _ _ (fun u a h => ?_) ?_
    | with_reducible exact fun _ h => h
    | decide +kernel
    | split
    | dsimp only)

theorem State.packetIn_steps {parts : List Component} {s0 : State} {s : State} {k v : Nat} {p : Pkt}
    (h0 : Steps parts s0 s) (hsub : ∀ p ∈ [Component.routers, .masters, .flows, .links, .guests, .log, .evr], p ∈ parts) : Steps parts s0 (State.packetIn s k v p) := by
  refine Steps.via (ps := parts) (qs := [Component.routers, .masters, .flows, .links, .guests, .log, .evr]) h0 ?_ hsub
  clear h0 hsub
  unfold State.packetIn
  try dsimp only
  repeat' (first
    | with_reducible apply Steps.ite <;> intro _
    | with_reducible exact Steps.refl _ _
    | with_reducible assumption
    | with_reducible apply State.fromLink_steps
    | with_reducible apply State.modLink_steps
    | with_reducible apply guestPacket_steps
    | with_reducible apply hostPacket_steps
    | with_reducible refine Steps.foldl _ _ (fun u a h => ?_) ?_
    | with_reducible exact fun _ h => h
    | decide +kernel
    | split
    | dsimp only)

theorem State.flitIn_steps {parts : List Component} {s0 : State} {s : State} {k v : Nat} {head : Option Pkt} {data : List (BitVec 8)} {bad : Bool}
    (h0 : Steps parts s0 s) (hsub : ∀ p ∈ [Component.routers, .masters, .flows, .lanesets, .links, .guests, .linkKeys, .tb, .dram, .gable, .clk, .log, .evr], p ∈ parts) : Steps parts s0 (State.flitIn s k v head data bad) := by
  refine Steps.via (ps := parts) (qs := [Component.routers, .masters, .flows, .lanesets, .links, .guests, .linkKeys, .tb, .dram, .gable, .clk, .log, .evr]) h0 ?_ hsub
  clear h0 hsub
  unfold State.flitIn
  try dsimp only
  repeat' (first
    | with_reducible apply Steps.ite <;> intro _
    | with_reducible exact Steps.refl _ _
    | with_reducible assumption
    | with_reducible apply State.creditDue_steps
    | with_reducible apply State.laneFault_steps
    | with_reducible apply State.modLink_steps
    | with_reducible apply State.packetIn_steps
    | with_reducible refine Steps.foldl _ _ (fun u a h => ?_) ?_
    | with_reducible exact fun _ h => h
    | decide +kernel
    | split
    | dsimp only)

theorem State.raiseDiscard_steps {parts : List Component} {s0 : State} {s : State} {node r p : Nat} {k : Pkt}
    (h0 : Steps parts s0 s) (hsub : ∀ p ∈ [Component.routers, .evr], p ∈ parts) : Steps parts s0 (State.raiseDiscard s node r p k) := by
  refine Steps.via (ps := parts) (qs := [Component.routers, .evr]) h0 ?_ hsub
  clear h0 hsub
  unfold State.raiseDiscard
  try dsimp only
  repeat' (first
    | with_reducible apply Steps.ite <;> intro _
    | with_reducible exact Steps.refl _ _
    | with_reducible assumption
    | with_reducible apply State.raiseEvent_steps
    | with_reducible refine Steps.foldl _ _ (fun u a h => ?_) ?_
    | with_reducible exact fun _ h => h
    | decide +kernel
    | split
    | dsimp only)

end Sys2Proof.Machine
end

