-- ==== Sys2Proof/Laws/Steps4.lean ====
section
/-! SUPPORT. Part 4 of the step lemmas: for each operation of the machine, which components of State it may change, and that it keeps
    every table's canonical form. Each lemma cites those of the operations it calls; none unfolds a callee. -/

open Sys2Proof
namespace Sys2Proof.Machine

set_option linter.all false
set_option Elab.async false

theorem State.outsideFlit_steps {parts : List Component} {s0 : State} {s : State} {k : Nat} {bs : List (BitVec 8)}
    (h0 : Steps parts s0 s) (hsub : ∀ p ∈ [Component.routers, .masters, .flows, .lanesets, .links, .guests, .linkKeys, .tb, .dram, .gable, .clk, .log, .evr], p ∈ parts) : Steps parts s0 (State.outsideFlit s k bs) := by
  refine Steps.via (ps := parts) (qs := [Component.routers, .masters, .flows, .lanesets, .links, .guests, .linkKeys, .tb, .dram, .gable, .clk, .log, .evr]) h0 ?_ hsub
  clear h0 hsub
  unfold State.outsideFlit
  try dsimp only
  repeat' (first
    | with_reducible apply Steps.ite <;> intro _
    | with_reducible exact Steps.refl _ _
    | with_reducible assumption
    | with_reducible apply State.countDiscard_steps
    | with_reducible apply State.creditDue_steps
    | with_reducible apply State.flitIn_steps
    | with_reducible apply State.modLink_steps
    | with_reducible apply State.modRouter_steps
    | with_reducible apply State.raiseDiscard_steps
    | with_reducible refine Steps.foldl _ _ (fun u a h => ?_) ?_
    | with_reducible exact fun _ h => h
    | decide +kernel
    | split
    | dsimp only)

theorem State.shutDown_steps {parts : List Component} {s0 : State} {s : State} {k : Nat} {reason : BitVec 8} {byPartner : Bool}
    (h0 : Steps parts s0 s) (hsub : ∀ p ∈ [Component.routers, .flows, .lanesets, .links, .dram, .clk, .log, .evr], p ∈ parts) : Steps parts s0 (State.shutDown s k reason byPartner) := by
  refine Steps.via (ps := parts) (qs := [Component.routers, .flows, .lanesets, .links, .dram, .clk, .log, .evr]) h0 ?_ hsub
  clear h0 hsub
  unfold State.shutDown
  try dsimp only
  repeat' (first
    | with_reducible apply Steps.ite <;> intro _
    | with_reducible exact Steps.refl _ _
    | with_reducible assumption
    | with_reducible apply State.modLaneset_steps
    | with_reducible apply State.modLink_steps
    | with_reducible apply State.recheckFlows_steps
    | with_reducible refine Steps.foldl _ _ (fun u a h => ?_) ?_
    | with_reducible exact fun _ h => h
    | decide +kernel
    | split
    | dsimp only)

theorem State.downReceive_steps {parts : List Component} {s0 : State} {s : State} {k : Nat}
    (h0 : Steps parts s0 s) (hsub : ∀ p ∈ [Component.routers, .flows, .lanesets, .links, .dram, .clk, .log, .evr], p ∈ parts) : Steps parts s0 (State.downReceive s k) := by
  refine Steps.via (ps := parts) (qs := [Component.routers, .flows, .lanesets, .links, .dram, .clk, .log, .evr]) h0 ?_ hsub
  clear h0 hsub
  unfold State.downReceive
  try dsimp only
  repeat' (first
    | with_reducible apply Steps.ite <;> intro _
    | with_reducible exact Steps.refl _ _
    | with_reducible assumption
    | with_reducible apply State.modLink_steps
    | with_reducible apply State.shutDown_steps
    | with_reducible refine Steps.foldl _ _ (fun u a h => ?_) ?_
    | with_reducible exact fun _ h => h
    | decide +kernel
    | split
    | dsimp only)

theorem State.adoptDepth_steps {parts : List Component} {s0 : State} {s : State} {key : Nat} {depth : List Nat}
    (h0 : Steps parts s0 s) (hsub : ∀ p ∈ [Component.routers, .masters, .flows, .lanesets, .links, .guests, .linkKeys, .tb, .dram, .gable, .clk, .log, .evr], p ∈ parts) : Steps parts s0 (State.adoptDepth s key depth) := by
  refine Steps.via (ps := parts) (qs := [Component.routers, .masters, .flows, .lanesets, .links, .guests, .linkKeys, .tb, .dram, .gable, .clk, .log, .evr]) h0 ?_ hsub
  clear h0 hsub
  unfold State.adoptDepth
  try dsimp only
  repeat' (first
    | with_reducible apply Steps.ite <;> intro _
    | with_reducible exact Steps.refl _ _
    | with_reducible assumption
    | with_reducible apply State.laneFault_steps
    | with_reducible apply State.modLink_steps
    | with_reducible refine Steps.foldl _ _ (fun u a h => ?_) ?_
    | with_reducible exact fun _ h => h
    | decide +kernel
    | split
    | dsimp only)

theorem gcapReceive_steps {parts : List Component} {s0 : State} {s : State} {key : Nat} {b : List (BitVec 8)}
    (h0 : Steps parts s0 s) (hsub : ∀ p ∈ [Component.routers, .masters, .flows, .lanesets, .links, .guests, .linkKeys, .tb, .dram, .gable, .clk, .log, .evr], p ∈ parts) : Steps parts s0 (gcapReceive s key b) := by
  refine Steps.via (ps := parts) (qs := [Component.routers, .masters, .flows, .lanesets, .links, .guests, .linkKeys, .tb, .dram, .gable, .clk, .log, .evr]) h0 ?_ hsub
  clear h0 hsub
  unfold gcapReceive
  try dsimp only
  repeat' (first
    | with_reducible apply Steps.ite <;> intro _
    | with_reducible exact Steps.refl _ _
    | with_reducible assumption
    | with_reducible apply State.adoptDepth_steps
    | with_reducible apply State.modGuest_steps
    | with_reducible apply State.modLink_steps
    | with_reducible refine Steps.foldl _ _ (fun u a h => ?_) ?_
    | with_reducible exact fun _ h => h
    | decide +kernel
    | split
    | dsimp only)

theorem State.deliver_steps {parts : List Component} {s0 : State} {s : State} {k : Nat} {f : Frame}
    (h0 : Steps parts s0 s) (hsub : ∀ p ∈ [Component.routers, .masters, .flows, .lanesets, .links, .guests, .linkKeys, .tb, .dram, .gable, .clk, .log, .evr], p ∈ parts) : Steps parts s0 (State.deliver s k f) := by
  refine Steps.via (ps := parts) (qs := [Component.routers, .masters, .flows, .lanesets, .links, .guests, .linkKeys, .tb, .dram, .gable, .clk, .log, .evr]) h0 ?_ hsub
  clear h0 hsub
  unfold State.deliver
  try dsimp only
  repeat' (first
    | with_reducible apply Steps.ite <;> intro _
    | with_reducible exact Steps.refl _ _
    | with_reducible assumption
    | with_reducible apply State.downReceive_steps
    | with_reducible apply State.flitIn_steps
    | with_reducible apply State.outsideFlit_steps
    | with_reducible apply gcapReceive_steps
    | with_reducible refine Steps.foldl _ _ (fun u a h => ?_) ?_
    | with_reducible exact fun _ h => h
    | decide +kernel
    | split
    | dsimp only)

theorem State.integOne_steps {parts : List Component} {s0 : State} {s : State} {k v : Nat} {p : Pkt}
    (h0 : Steps parts s0 s) (hsub : ∀ p ∈ [Component.routers, .links, .guests], p ∈ parts) : Steps parts s0 (State.integOne s k v p) := by
  refine Steps.via (ps := parts) (qs := [Component.routers, .links, .guests]) h0 ?_ hsub
  clear h0 hsub
  unfold State.integOne
  try dsimp only
  repeat' (first
    | with_reducible apply Steps.ite <;> intro _
    | with_reducible exact Steps.refl _ _
    | with_reducible assumption
    | with_reducible apply State.edgeAnswer_steps
    | with_reducible apply State.fromLink_steps
    | with_reducible apply State.modGuest_steps
    | with_reducible apply State.modLink_steps
    | with_reducible refine Steps.foldl _ _ (fun u a h => ?_) ?_
    | with_reducible exact fun _ h => h
    | decide +kernel
    | split
    | dsimp only)

theorem State.integFlit_steps {parts : List Component} {s0 : State} {s : State} {k : Nat} {bs : List (BitVec 8)}
    (h0 : Steps parts s0 s) (hsub : ∀ p ∈ [Component.routers, .links, .guests], p ∈ parts) : Steps parts s0 (State.integFlit s k bs) := by
  refine Steps.via (ps := parts) (qs := [Component.routers, .links, .guests]) h0 ?_ hsub
  clear h0 hsub
  unfold State.integFlit
  try dsimp only
  repeat' (first
    | with_reducible apply Steps.ite <;> intro _
    | with_reducible exact Steps.refl _ _
    | with_reducible assumption
    | with_reducible apply State.creditDue_steps
    | with_reducible apply State.integOne_steps
    | with_reducible apply State.modLink_steps
    | with_reducible refine Steps.foldl _ _ (fun u a h => ?_) ?_
    | with_reducible exact fun _ h => h
    | decide +kernel
    | split
    | dsimp only)

theorem State.raiseSecLink_steps {parts : List Component} {s0 : State} {s : State} {k : Nat}
    (h0 : Steps parts s0 s) (hsub : ∀ p ∈ [Component.routers, .evr], p ∈ parts) : Steps parts s0 (State.raiseSecLink s k) := by
  refine Steps.via (ps := parts) (qs := [Component.routers, .evr]) h0 ?_ hsub
  clear h0 hsub
  unfold State.raiseSecLink
  try dsimp only
  repeat' (first
    | with_reducible apply Steps.ite <;> intro _
    | with_reducible exact Steps.refl _ _
    | with_reducible assumption
    | with_reducible apply State.raiseEvent_steps
    | with_reducible refine Steps.foldl _ _ (fun u a h => ?_) ?_
    | with_reducible exact fun _ h => h
    | decide +kernel
    | split
    | dsimp only)

theorem State.tagFailure_steps {parts : List Component} {s0 : State} {s : State} {k : Nat}
    (h0 : Steps parts s0 s) (hsub : ∀ p ∈ [Component.routers, .masters, .flows, .lanesets, .links, .guests, .linkKeys, .tb, .dram, .gable, .clk, .log, .evr], p ∈ parts) : Steps parts s0 (State.tagFailure s k) := by
  refine Steps.via (ps := parts) (qs := [Component.routers, .masters, .flows, .lanesets, .links, .guests, .linkKeys, .tb, .dram, .gable, .clk, .log, .evr]) h0 ?_ hsub
  clear h0 hsub
  unfold State.tagFailure
  try dsimp only
  repeat' (first
    | with_reducible apply Steps.ite <;> intro _
    | with_reducible exact Steps.refl _ _
    | with_reducible assumption
    | with_reducible apply State.integFlit_steps
    | with_reducible apply State.laneFault_steps
    | with_reducible apply State.modLink_steps
    | with_reducible apply State.modLinkKey_steps
    | with_reducible apply State.raiseSecLink_steps
    | with_reducible refine Steps.foldl _ _ (fun u a h => ?_) ?_
    | with_reducible exact fun _ h => h
    | decide +kernel
    | split
    | dsimp only)

theorem State.tagReceive_steps {parts : List Component} {s0 : State} {s : State} {k : Nat} {f : Frame}
    (h0 : Steps parts s0 s) (hsub : ∀ p ∈ [Component.routers, .masters, .flows, .lanesets, .links, .guests, .linkKeys, .tb, .dram, .gable, .clk, .log, .evr], p ∈ parts) : Steps parts s0 (State.tagReceive s k f) := by
  refine Steps.via (ps := parts) (qs := [Component.routers, .masters, .flows, .lanesets, .links, .guests, .linkKeys, .tb, .dram, .gable, .clk, .log, .evr]) h0 ?_ hsub
  clear h0 hsub
  unfold State.tagReceive
  try dsimp only
  repeat' (first
    | with_reducible apply Steps.ite <;> intro _
    | with_reducible exact Steps.refl _ _
    | with_reducible assumption
    | with_reducible apply State.deliver_steps
    | with_reducible apply State.modLink_steps
    | with_reducible apply State.modLinkKey_steps
    | with_reducible apply State.tagFailure_steps
    | with_reducible refine Steps.foldl _ _ (fun u a h => ?_) ?_
    | with_reducible exact fun _ h => h
    | decide +kernel
    | split
    | dsimp only)

theorem State.groupTake_steps {parts : List Component} {s0 : State} {s : State} {k : Nat} {f : Frame}
    (h0 : Steps parts s0 s) (hsub : ∀ p ∈ [Component.routers, .masters, .flows, .lanesets, .links, .guests, .linkKeys, .tb, .dram, .gable, .clk, .log, .evr], p ∈ parts) : Steps parts s0 (State.groupTake s k f) := by
  refine Steps.via (ps := parts) (qs := [Component.routers, .masters, .flows, .lanesets, .links, .guests, .linkKeys, .tb, .dram, .gable, .clk, .log, .evr]) h0 ?_ hsub
  clear h0 hsub
  unfold State.groupTake
  try dsimp only
  repeat' (first
    | with_reducible apply Steps.ite <;> intro _
    | with_reducible exact Steps.refl _ _
    | with_reducible assumption
    | with_reducible apply State.modLink_steps
    | with_reducible apply State.tagFailure_steps
    | with_reducible apply State.tagReceive_steps
    | with_reducible refine Steps.foldl _ _ (fun u a h => ?_) ?_
    | with_reducible exact fun _ h => h
    | decide +kernel
    | split
    | dsimp only)

theorem State.accept_steps {parts : List Component} {s0 : State} {s : State} {k : Nat} {f : Frame}
    (h0 : Steps parts s0 s) (hsub : ∀ p ∈ [Component.routers, .masters, .flows, .lanesets, .links, .guests, .linkKeys, .tb, .dram, .gable, .clk, .log, .evr], p ∈ parts) : Steps parts s0 (State.accept s k f) := by
  refine Steps.via (ps := parts) (qs := [Component.routers, .masters, .flows, .lanesets, .links, .guests, .linkKeys, .tb, .dram, .gable, .clk, .log, .evr]) h0 ?_ hsub
  clear h0 hsub
  unfold State.accept
  try dsimp only
  repeat' (first
    | with_reducible apply Steps.ite <;> intro _
    | with_reducible exact Steps.refl _ _
    | with_reducible assumption
    | with_reducible apply State.deliver_steps
    | with_reducible apply State.groupTake_steps
    | with_reducible apply State.modLink_steps
    | with_reducible apply State.takeCredits_steps
    | with_reducible refine Steps.foldl _ _ (fun u a h => ?_) ?_
    | with_reducible exact fun _ h => h
    | decide +kernel
    | split
    | dsimp only)

theorem State.wantNak_steps {parts : List Component} {s0 : State} {s : State} {k : Nat}
    (h0 : Steps parts s0 s) (hsub : ∀ p ∈ [Component.links], p ∈ parts) : Steps parts s0 (State.wantNak s k) := by
  refine Steps.via (ps := parts) (qs := [Component.links]) h0 ?_ hsub
  clear h0 hsub
  unfold State.wantNak
  try dsimp only
  repeat' (first
    | with_reducible apply Steps.ite <;> intro _
    | with_reducible exact Steps.refl _ _
    | with_reducible assumption
    | with_reducible apply State.modLink_steps
    | with_reducible refine Steps.foldl _ _ (fun u a h => ?_) ?_
    | with_reducible exact fun _ h => h
    | decide +kernel
    | split
    | dsimp only)

theorem State.badFrame_steps {parts : List Component} {s0 : State} {s : State} {k : Nat} {sequenced : Bool}
    (h0 : Steps parts s0 s) (hsub : ∀ p ∈ [Component.links], p ∈ parts) : Steps parts s0 (State.badFrame s k sequenced) := by
  refine Steps.via (ps := parts) (qs := [Component.links]) h0 ?_ hsub
  clear h0 hsub
  unfold State.badFrame
  try dsimp only
  repeat' (first
    | with_reducible apply Steps.ite <;> intro _
    | with_reducible exact Steps.refl _ _
    | with_reducible assumption
    | with_reducible apply State.modLink_steps
    | with_reducible apply State.wantNak_steps
    | with_reducible refine Steps.foldl _ _ (fun u a h => ?_) ?_
    | with_reducible exact fun _ h => h
    | decide +kernel
    | split
    | dsimp only)

theorem State.goodFrame_steps {parts : List Component} {s0 : State} {s : State} {k : Nat} {f : Frame}
    (h0 : Steps parts s0 s) (hsub : ∀ p ∈ [Component.routers, .masters, .flows, .lanesets, .links, .guests, .linkKeys, .tb, .dram, .gable, .clk, .log, .evr], p ∈ parts) : Steps parts s0 (State.goodFrame s k f) := by
  refine Steps.via (ps := parts) (qs := [Component.routers, .masters, .flows, .lanesets, .links, .guests, .linkKeys, .tb, .dram, .gable, .clk, .log, .evr]) h0 ?_ hsub
  clear h0 hsub
  unfold State.goodFrame
  try dsimp only
  repeat' (first
    | with_reducible apply Steps.ite <;> intro _
    | with_reducible exact Steps.refl _ _
    | with_reducible assumption
    | with_reducible apply State.accept_steps
    | with_reducible apply State.modLink_steps
    | with_reducible apply State.startReplay_steps
    | with_reducible apply State.takeAck_steps
    | with_reducible apply State.wantNak_steps
    | with_reducible refine Steps.foldl _ _ (fun u a h => ?_) ?_
    | with_reducible exact fun _ h => h
    | decide +kernel
    | split
    | dsimp only)

theorem symbolError_steps {parts : List Component} {s0 : State} {s : State} {k n sym : Nat}
    (h0 : Steps parts s0 s) (hsub : ∀ p ∈ [Component.routers, .masters, .flows, .lanesets, .links, .guests, .linkKeys, .tb, .dram, .gable, .clk, .log, .evr], p ∈ parts) : Steps parts s0 (symbolError s k n sym) := by
  refine Steps.via (ps := parts) (qs := [Component.routers, .masters, .flows, .lanesets, .links, .guests, .linkKeys, .tb, .dram, .gable, .clk, .log, .evr]) h0 ?_ hsub
  clear h0 hsub
  unfold symbolError
  try dsimp only
  repeat' (first
    | with_reducible apply Steps.ite <;> intro _
    | with_reducible exact Steps.refl _ _
    | with_reducible assumption
    | with_reducible apply State.loseLane_steps
    | with_reducible apply State.modLane_steps
    | with_reducible apply State.modLink_steps
    | with_reducible refine Steps.foldl _ _ (fun u a h => ?_) ?_
    | with_reducible exact fun _ h => h
    | decide +kernel
    | split
    | dsimp only)

theorem State.rxSyms_steps {parts : List Component} {s0 : State} {s : State} {k n : Nat} {gs : List (BitVec 10)}
    (h0 : Steps parts s0 s) (hsub : ∀ p ∈ [Component.routers, .masters, .flows, .lanesets, .links, .guests, .linkKeys, .tb, .dram, .gable, .clk, .log, .evr], p ∈ parts) : Steps parts s0 (State.rxSyms s k n gs).1 := by
  refine Steps.via (ps := parts) (qs := [Component.routers, .masters, .flows, .lanesets, .links, .guests, .linkKeys, .tb, .dram, .gable, .clk, .log, .evr]) h0 ?_ hsub
  clear h0 hsub
  unfold State.rxSyms
  try dsimp only
  repeat' (first
    | with_reducible apply Steps.ite <;> intro _
    | with_reducible apply Steps.ite_fst <;> intro _
    | with_reducible exact Steps.refl _ _
    | with_reducible assumption
    | with_reducible apply State.modLane_steps
    | with_reducible apply symbolError_steps
    | with_reducible refine Steps.foldl _ _ (fun u a h => ?_) ?_
    | with_reducible refine Steps.of_fst ?_ (by assumption)
    | with_reducible exact fun _ h => h
    | decide +kernel
    | split
    | dsimp only)

theorem State.rxBytes_steps {ps : List Component} {s0 s : State} {k : Nat} {raw : List (List (BitVec 10))} (h : Steps ps s0 s)
    (sub : ∀ p ∈ [Component.routers, .masters, .flows, .lanesets, .links, .guests, .linkKeys, .tb, .dram, .gable, .clk, .log, .evr], p ∈ ps) : Steps ps s0 (s.rxBytes k raw).1 := by
  have key : ∀ (f : Nat → Nat) (l : List Nat) (a : State × List (List (Option (BitVec 9)))), Steps ps s0 a.1 →
      Steps ps s0 (l.foldl (fun (a : State × List (List (Option (BitVec 9)))) i =>
        ((a.1.rxSyms k (f i) (raw.getD (f i) [])).1, a.2 ++ [(a.1.rxSyms k (f i) (raw.getD (f i) [])).2])) a).1 := by
    intro f l
    induction l with
    | nil => exact fun a ha => ha
    | cons i l ih => exact fun a ha => ih _ (State.rxSyms_steps ha sub)
  unfold State.rxBytes
  exact key _ _ _ h

theorem State.readIn_steps {parts : List Component} {s0 : State} {s : State} {k : Nat} {bs : Option (List (BitVec 8))} {ftype : BitVec 4}
    (h0 : Steps parts s0 s) (hsub : ∀ p ∈ [Component.routers, .masters, .flows, .lanesets, .links, .guests, .linkKeys, .tb, .dram, .gable, .clk, .log, .evr], p ∈ parts) : Steps parts s0 (State.readIn s k bs ftype) := by
  refine Steps.via (ps := parts) (qs := [Component.routers, .masters, .flows, .lanesets, .links, .guests, .linkKeys, .tb, .dram, .gable, .clk, .log, .evr]) h0 ?_ hsub
  clear h0 hsub
  unfold State.readIn
  try dsimp only
  repeat' (first
    | with_reducible apply Steps.ite <;> intro _
    | with_reducible exact Steps.refl _ _
    | with_reducible assumption
    | with_reducible apply State.badFrame_steps
    | with_reducible apply State.goodFrame_steps
    | with_reducible refine Steps.foldl _ _ (fun u a h => ?_) ?_
    | with_reducible exact fun _ h => h
    | decide +kernel
    | split
    | dsimp only)

theorem State.takeWire_steps {ps : List Component} {s0 s u : State} {k : Nat} {f : Frame} (h : Steps ps s0 s)
    (sub : ∀ p ∈ [Component.links], p ∈ ps) (e : s.takeWire k = some (f, u)) : Steps ps s0 u := by
  unfold State.takeWire at e
  split at e
  · split at e
    · cases e
      exact State.modLink_steps h sub
    · cases e
  · cases e

theorem State.frameSent_steps {parts : List Component} {s0 : State} {s : State} {k : Nat} {f : Frame}
    (h0 : Steps parts s0 s) (hsub : ∀ p ∈ [Component.routers, .masters, .flows, .lanesets, .links, .guests, .linkKeys, .tb, .dram, .gable, .clk, .log, .evr], p ∈ parts) : Steps parts s0 (State.frameSent s k f) := by
  refine Steps.via (ps := parts) (qs := [Component.routers, .masters, .flows, .lanesets, .links, .guests, .linkKeys, .tb, .dram, .gable, .clk, .log, .evr]) h0 ?_ hsub
  clear h0 hsub
  unfold State.frameSent
  try dsimp only
  repeat' (first
    | with_reducible apply Steps.ite <;> intro _
    | with_reducible exact Steps.refl _ _
    | with_reducible assumption
    | with_reducible apply State.badFrame_steps
    | with_reducible apply State.goodFrame_steps
    | with_reducible apply State.modLink_steps
    | with_reducible refine Steps.foldl _ _ (fun u a h => ?_) ?_
    | with_reducible exact fun _ h => h
    | decide +kernel
    | split
    | dsimp only)

theorem State.frameRead_steps {parts : List Component} {s0 : State} {s : State} {k : Nat} {gs : List (List (BitVec 10))} {sent : Option Frame}
    (h0 : Steps parts s0 s) (hsub : ∀ p ∈ [Component.routers, .masters, .flows, .lanesets, .links, .guests, .linkKeys, .tb, .dram, .gable, .clk, .log, .evr], p ∈ parts) : Steps parts s0 (State.frameRead s k gs sent) := by
  refine Steps.via (ps := parts) (qs := [Component.routers, .masters, .flows, .lanesets, .links, .guests, .linkKeys, .tb, .dram, .gable, .clk, .log, .evr]) h0 ?_ hsub
  clear h0 hsub
  unfold State.frameRead
  try dsimp only
  repeat' (first
    | with_reducible apply Steps.ite <;> intro _
    | with_reducible apply Steps.ite_fst <;> intro _
    | with_reducible exact Steps.refl _ _
    | with_reducible assumption
    | with_reducible apply State.goodFrame_steps
    | with_reducible apply State.modLink_steps
    | with_reducible apply State.readIn_steps
    | with_reducible apply State.rxBytes_steps
    | with_reducible refine Steps.foldl _ _ (fun u a h => ?_) ?_
    | with_reducible refine Steps.of_fst ?_ (by assumption)
    | with_reducible exact fun _ h => h
    | decide +kernel
    | split
    | dsimp only)

theorem frameReceive_steps {ps : List Component} {s0 s : State} {k : Nat} {raw : Option (List (List (BitVec 10)))} (h : Steps ps s0 s)
    (sub : ∀ p ∈ [Component.routers, .masters, .flows, .lanesets, .links, .guests, .linkKeys, .tb, .dram, .gable, .clk, .log, .evr], p ∈ ps) : Steps ps s0 (frameReceive s k raw) := by
  have hl : ∀ p ∈ [Component.links], p ∈ ps := fun p hp => sub p (by simp_all)
  unfold frameReceive
  dsimp only
  refine Steps.ite (fun _ => h) fun _ => ?_
  split
  · split
    · exact h
    · exact State.frameSent_steps (State.takeWire_steps h hl (by assumption)) sub
  · split
    · exact State.frameRead_steps h sub
    · exact State.frameRead_steps (State.takeWire_steps h hl (by assumption)) sub

theorem State.sendFour_steps {parts : List Component} {s0 : State} {s : State} {k typ : Nat}
    (h0 : Steps parts s0 s) (hsub : ∀ p ∈ [Component.lanesets], p ∈ parts) : Steps parts s0 (State.sendFour s k typ) := by
  refine Steps.via (ps := parts) (qs := [Component.lanesets]) h0 ?_ hsub
  clear h0 hsub
  unfold State.sendFour
  try dsimp only
  repeat' (first
    | with_reducible apply Steps.ite <;> intro _
    | with_reducible exact Steps.refl _ _
    | with_reducible assumption
    | with_reducible apply State.sendSet_steps
    | with_reducible refine Steps.foldl _ _ (fun u a h => ?_) ?_
    | with_reducible exact fun _ h => h
    | decide +kernel
    | split
    | dsimp only)

theorem State.shutEnd_steps {parts : List Component} {s0 : State} {s : State} {k : Nat}
    (h0 : Steps parts s0 s) (hsub : ∀ p ∈ [Component.routers, .masters, .flows, .lanesets, .links, .guests, .linkKeys, .tb, .gable, .log, .evr], p ∈ parts) : Steps parts s0 (State.shutEnd s k) := by
  refine Steps.via (ps := parts) (qs := [Component.routers, .masters, .flows, .lanesets, .links, .guests, .linkKeys, .tb, .gable, .log, .evr]) h0 ?_ hsub
  clear h0 hsub
  unfold State.shutEnd
  try dsimp only
  repeat' (first
    | with_reducible apply Steps.ite <;> intro _
    | with_reducible exact Steps.refl _ _
    | with_reducible assumption
    | with_reducible apply State.completeAll_steps
    | with_reducible apply State.laneOff_steps
    | with_reducible apply State.leaveActive_steps
    | with_reducible apply State.modLaneset_steps
    | with_reducible apply State.sendFour_steps
    | with_reducible refine Steps.foldl _ _ (fun u a h => ?_) ?_
    | with_reducible exact fun _ h => h
    | decide +kernel
    | split
    | dsimp only)

theorem State.linkCtrl_steps {parts : List Component} {s0 : State} {s : State} {k v : Nat}
    (h0 : Steps parts s0 s) (hsub : ∀ p ∈ [Component.links], p ∈ parts) : Steps parts s0 (State.linkCtrl s k v) := by
  refine Steps.via (ps := parts) (qs := [Component.links]) h0 ?_ hsub
  clear h0 hsub
  unfold State.linkCtrl
  try dsimp only
  repeat' (first
    | with_reducible apply Steps.ite <;> intro _
    | with_reducible exact Steps.refl _ _
    | with_reducible assumption
    | with_reducible apply State.modLink_steps
    | with_reducible refine Steps.foldl _ _ (fun u a h => ?_) ?_
    | with_reducible exact fun _ h => h
    | decide +kernel
    | split
    | dsimp only)

theorem linkReg_steps {parts : List Component} {s0 : State} {s : State} {k off : Nat} {write eight : Bool} {v : Nat}
    (h0 : Steps parts s0 s) (hsub : ∀ p ∈ [Component.links], p ∈ parts) : Steps parts s0 (linkReg s k off write eight v).1 := by
  refine Steps.via (ps := parts) (qs := [Component.links]) h0 ?_ hsub
  clear h0 hsub
  unfold linkReg
  try dsimp only
  repeat' (first
    | with_reducible apply Steps.ite <;> intro _
    | with_reducible apply Steps.ite_fst <;> intro _
    | with_reducible exact Steps.refl _ _
    | with_reducible assumption
    | with_reducible apply State.linkCtrl_steps
    | with_reducible apply putWords_steps
    | with_reducible apply regOk_steps
    | (with_reducible intro u a b hu)
    | (with_reducible intro u a hu)
    | with_reducible refine Steps.foldl _ _ (fun u a h => ?_) ?_
    | with_reducible refine Steps.of_fst ?_ (by assumption)
    | with_reducible exact fun _ h => h
    | decide +kernel
    | split
    | dsimp only)

theorem State.noteOverwrite_steps {parts : List Component} {s0 : State} {s : State}
    (h0 : Steps parts s0 s) (hsub : ∀ p ∈ [Component.log, .evr], p ∈ parts) : Steps parts s0 (State.noteOverwrite s) := by
  refine Steps.via (ps := parts) (qs := [Component.log, .evr]) h0 ?_ hsub
  clear h0 hsub
  unfold State.noteOverwrite
  try dsimp only
  repeat' (first
    | with_reducible apply Steps.ite <;> intro _
    | with_reducible exact Steps.refl _ _
    | with_reducible assumption
    | with_reducible apply State.modLog_steps
    | with_reducible apply State.raiseHub_steps
    | with_reducible refine Steps.foldl _ _ (fun u a h => ?_) ?_
    | with_reducible exact fun _ h => h
    | decide +kernel
    | split
    | dsimp only)

theorem logEntryWrite_steps {parts : List Component} {s0 : State} {s : State}
    (h0 : Steps parts s0 s) (hsub : ∀ p ∈ [Component.log, .evr], p ∈ parts) : Steps parts s0 (logEntryWrite s) := by
  refine Steps.via (ps := parts) (qs := [Component.log, .evr]) h0 ?_ hsub
  clear h0 hsub
  unfold logEntryWrite
  try dsimp only
  repeat' (first
    | with_reducible apply Steps.ite <;> intro _
    | with_reducible exact Steps.refl _ _
    | with_reducible assumption
    | with_reducible apply State.noteOverwrite_steps
    | with_reducible apply State.setLog_steps
    | with_reducible refine Steps.foldl _ _ (fun u a h => ?_) ?_
    | with_reducible exact fun _ h => h
    | decide +kernel
    | split
    | dsimp only)

theorem State.modEvOut_steps {parts : List Component} {s0 : State} {s : State} {k : Nat} {f : EvOut → EvOut}
    (h0 : Steps parts s0 s) (hsub : ∀ p ∈ [Component.evr], p ∈ parts) : Steps parts s0 (State.modEvOut s k f) := by
  refine Steps.via (ps := parts) (qs := [Component.evr]) h0 ?_ hsub
  clear h0 hsub
  unfold State.modEvOut
  try dsimp only
  repeat' (first
    | with_reducible apply Steps.ite <;> intro _
    | with_reducible exact Steps.refl _ _
    | with_reducible assumption
    | with_reducible apply State.modEvr_steps
    | with_reducible refine Steps.foldl _ _ (fun u a h => ?_) ?_
    | with_reducible exact fun _ h => h
    | decide +kernel
    | split
    | dsimp only)

theorem State.drainOut_steps {parts : List Component} {s0 : State} {s : State} {k : Nat}
    (h0 : Steps parts s0 s) (hsub : ∀ p ∈ [Component.routers, .evr], p ∈ parts) : Steps parts s0 (State.drainOut s k) := by
  refine Steps.via (ps := parts) (qs := [Component.routers, .evr]) h0 ?_ hsub
  clear h0 hsub
  unfold State.drainOut
  try dsimp only
  repeat' (first
    | with_reducible apply Steps.ite <;> intro _
    | with_reducible exact Steps.refl _ _
    | with_reducible assumption
    | with_reducible apply State.modEvOut_steps
    | with_reducible apply State.sendFrom_steps
    | with_reducible refine Steps.foldl _ _ (fun u a h => ?_) ?_
    | with_reducible exact fun _ h => h
    | decide +kernel
    | split
    | dsimp only)

theorem State.copyTo_steps {parts : List Component} {s0 : State} {s : State} {e : Event} {k : Nat}
    (h0 : Steps parts s0 s) (hsub : ∀ p ∈ [Component.routers, .evr], p ∈ parts) : Steps parts s0 (State.copyTo s e k) := by
  refine Steps.via (ps := parts) (qs := [Component.routers, .evr]) h0 ?_ hsub
  clear h0 hsub
  unfold State.copyTo
  try dsimp only
  repeat' (first
    | with_reducible apply Steps.ite <;> intro _
    | with_reducible exact Steps.refl _ _
    | with_reducible assumption
    | with_reducible apply State.drainOut_steps
    | with_reducible apply State.modEvOut_steps
    | with_reducible refine Steps.foldl _ _ (fun u a h => ?_) ?_
    | with_reducible exact fun _ h => h
    | decide +kernel
    | split
    | dsimp only)

theorem eventRoute_steps {parts : List Component} {s0 : State} {s : State}
    (h0 : Steps parts s0 s) (hsub : ∀ p ∈ [Component.routers, .log, .evr], p ∈ parts) : Steps parts s0 (eventRoute s) := by
  refine Steps.via (ps := parts) (qs := [Component.routers, .log, .evr]) h0 ?_ hsub
  clear h0 hsub
  unfold eventRoute
  try dsimp only
  repeat' (first
    | with_reducible apply Steps.ite <;> intro _
    | with_reducible exact Steps.refl _ _
    | with_reducible assumption
    | with_reducible apply State.copyTo_steps
    | with_reducible apply State.drainOut_steps
    | with_reducible apply State.logNote_steps
    | with_reducible apply State.modEvr_steps
    | with_reducible refine Steps.foldl _ _ (fun u a h => ?_) ?_
    | with_reducible exact fun _ h => h
    | decide +kernel
    | split
    | dsimp only)

theorem fabricEventInput_steps {parts : List Component} {s0 : State} {s : State} {d n : Nat} {data : BitVec 32}
    (h0 : Steps parts s0 s) (hsub : ∀ p ∈ [Component.routers, .evr], p ∈ parts) : Steps parts s0 (fabricEventInput s d n data) := by
  refine Steps.via (ps := parts) (qs := [Component.routers, .evr]) h0 ?_ hsub
  clear h0 hsub
  unfold fabricEventInput
  try dsimp only
  repeat' (first
    | with_reducible apply Steps.ite <;> intro _
    | with_reducible exact Steps.refl _ _
    | with_reducible assumption
    | with_reducible apply State.modEvr_steps
    | with_reducible apply State.raiseEvent_steps
    | with_reducible refine Steps.foldl _ _ (fun u a h => ?_) ?_
    | with_reducible exact fun _ h => h
    | decide +kernel
    | split
    | dsimp only)

theorem State.evrRaise_steps {parts : List Component} {s0 : State} {s : State} {v : Nat}
    (h0 : Steps parts s0 s) (hsub : ∀ p ∈ [Component.evr], p ∈ parts) : Steps parts s0 (State.evrRaise s v) := by
  refine Steps.via (ps := parts) (qs := [Component.evr]) h0 ?_ hsub
  clear h0 hsub
  unfold State.evrRaise
  try dsimp only
  repeat' (first
    | with_reducible apply Steps.ite <;> intro _
    | with_reducible exact Steps.refl _ _
    | with_reducible assumption
    | with_reducible apply State.raiseHub_steps
    | with_reducible refine Steps.foldl _ _ (fun u a h => ?_) ?_
    | with_reducible exact fun _ h => h
    | decide +kernel
    | split
    | dsimp only)

theorem State.evrPop_steps {parts : List Component} {s0 : State} {s : State} {src : BitVec 12} {effect : Bool} {k : Nat}
    (h0 : Steps parts s0 s) (hsub : ∀ p ∈ [Component.evr], p ∈ parts) : Steps parts s0 (State.evrPop s src effect k).1 := by
  refine Steps.via (ps := parts) (qs := [Component.evr]) h0 ?_ hsub
  clear h0 hsub
  unfold State.evrPop
  try dsimp only
  repeat' (first
    | with_reducible apply Steps.ite <;> intro _
    | with_reducible apply Steps.ite_fst <;> intro _
    | with_reducible exact Steps.refl _ _
    | with_reducible assumption
    | with_reducible apply State.modEvOut_steps
    | with_reducible apply regDenied_steps
    | with_reducible apply regOk_steps
    | with_reducible refine Steps.foldl _ _ (fun u a h => ?_) ?_
    | with_reducible refine Steps.of_fst ?_ (by assumption)
    | with_reducible exact fun _ h => h
    | decide +kernel
    | split
    | dsimp only)

theorem State.evrCtrl_steps {parts : List Component} {s0 : State} {s : State} {src : BitVec 12} {k v : Nat}
    (h0 : Steps parts s0 s) (hsub : ∀ p ∈ [Component.evr], p ∈ parts) : Steps parts s0 (State.evrCtrl s src k v).1 := by
  refine Steps.via (ps := parts) (qs := [Component.evr]) h0 ?_ hsub
  clear h0 hsub
  unfold State.evrCtrl
  try dsimp only
  repeat' (first
    | with_reducible apply Steps.ite <;> intro _
    | with_reducible apply Steps.ite_fst <;> intro _
    | with_reducible exact Steps.refl _ _
    | with_reducible assumption
    | with_reducible apply State.modEvOut_steps
    | with_reducible apply regDenied_steps
    | with_reducible apply regOk_steps
    | with_reducible refine Steps.foldl _ _ (fun u a h => ?_) ?_
    | with_reducible refine Steps.of_fst ?_ (by assumption)
    | with_reducible exact fun _ h => h
    | decide +kernel
    | split
    | dsimp only)

theorem evrReg_steps {parts : List Component} {s0 : State} {w : Who} {s : State} {off : Nat} {write eight : Bool} {v : Nat}
    (h0 : Steps parts s0 s) (hsub : ∀ p ∈ [Component.evr], p ∈ parts) : Steps parts s0 (evrReg w s off write eight v).1 := by
  refine Steps.via (ps := parts) (qs := [Component.evr]) h0 ?_ hsub
  clear h0 hsub
  unfold evrReg
  try dsimp only
  repeat' (first
    | with_reducible apply Steps.ite <;> intro _
    | with_reducible apply Steps.ite_fst <;> intro _
    | with_reducible exact Steps.refl _ _
    | with_reducible assumption
    | with_reducible apply State.evrCtrl_steps
    | with_reducible apply State.evrPop_steps
    | with_reducible apply State.evrRaise_steps
    | with_reducible apply regErr_steps
    | with_reducible apply regOk_steps
    | with_reducible refine Steps.foldl _ _ (fun u a h => ?_) ?_
    | with_reducible refine Steps.of_fst ?_ (by assumption)
    | with_reducible exact fun _ h => h
    | decide +kernel
    | split
    | dsimp only)

theorem State.cellEdge_steps {parts : List Component} {s0 : State} {s : State} {d : Nat} {on : CtlSet → Bool}
    (h0 : Steps parts s0 s) (hsub : ∀ p ∈ [Component.dies], p ∈ parts) : Steps parts s0 (State.cellEdge s d on) := by
  refine Steps.via (ps := parts) (qs := [Component.dies]) h0 ?_ hsub
  clear h0 hsub
  unfold State.cellEdge
  try dsimp only
  repeat' (first
    | with_reducible apply Steps.ite <;> intro _
    | with_reducible exact Steps.refl _ _
    | with_reducible assumption
    | with_reducible apply State.modDie_steps
    | with_reducible refine Steps.foldl _ _ (fun u a h => ?_) ?_
    | with_reducible exact fun _ h => h
    | decide +kernel
    | split
    | dsimp only)

theorem State.ioEdge_steps {parts : List Component} {s0 : State} {s : State} {d : Nat} {nets : List Nat} {up : Bool}
    (h0 : Steps parts s0 s) (hsub : ∀ p ∈ [Component.free, .dies], p ∈ parts) : Steps parts s0 (State.ioEdge s d nets up) := by
  refine Steps.via (ps := parts) (qs := [Component.free, .dies]) h0 ?_ hsub
  clear h0 hsub
  unfold State.ioEdge
  try dsimp only
  repeat' (first
    | with_reducible apply Steps.ite <;> intro _
    | with_reducible exact Steps.refl _ _
    | with_reducible assumption
    | with_reducible apply State.drew_steps
    | with_reducible apply State.modIo_steps
    | with_reducible refine Steps.foldl _ _ (fun u a h => ?_) ?_
    | with_reducible exact fun _ h => h
    | decide +kernel
    | split
    | dsimp only)

theorem State.bramEdge_steps {parts : List Component} {s0 : State} {s : State} {d : Nat} {nets : List Nat}
    (h0 : Steps parts s0 s) (hsub : ∀ p ∈ [Component.dies], p ∈ parts) : Steps parts s0 (State.bramEdge s d nets) := by
  refine Steps.via (ps := parts) (qs := [Component.dies]) h0 ?_ hsub
  clear h0 hsub
  unfold State.bramEdge
  try dsimp only
  repeat' (first
    | with_reducible apply Steps.ite <;> intro _
    | with_reducible exact Steps.refl _ _
    | with_reducible assumption
    | with_reducible apply State.modDie_steps
    | with_reducible refine Steps.foldl _ _ (fun u a h => ?_) ?_
    | with_reducible exact fun _ h => h
    | decide +kernel
    | split
    | dsimp only)

theorem State.putRegion_steps {parts : List Component} {s0 : State} {s : State} {n : Nat} {x : FlashRegion}
    (h0 : Steps parts s0 s) (hsub : ∀ p ∈ [Component.fregions], p ∈ parts) : Steps parts s0 (State.putRegion s n x) := by
  refine Steps.via (ps := parts) (qs := [Component.fregions]) h0 ?_ hsub
  clear h0 hsub
  unfold State.putRegion
  try dsimp only
  repeat' (first
    | with_reducible apply Steps.ite <;> intro _
    | with_reducible exact Steps.refl _ _
    | with_reducible assumption
    | with_reducible apply State.setFregions_steps
    | with_reducible refine Steps.foldl _ _ (fun u a h => ?_) ?_
    | with_reducible exact tabWf_tmod _ _ _ _
    | with_reducible exact tabWf_tput _ _ _ _
    | with_reducible exact tabWf_tmodAll _ _ _ _
    | with_reducible exact fun _ => tabWf_nil _
    | with_reducible exact fun _ h => h
    | decide +kernel
    | split
    | dsimp only)

theorem State.installKey_steps {parts : List Component} {s0 : State} {s : State} {k : Nat} {key : Bytes} {tx rx owner : BitVec 32}
    (h0 : Steps parts s0 s) (hsub : ∀ p ∈ [Component.lanesets, .linkKeys], p ∈ parts) : Steps parts s0 (State.installKey s k key tx rx owner) := by
  refine Steps.via (ps := parts) (qs := [Component.lanesets, .linkKeys]) h0 ?_ hsub
  clear h0 hsub
  unfold State.installKey
  try dsimp only
  repeat' (first
    | with_reducible apply Steps.ite <;> intro _
    | with_reducible exact Steps.refl _ _
    | with_reducible assumption
    | with_reducible apply State.bringUp_steps
    | with_reducible apply State.modLaneset_steps
    | with_reducible apply State.modLinkKey_steps
    | with_reducible refine Steps.foldl _ _ (fun u a h => ?_) ?_
    | with_reducible exact fun _ h => h
    | decide +kernel
    | split
    | dsimp only)

theorem State.emptySlot_steps {parts : List Component} {s0 : State} {s : State} {n k : Nat}
    (h0 : Steps parts s0 s) (hsub : ∀ p ∈ [Component.flash], p ∈ parts) : Steps parts s0 (State.emptySlot s n k) := by
  refine Steps.via (ps := parts) (qs := [Component.flash]) h0 ?_ hsub
  clear h0 hsub
  unfold State.emptySlot
  try dsimp only
  repeat' (first
    | with_reducible apply Steps.ite <;> intro _
    | with_reducible exact Steps.refl _ _
    | with_reducible assumption
    | with_reducible apply State.modFunit_steps
    | with_reducible refine Steps.foldl _ _ (fun u a h => ?_) ?_
    | with_reducible exact fun _ h => h
    | decide +kernel
    | split
    | dsimp only)

theorem State.addRtSrc_steps {ps : List Component} {s0 s : State} {c : Nat} {src : BitVec 12} (h : Steps ps s0 s)
    (sub : ∀ p ∈ [Component.dram], p ∈ ps) : StepsO ps s0 (s.addRtSrc c src) := by
  unfold State.addRtSrc
  refine StepsO.ite (fun _ => StepsO.some h) fun _ t ht => ?_
  obtain ⟨p, _, rfl⟩ := Option.map_eq_some_iff.mp ht
  exact State.modChan_steps h sub

theorem flowAdmit_steps {ps : List Component} {s0 s : State} {f : Flow} (h : Steps ps s0 s)
    (sub : ∀ p ∈ [Component.routers, .flows, .lanesets, .links, .dram, .clk], p ∈ ps) : Steps ps s0 (flowAdmit s f).1 := by
  have key : ∀ (l : List Nat) (u v : State), Steps ps s0 u → l.foldlM (fun s c => s.addRtSrc c f.mid) u = some v → Steps ps s0 v := by
    intro l
    induction l with
    | nil => intro u v hu e; cases e; exact hu
    | cons c l ih =>
      intro u v hu e
      rw [List.foldlM_cons] at e
      obtain ⟨w, hw, e⟩ := Option.bind_eq_some_iff.mp e
      exact ih w v (State.addRtSrc_steps hu (fun p hp => sub p (by simp_all)) w hw) e
  have hf : ∀ p ∈ [Component.flows], p ∈ ps := fun p hp => sub p (by simp_all)
  have hr : ∀ p ∈ [Component.routers], p ∈ ps := fun p hp => sub p (by simp_all)
  unfold flowAdmit
  dsimp only
  refine Steps.ite_fst (fun _ => h) fun _ => ?_
  split
  · exact h
  · refine Steps.ite_fst (fun _ => h) fun _ => ?_
    split
    · exact h
    · rename_i s1 e1
      have h1 : Steps ps s0 s1 := by
        split at e1
        · exact key _ _ _ h e1
        · cases e1; exact h
      refine Steps.ite_fst (fun _ => h) fun _ => ?_
      exact State.keepPaths_steps (State.rebound_steps (State.programOuts_steps (State.modFlow_steps (State.modFlow_steps h1 hf) hf) hr) hf) (fun p hp => sub p (by clear sub; revert p; decide))

theorem flowAdmitBody_steps {parts : List Component} {s0 : State} {s : State} {m : Nat} {r : Request}
    (h0 : Steps parts s0 s) (hsub : ∀ p ∈ [Component.routers, .flows, .lanesets, .links, .dram, .clk], p ∈ parts) : Steps parts s0 (flowAdmitBody s m r).1 := by
  refine Steps.via (ps := parts) (qs := [Component.routers, .flows, .lanesets, .links, .dram, .clk]) h0 ?_ hsub
  clear h0 hsub
  unfold flowAdmitBody
  try dsimp only
  repeat' (first
    | with_reducible apply Steps.ite <;> intro _
    | with_reducible apply Steps.ite_fst <;> intro _
    | with_reducible exact Steps.refl _ _
    | with_reducible assumption
    | with_reducible apply flowAdmit_steps
    | with_reducible refine Steps.foldl _ _ (fun u a h => ?_) ?_
    | with_reducible refine Steps.of_fst ?_ (by assumption)
    | with_reducible exact fun _ h => h
    | decide +kernel
    | split
    | dsimp only)

theorem State.mbxOpen_steps {parts : List Component} {s0 : State} {s : State} {m : Nat} {r : Request}
    (h0 : Steps parts s0 s) (hsub : ∀ p ∈ [Component.gable], p ∈ parts) : Steps parts s0 (State.mbxOpen s m r).1 := by
  refine Steps.via (ps := parts) (qs := [Component.gable]) h0 ?_ hsub
  clear h0 hsub
  unfold State.mbxOpen
  try dsimp only
  repeat' (first
    | with_reducible apply Steps.ite <;> intro _
    | with_reducible apply Steps.ite_fst <;> intro _
    | with_reducible exact Steps.refl _ _
    | with_reducible assumption
    | with_reducible apply State.modMbx_steps
    | with_reducible refine Steps.foldl _ _ (fun u a h => ?_) ?_
    | with_reducible refine Steps.of_fst ?_ (by assumption)
    | with_reducible exact fun _ h => h
    | decide +kernel
    | split
    | dsimp only)

theorem State.closeSession_steps {parts : List Component} {s0 : State} {s : State} {sid : Nat}
    (h0 : Steps parts s0 s) (hsub : ∀ p ∈ [Component.ids, .acls, .dies, .routers, .masters, .flows, .lanesets, .links, .guests, .linkKeys, .hpins, .tb, .cfg, .dram, .flash, .fregions, .dma, .gable, .clk, .log, .evr, .svc], p ∈ parts) : Steps parts s0 (State.closeSession s sid) := by
  refine Steps.via (ps := parts) (qs := [Component.ids, .acls, .dies, .routers, .masters, .flows, .lanesets, .links, .guests, .linkKeys, .hpins, .tb, .cfg, .dram, .flash, .fregions, .dma, .gable, .clk, .log, .evr, .svc]) h0 ?_ hsub
  clear h0 hsub
  unfold State.closeSession
  try dsimp only
  repeat' (first
    | with_reducible apply Steps.ite <;> intro _
    | with_reducible exact Steps.refl _ _
    | with_reducible assumption
    | with_reducible apply State.endSession_steps
    | with_reducible apply State.freeOwned_steps
    | with_reducible apply State.modCfg_steps
    | with_reducible apply State.strmFail_steps
    | with_reducible refine Steps.foldl _ _ (fun u a h => ?_) ?_
    | with_reducible exact fun _ h => h
    | decide +kernel
    | split
    | dsimp only)

theorem heartbeatTimeout_steps {parts : List Component} {s0 : State} {s : State} {m : Nat}
    (h0 : Steps parts s0 s) (hsub : ∀ p ∈ [Component.ids, .acls, .dies, .routers, .masters, .flows, .lanesets, .links, .guests, .linkKeys, .hpins, .tb, .cfg, .dram, .flash, .fregions, .dma, .gable, .clk, .log, .evr, .svc], p ∈ parts) : Steps parts s0 (heartbeatTimeout s m) := by
  refine Steps.via (ps := parts) (qs := [Component.ids, .acls, .dies, .routers, .masters, .flows, .lanesets, .links, .guests, .linkKeys, .hpins, .tb, .cfg, .dram, .flash, .fregions, .dma, .gable, .clk, .log, .evr, .svc]) h0 ?_ hsub
  clear h0 hsub
  unfold heartbeatTimeout
  try dsimp only
  repeat' (first
    | with_reducible apply Steps.ite <;> intro _
    | with_reducible exact Steps.refl _ _
    | with_reducible assumption
    | with_reducible apply State.closeSession_steps
    | with_reducible apply State.raiseHub_steps
    | with_reducible refine Steps.foldl _ _ (fun u a h => ?_) ?_
    | with_reducible exact fun _ h => h
    | decide +kernel
    | split
    | dsimp only)

theorem State.mbxEvpop_steps {parts : List Component} {s0 : State} {s : State} {src : BitVec 12} {effect : Bool} {m : Nat}
    (h0 : Steps parts s0 s) (hsub : ∀ p ∈ [Component.gable, .evr], p ∈ parts) : Steps parts s0 (State.mbxEvpop s src effect m).1 := by
  refine Steps.via (ps := parts) (qs := [Component.gable, .evr]) h0 ?_ hsub
  clear h0 hsub
  unfold State.mbxEvpop
  try dsimp only
  repeat' (first
    | with_reducible apply Steps.ite <;> intro _
    | with_reducible apply Steps.ite_fst <;> intro _
    | with_reducible exact Steps.refl _ _
    | with_reducible assumption
    | with_reducible apply State.modEvOut_steps
    | with_reducible apply State.modMbx_steps
    | with_reducible apply regDenied_steps
    | with_reducible apply regOk_steps
    | with_reducible refine Steps.foldl _ _ (fun u a h => ?_) ?_
    | with_reducible refine Steps.of_fst ?_ (by assumption)
    | with_reducible exact fun _ h => h
    | decide +kernel
    | split
    | dsimp only)

theorem State.cplAck_steps {parts : List Component} {s0 : State} {s : State} {m : Nat}
    (h0 : Steps parts s0 s) (hsub : ∀ p ∈ [Component.gable, .evr], p ∈ parts) : Steps parts s0 (State.cplAck s m) := by
  refine Steps.via (ps := parts) (qs := [Component.gable, .evr]) h0 ?_ hsub
  clear h0 hsub
  unfold State.cplAck
  try dsimp only
  repeat' (first
    | with_reducible apply Steps.ite <;> intro _
    | with_reducible exact Steps.refl _ _
    | with_reducible assumption
    | with_reducible apply State.modMbx_steps
    | with_reducible apply State.showNext_steps
    | with_reducible refine Steps.foldl _ _ (fun u a h => ?_) ?_
    | with_reducible exact fun _ h => h
    | decide +kernel
    | split
    | dsimp only)

theorem State.ringBell_steps {parts : List Component} {s0 : State} {s : State} {src : BitVec 12} {m : Nat}
    (h0 : Steps parts s0 s) (hsub : ∀ p ∈ [Component.gable], p ∈ parts) : Steps parts s0 (State.ringBell s src m) := by
  refine Steps.via (ps := parts) (qs := [Component.gable]) h0 ?_ hsub
  clear h0 hsub
  unfold State.ringBell
  try dsimp only
  repeat' (first
    | with_reducible apply Steps.ite <;> intro _
    | with_reducible exact Steps.refl _ _
    | with_reducible assumption
    | with_reducible apply State.modGable_steps
    | with_reducible apply State.modMbx_steps
    | with_reducible refine Steps.foldl _ _ (fun u a h => ?_) ?_
    | with_reducible exact fun _ h => h
    | decide +kernel
    | split
    | dsimp only)

theorem State.mbxPut_steps {parts : List Component} {s0 : State} {s : State} {src : BitVec 12} {m off v : Nat}
    (h0 : Steps parts s0 s) (hsub : ∀ p ∈ [Component.gable, .evr], p ∈ parts) : Steps parts s0 (State.mbxPut s src m off v).1 := by
  refine Steps.via (ps := parts) (qs := [Component.gable, .evr]) h0 ?_ hsub
  clear h0 hsub
  unfold State.mbxPut
  try dsimp only
  repeat' (first
    | with_reducible apply Steps.ite <;> intro _
    | with_reducible apply Steps.ite_fst <;> intro _
    | with_reducible exact Steps.refl _ _
    | with_reducible assumption
    | with_reducible apply State.cplAck_steps
    | with_reducible apply State.modMbx_steps
    | with_reducible apply State.ringBell_steps
    | with_reducible refine Steps.foldl _ _ (fun u a h => ?_) ?_
    | with_reducible refine Steps.of_fst ?_ (by assumption)
    | with_reducible exact fun _ h => h
    | decide +kernel
    | split
    | dsimp only)

theorem State.mbxPageWrite_steps {parts : List Component} {s0 : State} {s : State} {src : BitVec 12} {m off : Nat} {data : List (BitVec 8)}
    (h0 : Steps parts s0 s) (hsub : ∀ p ∈ [Component.gable, .evr], p ∈ parts) : Steps parts s0 (State.mbxPageWrite s src m off data).1 := by
  refine Steps.via (ps := parts) (qs := [Component.gable, .evr]) h0 ?_ hsub
  clear h0 hsub
  unfold State.mbxPageWrite
  try dsimp only
  repeat' (first
    | with_reducible apply Steps.ite <;> intro _
    | with_reducible apply Steps.ite_fst <;> intro _
    | with_reducible exact Steps.refl _ _
    | with_reducible assumption
    | with_reducible apply State.mbxPut_steps
    | with_reducible apply State.modMbx_steps
    | with_reducible refine Steps.foldl _ _ (fun u a h => ?_) ?_
    | with_reducible refine Steps.of_fst ?_ (by assumption)
    | with_reducible exact fun _ h => h
    | decide +kernel
    | split
    | dsimp only)

theorem State.mbxPageRead_steps {parts : List Component} {s0 : State} {s : State} {src : BitVec 12} {effect : Bool} {m off n : Nat}
    (h0 : Steps parts s0 s) (hsub : ∀ p ∈ [Component.gable, .evr], p ∈ parts) : Steps parts s0 (State.mbxPageRead s src effect m off n).1 := by
  refine Steps.via (ps := parts) (qs := [Component.gable, .evr]) h0 ?_ hsub
  clear h0 hsub
  unfold State.mbxPageRead
  try dsimp only
  repeat' (first
    | with_reducible apply Steps.ite <;> intro _
    | with_reducible apply Steps.ite_fst <;> intro _
    | with_reducible exact Steps.refl _ _
    | with_reducible assumption
    | with_reducible apply State.mbxEvpop_steps
    | with_reducible refine Steps.foldl _ _ (fun u a h => ?_) ?_
    | with_reducible refine Steps.of_fst ?_ (by assumption)
    | with_reducible exact fun _ h => h
    | decide +kernel
    | split
    | dsimp only)

theorem State.mbxWrite_steps {parts : List Component} {s0 : State} {s : State} {src : BitVec 12} {off : Nat} {data : List (BitVec 8)}
    (h0 : Steps parts s0 s) (hsub : ∀ p ∈ [Component.gable, .evr], p ∈ parts) : Steps parts s0 (State.mbxWrite s src off data).1 := by
  refine Steps.via (ps := parts) (qs := [Component.gable, .evr]) h0 ?_ hsub
  clear h0 hsub
  unfold State.mbxWrite
  try dsimp only
  repeat' (first
    | with_reducible apply Steps.ite <;> intro _
    | with_reducible apply Steps.ite_fst <;> intro _
    | with_reducible exact Steps.refl _ _
    | with_reducible assumption
    | with_reducible apply State.mbxPageWrite_steps
    | with_reducible refine Steps.foldl _ _ (fun u a h => ?_) ?_
    | with_reducible refine Steps.of_fst ?_ (by assumption)
    | with_reducible exact fun _ h => h
    | decide +kernel
    | split
    | dsimp only)

theorem State.mbxRead_steps {parts : List Component} {s0 : State} {s : State} {src : BitVec 12} {effect : Bool} {off n : Nat}
    (h0 : Steps parts s0 s) (hsub : ∀ p ∈ [Component.gable, .evr], p ∈ parts) : Steps parts s0 (State.mbxRead s src effect off n).1 := by
  refine Steps.via (ps := parts) (qs := [Component.gable, .evr]) h0 ?_ hsub
  clear h0 hsub
  unfold State.mbxRead
  try dsimp only
  repeat' (first
    | with_reducible apply Steps.ite <;> intro _
    | with_reducible apply Steps.ite_fst <;> intro _
    | with_reducible exact Steps.refl _ _
    | with_reducible assumption
    | with_reducible apply State.mbxPageRead_steps
    | with_reducible refine Steps.foldl _ _ (fun u a h => ?_) ?_
    | with_reducible refine Steps.of_fst ?_ (by assumption)
    | with_reducible exact fun _ h => h
    | decide +kernel
    | split
    | dsimp only)

theorem State.setSpiErr_steps {parts : List Component} {s0 : State} {s : State} {e : Bool}
    (h0 : Steps parts s0 s) (hsub : ∀ p ∈ [Component.gable], p ∈ parts) : Steps parts s0 (State.setSpiErr s e) := by
  refine Steps.via (ps := parts) (qs := [Component.gable]) h0 ?_ hsub
  clear h0 hsub
  unfold State.setSpiErr
  try dsimp only
  repeat' (first
    | with_reducible apply Steps.ite <;> intro _
    | with_reducible exact Steps.refl _ _
    | with_reducible assumption
    | with_reducible apply State.modGable_steps
    | with_reducible refine Steps.foldl _ _ (fun u a h => ?_) ?_
    | with_reducible exact fun _ h => h
    | decide +kernel
    | split
    | dsimp only)

theorem spiWrite_steps {parts : List Component} {s0 : State} {s : State} {addr : BitVec 24} {bytes : List (BitVec 8)}
    (h0 : Steps parts s0 s) (hsub : ∀ p ∈ [Component.gable, .evr], p ∈ parts) : Steps parts s0 (spiWrite s addr bytes) := by
  refine Steps.via (ps := parts) (qs := [Component.gable, .evr]) h0 ?_ hsub
  clear h0 hsub
  unfold spiWrite
  try dsimp only
  repeat' (first
    | with_reducible apply Steps.ite <;> intro _
    | with_reducible apply Steps.ite_fst <;> intro _
    | with_reducible exact Steps.refl _ _
    | with_reducible assumption
    | with_reducible apply State.mbxPageWrite_steps
    | with_reducible apply State.setSpiErr_steps
    | with_reducible refine Steps.foldl _ _ (fun u a h => ?_) ?_
    | with_reducible refine Steps.of_fst ?_ (by assumption)
    | with_reducible exact fun _ h => h
    | decide +kernel
    | split
    | dsimp only)

theorem State.spiShift_steps {parts : List Component} {s0 : State} {s : State} {data : List (BitVec 8)}
    (h0 : Steps parts s0 s) (hsub : ∀ p ∈ [Component.gable], p ∈ parts) : Steps parts s0 (State.spiShift s data) := by
  refine Steps.via (ps := parts) (qs := [Component.gable]) h0 ?_ hsub
  clear h0 hsub
  unfold State.spiShift
  try dsimp only
  repeat' (first
    | with_reducible apply Steps.ite <;> intro _
    | with_reducible exact Steps.refl _ _
    | with_reducible assumption
    | with_reducible apply State.modGable_steps
    | with_reducible refine Steps.foldl _ _ (fun u a h => ?_) ?_
    | with_reducible exact fun _ h => h
    | decide +kernel
    | split
    | dsimp only)

theorem spiRead_steps {parts : List Component} {s0 : State} {s : State} {addr : BitVec 24} {len : Nat}
    (h0 : Steps parts s0 s) (hsub : ∀ p ∈ [Component.routers, .gable, .log, .evr], p ∈ parts) : Steps parts s0 (spiRead s addr len) := by
  refine Steps.via (ps := parts) (qs := [Component.routers, .gable, .log, .evr]) h0 ?_ hsub
  clear h0 hsub
  unfold spiRead
  try dsimp only
  repeat' (first
    | with_reducible apply Steps.ite <;> intro _
    | with_reducible apply Steps.ite_fst <;> intro _
    | with_reducible exact Steps.refl _ _
    | with_reducible assumption
    | with_reducible apply State.mbxPageRead_steps
    | with_reducible apply State.noteDenial_steps
    | with_reducible apply State.setSpiErr_steps
    | with_reducible apply State.spiShift_steps
    | with_reducible refine Steps.foldl _ _ (fun u a h => ?_) ?_
    | with_reducible refine Steps.of_fst ?_ (by assumption)
    | with_reducible exact fun _ h => h
    | decide +kernel
    | split
    | dsimp only)

theorem spiReadStatus_steps {parts : List Component} {s0 : State} {s : State}
    (h0 : Steps parts s0 s) (hsub : ∀ p ∈ [Component.gable], p ∈ parts) : Steps parts s0 (spiReadStatus s) := by
  refine Steps.via (ps := parts) (qs := [Component.gable]) h0 ?_ hsub
  clear h0 hsub
  unfold spiReadStatus
  try dsimp only
  repeat' (first
    | with_reducible apply Steps.ite <;> intro _
    | with_reducible exact Steps.refl _ _
    | with_reducible assumption
    | with_reducible apply State.modGable_steps
    | with_reducible refine Steps.foldl _ _ (fun u a h => ?_) ?_
    | with_reducible exact fun _ h => h
    | decide +kernel
    | split
    | dsimp only)

theorem State.hbStop_steps {parts : List Component} {s0 : State} {s : State}
    (h0 : Steps parts s0 s) (hsub : ∀ p ∈ [Component.gable], p ∈ parts) : Steps parts s0 (State.hbStop s) := by
  refine Steps.via (ps := parts) (qs := [Component.gable]) h0 ?_ hsub
  clear h0 hsub
  unfold State.hbStop
  try dsimp only
  repeat' (first
    | with_reducible apply Steps.ite <;> intro _
    | with_reducible exact Steps.refl _ _
    | with_reducible assumption
    | with_reducible apply State.modGable_steps
    | with_reducible refine Steps.foldl _ _ (fun u a h => ?_) ?_
    | with_reducible exact fun _ h => h
    | decide +kernel
    | split
    | dsimp only)

theorem State.beginRestart_steps {parts : List Component} {s0 : State} {s : State} {cause : BitVec 3} {fwAddr : BitVec 32}
    (h0 : Steps parts s0 s) (hsub : ∀ p ∈ [Component.cfg, .gable, .evr], p ∈ parts) : Steps parts s0 (State.beginRestart s cause fwAddr) := by
  refine Steps.via (ps := parts) (qs := [Component.cfg, .gable, .evr]) h0 ?_ hsub
  clear h0 hsub
  unfold State.beginRestart
  try dsimp only
  repeat' (first
    | with_reducible apply Steps.ite <;> intro _
    | with_reducible exact Steps.refl _ _
    | with_reducible assumption
    | with_reducible apply State.hbStop_steps
    | with_reducible apply State.modCfg_steps
    | with_reducible apply State.modGable_steps
    | with_reducible apply State.raiseHub_steps
    | with_reducible apply State.setGstate_steps
    | with_reducible refine Steps.foldl _ _ (fun u a h => ?_) ?_
    | with_reducible exact fun _ h => h
    | decide +kernel
    | split
    | dsimp only)

theorem State.answerLater_steps {parts : List Component} {s0 : State} {s : State} {tok : Option Nat} {status : Nat} {data : List (BitVec 8)}
    (h0 : Steps parts s0 s) (hsub : ∀ p ∈ [Component.gable, .evr], p ∈ parts) : Steps parts s0 (State.answerLater s tok status data) := by
  refine Steps.via (ps := parts) (qs := [Component.gable, .evr]) h0 ?_ hsub
  clear h0 hsub
  unfold State.answerLater
  try dsimp only
  repeat' (first
    | with_reducible apply Steps.ite <;> intro _
    | with_reducible exact Steps.refl _ _
    | with_reducible assumption
    | with_reducible apply State.modMbx_steps
    | with_reducible apply State.writeAnswer_steps
    | with_reducible refine Steps.foldl _ _ (fun u a h => ?_) ?_
    | with_reducible exact fun _ h => h
    | decide +kernel
    | split
    | dsimp only)

theorem State.faultDeferred_steps {parts : List Component} {s0 : State} {s : State}
    (h0 : Steps parts s0 s) (hsub : ∀ p ∈ [Component.gable, .evr], p ∈ parts) : Steps parts s0 (State.faultDeferred s) := by
  refine Steps.via (ps := parts) (qs := [Component.gable, .evr]) h0 ?_ hsub
  clear h0 hsub
  unfold State.faultDeferred
  try dsimp only
  repeat' (first
    | with_reducible apply Steps.ite <;> intro _
    | with_reducible exact Steps.refl _ _
    | with_reducible assumption
    | with_reducible apply State.answerLater_steps
    | with_reducible refine Steps.foldl _ _ (fun u a h => ?_) ?_
    | with_reducible exact fun _ h => h
    | decide +kernel
    | split
    | dsimp only)

theorem State.endRestart_steps {parts : List Component} {s0 : State} {s : State} {recordsOk : Bool}
    (h0 : Steps parts s0 s) (hsub : ∀ p ∈ [Component.ids, .acls, .dies, .routers, .masters, .flows, .lanesets, .links, .guests, .linkKeys, .hpins, .tb, .cfg, .dram, .flash, .fregions, .dma, .gable, .clk, .log, .evr, .svc], p ∈ parts) : Steps parts s0 (State.endRestart s recordsOk) := by
  refine Steps.via (ps := parts) (qs := [Component.ids, .acls, .dies, .routers, .masters, .flows, .lanesets, .links, .guests, .linkKeys, .hpins, .tb, .cfg, .dram, .flash, .fregions, .dma, .gable, .clk, .log, .evr, .svc]) h0 ?_ hsub
  clear h0 hsub
  unfold State.endRestart
  try dsimp only
  repeat' (first
    | with_reducible apply Steps.ite <;> intro _
    | with_reducible exact Steps.refl _ _
    | with_reducible assumption
    | with_reducible apply State.closeSession_steps
    | with_reducible apply State.faultDeferred_steps
    | with_reducible apply State.logNote_steps
    | with_reducible apply State.modGable_steps
    | with_reducible apply State.setGstate_steps
    | with_reducible apply State.showNext_steps
    | with_reducible refine Steps.foldl _ _ (fun u a h => ?_) ?_
    | with_reducible exact fun _ h => h
    | decide +kernel
    | split
    | dsimp only)

theorem watchdogExpire_steps {parts : List Component} {s0 : State} {s : State}
    (h0 : Steps parts s0 s) (hsub : ∀ p ∈ [Component.cfg, .gable, .evr], p ∈ parts) : Steps parts s0 (watchdogExpire s) := by
  refine Steps.via (ps := parts) (qs := [Component.cfg, .gable, .evr]) h0 ?_ hsub
  clear h0 hsub
  unfold watchdogExpire
  try dsimp only
  repeat' (first
    | with_reducible apply Steps.ite <;> intro _
    | with_reducible exact Steps.refl _ _
    | with_reducible assumption
    | with_reducible apply State.beginRestart_steps
    | with_reducible refine Steps.foldl _ _ (fun u a h => ?_) ?_
    | with_reducible exact fun _ h => h
    | decide +kernel
    | split
    | dsimp only)

theorem gableRestart_steps {parts : List Component} {s0 : State} {s : State} {cause : BitVec 3} {fwAddr : BitVec 32} {restored recordsOk : Bool}
    (h0 : Steps parts s0 s) (hsub : ∀ p ∈ [Component.ids, .acls, .dies, .routers, .masters, .flows, .lanesets, .links, .guests, .linkKeys, .hpins, .tb, .cfg, .dram, .flash, .fregions, .dma, .gable, .clk, .log, .evr, .svc], p ∈ parts) : Steps parts s0 (gableRestart s cause fwAddr restored recordsOk) := by
  refine Steps.via (ps := parts) (qs := [Component.ids, .acls, .dies, .routers, .masters, .flows, .lanesets, .links, .guests, .linkKeys, .hpins, .tb, .cfg, .dram, .flash, .fregions, .dma, .gable, .clk, .log, .evr, .svc]) h0 ?_ hsub
  clear h0 hsub
  unfold gableRestart
  try dsimp only
  repeat' (first
    | with_reducible apply Steps.ite <;> intro _
    | with_reducible exact Steps.refl _ _
    | with_reducible assumption
    | with_reducible apply State.beginRestart_steps
    | with_reducible apply State.endRestart_steps
    | with_reducible apply State.modCfg_steps
    | with_reducible apply State.setGstate_steps
    | with_reducible apply watchdogExpire_steps
    | with_reducible refine Steps.foldl _ _ (fun u a h => ?_) ?_
    | with_reducible exact fun _ h => h
    | decide +kernel
    | split
    | dsimp only)

theorem gableSramScrub_steps {parts : List Component} {s0 : State} {s : State} {u : Upset}
    (h0 : Steps parts s0 s) (hsub : ∀ p ∈ [Component.free, .cfg, .gable, .evr], p ∈ parts) : Steps parts s0 (gableSramScrub s u) := by
  refine Steps.via (ps := parts) (qs := [Component.free, .cfg, .gable, .evr]) h0 ?_ hsub
  clear h0 hsub
  unfold gableSramScrub
  try dsimp only
  repeat' (first
    | with_reducible apply Steps.ite <;> intro _
    | with_reducible exact Steps.refl _ _
    | with_reducible assumption
    | with_reducible apply State.beginRestart_steps
    | with_reducible apply State.drew_steps
    | with_reducible apply State.modGable_steps
    | with_reducible refine Steps.foldl _ _ (fun u a h => ?_) ?_
    | with_reducible exact fun _ h => h
    | decide +kernel
    | split
    | dsimp only)

theorem State.gqStore_steps {parts : List Component} {s0 : State} {s : State} {d q : Nat} {data : BitVec 64}
    (h0 : Steps parts s0 s) (hsub : ∀ p ∈ [Component.dies], p ∈ parts) : Steps parts s0 (State.gqStore s d q data) := by
  refine Steps.via (ps := parts) (qs := [Component.dies]) h0 ?_ hsub
  clear h0 hsub
  unfold State.gqStore
  try dsimp only
  repeat' (first
    | with_reducible apply Steps.ite <;> intro _
    | with_reducible exact Steps.refl _ _
    | with_reducible assumption
    | with_reducible apply State.modGq_steps
    | with_reducible refine Steps.foldl _ _ (fun u a h => ?_) ?_
    | with_reducible exact fun _ h => h
    | decide +kernel
    | split
    | dsimp only)

theorem State.raiseGqUe_steps {parts : List Component} {s0 : State} {s : State} {d q slot : Nat} {scrub : Bool}
    (h0 : Steps parts s0 s) (hsub : ∀ p ∈ [Component.routers, .evr], p ∈ parts) : Steps parts s0 (State.raiseGqUe s d q slot scrub) := by
  refine Steps.via (ps := parts) (qs := [Component.routers, .evr]) h0 ?_ hsub
  clear h0 hsub
  unfold State.raiseGqUe
  try dsimp only
  repeat' (first
    | with_reducible apply Steps.ite <;> intro _
    | with_reducible exact Steps.refl _ _
    | with_reducible assumption
    | with_reducible apply State.raiseEvent_steps
    | with_reducible refine Steps.foldl _ _ (fun u a h => ?_) ?_
    | with_reducible exact fun _ h => h
    | decide +kernel
    | split
    | dsimp only)

theorem gqPopEntry_steps {parts : List Component} {s0 : State} {s : State} {d q : Nat} {u su : Sys2Proof.Upset}
    (h0 : Steps parts s0 s) (hsub : ∀ p ∈ [Component.free, .dies, .routers, .evr], p ∈ parts) : Steps parts s0 (gqPopEntry s d q u su).1 := by
  refine Steps.via (ps := parts) (qs := [Component.free, .dies, .routers, .evr]) h0 ?_ hsub
  clear h0 hsub
  unfold gqPopEntry
  try dsimp only
  repeat' (first
    | with_reducible apply Steps.ite <;> intro _
    | with_reducible apply Steps.ite_fst <;> intro _
    | with_reducible exact Steps.refl _ _
    | with_reducible assumption
    | with_reducible apply State.drew_steps
    | with_reducible apply State.modGq_steps
    | with_reducible apply State.raiseGqUe_steps
    | with_reducible refine Steps.foldl _ _ (fun u a h => ?_) ?_
    | with_reducible refine Steps.of_fst ?_ (by assumption)
    | with_reducible exact fun _ h => h
    | decide +kernel
    | split
    | dsimp only)

theorem State.gqEdge_steps {parts : List Component} {s0 : State} {s : State} {d : Nat} {on : Nat → Bool}
    (h0 : Steps parts s0 s) (hsub : ∀ p ∈ [Component.dies], p ∈ parts) : Steps parts s0 (State.gqEdge s d on) := by
  refine Steps.via (ps := parts) (qs := [Component.dies]) h0 ?_ hsub
  clear h0 hsub
  unfold State.gqEdge
  try dsimp only
  repeat' (first
    | with_reducible apply Steps.ite <;> intro _
    | with_reducible exact Steps.refl _ _
    | with_reducible assumption
    | with_reducible apply State.modDie_steps
    | with_reducible refine Steps.foldl _ _ (fun u a h => ?_) ?_
    | with_reducible exact fun _ h => h
    | decide +kernel
    | split
    | dsimp only)

theorem gqCtrl_steps {parts : List Component} {s0 : State} {s : State} {d q v : Nat}
    (h0 : Steps parts s0 s) (hsub : ∀ p ∈ [Component.dies], p ∈ parts) : Steps parts s0 (gqCtrl s d q v) := by
  refine Steps.via (ps := parts) (qs := [Component.dies]) h0 ?_ hsub
  clear h0 hsub
  unfold gqCtrl
  try dsimp only
  repeat' (first
    | with_reducible apply Steps.ite <;> intro _
    | with_reducible exact Steps.refl _ _
    | with_reducible assumption
    | with_reducible apply State.modGq_steps
    | with_reducible refine Steps.foldl _ _ (fun u a h => ?_) ?_
    | with_reducible exact fun _ h => h
    | decide +kernel
    | split
    | dsimp only)

theorem gqMarks_steps {parts : List Component} {s0 : State} {s : State} {d q v : Nat}
    (h0 : Steps parts s0 s) (hsub : ∀ p ∈ [Component.dies], p ∈ parts) : Steps parts s0 (gqMarks s d q v) := by
  refine Steps.via (ps := parts) (qs := [Component.dies]) h0 ?_ hsub
  clear h0 hsub
  unfold gqMarks
  try dsimp only
  repeat' (first
    | with_reducible apply Steps.ite <;> intro _
    | with_reducible exact Steps.refl _ _
    | with_reducible assumption
    | with_reducible apply State.modGq_steps
    | with_reducible refine Steps.foldl _ _ (fun u a h => ?_) ?_
    | with_reducible exact fun _ h => h
    | decide +kernel
    | split
    | dsimp only)

theorem State.gqWriteWord_steps {parts : List Component} {s0 : State} {d q : Nat} {s : State} {off v : Nat}
    (h0 : Steps parts s0 s) (hsub : ∀ p ∈ [Component.dies], p ∈ parts) : Steps parts s0 (State.gqWriteWord d q s off v) := by
  refine Steps.via (ps := parts) (qs := [Component.dies]) h0 ?_ hsub
  clear h0 hsub
  unfold State.gqWriteWord
  try dsimp only
  repeat' (first
    | with_reducible apply Steps.ite <;> intro _
    | with_reducible exact Steps.refl _ _
    | with_reducible assumption
    | with_reducible apply State.modGq_steps
    | with_reducible apply gqCtrl_steps
    | with_reducible refine Steps.foldl _ _ (fun u a h => ?_) ?_
    | with_reducible exact fun _ h => h
    | decide +kernel
    | split
    | dsimp only)

theorem gqPushReg_steps {parts : List Component} {s0 : State} {s : State} {d q : Nat} {eight : Bool} {v : Nat}
    (h0 : Steps parts s0 s) (hsub : ∀ p ∈ [Component.dies], p ∈ parts) : Steps parts s0 (gqPushReg s d q eight v).1 := by
  refine Steps.via (ps := parts) (qs := [Component.dies]) h0 ?_ hsub
  clear h0 hsub
  unfold gqPushReg
  try dsimp only
  repeat' (first
    | with_reducible apply Steps.ite <;> intro _
    | with_reducible apply Steps.ite_fst <;> intro _
    | with_reducible exact Steps.refl _ _
    | with_reducible assumption
    | with_reducible apply State.gqStore_steps
    | with_reducible apply regErr_steps
    | with_reducible apply regOk_steps
    | with_reducible refine Steps.foldl _ _ (fun u a h => ?_) ?_
    | with_reducible refine Steps.of_fst ?_ (by assumption)
    | with_reducible exact fun _ h => h
    | decide +kernel
    | split
    | dsimp only)

theorem gqPopReg_steps {parts : List Component} {s0 : State} {w : Who} {s : State} {d q : Nat} {eight : Bool} {u su : Sys2Proof.Upset}
    (h0 : Steps parts s0 s) (hsub : ∀ p ∈ [Component.free, .dies, .routers, .evr], p ∈ parts) : Steps parts s0 (gqPopReg w s d q eight u su).1 := by
  refine Steps.via (ps := parts) (qs := [Component.free, .dies, .routers, .evr]) h0 ?_ hsub
  clear h0 hsub
  unfold gqPopReg
  try dsimp only
  repeat' (first
    | with_reducible apply Steps.ite <;> intro _
    | with_reducible apply Steps.ite_fst <;> intro _
    | with_reducible exact Steps.refl _ _
    | with_reducible assumption
    | with_reducible apply State.modGq_steps
    | with_reducible apply gqPopEntry_steps
    | with_reducible apply regErr_steps
    | with_reducible apply regOk_steps
    | with_reducible refine Steps.foldl _ _ (fun u a h => ?_) ?_
    | with_reducible refine Steps.of_fst ?_ (by assumption)
    | with_reducible exact fun _ h => h
    | decide +kernel
    | split
    | dsimp only)

theorem gqReg_steps {parts : List Component} {s0 : State} {w : Who} {s : State} {d q off : Nat} {write eight : Bool} {v : Nat} {u su : Sys2Proof.Upset}
    (h0 : Steps parts s0 s) (hsub : ∀ p ∈ [Component.free, .dies, .routers, .evr], p ∈ parts) : Steps parts s0 (gqReg w s d q off write eight v u su).1 := by
  refine Steps.via (ps := parts) (qs := [Component.free, .dies, .routers, .evr]) h0 ?_ hsub
  clear h0 hsub
  unfold gqReg
  try dsimp only
  repeat' (first
    | with_reducible apply Steps.ite <;> intro _
    | with_reducible apply Steps.ite_fst <;> intro _
    | with_reducible exact Steps.refl _ _
    | with_reducible assumption
    | with_reducible apply State.gqWriteWord_steps
    | with_reducible apply gqMarks_steps
    | with_reducible apply gqPopReg_steps
    | with_reducible apply gqPushReg_steps
    | with_reducible apply putWords_steps
    | with_reducible apply regErr_steps
    | with_reducible apply regOk_steps
    | (with_reducible intro u a b hu)
    | (with_reducible intro u a hu)
    | with_reducible refine Steps.foldl _ _ (fun u a h => ?_) ?_
    | with_reducible refine Steps.of_fst ?_ (by assumption)
    | with_reducible exact fun _ h => h
    | decide +kernel
    | split
    | dsimp only)

theorem State.writeFrame_steps {parts : List Component} {s0 : State} {s : State} {d i : Nat} {data : Bytes}
    (h0 : Steps parts s0 s) (hsub : ∀ p ∈ [Component.dies], p ∈ parts) : Steps parts s0 (State.writeFrame s d i data) := by
  refine Steps.via (ps := parts) (qs := [Component.dies]) h0 ?_ hsub
  clear h0 hsub
  unfold State.writeFrame
  try dsimp only
  repeat' (first
    | with_reducible apply Steps.ite <;> intro _
    | with_reducible exact Steps.refl _ _
    | with_reducible assumption
    | with_reducible apply State.modBram_steps
    | with_reducible apply State.modDie_steps
    | with_reducible apply State.modSlice_steps
    | with_reducible refine Steps.foldl _ _ (fun u a h => ?_) ?_
    | with_reducible exact fun _ h => h
    | decide +kernel
    | split
    | dsimp only)

theorem State.liftStops_steps {parts : List Component} {s0 : State} {s : State}
    (h0 : Steps parts s0 s) (hsub : ∀ p ∈ [Component.dies, .clk, .lad], p ∈ parts) : Steps parts s0 (State.liftStops s) := by
  refine Steps.via (ps := parts) (qs := [Component.dies, .clk, .lad]) h0 ?_ hsub
  clear h0 hsub
  unfold State.liftStops
  try dsimp only
  repeat' (first
    | with_reducible apply Steps.ite <;> intro _
    | with_reducible exact Steps.refl _ _
    | with_reducible assumption
    | with_reducible apply State.modClk_steps
    | with_reducible apply State.modLad_steps
    | with_reducible apply State.unfreeze_steps
    | with_reducible refine Steps.foldl _ _ (fun u a h => ?_) ?_
    | with_reducible exact fun _ h => h
    | decide +kernel
    | split
    | dsimp only)

theorem State.gableRun_steps {parts : List Component} {s0 : State} {s : State}
    (h0 : Steps parts s0 s) (hsub : ∀ p ∈ [Component.dies, .routers, .gable, .log, .evr], p ∈ parts) : Steps parts s0 (State.gableRun s) := by
  refine Steps.via (ps := parts) (qs := [Component.dies, .routers, .gable, .log, .evr]) h0 ?_ hsub
  clear h0 hsub
  unfold State.gableRun
  try dsimp only
  repeat' (first
    | with_reducible apply Steps.ite <;> intro _
    | with_reducible exact Steps.refl _ _
    | with_reducible assumption
    | with_reducible apply State.inject_steps
    | with_reducible apply State.logNote_steps
    | with_reducible apply State.modGable_steps
    | with_reducible apply State.modLeggett_steps
    | with_reducible apply State.setGstate_steps
    | with_reducible apply State.showNext_steps
    | with_reducible refine Steps.foldl _ _ (fun u a h => ?_) ?_
    | with_reducible exact fun _ h => h
    | decide +kernel
    | split
    | dsimp only)

theorem State.freeCore_steps {parts : List Component} {s0 : State} {s : State}
    (h0 : Steps parts s0 s) (hsub : ∀ p ∈ [Component.free, .gable], p ∈ parts) : Steps parts s0 (State.freeCore s) := by
  refine Steps.via (ps := parts) (qs := [Component.free, .gable]) h0 ?_ hsub
  clear h0 hsub
  unfold State.freeCore
  try dsimp only
  repeat' (first
    | with_reducible apply Steps.ite <;> intro _
    | with_reducible exact Steps.refl _ _
    | with_reducible assumption
    | with_reducible apply State.drew_steps
    | with_reducible apply State.modGable_steps
    | with_reducible refine Steps.foldl _ _ (fun u a h => ?_) ?_
    | with_reducible exact fun _ h => h
    | decide +kernel
    | split
    | dsimp only)

theorem State.haltNow_steps {parts : List Component} {s0 : State} {s : State} {broken : Bool}
    (h0 : Steps parts s0 s) (hsub : ∀ p ∈ [Component.free, .gable, .evr], p ∈ parts) : Steps parts s0 (State.haltNow s broken) := by
  refine Steps.via (ps := parts) (qs := [Component.free, .gable, .evr]) h0 ?_ hsub
  clear h0 hsub
  unfold State.haltNow
  try dsimp only
  repeat' (first
    | with_reducible apply Steps.ite <;> intro _
    | with_reducible exact Steps.refl _ _
    | with_reducible assumption
    | with_reducible apply State.freeCore_steps
    | with_reducible apply State.hbStop_steps
    | with_reducible apply State.modGable_steps
    | with_reducible apply State.setGstate_steps
    | with_reducible refine Steps.foldl _ _ (fun u a h => ?_) ?_
    | with_reducible exact fun _ h => h
    | decide +kernel
    | split
    | dsimp only)

theorem State.ladderReset_steps {parts : List Component} {s0 : State} {s : State}
    (h0 : Steps parts s0 s) (hsub : ∀ p ∈ [Component.dies, .routers, .masters, .gable, .clk, .log, .evr, .lad], p ∈ parts) : Steps parts s0 (State.ladderReset s) := by
  refine Steps.via (ps := parts) (qs := [Component.dies, .routers, .masters, .gable, .clk, .log, .evr, .lad]) h0 ?_ hsub
  clear h0 hsub
  unfold State.ladderReset
  try dsimp only
  repeat' (first
    | with_reducible apply Steps.ite <;> intro _
    | with_reducible exact Steps.refl _ _
    | with_reducible assumption
    | with_reducible apply State.gableRun_steps
    | with_reducible apply State.liftStops_steps
    | with_reducible apply State.modLad_steps
    | with_reducible apply State.modMaster_steps
    | with_reducible refine Steps.foldl _ _ (fun u a h => ?_) ?_
    | with_reducible exact fun _ h => h
    | decide +kernel
    | split
    | dsimp only)

theorem State.modTap_steps {parts : List Component} {s0 : State} {s : State} {t : Nat} {f : Tap → Tap}
    (h0 : Steps parts s0 s) (hsub : ∀ p ∈ [Component.lad], p ∈ parts) : Steps parts s0 (State.modTap s t f) := by
  refine Steps.via (ps := parts) (qs := [Component.lad]) h0 ?_ hsub
  clear h0 hsub
  unfold State.modTap
  try dsimp only
  repeat' (first
    | with_reducible apply Steps.ite <;> intro _
    | with_reducible exact Steps.refl _ _
    | with_reducible assumption
    | with_reducible apply State.modLad_steps
    | with_reducible refine Steps.foldl _ _ (fun u a h => ?_) ?_
    | with_reducible exact fun _ h => h
    | decide +kernel
    | split
    | dsimp only)

theorem State.pinInstr_steps {parts : List Component} {s0 : State} {s : State} {t : Nat} {code : BitVec 8} {bits : Option (BitVec 64)}
    (h0 : Steps parts s0 s) (hsub : ∀ p ∈ [Component.free, .lad], p ∈ parts) : Steps parts s0 (State.pinInstr s t code bits) := by
  refine Steps.via (ps := parts) (qs := [Component.free, .lad]) h0 ?_ hsub
  clear h0 hsub
  unfold State.pinInstr
  try dsimp only
  repeat' (first
    | with_reducible apply Steps.ite <;> intro _
    | with_reducible exact Steps.refl _ _
    | with_reducible assumption
    | with_reducible apply State.drew_steps
    | with_reducible apply State.modLad_steps
    | with_reducible apply State.modTap_steps
    | with_reducible refine Steps.foldl _ _ (fun u a h => ?_) ?_
    | with_reducible exact fun _ h => h
    | decide +kernel
    | split
    | dsimp only)

theorem busAcc_steps {parts : List Component} {s0 : State} {s : State} {dr : BitVec 128}
    (h0 : Steps parts s0 s) (hsub : ∀ p ∈ [Component.routers, .masters, .flows, .evr, .lad], p ∈ parts) : Steps parts s0 (busAcc s dr) := by
  refine Steps.via (ps := parts) (qs := [Component.routers, .masters, .flows, .evr, .lad]) h0 ?_ hsub
  clear h0 hsub
  unfold busAcc
  try dsimp only
  repeat' (first
    | with_reducible apply Steps.ite <;> intro _
    | with_reducible apply Steps.ite_fst <;> intro _
    | with_reducible exact Steps.refl _ _
    | with_reducible assumption
    | with_reducible apply State.injectReq_steps
    | with_reducible apply State.modLad_steps
    | with_reducible apply State.modMaster_steps
    | with_reducible apply State.modTap_steps
    | with_reducible refine Steps.foldl _ _ (fun u a h => ?_) ?_
    | with_reducible refine Steps.of_fst ?_ (by assumption)
    | with_reducible exact fun _ h => h
    | decide +kernel
    | split
    | dsimp only)

theorem State.busResponse_steps {parts : List Component} {s0 : State} {s : State} {k : Pkt}
    (h0 : Steps parts s0 s) (hsub : ∀ p ∈ [Component.lad], p ∈ parts) : Steps parts s0 (State.busResponse s k) := by
  refine Steps.via (ps := parts) (qs := [Component.lad]) h0 ?_ hsub
  clear h0 hsub
  unfold State.busResponse
  try dsimp only
  repeat' (first
    | with_reducible apply Steps.ite <;> intro _
    | with_reducible exact Steps.refl _ _
    | with_reducible assumption
    | with_reducible apply State.modLad_steps
    | with_reducible refine Steps.foldl _ _ (fun u a h => ?_) ?_
    | with_reducible exact fun _ h => h
    | decide +kernel
    | split
    | dsimp only)

theorem authByte_steps {parts : List Component} {s0 : State} {s : State} {data : BitVec 8}
    (h0 : Steps parts s0 s) (hsub : ∀ p ∈ [Component.lad], p ∈ parts) : Steps parts s0 (authByte s data) := by
  refine Steps.via (ps := parts) (qs := [Component.lad]) h0 ?_ hsub
  clear h0 hsub
  unfold authByte
  try dsimp only
  repeat' (first
    | with_reducible apply Steps.ite <;> intro _
    | with_reducible exact Steps.refl _ _
    | with_reducible assumption
    | with_reducible apply State.modLad_steps
    | with_reducible apply State.modTap_steps
    | with_reducible refine Steps.foldl _ _ (fun u a h => ?_) ?_
    | with_reducible exact fun _ h => h
    | decide +kernel
    | split
    | dsimp only)

theorem authVerifyDone_steps {parts : List Component} {s0 : State} {s : State}
    (h0 : Steps parts s0 s) (hsub : ∀ p ∈ [Component.lad], p ∈ parts) : Steps parts s0 (authVerifyDone s) := by
  refine Steps.via (ps := parts) (qs := [Component.lad]) h0 ?_ hsub
  clear h0 hsub
  unfold authVerifyDone
  try dsimp only
  repeat' (first
    | with_reducible apply Steps.ite <;> intro _
    | with_reducible exact Steps.refl _ _
    | with_reducible assumption
    | with_reducible apply State.modLad_steps
    | with_reducible refine Steps.foldl _ _ (fun u a h => ?_) ?_
    | with_reducible exact fun _ h => h
    | decide +kernel
    | split
    | dsimp only)

theorem State.ldFclkStop_steps {parts : List Component} {s0 : State} {s : State} {d v : Nat}
    (h0 : Steps parts s0 s) (hsub : ∀ p ∈ [Component.clk, .lad], p ∈ parts) : Steps parts s0 (State.ldFclkStop s d v) := by
  refine Steps.via (ps := parts) (qs := [Component.clk, .lad]) h0 ?_ hsub
  clear h0 hsub
  unfold State.ldFclkStop
  try dsimp only
  repeat' (first
    | with_reducible apply Steps.ite <;> intro _
    | with_reducible exact Steps.refl _ _
    | with_reducible assumption
    | with_reducible apply State.modLad_steps
    | with_reducible apply State.modNode_steps
    | with_reducible refine Steps.foldl _ _ (fun u a h => ?_) ?_
    | with_reducible exact fun _ h => h
    | decide +kernel
    | split
    | dsimp only)

theorem State.ldFclkStep_steps {parts : List Component} {s0 : State} {s : State} {v : Nat}
    (h0 : Steps parts s0 s) (hsub : ∀ p ∈ [Component.lad], p ∈ parts) : StepsO parts s0 (State.ldFclkStep s v) := by
  refine StepsO.via (ps := parts) (qs := [Component.lad]) h0 ?_ hsub
  clear h0 hsub
  unfold State.ldFclkStep
  try dsimp only
  repeat' (first
    | with_reducible apply Steps.ite <;> intro _
    | with_reducible exact Steps.refl _ _
    | with_reducible assumption
    | with_reducible apply State.modLad_steps
    | with_reducible apply StepsO.ite <;> intro _
    | with_reducible exact StepsO.none
    | with_reducible apply StepsO.some
    | with_reducible refine StepsO.map ?_ (fun u hu => ?_)
    | with_reducible refine StepsO.bind ?_ (fun u hu => ?_)
    | with_reducible refine Steps.foldl _ _ (fun u a h => ?_) ?_
    | with_reducible refine Steps.of_some ?_ (by assumption)
    | with_reducible exact fun _ h => h
    | decide +kernel
    | split
    | dsimp only)

theorem State.ldSlgFreeze_steps {parts : List Component} {s0 : State} {s : State} {d w v : Nat}
    (h0 : Steps parts s0 s) (hsub : ∀ p ∈ [Component.dies, .lad], p ∈ parts) : Steps parts s0 (State.ldSlgFreeze s d w v) := by
  refine Steps.via (ps := parts) (qs := [Component.dies, .lad]) h0 ?_ hsub
  clear h0 hsub
  unfold State.ldSlgFreeze
  try dsimp only
  repeat' (first
    | with_reducible apply Steps.ite <;> intro _
    | with_reducible exact Steps.refl _ _
    | with_reducible assumption
    | with_reducible apply State.modGroup_steps
    | with_reducible apply State.modLad_steps
    | with_reducible apply State.unfreeze_steps
    | with_reducible refine Steps.foldl _ _ (fun u a h => ?_) ?_
    | with_reducible exact fun _ h => h
    | decide +kernel
    | split
    | dsimp only)

theorem State.applyHeld_steps {parts : List Component} {s0 : State} {s : State} {d g : Nat}
    (h0 : Steps parts s0 s) (hsub : ∀ p ∈ [Component.dies, .lad], p ∈ parts) : Steps parts s0 (State.applyHeld s d g) := by
  refine Steps.via (ps := parts) (qs := [Component.dies, .lad]) h0 ?_ hsub
  clear h0 hsub
  unfold State.applyHeld
  try dsimp only
  repeat' (first
    | with_reducible apply Steps.ite <;> intro _
    | with_reducible exact Steps.refl _ _
    | with_reducible assumption
    | with_reducible apply State.modLad_steps
    | with_reducible apply State.slHeld_steps
    | with_reducible refine Steps.foldl _ _ (fun u a h => ?_) ?_
    | with_reducible exact fun _ h => h
    | decide +kernel
    | split
    | dsimp only)

theorem State.ldSlgStep_steps {parts : List Component} {s0 : State} {s : State} {v : Nat}
    (h0 : Steps parts s0 s) (hsub : ∀ p ∈ [Component.dies, .lad], p ∈ parts) : StepsO parts s0 (State.ldSlgStep s v) := by
  refine StepsO.via (ps := parts) (qs := [Component.dies, .lad]) h0 ?_ hsub
  clear h0 hsub
  unfold State.ldSlgStep
  try dsimp only
  repeat' (first
    | with_reducible apply Steps.ite <;> intro _
    | with_reducible exact Steps.refl _ _
    | with_reducible assumption
    | with_reducible apply State.applyHeld_steps
    | with_reducible apply State.modLad_steps
    | with_reducible apply StepsO.ite <;> intro _
    | with_reducible exact StepsO.none
    | with_reducible apply StepsO.some
    | with_reducible refine StepsO.map ?_ (fun u hu => ?_)
    | with_reducible refine StepsO.bind ?_ (fun u hu => ?_)
    | with_reducible refine Steps.foldl _ _ (fun u a h => ?_) ?_
    | with_reducible refine Steps.of_some ?_ (by assumption)
    | with_reducible exact fun _ h => h
    | decide +kernel
    | split
    | dsimp only)

theorem State.ldCapCtrl_steps {parts : List Component} {s0 : State} {s : State} {v : Nat}
    (h0 : Steps parts s0 s) (hsub : ∀ p ∈ [Component.lad], p ∈ parts) : Steps parts s0 (State.ldCapCtrl s v) := by
  refine Steps.via (ps := parts) (qs := [Component.lad]) h0 ?_ hsub
  clear h0 hsub
  unfold State.ldCapCtrl
  try dsimp only
  repeat' (first
    | with_reducible apply Steps.ite <;> intro _
    | with_reducible exact Steps.refl _ _
    | with_reducible assumption
    | with_reducible apply State.modLad_steps
    | with_reducible refine Steps.foldl _ _ (fun u a h => ?_) ?_
    | with_reducible exact fun _ h => h
    | decide +kernel
    | split
    | dsimp only)

theorem State.gableHalt_steps {parts : List Component} {s0 : State} {s : State}
    (h0 : Steps parts s0 s) (hsub : ∀ p ∈ [Component.free, .gable, .evr], p ∈ parts) : Steps parts s0 (State.gableHalt s) := by
  refine Steps.via (ps := parts) (qs := [Component.free, .gable, .evr]) h0 ?_ hsub
  clear h0 hsub
  unfold State.gableHalt
  try dsimp only
  repeat' (first
    | with_reducible apply Steps.ite <;> intro _
    | with_reducible exact Steps.refl _ _
    | with_reducible assumption
    | with_reducible apply State.drew_steps
    | with_reducible apply State.haltNow_steps
    | with_reducible apply State.modGable_steps
    | with_reducible refine Steps.foldl _ _ (fun u a h => ?_) ?_
    | with_reducible exact fun _ h => h
    | decide +kernel
    | split
    | dsimp only)

theorem State.gableStep_steps {parts : List Component} {s0 : State} {s : State}
    (h0 : Steps parts s0 s) (hsub : ∀ p ∈ [Component.free, .gable], p ∈ parts) : Steps parts s0 (State.gableStep s) := by
  refine Steps.via (ps := parts) (qs := [Component.free, .gable]) h0 ?_ hsub
  clear h0 hsub
  unfold State.gableStep
  try dsimp only
  repeat' (first
    | with_reducible apply Steps.ite <;> intro _
    | with_reducible exact Steps.refl _ _
    | with_reducible assumption
    | with_reducible apply State.freeCore_steps
    | with_reducible apply State.modGable_steps
    | with_reducible refine Steps.foldl _ _ (fun u a h => ?_) ?_
    | with_reducible exact fun _ h => h
    | decide +kernel
    | split
    | dsimp only)

theorem State.ldGableCtrl_steps {parts : List Component} {s0 : State} {s : State} {v : Nat}
    (h0 : Steps parts s0 s) (hsub : ∀ p ∈ [Component.free, .dies, .routers, .gable, .log, .evr], p ∈ parts) : Steps parts s0 (State.ldGableCtrl s v) := by
  refine Steps.via (ps := parts) (qs := [Component.free, .dies, .routers, .gable, .log, .evr]) h0 ?_ hsub
  clear h0 hsub
  unfold State.ldGableCtrl
  try dsimp only
  repeat' (first
    | with_reducible apply Steps.ite <;> intro _
    | with_reducible exact Steps.refl _ _
    | with_reducible assumption
    | with_reducible apply State.gableHalt_steps
    | with_reducible apply State.gableRun_steps
    | with_reducible apply State.gableStep_steps
    | with_reducible refine Steps.foldl _ _ (fun u a h => ?_) ?_
    | with_reducible exact fun _ h => h
    | decide +kernel
    | split
    | dsimp only)

theorem gableHaltForced_steps {parts : List Component} {s0 : State} {s : State}
    (h0 : Steps parts s0 s) (hsub : ∀ p ∈ [Component.free, .gable, .evr], p ∈ parts) : Steps parts s0 (gableHaltForced s) := by
  refine Steps.via (ps := parts) (qs := [Component.free, .gable, .evr]) h0 ?_ hsub
  clear h0 hsub
  unfold gableHaltForced
  try dsimp only
  repeat' (first
    | with_reducible apply Steps.ite <;> intro _
    | with_reducible exact Steps.refl _ _
    | with_reducible assumption
    | with_reducible apply State.drew_steps
    | with_reducible apply State.haltNow_steps
    | with_reducible refine Steps.foldl _ _ (fun u a h => ?_) ?_
    | with_reducible exact fun _ h => h
    | decide +kernel
    | split
    | dsimp only)

theorem State.ladPut_steps {parts : List Component} {s0 : State} {s : State} {src : BitVec 12} {off v : Nat}
    (h0 : Steps parts s0 s) (hsub : ∀ p ∈ [Component.free, .dies, .routers, .gable, .clk, .log, .evr, .lad], p ∈ parts) : Steps parts s0 (State.ladPut s src off v).1 := by
  refine Steps.via (ps := parts) (qs := [Component.free, .dies, .routers, .gable, .clk, .log, .evr, .lad]) h0 ?_ hsub
  clear h0 hsub
  unfold State.ladPut
  try dsimp only
  repeat' (first
    | with_reducible apply Steps.ite <;> intro _
    | with_reducible apply Steps.ite_fst <;> intro _
    | with_reducible exact Steps.refl _ _
    | with_reducible assumption
    | with_reducible apply State.ldCapCtrl_steps
    | with_reducible apply State.ldFclkStop_steps
    | with_reducible apply State.ldGableCtrl_steps
    | with_reducible apply State.ldSlgFreeze_steps
    | with_reducible apply State.modGable_steps
    | with_reducible apply State.modLad_steps
    | with_reducible apply StepsO.ite <;> intro _
    | with_reducible exact StepsO.none
    | with_reducible apply StepsO.some
    | with_reducible refine StepsO.map ?_ (fun u hu => ?_)
    | with_reducible refine StepsO.bind ?_ (fun u hu => ?_)
    | with_reducible apply State.ldFclkStep_steps
    | with_reducible apply State.ldSlgStep_steps
    | with_reducible refine Steps.foldl _ _ (fun u a h => ?_) ?_
    | with_reducible refine Steps.of_fst ?_ (by assumption)
    | with_reducible refine Steps.of_some ?_ (by assumption)
    | with_reducible exact fun _ h => h
    | decide +kernel
    | split
    | dsimp only)

theorem ladReg_steps {parts : List Component} {s0 : State} {w : Who} {s : State} {off : Nat} {write eight : Bool} {v : Nat}
    (h0 : Steps parts s0 s) (hsub : ∀ p ∈ [Component.free, .dies, .routers, .gable, .clk, .log, .evr, .lad], p ∈ parts) : Steps parts s0 (ladReg w s off write eight v).1 := by
  refine Steps.via (ps := parts) (qs := [Component.free, .dies, .routers, .gable, .clk, .log, .evr, .lad]) h0 ?_ hsub
  clear h0 hsub
  unfold ladReg
  try dsimp only
  repeat' (first
    | with_reducible apply Steps.ite <;> intro _
    | with_reducible apply Steps.ite_fst <;> intro _
    | with_reducible exact Steps.refl _ _
    | with_reducible assumption
    | with_reducible apply State.drew_steps
    | with_reducible apply State.ladPut_steps
    | with_reducible apply regErr_steps
    | with_reducible apply regOk_steps
    | with_reducible refine Steps.foldl _ _ (fun u a h => ?_) ?_
    | with_reducible refine Steps.of_fst ?_ (by assumption)
    | with_reducible exact fun _ h => h
    | decide +kernel
    | split
    | dsimp only)

theorem State.countRepair_steps {parts : List Component} {s0 : State} {s : State} {k n spare : Nat} {transmit : Bool}
    (h0 : Steps parts s0 s) (hsub : ∀ p ∈ [Component.links, .log], p ∈ parts) : Steps parts s0 (State.countRepair s k n spare transmit) := by
  refine Steps.via (ps := parts) (qs := [Component.links, .log]) h0 ?_ hsub
  clear h0 hsub
  unfold State.countRepair
  try dsimp only
  repeat' (first
    | with_reducible apply Steps.ite <;> intro _
    | with_reducible exact Steps.refl _ _
    | with_reducible assumption
    | with_reducible apply State.logNote_steps
    | with_reducible apply State.modLink_steps
    | with_reducible refine Steps.foldl _ _ (fun u a h => ?_) ?_
    | with_reducible exact fun _ h => h
    | decide +kernel
    | split
    | dsimp only)

theorem State.sendRpa_steps {parts : List Component} {s0 : State} {s : State} {k n spare : Nat}
    (h0 : Steps parts s0 s) (hsub : ∀ p ∈ [Component.lanesets], p ∈ parts) : Steps parts s0 (State.sendRpa s k n spare) := by
  refine Steps.via (ps := parts) (qs := [Component.lanesets]) h0 ?_ hsub
  clear h0 hsub
  unfold State.sendRpa
  try dsimp only
  repeat' (first
    | with_reducible apply Steps.ite <;> intro _
    | with_reducible exact Steps.refl _ _
    | with_reducible assumption
    | with_reducible apply State.sendSet_steps
    | with_reducible refine Steps.foldl _ _ (fun u a h => ?_) ?_
    | with_reducible exact fun _ h => h
    | decide +kernel
    | split
    | dsimp only)

theorem State.rprReceive_steps {parts : List Component} {s0 : State} {s : State} {k n spare : Nat}
    (h0 : Steps parts s0 s) (hsub : ∀ p ∈ [Component.lanesets, .links, .log], p ∈ parts) : Steps parts s0 (State.rprReceive s k n spare) := by
  refine Steps.via (ps := parts) (qs := [Component.lanesets, .links, .log]) h0 ?_ hsub
  clear h0 hsub
  unfold State.rprReceive
  try dsimp only
  repeat' (first
    | with_reducible apply Steps.ite <;> intro _
    | with_reducible exact Steps.refl _ _
    | with_reducible assumption
    | with_reducible apply State.countRepair_steps
    | with_reducible apply State.modLink_steps
    | with_reducible apply State.sendRpa_steps
    | with_reducible refine Steps.foldl _ _ (fun u a h => ?_) ?_
    | with_reducible exact fun _ h => h
    | decide +kernel
    | split
    | dsimp only)

theorem State.delayStale_steps {parts : List Component} {s0 : State} {s : State} {k : Nat}
    (h0 : Steps parts s0 s) (hsub : ∀ p ∈ [Component.links, .times], p ∈ parts) : Steps parts s0 (State.delayStale s k) := by
  refine Steps.via (ps := parts) (qs := [Component.links, .times]) h0 ?_ hsub
  clear h0 hsub
  unfold State.delayStale
  try dsimp only
  repeat' (first
    | with_reducible apply Steps.ite <;> intro _
    | with_reducible exact Steps.refl _ _
    | with_reducible assumption
    | with_reducible apply State.modLink_steps
    | with_reducible apply State.remeasure_steps
    | with_reducible refine Steps.foldl _ _ (fun u a h => ?_) ?_
    | with_reducible exact fun _ h => h
    | decide +kernel
    | split
    | dsimp only)

end Sys2Proof.Machine
end

