-- ==== Sys2Proof/Laws/Steps5.lean ====
section
/-! SUPPORT. Part 5 of the step lemmas: for each operation of the machine, which components of State it may change, and that it keeps
    every table's canonical form. Each lemma cites those of the operations it calls; none unfolds a callee. -/

open Sys2Proof
namespace Sys2Proof.Machine

set_option linter.all false
set_option Elab.async false

theorem State.rpaReceive_steps {parts : List Component} {s0 : State} {s : State} {k n spare : Nat}
    (h0 : Steps parts s0 s) (hsub : ∀ p ∈ [Component.routers, .masters, .flows, .lanesets, .links, .guests, .linkKeys, .times, .tb, .dram, .gable, .clk, .log, .evr], p ∈ parts) : Steps parts s0 (State.rpaReceive s k n spare) := by
  refine Steps.via (ps := parts) (qs := [Component.routers, .masters, .flows, .lanesets, .links, .guests, .linkKeys, .times, .tb, .dram, .gable, .clk, .log, .evr]) h0 ?_ hsub
  clear h0 hsub
  unfold State.rpaReceive
  try dsimp only
  repeat' (first
    | with_reducible apply Steps.ite <;> intro _
    | with_reducible exact Steps.refl _ _
    | with_reducible assumption
    | with_reducible apply State.countRepair_steps
    | with_reducible apply State.delayStale_steps
    | with_reducible apply State.modLink_steps
    | with_reducible apply State.startRepair_steps
    | with_reducible refine Steps.foldl _ _ (fun u a h => ?_) ?_
    | with_reducible exact fun _ h => h
    | decide +kernel
    | split
    | dsimp only)

theorem State.checkerHit_steps {parts : List Component} {s0 : State} {s : State} {k n : Nat}
    (h0 : Steps parts s0 s) (hsub : ∀ p ∈ [Component.lanesets], p ∈ parts) : Steps parts s0 (State.checkerHit s k n) := by
  refine Steps.via (ps := parts) (qs := [Component.lanesets]) h0 ?_ hsub
  clear h0 hsub
  unfold State.checkerHit
  try dsimp only
  repeat' (first
    | with_reducible apply Steps.ite <;> intro _
    | with_reducible exact Steps.refl _ _
    | with_reducible assumption
    | with_reducible apply State.modLane_steps
    | with_reducible refine Steps.foldl _ _ (fun u a h => ?_) ?_
    | with_reducible exact fun _ h => h
    | decide +kernel
    | split
    | dsimp only)

theorem State.flipSeen_steps {parts : List Component} {s0 : State} {s : State} {k n : Nat}
    (h0 : Steps parts s0 s) (hsub : ∀ p ∈ [Component.routers, .masters, .flows, .lanesets, .links, .guests, .linkKeys, .tb, .dram, .gable, .clk, .log, .evr], p ∈ parts) : Steps parts s0 (State.flipSeen s k n) := by
  refine Steps.via (ps := parts) (qs := [Component.routers, .masters, .flows, .lanesets, .links, .guests, .linkKeys, .tb, .dram, .gable, .clk, .log, .evr]) h0 ?_ hsub
  clear h0 hsub
  unfold State.flipSeen
  try dsimp only
  repeat' (first
    | with_reducible apply Steps.ite <;> intro _
    | with_reducible exact Steps.refl _ _
    | with_reducible assumption
    | with_reducible apply State.checkerHit_steps
    | with_reducible apply symbolError_steps
    | with_reducible refine Steps.foldl _ _ (fun u a h => ?_) ?_
    | with_reducible exact fun _ h => h
    | decide +kernel
    | split
    | dsimp only)

theorem State.flipBit_steps {parts : List Component} {s0 : State} {s : State} {k n : Nat}
    (h0 : Steps parts s0 s) (hsub : ∀ p ∈ [Component.routers, .masters, .flows, .lanesets, .links, .guests, .linkKeys, .tb, .dram, .gable, .clk, .log, .evr], p ∈ parts) : Steps parts s0 (State.flipBit s k n) := by
  refine Steps.via (ps := parts) (qs := [Component.routers, .masters, .flows, .lanesets, .links, .guests, .linkKeys, .tb, .dram, .gable, .clk, .log, .evr]) h0 ?_ hsub
  clear h0 hsub
  unfold State.flipBit
  try dsimp only
  repeat' (first
    | with_reducible apply Steps.ite <;> intro _
    | with_reducible exact Steps.refl _ _
    | with_reducible assumption
    | with_reducible apply State.flipSeen_steps
    | with_reducible apply State.modLane_steps
    | with_reducible refine Steps.foldl _ _ (fun u a h => ?_) ?_
    | with_reducible exact fun _ h => h
    | decide +kernel
    | split
    | dsimp only)

theorem laneDrift_steps {parts : List Component} {s0 : State} {s : State} {k n drift : Nat}
    (h0 : Steps parts s0 s) (hsub : ∀ p ∈ [Component.routers, .masters, .flows, .lanesets, .links, .guests, .linkKeys, .tb, .dram, .gable, .clk, .log, .evr], p ∈ parts) : Steps parts s0 (laneDrift s k n drift) := by
  refine Steps.via (ps := parts) (qs := [Component.routers, .masters, .flows, .lanesets, .links, .guests, .linkKeys, .tb, .dram, .gable, .clk, .log, .evr]) h0 ?_ hsub
  clear h0 hsub
  unfold laneDrift
  try dsimp only
  repeat' (first
    | with_reducible apply Steps.ite <;> intro _
    | with_reducible exact Steps.refl _ _
    | with_reducible assumption
    | with_reducible apply State.laneFaultOf_steps
    | with_reducible apply State.modLane_steps
    | with_reducible refine Steps.foldl _ _ (fun u a h => ?_) ?_
    | with_reducible exact fun _ h => h
    | decide +kernel
    | split
    | dsimp only)

theorem lp1Exit_steps {parts : List Component} {s0 : State} {s : State} {k : Nat} {missed : List Nat}
    (h0 : Steps parts s0 s) (hsub : ∀ p ∈ [Component.routers, .masters, .flows, .lanesets, .links, .guests, .linkKeys, .tb, .dram, .gable, .clk, .log, .evr], p ∈ parts) : Steps parts s0 (lp1Exit s k missed) := by
  refine Steps.via (ps := parts) (qs := [Component.routers, .masters, .flows, .lanesets, .links, .guests, .linkKeys, .tb, .dram, .gable, .clk, .log, .evr]) h0 ?_ hsub
  clear h0 hsub
  unfold lp1Exit
  try dsimp only
  repeat' (first
    | with_reducible apply Steps.ite <;> intro _
    | with_reducible exact Steps.refl _ _
    | with_reducible assumption
    | with_reducible apply State.loseLane_steps
    | with_reducible apply State.modLaneset_steps
    | with_reducible apply State.wakeTx_steps
    | with_reducible refine Steps.foldl _ _ (fun u a h => ?_) ?_
    | with_reducible exact fun _ h => h
    | decide +kernel
    | split
    | dsimp only)

theorem State.heldWake_steps {parts : List Component} {s0 : State} {s : State} {k : Nat}
    (h0 : Steps parts s0 s) (hsub : ∀ p ∈ [Component.lanesets], p ∈ parts) : Steps parts s0 (State.heldWake s k) := by
  refine Steps.via (ps := parts) (qs := [Component.lanesets]) h0 ?_ hsub
  clear h0 hsub
  unfold State.heldWake
  try dsimp only
  repeat' (first
    | with_reducible apply Steps.ite <;> intro _
    | with_reducible exact Steps.refl _ _
    | with_reducible assumption
    | with_reducible apply State.beginLp2Exit_steps
    | with_reducible refine Steps.foldl _ _ (fun u a h => ?_) ?_
    | with_reducible exact fun _ h => h
    | decide +kernel
    | split
    | dsimp only)

theorem State.enterLp2_steps {parts : List Component} {s0 : State} {s : State} {k : Nat}
    (h0 : Steps parts s0 s) (hsub : ∀ p ∈ [Component.lanesets, .tb], p ∈ parts) : Steps parts s0 (State.enterLp2 s k) := by
  refine Steps.via (ps := parts) (qs := [Component.lanesets, .tb]) h0 ?_ hsub
  clear h0 hsub
  unfold State.enterLp2
  try dsimp only
  repeat' (first
    | with_reducible apply Steps.ite <;> intro _
    | with_reducible exact Steps.refl _ _
    | with_reducible assumption
    | with_reducible apply State.heldWake_steps
    | with_reducible apply State.laneClockStops_steps
    | with_reducible apply State.modLaneset_steps
    | with_reducible refine Steps.foldl _ _ (fun u a h => ?_) ?_
    | with_reducible exact fun _ h => h
    | decide +kernel
    | split
    | dsimp only)

theorem State.streamSent_steps {parts : List Component} {s0 : State} {s : State} {k n typ : Nat}
    (h0 : Steps parts s0 s) (hsub : ∀ p ∈ [Component.lanesets], p ∈ parts) : Steps parts s0 (State.streamSent s k n typ) := by
  refine Steps.via (ps := parts) (qs := [Component.lanesets]) h0 ?_ hsub
  clear h0 hsub
  unfold State.streamSent
  try dsimp only
  repeat' (first
    | with_reducible apply Steps.ite <;> intro _
    | with_reducible exact Steps.refl _ _
    | with_reducible assumption
    | with_reducible apply State.modLane_steps
    | with_reducible apply State.modLaneset_steps
    | with_reducible refine Steps.foldl _ _ (fun u a h => ?_) ?_
    | with_reducible exact fun _ h => h
    | decide +kernel
    | split
    | dsimp only)

theorem State.takeSet_steps {ps : List Component} {s0 s u : State} {k n : Nat} {y : List (BitVec 8)} (h : Steps ps s0 s)
    (sub : ∀ p ∈ [Component.lanesets], p ∈ ps) (e : s.takeSet k n = some (u, y)) : Steps ps s0 u := by
  unfold State.takeSet at e
  dsimp only at e
  split at e
  · cases e
    exact State.modLane_steps (State.modLaneset_steps h sub) sub
  · split at e
    · cases e
      exact State.streamSent_steps h sub
    · cases e

theorem State.streamOut_steps {parts : List Component} {s0 : State} {s : State} {k n : Nat}
    (h0 : Steps parts s0 s) (hsub : ∀ p ∈ [Component.lanesets], p ∈ parts) : Steps parts s0 (State.streamOut s k n) := by
  refine Steps.via (ps := parts) (qs := [Component.lanesets]) h0 ?_ hsub
  clear h0 hsub
  unfold State.streamOut
  try dsimp only
  repeat' (first
    | with_reducible apply Steps.ite <;> intro _
    | with_reducible exact Steps.refl _ _
    | with_reducible assumption
    | with_reducible apply State.modLane_steps
    | with_reducible apply State.streamSent_steps
    | with_reducible refine Steps.foldl _ _ (fun u a h => ?_) ?_
    | with_reducible exact fun _ h => h
    | decide +kernel
    | split
    | dsimp only)

theorem State.receivedSet_steps {ps : List Component} {s0 s u : State} {k n : Nat} {gs : Option (List (BitVec 10))}
    {y : Option (List (BitVec 8))} (h : Steps ps s0 s)
    (sub : ∀ p ∈ [Component.routers, .masters, .flows, .lanesets, .links, .guests, .linkKeys, .tb, .dram, .gable, .clk, .log, .evr], p ∈ ps) (e : s.receivedSet k n gs = some (u, y)) : Steps ps s0 u := by
  have hl : ∀ p ∈ [Component.lanesets], p ∈ ps := fun p hp => sub p (by simp_all)
  unfold State.receivedSet at e
  split at e
  · obtain ⟨r, er, e⟩ := Option.map_eq_some_iff.mp e
    cases e
    exact State.takeSet_steps h hl er
  · cases e
  · cases e
    refine State.rxSyms_steps ?_ sub
    have h1 : ∀ (g : List (BitVec 10)) (w : State), Steps ps s0 w → Steps ps s0 (if (w.laneset k).state = .train ∨ (w.laneset k).state = .lock then
        w.modLane k n fun l => l.setFlag fPolinv (polarity g (l.flag fPolinv)) else w) :=
      fun g w hw => Steps.ite (fun _ => State.modLane_steps hw hl) fun _ => hw
    refine h1 _ _ ?_
    split
    · split
      · exact State.takeSet_steps h hl (by assumption)
      · exact h
    · exact h

theorem State.tsbOnWay_steps {parts : List Component} {s0 : State} {s : State} {k : Nat}
    (h0 : Steps parts s0 s) (hsub : ∀ p ∈ [Component.lanesets], p ∈ parts) : Steps parts s0 (State.tsbOnWay s k) := by
  refine Steps.via (ps := parts) (qs := [Component.lanesets]) h0 ?_ hsub
  clear h0 hsub
  unfold State.tsbOnWay
  try dsimp only
  repeat' (first
    | with_reducible apply Steps.ite <;> intro _
    | with_reducible exact Steps.refl _ _
    | with_reducible assumption
    | with_reducible apply State.sendSet_steps
    | with_reducible refine Steps.foldl _ _ (fun u a h => ?_) ?_
    | with_reducible exact fun _ h => h
    | decide +kernel
    | split
    | dsimp only)

theorem State.setInLock_steps {parts : List Component} {s0 : State} {s : State} {k n : Nat} {y : List (BitVec 8)} {boundary : Bool} {skew : Nat}
    (h0 : Steps parts s0 s) (hsub : ∀ p ∈ [Component.free, .routers, .masters, .flows, .lanesets, .links, .guests, .linkKeys, .tb, .dram, .gable, .clk, .log, .evr], p ∈ parts) : Steps parts s0 (State.setInLock s k n y boundary skew) := by
  refine Steps.via (ps := parts) (qs := [Component.free, .routers, .masters, .flows, .lanesets, .links, .guests, .linkKeys, .tb, .dram, .gable, .clk, .log, .evr]) h0 ?_ hsub
  clear h0 hsub
  unfold State.setInLock
  try dsimp only
  repeat' (first
    | with_reducible apply Steps.ite <;> intro _
    | with_reducible exact Steps.refl _ _
    | with_reducible assumption
    | with_reducible apply State.drew_steps
    | with_reducible apply State.laneFaultOf_steps
    | with_reducible apply State.modLane_steps
    | with_reducible apply State.modLaneset_steps
    | with_reducible apply State.tsbOnWay_steps
    | with_reducible refine Steps.foldl _ _ (fun u a h => ?_) ?_
    | with_reducible exact fun _ h => h
    | decide +kernel
    | split
    | dsimp only)

theorem State.enterActive_steps {parts : List Component} {s0 : State} {s : State} {k : Nat}
    (h0 : Steps parts s0 s) (hsub : ∀ p ∈ [Component.routers, .masters, .flows, .lanesets, .links, .guests, .linkKeys, .tb, .dram, .gable, .clk, .log, .evr], p ∈ parts) : Steps parts s0 (State.enterActive s k) := by
  refine Steps.via (ps := parts) (qs := [Component.routers, .masters, .flows, .lanesets, .links, .guests, .linkKeys, .tb, .dram, .gable, .clk, .log, .evr]) h0 ?_ hsub
  clear h0 hsub
  unfold State.enterActive
  try dsimp only
  repeat' (first
    | with_reducible apply Steps.ite <;> intro _
    | with_reducible exact Steps.refl _ _
    | with_reducible assumption
    | with_reducible apply State.completeOpt_steps
    | with_reducible apply State.laneFault_steps
    | with_reducible apply State.modLaneset_steps
    | with_reducible apply State.modLink_steps
    | with_reducible apply State.modLinkKey_steps
    | with_reducible apply State.recheckFlows_steps
    | with_reducible refine Steps.foldl _ _ (fun u a h => ?_) ?_
    | with_reducible exact fun _ h => h
    | decide +kernel
    | split
    | dsimp only)

theorem State.capsDone_steps {parts : List Component} {s0 : State} {s : State} {k : Nat}
    (h0 : Steps parts s0 s) (hsub : ∀ p ∈ [Component.routers, .masters, .flows, .lanesets, .links, .guests, .linkKeys, .tb, .dram, .gable, .clk, .log, .evr], p ∈ parts) : Steps parts s0 (State.capsDone s k) := by
  refine Steps.via (ps := parts) (qs := [Component.routers, .masters, .flows, .lanesets, .links, .guests, .linkKeys, .tb, .dram, .gable, .clk, .log, .evr]) h0 ?_ hsub
  clear h0 hsub
  unfold State.capsDone
  try dsimp only
  repeat' (first
    | with_reducible apply Steps.ite <;> intro _
    | with_reducible exact Steps.refl _ _
    | with_reducible assumption
    | with_reducible apply State.enterActive_steps
    | with_reducible refine Steps.foldl _ _ (fun u a h => ?_) ?_
    | with_reducible exact fun _ h => h
    | decide +kernel
    | split
    | dsimp only)

theorem State.setInCaps_steps {parts : List Component} {s0 : State} {s : State} {k n : Nat} {y : List (BitVec 8)}
    (h0 : Steps parts s0 s) (hsub : ∀ p ∈ [Component.routers, .masters, .flows, .lanesets, .links, .guests, .linkKeys, .tb, .dram, .gable, .clk, .log, .evr], p ∈ parts) : Steps parts s0 (State.setInCaps s k n y) := by
  refine Steps.via (ps := parts) (qs := [Component.routers, .masters, .flows, .lanesets, .links, .guests, .linkKeys, .tb, .dram, .gable, .clk, .log, .evr]) h0 ?_ hsub
  clear h0 hsub
  unfold State.setInCaps
  try dsimp only
  repeat' (first
    | with_reducible apply Steps.ite <;> intro _
    | with_reducible exact Steps.refl _ _
    | with_reducible assumption
    | with_reducible apply State.laneFault_steps
    | with_reducible apply State.modLaneset_steps
    | with_reducible refine Steps.foldl _ _ (fun u a h => ?_) ?_
    | with_reducible exact fun _ h => h
    | decide +kernel
    | split
    | dsimp only)

theorem State.tsbInLp2_steps {parts : List Component} {s0 : State} {s : State} {k n : Nat} {boundary : Bool}
    (h0 : Steps parts s0 s) (hsub : ∀ p ∈ [Component.free, .lanesets, .links, .times, .clk], p ∈ parts) : Steps parts s0 (State.tsbInLp2 s k n boundary) := by
  refine Steps.via (ps := parts) (qs := [Component.free, .lanesets, .links, .times, .clk]) h0 ?_ hsub
  clear h0 hsub
  unfold State.tsbInLp2
  try dsimp only
  repeat' (first
    | with_reducible apply Steps.ite <;> intro _
    | with_reducible exact Steps.refl _ _
    | with_reducible assumption
    | with_reducible apply State.beginLp2Exit_steps
    | with_reducible apply State.delayStale_steps
    | with_reducible apply State.drew_steps
    | with_reducible apply State.laneWake_steps
    | with_reducible apply State.modLane_steps
    | with_reducible apply State.modLaneset_steps
    | with_reducible apply State.modLink_steps
    | with_reducible apply State.tsbOnWay_steps
    | with_reducible refine Steps.foldl _ _ (fun u a h => ?_) ?_
    | with_reducible exact fun _ h => h
    | decide +kernel
    | split
    | dsimp only)

theorem State.lqrReceive_steps {parts : List Component} {s0 : State} {s : State} {k : Nat}
    (h0 : Steps parts s0 s) (hsub : ∀ p ∈ [Component.lanesets, .links, .tb, .clk], p ∈ parts) : Steps parts s0 (State.lqrReceive s k) := by
  refine Steps.via (ps := parts) (qs := [Component.lanesets, .links, .tb, .clk]) h0 ?_ hsub
  clear h0 hsub
  unfold State.lqrReceive
  try dsimp only
  repeat' (first
    | with_reducible apply Steps.ite <;> intro _
    | with_reducible exact Steps.refl _ _
    | with_reducible assumption
    | with_reducible apply State.enterLp2_steps
    | with_reducible apply State.modLaneset_steps
    | with_reducible apply State.sendFour_steps
    | with_reducible apply State.wakeTx_steps
    | with_reducible refine Steps.foldl _ _ (fun u a h => ?_) ?_
    | with_reducible exact fun _ h => h
    | decide +kernel
    | split
    | dsimp only)

theorem State.raiseUncal_steps {parts : List Component} {s0 : State} {s : State} {d : Nat}
    (h0 : Steps parts s0 s) (hsub : ∀ p ∈ [Component.routers, .evr], p ∈ parts) : Steps parts s0 (State.raiseUncal s d) := by
  refine Steps.via (ps := parts) (qs := [Component.routers, .evr]) h0 ?_ hsub
  clear h0 hsub
  unfold State.raiseUncal
  try dsimp only
  repeat' (first
    | with_reducible apply Steps.ite <;> intro _
    | with_reducible exact Steps.refl _ _
    | with_reducible assumption
    | with_reducible apply State.raiseEvent_steps
    | with_reducible refine Steps.foldl _ _ (fun u a h => ?_) ?_
    | with_reducible exact fun _ h => h
    | decide +kernel
    | split
    | dsimp only)

theorem State.tosAligned_steps {parts : List Component} {s0 : State} {s : State} {d : Nat} {sec : BitVec 16} {frac : Nat} {k : Nat}
    (h0 : Steps parts s0 s) (hsub : ∀ p ∈ [Component.routers, .times, .evr], p ∈ parts) : Steps parts s0 (State.tosAligned s d sec frac k) := by
  refine Steps.via (ps := parts) (qs := [Component.routers, .times, .evr]) h0 ?_ hsub
  clear h0 hsub
  unfold State.tosAligned
  try dsimp only
  repeat' (first
    | with_reducible apply Steps.ite <;> intro _
    | with_reducible exact Steps.refl _ _
    | with_reducible assumption
    | with_reducible apply State.modMon_steps
    | with_reducible apply State.modTime_steps
    | with_reducible apply State.raiseUncal_steps
    | with_reducible apply State.tryMeasure_steps
    | with_reducible refine Steps.foldl _ _ (fun u a h => ?_) ?_
    | with_reducible exact fun _ h => h
    | decide +kernel
    | split
    | dsimp only)

theorem State.tosReceive_steps {parts : List Component} {s0 : State} {s : State} {k n : Nat} {sec : BitVec 16} {frac : Nat}
    (h0 : Steps parts s0 s) (hsub : ∀ p ∈ [Component.routers, .links, .times, .evr], p ∈ parts) : Steps parts s0 (State.tosReceive s k n sec frac) := by
  refine Steps.via (ps := parts) (qs := [Component.routers, .links, .times, .evr]) h0 ?_ hsub
  clear h0 hsub
  unfold State.tosReceive
  try dsimp only
  repeat' (first
    | with_reducible apply Steps.ite <;> intro _
    | with_reducible exact Steps.refl _ _
    | with_reducible assumption
    | with_reducible apply State.modLink_steps
    | with_reducible apply State.tosAligned_steps
    | with_reducible apply State.tryMeasure_steps
    | with_reducible refine Steps.foldl _ _ (fun u a h => ?_) ?_
    | with_reducible exact fun _ h => h
    | decide +kernel
    | split
    | dsimp only)

theorem State.linkSet_steps {parts : List Component} {s0 : State} {s : State} {k n typ : Nat} {p : List (BitVec 8)}
    (h0 : Steps parts s0 s) (hsub : ∀ p ∈ [Component.routers, .masters, .flows, .lanesets, .links, .guests, .linkKeys, .times, .tb, .dram, .gable, .clk, .log, .evr], p ∈ parts) : Steps parts s0 (State.linkSet s k n typ p) := by
  refine Steps.via (ps := parts) (qs := [Component.routers, .masters, .flows, .lanesets, .links, .guests, .linkKeys, .times, .tb, .dram, .gable, .clk, .log, .evr]) h0 ?_ hsub
  clear h0 hsub
  unfold State.linkSet
  try dsimp only
  repeat' (first
    | with_reducible apply Steps.ite <;> intro _
    | with_reducible exact Steps.refl _ _
    | with_reducible assumption
    | with_reducible apply State.rpaReceive_steps
    | with_reducible apply State.rprReceive_steps
    | with_reducible apply State.tosReceive_steps
    | with_reducible refine Steps.foldl _ _ (fun u a h => ?_) ?_
    | with_reducible exact fun _ h => h
    | decide +kernel
    | split
    | dsimp only)

theorem State.linkSetOn_steps {parts : List Component} {s0 : State} {s : State} {k n : Nat} {typ : Nat} {p : List (BitVec 8)}
    (h0 : Steps parts s0 s) (hsub : ∀ p ∈ [Component.routers, .masters, .flows, .lanesets, .links, .guests, .linkKeys, .times, .tb, .dram, .gable, .clk, .log, .evr], p ∈ parts) : Steps parts s0 (State.linkSetOn s k n typ p) := by
  refine Steps.via (ps := parts) (qs := [Component.routers, .masters, .flows, .lanesets, .links, .guests, .linkKeys, .times, .tb, .dram, .gable, .clk, .log, .evr]) h0 ?_ hsub
  clear h0 hsub
  unfold State.linkSetOn
  try dsimp only
  repeat' (first
    | with_reducible apply Steps.ite <;> intro _
    | with_reducible exact Steps.refl _ _
    | with_reducible assumption
    | with_reducible apply State.linkSet_steps
    | with_reducible apply State.modLink_steps
    | with_reducible refine Steps.foldl _ _ (fun u a h => ?_) ?_
    | with_reducible exact fun _ h => h
    | decide +kernel
    | split
    | dsimp only)

theorem State.setInActive_steps {parts : List Component} {s0 : State} {s : State} {k n : Nat} {y : List (BitVec 8)} {boundary : Bool}
    (h0 : Steps parts s0 s) (hsub : ∀ p ∈ [Component.free, .routers, .masters, .flows, .lanesets, .links, .guests, .linkKeys, .times, .tb, .dram, .gable, .clk, .log, .evr], p ∈ parts) : Steps parts s0 (State.setInActive s k n y boundary) := by
  refine Steps.via (ps := parts) (qs := [Component.free, .routers, .masters, .flows, .lanesets, .links, .guests, .linkKeys, .times, .tb, .dram, .gable, .clk, .log, .evr]) h0 ?_ hsub
  clear h0 hsub
  unfold State.setInActive
  try dsimp only
  repeat' (first
    | with_reducible apply Steps.ite <;> intro _
    | with_reducible exact Steps.refl _ _
    | with_reducible assumption
    | with_reducible apply State.enterLp2_steps
    | with_reducible apply State.laneClockStops_steps
    | with_reducible apply State.linkSetOn_steps
    | with_reducible apply State.lqrReceive_steps
    | with_reducible apply State.modLaneset_steps
    | with_reducible apply State.tsbInLp2_steps
    | with_reducible refine Steps.foldl _ _ (fun u a h => ?_) ?_
    | with_reducible exact fun _ h => h
    | decide +kernel
    | split
    | dsimp only)

theorem State.setActs_steps {parts : List Component} {s0 : State} {s : State} {k n : Nat} {y : List (BitVec 8)} {boundary : Bool} {skew : Nat}
    (h0 : Steps parts s0 s) (hsub : ∀ p ∈ [Component.free, .routers, .masters, .flows, .lanesets, .links, .guests, .linkKeys, .times, .tb, .dram, .gable, .clk, .log, .evr], p ∈ parts) : Steps parts s0 (State.setActs s k n y boundary skew) := by
  refine Steps.via (ps := parts) (qs := [Component.free, .routers, .masters, .flows, .lanesets, .links, .guests, .linkKeys, .times, .tb, .dram, .gable, .clk, .log, .evr]) h0 ?_ hsub
  clear h0 hsub
  unfold State.setActs
  try dsimp only
  repeat' (first
    | with_reducible apply Steps.ite <;> intro _
    | with_reducible exact Steps.refl _ _
    | with_reducible assumption
    | with_reducible apply State.modLane_steps
    | with_reducible apply State.setInActive_steps
    | with_reducible apply State.setInCaps_steps
    | with_reducible apply State.setInLock_steps
    | with_reducible refine Steps.foldl _ _ (fun u a h => ?_) ?_
    | with_reducible exact fun _ h => h
    | decide +kernel
    | split
    | dsimp only)

theorem orderedSet_steps {ps : List Component} {s0 s : State} {k n : Nat} {groups : Option (List (BitVec 10))} {boundary : Bool} {skew : Nat}
    (h : Steps ps s0 s) (sub : ∀ p ∈ [Component.free, .routers, .masters, .flows, .lanesets, .links, .guests, .linkKeys, .times, .tb, .dram, .gable, .clk, .log, .evr], p ∈ ps) : Steps ps s0 (orderedSet s k n groups boundary skew) := by
  unfold orderedSet
  refine Steps.ite (fun _ => h) fun _ => ?_
  split
  · exact h
  · rename_i s1 y e
    have h1 : Steps ps s0 s1 := State.receivedSet_steps h (fun p hp => sub p (by clear sub; revert p; decide)) e
    have h2 : Steps ps s0 (((s1.setActs k n (y.getD []) boundary skew).streamOut k n).capsDone k) :=
      State.capsDone_steps (State.streamOut_steps (State.setActs_steps h1 (fun p hp => sub p (by clear sub; revert p; decide))) (fun p hp => sub p (by clear sub; revert p; decide)))
        (fun p hp => sub p (by clear sub; revert p; decide))
    dsimp only
    split
    · exact State.capsDone_steps h2 (fun p hp => sub p (by clear sub; revert p; decide))
    · exact h2

theorem userLock_steps {parts : List Component} {s0 : State} {s : State} {k n : Nat} {inverted : Bool}
    (h0 : Steps parts s0 s) (hsub : ∀ p ∈ [Component.routers, .masters, .flows, .lanesets, .links, .guests, .linkKeys, .tb, .dram, .gable, .clk, .log, .evr], p ∈ parts) : Steps parts s0 (userLock s k n inverted) := by
  refine Steps.via (ps := parts) (qs := [Component.routers, .masters, .flows, .lanesets, .links, .guests, .linkKeys, .tb, .dram, .gable, .clk, .log, .evr]) h0 ?_ hsub
  clear h0 hsub
  unfold userLock
  try dsimp only
  repeat' (first
    | with_reducible apply Steps.ite <;> intro _
    | with_reducible exact Steps.refl _ _
    | with_reducible assumption
    | with_reducible apply State.enterActive_steps
    | with_reducible apply State.modLane_steps
    | with_reducible refine Steps.foldl _ _ (fun u a h => ?_) ?_
    | with_reducible exact fun _ h => h
    | decide +kernel
    | split
    | dsimp only)

theorem laneReg_steps {parts : List Component} {s0 : State} {s : State} {k n off : Nat} {eight : Bool}
    (h0 : Steps parts s0 s) (hsub : ∀ p ∈ [Component.free, .lanesets], p ∈ parts) : Steps parts s0 (laneReg s k n off eight).1 := by
  refine Steps.via (ps := parts) (qs := [Component.free, .lanesets]) h0 ?_ hsub
  clear h0 hsub
  unfold laneReg
  try dsimp only
  repeat' (first
    | with_reducible apply Steps.ite <;> intro _
    | with_reducible apply Steps.ite_fst <;> intro _
    | with_reducible exact Steps.refl _ _
    | with_reducible assumption
    | with_reducible apply State.drew_steps
    | with_reducible apply State.modLane_steps
    | with_reducible apply regOk_steps
    | with_reducible refine Steps.foldl _ _ (fun u a h => ?_) ?_
    | with_reducible refine Steps.of_fst ?_ (by assumption)
    | with_reducible exact fun _ h => h
    | decide +kernel
    | split
    | dsimp only)

theorem State.orphanTime_steps {parts : List Component} {s0 : State} {s : State} {d : Nat}
    (h0 : Steps parts s0 s) (hsub : ∀ p ∈ [Component.times], p ∈ parts) : Steps parts s0 (State.orphanTime s d) := by
  refine Steps.via (ps := parts) (qs := [Component.times]) h0 ?_ hsub
  clear h0 hsub
  unfold State.orphanTime
  try dsimp only
  repeat' (first
    | with_reducible apply Steps.ite <;> intro _
    | with_reducible exact Steps.refl _ _
    | with_reducible assumption
    | with_reducible apply State.modMon_steps
    | with_reducible refine Steps.foldl _ _ (fun u a h => ?_) ?_
    | with_reducible exact fun _ h => h
    | decide +kernel
    | split
    | dsimp only)

theorem State.sleepBay_steps {parts : List Component} {s0 : State} {s : State} {d b : Nat}
    (h0 : Steps parts s0 s) (hsub : ∀ p ∈ [Component.dies, .routers, .masters, .lad], p ∈ parts) : Steps parts s0 (State.sleepBay s d b) := by
  refine Steps.via (ps := parts) (qs := [Component.dies, .routers, .masters, .lad]) h0 ?_ hsub
  clear h0 hsub
  unfold State.sleepBay
  try dsimp only
  repeat' (first
    | with_reducible apply Steps.ite <;> intro _
    | with_reducible exact Steps.refl _ _
    | with_reducible assumption
    | with_reducible apply State.clampBay_steps
    | with_reducible apply State.modBay_steps
    | with_reducible refine Steps.foldl _ _ (fun u a h => ?_) ?_
    | with_reducible exact fun _ h => h
    | decide +kernel
    | split
    | dsimp only)

theorem State.dropSched_steps {parts : List Component} {s0 : State} {s : State} {d : Nat}
    (h0 : Steps parts s0 s) (hsub : ∀ p ∈ [Component.dies, .hpins], p ∈ parts) : Steps parts s0 (State.dropSched s d) := by
  refine Steps.via (ps := parts) (qs := [Component.dies, .hpins]) h0 ?_ hsub
  clear h0 hsub
  unfold State.dropSched
  try dsimp only
  repeat' (first
    | with_reducible apply Steps.ite <;> intro _
    | with_reducible exact Steps.refl _ _
    | with_reducible assumption
    | with_reducible apply State.modTpin_steps
    | with_reducible refine Steps.foldl _ _ (fun u a h => ?_) ?_
    | with_reducible exact fun _ h => h
    | decide +kernel
    | split
    | dsimp only)

theorem State.sleepDie_steps {parts : List Component} {s0 : State} {s : State} {d : Nat} {deep : Bool}
    (h0 : Steps parts s0 s) (hsub : ∀ p ∈ [Component.dies, .routers, .masters, .times, .hpins, .clk, .lad], p ∈ parts) : Steps parts s0 (State.sleepDie s d deep) := by
  refine Steps.via (ps := parts) (qs := [Component.dies, .routers, .masters, .times, .hpins, .clk, .lad]) h0 ?_ hsub
  clear h0 hsub
  unfold State.sleepDie
  try dsimp only
  repeat' (first
    | with_reducible apply Steps.ite <;> intro _
    | with_reducible exact Steps.refl _ _
    | with_reducible assumption
    | with_reducible apply State.dropSched_steps
    | with_reducible apply State.latchPads_steps
    | with_reducible apply State.modElem_steps
    | with_reducible apply State.modMon_steps
    | with_reducible apply State.modTime_steps
    | with_reducible apply State.napDie_steps
    | with_reducible apply State.orphanTime_steps
    | with_reducible apply State.sleepBay_steps
    | with_reducible apply State.stopNode_steps
    | with_reducible refine Steps.foldl _ _ (fun u a h => ?_) ?_
    | with_reducible exact fun _ h => h
    | decide +kernel
    | split
    | dsimp only)

theorem State.sleepElemBay_steps {parts : List Component} {s0 : State} {s : State} {d b : Nat}
    (h0 : Steps parts s0 s) (hsub : ∀ p ∈ [Component.dies, .routers, .masters, .clk, .lad], p ∈ parts) : Steps parts s0 (State.sleepElemBay s d b) := by
  refine Steps.via (ps := parts) (qs := [Component.dies, .routers, .masters, .clk, .lad]) h0 ?_ hsub
  clear h0 hsub
  unfold State.sleepElemBay
  try dsimp only
  repeat' (first
    | with_reducible apply Steps.ite <;> intro _
    | with_reducible exact Steps.refl _ _
    | with_reducible assumption
    | with_reducible apply State.modElem_steps
    | with_reducible apply State.sleepBay_steps
    | with_reducible refine Steps.foldl _ _ (fun u a h => ?_) ?_
    | with_reducible exact fun _ h => h
    | decide +kernel
    | split
    | dsimp only)

theorem State.unpowerBay_steps {parts : List Component} {s0 : State} {s : State} {d b : Nat}
    (h0 : Steps parts s0 s) (hsub : ∀ p ∈ [Component.free, .dies], p ∈ parts) : Steps parts s0 (State.unpowerBay s d b) := by
  refine Steps.via (ps := parts) (qs := [Component.free, .dies]) h0 ?_ hsub
  clear h0 hsub
  unfold State.unpowerBay
  try dsimp only
  repeat' (first
    | with_reducible apply Steps.ite <;> intro _
    | with_reducible exact Steps.refl _ _
    | with_reducible assumption
    | with_reducible apply State.drew_steps
    | with_reducible apply State.modBay_steps
    | with_reducible apply State.modSlice_steps
    | with_reducible refine Steps.foldl _ _ (fun u a h => ?_) ?_
    | with_reducible exact fun _ h => h
    | decide +kernel
    | split
    | dsimp only)

theorem State.entryEnd_steps {parts : List Component} {s0 : State} {s : State} {kind d id : Nat}
    (h0 : Steps parts s0 s) (hsub : ∀ p ∈ [Component.free, .dies, .gable, .clk, .evr], p ∈ parts) : Steps parts s0 (State.entryEnd s kind d id) := by
  refine Steps.via (ps := parts) (qs := [Component.free, .dies, .gable, .clk, .evr]) h0 ?_ hsub
  clear h0 hsub
  unfold State.entryEnd
  try dsimp only
  repeat' (first
    | with_reducible apply Steps.ite <;> intro _
    | with_reducible exact Steps.refl _ _
    | with_reducible assumption
    | with_reducible apply State.completeAll_steps
    | with_reducible apply State.drew_steps
    | with_reducible apply State.modDie_steps
    | with_reducible apply State.modElem_steps
    | with_reducible apply State.unpowerBay_steps
    | with_reducible apply State.wakeElem_steps
    | with_reducible refine Steps.foldl _ _ (fun u a h => ?_) ?_
    | with_reducible exact fun _ h => h
    | decide +kernel
    | split
    | dsimp only)

theorem State.rouse_steps {parts : List Component} {s0 : State} {s : State} {node r p : Nat}
    (h0 : Steps parts s0 s) (hsub : ∀ p ∈ [Component.clk], p ∈ parts) : Steps parts s0 (State.rouse s node r p) := by
  refine Steps.via (ps := parts) (qs := [Component.clk]) h0 ?_ hsub
  clear h0 hsub
  unfold State.rouse
  try dsimp only
  repeat' (first
    | with_reducible apply Steps.ite <;> intro _
    | with_reducible exact Steps.refl _ _
    | with_reducible assumption
    | with_reducible apply State.modElem_steps
    | with_reducible refine Steps.foldl _ _ (fun u a h => ?_) ?_
    | with_reducible exact fun _ h => h
    | decide +kernel
    | split
    | dsimp only)

theorem State.toElement_steps {parts : List Component} {s0 : State} {s : State} {node r p : Nat} {k : Pkt}
    (h0 : Steps parts s0 s) (hsub : ∀ p ∈ [Component.routers, .masters, .clk], p ∈ parts) : Steps parts s0 (State.toElement s node r p k) := by
  refine Steps.via (ps := parts) (qs := [Component.routers, .masters, .clk]) h0 ?_ hsub
  clear h0 hsub
  unfold State.toElement
  try dsimp only
  repeat' (first
    | with_reducible apply Steps.ite <;> intro _
    | with_reducible exact Steps.refl _ _
    | with_reducible assumption
    | with_reducible apply State.modMaster_steps
    | with_reducible apply State.modRouter_steps
    | with_reducible apply State.rouse_steps
    | with_reducible refine Steps.foldl _ _ (fun u a h => ?_) ?_
    | with_reducible exact fun _ h => h
    | decide +kernel
    | split
    | dsimp only)

theorem State.deliverQueue_steps {parts : List Component} {s0 : State} {s : State} {d r p : Nat}
    (h0 : Steps parts s0 s) (hsub : ∀ p ∈ [Component.free, .routers, .masters, .clk, .log, .evr], p ∈ parts) : Steps parts s0 (State.deliverQueue s d r p) := by
  refine Steps.via (ps := parts) (qs := [Component.free, .routers, .masters, .clk, .log, .evr]) h0 ?_ hsub
  clear h0 hsub
  unfold State.deliverQueue
  try dsimp only
  repeat' (first
    | with_reducible apply Steps.ite <;> intro _
    | with_reducible exact Steps.refl _ _
    | with_reducible assumption
    | with_reducible apply State.modRouter_steps
    | with_reducible apply State.toDrained_steps
    | with_reducible apply State.toElement_steps
    | with_reducible refine Steps.foldl _ _ (fun u a h => ?_) ?_
    | with_reducible exact fun _ h => h
    | decide +kernel
    | split
    | dsimp only)

theorem State.deliverDie_steps {parts : List Component} {s0 : State} {s : State} {d : Nat}
    (h0 : Steps parts s0 s) (hsub : ∀ p ∈ [Component.free, .routers, .masters, .clk, .log, .evr], p ∈ parts) : Steps parts s0 (State.deliverDie s d) := by
  refine Steps.via (ps := parts) (qs := [Component.free, .routers, .masters, .clk, .log, .evr]) h0 ?_ hsub
  clear h0 hsub
  unfold State.deliverDie
  try dsimp only
  repeat' (first
    | with_reducible apply Steps.ite <;> intro _
    | with_reducible exact Steps.refl _ _
    | with_reducible assumption
    | with_reducible apply State.deliverQueue_steps
    | with_reducible refine Steps.foldl _ _ (fun u a h => ?_) ?_
    | with_reducible exact fun _ h => h
    | decide +kernel
    | split
    | dsimp only)

theorem State.wakeBay_steps {parts : List Component} {s0 : State} {s : State} {d b : Nat}
    (h0 : Steps parts s0 s) (hsub : ∀ p ∈ [Component.free, .rsp, .dies, .routers, .evr], p ∈ parts) : Steps parts s0 (State.wakeBay s d b) := by
  refine Steps.via (ps := parts) (qs := [Component.free, .rsp, .dies, .routers, .evr]) h0 ?_ hsub
  clear h0 hsub
  unfold State.wakeBay
  try dsimp only
  repeat' (first
    | with_reducible apply Steps.ite <;> intro _
    | with_reducible exact Steps.refl _ _
    | with_reducible assumption
    | with_reducible apply State.modLeggett_steps
    | with_reducible apply State.releaseBay_steps
    | with_reducible refine Steps.foldl _ _ (fun u a h => ?_) ?_
    | with_reducible exact fun _ h => h
    | decide +kernel
    | split
    | dsimp only)

theorem State.wakeDie_steps {parts : List Component} {s0 : State} {s : State} {d : Nat}
    (h0 : Steps parts s0 s) (hsub : ∀ p ∈ [Component.free, .rsp, .dies, .routers, .masters, .times, .clk, .log, .evr], p ∈ parts) : Steps parts s0 (State.wakeDie s d) := by
  refine Steps.via (ps := parts) (qs := [Component.free, .rsp, .dies, .routers, .masters, .times, .clk, .log, .evr]) h0 ?_ hsub
  clear h0 hsub
  unfold State.wakeDie
  try dsimp only
  repeat' (first
    | with_reducible apply Steps.ite <;> intro _
    | with_reducible exact Steps.refl _ _
    | with_reducible assumption
    | with_reducible apply State.deliverDie_steps
    | with_reducible apply State.groupRegs_steps
    | with_reducible apply State.initIo_steps
    | with_reducible apply State.loadInitDie_steps
    | with_reducible apply State.modDie_steps
    | with_reducible apply State.modElem_steps
    | with_reducible apply State.modIo_steps
    | with_reducible apply State.modLeggett_steps
    | with_reducible apply State.modMon_steps
    | with_reducible apply State.modNode_steps
    | with_reducible apply State.modTime_steps
    | with_reducible apply State.resetGroup_steps
    | with_reducible apply State.unnapDie_steps
    | with_reducible apply State.wakeBay_steps
    | with_reducible refine Steps.foldl _ _ (fun u a h => ?_) ?_
    | with_reducible exact fun _ h => h
    | decide +kernel
    | split
    | dsimp only)

theorem State.exitEnd_steps {parts : List Component} {s0 : State} {s : State} {kind d id : Nat}
    (h0 : Steps parts s0 s) (hsub : ∀ p ∈ [Component.free, .rsp, .dies, .routers, .masters, .times, .hpins, .gable, .clk, .log, .evr, .lad], p ∈ parts) : Steps parts s0 (State.exitEnd s kind d id) := by
  refine Steps.via (ps := parts) (qs := [Component.free, .rsp, .dies, .routers, .masters, .times, .hpins, .gable, .clk, .log, .evr, .lad]) h0 ?_ hsub
  clear h0 hsub
  unfold State.exitEnd
  try dsimp only
  repeat' (first
    | with_reducible apply Steps.ite <;> intro _
    | with_reducible exact Steps.refl _ _
    | with_reducible assumption
    | with_reducible apply State.completeAll_steps
    | with_reducible apply State.deliverQueue_steps
    | with_reducible apply State.modElem_steps
    | with_reducible apply State.sleepDie_steps
    | with_reducible apply State.wakeBay_steps
    | with_reducible apply State.wakeDie_steps
    | with_reducible refine Steps.foldl _ _ (fun u a h => ?_) ?_
    | with_reducible exact fun _ h => h
    | decide +kernel
    | split
    | dsimp only)

theorem State.hbStart_steps {parts : List Component} {s0 : State} {s : State}
    (h0 : Steps parts s0 s) (hsub : ∀ p ∈ [Component.gable], p ∈ parts) : Steps parts s0 (State.hbStart s) := by
  refine Steps.via (ps := parts) (qs := [Component.gable]) h0 ?_ hsub
  clear h0 hsub
  unfold State.hbStart
  try dsimp only
  repeat' (first
    | with_reducible apply Steps.ite <;> intro _
    | with_reducible exact Steps.refl _ _
    | with_reducible assumption
    | with_reducible apply State.modGable_steps
    | with_reducible refine Steps.foldl _ _ (fun u a h => ?_) ?_
    | with_reducible exact fun _ h => h
    | decide +kernel
    | split
    | dsimp only)

theorem State.deepLinksDown_steps {parts : List Component} {s0 : State} {s : State}
    (h0 : Steps parts s0 s) (hsub : ∀ p ∈ [Component.free, .dies, .routers, .flows, .lanesets, .links, .dram, .gable, .clk, .log, .evr], p ∈ parts) : Steps parts s0 (State.deepLinksDown s) := by
  refine Steps.via (ps := parts) (qs := [Component.free, .dies, .routers, .flows, .lanesets, .links, .dram, .gable, .clk, .log, .evr]) h0 ?_ hsub
  clear h0 hsub
  unfold State.deepLinksDown
  try dsimp only
  repeat' (first
    | with_reducible apply Steps.ite <;> intro _
    | with_reducible exact Steps.refl _ _
    | with_reducible assumption
    | with_reducible apply State.entryEnd_steps
    | with_reducible apply State.modChan_steps
    | with_reducible apply State.modClk_steps
    | with_reducible apply State.modLaneset_steps
    | with_reducible apply State.shutDown_steps
    | with_reducible refine Steps.foldl _ _ (fun u a h => ?_) ?_
    | with_reducible exact fun _ h => h
    | decide +kernel
    | split
    | dsimp only)

theorem State.periDeep_steps {parts : List Component} {s0 : State} {s : State}
    (h0 : Steps parts s0 s) (hsub : ∀ p ∈ [Component.svc], p ∈ parts) : Steps parts s0 (State.periDeep s) := by
  refine Steps.via (ps := parts) (qs := [Component.svc]) h0 ?_ hsub
  clear h0 hsub
  unfold State.periDeep
  try dsimp only
  repeat' (first
    | with_reducible apply Steps.ite <;> intro _
    | with_reducible exact Steps.refl _ _
    | with_reducible assumption
    | with_reducible apply State.modSvc_steps
    | with_reducible refine Steps.foldl _ _ (fun u a h => ?_) ?_
    | with_reducible exact fun _ h => h
    | decide +kernel
    | split
    | dsimp only)

theorem State.packageDeep_steps {parts : List Component} {s0 : State} {s : State}
    (h0 : Steps parts s0 s) (hsub : ∀ p ∈ [Component.free, .dies, .routers, .masters, .flows, .lanesets, .links, .guests, .linkKeys, .times, .hpins, .tb, .cfg, .gable, .clk, .log, .evr, .svc], p ∈ parts) : Steps parts s0 (State.packageDeep s) := by
  refine Steps.via (ps := parts) (qs := [Component.free, .dies, .routers, .masters, .flows, .lanesets, .links, .guests, .linkKeys, .times, .hpins, .tb, .cfg, .gable, .clk, .log, .evr, .svc]) h0 ?_ hsub
  clear h0 hsub
  unfold State.packageDeep
  try dsimp only
  repeat' (first
    | with_reducible apply Steps.ite <;> intro _
    | with_reducible exact Steps.refl _ _
    | with_reducible assumption
    | with_reducible apply State.beginPackageWake_steps
    | with_reducible apply State.dropSched_steps
    | with_reducible apply State.hbStop_steps
    | with_reducible apply State.laneKill_steps
    | with_reducible apply State.modCfg_steps
    | with_reducible apply State.modClk_steps
    | with_reducible apply State.modTime_steps
    | with_reducible apply State.periDeep_steps
    | with_reducible apply State.spHold_steps
    | with_reducible apply State.stopNode_steps
    | with_reducible refine Steps.foldl _ _ (fun u a h => ?_) ?_
    | with_reducible exact fun _ h => h
    | decide +kernel
    | split
    | dsimp only)

theorem State.spRelease_steps {parts : List Component} {s0 : State} {s : State}
    (h0 : Steps parts s0 s) (hsub : ∀ p ∈ [Component.svc], p ∈ parts) : Steps parts s0 (State.spRelease s) := by
  refine Steps.via (ps := parts) (qs := [Component.svc]) h0 ?_ hsub
  clear h0 hsub
  unfold State.spRelease
  try dsimp only
  repeat' (first
    | with_reducible apply Steps.ite <;> intro _
    | with_reducible exact Steps.refl _ _
    | with_reducible assumption
    | with_reducible apply State.modSvc_steps
    | with_reducible refine Steps.foldl _ _ (fun u a h => ?_) ?_
    | with_reducible exact fun _ h => h
    | decide +kernel
    | split
    | dsimp only)

theorem State.packageUp_steps {parts : List Component} {s0 : State} {s : State}
    (h0 : Steps parts s0 s) (hsub : ∀ p ∈ [Component.free, .rsp, .dies, .routers, .masters, .lanesets, .times, .tb, .dram, .dma, .gable, .clk, .log, .evr, .svc], p ∈ parts) : Steps parts s0 (State.packageUp s) := by
  refine Steps.via (ps := parts) (qs := [Component.free, .rsp, .dies, .routers, .masters, .lanesets, .times, .tb, .dram, .dma, .gable, .clk, .log, .evr, .svc]) h0 ?_ hsub
  clear h0 hsub
  unfold State.packageUp
  try dsimp only
  repeat' (first
    | with_reducible apply Steps.ite <;> intro _
    | with_reducible exact Steps.refl _ _
    | with_reducible assumption
    | with_reducible apply State.bringUp_steps
    | with_reducible apply State.chanAwake_steps
    | with_reducible apply State.completeAll_steps
    | with_reducible apply State.completeOpt_steps
    | with_reducible apply State.dmaGoIdle_steps
    | with_reducible apply State.hbStart_steps
    | with_reducible apply State.modClk_steps
    | with_reducible apply State.modDma_steps
    | with_reducible apply State.modElem_steps
    | with_reducible apply State.modNode_steps
    | with_reducible apply State.modTb_steps
    | with_reducible apply State.modTime_steps
    | with_reducible apply State.spRelease_steps
    | with_reducible apply State.wakeDie_steps
    | with_reducible refine Steps.foldl _ _ (fun u a h => ?_) ?_
    | with_reducible exact fun _ h => h
    | decide +kernel
    | split
    | dsimp only)

theorem idleEntry_steps {parts : List Component} {s0 : State} {s : State} {kind d id : Nat} {ok : Bool}
    (h0 : Steps parts s0 s) (hsub : ∀ p ∈ [Component.dies, .routers, .masters, .times, .hpins, .clk, .lad], p ∈ parts) : Steps parts s0 (idleEntry s kind d id ok) := by
  refine Steps.via (ps := parts) (qs := [Component.dies, .routers, .masters, .times, .hpins, .clk, .lad]) h0 ?_ hsub
  clear h0 hsub
  unfold idleEntry
  try dsimp only
  repeat' (first
    | with_reducible apply Steps.ite <;> intro _
    | with_reducible exact Steps.refl _ _
    | with_reducible assumption
    | with_reducible apply State.modElem_steps
    | with_reducible apply State.sleepDie_steps
    | with_reducible apply State.sleepElemBay_steps
    | with_reducible refine Steps.foldl _ _ (fun u a h => ?_) ?_
    | with_reducible exact fun _ h => h
    | decide +kernel
    | split
    | dsimp only)

theorem routerIdleEntry_steps {parts : List Component} {s0 : State} {s : State} {node r : Nat}
    (h0 : Steps parts s0 s) (hsub : ∀ p ∈ [Component.routers], p ∈ parts) : Steps parts s0 (routerIdleEntry s node r) := by
  refine Steps.via (ps := parts) (qs := [Component.routers]) h0 ?_ hsub
  clear h0 hsub
  unfold routerIdleEntry
  try dsimp only
  repeat' (first
    | with_reducible apply Steps.ite <;> intro _
    | with_reducible exact Steps.refl _ _
    | with_reducible assumption
    | with_reducible apply State.modRouter_steps
    | with_reducible refine Steps.foldl _ _ (fun u a h => ?_) ?_
    | with_reducible exact fun _ h => h
    | decide +kernel
    | split
    | dsimp only)

theorem routerWake_steps {parts : List Component} {s0 : State} {s : State} {node r : Nat}
    (h0 : Steps parts s0 s) (hsub : ∀ p ∈ [Component.routers, .clk], p ∈ parts) : Steps parts s0 (routerWake s node r) := by
  refine Steps.via (ps := parts) (qs := [Component.routers, .clk]) h0 ?_ hsub
  clear h0 hsub
  unfold routerWake
  try dsimp only
  repeat' (first
    | with_reducible apply Steps.ite <;> intro _
    | with_reducible exact Steps.refl _ _
    | with_reducible assumption
    | with_reducible apply State.modRouter_steps
    | with_reducible apply State.wakeCount_steps
    | with_reducible refine Steps.foldl _ _ (fun u a h => ?_) ?_
    | with_reducible exact fun _ h => h
    | decide +kernel
    | split
    | dsimp only)

theorem setPackage_steps {parts : List Component} {s0 : State} {s : State} {tok : Nat}
    (h0 : Steps parts s0 s) (hsub : ∀ p ∈ [Component.dies, .routers, .masters, .times, .hpins, .clk, .lad], p ∈ parts) : Steps parts s0 (setPackage s tok).1 := by
  refine Steps.via (ps := parts) (qs := [Component.dies, .routers, .masters, .times, .hpins, .clk, .lad]) h0 ?_ hsub
  clear h0 hsub
  unfold setPackage
  try dsimp only
  repeat' (first
    | with_reducible apply Steps.ite <;> intro _
    | with_reducible apply Steps.ite_fst <;> intro _
    | with_reducible exact Steps.refl _ _
    | with_reducible assumption
    | with_reducible apply State.modClk_steps
    | with_reducible apply State.sleepDie_steps
    | with_reducible refine Steps.foldl _ _ (fun u a h => ?_) ?_
    | with_reducible refine Steps.of_fst ?_ (by assumption)
    | with_reducible exact fun _ h => h
    | decide +kernel
    | split
    | dsimp only)

theorem setActive_steps {parts : List Component} {s0 : State} {s : State} {kind d id tok : Nat}
    (h0 : Steps parts s0 s) (hsub : ∀ p ∈ [Component.routers, .clk], p ∈ parts) : Steps parts s0 (setActive s kind d id tok).1 := by
  refine Steps.via (ps := parts) (qs := [Component.routers, .clk]) h0 ?_ hsub
  clear h0 hsub
  unfold setActive
  try dsimp only
  repeat' (first
    | with_reducible apply Steps.ite <;> intro _
    | with_reducible apply Steps.ite_fst <;> intro _
    | with_reducible exact Steps.refl _ _
    | with_reducible assumption
    | with_reducible apply State.modClk_steps
    | with_reducible apply State.modElem_steps
    | with_reducible apply State.modRouter_steps
    | with_reducible apply State.wakeElem_steps
    | with_reducible refine Steps.foldl _ _ (fun u a h => ?_) ?_
    | with_reducible refine Steps.of_fst ?_ (by assumption)
    | with_reducible exact fun _ h => h
    | decide +kernel
    | split
    | dsimp only)

theorem setLow_steps {parts : List Component} {s0 : State} {s : State} {kind d id st tok : Nat}
    (h0 : Steps parts s0 s) (hsub : ∀ p ∈ [Component.dies, .routers, .masters, .times, .hpins, .clk, .lad], p ∈ parts) : Steps parts s0 (setLow s kind d id st tok).1 := by
  refine Steps.via (ps := parts) (qs := [Component.dies, .routers, .masters, .times, .hpins, .clk, .lad]) h0 ?_ hsub
  clear h0 hsub
  unfold setLow
  try dsimp only
  repeat' (first
    | with_reducible apply Steps.ite <;> intro _
    | with_reducible apply Steps.ite_fst <;> intro _
    | with_reducible exact Steps.refl _ _
    | with_reducible assumption
    | with_reducible apply State.modElem_steps
    | with_reducible apply State.modRouter_steps
    | with_reducible apply State.sleepDie_steps
    | with_reducible apply State.sleepElemBay_steps
    | with_reducible apply State.wakeElem_steps
    | with_reducible refine Steps.foldl _ _ (fun u a h => ?_) ?_
    | with_reducible refine Steps.of_fst ?_ (by assumption)
    | with_reducible exact fun _ h => h
    | decide +kernel
    | split
    | dsimp only)

theorem laneSpan_steps {parts : List Component} {s0 : State} {s : State} {k n off : Nat} {write eight : Bool}
    (h0 : Steps parts s0 s) (hsub : ∀ p ∈ [Component.free, .lanesets], p ∈ parts) : Steps parts s0 (laneSpan s k n off write eight).1 := by
  refine Steps.via (ps := parts) (qs := [Component.free, .lanesets]) h0 ?_ hsub
  clear h0 hsub
  unfold laneSpan
  try dsimp only
  repeat' (first
    | with_reducible apply Steps.ite <;> intro _
    | with_reducible apply Steps.ite_fst <;> intro _
    | with_reducible exact Steps.refl _ _
    | with_reducible assumption
    | with_reducible apply laneReg_steps
    | with_reducible apply regOk_steps
    | with_reducible refine Steps.foldl _ _ (fun u a h => ?_) ?_
    | with_reducible refine Steps.of_fst ?_ (by assumption)
    | with_reducible exact fun _ h => h
    | decide +kernel
    | split
    | dsimp only)

theorem noReg_steps {ps : List Component} {s0 s : State} (h : Steps ps s0 s) : Steps ps s0 (noReg s).1 := h

theorem roReg_steps {ps : List Component} {s0 s : State} {rd : Nat → Nat} {off : Nat} {write eight : Bool} (h : Steps ps s0 s) :
    Steps ps s0 (roReg rd s off write eight).1 := by unfold roReg; split <;> exact h

theorem dieLaneReg_steps {parts : List Component} {s0 : State} {s : State} {d off : Nat} {write eight : Bool}
    (h0 : Steps parts s0 s) (hsub : ∀ p ∈ [Component.free, .lanesets], p ∈ parts) : Steps parts s0 (dieLaneReg s d off write eight).1 := by
  refine Steps.via (ps := parts) (qs := [Component.free, .lanesets]) h0 ?_ hsub
  clear h0 hsub
  unfold dieLaneReg
  try dsimp only
  repeat' (first
    | with_reducible apply Steps.ite <;> intro _
    | with_reducible apply Steps.ite_fst <;> intro _
    | with_reducible exact Steps.refl _ _
    | with_reducible assumption
    | with_reducible apply laneSpan_steps
    | with_reducible apply noReg_steps
    | with_reducible apply roReg_steps
    | with_reducible refine Steps.foldl _ _ (fun u a h => ?_) ?_
    | with_reducible refine Steps.of_fst ?_ (by assumption)
    | with_reducible exact fun _ h => h
    | decide +kernel
    | split
    | dsimp only)

theorem probeCtrlWrite_steps {parts : List Component} {s0 : State} {s : State} {d v : Nat}
    (h0 : Steps parts s0 s) (hsub : ∀ p ∈ [Component.free, .dies], p ∈ parts) : Steps parts s0 (probeCtrlWrite s d v) := by
  refine Steps.via (ps := parts) (qs := [Component.free, .dies]) h0 ?_ hsub
  clear h0 hsub
  unfold probeCtrlWrite
  try dsimp only
  repeat' (first
    | with_reducible apply Steps.ite <;> intro _
    | with_reducible exact Steps.refl _ _
    | with_reducible assumption
    | with_reducible apply State.drew_steps
    | with_reducible apply State.modProbe_steps
    | with_reducible refine Steps.foldl _ _ (fun u a h => ?_) ?_
    | with_reducible exact fun _ h => h
    | decide +kernel
    | split
    | dsimp only)

theorem probeWriteWord_steps {parts : List Component} {s0 : State} {s : State} {d off v : Nat}
    (h0 : Steps parts s0 s) (hsub : ∀ p ∈ [Component.free, .dies], p ∈ parts) : StepsO parts s0 (probeWriteWord s d off v) := by
  refine StepsO.via (ps := parts) (qs := [Component.free, .dies]) h0 ?_ hsub
  clear h0 hsub
  unfold probeWriteWord
  try dsimp only
  repeat' (first
    | with_reducible apply Steps.ite <;> intro _
    | with_reducible exact Steps.refl _ _
    | with_reducible assumption
    | with_reducible apply State.modProbe_steps
    | with_reducible apply probeCtrlWrite_steps
    | with_reducible apply StepsO.ite <;> intro _
    | with_reducible exact StepsO.none
    | with_reducible apply StepsO.some
    | with_reducible refine StepsO.map ?_ (fun u hu => ?_)
    | with_reducible refine StepsO.bind ?_ (fun u hu => ?_)
    | with_reducible apply probeSelWrite_steps
    | with_reducible refine Steps.foldl _ _ (fun u a h => ?_) ?_
    | with_reducible refine Steps.of_some ?_ (by assumption)
    | with_reducible exact fun _ h => h
    | decide +kernel
    | split
    | dsimp only)

theorem probeReg_steps {parts : List Component} {s0 : State} {w : Who} {s : State} {d off : Nat} {write eight : Bool} {v : Nat}
    (h0 : Steps parts s0 s) (hsub : ∀ p ∈ [Component.free, .dies], p ∈ parts) : Steps parts s0 (probeReg w s d off write eight v).1 := by
  refine Steps.via (ps := parts) (qs := [Component.free, .dies]) h0 ?_ hsub
  clear h0 hsub
  unfold probeReg
  try dsimp only
  repeat' (first
    | with_reducible apply Steps.ite <;> intro _
    | with_reducible apply Steps.ite_fst <;> intro _
    | with_reducible exact Steps.refl _ _
    | with_reducible assumption
    | with_reducible apply needPriv_steps
    | with_reducible apply regErr_steps
    | with_reducible apply regOk_steps
    | with_reducible apply StepsO.ite <;> intro _
    | with_reducible exact StepsO.none
    | with_reducible apply StepsO.some
    | with_reducible refine StepsO.map ?_ (fun u hu => ?_)
    | with_reducible refine StepsO.bind ?_ (fun u hu => ?_)
    | with_reducible apply probeWriteWord_steps
    | with_reducible refine Steps.foldl _ _ (fun u a h => ?_) ?_
    | with_reducible refine Steps.of_fst ?_ (by assumption)
    | with_reducible refine Steps.of_some ?_ (by assumption)
    | with_reducible exact fun _ h => h
    | decide +kernel
    | split
    | dsimp only)

theorem State.rtrCfgWrite_steps {parts : List Component} {s0 : State} {s : State} {d r v : Nat}
    (h0 : Steps parts s0 s) (hsub : ∀ p ∈ [Component.routers], p ∈ parts) : Steps parts s0 (State.rtrCfgWrite s d r v) := by
  refine Steps.via (ps := parts) (qs := [Component.routers]) h0 ?_ hsub
  clear h0 hsub
  unfold State.rtrCfgWrite
  try dsimp only
  repeat' (first
    | with_reducible apply Steps.ite <;> intro _
    | with_reducible exact Steps.refl _ _
    | with_reducible assumption
    | with_reducible apply State.modRouter_steps
    | with_reducible refine Steps.foldl _ _ (fun u a h => ?_) ?_
    | with_reducible exact fun _ h => h
    | decide +kernel
    | split
    | dsimp only)

theorem State.rtrClr_steps {parts : List Component} {s0 : State} {s : State} {d r : Nat}
    (h0 : Steps parts s0 s) (hsub : ∀ p ∈ [Component.routers], p ∈ parts) : Steps parts s0 (State.rtrClr s d r) := by
  refine Steps.via (ps := parts) (qs := [Component.routers]) h0 ?_ hsub
  clear h0 hsub
  unfold State.rtrClr
  try dsimp only
  repeat' (first
    | with_reducible apply Steps.ite <;> intro _
    | with_reducible exact Steps.refl _ _
    | with_reducible assumption
    | with_reducible apply State.modRouter_steps
    | with_reducible refine Steps.foldl _ _ (fun u a h => ?_) ?_
    | with_reducible exact fun _ h => h
    | decide +kernel
    | split
    | dsimp only)

theorem State.rtrSnap_steps {parts : List Component} {s0 : State} {s : State} {d r : Nat}
    (h0 : Steps parts s0 s) (hsub : ∀ p ∈ [Component.routers], p ∈ parts) : Steps parts s0 (State.rtrSnap s d r) := by
  refine Steps.via (ps := parts) (qs := [Component.routers]) h0 ?_ hsub
  clear h0 hsub
  unfold State.rtrSnap
  try dsimp only
  repeat' (first
    | with_reducible apply Steps.ite <;> intro _
    | with_reducible exact Steps.refl _ _
    | with_reducible assumption
    | with_reducible apply State.modRouter_steps
    | with_reducible refine Steps.foldl _ _ (fun u a h => ?_) ?_
    | with_reducible exact fun _ h => h
    | decide +kernel
    | split
    | dsimp only)

theorem State.rtrSnapDie_steps {parts : List Component} {s0 : State} {s : State} {d : Nat}
    (h0 : Steps parts s0 s) (hsub : ∀ p ∈ [Component.routers], p ∈ parts) : Steps parts s0 (State.rtrSnapDie s d) := by
  refine Steps.via (ps := parts) (qs := [Component.routers]) h0 ?_ hsub
  clear h0 hsub
  unfold State.rtrSnapDie
  try dsimp only
  repeat' (first
    | with_reducible apply Steps.ite <;> intro _
    | with_reducible exact Steps.refl _ _
    | with_reducible assumption
    | with_reducible apply State.modRouter_steps
    | with_reducible refine Steps.foldl _ _ (fun u a h => ?_) ?_
    | with_reducible exact fun _ h => h
    | decide +kernel
    | split
    | dsimp only)

theorem State.rtrWrite_steps {parts : List Component} {s0 : State} {s : State} {src : BitVec 12} {d r off v : Nat}
    (h0 : Steps parts s0 s) (hsub : ∀ p ∈ [Component.routers], p ∈ parts) : Steps parts s0 (State.rtrWrite s src d r off v) := by
  refine Steps.via (ps := parts) (qs := [Component.routers]) h0 ?_ hsub
  clear h0 hsub
  unfold State.rtrWrite
  try dsimp only
  repeat' (first
    | with_reducible apply Steps.ite <;> intro _
    | with_reducible exact Steps.refl _ _
    | with_reducible assumption
    | with_reducible apply State.modRouter_steps
    | with_reducible apply State.rtrCfgWrite_steps
    | with_reducible apply State.rtrClr_steps
    | with_reducible apply State.rtrRtWrite_steps
    | with_reducible apply State.rtrSnap_steps
    | with_reducible apply State.rtrSnapDie_steps
    | with_reducible refine Steps.foldl _ _ (fun u a h => ?_) ?_
    | with_reducible exact fun _ h => h
    | decide +kernel
    | split
    | dsimp only)

theorem routerReg_steps {parts : List Component} {s0 : State} {w : Who} {s : State} {d off : Nat} {write eight : Bool} {v : Nat}
    (h0 : Steps parts s0 s) (hsub : ∀ p ∈ [Component.routers], p ∈ parts) : Steps parts s0 (routerReg w s d off write eight v).1 := by
  refine Steps.via (ps := parts) (qs := [Component.routers]) h0 ?_ hsub
  clear h0 hsub
  unfold routerReg
  try dsimp only
  repeat' (first
    | with_reducible apply Steps.ite <;> intro _
    | with_reducible apply Steps.ite_fst <;> intro _
    | with_reducible exact Steps.refl _ _
    | with_reducible assumption
    | with_reducible apply State.rtrWrite_steps
    | with_reducible apply noReg_steps
    | with_reducible apply putWords_steps
    | with_reducible apply regOk_steps
    | (with_reducible intro u a b hu)
    | (with_reducible intro u a hu)
    | with_reducible refine Steps.foldl _ _ (fun u a h => ?_) ?_
    | with_reducible refine Steps.of_fst ?_ (by assumption)
    | with_reducible exact fun _ h => h
    | decide +kernel
    | split
    | dsimp only)

theorem siteSpan_steps {parts : List Component} {s0 : State} {s : State} {k off : Nat} {write eight : Bool} {v : Nat}
    (h0 : Steps parts s0 s) (hsub : ∀ p ∈ [Component.free, .lanesets, .links], p ∈ parts) : Steps parts s0 (siteSpan s k off write eight v).1 := by
  refine Steps.via (ps := parts) (qs := [Component.free, .lanesets, .links]) h0 ?_ hsub
  clear h0 hsub
  unfold siteSpan
  try dsimp only
  repeat' (first
    | with_reducible apply Steps.ite <;> intro _
    | with_reducible apply Steps.ite_fst <;> intro _
    | with_reducible exact Steps.refl _ _
    | with_reducible assumption
    | with_reducible apply laneSpan_steps
    | with_reducible apply linkReg_steps
    | with_reducible apply noReg_steps
    | with_reducible refine Steps.foldl _ _ (fun u a h => ?_) ?_
    | with_reducible refine Steps.of_fst ?_ (by assumption)
    | with_reducible exact fun _ h => h
    | decide +kernel
    | split
    | dsimp only)

theorem slCommand_steps {parts : List Component} {s0 : State} {s : State} {d g : Nat} {starts halts : List Nat}
    (h0 : Steps parts s0 s) (hsub : ∀ p ∈ [Component.dies, .lad], p ∈ parts) : Steps parts s0 (slCommand s d g starts halts) := by
  refine Steps.via (ps := parts) (qs := [Component.dies, .lad]) h0 ?_ hsub
  clear h0 hsub
  unfold slCommand
  try dsimp only
  repeat' (first
    | with_reducible apply Steps.ite <;> intro _
    | with_reducible exact Steps.refl _ _
    | with_reducible assumption
    | with_reducible apply State.modLad_steps
    | with_reducible apply State.slBits_steps
    | with_reducible refine Steps.foldl _ _ (fun u a h => ?_) ?_
    | with_reducible exact fun _ h => h
    | decide +kernel
    | split
    | dsimp only)

theorem slWriteWord_steps {ps : List Component} {s0 s : State} {d i off v : Nat} (h : Steps ps s0 s)
    (sub : ∀ p ∈ [Component.dies, .lad], p ∈ ps) : StepsO ps s0 (slWriteWord s d i off v) := by
  have hd : ∀ p ∈ [Component.dies], p ∈ ps := fun p hp => sub p (by simp_all)
  unfold slWriteWord
  refine StepsO.ite (fun _ => StepsO.some (slCommand_steps h sub)) fun _ => ?_
  refine StepsO.ite (fun _ => StepsO.some (State.modSlice_steps h hd)) fun _ => ?_
  refine StepsO.ite (fun _ => StepsO.ite (fun _ => StepsO.some (State.modSlice_steps h hd)) fun _ => StepsO.none) fun _ => ?_
  refine StepsO.ite (fun _ => StepsO.some (State.modSlice_steps h hd)) fun _ => ?_
  refine StepsO.ite (fun _ => StepsO.some (State.modSlice_steps h hd)) fun _ => ?_
  refine StepsO.ite (fun _ => StepsO.some (State.modSlice_steps h hd)) fun _ => ?_
  refine StepsO.ite (fun _ => StepsO.some h) fun _ => ?_
  refine StepsO.ite (fun _ t ht => ?_) fun _ => StepsO.none
  obtain ⟨p, _, rfl⟩ := Option.map_eq_some_iff.mp ht
  exact State.modSlice_steps h hd

theorem slReg_steps {parts : List Component} {s0 : State} {w : Who} {s : State} {d i off : Nat} {write eight : Bool} {v : Nat}
    (h0 : Steps parts s0 s) (hsub : ∀ p ∈ [Component.dies, .lad], p ∈ parts) : Steps parts s0 (slReg w s d i off write eight v).1 := by
  refine Steps.via (ps := parts) (qs := [Component.dies, .lad]) h0 ?_ hsub
  clear h0 hsub
  unfold slReg
  try dsimp only
  repeat' (first
    | with_reducible apply Steps.ite <;> intro _
    | with_reducible apply Steps.ite_fst <;> intro _
    | with_reducible exact Steps.refl _ _
    | with_reducible assumption
    | with_reducible apply State.modSlice_steps
    | with_reducible apply regErr_steps
    | with_reducible apply regOk_steps
    | with_reducible apply StepsO.ite <;> intro _
    | with_reducible exact StepsO.none
    | with_reducible apply StepsO.some
    | with_reducible refine StepsO.map ?_ (fun u hu => ?_)
    | with_reducible refine StepsO.bind ?_ (fun u hu => ?_)
    | with_reducible apply slWriteWord_steps
    | with_reducible refine Steps.foldl _ _ (fun u a h => ?_) ?_
    | with_reducible refine Steps.of_fst ?_ (by assumption)
    | with_reducible refine Steps.of_some ?_ (by assumption)
    | with_reducible exact fun _ h => h
    | decide +kernel
    | split
    | dsimp only)

theorem slWindow_steps {parts : List Component} {s0 : State} {s : State} {d g off : Nat} {write eight : Bool} {v : Nat} {u : Sys2Proof.Upset}
    (h0 : Steps parts s0 s) (hsub : ∀ p ∈ [Component.free, .dies, .routers, .evr], p ∈ parts) : Steps parts s0 (slWindow s d g off write eight v u).1 := by
  refine Steps.via (ps := parts) (qs := [Component.free, .dies, .routers, .evr]) h0 ?_ hsub
  clear h0 hsub
  unfold slWindow
  try dsimp only
  repeat' (first
    | with_reducible apply Steps.ite <;> intro _
    | with_reducible apply Steps.ite_fst <;> intro _
    | with_reducible exact Steps.refl _ _
    | with_reducible assumption
    | with_reducible apply regErr_steps
    | with_reducible apply regOk_steps
    | with_reducible apply slWinRead_steps
    | with_reducible apply slWinWrite_steps
    | with_reducible refine Steps.foldl _ _ (fun u a h => ?_) ?_
    | with_reducible refine Steps.of_fst ?_ (by assumption)
    | with_reducible exact fun _ h => h
    | decide +kernel
    | split
    | dsimp only)

theorem slgWriteWord_steps {parts : List Component} {s0 : State} {d g : Nat} {s : State} {off v : Nat}
    (h0 : Steps parts s0 s) (hsub : ∀ p ∈ [Component.dies, .lad], p ∈ parts) : Steps parts s0 (slgWriteWord d g s off v) := by
  refine Steps.via (ps := parts) (qs := [Component.dies, .lad]) h0 ?_ hsub
  clear h0 hsub
  unfold slgWriteWord
  try dsimp only
  repeat' (first
    | with_reducible apply Steps.ite <;> intro _
    | with_reducible exact Steps.refl _ _
    | with_reducible assumption
    | with_reducible apply State.modGroup_steps
    | with_reducible apply slCommand_steps
    | with_reducible refine Steps.foldl _ _ (fun u a h => ?_) ?_
    | with_reducible exact fun _ h => h
    | decide +kernel
    | split
    | dsimp only)

theorem sliceReg_steps {parts : List Component} {s0 : State} {w : Who} {s : State} {d off : Nat} {write eight : Bool} {v : Nat} {u : Sys2Proof.Upset}
    (h0 : Steps parts s0 s) (hsub : ∀ p ∈ [Component.free, .dies, .routers, .evr, .lad], p ∈ parts) : Steps parts s0 (sliceReg w s d off write eight v u).1 := by
  refine Steps.via (ps := parts) (qs := [Component.free, .dies, .routers, .evr, .lad]) h0 ?_ hsub
  clear h0 hsub
  unfold sliceReg
  try dsimp only
  repeat' (first
    | with_reducible apply Steps.ite <;> intro _
    | with_reducible apply Steps.ite_fst <;> intro _
    | with_reducible exact Steps.refl _ _
    | with_reducible assumption
    | with_reducible apply putWords_steps
    | with_reducible apply regErr_steps
    | with_reducible apply regOk_steps
    | with_reducible apply slReg_steps
    | with_reducible apply slWindow_steps
    | with_reducible apply slgWriteWord_steps
    | (with_reducible intro u a b hu)
    | (with_reducible intro u a hu)
    | with_reducible refine Steps.foldl _ _ (fun u a h => ?_) ?_
    | with_reducible refine Steps.of_fst ?_ (by assumption)
    | with_reducible exact fun _ h => h
    | decide +kernel
    | split
    | dsimp only)

theorem State.winWrite_steps {parts : List Component} {s0 : State} {s : State} {d n : Nat} {close : Bool} {v : Nat}
    (h0 : Steps parts s0 s) (hsub : ∀ p ∈ [Component.dies, .hpins], p ∈ parts) : Steps parts s0 (State.winWrite s d n close v) := by
  refine Steps.via (ps := parts) (qs := [Component.dies, .hpins]) h0 ?_ hsub
  clear h0 hsub
  unfold State.winWrite
  try dsimp only
  repeat' (first
    | with_reducible apply Steps.ite <;> intro _
    | with_reducible exact Steps.refl _ _
    | with_reducible assumption
    | with_reducible apply State.modTpin_steps
    | with_reducible refine Steps.foldl _ _ (fun u a h => ?_) ?_
    | with_reducible exact fun _ h => h
    | decide +kernel
    | split
    | dsimp only)

theorem State.tpWriteWord_steps {parts : List Component} {s0 : State} {d n : Nat} {s : State} {off v : Nat}
    (h0 : Steps parts s0 s) (hsub : ∀ p ∈ [Component.dies, .hpins], p ∈ parts) : Steps parts s0 (State.tpWriteWord d n s off v) := by
  refine Steps.via (ps := parts) (qs := [Component.dies, .hpins]) h0 ?_ hsub
  clear h0 hsub
  unfold State.tpWriteWord
  try dsimp only
  repeat' (first
    | with_reducible apply Steps.ite <;> intro _
    | with_reducible exact Steps.refl _ _
    | with_reducible assumption
    | with_reducible apply State.modTpin_steps
    | with_reducible apply State.winWrite_steps
    | with_reducible refine Steps.foldl _ _ (fun u a h => ?_) ?_
    | with_reducible exact fun _ h => h
    | decide +kernel
    | split
    | dsimp only)

theorem tpCapReg_steps {parts : List Component} {s0 : State} {w : Who} {s : State} {d n : Nat}
    (h0 : Steps parts s0 s) (hsub : ∀ p ∈ [Component.dies, .hpins], p ∈ parts) : Steps parts s0 (tpCapReg w s d n).1 := by
  refine Steps.via (ps := parts) (qs := [Component.dies, .hpins]) h0 ?_ hsub
  clear h0 hsub
  unfold tpCapReg
  try dsimp only
  repeat' (first
    | with_reducible apply Steps.ite <;> intro _
    | with_reducible apply Steps.ite_fst <;> intro _
    | with_reducible exact Steps.refl _ _
    | with_reducible assumption
    | with_reducible apply State.modTpin_steps
    | with_reducible apply regOk_steps
    | with_reducible refine Steps.foldl _ _ (fun u a h => ?_) ?_
    | with_reducible refine Steps.of_fst ?_ (by assumption)
    | with_reducible exact fun _ h => h
    | decide +kernel
    | split
    | dsimp only)

theorem State.schedTake_steps {parts : List Component} {s0 : State} {s : State} {d n : Nat} {t : Option Nat} {level : Bool}
    (h0 : Steps parts s0 s) (hsub : ∀ p ∈ [Component.dies, .routers, .hpins, .evr], p ∈ parts) : Steps parts s0 (State.schedTake s d n t level).1 := by
  refine Steps.via (ps := parts) (qs := [Component.dies, .routers, .hpins, .evr]) h0 ?_ hsub
  clear h0 hsub
  unfold State.schedTake
  try dsimp only
  repeat' (first
    | with_reducible apply Steps.ite <;> intro _
    | with_reducible apply Steps.ite_fst <;> intro _
    | with_reducible exact Steps.refl _ _
    | with_reducible assumption
    | with_reducible apply State.modTpin_steps
    | with_reducible apply State.raiseEvent_steps
    | with_reducible refine Steps.foldl _ _ (fun u a h => ?_) ?_
    | with_reducible refine Steps.of_fst ?_ (by assumption)
    | with_reducible exact fun _ h => h
    | decide +kernel
    | split
    | dsimp only)

theorem tpSchedReg_steps {parts : List Component} {s0 : State} {s : State} {d n v : Nat}
    (h0 : Steps parts s0 s) (hsub : ∀ p ∈ [Component.dies, .routers, .hpins, .evr], p ∈ parts) : Steps parts s0 (tpSchedReg s d n v) := by
  refine Steps.via (ps := parts) (qs := [Component.dies, .routers, .hpins, .evr]) h0 ?_ hsub
  clear h0 hsub
  unfold tpSchedReg
  try dsimp only
  repeat' (first
    | with_reducible apply Steps.ite <;> intro _
    | with_reducible apply Steps.ite_fst <;> intro _
    | with_reducible exact Steps.refl _ _
    | with_reducible assumption
    | with_reducible apply State.schedTake_steps
    | with_reducible refine Steps.foldl _ _ (fun u a h => ?_) ?_
    | with_reducible refine Steps.of_fst ?_ (by assumption)
    | with_reducible exact fun _ h => h
    | decide +kernel
    | split
    | dsimp only)

theorem tpReg_steps {parts : List Component} {s0 : State} {w : Who} {s : State} {d n off : Nat} {write eight : Bool} {v : Nat}
    (h0 : Steps parts s0 s) (hsub : ∀ p ∈ [Component.dies, .routers, .hpins, .evr], p ∈ parts) : Steps parts s0 (tpReg w s d n off write eight v).1 := by
  refine Steps.via (ps := parts) (qs := [Component.dies, .routers, .hpins, .evr]) h0 ?_ hsub
  clear h0 hsub
  unfold tpReg
  try dsimp only
  repeat' (first
    | with_reducible apply Steps.ite <;> intro _
    | with_reducible apply Steps.ite_fst <;> intro _
    | with_reducible exact Steps.refl _ _
    | with_reducible assumption
    | with_reducible apply State.tpWriteWord_steps
    | with_reducible apply State.winWrite_steps
    | with_reducible apply putWords_steps
    | with_reducible apply regErr_steps
    | with_reducible apply regOk_steps
    | with_reducible apply tpCapReg_steps
    | with_reducible apply tpSchedReg_steps
    | (with_reducible intro u a b hu)
    | (with_reducible intro u a hu)
    | with_reducible refine Steps.foldl _ _ (fun u a h => ?_) ?_
    | with_reducible refine Steps.of_fst ?_ (by assumption)
    | with_reducible exact fun _ h => h
    | decide +kernel
    | split
    | dsimp only)

theorem timeReg_steps {parts : List Component} {s0 : State} {w : Who} {s : State} {d off : Nat} {write eight : Bool} {v : Nat}
    (h0 : Steps parts s0 s) (hsub : ∀ p ∈ [Component.dies, .routers, .hpins, .evr], p ∈ parts) : Steps parts s0 (timeReg w s d off write eight v).1 := by
  refine Steps.via (ps := parts) (qs := [Component.dies, .routers, .hpins, .evr]) h0 ?_ hsub
  clear h0 hsub
  unfold timeReg
  try dsimp only
  repeat' (first
    | with_reducible apply Steps.ite <;> intro _
    | with_reducible apply Steps.ite_fst <;> intro _
    | with_reducible exact Steps.refl _ _
    | with_reducible assumption
    | with_reducible apply regOk_steps
    | with_reducible apply tpReg_steps
    | with_reducible refine Steps.foldl _ _ (fun u a h => ?_) ?_
    | with_reducible refine Steps.of_fst ?_ (by assumption)
    | with_reducible exact fun _ h => h
    | decide +kernel
    | split
    | dsimp only)

theorem dieReg_steps {parts : List Component} {s0 : State} {w : Who} {s : State} {d off : Nat} {write eight : Bool} {v : Nat}
    (h0 : Steps parts s0 s) (hsub : ∀ p ∈ [Component.free, .dies, .routers, .lanesets, .links, .hpins, .evr, .lad], p ∈ parts) : Steps parts s0 (dieReg w s d off write eight v).1 := by
  refine Steps.via (ps := parts) (qs := [Component.free, .dies, .routers, .lanesets, .links, .hpins, .evr, .lad]) h0 ?_ hsub
  clear h0 hsub
  unfold dieReg
  try dsimp only
  repeat' (first
    | with_reducible apply Steps.ite <;> intro _
    | with_reducible apply Steps.ite_fst <;> intro _
    | with_reducible exact Steps.refl _ _
    | with_reducible assumption
    | with_reducible apply bayReg_steps
    | with_reducible apply dieLaneReg_steps
    | with_reducible apply gqReg_steps
    | with_reducible apply lgReg_steps
    | with_reducible apply noReg_steps
    | with_reducible apply probeReg_steps
    | with_reducible apply roReg_steps
    | with_reducible apply routerReg_steps
    | with_reducible apply siteSpan_steps
    | with_reducible apply sliceReg_steps
    | with_reducible apply timeReg_steps
    | with_reducible refine Steps.foldl _ _ (fun u a h => ?_) ?_
    | with_reducible refine Steps.of_fst ?_ (by assumption)
    | with_reducible exact fun _ h => h
    | decide +kernel
    | split
    | dsimp only)

theorem clkReg_steps {parts : List Component} {s0 : State} {s : State} {off : Nat} {write eight : Bool}
    (h0 : Steps parts s0 s) (hsub : ∀ p ∈ [Component.free, .dies, .routers, .lanesets, .links, .hpins, .evr, .lad], p ∈ parts) : Steps parts s0 (clkReg s off write eight).1 := by
  refine Steps.via (ps := parts) (qs := [Component.free, .dies, .routers, .lanesets, .links, .hpins, .evr, .lad]) h0 ?_ hsub
  clear h0 hsub
  unfold clkReg
  try dsimp only
  repeat' (first
    | with_reducible apply Steps.ite <;> intro _
    | with_reducible apply Steps.ite_fst <;> intro _
    | with_reducible exact Steps.refl _ _
    | with_reducible assumption
    | with_reducible apply regOk_steps
    | with_reducible refine Steps.foldl _ _ (fun u a h => ?_) ?_
    | with_reducible refine Steps.of_fst ?_ (by assumption)
    | with_reducible exact fun _ h => h
    | decide +kernel
    | split
    | dsimp only)

theorem State.probeEdge_steps {parts : List Component} {s0 : State} {s : State} {d : Nat}
    (h0 : Steps parts s0 s) (hsub : ∀ p ∈ [Component.dies], p ∈ parts) : Steps parts s0 (State.probeEdge s d) := by
  refine Steps.via (ps := parts) (qs := [Component.dies]) h0 ?_ hsub
  clear h0 hsub
  unfold State.probeEdge
  try dsimp only
  repeat' (first
    | with_reducible apply Steps.ite <;> intro _
    | with_reducible exact Steps.refl _ _
    | with_reducible assumption
    | with_reducible apply State.modProbe_steps
    | with_reducible refine Steps.foldl _ _ (fun u a h => ?_) ?_
    | with_reducible exact fun _ h => h
    | decide +kernel
    | split
    | dsimp only)

theorem State.giveBack_steps {parts : List Component} {s0 : State} {s : State} {node r p vc n : Nat}
    (h0 : Steps parts s0 s) (hsub : ∀ p ∈ [Component.routers, .links], p ∈ parts) : Steps parts s0 (State.giveBack s node r p vc n) := by
  refine Steps.via (ps := parts) (qs := [Component.routers, .links]) h0 ?_ hsub
  clear h0 hsub
  unfold State.giveBack
  try dsimp only
  repeat' (first
    | with_reducible apply Steps.ite <;> intro _
    | with_reducible exact Steps.refl _ _
    | with_reducible assumption
    | with_reducible apply State.modLink_steps
    | with_reducible apply State.modRouter_steps
    | with_reducible refine Steps.foldl _ _ (fun u a h => ?_) ?_
    | with_reducible exact fun _ h => h
    | decide +kernel
    | split
    | dsimp only)

theorem State.dropHead_steps {parts : List Component} {s0 : State} {s : State} {node r p vc : Nat}
    (h0 : Steps parts s0 s) (hsub : ∀ p ∈ [Component.routers, .links], p ∈ parts) : Steps parts s0 (State.dropHead s node r p vc) := by
  refine Steps.via (ps := parts) (qs := [Component.routers, .links]) h0 ?_ hsub
  clear h0 hsub
  unfold State.dropHead
  try dsimp only
  repeat' (first
    | with_reducible apply Steps.ite <;> intro _
    | with_reducible exact Steps.refl _ _
    | with_reducible assumption
    | with_reducible apply State.giveBack_steps
    | with_reducible apply State.modRouter_steps
    | with_reducible refine Steps.foldl _ _ (fun u a h => ?_) ?_
    | with_reducible exact fun _ h => h
    | decide +kernel
    | split
    | dsimp only)

theorem State.endOrphan_steps {parts : List Component} {s0 : State} {s : State} {k : Pkt}
    (h0 : Steps parts s0 s) (hsub : ∀ p ∈ [Component.guests], p ∈ parts) : Steps parts s0 (State.endOrphan s k) := by
  refine Steps.via (ps := parts) (qs := [Component.guests]) h0 ?_ hsub
  clear h0 hsub
  unfold State.endOrphan
  try dsimp only
  repeat' (first
    | with_reducible apply Steps.ite <;> intro _
    | with_reducible exact Steps.refl _ _
    | with_reducible assumption
    | with_reducible apply State.modGuest_steps
    | with_reducible refine Steps.foldl _ _ (fun u a h => ?_) ?_
    | with_reducible exact fun _ h => h
    | decide +kernel
    | split
    | dsimp only)

theorem packetArrive_steps {parts : List Component} {s0 : State} {s : State} {node r p vc : Nat} {u : FlitUpset}
    (h0 : Steps parts s0 s) (hsub : ∀ p ∈ [Component.free, .routers, .links, .guests, .log, .evr], p ∈ parts) : Steps parts s0 (packetArrive s node r p vc u) := by
  refine Steps.via (ps := parts) (qs := [Component.free, .routers, .links, .guests, .log, .evr]) h0 ?_ hsub
  clear h0 hsub
  unfold packetArrive
  try dsimp only
  repeat' (first
    | with_reducible apply Steps.ite <;> intro _
    | with_reducible exact Steps.refl _ _
    | with_reducible assumption
    | with_reducible apply State.countCorr_steps
    | with_reducible apply State.countDiscard_steps
    | with_reducible apply State.dropHead_steps
    | with_reducible apply State.endOrphan_steps
    | with_reducible apply State.modRouter_steps
    | with_reducible apply State.noteDenial_steps
    | with_reducible apply State.raiseDiscard_steps
    | with_reducible apply State.respond_steps
    | with_reducible refine Steps.foldl _ _ (fun u a h => ?_) ?_
    | with_reducible exact fun _ h => h
    | decide +kernel
    | split
    | dsimp only)

theorem State.wakeDown_steps {parts : List Component} {s0 : State} {s : State} {node r out : Nat}
    (h0 : Steps parts s0 s) (hsub : ∀ p ∈ [Component.routers], p ∈ parts) : Steps parts s0 (State.wakeDown s node r out) := by
  refine Steps.via (ps := parts) (qs := [Component.routers]) h0 ?_ hsub
  clear h0 hsub
  unfold State.wakeDown
  try dsimp only
  repeat' (first
    | with_reducible apply Steps.ite <;> intro _
    | with_reducible exact Steps.refl _ _
    | with_reducible assumption
    | with_reducible apply State.modRouter_steps
    | with_reducible refine Steps.foldl _ _ (fun u a h => ?_) ?_
    | with_reducible exact fun _ h => h
    | decide +kernel
    | split
    | dsimp only)

theorem State.grant_steps {parts : List Component} {s0 : State} {s : State} {node r out : Nat} {w : Nat × Nat × Pkt × Bool × Bool × Bool}
    (h0 : Steps parts s0 s) (hsub : ∀ p ∈ [Component.routers, .links], p ∈ parts) : Steps parts s0 (State.grant s node r out w) := by
  refine Steps.via (ps := parts) (qs := [Component.routers, .links]) h0 ?_ hsub
  clear h0 hsub
  unfold State.grant
  try dsimp only
  repeat' (first
    | with_reducible apply Steps.ite <;> intro _
    | with_reducible exact Steps.refl _ _
    | with_reducible assumption
    | with_reducible apply State.dropHead_steps
    | with_reducible apply State.modLink_steps
    | with_reducible apply State.modRouter_steps
    | with_reducible refine Steps.foldl _ _ (fun u a h => ?_) ?_
    | with_reducible exact fun _ h => h
    | decide +kernel
    | split
    | dsimp only)

theorem outputGrant_steps {parts : List Component} {s0 : State} {s : State} {node r out : Nat}
    (h0 : Steps parts s0 s) (hsub : ∀ p ∈ [Component.routers, .links], p ∈ parts) : Steps parts s0 (outputGrant s node r out) := by
  refine Steps.via (ps := parts) (qs := [Component.routers, .links]) h0 ?_ hsub
  clear h0 hsub
  unfold outputGrant
  try dsimp only
  repeat' (first
    | with_reducible apply Steps.ite <;> intro _
    | with_reducible exact Steps.refl _ _
    | with_reducible assumption
    | with_reducible apply State.grant_steps
    | with_reducible apply State.wakeDown_steps
    | with_reducible refine Steps.foldl _ _ (fun u a h => ?_) ?_
    | with_reducible exact fun _ h => h
    | decide +kernel
    | split
    | dsimp only)

theorem creditReturn_steps {parts : List Component} {s0 : State} {s : State} {node r p vc : Nat}
    (h0 : Steps parts s0 s) (hsub : ∀ p ∈ [Component.routers], p ∈ parts) : Steps parts s0 (creditReturn s node r p vc) := by
  refine Steps.via (ps := parts) (qs := [Component.routers]) h0 ?_ hsub
  clear h0 hsub
  unfold creditReturn
  try dsimp only
  repeat' (first
    | with_reducible apply Steps.ite <;> intro _
    | with_reducible exact Steps.refl _ _
    | with_reducible assumption
    | with_reducible apply State.modRouter_steps
    | with_reducible refine Steps.foldl _ _ (fun u a h => ?_) ?_
    | with_reducible exact fun _ h => h
    | decide +kernel
    | split
    | dsimp only)

theorem State.toSleeper_steps {parts : List Component} {s0 : State} {s : State} {node r p : Nat} {k : Pkt}
    (h0 : Steps parts s0 s) (hsub : ∀ p ∈ [Component.free, .routers, .log, .evr], p ∈ parts) : Steps parts s0 (State.toSleeper s node r p k) := by
  refine Steps.via (ps := parts) (qs := [Component.free, .routers, .log, .evr]) h0 ?_ hsub
  clear h0 hsub
  unfold State.toSleeper
  try dsimp only
  repeat' (first
    | with_reducible apply Steps.ite <;> intro _
    | with_reducible exact Steps.refl _ _
    | with_reducible assumption
    | with_reducible apply State.countDiscard_steps
    | with_reducible apply State.denyAtPort_steps
    | with_reducible apply State.modRouter_steps
    | with_reducible apply State.raiseDiscard_steps
    | with_reducible apply State.respond_steps
    | with_reducible refine Steps.foldl _ _ (fun u a h => ?_) ?_
    | with_reducible exact fun _ h => h
    | decide +kernel
    | split
    | dsimp only)

theorem State.sleeperOther_steps {parts : List Component} {s0 : State} {s : State} {d r p : Nat} {k : Pkt} {all : Bool}
    (h0 : Steps parts s0 s) (hsub : ∀ p ∈ [Component.free, .routers, .masters, .log, .evr], p ∈ parts) : Steps parts s0 (State.sleeperOther s d r p k all) := by
  refine Steps.via (ps := parts) (qs := [Component.free, .routers, .masters, .log, .evr]) h0 ?_ hsub
  clear h0 hsub
  unfold State.sleeperOther
  try dsimp only
  repeat' (first
    | with_reducible apply Steps.ite <;> intro _
    | with_reducible exact Steps.refl _ _
    | with_reducible assumption
    | with_reducible apply State.modRouter_steps
    | with_reducible apply State.toDrained_steps
    | with_reducible refine Steps.foldl _ _ (fun u a h => ?_) ?_
    | with_reducible exact fun _ h => h
    | decide +kernel
    | split
    | dsimp only)

theorem localDeliver_steps {parts : List Component} {s0 : State} {s : State} {node r p vc : Nat} {u : FlitUpset}
    (h0 : Steps parts s0 s) (hsub : ∀ p ∈ [Component.free, .routers, .masters, .clk, .log, .evr], p ∈ parts) : Steps parts s0 (localDeliver s node r p vc u) := by
  refine Steps.via (ps := parts) (qs := [Component.free, .routers, .masters, .clk, .log, .evr]) h0 ?_ hsub
  clear h0 hsub
  unfold localDeliver
  try dsimp only
  repeat' (first
    | with_reducible apply Steps.ite <;> intro _
    | with_reducible exact Steps.refl _ _
    | with_reducible assumption
    | with_reducible apply State.countCorr_steps
    | with_reducible apply State.countDiscard_steps
    | with_reducible apply State.modRouter_steps
    | with_reducible apply State.raiseDiscard_steps
    | with_reducible apply State.sleeperOther_steps
    | with_reducible apply State.toDrained_steps
    | with_reducible apply State.toElement_steps
    | with_reducible apply State.toSleeper_steps
    | with_reducible refine Steps.foldl _ _ (fun u a h => ?_) ?_
    | with_reducible exact fun _ h => h
    | decide +kernel
    | split
    | dsimp only)

theorem requestTimeout_steps {parts : List Component} {s0 : State} {s : State} {mid : BitVec 12} {tag : BitVec 10}
    (h0 : Steps parts s0 s) (hsub : ∀ p ∈ [Component.routers, .masters, .evr], p ∈ parts) : Steps parts s0 (requestTimeout s mid tag) := by
  refine Steps.via (ps := parts) (qs := [Component.routers, .masters, .evr]) h0 ?_ hsub
  clear h0 hsub
  unfold requestTimeout
  try dsimp only
  repeat' (first
    | with_reducible apply Steps.ite <;> intro _
    | with_reducible exact Steps.refl _ _
    | with_reducible assumption
    | with_reducible apply State.modMaster_steps
    | with_reducible apply State.raiseEvent_steps
    | with_reducible refine Steps.foldl _ _ (fun u a h => ?_) ?_
    | with_reducible exact fun _ h => h
    | decide +kernel
    | split
    | dsimp only)

theorem tagQuarantineEnd_steps {parts : List Component} {s0 : State} {s : State} {mid : BitVec 12} {tag : BitVec 10}
    (h0 : Steps parts s0 s) (hsub : ∀ p ∈ [Component.masters], p ∈ parts) : Steps parts s0 (tagQuarantineEnd s mid tag) := by
  refine Steps.via (ps := parts) (qs := [Component.masters]) h0 ?_ hsub
  clear h0 hsub
  unfold tagQuarantineEnd
  try dsimp only
  repeat' (first
    | with_reducible apply Steps.ite <;> intro _
    | with_reducible exact Steps.refl _ _
    | with_reducible assumption
    | with_reducible apply State.modMaster_steps
    | with_reducible refine Steps.foldl _ _ (fun u a h => ?_) ?_
    | with_reducible exact fun _ h => h
    | decide +kernel
    | split
    | dsimp only)

theorem spWrite_steps {parts : List Component} {s0 : State} {s : State} {n v : Nat}
    (h0 : Steps parts s0 s) (hsub : ∀ p ∈ [Component.free, .svc], p ∈ parts) : StepsO parts s0 (spWrite s n v) := by
  refine StepsO.via (ps := parts) (qs := [Component.free, .svc]) h0 ?_ hsub
  clear h0 hsub
  unfold spWrite
  try dsimp only
  repeat' (first
    | with_reducible apply Steps.ite <;> intro _
    | with_reducible exact Steps.refl _ _
    | with_reducible assumption
    | with_reducible apply State.drew_steps
    | with_reducible apply State.modSp_steps
    | with_reducible apply StepsO.ite <;> intro _
    | with_reducible exact StepsO.none
    | with_reducible apply StepsO.some
    | with_reducible refine StepsO.map ?_ (fun u hu => ?_)
    | with_reducible refine StepsO.bind ?_ (fun u hu => ?_)
    | with_reducible refine Steps.foldl _ _ (fun u a h => ?_) ?_
    | with_reducible refine Steps.of_some ?_ (by assumption)
    | with_reducible exact fun _ h => h
    | decide +kernel
    | split
    | dsimp only)

theorem State.modUart_steps {parts : List Component} {s0 : State} {s : State} {n : Nat} {f : Uart → Uart}
    (h0 : Steps parts s0 s) (hsub : ∀ p ∈ [Component.svc], p ∈ parts) : Steps parts s0 (State.modUart s n f) := by
  refine Steps.via (ps := parts) (qs := [Component.svc]) h0 ?_ hsub
  clear h0 hsub
  unfold State.modUart
  try dsimp only
  repeat' (first
    | with_reducible apply Steps.ite <;> intro _
    | with_reducible exact Steps.refl _ _
    | with_reducible assumption
    | with_reducible apply State.modSvc_steps
    | with_reducible refine Steps.foldl _ _ (fun u a h => ?_) ?_
    | with_reducible exact fun _ h => h
    | decide +kernel
    | split
    | dsimp only)

theorem State.modSpic_steps {parts : List Component} {s0 : State} {s : State} {n : Nat} {f : Spic → Spic}
    (h0 : Steps parts s0 s) (hsub : ∀ p ∈ [Component.svc], p ∈ parts) : Steps parts s0 (State.modSpic s n f) := by
  refine Steps.via (ps := parts) (qs := [Component.svc]) h0 ?_ hsub
  clear h0 hsub
  unfold State.modSpic
  try dsimp only
  repeat' (first
    | with_reducible apply Steps.ite <;> intro _
    | with_reducible exact Steps.refl _ _
    | with_reducible assumption
    | with_reducible apply State.modSvc_steps
    | with_reducible refine Steps.foldl _ _ (fun u a h => ?_) ?_
    | with_reducible exact fun _ h => h
    | decide +kernel
    | split
    | dsimp only)

theorem State.modI2c_steps {parts : List Component} {s0 : State} {s : State} {n : Nat} {f : I2c → I2c}
    (h0 : Steps parts s0 s) (hsub : ∀ p ∈ [Component.svc], p ∈ parts) : Steps parts s0 (State.modI2c s n f) := by
  refine Steps.via (ps := parts) (qs := [Component.svc]) h0 ?_ hsub
  clear h0 hsub
  unfold State.modI2c
  try dsimp only
  repeat' (first
    | with_reducible apply Steps.ite <;> intro _
    | with_reducible exact Steps.refl _ _
    | with_reducible assumption
    | with_reducible apply State.modSvc_steps
    | with_reducible refine Steps.foldl _ _ (fun u a h => ?_) ?_
    | with_reducible exact fun _ h => h
    | decide +kernel
    | split
    | dsimp only)

theorem State.settleUart_steps {parts : List Component} {s0 : State} {s : State} {n : Nat}
    (h0 : Steps parts s0 s) (hsub : ∀ p ∈ [Component.svc], p ∈ parts) : Steps parts s0 (State.settleUart s n) := by
  refine Steps.via (ps := parts) (qs := [Component.svc]) h0 ?_ hsub
  clear h0 hsub
  unfold State.settleUart
  try dsimp only
  repeat' (first
    | with_reducible apply Steps.ite <;> intro _
    | with_reducible exact Steps.refl _ _
    | with_reducible assumption
    | with_reducible apply State.modUart_steps
    | with_reducible refine Steps.foldl _ _ (fun u a h => ?_) ?_
    | with_reducible exact fun _ h => h
    | decide +kernel
    | split
    | dsimp only)

theorem State.svcPop_steps {parts : List Component} {s0 : State} {s : State} {off : Nat}
    (h0 : Steps parts s0 s) (hsub : ∀ p ∈ [Component.svc], p ∈ parts) : Steps parts s0 (State.svcPop s off) := by
  refine Steps.via (ps := parts) (qs := [Component.svc]) h0 ?_ hsub
  clear h0 hsub
  unfold State.svcPop
  try dsimp only
  repeat' (first
    | with_reducible apply Steps.ite <;> intro _
    | with_reducible exact Steps.refl _ _
    | with_reducible assumption
    | with_reducible apply State.modI2c_steps
    | with_reducible apply State.modSpic_steps
    | with_reducible apply State.modUart_steps
    | with_reducible refine Steps.foldl _ _ (fun u a h => ?_) ?_
    | with_reducible exact fun _ h => h
    | decide +kernel
    | split
    | dsimp only)

theorem uartWrite_steps {parts : List Component} {s0 : State} {s : State} {n off v : Nat}
    (h0 : Steps parts s0 s) (hsub : ∀ p ∈ [Component.svc], p ∈ parts) : Steps parts s0 (uartWrite s n off v) := by
  refine Steps.via (ps := parts) (qs := [Component.svc]) h0 ?_ hsub
  clear h0 hsub
  unfold uartWrite
  try dsimp only
  repeat' (first
    | with_reducible apply Steps.ite <;> intro _
    | with_reducible exact Steps.refl _ _
    | with_reducible assumption
    | with_reducible apply State.modUart_steps
    | with_reducible refine Steps.foldl _ _ (fun u a h => ?_) ?_
    | with_reducible exact fun _ h => h
    | decide +kernel
    | split
    | dsimp only)

theorem spicWrite_steps {parts : List Component} {s0 : State} {s : State} {n off v : Nat}
    (h0 : Steps parts s0 s) (hsub : ∀ p ∈ [Component.svc], p ∈ parts) : StepsO parts s0 (spicWrite s n off v) := by
  refine StepsO.via (ps := parts) (qs := [Component.svc]) h0 ?_ hsub
  clear h0 hsub
  unfold spicWrite
  try dsimp only
  repeat' (first
    | with_reducible apply Steps.ite <;> intro _
    | with_reducible exact Steps.refl _ _
    | with_reducible assumption
    | with_reducible apply State.modSpic_steps
    | with_reducible apply StepsO.ite <;> intro _
    | with_reducible exact StepsO.none
    | with_reducible apply StepsO.some
    | with_reducible refine StepsO.map ?_ (fun u hu => ?_)
    | with_reducible refine StepsO.bind ?_ (fun u hu => ?_)
    | with_reducible refine Steps.foldl _ _ (fun u a h => ?_) ?_
    | with_reducible refine Steps.of_some ?_ (by assumption)
    | with_reducible exact fun _ h => h
    | decide +kernel
    | split
    | dsimp only)

theorem i2cWrite_steps {parts : List Component} {s0 : State} {s : State} {n off v : Nat}
    (h0 : Steps parts s0 s) (hsub : ∀ p ∈ [Component.svc], p ∈ parts) : StepsO parts s0 (i2cWrite s n off v) := by
  refine StepsO.via (ps := parts) (qs := [Component.svc]) h0 ?_ hsub
  clear h0 hsub
  unfold i2cWrite
  try dsimp only
  repeat' (first
    | with_reducible apply Steps.ite <;> intro _
    | with_reducible exact Steps.refl _ _
    | with_reducible assumption
    | with_reducible apply State.modI2c_steps
    | with_reducible apply StepsO.ite <;> intro _
    | with_reducible exact StepsO.none
    | with_reducible apply StepsO.some
    | with_reducible refine StepsO.map ?_ (fun u hu => ?_)
    | with_reducible refine StepsO.bind ?_ (fun u hu => ?_)
    | with_reducible refine Steps.foldl _ _ (fun u a h => ?_) ?_
    | with_reducible refine Steps.of_some ?_ (by assumption)
    | with_reducible exact fun _ h => h
    | decide +kernel
    | split
    | dsimp only)

theorem svcWriteWord_steps {parts : List Component} {s0 : State} {s : State} {off v : Nat}
    (h0 : Steps parts s0 s) (hsub : ∀ p ∈ [Component.free, .svc], p ∈ parts) : StepsO parts s0 (svcWriteWord s off v) := by
  refine StepsO.via (ps := parts) (qs := [Component.free, .svc]) h0 ?_ hsub
  clear h0 hsub
  unfold svcWriteWord
  try dsimp only
  repeat' (first
    | with_reducible apply Steps.ite <;> intro _
    | with_reducible exact Steps.refl _ _
    | with_reducible assumption
    | with_reducible apply State.modSvc_steps
    | with_reducible apply uartWrite_steps
    | with_reducible apply StepsO.ite <;> intro _
    | with_reducible exact StepsO.none
    | with_reducible apply StepsO.some
    | with_reducible refine StepsO.map ?_ (fun u hu => ?_)
    | with_reducible refine StepsO.bind ?_ (fun u hu => ?_)
    | with_reducible apply i2cWrite_steps
    | with_reducible apply spWrite_steps
    | with_reducible apply spicWrite_steps
    | with_reducible refine Steps.foldl _ _ (fun u a h => ?_) ?_
    | with_reducible refine Steps.of_some ?_ (by assumption)
    | with_reducible exact fun _ h => h
    | decide +kernel
    | split
    | dsimp only)

theorem svcWrite_steps {parts : List Component} {s0 : State} {s : State} {off : Nat} {eight : Bool} {v : Nat}
    (h0 : Steps parts s0 s) (hsub : ∀ p ∈ [Component.free, .svc], p ∈ parts) : StepsO parts s0 (svcWrite s off eight v) := by
  refine StepsO.via (ps := parts) (qs := [Component.free, .svc]) h0 ?_ hsub
  clear h0 hsub
  unfold svcWrite
  try dsimp only
  repeat' (first
    | with_reducible apply Steps.ite <;> intro _
    | with_reducible exact Steps.refl _ _
    | with_reducible assumption
    | with_reducible apply StepsO.ite <;> intro _
    | with_reducible exact StepsO.none
    | with_reducible apply StepsO.some
    | with_reducible refine StepsO.map ?_ (fun u hu => ?_)
    | with_reducible refine StepsO.bind ?_ (fun u hu => ?_)
    | with_reducible apply svcWriteWord_steps
    | with_reducible refine Steps.foldl _ _ (fun u a h => ?_) ?_
    | with_reducible refine Steps.of_some ?_ (by assumption)
    | with_reducible exact fun _ h => h
    | decide +kernel
    | split
    | dsimp only)

theorem svcReg_steps {parts : List Component} {s0 : State} {w : Who} {s : State} {off : Nat} {write eight : Bool} {v : Nat}
    (h0 : Steps parts s0 s) (hsub : ∀ p ∈ [Component.free, .svc], p ∈ parts) : Steps parts s0 (svcReg w s off write eight v).1 := by
  refine Steps.via (ps := parts) (qs := [Component.free, .svc]) h0 ?_ hsub
  clear h0 hsub
  unfold svcReg
  try dsimp only
  repeat' (first
    | with_reducible apply Steps.ite <;> intro _
    | with_reducible apply Steps.ite_fst <;> intro _
    | with_reducible exact Steps.refl _ _
    | with_reducible assumption
    | with_reducible apply State.drew_steps
    | with_reducible apply State.settleUart_steps
    | with_reducible apply State.svcPop_steps
    | with_reducible apply regDenied_steps
    | with_reducible apply regErr_steps
    | with_reducible apply regOk_steps
    | with_reducible apply StepsO.ite <;> intro _
    | with_reducible exact StepsO.none
    | with_reducible apply StepsO.some
    | with_reducible refine StepsO.map ?_ (fun u hu => ?_)
    | with_reducible refine StepsO.bind ?_ (fun u hu => ?_)
    | with_reducible apply svcWrite_steps
    | with_reducible refine Steps.foldl _ _ (fun u a h => ?_) ?_
    | with_reducible refine Steps.of_fst ?_ (by assumption)
    | with_reducible refine Steps.of_some ?_ (by assumption)
    | with_reducible exact fun _ h => h
    | decide +kernel
    | split
    | dsimp only)

end Sys2Proof.Machine
end

