-- ==== Sys2Proof/Laws/Steps6.lean ====
section
/-! SUPPORT. Part 6 of the step lemmas: for each operation of the machine, which components of State it may change, and that it keeps
    every table's canonical form. Each lemma cites those of the operations it calls; none unfolds a callee. -/

open Sys2Proof
namespace Sys2Proof.Machine

set_option linter.all false
set_option Elab.async false

theorem slCycle_steps {parts : List Component} {s0 : State} {s : State} {d i : Nat} {u : SliceUpset}
    (h0 : Steps parts s0 s) (hsub : ∀ p ∈ [Component.free, .rsp, .dies, .routers, .evr], p ∈ parts) : Steps parts s0 (slCycle s d i u) := by
  refine Steps.via (ps := parts) (qs := [Component.free, .rsp, .dies, .routers, .evr]) h0 ?_ hsub
  clear h0 hsub
  unfold slCycle
  try dsimp only
  repeat' (first
    | with_reducible apply Steps.ite <;> intro _
    | with_reducible exact Steps.refl _ _
    | with_reducible assumption
    | with_reducible apply State.drew_steps
    | with_reducible apply State.modSlice_steps
    | with_reducible apply State.raiseSliceUe_steps
    | with_reducible apply State.serveWins_steps
    | with_reducible refine Steps.foldl _ _ (fun u a h => ?_) ?_
    | with_reducible exact fun _ h => h
    | decide +kernel
    | split
    | dsimp only)

theorem State.holdWin_steps {parts : List Component} {s0 : State} {s : State} {d g off : Nat} {write eight : Bool} {v : Nat} {who : Option (Nat × Nat × Pkt)}
    (h0 : Steps parts s0 s) (hsub : ∀ p ∈ [Component.dies], p ∈ parts) : Steps parts s0 (State.holdWin s d g off write eight v who) := by
  refine Steps.via (ps := parts) (qs := [Component.dies]) h0 ?_ hsub
  clear h0 hsub
  unfold State.holdWin
  try dsimp only
  repeat' (first
    | with_reducible apply Steps.ite <;> intro _
    | with_reducible exact Steps.refl _ _
    | with_reducible assumption
    | with_reducible apply State.modDie_steps
    | with_reducible refine Steps.foldl _ _ (fun u a h => ?_) ?_
    | with_reducible exact fun _ h => h
    | decide +kernel
    | split
    | dsimp only)

theorem State.laneEdge_steps {parts : List Component} {s0 : State} {s : State} {d : Nat} {nets : List Nat}
    (h0 : Steps parts s0 s) (hsub : ∀ p ∈ [Component.lanesets], p ∈ parts) : Steps parts s0 (State.laneEdge s d nets) := by
  refine Steps.via (ps := parts) (qs := [Component.lanesets]) h0 ?_ hsub
  clear h0 hsub
  unfold State.laneEdge
  try dsimp only
  repeat' (first
    | with_reducible apply Steps.ite <;> intro _
    | with_reducible exact Steps.refl _ _
    | with_reducible assumption
    | with_reducible apply State.modLane_steps
    | with_reducible refine Steps.foldl _ _ (fun u a h => ?_) ?_
    | with_reducible exact fun _ h => h
    | decide +kernel
    | split
    | dsimp only)

theorem State.tpEdgeDone_steps {parts : List Component} {s0 : State} {s : State} {d : Nat} {nets : List Nat}
    (h0 : Steps parts s0 s) (hsub : ∀ p ∈ [Component.dies, .hpins], p ∈ parts) : Steps parts s0 (State.tpEdgeDone s d nets) := by
  refine Steps.via (ps := parts) (qs := [Component.dies, .hpins]) h0 ?_ hsub
  clear h0 hsub
  unfold State.tpEdgeDone
  try dsimp only
  repeat' (first
    | with_reducible apply Steps.ite <;> intro _
    | with_reducible exact Steps.refl _ _
    | with_reducible assumption
    | with_reducible apply State.modTpin_steps
    | with_reducible refine Steps.foldl _ _ (fun u a h => ?_) ?_
    | with_reducible exact fun _ h => h
    | decide +kernel
    | split
    | dsimp only)

theorem State.fclkCycle_steps {parts : List Component} {s0 : State} {s : State} {d : Nat} {nets : List Nat}
    (h0 : Steps parts s0 s) (hsub : ∀ p ∈ [Component.free, .dies, .lanesets, .hpins], p ∈ parts) : Steps parts s0 (State.fclkCycle s d nets) := by
  refine Steps.via (ps := parts) (qs := [Component.free, .dies, .lanesets, .hpins]) h0 ?_ hsub
  clear h0 hsub
  unfold State.fclkCycle
  try dsimp only
  repeat' (first
    | with_reducible apply Steps.ite <;> intro _
    | with_reducible exact Steps.refl _ _
    | with_reducible assumption
    | with_reducible apply State.bramEdge_steps
    | with_reducible apply State.cellEdge_steps
    | with_reducible apply State.gqEdge_steps
    | with_reducible apply State.ioEdge_steps
    | with_reducible apply State.laneEdge_steps
    | with_reducible apply State.modDie_steps
    | with_reducible apply State.probeEdge_steps
    | with_reducible apply State.tpEdgeDone_steps
    | with_reducible refine Steps.foldl _ _ (fun u a h => ?_) ?_
    | with_reducible exact fun _ h => h
    | decide +kernel
    | split
    | dsimp only)

theorem State.lineWord_steps {parts : List Component} {s0 : State} {s : State} {k : Nat}
    (h0 : Steps parts s0 s) (hsub : ∀ p ∈ [Component.lanesets], p ∈ parts) : Steps parts s0 (State.lineWord s k) := by
  refine Steps.via (ps := parts) (qs := [Component.lanesets]) h0 ?_ hsub
  clear h0 hsub
  unfold State.lineWord
  try dsimp only
  repeat' (first
    | with_reducible apply Steps.ite <;> intro _
    | with_reducible exact Steps.refl _ _
    | with_reducible assumption
    | with_reducible apply State.modLane_steps
    | with_reducible refine Steps.foldl _ _ (fun u a h => ?_) ?_
    | with_reducible exact fun _ h => h
    | decide +kernel
    | split
    | dsimp only)

theorem State.clockDie_steps {parts : List Component} {s0 : State} {s : State} {d : Nat}
    (h0 : Steps parts s0 s) (hsub : ∀ p ∈ [Component.free, .dies, .lanesets, .hpins], p ∈ parts) : Steps parts s0 (State.clockDie s d) := by
  refine Steps.via (ps := parts) (qs := [Component.free, .dies, .lanesets, .hpins]) h0 ?_ hsub
  clear h0 hsub
  unfold State.clockDie
  try dsimp only
  repeat' (first
    | with_reducible apply Steps.ite <;> intro _
    | with_reducible exact Steps.refl _ _
    | with_reducible assumption
    | with_reducible apply State.cellEdge_steps
    | with_reducible apply State.fclkCycle_steps
    | with_reducible apply State.gqEdge_steps
    | with_reducible apply State.lineWord_steps
    | with_reducible refine Steps.foldl _ _ (fun u a h => ?_) ?_
    | with_reducible exact fun _ h => h
    | decide +kernel
    | split
    | dsimp only)

theorem State.tick_steps {parts : List Component} {s0 : State} {s : State}
    (h0 : Steps parts s0 s) (hsub : ∀ p ∈ [Component.now, .free, .dies, .lanesets, .times, .hpins], p ∈ parts) : Steps parts s0 (State.tick s) := by
  refine Steps.via (ps := parts) (qs := [Component.now, .free, .dies, .lanesets, .times, .hpins]) h0 ?_ hsub
  clear h0 hsub
  unfold State.tick
  try dsimp only
  repeat' (first
    | with_reducible apply Steps.ite <;> intro _
    | with_reducible exact Steps.refl _ _
    | with_reducible assumption
    | with_reducible apply State.clockDie_steps
    | with_reducible apply State.setNow_steps
    | with_reducible apply State.setTimes_steps
    | with_reducible refine Steps.foldl _ _ (fun u a h => ?_) ?_
    | with_reducible exact tabWf_tmod _ _ _ _
    | with_reducible exact tabWf_tput _ _ _ _
    | with_reducible exact tabWf_tmodAll _ _ _ _
    | with_reducible exact fun _ => tabWf_nil _
    | with_reducible exact fun _ h => h
    | decide +kernel
    | split
    | dsimp only)

theorem State.withFetchWord_steps {parts : List Component} {s0 : State} {s : State} {nbits w : Nat}
    (h0 : Steps parts s0 s) (hsub : ∀ p ∈ [Component.pending], p ∈ parts) : Steps parts s0 (State.withFetchWord s nbits w) := by
  refine Steps.via (ps := parts) (qs := [Component.pending]) h0 ?_ hsub
  clear h0 hsub
  unfold State.withFetchWord
  try dsimp only
  repeat' (first
    | with_reducible apply Steps.ite <;> intro _
    | with_reducible exact Steps.refl _ _
    | with_reducible assumption
    | with_reducible apply State.setPending_steps
    | with_reducible refine Steps.foldl _ _ (fun u a h => ?_) ?_
    | with_reducible exact fun _ h => h
    | decide +kernel
    | split
    | dsimp only)

theorem State.beginLoading_steps {parts : List Component} {s0 : State} {s : State} {d b : Nat} {repair : Bool}
    (h0 : Steps parts s0 s) (hsub : ∀ p ∈ [Component.dies, .routers, .masters, .lad], p ∈ parts) : Steps parts s0 (State.beginLoading s d b repair) := by
  refine Steps.via (ps := parts) (qs := [Component.dies, .routers, .masters, .lad]) h0 ?_ hsub
  clear h0 hsub
  unfold State.beginLoading
  try dsimp only
  repeat' (first
    | with_reducible apply Steps.ite <;> intro _
    | with_reducible exact Steps.refl _ _
    | with_reducible assumption
    | with_reducible apply State.clampBay_steps
    | with_reducible apply State.modBay_steps
    | with_reducible apply State.wipeFrames_steps
    | with_reducible apply State.wipeMems_steps
    | with_reducible refine Steps.foldl _ _ (fun u a h => ?_) ?_
    | with_reducible exact fun _ h => h
    | decide +kernel
    | split
    | dsimp only)

theorem State.boardDefaults_steps {parts : List Component} {s0 : State} {s : State}
    (h0 : Steps parts s0 s) (hsub : ∀ p ∈ [Component.acls, .routers, .masters, .lanesets, .guests, .tb, .cfg, .dram, .clk], p ∈ parts) : Steps parts s0 (State.boardDefaults s) := by
  refine Steps.via (ps := parts) (qs := [Component.acls, .routers, .masters, .lanesets, .guests, .tb, .cfg, .dram, .clk]) h0 ?_ hsub
  clear h0 hsub
  unfold State.boardDefaults
  try dsimp only
  repeat' (first
    | with_reducible apply Steps.ite <;> intro _
    | with_reducible exact Steps.refl _ _
    | with_reducible assumption
    | with_reducible apply State.modCfg_steps
    | with_reducible apply State.modClk_steps
    | with_reducible apply State.modDram_steps
    | with_reducible apply State.modTb_steps
    | with_reducible apply State.setAcls_steps
    | with_reducible apply State.setGuests_steps
    | with_reducible apply State.setLanesets_steps
    | with_reducible apply State.setMasters_steps
    | with_reducible apply State.setRouters_steps
    | with_reducible apply State.strapPref_steps
    | with_reducible refine Steps.foldl _ _ (fun u a h => ?_) ?_
    | with_reducible exact tabWf_tmod _ _ _ _
    | with_reducible exact tabWf_tput _ _ _ _
    | with_reducible exact tabWf_tmodAll _ _ _ _
    | with_reducible exact fun _ => tabWf_nil _
    | with_reducible exact fun _ h => h
    | decide +kernel
    | split
    | dsimp only)

theorem State.beginP0_steps {parts : List Component} {s0 : State} {s : State} {h : Bytes} {ifVer : Nat}
    (h0 : Steps parts s0 s) (hsub : ∀ p ∈ [Component.cfg, .dram, .gable, .evr], p ∈ parts) : Steps parts s0 (State.beginP0 s h ifVer) := by
  refine Steps.via (ps := parts) (qs := [Component.cfg, .dram, .gable, .evr]) h0 ?_ hsub
  clear h0 hsub
  unfold State.beginP0
  try dsimp only
  repeat' (first
    | with_reducible apply Steps.ite <;> intro _
    | with_reducible exact Steps.refl _ _
    | with_reducible assumption
    | with_reducible apply State.modCfg_steps
    | with_reducible apply State.modGable_steps
    | with_reducible apply State.setGstate_steps
    | with_reducible apply State.trainOrRefuse_steps
    | with_reducible refine Steps.foldl _ _ (fun u a h => ?_) ?_
    | with_reducible exact fun _ h => h
    | decide +kernel
    | split
    | dsimp only)

theorem State.fullSeg0_steps {parts : List Component} {s0 : State} {s : State} {prog : Bool} {h payload : Bytes}
    (h0 : Steps parts s0 s) (hsub : ∀ p ∈ [Component.acls, .routers, .masters, .lanesets, .guests, .tb, .cfg, .dram, .gable, .clk, .evr], p ∈ parts) : Steps parts s0 (State.fullSeg0 s prog h payload).1 := by
  refine Steps.via (ps := parts) (qs := [Component.acls, .routers, .masters, .lanesets, .guests, .tb, .cfg, .dram, .gable, .clk, .evr]) h0 ?_ hsub
  clear h0 hsub
  unfold State.fullSeg0
  try dsimp only
  repeat' (first
    | with_reducible apply Steps.ite <;> intro _
    | with_reducible apply Steps.ite_fst <;> intro _
    | with_reducible exact Steps.refl _ _
    | with_reducible assumption
    | with_reducible apply State.beginP0_steps
    | with_reducible apply State.boardDefaults_steps
    | with_reducible apply StepsO.ite <;> intro _
    | with_reducible exact StepsO.none
    | with_reducible apply StepsO.some
    | with_reducible refine StepsO.map ?_ (fun u hu => ?_)
    | with_reducible refine StepsO.bind ?_ (fun u hu => ?_)
    | with_reducible apply applyBoard_steps
    | with_reducible refine Steps.foldl _ _ (fun u a h => ?_) ?_
    | with_reducible refine Steps.of_fst ?_ (by assumption)
    | with_reducible refine Steps.of_some ?_ (by assumption)
    | with_reducible exact fun _ h => h
    | decide +kernel
    | split
    | dsimp only)

theorem State.baySeg0_steps {parts : List Component} {s0 : State} {s : State} {payload : Bytes}
    (h0 : Steps parts s0 s) (hsub : ∀ p ∈ [Component.dies, .routers, .masters, .cfg, .lad], p ∈ parts) : Steps parts s0 (State.baySeg0 s payload).1 := by
  refine Steps.via (ps := parts) (qs := [Component.dies, .routers, .masters, .cfg, .lad]) h0 ?_ hsub
  clear h0 hsub
  unfold State.baySeg0
  try dsimp only
  repeat' (first
    | with_reducible apply Steps.ite <;> intro _
    | with_reducible apply Steps.ite_fst <;> intro _
    | with_reducible exact Steps.refl _ _
    | with_reducible assumption
    | with_reducible apply State.beginLoading_steps
    | with_reducible apply State.modStrm_steps
    | with_reducible refine Steps.foldl _ _ (fun u a h => ?_) ?_
    | with_reducible refine Steps.of_fst ?_ (by assumption)
    | with_reducible exact fun _ h => h
    | decide +kernel
    | split
    | dsimp only)

theorem State.takeSegment_steps {parts : List Component} {s0 : State} {s : State} {prog : Bool} {bs : Bytes} {len : Nat}
    (h0 : Steps parts s0 s) (hsub : ∀ p ∈ [Component.ids, .acls, .dies, .routers, .masters, .flows, .lanesets, .links, .guests, .linkKeys, .hpins, .tb, .cfg, .dram, .flash, .fregions, .dma, .gable, .clk, .log, .evr, .svc, .lad], p ∈ parts) : Steps parts s0 (State.takeSegment s prog bs len) := by
  refine Steps.via (ps := parts) (qs := [Component.ids, .acls, .dies, .routers, .masters, .flows, .lanesets, .links, .guests, .linkKeys, .hpins, .tb, .cfg, .dram, .flash, .fregions, .dma, .gable, .clk, .log, .evr, .svc, .lad]) h0 ?_ hsub
  clear h0 hsub
  unfold State.takeSegment
  try dsimp only
  repeat' (first
    | with_reducible apply Steps.ite <;> intro _
    | with_reducible apply Steps.ite_fst <;> intro _
    | with_reducible exact Steps.refl _ _
    | with_reducible assumption
    | with_reducible apply State.baySeg0_steps
    | with_reducible apply State.fullSeg0_steps
    | with_reducible apply State.modStrm_steps
    | with_reducible apply State.strmFail_steps
    | with_reducible refine Steps.foldl _ _ (fun u a h => ?_) ?_
    | with_reducible refine Steps.of_fst ?_ (by assumption)
    | with_reducible exact fun _ h => h
    | decide +kernel
    | split
    | dsimp only)

theorem segmentReceive_steps {parts : List Component} {s0 : State} {s : State} {prog : Bool} {bytes : Bytes}
    (h0 : Steps parts s0 s) (hsub : ∀ p ∈ [Component.ids, .acls, .dies, .routers, .masters, .flows, .lanesets, .links, .guests, .linkKeys, .hpins, .tb, .cfg, .dram, .flash, .fregions, .dma, .gable, .clk, .log, .evr, .svc, .lad], p ∈ parts) : Steps parts s0 (segmentReceive s prog bytes) := by
  refine Steps.via (ps := parts) (qs := [Component.ids, .acls, .dies, .routers, .masters, .flows, .lanesets, .links, .guests, .linkKeys, .hpins, .tb, .cfg, .dram, .flash, .fregions, .dma, .gable, .clk, .log, .evr, .svc, .lad]) h0 ?_ hsub
  clear h0 hsub
  unfold segmentReceive
  try dsimp only
  repeat' (first
    | with_reducible apply Steps.ite <;> intro _
    | with_reducible exact Steps.refl _ _
    | with_reducible assumption
    | with_reducible apply State.closeStrm_steps
    | with_reducible apply State.modCfg_steps
    | with_reducible apply State.strmFail_steps
    | with_reducible apply State.takeSegment_steps
    | with_reducible refine Steps.foldl _ _ (fun u a h => ?_) ?_
    | with_reducible exact fun _ h => h
    | decide +kernel
    | split
    | dsimp only)

theorem State.putFrame_steps {parts : List Component} {s0 : State} {s : State} {x : Stream} {d i : Nat} {data : Bytes}
    (h0 : Steps parts s0 s) (hsub : ∀ p ∈ [Component.dies], p ∈ parts) : Steps parts s0 (State.putFrame s x d i data) := by
  refine Steps.via (ps := parts) (qs := [Component.dies]) h0 ?_ hsub
  clear h0 hsub
  unfold State.putFrame
  try dsimp only
  repeat' (first
    | with_reducible apply Steps.ite <;> intro _
    | with_reducible exact Steps.refl _ _
    | with_reducible assumption
    | with_reducible apply State.writeFrame_steps
    | with_reducible refine Steps.foldl _ _ (fun u a h => ?_) ?_
    | with_reducible exact fun _ h => h
    | decide +kernel
    | split
    | dsimp only)

theorem State.putRun_steps {parts : List Component} {s0 : State} {s : State} {x : Stream} {r : RecHdr} {count : Nat} {stride : Int} {data : Bytes}
    (h0 : Steps parts s0 s) (hsub : ∀ p ∈ [Component.dies], p ∈ parts) : StepsO parts s0 (State.putRun s x r count stride data) := by
  refine StepsO.via (ps := parts) (qs := [Component.dies]) h0 ?_ hsub
  clear h0 hsub
  unfold State.putRun
  try dsimp only
  repeat' (first
    | with_reducible apply Steps.ite <;> intro _
    | with_reducible exact Steps.refl _ _
    | with_reducible assumption
    | with_reducible apply State.putFrame_steps
    | with_reducible apply StepsO.ite <;> intro _
    | with_reducible exact StepsO.none
    | with_reducible apply StepsO.some
    | with_reducible refine StepsO.map ?_ (fun u hu => ?_)
    | with_reducible refine StepsO.bind ?_ (fun u hu => ?_)
    | with_reducible refine Steps.foldl _ _ (fun u a h => ?_) ?_
    | with_reducible refine Steps.of_some ?_ (by assumption)
    | with_reducible exact fun _ h => h
    | decide +kernel
    | split
    | dsimp only)

theorem State.recEffect_steps {ps : List Component} {s0 s u : State} {prog : Bool} {x : Stream} {r : RecHdr} {body : Bytes} {k : Nat}
    (h : Steps ps s0 s) (e : s.recEffect prog x r body = some (u, k)) (sub : ∀ p ∈ [Component.dies, .cfg], p ∈ ps) : Steps ps s0 u := by
  have key : ∀ (n : Nat) (st : Int) (b : Bytes) (v : State × Nat) (j : Nat), ((s.putRun x r n st b).map fun s => (s, j)) = some v → Steps ps s0 v.1 := by
    intro n st b v j hv
    cases hp : s.putRun x r n st b with
    | none => rw [hp] at hv; cases hv
    | some w => rw [hp] at hv; cases hv; exact Steps.of_some (State.putRun_steps h fun p hp => sub p (by simp_all)) hp
  unfold State.recEffect at e
  dsimp only at e
  by_cases h1 : r.typ = 1
  · rw [if_pos h1] at e
    cases e; exact State.modStrm_steps h fun p hp => sub p (by simp_all)
  · rw [if_neg h1] at e
    by_cases h2 : r.typ = 2
    · rw [if_pos h2] at e; exact key _ _ _ _ _ e
    · rw [if_neg h2] at e
      by_cases h3 : r.typ = 3
      · rw [if_pos h3] at e
        by_cases hc : tget [] x.yealms r.yealm = [] ∨ ¬ runOk r (if x.what = .bay ∨ x.what = .repair then 3488 else 409600)
        · rw [if_pos hc] at e; cases e
        · rw [if_neg hc] at e; exact key _ _ _ _ _ e
      · rw [if_neg h3] at e
        by_cases hc : (if x.what = .bay ∨ x.what = .repair then 3488 else 409600) < r.start + r.count
        · rw [if_pos hc] at e; cases e
        · rw [if_neg hc] at e; exact key _ _ _ _ _ e

theorem State.installDie_steps {parts : List Component} {s0 : State} {s : State} {d : Nat} {img : BitVec 64}
    (h0 : Steps parts s0 s) (hsub : ∀ p ∈ [Component.dies], p ∈ parts) : Steps parts s0 (State.installDie s d img) := by
  refine Steps.via (ps := parts) (qs := [Component.dies]) h0 ?_ hsub
  clear h0 hsub
  unfold State.installDie
  try dsimp only
  repeat' (first
    | with_reducible apply Steps.ite <;> intro _
    | with_reducible exact Steps.refl _ _
    | with_reducible assumption
    | with_reducible apply State.modDie_steps
    | with_reducible apply State.setBram_steps
    | with_reducible apply State.setGroup_steps
    | with_reducible refine Steps.foldl _ _ (fun u a h => ?_) ?_
    | with_reducible exact fun _ h => h
    | decide +kernel
    | split
    | dsimp only)

theorem State.endStream_steps {parts : List Component} {s0 : State} {s : State} {prog : Bool}
    (h0 : Steps parts s0 s) (hsub : ∀ p ∈ [Component.free, .rsp, .acls, .dies, .routers, .cfg, .gable, .evr], p ∈ parts) : Steps parts s0 (State.endStream s prog) := by
  refine Steps.via (ps := parts) (qs := [Component.free, .rsp, .acls, .dies, .routers, .cfg, .gable, .evr]) h0 ?_ hsub
  clear h0 hsub
  unfold State.endStream
  try dsimp only
  repeat' (first
    | with_reducible apply Steps.ite <;> intro _
    | with_reducible exact Steps.refl _ _
    | with_reducible assumption
    | with_reducible apply State.finishBay_steps
    | with_reducible apply State.installDie_steps
    | with_reducible apply State.modBay_steps
    | with_reducible apply State.modCfg_steps
    | with_reducible apply State.modStrm_steps
    | with_reducible refine Steps.foldl _ _ (fun u a h => ?_) ?_
    | with_reducible exact fun _ h => h
    | decide +kernel
    | split
    | dsimp only)

theorem State.takeEnd_steps {parts : List Component} {s0 : State} {s : State} {prog : Bool} {x : Stream} {r : RecHdr}
    (h0 : Steps parts s0 s) (hsub : ∀ p ∈ [Component.free, .rsp, .ids, .acls, .dies, .routers, .masters, .flows, .lanesets, .links, .guests, .linkKeys, .hpins, .tb, .cfg, .dram, .flash, .fregions, .dma, .gable, .clk, .log, .evr, .svc], p ∈ parts) : Steps parts s0 (State.takeEnd s prog x r) := by
  refine Steps.via (ps := parts) (qs := [Component.free, .rsp, .ids, .acls, .dies, .routers, .masters, .flows, .lanesets, .links, .guests, .linkKeys, .hpins, .tb, .cfg, .dram, .flash, .fregions, .dma, .gable, .clk, .log, .evr, .svc]) h0 ?_ hsub
  clear h0 hsub
  unfold State.takeEnd
  try dsimp only
  repeat' (first
    | with_reducible apply Steps.ite <;> intro _
    | with_reducible exact Steps.refl _ _
    | with_reducible assumption
    | with_reducible apply State.endStream_steps
    | with_reducible apply State.strmFail_steps
    | with_reducible refine Steps.foldl _ _ (fun u a h => ?_) ?_
    | with_reducible exact fun _ h => h
    | decide +kernel
    | split
    | dsimp only)

theorem State.takeRecord_steps {parts : List Component} {s0 : State} {s : State} {prog : Bool} {typ : Nat}
    (h0 : Steps parts s0 s) (hsub : ∀ p ∈ [Component.free, .rsp, .ids, .acls, .dies, .routers, .masters, .flows, .lanesets, .links, .guests, .linkKeys, .hpins, .tb, .cfg, .dram, .flash, .fregions, .dma, .gable, .clk, .log, .evr, .svc], p ∈ parts) : Steps parts s0 (State.takeRecord s prog typ) := by
  refine Steps.via (ps := parts) (qs := [Component.free, .rsp, .ids, .acls, .dies, .routers, .masters, .flows, .lanesets, .links, .guests, .linkKeys, .hpins, .tb, .cfg, .dram, .flash, .fregions, .dma, .gable, .clk, .log, .evr, .svc]) h0 ?_ hsub
  clear h0 hsub
  unfold State.takeRecord
  try dsimp only
  repeat' (first
    | with_reducible apply Steps.ite <;> intro _
    | with_reducible exact Steps.refl _ _
    | with_reducible assumption
    | with_reducible apply State.modCfg_steps
    | with_reducible apply State.modStrm_steps
    | with_reducible apply State.strmFail_steps
    | with_reducible apply State.takeEnd_steps
    | with_reducible refine Steps.foldl _ _ (fun u a h => ?_) ?_
    | with_reducible refine State.recEffect_steps ?_ (by assumption) ?_
    | with_reducible exact fun _ h => h
    | decide +kernel
    | split
    | dsimp only)

theorem recordStep_steps {parts : List Component} {s0 : State} {s : State} {prog : Bool} {typ : Nat}
    (h0 : Steps parts s0 s) (hsub : ∀ p ∈ [Component.free, .rsp, .ids, .acls, .dies, .routers, .masters, .flows, .lanesets, .links, .guests, .linkKeys, .hpins, .tb, .cfg, .dram, .flash, .fregions, .dma, .gable, .clk, .log, .evr, .svc], p ∈ parts) : Steps parts s0 (recordStep s prog typ) := by
  refine Steps.via (ps := parts) (qs := [Component.free, .rsp, .ids, .acls, .dies, .routers, .masters, .flows, .lanesets, .links, .guests, .linkKeys, .hpins, .tb, .cfg, .dram, .flash, .fregions, .dma, .gable, .clk, .log, .evr, .svc]) h0 ?_ hsub
  clear h0 hsub
  unfold recordStep
  try dsimp only
  repeat' (first
    | with_reducible apply Steps.ite <;> intro _
    | with_reducible exact Steps.refl _ _
    | with_reducible assumption
    | with_reducible apply State.modStrm_steps
    | with_reducible apply State.strmFail_steps
    | with_reducible apply State.takeRecord_steps
    | with_reducible refine Steps.foldl _ _ (fun u a h => ?_) ?_
    | with_reducible exact fun _ h => h
    | decide +kernel
    | split
    | dsimp only)

theorem State.takePush_steps {parts : List Component} {s0 : State} {s : State} {prog : Bool} {bs : Bytes}
    (h0 : Steps parts s0 s) (hsub : ∀ p ∈ [Component.ids, .acls, .dies, .routers, .masters, .flows, .lanesets, .links, .guests, .linkKeys, .hpins, .tb, .cfg, .dram, .flash, .fregions, .dma, .gable, .clk, .log, .evr, .svc], p ∈ parts) : Steps parts s0 (State.takePush s prog bs) := by
  refine Steps.via (ps := parts) (qs := [Component.ids, .acls, .dies, .routers, .masters, .flows, .lanesets, .links, .guests, .linkKeys, .hpins, .tb, .cfg, .dram, .flash, .fregions, .dma, .gable, .clk, .log, .evr, .svc]) h0 ?_ hsub
  clear h0 hsub
  unfold State.takePush
  try dsimp only
  repeat' (first
    | with_reducible apply Steps.ite <;> intro _
    | with_reducible exact Steps.refl _ _
    | with_reducible assumption
    | with_reducible apply State.modCfg_steps
    | with_reducible apply State.modStrm_steps
    | with_reducible apply State.takeHeader_steps
    | with_reducible refine Steps.foldl _ _ (fun u a h => ?_) ?_
    | with_reducible exact fun _ h => h
    | decide +kernel
    | split
    | dsimp only)

theorem cfgPush_steps {parts : List Component} {s0 : State} {w : Who} {s : State} {eight : Bool} {v : Nat}
    (h0 : Steps parts s0 s) (hsub : ∀ p ∈ [Component.free, .rsp, .ids, .acls, .dies, .routers, .masters, .flows, .lanesets, .links, .guests, .linkKeys, .hpins, .tb, .cfg, .dram, .flash, .fregions, .dma, .gable, .clk, .log, .evr, .svc, .lad], p ∈ parts) : Steps parts s0 (cfgPush w s eight v).1 := by
  refine Steps.via (ps := parts) (qs := [Component.free, .rsp, .ids, .acls, .dies, .routers, .masters, .flows, .lanesets, .links, .guests, .linkKeys, .hpins, .tb, .cfg, .dram, .flash, .fregions, .dma, .gable, .clk, .log, .evr, .svc, .lad]) h0 ?_ hsub
  clear h0 hsub
  unfold cfgPush
  try dsimp only
  repeat' (first
    | with_reducible apply Steps.ite <;> intro _
    | with_reducible apply Steps.ite_fst <;> intro _
    | with_reducible exact Steps.refl _ _
    | with_reducible assumption
    | with_reducible apply State.runHeld_steps
    | with_reducible apply State.takePush_steps
    | with_reducible apply regDenied_steps
    | with_reducible apply regErr_steps
    | with_reducible apply regOk_steps
    | with_reducible refine Steps.foldl _ _ (fun u a h => ?_) ?_
    | with_reducible refine Steps.of_fst ?_ (by assumption)
    | with_reducible exact fun _ h => h
    | decide +kernel
    | split
    | dsimp only)

theorem cfgReg_steps {parts : List Component} {s0 : State} {w : Who} {s : State} {off : Nat} {write eight : Bool} {v : Nat}
    (h0 : Steps parts s0 s) (hsub : ∀ p ∈ [Component.free, .rsp, .ids, .acls, .dies, .routers, .masters, .flows, .lanesets, .links, .guests, .linkKeys, .hpins, .tb, .cfg, .dram, .flash, .fregions, .dma, .gable, .clk, .log, .evr, .svc, .lad], p ∈ parts) : Steps parts s0 (cfgReg w s off write eight v).1 := by
  refine Steps.via (ps := parts) (qs := [Component.free, .rsp, .ids, .acls, .dies, .routers, .masters, .flows, .lanesets, .links, .guests, .linkKeys, .hpins, .tb, .cfg, .dram, .flash, .fregions, .dma, .gable, .clk, .log, .evr, .svc, .lad]) h0 ?_ hsub
  clear h0 hsub
  unfold cfgReg
  try dsimp only
  repeat' (first
    | with_reducible apply Steps.ite <;> intro _
    | with_reducible apply Steps.ite_fst <;> intro _
    | with_reducible exact Steps.refl _ _
    | with_reducible assumption
    | with_reducible apply cfgPush_steps
    | with_reducible apply regOk_steps
    | with_reducible refine Steps.foldl _ _ (fun u a h => ?_) ?_
    | with_reducible refine Steps.of_fst ?_ (by assumption)
    | with_reducible exact fun _ h => h
    | decide +kernel
    | split
    | dsimp only)

theorem State.tearDown_steps {parts : List Component} {s0 : State} {s : State} {keep : Nat}
    (h0 : Steps parts s0 s) (hsub : ∀ p ∈ [Component.ids, .acls, .dies, .routers, .masters, .flows, .lanesets, .links, .guests, .linkKeys, .hpins, .tb, .cfg, .dram, .flash, .fregions, .dma, .gable, .clk, .log, .evr, .svc], p ∈ parts) : Steps parts s0 (State.tearDown s keep) := by
  refine Steps.via (ps := parts) (qs := [Component.ids, .acls, .dies, .routers, .masters, .flows, .lanesets, .links, .guests, .linkKeys, .hpins, .tb, .cfg, .dram, .flash, .fregions, .dma, .gable, .clk, .log, .evr, .svc]) h0 ?_ hsub
  clear h0 hsub
  unfold State.tearDown
  try dsimp only
  repeat' (first
    | with_reducible apply Steps.ite <;> intro _
    | with_reducible exact Steps.refl _ _
    | with_reducible assumption
    | with_reducible apply State.endCommands_steps
    | with_reducible apply State.endSession_steps
    | with_reducible apply State.modCfg_steps
    | with_reducible apply State.setGstate_steps
    | with_reducible apply State.unload_steps
    | with_reducible refine Steps.foldl _ _ (fun u a h => ?_) ?_
    | with_reducible exact fun _ h => h
    | decide +kernel
    | split
    | dsimp only)

theorem State.commandLoad_steps {parts : List Component} {s0 : State} {s : State} {m : Nat} {hdr : Bytes}
    (h0 : Steps parts s0 s) (hsub : ∀ p ∈ [Component.ids, .acls, .dies, .routers, .masters, .flows, .lanesets, .links, .guests, .linkKeys, .hpins, .tb, .cfg, .dram, .flash, .fregions, .dma, .gable, .clk, .log, .evr, .svc], p ∈ parts) : Steps parts s0 (State.commandLoad s m hdr) := by
  refine Steps.via (ps := parts) (qs := [Component.ids, .acls, .dies, .routers, .masters, .flows, .lanesets, .links, .guests, .linkKeys, .hpins, .tb, .cfg, .dram, .flash, .fregions, .dma, .gable, .clk, .log, .evr, .svc]) h0 ?_ hsub
  clear h0 hsub
  unfold State.commandLoad
  try dsimp only
  repeat' (first
    | with_reducible apply Steps.ite <;> intro _
    | with_reducible exact Steps.refl _ _
    | with_reducible assumption
    | with_reducible apply State.admitPush_steps
    | with_reducible apply State.beginLoad_steps
    | with_reducible apply State.modSlot_steps
    | with_reducible apply State.takeHeader_steps
    | with_reducible apply State.tearDown_steps
    | with_reducible refine Steps.foldl _ _ (fun u a h => ?_) ?_
    | with_reducible exact fun _ h => h
    | decide +kernel
    | split
    | dsimp only)

theorem slotProgramBody_steps {parts : List Component} {s0 : State} {s : State} {m : Nat} {r : Request}
    (h0 : Steps parts s0 s) (hsub : ∀ p ∈ [Component.acls, .cfg], p ∈ parts) : Steps parts s0 (slotProgramBody s m r).1 := by
  refine Steps.via (ps := parts) (qs := [Component.acls, .cfg]) h0 ?_ hsub
  clear h0 hsub
  unfold slotProgramBody
  try dsimp only
  repeat' (first
    | with_reducible apply Steps.ite <;> intro _
    | with_reducible apply Steps.ite_fst <;> intro _
    | with_reducible exact Steps.refl _ _
    | with_reducible assumption
    | with_reducible apply State.admitPush_steps
    | with_reducible apply State.modCfg_steps
    | with_reducible refine Steps.foldl _ _ (fun u a h => ?_) ?_
    | with_reducible refine Steps.of_fst ?_ (by assumption)
    | with_reducible exact fun _ h => h
    | decide +kernel
    | split
    | dsimp only)

theorem hubLaneReg_steps {parts : List Component} {s0 : State} {s : State} {off : Nat} {write eight : Bool} {v : Nat}
    (h0 : Steps parts s0 s) (hsub : ∀ p ∈ [Component.free, .lanesets, .links], p ∈ parts) : Steps parts s0 (hubLaneReg s off write eight v).1 := by
  refine Steps.via (ps := parts) (qs := [Component.free, .lanesets, .links]) h0 ?_ hsub
  clear h0 hsub
  unfold hubLaneReg
  try dsimp only
  repeat' (first
    | with_reducible apply Steps.ite <;> intro _
    | with_reducible apply Steps.ite_fst <;> intro _
    | with_reducible exact Steps.refl _ _
    | with_reducible assumption
    | with_reducible apply laneSpan_steps
    | with_reducible apply linkReg_steps
    | with_reducible apply noReg_steps
    | with_reducible apply roReg_steps
    | with_reducible apply siteSpan_steps
    | with_reducible refine Steps.foldl _ _ (fun u a h => ?_) ?_
    | with_reducible refine Steps.of_fst ?_ (by assumption)
    | with_reducible exact fun _ h => h
    | decide +kernel
    | split
    | dsimp only)

theorem hubReg_steps {parts : List Component} {s0 : State} {w : Who} {s : State} {i off : Nat} {write eight : Bool} {v : Nat}
    (h0 : Steps parts s0 s) (hsub : ∀ p ∈ [Component.free, .rsp, .ids, .acls, .dies, .routers, .masters, .flows, .lanesets, .links, .guests, .linkKeys, .hpins, .tb, .cfg, .dram, .flash, .fregions, .dma, .gable, .clk, .log, .evr, .svc, .lad], p ∈ parts) : Steps parts s0 (hubReg w s i off write eight v).1 := by
  refine Steps.via (ps := parts) (qs := [Component.free, .rsp, .ids, .acls, .dies, .routers, .masters, .flows, .lanesets, .links, .guests, .linkKeys, .hpins, .tb, .cfg, .dram, .flash, .fregions, .dma, .gable, .clk, .log, .evr, .svc, .lad]) h0 ?_ hsub
  clear h0 hsub
  unfold hubReg
  try dsimp only
  repeat' (first
    | with_reducible apply Steps.ite <;> intro _
    | with_reducible apply Steps.ite_fst <;> intro _
    | with_reducible exact Steps.refl _ _
    | with_reducible assumption
    | with_reducible apply cfgReg_steps
    | with_reducible apply clkReg_steps
    | with_reducible apply dmaReg_steps
    | with_reducible apply evrReg_steps
    | with_reducible apply hubLaneReg_steps
    | with_reducible apply ladReg_steps
    | with_reducible apply memReg_steps
    | with_reducible apply roReg_steps
    | with_reducible apply svcReg_steps
    | with_reducible apply timeReg_steps
    | with_reducible refine Steps.foldl _ _ (fun u a h => ?_) ?_
    | with_reducible refine Steps.of_fst ?_ (by assumption)
    | with_reducible exact fun _ h => h
    | decide +kernel
    | split
    | dsimp only)

theorem regAccess_steps {parts : List Component} {s0 : State} {w : Who} {s : State} {t : Target} {addr : Nat} {write : Bool} {data : List (BitVec 8)} {n : Nat}
    (h0 : Steps parts s0 s) (hsub : ∀ p ∈ [Component.free, .rsp, .ids, .acls, .dies, .routers, .masters, .flows, .lanesets, .links, .guests, .linkKeys, .hpins, .tb, .cfg, .dram, .flash, .fregions, .dma, .gable, .clk, .log, .evr, .svc, .lad], p ∈ parts) : Steps parts s0 (regAccess w s t addr write data n).1 := by
  refine Steps.via (ps := parts) (qs := [Component.free, .rsp, .ids, .acls, .dies, .routers, .masters, .flows, .lanesets, .links, .guests, .linkKeys, .hpins, .tb, .cfg, .dram, .flash, .fregions, .dma, .gable, .clk, .log, .evr, .svc, .lad]) h0 ?_ hsub
  clear h0 hsub
  unfold regAccess
  try dsimp only
  repeat' (first
    | with_reducible apply Steps.ite <;> intro _
    | with_reducible apply Steps.ite_fst <;> intro _
    | with_reducible exact Steps.refl _ _
    | with_reducible assumption
    | with_reducible apply State.mbxRead_steps
    | with_reducible apply State.mbxWrite_steps
    | with_reducible apply dieReg_steps
    | with_reducible apply hubReg_steps
    | with_reducible refine Steps.foldl _ _ (fun u a h => ?_) ?_
    | with_reducible refine Steps.of_fst ?_ (by assumption)
    | with_reducible exact fun _ h => h
    | decide +kernel
    | split
    | dsimp only)

theorem State.controlAct_steps {parts : List Component} {s0 : State} {s : State} {t : Target} {k : Pkt}
    (h0 : Steps parts s0 s) (hsub : ∀ p ∈ [Component.free, .rsp, .ids, .acls, .dies, .routers, .masters, .flows, .lanesets, .links, .guests, .linkKeys, .hpins, .tb, .cfg, .dram, .flash, .fregions, .dma, .gable, .clk, .log, .evr, .svc, .lad], p ∈ parts) : Steps parts s0 (State.controlAct s t k).1 := by
  refine Steps.via (ps := parts) (qs := [Component.free, .rsp, .ids, .acls, .dies, .routers, .masters, .flows, .lanesets, .links, .guests, .linkKeys, .hpins, .tb, .cfg, .dram, .flash, .fregions, .dma, .gable, .clk, .log, .evr, .svc, .lad]) h0 ?_ hsub
  clear h0 hsub
  unfold State.controlAct
  try dsimp only
  repeat' (first
    | with_reducible apply Steps.ite <;> intro _
    | with_reducible apply Steps.ite_fst <;> intro _
    | with_reducible exact Steps.refl _ _
    | with_reducible assumption
    | with_reducible apply regAccess_steps
    | with_reducible refine Steps.foldl _ _ (fun u a h => ?_) ?_
    | with_reducible refine Steps.of_fst ?_ (by assumption)
    | with_reducible exact fun _ h => h
    | decide +kernel
    | split
    | dsimp only)

theorem State.controlRequest_steps {parts : List Component} {s0 : State} {s : State} {node r p : Nat} {k : Pkt}
    (h0 : Steps parts s0 s) (hsub : ∀ p ∈ [Component.free, .rsp, .ids, .acls, .dies, .routers, .masters, .flows, .lanesets, .links, .guests, .linkKeys, .hpins, .tb, .cfg, .dram, .flash, .fregions, .dma, .gable, .clk, .log, .evr, .svc, .lad], p ∈ parts) : Steps parts s0 (State.controlRequest s node r p k) := by
  refine Steps.via (ps := parts) (qs := [Component.free, .rsp, .ids, .acls, .dies, .routers, .masters, .flows, .lanesets, .links, .guests, .linkKeys, .hpins, .tb, .cfg, .dram, .flash, .fregions, .dma, .gable, .clk, .log, .evr, .svc, .lad]) h0 ?_ hsub
  clear h0 hsub
  unfold State.controlRequest
  try dsimp only
  repeat' (first
    | with_reducible apply Steps.ite <;> intro _
    | with_reducible apply Steps.ite_fst <;> intro _
    | with_reducible exact Steps.refl _ _
    | with_reducible assumption
    | with_reducible apply State.controlAct_steps
    | with_reducible apply State.denyAtPort_steps
    | with_reducible apply State.holdWin_steps
    | with_reducible apply State.respond_steps
    | with_reducible refine Steps.foldl _ _ (fun u a h => ?_) ?_
    | with_reducible refine Steps.of_fst ?_ (by assumption)
    | with_reducible exact fun _ h => h
    | decide +kernel
    | split
    | dsimp only)

theorem State.bayRequest_steps {parts : List Component} {s0 : State} {s : State} {node r p : Nat} {k : Pkt}
    (h0 : Steps parts s0 s) (hsub : ∀ p ∈ [Component.free, .routers, .log, .evr], p ∈ parts) : Steps parts s0 (State.bayRequest s node r p k) := by
  refine Steps.via (ps := parts) (qs := [Component.free, .routers, .log, .evr]) h0 ?_ hsub
  clear h0 hsub
  unfold State.bayRequest
  try dsimp only
  repeat' (first
    | with_reducible apply Steps.ite <;> intro _
    | with_reducible exact Steps.refl _ _
    | with_reducible assumption
    | with_reducible apply State.denyAtPort_steps
    | with_reducible apply State.drew_steps
    | with_reducible apply State.respond_steps
    | with_reducible refine Steps.foldl _ _ (fun u a h => ?_) ?_
    | with_reducible exact fun _ h => h
    | decide +kernel
    | split
    | dsimp only)

theorem State.popInbox_steps {parts : List Component} {s0 : State} {s : State} {node r p : Nat}
    (h0 : Steps parts s0 s) (hsub : ∀ p ∈ [Component.routers], p ∈ parts) : Steps parts s0 (State.popInbox s node r p) := by
  refine Steps.via (ps := parts) (qs := [Component.routers]) h0 ?_ hsub
  clear h0 hsub
  unfold State.popInbox
  try dsimp only
  repeat' (first
    | with_reducible apply Steps.ite <;> intro _
    | with_reducible exact Steps.refl _ _
    | with_reducible assumption
    | with_reducible apply State.modRouter_steps
    | with_reducible refine Steps.foldl _ _ (fun u a h => ?_) ?_
    | with_reducible exact fun _ h => h
    | decide +kernel
    | split
    | dsimp only)

theorem State.otherPacket_steps {parts : List Component} {s0 : State} {s : State} {e : Element} {k : Pkt}
    (h0 : Steps parts s0 s) (hsub : ∀ p ∈ [Component.evr], p ∈ parts) : Steps parts s0 (State.otherPacket s e k) := by
  refine Steps.via (ps := parts) (qs := [Component.evr]) h0 ?_ hsub
  clear h0 hsub
  unfold State.otherPacket
  try dsimp only
  repeat' (first
    | with_reducible apply Steps.ite <;> intro _
    | with_reducible exact Steps.refl _ _
    | with_reducible assumption
    | with_reducible apply State.modEvr_steps
    | with_reducible refine Steps.foldl _ _ (fun u a h => ?_) ?_
    | with_reducible exact fun _ h => h
    | decide +kernel
    | split
    | dsimp only)

theorem targetRequest_steps {parts : List Component} {s0 : State} {s : State} {node r p : Nat}
    (h0 : Steps parts s0 s) (hsub : ∀ p ∈ [Component.free, .rsp, .ids, .acls, .dies, .routers, .masters, .flows, .lanesets, .links, .guests, .linkKeys, .hpins, .tb, .cfg, .dram, .flash, .fregions, .dma, .gable, .clk, .log, .evr, .svc, .lad], p ∈ parts) : Steps parts s0 (targetRequest s node r p) := by
  refine Steps.via (ps := parts) (qs := [Component.free, .rsp, .ids, .acls, .dies, .routers, .masters, .flows, .lanesets, .links, .guests, .linkKeys, .hpins, .tb, .cfg, .dram, .flash, .fregions, .dma, .gable, .clk, .log, .evr, .svc, .lad]) h0 ?_ hsub
  clear h0 hsub
  unfold targetRequest
  try dsimp only
  repeat' (first
    | with_reducible apply Steps.ite <;> intro _
    | with_reducible exact Steps.refl _ _
    | with_reducible assumption
    | with_reducible apply State.bayRequest_steps
    | with_reducible apply State.controlRequest_steps
    | with_reducible apply State.otherPacket_steps
    | with_reducible apply State.popInbox_steps
    | with_reducible apply dramRequest_steps
    | with_reducible refine Steps.foldl _ _ (fun u a h => ?_) ?_
    | with_reducible exact fun _ h => h
    | decide +kernel
    | split
    | dsimp only)

theorem registerWrite_steps {parts : List Component} {s0 : State} {w : Who} {s : State} {addr : Nat} {eight : Bool} {v : Nat}
    (h0 : Steps parts s0 s) (hsub : ∀ p ∈ [Component.free, .rsp, .ids, .acls, .dies, .routers, .masters, .flows, .lanesets, .links, .guests, .linkKeys, .hpins, .tb, .cfg, .dram, .flash, .fregions, .dma, .gable, .clk, .log, .evr, .svc, .lad], p ∈ parts) : Steps parts s0 (registerWrite w s addr eight v) := by
  refine Steps.via (ps := parts) (qs := [Component.free, .rsp, .ids, .acls, .dies, .routers, .masters, .flows, .lanesets, .links, .guests, .linkKeys, .hpins, .tb, .cfg, .dram, .flash, .fregions, .dma, .gable, .clk, .log, .evr, .svc, .lad]) h0 ?_ hsub
  clear h0 hsub
  unfold registerWrite
  try dsimp only
  repeat' (first
    | with_reducible apply Steps.ite <;> intro _
    | with_reducible apply Steps.ite_fst <;> intro _
    | with_reducible exact Steps.refl _ _
    | with_reducible assumption
    | with_reducible refine State.access_steps ?_ (fun u hu => ?_) ?_
    | with_reducible apply State.answer_steps
    | with_reducible apply State.holdWin_steps
    | with_reducible apply regAccess_steps
    | with_reducible refine Steps.foldl _ _ (fun u a h => ?_) ?_
    | with_reducible refine Steps.of_fst ?_ (by assumption)
    | with_reducible exact fun _ h => h
    | decide +kernel
    | split
    | dsimp only)

theorem State.hostResponse_steps {parts : List Component} {s0 : State} {s : State} {mid : BitVec 12} {k : Pkt} {o : Outst}
    (h0 : Steps parts s0 s) (hsub : ∀ p ∈ [Component.links], p ∈ parts) : Steps parts s0 (State.hostResponse s mid k o) := by
  refine Steps.via (ps := parts) (qs := [Component.links]) h0 ?_ hsub
  clear h0 hsub
  unfold State.hostResponse
  try dsimp only
  repeat' (first
    | with_reducible apply Steps.ite <;> intro _
    | with_reducible exact Steps.refl _ _
    | with_reducible assumption
    | with_reducible apply State.modLink_steps
    | with_reducible refine Steps.foldl _ _ (fun u a h => ?_) ?_
    | with_reducible exact fun _ h => h
    | decide +kernel
    | split
    | dsimp only)

theorem masterResponse_steps {parts : List Component} {s0 : State} {s : State} {mid : BitVec 12}
    (h0 : Steps parts s0 s) (hsub : ∀ p ∈ [Component.routers, .masters, .links, .lad], p ∈ parts) : Steps parts s0 (masterResponse s mid) := by
  refine Steps.via (ps := parts) (qs := [Component.routers, .masters, .links, .lad]) h0 ?_ hsub
  clear h0 hsub
  unfold masterResponse
  try dsimp only
  repeat' (first
    | with_reducible apply Steps.ite <;> intro _
    | with_reducible exact Steps.refl _ _
    | with_reducible assumption
    | with_reducible apply State.busResponse_steps
    | with_reducible apply State.hostResponse_steps
    | with_reducible refine Steps.foldl _ _ (fun u a h => ?_) ?_
    | with_reducible refine State.takeRsp_steps ?_ (by assumption) ?_
    | with_reducible exact fun _ h => h
    | decide +kernel
    | split
    | dsimp only)

theorem State.programTime_steps {parts : List Component} {s0 : State} {s : State} {p : PendTime}
    (h0 : Steps parts s0 s) (hsub : ∀ p ∈ [Component.tb], p ∈ parts) : Steps parts s0 (State.programTime s p) := by
  refine Steps.via (ps := parts) (qs := [Component.tb]) h0 ?_ hsub
  clear h0 hsub
  unfold State.programTime
  try dsimp only
  repeat' (first
    | with_reducible apply Steps.ite <;> intro _
    | with_reducible exact Steps.refl _ _
    | with_reducible assumption
    | with_reducible apply State.modTb_steps
    | with_reducible refine Steps.foldl _ _ (fun u a h => ?_) ?_
    | with_reducible exact fun _ h => h
    | decide +kernel
    | split
    | dsimp only)

theorem State.skipEdges_steps {parts : List Component} {s0 : State} {s : State} {d : Nat}
    (h0 : Steps parts s0 s) (hsub : ∀ p ∈ [Component.dies, .hpins], p ∈ parts) : Steps parts s0 (State.skipEdges s d) := by
  refine Steps.via (ps := parts) (qs := [Component.dies, .hpins]) h0 ?_ hsub
  clear h0 hsub
  unfold State.skipEdges
  try dsimp only
  repeat' (first
    | with_reducible apply Steps.ite <;> intro _
    | with_reducible exact Steps.refl _ _
    | with_reducible assumption
    | with_reducible apply State.modTpin_steps
    | with_reducible refine Steps.foldl _ _ (fun u a h => ?_) ?_
    | with_reducible exact fun _ h => h
    | decide +kernel
    | split
    | dsimp only)

theorem applyTime_steps {parts : List Component} {s0 : State} {s : State}
    (h0 : Steps parts s0 s) (hsub : ∀ p ∈ [Component.dies, .times, .hpins, .tb, .gable, .evr], p ∈ parts) : Steps parts s0 (applyTime s) := by
  refine Steps.via (ps := parts) (qs := [Component.dies, .times, .hpins, .tb, .gable, .evr]) h0 ?_ hsub
  clear h0 hsub
  unfold applyTime
  try dsimp only
  repeat' (first
    | with_reducible apply Steps.ite <;> intro _
    | with_reducible exact Steps.refl _ _
    | with_reducible assumption
    | with_reducible apply State.answerLater_steps
    | with_reducible apply State.modMon_steps
    | with_reducible apply State.modTb_steps
    | with_reducible apply State.modTime_steps
    | with_reducible apply State.raiseHub_steps
    | with_reducible apply State.skipEdges_steps
    | with_reducible refine Steps.foldl _ _ (fun u a h => ?_) ?_
    | with_reducible exact fun _ h => h
    | decide +kernel
    | split
    | dsimp only)

theorem State.steerTo_steps {parts : List Component} {s0 : State} {s : State} {rate : Nat}
    (h0 : Steps parts s0 s) (hsub : ∀ p ∈ [Component.free, .tb], p ∈ parts) : Steps parts s0 (State.steerTo s rate) := by
  refine Steps.via (ps := parts) (qs := [Component.free, .tb]) h0 ?_ hsub
  clear h0 hsub
  unfold State.steerTo
  try dsimp only
  repeat' (first
    | with_reducible apply Steps.ite <;> intro _
    | with_reducible exact Steps.refl _ _
    | with_reducible assumption
    | with_reducible apply State.drew_steps
    | with_reducible apply State.programTime_steps
    | with_reducible refine Steps.foldl _ _ (fun u a h => ?_) ?_
    | with_reducible exact fun _ h => h
    | decide +kernel
    | split
    | dsimp only)

theorem State.ppsStep_steps {parts : List Component} {s0 : State} {s : State} {ps : Nat}
    (h0 : Steps parts s0 s) (hsub : ∀ p ∈ [Component.free, .tb], p ∈ parts) : Steps parts s0 (State.ppsStep s ps) := by
  refine Steps.via (ps := parts) (qs := [Component.free, .tb]) h0 ?_ hsub
  clear h0 hsub
  unfold State.ppsStep
  try dsimp only
  repeat' (first
    | with_reducible apply Steps.ite <;> intro _
    | with_reducible exact Steps.refl _ _
    | with_reducible assumption
    | with_reducible apply State.drew_steps
    | with_reducible apply State.modTb_steps
    | with_reducible apply State.programTime_steps
    | with_reducible refine Steps.foldl _ _ (fun u a h => ?_) ?_
    | with_reducible exact fun _ h => h
    | decide +kernel
    | split
    | dsimp only)

theorem State.ppsAccept_steps {parts : List Component} {s0 : State} {s : State} {ps : Nat} {err : Int}
    (h0 : Steps parts s0 s) (hsub : ∀ p ∈ [Component.free, .tb], p ∈ parts) : Steps parts s0 (State.ppsAccept s ps err) := by
  refine Steps.via (ps := parts) (qs := [Component.free, .tb]) h0 ?_ hsub
  clear h0 hsub
  unfold State.ppsAccept
  try dsimp only
  repeat' (first
    | with_reducible apply Steps.ite <;> intro _
    | with_reducible exact Steps.refl _ _
    | with_reducible assumption
    | with_reducible apply State.drew_steps
    | with_reducible apply State.modTb_steps
    | with_reducible apply State.programTime_steps
    | with_reducible apply State.steerTo_steps
    | with_reducible refine Steps.foldl _ _ (fun u a h => ?_) ?_
    | with_reducible exact fun _ h => h
    | decide +kernel
    | split
    | dsimp only)

theorem State.ppsReject_steps {parts : List Component} {s0 : State} {s : State} {err : Int}
    (h0 : Steps parts s0 s) (hsub : ∀ p ∈ [Component.tb, .evr], p ∈ parts) : Steps parts s0 (State.ppsReject s err) := by
  refine Steps.via (ps := parts) (qs := [Component.tb, .evr]) h0 ?_ hsub
  clear h0 hsub
  unfold State.ppsReject
  try dsimp only
  repeat' (first
    | with_reducible apply Steps.ite <;> intro _
    | with_reducible exact Steps.refl _ _
    | with_reducible assumption
    | with_reducible apply State.modTb_steps
    | with_reducible apply State.raiseHub_steps
    | with_reducible refine Steps.foldl _ _ (fun u a h => ?_) ?_
    | with_reducible exact fun _ h => h
    | decide +kernel
    | split
    | dsimp only)

theorem ppsPulse_steps {parts : List Component} {s0 : State} {s : State} {pin : Bool} {ps : Nat}
    (h0 : Steps parts s0 s) (hsub : ∀ p ∈ [Component.free, .tb, .evr], p ∈ parts) : Steps parts s0 (ppsPulse s pin ps) := by
  refine Steps.via (ps := parts) (qs := [Component.free, .tb, .evr]) h0 ?_ hsub
  clear h0 hsub
  unfold ppsPulse
  try dsimp only
  repeat' (first
    | with_reducible apply Steps.ite <;> intro _
    | with_reducible exact Steps.refl _ _
    | with_reducible assumption
    | with_reducible apply State.modTb_steps
    | with_reducible apply State.ppsAccept_steps
    | with_reducible apply State.ppsReject_steps
    | with_reducible apply State.ppsStep_steps
    | with_reducible refine Steps.foldl _ _ (fun u a h => ?_) ?_
    | with_reducible exact fun _ h => h
    | decide +kernel
    | split
    | dsimp only)

theorem timeLaneLock_steps {parts : List Component} {s0 : State} {s : State} {milliHz : Nat}
    (h0 : Steps parts s0 s) (hsub : ∀ p ∈ [Component.free, .tb], p ∈ parts) : Steps parts s0 (timeLaneLock s milliHz) := by
  refine Steps.via (ps := parts) (qs := [Component.free, .tb]) h0 ?_ hsub
  clear h0 hsub
  unfold timeLaneLock
  try dsimp only
  repeat' (first
    | with_reducible apply Steps.ite <;> intro _
    | with_reducible exact Steps.refl _ _
    | with_reducible assumption
    | with_reducible apply State.modTb_steps
    | with_reducible apply State.steerTo_steps
    | with_reducible refine Steps.foldl _ _ (fun u a h => ?_) ?_
    | with_reducible exact fun _ h => h
    | decide +kernel
    | split
    | dsimp only)

theorem timePacketSend_steps {parts : List Component} {s0 : State} {s : State}
    (h0 : Steps parts s0 s) (hsub : ∀ p ∈ [Component.routers, .tb], p ∈ parts) : Steps parts s0 (timePacketSend s) := by
  refine Steps.via (ps := parts) (qs := [Component.routers, .tb]) h0 ?_ hsub
  clear h0 hsub
  unfold timePacketSend
  try dsimp only
  repeat' (first
    | with_reducible apply Steps.ite <;> intro _
    | with_reducible exact Steps.refl _ _
    | with_reducible assumption
    | with_reducible apply State.modTb_steps
    | with_reducible apply State.sendFrom_steps
    | with_reducible refine Steps.foldl _ _ (fun u a h => ?_) ?_
    | with_reducible exact fun _ h => h
    | decide +kernel
    | split
    | dsimp only)

theorem alignTimeout_steps {parts : List Component} {s0 : State} {s : State} {d : Nat}
    (h0 : Steps parts s0 s) (hsub : ∀ p ∈ [Component.routers, .times, .evr], p ∈ parts) : Steps parts s0 (alignTimeout s d) := by
  refine Steps.via (ps := parts) (qs := [Component.routers, .times, .evr]) h0 ?_ hsub
  clear h0 hsub
  unfold alignTimeout
  try dsimp only
  repeat' (first
    | with_reducible apply Steps.ite <;> intro _
    | with_reducible exact Steps.refl _ _
    | with_reducible assumption
    | with_reducible apply State.modMon_steps
    | with_reducible apply State.raiseUncal_steps
    | with_reducible apply State.tryMeasure_steps
    | with_reducible refine Steps.foldl _ _ (fun u a h => ?_) ?_
    | with_reducible exact fun _ h => h
    | decide +kernel
    | split
    | dsimp only)

theorem State.updateParent_steps {parts : List Component} {s0 : State} {s : State} {d : Nat}
    (h0 : Steps parts s0 s) (hsub : ∀ p ∈ [Component.times], p ∈ parts) : Steps parts s0 (State.updateParent s d) := by
  refine Steps.via (ps := parts) (qs := [Component.times]) h0 ?_ hsub
  clear h0 hsub
  unfold State.updateParent
  try dsimp only
  repeat' (first
    | with_reducible apply Steps.ite <;> intro _
    | with_reducible exact Steps.refl _ _
    | with_reducible assumption
    | with_reducible apply State.modMon_steps
    | with_reducible apply State.tryMeasure_steps
    | with_reducible refine Steps.foldl _ _ (fun u a h => ?_) ?_
    | with_reducible exact fun _ h => h
    | decide +kernel
    | split
    | dsimp only)

theorem edgeCapture_steps {parts : List Component} {s0 : State} {s : State} {d n : Nat} {rise : Bool} {ps : Nat}
    (h0 : Steps parts s0 s) (hsub : ∀ p ∈ [Component.dies, .routers, .hpins, .evr], p ∈ parts) : Steps parts s0 (edgeCapture s d n rise ps) := by
  refine Steps.via (ps := parts) (qs := [Component.dies, .routers, .hpins, .evr]) h0 ?_ hsub
  clear h0 hsub
  unfold edgeCapture
  try dsimp only
  repeat' (first
    | with_reducible apply Steps.ite <;> intro _
    | with_reducible exact Steps.refl _ _
    | with_reducible assumption
    | with_reducible apply State.modTpin_steps
    | with_reducible apply State.raiseEvent_steps
    | with_reducible refine Steps.foldl _ _ (fun u a h => ?_) ?_
    | with_reducible exact fun _ h => h
    | decide +kernel
    | split
    | dsimp only)

theorem schedEdge_steps {parts : List Component} {s0 : State} {s : State} {d n : Nat}
    (h0 : Steps parts s0 s) (hsub : ∀ p ∈ [Component.dies, .hpins], p ∈ parts) : Steps parts s0 (schedEdge s d n) := by
  refine Steps.via (ps := parts) (qs := [Component.dies, .hpins]) h0 ?_ hsub
  clear h0 hsub
  unfold schedEdge
  try dsimp only
  repeat' (first
    | with_reducible apply Steps.ite <;> intro _
    | with_reducible exact Steps.refl _ _
    | with_reducible assumption
    | with_reducible apply State.modTpin_steps
    | with_reducible refine Steps.foldl _ _ (fun u a h => ?_) ?_
    | with_reducible exact fun _ h => h
    | decide +kernel
    | split
    | dsimp only)

end Sys2Proof.Machine
end

