-- ==== Sys2Proof/WellFormed.lean ====
section
/-! DEFINITION. The commands whose index operands name something a package of the family can have (01 R11 to R16, 03, 04, 07, 11, 13, 17).
A meaning is total: an ill-formed command finds nothing to act on. -/

namespace Sys2Proof

/-- F-dies 0-7; timing pins and links of the H-die are named by 8. -/
def dieOk (n : Nat) : Bool := decide (n ≤ 8)
/-- F-dies 0-7 and the H-die, 8. -/
def nodeOk (n : Nat) : Bool := decide (n ≤ 8)
/-- 48 routers on an F-die (07 R174). -/
def routerOk (n : Nat) : Bool := decide (n < 48)
/-- 2,048 slices on an F-die (04 R104). -/
def sliceOk (n : Nat) : Bool := decide (n < 2048)
/-- 128 groups of slices on an F-die (04 R104). -/
def groupOk (n : Nat) : Bool := decide (n < 128)
/-- 128 gutter queues on an F-die (03 R89). -/
def queueOk (n : Nat) : Bool := decide (n < 128)
/-- 3,072 block memories on an F-die (03 R77). -/
def memOk (n : Nat) : Bool := decide (n < 3072)
/-- 64 mailboxes (17 R437). -/
def mailboxOk (n : Nat) : Bool := decide (n < 64)
/-- Eight virtual channels (07 Table 7.1). -/
def vcOk (n : Nat) : Bool := decide (n < 8)
/-- Eight timing pins on a die (11 R305). -/
def pinOk (n : Nat) : Bool := decide (n < 8)
/-- 96 bays on an F-die (13 R341). -/
def bayOk (n : Nat) : Bool := decide (n < 96)
/-- 64 probe channels (02 R71). -/
def channelOk (n : Nat) : Bool := decide (n < 64)

/-- Every index operand of a command is in range. -/
def Instr.wellFormed (i : Instr) : Bool :=
  match i with
  | .requestInject _ _ => true
  | .targetRequest node router _ => nodeOk node && routerOk router
  | .registerWrite _ _ _ _ => true
  | .aclRead m => mailboxOk m
  | .aclWrite m => mailboxOk m
  | .bayRestore m => mailboxOk m
  | .probeSelect m => mailboxOk m
  | .probeSelWrite _ die ch _ => dieOk die && channelOk ch
  | .probeArm _ die _ => dieOk die
  | .probeForce _ die _ => dieOk die
  | .probeTrigger die => dieOk die
  | .probeCaptureDone die => dieOk die
  | .probeOverspeed die => dieOk die
  | .bramRead die mem _ _ _ => dieOk die && memOk mem
  | .bramWriteFull die mem _ _ _ => dieOk die && memOk mem
  | .bramWriteNarrow die mem _ _ _ _ _ => dieOk die && memOk mem
  | .gqFabricWrite die q _ => dieOk die && queueOk q
  | .gqFabricPop die q _ _ => dieOk die && queueOk q
  | .gqWriteSeenRead die q => dieOk die && queueOk q
  | .gqPopSeenWrite die q => dieOk die && queueOk q
  | .gqPush _ die q _ => dieOk die && queueOk q
  | .gqPop _ die q _ _ => dieOk die && queueOk q
  | .gqSnap _ die q => dieOk die && queueOk q
  | .gqClrCnt _ die q => dieOk die && queueOk q
  | .gqFlush _ die q => dieOk die && queueOk q
  | .gqFlushApply die q => dieOk die && queueOk q
  | .gqMarksWrite _ die q _ => dieOk die && queueOk q
  | .move die sl _ => dieOk die && sliceOk sl
  | .moveRegReg die sl _ => dieOk die && sliceOk sl
  | .moveImm die sl _ => dieOk die && sliceOk sl
  | .clr die sl _ => dieOk die && sliceOk sl
  | .mpy die sl _ => dieOk die && sliceOk sl
  | .mac die sl _ => dieOk die && sliceOk sl
  | .msu die sl _ => dieOk die && sliceOk sl
  | .macr die sl _ => dieOk die && sliceOk sl
  | .dmacS die sl _ => dieOk die && sliceOk sl
  | .dmacP die sl _ => dieOk die && sliceOk sl
  | .dmacA die sl _ => dieOk die && sliceOk sl
  | .dmacD die sl _ => dieOk die && sliceOk sl
  | .add die sl _ => dieOk die && sliceOk sl
  | .sub die sl _ => dieOk die && sliceOk sl
  | .abs die sl _ => dieOk die && sliceOk sl
  | .neg die sl _ => dieOk die && sliceOk sl
  | .rnd die sl _ => dieOk die && sliceOk sl
  | .sat die sl _ => dieOk die && sliceOk sl
  | .shl die sl _ => dieOk die && sliceOk sl
  | .shr die sl _ => dieOk die && sliceOk sl
  | .max die sl _ => dieOk die && sliceOk sl
  | .min die sl _ => dieOk die && sliceOk sl
  | .maxi die sl _ => dieOk die && sliceOk sl
  | .mini die sl _ => dieOk die && sliceOk sl
  | .reservedInstruction die sl _ => dieOk die && sliceOk sl
  | .loopCount die sl _ => dieOk die && sliceOk sl
  | .loopReg die sl _ => dieOk die && sliceOk sl
  | .loopEndFetch die sl _ => dieOk die && sliceOk sl
  | .jmp die sl _ => dieOk die && sliceOk sl
  | .jcc die sl _ => dieOk die && sliceOk sl
  | .call die sl _ => dieOk die && sliceOk sl
  | .ret die sl _ => dieOk die && sliceOk sl
  | .waitq die sl _ => dieOk die && sliceOk sl
  | .waitqRelease die sl => dieOk die && sliceOk sl
  | .trapret die sl _ => dieOk die && sliceOk sl
  | .halt die sl _ => dieOk die && sliceOk sl
  | .sliceInstructionTrap die sl => dieOk die && sliceOk sl
  | .sliceDataTrap die sl _ _ => dieOk die && sliceOk sl
  | .sliceHaltTaken die sl => dieOk die && sliceOk sl
  | .sliceDrainEnd die sl => dieOk die && sliceOk sl
  | .slStart _ die sl _ => dieOk die && sliceOk sl
  | .slHalt _ die sl => dieOk die && sliceOk sl
  | .slgStart _ die g _ => dieOk die && groupOk g
  | .slgHalt _ die g _ => dieOk die && groupOk g
  | .slPcWrite _ die sl _ => dieOk die && sliceOk sl
  | .slLoopAddrWrite _ die sl _ _ => dieOk die && sliceOk sl
  | .slStackDepthWrite _ die sl _ => dieOk die && sliceOk sl
  | .slCorrRead _ die sl => dieOk die && sliceOk sl
  | .sliceWindowWrite _ die g _ _ _ => dieOk die && groupOk g
  | .sliceWindowRead _ die g _ _ _ => dieOk die && groupOk g
  | .sliceStolenCycle die sl => dieOk die && sliceOk sl
  | .sliceStreamIn die sl _ _ _ => dieOk die && sliceOk sl
  | .sliceStreamOutPop die sl _ => dieOk die && sliceOk sl
  | .routerPacketArrive node router _ vc _ => nodeOk node && routerOk router && vcOk vc
  | .routerOutputGrant node router _ => nodeOk node && routerOk router
  | .creditReturn node router _ vc => nodeOk node && routerOk router && vcOk vc
  | .localPortDeliver node router _ vc _ => nodeOk node && routerOk router && vcOk vc
  | .masterResponse _ => true
  | .requestTimeout _ _ => true
  | .tagQuarantineEnd _ _ => true
  | .rtrRtWrite _ die router _ _ => dieOk die && routerOk router
  | .rtrCfgWrite _ die router _ => dieOk die && routerOk router
  | .rtrSnap _ die router => dieOk die && routerOk router
  | .rtrSnapDie _ die router => dieOk die && routerOk router
  | .rtrClrCnt _ die router => dieOk die && routerOk router
  | .routerIdleEntry node router => nodeOk node && routerOk router
  | .routerWake node router => nodeOk node && routerOk router
  | .portDrainEnd die bay => dieOk die && bayOk bay
  | .flowAdmit m => mailboxOk m
  | .flowRelease m => mailboxOk m
  | .flowReservationEnd _ => true
  | .flowQuery m => mailboxOk m
  | .laneUp m => mailboxOk m
  | .laneDown m => mailboxOk m
  | .laneTest m => mailboxOk m
  | .laneInject m => mailboxOk m
  | .lanePeriodicFlip _ _ => true
  | .laneLp m => mailboxOk m
  | .laneClear m => mailboxOk m
  | .lanePllLock _ => true
  | .laneDetectPulse _ _ => true
  | .laneTrainEnd _ => true
  | .orderedSetReceive _ _ _ _ _ => true
  | .laneStateTimeout _ => true
  | .laneFaultRestart _ => true
  | .laneSymbolError _ _ _ => true
  | .laneDrift _ _ _ => true
  | .laneLp1Entry _ => true
  | .laneLp1Exit _ _ => true
  | .laneLp2Request _ => true
  | .laneLp2Exit _ => true
  | .frameSlot _ => true
  | .frameReceive _ _ => true
  | .nakTimeout _ => true
  | .replayTimeout _ => true
  | .rprRetryTimeout _ => true
  | .tosSend _ => true
  | .linkDelayValid _ => true
  | .linkShutdownStep _ => true
  | .linkDownWaitEnd _ => true
  | .linkDrainTimeout _ => true
  | .gcapReceive _ _ => true
  | .gcapTimeout _ => true
  | .guestPacketReceive _ _ _ _ => true
  | .hostRequestReceive _ _ _ _ => true
  | .creditStallTimeout _ => true
  | .orphanExpire _ => true
  | .linkSnap _ _ => true
  | .linkClrCnt _ _ => true
  | .ppsPulse _ _ => true
  | .ppsLossTimeout => true
  | .timeLaneLock _ => true
  | .timeApplyInstant => true
  | .timeGet m => mailboxOk m
  | .timeSet m => mailboxOk m
  | .timeSource m => mailboxOk m
  | .timeAdj m => mailboxOk m
  | .timeStatus m => mailboxOk m
  | .timePin m => mailboxOk m
  | .timeNotify m => mailboxOk m
  | .timePacketSend => true
  | .alignMeasureTimeout die => dieOk die
  | .parentOkUpdate die => dieOk die
  | .tpEdgeCapture die pin _ _ => dieOk die && pinOk pin
  | .tpCapPop _ die pin => dieOk die && pinOk pin
  | .tpSchedWrite _ die pin _ => dieOk die && pinOk pin
  | .tpFabricSched die pin _ _ => dieOk die && pinOk pin
  | .tpSchedEdge die pin => dieOk die && pinOk pin
  | .tpWinWrite _ die pin _ _ => dieOk die && pinOk pin
  | .tpFlushCap _ die pin => dieOk die && pinOk pin
  | .tpFlushSched _ die pin => dieOk die && pinOk pin
  | .tpClrCnt _ die pin => dieOk die && pinOk pin
  | .pornAssert => true
  | .pornRelease _ => true
  | .oscdDelayEnd _ => true
  | .srstnAssert => true
  | .srstnRelease => true
  | .bootStart _ _ _ _ => true
  | .segmentReceive _ _ => true
  | .recordYealmDef _ => true
  | .recordFrameLit _ => true
  | .recordFramePut _ => true
  | .recordZeroRun _ => true
  | .recordEnd _ => true
  | .wipeComplete => true
  | .dieUnreachableTimeout die => dieOk die
  | .phaseP1 _ => true
  | .phaseP2 => true
  | .phaseP3 => true
  | .p3IoEnable => true
  | .phaseP4 => true
  | .cfgStatus m => mailboxOk m
  | .loadImage m _ => mailboxOk m
  | .imageData m => mailboxOk m
  | .slotProgram m => mailboxOk m
  | .cfgPush _ _ => true
  | .pushTimeout _ => true
  | .bayLoad m => mailboxOk m
  | .bayShutdown m => mailboxOk m
  | .bayEnable m => mailboxOk m
  | .bayStatus m => mailboxOk m
  | .bayRepairSrc m => mailboxOk m
  | .scrubCtrl m => mailboxOk m
  | .leggettFrameRead die _ => dieOk die
  | .bayRepairStart => true
  | .leggettMemVisit die _ _ _ _ _ => dieOk die
  | .memStatus m => mailboxOk m
  | .memUp m => mailboxOk m
  | .memDown m => mailboxOk m
  | .memInit m => mailboxOk m
  | .memRegion m => mailboxOk m
  | .memMap m => mailboxOk m
  | .memLp m => mailboxOk m
  | .memScrub m => mailboxOk m
  | .memClrCnt _ _ => true
  | .memTrainingDone _ => true
  | .memTrainingTimeout _ _ => true
  | .memShutdownEnd _ => true
  | .memSrefExitEnd _ => true
  | .dramCommandIssue _ _ => true
  | .dramReadReturn _ _ _ => true
  | .dramRefresh _ _ => true
  | .dramMr4Poll _ _ _ _ => true
  | .zqCalibration _ _ => true
  | .dqsRetrack _ _ => true
  | .dramAlert _ => true
  | .dramPdEntry _ => true
  | .dramSrefEntry _ => true
  | .dramPatrolRead _ _ => true
  | .keyLoad m => mailboxOk m
  | .keyRegion m => mailboxOk m
  | .keyLink m => mailboxOk m
  | .keyErase m => mailboxOk m
  | .keyStatus m => mailboxOk m
  | .dmaGrant m => mailboxOk m
  | .dmaRelease m => mailboxOk m
  | .dmaQuery m => mailboxOk m
  | .dmaGo _ _ _ _ => true
  | .dmaStop _ _ => true
  | .dmaClear _ _ => true
  | .dmaSnap _ _ => true
  | .dmaTimedStart _ => true
  | .dmaBeatIssue _ _ => true
  | .dmaBeatResponse _ => true
  | .dmaRetryTimer _ _ => true
  | .mbxOpen m => mailboxOk m
  | .mbxClose m => mailboxOk m
  | .mbxHeartbeat m => mailboxOk m
  | .mbxSessions m => mailboxOk m
  | .idGet m => mailboxOk m
  | .fwInfo m => mailboxOk m
  | .portTimeout m => mailboxOk m
  | .mbxCplAck _ m => mailboxOk m
  | .mbxEvpop _ m => mailboxOk m
  | .heartbeatTimeout m => mailboxOk m
  | .watchdogExpire => true
  | .gableRestart _ _ _ _ => true
  | .gableSramScrub _ => true
  | .spiWrite _ _ => true
  | .spiRead _ _ => true
  | .spiReadStatus => true
  | .clkStatus m => mailboxOk m
  | .clkSelect m => mailboxOk m
  | .clkswForce m => mailboxOk m
  | .clockSwitchEnd _ => true
  | .clockNodeFail _ => true
  | .clockNodeRunning _ _ => true
  | .aoclkFail => true
  | .pwrSet m => mailboxOk m
  | .pwrPermit m => mailboxOk m
  | .pwrStatus m => mailboxOk m
  | .pwrWake m => mailboxOk m
  | .elementIdleEntry _ die _ _ => dieOk die
  | .powerEntryEnd _ die _ => dieOk die
  | .elementWake _ die _ => dieOk die
  | .wakeExitEnd _ die _ => dieOk die
  | .packageWakeSource _ => true
  | .wakeAlarm => true
  | .packageWakeEnd => true
  | .logInfo m => mailboxOk m
  | .logRead m => mailboxOk m
  | .logClear m => mailboxOk m
  | .logEntryWrite => true
  | .ridgeStatus m => mailboxOk m
  | .eventRoute => true
  | .fabricEventInput die _ _ => dieOk die
  | .evrRaise _ _ => true
  | .evrPop _ _ => true
  | .evrOutFlush _ _ => true
  | .evrOutClrLost _ _ => true
  | .spPinWrite _ _ _ => true
  | .spPinSwitchDone _ => true
  | .gpioSet _ _ => true
  | .gpioClr _ _ => true
  | .uartTx _ _ _ => true
  | .uartRx _ _ => true
  | .uartRxByte _ _ _ _ => true
  | .spicXfer _ _ _ => true
  | .spicXferDone _ _ => true
  | .spicRx _ _ => true
  | .i2cCmd _ _ _ => true
  | .i2cXferDone _ _ _ _ => true
  | .i2cRx _ _ => true
  | .ppsOutPulse => true
  | .trstnAssert => true
  | .extest _ _ => true
  | .idcode _ => true
  | .samplePreload _ _ => true
  | .extestPulse _ _ => true
  | .extestTrain _ _ => true
  | .clamp _ => true
  | .highz _ => true
  | .busacc _ => true
  | .auth _ => true
  | .authVerifyDone => true
  | .wake => true
  | .bypass _ _ => true
  | .ldFclkStop _ die _ => dieOk die
  | .ldFclkStep _ _ => true
  | .ldSlgFreeze _ die _ _ => dieOk die
  | .ldSlgStep _ _ => true
  | .ldCapGo _ _ => true
  | .ldGableHalt _ => true
  | .ldGableHaltForced => true
  | .ldGableRun _ => true
  | .ldGableStep _ => true
  | .vddDbgLoss => true
  | .supplyMonitorReset => true
  | .thermtrip die => dieOk die
  | .userLaneLock _ _ _ => true
  | .prbsCheckerLock _ _ _ => true
  | .prbsCheckerUnlock _ _ _ => true
  | .dramLpExit _ => true
  | .supplyReturn => true
  | .vddDbgReturn => true
  | .slotProgramEnd => true
  | .userLaneTxidle _ _ _ => true

end Sys2Proof
end

