-- ==== Sys2Proof/Tests/Slice0.lean ====
section
/-! SUPPORT. Tests: the spec's worked examples, an ill-formed term for each check of WellFormed, and for each clause of each statement that has
hypotheses a state and operands that meet them together. -/

open Sys2Proof Sys2Proof.Machine

set_option linter.all false
set_option Elab.async false
set_option maxRecDepth 20000

namespace Sys2Proof.Tests

/-! ### States the witnesses stand on: each sets the few things its clauses ask for -/

/-- The gable controller as requester: privileged, with effect. -/
def who0 : Who := { src := 0x800, priv := true, effect := true }
/-- FCLK net 0 of F-die 0 and NOCCLK run. -/
def clocked : State := State.reset.modNode (fclkNode 0 0) fun c => { c with state := .running }
def gqE : GqEntry := { data := 7 }
def gqOf (n : Nat) (sel : BitVec 6) : Gq :=
  { used := true, wsel := sel, rsel := sel, entries := List.replicate n gqE, rSeen := 1, unseenPops := if n = 1 then 1 else 0 }
def gqState : State := clocked.modGq 0 1 fun _ => gqOf 1 0
def gqFullState : State := clocked.modGq 0 1 fun _ => gqOf 2048 0
def gqFlushState : State := clocked.modGq 0 1 fun _ => { gqOf 1 0 with flush := true, flushMark := 1 }
def gqRegState : State := clocked.modGq 0 1 fun _ => gqOf 1 32
def bramState : State := clocked.modBram 0 2500 fun b => { b with loaded := true, words := tput markWord b.words 3 (goodWord 5) }
/-- The machine with an image running. -/
def running : State :=
  (clocked.modCfg fun c => { c with phase := .running, coreUp := true, porn := false, started := true }).modClk fun k => { k with wakeEn := 0x20 }
/-- The request waits in mailbox 0 of an open session with every role. -/
def asking (s : State) (cmd : Nat) (arg : List (BitVec 8)) : State :=
  s.modMbx 0 fun b =>
    { b with bound := true, gen := 1, roles := 15, opener := 0x801, ringing := true,
             req := tabWrite [] 0 (leBytes 16 (cmd + 5 * 2 ^ 16 + arg.length * 2 ^ 32 + 256 * 2 ^ 64) ++ arg) }
/-- Bay 3 of F-die 0 in a state. -/
def bayIn (st : BayState) : State := running.modBay 0 3 fun b => { b with state := st, clamped := false, fclkOn := true, portOpen := true }
def probeState : State := running.modProbe 0 fun p => { p with taps := 8, sel := [(0, { tap := 1, en := true, dest := true })] }
def probeArmed : State := probeState.modProbe 0 fun p => { p with armed := true, trigMode := true, stored := 5 }
def lgState : State := running.modLeggett 0 fun l => { l with cfgRun := true, memRun := true }
/-- Slice 0 of group 100 of F-die 0 runs with a word at its PC; its memories are loaded. -/
def slAt (w : BitVec 40) : State :=
  (running.modGroup 0 100 fun g => { g with loaded := true }).modSlice 0 1600 fun m => { m with run := .running, imem := [(0, { data := w, health := .good })] }
def flight (w : BitVec 40) : Flight := { Flight.reset with word := w }
def inM2 (w : BitVec 40) : Slice := { Slice.reset with run := .running, stM2 := some (flight w) }
/-- A request of bay 3 of F-die 0 for DRAM that nothing maps, and for the H-die's identification. -/
def rqNone : Req := { opc := 0, addr := 0, len := 3, ord := false, poison := false, be := 0, data := [] }
def rqHub : Req := { rqNone with addr := 0xF00000000000 }
def bayMst : State := bayIn .active
/-- A packet for F-die 0, router (1, 1), port 0. -/
def pk : Pkt := { src := 0x003, cls := .req, opc := 0, len := 3, die := 0, x := 1, y := 1, port := 0, addr := 0x400000000000 }
def pkRouted (r : BitVec 6) : Pkt := { pk with route := some r.toNat }
/-- It stands at input port 5, VC 0, of a router of F-die 0. -/
def atRouter (r : Nat) (k : Pkt) : State := running.modRouter 0 r fun x => { x with inq := [(40, [k])] }
def gableReq (a : BitVec 48) (opc : BitVec 5) : Pkt :=
  { src := 0x800, cls := .req, opc := opc, len := 3, die := 0, x := 5, y := 0, port := 2, addr := a, tag := 9 }
/-- A request has been delivered to the control port of F-die 0. -/
def atControl (k : Pkt) : State := running.modRouter 0 5 fun x => { x with inbox := [(7, [k])] }
def flowArgs (deadline : Nat) : List (BitVec 8) :=
  leBytes 4 0x003 ++ leBytes 8 0x400A00000000 ++ leBytes 4 63 ++ leBytes 2 64 ++ leBytes 2 0 ++ leBytes 4 1 ++ leBytes 4 1000000 ++ leBytes 4 deadline ++ leBytes 4 0
/-- A flow of 64-byte packets from bay 3 to bay 5 of F-die 0, both ACTIVE, is asked for. -/
def flowAsk : State := asking ((bayIn .active).modBay 0 5 fun b => { b with state := .active, clamped := false, fclkOn := true, portOpen := true }) 0x0200 (flowArgs 100000)
def flowAskLate : State := asking ((bayIn .active).modBay 0 5 fun b => { b with state := .active, clamped := false, fclkOn := true, portOpen := true }) 0x0200 (flowArgs 100)
/-- The link between site 0 of F-die 0 and its partner is ACTIVE at both ends. -/
def linkUp : State := (running.modLaneset 0 fun x => { x with state := .active, mode := 3, n := 240 }).modLaneset ((running.partner 0).getD 0) fun x => { x with state := .active, mode := 3, n := 240 }
/-- Eoset-X port 0 in a state, a receiver on each lane. -/
def portLanes (st : LaneState) : State :=
  running.modLaneset 144 fun x => { x with state := st, mode := 2, n := 160, lpSel := 3, lanes := (List.range 8).map fun n => (n, ({ detected := true } : Lane)) }
def goodSet (body : List (BitVec 8)) : List (BitVec 8) := 0xBC :: body ++ [crc8 body]
/-- A set as the code groups of a transmitter at negative disparity. -/
def setGroups (y : List (BitVec 8)) : Option (List (BitVec 10)) := some (encodeSyms false (setCodes y)).1
/-- Every lane of the link is detected at its partner. -/
def spareLink : State := linkUp.modLaneset ((running.partner 0).getD 0) fun x => { x with lanes := (List.range 42).map fun n => (n, ({ detected := true } : Lane)) }
/-- The port's lanes aligned, and 80 frame bytes as their code groups. -/
def alignedPort : State := (portLanes .active).modLaneset 144 fun x => x.allLanes 144 fun l => l.setFlag fAligned true
def laneGroups (w : Nat) (bs : List (BitVec 8)) : List (List (BitVec 10)) :=
  (List.range w).map fun i => (encodeSyms false ((List.range (80 / w)).map fun j => dataSym (bs.getD (j * w + i) 0))).1
/-- The PPS source with the pin's function set. -/
def ppsState : State := ((running.modTb fun b => { b with src := 1 }).modSp 7 fun p => { p with func := 0x5E })
def lpLink : State := (linkUp.modLaneset 0 fun x => { x with lpRes := 3, lp1Idle := 5, lp2Idle := 9 }).modLaneset ((running.partner 0).getD 0) fun x => { x with lpRes := 3, lp1Idle := 5, lp2Idle := 9 }
/-- FGN-4G with the link of its site 0 to guest 0 ACTIVE; the GCAP accepted or not. -/
def guestLink (ok : Bool) : State :=
  ((({ running with fuses := { running.fuses with part := .fgn4g } } : State).modGuest 0 fun x =>
      { x with wired := 15, budgetW := 100, up := ok, cap := if ok then { midBase := 0xC00, midLog2 := 4, winLog2 := 20, maxOut := 16, rxDepth := List.replicate 8 64 } else x.cap }).modLaneset 32 fun x =>
    { x with state := .active, mode := 3, n := 240, lanes := (List.range 42).map fun n => (n, ({ detected := true } : Lane)) }).modLink 32 fun e => { e with guestOk := ok }
def gcapMsg (ver : Nat) : List (BitVec 8) :=
  [1, BitVec.ofNat 8 ver] ++ leBytes 2 0x1234 ++ leBytes 2 1 ++ [0, 0] ++ leBytes 2 0xC00 ++ [4, 20] ++ leBytes 2 16 ++ List.replicate 8 64 ++ leBytes 2 10
/-- A 4-byte read of the identification block by SRC 0xC01 with TAG 7, and one of an unmapped address. -/
def guestHdr : BitVec 512 := BitVec.ofNat 512 (({ src := 0xC01, cls := .req, opc := 0, len := 3, tag := 7, addr := 0xF00000000000 } : Pkt).headerBits)
def hostHdr : BitVec 512 := BitVec.ofNat 512 (({ src := 0, cls := .req, opc := 0, len := 3, tag := 7, addr := 0 } : Pkt).headerBits)
def hostHdr2 : BitVec 512 := BitVec.ofNat 512 (({ src := 0, cls := .req, opc := 0, len := 3, tag := 7, addr := 0xF00000000000 } : Pkt).headerBits)
/-- Every link site of the package is ACTIVE. -/
def allUp : State := (List.range 136).foldl (fun s k => s.modLaneset k fun x => { x with state := .active }) State.reset
/-- A header whose IMAGE_LEN is 1 MiB. -/
def lenHdr : List (BitVec 8) := List.replicate 48 0 ++ leBytes 8 1048576 ++ List.replicate 456 0
/-- A full load fed from outside, its header taken, by the session of mailbox 0. -/
def pushing (src : Nat) : State :=
  running.modCfg fun c => { c with phase := .p0, stream := { Stream.reset with isOpen := true, src := src, header := lenHdr, used := 512, segIdx := 1, mbx := some 0x1000005 } }
/-- The last of two segments: 16 bytes of payload behind segment 0 of a flash load. -/
def segHdr : List (BitVec 8) := List.replicate 44 0 ++ leBytes 4 2 ++ leBytes 8 (512 + 84 + 84) ++ List.replicate 456 0
def segKey0 : List (BitVec 8) := List.replicate 32 3
def segCt : List (BitVec 8) := gcmOpen segKey0 (hdrIv segHdr ++ leBytes 4 1) (List.replicate 16 7 ++ List.replicate 40 0 ++ leBytes 4 1 ++ leBytes 4 1)
def segBytes : List (BitVec 8) := leBytes 4 64 ++ segCt ++ gcmTag segKey0 (hdrIv segHdr ++ leBytes 4 1) (segAad segHdr 1 64) segCt
def segState (reached : Bool) : State :=
  running.modCfg fun c => { c with phase := .p0, reached := reached, stream := { Stream.reset with isOpen := true, src := 0, header := segHdr, used := 596, segIdx := 1, key := segKey0, took := true } }
/-- A program of slot B whose pushed segment is not what its key opens. -/
def segProgBad : State :=
  running.modCfg fun c => { c with prog := { Stream.reset with isOpen := true, what := .program, src := 2, slot := 1, header := lenHdr, used := 512, segIdx := 1, key := segKey0, took := true, pushed := leBytes 4 64 ++ List.replicate 80 0 } }
def recBytes (typ die yealm start count stride : Nat) : List (BitVec 8) :=
  leBytes 1 typ ++ leBytes 1 die ++ leBytes 2 yealm ++ leBytes 4 start ++ leBytes 4 count ++ leBytes 4 stride
def recState (prog : Bool) (u : StreamUse) (buf : List (BitVec 8)) : State :=
  let x : Stream := { Stream.reset with isOpen := true, what := u, src := 3, header := lenHdr, used := 512, segIdx := 2, took := true, framesLen := some 100000, buf := buf }
  if prog then running.modCfg fun c => { c with prog := x } else running.modCfg fun c => { c with phase := .p0, stream := x }
/-- A board declaration of one x8 DIMM of 16 Gb devices, mode B, and channel 2 in a state with it. -/
def declB : List (BitVec 8) := [1, 0, 8, 16, 1, 1, 1, 0, 0, 0, 0, 0] ++ (List.replicate 7 (leBytes 4 10)).flatten
def dramIn (st : ChanState) : State := running.modChan 2 fun x => { x with state := st, decl := some (declOf40 declB) }
/-- A one-line request of port 3 stands in the queue of subchannel 0. -/
def dramPk (opc : BitVec 5) : DramPkt :=
  { ident := 1, port := 3, left := [0], pkt := { src := 0x003, cls := .req, opc := opc, len := 3, addr := 0x1004, tag := 9, be := 0xFFFFFFFFFFFFFFFF, data := List.replicate 16 5 } }
def dramEntry (full issued : Bool) : DramCmd := { ident := 1, line := 0, addr := 0x1000, ch := 2, c := 0x1000, full := full, issued := issued }
def dramQ (opc : BitVec 5) (full issued : Bool) (l : LineState) : State :=
  (dramIn .up).modChan 2 fun x => { x with cmdq := [(0, [dramEntry full issued])], serving := [dramPk opc], lines := tput .unwritten [] 0x40 l }
/-- One interleave set that maps 1 GiB of channel 2 at address 0, and a scrubbed access region there. -/
def mapArg : List (BitVec 8) := [1, 0, 8, 0, 0, 0, 1, 0, 0, 0, 0, 0, 2, 0, 0, 0, 0, 0, 0, 0] ++ List.replicate 108 0
def dramMapped : State := ((dramIn .up).setMap mapArg).modDram fun d => { d with regions := [(3, { valid := true, base := 0, limit := 0x3FFFFFFF, scrub := true })] }
/-- A part whose device key is 32 bytes of 1, and key wraps under it (RFC 3394, 15 R412): a memory key, one with KEY1 = KEY2, a link key. -/
def keyed : State := running.modCfg fun c => { c with deviceKey := List.replicate 32 1 }
def wrapMem : List (BitVec 8) := beBytes 104 10867463266917407893787704164376424389440247404980753754532844943738737729930941993912785551568215053045181458095270118566383393769237433025211491721291310221190446052686274872072381421867329136056260623984599404120653036421220540155000500111235280272
def wrapSame : List (BitVec 8) := beBytes 104 3122887203074916317131433150720497152526082638144067129691759796449431027981829263177846107231264216286590921723108071984670571607301712535464114823620660578120599113911555702575107975295857791743327890357008138578414445122179598592275618859039245277
def wrapLink : List (BitVec 8) := beBytes 40 1865161494303160582041496249442087638449038618525222263206375367589767950266511743867781607877383
/-- An integrity region over the first line group, with and without its key in channel 2's unit; the queued entry carries what held for it. -/
def flashR : FlashRegion := { valid := true, base := 0, limit := 0xFFFF, slot := 6, sectorLog2 := 12, integ := true }
def flashK : KeySlot := { loaded := true, keys := List.replicate 96 7 }
def flashEntry : DramCmd := { dramEntry false true with flash := some (4, flashR, flashK) }
def flashState (loaded : Bool) (opc : BitVec 5) : State :=
  (((dramQ opc false true (.good 1)).setFregions [(4, flashR)]).modChan 2 fun x => { x with cmdq := [(0, [flashEntry])] }).modFunit 2 fun u =>
    if loaded then { u with slots := [(6, flashK)] } else u
/-- DMA channel 3, granted, with a fill of one 64-byte line in its shadow set, in a state; another that reads. -/
def dmaFill : DmaSet := { dst := 0x1000, dstLine := 63, dstLines := 1, pattern := 5, cfg := 2 + 4 * 1 }
def dmaCopy : DmaSet := { src := 0x5000, srcLine := 63, srcLines := 1, dst := 0x1000, dstLine := 63, dstLines := 1, cfg := 4 * 1 }
def dmaIn (st : DmaState) (x : DmaSet) (beats : List Beat) : State :=
  running.modDma 3 fun c => { c with valid := true, owner := 256, midVal := 5, midMask := 0xFFF, state := st, shadow := x, active := x, beats := beats }
/-- A beat of channel 3 is outstanding and its response has come. -/
def dmaBeat (write rb : Bool) : Beat := { write := write, side := write || rb, rb := rb, pos := 0, addr := 0x5000, len := 64, tag := 9 }
def dmaAnswer (st : DmaState) (x : DmaSet) (write rb : Bool) (resp : BitVec 3) : State :=
  (dmaIn st x [dmaBeat write rb]).modMaster 0x813 fun m =>
    { m with out := [{ tag := 9 }], rsps := [{ cls := .rsp, tag := 9, resp := resp, data := List.replicate 64 7 }] }
/-- The table of the target at an address lets a master write. -/
def opened (s : State) (a : Nat) (mid : BitVec 12) : State :=
  match s.decode a with
  | some (t, _) => s.setAcls (tmod AclTable.reset s.acls t.tid fun x => { x with temps := [{ mid := mid, wr := true }] })
  | none => s
/-- An unbound mailbox 5 has been rung with an MBX_OPEN request by F-die 0's bay 3. -/
def opening (arg : List (BitVec 8)) : State :=
  (running.modCfg fun c => { c with fwIf := 0x0201 }).modMbx 5 fun b => { b with ringSrc := 0x003, ringing := true, req := tabWrite [] 0 (leBytes 16 (0x0900 + 5 * 2 ^ 16 + arg.length * 2 ^ 32) ++ arg) }
/-- Output 2 of the event router goes to mailbox 0 and holds a record; the session's opener is 0x801. -/
def evq : State := (asking running 0x0903 []).modEvOut 2 fun o => { o with cfg := 1, fifo := [{ evid := 0x380, evdata := 7, stamp := 9 }] }
def spiBound : State := (asking running 0x0001 []).modMbx 0 fun b => { b with opener := 0x8FF, ringing := false, rsp := [(0, 5)], notify := true }
/-- A clock node in a state, an element in a power state and phase, the package in one. -/
def nodeIn (c : Nat) (f : ClkNode → ClkNode) : State := running.modNode c f
def elemIn (kind d id : Nat) (f : Elem → Elem) : State := (bayIn .active).modElem kind d id f
def pkgIn (p : PkgPower) : State := running.modClk fun k => { k with pkg := p, wakeEn := 0x3F }
/-- Everything a die's idle condition asks for. -/
def idleDie : State := (List.range 48).foldl (fun (s : State) r => s.modRouter 0 r fun x => { x with idle := true }) running
/-- Output 2 takes every event into a mailbox FIFO of mailbox 0, and an event waits; the log's intake holds an entry. -/
def evRouted : State := (evq.modEvOut 2 fun o => { o with mask := [(28, 1)] }).modEvr fun e => { e with raised := [{ evid := 0x380, evdata := 8, note := some (mkEntry 5 1 2 3 4) }] }
def logged (n : Nat) : State := running.modLog fun l => { l with entries := List.replicate n (1, mkEntry 5 1 2 3 4), next := 9, intake := [{ entry := mkEntry 6 1 2 3 4 }] }
/-- The Ladder master as requester; pin 7 carries UART 0's RX, pin 9 GPIO 3. -/
def ladWho : Who := { src := 0x801, priv := true, effect := true }
def pinned : State := (running.modSp 7 fun p => { p with func := 1 }).modSp 9 fun p => { p with func := 0x29 }
/-- A certificate of MAGIC alone, the core halted, with authorization. -/
def verifying (fails : BitVec 5) : State := running.modLad fun l => { l with cert := leBytes 4 0x4144464B ++ List.replicate 220 0, verifying := true, authFails := fails }
def authed : State := running.modLad fun l => { l with auth := true }
def coreHalted : State := authed.modGable fun g => { g with halted := true, gstate := .halted, wdtAt := 0 }
def netStopped : State := running.modNode (fclkNode 0 5) fun x => { x with stop := true }
def groupFrozen : State := running.modGroup 0 3 fun g => { g with frozen := true }
/-- Every FCLK net of die 0 runs. -/
def allNets : State := (List.range 32).foldl (fun s n => s.modNode (fclkNode 0 n) fun x => { x with state := .running }) running
theorem allNets_run : ∀ v : BitVec 5, allNets.fclkRuns 0 v.toNat = true := by decide +kernel

/-! ### WellFormed refuses an index out of range -/

theorem test_die_out_of_range : (Instr.probeOverspeed 9).wellFormed = false := by decide
theorem test_node_out_of_range : (Instr.routerWake 9 0).wellFormed = false := by decide
theorem test_router_out_of_range : (Instr.routerWake 0 48).wellFormed = false := by decide
theorem test_slice_out_of_range : (Instr.waitqRelease 0 2048).wellFormed = false := by decide
theorem test_group_out_of_range : (Instr.slgStart { src := 3, priv := false, effect := true } 0 128 1).wellFormed = false := by decide
theorem test_queue_out_of_range : (Instr.gqFlushApply 0 128).wellFormed = false := by decide
theorem test_memory_out_of_range : (Instr.bramRead 0 3072 false 0 .none).wellFormed = false := by decide
theorem test_mailbox_out_of_range : (Instr.aclRead 64).wellFormed = false := by decide
theorem test_vc_out_of_range : (Instr.creditReturn 0 0 0 8).wellFormed = false := by decide
theorem test_pin_out_of_range : (Instr.tpSchedEdge 0 8).wellFormed = false := by decide
theorem test_bay_out_of_range : (Instr.portDrainEnd 0 96).wellFormed = false := by decide
theorem test_probe_channel_out_of_range : (Instr.probeSelWrite { src := 3, priv := false, effect := true } 0 64 0).wellFormed = false := by decide
theorem test_in_range : (Instr.portDrainEnd 7 95).wellFormed = true := by decide

/-! ### Figures of the spec -/

/-- 10 R259: the CRC of the nine ASCII bytes "123456789". -/
theorem test_frame_crc : crc32c [0x31, 0x32, 0x33, 0x34, 0x35, 0x36, 0x37, 0x38, 0x39] = 0xE3069283 := by decide +kernel

/-- 14, worked example "mapping one address": eight channels of two x4 DIMMs, one set over 2 TiB in chunks of 4 KiB, and its hash masks. -/
def exDram : State :=
  (running.modChan 7 fun x => { x with decl := some { dimms := 2, width := 4, density := 32, pranks := 2, lranks := 1 } }).modDram fun d =>
    { d with sets := [(0, { valid := true, sizeG := 2048, ways := 3, grain := 12, chList := 0xFAC688 })],
             hash := [(0, 0x202000), (1, 0x404000), (2, 0x808000), (3, 0x1010000), (4, 0x2020000), (5, 0x4040000)] }
theorem test_map_address : exDram.dram.map 0x001234567AC0 = some (7, 0x2468ACAC0) := by decide +kernel
theorem test_locate_address : exDram.locate 7 0x2468ACAC0 = { sub := 0, rank := 1, bg := 4, bank := 1, row := 0x1234, col := 688 } := by decide +kernel

/-- 08, worked example: flow B from bay 3 to bay 62 of die 2 is admitted, flow A from bay 0 to bay 50 is asked for. -/
def exArgs (mid bay maxb rate dl keep : Nat) : List (BitVec 8) :=
  leBytes 2 mid ++ leBytes 1 2 ++ leBytes 1 keep ++ leBytes 8 (0x420000000000 + bay * 0x200000000) ++ leBytes 4 255 ++ leBytes 2 maxb ++ leBytes 2 0 ++
    leBytes 4 2 ++ leBytes 4 rate ++ leBytes 4 dl ++ leBytes 4 0
def exBays : State := [0, 3, 50, 62].foldl (fun (s : State) b => s.modBay 2 b fun x => { x with state := .active, clamped := false, fclkOn := true, portOpen := true }) running
def exWithB : State := match exec (.flowAdmit 0) (asking exBays 0x0200 (exArgs 0x203 62 256 100000000 200 1)) with
  | .next t => t
  | _ => exBays
def exAskA (dl : Nat) : State := exWithB.modMbx 0 fun b => { b with ringing := true, rspValid := false, req := tabWrite [] 0 (leBytes 16 (0x0200 + 6 * 2 ^ 16 + 36 * 2 ^ 32 + 256 * 2 ^ 64) ++ exArgs 0x200 50 128 50000000 dl 1) }

/-- The answer to a FLOW_ADMIT: STATUS and the payload of Table 8.6. -/
def flowAnswer (o : Host.Outcome State Fault Refusal) : Nat × List Nat := match o with
  | .next t =>
    let b := (t.mbx 0).rsp
    (numAt (tabBytes b 0 4) 0 4 % 65536,
      [numAt (tabBytes b 16 2) 0 2, numAt (tabBytes b 18 1) 0 1, numAt (tabBytes b 20 4) 0 4, numAt (tabBytes b 24 4) 0 4, numAt (tabBytes b 28 2) 0 2])
  | _ => (0, [])
theorem test_flow_refused : (flowAnswer (exec (.flowAdmit 0) (exAskA 150))).2 = [0, 2, 183, 0x2200, 444] := by decide +kernel
theorem test_flow_admitted : (flowAnswer (exec (.flowAdmit 0) (exAskA 250))).2 = [2, 0, 183, 0x2200, 444] := by decide +kernel

/-- FIPS 197 appendix C.3: AES-256 of one block, both ways. -/
theorem test_aes_encrypt : aesEnc ((List.range 32).map (BitVec.ofNat 8)) (beBytes 16 0x00112233445566778899AABBCCDDEEFF) =
    beBytes 16 0x8EA2B7CA516745BFEAFC49904B496089 := by decide +kernel
theorem test_aes_decrypt : aesDec ((List.range 32).map (BitVec.ofNat 8)) (beBytes 16 0x8EA2B7CA516745BFEAFC49904B496089) =
    beBytes 16 0x00112233445566778899AABBCCDDEEFF := by decide +kernel

/-! ### Witnesses of the hypotheses -/

theorem witness_stepOnEmptyQueueTicks : ∃ (s : State), s.pending = [] :=
  ⟨running, by decide +kernel⟩

theorem witness_everyStepKeepsTables : ∃ (s t : State), s.tablesWf = true ∧ step s = .next t :=
  ⟨running, running.tick, by decide +kernel, rfl⟩

theorem witness_everyCommandKeepsFusesTimeAndQueue : ∃ (c : Instr) (s t : State), exec c s = .next t :=
  ⟨.idGet 0, State.reset, _, rfl⟩

theorem witness_accessEntriesDecide :
    (∃ (s : State) (tid i : Nat) (src : BitVec 12) (opc : BitVec 5) (a : BitVec 48) (e : AclEntry), tabWf AclEntry.reset (s.acl tid).entries = true ∧ (s.acl tid).temps = [] ∧ builtIn src = false ∧ tget AclEntry.reset (s.acl tid).entries i = e ∧ e.matches src = true ∧ (∀ j ∈ List.range i, (tget AclEntry.reset (s.acl tid).entries j).matches src = false)) ∧
    (∃ (s : State) (tid : Nat) (src : BitVec 12) (opc : BitVec 5) (a : BitVec 48), (s.acl tid).temps = [] ∧ builtIn src = false ∧ (∀ e ∈ (s.acl tid).entries, e.2.matches src = false)) ∧
    (∃ (s : State) (tid i : Nat) (src : BitVec 12) (opc : BitVec 5) (a : BitVec 48), tabWf AclEntry.reset (s.acl tid).entries = true ∧ (s.acl tid).temps = [] ∧ builtIn src = false ∧ (tget AclEntry.reset (s.acl tid).entries i).matches src = true ∧ (tget AclEntry.reset (s.acl tid).entries i).rd = false ∧
      (tget AclEntry.reset (s.acl tid).entries i).wr = false ∧ (∀ j ∈ List.range i, (tget AclEntry.reset (s.acl tid).entries j).matches src = false) ∧ (opcRead opc = true ∨ opcWrite opc = true ∨ opcRmw opc = true)) ∧
    (∃ (s : State) (tid : Nat) (src : BitVec 12) (opc : BitVec 5) (a : BitVec 48), src = 0x800 ∨ src = 0x801 ∨ src = 0x840) :=
  ⟨⟨(running.modAcl 9 fun t => { t with entries := [(1, { valid := true, midVal := 4, midMask := 0xFFF }), (2, { valid := true, rd := true }), (3, { valid := true, wr := true })] }), 9, 2, 3, 0, 0, { valid := true, rd := true }, by decide +kernel⟩,
   ⟨running, 9, 3, 0, 0, by decide +kernel⟩,
   ⟨(running.modAcl 9 fun t => { t with entries := [(1, { valid := true, midVal := 4, midMask := 0xFFF }), (2, { valid := true }), (3, { valid := true, rd := true })] }), 9, 2, 3, 0, 0, by decide +kernel⟩,
   ⟨running, 9, 0x840, 3, 0, by decide +kernel⟩⟩

theorem witness_probes :
    (∃ (s : State) (w : Who) (d c : Nat) (data : BitVec 32), s.reaches w (dieBase d + 0x900000 + (0x100 + 4 * c)) true = true ∧ w.priv = true ∧ c < 64 ∧ ((s.die d).probe.armed = false ∨ (s.probeSel d c).dest = false ∧ data.getLsbD 13 = false)) ∧
    (∃ (s : State) (w : Who) (d c : Nat) (data : BitVec 32), s.reaches w (dieBase d + 0x900000 + (0x100 + 4 * c)) true = true ∧ w.priv = true ∧ c < 64 ∧ (s.die d).probe.armed = true ∧ (s.probeSel d c).dest = true) ∧
    (∃ (s : State) (w : Who) (d c : Nat) (data : BitVec 32), s.reaches w (dieBase d + 0x900000 + (0x100 + 4 * c)) true = true ∧ w.priv = false) ∧
    (∃ (s : State) (w : Who) (d : Nat) (data : BitVec 32), s.reaches w (dieBase d + 0x900000 + 0) true = true ∧ w.priv = true) ∧
    (∃ (s : State) (w : Who) (d : Nat) (data : BitVec 32), s.reaches w (dieBase d + 0x900000 + 0) true = true ∧ w.priv = true ∧ data.getLsbD 8 = false ∧ (s.die d).probe.armed = true ∧ (s.die d).probe.triggered = false) ∧
    (∃ (s : State) (d : Nat), d < s.fdies ∧ 410000 < (s.node (fclkNode d (s.die d).probe.clkSel.toNat)).freq.toNat) ∧
    (∃ (s : State) (d : Nat), s.probeClocked d = true ∧ (s.die d).probe.armed = true ∧ (s.die d).probe.triggered = false ∧ (s.die d).probe.pretrig.toNat ≤ (s.die d).probe.stored ∧ ((s.die d).probe.held = true ∨ ((s.die d).probe.trigMode = true ∧ (s.probeOut d).getLsbD (s.die d).probe.trigCh.toNat = true ∧ (s.die d).probe.out.getLsbD (s.die d).probe.trigCh.toNat = false))) ∧
    (∃ (s : State) (d : Nat), s.probeClocked d = true ∧ (s.die d).probe.armed = true ∧ (s.die d).probe.triggered = true ∧ (s.die d).probe.done = false ∧ 8191 - (s.die d).probe.pretrig.toNat ≤ (s.die d).probe.post + 1) :=
  ⟨⟨probeState, who0, 0, 2, 0x3001, by decide +kernel⟩,
   ⟨probeArmed, who0, 0, 0, 0x3001, by decide +kernel⟩,
   ⟨probeState, { src := 0x800, priv := false, effect := true }, 0, 0, 0x3001, by decide +kernel⟩,
   ⟨probeState, who0, 0, 0, by decide +kernel⟩,
   ⟨probeArmed, who0, 0, 0, by decide +kernel⟩,
   ⟨(probeArmed.modNode (fclkNode 0 0) fun c => { c with freq := 500000 }), 0, by decide +kernel⟩,
   ⟨(probeArmed.modProbe 0 fun p => { p with held := true }), 0, by decide +kernel⟩,
   ⟨(probeArmed.modProbe 0 fun p => { p with triggered := true, post := 8190 }), 0, by decide +kernel⟩⟩

theorem witness_bayCommands :
    (∃ (s : State) (m d b : Nat), s.asks m 0x0104 = true ∧ s.hasRoom m = true ∧ s.gable.gstate = .running ∧ s.hasRole m roleC = true ∧ (s.req m).len = 20 ∧ (s.req m).num 0 1 = d ∧ (s.req m).num 1 1 = b ∧ d < s.fdies ∧ b < 96 ∧ 2 ≤ (s.req m).num 2 1 ∧ (s.req m).num 2 1 ≤ 4 ∧ (s.req m).num 3 1 < 2 ∧ s.fenced d = false ∧ s.bayBusy d b = false ∧ s.ctrlFree = true ∧ s.srcBusy ((s.req m).num 2 1) = false ∧ ((s.bay d b).state = .empty ∨ (s.bay d b).state = .active ∨ (s.bay d b).state = .down)) ∧
    (∃ (s : State) (m d b : Nat), s.asks m 0x0105 = true ∧ s.hasRoom m = true ∧ s.gable.gstate = .running ∧ s.hasRole m roleC = true ∧ (s.req m).len = 4 ∧ (s.req m).num 0 1 = d ∧ (s.req m).num 1 1 = b ∧ d < s.fdies ∧ b < 96 ∧ (s.req m).num 2 1 < 2 ∧ (s.req m).zero 3 1 = true ∧ s.fenced d = false ∧ s.bayBusy d b = false ∧ (s.bay d b).state = .active) ∧
    (∃ (s : State) (m d b : Nat), s.asks m 0x0106 = true ∧ s.hasRoom m = true ∧ s.gable.gstate = .running ∧ (s.req m).len = 4 ∧ (s.req m).num 0 1 = d ∧ (s.req m).num 1 1 = b ∧ d < s.fdies ∧ b < 96 ∧ (s.req m).zero 2 2 = true ∧ s.fenced d = false ∧ s.bayBusy d b = false ∧ (s.bay d b).state = .active) ∧
    (∃ (s : State) (m d b : Nat), s.asks m 0x0107 = true ∧ s.hasRoom m = true ∧ s.gable.gstate = .running ∧ s.hasRole m roleC = true ∧ (s.req m).len = 4 ∧ (s.req m).num 0 1 = d ∧ (s.req m).num 1 1 = b ∧ d < s.fdies ∧ b < 96 ∧ (s.req m).zero 2 2 = true ∧ s.fenced d = false ∧ s.bayBusy d b = false ∧ (s.bay d b).state = .down ∧ (s.bay d b).ueKnown = false) ∧
    (∃ (s : State) (m d b : Nat), s.asks m 0x0108 = true ∧ s.gable.gstate = .running ∧ (s.req m).len = 4 ∧ (s.req m).num 0 1 = d ∧ (s.req m).num 1 1 = b ∧ d < s.fdies ∧ b < 96 ∧ (s.req m).zero 2 2 = true) ∧
    (∃ (s : State) (m d b : Nat), s.asks m 0x0109 = true ∧ s.gable.gstate = .running ∧ s.hasRole m roleC = true ∧ (s.req m).len = 20 ∧ (s.req m).num 0 1 = d ∧ (s.req m).num 1 1 = b ∧ d < s.fdies ∧ b < 96 ∧ (s.req m).zero 2 2 = true) ∧
    (∃ (s : State) (m d : Nat), s.asks m 0x010A = true ∧ s.gable.gstate = .running ∧ s.hasRole m roleC = true ∧ (s.req m).len = 8 ∧ ((s.req m).num 0 1 = d ∨ (s.req m).num 0 1 = 0xFF) ∧ d < s.fdies ∧ (s.req m).num 1 1 < 4 ∧ (s.req m).zero 2 2 = true ∧ 40 ≤ (s.req m).num 4 2 ∧ (s.req m).num 4 2 ≤ 10000 ∧ 200 ≤ (s.req m).num 6 2 ∧ (s.req m).num 6 2 ≤ 60000) ∧
    (∃ (s : State) (m d c : Nat), s.asks m 0x0110 = true ∧ s.gable.gstate = .running ∧ s.hasRole m roleC = true ∧ (s.req m).len = 8 ∧ (s.req m).num 0 1 = d ∧ (s.req m).num 1 1 = c ∧ d < s.fdies ∧ c < 64 ∧ (s.req m).num 2 2 < 4096 ∧ (s.req m).num 4 1 < 2 ∧ (s.req m).num 5 1 < 2 ∧ (s.req m).zero 6 2 = true ∧ (s.die d).probe.armed = false) :=
  ⟨⟨(asking (bayIn .active) 0x0104 (leBytes 20 0x020300)), 0, 0, 3, by decide +kernel⟩,
   ⟨(asking (bayIn .active) 0x0105 [0, 3, 1, 0]), 0, 0, 3, by decide +kernel⟩,
   ⟨(asking (bayIn .active) 0x0106 [0, 3, 0, 0]), 0, 0, 3, by decide +kernel⟩,
   ⟨(asking (bayIn .down) 0x0107 [0, 3, 0, 0]), 0, 0, 3, by decide +kernel⟩,
   ⟨(asking (bayIn .active) 0x0108 [0, 3, 0, 0]), 0, 0, 3, by decide +kernel⟩,
   ⟨(asking (bayIn .active) 0x0109 (leBytes 20 0x0300)), 0, 0, 3, by decide +kernel⟩,
   ⟨(asking running 0x010A [0xFF, 1, 0, 0, 100, 0, 0xE8, 3]), 0, 1, by decide +kernel⟩,
   ⟨(asking probeState 0x0110 [0, 2, 5, 0, 1, 1, 0, 0]), 0, 0, 2, by decide +kernel⟩⟩

theorem witness_scrubsAndDrains :
    (∃ (s : State) (d : Nat), d < s.fdies ∧ (s.die d).leggett.cfgRun = true ∧ s.lclkRuns d = true ∧ (s.die d).leggett.first = [] ∧ (s.die d).leggett.passAt + (s.die d).leggett.frame * (s.die d).leggett.cfgPs / 262144 ≤ s.now ∧ (s.die d).leggett.frame + 1 < 262144 ∧ s.skipsFrame d (s.die d).leggett.frame = false ∧ tget CfgFrame.reset (s.die d).frames (s.die d).leggett.frame = CfgFrame.reset) ∧
    (∃ (s : State) (d i e : Nat) (rest : List (Nat × Nat)), d < s.fdies ∧ (s.die d).leggett.cfgRun = true ∧ s.lclkRuns d = true ∧ (s.die d).leggett.first = (i, e) :: rest ∧ s.skipsFrame d i = false ∧ tget CfgFrame.reset (s.die d).frames i = CfgFrame.reset) ∧
    (∃ (s : State) (d w : Nat), d < s.fdies ∧ (s.die d).leggett.cfgRun = true ∧ s.lclkRuns d = true ∧ (s.die d).leggett.first = [] ∧ (s.die d).leggett.passAt + (s.die d).leggett.frame * (s.die d).leggett.cfgPs / 262144 ≤ s.now ∧ (s.die d).leggett.frame + 1 < 262144 ∧ s.skipsFrame d (s.die d).leggett.frame = false ∧ tget CfgFrame.reset (s.die d).frames (s.die d).leggett.frame = CfgFrame.reset ∧ w < 64) ∧
    (∃ (s : State) (d b : Nat), d < s.fdies ∧ (s.die d).leggett.cfgRun = true ∧ s.lclkRuns d = true ∧ (s.die d).leggett.first = [] ∧ (s.die d).leggett.passAt + (s.die d).leggett.frame * (s.die d).leggett.cfgPs / 262144 ≤ s.now ∧ (s.die d).leggett.frame + 1 < 262144 ∧ s.skipsFrame d (s.die d).leggett.frame = false ∧ bayOfFrame (s.die d).leggett.frame = some b) ∧
    (∃ (s : State) (d i : Nat) (u su : Upset), (u = .none ∨ u = .single) ∧ d < s.fdies ∧ i < 3072 ∧ (s.die d).leggett.memRun = true ∧ s.lclkRuns d = true ∧ s.now < (s.die d).leggett.memAt + (s.die d).leggett.memPs ∧ (s.die d).leggett.memAt + tget 0 (s.die d).leggett.memTry i * (s.die d).leggett.memPs / 4096 ≤ s.now ∧ s.scrubbable d .bram i = true ∧ tget 0 (s.die d).leggett.memPos i < 1024 ∧ (tget markWord (s.bram d i).words (tget 0 (s.die d).leggett.memPos i)).health.hit u = .single) ∧
    (∃ (s : State) (d i : Nat) (k : MemKind) (u su : Upset), d < s.fdies ∧ i < memKindCount k ∧ (s.die d).leggett.memRun = true ∧ s.lclkRuns d = true ∧ s.now < (s.die d).leggett.memAt + (s.die d).leggett.memPs ∧ (s.die d).leggett.memAt + tget 0 (s.die d).leggett.memTry (8192 * memKindNum k + i) * (s.die d).leggett.memPs / 4096 ≤ s.now ∧ s.scrubbable d k i = true) ∧
    (∃ (s : State) (d b : Nat) (rest : List (Nat × Nat)), s.cfg.repairQ = (d, b) :: rest ∧ s.gable.gstate = .running ∧ s.ctrlFree = true ∧ s.fenced d = false ∧ (s.bay d b).ueKnown = true ∧ (s.bay d b).state = .active ∧ (s.bay d b).source = none) ∧
    (∃ (s : State) (d b : Nat), d < s.fdies ∧ b < 96 ∧ (s.bay d b).drained = false ∧ s.portQuiet d b = true ∧ (s.bay d b).state = .shutting ∧ (s.bay d b).held = none ∧ (s.bay d b).noSrc = false) ∧
    (∃ (s : State) (d b : Nat), d < s.fdies ∧ b < 96 ∧ (s.bay d b).drained = false ∧ s.portQuiet d b = true ∧ (s.bay d b).state = .restoring ∧ (s.bay d b).held = none ∧ s.fenced d = false) ∧
    (∃ (s : State) (d b : Nat), d < s.fdies ∧ b < 96 ∧ (s.bay d b).drained = false ∧ s.portQuiet d b = true ∧ (s.bay d b).state = .restoring ∧ (s.bay d b).held = none ∧ s.fenced d = true) :=
  ⟨⟨lgState, 0, by decide +kernel⟩,
   ⟨(lgState.modLeggett 0 fun l => { l with first := [(7, 9)] }), 0, 7, 9, [], by decide +kernel⟩,
   ⟨lgState, 0, 5, by decide +kernel⟩,
   ⟨lgState, 0, 0, by decide +kernel⟩,
   ⟨(lgState.modBram 0 2500 fun b => { b with loaded := true, words := [(0, goodWord 5)] }), 0, 2500, .single, .none, by decide +kernel⟩,
   ⟨lgState, 0, 7, .sliceX, .single, .none, by decide +kernel⟩,
   ⟨(((bayIn .active).modBay 0 3 fun b => { b with ueKnown := true }).modCfg fun c => { c with repairQ := [(0, 3)] }), 0, 3, [], by decide +kernel⟩,
   ⟨((bayIn .shutting).modBay 0 3 fun b => { b with drained := false }), 0, 3, by decide +kernel⟩,
   ⟨((bayIn .restoring).modBay 0 3 fun b => { b with drained := false }), 0, 3, by decide +kernel⟩,
   ⟨(((bayIn .restoring).modBay 0 3 fun b => { b with drained := false }).modLeggett 0 fun l => { l with fenced := true }), 0, 3, by decide +kernel⟩⟩

theorem witness_gutterQueues :
    (∃ (s : State) (d q : Nat) (data : BitVec 64), q < 128 ∧ s.gqW d q = true ∧ (s.gq d q).wsel.toNat < 32 ∧ s.bayReaches d (s.gq d q).feeder = true ∧ (s.gq d q).wLevel < 2048) ∧
    (∃ (s : State) (d q : Nat) (data : BitVec 64), q < 128 ∧ s.gqW d q = true ∧ (s.gq d q).wsel.toNat < 32 ∧ s.bayReaches d (s.gq d q).feeder = true ∧ 2048 ≤ (s.gq d q).wLevel ∧ (if 1 ≤ (s.gq d q).rLevel then 1 else 0) < (s.gq d q).entries.length) ∧
    (∃ (s : State) (d q : Nat) (data : BitVec 64), q < 128 ∧ s.gqW d q = true ∧ (s.gq d q).wsel.toNat < 32 ∧ s.bayReaches d (s.gq d q).feeder = true ∧ 2048 ≤ (s.gq d q).wLevel ∧ (s.gq d q).entries.length ≤ (if 1 ≤ (s.gq d q).rLevel then 1 else 0)) ∧
    (∃ (s : State) (d q : Nat) (u su : Upset) (e : GqEntry) (rest : List GqEntry), q < 128 ∧ s.gqR d q = true ∧ (s.gq d q).rsel.toNat < 32 ∧ s.bayReaches d (s.gq d q).reader = true ∧ (s.gq d q).entries = e :: rest ∧ 0 < (s.gq d q).rSeen) ∧
    (∃ (s : State) (d q : Nat), s.gqR d q = true ∧ (s.gq d q).rSeen < (s.gq d q).entries.length) ∧
    (∃ (s : State) (d q : Nat), s.gqW d q = true ∧ 0 < (s.gq d q).unseenPops) ∧
    (∃ (s : State) (d q : Nat), (s.gq d q).flush = true ∧ (s.gq d q).flushPend = false ∧ s.gqR d q = true ∧ (s.gq d q).flushMark ≤ (s.gq d q).entries.length) ∧
    (∃ (s : State) (d q : Nat), (s.gq d q).flush = true ∧ (s.gq d q).flushPend = true ∧ s.gqW d q = true ∧ s.gqR d q = true) ∧
    (∃ (s : State) (w : Who) (d q : Nat) (data : BitVec 64), q < 128 ∧ s.reaches w (gqAddr d q 0x80) true = true ∧ s.gqW d q = true ∧ (s.gq d q).used = true ∧ (s.gq d q).wsel.toNat = 32 ∧ (s.gq d q).wLevel < 2048) ∧
    (∃ (s : State) (w : Who) (d q : Nat) (u su : Upset) (e : GqEntry) (rest : List GqEntry), q < 128 ∧ s.reaches w (gqAddr d q 0x88) false = true ∧ s.gqR d q = true ∧ (s.gq d q).used = true ∧ (s.gq d q).rsel.toNat = 32 ∧ (w.src ≠ 0x801 ∨ w.effect = true) ∧ (s.gq d q).entries = e :: rest ∧ 0 < (s.gq d q).rSeen ∧ (e.find u su s.freeVal (s.freeValAt 1)).bad = false) ∧
    (∃ (s : State) (w : Who) (d q : Nat) (u su : Upset) (e : GqEntry) (rest : List GqEntry), q < 128 ∧ s.reaches w (gqAddr d q 0x88) false = true ∧ s.gqR d q = true ∧ (s.gq d q).used = true ∧ (s.gq d q).rsel.toNat = 32 ∧ (w.src ≠ 0x801 ∨ w.effect = true) ∧ (s.gq d q).entries = e :: rest ∧ 0 < (s.gq d q).rSeen ∧ (e.find u su s.freeVal (s.freeValAt 1)).bad = true) ∧
    (∃ (s : State) (w : Who) (d q : Nat) (u su : Upset), q < 128 ∧ s.reaches w (gqAddr d q 0x88) false = true ∧ s.gqR d q = true ∧ (s.gq d q).used = true ∧ (s.gq d q).rsel.toNat = 32 ∧ (w.src ≠ 0x801 ∨ w.effect = true) ∧ (s.gq d q).rSeen = 0) ∧
    (∃ (s : State) (w : Who) (d q : Nat), q < 128 ∧ s.reaches w (gqAddr d q 0x04) true = true) ∧
    (∃ (s : State) (w : Who) (d q : Nat), q < 128 ∧ s.reaches w (gqAddr d q 0x04) true = true) ∧
    (∃ (s : State) (w : Who) (d q : Nat), q < 128 ∧ s.reaches w (gqAddr d q 0x04) true = true ∧ s.gqW d q = true) ∧
    (∃ (s : State) (w : Who) (d q : Nat), q < 128 ∧ s.reaches w (gqAddr d q 0x04) true = true ∧ s.gqW d q = false) ∧
    (∃ (s : State) (w : Who) (d q : Nat) (data : BitVec 64), q < 128 ∧ s.reaches w (gqAddr d q 0x10) true = true ∧ hiOff data < hiOn data ∧ hiOn data ≤ 2048 ∧ loOn data < loOff data ∧ loOff data ≤ 2048) ∧
    (∃ (s : State) (w : Who) (d q : Nat) (data : BitVec 64), q < 128 ∧ s.reaches w (gqAddr d q 0x10) true = true ∧ hiOn data ≤ hiOff data) :=
  ⟨⟨gqState, 0, 1, 5, by decide +kernel⟩,
   ⟨gqFullState, 0, 1, 5, by decide +kernel⟩,
   ⟨(gqState.modGq 0 1 fun g => { g with unseenPops := 2047 }), 0, 1, 5, by decide +kernel⟩,
   ⟨gqState, 0, 1, .single, .double, gqE, [], by decide +kernel⟩,
   ⟨gqFullState, 0, 1, by decide +kernel⟩,
   ⟨gqState, 0, 1, by decide +kernel⟩,
   ⟨gqFlushState, 0, 1, by decide +kernel⟩,
   ⟨(gqFlushState.modGq 0 1 fun g => { g with flushPend := true }), 0, 1, by decide +kernel⟩,
   ⟨gqRegState, who0, 0, 1, 5, by decide +kernel⟩,
   ⟨gqRegState, who0, 0, 1, .none, .single, gqE, [], by decide +kernel⟩,
   ⟨gqRegState, who0, 0, 1, .double, .none, gqE, [], by decide +kernel⟩,
   ⟨(gqRegState.modGq 0 1 fun g => { g with rSeen := 0 }), who0, 0, 1, .none, .none, by decide +kernel⟩,
   ⟨gqRegState, who0, 0, 1, by decide +kernel⟩,
   ⟨gqRegState, who0, 0, 1, by decide +kernel⟩,
   ⟨gqRegState, who0, 0, 1, by decide +kernel⟩,
   ⟨(State.reset.modGq 0 1 fun _ => gqOf 1 0), who0, 0, 1, by decide +kernel⟩,
   ⟨gqRegState, who0, 0, 1, 0x0020001000080010, by decide +kernel⟩,
   ⟨gqRegState, who0, 0, 1, 0, by decide +kernel⟩⟩

theorem witness_blockMemoryPorts :
    (∃ (s : State) (d m addr : Nat) (pb : Bool) (u : Upset), s.bramReady d m pb addr false = true ∧ (s.bram d m).loaded = true ∧ (s.bram d m).coincident pb (addr / (s.bram d m).mode.parts) s.now true = none ∧ (u = .none ∨ u = .single ∨ u = .double) ∧ ((tget markWord (s.bram d m).words (addr / (s.bram d m).mode.parts)).health.hit u).bad = false) ∧
    (∃ (s : State) (d m addr : Nat) (pb : Bool) (u : Upset), s.bramReady d m pb addr false = true ∧ d ≠ 8 ∧ (s.bram d m).loaded = true ∧ (s.bram d m).coincident pb (addr / (s.bram d m).mode.parts) s.now true = none ∧ (u = .none ∨ u = .single ∨ u = .double) ∧ ((tget markWord (s.bram d m).words (addr / (s.bram d m).mode.parts)).health.hit u).bad = true) ∧
    (∃ (s : State) (d m addr a : Nat) (pb : Bool), s.bramReady d m pb addr false = true ∧ d ≠ 8 ∧ (s.bram d m).loaded = true ∧ (s.bram d m).coincident pb (addr / (s.bram d m).mode.parts) s.now true = none ∧ addrFails (addr / (s.bram d m).mode.parts) (a % 1024) = true) ∧
    (∃ (s : State) (d m addr : Nat) (pb : Bool) (u : Upset) (old : BramWord), s.bramReady d m pb addr false = true ∧ (s.bram d m).loaded = true ∧ (s.bram d m).coincident pb (addr / (s.bram d m).mode.parts) s.now true = some old ∧ (u = .none ∨ u = .single ∨ u = .double) ∧ old.health = .good) ∧
    (∃ (s : State) (d m addr : Nat) (pb : Bool) (u : Upset), s.bramReady d m pb addr false = true ∧ (s.bram d m).loaded = false) ∧
    (∃ (s : State) (d m addr : Nat) (pb : Bool) (data : BitVec 64), s.bramReady d m pb addr true = true ∧ (s.bram d m).mode = .k1 ∧ (pb = true → (s.bram d m).coincident pb addr s.now true = none)) ∧
    (∃ (s : State) (d m addr : Nat) (data : BitVec 64) (old : BramWord), s.bramReady d m true addr true = true ∧ (s.bram d m).mode = .k1 ∧ (s.bram d m).coincident true addr s.now true = some old) ∧
    (∃ (s : State) (d m addr : Nat) (data : BitVec 64) (old : BramWord), s.bramReady d m false addr true = true ∧ (s.bram d m).mode = .k1 ∧ (s.bram d m).coincident false addr s.now true = some old) ∧
    (∃ (s : State) (d m addr : Nat) (pb : Bool) (data : BitVec 64) (be : BitVec 8) (u : Upset), s.bramReady d m pb addr true = true ∧ ((s.bram d m).mode = .k1 → be ≠ 0xFF) ∧ (s.bram d m).loaded = true ∧ (s.bram d m).coincident pb (addr / (s.bram d m).mode.parts) s.now true = none ∧ (u = .none ∨ u = .single ∨ u = .double) ∧ ((tget markWord (s.bram d m).words (addr / (s.bram d m).mode.parts)).health.hit u).bad = false) ∧
    (∃ (s : State) (d m addr : Nat) (pb : Bool) (data : BitVec 64) (be : BitVec 8) (u : Upset), s.bramReady d m pb addr true = true ∧ d ≠ 8 ∧ ((s.bram d m).mode = .k1 → be ≠ 0xFF) ∧ (s.bram d m).loaded = true ∧ (s.bram d m).coincident pb (addr / (s.bram d m).mode.parts) s.now true = none ∧ (u = .none ∨ u = .single ∨ u = .double) ∧ ((tget markWord (s.bram d m).words (addr / (s.bram d m).mode.parts)).health.hit u).bad = true) ∧
    (∃ (s : State) (d m addr a : Nat) (pb : Bool) (data : BitVec 64) (be : BitVec 8), s.bramReady d m pb addr true = true ∧ ((s.bram d m).mode = .k1 → be ≠ 0xFF) ∧ (s.bram d m).loaded = true ∧ (s.bram d m).coincident pb (addr / (s.bram d m).mode.parts) s.now true = none ∧ addrFails (addr / (s.bram d m).mode.parts) (a % 1024) = true) :=
  ⟨⟨bramState, 0, 2500, 3, false, .single, by decide +kernel⟩,
   ⟨(bramState.modBram 0 2500 fun b => { b with mode := .k2 }), 0, 2500, 6, false, .double, by decide +kernel⟩,
   ⟨(bramState.modBram 0 2500 fun b => { b with mode := .k2 }), 0, 2500, 6, 7, false, by decide +kernel⟩,
   ⟨(bramState.modBram 0 2500 fun b => { b with portB := { b.portB with edgeAt := some 0, edgeWord := some (3, true), edgeOld := goodWord 4 } }), 0, 2500, 3, false, .none, goodWord 4, by decide +kernel⟩,
   ⟨(bramState.modBram 0 2500 fun b => { b with loaded := false, mode := .k2 }), 0, 2500, 6, false, .none, by decide +kernel⟩,
   ⟨bramState, 0, 2500, 3, false, 9, by decide +kernel⟩,
   ⟨(bramState.modBram 0 2500 fun b => { b with portA := { b.portA with edgeAt := some 0, edgeWord := some (3, true), edgeOld := goodWord 4 } }), 0, 2500, 3, 9, goodWord 4, by decide +kernel⟩,
   ⟨(bramState.modBram 0 2500 fun b => { b with portB := { b.portB with edgeAt := some 0, edgeWord := some (3, true), edgeOld := goodWord 4 } }), 0, 2500, 3, 9, goodWord 4, by decide +kernel⟩,
   ⟨bramState, 0, 2500, 3, false, 9, 1, .none, by decide +kernel⟩,
   ⟨bramState, 0, 2500, 3, false, 9, 1, .double, by decide +kernel⟩,
   ⟨bramState, 0, 2500, 3, 7, false, 9, 1, by decide +kernel⟩⟩

theorem witness_sliceRowsRunACycle :
    (∃ (s : State) (d i : Nat) (u : SliceUpset), s.runsRow d i 0x00 0x00 = true ∧ s.cleanCycle d i u = true ∧ s.plainD d i = true) ∧
    (∃ (s : State) (d i : Nat) (u : SliceUpset), s.runsRow d i 0x01 0x01 = true ∧ s.cleanCycle d i u = true ∧ s.plainD d i = true) ∧
    (∃ (s : State) (d i : Nat) (u : SliceUpset), s.runsRow d i 0x02 0x03 = true ∧ s.cleanCycle d i u = true ∧ s.plainD d i = true) ∧
    (∃ (s : State) (d i : Nat) (u : SliceUpset), s.runsRow d i 0x04 0x04 = true ∧ s.cleanCycle d i u = true ∧ s.plainD d i = true) ∧
    (∃ (s : State) (d i : Nat) (u : SliceUpset), s.runsRow d i 0x10 0x10 = true ∧ s.cleanCycle d i u = true ∧ s.plainD d i = true) ∧
    (∃ (s : State) (d i : Nat) (u : SliceUpset), s.runsRow d i 0x11 0x11 = true ∧ s.cleanCycle d i u = true ∧ s.plainD d i = true) ∧
    (∃ (s : State) (d i : Nat) (u : SliceUpset), s.runsRow d i 0x12 0x12 = true ∧ s.cleanCycle d i u = true ∧ s.plainD d i = true) ∧
    (∃ (s : State) (d i : Nat) (u : SliceUpset), s.runsRow d i 0x13 0x13 = true ∧ s.cleanCycle d i u = true ∧ s.plainD d i = true) ∧
    (∃ (s : State) (d i : Nat) (u : SliceUpset), s.runsRow d i 0x18 0x18 = true ∧ s.cleanCycle d i u = true ∧ s.plainD d i = true) ∧
    (∃ (s : State) (d i : Nat) (u : SliceUpset), s.runsRow d i 0x19 0x19 = true ∧ s.cleanCycle d i u = true ∧ s.plainD d i = true) ∧
    (∃ (s : State) (d i : Nat) (u : SliceUpset), s.runsRow d i 0x1a 0x1a = true ∧ s.cleanCycle d i u = true ∧ s.plainD d i = true) ∧
    (∃ (s : State) (d i : Nat) (u : SliceUpset), s.runsRow d i 0x1b 0x1b = true ∧ s.cleanCycle d i u = true ∧ s.plainD d i = true) ∧
    (∃ (s : State) (d i : Nat) (u : SliceUpset), s.runsRow d i 0x20 0x20 = true ∧ s.cleanCycle d i u = true ∧ s.plainD d i = true) ∧
    (∃ (s : State) (d i : Nat) (u : SliceUpset), s.runsRow d i 0x21 0x21 = true ∧ s.cleanCycle d i u = true ∧ s.plainD d i = true) ∧
    (∃ (s : State) (d i : Nat) (u : SliceUpset), s.runsRow d i 0x22 0x22 = true ∧ s.cleanCycle d i u = true ∧ s.plainD d i = true) ∧
    (∃ (s : State) (d i : Nat) (u : SliceUpset), s.runsRow d i 0x23 0x23 = true ∧ s.cleanCycle d i u = true ∧ s.plainD d i = true) ∧
    (∃ (s : State) (d i : Nat) (u : SliceUpset), s.runsRow d i 0x24 0x24 = true ∧ s.cleanCycle d i u = true ∧ s.plainD d i = true) ∧
    (∃ (s : State) (d i : Nat) (u : SliceUpset), s.runsRow d i 0x25 0x25 = true ∧ s.cleanCycle d i u = true ∧ s.plainD d i = true) ∧
    (∃ (s : State) (d i : Nat) (u : SliceUpset), s.runsRow d i 0x30 0x3f = true ∧ s.cleanCycle d i u = true ∧ s.plainD d i = true) ∧
    (∃ (s : State) (d i : Nat) (u : SliceUpset), s.runsRow d i 0x40 0x4f = true ∧ s.cleanCycle d i u = true ∧ s.plainD d i = true) ∧
    (∃ (s : State) (d i : Nat) (u : SliceUpset), s.runsRow d i 0x50 0x50 = true ∧ s.cleanCycle d i u = true ∧ s.plainD d i = true) ∧
    (∃ (s : State) (d i : Nat) (u : SliceUpset), s.runsRow d i 0x51 0x51 = true ∧ s.cleanCycle d i u = true ∧ s.plainD d i = true) ∧
    (∃ (s : State) (d i : Nat) (u : SliceUpset), s.runsRow d i 0x52 0x52 = true ∧ s.cleanCycle d i u = true ∧ s.plainD d i = true) ∧
    (∃ (s : State) (d i : Nat) (u : SliceUpset), s.runsRow d i 0x53 0x53 = true ∧ s.cleanCycle d i u = true ∧ s.plainD d i = true) ∧
    (∃ (s : State) (d i : Nat) (u : SliceUpset), s.runsRow d i 0xf0 0xf0 = true ∧ s.cleanCycle d i u = true ∧ s.plainD d i = true) ∧
    (∃ (s : State) (d i : Nat) (u : SliceUpset), s.runsRow d i 0xf1 0xf1 = true ∧ s.cleanCycle d i u = true ∧ s.plainD d i = true) ∧
    (∃ (s : State) (d i : Nat) (u : SliceUpset), s.runsRow d i 0xf2 0xf2 = true ∧ s.cleanCycle d i u = true ∧ s.plainD d i = true) ∧
    (∃ (s : State) (d i : Nat) (u : SliceUpset), s.runsRow d i 0xf3 0xf3 = true ∧ s.cleanCycle d i u = true ∧ s.plainD d i = true) ∧
    (∃ (s : State) (d i : Nat) (u : SliceUpset), s.runsRow d i 0xf4 0xf4 = true ∧ s.cleanCycle d i u = true ∧ s.plainD d i = true) ∧
    (∃ (s : State) (d i : Nat) (u : SliceUpset), s.runsRow d i 0xf5 0xf5 = true ∧ s.cleanCycle d i u = true ∧ s.plainD d i = true) ∧
    (∃ (s : State) (d i : Nat) (u : SliceUpset), s.runsRow d i 0xf6 0xf6 = true ∧ s.cleanCycle d i u = true ∧ s.plainD d i = true) ∧
    (∃ (s : State) (d i : Nat) (u : SliceUpset), s.runsRow d i 0xf7 0xf7 = true ∧ s.cleanCycle d i u = true ∧ s.plainD d i = true) ∧
    (∃ (s : State) (d i : Nat) (u : SliceUpset), s.runsRow d i 0xf8 0xf8 = true ∧ s.cleanCycle d i u = true ∧ s.plainD d i = true) ∧
    (∃ (s : State) (d i : Nat) (u : SliceUpset), s.slReady d i = true ∧ (s.slice d i).run = .running ∧ wordValid (s.slWord d i) = false ∧ s.cleanCycle d i u = true ∧ s.plainD d i = true) ∧
    (∃ (s : State) (d i : Nat) (u : SliceUpset) (l : LoopLevel), s.slReady d i = true ∧ (s.slice d i).run = .running ∧ (s.slice d i).atLoopEnd = true ∧ s.cleanCycle d i u = true ∧ s.plainD d i = true ∧ tget LoopLevel.reset (s.slice d i).loops (openLevels (s.slice d i).loops - 1) = l) ∧
    (∃ (s : State) (d i : Nat) (f : Flight), s.slReady d i = true ∧ (s.slice d i).run = .waiting ∧ (s.slice d i).stD = some f ∧ f.isRow 0xF6 0xF6 = true ∧ (s.slice d i).waitOk (bitsOf f.word.toNat 0 4) = true ∧ s.cleanCycle d i noUpset = true) ∧
    (∃ (s : State) (d i : Nat), s.slTurn d i = true ∧ (s.slice d i).mustHalt = false ∧ s.mustSteal d i = true) ∧
    (∃ (s : State) (d i : Nat) (e : WinAcc), s.slTurn d i = true ∧ (s.slice d i).mustHalt = false ∧ (s.die d).winWait = [e] ∧ e.slice = i ∧ e.due (s.slice d i) = true ∧ e.write = true ∧ e.y = false ∧ e.eight = false ∧ e.who = none) :=
  ⟨⟨(slAt 0x0), 0, 1600, noUpset, by decide +kernel⟩,
   ⟨(slAt 0x100000000), 0, 1600, noUpset, by decide +kernel⟩,
   ⟨(slAt 0x200000000), 0, 1600, noUpset, by decide +kernel⟩,
   ⟨(slAt 0x400000000), 0, 1600, noUpset, by decide +kernel⟩,
   ⟨(slAt 0x1000000000), 0, 1600, noUpset, by decide +kernel⟩,
   ⟨(slAt 0x1100000000), 0, 1600, noUpset, by decide +kernel⟩,
   ⟨(slAt 0x1200000000), 0, 1600, noUpset, by decide +kernel⟩,
   ⟨(slAt 0x1300000000), 0, 1600, noUpset, by decide +kernel⟩,
   ⟨(slAt 0x1800000000), 0, 1600, noUpset, by decide +kernel⟩,
   ⟨(slAt 0x1900000000), 0, 1600, noUpset, by decide +kernel⟩,
   ⟨(slAt 0x1a00000000), 0, 1600, noUpset, by decide +kernel⟩,
   ⟨(slAt 0x1b00000000), 0, 1600, noUpset, by decide +kernel⟩,
   ⟨(slAt 0x2000000000), 0, 1600, noUpset, by decide +kernel⟩,
   ⟨(slAt 0x2100000000), 0, 1600, noUpset, by decide +kernel⟩,
   ⟨(slAt 0x2200000000), 0, 1600, noUpset, by decide +kernel⟩,
   ⟨(slAt 0x2300000000), 0, 1600, noUpset, by decide +kernel⟩,
   ⟨(slAt 0x2400000000), 0, 1600, noUpset, by decide +kernel⟩,
   ⟨(slAt 0x2500000000), 0, 1600, noUpset, by decide +kernel⟩,
   ⟨(slAt 0x3000000000), 0, 1600, noUpset, by decide +kernel⟩,
   ⟨(slAt 0x4000000000), 0, 1600, noUpset, by decide +kernel⟩,
   ⟨(slAt 0x5000000000), 0, 1600, noUpset, by decide +kernel⟩,
   ⟨(slAt 0x5100000000), 0, 1600, noUpset, by decide +kernel⟩,
   ⟨(slAt 0x5200000000), 0, 1600, noUpset, by decide +kernel⟩,
   ⟨(slAt 0x5300000000), 0, 1600, noUpset, by decide +kernel⟩,
   ⟨(slAt 0xf000030005), 0, 1600, noUpset, by decide +kernel⟩,
   ⟨(slAt 0xf100000000), 0, 1600, noUpset, by decide +kernel⟩,
   ⟨(slAt 0xf200000000), 0, 1600, noUpset, by decide +kernel⟩,
   ⟨(slAt 0xf300000000), 0, 1600, noUpset, by decide +kernel⟩,
   ⟨(slAt 0xf400000000), 0, 1600, noUpset, by decide +kernel⟩,
   ⟨(slAt 0xf500000000), 0, 1600, noUpset, by decide +kernel⟩,
   ⟨(slAt 0xf600000000), 0, 1600, noUpset, by decide +kernel⟩,
   ⟨(slAt 0xf700000000), 0, 1600, noUpset, by decide +kernel⟩,
   ⟨(slAt 0xf800000000), 0, 1600, noUpset, by decide +kernel⟩,
   ⟨(slAt 0xFF00000000), 0, 1600, noUpset, by decide +kernel⟩,
   ⟨((slAt 0).modSlice 0 1600 fun m => { m with loops := [(0, { stop := 0, count := 2, isOpen := true })] }), 0, 1600, noUpset, { stop := 0, count := 2, isOpen := true }, by decide +kernel⟩,
   ⟨((slAt 0x2000000000).modSlice 0 1600 fun m => { m with run := .waiting, stD := some (flight 0xF600000004) }), 0, 1600, (flight 0xF600000004), by decide +kernel⟩,
   ⟨((slAt 0).modDie 0 fun x => { x with winWait := [{ slice := 1600, y := false, addr := 3, write := true, eight := false, val := 9, since := 0, who := none }] }).modSlice 0 1600 (fun m => { m with cyc := 40 }), 0, 1600, by decide +kernel⟩,
   ⟨((slAt 0).modDie 0 fun x => { x with winWait := [{ slice := 1600, y := false, addr := 3, write := true, eight := false, val := 9, since := 0, who := none }] }).modSlice 0 1600 (fun m => { m with cyc := 40 }), 0, 1600, { slice := 1600, y := false, addr := 3, write := true, eight := false, val := 9, since := 0, who := none }, by decide +kernel⟩⟩

theorem witness_sliceFetchAndStages : ∃ (ci : CycleIn) (m : Slice), ci.clean = true ∧ m.run = .running ∧ m.stD = none :=
  ⟨{ fetch := { data := 0x2000000000 } }, { Slice.reset with run := .running, pc := 1023 }, by decide +kernel⟩

theorem witness_sliceArithmetic :
    (∃ (ci : CycleIn) (m : Slice) (f : Flight), m.stM2 = some f ∧ f.isRow 0x04 0x04 = true ∧ iDst f.word < 4) ∧
    (∃ (ci : CycleIn) (m : Slice) (f : Flight), m.stM2 = some f ∧ f.isRow 0x10 0x10 = true) ∧
    (∃ (ci : CycleIn) (m : Slice) (f : Flight), m.stM2 = some f ∧ f.isRow 0x11 0x11 = true) ∧
    (∃ (ci : CycleIn) (m : Slice) (f : Flight), m.stM2 = some f ∧ f.isRow 0x12 0x12 = true) ∧
    (∃ (ci : CycleIn) (m : Slice) (f : Flight), m.stM2 = some f ∧ f.isRow 0x13 0x13 = true) ∧
    (∃ (ci : CycleIn) (m : Slice) (f : Flight), m.stM2 = some f ∧ f.isRow 0x18 0x19 = true) ∧
    (∃ (ci : CycleIn) (m : Slice) (f : Flight), m.stM2 = some f ∧ f.isRow 0x1A 0x1A = true) ∧
    (∃ (ci : CycleIn) (m : Slice) (f : Flight), m.stM2 = some f ∧ f.isRow 0x1B 0x1B = true) ∧
    (∃ (ci : CycleIn) (m : Slice) (f : Flight), m.stM2 = some f ∧ f.isRow 0x20 0x20 = true) ∧
    (∃ (ci : CycleIn) (m : Slice) (f : Flight), m.stM2 = some f ∧ f.isRow 0x21 0x21 = true) ∧
    (∃ (ci : CycleIn) (m : Slice) (f : Flight), m.stM2 = some f ∧ f.isRow 0x22 0x22 = true) ∧
    (∃ (ci : CycleIn) (m : Slice) (f : Flight), m.stM2 = some f ∧ f.isRow 0x23 0x23 = true) ∧
    (∃ (ci : CycleIn) (m : Slice) (f : Flight), m.stM2 = some f ∧ f.isRow 0x24 0x24 = true) ∧
    (∃ (ci : CycleIn) (m : Slice) (f : Flight), m.stM2 = some f ∧ f.isRow 0x25 0x25 = true) ∧
    (∃ (ci : CycleIn) (m : Slice) (f : Flight), m.stM2 = some f ∧ f.isRow 0x30 0x3F = true) ∧
    (∃ (ci : CycleIn) (m : Slice) (f : Flight), m.stM2 = some f ∧ f.isRow 0x40 0x4F = true) ∧
    (∃ (ci : CycleIn) (m : Slice) (f : Flight), m.stM2 = some f ∧ f.isRow 0x50 0x50 = true) ∧
    (∃ (ci : CycleIn) (m : Slice) (f : Flight), m.stM2 = some f ∧ f.isRow 0x51 0x51 = true) ∧
    (∃ (ci : CycleIn) (m : Slice) (f : Flight), m.stM2 = some f ∧ f.isRow 0x52 0x52 = true) ∧
    (∃ (ci : CycleIn) (m : Slice) (f : Flight), m.stM2 = some f ∧ f.isRow 0x53 0x53 = true) :=
  ⟨⟨{}, (inM2 0x400000000), (flight 0x400000000), by decide +kernel⟩,
   ⟨{}, (inM2 0x1000000000), (flight 0x1000000000), by decide +kernel⟩,
   ⟨{}, (inM2 0x1100000000), (flight 0x1100000000), by decide +kernel⟩,
   ⟨{}, (inM2 0x1200000000), (flight 0x1200000000), by decide +kernel⟩,
   ⟨{}, (inM2 0x1300000000), (flight 0x1300000000), by decide +kernel⟩,
   ⟨{}, (inM2 0x1800000000), (flight 0x1800000000), by decide +kernel⟩,
   ⟨{}, (inM2 0x1A00000000), (flight 0x1A00000000), by decide +kernel⟩,
   ⟨{}, (inM2 0x1B00000000), (flight 0x1B00000000), by decide +kernel⟩,
   ⟨{}, (inM2 0x2000000000), (flight 0x2000000000), by decide +kernel⟩,
   ⟨{}, (inM2 0x2100000000), (flight 0x2100000000), by decide +kernel⟩,
   ⟨{}, (inM2 0x2200000000), (flight 0x2200000000), by decide +kernel⟩,
   ⟨{}, (inM2 0x2300000000), (flight 0x2300000000), by decide +kernel⟩,
   ⟨{}, (inM2 0x2400000000), (flight 0x2400000000), by decide +kernel⟩,
   ⟨{}, (inM2 0x2500000000), (flight 0x2500000000), by decide +kernel⟩,
   ⟨{}, (inM2 0x3000000000), (flight 0x3000000000), by decide +kernel⟩,
   ⟨{}, (inM2 0x4000000000), (flight 0x4000000000), by decide +kernel⟩,
   ⟨{}, (inM2 0x5000000000), (flight 0x5000000000), by decide +kernel⟩,
   ⟨{}, (inM2 0x5100000000), (flight 0x5100000000), by decide +kernel⟩,
   ⟨{}, (inM2 0x5200000000), (flight 0x5200000000), by decide +kernel⟩,
   ⟨{}, (inM2 0x5300000000), (flight 0x5300000000), by decide +kernel⟩⟩

theorem witness_sliceMovesAndFlags :
    (∃ (ci : CycleIn) (m : Slice) (f : Flight), ci.clean = true ∧ m.run = .running ∧ m.stD = none ∧ m.stMR = some f ∧ f.nop = false ∧ hasMoves f.word = true ∧ mvType (iX f.word) = 1 ∧ mvType (iY f.word) = 0) ∧
    (∃ (ci : CycleIn) (m : Slice) (f : Flight), m.stM2 = some f ∧ f.isRow 0x02 0x03 = true ∧ iCode f.word < 8) ∧
    (∃ (ci : CycleIn) (m : Slice) (f : Flight), m.stM2 = some f ∧ f.isRow 0x01 0x01 = true ∧ iCode f.word < 8 ∧ iCode2 f.word < 8) ∧
    (∃ (ci : CycleIn) (m : Slice) (f : Flight) (c : Nat) (v : BitVec 56), m.stWB = some f ∧ f.wbs = [{ reg := c, val := v }] ∧ c < 8 ∧ m.stMR = none) ∧
    (∃ (ci : CycleIn) (m : Slice) (f : Flight) (v : BitVec 56), m.stWB = some f ∧ f.wbs = [{ reg := 0x40, val := v }]) ∧
    (∃ (ci : CycleIn) (m : Slice) (f : Flight), m.stM2 = some f ∧ f.isRow 0x20 0x25 = true) ∧
    (∃ (ci : CycleIn) (m : Slice) (f : Flight), m.stM1 = some f ∧ f.isRow 0x10 0x13 = true ∧ ci.clean = true) :=
  ⟨⟨{ x := { data := 77 } }, { Slice.reset with run := .running, stMR := some (flight 0x200000) }, (flight 0x200000), by decide +kernel⟩,
   ⟨{}, (inM2 0x0203000009), (flight 0x0203000009), by decide +kernel⟩,
   ⟨{}, (inM2 0x0103040000), (flight 0x0103040000), by decide +kernel⟩,
   ⟨{}, { Slice.reset with stWB := some { flight 0 with wbs := [{ reg := 3, val := 9 }] } }, { flight 0 with wbs := [{ reg := 3, val := 9 }] }, 3, 9, by decide +kernel⟩,
   ⟨{}, { Slice.reset with stWB := some { flight 0 with wbs := [{ reg := 0x40, val := 9 }] } }, { flight 0 with wbs := [{ reg := 0x40, val := 9 }] }, 9, by decide +kernel⟩,
   ⟨{}, (inM2 0x2000000000), (flight 0x2000000000), by decide +kernel⟩,
   ⟨{}, { Slice.reset with run := .running, stM1 := some (flight 0x1000000000) }, (flight 0x1000000000), by decide +kernel⟩⟩

theorem witness_sliceControlFlow :
    (∃ (ci : CycleIn) (m : Slice) (f : Flight), ci.clean = true ∧ m.run = .running ∧ m.stD = some f ∧ f.isRow 0xF2 0xF2 = true) ∧
    (∃ (ci : CycleIn) (m : Slice) (f : Flight), ci.clean = true ∧ m.run = .running ∧ m.stD = some f ∧ f.isRow 0xF3 0xF3 = true ∧ m.cond (iSrc f.word) = true) ∧
    (∃ (ci : CycleIn) (m : Slice) (f : Flight), ci.clean = true ∧ m.run = .running ∧ m.stD = some f ∧ f.isRow 0xF3 0xF3 = true ∧ m.cond (iSrc f.word) = false ∧ openLevels m.loops = 0) ∧
    (∃ (ci : CycleIn) (m : Slice) (f : Flight), ci.clean = true ∧ m.run = .running ∧ m.stD = some f ∧ f.isRow 0xF4 0xF4 = true ∧ m.depth < 4) ∧
    (∃ (ci : CycleIn) (m : Slice) (f : Flight), ci.clean = true ∧ m.run = .running ∧ m.stD = some f ∧ f.isRow 0xF4 0xF4 = true ∧ 4 ≤ m.depth) ∧
    (∃ (ci : CycleIn) (m : Slice) (f : Flight), ci.clean = true ∧ m.run = .running ∧ m.stD = some f ∧ f.isRow 0xF5 0xF5 = true ∧ 0 < m.depth) ∧
    (∃ (ci : CycleIn) (m : Slice) (f : Flight), ci.clean = true ∧ m.run = .running ∧ m.stD = some f ∧ f.isRow 0xF5 0xF5 = true ∧ m.depth = 0) ∧
    (∃ (ci : CycleIn) (m : Slice) (f : Flight), ci.clean = true ∧ m.run = .running ∧ m.stD = some f ∧ f.isRow 0xF0 0xF0 = true ∧ m.inTrap = false ∧ f.addr.toNat + 1 ≤ bitsOf f.word.toNat 0 10 ∧ openLevels m.loops < 3 ∧ m.pc.toNat ≠ bitsOf f.word.toNat 0 10 ∧ bitsOf f.word.toNat 16 16 ≠ 0) ∧
    (∃ (ci : CycleIn) (m : Slice) (f : Flight), ci.clean = true ∧ m.run = .running ∧ m.stD = some f ∧ f.isRow 0xF1 0xF1 = true ∧ m.inTrap = false ∧ f.addr.toNat + 1 ≤ bitsOf f.word.toNat 0 10 ∧ openLevels m.loops < 3 ∧ m.pc.toNat ≠ bitsOf f.word.toNat 0 10 ∧ BitVec.ofNat 16 (m.readCode (iCode f.word)).1 ≠ 0) ∧
    (∃ (ci : CycleIn) (m : Slice) (f : Flight), ci.clean = true ∧ m.run = .running ∧ m.stD = some f ∧ f.isRow 0xF0 0xF0 = true ∧ m.inTrap = false ∧ f.addr.toNat + 1 ≤ bitsOf f.word.toNat 0 10 ∧ openLevels m.loops < 3 ∧ bitsOf f.word.toNat 16 16 = 0) ∧
    (∃ (ci : CycleIn) (m : Slice) (f : Flight), ci.clean = true ∧ m.run = .running ∧ m.stD = some f ∧ f.isRow 0xF0 0xF1 = true ∧ m.inTrap = false ∧ f.addr.toNat + 1 ≤ bitsOf f.word.toNat 0 10 ∧ openLevels m.loops = 3) ∧
    (∃ (ci : CycleIn) (m : Slice) (l : LoopLevel), ci.clean = true ∧ m.run = .running ∧ m.stD = none ∧ m.inTrap = false ∧ 0 < openLevels m.loops ∧ tget LoopLevel.reset m.loops (openLevels m.loops - 1) = l ∧ l.stop = m.pc ∧ 1 < l.count.toNat) ∧
    (∃ (ci : CycleIn) (m : Slice) (f : Flight), ci.clean = true ∧ m.run = .running ∧ m.stD = some f ∧ f.isRow 0xF6 0xF6 = true ∧ m.waitOk (bitsOf f.word.toNat 0 4) = false) ∧
    (∃ (ci : CycleIn) (m : Slice) (f : Flight), ci.clean = true ∧ m.run = .running ∧ m.stD = some f ∧ f.isRow 0xF6 0xF6 = true ∧ m.waitOk (bitsOf f.word.toNat 0 4) = true) ∧
    (∃ (ci : CycleIn) (m : Slice) (f : Flight), ci.clean = true ∧ m.run = .running ∧ m.stD = some f ∧ f.isRow 0xF7 0xF7 = true ∧ m.inTrap = true) ∧
    (∃ (ci : CycleIn) (m : Slice) (f : Flight), ci.clean = true ∧ m.run = .running ∧ m.stD = some f ∧ f.isRow 0xF8 0xF8 = true) :=
  ⟨⟨{}, { Slice.reset with run := .running, stD := some (flight 0xF200000007) }, (flight 0xF200000007), by decide +kernel⟩,
   ⟨{}, { Slice.reset with run := .running, stD := some (flight 0xF301000007) }, (flight 0xF301000007), by decide +kernel⟩,
   ⟨{}, { Slice.reset with run := .running, stD := some (flight 0xF300000007) }, (flight 0xF300000007), by decide +kernel⟩,
   ⟨{}, { Slice.reset with run := .running, stD := some (flight 0xF400000007) }, (flight 0xF400000007), by decide +kernel⟩,
   ⟨{}, { Slice.reset with run := .running, stD := some (flight 0xF400000007), depth := 4 }, (flight 0xF400000007), by decide +kernel⟩,
   ⟨{}, { Slice.reset with run := .running, stD := some (flight 0xF500000000), depth := 1, stack := [(0, 9)] }, (flight 0xF500000000), by decide +kernel⟩,
   ⟨{}, { Slice.reset with run := .running, stD := some (flight 0xF500000000) }, (flight 0xF500000000), by decide +kernel⟩,
   ⟨{}, { Slice.reset with run := .running, stD := some (flight 0xF000030007) }, (flight 0xF000030007), by decide +kernel⟩,
   ⟨{}, { Slice.reset with run := .running, stD := some (flight 0xF100000007), d := [(0, 5)] }, (flight 0xF100000007), by decide +kernel⟩,
   ⟨{}, { Slice.reset with run := .running, stD := some (flight 0xF000000007) }, (flight 0xF000000007), by decide +kernel⟩,
   ⟨{}, { Slice.reset with run := .running, stD := some (flight 0xF000030007), loops := [(0, { isOpen := true }), (1, { isOpen := true }), (2, { isOpen := true })] }, (flight 0xF000030007), by decide +kernel⟩,
   ⟨{}, { Slice.reset with run := .running, pc := 6, loops := [(0, { start := 2, stop := 6, count := 3, isOpen := true })] }, { start := 2, stop := 6, count := 3, isOpen := true }, by decide +kernel⟩,
   ⟨{}, { Slice.reset with run := .running, stD := some (flight 0xF600000001) }, (flight 0xF600000001), by decide +kernel⟩,
   ⟨{}, { Slice.reset with run := .running, stD := some (flight 0xF600000004) }, (flight 0xF600000004), by decide +kernel⟩,
   ⟨{}, { Slice.reset with run := .running, stD := some (flight 0xF700000000), inTrap := true }, (flight 0xF700000000), by decide +kernel⟩,
   ⟨{}, { Slice.reset with run := .running, stD := some (flight 0xF800000000) }, (flight 0xF800000000), by decide +kernel⟩⟩

theorem witness_sliceTrapsAndHalts :
    (∃ (s : State) (d i : Nat), s.slReady d i = true ∧ (s.slice d i).run = .running ∧ (s.slice d i).stD = none ∧ (s.slice d i).stMR = none ∧ (s.slice d i).inTrap = false ∧ (tget (s.imBlank d i) (s.slice d i).imem (s.slice d i).pc.toNat).health ≠ .mark) ∧
    (∃ (s : State) (d i : Nat) (f : Flight), s.slReady d i = true ∧ (s.slice d i).run = .running ∧ (s.slice d i).stMR = some f ∧ f.nop = false ∧ f.slot = false ∧ hasMoves f.word = true ∧ mvLoads (iX f.word) = true ∧ (s.slice d i).inTrap = false ∧ (tget (s.slBlank d i) (s.slice d i).xmem f.xa.toNat).health ≠ .mark) ∧
    (∃ (s : State) (d i : Nat), i < 2048 ∧ s.grpClocked d (i / 16) = true ∧ (s.slice d i).haltReq = true ∧ (s.slice d i).run = .running ∧ (dStage (s.slice d i)).slotCtl = false) ∧
    (∃ (s : State) (d i : Nat) (f : Flight), i < 2048 ∧ s.grpClocked d (i / 16) = true ∧ (s.slice d i).haltReq = true ∧ (s.slice d i).run = .waiting ∧ (s.slice d i).stD = some f) ∧
    (∃ (s : State) (d i : Nat), s.slReady d i = true ∧ (s.slice d i).run = .draining ∧ (s.slice d i).stD = none ∧ (s.slice d i).stAG = none ∧ (s.slice d i).stMR = none ∧ (s.slice d i).stM1 = none ∧ (s.slice d i).stM2 = none) ∧
    (∃ (s : State) (d i : Nat) (data : BitVec 24) (late : Bool), s.streamEdge d i = true ∧ (s.slice d i).is0.length < 4 ∧ (s.group d (i / 16)).inEdge.map Prod.fst ≠ some s.now) ∧
    (∃ (s : State) (d i : Nat) (data : BitVec 24) (late : Bool), s.streamEdge d i = true ∧ (s.slice d i).is1.length < 4 ∧ (s.group d (i / 16)).inEdge.map Prod.fst ≠ some s.now) ∧
    (∃ (s : State) (d i l : Nat) (data : BitVec 24) (late : Bool), s.streamEdge d i = true ∧ (s.slice d i).is0.length < 4 ∧ (s.group d (i / 16)).inEdge = some (s.now, l)) ∧
    (∃ (s : State) (d i : Nat) (q : Bool) (e : StreamWord) (rest : List StreamWord), s.streamEdge d i = true ∧ s.sclkRuns d = true ∧ (if q then (s.slice d i).os1 else (s.slice d i).os0) = e :: rest ∧ e.seenAt ≤ s.fclkEdges d (s.group d (i / 16)).streamClk.toNat) ∧
    (∃ (s : State) (d i : Nat) (q : Bool) (e : StreamWord) (rest : List StreamWord), (if q then (s.slice d i).os1 else (s.slice d i).os0) = e :: rest ∧ s.fclkEdges d (s.group d (i / 16)).streamClk.toNat < e.seenAt) :=
  ⟨⟨(slAt 0x2000000000), 0, 1600, by decide +kernel⟩,
   ⟨((slAt 0x2000000000).modSlice 0 1600 fun m => { m with stMR := some (flight 0x200000) }), 0, 1600, (flight 0x200000), by decide +kernel⟩,
   ⟨((slAt 0).modSlice 0 1600 fun m => { m with haltReq := true }), 0, 1600, by decide +kernel⟩,
   ⟨((slAt 0).modSlice 0 1600 fun m => { m with haltReq := true, run := .waiting, stD := some (flight 0xF600000001) }), 0, 1600, (flight 0xF600000001), by decide +kernel⟩,
   ⟨((slAt 0).modSlice 0 1600 fun m => { m with run := .draining }), 0, 1600, by decide +kernel⟩,
   ⟨(slAt 0), 0, 1600, 3, true, by decide +kernel⟩,
   ⟨(slAt 0), 0, 1600, 3, false, by decide +kernel⟩,
   ⟨((slAt 0).modGroup 0 100 fun x => { x with inEdge := some (0, 3) }), 0, 1600, 3, 9, false, by decide +kernel⟩,
   ⟨((slAt 0).modSlice 0 1600 fun m => { m with os1 := [{ data := 4 }] }), 0, 1600, true, { data := 4 }, [], by decide +kernel⟩,
   ⟨((slAt 0).modSlice 0 1600 fun m => { m with os1 := [{ data := 4, seenAt := 2 }] }), 0, 1600, true, { data := 4, seenAt := 2 }, [], by decide +kernel⟩⟩

theorem witness_sliceRegisters :
    (∃ (s : State) (w : Who) (d i : Nat) (halt : Bool), i < 2048 ∧ s.reaches w (dieBase d + 0x200000 + slOff i 0x000) true = true ∧ s.slgLoading d (i / 16) = false ∧ (s.group d (i / 16)).frozen = false ∧ (s.slice d i).run = .halted) ∧
    (∃ (s : State) (w : Who) (d i : Nat), i < 2048 ∧ s.reaches w (dieBase d + 0x200000 + slOff i 0x000) true = true ∧ s.slgLoading d (i / 16) = false ∧ (s.group d (i / 16)).frozen = false ∧ (s.slice d i).run = .running) ∧
    (∃ (s : State) (w : Who) (d g k : Nat) (mask : BitVec 16), g < 128 ∧ k < 16 ∧ s.reaches w (dieBase d + 0x200000 + g * 0x4000) true = true ∧ s.slgLoading d g = false ∧ (s.group d g).frozen = false ∧ (s.slice d (16 * g + k)).run = .halted) ∧
    (∃ (s : State) (w : Who) (d g k : Nat) (mask : BitVec 16), g < 128 ∧ k < 16 ∧ s.reaches w (dieBase d + 0x200000 + (g * 0x4000 + 4)) true = true ∧ (s.group d g).frozen = false ∧ (s.slice d (16 * g + k)).run = .running ∧ (s.slice d (16 * g + k)).haltReq = false) ∧
    (∃ (s : State) (w : Who) (d i : Nat) (data : BitVec 32), i < 2048 ∧ s.reaches w (dieBase d + 0x200000 + slOff i 0x008) true = true ∧ s.slgLoading d (i / 16) = false ∧ (s.group d (i / 16)).frozen = false ∧ (s.slice d i).run = .halted) ∧
    (∃ (s : State) (w : Who) (d i : Nat) (data : BitVec 32), i < 2048 ∧ s.reaches w (dieBase d + 0x200000 + slOff i 0x008) true = true ∧ s.slgLoading d (i / 16) = false ∧ (s.group d (i / 16)).frozen = false ∧ (s.slice d i).run ≠ .halted) ∧
    (∃ (s : State) (w : Who) (d i k : Nat) (data : BitVec 32), i < 2048 ∧ k < 3 ∧ s.reaches w (dieBase d + 0x200000 + slOff i (0x0C0 + 8 * k)) true = true ∧ s.slgLoading d (i / 16) = false ∧ (s.group d (i / 16)).frozen = false ∧ (s.slice d i).run = .halted ∧ data.getLsbD 31 = true ∧ k ≤ openLevels (s.slice d i).loops) ∧
    (∃ (s : State) (w : Who) (d i : Nat) (data : BitVec 32), i < 2048 ∧ s.reaches w (dieBase d + 0x200000 + slOff i 0x0F8) true = true ∧ s.slgLoading d (i / 16) = false ∧ (s.group d (i / 16)).frozen = false ∧ (s.slice d i).run = .halted ∧ data.toNat % 8 ≤ 4) ∧
    (∃ (s : State) (w : Who) (d i : Nat), i < 2048 ∧ s.reaches w (dieBase d + 0x200000 + slOff i 0x01C) false = true ∧ s.slgLoading d (i / 16) = false ∧ (w.src ≠ 0x801 ∨ w.effect = true)) ∧
    (∃ (s : State) (w : Who) (d g off : Nat) (data : BitVec 64), g < 128 ∧ off < 0x2000 ∧ off % 4 = 0 ∧ s.reaches w (dieBase d + 0x200000 + (g * 0x4000 + 0x2000 + off)) true = true ∧ s.slgLoading d g = false ∧ (s.group d g).winMem = 0 ∧ s.winHeld d g true = false) ∧
    (∃ (s : State) (w : Who) (d g off : Nat) (data : BitVec 64), g < 128 ∧ off < 0x2000 ∧ off % 8 = 0 ∧ s.reaches w (dieBase d + 0x200000 + (g * 0x4000 + 0x2000 + off)) true = true ∧ s.slgLoading d g = false ∧ (s.group d g).winMem = 2 ∧ s.slHalted d (16 * g + (s.group d g).winSlice.toNat) = true) ∧
    (∃ (s : State) (w : Who) (d g off : Nat) (u : Upset), g < 128 ∧ off < 0x2000 ∧ off % 4 = 0 ∧ s.reaches w (dieBase d + 0x200000 + (g * 0x4000 + 0x2000 + off)) false = true ∧ s.slgLoading d g = false ∧ (s.group d g).winMem = 0 ∧ s.winHeld d g false = false ∧ (u = .none ∨ u = .single ∨ u = .double) ∧ ((tget (s.slBlank d (16 * g + (s.group d g).winSlice.toNat)) (s.slice d (16 * g + (s.group d g).winSlice.toNat)).xmem (off / 4)).health.hit u).bad = false) ∧
    (∃ (s : State) (w : Who) (d g off : Nat) (u : Upset), g < 128 ∧ off < 0x2000 ∧ s.reaches w (dieBase d + 0x200000 + g * 0x4000 + 0x2000 + off) false = true ∧ s.winHeld d g false = true) :=
  ⟨⟨running, who0, 0, 1600, false, by decide +kernel⟩,
   ⟨(slAt 0), who0, 0, 1600, by decide +kernel⟩,
   ⟨running, who0, 0, 100, 15, 0x8000, by decide +kernel⟩,
   ⟨(slAt 0), who0, 0, 100, 0, 0x8001, by decide +kernel⟩,
   ⟨running, who0, 0, 1600, 77, by decide +kernel⟩,
   ⟨(slAt 0), who0, 0, 1600, 77, by decide +kernel⟩,
   ⟨running, who0, 0, 1600, 0, 0x80070003, by decide +kernel⟩,
   ⟨running, who0, 0, 1600, 4, by decide +kernel⟩,
   ⟨(running.modSlice 0 1600 fun m => { m with corrX := 9 }), who0, 0, 1600, by decide +kernel⟩,
   ⟨running, who0, 0, 100, 0x1FFC, 0x12345678, by decide +kernel⟩,
   ⟨(running.modGroup 0 100 fun x => { x with winMem := 2 }), who0, 0, 100, 0x1FF8, 0x12345678, by decide +kernel⟩,
   ⟨(slAt 0), who0, 0, 100, 0, .single, by decide +kernel⟩,
   ⟨((slAt 0).modSlice 0 1600 fun m => { m with stMR := some (flight 0x200000) }), who0, 0, 100, 0, .none, by decide +kernel⟩⟩

theorem witness_accessesAndTables :
    (∃ (s : State) (w : Who) (a : BitVec 48) (eight : Bool) (data : BitVec 64), s.decode a.toNat = none) ∧
    (∃ (s : State) (w : Who) (a : BitVec 48) (eight : Bool) (data : BitVec 64) (g : Target) (n : Nat), s.decode a.toNat = some (g, n) ∧ g.isControl = true ∧ s.reaches w a.toNat true = false) ∧
    (∃ (s : State) (w : Who) (d r : Nat) (data : BitVec 64), d < s.fdies ∧ r < 48 ∧ s.reaches w (rtrAddr d r 0x004) true = true ∧ w.src = 0x800) ∧
    (∃ (s : State) (w : Who) (d r : Nat) (data : BitVec 32), r < 48 ∧ s.reaches w (rtrAddr d r 0x004) true = true ∧ w.src = 0x800) ∧
    (∃ (s : State) (w : Who) (d r p : Nat) (data : BitVec 32), r < 48 ∧ p < 8 ∧ s.reaches w (rtrAddr d r (0x400 + p * 0x10)) true = true ∧ w.src = 0x800 ∧ s.hasPort d r p = true ∧ data.toNat % 256 ≤ 154) ∧
    (∃ (s : State) (w : Who) (d r p : Nat) (data : BitVec 32), r < 48 ∧ p < 8 ∧ s.reaches w (rtrAddr d r (0x400 + p * 0x10)) true = true ∧ 154 < data.toNat % 256) ∧
    (∃ (s : State) (w : Who) (d r : Nat), r < 48 ∧ s.reaches w (rtrAddr d r 0x008) true = true) ∧
    (∃ (s : State) (w : Who) (d r : Nat), r < 48 ∧ s.reaches w (rtrAddr d r 0x008) true = true) ∧
    (∃ (s : State) (w : Who) (d r : Nat), r < 48 ∧ s.reaches w (rtrAddr d r 0x008) true = true) ∧
    (∃ (s : State) (m : Nat), s.asks m 0x0400 = true ∧ (s.req m).len = 4 ∧ (s.req m).zero 2 2 = true ∧ s.tidOk ((s.req m).num 0 2) = true) ∧
    (∃ (s : State) (m : Nat), s.asks m 0x0401 = true ∧ s.hasRole m roleT = true ∧ 4 ≤ (s.req m).len ∧ (s.req m).len = 4 + 4 * (s.req m).num 3 1 ∧ s.tidOk ((s.req m).num 0 2) = true ∧ 1 ≤ (s.req m).num 3 1 ∧ (s.req m).num 2 1 + (s.req m).num 3 1 ≤ 32 ∧ ((List.range ((s.req m).num 3 1)).all fun i => aclWordOk ((s.req m).num (4 + 4 * i) 4)) = true) :=
  ⟨⟨running, who0, 0xFFFFFFFFFFFF, false, 1, by decide +kernel⟩,
   ⟨running, { src := 3, priv := false, effect := true }, 0xF00010000000, false, 1, (.fctl 0), 0xF000100FFFFF, by decide +kernel⟩,
   ⟨running, who0, 0, 47, 0x10005, by decide +kernel⟩,
   ⟨running, who0, 0, 47, 0x10005, by decide +kernel⟩,
   ⟨running, who0, 0, 5, 7, 0x59A, by decide +kernel⟩,
   ⟨running, who0, 0, 5, 7, 0x59B, by decide +kernel⟩,
   ⟨running, who0, 0, 5, by decide +kernel⟩,
   ⟨running, who0, 0, 5, by decide +kernel⟩,
   ⟨running, who0, 0, 5, by decide +kernel⟩,
   ⟨(asking running 0x0400 [7, 16, 0, 0]), 0, by decide +kernel⟩,
   ⟨(asking running 0x0401 [7, 16, 31, 1, 3, 0, 0, 0x83]), 0, by decide +kernel⟩⟩

theorem witness_requestsAndResponses :
    (∃ (s : State) (mid : BitVec 12) (rq : Req) (tag : BitVec 10), Req.wellFormed { rq with opc := forcePriv s mid rq.opc } = true ∧ s.mayInject mid = true ∧ opcClass (forcePriv s mid rq.opc) = some .req ∧ (s.master mid).freeTag = some tag ∧ s.decode rq.addr.toNat = none) ∧
    (∃ (s : State) (mid : BitVec 12) (rq : Req) (tag : BitVec 10) (g : Target) (e node r p : Nat), Req.wellFormed { rq with opc := forcePriv s mid rq.opc } = true ∧ s.mayInject mid = true ∧ opcClass (forcePriv s mid rq.opc) = some .req ∧ rq.ord = false ∧ (s.master mid).freeTag = some tag ∧ s.decode rq.addr.toNat = some (g, e) ∧ s.sameExtent rq.addr.toNat rq.len.toNat = true ∧ s.flowOf mid .req rq.addr.toNat rq.len.toNat = none ∧ s.portOfDest (destOfSrc mid) = some (node, r, p)) ∧
    (∃ (s : State) (mid : BitVec 12) (tag : BitVec 10) (o : Outst), (s.master mid).out.find? (fun o => o.tag == tag) = some o ∧ o.atPs + s.timeoutUs mid * psUs ≤ s.now ∧ ((s.master mid).rsps.any fun k => k.tag == tag) = false) ∧
    (∃ (s : State) (mid : BitVec 12) (tag : BitVec 10), ((s.master mid).quar.all fun q => q.1 != tag || decide (q.2 ≤ s.now)) = true) ∧
    (∃ (s : State) (mid : BitVec 12) (k : Pkt) (rest : List Pkt) (o : Outst), isDmaMid mid = false ∧ mid ≠ 0x801 ∧ mid ≠ 0x8F0 ∧ mid ≠ 0x8F1 ∧ (s.master mid).rsps = k :: rest ∧ (s.master mid).out.find? (fun o => o.tag == k.tag) = some o) ∧
    (∃ (s : State) (k : Pkt) (rest : List Pkt) (d b : Nat), d < 8 ∧ b < 96 ∧ (s.master (bayMid d b)).rsps = k :: rest ∧ (s.master (bayMid d b)).out.find? (fun o => o.tag == k.tag) = none) ∧
    (∃ (s : State) (node r p d : Nat) (ev : Bool) (k : Pkt) (rest : List Pkt) (e : Nat), s.takesNow node r p = true ∧ s.elementAt node r p = .control ev ∧ tget [] (s.router node r).inbox p = k :: rest ∧ k.cls = .req ∧ k.rt = false ∧ s.portAdmits node r p k = true ∧ s.decode k.addr.toNat = some (.fctl d, e) ∧ opcRead k.opc = true ∧ k.len = 3 ∧ k.addr.toNat % 4 = 0 ∧ k.addr.toNat % 0x1000000 < 0x100000) ∧
    (∃ (s : State) (node r p : Nat) (ev : Bool) (k : Pkt) (rest : List Pkt) (g : Target) (e : Nat), s.takesNow node r p = true ∧ s.elementAt node r p = .control ev ∧ tget [] (s.router node r).inbox p = k :: rest ∧ k.cls = .req ∧ k.rt = false ∧ s.portAdmits node r p k = true ∧ s.decode k.addr.toNat = some (g, e) ∧ opcRmw k.opc = true) :=
  ⟨⟨bayMst, 3, rqNone, 0, by decide +kernel⟩,
   ⟨bayMst, 3, rqHub, 0, (.hub 0), 0xF000000FFFFF, 0, 1, 6, by decide +kernel⟩,
   ⟨(((bayMst.setNow 9000000000).modMaster 3 fun m => { m with out := [{ tag := 5 }] })), 3, 5, { tag := 5 }, by decide +kernel⟩,
   ⟨(bayMst.modMaster 3 fun m => { m with quar := [(5, 0)] }), 3, 5, by decide +kernel⟩,
   ⟨(bayMst.modMaster 3 fun m => { m with out := [{ tag := 9 }], rsps := [gableReq 0 0] }), 3, (gableReq 0 0), [], { tag := 9 }, by decide +kernel⟩,
   ⟨(bayMst.modMaster 3 fun m => { m with rsps := [gableReq 0 0] }), (gableReq 0 0), [], 0, 3, by decide +kernel⟩,
   ⟨(atControl (gableReq 0xF00010000000 1)), 0, 5, 7, 0, false, (gableReq 0xF00010000000 1), [], 0xF000100FFFFF, by decide +kernel⟩,
   ⟨(atControl (gableReq 0xF00010000000 7)), 0, 5, 7, false, (gableReq 0xF00010000000 7), [], (.fctl 0), 0xF000100FFFFF, by decide +kernel⟩⟩

theorem witness_routersMovePackets :
    (∃ (s : State) (node r p vc c : Nat) (k : Pkt) (rest : List Pkt), tget [] (s.router node r).inq (8 * p + vc) = k :: rest ∧ (s.router node r).idle = false ∧ s.hasPort node r p = true ∧ s.ridgeClock node = true ∧ k.route = none ∧ k.exit = none ∧ k.die.toNat = node ∧ node < 9) ∧
    (∃ (s : State) (node r p vc : Nat) (k : Pkt) (rest : List Pkt) (u : FlitUpset), tget [] (s.router node r).inq (8 * p + vc) = k :: rest ∧ (s.router node r).idle = false ∧ s.hasPort node r p = true ∧ s.ridgeClock node = true ∧ k.route = none ∧ (u.bad = .header ∨ u.bad = .sideband)) ∧
    (∃ (s : State) (node r out p v : Nat) (k : Pkt) (lv tk esc : Bool), (s.router node r).idle = false ∧ s.hasPort node r out = true ∧ s.ridgeClock node = true ∧ (tget Outp.reset (s.router node r).outs out).busyUntil ≤ s.now ∧ s.arbiter node r out = some (p, v, k, lv, tk, esc) ∧ 5 ≤ out) ∧
    (∃ (s : State) (node r out p v : Nat) (k : Pkt) (lv tk esc : Bool), (s.router node r).idle = false ∧ s.hasPort node r out = true ∧ s.ridgeClock node = true ∧ (tget Outp.reset (s.router node r).outs out).busyUntil ≤ s.now ∧ s.arbiter node r out = some (p, v, k, lv, tk, esc) ∧ out < 4) ∧
    (∃ (s : State) (node r p v l : Nat) (k : Pkt) (lv tk esc : Bool), (s.router node r).idle = false ∧ s.hasPort node r 4 = true ∧ s.ridgeClock node = true ∧ (tget Outp.reset (s.router node r).outs 4).busyUntil ≤ s.now ∧ s.arbiter node r 4 = some (p, v, k, lv, tk, esc) ∧ siteOfRouter node r = some l) ∧
    (∃ (s : State) (node r p vc : Nat), tget 0 (s.router node r).back (8 * p + vc) ≠ 0 ∧ s.ridgeClock node = true) ∧
    (∃ (s : State) (r p vc c : Nat) (k : Pkt) (rest : List Pkt), tget [] (s.router 8 r).atPort (8 * p + vc) = k :: rest ∧ 5 ≤ p ∧ s.ridgeClock 8 = true ∧ k.cls = .req ∧ k.ue = false) ∧
    (∃ (s : State) (d r p vc : Nat) (k : Pkt) (rest : List Pkt), d ≠ 8 ∧ tget [] (s.router d r).atPort (8 * p + vc) = k :: rest ∧ 5 ≤ p ∧ p ≠ 7 ∧ s.ridgeClock d = true ∧ k.cls = .pwr ∧ k.ue = false ∧ s.portWay d r p = .drained ∧ s.portAdmits d r p k = true) ∧
    (∃ (s : State) (node r : Nat), s.hasRouter node r = true ∧ s.ridgeClock node = true ∧ (s.router node r).idle = false ∧ s.quiet node r = true ∧ (s.router node r).idleDly ≠ 0 ∧ (s.router node r).idleDly.toNat ≤ s.nocCycles (s.now - (s.router node r).quietAt)) ∧
    (∃ (s : State) (node r : Nat), (s.router node r).idle = true ∧ (s.router node r).wakeAt.isSome = true ∧ s.ridgeClock node = true) :=
  ⟨⟨(atRouter 7 pk), 0, 7, 5, 0, 3, pk, [], by decide +kernel⟩,
   ⟨(atRouter 7 pk), 0, 7, 5, 0, pk, [], { corr := 1, bad := .header }, by decide +kernel⟩,
   ⟨(atRouter 7 (pkRouted 7)), 0, 7, 5, 5, 0, (pkRouted 7), false, false, false, by decide +kernel⟩,
   ⟨(atRouter 0 (pkRouted 7)), 0, 0, 0, 5, 0, (pkRouted 7), false, false, false, by decide +kernel⟩,
   ⟨(((atRouter 17 { pk with die := 1, exit := some 4, route := some 17 }).modLaneset 4 fun x => { x with state := .active }).modLink 4 fun e => { e with spent := [] }), 0, 17, 5, 0, 4, { pk with die := 1, exit := some 4, route := some 17 }, false, false, false, by decide +kernel⟩,
   ⟨(running.modRouter 0 7 fun x => { x with back := [(9, 2)], spent := [(9, 3)] }), 0, 7, 1, 1, by decide +kernel⟩,
   ⟨(running.modRouter 8 8 fun x => { x with atPort := [(40, [pk])] }), 8, 5, 0, 1, pk, [], by decide +kernel⟩,
   ⟨(running.modRouter 0 7 fun x => { x with drain0 := true, atPort := [(44, [{ pk with cls := .pwr, opc := 4, checked := true }])] }), 0, 7, 5, 4, { pk with cls := .pwr, opc := 4, checked := true }, [], by decide +kernel⟩,
   ⟨((running.setNow 100000000).modRouter 0 7 fun x => { x with idleDly := 5 }), 0, 7, by decide +kernel⟩,
   ⟨(running.modRouter 0 7 fun x => { x with idle := true, wakeAt := some 0 }), 0, 7, by decide +kernel⟩⟩

theorem witness_flowCommands :
    (∃ (s : State) (m i : Nat) (f : Flow) (u v : State) (ls : List Leg), s.asks m 0x0200 = true ∧ s.gable.gstate = .running ∧ s.hasRole m roleF = true ∧ (s.req m).len = 36 ∧ u = s.heard m ∧ f = flowOfReq (s.req m) (u.sid m) ∧ flowFieldsOk u (s.req m) = true ∧ (∀ x ∈ u.touched f.base.toNat f.last, x ≠ none ∧ x = (u.touched f.base.toNat f.last).headD none) ∧ (f.last < 0xF00000000000 ∨ 0xF00100000000 ≤ f.base.toNat) ∧ tabWf Flow.reset s.flows = true ∧ (u.flows.any fun e => e.2.used && e.2.mid == f.mid && e.2.cls == f.cls && decide (e.2.base.toNat ≤ f.last) && decide (f.base.toNat ≤ e.2.last)) = false ∧ (f.cls = .req → f.deadline.toNat < u.timeoutUs f.mid * 1000) ∧ u.legs f = some ls ∧ 120 ≤ f.deadline.toNat ∧ (∀ l ∈ ls, 120 + 170 * ((l.req ++ l.ret).filter fun h => h.port == 4).length ≤ f.deadline.toNat) ∧ 1 ≤ i ∧ i ≤ 1023 ∧ (u.flow i).used = false ∧ (u.flow i).freeAt = none ∧ (∀ k ∈ List.range i, k = 0 ∨ (u.flow k).used = true ∨ (u.flow k).freeAt ≠ none) ∧ u.slotsUsed f.mid < slotsOf f.mid ∧ (if f.base.toNat < 2 ^ 42 then (u.flowChans f).foldlM (fun s c => s.addRtSrc c f.mid) u else some u) = some v ∧ ((v.modFlow i fun _ => v.reserve f).check4to7 i).status = stOk) ∧
    (∃ (s : State) (m : Nat) (f : Flow) (u : State), s.asks m 0x0200 = true ∧ s.gable.gstate = .running ∧ s.hasRole m roleF = true ∧ (s.req m).len = 36 ∧ u = s.heard m ∧ f = flowOfReq (s.req m) (u.sid m) ∧ flowFieldsOk u (s.req m) = true ∧ (∀ x ∈ u.touched f.base.toNat f.last, x ≠ none ∧ x = (u.touched f.base.toNat f.last).headD none) ∧ (f.last < 0xF00000000000 ∨ 0xF00100000000 ≤ f.base.toNat) ∧ (u.flows.any fun e => e.2.used && e.2.mid == f.mid && e.2.cls == f.cls && decide (e.2.base.toNat ≤ f.last) && decide (f.base.toNat ≤ e.2.last)) = false ∧ (f.cls = .req → f.deadline.toNat < u.timeoutUs f.mid * 1000) ∧ f.deadline.toNat < 120) ∧
    (∃ (s : State) (m i : Nat), s.asks m 0x0201 = true ∧ s.gable.gstate = .running ∧ (s.hasRole m roleF = true ∨ (s.flow i).owner = s.sid m) ∧ (s.req m).len = 2 ∧ (s.req m).num 0 2 = i ∧ 1 ≤ i ∧ i ≤ 1023 ∧ (s.flow i).used = true) ∧
    (∃ (s : State) (m i : Nat), s.asks m 0x0202 = true ∧ s.gable.gstate = .running ∧ (s.hasRole m roleF = true ∨ (s.flow i).owner = s.sid m) ∧ (s.req m).len = 2 ∧ (s.req m).num 0 2 = i ∧ 1 ≤ i ∧ i ≤ 1023 ∧ (s.flow i).used = true) ∧
    (∃ (s : State) (i e : Nat), (s.flow i).freeAt = some e ∧ e ≤ s.now) ∧
    (∃ (s : State) (i e : Nat), (s.flow i).freeAt = some e ∧ s.now < e) :=
  ⟨⟨flowAsk, 0, 1, flowOfReq (flowAsk.req 0) ((flowAsk.heard 0).sid 0), flowAsk.heard 0, flowAsk.heard 0, ((flowAsk.heard 0).legs (flowOfReq (flowAsk.req 0) 256)).getD [], by decide +kernel⟩,
   ⟨flowAskLate, 0, flowOfReq (flowAskLate.req 0) ((flowAskLate.heard 0).sid 0), flowAskLate.heard 0, by decide +kernel⟩,
   ⟨(asking (running.modFlow 1 fun f => { f with used := true }) 0x0201 [1, 0]), 0, 1, by decide +kernel⟩,
   ⟨(asking (running.modFlow 1 fun f => { f with used := true }) 0x0202 [1, 0]), 0, 1, by decide +kernel⟩,
   ⟨(running.modFlow 1 fun f => { f with freeAt := some 0 }), 1, 0, by decide +kernel⟩,
   ⟨(running.modFlow 1 fun f => { f with freeAt := some 7 }), 1, 7, by decide +kernel⟩⟩

theorem witness_laneCommands :
    (∃ (s : State) (m k : Nat), s.asks m 0x0800 = true ∧ s.hasRoom m = true ∧ s.gable.gstate = .running ∧ s.hasRole m roleC = true ∧ (s.req m).len = 4 ∧ (s.req m).zero 3 1 = true ∧ (s.req m).laneKey = k ∧ (s.req m).laneOk s = true ∧ (s.laneset k).upCmd = none ∧ (s.laneset k).shutting = false ∧ s.awaitsKey k = false ∧ (laneKind k = 2 → (s.laneset k).mode ≠ 0) ∧ (s.laneset k).pllWait = false ∧ ((s.laneset k).state = .off ∨ (s.laneset k).state = .fault)) ∧
    (∃ (s : State) (m k : Nat), s.asks m 0x0800 = true ∧ s.hasRoom m = true ∧ s.gable.gstate = .running ∧ s.hasRole m roleC = true ∧ (s.req m).len = 4 ∧ (s.req m).zero 3 1 = true ∧ (s.req m).laneKey = k ∧ (s.req m).laneOk s = true ∧ (s.laneset k).upCmd = none ∧ (s.laneset k).shutting = true) ∧
    (∃ (s : State) (m k : Nat), s.asks m 0x0801 = true ∧ s.hasRoom m = true ∧ s.gable.gstate = .running ∧ s.hasRole m roleC = true ∧ (s.req m).len = 4 ∧ (s.req m).zero 3 1 = true ∧ (s.req m).laneKey = k ∧ (s.req m).laneOk s = true ∧ (s.laneset k).shutting = false ∧ (s.laneset k).state = .active ∧ laneKind k ≠ 2) ∧
    (∃ (s : State) (m k : Nat), s.asks m 0x0801 = true ∧ s.hasRoom m = true ∧ s.gable.gstate = .running ∧ s.hasRole m roleC = true ∧ (s.req m).len = 4 ∧ (s.req m).zero 3 1 = true ∧ (s.req m).laneKey = k ∧ (s.req m).laneOk s = true ∧ (s.laneset k).shutting = false ∧ ((s.laneset k).state ≠ .active ∨ laneKind k = 2)) ∧
    (∃ (s : State) (m k : Nat), s.asks m 0x0802 = true ∧ s.gable.gstate = .running ∧ s.hasRole m roleC = true ∧ (s.req m).len = 8 ∧ (s.req m).zero 3 1 = true ∧ (s.req m).zero 7 1 = true ∧ (s.req m).laneKey = k ∧ (s.req m).laneOk s = true ∧ (s.req m).num 4 1 ≤ 5 ∧ (s.req m).num 5 1 ≤ 1 ∧ (s.req m).num 6 1 ≤ 3 ∧ (s.laneset k).state = .off ∧ (s.laneset k).pllWait = false ∧ (s.partner k).all (fun j => (s.laneset j).state == .off && !(s.laneset j).pllWait) = true) ∧
    (∃ (s : State) (m k n : Nat), s.asks m 0x0803 = true ∧ s.gable.gstate = .running ∧ s.hasRole m roleC = true ∧ (s.req m).len = 8 ∧ (s.req m).laneKey = k ∧ (s.req m).laneOk s = true ∧ (s.req m).num 3 1 = n ∧ n < laneCount k ∧ (s.req m).zero 5 3 = true ∧ (s.laneset k).mayInject = true ∧ ((s.req m).num 4 1 = 0 ∨ (s.req m).num 4 1 = 0xFF ∨ 10 ≤ (s.req m).num 4 1 ∧ (s.req m).num 4 1 ≤ 31)) ∧
    (∃ (s : State) (m k : Nat), s.asks m 0x0804 = true ∧ s.gable.gstate = .running ∧ s.hasRole m roleC = true ∧ (s.req m).len = 12 ∧ (s.req m).zero 3 1 = true ∧ (s.req m).zero 5 1 = true ∧ (s.req m).zero 10 2 = true ∧ (s.req m).laneKey = k ∧ (s.req m).laneOk s = true ∧ (s.req m).num 4 1 ≤ 3 ∧ (s.req m).num 6 2 < 1024 ∧ (s.req m).num 8 2 < 1024 ∧ (BitVec.ofNat 2 ((s.req m).num 4 1) &&& ~~~ (s.laneset k).lpSel = 0 ∨ s.laneOnFlow k ((s.req m).num 4 1) = false) ∧ ((s.req m).num 4 1 = 0 ∨ ¬ (k = 144 ∧ (s.node 0x8F00).source.toNat = 1 ∨ k = 145 ∧ (s.node 0x8F00).source.toNat = 2))) ∧
    (∃ (s : State) (m k : Nat), s.asks m 0x0805 = true ∧ s.gable.gstate = .running ∧ s.hasRole m roleC = true ∧ (s.req m).len = 4 ∧ (s.req m).zero 3 1 = true ∧ (s.req m).laneKey = k ∧ (s.req m).laneOk s = true) :=
  ⟨⟨(asking running 0x0800 [1, 8, 0, 0]), 0, 144, by decide +kernel⟩,
   ⟨(asking (linkUp.modLaneset 0 fun x => { x with shutting := true }) 0x0800 [0, 0, 0, 0]), 0, 0, by decide +kernel⟩,
   ⟨(asking linkUp 0x0801 [0, 0, 0, 0]), 0, 0, by decide +kernel⟩,
   ⟨(asking (running.modLaneset 144 fun x => { x with state := .lock }) 0x0801 [1, 8, 0, 0]), 0, 144, by decide +kernel⟩,
   ⟨(asking running 0x0802 [1, 8, 0, 0, 3, 0, 2, 0]), 0, 144, by decide +kernel⟩,
   ⟨(asking linkUp 0x0803 [0, 0, 0, 3, 0xFF, 0, 0, 0]), 0, 0, 3, by decide +kernel⟩,
   ⟨(asking linkUp 0x0804 [0, 0, 0, 0, 3, 0, 5, 0, 9, 0, 0, 0]), 0, 0, by decide +kernel⟩,
   ⟨(asking linkUp 0x0805 [0, 0, 0, 0]), 0, 0, by decide +kernel⟩⟩

theorem witness_laneBringUp :
    (∃ (s : State) (k : Nat), s.hasKey k = true ∧ (s.laneset k).pllWait = true) ∧
    (∃ (s : State) (k : Nat) (found : List Nat), s.hasKey k = true ∧ laneKind k ≠ 2 ∧ (s.laneset k).state = .detect ∧ (s.laneset k).pulseAt.all (fun p => decide (p + 100 * psUs ≤ s.now)) = true ∧ enoughLanes k ((List.range (laneCount k)).filter found.contains).length = true) ∧
    (∃ (s : State) (k : Nat) (found : List Nat), s.hasKey k = true ∧ laneKind k ≠ 2 ∧ (s.laneset k).state = .detect ∧ (s.laneset k).pulseAt.all (fun p => decide (p + 100 * psUs ≤ s.now)) = true ∧ enoughLanes k ((List.range (laneCount k)).filter found.contains).length = false) ∧
    (∃ (s : State) (k : Nat), s.hasKey k = true ∧ (s.laneset k).state = .train ∧ (s.laneset k).since + trainPs k ≤ s.now) ∧
    (∃ (s : State) (k n skew : Nat) (gs : Option (List (BitVec 10))) (y : List (BitVec 8)) (b : Bool), s.hasKey k = true ∧ laneKind k ≠ 2 ∧ n < laneCount k ∧ (s.rxLanes k).contains n = true ∧ (s.receivedSet k n gs).map (·.2) = some (some y) ∧ setGood y = true ∧ (s.laneset k).state = .train ∧ ((y.getD 1 0).toNat = setTsa ∨ (y.getD 1 0).toNat = setTsb)) ∧
    (∃ (s : State) (k n skew : Nat) (gs : Option (List (BitVec 10))) (y : List (BitVec 8)) (b : Bool), s.hasKey k = true ∧ laneKind k ≠ 2 ∧ n < laneCount k ∧ (s.rxLanes k).contains n = true ∧ (s.receivedSet k n gs).map (·.2) = some (some y) ∧ setGood y = true ∧ (s.laneset k).state = .caps ∧ (s.laneset k).cakGot < 8 ∧ (y.getD 1 0).toNat = setCap ∧ [(y.getD 6 0).toNat, (y.getD 7 0).toNat, (y.getD 8 0).toNat] = (if laneKind k = 1 then [8, 0, 160] else [40, 2, 240]) ∧ (y.getD 5 0).toNat = s.roleAt k) ∧
    (∃ (s : State) (k n skew : Nat) (gs : Option (List (BitVec 10))) (y : List (BitVec 8)) (b : Bool), s.hasKey k = true ∧ laneKind k ≠ 2 ∧ n < laneCount k ∧ (s.rxLanes k).contains n = true ∧ (s.receivedSet k n gs).map (·.2) = some (some y) ∧ setGood y = true ∧ (s.laneset k).state = .caps ∧ (s.laneset k).shutting = false ∧ (y.getD 1 0).toNat = setCap ∧ (y.getD 5 0).toNat ≠ s.roleAt k) ∧
    (∃ (s : State) (k c : Nat), s.hasKey k = true ∧ s.laneOverdue k = some c ∧ (s.laneset k).shutting = false ∧ ((s.laneset k).state ≠ .active ∨ (s.link k).encrypted = false)) ∧
    (∃ (s : State) (k : Nat), s.hasKey k = true ∧ (s.laneset k).state = .fault ∧ s.mayRestart (s.laneset k) = true) ∧
    (∃ (s : State) (k n : Nat) (inverted : Bool), s.hasKey k = true ∧ laneKind k = 2 ∧ (s.laneset k).state = .lock ∧ ((s.laneset k).used k).contains n = true ∧ ((s.laneset k).lane n).flag fAligned = false ∧ ∀ i ∈ (s.laneset k).used k, i = n ∨ ((s.laneset k).lane i).flag fAligned = true) :=
  ⟨⟨(running.modLaneset 144 fun x => { x with pllWait := true }), 144, by decide +kernel⟩,
   ⟨(running.modLaneset 144 fun x => { x with state := .detect }), 144, [0, 1, 2, 3, 4, 5, 6, 7], by decide +kernel⟩,
   ⟨(running.modLaneset 144 fun x => { x with state := .detect }), 144, [0, 1, 2, 3, 4, 5, 6], by decide +kernel⟩,
   ⟨((running.modLaneset 144 fun x => { x with state := .train }).setNow 1000000000), 144, by decide +kernel⟩,
   ⟨(portLanes .train), 144, 2, 0, setGroups (goodSet [0x5A, 2, 0, 5, 0, 0, 0, 0, 0, 0, 0, 0, 0, 0]), goodSet [0x5A, 2, 0, 5, 0, 0, 0, 0, 0, 0, 0, 0, 0, 0], true, by decide +kernel⟩,
   ⟨(portLanes .caps), 144, 2, 0, setGroups (goodSet [0x3C, 2, 0, 0, 3, 8, 0, 160, 3, 2, 0, 0, 0, 0]), goodSet [0x3C, 2, 0, 0, 3, 8, 0, 160, 3, 2, 0, 0, 0, 0], true, by decide +kernel⟩,
   ⟨(portLanes .caps), 144, 2, 0, setGroups (goodSet [0x3C, 2, 0, 0, 1, 8, 0, 160, 3, 2, 0, 0, 0, 0]), goodSet [0x3C, 2, 0, 0, 1, 8, 0, 160, 3, 2, 0, 0, 0, 0], true, by decide +kernel⟩,
   ⟨((portLanes .caps).setNow 1000000000000), 144, 3, by decide +kernel⟩,
   ⟨((portLanes .fault).setNow 1000000000000), 144, by decide +kernel⟩,
   ⟨(running.modLaneset 256 fun x => { x with state := .lock, lanes := [(1, { unused := true }), (2, { unused := true }), (3, { unused := true })] }), 256, 0, true, by decide +kernel⟩⟩

theorem witness_laneErrorsAndTests :
    (∃ (s : State) (k n sym : Nat), s.hasKey k = true ∧ (s.laneset k).laneActive k n = true ∧ n < laneCount k ∧ (s.laneset k).lp2 = false ∧ (((s.laneset k).lane n).errAt.filter fun t => decide (s.now < t + psUs)).length < 15) ∧
    (∃ (s : State) (k n sym : Nat), s.hasKey k = true ∧ laneKind k ≠ 0 ∧ (s.laneset k).laneActive k n = true ∧ n < laneCount k ∧ (s.laneset k).lp2 = false ∧ 15 ≤ (((s.laneset k).lane n).errAt.filter fun t => decide (s.now < t + psUs)).length) ∧
    (∃ (s : State) (k n sym : Nat), s.hasKey k = true ∧ laneKind k = 0 ∧ (s.laneset k).laneActive k n = true ∧ n < laneCount k ∧ (s.laneset k).lp2 = false ∧ ((s.laneset k).lane n).lost = false ∧ (carries (s.link k).rxMap n).isSome = true ∧ (s.link k).repairing = [] ∧ (s.freeSpare k).isSome = true ∧ 15 ≤ (((s.laneset k).lane n).errAt.filter fun t => decide (s.now < t + psUs)).length) ∧
    (∃ (s : State) (k n d : Nat), s.hasKey k = true ∧ n < laneCount k ∧ ((s.laneset k).lane n).flag fAligned = true ∧ ((s.laneset k).state = .lock ∨ (s.laneset k).state = .caps ∨ (s.laneset k).state = .active) ∧ d ≤ 3) ∧
    (∃ (s : State) (k n d : Nat), s.hasKey k = true ∧ n < laneCount k ∧ ((s.laneset k).lane n).flag fAligned = true ∧ ((s.laneset k).state = .lock ∨ (s.laneset k).state = .caps ∨ (s.laneset k).state = .active) ∧ 4 ≤ d) ∧
    (∃ (s : State) (k : Nat), s.hasKey k = true ∧ (s.laneset k).state = .active ∧ (s.link k).repairing ≠ [] ∧ (s.link k).rprAt + 600000 ≤ s.now ∧ (s.link k).rprTry < 3 ∧ (s.freeSpare k).isSome = true) ∧
    (∃ (s : State) (k : Nat), s.hasKey k = true ∧ (s.laneset k).state = .active ∧ (s.link k).repairing ≠ [] ∧ (s.link k).rprAt + 600000 ≤ s.now ∧ (3 ≤ (s.link k).rprTry ∨ s.freeSpare k = none)) ∧
    (∃ (s : State) (k n : Nat), s.hasKey k = true ∧ (s.laneset k).mayInject = true ∧ ((s.laneset k).lane n).injN ≠ 0 ∧ ((s.laneset k).lane n).injAt + (s.laneset k).psOfBits k (2 ^ ((s.laneset k).lane n).injN.toNat) ≤ s.now) ∧
    (∃ (s : State) (k n : Nat) (on : Bool), s.hasKey k = true ∧ laneKind k = 2 ∧ n < laneCount k) ∧
    (∃ (s : State) (k n : Nat) (bits : Option (List Bool)), s.checking k n = true ∧ ((s.laneset k).lane n).flag fPrbsLock = false ∧ prbsFollows (s.laneset k).pattern.toNat (s.laneset k).inv 64 (s.prbsHeard k n bits) = true) ∧
    (∃ (s : State) (k n : Nat) (wrong : BitVec 64), s.checking k n = true ∧ ((s.laneset k).lane n).flag fPrbsLock = true ∧ 32 ≤ onesOf 64 wrong.toNat) ∧
    (∃ (s : State) (k n : Nat) (wrong : BitVec 64), s.checking k n = true ∧ ((s.laneset k).lane n).flag fPrbsLock = true ∧ onesOf 64 wrong.toNat < 32) :=
  ⟨⟨(portLanes .active), 144, 3, 0, by decide +kernel⟩,
   ⟨((portLanes .active).modLane 144 3 fun l => { l with errAt := List.replicate 15 0 }), 144, 3, 0, by decide +kernel⟩,
   ⟨(spareLink.modLane 0 3 fun l => { l with errAt := List.replicate 15 0 }), 0, 3, 0, by decide +kernel⟩,
   ⟨((portLanes .active).modLane 144 3 fun l => l.setFlag fAligned true), 144, 3, 3, by decide +kernel⟩,
   ⟨((portLanes .active).modLane 144 3 fun l => l.setFlag fAligned true), 144, 3, 4, by decide +kernel⟩,
   ⟨((spareLink.modLink 0 fun e => { e with repairing := [5], rprTry := 1 }).setNow 600000), 0, by decide +kernel⟩,
   ⟨((spareLink.modLink 0 fun e => { e with repairing := [5], rprTry := 3 }).setNow 600000), 0, by decide +kernel⟩,
   ⟨((linkUp.modLane 0 3 fun l => { l with injN := 12 }).setNow 1000000), 0, 3, by decide +kernel⟩,
   ⟨(running.modLaneset 256 fun x => { x with state := .active, lanes := [(0, { status := 0x8000 })] }), 256, 0, true, by decide +kernel⟩,
   ⟨(running.modLaneset 144 fun x => { x with test := true, pattern := 3 }), 144, 1, some (prbsBits 3 false (List.replicate 15 true) 79), by decide +kernel⟩,
   ⟨(running.modLaneset 144 fun x => { x with test := true, pattern := 3, lanes := [(1, { status := 0x10000 })] }), 144, 1, 0xFFFFFFFF, by decide +kernel⟩,
   ⟨(running.modLaneset 144 fun x => { x with test := true, pattern := 3, lanes := [(1, { status := 0x10000 })] }), 144, 1, 0x7FFFFFFF, by decide +kernel⟩⟩

theorem witness_laneLowPower :
    (∃ (s : State) (k : Nat), s.hasKey k = true ∧ laneKind k ≠ 2 ∧ (s.laneset k).state = .active ∧ (s.laneset k).shutting = false ∧ (s.laneset k).lpRes.getLsbD 0 = true ∧ (s.laneset k).lp1Idle ≠ 0 ∧ (s.laneset k).txLp1 = false ∧ (s.laneset k).lp2 = false ∧ (s.laneset k).lqrSent = false ∧ s.idleFor k ((s.laneset k).lp1Idle.toNat * 10000) = true ∧ s.lpFree k = true) ∧
    (∃ (s : State) (k : Nat), s.hasKey k = true ∧ (s.laneset k).state = .active ∧ (s.laneset k).txLp1 = true ∧ s.partner k ≠ some k) ∧
    (∃ (s : State) (k j n : Nat) (missed : List Nat), s.hasKey k = true ∧ (s.laneset k).state = .active ∧ (s.laneset k).txLp1 = true ∧ s.partner k = some j ∧ j ≠ k ∧ (s.laneset j).state = .active ∧ n < laneCount j ∧ missed.contains n = true) ∧
    (∃ (s : State) (k : Nat), s.hasKey k = true ∧ laneKind k ≠ 2 ∧ (s.laneset k).state = .active ∧ (s.laneset k).shutting = false ∧ (s.laneset k).lpRes.getLsbD 1 = true ∧ (s.laneset k).lp2Idle ≠ 0 ∧ (s.laneset k).lp2 = false ∧ (s.laneset k).lqrSent = false ∧ s.lp2Initiator k = true ∧ s.bothIdle k ((s.laneset k).lp2Idle.toNat * psUs) = true ∧ s.lpFree k = true) ∧
    (∃ (s : State) (k : Nat), s.hasKey k = true ∧ (s.laneset k).state = .active ∧ (s.laneset k).lp2 = true ∧ (s.laneset k).lp2Exit = none) ∧
    (∃ (s : State) (k : Nat), s.hasKey k = true ∧ (s.laneset k).state = .active ∧ (s.laneset k).lqrSent = true ∧ (s.laneset k).lp2 = false ∧ (s.laneset k).lp2Exit = none) ∧
    (∃ (s : State) (k n skew : Nat) (gs : Option (List (BitVec 10))) (y : List (BitVec 8)) (b : Bool), s.hasKey k = true ∧ laneKind k ≠ 2 ∧ n < laneCount k ∧ (s.rxLanes k).contains n = true ∧ (s.receivedSet k n gs).map (·.2) = some (some y) ∧ setGood y = true ∧ (s.laneset k).state = .active ∧ (s.laneset k).lp2 = false ∧ (y.getD 1 0).toNat = setEia) ∧
    (∃ (s : State) (k n skew : Nat) (j : Nat) (gs : Option (List (BitVec 10))) (y : List (BitVec 8)) (b : Bool), s.hasKey k = true ∧ laneKind k ≠ 2 ∧ n < laneCount k ∧ (s.rxLanes k).contains n = true ∧ (s.receivedSet k n gs).map (·.2) = some (some y) ∧ setGood y = true ∧ s.partner k = some j ∧ (s.laneset k).state = .active ∧ (s.laneset k).lp2 = false ∧ (y.getD 1 0).toNat = setLqn) :=
  ⟨⟨(lpLink.setNow 1000000000000), 0, by decide +kernel⟩,
   ⟨(lpLink.modLaneset 0 fun x => { x with txLp1 := true }), 0, by decide +kernel⟩,
   ⟨(lpLink.modLaneset 0 fun x => { x with txLp1 := true }), 0, ((running.partner 0).getD 0), 7, [7, 9], by decide +kernel⟩,
   ⟨(lpLink.setNow 1000000000000), 0, by decide +kernel⟩,
   ⟨(lpLink.modLaneset 0 fun x => { x with lp2 := true }), 0, by decide +kernel⟩,
   ⟨(lpLink.modLaneset 0 fun x => { x with lqrSent := true }), 0, by decide +kernel⟩,
   ⟨(portLanes .active), 144, 2, 0, setGroups (goodSet [0x96, 2, 0, 0, 0, 0, 0, 0, 0, 0, 0, 0, 0, 0]), goodSet [0x96, 2, 0, 0, 0, 0, 0, 0, 0, 0, 0, 0, 0, 0], true, by decide +kernel⟩,
   ⟨(((lpLink.modLaneset 0 fun x => { x with lqrSent := true }).modLane ((running.partner 0).getD 0) 0 fun l => { l with detected := true }).sendFour ((running.partner 0).getD 0) setLqn), 0, 0, 0, ((running.partner 0).getD 0), none, setSyms setLqn 0 0 [], true, by decide +kernel⟩⟩

theorem witness_linkFramesSent :
    (∃ (s : State) (k : Nat), s.hasKey k = true ∧ laneKind k ≠ 2 ∧ (s.laneset k).sends = true ∧ s.inside k = true ∧ (s.link k).answers = [] ∧ (s.link k).nakDue = true) ∧
    (∃ (s : State) (k : Nat) (f : Frame) (rest : List Frame), s.hasKey k = true ∧ laneKind k ≠ 2 ∧ (s.laneset k).sends = true ∧ s.inside k = true ∧ (s.link k).answers = [] ∧ (s.link k).nakDue = false ∧ (s.link k).replayQ = [] ∧ (s.link k).encrypted = false ∧ (s.link k).lmsgDue = [] ∧ (s.link k).outq = f :: rest ∧ (s.link k).held.length < 256) ∧
    (∃ (s : State) (k : Nat), s.hasKey k = true ∧ laneKind k ≠ 2 ∧ (s.laneset k).sends = true ∧ s.inside k = true ∧ (s.link k).answers = [] ∧ (s.link k).nakDue = false ∧ (s.link k).replayQ = [] ∧ (s.link k).encrypted = false ∧ (s.link k).lmsgDue = [] ∧ (s.link k).outq = [] ∧ (s.link k).creditsOut.2 = 0 ∧ (s.link k).tagGroupTx = []) ∧
    (∃ (s : State) (k : Nat), s.linkUp k = true ∧ (s.link k).nakOut = true ∧ (s.link k).nakAt + nakTmo k ≤ s.now) ∧
    (∃ (s : State) (k : Nat), s.linkUp k = true ∧ (s.link k).held ≠ [] ∧ (s.link k).heldAt + replayTmo k ≤ s.now ∧ (s.link k).replayRun < 7) ∧
    (∃ (s : State) (k : Nat), s.linkUp k = true ∧ (s.link k).held ≠ [] ∧ (s.link k).heldAt + replayTmo k ≤ s.now ∧ 7 ≤ (s.link k).replayRun) ∧
    (∃ (s : State) (k v : Nat), s.linkUp k = true ∧ s.inside k = false ∧ v < 8 ∧ tget 0 (s.link k).stallAt v ≠ 0 ∧ s.stalled k v = true ∧ tget 0 (s.link k).stallAt v - 1 + 100 * psUs ≤ s.now) :=
  ⟨⟨(linkUp.modLink 0 fun e => { e with nakDue := true }), 0, by decide +kernel⟩,
   ⟨(linkUp.modLink 0 fun e => { e with outq := [{ ftype := 1, head := some pk }] }), 0, { ftype := 1, head := some pk }, [], by decide +kernel⟩,
   ⟨linkUp, 0, by decide +kernel⟩,
   ⟨((linkUp.modLink 0 fun e => { e with nakOut := true }).setNow 1000000), 0, by decide +kernel⟩,
   ⟨((linkUp.modLink 0 fun e => { e with held := [{ ftype := 2 }] }).setNow 1000000), 0, by decide +kernel⟩,
   ⟨((linkUp.modLink 0 fun e => { e with held := [{ ftype := 2 }], replayRun := 7 }).setNow 1000000), 0, by decide +kernel⟩,
   ⟨(((portLanes .active).modLink 144 fun e => { e with answers := [pk], spent := [(0, 64)], stallAt := [(0, 1)] }).setNow 100000000), 144, 0, by decide +kernel⟩⟩

theorem witness_linkFramesReceived :
    (∃ (s : State) (k j : Nat) (f : Frame) (rest : List Frame), s.hasKey k = true ∧ laneKind k ≠ 2 ∧ (s.laneset k).state = .active ∧ (s.laneset k).rxLp1 = false ∧ (s.laneset k).lp2 = false ∧ s.partner k = some j ∧ j ≠ k ∧ (s.link j).wire = f :: rest ∧ seqType f.ftype.toNat = true ∧ (s.link k).symBad = true) ∧
    (∃ (s : State) (k j : Nat) (f : Frame) (rest : List Frame), s.hasKey k = true ∧ laneKind k ≠ 2 ∧ (s.laneset k).state = .active ∧ (s.laneset k).rxLp1 = false ∧ (s.laneset k).lp2 = false ∧ s.partner k = some j ∧ j ≠ k ∧ (s.link j).wire = f :: rest ∧ (s.link k).symBad = false ∧ f.ftype = 2 ∧ f.seq = (s.link k).expSeq ∧ (s.link k).encrypted = false ∧ f.ccnt.toNat ≤ tget 0 (s.link k).spent f.cvc.toNat) ∧
    (∃ (s : State) (k j : Nat) (f : Frame) (rest : List Frame), s.hasKey k = true ∧ laneKind k ≠ 2 ∧ (s.laneset k).state = .active ∧ (s.laneset k).rxLp1 = false ∧ (s.laneset k).lp2 = false ∧ s.partner k = some j ∧ j ≠ k ∧ (s.link j).wire = f :: rest ∧ (s.link k).symBad = false ∧ seqType f.ftype.toNat = true ∧ f.seq ≠ (s.link k).expSeq ∧ ((s.link k).expSeq - f.seq).toNat ≤ 256) ∧
    (∃ (s : State) (k : Nat) (gs : List (List (BitVec 10))) (bs : List (BitVec 8)), s.hasKey k = true ∧ laneKind k ≠ 2 ∧ (s.laneset k).state = .active ∧ (s.laneset k).rxLp1 = false ∧ (s.laneset k).lp2 = false ∧ s.partner k = none ∧ (s.rxBytes k gs).2 = some bs ∧ ((s.rxBytes k gs).1.laneset k).state = .active ∧ ((s.rxBytes k gs).1.link k).symBad = false ∧ frameOk bs (readFrame bs) ((s.rxBytes k gs).1.link k).encrypted = true ∧ (readFrame bs).ftype = 0) ∧
    (∃ (s : State) (k : Nat) (gs : List (List (BitVec 10))) (bs : List (BitVec 8)), s.hasKey k = true ∧ laneKind k ≠ 2 ∧ (s.laneset k).state = .active ∧ (s.laneset k).rxLp1 = false ∧ (s.laneset k).lp2 = false ∧ s.partner k = none ∧ (s.rxBytes k gs).2 = some bs ∧ ((s.rxBytes k gs).1.laneset k).state = .active ∧ ((s.rxBytes k gs).1.link k).symBad = false ∧ crc32c (bytesAt bs 0 76) ≠ BitVec.ofNat 32 (numAt bs 76 4)) ∧
    (∃ (s : State) (k : Nat) (gs : List (List (BitVec 10))), s.hasKey k = true ∧ laneKind k ≠ 2 ∧ (s.laneset k).state = .active ∧ (s.laneset k).rxLp1 = false ∧ (s.laneset k).lp2 = false ∧ s.partner k = none ∧ (s.rxBytes k gs).2 = none ∧ ((s.rxBytes k gs).1.laneset k).state = .active) :=
  ⟨⟨((linkUp.modLink ((running.partner 0).getD 0) fun e => { e with wire := [{ ftype := 2, ccnt := 3 }] }).modLink 0 fun e => { e with symBad := true }), 0, (running.partner 0).getD 0, { ftype := 2, ccnt := 3 }, [], by decide +kernel⟩,
   ⟨((linkUp.modLink ((running.partner 0).getD 0) fun e => { e with wire := [{ ftype := 2, ccnt := 3 }] }).modLink 0 fun e => { e with spent := [(0, 9)] }), 0, (running.partner 0).getD 0, { ftype := 2, ccnt := 3 }, [], by decide +kernel⟩,
   ⟨(linkUp.modLink ((running.partner 0).getD 0) fun e => { e with wire := [{ ftype := 2, ccnt := 3, seq := 1023 }] }), 0, (running.partner 0).getD 0, { ftype := 2, ccnt := 3, seq := 1023 }, [], by decide +kernel⟩,
   ⟨alignedPort, 144, laneGroups 8 (wireBytes (List.replicate 72 0) { ftype := 0 }), wireBytes (List.replicate 72 0) { ftype := 0 }, by decide +kernel⟩,
   ⟨alignedPort, 144, laneGroups 8 (List.replicate 80 0), List.replicate 80 0, by decide +kernel⟩,
   ⟨alignedPort, 144, [], by decide +kernel⟩⟩

theorem witness_linkTimeAndShutdown :
    (∃ (s : State) (k : Nat), s.linkUp k = true ∧ laneKind k = 0 ∧ (s.laneset k).sends = true ∧ (s.guestOf k = none ∨ (s.laneset k).feat.getLsbD 0 = true) ∧ (s.link k).tosSentUs ≠ psOfCtr (s.time (laneDie k)).ctr / psUs) ∧
    (∃ (s : State) (k : Nat), s.linkUp k = true ∧ laneKind k = 0 ∧ (1024 ≤ (s.link k).tosCount ∨ 1 ≤ (s.link k).tosCount ∧ (s.laneset k).since + 1100 * psUs ≤ s.now) ∧ (s.link k).delayValid = false) ∧
    (∃ (s : State) (k : Nat), s.linkUp k = true ∧ (s.laneset k).shutting = true ∧ (s.link k).downSent = none ∧ (s.link k).drained = true) ∧
    (∃ (s : State) (k : Nat) (b : List (BitVec 8)) (rest : List (List (BitVec 8))), s.hasKey k = true ∧ laneKind k ≠ 2 ∧ (s.laneset k).sends = true ∧ s.inside k = true ∧ (s.link k).answers = [] ∧ (s.link k).nakDue = false ∧ (s.link k).replayQ = [] ∧ (s.link k).encrypted = false ∧ (s.link k).lmsgDue = b :: rest ∧ b.head? = some 3 ∧ (s.link k).gcapBad = false ∧ (s.link k).held.length < 256) ∧
    (∃ (s : State) (k e : Nat), s.linkUp k = true ∧ (s.laneset k).shutting = true ∧ (s.link k).downSent = some e ∧ (s.link k).lmsgDue = [] ∧ ((s.link k).downGot = true ∨ e + 10 * psUs ≤ s.now)) ∧
    (∃ (s : State) (k : Nat), s.linkUp k = true ∧ (s.laneset k).shutting = true ∧ (s.link k).downSent = none ∧ ((s.link k).lmsgDue.any fun b => b.head? == some 3) = false ∧ (s.link k).drainAt + 100 * psUs ≤ s.now) ∧
    (∃ (s : State) (w : Who) (k : Nat), s.reaches w (linkAddr k 0x008) true = true) ∧
    (∃ (s : State) (w : Who) (k : Nat), s.reaches w (linkAddr k 0x008) true = true) :=
  ⟨⟨(linkUp.modTime 0 fun t => { t with ctr := 2 ^ 80 }), 0, by decide +kernel⟩,
   ⟨(linkUp.modLink 0 fun e => { e with tosCount := 1024 }), 0, by decide +kernel⟩,
   ⟨(linkUp.modLaneset 0 fun x => { x with shutting := true }), 0, by decide +kernel⟩,
   ⟨(linkUp.modLink 0 fun e => { e with lmsgDue := [[3, 0]] }), 0, [3, 0], [], by decide +kernel⟩,
   ⟨((linkUp.modLaneset 0 fun x => { x with shutting := true }).modLink 0 fun e => { e with downSent := some 0, downGot := true }), 0, 0, by decide +kernel⟩,
   ⟨(((linkUp.modLaneset 0 fun x => { x with shutting := true }).modLink 0 fun e => { e with outq := [{ ftype := 1 }] }).setNow 1000000000), 0, by decide +kernel⟩,
   ⟨linkUp, who0, 0, by decide +kernel⟩,
   ⟨(linkUp.modLink 0 fun e => { e with crcErr := 3, txFrames := 9 }), who0, 0, by decide +kernel⟩⟩

theorem witness_guestsAndHosts :
    (∃ (s : State) (k g : Nat) (b : List (BitVec 8)), s.guestOf k = some g ∧ s.hasKey k = true ∧ (s.laneset k).state = .active ∧ s.gcapStatus k g (bytesAt b 0 72) = 0 ∧ ((s.link k).guestOk = true ∨ ∀ v ∈ List.range 8, 64 - tget 0 (s.link k).spent v ≤ (gcapOf (bytesAt b 0 72)).rxDepth.getD v 0)) ∧
    (∃ (s : State) (k g : Nat) (b : List (BitVec 8)), s.guestOf k = some g ∧ s.hasKey k = true ∧ (s.laneset k).state = .active ∧ s.gcapStatus k g (bytesAt b 0 72) ≠ 0) ∧
    (∃ (s : State) (k : Nat), (s.guestOf k).isSome = true ∧ s.hasKey k = true ∧ (s.laneset k).state = .active ∧ (s.link k).guestOk = false ∧ (s.link k).activeAt + psMs ≤ s.now) ∧
    (∃ (s : State) (k g : Nat) (h : BitVec 512) (data : List (BitVec 8)) (p : Bool), s.guestOf k = some g ∧ (s.laneset k).state = .active ∧ (s.link k).guestOk = false) ∧
    (∃ (s : State) (k g : Nat) (h : BitVec 512) (data : List (BitVec 8)) (p : Bool), s.guestOf k = some g ∧ (s.laneset k).state = .active ∧ (s.link k).guestOk = true ∧ classOfNum (bitsOf h.toNat 28 2) = .req ∧ (s.guest g).cap.holds (pktOfHeader h.toNat).src = false) ∧
    (∃ (s : State) (k g node l e : Nat) (h : BitVec 512) (data : List (BitVec 8)) (p : Bool) (a : Target), s.guestOf k = some g ∧ (s.laneset k).state = .active ∧ (s.link k).guestOk = true ∧ classOfNum (bitsOf h.toNat 28 2) = .req ∧ (s.guest g).cap.holds (pktOfHeader h.toNat).src = true ∧ headerOk h.toNat = true ∧ ((s.guest g).fromGuest.filter fun o => !o.orphan).length < (s.guest g).cap.maxOut ∧ (((s.guest g).fromGuest.zip (s.guest g).fromSrc).any fun x => x.1.tag == (pktOfHeader h.toNat).tag && x.2 == (pktOfHeader h.toNat).src) = false ∧ s.decode (pktOfHeader h.toNat).addr.toNat = some (a, e) ∧ s.sameExtent (pktOfHeader h.toNat).addr.toNat (pktOfHeader h.toNat).len.toNat = true ∧ s.flowOf (pktOfHeader h.toNat).src .req (pktOfHeader h.toNat).addr.toNat (pktOfHeader h.toNat).len.toNat = none ∧ siteOfKey k = some (node, l)) ∧
    (∃ (s : State) (i : Nat) (h : BitVec 512) (data : List (BitVec 8)) (p : Bool), i < 2 ∧ (s.laneset (144 + i)).state = .active ∧ (classOfNum (bitsOf h.toNat 28 2) = .req) ∧ headerOk h.toNat = false) ∧
    (∃ (s : State) (i : Nat) (h : BitVec 512) (data : List (BitVec 8)) (p : Bool) (tag : BitVec 10), i < 2 ∧ (s.laneset (144 + i)).state = .active ∧ (classOfNum (bitsOf h.toNat 28 2) = .req) ∧ headerOk h.toNat = true ∧ (s.master (hostMid i)).out.length < 256 ∧ ((s.master (hostMid i)).out.any fun o => o.hostTag == (pktOfHeader h.toNat).tag && !o.orphan) = false ∧ (s.master (hostMid i)).freeTag = some tag ∧ s.decode (pktOfHeader h.toNat).addr.toNat = none) ∧
    (∃ (s : State) (i e node r n : Nat) (h : BitVec 512) (data : List (BitVec 8)) (p : Bool) (tag : BitVec 10) (a : Target), i < 2 ∧ (s.laneset (144 + i)).state = .active ∧ (classOfNum (bitsOf h.toNat 28 2) = .req) ∧ headerOk h.toNat = true ∧ (pktOfHeader h.toNat).ord = false ∧ (s.master (hostMid i)).out.length < 256 ∧ ((s.master (hostMid i)).out.any fun o => o.hostTag == (pktOfHeader h.toNat).tag && !o.orphan) = false ∧ (s.master (hostMid i)).freeTag = some tag ∧ s.decode (pktOfHeader h.toNat).addr.toNat = some (a, e) ∧ s.sameExtent (pktOfHeader h.toNat).addr.toNat (pktOfHeader h.toNat).len.toNat = true ∧ s.flowOf (hostMid i) .req (pktOfHeader h.toNat).addr.toNat (pktOfHeader h.toNat).len.toNat = none ∧ s.portOfDest (destOfSrc (hostMid i)) = some (node, r, n)) ∧
    (∃ (s : State) (g : Nat), g < s.fuses.part.sites) :=
  ⟨⟨(guestLink false), 32, 0, gcapMsg 1, by decide +kernel⟩,
   ⟨(guestLink false), 32, 0, gcapMsg 2, by decide +kernel⟩,
   ⟨((guestLink false).setNow 10000000000), 32, by decide +kernel⟩,
   ⟨(guestLink false), 32, 0, 0, [], false, by decide +kernel⟩,
   ⟨(guestLink true), 32, 0, 0, [], false, by decide +kernel⟩,
   ⟨(guestLink true), 32, 0, 2, 0, 0xF000000FFFFF, guestHdr, [], false, .hub 0, by decide +kernel⟩,
   ⟨(portLanes .active), 0, 0x2000000000000000, [], false, by decide +kernel⟩,
   ⟨(portLanes .active), 0, hostHdr, [], false, 0, by decide +kernel⟩,
   ⟨(portLanes .active), 0, 0xF000000FFFFF, 8, 15, 6, hostHdr2, [], false, 0, .hub 0, by decide +kernel⟩,
   ⟨(((guestLink true).modGuest 0 fun x => { x with fromGuest := [{ tag := 1, dest := 0, opc := 0, addr := 0, len := 0, atPs := 0, orphan := true }], fromSrc := [0xC00] }).setNow 10000000000), 0, by decide +kernel⟩⟩

theorem witness_timeCommands :
    (∃ (s : State) (m : Nat), s.asks m 0x0500 = true ∧ s.gable.gstate = .running ∧ (s.req m).len = 0) ∧
    (∃ (s : State) (m d : Nat), s.asks m 0x0504 = true ∧ s.gable.gstate = .running ∧ (s.req m).len = 4 ∧ (s.req m).num 0 1 = d ∧ d < s.fdies ∧ (s.req m).zero 1 3 = true) ∧
    (∃ (s : State) (m : Nat), s.asks m 0x0502 = true ∧ s.gable.gstate = .running ∧ s.hasRole m roleM = true ∧ (s.req m).len = 8 ∧ (s.req m).num 0 1 < 3 ∧ (s.req m).num 1 1 < 2 ∧ ((s.req m).num 2 1 = 0 ∨ (s.req m).num 2 1 = 8) ∧ (s.req m).zero 3 1 = true) ∧
    (∃ (s : State) (m : Nat), s.asks m 0x0501 = true ∧ s.gable.gstate = .running ∧ s.hasRole m roleM = true ∧ (s.req m).len = 16 ∧ (s.req m).zero 4 4 = true ∧ (s.req m).num 8 8 < 2 ^ 48 ∧ s.tb.src = 1) ∧
    (∃ (s : State) (m : Nat), s.asks m 0x0501 = true ∧ s.gable.gstate = .running ∧ s.hasRole m roleM = true ∧ (s.req m).len = 16 ∧ (s.req m).zero 4 4 = true ∧ (s.req m).num 8 8 < 2 ^ 48 ∧ s.tb.src ≠ 1) ∧
    (∃ (s : State) (m : Nat), s.asks m 0x0503 = true ∧ s.gable.gstate = .running ∧ s.hasRole m roleM = true ∧ (s.req m).len = 4 ∧ -200000 ≤ (s.req m).ppb ∧ (s.req m).ppb ≤ 200000 ∧ s.tb.src = 0) ∧
    (∃ (s : State) (p : PendTime) (rest : List PendTime) (v : Int), s.tb.pend = p :: rest ∧ p.applyAt ≤ s.ps 8 ∧ v = (match p.setTo with | some c => Int.ofNat c - Int.ofNat (ctrOfPs p.applyAt) | none => p.stepBy)) ∧
    (∃ (s : State) (m d n : Nat), s.asks m 0x0505 = true ∧ s.gable.gstate = .running ∧ s.hasRole m roleM = true ∧ (s.req m).len = 8 ∧ (s.req m).num 0 1 = d ∧ (s.req m).num 1 1 = n ∧ (d < s.fdies ∨ d = 8) ∧ n < 8 ∧ (s.req m).zero 2 2 = true ∧ tpCfgOk d ((s.req m).num 4 4) = true ∧ (s.tpin d n).fifo = [] ∧ (s.tpin d n).sched = []) ∧
    (∃ (s : State) (m : Nat), s.asks m 0x0506 = true ∧ s.gable.gstate = .running ∧ s.hasRole m roleM = true ∧ (s.req m).num 0 1 ≤ 16 ∧ (s.req m).zero 1 1 = true ∧ (s.req m).len = 2 + 2 * (s.req m).num 0 1) :=
  ⟨⟨(asking running 0x0500 []), 0, by decide +kernel⟩,
   ⟨(asking running 0x0504 [1, 0, 0, 0]), 0, 1, by decide +kernel⟩,
   ⟨(asking running 0x0502 [1, 1, 0, 0, 0, 0, 0, 0]), 0, by decide +kernel⟩,
   ⟨(asking (running.modTb fun b => { b with src := 1 }) 0x0501 (leBytes 16 5)), 0, by decide +kernel⟩,
   ⟨(asking running 0x0501 (leBytes 16 5)), 0, by decide +kernel⟩,
   ⟨(asking running 0x0503 (leBytes 4 1000)), 0, by decide +kernel⟩,
   ⟨(running.modTb fun b => { b with pend := [{ applyAt := 0, stepBy := 2 ^ 80, setTo := none, rate := some 5, mbx := none }] }), { applyAt := 0, stepBy := 2 ^ 80, setTo := none, rate := some 5, mbx := none }, [], 2 ^ 80, by decide +kernel⟩,
   ⟨(asking running 0x0505 [8, 3, 0, 0, 5, 0, 0, 0]), 0, 8, 3, by decide +kernel⟩,
   ⟨(asking running 0x0506 [1, 0, 5, 0]), 0, by decide +kernel⟩⟩

theorem witness_timeSourcesAndAlignment :
    (∃ (s : State) (pin : Bool) (ps : Nat), s.tb.src ≠ 1 ∨ s.tb.ppsPin ≠ pin ∨ s.ppsSeen ps = false) ∧
    (∃ (s : State) (ps : Nat), s.tb.src = 1 ∧ s.ppsSeen ps = true ∧ s.tb.relock = false ∧ s.tb.firstPulse = true) ∧
    (∃ (s : State) (ps : Nat), s.tb.src = 1 ∧ s.ppsSeen ps = true ∧ s.tb.relock = false ∧ s.tb.firstPulse = false ∧ 10000000 < psecOf ps ∧ psecOf ps < 999990000000) ∧
    (∃ (s : State) (ps : Nat), s.tb.src = 1 ∧ s.ppsSeen ps = true ∧ s.tb.relock = false ∧ s.tb.firstPulse = false ∧ (psecOf ps ≤ 1000000 ∨ 999999000000 ≤ psecOf ps)) ∧
    (∃ (s : State), s.tb.src = 1 ∧ s.tb.mstate = .locked ∧ s.tb.lastAcc + 1500000000000 ≤ s.now) ∧
    (∃ (s : State) (hz c : Nat), s.tb.src = 2 ∧ (s.laneset s.timeLaneKey).state = .active ∧ (s.laneset s.timeLaneKey).rxLp1 = false ∧ (s.laneset s.timeLaneKey).lp2 = false ∧ s.tb.laneHz ≠ 0 ∧ (max (s.time 8).rate (s.laneRate hz) - min (s.time 8).rate (s.laneRate hz)) * 10000000 ≤ s.laneRate hz ∧ s.tb.cmpAt = some c ∧ c + 10 * psMs ≤ s.now) ∧
    (∃ (s : State) (hz : Nat), s.tb.src = 2 ∧ (s.laneset s.timeLaneKey).state = .active ∧ (s.laneset s.timeLaneKey).rxLp1 = false ∧ (s.laneset s.timeLaneKey).lp2 = false ∧ s.tb.laneHz ≠ 0 ∧ s.laneRate hz < (max (s.time 8).rate (s.laneRate hz) - min (s.time 8).rate (s.laneRate hz)) * 10000000) ∧
    (∃ (s : State) (d : BitVec 16) (n r p : Nat), s.tb.notifySec < secOfCtr (s.time 8).ctr ∧ s.tb.notify = [d] ∧ s.portOfDest (hubDest 3) = some (n, r, p)) ∧
    (∃ (s : State) (d : Nat), d < s.fdies ∧ (s.time d).mon.state = .measure ∧ (s.time d).mon.since + 2 * psMs ≤ s.now) ∧
    (∃ (s : State) (d l : Nat), d < s.fdies ∧ (s.time d).mon.state ≠ .off ∧ s.parentSite d = some l) ∧
    (∃ (s : State) (d : Nat), d < s.fdies ∧ (s.time d).mon.state ≠ .off ∧ s.parentSite d = none) :=
  ⟨⟨running, false, 7, by decide +kernel⟩,
   ⟨ppsState, 7, by decide +kernel⟩,
   ⟨((ppsState.modTb fun b => { b with firstPulse := false }).modTime 8 fun t => { t with ctr := ctrOfPs 10000001 }), 10000001, by decide +kernel⟩,
   ⟨((ppsState.modTb fun b => { b with firstPulse := false, accRun := 3 }).modTime 8 fun t => { t with ctr := ctrOfPs 999999000000 }), 999999000000, by decide +kernel⟩,
   ⟨((running.modTb fun b => { b with src := 1, mstate := .locked }).setNow 1500000000000), by decide +kernel⟩,
   ⟨(((portLanes .active).modTb fun b => { b with src := 2, laneHz := 1000, cmpAt := some 0 }).setNow 10000000000), 1000000, 0, by decide +kernel⟩,
   ⟨((portLanes .active).modTb fun b => { b with src := 2, laneHz := 1000, cmpAt := some 0 }), 1001000, by decide +kernel⟩,
   ⟨((running.modTb fun b => { b with notify := [0x0002] }).modTime 8 fun t => { t with ctr := 2 ^ 80 }), 2, 8, 8, 8, by decide +kernel⟩,
   ⟨((running.modTime 1 fun t => { t with mon := { t.mon with state := .measure } }).setNow 2000000000), 1, by decide +kernel⟩,
   ⟨(((linkUp.modLaneset 8 fun x => { x with state := .active }).modLink 8 fun e => { e with delayValid := true })), 0, 8, by decide +kernel⟩,
   ⟨running, 1, by decide +kernel⟩⟩

theorem witness_timingPins :
    (∃ (s : State) (d n ps : Nat) (rise : Bool), s.hasPin d n = true ∧ tpMode (s.tpin d n).cfg = 1 ∧ tpEdge (s.tpin d n).cfg rise = true ∧ (s.time d).stopped = false ∧ (∀ e ∈ (s.tpin d n).lastEdge, ps < e ∨ e + 2500 ≤ ps) ∧ (tpWin (s.tpin d n).cfg = false ∨ (s.tpin d n).winOpen ≤ ps ∧ ps < (s.tpin d n).winClose) ∧ (s.tpin d n).fifo.length < 16) ∧
    (∃ (s : State) (d n ps : Nat) (rise : Bool), s.hasPin d n = true ∧ tpMode (s.tpin d n).cfg = 1 ∧ tpEdge (s.tpin d n).cfg rise = true ∧ (s.time d).stopped = false ∧ (∀ e ∈ (s.tpin d n).lastEdge, ps < e ∨ e + 2500 ≤ ps) ∧ (tpWin (s.tpin d n).cfg = false ∨ (s.tpin d n).winOpen ≤ ps ∧ ps < (s.tpin d n).winClose) ∧ 16 ≤ (s.tpin d n).fifo.length) ∧
    (∃ (s : State) (w : Who) (d n : Nat) (r : CapRec) (rest : List CapRec), s.reaches w (tpAddr d n 0x08) false = true ∧ s.hasPin d n = true ∧ (w.src ≠ 0x801 ∨ w.effect = true) ∧ (s.tpin d n).fifo = r :: rest) ∧
    (∃ (s : State) (w : Who) (d n : Nat), s.reaches w (tpAddr d n 0x08) false = true ∧ (s.tpin d n).fifo = []) ∧
    (∃ (s : State) (w : Who) (d n e : Nat) (v : BitVec 64), s.reaches w (tpAddr d n 0x18) true = true ∧ s.hasPin d n = true ∧ tpMode (s.tpin d n).cfg = 2 ∧ tpFabric (s.tpin d n).cfg = false ∧ e = expandShort (bitsOf v.toNat 40 8) (bitsOf v.toNat 0 40) (s.ps d) ∧ s.ps d + 100000 ≤ e ∧ (∀ l ∈ (s.tpin d n).lastSched, l + 2500 ≤ e) ∧ (s.tpin d n).sched.length < 16) ∧
    (∃ (s : State) (d n e : Nat) (st : BitVec 32) (lv : Bool), d < s.fdies ∧ n < 8 ∧ tpMode (s.tpin d n).cfg = 2 ∧ tpFabric (s.tpin d n).cfg = true ∧ s.tpClocked d n = true ∧ expandStamp st (s.ps d) = some e ∧ s.ps d + 100000 ≤ e ∧ (∀ l ∈ (s.tpin d n).lastSched, l + 2500 ≤ e) ∧ (s.tpin d n).sched.length < 16) ∧
    (∃ (s : State) (d n : Nat) (st : BitVec 32) (lv : Bool), d < s.fdies ∧ n < 8 ∧ tpMode (s.tpin d n).cfg = 2 ∧ tpFabric (s.tpin d n).cfg = true ∧ s.tpClocked d n = true ∧ expandStamp st (s.ps d) = none) ∧
    (∃ (s : State) (d n : Nat) (e : Nat × Bool) (rest : List (Nat × Bool)), (s.tpin d n).sched = e :: rest ∧ e.1 ≤ s.ps d ∧ (s.time d).stopped = false ∧ (s.die d).leggett.fenced = false) ∧
    (∃ (s : State) (d n : Nat), (s.tpin d n).sched = [] ∨ (s.time d).stopped = true ∨ (s.die d).leggett.fenced = true) ∧
    (∃ (s : State) (d n ps : Nat) (rise : Bool), s.hasPin d n = true ∧ tpMode (s.tpin d n).cfg = 0) ∧
    (∃ (s : State) (w : Who) (d n : Nat) (v : BitVec 64), s.reaches w (tpAddr d n 0x20) true = true ∧ s.hasPin d n = true) ∧
    (∃ (s : State) (w : Who) (d n : Nat) (v : BitVec 64), s.reaches w (tpAddr d n 0x28) true = true ∧ s.hasPin d n = true) ∧
    (∃ (s : State) (w : Who) (d n : Nat), s.reaches w (tpAddr d n 0x30) true = true ∧ s.hasPin d n = true) ∧
    (∃ (s : State) (w : Who) (d n : Nat), s.reaches w (tpAddr d n 0x30) true = true ∧ s.hasPin d n = true) ∧
    (∃ (s : State) (w : Who) (d n : Nat), s.reaches w (tpAddr d n 0x30) true = true ∧ s.hasPin d n = true) :=
  ⟨⟨(running.modTpin 8 3 fun p => { p with cfg := 5 }), 8, 3, 7000, true, by decide +kernel⟩,
   ⟨(running.modTpin 8 3 fun p => { p with cfg := 5, fifo := List.replicate 16 { p := 1 } }), 8, 3, 7000, true, by decide +kernel⟩,
   ⟨(running.modTpin 8 3 fun p => { p with cfg := 5, fifo := [{ p := 9, rise := true }] }), who0, 8, 3, { p := 9, rise := true }, [], by decide +kernel⟩,
   ⟨running, who0, 8, 3, by decide +kernel⟩,
   ⟨(running.modTpin 8 3 fun p => { p with cfg := 2 }), who0, 8, 3, 5000000, BitVec.ofNat 64 (5000000 + 2 ^ 48), by decide +kernel⟩,
   ⟨(allNets.modTpin 0 3 fun p => { p with cfg := 0x12 }), 0, 3, 5000000, 5000000, true, by decide +kernel⟩,
   ⟨(allNets.modTpin 0 3 fun p => { p with cfg := 0x12 }), 0, 3, 0x80000000, true, by decide +kernel⟩,
   ⟨(running.modTpin 8 3 fun p => { p with cfg := 2, sched := [(0, true)] }), 8, 3, (0, true), [], by decide +kernel⟩,
   ⟨running, 8, 3, by decide +kernel⟩,
   ⟨running, 8, 3, 7000, true, by decide +kernel⟩,
   ⟨running, who0, 8, 3, 77, by decide +kernel⟩,
   ⟨running, who0, 8, 3, 77, by decide +kernel⟩,
   ⟨(running.modTpin 8 3 fun p => { p with cfg := 5, fifo := [{ p := 9, rise := true }] }), who0, 8, 3, by decide +kernel⟩,
   ⟨(running.modTpin 8 3 fun p => { p with cfg := 2, sched := [(0, true)] }), who0, 8, 3, by decide +kernel⟩,
   ⟨(running.modTpin 8 3 fun p => { p with lost := 4 }), who0, 8, 3, by decide +kernel⟩⟩

theorem witness_resetsAndStartUp :
    (∃ (s : State) (v : BitVec 6), s.cfg.porn = true ∧ s.pornLow = true ∧ s.supplyBad = false) ∧
    (∃ (s : State) (e : Nat), s.cfg.oscdAt = some e ∧ s.cfg.porn = false ∧ e ≤ s.now ∧ s.cfg.srstn = false ∧ s.cfg.refosc = true ∧ s.clk.pkg ≠ .waking) ∧
    (∃ (s : State) (e : Nat), s.cfg.oscdAt = some e ∧ s.cfg.porn = false ∧ e ≤ s.now) ∧
    (∃ (s : State), s.cfg.srstn = true ∧ s.cfg.refosc = true ∧ s.cfg.oscdAt = none ∧ s.cfg.porn = false ∧ s.refclkGood = true) ∧
    (∃ (s : State) (d0 d1 : Bool) (a b : List (BitVec 8)), s.cfg.coreUp = true ∧ s.cfg.started = false ∧ s.cfg.phase = .boot ∧ bitsOf s.cfg.straps.toNat 0 2 ≠ 0) ∧
    (∃ (s : State) (d1 : Bool) (a b : List (BitVec 8)), s.cfg.coreUp = true ∧ s.cfg.started = false ∧ s.cfg.phase = .boot ∧ bitsOf s.cfg.straps.toNat 0 2 = 0) ∧
    (∃ (s : State), s.cfg.wiping = true ∧ s.allReachable = true) ∧
    (∃ (s : State) (d : Nat), s.cfg.stream.isOpen = true ∧ s.cfg.stream.what = .full ∧ s.cfg.reached = false ∧ d < s.fdies ∧ s.reachable d = false ∧ s.cfg.loadAt + 10 * psMs ≤ s.now ∧ 2 ≤ s.cfg.stream.src) ∧
    (∃ (s : State), s.cfg.porn = false) ∧
    (∃ (s : State), s.supplyBad = true ∧ s.supplyOkAt = none) ∧
    (∃ (s : State) (e : Nat), s.supplyBad = true ∧ s.supplyOkAt = some e ∧ e + 1000000000 ≤ s.now) ∧
    (∃ (s : State) (d : Nat), d < s.fdies ∨ d = 8) ∧
    (∃ (s : State), s.cfg.phase = .p1 ∧ s.now ≤ s.cfg.phaseAt + 100 * psUs) ∧
    (∃ (s : State), s.cfg.phase = .p1 ∧ s.cfg.phaseAt + 100 * psUs ≤ s.now ∧ (s.cfg.stream.mbx.isSome = true ∨ 2 ≤ s.cfg.stream.src)) ∧
    (∃ (s : State), s.cfg.phase = .p2) ∧
    (∃ (s : State), s.cfg.phase = .p3 ∧ (s.die 0).io.pads = .disabled ∧ s.tapHoldsPins = false) ∧
    (∃ (s : State), s.cfg.phase = .p3 ∧ (s.die 0).io.pads = .biased ∧ (s.die 0).io.biasAt + psUs ≤ s.now) ∧
    (∃ (s : State), s.cfg.phase = .p3 ∧ (s.die 0).io.pads = .enabled ∧ ∀ n ∈ List.range 8, (s.chan n).state ≠ .training) ∧
    (∃ (s : State) (m : Nat), s.asks m 0x0100 = true ∧ (s.req m).len = 0) :=
  ⟨⟨(State.reset.setPornLow true), 0x08, by decide +kernel⟩,
   ⟨(State.reset.modCfg fun c => { c with porn := false, refosc := true, oscdAt := some 0 }), 0, by decide +kernel⟩,
   ⟨(State.reset.modCfg fun c => { c with porn := false, refosc := true, oscdAt := some 0 }), 0, by decide +kernel⟩,
   ⟨(State.reset.modCfg fun c => { c with porn := false, refosc := true, srstn := true }), by decide +kernel⟩,
   ⟨(State.reset.modCfg fun c => { c with porn := false, coreUp := true, straps := 3 }), false, false, [], [], by decide +kernel⟩,
   ⟨(State.reset.modCfg fun c => { c with porn := false, coreUp := true }), false, [], [], by decide +kernel⟩,
   ⟨(allUp.modCfg fun c => { c with wiping := true }), by decide +kernel⟩,
   ⟨((State.reset.modCfg fun c => { c with stream := { Stream.reset with isOpen := true, src := 2 } }).setNow 10000000000), 3, by decide +kernel⟩,
   ⟨running, by decide +kernel⟩,
   ⟨(State.reset.setSupplyBad true), by decide +kernel⟩,
   ⟨(((State.reset.setSupplyBad true).setSupplyOkAt (some 0)).setNow 1000000000), 0, by decide +kernel⟩,
   ⟨running, 1, by decide +kernel⟩,
   ⟨(running.modCfg fun c => { c with phase := .p1 }), by decide +kernel⟩,
   ⟨((running.modCfg fun c => { c with phase := .p1, stream := { Stream.reset with isOpen := true, src := 2 } }).setNow 100000000), by decide +kernel⟩,
   ⟨((bayIn .empty).modCfg fun c => { c with phase := .p2 }), by decide +kernel⟩,
   ⟨(running.modCfg fun c => { c with phase := .p3 }), by decide +kernel⟩,
   ⟨(((running.modCfg fun c => { c with phase := .p3 }).modDie 0 fun x => { x with io := { x.io with pads := .biased } }).setNow 1000000), by decide +kernel⟩,
   ⟨((running.modCfg fun c => { c with phase := .p3 }).modDie 0 fun x => { x with io := { x.io with pads := .enabled } }), by decide +kernel⟩,
   ⟨(asking running 0x0100 []), 0, by decide +kernel⟩⟩

theorem witness_loadsAndPushes :
    (∃ (s : State) (m : Nat) (h : List (BitVec 8)), s.asks m 0x0101 = true ∧ (s.hasRole m roleC = true ∨ s.gable.gstate = .recovery) ∧ (s.req m).len = 4 ∧ (s.req m).zero 1 3 = true ∧ 2 ≤ (s.req m).num 0 1 ∧ (s.req m).num 0 1 ≤ 3 ∧ s.cfg.stream.isOpen = false ∧ (s.cfg.phase = .running ∨ s.cfg.phase = .recovery)) ∧
    (∃ (s : State) (m : Nat) (h : List (BitVec 8)), s.asks m 0x0101 = true ∧ (s.hasRole m roleC = true ∨ s.gable.gstate = .recovery) ∧ (s.req m).len = 4 ∧ (s.req m).zero 1 3 = true ∧ (s.req m).num 0 1 < 2 ∧ s.cfg.flash0 = true ∧ s.cfg.stream.isOpen = false ∧ (s.cfg.phase = .running ∨ s.cfg.phase = .recovery) ∧ h.length ≠ 512) ∧
    (∃ (s : State) (m : Nat), s.asks m 0x0103 = true ∧ s.hasRoom m = true ∧ (s.hasRole m roleC = true ∨ s.gable.gstate = .recovery) ∧ (s.req m).len = 4 ∧ (s.req m).zero 2 2 = true ∧ (s.req m).num 0 1 < 2 ∧ ((s.req m).num 1 1 = 2 ∨ (s.req m).num 1 1 = 3) ∧ (s.cfg.stream.isOpen = false ∨ s.cfg.stream.what ≠ .full) ∧ (s.cfg.phase = .running ∨ s.cfg.phase = .recovery) ∧ s.cfg.flash0 = true ∧ (s.cfg.phase = .running → s.cfg.slot.toNat ≠ (s.req m).num 0 1) ∧ s.cfg.prog.isOpen = false ∧ s.srcBusy ((s.req m).num 1 1) = false) ∧
    (∃ (s : State) (m tok : Nat) (p : Bool), s.asks m 0x0102 = true ∧ 8 ≤ (s.req m).len ∧ (s.req m).len % 8 = 0 ∧ s.pushStrm 3 = some p ∧ (s.strm p).mbx = some tok ∧ tok / 65536 = s.sid m ∧ (s.strm p).staged = false ∧ (s.strm p).header ≠ []) ∧
    (∃ (s : State) (w : Who) (v : BitVec 64) (p : Bool), s.reaches w (hubBase 7 + 0x030) true = true ∧ s.pushStrm 2 = some p ∧ (builtIn w.src = true ∨ (s.strm p).pushMid = some w.src) ∧ (s.strm p).header ≠ []) ∧
    (∃ (s : State) (w : Who) (v : BitVec 64) (p : Bool), s.reaches w (hubBase 7 + 0x030) true = true ∧ s.pushStrm 2 = some p ∧ builtIn w.src = false ∧ (s.strm p).pushMid ≠ some w.src) ∧
    (∃ (s : State) (p : Bool) (bytes b pl key : List (BitVec 8)) (len : Nat) (last : Bool), (s.strm p).isOpen = true ∧ (s.strm p).header ≠ [] ∧ (s.strm p).last = false ∧ (s.strm p).segIdx ≠ 0 ∧ ((s.strm p).what = .full → s.cfg.wiping = false ∧ s.cfg.reached = true) ∧ (s.strm p).src ≠ 4 ∧ b = (if (s.strm p).src < 2 then bytes else (s.strm p).pushed) ∧ len = numAt b 0 4 ∧ segLenOk (s.strm p).segIdx len = true ∧ (s.strm p).used + 20 + len ≤ hdrLen (s.strm p).header ∧ 20 + len ≤ b.length ∧ ((s.strm p).src < 2 → b.length = 20 + len) ∧ openSegment (s.strm p).header (s.strm p).key (s.strm p).segIdx ((b.drop 4).take len) ((b.drop (4 + len)).take 16) = .ok pl key last ∧ (last = true → (s.strm p).used + 20 + len = hdrLen (s.strm p).header)) ∧
    (∃ (s : State) (bytes b : List (BitVec 8)) (len c : Nat), s.cfg.prog.isOpen = true ∧ s.cfg.prog.header ≠ [] ∧ s.cfg.prog.last = false ∧ s.cfg.prog.segIdx ≠ 0 ∧ s.cfg.prog.what = .program ∧ s.cfg.prog.src ≠ 4 ∧ b = (if s.cfg.prog.src < 2 then bytes else s.cfg.prog.pushed) ∧ len = numAt b 0 4 ∧ segLenOk s.cfg.prog.segIdx len = true ∧ s.cfg.prog.used + 20 + len ≤ hdrLen s.cfg.prog.header ∧ 20 + len ≤ b.length ∧ (s.cfg.prog.src < 2 → b.length = 20 + len) ∧ openSegment s.cfg.prog.header s.cfg.prog.key s.cfg.prog.segIdx ((b.drop 4).take len) ((b.drop (4 + len)).take 16) = .bad c) ∧
    (∃ (s : State), s.cfg.prog.pushes = true ∧ s.cfg.prog.last = false ∧ 0 < s.cfg.prog.room ∧ s.cfg.prog.staged = false ∧ s.cfg.prog.pushAt + 10000 * psMs ≤ s.now) ∧
    (∃ (s : State), s.cfg.stream.pushes = true ∧ s.cfg.stream.last = false ∧ 0 < s.cfg.stream.room ∧ s.cfg.stream.staged = false ∧ s.cfg.stream.pushAt + 10000 * psMs ≤ s.now ∧ s.cfg.stream.what = .full) ∧
    (∃ (s : State) (d b : Nat), s.cfg.stream.pushes = true ∧ s.cfg.stream.last = false ∧ 0 < s.cfg.stream.room ∧ s.cfg.stream.staged = false ∧ s.cfg.stream.pushAt + 10000 * psMs ≤ s.now ∧ (s.cfg.stream.what = .bay ∨ s.cfg.stream.what = .repair) ∧ s.cfg.stream.die = d ∧ s.cfg.stream.bay = b ∧ (s.dieList.flatMap fun k => ((s.die k).bays.filter fun e => e.2.held.isSome)) = []) ∧
    (∃ (s : State), s.cfg.prog.isOpen = true ∧ s.cfg.prog.ended = true) :=
  ⟨⟨(asking running 0x0101 [3, 0, 0, 0]), 0, [], by decide +kernel⟩,
   ⟨(asking (running.modCfg fun c => { c with flash0 := true }) 0x0101 [1, 0, 0, 0]), 0, [], by decide +kernel⟩,
   ⟨(asking (running.modCfg fun c => { c with flash0 := true }) 0x0103 [1, 3, 0, 0]), 0, by decide +kernel⟩,
   ⟨(asking (pushing 3) 0x0102 [1, 2, 3, 4, 5, 6, 7, 8]), 0, 0x1000005, false, by decide +kernel⟩,
   ⟨(pushing 2), who0, 0x0102030405060708, false, by decide +kernel⟩,
   ⟨((pushing 2).modAcl 0x1007 fun t => { t with entries := [(0, { midVal := 0x003, midMask := 0xFFF, rd := true, wr := true, priv := true, valid := true })] }), { src := 0x003, priv := true, effect := true }, 1, false, by decide +kernel⟩,
   ⟨(segState true), false, segBytes, segBytes, List.replicate 16 7, [], 64, true, by decide +kernel⟩,
   ⟨segProgBad, [], leBytes 4 64 ++ List.replicate 80 0, 64, 5, by decide +kernel⟩,
   ⟨((segProgBad.modCfg fun c => { c with prog := { c.prog with pushed := [] } }).setNow 10000000000000), by decide +kernel⟩,
   ⟨((pushing 3).setNow 10000000000000), by decide +kernel⟩,
   ⟨(((pushing 3).modCfg fun c => { c with stream := { c.stream with what := .bay, die := 1, bay := 4 } }).setNow 10000000000000), 1, 4, by decide +kernel⟩,
   ⟨(segProgBad.modCfg fun c => { c with prog := { c.prog with ended := true } }), by decide +kernel⟩⟩

theorem witness_imageRecords :
    (∃ (s : State) (p : Bool) (n : Nat), (s.strm p).isOpen = true ∧ (s.strm p).took = true ∧ (s.strm p).ended = false ∧ (s.strm p).framesLen = some n ∧ 528 ≤ (s.strm p).buf.length ∧ (recHdr (s.strm p).buf).typ = 1 ∧ recFieldsOk (recHdr (s.strm p).buf) = true ∧ (s.strm p).framesUsed + 528 ≤ n) ∧
    (∃ (s : State) (n d i : Nat), s.cfg.stream.isOpen = true ∧ s.cfg.stream.took = true ∧ s.cfg.stream.ended = false ∧ s.cfg.stream.framesLen = some n ∧ 528 ≤ s.cfg.stream.buf.length ∧ (recHdr s.cfg.stream.buf).typ = 2 ∧ recFieldsOk (recHdr s.cfg.stream.buf) = true ∧ s.cfg.stream.framesUsed + 528 ≤ n ∧ (s.cfg.stream.what = .full ∨ s.cfg.stream.what = .bay) ∧ s.dieOfRec s.cfg.stream (recHdr s.cfg.stream.buf).die = some d ∧ s.cfg.stream.frameOf (recHdr s.cfg.stream.buf).start = some i ∧ frameDataOk i ((s.cfg.stream.buf.drop 16).take 512) = true) ∧
    (∃ (s : State) (n : Nat), s.cfg.prog.isOpen = true ∧ s.cfg.prog.took = true ∧ s.cfg.prog.ended = false ∧ s.cfg.prog.framesLen = some n ∧ 528 ≤ s.cfg.prog.buf.length ∧ (recHdr s.cfg.prog.buf).typ = 2 ∧ recFieldsOk (recHdr s.cfg.prog.buf) = true ∧ s.cfg.prog.framesUsed + 528 ≤ n ∧ s.cfg.prog.what = .program ∧ (recHdr s.cfg.prog.buf).die < s.fdies ∧ frameIdxOk (recHdr s.cfg.prog.buf).start = true ∧ frameDataOk (recHdr s.cfg.prog.buf).start ((s.cfg.prog.buf.drop 16).take 512) = true ∧ s.cfg.stream.isOpen = true) ∧
    (∃ (s : State) (n d : Nat), s.cfg.stream.isOpen = true ∧ s.cfg.stream.took = true ∧ s.cfg.stream.ended = false ∧ s.cfg.stream.framesLen = some n ∧ 16 ≤ s.cfg.stream.buf.length ∧ (recHdr s.cfg.stream.buf).typ = 3 ∧ recFieldsOk (recHdr s.cfg.stream.buf) = true ∧ s.cfg.stream.framesUsed + 16 ≤ n ∧ s.cfg.stream.what = .full ∧ d = (recHdr s.cfg.stream.buf).die ∧ d < s.fdies ∧ tget [] s.cfg.stream.yealms (recHdr s.cfg.stream.buf).yealm ≠ [] ∧ (∀ k ∈ List.range (recHdr s.cfg.stream.buf).count, (runIdx (recHdr s.cfg.stream.buf).start k (recHdr s.cfg.stream.buf).stride).any (fun i => decide (i < 262144)) = true)) ∧
    (∃ (s : State) (n d : Nat), s.cfg.stream.isOpen = true ∧ s.cfg.stream.took = true ∧ s.cfg.stream.ended = false ∧ s.cfg.stream.framesLen = some n ∧ 16 ≤ s.cfg.stream.buf.length ∧ (recHdr s.cfg.stream.buf).typ = 4 ∧ recFieldsOk (recHdr s.cfg.stream.buf) = true ∧ s.cfg.stream.framesUsed + 16 ≤ n ∧ s.cfg.stream.what = .full ∧ d = (recHdr s.cfg.stream.buf).die ∧ d < s.fdies ∧ (recHdr s.cfg.stream.buf).start + (recHdr s.cfg.stream.buf).count ≤ 262144) ∧
    (∃ (s : State), s.cfg.stream.isOpen = true ∧ s.cfg.stream.took = true ∧ s.cfg.stream.ended = false ∧ s.cfg.stream.framesLen = some (s.cfg.stream.framesUsed + 16) ∧ s.cfg.stream.buf.length = 16 ∧ (recHdr s.cfg.stream.buf).typ = 5 ∧ recFieldsOk (recHdr s.cfg.stream.buf) = true ∧ (recHdr s.cfg.stream.buf).count = s.cfg.stream.writes % 2 ^ 32 ∧ s.cfg.stream.last = true ∧ s.cfg.stream.what = .full) ∧
    (∃ (s : State), s.cfg.prog.isOpen = true ∧ s.cfg.prog.took = true ∧ s.cfg.prog.ended = false ∧ s.cfg.prog.framesLen = some (s.cfg.prog.framesUsed + 16) ∧ s.cfg.prog.buf.length = 16 ∧ (recHdr s.cfg.prog.buf).typ = 5 ∧ recFieldsOk (recHdr s.cfg.prog.buf) = true ∧ (recHdr s.cfg.prog.buf).count = s.cfg.prog.writes % 2 ^ 32 ∧ s.cfg.prog.last = true) ∧
    (∃ (s : State) (n : Nat), s.cfg.prog.isOpen = true ∧ s.cfg.prog.took = true ∧ s.cfg.prog.ended = false ∧ s.cfg.prog.framesLen = some n ∧ 16 ≤ s.cfg.prog.buf.length ∧ ((recHdr s.cfg.prog.buf).typ = 0 ∨ 5 < (recHdr s.cfg.prog.buf).typ)) :=
  ⟨⟨(recState false .full (recBytes 1 0 5 0 0 0 ++ List.replicate 512 9)), false, 100000, by decide +kernel⟩,
   ⟨(recState false .full (recBytes 2 1 0 77 0 0 ++ List.replicate 512 9)), 100000, 1, 77, by decide +kernel⟩,
   ⟨((recState true .program (recBytes 2 1 0 77 0 0 ++ List.replicate 512 9)).modCfg fun c => { c with stream := { c.stream with isOpen := true } }), 100000, by decide +kernel⟩,
   ⟨((recState false .full (recBytes 3 1 5 77 3 (2 ^ 32 - 2))).modCfg fun c => { c with stream := { c.stream with yealms := [(5, List.replicate 512 9)] } }), 100000, 1, by decide +kernel⟩,
   ⟨(recState false .full (recBytes 4 1 0 77 3 0)), 100000, 1, by decide +kernel⟩,
   ⟨((recState false .full (recBytes 5 0 0 0 0 0)).modCfg fun c => { c with stream := { c.stream with last := true, framesLen := some 16 } }), by decide +kernel⟩,
   ⟨((recState true .program (recBytes 5 0 0 0 0 0)).modCfg fun c => { c with prog := { c.prog with last := true, framesLen := some 16 } }), by decide +kernel⟩,
   ⟨(recState true .program (recBytes 9 0 0 0 0 0)), 100000, by decide +kernel⟩⟩

theorem witness_memoryCommands :
    (∃ (s : State) (m n : Nat), s.asks m 0x0300 = true ∧ s.gable.gstate = .running ∧ (s.req m).len = 4 ∧ (s.req m).num 0 1 = n ∧ n < 8 ∧ (s.req m).zero 1 3 = true) ∧
    (∃ (s : State) (m n : Nat), s.asks m 0x0301 = true ∧ s.hasRoom m = true ∧ s.gable.gstate = .running ∧ s.hasRole m roleC = true ∧ (s.req m).num 0 1 = n ∧ n < 8 ∧ (s.req m).zero 2 2 = true ∧ (s.req m).len = 4 ∧ (s.req m).num 1 1 = 0 ∧ ((s.chan n).state = .off ∨ (s.chan n).state = .fault) ∧ (s.declOf n).dimms ≠ 0 ∧ (s.declOf n).rfm = false) ∧
    (∃ (s : State) (m n : Nat), s.asks m 0x0301 = true ∧ s.hasRoom m = true ∧ s.gable.gstate = .running ∧ s.hasRole m roleC = true ∧ (s.req m).num 0 1 = n ∧ n < 8 ∧ (s.req m).zero 2 2 = true ∧ (s.req m).len = 44 ∧ (s.req m).num 1 1 = 1 ∧ ((s.chan n).state = .off ∨ (s.chan n).state = .fault) ∧ declOk ((s.req m).arg.drop 4) = true ∧ ((declOf40 ((s.req m).arg.drop 4)).eccB = true ∨ s.integOn s.dram.sets n = false) ∧ (declOf40 ((s.req m).arg.drop 4)).dimms ≠ 0 ∧ (declOf40 ((s.req m).arg.drop 4)).rfm = false) ∧
    (∃ (s : State) (m n : Nat), s.asks m 0x0301 = true ∧ s.hasRoom m = true ∧ s.gable.gstate = .running ∧ s.hasRole m roleC = true ∧ (s.req m).num 0 1 = n ∧ n < 8 ∧ (s.req m).zero 2 2 = true ∧ (s.req m).len = 4 ∧ (s.req m).num 1 1 = 0 ∧ ((s.chan n).state = .off ∨ (s.chan n).state = .fault) ∧ ((s.declOf n).dimms = 0 ∨ (s.declOf n).rfm = true)) ∧
    (∃ (s : State) (m n : Nat), s.asks m 0x0301 = true ∧ s.hasRoom m = true ∧ s.gable.gstate = .running ∧ s.hasRole m roleC = true ∧ (s.req m).num 0 1 = n ∧ n < 8 ∧ (s.req m).zero 2 2 = true ∧ (s.req m).len = 4 ∧ (s.req m).num 1 1 = 0 ∧ (s.chan n).state ≠ .off ∧ (s.chan n).state ≠ .fault) ∧
    (∃ (s : State) (m n : Nat), s.asks m 0x0302 = true ∧ s.hasRoom m = true ∧ s.gable.gstate = .running ∧ s.hasRole m roleC = true ∧ (s.req m).len = 4 ∧ (s.req m).num 0 1 = n ∧ n < 8 ∧ (s.req m).num 1 1 ≤ 1 ∧ (s.req m).zero 2 2 = true) ∧
    (∃ (s : State) (m r : Nat), s.asks m 0x0304 = true ∧ s.gable.gstate = .running ∧ s.hasRole m roleT = true ∧ (s.req m).len = 20 ∧ (s.req m).num 0 1 = r ∧ (s.req m).zero 2 2 = true ∧ regionArgOk s.dram.regions r ((s.req m).num 1 1) ((s.req m).num 4 8) ((s.req m).num 12 8) = true) ∧
    (∃ (s : State) (m : Nat), s.asks m 0x0305 = true ∧ s.gable.gstate = .running ∧ s.hasRole m roleC = true ∧ mapOk s (s.req m).arg = true ∧ ∀ k ∈ List.range 4, ∀ n ∈ (s.dram.ilv k).members ++ (ilvOf (bytesAt (s.req m).arg (20 * k) 20)).members, (s.chan n).state = .off ∨ (s.chan n).state = .down) ∧
    (∃ (s : State) (m n : Nat), s.asks m 0x0305 = true ∧ s.gable.gstate = .running ∧ s.hasRole m roleC = true ∧ mapOk s (s.req m).arg = true ∧ n ∈ (s.dram.ilv 0).members ∧ (s.chan n).state ≠ .off ∧ (s.chan n).state ≠ .down) ∧
    (∃ (s : State) (m n : Nat), s.asks m 0x0306 = true ∧ s.gable.gstate = .running ∧ s.hasRole m roleC = true ∧ (s.req m).len = 8 ∧ (s.req m).num 0 1 = n ∧ n < 8 ∧ (s.req m).num 1 1 ≤ 2 ∧ (s.req m).zero 3 1 = true ∧ (s.req m).num 4 2 < 4096 ∧ (s.req m).zero 6 2 = true ∧ s.flowForbids 5 8 n ((s.req m).num 1 1) = false) ∧
    (∃ (s : State) (m : Nat), s.asks m 0x0307 = true ∧ s.gable.gstate = .running ∧ s.hasRole m roleC = true ∧ (s.req m).len = 20 ∧ 1 ≤ (s.req m).num 0 1 ∧ (s.req m).num 0 1 ≤ 168 ∧ (s.req m).zero 1 3 = true ∧ (s.req m).num 4 8 &&& (s.req m).num 12 8 = 0) ∧
    (∃ (s : State) (w : Who) (n : Nat), n < 8 ∧ s.reaches w (hubBase (9 + n) + 0x228) true = true) :=
  ⟨⟨(asking (dramIn .up) 0x0300 [2, 0, 0, 0]), 0, 2, by decide +kernel⟩,
   ⟨(asking (dramIn .off) 0x0301 [2, 0, 0, 0]), 0, 2, by decide +kernel⟩,
   ⟨(asking running 0x0301 ([2, 1, 0, 0] ++ declB)), 0, 2, by decide +kernel⟩,
   ⟨(asking running 0x0301 [2, 0, 0, 0]), 0, 2, by decide +kernel⟩,
   ⟨(asking (dramIn .down) 0x0301 [2, 0, 0, 0]), 0, 2, by decide +kernel⟩,
   ⟨(asking (dramIn .up) 0x0302 [2, 1, 0, 0]), 0, 2, by decide +kernel⟩,
   ⟨(asking running 0x0304 ([5, 3, 0, 0] ++ leBytes 8 0x200000 ++ leBytes 8 0x5FFFFF)), 0, 5, by decide +kernel⟩,
   ⟨(asking (dramIn .off) 0x0305 mapArg), 0, by decide +kernel⟩,
   ⟨(asking dramMapped 0x0305 mapArg), 0, 2, by decide +kernel⟩,
   ⟨(asking (dramIn .up) 0x0306 [2, 2, 7, 0, 9, 1, 0, 0]), 0, 2, by decide +kernel⟩,
   ⟨(asking dramMapped 0x0307 ([12, 0, 0, 0] ++ leBytes 8 0 ++ leBytes 8 8)), 0, by decide +kernel⟩,
   ⟨((dramIn .up).modChan 2 fun x => { x with ce := 5, ue := 6 }), who0, 2, by decide +kernel⟩⟩

theorem witness_channelBringUp :
    (∃ (s : State) (n : Nat), (s.chan n).state = .training) ∧
    (∃ (s : State) (n : Nat) (st : BitVec 4), (s.chan n).state = .training ∧ (s.chan n).since + 250 * psMs ≤ s.now) ∧
    (∃ (s : State) (n : Nat) (st : BitVec 4), (s.chan n).state ≠ .training ∨ s.now < (s.chan n).since + 250 * psMs) ∧
    (∃ (s : State) (n : Nat), (s.chan n).state = .shutting ∧ (s.chan n).quiet = true ∧ (s.chan n).heldUp = none) ∧
    (∃ (s : State) (n k : Nat), (s.chan n).state = .shutting ∧ (s.chan n).quiet = true ∧ (s.chan n).heldUp = some k) ∧
    (∃ (s : State) (n : Nat), (s.chan n).state = .exiting) ∧
    (∃ (s : State) (n : Nat), ((s.chan n).state = .up ∨ (s.chan n).state = .shutting) ∧ (s.chan n).alertRun < 7) ∧
    (∃ (s : State) (n : Nat), ((s.chan n).state = .up ∨ (s.chan n).state = .shutting) ∧ (s.chan n).alertRun = 7) :=
  ⟨⟨((dramIn .training).setNow 5), 2, by decide +kernel⟩,
   ⟨((dramIn .training).setNow 250000000000), 2, 4, by decide +kernel⟩,
   ⟨(dramIn .training), 2, 4, by decide +kernel⟩,
   ⟨((dramIn .shutting).modChan 2 fun x => { x with retain := true, downCmds := [(7, true)] }), 2, by decide +kernel⟩,
   ⟨((dramIn .shutting).modChan 2 fun x => { x with retain := false, heldUp := some 7 }), 2, 7, by decide +kernel⟩,
   ⟨((dramIn .exiting).modChan 2 fun x => { x with downCmds := [(7, true)] }), 2, by decide +kernel⟩,
   ⟨(dramQ 0 false true (.good 0)), 2, by decide +kernel⟩,
   ⟨((dramQ 0 false true (.good 0)).modChan 2 fun x => { x with alertRun := 7 }), 2, by decide +kernel⟩⟩

theorem witness_channelServes :
    (∃ (s : State) (n p : Nat) (k : Pkt) (rest : List Pkt), s.elementAt 8 n (dramPort p) = .dram n p ∧ s.ridgeClock 8 = true ∧ tget [] (s.router 8 n).inbox (dramPort p) = k :: rest ∧ k.cls = .req ∧ s.portAdmits 8 n (dramPort p) k = true ∧ (s.chan n).state ≠ .up) ∧
    (∃ (s : State) (n sub : Nat) (e : DramCmd), (s.chan n).serves = true ∧ sub < 2 ∧ (s.chan n).pd = false ∧ (s.chan n).sref = false ∧ s.feedOne n = none ∧ s.pick n sub = some e ∧ e.full = false) ∧
    (∃ (s : State) (n sub : Nat) (e : DramCmd) (pk : DramPkt), (s.chan n).serves = true ∧ sub < 2 ∧ (s.chan n).pd = false ∧ (s.chan n).sref = false ∧ s.feedOne n = none ∧ s.pick n sub = some e ∧ e.full = true ∧ s.pktOf n e.ident = pk) ∧
    (∃ (s : State) (n sub : Nat), (s.chan n).serves = true ∧ sub < 2 ∧ ((s.chan n).pd = true ∨ (s.chan n).sref = true) ∧ (s.chan n).wakeAt = none ∧ ((s.chan n).serving ≠ [] ∨ (List.range 16).any (fun p => ((s.chan n).port p).level != 0) = true)) ∧
    (∃ (s : State) (n w : Nat), n < 8 ∧ ((s.chan n).pd = true ∨ (s.chan n).sref = true) ∧ (s.chan n).wakeAt = some w ∧ w + (if (s.chan n).sref = true then 12000000 else 50000) ≤ s.now) ∧
    (∃ (s : State) (n sub : Nat) (e : DramCmd) (pk : DramPkt) (tg : BitVec 64), (s.chan n).serves = true ∧ ((s.chan n).queue sub).find? (fun e => e.issued) = some e ∧ s.lineState e.ch e.c = .good tg ∧ (tagged e.flash = false ∨ flashTag e.flash e.addr.toNat (s.stored e.ch e.c) = tg) ∧ (s.chan n).serving.find? (fun x => x.ident == e.ident) = some pk ∧ pk.left = [e.line] ∧ pk.got = [] ∧ pk.resp = respOk ∧ pk.pkt.cls = .req ∧ opcWrite pk.pkt.opc = false ∧ opcRmw pk.pkt.opc = false ∧ e.line = 0 ∧ pk.pkt.addr.toNat % 64 + pk.pkt.len.toNat < 64) ∧
    (∃ (s : State) (n sub : Nat) (e : DramCmd) (tg : BitVec 64) (u : DramUpset), (s.chan n).serves = true ∧ ((s.chan n).queue sub).find? (fun e => e.issued) = some e ∧ s.lineState e.ch e.c = .good tg ∧ (tagged e.flash = false ∨ flashTag e.flash e.addr.toNat (s.stored e.ch e.c) = tg) ∧ opcWrite (s.pktOf n e.ident).pkt.opc = true ∧ opcRmw (s.pktOf n e.ident).pkt.opc = false ∧ (u = .none ∨ u = .corrected)) ∧
    (∃ (s : State) (n sub : Nat) (e : DramCmd) (tg : BitVec 64), (s.chan n).serves = true ∧ ((s.chan n).queue sub).find? (fun e => e.issued) = some e ∧ s.lineState e.ch e.c = .good tg) ∧
    (∃ (s : State) (n sub : Nat) (e : DramCmd) (u : DramUpset), (s.chan n).serves = true ∧ ((s.chan n).queue sub).find? (fun e => e.issued) = some e ∧ s.lineState e.ch e.c = .poison) :=
  ⟨⟨(running.modRouter 8 2 fun x => { x with inbox := [(8, [{ gableReq 0x1000 1 with checked := true }])] }), 2, 3, { gableReq 0x1000 1 with checked := true }, [], by decide +kernel⟩,
   ⟨(dramQ 0 false false (.good 0)), 2, 0, dramEntry false false, by decide +kernel⟩,
   ⟨(dramQ 4 true false .bad), 2, 0, dramEntry true false, dramPk 4, by decide +kernel⟩,
   ⟨((dramQ 0 false false (.good 0)).modChan 2 fun x => { x with sref := true }), 2, 0, by decide +kernel⟩,
   ⟨(((dramIn .up).modChan 2 fun x => { x with sref := true, wakeAt := some 0 }).setNow 12000000), 2, 0, by decide +kernel⟩,
   ⟨(dramQ 0 false true (.good 0)), 2, 0, dramEntry false true, dramPk 0, 0, by decide +kernel⟩,
   ⟨(dramQ 4 false true (.good 0)), 2, 0, dramEntry false true, 0, .corrected, by decide +kernel⟩,
   ⟨(dramQ 4 false true (.good 0)), 2, 0, dramEntry false true, 0, by decide +kernel⟩,
   ⟨(dramQ 4 false true .poison), 2, 0, dramEntry false true, .none, by decide +kernel⟩⟩

theorem witness_channelUpkeep :
    (∃ (s : State) (n r : Nat), s.rankUp n r = true ∧ tget 0 (s.chan n).refAt r + (if (s.chan n).hot = true then 1950000 else 3900000) ≤ s.now ∧ (s.chan n).panicking = []) ∧
    (∃ (s : State) (n r : Nat), s.rankUp n r = true ∧ tget 0 (s.chan n).refAt r + (if (s.chan n).hot = true then 1950000 else 3900000) ≤ s.now ∧ (s.chan n).panicking ≠ [] ∧ tget 0 (s.chan n).owed r < 4) ∧
    (∃ (s : State) (n r : Nat), s.rankUp n r = false ∨ s.now < tget 0 (s.chan n).refAt r + (if (s.chan n).hot = true then 1950000 else 3900000)) ∧
    (∃ (s : State) (n r : Nat) (twice above : Bool), s.rankUp n r = true ∧ tget 0 (s.chan n).mr4At r + 16 * psMs ≤ s.now) ∧
    (∃ (s : State) (n r : Nat), s.rankUp n r = true ∧ tget 0 (s.chan n).zqAt r + 128 * psMs ≤ s.now ∧ ((s.chan n).panicking = [] ∨ tget 0 (s.chan n).zqAt r + 129 * psMs ≤ s.now)) ∧
    (∃ (s : State) (n r : Nat), s.rankUp n r = true ∧ tget 0 (s.chan n).dqsAt r + 16 * psMs ≤ s.now ∧ ((s.chan n).panicking = [] ∨ tget 0 (s.chan n).dqsAt r + 17 * psMs ≤ s.now)) ∧
    (∃ (s : State) (n : Nat), (s.chan n).state = .up ∧ (s.chan n).quiet = true ∧ (s.chan n).lpSel ≠ 0 ∧ (s.chan n).pd = false ∧ (s.chan n).sref = false ∧ s.flowHolds 5 0 n = false ∧ (s.chan n).lastCmd + (s.chan n).pdIdle.toNat * 10000 ≤ s.now) ∧
    (∃ (s : State) (n : Nat), (s.chan n).state = .up ∧ (s.chan n).quiet = true ∧ (s.chan n).lpSel = 2 ∧ (s.chan n).sref = false ∧ s.flowHolds 5 0 n = false ∧ (s.chan n).lastCmd + (s.chan n).srefIdle.toNat * psUs ≤ s.now) ∧
    (∃ (s : State) (n c a : Nat) (tg : BitVec 64) (u : DramUpset), (s.chan n).state = .up ∧ (s.chan n).quiet = true ∧ (s.chan n).pd = false ∧ (s.chan n).sref = false ∧ s.scrubNext n (s.chan n).scrubPos = some (c, a) ∧ s.lineState n c = .good tg ∧ (u = .none ∨ u = .corrected)) :=
  ⟨⟨((dramIn .up).setNow 3900000), 2, 0, by decide +kernel⟩,
   ⟨(((dramIn .up).modChan 2 fun x => x.modPort 3 fun q => { q with panic := true }).setNow 3900000), 2, 0, by decide +kernel⟩,
   ⟨((dramIn .up).setNow 3899999), 2, 0, by decide +kernel⟩,
   ⟨((dramIn .up).setNow 16000000000), 2, 0, true, true, by decide +kernel⟩,
   ⟨((dramIn .up).setNow 128000000000), 2, 0, by decide +kernel⟩,
   ⟨((dramIn .up).setNow 16000000000), 2, 0, by decide +kernel⟩,
   ⟨((dramIn .up).modChan 2 fun x => { x with lpSel := 1 }), 2, by decide +kernel⟩,
   ⟨((dramIn .up).modChan 2 fun x => { x with lpSel := 2 }), 2, by decide +kernel⟩,
   ⟨(dramMapped.modChan 2 fun x => { x with lines := [(1, .good 0)], scrubPos := 64 }), 2, 64, 64, 0, .corrected, by decide +kernel⟩⟩

theorem witness_keyCommands :
    (∃ (s : State) (m : Nat) (keys : List (BitVec 8)), s.asks m 0x0310 = true ∧ s.gable.gstate = .running ∧ s.hasRole m roleC = true ∧ (s.req m).len = 108 ∧ (s.req m).num 1 1 < 16 ∧ (s.req m).num 2 1 ≤ 1 ∧ (s.req m).zero 3 1 = true ∧ kwUnwrap s.cfg.deviceKey (List.replicate 7 0xA6 ++ [1]) (bytesAt (s.req m).arg 4 104) = some keys ∧ bytesAt keys 0 32 ≠ bytesAt keys 32 32) ∧
    (∃ (s : State) (m : Nat), s.asks m 0x0310 = true ∧ s.gable.gstate = .running ∧ s.hasRole m roleC = true ∧ (s.req m).len = 108 ∧ (s.req m).num 1 1 < 16 ∧ (s.req m).num 2 1 ≤ 1 ∧ (s.req m).zero 3 1 = true ∧ kwUnwrap s.cfg.deviceKey (List.replicate 7 0xA6 ++ [1]) (bytesAt (s.req m).arg 4 104) = none) ∧
    (∃ (s : State) (m : Nat) (keys : List (BitVec 8)), s.asks m 0x0310 = true ∧ s.gable.gstate = .running ∧ s.hasRole m roleC = true ∧ (s.req m).len = 108 ∧ (s.req m).num 1 1 < 16 ∧ (s.req m).num 2 1 ≤ 1 ∧ (s.req m).zero 3 1 = true ∧ kwUnwrap s.cfg.deviceKey (List.replicate 7 0xA6 ++ [1]) (bytesAt (s.req m).arg 4 104) = some keys ∧ bytesAt keys 0 32 = bytesAt keys 32 32) ∧
    (∃ (s : State) (m r : Nat), s.asks m 0x0311 = true ∧ s.gable.gstate = .running ∧ s.hasRole m roleC = true ∧ (s.req m).len = 28 ∧ (s.req m).num 0 1 = r ∧ r < 64 ∧ (s.req m).num 1 1 < 16 ∧ 9 ≤ (s.req m).num 2 1 ∧ (s.req m).num 2 1 ≤ 12 ∧ (s.req m).num 3 1 < 8 ∧ (bitOf ((s.req m).num 3 1) 2 = false ∨ (regionSpanOk ((s.req m).num 4 8) ((s.req m).num 12 8) 4096 = true ∧ (s.fregions.any fun e => e.1 != r && e.2.meets ((s.req m).num 4 8) ((s.req m).num 12 8)) = false ∧ (bitOf ((s.req m).num 3 1) 1 = false ∨ ∀ k ∈ List.range 4, ∀ n ∈ (s.dram.ilv k).channelsIn ((s.req m).num 4 8) ((s.req m).num 12 8), (s.declOf n).eccB = true)))) ∧
    (∃ (s : State) (m k : Nat) (key : List (BitVec 8)), s.asks m 0x0312 = true ∧ s.gable.gstate = .running ∧ (s.hasRole m roleC = true ∨ ((s.req m).num 0 1 = 1 ∧ (s.mbx m).opener = BitVec.ofNat 12 (0x8F0 + (s.req m).num 2 1))) ∧ (s.req m).len = 52 ∧ (s.req m).zero 3 1 = true ∧ s.keyedLink ((s.req m).num 0 1) ((s.req m).num 1 1) ((s.req m).num 2 1) = some k ∧ (s.req m).num 4 4 ≠ (s.req m).num 8 4 ∧ kwUnwrap s.cfg.deviceKey (List.replicate 7 0xA6 ++ [3]) (bytesAt (s.req m).arg 12 40) = some key ∧ (s.linkKey k).digest ≠ some (sha384 key)) ∧
    (∃ (s : State) (m k : Nat), s.asks m 0x0312 = true ∧ s.gable.gstate = .running ∧ s.hasRole m roleC = true ∧ (s.req m).len = 52 ∧ (s.req m).zero 3 1 = true ∧ s.keyedLink ((s.req m).num 0 1) ((s.req m).num 1 1) ((s.req m).num 2 1) = some k ∧ (s.req m).num 4 4 ≠ (s.req m).num 8 4 ∧ kwUnwrap s.cfg.deviceKey (List.replicate 7 0xA6 ++ [3]) (bytesAt (s.req m).arg 12 40) = none) ∧
    (∃ (s : State) (m : Nat), s.asks m 0x0313 = true ∧ s.gable.gstate = .running ∧ s.hasRole m roleC = true ∧ (s.req m).len = 4 ∧ (s.req m).zero 3 1 = true ∧ (s.req m).num 0 1 = 0 ∧ (s.req m).num 2 1 < 16) ∧
    (∃ (s : State) (m k : Nat), s.asks m 0x0313 = true ∧ s.gable.gstate = .running ∧ s.hasRole m roleC = true ∧ (s.req m).len = 4 ∧ (s.req m).zero 3 1 = true ∧ ((s.req m).num 0 1 = 1 ∨ (s.req m).num 0 1 = 2) ∧ s.keyedLink ((s.req m).num 0 1 - 1) ((s.req m).num 1 1) ((s.req m).num 2 1) = some k) ∧
    (∃ (s : State) (m n : Nat), s.asks m 0x0314 = true ∧ s.gable.gstate = .running ∧ (s.req m).len = 4 ∧ (s.req m).num 0 1 = n ∧ n < 8 ∧ (s.req m).zero 1 3 = true) :=
  ⟨⟨(asking keyed 0x0310 ([4, 6, 1, 0] ++ wrapMem)), 0, (List.replicate 32 2 ++ List.replicate 32 3 ++ List.replicate 32 4), by decide +kernel⟩,
   ⟨(asking keyed 0x0310 ([4, 6, 1, 0] ++ List.replicate 104 0)), 0, by decide +kernel⟩,
   ⟨(asking keyed 0x0310 ([4, 6, 1, 0] ++ wrapSame)), 0, (List.replicate 32 2 ++ List.replicate 32 2 ++ List.replicate 32 4), by decide +kernel⟩,
   ⟨(asking (dramIn .up) 0x0311 ([5, 6, 12, 7] ++ leBytes 8 0x1000 ++ leBytes 8 0x2FFF ++ leBytes 8 77)), 0, 5, by decide +kernel⟩,
   ⟨(asking keyed 0x0312 ([1, 8, 0, 0] ++ leBytes 4 1 ++ leBytes 4 2 ++ wrapLink)), 0, 144, (List.replicate 32 9), by decide +kernel⟩,
   ⟨(asking keyed 0x0312 ([1, 8, 0, 0] ++ leBytes 4 1 ++ leBytes 4 2 ++ List.replicate 40 0)), 0, 144, by decide +kernel⟩,
   ⟨(asking (flashState true 0) 0x0313 [0, 4, 6, 0]), 0, by decide +kernel⟩,
   ⟨(asking (((portLanes .active).modLink 144 fun e => { e with encrypted := true }).modLinkKey 144 fun x => { x with key := some [1] }) 0x0313 [2, 8, 0, 0]), 0, 144, by decide +kernel⟩,
   ⟨(asking (flashState true 0) 0x0314 [2, 0, 0, 0]), 0, 2, by decide +kernel⟩⟩

theorem witness_flashingChecks :
    (∃ (s : State) (n p : Nat) (k : Pkt) (rest : List Pkt), s.elementAt 8 n (dramPort p) = .dram n p ∧ s.ridgeClock 8 = true ∧ tget [] (s.router 8 n).inbox (dramPort p) = k :: rest ∧ k.cls = .req ∧ s.portAdmits 8 n (dramPort p) k = true ∧ (s.chan n).state = .up ∧ k.rmwOk = true ∧ (∃ i ∈ List.range k.lineCount, lacksKey (s.lineView n (k.lineAddr i)) = true)) ∧
    (∃ (s : State) (n sub : Nat) (e : DramCmd) (pk : DramPkt) (tg : BitVec 64), (s.chan n).serves = true ∧ ((s.chan n).queue sub).find? (fun e => e.issued) = some e ∧ s.lineState e.ch e.c = .good tg ∧ tagged e.flash = true ∧ flashTag e.flash e.addr.toNat (s.stored e.ch e.c) ≠ tg ∧ (s.chan n).serving.find? (fun x => x.ident == e.ident) = some pk ∧ pk.left = [e.line] ∧ pk.resp = respOk ∧ pk.pkt.cls = .req ∧ (opcRead pk.pkt.opc = true ∨ opcWrite pk.pkt.opc = true)) :=
  ⟨⟨((flashState false 0).modRouter 8 2 fun x => { x with inbox := [(8, [{ gableReq 0x1000 1 with checked := true }])] }), 2, 3, { gableReq 0x1000 1 with checked := true }, [], by decide +kernel⟩,
   ⟨(flashState true 4), 2, 0, flashEntry, dramPk 4, 1, by decide +kernel⟩⟩

theorem witness_dmaCommands :
    (∃ (s : State) (m c : Nat), s.asks m 0x0320 = true ∧ s.gable.gstate = .running ∧ (s.hasRole m roleT = true ∨ (BitVec.ofNat 12 ((s.req m).num 4 2) = (s.mbx m).opener ∧ (s.req m).num 6 2 = 0xFFF ∧ (s.req m).num 1 1 = 0)) ∧ (s.req m).len = 8 ∧ (s.req m).num 1 1 ≤ 1 ∧ (s.req m).zero 2 2 = true ∧ (s.req m).num 4 2 < 4096 ∧ (s.req m).num 6 2 < 4096 ∧ s.dmaFreeCh c = true ∧ ((s.req m).num 0 1 = c ∨ ((s.req m).num 0 1 = 0xFF ∧ ∀ k ∈ List.range c, s.dmaFreeCh k = false))) ∧
    (∃ (s : State) (m : Nat), s.asks m 0x0320 = true ∧ s.gable.gstate = .running ∧ s.hasRole m roleT = true ∧ (s.req m).len = 8 ∧ (s.req m).num 1 1 ≤ 1 ∧ (s.req m).zero 2 2 = true ∧ (s.req m).num 4 2 < 4096 ∧ (s.req m).num 6 2 < 4096 ∧ (s.req m).num 0 1 < 32 ∧ s.dmaFreeCh ((s.req m).num 0 1) = false) ∧
    (∃ (s : State) (m c : Nat), s.asks m 0x0321 = true ∧ s.hasRoom m = true ∧ s.gable.gstate = .running ∧ (s.req m).len = 4 ∧ (s.req m).num 0 1 = c ∧ c < 32 ∧ (s.req m).zero 1 3 = true ∧ (s.dmaCh c).valid = true ∧ (s.dmaCh c).owner.toNat = s.sid m ∧ (s.dmaCh c).releasing = false ∧ s.fillOf c = none) ∧
    (∃ (s : State) (m c : Nat), s.asks m 0x0322 = true ∧ s.gable.gstate = .running ∧ (s.req m).len = 4 ∧ (s.req m).num 0 1 = c ∧ c < 32 ∧ (s.req m).zero 1 3 = true) ∧
    (∃ (s : State) (w : Who) (c : Nat) (stop clear : Bool), c < 32 ∧ s.reaches w (hubBase 4 + c * 0x100) true = true ∧ s.dmaGranted c w.src = true ∧ ((s.dmaCh c).held = false ∨ w.src = 0x800) ∧ (s.dmaCh c).state = .idle ∧ s.pkgAwake = true ∧ (s.dmaCh c).shadow.valid = true ∧ (s.dmaCh c).shadow.timed = false) ∧
    (∃ (s : State) (w : Who) (c p : Nat) (stop clear : Bool), c < 32 ∧ s.reaches w (hubBase 4 + c * 0x100) true = true ∧ s.dmaGranted c w.src = true ∧ ((s.dmaCh c).held = false ∨ w.src = 0x800) ∧ (s.dmaCh c).state = .idle ∧ s.pkgAwake = true ∧ (s.dmaCh c).shadow.valid = true ∧ (s.dmaCh c).shadow.timed = true ∧ p = expandShort (bitsOf (s.dmaCh c).shadow.startAt.toNat 40 8) (bitsOf (s.dmaCh c).shadow.startAt.toNat 0 40) (s.ps 8)) ∧
    (∃ (s : State) (w : Who) (c : Nat) (stop clear : Bool), c < 32 ∧ s.reaches w (hubBase 4 + c * 0x100) true = true ∧ s.dmaGranted c w.src = true ∧ ((s.dmaCh c).held = false ∨ w.src = 0x800) ∧ (s.dmaCh c).state = .idle ∧ s.pkgAwake = true ∧ (s.dmaCh c).shadow.valid = false) ∧
    (∃ (s : State) (w : Who) (c : Nat) (clear : Bool), c < 32 ∧ s.reaches w (hubBase 4 + c * 0x100) true = true ∧ s.dmaGranted c w.src = true ∧ ((s.dmaCh c).held = false ∨ w.src = 0x800) ∧ ((s.dmaCh c).state = .wait ∨ (s.dmaCh c).state = .busy ∨ (s.dmaCh c).state = .readback)) ∧
    (∃ (s : State) (w : Who) (c : Nat) (stop : Bool), c < 32 ∧ s.reaches w (hubBase 4 + c * 0x100) true = true ∧ s.dmaGranted c w.src = true ∧ ((s.dmaCh c).held = false ∨ w.src = 0x800) ∧ (s.dmaCh c).state = .halted) ∧
    (∃ (s : State) (w : Who) (c : Nat), c < 32 ∧ s.reaches w (hubBase 4 + c * 0x100) true = true ∧ s.dmaGranted c w.src = true ∧ (s.dmaCh c).releasing = false ∧ (s.dmaCh c).pendingEnable = false ∧ s.fillOf c = none) ∧
    (∃ (s : State) (w : Who) (c : Nat), c < 32 ∧ s.reaches w (hubBase 4 + c * 0x100) true = true ∧ s.dmaGranted c w.src = true ∧ ((s.dmaCh c).held = false ∨ w.src = 0x800)) ∧
    (∃ (s : State) (w : Who) (c : Nat), c < 32 ∧ s.reaches w (hubBase 4 + c * 0x100) true = true ∧ s.dmaGranted c w.src = true) ∧
    (∃ (s : State) (w : Who) (c : Nat), c < 32 ∧ s.reaches w (hubBase 4 + c * 0x100) true = true ∧ s.dmaGranted c w.src = false) ∧
    (∃ (s : State) (m c : Nat), s.asks m 0x0303 = true ∧ s.hasRoom m = true ∧ s.gable.gstate = .running ∧ (s.req m).len = 24 ∧ (s.req m).num 0 8 % 64 = 0 ∧ (s.req m).num 8 8 % 64 = 0 ∧ 0 < (s.req m).num 8 8 ∧ (s.req m).num 0 8 + (s.req m).num 8 8 ≤ 2 ^ 42 ∧ s.mayWriteAll (s.mbx m).opener ((s.req m).num 0 8) ((s.req m).num 0 8 + (s.req m).num 8 8 - 1) = true ∧ s.dmaFreeCh c = true ∧ (∀ k ∈ List.range c, s.dmaFreeCh k = false)) ∧
    (∃ (s : State) (m : Nat), s.asks m 0x0303 = true ∧ s.hasRoom m = true ∧ s.gable.gstate = .running ∧ (s.req m).len = 24 ∧ (s.req m).num 0 8 % 64 = 0 ∧ (s.req m).num 8 8 % 64 = 0 ∧ 0 < (s.req m).num 8 8 ∧ (s.req m).num 0 8 + (s.req m).num 8 8 ≤ 2 ^ 42 ∧ s.mayWriteAll (s.mbx m).opener ((s.req m).num 0 8) ((s.req m).num 0 8 + (s.req m).num 8 8 - 1) = true ∧ (∀ k ∈ List.range 32, s.dmaFreeCh k = false)) :=
  ⟨⟨(asking (dmaIn .idle dmaFill []) 0x0320 ([0xFF, 1, 0, 0] ++ leBytes 2 5 ++ leBytes 2 0xFFF)), 0, 0, by decide +kernel⟩,
   ⟨(asking (dmaIn .idle dmaFill []) 0x0320 ([3, 1, 0, 0] ++ leBytes 2 5 ++ leBytes 2 0xFFF)), 0, by decide +kernel⟩,
   ⟨(asking (dmaIn .busy dmaFill [dmaBeat true false]) 0x0321 [3, 0, 0, 0]), 0, 3, by decide +kernel⟩,
   ⟨(asking (dmaIn .busy dmaFill []) 0x0322 [3, 0, 0, 0]), 0, 3, by decide +kernel⟩,
   ⟨(dmaIn .idle dmaFill []), who0, 3, true, true, by decide +kernel⟩,
   ⟨(dmaIn .idle { dmaFill with cfg := 0x102, startAt := 77 } []), who0, 3, 77, false, false, by decide +kernel⟩,
   ⟨(dmaIn .idle DmaSet.reset []), who0, 3, false, false, by decide +kernel⟩,
   ⟨(dmaIn .busy dmaFill []), who0, 3, true, by decide +kernel⟩,
   ⟨(dmaIn .halted dmaFill []), who0, 3, true, by decide +kernel⟩,
   ⟨(dmaIn .busy dmaFill [dmaBeat true false]), who0, 3, by decide +kernel⟩,
   ⟨(dmaIn .halted dmaFill []), who0, 3, by decide +kernel⟩,
   ⟨((dmaIn .busy dmaFill []).modDma 3 fun x => { x with rdBytes := 5 }), who0, 3, by decide +kernel⟩,
   ⟨opened (dmaIn .busy dmaFill []) (hubBase 4) 0x003, { src := 0x003, priv := false, effect := true }, 4, by decide +kernel⟩,
   ⟨(asking dramMapped 0x0303 (leBytes 8 0x1000 ++ leBytes 8 0x1000 ++ leBytes 8 5)), 0, 0, by decide +kernel⟩,
   ⟨(asking ((List.range 32).foldl (fun (s : State) c => s.modDma c fun x => { x with valid := true }) dramMapped) 0x0303 (leBytes 8 0x1000 ++ leBytes 8 0x1000 ++ leBytes 8 5)), 0, by decide +kernel⟩⟩

theorem witness_dmaTransfers :
    (∃ (s : State) (c : Nat), (s.dmaCh c).state = .wait ∧ (s.dmaCh c).startP ≤ s.ps 8) ∧
    (∃ (s : State) (c : Nat), (s.dmaCh c).state = .wait ∧ s.ps 8 < (s.dmaCh c).startP) ∧
    (∃ (s : State) (c : Nat) (kind : BeatKind) (b : Beat) (tag : BitVec 10), c < 32 ∧ (s.dmaCh c).nextBeat kind = some b ∧ s.dmaTurn c = true ∧ (s.master (dmaMid c)).freeTag = some tag) ∧
    (∃ (s : State) (c : Nat) (k : Pkt) (rest : List Pkt) (o : Outst) (b : Beat), (s.master (dmaMid c)).rsps = k :: rest ∧ (s.master (dmaMid c)).out.find? (fun o => o.tag == k.tag) = some o ∧ (s.dmaCh c).beats.find? (fun b => b.tag == o.tag && b.retryAt.isNone) = some b ∧ k.resp = respOk ∧ k.poison = false ∧ b.write = false ∧ b.side = false ∧ b.rb = false ∧ (s.dmaCh c).state = .busy ∧ (s.dmaCh c).active.mode = 0 ∧ (s.dmaCh c).wrPos ≤ b.pos ∧ (s.dmaCh c).wrPos ≠ (s.dmaCh c).active.dstShape.total) ∧
    (∃ (s : State) (c : Nat) (k : Pkt) (rest : List Pkt) (o : Outst) (b : Beat), (s.master (dmaMid c)).rsps = k :: rest ∧ (s.master (dmaMid c)).out.find? (fun o => o.tag == k.tag) = some o ∧ (s.dmaCh c).beats.find? (fun b => b.tag == o.tag && b.retryAt.isNone) = some b ∧ k.resp = respOk ∧ k.poison = false ∧ b.write = true ∧ b.rb = false ∧ (s.dmaCh c).state = .busy ∧ (s.dmaCh c).active.mode ≠ 3) ∧
    (∃ (s : State) (c : Nat) (k : Pkt) (rest : List Pkt) (o : Outst) (b : Beat), (s.master (dmaMid c)).rsps = k :: rest ∧ (s.master (dmaMid c)).out.find? (fun o => o.tag == k.tag) = some o ∧ (s.dmaCh c).beats.find? (fun b => b.tag == o.tag && b.retryAt.isNone) = some b ∧ k.resp = respOk ∧ k.poison = false ∧ b.rb = true ∧ (s.dmaCh c).state = .readback ∧ s.fillOf c = none ∧ (s.dmaCh c).committed = false) ∧
    (∃ (s : State) (c : Nat) (k : Pkt) (rest : List Pkt) (o : Outst) (b : Beat), (s.master (dmaMid c)).rsps = k :: rest ∧ (s.master (dmaMid c)).out.find? (fun o => o.tag == k.tag) = some o ∧ (s.dmaCh c).beats.find? (fun b => b.tag == o.tag && b.retryAt.isNone) = some b ∧ (k.resp = respTgtErr ∨ k.resp = respBayDown ∨ k.resp = respTimeout) ∧ b.tries < (s.dmaCh c).active.retry ∧ (s.dmaCh c).state ≠ .stopping) ∧
    (∃ (s : State) (c : Nat) (k : Pkt) (rest : List Pkt) (o : Outst) (b : Beat), (s.master (dmaMid c)).rsps = k :: rest ∧ (s.master (dmaMid c)).out.find? (fun o => o.tag == k.tag) = some o ∧ (s.dmaCh c).beats.find? (fun b => b.tag == o.tag && b.retryAt.isNone) = some b ∧ (k.resp = respDenied ∨ k.resp = respNoTarget) ∧ (s.dmaCh c).state ≠ .stopping ∧ (s.dmaCh c).releasing = false ∧ s.fillOf c = none) ∧
    (∃ (s : State) (c : Nat) (tag tg : BitVec 10) (b : Beat), c < 32 ∧ (s.dmaCh c).beats.find? (fun b => b.tag == tag && b.retryAt.any (fun t => decide (t ≤ s.now))) = some b ∧ ((s.dmaCh c).state = .busy ∨ (s.dmaCh c).state = .readback) ∧ (s.master (dmaMid c)).freeTag = some tg) :=
  ⟨⟨(dmaIn .wait dmaFill []), 3, by decide +kernel⟩,
   ⟨((dmaIn .wait dmaFill []).modDma 3 fun x => { x with startP := 5 }), 3, by decide +kernel⟩,
   ⟨(dmaIn .busy dmaFill []), 3, .write, { write := true, side := true, addr := 0x1000, len := 64, data := (List.replicate 8 [5, 0, 0, 0, 0, 0, 0, 0]).flatten }, 0, by decide +kernel⟩,
   ⟨(dmaAnswer .busy dmaCopy false false 0), 3, { cls := .rsp, tag := 9, resp := 0, data := List.replicate 64 7 }, [], { tag := 9 }, dmaBeat false false, by decide +kernel⟩,
   ⟨((dmaAnswer .busy dmaFill true false 0).modDma 3 fun x => { x with wrPos := 64, bufCnt := 64 }), 3, { cls := .rsp, tag := 9, resp := 0, data := List.replicate 64 7 }, [], { tag := 9 }, dmaBeat true false, by decide +kernel⟩,
   ⟨((dmaAnswer .readback dmaFill false true 0).modDma 3 fun x => { x with irqDone := true }), 3, { cls := .rsp, tag := 9, resp := 0, data := List.replicate 64 7 }, [], { tag := 9 }, dmaBeat false true, by decide +kernel⟩,
   ⟨(dmaAnswer .busy dmaCopy false false respTimeout), 3, { cls := .rsp, tag := 9, resp := respTimeout, data := List.replicate 64 7 }, [], { tag := 9 }, dmaBeat false false, by decide +kernel⟩,
   ⟨(dmaAnswer .busy dmaCopy false false respDenied), 3, { cls := .rsp, tag := 9, resp := respDenied, data := List.replicate 64 7 }, [], { tag := 9 }, dmaBeat false false, by decide +kernel⟩,
   ⟨(dmaIn .busy dmaCopy [{ dmaBeat false false with retryAt := some 0 }]), 3, 9, 0, { dmaBeat false false with retryAt := some 0 }, by decide +kernel⟩⟩

theorem witness_mailboxOrder :
    (∃ (i : Instr) (c : Command) (s : State) (m : Nat), mailboxOf i = some (c, m) ∧ (s.rings m = false ∨ s.gable.gstate = .halted ∨ ((s.req m).cmd ≠ c.code ∧ (s.req m).cmd ∈ knownCodes))) ∧
    (∃ (i : Instr) (c : Command) (s : State) (m : Nat), mailboxOf i = some (c, m) ∧ s.rings m = true ∧ (s.req m).cmd = c.code ∧ (s.gable.gstate = .restarting ∨ s.gable.gstate = .failed)) ∧
    (∃ (i : Instr) (c : Command) (s : State) (m : Nat), mailboxOf i = some (c, m) ∧ s.rings m = true ∧ s.gable.gstate = .running ∧ (s.req m).cmd = c.code ∧ ((s.req m).flags ≠ 0 ∨ (s.req m).res ≠ 0 ∨ 240 < (s.req m).len)) ∧
    (∃ (i : Instr) (c : Command) (s : State) (m : Nat), mailboxOf i = some (c, m) ∧ s.rings m = true ∧ s.gable.gstate = .running ∧ (s.req m).cmd = c.code ∧ (s.req m).flags = 0 ∧ (s.req m).res = 0 ∧ (s.req m).len ≤ 240 ∧ s.sessionOk m (s.req m) = false) ∧
    (∃ (i : Instr) (c : Command) (s : State) (m : Nat), mailboxOf i = some (c, m) ∧ s.rings m = true ∧ s.gable.gstate = .running ∧ (s.req m).cmd = c.code ∧ (s.req m).flags = 0 ∧ (s.req m).res = 0 ∧ (s.req m).len ≤ 240 ∧ s.sessionOk m (s.req m) = true ∧ (s.req m).session ≠ 0 ∧ (s.req m).session = s.sid m ∧ ((s.mbx m).running.any fun x => x.seq == BitVec.ofNat 16 (s.req m).seq) = true) ∧
    (∃ (i : Instr) (c : Command) (s : State) (m : Nat) (q : BitVec 16) (st : BitVec 8), mailboxOf i = some (c, m) ∧ s.rings m = true ∧ s.gable.gstate = .running ∧ (s.req m).cmd = c.code ∧ (s.req m).flags = 0 ∧ (s.req m).res = 0 ∧ (s.req m).len ≤ 240 ∧ s.sessionOk m (s.req m) = true ∧ (s.req m).session ≠ 0 ∧ (s.req m).session = s.sid m ∧ ((s.mbx m).running.any fun x => x.seq == BitVec.ofNat 16 (s.req m).seq) = false ∧ (s.mbx m).recorded.find? (fun e => e.1 == BitVec.ofNat 16 (s.req m).seq) = some (q, st)) ∧
    (∃ (i : Instr) (c : Command) (s : State) (m : Nat), mailboxOf i = some (c, m) ∧ s.asks m (s.req m).cmd = true ∧ s.gable.gstate = .running ∧ (s.req m).cmd ≠ c.code ∧ (s.req m).cmd ∉ knownCodes) ∧
    (∃ (i : Instr) (c : Command) (s : State) (m : Nat), mailboxOf i = some (c, m) ∧ s.asks m c.code = true ∧ s.gable.gstate = .running ∧ c.may (s.heard m) m (s.req m) = false) ∧
    (∃ (i : Instr) (c : Command) (s : State) (m : Nat), mailboxOf i = some (c, m) ∧ s.asks m c.code = true ∧ s.gable.gstate = .running ∧ c.may (s.heard m) m (s.req m) = true ∧ c.argOk (s.heard m) (s.req m) = false) ∧
    (∃ (i : Instr) (c : Command) (s : State) (m : Nat), mailboxOf i = some (c, m) ∧ s.asks m c.code = true ∧ s.gable.gstate = .running ∧ c.may (s.heard m) m (s.req m) = true ∧ c.argOk (s.heard m) (s.req m) = true ∧ c.async = true ∧ s.hasRoom m = false) :=
  ⟨⟨.idGet 3, cmdIdGet, running, 3, rfl, by decide +kernel⟩,
   ⟨.idGet 0, cmdIdGet, (asking running 0 []).modGable fun g => { g with gstate := .failed }, 0, rfl, by decide +kernel⟩,
   ⟨.idGet 0, cmdIdGet, (asking running 0 []).modMbx 0 fun b => { b with req := tput 0 b.req 6 1 }, 0, rfl, by decide +kernel⟩,
   ⟨.idGet 0, cmdIdGet, (asking running 0 []).modMbx 0 fun b => { b with req := tput 0 b.req 8 77 }, 0, rfl, by decide +kernel⟩,
   ⟨.idGet 0, cmdIdGet, (asking running 0 []).modMbx 0 fun b => { b with running := [{ cmd := 0, seq := 5 }] }, 0, rfl, by decide +kernel⟩,
   ⟨.idGet 0, cmdIdGet, (asking running 0 []).modMbx 0 fun b => { b with recorded := [(5, 9)] }, 0, 5, 9, rfl, by decide +kernel⟩,
   ⟨.idGet 0, cmdIdGet, asking running 0x0F00 [], 0, rfl, by decide +kernel⟩,
   ⟨.memUp 0, cmdMemUp, (asking running 0x0301 [1, 0, 0, 0]).modMbx 0 fun b => { b with roles := 1 }, 0, rfl, by decide +kernel⟩,
   ⟨.memUp 0, cmdMemUp, asking running 0x0301 [1, 0, 0, 7], 0, rfl, by decide +kernel⟩,
   ⟨.memUp 0, cmdMemUp, (asking running 0x0301 [1, 0, 0, 0]).modMbx 0 fun b => { b with running := List.replicate 16 { cmd := 1, seq := 9 } }, 0, rfl, by decide +kernel⟩⟩

theorem witness_sessionCommands :
    (∃ (s : State) (m : Nat), s.asks m 0x0900 = true ∧ s.gable.gstate = .running ∧ (s.mbx m).bound = false ∧ (s.req m).len = 8 ∧ (s.req m).zero 2 2 = true ∧ ((s.req m).num 4 4 = 0 ∨ (100 ≤ (s.req m).num 4 4 ∧ (s.req m).num 4 4 ≤ 600000)) ∧ (s.req m).num 0 1 = s.ifVer / 256 ∧ (s.req m).num 1 1 ≤ s.ifVer % 256) ∧
    (∃ (s : State) (m : Nat), s.asks m 0x0900 = true ∧ s.gable.gstate = .running ∧ (s.req m).len = 8 ∧ (s.req m).zero 2 2 = true ∧ ((s.req m).num 4 4 = 0 ∨ (100 ≤ (s.req m).num 4 4 ∧ (s.req m).num 4 4 ≤ 600000)) ∧ ((s.mbx m).bound = true ∨ (s.req m).num 0 1 ≠ s.ifVer / 256 ∨ s.ifVer % 256 < (s.req m).num 1 1)) ∧
    (∃ (s : State) (m : Nat), s.asks m 0x0901 = true ∧ s.gable.gstate = .running ∧ (s.req m).len = 0 ∧ s.sid m ≠ 0 ∧ s.cfg.keepSess ≠ some (s.sid m) ∧ (s.cfg.stream.isOpen && s.cfg.stream.src == 3 && s.cfg.stream.mbx.any (fun k => k / 65536 == s.sid m)) = false) ∧
    (∃ (s : State) (m : Nat), s.asks m 0x0902 = true ∧ s.gable.gstate = .running ∧ (s.req m).len = 0 ∧ s.sid m ≠ 0) ∧
    (∃ (s : State) (m : Nat), s.hbDue m = true ∧ s.sid m ≠ 0 ∧ m < 64 ∧ s.cfg.keepSess ≠ some (s.sid m) ∧ (s.cfg.stream.isOpen && s.cfg.stream.src == 3 && s.cfg.stream.mbx.any (fun k => k / 65536 == s.sid m)) = false) ∧
    (∃ (s : State) (m : Nat), s.hbDue m = false) ∧
    (∃ (s : State) (m : Nat), s.asks m 0x0000 = true ∧ s.gable.gstate = .running ∧ (s.req m).len = 0) ∧
    (∃ (s : State) (m : Nat), s.asks m 0x0001 = true ∧ s.gable.gstate = .running ∧ (s.req m).len = 0) ∧
    (∃ (s : State) (m : Nat), s.asks m 0x0903 = true ∧ s.gable.gstate = .running ∧ (s.req m).len = 4 ∧ (s.req m).zero 1 3 = true ∧ (s.req m).num 0 1 < 64) ∧
    (∃ (s : State) (m : Nat), s.asks m 0x0203 = true ∧ s.gable.gstate = .running ∧ s.hasRole m roleC = true ∧ (s.req m).len = 8 ∧ (s.req m).zero 2 2 = true ∧ (s.req m).num 0 2 < 4096 ∧ s.isMaster (BitVec.ofNat 12 ((s.req m).num 0 2)) = true ∧ 1 ≤ (s.req m).num 4 4 ∧ (s.req m).num 4 4 ≤ 1048575 ∧ (s.flows.any fun e => e.2.used && e.2.mid == BitVec.ofNat 12 ((s.req m).num 0 2) && e.2.cls == .req && decide ((s.req m).num 4 4 * 1000 ≤ e.2.deadline.toNat)) = false) ∧
    (∃ (s : State) (m : Nat), s.asks m 0x0203 = true ∧ s.gable.gstate = .running ∧ s.hasRole m roleC = true ∧ (s.req m).len = 8 ∧ (s.req m).zero 2 2 = true ∧ (s.req m).num 0 2 < 4096 ∧ s.isMaster (BitVec.ofNat 12 ((s.req m).num 0 2)) = true ∧ 1 ≤ (s.req m).num 4 4 ∧ (s.req m).num 4 4 ≤ 1048575 ∧ (s.flows.any fun e => e.2.used && e.2.mid == BitVec.ofNat 12 ((s.req m).num 0 2) && e.2.cls == .req && decide ((s.req m).num 4 4 * 1000 ≤ e.2.deadline.toNat)) = true) ∧
    (∃ (s : State) (w : Who) (m : Nat), m < 64 ∧ s.reaches w (hubBase 1 + m * 0x1000 + 0x210) true = true) ∧
    (∃ (s : State) (w : Who) (m k : Nat) (e : Event) (rest : List Event), m < 64 ∧ s.reaches w (hubBase 1 + m * 0x1000 + 0x218) false = true ∧ (w.src ≠ 0x801 ∨ w.effect = true) ∧ s.mayPop w.src m = true ∧ s.mbxOut m = some k ∧ (s.evOut k).fifo = e :: rest) ∧
    (∃ (s : State) (w : Who) (m : Nat), m < 64 ∧ s.reaches w (hubBase 1 + m * 0x1000 + 0x218) false = true ∧ (w.src ≠ 0x801 ∨ w.effect = true)) :=
  ⟨⟨opening [2, 0, 0, 0, 0, 0, 0, 0], 5, by decide +kernel⟩,
   ⟨opening [2, 2, 0, 0, 0, 0, 0, 0], 5, by decide +kernel⟩,
   ⟨(asking (running.modFlow 1 fun f => { f with used := true, owner := 256 }) 0x0901 []), 0, by decide +kernel⟩,
   ⟨((asking running 0x0902 []).setNow 5), 0, by decide +kernel⟩,
   ⟨((asking running 0x0902 []).setNow 600000000000000), 0, by decide +kernel⟩,
   ⟨((asking (running.modGable fun g => { g with gstate := .halted }) 0x0902 []).setNow 600000000000000), 0, by decide +kernel⟩,
   ⟨(asking running 0 []), 0, by decide +kernel⟩,
   ⟨(asking running 1 []), 0, by decide +kernel⟩,
   ⟨(asking running 0x0903 [0, 0, 0, 0]), 0, by decide +kernel⟩,
   ⟨(asking running 0x0203 (leBytes 2 3 ++ [0, 0] ++ leBytes 4 500)), 0, by decide +kernel⟩,
   ⟨(asking (running.modFlow 1 fun f => { f with used := true, mid := 3, deadline := 900000 }) 0x0203 (leBytes 2 3 ++ [0, 0] ++ leBytes 4 500)), 0, by decide +kernel⟩,
   ⟨(asking running 0x0903 []), who0, 0, by decide +kernel⟩,
   ⟨evq, { src := 0x801, priv := true, effect := true }, 0, 2, { evid := 0x380, evdata := 7, stamp := 9 }, [], by decide +kernel⟩,
   ⟨evq, who0, 0, by decide +kernel⟩⟩

theorem witness_gableRestarts :
    (∃ (s : State), s.gable.wdtAt + 100000000000 ≤ s.now ∧ (s.gable.haltReq = false ∨ s.gable.haltAt ≠ s.now) ∧ (s.gable.gstate = .running ∨ s.gable.gstate = .recovery) ∧ s.engineRuns = true) ∧
    (∃ (s : State), s.now < s.gable.wdtAt + 100000000000 ∨ (s.gable.haltReq = true ∧ s.gable.haltAt = s.now) ∨ s.engineRuns = false) ∧
    (∃ (s : State) (cause : BitVec 3) (a : BitVec 32) (r1 r2 : Bool), (cause = 2 ∨ cause = 3 ∨ cause = 4) ∧ s.engineRuns = true ∧ s.gable.gstate ≠ .failed ∧ s.gable.gstate ≠ .halted) ∧
    (∃ (s : State) (a : BitVec 32), s.gable.gstate = .restarting ∧ s.engineRuns = true) ∧
    (∃ (s : State) (a : BitVec 32) (ok : Bool), s.gable.gstate = .restarting ∧ s.engineRuns = true) ∧
    (∃ (s : State) (u : Upset), (s.gable.gstate = .running ∨ s.gable.gstate = .recovery) ∧ s.engineRuns = true ∧ s.gable.scrubAt + 10000000000000 ≤ s.now) :=
  ⟨⟨(running.setNow 100000000000), by decide +kernel⟩,
   ⟨(running.setNow 99999999999), by decide +kernel⟩,
   ⟨(running.modGable fun g => { g with gstate := .restarting, beginnings := 4 }), 3, 0, false, false, by decide +kernel⟩,
   ⟨(running.modGable fun g => { g with gstate := .restarting, beginnings := 2 }), 7, by decide +kernel⟩,
   ⟨(running.modGable fun g => { g with gstate := .restarting, beginnings := 2 }), 7, true, by decide +kernel⟩,
   ⟨(running.setNow 10000000000000), .double, by decide +kernel⟩⟩

theorem witness_clockCommands :
    (∃ (s : State) (m c : Nat), s.asks m 0x0600 = true ∧ s.gable.gstate = .running ∧ (s.req m).len = 4 ∧ (s.req m).zero 2 2 = true ∧ (s.req m).num 0 2 = c ∧ s.hasClock c = true ∧ (s.nodeState c = .stopped ∨ (s.node c).failed = false)) ∧
    (∃ (s : State) (m c : Nat), s.asks m 0x0600 = true ∧ s.gable.gstate = .running ∧ (s.req m).len = 4 ∧ (s.req m).zero 2 2 = true ∧ (s.req m).num 0 2 = c ∧ s.hasClock c = true ∧ s.nodeState c ≠ .stopped ∧ (s.node c).failed = true) ∧
    (∃ (s : State) (m c src fb : Nat), s.asks m 0x0601 = true ∧ s.hasRoom m = true ∧ s.gable.gstate = .running ∧ s.hasRole m roleC = true ∧ (s.req m).len = 4 ∧ (s.req m).num 0 2 = c ∧ (s.req m).num 2 1 = src ∧ (s.req m).num 3 1 = fb ∧ s.hasClock c = true ∧ (codeType c = 0xD ∨ codeType c = 0xE) ∧ s.sourceFits c src = true ∧ (fb = 0x3F ∨ s.sourceFits c fb = true) ∧ (s.node c).selMbx = none ∧ (s.node c).state ≠ .stopped ∧ s.onFlowNode c = false ∧ s.sourceRuns c src = true) ∧
    (∃ (s : State) (m src fb : Nat), s.asks m 0x0601 = true ∧ s.hasRoom m = true ∧ s.gable.gstate = .running ∧ s.hasRole m roleC = true ∧ (s.req m).len = 4 ∧ (s.req m).num 0 2 = 0x8F00 ∧ (s.req m).num 2 1 = src ∧ (s.req m).num 3 1 = fb ∧ src ≤ 2 ∧ (fb = 0x3F ∨ fb ≤ 2) ∧ (s.node 0x8F00).selMbx = none ∧ (s.node 0x8F00).state ≠ .stopped ∧ s.onFlowNode 0x8F00 = false ∧ s.sourceRuns 0x8F00 src = true) ∧
    (∃ (s : State) (m c : Nat), s.asks m 0x0601 = true ∧ s.hasRoom m = true ∧ s.gable.gstate = .running ∧ s.hasRole m roleC = true ∧ (s.req m).num 0 2 = c ∧ clkArgOk s (s.req m) = true ∧ ((s.node c).selMbx ≠ none ∨ (s.node c).state = .stopped ∨ s.onFlowNode c = true)) ∧
    (∃ (s : State) (m c : Nat) (src : BitVec 6), s.asks m 0x0602 = true ∧ s.gable.gstate = .running ∧ s.hasRole m roleC = true ∧ (s.req m).len = 4 ∧ (s.req m).zero 2 2 = true ∧ (s.req m).num 0 2 = c ∧ s.hasClock c = true ∧ (s.node c).newSource = some src ∧ (s.node c).forceOk = true ∧ (s.node c).selMbx.isSome = true) ∧
    (∃ (s : State) (m c : Nat), s.asks m 0x0602 = true ∧ s.gable.gstate = .running ∧ s.hasRole m roleC = true ∧ (s.req m).len = 4 ∧ (s.req m).zero 2 2 = true ∧ (s.req m).num 0 2 = c ∧ s.hasClock c = true ∧ ((s.node c).newSource = none ∨ (s.node c).forceOk = false)) ∧
    (∃ (s : State) (c : Nat) (src : BitVec 6), (s.node c).newSource = some src ∧ s.hasClock c = true ∧ (s.node c).stop = false ∧ (s.node c).failed = false ∧ (s.node c).state = .running ∧ s.sourceRuns c (s.node c).source.toNat = true ∧ s.sourceRuns c src.toNat = true) ∧
    (∃ (s : State) (c : Nat), (s.node c).newSource = none ∨ (s.node c).failed = true ∨ (s.node c).stop = true ∨ s.sourceRuns c (s.node c).source.toNat = false) :=
  ⟨⟨(asking (nodeIn 0x0D03 fun n => { n with state := .running, freq := 5, source := 24 }) 0x0600 (leBytes 2 0x0D03 ++ [0, 0])), 0, 0x0D03, by decide +kernel⟩,
   ⟨(asking (nodeIn 0x0D03 fun n => { n with failed := true, state := .failed }) 0x0600 (leBytes 2 0x0D03 ++ [0, 0])), 0, 0x0D03, by decide +kernel⟩,
   ⟨(asking ((nodeIn 0x0D00 fun n => { n with state := .running }).modNode 0x8F00 fun n => { n with state := .running }) 0x0601 (leBytes 2 0x0D00 ++ [24, 0x3F])), 0, 0x0D00, 24, 0x3F, by decide +kernel⟩,
   ⟨(asking (nodeIn 0x8F00 fun n => { n with state := .running }) 0x0601 (leBytes 2 0x8F00 ++ [0, 0x3F])), 0, 0, 0x3F, by decide +kernel⟩,
   ⟨(asking (nodeIn 0x0D00 fun n => { n with selMbx := some 7 }) 0x0601 (leBytes 2 0x0D00 ++ [24, 0x3F])), 0, 0x0D00, by decide +kernel⟩,
   ⟨(asking (nodeIn 0x0D00 fun n => { n with selMbx := some 7, newSource := some 24, forceOk := true, failed := true }) 0x0602 (leBytes 2 0x0D00 ++ [0, 0])), 0, 0x0D00, 24, by decide +kernel⟩,
   ⟨(asking (nodeIn 0x0D00 fun n => { n with selMbx := some 7, newSource := some 24 }) 0x0602 (leBytes 2 0x0D00 ++ [0, 0])), 0, 0x0D00, by decide +kernel⟩,
   ⟨((nodeIn 0x0D00 fun n => { n with source := 24, state := .running, newSource := some 24 }).modNode 0x8F00 fun n => { n with state := .running }), 0x0D00, 24, by decide +kernel⟩,
   ⟨(nodeIn 0x0D00 fun n => { n with newSource := some 24, failed := true }), 0x0D00, by decide +kernel⟩⟩

theorem witness_clockFailures :
    (∃ (s : State) (c : Nat), s.monitored c = false) ∧
    (∃ (s : State) (c : Nat), s.monitored c = true ∧ (codeType c = 8 ∨ codeType c = 4 ∨ codeType c = 9 ∨ (codeType c = 0xD ∧ (s.node c).fallback = 0x3F))) ∧
    (∃ (s : State) (c : Nat), s.monitored c = true ∧ codeType c = 6) ∧
    (∃ (s : State) (c : Nat), s.monitored c = true ∧ codeType c = 0xD ∧ (s.node c).fallback ≠ 0x3F ∧ (s.node c).fallback ≠ (s.node c).source ∧ (s.node c).fallback.toNat = 24 ∧ s.sourceFits c 24 = true ∧ s.prefGood = true ∧ (s.node c).newSource = none) ∧
    (∃ (s : State) (c : Nat), s.monitored c = true ∧ 1 ≤ codeType c ∧ codeType c ≤ 3) ∧
    (∃ (s : State), s.monitored 0x8F00 = true ∧ s.cfg.phase = .running) ∧
    (∃ (s : State), s.monitored 0x8F00 = true ∧ s.cfg.phase ≠ .running ∧ (s.node 0x8F00).source = 0) ∧
    (∃ (s : State) (c : Nat) (khz : BitVec 32), s.hasClock c = true ∧ (s.node c).failed = true ∧ s.feedRuns c = true ∧ (codeType c = 4 ∨ codeType c = 8 ∨ codeType c = 0xD ∨ codeType c = 0xE)) ∧
    (∃ (s : State) (c : Nat) (khz : BitVec 32), (s.node c).failed = false ∧ (c ≠ 0x8F00 ∨ s.cfg.abandoned = false)) ∧
    (∃ (s : State), s.clk.aoclkFail = false) ∧
    (∃ (s : State), s.clk.aoclkFail = true) :=
  ⟨⟨(nodeIn 0x0800 fun n => { n with state := .stopped }), 0x0800, by decide +kernel⟩,
   ⟨(nodeIn 0x0400 fun n => { n with state := .running }), 0x0400, by decide +kernel⟩,
   ⟨(dramIn .up), 0x8602, by decide +kernel⟩,
   ⟨((nodeIn 0x0D00 fun n => { n with state := .running, fallback := 24 }).modNode 0x8F00 fun n => { n with state := .running }), 0x0D00, by decide +kernel⟩,
   ⟨(nodeIn 0x8200 fun n => { n with state := .running }), 0x8200, by decide +kernel⟩,
   ⟨(nodeIn 0x8F00 fun n => { n with state := .running }), by decide +kernel⟩,
   ⟨((nodeIn 0x8F00 fun n => { n with state := .running }).modCfg fun c => { c with phase := .p0 }), by decide +kernel⟩,
   ⟨(nodeIn 0x0400 fun n => { n with state := .failed, failed := true }), 0x0400, 1000000, by decide +kernel⟩,
   ⟨running, 0x0400, 1000000, by decide +kernel⟩,
   ⟨(pkgIn .deep), by decide +kernel⟩,
   ⟨(running.modClk fun k => { k with aoclkFail := true }), by decide +kernel⟩⟩

theorem witness_powerCommands :
    (∃ (s : State) (m d st : Nat), s.asks m 0x0603 = true ∧ s.hasRoom m = true ∧ s.gable.gstate = .running ∧ s.hasRole m roleC = true ∧ (s.req m).len = 4 ∧ (s.req m).num 0 1 = 1 ∧ (s.req m).num 1 1 = d ∧ d < s.fdies ∧ (s.req m).num 3 1 = st ∧ (st = 2 ∨ st = 3) ∧ s.flowForbids 1 d 0 st = false ∧ (s.elem 1 d 0).phase = .steady ∧ ((s.elem 1 d 0).state = .active ∨ (s.elem 1 d 0).state = .idle) ∧ s.dieLoads d = false) ∧
    (∃ (s : State) (m d b : Nat), s.asks m 0x0603 = true ∧ s.hasRoom m = true ∧ s.gable.gstate = .running ∧ s.hasRole m roleC = true ∧ (s.req m).len = 4 ∧ (s.req m).num 0 1 = 2 ∧ (s.req m).num 1 1 = d ∧ d < s.fdies ∧ (s.req m).num 2 1 = b ∧ b < 96 ∧ (s.req m).num 3 1 = 3 ∧ s.flowForbids 2 d b 3 = false ∧ (s.elem 2 d b).phase = .steady ∧ (s.elem 2 d b).state ≠ .deep ∧ (s.bay d b).state = .active ∧ s.dieAwake d = true ∧ (s.bay d b).runCmd = none) ∧
    (∃ (s : State) (m d b : Nat), s.asks m 0x0603 = true ∧ s.hasRoom m = true ∧ s.gable.gstate = .running ∧ s.hasRole m roleC = true ∧ (s.req m).len = 4 ∧ (s.req m).num 0 1 = 2 ∧ (s.req m).num 1 1 = d ∧ d < s.fdies ∧ (s.req m).num 2 1 = b ∧ b < 96 ∧ (s.req m).num 3 1 = 1 ∧ s.flowForbids 2 d b 1 = false ∧ (s.elem 2 d b).phase = .steady ∧ (s.bay d b).state = .active ∧ s.dieAwake d = true ∧ (s.elem 2 d b).state ≠ .idle ∧ (s.bay d b).runCmd = none) ∧
    (∃ (s : State) (m d b : Nat), s.asks m 0x0603 = true ∧ s.hasRoom m = true ∧ s.gable.gstate = .running ∧ s.hasRole m roleC = true ∧ (s.req m).len = 4 ∧ (s.req m).num 0 1 = 2 ∧ (s.req m).num 1 1 = d ∧ d < s.fdies ∧ (s.req m).num 2 1 = b ∧ b < 96 ∧ (s.req m).num 3 1 = 3 ∧ s.flowForbids 2 d b 3 = false ∧ (s.elem 2 d b).phase = .steady ∧ ((s.bay d b).state ≠ .active ∨ s.dieAwake d = false ∨ (s.bay d b).runCmd.isSome = true)) ∧
    (∃ (s : State) (m d r : Nat), s.asks m 0x0603 = true ∧ s.hasRoom m = true ∧ s.gable.gstate = .running ∧ s.hasRole m roleC = true ∧ (s.req m).len = 4 ∧ (s.req m).num 0 1 = 3 ∧ (s.req m).num 1 1 = d ∧ (s.req m).num 2 1 = r ∧ s.hasRouter d r = true ∧ ((s.req m).num 3 1 = 0 ∨ ((s.req m).num 3 1 = 1 ∧ s.flowForbids 3 d r 1 = false ∧ s.quiet d r = true))) ∧
    (∃ (s : State) (m kind d i st : Nat), s.asks m 0x0603 = true ∧ s.hasRoom m = true ∧ s.gable.gstate = .running ∧ s.hasRole m roleC = true ∧ (s.req m).len = 4 ∧ (s.req m).num 0 1 = kind ∧ 1 ≤ kind ∧ kind ≤ 3 ∧ (s.req m).num 1 1 = d ∧ i = (if kind = 1 then 0 else (s.req m).num 2 1) ∧ (s.req m).num 3 1 = st ∧ 0 < st ∧ powerArgOk s kind d ((s.req m).num 2 1) st false = true ∧ s.flowForbids kind d i st = true) ∧
    (∃ (s : State) (m kind d i : Nat), s.asks m 0x0603 = true ∧ s.hasRoom m = true ∧ s.gable.gstate = .running ∧ s.hasRole m roleC = true ∧ (s.req m).len = 4 ∧ (s.req m).num 0 1 = kind ∧ (kind = 1 ∨ kind = 2) ∧ (s.req m).num 1 1 = d ∧ d < s.fdies ∧ i = (if kind = 1 then 0 else (s.req m).num 2 1) ∧ i < 96 ∧ (s.req m).num 3 1 = 0 ∧ (s.elem kind d i).phase = .steady) ∧
    (∃ (s : State) (m : Nat), s.asks m 0x0603 = true ∧ s.hasRoom m = true ∧ s.gable.gstate = .running ∧ s.hasRole m roleC = true ∧ (s.req m).len = 4 ∧ (s.req m).num 0 1 = 0 ∧ (s.req m).num 3 1 = 3 ∧ s.clk.pkg = .active ∧ s.clk.aoclkFail = false ∧ (∀ c ∈ List.range 32, (s.dmaCh c).state = .idle ∨ (s.dmaCh c).state = .halted) ∧ (∀ d ∈ List.range s.fdies, s.dieLoads d = false ∧ (s.elem 1 d 0).phase = .steady) ∧ (s.flows.any fun e => e.2.live) = false) ∧
    (∃ (s : State) (m kind d i st : Nat), s.asks m 0x0604 = true ∧ s.gable.gstate = .running ∧ s.hasRole m roleC = true ∧ (s.req m).len = 8 ∧ (s.req m).num 0 1 = kind ∧ (kind = 1 ∨ kind = 2) ∧ (s.req m).num 1 1 = d ∧ i = (if kind = 1 then 0 else (s.req m).num 2 1) ∧ (s.req m).num 3 1 = st ∧ powerArgOk s kind d ((s.req m).num 2 1) st true = true ∧ s.flowForbids kind d i st = false) ∧
    (∃ (s : State) (m d r st : Nat), s.asks m 0x0604 = true ∧ s.gable.gstate = .running ∧ s.hasRole m roleC = true ∧ (s.req m).len = 8 ∧ (s.req m).num 0 1 = 3 ∧ (s.req m).num 1 1 = d ∧ (s.req m).num 2 1 = r ∧ (s.req m).num 3 1 = st ∧ s.hasRouter d r = true ∧ st < 2 ∧ (s.req m).num 4 4 < 1024 ∧ s.flowForbids 3 d r st = false) ∧
    (∃ (s : State) (m kind d i : Nat), s.asks m 0x0605 = true ∧ s.gable.gstate = .running ∧ (s.req m).len = 4 ∧ (s.req m).zero 3 1 = true ∧ (s.req m).num 0 1 = kind ∧ (s.req m).num 1 1 = d ∧ i = (if kind = 1 then 0 else (s.req m).num 2 1) ∧ 0 < kind ∧ statusArgOk s kind d ((s.req m).num 2 1) = true) ∧
    (∃ (s : State) (m : Nat), s.asks m 0x0606 = true ∧ s.gable.gstate = .running ∧ s.hasRole m roleC = true ∧ (s.req m).len = 12 ∧ (s.req m).zero 1 3 = true ∧ (s.req m).num 0 1 < 64 ∧ (s.req m).num 4 8 < 2 ^ 48 ∧ (s.req m).num 4 8 % 2 ^ 40 < 1000000000000) :=
  ⟨⟨(asking running 0x0603 [1, 0, 0, 2]), 0, 0, 2, by decide +kernel⟩,
   ⟨(asking (bayIn .active) 0x0603 [2, 0, 3, 3]), 0, 0, 3, by decide +kernel⟩,
   ⟨(asking (bayIn .active) 0x0603 [2, 0, 3, 1]), 0, 0, 3, by decide +kernel⟩,
   ⟨(asking (bayIn .down) 0x0603 [2, 0, 3, 3]), 0, 0, 3, by decide +kernel⟩,
   ⟨(asking running 0x0603 [3, 0, 7, 1]), 0, 0, 7, by decide +kernel⟩,
   ⟨(asking (running.modFlow 1 fun f => { f with used := true, mid := 3, base := 0x400A00000000, len := 63, keep := true }) 0x0603 [2, 0, 5, 3]), 0, 2, 0, 5, 3, by decide +kernel⟩,
   ⟨(asking (elemIn 1 0 0 fun e => { e with state := .nap }) 0x0603 [1, 0, 0, 0]), 0, 1, 0, 0, by decide +kernel⟩,
   ⟨(asking ((List.range 4).foldl (fun (s : State) d => s.modElem 1 d 0 fun e => { e with state := .deep }) running) 0x0603 [0, 0, 0, 3]), 0, by decide +kernel⟩,
   ⟨(asking running 0x0604 [1, 0, 0, 2, 9, 0, 0, 0]), 0, 1, 0, 0, 2, by decide +kernel⟩,
   ⟨(asking running 0x0604 [3, 0, 7, 1, 9, 0, 0, 0]), 0, 0, 7, 1, by decide +kernel⟩,
   ⟨(asking (elemIn 2 0 3 fun e => { e with wakes := 5 }) 0x0605 [2, 0, 3, 0]), 0, 2, 0, 3, by decide +kernel⟩,
   ⟨(asking running 0x0606 ([8, 0, 0, 0] ++ leBytes 8 77)), 0, by decide +kernel⟩⟩

theorem witness_powerTransitions :
    (∃ (s : State) (kind d i : Nat) (ok : Bool), d < s.fdies ∧ (kind = 1 ∧ i = 0 ∨ kind = 2 ∧ i < 96) ∧ (s.elem kind d i).phase = .steady ∧ (s.elem kind d i).state ≠ .nap ∧ (s.elem kind d i).state ≠ .deep ∧ (ok = false ∨ (kind = 2 ∧ (s.master (bayMid d i)).out ≠ []))) ∧
    (∃ (s : State) (d b : Nat), d < s.fdies ∧ b < 96 ∧ (s.elem 2 d b).phase = .steady ∧ (s.elem 2 d b).state ≠ .nap ∧ (s.elem 2 d b).state ≠ .deep ∧ s.bayIdle d b = true) ∧
    (∃ (s : State) (d p : Nat), d < s.fdies ∧ (s.elem 1 d 0).phase = .steady ∧ ((s.elem 1 d 0).state = .active ∨ (s.elem 1 d 0).state = .idle) ∧ ((s.elem 1 d 0).deepest = .nap ∨ (s.elem 1 d 0).deepest = .deep) ∧ s.dieIdle d ((s.elem 1 d 0).deepest == .deep) = true ∧ (s.elem 1 d 0).idleAt = some p ∧ p + 1000000 + (s.elem 1 d 0).idleUs * 1000000 ≤ s.now ∧ s.flowHolds 1 d 0 = false ∧ s.dieLoads d = false) ∧
    (∃ (s : State) (kind d i : Nat), d < s.fdies ∧ (kind = 1 ∧ i = 0 ∨ kind = 2 ∧ i < 96) ∧ (s.elem kind d i).phase = .entering ∧ ((s.elem kind d i).target = .nap ∨ (s.elem kind d i).target = .deep)) ∧
    (∃ (s : State) (d i : Nat), s.clk.pkg = .entering ∧ (∀ n ∈ List.range 8, (s.chan n).state ≠ .training ∧ (s.chan n).state ≠ .shutting ∧ (s.chan n).state ≠ .exiting) ∧ (∀ k ∈ s.allLanesets, (s.laneset k).shutting = false) ∧ (s.clk.deepLinks = true ∨ ∀ k ∈ s.allLanesets, laneKind k = 2 ∨ (s.laneset k).state ≠ .active)) ∧
    (∃ (s : State) (d i k : Nat), s.clk.pkg = .entering ∧ (∀ n ∈ List.range 8, (s.chan n).state ≠ .training ∧ (s.chan n).state ≠ .shutting ∧ (s.chan n).state ≠ .exiting) ∧ s.clk.deepLinks = false ∧ s.allLanesets.contains k = true ∧ laneKind k ≠ 2 ∧ (s.laneset k).state = .active) ∧
    (∃ (s : State) (d r : Nat), s.clk.pkg = .active ∧ d < s.fdies ∧ r < 48 ∧ ((s.router d r).wq0 ≠ [] ∨ (s.router d r).wq1 ≠ []) ∧ (s.elem 1 d 0).phase = .steady) ∧
    (∃ (s : State) (d b : Nat), s.clk.pkg = .active ∧ d < s.fdies ∧ b < 96 ∧ s.dieAwake d = true) ∧
    (∃ (s : State) (kind d i : Nat), s.clk.pkg = .active ∧ d < s.fdies ∧ (kind = 1 ∧ i = 0 ∧ (s.elem 1 d 0).target ≠ .nap ∨ kind = 2 ∧ i < 96 ∧ s.dieAwake d = true) ∧ (s.elem kind d i).phase = .waking) ∧
    (∃ (s : State) (src : Nat), src < 6 ∧ s.clk.wakeEn.getLsbD src = true) ∧
    (∃ (s : State) (p : Nat), s.clk.alarmP = some p ∧ s.clk.pkg = .deep ∧ s.clk.wakeEn.getLsbD 3 = true ∧ p ≤ psOfCtr s.carriedCtr) ∧
    (∃ (s : State), s.clk.alarmP = none ∨ s.clk.wakeEn.getLsbD 3 = false) ∧
    (∃ (s : State), s.clk.pkg = .waking ∧ s.cfg.oscdAt = none ∧ s.srcAlive refclkSrc = true) :=
  ⟨⟨(elemIn 2 0 3 fun e => { e with state := .idle, idleAt := some 5 }), 2, 0, 3, false, by decide +kernel⟩,
   ⟨((elemIn 2 0 3 fun e => { e with idleAt := some 0, deepest := .deep }).setNow 1000000), 0, 3, by decide +kernel⟩,
   ⟨((idleDie.modElem 1 0 0 fun e => { e with idleAt := some 0, deepest := .nap }).setNow 1000000), 0, 0, by decide +kernel⟩,
   ⟨(elemIn 2 0 3 fun e => { e with phase := .entering, target := .deep, pendingEnable := true }), 2, 0, 3, by decide +kernel⟩,
   ⟨(pkgIn .entering), 0, 0, by decide +kernel⟩,
   ⟨(linkUp.modClk fun x => { x with pkg := .entering }), 0, 0, 0, by decide +kernel⟩,
   ⟨((elemIn 1 0 0 fun e => { e with state := .nap }).modRouter 0 7 fun x => { x with wq0 := [pk] }), 0, 7, by decide +kernel⟩,
   ⟨(elemIn 2 0 3 fun e => { e with state := .deep }), 0, 3, by decide +kernel⟩,
   ⟨(elemIn 1 0 0 fun e => { e with state := .nap, phase := .waking }), 1, 0, 0, by decide +kernel⟩,
   ⟨(pkgIn .deep), 2, by decide +kernel⟩,
   ⟨((pkgIn .deep).modClk fun k => { k with alarmP := some 0 }), 0, by decide +kernel⟩,
   ⟨running, by decide +kernel⟩,
   ⟨(pkgIn .waking), by decide +kernel⟩⟩

theorem witness_logCommands :
    (∃ (s : State) (m : Nat), s.asks m 0x0700 = true ∧ s.gable.gstate = .running ∧ (s.req m).len = 0) ∧
    (∃ (s : State) (m : Nat) (l : List (BitVec 32 × LogEntry)), s.asks m 0x0701 = true ∧ s.gable.gstate = .running ∧ (s.req m).len = 8 ∧ (s.req m).zero 5 3 = true ∧ 1 ≤ (s.req m).num 4 1 ∧ (s.req m).num 4 1 ≤ 7 ∧ l = (s.log.entries.drop (s.log.place ((s.req m).num 0 4))).take ((s.req m).num 4 1)) ∧
    (∃ (s : State) (m : Nat), s.asks m 0x0702 = true ∧ s.gable.gstate = .running ∧ s.hasRole m roleC = true ∧ (s.req m).len = 4) ∧
    (∃ (s : State) (m i : Nat), s.asks m 0x0702 = true ∧ s.gable.gstate = .running ∧ s.hasRole m roleC = true ∧ (s.req m).len = 4 ∧ (s.req m).num 0 4 = i ∧ (s.log.entries.map fun e => e.1.toNat) = (List.range s.log.entries.length).map (fun k => s.log.oldest + k) ∧ s.log.entries ≠ [] ∧ s.log.oldest ≤ i ∧ i ≤ s.log.newest) ∧
    (∃ (s : State) (m : Nat), s.asks m 0x0806 = true ∧ s.gable.gstate = .running ∧ (s.req m).len = 4 ∧ (s.req m).zero 2 2 = true ∧ (s.req m).num 0 1 < 16 ∧ (s.req m).num 1 1 < 22) ∧
    (∃ (s : State) (x : LogEv) (rest : List LogEv), s.gableServes = true ∧ s.engineRuns = true ∧ s.log.intake = x :: rest ∧ x.entry.typ ≠ 1 ∧ s.log.pendDrops = 0 ∧ s.log.entries.length < 4096) ∧
    (∃ (s : State) (x : LogEv) (rest : List LogEv), s.gableServes = true ∧ s.engineRuns = true ∧ s.log.intake = x :: rest ∧ x.entry.typ ≠ 1 ∧ s.log.pendDrops = 0 ∧ s.log.entries.length = 4096) ∧
    (∃ (s : State), s.gableServes = true ∧ s.engineRuns = true ∧ s.log.intake = [] ∧ s.log.pendDrops ≠ 0) ∧
    (∃ (s : State), s.gableServes = false ∨ s.engineRuns = false) :=
  ⟨⟨(asking (logged 3) 0x0700 []), 0, by decide +kernel⟩,
   ⟨(asking (logged 3) 0x0701 [1, 0, 0, 0, 1, 0, 0, 0]), 0, [(1, mkEntry 5 1 2 3 4)], by decide +kernel⟩,
   ⟨(asking (logged 3) 0x0702 [1, 0, 0, 0]), 0, by decide +kernel⟩,
   ⟨(asking ((logged 0).modLog fun l => { l with entries := [(4, mkEntry 5 1 2 3 4), (5, mkEntry 5 1 2 3 4), (6, mkEntry 5 1 2 3 4)] }) 0x0702 [5, 0, 0, 0]), 0, 5, by decide +kernel⟩,
   ⟨(asking running 0x0806 [8, 0, 0, 0]), 0, by decide +kernel⟩,
   ⟨(logged 3), { entry := mkEntry 6 1 2 3 4 }, [], by decide +kernel⟩,
   ⟨(logged 4096), { entry := mkEntry 6 1 2 3 4 }, [], by decide +kernel⟩,
   ⟨(running.modLog fun l => { l with pendDrops := 5 }), by decide +kernel⟩,
   ⟨State.reset, by decide +kernel⟩⟩

theorem witness_eventRouter :
    (∃ (s : State) (d n : Nat) (data : BitVec 32), d < s.fdies ∧ d ≠ 8 ∧ n < 64 ∧ s.nocRuns d = true ∧ s.fclkRuns d (Config.imageEvNet s.cfg.bundle d).toNat = true ∧ (s.cfg.phase = .p3 ∨ s.cfg.phase = .running) ∧ (s.die d).leggett.fenced = false ∧ (tget 0 s.evr.fabAt (64 * d + n) = 0 ∨ tget 0 s.evr.fabAt (64 * d + n) - 1 + s.nocPs 8 ≤ s.now)) ∧
    (∃ (s : State) (d n : Nat) (data : BitVec 32), s.fdies ≤ d ∨ 64 ≤ n ∨ s.nocRuns d = false ∨ s.fclkRuns d (Config.imageEvNet s.cfg.bundle d).toNat = false ∨ (s.cfg.phase ≠ .p3 ∧ s.cfg.phase ≠ .running) ∨ (s.die d).leggett.fenced = true) ∧
    (∃ (s : State) (w : Who) (data : BitVec 64), s.reaches w (hubBase 2 + 0x008) true = true) ∧
    (∃ (s : State) (e : Event) (rest : List Event), s.ridgeClock 8 = true ∧ s.evr.raised = e :: rest ∧ (∀ k ∈ List.range 64, (s.evOut k).typ ≠ 2)) ∧
    (∃ (s : State) (w : Who) (k : Nat) (e : Event) (rest : List Event), k < 64 ∧ s.reaches w (hubBase 2 + 0x1008 + k * 0x20) false = true ∧ (w.src ≠ 0x801 ∨ w.effect = true) ∧ s.outAllows w.src k = true ∧ (s.evOut k).fifo = e :: rest) ∧
    (∃ (s : State) (w : Who) (k : Nat), k < 64 ∧ s.reaches w (hubBase 2 + 0x1008 + k * 0x20) false = true ∧ (w.src ≠ 0x801 ∨ w.effect = true) ∧ s.outAllows w.src k = false) ∧
    (∃ (s : State) (w : Who) (k : Nat), k < 64 ∧ s.reaches w (hubBase 2 + 0x1014 + k * 0x20) true = true ∧ s.outAllows w.src k = true) ∧
    (∃ (s : State) (w : Who) (k : Nat), k < 64 ∧ s.reaches w (hubBase 2 + 0x1014 + k * 0x20) true = true ∧ s.outAllows w.src k = true) :=
  ⟨⟨allNets, 0, 5, 77, by decide +kernel, by decide, by decide, by decide +kernel, allNets_run _, by decide +kernel, by decide +kernel, by decide +kernel⟩,
   ⟨running, 0, 64, 77, by decide +kernel⟩,
   ⟨running, who0, 0x500000007, by decide +kernel⟩,
   ⟨evRouted, { evid := 0x380, evdata := 8, note := some (mkEntry 5 1 2 3 4) }, [], by decide +kernel⟩,
   ⟨evq, { src := 0x801, priv := true, effect := true }, 2, { evid := 0x380, evdata := 7, stamp := 9 }, [], by decide +kernel⟩,
   ⟨evq, who0, 2, by decide +kernel⟩,
   ⟨evq, { src := 0x801, priv := true, effect := true }, 2, by decide +kernel⟩,
   ⟨evq, { src := 0x801, priv := true, effect := true }, 2, by decide +kernel⟩⟩

theorem witness_softwareEvents : ∃ (s : State) (w : Who) (data : BitVec 64) (c : Instr), s.admits 0x1002 w.src (needsOf (whoOpc w true)) (BitVec.ofNat 48 (hubBase 2 + 0x008)) = true ∧ c ∈ [Instr.evrRaise w data, .registerWrite w (BitVec.ofNat 48 (hubBase 2 + 0x008)) true data] :=
  ⟨(opened running (hubBase 2 + 8) 0x005), { src := 0x005, priv := false, effect := true }, 0x500000007, (.registerWrite { src := 0x005, priv := false, effect := true } (BitVec.ofNat 48 (hubBase 2 + 0x008)) true 0x500000007), by decide +kernel⟩

theorem witness_servicePins :
    (∃ (s : State) (w : Who) (n : Nat) (v : BitVec 32), n < 64 ∧ s.reaches w (hubBase 6 + (0x100 + 4 * n)) true = true ∧ w.priv = true ∧ s.spFixed = false ∧ spFuncOk (bitsOf v.toNat 0 7) = true ∧ bitsOf v.toNat 12 2 ≠ 3 ∧ (s.sp n).switching = false ∧
      (bitsOf v.toNat 0 7 ≠ (s.sp n).func.toNat ∨ bitsOf v.toNat 8 6 ≠ (s.sp n).pad) ∧ (∀ m ∈ List.range 64, m ≠ n → bitsOf v.toNat 0 7 = 0x7F ∨ (s.sp m).shown ≠ bitsOf v.toNat 0 7)) ∧
    (∃ (s : State) (w : Who) (n m : Nat) (v : BitVec 32), n < 64 ∧ m < 64 ∧ m ≠ n ∧ s.reaches w (hubBase 6 + (0x100 + 4 * n)) true = true ∧ w.priv = true ∧ s.spFixed = false ∧ spFuncOk (bitsOf v.toNat 0 7) = true ∧ bitsOf v.toNat 0 7 ≠ 0x7F ∧ bitsOf v.toNat 12 2 ≠ 3 ∧
      (s.sp n).switching = false ∧ (s.sp m).switching = false ∧ (s.sp m).shown = bitsOf v.toNat 0 7 ∧ (s.sp n).func.toNat ≠ bitsOf v.toNat 0 7 ∧ (∀ k ∈ List.range 64, k ≠ n → k ≠ m → (s.sp k).shown ≠ bitsOf v.toNat 0 7)) ∧
    (∃ (s : State) (w : Who) (n : Nat) (v : BitVec 32), n < 64 ∧ s.reaches w (hubBase 6 + (0x100 + 4 * n)) true = true ∧ w.priv = true ∧ ((s.sp n).switching = true ∨ s.spFixed = true ∨ spFuncOk (bitsOf v.toNat 0 7) = false ∨ bitsOf v.toNat 12 2 = 3)) ∧
    (∃ (s : State) (w : Who) (n : Nat) (v : BitVec 32), n < 64 ∧ s.reaches w (hubBase 6 + (0x100 + 4 * n)) true = true ∧ w.priv = false) ∧
    (∃ (s : State) (w : Who) (n : Nat) (v : BitVec 32), n < 64 ∧ s.reaches w (hubBase 6 + (0x100 + 4 * n)) true = true ∧ w.priv = true ∧ s.spFixed = false ∧ spFuncOk (bitsOf v.toNat 0 7) = true ∧ bitsOf v.toNat 12 2 ≠ 3 ∧ (s.sp n).switching = false ∧
      bitsOf v.toNat 0 7 = (s.sp n).func.toNat ∧ bitsOf v.toNat 8 6 = (s.sp n).pad ∧ (∀ m ∈ List.range 64, (s.sp m).switching = false)) ∧
    (∃ (s : State) (n : Nat), n < 64 ∧ (s.sp n).switching = true ∧ s.nodeGood 0x8200 = true) ∧
    (∃ (s : State) (n : Nat), 64 ≤ n ∨ (s.sp n).switching = false ∨ s.nodeGood 0x8200 = false) ∧
    (∃ (s : State) (w : Who) (v : BitVec 32), s.reaches w (hubBase 6 + 0x20C) true = true) ∧
    (∃ (s : State) (w : Who) (v : BitVec 32), s.reaches w (hubBase 6 + 0x210) true = true) ∧
    (∃ (s : State), psecOf (s.ps 8 + 2000) ≤ 4000 ∧ s.clk.pkg = .active ∧ (s.svc.pps.getLsbD 16 = false ∨ s.tb.mstate = .locked) ∧ s.tb.ppsOutSec ≠ secOf (s.ps 8 + 2000)) ∧
    (∃ (s : State), s.clk.pkg ≠ .active ∨ (s.svc.pps.getLsbD 16 = true ∧ s.tb.mstate ≠ .locked) ∨ s.tb.ppsOutSec = secOf (s.ps 8 + 2000) ∨ 4000 < psecOf (s.ps 8 + 2000)) :=
  ⟨⟨pinned, who0, 3, 0x2104, by decide +kernel⟩,
   ⟨pinned, who0, 3, 9, 0x0029, by decide +kernel⟩,
   ⟨pinned, who0, 3, 0x60, by decide +kernel⟩,
   ⟨pinned, { who0 with priv := false }, 3, 0x60, by decide +kernel⟩,
   ⟨pinned, who0, 9, 0x0029, by decide +kernel⟩,
   ⟨(pinned.modSp 9 fun p => p.beginSwitch true 4 0x21), 9, by decide +kernel⟩,
   ⟨pinned, 9, by decide +kernel⟩,
   ⟨pinned, who0, 5, by decide +kernel⟩,
   ⟨(pinned.modSvc fun x => { x with gpioOut := 7 }), who0, 5, by decide +kernel⟩,
   ⟨(running.modTb fun b => { b with ppsOutSec := 5 }), by decide +kernel⟩,
   ⟨(running.modSvc fun x => { x with pps := 0x10064 }), by decide +kernel⟩⟩

theorem witness_peripherals :
    (∃ (s : State) (w : Who) (n : Nat) (v : BitVec 32) (u : Uart), n < 2 ∧ s.reaches w (hubBase 6 + (0x408 + 0x20 * n)) true = true ∧ u = ((s.settleUart 0).settleUart 1).uart n) ∧
    (∃ (s : State) (n : Nat) (b : BitVec 8) (f p : Bool), n < 2 ∧ (s.pinOf (4 * n + 1)).isSome = true ∧ s.periClock = true) ∧
    (∃ (s : State) (w : Who) (n : Nat) (b : BitVec 8) (rest : List (BitVec 8)), n < 2 ∧ s.reaches w (hubBase 6 + (0x40C + 0x20 * n)) false = true ∧ (s.uart n).rx = b :: rest) ∧
    (∃ (s : State) (w : Who) (n : Nat), n < 2 ∧ s.reaches w (hubBase 6 + (0x40C + 0x20 * n)) false = true ∧ (s.uart n).rx = []) ∧
    (∃ (s : State) (w : Who) (n : Nat) (v : BitVec 32), n < 2 ∧ s.reaches w (hubBase 6 + (0x510 + 0x20 * n)) true = true ∧ (s.spic n).busy = false ∧ 1 ≤ bitsOf v.toNat 0 5 ∧ bitsOf v.toNat 0 5 ≤ 16) ∧
    (∃ (s : State) (w : Who) (n : Nat) (v : BitVec 32), n < 2 ∧ s.reaches w (hubBase 6 + (0x510 + 0x20 * n)) true = true ∧ (s.spic n).busy = true) ∧
    (∃ (s : State) (n : Nat) (l : List (BitVec 8)), n < 2 ∧ (s.spic n).busy = true ∧ s.periClock = true ∧ (s.spic n).count ≤ l.length ∧ (s.spic n).rx.length + (s.spic n).count ≤ 16) ∧
    (∃ (s : State) (w : Who) (n : Nat) (b : BitVec 8) (rest : List (BitVec 8)), n < 2 ∧ s.reaches w (hubBase 6 + (0x50C + 0x20 * n)) false = true ∧ (s.spic n).rx = b :: rest) ∧
    (∃ (s : State) (w : Who) (n : Nat) (v : BitVec 32), n < 4 ∧ s.reaches w (hubBase 6 + (0x604 + 0x20 * n)) true = true ∧ (s.i2c n).busy = false ∧ 1 ≤ bitsOf v.toNat 8 5 ∧ bitsOf v.toNat 8 5 ≤ 16) ∧
    (∃ (s : State) (w : Who) (n : Nat) (v : BitVec 32), n < 4 ∧ s.reaches w (hubBase 6 + (0x604 + 0x20 * n)) true = true ∧ (s.i2c n).busy = true) ∧
    (∃ (s : State) (n : Nat) (l : List (BitVec 8)) (a b : Bool), n < 4 ∧ (s.i2c n).busy = true ∧ s.periClock = true ∧ bitsOf (s.i2c n).cmd.toNat 8 5 ≤ l.length ∧ (s.i2c n).rx.length + bitsOf (s.i2c n).cmd.toNat 8 5 ≤ 16) ∧
    (∃ (s : State) (w : Who) (n : Nat) (b : BitVec 8) (rest : List (BitVec 8)), n < 4 ∧ s.reaches w (hubBase 6 + (0x60C + 0x20 * n)) false = true ∧ (s.i2c n).rx = b :: rest) ∧
    (∃ (s : State) (m off : Nat) (bytes : List (BitVec 8)), s.engineRuns = true ∧ m < 64 ∧ off < 0x100 ∧ off % 4 = 0 ∧ bytes ≠ [] ∧ bytes.length % 4 = 0 ∧ off + bytes.length ≤ 0x100 ∧ (s.mbx m).ringing = false ∧ s.otherOpener 0x8FF m = false) ∧
    (∃ (s : State) (m off : Nat) (bytes : List (BitVec 8)), s.engineRuns = true ∧ m < 64 ∧ off < 0x100 ∧ bytes ≠ [] ∧ bytes.length % 4 = 0 ∧ ((s.mbx m).ringing = true ∨ s.otherOpener 0x8FF m = true ∨ off % 4 ≠ 0 ∨ 0x100 < off + bytes.length)) ∧
    (∃ (s : State) (m off n : Nat), s.engineRuns = true ∧ m < 64 ∧ off < 0x100 ∧ off % 4 = 0 ∧ 0 < n ∧ n % 4 = 0 ∧ off + n ≤ 0x100 ∧ s.otherOpener 0x8FF m = false) ∧
    (∃ (s : State) (m off n : Nat), s.engineRuns = true ∧ m < 64 ∧ off < 4096 ∧ 0 < n ∧ n % 4 = 0 ∧ s.otherOpener 0x8FF m = true) ∧
    (∃ (s : State), s.engineRuns = true) ∧
    (∃ (s : State) (a : BitVec 24) (n : Nat) (c : Instr), s.engineRuns = false ∧ (c = .spiReadStatus ∨ c = .spiRead a n ∨ c = .spiWrite a [])) :=
  ⟨⟨pinned, who0, 1, 0x141, (((pinned.settleUart 0).settleUart 1).uart 1), by decide +kernel⟩,
   ⟨pinned, 0, 0x41, false, true, by decide +kernel⟩,
   ⟨(pinned.modUart 1 fun u => { u with rx := [5, 6] }), { ladWho with effect := false }, 1, 5, [6], by decide +kernel⟩,
   ⟨pinned, who0, 1, by decide +kernel⟩,
   ⟨pinned, who0, 1, 0x103, by decide +kernel⟩,
   ⟨(pinned.modSpic 1 fun x => { x with busy := true }), who0, 1, 3, by decide +kernel⟩,
   ⟨((pinned.modSpic 0 fun x => { x with busy := true, count := 2, tx := [1, 2, 3] }).modSp 7 fun p => { p with func := 0x0E }), 0, [8, 9], by decide +kernel⟩,
   ⟨(pinned.modSpic 1 fun u => { u with rx := [5, 6] }), who0, 1, 5, [6], by decide +kernel⟩,
   ⟨pinned, who0, 3, 0x10350, by decide +kernel⟩,
   ⟨(pinned.modI2c 3 fun x => { x with busy := true }), who0, 3, 0x10350, by decide +kernel⟩,
   ⟨(pinned.modI2c 3 fun x => { x with busy := true, cmd := 0x281 }), 3, [1, 2], false, false, by decide +kernel⟩,
   ⟨(pinned.modI2c 3 fun u => { u with rx := [5, 6] }), who0, 3, 5, [6], by decide +kernel⟩,
   ⟨spiBound, 0, 4, [1, 2, 3, 4], by decide +kernel⟩,
   ⟨spiBound, 0, 2, [1, 2, 3, 4], by decide +kernel⟩,
   ⟨spiBound, 0, 0, 8, by decide +kernel⟩,
   ⟨(asking running 0 []), 0, 0x100, 8, by decide +kernel⟩,
   ⟨spiBound, by decide +kernel⟩,
   ⟨State.reset, 0, 4, .spiReadStatus, by decide +kernel⟩⟩

theorem witness_tapInstructions :
    (∃ (s : State) (n : Nat), s.hasTap n = true) ∧
    (∃ (s : State) (n : Nat) (b : BitVec 64) (c : Instr) (code : BitVec 8), s.hasTap n = true ∧ s.noImage = true ∧ (c, code) ∈ [(Instr.extest n b, (0x00 : BitVec 8)), (.extestPulse n b, 0x03), (.extestTrain n b, 0x04)]) ∧
    (∃ (s : State) (n : Nat) (c : Instr) (code : BitVec 8), s.hasTap n = true ∧ s.noImage = true ∧ (c, code) ∈ [(Instr.clamp n, (0x05 : BitVec 8)), (.highz n, 0x06)]) ∧
    (∃ (s : State) (n : Nat) (b : BitVec 64) (c : Instr), s.hasTap n = true ∧ s.noImage = false ∧ c ∈ [Instr.extest n b, .extestPulse n b, .extestTrain n b, .clamp n, .highz n]) ∧
    (∃ (s : State) (n : Nat) (b : BitVec 64), s.hasTap n = true) ∧
    (∃ (s : State) (n : Nat) (c : BitVec 8), s.hasTap n = true ∧ 7 ≤ c.toNat ∧ (n ≠ 8 ∨ c.toNat < 0x10 ∨ 0x12 < c.toNat)) ∧
    (∃ (s : State) (n : Nat) (b : BitVec 64) (c : Instr), s.hasTap n = false ∧ c ∈ [Instr.idcode n, .samplePreload n b, .extest n b, .extestPulse n b, .extestTrain n b, .clamp n, .highz n, .bypass n 0xFF]) ∧
    (∃ (s : State), s.hasTap 8 = true ∧ s.clk.wakeEn.getLsbD 4 = false) ∧
    (∃ (s : State), s.hasTap 8 = true ∧ s.clk.wakeEn.getLsbD 4 = true ∧ s.clk.pkg = .deep) ∧
    (∃ (s : State) (dr : BitVec 128), s.hasTap 8 = true ∧ s.lad.busPend = false ∧ s.cfg.porn = false ∧ s.clk.pkg ≠ .deep) ∧
    (∃ (s : State) (dr : BitVec 128), s.hasTap 8 = true ∧ s.lad.busPend = true) ∧
    (∃ (s : State) (dr : BitVec 128), s.hasTap 8 = true ∧ s.lad.busPend = false ∧ (s.cfg.porn = true ∨ s.clk.pkg = .deep)) ∧
    (∃ (s : State) (b : BitVec 8), s.hasTap 8 = true ∧ s.lad.authFails.toNat < 16 ∧ s.lad.verifying = false) ∧
    (∃ (s : State) (b : BitVec 8), s.hasTap 8 = true ∧ (16 ≤ s.lad.authFails.toNat ∨ s.lad.verifying = true)) ∧
    (∃ (s : State), s.lad.powered = true ∧ s.lad.verifying = true) ∧
    (∃ (s : State), numAt s.lad.cert 0 4 ≠ 0x4144464B ∨ numAt s.lad.cert 8 8 ≠ s.fuses.unique.toNat ∨ numAt s.lad.cert 0x10 8 ≠ s.lad.nonce.toNat ∨ numAt s.lad.cert 5 3 ≠ 0 ∨ numAt s.lad.cert 0x79 7 ≠ 0) ∧
    (∃ (s : State), s.lad.powered = true) ∧
    (∃ (s : State), s.lad.powered = false) :=
  ⟨⟨running, 0, by decide +kernel⟩,
   ⟨State.reset, 8, 0x55, (.extestTrain 8 0x55), 4, by decide +kernel⟩,
   ⟨State.reset, 8, (.highz 8), 6, by decide +kernel⟩,
   ⟨running, 8, 0x55, (.clamp 8), by decide +kernel⟩,
   ⟨running, 1, 0x55, by decide +kernel⟩,
   ⟨running, 1, 0x11, by decide +kernel⟩,
   ⟨(running.modLad fun l => { l with powered := false }), 8, 0x55, (.idcode 8), by decide +kernel⟩,
   ⟨running, by decide +kernel⟩,
   ⟨(pkgIn .deep), by decide +kernel⟩,
   ⟨running, 0x00000000000000000000F00000000000, by decide +kernel⟩,
   ⟨(running.modLad fun l => { l with busPend := true }), 0, by decide +kernel⟩,
   ⟨(pkgIn .deep), 0, by decide +kernel⟩,
   ⟨(running.modLad fun l => { l with cert := List.replicate 223 0 }), 7, by decide +kernel⟩,
   ⟨(verifying 3), 7, by decide +kernel⟩,
   ⟨(verifying 3), by decide +kernel⟩,
   ⟨running, by decide +kernel⟩,
   ⟨coreHalted, by decide +kernel⟩,
   ⟨(running.modLad fun l => { l with powered := false }), by decide +kernel⟩⟩

theorem witness_runControl :
    (∃ (s : State) (w : Who) (n : Nat) (v : BitVec 32) (c : Instr) (off : Nat), w.src ≠ 0x801 ∧ n < 8 ∧ (c, off) ∈ [(Instr.ldFclkStop w n v, 0x010 + n * 4), (.ldFclkStep w v, 0x030), (.ldSlgFreeze w n 2 v, 0x040 + n * 0x10 + 8), (.ldSlgStep w v, 0x0C0), (.ldCapGo w v, 0x100), (.ldGableHalt w, 0x200), (.ldGableRun w, 0x200), (.ldGableStep w, 0x200)] ∧
      s.reaches w (hubBase 8 + off) true = true) ∧
    (∃ (s : State) (w : Who) (c : Instr), w.src = 0x801 ∧ s.lad.auth = false ∧ c ∈ [Instr.ldGableHalt w, .ldGableRun w, .ldGableStep w] ∧ s.reaches w (hubBase 8 + 0x200) true = true) ∧
    (∃ (s : State) (w : Who) (d : Nat) (v : BitVec 32), w.src = 0x801 ∧ d < s.fdies ∧ s.reaches w (hubBase 8 + (0x010 + d * 4)) true = true) ∧
    (∃ (s : State) (w : Who) (v : BitVec 32), w.src = 0x801 ∧ bitsOf v.toNat 0 4 < s.fdies ∧ (s.node (fclkNode (bitsOf v.toNat 0 4) (bitsOf v.toNat 4 5))).stop = true ∧ s.fclkStepBusy = false ∧ s.reaches w (hubBase 8 + 0x030) true = true) ∧
    (∃ (s : State) (w : Who) (v : BitVec 32), w.src = 0x801 ∧ ((s.node (fclkNode (bitsOf v.toNat 0 4) (bitsOf v.toNat 4 5))).stop = false ∨ s.fclkStepBusy = true) ∧ s.reaches w (hubBase 8 + 0x030) true = true) ∧
    (∃ (s : State) (w : Who) (d k : Nat) (v : BitVec 32), w.src = 0x801 ∧ d < s.fdies ∧ k < 4 ∧ s.reaches w (hubBase 8 + (0x040 + d * 0x10 + k * 4)) true = true) ∧
    (∃ (s : State) (w : Who) (v : BitVec 32), w.src = 0x801 ∧ bitsOf v.toNat 0 4 < s.fdies ∧ (s.group (bitsOf v.toNat 0 4) (bitsOf v.toNat 4 7)).frozen = true ∧ s.slgStepBusy = false ∧ s.reaches w (hubBase 8 + 0x0C0) true = true) ∧
    (∃ (s : State) (w : Who) (v : BitVec 32), w.src = 0x801 ∧ ((s.group (bitsOf v.toNat 0 4) (bitsOf v.toNat 4 7)).frozen = false ∨ s.slgStepBusy = true) ∧ s.reaches w (hubBase 8 + 0x0C0) true = true) ∧
    (∃ (s : State) (w : Who) (v : BitVec 32), w.src = 0x801 ∧ s.reaches w (hubBase 8 + 0x100) true = true ∧ bitsOf v.toNat 0 4 < s.fdies ∧ bitsOf v.toNat 4 7 < 96 ∧ (∀ n ∈ List.range 32, (s.bay (bitsOf v.toNat 0 4) (bitsOf v.toNat 4 7)).fclkEn.getLsbD n = true → (s.node (fclkNode (bitsOf v.toNat 0 4) n)).stop = true)) ∧
    (∃ (s : State) (w : Who) (v : BitVec 32) (n : Nat), w.src = 0x801 ∧ s.reaches w (hubBase 8 + 0x100) true = true ∧ n < 32 ∧ (s.bay (bitsOf v.toNat 0 4) (bitsOf v.toNat 4 7)).fclkEn.getLsbD n = true ∧ (s.node (fclkNode (bitsOf v.toNat 0 4) n)).stop = false) ∧
    (∃ (s : State) (w : Who), w.src = 0x801 ∧ s.lad.auth = true ∧ s.reaches w (hubBase 8 + 0x200) true = true ∧ s.gable.halted = false ∧ s.gable.haltReq = false) ∧
    (∃ (s : State), s.gable.haltReq = true ∧ s.gable.haltAt + 426667 ≤ s.now) ∧
    (∃ (s : State), s.gable.haltReq = false) ∧
    (∃ (s : State) (w : Who), w.src = 0x801 ∧ s.lad.auth = true ∧ s.reaches w (hubBase 8 + 0x200) true = true ∧ s.gable.halted = true) ∧
    (∃ (s : State) (w : Who), w.src = 0x801 ∧ s.lad.auth = true ∧ s.reaches w (hubBase 8 + 0x200) true = true ∧ s.gable.halted = true) :=
  ⟨⟨running, who0, 1, 5, (.ldGableHalt who0), 0x200, by decide +kernel⟩,
   ⟨running, ladWho, (.ldGableHalt ladWho), by decide +kernel⟩,
   ⟨running, ladWho, 1, 0x80000001, by decide +kernel⟩,
   ⟨netStopped, ladWho, 0x00030050, by decide +kernel⟩,
   ⟨running, ladWho, 0x00030050, by decide +kernel⟩,
   ⟨groupFrozen, ladWho, 0, 0, 0x30, by decide +kernel⟩,
   ⟨groupFrozen, ladWho, 0x00030030, by decide +kernel⟩,
   ⟨running, ladWho, 0x00030030, by decide +kernel⟩,
   ⟨running, ladWho, 0x30, by decide +kernel⟩,
   ⟨(running.modBay 0 3 fun b => { b with fclkEn := 2 }), ladWho, 0x30, 1, by decide +kernel⟩,
   ⟨authed, ladWho, by decide +kernel⟩,
   ⟨((authed.modGable fun g => { g with haltReq := true }).setNow 426667), by decide +kernel⟩,
   ⟨authed, by decide +kernel⟩,
   ⟨(coreHalted.setNow 5), ladWho, by decide +kernel⟩,
   ⟨coreHalted, ladWho, by decide +kernel⟩⟩

end Sys2Proof.Tests
end

section
/-! PROOFS. Frames, part 1: outcomes whose every next state keeps a frame, and the accesses to registers that a command of the block makes. -/

open Sys2Proof
namespace Sys2Proof.Machine

-- In order, as in Laws/: a thread for each proof would exceed the memory bound of the check.
set_option Elab.async false

/-- Every next state the outcome answers differs from s in the listed parts at most, with its tables canonical where those of s are. -/
def Lands (ps : List Component) (s : State) (o : Out) : Prop := ∀ t, o = .next t → Steps ps s t

theorem Lands.next {ps : List Component} {s t : State} (h : Steps ps s t) : Lands ps s (.next t) := fun _ e => by cases e; exact h

theorem Lands.ite {ps : List Component} {s : State} {a b : Out} {c : Prop} [Decidable c] (ha : Lands ps s a) (hb : Lands ps s b) :
    Lands ps s (if c then a else b) := by
  split
  · exact ha
  · exact hb

/-- A command whose condition does not hold leaves the state as it is. -/
theorem Steps.guard {ps : List Component} {s t : State} {c : Prop} [Decidable c] (h : Steps ps s t) : Steps ps s (if c then t else s) :=
  Steps.ite (fun _ => h) fun _ => Steps.refl ps s

theorem Lands.guard {ps : List Component} {s t : State} {c : Prop} [Decidable c] (h : Steps ps s t) : Lands ps s (.next (if c then t else s)) :=
  Lands.next (Steps.guard h)

/-- A rule about a function whose parts are just the frame in question. -/
theorem Steps.of_rule {ps : List Component} {s t : State} (rule : Steps ps s s → (∀ p ∈ ps, p ∈ ps) → Steps ps s t) : Steps ps s t :=
  rule (Steps.refl ps s) fun _ h => h

theorem Lands.of_rule {ps : List Component} {s t : State} (rule : Steps ps s s → (∀ p ∈ ps, p ∈ ps) → Steps ps s t) : Lands ps s (.next t) :=
  Lands.next (Steps.of_rule rule)

/-! ### Wide frames -/

/-- The parts that the fault of a lane set and the end of its link may change (chapters 9 and 10). -/
abbrev partsOfLane : List Component :=
  [.routers, .masters, .flows, .lanesets, .links, .guests, .linkKeys, .tb, .dram, .gable, .clk, .log, .evr]

/-- The parts that an image that ends and one that begins to load may change (chapter 12). -/
abbrev partsOfLoad : List Component :=
  [.ids, .acls, .dies, .routers, .masters, .flows, .lanesets, .links, .guests, .linkKeys, .hpins, .tb, .cfg, .dram, .flash, .fregions, .dma,
    .gable, .clk, .log, .evr, .svc]

/-- The parts that a segment or record of an image, or what a bay does once it has ended, may change (chapters 12 and 13). -/
abbrev partsOfBay : List Component :=
  [.free, .rsp, .ids, .acls, .dies, .routers, .masters, .flows, .lanesets, .links, .guests, .linkKeys, .hpins, .tb, .cfg, .dram, .flash,
    .fregions, .dma, .gable, .clk, .log, .evr, .svc, .lad]

/-- The parts that a reset may change: all but the fuses, the elapsed time, the waiting commands and the draw counter (chapter 12). -/
abbrev partsOfReset : List Component :=
  [.rsp, .ids, .acls, .dies, .routers, .masters, .flows, .lanesets, .links, .guests, .linkKeys, .times, .hpins, .tb, .cfg, .dram, .flash,
    .fregions, .dma, .dmaLast, .gable, .clk, .log, .evr, .svc, .lad, .thermtrip, .pornLow, .supplyBad, .supplyOkAt]

/-! ### Register accesses (01 R35) -/

/-- An access changes what its register's body changes, the last answer, and what the note of a denial takes. -/
theorem Lands.access {ps : List Component} {s : State} {w : Who} {addr : Nat} {write : Bool} {body : State → RegRes}
    (hb : ∀ u, Steps ps s u → Steps ps s (body u).1) (sub : ∀ p ∈ [Component.rsp, .routers, .log, .evr], p ∈ ps) :
    Lands ps s (.next (s.access w addr write body)) := Lands.next (State.access_steps (Steps.refl ps s) hb sub)

theorem gqDirect_lands {w : Who} {d q off : Nat} {write eight : Bool} {v : Nat} {u su : Upset} {s : State} :
    Lands [.free, .rsp, .dies, .routers, .log, .evr] s (gqDirect w d q off write eight v u su s) :=
  Lands.access (fun _ h => gqReg_steps h (by decide)) (by decide)

theorem probeDirect_lands {w : Who} {d off v : Nat} {s : State} :
    Lands [.free, .rsp, .dies, .routers, .log, .evr] s (probeDirect w d off v s) :=
  Lands.access (fun _ h => probeReg_steps h (by decide)) (by decide)

theorem sliceDirect_lands {w : Who} {d off : Nat} {write eight : Bool} {v : Nat} {u : Upset} {s : State} :
    Lands [.free, .rsp, .dies, .routers, .log, .evr, .lad] s (sliceDirect w d off write eight v u s) :=
  Lands.access (fun _ h => sliceReg_steps h (by decide)) (by decide)

theorem winDirect_lands {w : Who} {d g off : Nat} {write eight : Bool} {v : Nat} {u : Upset} {s : State} :
    Lands [.free, .rsp, .dies, .routers, .log, .evr, .lad] s (winDirect w d g off write eight v u s) :=
  Lands.ite (Lands.next (State.holdWin_steps (Steps.refl _ s) (by decide))) sliceDirect_lands

theorem rtrDirect_lands {w : Who} {d r off v : Nat} {s : State} : Lands [.rsp, .routers, .log, .evr] s (rtrDirect w d r off v s) :=
  Lands.access (fun _ h => Steps.ite (fun _ => State.rtrWrite_steps h (by decide)) fun _ => h) (by decide)

theorem linkDirect_lands {w : Who} {key off v : Nat} {s : State} : Lands [.rsp, .routers, .links, .log, .evr] s (linkDirect w key off v s) :=
  Lands.access (fun _ h => linkReg_steps h (by decide)) (by decide)

theorem tpDirect_lands {w : Who} {d n off : Nat} {write eight : Bool} {v : Nat} {s : State} :
    Lands [.rsp, .dies, .routers, .hpins, .log, .evr] s (tpDirect w d n off write eight v s) :=
  Lands.access (fun _ h => tpReg_steps h (by decide)) (by decide)

theorem dmaDirect_lands {w : Who} {c v : Nat} {s : State} :
    Lands [.rsp, .acls, .routers, .dram, .dma, .gable, .log, .evr] s (dmaDirect w c v s) :=
  Lands.access (fun _ h => dmaReg_steps h (by decide)) (by decide)

theorem svcDirect_lands {w : Who} {off : Nat} {write : Bool} {v : Nat} {s : State} :
    Lands [.free, .rsp, .routers, .log, .evr, .svc] s (svcDirect w off write v s) :=
  Lands.access (fun _ h => svcReg_steps h (by decide)) (by decide)

theorem ladDirect_lands {w : Who} {off v : Nat} {s : State} :
    Lands [.free, .rsp, .dies, .routers, .gable, .clk, .log, .evr, .lad] s (ladDirect w off v s) :=
  Lands.access (fun _ h => ladReg_steps h (by decide)) (by decide)

/-! ### A slice's cycle (04 R129) -/

/-- The command of a slice instruction is one cycle of the slice, or nothing where no such instruction is next. -/
theorem opRow_lands {row : BitVec 40 → Bool} {d i : Nat} {u : SliceUpset} {s : State} :
    Lands [.free, .rsp, .dies, .routers, .evr] s (opRow row d i u s) := Lands.guard (slCycle_steps (Steps.refl _ s) (by decide))

end Sys2Proof.Machine
end

section
/-! PROOFS. Frames, part 2: the mailbox commands of 17 Table 17.10. What a command's body does to the state bounds what its request does. -/

open Sys2Proof
namespace Sys2Proof.Machine

set_option Elab.async false

/-- The parts a mailbox command may change: those of its body and of what follows its answer, with the mailbox and the raised events that
    every answer takes (17 Table 17.3, Table 17.4). -/
structure Command.Within (c : Command) (ps : List Component) : Prop where
  body : ∀ s m r, Steps ps s (c.body s m r).1
  after : ∀ s m, Steps ps s (c.after s m) := by exact fun s _ => Steps.refl _ s
  answer : ∀ p ∈ [Component.gable, .evr], p ∈ ps := by decide

/-- Serving a mailbox request keeps to the frame of its command. -/
theorem Command.Within.serve {c : Command} {ps : List Component} (hc : c.Within ps) {m : Nat} {s : State} : Lands ps s (.next (c.serve m s)) :=
  Lands.next (Command.serve_steps (fun u r h => h.via (hc.body u m r) fun _ hp => hp) (fun u h => h.via (hc.after u m) fun _ hp => hp)
    (Steps.refl ps s) hc.answer)

/-! ### Commands that only read -/

/-- A command that only reads leaves nothing but its answer. -/
theorem Command.serve_lands_of_reads {c : Command} (hb : ∀ s m r, (c.body s m r).1 = s) (ha : ∀ s m, c.after s m = s) {m : Nat} {s : State} :
    Lands [.gable, .evr] s (.next (c.serve m s)) :=
  Command.Within.serve { body := fun s m r => (hb s m r).symm ▸ Steps.refl _ s, after := fun s m => (ha s m).symm ▸ Steps.refl _ s }

theorem cmdFlowQuery_within : cmdFlowQuery.Within [.gable, .evr] where
  body s _ _ := Steps.ite_fst (fun _ => Steps.refl _ s) fun _ => Steps.refl _ s

theorem cmdBayStatus_within : cmdBayStatus.Within [.gable, .evr] where
  body s _ _ := Steps.ite_fst (fun _ => Steps.refl _ s) fun _ => Steps.refl _ s

/-! ### Sessions, access tables, flows and ports (chapters 1, 8 and 17) -/

theorem cmdMbxOpen_within : cmdMbxOpen.Within [.gable, .evr] where body s _ _ := State.mbxOpen_steps (Steps.refl _ s) (by decide)

theorem cmdMbxClose_within : cmdMbxClose.Within partsOfLoad where
  body s _ _ := Steps.refl _ s
  after s _ := State.closeSession_steps (Steps.refl _ s) (by decide)

theorem cmdAclWrite_within : cmdAclWrite.Within [.acls, .gable, .evr] where body s _ _ := State.aclPut_steps (Steps.refl _ s) (by decide)

theorem cmdFlowAdmit_within : cmdFlowAdmit.Within [.routers, .flows, .lanesets, .links, .dram, .gable, .clk, .evr] where
  body s _ _ := flowAdmitBody_steps (Steps.refl _ s) (by decide)

theorem cmdFlowRelease_within : cmdFlowRelease.Within [.flows, .dram, .gable, .evr] where
  body s _ _ := Steps.ite_fst (fun _ => Steps.mk_fst (State.releaseFlow_steps (Steps.refl _ s) (by decide))) fun _ => Steps.refl _ s

theorem cmdPortTimeout_within : cmdPortTimeout.Within [.routers, .masters, .gable, .evr] where
  body s _ _ := Steps.ite_fst (fun _ => Steps.refl _ s) fun _ => State.setTimeout_steps (Steps.refl _ s) (by decide)

theorem cmdLogClear_within : cmdLogClear.Within [.gable, .log, .evr] where body s _ _ := State.modLog_steps (Steps.refl _ s) (by decide)

/-! ### Lane sets (chapter 9) -/

theorem cmdLaneUp_within : cmdLaneUp.Within [.lanesets, .gable, .evr] where
  body s _ _ :=
    Steps.ite_fst (fun _ => Steps.refl _ s) fun _ =>
    Steps.ite_fst (fun _ => State.modLaneset_steps (Steps.refl _ s) (by decide)) fun _ =>
    Steps.ite_fst (fun _ => Steps.refl _ s) fun _ => State.modLaneset_steps (State.bringUp_steps (Steps.refl _ s) (by decide)) (by decide)

theorem cmdLaneDown_within : cmdLaneDown.Within partsOfLane where
  body s _ _ :=
    Steps.ite_fst (fun _ => State.modLaneset_steps (State.dropUp_steps (Steps.refl _ s) (by decide)) (by decide)) fun _ =>
    Steps.ite_fst (fun _ => State.modLaneset_steps (State.shutDown_steps (Steps.refl _ s) (by decide)) (by decide)) fun _ =>
    State.laneOff_steps (State.dropUp_steps (Steps.guard (State.leaveActive_steps (Steps.refl _ s) (by decide))) (by decide)) (by decide)

theorem cmdLaneTest_within : cmdLaneTest.Within [.lanesets, .gable, .evr] where
  body s _ _ := Steps.ite_fst (fun _ => Steps.refl _ s) fun _ => State.modLaneset_steps (Steps.refl _ s) (by decide)

theorem cmdLaneInject_within : cmdLaneInject.Within partsOfLane where
  body s _ _ :=
    Steps.ite_fst (fun _ => Steps.refl _ s) fun _ =>
    Steps.ite_fst (fun _ => State.flipBit_steps (Steps.refl _ s) (by decide)) fun _ => State.modLane_steps (Steps.refl _ s) (by decide)

theorem cmdLaneLp_within : cmdLaneLp.Within [.lanesets, .gable, .evr] where
  body s _ _ := Steps.ite_fst (fun _ => Steps.refl _ s) fun _ => State.modLaneset_steps (Steps.refl _ s) (by decide)

theorem cmdLaneClear_within : cmdLaneClear.Within [.lanesets, .gable, .evr] where
  body s _ _ := State.modLaneset_steps (Steps.refl _ s) (by decide)

/-! ### Package time (chapter 11) -/

theorem cmdTimeSet_within : cmdTimeSet.Within [.free, .tb, .gable, .evr] where
  body s _ _ :=
    Steps.ite_fst (fun _ => State.modTb_steps (Steps.refl _ s) (by decide)) fun _ =>
    State.drew_steps (State.programTime_steps (Steps.refl _ s) (by decide)) (by decide)

theorem cmdTimeSource_within : cmdTimeSource.Within [.tb, .gable, .evr] where body s _ _ := State.modTb_steps (Steps.refl _ s) (by decide)

theorem cmdTimeAdj_within : cmdTimeAdj.Within [.free, .tb, .gable, .evr] where
  body s _ _ :=
    Steps.ite_fst (fun _ => Steps.refl _ s) fun _ => State.drew_steps (State.programTime_steps (Steps.refl _ s) (by decide)) (by decide)

theorem cmdTimePin_within : cmdTimePin.Within [.dies, .hpins, .gable, .evr] where
  body s _ _ := Steps.ite_fst (fun _ => Steps.refl _ s) fun _ => State.modTpin_steps (Steps.refl _ s) (by decide)

theorem cmdTimeNotify_within : cmdTimeNotify.Within [.tb, .gable, .evr] where body s _ _ := State.modTb_steps (Steps.refl _ s) (by decide)

/-! ### Images and bays (chapters 12 and 13) -/

theorem cmdLoadImage_within {hdr : Bytes} : (cmdLoadImage hdr).Within partsOfLoad where
  body s _ _ :=
    Steps.ite_fst (fun _ => Steps.refl _ s) fun _ => Steps.ite_fst (fun _ => Steps.refl _ s) fun _ => Steps.refl _ s
  after s _ := State.commandLoad_steps (Steps.refl _ s) (by decide)

theorem cmdImageData_within : cmdImageData.Within partsOfBay where
  body s m r := by
    unfold cmdImageData
    dsimp only
    cases s.pushStrm 3 with
    | none => exact Steps.refl _ s
    | some p =>
      exact Steps.ite_fst (fun _ => Steps.refl _ s) fun _ =>
        State.runHeld_steps (State.takePush_steps (Steps.refl _ s) (by decide)) (by decide)

theorem cmdSlotProgram_within : cmdSlotProgram.Within [.acls, .cfg, .gable, .evr] where
  body s _ _ := slotProgramBody_steps (Steps.refl _ s) (by decide)

theorem cmdBayLoad_within : cmdBayLoad.Within (.free :: partsOfLoad) where
  body s _ _ := bayLoadBody_steps (Steps.refl _ s) (by decide)

theorem cmdBayShutdown_within : cmdBayShutdown.Within partsOfBay where
  body s _ _ := bayShutdownBody_steps (Steps.refl _ s) (by decide)

theorem cmdBayRestore_within : cmdBayRestore.Within [.dies, .routers, .masters, .gable, .evr, .lad] where
  body s _ _ := bayRestoreBody_steps (Steps.refl _ s) (by decide)

theorem cmdBayEnable_within : cmdBayEnable.Within partsOfBay where
  body s _ _ := bayEnableBody_steps (Steps.refl _ s) (by decide)

theorem cmdBayRepairSrc_within : cmdBayRepairSrc.Within [.dies, .gable, .evr] where
  body s _ _ := Steps.ite_fst (fun _ => Steps.refl _ s) fun _ => State.modBay_steps (Steps.refl _ s) (by decide)

theorem cmdScrubCtrl_within : cmdScrubCtrl.Within [.dies, .gable, .evr] where
  body s _ _ :=
    Steps.ite_fst (fun _ => Steps.refl _ s) fun _ =>
    Steps.foldl _ _ (fun _ _ h => State.modLeggett_steps h (by decide)) (Steps.refl _ s)

theorem cmdProbeSelect_within : cmdProbeSelect.Within [.dies, .gable, .evr] where
  body s _ _ := Steps.ite_fst (fun _ => Steps.refl _ s) fun _ => by
    split
    · exact Steps.of_some (probeSelWrite_steps (Steps.refl _ s) (by decide)) ‹_›
    · exact Steps.refl _ s

/-! ### DRAM, keys and DMA (chapters 14 to 16) -/

theorem cmdMemUp_within : cmdMemUp.Within [.dram, .gable, .evr] where
  body s m r := by
    have declared : ∀ f, Steps [.dram, .gable, .evr] s (if r.num 1 1 == 1 then s.modChan (r.num 0 1) f else s) := fun f =>
      Steps.guard (State.modChan_steps (Steps.refl _ s) (by decide))
    refine Steps.ite_fst (fun _ => Steps.refl _ s) fun _ => ?_
    cases (s.chan (r.num 0 1)).state with
    | off | fault => exact State.trainOrRefuse_steps (declared _) (by decide)
    | training | exiting | up => exact declared _
    | shutting => exact Steps.ite_fst (fun _ => declared _) fun _ => State.modChan_steps (declared _) (by decide)
    | down => exact State.modChan_steps (declared _) (by decide)

theorem cmdMemDown_within : cmdMemDown.Within [.dram, .gable, .evr] where
  body s m r := by
    unfold cmdMemDown
    dsimp only
    cases (s.chan (r.num 0 1)).state with
    | off => exact Steps.refl _ s
    | training => exact State.abandonTraining_steps (Steps.refl _ s) (by decide)
    | up => exact State.chanShut_steps (Steps.refl _ s) (by decide)
    | shutting | exiting => exact State.modChan_steps (Steps.refl _ s) (by decide)
    | down => exact Steps.ite (fun _ => Steps.refl _ s) fun _ => State.chanOff_steps (Steps.refl _ s) (by decide)
    | fault => exact State.chanOff_steps (Steps.refl _ s) (by decide)

theorem cmdMemInit_within : cmdMemInit.Within [.acls, .dram, .dma, .gable, .evr] where
  body s m r := by
    unfold cmdMemInit
    dsimp only
    cases (List.range 32).find? fun c => s.dmaFreeCh c with
    | none => exact Steps.refl _ s
    | some c =>
      exact State.fillStart_steps (Steps.foldl _ _ (fun _ _ h => State.setAcls_steps h (tabWf_tmod _ _ _ _) (by decide)) (Steps.refl _ s)) (by decide)

theorem cmdMemRegion_within : cmdMemRegion.Within [.dram, .gable, .evr] where body s _ _ := State.modDram_steps (Steps.refl _ s) (by decide)

theorem cmdMemMap_within : cmdMemMap.Within [.dram, .gable, .evr] where
  body s _ _ := Steps.ite_fst (fun _ => State.setMap_steps (Steps.refl _ s) (by decide)) fun _ => Steps.refl _ s

theorem cmdMemLp_within : cmdMemLp.Within [.dram, .gable, .evr] where
  body s _ _ := Steps.ite_fst (fun _ => Steps.refl _ s) fun _ => State.modChan_steps (Steps.refl _ s) (by decide)

theorem cmdMemScrub_within : cmdMemScrub.Within [.dram, .gable, .evr] where body s _ _ := State.modDram_steps (Steps.refl _ s) (by decide)

theorem cmdKeyLoad_within : cmdKeyLoad.Within [.flash, .gable, .evr] where
  body s m r := by
    unfold cmdKeyLoad
    dsimp only
    cases s.unwrap 0x01 (bytesAt r.arg 4 104) with
    | none => exact Steps.refl _ s
    | some keys =>
      exact Steps.ite_fst (fun _ => Steps.refl _ s) fun _ =>
        Steps.foldl _ _ (fun _ _ h => State.modFunit_steps h (by decide)) (Steps.refl _ s)

theorem cmdKeyRegion_within : cmdKeyRegion.Within [.fregions, .gable, .evr] where
  body s _ _ := State.putRegion_steps (Steps.refl _ s) (by decide)

theorem cmdKeyLink_within : cmdKeyLink.Within [.lanesets, .linkKeys, .gable, .evr] where
  body s m r := by
    unfold cmdKeyLink
    dsimp only
    split
    · exact Steps.ite_fst (fun _ => Steps.refl _ s) fun _ => State.installKey_steps (Steps.refl _ s) (by decide)
    · exact Steps.refl _ s

theorem cmdKeyErase_within : cmdKeyErase.Within [.routers, .masters, .flows, .lanesets, .links, .guests, .linkKeys, .tb, .flash, .gable, .log, .evr] where
  body s m r := by
    refine Steps.ite_fst (fun _ => Steps.foldl _ _ (fun _ _ h => State.emptySlot_steps h (by decide)) (Steps.refl _ s)) fun _ => ?_
    cases s.keyedLink (r.num 0 1 - 1) (r.num 1 1) (r.num 2 1) with
    | some k => exact State.eraseLinkKey_steps (Steps.refl _ s) (by decide)
    | none => exact Steps.refl _ s

theorem cmdDmaGrant_within : cmdDmaGrant.Within [.dma, .gable, .evr] where
  body s m r := by
    unfold cmdDmaGrant
    dsimp only
    split
    · exact Steps.refl _ s
    · exact State.modDma_steps (Steps.refl _ s) (by decide)

theorem cmdDmaRelease_within : cmdDmaRelease.Within [.acls, .dram, .dma, .gable, .log, .evr] where
  body s _ _ := Steps.ite_fst (fun _ => Steps.refl _ s) fun _ => State.dmaRelease_steps (Steps.refl _ s) (by decide)

/-! ### Clocks and power (chapter 18) -/

theorem cmdClkStatus_within : cmdClkStatus.Within [.free, .gable, .evr] where body s _ _ := State.drew_steps (Steps.refl _ s) (by decide)

theorem cmdClkSelect_within : cmdClkSelect.Within [.free, .times, .gable, .clk, .evr] where
  body s _ _ := clkSelectBody_steps (Steps.refl _ s) (by decide)

theorem cmdClkswForce_within : cmdClkswForce.Within [.lanesets, .times, .gable, .clk, .evr] where
  body s m r := by
    unfold cmdClkswForce
    dsimp only
    cases (s.node (r.num 0 2)).newSource with
    | none => exact Steps.refl _ s
    | some src => exact Steps.ite_fst (fun _ => State.takeSource_steps (Steps.refl _ s) (by decide)) fun _ => Steps.refl _ s

theorem cmdPwrSet_within : cmdPwrSet.Within [.dies, .routers, .masters, .times, .hpins, .gable, .clk, .evr, .lad] where
  body s _ _ :=
    Steps.ite_fst (fun _ => setActive_steps (Steps.refl _ s) (by decide)) fun _ =>
    Steps.ite_fst (fun _ => setPackage_steps (Steps.refl _ s) (by decide)) fun _ => setLow_steps (Steps.refl _ s) (by decide)

theorem cmdPwrPermit_within : cmdPwrPermit.Within [.routers, .gable, .clk, .evr] where
  body s _ _ :=
    Steps.ite_fst (fun _ => Steps.refl _ s) fun _ =>
    Steps.ite_fst (fun _ => Steps.refl _ s) fun _ =>
    Steps.ite_fst (fun _ => State.modRouter_steps (Steps.refl _ s) (by decide)) fun _ => State.modElem_steps (Steps.refl _ s) (by decide)

theorem cmdPwrWake_within : cmdPwrWake.Within [.gable, .clk, .evr] where
  body s _ _ := State.setAlarm_steps (State.modClk_steps (Steps.refl _ s) (by decide)) (by decide)

end Sys2Proof.Machine
end

section
/-! PROOFS. Frames, part 3: the commands whose meaning combines several functions of the machine. -/

open Sys2Proof
namespace Sys2Proof.Machine

set_option Elab.async false

/-! ### Queues and slices (chapters 3 and 4) -/

theorem execGqFabricPop_lands {d q : Nat} {u su : Upset} {s : State} :
    Lands [.free, .dies, .routers, .evr] s (execGqFabricPop d q u su s) := by
  refine Lands.guard ?_
  have popped := gqPopEntry_steps (d := d) (q := q) (u := u) (su := su) (Steps.refl [.free, .dies, .routers, .evr] s) (by decide)
  split
  · exact State.modGq_steps (Steps.of_fst popped ‹_›) (by decide)
  · exact Steps.of_fst popped ‹_›

theorem execGqFlushApply_lands {d q : Nat} {s : State} : Lands [.dies] s (execGqFlushApply d q s) :=
  have wrote : Steps [.dies] s (if (s.gq d q).flushPend ∧ s.gqW d q then s.modGq d q Gq.flushEdge else s) :=
    Steps.guard (State.modGq_steps (Steps.refl _ s) (by decide))
  Lands.next (Steps.ite (fun _ => Steps.refl _ s) fun _ => Steps.ite (fun _ => wrote) fun _ => State.modGq_steps wrote (by decide))

theorem execSliceStolenCycle_lands {d i : Nat} {s : State} :
    Lands [.free, .rsp, .dies, .routers, .evr] s (execSliceStolenCycle d i s) :=
  Lands.guard (State.modSlice_steps (State.serveWins_steps (Steps.refl _ s) (by decide)) (by decide))

theorem execSliceStreamIn_lands {d i : Nat} {q : Bool} {data : BitVec 24} {late : Bool} {s : State} :
    Lands [.dies] s (execSliceStreamIn d i q data late s) :=
  Lands.guard (State.modSlice_steps (State.modGroup_steps (Steps.refl _ s) (by decide)) (by decide))

/-! ### Flows, lane sets and links (chapters 8 to 10) -/

theorem execFlowReservationEnd_lands {fid : Nat} {s : State} :
    Lands [.routers, .flows, .lanesets, .links, .dram, .clk, .log, .evr] s (execFlowReservationEnd fid s) := by
  refine Lands.next ?_
  dsimp only
  cases (s.flow fid).freeAt with
  | none => exact Steps.refl _ s
  | some t =>
    have freed := State.modFlow_steps (i := fid) (f := fun _ => Flow.reset)
      (Steps.refl [.routers, .flows, .lanesets, .links, .dram, .clk, .log, .evr] s) (by decide)
    exact Steps.guard (State.retryViolated_steps (State.keepPaths_steps
      (State.rebound_steps (State.programOuts_steps freed (by decide)) (by decide)) (by decide)) (by decide))

theorem execLanePeriodicFlip_lands {key lane : Nat} {s : State} : Lands partsOfLane s (execLanePeriodicFlip key lane s) :=
  Lands.guard (State.flipBit_steps (State.modLane_steps (Steps.refl _ s) (by decide)) (by decide))

theorem execLanePllLock_lands {key : Nat} {s : State} : Lands [.lanesets] s (execLanePllLock key s) :=
  Lands.next (Steps.ite (fun _ => State.modLaneset_steps (Steps.refl _ s) (by decide)) fun _ =>
    Steps.guard (State.modLaneset_steps (Steps.refl _ s) (by decide)))

theorem execLaneStateTimeout_lands {key : Nat} {s : State} : Lands partsOfLane s (execLaneStateTimeout key s) := by
  refine Lands.next ?_
  cases s.laneOverdue key with
  | none => exact Steps.refl _ s
  | some c => exact Steps.guard (Steps.of_rule State.laneFault_steps)

theorem execLaneLp1Entry_lands {key : Nat} {s : State} : Lands [.lanesets] s (execLaneLp1Entry key s) :=
  Lands.guard (State.modLaneset_steps (State.sendFour_steps (Steps.refl _ s) (by decide)) (by decide))

theorem execLaneLp2Request_lands {key : Nat} {s : State} : Lands [.lanesets, .links, .clk] s (execLaneLp2Request key s) := by
  refine Lands.guard (State.modLaneset_steps (State.sendFour_steps (State.wakeTx_steps (Steps.guard ?_) (by decide)) (by decide)) (by decide))
  cases s.partner key with
  | none => exact Steps.refl _ s
  | some k => exact State.modLaneset_steps (Steps.refl _ s) (by decide)

theorem execLaneLp2Exit_lands {key : Nat} {s : State} : Lands [.lanesets] s (execLaneLp2Exit key s) :=
  Lands.guard (State.heldWake_steps (State.modLaneset_steps (Steps.refl _ s) (by decide)) (by decide))

theorem execRprRetryTimeout_lands {key : Nat} {s : State} : Lands partsOfLane s (execRprRetryTimeout key s) :=
  Lands.guard (Steps.ite (fun _ => Steps.of_rule State.sendRpr_steps) fun _ => Steps.of_rule State.laneFault_steps)

theorem execTosSend_lands {key : Nat} {s : State} : Lands [.lanesets, .links] s (execTosSend key s) :=
  Lands.guard (State.sendSet_steps (State.modLink_steps (Steps.refl _ s) (by decide)) (by decide))

theorem execLinkDelayValid_lands {key : Nat} {s : State} : Lands [.links, .times] s (execLinkDelayValid key s) :=
  Lands.guard (State.tryMeasure_steps (State.modLink_steps (Steps.refl _ s) (by decide)) (by decide))

theorem execLinkDownWaitEnd_lands {key : Nat} {s : State} :
    Lands [.routers, .masters, .flows, .lanesets, .links, .guests, .linkKeys, .tb, .gable, .log, .evr] s (execLinkDownWaitEnd key s) := by
  refine Lands.next ?_
  dsimp only
  cases (s.link key).downSent with
  | none => exact Steps.refl _ s
  | some t => exact Steps.guard (Steps.of_rule State.shutEnd_steps)

/-! ### Timing pins (chapter 11) -/

theorem execTpFabricSched_lands {d n : Nat} {stamp : BitVec 32} {level : Bool} {s : State} :
    Lands [.dies, .routers, .hpins, .evr] s (execTpFabricSched d n stamp level s) :=
  Lands.guard (State.modTpin_steps (Steps.of_rule State.schedTake_steps) (by decide))

/-! ### Resets, boot and images (chapters 12 and 13) -/

theorem execPornAssert_lands {s : State} : Lands partsOfReset s (execPornAssert s) :=
  Lands.next (State.setPornLow_steps (Steps.of_rule State.powerOn_steps) (by decide))

theorem execPornRelease_lands {straps : BitVec 6} {s : State} : Lands [.cfg, .pornLow] s (execPornRelease straps s) :=
  have risen := State.modCfg_steps (f := fun c => { c with straps := straps })
    (State.setPornLow_steps (v := false) (Steps.refl [.cfg, .pornLow] s) (by decide)) (by decide)
  Lands.guard (Steps.ite (fun _ => risen) fun _ => State.leaveReset_steps risen (by decide))

theorem execOscdDelayEnd_lands {refclk : Bool} {s : State} : Lands [.cfg, .clk] s (execOscdDelayEnd refclk s) := by
  refine Lands.next ?_
  cases s.cfg.oscdAt with
  | none => exact Steps.refl _ s
  | some t =>
    have found : ∀ f g, Steps [.cfg, .clk] s ((s.modClk f).modCfg g) := fun _ _ =>
      State.modCfg_steps (State.modClk_steps (Steps.refl _ s) (by decide)) (by decide)
    exact Steps.ite (fun _ => Steps.refl _ s) fun _ =>
      Steps.ite (fun _ => Steps.ite (fun _ => found _ _) fun _ => State.coreStart_steps (found _ _) (by decide)) fun _ =>
        State.modClk_steps (Steps.refl _ s) (by decide)

theorem execSrstnAssert_lands {s : State} : Lands partsOfReset s (execSrstnAssert s) :=
  Lands.next (State.modCfg_steps (Steps.of_rule State.softReset_steps) (by decide))

theorem execSrstnRelease_lands {s : State} : Lands [.cfg, .clk] s (execSrstnRelease s) :=
  Lands.guard (State.coreStart_steps (State.modCfg_steps (Steps.refl _ s) (by decide)) (by decide))

theorem execWipeComplete_lands {s : State} : Lands [.acls, .dies, .lanesets, .cfg, .gable, .evr, .svc] s (execWipeComplete s) :=
  have wiped := State.modCfg_steps (f := fun c => { c with wiping := false, clear := true, reached := true })
    (State.wipeAll_steps (Steps.refl [.acls, .dies, .lanesets, .cfg, .gable, .evr, .svc] s) (by decide)) (by decide)
  Lands.guard (Steps.ite (fun _ => State.nextSource_steps wiped (by decide)) fun _ => wiped)

theorem execPhaseP1_lands {locked : Bool} {s : State} : Lands partsOfLoad s (execPhaseP1 locked s) :=
  have started : Steps partsOfLoad s (s.dieList.foldl (fun (s : State) d => s.startDie d) s) :=
    Steps.foldl _ _ (fun _ _ h => State.startDie_steps h (by decide)) (Steps.refl _ s)
  Lands.next (Steps.ite (fun _ => Steps.refl _ s) fun _ =>
    Steps.ite (fun _ => Steps.ite (fun _ => Steps.refl _ s) fun _ => State.modCfg_steps started (by decide)) fun _ =>
      Steps.guard (Steps.of_rule State.failLoad_steps))

theorem execPhaseP2_lands {s : State} : Lands [.dies, .cfg] s (execPhaseP2 s) :=
  Lands.guard (State.modCfg_steps
    (Steps.foldl _ _ (fun _ _ h => State.modDie_steps (State.initIo_steps (State.loadInitDie_steps h (by decide)) (by decide)) (by decide))
      (Steps.refl _ s)) (by decide))

theorem execPhaseP3_lands {s : State} : Lands [.free, .dies, .hpins, .evr, .svc] s (execPhaseP3 s) :=
  have biased : Steps [.free, .dies, .hpins, .evr, .svc] s
      (s.dieList.foldl (fun (s : State) d => s.modIo d fun x => { x with pads := .biased, biasAt := s.now }) s) :=
    Steps.foldl _ _ (fun _ _ h => State.modIo_steps h (by decide)) (Steps.refl _ s)
  Lands.guard (State.spinRest_steps (State.spinPins_steps
    (Steps.foldl _ _ (fun _ _ h => State.modTpin_steps h (by decide)) biased) (by decide)) (by decide))

theorem execP3IoEnable_lands {s : State} : Lands [.dies] s (execP3IoEnable s) :=
  Lands.guard (Steps.foldl _ _ (fun _ _ h => State.modIo_steps h (by decide)) (Steps.refl _ s))

theorem execSegmentReceive_lands {prog : Bool} {bytes : List (BitVec 8)} {s : State} : Lands partsOfBay s (execSegmentReceive prog bytes s) :=
  Lands.next (State.runHeld_steps (segmentReceive_steps (Steps.refl _ s) (by decide)) (by decide))

/-- One record of an image, and the bays that waited for its end (12 R334 to R339). -/
theorem recordStep_lands {prog : Bool} {typ : Nat} {s : State} : Lands partsOfBay s (.next (recordStep s prog typ).runHeld) :=
  Lands.next (State.runHeld_steps (recordStep_steps (Steps.refl _ s) (by decide)) (by decide))

theorem execCfgPush_lands {w : Who} {data : BitVec 64} {s : State} : Lands partsOfBay s (execCfgPush w data s) :=
  Lands.access (fun _ h => cfgReg_steps h (by decide)) (by decide)

theorem execPushTimeout_lands {prog : Bool} {s : State} : Lands partsOfBay s (execPushTimeout prog s) :=
  Lands.guard (State.runHeld_steps (State.strmFail_steps (Steps.refl _ s) (by decide)) (by decide))

theorem execSlotProgramEnd_lands {s : State} : Lands partsOfBay s (execSlotProgramEnd s) :=
  Lands.guard (State.runHeld_steps (State.completeOpt_steps
    (State.closeStrm_steps (State.modSlot_steps (Steps.refl _ s) (by decide)) (by decide)) (by decide)) (by decide))

theorem execPortDrainEnd_lands {d b : Nat} {s : State} : Lands partsOfBay s (execPortDrainEnd d b s) :=
  Lands.next (State.runHeld_steps (portDrainEnd_steps (Steps.refl _ s) (by decide)) (by decide))

/-! ### Register accesses of the hub (chapters 14, 17 and 19) -/

theorem execMemClrCnt_lands {w : Who} {n : Nat} {s : State} : Lands [.rsp, .routers, .dram, .flash, .log, .evr] s (execMemClrCnt w n s) :=
  Lands.access (fun _ h => memReg_steps h (by decide)) (by decide)

theorem execMbxCplAck_lands {w : Who} {m : Nat} {s : State} : Lands [.rsp, .routers, .gable, .log, .evr] s (execMbxCplAck w m s) :=
  Lands.access (fun _ h => State.mbxPageWrite_steps h (by decide)) (by decide)

theorem execMbxEvpop_lands {w : Who} {m : Nat} {s : State} : Lands [.rsp, .routers, .gable, .log, .evr] s (execMbxEvpop w m s) :=
  Lands.access (fun _ h => State.mbxEvpop_steps h (by decide)) (by decide)

theorem execEvrRaise_lands {w : Who} {data : BitVec 64} {s : State} : Lands [.rsp, .routers, .log, .evr] s (execEvrRaise w data s) :=
  Lands.access (fun _ h => State.evrRaise_steps h (by decide)) (by decide)

theorem execEvrPop_lands {w : Who} {k : Nat} {s : State} : Lands [.rsp, .routers, .log, .evr] s (execEvrPop w k s) :=
  Lands.access (fun _ h => State.evrPop_steps h (by decide)) (by decide)

theorem execEvrOutFlush_lands {w : Who} {k : Nat} {s : State} : Lands [.rsp, .routers, .log, .evr] s (execEvrOutFlush w k s) :=
  Lands.access (fun _ h => State.evrCtrl_steps h (by decide)) (by decide)

theorem execEvrOutClrLost_lands {w : Who} {k : Nat} {s : State} : Lands [.rsp, .routers, .log, .evr] s (execEvrOutClrLost w k s) :=
  Lands.access (fun _ h => State.evrCtrl_steps h (by decide)) (by decide)

/-! ### Power (chapter 18) -/

theorem execElementIdleEntry_lands {kind d id : Nat} {idleOk : Bool} {s : State} :
    Lands [.dies, .routers, .masters, .times, .hpins, .clk, .lad] s (execElementIdleEntry kind d id idleOk s) :=
  Lands.next (Steps.ite (fun _ => Steps.of_rule idleEntry_steps) fun _ => Steps.ite (fun _ => Steps.of_rule idleEntry_steps) fun _ =>
    Steps.guard (routerIdleEntry_steps (Steps.refl _ s) (by decide)))

theorem execPowerEntryEnd_lands {kind d id : Nat} {s : State} :
    Lands [.free, .dies, .routers, .masters, .flows, .lanesets, .links, .guests, .linkKeys, .times, .hpins, .tb, .cfg, .dram, .gable, .clk, .log,
      .evr, .svc] s (execPowerEntryEnd kind d id s) :=
  Lands.next (Steps.ite
    (fun _ =>
      have down := Steps.guard (State.deepLinksDown_steps (Steps.refl _ s) (by decide))
      Steps.ite (fun _ => State.packageDeep_steps down (by decide)) fun _ => down)
    fun _ => Steps.ite (fun _ => State.entryEnd_steps (Steps.refl _ s) (by decide)) fun _ =>
      Steps.guard (State.entryEnd_steps (Steps.refl _ s) (by decide)))

theorem execElementWake_lands {kind d id : Nat} {s : State} : Lands [.routers, .clk] s (execElementWake kind d id s) :=
  have woken : ∀ k i, Steps [.routers, .clk] s (s.wakeElem k d i) := fun _ _ => State.wakeElem_steps (Steps.refl _ s) (by decide)
  Lands.next (Steps.ite (fun _ => Steps.refl _ s) fun _ =>
    Steps.ite (fun _ => Steps.guard (woken 1 0)) fun _ => Steps.ite (fun _ => woken 2 id) fun _ => Steps.guard (Steps.of_rule routerWake_steps))

theorem execWakeExitEnd_lands {kind d id : Nat} {s : State} :
    Lands [.free, .rsp, .dies, .routers, .masters, .times, .hpins, .gable, .clk, .log, .evr, .lad] s (execWakeExitEnd kind d id s) :=
  Lands.next (Steps.ite (fun _ => Steps.refl _ s) fun _ =>
    Steps.ite (fun _ => Steps.of_rule State.exitEnd_steps) fun _ => Steps.guard (Steps.of_rule State.exitEnd_steps))

theorem execWakeAlarm_lands {s : State} : Lands [.cfg, .clk] s (execWakeAlarm s) := by
  refine Lands.next ?_
  cases s.clk.alarmP with
  | none => exact Steps.refl _ s
  | some t => exact Steps.guard (Steps.of_rule State.packageWake_steps)

/-! ### Service pins, Ladder and supplies (chapters 20 and 21) -/

theorem execPpsOutPulse_lands {s : State} : Lands [.tb, .svc] s (execPpsOutPulse s) :=
  Lands.guard (State.modTb_steps (State.modSvc_steps (Steps.refl _ s) (by decide)) (by decide))

theorem execSamplePreload_lands {tap : Nat} {bits : BitVec 64} {s : State} : Lands [.free, .lad] s (execSamplePreload tap bits s) :=
  Lands.guard (State.modTap_steps (State.drew_steps (Steps.refl _ s) (by decide)) (by decide))

theorem execWake_lands {s : State} : Lands [.cfg, .clk, .lad] s (execWake s) :=
  have tapped := State.modTap_steps (t := 8) (f := fun x => { x with irOut := 0x01, ir := 0x12, dr := 0 })
    (Steps.refl [.cfg, .clk, .lad] s) (by decide)
  Lands.guard (Steps.ite (fun _ => State.packageWake_steps tapped (by decide)) fun _ => tapped)

theorem execVddDbgLoss_lands {s : State} : Lands [.dies, .routers, .masters, .gable, .clk, .log, .evr, .lad] s (execVddDbgLoss s) :=
  Lands.next (State.modLad_steps (Steps.of_rule State.ladderReset_steps) (by decide))

theorem execVddDbgReturn_lands {s : State} : Lands [.dies, .routers, .masters, .gable, .clk, .log, .evr, .lad] s (execVddDbgReturn s) :=
  Lands.next (Steps.ite (fun _ => Steps.refl _ s) fun _ => State.modLad_steps (Steps.of_rule State.ladderReset_steps) (by decide))

theorem execSupplyMonitorReset_lands {s : State} : Lands partsOfReset s (execSupplyMonitorReset s) :=
  Lands.next (State.setSupplyOkAt_steps (State.setSupplyBad_steps
    (Steps.ite (fun _ => Steps.refl _ s) fun _ => State.modCfg_steps (Steps.of_rule State.powerOn_steps) (by decide)) (by decide)) (by decide))

theorem execSupplyReturn_lands {s : State} : Lands [.cfg, .supplyBad, .supplyOkAt] s (execSupplyReturn s) := by
  refine Lands.next (Steps.ite (fun _ => Steps.refl _ s) fun _ => ?_)
  cases s.supplyOkAt with
  | none => exact State.setSupplyOkAt_steps (Steps.refl _ s) (by decide)
  | some t =>
    have good := State.setSupplyOkAt_steps (v := none)
      (State.setSupplyBad_steps (v := false) (Steps.refl [.cfg, .supplyBad, .supplyOkAt] s) (by decide)) (by decide)
    exact Steps.guard (Steps.ite (fun _ => good) fun _ => State.leaveReset_steps good (by decide))

theorem execThermtrip_lands {d : Nat} {s : State} : Lands [.dies, .thermtrip] s (execThermtrip d s) :=
  have tripped := State.setThermtrip_steps (v := true) (Steps.refl [.dies, .thermtrip] s) (by decide)
  Lands.next (Steps.ite (fun _ => State.modDie_steps tripped (by decide)) fun _ => Steps.guard tripped)

end Sys2Proof.Machine
end

section
/-! PROOFS. Frames, part 4: every command keeps to its frame, and what follows for the fuses, the elapsed time and the waiting commands. -/

open Sys2Proof
namespace Sys2Proof.Machine

set_option Elab.async false

/-- Every command, in every state, changes the parts that mayTouch lists for it at most, and keeps the tables canonical. -/
theorem exec_lands (c : Instr) (s : State) : Lands (mayTouch c) s (exec c s) := by
  cases c with
  | requestInject => exact Lands.of_rule requestInject_steps
  | targetRequest => exact Lands.guard (Steps.of_rule targetRequest_steps)
  | registerWrite => exact Lands.of_rule registerWrite_steps
  | aclRead | timeGet | timeStatus | cfgStatus | memStatus | keyStatus | dmaQuery | mbxHeartbeat | mbxSessions | idGet | fwInfo
  | pwrStatus | logInfo | logRead | ridgeStatus => exact Command.serve_lands_of_reads (fun _ _ _ => rfl) fun _ _ => rfl
  | aclWrite => exact cmdAclWrite_within.serve
  | bayRestore => exact cmdBayRestore_within.serve
  | probeSelect => exact cmdProbeSelect_within.serve
  | probeSelWrite | probeArm | probeForce => exact probeDirect_lands
  | probeTrigger | probeCaptureDone => exact Lands.guard (Steps.of_rule State.probeEdge_steps)
  | probeOverspeed => exact Lands.guard (Steps.of_rule State.modProbe_steps)
  | bramRead => exact Lands.of_rule bramRead_steps
  | bramWriteFull => exact Lands.of_rule bramWriteFull_steps
  | bramWriteNarrow => exact Lands.of_rule bramWriteNarrow_steps
  | gqFabricWrite => exact Lands.guard (Steps.of_rule State.gqStore_steps)
  | gqFabricPop => exact execGqFabricPop_lands
  | gqWriteSeenRead | gqPopSeenWrite => exact Lands.guard (Steps.of_rule State.modGq_steps)
  | gqPush | gqPop | gqSnap | gqClrCnt | gqFlush | gqMarksWrite => exact gqDirect_lands
  | gqFlushApply => exact execGqFlushApply_lands
  | move | moveRegReg | moveImm | clr | mpy | mac | msu | macr | dmacS | dmacP | dmacA | dmacD | add | sub | abs | neg | rnd | sat
  | shl | shr | max | min | maxi | mini | loopCount | loopReg | jmp | jcc | call | ret | waitq | trapret | halt => exact opRow_lands
  | reservedInstruction => exact opRow_lands (row := fun w => !wordValid w)
  | loopEndFetch | waitqRelease | sliceInstructionTrap | sliceDataTrap | sliceDrainEnd => exact Lands.guard (Steps.of_rule slCycle_steps)
  | sliceHaltTaken | sliceStreamOutPop => exact Lands.guard (Steps.of_rule State.modSlice_steps)
  | slStart | slHalt | slgStart | slgHalt | slPcWrite | slLoopAddrWrite | slStackDepthWrite | slCorrRead => exact sliceDirect_lands
  | sliceWindowWrite | sliceWindowRead => exact winDirect_lands
  | sliceStolenCycle => exact execSliceStolenCycle_lands
  | sliceStreamIn => exact execSliceStreamIn_lands
  | routerPacketArrive => exact Lands.of_rule packetArrive_steps
  | routerOutputGrant => exact Lands.of_rule outputGrant_steps
  | creditReturn => exact Lands.of_rule creditReturn_steps
  | localPortDeliver => exact Lands.of_rule localDeliver_steps
  | masterResponse => exact Lands.of_rule masterResponse_steps
  | requestTimeout => exact Lands.of_rule requestTimeout_steps
  | tagQuarantineEnd => exact Lands.of_rule tagQuarantineEnd_steps
  | rtrRtWrite | rtrCfgWrite | rtrSnap | rtrSnapDie | rtrClrCnt => exact rtrDirect_lands
  | routerIdleEntry => exact Lands.of_rule routerIdleEntry_steps
  | routerWake => exact Lands.of_rule routerWake_steps
  | portDrainEnd => exact execPortDrainEnd_lands
  | flowAdmit => exact cmdFlowAdmit_within.serve
  | flowRelease => exact cmdFlowRelease_within.serve
  | flowReservationEnd => exact execFlowReservationEnd_lands
  | flowQuery => exact cmdFlowQuery_within.serve
  | laneUp => exact cmdLaneUp_within.serve
  | laneDown => exact cmdLaneDown_within.serve
  | laneTest => exact cmdLaneTest_within.serve
  | laneInject => exact cmdLaneInject_within.serve
  | lanePeriodicFlip => exact execLanePeriodicFlip_lands
  | laneLp => exact cmdLaneLp_within.serve
  | laneClear => exact cmdLaneClear_within.serve
  | lanePllLock => exact execLanePllLock_lands
  | laneDetectPulse | laneTrainEnd | laneFaultRestart => exact Lands.guard (Steps.of_rule State.modLaneset_steps)
  | orderedSetReceive => exact Lands.of_rule orderedSet_steps
  | laneStateTimeout => exact execLaneStateTimeout_lands
  | laneSymbolError => exact Lands.of_rule symbolError_steps
  | laneDrift => exact Lands.of_rule laneDrift_steps
  | laneLp1Entry => exact execLaneLp1Entry_lands
  | laneLp1Exit => exact Lands.of_rule lp1Exit_steps
  | laneLp2Request => exact execLaneLp2Request_lands
  | laneLp2Exit => exact execLaneLp2Exit_lands
  | frameSlot => exact Lands.of_rule frameSlot_steps
  | frameReceive => exact Lands.of_rule frameReceive_steps
  | nakTimeout | linkShutdownStep | linkDrainTimeout => exact Lands.guard (Steps.of_rule State.modLink_steps)
  | replayTimeout => exact Lands.guard (Steps.of_rule State.startReplay_steps)
  | rprRetryTimeout => exact execRprRetryTimeout_lands
  | tosSend => exact execTosSend_lands
  | linkDelayValid => exact execLinkDelayValid_lands
  | linkDownWaitEnd => exact execLinkDownWaitEnd_lands
  | gcapReceive => exact Lands.of_rule gcapReceive_steps
  | gcapTimeout | creditStallTimeout => exact Lands.guard (Steps.of_rule State.laneFault_steps)
  | guestPacketReceive => exact Lands.guard (Steps.of_rule guestPacket_steps)
  | hostRequestReceive => exact Lands.guard (Steps.of_rule hostPacket_steps)
  | orphanExpire => exact Lands.guard (Steps.of_rule State.modGuest_steps)
  | linkSnap | linkClrCnt => exact linkDirect_lands
  | ppsPulse => exact Lands.of_rule ppsPulse_steps
  | ppsLossTimeout => exact Lands.guard (Steps.of_rule State.modTb_steps)
  | timeLaneLock => exact Lands.of_rule timeLaneLock_steps
  | timeApplyInstant => exact Lands.of_rule applyTime_steps
  | timeSet => exact cmdTimeSet_within.serve
  | timeSource => exact cmdTimeSource_within.serve
  | timeAdj => exact cmdTimeAdj_within.serve
  | timePin => exact cmdTimePin_within.serve
  | timeNotify => exact cmdTimeNotify_within.serve
  | timePacketSend => exact Lands.of_rule timePacketSend_steps
  | alignMeasureTimeout => exact Lands.of_rule alignTimeout_steps
  | parentOkUpdate => exact Lands.guard (Steps.of_rule State.updateParent_steps)
  | tpEdgeCapture => exact Lands.of_rule edgeCapture_steps
  | tpCapPop | tpSchedWrite | tpWinWrite | tpFlushCap | tpFlushSched | tpClrCnt => exact tpDirect_lands
  | tpFabricSched => exact execTpFabricSched_lands
  | tpSchedEdge => exact Lands.of_rule schedEdge_steps
  | pornAssert => exact execPornAssert_lands
  | pornRelease => exact execPornRelease_lands
  | oscdDelayEnd => exact execOscdDelayEnd_lands
  | srstnAssert => exact execSrstnAssert_lands
  | srstnRelease => exact execSrstnRelease_lands
  | bootStart => exact Lands.of_rule bootStart_steps
  | segmentReceive => exact execSegmentReceive_lands
  | recordYealmDef | recordFrameLit | recordFramePut | recordZeroRun | recordEnd => exact recordStep_lands
  | wipeComplete => exact execWipeComplete_lands
  | dieUnreachableTimeout => exact Lands.guard (Steps.of_rule State.failLoad_steps)
  | phaseP1 => exact execPhaseP1_lands
  | phaseP2 => exact execPhaseP2_lands
  | phaseP3 => exact execPhaseP3_lands
  | p3IoEnable => exact execP3IoEnable_lands
  | phaseP4 => exact Lands.of_rule phaseP4_steps
  | loadImage => exact cmdLoadImage_within.serve
  | imageData => exact cmdImageData_within.serve
  | slotProgram => exact cmdSlotProgram_within.serve
  | cfgPush => exact execCfgPush_lands
  | pushTimeout => exact execPushTimeout_lands
  | bayLoad => exact cmdBayLoad_within.serve
  | bayShutdown => exact cmdBayShutdown_within.serve
  | bayEnable => exact cmdBayEnable_within.serve
  | bayStatus => exact cmdBayStatus_within.serve
  | bayRepairSrc => exact cmdBayRepairSrc_within.serve
  | scrubCtrl => exact cmdScrubCtrl_within.serve
  | leggettFrameRead => exact Lands.of_rule leggettFrameRead_steps
  | bayRepairStart => exact Lands.of_rule bayRepairStart_steps
  | leggettMemVisit => exact Lands.of_rule leggettMemVisit_steps
  | memUp => exact cmdMemUp_within.serve
  | memDown => exact cmdMemDown_within.serve
  | memInit => exact cmdMemInit_within.serve
  | memRegion => exact cmdMemRegion_within.serve
  | memMap => exact cmdMemMap_within.serve
  | memLp => exact cmdMemLp_within.serve
  | memScrub => exact cmdMemScrub_within.serve
  | memClrCnt => exact execMemClrCnt_lands
  | memTrainingDone => exact Lands.of_rule memTrainingDone_steps
  | memTrainingTimeout => exact Lands.guard (Steps.of_rule State.chanFault_steps)
  | memShutdownEnd => exact Lands.of_rule memShutdownEnd_steps
  | memSrefExitEnd => exact Lands.of_rule memSrefExitEnd_steps
  | dramCommandIssue => exact Lands.of_rule dramIssue_steps
  | dramReadReturn => exact Lands.of_rule dramReturn_steps
  | dramRefresh => exact Lands.of_rule dramRefresh_steps
  | dramMr4Poll => exact Lands.of_rule dramMr4_steps
  | zqCalibration | dqsRetrack | dramPdEntry | dramSrefEntry => exact Lands.guard (Steps.of_rule State.modChan_steps)
  | dramAlert => exact Lands.of_rule dramAlert_steps
  | dramPatrolRead => exact Lands.of_rule dramPatrol_steps
  | keyLoad => exact cmdKeyLoad_within.serve
  | keyRegion => exact cmdKeyRegion_within.serve
  | keyLink => exact cmdKeyLink_within.serve
  | keyErase => exact cmdKeyErase_within.serve
  | dmaGrant => exact cmdDmaGrant_within.serve
  | dmaRelease => exact cmdDmaRelease_within.serve
  | dmaGo | dmaStop | dmaClear | dmaSnap => exact dmaDirect_lands
  | dmaTimedStart => exact Lands.guard (Steps.of_rule State.modDma_steps)
  | dmaBeatIssue => exact Lands.of_rule dmaBeatIssue_steps
  | dmaBeatResponse => exact Lands.of_rule dmaBeatResponse_steps
  | dmaRetryTimer => exact Lands.of_rule dmaRetryTimer_steps
  | mbxOpen => exact cmdMbxOpen_within.serve
  | mbxClose => exact cmdMbxClose_within.serve
  | portTimeout => exact cmdPortTimeout_within.serve
  | mbxCplAck => exact execMbxCplAck_lands
  | mbxEvpop => exact execMbxEvpop_lands
  | heartbeatTimeout => exact Lands.of_rule heartbeatTimeout_steps
  | watchdogExpire => exact Lands.of_rule watchdogExpire_steps
  | gableRestart => exact Lands.of_rule gableRestart_steps
  | gableSramScrub => exact Lands.of_rule gableSramScrub_steps
  | spiWrite => exact Lands.guard (Steps.of_rule spiWrite_steps)
  | spiRead => exact Lands.guard (Steps.of_rule spiRead_steps)
  | spiReadStatus => exact Lands.guard (Steps.of_rule spiReadStatus_steps)
  | clkStatus => exact cmdClkStatus_within.serve
  | clkSelect => exact cmdClkSelect_within.serve
  | clkswForce => exact cmdClkswForce_within.serve
  | clockSwitchEnd => exact Lands.of_rule clockSwitchEnd_steps
  | clockNodeFail => exact Lands.of_rule clockNodeFail_steps
  | clockNodeRunning => exact Lands.of_rule clockNodeRunning_steps
  | aoclkFail => exact Lands.of_rule aoclkFail_steps
  | pwrSet => exact cmdPwrSet_within.serve
  | pwrPermit => exact cmdPwrPermit_within.serve
  | pwrWake => exact cmdPwrWake_within.serve
  | elementIdleEntry => exact execElementIdleEntry_lands
  | powerEntryEnd => exact execPowerEntryEnd_lands
  | elementWake => exact execElementWake_lands
  | wakeExitEnd => exact execWakeExitEnd_lands
  | packageWakeSource => exact Lands.guard (Steps.of_rule State.packageWake_steps)
  | wakeAlarm => exact execWakeAlarm_lands
  | packageWakeEnd => exact Lands.guard (Steps.of_rule State.packageUp_steps)
  | logClear => exact cmdLogClear_within.serve
  | logEntryWrite => exact Lands.of_rule logEntryWrite_steps
  | eventRoute => exact Lands.of_rule eventRoute_steps
  | fabricEventInput => exact Lands.of_rule fabricEventInput_steps
  | evrRaise => exact execEvrRaise_lands
  | evrPop => exact execEvrPop_lands
  | evrOutFlush => exact execEvrOutFlush_lands
  | evrOutClrLost => exact execEvrOutClrLost_lands
  | spPinWrite | gpioSet | gpioClr | uartTx | uartRx | spicXfer | spicRx | i2cCmd | i2cRx => exact svcDirect_lands
  | spPinSwitchDone => exact Lands.guard (Steps.of_rule State.modSp_steps)
  | uartRxByte => exact Lands.guard (Steps.of_rule State.modUart_steps)
  | spicXferDone => exact Lands.guard (Steps.of_rule State.modSpic_steps)
  | i2cXferDone => exact Lands.guard (Steps.of_rule State.modI2c_steps)
  | ppsOutPulse => exact execPpsOutPulse_lands
  | trstnAssert => exact Lands.guard (Steps.of_rule State.ladderReset_steps)
  | extest | extestPulse | extestTrain | clamp | highz => exact Lands.of_rule State.pinInstr_steps
  | idcode | bypass => exact Lands.guard (Steps.of_rule State.modTap_steps)
  | samplePreload => exact execSamplePreload_lands
  | busacc => exact Lands.of_rule busAcc_steps
  | auth => exact Lands.of_rule authByte_steps
  | authVerifyDone => exact Lands.of_rule authVerifyDone_steps
  | wake => exact execWake_lands
  | ldFclkStop | ldSlgFreeze => exact Lands.ite ladDirect_lands (Lands.next (Steps.refl _ s))
  | ldFclkStep | ldSlgStep | ldCapGo | ldGableHalt | ldGableRun | ldGableStep => exact ladDirect_lands
  | ldGableHaltForced => exact Lands.of_rule gableHaltForced_steps
  | vddDbgLoss => exact execVddDbgLoss_lands
  | supplyMonitorReset => exact execSupplyMonitorReset_lands
  | thermtrip => exact execThermtrip_lands
  | userLaneLock => exact Lands.of_rule userLock_steps
  | prbsCheckerLock | prbsCheckerUnlock | userLaneTxidle => exact Lands.guard (Steps.of_rule State.modLane_steps)
  | dramLpExit => exact Lands.of_rule dramLpExit_steps
  | supplyReturn => exact execSupplyReturn_lands
  | vddDbgReturn => exact execVddDbgReturn_lands
  | slotProgramEnd => exact execSlotProgramEnd_lands

/-- The fuses, the elapsed time and the waiting commands: the parts no command changes (log entries 8 and 16). -/
def Component.fixed (p : Component) : Bool := p == .fuses || p == .now || p == .pending

theorem not_fixed_of_mem_mayTouch (c : Instr) : ∀ p ∈ mayTouch c, p.fixed = false := by
  have changeable : (mayTouch c).all (fun p => !p.fixed) = true := by cases c <;> rfl
  simpa using changeable

/-- A fixed part is as it was after every command. -/
theorem exec_same_of_fixed {c : Instr} {s t : State} (h : exec c s = .next t) {p : Component} (hp : p.fixed = true) : p.same s t :=
  (exec_lands c s t h).1 p fun mem => by simp [not_fixed_of_mem_mayTouch c p mem] at hp

end Sys2Proof.Machine

open Sys2Proof Sys2Proof.Machine

/-- Settles O1: a step looks at the front of the queue alone. -/
theorem stepRunsFront : Obligations.stepRunsFront := fun _ _ _ => rfl

/-- Settles O6: the three parts are fixed, so no command's frame lists them. -/
theorem everyCommandKeepsFusesTimeAndQueue : Obligations.everyCommandKeepsFusesTimeAndQueue := fun _ _ _ h =>
  ⟨exec_same_of_fixed (p := .fuses) h rfl, exec_same_of_fixed (p := .now) h rfl, exec_same_of_fixed (p := .pending) h rfl⟩

/-- Settles O7, by the frame of each command. -/
theorem everyCommandKeepsItsFrame : Obligations.everyCommandKeepsItsFrame := fun c s t h => (exec_lands c s t h).1
end

section
/-! PROOFS. The tables of the state, from one step to the next. -/

open Sys2Proof
namespace Sys2Proof.Machine

/-- A command and a tick of time both keep canonical tables canonical. -/
theorem step_keeps_tablesWf {s t : State} (h : step s = .next t) (wf : s.tablesWf = true) : t.tablesWf = true := by
  unfold step at h
  split at h
  next => cases h; exact (Steps.of_rule State.tick_steps).2 wf
  next c rest _ => exact (exec_lands c _ t h).2 ((Steps.setPending s rest).2 wf)

end Sys2Proof.Machine

open Sys2Proof Sys2Proof.Machine

/-- Settles O4, by what the frames of the commands and of the tick say of the tables. -/
theorem everyStepKeepsTables : Obligations.everyStepKeepsTables := fun _ _ ⟨wf, h⟩ => step_keeps_tablesWf h wf
end

section
/-! PROOFS. Package and address space, part 1: tables written key by key, and little-endian words. -/

open Sys2Proof
namespace Sys2Proof.Machine

/-- Writing n keys from a on, each with its own value: those keys hold them, the others what they held. -/
theorem tget_foldl_tput_range {V : Type} [DecidableEq V] (d : V) (t : Tab V) (a : Nat) (g : Nat → V) (n j : Nat) :
    tget d ((List.range n).foldl (fun t i => tput d t (a + i) (g i)) t) j = if a ≤ j ∧ j < a + n then g (j - a) else tget d t j := by
  induction n with
  | zero => simp [show ¬ (a ≤ j ∧ j < a) by omega]
  | succ n ih =>
    rw [List.range_succ, List.foldl_append, List.foldl_cons, List.foldl_nil, tget_tput, ih]
    by_cases h : j = a + n
    · subst h; simp
    · simp only [h, if_false, show (a ≤ j ∧ j < a + (n + 1)) ↔ (a ≤ j ∧ j < a + n) by omega]

theorem tget_foldl_tput {V : Type} [DecidableEq V] (d : V) (t : Tab V) (g : Nat → V) (n j : Nat) :
    tget d ((List.range n).foldl (fun t i => tput d t i (g i)) t) j = if j < n then g j else tget d t j := by
  simpa using tget_foldl_tput_range d t 0 g n j

/-- Modifying the first n routers of a die leaves the later ones alone. -/
theorem State.router_foldl_modRouter_beyond (s : State) (d : Nat) (f : Nat → Router → Router) {n q : Nat} (hq : n ≤ q) :
    ((List.range n).foldl (fun s r => s.modRouter d r (f r)) s).router d q = s.router d q := by
  induction n with
  | zero => rfl
  | succ n ih =>
    rw [List.range_succ, List.foldl_append, List.foldl_cons, List.foldl_nil, State.router_modRouter_other _ _ (by omega), ih (by omega)]

/-- Modifying the first n routers of a die, each in its own way: each is modified once. -/
theorem State.router_foldl_modRouter_range (s : State) (d : Nat) (f : Nat → Router → Router) {n q : Nat} (hq : q < n) :
    ((List.range n).foldl (fun s r => s.modRouter d r (f r)) s).router d q = f q (s.router d q) := by
  induction n with
  | zero => omega
  | succ n ih =>
    rw [List.range_succ, List.foldl_append, List.foldl_cons, List.foldl_nil]
    by_cases h : q = n
    · subst h; rw [State.router_modRouter, State.router_foldl_modRouter_beyond s d f le_rfl]
    · rw [State.router_modRouter_other _ _ (by omega), ih (by omega)]

theorem length_leBytes (n v : Nat) : (leBytes n v).length = n := by
  induction n generalizing v with
  | zero => rfl
  | succ n ih => simp [leBytes, ih]

theorem leNat_replicate_zero (m : Nat) : leNat (List.replicate m 0#8) = 0 := by
  induction m with
  | zero => rfl
  | succ m ih => simp [List.replicate_succ, leNat, ih]

/-- n little-endian bytes, read back with zeros behind them, are the number modulo 256^n. -/
theorem leNat_leBytes_zeros (n m v : Nat) : leNat (leBytes n v ++ List.replicate m 0#8) = v % 256 ^ n := by
  induction n generalizing v with
  | zero => rw [leBytes, List.nil_append, leNat_replicate_zero, pow_zero, Nat.mod_one]
  | succ n ih =>
    rw [leBytes, List.cons_append, leNat, ih, pow_succ' 256 n, Nat.mod_mul]
    rfl

/-- A 32-bit write carries the low 32 bits. -/
theorem numAt_leBytes_word (v : Nat) : numAt (leBytes 4 v) 0 8 = v % 2 ^ 32 := by
  have pad := leNat_leBytes_zeros 4 4 v
  simpa [numAt, bytesAt, length_leBytes, List.take_of_length_le] using pad

theorem bitOf_eq_testBit (v i : Nat) : bitOf v i = v.testBit i := by rw [Nat.testBit_eq_decide_div_mod_eq]; rfl

theorem bitOf_toNat {w : Nat} (x : BitVec w) (i : Nat) : bitOf x.toNat i = x.getLsbD i := bitOf_eq_testBit ..

/-- The low bits of a number keep the bits and fields inside them. -/
theorem bitOf_mod_two_pow {v n i : Nat} (h : i < n) : bitOf (v % 2 ^ n) i = bitOf v i := by
  simp only [bitOf_eq_testBit, Nat.testBit_mod_two_pow, h, decide_true, Bool.true_and]

theorem ofNat_mod_two_pow {w n : Nat} (h : w ≤ n) (v : Nat) : BitVec.ofNat w (v % 2 ^ n) = BitVec.ofNat w v := by
  apply BitVec.eq_of_toNat_eq
  simp only [BitVec.toNat_ofNat, Nat.mod_mod_of_dvd _ (pow_dvd_pow 2 h)]

end Sys2Proof.Machine
end

section
/-! PROOFS. Package and address space, part 2: the router registers, by their own rows and by REGISTER_WRITE (07 R210; 01 R35). -/

open Sys2Proof
namespace Sys2Proof.Machine

@[simp] theorem State.answer_router (s : State) (resp : BitVec 3) (data : BitVec 64) (d r : Nat) : (s.answer resp data).router d r = s.router d r := rfl

/-! ### What a write of each register does (07 Table 7.10) -/

theorem State.rtrWrite_cfg (s : State) (d r v : Nat) : s.rtrWrite 0x800 d r 0x004 v = s.rtrCfgWrite d r v := rfl

/-- RTR_RT_p takes the gable controller's writes alone. -/
theorem State.rtrWrite_rt (s : State) (src : BitVec 12) (d r v : Nat) {p : Nat} (hp : p < 8) :
    s.rtrWrite src d r (0x400 + p * 0x10) v = if src = 0x800 then s.rtrRtWrite d r p v else s := by
  have aligned : (0x400 + p * 0x10) % 0x10 = 0 := by omega
  unfold State.rtrWrite
  simp [aligned, show 1024 + p * 16 < 1152 by omega, show ¬ 1024 + p * 16 = 4 by omega, show ¬ 1024 + p * 16 = 8 by omega,
    show ¬ 1024 + p * 16 = 24 by omega, show ¬ 1024 + p * 16 = 28 by omega]

theorem State.rtrWrite_ctrl_snap (s : State) (src : BitVec 12) (d r : Nat) : s.rtrWrite src d r 0x008 1 = s.rtrSnap d r := rfl
theorem State.rtrWrite_ctrl_snapDie (s : State) (src : BitVec 12) (d r : Nat) : s.rtrWrite src d r 0x008 2 = s.rtrSnapDie d := rfl
theorem State.rtrWrite_ctrl_clr (s : State) (src : BitVec 12) (d r : Nat) : s.rtrWrite src d r 0x008 4 = s.rtrClr d r := rfl

theorem State.router_rtrCfgWrite (s : State) (d r v : Nat) : (s.rtrCfgWrite d r v).router d r =
    { s.router d r with idleDly := BitVec.ofNat 10 v, keepAwake := bitOf v 16, quietAt := s.now,
                        idle := (s.router d r).idle && !bitOf v 16 && bitsOf v 0 10 != 0 } := State.router_modRouter ..

/-- A rate above 154 is ignored (07 R196). -/
theorem State.rtrRtWrite_of_rate_above (s : State) (d r p : Nat) {v : Nat} (h : 154 < bitsOf v 0 8) : s.rtrRtWrite d r p v = s := if_pos (.inr h)

theorem State.bucket_rtrRtWrite {s : State} {d r p v : Nat} (port : s.hasPort d r p = true) (rate : bitsOf v 0 8 ≤ 154) :
    (tget Outp.reset ((s.rtrRtWrite d r p v).router d r).outs p).bucket =
      { rate := BitVec.ofNat 8 v, burst := BitVec.ofNat 12 (v / 256), tok256 := bitsOf v 8 12 * 256, atPs := s.now } := by
  unfold State.rtrRtWrite
  rw [if_neg (by rw [port]; simp; omega), State.router_modRouter, tget_tmod_same]

theorem State.router_rtrClr (s : State) (d r : Nat) :
    (s.rtrClr d r).router d r = { s.router d r with corr := 0, discard := 0, late := 0 } := State.router_modRouter ..

/-- A snapshot latches every credit word (07 R200). -/
theorem State.scred_rtrSnap (s : State) (d r : Nat) {i : Nat} (hi : i < 64) :
    tget 0 ((s.rtrSnap d r).router d r).scred i = BitVec.ofNat 32 (s.rtrCred d r (i / 8) (i % 8)) := by
  rw [State.rtrSnap, State.router_modRouter, tget_foldl_tput, if_pos hi]

/-- The die's snapshot latches them in all its routers, each as it stood before the first was latched. -/
theorem State.scred_rtrSnapDie (s : State) (d : Nat) {q i : Nat} (hq : q < 48) (hi : i < 64) :
    tget 0 ((s.rtrSnapDie d).router d q).scred i = BitVec.ofNat 32 (s.rtrCred d q (i / 8) (i % 8)) := by
  rw [State.rtrSnapDie, State.router_foldl_modRouter_range s d (fun r x =>
    { x with scred := (List.range 64).foldl (fun t i => tput 0 t i (BitVec.ofNat 32 (s.rtrCred d r (i / 8) (i % 8)))) x.scred }) hq,
    tget_foldl_tput, if_pos hi]

/-! ### Direct accesses -/

/-- A direct write of a router register that is let through. -/
theorem rtrDirect_of_reaches {w : Who} {d r off v : Nat} {s : State} (hr : r < 48) (h : s.reaches w (rtrAddr d r off) true = true) :
    rtrDirect w d r off v s = .next ((s.rtrWrite w.src d r off v).answer respOk 0) := by
  have body := State.access_of_reaches (body := fun s => regOk (if r < 48 then s.rtrWrite w.src d r off v else s) 0) h
    (show respOk ≠ respDenied by decide)
  rw [if_pos hr] at body
  exact congrArg Host.Outcome.next body

/-! ### REGISTER_WRITE at a router's address -/

theorem State.fdies_le (s : State) : s.fdies ≤ 8 := by unfold State.fdies; cases s.fuses.part <;> decide

theorem rtrAddr_eq (d r off : Nat) : rtrAddr d r off = 0xF00010000000 + d * 0x1000000 + 0x100000 + r * 0x2000 + off := rfl

/-- An address of the package has 48 bits. -/
theorem toNat_ofNat_rtrAddr {s : State} {d r off : Nat} (hd : d < s.fdies) (hr : r < 48) (hoff : off < 0x2000) :
    (BitVec.ofNat 48 (rtrAddr d r off)).toNat = rtrAddr d r off := by
  have := s.fdies_le
  rw [BitVec.toNat_ofNat, Nat.mod_eq_of_lt (by rw [rtrAddr_eq]; omega)]

/-- The address of a router register names sub-block 1 of its die's MiBs. -/
theorem mib_rtrAddr {d r off : Nat} (hr : r < 48) (hoff : off < 0x2000) : (rtrAddr d r off - 0xF00000000000) / 2 ^ 20 = 0x101 + 16 * d := by
  rw [rtrAddr_eq]; omega

/-- The router registers of a die of the part belong to its control target (01 Table 1.5). -/
theorem State.decode_rtrAddr {s : State} {d r off : Nat} (hd : d < s.fdies) (hr : r < 48) (hoff : off < 0x2000) :
    ∃ e, s.decode (rtrAddr d r off) = some (.fctl d, e) := by
  have := s.fdies_le
  have die : (0x101 + 16 * d - 0x100) / 16 = d := by omega
  have sub : (0x101 + 16 * d) % 16 = 1 := by omega
  unfold State.decode
  rw [if_neg (by rw [rtrAddr_eq]; omega), if_neg (by rw [rtrAddr_eq]; omega), if_neg (by rw [rtrAddr_eq]; omega),
    if_pos (by rw [rtrAddr_eq]; omega)]
  dsimp only
  rw [mib_rtrAddr hr hoff, if_neg (by omega), if_neg (by omega), if_neg (by omega), if_pos (by omega), die, sub, if_pos ⟨hd, by omega⟩]
  exact ⟨_, rfl⟩

/-- They are no part of a slice group's memory window. -/
theorem State.windowWaits_rtrAddr (s : State) {d r off : Nat} (hr : r < 48) (hoff : off < 0x2000) (write : Bool) (n : Nat) :
    s.windowWaits (.fctl d) (rtrAddr d r off) write n = none := by
  have outside : ¬ 0x200000 ≤ rtrAddr d r off % 0x1000000 := by rw [rtrAddr_eq]; omega
  simp [State.windowWaits, Target.window, outside]

/-- A 32-bit write at a router's address writes that router's register. -/
theorem regAccess_rtrAddr (w : Who) (s : State) {d r off : Nat} (hr : r < 48) (hoff : off < 0x2000) (aligned : off % 4 = 0) (v : Nat) :
    regAccess w s (.fctl d) (rtrAddr d r off) true (leBytes 4 v) 4 = (s.rtrWrite w.src d r off (v % 2 ^ 32), respOk, []) := by
  have size : regSize (rtrAddr d r off) 4 = true := by simp [regSize, rtrAddr_eq]; omega
  have inDie : rtrAddr d r off % 0x1000000 = 0x100000 + (r * 0x2000 + off) := by rw [rtrAddr_eq]; omega
  have inBlock : (0x100000 + (r * 0x2000 + off)) % 0x100000 = r * 0x2000 + off := by omega
  have router : (r * 0x2000 + off) / 0x2000 = r := by omega
  have offset : (r * 0x2000 + off) % 0x2000 = off := by omega
  have reg : dieReg w s d (0x100000 + (r * 0x2000 + off)) true false (v % 2 ^ 32) = regOk (s.rtrWrite w.src d r off (v % 2 ^ 32)) 0 := by
    unfold dieReg routerReg
    dsimp only
    rw [if_neg (by omega), if_pos (by omega), inBlock, router, offset, if_neg (by omega), if_pos rfl, putWords, if_neg (by decide), Nat.mod_mod]
  simp only [regAccess, if_pos size, inDie, numAt_leBytes_word, show ((4 : Nat) == 8) = false from rfl, reg]
  rfl

/-- A REGISTER_WRITE that is let through, outside the memory windows and to a register that does not deny it, is what the register does. -/
theorem registerWrite_of_reaches {w : Who} {s t : State} {a e v : Nat} {g : Target} {eight : Bool} {resp : BitVec 3} {data : List (BitVec 8)}
    (dec : s.decode a = some (g, e)) (control : g.isControl = true) (h : s.reaches w a true = true)
    (window : s.windowWaits g a true (if eight then 8 else 4) = none)
    (reg : regAccess w s g a true (leBytes (if eight then 8 else 4) v) (if eight then 8 else 4) = (t, resp, data)) (ok : resp ≠ respDenied) :
    registerWrite w s a eight v = t.answer resp 0 := by
  simp only [registerWrite, dec, control, if_true, h, window]
  rw [State.access_of_reaches h (by rw [reg]; exact ok), reg]

/-- REGISTER_WRITE of a router register that is let through acts as the register's own row does. -/
theorem registerWrite_rtrAddr {w : Who} {s : State} {d r off : Nat} (hd : d < s.fdies) (hr : r < 48) (hoff : off < 0x2000) (aligned : off % 4 = 0)
    (h : s.reaches w (rtrAddr d r off) true = true) (v : Nat) :
    registerWrite w s (rtrAddr d r off) false v = (s.rtrWrite w.src d r off (v % 2 ^ 32)).answer respOk 0 := by
  obtain ⟨e, dec⟩ := State.decode_rtrAddr hd hr hoff
  exact registerWrite_of_reaches dec rfl h (State.windowWaits_rtrAddr s hr hoff ..) (regAccess_rtrAddr w s hr hoff aligned v) (by decide)

/-- What REGISTER_WRITE does where the target's table refuses it (01 R35, R36). -/
theorem registerWrite_of_refused {w : Who} {s : State} {a e : Nat} {g : Target} (dec : s.decode a = some (g, e)) (control : g.isControl = true)
    (h : s.reaches w a true = false) (eight : Bool) (v : Nat) :
    registerWrite w s a eight v = (s.noteDenial (s.targetNode g) g.tid (whoPkt w true a) false).answer respDenied 0 := by
  have refused : s.admits g.tid w.src (needsOf (whoOpc w true)) (BitVec.ofNat 48 a) = false := by simpa [State.reaches, dec] using h
  simp [registerWrite, State.access, dec, control, h, refused]

end Sys2Proof.Machine
end

section
/-! PROOFS. Package and address space, part 3: the commands that read and write access tables (01 R31, R38, R39). -/

open Sys2Proof
namespace Sys2Proof.Machine

/-! ### What a command's checks and body see of the state its request was heard in (17 R444) -/

theorem State.heard_frame (s : State) (m : Nat) : s.changesOnly (s.heard m) [.gable] := by
  unfold State.heard
  exact (Steps.ite (fun _ => State.modMbx_steps (Steps.refl _ s) (by decide)) fun _ => Steps.refl _ s).1

@[simp] theorem State.heard_acls (s : State) (m : Nat) : (s.heard m).acls = s.acls := s.heard_frame m .acls (by decide)
@[simp] theorem State.heard_fuses (s : State) (m : Nat) : (s.heard m).fuses = s.fuses := s.heard_frame m .fuses (by decide)
@[simp] theorem State.heard_acl (s : State) (m tid : Nat) : (s.heard m).acl tid = s.acl tid := by simp [State.acl]

/-- Only the heartbeat of the mailbox has been restarted. -/
theorem State.mbx_heard (s : State) (m : Nat) :
    (s.heard m).mbx m = { s.mbx m with hbAt := ((s.heard m).mbx m).hbAt, hbUsed := ((s.heard m).mbx m).hbUsed } := by
  unfold State.heard
  split
  · rw [State.mbx_modMbx]
  · rfl

@[simp] theorem State.heard_sid (s : State) (m : Nat) : (s.heard m).sid m = s.sid m := by unfold State.sid; rw [State.mbx_heard]
@[simp] theorem State.heard_hasRole (s : State) (m role : Nat) : (s.heard m).hasRole m role = s.hasRole m role := by
  unfold State.hasRole; rw [State.mbx_heard]
@[simp] theorem State.heard_tidOk (s : State) (m tid : Nat) : (s.heard m).tidOk tid = s.tidOk tid := by
  unfold State.tidOk State.fdies; rw [State.heard_fuses]

/-! ### Access tables -/

theorem State.acl_of_acls_eq {s t : State} (h : t.acls = s.acls) (tid : Nat) : t.acl tid = s.acl tid := congrArg (tget AclTable.reset · tid) h

/-- Target 0x0040 holds no table (01 R22). -/
theorem State.ne_0x40_of_tidOk {s : State} {tid : Nat} (h : s.tidOk tid = true) : tid ≠ 0x0040 := by
  rintro rfl
  simp [State.tidOk] at h

/-- ACL_WRITE's argument sets the entries FIRST to FIRST + COUNT - 1 of its target, and no other. -/
theorem State.entries_aclPut (s : State) (r : Request) (owner : Option Nat) (j : Nat) :
    tget AclEntry.reset ((s.aclPut r.arg 0 owner).acl (r.num 0 2)).entries j =
      if r.num 2 1 ≤ j ∧ j < r.num 2 1 + r.num 3 1 then aclEntryOf (r.num (4 + 4 * (j - r.num 2 1)) 4) owner
      else tget AclEntry.reset (s.acl (r.num 0 2)).entries j := by
  simp only [State.aclPut, Request.num, Nat.zero_add]
  rw [State.acl_modAcl, tget_foldl_tput_range]
  rfl

theorem State.acl_aclPut_other (s : State) (r : Request) (owner : Option Nat) {k : Nat} (h : k ≠ r.num 0 2) :
    (s.aclPut r.arg 0 owner).acl k = s.acl k := State.acl_modAcl_other _ _ h

/-- ACL_READ answers the entries of its target, and leaves every table alone. -/
theorem exec_aclRead {s : State} {m : Nat} (ask : s.asks m 0x0400 = true) (len : (s.req m).len = 4) (reserved : (s.req m).zero 2 2 = true)
    (tid : s.tidOk ((s.req m).num 0 2) = true) :
    ∃ t, exec (.aclRead m) s = .next t ∧
      s.answered t m stOk ((List.range 32).flatMap fun i => leBytes 4 (tget AclEntry.reset (s.acl ((s.req m).num 0 2)).entries i).bits) ∧
      t.acls = s.acls := by
  have arg : cmdAclRead.argOk (s.heard m) (s.req m) = true := by simp [cmdAclRead, lenIs, len, reserved, tid]
  have body : cmdAclRead.body (s.heard m) m (s.req m) = (s.heard m, okReply ((List.range 32).flatMap fun i =>
      leBytes 4 (tget AclEntry.reset (s.acl ((s.req m).num 0 2)).entries i).bits)) := by
    simp [cmdAclRead, State.ne_0x40_of_tidOk tid]
  obtain ⟨t, run, answer, frame, -⟩ := Command.serve_body ask (by decide) rfl rfl arg body (by decide)
  exact ⟨t, congrArg Host.Outcome.next run, answer, (frame .acls (by decide)).trans (s.heard_acls m)⟩

/-- ACL_WRITE with the table role and a well-formed argument sets the tables as its argument says, owned by its session. -/
theorem exec_aclWrite {s : State} {m : Nat} (ask : s.asks m 0x0401 = true) (role : s.hasRole m roleT = true) (four : 4 ≤ (s.req m).len)
    (len : (s.req m).len = 4 + 4 * (s.req m).num 3 1) (arg : s.aclArgOk (s.req m).arg 0 = true) :
    ∃ t, exec (.aclWrite m) s = .next t ∧ s.answered t m stOk [] ∧
      ∀ tid, t.acl tid = ((s.heard m).aclPut (s.req m).arg 0 (some (s.sid m))).acl tid := by
  have heard : (s.heard m).aclArgOk (s.req m).arg 0 = true := by rw [← arg]; simp [State.aclArgOk]
  have argOk : cmdAclWrite.argOk (s.heard m) (s.req m) = true := by
    simp [cmdAclWrite, heard, aclLen, four]; exact len
  have may : cmdAclWrite.may (s.heard m) m (s.req m) = true := by simpa [cmdAclWrite, needT] using role
  have body : cmdAclWrite.body (s.heard m) m (s.req m) = ((s.heard m).aclPut (s.req m).arg 0 (some (s.sid m)), okReply []) := by simp [cmdAclWrite]
  obtain ⟨t, run, answer, frame, -⟩ := Command.serve_body ask (by decide) rfl may argOk body (by decide)
  exact ⟨t, congrArg Host.Outcome.next run, answer, State.acl_of_acls_eq (frame .acls (by decide))⟩

end Sys2Proof.Machine

open Sys2Proof Sys2Proof.Machine

/-- Settles O21, a rule at a time: a refused access is its denial alone, a router register acts alike through its own row and through
    REGISTER_WRITE, and ACL_READ and ACL_WRITE are answered by their bodies. -/
theorem accessesAndTables : Obligations.accessesAndTables := by
  unfold Obligations.accessesAndTables
  refine ⟨?unmapped, ?refused, ?write_cfg, ?cfg, ?rt, ?rt_ignored, ?snap, ?snapDie, ?clr, ?read, ?write⟩
  case unmapped =>
    intro s w a eight data dec
    have run : registerWrite w s a.toNat eight data.toNat = s.answer respNoTarget 0 := by rw [registerWrite, dec]
    exact ⟨_, congrArg Host.Outcome.next run, rfl, (State.setRsp_steps (Steps.refl _ s) (by decide)).1⟩
  case refused =>
    rintro s w a eight data g n ⟨dec, control, h⟩
    refine ⟨_, congrArg Host.Outcome.next (registerWrite_of_refused dec control h eight data.toNat), rfl, ?_⟩
    exact (State.setRsp_steps (State.noteDenial_steps (Steps.refl _ s) (by decide)) (by decide)).1
  case write_cfg =>
    rintro s w d r data ⟨hd, hr, h, gable⟩
    have run := registerWrite_rtrAddr hd hr (by decide) rfl h data.toNat
    rw [gable, State.rtrWrite_cfg] at run
    have addr := toNat_ofNat_rtrAddr hd hr (show 0x004 < 0x2000 by decide)
    refine ⟨_, congrArg Host.Outcome.next ((congrArg (registerWrite w s · false data.toNat) addr).trans run), rfl, ?_⟩
    rw [State.answer_router, State.router_rtrCfgWrite]
    exact ⟨ofNat_mod_two_pow (by decide) _, (bitOf_mod_two_pow (by decide)).trans (bitOf_toNat data 16), rfl⟩
  case cfg =>
    rintro s w d r data ⟨hr, h, gable⟩
    have run := rtrDirect_of_reaches (v := data.toNat) hr h
    rw [gable, State.rtrWrite_cfg] at run
    refine ⟨_, run, rfl, ?_⟩
    simp [State.router_rtrCfgWrite, bitOf_toNat]
  case rt =>
    rintro s w d r p data ⟨hr, hp, h, gable, port, rate⟩
    have run := rtrDirect_of_reaches (v := data.toNat) hr h
    rw [State.rtrWrite_rt _ _ _ _ _ hp, if_pos gable] at run
    refine ⟨_, run, rfl, ?_⟩
    rw [State.answer_router, State.bucket_rtrRtWrite port (by simpa [bitsOf] using rate), ← Nat.shiftRight_eq_div_pow data.toNat 8]
    rfl
  case rt_ignored =>
    rintro s w d r p data ⟨hr, hp, h, rate⟩
    have run := rtrDirect_of_reaches (v := data.toNat) hr h
    rw [State.rtrWrite_rt _ _ _ _ _ hp, State.rtrRtWrite_of_rate_above _ _ _ _ (by simpa [bitsOf] using rate), ite_self] at run
    exact ⟨_, run, rfl⟩
  case snap =>
    rintro s w d r ⟨hr, h⟩
    have run := rtrDirect_of_reaches (v := 1) hr h
    rw [State.rtrWrite_ctrl_snap] at run
    exact ⟨_, run, rfl, fun i hi => by rw [State.answer_router, State.scred_rtrSnap s d r hi]⟩
  case snapDie =>
    rintro s w d r ⟨hr, h⟩
    have run := rtrDirect_of_reaches (v := 2) hr h
    rw [State.rtrWrite_ctrl_snapDie] at run
    exact ⟨_, run, rfl, fun q i hq hi => by rw [State.answer_router, State.scred_rtrSnapDie s d hq hi]⟩
  case clr =>
    rintro s w d r ⟨hr, h⟩
    have run := rtrDirect_of_reaches (v := 4) hr h
    rw [State.rtrWrite_ctrl_clr] at run
    exact ⟨_, run, rfl, by rw [State.answer_router, State.router_rtrClr]⟩
  case read =>
    rintro s m ⟨ask, len, reserved, tid⟩
    exact exec_aclRead ask len reserved tid
  case write =>
    rintro s m ⟨ask, role, four, len, tid, one, room, words⟩
    have arg : s.aclArgOk (s.req m).arg 0 = true := by
      simp only [State.aclArgOk, Bool.and_eq_true, decide_eq_true_eq, Nat.zero_add]
      exact ⟨⟨⟨tid, one⟩, room⟩, words⟩
    obtain ⟨t, run, answer, acl⟩ := exec_aclWrite ask role four len arg
    refine ⟨t, run, answer, fun i hi => ?_, fun i hi => ?_, fun k hk => ?_⟩
    · rw [acl, State.entries_aclPut, if_pos (by omega), Nat.add_sub_cancel_left]
    · rw [acl, State.entries_aclPut, if_neg (by omega), State.heard_acl]
    · rw [acl, State.acl_aclPut_other _ _ _ hk, State.heard_acl]
end

section
/-! PROOFS. A read-modify-write of a mailbox that another MID opened: the opener check comes before the opcode is judged (01 R30, 17 R443). -/

open Sys2Proof
namespace Sys2Proof.Machine

/-- The gable controller swaps a word of the request buffer of mailbox 0. -/
def mailboxSwap : Pkt := { src := 0x800, cls := .req, opc := 7, len := 3, addr := 0xF00000100000 }

/-- Mailbox 0 is bound to a session that MID 3 opened, and the swap stands at the port of the mailboxes: H-die router 8, port 6. -/
def swapAtMailbox : State :=
  (State.reset.modMbx 0 fun b => { b with bound := true, opener := 3 }).modRouter 8 8 fun x => { x with inbox := [(6, [mailboxSwap])] }

/-- It is a read-modify-write that the table of the mailboxes admits, at a control target's port that takes it now. -/
theorem mailboxSwap_is_admitted_rmw : swapAtMailbox.takesNow 8 8 6 = true ∧ swapAtMailbox.elementAt 8 8 6 = .control false ∧
    tget [] (swapAtMailbox.router 8 8).inbox 6 = [mailboxSwap] ∧ mailboxSwap.cls = .req ∧ mailboxSwap.rt = false ∧
    swapAtMailbox.portAdmits 8 8 6 mailboxSwap = true ∧ swapAtMailbox.decode mailboxSwap.addr.toNat = some (.hub 1, 0xF000001FFFFF) ∧
    opcRmw mailboxSwap.opc = true := by decide +kernel

theorem exec_mailboxSwap : exec (.targetRequest 8 8 6) swapAtMailbox = .next (targetRequest swapAtMailbox 8 8 6) :=
  congrArg Host.Outcome.next (if_pos mailboxSwap_is_admitted_rmw.1)

/-- The one response that leaves the port says DENIED. -/
theorem mailboxSwap_answered_denied :
    tget [] (swapAtMailbox.router 8 8).inq (8 * 6 + 2) = [] ∧
    (tget [] ((targetRequest swapAtMailbox 8 8 6).router 8 8).inq (8 * 6 + 2)).map Pkt.resp = [respDenied] := by decide +kernel

end Sys2Proof.Machine

open Sys2Proof Sys2Proof.Machine

/-- Refutes O22, in its last clause: a read-modify-write of the request buffer of a mailbox whose session another MID opened is answered DENIED,
    not TGTERR. -/
theorem not_requestsAndResponses : ¬ Obligations.requestsAndResponses := by
  rintro ⟨-, -, -, -, -, -, -, rmwAnswer⟩
  obtain ⟨t, a, run, -, sent, -, -, -, resp, -⟩ := rmwAnswer swapAtMailbox 8 8 6 false mailboxSwap [] (.hub 1) _ mailboxSwap_is_admitted_rmw
  obtain ⟨none_before, denied⟩ := mailboxSwap_answered_denied
  rw [← Host.Outcome.next.inj (run.symm.trans exec_mailboxSwap), sent, none_before, List.nil_append, List.map_singleton, resp] at denied
  exact absurd denied (by decide)
end

section
/-! PROOFS. Probe multiplexers: the probe registers, the samples of a capture, and the statement about them (02 R71 to R76). -/

open Sys2Proof
namespace Sys2Proof.Machine

@[simp] theorem State.probe_modProbe (s : State) (d : Nat) (f : Probe → Probe) : ((s.modProbe d f).die d).probe = f (s.die d).probe := by
  simp [State.modProbe]
@[simp] theorem State.drew_die (s : State) (n d : Nat) : (s.drew n).die d = s.die d := rfl
@[simp] theorem State.answer_die (s : State) (resp : BitVec 3) (data : BitVec 64) (d : Nat) : (s.answer resp data).die d = s.die d := rfl
@[simp] theorem State.answer_probeSel (s : State) (resp : BitVec 3) (data : BitVec 64) (d c : Nat) :
    (s.answer resp data).probeSel d c = s.probeSel d c := rfl

/-! ### Writes in the probe sub-block (02 R72) -/

/-- An access that the table lets through and the register denies is a denial, noted and answered (01 R29, R36). -/
theorem State.access_of_denied {s : State} {w : Who} {addr : Nat} {write : Bool} {body : State → RegRes} (h : s.reaches w addr write = true)
    (hb : (body s).2.1 = respDenied) : ∃ node tid k, s.access w addr write body = (s.noteDenial node tid k false).answer respDenied 0 := by
  unfold State.reaches at h
  unfold State.access
  split at h
  · cases h
  next g last dec => exact ⟨s.targetNode g, g.tid, whoPkt w write addr, by simp [h, hb]⟩

/-- An unprivileged access of the sub-block is denied, and no die is touched. -/
theorem probeDirect_of_unprivileged {w : Who} {d off v : Nat} {s : State} (h : s.reaches w (dieBase d + 0x900000 + off) true = true)
    (priv : w.priv = false) : ∃ t, probeDirect w d off v s = .next t ∧ t.rsp.resp = respDenied ∧ t.dies = s.dies := by
  have denied : (probeReg w s d off true false v).2.1 = respDenied := by simp [probeReg, needPriv, priv, regDenied]
  obtain ⟨node, tid, k, run⟩ := State.access_of_denied (body := fun s => probeReg w s d off true false v) h denied
  have frame := State.answer_steps (resp := respDenied) (data := 0)
    (State.noteDenial_steps (node := node) (tid := tid) (k := k) (discarded := false) (Steps.refl [.routers, .log, .evr, .rsp] s) (by decide)) (by decide)
  exact ⟨_, congrArg Host.Outcome.next run, rfl, frame.1 .dies (by decide)⟩

/-- What a privileged write of one word answers: OK where the word is taken, TGTERR where it is refused. -/
theorem probeReg_of_priv {w : Who} {s : State} (priv : w.priv = true) (d off : Nat) (data : BitVec 32) :
    probeReg w s d off true false data.toNat = (probeWriteWord s d off data.toNat).elim (regErr s) (regOk · 0) := by
  simp only [probeReg, needPriv, priv, if_true, Nat.mod_eq_of_lt data.isLt]
  cases probeWriteWord s d off data.toNat <;> rfl

theorem probeDirect_of_taken {w : Who} {d off : Nat} {data : BitVec 32} {s t : State} (h : s.reaches w (dieBase d + 0x900000 + off) true = true)
    (priv : w.priv = true) (taken : probeWriteWord s d off data.toNat = some t) :
    probeDirect w d off data.toNat s = .next (t.answer respOk 0) := by
  have reg : probeReg w s d off true false data.toNat = regOk t 0 := by rw [probeReg_of_priv priv, taken]; rfl
  have run := State.access_of_reaches (body := fun s => probeReg w s d off true false data.toNat) h
    (by rw [reg]; exact (show respOk ≠ respDenied by decide))
  rw [reg] at run
  exact congrArg Host.Outcome.next run

theorem probeDirect_of_refused {w : Who} {d off : Nat} {data : BitVec 32} {s : State} (h : s.reaches w (dieBase d + 0x900000 + off) true = true)
    (priv : w.priv = true) (refused : probeWriteWord s d off data.toNat = none) :
    probeDirect w d off data.toNat s = .next (s.answer respTgtErr 0) := by
  have reg : probeReg w s d off true false data.toNat = regErr s := by rw [probeReg_of_priv priv, refused]; rfl
  have run := State.access_of_reaches (body := fun s => probeReg w s d off true false data.toNat) h
    (by rw [reg]; exact (show respTgtErr ≠ respDenied by decide))
  rw [reg] at run
  exact congrArg Host.Outcome.next run

/-! ### PROBE_SEL_c and PROBE_CTRL (02 Tables 2.7 and 2.9, R74, R76) -/

theorem probeWriteWord_ctrl (s : State) (d v : Nat) : probeWriteWord s d 0 v = some (probeCtrlWrite s d v) := rfl

theorem probeWriteWord_sel (s : State) (d v : Nat) {c : Nat} (hc : c < 64) : probeWriteWord s d (0x100 + 4 * c) v = probeSelWrite s d c v := by
  rw [probeWriteWord, if_neg (by omega), if_neg (by omega), if_pos (by omega), show (0x100 + 4 * c - 0x100) / 4 = c by omega]

/-- While no capture is armed, or for a channel the buffer neither holds nor would hold, the channel takes its fields from the word. -/
theorem probeSelWrite_taken {s : State} {d c v : Nat}
    (free : (s.die d).probe.armed = false ∨ (s.probeSel d c).dest = false ∧ bitOf v 13 = false) :
    ∃ t, probeSelWrite s d c v = some t ∧ t.probeSel d c = { tap := BitVec.ofNat 12 v, en := bitOf v 12, dest := bitOf v 13 } ∧
      ∀ k, k ≠ c → t.probeSel d k = s.probeSel d k := by
  have notRefused : ¬ ((s.die d).probe.armed ∧ ((s.probeSel d c).dest ∨ bitOf v 13)) := by
    rintro ⟨armed, dest⟩
    simp_all
  refine ⟨_, if_neg notRefused, ?_, fun k hk => ?_⟩
  · simp [State.probeSel]
  · simp [State.probeSel, tget_tput_other _ _ _ hk]

theorem probeSelWrite_refused {s : State} {d c : Nat} (v : Nat) (armed : (s.die d).probe.armed = true) (dest : (s.probeSel d c).dest = true) :
    probeSelWrite s d c v = none := if_pos ⟨armed, .inl dest⟩

/-- PROBE_CTRL written with ARM = 1, FORCE or not: the capture begins again, empty, under the settings of the word. -/
theorem probeCtrlWrite_arm {s : State} {d v : Nat} (arm : bitOf v 8 = true) {p : Probe} (hp : ((probeCtrlWrite s d v).die d).probe = p) :
    p.armed = true ∧ p.triggered = false ∧ p.done = false ∧ p.stored = 0 ∧ p.clkSel = BitVec.ofNat 5 v ∧ p.trigMode = bitOf v 10 ∧
      p.sel = (s.die d).probe.sel := by
  subst hp
  cases force : bitOf v 9 <;> simp [probeCtrlWrite, arm, force]

/-- PROBE_CTRL written with FORCE = 1 alone, in an armed capture without its trigger: a condition is held, the samples stay. -/
theorem probeCtrlWrite_force {s : State} {d v : Nat} (noArm : bitOf v 8 = false) (force : bitOf v 9 = true)
    (armed : (s.die d).probe.armed = true) (untriggered : (s.die d).probe.triggered = false) {p : Probe}
    (hp : ((probeCtrlWrite s d v).die d).probe = p) :
    p.held = true ∧ p.armed = true ∧ p.stored = (s.die d).probe.stored ∧ p.buf = (s.die d).probe.buf := by
  subst hp
  simp [probeCtrlWrite, noArm, force, armed, untriggered]

/-- PROBE_ARM and PROBE_FORCE write their data with ARM, or FORCE, set: the other bits are those of the data. -/
theorem bitOf_or_toNat {w : Nat} (x y : BitVec w) (i : Nat) : bitOf (x ||| y).toNat i = (x.getLsbD i || y.getLsbD i) := by
  rw [bitOf_toNat, BitVec.getLsbD_or]

/-- ARM lies above CLKSEL. -/
theorem clkSel_or_arm (data : BitVec 32) : BitVec.ofNat 5 (data ||| 0x100).toNat = BitVec.ofNat 5 data.toNat := by
  rw [BitVec.ofNat_toNat, BitVec.ofNat_toNat, BitVec.setWidth_or]
  exact BitVec.or_zero

/-! ### The edges of the sample clock (02 R71, R76) -/

/-- A sample that meets a condition with PRETRIG samples stored is the trigger sample: recorded at the write index, which it notes. -/
theorem Probe.sample_triggers {p : Probe} (o r : BitVec 64) (armed : p.armed = true) (untriggered : p.triggered = false)
    (enough : p.pretrig.toNat ≤ p.stored)
    (cond : p.held = true ∨ p.trigMode = true ∧ o.getLsbD p.trigCh.toNat = true ∧ p.out.getLsbD p.trigCh.toNat = false)
    {q : Probe} (hq : p.sample o r = q) :
    q.triggered = true ∧ q.trigIdx = p.wr ∧ q.held = false ∧ q.buf = tput 0 p.buf p.wr.toNat r ∧ q.wr = p.wr + 1 := by
  subst hq
  have met : (p.held || (p.trigMode && o.getLsbD p.trigCh.toNat && !p.out.getLsbD p.trigCh.toNat)) = true := by
    rcases cond with held | ⟨mode, now, before⟩
    · simp [held]
    · simp [mode, now, before]
  by_cases last : 8191 - p.pretrig.toNat = 0 <;> simp [Probe.sample, armed, untriggered, met, enough, last]

/-- The last sample after the trigger ends the capture. -/
theorem Probe.sample_ends {p : Probe} (o r : BitVec 64) (armed : p.armed = true) (triggered : p.triggered = true)
    (last : 8191 - p.pretrig.toNat ≤ p.post + 1) {q : Probe} (hq : p.sample o r = q) :
    q.done = true ∧ q.armed = false ∧ q.trigIdx = p.trigIdx := by
  subst hq
  simp [Probe.sample, armed, triggered, last]

/-- An edge replaces the block by what it samples. -/
theorem State.probe_probeEdge {s : State} {d : Nat} (clocked : s.probeClocked d = true) : ((s.probeEdge d).die d).probe = s.probeNext d := by
  rw [State.probeEdge, if_pos clocked, State.probe_modProbe]

theorem exec_probeTrigger {s : State} {d : Nat} (armed : (s.die d).probe.armed = true) (untriggered : (s.die d).probe.triggered = false)
    (next : (s.probeNext d).triggered = true) : exec (.probeTrigger d) s = .next (s.probeEdge d) :=
  congrArg Host.Outcome.next (if_pos ⟨armed, by simp [untriggered], next⟩)

theorem exec_probeCaptureDone {s : State} {d : Nat} (armed : (s.die d).probe.armed = true) (next : (s.probeNext d).done = true) :
    exec (.probeCaptureDone d) s = .next (s.probeEdge d) := congrArg Host.Outcome.next (if_pos ⟨armed, next⟩)

end Sys2Proof.Machine

open Sys2Proof Sys2Proof.Machine

/-- Settles O9: the writes by what each word does to its register, the edges by what the sample does to the capture. -/
theorem probes : Obligations.probes := by
  unfold Obligations.probes
  refine ⟨?sel, ?sel_refused, ?denied, ?arm, ?force, ?overspeed, ?trigger, ?done⟩
  case sel =>
    rintro s w d c data ⟨h, priv, hc, free⟩
    rw [← bitOf_toNat data 13] at free
    obtain ⟨t, taken, sel, others⟩ := probeSelWrite_taken free
    refine ⟨_, probeDirect_of_taken h priv ((probeWriteWord_sel s d _ hc).trans taken), rfl, ?_, others⟩
    rw [State.answer_probeSel, sel, bitOf_toNat, bitOf_toNat]
  case sel_refused =>
    rintro s w d c data ⟨h, priv, hc, armed, dest⟩
    have refused := (probeWriteWord_sel s d data.toNat hc).trans (probeSelWrite_refused _ armed dest)
    exact ⟨_, probeDirect_of_refused h priv refused, rfl, rfl⟩
  case denied =>
    rintro s w d c data ⟨h, unpriv⟩
    exact probeDirect_of_unprivileged h unpriv
  case arm =>
    rintro s w d data ⟨h, priv⟩
    obtain ⟨armed, untriggered, notDone, empty, clkSel, trigMode, sel⟩ :=
      probeCtrlWrite_arm (s := s) (d := d) (v := (data ||| 0x100).toNat) (by rw [bitOf_or_toNat]; simp) rfl
    refine ⟨_, probeDirect_of_taken h priv (probeWriteWord_ctrl ..), rfl, armed, untriggered, notDone, empty, ?_, ?_, sel⟩
    · exact clkSel.trans (clkSel_or_arm data)
    · exact trigMode.trans (by rw [bitOf_or_toNat]; simp)
  case force =>
    rintro s w d data ⟨h, priv, noArm, armed, untriggered⟩
    have kept := probeCtrlWrite_force (v := (data ||| 0x200).toNat) (by rw [bitOf_or_toNat, noArm]; rfl) (by rw [bitOf_or_toNat]; simp)
      armed untriggered rfl
    exact ⟨_, probeDirect_of_taken h priv (probeWriteWord_ctrl ..), rfl, kept⟩
  case overspeed =>
    intro s d fast
    exact ⟨_, congrArg Host.Outcome.next (if_pos fast), State.probe_modProbe ..⟩
  case trigger =>
    rintro s d ⟨clocked, armed, untriggered, enough, cond⟩
    obtain ⟨triggered, trigIdx, held, buf, wr⟩ :=
      Probe.sample_triggers _ (s.probeRec d (s.probeOut d)) armed untriggered enough cond (q := s.probeNext d) rfl
    refine ⟨_, exec_probeTrigger armed untriggered triggered, ?_⟩
    rw [State.probe_probeEdge clocked, buf, tget_tput_same]
    exact ⟨triggered, trigIdx, held, rfl, wr⟩
  case done =>
    rintro s d ⟨clocked, armed, triggered, -, last⟩
    obtain ⟨done, disarmed, trigIdx⟩ :=
      Probe.sample_ends (s.probeOut d) (s.probeRec d (s.probeOut d)) armed triggered last (q := s.probeNext d) rfl
    refine ⟨_, exec_probeCaptureDone armed done, ?_⟩
    rw [State.probe_probeEdge clocked]
    exact ⟨done, disarmed, trigIdx⟩
end

section
/-! PROOFS. Gutter queues, part 1: what a write, a pop and a flush do to one queue (03 R91 to R96). -/

open Sys2Proof
namespace Sys2Proof.Machine

/-! ### Watermarks (03 R96) -/

/-- At HI_ON and above, HI stands at 1. -/
theorem Gq.evalHi_hi_of_reached {g : Gq} (reached : hiOn g.marks ≤ g.wLevel) : g.evalHi.hi = true := by simp [Gq.evalHi, reached]

/-- At HI_OFF and below, and below HI_ON, HI stands at 0. -/
theorem Gq.evalHi_hi_of_left {g : Gq} (below : g.wLevel < hiOn g.marks) (left : g.wLevel ≤ hiOff g.marks) : g.evalHi.hi = false := by
  simp [Gq.evalHi, Nat.not_le.mpr below, left]

/-- At LO_OFF and above, and above LO_ON, LO stands at 0. -/
theorem Gq.evalLo_lo_of_left {g : Gq} (above : loOn g.marks < g.rLevel) (left : loOff g.marks ≤ g.rLevel) : g.evalLo.lo = false := by
  simp [Gq.evalLo, Nat.not_le.mpr above, left]

/-! ### Writes (03 R91, R93, R102) -/

/-- The queue after the flush edge, where one waits for an edge of the write clock. -/
def Gq.flushTaken (g : Gq) : Gq := { g with flushMark := if g.flushPend then g.entries.length else g.flushMark, flushPend := false }

theorem Gq.flushTaken_eq (g : Gq) : (if g.flushPend then g.flushEdge else g) = g.flushTaken := by
  cases g with
  | mk used feeder reader taken stampEn wsel rsel entries nextSlot rSeen unseenPops flushMark flush flushPend =>
    cases flushPend <;> rfl

/-- The queue with the entry of a write behind the others, before HI is evaluated. -/
def Gq.append (g : Gq) (data : BitVec 64) (stamp : BitVec 32) (coarse : Bool) : Gq :=
  { g with
    entries := g.entries ++ [{ slot := g.nextSlot, data := data, stamp := if g.stampEn then stamp else 0, coarse := g.stampEn && coarse }],
    nextSlot := g.nextSlot + 1, written := g.written + 1 }

theorem Gq.store_eq (g : Gq) (data : BitVec 64) (stamp : BitVec 32) (coarse : Bool) :
    g.store data stamp coarse = ((if 2048 ≤ g.wLevel then g.flushTaken.overwrite else g.flushTaken).append data stamp coarse).evalHi := by
  unfold Gq.store
  rw [Gq.flushTaken_eq]
  rfl

theorem Gq.store_of_room {g : Gq} (room : g.wLevel < 2048) (data : BitVec 64) (stamp : BitVec 32) (coarse : Bool) :
    g.store data stamp coarse = (g.flushTaken.append data stamp coarse).evalHi := by
  rw [Gq.store_eq, if_neg (Nat.not_le.mpr room)]

/-- A write to a queue with room raises HI where the new level reaches HI_ON. -/
theorem Gq.store_of_room_hi {g : Gq} (room : g.wLevel < 2048) (data : BitVec 64) (stamp : BitVec 32) (coarse : Bool)
    (reached : hiOn g.marks ≤ g.wLevel + 1) : (g.store data stamp coarse).hi = true := by
  rw [Gq.store_of_room room]
  refine Gq.evalHi_hi_of_reached (Nat.le_trans reached (le_of_eq ?_))
  simp only [Gq.wLevel, Gq.append, Gq.flushTaken, List.length_append, List.length_singleton]
  omega

/-- A write to a full queue from which an entry can go: the oldest but the presented one. -/
theorem Gq.store_of_full {g : Gq} (full : 2048 ≤ g.wLevel) (more : (if 1 ≤ g.rLevel then 1 else 0) < g.entries.length) (data : BitVec 64)
    (stamp : BitVec 32) (coarse : Bool) {h : Gq} (hh : g.store data stamp coarse = h) :
    h.entries = (if 1 ≤ g.rLevel then g.entries.take 1 ++ g.entries.drop 2 else g.entries.drop 1) ++
      [{ slot := g.nextSlot, data := data, stamp := if g.stampEn then stamp else 0, coarse := g.stampEn && coarse }] ∧
    h.lost = satAdd g.lost 1 ∧ h.written = g.written + 1 := by
  subst hh
  have goes : ¬ g.flushTaken.entries.length ≤ if 1 ≤ g.flushTaken.rLevel then 1 else 0 := Nat.not_le.mpr more
  rw [Gq.store_eq, if_pos full, Gq.overwrite, if_neg goes]
  refine ⟨?_, rfl, rfl⟩
  by_cases presented : 1 ≤ g.rLevel
  · have here : 1 ≤ g.flushTaken.rLevel := presented
    simp only [presented, here, if_true]
    rfl
  · have absent : ¬ 1 ≤ g.flushTaken.rLevel := presented
    simp only [presented, absent, if_false]
    rfl

/-- A write to a full queue that holds no entry but the presented one: nothing goes. -/
theorem Gq.store_of_full_kept {g : Gq} (full : 2048 ≤ g.wLevel) (none_goes : g.entries.length ≤ if 1 ≤ g.rLevel then 1 else 0)
    (data : BitVec 64) (stamp : BitVec 32) (coarse : Bool) :
    g.store data stamp coarse = (g.flushTaken.append data stamp coarse).evalHi := by
  have kept : g.flushTaken.overwrite = g.flushTaken := if_pos none_goes
  rw [Gq.store_eq, if_pos full, kept]

@[simp] theorem State.gq_gqStore (s : State) (d q : Nat) (data : BitVec 64) :
    (s.gqStore d q data).gq d q = (s.gq d q).store data (s.stamp d) (s.coarse d) := State.gq_modGq ..
theorem State.gq_gqStore_other (s : State) (d : Nat) {q k : Nat} (data : BitVec 64) (h : k ≠ q) : (s.gqStore d q data).gq d k = s.gq d k :=
  State.gq_modGq_other _ _ (.inr h)

/-! ### Pops (03 R91, R95) -/

theorem Gq.presented_of_seen {g : Gq} {e : GqEntry} {rest : List GqEntry} (held : g.entries = e :: rest) (seen : 0 < g.rSeen) :
    g.presented = some e := by
  rw [Gq.presented, if_neg (by omega), held]
  rfl

/-- An entry that passes its check is delivered as it was stored. -/
theorem GqEntry.find_entry_of_passes {e : GqEntry} {u su : Upset} {raw sraw : BitVec 64} (passes : (e.find u su raw sraw).bad = false) :
    (e.find u su raw sraw).entry.data = e.data ∧ (e.find u su raw sraw).entry.stamp = e.stamp := by
  simp only [GqEntry.find, Bool.or_eq_false_iff] at passes ⊢
  obtain ⟨⟨⟨⟨data, stamp⟩, -⟩, -⟩, -⟩ := passes
  constructor
  · rw [if_neg]; rintro ⟨double, -⟩; rw [double] at data; cases data
  · rw [if_neg]; rintro ⟨double, -⟩; rw [double] at stamp; cases stamp

/-- The queue once the presented entry, found so by its check, is popped. -/
def Gq.popped (g : Gq) (f : EntryFind) : Gq :=
  let g := { g with entries := g.entries.tail, rSeen := g.rSeen - 1, unseenPops := g.unseenPops + 1, read := g.read + 1,
                    flushMark := g.flushMark - 1, ueSeen := g.ueSeen || f.bad }
  (if f.single ∧ ¬ f.bad then g.correct else g).evalLo

/-- A pop takes the front entry, moves both views and counts in READ; CORR counts a corrected entry, UE_SEEN notes a failed one. -/
theorem Gq.popped_fields {g h : Gq} {f : EntryFind} (hh : g.popped f = h) :
    h.entries = g.entries.tail ∧ h.read = g.read + 1 ∧ h.rSeen = g.rSeen - 1 ∧ h.unseenPops = g.unseenPops + 1 ∧
    h.corr = (if f.single = true ∧ f.bad = false then satInc g.corr else g.corr) ∧ h.ueSeen = (g.ueSeen || f.bad) := by
  subst hh
  by_cases corrected : f.single = true ∧ f.bad = false
  · simp [Gq.popped, Gq.evalLo, Gq.correct, corrected]
  · rw [if_neg corrected]
    simp [Gq.popped, Gq.evalLo, corrected]

/-- What a pop delivers of an entry. -/
def EntryFind.out (f : EntryFind) : Popped := { data := f.entry.data, stamp := f.entry.stamp, coarse := f.entry.coarse, poison := f.bad }

theorem GqEntry.find_out_of_passes {e : GqEntry} {u su : Upset} {raw sraw : BitVec 64} (passes : (e.find u su raw sraw).bad = false) :
    (e.find u su raw sraw).out = { data := e.data, stamp := e.stamp, coarse := e.coarse, poison := false } := by
  obtain ⟨data, stamp⟩ := GqEntry.find_entry_of_passes passes
  rw [EntryFind.out, data, stamp, passes]
  rfl

@[simp] theorem State.raiseEvent_die (s : State) (node evid data : Nat) (note : Option LogEntry) (d : Nat) :
    (s.raiseEvent node evid data note).die d = s.die d := by
  unfold State.raiseEvent
  split <;> rfl

theorem State.raiseGqUe_gq (s : State) (d q slot : Nat) (scrub : Bool) (d' q' : Nat) : (s.raiseGqUe d q slot scrub).gq d' q' = s.gq d' q' := by
  simp [State.gq, State.raiseGqUe]

/-- The presented entry is popped and delivered; the event it may raise touches no queue. -/
theorem gqPopEntry_of_presented {s : State} {d q : Nat} {u su : Upset} {e : GqEntry} (presented : (s.gq d q).presented = some e) :
    ∃ t, gqPopEntry s d q u su = (t, some (e.find u su s.freeVal (s.freeValAt 1)).out) ∧
      t.gq d q = (s.gq d q).popped (e.find u su s.freeVal (s.freeValAt 1)) ∧ ∀ k, k ≠ q → t.gq d k = s.gq d k := by
  generalize hf : e.find u su s.freeVal (s.freeValAt 1) = f
  let popped := (s.modGq d q fun g => g.popped f).drew 2
  have at_q : popped.gq d q = (s.gq d q).popped f := State.gq_modGq ..
  have others : ∀ k, k ≠ q → popped.gq d k = s.gq d k := fun k hk => State.gq_modGq_other _ _ (.inr hk)
  have run : gqPopEntry s d q u su = (if f.bad ∧ ¬ e.marked then popped.raiseGqUe d q e.slot.toNat false else popped, some f.out) := by
    subst hf
    simp only [gqPopEntry, presented]
    rfl
  refine ⟨_, run, ?_, fun k hk => ?_⟩
  · split
    · rw [State.raiseGqUe_gq, at_q]
    · exact at_q
  · split
    · rw [State.raiseGqUe_gq, others k hk]
    · exact others k hk

theorem gqPopEntry_of_unseen {s : State} {d q : Nat} {u su : Upset} (unseen : (s.gq d q).rSeen = 0) : gqPopEntry s d q u su = (s, none) := by
  have presented : (s.gq d q).presented = none := if_pos unseen
  simp only [gqPopEntry, presented]

/-! ### Flush (03 R94) -/

/-- The queue once its read side has applied the flush, the write clock running or not. -/
def Gq.flushApplied (g : Gq) (wRuns : Bool) : Gq :=
  let n := min g.flushMark g.entries.length
  let g := (({ g with entries := g.entries.drop n, rSeen := g.rSeen - n, flushMark := 0, flush := !wRuns } : Gq).lose n).evalLo
  if wRuns then g.evalHi else g

/-- The marked entries go and count in LOST. -/
theorem Gq.flushApplied_fields {g h : Gq} {wRuns : Bool} (marked : g.flushMark ≤ g.entries.length) (hh : g.flushApplied wRuns = h) :
    h.entries = g.entries.drop g.flushMark ∧ h.flush = !wRuns ∧ h.flushMark = 0 ∧ h.flushPend = g.flushPend ∧
    h.lost = satAdd g.lost g.flushMark ∧ h.read = g.read := by
  subst hh
  cases wRuns <;> simp [Gq.flushApplied, Gq.lose, Gq.evalLo, Gq.evalHi, marked]

theorem State.gqR_modGq_flushEdge (s : State) (d q : Nat) : (s.modGq d q Gq.flushEdge).gqR d q = s.gqR d q := by
  unfold State.gqR
  rw [State.gq_modGq]
  rfl

/-- The flush of marked entries is applied at an edge of the read clock. -/
theorem exec_gqFlushApply_of_marked {s : State} {d q : Nat} (flush : (s.gq d q).flush = true) (marked : (s.gq d q).flushPend = false)
    (edge : s.gqR d q = true) : exec (.gqFlushApply d q) s = .next (s.modGq d q fun g => g.flushApplied (s.gqW d q)) := by
  refine congrArg Host.Outcome.next ?_
  dsimp only
  rw [if_neg (by simp [flush]), if_neg (show ¬ ((s.gq d q).flushPend = true ∧ _) by simp [marked]), if_neg (by simp [marked, edge])]
  rfl

/-- A flush that waited for the write clock takes its edge first. -/
theorem exec_gqFlushApply_of_waiting {s : State} {d q : Nat} (flush : (s.gq d q).flush = true) (waiting : (s.gq d q).flushPend = true)
    (wEdge : s.gqW d q = true) (edge : s.gqR d q = true) :
    exec (.gqFlushApply d q) s = .next ((s.modGq d q Gq.flushEdge).modGq d q fun g => g.flushApplied true) := by
  refine congrArg Host.Outcome.next ?_
  dsimp only
  rw [if_neg (by simp [flush]), if_pos (show (s.gq d q).flushPend = true ∧ _ from ⟨waiting, wEdge⟩),
    if_neg (by rw [State.gqR_modGq_flushEdge, State.gq_modGq]; simp [Gq.flushEdge, edge]), wEdge]
  rfl

end Sys2Proof.Machine
end

section
/-! PROOFS. Gutter queues, part 2: the queue registers, and the statement about the queues (03 R97 to R103). -/

open Sys2Proof
namespace Sys2Proof.Machine

@[simp] theorem State.answer_gq (s : State) (resp : BitVec 3) (data : BitVec 64) (d q : Nat) : (s.answer resp data).gq d q = s.gq d q := rfl

/-- An access to a queue's registers that is let through is what the register answers. -/
theorem gqDirect_of_reaches {w : Who} {d q off : Nat} {write eight : Bool} {v : Nat} {u su : Upset} {s t : State} {data : Nat}
    (h : s.reaches w (gqAddr d q off) write = true) (reg : gqReg w s d q off write eight v u su = regOk t data) :
    gqDirect w d q off write eight v u su s = .next (t.answer respOk (BitVec.ofNat 64 data)) := by
  have run := State.access_of_reaches (body := fun s => gqReg w s d q off write eight v u su) h
    (by rw [reg]; exact (show respOk ≠ respDenied by decide))
  rw [reg] at run
  exact congrArg Host.Outcome.next run

/-- GQ_PUSH of a queue in use whose write side is the register and whose write clock runs. -/
theorem gqReg_push {w : Who} {s : State} {d q : Nat} {u su : Upset} (hq : q < 128) (used : (s.gq d q).used = true)
    (side : (s.gq d q).wsel.toNat = 32) (edge : s.gqW d q = true) (data : BitVec 64) :
    gqReg w s d q 0x80 true true data.toNat u su = regOk (s.gqStore d q data) 0 := by
  simp [gqReg, gqPushReg, Nat.not_le.mpr hq, used, side, edge]

section
variable {w : Who} {s t : State} {d q : Nat} {u su : Upset} (hq : q < 128) (used : (s.gq d q).used = true) (side : (s.gq d q).rsel.toNat = 32)
  (edge : s.gqR d q = true) (acts : w.src ≠ 0x801 ∨ w.effect = true)
include hq used side edge acts

/-- A read of GQ_POP that acts, of a queue in use whose read side is the register and whose read clock runs. -/
theorem gqReg_pop_some {p : Popped} (run : gqPopEntry s d q u su = (t, some p)) :
    gqReg w s d q 0x88 false true 0 u su = regOk (t.modGq d q fun g =>
      { g with popMeta := BitVec.ofNat 64 (p.stamp.toNat + atBit true 32 + atBit p.poison 33 + atBit p.coarse 34) }) p.data.toNat := by
  have readActs : readActs w = true := by simpa [readActs] using acts
  simp [gqReg, gqPopReg, Nat.not_le.mpr hq, used, side, edge, readActs, run]

/-- The same where no entry is presented. -/
theorem gqReg_pop_none (run : gqPopEntry s d q u su = (t, none)) :
    gqReg w s d q 0x88 false true 0 u su = regOk (t.modGq d q fun g => { g with popMeta := 0 }) 0 := by
  have readActs : readActs w = true := by simpa [readActs] using acts
  simp [gqReg, gqPopReg, Nat.not_le.mpr hq, used, side, edge, readActs, run]

end

/-- A write of GQ_CTRL. -/
theorem gqReg_ctrl {w : Who} {s : State} {d q v : Nat} {u su : Upset} (hq : q < 128) (hv : v < 2 ^ 32) :
    gqReg w s d q 0x04 true false v u su = regOk (gqCtrl s d q v) 0 := by
  have word : v % 2 ^ 32 = v := Nat.mod_eq_of_lt hv
  simp [gqReg, Nat.not_le.mpr hq, putWords, State.gqWriteWord, -Nat.reducePow, word]

theorem gqReg_marks {w : Who} {s : State} {d q v : Nat} {u su : Upset} (hq : q < 128) :
    gqReg w s d q 0x10 true true v u su = regOk (gqMarks s d q v) 0 := by simp [gqReg, Nat.not_le.mpr hq]

theorem gqCtrl_snap (s : State) (d q : Nat) : gqCtrl s d q 1 = s.modGq d q fun g => g.snap (s.stamp d) := rfl
theorem gqCtrl_clr (s : State) (d q : Nat) : gqCtrl s d q 2 = s.modGq d q Gq.clr := rfl
theorem gqCtrl_flush (s : State) (d q : Nat) : gqCtrl s d q 4 = s.modGq d q fun g => g.flushCmd (s.gqW d q) := rfl

/-- Thresholds in order are taken: GQ_MARKS holds their fields (03 R97). -/
theorem gqMarks_of_order {s : State} {d q : Nat} {data : BitVec 64} (hi : hiOff data < hiOn data) (hiTop : hiOn data ≤ 2048)
    (lo : loOn data < loOff data) (loTop : loOff data ≤ 2048) {g : Gq} (hg : (gqMarks s d q data.toNat).gq d q = g) :
    g.marks = data &&& marksBits ∧ g.markErr = (s.gq d q).markErr ∧ g.entries = (s.gq d q).entries := by
  subst hg
  have ok : marksOk data.toNat = true := by
    simp [marksOk, hi, hiTop, lo, loTop, Nat.le_of_lt (Nat.lt_of_lt_of_le hi hiTop), Nat.le_of_lt (Nat.lt_of_lt_of_le lo loTop)]
  rw [gqMarks, if_pos ok, State.gq_modGq]
  cases s.gqW d q <;> cases s.gqR d q <;> simp [Gq.evalHi, Gq.evalLo]

theorem gqMarks_of_disorder {s : State} {d q : Nat} {data : BitVec 64} (hi : hiOn data ≤ hiOff data) :
    gqMarks s d q data.toNat = s.modGq d q fun g => { g with markErr := true } :=
  if_neg (by simp [marksOk, Nat.not_lt.mpr hi])

/-- GQ_POP_META of an entry that passes its check. -/
theorem popMeta_of_passes (stamp : BitVec 32) (coarse : Bool) :
    stamp.toNat + atBit true 32 + atBit false 33 + atBit coarse 34 = stamp.toNat + 2 ^ 32 + if coarse then 2 ^ 34 else 0 := by
  simp only [atBit, if_true, Bool.false_eq_true, if_false, Nat.add_zero]

/-- VALID and POISON of GQ_POP_META, above the stamp (03 Table 3.10). -/
theorem popMeta_flags (stamp : BitVec 32) (poison coarse : Bool) :
    (BitVec.ofNat 64 (stamp.toNat + atBit true 32 + atBit poison 33 + atBit coarse 34)).getLsbD 32 = true ∧
    (BitVec.ofNat 64 (stamp.toNat + atBit true 32 + atBit poison 33 + atBit coarse 34)).getLsbD 33 = poison := by
  have fields : stamp.toNat + atBit true 32 + atBit poison 33 + atBit coarse 34 = 2 ^ 32 * (1 + atBit poison 1 + atBit coarse 2) + stamp.toNat := by
    cases poison <;> cases coarse <;> simp only [atBit, if_true, Bool.false_eq_true, if_false] <;> omega
  rw [fields, BitVec.getLsbD_ofNat, BitVec.getLsbD_ofNat, Nat.testBit_two_pow_mul_add _ stamp.isLt, Nat.testBit_two_pow_mul_add _ stamp.isLt]
  cases poison <;> cases coarse <;> exact ⟨rfl, rfl⟩

end Sys2Proof.Machine

open Sys2Proof Sys2Proof.Machine

/-- Settles O12: the fabric sides and the flush by what each does to its queue, the registers by what an access that is let through does. -/
theorem gutterQueues : Obligations.gutterQueues := by
  unfold Obligations.gutterQueues
  refine ⟨?write, ?write_full, ?write_full_kept, ?pop, ?write_seen, ?pop_seen, ?flush_marked, ?flush_waiting, ?push, ?pop_good, ?pop_bad,
    ?pop_none, ?snap, ?clr, ?flush_running, ?flush_stopped, ?marks, ?marks_refused⟩
  case write =>
    rintro s d q data ⟨hq, edge, side, reaches, room⟩
    refine ⟨_, congrArg Host.Outcome.next (if_pos ⟨hq, edge, side, reaches⟩), ?_⟩
    rw [State.gq_gqStore, Gq.store_of_room room]
    refine ⟨rfl, rfl, rfl, rfl, rfl, fun reached => ?_, fun k hk => State.gq_gqStore_other s d data hk⟩
    rw [← Gq.store_of_room room]
    exact Gq.store_of_room_hi room _ _ _ reached
  case write_full =>
    rintro s d q data ⟨hq, edge, side, reaches, full, more⟩
    obtain ⟨entries, lost, written⟩ := Gq.store_of_full full more data (s.stamp d) (s.coarse d) rfl
    refine ⟨_, congrArg Host.Outcome.next (if_pos ⟨hq, edge, side, reaches⟩), ?_⟩
    rw [State.gq_gqStore]
    exact ⟨entries, lost, written, fun k hk => State.gq_gqStore_other s d data hk⟩
  case write_full_kept =>
    rintro s d q data ⟨hq, edge, side, reaches, full, none_goes⟩
    refine ⟨_, congrArg Host.Outcome.next (if_pos ⟨hq, edge, side, reaches⟩), ?_⟩
    rw [State.gq_gqStore, Gq.store_of_full_kept full none_goes]
    exact ⟨rfl, rfl, rfl⟩
  case pop =>
    rintro s d q u su e rest ⟨hq, edge, side, reaches, held, seen⟩
    obtain ⟨t, run, at_q, others⟩ := gqPopEntry_of_presented (u := u) (su := su) (Gq.presented_of_seen held seen)
    obtain ⟨entries, read, rSeen, unseenPops, corr, ueSeen⟩ := Gq.popped_fields at_q.symm
    refine ⟨t.modGq d q fun g => { g with taken := some (e.find u su s.freeVal (s.freeValAt 1)).out }, congrArg Host.Outcome.next ?_, ?_⟩
    · rw [if_pos ⟨hq, edge, side, reaches⟩, run]
    · rw [State.gq_modGq]
      refine ⟨by rw [entries, held]; rfl, read, rSeen, unseenPops, rfl, fun passes => ?_, corr, ueSeen, fun k hk => ?_⟩
      · exact congrArg some (GqEntry.find_out_of_passes passes)
      · rw [State.gq_modGq_other _ _ (.inr hk), others k hk]
  case write_seen =>
    rintro s d q ⟨edge, held⟩
    refine ⟨_, congrArg Host.Outcome.next (if_pos ⟨edge, held⟩), ?_⟩
    rw [State.gq_modGq]
    have level : Gq.rLevel { s.gq d q with rSeen := (s.gq d q).rSeen + 1 } = (s.gq d q).rSeen + 1 := Nat.min_eq_left held
    exact ⟨rfl, rfl, rfl, fun above left => Gq.evalLo_lo_of_left (by rw [level]; exact above) (by rw [level]; exact left)⟩
  case pop_seen =>
    rintro s d q ⟨edge, unseen⟩
    refine ⟨_, congrArg Host.Outcome.next (if_pos ⟨edge, unseen⟩), ?_⟩
    rw [State.gq_modGq]
    have level : Gq.wLevel { s.gq d q with unseenPops := (s.gq d q).unseenPops - 1 } = (s.gq d q).wLevel - 1 :=
      (Nat.add_sub_assoc unseen _).symm
    exact ⟨rfl, rfl, rfl, fun below left => Gq.evalHi_hi_of_left (by rw [level]; exact below) (by rw [level]; exact left)⟩
  case flush_marked =>
    rintro s d q ⟨flush, marked, edge, held⟩
    obtain ⟨entries, flushed, mark, -, lost, read⟩ := Gq.flushApplied_fields (wRuns := s.gqW d q) held rfl
    refine ⟨_, exec_gqFlushApply_of_marked flush marked edge, ?_⟩
    rw [State.gq_modGq]
    exact ⟨entries, flushed, mark, lost, read⟩
  case flush_waiting =>
    rintro s d q ⟨flush, waiting, wEdge, edge⟩
    obtain ⟨entries, flushed, -, pend, lost, -⟩ := Gq.flushApplied_fields (g := (s.gq d q).flushEdge) (wRuns := true) le_rfl rfl
    refine ⟨_, exec_gqFlushApply_of_waiting flush waiting wEdge edge, ?_⟩
    rw [State.gq_modGq, State.gq_modGq]
    exact ⟨entries.trans List.drop_length, flushed, pend, lost⟩
  case push =>
    rintro s w d q data ⟨hq, h, edge, used, side, room⟩
    refine ⟨_, gqDirect_of_reaches h (gqReg_push hq used side edge data), rfl, ?_⟩
    rw [State.answer_gq, State.gq_gqStore, Gq.store_of_room room]
    exact ⟨rfl, rfl, fun k hk => State.gq_gqStore_other s d data hk⟩
  case pop_good =>
    rintro s w d q u su e rest ⟨hq, h, edge, used, side, acts, held, seen, passes⟩
    obtain ⟨t, run, at_q, -⟩ := gqPopEntry_of_presented (u := u) (su := su) (Gq.presented_of_seen held seen)
    obtain ⟨entries, read, -⟩ := Gq.popped_fields at_q.symm
    rw [GqEntry.find_out_of_passes passes] at run
    refine ⟨_, gqDirect_of_reaches h (gqReg_pop_some hq used side edge acts run), rfl, ?_⟩
    rw [State.answer_gq, State.gq_modGq]
    exact ⟨by rw [entries, held]; rfl, read, congrArg (BitVec.ofNat 64) (popMeta_of_passes e.stamp e.coarse)⟩
  case pop_bad =>
    rintro s w d q u su e rest ⟨hq, h, edge, used, side, acts, held, seen, fails⟩
    obtain ⟨t, run, at_q, -⟩ := gqPopEntry_of_presented (u := u) (su := su) (Gq.presented_of_seen held seen)
    obtain ⟨entries, read, -, -, -, ueSeen⟩ := Gq.popped_fields at_q.symm
    refine ⟨_, gqDirect_of_reaches h (gqReg_pop_some hq used side edge acts run), rfl, ?_⟩
    rw [State.answer_gq, State.gq_modGq]
    obtain ⟨valid, poison⟩ := popMeta_flags (e.find u su s.freeVal (s.freeValAt 1)).entry.stamp (e.find u su s.freeVal (s.freeValAt 1)).bad
      (e.find u su s.freeVal (s.freeValAt 1)).entry.coarse
    exact ⟨by rw [entries, held]; rfl, read, by rw [ueSeen, fails, Bool.or_true], valid, poison.trans fails⟩
  case pop_none =>
    rintro s w d q u su ⟨hq, h, edge, used, side, acts, unseen⟩
    refine ⟨_, gqDirect_of_reaches h (gqReg_pop_none hq used side edge acts (gqPopEntry_of_unseen unseen)), rfl, ?_⟩
    rw [State.answer_gq, State.gq_modGq]
    exact ⟨rfl, rfl, BitVec.getLsbD_zero⟩
  case snap =>
    rintro s w d q ⟨hq, h⟩
    refine ⟨_, gqDirect_of_reaches h (gqReg_ctrl hq (by decide)), rfl, ?_⟩
    rw [State.answer_gq, gqCtrl_snap, State.gq_modGq]
    rfl
  case clr =>
    rintro s w d q ⟨hq, h⟩
    refine ⟨_, gqDirect_of_reaches h (gqReg_ctrl hq (by decide)), rfl, ?_⟩
    rw [State.answer_gq, gqCtrl_clr, State.gq_modGq]
    rfl
  case flush_running =>
    rintro s w d q ⟨hq, h, edge⟩
    refine ⟨_, gqDirect_of_reaches h (gqReg_ctrl hq (by decide)), rfl, ?_⟩
    rw [State.answer_gq, gqCtrl_flush, State.gq_modGq, edge]
    exact ⟨rfl, rfl, rfl⟩
  case flush_stopped =>
    rintro s w d q ⟨hq, h, stopped⟩
    refine ⟨_, gqDirect_of_reaches h (gqReg_ctrl hq (by decide)), rfl, ?_⟩
    rw [State.answer_gq, gqCtrl_flush, State.gq_modGq, stopped]
    exact ⟨rfl, rfl, rfl⟩
  case marks =>
    rintro s w d q data ⟨hq, h, hi, hiTop, lo, loTop⟩
    exact ⟨_, gqDirect_of_reaches h (gqReg_marks hq), rfl, gqMarks_of_order hi hiTop lo loTop rfl⟩
  case marks_refused =>
    rintro s w d q data ⟨hq, h, disorder⟩
    refine ⟨_, gqDirect_of_reaches h (gqReg_marks hq), ?_⟩
    rw [State.answer_gq, gqMarks_of_disorder disorder, State.gq_modGq]
end

section
/-! PROOFS. Block memories: a read stores the word it addressed again, which takes an entry equal to the unwritten mark out of the table of the
words (03 R79 to R81, R85). -/

open Sys2Proof
namespace Sys2Proof.Machine

/-- A faulty decoder leaves the addressed word as it is stored. -/
theorem BramWord.struck_other (w : BramWord) (a : Nat) (raw : BitVec 64) : w.struck (.other a) raw = w := if_pos ⟨rfl, nofun⟩

@[simp] theorem Bram.setPort_words (b : Bram) (pb : Bool) (p : BramPort) : (b.setPort pb p).words = b.words := by cases pb <;> rfl

@[simp] theorem State.bram_raiseBramUe (s : State) (d m : Nat) (pb refused scrub : Bool) (w d' m' : Nat) :
    (s.raiseBramUe d m pb refused scrub w).bram d' m' = s.bram d' m' := by simp [State.bram, State.raiseBramUe]
@[simp] theorem State.bram_drew (s : State) (n d m : Nat) : (s.drew n).bram d m = s.bram d m := rfl

/-- A read of a loaded memory stores the addressed word again, with what the disturbance made of it. -/
theorem words_bramRead_of_loaded {s : State} {d m addr : Nat} {pb : Bool} {u : Upset} (ready : s.bramReady d m pb addr false = true)
    (loaded : (s.bram d m).loaded = true) :
    ((bramRead s d m pb addr u).bram d m).words = tput markWord (s.bram d m).words (addr / (s.bram d m).mode.parts)
      ((tget markWord (s.bram d m).words (addr / (s.bram d m).mode.parts)).struck u s.freeVal) := by
  unfold bramRead
  rw [if_neg (by simp [ready])]
  dsimp only
  rw [if_pos loaded]
  split <;> simp [BramMode.place]

/-- Memory 2500 of F-die 0 is loaded, its port clock runs, and its table of words lists word 0 with the unwritten mark: the value that stands for
    an unlisted word. -/
def markListed : State :=
  (State.reset.modNode (fclkNode 0 0) fun c => { c with state := .running }).modBram 0 2500 fun b =>
    { b with loaded := true, words := [(0, markWord)] }

/-- Port A can read word 0, on an edge without a coinciding write, and the check fails where the decoder returns word 1. -/
theorem markListed_reads_failing_decoder : markListed.bramReady 0 2500 false 0 false = true ∧ 0 ≠ 8 ∧ (markListed.bram 0 2500).loaded = true ∧
    (markListed.bram 0 2500).coincident false (0 / (markListed.bram 0 2500).mode.parts) markListed.now true = none ∧
    addrFails (0 / (markListed.bram 0 2500).mode.parts) (1 % 1024) = true := by decide +kernel

theorem words_markListed : (markListed.bram 0 2500).words = [(0, markWord)] ∧ (markListed.bram 0 2500).mode = .k1 := by decide +kernel

/-- The read leaves every word of the memory as it was, but the table without its one entry. -/
theorem words_bramRead_markListed : ((bramRead markListed 0 2500 false 0 (.other 1)).bram 0 2500).words = [] := by
  obtain ⟨ready, -, loaded, -, -⟩ := markListed_reads_failing_decoder
  obtain ⟨words, mode⟩ := words_markListed
  rw [words_bramRead_of_loaded ready loaded, BramWord.struck_other, words, mode]
  decide

end Sys2Proof.Machine

open Sys2Proof Sys2Proof.Machine

/-- Refutes O13, in its third clause: a read of a loaded memory through a failing decoder gives every word back unchanged, but not, as the clause
    says of every state, the same table: where the table lists a word that stands at the unwritten mark, the entry is gone. -/
theorem not_blockMemoryPorts : ¬ Obligations.blockMemoryPorts := by
  rintro ⟨-, -, decoderRead, -⟩
  obtain ⟨t, run, -, -, words⟩ := decoderRead markListed 0 2500 0 1 false markListed_reads_failing_decoder
  rw [← Host.Outcome.next.inj run, words_markListed.1] at words
  exact absurd (words_bramRead_markListed.symm.trans words) (by decide)
end

section
/-! PROOFS. Arithmetic slices, part 1: a cycle stage by stage, and what each stage leaves alone (05 R134). -/

open Sys2Proof
namespace Sys2Proof.Machine

/-! ### The parts of a slice that the stages share out -/

/-- What M2 and WB produce: accumulators, index registers, flags and the data memories. -/
def Slice.results (s : Slice) : Tab (BitVec 56) × Tab (BitVec 16) × BitVec 5 × Tab MemWord × Tab MemWord := (s.a, s.ix, s.flags, s.xmem, s.ymem)

/-- The six flights of a slice. -/
def Slice.stages (s : Slice) : Stages := { d := s.stD, ag := s.stAG, mr := s.stMR, m1 := s.stM1, m2 := s.stM2, wb := s.stWB }

@[simp] theorem Slice.acc_setA_same (s : Slice) (n : Nat) (v : BitVec 56) : (s.setA n v).acc n = v := tget_tput_same ..
theorem Slice.acc_setA_other (s : Slice) {n k : Nat} (v : BitVec 56) (h : k ≠ n) : (s.setA n v).acc k = s.acc k := tget_tput_other _ _ _ h
@[simp] theorem Slice.acc_setIx (s : Slice) (n k : Nat) (v : BitVec 16) : (s.setIx n v).acc k = s.acc k := rfl
@[simp] theorem Slice.dReg_setD_same (s : Slice) (n : Nat) (v : BitVec 24) (o : BitVec 16) : (s.setD n v o).dReg n = v := tget_tput_same ..

@[simp] theorem Slice.ctl_setCtl (s : Slice) (c : Control) : (s.setCtl c).ctl = c := rfl
@[simp] theorem Slice.ctl_setStages (s : Slice) (g : Stages) : (s.setStages g).ctl = s.ctl := rfl
@[simp] theorem Slice.stages_setStages (s : Slice) (g : Stages) : (s.setStages g).stages = g := rfl
@[simp] theorem Slice.results_setCtl (s : Slice) (c : Control) : (s.setCtl c).results = s.results := rfl
@[simp] theorem Slice.results_setStages (s : Slice) (g : Stages) : (s.setStages g).results = s.results := rfl
@[simp] theorem Slice.results_countCorr (s : Slice) (x y i : Bool) : (s.countCorr x y i).results = s.results := rfl

@[simp] theorem Slice.results_settle (s : Slice) : s.settle.results = s.results := by
  unfold Slice.settle
  split
  · split <;> rfl
  · rfl

@[simp] theorem Slice.stWB_settle (s : Slice) : s.settle.stWB = s.stWB := by
  unfold Slice.settle
  split
  · split <;> rfl
  · rfl

@[simp] theorem Slice.stM2_settle (s : Slice) : s.settle.stM2 = s.stM2 := by
  unfold Slice.settle
  split
  · split <;> rfl
  · rfl

/-- A running slice does not come to its end. -/
theorem Slice.settle_of_running {s : Slice} (running : s.run = .running) : s.settle = s := by simp [Slice.settle, running]

@[simp] theorem results_enterTrap (old : Slice) (draining : Bool) (t : TrapAt) (s : Slice) : (enterTrap old draining t s).results = s.results := by
  unfold enterTrap
  dsimp only
  split
  · rfl
  · split <;> rfl

/-! ### Stages MR and AG leave the results, the count of cycles and the words in flight alone -/

theorem Slice.pop_keeps (s : Slice) (i : Bool) : (s.pop i).2.results = s.results ∧ (s.pop i).2.cycles = s.cycles := by
  unfold Slice.pop
  split
  · split
    · cases i <;> exact ⟨rfl, rfl⟩
    · exact ⟨rfl, rfl⟩
  · exact ⟨rfl, rfl⟩

theorem mrMove_keeps (old : Slice) (y : Bool) (m : Nat) (a : BitVec 11) (r : Reading) (s : Slice) :
    (mrMove old y m a r s).results = s.results ∧ (mrMove old y m a r s).cycles = s.cycles := by
  unfold mrMove
  dsimp only
  split
  · exact ⟨rfl, rfl⟩
  · exact ⟨rfl, rfl⟩
  · exact s.pop_keeps _
  · exact ⟨rfl, rfl⟩

theorem mrStage_keeps (old : Slice) (f : Flight) (i : CycleIn) (s : Slice) :
    (mrStage old f i s).1.results = s.results ∧ (mrStage old f i s).1.cycles = s.cycles ∧ (mrStage old f i s).2.word = f.word := by
  unfold mrStage
  split
  · exact ⟨rfl, rfl, rfl⟩
  · split
    · obtain ⟨xResults, xCycles⟩ := mrMove_keeps old false (iX f.word) f.xa i.x s
      obtain ⟨yResults, yCycles⟩ := mrMove_keeps old true (iY f.word) f.ya i.y (mrMove old false (iX f.word) f.xa i.x s)
      exact ⟨yResults.trans xResults, yCycles.trans xCycles, rfl⟩
    · split
      · obtain ⟨results, cycles⟩ := s.pop_keeps (iCode2 f.word == 0x2D)
        dsimp only
        split
        · exact ⟨results, cycles, rfl⟩
        · exact ⟨results, cycles, rfl⟩
      · exact ⟨rfl, rfl, rfl⟩

theorem Slice.setPtr_keeps (s : Slice) (y : Bool) (n : Nat) (v : BitVec 11) :
    (s.setPtr y n v).results = s.results ∧ (s.setPtr y n v).cycles = s.cycles ∧ (s.setPtr y n v).d = s.d := by cases y <;> exact ⟨rfl, rfl, rfl⟩

theorem agStage_keeps (old : Slice) (f : Flight) (landed : List WbWrite) (s : Slice) :
    (agStage old f landed s).1.results = s.results ∧ (agStage old f landed s).1.cycles = s.cycles ∧ (agStage old f landed s).1.d = s.d ∧
    (agStage old f landed s).2.word = f.word := by
  unfold agStage
  dsimp only
  split
  · exact ⟨rfl, rfl, rfl, rfl⟩
  · dsimp only
    split <;> split <;> simp [Slice.setPtr_keeps]

/-! ### Stages WB and M2 -/

/-- What no update changes, no list of updates changes. -/
theorem foldl_keeps {S A B : Type} (view : S → B) (f : S → A → S) (h : ∀ s a, view (f s a) = view s) (l : List A) (s : S) :
    view (l.foldl f s) = view s := by
  induction l generalizing s with
  | nil => rfl
  | cons a l ih => exact (ih _).trans (h s a)

@[simp] theorem m1Stage_word (old : Slice) (f : Flight) : (m1Stage old f).word = f.word := by
  unfold m1Stage
  split <;> rfl

@[simp] theorem cycles_outPush (s : Slice) (i : Bool) (v : BitVec 24) : (s.outPush i v).cycles = s.cycles := by
  unfold Slice.outPush
  dsimp only
  split <;> split <;> rfl

theorem cycles_landOne (blank : MemWord) (s : Slice) (w : WbWrite) : (Slice.landOne blank s w).cycles = s.cycles := by
  simp only [Slice.landOne, apply_ite Slice.cycles, cycles_outPush, Slice.setD, Slice.setA, Slice.setPtr, Slice.setIx, ite_self]

theorem cycles_land (s : Slice) (blank : MemWord) (ws : List WbWrite) : (s.land blank ws).cycles = s.cycles :=
  foldl_keeps Slice.cycles _ (cycles_landOne blank) ws s

theorem m2Stage_of_nop {old s : Slice} {f : Flight} (casin : BitVec 56) (nop : f.nop = true) : m2Stage old f casin s = (s, { f with wbs := [] }) := if_pos nop

/-- A table with the entries of a list put into it, in order. -/
def tputAll {V : Type} [DecidableEq V] (d : V) (t : Tab V) (l : List (Nat × V)) : Tab V := l.foldl (fun t e => tput d t e.1 e.2) t

theorem foldl_setA_a (l : List (Nat × BitVec 56)) (s : Slice) : (l.foldl (fun s e => s.setA e.1 e.2) s).a = tputAll 0 s.a l :=
  (List.foldl_hom Slice.a (g₁ := fun s (e : Nat × BitVec 56) => s.setA e.1 e.2) (fun _ _ => rfl)).symm

theorem foldl_setIx_ix (l : List (Nat × BitVec 16)) (s : Slice) : (l.foldl (fun s e => s.setIx e.1 e.2) s).ix = tputAll 0 s.ix l :=
  (List.foldl_hom Slice.ix (g₁ := fun s (e : Nat × BitVec 16) => s.setIx e.1 e.2) (fun _ _ => rfl)).symm

/-- What an instruction leaves in M2: the accumulators and index registers of its arithmetic, and the writes it will land. -/
theorem m2Stage_of_row {old s : Slice} {f : Flight} (casin : BitVec 56) (row : f.nop = false) :
    (m2Stage old f casin s).1.a = tputAll 0 s.a (arithOf old f.word f.p0 f.p1 casin).accs ∧
    (m2Stage old f casin s).1.ix = tputAll 0 s.ix (arithOf old f.word f.p0 f.p1 casin).ixs ∧
    (m2Stage old f casin s).2.wbs = (wbsOf old f).1 := by
  have accs := foldl_keeps Slice.a (fun s (e : Nat × BitVec 16) => s.setIx e.1 e.2) (fun _ _ => rfl) (arithOf old f.word f.p0 f.p1 casin).ixs
  have ixs := foldl_keeps Slice.ix (fun s (e : Nat × BitVec 56) => s.setA e.1 e.2) (fun _ _ => rfl) (arithOf old f.word f.p0 f.p1 casin).accs s
  have ix := (foldl_setIx_ix (arithOf old f.word f.p0 f.p1 casin).ixs _).trans (congrArg (tputAll 0 · _) ixs)
  unfold m2Stage
  rw [if_neg (by simp [row])]
  dsimp only
  split <;> exact ⟨(accs _).trans (foldl_setA_a ..), ix, rfl⟩

theorem m2Stage_keeps (old : Slice) (f : Flight) (casin : BitVec 56) (s : Slice) :
    (m2Stage old f casin s).1.cycles = s.cycles ∧ (m2Stage old f casin s).2.word = f.word := by
  unfold m2Stage
  split
  · exact ⟨rfl, rfl⟩
  · have accs := foldl_keeps Slice.cycles (fun s (e : Nat × BitVec 56) => s.setA e.1 e.2) (fun _ _ => rfl) (arithOf old f.word f.p0 f.p1 casin).accs s
    have ixs := foldl_keeps Slice.cycles (fun s (e : Nat × BitVec 16) => s.setIx e.1 e.2) (fun _ _ => rfl) (arithOf old f.word f.p0 f.p1 casin).ixs
    dsimp only
    refine ⟨?_, rfl⟩
    split
    · exact (ixs _).trans accs
    · exact (ixs _).trans accs

/-! ### The cycle, part by part -/

/-- The writes that the instruction in WB lands. -/
def Slice.landing (m : Slice) : List WbWrite := match m.stWB with
  | some f => f.wbs
  | none => []

/-- The slice once WB and M2 have acted and the cycle is counted. -/
def Slice.accumulated (m : Slice) (ci : CycleIn) : Slice :=
  let s := m.land ci.blank m.landing
  let s := ((m.stM2.map fun f => m2Stage m f ci.casin s).map (·.1)).getD s
  let s := s.countCorr (m.readsX && ci.x.single) (m.readsY && ci.y.single) (m.fetches && ci.fetch.single)
  { s with cycles := s.cycles + 1, cyc := s.cyc + 1 }

/-- The slice once MR has acted as well. -/
def Slice.loaded (m : Slice) (ci : CycleIn) : Slice :=
  ((m.stMR.map fun f => mrStage m f ci (m.accumulated ci)).map (·.1)).getD (m.accumulated ci)

/-- The slice once AG has acted as well. -/
def Slice.advanced (m : Slice) (ci : CycleIn) : Slice :=
  ((m.stAG.map fun f => agStage m f m.landing (m.loaded ci)).map (·.1)).getD (m.loaded ci)

/-- The instruction that leaves M2. -/
def Slice.toWB (m : Slice) (ci : CycleIn) : Option Flight := (m.stM2.map fun f => m2Stage m f ci.casin (m.land ci.blank m.landing)).map (·.2)

/-- The flights after a cycle that cancels none, with those of D and AG as given. -/
def Slice.moveOn (m : Slice) (ci : CycleIn) (d ag : Option Flight) : Stages :=
  { d := d, ag := ag, mr := (m.stAG.map fun f => agStage m f m.landing (m.loaded ci)).map (·.2), m1 := (m.stMR.map fun f => mrStage m f ci (m.accumulated ci)).map (·.2),
    m2 := m.stM1.map (m1Stage m), wb := m.toWB ci }

/-- The word fetched in a cycle, as it enters stage D. -/
def Slice.fetchFlight (m : Slice) (ci : CycleIn) : Flight :=
  { addr := m.pc, word := ci.fetch.data, nop := !wordValid ci.fetch.data || ((dStage m).slotCtl && isControl ci.fetch.data), slot := (dStage m).slotCtl,
    before := { (dStage m).ctl with pc := m.pc } }

/-- The control state after the fetch at `pc` that no transfer redirects (04 R118, 06 R167). -/
def Control.fetchedAt (c : Control) (pc : BitVec 10) : Control :=
  if c.inTrap then { c with pc := pc + 1 }
  else { c with loops := (loopNext pc.toNat (openLevels c.loops) c.loops).1, pc := BitVec.ofNat 10 (loopNext pc.toNat (openLevels c.loops) c.loops).2 }

/-- The control state after the fetch at `pc` that follows what stage D decided. -/
def DStage.next (d : DStage) (pc : BitVec 10) : Control := match d.target with
  | some t => { d.ctl with pc := t }
  | none => d.ctl.fetchedAt pc

/-- The control state after a cycle that fetches nothing: a transfer still reaches PC. -/
def Slice.nextFetch (m : Slice) : Control := { (dStage m).ctl with pc := (dStage m).target.getD (dStage m).ctl.pc }

/-- No read that the cycle of a slice makes is uncorrectable (06 R166). -/
structure CycleIn.CleanFor (ci : CycleIn) (m : Slice) : Prop where
  fetch : ci.fetch.bad = false
  x : (m.readsX && ci.x.bad) = false
  y : (m.readsY && ci.y.bad) = false

theorem CycleIn.CleanFor.of_clean {ci : CycleIn} (clean : ci.clean = true) (m : Slice) : ci.CleanFor m := by
  obtain ⟨⟨fetch, x⟩, y⟩ : (ci.fetch.bad = false ∧ ci.x.bad = false) ∧ ci.y.bad = false := by simpa [CycleIn.clean] using clean
  exact ⟨fetch, by rw [x, Bool.and_false], by rw [y, Bool.and_false]⟩

section
variable {ci : CycleIn} {m : Slice} (clean : ci.CleanFor m)
include clean

/-- A cycle with clean reads holds in stage D, ends there, or fetches. -/
theorem sliceCycle_of_clean : (sliceCycle ci m).1 =
    if (dStage m).hold then
      if m.run = .draining then
        (((m.advanced ci).setCtl { (m.stD.map Flight.before).getD m.ctl with run := .draining, cause := m.cause }).setStages (m.moveOn ci none none)).settle
      else ((m.advanced ci).setCtl (dStage m).ctl).setStages (m.moveOn ci m.stD none)
    else if ¬ m.fetches ∨ (dStage m).skip then
      (((m.advanced ci).setCtl (if m.run = .draining then { m.nextFetch with run := .draining, cause := m.cause } else m.nextFetch)).setStages
        (m.moveOn ci none m.stD)).settle
    else ((m.advanced ci).setCtl ((dStage m).next m.pc)).setStages (m.moveOn ci (some (m.fetchFlight ci)) m.stD) := by
  unfold sliceCycle
  extract_lets d fetching landed badX badY badF
  have x : badX = false := clean.x
  have y : badY = false := clean.y
  have fetch : badF = false := by simp [badF, clean.fetch]
  rw [x, y, fetch]
  split
  · rename_i h; cases h
  · rw [if_neg (by simp)]
    split
    · split <;> rfl
    · split <;> rfl

end

/-- Whatever else a cycle does, traps and halts among it, WB and M2 act (06 R166): their instructions are never cancelled. -/
theorem sliceCycle_results (ci : CycleIn) (m : Slice) :
    (sliceCycle ci m).1.results = (m.accumulated ci).results ∧ (sliceCycle ci m).1.stWB = m.toWB ci := by
  have loaded : (m.loaded ci).results = (m.accumulated ci).results := by
    unfold Slice.loaded
    cases m.stMR with
    | none => rfl
    | some f => exact (mrStage_keeps ..).1
  have advanced : (m.advanced ci).results = (m.accumulated ci).results := by
    refine Eq.trans ?_ loaded
    unfold Slice.advanced
    cases m.stAG with
    | none => rfl
    | some f => exact (agStage_keeps ..).1
  unfold sliceCycle
  extract_lets d fetching landed badX badY badF s m2 s s s toWb toM2 fetchUe mr s' ag s''
  have accumulatedHere : s.results = (m.accumulated ci).results := rfl
  have advancedHere : s''.results = (m.accumulated ci).results := advanced
  have wb : toWb = m.toWB ci := rfl
  clear_value s s'' toWb
  split
  · exact ⟨(Slice.results_settle _).trans ((results_enterTrap ..).trans accumulatedHere), (Slice.stWB_settle _).trans wb⟩
  · split
    · exact ⟨(Slice.results_settle _).trans ((results_enterTrap ..).trans advancedHere), (Slice.stWB_settle _).trans wb⟩
    · split
      · split
        · exact ⟨(Slice.results_settle _).trans advancedHere, (Slice.stWB_settle _).trans wb⟩
        · exact ⟨advancedHere, wb⟩
      · split
        · exact ⟨(Slice.results_settle _).trans advancedHere, (Slice.stWB_settle _).trans wb⟩
        · exact ⟨advancedHere, wb⟩

/-! ### What every cycle moves on -/

/-- The flights move on with their words (05 R134). -/
theorem words_moveOn (m : Slice) (ci : CycleIn) (d ag : Option Flight) :
    (m.moveOn ci d ag).mr.map Flight.word = m.stAG.map Flight.word ∧ (m.moveOn ci d ag).m1.map Flight.word = m.stMR.map Flight.word ∧
    (m.moveOn ci d ag).m2.map Flight.word = m.stM1.map Flight.word ∧ (m.moveOn ci d ag).wb.map Flight.word = m.stM2.map Flight.word := by
  unfold Slice.moveOn Slice.toWB
  refine ⟨?_, ?_, ?_, ?_⟩
  · cases m.stAG with
    | none => rfl
    | some f => exact congrArg some (agStage_keeps ..).2.2.2
  · cases m.stMR with
    | none => rfl
    | some f => exact congrArg some (mrStage_keeps ..).2.2
  · cases m.stM1 with
    | none => rfl
    | some f => exact congrArg some (m1Stage_word ..)
  · cases m.stM2 with
    | none => rfl
    | some f => exact congrArg some (m2Stage_keeps ..).2

theorem cycles_advanced (m : Slice) (ci : CycleIn) : (m.advanced ci).cycles = m.cycles + 1 := by
  have accumulated : (m.accumulated ci).cycles = m.cycles + 1 := by
    have land := cycles_land m ci.blank m.landing
    unfold Slice.accumulated
    cases m.stM2 with
    | none => exact congrArg (· + 1) land
    | some f => exact congrArg (· + 1) ((m2Stage_keeps ..).1.trans land)
  have loaded : (m.loaded ci).cycles = (m.accumulated ci).cycles := by
    unfold Slice.loaded
    cases m.stMR with
    | none => rfl
    | some f => exact (mrStage_keeps ..).2.1
  have advanced : (m.advanced ci).cycles = (m.loaded ci).cycles := by
    unfold Slice.advanced
    cases m.stAG with
    | none => rfl
    | some f => exact (agStage_keeps ..).2.1
  exact advanced.trans (loaded.trans accumulated)

end Sys2Proof.Machine
end

section
/-! PROOFS. Arithmetic slices, part 2: the arithmetic of each row, in M1 and M2 (05 R143 to R151). -/

open Sys2Proof
namespace Sys2Proof.Machine

/-! ### What a cycle leaves in the accumulators, and what it will land -/

theorem Slice.land_of_empty {m : Slice} (empty : m.stWB = none) (blank : MemWord) : m.land blank m.landing = m := by
  rw [show m.landing = [] by rw [Slice.landing, empty]]
  rfl

section
variable {ci : CycleIn} {m : Slice} {f : Flight} (inM2 : m.stM2 = some f)
include inM2

theorem accumulated_of_inM2 :
    (m.accumulated ci).a = (m2Stage m f ci.casin (m.land ci.blank m.landing)).1.a ∧
    (m.accumulated ci).ix = (m2Stage m f ci.casin (m.land ci.blank m.landing)).1.ix ∧
    m.toWB ci = some (m2Stage m f ci.casin (m.land ci.blank m.landing)).2 := by
  unfold Slice.accumulated Slice.toWB
  rw [inM2]
  exact ⟨rfl, rfl, rfl⟩

/-- An instruction in M2 leaves the accumulators and index registers of its arithmetic, over what lands in the cycle. -/
theorem sliceCycle_of_row (row : f.nop = false) :
    (sliceCycle ci m).1.a = tputAll 0 (m.land ci.blank m.landing).a (arithOf m f.word f.p0 f.p1 ci.casin).accs ∧
    (sliceCycle ci m).1.ix = tputAll 0 (m.land ci.blank m.landing).ix (arithOf m f.word f.p0 f.p1 ci.casin).ixs ∧
    (sliceCycle ci m).1.stWB.map Flight.wbs = some (wbsOf m f).1 := by
  obtain ⟨results, stWB⟩ := sliceCycle_results ci m
  obtain ⟨a, ix, toWB⟩ := accumulated_of_inM2 (ci := ci) inM2
  obtain ⟨accs, ixs, wbs⟩ := m2Stage_of_row (old := m) (s := m.land ci.blank m.landing) ci.casin row
  refine ⟨?_, ?_, ?_⟩
  · exact (congrArg Prod.fst results).trans (a.trans accs)
  · exact (congrArg (·.2.1) results).trans (ix.trans ixs)
  · rw [stWB, toWB]
    exact congrArg some wbs

/-- A NOP in M2 leaves everything as it was where nothing lands, and will land nothing. -/
theorem sliceCycle_of_nop (nop : f.nop = true) (empty : m.stWB = none) :
    (sliceCycle ci m).1.results = m.results ∧ (sliceCycle ci m).1.stWB.map Flight.wbs = some [] := by
  obtain ⟨results, stWB⟩ := sliceCycle_results ci m
  have land : ((m.stM2.map fun f => m2Stage m f ci.casin (m.land ci.blank m.landing)).map (·.1)).getD (m.land ci.blank m.landing) = m := by
    rw [inM2, Slice.land_of_empty empty]
    exact congrArg Prod.fst (m2Stage_of_nop ci.casin nop)
  have kept := congrArg Slice.results land
  refine ⟨results.trans kept, ?_⟩
  rw [stWB, (accumulated_of_inM2 (ci := ci) inM2).2.2, m2Stage_of_nop ci.casin nop]
  rfl

end

/-! ### Tables with a list put in -/

theorem tget_tputAll_other {V : Type} [DecidableEq V] (d : V) (t : Tab V) {l : List (Nat × V)} {k : Nat} (h : ∀ e ∈ l, e.1 ≠ k) :
    tget d (tputAll d t l) k = tget d t k := by
  unfold tputAll
  induction l generalizing t with
  | nil => rfl
  | cons e l ih =>
    rw [List.foldl_cons, ih _ fun e he => h e (List.mem_cons_of_mem _ he), tget_tput_other _ _ _ (h e List.mem_cons_self).symm]

theorem tget_tputAll_head {V : Type} [DecidableEq V] (d : V) (t : Tab V) {l : List (Nat × V)} {k : Nat} {v : V} (h : ∀ e ∈ l, e.1 ≠ k) :
    tget d (tputAll d t ((k, v) :: l)) k = v := by
  rw [show tputAll d t ((k, v) :: l) = tputAll d (tput d t k v) l from rfl, tget_tputAll_other d _ h, tget_tput_same]

/-- The instruction whose arithmetic writes its own accumulator first, and others after it. -/
theorem accAfterM2_of_head {w : BitVec 40} {v : CycleIn → Slice → Flight → BitVec 56}
    (arith : ∀ ci m f, f.word = w →
      ∃ l, (arithOf m f.word f.p0 f.p1 ci.casin).accs = (iDst f.word % 4, v ci m f) :: l ∧ ∀ e ∈ l, e.1 ≠ iDst f.word % 4) : accAfterM2 w v := by
  intro ci m f inM2 word row
  obtain ⟨l, accs, others⟩ := arith ci m f word
  rw [← word, Slice.acc, (sliceCycle_of_row inM2 row).1, accs, tget_tputAll_head 0 _ others]

/-- The instruction whose arithmetic writes one accumulator, modulo 2^56 (05 R147). -/
theorem accAfterM2_of_oneAcc {w : BitVec 40} {r : CycleIn → Slice → Flight → Int}
    (arith : ∀ ci m f, f.word = w → ∃ casOut, arithOf m f.word f.p0 f.p1 ci.casin = oneAcc m.mode (iDst f.word % 4) (r ci m f) casOut) :
    accAfterM2 w fun ci m f => BitVec.ofInt 56 (r ci m f) := by
  refine accAfterM2_of_head fun ci m f word => ⟨[], ?_, by simp⟩
  obtain ⟨casOut, eq⟩ := arith ci m f word
  rw [eq]
  rfl

/-! ### The arithmetic of each row (05 R143 to R151) -/

section
variable {s : Slice} {w : BitVec 40} {p0 p1 c : BitVec 56}

theorem arithOf_clr (opc : iOpc w = 0x04) (acc : iDst w < 4) : (arithOf s w p0 p1 c).accs = [(iDst w % 4, 0)] := by simp [arithOf, opc, acc]

theorem arithOf_mpy (opc : iOpc w = 0x10) :
    arithOf s w p0 p1 c = oneAcc s.mode (iDst w % 4) (scaled s.mode p0 + if bitOf (iDst w) 2 then c.toInt else 0) (bitOf (iDst w) 3) := by
  simp [arithOf, mulArith, opc]

theorem arithOf_mac (opc : iOpc w = 0x11) :
    arithOf s w p0 p1 c = oneAcc s.mode (iDst w % 4) ((s.acc (iDst w % 4)).toInt + scaled s.mode p0 + if bitOf (iDst w) 2 then c.toInt else 0) (bitOf (iDst w) 3) := by
  simp [arithOf, mulArith, opc]

theorem arithOf_msu (opc : iOpc w = 0x12) :
    arithOf s w p0 p1 c = oneAcc s.mode (iDst w % 4) ((s.acc (iDst w % 4)).toInt - scaled s.mode p0 + if bitOf (iDst w) 2 then c.toInt else 0) (bitOf (iDst w) 3) := by
  simp [arithOf, mulArith, opc]

theorem arithOf_macr (opc : iOpc w = 0x13) :
    (arithOf s w p0 p1 c).accs = [(iDst w % 4,
      BitVec.ofInt 56 (rndExact (BitVec.ofInt 56 ((s.acc (iDst w % 4)).toInt + scaled s.mode p0 + if bitOf (iDst w) 2 then c.toInt else 0))))] := by
  simp [arithOf, mulArith, opc]

/-- DMAC.S and DMAC.P update both accumulators of a pair. -/
theorem arithOf_dmac_pair (opc : iOpc w = 0x18 ∨ iOpc w = 0x19) :
    (arithOf s w p0 p1 c).accs = [(iDst w % 4, BitVec.ofInt 56 ((s.acc (iDst w % 4)).toInt + scaled s.mode p0)),
      (iDst w % 4 ^^^ 1, BitVec.ofInt 56 ((s.acc (iDst w % 4 ^^^ 1)).toInt + scaled s.mode p1))] := by
  rcases opc with opc | opc <;> simp [arithOf, dmacArith, opc]

theorem arithOf_dmacA (opc : iOpc w = 0x1A) : arithOf s w p0 p1 c =
    oneAcc s.mode (iDst w % 4) ((s.acc (iDst w % 4)).toInt + scaled s.mode p0 + scaled s.mode p1) (bitOf (iDst w) 3) := by
  simp [arithOf, dmacArith, opc]

theorem arithOf_dmacD (opc : iOpc w = 0x1B) : arithOf s w p0 p1 c =
    oneAcc s.mode (iDst w % 4) ((s.acc (iDst w % 4)).toInt + scaled s.mode p0 - scaled s.mode p1) (bitOf (iDst w) 3) := by
  simp [arithOf, dmacArith, opc]

theorem arithOf_add (opc : iOpc w = 0x20) : arithOf s w p0 p1 c =
    oneAcc s.mode (iDst w % 4) ((s.acc (iDst w % 4)).toInt + (s.operand (iSrc w) c).toInt) (bitOf (iDst w) 3) := by simp [arithOf, opc]

theorem arithOf_sub (opc : iOpc w = 0x21) : arithOf s w p0 p1 c =
    oneAcc s.mode (iDst w % 4) ((s.acc (iDst w % 4)).toInt - (s.operand (iSrc w) c).toInt) (bitOf (iDst w) 3) := by simp [arithOf, opc]

theorem arithOf_abs (opc : iOpc w = 0x22) : arithOf s w p0 p1 c = oneAcc s.mode (iDst w % 4)
    (if (s.operand (iSrc w) c).toInt < 0 then -(s.operand (iSrc w) c).toInt else (s.operand (iSrc w) c).toInt) false := by simp [arithOf, opc]

theorem arithOf_neg (opc : iOpc w = 0x23) : arithOf s w p0 p1 c = oneAcc s.mode (iDst w % 4) (-(s.operand (iSrc w) c).toInt) false := by
  simp [arithOf, opc]

theorem arithOf_rnd (opc : iOpc w = 0x24) : arithOf s w p0 p1 c = oneAcc s.mode (iDst w % 4) (rndExact (s.acc (iDst w % 4))) false := by
  simp [arithOf, opc]

theorem arithOf_sat (opc : iOpc w = 0x25) :
    (arithOf s w p0 p1 c).accs = [(iDst w % 4, enter24 s.mode (sat24 s.mode (s.acc (iDst w % 4))))] := by simp [arithOf, opc]

theorem arithOf_shl (lo : 0x30 ≤ iOpc w) (hi : iOpc w ≤ 0x3F) : arithOf s w p0 p1 c =
    oneAcc s.mode (iDst w % 4) ((s.operand (iSrc w) c).toInt * 2 ^ (iOpc w % 16 + 1)) false := by
  unfold arithOf
  dsimp only
  iterate 9 rw [if_neg (by omega)]
  rw [if_pos ⟨lo, hi⟩]

theorem arithOf_shr (lo : 0x40 ≤ iOpc w) (hi : iOpc w ≤ 0x4F) : arithOf s w p0 p1 c =
    oneAcc s.mode (iDst w % 4) ((s.operand (iSrc w) c).toInt / 2 ^ (iOpc w % 16 + 1)) false := by
  unfold arithOf
  dsimp only
  iterate 10 rw [if_neg (by omega)]
  rw [if_pos ⟨lo, hi⟩]

theorem arithOf_search (lo : 0x50 ≤ iOpc w) (hi : iOpc w ≤ 0x53) : arithOf s w p0 p1 c = searchArith s w := by
  unfold arithOf
  dsimp only
  iterate 11 rw [if_neg (by omega)]
  rw [if_pos ⟨lo, hi⟩]

/-- An opcode without arithmetic writes no accumulator. -/
theorem arithOf_move (opc : iOpc w = 0x00) : (arithOf s w p0 p1 c).accs = [] := by simp [arithOf, opc]

end

/-! ### MAX, MIN, MAXI, MINI (05 R151) -/

theorem tget_tputAll_ite {V : Type} [DecidableEq V] (d : V) (t : Tab V) {l : List (Nat × V)} {k : Nat} {v : V} {c : Prop} [Decidable c]
    (h : ∀ e ∈ l, e.1 ≠ k) : tget d (tputAll d t ((if c then [(k, v)] else []) ++ l)) k = if c then v else tget d t k := by
  split
  · exact tget_tputAll_head d t h
  · exact tget_tputAll_other d t h

/-- The value a search compares with, aligned to the accumulator. -/
abbrev Slice.candidate (s : Slice) (w : BitVec 40) : BitVec 56 := enter24 s.mode (s.dReg (iSrc w % 8))

/-- The candidate takes the accumulator's place: larger for an even opcode, smaller for an odd one. -/
def Slice.beaten (s : Slice) (w : BitVec 40) : Bool :=
  if iOpc w % 2 == 0 then decide ((s.acc (iDst w % 4)).toInt < (s.candidate w).toInt) else decide ((s.candidate w).toInt < (s.acc (iDst w % 4)).toInt)

theorem Slice.beaten_of_even {s : Slice} {w : BitVec 40} (even : iOpc w % 2 = 0) :
    (s.beaten w = true) = ((s.acc (iDst w % 4)).toInt < (s.candidate w).toInt) := by simp [Slice.beaten, even]

theorem Slice.beaten_of_odd {s : Slice} {w : BitVec 40} (odd : iOpc w % 2 = 1) :
    (s.beaten w = true) = ((s.candidate w).toInt < (s.acc (iDst w % 4)).toInt) := by simp [Slice.beaten, odd]

theorem xor_one_ne (n : Nat) : n ^^^ 1 ≠ n := fun h => absurd (Nat.xor_right_injective (h.trans (Nat.xor_zero n).symm)) (by decide)

/-- A search writes its own accumulator and index register first, where the candidate wins; what it writes of its partner comes after. -/
theorem searchArith_own (s : Slice) (w : BitVec 40) : ∃ accs ixs,
    (searchArith s w).accs = (if s.beaten w then [(iDst w % 4, s.candidate w)] else []) ++ accs ∧ (∀ e ∈ accs, e.1 ≠ iDst w % 4) ∧
    (0x52 ≤ iOpc w → (searchArith s w).ixs = (if s.beaten w then [(iDst w / 4 % 2, s.origin (iSrc w % 8))] else []) ++ ixs) ∧
    ∀ e ∈ ixs, e.1 ≠ iDst w / 4 % 2 := by
  unfold searchArith
  extract_lets m n i k v isMax idx better one r r2
  have own : r = (if s.beaten w then [(n, v)] else [], if s.beaten w then (if idx then [(i, s.origin k)] else []) else []) := by
    change (if s.beaten w then _ else _) = _
    split <;> rfl
  have partner : (∀ e ∈ r2.1, e.1 ≠ n) ∧ ∀ e ∈ r2.2, e.1 ≠ i := by
    have ne := xor_one_ne n
    have ne' := xor_one_ne i
    unfold r2 one
    split
    · split
      · constructor
        · simp [ne]
        · split <;> simp [ne']
      · simp
    · simp
  refine ⟨r2.1, r2.2, by rw [own], partner.1, fun indexed => ?_, partner.2⟩
  have idxOn : idx = true := decide_eq_true indexed
  rw [own, idxOn]
  rfl

section
variable {ci : CycleIn} {m : Slice} {f : Flight} (inM2 : m.stM2 = some f) (row : f.nop = false) (empty : m.stWB = none)
  (lo : 0x50 ≤ iOpc f.word) (hi : iOpc f.word ≤ 0x53)
include inM2 row empty lo hi

/-- A search in M2, where no write lands. -/
theorem acc_of_search : (sliceCycle ci m).1.acc (iDst f.word % 4) = if m.beaten f.word then m.candidate f.word else m.acc (iDst f.word % 4) := by
  obtain ⟨accs, ixs, own, others, -⟩ := searchArith_own m f.word
  rw [Slice.acc, (sliceCycle_of_row inM2 row).1, arithOf_search lo hi, own, tget_tputAll_ite 0 _ others, Slice.land_of_empty empty, Slice.acc]

theorem ix_of_search (indexed : 0x52 ≤ iOpc f.word) : tget 0 (sliceCycle ci m).1.ix (iDst f.word / 4 % 2) =
    if m.beaten f.word then m.origin (iSrc f.word % 8) else tget 0 m.ix (iDst f.word / 4 % 2) := by
  obtain ⟨accs, ixs, -, -, own, others⟩ := searchArith_own m f.word
  rw [(sliceCycle_of_row inM2 row).2.1, arithOf_search lo hi, own indexed, tget_tputAll_ite 0 _ others, Slice.land_of_empty empty]

end

/-! ### The multipliers in M1 (05 R145, R146) -/

theorem stM2_of_clean {ci : CycleIn} {m : Slice} (clean : ci.CleanFor m) : (sliceCycle ci m).1.stM2 = m.stM1.map (m1Stage m) := by
  rw [sliceCycle_of_clean clean]
  split
  · split
    · exact Slice.stM2_settle _
    · rfl
  · split
    · exact Slice.stM2_settle _
    · rfl

theorem productsOf_mul (s : Slice) {w : BitVec 40} (lo : 0x10 ≤ iOpc w) (hi : iOpc w ≤ 0x13) :
    productsOf s w = (prod (s.dReg (iSrc w / 4)) (s.dReg (4 + iSrc w % 4)), 0) := if_pos ⟨lo, hi⟩

theorem productsOf_dmac (s : Slice) {w : BitVec 40} (lo : 0x18 ≤ iOpc w) (hi : iOpc w ≤ 0x1B) :
    productsOf s w = (prod (s.dReg (iSrc w / 4)) (s.dReg (4 + iSrc w % 4)),
      prod (s.dReg (iSrc w / 4 ^^^ 1)) (s.dReg (if iOpc w = 0x18 then 4 + iSrc w % 4 else (4 + iSrc w % 4) ^^^ 1))) :=
  (if_neg (by omega)).trans (if_pos ⟨lo, hi⟩)

/-- M1 forms the products of the instruction in it. -/
theorem products_of_inM1 {ci : CycleIn} {m : Slice} {f : Flight} (clean : ci.clean = true) (inM1 : m.stM1 = some f) (row : f.nop = false) :
    (sliceCycle ci m).1.stM2.map Flight.p0 = some (productsOf m f.word).1 ∧ (sliceCycle ci m).1.stM2.map Flight.p1 = some (productsOf m f.word).2 := by
  have m1 : m1Stage m f = { f with p0 := (productsOf m f.word).1, p1 := (productsOf m f.word).2 } := if_neg (by simp [row])
  rw [stM2_of_clean (.of_clean clean m), inM1, Option.map_some, m1]
  exact ⟨rfl, rfl⟩

theorem product_of_mul {w : BitVec 40} (lo : 0x10 ≤ iOpc w) (hi : iOpc w ≤ 0x13) : productInM1 w false (iSrc w / 4) (4 + iSrc w % 4) := by
  intro ci m f clean inM1 word row
  have first := (products_of_inM1 clean inM1 row).1
  rwa [word, productsOf_mul m lo hi] at first

theorem products_of_dmac {w : BitVec 40} (lo : 0x18 ≤ iOpc w) (hi : iOpc w ≤ 0x1B) : productInM1 w false (iSrc w / 4) (4 + iSrc w % 4) ∧
    productInM1 w true (iSrc w / 4 ^^^ 1) (if iOpc w = 0x18 then 4 + iSrc w % 4 else (4 + iSrc w % 4) ^^^ 1) := by
  constructor
  · intro ci m f clean inM1 word row
    have first := (products_of_inM1 clean inM1 row).1
    rwa [word, productsOf_dmac m lo hi] at first
  · intro ci m f clean inM1 word row
    have second := (products_of_inM1 clean inM1 row).2
    rwa [word, productsOf_dmac m lo hi] at second

end Sys2Proof.Machine
end

section
/-! PROOFS. Arithmetic slices, part 3: cycles that fetch, and the control instructions in stage D (05 R153 to R160; 04 R118, R119). -/

open Sys2Proof
namespace Sys2Proof.Machine

/-! ### Cycles that fetch -/

/-- What stage D decides of an instruction that is no control instruction. -/
theorem dStage_of_plain {m : Slice} (plain : ∀ f, m.stD = some f → f.nop = true ∨ iOpc f.word < 0xF0) : dStage m = { ctl := m.ctl } := by
  unfold dStage
  dsimp only
  split
  · rfl
  · rename_i f inD
    split
    · rfl
    · have opc : iOpc f.word < 0xF0 := by simpa [*] using plain f inD
      split
      any_goals omega
      rfl

section
variable {ci : CycleIn} {m : Slice} (clean : ci.CleanFor m) {D : DStage} (decided : dStage m = D) (hold : D.hold = false) (skip : D.skip = false)
include clean decided hold skip

/-- A running slice that neither waits nor skips its body fetches, and goes on as stage D decided. -/
theorem sliceCycle_of_fetch (run : m.run = .running ∨ m.run = .waiting) :
    (sliceCycle ci m).1 = ((m.advanced ci).setCtl (D.next m.pc)).setStages (m.moveOn ci (some (m.fetchFlight ci)) m.stD) := by
  have fetches : m.fetches = true := by
    unfold Slice.fetches
    rw [decided, hold]
    rcases run with run | run <;> rw [run] <;> rfl
  rw [sliceCycle_of_clean clean, decided, hold, skip, fetches]
  rfl

end

theorem DStage.next_of_target {D : DStage} {t : BitVec 10} (target : D.target = some t) (pc : BitVec 10) : D.next pc = { D.ctl with pc := t } := by
  rw [DStage.next, target]

theorem DStage.next_of_none {D : DStage} (target : D.target = none) (pc : BitVec 10) : D.next pc = D.ctl.fetchedAt pc := by
  rw [DStage.next, target]

theorem ofNat_toNat_succ (pc : BitVec 10) : BitVec.ofNat 10 ((pc.toNat + 1) % 1024) = pc + 1 := by bv_omega

/-- Where no level ends, the fetch goes on to the next address (04 R118). -/
theorem Control.fetchedAt_of_inside {c : Control} {pc : BitVec 10}
    (inside : c.inTrap = true ∨ openLevels c.loops = 0 ∨ (tget LoopLevel.reset c.loops (openLevels c.loops - 1)).stop ≠ pc) :
    c.fetchedAt pc = { c with pc := pc + 1 } := by
  unfold Control.fetchedAt
  split
  · rfl
  · rename_i noTrap
    have next : loopNext pc.toNat (openLevels c.loops) c.loops = (c.loops, (pc.toNat + 1) % 1024) := by
      rcases inside with trap | none | other
      · exact absurd trap noTrap
      · rw [none]; rfl
      · cases n : openLevels c.loops with
        | zero => rfl
        | succ k =>
          rw [n] at other
          exact if_neg fun e => other (BitVec.eq_of_toNat_eq e)
    rw [next, ofNat_toNat_succ]

/-! ### What stage D decides of each control instruction (05 R153 to R160) -/

section
variable {m : Slice} {f : Flight} (inD : m.stD = some f) (row : f.nop = false)
include inD row

theorem dStage_loopCount (opc : iOpc f.word = 0xF0) :
    dStage m = dLoop m.ctl f.addr f.word (BitVec.ofNat 16 (bitsOf f.word.toNat 16 16)) := by simp [dStage, inD, row, opc]
theorem dStage_loopReg (opc : iOpc f.word = 0xF1) :
    dStage m = dLoop m.ctl f.addr f.word (BitVec.ofNat 16 (m.readCode (iCode f.word)).1) := by simp [dStage, inD, row, opc]
theorem dStage_jmp (opc : iOpc f.word = 0xF2) : dStage m = dJump m.ctl f.word := by simp [dStage, inD, row, opc]
theorem dStage_jcc (opc : iOpc f.word = 0xF3) :
    dStage m = if m.cond (iSrc f.word) then dJump m.ctl f.word else { ctl := m.ctl, slotCtl := true } := by simp [dStage, inD, row, opc]
theorem dStage_call (opc : iOpc f.word = 0xF4) : dStage m = dCall m.ctl f.word := by simp [dStage, inD, row, opc]
theorem dStage_ret (opc : iOpc f.word = 0xF5) : dStage m = dRet m.ctl := by simp [dStage, inD, row, opc]
theorem dStage_waitq (opc : iOpc f.word = 0xF6) : dStage m = dWaitq m m.ctl f.word := by simp [dStage, inD, row, opc]
theorem dStage_trapret (opc : iOpc f.word = 0xF7) : dStage m = dTrapret m.ctl m.trap := by simp [dStage, inD, row, opc]
theorem dStage_halt (opc : iOpc f.word = 0xF8) :
    dStage m = { ctl := { m.ctl with run := .draining, cause := 1 }, slotCtl := true } := by simp [dStage, inD, row, opc]

end

/-! ### Cycles with a control instruction in stage D -/

section
variable {ci : CycleIn} {m : Slice} (clean : ci.clean = true) (run : m.run = .running) {D : DStage} (decided : dStage m = D)
include clean run decided

/-- The control state and the flight fetched, after a cycle that fetches. -/
theorem fetch_inD (hold : D.hold = false) (skip : D.skip = false) :
    (sliceCycle ci m).1.ctl = D.next m.pc ∧ (sliceCycle ci m).1.stD = some (m.fetchFlight ci) ∧ (m.fetchFlight ci).slot = D.slotCtl := by
  rw [sliceCycle_of_fetch (.of_clean clean m) decided hold skip (.inl run)]
  exact ⟨rfl, rfl, congrArg DStage.slotCtl decided⟩

/-- A taken transfer is fetched next, and what is fetched now is its delay slot. -/
theorem transfer_inD {t : BitVec 10} (target : D.target = some t) (slot : D.slotCtl = true) (hold : D.hold = false) (skip : D.skip = false) :
    (sliceCycle ci m).1.ctl = { D.ctl with pc := t } ∧ (sliceCycle ci m).1.stD.map Flight.slot = some true := by
  obtain ⟨ctl, stD, fetched⟩ := fetch_inD clean run decided hold skip
  rw [stD, Option.map_some, fetched, slot, ctl, DStage.next_of_target target]
  exact ⟨rfl, rfl⟩

/-- With no transfer and no level open the fetch goes on to the next address. -/
theorem goOn_inD (target : D.target = none) (hold : D.hold = false) (skip : D.skip = false) (closed : openLevels D.ctl.loops = 0) :
    (sliceCycle ci m).1.ctl = { D.ctl with pc := m.pc + 1 } := by
  rw [(fetch_inD clean run decided hold skip).1, DStage.next_of_none target, Control.fetchedAt_of_inside (.inr (.inl closed))]

/-- LOOP with a count of 0 fetches nothing: the body is skipped (05 R154). -/
theorem skip_inD (hold : D.hold = false) (skip : D.skip = true) (goesOn : D.ctl.run = .running) :
    (sliceCycle ci m).1.ctl = { D.ctl with pc := D.target.getD D.ctl.pc } ∧ (sliceCycle ci m).1.stD = none := by
  have next : m.nextFetch = { D.ctl with pc := D.target.getD D.ctl.pc } := by rw [Slice.nextFetch, decided]
  rw [sliceCycle_of_clean (.of_clean clean m), decided, hold, skip, if_neg Bool.false_ne_true, if_pos (.inr rfl), if_neg (by simp [run]), next,
    Slice.settle_of_running goesOn]
  exact ⟨rfl, rfl⟩

/-- A WAITQ whose conditions do not hold keeps stage D and lets nothing into AG (05 R158). -/
theorem hold_inD (hold : D.hold = true) :
    (sliceCycle ci m).1.ctl = D.ctl ∧ (sliceCycle ci m).1.stD = m.stD ∧ (sliceCycle ci m).1.stAG = none := by
  rw [sliceCycle_of_clean (.of_clean clean m), decided, if_pos hold, if_neg (by simp [run])]
  exact ⟨rfl, rfl, rfl⟩

end

/-! ### Loop levels (04 R118) -/

/-- A fetch decides only the levels below the number of open ones. -/
theorem tget_loopNext_above (a : Nat) {k j : Nat} (h : k ≤ j) (t : Tab LoopLevel) : tget LoopLevel.reset (loopNext a k t).1 j = tget LoopLevel.reset t j := by
  induction k generalizing t with
  | zero => rfl
  | succ k ih =>
    have below : j ≠ k := by omega
    unfold loopNext
    dsimp only
    split
    · split
      · exact tget_tput_other _ _ _ below
      · rw [ih (by omega), tget_tput_other _ _ _ below]
    · rfl

/-- With passes left the innermost level starts again. -/
theorem loopNext_of_passes {a k : Nat} {t : Tab LoopLevel} {l : LoopLevel} (level : tget LoopLevel.reset t k = l) (ends : l.stop.toNat = a)
    (passes : 1 < l.count.toNat) : loopNext a (k + 1) t = (tput LoopLevel.reset t k { l with count := l.count - 1 }, l.start.toNat) := by
  subst level
  exact (if_pos ends).trans (if_pos passes)

/-- On its last pass it closes, and the next level decides. -/
theorem loopNext_of_last {a k : Nat} {t : Tab LoopLevel} {l : LoopLevel} (level : tget LoopLevel.reset t k = l) (ends : l.stop.toNat = a)
    (last : l.count.toNat ≤ 1) : loopNext a (k + 1) t = loopNext a k (tput LoopLevel.reset t k { l with isOpen := false }) := by
  subst level
  exact (if_pos ends).trans (if_neg (by omega))

theorem bnat_le_one (b : Bool) : bnat b ≤ 1 := by cases b <;> decide

/-- A level written opens at most one more. -/
theorem openLevels_tput_le (t : Tab LoopLevel) (n : Nat) (l : LoopLevel) : openLevels (tput LoopLevel.reset t n l) ≤ openLevels t + 1 := by
  have opened := bnat_le_one l.isOpen
  unfold openLevels
  rw [tget_tput, tget_tput, tget_tput]
  split_ifs <;> omega

/-- The fetch in the D cycle of a LOOP leaves the level it opens alone, unless that fetch is of the loop's end. -/
theorem tget_fetchedAt_opened {c : Control} {l : LoopLevel} {n : Nat} {pc : BitVec 10} (level : tget LoopLevel.reset c.loops n = l)
    (few : openLevels c.loops ≤ n + 1) (other : l.stop ≠ pc) : tget LoopLevel.reset (c.fetchedAt pc).loops n = l := by
  by_cases top : openLevels c.loops = n + 1
  · rw [Control.fetchedAt_of_inside (.inr (.inr (by rw [top, Nat.add_sub_cancel, level]; exact other)))]
    exact level
  · unfold Control.fetchedAt
    split
    · exact level
    · rw [tget_loopNext_above _ (by omega), level]

/-- A fetch moves PC and the loop levels only. -/
theorem DStage.next_keeps (D : DStage) (pc : BitVec 10) : (D.next pc).run = D.ctl.run ∧ (D.next pc).cause = D.ctl.cause ∧
    (D.next pc).stack = D.ctl.stack ∧ (D.next pc).depth = D.ctl.depth ∧ (D.next pc).inTrap = D.ctl.inTrap := by
  unfold DStage.next Control.fetchedAt
  split
  · exact ⟨rfl, rfl, rfl, rfl, rfl⟩
  · split <;> exact ⟨rfl, rfl, rfl, rfl, rfl⟩

/-- The level that LOOP opens. -/
def loopOpened (addr : BitVec 10) (w : BitVec 40) (count : BitVec 16) : LoopLevel :=
  { start := addr + 1, stop := BitVec.ofNat 10 (bitsOf w.toNat 0 10), count := count, isOpen := true }

theorem toNat_stop (w : BitVec 40) : (BitVec.ofNat 10 (bitsOf w.toNat 0 10)).toNat = bitsOf w.toNat 0 10 :=
  Nat.mod_eq_of_lt (Nat.mod_lt _ (by decide))

section
variable {c : Control} {addr : BitVec 10} {w : BitVec 40} (noTrap : c.inTrap = false) (reach : addr.toNat + 1 ≤ bitsOf w.toNat 0 10)
include noTrap reach

/-- LOOP outside a handler, with its end at or after the next address. -/
theorem dLoop_of_reach (count : BitVec 16) : dLoop c addr w count =
    if openLevels c.loops = 3 then { ctl := { c with run := .draining, cause := 3 } }
    else if count = 0 then { ctl := { c with pc := BitVec.ofNat 10 (bitsOf w.toNat 0 10) + 1 }, skip := true }
    else { ctl := { c with loops := tput LoopLevel.reset c.loops (openLevels c.loops) (loopOpened addr w count) } } := by
  refine if_neg ?_
  rw [toNat_stop, noTrap]
  simpa using reach

theorem dLoop_of_full (count : BitVec 16) (full : openLevels c.loops = 3) : dLoop c addr w count = { ctl := { c with run := .draining, cause := 3 } } :=
  (dLoop_of_reach noTrap reach count).trans (if_pos full)

theorem dLoop_of_zero (room : openLevels c.loops < 3) :
    dLoop c addr w 0 = { ctl := { c with pc := BitVec.ofNat 10 (bitsOf w.toNat 0 10) + 1 }, skip := true } :=
  (dLoop_of_reach noTrap reach 0).trans ((if_neg (Nat.ne_of_lt room)).trans (if_pos rfl))

theorem dLoop_of_some {count : BitVec 16} (room : openLevels c.loops < 3) (some : count ≠ 0) :
    dLoop c addr w count = { ctl := { c with loops := tput LoopLevel.reset c.loops (openLevels c.loops) (loopOpened addr w count) } } :=
  (dLoop_of_reach noTrap reach count).trans ((if_neg (Nat.ne_of_lt room)).trans (if_neg some))

end

section
variable {ci : CycleIn} {m : Slice} {addr : BitVec 10} {w : BitVec 40} {count : BitVec 16} (clean : ci.clean = true) (run : m.run = .running)
  (decided : dStage m = dLoop m.ctl addr w count) (noTrap : m.inTrap = false) (reach : addr.toNat + 1 ≤ bitsOf w.toNat 0 10)
include clean run decided noTrap reach

/-- LOOP opens the next level (05 R154). -/
theorem loop_opens (room : openLevels m.loops < 3) (some : count ≠ 0) (other : m.pc.toNat ≠ bitsOf w.toNat 0 10) :
    tget LoopLevel.reset (sliceCycle ci m).1.loops (openLevels m.loops) = loopOpened addr w count := by
  have D := decided.trans (dLoop_of_some (c := m.ctl) noTrap reach room some)
  have loops := congrArg Control.loops (fetch_inD clean run D rfl rfl).1
  refine (congrArg (tget LoopLevel.reset · _) loops).trans ?_
  rw [DStage.next_of_none rfl]
  refine tget_fetchedAt_opened (tget_tput_same ..) (openLevels_tput_le ..) fun e => other ?_
  rw [← e]
  exact toNat_stop w

/-- With a count of 0 it skips its body. -/
theorem loop_skips (room : openLevels m.loops < 3) (zero : count = 0) :
    (sliceCycle ci m).1.pc = BitVec.ofNat 10 (bitsOf w.toNat 0 10) + 1 ∧ (sliceCycle ci m).1.stD = none ∧ (sliceCycle ci m).1.loops = m.loops := by
  subst zero
  obtain ⟨ctl, stD⟩ := skip_inD clean run (decided.trans (dLoop_of_zero (c := m.ctl) noTrap reach room)) rfl rfl run
  exact ⟨congrArg Control.pc ctl, stD, congrArg Control.loops ctl⟩

/-- With three levels open it halts the slice. -/
theorem loop_halts (full : openLevels m.loops = 3) : (sliceCycle ci m).1.run = .draining ∧ (sliceCycle ci m).1.cause = 3 := by
  have ctl := (fetch_inD clean run (decided.trans (dLoop_of_full (c := m.ctl) noTrap reach count full)) rfl rfl).1
  obtain ⟨runs, cause, -⟩ := DStage.next_keeps { ctl := { m.ctl with run := .draining, cause := 3 } } m.pc
  exact ⟨(congrArg Control.run ctl).trans runs, (congrArg Control.cause ctl).trans cause⟩

end

/-! ### The rows of the control instructions -/

/-- A taken JMP or JCC (05 R155). -/
theorem jump_inD {ci : CycleIn} {m : Slice} {w : BitVec 40} (clean : ci.clean = true) (run : m.run = .running) (decided : dStage m = dJump m.ctl w) :
    (sliceCycle ci m).1.pc = BitVec.ofNat 10 (bitsOf w.toNat 0 10) ∧ (sliceCycle ci m).1.stD.map Flight.slot = some true := by
  obtain ⟨ctl, slot⟩ := transfer_inD clean run decided rfl rfl rfl rfl
  exact ⟨congrArg Control.pc ctl, slot⟩

section
variable {ci : CycleIn} {m : Slice} {f : Flight} (clean : ci.clean = true) (run : m.run = .running) (inD : m.stD = some f) (row : f.nop = false)
include clean run inD row

theorem jmp_inD (opc : iOpc f.word = 0xF2) :
    (sliceCycle ci m).1.pc = BitVec.ofNat 10 (bitsOf f.word.toNat 0 10) ∧ (sliceCycle ci m).1.stD.map Flight.slot = some true :=
  jump_inD clean run (dStage_jmp inD row opc)

theorem jcc_inD_of_true (opc : iOpc f.word = 0xF3) (cond : m.cond (iSrc f.word) = true) :
    (sliceCycle ci m).1.pc = BitVec.ofNat 10 (bitsOf f.word.toNat 0 10) ∧ (sliceCycle ci m).1.stD.map Flight.slot = some true :=
  jump_inD clean run ((dStage_jcc inD row opc).trans (if_pos cond))

theorem jcc_inD_of_false (opc : iOpc f.word = 0xF3) (cond : m.cond (iSrc f.word) = false) (closed : openLevels m.loops = 0) :
    (sliceCycle ci m).1.pc = m.pc + 1 ∧ (sliceCycle ci m).1.stD.map Flight.slot = some true := by
  have decided := (dStage_jcc inD row opc).trans (if_neg (by simp [cond]))
  obtain ⟨-, stD, slot⟩ := fetch_inD clean run decided rfl rfl
  refine ⟨congrArg Control.pc (goOn_inD clean run decided rfl rfl rfl closed), ?_⟩
  rw [stD, Option.map_some, slot]

theorem call_inD_of_room (opc : iOpc f.word = 0xF4) (room : m.depth < 4) :
    (sliceCycle ci m).1.pc = BitVec.ofNat 10 (bitsOf f.word.toNat 0 10) ∧ (sliceCycle ci m).1.depth = m.depth + 1 ∧
    tget 0 (sliceCycle ci m).1.stack m.depth = m.pc + 1 := by
  have decided := (dStage_call inD row opc).trans (if_neg (Nat.not_le.mpr room) : dCall m.ctl f.word = _)
  obtain ⟨ctl, -⟩ := transfer_inD clean run decided rfl rfl rfl rfl
  exact ⟨congrArg Control.pc ctl, congrArg Control.depth ctl, (congrArg (tget 0 ·.stack m.depth) ctl).trans (tget_tput_same ..)⟩

theorem call_inD_of_full (opc : iOpc f.word = 0xF4) (full : 4 ≤ m.depth) :
    (sliceCycle ci m).1.run = .draining ∧ (sliceCycle ci m).1.cause = 4 ∧ (sliceCycle ci m).1.depth = m.depth := by
  have decided := (dStage_call inD row opc).trans (if_pos full : dCall m.ctl f.word = _)
  obtain ⟨ctl, -⟩ := fetch_inD clean run decided rfl rfl
  obtain ⟨runs, cause, -, depth, -⟩ := DStage.next_keeps _ m.pc
  exact ⟨(congrArg Control.run ctl).trans runs, (congrArg Control.cause ctl).trans cause, (congrArg Control.depth ctl).trans depth⟩

theorem ret_inD_of_held (opc : iOpc f.word = 0xF5) (held : 0 < m.depth) :
    (sliceCycle ci m).1.pc = tget 0 m.stack (m.depth - 1) ∧ (sliceCycle ci m).1.depth = m.depth - 1 := by
  have decided := (dStage_ret inD row opc).trans (if_neg (Nat.pos_iff_ne_zero.mp held) : dRet m.ctl = _)
  obtain ⟨ctl, -⟩ := transfer_inD clean run decided rfl rfl rfl rfl
  exact ⟨congrArg Control.pc ctl, congrArg Control.depth ctl⟩

theorem ret_inD_of_empty (opc : iOpc f.word = 0xF5) (empty : m.depth = 0) :
    (sliceCycle ci m).1.run = .draining ∧ (sliceCycle ci m).1.cause = 4 := by
  have decided := (dStage_ret inD row opc).trans (if_pos empty : dRet m.ctl = _)
  obtain ⟨ctl, -⟩ := fetch_inD clean run decided rfl rfl
  obtain ⟨runs, cause, -⟩ := DStage.next_keeps _ m.pc
  exact ⟨(congrArg Control.run ctl).trans runs, (congrArg Control.cause ctl).trans cause⟩

theorem waitq_inD_of_met (opc : iOpc f.word = 0xF6) (met : m.waitOk (bitsOf f.word.toNat 0 4) = true) :
    (sliceCycle ci m).1.run = .running ∧ (sliceCycle ci m).1.stD.map Flight.word = some ci.fetch.data := by
  have decided := (dStage_waitq inD row opc).trans (if_pos met : dWaitq m m.ctl f.word = _)
  obtain ⟨ctl, stD, -⟩ := fetch_inD clean run decided rfl rfl
  obtain ⟨runs, -⟩ := DStage.next_keeps _ m.pc
  refine ⟨(congrArg Control.run ctl).trans (runs.trans ?_), by rw [stD]; rfl⟩
  exact (if_neg (show m.run ≠ .waiting by rw [run]; decide)).trans run

theorem waitq_inD_of_unmet (opc : iOpc f.word = 0xF6) (unmet : m.waitOk (bitsOf f.word.toNat 0 4) = false) :
    (sliceCycle ci m).1.run = .waiting ∧ (sliceCycle ci m).1.pc = m.pc ∧ (sliceCycle ci m).1.stD = m.stD ∧ (sliceCycle ci m).1.stAG = none := by
  have decided := (dStage_waitq inD row opc).trans (if_neg (by simp [unmet]) : dWaitq m m.ctl f.word = _)
  obtain ⟨ctl, stD, stAG⟩ := hold_inD clean run decided rfl
  exact ⟨(congrArg Control.run ctl).trans (if_pos run), congrArg Control.pc ctl, stD, stAG⟩

theorem trapret_inD_of_trap (opc : iOpc f.word = 0xF7) (trap : m.inTrap = true) :
    (sliceCycle ci m).1.pc = m.trap.extractLsb' 16 10 ∧ (sliceCycle ci m).1.inTrap = false := by
  have decided := (dStage_trapret inD row opc).trans (if_pos trap : dTrapret m.ctl m.trap = _)
  obtain ⟨ctl, -⟩ := transfer_inD clean run decided rfl rfl rfl rfl
  exact ⟨congrArg Control.pc ctl, congrArg Control.inTrap ctl⟩

/-- TRAPRET outside a handler is a NOP (05 R159). -/
theorem trapret_inD_of_noTrap (opc : iOpc f.word = 0xF7) (noTrap : m.inTrap = false) (closed : openLevels m.loops = 0) :
    (sliceCycle ci m).1.pc = m.pc + 1 ∧ (sliceCycle ci m).1.inTrap = false ∧ (sliceCycle ci m).1.run = .running := by
  have decided := (dStage_trapret inD row opc).trans (if_neg (by simp [Slice.ctl, noTrap]) : dTrapret m.ctl m.trap = _)
  have ctl := goOn_inD clean run decided rfl rfl rfl closed
  exact ⟨congrArg Control.pc ctl, (congrArg Control.inTrap ctl).trans noTrap, (congrArg Control.run ctl).trans run⟩

theorem halt_inD (opc : iOpc f.word = 0xF8) :
    (sliceCycle ci m).1.run = .draining ∧ (sliceCycle ci m).1.cause = 1 ∧ (sliceCycle ci m).1.stD.map Flight.slot = some true := by
  obtain ⟨ctl, stD, slot⟩ := fetch_inD clean run (dStage_halt inD row opc) rfl rfl
  obtain ⟨runs, cause, -⟩ := DStage.next_keeps _ m.pc
  refine ⟨(congrArg Control.run ctl).trans runs, (congrArg Control.cause ctl).trans cause, ?_⟩
  rw [stD, Option.map_some, slot]

end

end Sys2Proof.Machine
end

section
/-! PROOFS. Arithmetic slices, part 4: moves, from MR to WB (05 R138 to R142). -/

open Sys2Proof
namespace Sys2Proof.Machine

/-! ### Moves (05 R138 to R142) -/

theorem mrMove_of_load (old s : Slice) (y : Bool) {m : Nat} (a : BitVec 11) (r : Reading) (load : mvType m = 1) :
    mrMove old y m a r s = s.setD (mvReg m) (r.data.truncate 24) (BitVec.ofNat 16 (a.toNat + atBit y 11)) := by simp [mrMove, load]

theorem mrMove_of_none (old s : Slice) (y : Bool) {m : Nat} (a : BitVec 11) (r : Reading) (none : mvType m = 0) : mrMove old y m a r s = s := by
  simp [mrMove, none]

/-- A load leaves the low 24 bits of the word it read. -/
theorem dReg_of_load (old s : Slice) (y : Bool) {m : Nat} (a : BitVec 11) (r : Reading) (load : mvType m = 1) :
    (mrMove old y m a r s).dReg (mvReg m) = BitVec.ofNat 24 r.data.toNat := by
  rw [mrMove_of_load old s y a r load, Slice.dReg_setD_same]
  rfl

section
variable {ci : CycleIn} {m : Slice} {f : Flight} (clean : ci.clean = true) (run : m.run = .running) (empty : m.stD = none)
  (inMR : m.stMR = some f) (row : f.nop = false) (moves : hasMoves f.word = true)
include clean run empty inMR row moves

/-- The loads of the instruction in MR, the X field first. -/
theorem dReg_of_inMR (k : Nat) : (sliceCycle ci m).1.dReg k =
    (mrMove m true (iY f.word) f.ya ci.y (mrMove m false (iX f.word) f.xa ci.x (m.accumulated ci))).dReg k := by
  have decided : dStage m = { ctl := m.ctl } := dStage_of_plain fun g inD => by simp [empty] at inD
  have stage : mrStage m f ci (m.accumulated ci) =
      (mrMove m true (iY f.word) f.ya ci.y (mrMove m false (iX f.word) f.xa ci.x (m.accumulated ci)), f) := by
    rw [mrStage, if_neg (by simp [row]), if_pos moves]
  have loaded : m.loaded ci = mrMove m true (iY f.word) f.ya ci.y (mrMove m false (iX f.word) f.xa ci.x (m.accumulated ci)) := by
    rw [Slice.loaded, inMR, Option.map_some, Option.map_some, stage]
    rfl
  have advanced : (m.advanced ci).d = (m.loaded ci).d := by
    unfold Slice.advanced
    cases m.stAG with
    | none => rfl
    | some g => exact (agStage_keeps ..).2.2.1
  rw [sliceCycle_of_fetch (.of_clean clean m) decided rfl rfl (.inl run), ← loaded]
  exact congrArg (tget 0 · k) advanced

theorem dReg_of_yLoad (load : mvType (iY f.word) = 1) : (sliceCycle ci m).1.dReg (mvReg (iY f.word)) = BitVec.ofNat 24 ci.y.data.toNat := by
  rw [dReg_of_inMR clean run empty inMR row moves, dReg_of_load _ _ _ _ _ load]

theorem dReg_of_xLoad (load : mvType (iX f.word) = 1) (none : mvType (iY f.word) = 0) :
    (sliceCycle ci m).1.dReg (mvReg (iX f.word)) = BitVec.ofNat 24 ci.x.data.toNat := by
  rw [dReg_of_inMR clean run empty inMR row moves, mrMove_of_none _ _ _ _ _ none, dReg_of_load _ _ _ _ _ load]

end

/-! ### What an instruction will land (05 R142) -/

section
variable {s : Slice} {f : Flight}

theorem hasMoves_of_move {w : BitVec 40} (opc : iOpc w = 0x00) : hasMoves w = true := by simp [hasMoves, opc]

theorem wbsOf_move (opc : iOpc f.word = 0x00) : (wbsOf s f).1 = (mvWb s false (iX f.word) f.xa).1 ++ (mvWb s true (iY f.word) f.ya).1 := by
  simp [wbsOf, hasMoves, opc]

theorem wbsOf_clr (opc : iOpc f.word = 0x04) (data : 8 ≤ iDst f.word) : (wbsOf s f).1 =
    { reg := iDst f.word % 8, val := 0 } :: ((mvWb s false (iX f.word) f.xa).1 ++ (mvWb s true (iY f.word) f.ya).1) := by
  simp [wbsOf, hasMoves, opc, data]

theorem wbsOf_regReg (opc : iOpc f.word = 0x01) (is0 : iCode2 f.word ≠ 0x2C) (is1 : iCode2 f.word ≠ 0x2D) :
    (wbsOf s f).1 = [codeWb s.mode (iCode f.word) (s.readCode (iCode2 f.word)).1] := by simp [wbsOf, opc, is0, is1]

theorem wbsOf_popped (opc : iOpc f.word = 0x01) (stream : iCode2 f.word = 0x2C ∨ iCode2 f.word = 0x2D) (code : 8 ≤ iCode f.word) :
    (wbsOf s f).1 = [codeWb s.mode (iCode f.word) f.popped.toNat] := by simp [wbsOf, opc, stream, Nat.not_lt.mpr code]

theorem wbsOf_imm (opc : iOpc f.word = 0x02 ∨ iOpc f.word = 0x03) : (wbsOf s f).1 = [codeWb s.mode (iCode f.word)
    (if 0x20 ≤ iCode f.word ∧ iCode f.word < 0x28 then bitsOf f.word.toNat 0 24 + 2 ^ 24 * (iOpc f.word % 2) else bitsOf f.word.toNat 0 24)] := by
  unfold wbsOf
  dsimp only
  rw [if_neg (by omega), if_pos opc]

end

end Sys2Proof.Machine
end

section
/-! PROOFS. Arithmetic slices, part 5: the cycle of a slice in the package (04 R128, R129). -/

open Sys2Proof
namespace Sys2Proof.Machine

/-! ### What an access or an event leaves of the dies -/

/-- The slice without its memories and the counts of corrected reads: what window accesses leave alone. -/
def Slice.core (m : Slice) : Slice := { m with xmem := [], ymem := [], imem := [], corrX := 0, corrY := 0, corrI := 0 }

/-- What only reads other parts of a slice is the same of slices with the same core. -/
theorem Slice.of_core {A : Type} {m n : Slice} (core : m.core = n.core) (g : Slice → A) (own : ∀ m, g m.core = g m) : g m = g n := by
  rw [← own m, core, own n]

@[simp] theorem State.die_raiseSliceUe (s : State) (d i mem word reader tpc : Nat) (scrub : Bool) (d' : Nat) :
    (s.raiseSliceUe d i mem word reader tpc scrub).die d' = s.die d' := State.raiseEvent_die ..

theorem State.slice_of_die {s t : State} {d : Nat} (h : t.die d = s.die d) (i : Nat) : t.slice d i = s.slice d i := by rw [State.slice, h, State.slice]

theorem State.group_of_die {s t : State} {d : Nat} (h : t.die d = s.die d) (g : Nat) : t.group d g = s.group d g := by rw [State.group, h, State.group]

theorem State.slBlank_of_die {s t : State} {d : Nat} (h : t.die d = s.die d) (i : Nat) : t.slBlank d i = s.slBlank d i := by
  rw [State.slBlank, State.group_of_die h, State.slBlank]

theorem State.imBlank_of_die {s t : State} {d : Nat} (h : t.die d = s.die d) (i : Nat) : t.imBlank d i = s.imBlank d i := by
  rw [State.imBlank, State.group_of_die h, State.imBlank]

theorem State.readSl_of_free {s t : State} (h : t.free = s.free) (blank : MemWord) (tab : Tab MemWord) (a : Nat) (u : Upset) (k : Nat) :
    t.readSl blank tab a u k = s.readSl blank tab a u k := by
  unfold State.readSl State.freeValAt
  rw [h]

/-- Where no waiting access is to be served, the dies and the draw counter stay. -/
theorem State.serveWins_of_none {s : State} {d : Nat} {which : WinAcc → Bool} (none : ∀ e ∈ (s.die d).winWait, which e = false) :
    (∀ d', (s.serveWins d which).die d' = s.die d') ∧ (s.serveWins d which).free = s.free := by
  have serves : (s.die d).winWait.filter which = [] := List.filter_eq_nil_iff.mpr fun e he => by simp [none e he]
  have keeps : (s.die d).winWait.filter (fun e => !which e) = (s.die d).winWait := List.filter_eq_self.mpr fun e he => by simp [none e he]
  unfold State.serveWins
  dsimp only
  rw [serves, keeps]
  refine ⟨fun d' => ?_, rfl⟩
  by_cases h : d' = d
  · subst h; exact State.die_modDie ..
  · exact State.die_modDie_other _ _ h

/-! ### The cycle of a slice in the package -/

/-- A cycle that serves no access and finds no failing word is a clean `sliceCycle` of the slice with its words scrubbed as they are read, whose
    fetch is the word at PC; no other slice of the die changes. -/
theorem slice_slCycle {s : State} {d i : Nat} {u : SliceUpset} (clean : s.cleanCycle d i u = true) :
    ∃ ci m, ci.CleanFor m ∧ ci.fetch.data = s.slWord d i ∧ m.core = (s.slice d i).core ∧
      ((slCycle s d i u).slice d i).ctl = (sliceCycle ci m).1.ctl ∧ ((slCycle s d i u).slice d i).stages = (sliceCycle ci m).1.stages ∧
      ((slCycle s d i u).slice d i).cycles = (sliceCycle ci m).1.cycles ∧
      ∀ k, k ≠ i → (slCycle s d i u).slice d k = s.slice d k := by
  obtain ⟨⟨⟨⟨idle, fetchOk⟩, word⟩, xOk⟩, yOk⟩ : ((((∀ e ∈ (s.die d).winWait, (e.slice == i) = false) ∧ _) ∧ _) ∧ _) ∧ _ := by
    simpa [State.cleanCycle] using clean
  unfold slCycle
  extract_lets before s1 sl blank ib rf xa ya rx ry seen r cnt lag r1 out pushed s2 s3
  obtain ⟨die, free⟩ : (∀ d', s1.die d' = s.die d') ∧ s1.free = s.free := State.serveWins_of_none fun e he => by simp [idle e he]
  have slEq : sl = s.slice d i := State.slice_of_die (die d) i
  have blankEq : blank = s.slBlank d i := State.slBlank_of_die (die d) i
  have ibEq : ib = s.imBlank d i := State.imBlank_of_die (die d) i
  have rfEq : rf = s.readSl (s.imBlank d i) (s.slice d i).imem (s.slice d i).pc.toNat u.instr 0 := by
    rw [← State.readSl_of_free free, ← ibEq, ← slEq]
  have rxEq : rx = s.readSl (s.slBlank d i) (s.slice d i).xmem ((Option.map Flight.xa (s.slice d i).stMR).getD 0#11).toNat u.x 1 := by
    rw [← State.readSl_of_free free, ← blankEq, ← slEq]
    rfl
  have ryEq : ry = s.readSl (s.slBlank d i) (s.slice d i).ymem ((Option.map Flight.ya (s.slice d i).stMR).getD 0#11).toNat u.y 2 := by
    rw [← State.readSl_of_free free, ← blankEq, ← slEq]
    rfl
  have die2 : s2.die d = (s1.modSlice d i fun _ => out).die d := rfl
  have die3 : s3.die d = s2.die d := foldl_keeps (State.die · d) _ (fun _ _ => State.die_raiseSliceUe ..) r.2 s2
  have winWait : (s3.die d).winWait = (s.die d).winWait := by
    rw [die3, die2, State.modSlice, State.die_modDie, die]
  have served := fun k => State.slice_of_die
    ((State.serveWins_of_none (s := s3) (d := d) (which := fun e => e.slice == i && (out.run == .halted || (e.write && !before.usesPort e.y true)))
      (fun e he => by rw [winWait] at he; simp [idle e he])).1 d) k
  have here : (s3.serveWins d fun e => e.slice == i && (out.run == .halted || (e.write && !before.usesPort e.y true))).slice d i = out := by
    rw [served, State.slice_of_die (die3.trans die2), State.slice_modSlice]
  refine ⟨{ fetch := rf.1, x := rx.1, y := ry.1, casin := s1.casin d i, blank := blank }, seen, ⟨?_, ?_, ?_⟩, ?_, ?_, ?_, ?_, ?_, ?_⟩
  case refine_1 => rw [rfEq]; exact fetchOk
  case refine_2 =>
    change (sl.readsX && rx.1.bad) = false
    rw [rxEq, slEq]
    exact Bool.and_eq_false_iff.mpr xOk
  case refine_3 =>
    change (sl.readsY && ry.1.bad) = false
    rw [ryEq, slEq]
    exact Bool.and_eq_false_iff.mpr yOk
  case refine_4 => rw [rfEq]; exact word
  case refine_5 => exact (show seen.core = sl.core from rfl).trans (congrArg Slice.core slEq)
  case refine_6 => exact (congrArg Slice.ctl here).trans (show out.ctl = r.1.ctl from rfl)
  case refine_7 => exact (congrArg Slice.stages here).trans (show out.stages = r.1.stages from rfl)
  case refine_8 => exact (congrArg Slice.cycles here).trans (show out.cycles = r.1.cycles from rfl)
  case refine_9 =>
    intro k other
    rw [served, State.slice_of_die (die3.trans die2), State.slice_modSlice_other _ _ (.inr other), State.slice_of_die (die d)]

/-- A cycle of a running or waiting slice whose stage D lets the fetch be made, in the package: the control state, the flights, and what else
    `fetched` says of it. -/
theorem slCycle_fetches {s : State} {d i : Nat} {u : SliceUpset} (clean : s.cleanCycle d i u = true)
    (run : (s.slice d i).run = .running ∨ (s.slice d i).run = .waiting) {D : DStage}
    (decided : ∀ m : Slice, m.core = (s.slice d i).core → dStage m = D) (hold : D.hold = false) (skip : D.skip = false) :
    ((slCycle s d i u).slice d i).ctl = D.next (s.slice d i).pc ∧
    (((slCycle s d i u).slice d i).stD.map fun f => (f.addr, f.word, f.nop, f.slot)) = some ((s.slice d i).pc, s.slWord d i,
      !wordValid (s.slWord d i) || (D.slotCtl && isControl (s.slWord d i)), D.slotCtl) ∧
    ((slCycle s d i u).slice d i).stAG = (s.slice d i).stD ∧
    ((slCycle s d i u).slice d i).stMR.map Flight.word = (s.slice d i).stAG.map Flight.word ∧
    ((slCycle s d i u).slice d i).stM1.map Flight.word = (s.slice d i).stMR.map Flight.word ∧
    ((slCycle s d i u).slice d i).stM2.map Flight.word = (s.slice d i).stM1.map Flight.word ∧
    ((slCycle s d i u).slice d i).stWB.map Flight.word = (s.slice d i).stM2.map Flight.word ∧
    ((slCycle s d i u).slice d i).cycles = (s.slice d i).cycles + 1 ∧ ∀ k, k ≠ i → (slCycle s d i u).slice d k = s.slice d k := by
  obtain ⟨ci, m, cleanFor, word, core, ctl, stages, count, others⟩ := slice_slCycle clean
  have pc : m.pc = (s.slice d i).pc := Slice.of_core core Slice.pc fun _ => rfl
  have runs : m.run = (s.slice d i).run := Slice.of_core core Slice.run fun _ => rfl
  have stD : m.stD = (s.slice d i).stD := Slice.of_core core Slice.stD fun _ => rfl
  have stAG : m.stAG = (s.slice d i).stAG := Slice.of_core core Slice.stAG fun _ => rfl
  have stMR : m.stMR = (s.slice d i).stMR := Slice.of_core core Slice.stMR fun _ => rfl
  have stM1 : m.stM1 = (s.slice d i).stM1 := Slice.of_core core Slice.stM1 fun _ => rfl
  have stM2 : m.stM2 = (s.slice d i).stM2 := Slice.of_core core Slice.stM2 fun _ => rfl
  have cycles : m.cycles = (s.slice d i).cycles := Slice.of_core core Slice.cycles fun _ => rfl
  obtain ⟨mr, m1, m2, wb⟩ := words_moveOn m ci (some (m.fetchFlight ci)) m.stD
  have fetched : ((some (m.fetchFlight ci)).map fun f => (f.addr, f.word, f.nop, f.slot)) = some (m.pc, ci.fetch.data,
      !wordValid ci.fetch.data || ((dStage m).slotCtl && isControl ci.fetch.data), (dStage m).slotCtl) := rfl
  rw [word, decided m core] at fetched
  rw [sliceCycle_of_fetch cleanFor (decided m core) hold skip (runs ▸ run)] at ctl stages count
  rw [← cycles, ← stAG, ← stMR, ← stM1, ← stM2, ← stD, ← pc]
  generalize (slCycle s d i u).slice d i = out at *
  have stage {A : Type} (g : Stages → A) := congrArg g stages
  exact ⟨ctl, (congrArg (Option.map _) (stage Stages.d)).trans fetched, stage Stages.ag, (congrArg (Option.map _) (stage Stages.mr)).trans mr,
    (congrArg (Option.map _) (stage Stages.m1)).trans m1, (congrArg (Option.map _) (stage Stages.m2)).trans m2,
    (congrArg (Option.map _) (stage Stages.wb)).trans wb, count.trans (cycles_advanced m ci), others⟩

theorem Slice.atLoopEnd_iff (m : Slice) : m.atLoopEnd = true ↔
    0 < openLevels m.loops ∧ (tget LoopLevel.reset m.loops (openLevels m.loops - 1)).stop = m.pc ∧ m.inTrap = false := by
  simp [Slice.atLoopEnd, and_assoc]

/-- What the fetch of a running slice with no control instruction in stage D leaves. -/
theorem fetched_slCycle {s : State} {d i : Nat} {u : SliceUpset} (run : (s.slice d i).run = .running) (clean : s.cleanCycle d i u = true)
    (plain : s.plainD d i = true) : s.fetched (slCycle s d i u) d i ∧
    ((slCycle s d i u).slice d i).ctl = (s.slice d i).ctl.fetchedAt (s.slice d i).pc := by
  have decided (m : Slice) (core : m.core = (s.slice d i).core) : dStage m = { ctl := (s.slice d i).ctl } := by
    have stD : m.stD = (s.slice d i).stD := Slice.of_core core Slice.stD fun _ => rfl
    have ctl : m.ctl = (s.slice d i).ctl := Slice.of_core core Slice.ctl fun _ => rfl
    rw [← ctl]
    refine dStage_of_plain fun f inD => ?_
    rw [stD] at inD
    simpa [State.plainD, inD] using plain
  obtain ⟨ctl, stD, stAG, stMR, stM1, stM2, stWB, cycles, others⟩ := slCycle_fetches clean (.inl run) decided rfl rfl
  rw [DStage.next_of_none rfl] at ctl
  obtain ⟨runs, -⟩ := DStage.next_keeps { ctl := (s.slice d i).ctl } (s.slice d i).pc
  generalize slCycle s d i u = t at *
  refine ⟨⟨by simpa using stD, by rw [stAG], stMR, stM1, stM2, stWB, ?_, cycles, fun inside => ?_, others⟩, ctl⟩
  · exact (congrArg Control.run ctl).trans (runs.trans run)
  · refine (congrArg Control.pc ctl).trans (congrArg Control.pc (Control.fetchedAt_of_inside ?_))
    have notEnd := mt (s.slice d i).atLoopEnd_iff.mpr (by simp [inside])
    by_contra reached
    obtain ⟨noTrap, opened, ends⟩ : (s.slice d i).ctl.inTrap ≠ true ∧ openLevels (s.slice d i).ctl.loops ≠ 0 ∧ _ := by simpa using reached
    exact notEnd ⟨Nat.pos_of_ne_zero opened, ends, Bool.eq_false_of_not_eq_true noTrap⟩

/-- The command of a row completes for a slice with a word of the row at its PC, and the word does what the row says of it. -/
theorem row_completes {s : State} {d i : Nat} {u : SliceUpset} {lo hi : Nat} {P : Prop}
    (ready : s.runsRow d i lo hi = true ∧ s.cleanCycle d i u = true ∧ s.plainD d i = true)
    (word : lo ≤ iOpc (s.slWord d i) → iOpc (s.slWord d i) ≤ hi → P) :
    ∃ t, opRow (isOpc lo hi) d i u s = .next t ∧ s.fetched t d i ∧ P := by
  obtain ⟨row, clean, plain⟩ := ready
  obtain ⟨⟨⟨⟨ready, run⟩, valid⟩, atLeast⟩, atMost⟩ :
      (((s.slReady d i = true ∧ (s.slice d i).run = .running) ∧ wordValid (s.slWord d i) = true) ∧ lo ≤ _) ∧ _ ≤ hi := by
    simpa [State.runsRow] using row
  have isRow : isOpc lo hi (s.slWord d i) = true := by simp [isOpc, valid, atLeast, atMost]
  exact ⟨_, congrArg Host.Outcome.next (if_pos ⟨ready, run, isRow⟩), (fetched_slCycle run clean plain).1, word atLeast atMost⟩

/-- The same of a row with one opcode. -/
theorem opcode_completes {s : State} {d i : Nat} {u : SliceUpset} {opc : Nat} {P : Prop}
    (ready : s.runsRow d i opc opc = true ∧ s.cleanCycle d i u = true ∧ s.plainD d i = true) (word : iOpc (s.slWord d i) = opc → P) :
    ∃ t, opRow (isOpc opc opc) d i u s = .next t ∧ s.fetched t d i ∧ P :=
  row_completes ready fun atLeast atMost => word (Nat.le_antisymm atMost atLeast)

end Sys2Proof.Machine
end

section
/-! PROOFS. Arithmetic slices, part 6: the loop's end, the released WAITQ and the stolen cycle (04 R118, R128; 05 R158). -/

open Sys2Proof
namespace Sys2Proof.Machine

/-! ### LOOP_END_FETCH and WAITQ_RELEASE -/

section
variable {c : Control} {l : LoopLevel} {k : Nat} (noTrap : c.inTrap = false) (levels : openLevels c.loops = k + 1)
  (level : tget LoopLevel.reset c.loops k = l)
include noTrap levels level

/-- The fetch of the innermost level's end address starts another pass (04 R118). -/
theorem Control.fetchedAt_of_passes (passes : 1 < l.count.toNat) :
    c.fetchedAt l.stop = { c with loops := tput LoopLevel.reset c.loops k { l with count := l.count - 1 }, pc := l.start } := by
  rw [Control.fetchedAt, noTrap, if_neg Bool.false_ne_true, levels, loopNext_of_passes level rfl passes, BitVec.ofNat_toNat, BitVec.setWidth_eq]

/-- On the last pass it closes the level; with no level round it the fetch goes on. -/
theorem Control.fetchedAt_of_last (last : l.count.toNat ≤ 1) :
    (tget LoopLevel.reset (c.fetchedAt l.stop).loops k).isOpen = false ∧ (k = 0 → (c.fetchedAt l.stop).pc = l.stop + 1) := by
  rw [Control.fetchedAt, noTrap, if_neg Bool.false_ne_true, levels, loopNext_of_last level rfl last]
  refine ⟨?_, fun outermost => ?_⟩
  · rw [tget_loopNext_above _ le_rfl, tget_tput_same]
  · subst outermost
    exact ofNat_toNat_succ l.stop

end

/-- The cycle that fetches the end address of the innermost open level. -/
theorem slCycle_of_loopEnd {s : State} {d i : Nat} {u : SliceUpset} {l : LoopLevel} (run : (s.slice d i).run = .running)
    (atEnd : (s.slice d i).atLoopEnd = true) (clean : s.cleanCycle d i u = true) (plain : s.plainD d i = true)
    (level : tget LoopLevel.reset (s.slice d i).loops (openLevels (s.slice d i).loops - 1) = l) {t : State} (ht : slCycle s d i u = t) :
    (1 < l.count.toNat → (t.slice d i).pc = l.start ∧
      tget LoopLevel.reset (t.slice d i).loops (openLevels (s.slice d i).loops - 1) = { l with count := l.count - 1 }) ∧
    (l.count.toNat ≤ 1 → (tget LoopLevel.reset (t.slice d i).loops (openLevels (s.slice d i).loops - 1)).isOpen = false ∧
      (openLevels (s.slice d i).loops = 1 → (t.slice d i).pc = (s.slice d i).pc + 1)) := by
  have ctl := (fetched_slCycle run clean plain).2
  obtain ⟨opened, ends, noTrap⟩ := (s.slice d i).atLoopEnd_iff.mp atEnd
  rw [level] at ends
  have levels : openLevels (s.slice d i).loops = openLevels (s.slice d i).loops - 1 + 1 := (Nat.sub_add_cancel opened).symm
  rw [ht, ← ends] at ctl
  refine ⟨fun passes => ?_, fun last => ?_⟩
  · rw [Control.fetchedAt_of_passes noTrap levels level passes] at ctl
    exact ⟨congrArg Control.pc ctl, (congrArg (tget LoopLevel.reset ·.loops _) ctl).trans (tget_tput_same ..)⟩
  · obtain ⟨closed, goesOn⟩ := Control.fetchedAt_of_last (c := (s.slice d i).ctl) noTrap levels level last
    refine ⟨(congrArg (fun c => (tget LoopLevel.reset (Control.loops c) _).isOpen) ctl).trans closed, fun one => ?_⟩
    rw [← ends]
    exact (congrArg Control.pc ctl).trans (goesOn (by rw [one]))

/-- A waiting slice whose WAITQ finds its conditions met makes the held fetch (05 R158). -/
theorem slCycle_of_release {s : State} {d i : Nat} {f : Flight} (waiting : (s.slice d i).run = .waiting) (inD : (s.slice d i).stD = some f)
    (row : f.isRow 0xF6 0xF6 = true) (met : (s.slice d i).waitOk (bitsOf f.word.toNat 0 4) = true) (clean : s.cleanCycle d i noUpset = true)
    {t : State} (ht : slCycle s d i noUpset = t) :
    (t.slice d i).run = .running ∧ (t.slice d i).stD.map Flight.word = some (s.slWord d i) ∧ (t.slice d i).stAG.map Flight.word = some f.word ∧
    (openLevels (s.slice d i).loops = 0 → (t.slice d i).pc = (s.slice d i).pc + 1) ∧ (t.slice d i).cycles = (s.slice d i).cycles + 1 ∧
    ∀ k, k ≠ i → t.slice d k = s.slice d k := by
  obtain ⟨⟨notNop, atLeast⟩, atMost⟩ : (f.nop = false ∧ 0xF6 ≤ iOpc f.word) ∧ iOpc f.word ≤ 0xF6 := by simpa [Flight.isRow] using row
  have decided (m : Slice) (core : m.core = (s.slice d i).core) : dStage m = { ctl := { (s.slice d i).ctl with run := .running } } := by
    have stD := (Slice.of_core core Slice.stD fun _ => rfl).trans inD
    have waitOk := (Slice.of_core core (Slice.waitOk · (bitsOf f.word.toNat 0 4)) fun _ => rfl).trans met
    have ctl := Slice.of_core core Slice.ctl fun _ => rfl
    rw [dStage_waitq stD notNop (Nat.le_antisymm atMost atLeast), dWaitq, if_pos waitOk, ctl]
    congr 2
    exact if_pos waiting
  obtain ⟨ctl, stD, stAG, -, -, -, -, cycles, others⟩ := slCycle_fetches clean (.inr waiting) decided rfl rfl
  rw [ht] at ctl stD stAG cycles others
  refine ⟨?_, ?_, by rw [stAG, inD]; rfl, fun closed => ?_, cycles, others⟩
  · exact (congrArg Control.run ctl).trans (DStage.next_keeps ..).1
  · have word := congrArg (Option.map (·.2.1)) stD
    rwa [Option.map_map] at word
  · rw [DStage.next_of_none rfl, Control.fetchedAt_of_inside (.inr (.inl closed))] at ctl
    exact congrArg Control.pc ctl

/-! ### SLICE_STOLEN_CYCLE (04 R128) -/

theorem State.die_of_frame {s t : State} {ps : List Component} (h : Steps ps s t) (out : Component.dies ∉ ps) (d : Nat) : t.die d = s.die d := by
  have dies : t.dies = s.dies := h.1 .dies out
  rw [State.die, dies, State.die]

@[simp] theorem State.die_respond (s : State) (node r p : Nat) (k : Pkt) (resp : BitVec 3) (data : List (BitVec 8)) (d : Nat) :
    (s.respond node r p k resp data).die d = s.die d :=
  State.die_of_frame (State.respond_steps (Steps.refl [.free, .routers] s) fun _ h => h) (by decide) d

/-- From s to t the slices of a die keep all but their memories and the counts of corrected reads, and the accesses that wait go on waiting. -/
structure State.SameCores (s t : State) (d : Nat) : Prop where
  core : ∀ k, (t.slice d k).core = (s.slice d k).core
  winWait : (t.die d).winWait = (s.die d).winWait

theorem State.SameCores.of_die {s t : State} {d : Nat} (h : t.die d = s.die d) : s.SameCores t d :=
  ⟨fun k => congrArg Slice.core (State.slice_of_die h k), congrArg Die.winWait h⟩

theorem State.SameCores.trans {s t u : State} {d : Nat} (h : s.SameCores t d) (h' : t.SameCores u d) : s.SameCores u d :=
  ⟨fun k => (h'.core k).trans (h.core k), h'.winWait.trans h.winWait⟩

theorem State.SameCores.modSlice (s : State) (d i : Nat) {f : Slice → Slice} (hf : ∀ m, (f m).core = m.core) : s.SameCores (s.modSlice d i f) d := by
  refine ⟨fun k => ?_, ?_⟩
  · by_cases h : k = i
    · subst h; rw [State.slice_modSlice, hf]
    · rw [State.slice_modSlice_other _ _ (.inr h)]
  · rw [State.modSlice, State.die_modDie]

theorem slWinWrite_sameCores (s : State) (d i mem a v : Nat) : s.SameCores (slWinWrite s d i mem a v) d := by
  refine State.SameCores.modSlice s d i fun m => ?_
  split
  · rfl
  · split <;> rfl

theorem slWinRead_sameCores (s : State) (d i mem a : Nat) (u : Upset) : s.SameCores (slWinRead s d i mem a u).1 d := by
  unfold slWinRead
  extract_lets m blank t r s1 bits val s2
  have read : s.SameCores s1 d := by
    refine State.SameCores.modSlice s d i fun m => ?_
    split
    · rfl
    · split <;> rfl
  refine read.trans (State.SameCores.of_die ?_)
  dsimp only
  split
  · exact State.die_raiseSliceUe ..
  · rfl

theorem State.serveWin_sameCores (s : State) (d : Nat) (e : WinAcc) : s.SameCores (s.serveWin d e) d := by
  unfold State.serveWin
  extract_lets mem done
  have answered (s : State) (resp : BitVec 3) (v : Nat) : s.SameCores (done s resp v) d := by
    refine .of_die ?_
    unfold done
    split
    · exact State.die_respond ..
    · rfl
  split
  · refine State.SameCores.trans ?_ (answered _ _ _)
    split
    · exact (slWinWrite_sameCores ..).trans (slWinWrite_sameCores ..)
    · exact slWinWrite_sameCores ..
  · split
    · exact ((slWinRead_sameCores ..).trans (slWinRead_sameCores ..)).trans (answered _ _ _)
    · exact (slWinRead_sameCores ..).trans (answered _ _ _)

/-- Serving waiting accesses takes them off the list and leaves the slices but for their memories. -/
theorem State.serveWins_cores (s : State) (d : Nat) (which : WinAcc → Bool) :
    (∀ k, ((s.serveWins d which).slice d k).core = (s.slice d k).core) ∧
    ((s.serveWins d which).die d).winWait = (s.die d).winWait.filter fun e => !which e := by
  have served (es : List WinAcc) (t : State) : t.SameCores (es.foldl (fun (s : State) e => s.serveWin d e) t) d := by
    induction es generalizing t with
    | nil => exact .of_die rfl
    | cons e es ih => exact (State.serveWin_sameCores t d e).trans (ih _)
  obtain ⟨core, winWait⟩ := served ((s.die d).winWait.filter which)
    (s.modDie d fun x => { x with winWait := (s.die d).winWait.filter fun e => !which e })
  refine ⟨fun k => (core k).trans ?_, winWait.trans ?_⟩
  · rw [State.slice, State.die_modDie, State.slice]
  · rw [State.die_modDie]

/-- SLICE_STOLEN_CYCLE of a slice whose turn it is. -/
theorem exec_sliceStolenCycle {s : State} {d i : Nat} (turn : s.slTurn d i = true) (noHalt : (s.slice d i).mustHalt = false)
    (steal : s.mustSteal d i = true) : exec (.sliceStolenCycle d i) s = .next
      ((s.serveWins d fun e => e.slice == i && e.due (s.slice d i)).modSlice d i fun m => { m with cyc := m.cyc + 1, cycles := m.cycles + 1 }) :=
  congrArg Host.Outcome.next (if_pos ⟨turn, by simp [noHalt], steal⟩)

/-- A window write to X memory stores the low 24 bits with fresh check bits. -/
theorem xmem_slWinWrite (s : State) (d i a v : Nat) :
    tget (s.slBlank d i) ((slWinWrite s d i 0 a v).slice d i).xmem a = { data := BitVec.ofNat 40 (v % 2 ^ 24) } := by
  rw [slWinWrite, State.slice_modSlice]
  exact tget_tput_same ..

/-- The one waiting write of a word of X memory, without a port to answer, is served as such. -/
theorem State.serveWins_of_xWrite {s : State} {d : Nat} {e : WinAcc} {which : WinAcc → Bool} (one : (s.die d).winWait = [e]) (due : which e = true)
    (write : e.write = true) (x : e.y = false) (short : e.eight = false) (direct : e.who = none) :
    (s.serveWins d which).okay 0 ∧
    tget (s.slBlank d e.slice) ((s.serveWins d which).slice d e.slice).xmem e.addr = { data := BitVec.ofNat 40 (e.val % 2 ^ 24) } := by
  have served : (s.die d).winWait.filter which = [e] := by rw [one]; simp [due]
  have blank : (s.modDie d fun x => { x with winWait := (s.die d).winWait.filter fun e => !which e }).slBlank d e.slice = s.slBlank d e.slice := by
    rw [State.slBlank, State.group, State.die_modDie]
    rfl
  rw [State.serveWins, served]
  simp only [List.foldl_cons, List.foldl_nil, State.serveWin, write, x, short, direct, if_true, Bool.false_eq_true, if_false]
  refine ⟨rfl, ?_⟩
  rw [← blank]
  refine (xmem_slWinWrite ..).trans ?_
  rw [Nat.mod_mod_of_dvd _ (by decide : 2 ^ 24 ∣ 2 ^ 32)]

end Sys2Proof.Machine
end

section
/-! PROOFS. Arithmetic slices, part 7: the statement about the instruction rows (04 R106; 05 R132). -/

open Sys2Proof
namespace Sys2Proof.Machine

section
variable {s : State} {d i : Nat} {u : SliceUpset} {opc : Nat} (ready : s.runsRow d i opc opc = true ∧ s.cleanCycle d i u = true ∧ s.plainD d i = true)
include ready

/-- The row of an opcode whose arithmetic writes one accumulator. -/
theorem oneAcc_completes {r : CycleIn → Slice → Flight → Int} (arith : ∀ ci m f, iOpc f.word = opc →
      ∃ casOut, arithOf m f.word f.p0 f.p1 ci.casin = oneAcc m.mode (iDst f.word % 4) (r ci m f) casOut) :
    ∃ t, opRow (isOpc opc opc) d i u s = .next t ∧ s.fetched t d i ∧ accAfterM2 (s.slWord d i) fun ci m f => BitVec.ofInt 56 (r ci m f) :=
  opcode_completes ready fun is => accAfterM2_of_oneAcc fun ci m f word => arith ci m f (word ▸ is)

/-- The row of MPY, MAC or MSU. -/
theorem mul_completes {r : CycleIn → Slice → Flight → Int} (lo : 0x10 ≤ opc) (hi : opc ≤ 0x13) (arith : ∀ ci m f, iOpc f.word = opc →
      ∃ casOut, arithOf m f.word f.p0 f.p1 ci.casin = oneAcc m.mode (iDst f.word % 4) (r ci m f) casOut) :
    ∃ t, opRow (isOpc opc opc) d i u s = .next t ∧ s.fetched t d i ∧
      productInM1 (s.slWord d i) false (iSrc (s.slWord d i) / 4) (4 + iSrc (s.slWord d i) % 4) ∧
      accAfterM2 (s.slWord d i) fun ci m f => BitVec.ofInt 56 (r ci m f) :=
  opcode_completes ready fun is => ⟨product_of_mul (is ▸ lo) (is ▸ hi), accAfterM2_of_oneAcc fun ci m f word => arith ci m f (word ▸ is)⟩

end

/-- Both accumulators of a pair after DMAC.S or DMAC.P. -/
theorem accs_of_dmac_pair {w : BitVec 40} (opc : iOpc w = 0x18 ∨ iOpc w = 0x19) :
    (∀ ci m f, m.stM2 = some f → f.word = w → f.nop = false →
      (sliceCycle ci m).1.acc (iDst f.word % 4 ^^^ 1) = BitVec.ofInt 56 ((m.acc (iDst f.word % 4 ^^^ 1)).toInt + scaled m.mode f.p1)) ∧
    accAfterM2 w fun _ m f => BitVec.ofInt 56 ((m.acc (iDst f.word % 4)).toInt + scaled m.mode f.p0) := by
  constructor
  · intro ci m f inM2 word row
    have accs := arithOf_dmac_pair (s := m) (p0 := f.p0) (p1 := f.p1) (c := ci.casin) (word ▸ opc : iOpc f.word = 0x18 ∨ iOpc f.word = 0x19)
    rw [Slice.acc, (sliceCycle_of_row inM2 row).1, accs]
    exact tget_tput_same ..
  · refine accAfterM2_of_head fun ci m f word => ⟨_, arithOf_dmac_pair (word ▸ opc), ?_⟩
    simp

section
variable {ci : CycleIn} {m : Slice} {f : Flight} (inM2 : m.stM2 = some f) (row : f.nop = false) (empty : m.stWB = none)
include inM2 row empty

/-- MAX and MAXI keep the larger value. -/
theorem acc_of_max (opc : iOpc f.word = 0x50 ∨ iOpc f.word = 0x52) : (sliceCycle ci m).1.acc (iDst f.word % 4) =
    if (m.acc (iDst f.word % 4)).toInt < (m.candidate f.word).toInt then m.candidate f.word else m.acc (iDst f.word % 4) := by
  rw [acc_of_search inM2 row empty (by omega) (by omega)]
  simp only [Slice.beaten_of_even (by omega : iOpc f.word % 2 = 0)]

/-- MIN and MINI keep the smaller. -/
theorem acc_of_min (opc : iOpc f.word = 0x51 ∨ iOpc f.word = 0x53) : (sliceCycle ci m).1.acc (iDst f.word % 4) =
    if (m.candidate f.word).toInt < (m.acc (iDst f.word % 4)).toInt then m.candidate f.word else m.acc (iDst f.word % 4) := by
  rw [acc_of_search inM2 row empty (by omega) (by omega)]
  simp only [Slice.beaten_of_odd (by omega : iOpc f.word % 2 = 1)]

theorem ix_of_maxi (opc : iOpc f.word = 0x52) : tget 0 (sliceCycle ci m).1.ix (iDst f.word / 4 % 2) =
    if (m.acc (iDst f.word % 4)).toInt < (m.candidate f.word).toInt then m.origin (iSrc f.word % 8) else tget 0 m.ix (iDst f.word / 4 % 2) := by
  rw [ix_of_search inM2 row empty (by omega) (by omega) (by omega)]
  simp only [Slice.beaten_of_even (by omega : iOpc f.word % 2 = 0)]

theorem ix_of_mini (opc : iOpc f.word = 0x53) : tget 0 (sliceCycle ci m).1.ix (iDst f.word / 4 % 2) =
    if (m.candidate f.word).toInt < (m.acc (iDst f.word % 4)).toInt then m.origin (iSrc f.word % 8) else tget 0 m.ix (iDst f.word / 4 % 2) := by
  rw [ix_of_search inM2 row empty (by omega) (by omega) (by omega)]
  simp only [Slice.beaten_of_odd (by omega : iOpc f.word % 2 = 1)]

end

end Sys2Proof.Machine

open Sys2Proof Sys2Proof.Machine

/-- Settles O14: what a cycle does with the word in stage D, MR, M1 or M2, and what the row's command makes of the package's state. -/
theorem sliceRowsRunACycle : Obligations.sliceRowsRunACycle := by
  unfold Obligations.sliceRowsRunACycle
  refine ⟨?move, ?moveRegReg, ?moveImm, ?clr, ?mpy, ?mac, ?msu, ?macr, ?dmacS, ?dmacP, ?dmacA, ?dmacD, ?add, ?sub, ?abs, ?neg, ?rnd, ?sat, ?shl, ?shr,
    ?max, ?min, ?maxi, ?mini, ?loopCount, ?loopReg, ?jmp, ?jcc, ?call, ?ret, ?waitq, ?trapret, ?halt, ?reserved, ?loopEnd, ?release, ?stolen,
    ?stolenWrite⟩
  case move =>
    refine fun s d i u ready => opcode_completes ready fun opc => ⟨fun ci m f clean run empty inMR word row => ?_, fun ci m f inM2 word row => ?_⟩
    · have moves : hasMoves f.word = true := hasMoves_of_move (word ▸ opc)
      exact ⟨dReg_of_yLoad clean run empty inMR row moves, dReg_of_xLoad clean run empty inMR row moves⟩
    · obtain ⟨a, -, wbs⟩ := sliceCycle_of_row (ci := ci) inM2 row
      refine ⟨wbs.trans (congrArg some (wbsOf_move (word ▸ opc))), fun empty k => ?_⟩
      rw [Slice.acc, a, arithOf_move (word ▸ opc), Slice.land_of_empty empty]
      rfl
  case moveRegReg =>
    refine fun s d i u ready => opcode_completes ready fun opc ci m f inM2 word row => ?_
    obtain ⟨-, -, wbs⟩ := sliceCycle_of_row (ci := ci) inM2 row
    exact ⟨fun is0 is1 => wbs.trans (congrArg some (wbsOf_regReg (word ▸ opc) is0 is1)),
      fun stream code => wbs.trans (congrArg some (wbsOf_popped (word ▸ opc) stream code))⟩
  case moveImm =>
    refine fun s d i u ready => row_completes ready fun lo hi ci m f inM2 word row => ?_
    exact (sliceCycle_of_row inM2 row).2.2.trans (congrArg some (wbsOf_imm (by rw [word]; omega)))
  case clr =>
    refine fun s d i u ready => opcode_completes ready fun opc ci m f inM2 word row => ?_
    obtain ⟨a, -, wbs⟩ := sliceCycle_of_row (ci := ci) inM2 row
    refine ⟨fun acc => ?_, fun data => ⟨_, wbs.trans (congrArg some (wbsOf_clr (word ▸ opc) data))⟩⟩
    rw [Slice.acc, a, arithOf_clr (word ▸ opc) acc, Nat.mod_eq_of_lt acc, tget_tputAll_head 0 _ (by simp)]
  case mpy => exact fun s d i u ready => mul_completes ready (by decide) (by decide) fun ci m f opc => ⟨_, arithOf_mpy opc⟩
  case mac => exact fun s d i u ready => mul_completes ready (by decide) (by decide) fun ci m f opc => ⟨_, arithOf_mac opc⟩
  case msu => exact fun s d i u ready => mul_completes ready (by decide) (by decide) fun ci m f opc => ⟨_, arithOf_msu opc⟩
  case macr =>
    refine fun s d i u ready => opcode_completes ready fun opc => ⟨product_of_mul (by omega) (by omega), accAfterM2_of_head fun ci m f word => ?_⟩
    exact ⟨[], arithOf_macr (word ▸ opc), by simp⟩
  case dmacS =>
    refine fun s d i u ready => opcode_completes ready fun opc => ?_
    obtain ⟨first, second⟩ := products_of_dmac (w := s.slWord d i) (by omega) (by omega)
    rw [if_pos opc] at second
    exact ⟨first, second, accs_of_dmac_pair (.inl opc)⟩
  case dmacP =>
    refine fun s d i u ready => opcode_completes ready fun opc => ?_
    obtain ⟨first, second⟩ := products_of_dmac (w := s.slWord d i) (by omega) (by omega)
    rw [if_neg (by omega)] at second
    exact ⟨first, second, accs_of_dmac_pair (.inr opc)⟩
  case dmacA =>
    refine fun s d i u ready => opcode_completes ready fun opc => ?_
    obtain ⟨first, second⟩ := products_of_dmac (w := s.slWord d i) (by omega) (by omega)
    rw [if_neg (by omega)] at second
    exact ⟨first, second, accAfterM2_of_oneAcc fun ci m f word => ⟨_, arithOf_dmacA (word ▸ opc)⟩⟩
  case dmacD =>
    refine fun s d i u ready => opcode_completes ready fun opc => ?_
    obtain ⟨first, second⟩ := products_of_dmac (w := s.slWord d i) (by omega) (by omega)
    rw [if_neg (by omega)] at second
    exact ⟨first, second, accAfterM2_of_oneAcc fun ci m f word => ⟨_, arithOf_dmacD (word ▸ opc)⟩⟩
  case add => exact fun s d i u ready => oneAcc_completes ready fun ci m f opc => ⟨_, arithOf_add opc⟩
  case sub => exact fun s d i u ready => oneAcc_completes ready fun ci m f opc => ⟨_, arithOf_sub opc⟩
  case abs => exact fun s d i u ready => oneAcc_completes ready fun ci m f opc => ⟨_, arithOf_abs opc⟩
  case neg => exact fun s d i u ready => oneAcc_completes ready fun ci m f opc => ⟨_, arithOf_neg opc⟩
  case rnd => exact fun s d i u ready => oneAcc_completes ready fun ci m f opc => ⟨_, arithOf_rnd opc⟩
  case sat =>
    refine fun s d i u ready => opcode_completes ready fun opc => accAfterM2_of_head fun ci m f word => ?_
    exact ⟨[], arithOf_sat (word ▸ opc), by simp⟩
  case shl =>
    refine fun s d i u ready => row_completes ready fun lo hi => accAfterM2_of_oneAcc fun ci m f word => ?_
    exact ⟨_, arithOf_shl (word ▸ lo) (word ▸ hi)⟩
  case shr =>
    refine fun s d i u ready => row_completes ready fun lo hi => accAfterM2_of_oneAcc fun ci m f word => ?_
    exact ⟨_, arithOf_shr (word ▸ lo) (word ▸ hi)⟩
  case max =>
    exact fun s d i u ready => opcode_completes ready fun opc ci m f inM2 word row empty => acc_of_max inM2 row empty (.inl (word ▸ opc))
  case min =>
    exact fun s d i u ready => opcode_completes ready fun opc ci m f inM2 word row empty => acc_of_min inM2 row empty (.inl (word ▸ opc))
  case maxi =>
    exact fun s d i u ready => opcode_completes ready fun opc ci m f inM2 word row empty =>
      ⟨acc_of_max inM2 row empty (.inr (word ▸ opc)), ix_of_maxi inM2 row empty (word ▸ opc)⟩
  case mini =>
    exact fun s d i u ready => opcode_completes ready fun opc ci m f inM2 word row empty =>
      ⟨acc_of_min inM2 row empty (.inr (word ▸ opc)), ix_of_mini inM2 row empty (word ▸ opc)⟩
  case loopCount =>
    refine fun s d i u ready => opcode_completes ready fun opc ci m f clean run inD word row => ?_
    have decided := dStage_loopCount inD row (word ▸ opc)
    exact ⟨fun noTrap reach room some other => loop_opens clean run decided noTrap reach room some other,
      fun noTrap reach room zero => loop_skips clean run decided noTrap reach room zero,
      fun noTrap reach full => loop_halts clean run decided noTrap reach full⟩
  case loopReg =>
    refine fun s d i u ready => opcode_completes ready fun opc ci m f clean run inD word row => ?_
    have decided := dStage_loopReg inD row (word ▸ opc)
    exact ⟨fun noTrap reach room some other => loop_opens clean run decided noTrap reach room some other,
      fun noTrap reach room zero => loop_skips clean run decided noTrap reach room zero,
      fun noTrap reach full => loop_halts clean run decided noTrap reach full⟩
  case jmp => exact fun s d i u ready => opcode_completes ready fun opc ci m f clean run inD word row => jmp_inD clean run inD row (word ▸ opc)
  case jcc =>
    exact fun s d i u ready => opcode_completes ready fun opc ci m f clean run inD word row =>
      ⟨jcc_inD_of_true clean run inD row (word ▸ opc), jcc_inD_of_false clean run inD row (word ▸ opc)⟩
  case call =>
    exact fun s d i u ready => opcode_completes ready fun opc ci m f clean run inD word row =>
      ⟨call_inD_of_room clean run inD row (word ▸ opc), call_inD_of_full clean run inD row (word ▸ opc)⟩
  case ret =>
    exact fun s d i u ready => opcode_completes ready fun opc ci m f clean run inD word row =>
      ⟨ret_inD_of_held clean run inD row (word ▸ opc), ret_inD_of_empty clean run inD row (word ▸ opc)⟩
  case waitq =>
    exact fun s d i u ready => opcode_completes ready fun opc ci m f clean run inD word row =>
      ⟨waitq_inD_of_met clean run inD row (word ▸ opc), waitq_inD_of_unmet clean run inD row (word ▸ opc)⟩
  case trapret =>
    exact fun s d i u ready => opcode_completes ready fun opc ci m f clean run inD word row =>
      ⟨trapret_inD_of_trap clean run inD row (word ▸ opc), trapret_inD_of_noTrap clean run inD row (word ▸ opc)⟩
  case halt => exact fun s d i u ready => opcode_completes ready fun opc ci m f clean run inD word row => halt_inD clean run inD row (word ▸ opc)
  case reserved =>
    rintro s d i u ⟨ready, run, invalid, clean, plain⟩
    refine ⟨_, congrArg Host.Outcome.next (if_pos ⟨ready, run, by simp [invalid]⟩), (fetched_slCycle run clean plain).1,
      fun ci m f inM2 nop empty => ?_, fun ci m f clean run inD nop closed => ?_⟩
    · obtain ⟨results, wbs⟩ := sliceCycle_of_nop (ci := ci) inM2 nop empty
      exact ⟨fun k => congrArg (tget 0 · k) (congrArg Prod.fst results), congrArg (·.2.2.1) results, congrArg (·.2.2.2.1) results, congrArg (·.2.2.2.2) results, wbs⟩
    · have decided : dStage m = { ctl := m.ctl } := dStage_of_plain fun g inD' => .inl (by rw [inD] at inD'; exact Option.some.inj inD' ▸ nop)
      have ctl := goOn_inD clean run decided rfl rfl rfl closed
      exact ⟨congrArg Control.pc ctl, (congrArg Control.run ctl).trans run⟩
  case loopEnd =>
    rintro s d i u l ⟨ready, run, atEnd, clean, plain, level⟩
    exact ⟨_, congrArg Host.Outcome.next (if_pos ⟨ready, run, atEnd⟩), (fetched_slCycle run clean plain).1,
      slCycle_of_loopEnd run atEnd clean plain level rfl⟩
  case release =>
    rintro s d i f ⟨ready, waiting, inD, row, met, clean⟩
    exact ⟨_, congrArg Host.Outcome.next (if_pos ⟨ready, waiting⟩), slCycle_of_release waiting inD row met clean rfl⟩
  case stolen =>
    rintro s d i ⟨turn, noHalt, steal⟩
    obtain ⟨cores, winWait⟩ := s.serveWins_cores d fun e => e.slice == i && e.due (s.slice d i)
    refine ⟨_, exec_sliceStolenCycle turn noHalt steal, ?_⟩
    rw [State.slice_modSlice, State.modSlice, State.die_modDie]
    generalize s.serveWins d (fun e => e.slice == i && e.due (s.slice d i)) = t at *
    have keep {A : Type} (g : Slice → A) (own : ∀ m, g m.core = g m) := Slice.of_core (cores i) g own
    exact ⟨congrArg (· + 1) (keep Slice.cyc fun _ => rfl), congrArg (· + 1) (keep Slice.cycles fun _ => rfl), keep Slice.ctl fun _ => rfl,
      keep Slice.stD fun _ => rfl, keep Slice.stAG fun _ => rfl, keep Slice.stMR fun _ => rfl, keep Slice.stM1 fun _ => rfl,
      keep Slice.stM2 fun _ => rfl, keep Slice.stWB fun _ => rfl, keep Slice.a fun _ => rfl, keep Slice.d fun _ => rfl, winWait⟩
  case stolenWrite =>
    rintro s d _ e ⟨turn, noHalt, one, rfl, due, write, x, short, direct⟩
    have steal : s.mustSteal d e.slice = true := by simp [State.mustSteal, one, due]
    obtain ⟨okay, word⟩ := State.serveWins_of_xWrite (which := fun e' => e'.slice == e.slice && e'.due (s.slice d e.slice)) one (by simp [due])
      write x short direct
    obtain ⟨-, winWait⟩ := s.serveWins_cores d fun e' => e'.slice == e.slice && e'.due (s.slice d e.slice)
    refine ⟨_, exec_sliceStolenCycle turn noHalt steal, okay, ?_, ?_⟩
    · rw [State.modSlice, State.die_modDie]
      exact winWait.trans (by simp [one, due])
    · rw [State.slice_modSlice]
      exact word
end

section
/-! PROOFS. Arithmetic slices, part 8: the slice and group registers, and the statement about them (04 R126 to R131). -/

open Sys2Proof
namespace Sys2Proof.Machine

@[simp] theorem State.slice_answer (s : State) (resp : BitVec 3) (data : BitVec 64) (d i : Nat) : (s.answer resp data).slice d i = s.slice d i := rfl

/-! ### Accesses to the slice sub-block of a die -/

/-- An access that is let through, to a register of the sub-block that does not deny it, gets the register's answer. -/
theorem sliceDirect_of_reaches {w : Who} {d off : Nat} {write eight : Bool} {v : Nat} {u : Upset} {s : State}
    (h : s.reaches w (dieBase d + 0x200000 + off) write = true) {t : State} {resp : BitVec 3} {data : BitVec 64}
    (reg : sliceReg w s d off write eight v u = (t, resp, data)) (allowed : resp ≠ respDenied) :
    sliceDirect w d off write eight v u s = .next (t.answer resp data) := by
  have run := State.access_of_reaches (body := fun s => sliceReg w s d off write eight v u) h (by rw [reg]; exact allowed)
  rw [reg] at run
  exact congrArg Host.Outcome.next run

/-- The offset of a register of slice `i` selects that register. -/
theorem sliceReg_slOff {s : State} {d i off : Nat} (loading : s.slgLoading d (i / 16) = false) (low : off < 0x100) (w : Who) (write eight : Bool)
    (v : Nat) (u : Upset) : sliceReg w s d (slOff i off) write eight v u = slReg w s d i off write eight v := by
  have group : slOff i off / 0x4000 = i / 16 := by unfold slOff; omega
  have inGroup : slOff i off % 0x4000 = 0x1000 + (i % 16 * 0x100 + off) := by unfold slOff; omega
  have slice : 16 * (i / 16) + (0x1000 + (i % 16 * 0x100 + off) - 0x1000) / 0x100 = i := by omega
  have reg : (0x1000 + (i % 16 * 0x100 + off)) % 0x100 = off := by omega
  have below : ¬ 0x2000 ≤ 0x1000 + (i % 16 * 0x100 + off) := by omega
  simp only [sliceReg, group, inGroup, slice, reg, loading, if_neg below, Nat.le_add_right, if_true]
  rfl

/-- An offset of the upper half of a group's part selects the window. -/
theorem sliceReg_window {s : State} {d g off : Nat} (loading : s.slgLoading d g = false) (inside : off < 0x2000) (w : Who) (write eight : Bool)
    (v : Nat) (u : Upset) : sliceReg w s d (g * 0x4000 + 0x2000 + off) write eight v u = slWindow s d g off write eight v u := by
  have group : (g * 0x4000 + 0x2000 + off) / 0x4000 = g := by omega
  have inGroup : (g * 0x4000 + 0x2000 + off) % 0x4000 = 0x2000 + off := by omega
  simp only [sliceReg, group, inGroup, loading, Nat.le_add_right, if_true, Nat.add_sub_cancel_left]
  rfl

section
variable {s : State} {w : Who} {d i off : Nat} (loading : s.slgLoading d (i / 16) = false) (low : off < 0x100)
include loading low

/-- A word written into a slice register. -/
theorem slDirect_write {t : State} {v : Nat} (h : s.reaches w (dieBase d + 0x200000 + slOff i off) true = true)
    (put : slWriteWord s d i off (v % 2 ^ 32) = some t) :
    sliceDirect w d (slOff i off) true false v .none s = .next (t.answer respOk (BitVec.ofNat 64 0)) := by
  refine sliceDirect_of_reaches h ((sliceReg_slOff loading low ..).trans ?_) (by decide)
  simp only [slReg, put, if_true]
  rfl

/-- A word that the slice register refuses. -/
theorem slDirect_refused {v : Nat} (h : s.reaches w (dieBase d + 0x200000 + slOff i off) true = true)
    (refused : slWriteWord s d i off (v % 2 ^ 32) = none) :
    sliceDirect w d (slOff i off) true false v .none s = .next (s.answer respTgtErr 0) := by
  refine sliceDirect_of_reaches h ((sliceReg_slOff loading low ..).trans ?_) (by decide)
  simp only [slReg, refused, if_true]
  rfl
end

/-! ### Starts and halts -/

/-- One change made to each slice of a list. -/
theorem State.slice_foldl_modSlice (d : Nat) (f : Slice → Slice) {is : List Nat} (nodup : is.Nodup) (s : State) (k : Nat) :
    (is.foldl (fun s i => s.modSlice d i f) s).slice d k = if k ∈ is then f (s.slice d k) else s.slice d k := by
  induction is generalizing s with
  | nil => rfl
  | cons i is ih =>
    obtain ⟨fresh, nodup⟩ := List.nodup_cons.mp nodup
    rw [List.foldl_cons, ih nodup]
    by_cases here : k = i
    · subst here
      simp [fresh]
    · simp [here, State.slice_modSlice_other]

/-- A slice after its START and HALT bits of one write, the halt first. -/
def Slice.commanded (m : Slice) (c t p : Nat) (start halt : Bool) : Slice :=
  let m := if halt then m.haltRequest else m
  if start then m.startReq c t p else m

/-- START and HALT bits reach the slices they name, the halt first, and no other. -/
theorem State.slice_slBits (s : State) (d g : Nat) {starts halts : List Nat} (hs : starts.Nodup) (hh : halts.Nodup) :
    ∃ c t p, ∀ k, (s.slBits d g starts halts).slice d k = (s.slice d k).commanded c t p (k ∈ starts) (k ∈ halts) := by
  let halted := halts.foldl (fun s i => s.modSlice d i Slice.haltRequest) s
  refine ⟨s.groupCyc d g, halted.now, halted.sclkPs, fun k => ?_⟩
  rw [State.slBits, State.slice_foldl_modSlice d _ hs, State.slice_foldl_modSlice d _ hh]
  simp only [Slice.commanded, decide_eq_true_eq]
  rfl

/-- In a group that is not frozen the bits act at once. -/
theorem slCommand_of_unfrozen {s : State} {d g : Nat} (unfrozen : (s.group d g).frozen = false) (starts halts : List Nat) :
    slCommand s d g starts halts = s.slBits d g starts halts := by
  rw [slCommand, unfrozen]
  rfl

theorem Slice.haltRequest_of_halted {m : Slice} (h : m.run = .halted) : m.haltRequest = m := by
  rw [Slice.haltRequest, h]
  rfl

theorem Slice.haltRequest_of_running {m : Slice} (h : m.run = .running) : m.haltRequest = { m with haltReq := true } := if_pos (.inl h)

theorem Slice.startReq_of_halted {m : Slice} (h : m.run = .halted) (c t p : Nat) :
    (m.startReq c t p).run = .running ∧ (m.startReq c t p).pc = m.pc := by
  rw [Slice.startReq, if_pos h]
  exact ⟨rfl, rfl⟩

theorem nodup_groupSlices (g : Nat) : (groupSlices g).Nodup :=
  List.nodup_range.map fun _ _ h => Nat.add_left_cancel h

theorem nodup_masked (g mask : Nat) : (masked g mask).Nodup := (nodup_groupSlices g).filter _

/-- A mask names the slices of the group whose bit is set. -/
theorem decide_mem_masked {g k : Nat} (mask : BitVec 16) (hk : k < 16) :
    decide (16 * g + k ∈ masked g (mask.toNat % 2 ^ 32)) = mask.getLsbD k := by
  have inGroup : 16 * g + k ∈ groupSlices g := List.mem_map.mpr ⟨k, List.mem_range.mpr hk, rfl⟩
  have index : (16 * g + k) % 16 = k := by omega
  simp only [masked, List.mem_filter, inGroup, true_and, index]
  rw [bitOf_mod_two_pow (by omega), bitOf_toNat, Bool.decide_eq_true]

/-- A write of SL_CTRL with START, HALT beside it or not, starts the halted slice. -/
theorem slWriteWord_start {s : State} {d i : Nat} (unfrozen : (s.group d (i / 16)).frozen = false) (halted : (s.slice d i).run = .halted)
    (halt : Bool) : ∃ t, slWriteWord s d i 0 ((1 + atBit halt 1) % 2 ^ 32) = some t ∧ (t.slice d i).run = .running ∧
      (t.slice d i).pc = (s.slice d i).pc ∧ ∀ k, k ≠ i → t.slice d k = s.slice d k := by
  have startBit : bitOf ((1 + atBit halt 1) % 2 ^ 32) 0 = true := by cases halt <;> rfl
  have haltBit : bitOf ((1 + atBit halt 1) % 2 ^ 32) 1 = halt := by cases halt <;> rfl
  have nodup : (if halt then [i] else []).Nodup := by split <;> simp
  refine ⟨s.slBits d (i / 16) [i] (if halt then [i] else []), ?_, ?_⟩
  · rw [slWriteWord, if_pos rfl, slCommand_of_unfrozen unfrozen, startBit, haltBit, if_pos rfl]
  · obtain ⟨c, t, p, slice⟩ := s.slice_slBits d (i / 16) (List.nodup_singleton i) nodup
    obtain ⟨run, pc⟩ := Slice.startReq_of_halted halted c t p
    have started : (s.slBits d (i / 16) [i] (if halt then [i] else [])).slice d i = (s.slice d i).startReq c t p := by
      simp [slice, Slice.commanded, Slice.haltRequest_of_halted halted]
    refine ⟨started ▸ run, started ▸ pc, fun k other => ?_⟩
    have unnamed : k ∉ if halt then [i] else [] := by split <;> simp [other]
    simp [slice, Slice.commanded, other, unnamed]

/-- A write of SL_CTRL with HALT alone asks the running slice to halt. -/
theorem slWriteWord_halt {s : State} {d i : Nat} (unfrozen : (s.group d (i / 16)).frozen = false) (running : (s.slice d i).run = .running) :
    ∃ t, slWriteWord s d i 0 (2 % 2 ^ 32) = some t ∧ t.slice d i = { s.slice d i with haltReq := true } ∧ ∀ k, k ≠ i → t.slice d k = s.slice d k := by
  refine ⟨s.slBits d (i / 16) [] [i], ?_, ?_⟩
  · rw [slWriteWord, if_pos rfl, slCommand_of_unfrozen unfrozen]
    rfl
  · obtain ⟨c, t, p, slice⟩ := s.slice_slBits d (i / 16) List.nodup_nil (List.nodup_singleton i)
    refine ⟨?_, fun k other => ?_⟩
    · simp [slice, Slice.commanded, Slice.haltRequest_of_running running]
    · simp [slice, Slice.commanded, other]

section
variable {s : State} {d g k : Nat}

/-- SLG_START, the mask of a group that is not frozen. -/
theorem sliceReg_slgStart (loading : s.slgLoading d g = false) (unfrozen : (s.group d g).frozen = false) (w : Who) (mask : BitVec 16) :
    sliceReg w s d (g * 0x4000) true false mask.toNat .none = regOk (s.slBits d g (masked g (mask.toNat % 2 ^ 32)) []) 0 := by
  rw [← slCommand_of_unfrozen unfrozen]
  simp [sliceReg, putWords, slgWriteWord, loading]

/-- SLG_HALT, the mask of a group that is not frozen. -/
theorem sliceReg_slgHalt (unfrozen : (s.group d g).frozen = false) (w : Who) (mask : BitVec 16) :
    sliceReg w s d (g * 0x4000 + 4) true false mask.toNat .none = regOk (s.slBits d g [] (masked g (mask.toNat % 2 ^ 32))) 0 := by
  have group : (g * 0x4000 + 4) / 0x4000 = g := by omega
  have inGroup : (g * 0x4000 + 4) % 0x4000 = 4 := by omega
  rw [← slCommand_of_unfrozen unfrozen]
  simp [sliceReg, putWords, slgWriteWord, group, inGroup]

/-- Of the halted slices of a group the mask starts those it names. -/
theorem run_of_startMask (hk : k < 16) (halted : (s.slice d (16 * g + k)).run = .halted) (mask : BitVec 16) :
    ((s.slBits d g (masked g (mask.toNat % 2 ^ 32)) []).slice d (16 * g + k)).run = if mask.getLsbD k then .running else .halted := by
  obtain ⟨c, t, p, slice⟩ := s.slice_slBits d g (nodup_masked g (mask.toNat % 2 ^ 32)) List.nodup_nil
  obtain ⟨run, -⟩ := Slice.startReq_of_halted halted c t p
  rw [slice, decide_mem_masked mask hk]
  cases mask.getLsbD k
  · exact halted
  · exact run

/-- Of the running slices of a group the mask asks those it names to halt. -/
theorem haltReq_of_haltMask (hk : k < 16) (running : (s.slice d (16 * g + k)).run = .running)
    (fresh : (s.slice d (16 * g + k)).haltReq = false) (mask : BitVec 16) :
    ((s.slBits d g [] (masked g (mask.toNat % 2 ^ 32))).slice d (16 * g + k)).haltReq = mask.getLsbD k := by
  obtain ⟨c, t, p, slice⟩ := s.slice_slBits d g List.nodup_nil (nodup_masked g (mask.toNat % 2 ^ 32))
  rw [slice, decide_mem_masked mask hk]
  cases mask.getLsbD k
  · exact fresh
  · exact congrArg Slice.haltReq (Slice.haltRequest_of_running running)
end

/-! ### Registers of a halted slice -/

theorem State.slHalted_of_halted {s : State} {d i : Nat} (unfrozen : (s.group d (i / 16)).frozen = false) (halted : (s.slice d i).run = .halted) :
    s.slHalted d i = true := by
  rw [State.slHalted, unfrozen, halted]
  rfl

theorem State.halted_of_slHalted {s : State} {d i : Nat} (h : s.slHalted d i = true) : (s.slice d i).run = .halted :=
  beq_iff_eq.mp (Bool.and_eq_true_iff.mp h).1

/-- SL_LOOPk_ADDR, of a halted slice. -/
theorem slWriteWord_loopAddr {s : State} {d i k : Nat} (hk : k < 3) (halted : s.slHalted d i = true) (v : Nat) :
    slWriteWord s d i (0xC0 + 8 * k) v = ((s.slice d i).writeLoopAddr k v).map fun m => s.modSlice d i fun _ => m := by
  obtain rfl | rfl | rfl : k = 0 ∨ k = 1 ∨ k = 2 := by omega
  all_goals simp [slWriteWord, Slice.writeReg, halted]

/-- SL_STACK depth, of a halted slice. -/
theorem slWriteWord_depth {s : State} {d i v : Nat} (halted : s.slHalted d i = true) (fits : v % 8 ≤ 4) :
    slWriteWord s d i 0xF8 v = some (s.modSlice d i fun _ => { s.slice d i with depth := v % 8 }) := by
  simp [slWriteWord, Slice.writeReg, halted, fits]

/-- The level a write of SL_LOOPk_ADDR with bit 31 makes. -/
def LoopLevel.opened (l : LoopLevel) (v : Nat) : LoopLevel :=
  { l with start := BitVec.ofNat 10 v, stop := BitVec.ofNat 10 (bitsOf v 16 10), isOpen := true }

/-- A write of SL_LOOPk_ADDR with bit 31 opens level k, no level below it being closed. -/
theorem Slice.writeLoopAddr_open {m : Slice} {k v : Nat} (bit : bitOf v 31 = true) (next : k ≤ openLevels m.loops) :
    m.writeLoopAddr k v = some { m with loops := tmod LoopLevel.reset m.loops k fun l => l.opened v } := by
  simp only [Slice.writeLoopAddr, bit, if_true, if_pos next]
  rfl

theorem ofNat_bitsOf_toNat {n : Nat} (x : BitVec n) (lo len : Nat) : BitVec.ofNat len (bitsOf x.toNat lo len) = x.extractLsb' lo len := by
  rw [bitsOf, ofNat_mod_two_pow (Nat.le_refl _), BitVec.extractLsb', Nat.shiftRight_eq_div_pow]

/-- A read of SL_CORR that acts clears the counts. -/
theorem slReg_corr {s : State} {w : Who} {d i : Nat} (acts : w.src ≠ 0x801 ∨ w.effect = true) :
    slReg w s d i 0x1C false false 0 =
      regOk (s.modSlice d i fun m => { m with corrX := 0, corrY := 0, corrI := 0 })
        ((s.slice d i).corrX.toNat + atLo (s.slice d i).corrY.toNat 8 + atLo (s.slice d i).corrI.toNat 16) := by
  have acts : readActs w = true := by simpa [readActs] using acts
  simp [slReg, acts, words, Slice.readReg]

/-! ### The memory window -/

/-- A word of slice memory that does not fail its check gives its data. -/
theorem State.readSl_of_good {s : State} {blank : MemWord} {t : Tab MemWord} {a : Nat} {u : Upset} {k : Nat}
    (known : u = .none ∨ u = .single ∨ u = .double) (good : ((tget blank t a).health.hit u).bad = false) :
    (s.readSl blank t a u k).1.data = (tget blank t a).data ∧ (s.readSl blank t a u k).1.bad = false := by
  have marked : (tget blank t a).health.hit u ≠ .mark := fun h => by rw [h] at good; exact Bool.noConfusion good
  obtain rfl | rfl | rfl := known
  all_goals simp [State.readSl, marked, good]

/-- A window read of a word of X memory that does not fail its check. -/
theorem slWinRead_x {s : State} {d i a : Nat} {u : Upset} (known : u = .none ∨ u = .single ∨ u = .double)
    (good : ((tget (s.slBlank d i) (s.slice d i).xmem a).health.hit u).bad = false) :
    (slWinRead s d i 0 a u).2 = ((tget (s.slBlank d i) (s.slice d i).xmem a).data.toNat % 2 ^ 24, false) := by
  obtain ⟨data, bad⟩ := State.readSl_of_good (s := s) (k := 0) known good
  simp only [slWinRead, if_true, OfNat.zero_ne_ofNat, if_false, data, bad, Bool.false_eq_true]

/-- A window write to instruction memory stores the low 40 bits with fresh check bits. -/
theorem imem_slWinWrite (s : State) (d i a v : Nat) :
    tget (s.imBlank d i) ((slWinWrite s d i 2 a v).slice d i).imem a = { data := BitVec.ofNat 40 v } := by
  rw [slWinWrite, State.slice_modSlice]
  exact tget_tput_same ..

section
variable {s : State} {d g off : Nat}

/-- A word written to X memory through the window. -/
theorem slWindow_xWrite (mem : (s.group d g).winMem = 0) (v : Nat) :
    slWindow s d g off true false v .none = regOk (slWinWrite s d (16 * g + (s.group d g).winSlice.toNat) 0 (off / 4) (v % 2 ^ 32)) 0 := by
  simp [slWindow, mem]

/-- Eight bytes written to the instruction memory of a halted slice through the window. -/
theorem slWindow_imWrite (mem : (s.group d g).winMem = 2) (halted : s.slHalted d (16 * g + (s.group d g).winSlice.toNat) = true) (v : Nat) :
    slWindow s d g off true true v .none = regOk (slWinWrite s d (16 * g + (s.group d g).winSlice.toNat) 2 (off / 8) (v % 2 ^ 40)) 0 := by
  simp [slWindow, mem, halted]

/-- A good word of X memory read through the window. -/
theorem slWindow_xRead {u : Upset} (mem : (s.group d g).winMem = 0) (known : u = .none ∨ u = .single ∨ u = .double)
    (good : ((tget (s.slBlank d (16 * g + (s.group d g).winSlice.toNat))
      (s.slice d (16 * g + (s.group d g).winSlice.toNat)).xmem (off / 4)).health.hit u).bad = false) :
    slWindow s d g off false false 0 u =
      regOk (slWinRead s d (16 * g + (s.group d g).winSlice.toNat) 0 (off / 4) u).1
        ((tget (s.slBlank d (16 * g + (s.group d g).winSlice.toNat))
          (s.slice d (16 * g + (s.group d g).winSlice.toNat)).xmem (off / 4)).data.toNat % 2 ^ 24) := by
  simp [slWindow, mem, regOk, slWinRead_x known good]
end

section
variable {s : State} {w : Who} {d g off v : Nat} {write eight : Bool} {u : Upset} (inside : off < 0x2000)
include inside

/-- A window access whose port is free is an access to the window. -/
theorem winDirect_of_free {t : State} {resp : BitVec 3} {data : BitVec 64} (loading : s.slgLoading d g = false)
    (h : s.reaches w (dieBase d + 0x200000 + (g * 0x4000 + 0x2000 + off)) write = true) (free : s.winHeld d g write = false)
    (window : slWindow s d g off write eight v u = (t, resp, data)) (allowed : resp ≠ respDenied) :
    winDirect w d g off write eight v u s = .next (t.answer resp data) := by
  rw [winDirect, free, Nat.mod_eq_of_lt inside, if_neg fun h => Bool.false_ne_true h.1]
  exact sliceDirect_of_reaches h ((sliceReg_window loading inside ..).trans window) allowed

/-- A window access whose port is in use waits. -/
theorem winDirect_of_held (h : s.reaches w (dieBase d + 0x200000 + g * 0x4000 + 0x2000 + off) write = true) (held : s.winHeld d g write = true) :
    winDirect w d g off write eight v u s = .next (s.holdWin d g off write eight v none) := by
  rw [winDirect, Nat.mod_eq_of_lt inside, if_pos ⟨held, h⟩]
end

/-- Instruction memory has no port that a cycle can hold. -/
theorem State.winHeld_of_imem {s : State} {d g : Nat} (mem : (s.group d g).winMem = 2) (write : Bool) : s.winHeld d g write = false := by
  simp only [State.winHeld, mem]
  rfl

end Sys2Proof.Machine

open Sys2Proof Sys2Proof.Machine

/-- Settles O20: the address selects the register, and the register's rule gives the answer and the change. -/
theorem sliceRegisters : Obligations.sliceRegisters := by
  unfold Obligations.sliceRegisters
  refine ⟨?slStart, ?slHalt, ?slgStart, ?slgHalt, ?pcWrite, ?pcRefused, ?loopAddr, ?stackDepth, ?corrRead, ?windowWrite, ?imemWrite, ?windowRead,
    ?heldRead⟩
  case slStart =>
    rintro s w d i halt ⟨-, h, loading, unfrozen, halted⟩
    obtain ⟨t, put, run, pc, others⟩ := slWriteWord_start unfrozen halted halt
    exact ⟨_, slDirect_write loading (by decide) h put, rfl, run, pc, others⟩
  case slHalt =>
    rintro s w d i ⟨-, h, loading, unfrozen, running⟩
    obtain ⟨t, put, slice, others⟩ := slWriteWord_halt unfrozen running
    exact ⟨_, slDirect_write loading (by decide) h put, rfl, slice, others⟩
  case slgStart =>
    rintro s w d g k mask ⟨-, hk, h, loading, unfrozen, halted⟩
    refine ⟨_, sliceDirect_of_reaches h (sliceReg_slgStart loading unfrozen w mask) (by decide), rfl, ?_⟩
    exact run_of_startMask hk halted mask
  case slgHalt =>
    rintro s w d g k mask ⟨-, hk, h, unfrozen, running, fresh⟩
    refine ⟨_, sliceDirect_of_reaches h (sliceReg_slgHalt unfrozen w mask) (by decide), rfl, ?_⟩
    exact haltReq_of_haltMask hk running fresh mask
  case pcWrite =>
    rintro s w d i data ⟨-, h, loading, unfrozen, halted⟩
    have put : slWriteWord s d i 8 (data.toNat % 2 ^ 32) = some _ := if_pos (State.slHalted_of_halted unfrozen halted)
    refine ⟨_, slDirect_write loading (by decide) h put, rfl, ?_⟩
    rw [State.slice_answer, State.slice_modSlice, ofNat_mod_two_pow (by decide)]
  case pcRefused =>
    rintro s w d i data ⟨-, h, loading, -, busy⟩
    have refused : slWriteWord s d i 8 (data.toNat % 2 ^ 32) = none := if_neg fun e => busy (State.halted_of_slHalted e)
    exact ⟨_, slDirect_refused loading (by decide) h refused, rfl, rfl⟩
  case loopAddr =>
    rintro s w d i k data ⟨-, hk, h, loading, unfrozen, halted, bit, next⟩
    have put := slWriteWord_loopAddr hk (State.slHalted_of_halted unfrozen halted) (data.toNat % 2 ^ 32)
    rw [Slice.writeLoopAddr_open ((bitOf_mod_two_pow (by decide)).trans ((bitOf_toNat data 31).trans bit)) next] at put
    refine ⟨_, (congrArg (fun k => sliceDirect w d (slOff i (0xC0 + 8 * k)) true false data.toNat .none s) (Nat.mod_eq_of_lt hk)).trans
      (slDirect_write loading (by omega) h put), rfl, ?_⟩
    simp only [State.slice_answer, State.slice_modSlice, tget_tmod_same, LoopLevel.opened, Nat.mod_eq_of_lt data.isLt, ofNat_bitsOf_toNat,
      BitVec.ofNat_toNat, and_self]
  case stackDepth =>
    rintro s w d i data ⟨-, h, loading, unfrozen, halted, fits⟩
    rw [← Nat.mod_eq_of_lt data.isLt] at fits ⊢
    refine ⟨_, slDirect_write loading (by decide) h (slWriteWord_depth (State.slHalted_of_halted unfrozen halted) fits), rfl, ?_⟩
    rw [State.slice_answer, State.slice_modSlice]
  case corrRead =>
    rintro s w d i ⟨-, h, loading, acts⟩
    refine ⟨_, sliceDirect_of_reaches h ((sliceReg_slOff loading (by decide) ..).trans (slReg_corr acts)) (by decide), rfl, ?_⟩
    rw [State.slice_answer, State.slice_modSlice]
  case windowWrite =>
    rintro s w d g off data ⟨-, inside, -, h, loading, mem, free⟩
    refine ⟨_, winDirect_of_free inside loading h free (slWindow_xWrite mem data.toNat) (by decide), rfl, ?_⟩
    refine (xmem_slWinWrite ..).trans ?_
    rw [Nat.mod_mod_of_dvd _ (by decide : 2 ^ 24 ∣ 2 ^ 32)]
  case imemWrite =>
    rintro s w d g off data ⟨-, inside, -, h, loading, mem, halted⟩
    refine ⟨_, winDirect_of_free inside loading h (State.winHeld_of_imem mem true) (slWindow_imWrite mem halted data.toNat) (by decide), rfl, ?_⟩
    refine (imem_slWinWrite ..).trans ?_
    rw [ofNat_mod_two_pow (Nat.le_refl _)]
  case windowRead =>
    rintro s w d g off u ⟨-, inside, -, h, loading, mem, free, known, good⟩
    exact ⟨_, winDirect_of_free inside loading h free (slWindow_xRead mem known good) (by decide), rfl⟩
  case heldRead =>
    rintro s w d g off u ⟨-, inside, h, held⟩
    refine ⟨_, winDirect_of_held inside h held, rfl, ?_, fun k => ?_⟩
    · simp [State.holdWin]
    · rw [State.slice, State.holdWin, State.die_modDie]
      rfl
end

section
/-! PROOFS. Arithmetic slices, part 9: the slice instruction set over one cycle, and the statements about it: fetch and stages, arithmetic,
control flow (05 R134, R145 to R151, R153 to R160). -/

open Sys2Proof
namespace Sys2Proof.Machine

/-! ### The instruction that stands in a stage -/

theorem Flight.isRow_iff (f : Flight) (lo hi : Nat) : f.isRow lo hi = true ↔ f.nop = false ∧ lo ≤ iOpc f.word ∧ iOpc f.word ≤ hi := by
  simp [Flight.isRow, and_assoc]

/-- A row of a single opcode names the opcode. -/
theorem Flight.isRow_self_iff (f : Flight) (opc : Nat) : f.isRow opc opc = true ↔ f.nop = false ∧ iOpc f.word = opc := by
  rw [Flight.isRow_iff, ← Nat.le_antisymm_iff, eq_comm (a := opc)]

/-! ### Cycles without an instruction in stage D (05 R134, 04 R118) -/

/-- A cycle with clean reads reports none that is uncorrectable. -/
theorem sliceCycle_reports_none {ci : CycleIn} {m : Slice} (clean : ci.CleanFor m) : (sliceCycle ci m).2 = [] := by
  unfold sliceCycle
  extract_lets d fetching landed badX badY badF
  have x : badX = false := clean.x
  have y : badY = false := clean.y
  have fetch : badF = false := by simp [badF, clean.fetch]
  rw [x, y, fetch]
  split
  · rename_i h; cases h
  · rw [if_neg (by simp)]
    split
    · split <;> rfl
    · split
      · exact if_neg (by simp [fetch])
      · rfl

section
variable {ci : CycleIn} {m : Slice} (clean : ci.clean = true) (run : m.run = .running) (empty : m.stD = none)
include clean run empty

/-- With stage D empty a running slice fetches, and the loop levels alone decide the next address. -/
theorem sliceCycle_of_emptyD : (sliceCycle ci m).1 =
    ((m.advanced ci).setCtl (m.ctl.fetchedAt m.pc)).setStages (m.moveOn ci (some (m.fetchFlight ci)) none) := by
  have decided : dStage m = { ctl := m.ctl } := dStage_of_plain fun f inD => by simp [empty] at inD
  rw [sliceCycle_of_fetch (.of_clean clean m) decided rfl rfl (.inl run), empty, DStage.next_of_none rfl]

/-- The fetch at the end of the innermost level goes back to its start while passes remain. -/
theorem fetch_of_loopEnd {l : LoopLevel} (noTrap : m.inTrap = false) (opened : 0 < openLevels m.loops)
    (level : tget LoopLevel.reset m.loops (openLevels m.loops - 1) = l) (ends : l.stop = m.pc) (passes : 1 < l.count.toNat) :
    (sliceCycle ci m).1.pc = l.start ∧ tget LoopLevel.reset (sliceCycle ci m).1.loops (openLevels m.loops - 1) = { l with count := l.count - 1 } := by
  have levels : openLevels m.ctl.loops = openLevels m.loops - 1 + 1 := (Nat.sub_add_cancel opened).symm
  rw [sliceCycle_of_emptyD clean run empty, ← ends, Control.fetchedAt_of_passes noTrap levels level passes]
  exact ⟨rfl, tget_tput_same ..⟩

end

/-! ### The accumulators after M2 (05 R145 to R151) -/

section
variable {ci : CycleIn} {m : Slice} {f : Flight} (inM2 : m.stM2 = some f) (row : f.nop = false)
include inM2 row

/-- An accumulator that the instruction in M2 does not write stays, where no write lands. -/
theorem acc_of_unwritten (empty : m.stWB = none) {k : Nat} (others : ∀ e ∈ (arithOf m f.word f.p0 f.p1 ci.casin).accs, e.1 ≠ k) :
    (sliceCycle ci m).1.acc k = m.acc k := by
  rw [Slice.acc, (sliceCycle_of_row inM2 row).1, tget_tputAll_other 0 _ others, Slice.land_of_empty empty, Slice.acc]

/-- An instruction that writes one accumulator leaves the exact value in it, and the others alone. -/
theorem acc_of_single {n : Nat} {v : BitVec 56} (accs : (arithOf m f.word f.p0 f.p1 ci.casin).accs = [(n, v)]) :
    (sliceCycle ci m).1.acc n = v ∧ (m.stWB = none → ∀ k, k ≠ n → (sliceCycle ci m).1.acc k = m.acc k) := by
  refine ⟨?_, fun empty k other => acc_of_unwritten inM2 row empty (by simp [accs, other.symm])⟩
  rw [Slice.acc, (sliceCycle_of_row inM2 row).1, accs, tget_tputAll_head 0 _ (by simp)]

/-- An instruction that writes two accumulators leaves both values, and the others alone. -/
theorem acc_of_pair {n n' : Nat} {v v' : BitVec 56} (ne : n' ≠ n) (accs : (arithOf m f.word f.p0 f.p1 ci.casin).accs = [(n, v), (n', v')]) :
    (sliceCycle ci m).1.acc n = v ∧ (sliceCycle ci m).1.acc n' = v' ∧
    (m.stWB = none → ∀ k, k ≠ n → k ≠ n' → (sliceCycle ci m).1.acc k = m.acc k) := by
  have a := (sliceCycle_of_row (ci := ci) inM2 row).1
  rw [accs] at a
  refine ⟨?_, ?_, fun empty k other other' => acc_of_unwritten inM2 row empty (by simp [accs, other.symm, other'.symm])⟩
  · rw [Slice.acc, a, tget_tputAll_head 0 _ (by simpa using ne)]
  · rw [Slice.acc, a]
    exact tget_tput_same ..

end

/-- A search writes its own accumulator and its partner at most (05 R151). -/
theorem searchArith_accs_within (s : Slice) (w : BitVec 40) : ∀ e ∈ (searchArith s w).accs, e.1 = iDst w % 4 ∨ e.1 = iDst w % 4 ^^^ 1 := by
  unfold searchArith
  extract_lets m n i k v isMax idx better one r r2
  have one_writes (mx : Bool) (j ii : Nat) : ∀ e ∈ (one mx j ii).1, e.1 = j := by
    unfold one
    split <;> simp
  intro e written
  rcases List.mem_append.mp written with own | partner
  · exact .inl (one_writes _ _ _ e own)
  · unfold r2 at partner
    split at partner
    · exact .inr (one_writes _ _ _ e partner)
    · simp at partner

/-- A search leaves the accumulators outside its pair alone, where no write lands. -/
theorem acc_of_search_other {ci : CycleIn} {m : Slice} {f : Flight} (inM2 : m.stM2 = some f) (row : f.nop = false) (lo : 0x50 ≤ iOpc f.word)
    (hi : iOpc f.word ≤ 0x53) (empty : m.stWB = none) (k : Nat) (own : k ≠ iDst f.word % 4) (partner : k ≠ iDst f.word % 4 ^^^ 1) :
    (sliceCycle ci m).1.acc k = m.acc k := by
  refine acc_of_unwritten inM2 row empty fun e written same => ?_
  rw [arithOf_search lo hi] at written
  rcases searchArith_accs_within m f.word e written with is | is
  · exact own (same.symm.trans is)
  · exact partner (same.symm.trans is)

end Sys2Proof.Machine

open Sys2Proof Sys2Proof.Machine

/-- Settles O15: with stage D empty the cycle fetches, every flight moves on with its word, and no read is reported. -/
theorem sliceFetchAndStages : Obligations.sliceFetchAndStages := by
  rintro ci m ⟨clean, run, empty⟩
  obtain ⟨mr, m1, m2, wb⟩ := words_moveOn m ci (some (m.fetchFlight ci)) none
  have noSlot : (dStage m).slotCtl = false := by simp [dStage, empty]
  have fetched : (m.fetchFlight ci).nop = !wordValid ci.fetch.data := by simp [Slice.fetchFlight, noSlot]
  rw [sliceCycle_of_emptyD clean run empty]
  refine ⟨?_, rfl, mr, m1, m2, wb, cycles_advanced m ci, fun _ closed => ?_, sliceCycle_reports_none (.of_clean clean m)⟩
  · exact congrArg (fun nop => some (m.pc, ci.fetch.data, nop)) fetched
  · exact congrArg Control.pc (Control.fetchedAt_of_inside (c := m.ctl) (.inr (.inl closed)))

/-- Settles O16: the arithmetic of each opcode names the accumulators it writes, and M2 writes them over what lands in the cycle. -/
theorem sliceArithmetic : Obligations.sliceArithmetic := by
  unfold Obligations.sliceArithmetic
  simp only [Flight.isRow_self_iff, Flight.isRow_iff]
  refine ⟨?clr, ?mpy, ?mac, ?msu, ?macr, ?dmacPair, ?dmacA, ?dmacD, ?add, ?sub, ?abs, ?neg, ?rnd, ?sat, ?shl, ?shr, ?max, ?min, ?maxi, ?mini⟩
  case clr => exact fun ci m f ⟨inM2, ⟨row, opc⟩, acc⟩ => acc_of_single inM2 row (arithOf_clr opc acc)
  case mpy => exact fun ci m f ⟨inM2, row, opc⟩ => acc_of_single inM2 row (congrArg Arith.accs (arithOf_mpy opc))
  case mac => exact fun ci m f ⟨inM2, row, opc⟩ => acc_of_single inM2 row (congrArg Arith.accs (arithOf_mac opc))
  case msu => exact fun ci m f ⟨inM2, row, opc⟩ => acc_of_single inM2 row (congrArg Arith.accs (arithOf_msu opc))
  case macr => exact fun ci m f ⟨inM2, row, opc⟩ => acc_of_single inM2 row (arithOf_macr opc)
  case dmacPair =>
    exact fun ci m f ⟨inM2, row, lo, hi⟩ => acc_of_pair inM2 row (xor_one_ne _) (arithOf_dmac_pair (by omega))
  case dmacA => exact fun ci m f ⟨inM2, row, opc⟩ => acc_of_single inM2 row (congrArg Arith.accs (arithOf_dmacA opc))
  case dmacD => exact fun ci m f ⟨inM2, row, opc⟩ => acc_of_single inM2 row (congrArg Arith.accs (arithOf_dmacD opc))
  case add => exact fun ci m f ⟨inM2, row, opc⟩ => acc_of_single inM2 row (congrArg Arith.accs (arithOf_add opc))
  case sub => exact fun ci m f ⟨inM2, row, opc⟩ => acc_of_single inM2 row (congrArg Arith.accs (arithOf_sub opc))
  case abs => exact fun ci m f ⟨inM2, row, opc⟩ => acc_of_single inM2 row (congrArg Arith.accs (arithOf_abs opc))
  case neg => exact fun ci m f ⟨inM2, row, opc⟩ => acc_of_single inM2 row (congrArg Arith.accs (arithOf_neg opc))
  case rnd => exact fun ci m f ⟨inM2, row, opc⟩ => acc_of_single inM2 row (congrArg Arith.accs (arithOf_rnd opc))
  case sat => exact fun ci m f ⟨inM2, row, opc⟩ => acc_of_single inM2 row (arithOf_sat opc)
  case shl => exact fun ci m f ⟨inM2, row, lo, hi⟩ => acc_of_single inM2 row (congrArg Arith.accs (arithOf_shl lo hi))
  case shr => exact fun ci m f ⟨inM2, row, lo, hi⟩ => acc_of_single inM2 row (congrArg Arith.accs (arithOf_shr lo hi))
  case max =>
    exact fun ci m f ⟨inM2, row, opc⟩ =>
      ⟨fun empty => acc_of_max inM2 row empty (.inl opc), acc_of_search_other inM2 row (by omega) (by omega)⟩
  case min =>
    exact fun ci m f ⟨inM2, row, opc⟩ =>
      ⟨fun empty => acc_of_min inM2 row empty (.inl opc), acc_of_search_other inM2 row (by omega) (by omega)⟩
  case maxi =>
    exact fun ci m f ⟨inM2, row, opc⟩ => ⟨fun empty => acc_of_max inM2 row empty (.inr opc), fun empty => ix_of_maxi inM2 row empty opc,
      acc_of_search_other inM2 row (by omega) (by omega)⟩
  case mini =>
    exact fun ci m f ⟨inM2, row, opc⟩ => ⟨fun empty => acc_of_min inM2 row empty (.inr opc), fun empty => ix_of_mini inM2 row empty opc,
      acc_of_search_other inM2 row (by omega) (by omega)⟩

/-- Settles O18: what stage D decides of each control instruction, and what the cycle makes of the decision. -/
theorem sliceControlFlow : Obligations.sliceControlFlow := by
  unfold Obligations.sliceControlFlow
  simp only [Flight.isRow_self_iff, Flight.isRow_iff]
  refine ⟨?jmp, ?jccTaken, ?jccFailed, ?call, ?callFull, ?ret, ?retEmpty, ?loopCount, ?loopReg, ?loopZero, ?loopFull, ?loopBack, ?waitqUnmet,
    ?waitqMet, ?trapret, ?halt⟩
  case jmp => exact fun ci m f ⟨clean, run, inD, row, opc⟩ => jmp_inD clean run inD row opc
  case jccTaken => exact fun ci m f ⟨clean, run, inD, ⟨row, opc⟩, cond⟩ => jcc_inD_of_true clean run inD row opc cond
  case jccFailed => exact fun ci m f ⟨clean, run, inD, ⟨row, opc⟩, cond, closed⟩ => jcc_inD_of_false clean run inD row opc cond closed
  case call => exact fun ci m f ⟨clean, run, inD, ⟨row, opc⟩, room⟩ => call_inD_of_room clean run inD row opc room
  case callFull => exact fun ci m f ⟨clean, run, inD, ⟨row, opc⟩, full⟩ => call_inD_of_full clean run inD row opc full
  case ret => exact fun ci m f ⟨clean, run, inD, ⟨row, opc⟩, held⟩ => ret_inD_of_held clean run inD row opc held
  case retEmpty => exact fun ci m f ⟨clean, run, inD, ⟨row, opc⟩, empty⟩ => ret_inD_of_empty clean run inD row opc empty
  case loopCount =>
    rintro ci m f ⟨clean, run, inD, ⟨row, opc⟩, noTrap, reach, room, other, passes⟩
    have fits : bitsOf f.word.toNat 16 16 < 2 ^ 16 := Nat.mod_lt _ (by decide)
    exact loop_opens clean run (dStage_loopCount inD row opc) noTrap reach room (by bv_omega) other
  case loopReg =>
    exact fun ci m f ⟨clean, run, inD, ⟨row, opc⟩, noTrap, reach, room, other, passes⟩ =>
      loop_opens clean run (dStage_loopReg inD row opc) noTrap reach room passes other
  case loopZero =>
    exact fun ci m f ⟨clean, run, inD, ⟨row, opc⟩, noTrap, reach, room, zero⟩ =>
      loop_skips clean run (dStage_loopCount inD row opc) noTrap reach room (by rw [zero]; rfl)
  case loopFull =>
    rintro ci m f ⟨clean, run, inD, ⟨row, lo, hi⟩, noTrap, reach, full⟩
    obtain count | reg : iOpc f.word = 0xF0 ∨ iOpc f.word = 0xF1 := by omega
    · exact loop_halts clean run (dStage_loopCount inD row count) noTrap reach full
    · exact loop_halts clean run (dStage_loopReg inD row reg) noTrap reach full
  case loopBack =>
    exact fun ci m l ⟨clean, run, empty, noTrap, opened, level, ends, passes⟩ =>
      fetch_of_loopEnd clean run empty noTrap opened level ends passes
  case waitqUnmet =>
    rintro ci m f ⟨clean, run, inD, ⟨row, opc⟩, unmet⟩
    obtain ⟨waits, pc, stD, stAG⟩ := waitq_inD_of_unmet clean run inD row opc unmet
    exact ⟨waits, pc, by rw [stD, inD, Option.map_some], stAG⟩
  case waitqMet => exact fun ci m f ⟨clean, run, inD, ⟨row, opc⟩, met⟩ => waitq_inD_of_met clean run inD row opc met
  case trapret => exact fun ci m f ⟨clean, run, inD, ⟨row, opc⟩, trap⟩ => trapret_inD_of_trap clean run inD row opc trap
  case halt => exact fun ci m f ⟨clean, run, inD, row, opc⟩ => halt_inD clean run inD row opc
end

section
/-! PROOFS. Traps, halts and streams, part 1: the memories of a slice, and a cycle whose reads may fail (04 R114, R128; 06 R166). -/

open Sys2Proof
namespace Sys2Proof.Machine

/-! ### What served accesses leave of a memory -/

/-- A memory of a slice, by the number the window gives it: X, Y, instruction memory (04 R131). -/
def Slice.memory (m : Slice) (k : Nat) : Tab MemWord := if k = 0 then m.xmem else if k = 1 then m.ymem else m.imem

/-- From s to t the groups of a die and one memory of one of its slices stay. -/
structure State.SameMemory (s t : State) (d i k : Nat) : Prop where
  groups : (t.die d).groups = (s.die d).groups
  memory : (t.slice d i).memory k = (s.slice d i).memory k

theorem State.SameMemory.of_die {s t : State} {d : Nat} (h : t.die d = s.die d) (i k : Nat) : s.SameMemory t d i k :=
  ⟨congrArg Die.groups h, congrArg (Slice.memory · k) (State.slice_of_die h i)⟩

theorem State.SameMemory.slBlank {s t : State} {d i k : Nat} (h : s.SameMemory t d i k) (j : Nat) : t.slBlank d j = s.slBlank d j := by
  rw [State.slBlank, State.group, h.groups, State.slBlank, State.group]

theorem State.SameMemory.imBlank {s t : State} {d i k : Nat} (h : s.SameMemory t d i k) (j : Nat) : t.imBlank d j = s.imBlank d j := by
  rw [State.imBlank, State.group, h.groups, State.imBlank, State.group]

theorem State.SameMemory.trans {s t u : State} {d i k : Nat} (h : s.SameMemory t d i k) (h' : t.SameMemory u d i k) : s.SameMemory u d i k :=
  ⟨h'.groups.trans h.groups, h'.memory.trans h.memory⟩

theorem State.SameMemory.modSlice (s : State) (d : Nat) {i j k : Nat} {f : Slice → Slice} (hf : j = i → ∀ m, (f m).memory k = m.memory k) :
    s.SameMemory (s.modSlice d j f) d i k := by
  refine ⟨by rw [State.modSlice, State.die_modDie], ?_⟩
  by_cases h : i = j
  · subst h; rw [State.slice_modSlice, hf rfl]
  · rw [State.slice_modSlice_other _ _ (.inr h)]

section
variable (s : State) (d : Nat) {i j k : Nat} {y : Bool} (other : j = i → k ≠ bnat y)
include other

theorem slWinWrite_sameMemory (a v : Nat) : s.SameMemory (slWinWrite s d j (bnat y) a v) d i k := by
  refine State.SameMemory.modSlice s d fun here m => ?_
  cases y with
  | false => simp [Slice.memory, bnat, show k ≠ 0 from other here]
  | true => simp [Slice.memory, bnat, show k ≠ 1 from other here]

theorem slWinRead_sameMemory (a : Nat) (u : Upset) : s.SameMemory (slWinRead s d j (bnat y) a u).1 d i k := by
  unfold slWinRead
  extract_lets m blank t r s1 bits val s2
  have read : s.SameMemory s1 d i k := by
    refine State.SameMemory.modSlice s d fun here m => ?_
    cases y with
    | false => simp [Slice.memory, Slice.countCorr, bnat, show k ≠ 0 from other here]
    | true => simp [Slice.memory, Slice.countCorr, bnat, show k ≠ 1 from other here]
  refine read.trans (.of_die ?_ i k)
  dsimp only
  split
  · exact State.die_raiseSliceUe ..
  · rfl

end

theorem State.serveWin_sameMemory (s : State) (d : Nat) {i k : Nat} (e : WinAcc) (other : e.slice = i → k ≠ bnat e.y) :
    s.SameMemory (s.serveWin d e) d i k := by
  unfold State.serveWin
  extract_lets mem done
  have answered (s : State) (resp : BitVec 3) (v : Nat) : s.SameMemory (done s resp v) d i k := by
    refine .of_die ?_ i k
    unfold done
    split
    · exact State.die_respond ..
    · rfl
  split
  · refine State.SameMemory.trans ?_ (answered _ _ _)
    split
    · exact (slWinWrite_sameMemory s d other _ _).trans (slWinWrite_sameMemory _ d other _ _)
    · exact slWinWrite_sameMemory s d other _ _
  · split
    · exact ((slWinRead_sameMemory s d other _ _).trans (slWinRead_sameMemory _ d other _ _)).trans (answered _ _ _)
    · exact (slWinRead_sameMemory s d other _ _).trans (answered _ _ _)

/-- Served accesses leave a memory of a slice alone that none of them is to. -/
theorem State.serveWins_sameMemory (s : State) (d : Nat) {i k : Nat} {which : WinAcc → Bool}
    (other : ∀ e, which e = true → e.slice = i → k ≠ bnat e.y) : s.SameMemory (s.serveWins d which) d i k := by
  have served (es : List WinAcc) (among : ∀ e ∈ es, which e = true) (t : State) :
      t.SameMemory (es.foldl (fun (s : State) e => s.serveWin d e) t) d i k := by
    induction es generalizing t with
    | nil => exact .of_die rfl i k
    | cons e es ih =>
      exact (State.serveWin_sameMemory t d e (other e (among e List.mem_cons_self))).trans
        (ih (fun e he => among e (List.mem_cons_of_mem _ he)) _)
  refine State.SameMemory.trans ?_ (served _ (fun e he => (List.mem_filter.mp he).2) _)
  exact ⟨by rw [State.die_modDie], by rw [State.slice, State.die_modDie, State.slice]⟩

/-! ### A cycle whose reads may fail, in the package -/

/-- A second wrong bit makes any word uncorrectable whose contents are defined (04 R114). -/
theorem State.readSl_bad_of_double {s : State} {blank : MemWord} {t : Tab MemWord} {a k : Nat} (defined : (tget blank t a).health ≠ .mark) :
    (s.readSl blank t a .double k).1.bad = true := by
  have hit : (tget blank t a).health.hit .double = .double := by
    cases h : (tget blank t a).health with
    | mark => exact absurd h defined
    | good => rfl
    | single => rfl
    | double => rfl
  simp [State.readSl, hit, Health.bad]

/-- The words that the cycle of slice i reads under the disturbances `u`: a double upset makes the word at PC, or the X word the instruction in MR
    reads, uncorrectable where its contents are defined. -/
structure State.UpsetReads (s : State) (d i : Nat) (u : SliceUpset) (ci : CycleIn) : Prop where
  fetch : u.instr = .double → (tget (s.imBlank d i) (s.slice d i).imem (s.slice d i).pc.toNat).health ≠ .mark → ci.fetch.bad = true
  x : u.x = .double → (s.slice d i).readsX = true →
    (tget (s.slBlank d i) (s.slice d i).xmem (((s.slice d i).stMR.map Flight.xa).getD 0).toNat).health ≠ .mark → ci.x.bad = true

/-- Whatever accesses are served in it and whatever its reads find, the cycle of a slice in the package is a `sliceCycle` of that slice. -/
theorem slice_slCycle_of_upset (s : State) (d i : Nat) (u : SliceUpset) :
    ∃ ci m, m.core = (s.slice d i).core ∧ s.UpsetReads d i u ci ∧
      ((slCycle s d i u).slice d i).ctl = (sliceCycle ci m).1.ctl ∧ ((slCycle s d i u).slice d i).stages = (sliceCycle ci m).1.stages ∧
      ((slCycle s d i u).slice d i).trap = (sliceCycle ci m).1.trap := by
  unfold slCycle
  extract_lets before s1 sl blank ib rf xa ya rx ry seen r cnt lag r1 out pushed s2 s3
  have slCore : sl.core = (s.slice d i).core := (State.serveWins_cores s d _).1 i
  have pc : sl.pc = (s.slice d i).pc := Slice.of_core slCore Slice.pc fun _ => rfl
  have inMR : sl.stMR = (s.slice d i).stMR := Slice.of_core slCore Slice.stMR fun _ => rfl
  have die3 : s3.die d = s2.die d := foldl_keeps (State.die · d) _ (fun _ _ => State.die_raiseSliceUe ..) r.2 s2
  have slice3 : s3.slice d i = out := (State.slice_of_die die3 i).trans (State.slice_modSlice s1 d i fun _ => out)
  have ends := ((State.serveWins_cores s3 d fun e => e.slice == i && (out.run == .halted || (e.write && !before.usesPort e.y true))).1 i).trans
    (congrArg Slice.core slice3)
  refine ⟨{ fetch := rf.1, x := rx.1, y := ry.1, casin := s1.casin d i, blank := blank }, seen, (show seen.core = sl.core from rfl).trans slCore,
    ⟨fun double defined => ?fetch, fun double reads defined => ?x⟩, ?ctl, ?stages, ?trap⟩
  case fetch =>
    have served : s.SameMemory s1 d i 2 := State.serveWins_sameMemory s d fun e _ _ => by cases e.y <;> decide
    have imem : sl.imem = (s.slice d i).imem := served.memory
    refine (congrArg (fun x => (s1.readSl ib sl.imem sl.pc.toNat x 0).1.bad) double).trans (State.readSl_bad_of_double ?_)
    rwa [show ib = s.imBlank d i from served.imBlank i, imem, pc]
  case x =>
    have served : s.SameMemory s1 d i 0 := State.serveWins_sameMemory s d fun e serves here => by
      cases y : e.y with
      | false => simp [y, before, Slice.usesPort, reads] at serves
      | true => decide
    have xmem : sl.xmem = (s.slice d i).xmem := served.memory
    refine (congrArg (fun x => (s1.readSl blank sl.xmem xa x 1).1.bad) double).trans (State.readSl_bad_of_double ?_)
    rwa [show blank = s.slBlank d i from served.slBlank i, xmem, show xa = ((sl.stMR.map Flight.xa).getD 0).toNat from rfl, inMR]
  case ctl => exact Slice.of_core ends Slice.ctl fun _ => rfl
  case stages => exact Slice.of_core ends Slice.stages fun _ => rfl
  case trap => exact Slice.of_core ends Slice.trap fun _ => rfl

end Sys2Proof.Machine
end

section
/-! PROOFS. Traps, halts and streams, part 2: the cycles that trap and the cycle that ends a drain (04 R125; 06 R166). -/

open Sys2Proof
namespace Sys2Proof.Machine

/-! ### Entering a trap -/

/-- Outside a drain and outside a handler a trap goes to its vector and is recorded. -/
theorem enterTrap_of_outside {old : Slice} (noTrap : old.inTrap = false) (t : TrapAt) (s : Slice) : enterTrap old false t s =
    { s.setCtl { t.ctl with pc := if t.cause = 1 then old.ivec else old.dvec, inTrap := true, run := .running } with trap := t.record } := by
  simp [enterTrap, noTrap]

/-- A running slice with stage D empty fetches. -/
theorem Slice.fetches_of_emptyD {m : Slice} (run : m.run = .running) (emptyD : m.stD = none) : m.fetches = true := by
  simp [Slice.fetches, run, dStage, emptyD]

section
variable {ci : CycleIn} {m : Slice} (run : m.run = .running) (noTrap : m.inTrap = false)
include run noTrap

/-- A failing fetch, with no instruction in D and none in MR. -/
theorem sliceCycle_of_badFetch (emptyD : m.stD = none) (emptyMR : m.stMR = none) (bad : ci.fetch.bad = true) :
    (sliceCycle ci m).1.ctl = { m.ctl with pc := m.ivec, inTrap := true } ∧
    (sliceCycle ci m).1.trap = TrapAt.record { ctl := m.ctl, tpc := m.pc, cause := 1, mem := 2, word := m.pc.toNat } := by
  have decided : dStage m = { ctl := m.ctl } := dStage_of_plain fun f inD => by simp [emptyD] at inD
  have fetches := Slice.fetches_of_emptyD run emptyD
  have notDraining : (m.ctl.run == .draining) = false := by simp [Slice.ctl, run]
  have ctl : { m.ctl with pc := m.ivec, inTrap := true, run := .running } = { m.ctl with pc := m.ivec, inTrap := true } := by simp [Slice.ctl, run]
  unfold sliceCycle
  simp only [decided, fetches, bad, emptyMR, Bool.and_self, Bool.false_eq_true, not_false_eq_true, and_self, if_true, if_false, notDraining]
  rw [enterTrap_of_outside noTrap, Slice.settle_of_running rfl, ← ctl]
  exact ⟨rfl, rfl⟩

/-- A failing X read of an instruction in MR that is no delay slot. -/
theorem sliceCycle_of_badX {f : Flight} (inMR : m.stMR = some f) (noSlot : f.slot = false) (reads : m.readsX = true) (bad : ci.x.bad = true) :
    (sliceCycle ci m).1.ctl = { f.before with pc := m.dvec, inTrap := true, run := .running, cause := m.cause } ∧
    (sliceCycle ci m).1.trap = TrapAt.record { ctl := f.before, tpc := f.addr, cause := 2, mem := 0, word := f.xa.toNat } ∧
    (sliceCycle ci m).1.stM1 = none := by
  have notDraining : (m.run == .draining) = false := by simp [run]
  unfold sliceCycle
  simp only [inMR, reads, bad, Bool.and_self, Bool.true_or, noSlot, Bool.false_eq_true, if_true, if_false, notDraining]
  rw [enterTrap_of_outside noTrap, Slice.settle_of_running rfl]
  exact ⟨rfl, rfl, rfl⟩

end

/-! ### The end of a drain -/

@[simp] theorem pendingStart_outPush (s : Slice) (i : Bool) (v : BitVec 24) : (s.outPush i v).pendingStart = s.pendingStart := by
  unfold Slice.outPush
  dsimp only
  split <;> split <;> rfl

theorem pendingStart_land (s : Slice) (blank : MemWord) (ws : List WbWrite) : (s.land blank ws).pendingStart = s.pendingStart := by
  refine foldl_keeps Slice.pendingStart _ (fun s w => ?_) ws s
  simp only [Slice.landOne, apply_ite Slice.pendingStart, pendingStart_outPush, Slice.setD, Slice.setA, Slice.setPtr, Slice.setIx, ite_self]

/-- A draining slice with nothing left is HALTED, or RUNNING where a start is held (04 R125, R126). -/
theorem Slice.settle_of_drained {s : Slice} (drains : s.run = .draining) (empty : s.stages = ⟨none, none, none, none, none, none⟩) :
    s.settle.run = (if s.pendingStart then .running else .halted) ∧ s.settle.cause = s.cause := by
  obtain ⟨d, ag, mr, m1, m2, wb⟩ := Stages.mk.inj empty
  unfold Slice.settle
  rw [if_pos ⟨drains, d, ag, mr, m1, m2, wb⟩]
  split <;> exact ⟨rfl, rfl⟩

/-- The cycle of a draining slice in which the last instruction leaves WB. -/
theorem sliceCycle_of_drained (ci : CycleIn) {m : Slice} (drains : m.run = .draining) (emptyD : m.stD = none) (emptyAG : m.stAG = none)
    (emptyMR : m.stMR = none) (emptyM1 : m.stM1 = none) (emptyM2 : m.stM2 = none) :
    (sliceCycle ci m).1.run = (if m.pendingStart then .running else .halted) ∧ (sliceCycle ci m).1.stWB = none ∧
    (sliceCycle ci m).1.cause = m.cause := by
  have decided : dStage m = { ctl := m.ctl } := dStage_of_plain fun f inD => by simp [emptyD] at inD
  have noFetch : m.fetches = false := by simp [Slice.fetches, drains]
  have cycle : (sliceCycle ci m).1 =
      (((m.accumulated ci).setCtl { m.ctl with run := .draining, cause := m.cause }).setStages ⟨none, none, none, none, none, none⟩).settle := by
    unfold sliceCycle Slice.accumulated
    simp only [decided, noFetch, emptyD, emptyAG, emptyMR, emptyM1, emptyM2, Bool.false_and, Bool.false_eq_true, false_and, not_false_eq_true,
      true_or, if_true, if_false, drains, Option.map_none, Option.getD_none]
    rfl
  have held : (m.accumulated ci).pendingStart = m.pendingStart := by
    unfold Slice.accumulated
    rw [emptyM2]
    exact pendingStart_land ..
  obtain ⟨run, cause⟩ := Slice.settle_of_drained
    (s := ((m.accumulated ci).setCtl { m.ctl with run := .draining, cause := m.cause }).setStages ⟨none, none, none, none, none, none⟩) rfl rfl
  rw [cycle]
  refine ⟨run.trans ?_, Slice.stWB_settle _, cause⟩
  rw [← held]
  rfl

end Sys2Proof.Machine
end

section
/-! PROOFS. Traps, halts and streams, part 3: the commands, and the statement about them (04 R120, R125; 06 R165 to R169). -/

open Sys2Proof
namespace Sys2Proof.Machine

/-! ### Traps and the end of a drain -/

theorem Slice.fields_of_ctl {m : Slice} {c : Control} (ctl : m.ctl = c) :
    m.pc = c.pc ∧ m.inTrap = c.inTrap ∧ m.run = c.run ∧ m.cause = c.cause := by
  subst ctl
  exact ⟨rfl, rfl, rfl, rfl⟩

theorem Slice.fields_of_stages {m : Slice} {g : Stages} (stages : m.stages = g) : m.stM1 = g.m1 ∧ m.stWB = g.wb := by
  subst stages
  exact ⟨rfl, rfl⟩

section
variable {s : State} {d i : Nat} {u : SliceUpset}

/-- A fetch that two wrong bits make uncorrectable goes to IVEC. -/
theorem slCycle_of_badFetch (run : (s.slice d i).run = .running) (noTrap : (s.slice d i).inTrap = false) (emptyD : (s.slice d i).stD = none)
    (emptyMR : (s.slice d i).stMR = none) (double : u.instr = .double)
    (defined : (tget (s.imBlank d i) (s.slice d i).imem (s.slice d i).pc.toNat).health ≠ .mark) :
    ((slCycle s d i u).slice d i).ctl = { (s.slice d i).ctl with pc := (s.slice d i).ivec, inTrap := true } ∧
    ((slCycle s d i u).slice d i).trap =
      TrapAt.record { ctl := (s.slice d i).ctl, tpc := (s.slice d i).pc, cause := 1, mem := 2, word := (s.slice d i).pc.toNat } := by
  obtain ⟨ci, m, core, reads, ctl, -, trap⟩ := slice_slCycle_of_upset s d i u
  obtain ⟨goes, record⟩ := sliceCycle_of_badFetch (m := m) ((congrArg Slice.run core).trans run) ((congrArg Slice.inTrap core).trans noTrap)
    ((congrArg Slice.stD core).trans emptyD) ((congrArg Slice.stMR core).trans emptyMR) (reads.fetch double defined)
  have sameCtl := Slice.of_core core Slice.ctl fun _ => rfl
  have samePc := Slice.of_core core Slice.pc fun _ => rfl
  have sameIvec := Slice.of_core core Slice.ivec fun _ => rfl
  rw [ctl, goes, trap, record, sameCtl, samePc, sameIvec]
  exact ⟨rfl, rfl⟩

/-- An X read that two wrong bits make uncorrectable goes to DVEC. -/
theorem slCycle_of_badX {f : Flight} (run : (s.slice d i).run = .running) (noTrap : (s.slice d i).inTrap = false)
    (inMR : (s.slice d i).stMR = some f) (noSlot : f.slot = false) (readsX : (s.slice d i).readsX = true) (double : u.x = .double)
    (defined : (tget (s.slBlank d i) (s.slice d i).xmem f.xa.toNat).health ≠ .mark) :
    ((slCycle s d i u).slice d i).ctl =
      { f.before with pc := (s.slice d i).dvec, inTrap := true, run := .running, cause := (s.slice d i).cause } ∧
    ((slCycle s d i u).slice d i).trap = TrapAt.record { ctl := f.before, tpc := f.addr, cause := 2, mem := 0, word := f.xa.toNat } ∧
    ((slCycle s d i u).slice d i).stM1 = none := by
  obtain ⟨ci, m, core, reads, ctl, stages, trap⟩ := slice_slCycle_of_upset s d i u
  obtain ⟨goes, record, emptyM1⟩ := sliceCycle_of_badX (m := m) ((congrArg Slice.run core).trans run) ((congrArg Slice.inTrap core).trans noTrap)
    ((congrArg Slice.stMR core).trans inMR) noSlot ((congrArg Slice.readsX core).trans readsX) (reads.x double readsX (by rwa [inMR]))
  have sameDvec := Slice.of_core core Slice.dvec fun _ => rfl
  have sameCause := Slice.of_core core Slice.cause fun _ => rfl
  rw [ctl, goes, trap, record, sameDvec, sameCause]
  exact ⟨rfl, rfl, (Slice.fields_of_stages stages).1.trans emptyM1⟩

/-- The cycle of a draining slice that has nothing left but the instruction in WB. -/
theorem slCycle_of_drained (drains : (s.slice d i).run = .draining) (emptyD : (s.slice d i).stD = none) (emptyAG : (s.slice d i).stAG = none)
    (emptyMR : (s.slice d i).stMR = none) (emptyM1 : (s.slice d i).stM1 = none) (emptyM2 : (s.slice d i).stM2 = none) :
    ((slCycle s d i u).slice d i).run = (if (s.slice d i).pendingStart then .running else .halted) ∧
    ((slCycle s d i u).slice d i).stWB = none ∧ ((slCycle s d i u).slice d i).cause = (s.slice d i).cause := by
  obtain ⟨ci, m, core, -, ctl, stages, -⟩ := slice_slCycle_of_upset s d i u
  obtain ⟨run, stWB, cause⟩ := sliceCycle_of_drained ci (m := m) ((congrArg Slice.run core).trans drains) ((congrArg Slice.stD core).trans emptyD)
    ((congrArg Slice.stAG core).trans emptyAG) ((congrArg Slice.stMR core).trans emptyMR)
    ((congrArg Slice.stM1 core).trans emptyM1) ((congrArg Slice.stM2 core).trans emptyM2)
  have sameStart := Slice.of_core core Slice.pendingStart fun _ => rfl
  have sameCause := Slice.of_core core Slice.cause fun _ => rfl
  rw [sameStart] at run
  rw [sameCause] at cause
  obtain ⟨-, -, runs, causes⟩ := Slice.fields_of_ctl ctl
  exact ⟨runs.trans run, (Slice.fields_of_stages stages).2.trans stWB, causes.trans cause⟩

end

theorem Slice.readsX_of_inMR {m : Slice} {f : Flight} (inMR : m.stMR = some f) (row : f.nop = false) (moves : hasMoves f.word = true)
    (loads : mvLoads (iX f.word) = true) : m.readsX = true := by
  simp [Slice.readsX, inMR, row, moves, loads]

theorem exec_sliceInstructionTrap {s : State} {d i : Nat} (ready : s.slReady d i = true) (fetches : (s.slice d i).fetches = true) :
    exec (.sliceInstructionTrap d i) s = .next (slCycle s d i { noUpset with instr := .double }) :=
  congrArg Host.Outcome.next (if_pos ⟨ready, fetches⟩)

theorem exec_sliceDataTrap_x {s : State} {d i : Nat} (ready : s.slReady d i = true) (reads : (s.slice d i).readsX = true) :
    exec (.sliceDataTrap d i true false) s = .next (slCycle s d i { noUpset with x := .double }) :=
  congrArg Host.Outcome.next (if_pos ⟨ready, .inl ⟨rfl, reads⟩⟩)

theorem exec_sliceDrainEnd {s : State} {d i : Nat} (ready : s.slReady d i = true) (drains : (s.slice d i).run = .draining) :
    exec (.sliceDrainEnd d i) s = .next (slCycle s d i noUpset) :=
  congrArg Host.Outcome.next (if_pos ⟨ready, drains⟩)

/-! ### The halt request (04 R125) -/

theorem Slice.takeHalt_of_running {m : Slice} (run : m.run = .running) : m.takeHalt = { m with run := .draining, cause := 2, haltReq := false } :=
  if_neg (by simp [run])

/-- A WAITQ that waits is abandoned: its slice is back where it was to fetch it. -/
theorem Slice.takeHalt_of_waiting {m : Slice} {f : Flight} (run : m.run = .waiting) (inD : m.stD = some f) :
    m.takeHalt = { m.setCtl { f.before with run := .draining, cause := 2 } with stD := none, haltReq := false } := by
  rw [Slice.takeHalt, if_pos run, inD]
  rfl

/-- SLICE_HALT_TAKEN of a clocked slice at a boundary that takes the request. -/
theorem exec_sliceHaltTaken {s : State} {d i : Nat} (inDie : i < 2048) (clocked : s.grpClocked d (i / 16) = true)
    (takes : (s.slice d i).mustHalt = true) : exec (.sliceHaltTaken d i) s = .next (s.modSlice d i Slice.takeHalt) :=
  congrArg Host.Outcome.next (if_pos ⟨inDie, clocked, takes⟩)

/-! ### Streams, the fabric side (04 R120) -/

@[simp] theorem State.slice_modGroup (s : State) (d g : Nat) (f : Group → Group) (i : Nat) : (s.modGroup d g f).slice d i = s.slice d i := by
  rw [State.slice, State.modGroup, State.die_modDie, State.slice]

@[simp] theorem State.group_modSlice (s : State) (d i : Nat) (f : Slice → Slice) (g : Nat) : (s.modSlice d i f).group d g = s.group d g := by
  rw [State.group, State.modSlice, State.die_modDie, State.group]

/-- The SCLK edges that a word handed over now crosses in: those of the words already taken on this edge of the group's stream clock. -/
def State.streamLag (s : State) (d g : Nat) (late : Bool) : Nat := match (s.group d g).inEdge with
  | some (t, l) => if t = s.now then l else if late then 3 else 2
  | none => if late then 3 else 2

section
variable {s : State} {d g : Nat} {late : Bool}

theorem State.streamLag_of_first (first : (s.group d g).inEdge.map Prod.fst ≠ some s.now) : s.streamLag d g late = if late then 3 else 2 := by
  unfold State.streamLag
  cases edge : (s.group d g).inEdge with
  | none => rfl
  | some e => exact if_neg fun same => first (by rw [edge, ← same]; rfl)

theorem State.streamLag_of_same {l : Nat} (same : (s.group d g).inEdge = some (s.now, l)) : s.streamLag d g late = l := by
  unfold State.streamLag
  rw [same]
  exact if_pos rfl

end

/-- A word as the fabric hands it to slice i (04 R120). -/
def State.streamWord (s : State) (d i : Nat) (data : BitVec 24) (lag : Nat) : StreamWord :=
  { data := data, seenAt := s.groupCyc d (i / 16) + lag, lag := lag, putAt := s.now }

/-- A slice with a word behind those of an input queue. -/
def Slice.inPut (m : Slice) (q : Bool) (e : StreamWord) : Slice :=
  if q then { m with is1 := m.is1 ++ [e] } else { m with is0 := m.is0 ++ [e] }

/-- A word is handed to an input queue with space. -/
theorem streamIn_completes {s : State} {d i : Nat} {q : Bool} (data : BitVec 24) {late : Bool} (edge : s.streamEdge d i = true)
    (space : (if q then (s.slice d i).is1 else (s.slice d i).is0).length < 4) {lag : Nat} (lagIs : s.streamLag d (i / 16) late = lag) :
    ∃ t, exec (.sliceStreamIn d i q data late) s = .next t ∧ t.slice d i = (s.slice d i).inPut q (s.streamWord d i data lag) ∧
      (t.group d (i / 16)).inEdge = some (s.now, lag) ∧ ∀ k, k ≠ i → t.slice d k = s.slice d k := by
  subst lagIs
  refine ⟨_, congrArg Host.Outcome.next (if_pos ⟨edge, space⟩), ?_, ?_, fun k other => ?_⟩
  · rw [State.slice_modSlice, State.slice_modGroup]
    rfl
  · rw [State.group_modSlice, State.group_modGroup]
    rfl
  · rw [State.slice_modSlice_other _ _ (.inr other), State.slice_modGroup]

section
variable {s : State} {d i : Nat} {q : Bool} {e : StreamWord} {rest : List StreamWord}
  (oldest : (if q then (s.slice d i).os1 else (s.slice d i).os0) = e :: rest)
include oldest

/-- The fabric pops the oldest word of an output queue once it is presented. -/
theorem streamOutPop_of_presented (edge : s.streamEdge d i = true) (clock : s.sclkRuns d = true)
    (presented : e.seenAt ≤ s.fclkEdges d (s.group d (i / 16)).streamClk.toNat) :
    ∃ t, exec (.sliceStreamOutPop d i q) s = .next t ∧
      t.slice d i = (if q then { s.slice d i with os1 := rest } else { s.slice d i with os0 := rest }) ∧
      ∀ k, k ≠ i → t.slice d k = s.slice d k := by
  refine ⟨_, congrArg Host.Outcome.next (if_pos ⟨edge, clock, by simp [oldest, presented]⟩), ?_,
    fun k other => State.slice_modSlice_other _ _ (.inr other)⟩
  rw [State.slice_modSlice]
  cases q with
  | false => rw [show (s.slice d i).os0 = e :: rest from oldest]; rfl
  | true => rw [show (s.slice d i).os1 = e :: rest from oldest]; rfl

/-- Before that the pop changes nothing. -/
theorem exec_sliceStreamOutPop_of_unpresented (crosses : s.fclkEdges d (s.group d (i / 16)).streamClk.toNat < e.seenAt) :
    exec (.sliceStreamOutPop d i q) s = .next s :=
  congrArg Host.Outcome.next (if_neg fun ⟨_, _, valid⟩ => by simp [oldest, Nat.not_le.mpr crosses] at valid)

end

end Sys2Proof.Machine

open Sys2Proof Sys2Proof.Machine

/-- Settles O19: whatever its reads find, a cycle in the package is a `sliceCycle` of the slice, so a trap and the end of a drain are what
    that makes of the control state; halts and streams change their own slice alone. -/
theorem sliceTrapsAndHalts : Obligations.sliceTrapsAndHalts := by
  unfold Obligations.sliceTrapsAndHalts
  refine ⟨?fetchTrap, ?dataTrap, ?haltTaken, ?waitqAbandoned, ?drainEnd, ?wordIn0, ?wordIn1, ?wordInSameEdge, ?presented, ?unpresented⟩
  case fetchTrap =>
    rintro s d i ⟨ready, run, emptyD, emptyMR, noTrap, defined⟩
    obtain ⟨ctl, trap⟩ := slCycle_of_badFetch (u := { noUpset with instr := .double }) run noTrap emptyD emptyMR rfl defined
    obtain ⟨pc, inTrap, runs, -⟩ := Slice.fields_of_ctl ctl
    exact ⟨_, exec_sliceInstructionTrap ready (Slice.fetches_of_emptyD run emptyD), pc, inTrap, runs.trans run, trap⟩
  case dataTrap =>
    rintro s d i f ⟨ready, run, inMR, row, noSlot, moves, loads, noTrap, defined⟩
    have readsX := Slice.readsX_of_inMR inMR row moves loads
    obtain ⟨ctl, trap, emptyM1⟩ := slCycle_of_badX (u := { noUpset with x := .double }) run noTrap inMR noSlot readsX rfl defined
    obtain ⟨pc, inTrap, runs, -⟩ := Slice.fields_of_ctl ctl
    exact ⟨_, exec_sliceDataTrap_x ready readsX, pc, inTrap, runs, trap, emptyM1⟩
  case haltTaken =>
    rintro s d i ⟨inDie, clocked, asked, run, noSlot⟩
    refine ⟨_, exec_sliceHaltTaken inDie clocked (by simp [Slice.mustHalt, asked, run, noSlot]), ?_⟩
    rw [State.slice_modSlice, Slice.takeHalt_of_running run]
  case waitqAbandoned =>
    rintro s d i f ⟨inDie, clocked, asked, run, inD⟩
    refine ⟨_, exec_sliceHaltTaken inDie clocked (by simp [Slice.mustHalt, asked, run]), ?_⟩
    rw [State.slice_modSlice, Slice.takeHalt_of_waiting run inD]
    exact ⟨rfl, rfl, rfl, rfl, rfl, rfl⟩
  case drainEnd =>
    rintro s d i ⟨ready, drains, emptyD, emptyAG, emptyMR, emptyM1, emptyM2⟩
    exact ⟨_, exec_sliceDrainEnd ready drains, slCycle_of_drained drains emptyD emptyAG emptyMR emptyM1 emptyM2⟩
  case wordIn0 =>
    exact fun s d i data late ⟨edge, space, first⟩ => streamIn_completes (q := false) data edge space (State.streamLag_of_first first)
  case wordIn1 =>
    rintro s d i data late ⟨edge, space, first⟩
    obtain ⟨t, next, here, -, others⟩ := streamIn_completes (q := true) data edge space (State.streamLag_of_first first)
    exact ⟨t, next, here, others⟩
  case wordInSameEdge =>
    rintro s d i l data late ⟨edge, space, same⟩
    obtain ⟨t, next, here, -⟩ := streamIn_completes (q := false) data edge space (State.streamLag_of_same (late := late) same)
    exact ⟨t, next, here⟩
  case presented =>
    exact fun s d i q e rest ⟨edge, clock, oldest, presented⟩ => streamOutPop_of_presented oldest edge clock presented
  case unpresented =>
    exact fun s d i q e rest ⟨oldest, crosses⟩ => ⟨s, exec_sliceStreamOutPop_of_unpresented oldest crosses, rfl⟩
end

section
/-! PROOFS. Admission and deadlines, part 1: what the bounds computed again and the flows decided again do to one flow (08 R220, R225, R227). -/

open Sys2Proof
namespace Sys2Proof.Machine

/-! ### Entries of tables -/

/-- The table lists no entry of a key. -/
def lacksEntry {V : Type} (t : Tab V) (i : Nat) : Prop := ∀ e ∈ t, e.1 ≠ i

theorem tget_of_lacksEntry {V : Type} (d : V) {t : Tab V} {i : Nat} (h : lacksEntry t i) : tget d t i = d := by
  induction t with
  | nil => rfl
  | cons e t ih => rw [tget_cons, if_neg (h e (.head t)), ih fun a ha => h a (.tail e ha)]

theorem mem_tins {V : Type} {t : Tab V} {j : Nat} {v : V} {e : Nat × V} (h : e ∈ tins t j v) : e ∈ t ∨ e.1 = j := by
  induction t with
  | nil => exact .inr (by rw [List.mem_singleton.mp h])
  | cons a t ih =>
    unfold tins at h
    split at h
    · exact (List.mem_cons.mp h).elim (fun new => .inr (by rw [new])) .inl
    · split at h
      · exact (List.mem_cons.mp h).elim (fun new => .inr (by rw [new])) fun old => .inl (.tail _ old)
      · exact (List.mem_cons.mp h).elim (fun head => .inl (head ▸ .head t)) fun tail => (ih tail).imp_left (.tail _)

theorem mem_tput {V : Type} [DecidableEq V] {d : V} {t : Tab V} {j : Nat} {v : V} {e : Nat × V} (h : e ∈ tput d t j v) : e ∈ t ∨ e.1 = j := by
  unfold tput at h
  split at h
  · exact .inl (List.mem_filter.mp h).1
  · exact mem_tins h

theorem lacksEntry_tput {V : Type} [DecidableEq V] {d : V} {t : Tab V} {i j : Nat} (v : V) (h : lacksEntry t i) (other : j ≠ i) :
    lacksEntry (tput d t j v) i := fun e he => (mem_tput he).elim (h e) fun new => new.trans_ne other

/-- A key that takes the default is no longer listed, whatever the table. -/
theorem lacksEntry_tput_default {V : Type} [DecidableEq V] (d : V) (t : Tab V) (i : Nat) : lacksEntry (tput d t i d) i := by
  intro e he
  rw [tput, if_pos rfl] at he
  simpa using (List.mem_filter.mp he).2

theorem le_of_mem_tabFrom {V : Type} {d : V} {b : Nat} {t : Tab V} (wf : tabFrom d b t) {e : Nat × V} (h : e ∈ t) : b ≤ e.1 := by
  induction t generalizing b with
  | nil => cases h
  | cons a t ih =>
    obtain ⟨low, -, rest⟩ := wf
    cases h with
    | head => exact low
    | tail _ h => exact Nat.le_trans (Nat.le_succ_of_le low) (ih rest h)

/-- In a canonical table every entry is what a read of its key gives. -/
theorem tget_of_mem_tabFrom {V : Type} {d : V} {b : Nat} {t : Tab V} (wf : tabFrom d b t) {e : Nat × V} (h : e ∈ t) : tget d t e.1 = e.2 := by
  induction t generalizing b with
  | nil => cases h
  | cons a t ih =>
    obtain ⟨-, -, rest⟩ := wf
    cases h with
    | head => rw [tget_cons, if_pos rfl]
    | tail _ h => rw [tget_cons, if_neg (Nat.ne_of_lt (le_of_mem_tabFrom rest h)), ih rest h]

/-! ### What leaves the flows alone -/

theorem State.flow_of_flows_eq {s t : State} (h : t.flows = s.flows) (i : Nat) : t.flow i = s.flow i := congrArg (tget Flow.reset · i) h

@[simp] theorem State.heard_flows (s : State) (m : Nat) : (s.heard m).flows = s.flows := s.heard_frame m .flows (by decide)
@[simp] theorem State.heard_routers (s : State) (m : Nat) : (s.heard m).routers = s.routers := s.heard_frame m .routers (by decide)
@[simp] theorem State.heard_now (s : State) (m : Nat) : (s.heard m).now = s.now := s.heard_frame m .now (by decide)
@[simp] theorem State.heard_flow (s : State) (m i : Nat) : (s.heard m).flow i = s.flow i := State.flow_of_flows_eq (s.heard_flows m) i

theorem State.modFlow_flows (s : State) (i : Nat) (f : Flow → Flow) : (s.modFlow i f).flows = tmod Flow.reset s.flows i f := rfl

@[simp] theorem State.programOuts_flows (s : State) (hs : List Hop) : (s.programOuts hs).flows = s.flows :=
  (State.programOuts_steps (Steps.refl [.routers] s) (by decide)).1 .flows (by decide)
@[simp] theorem State.keepPaths_flows (s : State) (hs : List Hop) : (s.keepPaths hs).flows = s.flows :=
  (State.keepPaths_steps (Steps.refl [.routers, .lanesets, .links, .dram, .clk] s) (by decide)).1 .flows (by decide)
@[simp] theorem State.logNote_flows (s : State) (e : LogEntry) : (s.logNote e).flows = s.flows :=
  (State.logNote_steps (Steps.refl [.log, .evr] s) (by decide)).1 .flows (by decide)
@[simp] theorem State.raiseHub_flows (s : State) (evid data : Nat) (note : Option LogEntry) : (s.raiseHub evid data note).flows = s.flows :=
  (State.raiseHub_steps (Steps.refl [.log, .evr] s) (by decide)).1 .flows (by decide)

/-- Real-time ports belong to the DRAM channels (08 R221). -/
theorem State.flows_of_addRtSrcs {cs : List Nat} {src : BitVec 12} {s t : State} (h : cs.foldlM (fun s c => s.addRtSrc c src) s = some t) :
    t.flows = s.flows := by
  induction cs generalizing s with
  | nil => cases h; rfl
  | cons c cs ih =>
    rw [List.foldlM_cons] at h
    obtain ⟨w, first, rest⟩ := Option.bind_eq_some_iff.mp h
    exact (ih rest).trans ((State.addRtSrc_steps (Steps.refl [.dram] s) (by decide) w first).1 .flows (by decide))

/-! ### The bounds computed again (08 R220) -/

/-- What computing a flow's bound again makes of the table of flows. -/
def State.reboundEntry (s : State) (pool : List Share) (t : Tab Flow) (e : Nat × Flow) : Tab Flow :=
  if e.2.used && !e.2.violated then
    match s.flowBound pool e.2 with
    | some b => tput Flow.reset t e.1 (s.counting { e.2 with bound := b.ceil })
    | none => t
  else t

theorem State.flows_rebound (s : State) : s.rebound.flows = s.flows.foldl (s.reboundEntry s.pool) s.flows := rfl

/-- It leaves the table, or writes the flow with another bound and what that counts. -/
theorem State.reboundEntry_eq (s : State) (pool : List Share) (t : Tab Flow) (e : Nat × Flow) :
    s.reboundEntry pool t e = t ∨ ∃ b c, s.reboundEntry pool t e = tput Flow.reset t e.1 { e.2 with bound := b, counted := c } := by
  unfold State.reboundEntry
  split
  · cases s.flowBound pool e.2 with
    | none => exact .inl rfl
    | some b => exact .inr ⟨b.ceil, _, rfl⟩
  · exact .inl rfl

/-- Computing the bounds again changes nothing of a flow but its bound and what it counts. -/
theorem State.flow_rebound {s : State} (wf : tabWf Flow.reset s.flows = true) (i : Nat) :
    ∃ b c, s.rebound.flow i = { s.flow i with bound := b, counted := c } := by
  rw [State.flow, State.flows_rebound]
  refine List.foldlRecOn (motive := fun t => ∃ b c, tget Flow.reset t i = { s.flow i with bound := b, counted := c }) _ _
    ⟨_, _, rfl⟩ fun t ht e he => ?_
  obtain same | ⟨b, c, put⟩ := s.reboundEntry_eq s.pool t e
  · rwa [same]
  rw [put]
  by_cases key : i = e.1
  · have entry : s.flow e.1 = e.2 := tget_of_mem_tabFrom ((tabWf_iff _ _).mp wf) he
    rw [key, entry, tget_tput_same]
    exact ⟨b, c, rfl⟩
  · rwa [tget_tput_other _ _ _ key]

theorem State.lacksEntry_rebound {s : State} {i : Nat} (h : lacksEntry s.flows i) : lacksEntry s.rebound.flows i := by
  rw [State.flows_rebound]
  refine List.foldlRecOn (motive := fun t => lacksEntry t i) _ _ h fun t ht e he => ?_
  obtain same | ⟨b, c, put⟩ := s.reboundEntry_eq s.pool t e
  · rwa [same]
  · rw [put]; exact lacksEntry_tput _ ht (h e he)

/-! ### Flows decided again (08 R227) -/

theorem State.lacksEntry_modFlow {s : State} {i j : Nat} (f : Flow → Flow) (h : lacksEntry s.flows i) (other : j ≠ i) :
    lacksEntry (s.modFlow j f).flows i := lacksEntry_tput _ h other

/-- Deciding a flow again lists no other. -/
theorem State.lacksEntry_decideAgain {s : State} {i j : Nat} (h : lacksEntry s.flows i) (other : j ≠ i) : lacksEntry (s.decideAgain j).flows i := by
  unfold State.decideAgain
  dsimp only
  split
  · have admitted {u : State} {f : Flow → Flow} {hs ks : List Hop} (hu : lacksEntry u.flows i) :
        lacksEntry ((((u.modFlow j f).programOuts hs).rebound).keepPaths ks).flows i := by
      rw [State.keepPaths_flows]
      refine State.lacksEntry_rebound ?_
      rw [State.programOuts_flows]
      exact State.lacksEntry_modFlow f hu other
    split
    · rw [State.logNote_flows]; exact admitted (State.lacksEntry_modFlow _ h other)
    · exact admitted (State.lacksEntry_modFlow _ h other)
  · split
    · rw [State.keepPaths_flows, State.programOuts_flows]; exact State.lacksEntry_modFlow _ h other
    · rw [State.raiseHub_flows, State.keepPaths_flows, State.programOuts_flows]; exact State.lacksEntry_modFlow _ h other

theorem State.lacksEntry_retryViolated {s : State} {i : Nat} (h : lacksEntry s.flows i) : lacksEntry s.retryViolated.flows i :=
  List.foldlRecOn (motive := fun u : State => lacksEntry u.flows i) _ _ h fun _ hu e he =>
    State.lacksEntry_decideAgain hu (h e (List.mem_filter.mp he).1)

end Sys2Proof.Machine
end

section
/-! PROOFS. Admission and deadlines, part 2: FLOW_ADMIT, FLOW_RELEASE, FLOW_QUERY and the end of a reservation (08 R211 to R214, R223 to
R226). -/

open Sys2Proof
namespace Sys2Proof.Machine

/-! ### The checks of FLOW_ADMIT before Table 8.4 (08 R211, R212) -/

/-- A range touches at least the extent it begins in. -/
theorem State.touched_eq_cons (s : State) (lo hi : Nat) : ∃ x xs, s.touched lo hi = x :: xs := by
  rw [State.touched, List.map_cons]
  exact ⟨_, _, rfl⟩

/-- A request with its fields in range, one mapped target over the whole range, no overlap and a deadline below the timeout of its port comes
    to the checks of Table 8.4. -/
theorem flowAdmitBody_of_checked {s : State} {m : Nat} {r : Request} {f : Flow} (flow : f = flowOfReq r (s.sid m)) (fields : flowFieldsOk s r = true)
    (mapped : ∀ x ∈ s.touched f.base.toNat f.last, x ≠ none ∧ x = (s.touched f.base.toNat f.last).headD none)
    (outside : f.last < 0xF00000000000 ∨ 0xF00100000000 ≤ f.base.toNat)
    (apart : (s.flows.any fun e => e.2.used && e.2.mid == f.mid && e.2.cls == f.cls && decide (e.2.base.toNat ≤ f.last) &&
      decide (f.base.toNat ≤ e.2.last)) = false)
    (early : f.cls = .req → f.deadline.toNat < s.timeoutUs f.mid * 1000) : flowAdmitBody s m r = flowAdmit s f := by
  have somewhere : ¬ (s.touched f.base.toNat f.last).all (· == none) = true := by
    obtain ⟨x, xs, extents⟩ := s.touched_eq_cons f.base.toNat f.last
    have := (mapped x (by rw [extents]; exact .head xs)).1
    simp [extents, this]
  have one : ¬ (s.touched f.base.toNat f.last).any (fun x => x == none || x != (s.touched f.base.toNat f.last).headD none) = true := by
    simp only [List.any_eq_true, Bool.or_eq_true, beq_iff_eq, bne_iff_ne, not_exists, not_and, not_or, not_not]
    exact mapped
  unfold flowAdmitBody
  dsimp only
  rw [← flow, if_neg (by simp [fields]), if_neg fun h => one h.2, if_neg (by omega), if_neg (by simp [apart]),
    if_neg fun h => Nat.not_le.mpr (early h.1) h.2, if_neg somewhere]

/-! ### The checks of Table 8.4 and the admission (08 R223 to R225) -/

/-- No deadline below the floor passes check 1 (08 R214). -/
theorem flowAdmit_of_floor {s : State} {f : Flow} (below : f.deadline.toNat < 120) :
    flowAdmit s f = (s, ⟨stRefusedDeadline, verdictBytes 0 { status := stRefusedDeadline, reason := 1 }⟩) := by
  unfold flowAdmit
  exact if_pos (by omega)

/-- The lowest free FLOW_ID is the one check 2 finds. -/
theorem State.find_freeFlow {s : State} {i : Nat} (one : 1 ≤ i) (last : i ≤ 1023) (unused : (s.flow i).used = false) (free : (s.flow i).freeAt = none)
    (lowest : ∀ k ∈ List.range i, k = 0 ∨ (s.flow k).used = true ∨ (s.flow k).freeAt ≠ none) :
    ((List.range 1023).map (· + 1)).find? (fun k => !(s.flow k).used && (s.flow k).freeAt == none) = some i := by
  obtain ⟨n, rfl⟩ : ∃ n, i = n + 1 := ⟨i - 1, by omega⟩
  have first : (List.range 1023).find? ((fun k => !(s.flow k).used && (s.flow k).freeAt == none) ∘ (· + 1)) = some n := by
    refine List.find?_range_eq_some.mpr ⟨by simp [unused, free], by simpa using last, fun j below => ?_⟩
    have taken := lowest (j + 1) (List.mem_range.mpr (by omega))
    simpa [imp_iff_not_or, Option.isSome_iff_ne_none] using taken
  rw [List.find?_map, first, Option.map_some]

/-- The flow that an admission enters, with its bound and its meter full. -/
def Flow.metered (f : Flow) (bound now : Nat) : Flow :=
  { f with bound := bound, meterOn := true, tokens := f.burst.toNat * 1000000000000, tokAt := now }

/-- The outputs of a flow in the table take its rates and bursts, every bound is computed again, and what is held awake is woken (08 R225). -/
def State.putInForce (s : State) (i : Nat) : State := ((s.programOuts ((s.flow i).resv.map Resv.hop)).rebound).keepPaths []

/-- Putting a flow in force changes nothing of any flow but the bound and what it counts. -/
theorem State.flow_putInForce {s : State} (wf : tabWf Flow.reset s.flows = true) (i j : Nat) :
    ∃ b c, (s.putInForce i).flow j = { s.flow j with bound := b, counted := c } := by
  have outs := State.programOuts_flows s ((s.flow i).resv.map Resv.hop)
  obtain ⟨b, c, again⟩ := State.flow_rebound (outs ▸ wf) j
  refine ⟨b, c, (State.flow_of_flows_eq (State.keepPaths_flows ..) j).trans (again.trans ?_)⟩
  rw [State.flow_of_flows_eq outs]

/-- A flow enters the table under its ID and is put in force. -/
def State.admitFlow (s : State) (i bound now : Nat) (f : Flow) : State :=
  ((s.modFlow i fun _ => s.reserve f).modFlow i fun f => f.metered bound now).putInForce i

/-- What an admitted flow is: what was asked for, its meter full. -/
theorem State.flow_admitFlow {s : State} (wf : tabWf Flow.reset s.flows = true) (i bound now : Nat) (f : Flow) :
    ∃ b c, (s.admitFlow i bound now f).flow i = { (s.reserve f).metered bound now with bound := b, counted := c } := by
  have canonical : tabWf Flow.reset ((s.modFlow i fun _ => s.reserve f).modFlow i fun f => f.metered bound now).flows = true := by
    rw [State.modFlow_flows, State.modFlow_flows]
    exact tabWf_tmod _ _ _ _ (tabWf_tmod _ _ _ _ wf)
  obtain ⟨b, c, entered⟩ := State.flow_putInForce canonical i i
  exact ⟨b, c, entered.trans (by rw [State.flow_modFlow, State.flow_modFlow])⟩

/-- A flow that meets the floor on every leg, has a free FLOW_ID, a meter slot and its real-time ports, and passes checks 4 to 7, is
    admitted under that ID. -/
theorem flowAdmit_of_passes {s v : State} {f : Flow} {i : Nat} {ls : List Leg} (legs : s.legs f = some ls) (floor : 120 ≤ f.deadline.toNat)
    (crossings : ∀ l ∈ ls, 120 + 170 * ((l.req ++ l.ret).filter fun h => h.port == 4).length ≤ f.deadline.toNat)
    (found : ((List.range 1023).map (· + 1)).find? (fun k => !(s.flow k).used && (s.flow k).freeAt == none) = some i)
    (slot : s.slotsUsed f.mid < slotsOf f.mid)
    (ports : (if f.base.toNat < 2 ^ 42 then (s.flowChans f).foldlM (fun s c => s.addRtSrc c f.mid) s else some s) = some v)
    (passes : ((v.modFlow i fun _ => v.reserve f).check4to7 i).status = stOk) :
    flowAdmit s f = (v.admitFlow i ((v.modFlow i fun _ => v.reserve f).check4to7 i).bound s.now f,
      ⟨stOk, verdictBytes i ((v.modFlow i fun _ => v.reserve f).check4to7 i)⟩) := by
  have most : 120 + 170 * (ls.map fun l => ((l.req ++ l.ret).filter fun h => h.port == 4).length).foldl max 0 ≤ f.deadline.toNat := by
    refine List.foldlRecOn (motive := fun n => 120 + 170 * n ≤ f.deadline.toNat) _ _ floor fun n hn k hk => ?_
    obtain ⟨l, hl, rfl⟩ := List.mem_map.mp hk
    have := crossings l hl
    rcases max_choice n ((l.req ++ l.ret).filter fun h => h.port == 4).length with h | h <;> rw [h] <;> assumption
  unfold flowAdmit
  simp only [legs, Option.map_some, Option.getD_some]
  rw [if_neg (Nat.not_lt.mpr most)]
  simp only [found]
  rw [if_neg (Nat.not_le.mpr slot)]
  simp only [ports]
  rw [if_neg (not_not.mpr passes)]
  rfl

/-! ### Requests (08 R213, R226) -/

/-- FLOW_ADMIT of a flow administrator is answered with what its body replies. -/
theorem exec_flowAdmit {s s2 : State} {m st : Nat} {data : List (BitVec 8)} (ask : s.asks m 0x0200 = true) (role : s.hasRole m roleF = true)
    (len : (s.req m).len = 36) (body : flowAdmitBody (s.heard m) m (s.req m) = (s2, ⟨st, data⟩)) (hst : st < 0x100) :
    ∃ t, exec (.flowAdmit m) s = .next t ∧ s.answered t m st data ∧ s2.changesOnly t [.gable, .evr] := by
  have may : cmdFlowAdmit.may (s.heard m) m (s.req m) = true := by simp [cmdFlowAdmit, role]
  have arg : cmdFlowAdmit.argOk (s.heard m) (s.req m) = true := by simp [cmdFlowAdmit, lenIs, len]
  obtain ⟨t, run, answer, frame, -⟩ := Command.serve_body ask (by decide) rfl may arg body hst
  exact ⟨t, congrArg Host.Outcome.next (run.trans (ite_self t)), answer, frame⟩

section
variable {s : State} {m i : Nat} (named : s.hasRole m roleF = true ∨ (s.flow i).owner = s.sid m) (len : (s.req m).len = 2)
  (id : (s.req m).num 0 2 = i) (one : 1 ≤ i) (last : i ≤ 1023) (used : (s.flow i).used = true)
include named len id one last used

/-- A flow in use may be named by its owner and by a flow administrator. -/
theorem flowMay_and_flowIdOk : flowMay (s.heard m) m (s.req m) = true ∧ flowIdOk (s.req m) = true := by
  refine ⟨?_, by simp [flowIdOk, lenIs, len, id, one, last]⟩
  simpa [flowMay, id, used] using named

/-- FLOW_RELEASE of a flow in use is `releaseFlow`. -/
theorem exec_flowRelease (ask : s.asks m 0x0201 = true) :
    ∃ t, exec (.flowRelease m) s = .next t ∧ s.answered t m stOk [] ∧ ((s.heard m).releaseFlow i).changesOnly t [.gable, .evr] := by
  obtain ⟨may, arg⟩ := flowMay_and_flowIdOk named len id one last used
  have body : cmdFlowRelease.body (s.heard m) m (s.req m) = ((s.heard m).releaseFlow i, okReply []) := by simp [cmdFlowRelease, id, used]
  obtain ⟨t, run, answer, frame, -⟩ := Command.serve_body ask (by decide) rfl may arg body (by decide)
  exact ⟨t, congrArg Host.Outcome.next run, answer, frame⟩

/-- FLOW_QUERY answers the state, the bound and the counts of a flow in use. -/
theorem exec_flowQuery (ask : s.asks m 0x0202 = true) :
    ∃ t, exec (.flowQuery m) s = .next t ∧
      s.answered t m stOk (leBytes 4 (bnat (s.flow i).violated) ++ leBytes 4 (s.flow i).bound ++ leBytes 8 (s.flow i).conf.toNat ++
        leBytes 4 (s.flow i).demoted.toNat) ∧ t.flows = s.flows := by
  obtain ⟨may, arg⟩ := flowMay_and_flowIdOk named len id one last used
  have body : cmdFlowQuery.body (s.heard m) m (s.req m) = (s.heard m, okReply (leBytes 4 (bnat (s.flow i).violated) ++
      leBytes 4 (s.flow i).bound ++ leBytes 8 (s.flow i).conf.toNat ++ leBytes 4 (s.flow i).demoted.toNat)) := by
    simp [cmdFlowQuery, id, used]
  obtain ⟨t, run, answer, frame, -⟩ := Command.serve_body ask (by decide) rfl may arg body (by decide)
  exact ⟨t, congrArg Host.Outcome.next run, answer, (frame .flows (by decide)).trans (s.heard_flows m)⟩

end

/-- A release stops the meter of one flow and sets when its ID is free; beyond the table of flows it touches the DRAM channels alone. -/
theorem State.releaseFlow_flows (s : State) (i : Nat) : (s.releaseFlow i).flows = (s.modFlow i fun f =>
    { f with used := false, meterOn := false, freeAt := some (s.now + f.bound * 1000) }).flows :=
  (State.dropRtSrcs_steps (Steps.refl [.dram] _) (by decide)).1 .flows (by decide)

theorem State.releaseFlow_routers (s : State) (i : Nat) : (s.releaseFlow i).routers = s.routers :=
  (State.releaseFlow_steps (Steps.refl [.flows, .dram] s) (by decide)).1 .routers (by decide)

/-! ### The end of a reservation (08 R226) -/

/-- When T has passed, the ID is free: the table no longer lists the flow, and neither the bounds computed again nor the VIOLATED flows
    decided again list it anew. -/
theorem exec_flowReservationEnd_of_passed {s : State} {i e : Nat} (free : (s.flow i).freeAt = some e) (passed : e ≤ s.now) :
    ∃ t, exec (.flowReservationEnd i) s = .next t ∧ t.flow i = Flow.reset := by
  have freed : lacksEntry (s.modFlow i fun _ => Flow.reset).flows i := by
    rw [State.modFlow_flows]
    exact lacksEntry_tput_default _ _ _
  refine ⟨_, congrArg Host.Outcome.next (by simp only [free]; exact if_pos passed), tget_of_lacksEntry _ (State.lacksEntry_retryViolated ?_)⟩
  rw [State.keepPaths_flows]
  refine State.lacksEntry_rebound ?_
  rw [State.programOuts_flows]
  exact freed

/-- Before that the reservation stays. -/
theorem exec_flowReservationEnd_of_waiting {s : State} {i e : Nat} (free : (s.flow i).freeAt = some e) (waits : s.now < e) :
    exec (.flowReservationEnd i) s = .next s :=
  congrArg Host.Outcome.next (by simp only [free]; exact if_neg (Nat.not_le.mpr waits))

end Sys2Proof.Machine

open Sys2Proof Sys2Proof.Machine

/-- Settles O24: the body of FLOW_ADMIT comes to the checks of Table 8.4, where a deadline below the floor is refused and a flow that passes all
    is admitted; it keeps what was asked for while every bound is computed again. An ID freed is listed no more, whatever is decided after it. -/
theorem flowCommands : Obligations.flowCommands := by
  unfold Obligations.flowCommands
  refine ⟨?admitted, ?belowFloor, ?released, ?queried, ?ended, ?waiting⟩
  case admitted =>
    rintro s m i f u v ls ⟨ask, -, role, len, rfl, flow, fields, mapped, outside, wf, apart, early, legs, floor, crossings, one, last, unused,
      free, lowest, slot, ports, passes⟩
    have body := (flowAdmitBody_of_checked flow fields mapped outside apart early).trans
      (flowAdmit_of_passes legs floor crossings (State.find_freeFlow one last unused free lowest) slot ports passes)
    have sameFlows : v.flows = s.flows := by
      rw [← s.heard_flows m]
      split at ports
      · exact State.flows_of_addRtSrcs ports
      · cases ports; rfl
    obtain ⟨t, run, answer, frame⟩ := exec_flowAdmit ask role len body (by decide)
    obtain ⟨b, c, admitted⟩ := State.flow_admitFlow (sameFlows ▸ wf) i _ _ f
    rw [← State.flow_of_flows_eq (frame .flows (by decide))] at admitted
    have used : f.used = true := by rw [flow]; rfl
    refine ⟨t, run, answer, ?_⟩
    rw [admitted]
    exact ⟨used, rfl, rfl, rfl, rfl⟩
  case belowFloor =>
    rintro s m f u ⟨ask, -, role, len, rfl, flow, fields, mapped, outside, apart, early, below⟩
    have body := (flowAdmitBody_of_checked flow fields mapped outside apart early).trans (flowAdmit_of_floor below)
    obtain ⟨t, run, answer, frame⟩ := exec_flowAdmit ask role len body (by decide)
    exact ⟨t, run, answer, (frame .flows (by decide)).trans (s.heard_flows m), (frame .routers (by decide)).trans (s.heard_routers m)⟩
  case released =>
    rintro s m i ⟨ask, -, named, len, id, one, last, used⟩
    obtain ⟨t, run, answer, frame⟩ := exec_flowRelease named len id one last used ask
    have flows := State.flow_of_flows_eq ((frame .flows (by decide)).trans (State.releaseFlow_flows ..))
    refine ⟨t, run, answer, ?_, fun k other => ?_, ?_⟩
    · rw [flows, State.flow_modFlow, State.heard_flow, State.heard_now]
    · rw [flows, State.flow_modFlow_other _ _ other, State.heard_flow]
    · exact (frame .routers (by decide)).trans ((State.releaseFlow_routers ..).trans (s.heard_routers m))
  case queried =>
    rintro s m i ⟨ask, -, named, len, id, one, last, used⟩
    exact exec_flowQuery named len id one last used ask
  case ended =>
    rintro s i e ⟨free, passed⟩
    obtain ⟨t, run, freed⟩ := exec_flowReservationEnd_of_passed free passed
    exact ⟨t, run, freed, (exec_lands (.flowReservationEnd i) s t run).1⟩
  case waiting =>
    exact fun s i e ⟨free, waits⟩ => ⟨s, exec_flowReservationEnd_of_waiting free waits, rfl⟩
end

section
/-! PROOFS. Lane PHY, part 1: the lanes of a set, and what wake requests, bring-up and OFF leave of the lane sets (08 R222, R227; 09 R242 to R247). -/

open Sys2Proof
namespace Sys2Proof.Machine

/-! ### Tables modified at several keys -/

/-- Modifying entries in a way that keeps a view of each keeps the view of every entry. -/
theorem tget_tmodAll_keeps {V A : Type} [DecidableEq V] (view : V → A) (d : V) {f : Nat → V → V} (keeps : ∀ n v, view (f n v) = view v)
    (ks : List Nat) (t : Tab V) (j : Nat) : view (tget d (tmodAll d t ks f) j) = view (tget d t j) := by
  refine foldl_keeps (fun t => view (tget d t j)) _ (fun t n => ?_) ks t
  by_cases h : j = n
  · subst h; rw [tget_tmod_same, keeps]
  · rw [tget_tmod_other _ _ _ h]

/-- Modifying the entries below n modifies each once. -/
theorem tget_tmodAll_range {V : Type} [DecidableEq V] (d : V) (t : Tab V) (f : Nat → V → V) (n j : Nat) :
    tget d (tmodAll d t (List.range n) f) j = if j < n then f j (tget d t j) else tget d t j := by
  induction n with
  | zero => rfl
  | succ n ih =>
    rw [tmodAll, List.range_succ, List.foldl_append, List.foldl_cons, List.foldl_nil]
    rw [tmodAll] at ih
    by_cases h : j = n
    · subst h; simp [ih]
    · rw [tget_tmod_other _ _ _ h, ih]
      simp only [show j < n ↔ j < n + 1 by omega]

/-! ### Lanes of a set -/

@[simp] theorem LaneSet.lane_modLane (x : LaneSet) (n : Nat) (f : Lane → Lane) : (x.modLane n f).lane n = f (x.lane n) := tget_tmod_same ..

theorem LaneSet.lane_modLane_other (x : LaneSet) {n m : Nat} (f : Lane → Lane) (h : m ≠ n) : (x.modLane n f).lane m = x.lane m :=
  tget_tmod_other _ _ _ h

theorem LaneSet.lane_allLanes (x : LaneSet) (k : Nat) (f : Lane → Lane) {n : Nat} (h : n < laneCount k) :
    (x.allLanes k f).lane n = f (x.lane n) := (tget_tmodAll_range ..).trans (if_pos h)

/-- What a set is apart from its table of lanes does not matter to a lane. -/
theorem LaneSet.lane_congr {x y : LaneSet} (h : y.lanes = x.lanes) (n : Nat) : y.lane n = x.lane n := congrArg (tget Lane.reset · n) h

theorem LaneSet.modLane_state (x : LaneSet) (n : Nat) (f : Lane → Lane) : (x.modLane n f).state = x.state := rfl

theorem LaneSet.modLane_faults (x : LaneSet) (n : Nat) (f : Lane → Lane) : (x.modLane n f).faults = x.faults := rfl

theorem LaneSet.allLanes_state (x : LaneSet) (k : Nat) (f : Lane → Lane) : (x.allLanes k f).state = x.state := rfl

/-- Treating every lane alike, in a way that keeps a view of a lane. -/
theorem LaneSet.allLanes_keeps {A : Type} (view : Lane → A) (x : LaneSet) (k : Nat) (f : Lane → Lane) (keeps : ∀ l, view (f l) = view l) (n : Nat) :
    view ((x.allLanes k f).lane n) = view (x.lane n) := tget_tmodAll_keeps view Lane.reset (fun _ => keeps) _ _ n

@[simp] theorem State.laneset_modLane (s : State) (k n : Nat) (f : Lane → Lane) : (s.modLane k n f).laneset k = (s.laneset k).modLane n f :=
  State.laneset_modLaneset ..

/-- A modification of one lane that keeps a view of it keeps the view of every lane. -/
theorem State.lane_modLane_keeps {A : Type} (view : Lane → A) (s : State) (k n : Nat) {f : Lane → Lane} (keeps : ∀ l, view (f l) = view l)
    (j m : Nat) : view (((s.modLane k n f).laneset j).lane m) = view ((s.laneset j).lane m) := by
  by_cases set : j = k
  · subst set
    rw [State.laneset_modLane]
    by_cases lane : m = n
    · subst lane; rw [LaneSet.lane_modLane, keeps]
    · rw [LaneSet.lane_modLane_other _ _ lane]
  · rw [State.modLane, State.laneset_modLaneset_other _ _ set]

@[simp] theorem State.link_modLane (s : State) (k n : Nat) (f : Lane → Lane) (j : Nat) : (s.modLane k n f).link j = s.link j := rfl

theorem State.laneset_of_lanesets_eq {s t : State} (h : t.lanesets = s.lanesets) (k : Nat) : t.laneset k = s.laneset k :=
  congrArg (tget LaneSet.reset · k) h

theorem State.link_of_links_eq {s t : State} (h : t.links = s.links) (k : Nat) : t.link k = s.link k :=
  congrArg (tget LinkEnd.reset · k) h

theorem Lane.flag_setFlag (l : Lane) {i : Nat} (b : Bool) (h : i < 32) : (l.setFlag i b).flag i = b := by
  have bit : (BitVec.ofNat 32 (2 ^ i)).getLsbD i = true := by rw [BitVec.getLsbD_ofNat, Nat.testBit_two_pow_self]; simpa using h
  cases b
  · rw [Lane.flag, Lane.setFlag, if_neg (by decide), BitVec.getLsbD_and, BitVec.getLsbD_not, bit]
    simp
  · rw [Lane.flag, Lane.setFlag, if_pos rfl, BitVec.getLsbD_or, bit, Bool.or_true]

/-! ### What leaves the lane sets alone -/

@[simp] theorem State.modFlow_lanesets (s : State) (i : Nat) (f : Flow → Flow) : (s.modFlow i f).lanesets = s.lanesets := rfl
@[simp] theorem State.modRouter_lanesets (s : State) (n r : Nat) (f : Router → Router) : (s.modRouter n r f).lanesets = s.lanesets := rfl
@[simp] theorem State.modLink_lanesets (s : State) (k : Nat) (f : LinkEnd → LinkEnd) : (s.modLink k f).lanesets = s.lanesets := rfl
@[simp] theorem State.programOuts_lanesets (s : State) (hs : List Hop) : (s.programOuts hs).lanesets = s.lanesets :=
  (State.programOuts_steps (Steps.refl [.routers] s) (by decide)).1 .lanesets (by decide)
@[simp] theorem State.rebound_lanesets (s : State) : s.rebound.lanesets = s.lanesets :=
  (State.rebound_steps (Steps.refl [.flows] s) (by decide)).1 .lanesets (by decide)
@[simp] theorem State.logNote_lanesets (s : State) (e : LogEntry) : (s.logNote e).lanesets = s.lanesets :=
  (State.logNote_steps (Steps.refl [.log] s) (by decide)).1 .lanesets (by decide)
@[simp] theorem State.raiseHub_lanesets (s : State) (evid data : Nat) (note : Option LogEntry) : (s.raiseHub evid data note).lanesets = s.lanesets :=
  (State.raiseHub_steps (Steps.refl [.evr] s) (by decide)).1 .lanesets (by decide)
@[simp] theorem State.laneWake_lanesets (s : State) (k : Nat) : (s.laneWake k).lanesets = s.lanesets :=
  (State.laneWake_steps (Steps.refl [.clk] s) (by decide)).1 .lanesets (by decide)
@[simp] theorem State.wakeElem_lanesets (s : State) (kind d id : Nat) : (s.wakeElem kind d id).lanesets = s.lanesets :=
  (State.wakeElem_steps (Steps.refl [.clk] s) (by decide)).1 .lanesets (by decide)
@[simp] theorem State.wakeChan_lanesets (s : State) (n : Nat) : (s.wakeChan n).lanesets = s.lanesets :=
  (State.wakeChan_steps (Steps.refl [.dram] s) (by decide)).1 .lanesets (by decide)
@[simp] theorem State.completeOpt_lanesets (s : State) (tok : Option Nat) (status : Nat) (data : List (BitVec 8)) :
    (s.completeOpt tok status data).lanesets = s.lanesets :=
  (State.completeOpt_steps (Steps.refl [.gable, .evr] s) (by decide)).1 .lanesets (by decide)
@[simp] theorem State.completeAll_lanesets (s : State) (toks : List Nat) (status : Nat) (data : List (BitVec 8)) :
    (s.completeAll toks status data).lanesets = s.lanesets :=
  (State.completeAll_steps (Steps.refl [.gable, .evr] s) (by decide)).1 .lanesets (by decide)
@[simp] theorem State.raiseLaneFault_lanesets (s : State) (k : Nat) (cause : BitVec 5) (lanes : Nat) :
    (s.raiseLaneFault k cause lanes).lanesets = s.lanesets :=
  (State.raiseLaneFault_steps (Steps.refl [.routers, .evr] s) (by decide)).1 .lanesets (by decide)
@[simp] theorem State.leaveActive_lanesets (s : State) (k : Nat) (tamper : Bool) : (s.leaveActive k tamper).lanesets = s.lanesets :=
  (State.leaveActive_steps (Steps.refl [.routers, .masters, .flows, .links, .guests, .linkKeys, .tb, .log, .evr] s) (by decide)).1 .lanesets
    (by decide)
@[simp] theorem State.heard_lanesets (s : State) (m : Nat) : (s.heard m).lanesets = s.lanesets := s.heard_frame m .lanesets (by decide)

/-! ### Wake requests (08 R222; 09 R246, R247) -/

/-- The injection of bit errors on a lane: its rate, when it last struck, and the count (09 R249). -/
def Lane.injection (l : Lane) : BitVec 5 × Nat × BitVec 32 := (l.injN, l.injAt, l.injCnt)

/-- The injection on every lane of every set. -/
def State.injection (s : State) (k n : Nat) : BitVec 5 × Nat × BitVec 32 := ((s.laneset k).lane n).injection

/-- A lane set apart from what a wake request touches: its LP marks, and of its lanes all but the injection. -/
def LaneSet.apartWake (x : LaneSet) : LaneSet × (Nat → BitVec 5 × Nat × BitVec 32) :=
  ({ x with lanes := [], txLp1 := false, rxLp1 := false, lp2Exit := none, wakeHeld := false }, fun n => (x.lane n).injection)

def State.apartWake (s : State) (k : Nat) : LaneSet × (Nat → BitVec 5 × Nat × BitVec 32) := (s.laneset k).apartWake

theorem State.apartWake_of_lanesets_eq {s t : State} (h : t.lanesets = s.lanesets) : t.apartWake = s.apartWake :=
  funext fun k => congrArg LaneSet.apartWake (State.laneset_of_lanesets_eq h k)

theorem State.apartWake_modLaneset (s : State) (k : Nat) {f : LaneSet → LaneSet} (keeps : ∀ x, (f x).apartWake = x.apartWake) :
    (s.modLaneset k f).apartWake = s.apartWake := by
  funext j
  unfold State.apartWake
  by_cases h : j = k
  · subst h; rw [State.laneset_modLaneset, keeps]
  · rw [State.laneset_modLaneset_other _ _ h]

theorem State.apartWake_wakeTx (s : State) (k : Nat) : (s.wakeTx k).apartWake = s.apartWake := by
  unfold State.wakeTx
  split
  · rw [State.apartWake_of_lanesets_eq (State.laneWake_lanesets ..), State.apartWake_of_lanesets_eq (State.modLink_lanesets ..)]
    exact s.apartWake_modLaneset k fun _ => rfl
  · rfl

theorem State.apartWake_beginLp2Exit (s : State) (k : Nat) : (s.beginLp2Exit k).apartWake = s.apartWake := by
  refine s.apartWake_modLaneset k fun x => Prod.ext rfl (funext (x.allLanes_keeps Lane.injection k _ fun _ => ?_))
  rfl

theorem State.apartWake_wakeEnd (s : State) (k : Nat) : (s.wakeEnd k).apartWake = s.apartWake := by
  unfold State.wakeEnd
  dsimp only
  split
  · exact s.apartWake_modLaneset k fun _ => rfl
  split
  · split
    · exact s.apartWake_beginLp2Exit k
    · rfl
  split
  · rw [State.apartWake_wakeTx]
    split
    · exact s.apartWake_modLaneset _ fun _ => rfl
    · rfl
  · rfl

theorem State.apartWake_wakePaths (s : State) (f : Flow) : (s.wakePaths f).apartWake = s.apartWake := by
  unfold State.wakePaths
  dsimp only
  refine (foldl_keeps State.apartWake _ (fun u c => State.apartWake_of_lanesets_eq (u.wakeChan_lanesets c)) _ _).trans ?_
  have ends (u : State) (ks : List Nat) : (ks.foldl (fun (s : State) k => s.wakeEnd k) u).apartWake = u.apartWake :=
    foldl_keeps State.apartWake _ State.apartWake_wakeEnd ks u
  have dies (u : State) (ds : List Nat) :
      (ds.foldl (fun (s : State) d => if d < s.fdies then s.wakeElem 1 d 0 else s) u).apartWake = u.apartWake := by
    refine foldl_keeps State.apartWake _ (fun v d => ?_) ds u
    split
    · exact State.apartWake_of_lanesets_eq (v.wakeElem_lanesets 1 d 0)
    · rfl
  split
  · split
    · rw [ends, dies]
    · rw [State.apartWake_of_lanesets_eq (State.wakeElem_lanesets ..), ends, dies]
  · rw [ends, dies]

theorem State.apartWake_keepPaths (s : State) (hs : List Hop) : (s.keepPaths hs).apartWake = s.apartWake := by
  unfold State.keepPaths
  dsimp only
  refine (foldl_keeps State.apartWake _ (fun u e => ?_) _ _).trans (foldl_keeps State.apartWake _ (fun u h => ?_) _ _)
  · exact u.apartWake_wakePaths e.2
  · split
    · rfl
    · exact State.apartWake_of_lanesets_eq (State.modRouter_lanesets ..)

theorem State.apartWake_decideAgain (s : State) (i : Nat) : (s.decideAgain i).apartWake = s.apartWake := by
  have kept {u : State} {f : Flow → Flow} {hs ks : List Hop} :
      ((((u.modFlow i f).programOuts hs).rebound).keepPaths ks).apartWake = u.apartWake := by
    rw [State.apartWake_keepPaths]
    exact State.apartWake_of_lanesets_eq (by simp)
  have refused {u : State} {f : Flow → Flow} {hs ks : List Hop} : (((u.modFlow i f).programOuts hs).keepPaths ks).apartWake = u.apartWake := by
    rw [State.apartWake_keepPaths]
    exact State.apartWake_of_lanesets_eq (by simp)
  unfold State.decideAgain
  dsimp only
  split
  · split
    · rw [State.apartWake_of_lanesets_eq (State.logNote_lanesets ..), kept]; rfl
    · rw [kept]; rfl
  · split
    · exact refused
    · rw [State.apartWake_of_lanesets_eq (State.raiseHub_lanesets ..), refused]

/-- Flows decided again wake the links they hold awake, and leave the rest of every lane set alone (08 R222, R227). -/
theorem State.apartWake_recheckFlows (old s : State) : (State.recheckFlows old s).apartWake = s.apartWake := by
  unfold State.recheckFlows State.retryViolated
  refine (foldl_keeps State.apartWake _ (fun u e => ?_) _ _).trans (foldl_keeps State.apartWake _ (fun u e => ?_) _ _)
  · exact u.apartWake_decideAgain e.1
  · split
    · rfl
    · exact u.apartWake_decideAgain e.1

/-- What a wake leaves of a lane set, field by field. -/
theorem LaneSet.eq_of_apartWake {x y : LaneSet} (h : y.apartWake = x.apartWake) :
    y.state = x.state ∧ y.shutting = x.shutting ∧ y.byPartner = x.byPartner ∧ y.downReason = x.downReason ∧ y.cause = x.cause ∧
      y.faults = x.faults ∧ ∀ n, (y.lane n).injection = (x.lane n).injection := by
  obtain ⟨set, lanes⟩ := Prod.ext_iff.mp h
  exact ⟨(congrArg LaneSet.state set :), (congrArg LaneSet.shutting set :), (congrArg LaneSet.byPartner set :), (congrArg LaneSet.downReason set :),
    (congrArg LaneSet.cause set :), (congrArg LaneSet.faults set :), congrFun lanes⟩

theorem State.injection_recheckFlows (old s : State) : (State.recheckFlows old s).injection = s.injection := by
  funext k
  exact congrArg Prod.snd (congrFun (State.apartWake_recheckFlows old s) k)

/-! ### Bring-up and OFF (09 R241, R244) -/

theorem State.injection_of_lanesets_eq {s t : State} (h : t.lanesets = s.lanesets) : t.injection = s.injection :=
  funext fun k => funext fun n => congrArg (fun x => (LaneSet.lane x n).injection) (State.laneset_of_lanesets_eq h k)

theorem State.injection_modLaneset (s : State) (k : Nat) {f : LaneSet → LaneSet}
    (keeps : ∀ x n, ((f x).lane n).injection = (x.lane n).injection) : (s.modLaneset k f).injection = s.injection := by
  funext j n
  unfold State.injection
  by_cases h : j = k
  · subst h; rw [State.laneset_modLaneset, keeps]
  · rw [State.laneset_modLaneset_other _ _ h]

theorem Lane.injection_fresh (l : Lane) : l.fresh.injection = l.injection := rfl

/-- Bring-up forgets of a lane neither its injection nor what the set counts. -/
theorem LaneSet.injection_allLanes_fresh (x : LaneSet) (k n : Nat) : ((x.allLanes k Lane.fresh).lane n).injection = (x.lane n).injection :=
  x.allLanes_keeps Lane.injection k _ Lane.injection_fresh n

theorem State.injection_bringUp (s : State) (k : Nat) : (s.bringUp k).injection = s.injection :=
  s.injection_modLaneset k fun x n => x.injection_allLanes_fresh k n

theorem State.injection_laneOff (s : State) (k : Nat) : (s.laneOff k).injection = s.injection := by
  unfold State.laneOff
  dsimp only
  split
  · rw [State.injection_bringUp, State.injection_of_lanesets_eq (State.completeAll_lanesets ..)]
    exact s.injection_modLaneset k fun x n => x.injection_allLanes_fresh k n
  · rw [State.injection_of_lanesets_eq (State.completeAll_lanesets ..)]
    exact s.injection_modLaneset k fun x n => x.injection_allLanes_fresh k n

/-- The state of a set whose bring-up starts is OFF; its counters stay. -/
theorem State.laneset_bringUp (s : State) (k : Nat) : ((s.bringUp k).laneset k).state = .off ∧ ((s.bringUp k).laneset k).pllWait = true ∧
    ((s.bringUp k).laneset k).since = s.now ∧ ((s.bringUp k).laneset k).cause = (s.laneset k).cause ∧
    ((s.bringUp k).laneset k).faults = (s.laneset k).faults ∧
    ((s.bringUp k).laneset k).mode = (if laneKind k = 0 then 3 else if laneKind k = 1 then 2 else (s.laneset k).mode) := by
  unfold State.bringUp
  rw [State.laneset_modLaneset]
  exact ⟨rfl, rfl, rfl, rfl, rfl, rfl⟩

/-- A set taken OFF keeps its cause and its count of faults, also where a held LANE_UP starts it again. -/
theorem State.laneset_laneOff (s : State) (k : Nat) : ((s.laneOff k).laneset k).state = .off ∧
    ((s.laneOff k).laneset k).cause = (s.laneset k).cause ∧ ((s.laneOff k).laneset k).faults = (s.laneset k).faults := by
  unfold State.laneOff
  dsimp only
  split
  · obtain ⟨state, -, -, cause, faults, -⟩ := State.laneset_bringUp (State.completeAll _ (s.laneset k).downCmds stOk []) k
    refine ⟨state, cause.trans ?_, faults.trans ?_⟩ <;>
      rw [State.laneset_of_lanesets_eq (State.completeAll_lanesets ..), State.laneset_modLaneset] <;> rfl
  · rw [State.laneset_of_lanesets_eq (State.completeAll_lanesets ..), State.laneset_modLaneset]
    exact ⟨rfl, rfl, rfl⟩

end Sys2Proof.Machine
end

section
/-! PROOFS. Lane PHY, part 2: what faults, symbol errors and injected errors leave of the lane sets (09 R242, R243, R249; 10 R266). -/

open Sys2Proof
namespace Sys2Proof.Machine

/-! ### FAULT (09 R242, R244; 15 R411) -/

/-- A set as it enters FAULT (09 R242). -/
def LaneSet.failed (x : LaneSet) (k cause now : Nat) : LaneSet :=
  { x.allLanes k Lane.fresh with
    state := .fault, cause := BitVec.ofNat 5 cause, faults := satInc x.faults, since := now, pllWait := false, shutting := false,
    byPartner := false, txLp1 := false, rxLp1 := false, lp2 := false, lp2Exit := none, lqrSent := false, wakeHeld := false, lqAnsAt := none,
    test := false, loopSel := 0, pattern := 0, tamper := decide (cause = 11), upCmd := none, downCmds := [], reversed := false }

/-- The set enters FAULT and says so; its shut-down has not ended, and the flows are not decided again. -/
def State.enterFault (s : State) (k cause : Nat) (found : List Nat) : State :=
  let u := if (s.laneset k).state = .active then s.leaveActive k (cause == 11) else s
  ((u.modLaneset k fun x => x.failed k cause u.now).raiseLaneFault k (BitVec.ofNat 5 cause) ((s.laneset k).faultLanes k found)).completeOpt
    (s.laneset k).upCmd stOk (laneResult 6 (BitVec.ofNat 5 cause))

/-- Where a set that entered FAULT comes to rest: OFF at the end of its shut-down, or where its link was encrypted (09 R244; 15 R411). -/
def State.restFault (s : State) (k cause : Nat) (found : List Nat) : State :=
  if (s.laneset k).shutting then ((s.enterFault k cause found).completeAll (s.laneset k).downCmds stOk []).laneOff k
  else if ((s.laneset k).state == .active && (s.link k).encrypted) ∧ cause ≠ 11 then (s.enterFault k cause found).laneOff k
  else s.enterFault k cause found

/-- The cases of a fault: none for a set in FAULT or at rest in OFF, OFF where a reference fails during a shut-down, else FAULT. -/
theorem State.laneFaultOf_eq (s : State) (k cause : Nat) (found : List Nat) : s.laneFaultOf k cause found =
    if (s.laneset k).state = .fault ∨ ((s.laneset k).state = .off ∧ ¬ (s.laneset k).pllWait ∧ ¬ ((s.laneset k).test ∧ cause = 7)) then s
    else if cause = 9 ∧ (s.laneset k).shutting then (s.leaveActive k false).laneOff k
    else State.recheckFlows s (s.restFault k cause found) := rfl

theorem State.laneset_enterFault (s : State) (k cause : Nat) (found : List Nat) :
    ∃ now, (s.enterFault k cause found).laneset k = (s.laneset k).failed k cause now := by
  unfold State.enterFault
  dsimp only
  rw [State.laneset_of_lanesets_eq (State.completeOpt_lanesets ..), State.laneset_of_lanesets_eq (State.raiseLaneFault_lanesets ..),
    State.laneset_modLaneset]
  refine ⟨_, congrArg (LaneSet.failed · k cause _) ?_⟩
  split
  · exact State.laneset_of_lanesets_eq (State.leaveActive_lanesets ..) k
  · rfl

/-- In rest after a fault, the cause is what was found, one more fault is counted, and the set is in FAULT or OFF. -/
theorem State.laneset_restFault (s : State) (k cause : Nat) (found : List Nat) :
    (((s.restFault k cause found).laneset k).state = .fault ∨ ((s.restFault k cause found).laneset k).state = .off) ∧
    ((s.restFault k cause found).laneset k).cause = BitVec.ofNat 5 cause ∧
    ((s.restFault k cause found).laneset k).faults = satInc (s.laneset k).faults := by
  obtain ⟨now, entered⟩ := s.laneset_enterFault k cause found
  unfold State.restFault
  split
  · obtain ⟨off, same, counted⟩ := ((s.enterFault k cause found).completeAll (s.laneset k).downCmds stOk []).laneset_laneOff k
    rw [State.laneset_of_lanesets_eq (State.completeAll_lanesets ..), entered] at same counted
    exact ⟨.inr off, same, counted⟩
  split
  · obtain ⟨off, same, counted⟩ := (s.enterFault k cause found).laneset_laneOff k
    rw [entered] at same counted
    exact ⟨.inr off, same, counted⟩
  · rw [entered]
    exact ⟨.inl rfl, rfl, rfl⟩

/-- A fault other than of the reference, of a set that is neither in FAULT nor in OFF. -/
theorem State.laneset_laneFaultOf {s : State} {k cause : Nat} (found : List Nat) (fault : (s.laneset k).state ≠ .fault) (off : (s.laneset k).state ≠ .off)
    (reference : cause ≠ 9) :
    (((s.laneFaultOf k cause found).laneset k).state = .fault ∨ ((s.laneFaultOf k cause found).laneset k).state = .off) ∧
    ((s.laneFaultOf k cause found).laneset k).cause = BitVec.ofNat 5 cause ∧
    ((s.laneFaultOf k cause found).laneset k).faults = satInc (s.laneset k).faults := by
  rw [State.laneFaultOf_eq, if_neg (by simp [fault, off]), if_neg (fun h => reference h.1)]
  obtain ⟨state, -, -, -, same, counted, -⟩ :=
    LaneSet.eq_of_apartWake (congrFun (State.apartWake_recheckFlows s (s.restFault k cause found)) k)
  rw [state, same, counted]
  exact s.laneset_restFault k cause found

theorem State.injection_enterFault (s : State) (k cause : Nat) (found : List Nat) : (s.enterFault k cause found).injection = s.injection := by
  unfold State.enterFault
  dsimp only
  rw [State.injection_of_lanesets_eq (State.completeOpt_lanesets ..), State.injection_of_lanesets_eq (State.raiseLaneFault_lanesets ..)]
  rw [State.injection_modLaneset _ k (f := fun x => x.failed k cause _) fun x n => x.injection_allLanes_fresh k n]
  split
  · exact State.injection_of_lanesets_eq (State.leaveActive_lanesets ..)
  · rfl

/-- No fault touches the injection of errors. -/
theorem State.injection_laneFaultOf (s : State) (k cause : Nat) (found : List Nat) : (s.laneFaultOf k cause found).injection = s.injection := by
  rw [State.laneFaultOf_eq]
  split
  · rfl
  split
  · rw [State.injection_laneOff, State.injection_of_lanesets_eq (State.leaveActive_lanesets ..)]
  · rw [State.injection_recheckFlows]
    unfold State.restFault
    split
    · rw [State.injection_laneOff, State.injection_of_lanesets_eq (State.completeAll_lanesets ..), State.injection_enterFault]
    split
    · rw [State.injection_laneOff, State.injection_enterFault]
    · exact s.injection_enterFault k cause found

/-! ### Symbol errors and lost lanes (09 R243; 10 R266) -/

theorem State.injection_modLane (s : State) (k n : Nat) {f : Lane → Lane} (keeps : ∀ l, (f l).injection = l.injection) :
    (s.modLane k n f).injection = s.injection :=
  funext fun j => funext fun m => s.lane_modLane_keeps Lane.injection k n keeps j m

theorem State.injection_sendSet (s : State) (k typ : Nat) (payload : List (BitVec 8)) (lanes : List Nat) :
    (s.sendSet k typ payload lanes).injection = s.injection := by
  unfold State.sendSet
  split
  · exact s.injection_modLaneset k fun _ _ => rfl
  · refine s.injection_modLaneset k fun x n => ?_
    exact tget_tmodAll_keeps Lane.injection Lane.reset (f := fun n l => l.sendSet typ n payload) (fun _ _ => rfl) lanes x.lanes n

theorem State.injection_sendRpr (s : State) (k attempt : Nat) : (s.sendRpr k attempt).injection = s.injection := by
  unfold State.sendRpr
  split
  · rw [State.injection_sendSet]; rfl
  · exact s.injection_laneFaultOf k 10 []

theorem State.injection_laneLost (s : State) (k n : Nat) : (s.laneLost k n).injection = s.injection := by
  have lost : (s.modLane k n fun l => { l with lost := true }).injection = s.injection := s.injection_modLane k n fun _ => rfl
  unfold State.laneLost
  dsimp only
  split
  · rfl
  split
  · exact lost
  split
  · exact lost
  · exact (State.injection_sendRpr _ k 1).trans lost

/-- The instants of the errors of a lane in the last microsecond, with the one found now. -/
def State.recentErrors (s : State) (k n : Nat) : List Nat := (((s.laneset k).lane n).errAt.filter fun t => s.now < t + psUs) ++ [s.now]

/-- A symbol error is counted on its lane, and the frame or the symbol of the user word is marked bad. -/
def State.countSymbolError (s : State) (k n sym : Nat) : State :=
  let u := s.modLane k n fun l =>
    { l with symerr := satInc l.symerr, errAt := s.recentErrors k n, badSym := if laneKind k = 2 then l.badSym ++ [sym % 4] else [] }
  if laneKind k = 2 then u else u.modLink k fun e => { e with symBad := e.symBad || (dataLanes k e.rxMap).contains n }

/-- The sixteenth error within a microsecond loses the lane. -/
theorem symbolError_eq (s : State) (k n sym : Nat) : symbolError s k n sym =
    if ¬ s.hasKey k ∨ ¬ (s.laneset k).laneActive k n ∨ laneCount k ≤ n ∨ (s.laneset k).lp2 then s
    else if (s.recentErrors k n).length < 16 then s.countSymbolError k n sym
    else ((s.countSymbolError k n sym).modLane k n fun l => { l with errAt := [] }).loseLane k n := rfl

theorem State.injection_countSymbolError (s : State) (k n sym : Nat) : (s.countSymbolError k n sym).injection = s.injection := by
  unfold State.countSymbolError
  dsimp only
  split
  · exact s.injection_modLane k n fun _ => rfl
  · exact s.injection_modLane k n fun _ => rfl

theorem State.injection_loseLane (s : State) (k n : Nat) : (s.loseLane k n).injection = s.injection := by
  unfold State.loseLane
  split
  · exact s.injection_laneLost k n
  · exact (State.injection_laneFaultOf _ k 8 []).trans (s.injection_modLane k n fun _ => rfl)

/-- A symbol error, and the repair or fault it may lead to, leave the injection of errors alone. -/
theorem injection_symbolError (s : State) (k n sym : Nat) : (symbolError s k n sym).injection = s.injection := by
  rw [symbolError_eq]
  split
  · rfl
  split
  · exact s.injection_countSymbolError k n sym
  · rw [State.injection_loseLane, State.injection_modLane (f := fun l => { l with errAt := [] }) _ _ _ fun _ => rfl,
      State.injection_countSymbolError]

/-! ### Injection (09 R249) -/

theorem State.injection_checkerHit (s : State) (k n : Nat) : (s.checkerHit k n).injection = s.injection :=
  s.injection_modLane k n fun l => by split <;> rfl

/-- What sees a flipped bit leaves the injection alone. -/
theorem State.injection_flipSeen (s : State) (k n : Nat) : (s.flipSeen k n).injection = s.injection := by
  unfold State.flipSeen
  dsimp only
  generalize own : (if (s.laneset k).test = true ∧ (s.laneset k).loopSel = 2 then s.checkerHit k n else s) = u
  have seen : u.injection = s.injection := by
    rw [← own]
    split
    · exact s.injection_checkerHit k n
    · rfl
  split
  · exact seen
  split
  · rw [injection_symbolError, seen]
  split
  · split
    · rw [State.injection_checkerHit, State.injection_checkerHit, seen]
    · rw [State.injection_checkerHit, seen]
  · exact seen

/-- A flip is counted on its lane. -/
theorem State.injection_flipBit (s : State) (k n : Nat) :
    (s.flipBit k n).injection k n = (((s.laneset k).lane n).injN, ((s.laneset k).lane n).injAt, satInc ((s.laneset k).lane n).injCnt) := by
  unfold State.flipBit
  rw [State.injection_flipSeen, State.injection, State.laneset_modLane, LaneSet.lane_modLane]
  rfl

end Sys2Proof.Machine
end

section
/-! PROOFS. Lane PHY, part 3: the lane commands (09 R244, R245, R248, R249, R253; 17 R440). -/

open Sys2Proof
namespace Sys2Proof.Machine

/-! ### What serving a request leaves of the flows' paths (07 R191, R192; 08 R216) -/

theorem State.escapePath_setGable (s : State) (g : Gable) : (s.setGable g).escapePath = s.escapePath := by
  funext src dest fuel
  induction fuel with
  | zero => rfl
  | succ fuel ih =>
    funext node r depth
    unfold State.escapePath
    rw [ih, show (s.setGable g).chooseExit = s.chooseExit from rfl, show (s.setGable g).facing = s.facing from rfl]

theorem State.pathTo_setGable (s : State) (g : Gable) : (s.setGable g).pathTo = s.pathTo := by
  funext src own dest
  unfold State.pathTo
  rw [State.escapePath_setGable, show (s.setGable g).startOf = s.startOf from rfl]

theorem State.decode_setGable (s : State) (g : Gable) : (s.setGable g).decode = s.decode := by
  funext a
  unfold State.decode
  rw [State.setGable_dram, show (s.setGable g).fdies = s.fdies from rfl, show (s.setGable g).guestWindow = s.guestWindow from rfl]

theorem State.legs_setGable (s : State) (g : Gable) : (s.setGable g).legs = s.legs := by
  funext f
  unfold State.legs
  rw [State.pathTo_setGable, State.decode_setGable, show (s.setGable g).flowChans = s.flowChans from rfl,
    show (s.setGable g).destOf = s.destOf from rfl, show (s.setGable g).ingressPort = s.ingressPort from rfl]

theorem State.flowTouches_setGable (s : State) (g : Gable) : (s.setGable g).flowTouches = s.flowTouches := by
  funext f kind die id
  unfold State.flowTouches State.flowOuts
  rw [State.legs_setGable, State.decode_setGable, show (s.setGable g).flowChans = s.flowChans from rfl,
    show (s.setGable g).facing = s.facing from rfl]

theorem State.laneOnFlow_setGable (s : State) (g : Gable) : (s.setGable g).laneOnFlow = s.laneOnFlow := by
  funext k sel
  unfold State.laneOnFlow State.flowForbids
  rw [State.flowTouches_setGable, State.setGable_flows]

/-! ### What a lane command's checks and body see (17 R440, R444) -/

/-- Only the gable controller's part of the state has changed. -/
theorem State.heard_eq_setGable (s : State) (m : Nat) : ∃ g, s.heard m = s.setGable g := by
  unfold State.heard
  split
  · exact ⟨_, rfl⟩
  · exact ⟨s.gable, rfl⟩

@[simp] theorem State.heard_laneset (s : State) (m k : Nat) : (s.heard m).laneset k = s.laneset k := State.laneset_of_lanesets_eq (s.heard_lanesets m) k
@[simp] theorem State.heard_partner (s : State) (m k : Nat) : (s.heard m).partner k = s.partner k := by
  obtain ⟨g, h⟩ := s.heard_eq_setGable m; rw [h]; rfl
@[simp] theorem State.heard_laneOk (s : State) (m : Nat) (r : Request) : r.laneOk (s.heard m) = r.laneOk s := by
  obtain ⟨g, h⟩ := s.heard_eq_setGable m; rw [h]; rfl
@[simp] theorem State.heard_laneOnFlow (s : State) (m k sel : Nat) : (s.heard m).laneOnFlow k sel = s.laneOnFlow k sel := by
  obtain ⟨g, h⟩ := s.heard_eq_setGable m; rw [h, State.laneOnFlow_setGable]
@[simp] theorem State.heard_node (s : State) (m c : Nat) : (s.heard m).node c = s.node c := by
  obtain ⟨g, h⟩ := s.heard_eq_setGable m; rw [h]; rfl

/-- A command that may answer ACCEPTED is entered as running before its body runs (17 R440). -/
def State.begun (s : State) (m : Nat) : State :=
  (s.heard m).modMbx m fun b => { b with running := b.running ++ [{ cmd := BitVec.ofNat 16 (s.req m).cmd, seq := BitVec.ofNat 16 (s.req m).seq }] }

theorem State.begun_eq_setGable (s : State) (m : Nat) : ∃ g, s.begun m = s.setGable g := by
  obtain ⟨g, h⟩ := s.heard_eq_setGable m
  unfold State.begun
  rw [h]
  exact ⟨_, rfl⟩

@[simp] theorem State.begun_laneset (s : State) (m k : Nat) : (s.begun m).laneset k = s.laneset k := by
  obtain ⟨g, h⟩ := s.begun_eq_setGable m; rw [h]; rfl
@[simp] theorem State.begun_now (s : State) (m : Nat) : (s.begun m).now = s.now := by
  obtain ⟨g, h⟩ := s.begun_eq_setGable m; rw [h]; rfl
@[simp] theorem State.begun_awaitsKey (s : State) (m k : Nat) : (s.begun m).awaitsKey k = s.awaitsKey k := by
  obtain ⟨g, h⟩ := s.begun_eq_setGable m; rw [h]; rfl
@[simp] theorem State.begun_token (s : State) (m : Nat) (r : Request) : (s.begun m).token m r = s.token m r := by
  unfold State.token State.begun State.sid
  rw [State.mbx_modMbx, State.mbx_heard]

/-- A command that may answer ACCEPTED, with room for one more completion: what its body replies is the answer, and the rest of the state is what
    the body left. -/
theorem Command.serve_begun {c : Command} {s s2 : State} {m st : Nat} {data : List (BitVec 8)} (ask : s.asks m c.code = true) (hopen : c.code ≠ 0x0900)
    (async : c.async = true) (room : s.hasRoom m = true) (may : c.may (s.heard m) m (s.req m) = true) (arg : c.argOk (s.heard m) (s.req m) = true)
    (body : c.body (s.begun m) m (s.req m) = (s2, ⟨st, data⟩)) (hst : st < 0x100) :
    ∃ t, c.serve m s = (if st = stOk then c.after t m else t) ∧ s.answered t m st data ∧ s2.changesOnly t [.gable, .evr] := by
  have free : ¬ 16 ≤ ((s.heard m).mbx m).heldCount := by
    rw [State.mbx_heard]
    exact Nat.not_le.mpr (of_decide_eq_true room)
  obtain ⟨s3, run, ended⟩ : ∃ s3, c.run (s.heard m) m (s.req m) = (s3, ⟨st, data⟩) ∧ s2.changesOnly s3 [.gable] := by
    unfold Command.run
    rw [if_pos async, if_neg free]
    dsimp only
    unfold State.begun at body
    rw [body]
    dsimp only
    split
    · exact ⟨_, rfl, (Steps.refl _ s2).1⟩
    · exact ⟨_, rfl, (State.modMbx_steps (Steps.refl _ s2) (by decide)).1⟩
  obtain ⟨t, serve, answer, frame, -⟩ := Command.serve_run ask hopen may arg run hst
  refine ⟨t, serve, answer, fun p hp => Component.same_trans (ended p fun h => hp ?_) (frame p hp)⟩
  rw [List.mem_singleton.mp h]
  decide

/-- The lane sets after the answer are those the body left. -/
theorem laneset_of_answered {s2 t : State} (frame : s2.changesOnly t [.gable, .evr]) (k : Nat) : t.laneset k = s2.laneset k :=
  State.laneset_of_lanesets_eq (frame .lanesets (by decide)) k

/-! ### LANE_UP (09 R244) -/

section
variable {s s2 : State} {m st : Nat} {data : List (BitVec 8)} (room : s.hasRoom m = true) (role : s.hasRole m roleC = true)
  (len : (s.req m).len = 4) (reserved : (s.req m).zero 3 1 = true) (known : (s.req m).laneOk s = true) (hst : st < 0x100)
include room role len reserved known hst

/-- LANE_UP for a lane set of the part is answered with what its body replies. -/
theorem exec_laneUp (ask : s.asks m 0x0800 = true) (body : cmdLaneUp.body (s.begun m) m (s.req m) = (s2, ⟨st, data⟩)) :
    ∃ t, exec (.laneUp m) s = .next t ∧ s.answered t m st data ∧ ∀ k, t.laneset k = s2.laneset k := by
  have may : cmdLaneUp.may (s.heard m) m (s.req m) = true := by simpa [cmdLaneUp, needC] using role
  have arg : cmdLaneUp.argOk (s.heard m) (s.req m) = true := by simp [cmdLaneUp, lenIs, len, reserved, known]
  obtain ⟨t, run, answer, frame⟩ := Command.serve_begun ask (by decide) rfl room may arg body hst
  exact ⟨t, congrArg Host.Outcome.next (run.trans (ite_self t)), answer, laneset_of_answered frame⟩

/-- LANE_DOWN for a lane set of the part is answered with what its body replies. -/
theorem exec_laneDown (ask : s.asks m 0x0801 = true) (body : cmdLaneDown.body (s.begun m) m (s.req m) = (s2, ⟨st, data⟩)) :
    ∃ t, exec (.laneDown m) s = .next t ∧ s.answered t m st data ∧ ∀ k, t.laneset k = s2.laneset k := by
  have may : cmdLaneDown.may (s.heard m) m (s.req m) = true := by simpa [cmdLaneDown, needC] using role
  have arg : cmdLaneDown.argOk (s.heard m) (s.req m) = true := by simp [cmdLaneDown, lenIs, len, reserved, known]
  obtain ⟨t, run, answer, frame⟩ := Command.serve_begun ask (by decide) rfl room may arg body hst
  exact ⟨t, congrArg Host.Outcome.next (run.trans (ite_self t)), answer, laneset_of_answered frame⟩

end

/-- LANE_UP of a set in OFF or FAULT that awaits no key starts its bring-up. -/
theorem laneUp_body_of_down {u : State} {m : Nat} {r : Request} (fresh : (u.laneset r.laneKey).upCmd = none)
    (shutting : (u.laneset r.laneKey).shutting = false) (key : u.awaitsKey r.laneKey = false)
    (mode : laneKind r.laneKey = 2 → (u.laneset r.laneKey).mode ≠ 0) (waits : (u.laneset r.laneKey).pllWait = false)
    (down : (u.laneset r.laneKey).state = .off ∨ (u.laneset r.laneKey).state = .fault) :
    cmdLaneUp.body u m r =
      ((u.bringUp r.laneKey).modLaneset r.laneKey fun x => { x with upCmd := some (u.token m r) }, bare stAccepted) := by
  have start : ¬ (u.awaitsKey r.laneKey = true ∨ (laneKind r.laneKey = 2 ∧ (u.laneset r.laneKey).mode = 0) ∨ (u.laneset r.laneKey).pllWait = true ∨
      ¬ ((u.laneset r.laneKey).state = .off ∨ (u.laneset r.laneKey).state = .fault)) := by
    rw [key, waits]
    rintro (h | ⟨kind, zero⟩ | h | h)
    · cases h
    · exact mode kind zero
    · cases h
    · exact h down
  unfold cmdLaneUp
  dsimp only
  rw [if_neg (by simp [fresh]), if_neg (by simp [shutting]), if_neg start]

/-- Behind a shut-down it is held. -/
theorem laneUp_body_of_shutting {u : State} {m : Nat} {r : Request} (fresh : (u.laneset r.laneKey).upCmd = none)
    (shutting : (u.laneset r.laneKey).shutting = true) : cmdLaneUp.body u m r =
      (u.modLaneset r.laneKey fun x => { x with pendingEnable := true, upCmd := some (u.token m r) }, bare stAccepted) := by
  unfold cmdLaneUp
  dsimp only
  rw [if_neg (by simp [fresh]), if_pos shutting]

/-! ### LANE_DOWN (09 R244) -/

/-- LANE_DOWN of an ACTIVE link begins its shut-down. -/
theorem laneDown_body_of_active {u : State} {m : Nat} {r : Request} (shutting : (u.laneset r.laneKey).shutting = false)
    (active : (u.laneset r.laneKey).state = .active) (link : laneKind r.laneKey ≠ 2) : cmdLaneDown.body u m r =
      ((u.shutDown r.laneKey 0 false).modLaneset r.laneKey fun x => { x with downCmds := [u.token m r] }, bare stAccepted) := by
  unfold cmdLaneDown
  dsimp only
  rw [if_neg (by simp [shutting]), if_pos ⟨active, link⟩]

/-- LANE_DOWN of any other set abandons its bring-up and turns it OFF. -/
theorem laneDown_body_of_other {u : State} {m : Nat} {r : Request} (shutting : (u.laneset r.laneKey).shutting = false)
    (other : (u.laneset r.laneKey).state ≠ .active ∨ laneKind r.laneKey = 2) : cmdLaneDown.body u m r =
      (((if (u.laneset r.laneKey).state = .active then u.leaveActive r.laneKey false else u).dropUp r.laneKey).laneOff r.laneKey, okReply []) := by
  unfold cmdLaneDown
  dsimp only
  rw [if_neg (by simp [shutting]), if_neg (by tauto)]

/-- A shut-down that begins leaves the state of the set as it is. -/
theorem State.laneset_shutDown (s : State) (k : Nat) (reason : BitVec 8) (byPartner : Bool) :
    ((s.shutDown k reason byPartner).laneset k).state = (s.laneset k).state ∧ ((s.shutDown k reason byPartner).laneset k).shutting = true ∧
    ((s.shutDown k reason byPartner).laneset k).byPartner = byPartner ∧ ((s.shutDown k reason byPartner).laneset k).downReason = reason := by
  unfold State.shutDown
  dsimp only
  obtain ⟨state, shutting, partner, why, -⟩ := LaneSet.eq_of_apartWake (congrFun (State.apartWake_recheckFlows s _) k)
  rw [state, shutting, partner, why, State.laneset_of_lanesets_eq (State.modLink_lanesets ..), State.laneset_modLaneset]
  exact ⟨rfl, rfl, rfl, rfl⟩

theorem State.laneset_dropUp (s : State) (k : Nat) :
    (s.dropUp k).laneset k = { s.laneset k with upCmd := none, pendingEnable := false } := by
  unfold State.dropUp
  dsimp only
  rw [State.laneset_of_lanesets_eq (State.completeOpt_lanesets ..), State.laneset_modLaneset]

/-- With no LANE_UP held behind it, OFF is where the set stays. -/
theorem State.laneset_laneOff_of_not_pending {s : State} {k : Nat} (idle : (s.laneset k).pendingEnable = false) :
    ((s.laneOff k).laneset k).state = .off ∧ ((s.laneOff k).laneset k).test = false ∧ ((s.laneOff k).laneset k).pllWait = false ∧
    ((s.laneOff k).laneset k).upCmd = (s.laneset k).upCmd := by
  unfold State.laneOff
  dsimp only
  rw [if_neg (by simp [idle]), State.laneset_of_lanesets_eq (State.completeAll_lanesets ..), State.laneset_modLaneset]
  exact ⟨rfl, rfl, rfl, rfl⟩

/-! ### LANE_TEST, LANE_INJECT, LANE_LP and LANE_CLEAR (09 R245, R248, R249, R253) -/

/-- LANE_TEST where the set is OFF and, on a link, its partner in the package too. -/
theorem laneTest_body_of_off {u : State} {m : Nat} {r : Request} (off : (u.laneset r.laneKey).state = .off)
    (waits : (u.laneset r.laneKey).pllWait = false)
    (partner : (u.partner r.laneKey).all (fun j => (u.laneset j).state == .off && !(u.laneset j).pllWait) = true) : cmdLaneTest.body u m r =
      (u.modLaneset r.laneKey fun x =>
        { (x.allLanes r.laneKey Lane.clearPrbs) with
          test := true, pattern := BitVec.ofNat 3 (r.num 4 1), inv := r.num 5 1 == 1, loopSel := BitVec.ofNat 2 (r.num 6 1) }, okReply []) := by
  unfold cmdLaneTest
  dsimp only
  cases far : u.partner r.laneKey with
  | none => simp [off, waits]
  | some j =>
    rw [far] at partner
    obtain ⟨farOff, farWaits⟩ : (u.laneset j).state = .off ∧ (u.laneset j).pllWait = false := by simpa using partner
    simp [off, waits, farOff, farWaits]

/-- LANE_LP sets the choices where no flow counted a shallower state and the port does not give the package its reference. -/
theorem laneLp_body_of_free {u : State} {m : Nat} {r : Request}
    (flows : BitVec.ofNat 2 (r.num 4 1) &&& ~~~ (u.laneset r.laneKey).lpSel = 0 ∨ u.laneOnFlow r.laneKey (r.num 4 1) = false)
    (reference : r.num 4 1 = 0 ∨ ¬ (r.laneKey = 144 ∧ (u.node 0x8F00).source.toNat = 1 ∨ r.laneKey = 145 ∧ (u.node 0x8F00).source.toNat = 2)) :
    cmdLaneLp.body u m r = (u.modLaneset r.laneKey fun x =>
      { x with lpSel := BitVec.ofNat 2 (r.num 4 1), lp1Idle := BitVec.ofNat 10 (r.num 6 2), lp2Idle := BitVec.ofNat 10 (r.num 8 2) }, okReply []) := by
  have noFlow : ¬ ((BitVec.ofNat 2 (r.num 4 1) &&& ~~~ (u.laneset r.laneKey).lpSel != 0) = true ∧ u.laneOnFlow r.laneKey (r.num 4 1) = true) := by
    rintro ⟨deeper, flow⟩
    rcases flows with same | free
    · simp [same] at deeper
    · rw [free] at flow; cases flow
  unfold cmdLaneLp
  dsimp only
  refine if_neg ?_
  rintro (flow | ⟨pref, deep⟩)
  · exact noFlow flow
  · have free := reference.resolve_left deep
    split at pref
    · next source => exact free (.inl ⟨by simpa using pref, source⟩)
    · next source => exact free (.inr ⟨by simpa using pref, source⟩)
    · cases pref

/-- LANE_INJECT of 0xFF flips a bit, of another value sets the rate. -/
theorem laneInject_body {u : State} {m : Nat} {r : Request} (may : (u.laneset r.laneKey).mayInject = true) : cmdLaneInject.body u m r =
    (if r.num 4 1 = 0xFF then u.flipBit r.laneKey (r.num 3 1)
      else u.modLane r.laneKey (r.num 3 1) fun l => { l with injN := BitVec.ofNat 5 (r.num 4 1), injAt := u.now }, okReply []) := by
  unfold cmdLaneInject
  dsimp only
  rw [if_neg (by simp [may])]
  split <;> rfl

end Sys2Proof.Machine

open Sys2Proof Sys2Proof.Machine

/-- Settles O25: each command's body in the state its request is served in, and what the answer leaves of the lane sets. A shut-down that begins
    decides flows again, which may wake links, but leaves the state and the shut-down of every set alone. -/
theorem laneCommands : Obligations.laneCommands := by
  unfold Obligations.laneCommands
  refine ⟨?up, ?pending, ?shutDown, ?off, ?test, ?inject, ?lp, ?clear⟩
  case up =>
    rintro s m k ⟨ask, room, -, role, len, reserved, rfl, known, fresh, shutting, key, mode, waits, down⟩
    have body : cmdLaneUp.body (s.begun m) m (s.req m) = _ := laneUp_body_of_down (by simpa) (by simpa) (by simpa) (by simpa) (by simpa) (by simpa)
    obtain ⟨t, run, answer, sets⟩ := exec_laneUp room role len reserved known (by decide) ask body
    obtain ⟨state, pll, since, -, -, mode⟩ := (s.begun m).laneset_bringUp (s.req m).laneKey
    refine ⟨t, run, answer, ?_⟩
    rw [sets, State.laneset_modLaneset]
    rw [State.begun_now] at since
    rw [State.begun_laneset] at mode
    exact ⟨state, pll, since, by rw [State.begun_token], mode⟩
  case pending =>
    rintro s m k ⟨ask, room, -, role, len, reserved, rfl, known, fresh, shutting⟩
    have body : cmdLaneUp.body (s.begun m) m (s.req m) = _ := laneUp_body_of_shutting (by simpa) (by simpa)
    obtain ⟨t, run, answer, sets⟩ := exec_laneUp room role len reserved known (by decide) ask body
    exact ⟨t, run, answer, by rw [sets, State.laneset_modLaneset, State.begun_laneset, State.begun_token]⟩
  case shutDown =>
    rintro s m k ⟨ask, room, -, role, len, reserved, rfl, known, shutting, active, link⟩
    have body : cmdLaneDown.body (s.begun m) m (s.req m) = _ := laneDown_body_of_active (by simpa) (by simpa) link
    obtain ⟨t, run, answer, sets⟩ := exec_laneDown room role len reserved known (by decide) ask body
    obtain ⟨state, begins, own, reason⟩ := (s.begun m).laneset_shutDown (s.req m).laneKey 0 false
    refine ⟨t, run, answer, ?_⟩
    rw [sets, State.laneset_modLaneset]
    rw [State.begun_laneset, active] at state
    exact ⟨state, begins, own, reason, by rw [State.begun_token]⟩
  case off =>
    rintro s m k ⟨ask, room, -, role, len, reserved, rfl, known, shutting, other⟩
    have body : cmdLaneDown.body (s.begun m) m (s.req m) = _ := laneDown_body_of_other (by simpa) (by simpa)
    obtain ⟨t, run, answer, sets⟩ := exec_laneDown room role len reserved known (by decide) ask body
    refine ⟨t, run, answer, ?_⟩
    rw [sets]
    generalize (if ((s.begun m).laneset (s.req m).laneKey).state = LaneState.active then _ else _ : State) = u
    have dropped := u.laneset_dropUp (s.req m).laneKey
    obtain ⟨state, test, pll, up⟩ := State.laneset_laneOff_of_not_pending (s := u.dropUp (s.req m).laneKey) (k := (s.req m).laneKey)
      (by rw [dropped])
    exact ⟨state, test, pll, by rw [up, dropped]⟩
  case test =>
    rintro s m k ⟨ask, -, role, len, reserved, reserved', rfl, known, pattern, inv, loop, off, waits, partner⟩
    have may : cmdLaneTest.may (s.heard m) m (s.req m) = true := by simpa [cmdLaneTest, needC] using role
    have arg : cmdLaneTest.argOk (s.heard m) (s.req m) = true := by
      simp [cmdLaneTest, lenIs, len, reserved, reserved', known, pattern, inv, loop]
    have body : cmdLaneTest.body (s.heard m) m (s.req m) = _ := laneTest_body_of_off (by simpa) (by simpa) (by simpa using partner)
    obtain ⟨t, run, answer, frame, -⟩ := Command.serve_body ask (by decide) rfl may arg body (by decide)
    refine ⟨t, congrArg Host.Outcome.next run, answer, ?_⟩
    rw [laneset_of_answered frame, State.laneset_modLaneset, State.heard_laneset]
    dsimp only
    exact ⟨rfl, rfl, rfl, rfl, by rw [LaneSet.allLanes_state, off]⟩
  case inject =>
    rintro s m k n ⟨ask, -, role, len, rfl, known, rfl, lane, reserved, injects, rate⟩
    have may : cmdLaneInject.may (s.heard m) m (s.req m) = true := by simpa [cmdLaneInject, needC] using role
    have arg : cmdLaneInject.argOk (s.heard m) (s.req m) = true := by
      simpa [cmdLaneInject, lenIs, len, reserved, known, lane, or_assoc] using rate
    have body : cmdLaneInject.body (s.heard m) m (s.req m) = _ := laneInject_body (by simpa)
    obtain ⟨t, run, answer, frame, -⟩ := Command.serve_body ask (by decide) rfl may arg body (by decide)
    refine ⟨t, congrArg Host.Outcome.next run, answer, fun flip => ?_, fun set => ?_⟩
    · have flipped := (s.heard m).injection_flipBit (s.req m).laneKey ((s.req m).num 3 1)
      rw [State.heard_laneset] at flipped
      rw [laneset_of_answered frame, if_pos flip]
      exact ⟨congrArg (·.2.2) flipped, congrArg (·.1) flipped⟩
    · rw [laneset_of_answered frame, if_neg set, State.laneset_modLane, LaneSet.lane_modLane, State.heard_laneset, State.heard_now]
  case lp =>
    rintro s m k ⟨ask, -, role, len, reserved, reserved', reserved'', rfl, known, sel, idle1, idle2, flows, reference⟩
    have may : cmdLaneLp.may (s.heard m) m (s.req m) = true := by simpa [cmdLaneLp, needC] using role
    have arg : cmdLaneLp.argOk (s.heard m) (s.req m) = true := by
      simp [cmdLaneLp, lenIs, len, reserved, reserved', reserved'', known, sel, idle1, idle2]
    have body : cmdLaneLp.body (s.heard m) m (s.req m) = _ := laneLp_body_of_free (by simpa using flows) (by simpa using reference)
    obtain ⟨t, run, answer, frame, -⟩ := Command.serve_body ask (by decide) rfl may arg body (by decide)
    exact ⟨t, congrArg Host.Outcome.next run, answer, by rw [laneset_of_answered frame, State.laneset_modLaneset, State.heard_laneset]⟩
  case clear =>
    rintro s m k ⟨ask, -, role, len, reserved, rfl, known⟩
    have may : cmdLaneClear.may (s.heard m) m (s.req m) = true := by simpa [cmdLaneClear, needC] using role
    have arg : cmdLaneClear.argOk (s.heard m) (s.req m) = true := by simp [cmdLaneClear, lenIs, len, reserved, known]
    obtain ⟨t, run, answer, frame, -⟩ := Command.serve_body ask (by decide) rfl may arg rfl (by decide)
    refine ⟨t, congrArg Host.Outcome.next run, answer, ?_⟩
    rw [laneset_of_answered frame, State.laneset_modLaneset, State.heard_laneset, State.heard_now]
    dsimp only
    refine ⟨rfl, by rw [LaneSet.allLanes_state], fun n lane => ?_⟩
    refine (LaneSet.lane_congr ?_ n).trans (LaneSet.lane_allLanes _ _ (fun l => l.clearCounts s.now) lane)
    rfl
end

section
/-! PROOFS. Lane PHY, part 4: symbol errors, drift, repair, injection and checkers (09 R232, R243, R245, R248, R249; 10 R266). -/

open Sys2Proof
namespace Sys2Proof.Machine

/-! ### Symbol errors (09 R243) -/

/-- A symbol error of an ACTIVE lane is counted; only the sixteenth within a microsecond goes further. -/
theorem symbolError_of_active {s : State} {k n : Nat} (sym : Nat) (key : s.hasKey k = true) (active : (s.laneset k).laneActive k n = true)
    (lane : n < laneCount k) (awake : (s.laneset k).lp2 = false) : symbolError s k n sym =
      if (s.recentErrors k n).length < 16 then s.countSymbolError k n sym
      else ((s.countSymbolError k n sym).modLane k n fun l => { l with errAt := [] }).loseLane k n := by
  rw [symbolError_eq, if_neg (by simp [key, active, awake, lane])]

theorem State.length_recentErrors (s : State) (k n : Nat) :
    (s.recentErrors k n).length = (((s.laneset k).lane n).errAt.filter fun t => decide (s.now < t + psUs)).length + 1 := by
  rw [State.recentErrors, List.length_append, List.length_singleton]

theorem State.laneset_countSymbolError (s : State) (k n sym : Nat) : (s.countSymbolError k n sym).laneset k = (s.laneset k).modLane n fun l =>
    { l with symerr := satInc l.symerr, errAt := s.recentErrors k n, badSym := if laneKind k = 2 then l.badSym ++ [sym % 4] else [] } := by
  unfold State.countSymbolError
  dsimp only
  split
  · rw [State.laneset_modLane]
  · rw [State.laneset_of_lanesets_eq (State.modLink_lanesets ..), State.laneset_modLane]

theorem State.countSymbolError_steps (s : State) (k n sym : Nat) : Steps [.lanesets, .links] s (s.countSymbolError k n sym) := by
  unfold State.countSymbolError
  exact Steps.ite (fun _ => State.modLaneset_steps (Steps.refl _ s) (by decide))
    fun _ => State.modLink_steps (State.modLaneset_steps (Steps.refl _ s) (by decide)) (by decide)

theorem State.link_countSymbolError (s : State) {k : Nat} (n sym : Nat) (link : laneKind k ≠ 2) : (s.countSymbolError k n sym).link k =
    { s.link k with symBad := (s.link k).symBad || (dataLanes k (s.link k).rxMap).contains n } := by
  unfold State.countSymbolError
  dsimp only
  rw [if_neg link, State.link_modLink, State.link_modLane]

/-- The count, the instants of errors and the marked symbols are all that changes of any lane. -/
theorem State.lane_countSymbolError_keeps {A : Type} (s : State) (view : Lane → A)
    (keeps : ∀ l e b c, view { l with symerr := e, errAt := b, badSym := c } = view l) (k n sym j m : Nat) :
    view (((s.countSymbolError k n sym).laneset j).lane m) = view ((s.laneset j).lane m) := by
  unfold State.countSymbolError
  dsimp only
  split
  · exact s.lane_modLane_keeps view k n (fun l => keeps l _ _ _) j m
  · exact s.lane_modLane_keeps view k n (fun l => keeps l _ _ _) j m

/-- A lane that reads ACTIVE belongs to a set in ACTIVE or LOCK (09 R241). -/
theorem LaneSet.state_of_laneActive {x : LaneSet} {k n : Nat} (h : x.laneActive k n = true) : x.state = .active ∨ x.state = .lock := by
  unfold LaneSet.laneActive at h
  simp only [Bool.and_eq_true, Bool.or_eq_true, beq_iff_eq] at h
  tauto

/-- The FAULT of a set that is up: it is neither ACTIVE any more nor short of its cause and count. -/
theorem State.laneset_laneFault_of_up {s : State} {k cause : Nat} (up : (s.laneset k).state = .active ∨ (s.laneset k).state = .lock)
    (reference : cause ≠ 9) : ((s.laneFault k cause).laneset k).state ≠ .active ∧ ((s.laneFault k cause).laneset k).cause = BitVec.ofNat 5 cause ∧
      ((s.laneFault k cause).laneset k).faults = satInc (s.laneset k).faults := by
  obtain ⟨rest, same, counted⟩ := State.laneset_laneFaultOf (s := s) (k := k) [] (by rcases up with h | h <;> rw [h] <;> decide)
    (by rcases up with h | h <;> rw [h] <;> decide) reference
  exact ⟨by rcases rest with h | h <;> rw [State.laneFault, h] <;> decide, same, counted⟩

/-- The sixteenth error within a microsecond on a set without spares. -/
theorem symbolError_ends_active {s : State} {k n : Nat} (sym : Nat) (key : s.hasKey k = true) (kind : laneKind k ≠ 0)
    (active : (s.laneset k).laneActive k n = true) (lane : n < laneCount k) (awake : (s.laneset k).lp2 = false)
    (many : ¬ (s.recentErrors k n).length < 16) : ((symbolError s k n sym).laneset k).state ≠ .active ∧
      ((symbolError s k n sym).laneset k).cause = BitVec.ofNat 5 8 ∧ ((symbolError s k n sym).laneset k).faults = satInc (s.laneset k).faults := by
  generalize hu : (((s.countSymbolError k n sym).modLane k n fun l => { l with errAt := [] }).modLane k n fun l => { l with lost := true }) = u
  have run : symbolError s k n sym = u.laneFault k 8 := by
    rw [symbolError_of_active sym key active lane awake, if_neg many, State.loseLane, if_neg kind, hu]
  have state : (u.laneset k).state = (s.laneset k).state := by
    rw [← hu, State.laneset_modLane, LaneSet.modLane_state, State.laneset_modLane, LaneSet.modLane_state, State.laneset_countSymbolError,
      LaneSet.modLane_state]
  have faults : (u.laneset k).faults = (s.laneset k).faults := by
    rw [← hu, State.laneset_modLane, LaneSet.modLane_faults, State.laneset_modLane, LaneSet.modLane_faults, State.laneset_countSymbolError,
      LaneSet.modLane_faults]
  rw [run, ← faults]
  exact State.laneset_laneFault_of_up (by rw [state]; exact LaneSet.state_of_laneActive active) (by decide)

/-! ### Repair (10 R265, R266) -/

/-- The spare a repair takes depends on the mapping, on the receivers and on which of the free spares are lost. -/
theorem State.freeSpare_congr {s t : State} {k : Nat} (map : (t.link k).rxMap = (s.link k).rxMap) (receivers : t.rxLanes k = s.rxLanes k)
    (lost : ∀ m, 40 ≤ m → tget 0 (s.link k).rxMap m = 0 → ((t.laneset k).lane m).lost = ((s.laneset k).lane m).lost) :
    t.freeSpare k = s.freeSpare k := by
  have same (m : Nat) (spare : 40 ≤ m) :
      (tget 0 (s.link k).rxMap m == 0 && !((t.laneset k).lane m).lost && (s.rxLanes k).contains m) =
        (tget 0 (s.link k).rxMap m == 0 && !((s.laneset k).lane m).lost && (s.rxLanes k).contains m) := by
    by_cases free : tget 0 (s.link k).rxMap m = 0
    · rw [lost m spare free]
    · simp only [beq_eq_false_iff_ne.mpr free, Bool.false_and]
  unfold State.freeSpare
  rw [map, receivers]
  simp only [List.find?_cons, List.find?_nil, same 40 (by decide), same 41 (by decide)]

theorem State.rxLanes_congr {s t : State} (part : t.fuses = s.fuses)
    (detected : ∀ j m, ((t.laneset j).lane m).detected = ((s.laneset j).lane m).detected) (k : Nat) : t.rxLanes k = s.rxLanes k := by
  have partner : t.partner k = s.partner k := by
    unfold State.partner State.facing State.dieSite State.fdies
    rw [part]
  unfold State.rxLanes
  rw [partner]
  cases s.partner k <;> simp only [detected]

/-- A set sent touches neither the links nor the state of the lane set nor which of its lanes are lost. -/
theorem State.sendSet_keeps (s : State) (k typ : Nat) (payload : List (BitVec 8)) (lanes : List Nat) :
    (s.sendSet k typ payload lanes).links = s.links ∧ ((s.sendSet k typ payload lanes).laneset k).state = (s.laneset k).state ∧
    ∀ n, (((s.sendSet k typ payload lanes).laneset k).lane n).lost = ((s.laneset k).lane n).lost := by
  refine ⟨(State.sendSet_steps (Steps.refl [.lanesets] s) (by decide)).1 .links (by decide), ?_⟩
  unfold State.sendSet
  split
  · rw [State.laneset_modLaneset]
    exact ⟨rfl, fun _ => rfl⟩
  · rw [State.laneset_modLaneset]
    refine ⟨rfl, fun n => ?_⟩
    exact tget_tmodAll_keeps Lane.lost Lane.reset (f := fun n l => l.sendSet typ n payload) (fun _ _ => rfl) lanes _ n

/-- RPR goes out while a spare is free: the attempt and its instant are kept, and nothing else of the link changes. -/
theorem State.sendRpr_of_spare {s : State} {k : Nat} (attempt : Nat) (repairing : (s.link k).repairing ≠ []) (spare : (s.freeSpare k).isSome = true) :
    (s.sendRpr k attempt).link k = { s.link k with rprAt := s.now, rprTry := attempt } ∧
    ((s.sendRpr k attempt).laneset k).state = (s.laneset k).state ∧
    ∀ n, (((s.sendRpr k attempt).laneset k).lane n).lost = ((s.laneset k).lane n).lost := by
  unfold State.sendRpr
  split
  · next n rest m first free =>
    obtain ⟨links, state, lost⟩ := (s.modLink k fun e => { e with rprAt := s.now, rprTry := attempt }).sendSet_keeps k setRpr
      [BitVec.ofNat 8 n, BitVec.ofNat 8 m, BitVec.ofNat 8 attempt] (dataLanes k (s.link k).txMap)
    exact ⟨by rw [State.link_of_links_eq links, State.link_modLink], state, lost⟩
  · next stuck =>
    obtain ⟨n, rest, first⟩ := List.exists_cons_of_ne_nil repairing
    obtain ⟨m, free⟩ := Option.isSome_iff_exists.mp spare
    exact absurd free (stuck n rest m first)

/-- Without a spare the repair ends in FAULT LINK. -/
theorem State.sendRpr_of_no_spare {s : State} {k : Nat} (attempt : Nat) (none : s.freeSpare k = none) : s.sendRpr k attempt = s.laneFault k 10 := by
  unfold State.sendRpr
  rw [none]
  split
  · next free => cases free
  · rfl

/-- A lane that carries data is lost while a spare is free and no repair runs: its repair begins. -/
theorem State.laneLost_of_spare {s : State} {k n : Nat} (well : ((s.laneset k).lane n).lost = false) (carried : (carries (s.link k).rxMap n).isSome = true)
    (idle : (s.link k).repairing = []) (spare : (s.freeSpare k).isSome = true) :
    ((s.laneLost k n).laneset k).state = (s.laneset k).state ∧ (((s.laneLost k n).laneset k).lane n).lost = true ∧
    ((s.laneLost k n).link k).repairing = [n] ∧ ((s.laneLost k n).link k).rprTry = 1 ∧ ((s.laneLost k n).link k).rprAt = s.now := by
  generalize hu : ((s.modLane k n fun l => { l with lost := true }).modLink k fun e => { e with repairing := e.repairing ++ [n] }) = u
  have run : s.laneLost k n = u.sendRpr k 1 := by
    unfold State.laneLost
    rw [if_neg (by simp [well])]
    dsimp only
    rw [State.link_modLane, idle,
      if_neg (by rw [Option.isNone_iff_eq_none, ← Option.not_isSome_iff_eq_none]; exact not_not.mpr carried), if_neg (by simp), ← hu]
    rfl
  have link : u.link k = { s.link k with repairing := [n] } := by
    rw [← hu, State.link_modLink, State.link_modLane, idle, List.nil_append]
  have set : u.laneset k = (s.laneset k).modLane n fun l => { l with lost := true } := by
    rw [← hu, State.laneset_of_lanesets_eq (State.modLink_lanesets ..), State.laneset_modLane]
  have free : u.freeSpare k = s.freeSpare k := by
    refine State.freeSpare_congr (by rw [link]) (State.rxLanes_congr (by rw [← hu]; rfl) (fun j m => ?_) k) fun m above unmapped => ?_
    · rw [← hu]
      exact s.lane_modLane_keeps Lane.detected k n (f := fun l => { l with lost := true }) (fun _ => rfl) j m
    · rw [set]
      by_cases lane : m = n
      · subst lane
        rw [carries, if_neg (Nat.not_lt.mpr above), if_pos unmapped] at carried
        cases carried
      · rw [LaneSet.lane_modLane_other _ _ lane]
  rw [run]
  obtain ⟨after, state, lost⟩ := State.sendRpr_of_spare (s := u) (k := k) 1 (by rw [link]; simp) (by rw [free]; exact spare)
  rw [after, state, lost, link, set, LaneSet.lane_modLane]
  exact ⟨rfl, rfl, rfl, rfl, by rw [← hu]; rfl⟩

/-- The sixteenth error within a microsecond on a link with a free spare. -/
theorem symbolError_begins_repair {s : State} {k n : Nat} (sym : Nat) (key : s.hasKey k = true) (kind : laneKind k = 0)
    (active : (s.laneset k).laneActive k n = true) (lane : n < laneCount k) (awake : (s.laneset k).lp2 = false)
    (well : ((s.laneset k).lane n).lost = false) (carried : (carries (s.link k).rxMap n).isSome = true) (idle : (s.link k).repairing = [])
    (spare : (s.freeSpare k).isSome = true) (many : ¬ (s.recentErrors k n).length < 16) :
    ((symbolError s k n sym).laneset k).state = (s.laneset k).state ∧ (((symbolError s k n sym).laneset k).lane n).lost = true ∧
    ((symbolError s k n sym).link k).repairing = [n] ∧ ((symbolError s k n sym).link k).rprTry = 1 ∧
    ((symbolError s k n sym).link k).rprAt = s.now := by
  generalize hu : ((s.countSymbolError k n sym).modLane k n fun l => { l with errAt := [] }) = u
  have link : u.link k = { s.link k with symBad := (s.link k).symBad || (dataLanes k (s.link k).rxMap).contains n } := by
    rw [← hu, State.link_modLane, State.link_countSymbolError _ _ _ (by rw [kind]; decide)]
  have lanes {A : Type} (view : Lane → A) (keeps : ∀ l e b c, view { l with symerr := e, errAt := b, badSym := c } = view l)
      (j m : Nat) : view ((u.laneset j).lane m) = view ((s.laneset j).lane m) := by
    rw [← hu]
    exact (State.lane_modLane_keeps view _ k n (fun l => keeps l l.symerr [] l.badSym) j m).trans
      (s.lane_countSymbolError_keeps view keeps k n sym j m)
  have frame : s.changesOnly u [.lanesets, .links] := by
    rw [← hu]
    exact (State.modLaneset_steps (State.countSymbolError_steps s k n sym) (by decide)).1
  have free : u.freeSpare k = s.freeSpare k :=
    State.freeSpare_congr (by rw [link]) (State.rxLanes_congr (frame .fuses (by decide)) (lanes Lane.detected fun _ _ _ _ => rfl) k)
      fun m _ _ => lanes Lane.lost (fun _ _ _ _ => rfl) k m
  have run : symbolError s k n sym = u.laneLost k n := by
    rw [symbolError_of_active sym key active lane awake, if_neg many, hu]
    exact if_pos kind
  obtain ⟨state, lost, first, tries, since⟩ := State.laneLost_of_spare (s := u) (k := k) (n := n)
    (by rw [lanes Lane.lost fun _ _ _ _ => rfl, well]) (by rw [link]; exact carried) (by rw [link]; exact idle) (by rw [free, spare])
  rw [run, state, lost, first, tries, since]
  refine ⟨?_, rfl, rfl, rfl, frame .now (by decide)⟩
  rw [← hu, State.laneset_modLane, State.laneset_countSymbolError]
  rfl

/-! ### Drift (09 R232) -/

section
variable {s : State} {k n d : Nat} (key : s.hasKey k = true) (lane : n < laneCount k) (aligned : ((s.laneset k).lane n).flag fAligned = true)
  (up : (s.laneset k).state = .lock ∨ (s.laneset k).state = .caps ∨ (s.laneset k).state = .active)
include key lane aligned up

/-- An aligned lane's elastic buffer takes a drift of up to three symbols, and fails at more. -/
theorem laneDrift_of_aligned : laneDrift s k n d = if d ≤ 3 then s.modLane k n fun l => { l with fill := 4 + d } else s.laneFaultOf k 7 [n] := by
  have runs : ((s.laneset k).state == .lock || (s.laneset k).state == .caps || (s.laneset k).state == .active) = true := by
    simpa [or_assoc] using up
  unfold laneDrift
  exact if_neg (by simp [key, lane, aligned, runs])

end

end Sys2Proof.Machine

open Sys2Proof Sys2Proof.Machine

/-- Settles O27: what an error leaves until the sixteenth, and what that one begins; a fault is counted once whether the set comes to rest in FAULT or in
    OFF; a flip changes only its count; a checker's lock is a bit of its lane. -/
theorem laneErrorsAndTests : Obligations.laneErrorsAndTests := by
  unfold Obligations.laneErrorsAndTests
  refine ⟨?counted, ?lost, ?repaired, ?drift, ?slip, ?again, ?failed, ?flip, ?idle, ?lock, ?unlock, ?checks⟩
  case counted =>
    rintro s k n sym ⟨key, active, lane, awake, few⟩
    refine ⟨symbolError s k n sym, rfl, ?_⟩
    rw [symbolError_of_active sym key active lane awake, if_pos (by rw [State.length_recentErrors]; omega), State.laneset_countSymbolError,
      LaneSet.lane_modLane]
    exact ⟨rfl, rfl, rfl⟩
  case lost =>
    rintro s k n sym ⟨key, kind, active, lane, awake, many⟩
    obtain ⟨state, cause, faults⟩ := symbolError_ends_active sym key kind active lane awake (by rw [State.length_recentErrors]; omega)
    exact ⟨symbolError s k n sym, rfl, state, faults, cause⟩
  case repaired =>
    rintro s k n sym ⟨key, kind, active, lane, awake, well, carried, idle, spare, many⟩
    exact ⟨symbolError s k n sym, rfl,
      symbolError_begins_repair sym key kind active lane awake well carried idle spare (by rw [State.length_recentErrors]; omega)⟩
  case drift =>
    rintro s k n d ⟨key, lane, aligned, up, small⟩
    refine ⟨_, congrArg Host.Outcome.next ((laneDrift_of_aligned key lane aligned up).trans (if_pos small)), ?_⟩
    rw [State.laneset_modLane, LaneSet.lane_modLane]
    exact ⟨rfl, rfl⟩
  case slip =>
    rintro s k n d ⟨key, lane, aligned, up, large⟩
    refine ⟨_, congrArg Host.Outcome.next ((laneDrift_of_aligned key lane aligned up).trans (if_neg (Nat.not_le.mpr large))), ?_⟩
    obtain ⟨rest, cause, faults⟩ := State.laneset_laneFaultOf (s := s) (k := k) (cause := 7) [n]
      (by rcases up with h | h | h <;> rw [h] <;> decide) (by rcases up with h | h | h <;> rw [h] <;> decide) (by decide)
    exact ⟨cause, faults, rest⟩
  case again =>
    rintro s k ⟨key, active, repairing, due, tries, spare⟩
    refine ⟨s.sendRpr k ((s.link k).rprTry + 1), congrArg Host.Outcome.next ?_, ?_⟩
    · dsimp only
      rw [if_pos ⟨key, active, repairing, due⟩, if_pos tries]
    · obtain ⟨link, state, -⟩ := State.sendRpr_of_spare ((s.link k).rprTry + 1) repairing spare
      exact ⟨link, state.trans active⟩
  case failed =>
    rintro s k ⟨key, active, repairing, due, ends⟩
    refine ⟨s.laneFault k 10, congrArg Host.Outcome.next ?_, ?_⟩
    · dsimp only
      rw [if_pos ⟨key, active, repairing, due⟩]
      split
      · next tries => exact State.sendRpr_of_no_spare _ (ends.resolve_left (Nat.not_le.mpr tries))
      · rfl
    · exact State.laneset_laneFault_of_up (.inl active) (by decide)
  case flip =>
    rintro s k n ⟨key, may, on, due⟩
    refine ⟨_, congrArg Host.Outcome.next (if_pos ⟨key, may, on, due⟩), ?_⟩
    have flipped := State.injection_flipBit (s.modLane k n fun l =>
      { l with injAt := ((s.laneset k).lane n).injAt + (s.laneset k).psOfBits k (2 ^ ((s.laneset k).lane n).injN.toNat) }) k n
    rw [State.laneset_modLane, LaneSet.lane_modLane] at flipped
    exact ⟨congrArg (·.2.2) flipped, congrArg (·.2.1) flipped⟩
  case idle =>
    rintro s k n on ⟨key, kind, lane⟩
    refine ⟨_, congrArg Host.Outcome.next (if_pos ⟨key, kind, lane⟩), ?_⟩
    rw [State.laneset_modLane, LaneSet.lane_modLane]
    refine ⟨rfl, ?_⟩
    unfold LaneSet.userLp1 LaneSet.laneActive
    rw [LaneSet.lane_modLane, kind]
    rfl
  case lock =>
    rintro s k n bits ⟨checks, free, follows⟩
    refine ⟨_, congrArg Host.Outcome.next (if_pos ⟨checks, by simp [free], follows⟩), ?_⟩
    rw [State.laneset_modLane, LaneSet.lane_modLane]
    exact ⟨Lane.flag_setFlag _ true (by decide), rfl, rfl⟩
  case unlock =>
    rintro s k n wrong ⟨checks, locked, many⟩
    refine ⟨_, congrArg Host.Outcome.next (if_pos ⟨checks, locked⟩), ?_⟩
    rw [State.laneset_modLane, LaneSet.lane_modLane]
    dsimp only
    rw [if_pos many]
    exact ⟨Lane.flag_setFlag _ false (by decide), rfl, rfl⟩
  case checks =>
    rintro s k n wrong ⟨checks, locked, few⟩
    refine ⟨_, congrArg Host.Outcome.next (if_pos ⟨checks, locked⟩), ?_⟩
    rw [State.laneset_modLane, LaneSet.lane_modLane]
    dsimp only
    rw [if_neg (Nat.not_le.mpr few)]
end

section
/-! PROOFS. Lane PHY, part 5: low power of links. EIA received by an ACTIVE link end whose partner enters ACTIVE in the same command
(08 R222, R227; 09 R240, R246). -/

open Sys2Proof
namespace Sys2Proof.Machine

/-- A VIOLATED flow with KEEP_AWAKE from bay 3 of F-die 0 to bay 0 of F-die 2, whose path crosses the link of site 0. -/
def violatedKeeper : Flow := { used := true, violated := true, keep := true, mid := 0x003, cls := .pwr, base := 0x420000000000, len := 63 }

/-- The end of that link on F-die 0 is ACTIVE; its partner, end 40, is in CAPS with its eight CAK each way, has its transmitter in LP1 and an EIA set
    to send on lane 0. -/
def partnerInCaps : State :=
  ((State.reset.modLaneset 0 fun x => { x with state := .active }).modLaneset 40 fun x =>
    { x with state := .caps, cakSent := 8, cakGot := 8, txLp1 := true, lanes := [(0, { detected := true })],
             setQ := [{ typ := 0x96, payload := List.replicate 8 0, lanes := [0] }] }).modFlow 1 fun _ => violatedKeeper

/-- End 0 receives the EIA on lane 0, in ACTIVE and not in LP2. -/
theorem partnerInCaps_sends_eia : partnerInCaps.hasKey 0 = true ∧ laneKind 0 ≠ 2 ∧ 0 < laneCount 0 ∧ (partnerInCaps.rxLanes 0).contains 0 = true ∧
    (partnerInCaps.receivedSet 0 0 none).map (·.2) = some (some (setSyms setEia 0 0 [])) ∧ setGood (setSyms setEia 0 0 []) = true ∧
    (partnerInCaps.laneset 0).state = .active ∧ (partnerInCaps.laneset 0).lp2 = false ∧ ((setSyms setEia 0 0 []).getD 1 0).toNat = setEia := by
  decide +kernel

/-- The partner enters ACTIVE, the flow is decided again, and its link is woken: the transmitter of end 40 leaves LP1 with the receiver of end 0. -/
theorem rxLp1_partnerInCaps : ((orderedSet partnerInCaps 0 0 none true 0).laneset 0).rxLp1 = false := by decide +kernel

end Sys2Proof.Machine

open Sys2Proof Sys2Proof.Machine

/-- Refutes O28, in its seventh clause, which asks nothing of the partner: an EIA set received in ACTIVE puts the receiver in LP1, but where the partner
    enters ACTIVE in the same command, the flows are decided again, and one with KEEP_AWAKE wakes the link at once. -/
theorem not_laneLowPower : ¬ Obligations.laneLowPower := by
  rintro ⟨-, -, -, -, -, -, eiaReceived, -⟩
  obtain ⟨t, run, lp1, -⟩ := eiaReceived partnerInCaps 0 0 0 none _ true partnerInCaps_sends_eia
  rw [← Host.Outcome.next.inj run, rxLp1_partnerInCaps] at lp1
  cases lp1
end

section
/-! PROOFS. Eoset links, part 1: what a frame slot between two dies sends, the timers of a link, and the statement about them (10 R258 to R262, R282). -/

open Sys2Proof
namespace Sys2Proof.Machine

/-! ### What the other end is -/

/-- What a link end faces is a fact of the part. -/
theorem State.facing_of_fuses_eq {s t : State} (h : t.fuses = s.fuses) (k : Nat) : t.facing k = s.facing k := by
  unfold State.facing State.dieSite State.fdies
  rw [h]

theorem State.inside_of_fuses_eq {s t : State} (h : t.fuses = s.fuses) (k : Nat) : t.inside k = s.inside k := by
  unfold State.inside State.partner
  rw [State.facing_of_fuses_eq h]

/-- A die of the package is no guest. -/
theorem State.guestOf_of_inside {s : State} {k : Nat} (h : s.inside k = true) : s.guestOf k = none := by
  unfold State.inside State.partner at h
  unfold State.guestOf
  cases facing : s.facing k with
  | guestSite g => rw [facing] at h; cases h
  | _ => rfl

/-! ### Frames put on the lanes between two dies (10 R258 to R262) -/

theorem State.putWire_of_inside {s : State} {k : Nat} (f : Frame) (h : s.inside k = true) : s.putWire k f = s.modLink k fun e =>
    { e with txFrames := e.txFrames + 1, wire := e.wire ++ [f], ackDue := false, idleTx := if f.ftype = 0 then e.idleTx else s.now } := by
  unfold State.putWire
  simp only [h, if_true]

/-- A sequenced frame with its SEQ, its ACK and the credits that wait (10 R260, R262). -/
def LinkEnd.numbered (e : LinkEnd) (f : Frame) : Frame :=
  { f with seq := e.nextSeq, ack := e.lastAcc, cvc := BitVec.ofNat 3 e.creditsOut.1, ccnt := BitVec.ofNat 4 e.creditsOut.2 }

/-- A link end after a sequenced frame has left that is in no encrypted group: it holds the frame until it is acknowledged. -/
def LinkEnd.sent (e : LinkEnd) (f : Frame) (now : Nat) : LinkEnd :=
  { e with nextSeq := e.nextSeq + 1, held := e.held ++ [e.numbered f], heldAt := if e.held = [] then now else e.heldAt,
           pendRet := tmod 0 e.pendRet e.creditsOut.1 (· - e.creditsOut.2), tagGroupTx := [], txFrames := e.txFrames + 1,
           wire := e.wire ++ [e.numbered f], ackDue := false, idleTx := if f.ftype = 0 then e.idleTx else now }

theorem State.sendSeq_of_inside {s : State} {k : Nat} (f : Frame) (h : s.inside k = true) (plain : (s.link k).encrypted = false) :
    (s.sendSeq k f).link k = (s.link k).sent f s.now := by
  have inside (g : LinkEnd → LinkEnd) : (s.modLink k g).inside k = true := h
  unfold State.sendSeq State.sealed
  simp only [h, plain, if_true, Bool.false_and, Bool.false_eq_true, if_false, ite_self]
  rw [State.putWire_of_inside _ (inside _), State.link_modLink, State.link_modLink]
  rfl

/-! ### The frame a slot takes (10 R258) -/

theorem State.pickFrame_of_nak {s : State} {k : Nat} (due : (s.link k).nakDue = true) : s.pickFrame k =
    (s.modLink k fun e => { e with nakDue := false, nakOut := true, nakAt := s.now, nakTx := satInc e.nakTx }).putWire k ((s.link k).plain 3) :=
  if_pos due

section
variable {s : State} {k : Nat} (quiet : (s.link k).nakDue = false) (fresh : (s.link k).replayQ = []) (plain : (s.link k).encrypted = false)
include quiet fresh plain

/-- With no NAK, replay or link message due, the next flit of a link between two dies goes. -/
theorem State.pickFrame_of_flit {f : Frame} {rest : List Frame} (inside : s.inside k = true) (message : (s.link k).lmsgDue = [])
    (flit : (s.link k).outq = f :: rest) (room : (s.link k).held.length < 256) :
    s.pickFrame k = (s.modLink k fun e => { e with outq := rest }).sendSeq k { f with ftype := 1 } := by
  have cross : (s.modLink k fun e => { e with outq := rest }).guestCross k f = s.modLink k fun e => { e with outq := rest } := by
    unfold State.guestCross
    rw [State.guestOf_of_inside (s := s.modLink k _) inside]
  unfold State.pickFrame
  simp [quiet, fresh, plain, message, State.guestOf_of_inside inside, flit, room, cross]

/-- A link message goes before any flit; a DOWN is marked sent. -/
theorem State.pickFrame_of_message {b : List (BitVec 8)} {rest : List (List (BitVec 8))} (message : (s.link k).lmsgDue = b :: rest)
    (good : (s.link k).gcapBad = false) (room : (s.link k).held.length < 256) : s.pickFrame k =
      (s.modLink k fun e => { e with lmsgDue := rest, downSent := if b.head? = some 3 then some s.now else e.downSent }).sendSeq k
        { ftype := 5, body := b } := by
  unfold State.pickFrame
  simp [quiet, fresh, plain, message, good, room]

/-- With nothing due an IDLE frame goes. -/
theorem State.pickFrame_of_idle (message : (s.link k).lmsgDue = []) (flit : (s.link k).outq = []) (credits : (s.link k).creditsOut.2 = 0)
    (group : (s.link k).tagGroupTx = []) : s.pickFrame k = s.putWire k ((s.link k).plain 0) := by
  unfold State.pickFrame
  simp [quiet, fresh, plain, message, flit, credits, group]

end

theorem State.noteStalls_of_inside {s : State} {k : Nat} (h : s.inside k = true) : s.noteStalls k = s := if_pos h

/-- A frame slot of a link between two dies, with no answer of its own to send. -/
theorem frameSlot_of_inside {s : State} {k : Nat} (key : s.hasKey k = true) (kind : laneKind k ≠ 2) (sends : (s.laneset k).sends = true)
    (inside : s.inside k = true) (answers : (s.link k).answers = []) : frameSlot s k = s.pickFrame k := by
  have orphan : s.dropOrphan k = s := by
    unfold State.dropOrphan
    rw [State.guestOf_of_inside inside]
  have answer : s.queueAnswer k = s := by
    unfold State.queueAnswer
    rw [answers]
  have fuses := (State.pickFrame_steps (k := k) (Steps.refl _ s) (fun _ h => h)).1 .fuses (by decide)
  unfold frameSlot
  rw [if_pos ⟨key, kind, sends⟩, orphan, answer, State.noteStalls_of_inside (by rw [State.inside_of_fuses_eq fuses, inside])]

/-! ### Replays (10 R261) -/

/-- A link end whose replay starts from the oldest frame held. -/
def LinkEnd.replays (e : LinkEnd) (now : Nat) : LinkEnd :=
  { e with replayQ := e.held, replay := satInc e.replay, replayRun := e.replayRun + 1, heldAt := now }

theorem State.startReplay_eq (s : State) (k : Nat) : s.startReplay k =
    if (s.link k).replayRun < 7 then s.modLink k fun e => e.replays s.now else (s.modLink k fun e => e.replays s.now).laneFault k 10 := by
  have run : ((s.modLink k fun e => e.replays s.now).link k).replayRun = (s.link k).replayRun + 1 := by rw [State.link_modLink]; rfl
  unfold State.startReplay
  change (if 8 ≤ ((s.modLink k fun e => e.replays s.now).link k).replayRun then _ else _) = _
  rw [run]
  by_cases few : (s.link k).replayRun < 7
  · rw [if_pos few, if_neg (by omega)]; rfl
  · rw [if_neg few, if_pos (by omega)]; rfl

theorem State.active_of_linkUp {s : State} {k : Nat} (h : s.linkUp k = true) : (s.laneset k).state = .active := by
  unfold State.linkUp at h
  simp only [Bool.and_eq_true, beq_iff_eq] at h
  exact h.2

end Sys2Proof.Machine

open Sys2Proof Sys2Proof.Machine

/-- Settles O29: between two dies a slot is what it takes and what that puts on the wire; a timer marks what is due again, and the eighth replay in a
    row, like a stalled packet, is a FAULT of an ACTIVE set. -/
theorem linkFramesSent : Obligations.linkFramesSent := by
  unfold Obligations.linkFramesSent
  refine ⟨?nak, ?flit, ?idle, ?again, ?replay, ?eighth, ?stalled⟩
  case nak =>
    rintro s k ⟨key, kind, sends, inside, answers, due⟩
    refine ⟨_, congrArg Host.Outcome.next (frameSlot_of_inside key kind sends inside answers), ?_⟩
    rw [State.pickFrame_of_nak due, State.putWire_of_inside (s := s.modLink k _) _ inside, State.link_modLink, State.link_modLink]
    exact ⟨rfl, rfl, rfl, rfl, rfl, rfl⟩
  case flit =>
    rintro s k f rest ⟨key, kind, sends, inside, answers, quiet, fresh, plain, message, flit, room⟩
    refine ⟨_, congrArg Host.Outcome.next (frameSlot_of_inside key kind sends inside answers), ?_⟩
    rw [State.pickFrame_of_flit quiet fresh plain inside message flit room,
      State.sendSeq_of_inside (s := s.modLink k _) _ inside (by rw [State.link_modLink]; exact plain), State.link_modLink]
    exact ⟨rfl, rfl, rfl, rfl⟩
  case idle =>
    rintro s k ⟨key, kind, sends, inside, answers, quiet, fresh, plain, message, flit, credits, group⟩
    refine ⟨_, congrArg Host.Outcome.next (frameSlot_of_inside key kind sends inside answers), ?_⟩
    rw [State.pickFrame_of_idle quiet fresh plain message flit credits group, State.putWire_of_inside _ inside, State.link_modLink]
    exact ⟨rfl, rfl, rfl, (State.modLink_steps (Steps.refl [.links] s) (by decide)).1⟩
  case again =>
    rintro s k ⟨up, out, late⟩
    refine ⟨_, congrArg Host.Outcome.next (if_pos ⟨up, out, late⟩), State.link_modLink .., ?_⟩
    exact (State.modLink_steps (Steps.refl [.links] s) (by decide)).1
  case replay =>
    rintro s k ⟨up, held, late, few⟩
    refine ⟨_, congrArg Host.Outcome.next (if_pos ⟨up, held, late⟩), ?_⟩
    rw [State.startReplay_eq, if_pos few, State.link_modLink]
    exact ⟨(State.modLink_steps (Steps.refl [.links] s) (by decide)).1, rfl⟩
  case eighth =>
    rintro s k ⟨up, held, late, many⟩
    refine ⟨_, congrArg Host.Outcome.next (if_pos ⟨up, held, late⟩), ?_⟩
    rw [State.startReplay_eq, if_neg (Nat.not_lt.mpr many)]
    exact State.laneset_laneFault_of_up (s := s.modLink k _) (.inl (State.active_of_linkUp up)) (by decide)
  case stalled =>
    rintro s k v ⟨up, outside, vc, since, stalled, late⟩
    have waits : ((List.range 8).any fun v => tget 0 (s.link k).stallAt v != 0 && s.stalled k v &&
        decide (tget 0 (s.link k).stallAt v - 1 + 100 * psUs ≤ s.now)) = true :=
      List.any_eq_true.mpr ⟨v, List.mem_range.mpr vc, by simp [since, stalled, late]⟩
    refine ⟨_, congrArg Host.Outcome.next (if_pos ⟨up, by simp [outside], waits⟩), ?_⟩
    exact State.laneset_laneFault_of_up (.inl (State.active_of_linkUp up)) (by decide)
end

section
/-! PROOFS. Eoset links, part 2: what receiving a frame does, and the statement about it (09 R243; 10 R255, R258, R260, R264). -/

open Sys2Proof
namespace Sys2Proof.Machine

/-! ### Frames good and bad (10 R258, R260) -/

/-- An acknowledgement releases the frames it covers, and leaves alone all of a link end but its retry buffer and the replay out of it. -/
theorem State.link_takeAck (s : State) (k : Nat) (a : BitVec 10) : ∃ queue since run, (s.takeAck k a).link k =
    { s.link k with held := (s.link k).held.filter fun h => !covers a h.seq, replayQ := queue, heldAt := since, replayRun := run } := by
  unfold State.takeAck
  dsimp only
  split
  · next all => exact ⟨_, _, _, by rw [List.length_filter_eq_length_iff.mp all |> List.filter_eq_self.mpr]⟩
  · exact ⟨_, _, _, State.link_modLink ..⟩

theorem State.link_takeAck_other (s : State) {k j : Nat} (a : BitVec 10) (h : j ≠ k) : (s.takeAck k a).link j = s.link j := by
  unfold State.takeAck
  dsimp only
  split
  · rfl
  · exact State.link_modLink_other _ _ h

/-- A good frame is counted and its ACK taken. -/
def State.acked (s : State) (k : Nat) (f : Frame) : State := (s.modLink k fun e => { e with rxFrames := e.rxFrames + 1 }).takeAck k f.ack

theorem State.link_acked (s : State) (k : Nat) (f : Frame) : ∃ queue since run, (s.acked k f).link k =
    { s.link k with rxFrames := (s.link k).rxFrames + 1, held := (s.link k).held.filter fun h => !covers f.ack h.seq, replayQ := queue,
                    heldAt := since, replayRun := run } := by
  obtain ⟨queue, since, run, link⟩ := (s.modLink k fun e => { e with rxFrames := e.rxFrames + 1 }).link_takeAck k f.ack
  exact ⟨queue, since, run, by rw [State.acked, link, State.link_modLink]⟩

theorem State.link_acked_other (s : State) {k j : Nat} (f : Frame) (h : j ≠ k) : (s.acked k f).link j = s.link j := by
  rw [State.acked, State.link_takeAck_other _ _ h, State.link_modLink_other _ _ h]

theorem State.acked_frame (s : State) (k : Nat) (f : Frame) : s.changesOnly (s.acked k f) [.links] :=
  (State.takeAck_steps (State.modLink_steps (Steps.refl [.links] s) (by decide)) (by decide)).1

/-- A sequenced frame is accepted in its place, left alone when it came before, and else asks for a NAK. -/
theorem State.goodFrame_of_sequenced (s : State) (k : Nat) {f : Frame} (type : seqType f.ftype.toNat = true) : s.goodFrame k f =
    if f.seq = (s.link k).expSeq then (s.acked k f).accept k f
    else if ((s.link k).expSeq - f.seq).toNat ≤ 256 then s.acked k f
    else (s.acked k f).wantNak k := by
  obtain ⟨_, _, _, link⟩ := s.link_acked k f
  have notNak : f.ftype ≠ 3 := by rintro nak; rw [nak] at type; exact absurd type (by decide)
  have exp : ((s.acked k f).link k).expSeq = (s.link k).expSeq := by rw [link]
  unfold State.goodFrame
  rw [if_neg notNak, if_neg (by simp [type])]
  change (if f.seq = ((s.acked k f).link k).expSeq then _ else if (((s.acked k f).link k).expSeq - f.seq).toNat ≤ 256 then _ else _) = _
  rw [exp]
  rfl

/-- An IDLE frame is counted and its ACK taken. -/
theorem State.goodFrame_of_idle (s : State) (k : Nat) {f : Frame} (type : f.ftype = 0) : s.goodFrame k f = s.acked k f := by
  unfold State.goodFrame
  rw [type]
  rfl

theorem State.link_badFrame (s : State) (k : Nat) (sequenced : Bool) : (s.badFrame k sequenced).link k =
    { s.link k with crcErr := satInc (s.link k).crcErr,
                    nakDue := if sequenced then (s.link k).nakDue || !(s.link k).nakOut else (s.link k).nakDue } := by
  cases sequenced
  · exact State.link_modLink ..
  · exact (State.link_modLink ..).trans (by rw [State.link_modLink]; rfl)

theorem State.link_badFrame_other (s : State) {k j : Nat} (sequenced : Bool) (h : j ≠ k) : (s.badFrame k sequenced).link j = s.link j := by
  cases sequenced
  · exact State.link_modLink_other _ _ h
  · exact (State.link_modLink_other _ _ h).trans (State.link_modLink_other _ _ h)

/-! ### Credits (10 R262, R264) -/

/-- Credits that are held elsewhere come back: no more of the link ends and nothing of the lane sets changes. -/
theorem State.takeCredits_of_spent {s : State} {k v n : Nat} (h : n ≤ tget 0 (s.link k).spent v) : ∃ spent,
    (s.takeCredits k v n).link k = { s.link k with spent := spent } ∧ tget 0 spent v = tget 0 (s.link k).spent v - n ∧
    (∀ j, j ≠ k → (s.takeCredits k v n).link j = s.link j) ∧ (s.takeCredits k v n).lanesets = s.lanesets := by
  unfold State.takeCredits
  split
  · next none => exact ⟨_, rfl, by rw [none]; rfl, fun _ _ => rfl, rfl⟩
  rw [if_neg (Nat.not_lt.mpr h)]
  have back : (s.modLink k fun e => { e with spent := tmod 0 e.spent v (· - n) }).link k =
      { s.link k with spent := tmod 0 (s.link k).spent v (· - n) } := State.link_modLink ..
  have others (j : Nat) (other : j ≠ k) := State.link_modLink_other s (fun e => { e with spent := tmod 0 e.spent v (· - n) }) other
  dsimp only
  split
  · exact ⟨_, back, tget_tmod_same .., others, rfl⟩
  · exact ⟨_, back, tget_tmod_same .., others, rfl⟩

/-- A CREDIT frame in its place: it is acknowledged next, the next SEQ is expected, and its credits are taken. -/
theorem State.accept_of_credit {s : State} {k : Nat} {f : Frame} (type : f.ftype = 2) (active : (s.laneset k).state = .active)
    (plain : (s.link k).encrypted = false) (h : f.ccnt.toNat ≤ tget 0 (s.link k).spent f.cvc.toNat) : ∃ spent,
    (s.accept k f).link k = { s.link k with expSeq := (s.link k).expSeq + 1, lastAcc := f.seq, nakOut := false, nakDue := false, ackDue := true,
                                            spent := spent } ∧
    tget 0 spent f.cvc.toNat = tget 0 (s.link k).spent f.cvc.toNat - f.ccnt.toNat ∧
    (∀ j, j ≠ k → (s.accept k f).link j = s.link j) ∧ ((s.accept k f).laneset k).state = .active := by
  generalize hu : (s.modLink k fun e =>
    { e with expSeq := e.expSeq + 1, lastAcc := f.seq, nakOut := false, nakDue := false, ackDue := true }) = u
  have link : u.link k =
      { s.link k with expSeq := (s.link k).expSeq + 1, lastAcc := f.seq, nakOut := false, nakDue := false, ackDue := true } := by
    rw [← hu, State.link_modLink]
  have sets : u.lanesets = s.lanesets := by rw [← hu]; rfl
  obtain ⟨spent, taken, rest, others, same⟩ := State.takeCredits_of_spent (s := u) (k := k) (v := f.cvc.toNat) (n := f.ccnt.toNat) (by rw [link]; exact h)
  have up : ((u.takeCredits k f.cvc.toNat f.ccnt.toNat).laneset k).state = .active := by
    rw [State.laneset_of_lanesets_eq (same.trans sets), active]
  have run : s.accept k f = u.takeCredits k f.cvc.toNat f.ccnt.toNat := by
    unfold State.accept
    dsimp only
    rw [hu, if_neg (not_not.mpr up), if_neg (by rw [taken, link]; simp [plain])]
    unfold State.deliver
    rw [type]
    rfl
  rw [run, taken, link]
  refine ⟨spent, rfl, rest.trans (by rw [link]), fun j other => ?_, up⟩
  rw [others j other, ← hu, State.link_modLink_other _ _ other]

/-! ### Frames from a die of the package (10 R258; 09 R243) -/

section
variable {s : State} {k : Nat} (key : s.hasKey k = true) (kind : laneKind k ≠ 2) (active : (s.laneset k).state = .active)
  (awake : (s.laneset k).rxLp1 = false) (up : (s.laneset k).lp2 = false)
include key kind active awake up

/-- The oldest frame on the partner's wire is received. -/
theorem frameReceive_of_wire {j : Nat} {f : Frame} {rest : List Frame} (partner : s.partner k = some j) (wire : (s.link j).wire = f :: rest) :
    frameReceive s k none = (s.modLink j fun e => { e with wire := rest }).frameSent k f := by
  have taken : s.takeWire k = some (f, s.modLink j fun e => { e with wire := rest }) := by
    unfold State.takeWire
    rw [partner]
    dsimp only
    rw [wire]
  unfold frameReceive
  rw [if_neg (by simp [key, kind, active, awake, up])]
  dsimp only
  rw [taken]

/-- From outside the package the code groups of the lanes are read. -/
theorem frameReceive_of_groups {gs : List (List (BitVec 10))} (partner : s.partner k = none) :
    frameReceive s k (some gs) = s.frameRead k gs none := by
  have taken : s.takeWire k = none := by
    unfold State.takeWire
    rw [partner]
  unfold frameReceive
  rw [if_neg (by simp [key, kind, active, awake, up])]
  dsimp only
  rw [taken]

end

/-- A frame taken off the wire of another link end, with the mark of a bad symbol cleared and the instant kept. -/
def State.offWire (s : State) (k j : Nat) (f : Frame) (rest : List Frame) : State :=
  (s.modLink j fun e => { e with wire := rest }).modLink k fun e => { e with symBad := false, rxAt := if f.ftype = 0 then e.rxAt else s.now }

section
variable (s : State) {k j : Nat} (f : Frame) (rest : List Frame) (other : j ≠ k)
include other

theorem State.frameSent_of_wire : (s.modLink j fun e => { e with wire := rest }).frameSent k f =
    if (s.link k).symBad then (s.offWire k j f rest).badFrame k (seqType f.ftype.toNat) else (s.offWire k j f rest).goodFrame k f := by
  unfold State.frameSent
  rw [State.link_modLink_other _ _ other.symm]
  rfl

theorem State.link_offWire : (s.offWire k j f rest).link k =
    { s.link k with symBad := false, rxAt := if f.ftype = 0 then (s.link k).rxAt else s.now } := by
  rw [State.offWire, State.link_modLink, State.link_modLink_other _ _ other.symm]

theorem State.link_offWire_partner : (s.offWire k j f rest).link j = { s.link j with wire := rest } := by
  rw [State.offWire, State.link_modLink_other _ _ other, State.link_modLink]

end

/-! ### Symbols of a frame from outside the package (09 R230, R243; 10 R255) -/

/-- What a link end has received: good frames, bad ones, and the SEQ it expects next. -/
def LinkEnd.received (e : LinkEnd) : BitVec 48 × BitVec 32 × BitVec 10 := (e.rxFrames, e.crcErr, e.expSeq)

/-- What happens to a set that is ACTIVE afterwards: it was ACTIVE before, and its link has received neither frame nor error. -/
structure State.staysUp (s t : State) (k : Nat) : Prop where
  kept : (t.laneset k).state = .active → (s.laneset k).state = .active ∧ (t.link k).received = (s.link k).received

theorem State.staysUp_refl (s : State) (k : Nat) : s.staysUp s k := ⟨fun up => ⟨up, rfl⟩⟩

theorem State.staysUp.trans {s t u : State} {k : Nat} (h : s.staysUp t k) (h' : t.staysUp u k) : s.staysUp u k := by
  refine ⟨fun up => ?_⟩
  obtain ⟨before, same⟩ := h'.kept up
  obtain ⟨first, same'⟩ := h.kept before
  exact ⟨first, same.trans same'⟩

theorem State.staysUp_foldl {A B : Type} {k : Nat} (state : B → State) (f : B → A → B) (step : ∀ b a, (state b).staysUp (state (f b a)) k) (l : List A)
    (b : B) : (state b).staysUp (state (l.foldl f b)) k := by
  induction l generalizing b with
  | nil => exact State.staysUp_refl _ k
  | cons a l ih => exact (step b a).trans (ih (f b a))

/-- Another state of a lane does not end ACTIVE. -/
theorem State.staysUp_modLane (s : State) (k n : Nat) (f : Lane → Lane) : s.staysUp (s.modLane k n f) k :=
  ⟨fun up => ⟨by rw [State.laneset_modLane] at up; exact up, rfl⟩⟩

/-- A FAULT of an ACTIVE set leaves it down. -/
theorem State.staysUp_laneFault {s : State} {k cause : Nat} (active : (s.laneset k).state = .active) (reference : cause ≠ 9) :
    s.staysUp (s.laneFault k cause) k :=
  ⟨fun up => absurd up (State.laneset_laneFault_of_up (.inl active) reference).1⟩

theorem State.staysUp_sendRpr {s : State} {k : Nat} (attempt : Nat) (active : (s.laneset k).state = .active) :
    s.staysUp (s.sendRpr k attempt) k := by
  unfold State.sendRpr
  split
  · refine ⟨fun _ => ⟨active, ?_⟩⟩
    rw [State.link_of_links_eq (State.sendSet_keeps ..).1, State.link_modLink]
    rfl
  · exact State.staysUp_laneFault active (by decide)

theorem State.staysUp_laneLost {s : State} {k : Nat} (n : Nat) (active : (s.laneset k).state = .active) : s.staysUp (s.laneLost k n) k := by
  have lost := s.staysUp_modLane k n fun l => { l with lost := true }
  have state : ((s.modLane k n fun l => { l with lost := true }).laneset k).state = .active := by rw [State.laneset_modLane]; exact active
  have joined (u : State) (up : (u.laneset k).state = .active) : u.staysUp (u.modLink k fun e => { e with repairing := e.repairing ++ [n] }) k :=
    ⟨fun _ => ⟨up, by rw [State.link_modLink]; rfl⟩⟩
  unfold State.laneLost
  dsimp only
  split
  · exact State.staysUp_refl s k
  split
  · exact lost
  split
  · exact lost.trans (joined _ state)
  · exact (lost.trans (joined _ state)).trans (State.staysUp_sendRpr 1 (by rw [State.laneset_of_lanesets_eq (State.modLink_lanesets ..)]; exact state))

theorem State.staysUp_loseLane {s : State} {k : Nat} (n : Nat) (active : (s.laneset k).state = .active) : s.staysUp (s.loseLane k n) k := by
  unfold State.loseLane
  split
  · exact State.staysUp_laneLost n active
  · exact (s.staysUp_modLane k n _).trans (State.staysUp_laneFault (by rw [State.laneset_modLane]; exact active) (by decide))

/-- On a link a lane reads ACTIVE with its set (09 R241). -/
theorem LaneSet.active_of_laneActive {x : LaneSet} {k n : Nat} (kind : laneKind k ≠ 2) (h : x.laneActive k n = true) : x.state = .active := by
  unfold LaneSet.laneActive at h
  simp only [Bool.and_eq_true, Bool.or_eq_true, beq_iff_eq, kind, false_and, or_false] at h
  exact h.2

theorem State.staysUp_countSymbolError (s : State) {k : Nat} (n sym : Nat) (kind : laneKind k ≠ 2) : s.staysUp (s.countSymbolError k n sym) k := by
  refine ⟨fun up => ?_⟩
  rw [State.laneset_countSymbolError] at up
  exact ⟨up, by rw [State.link_countSymbolError _ _ _ kind]; rfl⟩

/-- A symbol error is no error of a frame yet; one that costs the last spare ends ACTIVE. -/
theorem staysUp_symbolError (s : State) {k : Nat} (n sym : Nat) (kind : laneKind k ≠ 2) : s.staysUp (symbolError s k n sym) k := by
  have counted := s.staysUp_countSymbolError n sym kind
  rw [symbolError_eq]
  split
  · exact State.staysUp_refl s k
  split
  · exact counted
  · next seen _ =>
    have active : (s.laneset k).state = .active := LaneSet.active_of_laneActive (n := n) kind (by simp only [not_or, not_not] at seen; exact seen.2.1)
    refine (counted.trans (State.staysUp_modLane _ k n _)).trans (State.staysUp_loseLane n ?_)
    rw [State.laneset_modLane, State.laneset_countSymbolError]
    exact active

theorem staysUp_symbolErrors (s : State) {k : Nat} (n : Nat) (kind : laneKind k ≠ 2) (es : List (Option (BitVec 9) × Nat)) :
    s.staysUp (es.foldl (fun (u : State) e => symbolError u k n e.2) s) k := by
  induction es generalizing s with
  | nil => exact State.staysUp_refl s k
  | cons e es ih => exact (staysUp_symbolError s n e.2 kind).trans (ih _)

theorem State.staysUp_rxSyms (s : State) {k : Nat} (n : Nat) (gs : List (BitVec 10)) (kind : laneKind k ≠ 2) : s.staysUp (s.rxSyms k n gs).1 k := by
  unfold State.rxSyms
  exact (s.staysUp_modLane k n _).trans (staysUp_symbolErrors _ n kind _)

/-- Reading the bytes of a frame counts no frame. -/
theorem State.staysUp_rxBytes (s : State) {k : Nat} (gs : List (List (BitVec 10))) (kind : laneKind k ≠ 2) : s.staysUp (s.rxBytes k gs).1 k := by
  unfold State.rxBytes
  refine State.staysUp_foldl (k := k) Prod.fst _ (fun b i => ?_) _ (s, [])
  exact b.1.staysUp_rxSyms _ _ kind

/-! ### Frames from outside the package (10 R255, R258) -/

/-- What the lanes brought, read as a frame unless a symbol was marked bad. -/
def State.heardBytes (s : State) (k : Nat) (gs : List (List (BitVec 10))) : Option (List (BitVec 8)) :=
  if ((s.rxBytes k gs).1.link k).symBad then none else (s.rxBytes k gs).2

/-- The state after the lanes of a frame were read: the mark of a bad symbol is taken, and the instant kept unless an IDLE frame came. -/
def State.heardFrame (s : State) (k : Nat) (gs : List (List (BitVec 10))) : State :=
  (s.rxBytes k gs).1.modLink k fun e =>
    { e with symBad := false,
             rxAt := if (s.heardBytes k gs).any fun b => (readFrame b).ftype == 0 then e.rxAt else (s.rxBytes k gs).1.now }

theorem State.link_heardFrame (s : State) (k : Nat) (gs : List (List (BitVec 10))) : ∃ since,
    (s.heardFrame k gs).link k = { (s.rxBytes k gs).1.link k with symBad := false, rxAt := since } := ⟨_, State.link_modLink ..⟩

theorem State.frameRead_of_active {s : State} {k : Nat} {gs : List (List (BitVec 10))} (active : ((s.rxBytes k gs).1.laneset k).state = .active) :
    s.frameRead k gs none = (s.heardFrame k gs).readIn k (s.heardBytes k gs) Frame.reset.ftype := by
  unfold State.frameRead
  dsimp only
  rw [if_neg (not_not.mpr active), if_neg (by simp)]
  unfold State.heardFrame State.heardBytes
  cases (if ((s.rxBytes k gs).1.link k).symBad = true then none else (s.rxBytes k gs).2) <;> rfl

theorem State.readIn_of_none (s : State) (k : Nat) (ftype : BitVec 4) : s.readIn k none ftype = s.badFrame k (seqType ftype.toNat) := rfl

/-- No body of an IDLE frame is judged behind its encryption. -/
theorem State.plainBad_of_idle (s : State) (k : Nat) {f : Frame} (type : f.ftype = 0) : s.plainBad k f = false := by
  unfold State.plainBad
  simp [type]

theorem State.readIn_of_idle {s : State} {k : Nat} {bs : List (BitVec 8)} (ftype : BitVec 4)
    (good : frameOk bs (readFrame bs) (s.link k).encrypted = true) (type : (readFrame bs).ftype = 0) :
    s.readIn k (some bs) ftype = s.acked k (readFrame bs) := by
  unfold State.readIn
  dsimp only
  rw [if_neg (by simp [good, s.plainBad_of_idle k type]), State.goodFrame_of_idle _ _ type]

/-- 80 bytes whose CRC does not hold are no frame (10 R257). -/
theorem frameOk_of_crc {bs : List (BitVec 8)} (f : Frame) (encrypted : Bool) (crc : crc32c (bytesAt bs 0 76) ≠ BitVec.ofNat 32 (numAt bs 76 4)) :
    frameOk bs f encrypted = false := by
  unfold frameOk
  simp [crc]

theorem State.readIn_of_crc {s : State} {k : Nat} {bs : List (BitVec 8)} (ftype : BitVec 4)
    (crc : crc32c (bytesAt bs 0 76) ≠ BitVec.ofNat 32 (numAt bs 76 4)) :
    s.readIn k (some bs) ftype = s.badFrame k (seqType (readFrame bs).ftype.toNat) :=
  if_pos (.inl (by simp [frameOk_of_crc _ _ crc]))

end Sys2Proof.Machine

open Sys2Proof Sys2Proof.Machine

/-- Settles O30: between two dies by what the frame's mark, type and SEQ select; from outside the package the lanes are read first, which counts nothing on a
    set that is still ACTIVE after it. -/
theorem linkFramesReceived : Obligations.linkFramesReceived := by
  unfold Obligations.linkFramesReceived
  refine ⟨?marked, ?credit, ?old, ?idle, ?crc, ?invalid⟩
  case marked =>
    rintro s k j f rest ⟨key, kind, active, awake, up, partner, other, wire, type, marked⟩
    refine ⟨_, congrArg Host.Outcome.next (frameReceive_of_wire key kind active awake up partner wire), ?_⟩
    have notIdle : f.ftype ≠ 0 := by rintro idle; rw [idle] at type; exact absurd type (by decide)
    rw [State.frameSent_of_wire s f rest other, if_pos marked, type, State.link_badFrame, State.link_badFrame_other _ _ other,
      State.link_offWire _ _ _ other, State.link_offWire_partner _ _ _ other, if_neg notIdle]
    exact ⟨rfl, rfl⟩
  case credit =>
    rintro s k j f rest ⟨key, kind, active, awake, up, partner, other, wire, good, type, next, plain, fits⟩
    refine ⟨_, congrArg Host.Outcome.next (frameReceive_of_wire key kind active awake up partner wire), ?_⟩
    have link := s.link_offWire f rest other
    obtain ⟨queue, since, run, acked⟩ := (s.offWire k j f rest).link_acked k f
    rw [link] at acked
    obtain ⟨spent, taken, left, others, still⟩ := State.accept_of_credit (s := (s.offWire k j f rest).acked k f) (k := k) type
      (by rw [State.laneset_of_lanesets_eq (State.acked_frame _ k f .lanesets (by decide))]; exact active) (by rw [acked]; exact plain)
      (by rw [acked]; exact fits)
    rw [State.frameSent_of_wire s f rest other, if_neg (by simp [good]), State.goodFrame_of_sequenced _ _ (by rw [type]; decide),
      if_pos (by rw [link]; exact next), others j other, State.link_acked_other _ _ other, State.link_offWire_partner _ _ _ other, taken, acked]
    exact ⟨rfl, rfl, rfl, rfl, rfl, rfl, left.trans (by rw [acked]), still⟩
  case old =>
    rintro s k j f rest ⟨key, kind, active, awake, up, partner, other, wire, good, type, apart, old⟩
    refine ⟨_, congrArg Host.Outcome.next (frameReceive_of_wire key kind active awake up partner wire), ?_⟩
    have link := s.link_offWire f rest other
    obtain ⟨queue, since, run, acked⟩ := (s.offWire k j f rest).link_acked k f
    rw [State.frameSent_of_wire s f rest other, if_neg (by simp [good]), State.goodFrame_of_sequenced _ _ type,
      if_neg (by rw [link]; exact apart), if_pos (by rw [link]; exact old), State.link_acked_other _ _ other,
      State.link_offWire_partner _ _ _ other, acked, link]
    exact ⟨rfl, rfl, rfl, rfl, rfl, State.acked_frame _ k f .routers (by decide)⟩
  case idle =>
    rintro s k gs bs ⟨key, kind, active, awake, up, outside, bytes, still, clean, good, type⟩
    refine ⟨_, congrArg Host.Outcome.next (frameReceive_of_groups key kind active awake up outside), ?_⟩
    obtain ⟨-, same⟩ := (s.staysUp_rxBytes gs kind).kept still
    simp only [LinkEnd.received, Prod.mk.injEq] at same
    obtain ⟨frames, errors, next⟩ := same
    obtain ⟨since, link⟩ := s.link_heardFrame k gs
    obtain ⟨_, _, _, acked⟩ := (s.heardFrame k gs).link_acked k (readFrame bs)
    have read : s.heardBytes k gs = some bs := by rw [State.heardBytes, clean, if_neg (by decide), bytes]
    rw [State.frameRead_of_active still, read, State.readIn_of_idle _ (by rw [link]; exact good) type, acked, link]
    exact ⟨congrArg (· + 1) frames, errors, next⟩
  case crc =>
    rintro s k gs bs ⟨key, kind, active, awake, up, outside, bytes, still, clean, crc⟩
    refine ⟨_, congrArg Host.Outcome.next (frameReceive_of_groups key kind active awake up outside), ?_⟩
    obtain ⟨-, same⟩ := (s.staysUp_rxBytes gs kind).kept still
    simp only [LinkEnd.received, Prod.mk.injEq] at same
    obtain ⟨frames, errors, next⟩ := same
    obtain ⟨since, link⟩ := s.link_heardFrame k gs
    have read : s.heardBytes k gs = some bs := by rw [State.heardBytes, clean, if_neg (by decide), bytes]
    rw [State.frameRead_of_active still, read, State.readIn_of_crc _ crc, State.link_badFrame, link]
    exact ⟨congrArg satInc errors, frames, next⟩
  case invalid =>
    rintro s k gs ⟨key, kind, active, awake, up, outside, bytes, still⟩
    refine ⟨_, congrArg Host.Outcome.next (frameReceive_of_groups key kind active awake up outside), ?_⟩
    obtain ⟨-, same⟩ := (s.staysUp_rxBytes gs kind).kept still
    simp only [LinkEnd.received, Prod.mk.injEq] at same
    obtain ⟨frames, errors, next⟩ := same
    obtain ⟨since, link⟩ := s.link_heardFrame k gs
    have read : s.heardBytes k gs = none := by rw [State.heardBytes, bytes, ite_self]
    rw [State.frameRead_of_active still, read, State.readIn_of_none, State.link_badFrame, link]
    exact ⟨congrArg satInc errors, frames, rfl⟩
end

section
/-! PROOFS. Eoset links, part 3: TOS, link delay, shut-down and the link registers, and the statement about them (10 R269, R272, R273, R284; 11 R298). -/

open Sys2Proof
namespace Sys2Proof.Machine

/-! ### TOS (10 R269) -/

/-- A set to a die of the package waits there until it is received. -/
theorem State.sendSet_of_inside {s : State} {k : Nat} (typ : Nat) (payload : List (BitVec 8)) (lanes : List Nat)
    (inside : (s.partner k).isSome = true) : s.sendSet k typ payload lanes = s.modLaneset k fun x =>
      { x with setQ := x.setQ ++ [{ typ := BitVec.ofNat 8 typ, payload := bytesAt payload 0 8, lanes := lanes }] } := if_pos inside

/-- A TOS is due on a link site of a die that has not sent one in this microsecond. -/
theorem State.tosDue_of_late {s : State} {k : Nat} (kind : laneKind k = 0) (wants : s.guestOf k = none ∨ (s.laneset k).feat.getLsbD 0 = true)
    (late : (s.link k).tosSentUs ≠ psOfCtr (s.time (laneDie k)).ctr / psUs) : s.tosDue k = true := by
  unfold State.tosDue
  rw [kind, bne_iff_ne.mpr late]
  rcases wants with none | feat
  · rw [none]; rfl
  · rw [feat, Bool.or_true]; rfl

/-! ### Shut-down (10 R272; 15 R411) -/

/-- A link that leaves ACTIVE has nothing left to send and nothing to replay. -/
theorem State.linkGone_empties (s : State) (k : Nat) (tamper : Bool) :
    ((s.linkGone k tamper).link k).outq = [] ∧ ((s.linkGone k tamper).link k).held = [] := by
  unfold State.linkGone
  dsimp only
  rw [State.link_of_links_eq ((State.eventGaps_steps (Steps.refl [.log] _) (by decide)).1 .links (by decide))]
  generalize hu : (s.dropInput k).modLink k _ = u
  have empty : (u.link k).outq = [] ∧ (u.link k).held = [] := by
    rw [← hu, State.link_modLink]
    exact ⟨rfl, rfl⟩
  suffices links : Steps [.guests, .masters, .linkKeys] u _ by
    rw [State.link_of_links_eq (links.1 .links (by decide))]
    exact empty
  have guest : Steps [.guests, .masters, .linkKeys] u (match u.guestOf k with | some g => u.guestLinkGone g | none => u) := by
    split
    · exact State.guestLinkGone_steps (Steps.refl _ u) (by decide)
    · exact Steps.refl _ u
  have host := Steps.ite (c := laneKind k = 1) (fun _ => State.modMaster_steps (mid := BitVec.ofNat 12 (0x8F0 + laneId k))
    (f := fun m => { m with out := m.out.map fun (o : Outst) => { o with orphan := true } }) guest (by decide)) fun _ => guest
  exact Steps.ite (fun _ => State.modLinkKey_steps host (by decide)) fun _ => host

/-- A set taken OFF is no longer in its shut-down, also where a held LANE_UP starts it again. -/
theorem State.shutting_laneOff (s : State) (k : Nat) : ((s.laneOff k).laneset k).shutting = false := by
  unfold State.laneOff
  dsimp only
  split
  · rw [State.bringUp, State.laneset_modLaneset]
    change (State.laneset (State.completeAll _ _ _ _) k).shutting = false
    rw [State.laneset_of_lanesets_eq (State.completeAll_lanesets ..), State.laneset_modLaneset]
  · rw [State.laneset_of_lanesets_eq (State.completeAll_lanesets ..), State.laneset_modLaneset]

/-- The end of a shut-down of a link: DETECT after a partner's DOWN from outside the package on a link that is not encrypted, else OFF. -/
theorem State.shutEnd_ends (s : State) {k : Nat} (link : laneKind k ≠ 2) : ((s.shutEnd k).laneset k).shutting = false ∧
    ((s.shutEnd k).link k).outq = [] ∧ ((s.shutEnd k).link k).held = [] ∧ ((s.shutEnd k).laneset k).state =
      (if (s.laneset k).byPartner && !s.inside k && !(s.link k).encrypted then .detect else .off) := by
  generalize hu : (s.sendFour k setEia).leaveActive k false = u
  obtain ⟨out, held⟩ : (u.link k).outq = [] ∧ (u.link k).held = [] := by
    rw [← hu, State.leaveActive, if_neg link]
    exact State.linkGone_empties _ k false
  unfold State.shutEnd
  dsimp only
  rw [hu]
  split
  · have links {v : State} {toks : List Nat} : (v.completeAll toks stOk []).links = v.links :=
      (State.completeAll_steps (Steps.refl [.gable, .evr] v) (by decide)).1 .links (by decide)
    rw [State.laneset_of_lanesets_eq (State.completeAll_lanesets ..), State.laneset_modLaneset, State.link_of_links_eq links]
    exact ⟨rfl, out, held, rfl⟩
  · rw [State.link_of_links_eq ((State.laneOff_steps (Steps.refl [.lanesets, .gable, .evr] u) (by decide)).1 .links (by decide))]
    exact ⟨u.shutting_laneOff k, out, held, (u.laneset_laneOff k).1⟩

theorem State.link_kind_of_linkUp {s : State} {k : Nat} (h : s.linkUp k = true) : laneKind k ≠ 2 := by
  unfold State.linkUp at h
  simp only [Bool.and_eq_true, bne_iff_ne] at h
  exact h.1.2

/-! ### Link registers (10 Table 10.11) -/

/-- A write of LINK_CTRL that is let through is answered OK, and is what LINK_CTRL does. -/
theorem linkDirect_ctrl {s : State} {w : Who} {k : Nat} (v : Nat) (h : s.reaches w (linkAddr k 0x008) true = true) :
    linkDirect w k 0x008 v s = .next ((s.linkCtrl k (v % 2 ^ 32)).answer respOk 0) := by
  have run := State.access_of_reaches (body := fun s => linkReg s k 0x008 true false v) h (show respOk ≠ respDenied by decide)
  exact congrArg Host.Outcome.next run

end Sys2Proof.Machine

open Sys2Proof Sys2Proof.Machine

/-- Settles O31: each is what its command does on an ACTIVE link; the end of a shut-down empties the link and takes the set to DETECT or OFF; LINK_CTRL
    does what the two bits say. -/
theorem linkTimeAndShutdown : Obligations.linkTimeAndShutdown := by
  unfold Obligations.linkTimeAndShutdown
  refine ⟨?tos, ?delay, ?due, ?sent, ?ended, ?drained, ?snap, ?clear⟩
  case tos =>
    rintro s k ⟨up, kind, sends, wants, late⟩
    refine ⟨_, congrArg Host.Outcome.next (if_pos ⟨up, sends, State.tosDue_of_late kind wants late⟩), ?_, ?_, fun inside => ?_⟩
    · rw [State.link_of_links_eq (State.sendSet_keeps ..).1, State.link_modLink]
    · exact (State.sendSet_steps (State.modLink_steps (Steps.refl [.links, .lanesets] s) (by decide)) (by decide)).1
    · rw [State.sendSet_of_inside (s := s.modLink k _) _ _ _ inside, State.laneset_modLaneset]
      rfl
  case delay =>
    rintro s k ⟨up, kind, due, stale⟩
    have averaged : (decide (1024 ≤ (s.link k).tosCount) ||
        (decide (1 ≤ (s.link k).tosCount) && decide ((s.laneset k).since + 1100 * psUs ≤ s.now))) = true := by simpa using due
    refine ⟨_, congrArg Host.Outcome.next (if_pos ⟨up, kind, averaged, by simp [stale]⟩), ?_⟩
    rw [State.link_of_links_eq ((State.tryMeasure_steps (Steps.refl [.times] _) (by decide)).1 .links (by decide)), State.link_modLink]
  case due =>
    rintro s k ⟨up, shutting, unsent, drained⟩
    refine ⟨_, congrArg Host.Outcome.next (if_pos ⟨up, shutting, unsent, drained⟩), ?_, (State.modLink_steps (Steps.refl [.links] s) (by decide)).1⟩
    rw [State.link_modLink]
  case sent =>
    rintro s k b rest ⟨key, kind, sends, inside, answers, quiet, fresh, plain, message, down, good, room⟩
    refine ⟨_, congrArg Host.Outcome.next (frameSlot_of_inside key kind sends inside answers), ?_⟩
    rw [State.pickFrame_of_message quiet fresh plain message good room,
      State.sendSeq_of_inside (s := s.modLink k _) _ inside (by rw [State.link_modLink]; exact plain), State.link_modLink]
    exact ⟨if_pos down, rfl, rfl⟩
  case ended =>
    rintro s k e ⟨up, shutting, sent, message, ends⟩
    refine ⟨s.shutEnd k, ?_, s.shutEnd_ends (State.link_kind_of_linkUp up)⟩
    change execLinkDownWaitEnd k s = _
    unfold execLinkDownWaitEnd
    dsimp only
    rw [sent]
    exact congrArg Host.Outcome.next (if_pos ⟨up, shutting, message, ends⟩)
  case drained =>
    rintro s k ⟨up, shutting, unsent, queued, late⟩
    refine ⟨_, congrArg Host.Outcome.next (if_pos ⟨up, shutting, unsent, Bool.eq_false_iff.mp queued, late⟩), ?_,
      (State.modLink_steps (Steps.refl [.links] s) (by decide)).1⟩
    rw [State.link_modLink]
    rfl
  case snap =>
    rintro s w k reach
    refine ⟨_, linkDirect_ctrl 1 reach, rfl, ?_⟩
    have link : ((s.linkCtrl k 1).link k) = { s.link k with
        scred := (List.range 8).foldl (fun t i => tput 0 t i (BitVec.ofNat 32 (s.linkCredReg k i))) (s.link k).scred } := State.link_modLink ..
    change (State.link (s.linkCtrl k 1) k).crcErr = _ ∧ ∀ i, i < 8 → tget 0 (State.link (s.linkCtrl k 1) k).scred i = _
    rw [link]
    exact ⟨rfl, fun i vc => by rw [tget_foldl_tput, if_pos vc]⟩
  case clear =>
    rintro s w k reach
    refine ⟨_, linkDirect_ctrl 2 reach, rfl, ?_⟩
    exact State.link_modLink s k fun e => { e with crcErr := 0, nakTx := 0, replay := 0, repairs := 0, tagFail := 0 }
end

section
/-! PROOFS. Eoset links, part 4: a guest request with ORD, which enters the network on the escape VC of its class (07 R190; 10 R281). -/

open Sys2Proof
namespace Sys2Proof.Machine

/-- The link of site 0 of F-die 2 on an FGN-4G, to guest 0, is ACTIVE; its guest has declared the MIDs 0xC00 to 0xC0F. -/
def guestUp : State :=
  ((({ State.reset with fuses := { State.reset.fuses with part := .fgn4g } } : State).modGuest 0 fun x =>
      { x with up := true, cap := { midBase := 0xC00, midLog2 := 4, winLog2 := 20, maxOut := 16, rxDepth := List.replicate 8 64 } }).modLaneset 32
    fun x => { x with state := .active }).modLink 32 fun e => { e with guestOk := true }

/-- A read of 4 bytes of the identification block by SRC 0xC01 with TAG 7, with ORD set (07 Table 7.3). -/
def orderedRead : BitVec 512 :=
  BitVec.ofNat 512 ({ src := 0xC01, cls := .req, opc := 0, len := 3, tag := 7, ord := true, addr := 0xF00000000000 } : Pkt).headerBits

/-- The guest's read passes every check of the gateway, and no flow meters it. -/
theorem orderedRead_passes : guestUp.guestOf 32 = some 0 ∧ (guestUp.laneset 32).state = .active ∧ (guestUp.link 32).guestOk = true ∧
    classOfNum (bitsOf orderedRead.toNat 28 2) = .req ∧ (guestUp.guest 0).cap.holds (pktOfHeader orderedRead.toNat).src = true ∧
    headerOk orderedRead.toNat = true ∧
    ((guestUp.guest 0).fromGuest.filter fun o => !o.orphan).length < (guestUp.guest 0).cap.maxOut ∧
    (((guestUp.guest 0).fromGuest.zip (guestUp.guest 0).fromSrc).any fun x =>
      x.1.tag == (pktOfHeader orderedRead.toNat).tag && x.2 == (pktOfHeader orderedRead.toNat).src) = false ∧
    guestUp.decode (pktOfHeader orderedRead.toNat).addr.toNat = some (.hub 0, 0xF000000FFFFF) ∧
    guestUp.sameExtent (pktOfHeader orderedRead.toNat).addr.toNat (pktOfHeader orderedRead.toNat).len.toNat = true ∧
    guestUp.flowOf (pktOfHeader orderedRead.toNat).src .req (pktOfHeader orderedRead.toNat).addr.toNat
      (pktOfHeader orderedRead.toNat).len.toNat = none ∧ siteOfKey 32 = some (2, 0) := by
  decide +kernel

theorem exec_guestPacketReceive {s : State} {k : Nat} (h : BitVec 512) (data : List (BitVec 8)) (bad : Bool) (active : (s.laneset k).state = .active) :
    exec (.guestPacketReceive k h data bad) s = .next (guestPacket s k (classOfNum (bitsOf h.toNat 28 2)).vc h.toNat data bad) :=
  congrArg Host.Outcome.next (if_pos active)

/-- The input of the link's router that the read joins, VC by VC. -/
def orderedReadAt (vc : Nat) : List Pkt :=
  tget [] ((guestPacket guestUp 32 (classOfNum (bitsOf orderedRead.toNat 28 2)).vc orderedRead.toNat [] false).router 2 (routerOfSite 2 0)).inq (32 + vc)

/-- The read rides the escape VC of its class; nothing joins the adaptive one (07 R190, R193). -/
theorem orderedRead_rides_escape : orderedReadAt MsgClass.req.vc = [] ∧ (orderedReadAt (MsgClass.req.vc + 1)).map Pkt.tag = [7] := by
  decide +kernel

end Sys2Proof.Machine

open Sys2Proof Sys2Proof.Machine

/-- Refutes O32, in its sixth clause, which asks nothing of ORD: a request of a guest with ORD passes every check and goes on into the network, but on the
    escape VC of its class and not behind what stands on the adaptive one. -/
theorem not_guestsAndHosts : ¬ Obligations.guestsAndHosts := by
  rintro ⟨-, -, -, -, -, forwarded, -⟩
  obtain ⟨t, q, run, -, -, joined, -⟩ := forwarded guestUp 32 0 2 0 0xF000000FFFFF orderedRead [] false (.hub 0) orderedRead_passes
  obtain ⟨-, active, -⟩ := orderedRead_passes
  obtain ⟨adaptive, -⟩ := orderedRead_rides_escape
  rw [exec_guestPacketReceive _ _ _ active] at run
  rw [← Host.Outcome.next.inj run] at joined
  exact List.append_ne_nil_of_right_ne_nil _ (List.cons_ne_nil q []) (joined.symm.trans adaptive)
end

section
/-! PROOFS. Package time, part 1: one TSCLK cycle, and the statement about it (11 R289). -/

open Sys2Proof
namespace Sys2Proof.Machine

set_option Elab.async false

/-! ### Counters of the part -/

/-- Modifying entries at keys that differ modifies each of them once. -/
theorem tget_tmodAll_of_nodup {V : Type} [DecidableEq V] (d : V) (f : Nat → V → V) {ks : List Nat} (nodup : ks.Nodup) (t : Tab V) (j : Nat) :
    tget d (tmodAll d t ks f) j = if j ∈ ks then f j (tget d t j) else tget d t j := by
  induction ks generalizing t with
  | nil => rfl
  | cons k ks ih =>
    obtain ⟨fresh, nodup⟩ := List.nodup_cons.mp nodup
    refine (ih nodup (tmod d t k (f k))).trans ?_
    by_cases same : j = k
    · subst same; simp [fresh]
    · simp [same, tget_tmod_other]

theorem State.nodup_timeKeys (s : State) : s.timeKeys.Nodup :=
  List.nodup_range.append (List.nodup_singleton 8) (by have := s.fdies_le; simp; omega)

theorem State.mem_timeKeys {s : State} {d : Nat} : d ∈ s.timeKeys ↔ d < s.fdies ∨ d = 8 := by simp [State.timeKeys]

/-- A running counter that is not slewing adds its rate word. -/
theorem DieTime.tick_ctr {x : DieTime} (runs : x.stopped = false) (steady : x.mon.slew = 0) (now : Nat) :
    (x.tick now).ctr = (x.ctr + x.rate) % 2 ^ 112 := by
  simp [DieTime.tick, DieTime.slewOne, runs, steady]

/-! ### The edges of an F-die's nets leave the H-die's pins alone -/

section
variable {ps : List Component} {s t : State} {d : Nat} (fdie : d ≠ 8)
include fdie

theorem State.modTpin_steps_of_fdie {n : Nat} {f : TimingPin → TimingPin} (h : Steps ps s t) (sub : ∀ p ∈ [Component.dies], p ∈ ps) :
    Steps ps s (t.modTpin d n f) := by
  rw [State.modTpin, if_neg fdie]
  exact State.modDie_steps h sub

theorem State.tpEdgeDone_steps_of_fdie {nets : List Nat} (h : Steps ps s t) (sub : ∀ p ∈ [Component.dies], p ∈ ps) :
    Steps ps s (t.tpEdgeDone d nets) :=
  Steps.foldl _ _ (fun _ _ h => Steps.ite (fun _ => State.modTpin_steps_of_fdie fdie h sub) fun _ => h) h

theorem State.fclkCycle_steps_of_fdie {nets : List Nat} (h : Steps [.free, .dies, .lanesets] s t) :
    Steps [.free, .dies, .lanesets] s (t.fclkCycle d nets) := by
  unfold State.fclkCycle
  extract_lets counted sampled moved rose
  have counted : Steps [.free, .dies, .lanesets] s counted := State.modDie_steps h (by decide)
  have sampled : Steps [.free, .dies, .lanesets] s sampled := Steps.ite (fun _ => State.probeEdge_steps counted (by decide)) fun _ => counted
  have moved : Steps [.free, .dies, .lanesets] s moved :=
    State.tpEdgeDone_steps_of_fdie fdie (State.laneEdge_steps sampled (by decide)) (by decide)
  have rose : Steps [.free, .dies, .lanesets] s rose :=
    State.gqEdge_steps (State.bramEdge_steps (State.ioEdge_steps (State.cellEdge_steps moved (by decide)) (by decide)) (by decide)) (by decide)
  exact State.ioEdge_steps (State.cellEdge_steps rose (by decide)) (by decide)

theorem State.clockDie_steps_of_fdie (h : Steps [.free, .dies, .lanesets] s t) : Steps [.free, .dies, .lanesets] s (t.clockDie d) := by
  unfold State.clockDie
  extract_lets cycled stored lines
  have cycled : Steps [.free, .dies, .lanesets] s cycled :=
    Steps.foldl _ _ (fun _ _ h => Steps.foldl _ _ (fun _ _ h => State.fclkCycle_steps_of_fdie fdie h) h) h
  have stored : Steps [.free, .dies, .lanesets] s stored := State.cellEdge_steps cycled (by decide)
  have lines : Steps [.free, .dies, .lanesets] s lines :=
    Steps.foldl _ _ (fun _ _ h => Steps.ite (fun _ => State.lineWord_steps h (by decide)) fun _ => h) stored
  exact Steps.ite (fun _ => State.gqEdge_steps lines (by decide)) fun _ => lines

end

/-- The edges of the FCLK nets of every die of the part. -/
theorem State.clockDies_steps (s : State) : Steps [.free, .dies, .lanesets] s (s.dieList.foldl State.clockDie s) :=
  List.foldlRecOn _ _ (Steps.refl _ s) fun _ h d mem =>
    State.clockDie_steps_of_fdie (by have := s.fdies_le; have := List.mem_range.mp mem; omega) h

/-! ### The cycle -/

theorem State.tick_frame (s : State) : s.changesOnly s.tick [.now, .times, .dies, .lanesets, .free] := fun p other => by
  have clocked := s.clockDies_steps.1 p fun among => other (by revert among; cases p <;> decide)
  cases p <;> first | exact absurd (by decide) other | exact clocked

/-- What the edges have moved does not matter to the elapsed time and the time counters. -/
theorem State.tick_eq (s : State) : s.tick =
    ((s.dieList.foldl State.clockDie s).setTimes (tmodAll DieTime.reset s.times s.timeKeys fun _ x => x.tick s.now)).setNow (s.now + 1000) := by
  have frame := s.clockDies_steps.1
  have times : (s.dieList.foldl State.clockDie s).times = s.times := frame .times (by decide)
  have now : (s.dieList.foldl State.clockDie s).now = s.now := frame .now (by decide)
  have fuses : (s.dieList.foldl State.clockDie s).fuses = s.fuses := frame .fuses (by decide)
  have keys : (s.dieList.foldl State.clockDie s).timeKeys = s.timeKeys := by rw [State.timeKeys, State.fdies, fuses]; rfl
  unfold State.tick tickPs
  dsimp only
  rw [times, now, keys]

theorem State.time_tick (s : State) {d : Nat} (inPart : d < s.fdies ∨ d = 8) : s.tick.time d = (s.time d).tick s.now := by
  rw [State.tick_eq]
  exact (tget_tmodAll_of_nodup _ _ s.nodup_timeKeys _ _).trans (if_pos (State.mem_timeKeys.mpr inPart))

end Sys2Proof.Machine

open Sys2Proof Sys2Proof.Machine

/-- Settles O2: the step is the tick. -/
theorem stepOnEmptyQueueTicks : Obligations.stepOnEmptyQueueTicks := by
  intro s empty
  refine ⟨s.tick, ?_, ?_, s.tick_frame, fun d inPart runs steady => ?_⟩
  · unfold step; rw [empty]
  · rw [State.tick_eq, State.setNow_now]
  · rw [s.time_tick inPart, DieTime.tick_ctr runs steady]
end

section
/-! PROOFS. Package time, part 2: requests of the time commands, answered at once or at an apply instant (11 R290, R294, R309; 17 R439). -/

open Sys2Proof
namespace Sys2Proof.Machine

set_option Elab.async false

/-! ### Requests whose answer waits (11 R294; 17 R439) -/

@[simp] theorem State.heard_cfg (s : State) (m : Nat) : (s.heard m).cfg = s.cfg := s.heard_frame m .cfg (by decide)
@[simp] theorem State.heard_gstate (s : State) (m : Nat) : (s.heard m).gable.gstate = s.gable.gstate := by unfold State.heard; split <;> rfl
@[simp] theorem State.heard_running (s : State) (m : Nat) : ((s.heard m).mbx m).running = (s.mbx m).running := by rw [State.mbx_heard]
@[simp] theorem State.heard_recorded (s : State) (m : Nat) : ((s.heard m).mbx m).recorded = (s.mbx m).recorded := by rw [State.mbx_heard]
@[simp] theorem State.heard_bound (s : State) (m : Nat) : ((s.heard m).mbx m).bound = (s.mbx m).bound := by rw [State.mbx_heard]
@[simp] theorem State.heard_sessionOk (s : State) (m : Nat) (r : Request) : (s.heard m).sessionOk m r = s.sessionOk m r := by
  simp [State.sessionOk]

theorem State.rings_iff {s : State} {m : Nat} : s.rings m = true ↔
    m < 64 ∧ s.engineRuns = true ∧ (s.mbx m).ringing = true ∧ (s.mbx m).deferred = false ∧ s.mbxTurn m = true := by
  simp only [State.rings, Bool.and_eq_true, Bool.not_eq_true', decide_eq_true_eq, and_assoc]

/-- What `asks` says of the doorbell and, check by check, of the request. -/
theorem State.asks_iff {s : State} {m code : Nat} : s.asks m code = true ↔
    s.rings m = true ∧ (s.gable.gstate = .running ∨ s.gable.gstate = .recovery ∧
      ((s.req m).cmd / 256 = 0 ∨ (s.req m).cmd / 256 = 1 ∨ (s.req m).cmd / 256 = 9)) ∧
    (s.req m).flags = 0 ∧ (s.req m).res = 0 ∧ (s.req m).len ≤ 240 ∧ s.sessionOk m (s.req m) = true ∧ (s.req m).cmd = code ∧
    ((s.req m).session = 0 ∨ ((s.mbx m).running.any fun x => x.seq == BitVec.ofNat 16 (s.req m).seq) = false ∧
      ((s.mbx m).recorded.any fun e => e.1 == BitVec.ofNat 16 (s.req m).seq) = false) := by
  simp only [State.asks, State.rings, State.req, Bool.and_eq_true, Bool.or_eq_true, Bool.not_eq_true', beq_iff_eq, decide_eq_true_eq, and_assoc,
    or_assoc]

/-- A request that passes the mailbox's checks and the command's own is run. -/
theorem Command.judge_of_asks {c : Command} {s : State} {m : Nat} (ask : s.asks m c.code = true)
    (may : c.may (s.heard m) m (s.req m) = true) (arg : c.argOk (s.heard m) (s.req m) = true) :
    c.judge (s.heard m) m (s.req m) = ((c.run (s.heard m) m (s.req m)).1, (c.run (s.heard m) m (s.req m)).2, false) := by
  obtain ⟨-, serves, flags, res, len, session, code, fresh⟩ := State.asks_iff.mp ask
  have notRunning : ¬ (((s.req m).session != 0 && (s.req m).session == s.sid m) = true ∧
      ((s.mbx m).running.any fun x => x.seq == BitVec.ofNat 16 (s.req m).seq) = true) := by
    rintro ⟨own, running⟩
    rcases fresh with unnamed | ⟨idle, -⟩
    · simp [unnamed] at own
    · rw [idle] at running; cases running
  have notRecorded : (if ((s.req m).session != 0 && (s.req m).session == s.sid m) = true then
      (s.mbx m).recorded.find? fun e => e.1 == BitVec.ofNat 16 (s.req m).seq else none) = none := by
    split
    next own =>
      rcases fresh with unnamed | ⟨-, new⟩
      · simp [unnamed] at own
      · exact List.find?_eq_none.mpr (by simpa using new)
    next => rfl
  have admitted : ¬ (s.gable.gstate = .recovery ∧ ¬ ((s.req m).cmd / 256 = 0 ∨ (s.req m).cmd / 256 = 1 ∨ (s.req m).cmd / 256 = 9)) := by
    rintro ⟨recovery, other⟩
    rcases serves with running | ⟨-, basic⟩
    · rw [recovery] at running; cases running
    · exact other basic
  unfold Command.judge
  simp only [State.heard_sid, State.heard_gstate, State.heard_running, State.heard_recorded, State.heard_sessionOk]
  rw [if_neg (by omega), if_neg (by simp [session]), if_neg notRunning, notRecorded]
  dsimp only
  rw [if_neg (by simp [code]), if_neg admitted, may, arg]
  rfl

/-- A request whose answer waits is served: its mailbox is marked, and the next one has its turn. -/
theorem Command.serve_later {c : Command} {s s2 : State} {m : Nat} (ask : s.asks m c.code = true) (hsync : c.async = false)
    (may : c.may (s.heard m) m (s.req m) = true) (arg : c.argOk (s.heard m) (s.req m) = true)
    (body : c.body (s.heard m) m (s.req m) = (s2, bare stLater)) :
    c.serve m s = (s2.modMbx m fun b => { b with deferred := true }).modGable fun g => { g with rr := m } := by
  have judged := Command.judge_of_asks ask may arg
  unfold Command.run at judged
  rw [hsync, if_neg Bool.false_ne_true, body] at judged
  obtain ⟨rings, serves, -, -, -, -, code, -⟩ := State.asks_iff.mp ask
  have taken : ¬ (64 ≤ m ∨ ¬ s.engineRuns = true ∨ ¬ (s.mbx m).ringing = true ∨ (s.mbx m).deferred = true ∨ ¬ s.mbxTurn m = true ∨
      ((s.req m).cmd ≠ c.code ∧ (s.req m).cmd ∈ knownCodes)) := by
    obtain ⟨below, engine, ringing, fresh, turn⟩ := State.rings_iff.mp rings
    simp [engine, ringing, fresh, turn, code, below]
  have hears : (if ((s.req m).session != 0 && (s.req m).session == s.sid m) = true then s.modMbx m fun b => { b with hbAt := s.now, hbUsed := 0 } else s) =
      s.heard m := rfl
  unfold Command.serve
  refine (if_neg taken).trans ?_
  rcases serves with state | ⟨state, -⟩ <;>
  · rw [state]
    dsimp only
    rw [← State.req, hears, judged]
    exact if_pos rfl

/-! ### What a time command's checks and body see -/

@[simp] theorem State.heard_tb (s : State) (m : Nat) : (s.heard m).tb = s.tb := s.heard_frame m .tb (by decide)
@[simp] theorem State.heard_times (s : State) (m : Nat) : (s.heard m).times = s.times := s.heard_frame m .times (by decide)
@[simp] theorem State.heard_fdies (s : State) (m : Nat) : (s.heard m).fdies = s.fdies := by unfold State.fdies; rw [State.heard_fuses]
@[simp] theorem State.heard_time (s : State) (m d : Nat) : (s.heard m).time d = s.time d := by unfold State.time; rw [State.heard_times]
@[simp] theorem State.heard_ps (s : State) (m d : Nat) : (s.heard m).ps d = s.ps d := by unfold State.ps; rw [State.heard_time]
@[simp] theorem State.heard_token (s : State) (m : Nat) (r : Request) : (s.heard m).token m r = s.token m r := by
  unfold State.token; rw [State.heard_sid]
@[simp] theorem State.heard_commandLead (s : State) (m : Nat) : (s.heard m).commandLead = s.commandLead := by
  unfold State.commandLead State.freeVal; rw [s.heard_frame m .free (by decide)]
@[simp] theorem State.heard_link (s : State) (m k : Nat) : (s.heard m).link k = s.link k :=
  State.link_of_links_eq (s.heard_frame m .links (by decide)) k
@[simp] theorem State.heard_parentKey (s : State) (m d : Nat) : (s.heard m).parentKey d = s.parentKey d := by
  unfold State.parentKey; rw [State.heard_time]

theorem State.tpin_of_eq {s t : State} (dies : t.dies = s.dies) (hpins : t.hpins = s.hpins) (d n : Nat) : t.tpin d n = s.tpin d n := by
  unfold State.tpin State.die; rw [dies, hpins]

@[simp] theorem State.heard_tpin (s : State) (m d n : Nat) : (s.heard m).tpin d n = s.tpin d n :=
  State.tpin_of_eq (s.heard_frame m .dies (by decide)) (s.heard_frame m .hpins (by decide)) d n

/-! ### Changes programmed (11 R294) -/

theorem State.commandLead_range (s : State) : 100000000 ≤ s.commandLead ∧ s.commandLead ≤ 500000000 := by
  unfold State.commandLead; omega

theorem State.mem_programTime (s : State) (p : PendTime) : p ∈ (s.programTime p).tb.pend := by
  simp [State.programTime, State.modTb]

/-- A command that programs a change waits for it with its answer; no counter moves. -/
theorem Command.serve_programmed {c : Command} {s : State} {m : Nat} {p : PendTime} (ask : s.asks m c.code = true) (hsync : c.async = false)
    (may : c.may (s.heard m) m (s.req m) = true) (arg : c.argOk (s.heard m) (s.req m) = true)
    (body : c.body (s.heard m) m (s.req m) = (((s.heard m).programTime p).drew 1, bare stLater)) :
    ∃ t, c.serve m s = t ∧ (t.mbx m).deferred = true ∧ (t.mbx m).ringing = true ∧ t.times = s.times ∧ p ∈ t.tb.pend := by
  refine ⟨_, Command.serve_later ask hsync may arg body, ?_, ?_, s.heard_times m, (s.heard m).mem_programTime p⟩
  · rw [State.mbx_modGable _ _ rfl, State.mbx_modMbx]
  · obtain ⟨-, -, ringing, -⟩ := State.rings_iff.mp (State.asks_iff.mp ask).1
    rw [State.mbx_modGable _ _ rfl, State.mbx_modMbx]
    change ((s.heard m).mbx m).ringing = true
    rw [State.mbx_heard]
    exact ringing

/-! ### At an apply instant (11 R294, R295) -/

/-- The step a change makes, in units of 2^-80 s. -/
def PendTime.step (p : PendTime) : Int :=
  match p.setTo with
  | some c => Int.ofNat c - Int.ofNat (ctrOfPs p.applyAt)
  | none => p.stepBy

/-- The counters of the keys take a rate word. -/
def State.takeRate (s : State) (keys : List Nat) : Option Nat → State
  | some r => (keys.foldl (fun (s : State) d => s.modTime d fun x => { x with rate := r }) s).modTb fun b => { b with rateOff := ofInt 32 (ratePpb r) }
  | none => s

/-- A running counter moved by a step. -/
def DieTime.move (x : DieTime) (v : Int) : DieTime := if x.stopped then x else { x with ctr := ctrMove x.ctr v }

/-- The counters of the keys move by a step, with the edges passed over. -/
def State.moveTimes (s : State) (keys : List Nat) (v : Int) : State :=
  let s := keys.foldl (fun (s : State) d => s.modTime d fun x => x.move v) s
  if 0 < v then keys.foldl (fun (s : State) d => s.skipEdges d) s else s

/-- The step as the dies' SEC_HI, the instants still to come and the event router see it. -/
def State.noteStep (s : State) (v : Int) : State :=
  let ps := stepPs v
  let hi := BitVec.ofNat 16 (secOfCtr (s.time 8).ctr / 65536)
  let s := s.dieList.foldl (fun (s : State) d => s.modMon d fun m => { m with secHi := hi }) s
  let s := s.modTb fun b => { b with pend := b.pend.map fun q => { q with applyAt := Int.toNat (Int.ofNat q.applyAt + ps) } }
  s.raiseHub 0x3AD (ofInt 32 ps).toNat (some (mkEntry 0x18 0 0x3AD (8 + atLo 8 6) (ofInt 64 ps).toNat))

/-- The state in which the change has left the queue and its rate word is in force. -/
def State.rated (s : State) (p : PendTime) (rest : List PendTime) : State := (s.modTb fun b => { b with pend := rest }).takeRate s.timeKeys p.rate

/-- The state in which the change has applied, before its request is answered. -/
def State.applied (s : State) (p : PendTime) (rest : List PendTime) : State :=
  if p.step = 0 then s.rated p rest else ((s.rated p rest).moveTimes s.timeKeys p.step).noteStep p.step

theorem applyTime_of_due {s : State} {p : PendTime} {rest : List PendTime} (first : s.tb.pend = p :: rest) (due : p.applyAt ≤ s.ps 8) :
    applyTime s = (s.applied p rest).answerLater p.mbx stOk [] := by
  unfold applyTime
  rw [first]
  dsimp only
  rw [if_neg (Nat.not_lt.mpr due)]
  unfold State.applied State.rated
  cases p.rate <;> rfl

/-- One and the same modification of the counters of the keys. -/
theorem State.foldl_modTime (f : DieTime → DieTime) (keys : List Nat) (s : State) :
    keys.foldl (fun s d => s.modTime d f) s = s.setTimes (tmodAll DieTime.reset s.times keys fun _ => f) := by
  induction keys generalizing s with
  | nil => rfl
  | cons k keys ih => exact ih (s.modTime k f)

/-- Each counter of the part after one and the same modification of them all. -/
theorem State.time_foldl_timeKeys (f : DieTime → DieTime) {s : State} {d : Nat} (inPart : d < s.fdies ∨ d = 8) (u : State) :
    (s.timeKeys.foldl (fun s d => s.modTime d f) u).time d = f (u.time d) := by
  rw [State.foldl_modTime]
  exact (tget_tmodAll_of_nodup _ _ s.nodup_timeKeys _ _).trans (if_pos (State.mem_timeKeys.mpr inPart))

theorem State.time_of_times_eq {s t : State} (h : t.times = s.times) (d : Nat) : t.time d = s.time d := congrArg (tget DieTime.reset · d) h

theorem State.rated_steps (s : State) (p : PendTime) (rest : List PendTime) : Steps [.times, .tb] s (s.rated p rest) := by
  have left : Steps [.times, .tb] s (s.modTb fun b => { b with pend := rest }) := State.modTb_steps (Steps.refl _ s) (by decide)
  unfold State.rated
  cases p.rate with
  | none => exact left
  | some r => exact State.modTb_steps (Steps.foldl _ _ (fun _ _ h => State.modTime_steps h (by decide)) left) (by decide)

theorem State.pend_rated (s : State) (p : PendTime) (rest : List PendTime) : (s.rated p rest).tb.pend = rest := by
  unfold State.rated
  cases p.rate with
  | none => rfl
  | some r =>
    unfold State.takeRate
    dsimp only
    rw [State.foldl_modTime]
    rfl

section
variable {s : State} {d : Nat} (inPart : d < s.fdies ∨ d = 8)
include inPart

theorem State.time_rated (p : PendTime) (rest : List PendTime) :
    (s.rated p rest).time d = { s.time d with rate := p.rate.getD (s.time d).rate } := by
  unfold State.rated
  cases p.rate with
  | none => rfl
  | some r => exact State.time_foldl_timeKeys _ inPart _

theorem State.time_moveTimes (u : State) (v : Int) : (u.moveTimes s.timeKeys v).time d = (u.time d).move v := by
  unfold State.moveTimes
  dsimp only
  have moved := State.time_foldl_timeKeys (fun x => x.move v) inPart u
  split
  · refine (State.time_of_times_eq ?_ d).trans moved
    exact (Steps.foldl _ _ (fun _ _ h => State.skipEdges_steps h (by decide)) (Steps.refl [.dies, .hpins] _)).1 .times (by decide)
  · exact moved

end

theorem State.moveTimes_steps (s : State) (keys : List Nat) (v : Int) : Steps [.times, .dies, .hpins] s (s.moveTimes keys v) := by
  unfold State.moveTimes
  extract_lets moved
  have moved : Steps [.times, .dies, .hpins] s moved := Steps.foldl _ _ (fun _ _ h => State.modTime_steps h (by decide)) (Steps.refl _ s)
  exact Steps.ite (fun _ => Steps.foldl _ _ (fun _ _ h => State.skipEdges_steps h (by decide)) moved) fun _ => moved

theorem State.noteStep_steps (s : State) (v : Int) : Steps [.times, .tb, .evr] s (s.noteStep v) :=
  State.raiseHub_steps (State.modTb_steps (Steps.foldl _ _ (fun _ _ h => State.modMon_steps h (by decide)) (Steps.refl _ s)) (by decide)) (by decide)

/-- A step that is noted changes what the counters' monitors hold, not the counters. -/
theorem State.time_noteStep (s : State) (v : Int) (d : Nat) :
    ((s.noteStep v).time d).ctr = (s.time d).ctr ∧ ((s.noteStep v).time d).rate = (s.time d).rate := by
  have keeps (f : TosMon → TosMon) (s : State) (k : Nat) :
      (((s.modMon k f).time d).ctr, ((s.modMon k f).time d).rate) = ((s.time d).ctr, (s.time d).rate) := by
    by_cases here : d = k
    · subst here; rw [State.modMon, State.time_modTime]
    · rw [State.modMon, State.time_modTime_other _ _ here]
  exact Prod.mk.inj (foldl_keeps (fun s => ((s.time d).ctr, (s.time d).rate)) _ (keeps _) s.dieList s)

theorem State.pend_noteStep (s : State) (v : Int) :
    (s.noteStep v).tb.pend = s.tb.pend.map fun q => { q with applyAt := Int.toNat (Int.ofNat q.applyAt + stepPs v) } := by
  refine congrArg (fun b => b.pend.map fun q => { q with applyAt := Int.toNat (Int.ofNat q.applyAt + stepPs v) }) (?_ : _ = s.tb)
  exact (Steps.foldl _ _ (fun _ _ h => State.modMon_steps h (by decide)) (Steps.refl [.times] s)).1 .tb (by decide)

theorem State.applied_steps (s : State) (p : PendTime) (rest : List PendTime) : Steps [.times, .tb, .dies, .hpins, .evr] s (s.applied p rest) := by
  have rated : Steps [.times, .tb, .dies, .hpins, .evr] s (s.rated p rest) := (Steps.refl _ s).via (s.rated_steps p rest) (by decide)
  refine Steps.ite (fun _ => rated) fun _ => ?_
  exact (rated.via (State.moveTimes_steps ..) (by decide)).via (State.noteStep_steps ..) (by decide)

theorem State.pend_applied_of_zero {s : State} {p : PendTime} (zero : p.step = 0) (rest : List PendTime) : (s.applied p rest).tb.pend = rest := by
  rw [State.applied, if_pos zero, State.pend_rated]

theorem State.pend_applied_of_ne {s : State} {p : PendTime} (moves : p.step ≠ 0) (rest : List PendTime) :
    (s.applied p rest).tb.pend = rest.map fun q => { q with applyAt := Int.toNat (Int.ofNat q.applyAt + stepPs p.step) } := by
  rw [State.applied, if_neg moves, State.pend_noteStep, (State.moveTimes_steps ..).1 .tb (by decide), State.pend_rated]

section
variable {s : State} {p : PendTime} {d : Nat} (inPart : d < s.fdies ∨ d = 8) (rest : List PendTime)
include inPart

theorem State.rate_applied : ((s.applied p rest).time d).rate = p.rate.getD (s.time d).rate := by
  unfold State.applied
  split
  · rw [State.time_rated inPart]
  · rw [(State.time_noteStep _ _ d).2, State.time_moveTimes inPart, State.time_rated inPart]
    unfold DieTime.move
    split <;> rfl

theorem State.ctr_applied (runs : (s.time d).stopped = false) (moves : p.step ≠ 0) :
    ((s.applied p rest).time d).ctr = ctrMove (s.time d).ctr p.step := by
  rw [State.applied, if_neg moves, (State.time_noteStep _ _ d).1, State.time_moveTimes inPart, State.time_rated inPart]
  simp [DieTime.move, runs]

end

/-- The request whose answer waited is answered (17 R439). -/
theorem State.answerLater_of_waiting {s : State} {tok status : Nat} {data : List (BitVec 8)} (waits : (s.mbx (sidMbx (tok / 65536))).deferred = true)
    (seq : (s.mbx (sidMbx (tok / 65536))).request.seq = tok % 65536) :
    ((s.answerLater (some tok) status data).mbx (sidMbx (tok / 65536))).ringing = false ∧
      ((s.answerLater (some tok) status data).mbx (sidMbx (tok / 65536))).rspValid = true := by
  unfold State.answerLater
  dsimp only
  rw [if_pos ⟨waits, seq⟩, State.mbx_modMbx]
  obtain ⟨-, -, -, n, wrote⟩ := s.writeAnswer_eq (sidMbx (tok / 65536)) (tok % 65536) status false
    (if s.sid (sidMbx (tok / 65536)) = tok / 65536 then tok / 65536 else 0) data
  generalize State.mbx (s.writeAnswer ..) _ = b at wrote
  have answered : b.ringing = false ∧ b.rspValid = true := by rw [wrote]; exact ⟨rfl, rfl⟩
  split <;> exact answered

end Sys2Proof.Machine

open Sys2Proof Sys2Proof.Machine

/-- Settles O33: a command answered at once is its body in the state its request is heard in, one whose answer waits is the change it programs; at
    the apply instant the rate, the step and the answer come one after the other. -/
theorem timeCommands : Obligations.timeCommands := by
  unfold Obligations.timeCommands
  refine ⟨?get, ?status, ?source, ?setPps, ?set, ?adj, ?apply, ?pin, ?notify⟩
  case get =>
    rintro s m ⟨ask, -, len⟩
    have arg : cmdTimeGet.argOk (s.heard m) (s.req m) = true := by simp [cmdTimeGet, lenIs, len]
    obtain ⟨t, run, answer, frame, -⟩ := Command.serve_body ask (by decide) rfl rfl arg rfl (by decide)
    refine ⟨t, congrArg Host.Outcome.next run, (frame .tb (by decide)).trans (s.heard_tb m), ?_⟩
    rw [State.heard_time, State.heard_tb] at answer
    exact answer
  case status =>
    rintro s m d ⟨ask, -, len, rfl, fitted, reserved⟩
    have arg : cmdTimeStatus.argOk (s.heard m) (s.req m) = true := by simp [cmdTimeStatus, lenIs, len, fitted, reserved]
    obtain ⟨t, run, answer, frame, -⟩ := Command.serve_body ask (by decide) rfl rfl arg rfl (by decide)
    refine ⟨t, congrArg Host.Outcome.next run, (frame .times (by decide)).trans (s.heard_times m), ?_⟩
    rw [State.heard_time, State.heard_link, State.heard_parentKey] at answer
    exact answer
  case source =>
    rintro s m ⟨ask, -, role, len, src, pin, lane, reserved⟩
    have may : cmdTimeSource.may (s.heard m) m (s.req m) = true := by simpa [cmdTimeSource, needM] using role
    have arg : cmdTimeSource.argOk (s.heard m) (s.req m) = true := by
      simp [cmdTimeSource, lenIs, len, src, Nat.le_of_lt_succ pin, lane, reserved]
    obtain ⟨t, run, answer, frame, -⟩ := Command.serve_body ask (by decide) rfl may arg rfl (by decide)
    have tb := frame .tb (by decide)
    refine ⟨t, congrArg Host.Outcome.next run, answer, ?_⟩
    rw [tb]
    exact ⟨rfl, rfl, rfl, rfl, rfl, (congrArg TimeBase.pend (s.heard_tb m) :)⟩
  case setPps =>
    rintro s m ⟨ask, -, role, len, reserved, frac, pps⟩
    have may : cmdTimeSet.may (s.heard m) m (s.req m) = true := by simpa [cmdTimeSet, needM] using role
    have arg : cmdTimeSet.argOk (s.heard m) (s.req m) = true := by simpa [cmdTimeSet, lenIs, len, reserved] using frac
    have body : cmdTimeSet.body (s.heard m) m (s.req m) =
        ((s.heard m).modTb fun b => { b with secNext := some (BitVec.ofNat 32 ((s.req m).num 0 4)) }, okReply []) := by simp [cmdTimeSet, pps]
    obtain ⟨t, run, answer, frame, -⟩ := Command.serve_body ask (by decide) rfl may arg body (by decide)
    refine ⟨t, congrArg Host.Outcome.next run, answer, ?_, (frame .times (by decide)).trans (s.heard_times m)⟩
    rw [frame .tb (by decide), State.modTb, State.setTb_tb, State.heard_tb]
  case set =>
    rintro s m ⟨ask, -, role, len, reserved, frac, source⟩
    have may : cmdTimeSet.may (s.heard m) m (s.req m) = true := by simpa [cmdTimeSet, needM] using role
    have arg : cmdTimeSet.argOk (s.heard m) (s.req m) = true := by simpa [cmdTimeSet, lenIs, len, reserved] using frac
    have body : cmdTimeSet.body (s.heard m) m (s.req m) = (((s.heard m).programTime
        { applyAt := s.ps 8 + s.commandLead, stepBy := 0, setTo := some ((s.req m).num 0 4 * 2 ^ 80 + (s.req m).num 8 8 * 2 ^ 32), rate := none,
          mbx := some (s.token m (s.req m)) }).drew 1, bare stLater) := by
      simp only [cmdTimeSet, State.heard_tb, if_neg source, State.heard_ps, State.heard_commandLead, State.heard_token]
    obtain ⟨t, run, deferred, ringing, times, waits⟩ := Command.serve_programmed ask rfl may arg body
    obtain ⟨least, most⟩ := s.commandLead_range
    exact ⟨t, congrArg Host.Outcome.next run, deferred, ringing, times, _, waits, rfl, rfl, by simpa, by simpa, rfl, rfl⟩
  case adj =>
    rintro s m ⟨ask, -, role, len, low, high, free⟩
    have may : cmdTimeAdj.may (s.heard m) m (s.req m) = true := by simpa [cmdTimeAdj, needM] using role
    have arg : cmdTimeAdj.argOk (s.heard m) (s.req m) = true := by simp [cmdTimeAdj, lenIs, len, low, high]
    have body : cmdTimeAdj.body (s.heard m) m (s.req m) = (((s.heard m).programTime
        { applyAt := s.ps 8 + s.commandLead, stepBy := 0, setTo := none, rate := some (rateWord (s.req m).ppb),
          mbx := some (s.token m (s.req m)) }).drew 1, bare stLater) := by simp [cmdTimeAdj, free]
    obtain ⟨t, run, deferred, -, times, waits⟩ := Command.serve_programmed ask rfl may arg body
    obtain ⟨least, most⟩ := s.commandLead_range
    exact ⟨t, congrArg Host.Outcome.next run, deferred, times, _, waits, rfl, rfl, rfl, rfl, by simpa, by simpa⟩
  case apply =>
    rintro s p rest v ⟨first, due, step⟩
    obtain rfl : v = p.step := step
    have frame := (State.answerLater_steps (tok := p.mbx) (status := stOk) (data := []) (Steps.refl [.gable, .evr] (s.applied p rest)) (by decide)).1
    have pend := congrArg TimeBase.pend (frame .tb (by decide))
    have time := State.time_of_times_eq (frame .times (by decide))
    refine ⟨_, congrArg Host.Outcome.next (applyTime_of_due first due), ?_, ?_, ?_, ?_, ?_⟩
    · exact fun zero => pend.trans (State.pend_applied_of_zero zero rest)
    · exact fun moves => pend.trans (State.pend_applied_of_ne moves rest)
    · intro r rate d inPart
      rw [time, State.rate_applied inPart, rate, Option.getD_some]
    · intro d inPart runs moves
      rw [time, State.ctr_applied inPart rest runs moves]
    · intro tok asked waits seq
      have mbx : (s.applied p rest).mbx = s.mbx := by
        funext k; unfold State.mbx; rw [(s.applied_steps p rest).1 .gable (by decide)]
      rw [asked]
      exact State.answerLater_of_waiting (by rw [mbx]; exact waits) (by rw [mbx]; exact seq)
  case pin =>
    rintro s m d n ⟨ask, -, role, len, rfl, rfl, fitted, pin, reserved, config, captures, entries⟩
    have may : cmdTimePin.may (s.heard m) m (s.req m) = true := by simpa [cmdTimePin, needM] using role
    have arg : cmdTimePin.argOk (s.heard m) (s.req m) = true := by simp [cmdTimePin, lenIs, len, fitted, pin, reserved, config]
    have body : cmdTimePin.body (s.heard m) m (s.req m) = ((s.heard m).modTpin ((s.req m).num 0 1) ((s.req m).num 1 1) fun p =>
        p.configure ((s.req m).num 4 4), okReply []) := by simp [cmdTimePin, captures, entries]
    obtain ⟨t, run, answer, frame, -⟩ := Command.serve_body ask (by decide) rfl may arg body (by decide)
    refine ⟨t, congrArg Host.Outcome.next run, answer, ?_⟩
    rw [State.tpin_of_eq (frame .dies (by decide)) (frame .hpins (by decide)), State.tpin_modTpin, State.heard_tpin]
  case notify =>
    rintro s m ⟨ask, -, role, count, reserved, len⟩
    have may : cmdTimeNotify.may (s.heard m) m (s.req m) = true := by simpa [cmdTimeNotify, needM] using role
    have arg : cmdTimeNotify.argOk (s.heard m) (s.req m) = true := by simp [cmdTimeNotify, len, count, reserved]
    obtain ⟨t, run, answer, frame, -⟩ := Command.serve_body ask (by decide) rfl may arg rfl (by decide)
    refine ⟨t, congrArg Host.Outcome.next run, answer, ?_⟩
    rw [frame .tb (by decide), State.modTb, State.setTb_tb, State.heard_tb]
end

section
/-! PROOFS. Package time, part 3: timing pins, and the statement about them (11 R305 to R307, R539). -/

open Sys2Proof
namespace Sys2Proof.Machine

set_option Elab.async false

/-! ### What leaves a pin alone -/

@[simp] theorem State.tpin_answer (s : State) (resp : BitVec 3) (data : BitVec 64) (d n : Nat) : (s.answer resp data).tpin d n = s.tpin d n := rfl

@[simp] theorem State.tpin_raiseEvent (s : State) (node evid data : Nat) (note : Option LogEntry) (d n : Nat) :
    (s.raiseEvent node evid data note).tpin d n = s.tpin d n :=
  have frame := (State.raiseEvent_steps (Steps.refl [.routers, .evr] s) (by decide)).1
  State.tpin_of_eq (frame .dies (by decide)) (frame .hpins (by decide)) d n

theorem State.modTpin_frame (s : State) (d n : Nat) (f : TimingPin → TimingPin) : s.changesOnly (s.modTpin d n f) [.dies, .hpins] :=
  (State.modTpin_steps (Steps.refl _ s) (by decide)).1

@[simp] theorem State.time_modTpin (s : State) (d n : Nat) (f : TimingPin → TimingPin) (k : Nat) : (s.modTpin d n f).time k = s.time k :=
  State.time_of_times_eq (s.modTpin_frame d n f .times (by decide)) k

@[simp] theorem State.coarse_modTpin (s : State) (d n : Nat) (f : TimingPin → TimingPin) (k : Nat) : (s.modTpin d n f).coarse k = s.coarse k := by
  unfold State.coarse
  rw [State.time_modTpin, s.modTpin_frame d n f .tb (by decide)]

/-! ### Edges at a pin (11 R306) -/

/-- A pin that the device does not drive takes the level of an edge; with no capture that is all. -/
theorem edgeCapture_of_off {s : State} {d n : Nat} (pin : s.hasPin d n = true) (off : tpMode (s.tpin d n).cfg = 0) (rise : Bool) (ps : Nat) :
    edgeCapture s d n rise ps = s.modTpin d n fun p => { p with level := rise } := by
  unfold edgeCapture
  dsimp only
  rw [if_neg (by simp [pin, off]), if_pos (by simp [off])]

/-- An edge is recorded or lost in a full FIFO: the pin takes its level and time, the fabric of an F-die its pulse. -/
def State.takeEdge (s : State) (d n : Nat) (rise : Bool) (ps : Nat) : State :=
  (s.modTpin d n fun p => { p with level := rise }).modTpin d n fun p =>
    { p with lastEdge := some ps, edgeRise := rise, fabOut := if d = 8 then p.fabOut else some (BitVec.ofNat 32 ps, rise, s.coarse d) }

theorem State.tpin_takeEdge (s : State) (d n : Nat) (rise : Bool) (ps : Nat) : (s.takeEdge d n rise ps).tpin d n =
    { s.tpin d n with
      level := rise, lastEdge := some ps, edgeRise := rise,
      fabOut := if d = 8 then (s.tpin d n).fabOut else some (BitVec.ofNat 32 ps, rise, s.coarse d) } := by
  rw [State.takeEdge, State.tpin_modTpin, State.tpin_modTpin]

theorem State.takeEdge_steps (s : State) (d n : Nat) (rise : Bool) (ps : Nat) : Steps [.dies, .hpins] s (s.takeEdge d n rise ps) :=
  State.modTpin_steps (State.modTpin_steps (Steps.refl _ s) (by decide)) (by decide)

/-- An edge is lost in a full FIFO. -/
def State.loseEdge (s : State) (d n : Nat) : State := s.modTpin d n fun p => { p with lost := satInc p.lost, ovf := true }

/-- A selected edge on a capture pin whose time runs, far enough from the last one and inside the window. -/
theorem edgeCapture_of_selected {s : State} {d n ps : Nat} {rise : Bool} (pin : s.hasPin d n = true) (capture : tpMode (s.tpin d n).cfg = 1)
    (selected : tpEdge (s.tpin d n).cfg rise = true) (runs : (s.time d).stopped = false)
    (apart : ∀ e ∈ (s.tpin d n).lastEdge, ps < e ∨ e + 2500 ≤ ps)
    (inside : tpWin (s.tpin d n).cfg = false ∨ (s.tpin d n).winOpen ≤ ps ∧ ps < (s.tpin d n).winClose) :
    edgeCapture s d n rise ps =
      if (s.tpin d n).fifo.length < 16 then
        (s.takeEdge d n rise ps).modTpin d n fun p => { p with fifo := p.fifo ++ [{ p := ps, rise := rise, coarse := s.coarse d }] }
      else if (s.tpin d n).ovf then (s.takeEdge d n rise ps).loseEdge d n
      else ((s.takeEdge d n rise ps).loseEdge d n).raiseEvent d (evidOf d 0x0E 0x3AE) n none := by
  have windowed : ¬ (tpWin (s.tpin d n).cfg = true ∧ ¬ ((s.tpin d n).winOpen ≤ ps ∧ ps < (s.tpin d n).winClose)) := by
    rintro ⟨window, outside⟩
    rcases inside with none | within
    · rw [none] at window; cases window
    · exact outside within
  unfold edgeCapture State.takeEdge State.loseEdge
  simp only [State.time_modTpin, State.coarse_modTpin]
  rw [if_neg (by simp [pin, capture]), if_neg (by simp [capture, selected, runs])]
  refine (if_neg ?_).trans (if_neg windowed)
  split
  next e last => have := apart e last; simp; omega
  next => exact Bool.false_ne_true

/-! ### Scheduled edges (11 R307) -/

/-- An entry at least 100 ns ahead and at least 2.5 ns after the last one joins a queue with room. -/
theorem State.schedTake_of_room {s : State} {d n e : Nat} (ahead : s.ps d + 100000 ≤ e) (apart : ∀ l ∈ (s.tpin d n).lastSched, l + 2500 ≤ e)
    (room : (s.tpin d n).sched.length < 16) (level : Bool) : s.schedTake d n (some e) level =
      (s.modTpin d n fun p => { p with sched := p.sched ++ [(e, level)], lastSched := some e }, true) := by
  unfold State.schedTake
  dsimp only
  rw [if_neg (Nat.not_lt.mpr ahead)]
  refine (if_neg ?_).trans (if_neg (Nat.not_le.mpr room))
  split
  next l last => simpa using apart l last
  next => exact Bool.false_ne_true

/-- An INVALID stamp is refused as late, and the pin keeps its queue. -/
theorem State.schedTake_invalid (s : State) (d n : Nat) (level : Bool) :
    (s.schedTake d n none level).1.tpin d n = { s.tpin d n with late := true } ∧ (s.schedTake d n none level).2 = false := by
  refine ⟨?_, rfl⟩
  unfold State.schedTake
  dsimp only
  rw [State.tpin_raiseEvent, State.tpin_modTpin]

/-- The fabric interface of a schedule pin passes its entry on while its clock runs. -/
theorem exec_tpFabricSched {s : State} {d n : Nat} (fitted : d < s.fdies) (pin : n < 8) (schedule : tpMode (s.tpin d n).cfg = 2)
    (fabric : tpFabric (s.tpin d n).cfg = true) (clocked : s.tpClocked d n = true) (stamp : BitVec 32) (level : Bool) :
    exec (.tpFabricSched d n stamp level) s = .next
      ((s.schedTake d n (expandStamp stamp (s.ps d)) level).1.modTpin d n fun p =>
        { p with schRefused := !(s.schedTake d n (expandStamp stamp (s.ps d)) level).2 }) :=
  congrArg Host.Outcome.next (if_pos ⟨fitted, pin, schedule, fabric, clocked⟩)

/-- The entry at the head drives the pin once its time has come. -/
theorem schedEdge_of_due {s : State} {d n : Nat} {e : Nat × Bool} {rest : List (Nat × Bool)} (head : (s.tpin d n).sched = e :: rest)
    (due : e.1 ≤ s.ps d) (runs : (s.time d).stopped = false) (free : (s.die d).leggett.fenced = false) :
    schedEdge s d n = s.modTpin d n fun p => { p with level := e.2, sched := rest } := by
  unfold schedEdge
  rw [head]
  exact if_pos ⟨due, by simp [runs], by simp [free]⟩

theorem schedEdge_of_held {s : State} {d n : Nat} (held : (s.tpin d n).sched = [] ∨ (s.time d).stopped = true ∨ (s.die d).leggett.fenced = true) :
    schedEdge s d n = s := by
  unfold schedEdge
  split
  next e rest head => exact if_neg fun ⟨_, runs, free⟩ => by simp_all
  next => rfl

/-! ### Registers of a pin (11 Table 11.7) -/

/-- An access to a pin's registers that is let through is what the register answers. -/
theorem tpDirect_of_reaches {w : Who} {d n off : Nat} {write eight : Bool} {v : Nat} {s t : State} {data : Nat}
    (h : s.reaches w (tpAddr d n off) write = true) (reg : tpReg w s d n off write eight v = regOk t data) :
    tpDirect w d n off write eight v s = .next (t.answer respOk (BitVec.ofNat 64 data)) := by
  have run := State.access_of_reaches (body := fun s => tpReg w s d n off write eight v) h
    (by rw [reg]; exact (show respOk ≠ respDenied by decide))
  rw [reg] at run
  exact congrArg Host.Outcome.next run

section
variable {s : State} {d n : Nat} (pin : s.hasPin d n = true) (w : Who)
include pin

theorem tpReg_cap {r : CapRec} {rest : List CapRec} (acts : w.src ≠ 0x801 ∨ w.effect = true) (head : (s.tpin d n).fifo = r :: rest) :
    tpReg w s d n 0x08 false true 0 =
      regOk (s.modTpin d n fun p => { p with fifo := rest, ovf := false, capSec := BitVec.ofNat 32 (secOf r.p) })
        (psecOf r.p + atBit r.rise 40 + atBit r.coarse 41 + atBit true 42) := by
  have reads : readActs w = true := by simpa [readActs] using acts
  simp [tpReg, pin, tpCapReg, head, reads]

theorem tpReg_sched (v : Nat) : tpReg w s d n 0x18 true true v = regOk (tpSchedReg s d n v) 0 := by simp [tpReg, pin]

theorem tpReg_winOpen (v : Nat) : tpReg w s d n 0x20 true true v = regOk (s.winWrite d n false v) 0 := by simp [tpReg, pin]

theorem tpReg_winClose (v : Nat) : tpReg w s d n 0x28 true true v = regOk (s.winWrite d n true v) 0 := by simp [tpReg, pin]

theorem tpReg_ctrl (v : Nat) : tpReg w s d n 0x30 true false v = regOk (s.modTpin d n fun p => p.ctrl (v % 2 ^ 32)) 0 := by
  simp [tpReg, pin, putWords, State.tpWriteWord]

end

/-- TP_CAP of an empty FIFO reads 0, whether the pin is one of the part or not. -/
theorem tpReg_cap_of_empty {s : State} {d n : Nat} (empty : (s.tpin d n).fifo = []) (w : Who) : tpReg w s d n 0x08 false true 0 = regOk s 0 := by
  unfold tpReg
  split
  · rfl
  · simp [tpCapReg, empty]

/-- A write of TP_SCHED asks for an entry where the register is the pin's source. -/
theorem tpSchedReg_of_register {s : State} {d n : Nat} (schedule : tpMode (s.tpin d n).cfg = 2) (register : tpFabric (s.tpin d n).cfg = false)
    (v : Nat) : tpSchedReg s d n v = (s.schedTake d n (some (expandShort (bitsOf v 40 8) (bitsOf v 0 40) (s.ps d))) (bitOf v 48)).1 :=
  if_pos ⟨schedule, by simp [register]⟩

end Sys2Proof.Machine

open Sys2Proof Sys2Proof.Machine

/-- Settles O35: an edge by what a capture pin does with it, an entry by what the queue does with it, the registers by what an access that is let
    through does. -/
theorem timingPins : Obligations.timingPins := by
  unfold Obligations.timingPins
  refine ⟨?record, ?lose, ?pop, ?empty, ?sched, ?fabric, ?invalid, ?drive, ?held, ?level, ?winOpen, ?winClose, ?flushCap, ?flushSched, ?clear⟩
  case record =>
    rintro s d n ps rise ⟨pin, capture, selected, runs, apart, inside, room⟩
    refine ⟨_, congrArg Host.Outcome.next ((edgeCapture_of_selected pin capture selected runs apart inside).trans (if_pos room)), ?_⟩
    rw [State.tpin_modTpin, State.tpin_takeEdge]
    exact ⟨rfl, rfl, rfl, (State.modTpin_steps (s.takeEdge_steps d n rise ps) (by decide)).1⟩
  case lose =>
    rintro s d n ps rise ⟨pin, capture, selected, runs, apart, inside, full⟩
    refine ⟨_, congrArg Host.Outcome.next ((edgeCapture_of_selected pin capture selected runs apart inside).trans (if_neg (Nat.not_lt.mpr full))), ?_⟩
    have lost : ((s.takeEdge d n rise ps).loseEdge d n).tpin d n = _ := State.tpin_modTpin ..
    rw [State.tpin_takeEdge] at lost
    split
    · rw [lost]; exact ⟨rfl, rfl, rfl⟩
    · rw [State.tpin_raiseEvent, lost]; exact ⟨rfl, rfl, rfl⟩
  case pop =>
    rintro s w d n r rest ⟨reach, pin, acts, head⟩
    exact ⟨_, tpDirect_of_reaches reach (tpReg_cap pin w acts head), rfl, State.tpin_modTpin ..⟩
  case empty =>
    rintro s w d n ⟨reach, empty⟩
    exact ⟨_, tpDirect_of_reaches reach (tpReg_cap_of_empty empty w), rfl, (State.answer_steps (Steps.refl [.rsp] s) (by decide)).1⟩
  case sched =>
    rintro s w d n e v ⟨reach, pin, schedule, register, rfl, ahead, apart, room⟩
    refine ⟨_, tpDirect_of_reaches reach (tpReg_sched pin w v.toNat), rfl, ?_⟩
    rw [tpSchedReg_of_register schedule register, State.schedTake_of_room ahead apart room]
    exact State.tpin_modTpin ..
  case fabric =>
    rintro s d n e st lv ⟨fitted, pin, schedule, fabric, clocked, valid, ahead, apart, room⟩
    refine ⟨_, exec_tpFabricSched fitted pin schedule fabric clocked st lv, ?_⟩
    rw [valid, State.schedTake_of_room ahead apart room, State.tpin_modTpin, State.tpin_modTpin]
    rfl
  case invalid =>
    rintro s d n st lv ⟨fitted, pin, schedule, fabric, clocked, invalid⟩
    obtain ⟨late, refused⟩ := s.schedTake_invalid d n lv
    refine ⟨_, exec_tpFabricSched fitted pin schedule fabric clocked st lv, ?_⟩
    rw [invalid, State.tpin_modTpin, late, refused]
    rfl
  case drive =>
    rintro s d n e rest ⟨head, due, runs, free⟩
    exact ⟨_, congrArg Host.Outcome.next (schedEdge_of_due head due runs free), State.tpin_modTpin ..⟩
  case held => exact fun s d n held => congrArg Host.Outcome.next (schedEdge_of_held held)
  case level =>
    rintro s d n ps rise ⟨pin, off⟩
    exact ⟨_, congrArg Host.Outcome.next (edgeCapture_of_off pin off rise ps), State.tpin_modTpin ..⟩
  case winOpen =>
    rintro s w d n v ⟨reach, pin⟩
    exact ⟨_, tpDirect_of_reaches reach (tpReg_winOpen pin w v.toNat), rfl, State.tpin_modTpin ..⟩
  case winClose =>
    rintro s w d n v ⟨reach, pin⟩
    exact ⟨_, tpDirect_of_reaches reach (tpReg_winClose pin w v.toNat), rfl, State.tpin_modTpin ..⟩
  case flushCap =>
    rintro s w d n ⟨reach, pin⟩
    exact ⟨_, tpDirect_of_reaches reach (tpReg_ctrl pin w 1), rfl, State.tpin_modTpin ..⟩
  case flushSched =>
    rintro s w d n ⟨reach, pin⟩
    exact ⟨_, tpDirect_of_reaches reach (tpReg_ctrl pin w 2), rfl, State.tpin_modTpin ..⟩
  case clear =>
    rintro s w d n ⟨reach, pin⟩
    exact ⟨_, tpDirect_of_reaches reach (tpReg_ctrl pin w 4), rfl, State.tpin_modTpin ..⟩
end

section
/-! PROOFS. What holds at reset, and that no command stops the package (17 R437; log entry 132). -/

open Sys2Proof
namespace Sys2Proof.Machine

/-- A choice between two outcomes that go on goes on. -/
theorem exists_next_ite {c : Prop} [Decidable c] {a b : Out} (ha : ∃ t, a = .next t) (hb : ∃ t, b = .next t) :
    ∃ t, (if c then a else b) = .next t := by
  split
  · exact ha
  · exact hb

/-- Every arm of the dispatch answers a next state; four of them choose between two. -/
theorem exec_goes_on (c : Instr) (s : State) : ∃ t, exec c s = .next t := by
  cases c with
  | sliceWindowWrite | sliceWindowRead | ldFclkStop | ldSlgFreeze => exact exists_next_ite ⟨_, rfl⟩ ⟨_, rfl⟩
  | _ => exact ⟨_, rfl⟩

/-- What the reset state says of the parts without a key. -/
theorem reset_flat : State.reset.pending = [] ∧ State.reset.cfg.phase = .boot ∧ State.reset.cfg.started = false ∧
    State.reset.log.entries = [] ∧ State.reset.now = 0 := ⟨rfl, rfl, rfl, rfl, rfl⟩

/-- At reset every table is empty, so a read of any key finds the reset value. -/
theorem reset_keyed : (∀ d b, (State.reset.bay d b).state = .empty) ∧ (∀ n r, State.reset.router n r = Router.reset) ∧
    (∀ k, State.reset.link k = LinkEnd.reset) ∧ (∀ k, (State.reset.laneset k).state = .off) ∧ (∀ c, (State.reset.dmaCh c).state = .idle) ∧
    ∀ n, (State.reset.chan n).state = .off :=
  ⟨fun _ _ => rfl, fun _ _ => rfl, fun _ => rfl, fun _ => rfl, fun _ => rfl, fun _ => rfl⟩

end Sys2Proof.Machine

open Sys2Proof Sys2Proof.Machine

/-- Settles O3: the parts without a key as they stand, the keyed ones as reads of empty tables, which are canonical. -/
theorem resetState : Obligations.resetState := by
  obtain ⟨pending, phase, started, log, now⟩ := reset_flat
  obtain ⟨bays, routers, links, lanes, dma, chans⟩ := reset_keyed
  exact ⟨⟨pending, phase, started, bays, routers, links, lanes, dma, chans, log, now⟩, rfl⟩

/-- Settles O5, by the arms of the dispatch. -/
theorem everyCommandCompletes : Obligations.everyCommandCompletes := exec_goes_on
end

section
/-! PROOFS. The fault log: its entries in order, its commands and its writing, and the statement about them (19 R482 to R486; 17 Table 17.10). -/

open Sys2Proof
namespace Sys2Proof.Machine

/-! ### The entries of the log in order (19 R482, R485) -/

theorem Log.oldest_eq (l : Log) : l.oldest = (l.entries.map fun e => e.1.toNat).headD 0 := by
  unfold Log.oldest
  cases l.entries <;> rfl

theorem Log.newest_eq (l : Log) : l.newest = (l.entries.map fun e => e.1.toNat).getLastD 0 := by
  rw [List.getLastD_eq_getLast?, List.getLast?_map]
  unfold Log.newest
  cases l.entries.getLast? <;> rfl

section
variable {l : Log} (held : l.entries ≠ [])
  (rising : (l.entries.map fun e => e.1.toNat) = (List.range l.entries.length).map (fun k => l.oldest + k))
include held rising

/-- While the indices held rise one by one, NEWEST is as far from OLDEST as there are entries. -/
theorem Log.newest_of_rising : l.newest + 1 = l.oldest + l.entries.length := by
  have some := List.length_pos_of_ne_nil held
  obtain ⟨n, length⟩ : ∃ n, l.entries.length = n + 1 := ⟨l.entries.length - 1, by omega⟩
  rw [Log.newest_eq, rising, length, List.range_succ, List.map_append, List.getLastD_eq_getLast?]
  simp
  omega

/-- Then the entries up to an INDEX that is held are those from OLDEST to it. -/
theorem Log.upTo_of_rising {i : Nat} (low : l.oldest ≤ i) (high : i ≤ l.newest) : l.upTo i = i + 1 - l.oldest := by
  have last := Log.newest_of_rising held rising
  have place : l.place i = i - l.oldest := by
    unfold Log.place
    dsimp only
    rw [if_pos (by omega), if_neg (by omega)]
  unfold Log.upTo
  dsimp only
  rw [if_neg (by omega), place, if_neg (by omega)]
  omega

end

/-! ### Writing the log (19 R482, R483) -/

/-- An item that is no denial brings no repeats. -/
theorem Log.takeRepeats_of_other (l : Log) {e : LogEntry} (other : e.typ ≠ 1) : l.takeRepeats e = (0, l, false) := by
  rw [Log.takeRepeats, show e.denKey = none from if_neg other]

theorem Log.noteDrops_of_none {l : Log} (none : l.pendDrops = 0) (now : Nat) : l.noteDrops now = l := if_pos (.inl none)

/-- The log once the oldest item of the intake, which is no denial, is its newest entry. -/
def State.logWith (s : State) (x : LogEv) (rest : List LogEv) : Log := ({ s.log with intake := rest } : Log).append (s.stampEntry x.entry 0)

section
variable {s : State} {x : LogEv} {rest : List LogEv} (serves : s.gableServes = true) (runs : s.engineRuns = true)
  (intake : s.log.intake = x :: rest) (other : x.entry.typ ≠ 1) (noDrops : s.log.pendDrops = 0)
include serves runs intake other noDrops

theorem logEntryWrite_of_item : logEntryWrite s =
    if 4096 ≤ s.log.entries.length then (s.setLog (s.logWith x rest)).noteOverwrite else s.setLog (s.logWith x rest) := by
  have drops : (s.logWith x rest).pendDrops = 0 := noDrops
  have written : (({ s.log with intake := rest, denIdx := s.log.denIdx } : Log).append (s.stampEntry x.entry 0)).noteDrops s.now = s.logWith x rest :=
    Log.noteDrops_of_none drops s.now
  unfold logEntryWrite
  rw [if_neg (by simp [serves, runs]), intake]
  dsimp only
  rw [Log.takeRepeats_of_other _ other]
  dsimp only
  rw [if_neg Bool.false_ne_true, written]

end

/-- What a log that gave way for a new entry has raised, and when. -/
theorem State.noteOverwrite_log (s : State) : s.noteOverwrite.log.entries = s.log.entries ∧ s.noteOverwrite.log.overwritten = s.log.overwritten ∧
    s.noteOverwrite.log.intake = s.log.intake := by
  unfold State.noteOverwrite
  extract_lets due
  cases due
  · exact ⟨rfl, rfl, rfl⟩
  · exact ⟨rfl, rfl, rfl⟩

/-- The first entry that gives way raises LOG_OVERWRITE. -/
theorem State.noteOverwrite_of_first {s : State} (first : s.log.overAt = none) :
    s.noteOverwrite = (s.raiseHub 0x3B0 s.log.overwritten.toNat none).modLog fun l => { l with overAt := some s.now } := by
  unfold State.noteOverwrite
  rw [first]
  rfl

end Sys2Proof.Machine

open Sys2Proof Sys2Proof.Machine

/-- Settles O54: the commands read the log as it stands, LOG_CLEAR drops what its reading of UPTO counts, and the firmware's write appends. -/
theorem logCommands : Obligations.logCommands := by
  unfold Obligations.logCommands
  refine ⟨?info, ?read, ?clear, ?cleared, ?ridge, ?write, ?full, ?drops, ?idle⟩
  case info =>
    rintro s m ⟨ask, -, len⟩
    have arg : cmdLogInfo.argOk (s.heard m) (s.req m) = true := by simp [cmdLogInfo, lenIs, len]
    obtain ⟨t, run, answer, frame, -⟩ := Command.serve_body ask (by decide) rfl rfl arg rfl (by decide)
    have log : (s.heard m).log = s.log := s.heard_frame m .log (by decide)
    refine ⟨t, congrArg Host.Outcome.next run, (frame .log (by decide)).trans log, ?_⟩
    rw [log, Log.oldest_eq, Log.newest_eq] at answer
    exact answer
  case read =>
    rintro s m l ⟨ask, -, len, reserved, least, most, rfl⟩
    have arg : cmdLogRead.argOk (s.heard m) (s.req m) = true := by simp [cmdLogRead, lenIs, len, reserved, least, most]
    obtain ⟨t, run, answer, frame, -⟩ := Command.serve_body ask (by decide) rfl rfl arg rfl (by decide)
    have log : (s.heard m).log = s.log := s.heard_frame m .log (by decide)
    refine ⟨t, congrArg Host.Outcome.next run, (frame .log (by decide)).trans log, ?_⟩
    rw [log] at answer
    generalize (s.log.entries.drop _).take _ = l at answer ⊢
    cases l with
    | nil => exact answer
    | cons e l => rw [List.flatMap_def]; exact answer
  case clear =>
    rintro s m ⟨ask, -, role, len⟩
    have may : cmdLogClear.may (s.heard m) m (s.req m) = true := by simpa [cmdLogClear, needC] using role
    have arg : cmdLogClear.argOk (s.heard m) (s.req m) = true := by simp [cmdLogClear, lenIs, len]
    obtain ⟨t, run, answer, frame, -⟩ := Command.serve_body ask (by decide) rfl may arg rfl (by decide)
    have log : (s.heard m).log = s.log := s.heard_frame m .log (by decide)
    refine ⟨t, congrArg Host.Outcome.next run, answer, (frame .log (by decide)).trans ?_⟩
    rw [State.modLog, State.setLog_log, log]
  case cleared =>
    rintro s m i ⟨ask, -, role, len, rfl, rising, held, low, high⟩
    have may : cmdLogClear.may (s.heard m) m (s.req m) = true := by simpa [cmdLogClear, needC] using role
    have arg : cmdLogClear.argOk (s.heard m) (s.req m) = true := by simp [cmdLogClear, lenIs, len]
    obtain ⟨t, run, -, frame, -⟩ := Command.serve_body ask (by decide) rfl may arg rfl (by decide)
    have log : (s.heard m).log = s.log := s.heard_frame m .log (by decide)
    have last := Log.newest_of_rising held rising
    refine ⟨t, congrArg Host.Outcome.next run, ?_⟩
    rw [show t.log = _ from frame .log (by decide), State.modLog, State.setLog_log, log, Log.upTo_of_rising held rising low high]
    refine List.ext_getElem (by simp; omega) fun k hk _ => ?_
    have at_k := List.getElem_of_eq rising (i := (s.req m).num 0 4 + 1 - s.log.oldest + k) (by simp at hk ⊢; omega)
    simp only [List.getElem_map, List.getElem_range, List.getElem_drop] at at_k ⊢
    omega
  case ridge =>
    rintro s m ⟨ask, -, len, reserved, router, port⟩
    have arg : cmdRidgeStatus.argOk (s.heard m) (s.req m) = true := by simp [cmdRidgeStatus, lenIs, len, reserved, router, port]
    obtain ⟨t, run, answer, frame, -⟩ := Command.serve_body ask (by decide) rfl rfl arg rfl (by decide)
    refine ⟨t, congrArg Host.Outcome.next run, (frame .routers (by decide)).trans (s.heard_frame m .routers (by decide)), ?_⟩
    obtain ⟨g, heard⟩ := s.heard_eq_setGable m
    rw [heard] at answer
    exact answer
  case write =>
    rintro s x rest ⟨serves, runs, intake, other, noDrops, room⟩
    have log : s.logWith x rest = { s.log with intake := rest, next := nextIndex s.log.next, entries := s.log.entries ++ [(s.log.next, s.stampEntry x.entry 0)] } := by
      simp [State.logWith, Log.append, Nat.not_le.mpr room]
    refine ⟨_, rfl, ?_⟩
    rw [logEntryWrite_of_item serves runs intake other noDrops, if_neg (by omega), log]
    exact ⟨rfl, (State.setLog_steps (Steps.refl [.log] s) (by decide)).1⟩
  case full =>
    rintro s x rest ⟨serves, runs, intake, other, noDrops, full⟩
    refine ⟨_, rfl, ?_⟩
    rw [logEntryWrite_of_item serves runs intake other noDrops, if_pos (by omega)]
    obtain ⟨entries, overwritten, left⟩ := State.noteOverwrite_log (s.setLog (s.logWith x rest))
    have appended : (s.logWith x rest).entries = s.log.entries.tail ++ [(s.log.next, s.stampEntry x.entry 0)] := by
      simp [State.logWith, Log.append, full]
    rw [entries, overwritten, left, State.setLog_log, appended]
    refine ⟨by simp [full], by simp [State.logWith, Log.append, full], rfl, by simp, fun first => ?_⟩
    rw [State.noteOverwrite_of_first (s := s.setLog (s.logWith x rest)) first]
    exact ⟨List.map_append .., rfl⟩
  case drops =>
    rintro s ⟨serves, runs, intake, drops⟩
    refine ⟨_, rfl, ?_⟩
    unfold logEntryWrite
    rw [if_neg (by simp [serves, runs]), intake]
    dsimp only
    rw [State.setLog_log, Log.noteDrops, if_neg (by rw [intake]; exact not_or.mpr ⟨drops, by decide⟩), intake, List.nil_append]
  case idle =>
    rintro s stopped
    exact ⟨_, rfl, if_pos (by simpa using stopped)⟩
end

section
/-! PROOFS. The event router: its inputs, its outputs, its registers, and the statements about them (19 R487 to R494). -/

open Sys2Proof
namespace Sys2Proof.Machine

/-! ### Accesses to registers (01 R35) -/

/-- An access that is let through, to a register that answers OK. -/
theorem State.access_of_ok {s t : State} {w : Who} {addr : Nat} {write : Bool} {body : State → RegRes} {v : Nat}
    (h : s.reaches w addr write = true) (hb : body s = regOk t v) : s.access w addr write body = t.answer respOk (BitVec.ofNat 64 v) := by
  have done := State.access_of_reaches h (show (body s).2.1 ≠ respDenied by rw [hb]; exact (by decide : respOk ≠ respDenied))
  rw [hb] at done
  exact done

/-- An access that is let through, to a register that answers TGTERR. -/
theorem State.access_of_err {s : State} {w : Who} {addr : Nat} {write : Bool} {body : State → RegRes}
    (h : s.reaches w addr write = true) (hb : body s = regErr s) : s.access w addr write body = s.answer respTgtErr 0 := by
  have done := State.access_of_reaches h (show (body s).2.1 ≠ respDenied by rw [hb]; exact (by decide : respTgtErr ≠ respDenied))
  rw [hb] at done
  exact done

/-! ### The outputs of the router -/

@[simp] theorem State.evOut_modEvOut (s : State) (k : Nat) (f : EvOut → EvOut) : (s.modEvOut k f).evOut k = f (s.evOut k) := by
  simp [State.evOut, State.modEvOut, State.modEvr]

theorem State.evOut_modEvOut_other (s : State) {j k : Nat} (f : EvOut → EvOut) (h : j ≠ k) : (s.modEvOut k f).evOut j = s.evOut j := by
  simp [State.evOut, State.modEvOut, State.modEvr, tget_tmod_other _ _ _ h]

theorem State.evOut_of_outs_eq {s t : State} (h : t.evr.outs = s.evr.outs) (k : Nat) : t.evOut k = s.evOut k := congrArg (tget EvOut.reset · k) h

/-- A denial that is noted raises an event and leaves the outputs alone. -/
theorem State.evOut_noteDenial (s : State) (node tid : Nat) (k : Pkt) (discarded : Bool) (j : Nat) :
    (s.noteDenial node tid k discarded).evOut j = s.evOut j := by
  refine State.evOut_of_outs_eq ?_ j
  have raised : ∀ evid data note, (s.raiseEvent node evid data note).evr.outs = s.evr.outs := fun evid data note => by
    unfold State.raiseEvent
    split
    · rfl
    · rfl
  unfold State.noteDenial
  dsimp only
  split
  · split
    · rfl
    · rfl
  · exact raised ..

/-! ### Routing (19 R491) -/

/-- The mask of the output holds the event. -/
def EvOut.holds (o : EvOut) (e : Event) : Bool := (tget (0 : BitVec 32) o.mask (e.evid.toNat / 32)).getLsbD (e.evid.toNat % 32)

/-- What an output that is not of TYPE 2 makes of an event (19 Table 19.6). -/
def EvOut.takes (o : EvOut) (e : Event) (bound : Bool) (now : Nat) : EvOut :=
  if o.holds e = false then o
  else if o.typ = 1 then (if o.target < 64 ∧ bound = true then o.push e else { o with lost := satInc o.lost })
  else if o.typ = 3 then
    if o.mode1 then
      let near : Bool := match o.pulseAt with
        | some t => decide (now < t + 200000)
        | none => false
      if near then { o with lost := satInc o.lost } else { o with pulseAt := some now }
    else o.push e
  else o

/-- What an output of the router makes of an event. -/
def State.outTakes (s : State) (e : Event) (k : Nat) : EvOut := (s.evOut k).takes e (s.mbx (s.evOut k).target).bound s.now

theorem State.outTakes_congr {s t : State} {k : Nat} (out : t.evOut k = s.evOut k) (gable : t.gable = s.gable) (now : t.now = s.now) (e : Event) :
    t.outTakes e k = s.outTakes e k := by
  unfold State.outTakes State.mbx
  rw [out, gable, now]

section
variable {s : State} {k : Nat} (plain : (s.evOut k).typ ≠ 2)
include plain

/-- An output that is not of TYPE 2 sends nothing. -/
theorem State.drainOut_of_plain : s.drainOut k = s := if_pos (.inl plain)

/-- It takes the event for itself alone. -/
theorem State.copyTo_of_plain (e : Event) : s.copyTo e k = s ∧ s.outTakes e k = s.evOut k ∨ s.copyTo e k = s.modEvOut k fun _ => s.outTakes e k := by
  unfold State.outTakes EvOut.takes
  cases held : (s.evOut k).holds e with
  | false => exact .inl ⟨if_pos (show ¬ (s.evOut k).holds e = true by simp [held]), rfl⟩
  | true =>
    have copy : s.copyTo e k = _ := if_neg (not_not_intro held)
    rw [if_neg plain] at copy
    rw [copy, if_neg (show ¬ (true = false) by decide)]
    by_cases one : (s.evOut k).typ = 1
    · rw [if_pos one, if_pos one]
      exact .inr rfl
    · rw [if_neg one, if_neg one]
      by_cases three : (s.evOut k).typ = 3
      · rw [if_pos three, if_pos three]
        refine .inr ?_
        split
        · rfl
        · rfl
      · rw [if_neg three, if_neg three]
        exact .inl ⟨rfl, rfl⟩

theorem State.evOut_copyTo (e : Event) : (s.copyTo e k).evOut k = s.outTakes e k := by
  rcases State.copyTo_of_plain plain e with ⟨same, takes⟩ | changed
  · rw [same, takes]
  · rw [changed, State.evOut_modEvOut]

theorem State.evOut_copyTo_other (e : Event) {j : Nat} (h : j ≠ k) : (s.copyTo e k).evOut j = s.evOut j := by
  rcases State.copyTo_of_plain plain e with ⟨same, -⟩ | changed
  · rw [same]
  · rw [changed, State.evOut_modEvOut_other _ _ h]

theorem State.raised_copyTo (e : Event) : (s.copyTo e k).evr.raised = s.evr.raised := by
  rcases State.copyTo_of_plain plain e with ⟨same, -⟩ | changed
  · rw [same]
  · rw [changed]; rfl

end

section
variable {s : State} (plain : ∀ k ∈ List.range 64, (s.evOut k).typ ≠ 2)
include plain

theorem State.foldl_drainOut_of_plain : (List.range 64).foldl (fun (s : State) k => s.drainOut k) s = s := by
  have keeps : ∀ l : List Nat, (∀ k ∈ l, (s.evOut k).typ ≠ 2) → l.foldl (fun (s : State) k => s.drainOut k) s = s := by
    intro l
    induction l with
    | nil => exact fun _ => rfl
    | cons k l ih =>
      intro each
      rw [List.foldl_cons, State.drainOut_of_plain (each k List.mem_cons_self)]
      exact ih fun j mem => each j (List.mem_cons_of_mem _ mem)
  exact keeps _ plain

/-- The event copied to the first n outputs: each of them has taken it, the others are as they were. -/
theorem State.foldl_copyTo (e : Event) {n : Nat} (le : n ≤ 64) :
    ((List.range n).foldl (fun (s : State) k => s.copyTo e k) s).evr.raised = s.evr.raised ∧
      ∀ k, ((List.range n).foldl (fun (s : State) k => s.copyTo e k) s).evOut k = if k < n then s.outTakes e k else s.evOut k := by
  induction n with
  | zero => exact ⟨rfl, fun k => rfl⟩
  | succ n ih =>
    obtain ⟨raised, outs⟩ := ih (Nat.le_of_succ_le le)
    have frame : Steps [.routers, .evr] s ((List.range n).foldl (fun (s : State) k => s.copyTo e k) s) :=
      Steps.foldl _ _ (fun _ _ h => State.copyTo_steps h (by decide)) (Steps.refl _ s)
    rw [List.range_succ, List.foldl_append, List.foldl_cons, List.foldl_nil]
    generalize (List.range n).foldl (fun (s : State) k => s.copyTo e k) s = u at raised outs frame
    have here : u.evOut n = s.evOut n := by rw [outs, if_neg (Nat.lt_irrefl n)]
    have typ : (u.evOut n).typ ≠ 2 := by rw [here]; exact plain n (List.mem_range.mpr le)
    refine ⟨(State.raised_copyTo typ e).trans raised, fun k => ?_⟩
    by_cases this : k = n
    · subst this
      rw [State.evOut_copyTo typ, if_pos (Nat.lt_succ_self k)]
      exact State.outTakes_congr here (frame.1 .gable (by decide)) (frame.1 .now (by decide)) e
    · rw [State.evOut_copyTo_other typ e this, outs]
      exact if_congr (by omega) rfl rfl

/-- One raised event routed: the log takes its note, each output makes of it what its mask and its TYPE say. -/
theorem eventRoute_of_plain {e : Event} {rest : List Event} (clock : s.ridgeClock 8 = true) (raised : s.evr.raised = e :: rest) :
    (eventRoute s).evr.raised = rest ∧ (∀ n, e.note = some n → (eventRoute s).log = s.log.take n s.now) ∧
      (e.note = none → (eventRoute s).log = s.log) ∧ ∀ k, k < 64 → (eventRoute s).evOut k = s.outTakes e k := by
  have taken := State.foldl_copyTo (s := s.modEvr fun x => { x with raised := rest }) plain e (Nat.le_refl 64)
  have frame : Steps [.routers, .evr] (s.modEvr fun x => { x with raised := rest })
      ((List.range 64).foldl (fun (s : State) k => s.copyTo e k) (s.modEvr fun x => { x with raised := rest })) :=
    Steps.foldl _ _ (fun _ _ h => State.copyTo_steps h (by decide)) (Steps.refl _ _)
  have route : eventRoute s = match e.note with
      | some n => ((List.range 64).foldl (fun (s : State) k => s.copyTo e k) (s.modEvr fun x => { x with raised := rest })).logNote n
      | none => (List.range 64).foldl (fun (s : State) k => s.copyTo e k) (s.modEvr fun x => { x with raised := rest }) := by
    unfold eventRoute
    rw [if_neg (by simp [clock])]
    dsimp only
    rw [State.foldl_drainOut_of_plain plain, raised] <;> rfl
  rw [route]
  generalize (List.range 64).foldl (fun (s : State) k => s.copyTo e k) (s.modEvr fun x => { x with raised := rest }) = u at taken frame
  obtain ⟨left, outs⟩ := taken
  have log : u.log = s.log := frame.1 .log (by decide)
  have now : u.now = s.now := frame.1 .now (by decide)
  have each : ∀ k, k < 64 → u.evOut k = s.outTakes e k := fun k hk => (outs k).trans (if_pos hk)
  cases e.note with
  | none => exact ⟨left, nofun, fun _ => log, each⟩
  | some n =>
    refine ⟨left, fun n' same => ?_, nofun, each⟩
    obtain rfl := Option.some.inj same
    change u.log.take n u.now = s.log.take n s.now
    rw [log, now]

end

/-! ### Events raised (19 R488, R490) -/

theorem ofNat_low_word (data : BitVec 64) : BitVec.ofNat 32 (bitsOf data.toNat 0 32) = data.setWidth 32 := by
  apply BitVec.eq_of_toNat_eq
  simp [bitsOf]

/-- A pulse on an event input that is not too near the last one is sent as an EVENT packet. -/
theorem fabricEventInput_of_pulse {s : State} {d n : Nat} {data : BitVec 32} (fitted : d < s.fdies) (input : n < 64) (noc : s.nocRuns d = true)
    (net : s.fclkRuns d (Config.imageEvNet s.cfg.bundle d).toNat = true) (phase : s.cfg.phase = .p3 ∨ s.cfg.phase = .running)
    (open' : (s.die d).leggett.fenced = false)
    (apart : tget 0 s.evr.fabAt (64 * d + n) = 0 ∨ tget 0 s.evr.fabAt (64 * d + n) - 1 + s.nocPs 8 ≤ s.now) :
    fabricEventInput s d n data =
      (s.modEvr fun e => { e with fabAt := tput 0 e.fabAt (64 * d + n) (s.now + 1) }).raiseEvent d (d * 0x60 + 0x20 + n) data.toNat none := by
  unfold fabricEventInput
  rw [if_neg (by simp [noc, net, open', Nat.not_le.mpr fitted, Nat.not_le.mpr input, phase])]
  exact if_neg (by omega)

end Sys2Proof.Machine

open Sys2Proof Sys2Proof.Machine

/-- Settles O55: an input's packet as it stands at the control port, the outputs one by one, and the registers as the router's functions have them. -/
theorem eventRouter : Obligations.eventRouter := by
  unfold Obligations.eventRouter
  refine ⟨?input, ?still, ?raise, ?route, ?pop, ?refused, ?flush, ?clear⟩
  case input =>
    rintro s d n data ⟨fitted, other, input, noc, net, phase, open', apart⟩
    refine ⟨_, rfl, ?_⟩
    rw [fabricEventInput_of_pulse fitted input noc net phase open' apart, State.raiseEvent, if_neg other]
    refine ⟨tget_tput_same 0 s.evr.fabAt (64 * d + n) (s.now + 1), ?_⟩
    rw [State.inject, State.router_modRouter]
    dsimp only
    rw [show 8 * 7 + (eventPkt _ _ _ true).vc = 8 * 7 + (MsgClass.evt.vc + 1) from rfl, tget_tmod_same, List.map_append]
    refine congrArg (List.map _ (tget [] (s.router d 5).inq _) ++ ·) (congrArg (fun v => [(MsgClass.evt, true, _, v)]) ?_)
    exact (BitVec.ofNat_toNat 32 data).trans (BitVec.setWidth_eq data)
  case still =>
    rintro s d n data stays
    exact ⟨_, rfl, if_pos (by simpa [not_or] using stays)⟩
  case raise =>
    rintro s w data reach
    have done := State.access_of_ok (body := fun s => regOk (s.evrRaise data.toNat) 0) reach rfl
    refine ⟨_, congrArg Host.Outcome.next done, rfl, ?_⟩
    refine (List.map_append ..).trans (congrArg _ ?_)
    exact congrArg (fun v => [(BitVec.ofNat 10 (0x3E0 + data.toNat / 2 ^ 32 % 32), v)]) (ofNat_low_word data)
  case route =>
    rintro s e rest ⟨clock, raised, plain⟩
    obtain ⟨left, noted, unnoted, outs⟩ := eventRoute_of_plain plain clock raised
    refine ⟨_, rfl, left, noted, unnoted, fun k hk out => ?_, fun k hk held mail target bound => ?_, fun k hk held mail target bound => ?_⟩
    · rw [outs k hk, State.outTakes, EvOut.takes, if_pos (show EvOut.holds _ e = false from out)]
    · rw [outs k hk, State.outTakes, EvOut.takes, if_neg (ne_of_eq_of_ne (show EvOut.holds _ e = true from held) (by decide)), if_pos mail, if_pos ⟨target, bound⟩, EvOut.push]
    · rw [outs k hk, State.outTakes, EvOut.takes, if_neg (ne_of_eq_of_ne (show EvOut.holds _ e = true from held) (by decide)), if_pos mail, if_neg (by simp [bound])]
  case pop =>
    rintro s w k e rest ⟨-, reach, reads, allowed, fifo⟩
    have whole : isPeek w.src w.effect = false := by simpa [isPeek, imp_iff_not_or] using reads
    have body : s.evrPop w.src w.effect k = regOk (s.modEvOut k fun o => { o with fifo := rest, popStamp := e.stamp }) e.record := by
      simp [State.evrPop, whole, allowed, fifo]
    have done := State.access_of_ok (body := fun s => s.evrPop w.src w.effect k) reach body
    exact ⟨_, congrArg Host.Outcome.next done, rfl, State.evOut_modEvOut .., fun j other => State.evOut_modEvOut_other _ _ other⟩
  case refused =>
    rintro s w k ⟨-, reach, reads, refused⟩
    have whole : isPeek w.src w.effect = false := by simpa [isPeek, imp_iff_not_or] using reads
    have body : s.evrPop w.src w.effect k = regDenied s := if_pos (by simp [whole, refused])
    obtain ⟨node, tid, p, done⟩ := State.access_of_denied (body := fun s => s.evrPop w.src w.effect k) reach (by rw [body]; rfl)
    exact ⟨_, congrArg Host.Outcome.next done, rfl, fun j => s.evOut_noteDenial node tid p false j⟩
  case flush =>
    rintro s w k ⟨-, reach, allowed⟩
    have body : s.evrCtrl w.src k 1 = regOk (s.modEvOut k fun o => { o with fifo := [] }) 0 := if_pos allowed
    have done := State.access_of_ok (body := fun s => s.evrCtrl w.src k 1) reach body
    exact ⟨_, congrArg Host.Outcome.next done, rfl, State.evOut_modEvOut .., fun j other => State.evOut_modEvOut_other _ _ other⟩
  case clear =>
    rintro s w k ⟨-, reach, allowed⟩
    have body : s.evrCtrl w.src k 2 = regOk (s.modEvOut k fun o => { o with lost := 0 }) 0 := if_pos allowed
    have done := State.access_of_ok (body := fun s => s.evrCtrl w.src k 2) reach body
    exact ⟨_, congrArg Host.Outcome.next done, rfl, State.evOut_modEvOut .., fun j other => State.evOut_modEvOut_other _ _ other⟩

/-- The address of EVR_RAISE belongs to the event router's target (01 Table 1.4). -/
theorem decode_evrRaise (s : State) : s.decode (hubBase 2 + 0x008) = some (.hub 2, hubBase 2 + 0xFFFFF) := rfl

theorem windowWaits_evrRaise (s : State) : s.windowWaits (.hub 2) (hubBase 2 + 0x008) true 8 = none := rfl

/-- Settles O56: both rows are the same access to EVR_RAISE. -/
theorem softwareEvents : Obligations.softwareEvents := by
  unfold Obligations.softwareEvents
  rintro s w data c ⟨admitted, row⟩
  have reach : s.reaches w (hubBase 2 + 0x008) true = true := admitted
  have done : exec c s = .next ((s.evrRaise data.toNat).answer respOk 0) := by
    rcases List.mem_pair.mp row with rfl | rfl
    · exact congrArg Host.Outcome.next
        (State.access_of_ok (body := fun s => regOk (s.evrRaise data.toNat) 0) reach rfl)
    · have reg : regAccess w s (.hub 2) (hubBase 2 + 0x008) true (leBytes 8 data.toNat) 8 = (s.evrRaise data.toNat, respOk, []) := by
        have low : numAt (leBytes 8 data.toNat) 0 8 = data.toNat := by
          have pad := leNat_leBytes_zeros 8 0 data.toNat
          rw [show 256 ^ 8 = 2 ^ 64 from rfl, Nat.mod_eq_of_lt data.isLt] at pad
          simpa [numAt, bytesAt, length_leBytes, List.take_of_length_le] using pad
        simp only [regAccess, low]
        rfl
      exact congrArg Host.Outcome.next (registerWrite_of_reaches (decode_evrRaise s) rfl reach (windowWaits_evrRaise s) reg (by decide))
  exact ⟨_, _, done, rfl, rfl, rfl, ofNat_low_word data, (State.answer_steps (State.evrRaise_steps (Steps.refl [.rsp, .evr] s) (by decide)) (by decide)).1⟩
end

section
/-! PROOFS. Service pins: function changes, GPIO and PPS out, and the statement about them (20 R498 to R508). -/

open Sys2Proof
namespace Sys2Proof.Machine

/-! ### The pins -/

@[simp] theorem State.sp_modSp (s : State) (n : Nat) (f : SpPin → SpPin) : (s.modSp n f).sp n = f (s.sp n) := by
  simp [State.sp, State.modSp, State.modSvc]

theorem State.sp_modSp_other (s : State) {m n : Nat} (f : SpPin → SpPin) (h : m ≠ n) : (s.modSp n f).sp m = s.sp m := by
  simp [State.sp, State.modSp, State.modSvc, tget_tmod_other _ _ _ h]

/-! ### Writes in the service-pin block (20 R508) -/

/-- The state a register of the block is reached in: the bytes the UARTs have sent so far are gone from their FIFOs. -/
@[irreducible] def State.settled (s : State) : State := (s.settleUart 0).settleUart 1

theorem State.settled_eq (s : State) : ∃ us, s.settled = s.setSvc { s.svc with uarts := us } := by
  unfold State.settled
  exact ⟨_, rfl⟩

theorem State.settled_pins (s : State) : s.settled.svc.pins = s.svc.pins := by obtain ⟨us, h⟩ := s.settled_eq; rw [h]; rfl
theorem State.settled_gpioOut (s : State) : s.settled.svc.gpioOut = s.svc.gpioOut := by obtain ⟨us, h⟩ := s.settled_eq; rw [h]; rfl
theorem State.settled_gpioOe (s : State) : s.settled.svc.gpioOe = s.svc.gpioOe := by obtain ⟨us, h⟩ := s.settled_eq; rw [h]; rfl

theorem State.settled_sp (s : State) (n : Nat) : s.settled.sp n = s.sp n := by unfold State.sp; rw [s.settled_pins]

section
variable {s : State} {w : Who} {off v : Nat} (reach : s.reaches w (hubBase 6 + off) true = true)
include reach

/-- A 4-byte write that may be made is one word written. -/
theorem svcDirect_write {t : State} (may : (svcPriv off && !w.priv) = false) (word : svcWriteWord s.settled off (v % 2 ^ 32) = some t) :
    svcDirect w off true v s = .next (t.answer respOk 0) := by
  have body : svcReg w s off true false v = regOk t 0 := by
    unfold State.settled at word
    unfold svcReg
    rw [if_neg (by rw [Bool.false_and, Bool.or_false, may]; decide), if_pos rfl, svcWrite, if_neg Bool.false_ne_true]
    simp only [word]
  exact congrArg Host.Outcome.next (State.access_of_ok (body := fun s => svcReg w s off true false v) reach body)

/-- It is answered TGTERR where the word refuses it. -/
theorem svcDirect_err (may : (svcPriv off && !w.priv) = false) (word : svcWriteWord s.settled off (v % 2 ^ 32) = none) :
    svcDirect w off true v s = .next (s.settled.answer respTgtErr 0) := by
  have body : svcReg w s off true false v = regErr s.settled := by
    unfold State.settled at word ⊢
    unfold svcReg
    rw [if_neg (by rw [Bool.false_and, Bool.or_false, may]; decide), if_pos rfl, svcWrite, if_neg Bool.false_ne_true]
    simp only [word]
  have done := State.access_of_reaches (body := fun s => svcReg w s off true false v) reach
    (by rw [body]; exact (by decide : respTgtErr ≠ respDenied))
  rw [body] at done
  exact congrArg Host.Outcome.next done

/-- A write of a privileged register by an unprivileged master is DENIED. -/
theorem svcDirect_denied (may : (svcPriv off && !w.priv) = true) : ∃ node tid k,
    svcDirect w off true v s = .next ((s.noteDenial node tid k false).answer respDenied 0) := by
  have body : svcReg w s off true false v = regDenied s := if_pos (by rw [Bool.false_and, Bool.or_false, may])
  obtain ⟨node, tid, k, done⟩ := State.access_of_denied (body := fun s => svcReg w s off true false v) reach (by rw [body]; rfl)
  exact ⟨node, tid, k, congrArg Host.Outcome.next done⟩

end

theorem ofNat_mod_toNat {n : Nat} (v : BitVec n) : BitVec.ofNat n (v.toNat % 2 ^ n) = v := by
  rw [Nat.mod_eq_of_lt v.isLt]
  exact BitVec.eq_of_toNat_eq (by rw [BitVec.toNat_ofNat, Nat.mod_eq_of_lt v.isLt])

theorem svcWriteWord_gpioSet (s : State) (v : Nat) :
    svcWriteWord s 0x20C v = some (s.modSvc fun x => { x with gpioOut := x.gpioOut ||| BitVec.ofNat 32 v }) := rfl

theorem svcWriteWord_gpioClr (s : State) (v : Nat) :
    svcWriteWord s 0x210 v = some (s.modSvc fun x => { x with gpioOut := x.gpioOut &&& ~~~(BitVec.ofNat 32 v) }) := rfl

theorem svcPriv_pin {n : Nat} (pin : n < 64) : svcPriv (0x100 + 4 * n) = true := by
  simp only [svcPriv, Bool.or_eq_true, Bool.and_eq_true, decide_eq_true_eq]
  omega

theorem svcWriteWord_pin (s : State) {n : Nat} (pin : n < 64) (v : Nat) : svcWriteWord s (0x100 + 4 * n) v = spWrite s n v := by
  rw [svcWriteWord, if_pos (by omega), show (0x100 + 4 * n - 0x100) / 4 = n by omega]

section
variable {s : State} {w : Who} {n : Nat} {v : BitVec 32} (pin : n < 64) (reach : s.reaches w (hubBase 6 + (0x100 + 4 * n)) true = true)
  (priv : w.priv = true)
include pin reach priv

/-- A privileged write of SP_PIN_n that may be made. -/
theorem exec_spPinWrite {t : State} (write : spWrite s.settled n v.toNat = some t) : exec (.spPinWrite w n v) s = .next (t.answer respOk 0) :=
  svcDirect_write reach (by rw [svcPriv_pin pin, priv]; rfl) (by rw [svcWriteWord_pin _ pin, Nat.mod_eq_of_lt v.isLt]; exact write)

/-- One that may not. -/
theorem exec_spPinWrite_err (write : spWrite s.settled n v.toNat = none) :
    exec (.spPinWrite w n v) s = .next (s.settled.answer respTgtErr 0) :=
  svcDirect_err reach (by rw [svcPriv_pin pin, priv]; rfl) (by rw [svcWriteWord_pin _ pin, Nat.mod_eq_of_lt v.isLt]; exact write)

end

/-! ### PPS out (20 R501) -/

/-- PPS out rises for the second the H-die's time is near. -/
def State.risen (s : State) : State :=
  (s.modSvc fun x => { x with ppsHighAt := some s.now }).modTb fun b => { b with ppsOutSec := secOf (s.ps 8 + 2000) }

theorem State.risen_steps (s : State) : Steps [.svc, .tb] s s.risen :=
  State.modTb_steps (State.modSvc_steps (Steps.refl _ s) (by decide)) (by decide)

@[simp] theorem State.risen_svc (s : State) : s.risen.svc = { s.svc with ppsHighAt := some s.now } := by
  rw [State.risen, State.modTb, State.setTb_svc, State.modSvc, State.setSvc_svc]

@[simp] theorem State.risen_tb (s : State) : s.risen.tb = { s.tb with ppsOutSec := secOf (s.ps 8 + 2000) } := by
  rw [State.risen, State.modTb, State.setTb_tb, State.modSvc, State.setSvc_tb]

theorem execPpsOutPulse_of_due {s : State} (near : psecOf (s.ps 8 + 2000) ≤ 4000) (awake : s.clk.pkg = .active)
    (locked : s.svc.pps.getLsbD 16 = false ∨ s.tb.mstate = .locked) (fresh : s.tb.ppsOutSec ≠ secOf (s.ps 8 + 2000)) :
    execPpsOutPulse s = .next s.risen := congrArg Host.Outcome.next (if_pos ⟨near, awake, locked, fresh⟩)

/-- Once it has risen it is high, whatever its width. -/
theorem State.ppsOut_risen {s : State} (width : 1 ≤ bitsOf s.svc.pps.toNat 0 10) : s.risen.ppsOut = true := by
  have long : 0 < bitsOf s.svc.pps.toNat 0 10 * psMs := Nat.mul_pos width (by decide)
  unfold State.ppsOut
  rw [State.risen_svc, show s.risen.now = s.now from (State.risen_steps s).1 .now (by decide)]
  simpa only [decide_eq_true_eq] using Nat.lt_add_of_pos_right long

/-! ### Changing a pin's function (20 R505) -/

/-- The other pin that shows a function. -/
def State.otherPin (s : State) (n f : Nat) : Option Nat :=
  if f = 0x7F then none else (List.range 64).find? fun m => m != n && (s.sp m).shown == f

theorem State.otherPin_eq_none {s : State} {n f : Nat} (alone : ∀ m ∈ List.range 64, m ≠ n → f = 0x7F ∨ (s.sp m).shown ≠ f) : s.otherPin n f = none := by
  unfold State.otherPin
  split
  · rfl
  next named =>
    refine List.find?_eq_none.mpr fun m mem => ?_
    have other := alone m mem
    simp only [named, false_or] at other
    simpa using other

theorem State.otherPin_eq_some {s : State} {n m f : Nat} (pin : m < 64) (other : m ≠ n) (named : f ≠ 0x7F) (shows : (s.sp m).shown = f)
    (alone : ∀ k ∈ List.range 64, k ≠ n → k ≠ m → (s.sp k).shown ≠ f) : s.otherPin n f = some m := by
  unfold State.otherPin
  rw [if_neg named]
  cases found : (List.range 64).find? fun m => m != n && (s.sp m).shown == f with
  | none => exact absurd (List.find?_eq_none.mp found m (List.mem_range.mpr pin)) (by simp [other, shows])
  | some k =>
    have holds := List.find?_some found
    simp only [Bool.and_eq_true, bne_iff_ne, beq_iff_eq] at holds
    by_contra differ
    exact alone k (List.mem_of_find?_eq_some found) holds.1 (fun e => differ (congrArg some e)) holds.2

theorem SpPin.shown_of_steady {p : SpPin} (steady : p.switching = false) : p.shown = p.func.toNat ∧ p.padShown = p.pad := by
  simp [SpPin.shown, SpPin.padShown, steady]

theorem bitsOf_pad_slew (v : Nat) : bitsOf v 8 6 / 16 = bitsOf v 12 2 := by unfold bitsOf; omega

/-- What a write of SP_PIN_n makes of the other pin that showed its function. -/
def State.giveUp (t s : State) : Option Nat → State
  | some m => t.modSp m fun q => q.beginSwitch (s.spLevel m) 0x7F q.pad
  | none => t

section
variable {s : State} {n v : Nat} {other : Option Nat} (named : s.otherPin n (bitsOf v 0 7) = other)
include named

/-- A write that may be made, while neither its pin nor the one it takes the function from switches. -/
theorem spWrite_of_free (fixed : s.spFixed = false) (func : spFuncOk (bitsOf v 0 7) = true) (slew : bitsOf v 12 2 ≠ 3) (steady : (s.sp n).switching = false)
    (free : (other.map fun m => (s.sp m).switching).getD false = false) : spWrite s n v =
      if bitsOf v 0 7 = (s.sp n).func.toNat ∧ bitsOf v 8 6 = (s.sp n).pad then some s
      else some (((s.modSp n fun p => p.beginSwitch (s.spLevel n) (bitsOf v 0 7) (bitsOf v 8 6)).drew 1).giveUp s other) := by
  obtain ⟨shown, pad⟩ := SpPin.shown_of_steady steady
  have write : spWrite s n v = if s.spFixed = true ∨ ¬ spFuncOk (bitsOf v 0 7) = true ∨ bitsOf v 8 6 / 16 = 3 ∨
        ((s.sp n).switching || ((s.otherPin n (bitsOf v 0 7)).map fun m => (s.sp m).switching).getD false) = true then none
      else if bitsOf v 0 7 = (s.sp n).shown ∧ bitsOf v 8 6 = (s.sp n).padShown then some s
      else some (((s.modSp n fun p => p.beginSwitch (s.spLevel n) (bitsOf v 0 7) (bitsOf v 8 6)).drew 1).giveUp s (s.otherPin n (bitsOf v 0 7))) := rfl
  rw [write, named, if_neg (by simp [fixed, func, bitsOf_pad_slew, slew, steady, free]), shown, pad]

end

/-- The bytes sent by the UARTs are nothing to such a write. -/
theorem spWrite_settled_of_free {s : State} {n v : Nat} {other : Option Nat} (named : s.otherPin n (bitsOf v 0 7) = other) (fixed : s.spFixed = false)
    (func : spFuncOk (bitsOf v 0 7) = true) (slew : bitsOf v 12 2 ≠ 3) (steady : (s.sp n).switching = false)
    (free : (other.map fun m => (s.sp m).switching).getD false = false) : spWrite s.settled n v =
      if bitsOf v 0 7 = (s.sp n).func.toNat ∧ bitsOf v 8 6 = (s.sp n).pad then some s.settled
      else some (((s.settled.modSp n fun p => p.beginSwitch (s.spLevel n) (bitsOf v 0 7) (bitsOf v 8 6)).drew 1).giveUp s other) := by
  obtain ⟨us, h⟩ := s.settled_eq
  rw [h, spWrite_of_free (s := s.setSvc { s.svc with uarts := us }) named fixed func slew steady free]
  cases other <;> rfl

/-- A write that may not be made. -/
theorem spWrite_of_bad {s : State} {n v : Nat}
    (bad : (s.sp n).switching = true ∨ s.spFixed = true ∨ spFuncOk (bitsOf v 0 7) = false ∨ bitsOf v 12 2 = 3) : spWrite s.settled n v = none := by
  obtain ⟨us, h⟩ := s.settled_eq
  rw [h]
  unfold spWrite
  dsimp only
  rw [bitsOf_pad_slew]
  refine if_pos ?_
  rcases bad with h | h | h | h
  · exact .inr (.inr (.inr ((Bool.or_eq_true ..).mpr (.inl h))))
  · exact .inl h
  · exact .inr (.inl (by rw [h]; decide))
  · exact .inr (.inr (.inl h))

end Sys2Proof.Machine

open Sys2Proof Sys2Proof.Machine

/-- Settles O57: a write of SP_PIN_n is refused, changes nothing, or begins a switch of its pin and of the one that gives the function up. -/
theorem servicePins : Obligations.servicePins := by
  unfold Obligations.servicePins
  refine ⟨?change, ?take, ?bad, ?denied, ?same, ?done, ?still, ?set, ?clear, ?pulse, ?low⟩
  case change =>
    rintro s w n v ⟨pin, reach, priv, fixed, func, slew, steady, differs, alone⟩
    have write := spWrite_settled_of_free (State.otherPin_eq_none alone) fixed func slew steady rfl
    rw [if_neg (not_and_or.mpr differs)] at write
    refine ⟨_, exec_spPinWrite pin reach priv write, rfl, ?_, fun m other => (State.sp_modSp_other s.settled _ other).trans (s.settled_sp m)⟩
    refine (State.sp_modSp s.settled ..).trans ?_
    rw [State.settled_sp]
    rfl
  case take =>
    rintro s w n m v ⟨pin, pin', differ, reach, priv, fixed, func, some', slew, steady, steady', shows, has, alone⟩
    have write := spWrite_settled_of_free (State.otherPin_eq_some pin' differ some' shows alone) fixed func slew steady steady'
    rw [if_neg (fun h => has h.1.symm)] at write
    obtain ⟨t, eq, at_n, at_m, rest⟩ : ∃ t, spWrite s.settled n v.toNat = some t ∧
        t.sp n = (s.sp n).beginSwitch (s.spLevel n) (bitsOf v.toNat 0 7) (bitsOf v.toNat 8 6) ∧
        t.sp m = (s.sp m).beginSwitch (s.spLevel m) 0x7F (s.sp m).pad ∧ ∀ k, k ≠ n → k ≠ m → t.sp k = s.sp k := by
      refine ⟨_, write, ?_, ?_, fun k hn hm => ?_⟩
      · refine (State.sp_modSp_other _ _ differ.symm).trans ((State.sp_modSp s.settled ..).trans ?_)
        rw [State.settled_sp]
      · refine (State.sp_modSp ..).trans (congrArg (fun p : SpPin => p.beginSwitch (s.spLevel m) 0x7F p.pad) ?_)
        exact (State.sp_modSp_other s.settled _ differ).trans (s.settled_sp m)
      · exact (State.sp_modSp_other _ _ hm).trans ((State.sp_modSp_other s.settled _ hn).trans (s.settled_sp k))
    refine ⟨_, exec_spPinWrite pin reach priv eq, rfl, ?_⟩
    change (t.sp n).switching = true ∧ (t.sp n).func = 0x7F ∧ (t.sp n).newFunc = _ ∧ (t.sp m).switching = true ∧ (t.sp m).func = 0x7F ∧
      (t.sp m).newFunc = 0x7F ∧ ∀ k, k ≠ n → k ≠ m → t.sp k = s.sp k
    rw [at_n, at_m]
    exact ⟨rfl, rfl, rfl, rfl, rfl, rfl, rest⟩
  case bad =>
    rintro s w n v ⟨pin, reach, priv, bad⟩
    exact ⟨_, exec_spPinWrite_err pin reach priv (spWrite_of_bad bad), rfl, s.settled_sp⟩
  case denied =>
    rintro s w n v ⟨pin, reach, priv⟩
    obtain ⟨node, tid, k, done⟩ := svcDirect_denied (v := v.toNat) reach (by rw [svcPriv_pin pin, priv]; rfl)
    exact ⟨_, done, rfl, (State.noteDenial_steps (Steps.refl [.routers, .log, .evr] s) (by decide)).1 .svc (by decide)⟩
  case same =>
    rintro s w n v ⟨pin, reach, priv, fixed, func, slew, steady, same, pad, idle⟩
    have free : ((s.otherPin n (bitsOf v.toNat 0 7)).map fun m => (s.sp m).switching).getD false = false := by
      cases named : s.otherPin n (bitsOf v.toNat 0 7) with
      | none => rfl
      | some m =>
        unfold State.otherPin at named
        split at named
        · cases named
        · exact idle m (List.mem_of_find?_eq_some named)
    have write := spWrite_settled_of_free (n := n) (v := v.toNat) rfl fixed func slew steady free
    rw [if_pos ⟨same, pad⟩] at write
    exact ⟨_, exec_spPinWrite pin reach priv write, rfl, s.settled_sp⟩
  case done =>
    rintro s n ⟨pin, switching, clock⟩
    refine ⟨_, congrArg Host.Outcome.next (if_pos ⟨pin, switching, clock⟩), (State.modSvc_steps (Steps.refl [.svc] s) (by decide)).1, ?_⟩
    rw [State.sp_modSp]
    refine ⟨rfl, ?_, ?_, ?_, rfl, rfl, fun m other => State.sp_modSp_other _ _ other⟩ <;>
    · apply BitVec.eq_of_toNat_eq
      simp [SpPin.endSwitch, BitVec.extractLsb', Nat.shiftRight_eq_div_pow]
  case still =>
    rintro s n stays
    refine congrArg Host.Outcome.next (if_neg ?_)
    rintro ⟨pin, switching, clock⟩
    rcases stays with h | h | h
    · omega
    · rw [switching] at h; cases h
    · rw [clock] at h; cases h
  case set =>
    rintro s w v reach
    have done := svcDirect_write (v := v.toNat) (off := 0x20C) reach (by rw [show svcPriv 0x20C = false from rfl, Bool.false_and])
      (svcWriteWord_gpioSet ..)
    refine ⟨_, done, rfl, ?_, s.settled_gpioOe, s.settled_pins⟩
    change s.settled.svc.gpioOut ||| BitVec.ofNat 32 (v.toNat % 2 ^ 32) = _
    rw [ofNat_mod_toNat, State.settled_gpioOut]
  case clear =>
    rintro s w v reach
    have done := svcDirect_write (v := v.toNat) (off := 0x210) reach (by rw [show svcPriv 0x210 = false from rfl, Bool.false_and])
      (svcWriteWord_gpioClr ..)
    refine ⟨_, done, rfl, ?_, s.settled_gpioOe, s.settled_pins⟩
    change s.settled.svc.gpioOut &&& ~~~BitVec.ofNat 32 (v.toNat % 2 ^ 32) = _
    rw [ofNat_mod_toNat, State.settled_gpioOut]
  case pulse =>
    rintro s ⟨near, awake, locked, fresh⟩
    exact ⟨_, execPpsOutPulse_of_due near awake locked fresh, (State.risen_steps s).1, s.risen_svc, s.risen_tb, State.ppsOut_risen⟩
  case low =>
    rintro s stays
    refine congrArg Host.Outcome.next (if_neg ?_)
    rintro ⟨near, awake, locked, fresh⟩
    rcases stays with h | ⟨only, other⟩ | h | h
    · exact h awake
    · rcases locked with always | locked
      · rw [only] at always; cases always
      · exact other locked
    · exact fresh h
    · omega
end

section
/-! PROOFS. Ladder, part 1: the gable core it halts and runs, and what a reset of Ladder leaves (20 R509, R519, R520). -/

open Sys2Proof
namespace Sys2Proof.Machine

/-! ### The core without its mailboxes -/

/-- The gable controller but for its mailboxes. -/
def State.core (s : State) : Gable := { s.gable with mbx := [] }

theorem State.core_of_gable_eq {s t : State} (h : t.gable = s.gable) : t.core = s.core := by unfold State.core; rw [h]

theorem State.core_mbxRise (s : State) (m bit : Nat) : (s.mbxRise m bit).core = s.core := by
  obtain ⟨-, -, -, -, -, -, t, gable⟩ := s.mbxRise_eq m bit
  unfold State.core
  rw [gable]

theorem State.core_modMbx (s : State) (m : Nat) (f : Mbx → Mbx) : (s.modMbx m f).core = s.core := rfl

theorem State.core_showNext (s : State) (m : Nat) : (s.showNext m).core = s.core := by
  unfold State.showNext
  dsimp only
  split
  · rfl
  · split
    · rfl
    · exact (State.core_mbxRise ..).trans (State.core_modMbx ..)

theorem State.core_setGstate (s : State) (g : GState) : (s.setGstate g).core = { s.core with gstate := g } := by
  unfold State.setGstate
  split
  next same => subst same; rfl
  next => exact foldl_keeps State.core _ (fun s m => s.core_mbxRise m 2) _ _

/-! ### Halting and running the core (20 R520) -/

/-- What the core is once it runs again. -/
def State.ranCore (s : State) : Gable :=
  let run : Gable := { s.core with halted := false, haltReq := false, reservation := false, wdtAt := s.now }
  if s.gable.gstate = .halted then
    { run with gstate := if 0 < s.gable.beginnings then .restarting else if s.cfg.fwIf = 0 then .recovery else .running }
  else run

/-- A halted core that runs again. -/
theorem State.core_gableRun {s : State} (halted : s.gable.halted = true) : s.gableRun.core = s.ranCore := by
  unfold State.gableRun
  rw [if_neg (by simp [halted])]
  dsimp only
  refine (foldl_keeps State.core _ (fun s m => s.core_showNext m) _ _).trans ?_
  refine (foldl_keeps State.core _ (fun s d => ?_) _ _).trans ?_
  · refine (foldl_keeps State.core _ (fun s e => ?_) _ _).trans rfl
    split
    · split
      · rfl
      · rfl
    · rfl
  · by_cases h : s.gable.gstate = .halted
    · exact (congrArg State.core (if_pos h)).trans ((State.core_setGstate ..).trans (if_pos h).symm)
    · exact (congrArg State.core (if_neg h)).trans (if_neg h).symm

/-- After RUN no core is halted or asked to halt. -/
theorem State.gableRun_runs (s : State) : s.gableRun.gable.halted = false ∧ s.gableRun.gable.haltReq = false := by
  cases halted : s.gable.halted with
  | false =>
    unfold State.gableRun
    rw [if_pos (by simp [halted])]
    exact ⟨halted, rfl⟩
  | true =>
    have core := State.core_gableRun halted
    change s.gableRun.core.halted = false ∧ s.gableRun.core.haltReq = false
    rw [core]
    unfold State.ranCore
    dsimp only
    split
    · exact ⟨rfl, rfl⟩
    · exact ⟨rfl, rfl⟩

/-! ### Reset of Ladder (20 R509, R519) -/

/-- What a reset of Ladder counts on: its power, the failed certificates and the nonces drawn. -/
def Ladder.lasting (l : Ladder) : Bool × BitVec 5 × Nat := (l.powered, l.authFails, l.nonceCtr)

theorem State.lasting_unfreeze (s : State) (d g : Nat) : (s.unfreeze d g).lad.lasting = s.lad.lasting := by
  unfold State.unfreeze
  split
  · dsimp only
    rw [(State.slHeld_steps (Steps.refl [.dies] _) (by decide)).1 .lad (by decide)]
    rfl
  · rfl

theorem State.lasting_liftStops (s : State) : s.liftStops.lad.lasting = s.lad.lasting :=
  foldl_keeps (fun s : State => s.lad.lasting) (fun (s : State) (e : Nat × Nat) => s.unfreeze e.1 e.2) (fun s e => s.lasting_unfreeze e.1 e.2) _ s

theorem State.lad_ladderReset (s : State) : s.ladderReset.lad =
    { Ladder.reset with powered := s.lad.powered, authFails := s.lad.authFails, nonceCtr := s.lad.nonceCtr + 1 } := by
  have lasting : s.liftStops.gableRun.lad.lasting = s.lad.lasting :=
    (congrArg Ladder.lasting ((State.gableRun_steps (Steps.refl [.dies, .routers, .gable, .log, .evr] _) (by decide)).1 .lad (by decide))).trans
      s.lasting_liftStops
  obtain ⟨powered, fails, drawn⟩ : _ ∧ _ ∧ _ := by simpa only [Ladder.lasting, Prod.mk.injEq] using lasting
  unfold State.ladderReset
  rw [State.modLad, State.setLad_lad, State.modMaster, State.setMasters_lad, powered, fails, drawn]

theorem State.ladderReset_runs (s : State) : s.ladderReset.gable.halted = false ∧ s.ladderReset.gable.haltReq = false :=
  State.gableRun_runs s.liftStops

end Sys2Proof.Machine
end

section
/-! PROOFS. Ladder, part 2: the instructions of its TAPs, and the statement about them (20 R509 to R513, R519). -/

open Sys2Proof
namespace Sys2Proof.Machine

/-! ### The TAPs -/

@[simp] theorem State.tap_modTap (s : State) (n : Nat) (f : Tap → Tap) : (s.modTap n f).tap n = f (s.tap n) := by
  simp [State.tap, State.modTap, State.modLad]

theorem State.tap_modTap_other (s : State) {k n : Nat} (f : Tap → Tap) (h : k ≠ n) : (s.modTap n f).tap k = s.tap k := by
  simp [State.tap, State.modTap, State.modLad, tget_tmod_other _ _ _ h]

theorem State.modTap_frame (s : State) (n : Nat) (f : Tap → Tap) : s.changesOnly (s.modTap n f) [.lad] :=
  (State.modTap_steps (Steps.refl [.lad] s) (by decide)).1

theorem State.tap_of_taps_eq {s t : State} (h : t.lad.taps = s.lad.taps) (n : Nat) : t.tap n = s.tap n := congrArg (tget Tap.reset · n) h

theorem State.tap_modLad (s : State) {f : Ladder → Ladder} (h : (f s.lad).taps = s.lad.taps) (n : Nat) : (s.modLad f).tap n = s.tap n :=
  State.tap_of_taps_eq h n

section
variable {s : State} {n : Nat} {code : BitVec 8} {bits : Option (BitVec 64)}

/-- An instruction that takes the pins, with a pattern for them, while no image runs. -/
theorem State.pinInstr_of_free {b : BitVec 64} (tap : s.hasTap n = true) (free : s.noImage = true) : s.pinInstr n code (some b) =
    (s.drew 2).modTap n fun x => { x with irOut := 0x01, ir := code, boundary := b, dr := s.boundarySample } := by
  unfold State.pinInstr
  rw [if_neg (by simp [tap]), if_pos free]

/-- The same without a pattern. -/
theorem State.pinInstr_of_free_none (tap : s.hasTap n = true) (free : s.noImage = true) : s.pinInstr n code none =
    s.modTap n fun x => { x with irOut := 0x01, ir := code, dr := 0 } := by
  unfold State.pinInstr
  rw [if_neg (by simp [tap]), if_pos free]

/-- While an image runs it is BYPASS, and refused. -/
theorem State.pinInstr_of_image (tap : s.hasTap n = true) (image : s.noImage = false) : s.pinInstr n code bits =
    (s.modTap n fun x => { x with irOut := 0x01, ir := 0xFF, dr := 0 }).modLad fun l => { l with refused := true } := by
  unfold State.pinInstr
  rw [if_neg (by simp [tap]), if_neg (by simp [image])]

theorem State.pinInstr_of_absent (tap : s.hasTap n = false) : s.pinInstr n code bits = s := if_pos (by simp [tap])

end

/-! ### WAKE and the bus master (20 R513; 18 R475) -/

theorem State.packageWake_of_deep {s : State} (deep : s.clk.pkg = .deep) (source : Nat) :
    s.packageWake source = s.beginPackageWake (BitVec.ofNat 6 (2 ^ source)) := by
  unfold State.packageWake
  rw [deep]

/-- What a scan of BUSACC captures, before its own access. -/
def State.busScan (s : State) : State := s.modTap 8 fun x => { x with irOut := 0x01, ir := 0x10, dr := s.lad.capture }

theorem State.tap_busScan (s : State) : s.busScan.tap 8 = { s.tap 8 with irOut := 0x01, ir := 0x10, dr := s.lad.capture } := s.tap_modTap 8 _

theorem busAcc_of_tap {s : State} (dr : BitVec 128) (tap : s.hasTap 8 = true) : busAcc s dr =
    if s.lad.busPend then s.busScan
    else if s.cfg.porn ∨ s.clk.pkg = .deep then s.busScan.modLad fun l => { l with busRsp := respTimeout, busDone := true, busData := 0 }
    else ((s.busScan.modMaster 0x801 fun m => { m with nextTag := if dr.getLsbD 114 then 0x200 else 0 }).injectReq 0x801 (busReq dr) 0).1.modLad
      fun l => { l with busPend := true, busDone := false, busData := 0, busRsp := 0 } := by
  unfold busAcc
  rw [if_neg (by simp [tap])]
  rfl

/-! ### Authorization (20 R519) -/

/-- The state in which AUTH has been shifted in. -/
def State.authScan (s : State) : State := s.modTap 8 fun x => { x with irOut := 0x01, ir := 0x11, dr := 0 }

theorem authByte_of_tap {s : State} (b : BitVec 8) (tap : s.hasTap 8 = true) : authByte s b =
    if s.lad.locked = true ∨ s.lad.verifying = true then s.authScan
    else s.authScan.modLad fun l => { l with cert := l.cert ++ [b], verifying := l.cert.length + 1 == 224 } := by
  unfold authByte
  rw [if_neg (by simp [tap])]
  rfl

theorem authVerifyDone_of_verifying {s : State} (powered : s.lad.powered = true) (verifying : s.lad.verifying = true) : authVerifyDone s =
    s.modLad fun l => { l with auth := l.auth || s.certOk s.lad.cert,
                               authFails := if s.certOk s.lad.cert ∨ l.locked then l.authFails else l.authFails + 1, cert := [], verifying := false,
                               nonceCtr := l.nonceCtr + 1 } := by
  unfold authVerifyDone
  rw [if_neg (by simp [powered, verifying])]

/-- A field of the certificate that is not as Table 20.9 has it fails the check. -/
theorem State.certOk_of_bad {s : State} {c : List (BitVec 8)} (bad : numAt c 0 4 ≠ 0x4144464B ∨ numAt c 8 8 ≠ s.fuses.unique.toNat ∨
    numAt c 0x10 8 ≠ s.lad.nonce.toNat ∨ numAt c 5 3 ≠ 0 ∨ numAt c 0x79 7 ≠ 0) : s.certOk c = false := by
  refine Bool.eq_false_iff.mpr fun ok => ?_
  simp only [State.certOk, Bool.and_eq_true, beq_iff_eq] at ok
  obtain ⟨⟨⟨⟨⟨magic, pad⟩, unique⟩, nonce⟩, pad'⟩, -⟩ := ok
  rcases bad with h | h | h | h | h
  · exact h magic
  · exact h unique
  · exact h nonce
  · exact h pad
  · exact h pad'

end Sys2Proof.Machine

open Sys2Proof Sys2Proof.Machine

/-- Settles O59: each instruction is a scan of its TAP and what it adds; a reset of Ladder keeps its power and the failed certificates alone. -/
theorem tapInstructions : Obligations.tapInstructions := by
  unfold Obligations.tapInstructions
  refine ⟨?idcode, ?extest, ?clamp, ?refused, ?sample, ?bypass, ?absent, ?still, ?wakes, ?access, ?pending, ?timeout, ?byte, ?locked, ?check, ?bad,
    ?trst, ?loss, ?back⟩
  case idcode =>
    rintro s n tap
    exact ⟨_, congrArg Host.Outcome.next (if_pos tap), s.modTap_frame _ _, s.tap_modTap .., fun k other => s.tap_modTap_other _ other⟩
  case extest =>
    rintro s n b c code ⟨tap, free, row⟩
    have done : exec c s = .next (s.pinInstr n code (some b)) := by
      simp only [List.mem_cons, Prod.mk.injEq, List.not_mem_nil, or_false] at row
      rcases row with ⟨rfl, rfl⟩ | ⟨rfl, rfl⟩ | ⟨rfl, rfl⟩ <;> rfl
    rw [State.pinInstr_of_free tap free] at done
    refine ⟨_, done, (State.modTap_steps (State.drew_steps (Steps.refl [.lad, .free] s) (by decide)) (by decide)).1, ?_, ?_, rfl,
      fun k other => State.tap_modTap_other _ _ other⟩
    · rw [State.tap_modTap]
    · rw [State.tap_modTap]
  case clamp =>
    rintro s n c code ⟨tap, free, row⟩
    have done : exec c s = .next (s.pinInstr n code none) := by
      simp only [List.mem_cons, Prod.mk.injEq, List.not_mem_nil, or_false] at row
      rcases row with ⟨rfl, rfl⟩ | ⟨rfl, rfl⟩ <;> rfl
    rw [State.pinInstr_of_free_none tap free] at done
    exact ⟨_, done, s.modTap_frame _ _, s.tap_modTap .., rfl, fun k other => s.tap_modTap_other _ other⟩
  case refused =>
    rintro s n b c ⟨tap, image, row⟩
    obtain ⟨code, bits, done⟩ : ∃ code bits, exec c s = .next (s.pinInstr n code bits) := by
      simp only [List.mem_cons, List.not_mem_nil, or_false] at row
      rcases row with rfl | rfl | rfl | rfl | rfl <;> exact ⟨_, _, rfl⟩
    rw [State.pinInstr_of_image tap image] at done
    exact ⟨_, done, (State.modLad_steps (State.modTap_steps (Steps.refl [.lad] s) (by decide)) (by decide)).1,
      (State.tap_modLad _ rfl n).trans (s.tap_modTap n _), rfl,
      fun k other => (State.tap_modLad _ rfl k).trans (s.tap_modTap_other (n := n) _ other)⟩
  case sample =>
    rintro s n b tap
    refine ⟨_, congrArg Host.Outcome.next (if_pos tap),
      (State.modTap_steps (State.drew_steps (Steps.refl [.lad, .free] s) (by decide)) (by decide)).1, ?_, ?_, rfl,
      fun k other => State.tap_modTap_other _ _ other⟩
    · rw [State.tap_modTap]
    · rw [State.tap_modTap]
  case bypass =>
    rintro s n c ⟨tap, high, other⟩
    have unlisted : ¬ tapListed n c = true := by
      simp only [tapListed, Bool.or_eq_true, Bool.and_eq_true, decide_eq_true_eq, beq_iff_eq]
      omega
    exact ⟨_, congrArg Host.Outcome.next (if_pos ⟨tap, unlisted⟩), s.modTap_frame _ _, s.tap_modTap .., fun k other => s.tap_modTap_other _ other⟩
  case absent =>
    rintro s n b c ⟨tap, row⟩
    have none : ¬ s.hasTap n = true := by simp [tap]
    simp only [List.mem_cons, List.not_mem_nil, or_false] at row
    rcases row with rfl | rfl | rfl | rfl | rfl | rfl | rfl | rfl
    · exact congrArg Host.Outcome.next (if_neg none)
    · exact congrArg Host.Outcome.next (if_neg none)
    iterate 5 exact congrArg Host.Outcome.next (State.pinInstr_of_absent tap)
    · exact congrArg Host.Outcome.next (if_neg fun h => none h.1)
  case still =>
    rintro s ⟨tap, disabled⟩
    refine ⟨_, congrArg Host.Outcome.next ((if_pos tap).trans (if_neg ?_)), s.modTap_frame _ _, s.tap_modTap ..⟩
    exact ne_true_of_eq_false disabled
  case wakes =>
    rintro s ⟨tap, enabled, deep⟩
    have wake : execWake s = .next ((s.modTap 8 fun x => { x with irOut := 0x01, ir := 0x12, dr := 0 }).beginPackageWake (BitVec.ofNat 6 (2 ^ 4))) :=
      congrArg Host.Outcome.next ((if_pos tap).trans ((if_pos enabled).trans (State.packageWake_of_deep (s := s.modTap 8 _) deep 4)))
    exact ⟨_, wake, congrArg Tap.ir (s.tap_modTap 8 _), rfl⟩
  case access =>
    rintro s dr ⟨tap, free, porn, awake⟩
    have done := busAcc_of_tap dr tap
    rw [if_neg (ne_true_of_eq_false free), if_neg (by simp [porn, awake])] at done
    refine ⟨_, congrArg Host.Outcome.next done, ?_, rfl, rfl⟩
    have same : (s.busScan.modMaster 0x801 fun m => { m with nextTag := if dr.getLsbD 114 then 0x200 else 0 }).lad = s.busScan.lad := rfl
    generalize s.busScan.modMaster 0x801 _ = u at same
    have sent : (u.injectReq 0x801 (busReq dr) 0).1.lad = u.lad :=
      (State.injectReq_steps (Steps.refl [.routers, .masters, .flows, .evr] u) (by decide)).1 .lad (by decide)
    generalize (u.injectReq 0x801 (busReq dr) 0).1 = v at sent
    exact (State.tap_modLad v rfl 8).trans ((State.tap_of_taps_eq (congrArg Ladder.taps (sent.trans same)) 8).trans s.tap_busScan)
  case pending =>
    rintro s dr ⟨tap, pend⟩
    have done := (busAcc_of_tap dr tap).trans (if_pos pend)
    exact ⟨_, congrArg Host.Outcome.next done, s.modTap_frame _ _, s.tap_modTap .., pend, rfl⟩
  case timeout =>
    rintro s dr ⟨tap, free, gone⟩
    have done := ((busAcc_of_tap dr tap).trans (if_neg (ne_true_of_eq_false free))).trans (if_pos gone)
    exact ⟨_, congrArg Host.Outcome.next done, (State.modLad_steps (State.modTap_steps (Steps.refl [.lad] s) (by decide)) (by decide)).1, free, rfl, rfl⟩
  case byte =>
    rintro s b ⟨tap, unlocked, idle⟩
    have done := (authByte_of_tap b tap).trans (if_neg (by simp [Ladder.locked, idle, unlocked]))
    refine ⟨_, congrArg Host.Outcome.next done, (State.modLad_steps (State.modTap_steps (Steps.refl [.lad] s) (by decide)) (by decide)).1, rfl, ?_, rfl⟩
    exact Bool.eq_iff_iff.mpr (by simp [State.authScan, State.modTap, State.modLad])
  case locked =>
    rintro s b ⟨tap, shut⟩
    have done := (authByte_of_tap b tap).trans (if_pos (by simpa [Ladder.locked] using shut))
    exact ⟨_, congrArg Host.Outcome.next done, s.modTap_frame _ _, rfl, rfl, rfl⟩
  case check =>
    rintro s ⟨powered, verifying⟩
    refine ⟨_, congrArg Host.Outcome.next (authVerifyDone_of_verifying powered verifying), (State.modLad_steps (Steps.refl [.lad] s) (by decide)).1,
      rfl, rfl, rfl, fun ok => ?_, fun bad => ?_⟩
    · rw [State.modLad, State.setLad_lad, ok]
      dsimp only
      exact ⟨Bool.or_true _, if_pos (Or.inl (rfl : true = true))⟩
    · rw [State.modLad, State.setLad_lad, bad]
      dsimp only
      exact ⟨Bool.or_false _, if_congr (by simp [Ladder.locked]) rfl rfl⟩
  case bad => exact fun s bad => State.certOk_of_bad bad
  case trst =>
    rintro s powered
    obtain ⟨halted, asked⟩ := s.ladderReset_runs
    refine ⟨_, congrArg Host.Outcome.next (if_pos powered), ?_⟩
    rw [s.lad_ladderReset]
    exact ⟨rfl, rfl, rfl, rfl, rfl, rfl, powered, halted, asked⟩
  case loss =>
    rintro s
    obtain ⟨halted, asked⟩ := s.ladderReset_runs
    have lad := s.lad_ladderReset
    refine ⟨_, rfl, rfl, ?_⟩
    rw [State.modLad, State.setLad_lad, lad]
    exact ⟨rfl, rfl, rfl, rfl, rfl, halted, asked, rfl⟩
  case back =>
    rintro s off
    have lad := s.lad_ladderReset
    refine ⟨_, congrArg Host.Outcome.next (if_neg (ne_true_of_eq_false off)), rfl, ?_⟩
    rw [State.modLad, State.setLad_lad, lad]
    exact ⟨rfl, rfl, rfl, rfl⟩
end

section
/-! PROOFS. Ladder, part 3: run control of clocks, slices, captures and the gable core, and the statement about it (20 R516 to R522). -/

open Sys2Proof
namespace Sys2Proof.Machine

/-! ### Writes of Ladder registers (20 R519, R522) -/

section
variable {s t : State} {w : Who} {off v : Nat} (reach : s.reaches w (hubBase 8 + off) true = true)
include reach

theorem ladDirect_of_ok (put : s.ladPut w.src off (v % 2 ^ 32) = (t, respOk)) : ladDirect w off v s = .next (t.answer respOk 0) := by
  have body : ladReg w s off true false v = regOk t 0 := by
    unfold ladReg
    rw [put]
    rfl
  exact congrArg Host.Outcome.next (State.access_of_ok (body := fun s => ladReg w s off true false v) reach body)

theorem ladDirect_of_err (put : (s.ladPut w.src off (v % 2 ^ 32)).2 = respTgtErr) : ladDirect w off v s = .next (s.answer respTgtErr 0) := by
  have body : ladReg w s off true false v = regErr s := by
    unfold ladReg
    rw [if_pos rfl]
    dsimp only
    rw [put]
    rfl
  exact congrArg Host.Outcome.next (State.access_of_err (body := fun s => ladReg w s off true false v) reach body)

/-- Only Ladder's own master writes its registers (20 R522). -/
theorem ladDirect_of_other (writer : ladWriter off = true) (other : w.src ≠ 0x801) : ∃ node tid k,
    ladDirect w off v s = .next ((s.noteDenial node tid k false).answer respDenied 0) := by
  have put : s.ladPut w.src off (v % 2 ^ 32) = (s, respDenied) := if_pos ⟨writer, other⟩
  have body : ladReg w s off true false v = (s, respDenied, 0) := by
    unfold ladReg
    rw [put]
    rfl
  obtain ⟨node, tid, k, done⟩ := State.access_of_denied (body := fun s => ladReg w s off true false v) reach (by rw [body])
  exact ⟨node, tid, k, congrArg Host.Outcome.next done⟩

end

theorem ladPut_fclkStep (s : State) (v : Nat) : s.ladPut 0x801 0x030 v = match s.ldFclkStep v with
    | some t => (t, respOk)
    | none => (s, respTgtErr) := rfl

theorem ladPut_slgStep (s : State) (v : Nat) : s.ladPut 0x801 0x0C0 v = match s.ldSlgStep v with
    | some t => (t, respOk)
    | none => (s, respTgtErr) := rfl

theorem ladPut_capCtrl (s : State) (v : Nat) : s.ladPut 0x801 0x100 v = (s.ldCapCtrl v, respOk) := rfl

theorem ladPut_gable (s : State) (v : Nat) : s.ladPut 0x801 0x200 v = if s.lad.auth then (s.ldGableCtrl v, respOk) else (s, respTgtErr) := by
  cases auth : s.lad.auth with
  | true => exact if_neg (by simp [auth])
  | false => exact if_pos (by simp [auth, ladNeedsAuth])

theorem ladPut_fclkStop (s : State) {d : Nat} (fitted : d < s.fdies) (v : Nat) : s.ladPut 0x801 (0x010 + d * 4) v = (s.ldFclkStop d v, respOk) := by
  have few := s.fdies_le
  have free : ladNeedsAuth (0x010 + d * 4) = false := by
    simp only [ladNeedsAuth, Bool.or_eq_false_iff, beq_eq_false_iff_ne, Bool.and_eq_false_iff, decide_eq_false_iff_not]
    omega
  unfold State.ladPut
  dsimp only
  rw [if_neg (by simp), if_neg (by simp [free]), if_neg (by omega), if_pos (by omega), show (0x010 + d * 4 - 0x010) / 4 = d by omega, if_pos fitted]

theorem ladPut_slgFreeze (s : State) {d k : Nat} (fitted : d < s.fdies) (word : k < 4) (v : Nat) :
    s.ladPut 0x801 (0x040 + d * 0x10 + k * 4) v = (s.ldSlgFreeze d k v, respOk) := by
  have few := s.fdies_le
  have free : ladNeedsAuth (0x040 + d * 0x10 + k * 4) = false := by
    simp only [ladNeedsAuth, Bool.or_eq_false_iff, beq_eq_false_iff_ne, Bool.and_eq_false_iff, decide_eq_false_iff_not]
    omega
  unfold State.ladPut
  dsimp only
  rw [if_neg (by simp), if_neg (by simp [free]), if_neg (by omega), if_neg (by omega), if_neg (by omega), if_pos (by omega),
    show (0x040 + d * 0x10 + k * 4 - 0x040) / 0x10 = d by omega, show (0x040 + d * 0x10 + k * 4) % 0x10 / 4 = k by omega, if_pos fitted]

/-! ### Stopped nets (20 R516) -/

theorem fclkNode_inj {d n k : Nat} (h : fclkNode d n = fclkNode d k) : n = k := by unfold fclkNode at h; omega

/-- Nets of a die modified one by one. -/
theorem State.node_foldl_fclk (s : State) (d : Nat) (f : Nat → ClkNode → ClkNode) (n : Nat) :
    (∀ j, j < n → ((List.range n).foldl (fun (s : State) j => s.modNode (fclkNode d j) (f j)) s).node (fclkNode d j) = f j (s.node (fclkNode d j))) ∧
      ∀ k, (∀ j, j < n → k ≠ fclkNode d j) → ((List.range n).foldl (fun (s : State) j => s.modNode (fclkNode d j) (f j)) s).node k = s.node k := by
  induction n with
  | zero => exact ⟨fun j h => absurd h (Nat.not_lt_zero j), fun _ _ => rfl⟩
  | succ n ih =>
    obtain ⟨each, rest⟩ := ih
    rw [List.range_succ, List.foldl_append, List.foldl_cons, List.foldl_nil]
    refine ⟨fun j hj => ?_, fun k others => ?_⟩
    · by_cases last : j = n
      · subst last
        rw [State.node_modNode, rest _ fun i hi => fun e => by have := fclkNode_inj e; omega]
      · rw [State.node_modNode_other _ _ fun e => last (fclkNode_inj e), each j (by omega)]
    · rw [State.node_modNode_other _ _ (others n (Nat.lt_succ_self n)), rest k fun j hj => others j (Nat.lt_succ_of_lt hj)]

theorem State.node_modLad (s : State) (f : Ladder → Ladder) (k : Nat) : (s.modLad f).node k = s.node k := rfl
theorem State.node_answer (s : State) (st : BitVec 3) (v : BitVec 64) (k : Nat) : (s.answer st v).node k = s.node k := rfl
theorem State.group_answer (s : State) (st : BitVec 3) (v : BitVec 64) (d g : Nat) : (s.answer st v).group d g = s.group d g := rfl

/-- Each net of the die is stopped or run by its bit, and no other node changes. -/
theorem State.node_ldFclkStop (s : State) (d v : Nat) :
    (∀ n, n < 32 → ((s.ldFclkStop d v).node (fclkNode d n)).stop = bitOf v n) ∧
      ∀ k, (∀ n, n < 32 → k ≠ fclkNode d n) → (s.ldFclkStop d v).node k = s.node k := by
  obtain ⟨each, rest⟩ := s.node_foldl_fclk d (fun n x => { x with stop := bitOf v n }) 32
  unfold State.ldFclkStop
  refine ⟨fun n hn => ?_, fun k others => ?_⟩
  · rw [State.node_modLad, each n hn]
  · rw [State.node_modLad, rest k others]

theorem State.fclkStop_ldFclkStop (s : State) (d v : Nat) : tget 0 (s.ldFclkStop d v).lad.fclkStop d = BitVec.ofNat 32 v := by
  unfold State.ldFclkStop
  rw [State.modLad, State.setLad_lad]
  exact tget_tput_same ..

theorem exec_ldFclkStop {s : State} {w : Who} {d : Nat} {v : BitVec 32} (own : w.src = 0x801) (fitted : d < s.fdies)
    (reach : s.reaches w (hubBase 8 + (0x010 + d * 4)) true = true) :
    exec (.ldFclkStop w d v) s = .next ((s.ldFclkStop d v.toNat).answer respOk 0) := by
  have few := s.fdies_le
  refine (if_pos (show d < 8 by omega)).trans (ladDirect_of_ok reach ?_)
  rw [own, ladPut_fclkStop s fitted, Nat.mod_eq_of_lt v.isLt]

theorem State.ldFclkStop_steps' (s : State) (d v : Nat) : Steps [.rsp, .lad, .clk] s (s.ldFclkStop d v) :=
  State.modLad_steps (Steps.foldl _ _ (fun _ _ h => State.modNode_steps h (by decide)) (Steps.refl _ s)) (by decide)

/-- The state in which a step of n edges of a stopped net runs. -/
def State.fclkSteps (s : State) (d k n : Nat) : State :=
  s.modLad fun l => { l with fclkStep := some (fclkNode d k, s.now + s.edgeSpan (fclkNode d k) n) }

theorem State.ldFclkStep_of_stopped {s : State} {v : Nat} (fitted : bitsOf v 0 4 < s.fdies)
    (stopped : (s.node (fclkNode (bitsOf v 0 4) (bitsOf v 4 5))).stop = true) (idle : s.fclkStepBusy = false) :
    s.ldFclkStep v = some (s.fclkSteps (bitsOf v 0 4) (bitsOf v 4 5) (bitsOf v 16 16)) :=
  if_pos ⟨fitted, stopped, ne_true_of_eq_false idle⟩

/-! ### Frozen groups (20 R517) -/

theorem State.group_slHeld (s : State) (d g : Nat) (es : List (Nat × Nat × BitVec 2)) (k : Nat) : (s.slHeld d g es).group d k = s.group d k := by
  refine foldl_keeps (fun s : State => s.group d k) _ (fun s e => ?_) es s
  unfold State.slBits
  dsimp only
  refine (foldl_keeps (fun s : State => s.group d k) _ (fun s i => s.group_modSlice d i _ k) _ _).trans ?_
  exact foldl_keeps (fun s : State => s.group d k) _ (fun s i => s.group_modSlice d i _ k) _ _

theorem State.group_modLad (s : State) (f : Ladder → Ladder) (d g : Nat) : (s.modLad f).group d g = s.group d g := rfl

/-- A group whose freeze is lifted runs; no other is frozen or runs for it. -/
theorem State.frozen_unfreeze (s : State) (d g k : Nat) : ((s.unfreeze d g).group d k).frozen = if k = g then false else (s.group d k).frozen := by
  unfold State.unfreeze
  by_cases h : (s.group d g).frozen = true
  · rw [if_pos h]
    dsimp only
    rw [State.group_slHeld, State.group_modLad]
    split
    next this => subst this; rw [State.group_modGroup]
    next other => rw [State.group_modGroup_other _ _ (.inr other)]
  · rw [if_neg h]
    split
    next this => subst this; simpa using h
    next => rfl

/-- A group frozen or run by its bit. -/
def State.freezeBy (s : State) (d g : Nat) (b : Bool) : State := if b then s.modGroup d g fun x => { x with frozen := true } else s.unfreeze d g

theorem State.frozen_freezeBy (s : State) (d g : Nat) (b : Bool) (k : Nat) :
    ((s.freezeBy d g b).group d k).frozen = if k = g then b else (s.group d k).frozen := by
  cases b with
  | false => exact s.frozen_unfreeze d g k
  | true =>
    unfold State.freezeBy
    rw [if_pos rfl]
    split
    next this => subst this; rw [State.group_modGroup]
    next other => rw [State.group_modGroup_other _ _ (.inr other)]

/-- The groups of a word frozen or run one by one. -/
theorem State.frozen_foldl_freezeBy (s : State) (d a : Nat) (b : Nat → Bool) (n k : Nat) :
    (((List.range n).foldl (fun (s : State) i => s.freezeBy d (a + i) (b i)) s).group d k).frozen =
      if a ≤ k ∧ k < a + n then b (k - a) else (s.group d k).frozen := by
  induction n with
  | zero => simp [show ¬ (a ≤ k ∧ k < a) by omega]
  | succ n ih =>
    rw [List.range_succ, List.foldl_append, List.foldl_cons, List.foldl_nil, State.frozen_freezeBy, ih]
    by_cases last : k = a + n
    · subst last
      rw [if_pos rfl, if_pos (by omega), show a + n - a = n by omega]
    · rw [if_neg last]
      exact if_congr (by omega) rfl rfl

theorem State.ldSlgFreeze_eq (s : State) (d w v : Nat) : s.ldSlgFreeze d w v =
    ((List.range 32).foldl (fun (s : State) i => s.freezeBy d (32 * w + i) (bitOf v i)) s).modLad fun l =>
      { l with slgFreeze := tput 0 l.slgFreeze (4 * d + w) (BitVec.ofNat 32 v) } := rfl

theorem State.frozen_ldSlgFreeze (s : State) (d w v k : Nat) :
    ((s.ldSlgFreeze d w v).group d k).frozen = if 32 * w ≤ k ∧ k < 32 * w + 32 then bitOf v (k - 32 * w) else (s.group d k).frozen := by
  rw [State.ldSlgFreeze_eq, State.group_modLad, State.frozen_foldl_freezeBy]

theorem State.slgFreeze_ldSlgFreeze (s : State) (d w v : Nat) : tget 0 (s.ldSlgFreeze d w v).lad.slgFreeze (4 * d + w) = BitVec.ofNat 32 v := by
  rw [State.ldSlgFreeze_eq, State.modLad, State.setLad_lad]
  exact tget_tput_same ..

theorem exec_ldSlgFreeze {s : State} {w : Who} {d k : Nat} {v : BitVec 32} (own : w.src = 0x801) (fitted : d < s.fdies) (word : k < 4)
    (reach : s.reaches w (hubBase 8 + (0x040 + d * 0x10 + k * 4)) true = true) :
    exec (.ldSlgFreeze w d k v) s = .next ((s.ldSlgFreeze d k v.toNat).answer respOk 0) := by
  have few := s.fdies_le
  refine (if_pos ⟨(show d < 8 by omega), word⟩).trans (ladDirect_of_ok reach ?_)
  rw [own, ladPut_slgFreeze s fitted word, Nat.mod_eq_of_lt v.isLt]

/-- Held writes that take effect leave every group's freeze. -/
theorem State.group_applyHeld (s : State) (d g k : Nat) : (s.applyHeld d g).group d k = s.group d k := State.group_slHeld ..

/-- The state in which a step of n cycles of a frozen group runs. -/
def State.slgSteps (s : State) (d g n : Nat) : State :=
  (if n = 0 then s else s.applyHeld d g).modLad fun l => { l with slgStep := some (d, g, s.now + n * s.sclkPs) }

theorem State.slgStep_slgSteps (s : State) (d g n : Nat) : (s.slgSteps d g n).lad.slgStep = some (d, g, s.now + n * s.sclkPs) := by
  unfold State.slgSteps
  rw [State.modLad, State.setLad_lad]

theorem State.group_slgSteps (s : State) (d g n k : Nat) : (s.slgSteps d g n).group d k = s.group d k := by
  unfold State.slgSteps
  rw [State.group_modLad]
  split
  · rfl
  · exact s.group_applyHeld d g k

theorem State.ldSlgStep_of_frozen {s : State} {v : Nat} (fitted : bitsOf v 0 4 < s.fdies)
    (frozen : (s.group (bitsOf v 0 4) (bitsOf v 4 7)).frozen = true) (idle : s.slgStepBusy = false) :
    s.ldSlgStep v = some (s.slgSteps (bitsOf v 0 4) (bitsOf v 4 7) (bitsOf v 16 16)) := by
  have frame : ∀ d g, (s.applyHeld d g).now = s.now ∧ (s.applyHeld d g).fuses = s.fuses := fun d g =>
    have kept := (State.applyHeld_steps (d := d) (g := g) (Steps.refl [.dies, .lad] s) (by decide)).1
    ⟨kept .now (by decide), kept .fuses (by decide)⟩
  unfold State.ldSlgStep State.slgSteps
  dsimp only
  rw [if_pos ⟨fitted, frozen, ne_true_of_eq_false idle⟩]
  split
  · rfl
  · rw [State.sclkPs, (frame _ _).1, (frame _ _).2]
    rfl

/-! ### Captures (20 R518) -/

/-- GO is bit 31: the bits below it are the data's. -/
theorem bitsOf_or_go (v : BitVec 32) {lo n : Nat} (below : lo + n ≤ 31) : bitsOf (v ||| 0x80000000).toNat lo n = bitsOf v.toNat lo n := by
  unfold bitsOf
  apply Nat.eq_of_testBit_eq
  intro i
  rw [Nat.testBit_mod_two_pow, Nat.testBit_mod_two_pow, Nat.testBit_div_two_pow, Nat.testBit_div_two_pow, BitVec.toNat_or, Nat.testBit_or,
    show (0x80000000 : BitVec 32).toNat = 2 ^ 31 from rfl, Nat.testBit_two_pow]
  by_cases h : i < n
  · simp [h, show ¬ 31 = i + lo by omega]
  · simp [h]

theorem bitOf_go (v : BitVec 32) : bitOf (v ||| 0x80000000).toNat 31 = true := by
  rw [bitOf_toNat, BitVec.getLsbD_or]
  exact Bool.or_eq_true_iff.mpr (.inr rfl)

theorem ofNat_capCtrl (v : BitVec 32) : BitVec.ofNat 11 (v ||| 0x80000000).toNat = v.setWidth 11 := by
  apply BitVec.eq_of_toNat_eq
  simp

/-- Every net of the bay is stopped. -/
def State.bayStopped (s : State) (d b : Nat) : Bool := (List.range 32).all fun n => !(s.bay d b).fclkEn.getLsbD n || (s.node (fclkNode d n)).stop

section
variable (s : State) (v : BitVec 32)

/-- The state in which LD_CAP_CTRL holds what was written. -/
def State.capSet : State := s.modLad fun l => { l with capCtrl := v.setWidth 11 }

/-- The state after a capture of bay b of die d. -/
def State.captured (d b : Nat) : State :=
  (s.capSet v).modLad fun l => { l with capData := tabWrite [] 0 ((s.capSet v).captureBytes d b) }

theorem State.lad_captured (d b : Nat) : (s.captured v d b).lad =
    { s.lad with capCtrl := v.setWidth 11, capData := tabWrite [] 0 ((s.capSet v).captureBytes d b) } := by
  unfold State.captured
  generalize tabWrite [] 0 ((s.capSet v).captureBytes d b) = x
  rfl

theorem State.captured_steps (d b : Nat) : Steps [.rsp, .lad] s (s.captured v d b) :=
  State.modLad_steps (State.modLad_steps (Steps.refl _ s) (by decide)) (by decide)

/-- The state after a refused capture. -/
def State.capRefused : State := (s.capSet v).modLad fun l => { l with refused := true }

theorem State.lad_capRefused : (s.capRefused v).lad = { s.lad with capCtrl := v.setWidth 11, refused := true } := rfl

theorem State.capRefused_steps : Steps [.rsp, .lad] s (s.capRefused v) :=
  State.modLad_steps (State.modLad_steps (Steps.refl _ s) (by decide)) (by decide)

theorem State.ldCapCtrl_go : s.ldCapCtrl (v ||| 0x80000000).toNat =
    if bitsOf v.toNat 0 4 < s.fdies ∧ bitsOf v.toNat 4 7 < 96 ∧ s.bayStopped (bitsOf v.toNat 0 4) (bitsOf v.toNat 4 7) = true then
      s.captured v (bitsOf v.toNat 0 4) (bitsOf v.toNat 4 7)
    else s.capRefused v := by
  unfold State.ldCapCtrl
  dsimp only
  rw [bitsOf_or_go v (by decide), bitsOf_or_go v (by decide), bitOf_go, ofNat_capCtrl, if_neg (by simp)]
  rfl

theorem exec_ldCapGo {s : State} {w : Who} {v : BitVec 32} (own : w.src = 0x801) (reach : s.reaches w (hubBase 8 + 0x100) true = true) :
    exec (.ldCapGo w v) s = .next ((s.ldCapCtrl (v ||| 0x80000000).toNat).answer respOk 0) := by
  refine ladDirect_of_ok (v := (v ||| 0x80000000).toNat) reach ?_
  rw [own, ladPut_capCtrl, Nat.mod_eq_of_lt (BitVec.isLt _)]

end

/-! ### The gable core (20 R520) -/

/-- The core that stops, with its free registers. -/
theorem State.core_haltNow (s : State) (broken : Bool) : ∃ gr pc left, (s.haltNow broken).core =
    { s.core with gr := gr, pc := pc, wdtLeft := left, halted := true, haltReq := false, reservation := false,
                  lockBroken := s.gable.lockBroken || broken, gstate := if s.gable.gstate = .failed then s.gable.gstate else .halted } := by
  unfold State.haltNow
  dsimp only
  by_cases failed : s.gable.gstate = .failed
  · rw [if_pos failed]
    exact ⟨_, _, _, congrArg State.core (if_pos failed)⟩
  · rw [if_neg failed]
    exact ⟨_, _, _, (congrArg State.core (if_neg failed)).trans (State.core_setGstate ..)⟩

theorem State.haltNow_halts (s : State) (broken : Bool) : (s.haltNow broken).gable.halted = true ∧ (s.haltNow broken).gable.haltReq = false ∧
    (s.haltNow broken).gable.lockBroken = (s.gable.lockBroken || broken) ∧ (s.haltNow broken).gable.reservation = false ∧
    (s.gable.gstate ≠ .failed → (s.haltNow broken).gable.gstate = .halted) := by
  obtain ⟨gr, pc, left, core⟩ := s.core_haltNow broken
  change (s.haltNow broken).core.halted = true ∧ (s.haltNow broken).core.haltReq = false ∧
    (s.haltNow broken).core.lockBroken = (s.gable.lockBroken || broken) ∧ (s.haltNow broken).core.reservation = false ∧
    (s.gable.gstate ≠ .failed → (s.haltNow broken).core.gstate = .halted)
  rw [core]
  exact ⟨rfl, rfl, rfl, rfl, fun serves => if_neg serves⟩

theorem exec_ldGable {s : State} {w : Who} {v : Nat} (own : w.src = 0x801) (auth : s.lad.auth = true)
    (reach : s.reaches w (hubBase 8 + 0x200) true = true) (small : v < 2 ^ 32) :
    ladDirect w 0x200 v s = .next ((s.ldGableCtrl v).answer respOk 0) := by
  refine ladDirect_of_ok reach ?_
  rw [own, ladPut_gable, if_pos auth, Nat.mod_eq_of_lt small]

theorem State.ldGableCtrl_halt (s : State) : s.ldGableCtrl 1 = s.gableHalt := rfl
theorem State.ldGableCtrl_run (s : State) : s.ldGableCtrl 2 = s.gableRun := rfl
theorem State.ldGableCtrl_step (s : State) : s.ldGableCtrl 4 = s.gableStep := rfl

end Sys2Proof.Machine

open Sys2Proof Sys2Proof.Machine

/-- Settles O60: which writes reach a register, and what the register then does to the nets, the groups, the capture and the core. -/
theorem runControl : Obligations.runControl := by
  unfold Obligations.runControl
  refine ⟨?denied, ?auth, ?stop, ?step, ?noStep, ?freeze, ?slgStep, ?noSlgStep, ?capture, ?refused, ?halt, ?forced, ?still, ?run, ?coreStep⟩
  case denied =>
    rintro s w n v c off ⟨other, die, row, reach⟩
    obtain ⟨writer, data, done⟩ : ladWriter off = true ∧ ∃ data, exec c s = ladDirect w off data s := by
      simp only [List.mem_cons, Prod.mk.injEq, List.not_mem_nil, or_false] at row
      rcases row with ⟨rfl, rfl⟩ | ⟨rfl, rfl⟩ | ⟨rfl, rfl⟩ | ⟨rfl, rfl⟩ | ⟨rfl, rfl⟩ | ⟨rfl, rfl⟩ | ⟨rfl, rfl⟩ | ⟨rfl, rfl⟩
      · exact ⟨by simp [ladWriter]; omega, _, if_pos die⟩
      · exact ⟨rfl, _, rfl⟩
      · exact ⟨by simp [ladWriter]; omega, _, if_pos ⟨die, by decide⟩⟩
      iterate 5 exact ⟨rfl, _, rfl⟩
    obtain ⟨node, tid, k, denial⟩ := ladDirect_of_other (v := data) reach writer other
    have frame := (State.noteDenial_steps (node := node) (tid := tid) (k := k) (discarded := false) (Steps.refl [.routers, .log, .evr] s)
      (by decide)).1
    exact ⟨_, done.trans denial, rfl, frame .lad (by decide), frame .gable (by decide), frame .dies (by decide), frame .clk (by decide)⟩
  case auth =>
    rintro s w c ⟨own, auth, row, reach⟩
    have put : ∀ v, (s.ladPut w.src 0x200 v).2 = respTgtErr := fun v => by rw [own, ladPut_gable, if_neg (ne_true_of_eq_false auth)]
    obtain ⟨data, done⟩ : ∃ data, exec c s = ladDirect w 0x200 data s := by
      simp only [List.mem_cons, List.not_mem_nil, or_false] at row
      rcases row with rfl | rfl | rfl
      iterate 3 exact ⟨_, rfl⟩
    exact ⟨_, done.trans (ladDirect_of_err reach (put _)), rfl, (State.answer_steps (Steps.refl [.rsp] s) (by decide)).1⟩
  case stop =>
    rintro s w d v ⟨own, fitted, reach⟩
    obtain ⟨each, rest⟩ := s.node_ldFclkStop d v.toNat
    refine ⟨_, exec_ldFclkStop own fitted reach, rfl, (State.answer_steps (s.ldFclkStop_steps' d v.toNat) (by decide)).1, ?_, fun n hn => ?_,
      fun k others => ?_⟩
    · exact (s.fclkStop_ldFclkStop d v.toNat).trans ((BitVec.ofNat_toNat 32 v).trans (BitVec.setWidth_eq v))
    · rw [State.node_answer, each n hn, bitOf_toNat]
    · rw [State.node_answer, rest k others]
  case step =>
    rintro s w v ⟨own, fitted, stopped, idle, reach⟩
    have put : s.ladPut w.src 0x030 (v.toNat % 2 ^ 32) = (s.fclkSteps (bitsOf v.toNat 0 4) (bitsOf v.toNat 4 5) (bitsOf v.toNat 16 16), respOk) := by
      rw [own, ladPut_fclkStep, Nat.mod_eq_of_lt v.isLt, State.ldFclkStep_of_stopped fitted stopped idle]
    exact ⟨_, ladDirect_of_ok reach put, rfl, (State.answer_steps (State.modLad_steps (Steps.refl [.rsp, .lad] s) (by decide)) (by decide)).1, rfl⟩
  case noStep =>
    rintro s w v ⟨own, bad, reach⟩
    have refuses : s.ldFclkStep v.toNat = none := if_neg (by rcases bad with h | h <;> simp [h])
    have put : (s.ladPut w.src 0x030 (v.toNat % 2 ^ 32)).2 = respTgtErr := by rw [own, ladPut_fclkStep, Nat.mod_eq_of_lt v.isLt, refuses]
    exact ⟨_, ladDirect_of_err reach put, rfl, (State.answer_steps (Steps.refl [.rsp] s) (by decide)).1⟩
  case freeze =>
    rintro s w d k v ⟨own, fitted, word, reach⟩
    refine ⟨_, exec_ldSlgFreeze own fitted word reach, rfl, ?_, fun i hi => ?_, fun g other => ?_⟩
    · exact (s.slgFreeze_ldSlgFreeze d k v.toNat).trans ((BitVec.ofNat_toNat 32 v).trans (BitVec.setWidth_eq v))
    · rw [State.group_answer, State.frozen_ldSlgFreeze, if_pos (by omega), Nat.add_sub_cancel_left, bitOf_toNat]
    · rw [State.group_answer, State.frozen_ldSlgFreeze, if_neg (by omega)]
  case slgStep =>
    rintro s w v ⟨own, fitted, frozen, idle, reach⟩
    have put : s.ladPut w.src 0x0C0 (v.toNat % 2 ^ 32) = (s.slgSteps (bitsOf v.toNat 0 4) (bitsOf v.toNat 4 7) (bitsOf v.toNat 16 16), respOk) := by
      rw [own, ladPut_slgStep, Nat.mod_eq_of_lt v.isLt, State.ldSlgStep_of_frozen fitted frozen idle]
    refine ⟨_, ladDirect_of_ok reach put, rfl, s.slgStep_slgSteps .., ?_⟩
    rw [State.group_answer, State.group_slgSteps, frozen]
  case noSlgStep =>
    rintro s w v ⟨own, bad, reach⟩
    have refuses : s.ldSlgStep v.toNat = none := if_neg (by rcases bad with h | h <;> simp [h])
    have put : (s.ladPut w.src 0x0C0 (v.toNat % 2 ^ 32)).2 = respTgtErr := by rw [own, ladPut_slgStep, Nat.mod_eq_of_lt v.isLt, refuses]
    exact ⟨_, ladDirect_of_err reach put, rfl, (State.answer_steps (Steps.refl [.rsp] s) (by decide)).1⟩
  case capture =>
    rintro s w v ⟨own, reach, fitted, bay, stopped⟩
    have all : s.bayStopped (bitsOf v.toNat 0 4) (bitsOf v.toNat 4 7) = true := by
      simpa [State.bayStopped, or_iff_not_imp_left] using stopped
    have done := exec_ldCapGo (v := v) own reach
    rw [State.ldCapCtrl_go, if_pos ⟨fitted, bay, all⟩] at done
    have lad := s.lad_captured v (bitsOf v.toNat 0 4) (bitsOf v.toNat 4 7)
    refine ⟨_, done, rfl, (State.answer_steps (s.captured_steps v _ _) (by decide)).1, ?_⟩
    rw [State.answer, State.setRsp_lad, lad]
    exact ⟨rfl, rfl, by rw [State.capSet]⟩
  case refused =>
    rintro s w v n ⟨own, reach, net, enabled, runs⟩
    have some' : s.bayStopped (bitsOf v.toNat 0 4) (bitsOf v.toNat 4 7) ≠ true := fun all => by
      have := List.all_eq_true.mp all n (List.mem_range.mpr net)
      simp [enabled, runs] at this
    have done := exec_ldCapGo (v := v) own reach
    rw [State.ldCapCtrl_go, if_neg fun h => some' h.2.2] at done
    refine ⟨_, done, (State.answer_steps (s.capRefused_steps v) (by decide)).1, ?_⟩
    rw [State.answer, State.setRsp_lad, s.lad_capRefused v]
    exact ⟨rfl, rfl⟩
  case halt =>
    rintro s w ⟨own, auth, reach, runs, idle⟩
    have done := exec_ldGable (v := 1) own auth reach (by decide)
    rw [State.ldGableCtrl_halt, State.gableHalt, if_neg (by simp [runs, idle])] at done
    refine ⟨_, done, rfl, ?_⟩
    dsimp only
    split
    · exact .inr rfl
    · obtain ⟨halted, asked, broken, -, gstate⟩ := (s.drew 1).haltNow_halts false
      exact .inl ⟨halted, asked, broken.trans (Bool.or_false _), gstate⟩
  case forced =>
    rintro s ⟨asked, late⟩
    obtain ⟨halted, done, broken, reservation, gstate⟩ := s.haltNow_halts true
    have forced : gableHaltForced s = s.haltNow true := (if_neg (by simp [asked])).trans (if_pos late)
    exact ⟨_, congrArg Host.Outcome.next forced, halted, done, broken.trans (Bool.or_true _), reservation, gstate⟩
  case still => exact fun s idle => congrArg Host.Outcome.next (if_pos (by simp [idle]))
  case run =>
    rintro s w ⟨own, auth, reach, halted⟩
    have done := exec_ldGable (v := 2) own auth reach (by decide)
    rw [State.ldGableCtrl_run] at done
    have core := State.core_gableRun halted
    refine ⟨_, done, rfl, ?_⟩
    change s.gableRun.core.halted = false ∧ s.gableRun.core.haltReq = false ∧ s.gableRun.core.wdtAt = s.now ∧
      s.gableRun.core.reservation = false ∧ (s.gable.gstate = .halted → s.gableRun.core.gstate = _)
    rw [core]
    unfold State.ranCore
    dsimp only
    split
    next h => exact ⟨rfl, rfl, rfl, rfl, fun _ => rfl⟩
    next h => exact ⟨rfl, rfl, rfl, rfl, fun e => absurd e h⟩
  case coreStep =>
    rintro s w ⟨own, auth, reach, halted⟩
    have done := exec_ldGable (v := 4) own auth reach (by decide)
    rw [State.ldGableCtrl_step, State.gableStep, if_pos halted] at done
    exact ⟨_, done, rfl, halted, rfl, rfl, rfl, (State.answer_steps (State.modGable_steps (State.freeCore_steps (Steps.refl [.rsp, .free, .gable] s)
      (by decide)) (by decide)) (by decide)).1⟩
end

section
/-! PROOFS. Mailbox commands once more: one statement of what a served request gives, for commands that end at once and for those answered
    ACCEPTED; and the parts of the state that a frame keeps, read element by element (17 R439, R440). -/

open Sys2Proof
namespace Sys2Proof.Machine

section
variable {s t : State} {ps : List Component}

theorem State.node_of_frame (h : s.changesOnly t ps) (out : Component.clk ∉ ps) (c : Nat) : t.node c = s.node c := by
  have clk : t.clk = s.clk := h .clk out
  rw [State.node, clk, State.node]

theorem State.elem_of_frame (h : s.changesOnly t ps) (out : Component.clk ∉ ps) (kind d i : Nat) : t.elem kind d i = s.elem kind d i := by
  have clk : t.clk = s.clk := h .clk out
  rw [State.elem, clk, State.elem]

theorem State.bay_of_frame (h : s.changesOnly t ps) (out : Component.dies ∉ ps) (d b : Nat) : t.bay d b = s.bay d b := by
  have dies : t.dies = s.dies := h .dies out
  rw [State.bay, State.die, dies, State.bay, State.die]

theorem State.router_of_frame (h : s.changesOnly t ps) (out : Component.routers ∉ ps) (d r : Nat) : t.router d r = s.router d r := by
  have routers : t.routers = s.routers := h .routers out
  rw [State.router, routers, State.router]

theorem State.time_of_frame (h : s.changesOnly t ps) (out : Component.times ∉ ps) (d : Nat) : t.time d = s.time d := by
  have times : t.times = s.times := h .times out
  rw [State.time, times, State.time]

theorem State.fdies_of_frame (h : s.changesOnly t ps) (out : Component.fuses ∉ ps) : t.fdies = s.fdies := by
  have fuses : t.fuses = s.fuses := h .fuses out
  rw [State.fdies, fuses, State.fdies]

theorem State.laneset_of_frame (h : s.changesOnly t ps) (out : Component.lanesets ∉ ps) (k : Nat) : t.laneset k = s.laneset k := by
  have lanesets : t.lanesets = s.lanesets := h .lanesets out
  rw [State.laneset, lanesets, State.laneset]

theorem State.chan_of_frame (h : s.changesOnly t ps) (out : Component.dram ∉ ps) (n : Nat) : t.chan n = s.chan n := by
  have dram : t.dram = s.dram := h .dram out
  rw [State.chan, dram, State.chan]

end

/-- The gable controller in whose presence a command's body runs: a session of mailbox m is heard, and its request may be entered as running. -/
structure Gable.hearing (s : State) (m : Nat) (g : Gable) : Prop where
  other : ∀ k, k ≠ m → (s.setGable g).mbx k = s.mbx k
  mine : ∃ a u r, (s.setGable g).mbx m = { s.mbx m with hbAt := a, hbUsed := u, running := r }
  rest : ∃ t, g = { s.gable with mbx := t }

namespace Gable.hearing

variable {s : State} {m : Nat} {g : Gable} (h : Gable.hearing s m g)
include h

theorem sid (k : Nat) : (s.setGable g).sid k = s.sid k := by
  unfold State.sid
  by_cases k = m
  next own => subst own; obtain ⟨a, u, r, mine⟩ := h.mine; rw [mine]
  next other => rw [h.other k other]

theorem token (k : Nat) (r : Request) : (s.setGable g).token k r = s.token k r := by rw [State.token, h.sid, State.token]

theorem gstate : g.gstate = s.gable.gstate := by obtain ⟨t, rest⟩ := h.rest; rw [rest]

theorem hasRole (k role : Nat) : (s.setGable g).hasRole k role = s.hasRole k role := by
  unfold State.hasRole
  by_cases k = m
  next own => subst own; obtain ⟨a, u, r, mine⟩ := h.mine; rw [mine]
  next other => rw [h.other k other]

end Gable.hearing

theorem State.heard_hearing (s : State) (m : Nat) : ∃ g, s.heard m = s.setGable g ∧ Gable.hearing s m g := by
  unfold State.heard
  split
  · refine ⟨_, rfl, fun k other => State.mbx_modMbx_other s _ other, ⟨s.now, 0, (s.mbx m).running, State.mbx_modMbx s m _⟩, _, rfl⟩
  · exact ⟨s.gable, rfl, fun _ _ => rfl, ⟨_, _, _, rfl⟩, _, rfl⟩

theorem State.begun_hearing (s : State) (m : Nat) : ∃ g, s.begun m = s.setGable g ∧ Gable.hearing s m g := by
  obtain ⟨_, heard, other, ⟨a, u, r, mine⟩, t, rfl⟩ := s.heard_hearing m
  unfold State.begun
  rw [heard]
  exact ⟨_, rfl, fun k far => (State.mbx_modMbx_other _ _ far).trans (other k far),
    ⟨a, u, r ++ [{ cmd := BitVec.ofNat 16 (s.req m).cmd, seq := BitVec.ofNat 16 (s.req m).seq }],
      (State.mbx_modMbx _ m _).trans (by rw [mine])⟩, _, rfl⟩

/-- A command whose code is not MBX_OPEN's, with its own checks passed: what its body replies is the answer, and the rest of the state is what the
    body left. -/
theorem Command.serving {c : Command} {s : State} {m : Nat} (ask : s.asks m c.code = true) (opens : c.code ≠ 0x0900) (plain : c.after = fun s _ => s)
    (may : c.may (s.heard m) m (s.req m) = true) (arg : ∀ g, c.argOk (s.setGable g) (s.req m) = true) (room : c.async = true → s.hasRoom m = true) :
    ∃ g, Gable.hearing s m g ∧ ∀ {s2 : State} {st : Nat} {data : List (BitVec 8)}, c.body (s.setGable g) m (s.req m) = (s2, ⟨st, data⟩) → st < 0x100 →
      ∃ t, c.serve m s = t ∧ s.answered t m st data ∧ s2.changesOnly t [.gable, .evr] := by
  have heardArg : c.argOk (s.heard m) (s.req m) = true := by
    obtain ⟨g, h⟩ := s.heard_eq_setGable m
    rw [h]
    exact arg g
  cases async : c.async with
  | true =>
    obtain ⟨g, begun, hears⟩ := s.begun_hearing m
    refine ⟨g, hears, fun {s2 st data} body status => ?_⟩
    rw [← begun] at body
    obtain ⟨t, run, answer, frame⟩ := Command.serve_begun ask opens async (room async) may heardArg body status
    exact ⟨t, by rw [run, plain, ite_self], answer, frame⟩
  | false =>
    obtain ⟨g, heard, hears⟩ := s.heard_hearing m
    refine ⟨g, hears, fun {s2 st data} body status => ?_⟩
    rw [← heard] at body
    obtain ⟨t, run, answer, frame, -⟩ := Command.serve_body ask opens async may heardArg body status
    exact ⟨t, by rw [run, plain, ite_self], answer, frame⟩

end Sys2Proof.Machine
end

section
/-! PROOFS. What the paths of the flows do not read: free values, the gable controller, the clocks, events (07 R191, R192; 08 R216, R222). -/

open Sys2Proof
namespace Sys2Proof.Machine

/-- The state with other free values, gable controller, clocks and event router. -/
def State.beside (s : State) (n : Nat) (g : Gable) (k : Clocks) (e : Evr) : State := { s with free := n, gable := g, clk := k, evr := e }

section
variable (s : State) (n : Nat) (g : Gable) (k : Clocks) (e : Evr)

theorem State.escapePath_beside : (s.beside n g k e).escapePath = s.escapePath := by
  funext src dest fuel
  induction fuel with
  | zero => rfl
  | succ fuel ih =>
    funext node r depth
    unfold State.escapePath
    rw [ih, show (s.beside n g k e).chooseExit = s.chooseExit from rfl, show (s.beside n g k e).facing = s.facing from rfl]

theorem State.pathTo_beside : (s.beside n g k e).pathTo = s.pathTo := by
  funext src own dest
  unfold State.pathTo
  rw [State.escapePath_beside, show (s.beside n g k e).startOf = s.startOf from rfl]

theorem State.decode_beside : (s.beside n g k e).decode = s.decode := by
  funext a
  unfold State.decode
  rw [show (s.beside n g k e).dram = s.dram from rfl, show (s.beside n g k e).fdies = s.fdies from rfl,
    show (s.beside n g k e).guestWindow = s.guestWindow from rfl]

theorem State.legs_beside : (s.beside n g k e).legs = s.legs := by
  funext f
  unfold State.legs
  rw [State.pathTo_beside, State.decode_beside, show (s.beside n g k e).flowChans = s.flowChans from rfl,
    show (s.beside n g k e).destOf = s.destOf from rfl, show (s.beside n g k e).ingressPort = s.ingressPort from rfl]

theorem State.flowTouches_beside : (s.beside n g k e).flowTouches = s.flowTouches := by
  funext f kind die id
  unfold State.flowTouches State.flowOuts
  rw [State.legs_beside, State.decode_beside, show (s.beside n g k e).flowChans = s.flowChans from rfl,
    show (s.beside n g k e).facing = s.facing from rfl]

theorem State.flowForbids_beside : (s.beside n g k e).flowForbids = s.flowForbids := by
  funext kind die id st
  unfold State.flowForbids
  rw [State.flowTouches_beside, show (s.beside n g k e).flows = s.flows from rfl]

theorem State.flowHolds_beside : (s.beside n g k e).flowHolds = s.flowHolds := by
  funext kind die id
  unfold State.flowHolds
  rw [State.flowTouches_beside, show (s.beside n g k e).flows = s.flows from rfl]

theorem State.onFlow_beside : (s.beside n g k e).onFlow = s.onFlow := by
  funext kind die id
  unfold State.onFlow
  rw [State.flowTouches_beside, show (s.beside n g k e).flows = s.flows from rfl]

/-- Where the clocks stay, the nodes that flows hang on do. -/
theorem State.onFlowNode_beside : (s.beside n g s.clk e).onFlowNode = s.onFlowNode := by
  funext c
  unfold State.onFlowNode
  rw [State.onFlow_beside]
  rfl

end

theorem State.onFlowNode_setGable (s : State) (g : Gable) (c : Nat) : (s.setGable g).onFlowNode c = s.onFlowNode c :=
  congrFun (s.onFlowNode_beside s.free g s.evr) c
theorem State.onFlowNode_drew (s : State) (n c : Nat) : (s.drew n).onFlowNode c = s.onFlowNode c :=
  congrFun (s.onFlowNode_beside (s.free + n) s.gable s.evr) c
theorem State.flowForbids_setGable (s : State) (g : Gable) (kind die id st : Nat) : (s.setGable g).flowForbids kind die id st = s.flowForbids kind die id st :=
  congrFun (congrFun (congrFun (congrFun (s.flowForbids_beside s.free g s.clk s.evr) kind) die) id) st

end Sys2Proof.Machine
end

section
/-! PROOFS. The clock commands and the end of a switch, and the statement about them (18 R461, R466 to R468, R477). -/

open Sys2Proof
namespace Sys2Proof.Machine

/-! ### A source is taken (18 R466 to R468) -/

theorem State.takeSource_eq (s : State) (c : Nat) (src : BitVec 6) : ∃ mid, s.takeSource c src = mid ∧
    (s.modNode c fun n => { n with
      source := src, state := .running, forceOk := false, freq := BitVec.ofNat 32 (s.sourceKhz c src.toNat),
      newSource := if (s.node c).newSource == some src then none else n.newSource,
      selMbx := if (s.node c).newSource == some src then none else n.selMbx }).changesOnly mid [.lanesets, .times, .gable, .evr] := by
  refine ⟨_, rfl, ?_⟩
  unfold State.takeSource
  dsimp only
  generalize (s.modNode c _ : State) = u
  have inner : Steps [.lanesets, .times, .gable, .evr] u
      (if c = prefCode then
        let s := u.dieList.foldl (fun (s : State) d => s.remeasure d) u
        if src = 1 then s.modLaneset 144 fun x => { x with lpSel := 0 } else if src = 2 then s.modLaneset 145 fun x => { x with lpSel := 0 } else s
      else u) := by
    have measured : Steps [.lanesets, .times, .gable, .evr] u (u.dieList.foldl (fun (s : State) d => s.remeasure d) u) :=
      Steps.foldl _ _ (fun _ _ h => State.remeasure_steps h (by decide)) (Steps.refl _ u)
    split
    · dsimp only
      split
      · exact State.modLaneset_steps measured (by decide)
      · split
        · exact State.modLaneset_steps measured (by decide)
        · exact measured
    · exact Steps.refl _ u
  split
  · exact (State.completeOpt_steps inner (by decide)).1
  · exact inner.1

theorem State.node_takeSource (s : State) (c : Nat) (src : BitVec 6) : (s.takeSource c src).node c =
    { s.node c with
      source := src, state := .running, forceOk := false, freq := BitVec.ofNat 32 (s.sourceKhz c src.toNat),
      newSource := if (s.node c).newSource == some src then none else (s.node c).newSource,
      selMbx := if (s.node c).newSource == some src then none else (s.node c).selMbx } := by
  obtain ⟨mid, taken, frame⟩ := s.takeSource_eq c src
  rw [taken, State.node_of_frame frame (by decide), State.node_modNode]

theorem State.takeSource_of_pending {s : State} {c : Nat} {src : BitVec 6} (pending : (s.node c).newSource = some src) :
    ((s.takeSource c src).node c).source = src ∧ ((s.takeSource c src).node c).state = .running ∧ ((s.takeSource c src).node c).forceOk = false ∧
      ((s.takeSource c src).node c).newSource = none ∧ ((s.takeSource c src).node c).selMbx = none ∧
      ((s.takeSource c src).node c).fallback = (s.node c).fallback := by
  rw [State.node_takeSource, pending]
  simp

/-! ### The commands -/

section
variable {s : State} {m : Nat} (ask : s.asks m 0x0600 = true) (len : (s.req m).len = 4) (zero : (s.req m).zero 2 2 = true)
  (clock : s.hasClock ((s.req m).num 0 2) = true)
include ask len zero clock

/-- CLK_STATUS answers with the frequency the node's state gives it. -/
theorem exec_clkStatus : ∃ t free, exec (.clkStatus m) s = .next t ∧ t.clk = s.clk ∧ s.answered t m stOk
    (leBytes 1 (s.node ((s.req m).num 0 2)).source.toNat ++ leBytes 1 (s.nodeState ((s.req m).num 0 2)).code ++ [0, 0] ++
      leBytes 4 (if s.nodeState ((s.req m).num 0 2) = .stopped then 0 else if (s.node ((s.req m).num 0 2)).failed = true then free
        else s.nodeKhz ((s.req m).num 0 2)) ++ leBytes 4 (s.node ((s.req m).num 0 2)).fails.toNat) := by
  obtain ⟨g, -, serve⟩ := Command.serving (c := cmdClkStatus) ask (by decide) rfl rfl
    (fun g => by change (lenIs 4 _ && _ && s.hasClock _) = true; simp [lenIs, len, zero, clock]) (fun async => by cases async)
  obtain ⟨t, run, answer, frame⟩ := serve (s2 := (s.setGable g).drew 1) rfl (by decide)
  exact ⟨t, _, congrArg Host.Outcome.next run, frame .clk (by decide), answer⟩

end

/-- The pending switch that CLK_SELECT makes of a node. -/
def ClkNode.switching (n : ClkNode) (src fb : Nat) (tok : Nat) : ClkNode :=
  { n with newSource := some (BitVec.ofNat 6 src), selMbx := some tok, fallback := BitVec.ofNat 6 fb, forceOk := n.failed }

/-- The state before the node's own change: an outside source that may run again is no longer known to be dead. -/
def State.selecting (s : State) (c src : Nat) : State :=
  match outsideOf c src with
  | some k => (s.drew 1).modClk fun x => { x with deadSrc := x.deadSrc.filter (· != k) }
  | none => s.drew 1

theorem State.node_selecting (s : State) (c src k : Nat) : (s.selecting c src).node k = s.node k := by
  unfold State.selecting
  split <;> rfl

theorem State.selecting_steps (s : State) (c src : Nat) : Steps [.free, .clk] s (s.selecting c src) := by
  unfold State.selecting
  split
  · exact State.modClk_steps (State.drew_steps (Steps.refl _ s) (by decide)) (by decide)
  · exact State.drew_steps (Steps.refl _ s) (by decide)

/-- Every die has lost PARENT_OK. -/
def State.orphans (s : State) : State := s.dieList.foldl (fun (s : State) d => s.modMon d fun m => { m with parentOk := false }) s

section
variable {s : State} {m : Nat} {r : Request} (free : (s.node (r.num 0 2)).selMbx = none) (started : (s.node (r.num 0 2)).state ≠ .stopped)
  (noFlow : s.onFlowNode (r.num 0 2) = false) (runs : s.sourceRuns (r.num 0 2) (BitVec.ofNat 6 (r.num 2 1)).toNat = true)
include free started noFlow runs

/-- CLK_SELECT of a net or an FPLL onto a source that runs is taken. -/
theorem clkSelectBody_of_net (net : r.num 0 2 ≠ prefCode) : clkSelectBody s m r =
    ((s.selecting (r.num 0 2) (BitVec.ofNat 6 (r.num 2 1)).toNat).modNode (r.num 0 2) fun n =>
      n.switching (r.num 2 1) (r.num 3 1) (s.token m r), bare stAccepted) := by
  unfold clkSelectBody State.selecting
  dsimp only
  rw [if_neg (by simp [free]), State.onFlowNode_drew, runs, if_neg (by
    rintro (h | h | h | h)
    · exact started h
    · exact ne_true_of_eq_false noFlow h
    · exact h rfl
    · simp [net] at h), if_neg net]
  cases outsideOf (r.num 0 2) (BitVec.ofNat 6 (r.num 2 1)).toNat with
  | none => rfl
  | some k => rfl

/-- CLK_SELECT of PREF onto a source that runs is taken where that lies within 300 ppm. -/
theorem clkSelectBody_of_pref (pref : r.num 0 2 = prefCode) : ∃ tok, clkSelectBody s m r =
    if s.freeVal.getLsbD 1 = true then
      ((s.selecting (r.num 0 2) (BitVec.ofNat 6 (r.num 2 1)).toNat).orphans.modNode (r.num 0 2) fun n =>
        n.switching (r.num 2 1) (r.num 3 1) tok, bare stAccepted)
    else (s.drew 1, bare stState) := by
  refine ⟨(s.selecting (r.num 0 2) (BitVec.ofNat 6 (r.num 2 1)).toNat).orphans.token m r, ?_⟩
  unfold clkSelectBody State.selecting State.orphans
  dsimp only
  rw [if_neg (by simp [free]), State.onFlowNode_drew, runs]
  by_cases within : s.freeVal.getLsbD 1 = true
  · rw [if_pos within, if_neg (by
      rintro (h | h | h | h)
      · exact started h
      · exact ne_true_of_eq_false noFlow h
      · exact h rfl
      · simp only [within, Bool.or_true, not_true] at h), if_pos pref]
    cases outsideOf (r.num 0 2) (BitVec.ofNat 6 (r.num 2 1)).toNat with
    | none => rfl
    | some k => rfl
  · rw [if_neg within, if_pos (Or.inr (Or.inr (Or.inr (by simp only [pref, within]; decide))))]

end

section
variable {s : State} {m : Nat} (ask : s.asks m 0x0601 = true) (room : s.hasRoom m = true) (role : s.hasRole m roleC = true)
  (arg : clkArgOk s (s.req m) = true)
include ask room role arg

/-- CLK_SELECT is answered with what its body replies. -/
theorem exec_clkSelect : ∃ g, Gable.hearing s m g ∧ ∀ {s2 : State} {st : Nat} {data : List (BitVec 8)},
    clkSelectBody (s.setGable g) m (s.req m) = (s2, ⟨st, data⟩) → st < 0x100 →
      ∃ t, exec (.clkSelect m) s = .next t ∧ s.answered t m st data ∧ s2.changesOnly t [.gable, .evr] := by
  obtain ⟨g, hears, serve⟩ := Command.serving (c := cmdClkSelect) ask (by decide) rfl (by simpa [cmdClkSelect, needC] using role) (fun _ => arg)
    fun _ => room
  refine ⟨g, hears, fun {s2 st data} body small => ?_⟩
  obtain ⟨t, run, answer, frame⟩ := serve body small
  exact ⟨t, congrArg Host.Outcome.next run, answer, frame⟩

end

section
variable {s : State} {m : Nat} (ask : s.asks m 0x0602 = true) (role : s.hasRole m roleC = true) (len : (s.req m).len = 4)
  (zero : (s.req m).zero 2 2 = true) (clock : s.hasClock ((s.req m).num 0 2) = true)
include ask role len zero clock

/-- CLKSW_FORCE is answered with what its body replies. -/
theorem exec_clkswForce : ∃ g, Gable.hearing s m g ∧ ∀ {s2 : State} {st : Nat} {data : List (BitVec 8)},
    cmdClkswForce.body (s.setGable g) m (s.req m) = (s2, ⟨st, data⟩) → st < 0x100 →
      ∃ t, exec (.clkswForce m) s = .next t ∧ s.answered t m st data ∧ s2.changesOnly t [.gable, .evr] := by
  obtain ⟨g, hears, serve⟩ := Command.serving (c := cmdClkswForce) ask (by decide) rfl (by simpa [cmdClkswForce, needC] using role)
    (fun g => by change (lenIs 4 _ && _ && s.hasClock _) = true; simp [lenIs, len, zero, clock]) (fun async => by cases async)
  refine ⟨g, hears, fun {s2 st data} body small => ?_⟩
  obtain ⟨t, run, answer, frame⟩ := serve body small
  exact ⟨t, congrArg Host.Outcome.next run, answer, frame⟩

end

theorem sourceOk_lt {c src : Nat} (h : sourceOk c src = true) : src < 64 := by
  unfold sourceOk at h
  split at h
  · have := of_decide_eq_true h; omega
  · split at h
    · have := of_decide_eq_true h; omega
    · have := of_decide_eq_true (Bool.and_eq_true_iff.mp h).2; omega

theorem State.orphans_steps (s : State) {ps : List Component} (sub : ∀ p ∈ [Component.times], p ∈ ps) : Steps ps s s.orphans :=
  Steps.foldl _ _ (fun _ _ h => State.modMon_steps h sub) (Steps.refl _ s)

theorem State.parentOk_foldl_orphan (s : State) (ds : List Nat) (d : Nat) :
    (((ds.foldl (fun (s : State) d => s.modMon d fun m => { m with parentOk := false }) s).time d).mon.parentOk = false) ∨
      d ∉ ds ∧ ((ds.foldl (fun (s : State) d => s.modMon d fun m => { m with parentOk := false }) s).time d) = s.time d := by
  induction ds generalizing s with
  | nil => exact .inr ⟨List.not_mem_nil, rfl⟩
  | cons e ds ih =>
    rw [List.foldl_cons]
    rcases ih (s.modMon e fun m => { m with parentOk := false }) with orphan | ⟨out, same⟩
    · exact .inl orphan
    · rw [same]
      by_cases own : d = e
      · subst own
        exact .inl (by rw [State.modMon, State.time_modTime])
      · exact .inr ⟨by simp [own, out], State.time_modTime_other _ _ own⟩

theorem State.parentOk_orphans (s : State) {d : Nat} (fitted : d < s.fdies) : (s.orphans.time d).mon.parentOk = false := by
  rcases s.parentOk_foldl_orphan s.dieList d with orphan | ⟨out, -⟩
  · exact orphan
  · exact absurd (List.mem_range.mpr fitted) out

/-- PREF's own switch begins. -/
def State.prefSelecting (s : State) (src fb tok : Nat) : State :=
  (s.selecting prefCode src).orphans.modNode prefCode fun n => n.switching src fb tok

theorem State.node_prefSelecting (s : State) (src fb tok : Nat) : (s.prefSelecting src fb tok).node prefCode = (s.node prefCode).switching src fb tok := by
  unfold State.prefSelecting
  rw [State.node_modNode, State.node_of_frame (State.orphans_steps (s.selecting prefCode src) (ps := [.times]) (by decide)).1 (by decide),
    State.node_selecting]

theorem State.parentOk_prefSelecting (s : State) (src fb tok : Nat) {d : Nat} (fitted : d < s.fdies) :
    ((s.prefSelecting src fb tok).time d).mon.parentOk = false := by
  unfold State.prefSelecting
  rw [State.time_of_frame (State.modNode_steps (Steps.refl [.clk] _) (by decide)).1 (by decide)]
  refine State.parentOk_orphans _ ?_
  rw [State.fdies_of_frame (s.selecting_steps prefCode src).1 (by decide)]
  exact fitted

theorem clkSelectBody_refused {s : State} {m : Nat} {r : Request} (blocked : (s.node (r.num 0 2)).selMbx ≠ none ∨
    (s.node (r.num 0 2)).state = .stopped ∨ s.onFlowNode (r.num 0 2) = true) :
    clkSelectBody s m r = (s.drew 1, ⟨if (s.node (r.num 0 2)).selMbx.isSome = true then stBusy else stState, []⟩) := by
  unfold clkSelectBody
  dsimp only
  rw [State.onFlowNode_drew]
  split
  · rfl
  next free =>
    refine if_pos ?_
    rcases blocked with pending | stopped | flow
    · exact absurd (Option.isSome_iff_ne_none.mpr pending) free
    · exact .inl stopped
    · exact .inr (.inl flow)

theorem exec_clkSelect_pref {s : State} {m : Nat} (ask : s.asks m 0x0601 = true) (room : s.hasRoom m = true) (role : s.hasRole m roleC = true)
    (arg : clkArgOk s (s.req m) = true) (pref : (s.req m).num 0 2 = prefCode) (small : (s.req m).num 2 1 < 64)
    (idle : (s.node prefCode).selMbx = none) (started : (s.node prefCode).state ≠ .stopped) (noFlow : s.onFlowNode prefCode = false)
    (runs : s.sourceRuns prefCode ((s.req m).num 2 1) = true) :
    ∃ t, exec (.clkSelect m) s = .next t ∧ ((s.answered t m stAccepted [] ∧ (∃ tok, t.node prefCode =
        (s.node prefCode).switching ((s.req m).num 2 1) ((s.req m).num 3 1) tok) ∧ ∀ d, d < s.fdies → (t.time d).mon.parentOk = false) ∨
      (s.answered t m stState [] ∧ t.clk = s.clk ∧ t.times = s.times)) := by
  have whole : (BitVec.ofNat 6 ((s.req m).num 2 1)).toNat = (s.req m).num 2 1 := Nat.mod_eq_of_lt small
  obtain ⟨g, -, serve⟩ := exec_clkSelect ask room role arg
  obtain ⟨tok, body⟩ := clkSelectBody_of_pref (s := s.setGable g) (m := m) (r := s.req m) (by rw [pref]; exact idle) (by rw [pref]; exact started)
    (by rw [pref]; exact (s.onFlowNode_setGable g _).trans noFlow) (by rw [whole, pref]; exact runs) pref
  rw [pref, whole] at body
  split at body
  · obtain ⟨t, run, answer, frame⟩ := serve (s2 := (s.setGable g).prefSelecting ((s.req m).num 2 1) ((s.req m).num 3 1) tok) body (by decide)
    refine ⟨t, run, .inl ⟨answer, ⟨tok, ?_⟩, fun d fitted => ?_⟩⟩
    · rw [State.node_of_frame frame (by decide), State.node_prefSelecting]
      rfl
    · rw [State.time_of_frame frame (by decide)]
      exact State.parentOk_prefSelecting (s.setGable g) _ _ _ fitted
  · obtain ⟨t, run, answer, frame⟩ := serve body (by decide)
    exact ⟨t, run, .inr ⟨answer, frame .clk (by decide), frame .times (by decide)⟩⟩

theorem clkArgOk_pref {s : State} {r : Request} (len : r.len = 4) (pref : r.num 0 2 = prefCode) (small : r.num 2 1 ≤ 2)
    (fallback : r.num 3 1 = 0x3F ∨ r.num 3 1 ≤ 2) : clkArgOk s r = true := by
  have fits : ∀ src, src ≤ 2 → s.sourceFits prefCode src = true := fun src h => by
    simp [State.sourceFits, sourceOk, codeType, prefCode, h]
  have there : s.hasClock prefCode = true := rfl
  unfold clkArgOk
  dsimp only
  rw [pref, there, fits _ small, lenIs, len]
  rcases fallback with h | h
  · rw [h]; rfl
  · rw [fits _ h, Bool.or_true]; rfl

end Sys2Proof.Machine

open Sys2Proof Sys2Proof.Machine

/-- Settles O50: each command replies as its body does, and a source that is taken ends the switch. -/
theorem clockCommands : Obligations.clockCommands := by
  unfold Obligations.clockCommands
  refine ⟨?status, ?free, ?select, ?pref, ?refused, ?force, ?noForce, ?ends, ?waits⟩
  case status =>
    rintro s m c ⟨ask, -, len, zero, rfl, clock, known⟩
    obtain ⟨t, free, run, clk, answer⟩ := exec_clkStatus ask len zero clock
    refine ⟨t, run, clk, ?_⟩
    rcases known with stopped | known
    · simpa only [stopped, if_true] using answer
    · simpa only [known, Bool.false_eq_true, if_false] using answer
  case free =>
    rintro s m c ⟨ask, -, len, zero, rfl, clock, runs, failed⟩
    obtain ⟨t, free, run, clk, answer⟩ := exec_clkStatus ask len zero clock
    rw [if_neg runs, if_pos failed] at answer
    exact ⟨t, run, clk, free, answer⟩
  case select =>
    rintro s m c src fb ⟨ask, room, -, role, len, rfl, rfl, rfl, clock, kind, fits, fallback, idle, started, noFlow, runs⟩
    have net : (s.req m).num 0 2 ≠ prefCode := fun e => by rw [e] at kind; revert kind; decide
    have arg : clkArgOk s (s.req m) = true := by
      have selector : 0xD ≤ codeType ((s.req m).num 0 2) := by omega
      simp [clkArgOk, lenIs, len, clock, selector, fits, fallback]
    have whole : (BitVec.ofNat 6 ((s.req m).num 2 1)).toNat = (s.req m).num 2 1 :=
      Nat.mod_eq_of_lt (sourceOk_lt (Bool.and_eq_true_iff.mp fits).1)
    obtain ⟨g, hears, serve⟩ := exec_clkSelect ask room role arg
    obtain ⟨t, run, answer, frame⟩ := serve (clkSelectBody_of_net (s := s.setGable g) idle started
      ((s.onFlowNode_setGable g _).trans noFlow) (by rw [whole]; exact runs) net) (by decide)
    refine ⟨t, run, answer, ?_⟩
    rw [State.node_of_frame frame (by decide), State.node_modNode, State.node_selecting, hears.token]
    rfl
  case pref =>
    rintro s m src fb ⟨ask, room, -, role, len, pref, rfl, rfl, small, fallback, idle, started, noFlow, runs⟩
    obtain ⟨t, run, ⟨answer, ⟨tok, node⟩, orphans⟩ | refused⟩ := exec_clkSelect_pref ask room role (clkArgOk_pref len pref small fallback) pref (by omega)
      idle started noFlow runs
    · refine ⟨t, run, .inl ⟨answer, ?_, ?_, orphans⟩⟩
      · exact congrArg ClkNode.newSource node
      · exact (congrArg ClkNode.source node : (t.node prefCode).source = _)
    · exact ⟨t, run, .inr refused⟩
  case refused =>
    rintro s m c ⟨ask, room, -, role, rfl, arg, blocked⟩
    obtain ⟨g, hears, serve⟩ := exec_clkSelect ask room role arg
    obtain ⟨t, run, answer, frame⟩ := serve (clkSelectBody_refused (s := s.setGable g) (by rw [State.onFlowNode_setGable]; exact blocked)) (by split <;> decide)
    exact ⟨t, run, answer, frame .clk (by decide)⟩
  case force =>
    rintro s m c src ⟨ask, -, role, len, zero, rfl, clock, pending, forces, mailbox⟩
    obtain ⟨g, hears, serve⟩ := exec_clkswForce ask role len zero clock
    have body : cmdClkswForce.body (s.setGable g) m (s.req m) = ((s.setGable g).takeSource ((s.req m).num 0 2) src, ⟨stOk, []⟩) := by
      have pending' : ((s.setGable g).node ((s.req m).num 0 2)).newSource = some src := pending
      unfold cmdClkswForce
      dsimp only
      rw [pending']
      exact if_pos ⟨forces, mailbox⟩
    obtain ⟨t, run, answer, frame⟩ := serve body (by decide)
    obtain ⟨source, state, force, new, mbx, -⟩ := State.takeSource_of_pending (s := s.setGable g) pending
    rw [← State.node_of_frame frame (by decide)] at source state force new mbx
    exact ⟨t, run, answer, source, state, force, new, mbx⟩
  case noForce =>
    rintro s m c ⟨ask, -, role, len, zero, rfl, clock, refuses⟩
    obtain ⟨g, hears, serve⟩ := exec_clkswForce ask role len zero clock
    have body : cmdClkswForce.body (s.setGable g) m (s.req m) = (s.setGable g, ⟨stState, []⟩) := by
      unfold cmdClkswForce
      dsimp only
      split
      · rfl
      next pending =>
        refine if_neg fun ⟨forces, _⟩ => ?_
        rcases refuses with none' | never
        · exact Option.some_ne_none _ (pending.symm.trans none')
        · exact ne_true_of_eq_false never forces
    obtain ⟨t, run, answer, frame⟩ := serve body (by decide)
    exact ⟨t, run, answer, frame .clk (by decide)⟩
  case ends =>
    rintro s c src ⟨pending, clock, runs, good, state, old, new⟩
    have taken : clockSwitchEnd s c = s.takeSource c src := by
      unfold clockSwitchEnd
      dsimp only
      rw [pending]
      exact if_pos ⟨clock, ne_true_of_eq_false runs, ne_true_of_eq_false good, state, old, new⟩
    obtain ⟨source, state, -, new, mbx, fallback⟩ := State.takeSource_of_pending pending
    rw [← taken] at source state new mbx fallback
    exact ⟨_, rfl, source, state, new, mbx, fallback⟩
  case waits =>
    rintro s c waits
    refine ⟨_, rfl, ?_⟩
    unfold clockSwitchEnd
    dsimp only
    split
    · rfl
    next pending =>
      refine if_neg ?_
      rintro ⟨-, stop, failed, -, old, -⟩
      rcases waits with h | h | h | h
      · rw [h] at pending; cases pending
      · exact failed h
      · exact stop h
      · exact ne_true_of_eq_false h old
end

section
/-! PROOFS. What flows that are decided again, and lane sets that fail, leave of the clocks block: all but the power states of elements
    (08 R222, R227; 09 R242). -/

open Sys2Proof
namespace Sys2Proof.Machine

/-- The clocks block apart from the power states of the elements. -/
def State.clocksApart (s : State) : Clocks := { s.clk with elems := [] }

section
variable {s t : State} {ps : List Component}

theorem State.clocksApart_of_frame (h : s.changesOnly t ps) (out : Component.clk ∉ ps) : t.clocksApart = s.clocksApart := by
  have clk : t.clk = s.clk := h .clk out
  rw [State.clocksApart, clk, State.clocksApart]

theorem State.node_of_clocksApart (h : t.clocksApart = s.clocksApart) (c : Nat) : t.node c = s.node c :=
  (congrArg (fun k : Clocks => tget ClkNode.reset k.nodes c) h : tget ClkNode.reset t.clocksApart.nodes c = tget ClkNode.reset s.clocksApart.nodes c)

end

theorem State.clocksApart_modElem (s : State) (kind d i : Nat) (f : Elem → Elem) : (s.modElem kind d i f).clocksApart = s.clocksApart := rfl

theorem State.clocksApart_laneWake (s : State) (k : Nat) : (s.laneWake k).clocksApart = s.clocksApart := s.clocksApart_modElem ..

theorem State.clocksApart_wakeElem (s : State) (kind d i : Nat) : (s.wakeElem kind d i).clocksApart = s.clocksApart := by
  unfold State.wakeElem
  dsimp only
  split
  · exact s.clocksApart_modElem ..
  split
  · rfl
  split
  · exact s.clocksApart_modElem ..
  split
  · rfl
  · exact s.clocksApart_modElem ..

theorem State.clocksApart_wakeTx (s : State) (k : Nat) : (s.wakeTx k).clocksApart = s.clocksApart := by
  unfold State.wakeTx
  split
  · exact State.clocksApart_laneWake ..
  · rfl

theorem State.clocksApart_wakeEnd (s : State) (k : Nat) : (s.wakeEnd k).clocksApart = s.clocksApart := by
  unfold State.wakeEnd
  dsimp only
  split
  · rfl
  split
  · split <;> rfl
  split
  · rw [State.clocksApart_wakeTx]
    split <;> rfl
  · rfl

theorem State.clocksApart_wakePaths (s : State) (f : Flow) : (s.wakePaths f).clocksApart = s.clocksApart := by
  unfold State.wakePaths
  dsimp only
  refine (foldl_keeps State.clocksApart (fun (s : State) c => s.wakeChan c) (fun _ _ => rfl) _ _).trans ?_
  have ends (u : State) (ks : List Nat) : (ks.foldl (fun (s : State) k => s.wakeEnd k) u).clocksApart = u.clocksApart :=
    foldl_keeps State.clocksApart _ State.clocksApart_wakeEnd ks u
  have dies (u : State) (ds : List Nat) :
      (ds.foldl (fun (s : State) d => if d < s.fdies then s.wakeElem 1 d 0 else s) u).clocksApart = u.clocksApart := by
    refine foldl_keeps State.clocksApart _ (fun v d => ?_) ds u
    split
    · exact v.clocksApart_wakeElem 1 d 0
    · rfl
  split
  · split
    · rw [ends, dies]
    · rw [State.clocksApart_wakeElem, ends, dies]
  · rw [ends, dies]

theorem State.clocksApart_keepPaths (s : State) (hs : List Hop) : (s.keepPaths hs).clocksApart = s.clocksApart := by
  unfold State.keepPaths
  dsimp only
  refine (foldl_keeps State.clocksApart (fun (s : State) (e : Nat × Flow) => s.wakePaths e.2) (fun u e => u.clocksApart_wakePaths e.2) _ _).trans ?_
  refine foldl_keeps State.clocksApart _ (fun u h => ?_) _ _
  split <;> rfl

theorem State.clocksApart_decideAgain (s : State) (i : Nat) : (s.decideAgain i).clocksApart = s.clocksApart := by
  have moved (u : State) (f : Flow → Flow) (hs : List Hop) : Steps [.flows, .routers] u ((u.modFlow i f).programOuts hs) :=
    State.programOuts_steps (State.modFlow_steps (Steps.refl _ u) (by decide)) (by decide)
  have kept (u : State) (f : Flow → Flow) (hs ks : List Hop) : ((((u.modFlow i f).programOuts hs).rebound).keepPaths ks).clocksApart = u.clocksApart :=
    (State.clocksApart_keepPaths ..).trans (State.clocksApart_of_frame (State.rebound_steps (moved u f hs) (by decide)).1 (by decide))
  have refused (u : State) (f : Flow → Flow) (hs ks : List Hop) : (((u.modFlow i f).programOuts hs).keepPaths ks).clocksApart = u.clocksApart :=
    (State.clocksApart_keepPaths ..).trans (State.clocksApart_of_frame (moved u f hs).1 (by decide))
  unfold State.decideAgain
  dsimp only
  split
  · split
    · rw [State.clocksApart_of_frame (State.logNote_steps (Steps.refl [.log] _) (by decide)).1 (by decide), kept]; rfl
    · rw [kept]; rfl
  · split
    · exact refused ..
    · rw [State.clocksApart_of_frame (State.raiseHub_steps (Steps.refl [.evr] _) (by decide)).1 (by decide), refused]

/-- Flows decided again touch no clock. -/
theorem State.clocksApart_recheckFlows (old s : State) : (State.recheckFlows old s).clocksApart = s.clocksApart := by
  unfold State.recheckFlows State.retryViolated
  refine (foldl_keeps State.clocksApart _ (fun u e => ?_) _ _).trans (foldl_keeps State.clocksApart _ (fun u e => ?_) _ _)
  · exact u.clocksApart_decideAgain e.1
  · split
    · rfl
    · exact u.clocksApart_decideAgain e.1

/-- The failure of a lane set touches no clock. -/
theorem State.clocksApart_laneFaultOf (s : State) (k cause : Nat) (found : List Nat) : (s.laneFaultOf k cause found).clocksApart = s.clocksApart := by
  have leaves : ∀ tamper, Steps [.routers, .masters, .flows, .links, .guests, .linkKeys, .tb, .log, .evr, .lanesets, .gable] s (s.leaveActive k tamper) :=
    fun tamper => State.leaveActive_steps (Steps.refl _ s) (by decide)
  have enters : Steps [.routers, .masters, .flows, .links, .guests, .linkKeys, .tb, .log, .evr, .lanesets, .gable] s (s.enterFault k cause found) := by
    unfold State.enterFault
    dsimp only
    exact State.completeOpt_steps (State.raiseLaneFault_steps (State.modLaneset_steps (Steps.ite (fun _ => leaves _) fun _ => Steps.refl _ s)
      (by decide)) (by decide)) (by decide)
  have rests : Steps [.routers, .masters, .flows, .links, .guests, .linkKeys, .tb, .log, .evr, .lanesets, .gable] s (s.restFault k cause found) := by
    unfold State.restFault
    exact Steps.ite (fun _ => State.laneOff_steps (State.completeAll_steps enters (by decide)) (by decide)) fun _ =>
      Steps.ite (fun _ => State.laneOff_steps enters (by decide)) fun _ => enters
  rw [State.laneFaultOf_eq]
  split
  · rfl
  split
  · exact State.clocksApart_of_frame (State.laneOff_steps (leaves false) (by decide)).1 (by decide)
  · rw [State.clocksApart_recheckFlows]
    exact State.clocksApart_of_frame rests.1 (by decide)

end Sys2Proof.Machine
end

section
/-! PROOFS. What a failing clock forces and what its return undoes, and the statement about them (18 R457, R462 to R468; 11 R297; 12 R314). -/

open Sys2Proof
namespace Sys2Proof.Machine

/-- What no update for an element of a list changes, no list of such updates changes. -/
theorem foldl_keeps_of_mem {S A B : Type} (view : S → B) (f : S → A → S) {l : List A} (h : ∀ s, ∀ a ∈ l, view (f s a) = view s) (s : S) :
    view (l.foldl f s) = view s := by
  induction l generalizing s with
  | nil => rfl
  | cons a l ih =>
    rw [List.foldl_cons, ih fun s b hb => h s b (List.mem_cons_of_mem a hb), h s a List.mem_cons_self]

/-! ### The declaration (18 R462) -/

/-- A node declared failed. -/
def ClkNode.declared (n : ClkNode) : ClkNode := { n with failed := true, state := .failed, fails := satInc n.fails, forceOk := n.selMbx.isSome }

theorem State.raiseClockFail_frame (s : State) (c : Nat) : Steps [.routers, .evr] s (s.raiseClockFail c) :=
  State.raiseClockFail_steps (Steps.refl _ s) (by decide)

theorem State.raised_raiseClockFail (s : State) {c : Nat} (hub : codeDie c = 8) :
    ((s.raiseClockFail c).evr.raised.map fun e => (e.evid, e.evdata)) =
      (s.evr.raised.map fun e => (e.evid, e.evdata)) ++ [(0x3A9, BitVec.ofNat 32 c)] := by
  unfold State.raiseClockFail State.raiseEvent
  dsimp only
  rw [if_pos hub, State.raiseHub_eq, State.modEvr, State.setEvr_evr, List.map_append, evidOf, if_pos hub]
  rfl

theorem State.inq_raiseClockFail (s : State) {c : Nat} (fabric : codeDie c ≠ 8) :
    ((tget [] ((s.raiseClockFail c).router (codeDie c) 5).inq (8 * 7 + (MsgClass.evt.vc + 1))).map fun q => (q.cls, q.evid, q.evdata)) =
      ((tget [] (s.router (codeDie c) 5).inq (8 * 7 + (MsgClass.evt.vc + 1))).map fun q => (q.cls, q.evid, q.evdata)) ++
        [(.evt, BitVec.ofNat 10 (codeDie c * 0x60 + 0x0C), BitVec.ofNat 32 c)] := by
  unfold State.raiseClockFail State.raiseEvent
  dsimp only
  rw [if_neg fabric, State.inject, State.router_modRouter, evidOf, if_neg fabric]
  dsimp only
  rw [show 8 * 7 + (eventPkt _ _ _ true).vc = 8 * 7 + (MsgClass.evt.vc + 1) from rfl, tget_tmod_same, List.map_append]
  rfl

theorem State.declareFailed_frame (s : State) (c : Nat) : Steps [.clk] (s.raiseClockFail c) (s.declareFailed c) := by
  unfold State.declareFailed
  dsimp only
  refine State.modNode_steps ?_ (by decide)
  split
  · exact Steps.ite (fun _ => State.modClk_steps (Steps.refl _ _) (by decide)) fun _ => Steps.refl _ _
  · exact Steps.refl _ _

theorem State.declareFailed_eq (s : State) (c : Nat) : ∃ u : State, (∀ k, u.node k = s.node k) ∧ s.declareFailed c = u.modNode c ClkNode.declared := by
  have raised : ∀ k, (s.raiseClockFail c).node k = s.node k := State.node_of_frame (s.raiseClockFail_frame c).1 (by decide)
  unfold State.declareFailed
  dsimp only
  split
  · refine ⟨_, fun k => ?_, rfl⟩
    split
    · exact raised k
    · exact raised k
  · exact ⟨_, raised, rfl⟩

theorem State.node_declareFailed (s : State) (c : Nat) : (s.declareFailed c).node c = (s.node c).declared := by
  obtain ⟨u, same, declared⟩ := s.declareFailed_eq c
  rw [declared, State.node_modNode, same]

theorem State.node_declareFailed_other (s : State) {c k : Nat} (other : k ≠ c) : (s.declareFailed c).node k = s.node k := by
  obtain ⟨u, same, declared⟩ := s.declareFailed_eq c
  rw [declared, State.node_modNode_other _ _ other, same]

theorem State.declareFailed_parts (s : State) (c : Nat) : Steps [.routers, .clk, .evr] s (s.declareFailed c) :=
  State.declareFailed_steps (Steps.refl _ s) (by decide)

/-! ### The fallback (18 R468) -/

theorem State.takeFallback_of_none {s : State} {c : Nat} (none : (s.node c).fallback = noFallback) : s.takeFallback c = s :=
  if_neg fun h => h.1 none

theorem State.node_takeFallback_other (s : State) {c k : Nat} (other : k ≠ c) : (s.takeFallback c).node k = s.node k := by
  unfold State.takeFallback
  dsimp only
  split
  · obtain ⟨mid, taken, frame⟩ := (s.modNode c fun n => { n with fallback := noFallback }).takeSource_eq c (s.node c).fallback
    rw [taken, State.node_of_frame frame (by decide), State.node_modNode_other _ _ other, State.node_modNode_other _ _ other]
  · rfl

/-- A fallback that is taken leaves what the declaration counted. -/
theorem State.failed_takeFallback (s : State) (c : Nat) : ((s.takeFallback c).node c).failed = (s.node c).failed ∧
    ((s.takeFallback c).node c).fails = (s.node c).fails := by
  unfold State.takeFallback
  dsimp only
  split
  · rw [State.node_takeSource, State.node_modNode]
    exact ⟨rfl, rfl⟩
  · exact ⟨rfl, rfl⟩

theorem State.takeSource_times (s : State) {c : Nat} (src : BitVec 6) (other : c ≠ prefCode) : (s.takeSource c src).times = s.times := by
  unfold State.takeSource
  dsimp only
  rw [if_neg other]
  split
  · exact (State.completeOpt_steps (Steps.refl [.gable, .evr] _) (by decide)).1 .times (by decide)
  · rfl

theorem State.takeFallback_times (s : State) {c : Nat} (other : c ≠ prefCode) : (s.takeFallback c).times = s.times := by
  unfold State.takeFallback
  dsimp only
  split
  · exact State.takeSource_times _ _ other
  · rfl

/-! ### Nets and FPLLs that fail (18 R459, R464) -/

/-- PREF and the times of the dies: what no failing net or FPLL touches. -/
def State.prefView (s : State) : ClkNode × Tab DieTime := (s.node prefCode, s.times)

theorem State.prefView_of_frame {s t : State} {ps : List Component} (h : s.changesOnly t ps) (clk : Component.clk ∉ ps) (times : Component.times ∉ ps) :
    t.prefView = s.prefView :=
  Prod.ext (State.node_of_frame h clk prefCode) (h .times times)

theorem State.prefView_declareFailed (s : State) {c : Nat} (other : c ≠ prefCode) : (s.declareFailed c).prefView = s.prefView :=
  Prod.ext (s.node_declareFailed_other (Ne.symm other)) ((s.declareFailed_parts c).1 .times (by decide))

theorem State.prefView_takeFallback (s : State) {c : Nat} (other : c ≠ prefCode) : (s.takeFallback c).prefView = s.prefView :=
  Prod.ext (s.node_takeFallback_other (Ne.symm other)) (s.takeFallback_times other)

theorem State.holdPads_frame (s : State) (d : Nat) (which : Nat → Bool) : Steps [.dies] s (s.holdPads d which) :=
  State.holdPads_steps (Steps.refl _ s) (by decide)

theorem State.prefView_failNet (s : State) {c : Nat} (other : c ≠ prefCode) : (s.failNet c).prefView = s.prefView := by
  unfold State.failNet
  split
  · rw [State.prefView_takeFallback _ other, State.prefView_declareFailed _ other]
    exact State.prefView_of_frame (s.holdPads_frame _ _).1 (by decide) (by decide)
  · rfl

theorem State.prefView_failNets (s : State) (d : Nat) (on : Nat → Bool) : (s.failNets d on).prefView = s.prefView := by
  unfold State.failNets
  refine foldl_keeps_of_mem State.prefView _ (fun u c mem => ?_) s
  obtain ⟨i, small, rfl⟩ := List.mem_map.mp mem
  have := List.mem_range.mp small
  split
  · exact u.prefView_failNet (by unfold prefCode; omega)
  · rfl

theorem State.prefView_failPll (s : State) {c : Nat} (other : c ≠ prefCode) : (s.failPll c).prefView = s.prefView := by
  unfold State.failPll
  split
  · rw [State.prefView_takeFallback _ other, State.prefView_failNets, State.prefView_declareFailed _ other]
  · rfl

/-! ### PREF fails (18 R465) -/

/-- A die that was not OFF is UNCAL. -/
def uncalOf (x : AlignState) : AlignState := if x = .off then .off else .uncal

theorem State.node_prefCode_laneFault (s : State) (k cause : Nat) : (s.laneFault k cause).prefView = s.prefView :=
  Prod.ext (State.node_of_clocksApart (s.clocksApart_laneFaultOf k cause []) prefCode)
    ((State.laneFault_steps (k := k) (cause := cause) (Steps.refl [.routers, .masters, .flows, .lanesets, .links, .guests, .linkKeys, .tb, .dram,
      .gable, .clk, .log, .evr] s) (by decide)).1 .times (by decide))

theorem State.mon_uncal (s : State) (d k : Nat) : ((s.uncal d).time k).mon.state =
    if k = d then uncalOf (s.time k).mon.state else (s.time k).mon.state := by
  unfold State.uncal State.modMon
  split
  next own => subst own; rw [State.time_modTime]; rfl
  next other => rw [State.time_modTime_other _ _ other]

theorem uncalOf_uncalOf (x : AlignState) : uncalOf (uncalOf x) = uncalOf x := by cases x <;> rfl

theorem State.mon_foldl_uncal (s : State) (ds : List Nat) (k : Nat) : ((ds.foldl (fun (s : State) d => s.uncal d) s).time k).mon.state =
    if k ∈ ds then uncalOf (s.time k).mon.state else (s.time k).mon.state := by
  induction ds generalizing s with
  | nil => rfl
  | cons d ds ih =>
    rw [List.foldl_cons, ih, State.mon_uncal]
    by_cases own : k = d
    · subst own
      simp [uncalOf_uncalOf]
    · simp [own]

/-- A die at rest does not measure again. -/
theorem State.remeasure_of_uncal {s : State} {d : Nat} (rest : uncalOf (s.time d).mon.state = (s.time d).mon.state) : s.remeasure d = s := by
  unfold State.remeasure
  refine if_neg fun h => ?_
  rcases h.2 with m | m <;> rw [m] at rest <;> cases rest

theorem State.foldl_remeasure_of_uncal {s : State} {ds : List Nat} (rest : ∀ d ∈ ds, uncalOf (s.time d).mon.state = (s.time d).mon.state) :
    ds.foldl (fun (s : State) d => s.remeasure d) s = s := by
  induction ds with
  | nil => rfl
  | cons d ds ih =>
    rw [List.foldl_cons, State.remeasure_of_uncal (rest d List.mem_cons_self)]
    exact ih fun e mem => rest e (List.mem_cons_of_mem d mem)

/-- PREF takes another source while every die rests: none of them measures again. -/
theorem State.takeSource_times_of_uncal {s : State} (src : BitVec 6) (rest : ∀ d ∈ s.dieList, uncalOf (s.time d).mon.state = (s.time d).mon.state) :
    (s.takeSource prefCode src).times = s.times := by
  unfold State.takeSource
  dsimp only
  rw [if_pos rfl]
  generalize hu : s.modNode prefCode _ = u
  have dies : u.dieList = s.dieList := by rw [← hu]; rfl
  have times : u.times = s.times := by rw [← hu]; rfl
  have time : ∀ d, u.time d = s.time d := fun d => by rw [State.time, times, State.time]
  have still : u.dieList.foldl (fun (s : State) d => s.remeasure d) u = u :=
    State.foldl_remeasure_of_uncal fun d mem => by rw [time]; exact rest d (dies ▸ mem)
  rw [still, ← times]
  have inner : Steps [.lanesets, .gable, .evr] u (if src = 1 then u.modLaneset 144 fun x => { x with lpSel := 0 }
      else if src = 2 then u.modLaneset 145 fun x => { x with lpSel := 0 } else u) :=
    Steps.ite (fun _ => State.modLaneset_steps (Steps.refl _ u) (by decide)) fun _ =>
      Steps.ite (fun _ => State.modLaneset_steps (Steps.refl _ u) (by decide)) fun _ => Steps.refl _ u
  split
  · exact (State.completeOpt_steps inner (by decide)).1 .times (by decide)
  · exact inner.1 .times (by decide)

theorem State.takeFallback_times_of_uncal {s : State} (rest : ∀ d ∈ s.dieList, uncalOf (s.time d).mon.state = (s.time d).mon.state) :
    (s.takeFallback prefCode).times = s.times := by
  unfold State.takeFallback
  dsimp only
  split
  · exact State.takeSource_times_of_uncal (s := s.modNode prefCode _) _ rest
  · rfl

/-- FPLLs, nets and lane sets that hang on PREF have failed. -/
def State.prefLost (s : State) : State :=
  let s := s.declareFailed prefCode
  let s := s.dieList.foldl (fun (s : State) d =>
    let s := ((List.range 4).map fun f => d * 0x1000 + 0xE00 + f).foldl (fun (s : State) c =>
      if (s.node c).source = 0 then s.failPll c else s) s
    s.failNets d fun src => src == 24) s
  s.allLanesets.foldl (fun (s : State) k => s.laneFault k 9) s

theorem State.failPref_eq (s : State) : s.failPref = (s.prefLost.dieList.foldl (fun (s : State) d => s.uncal d) s.prefLost).takeFallback prefCode := rfl

theorem State.prefView_prefLost (s : State) : s.prefLost.prefView = ((s.node prefCode).declared, s.times) := by
  unfold State.prefLost
  dsimp only
  refine (foldl_keeps State.prefView (fun (s : State) k => s.laneFault k 9) (fun u k => u.node_prefCode_laneFault k 9) _ _).trans ?_
  refine (foldl_keeps State.prefView (fun (s : State) d => (((List.range 4).map fun f => d * 0x1000 + 0xE00 + f).foldl (fun (s : State) c =>
      if (s.node c).source = 0 then s.failPll c else s) s).failNets d fun src => src == 24) (fun u d => ?_) _ _).trans ?_
  · rw [State.prefView_failNets]
    refine foldl_keeps_of_mem State.prefView _ (fun u c mem => ?_) u
    obtain ⟨i, small, rfl⟩ := List.mem_map.mp mem
    have := List.mem_range.mp small
    split
    · exact u.prefView_failPll (by unfold prefCode; omega)
    · rfl
  · exact Prod.ext (s.node_declareFailed prefCode) ((s.declareFailed_parts prefCode).1 .times (by decide))

/-- The parts that the failure of PREF may touch. -/
def prefParts : List Component :=
  [.dies, .routers, .masters, .flows, .lanesets, .links, .guests, .linkKeys, .times, .tb, .dram, .gable, .clk, .log, .evr]

theorem State.fdies_prefLost (s : State) : s.prefLost.fdies = s.fdies := by
  have declared : Steps prefParts s (s.declareFailed prefCode) := State.declareFailed_steps (Steps.refl _ s) (by decide)
  have nets : Steps prefParts s ((s.declareFailed prefCode).dieList.foldl (fun (s : State) d =>
      (((List.range 4).map fun f => d * 0x1000 + 0xE00 + f).foldl (fun (s : State) c =>
        if (s.node c).source = 0 then s.failPll c else s) s).failNets d fun src => src == 24) (s.declareFailed prefCode)) :=
    Steps.foldl _ _ (fun _ _ h => State.failNets_steps (Steps.foldl _ _ (fun _ _ h => Steps.ite (fun _ => State.failPll_steps h (by decide)) fun _ => h) h)
      (by decide)) declared
  have lanes : Steps prefParts s s.prefLost := Steps.foldl _ _ (fun _ _ h => State.laneFault_steps h (by decide)) nets
  exact State.fdies_of_frame lanes.1 (by decide)

theorem State.uncals_frame (s : State) (ds : List Nat) : Steps [.times] s (ds.foldl (fun (s : State) d => s.uncal d) s) :=
  Steps.foldl _ _ (fun _ _ h => State.uncal_steps h (by decide)) (Steps.refl _ s)

/-- PREF stays declared failed and counted, and every die that is aligned to it is UNCAL. -/
theorem State.failPref_forces (s : State) : (s.failPref.node prefCode).failed = true ∧
    (s.failPref.node prefCode).fails = satInc (s.node prefCode).fails ∧
    ∀ d, d < s.fdies → (s.failPref.time d).mon.state = uncalOf (s.time d).mon.state := by
  have view := s.prefView_prefLost
  have node : s.prefLost.node prefCode = (s.node prefCode).declared := congrArg Prod.fst view
  have time : ∀ d, s.prefLost.time d = s.time d := fun d => congrArg (fun t => tget DieTime.reset t d) (congrArg Prod.snd view)
  generalize hl : s.prefLost = l at node time
  have dies : l.fdies = s.fdies := by rw [← hl, State.fdies_prefLost]
  have kept : ∀ k, (l.dieList.foldl (fun (s : State) d => s.uncal d) l).node k = l.node k :=
    State.node_of_frame (l.uncals_frame l.dieList).1 (by decide)
  have rests : ∀ d, ((l.dieList.foldl (fun (s : State) d => s.uncal d) l).time d).mon.state =
      if d < s.fdies then uncalOf (s.time d).mon.state else (s.time d).mon.state := fun d => by
    rw [State.mon_foldl_uncal, time, State.dieList, dies]
    exact if_congr List.mem_range rfl rfl
  have fallback := State.failed_takeFallback (l.dieList.foldl (fun (s : State) d => s.uncal d) l) prefCode
  rw [kept, node] at fallback
  rw [State.failPref_eq, hl]
  refine ⟨fallback.1, fallback.2, fun d fitted => ?_⟩
  have still := State.takeFallback_times_of_uncal (s := l.dieList.foldl (fun (s : State) d => s.uncal d) l) fun d mem => by
    have small : d < s.fdies := by
      rw [State.dieList, State.fdies_of_frame (l.uncals_frame l.dieList).1 (by decide), dies] at mem
      exact List.mem_range.mp mem
    rw [rests, if_pos small, uncalOf_uncalOf]
  rw [State.time, still]
  exact (rests d).trans (if_pos fitted)

/-! ### What each type forces (18 Table 18.4) -/

theorem clockNodeFail_of_monitored {s : State} {c : Nat} (watched : s.monitored c = true) (other : c ≠ prefCode) :
    clockNodeFail s c = s.forceSafe c := by
  unfold clockNodeFail
  rw [if_neg (by simp [watched]), if_neg fun h => other h.1]

theorem ne_prefCode {c : Nat} (h : codeType c ≠ 0xF) : c ≠ prefCode := fun e => h (by rw [e]; rfl)

section
variable {s : State} {c : Nat}

theorem State.forceSafe_core (core : 1 ≤ codeType c ∧ codeType c ≤ 3) : s.forceSafe c = (s.declareFailed c).packageFault := if_pos core

theorem State.forceSafe_timeBase (kind : codeType c = 4) : s.forceSafe c =
    if codeDie c = 8 then (s.declareFailed c).modTime (codeDie c) fun t => { t with stopped := true }
    else ((s.declareFailed c).modTime (codeDie c) fun t => { t with stopped := true }).uncal (codeDie c) := by
  simp only [State.forceSafe, kind]
  rfl

theorem State.forceSafe_ddr (kind : codeType c = 6) : s.forceSafe c = (s.declareFailed c).chanFault (codeIdx c) 4 0 := by
  simp only [State.forceSafe, kind]
  rfl

theorem State.forceSafe_sclk (kind : codeType c = 8) : s.forceSafe c = s.declareFailed c := by
  simp only [State.forceSafe, kind]
  rfl

theorem State.forceSafe_cfgclk (kind : codeType c = 9) : s.forceSafe c =
    (s.declareFailed c).modLeggett (codeDie c) fun l => { l with cfgRun := false, memRun := false } := by
  simp only [State.forceSafe, kind]
  rfl

theorem State.forceSafe_net (kind : codeType c = 0xD) : s.forceSafe c = s.failNet c := by
  simp only [State.forceSafe, kind]
  rfl

end

theorem State.forceSafe_pref (s : State) : s.forceSafe prefCode = s.failPref := by
  simp [State.forceSafe, show codeType prefCode = 15 from rfl]

section
variable {s : State} {c : Nat} (watched : s.monitored c = true)
include watched

/-- A net that fails is declared failed while its pins keep what HOLD says, and takes its fallback. -/
theorem State.failNet_eq : ∃ x : State, Steps [.dies] s x ∧ s.failNet c = (x.declareFailed c).takeFallback c :=
  ⟨_, s.holdPads_frame _ _, if_pos watched⟩

/-- A time base, SCLK, a configuration clock or a net without fallback: the declaration, and what it forces on its die. -/
theorem clockNodeFail_local (kind : codeType c = 8 ∨ codeType c = 4 ∨ codeType c = 9 ∨ (codeType c = 0xD ∧ (s.node c).fallback = 0x3F)) :
    ∃ x : State, Steps [.dies] s x ∧ Steps [.dies, .times, .clk] (x.raiseClockFail c) (clockNodeFail s c) ∧
      (clockNodeFail s c).node c = (s.node c).declared ∧
      (codeType c = 4 → ((clockNodeFail s c).time (codeDie c)).stopped = true) ∧
      (codeType c = 9 → ((clockNodeFail s c).die (codeDie c)).leggett.cfgRun = false ∧ ((clockNodeFail s c).die (codeDie c)).leggett.memRun = false) := by
  have declared : ∀ x : State, Steps [.dies, .times, .clk] (x.raiseClockFail c) (x.declareFailed c) := fun x =>
    Steps.via (Steps.refl _ _) (x.declareFailed_frame c) (by decide)
  rw [clockNodeFail_of_monitored watched (ne_prefCode (by omega))]
  rcases kind with eight | four | nine | ⟨net, fallback⟩
  · rw [State.forceSafe_sclk eight]
    exact ⟨s, Steps.refl _ s, declared s, s.node_declareFailed c, by omega, by omega⟩
  · rw [State.forceSafe_timeBase four]
    have stopped : (((s.declareFailed c).modTime (codeDie c) fun t => { t with stopped := true }).time (codeDie c)).stopped = true := by
      rw [State.time_modTime]
    have halts : Steps [.dies, .times, .clk] (s.raiseClockFail c) ((s.declareFailed c).modTime (codeDie c) fun t => { t with stopped := true }) :=
      State.modTime_steps (declared s) (by decide)
    refine ⟨s, Steps.refl _ s, ?_, ?_, fun _ => ?_, by omega⟩
    · exact Steps.ite (fun _ => halts) fun _ => State.uncal_steps halts (by decide)
    · split
      · exact s.node_declareFailed c
      · exact s.node_declareFailed c
    · split
      · exact stopped
      · rw [State.uncal, State.modMon, State.time_modTime]
        exact stopped
  · rw [State.forceSafe_cfgclk nine]
    refine ⟨s, Steps.refl _ s, State.modDie_steps (declared s) (by decide), s.node_declareFailed c, by omega, fun _ => ?_⟩
    rw [State.modLeggett, State.die_modDie]
    exact ⟨rfl, rfl⟩
  · rw [State.forceSafe_net net]
    obtain ⟨x, held, fails⟩ := State.failNet_eq watched
    have node := State.node_of_frame held.1 (by decide) c
    have declares : (x.declareFailed c).node c = (s.node c).declared := by rw [State.node_declareFailed, node]
    rw [fails, State.takeFallback_of_none (declares ▸ fallback)]
    exact ⟨x, held, declared x, declares, by omega, by omega⟩

/-- A net whose fallback is PREF takes it, PREF running. -/
theorem clockNodeFail_fallback (net : codeType c = 0xD) (some' : (s.node c).fallback ≠ 0x3F) (other : (s.node c).fallback ≠ (s.node c).source)
    (pref : (s.node c).fallback.toNat = 24) (fits : s.sourceFits c 24 = true) (good : s.prefGood = true) (idle : (s.node c).newSource = none) :
    ((clockNodeFail s c).node c).source = (s.node c).fallback ∧ ((clockNodeFail s c).node c).fallback = 0x3F ∧
      ((clockNodeFail s c).node c).state = .running ∧ ((clockNodeFail s c).node c).fails = satInc (s.node c).fails := by
  have apart := ne_prefCode (c := c) (by omega)
  rw [clockNodeFail_of_monitored watched apart, State.forceSafe_net net]
  obtain ⟨x, held, fails⟩ := State.failNet_eq watched
  have same := State.node_of_frame held.1 (by decide)
  have declares : (x.declareFailed c).node c = (s.node c).declared := by rw [State.node_declareFailed, same]
  have fuses : (x.declareFailed c).fuses = s.fuses := ((x.declareFailed_parts c).1 .fuses (by decide)).trans (held.1 .fuses (by decide))
  have takes : (x.declareFailed c).takeFallback c =
      ((x.declareFailed c).modNode c fun n => { n with fallback := noFallback }).takeSource c (s.node c).fallback := by
    unfold State.takeFallback
    dsimp only
    rw [declares]
    refine if_pos ⟨some', other, ?_, ?_⟩
    · rw [show (s.node c).declared.fallback.toNat = 24 from pref]
      have kept : ∀ u : State, u.fuses = s.fuses → u.sourceFits c 24 = s.sourceFits c 24 := fun u e => by
        simp [State.sourceFits, State.sourceKhz, State.fclkMax, net, e]
      rw [kept _ fuses]
      exact fits
    · rw [show (s.node c).declared.fallback.toNat = 24 from pref]
      have feed : ∀ u : State, u.sourceRuns c 24 = u.prefGood := fun u => by simp [State.sourceRuns, outsideOf, net]
      rw [feed, State.prefGood, State.node_declareFailed_other x (Ne.symm apart), same]
      exact good
  rw [fails, takes, State.node_takeSource, State.node_modNode, declares]
  simp [idle, ClkNode.declared, noFallback]

end

/-- A channel's failure. -/
theorem State.chan_chanFault (s : State) (n cause step : Nat) : ((s.chanFault n cause step).chan n).state = .fault ∧
    ((s.chanFault n cause step).chan n).cause = BitVec.ofNat 5 cause := by
  unfold State.chanFault
  dsimp only
  generalize (s.failAccepted n).forget n = u
  generalize hv : u.modChan n _ = v
  have frame : Steps [.gable, .evr] v ((((v.raiseDramFault n cause step 0).completeOpt (s.chan n).upCmd stFault (causeResult cause)).completeOpt
      (s.chan n).heldUp stFault (causeResult cause)).completeAll ((s.chan n).downCmds.map (·.1)) stOk []) :=
    State.completeAll_steps (State.completeOpt_steps (State.completeOpt_steps (State.raiseDramFault_steps (Steps.refl _ v) (by decide)) (by decide))
      (by decide)) (by decide)
  rw [State.chan_of_frame frame.1 (by decide), ← hv, State.chan_modChan]
  exact ⟨rfl, rfl⟩

/-! ### A node runs again (18 R463) -/

/-- What a clock input is known to be dead for is forgotten. -/
def State.feedBack (s : State) (c : Nat) : State :=
  match outsideOf c (s.node c).source.toNat with
  | some k => s.modClk fun x => { x with deadSrc := x.deadSrc.filter (· != k) }
  | none => s

theorem State.node_feedBack (s : State) (c k : Nat) : (s.feedBack c).node k = s.node k := by
  unfold State.feedBack
  split <;> rfl

section
variable {s : State} {c : Nat}

theorem State.resume_timeBase (kind : codeType c = 4) : s.resume c = (s.modTime (codeDie c) fun t => { t with stopped := false }).tryMeasure (codeDie c) := by
  simp only [State.resume, kind]
  rfl

theorem State.resume_plain (kind : codeType c = 8 ∨ codeType c = 0xD ∨ codeType c = 0xE) : s.resume c = s := by
  rcases kind with kind | kind | kind
  all_goals
    simp only [State.resume, kind]
    rfl

/-- A time base that counts again may measure. -/
theorem State.resume_timeBase_frame (kind : codeType c = 4) : Steps [.times] s (s.resume c) := by
  rw [State.resume_timeBase kind]
  exact State.tryMeasure_steps (State.modTime_steps (Steps.refl _ s) (by decide)) (by decide)

theorem State.stopped_resume (kind : codeType c = 4) : ((s.resume c).time (codeDie c)).stopped = false := by
  rw [State.resume_timeBase kind]
  unfold State.tryMeasure
  dsimp only
  split
  · rw [State.modMon, State.time_modTime, State.time_modTime]
  · rw [State.time_modTime]

theorem State.node_resume (kind : codeType c = 4 ∨ codeType c = 8 ∨ codeType c = 0xD ∨ codeType c = 0xE) (k : Nat) : (s.resume c).node k = s.node k := by
  rcases kind with base | plain
  · exact State.node_of_frame (State.resume_timeBase_frame base).1 (by decide) k
  · rw [State.resume_plain plain]

theorem clockNodeRunning_of_failed {khz : Nat} (clock : s.hasClock c = true) (failed : (s.node c).failed = true) (feeds : s.feedRuns c = true)
    (apart : c ≠ prefCode) (kind : codeType c ≠ 0) : clockNodeRunning s c khz =
      ((s.feedBack c).modNode c fun n => { n with failed := false, state := .running, forceOk := false, freq := BitVec.ofNat 32 khz }).resume c := by
  unfold clockNodeRunning
  rw [if_neg fun h => apart h.1, if_neg (by simp [clock, failed, feeds, kind])]
  rfl

end

/-! ### AOCLK fails (18 R457) -/

theorem State.packageWake_keeps (s : State) (source : Nat) : (s.packageWake source).clk.aoclkFail = s.clk.aoclkFail ∧
    (s.packageWake source).clk.rcMon = s.clk.rcMon := by
  unfold State.packageWake
  dsimp only
  split
  · exact ⟨rfl, rfl⟩
  · split <;> exact ⟨rfl, rfl⟩
  · exact ⟨rfl, rfl⟩

/-- The state in which the failure of AOCLK is declared and raised. -/
def State.aoclkLost (s : State) : State :=
  ((s.modNode 0x8000 fun n => { n with failed := true, state := .failed, fails := satInc n.fails }).modClk fun k =>
    { k with aoclkFail := true, rcMon := true }).raiseHub 0x3AA 0 (some (mkEntry 0x0E 2 0x3AA (8 + atLo 0x8000 4) 0))

theorem aoclkFail_of_good {s : State} (good : s.clk.aoclkFail = false) :
    (aoclkFail s).clk.aoclkFail = true ∧ (aoclkFail s).clk.rcMon = true ∧ (∃ ev ∈ (aoclkFail s).evr.raised, ev.evid = 0x3AA) ∧
      (s.clk.pkg = .deep → (aoclkFail s).clk.pkg = .waking ∧ (aoclkFail s).clk.wakeCause = 0x20) := by
  have wakes : aoclkFail s = s.aoclkLost.packageWake 5 := if_neg (ne_true_of_eq_false good)
  obtain ⟨lost, mon⟩ := s.aoclkLost.packageWake_keeps 5
  have evr : (s.aoclkLost.packageWake 5).evr = s.aoclkLost.evr :=
    (State.packageWake_steps (Steps.refl [.cfg, .clk] s.aoclkLost) (by decide)).1 .evr (by decide)
  rw [wakes, lost, mon, evr]
  refine ⟨rfl, rfl, ⟨_, List.mem_append_right _ (List.mem_singleton.mpr rfl), rfl⟩, fun deep => ?_⟩
  rw [State.packageWake_of_deep (s := s.aoclkLost) deep]
  exact ⟨rfl, rfl⟩

end Sys2Proof.Machine

open Sys2Proof Sys2Proof.Machine

/-- Settles O51: the declaration once, then what each type forces, and the return of a node and of AOCLK. -/
theorem clockFailures : Obligations.clockFailures := by
  unfold Obligations.clockFailures
  refine ⟨?unwatched, ?plain, ?ddr, ?fallback, ?core, ?pref, ?boot, ?returns, ?good, ?aoclk, ?again⟩
  case unwatched => exact fun s c h => ⟨_, rfl, if_pos (ne_true_of_eq_false h)⟩
  case plain =>
    rintro s c ⟨watched, kind⟩
    obtain ⟨x, held, frame, node, stops, halts⟩ := clockNodeFail_local watched kind
    refine ⟨_, rfl, node, fun hub => ?_, fun fabric => ?_, stops, halts⟩
    · have evr : x.evr = s.evr := held.1 .evr (by decide)
      have evr' : (clockNodeFail s c).evr = (x.raiseClockFail c).evr := frame.1 .evr (by decide)
      rw [evr', x.raised_raiseClockFail hub, evr]
    · rw [State.router_of_frame frame.1 (by decide), x.inq_raiseClockFail fabric, State.router_of_frame held.1 (by decide)]
  case ddr =>
    rintro s c ⟨watched, kind⟩
    refine ⟨_, congrArg Host.Outcome.next ((clockNodeFail_of_monitored watched (ne_prefCode (by omega))).trans (State.forceSafe_ddr kind)), ?_,
      State.chan_chanFault ..⟩
    have node := State.node_of_frame (State.chanFault_steps (n := codeIdx c) (cause := 4) (step := 0)
      (Steps.refl [.free, .routers, .dram, .gable, .evr] (s.declareFailed c)) (by decide)).1 (by decide) c
    rw [node, State.node_declareFailed]
    rfl
  case fallback =>
    rintro s c ⟨watched, net, some', other, pref, fits, good, idle⟩
    exact ⟨_, rfl, clockNodeFail_fallback watched net some' other pref fits good idle⟩
  case core =>
    rintro s c ⟨watched, low, high⟩
    refine ⟨_, congrArg Host.Outcome.next ((clockNodeFail_of_monitored watched (ne_prefCode (by omega))).trans (State.forceSafe_core ⟨low, high⟩)), ?_⟩
    have node := State.node_of_frame (State.packageFault_steps (Steps.refl [.free, .dies, .routers, .masters, .cfg, .svc, .lad] (s.declareFailed c))
      (by decide)).1 (by decide) c
    rw [node, State.node_declareFailed]
    exact ⟨rfl, rfl, rfl, rfl⟩
  case pref =>
    rintro s ⟨watched, phase⟩
    have fails : clockNodeFail s prefCode = s.failPref :=
      (if_neg (not_not_intro watched)).trans ((if_neg fun h => h.2.2 phase).trans s.forceSafe_pref)
    exact ⟨_, congrArg Host.Outcome.next fails, s.failPref_forces⟩
  case boot =>
    rintro s ⟨watched, phase, source⟩
    exact ⟨_, congrArg Host.Outcome.next ((if_neg (not_not_intro watched)).trans (if_pos ⟨rfl, source, phase⟩)), rfl⟩
  case returns =>
    rintro s c khz ⟨clock, failed, feeds, kind⟩
    have returns := clockNodeRunning_of_failed (khz := khz.toNat) clock failed feeds (ne_prefCode (by omega)) (by omega)
    refine ⟨_, congrArg Host.Outcome.next returns, ?_, fun base => ?_⟩
    · rw [State.node_resume kind, State.node_modNode, State.node_feedBack, BitVec.ofNat_toNat, BitVec.setWidth_eq]
    · exact State.stopped_resume base
  case good =>
    rintro s c khz ⟨good, apart⟩
    exact ⟨_, rfl, (if_neg fun h => apart.elim (fun other => other h.1) fun never => ne_true_of_eq_false never h.2).trans
      (if_pos (.inr (.inr (.inl (ne_true_of_eq_false good)))))⟩
  case aoclk =>
    rintro s good
    obtain ⟨fails, mon, ev, deep⟩ := aoclkFail_of_good good
    exact ⟨_, rfl, fails, mon, ev, deep⟩
  case again => exact fun s failed => ⟨_, rfl, if_pos failed⟩
end

section
/-! PROOFS. The power commands, and the statement about them (18 R469 to R477; 08 R222). -/

open Sys2Proof
namespace Sys2Proof.Machine

/-! ### A die begins to sleep (18 R471) -/

/-- The clocks block apart from the nodes. -/
def State.nodeless (s : State) : Clocks := { s.clk with nodes := [] }

theorem State.nodeless_of_frame {s t : State} {ps : List Component} (h : s.changesOnly t ps) (out : Component.clk ∉ ps) : t.nodeless = s.nodeless := by
  have clk : t.clk = s.clk := h .clk out
  rw [State.nodeless, clk, State.nodeless]

theorem State.elem_of_nodeless {s t : State} (h : t.nodeless = s.nodeless) (kind d i : Nat) : t.elem kind d i = s.elem kind d i :=
  (congrArg (fun k : Clocks => tget Elem.reset k.elems (elemKey kind d i)) h :
    tget Elem.reset t.nodeless.elems (elemKey kind d i) = tget Elem.reset s.nodeless.elems (elemKey kind d i))

theorem State.nodeless_napDie (s : State) (d : Nat) : (s.napDie d).nodeless = s.nodeless :=
  foldl_keeps State.nodeless (fun (s : State) c => s.stopNode c) (fun _ _ => rfl) (dieNodes d) s

/-- The state before a die's clocks stop: into DEEP its bays are clamped and its time base is OFF; pads are latched. -/
def State.dozing (s : State) (d : Nat) (deep : Bool) : State :=
  let s := if deep then
      let s := (List.range 96).foldl (fun (s : State) b => if (s.bay d b).state = .active then s.sleepBay d b else s) s
      let s := ((s.orphanTime d).modMon d fun m => { m with state := .off, run := 0, slew := 0, parentOk := false }).modTime d fun t =>
        { t with stopped := true }
      (s.dropSched d).stopNode (d * 0x1000 + 0x400)
    else s
  if (s.die d).io.pads = .enabled then s.latchPads d else s

theorem State.sleepDie_eq (s : State) (d : Nat) (deep : Bool) : s.sleepDie d deep = ((s.dozing d deep).napDie d).modElem 1 d 0 fun e =>
    { e with phase := .entering, target := if deep then .deep else .nap, atPs := (s.dozing d deep).now, pendingEnable := false, idleAt := none } := rfl

theorem State.nodeless_dozing (s : State) (d : Nat) (deep : Bool) : (s.dozing d deep).nodeless = s.nodeless := by
  have latches : ∀ u : State, (if (u.die d).io.pads = .enabled then u.latchPads d else u).nodeless = u.nodeless := fun u => by
    split
    · exact State.nodeless_of_frame (State.latchPads_steps (Steps.refl [.dies] u) (by decide)).1 (by decide)
    · rfl
  unfold State.dozing
  dsimp only
  rw [latches]
  split
  · have bays : Steps [.dies, .routers, .masters, .lad] s
        ((List.range 96).foldl (fun (s : State) b => if (s.bay d b).state = .active then s.sleepBay d b else s) s) :=
      Steps.foldl _ _ (fun _ _ h => Steps.ite (fun _ => State.sleepBay_steps h (by decide)) fun _ => h) (Steps.refl _ s)
    generalize (List.range 96).foldl _ s = u at bays
    have rest : Steps [.times, .dies, .hpins] u ((((u.orphanTime d).modMon d fun m => { m with state := .off, run := 0, slew := 0, parentOk := false }).modTime d
        fun t => { t with stopped := true }).dropSched d) :=
      State.dropSched_steps (State.modTime_steps (State.modMon_steps (State.orphanTime_steps (Steps.refl _ u) (by decide)) (by decide)) (by decide))
        (by decide)
    exact (State.nodeless_of_frame rest.1 (by decide)).trans (State.nodeless_of_frame bays.1 (by decide))
  · rfl

theorem State.dozing_now (s : State) (d : Nat) (deep : Bool) : (s.dozing d deep).now = s.now := by
  have whole : Steps [.dies, .routers, .masters, .times, .hpins, .clk, .lad] s (s.sleepDie d deep) := State.sleepDie_steps (Steps.refl _ s) (by decide)
  have nap : Steps [.clk] (s.dozing d deep) (s.sleepDie d deep) :=
    State.modElem_steps (State.napDie_steps (Steps.refl _ _) (by decide)) (by decide)
  exact (nap.1 .now (by decide)).symm.trans (whole.1 .now (by decide))

/-- An element of a die that begins its entry. -/
def Elem.entering (e : Elem) (target : PowerState) (now : Nat) : Elem :=
  { e with phase := .entering, target := target, atPs := now, pendingEnable := false, idleAt := none }

theorem State.elem_sleepDie (s : State) (d : Nat) (deep : Bool) :
    (s.sleepDie d deep).elem 1 d 0 = (s.elem 1 d 0).entering (if deep then .deep else .nap) s.now := by
  rw [State.sleepDie_eq, State.elem_modElem, State.dozing_now,
    State.elem_of_nodeless ((State.nodeless_napDie _ d).trans (s.nodeless_dozing d deep))]
  rfl

/-- The clocks block apart from nodes and elements. -/
def State.clkBare (s : State) : Clocks := { s.clk with nodes := [], elems := [] }

theorem State.clkBare_sleepDie (s : State) (d : Nat) (deep : Bool) : (s.sleepDie d deep).clkBare = s.clkBare :=
  congrArg (fun k : Clocks => { k with elems := [] }) ((State.nodeless_napDie _ d).trans (s.nodeless_dozing d deep) :
    ((s.dozing d deep).napDie d).nodeless = s.nodeless)

/-- A bay begins its entry into DEEP. -/
theorem State.sleepElemBay_eq (s : State) (d b : Nat) : ((s.sleepElemBay d b).elem 2 d b = { (s.elem 2 d b).entering .deep s.now with state := .active }) ∧
    ((s.sleepElemBay d b).bay d b).state = .deep := by
  have slept : Steps [.dies, .routers, .masters, .lad] s (s.sleepBay d b) := State.sleepBay_steps (Steps.refl _ s) (by decide)
  unfold State.sleepElemBay
  constructor
  · rw [State.elem_modElem, State.elem_of_frame slept.1 (by decide)]
    rfl
  · rw [State.bay_of_frame (State.modElem_steps (Steps.refl [.clk] (s.sleepBay d b)) (by decide)).1 (by decide), State.sleepBay, State.bay_modBay]

/-! ### PWR_SET into a low-power state (18 R470, R471) -/

section
variable {s : State} {d i st tok : Nat}

/-- What waits for an element's entry. -/
def State.noteCmd (s : State) (kind d i tok : Nat) : State := s.modElem kind d i fun e => { e with cmds := e.cmds ++ [tok] }

theorem State.bay_noteCmd (s : State) (kind d i tok e b : Nat) : (s.noteCmd kind d i tok).bay e b = s.bay e b := rfl

theorem setLow_of_forbidden {kind : Nat} (forbids : s.flowForbids kind d i st = true) : setLow s kind d i st tok = (s, bare stState) := if_pos forbids

theorem setLow_die (allows : s.flowForbids 1 d 0 st = false) (low : st = 2 ∨ st = 3) (steady : (s.elem 1 d 0).phase = .steady)
    (awake : (s.elem 1 d 0).state = .active ∨ (s.elem 1 d 0).state = .idle) (idle : s.dieLoads d = false) :
    setLow s 1 d 0 st tok = ((s.sleepDie d (st == 3)).noteCmd 1 d 0 tok, bare stAccepted) := by
  unfold setLow
  dsimp only
  rw [if_neg (by simp [allows]), if_neg (by decide), if_neg (by simp [steady]), if_neg (by simp [steady]),
    if_neg (by rcases awake with h | h <;> rcases low with h' | h' <;> simp [h, h', PowerState.num]), if_pos rfl, if_neg (by simp [idle]),
    if_neg (by rcases awake with h | h <;> simp [h])]
  rfl

section
variable (allows : s.flowForbids 2 d i st = false) (steady : (s.elem 2 d i).phase = .steady)
include allows steady

theorem setLow_bay_deep (deep : st = 3) (active : (s.bay d i).state = .active) (awake : s.dieAwake d = true) (idle : (s.bay d i).runCmd = none) :
    setLow s 2 d i st tok = ((s.sleepElemBay d i).noteCmd 2 d i tok, bare stAccepted) := by
  unfold setLow
  dsimp only
  rw [if_neg (by simp [allows]), if_neg (by decide), if_neg (by simp [steady]), if_neg (by simp [steady]), if_neg (by simp [deep]),
    if_neg (by decide), if_neg (by simp [active, awake]), if_neg (by simp [idle]), if_neg (by omega)]
  rfl

theorem setLow_bay_idle (rest : st = 1) (active : (s.bay d i).state = .active) (awake : s.dieAwake d = true) (idle : (s.bay d i).runCmd = none)
    (other : (s.elem 2 d i).state ≠ .idle) : setLow s 2 d i st tok = (s.modElem 2 d i fun e => { e with state := .idle }, okReply []) := by
  have num : (s.elem 2 d i).state.num ≠ 1 := by cases h : (s.elem 2 d i).state <;> simp_all [PowerState.num]
  unfold setLow
  dsimp only
  rw [if_neg (by simp [allows]), if_neg (by decide), if_neg (by simp [steady]), if_neg (by simp [steady]), if_neg (by simp [rest, num]),
    if_neg (by decide), if_neg (by simp [active, awake]), if_neg (by simp [idle]), if_pos rest]

theorem setLow_bay_refused (deep : st = 3) (blocked : (s.bay d i).state ≠ .active ∨ s.dieAwake d = false ∨ (s.bay d i).runCmd.isSome = true) :
    setLow s 2 d i st tok = (s, ⟨if (s.bay d i).state = .active ∧ s.dieAwake d = true then stBusy else stState, []⟩) := by
  unfold setLow
  dsimp only
  rw [if_neg (by simp [allows]), if_neg (by decide), if_neg (by simp [steady]), if_neg (by simp [steady]), if_neg (by simp [deep]),
    if_neg (by decide)]
  by_cases open' : (s.bay d i).state = .active ∧ s.dieAwake d = true
  · have busy : (s.bay d i).runCmd.isSome = true := by simpa [open'.1, open'.2] using blocked
    rw [if_neg (by simp [open']), if_pos busy, if_pos open']
    rfl
  · rw [if_pos (not_and_or.mp open'), if_neg open']
    rfl

end

theorem setLow_router (allows : s.flowForbids 3 d i st = false) (quiet : s.quiet d i = true) :
    setLow s 3 d i st tok = (s.modRouter d i fun x => { x with idle := true, wakeAt := none }, okReply []) := by
  unfold setLow
  dsimp only
  rw [if_neg (by simp [allows]), if_pos rfl, if_pos quiet]

end

/-! ### PWR_SET to ACTIVE (18 R472) -/

section
variable {s : State} {kind d i tok : Nat}

theorem setActive_of_asleep (element : kind = 1 ∨ kind = 2) (asleep : (s.elem kind d i).state = .nap ∨ (s.elem kind d i).state = .deep) :
    setActive s kind d i tok = ((s.wakeElem kind d i).modElem kind d i fun e => { e with wakeCmds := e.wakeCmds ++ [tok] }, bare stAccepted) := by
  unfold setActive
  dsimp only
  rw [if_neg (by omega), if_neg (by omega), if_neg (by rcases asleep with h | h <;> simp [h]), if_neg (by rcases asleep with h | h <;> simp [h])]

theorem State.wakeElem_of_asleep (steady : (s.elem kind d i).phase = .steady) (asleep : (s.elem kind d i).state = .nap ∨ (s.elem kind d i).state = .deep) :
    s.wakeElem kind d i = s.modElem kind d i fun e => { e with phase := .waking, target := .active, atPs := s.now } := by
  unfold State.wakeElem
  dsimp only
  rw [if_neg (by simp [steady]), if_neg (by simp [steady]), if_neg (by rcases asleep with h | h <;> simp [h]),
    if_neg (by rcases asleep with h | h <;> simp [h])]

theorem State.state_wakeElem_of_awake (steady : (s.elem kind d i).phase = .steady) (awake : (s.elem kind d i).state = .active ∨ (s.elem kind d i).state = .idle) :
    ((s.wakeElem kind d i).elem kind d i).state = .active := by
  unfold State.wakeElem
  dsimp only
  rw [if_neg (by simp [steady]), if_neg (by simp [steady])]
  rcases awake with h | h
  · rw [if_neg (by simp [h]), if_pos h, h]
  · rw [if_pos h, State.elem_modElem]

end

theorem setActive_router (s : State) (d i tok : Nat) : setActive s 3 d i tok =
    (s.modRouter d i fun x => { x with idle := false, wakeAt := none, wakeFrom := [], quietAt := s.now }, okReply []) := by
  unfold setActive
  dsimp only
  rw [if_neg (by decide), if_pos rfl]

theorem setActive_die_of_awake {s : State} {d tok : Nat} (steady : (s.elem 1 d 0).phase = .steady)
    (awake : (s.elem 1 d 0).state = .active ∨ (s.elem 1 d 0).state = .idle) : setActive s 1 d 0 tok = (s.wakeElem 1 d 0, okReply []) := by
  unfold setActive
  dsimp only
  rw [if_neg (by omega), if_neg (by omega), if_neg (by omega), if_pos ⟨steady, awake⟩]

/-! ### The package (18 R474) -/

/-- The package begins its entry. -/
def State.pkgEntering (s : State) (tok : Nat) : State :=
  s.modClk fun k => { k with pkg := .entering, deepMbx := some tok, deepAt := s.now, pendingEnable := false }

theorem setPackage_of_active {s : State} {tok : Nat} (active : s.clk.pkg = .active) (clock : s.clk.aoclkFail = false)
    (dma : ∀ c ∈ List.range 32, (s.dmaCh c).state = .idle ∨ (s.dmaCh c).state = .halted)
    (dies : ∀ d ∈ List.range s.fdies, s.dieLoads d = false ∧ (s.elem 1 d 0).phase = .steady) (flows : (s.flows.any fun e => e.2.live) = false) :
    setPackage s tok = ((s.pkgEntering tok).dieList.foldl (fun (s : State) d => if (s.elem 1 d 0).state = .deep then s else s.sleepDie d true)
      (s.pkgEntering tok), bare stAccepted) := by
  have rests : ((List.range 32).any fun c => (s.dmaCh c).state == .wait || (s.dmaCh c).state == .busy || (s.dmaCh c).state == .readback ||
      (s.dmaCh c).state == .stopping) = false := by
    rw [List.any_eq_false]
    intro c mem
    rcases dma c mem with h | h <;> simp [h]
  have loads : (s.dieList.any fun d => s.dieLoads d) = false := List.any_eq_false.mpr fun d mem => ne_true_of_eq_false (dies d mem).1
  have still : (s.dieList.any fun d => (s.elem 1 d 0).phase != .steady) = false := List.any_eq_false.mpr fun d mem => by simp [(dies d mem).2]
  unfold setPackage
  dsimp only
  rw [rests, loads, flows, still, if_neg (by simp [active]), if_neg (by simp [clock]), if_neg (by decide)]
  rfl

theorem State.clkBare_pkgEntering (s : State) (tok : Nat) (ds : List Nat) :
    (ds.foldl (fun (s : State) d => if (s.elem 1 d 0).state = .deep then s else s.sleepDie d true) (s.pkgEntering tok)).clkBare =
      (s.pkgEntering tok).clkBare :=
  foldl_keeps State.clkBare (fun (s : State) d => if (s.elem 1 d 0).state = .deep then s else s.sleepDie d true) (fun u d => by
    split
    · rfl
    · exact u.clkBare_sleepDie d true) ds _

/-! ### The commands (17 Table 17.10) -/

section
variable {s : State} {m : Nat} (ask : s.asks m 0x0603 = true) (room : s.hasRoom m = true) (role : s.hasRole m roleC = true) (len : (s.req m).len = 4)
  (arg : powerArgOk s ((s.req m).num 0 1) ((s.req m).num 1 1) ((s.req m).num 2 1) ((s.req m).num 3 1) false = true)
include ask room role len arg

/-- PWR_SET is answered with what its body replies. -/
theorem exec_pwrSet : ∃ g, Gable.hearing s m g ∧ ∀ {s2 : State} {st : Nat} {data : List (BitVec 8)},
    cmdPwrSet.body (s.setGable g) m (s.req m) = (s2, ⟨st, data⟩) → st < 0x100 →
      ∃ t, exec (.pwrSet m) s = .next t ∧ s.answered t m st data ∧ s2.changesOnly t [.gable, .evr] := by
  obtain ⟨g, hears, serve⟩ := Command.serving (c := cmdPwrSet) ask (by decide) rfl (by simpa [cmdPwrSet, needC] using role)
    (fun g => Bool.and_eq_true_iff.mpr ⟨by simp [lenIs, len], arg⟩) fun _ => room
  refine ⟨g, hears, fun {s2 st data} body small => ?_⟩
  obtain ⟨t, run, answer, frame⟩ := serve body small
  exact ⟨t, congrArg Host.Outcome.next run, answer, frame⟩

end

section
variable {s : State} {m : Nat} {r : Request}

theorem pwrSet_body_low {kind d i st : Nat} (hk : r.num 0 1 = kind) (hd : r.num 1 1 = d) (hi : i = if kind = 1 then 0 else r.num 2 1)
    (hst : r.num 3 1 = st) (low : st ≠ 0) (element : kind ≠ 0) : cmdPwrSet.body s m r = setLow s kind d i st (s.token m r) := by
  subst hk hd hi hst
  exact (if_neg low).trans (if_neg element)

theorem pwrSet_body_active {kind d i : Nat} (hk : r.num 0 1 = kind) (hd : r.num 1 1 = d) (hi : i = if kind = 1 then 0 else r.num 2 1)
    (hst : r.num 3 1 = 0) : cmdPwrSet.body s m r = setActive s kind d i (s.token m r) := by
  subst hk hd hi
  exact if_pos hst

theorem pwrSet_body_package (hk : r.num 0 1 = 0) (low : r.num 3 1 ≠ 0) : cmdPwrSet.body s m r = setPackage s (s.token m r) :=
  (if_neg low).trans (if_pos hk)

end

theorem pwrPermit_body_element {s : State} {m : Nat} {r : Request} {kind d i st : Nat} (hk : r.num 0 1 = kind) (element : kind = 1 ∨ kind = 2)
    (hd : r.num 1 1 = d) (hi : i = if kind = 1 then 0 else r.num 2 1) (hst : r.num 3 1 = st) (allows : s.flowForbids kind d i st = false) :
    cmdPwrPermit.body s m r = (s.modElem kind d i fun e => { e with deepest := powerOf st, idleUs := r.num 4 4, idleAt := none }, ⟨stOk, []⟩) := by
  subst hk hd hi hst
  exact (if_neg (by omega)).trans ((if_neg (ne_true_of_eq_false allows)).trans (if_neg (by omega)))

theorem pwrPermit_body_router {s : State} {m : Nat} {r : Request} {d i st : Nat} (hk : r.num 0 1 = 3) (hd : r.num 1 1 = d) (hi : r.num 2 1 = i)
    (hst : r.num 3 1 = st) (allows : s.flowForbids 3 d i st = false) : cmdPwrPermit.body s m r =
      (s.modRouter d i fun x => { x with idleDly := if st = 1 then BitVec.ofNat 10 (r.num 4 4) else 0, quietAt := s.now }, ⟨stOk, []⟩) := by
  subst hd hi hst
  unfold cmdPwrPermit
  dsimp only
  rw [hk, if_neg (show ¬ (3 : Nat) = 0 by decide), if_neg (show ¬ (3 : Nat) = 1 by decide), if_neg (by simp [allows]), if_pos rfl]
  rfl

section
variable {s : State} {m : Nat} (ask : s.asks m 0x0604 = true) (role : s.hasRole m roleC = true) (len : (s.req m).len = 8)
  (arg : powerArgOk s ((s.req m).num 0 1) ((s.req m).num 1 1) ((s.req m).num 2 1) ((s.req m).num 3 1) true = true)
  (delay : (s.req m).num 0 1 ≠ 3 ∨ (s.req m).num 4 4 < 1024)
include ask role len arg delay

/-- PWR_PERMIT is answered with what its body replies. -/
theorem exec_pwrPermit : ∃ g, Gable.hearing s m g ∧ ∀ {s2 : State} {st : Nat} {data : List (BitVec 8)},
    cmdPwrPermit.body (s.setGable g) m (s.req m) = (s2, ⟨st, data⟩) → st < 0x100 →
      ∃ t, exec (.pwrPermit m) s = .next t ∧ s.answered t m st data ∧ s2.changesOnly t [.gable, .evr] := by
  obtain ⟨g, hears, serve⟩ := Command.serving (c := cmdPwrPermit) ask (by decide) rfl (by simpa [cmdPwrPermit, needC] using role)
    (fun g => Bool.and_eq_true_iff.mpr ⟨Bool.and_eq_true_iff.mpr ⟨by simp [lenIs, len], arg⟩, by simpa using delay⟩) (fun async => by cases async)
  refine ⟨g, hears, fun {s2 st data} body small => ?_⟩
  obtain ⟨t, run, answer, frame⟩ := serve body small
  exact ⟨t, congrArg Host.Outcome.next run, answer, frame⟩

end

theorem pwrStatus_body {s : State} {m : Nat} {r : Request} (element : 0 < r.num 0 1) : cmdPwrStatus.body s m r =
    (s, ⟨stOk, leBytes 1 (s.powerNow (r.num 0 1) (r.num 1 1) (if r.num 0 1 = 1 then 0 else r.num 2 1)) ++
      leBytes 1 (s.powerDeepest (r.num 0 1) (r.num 1 1) (if r.num 0 1 = 1 then 0 else r.num 2 1)) ++ [0, 0] ++
      leBytes 4 (s.elem (r.num 0 1) (r.num 1 1) (if r.num 0 1 = 1 then 0 else r.num 2 1)).wakes.toNat⟩) := by
  unfold cmdPwrStatus
  dsimp only
  rw [if_neg (show ¬ r.num 0 1 = 0 by omega)]
  rfl

theorem exec_pwrStatus {s : State} {m : Nat} (ask : s.asks m 0x0605 = true) (len : (s.req m).len = 4) (zero : (s.req m).zero 3 1 = true)
    (arg : statusArgOk s ((s.req m).num 0 1) ((s.req m).num 1 1) ((s.req m).num 2 1) = true) (element : 0 < (s.req m).num 0 1) :
    ∃ t, exec (.pwrStatus m) s = .next t ∧ t.clk = s.clk ∧ s.answered t m stOk
      (leBytes 1 (s.powerNow ((s.req m).num 0 1) ((s.req m).num 1 1) (if (s.req m).num 0 1 = 1 then 0 else (s.req m).num 2 1)) ++
      leBytes 1 (s.powerDeepest ((s.req m).num 0 1) ((s.req m).num 1 1) (if (s.req m).num 0 1 = 1 then 0 else (s.req m).num 2 1)) ++ [0, 0] ++
      leBytes 4 (s.elem ((s.req m).num 0 1) ((s.req m).num 1 1) (if (s.req m).num 0 1 = 1 then 0 else (s.req m).num 2 1)).wakes.toNat) := by
  obtain ⟨g, -, serve⟩ := Command.serving (c := cmdPwrStatus) ask (by decide) rfl rfl
    (fun g => by change (lenIs 4 _ && _ && statusArgOk s _ _ _) = true; simp [lenIs, len, zero, arg]) (fun async => by cases async)
  obtain ⟨t, run, answer, frame⟩ := serve (pwrStatus_body element) (by decide)
  exact ⟨t, congrArg Host.Outcome.next run, frame .clk (by decide), answer⟩

theorem exec_pwrWake {s : State} {m : Nat} (ask : s.asks m 0x0606 = true) (role : s.hasRole m roleC = true) (len : (s.req m).len = 12)
    (zero : (s.req m).zero 1 3 = true) (sources : (s.req m).num 0 1 < 64) (bits : (s.req m).num 4 8 < 2 ^ 48)
    (psec : (s.req m).num 4 8 % 2 ^ 40 < 1000000000000) :
    ∃ t, exec (.pwrWake m) s = .next t ∧ s.answered t m stOk [] ∧ t.clk = { s.clk with
      wakeEn := BitVec.ofNat 6 ((s.req m).num 0 1) ||| 0x20, alarm := BitVec.ofNat 48 ((s.req m).num 4 8),
      alarmP := if (s.req m).num 4 8 = 0 then none else some (expandShort ((s.req m).num 4 8 / 2 ^ 40) ((s.req m).num 4 8 % 2 ^ 40) (s.ps 8)) } := by
  have alarm : alarmOk ((s.req m).num 4 8) = true := by
    have top : (s.req m).num 4 8 / 2 ^ 48 = 0 := Nat.div_eq_of_lt bits
    simp only [alarmOk, top, decide_eq_true psec, beq_self_eq_true, Bool.and_self]
  obtain ⟨g, -, serve⟩ := Command.serving (c := cmdPwrWake) ask (by decide) rfl (by simpa [cmdPwrWake, needC] using role)
    (fun g => by simp only [cmdPwrWake, lenIs, len, zero, decide_eq_true sources, alarm]; rfl) (fun async => by cases async)
  obtain ⟨t, run, answer, frame⟩ := serve rfl (by decide)
  exact ⟨t, congrArg Host.Outcome.next run, answer, frame .clk (by decide)⟩

end Sys2Proof.Machine

open Sys2Proof Sys2Proof.Machine

/-- Settles O52: what each command's body replies, and what the answer leaves of the element, the router or the clocks block. -/
theorem powerCommands : Obligations.powerCommands := by
  unfold Obligations.powerCommands
  refine ⟨?die, ?bayDeep, ?bayIdle, ?bayRefused, ?router, ?forbidden, ?active, ?package, ?permit, ?permitRouter, ?status, ?wake⟩
  case die =>
    rintro s m d st ⟨ask, room, -, role, len, hk, hd, fitted, hst, low, allows, steady, awake, idle⟩
    obtain ⟨g, hears, serve⟩ := exec_pwrSet ask room role len (by rw [hk, hd, hst]; rcases low with rfl | rfl <;> simp [powerArgOk, fitted])
    have body := (pwrSet_body_low (s := s.setGable g) (m := m) hk hd rfl hst (by omega) (by decide)).trans
      (setLow_die (by rw [State.flowForbids_setGable]; exact allows) low steady awake idle)
    obtain ⟨t, run, answer, frame⟩ := serve body (by decide)
    have elem : t.elem 1 d 0 = _ := (State.elem_of_frame frame (by decide) 1 d 0).trans (State.elem_modElem ..)
    rw [State.elem_sleepDie, hears.token] at elem
    refine ⟨t, run, answer, ?_⟩
    rw [elem]
    refine ⟨rfl, ?_, rfl, rfl, rfl⟩
    rcases low with rfl | rfl <;> rfl
  case bayDeep =>
    rintro s m d b ⟨ask, room, -, role, len, hk, hd, fitted, hi, bay, hst, allows, steady, -, active, awake, idle⟩
    obtain ⟨g, hears, serve⟩ := exec_pwrSet ask room role len (by rw [hk, hd, hi, hst]; simp [powerArgOk, fitted, bay])
    have body := (pwrSet_body_low (s := s.setGable g) (m := m) hk hd hi.symm hst (by decide) (by decide)).trans
      (setLow_bay_deep (by rw [State.flowForbids_setGable]; exact allows) steady rfl active awake idle)
    obtain ⟨t, run, answer, frame⟩ := serve body (by decide)
    obtain ⟨entered, slept⟩ := (s.setGable g).sleepElemBay_eq d b
    have elem : t.elem 2 d b = _ := (State.elem_of_frame frame (by decide) 2 d b).trans (State.elem_modElem ..)
    rw [entered, hears.token] at elem
    refine ⟨t, run, answer, ?_, ?_, ?_, ?_⟩
    · rw [elem]; rfl
    · rw [elem]; rfl
    · rw [State.bay_of_frame frame (by decide), State.bay_noteCmd, slept]
    · rw [elem]; rfl
  case bayIdle =>
    rintro s m d b ⟨ask, room, -, role, len, hk, hd, fitted, hi, bay, hst, allows, steady, active, awake, other, idle⟩
    obtain ⟨g, hears, serve⟩ := exec_pwrSet ask room role len (by rw [hk, hd, hi, hst]; simp [powerArgOk, fitted, bay])
    have body := (pwrSet_body_low (s := s.setGable g) (m := m) hk hd hi.symm hst (by decide) (by decide)).trans
      (setLow_bay_idle (by rw [State.flowForbids_setGable]; exact allows) steady rfl active awake idle other)
    obtain ⟨t, run, answer, frame⟩ := serve body (by decide)
    exact ⟨t, run, answer, (State.elem_of_frame frame (by decide) 2 d b).trans (State.elem_modElem ..)⟩
  case bayRefused =>
    rintro s m d b ⟨ask, room, -, role, len, hk, hd, fitted, hi, bay, hst, allows, steady, blocked⟩
    obtain ⟨g, hears, serve⟩ := exec_pwrSet ask room role len (by rw [hk, hd, hi, hst]; simp [powerArgOk, fitted, bay])
    have body := (pwrSet_body_low (s := s.setGable g) (m := m) hk hd hi.symm hst (by decide) (by decide)).trans
      (setLow_bay_refused (by rw [State.flowForbids_setGable]; exact allows) steady rfl blocked)
    obtain ⟨t, run, answer, frame⟩ := serve body (by split <;> decide)
    exact ⟨t, run, answer, frame .clk (by decide), frame .dies (by decide)⟩
  case router =>
    rintro s m d r ⟨ask, room, -, role, len, hk, hd, hi, there, wanted⟩
    obtain ⟨g, hears, serve⟩ := exec_pwrSet ask room role len
      (by rw [hk, hd, hi]; rcases wanted with h | h <;> simp [powerArgOk, there, h])
    rcases wanted with hst | ⟨hst, allows, quiet⟩
    · obtain ⟨t, run, answer, frame⟩ := serve ((pwrSet_body_active (s := s.setGable g) (m := m) hk hd hi.symm hst).trans (setActive_router ..)) (by decide)
      have router : t.router d r = _ := (State.router_of_frame frame (by decide) d r).trans (State.router_modRouter ..)
      refine ⟨t, run, answer, ?_⟩
      rw [router, hst]
      exact ⟨rfl, rfl, rfl⟩
    · obtain ⟨t, run, answer, frame⟩ := serve ((pwrSet_body_low (s := s.setGable g) (m := m) hk hd hi.symm hst (by decide) (by decide)).trans
        (setLow_router (by rw [State.flowForbids_setGable]; exact allows) quiet)) (by decide)
      have router : t.router d r = _ := (State.router_of_frame frame (by decide) d r).trans (State.router_modRouter ..)
      refine ⟨t, run, answer, ?_⟩
      rw [router, hst]
      exact ⟨rfl, rfl, rfl⟩
  case forbidden =>
    rintro s m kind d i st ⟨ask, room, -, role, len, hk, low, high, hd, hi, hst, deep, arg, forbids⟩
    obtain ⟨g, hears, serve⟩ := exec_pwrSet ask room role len (by rw [hk, hd, hst]; exact arg)
    obtain ⟨t, run, answer, frame⟩ := serve ((pwrSet_body_low (s := s.setGable g) (m := m) hk hd hi hst (by omega) (by omega)).trans
      (setLow_of_forbidden (by rw [State.flowForbids_setGable]; exact forbids))) (by decide)
    exact ⟨t, run, answer, frame .clk (by decide), frame .routers (by decide)⟩
  case active =>
    rintro s m kind d i ⟨ask, room, -, role, len, hk, element, hd, fitted, hi, small, hst, steady⟩
    obtain ⟨g, hears, serve⟩ := exec_pwrSet ask room role len (by
      rw [hk, hd, hst]
      rcases element with rfl | rfl
      · simp [powerArgOk, fitted]
      · rw [if_neg (by decide)] at hi
        simp [powerArgOk, fitted, ← hi, small])
    have body := pwrSet_body_active (s := s.setGable g) (m := m) hk hd hi hst
    by_cases asleep : (s.elem kind d i).state = .nap ∨ (s.elem kind d i).state = .deep
    · obtain ⟨t, run, answer, frame⟩ := serve (body.trans (setActive_of_asleep element asleep)) (by decide)
      have elem : t.elem kind d i = _ := (State.elem_of_frame frame (by decide) kind d i).trans (State.elem_modElem ..)
      rw [State.wakeElem_of_asleep (s := s.setGable g) steady asleep, State.elem_modElem, hears.token] at elem
      refine ⟨t, run, fun _ => ⟨answer, ?_⟩, fun _ awake => ?_⟩
      · rw [elem]
        exact ⟨rfl, rfl⟩
      · rcases asleep with h | h <;> rcases awake with h' | h' <;> rw [h] at h' <;> cases h'
    · by_cases die : kind = 1
      · subst die
        rw [if_pos rfl] at hi
        subst hi
        have awake : (s.elem 1 d 0).state = .active ∨ (s.elem 1 d 0).state = .idle := by
          cases h : (s.elem 1 d 0).state <;> simp_all
        obtain ⟨t, run, answer, frame⟩ := serve (body.trans (setActive_die_of_awake (s := s.setGable g) steady awake)) (by decide)
        refine ⟨t, run, fun h => absurd h asleep, fun _ _ => ⟨answer, ?_⟩⟩
        rw [State.elem_of_frame frame (by decide)]
        exact State.state_wakeElem_of_awake (s := s.setGable g) steady awake
      · exact ⟨_, rfl, fun h => absurd h asleep, fun h => absurd h die⟩
  case package =>
    rintro s m ⟨ask, room, -, role, len, hk, hst, active, clock, dma, dies, flows⟩
    obtain ⟨g, hears, serve⟩ := exec_pwrSet ask room role len (by rw [hk, hst]; rfl)
    have body := (pwrSet_body_package (s := s.setGable g) (m := m) hk (by rw [hst]; decide)).trans
      (setPackage_of_active active clock dma dies flows)
    obtain ⟨t, run, answer, frame⟩ := serve body (by decide)
    have bare : t.clkBare = ((s.setGable g).pkgEntering _).clkBare :=
      (congrArg (fun k : Clocks => { k with nodes := [], elems := [] }) (frame .clk (by decide) : t.clk = _)).trans
        ((s.setGable g).clkBare_pkgEntering _ _)
    rw [hears.token] at bare
    exact ⟨t, run, answer, (congrArg Clocks.pkg bare :), (congrArg Clocks.deepMbx bare :), (congrArg Clocks.deepAt bare :),
      (congrArg Clocks.pendingEnable bare :)⟩
  case permit =>
    rintro s m kind d i st ⟨ask, -, role, len, hk, element, hd, hi, hst, arg, allows⟩
    obtain ⟨g, -, serve⟩ := exec_pwrPermit ask role len (by rw [hk, hd, hst]; exact arg) (by omega)
    obtain ⟨t, run, answer, frame⟩ := serve (pwrPermit_body_element (s := s.setGable g) hk element hd hi hst
      (by rw [State.flowForbids_setGable]; exact allows)) (by decide)
    exact ⟨t, run, answer, (State.elem_of_frame frame (by decide) kind d i).trans (State.elem_modElem ..)⟩
  case permitRouter =>
    rintro s m d r st ⟨ask, -, role, len, hk, hd, hi, hst, there, state, delay, allows⟩
    obtain ⟨g, -, serve⟩ := exec_pwrPermit ask role len (by rw [hk, hd, hi, hst]; simp [powerArgOk, there, state]) (.inr delay)
    obtain ⟨t, run, answer, frame⟩ := serve (pwrPermit_body_router (s := s.setGable g) hk hd hi hst
      (by rw [State.flowForbids_setGable]; exact allows)) (by decide)
    exact ⟨t, run, answer, (State.router_of_frame frame (by decide) d r).trans (State.router_modRouter ..)⟩
  case status =>
    rintro s m kind d i ⟨ask, -, len, zero, rfl, rfl, rfl, element, arg⟩
    exact exec_pwrStatus ask len zero arg element
  case wake =>
    rintro s m ⟨ask, -, role, len, zero, sources, bits, psec⟩
    exact exec_pwrWake ask role len zero sources bits psec
end

section
/-! PROOFS. How bays and dies go to sleep and wake, and the statement about the power transitions (18 R469 to R476; 13 R365; 11 R302). -/

open Sys2Proof
namespace Sys2Proof.Machine

/-- What every update keeps, a list of updates keeps. -/
theorem foldl_inv {S A : Type} {f : S → A → S} {P : S → Prop} (h : ∀ s a, P s → P (f s a)) (l : List A) {s : S} (start : P s) : P (l.foldl f s) := by
  induction l generalizing s with
  | nil => exact start
  | cons a l ih => exact ih (h s a start)

theorem elemKey_bay_ne_die {d e b : Nat} (small : d < 256) : elemKey 1 d 0 ≠ elemKey 2 e b := by unfold elemKey; omega

/-! ### The idle condition of elements (18 R470) -/

section
variable {s : State} {kind d i : Nat}

theorem State.flowHolds_modElem (s : State) (kind d i : Nat) (f : Elem → Elem) (k e j : Nat) : (s.modElem kind d i f).flowHolds k e j = s.flowHolds k e j :=
  congrFun (congrFun (congrFun (s.flowHolds_beside s.free s.gable (s.modElem kind d i f).clk s.evr) k) e) j

/-- The state in which an element's level of IDLE_OK is known. -/
def State.idleKnown (s : State) (kind d i : Nat) (ok : Bool) : State := s.modElem kind d i fun e => { e with idleOk := ok }

theorem State.elem_idleKnown (s : State) (kind d i : Nat) (ok : Bool) : (s.idleKnown kind d i ok).elem kind d i = { s.elem kind d i with idleOk := ok } :=
  State.elem_modElem ..

theorem State.dieAwake_of_elem {s t : State} {d : Nat} (h : (t.elem 1 d 0).state = (s.elem 1 d 0).state ∧ (t.elem 1 d 0).phase = (s.elem 1 d 0).phase) :
    t.dieAwake d = s.dieAwake d := by
  unfold State.dieAwake
  dsimp only
  rw [h.1, h.2]

theorem State.bayIdle_idleKnown (s : State) {d : Nat} (b : Nat) (ok : Bool) (small : d < 256) : (s.idleKnown 2 d b ok).bayIdle d b = s.bayIdle d b := by
  have die : (s.idleKnown 2 d b ok).elem 1 d 0 = s.elem 1 d 0 := State.elem_modElem_other s _ (elemKey_bay_ne_die small)
  have awake : (s.idleKnown 2 d b ok).dieAwake d = s.dieAwake d := State.dieAwake_of_elem (by rw [die]; exact ⟨rfl, rfl⟩)
  unfold State.bayIdle
  dsimp only
  rw [awake]
  rfl

theorem State.dieIdle_idleKnown (s : State) {d : Nat} (ok deep : Bool) (small : d < 256) : (s.idleKnown 1 d 0 ok).dieIdle d deep = s.dieIdle d deep := by
  have die := s.elem_idleKnown 1 d 0 ok
  have awake : (s.idleKnown 1 d 0 ok).dieAwake d = s.dieAwake d := State.dieAwake_of_elem (by rw [die]; exact ⟨rfl, rfl⟩)
  have bays : ∀ b, (s.idleKnown 1 d 0 ok).elem 2 d b = s.elem 2 d b := fun b =>
    State.elem_modElem_other s _ (elemKey_bay_ne_die small).symm
  unfold State.dieIdle
  rw [awake]
  simp only [bays]
  rfl

section
variable (steady : (s.elem kind d i).phase = .steady) (nap : (s.elem kind d i).state ≠ .nap) (deep : (s.elem kind d i).state ≠ .deep)
include steady nap deep

/-- The idle condition of an element that is steady and not asleep, as its entry asks for it. -/
theorem idleEntry_of_busy {ok : Bool} (busy : (ok && if kind = 1 then (s.idleKnown kind d i ok).dieIdle d ((s.elem kind d i).deepest == .deep)
      else (s.idleKnown kind d i ok).bayIdle d i) = false) :
    idleEntry s kind d i ok = (s.idleKnown kind d i ok).modElem kind d i fun e => { e with idleAt := none } := by
  unfold idleEntry
  dsimp only
  rw [if_neg (by simp [steady, nap, deep])]
  exact if_pos (ne_true_of_eq_false busy)

theorem idleEntry_of_idle (idle : (if kind = 1 then (s.idleKnown kind d i true).dieIdle d ((s.elem kind d i).deepest == .deep)
      else (s.idleKnown kind d i true).bayIdle d i) = true) :
    idleEntry s kind d i true = match (s.elem kind d i).idleAt with
      | none => (s.idleKnown kind d i true).modElem kind d i fun e => { e with idleAt := some s.now }
      | some t =>
        if kind = 1 then
          if decide (t + psUs + (s.elem kind d i).idleUs * psUs ≤ s.now) = true ∧ ((s.elem kind d i).deepest = .nap ∨ (s.elem kind d i).deepest = .deep) ∧
              ¬ (s.idleKnown kind d i true).flowHolds 1 d 0 = true ∧ ¬ (s.idleKnown kind d i true).dieLoads d = true then
            (s.idleKnown kind d i true).sleepDie d ((s.elem kind d i).deepest == .deep)
          else s.idleKnown kind d i true
        else if decide (t + psUs + (s.elem kind d i).idleUs * psUs ≤ s.now) = true ∧ (s.elem kind d i).deepest = .deep ∧
            ¬ (s.idleKnown kind d i true).flowHolds 2 d i = true then (s.idleKnown kind d i true).sleepElemBay d i
        else if t + psUs ≤ s.now ∧ (s.elem kind d i).deepest ≠ .active then (s.idleKnown kind d i true).modElem kind d i fun e => { e with state := .idle }
        else s.idleKnown kind d i true := by
  unfold idleEntry
  dsimp only
  rw [if_neg (by simp [steady, nap, deep])]
  exact if_neg (by rw [Bool.true_and]; exact not_not_intro idle)

end
end

/-! ### Entries and exits of bays and dies (18 R471 to R473) -/

section
variable {s : State} {kind d i : Nat}

/-- The power of an element that reached DEEP is gone. -/
def State.darkened (s : State) (kind d i : Nat) : State :=
  if (s.elem kind d i).target = .deep then (if kind = 1 then (s.modDie d fun x => x.unpower s.free).drew 1 else s.unpowerBay d i) else s

theorem State.darkened_frame (s : State) (kind d i : Nat) : Steps [.free, .dies] s (s.darkened kind d i) :=
  Steps.ite (fun _ => Steps.ite (fun _ => State.drew_steps (State.modDie_steps (Steps.refl _ s) (by decide)) (by decide))
    fun _ => State.unpowerBay_steps (Steps.refl _ s) (by decide)) fun _ => Steps.refl _ s

/-- An element at the end of its entry. -/
def Elem.entered (e : Elem) : Elem := { e with state := e.target, phase := .steady, cmds := [], pendingEnable := false }

theorem State.entryEnd_of_entering (entering : (s.elem kind d i).phase = .entering) : ∃ u : State,
    u.elem kind d i = (s.elem kind d i).entered ∧ s.entryEnd kind d i = if (s.elem kind d i).pendingEnable then u.wakeElem kind d i else u := by
  unfold State.entryEnd
  dsimp only
  rw [if_neg (by simp [entering])]
  refine ⟨_, ?_, rfl⟩
  have frame := (s.darkened_frame kind d i).1
  rw [State.elem_of_frame (State.completeAll_steps (Steps.refl [.gable, .evr] _) (by decide)).1 (by decide), State.elem_modElem,
    ← State.darkened, State.elem_of_frame frame (by decide)]
  rfl

theorem State.elem_entryEnd (entering : (s.elem kind d i).phase = .entering) (low : (s.elem kind d i).target = .nap ∨ (s.elem kind d i).target = .deep) :
    ((s.entryEnd kind d i).elem kind d i).state = (s.elem kind d i).target ∧ ((s.entryEnd kind d i).elem kind d i).cmds = [] ∧
    ((s.entryEnd kind d i).elem kind d i).pendingEnable = false ∧
    ((s.entryEnd kind d i).elem kind d i).phase = if (s.elem kind d i).pendingEnable = true then .waking else .steady := by
  obtain ⟨u, entered, ends⟩ := State.entryEnd_of_entering entering
  rw [ends]
  split
  · rw [State.wakeElem_of_asleep (s := u) (by rw [entered]; rfl) (by rw [entered]; exact low), State.elem_modElem, entered]
    exact ⟨rfl, rfl, rfl, rfl⟩
  · rw [entered]
    exact ⟨rfl, rfl, rfl, rfl⟩

/-- A packet rouses no element that is not in IDLE. -/
theorem State.elem_rouse (awake : (s.elem kind d i).state ≠ .idle) (node r p : Nat) : (s.rouse node r p).elem kind d i = s.elem kind d i := by
  unfold State.rouse
  split
  next rests =>
    by_cases own : elemKey kind d i = elemKey 2 node (bayOfPort r p)
    · refine absurd ?_ awake
      rw [State.elem, own]
      exact rests.2.2
    · exact State.elem_modElem_other s _ own
  · rfl

theorem State.elem_toElement (awake : (s.elem kind d i).state ≠ .idle) (node r p : Nat) (k : Pkt) :
    (s.toElement node r p k).elem kind d i = s.elem kind d i := by
  unfold State.toElement
  dsimp only
  split
  · exact State.elem_rouse awake node r p
  · exact State.elem_rouse awake node r p

/-- What a wake queue delivers, or disposes of, rouses no element that is not in IDLE. -/
theorem State.elem_delivered (awake : (s.elem kind d i).state ≠ .idle) (down : Bool) (node r p : Nat) (q : List Pkt) :
    (q.foldl (fun (s : State) k => if down = true then s.toDrained node r p k else s.toElement node r p k) s).elem kind d i = s.elem kind d i := by
  refine foldl_inv (P := fun u : State => u.elem kind d i = s.elem kind d i) (fun u k same => ?_) q rfl
  split
  · exact (State.elem_of_frame (State.toDrained_steps (Steps.refl [.free, .routers, .masters, .log, .evr] u) (by decide)).1 (by decide) kind d i).trans same
  · exact (State.elem_toElement (by rw [same]; exact awake) node r p k).trans same

theorem State.elem_deliverQueue (awake : (s.elem kind d i).state ≠ .idle) (node r p : Nat) :
    (s.deliverQueue node r p).elem kind d i = s.elem kind d i := by
  unfold State.deliverQueue
  dsimp only
  split
  · rfl
  · exact State.elem_delivered (s := s.modRouter node r _) awake _ node r p _

theorem State.elem_deliverDie (awake : (s.elem kind d i).state ≠ .idle) (e : Nat) : (s.deliverDie e).elem kind d i = s.elem kind d i := by
  unfold State.deliverDie
  refine foldl_inv (P := fun u : State => u.elem kind d i = s.elem kind d i) (fun u r same => ?_) _ rfl
  have first := (State.elem_deliverQueue (s := u) (by rw [same]; exact awake) e r 5).trans same
  exact (State.elem_deliverQueue (by rw [first]; exact awake) e r 6).trans first

end

/-! ### A die or a bay wakes (18 R472, R473) -/

/-- An element that has woken. -/
def Elem.woken (e : Elem) : Elem := { e with state := .active, phase := .steady, wakes := satInc e.wakes, pendingEnable := false, idleAt := none }

/-- What a die gets back after DEEP: INIT values, its time base, its static slices and its bays. -/
def State.revived (s : State) (d : Nat) : State :=
  let s := ((s.loadInitDie d).initIo d).modDie d fun x => { x with leggett := { x.leggett with frame := 0, passAt := s.now } }
  let s := s.modNode (d * 0x1000 + 0x400) fun n => { n with state := .running }
  let s := (s.modTime d fun t => { t with stopped := false }).modMon d fun m => { m with state := .uncal, run := 0, ignored := 0, slew := 0 }
  let s := (List.range 32).foldl (fun (s : State) g => s.resetGroup d (96 + g) s.cfg.bundle) s
  let s := (List.range 96).foldl (fun (s : State) b =>
    let e := s.elem 2 d b
    if (s.bay d b).state = .deep ∧ e.state ≠ .deep ∧ e.phase = .steady then s.wakeBay d b
    else s.groupRegs d b (s.regionImage d (some b))) s
  s.modLeggett d fun l => { l with first := [(0, 262144)] }

theorem State.wakeDie_eq (s : State) (d : Nat) : s.wakeDie d =
    let u := (s.unnapDie d).modElem 1 d 0 Elem.woken
    let v := if (s.elem 1 d 0).state == .deep then u.revived d else u
    (if (v.die d).io.pads = .latched then v.modIo d fun x => { x with pads := .enabled } else v).deliverDie d := rfl

theorem State.nodeless_modElem (s : State) (kind d i : Nat) (f : Elem → Elem) : (s.modElem kind d i f).nodeless =
    { s.nodeless with elems := tmod Elem.reset s.nodeless.elems (elemKey kind d i) f } := rfl

theorem State.nodeless_modNode (s : State) (c : Nat) (f : ClkNode → ClkNode) : (s.modNode c f).nodeless = s.nodeless := rfl

theorem State.nodeless_unnapDie (s : State) (d : Nat) : (s.unnapDie d).nodeless = s.nodeless :=
  foldl_keeps State.nodeless (fun (s : State) c => if (s.node c).freq = 0 then s else s.modNode c fun n => { n with state := .running })
    (fun u c => by split <;> rfl) (dieNodes d) s

theorem State.nodeless_revived (s : State) (d : Nat) : (s.revived d).nodeless = s.nodeless := by
  have image : Steps [.dies] s (((s.loadInitDie d).initIo d).modDie d fun x => { x with leggett := { x.leggett with frame := 0, passAt := s.now } }) :=
    State.modDie_steps (State.initIo_steps (State.loadInitDie_steps (Steps.refl _ s) (by decide)) (by decide)) (by decide)
  unfold State.revived
  dsimp only
  generalize ((s.loadInitDie d).initIo d).modDie d _ = u at image
  have clock : (u.modNode (d * 0x1000 + 0x400) fun n => { n with state := .running }).nodeless = s.nodeless := by
    rw [State.nodeless_modNode, State.nodeless_of_frame image.1 (by decide)]
  generalize u.modNode (d * 0x1000 + 0x400) _ = v at clock
  have groups : Steps [.free, .rsp, .dies, .routers, .evr, .times] v ((List.range 32).foldl (fun (s : State) g => s.resetGroup d (96 + g) s.cfg.bundle)
      ((v.modTime d fun t => { t with stopped := false }).modMon d fun m => { m with state := .uncal, run := 0, ignored := 0, slew := 0 })) :=
    Steps.foldl _ _ (fun _ _ h => State.resetGroup_steps h (by decide)) (State.modMon_steps (State.modTime_steps (Steps.refl _ v) (by decide)) (by decide))
  have bays : Steps [.free, .rsp, .dies, .routers, .evr, .times] v ((List.range 96).foldl (fun (s : State) b =>
      if (s.bay d b).state = .deep ∧ (s.elem 2 d b).state ≠ .deep ∧ (s.elem 2 d b).phase = .steady then s.wakeBay d b
      else s.groupRegs d b (s.regionImage d (some b))) ((List.range 32).foldl (fun (s : State) g => s.resetGroup d (96 + g) s.cfg.bundle)
      ((v.modTime d fun t => { t with stopped := false }).modMon d fun m => { m with state := .uncal, run := 0, ignored := 0, slew := 0 }))) :=
    Steps.foldl _ _ (fun _ _ h => Steps.ite (fun _ => State.wakeBay_steps h (by decide)) fun _ => State.groupRegs_steps h (by decide)) groups
  exact (State.nodeless_of_frame (State.modLeggett_steps bays (by decide)).1 (by decide)).trans clock

/-- The state of a waking die before what waits in its queues is delivered. -/
theorem State.wakeDie_undelivered (s : State) (d : Nat) : ∃ u : State, s.wakeDie d = u.deliverDie d ∧
    u.nodeless = (s.modElem 1 d 0 Elem.woken).nodeless := by
  have woken : ((s.unnapDie d).modElem 1 d 0 Elem.woken).nodeless = (s.modElem 1 d 0 Elem.woken).nodeless := by
    rw [State.nodeless_modElem, State.nodeless_unnapDie, State.nodeless_modElem]
  rw [State.wakeDie_eq]
  dsimp only
  refine ⟨_, rfl, ?_⟩
  have pads : ∀ v : State, (if (v.die d).io.pads = .latched then v.modIo d fun x => { x with pads := .enabled } else v).nodeless = v.nodeless := fun v => by
    split <;> rfl
  rw [pads]
  split
  · rw [State.nodeless_revived, woken]
  · exact woken

theorem State.elem_wakeDie (s : State) (d : Nat) : (s.wakeDie d).elem 1 d 0 = (s.elem 1 d 0).woken := by
  obtain ⟨u, delivered, same⟩ := s.wakeDie_undelivered d
  have woken : u.elem 1 d 0 = (s.elem 1 d 0).woken := (State.elem_of_nodeless same 1 d 0).trans (State.elem_modElem ..)
  rw [delivered, State.elem_deliverDie (by rw [woken]; exact (by decide : PowerState.active ≠ .idle)), woken]

section
variable {s : State} {d i : Nat}

theorem State.elem_exitEnd_die (waking : (s.elem 1 d 0).phase = .waking) (whole : (s.elem 1 d 0).target ≠ .nap) :
    (s.exitEnd 1 d 0).elem 1 d 0 = { (s.elem 1 d 0).woken with wakeCmds := [], target := .active } := by
  unfold State.exitEnd
  dsimp only
  rw [if_neg (by simp [waking]), if_pos rfl, if_neg whole, State.elem_of_frame (State.completeAll_steps (Steps.refl [.gable, .evr] _) (by decide)).1
    (by decide), State.elem_modElem, State.elem_wakeDie]

theorem State.elem_exitEnd_bay (awake : s.dieAwake d = true) (waking : (s.elem 2 d i).phase = .waking) :
    (s.exitEnd 2 d i).elem 2 d i = { (s.elem 2 d i).woken with wakeCmds := [] } := by
  unfold State.exitEnd
  dsimp only
  rw [if_neg (by simp [waking]), if_neg (by decide), if_neg (by simp [awake]),
    State.elem_of_frame (State.completeAll_steps (Steps.refl [.gable, .evr] _) (by decide)).1 (by decide)]
  generalize hu : s.modElem 2 d i _ = u
  have woken : u.elem 2 d i = { (s.elem 2 d i).woken with wakeCmds := [] } := by rw [← hu, State.elem_modElem]; rfl
  have same : (u.wakeBay d i).elem 2 d i = u.elem 2 d i :=
    State.elem_of_frame (State.wakeBay_steps (Steps.refl [.free, .rsp, .dies, .routers, .evr] u) (by decide)).1 (by decide) 2 d i
  rw [State.elem_deliverQueue (by rw [same, woken]; exact (by decide : PowerState.active ≠ .idle)), same, woken]

end

/-! ### The package's entry (18 R474) -/

theorem State.clkBare_of_frame {s t : State} {ps : List Component} (h : s.changesOnly t ps) (out : Component.clk ∉ ps) : t.clkBare = s.clkBare := by
  have clk : t.clk = s.clk := h .clk out
  rw [State.clkBare, clk, State.clkBare]

theorem State.clkBare_of_clocksApart {s t : State} (h : t.clocksApart = s.clocksApart) : t.clkBare = s.clkBare :=
  congrArg (fun k : Clocks => { k with nodes := [] }) h

theorem State.clkBare_of_nodeless {s t : State} (h : t.nodeless = s.nodeless) : t.clkBare = s.clkBare :=
  congrArg (fun k : Clocks => { k with elems := [] }) h

/-- What a shut-down leaves of the clocks block. -/
theorem State.clocksApart_shutDown (s : State) (k : Nat) (reason : BitVec 8) (byPartner : Bool) : (s.shutDown k reason byPartner).clocksApart = s.clocksApart := by
  unfold State.shutDown
  dsimp only
  rw [State.clocksApart_recheckFlows]
  rfl

theorem State.clocksApart_entryEnd (s : State) (kind d i : Nat) : (s.entryEnd kind d i).clocksApart = s.clocksApart := by
  have ends : ∀ u : State, (if (s.elem kind d i).pendingEnable then u.wakeElem kind d i else u).clocksApart = u.clocksApart := fun u => by
    split
    · exact u.clocksApart_wakeElem kind d i
    · rfl
  unfold State.entryEnd
  dsimp only
  split
  · rfl
  · rw [ends, State.clocksApart_of_frame (State.completeAll_steps (Steps.refl [.gable, .evr] _) (by decide)).1 (by decide), State.clocksApart_modElem,
      ← State.darkened, State.clocksApart_of_frame (s.darkened_frame kind d i).1 (by decide)]

/-- How the package asks a link or port to shut down: one that does so takes the package's reason. -/
def State.deepDown (s : State) (k : Nat) : State :=
  if (s.laneset k).shutting then s.modLaneset k fun x => { x with downReason := 1 } else s.shutDown k 1 false

theorem State.clocksApart_deepDown (s : State) (k : Nat) : (s.deepDown k).clocksApart = s.clocksApart := by
  unfold State.deepDown
  split
  · rfl
  · exact s.clocksApart_shutDown k 1 false

/-- State, shut-down and REASON of a lane set. -/
def State.laneRest (s : State) (k : Nat) : LaneState × Bool × BitVec 8 := ((s.laneset k).state, (s.laneset k).shutting, (s.laneset k).downReason)

theorem State.laneRest_deepDown (s : State) (j k : Nat) : (s.deepDown j).laneRest k = if k = j then ((s.laneset k).state, true, 1) else s.laneRest k := by
  unfold State.deepDown State.laneRest
  by_cases own : k = j
  · subst own
    rw [if_pos rfl]
    split
    next shutting => rw [State.laneset_modLaneset, shutting]
    next =>
      obtain ⟨state, shutting, -, reason⟩ := s.laneset_shutDown k 1 false
      rw [state, shutting, reason]
  · rw [if_neg own]
    split
    · rw [State.laneset_modLaneset_other _ _ own]
    · unfold State.shutDown
      dsimp only
      obtain ⟨state, shutting, -, reason, -⟩ := LaneSet.eq_of_apartWake (congrFun (State.apartWake_recheckFlows s _) k)
      rw [state, shutting, reason, State.laneset_of_lanesets_eq (State.modLink_lanesets ..), State.laneset_modLaneset_other _ _ own]

theorem State.laneRest_foldl_deepDown (s : State) (l : List Nat) (k : Nat) :
    (l.foldl (fun (s : State) j => s.deepDown j) s).laneRest k = if k ∈ l then ((s.laneset k).state, true, 1) else s.laneRest k := by
  induction l generalizing s with
  | nil => rfl
  | cons j l ih =>
    have state : ((s.deepDown j).laneset k).state = (s.laneset k).state := by
      have rest := congrArg Prod.fst (s.laneRest_deepDown j k)
      split at rest <;> exact rest
    rw [List.foldl_cons, ih, state, State.laneRest_deepDown]
    by_cases own : k = j
    · simp [own]
    · simp [own]

/-- The dies have ended their entries and the channels sleep: the state in which the links are asked. -/
def State.deepAsked (s : State) : State :=
  let s := s.dieList.foldl (fun (s : State) d => s.entryEnd 1 d 0) s
  (List.range 8).foldl (fun (s : State) n =>
    if (s.chan n).state = .up then s.modChan n fun x => { x with sref := true, pd := false, wakeAt := none } else s) s

/-- The links and ports the package shuts down. -/
def State.deepLinkList (s : State) : List Nat := s.allLanesets.filter fun k => laneKind k != 2 && (s.laneset k).state == .active

/-- The links that come up again at the wake (18 R476). -/
def State.deepRelink (s : State) : List Nat := s.deepLinkList.filter fun k => !(s.link k).encrypted && !(s.laneset k).shutting

theorem State.deepLinksDown_eq (s : State) : s.deepLinksDown = s.deepAsked.deepLinkList.foldl (fun (s : State) k => s.deepDown k)
    (s.deepAsked.modClk fun k => { k with deepLinks := true, relink := s.deepAsked.deepRelink }) := rfl

theorem State.deepAsked_frame (s : State) : Steps [.free, .dies, .gable, .clk, .evr, .dram] s s.deepAsked :=
  Steps.foldl _ _ (fun _ _ h => Steps.ite (fun _ => State.modChan_steps h (by decide)) fun _ => h)
    (Steps.foldl _ _ (fun _ _ h => State.entryEnd_steps h (by decide)) (Steps.refl _ s))

theorem State.clocksApart_deepAsked (s : State) : s.deepAsked.clocksApart = s.clocksApart := by
  unfold State.deepAsked
  dsimp only
  refine (foldl_keeps State.clocksApart (fun (s : State) n =>
    if (s.chan n).state = .up then s.modChan n fun x => { x with sref := true, pd := false, wakeAt := none } else s) (fun u n => ?_) _ _).trans
    (foldl_keeps State.clocksApart (fun (s : State) d => s.entryEnd 1 d 0) (fun u d => u.clocksApart_entryEnd 1 d 0) _ s)
  split <;> rfl

section
variable {s t : State} {ps : List Component} (h : s.changesOnly t ps) (fuses : Component.fuses ∉ ps)
include h fuses

theorem State.facing_of_frame : t.facing = s.facing := funext (State.facing_of_fuses_eq (h .fuses fuses))

theorem State.allLanesets_of_frame (guests : Component.guests ∉ ps) : t.allLanesets = s.allLanesets := by
  have wired : t.guests = s.guests := h .guests guests
  have key : t.hasKey = s.hasKey := by
    funext k
    unfold State.hasKey State.hasLaneset State.siteWired State.guest
    rw [State.facing_of_frame h fuses, State.fdies_of_frame h fuses, wired]
  unfold State.allLanesets
  rw [key]

end

theorem State.deepLinkList_deepAsked (s : State) : s.deepAsked.deepLinkList = s.deepLinkList := by
  have frame := s.deepAsked_frame.1
  unfold State.deepLinkList
  rw [State.allLanesets_of_frame frame (by decide) (by decide)]
  simp only [State.laneset_of_frame frame (by decide)]

theorem State.laneset_modClk (s : State) (f : Clocks → Clocks) (k : Nat) : (s.modClk f).laneset k = s.laneset k := rfl

theorem State.clkBare_modClk_deepLinks (s : State) (l : List Nat) :
    (s.modClk fun k => { k with deepLinks := true, relink := l }).clkBare = { s.clkBare with deepLinks := true, relink := l } := rfl

/-- What the dies, channels and links that are asked leave of the clocks block. -/
theorem State.clkBare_deepLinksDown (s : State) : ∃ l, s.deepLinksDown.clkBare = { s.clkBare with deepLinks := true, relink := l } := by
  refine ⟨s.deepAsked.deepRelink, ?_⟩
  rw [State.deepLinksDown_eq, State.clkBare_of_clocksApart (foldl_keeps State.clocksApart (fun (s : State) k => s.deepDown k)
    (fun u k => u.clocksApart_deepDown k) _ _), State.clkBare_modClk_deepLinks, State.clkBare_of_clocksApart s.clocksApart_deepAsked]

theorem State.laneRest_deepLinksDown (s : State) (k : Nat) : s.deepLinksDown.laneRest k =
    if k ∈ s.deepLinkList then ((s.laneset k).state, true, 1) else s.laneRest k := by
  have lanes := State.laneset_of_frame s.deepAsked_frame.1 (by decide) k
  rw [State.deepLinksDown_eq, State.laneRest_foldl_deepDown, State.deepLinkList_deepAsked]
  unfold State.laneRest
  rw [State.laneset_modClk, lanes]

/-- What is left of the lane sets is OFF. -/
def State.lanesKilled (s : State) : State := s.allLanesets.foldl (fun (s : State) k => s.laneKill k) s

/-- The nodes of the H-die have stopped. -/
def State.hubStopped (s : State) : State := s.hubNodes.foldl (fun (s : State) c => s.stopNode c) (s.modTime 8 fun t => { t with stopped := true })

/-- The state of step 4: the lane sets are OFF, what ran has stopped, and REFOSC_EN is low. -/
def State.powerless (s : State) : State :=
  (s.lanesKilled.hubStopped.dropSched 8).spHold.periDeep.hbStop.modCfg fun c => { c with refosc := false }

/-- The state in which the package is in DEEP. -/
def State.deepened (s : State) (now time : Nat) : State :=
  s.modClk fun k => { k with pkg := .deep, deepAt := now, deepTime := time, deepLinks := false }

theorem State.deepened_shows (s : State) (now time : Nat) : (s.deepened now time).clk.deepAt = now ∧ (s.deepened now time).clk.pkg = .deep ∧
    (s.deepened now time).cfg = s.cfg ∧ (s.deepened now time).clk.pendingEnable = s.clk.pendingEnable ∧
    (s.deepened now time).clk.wakeCause = s.clk.wakeCause :=
  ⟨rfl, rfl, rfl, rfl, rfl⟩

theorem State.beginPackageWake_shows (s : State) (causes : BitVec 6) : (s.beginPackageWake causes).clk.deepAt = s.clk.deepAt ∧
    (s.beginPackageWake causes).clk.pkg = .waking ∧ (s.beginPackageWake causes).clk.wakeCause = causes ∧ (s.beginPackageWake causes).cfg.refosc = true :=
  ⟨rfl, rfl, rfl, rfl⟩

theorem State.packageDeep_eq (s : State) : s.packageDeep =
    let u := s.powerless.deepened s.lanesKilled.hubStopped.now (s.lanesKilled.time 8).ctr
    if u.clk.pendingEnable then u.beginPackageWake u.clk.wakeCause else u := rfl

theorem State.clkBare_stopNodes (s : State) (cs : List Nat) : (cs.foldl (fun (s : State) c => s.stopNode c) s).clkBare = s.clkBare :=
  State.clkBare_of_nodeless (foldl_keeps State.nodeless (fun (s : State) c => s.stopNode c) (fun _ _ => rfl) cs s)

theorem State.hubStopped_keeps (s : State) : s.hubStopped.clkBare = s.clkBare ∧ s.hubStopped.now = s.now := by
  have stops : Steps [.clk, .times] s s.hubStopped :=
    Steps.foldl _ _ (fun _ _ h => State.stopNode_steps h (by decide)) (State.modTime_steps (Steps.refl _ s) (by decide))
  exact ⟨State.clkBare_stopNodes (s.modTime 8 _) s.hubNodes, stops.1 .now (by decide)⟩

theorem State.powerless_keeps (s : State) : s.powerless.clkBare = s.clkBare ∧ s.lanesKilled.hubStopped.now = s.now ∧ s.powerless.cfg.refosc = false := by
  have kills : Steps [.routers, .masters, .flows, .lanesets, .links, .guests, .linkKeys, .tb, .gable, .log, .evr] s s.lanesKilled :=
    Steps.foldl _ _ (fun _ _ h => State.laneKill_steps h (by decide)) (Steps.refl _ s)
  obtain ⟨bare, now⟩ := s.lanesKilled.hubStopped_keeps
  unfold State.powerless
  generalize s.lanesKilled.hubStopped = v at bare now
  have rest : Steps [.dies, .hpins, .free, .svc, .gable, .cfg] v ((((v.dropSched 8).spHold.periDeep).hbStop).modCfg fun c => { c with refosc := false }) :=
    State.modCfg_steps (State.hbStop_steps (State.periDeep_steps (State.spHold_steps (State.dropSched_steps (Steps.refl _ v) (by decide)) (by decide))
      (by decide)) (by decide)) (by decide)
  refine ⟨?_, now.trans (kills.1 .now (by decide)), rfl⟩
  rw [State.clkBare_of_frame rest.1 (by decide), bare, State.clkBare_of_frame kills.1 (by decide)]

/-- What the package shows of its entry's end: DEEP, or waking where a wake was held. -/
theorem State.packageDeep_shows (s : State) : s.packageDeep.clk.deepAt = s.now ∧
    (s.clk.pendingEnable = false → s.packageDeep.clk.pkg = .deep ∧ s.packageDeep.cfg.refosc = false) ∧
    (s.clk.pendingEnable = true → s.packageDeep.clk.pkg = .waking ∧ s.packageDeep.clk.wakeCause = s.clk.wakeCause ∧ s.packageDeep.cfg.refosc = true) := by
  obtain ⟨bare, now, refosc⟩ := s.powerless_keeps
  have held : s.powerless.clk.pendingEnable = s.clk.pendingEnable := (congrArg Clocks.pendingEnable bare :)
  have cause : s.powerless.clk.wakeCause = s.clk.wakeCause := (congrArg Clocks.wakeCause bare :)
  rw [State.packageDeep_eq]
  dsimp only
  obtain ⟨deepAt, pkg, cfg, pending, causes⟩ := s.powerless.deepened_shows s.lanesKilled.hubStopped.now (s.lanesKilled.time 8).ctr
  generalize s.powerless.deepened _ _ = u at deepAt pkg cfg pending causes
  rw [pending, causes, held, cause]
  obtain ⟨wokenAt, waking, why, on⟩ := u.beginPackageWake_shows s.clk.wakeCause
  cases s.clk.pendingEnable with
  | true =>
    rw [if_pos rfl, wokenAt]
    exact ⟨deepAt.trans now, fun h => (by cases h), fun _ => ⟨waking, why, on⟩⟩
  | false =>
    rw [if_neg (by decide)]
    exact ⟨deepAt.trans now, fun _ => ⟨pkg, by rw [cfg]; exact refosc⟩, fun h => (by cases h)⟩

/-! ### The end of the package's entry -/

section
variable {s : State} (entering : s.clk.pkg = .entering)
  (still : ∀ n ∈ List.range 8, (s.chan n).state ≠ .training ∧ (s.chan n).state ≠ .shutting ∧ (s.chan n).state ≠ .exiting)
include entering still

/-- The dies, channels and links are asked once no channel is in transition. -/
theorem exec_powerEntryEnd_package (d i : Nat) : exec (.powerEntryEnd 0 d i) s = .next (
    let u := if s.clk.deepLinks = true then s else s.deepLinksDown
    if u.clk.pkg = .entering ∧ u.clk.deepLinks = true ∧ (u.allLanesets.all fun k => !(u.laneset k).shutting) = true then u.packageDeep else u) := by
  have rests : ((List.range 8).all fun n => (s.chan n).state != .training && (s.chan n).state != .shutting && (s.chan n).state != .exiting) = true := by
    rw [List.all_eq_true]
    intro n mem
    obtain ⟨training, shutting, exiting⟩ := still n mem
    simp [training, shutting, exiting]
  refine congrArg Host.Outcome.next ((if_pos rfl).trans ?_)
  dsimp only
  rw [rests]
  have first : (if s.clk.pkg = .entering ∧ True ∧ ¬ s.clk.deepLinks = true then s.deepLinksDown else s) =
      if s.clk.deepLinks = true then s else s.deepLinksDown := by
    by_cases asked : s.clk.deepLinks = true
    · rw [if_pos asked, if_neg fun h => h.2.2 asked]
    · rw [if_neg asked, if_pos ⟨entering, trivial, asked⟩]
  rw [← first]
  simp only [eq_self]

end

/-! ### The package is rebuilt (18 R476) -/

/-- The clocks block apart from nodes and elements, and the master time. -/
def State.masterView (s : State) : Clocks × DieTime := (s.clkBare, s.time 8)

theorem State.masterView_of_frame {s t : State} {ps : List Component} (h : s.changesOnly t ps) (clk : Component.clk ∉ ps) (times : Component.times ∉ ps) :
    t.masterView = s.masterView := Prod.ext (State.clkBare_of_frame h clk) (State.time_of_frame h times 8)

theorem State.masterView_modElem (s : State) (kind d i : Nat) (f : Elem → Elem) : (s.modElem kind d i f).masterView = s.masterView := rfl
theorem State.masterView_modIo (s : State) (d : Nat) (f : IoBlock → IoBlock) : (s.modIo d f).masterView = s.masterView := rfl
theorem State.masterView_modNode (s : State) (c : Nat) (f : ClkNode → ClkNode) : (s.modNode c f).masterView = s.masterView := rfl

theorem State.masterView_modTime_other (s : State) {d : Nat} (f : DieTime → DieTime) (other : d ≠ 8) : (s.modTime d f).masterView = s.masterView :=
  Prod.ext rfl (State.time_modTime_other s f (Ne.symm other))

theorem State.masterView_chanAwake (s : State) (n : Nat) : (s.chanAwake n).masterView = s.masterView := by
  unfold State.chanAwake
  dsimp only
  split
  · exact State.masterView_modElem ..
  · rfl

theorem State.masterView_rouse (s : State) (node r p : Nat) : (s.rouse node r p).masterView = s.masterView := by
  unfold State.rouse
  split
  · exact State.masterView_modElem ..
  · rfl

theorem State.masterView_delivered (down : Bool) (node r p : Nat) (q : List Pkt) (s : State) :
    (q.foldl (fun (s : State) k => if down = true then s.toDrained node r p k else s.toElement node r p k) s).masterView = s.masterView := by
  refine foldl_keeps State.masterView _ (fun u k => ?_) q s
  split
  · exact State.masterView_of_frame (State.toDrained_steps (Steps.refl [.free, .routers, .masters, .log, .evr] u) (by decide)).1 (by decide) (by decide)
  · unfold State.toElement
    dsimp only
    split
    · exact u.masterView_rouse node r p
    · exact u.masterView_rouse node r p

theorem State.masterView_deliverQueue (s : State) (node r p : Nat) : (s.deliverQueue node r p).masterView = s.masterView := by
  unfold State.deliverQueue
  dsimp only
  split
  · rfl
  · exact State.masterView_delivered _ node r p _ (s.modRouter node r _)

theorem State.masterView_deliverDie (s : State) (d : Nat) : (s.deliverDie d).masterView = s.masterView :=
  foldl_keeps State.masterView (fun (s : State) r => (s.deliverQueue d r 5).deliverQueue d r 6)
    (fun u r => (State.masterView_deliverQueue ..).trans (u.masterView_deliverQueue d r 5)) _ s

theorem State.time_revived (s : State) {d : Nat} (other : d ≠ 8) : (s.revived d).time 8 = s.time 8 := by
  have image : Steps [.dies] s (((s.loadInitDie d).initIo d).modDie d fun x => { x with leggett := { x.leggett with frame := 0, passAt := s.now } }) :=
    State.modDie_steps (State.initIo_steps (State.loadInitDie_steps (Steps.refl _ s) (by decide)) (by decide)) (by decide)
  unfold State.revived
  dsimp only
  generalize ((s.loadInitDie d).initIo d).modDie d _ = u at image
  have clock : Steps [.dies, .clk] s (u.modNode (d * 0x1000 + 0x400) fun n => { n with state := .running }) :=
    State.modNode_steps (Steps.via (Steps.refl _ s) image (by decide)) (by decide)
  generalize u.modNode (d * 0x1000 + 0x400) _ = v at clock
  have base : (((v.modTime d fun t => { t with stopped := false }).modMon d fun m => { m with state := .uncal, run := 0, ignored := 0, slew := 0 }).time 8) =
      v.time 8 := by
    rw [State.modMon, State.time_modTime_other _ _ (Ne.symm other), State.time_modTime_other _ _ (Ne.symm other)]
  generalize (v.modTime d _).modMon d _ = w at base
  have groups : Steps [.free, .rsp, .dies, .routers, .evr] w ((List.range 32).foldl (fun (s : State) g => s.resetGroup d (96 + g) s.cfg.bundle) w) :=
    Steps.foldl _ _ (fun _ _ h => State.resetGroup_steps h (by decide)) (Steps.refl _ w)
  have bays : Steps [.free, .rsp, .dies, .routers, .evr] w ((List.range 96).foldl (fun (s : State) b =>
      if (s.bay d b).state = .deep ∧ (s.elem 2 d b).state ≠ .deep ∧ (s.elem 2 d b).phase = .steady then s.wakeBay d b
      else s.groupRegs d b (s.regionImage d (some b))) ((List.range 32).foldl (fun (s : State) g => s.resetGroup d (96 + g) s.cfg.bundle) w)) :=
    Steps.foldl _ _ (fun _ _ h => Steps.ite (fun _ => State.wakeBay_steps h (by decide)) fun _ => State.groupRegs_steps h (by decide)) groups
  rw [State.time_of_frame (State.modLeggett_steps bays (by decide)).1 (by decide), base, State.time_of_frame clock.1 (by decide)]

theorem State.masterView_wakeDie (s : State) {d : Nat} (other : d ≠ 8) : (s.wakeDie d).masterView = s.masterView := by
  have woken : ((s.unnapDie d).modElem 1 d 0 Elem.woken).masterView = s.masterView :=
    (State.masterView_modElem ..).trans (foldl_keeps State.masterView (fun (s : State) c =>
      if (s.node c).freq = 0 then s else s.modNode c fun n => { n with state := .running }) (fun u c => by
        split
        · rfl
        · exact u.masterView_modNode c _) _ s)
  have pads : ∀ v : State, (if (v.die d).io.pads = .latched then v.modIo d fun x => { x with pads := .enabled } else v).masterView = v.masterView := fun v => by
    split
    · exact v.masterView_modIo d _
    · rfl
  have revives : ∀ u : State, (u.revived d).masterView = u.masterView := fun u => by
    rw [State.masterView, State.clkBare_of_nodeless (u.nodeless_revived d), u.time_revived other, State.masterView]
  rw [State.wakeDie_eq]
  dsimp only
  rw [State.masterView_deliverDie, pads]
  split
  · rw [revives, woken]
  · exact woken

/-- The core and time-base PLLs run again, PREF from REFCLK. -/
def State.hubUp (s : State) : State :=
  let s := s.hubNodes.foldl (fun (s : State) c => s.modNode c fun n => { n with state := .running }) s
  let p := s.node prefCode
  if p.source = 0 then s else s.modNode prefCode fun n => { n with source := 0, newSource := some n.source }

/-- The H-die counts the time that was carried. -/
def State.ticking (s : State) (ctr : Nat) : State :=
  (s.modTime 8 fun t => { t with stopped := false, ctr := ctr }).modTb fun b =>
    { b with aoclk := b.src != 0, relock := b.src == 1, cmpAt := none, mstate := if b.src = 0 then .free else .holdover }

/-- The package is ACTIVE. -/
def State.pkgActive (s : State) : State :=
  (s.modClk fun k => { k with pkg := .active, pendingEnable := false, deepMbx := none, relink := [] }).modElem 0 0 0 fun e =>
    { e with wakes := satInc e.wakes, wakeCmds := [] }

/-- Channels, links, service pins, dies and DMA channels go on. -/
def State.rebuilt (s : State) (again : List Nat) : State :=
  let s := (List.range 8).foldl (fun (s : State) n => if (s.chan n).sref then s.chanAwake n else s) s
  let s := again.foldl (fun (s : State) k => s.bringUp k) s.spRelease.hbStart
  let s := s.dieList.foldl (fun (s : State) d => if (s.elem 1 d 0).state = .deep then s.wakeDie d else s) s
  (List.range 32).foldl (fun (s : State) c =>
    if (s.dmaCh c).goInDeep then (s.modDma c fun x => { x with goInDeep := false, pendingEnable := false }).dmaGoIdle c else s) s

theorem State.packageUp_eq (s : State) : s.packageUp =
    let u := s.hubUp.ticking s.hubUp.carriedCtr
    ((u.pkgActive.rebuilt u.clk.relink).completeOpt u.clk.deepMbx stOk []).completeAll (u.elem 0 0 0).wakeCmds stOk [] := rfl

theorem State.masterView_hubUp (s : State) : s.hubUp.masterView = s.masterView := by
  have runs := foldl_keeps State.masterView (fun (s : State) c => s.modNode c fun n => { n with state := .running })
    (fun u c => u.masterView_modNode c _) s.hubNodes s
  unfold State.hubUp
  dsimp only
  split
  · exact runs
  · exact (State.masterView_modNode ..).trans runs

theorem State.hubUp_now (s : State) : s.hubUp.now = s.now := by
  have runs : Steps [.clk] s (s.hubNodes.foldl (fun (s : State) c => s.modNode c fun n => { n with state := .running }) s) :=
    Steps.foldl _ _ (fun _ _ h => State.modNode_steps h (by decide)) (Steps.refl _ s)
  unfold State.hubUp
  dsimp only
  split
  · exact runs.1 .now (by decide)
  · exact (State.modNode_steps runs (by decide)).1 .now (by decide)

/-- The time carried is read from the clocks block and the instant alone. -/
theorem State.carriedCtr_of_clkBare {s t : State} (bare : t.clkBare = s.clkBare) (now : t.now = s.now) : t.carriedCtr = s.carriedCtr := by
  have fail : t.clk.aoclkFail = s.clk.aoclkFail := (congrArg Clocks.aoclkFail bare :)
  have time : t.clk.deepTime = s.clk.deepTime := (congrArg Clocks.deepTime bare :)
  have at' : t.clk.deepAt = s.clk.deepAt := (congrArg Clocks.deepAt bare :)
  unfold State.carriedCtr State.deepPeriods
  rw [fail, time, at', now]

theorem State.masterView_rebuilt (s : State) (again : List Nat) : (s.rebuilt again).masterView = s.masterView := by
  unfold State.rebuilt
  dsimp only
  generalize hchans : (List.range 8).foldl _ s = u
  have chans : u.masterView = s.masterView := by
    rw [← hchans]
    refine foldl_keeps State.masterView (fun (s : State) n => if (s.chan n).sref then s.chanAwake n else s) (fun v n => ?_) _ s
    split
    · exact v.masterView_chanAwake n
    · rfl
  have links : Steps [.lanesets, .svc, .gable] u (again.foldl (fun (s : State) k => s.bringUp k) u.spRelease.hbStart) :=
    Steps.foldl _ _ (fun _ _ h => State.bringUp_steps h (by decide)) (State.hbStart_steps (State.spRelease_steps (Steps.refl _ u) (by decide)) (by decide))
  have linked := State.masterView_of_frame links.1 (by decide) (by decide)
  generalize again.foldl _ _ = v at linked
  have dies : (v.dieList.foldl (fun (s : State) d => if (s.elem 1 d 0).state = .deep then s.wakeDie d else s) v).masterView = v.masterView := by
    refine foldl_keeps_of_mem State.masterView _ (fun w d mem => ?_) v
    have small := List.mem_range.mp mem
    have few := v.fdies_le
    split
    · exact w.masterView_wakeDie (by omega)
    · rfl
  generalize v.dieList.foldl _ v = w at dies
  have dma : Steps [.dma] w ((List.range 32).foldl (fun (s : State) c =>
      if (s.dmaCh c).goInDeep then (s.modDma c fun x => { x with goInDeep := false, pendingEnable := false }).dmaGoIdle c else s) w) :=
    Steps.foldl _ _ (fun _ _ h => Steps.ite (fun _ => State.dmaGoIdle_steps (State.modDma_steps h (by decide)) (by decide)) fun _ => h) (Steps.refl _ w)
  rw [State.masterView_of_frame dma.1 (by decide) (by decide), dies, linked, chans]

theorem State.pkgActive_shows (s : State) (ctr : Nat) : (s.ticking ctr).pkgActive.clk.pkg = .active ∧
    ((s.ticking ctr).pkgActive.time 8).ctr = ctr ∧ ((s.ticking ctr).pkgActive.time 8).stopped = false ∧
    (s.ticking ctr).pkgActive.clk.deepMbx = none ∧ (s.ticking ctr).pkgActive.clk.pendingEnable = false := by
  have time : (s.ticking ctr).pkgActive.time 8 = (s.modTime 8 fun t => { t with stopped := false, ctr := ctr }).time 8 := rfl
  rw [time, State.time_modTime]
  exact ⟨rfl, rfl, rfl, rfl, rfl⟩

theorem State.packageUp_shows (s : State) : s.packageUp.clk.pkg = .active ∧ (s.packageUp.time 8).ctr = s.carriedCtr ∧
    (s.packageUp.time 8).stopped = false ∧ s.packageUp.clk.deepMbx = none ∧ s.packageUp.clk.pendingEnable = false := by
  have up := s.packageUp_eq
  dsimp only at up
  rw [State.carriedCtr_of_clkBare (congrArg Prod.fst s.masterView_hubUp : s.hubUp.clkBare = s.clkBare) s.hubUp_now] at up
  have counted := s.hubUp.pkgActive_shows s.carriedCtr
  generalize s.hubUp.ticking s.carriedCtr = u at up counted
  have view : s.packageUp.masterView = u.pkgActive.masterView := by
    rw [up, State.masterView_of_frame (State.completeAll_steps (State.completeOpt_steps (Steps.refl [.gable, .evr] _) (by decide)) (by decide)).1
      (by decide) (by decide), State.masterView_rebuilt]
  generalize s.packageUp = v at view
  have bare : v.clkBare = u.pkgActive.clkBare := congrArg Prod.fst view
  have time : v.time 8 = u.pkgActive.time 8 := congrArg Prod.snd view
  have pkg : v.clk.pkg = u.pkgActive.clk.pkg := (congrArg Clocks.pkg bare :)
  have mbx : v.clk.deepMbx = u.pkgActive.clk.deepMbx := (congrArg Clocks.deepMbx bare :)
  have pending : v.clk.pendingEnable = u.pkgActive.clk.pendingEnable := (congrArg Clocks.pendingEnable bare :)
  rw [pkg, time, mbx, pending]
  exact counted

theorem State.bayIdle_of_sending {s : State} {d b : Nat} (sends : (s.master (bayMid d b)).out ≠ []) : s.bayIdle d b = false := by
  simp [State.bayIdle, sends]

/-- What an idle bay's entry does: the timer starts, IDLE comes after 1 µs, DEEP after the idle time. -/
theorem elem_idleEntry_bay {s : State} {d b : Nat} (few : d < 256) (steady : (s.elem 2 d b).phase = .steady) (nap : (s.elem 2 d b).state ≠ .nap)
    (deep : (s.elem 2 d b).state ≠ .deep) (idle : s.bayIdle d b = true) :
    ((idleEntry s 2 d b true).elem 2 d b).idleOk = true ∧
      ((s.elem 2 d b).idleAt = none → ((idleEntry s 2 d b true).elem 2 d b).idleAt = some s.now ∧
        ((idleEntry s 2 d b true).elem 2 d b).state = (s.elem 2 d b).state) ∧
      (∀ p, (s.elem 2 d b).idleAt = some p → p + 1000000 ≤ s.now → (s.elem 2 d b).deepest = .idle →
        ((idleEntry s 2 d b true).elem 2 d b).state = .idle ∧ ((idleEntry s 2 d b true).elem 2 d b).phase = .steady) ∧
      (∀ p, (s.elem 2 d b).idleAt = some p → p + 1000000 + (s.elem 2 d b).idleUs * 1000000 ≤ s.now → (s.elem 2 d b).deepest = .deep →
        s.flowHolds 2 d b = false → ((idleEntry s 2 d b true).elem 2 d b).phase = .entering ∧ ((idleEntry s 2 d b true).elem 2 d b).target = .deep ∧
          ((idleEntry s 2 d b true).bay d b).state = .deep) := by
  have known := s.elem_idleKnown 2 d b true
  have enters := idleEntry_of_idle (kind := 2) steady nap deep (by rw [if_neg (by decide), State.bayIdle_idleKnown _ _ _ few]; exact idle)
  obtain ⟨slept, asleep⟩ := (s.idleKnown 2 d b true).sleepElemBay_eq d b
  have started : ∀ f, ((s.idleKnown 2 d b true).modElem 2 d b f).elem 2 d b = f { s.elem 2 d b with idleOk := true } := fun f => by
    rw [State.elem_modElem, known]
  rw [enters]
  simp only [if_neg (show ¬ (2 : Nat) = 1 by decide), show (s.idleKnown 2 d b true).flowHolds 2 d b = s.flowHolds 2 d b from s.flowHolds_modElem ..]
  refine ⟨?_, fun off => ?_, fun p on rest shallow => ?_, fun p on rest low free => ?_⟩
  · split
    · rw [started]
    · split
      · rw [slept, known]; rfl
      split
      · rw [started]
      · rw [known]
  · rw [off]
    dsimp only
    rw [started]
    exact ⟨rfl, rfl⟩
  · rw [on]
    dsimp only
    rw [if_neg (by simp [shallow]), if_pos ⟨rest, by simp [shallow]⟩, started]
    exact ⟨rfl, steady⟩
  · rw [on]
    dsimp only
    rw [if_pos ⟨decide_eq_true rest, low, ne_true_of_eq_false free⟩, slept, asleep]
    exact ⟨rfl, rfl, rfl⟩

/-- What an idle die's entry does once it has rested. -/
theorem elem_idleEntry_die {s : State} {d p : Nat} (few : d < 256) (steady : (s.elem 1 d 0).phase = .steady)
    (awake : (s.elem 1 d 0).state = .active ∨ (s.elem 1 d 0).state = .idle) (low : (s.elem 1 d 0).deepest = .nap ∨ (s.elem 1 d 0).deepest = .deep)
    (idle : s.dieIdle d ((s.elem 1 d 0).deepest == .deep) = true) (on : (s.elem 1 d 0).idleAt = some p)
    (rest : p + 1000000 + (s.elem 1 d 0).idleUs * 1000000 ≤ s.now) (free : s.flowHolds 1 d 0 = false) (loads : s.dieLoads d = false) :
    ((idleEntry s 1 d 0 true).elem 1 d 0).phase = .entering ∧ ((idleEntry s 1 d 0 true).elem 1 d 0).target = (s.elem 1 d 0).deepest ∧
      ((idleEntry s 1 d 0 true).elem 1 d 0).atPs = s.now := by
  have enters := idleEntry_of_idle (s := s) (kind := 1) (d := d) (i := 0) steady (by rcases awake with h | h <;> simp [h])
    (by rcases awake with h | h <;> simp [h]) (by rw [if_pos rfl, State.dieIdle_idleKnown _ _ _ few]; exact idle)
  rw [on] at enters
  dsimp only at enters
  rw [if_pos rfl, if_pos ⟨decide_eq_true rest, low, by rw [State.idleKnown, State.flowHolds_modElem]; exact ne_true_of_eq_false free,
    ne_true_of_eq_false loads⟩] at enters
  rw [enters, State.elem_sleepDie]
  refine ⟨rfl, ?_, rfl⟩
  rcases low with h | h <;> rw [h] <;> rfl

/-- Once nothing shuts down, the package's entry ends. -/
theorem exec_powerEntryEnd_ends {s : State} {d i : Nat} (entering : s.clk.pkg = .entering)
    (still : ∀ n ∈ List.range 8, (s.chan n).state ≠ .training ∧ (s.chan n).state ≠ .shutting ∧ (s.chan n).state ≠ .exiting)
    (quiet : ∀ k ∈ s.allLanesets, (s.laneset k).shutting = false)
    (down : s.clk.deepLinks = true ∨ ∀ k ∈ s.allLanesets, laneKind k = 2 ∨ (s.laneset k).state ≠ .active) :
    ∃ u : State, exec (.powerEntryEnd 0 d i) s = .next u.packageDeep ∧ u.now = s.now ∧ u.clk.pendingEnable = s.clk.pendingEnable ∧
      u.clk.wakeCause = s.clk.wakeCause := by
  have ends := exec_powerEntryEnd_package entering still d i
  dsimp only at ends
  by_cases asked : s.clk.deepLinks = true
  · rw [if_pos asked, if_pos ⟨entering, asked, List.all_eq_true.mpr fun k mem => by simp [quiet k mem]⟩] at ends
    exact ⟨s, ends, rfl, rfl, rfl⟩
  · have none' : s.deepLinkList = [] := by
      refine List.filter_eq_nil_iff.mpr fun k mem => ?_
      rcases (down.resolve_left asked) k mem with h | h <;> simp [h]
    obtain ⟨l, bare⟩ := s.clkBare_deepLinksDown
    have lanes := s.laneRest_deepLinksDown
    have frame := (State.deepLinksDown_steps (Steps.refl [.free, .dies, .routers, .flows, .lanesets, .links, .dram, .gable, .clk, .log, .evr] s) (by decide)).1
    have sets := State.allLanesets_of_frame frame (by decide) (by decide)
    have now : s.deepLinksDown.now = s.now := frame .now (by decide)
    rw [if_neg asked] at ends
    generalize s.deepLinksDown = u at ends bare lanes sets now
    have pkg : u.clk.pkg = s.clk.pkg := (congrArg Clocks.pkg bare :)
    have links : u.clk.deepLinks = true := (congrArg Clocks.deepLinks bare :)
    rw [if_pos ⟨pkg.trans entering, links, List.all_eq_true.mpr fun k mem => by
      have rest := lanes k
      rw [none', if_neg List.not_mem_nil] at rest
      have same : (u.laneset k).shutting = (s.laneset k).shutting := congrArg (·.2.1) rest
      rw [sets] at mem
      simp [same, quiet k mem]⟩] at ends
    exact ⟨u, ends, now, (congrArg Clocks.pendingEnable bare :), (congrArg Clocks.wakeCause bare :)⟩

/-- A link or port that is ACTIVE holds the package's entry up while it shuts down. -/
theorem exec_powerEntryEnd_asks {s : State} {d i k : Nat} (entering : s.clk.pkg = .entering)
    (still : ∀ n ∈ List.range 8, (s.chan n).state ≠ .training ∧ (s.chan n).state ≠ .shutting ∧ (s.chan n).state ≠ .exiting)
    (unasked : s.clk.deepLinks = false) (set : s.allLanesets.contains k = true) (link : laneKind k ≠ 2) (active : (s.laneset k).state = .active) :
    exec (.powerEntryEnd 0 d i) s = .next s.deepLinksDown ∧ s.deepLinksDown.clk.pkg = .entering ∧ s.deepLinksDown.clk.deepLinks = true ∧
      (s.deepLinksDown.laneset k).shutting = true ∧ (s.deepLinksDown.laneset k).state = .active ∧ (s.deepLinksDown.laneset k).downReason = 1 := by
  have ends := exec_powerEntryEnd_package entering still d i
  dsimp only at ends
  have member : k ∈ s.allLanesets := List.contains_iff_mem.mp set
  obtain ⟨l, bare⟩ := s.clkBare_deepLinksDown
  have lanes := s.laneRest_deepLinksDown k
  have frame := (State.deepLinksDown_steps (Steps.refl [.free, .dies, .routers, .flows, .lanesets, .links, .dram, .gable, .clk, .log, .evr] s) (by decide)).1
  have sets := State.allLanesets_of_frame frame (by decide) (by decide)
  rw [if_neg (ne_true_of_eq_false unasked)] at ends
  have asked : k ∈ s.deepLinkList := List.mem_filter.mpr ⟨member, by simp [link, active]⟩
  rw [if_pos asked, active] at lanes
  generalize s.deepLinksDown = u at ends bare lanes sets
  have shutting : (u.laneset k).shutting = true := congrArg (·.2.1) lanes
  rw [if_neg fun h => by
    have := List.all_eq_true.mp h.2.2 k (by rw [sets]; exact member)
    rw [shutting] at this
    cases this] at ends
  exact ⟨ends, ((congrArg Clocks.pkg bare :) : u.clk.pkg = s.clk.pkg).trans entering, (congrArg Clocks.deepLinks bare :), shutting,
    congrArg (·.1) lanes, congrArg (·.2.2) lanes⟩

/-! ### Wakes (18 R472, R475) -/

theorem exec_elementIdleEntry {s : State} {kind d i : Nat} (ok : Bool) (fitted : d < s.fdies) (element : kind = 1 ∧ i = 0 ∨ kind = 2 ∧ i < 96) :
    exec (.elementIdleEntry kind d i ok) s = .next (idleEntry s kind d i ok) := by
  refine congrArg Host.Outcome.next ?_
  rcases element with ⟨rfl, rfl⟩ | ⟨rfl, small⟩
  · exact if_pos ⟨rfl, fitted⟩
  · exact (if_neg (by omega)).trans (if_pos ⟨rfl, fitted, small⟩)

theorem State.wakeElem_die {s : State} {d : Nat} (steady : (s.elem 1 d 0).phase = .steady) :
    ((s.elem 1 d 0).state = .nap ∨ (s.elem 1 d 0).state = .deep → (s.wakeElem 1 d 0).elem 1 d 0 =
        { s.elem 1 d 0 with phase := .waking, target := .active, atPs := s.now }) ∧
      ((s.elem 1 d 0).state = .idle → (s.wakeElem 1 d 0).elem 1 d 0 = { s.elem 1 d 0 with state := .active, idleAt := none }) ∧
      ((s.elem 1 d 0).state = .active → s.wakeElem 1 d 0 = s) := by
  refine ⟨fun asleep => ?_, fun idle => ?_, fun active => ?_⟩
  · rw [State.wakeElem_of_asleep steady asleep, State.elem_modElem]
  · unfold State.wakeElem
    dsimp only
    rw [if_neg (by simp [steady]), if_neg (by simp [steady]), if_pos idle, State.elem_modElem]
  · unfold State.wakeElem
    dsimp only
    rw [if_neg (by simp [steady]), if_neg (by simp [steady]), if_neg (by simp [active]), if_pos active]

theorem State.wakeElem_bay {s : State} {d b : Nat} :
    ((s.elem 2 d b).phase = .entering → (s.wakeElem 2 d b).elem 2 d b = { s.elem 2 d b with pendingEnable := true }) ∧
      ((s.elem 2 d b).phase = .steady → (s.elem 2 d b).state = .deep → (s.wakeElem 2 d b).elem 2 d b =
        { s.elem 2 d b with phase := .waking, target := .active, atPs := s.now }) := by
  refine ⟨fun entering => ?_, fun steady deep => ?_⟩
  · unfold State.wakeElem
    dsimp only
    rw [if_pos entering, State.elem_modElem]
  · rw [State.wakeElem_of_asleep steady (.inr deep), State.elem_modElem]

theorem State.packageWake_shows (s : State) (src : Nat) :
    (s.clk.pkg = .deep → (s.packageWake src).clk.pkg = .waking ∧ (s.packageWake src).clk.wakeCause = BitVec.ofNat 6 (2 ^ src) ∧
      (s.packageWake src).cfg.refosc = true) ∧
    (s.clk.pkg = .entering → s.clk.pendingEnable = false → (s.packageWake src).clk.pkg = .entering ∧ (s.packageWake src).clk.pendingEnable = true ∧
      (s.packageWake src).clk.wakeCause = BitVec.ofNat 6 (2 ^ src)) ∧
    (s.clk.pkg = .active ∨ s.clk.pkg = .waking → s.packageWake src = s) := by
  refine ⟨fun deep => ?_, fun entering free => ?_, fun other => ?_⟩
  · rw [State.packageWake_of_deep deep]
    obtain ⟨-, pkg, cause, on⟩ := s.beginPackageWake_shows (BitVec.ofNat 6 (2 ^ src))
    exact ⟨pkg, cause, on⟩
  · unfold State.packageWake
    dsimp only
    rw [entering]
    dsimp only
    rw [if_neg (ne_true_of_eq_false free)]
    exact ⟨entering, rfl, rfl⟩
  · unfold State.packageWake
    dsimp only
    rcases other with active | waking
    · rw [active]
    · rw [waking]

end Sys2Proof.Machine

open Sys2Proof Sys2Proof.Machine

/-- Settles O53: each transition by what its function does to the element or the package. -/
theorem powerTransitions : Obligations.powerTransitions := by
  unfold Obligations.powerTransitions
  refine ⟨?busy, ?bay, ?die, ?entry, ?deep, ?links, ?wakeDie, ?wakeBay, ?exit, ?source, ?alarm, ?noAlarm, ?up⟩
  case busy =>
    rintro s kind d i ok ⟨fitted, element, steady, nap, deep, busy⟩
    have few := s.fdies_le
    refine ⟨_, exec_elementIdleEntry ok fitted element, ?_⟩
    rw [idleEntry_of_busy steady nap deep, State.elem_modElem, State.elem_idleKnown]
    rcases busy with rfl | ⟨rfl, out⟩
    · rfl
    · rw [if_neg (by decide), State.bayIdle_idleKnown _ _ _ (by omega), State.bayIdle_of_sending out, Bool.and_false]
  case bay =>
    rintro s d b ⟨fitted, small, steady, nap, deep, idle⟩
    have few := s.fdies_le
    refine ⟨_, exec_elementIdleEntry true fitted (.inr ⟨rfl, small⟩), ?_⟩
    exact elem_idleEntry_bay (by omega) steady nap deep idle
  case die =>
    rintro s d p ⟨fitted, steady, awake, low, idle, on, rest, free, loads⟩
    have few := s.fdies_le
    exact ⟨_, exec_elementIdleEntry true fitted (.inl ⟨rfl, rfl⟩), elem_idleEntry_die (by omega) steady awake low idle on rest free loads⟩
  case entry =>
    rintro s kind d i ⟨fitted, element, entering, low⟩
    refine ⟨s.entryEnd kind d i, congrArg Host.Outcome.next ?_, State.elem_entryEnd entering low⟩
    rcases element with ⟨rfl, rfl⟩ | ⟨rfl, small⟩
    · exact (if_neg (by decide)).trans (if_pos ⟨rfl, fitted⟩)
    · exact (if_neg (by decide)).trans ((if_neg (by omega)).trans (if_pos ⟨rfl, fitted, small⟩))
  case deep =>
    rintro s d i ⟨entering, still, quiet, down⟩
    obtain ⟨u, ends, now, pending, cause⟩ := exec_powerEntryEnd_ends entering still quiet down
    have shows := u.packageDeep_shows
    rw [now, pending, cause] at shows
    exact ⟨_, ends, shows⟩
  case links =>
    rintro s d i k ⟨entering, still, unasked, set, link, active⟩
    obtain ⟨ends, shows⟩ := exec_powerEntryEnd_asks entering still unasked set link active
    exact ⟨_, ends, shows⟩
  case wakeDie =>
    rintro s d r ⟨active, fitted, router, queued, steady⟩
    have waits : ((List.range 48).any fun r => (s.router d r).wq0 != [] || (s.router d r).wq1 != []) = true := by
      rw [List.any_eq_true]
      exact ⟨r, List.mem_range.mpr router, by simpa using queued⟩
    exact ⟨_, congrArg Host.Outcome.next ((if_neg (not_not_intro active)).trans ((if_pos ⟨rfl, fitted⟩).trans (if_pos waits))), State.wakeElem_die steady⟩
  case wakeBay =>
    rintro s d b ⟨active, fitted, small, awake⟩
    obtain ⟨held, wakes⟩ := State.wakeElem_bay (s := s) (d := d) (b := b)
    exact ⟨_, congrArg Host.Outcome.next ((if_neg (not_not_intro active)).trans ((if_neg (by omega)).trans (if_pos ⟨rfl, fitted, small, awake⟩))), held,
      wakes, (State.wakeElem_steps (Steps.refl [.clk] s) (by decide)).1⟩
  case exit =>
    rintro s kind d i ⟨active, fitted, ⟨rfl, rfl, whole⟩ | ⟨rfl, small, awake⟩, waking⟩
    · refine ⟨_, congrArg Host.Outcome.next ((if_neg (not_not_intro active)).trans (if_pos ⟨rfl, fitted⟩)), ?_⟩
      rw [State.elem_exitEnd_die waking whole]
      exact ⟨rfl, rfl, rfl, rfl⟩
    · refine ⟨_, congrArg Host.Outcome.next ((if_neg (not_not_intro active)).trans ((if_neg (by omega)).trans (if_pos ⟨rfl, fitted, small⟩))), ?_⟩
      rw [State.elem_exitEnd_bay awake waking]
      exact ⟨rfl, rfl, rfl, rfl⟩
  case source =>
    rintro s src ⟨small, enabled⟩
    exact ⟨_, congrArg Host.Outcome.next (if_pos ⟨small, enabled⟩), s.packageWake_shows src⟩
  case alarm =>
    rintro s p ⟨alarm, deep, enabled, reached⟩
    refine ⟨s.packageWake 3, congrArg Host.Outcome.next ?_, (s.packageWake_shows 3).1 deep⟩
    rw [alarm]
    dsimp only
    rw [if_pos deep, if_pos ⟨enabled, reached⟩]
  case noAlarm =>
    rintro s quiet
    refine ⟨s, congrArg Host.Outcome.next ?_, rfl⟩
    split
    · rfl
    next p alarm =>
      refine if_neg fun h => ?_
      rcases quiet with none' | off
      · rw [none'] at alarm; cases alarm
      · exact ne_true_of_eq_false off h.1
  case up =>
    rintro s ⟨waking, counted, alive⟩
    exact ⟨_, congrArg Host.Outcome.next (if_pos ⟨waking, counted, alive⟩), s.packageUp_shows⟩
end

section
/-! PROOFS. The gable subsystem restarts (17 R448 to R451; 20 R521). -/

open Sys2Proof
namespace Sys2Proof.Machine

/-! ### What binds a session to a mailbox -/

/-- Whether a session is bound, and its GEN. -/
def Mbx.binding (b : Mbx) : Bool × BitVec 24 := (b.bound, b.gen)

/-- Mailbox k as far as a session is bound to it. -/
def State.binding (k : Nat) (s : State) : Bool × BitVec 24 := (s.mbx k).binding

theorem State.bound_of_binding {k : Nat} {s t : State} (h : t.binding k = s.binding k) :
    (t.mbx k).bound = (s.mbx k).bound ∧ (t.mbx k).gen = (s.mbx k).gen := Prod.ext_iff.mp h

theorem State.binding_modMbx (k : Nat) (s : State) (m : Nat) {f : Mbx → Mbx} (keeps : (f (s.mbx m)).binding = (s.mbx m).binding) :
    (s.modMbx m f).binding k = s.binding k := by
  unfold State.binding
  by_cases own : k = m
  · subst own; rw [State.mbx_modMbx, keeps]
  · rw [State.mbx_modMbx_other s f own]

theorem State.binding_mbxRise (k : Nat) (s : State) (m bit : Nat) : (s.mbxRise m bit).binding k = s.binding k := by
  obtain ⟨n, es, own, -, -, others, -⟩ := s.mbxRise_eq m bit
  unfold State.binding
  by_cases same : k = m
  · subst same; rw [own]; rfl
  · rw [others k same]

theorem State.binding_setGstate (k : Nat) (s : State) (g : GState) : (s.setGstate g).binding k = s.binding k := by
  unfold State.setGstate
  split
  · rfl
  · exact foldl_keeps (State.binding k) _ (fun s m => s.binding_mbxRise k m 2) _ _

theorem State.binding_showNext (k : Nat) (s : State) (m : Nat) : (s.showNext m).binding k = s.binding k := by
  unfold State.showNext
  dsimp only
  split
  · rfl
  · split
    · rfl
    · exact (State.binding_mbxRise ..).trans (State.binding_modMbx k s m rfl)

theorem State.binding_writeAnswer (k : Nat) (s : State) (m seq st : Nat) (dup : Bool) (sess : Nat) (data : List (BitVec 8)) :
    (s.writeAnswer m seq st dup sess data).binding k = s.binding k := by
  obtain ⟨-, others, -, n, own⟩ := s.writeAnswer_eq m seq st dup sess data
  unfold State.binding
  by_cases same : k = m
  · subst same; rw [own]; rfl
  · rw [others k same]

theorem Mbx.binding_recordIf (b : Mbx) (seq st : Nat) : (if b.bound then b.record seq st else b).binding = b.binding := by
  by_cases h : b.bound = true
  · rw [if_pos h]; rfl
  · rw [if_neg h]

theorem State.binding_answerLater (k : Nat) (s : State) (tok : Option Nat) (status : Nat) (data : List (BitVec 8)) :
    (s.answerLater tok status data).binding k = s.binding k := by
  unfold State.answerLater
  split
  · rfl
  · dsimp only
    split
    · exact (State.binding_modMbx k _ _ (Mbx.binding_recordIf ..)).trans (State.binding_writeAnswer ..)
    · rfl

theorem State.binding_faultDeferred (k : Nat) (s : State) : s.faultDeferred.binding k = s.binding k := by
  refine foldl_keeps (State.binding k) _ (fun s m => ?_) _ _
  split
  · exact State.binding_answerLater ..
  · rfl

theorem State.core_writeAnswer (s : State) (m seq st : Nat) (dup : Bool) (sess : Nat) (data : List (BitVec 8)) :
    (s.writeAnswer m seq st dup sess data).core = { s.core with rr := m } :=
  State.core_mbxRise ..

theorem State.gstate_setGstate (s : State) (g : GState) : (s.setGstate g).gable.gstate = g :=
  congrArg Gable.gstate (s.core_setGstate g)

/-! ### A restart begins -/

/-- The core in a restart that has begun, or begun again. -/
def State.begunCore (s : State) (cause : BitVec 3) (fwAddr : BitVec 32) : Gable :=
  { s.core with
    gstate := .restarting, restarts := satInc s.gable.restarts, cause := cause,
    beginnings := (if s.gable.gstate = .restarting then s.gable.beginnings else 0) + 1,
    pendCauses := s.gable.pendCauses ++ [(cause, fwAddr)], reservation := false, wdtAt := s.now }

/-- A gable subsystem that a cause can restart (17 R449). -/
def State.restartable (s : State) : Prop := s.engineRuns = true ∧ s.gable.gstate ≠ .failed ∧ s.gable.gstate ≠ .halted

theorem State.beginRestart_again {s : State} {cause : BitVec 3} {a : BitVec 32} (able : s.restartable) (restarts : s.gable.gstate = .restarting)
    (few : s.gable.beginnings < 4) : (s.beginRestart cause a).core = s.begunCore cause a := by
  obtain ⟨runs, notFailed, notHalted⟩ := able
  unfold State.beginRestart State.begunCore
  dsimp only
  rw [if_neg (by simp [runs, notFailed, notHalted]), if_neg (by rintro ⟨-, h⟩; omega)]
  simp only [if_pos restarts]
  unfold State.core
  rw [← restarts]
  rfl

/-- Heartbeats standing still and GSTATE RESTARTING, with the event, before the counts change. -/
def State.restartShown (s : State) (cause : BitVec 3) : State := (s.hbStop.setGstate .restarting).raiseHub 0x3A8 cause.toNat none

theorem State.core_restartShown (s : State) (cause : BitVec 3) : (s.restartShown cause).core = { s.core with gstate := .restarting } :=
  (State.core_of_gable_eq rfl).trans (State.core_setGstate ..)

theorem State.now_restartShown (s : State) (cause : BitVec 3) : (s.restartShown cause).now = s.now :=
  (State.raiseHub_steps (State.setGstate_steps (State.hbStop_steps (Steps.refl [.gable, .evr] s) (by decide)) (by decide)) (by decide)).1 .now (by decide)

theorem State.core_counted (s : State) (f : Gable → Gable) (apart : ∀ g : Gable, { f g with mbx := [] } = f { g with mbx := [] }) :
    (s.modGable f).core = f s.core := apart s.gable

theorem State.gstate_core (s : State) : s.core.gstate = s.gable.gstate := rfl

/-- The counts of a restart that was not running before. -/
def Gable.counted (cause : BitVec 3) (fwAddr : BitVec 32) (now : Nat) (x : Gable) : Gable :=
  { x with restarts := satInc x.restarts, cause := cause, beginnings := 1, pendCauses := x.pendCauses ++ [(cause, fwAddr)], reservation := false, wdtAt := now }

theorem State.beginRestart_anew {s : State} {cause : BitVec 3} {a : BitVec 32} (able : s.restartable) (serves : s.gable.gstate ≠ .restarting) :
    s.beginRestart cause a = (s.restartShown cause).modGable (Gable.counted cause a (s.restartShown cause).now) := by
  obtain ⟨runs, notFailed, notHalted⟩ := able
  unfold State.beginRestart
  dsimp only
  rw [if_neg (by simp [runs, notFailed, notHalted]), if_neg (fun h => serves h.1)]
  simp only [if_neg serves]
  rfl

theorem State.core_beginRestart_anew {s : State} {cause : BitVec 3} {a : BitVec 32} (able : s.restartable) (serves : s.gable.gstate ≠ .restarting) :
    (s.beginRestart cause a).core = s.begunCore cause a := by
  rw [State.beginRestart_anew able serves, State.core_counted _ _ (fun _ => rfl), State.core_restartShown, State.now_restartShown]
  unfold State.begunCore
  rw [if_neg serves]
  rfl

theorem State.beginRestart_raises {s : State} {cause : BitVec 3} {a : BitVec 32} (able : s.restartable) (serves : s.gable.gstate ≠ .restarting) :
    ∃ ev ∈ (s.beginRestart cause a).evr.raised, ev.evid = 0x3A8 ∧ ev.evdata = BitVec.ofNat 32 cause.toNat := by
  rw [State.beginRestart_anew able serves]
  unfold State.restartShown
  generalize s.hbStop.setGstate .restarting = u
  exact ⟨u.mkEvent 8 0x3A8 cause.toNat none, List.mem_append_right _ (List.mem_singleton.mpr rfl), rfl, rfl⟩

theorem State.beginRestart_fifth {s : State} {cause : BitVec 3} {a : BitVec 32} (able : s.restartable) (restarts : s.gable.gstate = .restarting)
    (many : 4 ≤ s.gable.beginnings) : (s.beginRestart cause a).gable.gstate = .failed ∧ (s.beginRestart cause a).cfg.cfgErr = true := by
  obtain ⟨runs, notFailed, notHalted⟩ := able
  unfold State.beginRestart
  dsimp only
  rw [if_neg (by simp [runs, notFailed, notHalted]), if_pos ⟨restarts, many⟩]
  exact ⟨s.gstate_setGstate .failed, rfl⟩

theorem State.gable_of_core {A : Type} {s : State} {g : Gable} (core : s.core = g) (field : Gable → A)
    (apart : ∀ x : Gable, field x = field { x with mbx := [] }) : field s.gable = field g := by rw [apart, ← core]; rfl

/-- A beginning, read field by field. -/
theorem State.begun_of_core {s t : State} {cause : BitVec 3} {a : BitVec 32} (core : t.core = s.begunCore cause a) :
    t.gable.gstate = .restarting ∧ t.gable.cause = cause ∧ t.gable.restarts = satInc s.gable.restarts ∧
    t.gable.beginnings = (if s.gable.gstate = .restarting then s.gable.beginnings else 0) + 1 ∧
    t.gable.pendCauses = s.gable.pendCauses ++ [(cause, a)] ∧ t.gable.wdtAt = s.now ∧ t.gable.scrubAt = s.gable.scrubAt :=
  ⟨State.gable_of_core core Gable.gstate fun _ => rfl, State.gable_of_core core Gable.cause fun _ => rfl, State.gable_of_core core Gable.restarts fun _ => rfl,
    State.gable_of_core core Gable.beginnings fun _ => rfl, State.gable_of_core core Gable.pendCauses fun _ => rfl, State.gable_of_core core Gable.wdtAt fun _ => rfl,
    State.gable_of_core core Gable.scrubAt fun _ => rfl⟩

/-! ### A restart ends -/

/-- One log entry for every beginning of a restart whose sessions continue. -/
def State.noteCauses (s : State) : State :=
  s.gable.pendCauses.foldl (fun (s : State) c => s.logNote (mkEntry 0x17 2 0x3A8 (8 + atLo c.1.toNat 4 + atBit true 7) c.2.toNat)) s

theorem State.gable_logNote (s : State) (e : LogEntry) : (s.logNote e).gable = s.gable := rfl

theorem State.gable_noteCauses (s : State) : s.noteCauses.gable = s.gable := by
  unfold State.noteCauses
  exact foldl_keeps State.gable _ (fun s _ => s.gable_logNote _) s.gable.pendCauses s

theorem State.binding_noteCauses (k : Nat) (s : State) : s.noteCauses.binding k = s.binding k := by
  unfold State.binding State.mbx
  rw [s.gable_noteCauses]

/-- The waiting requests answered, the heartbeats started again, GSTATE and the log, before the counts are cleared. -/
def State.restored (s : State) : State :=
  let s := s.faultDeferred
  let s := s.modGable fun g => { g with mbx := tmodAll Mbx.reset g.mbx (g.mbx.map (·.1)) fun _ (b : Mbx) => { b with hbAt := s.now, hbUsed := 0 } }
  let s := s.setGstate (if s.cfg.fwIf = 0 then .recovery else .running)
  s.noteCauses

theorem State.endRestart_restored (s : State) :
    s.endRestart true = (List.range 64).foldl (fun (s : State) m => s.showNext m)
      (s.restored.modGable fun g => { g with pendCauses := [], beginnings := 0, wdtAt := s.restored.now }) := by
  unfold State.endRestart State.restored State.noteCauses
  dsimp only
  rw [if_pos rfl]

theorem State.binding_startHb (k : Nat) (s : State) (now : Nat) :
    (s.modGable fun g => { g with mbx := tmodAll Mbx.reset g.mbx (g.mbx.map (·.1)) fun _ (b : Mbx) => { b with hbAt := now, hbUsed := 0 } }).binding k = s.binding k :=
  tget_tmodAll_keeps Mbx.binding Mbx.reset (f := fun _ b => { b with hbAt := now, hbUsed := 0 }) (fun _ _ => rfl) _ s.gable.mbx k

theorem State.binding_restored (k : Nat) (s : State) : s.restored.binding k = s.binding k := by
  unfold State.restored
  dsimp only
  rw [State.binding_noteCauses, State.binding_setGstate, State.binding_startHb, State.binding_faultDeferred]

theorem State.cfg_faultDeferred (s : State) : s.faultDeferred.cfg = s.cfg :=
  (State.faultDeferred_steps (Steps.refl [.gable, .evr] s) (by decide)).1 .cfg (by decide)

theorem State.cfg_modGable (s : State) (f : Gable → Gable) : (s.modGable f).cfg = s.cfg := rfl

theorem State.gstate_restored (s : State) : s.restored.gable.gstate = if s.cfg.fwIf = 0 then .recovery else .running := by
  unfold State.restored
  dsimp only
  refine (congrArg Gable.gstate (State.gable_noteCauses _)).trans ?_
  rw [State.gstate_setGstate]
  rw [State.cfg_modGable, State.cfg_faultDeferred]

theorem State.core_endRestart (s : State) :
    (s.endRestart true).core = { s.restored.core with pendCauses := [], beginnings := 0, wdtAt := s.restored.now } := by
  rw [State.endRestart_restored]
  generalize s.restored = u
  exact (foldl_keeps State.core _ (fun s m => s.core_showNext m) _ _).trans rfl

theorem State.gstate_endRestart (s : State) : (s.endRestart true).gable.gstate = if s.cfg.fwIf = 0 then .recovery else .running := by
  have core := State.gable_of_core s.core_endRestart Gable.gstate fun _ => rfl
  rw [core, ← s.gstate_restored, ← State.gstate_core]

theorem State.binding_endRestart (k : Nat) (s : State) : (s.endRestart true).binding k = s.binding k := by
  rw [State.endRestart_restored, ← s.binding_restored k]
  generalize s.restored = u
  exact (foldl_keeps (State.binding k) _ (fun s m => s.binding_showNext k m) _ _).trans rfl

/-! ### The statement -/

theorem exec_watchdogExpire {s : State} (due : s.gable.wdtAt + 100000000000 ≤ s.now) (noHalt : s.gable.haltReq = false ∨ s.gable.haltAt ≠ s.now) :
    exec .watchdogExpire s = .next (s.beginRestart 1 0) := by
  refine congrArg Host.Outcome.next (if_pos ⟨decide_eq_true due, ?_⟩)
  rintro ⟨req, at_⟩
  rcases noHalt with no | no
  · rw [no] at req; exact absurd req (by decide)
  · exact no at_

theorem exec_watchdogExpire_idle {s : State} (not : s.now < s.gable.wdtAt + 100000000000 ∨ (s.gable.haltReq = true ∧ s.gable.haltAt = s.now) ∨ s.engineRuns = false) :
    exec .watchdogExpire s = .next s := by
  refine congrArg Host.Outcome.next ?_
  unfold Sys2Proof.Machine.watchdogExpire
  split
  next due =>
    obtain ⟨due, noHalt⟩ := due
    have late : s.gable.wdtAt + 100000000000 ≤ s.now := of_decide_eq_true due
    rcases not with early | halt | stopped
    · omega
    · exact absurd halt noHalt
    · exact if_pos (.inr (.inr (by simp [stopped])))
  · rfl

theorem exec_gableRestart_cause {s : State} {cause : BitVec 3} {a : BitVec 32} {r1 r2 : Bool} (real : cause = 2 ∨ cause = 3 ∨ cause = 4) :
    exec (.gableRestart cause a r1 r2) s = .next (s.beginRestart cause a) := by
  refine congrArg Host.Outcome.next ((if_neg ?_).trans (if_pos real))
  rcases real with rfl | rfl | rfl <;> decide

theorem exec_gableRestart_restored {s : State} {a : BitVec 32} {ok : Bool} (restarts : s.gable.gstate = .restarting) (runs : s.engineRuns = true) :
    exec (.gableRestart 0 a true ok) s = .next (s.endRestart ok) :=
  congrArg Host.Outcome.next ((if_neg (by decide)).trans ((if_neg (by decide)).trans ((if_pos ⟨rfl, restarts, runs⟩).trans (if_pos rfl))))

theorem exec_gableRestart_lost {s : State} {a : BitVec 32} {ok : Bool} (restarts : s.gable.gstate = .restarting) (runs : s.engineRuns = true) :
    exec (.gableRestart 0 a false ok) s = .next ((s.setGstate .failed).modCfg fun c => { c with cfgErr := true }) :=
  congrArg Host.Outcome.next ((if_neg (by decide)).trans ((if_neg (by decide)).trans ((if_pos ⟨rfl, restarts, runs⟩).trans (if_neg (by decide)))))

/-- The SRAM scrub that found no double-bit error. -/
theorem exec_gableSramScrub {s : State} {u : Upset} (serves : s.gableServes = true) (runs : s.engineRuns = true)
    (due : s.gable.scrubAt + 10000000000000 ≤ s.now) :
    exec (.gableSramScrub u) s = .next (let s := s.modGable fun g => { g with scrubAt := s.now }
      if u = .double then (s.drew 1).beginRestart 3 (s.freeVal.setWidth 32) else s) := by
  refine congrArg Host.Outcome.next (if_neg ?_)
  rintro (no | no | early)
  · exact no serves
  · exact no runs
  · have : s.now < s.gable.scrubAt + 10000000000000 := early
    omega

end Sys2Proof.Machine

open Sys2Proof Sys2Proof.Machine

/-- Settles O49: every beginning leaves the same core (`State.begunCore`), and what a restart ends with keeps the bindings of the sessions. -/
theorem gableRestarts : Obligations.gableRestarts := by
  unfold Obligations.gableRestarts
  refine ⟨?watchdog, ?idle, ?cause, ?ends, ?fails, ?scrub⟩
  case watchdog =>
    rintro s ⟨due, noHalt, serving, runs⟩
    have serves : s.gable.gstate ≠ .restarting := by rcases serving with h | h <;> simp [h]
    have able : s.restartable := ⟨runs, by rcases serving with h | h <;> simp [h], by rcases serving with h | h <;> simp [h]⟩
    obtain ⟨gstate, cause, restarts, beginnings, -, wdt, -⟩ := State.begun_of_core (State.core_beginRestart_anew (cause := 1) (a := 0) able serves)
    rw [if_neg serves] at beginnings
    exact ⟨_, exec_watchdogExpire due noHalt, gstate, cause, restarts, beginnings, wdt, State.beginRestart_raises able serves⟩
  case idle => exact fun s not => ⟨s, exec_watchdogExpire_idle not, rfl⟩
  case cause =>
    rintro s cause a r1 r2 ⟨real, runs, notFailed, notHalted⟩
    have able : s.restartable := ⟨runs, notFailed, notHalted⟩
    refine ⟨_, exec_gableRestart_cause real, State.beginRestart_fifth able, fun restarts few => ?_, fun serves => ?_⟩
    · obtain ⟨gstate, cause', -, beginnings, pend, -, -⟩ := State.begun_of_core (State.beginRestart_again (cause := cause) (a := a) able restarts few)
      rw [if_pos restarts] at beginnings
      exact ⟨gstate, beginnings, cause', pend⟩
    · obtain ⟨gstate, cause', restarts, beginnings, -, -, -⟩ := State.begun_of_core (State.core_beginRestart_anew (cause := cause) (a := a) able serves)
      rw [if_neg serves] at beginnings
      exact ⟨gstate, beginnings, cause', restarts⟩
  case ends =>
    rintro s a ⟨restarts, runs⟩
    refine ⟨_, exec_gableRestart_restored restarts runs, s.gstate_endRestart, ?_, ?_, fun m => State.bound_of_binding (s.binding_endRestart m)⟩
    · exact State.gable_of_core s.core_endRestart Gable.beginnings fun _ => rfl
    · exact State.gable_of_core s.core_endRestart Gable.pendCauses fun _ => rfl
  case fails =>
    rintro s a ok ⟨restarts, runs⟩
    exact ⟨_, exec_gableRestart_lost restarts runs, s.gstate_setGstate .failed, rfl⟩
  case scrub =>
    rintro s u ⟨serving, runs, due⟩
    have serves : s.gableServes = true := by unfold State.gableServes; rcases serving with h | h <;> simp [h]
    refine ⟨_, exec_gableSramScrub serves runs due, ?_⟩
    dsimp only
    by_cases double : u = .double
    · rw [if_pos double]
      generalize at_ : (s.modGable fun g => { g with scrubAt := s.now }).drew 1 = v
      have gable : v.gable = { s.gable with scrubAt := s.now } := by subst at_; rfl
      have runs' : v.engineRuns = true := by subst at_; exact runs
      have serving' : v.gable.gstate = .running ∨ v.gable.gstate = .recovery := by rw [gable]; exact serving
      have anew : v.gable.gstate ≠ .restarting := by rcases serving' with h | h <;> simp [h]
      have able : v.restartable := ⟨runs', by rcases serving' with h | h <;> simp [h], by rcases serving' with h | h <;> simp [h]⟩
      generalize (s.modGable fun g => { g with scrubAt := s.now }).freeVal.setWidth 32 = a
      obtain ⟨gstate, cause, -, -, -, -, scrub⟩ := State.begun_of_core (State.core_beginRestart_anew (cause := 3) (a := a) able anew)
      exact ⟨scrub.trans (congrArg Gable.scrubAt gable), fun no => absurd double no, fun _ => ⟨gstate, cause⟩⟩
    · rw [if_neg double]
      exact ⟨rfl, fun _ => ⟨rfl, (State.modGable_steps (Steps.refl [.gable] s) (by decide)).1⟩, fun yes => absurd yes double⟩

end

section
/-! PROOFS. The checks every mailbox request passes, in their order (17 R438 to R443, R449, R451, R452). -/

open Sys2Proof
namespace Sys2Proof.Machine

/-- A mailbox command of the block serves the request of its mailbox. -/
theorem exec_of_mailboxOf {i : Sys2Proof.Instr} {c : Command} {m : Nat} (h : mailboxOf i = some (c, m)) (s : State) : exec i s = .next (c.serve m s) := by
  unfold mailboxOf at h
  split at h
  all_goals first | (cases h; rfl) | exact nomatch h

/-! ### Before the checks -/

theorem Command.serve_waits {c : Command} {s : State} {m : Nat}
    (h : s.rings m = false ∨ s.gable.gstate = .halted ∨ ((s.req m).cmd ≠ c.code ∧ (s.req m).cmd ∈ knownCodes)) : c.serve m s = s := by
  unfold Command.serve
  dsimp only
  split
  · rfl
  next taken =>
    rcases h with silent | halted | other
    · exfalso
      have rings : s.rings m = true := by
        refine State.rings_iff.mpr ⟨by omega, ?_, ?_, ?_, ?_⟩
        · exact Classical.not_not.mp fun h => taken (by simp [h])
        · exact Classical.not_not.mp fun h => taken (by simp [h])
        · exact Bool.eq_false_iff.mpr fun h => taken (by simp [h])
        · exact Classical.not_not.mp fun h => taken (by simp [h])
      rw [rings] at silent
      exact absurd silent (by decide)
    · rw [halted]
    · exact absurd (.inr (.inr (.inr (.inr (.inr other))))) taken

/-- A doorbell that is taken: it rings, and its request names this command or none of the table. -/
theorem Command.taken_of_rings {c : Command} {s : State} {m : Nat} (rings : s.rings m = true)
    (mine : ¬ ((s.req m).cmd ≠ c.code ∧ (s.req m).cmd ∈ knownCodes)) :
    ¬ (64 ≤ m ∨ ¬ s.engineRuns = true ∨ ¬ (s.mbx m).ringing = true ∨ (s.mbx m).deferred = true ∨ ¬ s.mbxTurn m = true ∨
      ((s.req m).cmd ≠ c.code ∧ (s.req m).cmd ∈ knownCodes)) := by
  obtain ⟨below, engine, ringing, fresh, turn⟩ := State.rings_iff.mp rings
  rintro (h | h | h | h | h | h)
  · omega
  · exact h engine
  · exact h ringing
  · rw [fresh] at h; exact absurd h (by decide)
  · exact h turn
  · exact mine h

theorem Command.serve_stopped {c : Command} {s : State} {m : Nat} (rings : s.rings m = true) (code : (s.req m).cmd = c.code)
    (stopped : s.gable.gstate = .restarting ∨ s.gable.gstate = .failed) :
    c.serve m s = s.writeAnswer m (s.req m).seq (if s.gable.gstate = .restarting then stBusy else stFault) false 0 [] := by
  refine (if_neg (Command.taken_of_rings rings fun h => h.1 code)).trans ?_
  rcases stopped with h | h
  · simp only [h]; rfl
  · simp only [h]; rfl

/-! ### A request that a check refuses -/

/-- The refusal of a request, written and, where it is final in its session, recorded. -/
def State.refusal (s : State) (m st : Nat) (dup keeps : Bool) : State :=
  let t := (s.heard m).writeAnswer m (s.req m).seq st dup (if (s.req m).session = s.sid m then s.sid m else 0) []
  if keeps = true then t.modMbx m fun b => b.record (s.req m).seq st else t

theorem State.refused_refusal (s : State) (m st : Nat) (dup keeps : Bool) : s.refused (s.refusal m st dup keeps) m st dup := by
  unfold State.refusal
  dsimp only
  obtain ⟨frame, -, -, n, mbx⟩ := State.writeAnswer_eq (s.heard m) m (s.req m).seq st dup (if (s.req m).session = s.sid m then s.sid m else 0) []
  generalize (s.heard m).writeAnswer m (s.req m).seq st dup (if (s.req m).session = s.sid m then s.sid m else 0) [] = t at *
  have heard : s.changesOnly (s.heard m) [.gable, .evr] := fun p hp => s.heard_frame m p fun h => hp (by simp at h; simp [h])
  cases keeps with
  | false =>
    rw [if_neg Bool.false_ne_true]
    exact ⟨by rw [mbx], by rw [mbx], by rw [mbx], State.changesOnly_trans heard frame⟩
  | true =>
    rw [if_pos rfl]
    refine ⟨by rw [State.mbx_modMbx, mbx]; rfl, by rw [State.mbx_modMbx, mbx]; rfl, by rw [State.mbx_modMbx, mbx]; rfl, ?_⟩
    exact State.changesOnly_trans (State.changesOnly_trans heard frame) (State.modMbx_steps (Steps.refl [.gable, .evr] t) (by decide)).1

/-- SESSION of an answer that opens nothing. -/
theorem State.session_answered (s : State) (m : Nat) :
    (if ((s.req m).session != 0 && (s.req m).session == s.sid m) = true then s.sid m else 0) =
      if (s.req m).session = s.sid m then s.sid m else 0 := by
  by_cases own : (s.req m).session = s.sid m
  · by_cases zero : s.sid m = 0
    · simp [own, zero]
    · simp [own, zero]
  · simp [own]

theorem Command.serve_refusal {c : Command} {s : State} {m st : Nat} {dup : Bool} (rings : s.rings m = true) (running : s.gable.gstate = .running)
    (mine : ¬ ((s.req m).cmd ≠ c.code ∧ (s.req m).cmd ∈ knownCodes)) (judged : c.judge (s.heard m) m (s.req m) = (s.heard m, bare st, dup))
    (small : st < 0x100) (notDone : st ≠ stOk ∨ dup = true) : ∃ keeps, c.serve m s = s.refusal m st dup keeps := by
  have hears : (if ((s.req m).session != 0 && (s.req m).session == s.sid m) = true then s.modMbx m fun b => { b with hbAt := s.now, hbUsed := 0 } else s) =
      s.heard m := rfl
  have later : (bare st).status ≠ stLater := by unfold bare stLater; dsimp only; omega
  have notOpened : ((s.req m).cmd == 0x0900 && (bare st).status == stOk && !dup) = false := by
    rcases notDone with h | h
    · simp [bare, h]
    · simp [h]
  have notAfter : ¬ ((bare st).status = stOk ∧ ¬ dup = true) := by
    rcases notDone with h | h
    · exact fun h' => h h'.1
    · exact fun h' => h'.2 h
  unfold Command.serve
  dsimp only
  rw [← State.req, if_neg (Command.taken_of_rings rings mine), running]
  dsimp only
  rw [hears, judged]
  simp only [State.heard_sid, s.session_answered m, notOpened, if_neg later, if_neg notAfter, if_neg Bool.false_ne_true]
  unfold State.refusal
  exact ⟨_, rfl⟩

/-- What the answer leaves when a check refused the request: the mailbox is answered, and nothing else happens. -/
theorem Command.serve_refused {c : Command} {s : State} {m st : Nat} {dup : Bool} (rings : s.rings m = true) (running : s.gable.gstate = .running)
    (mine : ¬ ((s.req m).cmd ≠ c.code ∧ (s.req m).cmd ∈ knownCodes)) (judged : c.judge (s.heard m) m (s.req m) = (s.heard m, bare st, dup))
    (small : st < 0x100) (notDone : st ≠ stOk ∨ dup = true) : s.refused (c.serve m s) m st dup := by
  obtain ⟨keeps, served⟩ := Command.serve_refusal rings running mine judged small notDone
  rw [served]
  exact s.refused_refusal m st dup keeps

/-- The checks of the command's own, for a request that passed those before. -/
theorem Command.judge_own {c : Command} {s : State} {m : Nat} (ask : s.asks m (s.req m).cmd = true) (running : s.gable.gstate = .running) :
    c.judge (s.heard m) m (s.req m) =
      if (s.req m).cmd ≠ c.code then (s.heard m, bare stBadCommand, false)
      else if c.may (s.heard m) m (s.req m) = false then (s.heard m, bare stDenied, false)
      else if c.argOk (s.heard m) (s.req m) = false then (s.heard m, bare stBadArgument, false)
      else ((c.run (s.heard m) m (s.req m)).1, (c.run (s.heard m) m (s.req m)).2, false) := by
  obtain ⟨-, -, flags, res, len, session, -, fresh⟩ := State.asks_iff.mp ask
  have notRunning : ¬ (((s.req m).session != 0 && (s.req m).session == s.sid m) = true ∧
      ((s.mbx m).running.any fun x => x.seq == BitVec.ofNat 16 (s.req m).seq) = true) := by
    rintro ⟨own, running⟩
    rcases fresh with unnamed | ⟨idle, -⟩
    · simp [unnamed] at own
    · rw [idle] at running; cases running
  have notRecorded : (if ((s.req m).session != 0 && (s.req m).session == s.sid m) = true then
      (s.mbx m).recorded.find? fun e => e.1 == BitVec.ofNat 16 (s.req m).seq else none) = none := by
    split
    next own =>
      rcases fresh with unnamed | ⟨-, new⟩
      · simp [unnamed] at own
      · exact List.find?_eq_none.mpr (by simpa using new)
    next => rfl
  unfold Command.judge
  simp only [State.heard_sid, State.heard_gstate, State.heard_running, State.heard_recorded, State.heard_sessionOk]
  rw [if_neg (by omega), if_neg (by simp [session]), if_neg notRunning, notRecorded]
  dsimp only
  split
  · rfl
  · rw [if_neg (by simp [running])]

/-- The mailbox's own checks are passed up to the one for a SEQ still running. -/
structure State.inSession (s : State) (m : Nat) : Prop where
  flags : (s.req m).flags = 0
  res : (s.req m).res = 0
  len : (s.req m).len ≤ 240
  open_ : s.sessionOk m (s.req m) = true
  named : (s.req m).session ≠ 0
  own : (s.req m).session = s.sid m

theorem Command.judge_pending {c : Command} {s : State} {m : Nat} (sess : s.inSession m)
    (runs : ((s.mbx m).running.any fun x => x.seq == BitVec.ofNat 16 (s.req m).seq) = true) :
    c.judge (s.heard m) m (s.req m) = (s.heard m, bare stPending, false) := by
  obtain ⟨flags, res, len, open_, named, own⟩ := sess
  unfold Command.judge
  simp only [State.heard_sid, State.heard_running, State.heard_sessionOk]
  rw [if_neg (by omega), if_neg (by simp [open_]), if_pos ⟨by simp [named, own.symm], runs⟩]

theorem Command.judge_repeated {c : Command} {s : State} {m : Nat} {e : BitVec 16 × BitVec 8} (sess : s.inSession m)
    (idle : ((s.mbx m).running.any fun x => x.seq == BitVec.ofNat 16 (s.req m).seq) = false)
    (found : (s.mbx m).recorded.find? (fun e => e.1 == BitVec.ofNat 16 (s.req m).seq) = some e) :
    c.judge (s.heard m) m (s.req m) = (s.heard m, bare e.2.toNat, true) := by
  obtain ⟨flags, res, len, open_, named, own⟩ := sess
  have inSession : ((s.req m).session != 0 && (s.req m).session == s.sid m) = true := by simp [named, own.symm]
  unfold Command.judge
  simp only [State.heard_sid, State.heard_running, State.heard_recorded, State.heard_sessionOk]
  rw [if_neg (by omega), if_neg (by simp [open_]), if_neg (by simp [idle]), inSession, if_pos rfl, found]

/-- An A command of a session with 16 completions outstanding. -/
theorem Command.run_full {c : Command} {s : State} {m : Nat} (isAsync : c.async = true) (full : s.hasRoom m = false) :
    c.run (s.heard m) m (s.req m) = (s.heard m, bare stBusy) := by
  have many : 16 ≤ ((s.heard m).mbx m).heldCount := by
    have := of_decide_eq_false full
    rw [State.mbx_heard]
    change 16 ≤ (s.mbx m).heldCount
    omega
  unfold Command.run
  rw [if_pos isAsync, if_pos many]

end Sys2Proof.Machine

open Sys2Proof Sys2Proof.Machine

/-- Settles O47: every mailbox command is `Command.serve` of its mailbox, whose checks are taken one after the other. -/
theorem mailboxOrder : Obligations.mailboxOrder := by
  unfold Obligations.mailboxOrder
  refine ⟨?waits, ?stopped, ?header, ?session, ?pending, ?repeated, ?command, ?denied, ?argument, ?busy⟩
  case waits =>
    rintro i c s m ⟨box, silent⟩
    exact ⟨_, exec_of_mailboxOf box s, Command.serve_waits silent⟩
  case stopped =>
    rintro i c s m ⟨box, rings, code, stopped⟩
    obtain ⟨frame, -, -, n, mbx⟩ := s.writeAnswer_eq m (s.req m).seq (if s.gable.gstate = .restarting then stBusy else stFault) false 0 []
    refine ⟨_, (exec_of_mailboxOf box s).trans (congrArg Host.Outcome.next (Command.serve_stopped rings code stopped)), ?_, ?_, frame⟩
    · rw [mbx]
    · rw [mbx]
  case header =>
    rintro i c s m ⟨box, rings, running, code, bad⟩
    exact ⟨_, exec_of_mailboxOf box s, Command.serve_refused rings running (fun h => h.1 code) (if_pos bad) (by decide) (.inl (by decide))⟩
  case session =>
    rintro i c s m ⟨box, rings, running, code, flags, res, len, closed⟩
    refine ⟨_, exec_of_mailboxOf box s, Command.serve_refused rings running (fun h => h.1 code) ((if_neg ?_).trans (if_pos ?_)) (by decide) (.inl (by decide))⟩
    · omega
    · rw [State.heard_sessionOk, closed]
  case pending =>
    rintro i c s m ⟨box, rings, running, code, flags, res, len, open_, named, own, runs⟩
    exact ⟨_, exec_of_mailboxOf box s, Command.serve_refused rings running (fun h => h.1 code)
      (Command.judge_pending ⟨flags, res, len, open_, named, own⟩ runs) (by decide) (.inl (by decide))⟩
  case repeated =>
    rintro i c s m q st ⟨box, rings, running, code, flags, res, len, open_, named, own, idle, found⟩
    exact ⟨_, exec_of_mailboxOf box s, Command.serve_refused rings running (fun h => h.1 code)
      (Command.judge_repeated ⟨flags, res, len, open_, named, own⟩ idle found) st.isLt (.inr rfl)⟩
  case command =>
    rintro i c s m ⟨box, ask, running, other, unknown⟩
    exact ⟨_, exec_of_mailboxOf box s, Command.serve_refused (State.asks_iff.mp ask).1 running (fun h => unknown h.2)
      ((Command.judge_own ask running).trans (if_pos other)) (by decide) (.inl (by decide))⟩
  case denied =>
    rintro i c s m ⟨box, ask, running, denied⟩
    obtain ⟨rings, -, -, -, -, -, code, -⟩ := State.asks_iff.mp ask
    exact ⟨_, exec_of_mailboxOf box s, Command.serve_refused rings running (fun h => h.1 code)
      ((Command.judge_own (code.symm ▸ ask) running).trans ((if_neg (fun h => h code)).trans (if_pos denied))) (by decide) (.inl (by decide))⟩
  case argument =>
    rintro i c s m ⟨box, ask, running, may, bad⟩
    obtain ⟨rings, -, -, -, -, -, code, -⟩ := State.asks_iff.mp ask
    refine ⟨_, exec_of_mailboxOf box s, Command.serve_refused rings running (fun h => h.1 code)
      ((Command.judge_own (code.symm ▸ ask) running).trans ?_) (by decide) (.inl (by decide))⟩
    rw [if_neg (fun h => h code), if_neg (by simp [may]), if_pos bad]
  case busy =>
    rintro i c s m ⟨box, ask, running, may, arg, isAsync, full⟩
    obtain ⟨rings, -, -, -, -, -, code, -⟩ := State.asks_iff.mp ask
    refine ⟨_, exec_of_mailboxOf box s, Command.serve_refused rings running (fun h => h.1 code)
      ((Command.judge_own (code.symm ▸ ask) running).trans ?_) (by decide) (.inl (by decide))⟩
    rw [if_neg (fun h => h code), if_neg (by simp [may]), if_neg (by simp [arg]), Command.run_full isAsync full]

end

section
/-! PROOFS. What the end of a session's grants and keys leaves of mailboxes, events and flows (17 R445): answers stand, events that were
raised stay raised, and no flow changes its owner. -/

open Sys2Proof
namespace Sys2Proof.Machine

/-- What a mailbox shows of its session and of the last answer. -/
def Mbx.shown (b : Mbx) : Bool × BitVec 24 × Bool × Bool × Tab (BitVec 8) := (b.bound, b.gen, b.ringing, b.rspValid, b.rsp)

/-- Whose a flow is. -/
def Flow.claim (f : Flow) : Bool × Nat := (f.used, f.owner)

/-- From s to t mailboxes show the same answers, raised events stay raised, and flows keep their owners. -/
structure State.Onward (s t : State) : Prop where
  shown : ∀ k, (t.mbx k).shown = (s.mbx k).shown
  raised : ∀ ev ∈ s.evr.raised, ev ∈ t.evr.raised
  claims : ∀ i, (t.flow i).claim = (s.flow i).claim

theorem State.Onward.refl (s : State) : s.Onward s := ⟨fun _ => rfl, fun _ h => h, fun _ => rfl⟩

theorem State.Onward.trans {s t u : State} (h : s.Onward t) (h' : t.Onward u) : s.Onward u :=
  ⟨fun k => (h'.shown k).trans (h.shown k), fun ev e => h'.raised ev (h.raised ev e), fun i => (h'.claims i).trans (h.claims i)⟩

theorem State.Onward.still {s t : State} (gable : t.gable = s.gable) (evr : t.evr = s.evr) (flows : t.flows = s.flows) : s.Onward t :=
  ⟨fun k => by unfold State.mbx; rw [gable], fun ev e => by rw [evr]; exact e, fun i => by unfold State.flow; rw [flows]⟩

/-- A function that touches none of the three. -/
theorem Steps.onward {ps : List Component} {s t : State} (h : Steps ps s t) (none_ : .gable ∉ ps ∧ .evr ∉ ps ∧ .flows ∉ ps) : s.Onward t :=
  .still (h.1 .gable none_.1) (h.1 .evr none_.2.1) (h.1 .flows none_.2.2)

theorem State.Onward.foldl {A : Type} {s t : State} {f : State → A → State} (start : s.Onward t) (l : List A)
    (h : ∀ u a, s.Onward u → s.Onward (f u a)) : s.Onward (l.foldl f t) := foldl_inv (P := fun u => s.Onward u) h l start

theorem State.Onward.ite {s a b : State} {c : Prop} [Decidable c] (ha : c → s.Onward a) (hb : ¬ c → s.Onward b) : s.Onward (if c then a else b) := by
  by_cases h : c
  · rw [if_pos h]; exact ha h
  · rw [if_neg h]; exact hb h

/-! ### Completions -/

section
variable {s0 s : State} (h : s0.Onward s)
include h

theorem State.modMbx_onward {m : Nat} {f : Mbx → Mbx} (keeps : ∀ b, (f b).shown = b.shown) : s0.Onward (s.modMbx m f) := by
  refine h.trans ⟨fun k => ?_, fun _ e => e, fun _ => rfl⟩
  by_cases own : k = m
  · subst own; rw [State.mbx_modMbx, keeps]
  · rw [State.mbx_modMbx_other s f own]

theorem State.raiseHub_onward {evid data : Nat} {note : Option LogEntry} : s0.Onward (s.raiseHub evid data note) :=
  h.trans ⟨fun _ => rfl, fun _ e => List.mem_append_left _ e, fun _ => rfl⟩

theorem State.mbxRise_onward {m bit : Nat} : s0.Onward (s.mbxRise m bit) := by
  unfold State.mbxRise
  refine .ite (fun _ => ?_) fun _ => h
  exact .ite (fun _ => State.modMbx_onward (State.raiseHub_onward h) (by intros; rfl)) fun _ => State.raiseHub_onward h

theorem State.showNext_onward {m : Nat} : s0.Onward (s.showNext m) := by
  unfold State.showNext
  refine .ite (fun _ => h) fun _ => ?_
  cases (s.mbx m).queue with
  | nil => exact h
  | cons c rest => exact State.mbxRise_onward (State.modMbx_onward h (by intros; rfl))

theorem State.complete_onward {tok status : Nat} {data : List (BitVec 8)} : s0.Onward (s.complete tok status data) := by
  unfold State.complete
  exact .ite (fun _ => State.showNext_onward (State.modMbx_onward h (by intros; rfl))) fun _ => h

theorem State.completeOpt_onward {tok : Option Nat} {status : Nat} {data : List (BitVec 8)} : s0.Onward (s.completeOpt tok status data) := by
  cases tok with
  | none => exact h
  | some t => exact State.complete_onward h

theorem State.completeAll_onward {toks : List Nat} {status : Nat} {data : List (BitVec 8)} : s0.Onward (s.completeAll toks status data) :=
  .foldl h toks fun _ _ hu => State.complete_onward hu

/-! ### Grants -/

theorem State.modDma_onward {c : Nat} {f : DmaCh → DmaCh} : s0.Onward (s.modDma c f) := h.trans (.still rfl rfl rfl)
theorem State.modDram_onward {f : Dram → Dram} : s0.Onward (s.modDram f) := h.trans (.still rfl rfl rfl)
theorem State.setAcls_onward {x : Tab AclTable} : s0.Onward (s.setAcls x) := h.trans (.still rfl rfl rfl)
theorem State.logNote_onward {e : LogEntry} : s0.Onward (s.logNote e) := h.trans (.still rfl rfl rfl)

theorem State.dmaFree_onward {c : Nat} : s0.Onward (s.dmaFree c) := by
  unfold State.dmaFree
  exact State.completeOpt_onward (State.modDma_onward h)

theorem State.dmaHaltNote_onward {c : Nat} : s0.Onward (s.dmaHaltNote c) := by
  unfold State.dmaHaltNote
  exact .ite (fun _ => State.raiseHub_onward h) fun _ => State.logNote_onward h

theorem State.fillEnd_onward {c : Nat} {f : MemFill} {ok : Bool} {resp addr : Nat} : s0.Onward (s.fillEnd c f ok resp addr) := by
  unfold State.fillEnd
  dsimp only
  refine State.complete_onward (.ite (fun _ => State.modDram_onward ?_) fun _ => ?_)
  all_goals exact State.modDram_onward (State.modDma_onward (.foldl h _ fun _ _ hu => State.setAcls_onward hu))

theorem State.dmaGoIdle_onward {c : Nat} : s0.Onward (s.dmaGoIdle c) :=
  h.trans ((State.dmaGoIdle_steps (Steps.refl [.dma] s) (by decide)).onward (by decide))

theorem State.dmaStopped_onward {c : Nat} : s0.Onward (s.dmaStopped c) := by
  unfold State.dmaStopped
  dsimp only
  cases s.fillOf c with
  | some f => exact .ite (fun _ => State.fillEnd_onward (State.dmaHaltNote_onward h)) fun _ => State.fillEnd_onward h
  | none =>
    refine .ite (fun _ => ?_) fun _ => ?_
    · have halted := fun f => State.dmaHaltNote_onward (State.modDma_onward (c := c) (f := f) h) (c := c)
      exact .ite (fun _ => State.dmaFree_onward (halted _)) fun _ => halted _
    · have idle := fun f => State.modDma_onward (c := c) (f := f) h
      exact .ite (fun _ => State.dmaFree_onward (idle _)) fun _ => .ite (fun _ => State.dmaGoIdle_onward (idle _)) fun _ => idle _

theorem State.dmaSettle_onward {c : Nat} : s0.Onward (s.dmaSettle c) := by
  unfold State.dmaSettle
  exact .ite (fun _ => State.dmaStopped_onward h) fun _ => h

theorem State.dmaStop_onward {c : Nat} : s0.Onward (s.dmaStop c) := by
  unfold State.dmaStop
  split
  · exact State.dmaSettle_onward (State.modDma_onward h)
  · exact State.dmaSettle_onward (State.modDma_onward h)
  · exact State.dmaSettle_onward (State.modDma_onward h)
  · exact h

theorem State.dmaRelease_onward {c : Nat} {tok : Option Nat} : s0.Onward (s.dmaRelease c tok) := by
  unfold State.dmaRelease
  dsimp only
  have stopped := fun f => State.dmaStop_onward (State.modDma_onward (c := c) (f := f) h) (c := c)
  split
  · exact .ite (fun _ => State.dmaFree_onward (stopped _)) fun _ => stopped _
  · exact .ite (fun _ => State.dmaFree_onward (stopped _)) fun _ => stopped _
  · exact stopped _

theorem State.dropGrants_onward {sid : Nat} : s0.Onward (s.dropGrants sid) := by
  unfold State.dropGrants
  exact .foldl h _ fun _ _ hu => .ite (fun _ => State.dmaRelease_onward hu) fun _ => hu

/-! ### Packets that a link leaves behind -/

theorem State.inject_onward {n r p : Nat} {k : Pkt} : s0.Onward (s.inject n r p k) := h.trans (.still rfl rfl rfl)
theorem State.modLink_onward {k : Nat} {f : LinkEnd → LinkEnd} : s0.Onward (s.modLink k f) := h.trans (.still rfl rfl rfl)
theorem State.modGuest_onward {g : Nat} {f : GuestSite → GuestSite} : s0.Onward (s.modGuest g f) := h.trans (.still rfl rfl rfl)
theorem State.modMaster_onward {m : BitVec 12} {f : MasterPort → MasterPort} : s0.Onward (s.modMaster m f) := h.trans (.still rfl rfl rfl)
theorem State.modRouter_onward {n r : Nat} {f : Router → Router} : s0.Onward (s.modRouter n r f) := h.trans (.still rfl rfl rfl)
theorem State.modLinkKey_onward {k : Nat} {f : LinkKey → LinkKey} : s0.Onward (s.modLinkKey k f) := h.trans (.still rfl rfl rfl)
theorem State.modLaneset_onward {k : Nat} {f : LaneSet → LaneSet} : s0.Onward (s.modLaneset k f) := h.trans (.still rfl rfl rfl)
theorem State.setFlash_onward {x : Tab FlashUnit} : s0.Onward (s.setFlash x) := h.trans (.still rfl rfl rfl)
theorem State.setLog_onward {l : Log} : s0.Onward (s.setLog l) := h.trans (.still rfl rfl rfl)

theorem State.fromLink_onward {k v : Nat} {p : Pkt} : s0.Onward (s.fromLink k v p) :=
  h.trans ((State.fromLink_steps (Steps.refl [.routers, .links] s) (by decide)).onward (by decide))

theorem State.sendFrom_onward {own : BitVec 16} {k : Pkt} : s0.Onward (s.sendFrom own k) :=
  h.trans ((State.sendFrom_steps (Steps.refl [.routers] s) (by decide)).onward (by decide))

theorem State.raiseEvent_onward {n evid data : Nat} {note : Option LogEntry} : s0.Onward (s.raiseEvent n evid data note) := by
  unfold State.raiseEvent
  exact .ite (fun _ => State.raiseHub_onward h) fun _ => State.inject_onward h

theorem State.noteDenial_onward {n tid : Nat} {k : Pkt} {d : Bool} : s0.Onward (s.noteDenial n tid k d) := by
  unfold State.noteDenial
  dsimp only
  refine .ite (fun _ => .ite (fun _ => State.setLog_onward h) fun _ => State.setLog_onward h) fun _ => ?_
  exact (State.raiseEvent_onward h).trans (.still rfl rfl rfl)

theorem State.creditDue_onward {k v n : Nat} : s0.Onward (s.creditDue k v n) := h.trans (.still rfl rfl rfl)

theorem State.edgeAnswer_onward {key : Nat} {k : Pkt} {resp : BitVec 3} : s0.Onward (s.edgeAnswer key k resp) := by
  unfold State.edgeAnswer
  exact .ite (fun _ => State.modLink_onward h) fun _ => h

theorem State.guestRefuse_onward {key vc : Nat} {k : Pkt} {resp : BitVec 3} : s0.Onward (s.guestRefuse key vc k resp) :=
  State.creditDue_onward (State.edgeAnswer_onward h)

theorem State.guestDrop_onward {key g vc : Nat} {k : Pkt} : s0.Onward (s.guestDrop key g vc k) :=
  State.creditDue_onward (State.noteDenial_onward h)

theorem State.modFlow_onward {i : Nat} {f : Flow → Flow} (keeps : ∀ x, (f x).claim = x.claim) : s0.Onward (s.modFlow i f) := by
  refine h.trans ⟨fun _ => rfl, fun _ e => e, fun j => ?_⟩
  unfold State.flow State.modFlow
  rw [State.setFlows_flows]
  by_cases own : j = i
  · subst own; rw [tget_tmod_same, keeps]
  · rw [tget_tmod_other _ _ _ own]

theorem State.meter_onward {n : Nat} {k : Pkt} : s0.Onward (s.meter n k).1 := by
  unfold State.meter
  split
  · exact h
  · dsimp only
    split
    · exact State.modFlow_onward h (by intros; rfl)
    · exact .ite (fun _ => State.raiseEvent_onward (State.modFlow_onward h (by intros; rfl))) fun _ => State.modFlow_onward h (by intros; rfl)

theorem State.guestEvent_onward {key g vc : Nat} {ok : Bool} {k : Pkt} : s0.Onward (s.guestEvent key g vc ok k) := by
  unfold State.guestEvent
  exact .ite (fun _ => State.fromLink_onward h) fun _ => State.guestDrop_onward h

theorem State.guestResponse_onward {key g vc : Nat} {ok : Bool} {k : Pkt} : s0.Onward (s.guestResponse key g vc ok k) := by
  unfold State.guestResponse
  exact .ite (fun _ => State.guestDrop_onward h) fun _ => State.fromLink_onward (State.modGuest_onward h)

theorem State.guestRequest_onward {key g vc : Nat} {ok : Bool} {k : Pkt} : s0.Onward (s.guestRequest key g vc ok k) := by
  unfold State.guestRequest
  dsimp only
  refine .ite (fun _ => State.guestRefuse_onward (State.noteDenial_onward h)) fun _ => ?_
  refine .ite (fun _ => State.guestRefuse_onward h) fun _ => .ite (fun _ => State.guestRefuse_onward h) fun _ => ?_
  refine .ite (fun _ => State.guestRefuse_onward h) fun _ => ?_
  split
  · exact State.guestRefuse_onward h
  · refine .ite (fun _ => State.guestRefuse_onward h) fun _ => ?_
    exact State.fromLink_onward (State.meter_onward (.ite (fun _ => State.modGuest_onward h) fun _ => h))

theorem guestPacket_onward {key vc hd : Nat} {data : List (BitVec 8)} {bad : Bool} : s0.Onward (guestPacket s key vc hd data bad) := by
  unfold guestPacket
  split
  · exact h
  · dsimp only
    refine .ite (fun _ => State.creditDue_onward h) fun _ => ?_
    split
    · exact State.guestRequest_onward h
    · exact State.guestRequest_onward h
    · exact State.guestResponse_onward h
    · exact State.guestEvent_onward h

theorem State.injectReq_onward {mid : BitVec 12} {q : Req} {tag : BitVec 10} : s0.Onward (s.injectReq mid q tag).1 := by
  unfold State.injectReq
  dsimp only
  have booked : ∀ {c : Prop} [Decidable c] {m : BitVec 12} {f : MasterPort → MasterPort}, s0.Onward (if c then s.modMaster m f else s) :=
    .ite (fun _ => State.modMaster_onward h) fun _ => h
  split
  · split
    · split
      · exact State.sendFrom_onward (State.meter_onward booked)
      · exact .ite (fun _ => State.modMaster_onward booked) fun _ => booked
    · exact .ite (fun _ => State.modMaster_onward booked) fun _ => booked
  · exact h

theorem hostPacket_onward {p vc hd : Nat} {data : List (BitVec 8)} {bad : Bool} : s0.Onward (hostPacket s p vc hd data bad) := by
  unfold hostPacket
  dsimp only
  have due := fun k v n => State.creditDue_onward (k := k) (v := v) (n := n) h
  split
  · exact State.noteDenial_onward (due ..)
  · exact State.noteDenial_onward (due ..)
  · refine .ite (fun _ => State.edgeAnswer_onward (due ..)) fun _ => .ite (fun _ => State.edgeAnswer_onward (due ..)) fun _ => ?_
    exact .ite (fun _ => State.edgeAnswer_onward (due ..)) fun _ => State.injectReq_onward (due ..)

theorem State.cutPacket_onward {k v : Nat} {p : Pkt} : s0.Onward (s.cutPacket k v p) := by
  unfold State.cutPacket
  exact .ite (fun _ => hostPacket_onward h) fun _ => .ite (fun _ => guestPacket_onward h) fun _ => State.fromLink_onward h

theorem State.dropInput_onward {k : Nat} : s0.Onward (s.dropInput k) := by
  unfold State.dropInput
  dsimp only
  cases siteOfKey k with
  | none => exact .foldl h _ fun _ _ hu => State.cutPacket_onward hu
  | some site => exact State.modRouter_onward (.foldl (State.modRouter_onward h) _ fun _ _ hu => State.cutPacket_onward hu)

/-! ### Link keys -/

theorem State.guestLinkGone_onward {g : Nat} : s0.Onward (s.guestLinkGone g) :=
  h.trans ((State.guestLinkGone_steps (Steps.refl [.guests] s) (by decide)).onward (by decide))

theorem State.eventGaps_onward {old : State} {k : Nat} : s0.Onward (State.eventGaps old s k) :=
  h.trans ((State.eventGaps_steps (Steps.refl [.log] s) (by decide)).onward (by decide))

theorem State.linkGone_onward {k : Nat} {tamper : Bool} : s0.Onward (s.linkGone k tamper) := by
  unfold State.linkGone
  dsimp only
  refine State.eventGaps_onward (.ite (fun _ => State.modLinkKey_onward ?_) fun _ => ?_)
  all_goals
    refine .ite (fun _ => State.modMaster_onward ?_) fun _ => ?_
    all_goals
      split
      · exact State.guestLinkGone_onward (State.modLink_onward (State.dropInput_onward h))
      · exact State.modLink_onward (State.dropInput_onward h)

theorem State.leaveActive_onward {k : Nat} {tamper : Bool} : s0.Onward (s.leaveActive k tamper) := by
  unfold State.leaveActive
  have stops := h.trans ((State.laneClockStops_steps (k := k) (Steps.refl [.tb] s) (by decide)).onward (by decide))
  exact .ite (fun _ => stops) fun _ => State.linkGone_onward stops

theorem State.laneOff_onward {k : Nat} : s0.Onward (s.laneOff k) := by
  unfold State.laneOff
  dsimp only
  have off := fun f toks => State.completeAll_onward (State.modLaneset_onward (k := k) (f := f) h) (toks := toks) (status := stOk) (data := [])
  exact .ite (fun _ => State.modLaneset_onward (off ..)) fun _ => off ..

theorem State.eraseLinkKey_onward {k : Nat} : s0.Onward (s.eraseLinkKey k) := by
  unfold State.eraseLinkKey
  exact State.modLinkKey_onward (.ite (fun _ => State.laneOff_onward (State.leaveActive_onward h)) fun _ => h)

theorem State.dropKeys_onward {sid : Nat} : s0.Onward (s.dropKeys sid) := by
  unfold State.dropKeys
  dsimp only
  refine .foldl (.foldl (State.setFlash_onward h) _ fun _ _ hu => State.modLinkKey_onward hu) _ fun _ _ hu => State.eraseLinkKey_onward hu

theorem State.dropAcl_onward {sid : Nat} : s0.Onward (s.dropAcl sid) := h.trans (.still rfl rfl rfl)
theorem State.dropSources_onward {sid : Nat} : s0.Onward (s.dropSources sid) := h.trans (.still rfl rfl rfl)

end

end Sys2Proof.Machine
end

section
/-! PROOFS. Sessions, identification, completions and the port timeout (17 R440, R443 to R445; 01 R46; 07 R205; 19 R491). -/

open Sys2Proof
namespace Sys2Proof.Machine

/-! ### Flows that a session gives back -/

theorem tget_eq_or_mem {V : Type} (d : V) (t : Tab V) (i : Nat) : tget d t i = d ∨ (i, tget d t i) ∈ t := by
  induction t with
  | nil => exact .inl rfl
  | cons e t ih =>
    obtain ⟨k, v⟩ := e
    unfold tget
    by_cases own : k = i
    · subst own; rw [if_pos rfl]; exact .inr (List.mem_cons_self ..)
    · rw [if_neg own]; exact ih.imp_right (List.mem_cons_of_mem _)

theorem Flow.eq_of_claim {f g : Flow} (h : f.claim = g.claim) : f.used = g.used ∧ f.owner = g.owner := Prod.ext_iff.mp h

theorem State.claim_releaseFlow (s : State) (j i : Nat) :
    ((s.releaseFlow j).flow i).claim = if i = j then (false, (s.flow i).owner) else (s.flow i).claim := by
  unfold State.releaseFlow State.flow
  rw [(State.dropRtSrcs_steps (Steps.refl [.dram] _) (by decide)).1 .flows (by decide)]
  unfold State.modFlow
  rw [State.setFlows_flows]
  by_cases own : i = j
  · subst own; rw [if_pos rfl, tget_tmod_same]; rfl
  · rw [if_neg own, tget_tmod_other _ _ _ own]

/-- A flow that is used after a list of flows was released is none of them, and is as it was. -/
theorem State.claim_of_released (l : List Nat) (s : State) (i : Nat) (used : ((l.foldl (fun (s : State) i => s.releaseFlow i) s).flow i).used = true) :
    i ∉ l ∧ ((l.foldl (fun (s : State) i => s.releaseFlow i) s).flow i).claim = (s.flow i).claim := by
  induction l generalizing s with
  | nil => exact ⟨List.not_mem_nil, rfl⟩
  | cons j l ih =>
    rw [List.foldl_cons] at used ⊢
    obtain ⟨out, claim⟩ := ih _ used
    rw [State.claim_releaseFlow] at claim
    by_cases own : i = j
    · rw [if_pos own] at claim
      have freed := congrArg Prod.fst claim
      exact absurd (used.symm.trans freed) Bool.noConfusion
    · rw [if_neg own] at claim
      exact ⟨fun h => (List.mem_cons.mp h).elim own out, claim⟩

/-- Everything a session owns but its flows. -/
def State.freeRest (s : State) (sid : Nat) : State := (((s.dropGrants sid).dropAcl sid).dropKeys sid).dropSources sid

/-- The flows a session owns. -/
def State.ownFlows (s : State) (sid : Nat) : List Nat := (s.flows.filter fun e => e.2.used && e.2.owner == sid).map (·.1)

theorem State.freeOwned_eq (s : State) (sid : Nat) : s.freeOwned sid = ((s.ownFlows sid).foldl (fun (s : State) i => s.releaseFlow i) s).freeRest sid := rfl

theorem State.freeRest_onward (s : State) (sid : Nat) : s.Onward (s.freeRest sid) :=
  State.dropSources_onward (State.dropKeys_onward (State.dropAcl_onward (State.dropGrants_onward (.refl s))))

theorem State.released_frame (s : State) (l : List Nat) : s.changesOnly (l.foldl (fun (s : State) i => s.releaseFlow i) s) [.flows, .dram] :=
  (Steps.foldl _ l (fun u i h => State.releaseFlow_steps h (by decide)) (Steps.refl [.flows, .dram] s)).1

/-- What a session leaves when everything of it is freed: mailboxes show the same, events stay raised, and no flow in use is the session's. -/
theorem State.freeOwned_onward (s : State) (sid : Nat) :
    (∀ k, ((s.freeOwned sid).mbx k).shown = (s.mbx k).shown) ∧ (∀ ev ∈ s.evr.raised, ev ∈ (s.freeOwned sid).evr.raised) ∧
    ∀ i, ((s.freeOwned sid).flow i).used = true → ((s.freeOwned sid).flow i).owner ≠ sid := by
  rw [State.freeOwned_eq]
  have frame := s.released_frame (s.ownFlows sid)
  have gable : ((s.ownFlows sid).foldl (fun (s : State) i => s.releaseFlow i) s).gable = s.gable := frame .gable (by decide)
  have evr : ((s.ownFlows sid).foldl (fun (s : State) i => s.releaseFlow i) s).evr = s.evr := frame .evr (by decide)
  have released := fun i => State.claim_of_released (s.ownFlows sid) s i
  generalize (s.ownFlows sid).foldl (fun (s : State) i => s.releaseFlow i) s = u at gable evr released ⊢
  obtain ⟨shown, raised, claims⟩ := u.freeRest_onward sid
  refine ⟨fun k => ?_, fun ev h => raised ev ?_, fun i used own => ?_⟩
  · exact (shown k).trans (by unfold State.mbx; rw [gable])
  · rw [evr]; exact h
  · obtain ⟨usedEq, ownerEq⟩ := Flow.eq_of_claim (claims i)
    rw [usedEq] at used
    rw [ownerEq] at own
    obtain ⟨out, claim⟩ := released i used
    obtain ⟨usedEq', ownerEq'⟩ := Flow.eq_of_claim claim
    rw [usedEq'] at used
    rw [ownerEq'] at own
    refine out ?_
    rcases tget_eq_or_mem Flow.reset s.flows i with unused | mem
    · exact absurd used (by unfold State.flow; rw [unused]; decide)
    · exact List.mem_map.mpr ⟨_, List.mem_filter.mpr ⟨mem, by simp [show (tget Flow.reset s.flows i).used = true from used,
        show (tget Flow.reset s.flows i).owner = sid from own]⟩, rfl⟩

end Sys2Proof.Machine
end

section
/-! PROOFS. A session closes (17 R444, R445). -/

open Sys2Proof
namespace Sys2Proof.Machine

theorem sidMbx_sid {s : State} {m : Nat} (below : m < 64) (open_ : s.sid m ≠ 0) : sidMbx (s.sid m) = m := by
  unfold State.sid at open_ ⊢
  dsimp only at open_ ⊢
  by_cases bound : (s.mbx m).bound = true
  · rw [if_pos bound]; unfold sidMbx; omega
  · rw [if_neg bound] at open_; exact absurd rfl open_

/-- A completion for a session that is gone changes nothing (17 R445). -/
theorem State.complete_of_closed {s : State} {tok status : Nat} {data : List (BitVec 8)} (closed : s.sidOpen (tok / 65536) = false) :
    s.complete tok status data = s := if_neg (by simp [closed])

theorem State.sidOpen_of_gable_eq {s t : State} (h : t.gable = s.gable) (sid : Nat) : t.sidOpen sid = s.sidOpen sid := by
  unfold State.sidOpen State.sid State.mbx
  rw [h]

theorem State.stream_modSlot (s : State) (slot : Nat) (f : SlotState → SlotState) : (s.modSlot slot f).cfg.stream = s.cfg.stream := by
  unfold State.modSlot State.modCfg
  dsimp only
  split
  · rfl
  · rfl

theorem State.cfg_unbind (s : State) (m : Nat) : (s.unbind m).cfg = s.cfg := rfl

/-- A failing program of a session that is gone: no mailbox, event or flow changes, nor the stream of a load. -/
theorem State.progFail_of_closed {s : State} {cause seg t : Nat} (tok : s.cfg.prog.mbx = some t) (closed : s.sidOpen (t / 65536) = false) :
    (s.progFail cause seg).gable = s.gable ∧ (s.progFail cause seg).evr = s.evr ∧ (s.progFail cause seg).flows = s.flows ∧
    (s.progFail cause seg).cfg.stream = s.cfg.stream := by
  unfold State.progFail
  dsimp only
  generalize failed : ((s.logNote (failLog s.cfg.prog.src cause seg noEvid)).modSlot s.cfg.prog.slot fun x => { x with valid := false, seq := 0, erased := true }).modCfg
    (fun c => { c with causeCmd := BitVec.ofNat 5 cause }) = u
  have frame : s.changesOnly u [.cfg, .log] := by
    rw [← failed]
    exact (State.modCfg_steps (State.modSlot_steps (State.logNote_steps (Steps.refl [.cfg, .log] s) (by decide)) (by decide)) (by decide)).1
  have stream : u.cfg.stream = s.cfg.stream := by rw [← failed]; exact State.stream_modSlot ..
  have shut : u.changesOnly (u.closeStrm true) [.acls, .cfg] := (State.closeStrm_steps (Steps.refl [.acls, .cfg] u) (by decide)).1
  have shutStream : (u.closeStrm true).cfg.stream = u.cfg.stream := by
    unfold State.closeStrm
    dsimp only
    split
    · rfl
    · rfl
  generalize u.closeStrm true = v at shut shutStream ⊢
  have gable : v.gable = s.gable := (shut .gable (by decide)).trans (frame .gable (by decide))
  have same : v.completeOpt s.cfg.prog.mbx stFault (causeBytes cause) = v := by
    rw [tok]
    exact State.complete_of_closed ((State.sidOpen_of_gable_eq gable _).trans closed)
  rw [same]
  exact ⟨gable, (shut .evr (by decide)).trans (frame .evr (by decide)), (shut .flows (by decide)).trans (frame .flows (by decide)),
    shutStream.trans stream⟩

/-- A session that ends: its mailbox is unbound after everything of it was freed. -/
theorem State.endSession_open {s : State} {m : Nat} (below : m < 64) (open_ : s.sid m ≠ 0) :
    s.endSession (s.sid m) = (s.freeOwned (s.sid m)).unbind m := by
  have mbx := sidMbx_sid below open_
  unfold State.endSession State.sidOpen
  rw [mbx, if_pos (by simp [open_])]

/-- Whether a stream is an IMAGE_DATA stream of a session. -/
def Stream.ofSession (x : Stream) (sid : Nat) : Bool := x.isOpen && x.src == 3 && x.mbx.any fun t => t / 65536 == sid

theorem State.closeSession_eq (s : State) (sid : Nat) (keeps : s.cfg.keepSess ≠ some sid) :
    s.closeSession sid = (let u := s.endSession sid
      let u := if u.cfg.prog.ofSession sid then u.strmFail true cPushTimeout u.cfg.prog.segIdx else u
      if u.cfg.stream.ofSession sid then u.strmFail false cPushTimeout u.cfg.stream.segIdx else u) := by
  unfold State.closeSession
  dsimp only
  rw [if_neg keeps]
  rfl

/-- What a closed session leaves: its mailbox unbound, every other mailbox's answers, the events, and no flow in use of it. -/
theorem State.closeSession_leaves {s : State} {m : Nat} (below : m < 64) (open_ : s.sid m ≠ 0) (keeps : s.cfg.keepSess ≠ some (s.sid m))
    (pushing : s.cfg.stream.ofSession (s.sid m) = false) :
    ((s.closeSession (s.sid m)).mbx m = (((s.freeOwned (s.sid m)).mbx m).unbound)) ∧
    (∀ ev ∈ s.evr.raised, ev ∈ (s.closeSession (s.sid m)).evr.raised) ∧
    ∀ i, ((s.closeSession (s.sid m)).flow i).used = true → ((s.closeSession (s.sid m)).flow i).owner ≠ s.sid m := by
  rw [State.closeSession_eq s _ keeps, State.endSession_open below open_]
  have cfg : ((s.freeOwned (s.sid m)).unbind m).cfg = s.cfg := (State.cfg_unbind _ m).trans <|
    (State.freeOwned_steps (sid := s.sid m) (Steps.refl [.acls, .dies, .routers, .masters, .flows, .lanesets, .links, .guests, .linkKeys, .tb, .dram, .flash,
      .dma, .gable, .log, .evr] s) (by decide)).1 .cfg (by decide)
  obtain ⟨-, raised, flows⟩ := s.freeOwned_onward (s.sid m)
  generalize s.freeOwned (s.sid m) = f at cfg raised flows ⊢
  have unbound : (f.unbind m).mbx m = (f.mbx m).unbound := State.mbx_modMbx ..
  have raised' : ∀ ev ∈ s.evr.raised, ev ∈ (f.unbind m).evr.raised := raised
  have flows' : ∀ i, ((f.unbind m).flow i).used = true → ((f.unbind m).flow i).owner ≠ s.sid m := flows
  have closed : (f.unbind m).sidOpen (s.sid m) = false := by
    have gone : (f.unbind m).sid m = 0 := by unfold State.sid; rw [unbound]; rfl
    unfold State.sidOpen
    rw [sidMbx_sid below open_, gone]
    simp [Ne.symm open_]
  generalize f.unbind m = u at cfg unbound raised' flows' closed ⊢
  dsimp only
  by_cases prog : u.cfg.prog.ofSession (s.sid m) = true
  · rw [if_pos prog]
    unfold Stream.ofSession at prog
    simp only [Bool.and_eq_true] at prog
    obtain ⟨t, tok, own⟩ := (Option.any_eq_true ..).mp prog.2
    have own' : t / 65536 = s.sid m := by simpa using own
    have fails : ∀ c g, u.strmFail true c g = u.progFail c g := fun _ _ => rfl
    rw [fails]
    obtain ⟨gable, evr, flow, stream⟩ := State.progFail_of_closed (cause := cPushTimeout) (seg := u.cfg.prog.segIdx) tok (by rw [own']; exact closed)
    generalize u.progFail cPushTimeout u.cfg.prog.segIdx = v at gable evr flow stream ⊢
    rw [if_neg (by rw [stream, cfg, pushing]; decide)]
    refine ⟨?_, ?_, ?_⟩
    · rw [← unbound]; unfold State.mbx; rw [gable]
    · rw [evr]; exact raised'
    · unfold State.flow at flows' ⊢; rw [flow]; exact flows'
  · rw [if_neg prog, if_neg (by rw [cfg, pushing]; decide)]
    exact ⟨unbound, raised', flows'⟩

end Sys2Proof.Machine
end

section
/-! PROOFS. The session commands of the gable controller (17 R440, R443 to R445; 01 R46; 07 R205; 19 R491). -/

open Sys2Proof
namespace Sys2Proof.Machine

/-! ### MBX_OPEN (17 R443) -/

/-- The answer of an MBX_OPEN that opened a session, and its record. -/
def State.opening (s : State) (m : Nat) (data : List (BitVec 8)) (keeps : Bool) : State :=
  let t := s.writeAnswer m (s.req m).seq stOk false (s.sid m) data
  if keeps = true then t.modMbx m fun b => b.record (s.req m).seq stOk else t

/-- A session of this mailbox is bound. -/
def State.opened (s : State) (m : Nat) : State :=
  s.modMbx m fun b => b.openSession (s.rolesOf (s.mbx m).ringSrc) (hbPeriod ((s.req m).num 4 4)) s.now

/-- The results of MBX_OPEN in the state it opened. -/
def State.openResult (s : State) (m ifVer hb : Nat) (roles : BitVec 4) : List (BitVec 8) :=
  leBytes 4 (s.sid m) ++ leBytes 1 roles.toNat ++ leBytes 3 0 ++ leBytes 2 ifVer ++ leBytes 2 0 ++ leBytes 4 hb

/-- The arguments of MBX_OPEN are well formed. -/
theorem cmdMbxOpen_argOk {s : State} {r : Request} (len : r.len = 8) (zero : r.zero 2 2 = true)
    (hb : r.num 4 4 = 0 ∨ (100 ≤ r.num 4 4 ∧ r.num 4 4 ≤ 600000)) : cmdMbxOpen.argOk s r = true := by
  change (r.len == 8 && r.zero 2 2 && (r.num 4 4 == 0 || (decide (100 ≤ r.num 4 4) && decide (r.num 4 4 ≤ 600000)))) = true
  simp only [len, zero, beq_self_eq_true, Bool.and_true, Bool.true_and, Bool.or_eq_true, beq_iff_eq, Bool.and_eq_true, decide_eq_true_eq]
  exact hb

/-- The session an MBX_OPEN names: none where the mailbox is unbound, its own where it is bound. -/
theorem State.session_of_mbxOpen {s : State} {m : Nat} (ask : s.asks m 0x0900 = true) :
    (s.req m).session = if (s.mbx m).bound = true then s.sid m else 0 := by
  obtain ⟨-, -, -, -, -, session, code, -⟩ := State.asks_iff.mp ask
  unfold State.sessionOk at session
  rw [code] at session
  dsimp only at session
  split at session
  · exact absurd session (by decide)
  · by_cases bound : (s.mbx m).bound = true
    · rw [if_pos bound] at session ⊢
      simpa using session
    · rw [if_neg bound] at session ⊢
      simpa using session

theorem cmdMbxOpen_judge {s : State} {m : Nat} (ask : s.asks m 0x0900 = true) (running : s.gable.gstate = .running)
    (arg : cmdMbxOpen.argOk (s.heard m) (s.req m) = true) :
    cmdMbxOpen.judge (s.heard m) m (s.req m) = (((s.heard m).mbxOpen m (s.req m)).1, ((s.heard m).mbxOpen m (s.req m)).2, false) := by
  obtain ⟨-, -, -, -, -, -, code, -⟩ := State.asks_iff.mp ask
  rw [Command.judge_own (code.symm ▸ ask) running, if_neg (fun h => h code), if_neg (show ¬ cmdMbxOpen.may (s.heard m) m (s.req m) = false from Bool.noConfusion),
    if_neg (by rw [arg]; decide)]
  rfl

/-- A refused MBX_OPEN. -/
theorem exec_mbxOpen_refused {s : State} {m st : Nat} (ask : s.asks m 0x0900 = true) (running : s.gable.gstate = .running)
    (arg : cmdMbxOpen.argOk (s.heard m) (s.req m) = true) (refuses : (s.heard m).mbxOpen m (s.req m) = (s.heard m, bare st)) (small : st < 0x100)
    (notOk : st ≠ stOk) : ∃ keeps, exec (.mbxOpen m) s = .next (s.refusal m st false keeps) := by
  obtain ⟨rings, -, -, -, -, -, code, -⟩ := State.asks_iff.mp ask
  have judged := cmdMbxOpen_judge ask running arg
  rw [refuses] at judged
  obtain ⟨keeps, served⟩ := Command.serve_refusal rings running (fun h => h.1 code) judged small (.inl notOk)
  exact ⟨keeps, congrArg Host.Outcome.next served⟩

/-- The binding and opener of a mailbox stand through a refusal. -/
theorem State.opener_refusal (s : State) (m st : Nat) (dup keeps : Bool) :
    (((s.refusal m st dup keeps).mbx m).bound = (s.mbx m).bound) ∧ (((s.refusal m st dup keeps).mbx m).gen = (s.mbx m).gen) ∧
    (((s.refusal m st dup keeps).mbx m).opener = (s.mbx m).opener) := by
  unfold State.refusal
  dsimp only
  obtain ⟨-, -, -, n, mbx⟩ := State.writeAnswer_eq (s.heard m) m (s.req m).seq st dup (if (s.req m).session = s.sid m then s.sid m else 0) []
  generalize (s.heard m).writeAnswer m (s.req m).seq st dup (if (s.req m).session = s.sid m then s.sid m else 0) [] = t at *
  rw [State.mbx_heard] at mbx
  cases keeps with
  | false => rw [if_neg Bool.false_ne_true, mbx]; exact ⟨rfl, rfl, rfl⟩
  | true => rw [if_pos rfl, State.mbx_modMbx, mbx]; exact ⟨rfl, rfl, rfl⟩

/-- An MBX_OPEN of an unbound mailbox with an offered version. -/
theorem exec_mbxOpen_opens {s : State} {m : Nat} (ask : s.asks m 0x0900 = true) (running : s.gable.gstate = .running) (unbound : (s.mbx m).bound = false)
    (arg : cmdMbxOpen.argOk (s.heard m) (s.req m) = true) (major : (s.req m).num 0 1 = s.ifVer / 256) (minor : (s.req m).num 1 1 ≤ s.ifVer % 256) :
    ∃ keeps, exec (.mbxOpen m) s = .next ((s.opened m).opening m
      ((s.opened m).openResult m s.ifVer (hbPeriod ((s.req m).num 4 4)) (s.rolesOf (s.mbx m).ringSrc)) keeps) := by
  obtain ⟨rings, -, -, -, -, -, code, -⟩ := State.asks_iff.mp ask
  have none_ : (s.req m).session = 0 := by rw [State.session_of_mbxOpen ask, unbound]; rfl
  have notIn : ((s.req m).session != 0 && (s.req m).session == s.sid m) = false := by simp [none_]
  have heard : s.heard m = s := by unfold State.heard; rw [notIn]; rfl
  have judged := cmdMbxOpen_judge ask running arg
  rw [heard] at judged
  have body : s.mbxOpen m (s.req m) = (s.opened m, okReply ((s.opened m).openResult m s.ifVer (hbPeriod ((s.req m).num 4 4)) (s.rolesOf (s.mbx m).ringSrc))) := by
    unfold State.mbxOpen
    rw [if_neg (by simp [unbound]), if_neg (by omega)]
    rfl
  rw [body] at judged
  have mine : (s.opened m).req m = s.req m := by unfold State.req State.opened; rw [State.mbx_modMbx]; rfl
  have opened : ((s.req m).cmd == 0x0900 && stOk == stOk && !false) = true := by rw [code]; rfl
  have served : ∃ keeps, cmdMbxOpen.serve m s = (s.opened m).opening m
      ((s.opened m).openResult m s.ifVer (hbPeriod ((s.req m).num 4 4)) (s.rolesOf (s.mbx m).ringSrc)) keeps := by
    generalize s.opened m = u at judged mine ⊢
    generalize u.openResult m s.ifVer (hbPeriod ((s.req m).num 4 4)) (s.rolesOf (s.mbx m).ringSrc) = data at judged ⊢
    unfold Command.serve
    dsimp only
    rw [← State.req, if_neg (Command.taken_of_rings rings fun h => h.1 code), running]
    dsimp only
    simp only [notIn, if_neg Bool.false_ne_true]
    rw [judged]
    unfold okReply
    simp only [opened, if_pos, if_neg (show stOk ≠ stLater by decide)]
    unfold State.opening
    rw [mine]
    exact ⟨_, ite_self ..⟩
  obtain ⟨keeps, served⟩ := served
  exact ⟨keeps, congrArg Host.Outcome.next served⟩

/-- The mailbox of a session that was opened, after the answer. -/
theorem State.mbx_opening (u : State) (m : Nat) (data : List (BitVec 8)) (keeps : Bool) : ∃ (n : Bool) (l : BitVec 16) (r : List (BitVec 16 × BitVec 8)),
    (u.opening m data keeps).mbx m = { u.mbx m with ringing := false, deferred := false, rspValid := true,
                                                         rsp := answerBytes stOk (u.req m).seq false false (u.sid m) data, lastSeq := l, notify := n, recorded := r } := by
  unfold State.opening
  dsimp only
  obtain ⟨-, -, -, n, mbx⟩ := State.writeAnswer_eq u m (u.req m).seq stOk false (u.sid m) data
  cases keeps with
  | false => rw [if_neg Bool.false_ne_true]; exact ⟨_, _, _, mbx⟩
  | true => rw [if_pos rfl, State.mbx_modMbx, mbx]; exact ⟨_, _, _, rfl⟩

end Sys2Proof.Machine
end

section
/-! PROOFS. The statement about sessions, identification, completions and the port timeout (17 R440, R443 to R445; 01 R46; 07 R205; 19 R491). -/

open Sys2Proof
namespace Sys2Proof.Machine

/-! ### Commands of an open session -/

/-- A command that answers from the state and leaves it as it is. -/
theorem Command.serve_answers {c : Command} {s : State} {m : Nat} {data : List (BitVec 8)} (ask : s.asks m c.code = true) (opens : c.code ≠ 0x0900)
    (sync : c.async = false) (may : c.may (s.heard m) m (s.req m) = true) (arg : c.argOk (s.heard m) (s.req m) = true)
    (body : c.body (s.heard m) m (s.req m) = (s.heard m, okReply data)) :
    ∃ u, c.serve m s = c.after u m ∧ s.answered u m stOk data ∧ s.changesOnly u [.gable, .evr] ∧ (∀ k, k ≠ m → u.mbx k = s.mbx k) ∧
      ∃ (n : Bool) (l : BitVec 16) (r : List (BitVec 16 × BitVec 8)) (q : Tab (BitVec 8)) (d : Nat), u.mbx m = { s.mbx m with ringing := false, deferred := false, rspValid := true, rsp := q, lastSeq := l, notify := n, recorded := r, hbAt := ((s.heard m).mbx m).hbAt, hbUsed := d } := by
  obtain ⟨u, run, answer, frame, others, -, n, l, r, own⟩ := Command.serve_body ask opens sync may arg body (by decide)
  have heard : s.changesOnly (s.heard m) [.gable, .evr] := fun p hp => s.heard_frame m p fun h => hp (by simp at h; simp [h])
  refine ⟨u, by rw [run, if_pos rfl], answer, State.changesOnly_trans heard frame, fun k other => ?_, n, l, r,
    answerBytes stOk (s.req m).seq false false (s.req m).session data, ((s.heard m).mbx m).hbUsed, ?_⟩
  · rw [others k other]
    unfold State.heard
    split
    · exact State.mbx_modMbx_other _ _ other
    · rfl
  · rw [own, State.mbx_heard]

theorem State.sid_of_mbx_eq {s t : State} {k : Nat} (h : (t.mbx k).bound = (s.mbx k).bound ∧ (t.mbx k).gen = (s.mbx k).gen) : t.sid k = s.sid k := by
  unfold State.sid
  dsimp only
  rw [h.1, h.2]

/-- A request with a session named is the mailbox's own (17 R443). -/
theorem State.session_own {s : State} {m code : Nat} (ask : s.asks m code = true) (high : code / 256 ≠ 0) (opens : code ≠ 0x0900) :
    (s.req m).session = s.sid m := by
  obtain ⟨-, -, -, -, -, session, cmd, -⟩ := State.asks_iff.mp ask
  unfold State.sessionOk at session
  rw [cmd] at session
  dsimp only at session
  split at session
  · exact absurd session (by decide)
  · split at session
    · simpa [high] using session
    · simp [high, opens] at session

theorem Mbx.shown_unbound (b : Mbx) : b.unbound.shown = (false, b.shown.2) := rfl

theorem exec_mbxClose {s : State} {m : Nat} (ask : s.asks m 0x0901 = true) (len : (s.req m).len = 0) (open_ : s.sid m ≠ 0)
    (keeps : s.cfg.keepSess ≠ some (s.sid m)) (pushing : s.cfg.stream.ofSession (s.sid m) = false) :
    ∃ t, exec (.mbxClose m) s = .next t ∧ s.answered t m stOk [] ∧
      ((t.mbx m).bound = false ∧ (t.mbx m).roles = 0 ∧ (t.mbx m).irqEn = 0 ∧ (t.mbx m).running = [] ∧ (t.mbx m).queue = []) ∧
      ∀ i, (t.flow i).used = true → (t.flow i).owner ≠ s.sid m := by
  have below : m < 64 := (State.rings_iff.mp (State.asks_iff.mp ask).1).1
  obtain ⟨u, run, ⟨ringing, valid, rsp⟩, frame, -, n, l, r, q, d, own⟩ := Command.serve_answers (c := cmdMbxClose) ask (by decide) rfl rfl
    (beq_iff_eq.mpr len) rfl
  have sid : u.sid m = s.sid m := State.sid_of_mbx_eq (by rw [own]; exact ⟨rfl, rfl⟩)
  have cfg : u.cfg = s.cfg := frame .cfg (by decide)
  have run' : cmdMbxClose.serve m s = u.closeSession (s.sid m) := by rw [← sid]; exact run
  have leaves := State.closeSession_leaves (s := u) below (by rw [sid]; exact open_) (by rw [cfg, sid]; exact keeps) (by rw [cfg, sid]; exact pushing)
  obtain ⟨shown, -, -⟩ := u.freeOwned_onward (u.sid m)
  rw [sid] at leaves shown
  obtain ⟨unbound, -, flows⟩ := leaves
  have answer : ((u.closeSession (s.sid m)).mbx m).shown = (false, (u.mbx m).shown.2) := by rw [unbound, Mbx.shown_unbound, shown m]
  simp only [Mbx.shown, Prod.mk.injEq] at answer
  obtain ⟨-, -, ringing', valid', rsp'⟩ := answer
  refine ⟨_, congrArg Host.Outcome.next run', ⟨ringing'.trans ringing, valid'.trans valid, rsp'.trans rsp⟩, ?_, flows⟩
  rw [unbound]
  exact ⟨rfl, rfl, rfl, rfl, rfl⟩

theorem exec_mbxHeartbeat {s : State} {m : Nat} (ask : s.asks m 0x0902 = true) (len : (s.req m).len = 0) (open_ : s.sid m ≠ 0) :
    ∃ t, exec (.mbxHeartbeat m) s = .next t ∧ s.answered t m stOk [] ∧ (t.mbx m).hbAt = s.now ∧ (t.mbx m).hbUsed = 0 ∧ (t.mbx m).bound = (s.mbx m).bound := by
  obtain ⟨u, run, answer, -, -, -, n, l, r, own⟩ := Command.serve_body (c := cmdMbxHeartbeat) (s2 := s.heard m) ask (by decide) rfl rfl
    (beq_iff_eq.mpr len) rfl (by decide : stOk < 0x100)
  rw [if_pos rfl] at run
  have named : (s.req m).session = s.sid m := State.session_own ask (by decide) (by decide)
  have heard : (s.heard m).mbx m = { s.mbx m with hbAt := s.now, hbUsed := 0 } := by
    unfold State.heard
    rw [if_pos (by simp [named, open_]), State.mbx_modMbx]
  rw [heard] at own
  refine ⟨u, congrArg Host.Outcome.next run, answer, ?_, ?_, ?_⟩
  · rw [own]
  · rw [own]
  · rw [own]

theorem exec_heartbeatTimeout {s : State} {m : Nat} (due : s.hbDue m = true) (open_ : s.sid m ≠ 0) (below : m < 64)
    (keeps : s.cfg.keepSess ≠ some (s.sid m)) (pushing : s.cfg.stream.ofSession (s.sid m) = false) :
    ∃ t, exec (.heartbeatTimeout m) s = .next t ∧ (t.mbx m).bound = false ∧ ∃ ev ∈ t.evr.raised, ev.evid = 0x3A7 ∧ ev.evdata = BitVec.ofNat 32 m := by
  have run : exec (.heartbeatTimeout m) s = .next ((s.raiseHub 0x3A7 m (some (mkEntry 0x16 1 0x3A7 (8 + atLo m 4 + atLo (s.mbx m).opener.toNat 10)
      (s.sid m)))).closeSession (s.sid m)) := congrArg Host.Outcome.next (if_pos due)
  rw [run]
  generalize some (mkEntry 0x16 1 0x3A7 (8 + atLo m 4 + atLo (s.mbx m).opener.toNat 10) (s.sid m)) = note
  generalize raises : s.raiseHub 0x3A7 m note = u
  have sid : u.sid m = s.sid m := by rw [← raises]; rfl
  have cfg : u.cfg = s.cfg := by rw [← raises]; rfl
  have raised : s.mkEvent 8 0x3A7 m note ∈ u.evr.raised := by rw [← raises]; exact List.mem_append_right _ (List.mem_singleton.mpr rfl)
  rw [← sid]
  obtain ⟨unbound, stays, -⟩ := State.closeSession_leaves (s := u) below (by rw [sid]; exact open_) (by rw [cfg, sid]; exact keeps) (by rw [cfg, sid]; exact pushing)
  exact ⟨_, rfl, by rw [unbound]; rfl, _, stays _ raised, rfl, rfl⟩

/-! ### Identification and the list of sessions -/

/-- What MBX_SESSIONS says of a mailbox. -/
def State.sessionWords (s : State) (k : Nat) : Bool × List (BitVec 8) := ((s.mbx k).bound, s.sessionRecord k)

theorem State.mbx_heard_other (s : State) {m k : Nat} (other : k ≠ m) : (s.heard m).mbx k = s.mbx k := by
  unfold State.heard
  split
  · exact State.mbx_modMbx_other _ _ other
  · rfl

theorem State.heard_sids (s : State) (m k : Nat) : (s.heard m).sid k = s.sid k := by
  by_cases own : k = m
  · subst own; exact s.heard_sid k
  · exact State.sid_of_mbx_eq (by rw [s.mbx_heard_other own]; exact ⟨rfl, rfl⟩)

theorem State.sessionWords_heard (s : State) (m k : Nat) : (s.heard m).sessionWords k = s.sessionWords k := by
  unfold State.sessionWords State.sessionRecord
  rw [s.heard_sids m k]
  by_cases own : k = m
  · subst own; rw [State.mbx_heard]
  · rw [s.mbx_heard_other own]

/-- The mailboxes that MBX_SESSIONS lists from one on. -/
def State.listed (s : State) (start : Nat) : List Nat := (((List.range 64).drop start).filter fun k => (s.mbx k).bound).take 29

/-- The answer of MBX_SESSIONS. -/
def State.listing (s : State) (start : Nat) : List (BitVec 8) :=
  leBytes 1 (s.listed start).length ++ leBytes 3 0 ++ ((s.listed start).map fun k => s.sessionRecord k).flatten

theorem State.listing_heard (s : State) (m start : Nat) : (s.heard m).listing start = s.listing start := by
  have bound : ∀ k, ((s.heard m).mbx k).bound = (s.mbx k).bound := fun k => congrArg Prod.fst (s.sessionWords_heard m k)
  have record : ∀ k, (s.heard m).sessionRecord k = s.sessionRecord k := fun k => congrArg Prod.snd (s.sessionWords_heard m k)
  unfold State.listing State.listed
  simp only [bound, record]

theorem exec_mbxSessions {s : State} {m : Nat} (ask : s.asks m 0x0903 = true) (len : (s.req m).len = 4) (zero : (s.req m).zero 1 3 = true)
    (start : (s.req m).num 0 1 < 64) :
    ∃ t, exec (.mbxSessions m) s = .next t ∧ (∀ k, t.sid k = s.sid k) ∧ s.answered t m stOk (s.listing ((s.req m).num 0 1)) := by
  have arg : cmdMbxSessions.argOk (s.heard m) (s.req m) = true := by
    change ((s.req m).len == 4 && (s.req m).zero 1 3 && decide ((s.req m).num 0 1 < 64)) = true
    simp [len, zero, start]
  have body : cmdMbxSessions.body (s.heard m) m (s.req m) = (s.heard m, okReply (s.listing ((s.req m).num 0 1))) := by
    rw [← s.listing_heard m]; rfl
  obtain ⟨u, run, answer, -, others, n, l, r, q, d, own⟩ := Command.serve_answers ask (by decide) rfl rfl arg body
  refine ⟨u, congrArg Host.Outcome.next run, fun k => State.sid_of_mbx_eq ?_, answer⟩
  by_cases same : k = m
  · subst same; rw [own]; exact ⟨rfl, rfl⟩
  · rw [others k same]; exact ⟨rfl, rfl⟩

theorem exec_idGet {s : State} {m : Nat} (ask : s.asks m 0x0000 = true) (len : (s.req m).len = 0) :
    ∃ t, exec (.idGet m) s = .next t ∧ s.answered t m stOk (leBytes 4 s.fuses.part.code ++ leBytes 4 s.idTopology ++ leBytes 4 0xB0 ++
      leBytes 4 s.ids.gableIf.toNat ++ leBytes 8 s.ids.bundle.toNat ++ leBytes 8 s.fuses.unique.toNat) ∧ t.ids = s.ids := by
  have body : cmdIdGet.body (s.heard m) m (s.req m) = (s.heard m, okReply (leBytes 4 s.fuses.part.code ++ leBytes 4 s.idTopology ++ leBytes 4 0xB0 ++
      leBytes 4 s.ids.gableIf.toNat ++ leBytes 8 s.ids.bundle.toNat ++ leBytes 8 s.fuses.unique.toNat)) := by
    obtain ⟨g, heard⟩ := s.heard_eq_setGable m
    rw [heard]
    rfl
  obtain ⟨u, run, answer, frame, -⟩ := Command.serve_answers ask (by decide) rfl rfl (beq_iff_eq.mpr len) body
  exact ⟨u, congrArg Host.Outcome.next run, answer, frame .ids (by decide)⟩

theorem exec_fwInfo {s : State} {m : Nat} (ask : s.asks m 0x0001 = true) (running : s.gable.gstate = .running) (len : (s.req m).len = 0) :
    ∃ t, exec (.fwInfo m) s = .next t ∧ s.answered t m stOk (leBytes 2 s.cfg.fwIf.toNat ++ leBytes 2 0 ++ leBytes 8 s.ids.bundle.toNat ++
      leBytes 2 s.gable.restarts.toNat ++ leBytes 1 s.gable.cause.toNat ++ leBytes 1 s.sessions.length) := by
  have sids : (s.heard m).sessions = s.sessions := by
    unfold State.sessions
    simp only [s.heard_sids m]
  have ifVer : (s.heard m).ifVer = s.cfg.fwIf.toNat := by
    unfold State.ifVer
    rw [State.heard_gstate, running, if_neg (by decide), State.heard_cfg]
  have gable : (s.heard m).gable.restarts = s.gable.restarts ∧ (s.heard m).gable.cause = s.gable.cause ∧ (s.heard m).ids = s.ids := by
    unfold State.heard
    split
    · exact ⟨rfl, rfl, rfl⟩
    · exact ⟨rfl, rfl, rfl⟩
  obtain ⟨restarts, cause, ids⟩ := gable
  have body : cmdFwInfo.body (s.heard m) m (s.req m) = (s.heard m, okReply (leBytes 2 s.cfg.fwIf.toNat ++ leBytes 2 0 ++ leBytes 8 s.ids.bundle.toNat ++
      leBytes 2 s.gable.restarts.toNat ++ leBytes 1 s.gable.cause.toNat ++ leBytes 1 s.sessions.length)) := by
    rw [← ifVer, ← restarts, ← cause, ← ids, ← sids]; rfl
  obtain ⟨u, run, answer, -⟩ := Command.serve_answers ask (by decide) rfl rfl (beq_iff_eq.mpr len) body
  exact ⟨u, congrArg Host.Outcome.next run, answer⟩

/-! ### PORT_TIMEOUT (07 R205) -/

theorem State.timeoutUs_setTimeout (s : State) (mid : BitVec 12) {us : Nat} (range : us ≤ 1048575) : (s.setTimeout mid us).timeoutUs mid = us := by
  have value : (BitVec.ofNat 20 us).toNat = us := by rw [BitVec.toNat_ofNat]; omega
  unfold State.setTimeout State.timeoutUs
  dsimp only
  by_cases fabric : mid.toNat / 256 < 8
  · rw [if_pos fabric, if_pos fabric]
    rw [State.router_modRouter]
    by_cases even : mid.toNat % 256 % 2 = 0
    · rw [if_pos even, if_pos even]; exact value
    · rw [if_neg even, if_neg even]; exact value
  · rw [if_neg fabric, if_neg fabric]
    rw [State.master_modMaster]
    exact value

/-- An admitted flow of a master whose deadline needs more than a timeout. -/
def State.flowNeeds (s : State) (mid : BitVec 12) (us : Nat) : Bool :=
  s.flows.any fun e => e.2.used && e.2.mid == mid && e.2.cls == .req && decide (us * 1000 ≤ e.2.deadline.toNat)

/-- A well-formed PORT_TIMEOUT. -/
structure State.timeoutAsked (s : State) (m : Nat) : Prop where
  ask : s.asks m 0x0203 = true
  role : s.hasRole m roleC = true
  len : (s.req m).len = 8
  zero : (s.req m).zero 2 2 = true
  mid : (s.req m).num 0 2 < 4096
  master : s.isMaster (BitVec.ofNat 12 ((s.req m).num 0 2)) = true
  low : 1 ≤ (s.req m).num 4 4
  high : (s.req m).num 4 4 ≤ 1048575

theorem cmdPortTimeout_serving {s : State} {m : Nat} (asked : s.timeoutAsked m) :
    ∃ g, Gable.hearing s m g ∧ ∀ {s2 : State} {st : Nat} {data : List (BitVec 8)}, cmdPortTimeout.body (s.setGable g) m (s.req m) = (s2, ⟨st, data⟩) → st < 0x100 →
      ∃ t, cmdPortTimeout.serve m s = t ∧ s.answered t m st data ∧ s2.changesOnly t [.gable, .evr] := by
  obtain ⟨ask, role, len, zero, mid, master, low, high⟩ := asked
  refine Command.serving ask (by decide) rfl ((s.heard_hasRole m roleC).trans role) (fun g => ?_) (fun h => nomatch h)
  change ((s.req m).len == 8 && (s.req m).zero 2 2 && decide ((s.req m).num 0 2 < 4096) && s.isMaster (BitVec.ofNat 12 ((s.req m).num 0 2)) &&
    decide (1 ≤ (s.req m).num 4 4) && decide ((s.req m).num 4 4 ≤ 1048575)) = true
  simp [len, zero, mid, master, low, high]

theorem exec_portTimeout_sets {s : State} {m : Nat} (asked : s.timeoutAsked m)
    (free : s.flowNeeds (BitVec.ofNat 12 ((s.req m).num 0 2)) ((s.req m).num 4 4) = false) :
    ∃ t, exec (.portTimeout m) s = .next t ∧ s.answered t m stOk [] ∧ t.timeoutUs (BitVec.ofNat 12 ((s.req m).num 0 2)) = (s.req m).num 4 4 := by
  obtain ⟨g, -, serves⟩ := cmdPortTimeout_serving asked
  have body : cmdPortTimeout.body (s.setGable g) m (s.req m) =
      ((s.setGable g).setTimeout (BitVec.ofNat 12 ((s.req m).num 0 2)) ((s.req m).num 4 4), okReply []) := if_neg (ne_true_of_eq_false free)
  obtain ⟨t, run, answer, frame⟩ := serves body (by decide)
  refine ⟨t, congrArg Host.Outcome.next run, answer, ?_⟩
  have set := (s.setGable g).timeoutUs_setTimeout (BitVec.ofNat 12 ((s.req m).num 0 2)) asked.high
  unfold State.timeoutUs State.router State.master at set ⊢
  rw [show t.routers = _ from frame .routers (by decide), show t.masters = _ from frame .masters (by decide)]
  exact set

theorem exec_portTimeout_flow {s : State} {m : Nat} (asked : s.timeoutAsked m)
    (needed : s.flowNeeds (BitVec.ofNat 12 ((s.req m).num 0 2)) ((s.req m).num 4 4) = true) :
    ∃ t, exec (.portTimeout m) s = .next t ∧ s.answered t m stState [] ∧ t.routers = s.routers ∧ t.masters = s.masters := by
  obtain ⟨g, -, serves⟩ := cmdPortTimeout_serving asked
  have body : cmdPortTimeout.body (s.setGable g) m (s.req m) = (s.setGable g, bare stState) := if_pos needed
  obtain ⟨t, run, answer, frame⟩ := serves body (by decide)
  exact ⟨t, congrArg Host.Outcome.next run, answer, frame .routers (by decide), frame .masters (by decide)⟩

/-! ### MBX_CPL_ACK and MBX_EVPOP (17 R440; 19 R491) -/

theorem exec_mbxCplAck {s : State} {w : Who} {m : Nat} (reach : s.reaches w (hubBase 1 + m * 0x1000 + 0x210) true = true) :
    exec (.mbxCplAck w m) s = .next ((s.cplAck m).answer respOk 0) := by
  have page : s.mbxPageWrite w.src m 0x210 (leBytes 4 1) = (s.cplAck m, respOk) := by
    have one : numAt (leBytes 4 1) 0 4 = 1 := by decide
    have len : (leBytes 4 1).length = 4 := rfl
    unfold State.mbxPageWrite State.mbxPut
    dsimp only
    simp [one, len]
  have run := State.access_of_reaches (body := fun s => let r := s.mbxPageWrite w.src m 0x210 (leBytes 4 1); (r.1, r.2, 0)) reach
    (by rw [page]; exact (by decide : respOk ≠ respDenied))
  rw [page] at run
  exact congrArg Host.Outcome.next run

theorem State.mbx_cplAck_empty {s : State} {m : Nat} (none_ : (s.mbx m).queue = [] ∨ s.gableServes = false) :
    (s.cplAck m).mbx m = { s.mbx m with cplValid := false } := by
  unfold State.cplAck
  generalize acked : s.modMbx m (fun b => { b with cplValid := false }) = u
  have mbx : u.mbx m = { s.mbx m with cplValid := false } := by rw [← acked, State.mbx_modMbx]
  have serves : u.gableServes = s.gableServes := by rw [← acked]; rfl
  rw [← mbx]
  unfold State.showNext
  dsimp only
  split
  · rfl
  next shows =>
    rcases none_ with empty | stopped
    · have queue : (u.mbx m).queue = [] := by rw [mbx]; exact empty
      rw [queue]
    · exact absurd (.inr (by rw [serves, stopped]; decide)) shows

theorem State.mbx_cplAck_next {s : State} {m : Nat} {c : Completion} {rest : List Completion} (queue : (s.mbx m).queue = c :: rest) (serves : s.gableServes = true) :
    ((s.cplAck m).mbx m).cplValid = true ∧ ((s.cplAck m).mbx m).queue = rest ∧
    ((s.cplAck m).mbx m).cpl = answerBytes c.status.toNat c.seq.toNat false true (s.sid m) c.data := by
  unfold State.cplAck
  generalize acked : s.modMbx m (fun b => { b with cplValid := false }) = u
  have mbx : u.mbx m = { s.mbx m with cplValid := false } := by rw [← acked, State.mbx_modMbx]
  have sid : u.sid m = s.sid m := State.sid_of_mbx_eq (by rw [mbx]; exact ⟨rfl, rfl⟩)
  have serves' : u.gableServes = true := by rw [← acked]; exact serves
  have shown : u.showNext m = (u.modMbx m fun b => { b with queue := rest, cplValid := true, cpl := showBytes c (u.sid m) }).mbxRise m 1 := by
    unfold State.showNext
    dsimp only
    rw [if_neg (by rw [mbx, serves']; simp)]
    rw [mbx]
    simp only [queue]
  rw [shown]
  obtain ⟨n, es, own, -⟩ := (u.modMbx m fun b => { b with queue := rest, cplValid := true, cpl := showBytes c (u.sid m) }).mbxRise_eq m 1
  rw [own, State.mbx_modMbx, sid]
  exact ⟨rfl, rfl, rfl⟩

/-- A pop that is not a peek. -/
theorem isPeek_of_pops {w : Who} (pops : w.src ≠ 0x801 ∨ w.effect = true) : isPeek w.src w.effect = false := by
  unfold isPeek
  rcases pops with h | h
  · rw [beq_eq_false_iff_ne.mpr h]; rfl
  · simp [h]

theorem exec_mbxEvpop_denied {s : State} {w : Who} {m : Nat} (reach : s.reaches w (hubBase 1 + m * 0x1000 + 0x218) false = true)
    (pops : w.src ≠ 0x801 ∨ w.effect = true) (may : s.mayPop w.src m = false) :
    ∃ t, exec (.mbxEvpop w m) s = .next t ∧ t.rsp.resp = respDenied ∧ t.gable = s.gable := by
  have body : s.mbxEvpop w.src w.effect m = regDenied s := if_pos (by simp [isPeek_of_pops pops, may])
  obtain ⟨node, tid, k, run⟩ := State.access_of_denied (body := fun s => s.mbxEvpop w.src w.effect m) reach (by rw [body]; rfl)
  refine ⟨_, congrArg Host.Outcome.next run, rfl, ?_⟩
  exact (State.noteDenial_steps (Steps.refl [.routers, .log, .evr] s) (by decide)).1 .gable (by decide)

theorem exec_mbxEvpop_none {s : State} {w : Who} {m : Nat} (reach : s.reaches w (hubBase 1 + m * 0x1000 + 0x218) false = true)
    (may : s.mayPop w.src m = true) (none_ : s.mbxOut m = none) :
    ∃ t, exec (.mbxEvpop w m) s = .next t ∧ t.okay 0 ∧ t.evr = s.evr := by
  have body : s.mbxEvpop w.src w.effect m = regOk s 0 := by
    unfold State.mbxEvpop
    rw [if_neg (by simp [may]), none_]
  have run := State.access_of_reaches (body := fun s => s.mbxEvpop w.src w.effect m) reach (by rw [body]; exact (by decide : respOk ≠ respDenied))
  rw [body] at run
  exact ⟨_, congrArg Host.Outcome.next run, rfl, rfl⟩

/-- The state after the oldest record of an output was popped into a mailbox. -/
def State.popped (s : State) (m k : Nat) (e : Event) (rest : List Event) : State :=
  (s.modEvOut k fun o => { o with fifo := rest, popStamp := e.stamp }).modMbx m fun b => { b with evStamp := e.stamp }

theorem exec_mbxEvpop_pops {s : State} {w : Who} {m k : Nat} {e : Event} {rest : List Event}
    (reach : s.reaches w (hubBase 1 + m * 0x1000 + 0x218) false = true) (pops : w.src ≠ 0x801 ∨ w.effect = true) (may : s.mayPop w.src m = true)
    (out : s.mbxOut m = some k) (fifo : (s.evOut k).fifo = e :: rest) :
    exec (.mbxEvpop w m) s = .next ((s.popped m k e rest).answer respOk e.record) := by
  have body : s.mbxEvpop w.src w.effect m = regOk (s.popped m k e rest) e.record := by
    unfold State.mbxEvpop
    rw [if_neg (by simp [may]), out]
    dsimp only
    rw [fifo]
    dsimp only
    rw [if_neg (by simp [isPeek_of_pops pops])]
    rfl
  have run := State.access_of_reaches (body := fun s => s.mbxEvpop w.src w.effect m) reach (by rw [body]; exact (by decide : respOk ≠ respDenied))
  rw [body] at run
  exact congrArg Host.Outcome.next run

theorem State.popped_leaves (s : State) (m k : Nat) (e : Event) (rest : List Event) (v : Nat) :
    (((s.popped m k e rest).answer respOk v).evOut k).fifo = rest ∧ (((s.popped m k e rest).answer respOk v).mbx m).evStamp = e.stamp ∧
    ∀ j, j ≠ k → ((s.popped m k e rest).answer respOk v).evOut j = s.evOut j := by
  have outs : ∀ j, ((s.popped m k e rest).answer respOk v).evOut j = (s.modEvOut k fun o => { o with fifo := rest, popStamp := e.stamp }).evOut j := fun _ => rfl
  have mbx : ((s.popped m k e rest).answer respOk v).mbx m = { s.mbx m with evStamp := e.stamp } :=
    State.mbx_modMbx (s.modEvOut k fun o => { o with fifo := rest, popStamp := e.stamp }) m _
  refine ⟨?_, by rw [mbx], fun j other => ?_⟩
  · rw [outs, State.evOut_modEvOut]
  · rw [outs, State.evOut_modEvOut_other _ _ other]

end Sys2Proof.Machine

open Sys2Proof Sys2Proof.Machine

/-- Settles O48: MBX_OPEN has its own service (`exec_mbxOpen_opens`), a closed session leaves what `State.closeSession_leaves` says, and the other
commands answer from the state they find. -/
theorem sessionCommands : Obligations.sessionCommands := by
  unfold Obligations.sessionCommands
  refine ⟨?opens, ?refuses, ?closes, ?heartbeat, ?timeout, ?notDue, ?ident, ?firmware, ?sessions, ?port, ?portFlow, ?ack, ?pops, ?popsNot⟩
  case opens =>
    rintro s m ⟨ask, running, unbound, len, zero, hb, major, minor⟩
    obtain ⟨keeps, run⟩ := exec_mbxOpen_opens ask running unbound (cmdMbxOpen_argOk len zero hb) major minor
    refine ⟨_, run, ?_⟩
    generalize resultIs : (s.opened m).openResult m s.ifVer (hbPeriod ((s.req m).num 4 4)) (s.rolesOf (s.mbx m).ringSrc) = data
    have opened : (s.opened m).mbx m = (s.mbx m).openSession (s.rolesOf (s.mbx m).ringSrc) (hbPeriod ((s.req m).num 4 4)) s.now := State.mbx_modMbx ..
    have req : (s.opened m).req m = s.req m := by unfold State.req; rw [opened]; rfl
    obtain ⟨n, l, r, own⟩ := (s.opened m).mbx_opening m data keeps
    have sid : ((s.opened m).opening m data keeps).sid m = (s.opened m).sid m := State.sid_of_mbx_eq (by rw [own]; exact ⟨rfl, rfl⟩)
    rw [sid]
    unfold State.openResult at resultIs
    generalize (s.opened m).sid m = id at own resultIs ⊢
    rw [own, opened, req]
    exact ⟨rfl, rfl, rfl, rfl, rfl, rfl, rfl, by rw [← resultIs]; rfl⟩
  case refuses =>
    rintro s m ⟨ask, running, len, zero, hb, refuses⟩
    have session := State.session_of_mbxOpen ask
    have refused : ∃ keeps, exec (.mbxOpen m) s = .next (s.refusal m (if (s.mbx m).bound = true then stState else stVersion) false keeps) := by
      by_cases bound : (s.mbx m).bound = true
      · rw [if_pos bound]
        exact exec_mbxOpen_refused ask running (cmdMbxOpen_argOk len zero hb) (if_pos (by rw [State.heard_bound]; exact bound)) (by decide) (by decide)
      · rw [if_neg bound]
        have version : (s.heard m).ifVer = s.ifVer := by unfold State.ifVer; rw [State.heard_gstate, State.heard_cfg]
        refine exec_mbxOpen_refused ask running (cmdMbxOpen_argOk len zero hb) ((if_neg (by rw [State.heard_bound]; exact bound)).trans (if_pos ?_)) (by decide)
          (by decide)
        rw [version]
        exact refuses.resolve_left bound
    obtain ⟨keeps, run⟩ := refused
    obtain ⟨ringing, valid, rsp, -⟩ := s.refused_refusal m (if (s.mbx m).bound = true then stState else stVersion) false keeps
    refine ⟨_, run, ⟨ringing, valid, rsp.trans ?_⟩, s.opener_refusal m _ false keeps⟩
    rw [session]
    congr 1
    by_cases bound : (s.mbx m).bound = true
    · rw [if_pos bound, if_pos rfl]
    · have none_ : s.sid m = 0 := if_neg bound
      rw [if_neg bound, none_, if_pos rfl]
  case closes =>
    rintro s m ⟨ask, -, len, open_, keeps, pushing⟩
    obtain ⟨t, run, answer, ⟨bound, roles, irq, runs, queue⟩, flows⟩ := exec_mbxClose ask len open_ keeps pushing
    exact ⟨t, run, answer, bound, roles, irq, runs, queue, flows⟩
  case heartbeat => exact fun s m ⟨ask, _, len, open_⟩ => exec_mbxHeartbeat ask len open_
  case timeout => exact fun s m ⟨due, open_, below, keeps, pushing⟩ => exec_heartbeatTimeout due open_ below keeps pushing
  case notDue => exact fun s m not => ⟨s, congrArg Host.Outcome.next (if_neg (ne_true_of_eq_false not)), rfl⟩
  case ident => exact fun s m ⟨ask, _, len⟩ => exec_idGet ask len
  case firmware => exact fun s m ⟨ask, running, len⟩ => exec_fwInfo ask running len
  case sessions =>
    rintro s m ⟨ask, -, len, zero, start⟩
    obtain ⟨t, run, sids, answer⟩ := exec_mbxSessions ask len zero start
    refine ⟨t, run, fun k _ => sids k, ?_⟩
    rw [List.flatMap_def]
    exact answer
  case port =>
    rintro s m ⟨ask, -, role, len, zero, mid, master, low, high, free⟩
    exact exec_portTimeout_sets ⟨ask, role, len, zero, mid, master, low, high⟩ free
  case portFlow =>
    rintro s m ⟨ask, -, role, len, zero, mid, master, low, high, needed⟩
    exact exec_portTimeout_flow ⟨ask, role, len, zero, mid, master, low, high⟩ needed
  case ack =>
    rintro s w m ⟨-, reach⟩
    exact ⟨_, exec_mbxCplAck reach, rfl, State.mbx_cplAck_empty, fun _ _ => State.mbx_cplAck_next⟩
  case pops =>
    rintro s w m k e rest ⟨-, reach, pops, may, out, fifo⟩
    exact ⟨_, exec_mbxEvpop_pops reach pops may out fifo, rfl, s.popped_leaves m k e rest e.record⟩
  case popsNot =>
    rintro s w m ⟨-, reach, pops⟩
    cases may : s.mayPop w.src m with
    | false =>
      obtain ⟨t, run, denied, gable⟩ := exec_mbxEvpop_denied reach pops may
      exact ⟨t, run, fun _ => ⟨denied, gable⟩, fun h => Bool.noConfusion h⟩
    | true =>
      cases out : s.mbxOut m with
      | none =>
        obtain ⟨t, run, ok, evr⟩ := exec_mbxEvpop_none reach may out
        exact ⟨t, run, fun h => Bool.noConfusion h, fun _ _ => ⟨ok, evr⟩⟩
      | some k =>
        obtain ⟨t, run⟩ : ∃ t, exec (.mbxEvpop w m) s = .next t := ⟨_, rfl⟩
        exact ⟨t, run, fun h => Bool.noConfusion h, fun _ h => absurd h (Option.some_ne_none k)⟩

end

section
/-! PROOFS. The key commands (15 R395, R398, R404, R406, R410 to R414). -/

open Sys2Proof
namespace Sys2Proof.Machine

/-! ### Several units at once -/

/-- Modifying the units of a list, each once. -/
theorem State.funit_foldl_modFunit (f : FlashUnit → FlashUnit) {l : List Nat} (nodup : l.Nodup) (s : State) (n : Nat) :
    (l.foldl (fun (s : State) n => s.modFunit n f) s).funit n = if n ∈ l then f (s.funit n) else s.funit n := by
  induction l generalizing s with
  | nil => rfl
  | cons j l ih =>
    obtain ⟨fresh, rest⟩ := List.nodup_cons.mp nodup
    rw [List.foldl_cons, ih rest]
    by_cases own : n = j
    · subst own
      rw [if_neg fresh, if_pos (List.mem_cons_self ..), State.funit_modFunit]
    · rw [State.funit_modFunit_other _ _ own]
      simp only [List.mem_cons, own, false_or]

theorem mem_maskUnits {mask n : Nat} (below : n < 8) : n ∈ maskUnits mask ↔ bitOf mask n = true := by
  unfold maskUnits
  simp [below]

theorem nodup_maskUnits (mask : Nat) : (maskUnits mask).Nodup := List.Nodup.filter _ List.nodup_range

/-- A value put into one slot of every unit of a mask. -/
def State.putSlots (s : State) (mask k : Nat) (v : KeySlot) : State :=
  (maskUnits mask).foldl (fun (s : State) n => s.modFunit n fun u => { u with slots := tput KeySlot.reset u.slots k v }) s

theorem State.putSlots_units (s : State) (mask k : Nat) (v : KeySlot) :
    (∀ n, n < 8 → bitOf mask n = true → ((s.putSlots mask k v).funit n).slot k = v ∧
      ∀ j, j ≠ k → ((s.putSlots mask k v).funit n).slot j = (s.funit n).slot j) ∧
    (∀ n, n < 8 → bitOf mask n = false → (s.putSlots mask k v).funit n = s.funit n) := by
  have unit := State.funit_foldl_modFunit (fun u => { u with slots := tput KeySlot.reset u.slots k v }) (nodup_maskUnits mask) s
  refine ⟨fun n below masked => ?_, fun n below out => ?_⟩
  · have put : (s.putSlots mask k v).funit n = { s.funit n with slots := tput KeySlot.reset (s.funit n).slots k v } :=
      (unit n).trans (if_pos ((mem_maskUnits below).mpr masked))
    rw [put]
    exact ⟨tget_tput_same .., fun j other => tget_tput_other _ _ _ other⟩
  · exact (unit n).trans (if_neg fun h => ne_true_of_eq_false out ((mem_maskUnits below).mp h))

theorem State.funit_of_flash_eq {s t : State} (h : t.flash = s.flash) (n : Nat) : t.funit n = s.funit n := by unfold State.funit; rw [h]

/-! ### KEY_LOAD (15 R404, R412, R413) -/

/-- A well-formed KEY_LOAD of a session with the configuration role. -/
structure State.keyLoadAsked (s : State) (m : Nat) : Prop where
  ask : s.asks m 0x0310 = true
  role : s.hasRole m roleC = true
  len : (s.req m).len = 108
  slot : (s.req m).num 1 1 < 16
  persist : (s.req m).num 2 1 ≤ 1
  zero : (s.req m).zero 3 1 = true

theorem cmdKeyLoad_serving {s : State} {m : Nat} (asked : s.keyLoadAsked m) :
    ∃ g, Gable.hearing s m g ∧ ∀ {s2 : State} {st : Nat} {data : List (BitVec 8)}, cmdKeyLoad.body (s.setGable g) m (s.req m) = (s2, ⟨st, data⟩) → st < 0x100 →
      ∃ t, cmdKeyLoad.serve m s = t ∧ s.answered t m st data ∧ s2.changesOnly t [.gable, .evr] := by
  obtain ⟨ask, role, len, slot, persist, zero⟩ := asked
  refine Command.serving ask (by decide) rfl ((s.heard_hasRole m roleC).trans role) (fun g => ?_) (fun h => nomatch h)
  change ((s.req m).len == 108 && decide ((s.req m).num 1 1 < 16) && decide ((s.req m).num 2 1 ≤ 1) && (s.req m).zero 3 1) = true
  simp [len, slot, persist, zero]

/-- What KEY_LOAD puts into a slot. -/
def Request.loadedSlot (r : Request) (sid : Nat) (keys : List (BitVec 8)) : KeySlot :=
  { loaded := true, persist := r.num 2 1 == 1, owner := BitVec.ofNat 32 (if (r.num 2 1 == 1) = true then 0 else sid), keys := keys }

theorem cmdKeyLoad_body_loads {s : State} {m : Nat} {r : Request} {keys : List (BitVec 8)}
    (opens : kwUnwrap s.cfg.deviceKey (List.replicate 7 0xA6 ++ [1]) (bytesAt r.arg 4 104) = some keys) (differ : bytesAt keys 0 32 ≠ bytesAt keys 32 32) :
    cmdKeyLoad.body s m r = (s.putSlots (r.num 0 1) (r.num 1 1) (r.loadedSlot (s.sid m) keys), okReply []) := by
  have unwrap : s.unwrap 0x01 (bytesAt r.arg 4 104) = some keys := opens
  unfold cmdKeyLoad
  dsimp only
  rw [unwrap]
  exact if_neg differ

/-- What KEY_LOAD, or KEY_ERASE with an empty slot, leaves in the units of a mask. -/
def State.slotsPut (s t : State) (mask k : Nat) (v : KeySlot) : Prop :=
  (∀ n, n < 8 → bitOf mask n = true → (t.funit n).slot k = v ∧ ∀ j, j ≠ k → (t.funit n).slot j = (s.funit n).slot j) ∧
  (∀ n, n < 8 → bitOf mask n = false → t.funit n = s.funit n)

theorem State.slotsPut_of_frame {s t : State} {g : Gable} {mask k : Nat} {v : KeySlot} (flash : t.flash = ((s.setGable g).putSlots mask k v).flash) :
    s.slotsPut t mask k v := by
  have units := (s.setGable g).putSlots_units mask k v
  have same := State.funit_of_flash_eq flash
  refine ⟨fun n below masked => ?_, fun n below out => ?_⟩
  · rw [same]; exact units.1 n below masked
  · rw [same]; exact units.2 n below out

theorem exec_keyLoad_loads {s : State} {m : Nat} {keys : List (BitVec 8)} (asked : s.keyLoadAsked m)
    (opens : kwUnwrap s.cfg.deviceKey (List.replicate 7 0xA6 ++ [1]) (bytesAt (s.req m).arg 4 104) = some keys) (differ : bytesAt keys 0 32 ≠ bytesAt keys 32 32) :
    ∃ t, exec (.keyLoad m) s = .next t ∧ s.answered t m stOk [] ∧
      s.slotsPut t ((s.req m).num 0 1) ((s.req m).num 1 1) ((s.req m).loadedSlot (s.sid m) keys) := by
  obtain ⟨g, hears, serves⟩ := cmdKeyLoad_serving asked
  have body := cmdKeyLoad_body_loads (s := s.setGable g) (m := m) (r := s.req m) opens differ
  obtain ⟨t, run, answer, frame⟩ := serves body (by decide)
  rw [hears.sid] at frame
  exact ⟨t, congrArg Host.Outcome.next run, answer, State.slotsPut_of_frame (frame .flash (by decide))⟩

theorem exec_keyLoad_closed {s : State} {m : Nat} (asked : s.keyLoadAsked m)
    (closed : kwUnwrap s.cfg.deviceKey (List.replicate 7 0xA6 ++ [1]) (bytesAt (s.req m).arg 4 104) = none) :
    ∃ t, exec (.keyLoad m) s = .next t ∧ s.answered t m stAuth [] ∧ t.flash = s.flash := by
  obtain ⟨g, -, serves⟩ := cmdKeyLoad_serving asked
  have unwrap : (s.setGable g).unwrap 0x01 (bytesAt (s.req m).arg 4 104) = none := closed
  have body : cmdKeyLoad.body (s.setGable g) m (s.req m) = (s.setGable g, bare stAuth) := by
    unfold cmdKeyLoad
    dsimp only
    rw [unwrap]
  obtain ⟨t, run, answer, frame⟩ := serves body (by decide)
  exact ⟨t, congrArg Host.Outcome.next run, answer, frame .flash (by decide)⟩

theorem exec_keyLoad_equal {s : State} {m : Nat} {keys : List (BitVec 8)} (asked : s.keyLoadAsked m)
    (opens : kwUnwrap s.cfg.deviceKey (List.replicate 7 0xA6 ++ [1]) (bytesAt (s.req m).arg 4 104) = some keys) (equal : bytesAt keys 0 32 = bytesAt keys 32 32) :
    ∃ t, exec (.keyLoad m) s = .next t ∧ s.answered t m stBadArgument [] ∧ t.flash = s.flash := by
  obtain ⟨g, -, serves⟩ := cmdKeyLoad_serving asked
  have unwrap : (s.setGable g).unwrap 0x01 (bytesAt (s.req m).arg 4 104) = some keys := opens
  have body : cmdKeyLoad.body (s.setGable g) m (s.req m) = (s.setGable g, bare stBadArgument) := by
    unfold cmdKeyLoad
    dsimp only
    rw [unwrap]
    exact if_pos equal
  obtain ⟨t, run, answer, frame⟩ := serves body (by decide)
  exact ⟨t, congrArg Host.Outcome.next run, answer, frame .flash (by decide)⟩

/-! ### KEY_REGION (15 R395, R398) -/

theorem exec_keyRegion {s : State} {m : Nat} (ask : s.asks m 0x0311 = true) (role : s.hasRole m roleC = true)
    (arg : cmdKeyRegion.argOk s (s.req m) = true) :
    ∃ t, exec (.keyRegion m) s = .next t ∧ s.answered t m stOk [] ∧
      (∀ k, k ≠ (s.req m).num 0 1 → tget FlashRegion.reset t.fregions k = tget FlashRegion.reset s.fregions k) ∧
      tget FlashRegion.reset t.fregions ((s.req m).num 0 1) = (s.req m).fregion := by
  obtain ⟨g, -, serves⟩ := Command.serving (c := cmdKeyRegion) ask (by decide) rfl ((s.heard_hasRole m roleC).trans role) (fun _ => arg) (fun h => nomatch h)
  obtain ⟨t, run, answer, frame⟩ := serves (s2 := (s.setGable g).putRegion ((s.req m).num 0 1) (s.req m).fregion) (st := stOk) (data := []) rfl (by decide)
  have regions : t.fregions = tput FlashRegion.reset s.fregions ((s.req m).num 0 1) (s.req m).fregion := frame .fregions (by decide)
  refine ⟨t, congrArg Host.Outcome.next run, answer, fun k other => ?_, ?_⟩
  · rw [regions]; exact tget_tput_other _ _ _ other
  · rw [regions]; exact tget_tput_same ..

/-- The arguments of a KEY_REGION that defines a region or, without its flag, removes one. -/
theorem cmdKeyRegion_argOk {s : State} {q : Request} (len : q.len = 28) (region : q.num 0 1 < 64) (slot : q.num 1 1 < 16) (low : 9 ≤ q.num 2 1)
    (high : q.num 2 1 ≤ 12) (flags : q.num 3 1 < 8)
    (valid : bitOf (q.num 3 1) 2 = false ∨ (regionSpanOk (q.num 4 8) (q.num 12 8) 4096 = true ∧
      (s.fregions.any fun e => e.1 != q.num 0 1 && e.2.meets (q.num 4 8) (q.num 12 8)) = false ∧ (bitOf (q.num 3 1) 1 = false ∨
      ∀ k ∈ List.range 4, ∀ n ∈ (s.dram.ilv k).channelsIn (q.num 4 8) (q.num 12 8), (s.declOf n).eccB = true))) : cmdKeyRegion.argOk s q = true := by
  change (q.len == 28 && decide (q.num 0 1 < 64) && decide (q.num 1 1 < 16) && decide (9 ≤ q.num 2 1) && decide (q.num 2 1 ≤ 12) && decide (q.num 3 1 < 8) &&
    (!bitOf (q.num 3 1) 2 || (regionSpanOk (q.num 4 8) (q.num 12 8) 4096 && !(s.fregions.any fun e => e.1 != q.num 0 1 && e.2.meets (q.num 4 8) (q.num 12 8)) &&
      (!bitOf (q.num 3 1) 1 || (List.range 4).all fun k => ((s.dram.ilv k).channelsIn (q.num 4 8) (q.num 12 8)).all fun n => (s.declOf n).eccB)))) = true
  have checks : (!bitOf (q.num 3 1) 2 || (regionSpanOk (q.num 4 8) (q.num 12 8) 4096 &&
      !(s.fregions.any fun e => e.1 != q.num 0 1 && e.2.meets (q.num 4 8) (q.num 12 8)) &&
      (!bitOf (q.num 3 1) 1 || (List.range 4).all fun k => ((s.dram.ilv k).channelsIn (q.num 4 8) (q.num 12 8)).all fun n => (s.declOf n).eccB))) = true := by
    rcases valid with removes | ⟨span, free, ecc⟩
    · simp [removes]
    · rw [span, free]
      rcases ecc with plain | ecc
      · simp [plain]
      · have all : ((List.range 4).all fun k => ((s.dram.ilv k).channelsIn (q.num 4 8) (q.num 12 8)).all fun n => (s.declOf n).eccB) = true :=
          List.all_eq_true.mpr fun k hk => List.all_eq_true.mpr (ecc k hk)
        rw [all]
        simp
  rw [checks]
  simp [len, region, slot, low, high, flags]

/-! ### KEY_LINK (15 R406, R410 to R412) -/

/-- A well-formed KEY_LINK of a session that may give this link a key. -/
structure State.keyLinkAsked (s : State) (m k : Nat) : Prop where
  ask : s.asks m 0x0312 = true
  may : s.hasRole m roleC = true ∨ ((s.req m).num 0 1 = 1 ∧ (s.mbx m).opener = BitVec.ofNat 12 (0x8F0 + (s.req m).num 2 1))
  len : (s.req m).len = 52
  zero : (s.req m).zero 3 1 = true
  link : s.keyedLink ((s.req m).num 0 1) ((s.req m).num 1 1) ((s.req m).num 2 1) = some k
  differ : (s.req m).num 4 4 ≠ (s.req m).num 8 4

theorem cmdKeyLink_serving {s : State} {m k : Nat} (asked : s.keyLinkAsked m k) :
    ∃ g, Gable.hearing s m g ∧ ∀ {s2 : State} {st : Nat} {data : List (BitVec 8)}, cmdKeyLink.body (s.setGable g) m (s.req m) = (s2, ⟨st, data⟩) → st < 0x100 →
      ∃ t, cmdKeyLink.serve m s = t ∧ s.answered t m st data ∧ s2.changesOnly t [.gable, .evr] := by
  obtain ⟨ask, may, len, zero, link, differ⟩ := asked
  refine Command.serving ask (by decide) rfl ?_ (fun g => ?_) (fun h => nomatch h)
  · change ((s.heard m).hasRole m roleC || ((s.req m).num 0 1 == 1 && ((s.heard m).mbx m).opener == BitVec.ofNat 12 (0x8F0 + (s.req m).num 2 1))) = true
    rw [State.heard_hasRole, State.mbx_heard]
    rcases may with role | ⟨kind, opener⟩
    · rw [role]; rfl
    · simp [kind, opener]
  · change ((s.req m).len == 52 && (s.req m).zero 3 1 && (s.keyedLink ((s.req m).num 0 1) ((s.req m).num 1 1) ((s.req m).num 2 1)).isSome &&
      (s.req m).num 4 4 != (s.req m).num 8 4) = true
    simp [len, zero, link, differ]

theorem State.linkKey_installKey_active {s : State} {k : Nat} {key : Bytes} {tx rx owner : BitVec 32} (active : (s.laneset k).state = .active) :
    (s.installKey k key tx rx owner).linkKey k = { s.linkKey k with next := some key, nextTx := tx, nextRx := rx, nextOwner := owner } := by
  unfold State.installKey
  dsimp only
  rw [if_pos active, State.linkKey_modLinkKey]

theorem State.linkKey_of_linkKeys_eq {s t : State} (h : t.linkKeys = s.linkKeys) (k : Nat) : t.linkKey k = s.linkKey k := by unfold State.linkKey; rw [h]

theorem State.linkKey_installKey_down {s : State} {k : Nat} {key : Bytes} {tx rx owner : BitVec 32} (down : (s.laneset k).state ≠ .active) :
    (s.installKey k key tx rx owner).linkKey k =
      { s.linkKey k with key := some key, txId := tx, rxId := rx, txCtr := 0, rxCtr := 0, owner := owner, needKey := false, digest := none, fails := [] } := by
  unfold State.installKey
  dsimp only
  rw [if_neg down]
  have installed := s.linkKey_modLinkKey k fun x =>
    { x with key := some key, txId := tx, rxId := rx, txCtr := 0, rxCtr := 0, owner := owner, needKey := false, digest := none, fails := [] }
  split
  · split
    · exact installed
    · exact installed
  · exact installed

/-- A key that KEY_LINK accepts, in the state the command sees. -/
theorem cmdKeyLink_body_installs {s : State} {m k : Nat} {r : Request} {key : List (BitVec 8)}
    (link : s.keyedLink (r.num 0 1) (r.num 1 1) (r.num 2 1) = some k)
    (opens : kwUnwrap s.cfg.deviceKey (List.replicate 7 0xA6 ++ [3]) (bytesAt r.arg 12 40) = some key) (fresh : (s.linkKey k).digest ≠ some (sha384 key)) :
    cmdKeyLink.body s m r = (s.installKey k key (BitVec.ofNat 32 (r.num 4 4)) (BitVec.ofNat 32 (r.num 8 4)) (BitVec.ofNat 32 (s.sid m)), okReply []) := by
  have unwrap : s.unwrap 0x03 (bytesAt r.arg 12 40) = some key := opens
  unfold cmdKeyLink
  dsimp only
  rw [link, unwrap]
  exact if_neg fresh

theorem exec_keyLink_installs {s : State} {m k : Nat} {key : List (BitVec 8)} (asked : s.keyLinkAsked m k)
    (opens : kwUnwrap s.cfg.deviceKey (List.replicate 7 0xA6 ++ [3]) (bytesAt (s.req m).arg 12 40) = some key) (fresh : (s.linkKey k).digest ≠ some (sha384 key)) :
    ∃ t, exec (.keyLink m) s = .next t ∧ s.answered t m stOk [] ∧
      t.linkKey k = (s.installKey k key (BitVec.ofNat 32 ((s.req m).num 4 4)) (BitVec.ofNat 32 ((s.req m).num 8 4)) (BitVec.ofNat 32 (s.sid m))).linkKey k := by
  obtain ⟨g, hears, serves⟩ := cmdKeyLink_serving asked
  have body := cmdKeyLink_body_installs (s := s.setGable g) (m := m) (r := s.req m) asked.link opens fresh
  obtain ⟨t, run, answer, frame⟩ := serves body (by decide)
  rw [hears.sid] at frame
  refine ⟨t, congrArg Host.Outcome.next run, answer, (State.linkKey_of_linkKeys_eq (frame .linkKeys (by decide)) k).trans ?_⟩
  by_cases active : (s.laneset k).state = .active
  · rw [State.linkKey_installKey_active active, State.linkKey_installKey_active (s := s.setGable g) active]; rfl
  · rw [State.linkKey_installKey_down active, State.linkKey_installKey_down (s := s.setGable g) active]; rfl

theorem exec_keyLink_closed {s : State} {m k : Nat} (asked : s.keyLinkAsked m k)
    (closed : kwUnwrap s.cfg.deviceKey (List.replicate 7 0xA6 ++ [3]) (bytesAt (s.req m).arg 12 40) = none) :
    ∃ t, exec (.keyLink m) s = .next t ∧ s.answered t m stAuth [] ∧ t.linkKeys = s.linkKeys := by
  obtain ⟨g, -, serves⟩ := cmdKeyLink_serving asked
  have link : (s.setGable g).keyedLink ((s.req m).num 0 1) ((s.req m).num 1 1) ((s.req m).num 2 1) = some k := asked.link
  have unwrap : (s.setGable g).unwrap 0x03 (bytesAt (s.req m).arg 12 40) = none := closed
  have body : cmdKeyLink.body (s.setGable g) m (s.req m) = (s.setGable g, bare stAuth) := by
    unfold cmdKeyLink
    dsimp only
    rw [link, unwrap]
  obtain ⟨t, run, answer, frame⟩ := serves body (by decide)
  exact ⟨t, congrArg Host.Outcome.next run, answer, frame .linkKeys (by decide)⟩

/-! ### KEY_ERASE (15 R413, R414) -/

theorem exec_keyErase_slots {s : State} {m : Nat} (ask : s.asks m 0x0313 = true) (role : s.hasRole m roleC = true) (len : (s.req m).len = 4)
    (zero : (s.req m).zero 3 1 = true) (memory : (s.req m).num 0 1 = 0) (slot : (s.req m).num 2 1 < 16) :
    ∃ t, exec (.keyErase m) s = .next t ∧ s.answered t m stOk [] ∧ s.slotsPut t ((s.req m).num 1 1) ((s.req m).num 2 1) KeySlot.reset := by
  have arg : ∀ g, cmdKeyErase.argOk (s.setGable g) (s.req m) = true := by
    intro g
    change ((s.req m).len == 4 && (s.req m).zero 3 1 && (if (s.req m).num 0 1 = 0 then decide ((s.req m).num 2 1 < 16) else _)) = true
    rw [if_pos memory]
    simp [len, zero, slot]
  obtain ⟨g, -, serves⟩ := Command.serving (c := cmdKeyErase) ask (by decide) rfl ((s.heard_hasRole m roleC).trans role) arg (fun h => nomatch h)
  have body : cmdKeyErase.body (s.setGable g) m (s.req m) =
      ((s.setGable g).putSlots ((s.req m).num 1 1) ((s.req m).num 2 1) KeySlot.reset, okReply []) := if_pos memory
  obtain ⟨t, run, answer, frame⟩ := serves body (by decide)
  exact ⟨t, congrArg Host.Outcome.next run, answer, State.slotsPut_of_frame (frame .flash (by decide))⟩

theorem State.linkKey_eraseLinkKey (s : State) (k : Nat) :
    ((s.eraseLinkKey k).linkKey k).key = none ∧ ((s.eraseLinkKey k).linkKey k).next = none ∧ ((s.eraseLinkKey k).linkKey k).txCtr = 0 := by
  unfold State.eraseLinkKey
  dsimp only
  rw [State.linkKey_modLinkKey]
  exact ⟨rfl, rfl, rfl⟩

theorem State.laneset_modLinkKey (s : State) (k j : Nat) (f : LinkKey → LinkKey) : (s.modLinkKey k f).laneset j = s.laneset j := rfl

/-- Erasing the key of an encrypted link in ACTIVE takes the lane set to OFF; of any other link it leaves the lane set alone. -/
theorem State.laneset_eraseLinkKey (s : State) (k : Nat) :
    ((s.laneset k).state = .active → (s.link k).encrypted = true → ((s.eraseLinkKey k).laneset k).state = .off) ∧
    ((s.link k).encrypted = false → (s.eraseLinkKey k).laneset k = s.laneset k) := by
  unfold State.eraseLinkKey
  dsimp only
  rw [State.laneset_modLinkKey]
  refine ⟨fun active encrypted => ?_, fun plain => ?_⟩
  · rw [if_pos (by simp [active, encrypted])]
    exact (State.laneset_laneOff _ k).1
  · rw [if_neg (by simp [plain])]

theorem exec_keyErase_link {s : State} {m k : Nat} (ask : s.asks m 0x0313 = true) (role : s.hasRole m roleC = true) (len : (s.req m).len = 4)
    (zero : (s.req m).zero 3 1 = true) (kind : (s.req m).num 0 1 = 1 ∨ (s.req m).num 0 1 = 2)
    (link : s.keyedLink ((s.req m).num 0 1 - 1) ((s.req m).num 1 1) ((s.req m).num 2 1) = some k) :
    ∃ t g, exec (.keyErase m) s = .next t ∧ s.answered t m stOk [] ∧ t.linkKey k = ((s.setGable g).eraseLinkKey k).linkKey k ∧
      t.laneset k = ((s.setGable g).eraseLinkKey k).laneset k := by
  have arg : ∀ g, cmdKeyErase.argOk (s.setGable g) (s.req m) = true := by
    intro g
    change ((s.req m).len == 4 && (s.req m).zero 3 1 && (if (s.req m).num 0 1 = 0 then decide ((s.req m).num 2 1 < 16) else
      decide ((s.req m).num 0 1 ≤ 2) && (s.keyedLink ((s.req m).num 0 1 - 1) ((s.req m).num 1 1) ((s.req m).num 2 1)).isSome)) = true
    rw [if_neg (by omega), link]
    simp [len, zero, show (s.req m).num 0 1 ≤ 2 by omega]
  obtain ⟨g, -, serves⟩ := Command.serving (c := cmdKeyErase) ask (by decide) rfl ((s.heard_hasRole m roleC).trans role) arg (fun h => nomatch h)
  have seen : (s.setGable g).keyedLink ((s.req m).num 0 1 - 1) ((s.req m).num 1 1) ((s.req m).num 2 1) = some k := link
  have body : cmdKeyErase.body (s.setGable g) m (s.req m) = ((s.setGable g).eraseLinkKey k, okReply []) := by
    refine (if_neg (by omega)).trans ?_
    rw [seen]
  obtain ⟨t, run, answer, frame⟩ := serves body (by decide)
  exact ⟨t, g, congrArg Host.Outcome.next run, answer, State.linkKey_of_linkKeys_eq (frame .linkKeys (by decide)) k,
    State.laneset_of_lanesets_eq (frame .lanesets (by decide)) k⟩

/-! ### KEY_STATUS (15 R414) -/

theorem exec_keyStatus {s : State} {m n : Nat} (ask : s.asks m 0x0314 = true) (len : (s.req m).len = 4) (unit : (s.req m).num 0 1 = n) (below : n < 8)
    (zero : (s.req m).zero 1 3 = true) :
    ∃ t, exec (.keyStatus m) s = .next t ∧ t.flash = s.flash ∧ t.linkKeys = s.linkKeys ∧
      s.answered t m stOk (leBytes 4 (s.funit n).slotBits ++ ((List.range 16).flatMap fun k => leBytes 4 ((s.funit n).slot k).owner.toNat) ++
        [s.keyByte 144, s.keyByte 145] ++
        ((List.range 8).map fun i => if i / 4 < s.fuses.part.sites then s.keyByte (s.guestLink (i / 4) (i % 4)) else 0) ++ [0, 0]) := by
  subst unit
  have arg : ∀ g, cmdKeyStatus.argOk (s.setGable g) (s.req m) = true := by
    intro g
    change ((s.req m).len == 4 && decide ((s.req m).num 0 1 < 8) && (s.req m).zero 1 3) = true
    simp [len, zero, below]
  obtain ⟨g, -, serves⟩ := Command.serving (c := cmdKeyStatus) ask (by decide) rfl rfl arg (fun h => nomatch h)
  obtain ⟨t, run, answer, frame⟩ := serves (s2 := s.setGable g) (st := stOk) rfl (by decide)
  exact ⟨t, congrArg Host.Outcome.next run, frame .flash (by decide), frame .linkKeys (by decide), answer⟩

end Sys2Proof.Machine

open Sys2Proof Sys2Proof.Machine

/-- Settles O43: the slots that a mask puts (`State.putSlots_units`), the key that a link takes (`State.installKey`) and gives up (`State.eraseLinkKey`). -/
theorem keyCommands : Obligations.keyCommands := by
  unfold Obligations.keyCommands
  refine ⟨?loads, ?closed, ?equal, ?region, ?link, ?linkClosed, ?erases, ?erasesLink, ?status⟩
  case loads =>
    rintro s m keys ⟨ask, -, role, len, slot, persist, zero, opens, differ⟩
    obtain ⟨t, run, answer, put, other⟩ := exec_keyLoad_loads ⟨ask, role, len, slot, persist, zero⟩ opens differ
    simp only [Request.loadedSlot, beq_iff_eq] at put
    exact ⟨t, run, answer, put, other⟩
  case closed =>
    rintro s m ⟨ask, -, role, len, slot, persist, zero, closed⟩
    exact exec_keyLoad_closed ⟨ask, role, len, slot, persist, zero⟩ closed
  case equal =>
    rintro s m keys ⟨ask, -, role, len, slot, persist, zero, opens, equal⟩
    exact exec_keyLoad_equal ⟨ask, role, len, slot, persist, zero⟩ opens equal
  case region =>
    rintro s m r ⟨ask, -, role, len, rfl, region, slot, low, high, flags, valid⟩
    exact exec_keyRegion ask role (cmdKeyRegion_argOk len region slot low high flags valid)
  case link =>
    rintro s m k key ⟨ask, -, may, len, zero, link, differ, opens, fresh⟩
    obtain ⟨t, run, answer, installed⟩ := exec_keyLink_installs ⟨ask, may, len, zero, link, differ⟩ opens fresh
    exact ⟨t, run, answer, fun active => installed.trans (State.linkKey_installKey_active active),
      fun down => installed.trans (State.linkKey_installKey_down down)⟩
  case linkClosed =>
    rintro s m k ⟨ask, -, role, len, zero, link, differ, closed⟩
    exact exec_keyLink_closed ⟨ask, .inl role, len, zero, link, differ⟩ closed
  case erases => exact fun s m ⟨ask, _, role, len, zero, memory, slot⟩ => exec_keyErase_slots ask role len zero memory slot
  case erasesLink =>
    rintro s m k ⟨ask, -, role, len, zero, kind, link⟩
    obtain ⟨t, g, run, answer, keyIs, lanes⟩ := exec_keyErase_link ask role len zero kind link
    obtain ⟨key, next, ctr⟩ := (s.setGable g).linkKey_eraseLinkKey k
    obtain ⟨off, stays⟩ := (s.setGable g).laneset_eraseLinkKey k
    rw [← keyIs] at key next ctr
    rw [← lanes] at off stays
    exact ⟨t, run, answer, key, next, ctr, off, stays⟩
  case status => exact fun s m n ⟨ask, _, len, unit, below, zero⟩ => exec_keyStatus ask len unit below zero

end

section
/-! PROOFS. A request of a ROUND_TRIP flow at an ingress port of a DRAM channel: what refuses it rides the escape VC (07 R190; 08 R218). -/

open Sys2Proof
namespace Sys2Proof.Machine

/-- A conforming read of flow 1 by the gable controller. -/
def flowRead : Pkt := { src := 0x800, cls := .req, opc := 1, len := 3, addr := 0x1000, tag := 9, rt := true, flow := 1 }

/-- It stands at ingress port 3 of DRAM channel 2, whose router has the number 2 on the H-die; flow 1 is ROUND_TRIP. -/
def readAtChannel : State :=
  (State.reset.modFlow 1 fun f => { f with used := true, roundTrip := true }).modRouter 8 2 fun x => { x with inbox := [(8, [flowRead])] }

/-- The same with the channel UP, and an integrity region over the line whose key the unit does not hold. -/
def readAtRegion : State :=
  (readAtChannel.modChan 2 fun x => { x with state := .up }).setFregions [(4, { valid := true, base := 0, limit := 0xFFFF, slot := 6, sectorLog2 := 12, integ := true })]

theorem readAtChannel_met : readAtChannel.elementAt 8 2 (dramPort 3) = .dram 2 3 ∧ readAtChannel.ridgeClock 8 = true ∧
    tget [] (readAtChannel.router 8 2).inbox (dramPort 3) = [flowRead] ∧ flowRead.cls = .req ∧
    readAtChannel.portAdmits 8 2 (dramPort 3) flowRead = true ∧ (readAtChannel.chan 2).state ≠ .up := by decide +kernel

theorem readAtRegion_met : readAtRegion.elementAt 8 2 (dramPort 3) = .dram 2 3 ∧ readAtRegion.ridgeClock 8 = true ∧
    tget [] (readAtRegion.router 8 2).inbox (dramPort 3) = [flowRead] ∧ flowRead.cls = .req ∧
    readAtRegion.portAdmits 8 2 (dramPort 3) flowRead = true ∧ (readAtRegion.chan 2).state = .up ∧ flowRead.rmwOk = true ∧
    ∃ i ∈ List.range flowRead.lineCount, lacksKey (readAtRegion.lineView 2 (flowRead.lineAddr i)) = true := by decide +kernel

/-- The refusal is in the escape VC of the port, and nothing is in the adaptive one. -/
theorem readAtChannel_answer :
    tget [] ((targetRequest readAtChannel 8 2 (dramPort 3)).router 8 2).inq (8 * dramPort 3 + 2) = [] ∧
    (tget [] ((targetRequest readAtChannel 8 2 (dramPort 3)).router 8 2).inq (8 * dramPort 3 + 3)).map Pkt.resp = [respTgtErr] := by decide +kernel

theorem readAtRegion_answer :
    tget [] ((targetRequest readAtRegion 8 2 (dramPort 3)).router 8 2).inq (8 * dramPort 3 + 2) = [] ∧
    (tget [] ((targetRequest readAtRegion 8 2 (dramPort 3)).router 8 2).inq (8 * dramPort 3 + 3)).map Pkt.resp = [respTgtErr] := by decide +kernel

/-- TARGET_REQUEST at an ingress port of a clocked router. -/
theorem exec_targetRequest_dram {s : State} {n p : Nat} (at_ : s.elementAt 8 n (dramPort p) = .dram n p) (clock : s.ridgeClock 8 = true) :
    exec (.targetRequest 8 n (dramPort p)) s = .next (targetRequest s 8 n (dramPort p)) := by
  refine congrArg Host.Outcome.next (if_pos ?_)
  unfold State.takesNow
  rw [at_]
  exact clock

end Sys2Proof.Machine

open Sys2Proof Sys2Proof.Machine

/-- Refutes O44, in its first clause: the request that lacks its key is a conforming packet of a ROUND_TRIP flow, so its TGTERR rides the escape VC
    and the adaptive VC that the clause reads stays empty. -/
theorem not_flashingChecks : ¬ Obligations.flashingChecks := by
  rintro ⟨noKey, -⟩
  obtain ⟨t, run, -, -, -, answer⟩ := noKey readAtRegion 2 3 flowRead [] readAtRegion_met
  have ran := exec_targetRequest_dram readAtRegion_met.1 readAtRegion_met.2.1
  rw [← Host.Outcome.next.inj (ran.symm.trans run), readAtRegion_answer.1] at answer
  exact absurd (congrArg List.length answer) (by simp)

/-- Refutes O41, in its first clause, with the same request at a channel that is OFF. -/
theorem not_channelServes : ¬ Obligations.channelServes := by
  rintro ⟨notUp, -⟩
  obtain ⟨t, run, -, -, answer⟩ := notUp readAtChannel 2 3 flowRead [] readAtChannel_met
  have ran := exec_targetRequest_dram readAtChannel_met.1 readAtChannel_met.2.1
  rw [← Host.Outcome.next.inj (ran.symm.trans run), readAtChannel_answer.1] at answer
  exact absurd (congrArg List.length answer) (by simp)

end

section
/-! PROOFS. DMA channels: GO, STOP, CLEAR and SNAP against their states (16 R418, R425 to R427, R431, R434). -/

open Sys2Proof
namespace Sys2Proof.Machine

/-! ### A stop (16 R425, R428) -/

/-- A running channel that is told to stop. -/
def DmaCh.stopped (x : DmaCh) : DmaCh := { x with state := .stopping, committed := false, halting := false, beats := x.outstanding }

/-- A channel whose transfer is under way. -/
def DmaCh.running (x : DmaCh) : Prop := x.state = .wait ∨ x.state = .busy ∨ x.state = .readback

/-- A stop that is over. -/
def DmaCh.idled (x : DmaCh) : DmaCh := { x with state := .idle, pendingEnable := false, beats := [], buf := [], got := [], cmpB := [], gotB := [] }

theorem DmaCh.outstanding_stopped (x : DmaCh) : x.stopped.outstanding = x.outstanding := by
  unfold DmaCh.stopped DmaCh.outstanding
  dsimp only
  rw [List.filter_filter]
  simp only [Bool.and_self]

theorem State.dmaStop_running {s : State} {c : Nat} (runs : (s.dmaCh c).running) : s.dmaStop c = (s.modDma c DmaCh.stopped).dmaSettle c := by
  unfold State.dmaStop
  rcases runs with h | h | h <;> rw [h] <;> rfl

theorem State.dmaStop_rests {s : State} {c : Nat} (rests : (s.dmaCh c).state = .idle ∨ (s.dmaCh c).state = .halted ∨ (s.dmaCh c).state = .stopping) :
    s.dmaStop c = s := by
  unfold State.dmaStop
  rcases rests with h | h | h <;> rw [h]

theorem State.dmaStop_waits {s : State} {c : Nat} (runs : (s.dmaCh c).running) (more : (s.dmaCh c).outstanding ≠ []) :
    s.dmaStop c = s.modDma c DmaCh.stopped := by
  rw [State.dmaStop_running runs]
  refine if_neg ?_
  rw [State.dmaCh_modDma, DmaCh.outstanding_stopped]
  exact fun h => more h.2

theorem State.dmaStop_settles {s : State} {c : Nat} (runs : (s.dmaCh c).running) (none_ : (s.dmaCh c).outstanding = []) :
    s.dmaStop c = (s.modDma c DmaCh.stopped).dmaStopped c := by
  rw [State.dmaStop_running runs]
  refine if_pos ?_
  rw [State.dmaCh_modDma, DmaCh.outstanding_stopped]
  exact ⟨rfl, none_⟩

theorem State.fillOf_modDma (s : State) (c : Nat) (f : DmaCh → DmaCh) (k : Nat) : (s.modDma c f).fillOf k = s.fillOf k := rfl

/-- A stop without a fill ends in IDLE, frees a channel that is released, or judges a GO that waited. -/
theorem State.dmaStopped_of_stop {s : State} {c : Nat} (noFill : s.fillOf c = none) (stop : (s.dmaCh c).halting = false) :
    s.dmaStopped c = if (s.dmaCh c).releasing then (s.modDma c DmaCh.idled).dmaFree c
      else if (s.dmaCh c).pendingEnable then (s.modDma c DmaCh.idled).dmaGoIdle c else s.modDma c DmaCh.idled := by
  unfold State.dmaStopped
  dsimp only
  rw [noFill]
  exact if_neg (by rw [stop]; decide)

/-- STOP of a running channel that is neither released nor told to go again. -/
theorem State.dmaCh_dmaStop {s : State} {c : Nat} (runs : (s.dmaCh c).running) (noFill : s.fillOf c = none) (kept : (s.dmaCh c).releasing = false)
    (noGo : (s.dmaCh c).pendingEnable = false) :
    ((s.dmaStop c).dmaCh c).committed = false ∧
    ((s.dmaStop c).dmaCh c).state = if (s.dmaCh c).outstanding = [] then .idle else .stopping := by
  by_cases none_ : (s.dmaCh c).outstanding = []
  · rw [if_pos none_, State.dmaStop_settles runs none_, State.dmaStopped_of_stop ((s.fillOf_modDma ..).trans noFill) (by rw [State.dmaCh_modDma]; rfl)]
    rw [State.dmaCh_modDma, if_neg (by rw [show (s.dmaCh c).stopped.releasing = false from kept]; decide),
      if_neg (by rw [show (s.dmaCh c).stopped.pendingEnable = false from noGo]; decide), State.dmaCh_modDma, State.dmaCh_modDma]
    exact ⟨rfl, rfl⟩
  · rw [if_neg none_, State.dmaStop_waits runs none_, State.dmaCh_modDma]
    exact ⟨rfl, rfl⟩

/-! ### GO (16 R426, R427) -/

/-- START_AT of the shadow set, against the time of the H-die. -/
def State.dmaStartAt (s : State) (c : Nat) : Nat :=
  expandShort (bitsOf (s.dmaCh c).shadow.startAt.toNat 40 8) (bitsOf (s.dmaCh c).shadow.startAt.toNat 0 40) (s.ps 8)

/-- A channel whose shadow set was promoted. -/
def DmaCh.promoted (x : DmaCh) (st : Nat) (waits : Bool) : DmaCh :=
  { x.fresh with
    active := x.shadow, committed := false, startP := if x.shadow.timed then st else 0,
    state := if waits then .wait else .busy, late := x.late || (x.shadow.timed && !waits) }

theorem State.dmaPromote_valid {s : State} {c : Nat} (valid : (s.dmaCh c).shadow.valid = true) :
    (s.dmaPromote c).dmaCh c = (s.dmaCh c).promoted (s.dmaStartAt c) ((s.dmaCh c).shadow.timed && decide (s.ps 8 < s.dmaStartAt c)) := by
  unfold State.dmaPromote
  dsimp only
  rw [if_neg (by simp [valid]), State.dmaCh_modDma]
  rfl

theorem State.dmaPromote_invalid {s : State} {c : Nat} (invalid : (s.dmaCh c).shadow.valid = false) :
    (s.dmaPromote c).dmaCh c = { s.dmaCh c with committed := false, shadowErr := true, state := .idle } := by
  unfold State.dmaPromote
  dsimp only
  rw [if_pos (by simp [invalid]), State.dmaCh_modDma]

theorem State.dmaGo_idle {s : State} {c : Nat} (idle : (s.dmaCh c).state = .idle) (awake : s.pkgAwake = true) : s.dmaGo c = some (s.dmaPromote c) := by
  unfold State.dmaGo
  rw [idle]
  exact congrArg some (if_pos awake)

theorem State.dmaGo_running {s : State} {c : Nat} (runs : (s.dmaCh c).running) : s.dmaGo c = some (s.modDma c fun x => { x with committed := true }) := by
  unfold State.dmaGo
  rcases runs with h | h | h <;> rw [h]

theorem State.dmaGo_halted {s : State} {c : Nat} (halted : (s.dmaCh c).state = .halted) : s.dmaGo c = none := by
  unfold State.dmaGo
  rw [halted]

theorem State.dmaClear_other {s : State} {c : Nat} (other : (s.dmaCh c).state ≠ .halted) : s.dmaClear c = s := if_neg other

/-! ### DMA_CTRL (16 R418, R425) -/

/-- The bits of a DMA_CTRL write with GO. -/
theorem goBits (stop clear : Bool) : bitOf (1 + atBit stop 1 + atBit clear 2) 0 = true ∧ bitOf (1 + atBit stop 1 + atBit clear 2) 1 = stop ∧
    bitOf (1 + atBit stop 1 + atBit clear 2) 2 = clear ∧ bitOf (1 + atBit stop 1 + atBit clear 2) 3 = false ∧ 1 + atBit stop 1 + atBit clear 2 < 2 ^ 32 := by
  cases stop <;> cases clear <;> decide

theorem dmaCtrl_go {s : State} {c : Nat} (stop clear : Bool) (stops : stop = true → s.dmaStop c = s) (clears : clear = true → s.dmaClear c = s) :
    dmaCtrl s c (1 + atBit stop 1 + atBit clear 2) = s.dmaGo c := by
  obtain ⟨go, stopBit, clearBit, snap, -⟩ := goBits stop clear
  unfold dmaCtrl
  dsimp only
  rw [go, stopBit, clearBit, snap]
  have first : (if stop = true then s.dmaStop c else s) = s := by
    cases stop with
    | false => rfl
    | true => exact stops rfl
  have second : (if clear = true then s.dmaClear c else s) = s := by
    cases clear with
    | false => rfl
    | true => exact clears rfl
  rw [first, second]
  rfl

/-- A write of DMA_CTRL that the channel's checks let through. -/
structure State.dmaLets (s : State) (w : Who) (c v : Nat) : Prop where
  channel : c < 32
  reaches : s.reaches w (hubBase 4 + c * 0x100) true = true
  granted : s.dmaGranted c w.src = true
  held : (s.dmaCh c).held = false ∨ w.src = 0x800 ∨ heldWriteOk 0 false v = true
  word : v < 2 ^ 32

theorem dmaReg_ctrl {s : State} {w : Who} {c v : Nat} (lets : s.dmaLets w c v) : dmaReg w s (c * 0x100) true false v = dmaWrite s c 0 false v := by
  obtain ⟨channel, -, granted, held, -⟩ := lets
  have reg : c * 0x100 / 0x100 = c ∧ c * 0x100 % 0x100 = 0 := by omega
  unfold dmaReg
  rw [if_pos (by omega)]
  dsimp only
  rw [reg.1, reg.2, if_neg (by simp [granted]), if_neg (by decide), if_neg]
  rintro ⟨isHeld, other, refused⟩
  rcases held with free | own | ok
  · rw [free] at isHeld; exact absurd isHeld (by decide)
  · exact other own
  · exact refused ok

theorem dmaWrite_ctrl {s : State} {c v : Nat} (word : v < 2 ^ 32) : dmaWrite s c 0 false v = match dmaCtrl s c v with
    | none => regErr s
    | some t => regOk t 0 := by
  unfold dmaWrite dmaWriteWord
  rw [Nat.mod_eq_of_lt word, if_pos rfl]
  cases dmaCtrl s c v with
  | none => rfl
  | some t => rfl

theorem dmaDirect_done {s t : State} {w : Who} {c v : Nat} (lets : s.dmaLets w c v) (ctrl : dmaCtrl s c v = some t) :
    dmaDirect w c v s = .next (t.answer respOk 0) :=
  congrArg Host.Outcome.next (State.access_of_ok lets.reaches ((dmaReg_ctrl lets).trans ((dmaWrite_ctrl lets.word).trans (by rw [ctrl]))))

theorem dmaDirect_refused {s : State} {w : Who} {c v : Nat} (lets : s.dmaLets w c v) (ctrl : dmaCtrl s c v = none) :
    dmaDirect w c v s = .next (s.answer respTgtErr 0) :=
  congrArg Host.Outcome.next (State.access_of_err lets.reaches ((dmaReg_ctrl lets).trans ((dmaWrite_ctrl lets.word).trans (by rw [ctrl]))))

theorem exec_dmaGo {s t : State} {w : Who} {c : Nat} {stop clear : Bool} (lets : s.dmaLets w c (1 + atBit stop 1 + atBit clear 2))
    (stops : stop = true → s.dmaStop c = s) (clears : clear = true → s.dmaClear c = s) (go : s.dmaGo c = some t) :
    exec (.dmaGo w c stop clear) s = .next (t.answer respOk 0) := dmaDirect_done lets ((dmaCtrl_go stop clear stops clears).trans go)

theorem exec_dmaGo_idle {s : State} {w : Who} {c : Nat} {stop clear : Bool} (lets : s.dmaLets w c (1 + atBit stop 1 + atBit clear 2))
    (idle : (s.dmaCh c).state = .idle) (awake : s.pkgAwake = true) :
    exec (.dmaGo w c stop clear) s = .next ((s.dmaPromote c).answer respOk 0) :=
  exec_dmaGo lets (fun _ => State.dmaStop_rests (.inl idle)) (fun _ => State.dmaClear_other (by rw [idle]; decide)) (State.dmaGo_idle idle awake)

theorem exec_dmaStop {s : State} {w : Who} {c : Nat} (lets : s.dmaLets w c 2) : exec (.dmaStop w c) s = .next ((s.dmaStop c).answer respOk 0) :=
  dmaDirect_done lets rfl

theorem exec_dmaClear {s : State} {w : Who} {c : Nat} (lets : s.dmaLets w c 4) : exec (.dmaClear w c) s = .next ((s.dmaClear c).answer respOk 0) :=
  dmaDirect_done lets rfl

theorem exec_dmaSnap {s : State} {w : Who} {c : Nat} (lets : s.dmaLets w c 8) : exec (.dmaSnap w c) s = .next ((s.modDma c DmaCh.snap).answer respOk 0) :=
  dmaDirect_done lets rfl

/-- A write by a master that the grant does not match. -/
theorem exec_dmaStop_denied {s : State} {w : Who} {c : Nat} (channel : c < 32) (reach : s.reaches w (hubBase 4 + c * 0x100) true = true)
    (other : s.dmaGranted c w.src = false) : ∃ t, exec (.dmaStop w c) s = .next t ∧ t.rsp.resp = respDenied ∧ t.dma = s.dma := by
  have reg : c * 0x100 / 0x100 = c := by omega
  have body : dmaReg w s (c * 0x100) true false 2 = regDenied s := by
    unfold dmaReg
    rw [if_pos (by omega)]
    dsimp only
    rw [reg]
    exact if_pos (by simp [other])
  obtain ⟨node, tid, k, run⟩ := State.access_of_denied (body := fun s => dmaReg w s (c * 0x100) true false 2) reach (by rw [body]; rfl)
  refine ⟨_, congrArg Host.Outcome.next run, rfl, ?_⟩
  exact (State.noteDenial_steps (Steps.refl [.routers, .log, .evr] s) (by decide)).1 .dma (by decide)

end Sys2Proof.Machine
end

section
/-! PROOFS. The DMA commands and MEM_INIT, and the statement about them (16 R417, R418, R420, R424 to R427, R431, R434, R435; 14 R391). -/

open Sys2Proof
namespace Sys2Proof.Machine

theorem State.dmaCh_of_dma_eq {s t : State} (h : t.dma = s.dma) (c : Nat) : t.dmaCh c = s.dmaCh c := by unfold State.dmaCh; rw [h]

theorem State.dmaCh_modDma_answer (s : State) (c : Nat) (f : DmaCh → DmaCh) (resp : BitVec 3) (data : BitVec 64) :
    ((s.modDma c f).answer resp data).dmaCh c = f (s.dmaCh c) := s.dmaCh_modDma c f

/-! ### DMA_GRANT (16 R417) -/

/-- A well-formed DMA_GRANT that the session may ask for. -/
structure State.grantAsked (s : State) (m : Nat) : Prop where
  ask : s.asks m 0x0320 = true
  may : s.hasRole m roleT = true ∨ (BitVec.ofNat 12 ((s.req m).num 4 2) = (s.mbx m).opener ∧ (s.req m).num 6 2 = 0xFFF ∧ (s.req m).num 1 1 = 0)
  len : (s.req m).len = 8
  channel : (s.req m).num 0 1 < 32 ∨ (s.req m).num 0 1 = 0xFF
  priv : (s.req m).num 1 1 ≤ 1
  zero : (s.req m).zero 2 2 = true
  val : (s.req m).num 4 2 < 4096
  mask : (s.req m).num 6 2 < 4096

theorem cmdDmaGrant_serving {s : State} {m : Nat} (asked : s.grantAsked m) :
    ∃ g, Gable.hearing s m g ∧ ∀ {s2 : State} {st : Nat} {data : List (BitVec 8)}, cmdDmaGrant.body (s.setGable g) m (s.req m) = (s2, ⟨st, data⟩) → st < 0x100 →
      ∃ t, cmdDmaGrant.serve m s = t ∧ s.answered t m st data ∧ s2.changesOnly t [.gable, .evr] := by
  obtain ⟨ask, may, len, channel, priv, zero, val, mask⟩ := asked
  refine Command.serving ask (by decide) rfl ?_ (fun g => ?_) (fun h => nomatch h)
  · change ((s.heard m).hasRole m roleT || (BitVec.ofNat 12 ((s.req m).num 4 2) == ((s.heard m).mbx m).opener && (s.req m).num 6 2 == 0xFFF &&
      (s.req m).num 1 1 == 0)) = true
    rw [State.heard_hasRole, State.mbx_heard]
    rcases may with role | ⟨opener, whole, plain⟩
    · rw [role]; rfl
    · simp [opener, whole, plain]
  · change ((s.req m).len == 8 && (decide ((s.req m).num 0 1 < 32) || (s.req m).num 0 1 == 0xFF) && decide ((s.req m).num 1 1 ≤ 1) && (s.req m).zero 2 2 &&
      decide ((s.req m).num 4 2 < 4096) && decide ((s.req m).num 6 2 < 4096)) = true
    have asks : (decide ((s.req m).num 0 1 < 32) || (s.req m).num 0 1 == 0xFF) = true := by simpa using channel
    simp [len, asks, priv, zero, val, mask]

/-- The channel a DMA_GRANT gets: the one asked for, or the lowest free one. -/
def State.grantPick (s : State) (r : Request) : Option Nat :=
  if r.num 0 1 = 0xFF then (List.range 32).find? fun c => s.dmaFreeCh c else if s.dmaFreeCh (r.num 0 1) then some (r.num 0 1) else none

/-- A granted channel. -/
def DmaCh.grantTo (x : DmaCh) (r : Request) (sid : Nat) : DmaCh :=
  { x with valid := true, midVal := BitVec.ofNat 12 (r.num 4 2), midMask := BitVec.ofNat 12 (r.num 6 2), priv := r.num 1 1 == 1, owner := BitVec.ofNat 32 sid }

theorem cmdDmaGrant_body {s : State} {m : Nat} {r : Request} : cmdDmaGrant.body s m r = match s.grantPick r with
    | none => (s, bare stRefusedResource)
    | some c => (s.modDma c fun x => x.grantTo r (s.sid m), okReply (leBytes 4 c)) := rfl

/-- The first of a range for which a test holds. -/
theorem find?_range_of_first {p : Nat → Bool} {n c : Nat} (below : c < n) (holds : p c = true) (first : ∀ k ∈ List.range c, p k = false) :
    (List.range n).find? p = some c := by
  refine List.find?_eq_some_iff_append.mpr ⟨holds, List.range c, (List.range (n - c - 1)).map (· + (c + 1)), ?_, fun k hk => by rw [first k hk]; rfl⟩
  have whole : n = c + (n - c - 1 + 1) := by omega
  conv => lhs; rw [whole, List.range_add, List.range_succ_eq_map]
  simp [Function.comp_def, Nat.add_left_comm]

theorem State.dmaFreeCh_lt {s : State} {c : Nat} (free : s.dmaFreeCh c = true) : c < 32 := by
  unfold State.dmaFreeCh at free
  simp only [Bool.and_eq_true, decide_eq_true_eq] at free
  exact free.1.1.1

theorem State.grantPick_of_free {s : State} {r : Request} {c : Nat} (free : s.dmaFreeCh c = true)
    (asked : r.num 0 1 = c ∨ (r.num 0 1 = 0xFF ∧ ∀ k ∈ List.range c, s.dmaFreeCh k = false)) : s.grantPick r = some c := by
  have below := State.dmaFreeCh_lt free
  unfold State.grantPick
  rcases asked with own | ⟨any_, first⟩
  · rw [if_neg (by omega), own, if_pos free]
  · rw [if_pos any_]
    exact find?_range_of_first below free first

theorem exec_dmaGrant {s : State} {m c : Nat} (asked : s.grantAsked m) (pick : s.grantPick (s.req m) = some c) :
    ∃ t, exec (.dmaGrant m) s = .next t ∧ s.answered t m stOk (leBytes 4 c) ∧ (∀ k, k ≠ c → t.dmaCh k = s.dmaCh k) ∧
      t.dmaCh c = (s.dmaCh c).grantTo (s.req m) (s.sid m) := by
  obtain ⟨g, hears, serves⟩ := cmdDmaGrant_serving asked
  have seen : (s.setGable g).grantPick (s.req m) = some c := pick
  have body : cmdDmaGrant.body (s.setGable g) m (s.req m) =
      ((s.setGable g).modDma c fun x => x.grantTo (s.req m) ((s.setGable g).sid m), okReply (leBytes 4 c)) := by rw [cmdDmaGrant_body, seen]
  obtain ⟨t, run, answer, frame⟩ := serves body (by decide)
  have dma := State.dmaCh_of_dma_eq (frame .dma (by decide))
  refine ⟨t, congrArg Host.Outcome.next run, answer, fun k other => ?_, ?_⟩
  · rw [dma, State.dmaCh_modDma_other _ _ other]; rfl
  · rw [dma, State.dmaCh_modDma, hears.sid]; rfl

theorem exec_dmaGrant_refused {s : State} {m : Nat} (asked : s.grantAsked m) (pick : s.grantPick (s.req m) = none) :
    ∃ t, exec (.dmaGrant m) s = .next t ∧ s.answered t m stRefusedResource [] ∧ t.dma = s.dma := by
  obtain ⟨g, -, serves⟩ := cmdDmaGrant_serving asked
  have seen : (s.setGable g).grantPick (s.req m) = none := pick
  have body : cmdDmaGrant.body (s.setGable g) m (s.req m) = (s.setGable g, bare stRefusedResource) := by rw [cmdDmaGrant_body, seen]
  obtain ⟨t, run, answer, frame⟩ := serves body (by decide)
  exact ⟨t, congrArg Host.Outcome.next run, answer, frame .dma (by decide)⟩

/-! ### DMA_RELEASE and DMA_QUERY (16 R417, R435) -/

/-- A channel whose grant is being released. -/
def DmaCh.releaseFor (x : DmaCh) (tok : Option Nat) : DmaCh := { x with releasing := true, relCmd := tok, committed := false, pendingEnable := false }

theorem State.dmaRelease_eq (s : State) (c : Nat) (tok : Option Nat) :
    s.dmaRelease c tok = (let u := (s.modDma c fun x => x.releaseFor tok).dmaStop c
      match (u.dmaCh c).state with
      | .idle | .halted => if (u.dmaCh c).releasing then u.dmaFree c else u
      | _ => u) := rfl

theorem State.dmaCh_dmaFree (s : State) (c : Nat) : (s.dmaFree c).dmaCh c = (s.dmaCh c).blank := by
  unfold State.dmaFree
  dsimp only
  rw [State.dmaCh_of_dma_eq ((State.completeOpt_steps (Steps.refl [.gable, .evr] _) (by decide)).1 .dma (by decide)), State.dmaCh_modDma]

/-- A released channel with nothing outstanding is cleared at once. -/
theorem State.dmaCh_dmaRelease_free {s : State} {c : Nat} {tok : Option Nat} (noFill : s.fillOf c = none) (none_ : (s.dmaCh c).outstanding = [])
    (free : (s.dmaCh c).state ≠ .stopping) : (s.dmaRelease c tok).dmaCh c = (s.dmaCh c).blank := by
  rw [State.dmaRelease_eq]
  have noFill' := (s.fillOf_modDma c (fun x => x.releaseFor tok) c).trans noFill
  have ch := s.dmaCh_modDma c fun x => x.releaseFor tok
  generalize (s.modDma c fun x => x.releaseFor tok) = u at noFill' ch ⊢
  dsimp only
  have rests : (s.dmaCh c).state = .idle ∨ (s.dmaCh c).state = .halted → ((match ((u.dmaStop c).dmaCh c).state with
      | .idle | .halted => if ((u.dmaStop c).dmaCh c).releasing then (u.dmaStop c).dmaFree c else u.dmaStop c
      | _ => u.dmaStop c).dmaCh c) = (s.dmaCh c).blank := by
    intro h
    have state : (u.dmaCh c).state = (s.dmaCh c).state := by rw [ch]; rfl
    rw [State.dmaStop_rests (by rw [state]; exact h.imp_right .inl), state]
    have freed : (if (u.dmaCh c).releasing then u.dmaFree c else u).dmaCh c = (s.dmaCh c).blank := by
      rw [if_pos (by rw [ch]; rfl), State.dmaCh_dmaFree, ch]
      rfl
    rcases h with h | h <;> rw [h] <;> exact freed
  by_cases runs : (s.dmaCh c).running
  · have runs' : (u.dmaCh c).running := by rw [ch]; exact runs
    have stopped : u.dmaStop c = ((u.modDma c DmaCh.stopped).modDma c DmaCh.idled).dmaFree c := by
      rw [State.dmaStop_settles runs' (by rw [ch]; exact none_), State.dmaStopped_of_stop ((u.fillOf_modDma ..).trans noFill') (by rw [State.dmaCh_modDma]; rfl)]
      exact if_pos (by rw [State.dmaCh_modDma, ch]; rfl)
    have blank : (u.dmaStop c).dmaCh c = (s.dmaCh c).blank := by
      rw [stopped, State.dmaCh_dmaFree, State.dmaCh_modDma, State.dmaCh_modDma, ch]
      rfl
    rw [blank]
    exact (congrArg (fun t : State => t.dmaCh c) (if_neg Bool.false_ne_true)).trans blank
  · refine rests ?_
    unfold DmaCh.running at runs
    cases h : (s.dmaCh c).state <;> simp [h] at runs free ⊢

/-- A released channel with requests outstanding stops first. -/
theorem State.dmaCh_dmaRelease_stops {s : State} {c : Nat} {tok : Option Nat} (more : (s.dmaCh c).outstanding ≠ []) (busy : (s.dmaCh c).state = .busy) :
    (s.dmaRelease c tok).dmaCh c = ((s.dmaCh c).releaseFor tok).stopped := by
  rw [State.dmaRelease_eq]
  have ch := s.dmaCh_modDma c fun x => x.releaseFor tok
  generalize (s.modDma c fun x => x.releaseFor tok) = u at ch ⊢
  dsimp only
  have stop : u.dmaStop c = u.modDma c DmaCh.stopped :=
    State.dmaStop_waits (by rw [ch]; exact .inr (.inl busy)) (by rw [ch]; exact more)
  have stopped : (u.dmaStop c).dmaCh c = ((s.dmaCh c).releaseFor tok).stopped := by rw [stop, State.dmaCh_modDma, ch]
  rw [stopped]
  exact stopped

theorem exec_dmaRelease {s : State} {m c : Nat} (ask : s.asks m 0x0321 = true) (room : s.hasRoom m = true) (len : (s.req m).len = 4)
    (channel : (s.req m).num 0 1 = c) (below : c < 32) (zero : (s.req m).zero 1 3 = true) (valid : (s.dmaCh c).valid = true)
    (own : (s.dmaCh c).owner.toNat = s.sid m) (kept : (s.dmaCh c).releasing = false) :
    ∃ t g, exec (.dmaRelease m) s = .next t ∧ s.answered t m stAccepted [] ∧
      t.dmaCh c = ((s.setGable g).dmaRelease c (some (s.token m (s.req m)))).dmaCh c := by
  have may : cmdDmaRelease.may (s.heard m) m (s.req m) = true := by
    have dma : (s.heard m).dmaCh c = s.dmaCh c := State.dmaCh_of_dma_eq (s.heard_frame m .dma (by decide)) c
    change ((s.heard m).dmaCh ((s.req m).num 0 1)).valid && ((s.heard m).dmaCh ((s.req m).num 0 1)).owner.toNat == (s.heard m).sid m
    rw [channel, dma, valid, own, State.heard_sid]
    simp
  have arg : ∀ g, cmdDmaRelease.argOk (s.setGable g) (s.req m) = true := by
    intro g
    change ((s.req m).len == 4 && decide ((s.req m).num 0 1 < 32) && (s.req m).zero 1 3) = true
    simp [len, channel, below, zero]
  obtain ⟨g, hears, serves⟩ := Command.serving (c := cmdDmaRelease) ask (by decide) rfl may arg (fun _ => room)
  have body : cmdDmaRelease.body (s.setGable g) m (s.req m) =
      ((s.setGable g).dmaRelease c (some (s.token m (s.req m))), bare stAccepted) := by
    unfold cmdDmaRelease
    dsimp only
    rw [channel, hears.token]
    exact if_neg (ne_true_of_eq_false kept)
  obtain ⟨t, run, answer, frame⟩ := serves body (by decide)
  exact ⟨t, g, congrArg Host.Outcome.next run, answer, State.dmaCh_of_dma_eq (frame .dma (by decide)) c⟩

theorem exec_dmaQuery {s : State} {m c : Nat} (ask : s.asks m 0x0322 = true) (len : (s.req m).len = 4) (channel : (s.req m).num 0 1 = c) (below : c < 32)
    (zero : (s.req m).zero 1 3 = true) :
    ∃ t, exec (.dmaQuery m) s = .next t ∧ t.dma = s.dma ∧
      s.answered t m stOk (leBytes 4 (s.dmaCh c).status ++ leBytes 4 (s.dmaCh c).grantBits ++ leBytes 4 (s.dmaCh c).owner.toNat) := by
  subst channel
  have arg : ∀ g, cmdDmaQuery.argOk (s.setGable g) (s.req m) = true := by
    intro g
    change ((s.req m).len == 4 && decide ((s.req m).num 0 1 < 32) && (s.req m).zero 1 3) = true
    simp [len, below, zero]
  obtain ⟨g, -, serves⟩ := Command.serving (c := cmdDmaQuery) ask (by decide) rfl rfl arg (fun h => nomatch h)
  obtain ⟨t, run, answer, frame⟩ := serves (s2 := s.setGable g) (st := stOk) rfl (by decide)
  exact ⟨t, congrArg Host.Outcome.next run, frame .dma (by decide), answer⟩

/-! ### MEM_INIT (14 R391) -/

/-- The MID of a channel may write the access regions of a list. -/
def State.letWrite (s : State) (rs : List Nat) (c : Nat) : State :=
  rs.foldl (fun (s : State) t => s.setAcls (tmod AclTable.reset s.acls t fun x => { x with temps := x.temps ++ [{ mid := dmaMid c, wr := true }] })) s

theorem State.temps_letWrite (s : State) (rs : List Nat) (c r : Nat) (e : TempEntry)
    (h : e ∈ (tget AclTable.reset s.acls r).temps ∨ (e = { mid := dmaMid c, wr := true } ∧ r ∈ rs)) :
    e ∈ (tget AclTable.reset (s.letWrite rs c).acls r).temps := by
  induction rs generalizing s with
  | nil =>
    rcases h with h | ⟨-, h⟩
    · exact h
    · exact absurd h List.not_mem_nil
  | cons j rs ih =>
    refine ih (s.setAcls (tmod AclTable.reset s.acls j fun x => { x with temps := x.temps ++ [{ mid := dmaMid c, wr := true }] })) ?_
    rw [State.setAcls_acls]
    by_cases own : r = j
    · subst own
      rw [tget_tmod_same]
      rcases h with h | ⟨rfl, -⟩
      · exact .inl (List.mem_append_left _ h)
      · exact .inl (List.mem_append_right _ (List.mem_singleton.mpr rfl))
    · rw [tget_tmod_other _ _ _ own]
      exact h.imp_right fun ⟨e, mem⟩ => ⟨e, (List.mem_cons.mp mem).resolve_left own⟩

/-- The first stretch of a MEM_INIT fill. -/
def State.initFill (s : State) (m : Nat) (r : Request) : MemFill :=
  { mbx := s.token m r, base := r.num 0 8, limit := r.num 0 8 + r.num 8 8 - 1, pos := r.num 0 8, pattern := BitVec.ofNat 64 (r.num 16 8) }

theorem State.token_letWrite (s : State) (rs : List Nat) (c m : Nat) (r : Request) : (s.letWrite rs c).token m r = s.token m r := by
  have gable : (s.letWrite rs c).gable = s.gable := by
    unfold State.letWrite
    exact foldl_keeps State.gable _ (by intros; rfl) rs s
  unfold State.token State.sid State.mbx
  rw [gable]

theorem cmdMemInit_body {s : State} {m c : Nat} {r : Request} (found : ((List.range 32).find? fun c => s.dmaFreeCh c) = some c) :
    cmdMemInit.body s m r = ((s.letWrite (s.regionsIn (r.num 0 8) (r.num 0 8 + r.num 8 8 - 1)) c).fillStart c (s.initFill m r), bare stAccepted) := by
  unfold cmdMemInit State.initFill
  dsimp only
  rw [found, ← s.token_letWrite (s.regionsIn (r.num 0 8) (r.num 0 8 + r.num 8 8 - 1)) c m r]
  rfl

theorem State.dmaCh_modDram (s : State) (f : Dram → Dram) (c : Nat) : (s.modDram f).dmaCh c = s.dmaCh c := rfl

/-- A channel that a fill takes runs its first stretch. -/
theorem State.fillStart_leaves (s : State) (c : Nat) (f : MemFill) :
    ((s.fillStart c f).dmaCh c).held = true ∧ ((s.fillStart c f).dmaCh c).state = .busy ∧ ((s.fillStart c f).dmaCh c).wrPos = 0 ∧
    (s.fillStart c f).fillOf c = some f ∧ (s.fillStart c f).acls = s.acls := by
  have ch : (s.fillStart c f).dmaCh c = { (s.dmaCh c).fresh with active := f.set, state := .busy, held := true } := by
    unfold State.fillStart
    rw [State.dmaCh_modDram, State.dmaCh_modDma]
  have fill : (s.fillStart c f).fillOf c = some f := by
    change (((s.dram.fills.filter fun e => e.1 < c) ++ [(c, f)] ++ (s.dram.fills.filter fun e => c < e.1)).find? fun e => e.1 == c).map (·.2) = some f
    have before : ((s.dram.fills.filter fun e => e.1 < c).find? fun e => e.1 == c) = none := by
      refine List.find?_eq_none.mpr fun e he => ?_
      have low := (List.mem_filter.mp he).2
      simp only [decide_eq_true_eq] at low
      simp only [beq_iff_eq]
      omega
    rw [List.append_assoc, List.find?_append, before]
    simp
  exact ⟨by rw [ch], by rw [ch], by rw [ch]; rfl, fill, rfl⟩

/-- A well-formed MEM_INIT over regions that the opener may write. -/
structure State.initAsked (s : State) (m : Nat) : Prop where
  ask : s.asks m 0x0303 = true
  room : s.hasRoom m = true
  len : (s.req m).len = 24
  base : (s.req m).num 0 8 % 64 = 0
  size : (s.req m).num 8 8 % 64 = 0
  some_ : 0 < (s.req m).num 8 8
  inside : (s.req m).num 0 8 + (s.req m).num 8 8 ≤ 2 ^ 42
  may : s.mayWriteAll (s.mbx m).opener ((s.req m).num 0 8) ((s.req m).num 0 8 + (s.req m).num 8 8 - 1) = true

theorem cmdMemInit_serving {s : State} {m : Nat} (asked : s.initAsked m) :
    ∃ g, Gable.hearing s m g ∧ ∀ {s2 : State} {st : Nat} {data : List (BitVec 8)}, cmdMemInit.body (s.setGable g) m (s.req m) = (s2, ⟨st, data⟩) → st < 0x100 →
      ∃ t, cmdMemInit.serve m s = t ∧ s.answered t m st data ∧ s2.changesOnly t [.gable, .evr] := by
  obtain ⟨ask, room, len, base, size, some_, inside, may⟩ := asked
  refine Command.serving ask (by decide) rfl ?_ (fun g => ?_) (fun _ => room)
  · obtain ⟨g, heard⟩ := s.heard_eq_setGable m
    have opener : ((s.heard m).mbx m).opener = (s.mbx m).opener := by rw [State.mbx_heard]
    change (s.heard m).mayWriteAll ((s.heard m).mbx m).opener ((s.req m).num 0 8) ((s.req m).num 0 8 + (s.req m).num 8 8 - 1) = true
    rw [opener, heard]
    exact may
  · change ((s.req m).len == 24 && (s.req m).num 0 8 % 64 == 0 && (s.req m).num 8 8 % 64 == 0 && decide (0 < (s.req m).num 8 8) &&
      decide ((s.req m).num 0 8 + (s.req m).num 8 8 ≤ 2 ^ 42)) = true
    rw [len, base, size]
    simp only [beq_self_eq_true, Bool.true_and, Bool.and_eq_true, decide_eq_true_eq]
    exact ⟨some_, inside⟩

theorem exec_memInit {s : State} {m c : Nat} (asked : s.initAsked m) (free : s.dmaFreeCh c = true) (first : ∀ k ∈ List.range c, s.dmaFreeCh k = false) :
    ∃ t, exec (.memInit m) s = .next t ∧ s.answered t m stAccepted [] ∧ (t.dmaCh c).held = true ∧ (t.dmaCh c).state = .busy ∧ (t.dmaCh c).wrPos = 0 ∧
      t.fillOf c = some (s.initFill m (s.req m)) ∧
      ∀ r ∈ s.regionsIn ((s.req m).num 0 8) ((s.req m).num 0 8 + (s.req m).num 8 8 - 1), ({ mid := dmaMid c, wr := true } : TempEntry) ∈ (tget AclTable.reset t.acls r).temps := by
  obtain ⟨g, hears, serves⟩ := cmdMemInit_serving asked
  have found : ((List.range 32).find? fun c => (s.setGable g).dmaFreeCh c) = some c := find?_range_of_first (State.dmaFreeCh_lt free) free first
  obtain ⟨t, run, answer, frame⟩ := serves (cmdMemInit_body found) (by decide)
  have fill : (s.setGable g).initFill m (s.req m) = s.initFill m (s.req m) := by unfold State.initFill; rw [hears.token]
  rw [fill] at frame
  have temps := fun r h => (s.setGable g).temps_letWrite ((s.setGable g).regionsIn ((s.req m).num 0 8) ((s.req m).num 0 8 + (s.req m).num 8 8 - 1)) c r
    { mid := dmaMid c, wr := true } (.inr ⟨rfl, h⟩)
  generalize (s.setGable g).letWrite ((s.setGable g).regionsIn ((s.req m).num 0 8) ((s.req m).num 0 8 + (s.req m).num 8 8 - 1)) c = u at frame temps
  obtain ⟨held, state, pos, fills, acls⟩ := u.fillStart_leaves c (s.initFill m (s.req m))
  generalize u.fillStart c (s.initFill m (s.req m)) = v at frame held state pos fills acls
  have ch := State.dmaCh_of_dma_eq (frame .dma (by decide)) c
  have dram : t.dram = v.dram := frame .dram (by decide)
  have tables : t.acls = u.acls := (frame .acls (by decide)).trans acls
  refine ⟨t, congrArg Host.Outcome.next run, answer, by rw [ch]; exact held, by rw [ch]; exact state, by rw [ch]; exact pos, ?_, fun r h => ?_⟩
  · unfold State.fillOf at fills ⊢
    rw [dram]
    exact fills
  · rw [tables]
    exact temps r h

theorem exec_memInit_busy {s : State} {m : Nat} (asked : s.initAsked m) (none_ : ∀ k ∈ List.range 32, s.dmaFreeCh k = false) :
    ∃ t, exec (.memInit m) s = .next t ∧ s.answered t m stBusy [] ∧ t.dma = s.dma ∧ t.acls = s.acls ∧ t.dram = s.dram := by
  obtain ⟨g, -, serves⟩ := cmdMemInit_serving asked
  have found : ((List.range 32).find? fun c => (s.setGable g).dmaFreeCh c) = none := List.find?_eq_none.mpr fun k hk => ne_true_of_eq_false (none_ k hk)
  have body : cmdMemInit.body (s.setGable g) m (s.req m) = (s.setGable g, bare stBusy) := by
    unfold cmdMemInit
    dsimp only
    rw [found]
  obtain ⟨t, run, answer, frame⟩ := serves body (by decide)
  exact ⟨t, congrArg Host.Outcome.next run, answer, frame .dma (by decide), frame .acls (by decide), frame .dram (by decide)⟩

end Sys2Proof.Machine

open Sys2Proof Sys2Proof.Machine

/-- Settles O45: each command through the channel it picks, and each bit of DMA_CTRL against the state of its channel. -/
theorem dmaCommands : Obligations.dmaCommands := by
  unfold Obligations.dmaCommands
  refine ⟨?grants, ?refuses, ?releases, ?query, ?go, ?goTimed, ?goInvalid, ?goRunning, ?goHalted, ?stop, ?clear, ?snap, ?denied, ?fills, ?busy⟩
  case grants =>
    rintro s m c ⟨ask, -, may, len, priv, zero, val, mask, free, asked⟩
    have below := State.dmaFreeCh_lt free
    exact exec_dmaGrant ⟨ask, may, len, by omega, priv, zero, val, mask⟩ (State.grantPick_of_free free asked)
  case refuses =>
    rintro s m ⟨ask, -, role, len, priv, zero, val, mask, below, taken⟩
    refine exec_dmaGrant_refused ⟨ask, .inl role, len, .inl below, priv, zero, val, mask⟩ ?_
    exact (if_neg (by omega)).trans (if_neg (ne_true_of_eq_false taken))
  case releases =>
    rintro s m c ⟨ask, room, -, len, channel, below, zero, valid, own, kept, noFill⟩
    obtain ⟨t, g, run, answer, ch⟩ := exec_dmaRelease ask room len channel below zero valid own kept
    refine ⟨t, run, answer, fun none_ free => ?_, fun more busy => ?_⟩
    · rw [ch, State.dmaCh_dmaRelease_free (s := s.setGable g) noFill none_ free]; rfl
    · rw [ch, State.dmaCh_dmaRelease_stops (s := s.setGable g) more busy]
      exact ⟨rfl, rfl, rfl, rfl⟩
  case query => exact fun s m c ⟨ask, _, len, channel, below, zero⟩ => exec_dmaQuery ask len channel below zero
  case go =>
    rintro s w c stop clear ⟨below, reach, granted, held, idle, awake, valid, timed⟩
    have lets : s.dmaLets w c (1 + atBit stop 1 + atBit clear 2) := ⟨below, reach, granted, held.imp_right .inl, (goBits stop clear).2.2.2.2⟩
    have ch : ((s.dmaPromote c).answer respOk 0).dmaCh c = _ := State.dmaPromote_valid valid
    rw [timed] at ch
    refine ⟨_, exec_dmaGo_idle lets idle awake, rfl, ?_⟩
    rw [ch]
    exact ⟨rfl, rfl, rfl, rfl, rfl, rfl, rfl, rfl, rfl⟩
  case goTimed =>
    rintro s w c p stop clear ⟨below, reach, granted, held, idle, awake, valid, timed, start⟩
    have lets : s.dmaLets w c (1 + atBit stop 1 + atBit clear 2) := ⟨below, reach, granted, held.imp_right .inl, (goBits stop clear).2.2.2.2⟩
    have at_ : s.dmaStartAt c = p := start.symm
    have ch : ((s.dmaPromote c).answer respOk 0).dmaCh c = _ := State.dmaPromote_valid valid
    rw [timed, at_, Bool.true_and] at ch
    refine ⟨_, exec_dmaGo_idle lets idle awake, rfl, ?_⟩
    rw [ch]
    unfold DmaCh.promoted
    rw [timed]
    refine ⟨rfl, ?_, fun future => ?_, fun past => ?_⟩
    · by_cases future : s.ps 8 < p <;> simp [future]
    · simp only [decide_eq_true future, Bool.not_true, Bool.and_false, Bool.or_false]
    · simp [show ¬ s.ps 8 < p by omega]
  case goInvalid =>
    rintro s w c stop clear ⟨below, reach, granted, held, idle, awake, invalid⟩
    have lets : s.dmaLets w c (1 + atBit stop 1 + atBit clear 2) := ⟨below, reach, granted, held.imp_right .inl, (goBits stop clear).2.2.2.2⟩
    refine ⟨_, exec_dmaGo_idle lets idle awake, rfl, (State.dmaPromote_invalid invalid).trans ?_⟩
    rw [← idle]
  case goRunning =>
    rintro s w c clear ⟨below, reach, granted, held, runs⟩
    have lets : s.dmaLets w c (1 + atBit false 1 + atBit clear 2) := ⟨below, reach, granted, held.imp_right .inl, (goBits false clear).2.2.2.2⟩
    have alive : (s.dmaCh c).state ≠ .halted := by rcases runs with h | h | h <;> simp [h]
    exact ⟨_, exec_dmaGo lets (fun h => nomatch h) (fun _ => State.dmaClear_other alive) (State.dmaGo_running runs), rfl, s.dmaCh_modDma_answer c _ respOk 0⟩
  case goHalted =>
    rintro s w c stop ⟨below, reach, granted, held, halted⟩
    have lets : s.dmaLets w c (1 + atBit stop 1 + atBit false 2) := ⟨below, reach, granted, held.imp_right .inl, (goBits stop false).2.2.2.2⟩
    have none_ := (dmaCtrl_go (s := s) (c := c) stop false (fun _ => State.dmaStop_rests (.inr (.inl halted))) (fun h => nomatch h)).trans (State.dmaGo_halted halted)
    exact ⟨_, dmaDirect_refused lets none_, rfl, rfl⟩
  case stop =>
    rintro s w c ⟨below, reach, granted, kept, noGo, noFill⟩
    refine ⟨_, exec_dmaStop ⟨below, reach, granted, .inr (.inr (by decide)), by decide⟩, rfl, fun runs => ?_, fun rests => ?_⟩
    · exact State.dmaCh_dmaStop (s := s) (by unfold DmaCh.running; tauto) noFill kept noGo
    · rw [State.dmaStop_rests rests]; rfl
  case clear =>
    rintro s w c ⟨below, reach, granted, held⟩
    refine ⟨_, exec_dmaClear ⟨below, reach, granted, held.imp_right .inl, by decide⟩, rfl, ?_⟩
    change (s.dmaClear c).dmaCh c = _
    unfold State.dmaClear
    by_cases halted : (s.dmaCh c).state = .halted
    · rw [if_pos halted, if_pos halted, State.dmaCh_modDma]
    · rw [if_neg halted, if_neg halted]
  case snap =>
    rintro s w c ⟨below, reach, granted⟩
    exact ⟨_, exec_dmaSnap ⟨below, reach, granted, .inr (.inr (by decide)), by decide⟩, rfl, s.dmaCh_modDma_answer c _ respOk 0⟩
  case denied => exact fun s w c ⟨below, reach, other⟩ => exec_dmaStop_denied below reach other
  case fills =>
    rintro s m c ⟨ask, room, -, len, base, size, some_, inside, may, free, first⟩
    exact exec_memInit ⟨ask, room, len, base, size, some_, inside, may⟩ free first
  case busy =>
    rintro s m ⟨ask, room, -, len, base, size, some_, inside, may, none_⟩
    exact exec_memInit_busy ⟨ask, room, len, base, size, some_, inside, may⟩ none_

end

section
/-! PROOFS. How a DMA transfer runs, retries, halts and ends (16 R416, R419, R421, R427 to R433). -/

open Sys2Proof
namespace Sys2Proof.Machine

/-! ### Bytes of a table -/

theorem length_bytesAt (bs : List (BitVec 8)) (off n : Nat) : (bytesAt bs off n).length = n := by
  unfold bytesAt
  simp only [List.length_append, List.length_replicate, List.length_take]
  omega

theorem tget_tabWrite (t : Tab (BitVec 8)) (off : Nat) (bs : List (BitVec 8)) (i : Nat) :
    tget 0 (tabWrite t off bs) i = if off ≤ i ∧ i < off + bs.length then bs.getD (i - off) 0 else tget 0 t i := by
  induction bs generalizing t off with
  | nil => rw [if_neg (by simp)]; rfl
  | cons b bs ih =>
    unfold tabWrite
    rw [ih]
    by_cases here : i = off
    · subst here
      rw [if_neg (by omega), tget_tput_same, if_pos (by simp)]
      simp
    · rw [tget_tput_other _ _ _ here]
      by_cases inside : off ≤ i ∧ i < off + (b :: bs).length
      · have inside' : off + 1 ≤ i ∧ i < off + 1 + bs.length := by simp at inside; omega
        rw [if_pos inside, if_pos inside', show i - off = (i - (off + 1)) + 1 by omega, List.getD_cons_succ]
      · rw [if_neg inside, if_neg (by simp at inside; omega)]

theorem tabBytes_tabWrite (t : Tab (BitVec 8)) (off : Nat) (bs : List (BitVec 8)) : tabBytes (tabWrite t off bs) off bs.length = bs := by
  refine List.ext_getElem (by simp [tabBytes]) fun i h _ => ?_
  have below : i < bs.length := by simpa [tabBytes] using h
  simp only [tabBytes, List.getElem_map, List.getElem_range, tget_tabWrite]
  rw [if_pos (by omega), Nat.add_sub_cancel_left, List.getD_eq_getElem _ _ below]

theorem tget_filter_from {V : Type} (d : V) (t : Tab V) {w i : Nat} (from_ : w ≤ i) : tget d (t.filter fun e => decide (w ≤ e.1)) i = tget d t i := by
  induction t with
  | nil => rfl
  | cons e t ih =>
    obtain ⟨k, v⟩ := e
    by_cases kept : w ≤ k
    · rw [List.filter_cons_of_pos (by simpa using kept)]
      unfold tget
      rw [ih]
    · rw [List.filter_cons_of_neg (by simpa using kept), ih]
      conv => rhs; unfold tget
      rw [if_neg (by omega)]

theorem tabBytes_filter_from (t : Tab (BitVec 8)) {w off : Nat} (n : Nat) (from_ : w ≤ off) :
    tabBytes (t.filter fun e => decide (w ≤ e.1)) off n = tabBytes t off n := by
  unfold tabBytes
  exact List.map_congr_left fun i _ => tget_filter_from 0 t (by omega)

/-! ### A request that a master sends (01 R18) -/

/-- Requests a master has outstanding, by tag and address. -/
def State.booked (s : State) (mid : BitVec 12) : List (BitVec 10 × BitVec 48) := (s.master mid).out.map fun o => (o.tag, o.addr)

theorem State.booked_of_masters_eq {s t : State} (h : t.masters = s.masters) (mid : BitVec 12) : t.booked mid = s.booked mid := by
  unfold State.booked State.master
  rw [h]

theorem State.booked_modMaster (s : State) (mid : BitVec 12) (f : MasterPort → MasterPort) :
    (s.modMaster mid f).booked mid = (f (s.master mid)).out.map fun o => (o.tag, o.addr) := by
  unfold State.booked
  rw [State.master_modMaster]

theorem State.meter_masters (s : State) (n : Nat) (k : Pkt) : (s.meter n k).1.masters = s.masters :=
  (State.meter_steps (Steps.refl [.routers, .flows, .evr] s) (by decide)).1 .masters (by decide)

theorem State.sendFrom_masters (s : State) (own : BitVec 16) (k : Pkt) : (s.sendFrom own k).masters = s.masters :=
  (State.sendFrom_steps (Steps.refl [.routers] s) (by decide)).1 .masters (by decide)

/-- A request takes the free tag and is booked under it, whatever becomes of it. -/
theorem State.injectReq_books {s : State} {mid : BitVec 12} {q : Req} {tag host : BitVec 10} (free : (s.master mid).freeTag = some tag)
    (cls : opcClass q.opc = some .req) :
    (s.injectReq mid q host).2 = some tag ∧ (s.injectReq mid q host).1.booked mid = s.booked mid ++ [(tag, q.addr)] := by
  have book : ∀ dest : BitVec 16, (s.modMaster mid fun x => { x with
      out := x.out ++ [{ tag := tag, opc := q.opc, addr := q.addr, len := q.len, atPs := s.now, hostTag := host, dest := dest }], nextTag := tag + 1 }).booked mid =
      s.booked mid ++ [(tag, q.addr)] := by
    intro dest
    rw [State.booked_modMaster, List.map_append]
    rfl
  unfold State.injectReq
  dsimp only
  rw [free, cls]
  simp only [if_true]
  split
  · split
    · refine ⟨rfl, ?_⟩
      rw [State.booked_of_masters_eq (State.sendFrom_masters ..), State.booked_of_masters_eq (State.meter_masters ..)]
      exact book _
    · refine ⟨rfl, ?_⟩
      rw [State.booked_modMaster]
      exact book 0
  · refine ⟨rfl, ?_⟩
    rw [State.booked_modMaster]
    exact book 0

/-! ### Beats (16 R416, R421, R428) -/

/-- The opcode of a beat is a request's. -/
theorem opcClass_beat (s : State) (c : Nat) (b : Beat) : opcClass (forcePriv s (dmaMid c) (if b.write then 2 else 0)) = some .req := by
  have low : ∀ o : BitVec 5, o = 2 ∨ o = 0 → opcClass o = some .req ∧ opcClass (o ||| 1) = some .req ∧ opcClass (o &&& 0x1E) = some .req := by decide
  obtain ⟨plain, raised, dropped⟩ := low (if b.write then 2 else 0) (by cases b.write <;> simp)
  unfold forcePriv
  split
  · exact raised
  · split
    · split
      · exact raised
      · exact dropped
    · exact plain

theorem State.dmaCh_injectReq (s : State) (mid : BitVec 12) (q : Req) (host : BitVec 10) (c : Nat) : (s.injectReq mid q host).1.dmaCh c = s.dmaCh c :=
  State.dmaCh_of_dma_eq ((State.injectReq_steps (Steps.refl [.routers, .masters, .flows, .evr] s) (by decide)).1 .dma (by decide)) c

/-- A beat joins those of its channel under the tag it got. -/
theorem State.sendBeat_joins {s : State} {c : Nat} {b : Beat} {tag : BitVec 10} (free : (s.master (dmaMid c)).freeTag = some tag) :
    (s.sendBeat c b).dmaCh c = { s.dmaCh c with beats := (s.dmaCh c).beats ++ [{ b with tag := tag, retryAt := none }] } ∧
    (s.sendBeat c b).booked (dmaMid c) = s.booked (dmaMid c) ++ [(tag, b.addr)] ∧ (s.sendBeat c b).dmaLast = s.dmaLast := by
  unfold State.sendBeat
  dsimp only
  have cls := opcClass_beat s c b
  generalize forcePriv s (dmaMid c) (if b.write then 2 else 0) = opc at cls ⊢
  generalize sent : ({ opc := opc, addr := b.addr, len := BitVec.ofNat 8 (b.len - 1),
                       be := if b.write then BitVec.ofNat 64 (2 ^ min b.len 64 - 1) else 0, ord := (s.dmaCh c).active.ord, poison := false, data := b.data } : Req) = q
  have addr : q.addr = b.addr := by rw [← sent]
  have cls' : opcClass q.opc = some .req := by rw [← sent]; exact cls
  obtain ⟨got, books⟩ := State.injectReq_books (q := q) (host := 0) free cls'
  have ch := s.dmaCh_injectReq (dmaMid c) q 0 c
  have last : (s.injectReq (dmaMid c) q 0).1.dmaLast = s.dmaLast :=
    (State.injectReq_steps (Steps.refl [.routers, .masters, .flows, .evr] s) (by decide)).1 .dmaLast (by decide)
  generalize s.injectReq (dmaMid c) q 0 = r at got books ch last ⊢
  obtain ⟨u, o⟩ := r
  dsimp only at got books ch last
  rw [got]
  dsimp only
  rw [State.dmaCh_modDma, ch]
  refine ⟨rfl, ?_, last⟩
  rw [← addr]
  exact books

/-- The position of its side that a beat moves. -/
def DmaCh.moved (x : DmaCh) (b : Beat) : BeatKind → DmaCh
  | .read => { x with rdPos := x.rdPos + b.len }
  | .readDst => { x with rd2Pos := x.rd2Pos + b.len }
  | .write =>
    if x.active.fill then { x with wrPos := x.wrPos + b.len, rdBytes := x.rdBytes + BitVec.ofNat 48 b.len, bufCnt := x.bufCnt + BitVec.ofNat 13 b.len }
    else { x with wrPos := x.wrPos + b.len }
  | .readBack => x

theorem DmaCh.moved_leaves (x : DmaCh) (b : Beat) (kind : BeatKind) :
    (x.moved b kind).beats = x.beats ∧ (x.moved b kind).rdPos = x.rdPos + (if kind = .read then b.len else 0) ∧
    (x.moved b kind).rd2Pos = x.rd2Pos + (if kind = .readDst then b.len else 0) ∧ (x.moved b kind).wrPos = x.wrPos + (if kind = .write then b.len else 0) := by
  cases kind with
  | read => exact ⟨rfl, rfl, rfl, rfl⟩
  | readDst => exact ⟨rfl, rfl, rfl, rfl⟩
  | readBack => exact ⟨rfl, rfl, rfl, rfl⟩
  | write =>
    unfold DmaCh.moved
    dsimp only
    split
    · exact ⟨rfl, rfl, rfl, rfl⟩
    · exact ⟨rfl, rfl, rfl, rfl⟩

/-- The state in which a beat whose turn it is has moved its side. -/
def State.beatMoved (s : State) (c : Nat) (b : Beat) (kind : BeatKind) : State :=
  (s.setDmaLast (tput 0 s.dmaLast (c / 16) (c % 16))).modDma c fun x => x.moved b kind

/-- Data of a copy draws free values and changes nothing else. -/
theorem State.copyData_fst (s : State) (a : DmaSet) (b : Beat) : ∃ n, (s.copyData a b).1 = s.drew n := by
  unfold State.copyData
  dsimp only
  split
  · exact ⟨_, rfl⟩
  · exact ⟨0, rfl⟩

theorem State.copyData_beatMoved (s : State) (c : Nat) (b b' : Beat) (kind : BeatKind) (a : DmaSet) :
    ((s.beatMoved c b kind).copyData a b').2 = (s.copyData a b').2 := by
  unfold State.copyData
  dsimp only
  split
  · rfl
  · rfl

theorem exec_dmaBeatIssue {s : State} {c : Nat} {kind : BeatKind} {b : Beat} (below : c < 32) (next : (s.dmaCh c).nextBeat kind = some b)
    (turn : s.dmaTurn c = true) {tag : BitVec 10} (free : (s.master (dmaMid c)).freeTag = some tag) :
    ∃ n, exec (.dmaBeatIssue c kind) s = .next (((s.beatMoved c b kind).drew n).sendBeat c { b with data := (s.copyData (s.dmaCh c).active b).2 }) := by
  obtain ⟨n, drawn⟩ := (s.beatMoved c b kind).copyData_fst (s.dmaCh c).active b
  refine ⟨n, congrArg Host.Outcome.next ?_⟩
  rw [← s.copyData_beatMoved c b b kind, ← drawn]
  unfold Sys2Proof.Machine.dmaBeatIssue
  dsimp only
  rw [next]
  dsimp only
  rw [if_neg (by rw [free]; simp [turn, below])]
  unfold State.beatMoved
  cases kind with
  | read => rfl
  | readDst => rfl
  | write => rfl
  | readBack => rfl

/-! ### Responses (16 R430 to R432) -/

/-- A response was taken from a master, with the request it answers. -/
def State.tookRsp (s : State) (mid : BitVec 12) (k : Pkt) : State :=
  (s.modMaster mid fun m => { m with rsps := m.rsps.tail }).modMaster mid fun m => { m with out := m.out.filter fun x => x.tag != k.tag }

theorem State.takeRsp_of_outstanding {s : State} {mid : BitVec 12} {k : Pkt} {rest : List Pkt} {o : Outst} (rsps : (s.master mid).rsps = k :: rest)
    (out : (s.master mid).out.find? (fun o => o.tag == k.tag) = some o) : s.takeRsp mid = some (k, some o, s.tookRsp mid k) := by
  unfold State.takeRsp
  rw [rsps]
  dsimp only
  rw [out]
  rfl

theorem State.rsps_tookRsp {s : State} {mid : BitVec 12} {k : Pkt} {rest : List Pkt} (rsps : (s.master mid).rsps = k :: rest) :
    ((s.tookRsp mid k).master mid).rsps = rest := by
  unfold State.tookRsp
  rw [State.master_modMaster, State.master_modMaster, rsps]
  rfl

theorem State.tookRsp_frame (s : State) (mid : BitVec 12) (k : Pkt) : s.changesOnly (s.tookRsp mid k) [.masters] :=
  (State.modMaster_steps (State.modMaster_steps (Steps.refl [.masters] s) (by decide)) (by decide)).1

/-- A response that answers a beat in flight. -/
structure State.answers (s : State) (c : Nat) (k : Pkt) (rest : List Pkt) (o : Outst) (b : Beat) : Prop where
  rsps : (s.master (dmaMid c)).rsps = k :: rest
  out : (s.master (dmaMid c)).out.find? (fun o => o.tag == k.tag) = some o
  beat : (s.dmaCh c).beats.find? (fun b => b.tag == o.tag && b.retryAt.isNone) = some b

/-- The beats that a response to a tag leaves in flight. -/
def DmaCh.without (x : DmaCh) (tag : BitVec 10) : List Beat := x.beats.filter fun y => !(y.tag == tag && y.retryAt.isNone)

/-- What a response does to the channel, once its RESP is known. -/
def State.beatAnswered (s : State) (c : Nat) (tag : BitVec 10) (b : Beat) (data : List (BitVec 8)) (resp : BitVec 3) : State :=
  let x := s.dmaCh c
  if resp = respOk then
    let s := s.modDma c fun y => (({ y with beats := x.without tag } : DmaCh).beatOk b data).trim
    if b.rb ∧ x.state = .readback then s.dmaDone c else s.dmaAdvance c
  else if x.state = .stopping then (s.modDma c fun y => { y with beats := x.without tag }).dmaSettle c
  else if retryable resp ∧ b.tries < x.active.retry then
    s.modDma c fun y => { y with beats := x.without tag ++ [{ b with tries := b.tries + 1, retryAt := some (s.now + 2 ^ b.tries * psUs) }] }
  else (s.modDma c fun y => { y with beats := x.without tag }).dmaHalt c b resp (retryable resp)

theorem exec_dmaBeatResponse {s : State} {c : Nat} {k : Pkt} {rest : List Pkt} {o : Outst} {b : Beat} (answers : s.answers c k rest o b) :
    exec (.dmaBeatResponse c) s =
      .next ((s.tookRsp (dmaMid c) k).beatAnswered c o.tag b k.data (if k.resp = respOk ∧ k.poison = true then respPoison else k.resp)) := by
  obtain ⟨rsps, out, beat⟩ := answers
  have ch : (s.tookRsp (dmaMid c) k).dmaCh c = s.dmaCh c := rfl
  refine congrArg Host.Outcome.next ?_
  unfold Sys2Proof.Machine.dmaBeatResponse
  rw [State.takeRsp_of_outstanding rsps out]
  dsimp only
  rw [ch, beat]
  rfl

theorem State.beatAnswered_ok {s : State} {c : Nat} {tag : BitVec 10} {b : Beat} {data : List (BitVec 8)} (moves : ¬ (b.rb = true ∧ (s.dmaCh c).state = .readback)) :
    s.beatAnswered c tag b data respOk =
      (s.modDma c fun y => (({ y with beats := (s.dmaCh c).without tag } : DmaCh).beatOk b data).trim).dmaAdvance c := by
  unfold State.beatAnswered
  dsimp only
  rw [if_pos rfl, if_neg moves]

end Sys2Proof.Machine
end

section
/-! PROOFS. The clauses of a DMA transfer, and `dmaTransfers`. -/

open Sys2Proof
namespace Sys2Proof.Machine

theorem State.dmaTimedStart_due {s : State} {c : Nat} (waits : (s.dmaCh c).state = .wait) (due : (s.dmaCh c).startP ≤ s.ps 8) :
    exec (.dmaTimedStart c) s = .next (s.modDma c fun x => { x with state := .busy }) :=
  congrArg Host.Outcome.next (if_pos ⟨waits, due⟩)

theorem State.dmaTimedStart_early {s : State} {c : Nat} (early : s.ps 8 < (s.dmaCh c).startP) : exec (.dmaTimedStart c) s = .next s :=
  congrArg Host.Outcome.next (if_neg fun h => Nat.not_le.mpr early h.2)

theorem State.dmaCh_beatMoved_drew (s : State) (c : Nat) (b : Beat) (kind : BeatKind) (n : Nat) :
    ((s.beatMoved c b kind).drew n).dmaCh c = (s.dmaCh c).moved b kind :=
  (State.dmaCh_modDma (s.setDmaLast (tput 0 s.dmaLast (c / 16) (c % 16))) c fun x => x.moved b kind).trans rfl

/-- A beat whose turn it is enters the network. -/
theorem exec_dmaBeatIssue_enters {s : State} {c : Nat} {kind : BeatKind} {b : Beat} {tag : BitVec 10} (below : c < 32)
    (next : (s.dmaCh c).nextBeat kind = some b) (turn : s.dmaTurn c = true) (free : (s.master (dmaMid c)).freeTag = some tag) :
    ∃ t, exec (.dmaBeatIssue c kind) s = .next t ∧
      (t.dmaCh c).beats = (s.dmaCh c).beats ++ [{ b with tag := tag, retryAt := none, data := (s.copyData (s.dmaCh c).active b).2 }] ∧
      t.booked (dmaMid c) = s.booked (dmaMid c) ++ [(tag, b.addr)] ∧
      (t.dmaCh c).rdPos = (s.dmaCh c).rdPos + (if kind = .read then b.len else 0) ∧ (t.dmaCh c).rd2Pos = (s.dmaCh c).rd2Pos + (if kind = .readDst then b.len else 0) ∧
      (t.dmaCh c).wrPos = (s.dmaCh c).wrPos + (if kind = .write then b.len else 0) ∧ tget 0 t.dmaLast (c / 16) = c % 16 := by
  obtain ⟨n, run⟩ := exec_dmaBeatIssue below next turn free
  refine ⟨_, run, ?_⟩
  have ch : ((s.beatMoved c b kind).drew n).dmaCh c = (s.dmaCh c).moved b kind := State.dmaCh_beatMoved_drew ..
  have last : tget 0 ((s.beatMoved c b kind).drew n).dmaLast (c / 16) = c % 16 := tget_tput_same ..
  have booked : ((s.beatMoved c b kind).drew n).booked (dmaMid c) = s.booked (dmaMid c) := rfl
  have free' : (((s.beatMoved c b kind).drew n).master (dmaMid c)).freeTag = some tag := free
  generalize (s.beatMoved c b kind).drew n = u at ch last booked free' ⊢
  generalize (s.copyData (s.dmaCh c).active b).2 = data
  obtain ⟨joined, books, same⟩ := State.sendBeat_joins (c := c) (b := { b with data := data }) free'
  obtain ⟨beats, rd, rd2, wr⟩ := (s.dmaCh c).moved_leaves b kind
  rw [joined, books, same, ch, booked]
  exact ⟨congrArg (· ++ _) beats, rfl, rd, rd2, wr, last⟩

/-! ### Answers that are OK (16 R431 to R433) -/

theorem exec_dmaBeatResponse_ok {s : State} {c : Nat} {k : Pkt} {rest : List Pkt} {o : Outst} {b : Beat} (answers : s.answers c k rest o b)
    (ok : k.resp = respOk) (clean : k.poison = false) (moves : ¬ (b.rb = true ∧ (s.dmaCh c).state = .readback)) :
    exec (.dmaBeatResponse c) s = .next (((s.tookRsp (dmaMid c) k).modDma c fun y =>
      (({ y with beats := (s.dmaCh c).without o.tag } : DmaCh).beatOk b k.data).trim).dmaAdvance c) := by
  rw [exec_dmaBeatResponse answers, if_neg (by rw [clean]; exact fun h => Bool.noConfusion h.2), ok, State.beatAnswered_ok (s := s.tookRsp (dmaMid c) k) moves]
  rfl

theorem State.dmaAdvance_busy {s : State} {c : Nat} (busy : (s.dmaCh c).state = .busy) (copies : (s.dmaCh c).active.mode ≠ 3) :
    s.dmaAdvance c = if (s.dmaCh c).wrPos = (s.dmaCh c).active.dstShape.total ∧ (s.dmaCh c).beats = [] then s.modDma c fun x => { x with state := .readback } else s := by
  unfold State.dmaAdvance
  dsimp only
  rw [busy]
  exact if_neg copies

/-- Data of a copy's read joins the buffer and counts. -/
def DmaCh.joined (x : DmaCh) (b : Beat) (data : List (BitVec 8)) : DmaCh :=
  { x with buf := tabWrite x.buf b.pos (bytesAt data 0 b.len), got := x.got ++ [(b.pos, b.pos + b.len)],
           rdBytes := x.rdBytes + BitVec.ofNat 48 b.len, bufCnt := x.bufCnt + BitVec.ofNat 13 b.len }

theorem DmaCh.beatOk_read {x : DmaCh} {b : Beat} {data : List (BitVec 8)} (read : b.write = false) (src : b.side = false) (moves : b.rb = false) (copy : x.active.mode = 0) :
    x.beatOk b data = x.joined b data := by
  unfold DmaCh.beatOk
  dsimp only
  rw [moves, read, src, copy]
  rfl

theorem DmaCh.beatOk_write {x : DmaCh} {b : Beat} {data : List (BitVec 8)} (write : b.write = true) (moves : b.rb = false) :
    x.beatOk b data = { x with wrBytes := x.wrBytes + BitVec.ofNat 48 b.len, bufCnt := x.bufCnt - BitVec.ofNat 13 b.len } := by
  unfold DmaCh.beatOk
  rw [moves, write]
  rfl

/-- Trimming keeps the bytes that are not written yet. -/
theorem DmaCh.tabBytes_trim {x : DmaCh} {off : Nat} (n : Nat) (ahead : x.wrPos ≤ off) : tabBytes x.trim.buf off n = tabBytes x.buf off n := by
  unfold DmaCh.trim
  dsimp only
  split
  · exact tabBytes_filter_from _ _ ahead
  · rfl

theorem DmaCh.tabBytes_joined {x : DmaCh} {b : Beat} (data : List (BitVec 8)) (ahead : x.wrPos ≤ b.pos) :
    tabBytes (x.joined b data).trim.buf b.pos b.len = bytesAt data 0 b.len := by
  rw [DmaCh.tabBytes_trim (x := x.joined b data) _ ahead]
  exact (congrArg (tabBytes _ b.pos) (length_bytesAt data 0 b.len).symm).trans (tabBytes_tabWrite _ _ _)

/-- A response leaves the channel's settings and its state alone. -/
theorem State.dmaCh_answered (s : State) (c : Nat) (k : Pkt) (f : DmaCh → DmaCh) : ((s.tookRsp (dmaMid c) k).modDma c f).dmaCh c = f (s.dmaCh c) :=
  State.dmaCh_modDma ..

theorem State.rsps_answered {s : State} {c : Nat} {k : Pkt} {rest : List Pkt} (rsps : (s.master (dmaMid c)).rsps = k :: rest) (f : DmaCh → DmaCh) :
    (((s.tookRsp (dmaMid c) k).modDma c f).master (dmaMid c)).rsps = rest := State.rsps_tookRsp rsps

theorem exec_dmaBeatResponse_read {s : State} {c : Nat} {k : Pkt} {rest : List Pkt} {o : Outst} {b : Beat} (answers : s.answers c k rest o b)
    (ok : k.resp = respOk) (clean : k.poison = false) (read : b.write = false) (src : b.side = false) (moves : b.rb = false)
    (busy : (s.dmaCh c).state = .busy) (copy : (s.dmaCh c).active.mode = 0) (ahead : (s.dmaCh c).wrPos ≤ b.pos)
    (more : (s.dmaCh c).wrPos ≠ (s.dmaCh c).active.dstShape.total) :
    ∃ t, exec (.dmaBeatResponse c) s = .next t ∧ (t.dmaCh c).state = .busy ∧ (t.dmaCh c).rdBytes = (s.dmaCh c).rdBytes + BitVec.ofNat 48 b.len ∧
      (t.dmaCh c).bufCnt = (s.dmaCh c).bufCnt + BitVec.ofNat 13 b.len ∧ tabBytes (t.dmaCh c).buf b.pos b.len = bytesAt k.data 0 b.len ∧
      (t.dmaCh c).beats = (s.dmaCh c).without o.tag ∧ (t.master (dmaMid c)).rsps = rest := by
  have run := exec_dmaBeatResponse_ok answers ok clean (fun h => Bool.noConfusion (moves.symm.trans h.1))
  have ch := s.dmaCh_answered c k fun y => (({ y with beats := (s.dmaCh c).without o.tag } : DmaCh).beatOk b k.data).trim
  have taken := State.rsps_answered answers.rsps fun y => (({ y with beats := (s.dmaCh c).without o.tag } : DmaCh).beatOk b k.data).trim
  generalize (s.tookRsp (dmaMid c) k).modDma c _ = u at run ch taken
  rw [DmaCh.beatOk_read (x := { s.dmaCh c with beats := (s.dmaCh c).without o.tag }) read src moves copy] at ch
  have same : u.dmaAdvance c = u := by
    rw [State.dmaAdvance_busy (by rw [ch]; exact busy) (by rw [ch]; exact fun h => absurd (copy.symm.trans h) (by decide)), if_neg (by rw [ch]; exact fun h => more h.1)]
  rw [same] at run
  refine ⟨u, run, by rw [ch]; exact busy, by rw [ch]; rfl, by rw [ch]; rfl, ?_, by rw [ch]; rfl, taken⟩
  rw [ch]
  exact DmaCh.tabBytes_joined (x := { s.dmaCh c with beats := (s.dmaCh c).without o.tag }) k.data ahead

theorem exec_dmaBeatResponse_write {s : State} {c : Nat} {k : Pkt} {rest : List Pkt} {o : Outst} {b : Beat} (answers : s.answers c k rest o b)
    (ok : k.resp = respOk) (clean : k.poison = false) (write : b.write = true) (moves : b.rb = false)
    (busy : (s.dmaCh c).state = .busy) (copies : (s.dmaCh c).active.mode ≠ 3) :
    ∃ t, exec (.dmaBeatResponse c) s = .next t ∧ (t.dmaCh c).wrBytes = (s.dmaCh c).wrBytes + BitVec.ofNat 48 b.len ∧
      (t.dmaCh c).bufCnt = (s.dmaCh c).bufCnt - BitVec.ofNat 13 b.len ∧
      (t.dmaCh c).state = (if (s.dmaCh c).wrPos = (s.dmaCh c).active.dstShape.total ∧ (t.dmaCh c).beats = [] then .readback else .busy) := by
  have run := exec_dmaBeatResponse_ok answers ok clean (fun h => Bool.noConfusion (moves.symm.trans h.1))
  have ch := s.dmaCh_answered c k fun y => (({ y with beats := (s.dmaCh c).without o.tag } : DmaCh).beatOk b k.data).trim
  generalize (s.tookRsp (dmaMid c) k).modDma c _ = u at run ch
  rw [DmaCh.beatOk_write write moves] at ch
  rw [State.dmaAdvance_busy (by rw [ch]; exact busy) (by rw [ch]; exact copies)] at run
  refine ⟨_, run, ?_⟩
  by_cases ended : (u.dmaCh c).wrPos = (u.dmaCh c).active.dstShape.total ∧ (u.dmaCh c).beats = []
  · rw [if_pos ended, State.dmaCh_modDma]
    rw [ch] at ended ⊢
    exact ⟨rfl, rfl, (if_pos ended).symm⟩
  · rw [if_neg ended]
    rw [ch] at ended ⊢
    exact ⟨rfl, rfl, busy.trans (if_neg ended).symm⟩

/-- What the end of a transfer raises, and what it leaves. -/
theorem State.dmaDone_idle {s : State} {c : Nat} (noFill : s.fillOf c = none) (last : (s.dmaCh c).committed = false) :
    s.dmaDone c = if (s.dmaCh c).irqDone then
        (s.modDma c fun x => { x with done := true, stamp := s.stamp 8, state := .idle }).raiseHub (0x340 + c) (s.stamp 8).toNat none
      else s.modDma c fun x => { x with done := true, stamp := s.stamp 8, state := .idle } := by
  unfold State.dmaDone
  rw [noFill]
  exact if_neg (by rw [last]; decide)

theorem State.dmaCh_raiseHub (s : State) (evid data : Nat) (note : Option LogEntry) (c : Nat) : (s.raiseHub evid data note).dmaCh c = s.dmaCh c := rfl

theorem exec_dmaBeatResponse_readBack {s : State} {c : Nat} {k : Pkt} {rest : List Pkt} {o : Outst} {b : Beat} (answers : s.answers c k rest o b)
    (ok : k.resp = respOk) (clean : k.poison = false) (back : b.rb = true) (state : (s.dmaCh c).state = .readback)
    (noFill : s.fillOf c = none) (last : (s.dmaCh c).committed = false) :
    ∃ t, exec (.dmaBeatResponse c) s = .next t ∧ (t.dmaCh c).state = .idle ∧ (t.dmaCh c).done = true ∧ (t.dmaCh c).stamp = s.stamp 8 ∧
      ((s.dmaCh c).irqDone = true → ∃ ev, t.evr.raised = s.evr.raised ++ [ev] ∧ ev.evid = BitVec.ofNat 10 (0x340 + c)) ∧
      ((s.dmaCh c).irqDone = false → t.evr = s.evr) := by
  have run : exec (.dmaBeatResponse c) s = .next (((s.tookRsp (dmaMid c) k).modDma c fun y =>
      (({ y with beats := (s.dmaCh c).without o.tag } : DmaCh).beatOk b k.data).trim).dmaDone c) := by
    rw [exec_dmaBeatResponse answers, if_neg (by rw [clean]; exact fun h => Bool.noConfusion h.2), ok]
    unfold State.beatAnswered
    dsimp only
    rw [if_pos rfl, if_pos ⟨back, state⟩]
    rfl
  have ch := s.dmaCh_answered c k fun y => (({ y with beats := (s.dmaCh c).without o.tag } : DmaCh).beatOk b k.data).trim
  have fill : ((s.tookRsp (dmaMid c) k).modDma c fun y =>
      (({ y with beats := (s.dmaCh c).without o.tag } : DmaCh).beatOk b k.data).trim).fillOf c = none := noFill
  have stamp : ((s.tookRsp (dmaMid c) k).modDma c fun y =>
      (({ y with beats := (s.dmaCh c).without o.tag } : DmaCh).beatOk b k.data).trim).stamp 8 = s.stamp 8 := rfl
  have evr : ((s.tookRsp (dmaMid c) k).modDma c fun y =>
      (({ y with beats := (s.dmaCh c).without o.tag } : DmaCh).beatOk b k.data).trim).evr = s.evr := rfl
  generalize (s.tookRsp (dmaMid c) k).modDma c _ = u at run ch fill stamp evr
  have irq : (u.dmaCh c).irqDone = (s.dmaCh c).irqDone := by rw [ch]; unfold DmaCh.beatOk; rw [if_pos back]; rfl
  have last' : (u.dmaCh c).committed = false := by rw [ch]; unfold DmaCh.beatOk; rw [if_pos back]; exact last
  rw [State.dmaDone_idle fill last', irq, stamp] at run
  refine ⟨_, run, ?_⟩
  by_cases told : (s.dmaCh c).irqDone = true
  · rw [if_pos told, State.dmaCh_raiseHub, State.dmaCh_modDma]
    exact ⟨rfl, rfl, rfl, fun _ => ⟨_, congrArg (fun e : Evr => e.raised ++ _) evr, rfl⟩, fun h => Bool.noConfusion (told.symm.trans h)⟩
  · rw [if_neg told, State.dmaCh_modDma]
    exact ⟨rfl, rfl, rfl, fun h => absurd h told, fun _ => evr⟩

/-! ### Failures (16 R430) -/

theorem exec_dmaBeatResponse_fails {s : State} {c : Nat} {k : Pkt} {rest : List Pkt} {o : Outst} {b : Beat} (answers : s.answers c k rest o b)
    (fails : k.resp ≠ respOk) (runs : (s.dmaCh c).state ≠ .stopping) :
    exec (.dmaBeatResponse c) s = .next (if retryable k.resp ∧ b.tries < (s.dmaCh c).active.retry then
        (s.tookRsp (dmaMid c) k).modDma c fun y => { y with beats := (s.dmaCh c).without o.tag ++ [{ b with tries := b.tries + 1, retryAt := some (s.now + 2 ^ b.tries * psUs) }] }
      else ((s.tookRsp (dmaMid c) k).modDma c fun y => { y with beats := (s.dmaCh c).without o.tag }).dmaHalt c b k.resp (retryable k.resp)) := by
  rw [exec_dmaBeatResponse answers, if_neg fun h => fails h.1]
  unfold State.beatAnswered
  dsimp only
  rw [if_neg fails]
  exact congrArg Host.Outcome.next (if_neg runs)

theorem exec_dmaBeatResponse_retries {s : State} {c : Nat} {k : Pkt} {rest : List Pkt} {o : Outst} {b : Beat} (answers : s.answers c k rest o b)
    (resp : k.resp = respTgtErr ∨ k.resp = respBayDown ∨ k.resp = respTimeout) (left : b.tries < (s.dmaCh c).active.retry) (runs : (s.dmaCh c).state ≠ .stopping) :
    ∃ t, exec (.dmaBeatResponse c) s = .next t ∧ (t.dmaCh c).state = (s.dmaCh c).state ∧
      (t.dmaCh c).beats = (s.dmaCh c).without o.tag ++ [{ b with tries := b.tries + 1, retryAt := some (s.now + 2 ^ b.tries * psUs) }] := by
  have again : retryable k.resp = true ∧ k.resp ≠ respOk := by rcases resp with h | h | h <;> (rw [h]; decide)
  refine ⟨_, (exec_dmaBeatResponse_fails answers again.2 runs).trans (congrArg Host.Outcome.next (if_pos ⟨again.1, left⟩)), ?_⟩
  rw [State.dmaCh_answered]
  exact ⟨rfl, rfl⟩

theorem State.dmaCh_dmaHaltNote (s : State) (c k : Nat) : (s.dmaHaltNote c).dmaCh k = s.dmaCh k :=
  State.dmaCh_of_dma_eq ((State.dmaHaltNote_steps (Steps.refl [.log, .evr] s) (by decide)).1 .dma (by decide)) k

/-- A halted channel keeps why it halted. -/
theorem State.dmaStopped_of_halt {s : State} {c : Nat} (noFill : s.fillOf c = none) (halt : (s.dmaCh c).halting = true) (kept : (s.dmaCh c).releasing = false) :
    (s.dmaStopped c).dmaCh c = { s.dmaCh c with state := .halted, pendingEnable := false, beats := [], buf := [], got := [], cmpB := [], gotB := [] } := by
  unfold State.dmaStopped
  rw [noFill]
  dsimp only
  rw [if_pos halt, if_neg (by rw [kept]; decide), State.dmaCh_dmaHaltNote, State.dmaCh_modDma]

/-- A channel that halts for a beat. -/
def DmaCh.halts (x : DmaCh) (b : Beat) (resp : BitVec 3) (retried : Bool) : DmaCh :=
  { x with state := .stopping, halting := true, cause := resp, retried := retried, side := b.side, rb := b.rb, haltAddr := b.addr,
           beats := x.beats.filter fun b => b.retryAt.isNone }

theorem State.dmaCh_dmaHalt {s : State} {c : Nat} {b : Beat} {resp : BitVec 3} {retried : Bool} (noFill : s.fillOf c = none) (kept : (s.dmaCh c).releasing = false) :
    (s.dmaHalt c b resp retried).dmaCh c = if ((s.dmaCh c).halts b resp retried).outstanding = [] then
        { (s.dmaCh c).halts b resp retried with state := .halted, pendingEnable := false, beats := [], buf := [], got := [], cmpB := [], gotB := [] }
      else (s.dmaCh c).halts b resp retried := by
  have ch := State.dmaCh_modDma s c fun x => x.halts b resp retried
  have fill : (s.modDma c fun x => x.halts b resp retried).fillOf c = none := noFill
  have unfolded : s.dmaHalt c b resp retried = (s.modDma c fun x => x.halts b resp retried).dmaSettle c := rfl
  rw [unfolded]
  generalize (s.modDma c fun x => x.halts b resp retried) = u at ch fill
  unfold State.dmaSettle
  dsimp only
  rw [ch]
  by_cases none_ : ((s.dmaCh c).halts b resp retried).outstanding = []
  · rw [if_pos ⟨rfl, none_⟩, if_pos none_, State.dmaStopped_of_halt fill (by rw [ch]; rfl) (by rw [ch]; exact kept), ch]
  · rw [if_neg fun h => none_ h.2, if_neg none_, ch]

/-- The only beat of a channel, once answered, leaves none. -/
theorem DmaCh.without_only {x : DmaCh} {tag : BitVec 10} {b : Beat} (found : x.beats.find? (fun b => b.tag == tag && b.retryAt.isNone) = some b) (only : x.beats = [b]) :
    x.without tag = [] := by
  have this := List.find?_some found
  unfold DmaCh.without
  rw [only, List.filter_cons_of_neg (by rw [this]; decide)]
  rfl

theorem exec_dmaBeatResponse_halts {s : State} {c : Nat} {k : Pkt} {rest : List Pkt} {o : Outst} {b : Beat} (answers : s.answers c k rest o b)
    (resp : k.resp = respDenied ∨ k.resp = respNoTarget) (runs : (s.dmaCh c).state ≠ .stopping) (kept : (s.dmaCh c).releasing = false) (noFill : s.fillOf c = none) :
    ∃ t, exec (.dmaBeatResponse c) s = .next t ∧ (t.dmaCh c).cause = k.resp ∧ (t.dmaCh c).haltAddr = b.addr ∧ (t.dmaCh c).side = b.side ∧
      (t.dmaCh c).rb = b.rb ∧ (t.dmaCh c).retried = false ∧ ((s.dmaCh c).beats = [b] → (t.dmaCh c).state = .halted ∧ (t.dmaCh c).beats = []) := by
  have final : retryable k.resp = false ∧ k.resp ≠ respOk := by rcases resp with h | h <;> (rw [h]; decide)
  refine ⟨_, (exec_dmaBeatResponse_fails answers final.2 runs).trans (congrArg Host.Outcome.next (if_neg fun h => Bool.noConfusion (final.1.symm.trans h.1))), ?_⟩
  rw [final.1]
  have ch := s.dmaCh_answered c k fun y => { y with beats := (s.dmaCh c).without o.tag }
  have fill : ((s.tookRsp (dmaMid c) k).modDma c fun y => { y with beats := (s.dmaCh c).without o.tag }).fillOf c = none := noFill
  generalize (s.tookRsp (dmaMid c) k).modDma c _ = u at ch fill
  have halted := State.dmaCh_dmaHalt (b := b) (resp := k.resp) (retried := false) fill (by rw [ch]; exact kept)
  rw [halted]
  by_cases none_ : ((u.dmaCh c).halts b k.resp false).outstanding = []
  · rw [if_pos none_]
    exact ⟨rfl, rfl, rfl, rfl, rfl, fun _ => ⟨rfl, rfl⟩⟩
  · rw [if_neg none_]
    refine ⟨rfl, rfl, rfl, rfl, rfl, fun only => absurd ?_ none_⟩
    rw [ch]
    unfold DmaCh.halts DmaCh.outstanding
    dsimp only
    rw [DmaCh.without_only answers.beat only]
    rfl

/-- A beat whose wait is ended is issued again. -/
theorem exec_dmaRetryTimer {s : State} {c : Nat} {tag tg : BitVec 10} {b : Beat}
    (due : (s.dmaCh c).beats.find? (fun b => b.tag == tag && b.retryAt.any (fun t => decide (t ≤ s.now))) = some b)
    (runs : (s.dmaCh c).state = .busy ∨ (s.dmaCh c).state = .readback) (free : (s.master (dmaMid c)).freeTag = some tg) :
    ∃ t, exec (.dmaRetryTimer c tag) s = .next t ∧ (t.dmaCh c).retries = satInc (s.dmaCh c).retries ∧
      (t.dmaCh c).beats = (s.dmaCh c).beats.filter (fun y => !(y.tag == tag && y.retryAt.isSome)) ++ [{ b with tag := tg, retryAt := none }] := by
  have run : exec (.dmaRetryTimer c tag) s = .next ((s.modDma c fun x =>
      { x with retries := satInc x.retries, beats := x.beats.filter fun y => !(y.tag == tag && y.retryAt.isSome) }).sendBeat c b) := by
    refine congrArg Host.Outcome.next ?_
    unfold Sys2Proof.Machine.dmaRetryTimer
    dsimp only
    rw [due]
    exact if_pos ⟨runs, by rw [free]; rfl⟩
  refine ⟨_, run, ?_⟩
  have ch := State.dmaCh_modDma s c fun x => { x with retries := satInc x.retries, beats := x.beats.filter fun y => !(y.tag == tag && y.retryAt.isSome) }
  have free' : ((s.modDma c fun x => { x with retries := satInc x.retries, beats := x.beats.filter fun y => !(y.tag == tag && y.retryAt.isSome) }).master
      (dmaMid c)).freeTag = some tg := free
  generalize s.modDma c _ = u at ch free'
  rw [(State.sendBeat_joins (b := b) free').1, ch]
  exact ⟨rfl, rfl⟩

end Sys2Proof.Machine

open Sys2Proof Sys2Proof.Machine

/-- Settles O46: each answer is followed to the channel it leaves, by the state it found the channel in. -/
theorem dmaTransfers : Obligations.dmaTransfers := by
  unfold Obligations.dmaTransfers
  refine ⟨?_, ?_, ?_, ?_, ?_, ?_, ?_, ?_, ?_⟩
  · rintro s c ⟨waits, due⟩
    exact ⟨_, State.dmaTimedStart_due waits due, State.dmaCh_modDma .., (State.modDma_steps (Steps.refl [.dma] s) (by decide)).1⟩
  · rintro s c ⟨-, early⟩
    exact ⟨s, State.dmaTimedStart_early early, rfl⟩
  · rintro s c kind b tag ⟨below, next, turn, free⟩
    exact exec_dmaBeatIssue_enters below next turn free
  · rintro s c k rest o b ⟨rsps, out, beat, ok, clean, read, src, moves, busy, copy, ahead, more⟩
    exact exec_dmaBeatResponse_read ⟨rsps, out, beat⟩ ok clean read src moves busy copy ahead more
  · rintro s c k rest o b ⟨rsps, out, beat, ok, clean, write, moves, busy, copies⟩
    exact exec_dmaBeatResponse_write ⟨rsps, out, beat⟩ ok clean write moves busy copies
  · rintro s c k rest o b ⟨rsps, out, beat, ok, clean, back, state, noFill, last⟩
    exact exec_dmaBeatResponse_readBack ⟨rsps, out, beat⟩ ok clean back state noFill last
  · rintro s c k rest o b ⟨rsps, out, beat, resp, left, runs⟩
    exact exec_dmaBeatResponse_retries ⟨rsps, out, beat⟩ resp left runs
  · rintro s c k rest o b ⟨rsps, out, beat, resp, runs, kept, noFill⟩
    exact exec_dmaBeatResponse_halts ⟨rsps, out, beat⟩ resp runs kept noFill
  · rintro s c tag tg b ⟨-, due, runs, free⟩
    exact exec_dmaRetryTimer due runs free
end

section
/-! PROOFS. How a DRAM channel trains, shuts down, leaves self-refresh and fails (14 R372 to R377, R385). -/

open Sys2Proof
namespace Sys2Proof.Machine

/-! ### What leaves a channel as it is -/

theorem State.chan_completeOpt (s : State) (tok : Option Nat) (status : Nat) (data : List (BitVec 8)) (n : Nat) :
    (s.completeOpt tok status data).chan n = s.chan n :=
  State.chan_of_frame (State.completeOpt_steps (Steps.refl [.gable, .evr] s) (by decide)).1 (by decide) n

theorem State.chan_completeAll (s : State) (toks : List Nat) (status : Nat) (data : List (BitVec 8)) (n : Nat) :
    (s.completeAll toks status data).chan n = s.chan n :=
  State.chan_of_frame (State.completeAll_steps (Steps.refl [.gable, .evr] s) (by decide)).1 (by decide) n

theorem State.chan_raiseDramFault (s : State) (n cause step addr k : Nat) : (s.raiseDramFault n cause step addr).chan k = s.chan k := rfl

theorem State.chan_failAccepted (s : State) (n k : Nat) : (s.failAccepted n).chan k = s.chan k :=
  State.chan_of_frame (State.failAccepted_steps (Steps.refl [.free, .routers] s) (by decide)).1 (by decide) k

theorem State.chan_modDram_bytes (s : State) (g : List Host.Cell → List Host.Cell) (k : Nat) :
    (s.modDram fun d => { d with bytes := g d.bytes }).chan k = s.chan k := rfl

theorem State.chan_forget (s : State) (n : Nat) : (s.forget n).chan n = { s.chan n with lines := [] } := by
  unfold State.forget
  exact (State.chan_modDram_bytes (s.modChan n fun x => { x with lines := [] }) (fun b => b.filter fun e => e.1 / 2 ^ 42 != n) n).trans (State.chan_modChan ..)

/-! ### FAULT (14 R373 to R375) -/

/-- A channel in FAULT. -/
def Channel.failed (x : Channel) (cause now : Nat) : Channel :=
  { ({ x with lines := [] } : Channel).idleAll with
    state := .fault, cause := BitVec.ofNat 5 cause, since := now, upCmd := none, heldUp := none, downCmds := [], pendingEnable := false }

theorem State.chanFault_leaves (s : State) (n cause step : Nat) :
    (∃ now, (s.chanFault n cause step).chan n = (s.chan n).failed cause now) ∧
    ∃ ev ∈ (s.chanFault n cause step).evr.raised, ev.evid = BitVec.ofNat 10 (0x382 + 4 * n) ∧ ev.evdata = BitVec.ofNat 32 cause := by
  unfold State.chanFault
  dsimp only
  have emptied : ((s.failAccepted n).forget n).chan n = { s.chan n with lines := [] } := by rw [State.chan_forget, State.chan_failAccepted]
  generalize (s.failAccepted n).forget n = u at emptied ⊢
  constructor
  · refine ⟨u.now, ?_⟩
    rw [State.chan_completeAll, State.chan_completeOpt, State.chan_completeOpt, State.chan_raiseDramFault, State.chan_modChan, emptied]
    rfl
  · generalize u.modChan n _ = v
    refine ⟨_, (State.completeAll_onward (State.completeOpt_onward (State.completeOpt_onward (.refl _)))).raised _
      (List.mem_append_right v.evr.raised (List.mem_singleton_self _)), rfl, rfl⟩

/-! ### UP (14 R372, R374) -/

/-- The periods of every rank start at once. -/
theorem tget_starts (now n : Nat) {r : Nat} (below : r < n) : tget 0 ((List.range n).foldl (fun (t : Tab Nat) r => tput 0 t r now) []) r = now :=
  (tget_foldl_tput 0 [] (fun _ => now) n r).trans (if_pos below)

theorem exec_memTrainingDone {s : State} {n : Nat} (trains : (s.chan n).state = .training) :
    ∃ t, exec (.memTrainingDone n) s = .next t ∧ t.chan n = { (s.chan n).goUp (s.declOf n).ranks s.now with cause := 0 } := by
  refine ⟨_, congrArg Host.Outcome.next (if_pos trains), ?_⟩
  rw [State.chan_completeOpt, State.chan_modChan]

theorem exec_memTrainingTimeout {s : State} {n : Nat} {st : BitVec 4} (trains : (s.chan n).state = .training) (late : (s.chan n).since + 250 * psMs ≤ s.now) :
    exec (.memTrainingTimeout n st) s = .next (s.chanFault n 3 st.toNat) := congrArg Host.Outcome.next (if_pos ⟨trains, late⟩)

theorem exec_memTrainingTimeout_early {s : State} {n : Nat} {st : BitVec 4} (early : (s.chan n).state ≠ .training ∨ s.now < (s.chan n).since + 250 * psMs) :
    exec (.memTrainingTimeout n st) s = .next s :=
  congrArg Host.Outcome.next (if_neg fun h => early.elim (fun e => e h.1) fun e => Nat.not_lt.mpr h.2 e)

theorem exec_memSrefExitEnd {s : State} {n : Nat} (exits : (s.chan n).state = .exiting) :
    ∃ t, exec (.memSrefExitEnd n) s = .next t ∧ (t.chan n).upCmd = none ∧ (t.chan n).lines = (s.chan n).lines ∧
      ((s.chan n).downCmds = [] → (t.chan n).state = .up) ∧
      ((s.chan n).downCmds ≠ [] → (t.chan n).state = .shutting ∧ (t.chan n).downCmds = (s.chan n).downCmds) := by
  refine ⟨_, rfl, ?_⟩
  unfold memSrefExitEnd
  dsimp only
  rw [if_neg (fun h => h exits)]
  have up : ((s.modChan n fun x => { x.goUp (s.declOf n).ranks s.now with downCmds := [] }).completeOpt (s.chan n).upCmd stOk (causeResult 0)).chan n =
      { (s.chan n).goUp (s.declOf n).ranks s.now with downCmds := [] } := by rw [State.chan_completeOpt, State.chan_modChan]
  generalize (s.modChan n fun x => { x.goUp (s.declOf n).ranks s.now with downCmds := [] }).completeOpt (s.chan n).upCmd stOk (causeResult 0) = u at up ⊢
  by_cases held : (s.chan n).downCmds = []
  · rw [if_pos held, up]
    exact ⟨rfl, rfl, fun _ => rfl, fun h => absurd held h⟩
  · rw [if_neg held]
    unfold State.chanShut
    rw [State.chan_modChan, up]
    exact ⟨rfl, rfl, fun h => absurd h held, fun _ => ⟨rfl, rfl⟩⟩

/-! ### The end of a shut-down (14 R376) -/

/-- The state a shut-down that has ended leaves, before a held MEM_UP runs. -/
def State.shutEnded (s : State) (n : Nat) : State :=
  let x := s.chan n
  let s := if x.retain then s.modChan n fun x => { x.idleAll with state := .down, since := s.now } else s.chanOff n
  let s := s.modChan n fun x => { x with downCmds := [], heldUp := none, pendingEnable := false }
  s.completeAll (x.downCmds.map (·.1)) stOk []

theorem exec_memShutdownEnd {s : State} {n : Nat} (shuts : (s.chan n).state = .shutting) (quiet : (s.chan n).quiet = true) :
    exec (.memShutdownEnd n) s = .next (match (s.chan n).heldUp with
      | none => s.shutEnded n
      | some t => if (s.chan n).retain then (s.shutEnded n).modChan n fun x => { x with state := .exiting, since := (s.shutEnded n).now, upCmd := some t }
          else (s.shutEnded n).trainOrRefuse n (some t)) := by
  refine congrArg Host.Outcome.next ?_
  unfold memShutdownEnd
  dsimp only
  rw [if_neg (fun h => h.elim (fun e => e shuts) fun e => e quiet)]
  rfl

theorem State.chan_chanOff (s : State) (n : Nat) : ∃ now, (s.chanOff n).chan n = { ({ s.chan n with lines := [] } : Channel).idleAll with state := .off, since := now } := by
  refine ⟨(s.forget n).now, ?_⟩
  unfold State.chanOff
  rw [State.chan_modChan, State.chan_forget]
  rfl

/-- What a shut-down's end leaves of the channel. -/
theorem State.chan_shutEnded (s : State) (n : Nat) :
    ((s.shutEnded n).chan n).state = (if (s.chan n).retain = true then .down else .off) ∧ ((s.shutEnded n).chan n).downCmds = [] ∧
    ((s.shutEnded n).chan n).lines = (if (s.chan n).retain = true then (s.chan n).lines else []) ∧
    ((s.shutEnded n).chan n).heldUp = none ∧ ((s.shutEnded n).chan n).pendingEnable = false ∧ ((s.shutEnded n).chan n).decl = (s.chan n).decl := by
  unfold State.shutEnded
  dsimp only
  rw [State.chan_completeAll, State.chan_modChan]
  by_cases keeps : (s.chan n).retain = true
  · rw [if_pos keeps, if_pos keeps, if_pos keeps, State.chan_modChan]
    exact ⟨rfl, rfl, rfl, rfl, rfl, rfl⟩
  · obtain ⟨now, off⟩ := s.chan_chanOff n
    rw [if_neg keeps, if_neg keeps, if_neg keeps, off]
    exact ⟨rfl, rfl, rfl, rfl, rfl, rfl⟩

/-- A channel that is brought up trains, or not; what waits for a shut-down stays. -/
theorem State.chan_trainOrRefuse (s : State) (n : Nat) (tok : Option Nat) :
    ((s.trainOrRefuse n tok).chan n).heldUp = (s.chan n).heldUp ∧ ((s.trainOrRefuse n tok).chan n).pendingEnable = (s.chan n).pendingEnable := by
  have refuse : ∀ c now : Nat, ((((s.forget n).modChan n fun x => { x with state := .off, cause := BitVec.ofNat 5 c, since := now }).raiseDramFault n c 0 0).completeOpt
      tok stFault (causeResult c)).chan n = { s.chan n with lines := [], state := .off, cause := BitVec.ofNat 5 c, since := now } := by
    intro c now
    rw [State.chan_completeOpt, State.chan_raiseDramFault, State.chan_modChan, State.chan_forget]
  unfold State.trainOrRefuse
  dsimp only
  cases (s.chan n).decl with
  | none => rw [refuse]; exact ⟨rfl, rfl⟩
  | some d =>
    dsimp only
    by_cases bare : d.dimms = 0
    · rw [if_pos bare, refuse]; exact ⟨rfl, rfl⟩
    · rw [if_neg bare]
      by_cases rfm : d.rfm = true
      · rw [if_pos rfm, refuse]; exact ⟨rfl, rfl⟩
      · rw [if_neg rfm, State.chan_modChan, State.chan_forget]; exact ⟨rfl, rfl⟩

/-- A declared channel with DIMMs that need no refresh management trains. -/
theorem State.trainOrRefuse_trains {s : State} {n : Nat} {tok : Option Nat} (dimms : (s.declOf n).dimms ≠ 0) (plain : (s.declOf n).rfm = false) :
    ((s.trainOrRefuse n tok).chan n).state = .training ∧ ((s.trainOrRefuse n tok).chan n).upCmd = tok := by
  unfold State.declOf at dimms plain
  unfold State.trainOrRefuse
  dsimp only
  cases decl : (s.chan n).decl with
  | none => exact absurd rfl (by rw [decl] at dimms; exact dimms)
  | some d =>
    rw [decl] at dimms plain
    dsimp only
    rw [if_neg (show ¬ d.dimms = 0 from dimms), if_neg (by rw [show d.rfm = false from plain]; decide), State.chan_modChan]
    exact ⟨rfl, rfl⟩

theorem exec_memShutdownEnd_held {s : State} {n k : Nat} (shuts : (s.chan n).state = .shutting) (quiet : (s.chan n).quiet = true) (held : (s.chan n).heldUp = some k) :
    ∃ t, exec (.memShutdownEnd n) s = .next t ∧ (t.chan n).heldUp = none ∧ (t.chan n).pendingEnable = false ∧
      ((s.chan n).retain = true → (t.chan n).state = .exiting ∧ (t.chan n).upCmd = some k) ∧
      ((s.chan n).retain = false → (s.declOf n).dimms ≠ 0 → (s.declOf n).rfm = false → (t.chan n).state = .training ∧ (t.chan n).upCmd = some k) := by
  have run := exec_memShutdownEnd shuts quiet
  rw [held] at run
  refine ⟨_, run, ?_⟩
  obtain ⟨-, -, -, heldUp, pending, decl⟩ := s.chan_shutEnded n
  have same : (s.shutEnded n).declOf n = s.declOf n := by unfold State.declOf; rw [decl]
  generalize s.shutEnded n = u at heldUp pending same ⊢
  dsimp only
  by_cases keeps : (s.chan n).retain = true
  · rw [if_pos keeps, State.chan_modChan]
    exact ⟨heldUp, pending, fun _ => ⟨rfl, rfl⟩, fun h => Bool.noConfusion (keeps.symm.trans h)⟩
  · rw [if_neg keeps]
    obtain ⟨heldUp', pending'⟩ := u.chan_trainOrRefuse n (some k)
    exact ⟨heldUp'.trans heldUp, pending'.trans pending, fun h => absurd h keeps,
      fun _ dimms plain => State.trainOrRefuse_trains (by rw [same]; exact dimms) (by rw [same]; exact plain)⟩

/-! ### Alerts (14 R374) -/

/-- An alert: counted, and what was issued is issued again. -/
def Channel.alerted (x : Channel) : Channel :=
  { x with
    alertCnt := satInc x.alertCnt, alertRun := x.alertRun + 1,
    cmdq := (List.range 2).foldl (fun t sub => tmod [] t sub fun q => q.map fun (e : DramCmd) => { e with issued := false }) x.cmdq }

theorem Channel.queue_alerted (x : Channel) {sub : Nat} (below : sub < 2) : x.alerted.queue sub = (x.queue sub).map fun e => { e with issued := false } := by
  have two : sub = 0 ∨ sub = 1 := by omega
  unfold Channel.alerted Channel.queue
  simp only [List.range_succ, List.range_zero, List.nil_append, List.cons_append, List.foldl_cons, List.foldl_nil]
  rcases two with rfl | rfl
  · rw [tget_tmod_other _ _ _ (by decide), tget_tmod_same]
  · rw [tget_tmod_same, tget_tmod_other _ _ _ (by decide)]

theorem Channel.serves_of {x : Channel} (work : x.state = .up ∨ x.state = .shutting) : x.serves = true := by
  unfold Channel.serves
  rcases work with h | h <;> rw [h] <;> rfl

theorem exec_dramAlert {s : State} {n : Nat} (work : (s.chan n).state = .up ∨ (s.chan n).state = .shutting) :
    exec (.dramAlert n) s = .next (if 8 ≤ (s.chan n).alertRun + 1 then (s.modChan n Channel.alerted).chanFault n 5 0 else s.modChan n Channel.alerted) := by
  refine congrArg Host.Outcome.next ?_
  unfold Sys2Proof.Machine.dramAlert
  rw [if_neg (fun h => h (Channel.serves_of work))]
  have ch := State.chan_modChan s n Channel.alerted
  dsimp only
  have shape : (s.modChan n fun x =>
      { x with alertCnt := satInc x.alertCnt, alertRun := x.alertRun + 1,
               cmdq := (List.range 2).foldl (fun t sub => tmod [] t sub fun q => q.map fun (e : DramCmd) => { e with issued := false }) x.cmdq }) =
      s.modChan n Channel.alerted := rfl
  rw [shape, ch]
  rfl

end Sys2Proof.Machine

open Sys2Proof Sys2Proof.Machine

/-- Settles O40: each end of a bring-up, a shut-down or a run of alerts is followed to the channel it leaves. -/
theorem channelBringUp : Obligations.channelBringUp := by
  unfold Obligations.channelBringUp
  refine ⟨?_, ?_, ?_, ?_, ?_, ?_, ?_, ?_⟩
  · intro s n trains
    obtain ⟨t, run, up⟩ := exec_memTrainingDone trains
    refine ⟨t, run, ?_⟩
    rw [up]
    exact ⟨rfl, rfl, rfl, rfl, rfl, fun r below => ⟨tget_starts _ _ below, tget_starts _ _ below, tget_starts _ _ below⟩⟩
  · rintro s n st ⟨trains, late⟩
    obtain ⟨⟨now, failed⟩, told⟩ := s.chanFault_leaves n 3 st.toNat
    refine ⟨_, exec_memTrainingTimeout trains late, ?_⟩
    rw [failed]
    exact ⟨rfl, rfl, rfl, rfl, told⟩
  · intro s n st early
    exact ⟨s, exec_memTrainingTimeout_early early, rfl⟩
  · rintro s n ⟨shuts, quiet, free⟩
    have run := exec_memShutdownEnd shuts quiet
    rw [free] at run
    obtain ⟨state, cmds, lines, -, -, -⟩ := s.chan_shutEnded n
    exact ⟨_, run, state, cmds, lines⟩
  · rintro s n k ⟨shuts, quiet, held⟩
    exact exec_memShutdownEnd_held shuts quiet held
  · intro s n exits
    exact exec_memSrefExitEnd exits
  · rintro s n ⟨work, few⟩
    refine ⟨_, (exec_dramAlert work).trans (congrArg Host.Outcome.next (if_neg (by omega))), ?_⟩
    rw [State.chan_modChan]
    exact ⟨rfl, rfl, rfl, fun sub below => Channel.queue_alerted _ below⟩
  · rintro s n ⟨work, seven⟩
    obtain ⟨⟨now, failed⟩, told⟩ := (s.modChan n Channel.alerted).chanFault_leaves n 5 0
    refine ⟨_, (exec_dramAlert work).trans (congrArg Host.Outcome.next (if_pos (by omega))), ?_⟩
    rw [failed]
    exact ⟨rfl, rfl, rfl, told⟩
end

section
/-! PROOFS. Refresh, calibration, temperature, low power and patrol scrub of a DRAM channel (14 R374, R383 to R392). -/

open Sys2Proof
namespace Sys2Proof.Machine

/-! ### Refresh (14 R383) -/

theorem tget_filter_out {V : Type} (d : V) (t : Tab V) (keep : Nat → Bool) {k : Nat} (out : keep k = false) : tget d (t.filter fun e => keep e.1) k = d := by
  induction t with
  | nil => rfl
  | cons e t ih =>
    obtain ⟨j, v⟩ := e
    by_cases kept : keep j = true
    · rw [List.filter_cons_of_pos (p := fun e : Nat × V => keep e.1) kept]
      unfold tget
      rw [if_neg fun same => by subst same; rw [out] at kept; exact Bool.noConfusion kept]
      exact ih
    · rw [List.filter_cons_of_neg (p := fun e : Nat × V => keep e.1) kept]
      exact ih

/-- A rank that was closed has no open row. -/
theorem Channel.openRow_closeRank (x : Channel) {r k : Nat} (own : k / 32 % 16 = r) : tget 0 (x.closeRank r).openRow k = 0 :=
  tget_filter_out 0 x.openRow (fun e => e / 32 % 16 != r) (by simp [own])

/-- A refresh of a rank that is due. -/
def Channel.refreshed (x : Channel) (r now : Nat) : Channel :=
  let x := { x with refAt := tput 0 x.refAt r now }
  if x.panicking ≠ [] then (if tget 0 x.owed r < 4 then { x with owed := tmod 0 x.owed r (· + 1) } else x.closeRank r)
  else { x.closeRank r with owed := tput 0 x.owed r 0 }

theorem exec_dramRefresh_due {s : State} {n r : Nat} (up : s.rankUp n r = true) (due : tget 0 (s.chan n).refAt r + (s.chan n).trefi ≤ s.now) :
    exec (.dramRefresh n r) s = .next (s.modChan n fun x => x.refreshed r s.now) :=
  congrArg Host.Outcome.next (if_neg fun h => h.elim (fun e => e up) fun e => Nat.not_lt.mpr due e)

theorem exec_dramRefresh_rests {s : State} {n r : Nat} (rests : s.rankUp n r = false ∨ s.now < tget 0 (s.chan n).refAt r + (s.chan n).trefi) :
    exec (.dramRefresh n r) s = .next s :=
  congrArg Host.Outcome.next (if_pos (rests.imp (fun e h => Bool.noConfusion (e.symm.trans h)) id))

theorem Channel.refreshed_calm {x : Channel} {r now : Nat} (calm : x.panicking = []) :
    x.refreshed r now = { ({ x with refAt := tput 0 x.refAt r now } : Channel).closeRank r with owed := tput 0 x.owed r 0 } := by
  unfold Channel.refreshed
  dsimp only
  exact if_neg fun h => h calm

theorem Channel.refreshed_panic {x : Channel} {r now : Nat} (panic : x.panicking ≠ []) (few : tget 0 x.owed r < 4) :
    x.refreshed r now = { x with refAt := tput 0 x.refAt r now, owed := tmod 0 x.owed r (· + 1) } := by
  unfold Channel.refreshed
  dsimp only
  exact (if_pos panic).trans (if_pos few)

/-! ### Temperature and calibration (14 R374, R386) -/

/-- A rank's MR4 was read. -/
def Channel.polled (x : Channel) (r now : Nat) (warm : Bool) : Channel :=
  let hr := (x.hotRanks.filter (· != r)) ++ (if warm then [r] else [])
  { x with mr4At := tput 0 x.mr4At r now, hotRanks := hr, hot := !hr.isEmpty }

theorem Channel.hot_polled (x : Channel) (r now : Nat) (warm : Bool) : (x.polled r now warm).hot = (warm || x.hotRanks.any fun k => k != r) := by
  unfold Channel.polled
  dsimp only
  cases warm with
  | true => simp
  | false =>
    rw [if_neg (by decide), List.append_nil, Bool.false_or, Bool.eq_iff_iff]
    simp

theorem exec_dramMr4Poll_due {s : State} {n r : Nat} {twice above : Bool} (up : s.rankUp n r = true) (due : tget 0 (s.chan n).mr4At r + 16 * psMs ≤ s.now) :
    exec (.dramMr4Poll n twice above r) s = .next (if above then
        (s.modChan n fun x => x.polled r s.now (twice || above)).raiseHub (0x383 + 4 * n) r (some (mkEntry 0x12 1 (0x383 + 4 * n) (8 + atLo n 4 + atLo r 7) 0))
      else s.modChan n fun x => x.polled r s.now (twice || above)) :=
  congrArg Host.Outcome.next (if_neg fun h => h.elim (fun e => e up) fun e => Nat.not_lt.mpr due e)

theorem State.calDue_of {s : State} {n r last period : Nat} (up : s.rankUp n r = true) (due : last + period ≤ s.now)
    (calm : (s.chan n).panicking = [] ∨ last + (period + psMs) ≤ s.now) : s.calDue n r last period = true := by
  unfold State.calDue
  rw [up, decide_eq_true due, Bool.and_self, Bool.true_and, Bool.or_eq_true, List.isEmpty_iff, decide_eq_true_eq]
  exact calm.imp_right fun h => by omega

/-! ### Patrol scrub (14 R388, R392) -/

/-- What a patrol read reports. -/
def State.patrolNote (s : State) (n c a : Nat) : Found → State
  | .data _ true => s.noteCe n c a true
  | .tag true => s.noteCe n c a true
  | .bad => s.noteUe n c a false true
  | _ => s

/-- The patrol moves on from a line. -/
def State.patrolled (s : State) (n c : Nat) : State :=
  s.modChan n fun x =>
    let done := (s.scrubNext n (c + 64)).isNone
    { x with scrubPos := if done then 0 else c + 64, scrubPass := if done then x.scrubPass + 1 else x.scrubPass }

theorem exec_dramPatrolRead {s : State} {n c a : Nat} {u : Sys2Proof.DramUpset} (up : (s.chan n).state = .up) (quiet : (s.chan n).quiet = true)
    (noPd : (s.chan n).pd = false) (noSref : (s.chan n).sref = false) (next : s.scrubNext n (s.chan n).scrubPos = some (c, a)) :
    exec (.dramPatrolRead n u) s = .next
      (((s.readLine (s.flashView n a) n c a u).1.patrolNote n c a (s.readLine (s.flashView n a) n c a u).2).patrolled n c) := by
  refine congrArg Host.Outcome.next ?_
  unfold Sys2Proof.Machine.dramPatrol
  dsimp only
  rw [if_neg (by rw [up, quiet, noPd, noSref]; decide), next]
  dsimp only [Option.or]
  generalize s.readLine (s.flashView n a) n c a u = r
  obtain ⟨v, f⟩ := r
  unfold State.patrolNote State.patrolled
  rcases f with ⟨p, _ | _⟩ | _ | _ | (_ | _) <;> rfl

/-- A good line that is not disturbed beyond its code is found, with its error if it has one. -/
theorem State.readLine_good {s : State} {v : FlashView} {n c a : Nat} {tg : BitVec 64} {u : Sys2Proof.DramUpset} (good : s.lineState n c = .good tg)
    (kind : u = .none ∨ u = .corrected) :
    (s.readLine v n c a u).1 = s ∧ (∃ p, (s.readLine v n c a u).2 = .data p (u == .corrected)) ∨
    (s.readLine v n c a u).1 = s ∧ (s.readLine v n c a u).2 = .tag (u == .corrected) := by
  unfold State.readLine
  rw [good]
  dsimp only
  rw [if_neg (by rcases kind with rfl | rfl <;> decide)]
  split
  · exact .inr ⟨rfl, rfl⟩
  · exact .inl ⟨rfl, _, rfl⟩

/-- Nothing of the DRAM but its channels changes. -/
structure State.sameDram (s t : State) : Prop where
  bytes : t.dram.bytes = s.dram.bytes
  sets : t.dram.sets = s.dram.sets
  regions : t.dram.regions = s.dram.regions

theorem State.sameDram.scrubNext {s t : State} (h : s.sameDram t) (n pos : Nat) : t.scrubNext n pos = s.scrubNext n pos := by
  unfold State.scrubNext State.scrubSpans Dram.ilv
  rw [h.sets, h.regions]

theorem State.sameDram.trans {s t u : State} (h : s.sameDram t) (h' : t.sameDram u) : s.sameDram u :=
  ⟨h'.bytes.trans h.bytes, h'.sets.trans h.sets, h'.regions.trans h.regions⟩

theorem State.sameDram_modChan (s : State) (n : Nat) (f : Channel → Channel) : s.sameDram (s.modChan n f) := ⟨rfl, rfl, rfl⟩
theorem State.sameDram_raiseHub (s : State) (evid data : Nat) (note : Option LogEntry) : s.sameDram (s.raiseHub evid data note) := ⟨rfl, rfl, rfl⟩
theorem State.sameDram_logNote (s : State) (e : LogEntry) : s.sameDram (s.logNote e) := ⟨rfl, rfl, rfl⟩

theorem State.chan_drew (s : State) (k n : Nat) : (s.drew k).chan n = s.chan n := rfl
theorem State.chan_raiseHub (s : State) (evid data : Nat) (note : Option LogEntry) (n : Nat) : (s.raiseHub evid data note).chan n = s.chan n := rfl
theorem State.chan_logNote (s : State) (e : LogEntry) (n : Nat) : (s.logNote e).chan n = s.chan n := rfl

/-- The report of a corrected error counts it and keeps what the channel holds. -/
theorem State.noteCe_leaves (s : State) (n c a : Nat) (scrub : Bool) :
    (∃ told, (s.noteCe n c a scrub).chan n = { s.chan n with ce := satInc (s.chan n).ce, ceAt := told }) ∧ s.sameDram (s.noteCe n c a scrub) := by
  unfold State.noteCe
  dsimp only
  have base : ∃ u, (if (s.declOf n).eccB = true then s else s.drew 1) = u ∧ u.chan n = s.chan n ∧ s.sameDram u := by
    refine ⟨_, rfl, ?_⟩
    split
    · exact ⟨rfl, rfl, rfl, rfl⟩
    · exact ⟨rfl, rfl, rfl, rfl⟩
  obtain ⟨u, is, ch, dram⟩ := base
  rw [is]
  have counted := State.chan_modChan u n fun x => { x with ce := satInc x.ce }
  have dram := dram.trans (u.sameDram_modChan n fun x => { x with ce := satInc x.ce })
  generalize (u.modChan n fun x => { x with ce := satInc x.ce }) = v at counted dram ⊢
  rw [ch] at counted
  split
  · exact ⟨⟨(s.chan n).ceAt, (v.chan_logNote _ n).trans counted⟩, dram.trans (v.sameDram_logNote _)⟩
  · refine ⟨⟨some v.now, ?_⟩, (dram.trans (v.sameDram_modChan n _)).trans (State.sameDram_raiseHub ..)⟩
    rw [State.chan_raiseHub, State.chan_modChan, counted]

/-- What a patrol read of a good line reports: a corrected error, which is counted. -/
theorem State.patrolNote_good {s : State} {n c a : Nat} {f : Found} {fixed : Bool} (good : (∃ p, f = .data p fixed) ∨ f = .tag fixed) :
    (∃ told, (s.patrolNote n c a f).chan n = { s.chan n with ce := if fixed = true then satInc (s.chan n).ce else (s.chan n).ce, ceAt := told }) ∧
    s.sameDram (s.patrolNote n c a f) := by
  cases fixed with
  | true =>
    have told : s.patrolNote n c a f = s.noteCe n c a true := by rcases good with ⟨p, rfl⟩ | rfl <;> rfl
    rw [told]
    exact s.noteCe_leaves n c a true
  | false =>
    have quiet : s.patrolNote n c a f = s := by rcases good with ⟨p, rfl⟩ | rfl <;> rfl
    rw [quiet]
    exact ⟨⟨_, rfl⟩, rfl, rfl, rfl⟩

theorem exec_dramPatrolRead_good {s : State} {n c a : Nat} {tg : BitVec 64} {u : Sys2Proof.DramUpset} (up : (s.chan n).state = .up) (quiet : (s.chan n).quiet = true)
    (noPd : (s.chan n).pd = false) (noSref : (s.chan n).sref = false) (next : s.scrubNext n (s.chan n).scrubPos = some (c, a))
    (good : s.lineState n c = .good tg) (kind : u = .none ∨ u = .corrected) :
    ∃ t, exec (.dramPatrolRead n u) s = .next t ∧ (t.chan n).ce = (if u = .corrected then satInc (s.chan n).ce else (s.chan n).ce) ∧
      (t.chan n).lines = (s.chan n).lines ∧ t.dram.bytes = s.dram.bytes ∧
      ((s.scrubNext n (c + 64)).isSome = true → (t.chan n).scrubPos = c + 64 ∧ (t.chan n).scrubPass = (s.chan n).scrubPass) ∧
      ((s.scrubNext n (c + 64)) = none → (t.chan n).scrubPos = 0 ∧ (t.chan n).scrubPass = (s.chan n).scrubPass + 1) := by
  have run := exec_dramPatrolRead (u := u) up quiet noPd noSref next
  have found := State.readLine_good (v := s.flashView n a) (a := a) good kind
  have same : (s.readLine (s.flashView n a) n c a u).1 = s := found.elim And.left And.left
  have found := found.imp And.right And.right
  rw [same] at run
  generalize (s.readLine (s.flashView n a) n c a u).2 = f at run found
  obtain ⟨⟨told, ch⟩, dram⟩ := State.patrolNote_good (s := s) (n := n) (c := c) (a := a) found
  generalize s.patrolNote n c a f = v at run ch dram
  refine ⟨_, run, ?_⟩
  have bytes : (v.patrolled n c).dram.bytes = s.dram.bytes := dram.bytes
  rw [bytes]
  unfold State.patrolled
  rw [State.chan_modChan, ch, dram.scrubNext]
  refine ⟨?_, rfl, rfl, fun more => ?_, fun last => ?_⟩
  · rcases kind with rfl | rfl <;> rfl
  · have one : (s.scrubNext n (c + 64)).isNone = false := by
      obtain ⟨q, is⟩ := Option.isSome_iff_exists.mp more
      rw [is]; rfl
    rw [one]
    exact ⟨rfl, rfl⟩
  · rw [last]
    exact ⟨rfl, rfl⟩

end Sys2Proof.Machine

open Sys2Proof Sys2Proof.Machine

/-- Settles O42: each periodic work of a channel, by whether it is due. -/
theorem channelUpkeep : Obligations.channelUpkeep := by
  unfold Obligations.channelUpkeep
  refine ⟨?_, ?_, ?_, ?_, ?_, ?_, ?_, ?_, ?_⟩
  · rintro s n r ⟨up, due, calm⟩
    refine ⟨_, exec_dramRefresh_due up due, ?_⟩
    rw [State.chan_modChan, Channel.refreshed_calm calm]
    exact ⟨tget_tput_same 0 (s.chan n).refAt r s.now, tget_tput_same 0 (s.chan n).owed r 0, fun k own => Channel.openRow_closeRank _ own, (State.modChan_steps (Steps.refl [.dram] s) (by decide)).1⟩
  · rintro s n r ⟨up, due, panic, few⟩
    refine ⟨_, exec_dramRefresh_due up due, ?_⟩
    rw [State.chan_modChan, Channel.refreshed_panic panic few]
    exact ⟨tget_tput_same 0 (s.chan n).refAt r s.now, tget_tmod_same 0 (s.chan n).owed r (· + 1), rfl⟩
  · intro s n r rests
    exact ⟨s, exec_dramRefresh_rests rests, rfl⟩
  · rintro s n r twice above ⟨up, due⟩
    refine ⟨_, exec_dramMr4Poll_due up due, ?_⟩
    cases above with
    | true =>
      rw [if_pos rfl, State.chan_raiseHub, State.chan_modChan, Channel.hot_polled]
      exact ⟨tget_tput_same 0 (s.chan n).mr4At r s.now, rfl, fun _ => ⟨_, rfl, rfl, rfl⟩, fun h => Bool.noConfusion h⟩
    | false =>
      rw [if_neg (by decide), State.chan_modChan, Channel.hot_polled]
      exact ⟨tget_tput_same 0 (s.chan n).mr4At r s.now, rfl, fun h => Bool.noConfusion h, fun _ => rfl⟩
  · rintro s n r ⟨up, due, calm⟩
    refine ⟨_, congrArg Host.Outcome.next (if_pos (State.calDue_of up due calm)), State.chan_modChan ..⟩
  · rintro s n r ⟨up, due, calm⟩
    refine ⟨_, congrArg Host.Outcome.next (if_pos (State.calDue_of up due calm)), State.chan_modChan ..⟩
  · rintro s n ⟨up, quiet, sel, noPd, noSref, free, idle⟩
    exact ⟨_, congrArg Host.Outcome.next (if_pos ⟨up, quiet, sel, by rw [noPd]; decide, by rw [noSref]; decide, by rw [free]; decide, idle⟩), State.chan_modChan ..,
      (State.modChan_steps (Steps.refl [.dram] s) (by decide)).1⟩
  · rintro s n ⟨up, quiet, sel, noSref, free, idle⟩
    exact ⟨_, congrArg Host.Outcome.next (if_pos ⟨up, quiet, sel, by rw [noSref]; decide, by rw [free]; decide, idle⟩), State.chan_modChan ..,
      (State.modChan_steps (Steps.refl [.dram] s) (by decide)).1⟩
  · rintro s n c a tg u ⟨up, quiet, noPd, noSref, next, good, kind⟩
    exact exec_dramPatrolRead_good up quiet noPd noSref next good kind
end

section
/-! PROOFS. A segment of a repair whose bay is no longer to be repaired (12 R319; 13 R360): the stream closes and the segment is not appended. -/

open Sys2Proof
namespace Sys2Proof.Machine

/-- The header of an image of two segments whose payloads have 16 bytes. -/
def repairHdr : List (BitVec 8) := List.replicate 44 0 ++ leBytes 4 2 ++ leBytes 8 680 ++ List.replicate 456 0

def repairKey : List (BitVec 8) := List.replicate 32 9

/-- The last segment's plaintext: payload, no wrapped key, its number and the mark of the last. -/
def repairPlain : List (BitVec 8) := List.replicate 16 7 ++ List.replicate 40 0 ++ leBytes 4 1 ++ leBytes 4 1

def repairCipher : List (BitVec 8) := gcmOpen repairKey (hdrIv repairHdr ++ leBytes 4 1) repairPlain

/-- The segment as its source gives it: LEN, ciphertext and tag. -/
def repairSegment : List (BitVec 8) :=
  leBytes 4 64 ++ repairCipher ++ gcmTag repairKey (hdrIv repairHdr ++ leBytes 4 1) (segAad repairHdr 1 64) repairCipher

/-- A repair of an EMPTY bay waits for that segment, its frames still untouched. -/
def repairingEmpty : State :=
  State.reset.modCfg fun c => { c with stream := { Stream.reset with
    isOpen := true, what := .repair, untouched := true, src := 0, header := repairHdr, used := 596, segIdx := 1, key := repairKey, took := true } }

theorem repairSegment_opens : openSegment repairHdr repairKey 1 ((repairSegment.drop 4).take 64) ((repairSegment.drop 68).take 16) =
    .ok (List.replicate 16 7) [] true := by decide +kernel

theorem repairingEmpty_met : (repairingEmpty.strm false).isOpen = true ∧ (repairingEmpty.strm false).header ≠ [] ∧ (repairingEmpty.strm false).last = false ∧
    (repairingEmpty.strm false).segIdx ≠ 0 ∧ ((repairingEmpty.strm false).what = .full → repairingEmpty.cfg.wiping = false ∧ repairingEmpty.cfg.reached = true) ∧
    (repairingEmpty.strm false).src ≠ 4 ∧ repairSegment = (if (repairingEmpty.strm false).src < 2 then repairSegment else (repairingEmpty.strm false).pushed) ∧
    64 = numAt repairSegment 0 4 ∧ segLenOk (repairingEmpty.strm false).segIdx 64 = true ∧
    (repairingEmpty.strm false).used + 20 + 64 ≤ hdrLen (repairingEmpty.strm false).header ∧ 20 + 64 ≤ repairSegment.length ∧
    ((repairingEmpty.strm false).src < 2 → repairSegment.length = 20 + 64) := by decide +kernel

/-- The stream closes, so nothing is open behind the segment. -/
theorem repairingEmpty_closes : ((segmentReceive repairingEmpty false repairSegment).runHeld.strm false).isOpen = false := by decide +kernel

end Sys2Proof.Machine

open Sys2Proof Sys2Proof.Machine

/-- Refutes O37, in its clause of a segment after segment 0: a repair that has touched no frame yet and whose bay is EMPTY closes its stream at its
next segment, however good that is. -/
theorem not_loadsAndPushes : ¬ Obligations.loadsAndPushes := by
  unfold Obligations.loadsAndPushes
  rintro ⟨-, -, -, -, -, -, segment, -, -, -, -, -⟩
  obtain ⟨open_, header, more, later, full, src, bytes, len, lenOk, room, whole, slot⟩ := repairingEmpty_met
  obtain ⟨t, run, -, -, -, -, -, -, stays⟩ := segment repairingEmpty false repairSegment repairSegment (List.replicate 16 7) [] 64 true
    ⟨open_, header, more, later, full, src, bytes, len, lenOk, room, whole, slot, repairSegment_opens, fun _ => rfl⟩
  have left : t = (segmentReceive repairingEmpty false repairSegment).runHeld := (Host.Outcome.next.inj run).symm
  rw [left, repairingEmpty_closes] at stays
  exact Bool.noConfusion stays
end

section
/-! PROOFS. What a program's stream keeps while a held bay command runs (12 R339; 13 R350, R356). -/

open Sys2Proof
namespace Sys2Proof.Machine

/-- A program's stream and the cause of the last command. -/
def State.progPart (s : State) : Stream × BitVec 5 := (s.cfg.prog, s.cfg.causeCmd)

section
variable {s t : State} {ps : List Component}

theorem State.progPart_of_frame (h : Steps ps s t) (out : Component.cfg ∉ ps) : t.progPart = s.progPart := by
  unfold State.progPart
  rw [h.1 .cfg out]

theorem State.progPart_closeStrm (s : State) : (s.closeStrm false).progPart = s.progPart := by
  unfold State.closeStrm
  dsimp only
  split
  · rfl
  · rfl

/-- A bay stream's failure is its bay's. -/
theorem State.progPart_bayFail (s : State) (cause seg : Nat) : (s.bayFail cause seg).progPart = s.progPart := by
  unfold State.bayFail
  dsimp only
  generalize hu : s.logNote _ = u
  have same : u.progPart = s.progPart := by rw [← hu]; rfl
  have closed : ((u.closeStrm false).modBay s.cfg.stream.die s.cfg.stream.bay fun x => { x with cause := BitVec.ofNat 5 cause }).progPart = s.progPart :=
    u.progPart_closeStrm.trans same
  rw [State.progPart_of_frame (State.endRun_steps (Steps.refl [.dies, .gable, .evr] _) (by decide)) (by decide)]
  split
  · exact closed
  · exact (State.progPart_of_frame (State.emptyBay_steps (Steps.refl [.dies] _) (by decide)) (by decide)).trans closed

/-- The header of a bay stream leaves a program alone. -/
theorem State.progPart_takeHeader {s : State} (bay : s.cfg.stream.what = .bay ∨ s.cfg.stream.what = .repair) (h : List (BitVec 8)) :
    (s.takeHeader false h).progPart = s.progPart := by
  have what : (s.strm false).what = .bay ∨ (s.strm false).what = .repair := bay
  unfold State.takeHeader
  dsimp only
  split
  · unfold State.strmFail
    rcases bay with is | is <;> simp only [is, Bool.false_eq_true, if_false] <;> exact s.progPart_bayFail _ _
  · rw [if_neg (by rcases what with is | is <;> rw [is] <;> decide)]
    rfl

theorem State.progPart_openBay (s : State) {x : Stream} (bay : x.what = .bay ∨ x.what = .repair) : (s.openBay x).progPart = s.progPart := by
  unfold State.openBay
  generalize opened : State.admitPush _ x.src (x.pushMid.getD 0) = u
  have kept : u.cfg.stream.what = x.what ∧ u.progPart = s.progPart := by
    rw [← opened]
    unfold State.admitPush
    split
    · exact ⟨rfl, rfl⟩
    · exact ⟨rfl, rfl⟩
  dsimp only
  split
  · split
    · exact (State.progPart_takeHeader (by rw [kept.1]; exact bay) _).trans kept.2
    · exact (u.progPart_bayFail _ _).trans kept.2
  · exact kept.2

theorem State.progPart_repairBay (s : State) (d b : Nat) : (s.repairBay d b).progPart = s.progPart := by
  unfold State.repairBay
  split
  · exact s.progPart_openBay (.inr rfl)
  · split
    · exact State.progPart_of_frame (State.startShut_steps (Steps.refl [.dies, .routers, .masters, .lad] s) (by decide)) (by decide)
    · exact State.progPart_of_frame (State.endRun_steps (State.noSource_steps (State.emptyBay_steps (Steps.refl [.dies, .routers, .gable, .evr] s)
        (by decide)) (by decide)) (by decide)) (by decide)

theorem State.progPart_startLoad (s : State) (d b tok : Nat) (arg : List (BitVec 8)) : (s.startLoad d b tok arg).progPart = s.progPart :=
  (State.progPart_openBay _ (.inl rfl)).trans rfl

theorem State.progPart_startEnable (s : State) (d b tok : Nat) : (s.startEnable d b tok).progPart = s.progPart := by
  unfold State.startEnable
  generalize hu : s.modBay d b _ = u
  have same : u.progPart = s.progPart := by rw [← hu]; rfl
  dsimp only
  split
  · split
    · exact (u.progPart_repairBay d b).trans same
    · exact same
  · exact (State.progPart_of_frame (State.endRun_steps (State.releaseBay_steps (Steps.refl [.free, .rsp, .dies, .routers, .gable, .evr] u)
      (by decide)) (by decide)) (by decide)).trans same

/-- A command that a shut-down held leaves a program alone. -/
theorem State.progPart_judgeHeld (s : State) (d b : Nat) : (s.judgeHeld d b).progPart = s.progPart := by
  have refused : ∀ h : HeldBay, ((s.modBay d b fun x => { x with held := none, pendingEnable := false }).complete h.mbx stState []).progPart = s.progPart :=
    fun h => (State.progPart_of_frame (State.complete_steps (Steps.refl [.gable, .evr] (s.modBay d b _)) (by decide)) (by decide)).trans rfl
  unfold State.judgeHeld
  cases (s.bay d b).held with
  | none => rfl
  | some h =>
    dsimp only
    split
    · rfl
    · split
      · exact refused h
      · split
        · split
          · exact s.progPart_startLoad ..
          · rfl
        · split
          · exact s.progPart_startEnable ..
          · exact refused h

theorem State.progPart_runHeld (s : State) : s.runHeld.progPart = s.progPart := by
  unfold State.runHeld
  split
  · split
    · exact s.progPart_judgeHeld ..
    · rfl
  · rfl

end

/-- While a load is open no held command runs. -/
theorem State.runHeld_of_open {s : State} (busy : s.cfg.stream.isOpen = true) : s.runHeld = s := by
  unfold State.runHeld State.ctrlFree
  rw [busy]
  rfl

theorem State.prog_runHeld (s : State) : s.runHeld.cfg.prog = s.cfg.prog := congrArg Prod.fst s.progPart_runHeld
theorem State.causeCmd_runHeld (s : State) : s.runHeld.cfg.causeCmd = s.cfg.causeCmd := congrArg Prod.snd s.progPart_runHeld

/-- An open stream stays as it is while held commands run. -/
theorem State.strm_runHeld {s : State} {p : Bool} (busy : (s.strm p).isOpen = true) : s.runHeld.strm p = s.strm p := by
  cases p with
  | true => exact s.prog_runHeld
  | false => rw [State.runHeld_of_open busy]

end Sys2Proof.Machine
end

section
/-! PROOFS. What the records of an image stream do (12 R327 to R329, R333). -/

open Sys2Proof
namespace Sys2Proof.Machine

/-! ### Frames (12 R327) -/

/-- A configuration frame of 512 bytes. -/
def frameOfData (data : List (BitVec 8)) : CfgFrame :=
  { words := (List.range 64).foldl (fun t j => tput 0 t j (BitVec.ofNat 64 (numAt data (8 * j) 8))) [] }

theorem frameOfData_words (data : List (BitVec 8)) {j : Nat} (below : j < 64) :
    tget 0 (frameOfData data).words j = BitVec.ofNat 64 (numAt data (8 * j) 8) :=
  (tget_foldl_tput 0 [] (fun j => BitVec.ofNat 64 (numAt data (8 * j) 8)) 64 j).trans (if_pos below)

theorem frameOfData_zero : frameOfData zeroFrame = CfgFrame.reset := by decide +kernel

/-- A frame of a die. -/
def State.frame (s : State) (d i : Nat) : CfgFrame := tget CfgFrame.reset (s.die d).frames i

theorem State.frame_writeFrame (s : State) (d : Nat) {i : Nat} (data : List (BitVec 8)) (low : i < 262144) (k : Nat) :
    (s.writeFrame d i data).frame d k = if k = i then frameOfData data else s.frame d k := by
  unfold State.writeFrame State.frame
  rw [if_pos low, State.die_modDie]
  exact tget_tput ..

/-- Frames of one run hold its data, the others what they held. -/
theorem State.frame_foldl_writeFrame (d : Nat) (data : List (BitVec 8)) (is : List Nat) (low : ∀ i ∈ is, i < 262144) (s : State) (k : Nat) :
    (is.foldl (fun (s : State) i => s.writeFrame d i data) s).frame d k = if k ∈ is then frameOfData data else s.frame d k := by
  induction is generalizing s with
  | nil => rw [if_neg (by simp)]; rfl
  | cons i is ih =>
    rw [List.foldl_cons, ih fun j h => low j (List.mem_cons_of_mem i h), State.frame_writeFrame _ _ _ (low i List.mem_cons_self)]
    by_cases later : k ∈ is
    · rw [if_pos later, if_pos (List.mem_cons_of_mem i later)]
    · rw [if_neg later]
      by_cases now : k = i
      · rw [if_pos now, if_pos (by rw [now]; exact List.mem_cons_self)]
      · rw [if_neg now, if_neg (by simp [now, later])]

theorem State.frame_of_dies {s t : State} (h : t.dies = s.dies) (d k : Nat) : t.frame d k = s.frame d k := by
  unfold State.frame State.die
  rw [h]

/-! ### The next record (12 R328) -/

/-- The record that stands next in a stream. -/
def Stream.next (x : Stream) : RecHdr := recHdr x.buf

/-- The next record of an open stream is whole, of a type, with its fields as the table has them, and within the FRAMES section. -/
structure Stream.offers (x : Stream) (typ n : Nat) : Prop where
  isOpen : x.isOpen = true
  took : x.took = true
  going : x.ended = false
  frames : x.framesLen = some n
  whole : 16 + recPayload typ ≤ x.buf.length
  kind : x.next.typ = typ
  fields : recFieldsOk x.next = true
  within : x.framesUsed + (16 + recPayload typ) ≤ n

/-- The stream behind a record that was taken. -/
def Stream.past (x : Stream) (n k : Nat) : Stream := { x with buf := x.buf.drop n, framesUsed := x.framesUsed + n, writes := x.writes + k }

theorem State.strm_modStrm (s : State) (p : Bool) (f : Stream → Stream) : (s.modStrm p f).strm p = f (s.strm p) := by
  unfold State.modStrm State.strm State.modCfg
  cases p with
  | true => rfl
  | false => rfl

theorem State.dies_modStrm (s : State) (p : Bool) (f : Stream → Stream) : (s.modStrm p f).dies = s.dies := rfl

/-- The state behind a record that was taken. -/
def State.pastRecord (s : State) (p full : Bool) (n k : Nat) : State :=
  let s := s.modStrm p fun y => y.past n k
  if full then s.modCfg fun c => { c with frames := c.frames + BitVec.ofNat 64 k } else s

theorem State.strm_modFrames (s : State) (p : Bool) (g : BitVec 64 → BitVec 64) : (s.modCfg fun c => { c with frames := g c.frames }).strm p = s.strm p := by
  cases p with
  | true => rfl
  | false => rfl

theorem State.pastRecord_leaves (s : State) (p full : Bool) (n k : Nat) :
    (s.pastRecord p full n k).strm p = (s.strm p).past n k ∧ (s.pastRecord p full n k).dies = s.dies := by
  unfold State.pastRecord
  dsimp only
  have past := s.strm_modStrm p fun y => y.past n k
  cases full with
  | true => exact ⟨((s.modStrm p fun y => y.past n k).strm_modFrames p (· + BitVec.ofNat 64 k)).trans past, rfl⟩
  | false => exact ⟨past, rfl⟩

/-- The body of the next record. -/
def Stream.body (x : Stream) (typ : Nat) : List (BitVec 8) := (x.buf.drop 16).take (16 + recPayload typ - 16)

theorem recordStep_of_took {s : State} {p : Bool} {typ : Nat} (isOpen : (s.strm p).isOpen = true) (took : (s.strm p).took = true)
    (going : (s.strm p).ended = false) (frames : (s.strm p).framesLen.isSome = true) : recordStep s p typ = s.takeRecord p typ := by
  unfold recordStep
  dsimp only
  rw [if_neg (by rw [isOpen, took, going]; decide), if_pos frames]

/-- A record of the type asked for is judged by its effect. -/
theorem recordStep_offered {s : State} {p : Bool} {typ n : Nat} (offers : (s.strm p).offers typ n) (low : 1 ≤ typ) (high : typ ≤ 4)
    {s1 : State} {k : Nat} (effect : s.recEffect p (s.strm p) (s.strm p).next ((s.strm p).body typ) = some (s1, k)) :
    recordStep s p typ = s1.pastRecord p (decide ((s.strm p).what = .full)) (16 + recPayload typ) k := by
  obtain ⟨isOpen, took, going, frames, whole, is, fields, within⟩ := offers
  have hdr : recHdr (s.strm p).buf = (s.strm p).next := rfl
  rw [recordStep_of_took isOpen took going (by rw [frames]; rfl)]
  unfold State.takeRecord
  dsimp only
  rw [hdr, if_neg (by omega), if_neg (by rw [is]; omega), if_neg (fun h => h is), is, if_neg (by omega),
    if_neg (by rw [frames]; exact Nat.not_lt.mpr within), if_neg (fun h => h fields), if_neg (by omega)]
  have body : ((s.strm p).buf.drop 16).take (16 + recPayload typ - 16) = (s.strm p).body typ := rfl
  rw [body, effect]
  unfold State.pastRecord
  simp only [decide_eq_true_eq]
  rfl

/-- END is judged by its count. -/
theorem recordStep_end {s : State} {p : Bool} {n : Nat} (offers : (s.strm p).offers 5 n) : recordStep s p 5 = s.takeEnd p (s.strm p) (s.strm p).next := by
  obtain ⟨isOpen, took, going, frames, whole, is, fields, within⟩ := offers
  have hdr : recHdr (s.strm p).buf = (s.strm p).next := rfl
  have plain : 16 + recPayload 5 = 16 := rfl
  rw [recordStep_of_took isOpen took going (by rw [frames]; rfl)]
  unfold State.takeRecord
  dsimp only
  rw [hdr, if_neg (by omega), if_neg (by rw [is]; decide), if_neg (fun h => h is), is, if_neg (by omega),
    if_neg (by rw [frames]; exact Nat.not_lt.mpr within), if_neg (fun h => h fields), if_pos rfl]

/-- A record of an unknown type fails its stream. -/
theorem recordStep_unknown {s : State} {p : Bool} {typ : Nat} (isOpen : (s.strm p).isOpen = true) (took : (s.strm p).took = true)
    (going : (s.strm p).ended = false) (frames : (s.strm p).framesLen.isSome = true) (whole : 16 ≤ (s.strm p).buf.length)
    (unknown : (s.strm p).next.typ = 0 ∨ 5 < (s.strm p).next.typ) : recordStep s p typ = s.strmFail p cRecord ((s.strm p).segIdx - 1) := by
  rw [recordStep_of_took isOpen took going frames]
  unfold State.takeRecord
  dsimp only
  rw [if_neg (by omega)]
  exact if_pos unknown

/-! ### Runs (12 R328) -/

/-- The frames that a run names. -/
def Stream.run (x : Stream) (r : RecHdr) (count : Nat) (stride : Int) : List (Option Nat) :=
  (List.range count).map fun k => (runIdx r.start k stride).bind x.frameOf

theorem State.putRun_of {s : State} {x : Stream} {r : RecHdr} {count d : Nat} {stride : Int} {data : List (BitVec 8)} (die : s.dieOfRec x r.die = some d)
    (good : ∀ o ∈ x.run r count stride, ∃ i, o = some i ∧ frameDataOk i data = true) :
    s.putRun x r count stride data = some (((x.run r count stride).filterMap id).foldl (fun (s : State) i => s.putFrame x d i data) s) := by
  unfold State.putRun
  rw [die]
  refine if_pos (List.all_eq_true.mpr fun o mem => ?_)
  obtain ⟨i, is, ok⟩ := good o mem
  rw [is]
  exact ok

/-- A full load writes each frame. -/
theorem State.putFrame_full {x : Stream} (full : x.what = .full) (d : Nat) (data : List (BitVec 8)) :
    (fun (s : State) i => s.putFrame x d i data) = fun (s : State) i => s.writeFrame d i data := by
  funext s i
  unfold State.putFrame
  rw [if_neg (by rw [full]; exact fun h => h.elim (fun e => nomatch e) fun e => nomatch e.1)]

theorem State.cfg_foldl_putFrame (s : State) (x : Stream) (d : Nat) (data : List (BitVec 8)) (is : List Nat) :
    (is.foldl (fun (s : State) i => s.putFrame x d i data) s).cfg = s.cfg :=
  foldl_keeps State.cfg _ (fun u i => (State.putFrame_steps (Steps.refl [.dies] u) (by decide)).1 .cfg (by decide)) is s

theorem State.strm_of_cfg {s t : State} (h : t.cfg = s.cfg) (p : Bool) : t.strm p = s.strm p := by
  unfold State.strm
  rw [h]

/-- In a full image an index of the configuration frames names itself. -/
theorem Stream.frameOf_full {x : Stream} (full : x.what = .full) {i : Nat} (low : i < 262144) : x.frameOf i = some i := by
  unfold Stream.frameOf frameIdxOk
  rw [if_neg (by rw [full]; decide), if_pos (decide_eq_true (by omega))]

theorem frameDataOk_low {i : Nat} (low : i < 262144) (data : List (BitVec 8)) : frameDataOk i data = true := if_pos (by omega)

/-- A run of a full image over configuration frames. -/
theorem State.putRun_full {s : State} {x : Stream} {r : RecHdr} {count : Nat} {stride : Int} {data : List (BitVec 8)} (full : x.what = .full)
    (die : r.die < s.fdies) (low : ∀ k, k < count → ∃ i, runIdx r.start k stride = some i ∧ i < 262144) :
    ∃ s1, s.putRun x r count stride data = some s1 ∧ s1.cfg = s.cfg ∧
      ∀ k i, k < count → runIdx r.start k stride = some i → s1.frame r.die i = frameOfData data := by
  have named : s.dieOfRec x r.die = some r.die := by
    unfold State.dieOfRec
    rw [if_neg (by rw [full]; decide), if_pos die]
  have good : ∀ o ∈ x.run r count stride, ∃ i, o = some i ∧ i < 262144 := by
    intro o mem
    obtain ⟨k, below, rfl⟩ := List.mem_map.mp mem
    obtain ⟨i, is, small⟩ := low k (List.mem_range.mp below)
    exact ⟨i, by rw [is]; exact Stream.frameOf_full full small, small⟩
  refine ⟨_, State.putRun_of named (fun o mem => (good o mem).imp fun i h => ⟨h.1, frameDataOk_low h.2 data⟩), State.cfg_foldl_putFrame .., fun k i below is => ?_⟩
  have small : ∀ j ∈ (x.run r count stride).filterMap id, j < 262144 := by
    intro j mem
    obtain ⟨o, there, eq⟩ := List.mem_filterMap.mp mem
    obtain ⟨j', is', low'⟩ := good o there
    have same : j' = j := Option.some.inj (is'.symm.trans eq)
    exact same ▸ low'
  have there : i ∈ (x.run r count stride).filterMap id := by
    refine List.mem_filterMap.mpr ⟨some i, List.mem_map.mpr ⟨k, List.mem_range.mpr below, ?_⟩, rfl⟩
    obtain ⟨j, is', small'⟩ := low k below
    have same : j = i := Option.some.inj (is'.symm.trans is)
    rw [is]
    exact Stream.frameOf_full full (same ▸ small')
  rw [State.putFrame_full full, State.frame_foldl_writeFrame _ _ _ small, if_pos there]

/-- A run of which every frame lies below a bound lies below it with its first and its last. -/
theorem runOk_of_low {r : RecHdr} {lim : Nat} (one : 1 ≤ r.count) (low : ∀ k, k < r.count → ∃ i, runIdx r.start k r.stride = some i ∧ i < lim) :
    runOk r lim = true := by
  obtain ⟨first, is, below⟩ := low 0 one
  obtain ⟨last, is', below'⟩ := low (r.count - 1) (by omega)
  have start : first = r.start := by
    unfold runIdx at is
    simpa [eq_comm] using is
  unfold runOk
  rw [is']
  dsimp only
  rw [decide_eq_true below', decide_eq_true (start ▸ below)]
  rfl

/-! ### END (12 R329, R333) -/

theorem State.takeEnd_counted {s : State} {p : Bool} {x : Stream} {r : RecHdr} (count : r.count = x.writes % 2 ^ 32) (last : x.last = true)
    (one : x.buf.length = 16) (exact_ : x.framesLen = some (x.framesUsed + 16)) : s.takeEnd p x r = s.endStream p := by
  unfold State.takeEnd
  dsimp only
  rw [if_neg (fun h => h count), if_neg (fun h => h.elim (fun e => e last) fun e => e one), if_neg (fun h => h exact_)]

/-- END was accepted. -/
def State.streamEnded (s : State) : State := s.modStrm false fun y => { y with ended := true, buf := [] }

theorem State.streamEnded_leaves (s : State) : s.streamEnded.cfg.stream = { s.cfg.stream with ended := true, buf := [] } ∧ s.streamEnded.now = s.now := ⟨rfl, rfl⟩

/-- The settings of the image in every die of a list. -/
def State.installAll (s : State) (ds : List Nat) : State := ds.foldl (fun (s : State) d => s.installDie d s.cfg.bundle) s

theorem State.cfg_installAll (s : State) (ds : List Nat) : (s.installAll ds).cfg = s.cfg :=
  foldl_keeps State.cfg _ (fun u d => (State.installDie_steps (Steps.refl [.dies] u) (by decide)).1 .cfg (by decide)) ds s

/-- P1 begins. -/
def Cfg.atP1 (c : Cfg) (now : Nat) : Cfg := { c with phase := .p1, phaseAt := now }

theorem State.endStream_full {s : State} (full : s.cfg.stream.what = .full) :
    s.endStream false = (s.streamEnded.installAll s.streamEnded.dieList).modCfg fun c => c.atP1 s.streamEnded.now := by
  have what : s.streamEnded.cfg.stream.what = .full := full
  unfold State.endStream
  dsimp only
  have ended : s.modStrm false (fun y => { y with ended := true, buf := [] }) = s.streamEnded := rfl
  rw [if_neg (by decide), ended, what]
  rfl

theorem State.endStream_full_cfg {s : State} (full : s.cfg.stream.what = .full) : (s.endStream false).cfg = s.streamEnded.cfg.atP1 s.now := by
  rw [State.endStream_full full]
  exact congrArg (fun c : Cfg => c.atP1 s.now) (State.cfg_installAll ..)

/-! ### A program that fails (12 R339) -/

/-- The slot has no valid header, and the cause is recorded. -/
def State.progMarked (s : State) (cause seg : Nat) : State :=
  ((s.logNote (failLog s.cfg.prog.src cause seg noEvid)).modSlot s.cfg.prog.slot fun x => { x with valid := false, seq := 0, erased := true }).modCfg fun c =>
    { c with causeCmd := BitVec.ofNat 5 cause }

theorem State.progFail_eq (s : State) (cause seg : Nat) :
    s.progFail cause seg = ((s.progMarked cause seg).closeStrm true).completeOpt s.cfg.prog.mbx stFault (causeBytes cause) := rfl

theorem State.closeStrm_prog (s : State) : (s.closeStrm true).cfg.prog = Stream.reset ∧ (s.closeStrm true).cfg.causeCmd = s.cfg.causeCmd := by
  unfold State.closeStrm
  dsimp only
  split
  · exact ⟨rfl, rfl⟩
  · exact ⟨rfl, rfl⟩

theorem State.progFail_leaves (s : State) (cause seg : Nat) :
    (s.progFail cause seg).cfg.prog = Stream.reset ∧ (s.progFail cause seg).cfg.causeCmd = BitVec.ofNat 5 cause := by
  have told : (s.progMarked cause seg).cfg.causeCmd = BitVec.ofNat 5 cause := rfl
  rw [State.progFail_eq]
  generalize s.progMarked cause seg = u at told ⊢
  obtain ⟨closed, cause_⟩ := u.closeStrm_prog
  have kept : ((u.closeStrm true).completeOpt s.cfg.prog.mbx stFault (causeBytes cause)).cfg = (u.closeStrm true).cfg :=
    (State.completeOpt_steps (Steps.refl [.gable, .evr] _) (by decide)).1 .cfg (by decide)
  rw [kept, closed, cause_]
  exact ⟨rfl, told⟩

end Sys2Proof.Machine
end

section
/-! PROOFS. The clauses of the records, and `imageRecords`. -/

open Sys2Proof
namespace Sys2Proof.Machine

/-- What a taken record leaves of its open stream, behind the held commands. -/
theorem State.strm_pastRecord {s s1 : State} {p full : Bool} {n k : Nat} {x : Stream} (now : s1.strm p = x) (isOpen : x.isOpen = true) :
    (s1.pastRecord p full n k).runHeld.strm p = x.past n k := by
  have past := (s1.pastRecord_leaves p full n k).1
  rw [now] at past
  rw [State.strm_runHeld (by rw [past]; exact isOpen), past]

theorem exec_recordYealmDef {s : State} {p : Bool} {n : Nat} (offers : (s.strm p).offers 1 n) :
    ∃ t, exec (.recordYealmDef p) s = .next t ∧ (t.strm p).yealms = tput [] (s.strm p).yealms (s.strm p).next.yealm (((s.strm p).buf.drop 16).take 512) ∧
      (t.strm p).buf = (s.strm p).buf.drop 528 ∧ (t.strm p).framesUsed = (s.strm p).framesUsed + 528 ∧ (t.strm p).writes = (s.strm p).writes := by
  have effect : s.recEffect p (s.strm p) (s.strm p).next ((s.strm p).body 1) =
      some (s.modStrm p fun y => { y with yealms := tput [] y.yealms (s.strm p).next.yealm ((s.strm p).body 1) }, 0) := if_pos offers.kind
  refine ⟨_, congrArg (fun u => Host.Outcome.next (State.runHeld u)) (recordStep_offered offers (by decide) (by decide) effect), ?_⟩
  rw [State.strm_pastRecord (s := s) (s.strm_modStrm p _) offers.isOpen]
  exact ⟨rfl, rfl, rfl, rfl⟩

/-- A record of one frame writes that frame. -/
theorem State.putRun_one {s : State} {x : Stream} {r : RecHdr} {d i : Nat} {data : List (BitVec 8)} (die : s.dieOfRec x r.die = some d) (frame : x.frameOf r.start = some i)
    (ok : frameDataOk i data = true) : s.putRun x r 1 1 data = some (s.putFrame x d i data) := by
  have first : runIdx r.start 0 1 = some r.start := by simp [runIdx]
  have only : x.run r 1 1 = [some i] := by
    unfold Stream.run
    rw [List.range_one, List.map_singleton, first]
    exact congrArg (fun o => [o]) frame
  rw [State.putRun_of die (by rw [only]; exact fun o mem => ⟨i, List.mem_singleton.mp mem, ok⟩), only]
  rfl

theorem recEffect_frameLit {s s1 : State} {p : Bool} (kind : (s.strm p).next.typ = 2) (put : s.putRun (s.strm p) (s.strm p).next 1 1 ((s.strm p).body 2) = some s1) :
    s.recEffect p (s.strm p) (s.strm p).next ((s.strm p).body 2) = some (s1, 1) := by
  unfold State.recEffect
  dsimp only
  rw [if_neg (by rw [kind]; decide), if_pos kind, put]
  rfl

theorem exec_recordFrameLit_load {s : State} {n d i : Nat} (offers : s.cfg.stream.offers 2 n) (use : s.cfg.stream.what = .full ∨ s.cfg.stream.what = .bay)
    (die : s.dieOfRec s.cfg.stream s.cfg.stream.next.die = some d) (frame : s.cfg.stream.frameOf s.cfg.stream.next.start = some i)
    (ok : frameDataOk i ((s.cfg.stream.buf.drop 16).take 512) = true) :
    ∃ t, exec (.recordFrameLit false) s = .next t ∧ t.dies = (s.writeFrame d i ((s.cfg.stream.buf.drop 16).take 512)).dies ∧
      t.cfg.stream = s.cfg.stream.past 528 1 := by
  have put := State.putRun_one die frame ok
  have writes : s.putFrame s.cfg.stream d i ((s.cfg.stream.buf.drop 16).take 512) = s.writeFrame d i ((s.cfg.stream.buf.drop 16).take 512) := by
    unfold State.putFrame
    exact if_neg (by rcases use with is | is <;> rw [is] <;> simp)
  rw [writes] at put
  have run := recordStep_offered (p := false) offers (by decide) (by decide) (recEffect_frameLit (p := false) offers.kind put)
  refine ⟨_, congrArg (fun u => Host.Outcome.next (State.runHeld u)) run, ?_⟩
  have now : (s.writeFrame d i ((s.cfg.stream.buf.drop 16).take 512)).strm false = s.cfg.stream :=
    State.strm_of_cfg ((State.writeFrame_steps (Steps.refl [.dies] s) (by decide)).1 .cfg (by decide)) false
  generalize s.writeFrame d i ((s.cfg.stream.buf.drop 16).take 512) = s1 at now ⊢
  obtain ⟨past, dies⟩ := s1.pastRecord_leaves false (decide ((s.strm false).what = .full)) (16 + recPayload 2) 1
  have idle : (s1.pastRecord false (decide ((s.strm false).what = .full)) (16 + recPayload 2) 1).cfg.stream.isOpen = true := by
    refine (congrArg Stream.isOpen past).trans ?_
    rw [now]
    exact offers.isOpen
  rw [State.runHeld_of_open idle]
  exact ⟨dies, past.trans (by rw [now]; rfl)⟩

theorem exec_recordFrameLit_program {s : State} {n : Nat} (offers : s.cfg.prog.offers 2 n) (use : s.cfg.prog.what = .program)
    (die : s.cfg.prog.next.die < s.fdies) (frame : frameIdxOk s.cfg.prog.next.start = true)
    (ok : frameDataOk s.cfg.prog.next.start ((s.cfg.prog.buf.drop 16).take 512) = true) (busy : s.cfg.stream.isOpen = true) :
    ∃ t, exec (.recordFrameLit true) s = .next t ∧ t.dies = s.dies ∧ t.cfg.prog.writes = s.cfg.prog.writes + 1 := by
  have named : s.dieOfRec s.cfg.prog s.cfg.prog.next.die = some s.cfg.prog.next.die := by
    unfold State.dieOfRec
    rw [if_neg (by rw [use]; decide), if_pos die]
  have same : s.cfg.prog.frameOf s.cfg.prog.next.start = some s.cfg.prog.next.start := by
    unfold Stream.frameOf
    rw [if_neg (by rw [use]; decide), if_pos frame]
  have put := State.putRun_one named same ok
  have keeps : s.putFrame s.cfg.prog s.cfg.prog.next.die s.cfg.prog.next.start ((s.cfg.prog.buf.drop 16).take 512) = s := if_pos (.inl use)
  rw [keeps] at put
  have run := recordStep_offered (p := true) offers (by decide) (by decide) (recEffect_frameLit (p := true) offers.kind put)
  refine ⟨_, congrArg (fun u => Host.Outcome.next (State.runHeld u)) run, ?_⟩
  obtain ⟨past, dies⟩ := s.pastRecord_leaves true (decide ((s.strm true).what = .full)) (16 + recPayload 2) 1
  have plain : decide ((s.strm true).what = .full) = false := decide_eq_false (by rw [show (s.strm true).what = .program from use]; decide)
  have idle : (s.pastRecord true (decide ((s.strm true).what = .full)) (16 + recPayload 2) 1).cfg.stream.isOpen = true := by
    rw [plain]
    exact busy
  rw [State.runHeld_of_open idle]
  exact ⟨dies, congrArg Stream.writes past⟩

/-- A run of a full load that was put, as the record's effect. -/
theorem exec_of_run {s s1 : State} {typ n k : Nat} (offers : s.cfg.stream.offers typ n) (low : 1 ≤ typ) (high : typ ≤ 4)
    (effect : s.recEffect false s.cfg.stream s.cfg.stream.next (s.cfg.stream.body typ) = some (s1, k)) (cfg : s1.cfg = s.cfg) :
    (recordStep s false typ).runHeld.cfg.stream = s.cfg.stream.past (16 + recPayload typ) k ∧ ∀ d i, (recordStep s false typ).runHeld.frame d i = s1.frame d i := by
  rw [recordStep_offered (p := false) offers low high effect]
  have now : s1.strm false = s.cfg.stream := State.strm_of_cfg cfg false
  obtain ⟨past, dies⟩ := s1.pastRecord_leaves false (decide ((s.strm false).what = .full)) (16 + recPayload typ) k
  have idle : (s1.pastRecord false (decide ((s.strm false).what = .full)) (16 + recPayload typ) k).cfg.stream.isOpen = true := by
    refine (congrArg Stream.isOpen past).trans ?_
    rw [now]
    exact offers.isOpen
  rw [State.runHeld_of_open idle]
  exact ⟨past.trans (by rw [now]), fun d i => State.frame_of_dies dies d i⟩

theorem exec_recordFramePut {s : State} {n : Nat} (offers : s.cfg.stream.offers 3 n) (full : s.cfg.stream.what = .full) (die : s.cfg.stream.next.die < s.fdies)
    (yealm : tget [] s.cfg.stream.yealms s.cfg.stream.next.yealm ≠ [])
    (low : ∀ k, k < s.cfg.stream.next.count → ∃ i, runIdx s.cfg.stream.next.start k s.cfg.stream.next.stride = some i ∧ i < 262144) :
    ∃ t, exec (.recordFramePut false) s = .next t ∧ t.cfg.stream = s.cfg.stream.past 16 s.cfg.stream.next.count ∧
      ∀ k i, k < s.cfg.stream.next.count → runIdx s.cfg.stream.next.start k s.cfg.stream.next.stride = some i →
        t.frame s.cfg.stream.next.die i = frameOfData (tget [] s.cfg.stream.yealms s.cfg.stream.next.yealm) := by
  obtain ⟨s1, put, cfg, frames⟩ := State.putRun_full (data := tget [] s.cfg.stream.yealms s.cfg.stream.next.yealm) full die low
  have one : 1 ≤ s.cfg.stream.next.count := by
    have fields := offers.fields
    unfold recFieldsOk at fields
    rw [if_neg (by rw [offers.kind]; decide), if_neg (by rw [offers.kind]; decide), if_pos offers.kind] at fields
    simp only [Bool.and_eq_true, decide_eq_true_eq] at fields
    exact fields.1.2
  have bounded : runOk s.cfg.stream.next 409600 = true := runOk_of_low one fun k below => (low k below).imp fun i h => ⟨h.1, by omega⟩
  have effect : s.recEffect false s.cfg.stream s.cfg.stream.next (s.cfg.stream.body 3) = some (s1, s.cfg.stream.next.count) := by
    unfold State.recEffect
    dsimp only
    rw [if_neg (show ¬ (s.cfg.stream.what = .bay ∨ s.cfg.stream.what = .repair) by rw [full]; decide), if_neg (by rw [offers.kind]; decide),
      if_neg (by rw [offers.kind]; decide), if_pos offers.kind, if_neg (fun h => h.elim yealm fun e => e bounded), put]
    rfl
  obtain ⟨past, same⟩ := exec_of_run offers (by decide) (by decide) effect cfg
  exact ⟨_, rfl, past, fun k i below is => (same _ _).trans (frames k i below is)⟩

theorem exec_recordZeroRun {s : State} {n : Nat} (offers : s.cfg.stream.offers 4 n) (full : s.cfg.stream.what = .full) (die : s.cfg.stream.next.die < s.fdies)
    (low : s.cfg.stream.next.start + s.cfg.stream.next.count ≤ 262144) :
    ∃ t, exec (.recordZeroRun false) s = .next t ∧ t.cfg.stream = s.cfg.stream.past 16 s.cfg.stream.next.count ∧
      ∀ i, s.cfg.stream.next.start ≤ i → i < s.cfg.stream.next.start + s.cfg.stream.next.count → t.frame s.cfg.stream.next.die i = CfgFrame.reset := by
  have named : ∀ k, runIdx s.cfg.stream.next.start k 1 = some (s.cfg.stream.next.start + k) := by
    intro k
    unfold runIdx
    simp only [Int.ofNat_eq_natCast, mul_one]
    rw [if_pos (by omega)]
    exact congrArg some (by omega)
  obtain ⟨s1, put, cfg, frames⟩ := State.putRun_full (count := s.cfg.stream.next.count) (stride := 1) (data := zeroFrame) full die
    fun k below => ⟨_, named k, by omega⟩
  have effect : s.recEffect false s.cfg.stream s.cfg.stream.next (s.cfg.stream.body 4) = some (s1, s.cfg.stream.next.count) := by
    unfold State.recEffect
    dsimp only
    rw [if_neg (show ¬ (s.cfg.stream.what = .bay ∨ s.cfg.stream.what = .repair) by rw [full]; decide), if_neg (by rw [offers.kind]; decide),
      if_neg (by rw [offers.kind]; decide), if_neg (by rw [offers.kind]; decide), if_neg (by omega), put]
    rfl
  obtain ⟨past, same⟩ := exec_of_run offers (by decide) (by decide) effect cfg
  refine ⟨_, rfl, past, fun i from_ below => (same _ _).trans ?_⟩
  have is := frames (i - s.cfg.stream.next.start) i (by omega) (by rw [named]; exact congrArg some (by omega))
  exact is.trans frameOfData_zero

theorem exec_recordEnd_full {s : State} (offers : s.cfg.stream.offers 5 (s.cfg.stream.framesUsed + 16)) (one : s.cfg.stream.buf.length = 16)
    (count : s.cfg.stream.next.count = s.cfg.stream.writes % 2 ^ 32) (last : s.cfg.stream.last = true) (full : s.cfg.stream.what = .full) :
    ∃ t, exec (.recordEnd false) s = .next t ∧ t.cfg = s.streamEnded.cfg.atP1 s.now := by
  have run : recordStep s false 5 = s.endStream false :=
    (recordStep_end (p := false) offers).trans (State.takeEnd_counted count last one offers.frames)
  have cfg := State.endStream_full_cfg full
  refine ⟨_, rfl, ?_⟩
  have idle : (s.endStream false).cfg.stream.isOpen = true := by rw [cfg]; exact offers.isOpen
  rw [run, State.runHeld_of_open idle, cfg]

theorem exec_recordEnd_program {s : State} (offers : s.cfg.prog.offers 5 (s.cfg.prog.framesUsed + 16)) (one : s.cfg.prog.buf.length = 16)
    (count : s.cfg.prog.next.count = s.cfg.prog.writes % 2 ^ 32) (last : s.cfg.prog.last = true) :
    ∃ t, exec (.recordEnd true) s = .next t ∧ t.cfg.prog = { s.cfg.prog with ended := true, buf := [] } := by
  have run : recordStep s true 5 = s.modStrm true fun y => { y with ended := true, buf := [] } :=
    (recordStep_end (p := true) offers).trans (State.takeEnd_counted count last one offers.frames)
  refine ⟨_, congrArg (fun u => Host.Outcome.next (State.runHeld u)) run, ?_⟩
  rw [State.prog_runHeld]
  rfl

end Sys2Proof.Machine

open Sys2Proof Sys2Proof.Machine

/-- Settles O38: the next record is judged by its effect, and no held bay command runs while its load is open. -/
theorem imageRecords : Obligations.imageRecords := by
  unfold Obligations.imageRecords
  refine ⟨?_, ?_, ?_, ?_, ?_, ?_, ?_, ?_⟩
  · rintro s p n ⟨isOpen, took, going, frames, whole, kind, fields, within⟩
    exact exec_recordYealmDef (n := n) ⟨isOpen, took, going, frames, whole, kind, fields, within⟩
  · rintro s n d i ⟨isOpen, took, going, frames, whole, kind, fields, within, use, die, frame, ok⟩
    obtain ⟨t, run, dies, past⟩ := exec_recordFrameLit_load (n := n) ⟨isOpen, took, going, frames, whole, kind, fields, within⟩ use die frame ok
    refine ⟨t, run, dies, by rw [past]; rfl, by rw [past]; rfl, fun low j below => ?_⟩
    have written : t.frame d i = frameOfData ((s.cfg.stream.buf.drop 16).take 512) := by
      rw [State.frame_of_dies dies, State.frame_writeFrame _ _ _ low, if_pos rfl]
    exact (congrArg (fun f : CfgFrame => tget 0 f.words j) written).trans (frameOfData_words _ below)
  · rintro s n ⟨isOpen, took, going, frames, whole, kind, fields, within, use, die, frame, ok, busy⟩
    exact exec_recordFrameLit_program (n := n) ⟨isOpen, took, going, frames, whole, kind, fields, within⟩ use die frame ok busy
  · rintro s n d ⟨isOpen, took, going, frames, whole, kind, fields, within, full, rfl, die, yealm, low⟩
    obtain ⟨t, run, past, put⟩ := exec_recordFramePut (n := n) ⟨isOpen, took, going, frames, whole, kind, fields, within⟩ full die yealm fun k below => by
      have any := low k (List.mem_range.mpr below)
      rw [Option.any_eq_true] at any
      exact any.imp fun i h => ⟨h.1, of_decide_eq_true h.2⟩
    refine ⟨t, run, by rw [past]; rfl, by rw [past]; rfl, fun k i below is j small => ?_⟩
    exact (congrArg (fun f : CfgFrame => tget 0 f.words j) (put k i below is)).trans (frameOfData_words _ small)
  · rintro s n d ⟨isOpen, took, going, frames, whole, kind, fields, within, full, rfl, die, low⟩
    obtain ⟨t, run, past, zero⟩ := exec_recordZeroRun (n := n) ⟨isOpen, took, going, frames, whole, kind, fields, within⟩ full die low
    exact ⟨t, run, by rw [past]; rfl, by rw [past]; rfl, zero⟩
  · rintro s ⟨isOpen, took, going, frames, one, kind, fields, count, last, full⟩
    obtain ⟨t, run, cfg⟩ := exec_recordEnd_full ⟨isOpen, took, going, frames, le_of_eq one.symm, kind, fields, le_rfl⟩ one count last full
    refine ⟨t, run, ?_⟩
    rw [cfg]
    exact ⟨rfl, rfl, rfl, rfl⟩
  · rintro s ⟨isOpen, took, going, frames, one, kind, fields, count, last⟩
    obtain ⟨t, run, prog⟩ := exec_recordEnd_program ⟨isOpen, took, going, frames, le_of_eq one.symm, kind, fields, le_rfl⟩ one count last
    refine ⟨t, run, ?_⟩
    rw [prog]
    exact ⟨rfl, isOpen⟩
  · rintro s n ⟨isOpen, took, going, frames, whole, unknown⟩
    have run : recordStep s true 4 = s.progFail cRecord (s.cfg.prog.segIdx - 1) :=
      recordStep_unknown (p := true) isOpen took going (congrArg Option.isSome frames) whole unknown
    obtain ⟨gone, cause⟩ := s.progFail_leaves cRecord (s.cfg.prog.segIdx - 1)
    refine ⟨_, congrArg (fun u => Host.Outcome.next (State.runHeld u)) run, ?_⟩
    rw [State.prog_runHeld, State.causeCmd_runHeld]
    exact ⟨gone, cause⟩
end

section
/-! PROOFS. What the clamp and the release of a bay leave of every bay's registers (13 R343 to R345, R353). -/

open Sys2Proof
namespace Sys2Proof.Machine

/-- The bays of a die. -/
def State.bays (s : State) (d : Nat) : Tab Bay := (s.die d).bays

theorem State.bay_of_bays {s t : State} (h : t.bays = s.bays) (d b : Nat) : t.bay d b = s.bay d b := congrArg (fun f : Nat → Tab Bay => tget Bay.reset (f d) b) h

theorem State.bays_of_frame {s t : State} {ps : List Component} (h : Steps ps s t) (out : Component.dies ∉ ps) : t.bays = s.bays :=
  funext fun d => congrArg Die.bays (State.die_of_frame h out d)

theorem State.bays_modDie (s : State) (d : Nat) {f : Die → Die} (keeps : ∀ x, (f x).bays = x.bays) : (s.modDie d f).bays = s.bays := by
  funext e
  unfold State.bays
  by_cases own : e = d
  · rw [own, State.die_modDie, keeps]
  · rw [State.die_modDie_other _ _ own]

theorem State.bays_modSlice (s : State) (d i : Nat) (f : Slice → Slice) : (s.modSlice d i f).bays = s.bays := s.bays_modDie d fun _ => rfl
theorem State.bays_modGroup (s : State) (d g : Nat) (f : Group → Group) : (s.modGroup d g f).bays = s.bays := s.bays_modDie d fun _ => rfl
theorem State.bays_modBram (s : State) (d m : Nat) (f : Bram → Bram) : (s.modBram d m f).bays = s.bays := s.bays_modDie d fun _ => rfl
theorem State.bays_modLeggett (s : State) (d : Nat) (f : Leggett → Leggett) : (s.modLeggett d f).bays = s.bays := s.bays_modDie d fun _ => rfl

/-! ### Slices -/

theorem State.bays_slBits (s : State) (d g : Nat) (starts halts : List Nat) : (s.slBits d g starts halts).bays = s.bays := by
  unfold State.slBits
  exact (foldl_keeps State.bays _ (fun u i => u.bays_modSlice d i _) starts _).trans (foldl_keeps State.bays _ (fun u i => u.bays_modSlice d i _) halts s)

theorem State.bays_slHeld (s : State) (d g : Nat) (es : List (Nat × Nat × BitVec 2)) : (s.slHeld d g es).bays = s.bays := by
  unfold State.slHeld
  exact foldl_keeps State.bays _ (fun u e => u.bays_slBits ..) es s

theorem State.bays_modLad (s : State) (f : Ladder → Ladder) : (s.modLad f).bays = s.bays := rfl

theorem State.bays_unfreeze (s : State) (d g : Nat) : (s.unfreeze d g).bays = s.bays := by
  unfold State.unfreeze
  split
  · dsimp only
    rw [State.bays_slHeld, State.bays_modLad, State.bays_modGroup]
  · rfl

theorem bays_slWinWrite (s : State) (d i mem a v : Nat) : (slWinWrite s d i mem a v).bays = s.bays := s.bays_modSlice d i _

theorem State.bays_drew (s : State) (n : Nat) : (s.drew n).bays = s.bays := rfl

/-- A note of an uncorrectable word, made or not. -/
theorem State.bays_noted (s : State) (bad : Bool) (d i mem a n k : Nat) (x : Bool) : (if bad = true then s.raiseSliceUe d i mem a n k x else s).bays = s.bays := by
  split
  · exact State.bays_of_frame (State.raiseSliceUe_steps (Steps.refl [.routers, .evr] s) (by decide)) (by decide)
  · rfl

theorem bays_slWinRead (s : State) (d i mem a : Nat) (u : Sys2Proof.Upset) : (slWinRead s d i mem a u).1.bays = s.bays := by
  unfold slWinRead
  dsimp only
  exact (State.bays_noted ..).trans ((State.bays_drew ..).trans (s.bays_modSlice ..))

/-- The answer of a waiting access. -/
theorem State.bays_winAnswer (s : State) (d : Nat) (who : Option (Nat × Nat × Pkt)) (resp : BitVec 3) (data : List (BitVec 8)) (v : BitVec 64) :
    (match who with
      | some (r, p, k) => s.respond d r p k resp data
      | none => s.answer resp v).bays = s.bays := by
  cases who with
  | some e => exact State.bays_of_frame (State.respond_steps (Steps.refl [.free, .routers] s) (by decide)) (by decide)
  | none => rfl

theorem State.bays_serveWin (s : State) (d : Nat) (e : WinAcc) : (s.serveWin d e).bays = s.bays := by
  unfold State.serveWin
  dsimp only
  by_cases write : e.write = true
  · rw [if_pos write]
    refine (State.bays_winAnswer ..).trans ?_
    split
    · rw [bays_slWinWrite, bays_slWinWrite]
    · exact bays_slWinWrite ..
  · rw [if_neg write]
    split
    · exact (State.bays_winAnswer ..).trans ((bays_slWinRead ..).trans (bays_slWinRead ..))
    · exact (State.bays_winAnswer ..).trans (bays_slWinRead ..)

theorem State.bays_serveWins (s : State) (d : Nat) (which : WinAcc → Bool) : (s.serveWins d which).bays = s.bays := by
  unfold State.serveWins
  exact (foldl_keeps State.bays _ (fun u e => u.bays_serveWin d e) _ _).trans (s.bays_modDie d fun _ => rfl)

theorem State.bays_resetGroup (s : State) (d g : Nat) (image : BitVec 64) : (s.resetGroup d g image).bays = s.bays := by
  unfold State.resetGroup State.groupRegs
  dsimp only
  rw [State.bays_slBits, State.bays_serveWins]
  exact foldl_keeps State.bays _ (fun u i => u.bays_modSlice d i _) _ s

/-! ### Clamp, release and wipe (13 R343 to R345; 12 R330) -/

/-- A bay at its clamp edge. -/
def Bay.clamp (x : Bay) (out seen : BitVec 1024) : Bay :=
  { x with clamped := true, clampedBy := x.border, fclkOn := false, portOpen := false, drained := false, ready := false, slotHold := out, slotSeen := seen }

theorem State.bays_clampBay (s : State) (d b : Nat) (drain : Bool) :
    (s.clampBay d b drain).bays = (s.modBay d b fun x => x.clamp (s.slotLevels d b true) (s.slotLevels d b false)).bays := by
  have shape : (s.modBay d b fun x => x.clamp (s.slotLevels d b true) (s.slotLevels d b false)) = s.modBay d b fun x =>
      { x with clamped := true, clampedBy := x.border, fclkOn := false, portOpen := false, drained := false, ready := false,
               slotHold := s.slotLevels d b true, slotSeen := s.slotLevels d b false } := rfl
  unfold State.clampBay
  dsimp only
  rw [← shape, State.bays_slBits, State.bays_unfreeze]
  generalize s.modBay d b _ = u
  refine State.bays_of_frame (ps := [.routers, .masters]) (State.modRouter_steps (State.cutSending_steps (State.dropRsps_steps ?_ (by decide)) (by decide))
    (by decide)) (by decide)
  split
  · exact State.setDrain_steps (Steps.refl _ u) (by decide)
  · exact Steps.refl _ u

theorem State.bay_clampBay (s : State) (d b : Nat) (drain : Bool) :
    (s.clampBay d b drain).bay d b = (s.bay d b).clamp (s.slotLevels d b true) (s.slotLevels d b false) :=
  (State.bay_of_bays (s.bays_clampBay d b drain) d b).trans (State.bay_modBay ..)

/-- A bay that is released. -/
def Bay.release (x : Bay) : Bay :=
  { x with ffs := .held [], clamped := false, fclkOn := true, portOpen := true, state := .active, repair := false, drained := true, ready := false }

theorem State.bays_releaseBay (s : State) (d b : Nat) : (s.releaseBay d b).bays = (s.modBay d b Bay.release).bays := by
  unfold State.releaseBay
  dsimp only
  rw [State.bays_resetGroup]
  exact State.bays_of_frame (ps := [.routers]) (State.reclaim_steps (State.setDrain_steps (Steps.refl _ (s.modBay d b Bay.release)) (by decide)) (by decide)) (by decide)

theorem State.bay_releaseBay (s : State) (d b : Nat) : (s.releaseBay d b).bay d b = (s.bay d b).release :=
  (State.bay_of_bays (s.bays_releaseBay d b) d b).trans (State.bay_modBay ..)

theorem State.bays_wipeMems (s : State) (d b : Nat) : (s.wipeMems d b).bays = s.bays := by
  unfold State.wipeMems
  dsimp only
  rw [foldl_keeps State.bays _ (fun u i => u.bays_modSlice d i Slice.wiped), State.bays_modGroup, foldl_keeps State.bays _ (fun u i => u.bays_modBram d _ _)]

theorem State.bays_wipeFrames (s : State) (d b : Nat) : (s.wipeFrames d b).bays = s.bays := by
  unfold State.wipeFrames
  exact s.bays_modDie d fun _ => rfl

/-- A bay that is wiped. -/
def Bay.wiped (x : Bay) : Bay :=
  { x with state := .empty, ident := 0, repair := false, ueKnown := false, clamped := true, fclkOn := false, portOpen := false, unused := true }

theorem State.emptyBay_eq (s : State) (d b : Nat) : s.emptyBay d b = ((s.wipeFrames d b).wipeMems d b).modBay d b Bay.wiped := rfl

theorem State.bays_modBay (s : State) (d b : Nat) (f : Bay → Bay) :
    (s.modBay d b f).bays = fun e => if e = d then tmod Bay.reset (s.bays e) b f else s.bays e := by
  funext e
  unfold State.bays State.modBay
  by_cases own : e = d
  · subst own
    rw [if_pos rfl]
    exact congrArg Die.bays (State.die_modDie s e _)
  · rw [if_neg own]
    exact congrArg Die.bays (State.die_modDie_other s _ own)

theorem State.bays_modBay_of {s t : State} (h : t.bays = s.bays) (d b : Nat) (f : Bay → Bay) : (t.modBay d b f).bays = (s.modBay d b f).bays := by
  rw [State.bays_modBay, State.bays_modBay, h]

theorem State.bays_emptyBay (s : State) (d b : Nat) : (s.emptyBay d b).bays = (s.modBay d b Bay.wiped).bays := by
  rw [State.emptyBay_eq]
  exact State.bays_modBay_of ((State.bays_wipeMems ..).trans (s.bays_wipeFrames d b)) d b Bay.wiped

theorem State.bay_emptyBay (s : State) (d b : Nat) : (s.emptyBay d b).bay d b = (s.bay d b).wiped :=
  (State.bay_of_bays (s.bays_emptyBay d b) d b).trans (State.bay_modBay ..)

/-! ### One bay at a time -/

/-- No bay but one is touched. -/
structure State.onlyBay (s : State) (d b : Nat) (t : State) : Prop where
  others : ∀ e c, e ≠ d ∨ c ≠ b → t.bay e c = s.bay e c

theorem State.onlyBay.refl (s : State) (d b : Nat) : s.onlyBay d b s := ⟨fun _ _ _ => rfl⟩

theorem State.onlyBay.trans {s t u : State} {d b : Nat} (h : s.onlyBay d b t) (h' : t.onlyBay d b u) : s.onlyBay d b u :=
  ⟨fun e c other => (h'.others e c other).trans (h.others e c other)⟩

theorem State.onlyBay_of_bays {s t : State} (h : t.bays = s.bays) (d b : Nat) : s.onlyBay d b t := ⟨fun e c _ => State.bay_of_bays h e c⟩

theorem State.onlyBay_modBay (s : State) (d b : Nat) (f : Bay → Bay) : s.onlyBay d b (s.modBay d b f) := ⟨fun _ _ other => State.bay_modBay_other s f other⟩

theorem State.onlyBay_of_modBay {s t : State} {d b : Nat} {f : Bay → Bay} (h : t.bays = (s.modBay d b f).bays) : s.onlyBay d b t :=
  (s.onlyBay_modBay d b f).trans (State.onlyBay_of_bays h d b)

theorem State.onlyBay_of_frame {s t : State} {ps : List Component} (h : Steps ps s t) (out : Component.dies ∉ ps) (d b : Nat) : s.onlyBay d b t :=
  State.onlyBay_of_bays (State.bays_of_frame h out) d b

theorem State.onlyBay_clampBay (s : State) (d b : Nat) (drain : Bool) : s.onlyBay d b (s.clampBay d b drain) := State.onlyBay_of_modBay (s.bays_clampBay d b drain)
theorem State.onlyBay_releaseBay (s : State) (d b : Nat) : s.onlyBay d b (s.releaseBay d b) := State.onlyBay_of_modBay (s.bays_releaseBay d b)
theorem State.onlyBay_emptyBay (s : State) (d b : Nat) : s.onlyBay d b (s.emptyBay d b) := State.onlyBay_of_modBay (s.bays_emptyBay d b)

/-- The bay's command completes. -/
theorem State.bays_endRun (s : State) (d b status cause : Nat) : (s.endRun d b status cause).bays = (s.modBay d b fun x => { x with runCmd := none }).bays := by
  unfold State.endRun
  exact State.bays_of_frame (State.completeOpt_steps (Steps.refl [.gable, .evr] _) (by decide)) (by decide)

theorem State.bay_endRun (s : State) (d b status cause : Nat) : (s.endRun d b status cause).bay d b = { s.bay d b with runCmd := none } :=
  (State.bay_of_bays (s.bays_endRun d b status cause) d b).trans (State.bay_modBay ..)

theorem State.onlyBay_endRun (s : State) (d b status cause : Nat) : s.onlyBay d b (s.endRun d b status cause) := State.onlyBay_of_modBay (s.bays_endRun d b status cause)

end Sys2Proof.Machine
end

section
/-! PROOFS. A held command of one bay leaves the others alone (13 R350, R356). -/

open Sys2Proof
namespace Sys2Proof.Machine

theorem State.bays_closeStrm (s : State) (p : Bool) : (s.closeStrm p).bays = s.bays :=
  State.bays_of_frame (State.closeStrm_steps (Steps.refl [.cfg, .acls] s) (by decide)) (by decide)

/-- A bay whose load or repair failed, before the command that runs completes. -/
def State.bayFailed (s : State) (cause : Nat) : State :=
  let st := s.cfg.stream
  let s := (s.closeStrm false).modBay st.die st.bay fun x => { x with cause := BitVec.ofNat 5 cause }
  if st.untouched then s else s.emptyBay st.die st.bay

theorem State.bayFail_eq (s : State) (cause seg : Nat) : ∃ e, s.bayFail cause seg = ((s.logNote e).bayFailed cause).endRun s.cfg.stream.die s.cfg.stream.bay stFault cause :=
  ⟨_, rfl⟩

theorem State.onlyBay_bayFailed (s : State) (cause : Nat) : s.onlyBay s.cfg.stream.die s.cfg.stream.bay (s.bayFailed cause) := by
  have marked := (State.onlyBay_of_bays (s.bays_closeStrm false) s.cfg.stream.die s.cfg.stream.bay).trans
    ((s.closeStrm false).onlyBay_modBay s.cfg.stream.die s.cfg.stream.bay fun x => { x with cause := BitVec.ofNat 5 cause })
  unfold State.bayFailed
  dsimp only
  split
  · exact marked
  · exact marked.trans (State.onlyBay_emptyBay ..)

theorem State.onlyBay_bayFail (s : State) (cause seg : Nat) : s.onlyBay s.cfg.stream.die s.cfg.stream.bay (s.bayFail cause seg) := by
  obtain ⟨e, is⟩ := s.bayFail_eq cause seg
  rw [is]
  have noted : s.onlyBay s.cfg.stream.die s.cfg.stream.bay (s.logNote e) := ⟨fun _ _ _ => rfl⟩
  have failed : (s.logNote e).onlyBay s.cfg.stream.die s.cfg.stream.bay ((s.logNote e).bayFailed cause) := (s.logNote e).onlyBay_bayFailed cause
  exact (noted.trans failed).trans (State.onlyBay_endRun ..)

theorem State.onlyBay_takeHeader {s : State} (bay : s.cfg.stream.what = .bay ∨ s.cfg.stream.what = .repair) (h : List (BitVec 8)) :
    s.onlyBay s.cfg.stream.die s.cfg.stream.bay (s.takeHeader false h) := by
  have what : (s.strm false).what = .bay ∨ (s.strm false).what = .repair := bay
  unfold State.takeHeader
  dsimp only
  split
  · unfold State.strmFail
    rcases bay with is | is <;> simp only [is, Bool.false_eq_true, if_false] <;> exact s.onlyBay_bayFail _ _
  · rw [if_neg (by rcases what with is | is <;> rw [is] <;> decide)]
    exact ⟨fun _ _ _ => rfl⟩

/-- A bay stream that has opened. -/
def State.bayOpened (s : State) (x : Stream) : State :=
  (s.modCfg fun c => { c with pushCount := if x.src = 4 then c.pushCount else 0, stream := { x with isOpen := true, untouched := true, pushAt := s.now } }).admitPush x.src (x.pushMid.getD 0)

theorem State.cfg_admitPush (s : State) (src : Nat) (mid : BitVec 12) : (s.admitPush src mid).cfg = s.cfg ∧ (s.admitPush src mid).bays = s.bays := by
  unfold State.admitPush
  split
  · exact ⟨rfl, rfl⟩
  · exact ⟨rfl, rfl⟩

theorem State.bayOpened_leaves (s : State) (x : Stream) :
    (s.bayOpened x).cfg.stream = { x with isOpen := true, untouched := true, pushAt := s.now } ∧ (s.bayOpened x).bays = s.bays := by
  unfold State.bayOpened
  exact ⟨congrArg Cfg.stream (State.cfg_admitPush _ x.src (x.pushMid.getD 0)).1, (State.cfg_admitPush _ x.src (x.pushMid.getD 0)).2⟩

theorem State.openBay_eq (s : State) (x : Stream) : s.openBay x = if x.src = 4 then
      match (s.bayOpened x).fetch x.atPs 512 with
      | some h => (s.bayOpened x).takeHeader false h
      | none => (s.bayOpened x).bayFail cTag 0
    else s.bayOpened x := rfl

theorem State.onlyBay_openBay (s : State) {x : Stream} {d b : Nat} (bay : x.what = .bay ∨ x.what = .repair) (die_ : x.die = d) (place_ : x.bay = b) :
    s.onlyBay d b (s.openBay x) := by
  subst die_ place_
  obtain ⟨stream, bays⟩ := s.bayOpened_leaves x
  have opened : s.onlyBay x.die x.bay (s.bayOpened x) := State.onlyBay_of_bays bays _ _
  rw [State.openBay_eq]
  generalize s.bayOpened x = u at stream opened ⊢
  have die : u.cfg.stream.die = x.die := by rw [stream]
  have place : u.cfg.stream.bay = x.bay := by rw [stream]
  split
  · split
    · have judged := State.onlyBay_takeHeader (s := u) (by rw [stream]; exact bay) ‹List (BitVec 8)›
      rw [die, place] at judged
      exact opened.trans judged
    · have failed := u.onlyBay_bayFail cTag 0
      rw [die, place] at failed
      exact opened.trans failed
  · exact opened

theorem State.onlyBay_startShut (s : State) (d b : Nat) (wipe noSrc : Bool) (cmds : List Nat) : s.onlyBay d b (s.startShut d b wipe noSrc cmds) := by
  unfold State.startShut
  dsimp only
  split
  · exact (s.onlyBay_clampBay d b true).trans (State.onlyBay_modBay ..)
  · exact s.onlyBay_modBay ..

theorem State.onlyBay_noSource (s : State) (d b : Nat) : s.onlyBay d b (s.noSource d b) := by
  unfold State.noSource
  exact (s.onlyBay_modBay d b _).trans (State.onlyBay_of_frame (State.raiseEvent_steps (Steps.refl [.routers, .evr] _) (by decide)) (by decide) d b)

theorem State.onlyBay_repairBay (s : State) (d b : Nat) : s.onlyBay d b (s.repairBay d b) := by
  unfold State.repairBay
  split
  · exact s.onlyBay_openBay (.inr rfl) rfl rfl
  · split
    · exact s.onlyBay_startShut ..
    · exact ((s.onlyBay_emptyBay d b).trans (State.onlyBay_noSource ..)).trans (State.onlyBay_endRun ..)

/-- A command of a bay begins to run. -/
def State.runBay (s : State) (d b tok cmd : Nat) : State := s.modBay d b fun x => { x with runCmd := some (tok, cmd), held := none, pendingEnable := false }

/-- The stream that BAY_LOAD opens. -/
def State.loadStream (s : State) (d b tok : Nat) (arg : List (BitVec 8)) : Stream :=
  { what := .bay, src := numAt arg 2 1, die := d, bay := b, mbx := some tok, pushMid := some (s.mbx (sidMbx (tok / 65536))).opener,
    atPs := numAt arg 4 8, len := numAt arg 12 8, keepSrc := if numAt arg 2 1 = 4 ∧ numAt arg 3 1 = 1 then some (numAt arg 4 8, numAt arg 12 8) else none }

theorem State.startLoad_eq (s : State) (d b tok : Nat) (arg : List (BitVec 8)) :
    s.startLoad d b tok arg = (s.runBay d b tok 0x0104).openBay ((s.runBay d b tok 0x0104).loadStream d b tok arg) := rfl

theorem State.startEnable_eq (s : State) (d b tok : Nat) :
    s.startEnable d b tok = if ((s.runBay d b tok 0x0107).bay d b).ueKnown then
        (if (s.runBay d b tok 0x0107).ctrlFree ∨ ((s.runBay d b tok 0x0107).bay d b).source = none then (s.runBay d b tok 0x0107).repairBay d b
          else (s.runBay d b tok 0x0107).modCfg fun c => { c with repairQ := c.repairQ ++ [(d, b)] })
      else ((s.runBay d b tok 0x0107).releaseBay d b).endRun d b stOk 0 := rfl

theorem State.onlyBay_startLoad (s : State) (d b tok : Nat) (arg : List (BitVec 8)) : s.onlyBay d b (s.startLoad d b tok arg) := by
  rw [State.startLoad_eq]
  exact (s.onlyBay_modBay d b _).trans (State.onlyBay_openBay _ (.inl rfl) rfl rfl)

theorem State.onlyBay_startEnable (s : State) (d b tok : Nat) : s.onlyBay d b (s.startEnable d b tok) := by
  have runs : s.onlyBay d b (s.runBay d b tok 0x0107) := s.onlyBay_modBay d b _
  rw [State.startEnable_eq]
  generalize s.runBay d b tok 0x0107 = u at runs ⊢
  refine runs.trans ?_
  split
  · split
    · exact u.onlyBay_repairBay d b
    · exact ⟨fun _ _ _ => rfl⟩
  · exact (u.onlyBay_releaseBay d b).trans (State.onlyBay_endRun ..)

theorem State.onlyBay_judgeHeld (s : State) (d b : Nat) : s.onlyBay d b (s.judgeHeld d b) := by
  have same := State.onlyBay.refl s d b
  have refused : ∀ h : HeldBay, s.onlyBay d b ((s.modBay d b fun x => { x with held := none, pendingEnable := false }).complete h.mbx stState []) :=
    fun h => (s.onlyBay_modBay d b _).trans (State.onlyBay_of_frame (State.complete_steps (Steps.refl [.gable, .evr] _) (by decide)) (by decide) d b)
  unfold State.judgeHeld
  cases (s.bay d b).held with
  | none => exact same
  | some h =>
    dsimp only
    split
    · exact same
    · split
      · exact refused h
      · split
        · split
          · exact s.onlyBay_startLoad ..
          · exact same
        · split
          · exact s.onlyBay_startEnable ..
          · exact refused h

theorem State.judgeHeld_of_none {s : State} {d b : Nat} (none_ : (s.bay d b).held = none) : s.judgeHeld d b = s := by
  unfold State.judgeHeld
  rw [none_]

/-- What runs when the controller is free leaves a bay that holds nothing as it is. -/
theorem State.bay_runHeld {s : State} {d b : Nat} (none_ : (s.bay d b).held = none) : s.runHeld.bay d b = s.bay d b := by
  unfold State.runHeld
  split
  · split
    · next e c _ _ =>
      by_cases own : d = e ∧ b = c
      · obtain ⟨rfl, rfl⟩ := own
        rw [State.judgeHeld_of_none none_]
      · exact (s.onlyBay_judgeHeld e c).others d b (by omega)
    · rfl
  · rfl

end Sys2Proof.Machine
end

section
/-! PROOFS. The bay and scrub commands (13 R349 to R355, R361, R364; 02 R60, R72). -/

open Sys2Proof
namespace Sys2Proof.Machine

/-- A request of a running image for a bay of the part. -/
structure State.bayAsked (s : State) (m d b : Nat) : Prop where
  running : s.gable.gstate = .running
  die : (s.req m).num 0 1 = d
  bay : (s.req m).num 1 1 = b
  inPart : d < s.fdies
  inDie : b < 96

section
variable {s : State} {m d b : Nat}

theorem State.bayAsked.argOk (asked : s.bayAsked m d b) (g : Gable) : bayArgOk (s.setGable g) (s.req m) = true := by
  obtain ⟨-, rfl, rfl, inPart, inDie⟩ := asked
  exact Bool.and_eq_true_iff.mpr ⟨decide_eq_true inPart, decide_eq_true inDie⟩

theorem Gable.hearing.notRom {g : Gable} (hears : Gable.hearing s m g) (running : s.gable.gstate = .running) : (s.setGable g).inRom = false := by
  have same : (s.setGable g).gable.gstate = s.gable.gstate := hears.gstate
  unfold State.inRom
  rw [same, running]
  rfl

theorem needCorRom_heard (role : s.hasRole m roleC = true) : needCorRom (s.heard m) m (s.req m) = true := by
  unfold needCorRom
  rw [State.heard_hasRole, role]
  rfl

theorem State.bay_of_changesOnly {t : State} (h : s.changesOnly t [.gable, .evr]) : t.bay d b = s.bay d b := State.bay_of_frame h (by decide) d b

end

/-! ### BAY_LOAD (13 R349, R350) -/

theorem bayLoadBody_loads {s : State} {m : Nat} {r : Request} {d b : Nat} (die : r.num 0 1 = d) (bay : r.num 1 1 = b) (rom : s.inRom = false) (fence : s.fenced d = false)
    (idle : s.bayBusy d b = false) (free : s.ctrlFree = true) (src : s.srcBusy (r.num 2 1) = false)
    (state : (s.bay d b).state = .empty ∨ (s.bay d b).state = .active ∨ (s.bay d b).state = .down) :
    bayLoadBody s m r = (s.startLoad d b (s.token m r) r.arg, bare stAccepted) := by
  subst die bay
  unfold bayLoadBody bayD bayB
  dsimp only
  rw [if_neg (by rw [rom, fence]; decide), if_neg (by rw [idle, free, src]; decide)]
  rcases state with h | h | h <;> rw [h]

theorem State.bay_runBay (s : State) (d b tok cmd : Nat) :
    (s.runBay d b tok cmd).bay d b = { s.bay d b with runCmd := some (tok, cmd), held := none, pendingEnable := false } := State.bay_modBay ..

/-- A load of a pushed image opens the bay's stream and leaves the bay's state. -/
theorem State.startLoad_pushed {s : State} {d b tok : Nat} {arg : List (BitVec 8)} (pushed : numAt arg 2 1 < 4) :
    (s.startLoad d b tok arg).cfg.stream.isOpen = true ∧ (s.startLoad d b tok arg).cfg.stream.what = .bay ∧ (s.startLoad d b tok arg).cfg.stream.die = d ∧
    (s.startLoad d b tok arg).cfg.stream.bay = b ∧ (s.startLoad d b tok arg).cfg.stream.src = numAt arg 2 1 ∧
    ((s.startLoad d b tok arg).bay d b).state = (s.bay d b).state := by
  have run : ((s.runBay d b tok 0x0104).bay d b).state = (s.bay d b).state := by rw [State.bay_runBay]
  rw [State.startLoad_eq, State.openBay_eq, if_neg (show ¬ ((s.runBay d b tok 0x0104).loadStream d b tok arg).src = 4 from Nat.ne_of_lt pushed)]
  generalize s.runBay d b tok 0x0104 = u at run ⊢
  obtain ⟨stream, bays⟩ := u.bayOpened_leaves (u.loadStream d b tok arg)
  rw [stream, State.bay_of_bays bays]
  exact ⟨rfl, rfl, rfl, rfl, rfl, run⟩

theorem exec_bayLoad {s : State} {m d b : Nat} (asked : s.bayAsked m d b) (ask : s.asks m 0x0104 = true) (room : s.hasRoom m = true) (role : s.hasRole m roleC = true)
    (len : (s.req m).len = 20) (low : 2 ≤ (s.req m).num 2 1) (high : (s.req m).num 2 1 ≤ 4) (keep : (s.req m).num 3 1 < 2) (fence : s.fenced d = false)
    (idle : s.bayBusy d b = false) (free : s.ctrlFree = true) (src : s.srcBusy ((s.req m).num 2 1) = false)
    (state : (s.bay d b).state = .empty ∨ (s.bay d b).state = .active ∨ (s.bay d b).state = .down) :
    ∃ t, exec (.bayLoad m) s = .next t ∧ s.answered t m stAccepted [] ∧
      ((s.req m).num 2 1 < 4 → t.cfg.stream.isOpen = true ∧ t.cfg.stream.what = .bay ∧ t.cfg.stream.die = d ∧ t.cfg.stream.bay = b ∧
        t.cfg.stream.src = (s.req m).num 2 1 ∧ (t.bay d b).state = (s.bay d b).state) := by
  have arg : ∀ g, cmdBayLoad.argOk (s.setGable g) (s.req m) = true := by
    intro g
    change ((s.req m).len == 20 && bayArgOk (s.setGable g) (s.req m) && decide (2 ≤ (s.req m).num 2 1) && decide ((s.req m).num 2 1 ≤ 4) &&
      decide ((s.req m).num 3 1 < 2)) = true
    simp [len, asked.argOk g, low, high, keep]
  obtain ⟨g, hears, serves⟩ := Command.serving (c := cmdBayLoad) ask (by decide) rfl (needCorRom_heard role) arg (fun _ => room)
  have body : cmdBayLoad.body (s.setGable g) m (s.req m) = ((s.setGable g).startLoad d b ((s.setGable g).token m (s.req m)) (s.req m).arg, bare stAccepted) :=
    bayLoadBody_loads asked.die asked.bay (hears.notRom asked.running) fence idle free src state
  obtain ⟨t, run, answer, frame⟩ := serves body (by decide)
  refine ⟨t, congrArg Host.Outcome.next run, answer, fun pushed => ?_⟩
  have cfg : t.cfg = ((s.setGable g).startLoad d b ((s.setGable g).token m (s.req m)) (s.req m).arg).cfg := frame .cfg (by decide)
  rw [cfg, State.bay_of_changesOnly frame]
  exact State.startLoad_pushed (s := s.setGable g) pushed

/-! ### BAY_SHUTDOWN, BAY_RESTORE and BAY_ENABLE (13 R353 to R355; 02 R60) -/

/-- A shut-down that begins with the clamp edge. -/
theorem State.bay_startShut {s : State} {d b : Nat} {wipe noSrc : Bool} {cmds : List Nat} (active : (s.bay d b).state = .active) :
    (s.startShut d b wipe noSrc cmds).bay d b =
      { (s.bay d b).clamp (s.slotLevels d b true) (s.slotLevels d b false) with state := .shutting, shutWipe := wipe, noSrc := noSrc, shutCmds := cmds } := by
  unfold State.startShut
  dsimp only
  rw [if_pos active, State.bay_modBay, State.bay_clampBay]

theorem exec_bayShutdown {s : State} {m d b : Nat} (asked : s.bayAsked m d b) (ask : s.asks m 0x0105 = true) (room : s.hasRoom m = true) (role : s.hasRole m roleC = true)
    (len : (s.req m).len = 4) (wipe : (s.req m).num 2 1 < 2) (zero : (s.req m).zero 3 1 = true) (fence : s.fenced d = false) (idle : s.bayBusy d b = false)
    (active : (s.bay d b).state = .active) :
    ∃ t, exec (.bayShutdown m) s = .next t ∧ s.answered t m stAccepted [] ∧ (t.bay d b).state = .shutting ∧ (t.bay d b).clamped = true ∧ (t.bay d b).fclkOn = false ∧
      (t.bay d b).portOpen = false ∧ (t.bay d b).shutWipe = ((s.req m).num 2 1 == 1) := by
  have arg : ∀ g, cmdBayShutdown.argOk (s.setGable g) (s.req m) = true := by
    intro g
    change ((s.req m).len == 4 && bayArgOk (s.setGable g) (s.req m) && decide ((s.req m).num 2 1 < 2) && (s.req m).zero 3 1) = true
    simp [len, asked.argOk g, wipe, zero]
  obtain ⟨g, hears, serves⟩ := Command.serving (c := cmdBayShutdown) ask (by decide) rfl (needCorRom_heard role) arg (fun _ => room)
  have body : cmdBayShutdown.body (s.setGable g) m (s.req m) =
      ((s.setGable g).startShut d b ((s.req m).num 2 1 == 1) false [(s.setGable g).token m (s.req m)], bare stAccepted) := by
    obtain ⟨running, rfl, rfl, -, -⟩ := asked
    unfold cmdBayShutdown bayShutdownBody bayD bayB
    dsimp only
    rw [if_neg (by rw [hears.notRom running, show (s.setGable g).fenced _ = false from fence]; decide),
      if_neg (by rw [show (s.setGable g).bayBusy _ _ = false from idle]; decide), show ((s.setGable g).bay _ _).state = .active from active]
  obtain ⟨t, run, answer, frame⟩ := serves body (by decide)
  refine ⟨t, congrArg Host.Outcome.next run, answer, ?_⟩
  rw [State.bay_of_changesOnly frame, State.bay_startShut (s := s.setGable g) active]
  exact ⟨rfl, rfl, rfl, rfl, rfl⟩

theorem exec_bayRestore {s : State} {m d b : Nat} (asked : s.bayAsked m d b) (ask : s.asks m 0x0106 = true) (room : s.hasRoom m = true)
    (len : (s.req m).len = 4) (zero : (s.req m).zero 2 2 = true) (fence : s.fenced d = false) (idle : s.bayBusy d b = false) (active : (s.bay d b).state = .active) :
    ∃ t, exec (.bayRestore m) s = .next t ∧ s.answered t m stAccepted [] ∧ (t.bay d b).state = .restoring ∧ (t.bay d b).clamped = true ∧ (t.bay d b).fclkOn = false ∧
      (t.bay d b).portOpen = false := by
  have arg : ∀ g, cmdBayRestore.argOk (s.setGable g) (s.req m) = true := by
    intro g
    change ((s.req m).len == 4 && bayArgOk (s.setGable g) (s.req m) && (s.req m).zero 2 2) = true
    simp [len, asked.argOk g, zero]
  obtain ⟨g, hears, serves⟩ := Command.serving (c := cmdBayRestore) ask (by decide) rfl rfl arg (fun _ => room)
  have body : cmdBayRestore.body (s.setGable g) m (s.req m) = (((s.setGable g).clampBay d b true).modBay d b fun x =>
      { x with state := .restoring, runCmd := some ((s.setGable g).token m (s.req m), 0x0106) }, bare stAccepted) := by
    obtain ⟨running, rfl, rfl, -, -⟩ := asked
    unfold cmdBayRestore bayRestoreBody bayD bayB
    dsimp only
    rw [if_neg (by rw [hears.notRom running, show (s.setGable g).fenced _ = false from fence]; decide),
      if_neg (by rw [show (s.setGable g).bayBusy _ _ = false from idle]; decide), show ((s.setGable g).bay _ _).state = .active from active]
  obtain ⟨t, run, answer, frame⟩ := serves body (by decide)
  refine ⟨t, congrArg Host.Outcome.next run, answer, ?_⟩
  rw [State.bay_of_changesOnly frame, State.bay_modBay, State.bay_clampBay]
  exact ⟨rfl, rfl, rfl, rfl⟩

/-- A bay whose frames are good is released at once. -/
theorem State.bay_startEnable {s : State} {d b tok : Nat} (good : (s.bay d b).ueKnown = false) :
    ((s.startEnable d b tok).bay d b).state = .active ∧ ((s.startEnable d b tok).bay d b).clamped = false ∧
    ((s.startEnable d b tok).bay d b).fclkOn = true ∧ ((s.startEnable d b tok).bay d b).portOpen = true := by
  have same : ((s.runBay d b tok 0x0107).bay d b).ueKnown = false := (congrArg Bay.ueKnown (State.bay_runBay ..)).trans good
  rw [State.startEnable_eq, if_neg (by rw [same]; decide), State.bay_endRun, State.bay_releaseBay]
  exact ⟨rfl, rfl, rfl, rfl⟩

theorem exec_bayEnable {s : State} {m d b : Nat} (asked : s.bayAsked m d b) (ask : s.asks m 0x0107 = true) (room : s.hasRoom m = true) (role : s.hasRole m roleC = true)
    (len : (s.req m).len = 4) (zero : (s.req m).zero 2 2 = true) (fence : s.fenced d = false) (idle : s.bayBusy d b = false) (down : (s.bay d b).state = .down)
    (good : (s.bay d b).ueKnown = false) :
    ∃ t, exec (.bayEnable m) s = .next t ∧ s.answered t m stAccepted [] ∧ (t.bay d b).state = .active ∧ (t.bay d b).clamped = false ∧ (t.bay d b).fclkOn = true ∧
      (t.bay d b).portOpen = true := by
  have arg : ∀ g, cmdBayEnable.argOk (s.setGable g) (s.req m) = true := by
    intro g
    change ((s.req m).len == 4 && bayArgOk (s.setGable g) (s.req m) && (s.req m).zero 2 2) = true
    simp [len, asked.argOk g, zero]
  obtain ⟨g, hears, serves⟩ := Command.serving (c := cmdBayEnable) ask (by decide) rfl (needCorRom_heard role) arg (fun _ => room)
  have body : cmdBayEnable.body (s.setGable g) m (s.req m) = ((s.setGable g).startEnable d b ((s.setGable g).token m (s.req m)), bare stAccepted) := by
    obtain ⟨running, rfl, rfl, -, -⟩ := asked
    unfold cmdBayEnable bayEnableBody bayD bayB
    dsimp only
    rw [if_neg (by rw [hears.notRom running, show (s.setGable g).fenced _ = false from fence]; decide),
      if_neg (by rw [show (s.setGable g).bayBusy _ _ = false from idle]; decide), show ((s.setGable g).bay _ _).state = .down from down]
  obtain ⟨t, run, answer, frame⟩ := serves body (by decide)
  refine ⟨t, congrArg Host.Outcome.next run, answer, ?_⟩
  rw [State.bay_of_changesOnly frame]
  exact State.bay_startEnable (s := s.setGable g) good

/-! ### BAY_STATUS and BAY_REPAIR_SRC (13 R361) -/

theorem exec_bayStatus {s : State} {m d b : Nat} (asked : s.bayAsked m d b) (ask : s.asks m 0x0108 = true) (len : (s.req m).len = 4) (zero : (s.req m).zero 2 2 = true) :
    ∃ t, exec (.bayStatus m) s = .next t ∧
      s.answered t m stOk (leBytes 4 (s.bay d b).statusReg ++ leBytes 4 0 ++ leBytes 8 (s.bay d b).ident.toNat ++ leBytes 4 (s.bay d b).cntReg ++ leBytes 4 (s.bay d b).corr.toNat) ∧
      t.dies = s.dies := by
  have arg : ∀ g, cmdBayStatus.argOk (s.setGable g) (s.req m) = true := by
    intro g
    change ((s.req m).len == 4 && bayArgOk (s.setGable g) (s.req m) && (s.req m).zero 2 2) = true
    simp [len, asked.argOk g, zero]
  obtain ⟨g, hears, serves⟩ := Command.serving (c := cmdBayStatus) ask (by decide) rfl rfl arg (fun h => nomatch h)
  have body : cmdBayStatus.body (s.setGable g) m (s.req m) = (s.setGable g, okReply (leBytes 4 (s.bay d b).statusReg ++ leBytes 4 0 ++
      leBytes 8 (s.bay d b).ident.toNat ++ leBytes 4 (s.bay d b).cntReg ++ leBytes 4 (s.bay d b).corr.toNat)) := by
    obtain ⟨running, rfl, rfl, -, -⟩ := asked
    exact if_neg (by rw [hears.notRom running]; decide)
  obtain ⟨t, run, answer, frame⟩ := serves body (by decide)
  exact ⟨t, congrArg Host.Outcome.next run, answer, frame .dies (by decide)⟩

theorem exec_bayRepairSrc {s : State} {m d b : Nat} (asked : s.bayAsked m d b) (ask : s.asks m 0x0109 = true) (role : s.hasRole m roleC = true)
    (len : (s.req m).len = 20) (zero : (s.req m).zero 2 2 = true) :
    ∃ t, exec (.bayRepairSrc m) s = .next t ∧ s.answered t m stOk [] ∧
      t.bay d b = { s.bay d b with source := if (s.req m).num 12 8 = 0 then none else some ((s.req m).num 4 8, (s.req m).num 12 8, s.sid m) } := by
  have arg : ∀ g, cmdBayRepairSrc.argOk (s.setGable g) (s.req m) = true := by
    intro g
    change ((s.req m).len == 20 && bayArgOk (s.setGable g) (s.req m) && (s.req m).zero 2 2) = true
    simp [len, asked.argOk g, zero]
  obtain ⟨g, hears, serves⟩ := Command.serving (c := cmdBayRepairSrc) ask (by decide) rfl (needCorRom_heard role) arg (fun h => nomatch h)
  have body : cmdBayRepairSrc.body (s.setGable g) m (s.req m) = ((s.setGable g).modBay d b fun x =>
      { x with source := if (s.req m).num 12 8 = 0 then none else some ((s.req m).num 4 8, (s.req m).num 12 8, s.sid m) }, okReply []) := by
    obtain ⟨running, rfl, rfl, -, -⟩ := asked
    rw [← hears.sid]
    exact if_neg (by rw [hears.notRom running]; decide)
  obtain ⟨t, run, answer, frame⟩ := serves body (by decide)
  refine ⟨t, congrArg Host.Outcome.next run, answer, ?_⟩
  rw [State.bay_of_changesOnly frame, State.bay_modBay]
  rfl

/-! ### SCRUB_CTRL (13 R364) -/

/-- LG_CFG of the request. -/
def scrubWord (r : Request) : BitVec 32 :=
  BitVec.ofNat 32 (r.num 4 2 + atBit (bitOf (r.num 1 1) 0) 14 + atBit (bitOf (r.num 1 1) 1) 15 + atLo (r.num 6 2) 16)

/-- LG_CFG of one die is written. -/
def State.scrubSet (s : State) (r : Request) (d : Nat) : State :=
  s.modLeggett d fun l => l.setCtrl (r.num 1 1) (r.num 4 2) (r.num 6 2) s.now (s.lclkRuns d)

theorem Leggett.cfg_setCtrl (l : Leggett) (r : Request) (now : Nat) (go : Bool) : (l.setCtrl (r.num 1 1) (r.num 4 2) (r.num 6 2) now go).cfg = scrubWord r := by
  unfold Leggett.setCtrl
  cases go with
  | true => rfl
  | false => rfl

theorem State.cfg_scrubSet (s : State) (r : Request) (d e : Nat) :
    ((s.scrubSet r d).die e).leggett.cfg = if e = d then scrubWord r else (s.die e).leggett.cfg := by
  unfold State.scrubSet State.modLeggett
  by_cases own : e = d
  · subst own
    rw [if_pos rfl, State.die_modDie]
    exact Leggett.cfg_setCtrl ..
  · rw [if_neg own, State.die_modDie_other _ _ own]

/-- The dies of a list have the request's LG_CFG. -/
theorem State.cfg_scrubSets (s : State) (r : Request) {e : Nat} : ∀ ds : List Nat,
    ((ds.foldl (fun (s : State) d => s.scrubSet r d) s).die e).leggett.cfg = if e ∈ ds then scrubWord r else (s.die e).leggett.cfg := by
  intro ds
  induction ds generalizing s with
  | nil => rfl
  | cons d ds ih =>
    rw [List.foldl_cons, ih, State.cfg_scrubSet]
    by_cases later : e ∈ ds
    · rw [if_pos later, if_pos (List.mem_cons_of_mem d later)]
    · rw [if_neg later]
      by_cases now : e = d
      · rw [if_pos now, if_pos (by rw [now]; exact List.mem_cons_self)]
      · rw [if_neg now, if_neg (by simp [now, later])]

theorem exec_scrubCtrl {s : State} {m d : Nat} (ask : s.asks m 0x010A = true) (running : s.gable.gstate = .running) (role : s.hasRole m roleC = true)
    (len : (s.req m).len = 8) (die : (s.req m).num 0 1 = d ∨ (s.req m).num 0 1 = 0xFF) (inPart : d < s.fdies) (en : (s.req m).num 1 1 < 4)
    (zero : (s.req m).zero 2 2 = true) (lo : 40 ≤ (s.req m).num 4 2) (hi : (s.req m).num 4 2 ≤ 10000) (lo' : 200 ≤ (s.req m).num 6 2) (hi' : (s.req m).num 6 2 ≤ 60000) :
    ∃ t, exec (.scrubCtrl m) s = .next t ∧ s.answered t m stOk [] ∧ (t.die d).leggett.cfg = scrubWord (s.req m) := by
  have arg : ∀ g, cmdScrubCtrl.argOk (s.setGable g) (s.req m) = true := by
    intro g
    change ((s.req m).len == 8 && (decide ((s.req m).num 0 1 < s.fdies) || (s.req m).num 0 1 == 0xFF) && decide ((s.req m).num 1 1 < 4) && (s.req m).zero 2 2 &&
      decide (40 ≤ (s.req m).num 4 2) && decide ((s.req m).num 4 2 ≤ 10000) && decide (200 ≤ (s.req m).num 6 2) && decide ((s.req m).num 6 2 ≤ 60000)) = true
    have named : (decide ((s.req m).num 0 1 < s.fdies) || (s.req m).num 0 1 == 0xFF) = true := by
      rcases die with is | is <;> rw [is]
      · rw [decide_eq_true inPart]; rfl
      · exact Bool.or_true _
    simp [len, named, en, zero, lo, hi, lo', hi']
  obtain ⟨g, hears, serves⟩ := Command.serving (c := cmdScrubCtrl) ask (by decide) rfl (needCorRom_heard role) arg (fun h => nomatch h)
  have body : cmdScrubCtrl.body (s.setGable g) m (s.req m) = ((if (s.req m).num 0 1 = 0xFF then (s.setGable g).dieList else [(s.req m).num 0 1]).foldl
      (fun (u : State) e => u.scrubSet (s.req m) e) (s.setGable g), okReply []) := if_neg (by rw [hears.notRom running]; decide)
  obtain ⟨t, run, answer, frame⟩ := serves body (by decide)
  refine ⟨t, congrArg Host.Outcome.next run, answer, ?_⟩
  have dies : t.dies = _ := frame .dies (by decide)
  have die_ : t.die d = _ := congrArg (fun x => tget Die.reset x d) dies
  rw [die_]
  refine (State.cfg_scrubSets (s.setGable g) (s.req m) _).trans (if_pos ?_)
  by_cases all : (s.req m).num 0 1 = 0xFF
  · rw [if_pos all]
    exact List.mem_range.mpr inPart
  · rw [if_neg all]
    exact List.mem_singleton.mpr (die.resolve_right all).symm

/-! ### PROBE_SELECT (02 R72) -/

/-- The selection of the request. -/
def probeChoice (r : Request) : ProbeSel := { tap := BitVec.ofNat 12 (r.num 2 2), en := r.num 4 1 == 1, dest := r.num 5 1 == 1 }

theorem probeChoice_word {r : Request} (tap : r.num 2 2 < 4096) (en : r.num 4 1 < 2) (dest : r.num 5 1 < 2) :
    ({ tap := BitVec.ofNat 12 (r.num 2 2 + atLo (r.num 4 1) 12 + atLo (r.num 5 1) 13), en := bitOf (r.num 2 2 + atLo (r.num 4 1) 12 + atLo (r.num 5 1) 13) 12,
       dest := bitOf (r.num 2 2 + atLo (r.num 4 1) 12 + atLo (r.num 5 1) 13) 13 } : ProbeSel) = probeChoice r := by
  unfold probeChoice atLo bitOf
  generalize r.num 2 2 = a at tap ⊢
  generalize r.num 4 1 = b at en ⊢
  generalize r.num 5 1 = c at dest ⊢
  have low : BitVec.ofNat 12 (a + b * 2 ^ 12 + c * 2 ^ 13) = BitVec.ofNat 12 a := by
    refine BitVec.eq_of_toNat_eq ?_
    rw [BitVec.toNat_ofNat, BitVec.toNat_ofNat]
    omega
  have second : (a + b * 2 ^ 12 + c * 2 ^ 13) / 2 ^ 12 % 2 = b := by omega
  have third : (a + b * 2 ^ 12 + c * 2 ^ 13) / 2 ^ 13 % 2 = c := by omega
  rw [low, second, third]

theorem exec_probeSelect {s : State} {m d c : Nat} (ask : s.asks m 0x0110 = true) (running : s.gable.gstate = .running) (role : s.hasRole m roleC = true)
    (len : (s.req m).len = 8) (die : (s.req m).num 0 1 = d) (chan : (s.req m).num 1 1 = c) (inPart : d < s.fdies) (inProbe : c < 64)
    (tap : (s.req m).num 2 2 < 4096) (en : (s.req m).num 4 1 < 2) (dest : (s.req m).num 5 1 < 2) (zero : (s.req m).zero 6 2 = true) (rests : (s.die d).probe.armed = false) :
    ∃ t, exec (.probeSelect m) s = .next t ∧ s.answered t m stOk [] ∧ t.probeSel d c = probeChoice (s.req m) := by
  have arg : ∀ g, cmdProbeSelect.argOk (s.setGable g) (s.req m) = true := by
    intro g
    change ((s.req m).len == 8 && decide ((s.req m).num 0 1 < s.fdies) && decide ((s.req m).num 1 1 < 64) && decide ((s.req m).num 2 2 < 4096) &&
      decide ((s.req m).num 4 1 < 2) && decide ((s.req m).num 5 1 < 2) && (s.req m).zero 6 2) = true
    simp [len, die, chan, inPart, inProbe, tap, en, dest, zero]
  obtain ⟨g, hears, serves⟩ := Command.serving (c := cmdProbeSelect) ask (by decide) rfl (needCorRom_heard role) arg (fun h => nomatch h)
  have written : probeSelWrite (s.setGable g) d c ((s.req m).num 2 2 + atLo ((s.req m).num 4 1) 12 + atLo ((s.req m).num 5 1) 13) =
      some ((s.setGable g).modProbe d fun p => { p with sel := tput ProbeSel.reset p.sel c (probeChoice (s.req m)) }) := by
    rw [← probeChoice_word tap en dest]
    exact if_neg fun h => Bool.noConfusion (rests.symm.trans h.1)
  have body : cmdProbeSelect.body (s.setGable g) m (s.req m) =
      ((s.setGable g).modProbe d fun p => { p with sel := tput ProbeSel.reset p.sel c (probeChoice (s.req m)) }, okReply []) := by
    unfold cmdProbeSelect
    dsimp only
    rw [if_neg (by rw [hears.notRom running]; decide), die, chan, written]
  obtain ⟨t, run, answer, frame⟩ := serves body (by decide)
  refine ⟨t, congrArg Host.Outcome.next run, answer, ?_⟩
  have dies : t.dies = _ := frame .dies (by decide)
  have die_ : t.die d = _ := congrArg (fun x => tget Die.reset x d) dies
  unfold State.probeSel
  rw [die_]
  refine (congrArg (fun p : Probe => tget ProbeSel.reset p.sel c) (State.probe_modProbe (s.setGable g) d _)).trans ?_
  exact tget_tput_same ..

end Sys2Proof.Machine

open Sys2Proof Sys2Proof.Machine

/-- Settles O10: each command passes its checks, and what its body does to the bay follows from the clamp, the release and the opening of a stream. -/
theorem bayCommands : Obligations.bayCommands := by
  unfold Obligations.bayCommands
  refine ⟨?_, ?_, ?_, ?_, ?_, ?_, ?_, ?_⟩
  · rintro s m d b ⟨ask, room, running, role, len, die, bay, inPart, inDie, low, high, keep, fence, idle, free, src, state⟩
    exact exec_bayLoad ⟨running, die, bay, inPart, inDie⟩ ask room role len low high keep fence idle free src state
  · rintro s m d b ⟨ask, room, running, role, len, die, bay, inPart, inDie, wipe, zero, fence, idle, active⟩
    exact exec_bayShutdown ⟨running, die, bay, inPart, inDie⟩ ask room role len wipe zero fence idle active
  · rintro s m d b ⟨ask, room, running, len, die, bay, inPart, inDie, zero, fence, idle, active⟩
    exact exec_bayRestore ⟨running, die, bay, inPart, inDie⟩ ask room len zero fence idle active
  · rintro s m d b ⟨ask, room, running, role, len, die, bay, inPart, inDie, zero, fence, idle, down, good⟩
    exact exec_bayEnable ⟨running, die, bay, inPart, inDie⟩ ask room role len zero fence idle down good
  · rintro s m d b ⟨ask, running, len, die, bay, inPart, inDie, zero⟩
    exact exec_bayStatus ⟨running, die, bay, inPart, inDie⟩ ask len zero
  · rintro s m d b ⟨ask, running, role, len, die, bay, inPart, inDie, zero⟩
    exact exec_bayRepairSrc ⟨running, die, bay, inPart, inDie⟩ ask role len zero
  · rintro s m d ⟨ask, running, role, len, die, inPart, en, zero, lo, hi, lo', hi'⟩
    exact exec_scrubCtrl ask running role len die inPart en zero lo hi lo' hi'
  · rintro s m d c ⟨ask, running, role, len, die, chan, inPart, inProbe, tap, en, dest, zero, rests⟩
    exact exec_probeSelect ask running role len die chan inPart inProbe tap en dest zero rests
end

section
/-! PROOFS. What Leggett finds in frames and memories (13 R357 to R363). -/

open Sys2Proof
namespace Sys2Proof.Machine

/-! ### Events of Leggett (13 R365) -/

/-- A die whose Leggett has some records waiting. -/
def Die.withWaiting (x : Die) (w : List Event) : Die := { x with leggett := { x.leggett with waiting := w } }

theorem State.die_modWaiting (s : State) (d : Nat) (e : Event) :
    (s.modLeggett d fun l => { l with waiting := l.waiting ++ [e] }).die d = (s.die d).withWaiting ((s.die d).leggett.waiting ++ [e]) := State.die_modDie ..

theorem State.die_lgEvent (s : State) (d evid data : Nat) (note : LogEntry) : ∃ w, (s.lgEvent d evid data note).die d = (s.die d).withWaiting w := by
  unfold State.lgEvent
  dsimp only
  split
  · exact ⟨_, s.die_modWaiting d _⟩
  · exact ⟨(s.die d).leggett.waiting, State.die_of_frame (State.inject_steps (Steps.refl [.routers] s) (by decide)) (by decide) d⟩

theorem State.die_lgNote (s : State) (d : Nat) (note : LogEntry) : ∃ w, (s.lgNote d note).die d = (s.die d).withWaiting w := by
  unfold State.lgNote
  split
  · exact ⟨_, s.die_modWaiting d _⟩
  · exact ⟨(s.die d).leggett.waiting, rfl⟩

/-! ### The configuration scrub (13 R357 to R362) -/

/-- A frame with what has upset it. -/
def State.frameStruck (s : State) (d i : Nat) (u : FrameUpset) : State :=
  if u.singles = [] ∧ ¬ u.bad then s else
    s.modDie d fun x => { x with frames := tmod CfgFrame.reset x.frames i fun (f : CfgFrame) =>
      { f with singles := (u.singles.filter fun w => decide (w < 64) && !f.singles.contains w) ++ f.singles, bad := f.bad || u.bad } }

/-- What a frame's words give. -/
def State.frameJudged (s : State) (d i : Nat) : State :=
  let f := tget CfgFrame.reset (s.die d).frames i
  if f.bad then (match bayOfFrame i with
    | some b => s.frameUe d i b
    | none => s.staticUe d i)
  else match f.singles with
    | [] => s
    | w :: ws => s.frameCorr d i (ws.foldl min w)

/-- Leggett has moved on to the next frame. -/
def State.lgAdvanced (s : State) (d : Nat) : State := s.modLeggett d fun l => l.advance s.now

theorem State.die_lgAdvanced (s : State) (d : Nat) : (s.lgAdvanced d).die d = { s.die d with leggett := (s.die d).leggett.advance s.now } := State.die_modDie ..

/-- The read of a frame of a running Leggett whose time has come. -/
structure State.lgReads (s : State) (d i : Nat) : Prop where
  inPart : d < s.fdies
  runs : (s.die d).leggett.cfgRun = true
  clock : s.lclkRuns d = true
  frame : (s.die d).leggett.current = i
  due : (s.die d).leggett.slotAt ≤ s.now
  kept : s.skipsFrame d i = false

theorem State.skipsFrame_of_bays {s t : State} (h : t.bays = s.bays) (d i : Nat) : t.skipsFrame d i = s.skipsFrame d i := by
  unfold State.skipsFrame
  cases bayOfFrame i with
  | none => rfl
  | some b => dsimp only; rw [State.bay_of_bays h]

theorem exec_leggettFrameRead {s : State} {d i : Nat} {u : FrameUpset} (reads : s.lgReads d i) :
    exec (.leggettFrameRead d u) s = .next (((s.lgAdvanced d).frameStruck d i u).frameJudged d i) := by
  obtain ⟨inPart, runs, clock, rfl, due, kept⟩ := reads
  have skip : (s.lgAdvanced d).skipsFrame d (s.die d).leggett.current = false := (State.skipsFrame_of_bays (s.bays_modLeggett d _) d _).trans kept
  refine congrArg Host.Outcome.next ?_
  unfold Sys2Proof.Machine.leggettFrameRead
  dsimp only
  rw [if_neg (by rw [runs, clock]; simp [Nat.not_le.mpr inPart, Nat.not_lt.mpr due])]
  exact if_neg (by rw [show State.skipsFrame (s.modLeggett d _) d _ = false from skip]; decide)

/-- In the pass: the frame of its slot. -/
theorem State.lgReads_pass {s : State} {d : Nat} (inPart : d < s.fdies) (runs : (s.die d).leggett.cfgRun = true) (clock : s.lclkRuns d = true)
    (pass : (s.die d).leggett.first = []) (due : (s.die d).leggett.passAt + (s.die d).leggett.frame * (s.die d).leggett.cfgPs / 262144 ≤ s.now)
    (kept : s.skipsFrame d (s.die d).leggett.frame = false) : s.lgReads d (s.die d).leggett.frame := by
  refine ⟨inPart, runs, clock, ?_, ?_, kept⟩
  · unfold Leggett.current
    rw [pass]
  · unfold Leggett.slotAt
    rw [if_pos pass]
    exact due

theorem Leggett.advance_pass {l : Leggett} {now : Nat} (pass : l.first = []) (more : l.frame + 1 < 262144) : l.advance now = { l with frame := l.frame + 1 } := by
  unfold Leggett.advance Leggett.nextFrame
  rw [pass]
  exact if_pos more

/-- A frame that nothing has upset is left alone. -/
theorem State.frame_clean {s : State} {d i : Nat} (clean : tget CfgFrame.reset (s.die d).frames i = CfgFrame.reset) :
    (((s.lgAdvanced d).frameStruck d i { singles := [], bad := false }).frameJudged d i) = s.lgAdvanced d := by
  have struck : (s.lgAdvanced d).frameStruck d i { singles := [], bad := false } = s.lgAdvanced d := if_pos ⟨rfl, by decide⟩
  have same : tget CfgFrame.reset ((s.lgAdvanced d).die d).frames i = CfgFrame.reset := by rw [State.die_lgAdvanced]; exact clean
  rw [struck]
  unfold State.frameJudged
  dsimp only
  rw [same]
  rfl

/-- A frame with what has upset it. -/
def CfgFrame.struck (f : CfgFrame) (u : FrameUpset) : CfgFrame :=
  { f with singles := (u.singles.filter fun w => decide (w < 64) && !f.singles.contains w) ++ f.singles, bad := f.bad || u.bad }

/-- An upset frame, as the read finds it. -/
theorem State.die_frameStruck {s : State} {d i : Nat} {u : FrameUpset} (upset : ¬ (u.singles = [] ∧ ¬ u.bad = true)) :
    ((s.frameStruck d i u).die d).frames = tmod CfgFrame.reset (s.die d).frames i (fun f => f.struck u) ∧
    ((s.frameStruck d i u).die d).leggett = (s.die d).leggett ∧ ((s.frameStruck d i u).die d).bays = (s.die d).bays := by
  unfold State.frameStruck
  rw [if_neg upset, State.die_modDie]
  exact ⟨rfl, rfl, rfl⟩

/-- A corrected frame counts for its bay. -/
def State.bayCorrected (s : State) (d i : Nat) : State := match bayOfFrame i with
  | some b => s.modBay d b fun x => { x with corr := satInc x.corr }
  | none => s

theorem State.die_modBay (s : State) (d b : Nat) (f : Bay → Bay) : (s.modBay d b f).die d = { s.die d with bays := tmod Bay.reset (s.die d).bays b f } := State.die_modDie ..

theorem State.die_bayCorrected (s : State) (d i : Nat) :
    ((s.bayCorrected d i).die d).frames = (s.die d).frames ∧ ((s.bayCorrected d i).die d).leggett = (s.die d).leggett := by
  unfold State.bayCorrected
  cases bayOfFrame i with
  | none => exact ⟨rfl, rfl⟩
  | some b =>
    dsimp only
    rw [State.die_modBay]
    exact ⟨rfl, rfl⟩

/-- A frame whose errors are corrected and counted. -/
def State.frameFixed (s : State) (d i : Nat) : State :=
  ((s.modDie d fun x => { x with frames := tmod CfgFrame.reset x.frames i fun (f : CfgFrame) => { f with singles := [] } }).modLeggett d fun l =>
    { l with cfgCorr := satInc l.cfgCorr }).bayCorrected d i

theorem State.frameCorr_eq (s : State) (d i word : Nat) :
    s.frameCorr d i word = if (s.die d).leggett.corrAt.all fun t => decide (t + psMs ≤ (s.frameFixed d i).now) then
        ((s.frameFixed d i).modLeggett d fun l => { l with corrAt := some (s.frameFixed d i).now }).lgEvent d (evidOf d 0x07 0) i (mkEntry 0x07 1 (evidOf d 0x07 0) (d + atLo i 4) word)
      else (s.frameFixed d i).lgNote d (mkEntry 0x07 1 noEvid (d + atLo i 4) word) := rfl

theorem State.die_frameFixed (s : State) (d i : Nat) :
    ((s.frameFixed d i).die d).frames = tmod CfgFrame.reset (s.die d).frames i (fun (f : CfgFrame) => { f with singles := [] }) ∧
    ((s.frameFixed d i).die d).leggett = { (s.die d).leggett with cfgCorr := satInc (s.die d).leggett.cfgCorr } := by
  unfold State.frameFixed
  obtain ⟨frames, leggett⟩ := State.die_bayCorrected ((s.modDie d fun x => { x with frames := tmod CfgFrame.reset x.frames i fun (f : CfgFrame) =>
    { f with singles := [] } }).modLeggett d fun l => { l with cfgCorr := satInc l.cfgCorr }) d i
  rw [frames, leggett]
  unfold State.modLeggett
  rw [State.die_modDie, State.die_modDie]
  exact ⟨rfl, rfl⟩

/-- A correctable frame: its errors gone, counted. -/
theorem State.frameCorr_leaves (s : State) (d i word : Nat) :
    ((s.frameCorr d i word).die d).frames = tmod CfgFrame.reset (s.die d).frames i (fun (f : CfgFrame) => { f with singles := [] }) ∧
    ∃ a w, ((s.frameCorr d i word).die d).leggett = { (s.die d).leggett with cfgCorr := satInc (s.die d).leggett.cfgCorr, corrAt := a, waiting := w } := by
  obtain ⟨frames, leggett⟩ := s.die_frameFixed d i
  rw [State.frameCorr_eq]
  generalize s.frameFixed d i = x at frames leggett ⊢
  split
  · have noted : (x.modLeggett d fun l => { l with corrAt := some x.now }).die d = { x.die d with leggett := { (x.die d).leggett with corrAt := some x.now } } :=
      State.die_modDie ..
    obtain ⟨w, die⟩ := (x.modLeggett d fun l => { l with corrAt := some x.now }).die_lgEvent d (evidOf d 0x07 0) i (mkEntry 0x07 1 (evidOf d 0x07 0) (d + atLo i 4) word)
    rw [die, noted]
    exact ⟨frames, some x.now, w, by unfold Die.withWaiting; rw [leggett]⟩
  · obtain ⟨w, die⟩ := x.die_lgNote d (mkEntry 0x07 1 noEvid (d + atLo i 4) word)
    rw [die]
    exact ⟨frames, (s.die d).leggett.corrAt, w, by unfold Die.withWaiting; rw [leggett]⟩

/-- One correctable error of a clean frame: corrected, counted, and the frame as it was. -/
theorem State.frame_single {s : State} {d i w : Nat} (clean : tget CfgFrame.reset (s.die d).frames i = CfgFrame.reset) (word : w < 64) :
    (∀ k, tget CfgFrame.reset ((((s.frameStruck d i { singles := [w], bad := false }).frameJudged d i).die d).frames) k = tget CfgFrame.reset (s.die d).frames k) ∧
    ∃ a q, (((s.frameStruck d i { singles := [w], bad := false }).frameJudged d i).die d).leggett =
      { (s.die d).leggett with cfgCorr := satInc (s.die d).leggett.cfgCorr, corrAt := a, waiting := q } := by
  obtain ⟨struck, same, -⟩ := State.die_frameStruck (s := s) (d := d) (i := i) (u := { singles := [w], bad := false }) (by simp)
  have found : tget CfgFrame.reset ((s.frameStruck d i { singles := [w], bad := false }).die d).frames i = { CfgFrame.reset with singles := [w] } := by
    rw [struck, tget_tmod_same, clean]
    unfold CfgFrame.struck
    simp [CfgFrame.reset, word]
  have judged : (s.frameStruck d i { singles := [w], bad := false }).frameJudged d i = (s.frameStruck d i { singles := [w], bad := false }).frameCorr d i w := by
    unfold State.frameJudged
    dsimp only
    rw [found]
    rfl
  obtain ⟨frames, a, q, leggett⟩ := (s.frameStruck d i { singles := [w], bad := false }).frameCorr_leaves d i w
  rw [judged]
  refine ⟨fun k => ?_, a, q, ?_⟩
  · rw [frames]
    by_cases own : k = i
    · subst own
      rw [tget_tmod_same, found, clean]
      rfl
    · rw [tget_tmod_other _ _ _ own, struck, tget_tmod_other _ _ _ own]
  · rw [leggett, same]

/-- An uncorrectable frame of a bay: counted, and known of the bay. -/
theorem State.frameUe_leaves (s : State) (d i b : Nat) :
    (∃ w, ((s.frameUe d i b).die d).leggett = { (s.die d).leggett with cfgUe := satInc (s.die d).leggett.cfgUe, waiting := w }) ∧
    (s.frameUe d i b).bay d b = { s.bay d b with ueKnown := true } := by
  unfold State.frameUe
  dsimp only
  have counted : (s.modLeggett d fun l => { l with cfgUe := satInc l.cfgUe }).die d =
      { s.die d with leggett := { (s.die d).leggett with cfgUe := satInc (s.die d).leggett.cfgUe } } := State.die_modDie ..
  generalize (s.modLeggett d fun l => { l with cfgUe := satInc l.cfgUe }) = u at counted ⊢
  obtain ⟨w, told⟩ := u.die_lgEvent d (evidOf d 0x08 0) i (mkEntry 0x08 2 (evidOf d 0x08 0) (d + atLo i 4) b)
  rw [counted] at told
  generalize u.lgEvent d (evidOf d 0x08 0) i (mkEntry 0x08 2 (evidOf d 0x08 0) (d + atLo i 4) b) = v at told ⊢
  have known := v.die_modBay d b fun x => { x with ueKnown := true }
  have bay : (v.modBay d b fun x => { x with ueKnown := true }).bay d b = { s.bay d b with ueKnown := true } := by
    rw [State.bay_modBay]
    unfold State.bay
    rw [told]
    rfl
  have leggett : ((v.modBay d b fun x => { x with ueKnown := true }).die d).leggett = { (s.die d).leggett with cfgUe := satInc (s.die d).leggett.cfgUe, waiting := w } := by
    rw [known, told]
    rfl
  generalize (v.modBay d b fun x => { x with ueKnown := true }) = x at bay leggett ⊢
  split
  · exact ⟨⟨w, leggett⟩, bay⟩
  · exact ⟨⟨w, leggett⟩, bay⟩

/-- An uncorrectable error of a frame of a bay. -/
theorem State.frame_double {s : State} {d i b : Nat} (bay : bayOfFrame i = some b) :
    (∃ w, (((s.frameStruck d i { singles := [], bad := true }).frameJudged d i).die d).leggett =
      { (s.die d).leggett with cfgUe := satInc (s.die d).leggett.cfgUe, waiting := w }) ∧
    ((s.frameStruck d i { singles := [], bad := true }).frameJudged d i).bay d b = { s.bay d b with ueKnown := true } := by
  obtain ⟨struck, same, bays⟩ := State.die_frameStruck (s := s) (d := d) (i := i) (u := { singles := [], bad := true }) (by simp)
  have found : (tget CfgFrame.reset ((s.frameStruck d i { singles := [], bad := true }).die d).frames i).bad = true := by
    rw [struck, tget_tmod_same]
    exact Bool.or_true _
  have judged : (s.frameStruck d i { singles := [], bad := true }).frameJudged d i = (s.frameStruck d i { singles := [], bad := true }).frameUe d i b := by
    unfold State.frameJudged
    dsimp only
    rw [if_pos found, bay]
  obtain ⟨⟨w, leggett⟩, known⟩ := (s.frameStruck d i { singles := [], bad := true }).frameUe_leaves d i b
  rw [judged]
  refine ⟨⟨w, ?_⟩, ?_⟩
  · rw [leggett, same]
  · rw [known]
    unfold State.bay
    rw [bays]

end Sys2Proof.Machine
end

section
/-! PROOFS. Visits of the memory scrub, and the end of a port's drain; `scrubsAndDrains` (13 R353, R361 to R363; 07 R203). -/

open Sys2Proof
namespace Sys2Proof.Machine

/-! ### The memory scrub (13 R363) -/

/-- A visit of a running memory scrub whose time has come, in a pass that goes on. -/
structure State.lgVisits (s : State) (d : Nat) (k : MemKind) (i : Nat) : Prop where
  inPart : d < s.fdies
  inKind : i < memKindCount k
  runs : (s.die d).leggett.memRun = true
  clock : s.lclkRuns d = true
  pass : s.now < (s.die d).leggett.memAt + (s.die d).leggett.memPs
  due : (s.die d).leggett.memAt + tget 0 (s.die d).leggett.memTry (8192 * memKindNum k + i) * (s.die d).leggett.memPs / 4096 ≤ s.now
  open_ : s.scrubbable d k i = true

/-- A visit is counted as tried. -/
def State.visitTried (s : State) (d key : Nat) : State :=
  (s.modLeggett d fun l => l.memPass s.now).modLeggett d fun l => { l with memTry := tput 0 l.memTry key (tget 0 (s.die d).leggett.memTry key + 1) }

theorem State.die_modLeggett (s : State) (d : Nat) (f : Leggett → Leggett) : (s.modLeggett d f).die d = { s.die d with leggett := f (s.die d).leggett } := State.die_modDie ..

theorem State.scrubbable_of_bays {s t : State} (h : t.bays = s.bays) (d : Nat) (k : MemKind) (i : Nat) : t.scrubbable d k i = s.scrubbable d k i := by
  unfold State.scrubbable
  dsimp only
  simp only [State.bay_of_bays h]

theorem Leggett.memPass_during {l : Leggett} {now : Nat} (during : now < l.memAt + l.memPs) : l.memPass now = l := if_pos during

theorem State.die_visitTried {s : State} {d key : Nat} (pass : s.now < (s.die d).leggett.memAt + (s.die d).leggett.memPs) :
    (s.visitTried d key).die d =
      { s.die d with leggett := { (s.die d).leggett with memTry := tput 0 (s.die d).leggett.memTry key (tget 0 (s.die d).leggett.memTry key + 1) } } := by
  unfold State.visitTried
  rw [State.die_modLeggett, State.die_modLeggett, Leggett.memPass_during pass]

/-- What a visit that is due does, by whether it has a free cycle. -/
theorem exec_leggettMemVisit {s : State} {d i : Nat} {k : MemKind} {u su : Sys2Proof.Upset} {freeCycle : Bool} (visits : s.lgVisits d k i) :
    exec (.leggettMemVisit d k i u su freeCycle) s = .next (if ¬ freeCycle then
        (s.visitTried d (8192 * memKindNum k + i)).modLeggett d fun l => { l with memMiss := satInc l.memMiss }
      else
        let w := tget 0 (s.die d).leggett.memPos (8192 * memKindNum k + i) % memKindWords k
        let v := (s.visitTried d (8192 * memKindNum k + i)).modLeggett d fun l => { l with memPos := tmod 0 l.memPos (8192 * memKindNum k + i) (· + 1) }
        let r := match k with
          | .bram => v.scrubBram d i w u
          | .gq => v.scrubGq d i (w % max 1 (v.gq d i).entries.length) u su
          | k => v.scrubSlice d i k w u
        r.1.modLeggett d fun l =>
          { l with memCorr := if r.2.1 then satInc l.memCorr else l.memCorr, memUe := if r.2.2 then satInc l.memUe else l.memUe }) := by
  obtain ⟨inPart, inKind, runs, clock, pass, due, open_⟩ := visits
  refine congrArg Host.Outcome.next ?_
  have leggett : ((s.modLeggett d fun l => l.memPass s.now).die d).leggett = (s.die d).leggett := by
    rw [State.die_modLeggett, Leggett.memPass_during pass]
  have scrub : (s.modLeggett d fun l => l.memPass s.now).scrubbable d k i = true := (State.scrubbable_of_bays (s.bays_modLeggett d _) d k i).trans open_
  unfold Sys2Proof.Machine.leggettMemVisit State.visitTried
  dsimp only
  rw [if_neg (by rw [runs, clock]; simp [Nat.not_le.mpr inPart, Nat.not_le.mpr inKind]), leggett,
    if_neg (by rw [scrub]; exact fun h => h.elim (fun e => Nat.not_lt.mpr due e) fun e => e rfl)] <;> cases k <;> rfl

/-- A word that a visit strikes keeps its data, unless it finds two wrong bits. -/
theorem BramWord.struck_single {x : BramWord} {u : Sys2Proof.Upset} {raw : BitVec 64} (kind : u = .none ∨ u = .single) (one : x.health.hit u = .single) :
    (x.struck u raw).health = .single ∧ (x.struck u raw).data = x.data := by
  unfold BramWord.struck
  dsimp only
  split
  · next same => exact ⟨same.1.symm.trans one, rfl⟩
  · exact ⟨one, rfl⟩

theorem State.bram_of_die {s t : State} {d : Nat} (h : (t.die d).brams = (s.die d).brams) (i : Nat) : t.bram d i = s.bram d i := by
  unfold State.bram
  rw [h]

theorem State.leggett_modBram (s : State) (d i : Nat) (f : Bram → Bram) : ((s.modBram d i f).die d).leggett = (s.die d).leggett := by
  unfold State.modBram
  rw [State.die_modDie]

/-- A single wrong bit of a block memory's word is corrected in place. -/
theorem State.scrubBram_single {s : State} {d i w : Nat} {u : Sys2Proof.Upset} (kind : u = .none ∨ u = .single)
    (one : (tget markWord (s.bram d i).words w).health.hit u = .single) :
    (s.scrubBram d i w u).2 = (true, false) ∧ ((s.scrubBram d i w u).1.die d).leggett = (s.die d).leggett ∧
    tget markWord ((s.scrubBram d i w u).1.bram d i).words w = goodWord (tget markWord (s.bram d i).words w).data := by
  obtain ⟨health, data⟩ := BramWord.struck_single (raw := s.freeVal) kind one
  have own : scrubAlias w u 1024 = none := by rcases kind with rfl | rfl <;> rfl
  unfold State.scrubBram
  rw [own]
  dsimp only
  rw [health, if_neg (by decide), if_pos rfl, data]
  refine ⟨rfl, State.leggett_modBram .., ?_⟩
  rw [State.bram_modBram]
  exact tget_tput_same ..

theorem exec_leggettMemVisit_corrects {s : State} {d i : Nat} {u su : Sys2Proof.Upset} (visits : s.lgVisits d .bram i) (kind : u = .none ∨ u = .single)
    (below : tget 0 (s.die d).leggett.memPos i < 1024)
    (one : (tget markWord (s.bram d i).words (tget 0 (s.die d).leggett.memPos i)).health.hit u = .single) :
    ∃ t, exec (.leggettMemVisit d .bram i u su true) s = .next t ∧ (t.die d).leggett.memCorr = satInc (s.die d).leggett.memCorr ∧
      tget markWord (t.bram d i).words (tget 0 (s.die d).leggett.memPos i) = goodWord (tget markWord (s.bram d i).words (tget 0 (s.die d).leggett.memPos i)).data ∧
      tget 0 (t.die d).leggett.memPos i = tget 0 (s.die d).leggett.memPos i + 1 := by
  have run := exec_leggettMemVisit (u := u) (su := su) (freeCycle := true) visits
  have key : 8192 * memKindNum .bram + i = i := Nat.zero_add i
  have word : tget 0 (s.die d).leggett.memPos i % memKindWords .bram = tget 0 (s.die d).leggett.memPos i := Nat.mod_eq_of_lt below
  rw [if_neg (by decide), key] at run
  dsimp only at run
  rw [word] at run
  have tried := State.die_modLeggett (s.visitTried d i) d fun l => { l with memPos := tmod 0 l.memPos i (· + 1) }
  rw [State.die_visitTried visits.pass] at tried
  generalize (s.visitTried d i).modLeggett d (fun l => { l with memPos := tmod 0 l.memPos i (· + 1) }) = v at run tried
  have bram : v.bram d i = s.bram d i := State.bram_of_die (by rw [tried]) i
  obtain ⟨found, leggett, fixed⟩ := State.scrubBram_single (s := v) (d := d) (i := i) kind (by rw [bram]; exact one)
  rw [bram] at fixed
  rw [tried] at leggett
  generalize v.scrubBram d i (tget 0 (s.die d).leggett.memPos i) u = r at run found leggett fixed
  rw [found] at run
  refine ⟨_, run, ?_⟩
  rw [State.die_modLeggett, leggett]
  refine ⟨rfl, ?_, tget_tmod_same 0 (s.die d).leggett.memPos i (· + 1)⟩
  rw [State.bram_of_die (s := r.1) (by rw [State.die_modLeggett])]
  exact fixed

theorem exec_leggettMemVisit_misses {s : State} {d i : Nat} {k : MemKind} {u su : Sys2Proof.Upset} (visits : s.lgVisits d k i) :
    ∃ t, exec (.leggettMemVisit d k i u su false) s = .next t ∧ (t.die d).leggett.memMiss = satInc (s.die d).leggett.memMiss ∧
      (t.die d).leggett.memPos = (s.die d).leggett.memPos ∧ (t.die d).leggett.memCorr = (s.die d).leggett.memCorr := by
  refine ⟨_, exec_leggettMemVisit visits, ?_⟩
  rw [if_pos (by decide), State.die_modLeggett, State.die_visitTried visits.pass]
  exact ⟨rfl, rfl, rfl⟩

/-! ### A repair without a source (13 R361) -/

theorem exec_bayRepairStart_noSource {s : State} {d b : Nat} {rest : List (Nat × Nat)} (queue : s.cfg.repairQ = (d, b) :: rest) (running : s.gable.gstate = .running)
    (free : s.ctrlFree = true) (fence : s.fenced d = false) (known : (s.bay d b).ueKnown = true) (active : (s.bay d b).state = .active) (none_ : (s.bay d b).source = none) :
    exec .bayRepairStart s = .next ((s.modCfg fun c => { c with repairQ := rest }).startShut d b true true []) := by
  refine congrArg Host.Outcome.next ?_
  unfold Sys2Proof.Machine.bayRepairStart
  rw [queue]
  dsimp only
  have bay : (s.modCfg fun c => { c with repairQ := rest }).bay d b = s.bay d b := rfl
  have fence' : (s.modCfg fun c => { c with repairQ := rest }).fenced d = false := fence
  rw [if_neg (by rw [running, free]; decide), bay, if_neg (by rw [fence', known]; decide), if_pos (.inl active)]
  unfold State.repairBay
  rw [bay, none_]
  dsimp only
  rw [if_pos active]

theorem exec_bayRepairStart_leaves {s : State} {d b : Nat} {rest : List (Nat × Nat)} (queue : s.cfg.repairQ = (d, b) :: rest) (running : s.gable.gstate = .running)
    (free : s.ctrlFree = true) (fence : s.fenced d = false) (known : (s.bay d b).ueKnown = true) (active : (s.bay d b).state = .active) (none_ : (s.bay d b).source = none) :
    ∃ t, exec .bayRepairStart s = .next t ∧ t.cfg.repairQ = rest ∧ (t.bay d b).state = .shutting ∧ (t.bay d b).shutWipe = true ∧ (t.bay d b).clamped = true := by
  refine ⟨_, exec_bayRepairStart_noSource queue running free fence known active none_, ?_⟩
  have cfg : ((s.modCfg fun c => { c with repairQ := rest }).startShut d b true true []).cfg = { s.cfg with repairQ := rest } :=
    (State.startShut_steps (Steps.refl [.dies, .routers, .masters, .lad] (s.modCfg fun c => { c with repairQ := rest })) (by decide)).1 .cfg (by decide)
  rw [cfg, State.bay_startShut (s := s.modCfg fun c => { c with repairQ := rest }) active]
  exact ⟨rfl, rfl, rfl, rfl⟩

/-! ### The end of a drain (13 R353; 07 R203) -/

/-- A port whose drain has ended. -/
def State.portDrained (s : State) (d b : Nat) : State := (((s.disposeAtPort d b).dropRsps d b).reclaim d b).modBay d b fun x => { x with drained := true }

theorem State.disposed_frame (s : State) (d b : Nat) : Steps [.free, .routers, .masters, .log, .evr] s (((s.disposeAtPort d b).dropRsps d b).reclaim d b) :=
  State.reclaim_steps (State.dropRsps_steps (State.disposeAtPort_steps (Steps.refl _ s) (by decide)) (by decide)) (by decide)

theorem State.bay_portDrained (s : State) (d b : Nat) : (s.portDrained d b).bay d b = { s.bay d b with drained := true } := by
  unfold State.portDrained
  rw [State.bay_modBay, State.bay_of_bays (State.bays_of_frame (s.disposed_frame d b) (by decide))]

theorem State.fenced_portDrained (s : State) (d b : Nat) : (s.portDrained d b).fenced d = s.fenced d := by
  unfold State.portDrained State.fenced
  rw [State.die_modBay, State.die_of_frame (s.disposed_frame d b) (by decide)]

/-- The drain of a bay's port that ends. -/
structure State.drainEnds (s : State) (d b : Nat) : Prop where
  inPart : d < s.fdies
  inDie : b < 96
  drains : (s.bay d b).drained = false
  quiet : s.portQuiet d b = true

theorem portDrainEnd_of_ends {s : State} {d b : Nat} (ends : s.drainEnds d b) :
    portDrainEnd s d b = match (s.bay d b).state with
      | .shutting => (s.portDrained d b).shutEndBay d b
      | .restoring =>
        let r := (s.portDrained d b).releaseOrDown d b
        let s := r.1.endRun d b r.2 0
        if (s.bay d b).ueKnown then s.modCfg fun c => { c with repairQ := c.repairQ ++ [(d, b)] } else s
      | .loading => if (s.bay d b).ready then (s.portDrained d b).finishBay else s.portDrained d b
      | _ => s.portDrained d b := by
  obtain ⟨inPart, inDie, drains, quiet⟩ := ends
  unfold portDrainEnd
  dsimp only
  rw [if_neg (by rw [drains, quiet]; simp [Nat.not_le.mpr inPart, Nat.not_le.mpr inDie])]
  cases (s.bay d b).state <;> rfl

/-- The end of a shut-down whose bay holds nothing. -/
theorem State.bay_shutEndBay {s : State} {d b : Nat} (held : (s.bay d b).held = none) (source : (s.bay d b).noSrc = false) :
    ∃ x, (s.shutEndBay d b).bay d b = x ∧ x.drained = (s.bay d b).drained ∧ x.state = (if (s.bay d b).shutWipe then .empty else .down) ∧ x.shutCmds = [] ∧ x.held = none := by
  refine ⟨_, rfl, ?_⟩
  have base : ∃ u, (if (s.bay d b).shutWipe then s.emptyBay d b else s.modBay d b fun x => { x with state := .down }) = u ∧
      (u.bay d b).drained = (s.bay d b).drained ∧ (u.bay d b).state = (if (s.bay d b).shutWipe then .empty else .down) ∧ (u.bay d b).held = none := by
    refine ⟨_, rfl, ?_⟩
    by_cases wipe : (s.bay d b).shutWipe = true
    · rw [if_pos wipe, if_pos wipe, State.bay_emptyBay]
      exact ⟨rfl, rfl, held⟩
    · rw [if_neg wipe, if_neg wipe, State.bay_modBay]
      exact ⟨rfl, rfl, held⟩
  obtain ⟨u, is, drained, state, still⟩ := base
  unfold State.shutEndBay
  dsimp only
  rw [is, if_neg (by rw [source]; decide)]
  have ended := State.bay_modBay u d b fun x => { x with shutWipe := false, shutCmds := [] }
  generalize (u.modBay d b fun x => { x with shutWipe := false, shutCmds := [] }) = v at ended ⊢
  have told : (v.completeAll (s.bay d b).shutCmds stOk []).bay d b = v.bay d b :=
    State.bay_of_bays (State.bays_of_frame (State.completeAll_steps (Steps.refl [.gable, .evr] v) (by decide)) (by decide)) d b
  rw [State.judgeHeld_of_none (by rw [told, ended]; exact still), told, ended]
  exact ⟨drained, state, rfl, still⟩

theorem exec_portDrainEnd_shut {s : State} {d b : Nat} (ends : s.drainEnds d b) (shuts : (s.bay d b).state = .shutting) (held : (s.bay d b).held = none)
    (source : (s.bay d b).noSrc = false) :
    ∃ t, exec (.portDrainEnd d b) s = .next t ∧ (t.bay d b).drained = true ∧ (t.bay d b).state = (if (s.bay d b).shutWipe then .empty else .down) ∧
      (t.bay d b).shutCmds = [] := by
  have run : portDrainEnd s d b = (s.portDrained d b).shutEndBay d b := by rw [portDrainEnd_of_ends ends, shuts]
  have bay := s.bay_portDrained d b
  obtain ⟨x, is, drained, state, cmds, still⟩ := State.bay_shutEndBay (s := s.portDrained d b) (by rw [bay]; exact held) (by rw [bay]; exact source)
  rw [bay] at drained state
  refine ⟨_, congrArg (fun u => Host.Outcome.next (State.runHeld u)) run, ?_⟩
  rw [State.bay_runHeld (by rw [is]; exact still), is]
  exact ⟨drained, state, cmds⟩

/-- A restore whose drain has ended: the bay as its release, or its die's fence, leaves it. -/
theorem exec_portDrainEnd_restore {s : State} {d b : Nat} (ends : s.drainEnds d b) (restores : (s.bay d b).state = .restoring) (held : (s.bay d b).held = none) :
    ∃ t, exec (.portDrainEnd d b) s = .next t ∧
      t.bay d b = { (if s.fenced d = true then { s.bay d b with drained := true, state := .down, repair := false, ready := false } else ({ s.bay d b with drained := true } : Bay).release)
        with runCmd := none } := by
  have released : (((s.portDrained d b).releaseOrDown d b).1).bay d b =
      if s.fenced d = true then { s.bay d b with drained := true, state := .down, repair := false, ready := false } else ({ s.bay d b with drained := true } : Bay).release := by
    unfold State.releaseOrDown
    rw [s.fenced_portDrained]
    by_cases fence : s.fenced d = true
    · rw [if_pos fence, if_pos fence, State.bay_modBay, s.bay_portDrained]
    · rw [if_neg fence, if_neg fence, State.bay_releaseBay, s.bay_portDrained]
  have run : portDrainEnd s d b = if ((((s.portDrained d b).releaseOrDown d b).1.endRun d b ((s.portDrained d b).releaseOrDown d b).2 0).bay d b).ueKnown then
        (((s.portDrained d b).releaseOrDown d b).1.endRun d b ((s.portDrained d b).releaseOrDown d b).2 0).modCfg fun c => { c with repairQ := c.repairQ ++ [(d, b)] }
      else ((s.portDrained d b).releaseOrDown d b).1.endRun d b ((s.portDrained d b).releaseOrDown d b).2 0 := by rw [portDrainEnd_of_ends ends, restores]
  have done := ((s.portDrained d b).releaseOrDown d b).1.bay_endRun d b ((s.portDrained d b).releaseOrDown d b).2 0
  rw [released] at done
  generalize ((s.portDrained d b).releaseOrDown d b).1.endRun d b ((s.portDrained d b).releaseOrDown d b).2 0 = u at run done
  have bay : ∃ v, portDrainEnd s d b = v ∧ v.bay d b = u.bay d b := by
    refine ⟨_, rfl, ?_⟩
    rw [run]
    split
    · rfl
    · rfl
  obtain ⟨v, is, same⟩ := bay
  refine ⟨_, congrArg (fun u => Host.Outcome.next (State.runHeld u)) is, ?_⟩
  have still : (v.bay d b).held = none := by
    rw [same, done]
    by_cases fence : s.fenced d = true
    · rw [if_pos fence]; exact held
    · rw [if_neg fence]; exact held
  rw [State.bay_runHeld still, same, done]

end Sys2Proof.Machine

open Sys2Proof Sys2Proof.Machine

/-- Settles O11: the scrub's read and visit are followed to the frame or word they judge, the drain's end to the state it found the bay in; a held
command of another bay that runs then leaves this one alone. -/
theorem scrubsAndDrains : Obligations.scrubsAndDrains := by
  unfold Obligations.scrubsAndDrains
  refine ⟨?_, ?_, ?_, ?_, ?_, ?_, ?_, ?_, ?_, ?_⟩
  · rintro s d ⟨inPart, runs, clock, pass, due, more, kept, clean⟩
    refine ⟨_, exec_leggettFrameRead (State.lgReads_pass inPart runs clock pass due kept), ?_⟩
    rw [State.frame_clean clean, State.die_lgAdvanced, Leggett.advance_pass pass more]
    exact ⟨rfl, rfl⟩
  · rintro s d i e rest ⟨inPart, runs, clock, first, kept, clean⟩
    have reads : s.lgReads d i := by
      refine ⟨inPart, runs, clock, by unfold Leggett.current; rw [first], ?_, kept⟩
      unfold Leggett.slotAt
      rw [first, if_neg (by simp)]
      exact Nat.zero_le _
    refine ⟨_, exec_leggettFrameRead reads, ?_⟩
    rw [State.frame_clean clean, State.die_lgAdvanced]
    unfold Leggett.advance
    rw [first]
    exact ⟨rfl, rfl⟩
  · rintro s d w ⟨inPart, runs, clock, pass, due, more, kept, clean, word⟩
    have moved := s.die_lgAdvanced d
    rw [Leggett.advance_pass pass more] at moved
    obtain ⟨frames, a, q, leggett⟩ := State.frame_single (s := s.lgAdvanced d) (d := d) (i := (s.die d).leggett.frame) (by rw [moved]; exact clean) word
    refine ⟨_, exec_leggettFrameRead (State.lgReads_pass inPart runs clock pass due kept), ?_⟩
    rw [leggett, moved]
    exact ⟨rfl, rfl, rfl, fun k => (frames k).trans (by rw [moved])⟩
  · rintro s d b ⟨inPart, runs, clock, pass, due, more, kept, bay⟩
    have moved := s.die_lgAdvanced d
    rw [Leggett.advance_pass pass more] at moved
    obtain ⟨⟨w, leggett⟩, known⟩ := State.frame_double (s := s.lgAdvanced d) (d := d) bay
    refine ⟨_, exec_leggettFrameRead (State.lgReads_pass inPart runs clock pass due kept), ?_⟩
    rw [leggett, moved, known, State.bay_of_bays (show (s.lgAdvanced d).bays = s.bays from s.bays_modLeggett d _)]
    exact ⟨rfl, rfl, rfl, rfl⟩
  · rintro s d i u su ⟨kind, inPart, inKind, runs, clock, pass, due, open_, below, one⟩
    exact exec_leggettMemVisit_corrects ⟨inPart, inKind, runs, clock, pass, by rw [show 8192 * memKindNum .bram + i = i from Nat.zero_add i]; exact due, open_⟩ kind below one
  · rintro s d i k u su ⟨inPart, inKind, runs, clock, pass, due, open_⟩
    exact exec_leggettMemVisit_misses ⟨inPart, inKind, runs, clock, pass, due, open_⟩
  · rintro s d b rest ⟨queue, running, free, fence, known, active, none_⟩
    exact exec_bayRepairStart_leaves queue running free fence known active none_
  · rintro s d b ⟨inPart, inDie, drains, quiet, shuts, held, source⟩
    exact exec_portDrainEnd_shut ⟨inPart, inDie, drains, quiet⟩ shuts held source
  · rintro s d b ⟨inPart, inDie, drains, quiet, restores, held, fence⟩
    obtain ⟨t, run, bay⟩ := exec_portDrainEnd_restore ⟨inPart, inDie, drains, quiet⟩ restores held
    refine ⟨t, run, ?_⟩
    rw [bay, if_neg (by rw [fence]; decide)]
    exact ⟨rfl, rfl, rfl, rfl⟩
  · rintro s d b ⟨inPart, inDie, drains, quiet, restores, held, fence⟩
    obtain ⟨t, run, bay⟩ := exec_portDrainEnd_restore ⟨inPart, inDie, drains, quiet⟩ restores held
    refine ⟨t, run, ?_⟩
    rw [bay, if_pos fence]
    exact ⟨rfl, rfl⟩
end
